-- ==== Sys2Proof/Word.lean ====
section
/-! DEFINITION. The machine's plainest values: a 64-byte line, a byte-enable mask for it, and the operand
records that several commands carry. -/

namespace Sys2Proof

/-- One 64-byte line; byte k is bits 8k+7..8k (Table 01.3: offset[5:0] selects the byte). -/
abbrev Line := BitVec 512

/-- Byte enables of a line: bit k enables byte k. -/
abbrev Mask := BitVec 64

/-- An SGL entry as read: address, length and reserved bits (Table 06.3). -/
structure SglE where
  addr : Nat
  len : Nat
  rsv : Nat
deriving DecidableEq, Repr

/-- A configuration copy (R448, Table 19.3): SEQ, TARGET_UID, whether the form, CRC, owner hash and
signature checks of R449 pass, the register entries (offset, mask, value), the repair map as Table 12.3
words, and the disable list (slice, whole slice, way mask). -/
structure Copy where
  seq : Nat
  target : Nat
  sound : Bool
  entries : List (Nat × Nat × Nat)
  repair : List Nat
  disable : List (Nat × Bool × Nat)
deriving DecidableEq, Repr

/-- A carrier's identity EEPROM and format blocks (R272, R273, R286): CARRIER_UID, the binding record's
ARRAY_ID (0 when blank) and slot, whether its figures lie within Table 11.1, whether the EEPROM can be read,
interface, data rate, dies per channel and PE_RATED; and per channel of the carrier good data blocks, retired
blocks and the mean and highest program/erase cycles. -/
structure Carrier where
  uid : Nat
  array : Nat
  slot : Nat
  mediaOk : Bool
  readable : Bool
  toggle : Bool
  mts : Nat
  dies : Nat
  peRated : Nat
  good : List Nat
  bad : List Nat
  peAvg : List Nat
  peMax : List Nat
deriving DecidableEq, Repr

/-- What the checkers of the front cache and the cipher engine find while a line is served: a corrected or
an uncorrectable word of a way (slice, way, and for the latter the set), both tag copies of a slice failed
(R237, R238), or a parity mismatch of a cipher cluster, `dead` when the block fails all its re-runs (R376,
R377). -/
inductive SramEv where
  | ce (slice way : Nat)
  | ue (slice way set : Nat)
  | tag (slice : Nat)
  | cluster (n : Nat) (dead : Bool)
deriving DecidableEq, Repr

/-- A RoCEv2 packet as it arrives (Tables 14.2 and 14.5): the port, destination addresses, DestQP, BTH opcode,
PSN, AckReq, the SETTLE, FIN and CE marks, the RETH or AtomicETH fields, the payload, and (the model's operand)
object lines that fail every rung of the recovery ladder while the packet is served. -/
structure Pkt where
  port : Nat
  mac : Nat
  v6 : Bool
  ip : Nat
  qpn : Nat
  op : Nat
  psn : Nat
  ackReq : Bool
  settle : Bool
  fin : Bool
  ce : Bool
  rkey : Nat
  va : Nat
  len : Nat
  swap : Nat
  cmp : Nat
  data : List Nat
  bad : List Nat
deriving DecidableEq, Repr

/-- What training finds of a channel (R246, R262, R263): whether DIMMs are present, DIMM_TYPE, DIMMs and ranks
per channel, device density, CH_CAP_GIB, the SPD rating, whether every lane's eyes are wide enough at the present rate, whether its
DIMMs offer DRFM, the SPD serial number by rank, and per lane RD_CENTRE, WR_CENTRE, VREF_RD and EYE_STEPS. -/
structure ChTrain where
  present : Bool
  typ : Nat
  dimms : Nat
  ranks : Nat
  dens : Nat
  cap : Nat
  spd : Nat
  pass : Bool
  drfm : Bool
  sn : List Nat
  lanes : List (Nat × Nat × Nat × Nat)
deriving DecidableEq, Repr

/-- A firmware image as an SPI device holds it (R391): the root hash its public key matches (4 or more: none), its
SVN, whether signature and digest verify, and the digest. -/
structure Img where
  root : Nat
  svn : Nat
  sound : Bool
  digest : Nat
deriving DecidableEq, Repr

/-- What the start-up tests find before the board phase (Table 18.1): DDR5_NET and NAND_NET failures by channel,
failing ways as (slice, way), and the result entries as (first word, FAIL_MASK). -/
structure StartIn where
  ddr : Nat
  nand : Nat
  ways : List (Nat × Nat)
  results : List (Nat × Nat)
deriving DecidableEq, Repr

/-- What the end of training and the load of the metadata find: per channel what training found, repair entries
that find no resource or fail their re-check, whether a copy of the key table passes its check, and the clusters
that fail their known-answer test. -/
structure TrainIn where
  chans : List ChTrain
  ppr : List Nat
  keysOk : Bool
  kat : Nat
deriving DecidableEq, Repr

/-- A failure of an online row test (Table 18.3): subchannel, device, burst, step of Table 18.2, failing bits. -/
structure RowFail where
  sub : Nat
  dev : Nat
  burst : Nat
  step : Nat
  mask : Nat
deriving DecidableEq, Repr

/-- A queued DRAM request whose next command meets every timing rule at a command slot (R254): its line, a write or a
read, whether its row is open, and whether that command is its column command. -/
structure DRdy where
  la : Nat
  wr : Bool
  hit : Bool
  col : Bool
deriving DecidableEq, Repr

/-- A command slot of a subchannel (R254): its channel and subchannel, its time in ns from the start of the tick, and
the requests that are ready. -/
structure DSlot where
  ch : Nat
  sub : Nat
  ofs : Nat
  ready : List DRdy
deriving DecidableEq, Repr

/-- What the engines find in a tick: the sensed store voltage at the divider's output in mV (negative when reversed), the sixteen die sensors, the filtered power-good
inputs, the online test's failures of this slice by unit (rows), of a marched way group as (row, way) and of a
cluster, the scrub's errors as (line, correctable devices, uncorrectable), the repairs that find a resource as
(channel, entry), each channel's sliced-retrain results and a line of the row trained in, and the command slots of the DRAM subchannels in the tick that
ends, in order. -/
structure TickIn where
  mv : Int
  die : List Nat
  pg : Nat
  rows : List RowFail
  ways : List (Nat × Nat)
  katBad : Bool
  scrub : List (Nat × List Nat × List Nat)
  repair : List (Nat × Nat)
  retrain : List (Nat × Nat × Nat × Nat)
  slots : List DSlot
deriving DecidableEq, Repr

end Sys2Proof
end

