-- ==== Sys2Proof/Machine/Smap.lean ====
section
/-! DEFINITION. Sparse tables: a list of key and value pairs with keys strictly rising (log entry 3),
and the bit-field helpers every file uses. -/

namespace Sys2Proof.Machine

/-- A key of two numbers, ordered lexicographically. -/
abbrev Key := Nat × Nat

/-- A sparse table; `mwf` says the canonical form. -/
abbrev SMap (β : Type) := List (Key × β)

/-- Strict lexicographic order of keys. -/
def keyLt (a b : Key) : Bool := a.1 < b.1 || (a.1 == b.1 && a.2 < b.2)

/-- The value at a key. -/
def mget {β : Type} (m : SMap β) (k : Key) : Option β :=
  match m with
  | [] => none
  | (k', v) :: r => if k' = k then some v else mget r k

/-- Set the value at a key, keeping the keys rising. -/
def mput {β : Type} (m : SMap β) (k : Key) (v : β) : SMap β :=
  match m with
  | [] => [(k, v)]
  | (k', v') :: r =>
    if keyLt k k' then (k, v) :: (k', v') :: r
    else if k' = k then (k, v) :: r
    else (k', v') :: mput r k v

/-- Remove a key. -/
def mdel {β : Type} (m : SMap β) (k : Key) : SMap β :=
  match m with
  | [] => []
  | (k', v') :: r => if k' = k then r else (k', v') :: mdel r k

/-- Keep the entries a test accepts. -/
def mfilter {β : Type} (m : SMap β) (p : Key → β → Bool) : SMap β :=
  m.filter fun e => p e.1 e.2

/-- The canonical form: keys strictly rising. -/
def mwf {β : Type} : SMap β → Bool
  | [] => true
  | [_] => true
  | a :: b :: r => keyLt a.1 b.1 && mwf (b :: r)

/-- Bits hi..lo of a number, lo and the width given. -/
def bits (v lo w : Nat) : Nat := (v >>> lo) % 2 ^ w

/-- One bit of a number. -/
def bit (v i : Nat) : Bool := v.testBit i

/-- A Bool as 0 or 1. -/
def b2n (b : Bool) : Nat := if b then 1 else 0

/-- Replace w bits at lo. -/
def setBits (v lo w x : Nat) : Nat :=
  v - (bits v lo w) * 2 ^ lo + (x % 2 ^ w) * 2 ^ lo

/-- Set or clear one bit. -/
def setBit (v i : Nat) (b : Bool) : Nat := setBits v i 1 (b2n b)

/-- Ceiling division. -/
def cdiv (a b : Nat) : Nat := (a + b - 1) / b

/-- The list without the entries equal to x. -/
def without (l : List Nat) (x : Nat) : List Nat := l.filter (· != x)

/-- The list with x added at the end unless it holds x. -/
def withNat (l : List Nat) (x : Nat) : List Nat := if l.contains x then l else l ++ [x]

/-- The number of set bits among the lowest n. -/
def popCount (v n : Nat) : Nat := ((List.range n).filter (v.testBit ·)).length

end Sys2Proof.Machine
end

