-- ==== Sys2Proof/Machine/Wire.lean ====
section
/-! DEFINITION. What travels between the twins and in the metadata journal: page states, ledger, frame-map
and window entries, journal changes, settlement records and bring-up frames. -/

namespace Sys2Proof.Machine

/-- The page states of Table 07.5. -/
inductive PgSt where
  | zero | t1 | t2 | t3 | fetching | leaving
deriving DecidableEq, Repr

/-- A frame-map entry (Table 07.4, R172); `cp` is CP_STATE, 2 bits per code page. -/
structure MapE where
  st : PgSt
  t3Bound : Bool
  frame : Nat
  home : Nat
  cp : Nat
  vaultIx : Nat
  t3Ld : Nat
  t3Link : Nat
  t3Addr : Nat
deriving DecidableEq, Repr

/-- A ledger entry (Table 07.2, R166); its key in the ledger is OBJ_ID. -/
structure Obj where
  owner : Nat
  kind : Nat
  attr : Nat
  tweak : Nat
  size : Nat
  mapBase : Nat
  winCnt : Nat
  holdMap : Nat
deriving DecidableEq, Repr

/-- A window-table entry (Table 07.3, R170); its key is (16 * link + LD, DPA_PN). -/
structure Win where
  ro : Bool
  obj : Nat
  wlen : Nat
  objPn : Nat
deriving DecidableEq, Repr

/-- A dynamic-capacity extent in 256 MiB blocks (R91). -/
structure Extent where
  link : Nat
  ld : Nat
  start : Nat
  len : Nat
deriving DecidableEq, Repr

/-- One change of a metadata-journal entry (R41). -/
inductive JOp where
  | obj (id : Nat) (v : Option Obj)
  | map (ix : Nat) (v : Option MapE)
  | win (k : Key) (v : Option Win)
  | idPtr (n : Nat)
  | ssnEnd (n : Nat)
  | roles (senior : Bool)
  | tookOver (b : Bool)
  | extents (l : List Extent)
deriving DecidableEq, Repr

/-- The kinds of settlement record of Table 13.4. -/
inductive RTy where
  | data | md | atomic | commit
deriving DecidableEq, Repr

/-- A settlement record (R328) with its lane sequence number; `lines` pairs a line number within the
code page with its data; `ops` are a META record's journal changes; `doms` are the domains whose writes
it carries (for R38); `resync` marks resync records. -/
structure MRec where
  ssn : Nat
  obj : Nat
  lane : Nat
  ty : RTy
  cpage : Nat
  poison : Nat
  mask : Nat
  lines : List (Nat × Line)
  ops : List JOp
  lsn : Nat
  doms : List Nat
  resync : Bool
deriving DecidableEq, Repr

/-- What a HELLO carries (Table 13.3 step 2). -/
structure Hello where
  uid : Nat
  pair : Nat
  side : Nat
  port : Nat
  ports : Nat
  half : Bool
  state : Nat
  abrupt : Bool
  tookOver : Bool
deriving DecidableEq, Repr

/-- The step-5 exchange of bring-up (Table 13.3): the partner's solo-map pages, the objects it took over each
with the new ID it chose if the object diverged (else 0), its SSN_ISSUED, and whether this 8120 is a new partner to it
(R344). -/
structure Exch where
  solo : List Key
  taken : List (Nat × Nat)
  ssn : Nat
  fresh : Bool
deriving DecidableEq, Repr

end Sys2Proof.Machine
end

