-- ==== Sys2Proof/Syntax.lean ====
section
/-! DEFINITION. The commands that the 8120 takes: one constructor per row of spec/opcode_table.json, in the table's
order, with the row's operands. Where an operand says what a command meets outside the model (data a device returns,
lines that fail, a test's outcome), the docstring of the command's meaning names it. -/

namespace Sys2Proof

/-- A command: an access, a request, a frame or packet received, an event on a pin or a bus, or the end of an engine's
work. -/
inductive Instr where
  /-- R13: The tick generator's period expires, and the ordered actions of Table 01.2 run within 1.5 µs. -/
  | tickBoundary (x : TickIn)
  /-- R21: A CXL.mem read is translated and served from the front cache, DRAM or a demand fetch, or is answered with poison when unmapped. -/
  | cxlMemRead (link ld dpa mty tag : Nat) (ev : List SramEv)
  /-- R19: A CXL.mem write is translated, charged to float, written into the front cache and any open settlement record, and then completed. -/
  | cxlMemWrite (link ld dpa mty tag : Nat) (data : Line) (mask : Mask) (poison : Bool)
  /-- R103: A CXL.mem write to an LD's settle page requests a settle fence for the LD's domain and withholds its completion. -/
  | settlePageStore (link ld tag : Nat)
  /-- R40: A settle-page store's completion is released 1 ms after the store when its fence has not completed. -/
  | settlePageTimeout (link ld tag : Nat)
  /-- R93: A host write arriving for a line with an outstanding snoop bypasses range holds and takes effect before the snooping operation. -/
  | snoopWriteBack (link ld dpa mty tag : Nat) (data : Line) (mask : Mask) (poison : Bool)
  /-- R93: A host's BIRsp removes the link from the snoop-filter entry and lets the operation that issued the snoop continue. -/
  | birsp (link la : Nat)
  /-- R94: No BIRsp arrives within BI_TIMEOUT_MS, so the host's copy is marked lost and the snooping operation continues. -/
  | biTimeout (link la : Nat)
  /-- R39: GPF phase 2 begins, and one settle fence is accepted for each domain bound to an LD of the port. -/
  | gpfPhase2 (port : Nat)
  /-- R39: GPF phase 2 ends 1 ms after it began, and a Daybook record is raised for each affected domain. -/
  | gpfPhase2Timeout (port : Nat)
  /-- R90: A host commits an HDM decoder, and a commit with an unlisted interleave fails; `n` is the decoder, 0 or 1, with 2
  added when the host locks it on commit. -/
  | hdmDecoderCommit (link ld n base size ways gran : Nat)
  /-- R95: IDE_KM delivers the keys of an IDE stream in an SPDM session. -/
  | ideKmKeyProg (link key : Nat) (isMem : Bool)
  /-- R95: An IDE MAC check fails, so the requests of the failed MAC epoch are discarded and the stream becomes insecure. -/
  | ideMacFail (link : Nat) (isMem : Bool) (tags : List Nat)
  /-- R107: Assertion of Pn_PERST_N drops Pn_RDY, discards responses and benched writes, and clears the port's queue pairs. -/
  | perstAssert (port : Nat)
  /-- R83: Release of Pn_PERST_N latches SPLIT_ACT and starts link training. -/
  | perstRelease (port : Nat)
  /-- R84: A link finishes training at its chosen rate and width. -/
  | linkUp (link rate lanes polarity : Nat) (reversed flit256 : Bool)
  /-- R85: A link enters recovery and steps down one rate when RETRAIN_LIMIT is exceeded within 1 s. -/
  | linkRecoveryEntry (link recent : Nat)
  /-- R85: A LINK_RETRAIN write retrains the link at the highest allowed rate. -/
  | linkRetrain (link rate : Nat)
  /-- R86: Setting PORT_OFFLINE holds the port's links in reset, and clearing it starts training again. -/
  | portOfflineWrite (port : Nat) (v : Bool)
  /-- R453: Every start-up condition holds, so Pn_RDY rises and refill and map-block loading begin. -/
  | pnRdyRise (port : Nat)
  /-- R453: 4 s after Pn_PERST_N release without Pn_RDY, the first unmet condition is recorded and Pn_RDY stays low. -/
  | pnRdyTimeout (port : Nat)
  /-- R81: A mailbox Identify command is answered. -/
  | identify (link ld : Nat)
  /-- R96: A mailbox command returns the General Media and DRAM event records. -/
  | getEventRecords (link ld : Nat)
  /-- R81: A mailbox command returns the poison list. -/
  | getPoisonList (link ld : Nat)
  /-- R484: A mailbox command returns the health information, including the device temperature. -/
  | getHealthInfo (link ld : Nat)
  /-- R81: A mailbox timestamp command is served. -/
  | setTimestamp (value : Nat)
  /-- R91: An FM API command adds a dynamic-capacity extent to an LD, or fails beyond 256 extents. -/
  | initiateDynamicCapacityAdd (link ld start len : Nat)
  /-- R91: A host or FM release of an extent writes back and removes its windows and leaves its DPAs unmapped. -/
  | dynamicCapacityRelease (link ld start len : Nat)
  /-- R87: FM API vendor command 0xC001 binds an LD to a domain, with the same effect as a DOMAIN write. -/
  | bindLdDomain (link ld dom : Nat)
  /-- R289: FM API vendor command 0xC002 erases a carrier's binding record and makes the carrier blank. -/
  | unbindCarrier (slot : Nat)
  /-- R459: FM API vendor command 0xC003 reads or writes a domain-0 part of BAR0 over MCTP. -/
  | registerAccess (ep ofs size : Nat) (data : Option Nat) (x : Nat)
  /-- R118: A write of SQ_TAIL announces new SQEs, or is ignored and sets DB_ERR when it is invalid. -/
  | sqTailDoorbell (q t : Nat)
  /-- R119: A write of CQ_HEAD frees completion entries, or is ignored when it lies outside the valid span. -/
  | cqHeadDoorbell (q h : Nat)
  /-- R112: A write of 1 to QP_EN enables the queue pair when its checks pass and resets its indices, and otherwise sets CFG_ERR. -/
  | qpEnWrite (q : Nat) (v : Bool)
  /-- R129: A QP_RESET write stops fetching, discards waiting commands and starts the queue reset of Table 05.3. -/
  | qpReset (q : Nat)
  /-- R129: 2 ms after a queue reset began, every remaining dispatched command stops at a line boundary and is posted with CUT. -/
  | queueResetCut (q : Nat)
  /-- R122: The fetcher chooses an eligible queue pair, copies up to 8 SQEs, runs the format checks and enters range locks. -/
  | sqeFetch (aged : List Nat) (sqes : List (List Nat))
  /-- R138: A waiting command whose locks are granted and which has an execution slot is dispatched, and its state checks run. -/
  | commandDispatch (sglErr : Bool) (sgl : List SglE)
  /-- R115: A command finishes, and its CQE is written and its range locks are released. -/
  | commandComplete
  /-- R121: The oldest unsignalled CQE has waited COAL_US, so the MSI-X message is sent. -/
  | coalesceTimeout (q : Nat)
  /-- R133: A ring DMA ends in an error completion or a timeout, so QP_ERR sets and fetching stops. -/
  | ringDmaError (q : Nat) (onResetDone : Bool)
  /-- R145: The READ command copies an object range into the host buffer. -/
  | read (uid : Nat) (bad : List Nat) (stop : Option Nat)
  /-- R146: The WRITE command copies the host buffer into an object range. -/
  | write (uid : Nat) (data pois bad : List Nat) (stop : Option Nat)
  /-- R150: The WRITE_ATOMIC command writes up to 1 MiB through escrow frames and commits it by one frame-map switch. -/
  | writeAtomic (uid : Nat) (data bad : List Nat) (stop : Bool)
  /-- R147: The COPY command copies a source range to a destination range. -/
  | copy (uid : Nat) (bad : List Nat)
  /-- R148: The FILL command writes an 8 B pattern over a range. -/
  | fill (uid : Nat) (bad : List Nat)
  /-- R152: The SETTLE command requests a settle fence for its queue pair's domain and completes when the fence resolves. -/
  | settle (uid : Nat)
  /-- R153: The OBJ_CREATE command enters a new object in the ledger. -/
  | objCreate (uid : Nat)
  /-- R154: The OBJ_DELETE command removes an object with its windows, holds, stream moves and frames. -/
  | objDelete (uid : Nat)
  /-- R155: The OBJ_RESIZE command sets a new object size, freeing or reserving tier pages. -/
  | objResize (uid : Nat)
  /-- R156: The OBJ_ATTR command changes the permitted attribute bits of an object. -/
  | objAttr (uid : Nat)
  /-- R157: The WINDOW_MAP command maps an object range at a DPA of an LD. -/
  | windowMap (uid : Nat)
  /-- R157: The WINDOW_UNMAP command removes a window, with back-invalidates. -/
  | windowUnmap (uid : Nat)
  /-- R158: The PLACE command queues moves of a range to a tier. -/
  | place (uid : Nat)
  /-- R159: The HOLD command records the domain's hold on an object and promotes the whole object. -/
  | hold (uid : Nat)
  /-- R159: The RELEASE command drops the issuing domain's hold on an object. -/
  | release (uid : Nat)
  /-- R160: The STREAM_POST command reads and checks a schedule list and runs it as a stream. -/
  | streamPost (uid : Nat) (dmaErr : Bool) (list : List (List Nat))
  /-- R160: The STREAM_CANCEL command cancels a stream's moves that have not begun. -/
  | streamCancel (uid : Nat)
  /-- R161: The SEAL command exports an object range as AES-GCM ciphertext and tag. -/
  | seal (uid : Nat) (bad : List Nat) (stop : Option Nat)
  /-- R162: The UNSEAL command decrypts and verifies a sealed range into escrow frames and then writes it. -/
  | unseal (uid : Nat) (data bad : List Nat) (dmaErr : Bool)
  /-- R163: The LOG_READ command copies whole Daybook records into a host buffer as a consistent snapshot. -/
  | logRead (uid : Nat) (stop : Option Nat)
  /-- R164: The NOP command has no effect and completes with OK. -/
  | nop (uid : Nat)
  /-- R62: A write or journal entry waiting on float has its charge admitted once float is released, and it proceeds. -/
  | floatChargeAdmitted
  /-- R74: A domain's oldest waiting write or fence reaches 1 ms, so STALLED sets with a Daybook record and ALERT_N. -/
  | stall (dom : Nat) (fence : Bool)
  /-- R65: HOLDUP_MV has stayed at or above floor plus hysteresis for 100 ms, so the floor comparator arms. -/
  | floorComparatorArmed
  /-- R65: The armed comparator senses the store at or below the floor for 4 µs and triggers the drain. -/
  | holdupFloorCrossing
  /-- R66: The 1 s poll reads the charger's READ_VOUT and sets or clears HOLDUP_SNS_FAULT. -/
  | holdupPmbusPoll (mv : Nat)
  /-- R412: The sense has read above full scale for 1 ms, so SNS_OPEN sets or clears. -/
  | snsOpen (v : Bool)
  /-- R412: The sense has read below −50 mV for 1 ms, so SNS_NEG and HOLDUP_REVERSED set or clear. -/
  | snsNeg (v : Bool)
  /-- R66: Setting HOLDUP_INVERT inverts the sense and clears HOLDUP_REVERSED. -/
  | holdupInvertWrite (v : Bool)
  /-- R67: A CCAL_NOW write starts a capacitance calibration cycle unless it is busy or disabled. -/
  | ccalNow (vset : Nat)
  /-- R67: CCAL_INTERVAL_H hours have passed, so a capacitance calibration cycle starts. -/
  | ccalInterval (vset : Nat)
  /-- R67: HOLDUP_MV reaches CCAL_LO_MV, so VOUT_COMMAND is restored and charge integration begins. -/
  | ccalDischarged
  /-- R67: The discharge has lasted 600 s, so the cycle is abandoned and VOUT_COMMAND is restored. -/
  | ccalAbandon
  /-- R67: The 1 ms poll reads READ_IOUT and adds it to the charge Q. -/
  | ccalIoutPoll (ma : Nat)
  /-- R67: HOLDUP_MV returns to V1, or to floor plus hysteresis in the start-up cycle, so C_new is computed and range-checked. -/
  | ccalRecharged
  /-- R70: A VCAL_NOW write schedules a rehearsal at the next tick boundary. -/
  | vcalNow
  /-- R70: A rehearsal starts at the VCAL interval, or at the boundary after VCAL_NOW, and programs 64 MiB as vault stripes. -/
  | rehearsal
  /-- R70: The rehearsal's last program status returns, and DRAIN_RATE_LAST and DRAIN_RATE_CAL are updated. -/
  | rehearsalDone (rate : Nat)
  /-- R69: A MEAS_CLR write sets DRAIN_POWER_MEAS_W to 0. -/
  | measClr
  /-- R77: PFAIL_N stays low for 0.5 µs, triggering a drain or taking a drain with the rails up onto the store's energy. -/
  | pfailNFall
  /-- R78: PFAIL_N rises, and a drain in progress runs to its end as on main power. -/
  | pfailNRise
  /-- R77: SYS_RST_N asserts and triggers a drain that leaves the rails up. -/
  | sysRstNAssert
  /-- R465: SYS_RST_N deasserts, and the start-up after a rails-up drain begins. -/
  | sysRstNDeassert
  /-- R77: A DRAIN_NOW write triggers a drain that leaves the rails up. -/
  | drainNow
  /-- R242: Every dirty line has reached DRAM, so drain step 3 begins draining the float to the vault. -/
  | drainWritebackDone
  /-- R55: Every charged page is in the vault, so step 4a writes the journal, the vault index and the solo map. -/
  | drainFloatDone (bad : List Nat)
  /-- R55: Step 4a ends, so the drain power is computed and the vault seal is written. -/
  | drainMetadataDone (v4a us : Nat)
  /-- R55: The vault seal is written, so the Daybook flushes to both SPI devices. -/
  | vaultSealWritten
  /-- R190: The fetched chunks are written into the frame, the page becomes T1 and attached accesses are released. -/
  | demandFetchDone (obj tp us : Nat) (bad : List Nat) (rd : List (Nat × Nat × Bool)) (t3 : List (Nat × Line)) (sent : List Nat)
  /-- R173: The frame of a ZERO page is filled with encrypted zero lines and the page becomes T1; `tp` is the tier page with
  2^32 times the microseconds that the fill took added. -/
  | zeroFillDone (obj tp : Nat)
  /-- R191: A demand fetch exceeds 1 ms, so OVER_BOUND sets with a Daybook record. -/
  | overBound (obj tp : Nat)
  /-- R194: A T3 fetch's DMA read fails or times out, so attached accesses are answered as uncorrectable. -/
  | t3FetchFail (obj tp : Nat)
  /-- R183: A frame request has waited 1 ms, so POOL_DRY sets with a Daybook record and ALERT_N. -/
  | poolDry
  /-- R184: Every 60 s the residency checkpoint of data and replica frames is written to NAND. -/
  | residencyCheckpoint
  /-- R169: The tier engine moves one step of 4,096 frame-map entries to compact object runs. -/
  | runCompactionStep
  /-- R201: A tracker entry is free, so the next eviction, stream, placement or refill move begins. -/
  | moveBegin (words : List (List Nat))
  /-- R197: A promotion's data has been read, and INSTALL writes it into the frame. -/
  | moveLoadDone (obj tp : Nat) (bad : List Nat) (rd : List (Nat × Nat × Bool)) (t3 : List (Nat × Line)) (sent : List Nat)
  /-- R197: The installed page becomes T1 and the move is done. -/
  | moveInstallDone (obj tp : Nat)
  /-- R197: CLEAN has written back and invalidated the page, so the demotion finishes or goes on to UNLOAD. -/
  | moveCleanDone (obj tp : Nat)
  /-- R202: The zero-length read after the slot writes completes, so the page becomes T3, or a failed write abandons the move. -/
  | moveUnloadDone (obj tp : Nat) (ok : Bool)
  /-- R206: An entry's START_US passes, so its moves are queued. -/
  | streamEntryStart (d sid : Nat)
  /-- R226: An eviction's write enters the write queue, so its miss register frees or passes to FILL. -/
  | missEvictQueued (la : Nat) (ev : List SramEv)
  /-- R225: A fill's line returns and is checked and decrypted; a victim way is taken and the attached requests apply in order. -/
  | missFillReturn (la : Nat) (e1 e2 others : List Nat) (pq : Bool) (ev : List SramEv)
  /-- R239: A PG_REQ write starts the clean and gating of a way group or enables an invalidated group. -/
  | pgReqWrite (sl v : Nat)
  /-- R239: A way group's clean ends and its arrays are gated. -/
  | wayGroupCleanDone (sl g : Nat)
  /-- R239: A GRP_INV write powers a gated group, invalidates it and sets INV_DONE. -/
  | grpInv (sl v : Nat)
  /-- R240: A SLICE_DIS_REQ write starts the disabling of a slice by Table 09.4. -/
  | sliceDisReq (v : Nat)
  /-- R240: A slice's write-back ends, so SLICE_EN clears, requests rehash and DRAIN_FIXED_US is recomputed. -/
  | sliceFlushDone (sl : Nat)
  /-- R232: A write to a front-cache lock entry enables, disables or changes it, or is refused with LOCK_ERR. -/
  | lockEntryWrite (k : Nat) (range : Bool) (v : Nat)
  /-- R243: A write to FCH_SL_STATE sets MR_PEAK to MR_USED. -/
  | fchSlStateWrite (sl : Nat)
  /-- R108: A write to PRT_BENCH_k sets BENCH_PEAK to BENCH_USED. -/
  | prtBenchWrite (link : Nat)
  /-- R135: A write to CMD_STATUS sets LOCK_PEAK to LOCK_USED. -/
  | cmdStatusWrite
  /-- R195: A write to TPE_CNT2 sets DF_MAX_US to 0. -/
  | tpeCnt2Write
  /-- R257: A rank's tREFI2 interval expires, so a refresh is issued or postponed into REF_DEBT. -/
  | refreshDue (ch rank : Nat) (busy : Bool)
  /-- R257: A rank's refresh debt reaches 8, so a forced refresh is issued at once. -/
  | forcedRefresh (ch rank : Nat)
  /-- R260: A sampled row at an ACT has its neighbours refreshed by DRFM or by activation. -/
  | neighbourRefresh (ch rank : Nat)
  /-- R258: The 1 ms sideband read of the DIMM sensors sets or clears HOT and raises HOT_ALERT. -/
  | dimmThermalPoll (ch : Nat) (temps : List Nat)
  /-- R263: Training ends, so the channel set and rate are chosen or retraining runs at a lower rate. -/
  | trainingDone (x : TrainIn)
  /-- R264: A lane has counted 2^RD_WIN_LOG2 shadow-sampler bits, so RD_OFS is adjusted and the counts restart. -/
  | readEyeWindow (ch lane e t : Nat)
  /-- R265: WR_TRACK_MS has passed for a rank, so one tracking slice measures the DQS oscillator and moves WR_OFS. -/
  | writeTrackingSlice (ch rank : Nat) (drift : List (Nat × Int))
  /-- R266: A RETRAIN write requests a sliced retrain of a strobe lane. -/
  | retrain (ch lane : Nat)
  /-- R268: A DIMM reports a CA parity error, so the subchannel replays its commands or the channel is failed. -/
  | caParityAlert (ch sub : Nat)
  /-- R281: A settle slot and the recode queue permit, so the oldest-charged code page's set is snooped, read and programmed. -/
  | stripeSettleStart (bad : List Nat) (progs : List (Nat × Nat × Bool))
  /-- R281: All program statuses of a stripe settle return, so the page map updates, charges are released and recodes queued. -/
  | stripeSettleDone (frame p : Nat)
  /-- R282: A program fails, so the block is retired and any settle on it is abandoned. -/
  | nandProgramFail (ch : Nat) (settle : Option (Nat × Nat))
  /-- R286: An erase fails, so the block is retired and its valid chunks are relocated. -/
  | nandEraseFail (ch : Nat)
  /-- R283: A tier page with vaulted code pages is re-homed to its NAND home at SC3. -/
  | rehome (obj tp : Nat) (bad : List Nat)
  /-- R279: FREE_BLK falls below GC_HI_BLK, so a victim block's valid chunks are relocated and the block is erased. -/
  | garbageCollection (ch valid avg top : Nat)
  /-- R287: A channel's interface stops, a die fails, or FREE_BLK stays 0 for 10 s, so the channel is retired. -/
  | channelRetire (ch : Nat)
  /-- R287: A RETIRE write retires a NAND channel unless that would leave its group with more than 2 channels down. -/
  | retire (ch : Nat)
  /-- R288: A RETIRE_SLOT write retires both channels of a carrier slot. -/
  | retireSlot (slot : Nat)
  /-- R288: A SLOT_PWR write drives FC_PWR_EN_i, powering a carrier slot up or down. -/
  | slotPwrWrite (slot : Nat) (v : Bool)
  /-- R288: FC_PRSNT_N_i falls, so the carrier's EEPROM is read and ID_STATE and REFUSE_CAUSE are set. -/
  | carrierPresent (slot : Nat) (c : Carrier)
  /-- R288: An ADOPT write powers and tests a blank carrier, writes its binding and starts rebuild. -/
  | adopt (slot : Nat) (icOk paramOk : Bool)
  /-- R288: REBUILD_LEFT reaches 0, so the channel becomes online. -/
  | rebuildDone (ch : Nat)
  /-- R302: The ladder's chunk read from home or vault returns, and the line is recovered or the next rung tried. -/
  | ladderHomeReadDone (la : Nat) (ok : Bool) (rd : List (Nat × Nat × Bool))
  /-- R304: RECOVER_DL_US passes with the ladder unfinished, so waiting requesters are answered with failure. -/
  | ladderDeadline (la : Nat)
  /-- R306: The read-back after a write-back returns, and an error marks a hard fault and takes a remap entry. -/
  | verifyRead (la : Nat) (errs : List Nat)
  /-- R300: The integrity engine writes a queued code page's P and Q lines unless the page was charged again. -/
  | recodeWrite
  /-- R315: A write of 1 to FLIP_ARM with FLIP_READS nonzero writes back the line and arms the flip mask. -/
  | flipArmWrite (obj reads : Nat) (arm : Bool)
  /-- R321: A mirror port's PHY reaches link while the mirror link is down, so bring-up starts with HELLO. -/
  | mirrorPhyUp (port : Nat)
  /-- R319: A mirror port's PHY goes down, so its lanes move to the other port, or the link is lost. -/
  | mirrorPortPhyDown (port : Nat)
  /-- R321: A HELLO frame is received and bring-up proceeds to SPDM and the identity checks. -/
  | hello (lport : Nat) (h : Machine.Hello)
  /-- R321: 100 ms pass without a HELLO, so HELLO is sent again. -/
  | helloRepeat
  /-- R321: An SPDM frame of the twins' bring-up session is received. -/
  | mirrorSpdm (authOk : Bool) (x : Option Machine.Exch)
  /-- R322: No step-5 exchange arrives within 10 ms of step 4, so bring-up ends with ID_FAIL 6. -/
  | partnerEndedBringUp
  /-- R331: A RECORD frame is received, checked for LSN, tag and duplicates, and applied in SSN order. -/
  | record (r : Machine.MRec) (tagOk : Bool)
  /-- R330: An ACK frame frees retransmit-store records, and covered fences, resyncs and waiting writers proceed. -/
  | ack (lane mark : Nat)
  /-- R330: A NAK frame makes the sender resend that lane from its oldest unacknowledged record. -/
  | nak (lane : Nat)
  /-- R330: RETX_US passes without ACK progress on a lane, so the lane is resent. -/
  | retxTimeout (lane : Nat)
  /-- R325: A mirror port has sent nothing for 5 µs, so it sends a KEEPALIVE. -/
  | keepalive (port : Nat)
  /-- R325: Every mirror port is silent or down, or ACK_LOSS_MS passes, so the link is lost. -/
  | mirrorLinkLost
  /-- R325: The 1 ms hold of the mirror PHYs ends and they return. -/
  | phyHoldEnd
  /-- R53: A DRAIN frame received with a valid tag puts this 8120 into solo mode at once. -/
  | drain (tagOk : Bool)
  /-- R337: A FETCH_REQ frame is served by reading the line with the twin rung closed. -/
  | fetchReq (tag obj ln : Nat) (fail : Bool)
  /-- R337: A FETCH_RSP frame delivers the twin's line to the recovery ladder or is discarded after the deadline. -/
  | fetchRsp (tag st : Nat) (data : Line)
  /-- R336: A NO_ROOM frame marks the named object unmatched. -/
  | noRoom (obj : Nat)
  /-- R324: TWIN_HB_IN shows no edge for HB_LOSS_US, and the mirror state is re-evaluated. -/
  | heartbeatLost
  /-- R324: TWIN_HB_IN shows an edge again, and the mirror state is re-evaluated. -/
  | heartbeatRestored
  /-- R326: The filtered TWIN_GRANT changes, and the mirror state is re-evaluated. -/
  | twinGrantChange (v : Bool)
  /-- R340: A TAKEOVER write turns every replica into an own object, or is refused. -/
  | takeover
  /-- R336: A RETRY_MATCH write resends the ledger entries of unmatched objects. -/
  | retryMatch
  /-- R325: A LINK_RESTART write takes the mirror link down for 1 ms and then runs bring-up. -/
  | linkRestart
  /-- R356: An RDMA WRITE packet is checked against its key and placed. -/
  | rdmaWrite (p : Pkt)
  /-- R367: A SEND Only packet without payload bumps TRIG_COUNT and is acknowledged. -/
  | rdmaSend (p : Pkt)
  /-- R356: An RDMA READ Request is checked and answered with response packets. -/
  | rdmaReadRequest (p : Pkt)
  /-- R360: A CmpSwap performs an atomic read-modify-write of 8 aligned bytes. -/
  | cmpswap (p : Pkt)
  /-- R360: A FetchAdd performs an atomic read-modify-write of 8 aligned bytes. -/
  | fetchadd (p : Pkt)
  /-- R364: An Acknowledge received by the requester frees covered packets and completes triggered requests. -/
  | acknowledge (t psn : Nat)
  /-- R365: A NAK received by the requester causes a resend, an RNR wait or the context's error state. -/
  | rdmaNak (t psn syn : Nat)
  /-- R368: An RDMA READ Response received by the requester is written into the local range. -/
  | rdmaReadResponse (t psn : Nat) (data : List Nat)
  /-- R365: A SETTLE_ACK received by the requester completes a flagged trigger slot, or a PENDING answer restarts the retry count. -/
  | settleAck (t psn state mark : Nat)
  /-- R369: A received CNP cuts the context's send rate. -/
  | cnp (t : Nat)
  /-- R369: CC_RECOVER_US passes without a CNP, so the context's rate rises. -/
  | ccRecover (t : Nat)
  /-- R369: A received PFC frame pauses or resumes sending on PFC_PRIO. -/
  | pfcFrame (port : Nat) (xoff : Bool)
  /-- R364: The requester's timer expires without ACK progress, so it resends or the context enters error. -/
  | rdmaRetryTimeout (t : Nat)
  /-- R365: The RNR timer of an RNR NAK expires and the requester resends from its PSN. -/
  | rnrTimerExpiry (t : Nat)
  /-- R353: A context fetch completes and the context's parked packets are processed in order. -/
  | contextFetchDone (x : Nat)
  /-- R370: A network port's PHY has been down for 1 ms, so contexts with ALT_EN move to ALT_PORT. -/
  | raePortDown (port : Nat)
  /-- R352: RAE_CMD CREATE makes a free context ready from its record. -/
  | ctxCreate (x : Nat)
  /-- R352: RAE_CMD MODIFY changes the permitted fields of a ready context. -/
  | ctxModify (x : Nat)
  /-- R352: RAE_CMD RESET rewrites a context in error and makes it ready. -/
  | ctxReset (x : Nat)
  /-- R352: RAE_CMD DESTROY frees a context, discarding parked packets and flushing released requests. -/
  | ctxDestroy (x : Nat)
  /-- R352: RAE_CMD QUERY copies a context record into RAE_CTX_DATA. -/
  | ctxQuery (x : Nat)
  /-- R355: RAE_CMD CREATE with TARGET 1 enters a remote key with a fresh KEY_TAG. -/
  | keyCreate (i : Nat)
  /-- R352: RAE_CMD DESTROY with TARGET 1 frees a remote key. -/
  | keyDestroy (i : Nat)
  /-- R352: RAE_CMD QUERY with TARGET 1 copies a key record into RAE_CTX_DATA. -/
  | keyQuery (i : Nat)
  /-- R367: An RAE_TRIG write adds ADD to a context's TRIG_COUNT and examines its trigger list. -/
  | raeTrig (x add : Nat)
  /-- R378: A CLUSTER_FENCE write fences or returns cipher clusters, or sets FENCE_ERR. -/
  | clusterFenceWrite (v : Nat)
  /-- R381: The 1 s health tests run, setting or clearing TRNG_FAIL. -/
  | trngHealthTest (pass : Bool)
  /-- R380: RESEED_MS passes and the DRBG is reseeded from the TRNG unless TRNG_FAIL is set. -/
  | drbgReseed
  /-- R390: The teller LOAD_XTS command unwraps an XTS key under the domain's DKEK into a slot. -/
  | loadXts (d slot : Nat)
  /-- R390: The teller LOAD_GCM command unwraps a GCM key under the domain's DKEK into a slot. -/
  | loadGcm (d slot : Nat)
  /-- R390: The teller ZEROIZE command empties a slot and overwrites its shares. -/
  | zeroize (d slot : Nat)
  /-- R390: The teller QUERY command fills Q_MODE and Q_REFS for a slot. -/
  | query (d slot : Nat)
  /-- R380: A read of TL_RANDOM returns 64 fresh DRBG bits, or 0 while TRNG_FAIL is set. -/
  | tlRandomRead (link ld : Nat)
  /-- R392: An SVN_COMMIT write burns anti-rollback fuses up to FW_SVN. -/
  | svnCommit
  /-- R394: SPDM GET_MEASUREMENTS returns the signed digests of Table 15.6. -/
  | getMeasurements (index nonce : Nat)
  /-- R393: SPDM CHALLENGE is answered with a response signed by the alias key. -/
  | challenge (slot nonce : Nat)
  /-- R393: SPDM GET_CERTIFICATE returns the chain of certificate slot 0 or 1. -/
  | getCertificate (slot : Nat)
  /-- R393: SPDM KEY_EXCHANGE opens a secured session, or is refused with Busy or while TRNG_FAIL is set. -/
  | keyExchange (owner : Bool)
  /-- R388: The SPDM vendor request Set Domain KEK sets a domain's key-encryption key. -/
  | setDomainKek (sess d kek : Nat)
  /-- R388: The SPDM vendor request Clear Domain KEK clears a domain's key-encryption key. -/
  | clearDomainKek (sess d : Nat)
  /-- R392: The SPDM vendor request Write Recovery Image validates an image and writes it to both SPI devices. -/
  | writeRecoveryImage (sess kind : Nat) (x : Img)
  /-- R452: The SPDM vendor request Write Configuration writes a newer valid copy over the target copy. -/
  | writeConfiguration (sess : Nat) (c : Copy) (cut : Bool)
  /-- R449: The service firmware starts, chooses and applies the configuration copy and releases the board phase. -/
  | serviceFirmwareStart (x : StartIn)
  /-- R411: The debounced PWR_REQ asserts and an up-sequence starts at the end of MIN_OFF, or ON_LATCHED sets. -/
  | pwrReqAssert (longOff : Bool)
  /-- R411: The debounced PWR_REQ deasserts and sequencing stops or a drain starts. -/
  | pwrReqDeassert
  /-- R401: A rail's power-good has stayed high for DWELL_US, so the rail is good. -/
  | railGood (r : Nat)
  /-- R404: A rail's power-good falls, restarting its dwell or, past the deglitch, failing the rail. -/
  | railPgFall (r : Nat)
  /-- R401: RAMP_TIMEOUT_US passes without the rail becoming good, so the rail fails. -/
  | rampTimeout (r : Nat)
  /-- R404: The regulator's STATUS_WORD is read, and a fault bit fails the rail. -/
  | pmbusPoll (r : Nat) (ans : Option (Nat × Nat × Nat)) (faults : Nat)
  /-- R406: The retry delay expires and the rail is re-enabled for its next attempt. -/
  | railRetry (r : Nat)
  /-- R400: UP_DELAY_US after a step's rails are good, the next up step is enabled or the sync runs. -/
  | upStepDelay
  /-- R399: The core rails are good, so POWER_CYCLES increments, the straps are sampled and the service processor leaves reset. -/
  | corePhaseEnd (bootSpi safe badA badB : Bool)
  /-- R399: 60 ms pass without the copy loaded, so the board phase runs with the held rail table. -/
  | configWaitTimeout
  /-- R403: DOWN_DELAY_US passes, so the next down step goes down or MIN_OFF begins. -/
  | downStepDelay
  /-- R403: MIN_OFF_MS passes, so an up-sequence may start. -/
  | minOffEnd
  /-- R409: WHISTLE_N reads high for 10 µs after release, so the board phase continues. -/
  | whistleSync
  /-- R409: The sync does not complete within WH_TIMEOUT_MS, so a SYSTEM failure with cause 8 follows. -/
  | whistleSyncTimeout
  /-- R410: A low of 5 µs or longer on WHISTLE_N after the sync is answered by state. -/
  | whistle
  /-- R413: An FF_CLR write clears FF_VALID and both stored first-fault records. -/
  | ffClr
  /-- R415: An owner requests an internal power domain on or off and the supervisor switches it. -/
  | domainSwitch (d : Nat) (on : Bool)
  /-- R415: A domain's local power-good rises, so its logic is reset and its isolation released. -/
  | domainPowerGood (d : Nat)
  /-- R415: A domain's power-good has not risen in 20 µs, so it is switched off and DOM_FAIL sets. -/
  | domainSwitchTimeout (d : Nat)
  /-- R484: The hottest die sensor stays at or above 115 °C for 1 ms, so a SYSTEM reaction with cause 10 follows. -/
  | dieOverTemperature
  /-- R423: A FLUSH_NOW write triggers a Daybook flush. -/
  | flushNow
  /-- R423: A flush completes on the devices, so FLUSH_SEQ advances and a checkpoint, a further flush or drain step 6 follows. -/
  | daybookFlushDone (okA okB : Bool)
  /-- R424: Every 60 s a checkpoint of OP_TIME and FLUSH_SEQ is written to both devices. -/
  | daybookCheckpoint
  /-- R437: BST_START with TEST 0x06 starts the online row test of a rank. -/
  | dramRow (ch rank : Nat)
  /-- R438: BST_START with TEST 0x05 starts the online march of a gated way group. -/
  | fchMarch (sl group : Nat)
  /-- R431: BST_START with TEST 0x07 starts the known-answer test of a fenced cluster. -/
  | cipKat (cluster : Nat)
  /-- R438: An ABORT write stops the online test after the unit in progress is restored. -/
  | abort
  /-- R439: A POP write removes the oldest BIST result entry. -/
  | pop
  /-- R443: A CORE_OFF write takes service cores offline or back online, or sets REFUSED. -/
  | coreOffWrite (v : Nat)
  /-- R454: A frame-map block finishes loading and waiting translations proceed. -/
  | mapBlockLoaded (blk : Nat)
  /-- R466: A WARM_RST write restarts the service cores. -/
  | warmRst
  /-- R471: A WDOG_KICK write restarts the watchdog period. -/
  | wdogKick
  /-- R471: WDOG_MS passes without a kick, so a warm reset with WARM_CAUSE 0b10 follows. -/
  | watchdogExpiry
  /-- R467: An FLR of an LD function clears its queue pairs' QP_EN, its read latch and its configuration space. -/
  | functionLevelReset (link ld : Nat)
  /-- R460: A BAR0 write to a register without a row of its own stores its fields under the width, reach, refusal and drain rules. -/
  | registerWrite (link ld ofs size v x : Nat)
  /-- R465: Power-up of the always-on domain is a cold reset: every field takes its Reset value, OP_TIME, HEAD_SEQ, PWR_FF and POWER_CYCLES resume from SPI, and the supervisor begins in MIN_OFF. -/
  | alwaysOnPowerUp (req pfail bypass : Bool)
  /-- R58: The board's power collapses with the 8120 still running, for example when the energy store runs out during the drain or the always-on rail is lost, so the next start-up takes the abrupt path. -/
  | abruptLoss (na nb : Nat)
  /-- R288: FC_PRSNT_N_i rises when a carrier is pulled from its slot, clearing PRESENT and CARRIER_UID for the slot. -/
  | carrierRemoved (slot : Nat)
  /-- R343: The resync sender takes the ledger-pass entry or solo-map tier page that is due next and sends it as META or DATA records on its lane at SC3. -/
  | resyncPageSend (waited : Option Machine.Key)
  /-- R288: On a rebuilding channel, one stripe whose member there is not yet programmed is rebuilt from 16 surviving members at SC3, and REBUILD_LEFT falls. -/
  | rebuildStripe (ch home : Nat)
  /-- R108: A trained CXL link leaves L0 and L1 without Pn_PERST_N, for example when the partner disconnects, and LINK_UP clears. -/
  | linkDown (link : Nat)
  /-- R434: The PHY of a network port that is not in the mirror role reaches link after SERDES_LB, and PHY_UP sets. -/
  | networkPortPhyUp (port : Nat)
  /-- R324: Every 5 µs the always-on domain toggles TWIN_HB_OUT until the rails go down. -/
  | heartbeatToggle
  /-- R461: A BAR0 read updates the function's read latch and, when its width or alignment is wrong, returns 0 and increments ACC_ERR_CNT with a Daybook record. -/
  | registerRead (link ld ofs size : Nat)
deriving DecidableEq, Repr

end Sys2Proof
end

