-- ==== Sys2Proof/Decode.lean ====
section
/-! DEFINITION. The command a table word spells: the opcode table gives no row any bits, so no word spells one. -/

namespace Sys2Proof

/-- The command that a word spells by the opcode table's bits: none, since no row has any. -/
def decodeTableWord (_nbits _w : Nat) : Option Instr := none

end Sys2Proof
end

