-- ==== Sys2Proof/Machine/Aes.lean ====
section
/-! DEFINITION. AES-256-GCM (R161, R162, R385, R390), as the standard the spec names defines it. A block is
16 bytes, first byte first; a key, an IV and additional data are given as byte lists. -/

namespace Sys2Proof.Machine

/-- Multiplication by x in GF(2^8) of AES. -/
def gfx (a : Nat) : Nat := if a < 128 then 2 * a else (2 * a) % 256 ^^^ 0x1B

/-- The product in GF(2^8) of AES, over the low n bits of b. -/
def gfmulN (n : Nat) (a b : Nat) : Nat :=
  match n with
  | 0 => 0
  | n + 1 => (if b % 2 = 1 then a else 0) ^^^ gfmulN n (gfx a) (b / 2)

/-- The product in GF(2^8) of AES. -/
def gfmul (a b : Nat) : Nat := gfmulN 8 a b

/-- The inverse a^254, 0 for 0. -/
def gfinv (a : Nat) : Nat :=
  let a2 := gfmul a a
  let a4 := gfmul a2 a2
  let a8 := gfmul a4 a4
  let a16 := gfmul a8 a8
  let a32 := gfmul a16 a16
  let a64 := gfmul a32 a32
  let a128 := gfmul a64 a64
  gfmul a128 (gfmul a64 (gfmul a32 (gfmul a16 (gfmul a8 (gfmul a4 a2)))))

/-- A byte rotated left by n. -/
def rotl8 (a n : Nat) : Nat := (a * 2 ^ n) % 256 + a / 2 ^ (8 - n)

/-- The AES substitution of a byte. -/
def sbox (a : Nat) : Nat :=
  let b := gfinv (a % 256)
  b ^^^ rotl8 b 1 ^^^ rotl8 b 2 ^^^ rotl8 b 3 ^^^ rotl8 b 4 ^^^ 0x63

/-- Bytewise exclusive or. -/
def xorBytes (a b : List Nat) : List Nat := List.zipWith (· ^^^ ·) a b

/-- The AES-256 key schedule: the words after the first eight, newest first in `w`; i counts the words. -/
def expandStep (w : List (List Nat)) (i : Nat) : List (List Nat) :=
  let t := w.headD []
  let t := if i % 8 = 0 then
      let r := (t.drop 1 ++ t.take 1).map sbox
      xorBytes r [2 ^ (i / 8 - 1), 0, 0, 0]
    else if i % 8 = 4 then t.map sbox else t
  xorBytes (w.getD 7 []) t :: w

/-- The four-byte words of a byte list. -/
def words4 (n : Nat) (l : List Nat) : List (List Nat) :=
  (List.range n).map fun i => (l.drop (4 * i)).take 4

/-- The 15 round keys of AES-256, 16 bytes each. -/
def roundKeys (key : List Nat) : List (List Nat) :=
  let w := ((List.range 52).foldl (fun w i => expandStep w (i + 8)) (words4 8 key).reverse).reverse
  (List.range 15).map fun r => ((w.drop (4 * r)).take 4).flatten

/-- Row shift: byte 4c+r comes from column c+r. -/
def shiftRows (b : List Nat) : List Nat :=
  (List.range 16).map fun i => b.getD ((4 * (i / 4 + i % 4) + i % 4) % 16) 0

/-- Column mix of one column. -/
def mixColumn (b : List Nat) (c r : Nat) : Nat :=
  let x := fun k => b.getD (4 * c + (r + k) % 4) 0
  gfx (x 0) ^^^ (gfx (x 1) ^^^ x 1) ^^^ x 2 ^^^ x 3

/-- Column mix of a block. -/
def mixColumns (b : List Nat) : List Nat := (List.range 16).map fun i => mixColumn b (i / 4) (i % 4)

/-- AES encryption of a block under expanded round keys. -/
def aesBlock (rk : List (List Nat)) (b : List Nat) : List Nat :=
  let s := xorBytes b (rk.headD [])
  let s := ((rk.drop 1).take 13).foldl (fun s k => xorBytes (mixColumns (shiftRows (s.map sbox))) k) s
  xorBytes (shiftRows (s.map sbox)) (rk.getD 14 [])

/-- A number from bytes, most significant first. -/
def beNat (l : List Nat) : Nat := l.foldl (fun a b => 256 * a + b % 256) 0

/-- n bytes of a number, most significant first. -/
def beBytes (n v : Nat) : List Nat := ((List.range n).map fun k => (v >>> (8 * k)) % 256).reverse

/-- The product in GF(2^128) of GCM: bit 127 of the number is the first bit of the block. `n` bits of x are
left, the next of them bit n - 1. -/
def ghMulN (n : Nat) (x v z : Nat) : Nat :=
  match n with
  | 0 => z
  | n + 1 =>
    let z := if x.testBit n then z ^^^ v else z
    ghMulN n x (if v % 2 = 1 then v / 2 ^^^ (0xE1 * 2 ^ 120) else v / 2) z

/-- The product in GF(2^128) of GCM. -/
def ghMul (x y : Nat) : Nat := ghMulN 128 x y 0

/-- The 16-byte blocks of a byte list, the last padded with zeros. -/
def blocks16 (l : List Nat) : List (List Nat) :=
  (List.range (cdiv l.length 16)).map fun i =>
    let b := (l.drop (16 * i)).take 16
    b ++ List.replicate (16 - b.length) 0

/-- GHASH of additional data and text under subkey h. -/
def ghash (h : Nat) (aad text : List Nat) : Nat :=
  let y := (blocks16 aad ++ blocks16 text).foldl (fun y b => ghMul (y ^^^ beNat b) h) 0
  ghMul (y ^^^ (8 * aad.length * 2 ^ 64 + 8 * text.length)) h

/-- Counter-mode encryption of a text with a 96-bit IV: block i uses counter i + 2. -/
def gcmCtr (rk : List (List Nat)) (iv text : List Nat) : List Nat :=
  ((List.range (cdiv text.length 16)).map fun i =>
    xorBytes ((text.drop (16 * i)).take 16) (aesBlock rk (iv ++ beBytes 4 ((i + 2) % 2 ^ 32)))).flatten

/-- The 16-byte GCM tag over the additional data and the ciphertext. -/
def gcmTag (rk : List (List Nat)) (iv aad text : List Nat) : List Nat :=
  let h := beNat (aesBlock rk (List.replicate 16 0))
  xorBytes (beBytes 16 (ghash h aad text)) (aesBlock rk (iv ++ [0, 0, 0, 1]))

/-- AES-256-GCM encryption: ciphertext and tag. -/
def gcmSeal (key iv aad text : List Nat) : List Nat × List Nat :=
  let rk := roundKeys key
  let c := gcmCtr rk iv text
  (c, gcmTag rk iv aad c)

/-- AES-256-GCM decryption: the text when the tag agrees. -/
def gcmOpen (key iv aad text tag : List Nat) : Option (List Nat) :=
  let rk := roundKeys key
  if gcmTag rk iv aad text = tag then some (gcmCtr rk iv text) else none

end Sys2Proof.Machine
end

