-- ==== Sys2Proof/Config.lean ====
section
/-! DEFINITION. What an implementation fixes and the values the spec leaves open: opaque constants,
of which no proof can know a value (log entries 6 and 8). -/

namespace Sys2Proof

/-- A fresh unconstrained number for each index: random bits, pseudo-LRU picks and other values the
spec leaves open, applied to the counter `freeIdx` of State (log entry 6). -/
opaque Config.free : Nat → Nat

/-- The device's fused unique identifier, SEC_UID (R391; log entry 14). -/
opaque Config.deviceUid : Nat

/-- The output of an AES or GMAC computation over the numbers given: which construction, key, IV or
tweak, and text. The spec names the algorithms; the model keeps their values free (log entry 8). -/
opaque Config.cipher : Nat → List Nat → Nat

end Sys2Proof
end

