-- ==== Sys2Proof/Machine/Fields.lean ====
section
/-! DEFINITION. The fields of every BAR0 register, each with the width, the reset value and the
constant write rule that its register table in the spec gives. Names are the manual's; a name that
two registers share carries its register's name in front. -/

namespace Sys2Proof.Machine

/-- A register field of BAR0 (R457, the register tables of every chapter). -/
inductive Fld where
  | MARGIN | BIND_FRAC | MEAS_CLR | HOLDUP_INVERT | DRAIN_NOW | VCAL_NOW | CCAL_NOW | ARMED
  | RATE_VALID | HOLDUP_SNS_FAULT | HOLDUP_REVERSED | FLOAT_OVER | CAL_REJECT | DRAINING | CCAL_BUSY | LIMIT_SRC
  | FLOAT_PAGES | FLOAT_LIMIT | FLOAT_CAP | VAULT_FREE_MIB | T_HOLD_US | DRAIN_FIXED_US | DRAIN_RATE_CAL | DRAIN_RATE_LAST
  | STALL_CNT | STALL_OVF | VAULT_CAP_MIB | HOLDUP_FLOOR_MV | HOLDUP_VMIN_MV | HOLDUP_HYST_MV | CCAL_LO_MV | HOLDUP_CAP_NOM_MF
  | HOLDUP_CAP_MEAS_MF | CCAL_INTERVAL_H | DRAIN_POWER_W | DRAIN_EFF_PM | DRAIN_POWER_MEAS_W | VCAL_INTERVAL_S | HOLDUP_MV | PMBUS_MV
  | HOLDUP_DIV | HOLDUP_PMBUS_ADDR | GUAR_WT | STALLED | CHARGE | SHARE | SPLIT | MAX_RATE
  | MLD | IDE_REQUIRED | DOWNSHIFT_EN | PORT_OFFLINE | RETRAIN_LIMIT | BI_TIMEOUT_MS | DEVLOAD_LOW | SPLIT_ACT
  | PRT_LINK_STATUS_LINK_UP | RATE | WIDTH | REVERSED | FLIT256 | HDM_DB | IDE_MEM | IDE_IO
  | MEM_ACTIVE | LINK_RETRAIN | POLARITY | RETRAIN_CNT | BI_TIMEOUT_CNT | DOWNSHIFT_CNT | IDE_FAIL_CNT | PRT_LINK_FLAGS_CNT_OVF
  | BENCH_FULL | BENCH_USED | BENCH_PEAK | LD_EN | PRT_LD_CFG_DOMAIN | LD_CAP_256M | BENCH_QUOTA | SETTLE_EN
  | SETTLE_PFN | BENCHED | DEVLOAD | DC_EXTENTS | POISON_RD_CNT | UNMAPPED_CNT | PRT_LD_FLAGS_CNT_OVF | SQ_TAIL
  | CQ_HEAD | QP_EN | QP_RESET | QP_CTRL_INT_EN | CLASS_SC1 | WEIGHT | MAX_INFLIGHT | QP_SQ_BASE
  | QP_CQ_BASE | SQ_LOG2 | CQ_LOG2 | MSIX_VEC | COAL_CNT | COAL_US | SQ_HEAD | CQ_TAIL
  | CQ_PHASE | RESET_BUSY | QP_ERR | DB_ERR | CFG_ERR | INFLIGHT | QP_OWNER_DOMAIN | QP_OWNER_LINK
  | QP_OWNER_LD | QP_OWNER_ASSIGNED | SC2_AGE_US | EXEC_USED | WAIT_USED | LOCK_USED | LOCK_PEAK | LOCK_WAIT_CNT
  | RESET_CNT | CUT_CNT | DB_ERR_CNT | CMD_FLAGS_CNT_OVF | CMD_QP_ASSIGN_ASSIGNED | CMD_QP_ASSIGN_LINK | CMD_QP_ASSIGN_LD | STRIDE_FRAMES
  | FREE_LOW | DF_RESERVE | ID_SIDE | POOL_FRAMES | FREE_FRAMES | POOL_DRY | FLOOR_SCALED | CAP_TP
  | RESERVED_TP | OBJ_COUNT | MAP_USED | MOVES_USED | DF_ACTIVE | DF_CNT | EVICT_CNT | POOL_DRY_CNT
  | DF_MAX_US | TPE_FLAGS_CNT_OVF | FLOOR_CLAMP | OVER_BOUND | FLOOR_FRAMES | CEIL_FRAMES | OVER_CEIL | TALLY
  | TPE_DOM_STATE_PINNED | FLOOR_EFF | STREAM_DEPTH | PLACE_DL_US | REFILL_EN | STREAMS_ACTIVE | REFILL_LEFT | REFILL_DONE
  | LATE_CNT | MISS_DL_CNT | CEIL_CNCL_CNT | TPE_DOM_STRM2_CNT_OVF | STREAMS | SLICE_DIS_REQ | WAY_CE_LIMIT | WAY_CE_WIN_MS
  | SLICE_EN | SLICE_BUSY | TAG_FATAL | PG_ERR | LOCK_ERR | SF_USED | SF_EVICT_CNT | SF_EVICT_OVF
  | OBJ_ID | WAYS | LOCK_EN | TP_FIRST | TP_LAST | PG_REQ | PG_STATE | PG_BUSY
  | GRP_INV | INV_DONE | WAY_DIS | MR_USED | MR_PEAK | MQ_USED | MR_FULL_CNT | MERGE_FULL_CNT
  | FCH_SL_ERR_CE_CNT | FCH_SL_ERR_UE_CNT | FCH_SL_FLAGS_CNT_OVF | GRAIN_LOG2 | CH_HALF | FORCE_6CH | NR_LOG2 | NR_DRFM_OFF
  | REF_DEBT_TGT | MAX_MTS | WQ_HI | WQ_LO | AGE_SC0_NS | AGE_SC1_NS | AGE_SC2_NS | AGE_SC3_NS
  | BUDGET_SC0 | BUDGET_SC1 | BUDGET_SC2 | BUDGET_SC3 | SC0_RSV | RD_WIN_LOG2 | RD_LIMIT | WR_LIMIT
  | WR_TRACK_MS | WR_SLICE_NS | CH_ACTIVE | CH_FAIL | TRAIN_DONE | DATA_MTS | DIMM_TYPE | RANKS
  | CH_CAP_GIB | REF_DEBT | HOT | DRFM_AVAIL | RQ_USED | WQ_USED | DIMM_TEMP_C | PROMOTE_CNT
  | REF_FORCED_CNT | NR_CNT | CA_PAR_CNT | RD_ADJ_CNT | WR_ADJ_CNT | DRC_CH_FLAGS_CNT_OVF | LIMIT_HIT | HOT_ALERT
  | RD_CENTRE | RD_OFS | WR_CENTRE | WR_OFS | VREF_RD | EYE_STEPS | RETRAIN | RETRAIN_BUSY
  | USE_PM | VAULT_BLK | GC_LO_BLK | GC_HI_BLK | SUSPEND_MAX | CH_ONLINE | DEGRADED_0 | DEGRADED_1
  | MEDIA_READY | STRIPE_LOSS | RETIRE_REFUSED | CAP_SHORT | CH_STATE | TOGGLE | MTS | DIES
  | FREE_BLK | BAD_BLK | RETIRE | PE_AVG | PE_MAX | PE_RATED | WEAR_PM | RETRY_CNT
  | REBUILT_CNT | PROG_FAIL_CNT | ERASE_FAIL_CNT | NFC_CH_FLAGS_CNT_OVF | WEAR_WARN | REBUILD_LEFT | PRESENT | ID_STATE
  | REFUSE_CAUSE | PWR_ON | SLOT_PWR | RETIRE_SLOT | ADOPT | CARRIER_UID | SETTLE_MAX | SETTLES_ACTIVE
  | REHOME_LEFT | SETTLE_SEQ | SETTLE_CNT | REDIRTY_CNT | STL_FLAGS_CNT_OVF | SCRUB_HOURS | RECOVER_DL_US | REMAP_EN
  | SPPR_EN | PPR_SLICE_NS | DEV_MARK_CE | SCRUB_PASSES | RECODE_LEFT | RETIRE_PEND | META_FATAL | SCRUB_LA
  | FLIP_OBJ | FLIP_READS | FLIP_ARM | FLIP_LINE | DEV_A | DEV_B | B_EN | INT_FLIP_PAT_A
  | INT_FLIP_PAT_B | SCRUB_OVF | REMAP_FULL | REPAIR_FAIL | INT_CH_ERR_CE_CNT | INT_CH_ERR_UE_CNT | REBUILD_CNT | HOME_CNT
  | TWIN_CNT | POISON_CNT | REMAP_USED | MARK_VALID | MARK_DEV | PPR_BUSY | INT_CH_FLAGS_CNT_OVF | VALID
  | LA | INT_REMAP_DEVICE | POISONED | SPPR_PEND | MIR_PORTS | E1_HALF | TAKEOVER | RETRY_MATCH
  | LINK_RESTART | HB_LOSS_US | LINK_LOSS_US | RETX_US | ACK_LOSS_MS | PAIR_ID | PARTNER_UID | STATE
  | SENIOR | MIR_STATUS_LINK_UP | HB_ALIVE | GRANT | RESYNC_BUSY | FULL_RESYNC | ID_FAIL | UNMATCHED
  | TOOK_OVER | SSN_ISSUED | SSN_ACKED | TWIN_APPLIED | RESYNC_LEFT | SOLO_PAGES | RETX_RECORDS | RETX_CNT
  | TAG_FAIL_CNT | DUP_CNT | LINK_LOSS_CNT | FETCH_CNT | SOLO_CNT | MIR_FLAGS_CNT_OVF | SPLIT_SEEN | RETX_FULL
  | PORT_EN | E0_SPLIT | E1_SPLIT | PFC_PRIO | PFC_EN | CC_EN | RNR_TIMER | CNP_INTERVAL_US
  | CC_CUT | CC_RECOVER_US | CC_STEP_GBPS | INDEX | TARGET | RAE_CMD_OP | RAE_CMD_BUSY | RAE_CMD_RESULT
  | CTX | ADD | CTX_ONCHIP | PARK_PKTS | PARK_BYTES | RAE_STATUS_PINNED | RAE_CTX_DATA_DATA | MAC
  | PHY_UP | MIRROR | IPV4 | IPV6_LO | IPV6_HI | RAE_FLAGS_CNT_OVF | CTX_ERR | PARK_FULL
  | TL_CMD_OP | SLOT | TL_CMD_BUSY | TL_CMD_RESULT | TL_STATE_DOMAIN | TL_STATE_KEK_SET | Q_MODE | Q_REFS
  | RAND | TL_DATA_DATA | CLUSTER_FENCE | RESEED_MS | CLUSTER_ACTIVE | CLUSTER_FAULT | TRNG_FAIL | FENCE_ERR
  | GCM_FAIL_CNT | PARITY_CNT | CIP_FLAGS_CNT_OVF | DEVICE_UID | BOOT_DEV | FW_DEV | FW_SVN | SVN_FUSE
  | SVN_COMMIT | ROOT_KEY | ROOT_REVOKED | OWNER_SET | SESSIONS | SEC_DKEK_SET_KEK_SET | OWNER | ANY
  | MODE | REFS | WHISTLE_EN | WH_SYNC_STEP | MIN_OFF_MS | UP_DELAY_US | DOWN_DELAY_US | WH_TIMEOUT_MS
  | PMBUS_POLL_MS | FF_CLR | SEQ_STATE | UP_STEP_NOW | DOWN_STEP_NOW | PWR_REQ_IN | PFAIL_IN | WHISTLE_IN
  | WHISTLE_OUT | ON_LATCHED | SNS_OPEN | SNS_NEG | FF_VALID | PMBUS_ERR | PWR_STATUS_DOM_FAIL | RAIL_EN_OUT
  | RAIL_PG_IN | RAIL_FAILED | RAIL_RETRYING | POWER_CYCLES | FAULT_CNT | CHATTER_CNT | WHISTLE_CNT | PWR_FLAGS_CNT_OVF
  | FF | DOM_ON | PWR_DOM_FAIL_DOM_FAIL | EN | UP_STEP | DOWN_STEP | PWR_RAIL_CFG_GROUP | REACTION
  | DRAIN_NEED | PMBUS_EN | PMBUS_ADDR | PMBUS_PAGE | DRAM_CH | DWELL_US | CHATTER_LIMIT | RAMP_TIMEOUT_US
  | DEGLITCH_US | ATTEMPTS | CHATTER_NOW | LAST_CAUSE | FLUSH_HI | FLUSH_NOW | HEAD_SEQ | TAIL_SEQ
  | FLUSH_SEQ | TAIL_OFS | HEAD_OFS | FLUSH_BUSY | SPI_A_FAIL | SPI_B_FAIL | OP_TIME | CKPT_TIME
  | LOST_CNT | FLUSH_CNT | DBK_FLAGS_CNT_OVF | LOST | SLICE_NS | OPEN_PF | CORE_OFF | TEST
  | CH | RANK | BST_START_GROUP | ABORT | BST_STATUS_BUSY | TEST_NOW | RES_USED | UNITS_LEFT
  | CORE_ON | DDR5_BAD | NAND_BAD | SPI_A_BAD | SPI_B_BAD | RES | POP | UNITS_CNT
  | FAIL_CNT | BST_FLAGS_CNT_OVF | RES_OVF | REFUSED | GLB_ID_DEVICE | STEP_MAJOR | STEP_MINOR | FAMILY
  | MAP_REV | BOOT_SPI | SAFE | XTAL_BYP | SAFE_START | PATH | COLD | TICK_PERIOD
  | TICK_NUMBER | ALERT_CAUSE | ALERT_FATAL | ALERT_OUT | ALERT_EN | GLB_INT_INT_EN | INT_VEC | INT_LINK
  | INT_LD | INT_TGT_ERR | FATAL | FATAL_BLK | WARM_RST | WDOG_KICK | WDOG_MS | WARM_CAUSE
  | WARM_CNT | ACC_ERR_CNT | GLB_FLAGS_CNT_OVF | PARK_DROP_CNT | CTX_MISS_CNT | RAE_DUP_CNT | SEQ_NAK_CNT | RNR_SENT_CNT
  | RAE_RETX_CNT | CNP_RX_CNT | RX_DROP_CNT | RETRY_EXC_CNT
deriving DecidableEq, Repr

/-- What a register table says of one field: its width in bits, its Reset column, and the limits that
its write rule clamps to (the full range where the table gives none). -/
structure FSpec where
  width : Nat
  reset : Nat
  lo : Nat
  hi : Nat
deriving DecidableEq, Repr

/-- The Bits and Reset columns and the clamping write rules of the register tables. -/
def Fld.spec : Fld → FSpec
  | .MARGIN => ⟨8, 16, 8, 255⟩
  | .BIND_FRAC => ⟨8, 16, 0, 255⟩
  | .MEAS_CLR => ⟨1, 0, 0, 1⟩
  | .HOLDUP_INVERT => ⟨1, 0, 0, 1⟩
  | .DRAIN_NOW => ⟨1, 0, 0, 1⟩
  | .VCAL_NOW => ⟨1, 0, 0, 1⟩
  | .CCAL_NOW => ⟨1, 0, 0, 1⟩
  | .ARMED => ⟨1, 0, 0, 1⟩
  | .RATE_VALID => ⟨1, 0, 0, 1⟩
  | .HOLDUP_SNS_FAULT => ⟨1, 0, 0, 1⟩
  | .HOLDUP_REVERSED => ⟨1, 0, 0, 1⟩
  | .FLOAT_OVER => ⟨1, 0, 0, 1⟩
  | .CAL_REJECT => ⟨1, 0, 0, 1⟩
  | .DRAINING => ⟨1, 0, 0, 1⟩
  | .CCAL_BUSY => ⟨1, 0, 0, 1⟩
  | .LIMIT_SRC => ⟨2, 3, 0, 3⟩
  | .FLOAT_PAGES => ⟨32, 0, 0, 4294967295⟩
  | .FLOAT_LIMIT => ⟨32, 0, 0, 4294967295⟩
  | .FLOAT_CAP => ⟨32, 67108864, 0, 67108864⟩
  | .VAULT_FREE_MIB => ⟨32, 0, 0, 4294967295⟩
  | .T_HOLD_US => ⟨32, 0, 0, 4294967295⟩
  | .DRAIN_FIXED_US => ⟨32, 44020, 0, 4294967295⟩
  | .DRAIN_RATE_CAL => ⟨32, 0, 0, 4294967295⟩
  | .DRAIN_RATE_LAST => ⟨32, 0, 0, 4294967295⟩
  | .STALL_CNT => ⟨32, 0, 0, 4294967295⟩
  | .STALL_OVF => ⟨1, 0, 0, 1⟩
  | .VAULT_CAP_MIB => ⟨32, 0, 0, 4294967295⟩
  | .HOLDUP_FLOOR_MV => ⟨16, 0, 0, 65535⟩
  | .HOLDUP_VMIN_MV => ⟨16, 0, 0, 65535⟩
  | .HOLDUP_HYST_MV => ⟨16, 2000, 0, 65535⟩
  | .CCAL_LO_MV => ⟨16, 0, 0, 65535⟩
  | .HOLDUP_CAP_NOM_MF => ⟨24, 0, 0, 16777215⟩
  | .HOLDUP_CAP_MEAS_MF => ⟨24, 0, 0, 16777215⟩
  | .CCAL_INTERVAL_H => ⟨8, 24, 0, 255⟩
  | .DRAIN_POWER_W => ⟨16, 65535, 0, 65535⟩
  | .DRAIN_EFF_PM => ⟨10, 0, 0, 1000⟩
  | .DRAIN_POWER_MEAS_W => ⟨16, 0, 0, 65535⟩
  | .VCAL_INTERVAL_S => ⟨16, 60, 10, 3600⟩
  | .HOLDUP_MV => ⟨16, 0, 0, 65535⟩
  | .PMBUS_MV => ⟨16, 0, 0, 65535⟩
  | .HOLDUP_DIV => ⟨16, 0, 0, 65535⟩
  | .HOLDUP_PMBUS_ADDR => ⟨7, 0, 0, 127⟩
  | .GUAR_WT => ⟨16, 4096, 0, 65535⟩
  | .STALLED => ⟨1, 0, 0, 1⟩
  | .CHARGE => ⟨32, 0, 0, 4294967295⟩
  | .SHARE => ⟨32, 0, 0, 4294967295⟩
  | .SPLIT => ⟨1, 0, 0, 1⟩
  | .MAX_RATE => ⟨3, 5, 0, 5⟩
  | .MLD => ⟨1, 0, 0, 1⟩
  | .IDE_REQUIRED => ⟨1, 0, 0, 1⟩
  | .DOWNSHIFT_EN => ⟨1, 1, 0, 1⟩
  | .PORT_OFFLINE => ⟨1, 0, 0, 1⟩
  | .RETRAIN_LIMIT => ⟨8, 16, 0, 255⟩
  | .BI_TIMEOUT_MS => ⟨16, 10, 1, 65535⟩
  | .DEVLOAD_LOW => ⟨16, 16, 0, 65535⟩
  | .SPLIT_ACT => ⟨1, 0, 0, 1⟩
  | .PRT_LINK_STATUS_LINK_UP => ⟨1, 0, 0, 1⟩
  | .RATE => ⟨3, 0, 0, 7⟩
  | .WIDTH => ⟨5, 0, 0, 31⟩
  | .REVERSED => ⟨1, 0, 0, 1⟩
  | .FLIT256 => ⟨1, 0, 0, 1⟩
  | .HDM_DB => ⟨1, 0, 0, 1⟩
  | .IDE_MEM => ⟨1, 0, 0, 1⟩
  | .IDE_IO => ⟨1, 0, 0, 1⟩
  | .MEM_ACTIVE => ⟨1, 0, 0, 1⟩
  | .LINK_RETRAIN => ⟨1, 0, 0, 1⟩
  | .POLARITY => ⟨16, 0, 0, 65535⟩
  | .RETRAIN_CNT => ⟨32, 0, 0, 4294967295⟩
  | .BI_TIMEOUT_CNT => ⟨32, 0, 0, 4294967295⟩
  | .DOWNSHIFT_CNT => ⟨32, 0, 0, 4294967295⟩
  | .IDE_FAIL_CNT => ⟨32, 0, 0, 4294967295⟩
  | .PRT_LINK_FLAGS_CNT_OVF => ⟨4, 0, 0, 15⟩
  | .BENCH_FULL => ⟨1, 0, 0, 1⟩
  | .BENCH_USED => ⟨18, 0, 0, 262143⟩
  | .BENCH_PEAK => ⟨18, 0, 0, 262143⟩
  | .LD_EN => ⟨1, 0, 0, 1⟩
  | .PRT_LD_CFG_DOMAIN => ⟨8, 0, 0, 255⟩
  | .LD_CAP_256M => ⟨20, 0, 0, 524288⟩
  | .BENCH_QUOTA => ⟨16, 1024, 0, 65535⟩
  | .SETTLE_EN => ⟨1, 0, 0, 1⟩
  | .SETTLE_PFN => ⟨35, 0, 0, 34359738367⟩
  | .BENCHED => ⟨18, 0, 0, 262143⟩
  | .DEVLOAD => ⟨2, 0, 0, 3⟩
  | .DC_EXTENTS => ⟨9, 0, 0, 511⟩
  | .POISON_RD_CNT => ⟨32, 0, 0, 4294967295⟩
  | .UNMAPPED_CNT => ⟨32, 0, 0, 4294967295⟩
  | .PRT_LD_FLAGS_CNT_OVF => ⟨2, 0, 0, 3⟩
  | .SQ_TAIL => ⟨16, 0, 0, 65535⟩
  | .CQ_HEAD => ⟨16, 0, 0, 65535⟩
  | .QP_EN => ⟨1, 0, 0, 1⟩
  | .QP_RESET => ⟨1, 0, 0, 1⟩
  | .QP_CTRL_INT_EN => ⟨1, 0, 0, 1⟩
  | .CLASS_SC1 => ⟨1, 0, 0, 1⟩
  | .WEIGHT => ⟨8, 1, 1, 255⟩
  | .MAX_INFLIGHT => ⟨13, 256, 1, 4096⟩
  | .QP_SQ_BASE => ⟨52, 0, 0, 4503599627370495⟩
  | .QP_CQ_BASE => ⟨52, 0, 0, 4503599627370495⟩
  | .SQ_LOG2 => ⟨5, 4, 4, 16⟩
  | .CQ_LOG2 => ⟨5, 4, 4, 16⟩
  | .MSIX_VEC => ⟨11, 0, 0, 2047⟩
  | .COAL_CNT => ⟨8, 1, 0, 255⟩
  | .COAL_US => ⟨16, 0, 0, 65535⟩
  | .SQ_HEAD => ⟨16, 0, 0, 65535⟩
  | .CQ_TAIL => ⟨16, 0, 0, 65535⟩
  | .CQ_PHASE => ⟨1, 1, 0, 1⟩
  | .RESET_BUSY => ⟨1, 0, 0, 1⟩
  | .QP_ERR => ⟨1, 0, 0, 1⟩
  | .DB_ERR => ⟨1, 0, 0, 1⟩
  | .CFG_ERR => ⟨1, 0, 0, 1⟩
  | .INFLIGHT => ⟨13, 0, 0, 8191⟩
  | .QP_OWNER_DOMAIN => ⟨8, 0, 0, 255⟩
  | .QP_OWNER_LINK => ⟨3, 0, 0, 7⟩
  | .QP_OWNER_LD => ⟨4, 0, 0, 15⟩
  | .QP_OWNER_ASSIGNED => ⟨1, 0, 0, 1⟩
  | .SC2_AGE_US => ⟨16, 8, 1, 65535⟩
  | .EXEC_USED => ⟨15, 0, 0, 32767⟩
  | .WAIT_USED => ⟨13, 0, 0, 8191⟩
  | .LOCK_USED => ⟨13, 0, 0, 8191⟩
  | .LOCK_PEAK => ⟨13, 0, 0, 8191⟩
  | .LOCK_WAIT_CNT => ⟨32, 0, 0, 4294967295⟩
  | .RESET_CNT => ⟨32, 0, 0, 4294967295⟩
  | .CUT_CNT => ⟨32, 0, 0, 4294967295⟩
  | .DB_ERR_CNT => ⟨32, 0, 0, 4294967295⟩
  | .CMD_FLAGS_CNT_OVF => ⟨4, 0, 0, 15⟩
  | .CMD_QP_ASSIGN_ASSIGNED => ⟨1, 0, 0, 1⟩
  | .CMD_QP_ASSIGN_LINK => ⟨3, 0, 0, 7⟩
  | .CMD_QP_ASSIGN_LD => ⟨4, 0, 0, 15⟩
  | .STRIDE_FRAMES => ⟨20, 65536, 1024, 1048575⟩
  | .FREE_LOW => ⟨28, 65536, 0, 268435455⟩
  | .DF_RESERVE => ⟨12, 1024, 64, 3072⟩
  | .ID_SIDE => ⟨1, 0, 0, 1⟩
  | .POOL_FRAMES => ⟨28, 0, 0, 268435455⟩
  | .FREE_FRAMES => ⟨28, 0, 0, 268435455⟩
  | .POOL_DRY => ⟨1, 0, 0, 1⟩
  | .FLOOR_SCALED => ⟨1, 0, 0, 1⟩
  | .CAP_TP => ⟨32, 0, 0, 4294967295⟩
  | .RESERVED_TP => ⟨32, 0, 0, 4294967295⟩
  | .OBJ_COUNT => ⟨25, 0, 0, 33554431⟩
  | .MAP_USED => ⟨32, 0, 0, 4294967295⟩
  | .MOVES_USED => ⟨13, 0, 0, 8191⟩
  | .DF_ACTIVE => ⟨13, 0, 0, 8191⟩
  | .DF_CNT => ⟨32, 0, 0, 4294967295⟩
  | .EVICT_CNT => ⟨32, 0, 0, 4294967295⟩
  | .POOL_DRY_CNT => ⟨32, 0, 0, 4294967295⟩
  | .DF_MAX_US => ⟨32, 0, 0, 4294967295⟩
  | .TPE_FLAGS_CNT_OVF => ⟨3, 0, 0, 7⟩
  | .FLOOR_CLAMP => ⟨1, 0, 0, 1⟩
  | .OVER_BOUND => ⟨1, 0, 0, 1⟩
  | .FLOOR_FRAMES => ⟨28, 0, 0, 268435455⟩
  | .CEIL_FRAMES => ⟨28, 268435455, 0, 268435455⟩
  | .OVER_CEIL => ⟨1, 0, 0, 1⟩
  | .TALLY => ⟨28, 0, 0, 268435455⟩
  | .TPE_DOM_STATE_PINNED => ⟨28, 0, 0, 268435455⟩
  | .FLOOR_EFF => ⟨28, 0, 0, 268435455⟩
  | .STREAM_DEPTH => ⟨11, 64, 1, 1024⟩
  | .PLACE_DL_US => ⟨32, 10000, 1, 4294967295⟩
  | .REFILL_EN => ⟨1, 1, 0, 1⟩
  | .STREAMS_ACTIVE => ⟨11, 0, 0, 2047⟩
  | .REFILL_LEFT => ⟨28, 0, 0, 268435455⟩
  | .REFILL_DONE => ⟨1, 0, 0, 1⟩
  | .LATE_CNT => ⟨32, 0, 0, 4294967295⟩
  | .MISS_DL_CNT => ⟨32, 0, 0, 4294967295⟩
  | .CEIL_CNCL_CNT => ⟨32, 0, 0, 4294967295⟩
  | .TPE_DOM_STRM2_CNT_OVF => ⟨3, 0, 0, 7⟩
  | .STREAMS => ⟨7, 0, 0, 127⟩
  | .SLICE_DIS_REQ => ⟨16, 0, 0, 65535⟩
  | .WAY_CE_LIMIT => ⟨8, 16, 1, 255⟩
  | .WAY_CE_WIN_MS => ⟨16, 1000, 1, 65535⟩
  | .SLICE_EN => ⟨16, 65535, 0, 65535⟩
  | .SLICE_BUSY => ⟨16, 0, 0, 65535⟩
  | .TAG_FATAL => ⟨1, 0, 0, 1⟩
  | .PG_ERR => ⟨1, 0, 0, 1⟩
  | .LOCK_ERR => ⟨1, 0, 0, 1⟩
  | .SF_USED => ⟨25, 0, 0, 33554431⟩
  | .SF_EVICT_CNT => ⟨32, 0, 0, 4294967295⟩
  | .SF_EVICT_OVF => ⟨1, 0, 0, 1⟩
  | .OBJ_ID => ⟨32, 0, 0, 4294967295⟩
  | .WAYS => ⟨8, 0, 0, 255⟩
  | .LOCK_EN => ⟨1, 0, 0, 1⟩
  | .TP_FIRST => ⟨32, 0, 0, 4294967295⟩
  | .TP_LAST => ⟨32, 0, 0, 4294967295⟩
  | .PG_REQ => ⟨4, 15, 0, 15⟩
  | .PG_STATE => ⟨4, 15, 0, 15⟩
  | .PG_BUSY => ⟨4, 0, 0, 15⟩
  | .GRP_INV => ⟨4, 0, 0, 15⟩
  | .INV_DONE => ⟨4, 0, 0, 15⟩
  | .WAY_DIS => ⟨24, 0, 0, 16777215⟩
  | .MR_USED => ⟨8, 0, 0, 255⟩
  | .MR_PEAK => ⟨8, 0, 0, 255⟩
  | .MQ_USED => ⟨7, 0, 0, 127⟩
  | .MR_FULL_CNT => ⟨32, 0, 0, 4294967295⟩
  | .MERGE_FULL_CNT => ⟨32, 0, 0, 4294967295⟩
  | .FCH_SL_ERR_CE_CNT => ⟨32, 0, 0, 4294967295⟩
  | .FCH_SL_ERR_UE_CNT => ⟨32, 0, 0, 4294967295⟩
  | .FCH_SL_FLAGS_CNT_OVF => ⟨4, 0, 0, 15⟩
  | .GRAIN_LOG2 => ⟨5, 12, 0, 31⟩
  | .CH_HALF => ⟨1, 0, 0, 1⟩
  | .FORCE_6CH => ⟨1, 0, 0, 1⟩
  | .NR_LOG2 => ⟨5, 11, 8, 16⟩
  | .NR_DRFM_OFF => ⟨1, 0, 0, 1⟩
  | .REF_DEBT_TGT => ⟨4, 4, 0, 8⟩
  | .MAX_MTS => ⟨15, 8800, 0, 32767⟩
  | .WQ_HI => ⟨8, 96, 0, 128⟩
  | .WQ_LO => ⟨8, 32, 0, 128⟩
  | .AGE_SC0_NS => ⟨16, 1000, 100, 65535⟩
  | .AGE_SC1_NS => ⟨16, 2000, 100, 65535⟩
  | .AGE_SC2_NS => ⟨16, 8000, 100, 65535⟩
  | .AGE_SC3_NS => ⟨16, 32000, 100, 65535⟩
  | .BUDGET_SC0 => ⟨8, 64, 0, 255⟩
  | .BUDGET_SC1 => ⟨8, 128, 0, 255⟩
  | .BUDGET_SC2 => ⟨8, 52, 0, 255⟩
  | .BUDGET_SC3 => ⟨8, 12, 0, 255⟩
  | .SC0_RSV => ⟨8, 8, 0, 32⟩
  | .RD_WIN_LOG2 => ⟨5, 16, 10, 24⟩
  | .RD_LIMIT => ⟨8, 16, 0, 255⟩
  | .WR_LIMIT => ⟨8, 16, 0, 255⟩
  | .WR_TRACK_MS => ⟨16, 100, 1, 65535⟩
  | .WR_SLICE_NS => ⟨16, 500, 200, 65535⟩
  | .CH_ACTIVE => ⟨12, 0, 0, 4095⟩
  | .CH_FAIL => ⟨12, 0, 0, 4095⟩
  | .TRAIN_DONE => ⟨1, 0, 0, 1⟩
  | .DATA_MTS => ⟨14, 0, 0, 16383⟩
  | .DIMM_TYPE => ⟨2, 0, 0, 3⟩
  | .RANKS => ⟨3, 0, 0, 7⟩
  | .CH_CAP_GIB => ⟨10, 0, 0, 1023⟩
  | .REF_DEBT => ⟨16, 0, 0, 65535⟩
  | .HOT => ⟨4, 0, 0, 15⟩
  | .DRFM_AVAIL => ⟨1, 0, 0, 1⟩
  | .RQ_USED => ⟨8, 0, 0, 255⟩
  | .WQ_USED => ⟨8, 0, 0, 255⟩
  | .DIMM_TEMP_C => ⟨8, 0, 0, 255⟩
  | .PROMOTE_CNT => ⟨32, 0, 0, 4294967295⟩
  | .REF_FORCED_CNT => ⟨32, 0, 0, 4294967295⟩
  | .NR_CNT => ⟨32, 0, 0, 4294967295⟩
  | .CA_PAR_CNT => ⟨32, 0, 0, 4294967295⟩
  | .RD_ADJ_CNT => ⟨32, 0, 0, 4294967295⟩
  | .WR_ADJ_CNT => ⟨32, 0, 0, 4294967295⟩
  | .DRC_CH_FLAGS_CNT_OVF => ⟨6, 0, 0, 63⟩
  | .LIMIT_HIT => ⟨1, 0, 0, 1⟩
  | .HOT_ALERT => ⟨1, 0, 0, 1⟩
  | .RD_CENTRE => ⟨8, 0, 0, 255⟩
  | .RD_OFS => ⟨8, 0, 0, 255⟩
  | .WR_CENTRE => ⟨8, 0, 0, 255⟩
  | .WR_OFS => ⟨8, 0, 0, 255⟩
  | .VREF_RD => ⟨8, 0, 0, 255⟩
  | .EYE_STEPS => ⟨8, 0, 0, 255⟩
  | .RETRAIN => ⟨1, 0, 0, 1⟩
  | .RETRAIN_BUSY => ⟨1, 0, 0, 1⟩
  | .USE_PM => ⟨10, 750, 500, 900⟩
  | .VAULT_BLK => ⟨12, 2064, 512, 4095⟩
  | .GC_LO_BLK => ⟨12, 256, 0, 4095⟩
  | .GC_HI_BLK => ⟨12, 512, 0, 4095⟩
  | .SUSPEND_MAX => ⟨4, 4, 1, 15⟩
  | .CH_ONLINE => ⟨36, 0, 0, 68719476735⟩
  | .DEGRADED_0 => ⟨1, 0, 0, 1⟩
  | .DEGRADED_1 => ⟨1, 0, 0, 1⟩
  | .MEDIA_READY => ⟨1, 0, 0, 1⟩
  | .STRIPE_LOSS => ⟨1, 0, 0, 1⟩
  | .RETIRE_REFUSED => ⟨1, 0, 0, 1⟩
  | .CAP_SHORT => ⟨1, 0, 0, 1⟩
  | .CH_STATE => ⟨2, 0, 0, 3⟩
  | .TOGGLE => ⟨1, 0, 0, 1⟩
  | .MTS => ⟨12, 0, 0, 4095⟩
  | .DIES => ⟨6, 0, 0, 63⟩
  | .FREE_BLK => ⟨18, 0, 0, 262143⟩
  | .BAD_BLK => ⟨18, 0, 0, 262143⟩
  | .RETIRE => ⟨1, 0, 0, 1⟩
  | .PE_AVG => ⟨16, 0, 0, 65535⟩
  | .PE_MAX => ⟨16, 0, 0, 65535⟩
  | .PE_RATED => ⟨16, 0, 0, 65535⟩
  | .WEAR_PM => ⟨10, 0, 0, 1023⟩
  | .RETRY_CNT => ⟨32, 0, 0, 4294967295⟩
  | .REBUILT_CNT => ⟨32, 0, 0, 4294967295⟩
  | .PROG_FAIL_CNT => ⟨32, 0, 0, 4294967295⟩
  | .ERASE_FAIL_CNT => ⟨32, 0, 0, 4294967295⟩
  | .NFC_CH_FLAGS_CNT_OVF => ⟨4, 0, 0, 15⟩
  | .WEAR_WARN => ⟨1, 0, 0, 1⟩
  | .REBUILD_LEFT => ⟨32, 0, 0, 4294967295⟩
  | .PRESENT => ⟨1, 0, 0, 1⟩
  | .ID_STATE => ⟨2, 0, 0, 3⟩
  | .REFUSE_CAUSE => ⟨3, 0, 0, 7⟩
  | .PWR_ON => ⟨1, 0, 0, 1⟩
  | .SLOT_PWR => ⟨1, 1, 0, 1⟩
  | .RETIRE_SLOT => ⟨1, 0, 0, 1⟩
  | .ADOPT => ⟨1, 0, 0, 1⟩
  | .CARRIER_UID => ⟨64, 0, 0, 18446744073709551615⟩
  | .SETTLE_MAX => ⟨13, 4096, 1, 4096⟩
  | .SETTLES_ACTIVE => ⟨13, 0, 0, 8191⟩
  | .REHOME_LEFT => ⟨32, 0, 0, 4294967295⟩
  | .SETTLE_SEQ => ⟨64, 0, 0, 18446744073709551615⟩
  | .SETTLE_CNT => ⟨32, 0, 0, 4294967295⟩
  | .REDIRTY_CNT => ⟨32, 0, 0, 4294967295⟩
  | .STL_FLAGS_CNT_OVF => ⟨2, 0, 0, 3⟩
  | .SCRUB_HOURS => ⟨8, 24, 0, 255⟩
  | .RECOVER_DL_US => ⟨16, 2000, 100, 65535⟩
  | .REMAP_EN => ⟨1, 1, 0, 1⟩
  | .SPPR_EN => ⟨1, 1, 0, 1⟩
  | .PPR_SLICE_NS => ⟨16, 4000, 1000, 65535⟩
  | .DEV_MARK_CE => ⟨16, 256, 0, 65535⟩
  | .SCRUB_PASSES => ⟨32, 0, 0, 4294967295⟩
  | .RECODE_LEFT => ⟨17, 0, 0, 131071⟩
  | .RETIRE_PEND => ⟨7, 0, 0, 127⟩
  | .META_FATAL => ⟨1, 0, 0, 1⟩
  | .SCRUB_LA => ⟨37, 0, 0, 137438953471⟩
  | .FLIP_OBJ => ⟨32, 0, 0, 4294967295⟩
  | .FLIP_READS => ⟨4, 0, 0, 15⟩
  | .FLIP_ARM => ⟨1, 0, 0, 1⟩
  | .FLIP_LINE => ⟨42, 0, 0, 4398046511103⟩
  | .DEV_A => ⟨4, 0, 0, 9⟩
  | .DEV_B => ⟨4, 0, 0, 9⟩
  | .B_EN => ⟨1, 0, 0, 1⟩
  | .INT_FLIP_PAT_A => ⟨64, 0, 0, 18446744073709551615⟩
  | .INT_FLIP_PAT_B => ⟨64, 0, 0, 18446744073709551615⟩
  | .SCRUB_OVF => ⟨1, 0, 0, 1⟩
  | .REMAP_FULL => ⟨1, 0, 0, 1⟩
  | .REPAIR_FAIL => ⟨1, 0, 0, 1⟩
  | .INT_CH_ERR_CE_CNT => ⟨32, 0, 0, 4294967295⟩
  | .INT_CH_ERR_UE_CNT => ⟨32, 0, 0, 4294967295⟩
  | .REBUILD_CNT => ⟨32, 0, 0, 4294967295⟩
  | .HOME_CNT => ⟨32, 0, 0, 4294967295⟩
  | .TWIN_CNT => ⟨32, 0, 0, 4294967295⟩
  | .POISON_CNT => ⟨32, 0, 0, 4294967295⟩
  | .REMAP_USED => ⟨6, 0, 0, 63⟩
  | .MARK_VALID => ⟨8, 0, 0, 255⟩
  | .MARK_DEV => ⟨32, 0, 0, 4294967295⟩
  | .PPR_BUSY => ⟨1, 0, 0, 1⟩
  | .INT_CH_FLAGS_CNT_OVF => ⟨6, 0, 0, 63⟩
  | .VALID => ⟨1, 0, 0, 1⟩
  | .LA => ⟨37, 0, 0, 137438953471⟩
  | .INT_REMAP_DEVICE => ⟨4, 0, 0, 15⟩
  | .POISONED => ⟨1, 0, 0, 1⟩
  | .SPPR_PEND => ⟨1, 0, 0, 1⟩
  | .MIR_PORTS => ⟨2, 1, 0, 3⟩
  | .E1_HALF => ⟨1, 0, 0, 1⟩
  | .TAKEOVER => ⟨1, 0, 0, 1⟩
  | .RETRY_MATCH => ⟨1, 0, 0, 1⟩
  | .LINK_RESTART => ⟨1, 0, 0, 1⟩
  | .HB_LOSS_US => ⟨16, 50, 20, 65535⟩
  | .LINK_LOSS_US => ⟨16, 50, 20, 65535⟩
  | .RETX_US => ⟨16, 20, 1, 65535⟩
  | .ACK_LOSS_MS => ⟨16, 10, 1, 65535⟩
  | .PAIR_ID => ⟨64, 0, 0, 18446744073709551615⟩
  | .PARTNER_UID => ⟨64, 0, 0, 18446744073709551615⟩
  | .STATE => ⟨2, 0, 0, 3⟩
  | .SENIOR => ⟨1, 0, 0, 1⟩
  | .MIR_STATUS_LINK_UP => ⟨1, 0, 0, 1⟩
  | .HB_ALIVE => ⟨1, 0, 0, 1⟩
  | .GRANT => ⟨1, 0, 0, 1⟩
  | .RESYNC_BUSY => ⟨1, 0, 0, 1⟩
  | .FULL_RESYNC => ⟨1, 0, 0, 1⟩
  | .ID_FAIL => ⟨3, 0, 0, 7⟩
  | .UNMATCHED => ⟨1, 0, 0, 1⟩
  | .TOOK_OVER => ⟨1, 0, 0, 1⟩
  | .SSN_ISSUED => ⟨64, 0, 0, 18446744073709551615⟩
  | .SSN_ACKED => ⟨64, 0, 0, 18446744073709551615⟩
  | .TWIN_APPLIED => ⟨64, 0, 0, 18446744073709551615⟩
  | .RESYNC_LEFT => ⟨32, 0, 0, 4294967295⟩
  | .SOLO_PAGES => ⟨32, 0, 0, 4294967295⟩
  | .RETX_RECORDS => ⟨12, 0, 0, 4095⟩
  | .RETX_CNT => ⟨32, 0, 0, 4294967295⟩
  | .TAG_FAIL_CNT => ⟨32, 0, 0, 4294967295⟩
  | .DUP_CNT => ⟨32, 0, 0, 4294967295⟩
  | .LINK_LOSS_CNT => ⟨32, 0, 0, 4294967295⟩
  | .FETCH_CNT => ⟨32, 0, 0, 4294967295⟩
  | .SOLO_CNT => ⟨32, 0, 0, 4294967295⟩
  | .MIR_FLAGS_CNT_OVF => ⟨6, 0, 0, 63⟩
  | .SPLIT_SEEN => ⟨1, 0, 0, 1⟩
  | .RETX_FULL => ⟨1, 0, 0, 1⟩
  | .PORT_EN => ⟨4, 0, 0, 15⟩
  | .E0_SPLIT => ⟨1, 0, 0, 1⟩
  | .E1_SPLIT => ⟨1, 0, 0, 1⟩
  | .PFC_PRIO => ⟨3, 3, 0, 7⟩
  | .PFC_EN => ⟨1, 1, 0, 1⟩
  | .CC_EN => ⟨1, 1, 0, 1⟩
  | .RNR_TIMER => ⟨5, 1, 0, 31⟩
  | .CNP_INTERVAL_US => ⟨16, 50, 0, 65535⟩
  | .CC_CUT => ⟨8, 64, 0, 192⟩
  | .CC_RECOVER_US => ⟨16, 55, 1, 65535⟩
  | .CC_STEP_GBPS => ⟨8, 5, 0, 255⟩
  | .INDEX => ⟨16, 0, 0, 65535⟩
  | .TARGET => ⟨1, 0, 0, 1⟩
  | .RAE_CMD_OP => ⟨3, 0, 0, 7⟩
  | .RAE_CMD_BUSY => ⟨1, 0, 0, 1⟩
  | .RAE_CMD_RESULT => ⟨3, 0, 0, 7⟩
  | .CTX => ⟨16, 0, 0, 65535⟩
  | .ADD => ⟨32, 0, 0, 4294967295⟩
  | .CTX_ONCHIP => ⟨13, 0, 0, 8191⟩
  | .PARK_PKTS => ⟨9, 0, 0, 511⟩
  | .PARK_BYTES => ⟨21, 0, 0, 2097151⟩
  | .RAE_STATUS_PINNED => ⟨11, 0, 0, 2047⟩
  | .RAE_CTX_DATA_DATA => ⟨64, 0, 0, 18446744073709551615⟩
  | .MAC => ⟨48, 0, 0, 281474976710655⟩
  | .PHY_UP => ⟨1, 0, 0, 1⟩
  | .MIRROR => ⟨1, 0, 0, 1⟩
  | .IPV4 => ⟨32, 0, 0, 4294967295⟩
  | .IPV6_LO => ⟨64, 0, 0, 18446744073709551615⟩
  | .IPV6_HI => ⟨64, 0, 0, 18446744073709551615⟩
  | .RAE_FLAGS_CNT_OVF => ⟨9, 0, 0, 511⟩
  | .CTX_ERR => ⟨1, 0, 0, 1⟩
  | .PARK_FULL => ⟨1, 0, 0, 1⟩
  | .TL_CMD_OP => ⟨3, 0, 0, 7⟩
  | .SLOT => ⟨12, 0, 0, 4095⟩
  | .TL_CMD_BUSY => ⟨1, 0, 0, 1⟩
  | .TL_CMD_RESULT => ⟨3, 0, 0, 7⟩
  | .TL_STATE_DOMAIN => ⟨8, 0, 0, 255⟩
  | .TL_STATE_KEK_SET => ⟨1, 0, 0, 1⟩
  | .Q_MODE => ⟨2, 0, 0, 3⟩
  | .Q_REFS => ⟨25, 0, 0, 33554431⟩
  | .RAND => ⟨64, 0, 0, 18446744073709551615⟩
  | .TL_DATA_DATA => ⟨64, 0, 0, 18446744073709551615⟩
  | .CLUSTER_FENCE => ⟨8, 0, 0, 255⟩
  | .RESEED_MS => ⟨16, 1000, 1, 65535⟩
  | .CLUSTER_ACTIVE => ⟨8, 255, 0, 255⟩
  | .CLUSTER_FAULT => ⟨8, 0, 0, 255⟩
  | .TRNG_FAIL => ⟨1, 0, 0, 1⟩
  | .FENCE_ERR => ⟨1, 0, 0, 1⟩
  | .GCM_FAIL_CNT => ⟨32, 0, 0, 4294967295⟩
  | .PARITY_CNT => ⟨32, 0, 0, 4294967295⟩
  | .CIP_FLAGS_CNT_OVF => ⟨2, 0, 0, 3⟩
  | .DEVICE_UID => ⟨64, 0, 0, 18446744073709551615⟩
  | .BOOT_DEV => ⟨1, 0, 0, 1⟩
  | .FW_DEV => ⟨1, 0, 0, 1⟩
  | .FW_SVN => ⟨7, 0, 0, 127⟩
  | .SVN_FUSE => ⟨7, 0, 0, 127⟩
  | .SVN_COMMIT => ⟨1, 0, 0, 1⟩
  | .ROOT_KEY => ⟨2, 0, 0, 3⟩
  | .ROOT_REVOKED => ⟨4, 0, 0, 15⟩
  | .OWNER_SET => ⟨1, 0, 0, 1⟩
  | .SESSIONS => ⟨4, 0, 0, 15⟩
  | .SEC_DKEK_SET_KEK_SET => ⟨64, 0, 0, 18446744073709551615⟩
  | .OWNER => ⟨8, 0, 0, 255⟩
  | .ANY => ⟨1, 0, 0, 1⟩
  | .MODE => ⟨2, 0, 0, 3⟩
  | .REFS => ⟨25, 0, 0, 33554431⟩
  | .WHISTLE_EN => ⟨1, 0, 0, 1⟩
  | .WH_SYNC_STEP => ⟨4, 15, 0, 15⟩
  | .MIN_OFF_MS => ⟨11, 100, 20, 2047⟩
  | .UP_DELAY_US => ⟨10, 100, 0, 1023⟩
  | .DOWN_DELAY_US => ⟨10, 500, 0, 1000⟩
  | .WH_TIMEOUT_MS => ⟨10, 100, 1, 1023⟩
  | .PMBUS_POLL_MS => ⟨6, 10, 1, 63⟩
  | .FF_CLR => ⟨1, 0, 0, 1⟩
  | .SEQ_STATE => ⟨3, 6, 0, 7⟩
  | .UP_STEP_NOW => ⟨4, 0, 0, 15⟩
  | .DOWN_STEP_NOW => ⟨3, 0, 0, 7⟩
  | .PWR_REQ_IN => ⟨1, 0, 0, 1⟩
  | .PFAIL_IN => ⟨1, 0, 0, 1⟩
  | .WHISTLE_IN => ⟨1, 0, 0, 1⟩
  | .WHISTLE_OUT => ⟨1, 0, 0, 1⟩
  | .ON_LATCHED => ⟨1, 0, 0, 1⟩
  | .SNS_OPEN => ⟨1, 0, 0, 1⟩
  | .SNS_NEG => ⟨1, 0, 0, 1⟩
  | .FF_VALID => ⟨1, 0, 0, 1⟩
  | .PMBUS_ERR => ⟨1, 0, 0, 1⟩
  | .PWR_STATUS_DOM_FAIL => ⟨1, 0, 0, 1⟩
  | .RAIL_EN_OUT => ⟨24, 0, 0, 16777215⟩
  | .RAIL_PG_IN => ⟨24, 0, 0, 16777215⟩
  | .RAIL_FAILED => ⟨24, 0, 0, 16777215⟩
  | .RAIL_RETRYING => ⟨24, 0, 0, 16777215⟩
  | .POWER_CYCLES => ⟨32, 0, 0, 4294967295⟩
  | .FAULT_CNT => ⟨32, 0, 0, 4294967295⟩
  | .CHATTER_CNT => ⟨32, 0, 0, 4294967295⟩
  | .WHISTLE_CNT => ⟨32, 0, 0, 4294967295⟩
  | .PWR_FLAGS_CNT_OVF => ⟨4, 0, 0, 15⟩
  | .FF => ⟨64, 0, 0, 18446744073709551615⟩
  | .DOM_ON => ⟨64, 0, 0, 18446744073709551615⟩
  | .PWR_DOM_FAIL_DOM_FAIL => ⟨64, 0, 0, 18446744073709551615⟩
  | .EN => ⟨1, 1, 0, 1⟩
  | .UP_STEP => ⟨4, 0, 0, 15⟩
  | .DOWN_STEP => ⟨3, 0, 0, 7⟩
  | .PWR_RAIL_CFG_GROUP => ⟨3, 0, 0, 7⟩
  | .REACTION => ⟨2, 3, 0, 3⟩
  | .DRAIN_NEED => ⟨1, 1, 0, 1⟩
  | .PMBUS_EN => ⟨1, 0, 0, 1⟩
  | .PMBUS_ADDR => ⟨7, 0, 0, 127⟩
  | .PMBUS_PAGE => ⟨8, 0, 0, 255⟩
  | .DRAM_CH => ⟨12, 0, 0, 4095⟩
  | .DWELL_US => ⟨16, 100, 1, 65535⟩
  | .CHATTER_LIMIT => ⟨4, 8, 0, 15⟩
  | .RAMP_TIMEOUT_US => ⟨16, 10000, 100, 65535⟩
  | .DEGLITCH_US => ⟨8, 2, 1, 255⟩
  | .ATTEMPTS => ⟨2, 0, 0, 3⟩
  | .CHATTER_NOW => ⟨5, 0, 0, 31⟩
  | .LAST_CAUSE => ⟨4, 0, 0, 15⟩
  | .FLUSH_HI => ⟨18, 196608, 4096, 229376⟩
  | .FLUSH_NOW => ⟨1, 0, 0, 1⟩
  | .HEAD_SEQ => ⟨64, 1, 0, 18446744073709551615⟩
  | .TAIL_SEQ => ⟨64, 1, 0, 18446744073709551615⟩
  | .FLUSH_SEQ => ⟨64, 1, 0, 18446744073709551615⟩
  | .TAIL_OFS => ⟨18, 0, 0, 262143⟩
  | .HEAD_OFS => ⟨18, 0, 0, 262143⟩
  | .FLUSH_BUSY => ⟨1, 0, 0, 1⟩
  | .SPI_A_FAIL => ⟨1, 0, 0, 1⟩
  | .SPI_B_FAIL => ⟨1, 0, 0, 1⟩
  | .OP_TIME => ⟨64, 0, 0, 18446744073709551615⟩
  | .CKPT_TIME => ⟨64, 0, 0, 18446744073709551615⟩
  | .LOST_CNT => ⟨32, 0, 0, 4294967295⟩
  | .FLUSH_CNT => ⟨32, 0, 0, 4294967295⟩
  | .DBK_FLAGS_CNT_OVF => ⟨2, 0, 0, 3⟩
  | .LOST => ⟨1, 0, 0, 1⟩
  | .SLICE_NS => ⟨12, 2000, 400, 4000⟩
  | .OPEN_PF => ⟨8, 3, 1, 255⟩
  | .CORE_OFF => ⟨4, 0, 0, 15⟩
  | .TEST => ⟨8, 0, 0, 255⟩
  | .CH => ⟨6, 0, 0, 63⟩
  | .RANK => ⟨2, 0, 0, 3⟩
  | .BST_START_GROUP => ⟨2, 0, 0, 3⟩
  | .ABORT => ⟨1, 0, 0, 1⟩
  | .BST_STATUS_BUSY => ⟨1, 0, 0, 1⟩
  | .TEST_NOW => ⟨8, 0, 0, 255⟩
  | .RES_USED => ⟨9, 0, 0, 511⟩
  | .UNITS_LEFT => ⟨25, 0, 0, 33554431⟩
  | .CORE_ON => ⟨4, 15, 0, 15⟩
  | .DDR5_BAD => ⟨12, 0, 0, 4095⟩
  | .NAND_BAD => ⟨36, 0, 0, 68719476735⟩
  | .SPI_A_BAD => ⟨1, 0, 0, 1⟩
  | .SPI_B_BAD => ⟨1, 0, 0, 1⟩
  | .RES => ⟨64, 0, 0, 18446744073709551615⟩
  | .POP => ⟨1, 0, 0, 1⟩
  | .UNITS_CNT => ⟨32, 0, 0, 4294967295⟩
  | .FAIL_CNT => ⟨32, 0, 0, 4294967295⟩
  | .BST_FLAGS_CNT_OVF => ⟨2, 0, 0, 3⟩
  | .RES_OVF => ⟨1, 0, 0, 1⟩
  | .REFUSED => ⟨1, 0, 0, 1⟩
  | .GLB_ID_DEVICE => ⟨16, 33056, 0, 65535⟩
  | .STEP_MAJOR => ⟨4, 1, 0, 15⟩
  | .STEP_MINOR => ⟨4, 0, 0, 15⟩
  | .FAMILY => ⟨8, 75, 0, 255⟩
  | .MAP_REV => ⟨16, 1, 0, 65535⟩
  | .BOOT_SPI => ⟨1, 0, 0, 1⟩
  | .SAFE => ⟨1, 0, 0, 1⟩
  | .XTAL_BYP => ⟨1, 0, 0, 1⟩
  | .SAFE_START => ⟨1, 0, 0, 1⟩
  | .PATH => ⟨2, 3, 0, 3⟩
  | .COLD => ⟨1, 1, 0, 1⟩
  | .TICK_PERIOD => ⟨11, 195, 98, 1560⟩
  | .TICK_NUMBER => ⟨64, 0, 0, 18446744073709551615⟩
  | .ALERT_CAUSE => ⟨17, 0, 0, 131071⟩
  | .ALERT_FATAL => ⟨1, 0, 0, 1⟩
  | .ALERT_OUT => ⟨1, 0, 0, 1⟩
  | .ALERT_EN => ⟨18, 262143, 0, 262143⟩
  | .GLB_INT_INT_EN => ⟨18, 0, 0, 262143⟩
  | .INT_VEC => ⟨11, 0, 0, 2047⟩
  | .INT_LINK => ⟨3, 0, 0, 7⟩
  | .INT_LD => ⟨4, 0, 0, 15⟩
  | .INT_TGT_ERR => ⟨1, 0, 0, 1⟩
  | .FATAL => ⟨1, 0, 0, 1⟩
  | .FATAL_BLK => ⟨5, 0, 0, 31⟩
  | .WARM_RST => ⟨1, 0, 0, 1⟩
  | .WDOG_KICK => ⟨1, 0, 0, 1⟩
  | .WDOG_MS => ⟨16, 2000, 0, 65535⟩
  | .WARM_CAUSE => ⟨2, 0, 0, 3⟩
  | .WARM_CNT => ⟨32, 0, 0, 4294967295⟩
  | .ACC_ERR_CNT => ⟨32, 0, 0, 4294967295⟩
  | .GLB_FLAGS_CNT_OVF => ⟨2, 0, 0, 3⟩
  | .PARK_DROP_CNT => ⟨32, 0, 0, 4294967295⟩
  | .CTX_MISS_CNT => ⟨32, 0, 0, 4294967295⟩
  | .RAE_DUP_CNT => ⟨32, 0, 0, 4294967295⟩
  | .SEQ_NAK_CNT => ⟨32, 0, 0, 4294967295⟩
  | .RNR_SENT_CNT => ⟨32, 0, 0, 4294967295⟩
  | .RAE_RETX_CNT => ⟨32, 0, 0, 4294967295⟩
  | .CNP_RX_CNT => ⟨32, 0, 0, 4294967295⟩
  | .RX_DROP_CNT => ⟨32, 0, 0, 4294967295⟩
  | .RETRY_EXC_CNT => ⟨32, 0, 0, 4294967295⟩

end Sys2Proof.Machine
end

