-- ==== Sys2Proof/Machine/RegMap.lean ====
section
/-! DEFINITION. The BAR0 register map: every register with its offset, its repetition and its fields,
as Table 20.1 and the register tables of every chapter lay them out (R457, R108 and the like). -/

namespace Sys2Proof.Machine

/-- The Type column of the register tables (R7). -/
inductive Acc where
  | ro | rw | w1c | wo
deriving DecidableEq, Repr

/-- One field in its register. -/
structure RegFld where
  fld : Fld
  lo : Nat
  acc : Acc
deriving DecidableEq, Repr

/-- One register, repeated n1 × n2 times; instance (a, b) lies at base + s1 * a + s2 * b and its fields
have index a * n2 + b. -/
structure RegDef where
  name : String
  base : Nat
  n1 : Nat
  s1 : Nat
  n2 : Nat
  s2 : Nat
  fields : List RegFld
deriving DecidableEq, Repr

/-- The fields a write covers, each with the value written. -/
abbrev WVals := List (Fld × Nat)

/-- Registers of FGV (03_float_governor.md). -/
def regsFgv : List RegDef := [
  ⟨"FGV_CTRL", 0xC0000, 1, 0x0, 1, 0x0, [⟨.MARGIN, 0, .rw⟩, ⟨.BIND_FRAC, 8, .rw⟩, ⟨.MEAS_CLR, 16, .wo⟩, ⟨.HOLDUP_INVERT, 17, .rw⟩, ⟨.DRAIN_NOW, 18, .wo⟩, ⟨.VCAL_NOW, 19, .wo⟩, ⟨.CCAL_NOW, 20, .wo⟩]⟩,
  ⟨"FGV_STATUS", 0xC0008, 1, 0x0, 1, 0x0, [⟨.ARMED, 0, .ro⟩, ⟨.RATE_VALID, 1, .ro⟩, ⟨.HOLDUP_SNS_FAULT, 2, .ro⟩, ⟨.HOLDUP_REVERSED, 3, .ro⟩, ⟨.FLOAT_OVER, 4, .w1c⟩, ⟨.CAL_REJECT, 5, .w1c⟩, ⟨.DRAINING, 6, .ro⟩, ⟨.CCAL_BUSY, 7, .ro⟩, ⟨.LIMIT_SRC, 8, .ro⟩]⟩,
  ⟨"FGV_FLOAT", 0xC0010, 1, 0x0, 1, 0x0, [⟨.FLOAT_PAGES, 0, .ro⟩, ⟨.FLOAT_LIMIT, 32, .ro⟩]⟩,
  ⟨"FGV_CAP", 0xC0018, 1, 0x0, 1, 0x0, [⟨.FLOAT_CAP, 0, .rw⟩, ⟨.VAULT_FREE_MIB, 32, .ro⟩]⟩,
  ⟨"FGV_TIMES", 0xC0020, 1, 0x0, 1, 0x0, [⟨.T_HOLD_US, 0, .ro⟩, ⟨.DRAIN_FIXED_US, 32, .ro⟩]⟩,
  ⟨"FGV_RATE", 0xC0028, 1, 0x0, 1, 0x0, [⟨.DRAIN_RATE_CAL, 0, .ro⟩, ⟨.DRAIN_RATE_LAST, 32, .ro⟩]⟩,
  ⟨"FGV_STALL", 0xC0030, 1, 0x0, 1, 0x0, [⟨.STALL_CNT, 0, .ro⟩, ⟨.STALL_OVF, 32, .w1c⟩]⟩,
  ⟨"FGV_VAULT", 0xC0058, 1, 0x0, 1, 0x0, [⟨.VAULT_CAP_MIB, 0, .ro⟩]⟩,
  ⟨"FGV_HOLDUP_CFG", 0xC0038, 1, 0x0, 1, 0x0, [⟨.HOLDUP_FLOOR_MV, 0, .rw⟩, ⟨.HOLDUP_VMIN_MV, 16, .rw⟩, ⟨.HOLDUP_HYST_MV, 32, .rw⟩, ⟨.CCAL_LO_MV, 48, .rw⟩]⟩,
  ⟨"FGV_HOLDUP_CAP", 0xC0040, 1, 0x0, 1, 0x0, [⟨.HOLDUP_CAP_NOM_MF, 0, .rw⟩, ⟨.HOLDUP_CAP_MEAS_MF, 24, .ro⟩, ⟨.CCAL_INTERVAL_H, 48, .rw⟩]⟩,
  ⟨"FGV_DRAIN_CFG", 0xC0048, 1, 0x0, 1, 0x0, [⟨.DRAIN_POWER_W, 0, .rw⟩, ⟨.DRAIN_EFF_PM, 16, .rw⟩, ⟨.DRAIN_POWER_MEAS_W, 32, .ro⟩, ⟨.VCAL_INTERVAL_S, 48, .rw⟩]⟩,
  ⟨"FGV_HOLDUP_V", 0xC0050, 1, 0x0, 1, 0x0, [⟨.HOLDUP_MV, 0, .ro⟩, ⟨.PMBUS_MV, 16, .ro⟩, ⟨.HOLDUP_DIV, 32, .rw⟩, ⟨.HOLDUP_PMBUS_ADDR, 48, .rw⟩]⟩,
  ⟨"FGV_DOM_CFG", 0xC1000, 256, 0x10, 1, 0x0, [⟨.GUAR_WT, 0, .rw⟩, ⟨.STALLED, 16, .ro⟩]⟩,
  ⟨"FGV_DOM_STATE", 0xC1008, 256, 0x10, 1, 0x0, [⟨.CHARGE, 0, .ro⟩, ⟨.SHARE, 32, .ro⟩]⟩]

/-- Registers of PRT (04_fabric_ports.md). -/
def regsPrt : List RegDef := [
  ⟨"PRT_PORT_CFG", 0x38000, 4, 0x40, 1, 0x0, [⟨.SPLIT, 0, .rw⟩, ⟨.MAX_RATE, 1, .rw⟩, ⟨.MLD, 4, .rw⟩, ⟨.IDE_REQUIRED, 5, .rw⟩, ⟨.DOWNSHIFT_EN, 6, .rw⟩, ⟨.PORT_OFFLINE, 7, .rw⟩, ⟨.RETRAIN_LIMIT, 8, .rw⟩, ⟨.BI_TIMEOUT_MS, 16, .rw⟩, ⟨.DEVLOAD_LOW, 32, .rw⟩, ⟨.SPLIT_ACT, 48, .ro⟩]⟩,
  ⟨"PRT_LINK_STATUS", 0x30000, 8, 0x1000, 1, 0x0, [⟨.PRT_LINK_STATUS_LINK_UP, 0, .ro⟩, ⟨.RATE, 1, .ro⟩, ⟨.WIDTH, 4, .ro⟩, ⟨.REVERSED, 9, .ro⟩, ⟨.FLIT256, 10, .ro⟩, ⟨.HDM_DB, 11, .ro⟩, ⟨.IDE_MEM, 12, .ro⟩, ⟨.IDE_IO, 13, .ro⟩, ⟨.MEM_ACTIVE, 14, .ro⟩, ⟨.LINK_RETRAIN, 15, .wo⟩, ⟨.POLARITY, 16, .ro⟩]⟩,
  ⟨"PRT_LINK_CNT", 0x30008, 8, 0x1000, 1, 0x0, [⟨.RETRAIN_CNT, 0, .ro⟩, ⟨.BI_TIMEOUT_CNT, 32, .ro⟩]⟩,
  ⟨"PRT_LINK_CNT2", 0x30010, 8, 0x1000, 1, 0x0, [⟨.DOWNSHIFT_CNT, 0, .ro⟩, ⟨.IDE_FAIL_CNT, 32, .ro⟩]⟩,
  ⟨"PRT_LINK_FLAGS", 0x30018, 8, 0x1000, 1, 0x0, [⟨.PRT_LINK_FLAGS_CNT_OVF, 0, .w1c⟩, ⟨.BENCH_FULL, 4, .w1c⟩]⟩,
  ⟨"PRT_BENCH", 0x30020, 8, 0x1000, 1, 0x0, [⟨.BENCH_USED, 0, .ro⟩, ⟨.BENCH_PEAK, 18, .ro⟩]⟩,
  ⟨"PRT_LD_CFG", 0x30100, 8, 0x1000, 16, 0x40, [⟨.LD_EN, 0, .rw⟩, ⟨.PRT_LD_CFG_DOMAIN, 1, .rw⟩, ⟨.LD_CAP_256M, 16, .rw⟩, ⟨.BENCH_QUOTA, 36, .rw⟩]⟩,
  ⟨"PRT_LD_SETTLE", 0x30108, 8, 0x1000, 16, 0x40, [⟨.SETTLE_EN, 0, .rw⟩, ⟨.SETTLE_PFN, 12, .rw⟩]⟩,
  ⟨"PRT_LD_STATE", 0x30110, 8, 0x1000, 16, 0x40, [⟨.BENCHED, 0, .ro⟩, ⟨.DEVLOAD, 18, .ro⟩, ⟨.DC_EXTENTS, 20, .ro⟩]⟩,
  ⟨"PRT_LD_ERR", 0x30118, 8, 0x1000, 16, 0x40, [⟨.POISON_RD_CNT, 0, .ro⟩, ⟨.UNMAPPED_CNT, 32, .ro⟩]⟩,
  ⟨"PRT_LD_FLAGS", 0x30120, 8, 0x1000, 16, 0x40, [⟨.PRT_LD_FLAGS_CNT_OVF, 0, .w1c⟩]⟩]

/-- Registers of QP (05_queues_and_doorbells.md). -/
def regsQp : List RegDef := [
  ⟨"QP_SQ_DB", 0x400000, 1024, 0x1000, 1, 0x0, [⟨.SQ_TAIL, 0, .rw⟩]⟩,
  ⟨"QP_CQ_DB", 0x400008, 1024, 0x1000, 1, 0x0, [⟨.CQ_HEAD, 0, .rw⟩]⟩,
  ⟨"QP_CTRL", 0x400010, 1024, 0x1000, 1, 0x0, [⟨.QP_EN, 0, .rw⟩, ⟨.QP_RESET, 1, .wo⟩, ⟨.QP_CTRL_INT_EN, 2, .rw⟩, ⟨.CLASS_SC1, 3, .rw⟩, ⟨.WEIGHT, 4, .rw⟩, ⟨.MAX_INFLIGHT, 12, .rw⟩]⟩,
  ⟨"QP_SQ_BASE", 0x400018, 1024, 0x1000, 1, 0x0, [⟨.QP_SQ_BASE, 12, .rw⟩]⟩,
  ⟨"QP_CQ_BASE", 0x400020, 1024, 0x1000, 1, 0x0, [⟨.QP_CQ_BASE, 12, .rw⟩]⟩,
  ⟨"QP_SIZE", 0x400028, 1024, 0x1000, 1, 0x0, [⟨.SQ_LOG2, 0, .rw⟩, ⟨.CQ_LOG2, 8, .rw⟩]⟩,
  ⟨"QP_INT", 0x400030, 1024, 0x1000, 1, 0x0, [⟨.MSIX_VEC, 0, .rw⟩, ⟨.COAL_CNT, 16, .rw⟩, ⟨.COAL_US, 32, .rw⟩]⟩,
  ⟨"QP_STATUS", 0x400038, 1024, 0x1000, 1, 0x0, [⟨.SQ_HEAD, 0, .ro⟩, ⟨.CQ_TAIL, 16, .ro⟩, ⟨.CQ_PHASE, 32, .ro⟩, ⟨.RESET_BUSY, 33, .ro⟩, ⟨.QP_ERR, 34, .ro⟩, ⟨.DB_ERR, 35, .w1c⟩, ⟨.CFG_ERR, 36, .w1c⟩, ⟨.INFLIGHT, 37, .ro⟩]⟩,
  ⟨"QP_OWNER", 0x400040, 1024, 0x1000, 1, 0x0, [⟨.QP_OWNER_DOMAIN, 0, .ro⟩, ⟨.QP_OWNER_LINK, 8, .ro⟩, ⟨.QP_OWNER_LD, 16, .ro⟩, ⟨.QP_OWNER_ASSIGNED, 20, .ro⟩]⟩]

/-- Registers of CMD (05_queues_and_doorbells.md). -/
def regsCmd : List RegDef := [
  ⟨"CMD_CTRL", 0x40000, 1, 0x0, 1, 0x0, [⟨.SC2_AGE_US, 0, .rw⟩]⟩,
  ⟨"CMD_STATUS", 0x40008, 1, 0x0, 1, 0x0, [⟨.EXEC_USED, 0, .ro⟩, ⟨.WAIT_USED, 15, .ro⟩, ⟨.LOCK_USED, 28, .ro⟩, ⟨.LOCK_PEAK, 41, .ro⟩]⟩,
  ⟨"CMD_CNT", 0x40010, 1, 0x0, 1, 0x0, [⟨.LOCK_WAIT_CNT, 0, .ro⟩, ⟨.RESET_CNT, 32, .ro⟩]⟩,
  ⟨"CMD_CNT2", 0x40018, 1, 0x0, 1, 0x0, [⟨.CUT_CNT, 0, .ro⟩, ⟨.DB_ERR_CNT, 32, .ro⟩]⟩,
  ⟨"CMD_FLAGS", 0x40020, 1, 0x0, 1, 0x0, [⟨.CMD_FLAGS_CNT_OVF, 0, .w1c⟩]⟩,
  ⟨"CMD_QP_ASSIGN", 0x41000, 1024, 0x8, 1, 0x0, [⟨.CMD_QP_ASSIGN_ASSIGNED, 0, .rw⟩, ⟨.CMD_QP_ASSIGN_LINK, 1, .rw⟩, ⟨.CMD_QP_ASSIGN_LD, 4, .rw⟩]⟩]

/-- Registers of TPE (07_objects_and_tiers.md, 08_page_movement.md). -/
def regsTpe : List RegDef := [
  ⟨"TPE_CTRL", 0xB0000, 1, 0x0, 1, 0x0, [⟨.STRIDE_FRAMES, 0, .rw⟩, ⟨.FREE_LOW, 20, .rw⟩, ⟨.DF_RESERVE, 48, .rw⟩, ⟨.ID_SIDE, 60, .rw⟩]⟩,
  ⟨"TPE_POOL", 0xB0008, 1, 0x0, 1, 0x0, [⟨.POOL_FRAMES, 0, .ro⟩, ⟨.FREE_FRAMES, 28, .ro⟩, ⟨.POOL_DRY, 56, .ro⟩, ⟨.FLOOR_SCALED, 57, .ro⟩]⟩,
  ⟨"TPE_CAP", 0xB0010, 1, 0x0, 1, 0x0, [⟨.CAP_TP, 0, .ro⟩, ⟨.RESERVED_TP, 32, .ro⟩]⟩,
  ⟨"TPE_LEDGER", 0xB0018, 1, 0x0, 1, 0x0, [⟨.OBJ_COUNT, 0, .ro⟩, ⟨.MAP_USED, 25, .ro⟩]⟩,
  ⟨"TPE_MOVES", 0xB0020, 1, 0x0, 1, 0x0, [⟨.MOVES_USED, 0, .ro⟩, ⟨.DF_ACTIVE, 13, .ro⟩]⟩,
  ⟨"TPE_CNT", 0xB0028, 1, 0x0, 1, 0x0, [⟨.DF_CNT, 0, .ro⟩, ⟨.EVICT_CNT, 32, .ro⟩]⟩,
  ⟨"TPE_CNT2", 0xB0030, 1, 0x0, 1, 0x0, [⟨.POOL_DRY_CNT, 0, .ro⟩, ⟨.DF_MAX_US, 32, .ro⟩]⟩,
  ⟨"TPE_FLAGS", 0xB0038, 1, 0x0, 1, 0x0, [⟨.TPE_FLAGS_CNT_OVF, 0, .w1c⟩, ⟨.FLOOR_CLAMP, 3, .w1c⟩, ⟨.OVER_BOUND, 4, .w1c⟩]⟩,
  ⟨"TPE_DOM_CFG", 0xB1000, 256, 0x10, 1, 0x0, [⟨.FLOOR_FRAMES, 0, .rw⟩, ⟨.CEIL_FRAMES, 28, .rw⟩, ⟨.OVER_CEIL, 56, .ro⟩]⟩,
  ⟨"TPE_DOM_STATE", 0xB1008, 256, 0x10, 1, 0x0, [⟨.TALLY, 0, .ro⟩, ⟨.TPE_DOM_STATE_PINNED, 28, .ro⟩]⟩,
  ⟨"TPE_DOM_FLOOR", 0xB3000, 256, 0x8, 1, 0x0, [⟨.FLOOR_EFF, 0, .ro⟩]⟩,
  ⟨"TPE_STREAM_CTRL", 0xB0040, 1, 0x0, 1, 0x0, [⟨.STREAM_DEPTH, 0, .rw⟩, ⟨.PLACE_DL_US, 16, .rw⟩, ⟨.REFILL_EN, 48, .rw⟩]⟩,
  ⟨"TPE_STREAM_STATE", 0xB0048, 1, 0x0, 1, 0x0, [⟨.STREAMS_ACTIVE, 0, .ro⟩, ⟨.REFILL_LEFT, 11, .ro⟩, ⟨.REFILL_DONE, 39, .ro⟩]⟩,
  ⟨"TPE_DOM_STRM", 0xB2000, 256, 0x10, 1, 0x0, [⟨.LATE_CNT, 0, .ro⟩, ⟨.MISS_DL_CNT, 32, .ro⟩]⟩,
  ⟨"TPE_DOM_STRM2", 0xB2008, 256, 0x10, 1, 0x0, [⟨.CEIL_CNCL_CNT, 0, .ro⟩, ⟨.TPE_DOM_STRM2_CNT_OVF, 32, .w1c⟩, ⟨.STREAMS, 35, .ro⟩]⟩]

/-- Registers of FCH (09_front_cache.md). -/
def regsFch : List RegDef := [
  ⟨"FCH_CTRL", 0x50000, 1, 0x0, 1, 0x0, [⟨.SLICE_DIS_REQ, 0, .wo⟩, ⟨.WAY_CE_LIMIT, 16, .rw⟩, ⟨.WAY_CE_WIN_MS, 24, .rw⟩]⟩,
  ⟨"FCH_STATUS", 0x50008, 1, 0x0, 1, 0x0, [⟨.SLICE_EN, 0, .ro⟩, ⟨.SLICE_BUSY, 16, .ro⟩, ⟨.TAG_FATAL, 32, .ro⟩, ⟨.PG_ERR, 33, .w1c⟩, ⟨.LOCK_ERR, 34, .w1c⟩]⟩,
  ⟨"FCH_SF", 0x50010, 1, 0x0, 1, 0x0, [⟨.SF_USED, 0, .ro⟩, ⟨.SF_EVICT_CNT, 32, .ro⟩]⟩,
  ⟨"FCH_FLAGS", 0x50018, 1, 0x0, 1, 0x0, [⟨.SF_EVICT_OVF, 0, .w1c⟩]⟩,
  ⟨"FCH_LOCK_OBJ", 0x50200, 16, 0x10, 1, 0x0, [⟨.OBJ_ID, 0, .rw⟩, ⟨.WAYS, 32, .rw⟩, ⟨.LOCK_EN, 40, .rw⟩]⟩,
  ⟨"FCH_LOCK_RANGE", 0x50208, 16, 0x10, 1, 0x0, [⟨.TP_FIRST, 0, .rw⟩, ⟨.TP_LAST, 32, .rw⟩]⟩,
  ⟨"FCH_SL_PG", 0x51000, 16, 0x40, 1, 0x0, [⟨.PG_REQ, 0, .rw⟩, ⟨.PG_STATE, 4, .ro⟩, ⟨.PG_BUSY, 8, .ro⟩, ⟨.GRP_INV, 12, .wo⟩, ⟨.INV_DONE, 16, .ro⟩, ⟨.WAY_DIS, 20, .ro⟩]⟩,
  ⟨"FCH_SL_STATE", 0x51008, 16, 0x40, 1, 0x0, [⟨.MR_USED, 0, .ro⟩, ⟨.MR_PEAK, 8, .ro⟩, ⟨.MQ_USED, 16, .ro⟩]⟩,
  ⟨"FCH_SL_CNT", 0x51010, 16, 0x40, 1, 0x0, [⟨.MR_FULL_CNT, 0, .ro⟩, ⟨.MERGE_FULL_CNT, 32, .ro⟩]⟩,
  ⟨"FCH_SL_ERR", 0x51018, 16, 0x40, 1, 0x0, [⟨.FCH_SL_ERR_CE_CNT, 0, .ro⟩, ⟨.FCH_SL_ERR_UE_CNT, 32, .ro⟩]⟩,
  ⟨"FCH_SL_FLAGS", 0x51020, 16, 0x40, 1, 0x0, [⟨.FCH_SL_FLAGS_CNT_OVF, 0, .w1c⟩]⟩]

/-- Registers of DRC (10_dram_controller.md). -/
def regsDrc : List RegDef := [
  ⟨"DRC_CTRL", 0x60000, 1, 0x0, 1, 0x0, [⟨.GRAIN_LOG2, 0, .rw⟩, ⟨.CH_HALF, 5, .rw⟩, ⟨.FORCE_6CH, 6, .rw⟩, ⟨.NR_LOG2, 7, .rw⟩, ⟨.NR_DRFM_OFF, 12, .rw⟩, ⟨.REF_DEBT_TGT, 13, .rw⟩, ⟨.MAX_MTS, 17, .rw⟩, ⟨.WQ_HI, 32, .rw⟩, ⟨.WQ_LO, 40, .rw⟩]⟩,
  ⟨"DRC_AGE", 0x60008, 1, 0x0, 1, 0x0, [⟨.AGE_SC0_NS, 0, .rw⟩, ⟨.AGE_SC1_NS, 16, .rw⟩, ⟨.AGE_SC2_NS, 32, .rw⟩, ⟨.AGE_SC3_NS, 48, .rw⟩]⟩,
  ⟨"DRC_BUDGET", 0x60010, 1, 0x0, 1, 0x0, [⟨.BUDGET_SC0, 0, .rw⟩, ⟨.BUDGET_SC1, 8, .rw⟩, ⟨.BUDGET_SC2, 16, .rw⟩, ⟨.BUDGET_SC3, 24, .rw⟩, ⟨.SC0_RSV, 32, .rw⟩]⟩,
  ⟨"DRC_TRACK", 0x60018, 1, 0x0, 1, 0x0, [⟨.RD_WIN_LOG2, 0, .rw⟩, ⟨.RD_LIMIT, 5, .rw⟩, ⟨.WR_LIMIT, 13, .rw⟩, ⟨.WR_TRACK_MS, 21, .rw⟩, ⟨.WR_SLICE_NS, 37, .rw⟩]⟩,
  ⟨"DRC_STATUS", 0x60020, 1, 0x0, 1, 0x0, [⟨.CH_ACTIVE, 0, .ro⟩, ⟨.CH_FAIL, 12, .ro⟩, ⟨.TRAIN_DONE, 24, .ro⟩, ⟨.DATA_MTS, 25, .ro⟩, ⟨.DIMM_TYPE, 39, .ro⟩, ⟨.RANKS, 41, .ro⟩, ⟨.CH_CAP_GIB, 44, .ro⟩]⟩,
  ⟨"DRC_CH_STATE", 0x70000, 12, 0x1000, 1, 0x0, [⟨.REF_DEBT, 0, .ro⟩, ⟨.HOT, 16, .ro⟩, ⟨.DRFM_AVAIL, 20, .ro⟩, ⟨.RQ_USED, 21, .ro⟩, ⟨.WQ_USED, 29, .ro⟩, ⟨.DIMM_TEMP_C, 37, .ro⟩]⟩,
  ⟨"DRC_CH_CNT", 0x70008, 12, 0x1000, 1, 0x0, [⟨.PROMOTE_CNT, 0, .ro⟩, ⟨.REF_FORCED_CNT, 32, .ro⟩]⟩,
  ⟨"DRC_CH_CNT2", 0x70010, 12, 0x1000, 1, 0x0, [⟨.NR_CNT, 0, .ro⟩, ⟨.CA_PAR_CNT, 32, .ro⟩]⟩,
  ⟨"DRC_CH_CNT3", 0x70018, 12, 0x1000, 1, 0x0, [⟨.RD_ADJ_CNT, 0, .ro⟩, ⟨.WR_ADJ_CNT, 32, .ro⟩]⟩,
  ⟨"DRC_CH_FLAGS", 0x70020, 12, 0x1000, 1, 0x0, [⟨.DRC_CH_FLAGS_CNT_OVF, 0, .w1c⟩, ⟨.LIMIT_HIT, 6, .w1c⟩, ⟨.HOT_ALERT, 7, .w1c⟩]⟩,
  ⟨"DRC_CH_LANE", 0x70100, 12, 0x1000, 20, 0x8, [⟨.RD_CENTRE, 0, .ro⟩, ⟨.RD_OFS, 8, .ro⟩, ⟨.WR_CENTRE, 16, .ro⟩, ⟨.WR_OFS, 24, .ro⟩, ⟨.VREF_RD, 32, .ro⟩, ⟨.EYE_STEPS, 40, .ro⟩, ⟨.RETRAIN, 48, .wo⟩, ⟨.RETRAIN_BUSY, 49, .ro⟩]⟩]

/-- Registers of NFC (11_flash_backing.md). -/
def regsNfc : List RegDef := [
  ⟨"NFC_CTRL", 0x90000, 1, 0x0, 1, 0x0, [⟨.USE_PM, 0, .rw⟩, ⟨.VAULT_BLK, 10, .rw⟩, ⟨.GC_LO_BLK, 22, .rw⟩, ⟨.GC_HI_BLK, 34, .rw⟩, ⟨.SUSPEND_MAX, 46, .rw⟩]⟩,
  ⟨"NFC_STATUS", 0x90008, 1, 0x0, 1, 0x0, [⟨.CH_ONLINE, 0, .ro⟩, ⟨.DEGRADED_0, 36, .ro⟩, ⟨.DEGRADED_1, 37, .ro⟩, ⟨.MEDIA_READY, 38, .ro⟩, ⟨.STRIPE_LOSS, 39, .w1c⟩, ⟨.RETIRE_REFUSED, 40, .w1c⟩, ⟨.CAP_SHORT, 41, .ro⟩]⟩,
  ⟨"NFC_CH_STATE", 0x91000, 36, 0x40, 1, 0x0, [⟨.CH_STATE, 0, .ro⟩, ⟨.TOGGLE, 2, .ro⟩, ⟨.MTS, 3, .ro⟩, ⟨.DIES, 15, .ro⟩, ⟨.FREE_BLK, 21, .ro⟩, ⟨.BAD_BLK, 39, .ro⟩, ⟨.RETIRE, 57, .wo⟩]⟩,
  ⟨"NFC_CH_WEAR", 0x91008, 36, 0x40, 1, 0x0, [⟨.PE_AVG, 0, .ro⟩, ⟨.PE_MAX, 16, .ro⟩, ⟨.PE_RATED, 32, .ro⟩, ⟨.WEAR_PM, 48, .ro⟩]⟩,
  ⟨"NFC_CH_CNT", 0x91010, 36, 0x40, 1, 0x0, [⟨.RETRY_CNT, 0, .ro⟩, ⟨.REBUILT_CNT, 32, .ro⟩]⟩,
  ⟨"NFC_CH_CNT2", 0x91018, 36, 0x40, 1, 0x0, [⟨.PROG_FAIL_CNT, 0, .ro⟩, ⟨.ERASE_FAIL_CNT, 32, .ro⟩]⟩,
  ⟨"NFC_CH_FLAGS", 0x91020, 36, 0x40, 1, 0x0, [⟨.NFC_CH_FLAGS_CNT_OVF, 0, .w1c⟩, ⟨.WEAR_WARN, 4, .w1c⟩]⟩,
  ⟨"NFC_CH_REBUILD", 0x91028, 36, 0x40, 1, 0x0, [⟨.REBUILD_LEFT, 0, .ro⟩]⟩,
  ⟨"NFC_SLOT", 0x92000, 18, 0x10, 1, 0x0, [⟨.PRESENT, 0, .ro⟩, ⟨.ID_STATE, 1, .ro⟩, ⟨.REFUSE_CAUSE, 3, .ro⟩, ⟨.PWR_ON, 6, .ro⟩, ⟨.SLOT_PWR, 7, .rw⟩, ⟨.RETIRE_SLOT, 8, .wo⟩, ⟨.ADOPT, 9, .wo⟩]⟩,
  ⟨"NFC_SLOT_UID", 0x92008, 18, 0x10, 1, 0x0, [⟨.CARRIER_UID, 0, .ro⟩]⟩]

/-- Registers of STL (11_flash_backing.md). -/
def regsStl : List RegDef := [
  ⟨"STL_CTRL", 0xD0000, 1, 0x0, 1, 0x0, [⟨.SETTLE_MAX, 0, .rw⟩]⟩,
  ⟨"STL_STATUS", 0xD0008, 1, 0x0, 1, 0x0, [⟨.SETTLES_ACTIVE, 0, .ro⟩, ⟨.REHOME_LEFT, 13, .ro⟩]⟩,
  ⟨"STL_SEQ", 0xD0010, 1, 0x0, 1, 0x0, [⟨.SETTLE_SEQ, 0, .ro⟩]⟩,
  ⟨"STL_CNT", 0xD0018, 1, 0x0, 1, 0x0, [⟨.SETTLE_CNT, 0, .ro⟩, ⟨.REDIRTY_CNT, 32, .ro⟩]⟩,
  ⟨"STL_FLAGS", 0xD0020, 1, 0x0, 1, 0x0, [⟨.STL_FLAGS_CNT_OVF, 0, .w1c⟩]⟩]

/-- Registers of INT (12_data_integrity.md). -/
def regsInt : List RegDef := [
  ⟨"INT_CTRL", 0xA0000, 1, 0x0, 1, 0x0, [⟨.SCRUB_HOURS, 0, .rw⟩, ⟨.RECOVER_DL_US, 8, .rw⟩, ⟨.REMAP_EN, 24, .rw⟩, ⟨.SPPR_EN, 25, .rw⟩, ⟨.PPR_SLICE_NS, 26, .rw⟩, ⟨.DEV_MARK_CE, 42, .rw⟩]⟩,
  ⟨"INT_STATUS", 0xA0008, 1, 0x0, 1, 0x0, [⟨.SCRUB_PASSES, 0, .ro⟩, ⟨.RECODE_LEFT, 32, .ro⟩, ⟨.RETIRE_PEND, 49, .ro⟩, ⟨.META_FATAL, 56, .ro⟩]⟩,
  ⟨"INT_SCRUB_POS", 0xA0010, 1, 0x0, 1, 0x0, [⟨.SCRUB_LA, 0, .ro⟩]⟩,
  ⟨"INT_FLIP_OBJ", 0xA0018, 1, 0x0, 1, 0x0, [⟨.FLIP_OBJ, 0, .rw⟩, ⟨.FLIP_READS, 32, .rw⟩, ⟨.FLIP_ARM, 36, .rw⟩]⟩,
  ⟨"INT_FLIP_OFS", 0xA0020, 1, 0x0, 1, 0x0, [⟨.FLIP_LINE, 0, .rw⟩]⟩,
  ⟨"INT_FLIP_DEV", 0xA0028, 1, 0x0, 1, 0x0, [⟨.DEV_A, 0, .rw⟩, ⟨.DEV_B, 4, .rw⟩, ⟨.B_EN, 8, .rw⟩]⟩,
  ⟨"INT_FLIP_PAT_A", 0xA0030, 1, 0x0, 1, 0x0, [⟨.INT_FLIP_PAT_A, 0, .rw⟩]⟩,
  ⟨"INT_FLIP_PAT_B", 0xA0038, 1, 0x0, 1, 0x0, [⟨.INT_FLIP_PAT_B, 0, .rw⟩]⟩,
  ⟨"INT_FLAGS", 0xA0040, 1, 0x0, 1, 0x0, [⟨.SCRUB_OVF, 0, .w1c⟩, ⟨.REMAP_FULL, 1, .w1c⟩, ⟨.REPAIR_FAIL, 2, .w1c⟩]⟩,
  ⟨"INT_CH_ERR", 0xA1000, 12, 0x40, 1, 0x0, [⟨.INT_CH_ERR_CE_CNT, 0, .ro⟩, ⟨.INT_CH_ERR_UE_CNT, 32, .ro⟩]⟩,
  ⟨"INT_CH_RCV", 0xA1008, 12, 0x40, 1, 0x0, [⟨.REBUILD_CNT, 0, .ro⟩, ⟨.HOME_CNT, 32, .ro⟩]⟩,
  ⟨"INT_CH_RCV2", 0xA1010, 12, 0x40, 1, 0x0, [⟨.TWIN_CNT, 0, .ro⟩, ⟨.POISON_CNT, 32, .ro⟩]⟩,
  ⟨"INT_CH_STATE", 0xA1018, 12, 0x40, 1, 0x0, [⟨.REMAP_USED, 0, .ro⟩, ⟨.MARK_VALID, 6, .ro⟩, ⟨.MARK_DEV, 14, .ro⟩, ⟨.PPR_BUSY, 46, .ro⟩]⟩,
  ⟨"INT_CH_FLAGS", 0xA1020, 12, 0x40, 1, 0x0, [⟨.INT_CH_FLAGS_CNT_OVF, 0, .w1c⟩]⟩,
  ⟨"INT_REMAP", 0xA2000, 12, 0x100, 32, 0x8, [⟨.VALID, 0, .ro⟩, ⟨.LA, 1, .ro⟩, ⟨.INT_REMAP_DEVICE, 38, .ro⟩, ⟨.POISONED, 42, .ro⟩, ⟨.SPPR_PEND, 43, .ro⟩]⟩]

/-- Registers of MIR (13_twin_mirror.md). -/
def regsMir : List RegDef := [
  ⟨"MIR_CTRL", 0xE0000, 1, 0x0, 1, 0x0, [⟨.MIR_PORTS, 0, .rw⟩, ⟨.E1_HALF, 2, .rw⟩, ⟨.TAKEOVER, 3, .wo⟩, ⟨.RETRY_MATCH, 4, .wo⟩, ⟨.LINK_RESTART, 5, .wo⟩]⟩,
  ⟨"MIR_TIMING", 0xE0008, 1, 0x0, 1, 0x0, [⟨.HB_LOSS_US, 0, .rw⟩, ⟨.LINK_LOSS_US, 16, .rw⟩, ⟨.RETX_US, 32, .rw⟩, ⟨.ACK_LOSS_MS, 48, .rw⟩]⟩,
  ⟨"MIR_PAIR", 0xE0010, 1, 0x0, 1, 0x0, [⟨.PAIR_ID, 0, .rw⟩]⟩,
  ⟨"MIR_PARTNER", 0xE0018, 1, 0x0, 1, 0x0, [⟨.PARTNER_UID, 0, .ro⟩]⟩,
  ⟨"MIR_STATUS", 0xE0020, 1, 0x0, 1, 0x0, [⟨.STATE, 0, .ro⟩, ⟨.SENIOR, 2, .ro⟩, ⟨.MIR_STATUS_LINK_UP, 3, .ro⟩, ⟨.HB_ALIVE, 4, .ro⟩, ⟨.GRANT, 5, .ro⟩, ⟨.RESYNC_BUSY, 6, .ro⟩, ⟨.FULL_RESYNC, 7, .ro⟩, ⟨.ID_FAIL, 8, .ro⟩, ⟨.UNMATCHED, 11, .ro⟩, ⟨.TOOK_OVER, 12, .ro⟩]⟩,
  ⟨"MIR_SSN", 0xE0028, 1, 0x0, 1, 0x0, [⟨.SSN_ISSUED, 0, .ro⟩]⟩,
  ⟨"MIR_ACKED", 0xE0030, 1, 0x0, 1, 0x0, [⟨.SSN_ACKED, 0, .ro⟩]⟩,
  ⟨"MIR_APPLIED", 0xE0038, 1, 0x0, 1, 0x0, [⟨.TWIN_APPLIED, 0, .ro⟩]⟩,
  ⟨"MIR_RESYNC", 0xE0040, 1, 0x0, 1, 0x0, [⟨.RESYNC_LEFT, 0, .ro⟩, ⟨.SOLO_PAGES, 32, .ro⟩]⟩,
  ⟨"MIR_RETX", 0xE0048, 1, 0x0, 1, 0x0, [⟨.RETX_RECORDS, 0, .ro⟩]⟩,
  ⟨"MIR_CNT", 0xE0050, 1, 0x0, 1, 0x0, [⟨.RETX_CNT, 0, .ro⟩, ⟨.TAG_FAIL_CNT, 32, .ro⟩]⟩,
  ⟨"MIR_CNT2", 0xE0058, 1, 0x0, 1, 0x0, [⟨.DUP_CNT, 0, .ro⟩, ⟨.LINK_LOSS_CNT, 32, .ro⟩]⟩,
  ⟨"MIR_CNT3", 0xE0060, 1, 0x0, 1, 0x0, [⟨.FETCH_CNT, 0, .ro⟩, ⟨.SOLO_CNT, 32, .ro⟩]⟩,
  ⟨"MIR_FLAGS", 0xE0068, 1, 0x0, 1, 0x0, [⟨.MIR_FLAGS_CNT_OVF, 0, .w1c⟩, ⟨.SPLIT_SEEN, 6, .w1c⟩, ⟨.RETX_FULL, 7, .w1c⟩]⟩]

/-- Registers of RAE (14_remote_access.md). -/
def regsRae : List RegDef := [
  ⟨"RAE_CTRL", 0xF0000, 1, 0x0, 1, 0x0, [⟨.PORT_EN, 0, .rw⟩, ⟨.E0_SPLIT, 4, .rw⟩, ⟨.E1_SPLIT, 5, .rw⟩, ⟨.PFC_PRIO, 6, .rw⟩, ⟨.PFC_EN, 9, .rw⟩, ⟨.CC_EN, 10, .rw⟩, ⟨.RNR_TIMER, 11, .rw⟩]⟩,
  ⟨"RAE_CC", 0xF0008, 1, 0x0, 1, 0x0, [⟨.CNP_INTERVAL_US, 0, .rw⟩, ⟨.CC_CUT, 16, .rw⟩, ⟨.CC_RECOVER_US, 24, .rw⟩, ⟨.CC_STEP_GBPS, 40, .rw⟩]⟩,
  ⟨"RAE_CMD", 0xF0010, 1, 0x0, 1, 0x0, [⟨.INDEX, 0, .rw⟩, ⟨.TARGET, 16, .rw⟩, ⟨.RAE_CMD_OP, 17, .wo⟩, ⟨.RAE_CMD_BUSY, 20, .ro⟩, ⟨.RAE_CMD_RESULT, 21, .ro⟩]⟩,
  ⟨"RAE_TRIG", 0xF0018, 1, 0x0, 1, 0x0, [⟨.CTX, 0, .wo⟩, ⟨.ADD, 16, .wo⟩]⟩,
  ⟨"RAE_STATUS", 0xF0020, 1, 0x0, 1, 0x0, [⟨.CTX_ONCHIP, 0, .ro⟩, ⟨.PARK_PKTS, 13, .ro⟩, ⟨.PARK_BYTES, 22, .ro⟩, ⟨.RAE_STATUS_PINNED, 43, .ro⟩]⟩,
  ⟨"RAE_CTX_DATA", 0xF0100, 16, 0x8, 1, 0x0, [⟨.RAE_CTX_DATA_DATA, 0, .rw⟩]⟩,
  ⟨"RAE_PORT_MAC", 0xF0400, 4, 0x20, 1, 0x0, [⟨.MAC, 0, .rw⟩, ⟨.PHY_UP, 48, .ro⟩, ⟨.MIRROR, 49, .ro⟩]⟩,
  ⟨"RAE_PORT_IP4", 0xF0408, 4, 0x20, 1, 0x0, [⟨.IPV4, 0, .rw⟩]⟩,
  ⟨"RAE_PORT_IP6_LO", 0xF0410, 4, 0x20, 1, 0x0, [⟨.IPV6_LO, 0, .rw⟩]⟩,
  ⟨"RAE_PORT_IP6_HI", 0xF0418, 4, 0x20, 1, 0x0, [⟨.IPV6_HI, 0, .rw⟩]⟩,
  ⟨"RAE_FLAGS", 0xF0050, 1, 0x0, 1, 0x0, [⟨.RAE_FLAGS_CNT_OVF, 0, .w1c⟩, ⟨.CTX_ERR, 9, .w1c⟩, ⟨.PARK_FULL, 10, .w1c⟩]⟩,
  ⟨"RAE_CNT", 0xF0028, 1, 0x0, 1, 0x0, [⟨.PARK_DROP_CNT, 0, .ro⟩, ⟨.CTX_MISS_CNT, 32, .ro⟩]⟩,
  ⟨"RAE_CNT2", 0xF0030, 1, 0x0, 1, 0x0, [⟨.RAE_DUP_CNT, 0, .ro⟩, ⟨.SEQ_NAK_CNT, 32, .ro⟩]⟩,
  ⟨"RAE_CNT3", 0xF0038, 1, 0x0, 1, 0x0, [⟨.RNR_SENT_CNT, 0, .ro⟩, ⟨.RAE_RETX_CNT, 32, .ro⟩]⟩,
  ⟨"RAE_CNT4", 0xF0040, 1, 0x0, 1, 0x0, [⟨.CNP_RX_CNT, 0, .ro⟩, ⟨.RX_DROP_CNT, 32, .ro⟩]⟩,
  ⟨"RAE_CNT5", 0xF0048, 1, 0x0, 1, 0x0, [⟨.RETRY_EXC_CNT, 0, .ro⟩]⟩]

/-- Registers of TL (15_cipher_and_identity.md). -/
def regsTl : List RegDef := [
  ⟨"TL_CMD", 0x800000, 256, 0x1000, 1, 0x0, [⟨.TL_CMD_OP, 0, .wo⟩, ⟨.SLOT, 3, .rw⟩, ⟨.TL_CMD_BUSY, 15, .ro⟩, ⟨.TL_CMD_RESULT, 16, .ro⟩]⟩,
  ⟨"TL_STATE", 0x800008, 256, 0x1000, 1, 0x0, [⟨.TL_STATE_DOMAIN, 0, .ro⟩, ⟨.TL_STATE_KEK_SET, 8, .ro⟩, ⟨.Q_MODE, 9, .ro⟩, ⟨.Q_REFS, 11, .ro⟩]⟩,
  ⟨"TL_RANDOM", 0x800010, 256, 0x1000, 1, 0x0, [⟨.RAND, 0, .ro⟩]⟩,
  ⟨"TL_DATA", 0x800100, 256, 0x1000, 12, 0x8, [⟨.TL_DATA_DATA, 0, .wo⟩]⟩]

/-- Registers of CIP (15_cipher_and_identity.md). -/
def regsCip : List RegDef := [
  ⟨"CIP_CTRL", 0x100000, 1, 0x0, 1, 0x0, [⟨.CLUSTER_FENCE, 0, .rw⟩, ⟨.RESEED_MS, 8, .rw⟩]⟩,
  ⟨"CIP_STATUS", 0x100008, 1, 0x0, 1, 0x0, [⟨.CLUSTER_ACTIVE, 0, .ro⟩, ⟨.CLUSTER_FAULT, 8, .ro⟩, ⟨.TRNG_FAIL, 16, .ro⟩, ⟨.FENCE_ERR, 17, .w1c⟩]⟩,
  ⟨"CIP_CNT", 0x100010, 1, 0x0, 1, 0x0, [⟨.GCM_FAIL_CNT, 0, .ro⟩, ⟨.PARITY_CNT, 32, .ro⟩]⟩,
  ⟨"CIP_FLAGS", 0x100018, 1, 0x0, 1, 0x0, [⟨.CIP_FLAGS_CNT_OVF, 0, .w1c⟩]⟩]

/-- Registers of SEC (15_cipher_and_identity.md). -/
def regsSec : List RegDef := [
  ⟨"SEC_UID", 0x110000, 1, 0x0, 1, 0x0, [⟨.DEVICE_UID, 0, .ro⟩]⟩,
  ⟨"SEC_BOOT", 0x110008, 1, 0x0, 1, 0x0, [⟨.BOOT_DEV, 0, .ro⟩, ⟨.FW_DEV, 1, .ro⟩, ⟨.FW_SVN, 2, .ro⟩, ⟨.SVN_FUSE, 9, .ro⟩, ⟨.SVN_COMMIT, 16, .wo⟩, ⟨.ROOT_KEY, 17, .ro⟩, ⟨.ROOT_REVOKED, 19, .ro⟩, ⟨.OWNER_SET, 23, .ro⟩, ⟨.SESSIONS, 24, .ro⟩]⟩,
  ⟨"SEC_DKEK_SET", 0x110010, 4, 0x8, 1, 0x0, [⟨.SEC_DKEK_SET_KEK_SET, 0, .ro⟩]⟩,
  ⟨"SEC_SLOT", 0x111000, 4096, 0x8, 1, 0x0, [⟨.OWNER, 0, .rw⟩, ⟨.ANY, 8, .rw⟩, ⟨.MODE, 9, .ro⟩, ⟨.REFS, 11, .ro⟩]⟩]

/-- Registers of PWR (16_power_supervision.md). -/
def regsPwr : List RegDef := [
  ⟨"PWR_CTRL", 0x10000, 1, 0x0, 1, 0x0, [⟨.WHISTLE_EN, 0, .rw⟩, ⟨.WH_SYNC_STEP, 1, .rw⟩, ⟨.MIN_OFF_MS, 5, .rw⟩, ⟨.UP_DELAY_US, 16, .rw⟩, ⟨.DOWN_DELAY_US, 26, .rw⟩, ⟨.WH_TIMEOUT_MS, 36, .rw⟩, ⟨.PMBUS_POLL_MS, 46, .rw⟩, ⟨.FF_CLR, 52, .wo⟩]⟩,
  ⟨"PWR_STATUS", 0x10008, 1, 0x0, 1, 0x0, [⟨.SEQ_STATE, 0, .ro⟩, ⟨.UP_STEP_NOW, 3, .ro⟩, ⟨.DOWN_STEP_NOW, 7, .ro⟩, ⟨.PWR_REQ_IN, 10, .ro⟩, ⟨.PFAIL_IN, 11, .ro⟩, ⟨.WHISTLE_IN, 12, .ro⟩, ⟨.WHISTLE_OUT, 13, .ro⟩, ⟨.ON_LATCHED, 14, .ro⟩, ⟨.SNS_OPEN, 15, .ro⟩, ⟨.SNS_NEG, 16, .ro⟩, ⟨.FF_VALID, 17, .ro⟩, ⟨.PMBUS_ERR, 18, .w1c⟩, ⟨.PWR_STATUS_DOM_FAIL, 19, .w1c⟩]⟩,
  ⟨"PWR_RAIL_STATE", 0x10010, 1, 0x0, 1, 0x0, [⟨.RAIL_EN_OUT, 0, .ro⟩, ⟨.RAIL_PG_IN, 24, .ro⟩]⟩,
  ⟨"PWR_RAIL_FAILED", 0x10018, 1, 0x0, 1, 0x0, [⟨.RAIL_FAILED, 0, .w1c⟩, ⟨.RAIL_RETRYING, 24, .ro⟩]⟩,
  ⟨"PWR_CNT", 0x10020, 1, 0x0, 1, 0x0, [⟨.POWER_CYCLES, 0, .ro⟩, ⟨.FAULT_CNT, 32, .ro⟩]⟩,
  ⟨"PWR_CNT2", 0x10028, 1, 0x0, 1, 0x0, [⟨.CHATTER_CNT, 0, .ro⟩, ⟨.WHISTLE_CNT, 32, .ro⟩]⟩,
  ⟨"PWR_FLAGS", 0x10030, 1, 0x0, 1, 0x0, [⟨.PWR_FLAGS_CNT_OVF, 0, .w1c⟩]⟩,
  ⟨"PWR_FF", 0x10040, 8, 0x8, 1, 0x0, [⟨.FF, 0, .ro⟩]⟩,
  ⟨"PWR_DOM_ON", 0x10080, 2, 0x8, 1, 0x0, [⟨.DOM_ON, 0, .ro⟩]⟩,
  ⟨"PWR_DOM_FAIL", 0x10090, 2, 0x8, 1, 0x0, [⟨.PWR_DOM_FAIL_DOM_FAIL, 0, .w1c⟩]⟩,
  ⟨"PWR_RAIL_CFG", 0x10100, 24, 0x10, 1, 0x0, [⟨.EN, 0, .rw⟩, ⟨.UP_STEP, 1, .rw⟩, ⟨.DOWN_STEP, 5, .rw⟩, ⟨.PWR_RAIL_CFG_GROUP, 8, .rw⟩, ⟨.REACTION, 11, .rw⟩, ⟨.DRAIN_NEED, 13, .rw⟩, ⟨.PMBUS_EN, 14, .rw⟩, ⟨.PMBUS_ADDR, 15, .rw⟩, ⟨.PMBUS_PAGE, 22, .rw⟩, ⟨.DRAM_CH, 30, .rw⟩, ⟨.DWELL_US, 42, .rw⟩, ⟨.CHATTER_LIMIT, 58, .rw⟩]⟩,
  ⟨"PWR_RAIL_CFG2", 0x10108, 24, 0x10, 1, 0x0, [⟨.RAMP_TIMEOUT_US, 0, .rw⟩, ⟨.DEGLITCH_US, 16, .rw⟩, ⟨.ATTEMPTS, 24, .ro⟩, ⟨.CHATTER_NOW, 26, .ro⟩, ⟨.LAST_CAUSE, 31, .ro⟩]⟩]

/-- Registers of DBK (17_daybook.md). -/
def regsDbk : List RegDef := [
  ⟨"DBK_CTRL", 0x20000, 1, 0x0, 1, 0x0, [⟨.FLUSH_HI, 0, .rw⟩, ⟨.FLUSH_NOW, 18, .wo⟩]⟩,
  ⟨"DBK_HEAD", 0x20008, 1, 0x0, 1, 0x0, [⟨.HEAD_SEQ, 0, .ro⟩]⟩,
  ⟨"DBK_TAIL", 0x20010, 1, 0x0, 1, 0x0, [⟨.TAIL_SEQ, 0, .ro⟩]⟩,
  ⟨"DBK_FLUSHED", 0x20018, 1, 0x0, 1, 0x0, [⟨.FLUSH_SEQ, 0, .ro⟩]⟩,
  ⟨"DBK_OFS", 0x20020, 1, 0x0, 1, 0x0, [⟨.TAIL_OFS, 0, .ro⟩, ⟨.HEAD_OFS, 18, .ro⟩, ⟨.FLUSH_BUSY, 36, .ro⟩, ⟨.SPI_A_FAIL, 37, .ro⟩, ⟨.SPI_B_FAIL, 38, .ro⟩]⟩,
  ⟨"DBK_OPTIME", 0x20028, 1, 0x0, 1, 0x0, [⟨.OP_TIME, 0, .ro⟩]⟩,
  ⟨"DBK_CKPT", 0x20030, 1, 0x0, 1, 0x0, [⟨.CKPT_TIME, 0, .ro⟩]⟩,
  ⟨"DBK_CNT", 0x20038, 1, 0x0, 1, 0x0, [⟨.LOST_CNT, 0, .ro⟩, ⟨.FLUSH_CNT, 32, .ro⟩]⟩,
  ⟨"DBK_FLAGS", 0x20040, 1, 0x0, 1, 0x0, [⟨.DBK_FLAGS_CNT_OVF, 0, .w1c⟩, ⟨.LOST, 2, .w1c⟩]⟩]

/-- Registers of BST (18_self_test_and_service.md). -/
def regsBst : List RegDef := [
  ⟨"BST_CTRL", 0x120000, 1, 0x0, 1, 0x0, [⟨.SLICE_NS, 0, .rw⟩, ⟨.OPEN_PF, 12, .rw⟩, ⟨.CORE_OFF, 20, .rw⟩]⟩,
  ⟨"BST_START", 0x120008, 1, 0x0, 1, 0x0, [⟨.TEST, 0, .wo⟩, ⟨.CH, 8, .wo⟩, ⟨.RANK, 14, .wo⟩, ⟨.BST_START_GROUP, 16, .wo⟩, ⟨.ABORT, 18, .wo⟩]⟩,
  ⟨"BST_STATUS", 0x120010, 1, 0x0, 1, 0x0, [⟨.BST_STATUS_BUSY, 0, .ro⟩, ⟨.TEST_NOW, 1, .ro⟩, ⟨.RES_USED, 9, .ro⟩, ⟨.UNITS_LEFT, 18, .ro⟩, ⟨.CORE_ON, 43, .ro⟩]⟩,
  ⟨"BST_PINS", 0x120018, 1, 0x0, 1, 0x0, [⟨.DDR5_BAD, 0, .ro⟩, ⟨.NAND_BAD, 12, .ro⟩, ⟨.SPI_A_BAD, 48, .ro⟩, ⟨.SPI_B_BAD, 49, .ro⟩]⟩,
  ⟨"BST_RES", 0x120020, 4, 0x8, 1, 0x0, [⟨.RES, 0, .ro⟩]⟩,
  ⟨"BST_POP", 0x120040, 1, 0x0, 1, 0x0, [⟨.POP, 0, .wo⟩]⟩,
  ⟨"BST_CNT", 0x120048, 1, 0x0, 1, 0x0, [⟨.UNITS_CNT, 0, .ro⟩, ⟨.FAIL_CNT, 32, .ro⟩]⟩,
  ⟨"BST_FLAGS", 0x120050, 1, 0x0, 1, 0x0, [⟨.BST_FLAGS_CNT_OVF, 0, .w1c⟩, ⟨.RES_OVF, 2, .w1c⟩, ⟨.REFUSED, 3, .w1c⟩]⟩]

/-- Registers of GLB (20_register_map.md). -/
def regsGlb : List RegDef := [
  ⟨"GLB_ID", 0x0, 1, 0x0, 1, 0x0, [⟨.GLB_ID_DEVICE, 0, .ro⟩, ⟨.STEP_MAJOR, 16, .ro⟩, ⟨.STEP_MINOR, 20, .ro⟩, ⟨.FAMILY, 24, .ro⟩, ⟨.MAP_REV, 32, .ro⟩]⟩,
  ⟨"GLB_STRAP", 0x8, 1, 0x0, 1, 0x0, [⟨.BOOT_SPI, 0, .ro⟩, ⟨.SAFE, 1, .ro⟩, ⟨.XTAL_BYP, 2, .ro⟩, ⟨.SAFE_START, 3, .ro⟩, ⟨.PATH, 4, .ro⟩, ⟨.COLD, 6, .ro⟩]⟩,
  ⟨"GLB_TICK", 0x10, 1, 0x0, 1, 0x0, [⟨.TICK_PERIOD, 0, .rw⟩]⟩,
  ⟨"GLB_TICK_NUM", 0x18, 1, 0x0, 1, 0x0, [⟨.TICK_NUMBER, 0, .ro⟩]⟩,
  ⟨"GLB_ALERT", 0x20, 1, 0x0, 1, 0x0, [⟨.ALERT_CAUSE, 0, .w1c⟩, ⟨.ALERT_FATAL, 17, .w1c⟩, ⟨.ALERT_OUT, 18, .ro⟩]⟩,
  ⟨"GLB_ALERT_MASK", 0x28, 1, 0x0, 1, 0x0, [⟨.ALERT_EN, 0, .rw⟩]⟩,
  ⟨"GLB_INT", 0x30, 1, 0x0, 1, 0x0, [⟨.GLB_INT_INT_EN, 0, .rw⟩, ⟨.INT_VEC, 18, .rw⟩, ⟨.INT_LINK, 29, .rw⟩, ⟨.INT_LD, 32, .rw⟩, ⟨.INT_TGT_ERR, 36, .w1c⟩]⟩,
  ⟨"GLB_FATAL", 0x38, 1, 0x0, 1, 0x0, [⟨.FATAL, 0, .ro⟩, ⟨.FATAL_BLK, 1, .ro⟩]⟩,
  ⟨"GLB_SVC", 0x40, 1, 0x0, 1, 0x0, [⟨.WARM_RST, 0, .wo⟩, ⟨.WDOG_KICK, 1, .wo⟩, ⟨.WDOG_MS, 2, .rw⟩, ⟨.WARM_CAUSE, 18, .ro⟩]⟩,
  ⟨"GLB_CNT", 0x48, 1, 0x0, 1, 0x0, [⟨.WARM_CNT, 0, .ro⟩, ⟨.ACC_ERR_CNT, 32, .ro⟩]⟩,
  ⟨"GLB_FLAGS", 0x50, 1, 0x0, 1, 0x0, [⟨.GLB_FLAGS_CNT_OVF, 0, .w1c⟩]⟩]

/-- Every register of BAR0. -/
def regTable : List RegDef :=
  regsFgv ++ regsPrt ++ regsQp ++ regsCmd ++ regsTpe ++ regsFch ++ regsDrc ++ regsNfc ++ regsStl ++ regsInt ++ regsMir ++ regsRae ++ regsTl ++ regsCip ++ regsSec ++ regsPwr ++ regsDbk ++ regsBst ++ regsGlb

end Sys2Proof.Machine
end

