-- ==== Sys2Proof/Machine/State.lean ====
section
/-! DEFINITION. The state of the 8120 as plain data: every register field (a sparse table of the values
that differ from reset), every table, queue, buffer, pin and engine state the spec names, the queue of
waiting commands and the list of messages sent. -/

namespace Sys2Proof.Machine

/-- No command of this model faults (log entry 1); the constructor stands for a step that the spec
would stop, raised by nobody. Safe. -/
inductive Fault where
  /-- Raised by no command. Safe. -/
  | stopped
deriving DecidableEq, Repr

/-- Why a command has no meaning. -/
inductive Refusal where
  /-- Raised by an arm of exec whose command has no meaning yet, by its mnemonic. Safe. -/
  | notModelled (mnemonic : String)
deriving DecidableEq, Repr

/-- How a stored DRAM or NAND line stands: good, stored with the line code's poison encoding Π (R96,
R305), or marked for the recovery ladder (R190). -/
inductive LSt where
  | good | poison | marked
deriving DecidableEq, Repr

/-- A stored line: its plaintext (log entry 4) and its status. -/
structure DLine where
  data : Line
  st : LSt
deriving DecidableEq, Repr

/-- The journalled metadata (R41): ledger, frame map, windows, the ID pointer (R168), the end of the
reserved SSN blocks (R327), the journalled role (R323), TOOK_OVER (R340) and the accepted dynamic-capacity extents
(R91, R109). -/
structure MetaData where
  ledger : SMap Obj
  fmap : SMap MapE
  wins : SMap Win
  idPtr : Nat
  ssnEnd : Nat
  roles : Option Bool
  tookOver : Bool
  extents : List Extent
deriving DecidableEq, Repr

/-- The metadata journal (R41): the metadata at its base, the entries since in order, and the journal
pages (64 entries each, log entry 9) that are charged and not yet settled. -/
structure Journal where
  base : MetaData
  log : List (List JOp)
  charged : List Nat
deriving DecidableEq, Repr

/-- A frame-table entry (Table 07.7, R176); USE 0b000 (free) is the absence of an entry. `chg` holds
the 16 CHG_DOM bytes as one number. -/
structure Frame where
  obj : Nat
  tp : Nat
  age : Nat
  acct : Nat
  use : Nat
  ref : Bool
  chg : Nat
deriving DecidableEq, Repr

/-- What asked for a move (R197, R201). -/
inductive MSrc where
  | demand | place | hold | attr | evict | refill
  | stream (dom sid entry : Nat)
deriving DecidableEq, Repr

/-- The move states of Table 08.1; DONE is the absence of the move. -/
inductive MSt where
  | queued | load | install | clean | unload
deriving DecidableEq, Repr

/-- A move (R197). `src0` is the page's source state; `dest` its destination; `also` the streams whose
equal move attached to this one (Table 08.3); `aside` is R208; `late` is R211; `orphan` is a begun move
whose page was freed under it (Table 07.8). -/
structure Move where
  id : Nat
  obj : Nat
  tp : Nat
  src : MSrc
  also : List MSrc
  st : MSt
  src0 : PgSt
  dest : PgSt
  frame : Nat
  dom : Nat
  deadline : Nat
  aside : Bool
  late : Bool
  orphan : Bool
deriving DecidableEq, Repr

/-- A schedule entry (Table 08.2). -/
structure SEnt where
  obj : Nat
  demote : Bool
  ofs : Nat
  pages : Nat
  start : Nat
  deadline : Nat
  words : List Nat
  started : Bool
  missed : Bool
deriving DecidableEq, Repr

/-- An active stream (R203 to R212). -/
structure Stream where
  dom : Nat
  sid : Nat
  uid : Nat
  ents : List SEnt
  reread : List Nat
  done : Nat
  cancelled : Nat
  late : Nat
  lateTick : Nat
  ceilAt : Option Nat
deriving DecidableEq, Repr

/-- A residency-checkpoint entry (R184). -/
structure Resid where
  obj : Nat
  tp : Nat
  age : Nat
  acct : Nat
deriving DecidableEq, Repr

/-- The tier engine beside the journalled tables: frame table, moves, streams, the stored residency
checkpoint and the refill list, the age-sweep position, the order counter of moves, the map
blocks not yet loaded after a restart (R454), the end of the pool (R165) and the run under compaction: object, new
start, entries moved (R169). -/
structure TpeS where
  frames : SMap Frame
  poolEnd : Nat
  moves : List Move
  moveId : Nat
  streams : List Stream
  ckpt : List Resid
  refill : List Resid
  sweep : Nat
  unloaded : List Nat
  compact : Option (Nat × Nat × Nat)
deriving DecidableEq, Repr

/-- A host's CXL.mem request after decoding (R15, R97); `arr` numbers the requests in arrival order (R98). -/
structure HostReq where
  link : Nat
  ld : Nat
  dpa : Nat
  tag : Nat
  mty : Nat
  wr : Bool
  data : Line
  mask : Mask
  poison : Bool
  snoopWb : Bool
  arr : Nat
deriving DecidableEq, Repr

/-- Who asked for a line below translation; `gone` is a store past step 3 whose port was reset, with its
domain (R107). -/
inductive Who where
  | host (r : HostReq)
  | cmd (uid : Nat)
  | rdma (ctx psn : Nat)
  | gone (dom : Nat)
deriving DecidableEq, Repr

/-- A request attached to a miss register (R227): a load, or a store of the masked bytes. -/
structure Req where
  who : Who
  wr : Bool
  data : Line
  mask : Mask
  poison : Bool
deriving DecidableEq, Repr

/-- Miss-register states of Table 09.2 (FREE is the absence of the register; INSTALL is within the
step that ends FILL). -/
inductive MrSt where
  | evict | waitPage | fill
deriving DecidableEq, Repr

/-- A miss register (R225); `cls` is the service class that an eviction's write carries (R230). -/
structure MissReg where
  la : Nat
  obj : Nat
  tp : Nat
  st : MrSt
  out : DLine
  reqs : List Req
  cls : Nat
deriving DecidableEq, Repr

/-- A miss-queue entry (R229). -/
structure MissQ where
  la : Nat
  obj : Nat
  tp : Nat
  req : Req
deriving DecidableEq, Repr

/-- A front-cache line (R217), with the object and tier page its requests carried (R231). -/
structure CLine where
  la : Nat
  obj : Nat
  tp : Nat
  dirty : Bool
  poison : Bool
  data : Line
deriving DecidableEq, Repr

/-- A snoop-filter entry (R234); `used` orders least-recent use (R236). -/
structure SfE where
  links : Nat
  excl : Bool
  used : Nat
deriving DecidableEq, Repr

/-- An outstanding back-invalidate snoop (R92): the link, its first line, its lines (1, or 4 for BISnpInvBlk), and
whether it counts among the 512 sent or waits; `ans` says that its BIRsp came while a write-back for it still waits
(R93). Line 0 of the settle page of LD j of link k has the pseudo line address
2^40 + 16 k + j. -/
structure Snoop where
  link : Nat
  la : Nat
  sent : Bool
  n : Nat
  ans : Bool
deriving DecidableEq, Repr

/-- The front cache (R217 to R242): lines by (slice * 4096 + set, way), miss registers by (slice, n),
miss queue, snoop filter, the times of corrected errors per (slice, way), the class budgets of the tick (R13). -/
structure FchS where
  lines : SMap CLine
  mrs : SMap MissReg
  mq : List MissQ
  sf : SMap SfE
  sfClock : Nat
  snoops : List Snoop
  wayCe : SMap (List Nat)
  bud : List Nat
deriving DecidableEq, Repr

/-- Why a request waits (R98, R182, R189, R327, R330, R344, R229, R454); `gone` waits for a begun move of
a page freed since (Table 07.8), whose number the wait's `obj` then holds. -/
inductive Why where
  | flt | fence | atomic | page | snoop | retx | ssn | missq | resync | slice | mapBlk | frame | gone
deriving DecidableEq, Repr

/-- Who waits: a host request (on the bench or in the tracker), a command, or an RDMA packet. -/
inductive Ent where
  | host (r : HostReq)
  | cmd (uid : Nat)
  | rdma (ctx psn : Nat)
deriving DecidableEq, Repr

/-- A waiting request, in arrival order; `aged` once it has waited 1 ms (R74). -/
structure Wait where
  ent : Ent
  dom : Nat
  why : Why
  obj : Nat
  tp : Nat
  benched : Bool
  aged : Bool
deriving DecidableEq, Repr

/-- Who requested a settle fence (R23, R39, R40, R362). -/
inductive FSrc where
  | page (link ld tag : Nat)
  | gpf (port : Nat)
  | cmd (uid : Nat)
  | rdma (ctx psn : Nat)
deriving DecidableEq, Repr

/-- A pending settle fence with its fence mark (R36); `seq` is FENCE_SEQ of a settle-page fence (Table
04.2) and `freed` says that the store's completion was released by the time limit (R40). -/
structure Fence where
  src : FSrc
  dom : Nat
  mark : Nat
  seq : Nat
  freed : Bool
  aged : Bool
deriving DecidableEq, Repr

/-- The fence status word of a settle page (Table 04.2). -/
structure FStat where
  state : Nat
  seq : Nat
  mark : Nat
deriving DecidableEq, Repr

/-- An HDM decoder (R90). -/
structure HdmDec where
  base : Nat
  size : Nat
  ways : Nat
  gran : Nat
  committed : Bool
  err : Bool
  locked : Bool
deriving DecidableEq, Repr

/-- A link's IDE state (R95): keys delivered per stream, and whether the stream turned insecure. -/
structure Ide where
  memKey : Nat
  ioKey : Nat
  memBad : Bool
  ioBad : Bool
deriving DecidableEq, Repr

/-- The ports (R81 to R107): pins Pn_PERST_N (asserted) and Pn_RDY per port as bits, IDE, HDM decoders by
(16 * link + LD, n), fence status words by (link, LD), snoops marked lost (R94), ports in GPF phase 2 with the domains
whose fence reported solo, the event records and timestamp of the mailbox (R81, R96), the ports whose training timed
out, the number of requests that have arrived (R98), the rate each link stepped down to (R85), the DC changes that wait
for host copies or their journal charge, adds as true (R91), the links that return no write credits and the writes that
wait for one at their hosts (R99). -/
structure PrtS where
  perst : Nat
  rdy : Nat
  ide : SMap Ide
  hdm : SMap HdmDec
  fstat : SMap FStat
  lost : List (Nat × Nat)
  gpf : List Nat
  gpfSolo : List (Nat × Nat)
  events : List (Nat × Nat)
  timestamp : Nat
  timedOut : Nat
  arrived : Nat
  stepped : SMap Nat
  dcPend : List (Bool × Extent)
  stopped : List Nat
  atHost : List HostReq
deriving DecidableEq, Repr

/-- Where the capacitance cycle of Table 03.3 stands. -/
inductive CcalPh where
  | idle | discharge | charge | startUp
deriving DecidableEq, Repr

/-- The Float Governor beside its registers: the limit computed during the tick (R63) with its source
and T_HOLD_US, the rate history (R70), the calibration cycle (R67: phase, V1, V2, the low target in force,
the charge in µC, the charger's setting to restore), the rehearsal and one asked for, the domains that
raised a stall record while the limit is 0 (R74), whether shares are frozen (R76), the last PMBus reading's mismatch and when the fault condition ended (R66), and whether the
first reading after the copy is still due (R67). -/
structure FgvS where
  nextLimit : Nat
  nextSrc : Nat
  nextHold : Nat
  rates : List Nat
  ccal : CcalPh
  v1 : Nat
  v2 : Nat
  loMv : Nat
  charge : Nat
  rehearsal : Bool
  vcalDue : Bool
  stallRec : List Nat
  shareFrozen : Bool
  mismatch : Bool
  faultT : Nat
  vset : Nat
  first : Bool
deriving DecidableEq, Repr

/-- What triggered the drain (R77, R471). -/
inductive Trig where
  | pfail | floor | sysRst | now | fatal | pwrReq | rail
deriving DecidableEq, Repr

/-- The drain in progress (Table 03.4): its trigger, whether the rails stay up, the step reached, the
store voltage at the trigger, its sequence number, the count of drained code pages, whether step 6 takes the rails down whatever the trigger (R407, R410), and the measured power
(R69). -/
structure DrainS where
  trig : Option Trig
  railsUp : Bool
  step : Nat
  vTrig : Nat
  seq : Nat
  count : Nat
  downAfter : Bool
  power : Nat
deriving DecidableEq, Repr

/-- A vault seal (R55, R69): drain sequence number, count of drained code pages, measured power, and the CRC-32C over
the vault index. -/
structure Seal where
  seq : Nat
  count : Nat
  power : Nat
  crc : Nat
deriving DecidableEq, Repr

/-- What a drain or settling leaves of the metadata outside the journal: solo map, mirror numbers,
calibrations (R80, R347), and the domains whose writes only the solo map records
(R38). -/
structure SavedMeta where
  journal : MetaData
  solo : SMap Bool
  ssnIssued : Nat
  ssnAcked : Nat
  twinApplied : Nat
  partner : Nat
  drainSeen : Bool
  capMeas : Nat
  rates : List Nat
  powerMeas : Nat
  soloDoms : List Nat
deriving DecidableEq, Repr

/-- Bring-up steps of Table 13.3. -/
inductive Bring where
  | down | hello | spdm | roles | up
deriving DecidableEq, Repr

/-- The mirror beside its registers (R318 to R345, R492): open records by lane, retransmit store, send
queues, LSNs sent and expected, applied marks, lanes with a NAK sent, records taken and not yet applied,
staged atomic frames, the solo map with the domains it hides writes of, unmatched objects of either side,
bring-up, the partner's HELLO, PHYs up, their 1 ms hold, the control counter, the DRAIN latch, tag failures
per lane, ABRUPT, TWIN_HB_OUT, the ledger pass (0 none, 1 sending, 2 closing record sent, 3 acknowledged)
with the entries left and the closing SSN, pages to send and in flight, what the partner's pass named, pages
the partner still owes, pages not yet restored here, taken-over objects, the settled end of the SSN blocks,
whether the partner's HELLO came across a crossed cable (R322), twin fetches in progress, SSNs applied above TWIN_APPLIED, an exchange that waits for its journal charge, the
mirror ports and E1_HALF in force, whether the partner is new (R344), unmatched objects whose records flow again, retried objects with the SSN of their
META record, a TAKEOVER that waits for its charge, and the solo-map pages whose charge waits for room (R60). -/
structure MirS where
  opn : SMap MRec
  retx : List MRec
  sendq : List MRec
  lsnTx : SMap Nat
  rxLsn : SMap Nat
  rxMark : SMap Nat
  rxGap : List Nat
  held : List MRec
  staged : SMap Nat
  solo : SMap Bool
  soloDoms : List Nat
  unmatched : List Nat
  rxUnmatched : List Nat
  bring : Bring
  peer : Option Hello
  crossed : Bool
  phy : Nat
  phyHold : Bool
  refused : Bool
  ctl : Nat
  drainSeen : Bool
  tagRun : SMap Nat
  abrupt : Bool
  hbOut : Bool
  pass : Nat
  passIds : List Nat
  passSsn : Nat
  toSend : List Key
  inflight : List (Key × Nat)
  rxPass : List Nat
  rxPassDone : Bool
  rxDue : List Key
  need : List Key
  takenOver : List Nat
  ssnBlockSettled : Nat
  fetches : List (Nat × Key)
  applied : List Nat
  pend : Option Exch
  ports : Nat
  half : Bool
  fresh : Bool
  flow : List Nat
  retry : List (Nat × Nat)
  takePend : Bool
  soloDue : List Nat
deriving DecidableEq, Repr

/-- A Daybook record (Table 17.1): its window offset and fields; CLASS 0 is a pad. -/
structure Rec where
  ofs : Nat
  len : Nat
  cls : Nat
  dom : Nat
  rule : Nat
  seq : Nat
  opTime : Nat
  cycle : Nat
  items : List (Nat × Nat)
deriving DecidableEq, Repr

/-- A checkpoint entry (R424). -/
structure Ckpt where
  opTime : Nat
  seq : Nat
  cycle : Nat
deriving DecidableEq, Repr

/-- The Daybook: ring (oldest first), dropped records not yet reported, the flush in progress (its end
and whether another follows), the HEAD_SEQ of the drain's step 4c, past which nothing is flushed (R423), both SPI record logs and checkpoint logs (newest last). -/
structure DbkS where
  ring : List Rec
  dropped : Nat
  dropTime : Nat
  flushTo : Option Nat
  flushAgain : Bool
  frozen : Option Nat
  logA : List Rec
  logB : List Rec
  ckA : List Ckpt
  ckB : List Ckpt
deriving DecidableEq, Repr

/-- A range lock (R125): object, first and last line, mode, and the command that entered it. -/
structure Lock where
  uid : Nat
  obj : Nat
  first : Nat
  last : Nat
  excl : Bool
deriving DecidableEq, Repr

/-- Where a command stands between fetch and posting (R122, R124). -/
inductive CPh where
  | waiting | running | finished
deriving DecidableEq, Repr

/-- A command fetched and not yet posted. `words` are the SQE's eight 64-bit words; `tobj`, `tofs` and
`tobj2`, `tofs2` the translations made at fetch (R140), `terr` a failed one; `late` R144; `fails`/`failAt`/`failDet` the failing lines, the first failing offset and its detail code (R139);
`jr` says that its journal charge is admitted and holds a journal entry (R143); `part` how many bytes a data
command has finished; `key` and `mask` the two shares of the GCM key captured at dispatch (R386, R379); `status`, `detail`, `r0`, `r1` its result. -/
structure Cmd where
  uid : Nat
  qp : Nat
  dom : Nat
  link : Nat
  ld : Nat
  words : List Nat
  ph : CPh
  lockWait : Bool
  needLocks : Nat
  tobj : Nat
  tofs : Nat
  tobj2 : Nat
  tofs2 : Nat
  terr : Bool
  accepted : Bool
  late : Bool
  fails : Nat
  failAt : Nat
  part : Nat
  sgl : List (Nat × Nat)
  escrow : List (Nat × Nat)
  switched : Bool
  key : Nat
  mask : Nat
  status : Nat
  detail : Nat
  r0 : Nat
  r1 : Nat
  silent : Bool
  cut : Bool
  failDet : Nat
  jr : Bool
deriving DecidableEq, Repr

/-- A queue pair beside its doorbell page: arbitration credit (R122), commands not signalled (R121), a
reset's captured SQ_HEAD and counts (R129). -/
structure QpS where
  credit : Nat
  unsig : Nat
  rhead : Nat
  disc : Nat
  ncut : Nat
deriving DecidableEq, Repr

/-- The command engine (R110 to R133): commands in fetch order, granted and waiting locks in entry
order, queue-pair bookkeeping, the finished commands in the order of
their completion, the next command number, the last queue pair served per class. -/
structure CmdS where
  cmds : List Cmd
  locks : List Lock
  qps : SMap QpS
  done : List Nat
  uid : Nat
  lastQ1 : Nat
  lastQ2 : Nat
deriving DecidableEq, Repr

/-- Something sent to the outside. -/
inductive Msg where
  | cxlData (link ld tag : Nat) (data : Line) (poison : Bool) (devload : Nat)
  | cxlDone (link ld tag devload : Nat)
  | snoop (link la lines : Nat)
  | cqe (link ld addr qp idx : Nat) (words : List Nat)
  | dmaRead (link ld addr len : Nat)
  | msix (link ld vec : Nat)
  | dmaWrite (link ld addr : Nat) (bytes : List Nat)
  | dmaBytes (link ld : Nat) (bytes : List (Nat × Nat))
  | dmaPage (link ld addr : Nat) (lines : List (Nat × Nat))
  | zeroRead (link ld addr : Nat)
  | mailbox (op status : Nat) (words : List Nat)
  | fm (op status : Nat) (words : List Nat)
  | spdm (op status : Nat) (words : List Nat)
  | mirRec (r : MRec)
  | mirCtl (kind lane arg : Nat) (words : List Nat)
  | mirHello (h : Hello)
  | rdma (ctx op psn : Nat) (hdr bytes : List Nat)
  | pmbus (addr page cmd value : Nat)
  | regRead (fn ofs value : Nat)
  | gpfDone (port : Nat)
  | pageSnoop (link ld : Nat)
  | rasError (link : Nat)
  | pin (name : String) (level : Bool)
  | daybook (fn : Nat) (bytes : List Nat)
deriving DecidableEq, Repr

/-- The global block beside its registers: the per-function read latches (R461) with tag and value,
whether the management interrupt was sent in this tick and whether one is due at its end (R470), and the tick period in
force (R12). -/
structure GlbS where
  latches : SMap (Nat × Nat)
  intSent : Bool
  intPend : Bool
  period : Nat
deriving DecidableEq, Repr

/-- A program under way on a die of a channel: how often an SC1 read suspended it (R280), whether it opens an erased
block, and whether it waits for free blocks (R279). -/
structure NProg where
  ch : Nat
  die : Nat
  susp : Nat
  opens : Bool
  held : Bool
deriving DecidableEq, Repr

/-- A stripe settle in progress (R281): its key (the frame and 0, or the journal or solo-map page), the
page's object, tier page and HOME, the settle set S, the members of S that were charged, their content as
step 3 read it, and whether it runs at SC3 for re-homing (R283). For a journal page `mark` is the journal's
length, and for a solo-map page `solo` its bits, at step 2; `progs` are its programs and `cls` their service class
(R280). -/
structure Settle where
  key : Key
  obj : Nat
  tp : Nat
  home : Nat
  cps : List Nat
  chg : List Nat
  img : List (Nat × List (Nat × DLine))
  mark : Nat
  solo : List Key
  progs : List NProg
  cls : Nat
deriving DecidableEq, Repr

/-- The settlement engine: charged code pages, oldest charge first (R22), and settles in progress.
A key (frame, code page); (2^30, p) is journal page p and (2^30 + 1, p) solo-map page p. -/
structure StlS where
  chq : List Key
  jobs : List Settle
deriving DecidableEq, Repr

/-- What homes and vault held of pages that were given up, until the journal entry that gave them up, number `at'`, is
settled (R58). -/
structure Shadow where
  at' : Nat
  homes : SMap (List (Nat × DLine))
  vault : SMap (List (Nat × DLine))
deriving DecidableEq, Repr

/-- The flash backing beside its registers: home contents by (HOME, code page), vault contents by (object,
16 * page + code page) that restores read and those of the drain in progress, the vault seals, the carriers
in the slots, each channel's recorded state and D[c] (R287, R290) as the NAND metadata keep them, the
stripes of a rebuilding channel whose member is programmed, the class budgets of the tick (R13), what unsettled
journal entries gave up, the vault index of the newest drain, its entries as numbers (R284), and the USE_PM and VAULT_BLK
in force since the start-up (R291). -/
structure NfcS where
  homes : SMap (List (Nat × DLine))
  vault : SMap (List (Nat × DLine))
  vaultNew : SMap (List (Nat × DLine))
  seals : List Seal
  carriers : SMap Carrier
  recState : SMap Nat
  dataBlk : SMap Nat
  rebuilt : SMap Bool
  wear : SMap Nat
  bud : List Nat
  shadow : List Shadow
  index : List Nat
  usePm : Nat
  vaultBlk : Nat
deriving DecidableEq, Repr

/-- The source tags of DRAM requests (R252): front cache, settlement engine, tier engine, twin mirror and
integrity. -/
inductive DTag where
  | fch | stl | tpe | mir | int
deriving DecidableEq, Repr

/-- DRAM requests of one source (R251, R252): n lines from line address la on, a write or a read, with its source
tag, its service class, the time of its insertion in ns and whether it is promoted (R254). In a channel's queue n is 1. -/
structure DReq where
  la : Nat
  n : Nat
  wr : Bool
  tag : DTag
  cls : Nat
  at' : Nat
  old : Bool
deriving DecidableEq, Repr

/-- The DRAM controller beside its registers: the grain in force (R250), the budget of each class in the
tick (R253), pending neighbour refreshes by (channel, rank), parity retries by (channel, subchannel) with the time of the first, sliced
retrains by (channel, lane) with the slices done, a line of the row saved in each channel's buffer by a retrain (R266),
self-refresh (R259), the training runs at lower rates, the DIMMs in an excursion above 95 °C, and the
SPD serial number of the DIMM of each (channel, rank), the channels that had failed before the restart (R269), the
requests that wait at the fabric for an entry and the queued ones, both oldest first (R251), the bursts each class
has used in the tick by (channel, subchannel), and the subchannels in a write batch (R255). -/
structure DrcS where
  grain : Nat
  bud : List Nat
  nr : SMap Nat
  ca : SMap (Nat × Nat)
  slices : SMap Nat
  rowBuf : SMap Nat
  selfRef : Bool
  tried : Nat
  hotDimm : List Nat
  sn : SMap Nat
  failed : Nat
  fabric : List DReq
  queue : List DReq
  spent : SMap (List Nat)
  wrBatch : List (Nat × Nat)
deriving DecidableEq, Repr

/-- A line in the recovery ladder after its first rungs (R302): its address, the rung under way (home
or twin), and whether its deadline passed (R304); `tag` is its twin fetch. -/
structure Ladder where
  la : Nat
  twin : Bool
  late : Bool
  tag : Nat
deriving DecidableEq, Repr

/-- The integrity engine beside its registers: the recode queue by (frame, code page) (R300), code pages
whose page-code lines are unreadable or were not written (R299, R313), retire-pending frames (R309), ladders
under way, lines with a verify read due, lines served with correction (R309), the corrected errors of the
last second as (time, device, row) (R310), the pending repair list as Table 12.3 words (R312), and whether a
metadata-journal line was lost (R313). -/
structure IntS where
  recode : List Key
  pcLost : List Key
  retire : List Nat
  ladders : List Ladder
  verify : List Nat
  known : List Nat
  ceLog : List (Nat × Nat × Nat)
  repair : List Nat
  journalBad : Bool
deriving DecidableEq, Repr
/-- A multi-packet WRITE under way (R356): first PSN, object, object offset, length. -/
structure RMsg where
  psn : Nat
  obj : Nat
  ofs : Nat
  len : Nat
deriving DecidableEq, Repr

/-- Where a released request stands (R366 to R368): not yet sent, sent and not acknowledged, acknowledged and
waiting for SETTLE_ACK, READ data complete and being written, or done with its slot to be written. -/
inductive RqSt where
  | queued | sent | settling | storing | done
deriving DecidableEq, Repr

/-- A released request on the context that sends it: the releasing context (65,536 once destroyed) and its domain,
its slot's object and offset and the slot's line as read, the first PSN, packets, state, payload of a WRITE or SEND
or the READ data received, packets of it acknowledged or lines of it written, STATUS and DONE_MARK. -/
structure TReq where
  owner : Nat
  dom : Nat
  obj : Nat
  ofs : Nat
  slot : Nat
  psn : Nat
  n : Nat
  st : RqSt
  data : List Nat
  part : Nat
  status : Nat
  mark : Nat
deriving DecidableEq, Repr

/-- A context that is not free (R351 to R370): the stored record's words; in error; on chip, being fetched, order
of last use; the responder's expected PSN, PSNs placed ahead (2^24 added where SETTLE is set), whether the gap was NAKed and an RNR NAK stands,
messages under way, last atomic results, READs not yet answered, the packet that waits, parked packets, FIN
packets parked ahead, the newest fence (PSN, state of Table 14.6, mark); the requester's requests in order, next PSN,
retries and RNR retries taken, PSN of a standing RNR NAK, send rate in Mb/s and OP_TIME of the last CNP sent;
TRIG_COUNT, TRIG_NEXT, requests released and not completed, an examination still due, the port in use, and by PSN the
packets whose object was deleted under their page's fetch with the bytes they read (R154, Table 07.8; 256 marks a byte of a failing line). -/
structure RCtx where
  words : List Nat
  err : Bool
  chip : Bool
  fetching : Bool
  used : Nat
  epsn : Nat
  placed : List Nat
  gap : Bool
  rnr : Bool
  msgs : List RMsg
  atomics : List (Nat × Nat)
  reads : List Pkt
  blocked : Option Pkt
  parked : List Pkt
  fins : List Pkt
  fence : Option (Nat × Nat × Nat)
  sq : List TReq
  spsn : Nat
  retries : Nat
  rnrs : Nat
  rnrAt : Option Nat
  rate : Nat
  cnpAt : Option Nat
  count : Nat
  next : Nat
  opn : Nat
  exam : Bool
  port : Nat
  gone : List (Nat × List Nat)
deriving DecidableEq, Repr

/-- The remote access engine beside its registers: contexts and keys (Table 14.4 words) in use, the order counter
of context use, ports whose sending PFC pauses with the packets held back by port, and ended requests of destroyed
contexts whose slots are still to be written. -/
structure RaeS where
  ctxs : SMap RCtx
  keys : SMap (List Nat)
  clock : Nat
  paused : List Nat
  held : List (Nat × Msg)
  flush : List TReq
deriving DecidableEq, Repr

/-- The service processor's secrets beside the CIP and SEC registers (R379 to R394): key per loaded slot and DKEK per
domain as the first of two shares, the second shares (the masks) by (0, slot) and (1, domain), the wrapped blob written to each teller page, OTP's root-key revocation and owner hash,
the measurements by index (Table 15.6), open sessions with whether the owner authenticated, whether the
processor is in recovery (R392), the number of DRBG outputs drawn and of its reseeds, and the key table's slot
modes, owners and KEK_SET as register values (R387). -/
structure SecS where
  keys : SMap Nat
  dkek : SMap Nat
  masks : SMap Nat
  blob : SMap Nat
  ownerHash : Nat
  meas : SMap Nat
  sessions : List (Nat × Bool)
  recovery : Bool
  draws : Nat
  reseeds : Nat
  table : SMap Nat
deriving DecidableEq, Repr
/-- The power supervisor beside its registers (R397 to R415): hottest die reading and whether its excursion above
100 °C is on, rails that are good, rails kept down until the next up-sequence (R402, R405), rails that failed
under IGNORE in this up-sequence, the time a retried rail became good again, the last PMBus record per rail,
whether a Pn_RDY has risen since the up-sequence began, whether the whistle sync waits or is done, whether the
down-sequence goes in reverse of the up order and ends in LOCKOUT, the copy's values for rails 00 to 05 that wait
for the next core phase, both stored first-fault records and the stored POWER_CYCLES of the power record area,
internal domains ramping and waiting to ramp, SYS_RST_N asserted, the last STATUS_WORD, READ_VOUT and
READ_IOUT of each rail, and the rails that a GROUP reaction or the choice of the channel set is taking down. -/
structure PwrS where
  dieTemp : Nat
  hot : Bool
  good : Nat
  kept : Nat
  ign : Nat
  again : SMap Nat
  pmErr : SMap Nat
  rdyUp : Bool
  syncing : Bool
  synced : Bool
  byUp : Bool
  toLock : Bool
  corePend : List (Fld × Nat × Nat)
  ffA : List Nat
  ffB : List Nat
  cycles : Nat
  domRamp : List Nat
  domWait : List Nat
  sysRst : Bool
  pmbus : SMap (Nat × Nat × Nat)
  drop : List Nat
deriving DecidableEq, Repr
/-- The online self-test beside the BST registers (R435 to R439): the test (0 when none runs) with its target,
the unit in progress, the steps of it done, ABORT, the failures of that unit, the result FIFO as the entry's
first word, FAIL_MASK and OP_TIME, and whether an element of a way group's march has failed. -/
structure BstS where
  test : Nat
  ch : Nat
  rank : Nat
  group : Nat
  unit : Nat
  step : Nat
  abort : Bool
  fails : List RowFail
  fifo : List (Nat × Nat × Nat)
  bad : Bool
deriving DecidableEq, Repr
/-- Start-up (19_start_up.md): both stored configuration copies, the SEQ of the copy chosen and applied
at this start-up (none in a safe start), whether the service firmware runs, the configuration floor
and the consumed mark of NAND metadata (R449, R455), whether the carriers hold metadata bound to this
8120, and which conditions of R453 have come about: metadata loaded, key table read, known-answer tests
run; the unmirrored objects with charged code pages at the last abrupt loss (R456), and the images of the SPI devices by (device, 0
stage 1 or 1 service firmware) (R447). -/
structure BootS where
  copyA : Option Copy
  copyB : Option Copy
  chosen : Option Nat
  fwUp : Bool
  floor : Nat
  consumed : Nat
  hasMeta : Bool
  metaDone : Bool
  keysRead : Bool
  kats : Bool
  lost : List Nat
  imgs : SMap Img
deriving DecidableEq, Repr

/-- The whole state. `regs` holds every register field that differs from its reset value; `pending` the
commands waiting, first in, first out; `waits` the requests waiting for float, a fence, a page and the
like; `once` the once-per-tick records raised in this tick; `freeIdx` (the model's own) numbers the free
values used; `out` (the model's own) lists what was sent. -/
structure State where
  regs : SMap Nat
  glb : GlbS
  dbk : DbkS
  once : List (Nat × Nat)
  md : MetaData
  jr : Journal
  saved : SavedMeta
  tpe : TpeS
  dram : SMap DLine
  fch : FchS
  stl : StlS
  nfc : NfcS
  drc : DrcS
  int : IntS
  prt : PrtS
  cmd : CmdS
  waits : List Wait
  fences : List Fence
  fgv : FgvS
  drain : DrainS
  mir : MirS
  rae : RaeS
  sec : SecS
  pwr : PwrS
  bst : BstS
  boot : BootS
  freeIdx : Nat
  out : List Msg
  pending : List Instr
deriving DecidableEq, Repr

/-! ### Reset (log entry 14): power-up of the always-on domain of a device that has recorded nothing -/

/-- No metadata: an empty ledger and map (Table 19.5). -/
def metaNone : MetaData := ⟨[], [], [], 1, 0, none, false, []⟩

/-- No stored metadata. -/
def savedNone : SavedMeta := ⟨metaNone, [], 0, 0, 0, 0, false, 0, [], 0, []⟩

/-- The tier engine with nothing in DRAM. -/
def tpeNone : TpeS := ⟨[], 0, [], 0, [], [], [], 0, [], none⟩

/-- An empty front cache. -/
def fchNone : FchS := ⟨[], [], [], [], 0, [], [], [0, 0, 0, 0]⟩

/-- A flash backing without carriers. -/
def nfcNone : NfcS := ⟨[], [], [], [], [], [], [], [], [], [0, 0, 0, 0], [], [], 750, 2064⟩

/-- The DRAM controller before training. -/
def drcNone : DrcS := ⟨0, [0, 0, 0, 0], [], [], [], [], false, 0, [], [], 0, [], [], [], []⟩

/-- The integrity engine with nothing found. -/
def intNone : IntS := ⟨[], [], [], [], [], [], [], [], false⟩

/-- The ports with the given reset pins and mailbox contents kept by nothing. -/
def prtNone : PrtS := ⟨15, 0, [], [], [], [], [], [], [], 0, 0, 0, [], [], [], []⟩

/-- A command engine without queue pairs; the first scan of a class starts behind queue pair 0 (DESIGN CHOICE, log
entry 22). -/
def cmdNone : CmdS := ⟨[], [], [], [], 0, 0, 0⟩

/-- The Float Governor before its first publication. -/
def fgvNone : FgvS := ⟨0, 0, 0, [], .idle, 0, 0, 0, 0, false, false, [], false, false, 0, 0, false⟩

/-- No drain. -/
def drainNone : DrainS := ⟨none, false, 0, 0, 0, 0, false, 0⟩

/-- The mirror with its link down. -/
def mirNone : MirS :=
  { opn := [], retx := [], sendq := [], lsnTx := [], rxLsn := [], rxMark := [], rxGap := [], held := [], staged := []
    solo := [], soloDoms := [], unmatched := [], rxUnmatched := [], bring := .down, peer := none, crossed := false, phy := 0
    phyHold := false, refused := false, ctl := 0, drainSeen := false, tagRun := [], abrupt := false
    hbOut := false, pass := 0, passIds := [], passSsn := 0, toSend := [], inflight := [], rxPass := []
    rxPassDone := false, rxDue := [], need := [], takenOver := [], ssnBlockSettled := 0
    fetches := [], applied := [], pend := none, ports := 0, half := false, fresh := false, flow := [], retry := [], takePend := false, soloDue := [] }

/-- The remote access engine with every context and key free. -/
def raeNone : RaeS := ⟨[], [], 0, [], [], []⟩

/-- The service processor without loaded slots or sessions. -/
def secNone : SecS := ⟨[], [], [], [], 0, [], [], false, 0, 0, []⟩

/-- The supervisor at power-up of the always-on domain. -/
def pwrNone : PwrS := ⟨0, false, 0, 0, 0, [], [], false, false, false, false, false, [], [], [], 0, [], [], false, [], []⟩

/-- No online test. -/
def bstNone : BstS := ⟨0, 0, 0, 0, 0, 0, false, [], [], false⟩

/-- A start-up not begun; no copy is stored. -/
def bootNone : BootS := ⟨none, none, none, false, 0, 0, false, false, false, false, [], []⟩

/-- The machine right after reset: every register field at its Reset value, the supervisor in MIN_OFF (R411),
nothing stored, no command waiting. -/
def State.reset : State :=
  { regs := [], glb := ⟨[], false, false, 195⟩, dbk := ⟨[], 0, 0, none, false, none, [], [], [], []⟩, once := []
    md := metaNone, jr := ⟨metaNone, [], []⟩, saved := savedNone, tpe := tpeNone, dram := [], fch := fchNone
    stl := ⟨[], []⟩, nfc := nfcNone, drc := drcNone, int := intNone, prt := prtNone, cmd := cmdNone, waits := []
    fences := [], fgv := fgvNone, drain := drainNone, mir := mirNone, rae := raeNone, sec := secNone, pwr := pwrNone
    bst := bstNone, boot := bootNone, freeIdx := 0, out := [], pending := [] }

end Sys2Proof.Machine
end

