-- ==== Sys2Proof/Machine/Ops.lean ====
section
/-! DEFINITION. The named operations over registers and the shared bookkeeping of every block: reading
and writing a register field, sending a message, drawing a free value, CRC-32C. -/

namespace Sys2Proof.Machine

/-- The reset value of one instance of a field: the table's Reset column, with the entries that differ
per instance (Table 03.8 GUAR_WT, Table 16.1 and R398 rails, Table 15 TL_STATE and SEC_SLOT_0). -/
def Fld.resetVal (f : Fld) (i : Nat) : Nat :=
  match f with
  | .GUAR_WT => if i = 0 then 4096 else 0
  | .EN => if i ≤ 5 then 1 else 0
  | .DRAIN_NEED => if i ≤ 5 then 1 else 0
  | .UP_STEP => [0, 1, 2, 2, 3, 3].getD i 0
  | .DOWN_STEP => [0, 0, 1, 1, 2, 2].getD i 0
  | .TL_STATE_DOMAIN => i % 256
  | .MODE => if i = 0 then 1 else 0
  | .DEVICE_UID => Config.deviceUid % 2 ^ 64
  | _ => f.spec.reset

/-- What a field stores of a written value: its width, the limits of its table, and the write rules
that fix single bits or values (R73, R239, R469 table 20.4). -/
def Fld.store (f : Fld) (i v : Nat) : Nat :=
  let x := min f.spec.hi (max f.spec.lo (v % 2 ^ f.spec.width))
  match f with
  | .GUAR_WT => if i = 0 then max 1024 x else x
  | .PG_REQ => if x % 2 = 1 then x else x + 1
  | .ALERT_EN => if x < 2 ^ 17 then x + 2 ^ 17 else x
  | .WDOG_MS => if 0 < x ∧ x < 100 then 100 else x
  | .DEVICE_UID => Config.deviceUid % 2 ^ 64
  | _ => x

/-- The value of instance i of a field. -/
def State.rdi (s : State) (f : Fld) (i : Nat) : Nat :=
  (mget s.regs (f.ctorIdx, i)).getD (f.resetVal i)

/-- The register table after a write of v to instance i of a field: only values that differ from the
reset value are listed. -/
def regsPut (r : SMap Nat) (f : Fld) (i v : Nat) : SMap Nat :=
  if f.store i v = f.resetVal i then mdel r (f.ctorIdx, i) else mput r (f.ctorIdx, i) (f.store i v)

/-- Store v in instance i of a field, by the field's own write rule. -/
def State.wri (s : State) (f : Fld) (i v : Nat) : State :=
  { s with regs := regsPut s.regs f i v }

/-- A field of a register that exists once. -/
def State.rd (s : State) (f : Fld) : Nat := s.rdi f 0

/-- Store a field of a register that exists once. -/
def State.wr (s : State) (f : Fld) (v : Nat) : State := s.wri f 0 v

/-- A one-bit field as a truth value. -/
def State.fl (s : State) (f : Fld) : Bool := s.rd f != 0

/-- A one-bit field of instance i as a truth value. -/
def State.fli (s : State) (f : Fld) (i : Nat) : Bool := s.rdi f i != 0

/-- Set a one-bit field. -/
def State.setf (s : State) (f : Fld) (b : Bool) : State := s.wr f (b2n b)

/-- Set a one-bit field of instance i. -/
def State.setfi (s : State) (f : Fld) (i : Nat) (b : Bool) : State := s.wri f i (b2n b)

/-- Set one bit of a field that holds a bit per unit. -/
def State.setBitOf (s : State) (f : Fld) (i b : Nat) (v : Bool) : State :=
  s.wri f i (setBit (s.rdi f i) b v)

/-- Do f when c holds. -/
def State.when (s : State) (c : Bool) (f : State → State) : State := if c then f s else s

/-- Put a message on the output list. -/
def State.send (s : State) (m : Msg) : State := { s with out := s.out ++ [m] }

/-- The next unconstrained value (log entry 6). -/
def State.freeVal (s : State) : Nat := Config.free s.freeIdx

/-- Step past the free value used. -/
def State.freeNext (s : State) : State := { s with freeIdx := s.freeIdx + 1 }

/-- Apply f to every element of a list, in order. -/
def State.each {α : Type} (s : State) (l : List α) (f : State → α → State) : State := l.foldl f s

/-- The block of an LD's index in the LD registers: 16 * link + LD (R108). -/
def ldIx (link ld : Nat) : Nat := 16 * link + ld

/-- The port of a link: links 2n and 2n+1 belong to port n (R83). -/
def portOf (link : Nat) : Nat := link / 2

/-- The BAR0 offset and low bit of instance i of a field. -/
def fldAddr (f : Fld) (i : Nat) : Nat × Nat :=
  (regTable.findSome? fun r => r.fields.findSome? fun x =>
    if x.fld = f then some (r.base + r.s1 * (i / r.n2) + r.s2 * (i % r.n2), x.lo) else none).getD (0, 0)

/-- The instance of a register that lies at a BAR0 offset. -/
def RegDef.at? (r : RegDef) (ofs : Nat) : Option Nat :=
  if ofs < r.base then none
  else
    let d := ofs - r.base
    let a := if r.s1 = 0 then 0 else min (d / r.s1) (r.n1 - 1)
    let e := d - a * r.s1
    let b := if r.s2 = 0 then 0 else min (e / r.s2) (r.n2 - 1)
    if e = b * r.s2 then some (a * r.n2 + b) else none

/-- The register at a BAR0 offset, with its instance. -/
def regAt (ofs : Nat) : Option (RegDef × Nat) := regTable.findSome? fun r => (r.at? ofs).map fun i => (r, i)

/-- The key of a loaded slot, from its two shares (R379). -/
def State.slotKey (s : State) (k : Nat) : Nat :=
  (mget s.sec.keys (k, 0)).getD 0 ^^^ (mget s.sec.masks (0, k)).getD 0

/-- A domain's DKEK, from its two shares. -/
def State.domKek (s : State) (d : Nat) : Nat :=
  (mget s.sec.dkek (d, 0)).getD 0 ^^^ (mget s.sec.masks (1, d)).getD 0

/-- Fresh mask bits of a cluster's generator: 512 for an XTS key pair (R379, R380; log entry 8). -/
def State.maskBits (s : State) : Nat := s.freeVal % 2 ^ 512

/-- The shares of slot k are re-randomised, as at every load of the slot into a pipeline (R379). -/
def State.reshareSlot (s : State) (k : Nat) : State :=
  match mget s.sec.keys (k, 0) with
  | none => s
  | some x =>
    let m := s.maskBits
    { s.freeNext with sec := { s.sec with
        keys := mput s.sec.keys (k, 0) (x ^^^ m)
        masks := mput s.sec.masks (0, k) ((mget s.sec.masks (0, k)).getD 0 ^^^ m) } }

/-- The shares of domain d's DKEK are re-randomised. -/
def State.reshareKek (s : State) (d : Nat) : State :=
  match mget s.sec.dkek (d, 0) with
  | none => s
  | some x =>
    let m := s.maskBits
    { s.freeNext with sec := { s.sec with
        dkek := mput s.sec.dkek (d, 0) (x ^^^ m)
        masks := mput s.sec.masks (1, d) ((mget s.sec.masks (1, d)).getD 0 ^^^ m) } }

/-- The tick's re-randomisation of every key held (R379). -/
def State.reshareAll (s : State) : State :=
  let s := s.each (s.sec.keys.map (·.1.1)) State.reshareSlot
  s.each (s.sec.dkek.map (·.1.1)) State.reshareKek

/-- Slot k takes a key, held as two shares. -/
def State.setSlotKey (s : State) (k v : Nat) : State :=
  let m := s.maskBits
  { s.freeNext with sec := { s.sec with keys := mput s.sec.keys (k, 0) (v ^^^ m), masks := mput s.sec.masks (0, k) m } }

/-- Slot k is emptied. -/
def State.clearSlotKey (s : State) (k : Nat) : State :=
  { s with sec := { s.sec with keys := mdel s.sec.keys (k, 0), masks := mdel s.sec.masks (0, k) } }

/-- Domain d takes a DKEK, held as two shares. -/
def State.setKek (s : State) (d v : Nat) : State :=
  let m := s.maskBits
  { s.freeNext with sec := { s.sec with dkek := mput s.sec.dkek (d, 0) (v ^^^ m), masks := mput s.sec.masks (1, d) m } }

/-- Domain d's DKEK is cleared. -/
def State.clearKek (s : State) (d : Nat) : State :=
  { s with sec := { s.sec with dkek := mdel s.sec.dkek (d, 0), masks := mdel s.sec.masks (1, d) } }

/-- One bit step of CRC-32C (reflected polynomial 0x82F63B78). -/
def crcStep (c : Nat) : Nat := if c % 2 = 1 then (c / 2) ^^^ 0x82F63B78 else c / 2

/-- CRC-32C of a byte list. -/
def crc32c (bytes : List Nat) : Nat :=
  (bytes.foldl (fun c b =>
    crcStep (crcStep (crcStep (crcStep (crcStep (crcStep (crcStep (crcStep (c ^^^ b))))))))) 0xFFFFFFFF)
    ^^^ 0xFFFFFFFF

/-- n bytes of a number, least significant first. -/
def toBytes (n v : Nat) : List Nat := (List.range n).map fun k => bits v (8 * k) 8

/-- A number from its bytes, least significant first. -/
def ofBytes : List Nat → Nat
  | [] => 0
  | b :: r => b % 256 + 256 * ofBytes r

end Sys2Proof.Machine
end

