-- ==== Sys2Proof/Machine/Flags.lean ====
section
/-! DEFINITION. Flags and reports that every block raises: Daybook records (R418 to R425), saturating
counters with their overflow flags (R425), ALERT_N (R469) and the management interrupt (R470). -/

namespace Sys2Proof.Machine

/-- Daybook classes of Table 17.2. -/
def clsFault : Nat := 1
/-- Class ERROR. -/
def clsError : Nat := 2
/-- Class WARN. -/
def clsWarn : Nat := 3
/-- Class SERVICE. -/
def clsService : Nat := 4
/-- Class COUNTER. -/
def clsCounter : Nat := 5
/-- Class BOOT. -/
def clsBoot : Nat := 6
/-- Class STATE. -/
def clsState : Nat := 7
/-- Class LOSS. -/
def clsLoss : Nat := 8

/-- An item of Table 17.3; a value wider than 56 bits takes two. -/
def item (ty v : Nat) : List (Nat × Nat) :=
  if v < 2 ^ 56 then [(ty, v)] else [(ty, v % 2 ^ 32), (ty, v / 2 ^ 32)]

/-- Whether two byte spans [a, a+m) and [b, b+n) meet. -/
def spansMeet (a m b n : Nat) : Bool := decide (a < b + n ∧ b < a + m)

/-- Bytes of the ring (R420). -/
def ringBytes : Nat := 262144

/-- The records that stay when a record of len bytes is placed at h, with its offset and the pad before
it (R420, R422); none when an unflushed record is in the way (R421). -/
def ringRoom (ring : List Rec) (h len flushed : Nat) : Option (List Rec × Nat × Nat) :=
  let pad := if h + len ≤ ringBytes then 0 else ringBytes - h
  let o := if pad = 0 then h else 0
  let hit := fun r : Rec => spansMeet r.ofs r.len h pad || spansMeet r.ofs r.len o len
  if ring.any (fun r => hit r && decide (flushed ≤ r.seq)) then none
  else some (ring.filter (fun r => !hit r), o, pad)

/-- TAIL_SEQ and TAIL_OFS follow the oldest record in the ring; an empty ring's tail is its head. -/
def State.dbkTail (s : State) : State :=
  match s.dbk.ring.find? (fun r => r.cls != 0) with
  | some r => (s.wr .TAIL_SEQ r.seq).wr .TAIL_OFS r.ofs
  | none => (s.wr .TAIL_SEQ (s.rd .HEAD_SEQ)).wr .TAIL_OFS (s.rd .HEAD_OFS)

/-- Write one record whole at HEAD_OFS, then advance HEAD_SEQ past it (R420); `none` when there is no
room. -/
def State.dbkPlace (s : State) (cls dom rule : Nat) (items : List (Nat × Nat)) : Option State :=
  let len := 32 + 8 * items.length
  let h := s.rd .HEAD_OFS
  match ringRoom s.dbk.ring h len (s.rd .FLUSH_SEQ) with
  | none => none
  | some (ring, o, pad) =>
    let seq := s.rd .HEAD_SEQ
    let p : List Rec := if pad = 0 then [] else [⟨h, pad, 0, 0, 0, seq, 0, 0, []⟩]
    let r : Rec := ⟨o, len, cls, dom, rule, seq, s.rd .OP_TIME, s.rd .POWER_CYCLES, items⟩
    let s := { s with dbk := { s.dbk with ring := ring ++ p ++ [r] } }
    some (((s.wr .HEAD_SEQ (seq + 1)).wr .HEAD_OFS ((o + len) % ringBytes)).dbkTail)

/-- Bytes of the ring not yet flushed (R423). -/
def State.unflushed (s : State) : Nat :=
  ((s.dbk.ring.filter fun r => s.rd .FLUSH_SEQ ≤ r.seq).map (·.len)).foldl (· + ·) 0

/-- A flush begins, or another one after the flush in progress (R423). After step 4c has begun, records
created later are not flushed. -/
def State.flushStart (s : State) : State :=
  if s.fl .FLUSH_BUSY then { s with dbk := { s.dbk with flushAgain := true } }
  else if s.fl .SPI_A_FAIL && s.fl .SPI_B_FAIL then s
  else { s.setf .FLUSH_BUSY true with dbk := { s.dbk with
    flushTo := some (s.dbk.frozen.getD (s.rd .HEAD_SEQ)), flushAgain := false } }

/-- A flush trigger (R423). -/
def State.dbkFlush (s : State) : State := if s.dbk.frozen.isSome then s else s.flushStart

/-- Drop a record: LOST_CNT and LOST (R421). -/
def State.dbkDrop (s : State) : State :=
  let n := s.rd .LOST_CNT
  let s := { s with dbk := { s.dbk with
    dropped := s.dbk.dropped + 1
    dropTime := if s.dbk.dropped = 0 then s.rd .OP_TIME else s.dbk.dropTime } }
  let s := s.setf .LOST true
  if n + 1 < 2 ^ 32 then
    (s.wr .LOST_CNT (n + 1)).when (n + 2 = 2 ^ 32) (fun s => s.setBitOf .DBK_FLAGS_CNT_OVF 0 0 true)
  else s

/-- Raise one Daybook record (R418); a LOSS record goes before it when records were dropped (R421), and
a FAULT record or FLUSH_HI unflushed bytes trigger a flush (R423). -/
def State.record (s : State) (cls dom rule : Nat) (items : List (Nat × Nat)) : State :=
  let s1 :=
    if s.dbk.dropped = 0 then some s
    else (s.dbkPlace clsLoss 0 421 (item 9 s.dbk.dropped ++ item 7 s.dbk.dropTime)).map fun t =>
      { t with dbk := { t.dbk with dropped := 0, dropTime := 0 } }
  match s1.bind (fun t => t.dbkPlace cls dom rule items) with
  | some t => t.when (cls = clsFault || decide (t.rd .FLUSH_HI ≤ t.unflushed)) State.dbkFlush
  | none => s.dbkDrop

/-- Raise a record at most once per key in a tick. -/
def State.recordOnce (s : State) (key : Nat) (cls dom rule : Nat) (items : List (Nat × Nat)) : State :=
  if s.once.contains (rule, key) then s
  else State.record { s with once := s.once ++ [(rule, key)] } cls dom rule items

/-- Increment an event counter: it sticks at its maximum, and the increment that reaches the maximum
sets its overflow bit and raises one COUNTER record naming the field (R425). -/
def State.count (s : State) (f : Fld) (i : Nat) (ovf : Fld) (oi b : Nat) : State :=
  let top := 2 ^ f.spec.width - 1
  let v := s.rdi f i
  if v < top then
    let s := s.wri f i (v + 1)
    if v + 1 = top then
      let a := fldAddr f i
      (s.setBitOf ovf oi b true).record clsCounter 0 425 [(6, a.1 + a.2 * 2 ^ 24)]
    else s
  else s

/-- The management interrupt (R470): sent to the target function's MSI-X entry, or INT_TGT_ERR when
the target LD is not an enabled LD of domain 0. -/
def State.intSend (s : State) : State :=
  let l := s.rd .INT_LINK
  let j := s.rd .INT_LD
  let s := { s with glb := { s.glb with intSent := true, intPend := false } }
  if s.fli .LD_EN (ldIx l j) && s.rdi .PRT_LD_CFG_DOMAIN (ldIx l j) == 0 then
    s.send (.msix l j (s.rd .INT_VEC))
  else s.setf .INT_TGT_ERR true

/-- A bit of GLB_ALERT set: signal it when enabled, at most once per tick (R470). -/
def State.intBit (s : State) (b : Nat) (wasSet : Bool) : State :=
  if wasSet || !bit (s.rd .GLB_INT_INT_EN) b then s
  else if s.glb.intSent then { s with glb := { s.glb with intPend := true } }
  else s.intSend

/-- Recompute ALERT_OUT: 1 while an enabled bit is set (R469). -/
def State.alertOut (s : State) : State :=
  let v := s.rd .ALERT_CAUSE + 2 ^ 17 * s.rd .ALERT_FATAL
  s.setf .ALERT_OUT ((v &&& s.rd .ALERT_EN) != 0)

/-- Raise ALERT_N for block b (R469). -/
def State.alert (s : State) (b : Nat) : State :=
  let was := bit (s.rd .ALERT_CAUSE) b
  ((s.setBitOf .ALERT_CAUSE 0 b true).alertOut).intBit b was

/-- The ALERT_FATAL bit (R469). -/
def State.alertFatal (s : State) : State :=
  let was := s.fl .ALERT_FATAL
  ((s.setf .ALERT_FATAL true).alertOut).intBit 17 was

/-- Block numbers of Table 20.1. -/
def blkGLB : Nat := 0
/-- Block PWR. -/
def blkPWR : Nat := 1
/-- Block DBK. -/
def blkDBK : Nat := 2
/-- Block PRT. -/
def blkPRT : Nat := 3
/-- Block CMD. -/
def blkCMD : Nat := 4
/-- Block FCH. -/
def blkFCH : Nat := 5
/-- Block DRC. -/
def blkDRC : Nat := 6
/-- Block NFC. -/
def blkNFC : Nat := 7
/-- Block INT. -/
def blkINT : Nat := 8
/-- Block TPE. -/
def blkTPE : Nat := 9
/-- Block FGV. -/
def blkFGV : Nat := 10
/-- Block STL. -/
def blkSTL : Nat := 11
/-- Block MIR. -/
def blkMIR : Nat := 12
/-- Block RAE. -/
def blkRAE : Nat := 13
/-- Block CIP. -/
def blkCIP : Nat := 14
/-- Block SEC. -/
def blkSEC : Nat := 15
/-- Block BST. -/
def blkBST : Nat := 16

end Sys2Proof.Machine
end

