-- ==== Sys2Proof/Machine/Daybook.lean ====
section
/-! DEFINITION. The Daybook's formats and its flushes, checkpoints and readers (17_daybook.md). -/

namespace Sys2Proof.Machine

/-! ### Formats (Tables 17.1 and 17.3) -/

/-- The 32-byte header of a record with the given CRC field. -/
def Rec.header (r : Rec) (crc : Nat) : List Nat :=
  toBytes 8 (r.len % 2048 + r.cls * 2 ^ 11 + r.dom * 2 ^ 16 + r.rule * 2 ^ 24) ++ toBytes 8 r.seq
    ++ toBytes 8 r.opTime ++ toBytes 4 r.cycle ++ toBytes 4 crc

/-- The items of a record: VALUE in bits 55..0, TYPE above. -/
def Rec.itemBytes (r : Rec) : List Nat := r.items.flatMap fun x => toBytes 7 x.2 ++ toBytes 1 x.1

/-- A whole record, its CRC taken with the CRC field as 0. -/
def Rec.bytes (r : Rec) : List Nat :=
  r.header (crc32c (r.header 0 ++ r.itemBytes)) ++ r.itemBytes

/-- The first eight bytes of a pad (R422). -/
def Rec.padBytes (r : Rec) : List Nat := toBytes 8 (r.len % 2048)

/-! ### Flushes and checkpoints -/

/-- The Daybook runs with the fabric: after the core phase until the down-sequence (R394 to R403). -/
def State.fabricUp (s : State) : Bool := decide (2 ≤ s.rd .SEQ_STATE) && decide (s.rd .SEQ_STATE ≤ 4)

/-- Bytes of records that the 490 segments of a record log hold (R423). -/
def logBytes : Nat := 490 * (65536 - 32)

/-- The newest records that fit the record log, oldest first. -/
def logTrim (l : List Rec) : List Rec :=
  let sum := (l.map (·.len)).foldl (· + ·) 0
  (l.foldl (fun (x : List Rec × Nat) r => if logBytes < x.2 then (x.1.drop 1, x.2 - r.len) else x) (l, sum)).1

/-- A checkpoint of OP_TIME and FLUSH_SEQ on both devices (R424); the log holds 32,768. -/
def State.checkpoint (s : State) : State :=
  let c : Ckpt := ⟨s.rd .OP_TIME, s.rd .FLUSH_SEQ, s.rd .POWER_CYCLES⟩
  let add := fun (l : List Ckpt) => (l ++ [c]).drop (l.length + 1 - 32768)
  { s with dbk := { s.dbk with
      ckA := if s.fl .SPI_A_FAIL then s.dbk.ckA else add s.dbk.ckA
      ckB := if s.fl .SPI_B_FAIL then s.dbk.ckB else add s.dbk.ckB } }.wr .CKPT_TIME (s.rd .OP_TIME)

/-- The records of the flush in progress. -/
def State.flushRecs (s : State) : List Rec :=
  match s.dbk.flushTo with
  | none => []
  | some e => s.dbk.ring.filter fun r => r.cls != 0 && decide (s.rd .FLUSH_SEQ ≤ r.seq) && decide (r.seq < e)

/-- The flush in progress ends (R423): `okA` and `okB` say whether the device's program and verify
succeeded. FLUSH_SEQ advances when a device holds the records. -/
def State.flushEnd (s : State) (okA okB : Bool) : State :=
  let rs := s.flushRecs
  let a : Bool := okA && !s.fl .SPI_A_FAIL
  let b : Bool := okB && !s.fl .SPI_B_FAIL
  let upto := s.dbk.flushTo.getD 0
  let s := { s with dbk := { s.dbk with
    logA := if a then logTrim (s.dbk.logA ++ rs) else s.dbk.logA
    logB := if b then logTrim (s.dbk.logB ++ rs) else s.dbk.logB
    flushTo := none } }
  let s := s.setf .FLUSH_BUSY false
  let s := s.when (!okA) (·.setf .SPI_A_FAIL true)
  let s := s.when (!okB) (·.setf .SPI_B_FAIL true)
  let s := if a || b then (s.wr .FLUSH_SEQ upto).count .FLUSH_CNT 0 .DBK_FLAGS_CNT_OVF 0 1 else s
  let again := s.dbk.flushAgain
  let s := { s.checkpoint with dbk := { s.checkpoint.dbk with flushAgain := false } }
  if again then s.flushStart else s

/-! ### Reading (R163, R427, R428) -/

/-- The record of a sequence number: from the ring, or below TAIL_SEQ from either record log. -/
def insertRec (l : List Rec) (r : Rec) : List Rec :=
  match l with
  | [] => [r]
  | x :: t => if r.seq < x.seq then r :: x :: t else if r.seq = x.seq then x :: t else x :: insertRec t r

/-- Every readable record in sequence order. -/
def State.dbkRecords (s : State) : List Rec :=
  let ring := s.dbk.ring.filter fun r => r.cls != 0
  let old := (s.dbk.logA ++ s.dbk.logB).filter fun r => decide (r.seq < s.rd .TAIL_SEQ)
  (old ++ ring).foldl insertRec []

/-- The walk of R163 over the records from START_SEQ: bytes copied, the next sequence number, whether a number
was passed over, and whether a record did not fit. -/
structure LogWalk where
  bytes : List Nat
  next : Nat
  gap : Bool
  full : Bool
deriving DecidableEq, Repr

/-- One record of the walk for a reader of domain d with a buffer of `max` bytes. -/
def LogWalk.take (d max : Nat) (w : LogWalk) (r : Rec) : LogWalk :=
  if w.full then w
  else
    let gap := w.gap || decide (w.next < r.seq)
    if d != 0 && r.dom != d then { w with next := r.seq + 1, gap := gap }
    else if max < w.bytes.length + r.len then { w with next := r.seq, gap := gap, full := true }
    else { w with bytes := w.bytes ++ r.bytes, next := r.seq + 1, gap := gap }

/-- The copy of whole records from `start`. -/
def State.logWalk (s : State) (d start max : Nat) : LogWalk :=
  let h := s.rd .HEAD_SEQ
  let w := (s.dbkRecords.filter fun r => decide (start ≤ r.seq) && decide (r.seq < h)).foldl (LogWalk.take d max)
    ⟨[], start, false, false⟩
  if w.full || decide (h ≤ w.next) then w else { w with next := h, gap := true }

/-- FLUSH_NOW (R423). -/
def State.flushNow (s : State) : State := s.dbkFlush

/-- The 64-bit word at an offset of the Daybook read window (R420): a pad's other bytes and bytes that no
record holds are undefined (log entry 6). -/
def State.windowByte (s : State) (x : Nat) : Option Nat :=
  (s.dbk.ring.find? fun r => decide (r.ofs ≤ x) && decide (x < r.ofs + r.len)).bind fun r =>
    if r.cls = 0 then r.padBytes[x - r.ofs]? else r.bytes[x - r.ofs]?

end Sys2Proof.Machine
end

