-- ==== Sys2Proof/Machine/LineCode.lean ====
section
/-! DEFINITION. The stored form of a line (12_data_integrity.md R294 to R298): the line code over GF(2^16), the symbols
of the ten devices, the check patterns, the page code of a code page, and XTS (R374, R375). -/

namespace Sys2Proof.Machine

/-! ### GF(2^16), by x^16 + x^12 + x^3 + x + 1 (R295) -/

/-- Multiplication by α. -/
def sax (a : Nat) : Nat := if a < 2 ^ 15 then 2 * a else (2 * a) % 2 ^ 16 ^^^ 0x100B

/-- The product over the low n bits of b. -/
def smulN : Nat → Nat → Nat → Nat
  | 0, _, _ => 0
  | n + 1, a, b => (if b % 2 = 1 then a else 0) ^^^ smulN n (sax a) (b / 2)

/-- The product of two symbols. -/
def smul (a b : Nat) : Nat := smulN 16 a b

/-- α to a power. -/
def spow : Nat → Nat
  | 0 => 1
  | n + 1 => sax (spow n)

/-- The inverse a^(2^16 - 2), 0 for 0. -/
def sinv (a : Nat) : Nat :=
  ((List.range 15).foldl (fun (p : Nat × Nat) _ =>
    let q := smul p.1 p.1
    (q, smul p.2 q)) (a, 1)).2

/-! ### Polynomials, lowest coefficient first -/

/-- The product with x + r. -/
def pmulLin (p : List Nat) (r : Nat) : List Nat := List.zipWith (· ^^^ ·) (0 :: p) (p.map (smul r) ++ [0])

/-- The generator polynomial (x - α^0)(x - α^1) … (x - α^7) (R295). -/
def genPoly : List Nat := (List.range 8).foldl (fun p j => pmulLin p (spow j)) [1]

/-- One step of division by the generator: the remainder of x * r + c. -/
def remStep (r : List Nat) (c : Nat) : List Nat :=
  List.zipWith (· ^^^ ·) (c :: r.take 7) (genPoly.map (smul (r.getD 7 0)))

/-- The remainder of a polynomial given from its highest coefficient. -/
def remGen (syms : List Nat) : List Nat := syms.foldl remStep (List.replicate 8 0)

/-- A remainder divided by x, modulo the generator. -/
def divX (r : List Nat) : List Nat :=
  let c := smul (r.getD 0 0) (sinv (genPoly.getD 0 0))
  List.zipWith (· ^^^ ·) (r.drop 1 ++ [0]) ((genPoly.drop 1).map (smul c))

/-! ### Codewords -/

/-- The virtual symbols 40 to 42 of a DDA (Table 12.1). -/
def virtSyms (dda : Nat) : List Nat := [bits dda 6 16, bits dda 22 16, bits dda 38 5]

/-- Symbols 0 to 31 of a line's ciphertext: bytes 2m and 2m + 1 (Table 12.1). -/
def lineSyms (l : Line) : List Nat := (List.range 32).map fun m => bits l.toNat (16 * m) 16

/-- The check symbols 32 to 39, which make the 43 symbols a multiple of the generator (R295): symbol i is the
coefficient of x^(42 - i). -/
def checkSyms (l : Line) (dda : Nat) : List Nat :=
  (divX (divX (divX (remGen (lineSyms l ++ List.replicate 8 0 ++ virtSyms dda))))).reverse

/-- What a status adds to each of the check symbols: the poison pattern Π or the mark pattern Φ (R296). -/
def pattern : LSt → Nat
  | .good => 0
  | .poison => 0x5AA5
  | .marked => 0xC33C

/-- The 40 symbols that the ten devices hold of a line (R294, R296): 640 bits. -/
def storedSyms (l : Line) (st : LSt) (dda : Nat) : List Nat := lineSyms l ++ (checkSyms l dda).map (· ^^^ pattern st)

/-- The 64 bits of device d: bit 4t + k is DQ k at beat t (R294). -/
def devBits (syms : List Nat) (d : Nat) : Nat :=
  ((List.range 4).map fun s => syms.getD (4 * d + s) 0 * 2 ^ (16 * s)).foldl (· + ·) 0

/-- DQ k of device d at a beat of the burst. -/
def dqBit (syms : List Nat) (d beat k : Nat) : Bool := (devBits syms d).testBit (4 * beat + k)

/-- The four symbols of a device, as an error pattern over the 43 (Table 12.1). -/
def devSyms (d pat : Nat) : List Nat :=
  (List.range 43).map fun i => if i / 4 = d then bits pat (16 * (i % 4)) 16 else 0

/-- A status as a pattern over the 43 symbols. -/
def patSyms (st : LSt) : List Nat := (List.range 43).map fun i => if 32 ≤ i ∧ i < 40 then pattern st else 0

/-- The syndrome: the word's values at α^0 to α^7. -/
def syndrome (syms : List Nat) : List Nat :=
  (List.range 8).map fun j => syms.foldl (fun a c => smul a (spow j) ^^^ c) 0

/-! ### Decoding (Table 12.2) -/

/-- Outcomes of Table 12.2. -/
inductive Dec where
  | good | corrected (dev : Nat) | poisoned | marked | uncorr
deriving DecidableEq, Repr

/-- The locators of device c's four symbols. -/
def devLocs (c : Nat) : List Nat := (List.range 4).map fun l => spow (42 - (4 * c + l))

/-- A syndrome lies in E(c): it obeys the recurrence of the device's locators (R296). -/
def inE (s : List Nat) (c : Nat) : Bool :=
  let p := (devLocs c).foldl pmulLin [1]
  (List.range 4).all fun j => ((List.range 5).map fun k => smul (p.getD k 0) (s.getD (j + k) 0)).foldl (· ^^^ ·) 0 == 0

/-- A syndrome is 0 or lies in some E(c). -/
def isNear (s : List Nat) : Bool := (List.range 10).any (inE s ·)

/-- Two words of symbols, added. -/
def addSyms (a b : List Nat) : List Nat := List.zipWith (· ^^^ ·) a b

/-- The outcome of a syndrome (Table 12.2): the first row that matches. -/
def outcome (s : List Nat) : Dec :=
  if s.all (· == 0) then .good
  else match (List.range 10).find? (inE s ·) with
    | some c => .corrected c
    | none =>
      if isNear (addSyms s (syndrome (patSyms .poison))) then .poisoned
      else if isNear (addSyms s (syndrome (patSyms .marked))) then .marked
      else .uncorr

/-- The value of one of a device's symbol errors from the syndrome: interpolation over its locators (R296). -/
def errValue (s : List Nat) (c l : Nat) : Nat :=
  let xs := devLocs c
  let x := xs.getD l 0
  let others := xs.eraseIdx l
  let p := others.foldl pmulLin [1]
  let d := others.foldl (fun a y => smul a (x ^^^ y)) 1
  smul (((List.range 4).map fun k => smul (p.getD k 0) (s.getD k 0)).foldl (· ^^^ ·) 0) (sinv d)

/-- A read of the 40 stored symbols of a DDA: the outcome and the symbols, a single device's repaired. -/
def readSyms (syms : List Nat) (dda : Nat) : Dec × List Nat :=
  let s := syndrome (syms ++ virtSyms dda)
  match outcome s with
  | .corrected c => (.corrected c, (List.range 40).map fun i =>
      syms.getD i 0 ^^^ (if i / 4 = c then errValue s c (i % 4) else 0))
  | d => (d, syms)

/-! ### Page code (R298) -/

/-- Multiplication by 2 in GF(2^8) with polynomial 0x11D. -/
def pgx (a : Nat) : Nat := if a < 128 then 2 * a else (2 * a) % 256 ^^^ 0x1D

/-- The sentinel line, whose byte k is 0xA5 xor k. -/
def sentinelLine : Nat := (List.range 64).foldl (fun v k => v + (0xA5 ^^^ k) * 2 ^ (8 * k)) 0

/-- A stored line as it enters the page code. -/
def pageLine (l : Nat) (st : LSt) : Nat := if st = .poison then sentinelLine else l

/-- Page code P: the exclusive or of the 64 lines. -/
def pageP (ls : List Nat) : Nat := ls.foldl (· ^^^ ·) 0

/-- Page code Q: in byte k the sum of g^i times byte k of line i, with g = 2. -/
def pageQ (ls : List Nat) : Nat :=
  (ls.foldr (fun l acc => (List.range 64).map fun k => bits l (8 * k) 8 ^^^ pgx (acc.getD k 0)) (List.replicate 64 0)).foldr
    (fun b v => b + 256 * v) 0

/-! ### XTS-AES-256 (R374) -/

/-- Multiplication by x in GF(2^128) of XTS. -/
def xtsx (t : Nat) : Nat := if t < 2 ^ 127 then 2 * t else (2 * t) % 2 ^ 128 ^^^ 0x87

/-- n bytes of a number, least significant first. -/
def leBytes (n v : Nat) : List Nat := (List.range n).map fun k => bits v (8 * k) 8

/-- A number from bytes, least significant first. -/
def leNat (l : List Nat) : Nat := l.foldr (fun b v => b % 256 + 256 * v) 0

/-- XTS encryption of a 64 B line under a 512-bit key, whose low half is the data key, with a 128-bit tweak. -/
def xtsLine (key tweak : Nat) (l : Line) : Line :=
  let k1 := roundKeys (leBytes 32 key)
  let t0 := leNat (aesBlock (roundKeys (leBytes 32 (key / 2 ^ 256))) (leBytes 16 tweak))
  let ts := [t0, xtsx t0, xtsx (xtsx t0), xtsx (xtsx (xtsx t0))]
  let blk := fun (j : Nat) =>
    let t := leBytes 16 (ts.getD j 0)
    leNat (xorBytes (aesBlock k1 (xorBytes (leBytes 16 (bits l.toNat (128 * j) 128)) t)) t)
  BitVec.ofNat 512 (((List.range 4).map fun j => blk j * 2 ^ (128 * j)).foldl (· + ·) 0)

end Sys2Proof.Machine
end

