-- ==== Sys2Proof/Machine/MemOps.lean ====
section
/-! DEFINITION. The shared operations below the three entrances: float charges (R59 to R62), the metadata
journal (R41), objects, windows and frames (R165 to R182), stored lines and the front cache (R217 to
R236). -/

namespace Sys2Proof.Machine

/-! ### Float charges -/

/-- From step 1 of a drain (R24, Table 03.4). -/
def State.draining (s : State) : Bool := s.fl .DRAINING

/-- R62: n further pages for domain d pass the limit and the domain's share, and no drain has begun
(R77). -/
def State.canCharge (s : State) (d n : Nat) : Bool :=
  n == 0 || (!s.draining && decide (s.rd .FLOAT_PAGES + n ≤ s.rd .FLOAT_LIMIT)
    && decide (s.rdi .CHARGE d + n ≤ s.rdi .SHARE d))

/-- R62 for one step that charges n pages to domain d and m pages to domain 0: both are admitted or neither. -/
def State.canCharge2 (s : State) (d n m : Nat) : Bool :=
  if d = 0 then s.canCharge 0 (n + m)
  else s.canCharge d n && s.canCharge 0 m && (n + m == 0 || decide (s.rd .FLOAT_PAGES + (n + m) ≤ s.rd .FLOAT_LIMIT))

/-- Count one charged page for domain d at the end of the charge order (R59, R22). -/
def State.chargeKey (s : State) (d : Nat) (k : Key) : State :=
  let s := (s.wr .FLOAT_PAGES (s.rd .FLOAT_PAGES + 1)).wri .CHARGE d (s.rdi .CHARGE d + 1)
  { s with stl := { s.stl with chq := s.stl.chq ++ [k] } }

/-- Release one charged page of domain d (R61). -/
def State.releaseKey (s : State) (d : Nat) (k : Key) : State :=
  let s := (s.wr .FLOAT_PAGES (s.rd .FLOAT_PAGES - 1)).wri .CHARGE d (s.rdi .CHARGE d - 1)
  { s with stl := { s.stl with chq := s.stl.chq.filter (· != k) } }

/-! ### Places in DRAM and DRAM requests -/

/-- The first pool frame (R165). -/
def poolBase : Nat := 638976

/-- The sizes in MiB of the parts of the metadata region, in the order of Table 07.1. -/
def partMiB : List Nat := [1024, 256, 32768, 4096, 1024, 256, 64, 64, 64, 320]

/-- The DDA of part n of the metadata region: the parts lie in the table's order (log entry 23). -/
def partBase (n : Nat) : Nat := (partMiB.take n).foldl (· + ·) 0 * 2 ^ 20

/-- The page-code frame of a pool frame n when the pool ends at frame `pend` = F - A (R165). -/
def pcFrame (pend n : Nat) : Nat := pend + (n - poolBase) / 32

/-- The byte of the page-code slot of frame n within its page-code frame (R165). -/
def pcSlot (n : Nat) : Nat := 2048 * ((n - poolBase) % 32)

/-- The first of the two page-code lines of code page k of frame n (R165, R298). -/
def pcLa (pend n k : Nat) : Nat := 1024 * pcFrame pend n + pcSlot n / 64 + 2 * k

/-- The code page, by frame and number, whose page code line la of the page-code area holds (R165, R298). -/
def pcOwner (pend la : Nat) : Key := (poolBase + 32 * (la / 1024 - pend) + la % 1024 / 32, la % 32 / 2)

/-- Service classes (Table 00.3): settle-critical and mirror apply, latency, bulk, background. -/
def sc0 : Nat := 0
/-- Latency. -/
def sc1 : Nat := 1
/-- Bulk. -/
def sc2 : Nat := 2
/-- Background. -/
def sc3 : Nat := 3

/-- A source asks the DRAM controller for n lines from la on (R251, R252); from step 1 of a drain every request
carries SC0 (R230, R256). The data have their effect in the command that asks, in the order that the source's hazard
protocol gives (R18, log entry 15). -/
def State.dreq (s : State) (la n : Nat) (wr : Bool) (tag : DTag) (cls : Nat) : State :=
  { s with drc := { s.drc with fabric := s.drc.fabric ++ [⟨la, n, wr, tag, if s.draining then sc0 else cls, 0, false⟩] } }

/-! ### Metadata journal -/

/-- The metadata after one journalled change. -/
def JOp.apply (m : MetaData) : JOp → MetaData
  | .obj id (some o) => { m with ledger := mput m.ledger (id, 0) o }
  | .obj id none => { m with ledger := mdel m.ledger (id, 0) }
  | .map ix (some e) => { m with fmap := mput m.fmap (ix, 0) e }
  | .map ix none => { m with fmap := mdel m.fmap (ix, 0) }
  | .win k (some w) => { m with wins := mput m.wins k w }
  | .win k none => { m with wins := mdel m.wins k }
  | .idPtr n => { m with idPtr := n }
  | .ssnEnd n => { m with ssnEnd := n }
  | .roles b => { m with roles := some b }
  | .tookOver b => { m with tookOver := b }
  | .extents l => { m with extents := l }

/-- The key of journal page p in the charge order. -/
def jKey (p : Nat) : Key := (2 ^ 30, p)

/-- The key of solo-map page p in the charge order. -/
def soloKey (p : Nat) : Key := (2 ^ 30 + 1, p)

/-- Journal entries that admitted metadata commands hold (R143). -/
def State.jHeld (s : State) : Nat := (s.cmd.cmds.filter (·.jr)).length

/-- The journal page of the next entry past the held ones: 64 entries per 4 KiB page (log entry 9). -/
def State.jPage (s : State) : Nat := (s.jr.log.length + s.jHeld) / 64

/-- The journal pages that n entries past the held ones would newly charge. -/
def State.jNew (s : State) (n : Nat) : List Nat :=
  let a := s.jr.log.length + s.jHeld
  if n = 0 then []
  else ((List.range ((a + n - 1) / 64 + 1 - a / 64)).map (a / 64 + ·)).filter fun p => !s.jr.charged.contains p

/-- R41: n further journal entries lie in charged pages, or the charges of the others would be admitted together. -/
def State.canJournalN (s : State) (n : Nat) : Bool := s.canCharge 0 (s.jNew n).length

/-- R41: one further journal entry. -/
def State.canJournal (s : State) : Bool := s.canJournalN 1

/-- Charge a journal page to domain 0 unless it is charged (R41, Table 03.1). -/
def State.chargeJPage (s : State) (p : Nat) : State :=
  if s.jr.charged.contains p then s
  else { s.chargeKey 0 (jKey p) with jr := { s.jr with charged := s.jr.charged ++ [p] } }

/-- Write one journal entry, at SC0 (R123); its page is charged (R41, Table 03.1). -/
def State.journal (s : State) (ops : List JOp) : State :=
  let s := (s.chargeJPage s.jPage).dreq (partBase 4 / 64 + s.jr.log.length % 2 ^ 24) 1 true .tpe sc0
  { s with md := ops.foldl JOp.apply s.md, jr := { s.jr with log := s.jr.log ++ [ops] } }

/-- The entries of the longest prefix of the journal whose pages are all settled (R41). -/
def Journal.settled (j : Journal) : Nat := j.charged.foldl (fun n p => min n (64 * p)) j.log.length

/-- The metadata after that prefix. -/
def Journal.prefixMeta (j : Journal) : MetaData :=
  (j.log.take j.settled).foldl (fun m ops => ops.foldl JOp.apply m) j.base

/-! ### Objects -/

/-- ATTR fields (Table 06.8). -/
def Obj.persist (o : Obj) : Bool := bit o.attr 0
/-- ATTR.MIRROR. -/
def Obj.mirror (o : Obj) : Bool := bit o.attr 1
/-- ATTR.LOWEST_TIER. -/
def Obj.lowest (o : Obj) : Nat := bits o.attr 2 2
/-- ATTR.ACCESS_MODE. -/
def Obj.access (o : Obj) : Nat := bits o.attr 4 2
/-- ATTR.KEY_SLOT. -/
def Obj.slot (o : Obj) : Nat := bits o.attr 6 12
/-- Tier pages of the object's run (R169). -/
def Obj.pages (o : Obj) : Nat := o.size / 65536

/-- The ledger entry of an object ID, own or replica. -/
def State.obj? (s : State) (id : Nat) : Option Obj := mget s.md.ledger (id, 0)

/-- The ledger entry of an own object: requests, commands and RDMA never find a replica (R167). -/
def State.own? (s : State) (id : Nat) : Option Obj :=
  (s.obj? id).bind fun o => if o.kind = 1 then some o else none

/-- R141: domain d may read the object. -/
def Obj.canRead (o : Obj) (d : Nat) : Bool :=
  d == 0 || o.owner == d || o.access == 1 || o.access == 2

/-- R141: domain d may write the object. -/
def Obj.canWrite (o : Obj) (d : Nat) : Bool := d == 0 || o.owner == d || o.access == 2

/-- A tier page never written (Table 07.5 ZERO). -/
def zeroPage : MapE := ⟨.zero, false, 0, 0, 0, 0, 0, 0, 0⟩

/-- The frame-map entry at an index. -/
def State.mapE (s : State) (ix : Nat) : MapE := (mget s.md.fmap (ix, 0)).getD zeroPage

/-- Change a frame-map entry in place: residency and CP_STATE are not journalled (log entry 9). -/
def State.setMap (s : State) (ix : Nat) (e : MapE) : State :=
  { s with md := { s.md with fmap := mput s.md.fmap (ix, 0) e } }

/-- CP_STATE of code page k (Table 07.4). -/
def MapE.cpSt (e : MapE) (k : Nat) : Nat := bits e.cp (2 * k) 2

/-- The entry with CP_STATE of code page k set. -/
def MapE.setCp (e : MapE) (k v : Nat) : MapE := { e with cp := setBits e.cp (2 * k) 2 v }

/-- Every CP_STATE is 0b00 or 0b11 (R180). -/
def MapE.clean (e : MapE) : Bool := (List.range 16).all fun k => e.cpSt k == 0 || e.cpSt k == 3

/-! ### Frames -/

/-- The lowest number from c on that no entry of a rising table has as key. -/
def lowestFree {β : Type} (c : Nat) : SMap β → Nat
  | [] => c
  | (k, _) :: r => if k.1 < c then lowestFree c r else if k.1 = c then lowestFree (c + 1) r else c

/-- The frame-table entry of a frame in use. -/
def State.frame? (s : State) (f : Nat) : Option Frame := mget s.tpe.frames (f, 0)

/-- Change a frame-table entry. -/
def State.setFrame (s : State) (f : Nat) (e : Frame) : State :=
  { s with tpe := { s.tpe with frames := mput s.tpe.frames (f, 0) e } }

/-- OVER_CEIL of a domain (R178). -/
def State.ceilFlag (s : State) (d : Nat) : State :=
  s.setfi .OVER_CEIL d (decide (s.rdi .CEIL_FRAMES d < s.rdi .TALLY d))

/-- The frame the next request takes: the lowest free one (log entry 7). -/
def State.nextFrame (s : State) : Nat := lowestFree poolBase s.tpe.frames

/-- NEXT of a free frame (R176): the free list runs in frame order (log entry 7). -/
def State.frameNext (s : State) (f : Nat) : Nat := lowestFree (f + 1) s.tpe.frames

/-- Take the next free frame for a page: tallied to its ACCT (R176, R177). -/
def State.takeFrame (s : State) (e : Frame) : State :=
  let f := s.nextFrame
  let s := s.wr .FREE_FRAMES (s.rd .FREE_FRAMES - 1)
  ((s.wri .TALLY e.acct (s.rdi .TALLY e.acct + 1)).ceilFlag e.acct).setFrame f e

/-- The sum of all floors. -/
def State.floorSum (s : State) : Nat := ((List.range 256).map (s.rdi .FLOOR_FRAMES ·)).foldl (· + ·) 0

/-- Recompute the effective floors (R178). -/
def State.floors (s : State) : State :=
  let sum := s.floorSum
  let room := s.rd .POOL_FRAMES - s.rd .FREE_LOW
  let eff := fun d : Nat =>
    let x := s.rdi .FLOOR_FRAMES d
    if s.rd .POOL_FRAMES ≤ s.rd .FREE_LOW then 0 else if sum ≤ room then x else x * room / sum
  let scaled := (List.range 256).any fun d => decide (eff d < s.rdi .FLOOR_FRAMES d)
  let was := s.fl .FLOOR_SCALED
  let s := (s.each (List.range 256) fun s d => s.wri .FLOOR_EFF d (eff d)).setf .FLOOR_SCALED scaled
  if scaled && !was then (s.setf .FLOOR_CLAMP true).record clsWarn 0 178 (item 6 0xB0038) else s

/-- USE of a retired frame (Table 07.7). -/
def useRetired : Nat := 4

/-- The remap entry of a channel is freed (R308). -/
def State.dropRemap (s : State) (c e : Nat) : State :=
  let i := 32 * c + e
  let s := ((s.setfi .VALID i false).wri .LA i 0).wri .INT_REMAP_DEVICE i 0
  let s := s.setfi .SPPR_PEND i false
  s.wri .REMAP_USED c ((List.range 32).filter fun x => s.fli .VALID (32 * c + x)).length

/-- The remap entries of a retired frame's lines are freed (R308). -/
def State.freeRemap (s : State) (f : Nat) : State :=
  s.each (List.range 384) fun s i => s.when (s.fli .VALID i && s.rdi .LA i / 1024 == f) (·.dropRemap (i / 32) (i % 32))

/-- A frame's lines are dropped. -/
def State.dropLines (s : State) (f : Nat) : State := { s with dram := mfilter s.dram fun k _ => k.1 != f }

/-- Give a frame back to the free list; a free frame ends a dry spell (R183). A retire-pending frame is
retired instead and the pool shrinks (R309, R178). -/
def State.freeFrame (s : State) (f : Nat) : State :=
  match s.frame? f with
  | none => s
  | some e =>
    let s := s.dropLines f
    let s := { s with tpe := { s.tpe with frames := mdel s.tpe.frames (f, 0) }
                      int := { s.int with recode := s.int.recode.filter (·.1 != f), pcLost := s.int.pcLost.filter (·.1 != f)
                                          verify := s.int.verify.filter (· / 1024 != f), ladders := s.int.ladders.filter fun l => l.la / 1024 != f } }
    let s := s.wr .RECODE_LEFT s.int.recode.length
    let s := (s.wri .TALLY e.acct (s.rdi .TALLY e.acct - 1)).ceilFlag e.acct
    if s.int.retire.contains f then
      let s := { s.setFrame f ⟨0, 0, 0, 0, useRetired, false, 0⟩ with int := { s.int with retire := without s.int.retire f } }
      let s := s.freeRemap f
      ((s.wr .RETIRE_PEND s.int.retire.length).wr .POOL_FRAMES (s.rd .POOL_FRAMES - 1)).floors
    else (s.wr .FREE_FRAMES (s.rd .FREE_FRAMES + 1)).setf .POOL_DRY false

/-- The charging domain of code page k of a frame (Table 07.7 CHG_DOM). -/
def Frame.chgDom (e : Frame) (k : Nat) : Nat := bits e.chg (8 * k) 8

/-- Charge code page k of the page at map index ix to domain d (R59). -/
def State.chargeCp (s : State) (ix k d : Nat) : State :=
  let m := s.mapE ix
  let s := (s.setMap ix (m.setCp k 1)).chargeKey d (m.frame, k)
  match s.frame? m.frame with
  | some e => s.setFrame m.frame { e with chg := setBits e.chg (8 * k) 8 d }
  | none => s

/-- Release the charge of code page k of the page at ix, back to the charging domain, leaving CP_STATE
v (R61). -/
def State.releaseCp (s : State) (ix k v : Nat) : State :=
  let m := s.mapE ix
  if m.cpSt k = 1 ∨ m.cpSt k = 2 then
    let d := ((s.frame? m.frame).map fun e => e.chgDom k).getD 0
    (s.setMap ix (m.setCp k v)).releaseKey d (m.frame, k)
  else s

/-- Release every charge of the page at ix (R61). -/
def State.releasePage (s : State) (ix : Nat) : State :=
  s.each (List.range 16) fun s k => s.releaseCp ix k 0

/-! ### Stored lines -/

/-- A line of zeros stored good. -/
def zeroLine : DLine := ⟨0, .good⟩

/-- The stored DRAM line at line address la: frame la / 1024 (log entry 5). -/
def State.dline (s : State) (la : Nat) : DLine := (mget s.dram (la / 1024, la % 1024)).getD zeroLine

/-- Store a DRAM line; a good zero line is not listed. -/
def State.setDline (s : State) (la : Nat) (d : DLine) : State :=
  let k : Key := (la / 1024, la % 1024)
  { s with dram := if d = zeroLine then mdel s.dram k else mput s.dram k d }

/-- Write one line as a DRAM request of a source. -/
def State.writeDram (s : State) (la : Nat) (d : DLine) (tag : DTag) (cls : Nat) : State :=
  (s.setDline la d).dreq la 1 true tag cls

/-- The listed lines of code page k of frame f, by line number within the code page. -/
def State.cpLines (s : State) (f k : Nat) : List (Nat × DLine) :=
  (s.dram.filter fun e => e.1.1 = f ∧ e.1.2 / 64 = k).map fun e => (e.1.2 % 64, e.2)

/-- The lines of code page k of frame f are dropped. -/
def State.dropCp (s : State) (f k : Nat) : State :=
  { s with dram := mfilter s.dram fun e _ => !(e.1 == f && e.2 / 64 == k) }

/-- Write a code page of a frame from listed lines. -/
def State.putCp (s : State) (f k : Nat) (ls : List (Nat × DLine)) : State :=
  (s.dropCp f k).each ls fun s l => s.setDline (1024 * f + 64 * k + l.1 % 64) l.2

/-- Merge the enabled bytes of new data into a line. -/
def mergeLine (old new : Line) (m : Mask) : Line :=
  (List.range 64).foldl (fun (l : Line) (k : Nat) =>
    if m.getLsbD k then
      (l &&& ~~~((255#512) <<< (8 * k))) ||| (new &&& ((255#512) <<< (8 * k)))
    else l) old

/-- The mask that enables all 64 bytes. -/
def fullMask : Mask := BitVec.allOnes 64

/-! ### Front cache -/

/-- The XOR fold of R218. -/
def foldLa (la : Nat) : Nat :=
  (List.range 9).foldl (fun h i => h ^^^ bits la (4 * i) 4) (bits la 36 1)

/-- The n-th set bit of a 16-bit mask, counting from 0. -/
def nthSet (m n : Nat) : Nat := ((List.range 16).filter (m.testBit ·)).getD n 0

/-- The slice of a line (R218). -/
def State.sliceOf (s : State) (la : Nat) : Nat :=
  let en := s.rd .SLICE_EN
  let h := foldLa la
  if bit en h then h else nthSet en (bits la 28 8 % max 1 (popCount en 16))

/-- The set of a line (R218). -/
def setOf (la : Nat) : Nat := bits la 4 12 ^^^ bits la 16 12

/-- The key of a way: slice * 4096 + set, and the way. -/
def State.setKey (s : State) (la : Nat) : Nat := 4096 * s.sliceOf la + setOf la

/-- The front-cache line that holds la, with its place. -/
def State.cline? (s : State) (la : Nat) : Option (Key × CLine) :=
  s.fch.lines.find? fun e => e.2.la == la

/-- Put a line into a way. -/
def State.putWay (s : State) (k : Key) (c : CLine) : State :=
  { s with fch := { s.fch with lines := mput s.fch.lines k c } }

/-- Empty a way. -/
def State.dropWay (s : State) (k : Key) : State :=
  { s with fch := { s.fch with lines := mdel s.fch.lines k } }

/-- What a front-cache line stores when it is written back; poison goes down as Π (R96). -/
def CLine.stored (c : CLine) : DLine := ⟨c.data, if c.poison then .poison else .good⟩

/-- Write a dirty line back to DRAM within the step, with the class of the snooping source or request (R230). -/
def State.writeBack (s : State) (c : CLine) (cls : Nat) : State :=
  if c.dirty then s.writeDram c.la c.stored .fch cls else s

/-- The lock entries that are enabled and cover tier page tp of object obj (R231). -/
def State.lockOf (s : State) (obj tp : Nat) : List Nat :=
  (List.range 16).filter fun k => s.fli .LOCK_EN k && s.rdi .OBJ_ID k == obj
    && decide (s.rdi .TP_FIRST k ≤ tp) && decide (tp ≤ s.rdi .TP_LAST k)

/-- The lockable ways named by some lock entries. -/
def State.waysOf (s : State) (ks : List Nat) : Nat :=
  ks.foldl (fun m k => m ||| (s.rdi .WAYS k * 2 ^ 16)) 0

/-- Ways of slice sl that are powered, in use and not disabled (R219, R237, R239). -/
def State.liveWays (s : State) (sl : Nat) : List Nat :=
  (List.range 24).filter fun w => bit (s.rdi .PG_STATE sl) (w / 6) && !bit (s.rdi .PG_BUSY sl) (w / 6)
    && !bit (s.rdi .WAY_DIS sl) w

/-- The candidate ways for a line of a tier page (R219, R231). -/
def State.candidates (s : State) (sl obj tp : Nat) : List Nat :=
  let live := s.liveWays sl
  let all := s.waysOf ((List.range 16).filter fun k => s.fli .LOCK_EN k)
  let mine := s.waysOf (s.lockOf obj tp)
  let a := live.filter fun w => if mine = 0 then !bit all w else bit mine w
  if a = [] then live.filter fun w => !bit all w else a

/-- The lowest free number below lim among the miss registers of a slice. -/
def State.freeMr (s : State) (sl : Nat) : Option Nat :=
  (List.range 128).find? fun n => (mget s.fch.mrs (sl, n)).isNone

/-- MR_PEAK follows MR_USED (R243). -/
def State.mrPeak (s : State) (sl : Nat) : State :=
  s.wri .MR_PEAK sl (max (s.rdi .MR_PEAK sl) (s.fch.mrs.filter fun e => e.1.1 = sl).length)

/-- Read a dirty victim out of its way into a miss register in EVICT (Table 09.2), with the class of the request
whose miss chose it (R230); with every register in use its write enters the write queue at once (log entry 10). -/
def State.evictTo (s : State) (sl : Nat) (c : CLine) (cls : Nat) : State :=
  if !c.dirty then s
  else match s.freeMr sl with
    | some n =>
      ({ s with fch := { s.fch with mrs := mput s.fch.mrs (sl, n) ⟨c.la, c.obj, c.tp, .evict, c.stored, [], cls⟩ } }).mrPeak sl
    | none => s.writeBack c cls

/-- Install a line in a way of its set: an invalid candidate way first, else the pseudo-LRU victim (a
free value, log entry 6), whose dirty line leaves through a miss register (R219, R221, R225); `cls` is the class of
the request that missed (R230). -/
def State.install (s : State) (c : CLine) (cls : Nat) : State :=
  let sl := s.sliceOf c.la
  let set := 4096 * sl + setOf c.la
  let ws := s.candidates sl c.obj c.tp
  match ws.find? fun w => (mget s.fch.lines (set, w)).isNone with
  | some w => s.putWay (set, w) c
  | none =>
    if ws = [] then s.writeBack c cls
    else
      let w := ws.getD (s.freeVal % ws.length) 0
      let s := s.freeNext
      match mget s.fch.lines (set, w) with
      | some v => ((s.dropWay (set, w)).evictTo sl v cls).putWay (set, w) c
      | none => s.putWay (set, w) c

/-- Who asked gives a request's service class (R253): command data SC2 (R123); accesses of hosts and RDMA SC1 (log
entry 16). -/
def Who.cls : Who → Nat
  | .cmd _ => sc2
  | _ => sc1

/-- The class of a miss register's fill: that of its first request. -/
def MissReg.fillCls (m : MissReg) : Nat := (m.reqs.head?.map (·.who.cls)).getD sc1

/-- Let a pending write-back of la enter the write queue (R226), with its class (R230); the fill of attached requests
follows. -/
def State.flushEvict (s : State) (la : Nat) : State :=
  match s.fch.mrs.find? fun e => e.2.la == la && e.2.st == .evict with
  | some (k, m) =>
    let s := s.writeDram la m.out .fch m.cls
    if m.reqs = [] then { s with fch := { s.fch with mrs := mdel s.fch.mrs k } }
    else { s with fch := { s.fch with mrs := mput s.fch.mrs k { m with st := .fill } } }.dreq la 1 false .fch m.fillCls
  | none => s

/-- The value of a line as the front cache defines it (R17): the cached line, else the line being
written back, else DRAM. -/
def State.lineNow (s : State) (la : Nat) : DLine :=
  match s.cline? la with
  | some (_, c) => c.stored
  | none =>
    match s.fch.mrs.find? fun e => e.2.la == la && e.2.st == .evict with
    | some (_, m) => m.out
    | none => s.dline la

/-- Bring la into the front cache within the step, for a command or RDMA access of a class (log entry 11). A miss
register that fills the same line finds it resident then. -/
def State.fillNow (s : State) (la obj tp cls : Nat) : State :=
  match s.cline? la with
  | some _ => s
  | none =>
    let s := (s.flushEvict la).dreq la 1 false .fch cls
    let d := s.dline la
    s.install ⟨la, obj, tp, false, d.st != .good, d.data⟩ cls

/-- Merge a store into a resident line (R221): a full line without poison clears the poison bit, any
other store to a poisoned line leaves it poisoned. -/
def CLine.store (c : CLine) (data : Line) (m : Mask) (poison : Bool) : CLine :=
  { c with data := mergeLine c.data data m, dirty := true
           poison := poison || (c.poison && m != fullMask) }

/-- Mark a page's frame referenced (R179). -/
def State.touch (s : State) (f : Nat) : State :=
  match s.frame? f with
  | some e => s.setFrame f { e with ref := true }
  | none => s

/-- A store that reaches a line of a SETTLING code page re-dirties it: the page stays charged at its old
charge age (R22, R224). -/
def State.redirty (s : State) (ix k : Nat) : State :=
  let m := s.mapE ix
  if m.cpSt k = 2 then s.setMap ix (m.setCp k 1) else s

/-- Requests are attached to miss registers of a frame, or wait for one: a range invalidate ends after their fills
(R225, R229). -/
def State.fillsOn (s : State) (f : Nat) : Bool :=
  s.fch.mrs.any (fun e => e.2.la / 1024 == f && !e.2.reqs.isEmpty) || s.fch.mq.any fun e => e.la / 1024 == f

/-- A store to code page k of frame f is attached to a miss register or waits for one. -/
def State.storePending (s : State) (f k : Nat) : Bool :=
  s.fch.mrs.any (fun e => e.2.la / 64 == 16 * f + k && e.2.reqs.any (·.wr))
    || s.fch.mq.any fun e => e.la / 64 == 16 * f + k && e.req.wr

/-- Remove every line of a frame from the front cache, writing dirty lines back with the class of the snooping source
(Table 09.1 range invalidate, R230). -/
def State.cleanFrame (s : State) (f cls : Nat) : State :=
  let hit := s.fch.lines.filter fun e => e.2.la / 1024 == f
  let s := s.each hit fun s e => (s.writeBack e.2 cls).dropWay e.1
  let ev := (s.fch.mrs.filter fun e => e.2.la / 1024 == f && e.2.st == .evict).map (·.2.la)
  s.each ev fun s la => s.flushEvict la

/-- Write back the dirty lines of code page k of frame f, which stay resident clean (R224), with the settle's class
(R230). -/
def State.settleSnoop (s : State) (f k cls : Nat) : State :=
  let hit := s.fch.lines.filter fun e => e.2.la / 64 == 16 * f + k
  let s := s.each hit fun s e => (s.writeBack e.2 cls).putWay e.1 { e.2 with dirty := false }
  let ev := (s.fch.mrs.filter fun e => e.2.la / 64 == 16 * f + k && e.2.st == .evict).map (·.2.la)
  s.each ev fun s la => s.flushEvict la

/-! ### Snoop filter -/

/-- Whether a link takes back-invalidates: HDM-DB in 256 B flit mode (R82, R234). -/
def State.hdmDb (s : State) (link : Nat) : Bool := s.fli .HDM_DB link

/-- Links of a mask. -/
def linksOf (m : Nat) : List Nat := (List.range 8).filter (m.testBit ·)

/-- The pseudo line address of line 0 of an LD's settle page (R104). -/
def pageLa (link ld : Nat) : Nat := 2 ^ 40 + ldIx link ld

/-- The message of a snoop: of a settle page, or of 1 or 4 lines (R92). -/
def Snoop.msg (x : Snoop) : Msg :=
  if 2 ^ 40 ≤ x.la then .pageSnoop x.link ((x.la - 2 ^ 40) % 16) else .snoop x.link x.la x.n

/-- A snoop covers a line. -/
def Snoop.covers (x : Snoop) (link la : Nat) : Bool := x.link == link && decide (x.la ≤ la) && decide (la < x.la + x.n)

/-- A snoop for a line is outstanding on a link. -/
def State.snooped (s : State) (link la : Nat) : Bool := s.fch.snoops.any fun x => x.covers link la

/-- Issue one snoop of n lines; at most 512 per link are sent, others wait in order (R92). -/
def State.snoopN (s : State) (link la n : Nat) : State :=
  let sent := decide ((s.fch.snoops.filter fun x => x.link == link && x.sent).length < 512)
  let x : Snoop := ⟨link, la, sent, n, false⟩
  ({ s with fch := { s.fch with snoops := s.fch.snoops ++ [x] } }).when sent (·.send x.msg)

/-- Issue a single-line snoop unless one that covers the line is outstanding (R92). -/
def State.snoop (s : State) (link la : Nat) : State :=
  if s.snooped link la then s else s.snoopN link la 1

/-- The links other than `me` that the filter records for la. -/
def State.others (s : State) (la : Nat) (me : Option Nat) : List Nat :=
  match mget s.fch.sf (la, 0) with
  | some e => (linksOf e.links).filter fun l => some l != me
  | none => []

/-- Remove a link from a filter entry; an empty mask frees the entry (R235). -/
def State.sfDrop (s : State) (link la : Nat) : State :=
  match mget s.fch.sf (la, 0) with
  | none => s
  | some e =>
    let m := setBit e.links link false
    if m = 0 then { s with fch := { s.fch with sf := mdel s.fch.sf (la, 0) } }
    else { s with fch := { s.fch with sf := mput s.fch.sf (la, 0) { e with links := m } } }

/-- Filter entries of the set that la falls in: 16 banks by LA[3:0], 65,536 sets by LA[19:4] (R234; the
set index is a design choice, log entry 12). -/
def sfSet (la : Nat) : Nat := la % 2 ^ 20

/-- Whether a new filter entry for la must first displace one (R236): the least recently used entry of
the full set. -/
def State.sfVictim (s : State) (la : Nat) : Option Nat :=
  if (mget s.fch.sf (la, 0)).isSome then none
  else
    let ks := s.fch.sf.filter fun e => sfSet e.1.1 == sfSet la
    if ks.length < 16 then none
    else (ks.foldl (fun (b : Option (Nat × Nat)) e =>
      match b with
      | none => some (e.1.1, e.2.used)
      | some (x, u) => if e.2.used < u then some (e.1.1, e.2.used) else some (x, u)) none).map (·.1)

/-- Record a link's copy of a line (R235). -/
def State.sfAdd (s : State) (link la : Nat) (excl : Bool) : State :=
  if s.hdmDb link then
    let old := ((mget s.fch.sf (la, 0)).map (·.links)).getD 0
    let e : SfE := ⟨if excl then 2 ^ link else setBit old link true, excl, s.fch.sfClock⟩
    { s with fch := { s.fch with sf := mput s.fch.sf (la, 0) e, sfClock := s.fch.sfClock + 1 } }
  else s

/-- Snoop a recorded line of a range on a link: BISnpInvBlk for its aligned group of 4 lines (R92, R236), BISnpInv
when another line of the group is being snooped already. -/
def State.snoopBlk (s : State) (link la : Nat) : State :=
  let b := la / 4 * 4
  if s.snooped link la then s
  else if (List.range 4).all fun i => !s.snooped link (b + i) then s.snoopN link b 4
  else s.snoopN link la 1

/-- Snoop every host copy of a frame's lines (R92). -/
def State.snoopFrame (s : State) (f : Nat) : State :=
  s.each (s.fch.sf.filter fun e => e.1.1 / 1024 == f) fun s e =>
    s.each (linksOf e.2.links) fun s l => s.snoopBlk l e.1.1

/-! ### Range locks -/

/-- Two locks conflict (R125); a command's own locks never do (R147). -/
def Lock.conflicts (a b : Lock) : Bool :=
  a.uid != b.uid && a.obj == b.obj && decide (a.first ≤ b.last) && decide (b.first ≤ a.last) && (a.excl || b.excl)

/-- The locks entered before a lock. -/
def locksBefore (ls : List Lock) (l : Lock) : List Lock := ls.takeWhile (· != l)

/-- Every lock of a command is granted: none entered before it conflicts (R126). -/
def State.granted (s : State) (uid : Nat) : Bool :=
  (s.cmd.locks.filter (·.uid == uid)).all fun l => !((locksBefore s.cmd.locks l).any l.conflicts)

/-! ### Host port occupancy (R97 to R100) -/

/-- The domain of an LD (R15, R87). -/
def State.ldDom (s : State) (k j : Nat) : Nat := s.rdi .PRT_LD_CFG_DOMAIN (ldIx k j)

/-- Host writes of an LD on the bench (R98). -/
def State.benchedOf (s : State) (k j : Nat) : Nat :=
  (s.waits.filter fun w => w.benched && match w.ent with
    | .host r => r.link == k && r.ld == j
    | _ => false).length

/-- A host request of link k, a write or a read. -/
def HostReq.half (r : HostReq) (k : Nat) (wr : Bool) : Bool := r.link == k && r.wr == wr

/-- Requests of a link that hold an entry of one half of its tracker (R97): waiting and not on the bench, attached to
miss registers, in a miss queue, or a settle-page store whose completion is withheld. -/
def State.held (s : State) (k : Nat) (wr : Bool) : Nat :=
  let mine := fun q : Req => match q.who with
    | .host r => r.half k wr
    | _ => false
  (s.waits.filter fun w => !w.benched && match w.ent with
    | .host r => r.half k wr
    | _ => false).length
  + ((s.fch.mrs.map fun e => (e.2.reqs.filter mine).length).foldl (· + ·) 0)
  + (s.fch.mq.filter fun e => mine e.req).length
  + (if wr then (s.fences.filter fun f => match f.src with
      | .page l _ _ => l == k && !f.freed
      | _ => false).length else 0)

/-- Entries of one half of a link's tracker: half of 4,096 or 2,048 (R97). -/
def State.halfTracker (s : State) (k : Nat) : Nat := if s.fli .SPLIT_ACT (portOf k) then 1024 else 2048

/-- DevLoad of a response (R100). -/
def State.devLoad (s : State) (k j : Nat) : Nat :=
  let d := s.ldDom k j
  if s.benchedOf k j ≠ 0 then 3
  else if s.rdi .SHARE d - s.rdi .CHARGE d < s.rdi .DEVLOAD_LOW (portOf k) * 256 then 2
  else if s.halfTracker k ≤ 4 * s.held k true then 1 else 0

/-- Responses of a port under Pn_PERST_N or PORT_OFFLINE are discarded (R86, R107). -/
def State.mute (s : State) (k : Nat) : Bool := bit s.prt.perst (portOf k) || s.fli .PORT_OFFLINE (portOf k)

/-- Complete a write of an LD with the present DevLoad (R100). -/
def State.complete (s : State) (link ld tag : Nat) : State :=
  let v := s.devLoad link ld
  let s := s.wri .DEVLOAD (ldIx link ld) v
  s.when (!s.mute link) (·.send (.cxlDone link ld tag v))

/-- No host copy of a frame's lines is recorded. -/
def State.noCopies (s : State) (f : Nat) : Bool := !(s.fch.sf.any fun e => e.1.1 / 1024 == f)

end Sys2Proof.Machine
end

