-- ==== Sys2Proof/Machine/RdmaOps.lean ====
section
/-! DEFINITION. The remote access engine's shared operations below its packets (14_remote_access.md): contexts,
what is sent, NAKs and the error state. -/

namespace Sys2Proof.Machine

/-- The context of an index, unless it is free. -/
def State.ctx? (s : State) (x : Nat) : Option RCtx := mget s.rae.ctxs (x, 0)

/-- The context of an index when it is ready (R351). -/
def State.ctxReady (s : State) (x : Nat) : Option RCtx := (s.ctx? x).bind fun c => if c.err then none else some c

/-- Store a context. -/
def State.putCtx (s : State) (x : Nat) (c : RCtx) : State :=
  { s with rae := { s.rae with ctxs := mput s.rae.ctxs (x, 0) c } }

/-- Change a context. -/
def State.updCtx (s : State) (x : Nat) (f : RCtx → RCtx) : State :=
  match s.ctx? x with
  | some c => s.putCtx x (f c)
  | none => s

/-- Word i of a context's record (Table 14.3). -/
def RCtx.w (c : RCtx) (i : Nat) : Nat := c.words.getD i 0

/-- DOMAIN. -/
def RCtx.dom (c : RCtx) : Nat := bits (c.w 0) 8 8
/-- PIN. -/
def RCtx.pin (c : RCtx) : Bool := bit (c.w 0) 23
/-- The path MTU in bytes. -/
def RCtx.mtu (c : RCtx) : Nat := 128 * 2 ^ bits (c.w 0) 24 3
/-- RETRY_CNT. -/
def RCtx.retryCnt (c : RCtx) : Nat := bits (c.w 0) 27 3
/-- RNR_RETRY. -/
def RCtx.rnrRetry (c : RCtx) : Nat := bits (c.w 0) 30 3
/-- MAX_RD_ATOMIC. -/
def RCtx.maxRd (c : RCtx) : Nat := bits (c.w 0) 48 5
/-- RELAXED. -/
def RCtx.relaxed (c : RCtx) : Bool := bit (c.w 0) 22
/-- TRIG_EN. -/
def RCtx.trigEn (c : RCtx) : Bool := bit (c.w 3) 52
/-- TRIG_OBJ. -/
def RCtx.trigObj (c : RCtx) : Nat := bits (c.w 2) 32 32
/-- Object offset of the slot TRIG_NEXT. -/
def RCtx.slotOfs (c : RCtx) : Nat := bits (c.w 3) 0 48 + 64 * c.next

/-- CTX_ONCHIP, PARK_PKTS, PARK_BYTES and PINNED follow the contexts (Table 14.11). -/
def State.raeRegs (s : State) : State :=
  let cs := s.rae.ctxs.map (·.2)
  let ps := cs.flatMap fun c => c.parked ++ c.fins
  let s := s.wr .CTX_ONCHIP (cs.filter (·.chip)).length
  let s := (s.wr .PARK_PKTS ps.length).wr .PARK_BYTES ((ps.map fun (p : Pkt) => p.data.length).foldl (· + ·) 0)
  s.wr .RAE_STATUS_PINNED (cs.filter (·.pin)).length

/-- The engine sends a packet on a context, or holds it back while PFC pauses the context's port (R369); from
step 1 of the drain on none is sent (R370). -/
def State.ctxSend (s : State) (x op psn : Nat) (hdr bytes : List Nat) : State :=
  let m : Msg := .rdma x op (psn % 2 ^ 24) hdr bytes
  let port := ((s.ctx? x).map (·.port)).getD 4
  if s.draining then s
  else if s.rae.paused.contains port then { s with rae := { s.rae with held := s.rae.held ++ [(port, m)] } }
  else s.send m

/-- A request ends with a STATUS and DONE_MARK; its slot is then to be written (R368). -/
def TReq.finish (r : TReq) (status mark : Nat) : TReq :=
  if r.st == RqSt.done then r else { r with st := .done, status := status, mark := mark }

/-- A context enters error (R356, R365): parked packets are dropped, its requests complete FLUSHED except
those already ended. -/
def State.ctxError (s : State) (x : Nat) : State :=
  match s.ctxReady x with
  | none => s
  | some c =>
    let s := s.putCtx x { c with
      err := true, blocked := none, parked := [], fins := [], reads := [], msgs := [], rnr := false, rnrAt := none
      placed := [], gone := [], sq := c.sq.map fun (r : TReq) => r.finish 0x44 0 }
    let s := { s with waits := s.waits.filter fun (w : Wait) => match w.ent with
      | .rdma y _ => y != x
      | _ => true }
    ((s.record clsError c.dom 356 (item 0xE x)).setf .CTX_ERR true).raeRegs

/-- ACK syndromes: ACK, RNR NAK with its timer, NAK codes of Table 14.5 in the RoCE encoding. -/
def synSeq : Nat := 0x60
/-- NAK Invalid Request. -/
def synInv : Nat := 0x61
/-- NAK Remote Access Error. -/
def synAcc : Nat := 0x62
/-- NAK Remote Operational Error. -/
def synOp : Nat := 0x63

/-- A NAK; other than for a sequence error the context enters error (R356). -/
def State.ctxNak (s : State) (x psn syn : Nat) : State :=
  let s := s.ctxSend x 0x11 psn [syn] []
  if syn = synSeq then s.count .SEQ_NAK_CNT 0 .RAE_FLAGS_CNT_OVF 0 3 else s.ctxError x

/-- The number by which a requester's own loads and stores wait, above every PSN (log entry 11). -/
def ownPsn : Nat := 2 ^ 24

/-- A page that a context waits for could not be fetched from T3 (R194): a packet is NAKed; a request ends
UNCORRECTABLE; an examination of the trigger list (ownPsn + 1) stops. -/
def State.ctxPageFail (s : State) (x psn : Nat) : State :=
  if psn < ownPsn then s.ctxNak x psn synOp
  else if psn != ownPsn then s.updCtx x fun c => { c with exam := false }
  else s.updCtx x fun c =>
    match c.sq.find? fun (r : TReq) => r.st == RqSt.queued || r.st == RqSt.storing with
    | some q => { c with sq := c.sq.map fun (r : TReq) => if r = q then r.finish 0x30 0 else r }
    | none => c

/-- The newest fence of a context completes: its state is kept and SETTLE_ACK is sent (R362, R363). -/
def State.ctxFence (s : State) (x psn : Nat) (solo : Bool) (mark : Nat) : State :=
  match s.ctxReady x with
  | none => s
  | some c =>
    let s := if (c.fence.map (·.1)) = some psn then s.putCtx x { c with fence := some (psn, b2n solo, mark) } else s
    s.ctxSend x 0xC1 psn [b2n solo, mark] []

end Sys2Proof.Machine
end

