-- ==== Sys2Proof/Machine/MirOps.lean ====
section
/-! DEFINITION. The mirror's shared operations: settlement records (R327 to R330), the solo map (R52),
settle fences (R35 to R40) and the state of the mirror (R338). -/

namespace Sys2Proof.Machine

/-- STATE values of MIR_STATUS. -/
def mirNoTwin : Nat := 0
/-- STATE MIRRORING. -/
def mirMirroring : Nat := 1
/-- STATE SOLO. -/
def mirSolo : Nat := 2
/-- STATE FENCED. -/
def mirFenced : Nat := 3

/-- Frame kinds of Table 13.2. -/
def kAck : Nat := 3
/-- NAK. -/
def kNak : Nat := 4
/-- KEEPALIVE. -/
def kKeep : Nat := 5
/-- DRAIN. -/
def kDrain : Nat := 6
/-- FETCH_REQ. -/
def kFetchReq : Nat := 7
/-- FETCH_RSP. -/
def kFetchRsp : Nat := 8
/-- NO_ROOM. -/
def kNoRoom : Nat := 9
/-- SPDM. -/
def kSpdm : Nat := 10

/-- Records of every kind not yet acknowledged: open, waiting in a send queue, or sent (R330). -/
def State.unacked (s : State) : List MRec := s.mir.opn.map (·.2) ++ s.mir.sendq ++ s.mir.retx

/-- SSN_ACKED: the highest SSN at or below which every record is acknowledged. -/
def State.ssnAcked (s : State) : State :=
  s.wr .SSN_ACKED (s.unacked.foldl (fun n r => min n (r.ssn - 1)) (s.rd .SSN_ISSUED))

/-- The solo-map page that holds a tier page's bit. -/
def State.soloPage (s : State) (obj tp : Nat) : Nat := (((s.obj? obj).map (·.mapBase)).getD 0 + tp) / 32768

/-- Charge a solo-map page to domain 0 (Table 03.1); without room the charge waits for it (R60, log entry 13). -/
def State.soloCharge (s : State) (p : Nat) : State :=
  if s.stl.chq.contains (soloKey p) then s
  else if s.canCharge 0 1 then s.chargeKey 0 (soloKey p)
  else { s with mir := { s.mir with soloDue := withNat s.mir.soloDue p } }

/-- Charge the solo-map pages that waited for room. -/
def State.soloRetry (s : State) : State :=
  let due := s.mir.soloDue
  ({ s with mir := { s.mir with soloDue := [] } }).each due State.soloCharge

/-- Mark a tier page in the solo map (R52) and charge its solo-map page. -/
def State.soloMark (s : State) (obj tp : Nat) : State :=
  let s := { s with mir := { s.mir with solo := mput s.mir.solo (obj, tp) false } }
  let s := s.wr .SOLO_PAGES s.mir.solo.length
  s.soloCharge (s.soloPage obj tp)

/-- Keep the solo-map bits of the pages that a test accepts; an empty map hides no domain's writes (R38). -/
def State.soloKeep (s : State) (p : Key → Bool) : State :=
  let solo := mfilter s.mir.solo fun k _ => p k
  let s := { s with mir := { s.mir with solo := solo, soloDoms := if solo.isEmpty then [] else s.mir.soloDoms } }
  s.wr .SOLO_PAGES s.mir.solo.length

/-- Clear a page's solo-map bit (R343). -/
def State.soloClear (s : State) (k : Key) : State := s.soloKeep (· != k)

/-- The lane of a tier page (R327). -/
def laneOf (obj tp : Nat) : Nat := bits obj 0 4 ^^^ bits tp 0 4 ^^^ bits tp 4 4

/-- Slots of the retransmit store (R330). -/
def retxSlots : Nat := 3840

/-- Send one record: it takes its lane's next LSN and a slot of the retransmit store, which RETX_FULL reports full (R330). -/
def State.txRec (s : State) (r : MRec) : State :=
  let n := (mget s.mir.lsnTx (r.lane, 0)).getD 0
  let r := { r with lsn := n }
  let s := { s with mir := { s.mir with retx := s.mir.retx ++ [r],
                                        lsnTx := mput s.mir.lsnTx (r.lane, 0) ((n + 1) % 2 ^ 32) } }
  let s := s.when (s.mir.retx.length == retxSlots) (·.setf .RETX_FULL true)
  (s.wr .RETX_RECORDS s.mir.retx.length).send (.mirRec r)

/-- Queue a finished record: sent at once, or in its lane's send queue while the store is full or
earlier records of the lane wait (R330). -/
def State.queueRec (s : State) (r : MRec) : State :=
  if s.mir.retx.length < retxSlots && !(s.mir.sendq.any fun x => x.lane == r.lane) then s.txRec r
  else { s with mir := { s.mir with sendq := s.mir.sendq ++ [r] } }

/-- Send from the send queues, each lane in SSN order, while the store has room (R330). -/
def State.drainSendq (s : State) : State :=
  s.each s.mir.sendq fun s r =>
    if s.mir.retx.length < retxSlots then
      ({ s with mir := { s.mir with sendq := s.mir.sendq.erase r } }).txRec r
    else s

/-- Bit i set for the i-th line carried that is poisoned (Table 13.4), from a mask by line number. -/
def packPoison (ls : List (Nat × Line)) (p : Nat) : Nat :=
  (List.range ls.length).foldl (fun m i =>
    if bit p ((ls.getD i (0, 0)).1) then m + 2 ^ i else m) 0

/-- Close the open record of a lane (R327). -/
def State.closeLane (s : State) (lane : Nat) : State :=
  match mget s.mir.opn (lane, 0) with
  | none => s
  | some r =>
    let s := { s with mir := { s.mir with opn := mdel s.mir.opn (lane, 0) } }
    s.queueRec { r with poison := packPoison r.lines r.poison }

/-- Close every open record (R36, Table 01.2 order 6). -/
def State.closeAll (s : State) : State := s.each (List.range 16) State.closeLane

/-- An SSN is available: the next one lies in a block whose reservation is settled (R327). -/
def State.ssnReady (s : State) : Bool := decide (s.rd .SSN_ISSUED < s.mir.ssnBlockSettled)

/-- SSNs per reserved block. -/
def ssnBlock : Nat := 2 ^ 32

/-- Write the reservation of the next block when half of the present one is assigned (R327). -/
def State.ssnReserve (s : State) : State :=
  if s.md.ssnEnd ≤ s.rd .SSN_ISSUED + ssnBlock / 2 && s.canJournal then
    s.journal [.ssnEnd (s.md.ssnEnd + ssnBlock)]
  else s

/-- Assign the next SSN; the new record reads it from SSN_ISSUED. -/
def State.nextSsn (s : State) : State := (s.wr .SSN_ISSUED (s.rd .SSN_ISSUED + 1)).ssnReserve

/-- Insert a line in rising line order, in place of an older copy. -/
def putLine (ls : List (Nat × Line)) (j : Nat) (d : Line) : List (Nat × Line) :=
  match ls with
  | [] => [(j, d)]
  | (k, x) :: r => if j < k then (j, d) :: (k, x) :: r else if j = k then (j, d) :: r
    else (k, x) :: putLine r j d

/-- Copy a stored line into its lane's open record (R327): a line of another code page, or a 17th line,
closes the record first. -/
def State.addLine (s : State) (obj ofsLine : Nat) (data : Line) (poison : Bool) (dom : Nat)
    (resync : Bool) : State :=
  let tp := ofsLine / 1024
  let cpage := ofsLine / 64
  let j := ofsLine % 64
  let lane := laneOf obj tp
  let fits := match mget s.mir.opn (lane, 0) with
    | some r => r.obj == obj && r.cpage == cpage && (bit r.mask j || decide (r.lines.length < 16))
    | none => false
  let s := if fits then s else
    let s := (s.closeLane lane).nextSsn
    let r : MRec := ⟨s.rd .SSN_ISSUED, obj, lane, .data, cpage, 0, 0, [], [], 0, [], resync⟩
    { s with mir := { s.mir with opn := mput s.mir.opn (lane, 0) r } }
  match mget s.mir.opn (lane, 0) with
  | none => s
  | some r =>
    { s with mir := { s.mir with opn := mput s.mir.opn (lane, 0) { r with
        mask := setBit r.mask j true
        poison := setBit r.poison j poison
        lines := putLine r.lines j data
        doms := withNat r.doms dom
        resync := r.resync || resync } } }

/-- Make one META, ATOMIC or COMMIT record on a lane, behind the lane's open record (R328, R335). -/
def State.addRec (s : State) (lane : Nat) (ty : RTy) (obj cpage mask poison : Nat)
    (lines : List (Nat × Line)) (ops : List JOp) (dom : Nat) (resync : Bool) : State :=
  let s := (s.closeLane lane).nextSsn
  s.queueRec ⟨s.rd .SSN_ISSUED, obj, lane, ty, cpage, poison, mask, lines, ops, 0, [dom], resync⟩

/-- Records flow: bring-up is complete (R321 step 6). -/
def State.mirUp (s : State) : Bool := s.fl .MIR_STATUS_LINK_UP

/-- An own object is unmatched and its records do not flow again yet (R336). -/
def State.unmatchedHere (s : State) (obj : Nat) : Bool :=
  s.mir.unmatched.contains obj && !s.mir.flow.contains obj

/-- Carry a metadata change of a mirrored object to the twin (R41): a META record on lane OBJ_ID[3:0]
while records flow; the ledger pass of the next resync carries it otherwise (R492). -/
def State.mirMeta (s : State) (obj : Nat) (ops : List JOp) (dom : Nat) : State :=
  if s.mirUp && !s.unmatchedHere obj then
    s.addRec (bits obj 0 4) .md obj 0 ops.length 0 [] ops dom false
  else s

/-- What a completed store to a mirrored object does for the twin (R36, R52, R336, R340). -/
def State.mirStore (s : State) (obj ofsLine : Nat) (data : Line) (poison : Bool) (dom : Nat) : State :=
  let tp := ofsLine / 1024
  let s := if s.mir.takenOver.contains obj then s.soloMark obj tp else s
  if s.rd .STATE = mirNoTwin then s
  else if s.unmatchedHere obj then s.soloMark obj tp
  else if s.mirUp then s.addLine obj ofsLine data poison dom false
  else
    let s := s.soloMark obj tp
    { s with mir := { s.mir with soloDoms := withNat s.mir.soloDoms dom } }

/-- A store to a mirrored object is recorded in the solo map (R52, R336, R340). -/
def State.mirSoloes (s : State) (obj : Nat) : Bool :=
  s.mir.takenOver.contains obj || (s.rd .STATE != mirNoTwin && (s.unmatchedHere obj || !s.mirUp))

/-- The pages that stores to tier pages of an object charge to domain 0 for the solo map (Table 03.1). -/
def State.mirNeedsAll (s : State) (o : Obj) (obj : Nat) (tps : List Nat) : Nat :=
  if o.mirror && s.mirSoloes obj then
    ((tps.map (s.soloPage obj ·)).eraseDups.filter fun p => !s.stl.chq.contains (soloKey p)).length
  else 0

/-- The same for a store to one tier page. -/
def State.mirNeeds (s : State) (o : Obj) (obj tp : Nat) : Nat := s.mirNeedsAll o obj [tp]

/-- Why a store to a mirrored object must wait, if it must: a fence of R26, a full retransmit store, or
an SSN block not yet settled (R327, R330). -/
def State.mirWait (s : State) (obj : Nat) : Option Why :=
  if s.rd .STATE = mirNoTwin then none
  else if s.rd .STATE = mirFenced then some .fence
  else if s.mirUp && !s.unmatchedHere obj then
    if retxSlots ≤ s.mir.retx.length then some .retx
    else if !s.ssnReady then some .ssn else none
  else none

/-! ### Settle fences -/

/-- R38: the domain has something outstanding: an unacknowledged record carries one of its writes, or a
write of it is recorded only in the solo map. -/
def State.outstanding (s : State) (d : Nat) : Bool :=
  s.unacked.any (fun r => r.doms.contains d) || s.mir.soloDoms.contains d

/-- The domain owns an unmatched object (R336). -/
def State.ownsUnmatched (s : State) (d : Nat) : Bool :=
  s.mir.unmatched.any fun o => ((s.obj? o).map (·.owner)) == some d

/-- The domain's stall ends when none of its waiting requests is 1 ms old (R74). -/
def State.stallEnd (s : State) (d : Nat) : State :=
  if s.waits.any (fun w => w.dom == d && w.aged) || s.fences.any (fun f => f.dom == d && f.aged) then s
  else s.setfi .STALLED d false

/-- The same for every domain, after waiting requests went (R74). -/
def State.stallEnds (s : State) : State := s.each ((List.range 256).filter (s.fli .STALLED ·)) State.stallEnd

/-- Change a command's entry. -/
def State.updCmd (s : State) (uid : Nat) (f : Cmd → Cmd) : State :=
  { s with cmd := { s.cmd with cmds := s.cmd.cmds.map fun c => if c.uid = uid then f c else c } }

/-- A command reached its end: it is posted in the order of completion (R115). -/
def State.finishCmd (s : State) (uid : Nat) (f : Cmd → Cmd) : State :=
  if s.cmd.cmds.any fun c => c.uid == uid && c.ph != .finished then
    let s := s.updCmd uid fun c => { f c with ph := .finished }
    { s with cmd := { s.cmd with done := s.cmd.done ++ [uid] } }
  else s

/-- A settle-page status word changed: line 0 of the page is back-invalidated in the hosts that hold it (R104). -/
def State.setFstat (s : State) (link ld : Nat) (st : FStat) : State :=
  ({ s with prt := { s.prt with fstat := mput s.prt.fstat (link, ld) st } }).each (s.others (pageLa link ld) none)
    fun s l => s.snoop l (pageLa link ld)

/-- Phase 2 of GPF ends on a port when none of its fences is pending (R39). -/
def State.gpfCheck (s : State) (p : Nat) : State :=
  if s.prt.gpf.contains p && !(s.fences.any fun f => f.src == .gpf p) then
    let s := s.each (s.prt.gpfSolo.filter fun x => x.1 == p) fun s x =>
      s.record clsWarn x.2 39 (item 8 1)
    ({ s with prt := { s.prt with gpf := without s.prt.gpf p,
                                  gpfSolo := s.prt.gpfSolo.filter fun x => x.1 != p } }).send (.gpfDone p)
  else s

/-- A fence completes with OK or OK_SOLO: its requester learns it (R40, R152, R39, R362). -/
def State.fenceDone (s : State) (f : Fence) (solo : Bool) : State :=
  let s := ({ s with fences := s.fences.erase f }).stallEnd f.dom
  match f.src with
  | .page link ld tag =>
    let st := (mget s.prt.fstat (link, ld)).getD ⟨3, 0, 0⟩
    let s := if st.seq = f.seq then s.setFstat link ld { st with state := b2n solo } else s
    s.when (!f.freed) (·.complete link ld tag)
  | .gpf p =>
    let s := if solo then { s with prt := { s.prt with gpfSolo := s.prt.gpfSolo ++ [(p, f.dom)] } } else s
    s.gpfCheck p
  | .cmd uid => s.finishCmd uid fun c => { c with status := if solo then 2 else 0, r0 := f.mark }
  | .rdma ctx psn => s.ctxFence ctx psn solo f.mark

/-- R38: how a fence resolves now, if it does; `judge` at acceptance and at changes of the mirror's
state. -/
def State.fenceResult (s : State) (f : Fence) (judge : Bool) : Option Bool :=
  if judge && s.rd .STATE == mirNoTwin then some true
  else if judge && s.ownsUnmatched f.dom then some true
  else if judge && !s.outstanding f.dom then some false
  else if s.rd .STATE = mirMirroring then
    if s.unacked.all fun r => decide (f.mark < r.ssn) then some false else none
  else if judge && s.rd .STATE == mirSolo then some true
  else none

/-- Resolve every pending fence that can complete. -/
def State.resolveFences (s : State) (judge : Bool) : State :=
  s.each s.fences fun s f =>
    match s.fenceResult f judge with
    | some r => s.fenceDone f r
    | none => s

/-- Accept a fence request (R36): close every open record, capture the mark (0 with nothing
outstanding, R38), and resolve it if a case applies. -/
def State.acceptFence (s : State) (src : FSrc) (d seq : Nat) : State :=
  let s := s.closeAll
  let zeroMark := s.rd .STATE != mirNoTwin && !s.ownsUnmatched d && !s.outstanding d
  let f : Fence := ⟨src, d, if zeroMark then 0 else s.rd .SSN_ISSUED, seq, false, false⟩
  let s := { s with fences := s.fences ++ [f] }
  match src with
  | .page link ld _ =>
    let s := s.setFstat link ld ⟨2, seq, f.mark⟩
    match s.fenceResult f true with
    | some r => s.fenceDone f r
    | none => s
  | _ =>
    match s.fenceResult f true with
    | some r => s.fenceDone f r
    | none => s

/-! ### State of the mirror -/

/-- Table 13.6, evaluated on the present inputs. -/
def State.mirTable (s : State) : Nat :=
  if s.mir.ports = 0 then mirNoTwin
  else if s.mirUp && !s.fl .RESYNC_BUSY then mirMirroring
  else if s.mirUp then s.rd .STATE
  else if s.mir.drainSeen then mirSolo
  else if s.fl .HB_ALIVE then (if s.fl .SENIOR then mirSolo else mirFenced)
  else if s.fl .GRANT then mirSolo else mirFenced

/-- Re-evaluate the state (R338): entries into SOLO count (R339), and fences are judged again (R38). -/
def State.mirEval (s : State) : State :=
  let n := s.mirTable
  if n = s.rd .STATE then s
  else
    let s := s.wr .STATE n
    let s := if n = mirSolo then s.count .SOLO_CNT 0 .MIR_FLAGS_CNT_OVF 0 5 else s
    s.resolveFences true

end Sys2Proof.Machine
end

