-- ==== Sys2Proof/Machine/PathOps.lean ====
section
/-! DEFINITION. The path of a request: translation (R171), demand fetch and waiting (R189, R98), service
at the front cache (R221 to R236), and the responses of the ports (R96, R100). -/

namespace Sys2Proof.Machine

/-! ### Register writes in a drain -/

/-- A BAR0 write from step 1 of a drain on is discarded, with one record per function per tick (R464). -/
def State.barWrite (s : State) (f : State → State) : State :=
  if s.draining then s.recordOnce 0 clsWarn 0 464 [] else f s

/-! ### Logical devices -/

/-- The registers of LD j of link k exist (R108): an odd link only on a split port, LDs 8 to 15 only on a port that
is not. -/
def State.ldRegs (s : State) (k j : Nat) : Bool :=
  let split := s.fli .SPLIT_ACT (portOf k)
  decide (k < 8) && (k % 2 == 0 || split) && decide (j < if split then 8 else 16)

/-- LD j of link k exists (R83, R87): LDs other than 0 only in MLD mode. -/
def State.ldExists (s : State) (k j : Nat) : Bool := s.ldRegs k j && (j == 0 || s.fli .MLD (portOf k))

/-- DPA dpa lies in the LD's static capacity (R89). -/
def State.inStatic (s : State) (k j dpa : Nat) : Bool :=
  decide (dpa < s.rdi .LD_CAP_256M (ldIx k j) * 2 ^ 28)

/-- DPA dpa lies in an accepted DC extent (R91). -/
def State.inExtent (s : State) (k j dpa : Nat) : Bool :=
  s.md.extents.any fun e => e.link == k && e.ld == j &&
    decide (e.start * 2 ^ 28 ≤ dpa) && decide (dpa < (e.start + e.len) * 2 ^ 28)

/-- DPA dpa lies in the LD's present capacity (R89). -/
def State.inCapacity (s : State) (k j dpa : Nat) : Bool := s.inStatic k j dpa || s.inExtent k j dpa

/-- The link's CXL.mem IDE stream is insecure (R95). -/
def State.ideBad (s : State) (k : Nat) : Bool := (mget s.prt.ide (k, 0)).any (·.memBad)

/-- The LD is served at dpa: R89, R95, R106. -/
def State.ldServes (s : State) (k j dpa : Nat) : Bool :=
  s.ldExists k j && s.fli .LD_EN (ldIx k j) && bit s.prt.rdy (portOf k)
    && s.inCapacity k j dpa
    && !(s.fli .IDE_REQUIRED (portOf k) && !s.fli .IDE_MEM k) && !s.ideBad k

/-- The window of LD (k, j) that holds the DPA page (R171). -/
def State.window? (s : State) (k j pn : Nat) : Option (Key × Win) :=
  s.md.wins.find? fun e => e.1.1 == ldIx k j && decide (e.1.2 ≤ pn) && decide (pn < e.1.2 + e.2.wlen)

/-- The address lies in the LD's enabled settle page (R102). -/
def State.onSettlePage (s : State) (k j dpa : Nat) : Bool :=
  s.fli .SETTLE_EN (ldIx k j) && s.rdi .SETTLE_PFN (ldIx k j) == dpa / 4096

/-! ### Responses -/

/-- Complete a host write. -/
def State.doneWrite (s : State) (r : HostReq) : State := s.complete r.link r.ld r.tag

/-- Answer a host read; a poisoned answer counts (R96). -/
def State.doneRead (s : State) (r : HostReq) (data : Line) (poison : Bool) : State :=
  let v := s.devLoad r.link r.ld
  let s := s.wri .DEVLOAD (ldIx r.link r.ld) v
  let s := if poison then s.count .POISON_RD_CNT (ldIx r.link r.ld) .PRT_LD_FLAGS_CNT_OVF (ldIx r.link r.ld) 0 else s
  s.when (!s.mute r.link) (·.send (.cxlData r.link r.ld r.tag data poison v))

/-- The data of a poisoned answer that no stored line gives: a free value (log entry 6). -/
def State.poisonData (s : State) : Line := BitVec.ofNat 512 s.freeVal

/-- Answer an unmapped request (R16): poison for a read, normal completion for a write, one record per
LD per tick. -/
def State.unmapped (s : State) (r : HostReq) : State :=
  let i := ldIx r.link r.ld
  let s := s.count .UNMAPPED_CNT i .PRT_LD_FLAGS_CNT_OVF i 1
  let s := s.recordOnce i clsError (s.ldDom r.link r.ld) 16 (item 3 (r.link + 8 * r.ld) ++ item 2 r.dpa)
  if r.wr then s.doneWrite r else (s.doneRead r s.poisonData true).freeNext

/-! ### Waiting -/

/-- BENCH_USED, BENCH_PEAK and BENCHED after a change of the bench (R98, R108). -/
def State.benchRegs (s : State) (k j : Nat) : State :=
  let used := ((List.range 16).map (s.benchedOf k ·)).foldl (· + ·) 0
  let s := (s.wri .BENCHED (ldIx k j) (s.benchedOf k j)).wri .BENCH_USED k used
  s.wri .BENCH_PEAK k (max (s.rdi .BENCH_PEAK k) used)

/-- Bench entries of a link (R98). -/
def State.benchSize (s : State) (k : Nat) : Nat := if s.fli .SPLIT_ACT (portOf k) then 65536 else 131072

/-- A wait whose write may leave the tracker for the bench (R98). -/
def Wait.benchable (w : Wait) : Bool :=
  (w.why == .flt || w.why == .fence || w.why == .atomic) && match w.ent with
    | .host r => r.wr
    | _ => false

/-- The bench of a link and the quota of an LD have room for one more write (R98, R99). -/
def State.benchRoom (s : State) (r : HostReq) : Bool :=
  decide (s.benchedOf r.link r.ld < s.rdi .BENCH_QUOTA (ldIx r.link r.ld) * 16)
    && decide (s.rdi .BENCH_USED r.link < s.benchSize r.link)

/-- The link stops returning write credits when the write half of its tracker is full (R99). -/
def State.creditStop (s : State) (k : Nat) : State :=
  if s.prt.stopped.contains k || s.held k true < s.halfTracker k then s
  else
    let s := { s with prt := { s.prt with stopped := s.prt.stopped ++ [k] } }
    (s.setfi .BENCH_FULL k true).recordOnce k clsWarn 0 99 (item 3 k)

/-- Insert a wait in arrival order among the host requests (R98). -/
def insWait (w : Wait) (n : Nat) : List Wait → List Wait
  | [] => [w]
  | x :: r => match x.ent with
    | .host h => if n < h.arr then w :: x :: r else x :: insWait w n r
    | _ => x :: insWait w n r

/-- Put a host request on the waiting list, in arrival order: a write that waits for float, a fence or an atomic switch
goes to the bench while its LD's quota allows (R98, R99). -/
def State.hostWait (s : State) (r : HostReq) (why : Why) (obj tp : Nat) : State :=
  let s := if r.arr = 0 then { s with prt := { s.prt with arrived := s.prt.arrived + 1 } } else s
  let r := if r.arr = 0 then { r with arr := s.prt.arrived } else r
  let w : Wait := ⟨.host r, s.ldDom r.link r.ld, why, obj, tp, false, false⟩
  let onBench := w.benchable && s.benchRoom r
  let s := { s with waits := insWait { w with benched := onBench } r.arr s.waits }
  let s := if onBench then s.benchRegs r.link r.ld else s
  s.when r.wr (·.creditStop r.link)

/-- Writes that waited in the tracker go to the bench when room frees (R98). -/
def State.benchFill (s : State) (k : Nat) : State :=
  s.each s.waits fun s w => match w.ent with
    | .host r =>
      if r.link == k && w.benchable && !w.benched && s.benchRoom r then
        ({ s with waits := s.waits.map fun x => if x == w then { x with benched := true } else x }).benchRegs r.link r.ld
      else s
    | _ => s

/-- A command or an RDMA packet waits; a second wait of the same one replaces the first. -/
def State.entWait (s : State) (e : Ent) (d : Nat) (why : Why) (obj tp : Nat) : State :=
  let old := s.waits.find? fun w => w.ent == e
  match old with
  | some _ => { s with waits := s.waits.map fun w => if w.ent = e then { w with why := why, obj := obj, tp := tp } else w }
  | none => { s with waits := s.waits ++ [⟨e, d, why, obj, tp, false, false⟩] }

/-- The wait of a command or packet ends. -/
def State.entGo (s : State) (e : Ent) (d : Nat) : State :=
  ({ s with waits := s.waits.filter fun w => w.ent != e }).stallEnd d

/-! ### Demand fetch -/

/-- Move-tracker entries in use: the moves that have begun (R191, R198). -/
def State.trackerUsed (s : State) : Nat := (s.tpe.moves.filter fun m => m.st != .queued).length

/-- MOVES_USED and DF_ACTIVE follow the tracker. -/
def State.moveRegs (s : State) : State :=
  (s.wr .MOVES_USED s.trackerUsed).wr .DF_ACTIVE
    (s.tpe.moves.filter fun m => m.st != .queued && m.src == .demand).length

/-- The move of a page, if one is queued or under way. -/
def State.moveOf (s : State) (obj tp : Nat) : Option Move :=
  s.tpe.moves.find? fun m => m.obj == obj && m.tp == tp

/-- Change a move. -/
def State.updMove (s : State) (id : Nat) (f : Move → Move) : State :=
  { s with tpe := { s.tpe with moves := s.tpe.moves.map fun m => if m.id = id then f m else m } }

/-- STREAMS_ACTIVE and STREAMS follow the stream table (R215). -/
def State.streamRegs (s : State) (d : Nat) : State :=
  (s.wr .STREAMS_ACTIVE s.tpe.streams.length).wri .STREAMS d (s.tpe.streams.filter fun t => t.dom = d).length

/-- The streams a move counts for. -/
def Move.streams (m : Move) : List (Nat × Nat) :=
  (m.src :: m.also).filterMap fun x => match x with
    | .stream d sid _ => some (d, sid)
    | _ => none

/-- A stream ends when every entry has started and every move is done or cancelled; its STREAM_POST
completes (R160, R209). -/
def State.streamEnd (s : State) (t : Stream) : State :=
  if t.ents.any (fun e => !e.started) || s.tpe.moves.any (fun m => m.streams.contains (t.dom, t.sid)) then s
  else
    let s := { s with tpe := { s.tpe with streams := s.tpe.streams.filter fun x => !(x.dom == t.dom && x.sid == t.sid) } }
    (s.streamRegs t.dom).finishCmd t.uid fun c => match t.ceilAt with
      | some o => { c with status := 0x20, r0 := o, r1 := 0x2A }
      | none => { c with status := if t.late = 0 then 0 else 1, r0 := t.done + t.cancelled * 2 ^ 32, r1 := t.late }

/-- Every stream that can end does. -/
def State.streamEnds (s : State) : State := s.each s.tpe.streams State.streamEnd

/-- Remove a move from the tracker or its queue. -/
def State.dropMove (s : State) (id : Nat) : State :=
  (({ s with tpe := { s.tpe with moves := s.tpe.moves.filter fun m => m.id != id } }).moveRegs).streamEnds

/-- Queue a move. -/
def State.queueMove (s : State) (m : Move) : State :=
  { s with tpe := { s.tpe with moves := s.tpe.moves ++ [{ m with id := s.tpe.moveId }],
                               moveId := s.tpe.moveId + 1 } }

/-- Change the streams that a test accepts. -/
def State.updStream (s : State) (d sid : Nat) (f : Stream → Stream) : State :=
  { s with tpe := { s.tpe with streams := s.tpe.streams.map fun x => if x.dom = d ∧ x.sid = sid then f x else x } }

/-- Count one move done or cancelled for every stream it serves (R206, R208). -/
def State.countStreams (s : State) (m : Move) (done : Bool) : State :=
  s.each m.streams fun s x => s.updStream x.1 x.2 fun t =>
    if done then { t with done := t.done + 1 } else { t with cancelled := t.cancelled + 1 }

/-- Cancel a queued move (R198). -/
def State.cancelMove (s : State) (m : Move) : State := (s.countStreams m false).dropMove m.id

/-- A begun demotion is abandoned (R198): counted cancelled by its streams, and queued again when a PLACE
asked for it (Table 07.8). -/
def State.abandonMove (s : State) (m : Move) : State :=
  let again : Bool := m.src == MSrc.place
  let s := s.cancelMove m
  if again then s.queueMove { m with st := .queued, src0 := .t1, frame := 0 } else s

/-- A page is late for the streams of the accessing domain that promote it (R211, R212): counted once
per stream. -/
def State.markLate (s : State) (m : Move) (d : Nat) : State :=
  if m.late || !(m.streams.any fun x => x.1 == d) then s
  else
    let s := s.updMove m.id fun m => { m with late := true }
    let s := s.each (m.streams.filter fun x => x.1 == d) fun s x =>
      s.updStream x.1 x.2 fun t => { t with late := t.late + 1, lateTick := t.lateTick + 1 }
    s.count .LATE_CNT d .TPE_DOM_STRM2_CNT_OVF d 0

/-- Begin a promotion: a tracker entry and a free frame are taken, the frame is tallied, and the page
becomes FETCHING (R197 LOAD, R190 step 1). -/
def State.beginLoad (s : State) (m : Move) (acct use : Nat) : State :=
  let ix := ((s.obj? m.obj).map (·.mapBase)).getD 0 + m.tp
  let e := s.mapE ix
  let f := s.nextFrame
  let s := s.takeFrame ⟨m.obj, m.tp, 0, acct, use, false, 0⟩
  let s := s.setMap ix { e with st := .fetching, frame := f }
  (s.updMove m.id fun m => { m with st := .load, src0 := e.st, frame := f, aside := false }).moveRegs

/-- A demand fetch may begin: any tracker entry (R191) and a free frame (R183). -/
def State.canDemand (s : State) : Bool := decide (s.trackerUsed < 4096) && decide (0 < s.rd .FREE_FRAMES)

/-- The demand fetch that has waited longest to begin (R191). -/
def State.firstDemand (s : State) : Option Move := s.tpe.moves.find? fun m => m.st == .queued && m.src == .demand

/-- A demand fetch starts (R189): it begins at once unless an earlier one waits, or no tracker entry or frame is free
(R183, R191). -/
def State.startDemand (s : State) (m : Move) (replica : Bool) : State :=
  let id := s.tpe.moveId
  let s := (s.count .DF_CNT 0 .TPE_FLAGS_CNT_OVF 0 0).queueMove m
  match s.firstDemand with
  | some x => if x.id = id && s.canDemand then s.beginLoad x x.dom (if replica then 3 else 1) else s
  | none => s

/-- An access of domain d needs a page that is not resident (R189, R211): it attaches to the fetch in
progress, or starts a demand fetch, which takes over a queued promotion in its own name (R177). Replica pages are
fetched into replica frames. -/
def State.needPage (s : State) (obj tp d : Nat) (replica : Bool) : State :=
  match s.moveOf obj tp with
  | none => s.startDemand ⟨0, obj, tp, .demand, [], .queued, .t2, .t1, 0, d, 0, false, false, false⟩ replica
  | some m =>
    if m.dest != .t1 then s
    else if m.st != .queued then s.markLate m d
    else if m.src == .demand then s
    else
      let s := s.markLate m d
      match s.moveOf obj tp with
      | some m =>
        let s := { s with tpe := { s.tpe with moves := s.tpe.moves.filter fun x => x.id != m.id } }
        s.startDemand { m with src := .demand, also := m.src :: m.also, aside := false, dom := d } replica
      | none => s

/-- An access drops a queued demotion of its page (R182, Table 08.3). -/
def State.dropDemotion (s : State) (obj tp : Nat) : State :=
  match s.tpe.moves.find? fun m => m.obj == obj && m.tp == tp && m.st == .queued && m.dest != .t1 with
  | some m => s.cancelMove m
  | none => s

/-! ### Service at the front cache -/

/-- A read's response leaves its mark in the snoop filter (R235): MetaValue Any (2) takes the line
exclusively, Shared (3) adds the link, Invalid (0) records nothing. -/
def State.sfRead (s : State) (r : HostReq) (la : Nat) : State :=
  if r.mty = 2 then s.sfAdd r.link la true
  else if r.mty = 3 then s.sfAdd r.link la false else s

/-- A write's MetaValue leaves the writer's own entry: Invalid (0) removes it (R235). -/
def State.sfWrite (s : State) (r : HostReq) (la : Nat) : State :=
  if r.mty = 0 then s.sfDrop r.link la else s.sfRead r la

/-- A store of domain d reached a line of a page (R19): its code page is no longer as a settle in progress read it
(R22, R224), and for a mirrored object the merged line goes to the twin's record (R36). -/
def State.stored (s : State) (obj tp la : Nat) (data : Line) (poison : Bool) (d : Nat) : State :=
  let o := s.obj? obj
  let s := s.redirty ((o.map (·.mapBase)).getD 0 + tp) (la / 64 % 16)
  if (o.map (·.mirror)).getD false then s.mirStore obj (1024 * tp + la % 1024) data poison d else s

/-- Apply one request to the resident line at key k: a load returns it, a store merges and completes
(R221, R228), with its copy to the twin (R36). -/
def State.applyReq (s : State) (k : Key) (q : Req) : State :=
  match mget s.fch.lines k with
  | none => s
  | some c =>
    let s := s.touch (c.la / 1024)
    let c' := c.store q.data q.mask q.poison
    match q.who, q.wr with
    | .host r, false => (s.sfRead r c.la).doneRead r c.data c.poison
    | .host r, true =>
      let s := (s.putWay k c').stored c.obj c.tp c.la c'.data c'.poison (s.ldDom r.link r.ld)
      (s.sfWrite r c.la).doneWrite r
    | .gone d, true => (s.putWay k c').stored c.obj c.tp c.la c'.data c'.poison d
    | _, false => s
    | _, true => s

/-- A store on a line that no way of its set can take: the stored line is merged (log entry 17). -/
def State.storeBare (s : State) (la obj tp : Nat) (data : Line) (m : Mask) (poison : Bool) (d cls : Nat) : State :=
  let old : DLine := s.dline la
  let bad := poison || (old.st != LSt.good && m != fullMask)
  let v := mergeLine old.data data m
  (s.writeDram la ⟨v, if bad then .poison else .good⟩ .fch cls).stored obj tp la v bad d

/-- A request on a line that no way of its set can take: it is served on the stored line (log entry 17). -/
def State.applyBare (s : State) (la obj tp : Nat) (q : Req) : State :=
  let s := s.touch (la / 1024)
  let d : DLine := s.dline la
  let put := fun (s : State) (dom : Nat) => s.storeBare la obj tp q.data q.mask q.poison dom q.who.cls
  match q.who, q.wr with
  | .host r, true => ((put s (s.ldDom r.link r.ld)).sfWrite r la).doneWrite r
  | .host r, false => (s.sfRead r la).doneRead r d.data (d.st != .good)
  | .gone dom, true => put s dom
  | _, _ => s

/-- Apply a request to a line: where it is resident, else to the stored line. -/
def State.applyLine (s : State) (la obj tp : Nat) (q : Req) : State :=
  match s.cline? la with
  | some (k, _) => s.applyReq k q
  | none => s.applyBare la obj tp q

/-- A request waits in the slice's miss queue (R229); a store counts as reaching its line (R224). -/
def State.missWait (s : State) (la obj tp : Nat) (q : Req) (cnt : Fld) (b : Nat) : State :=
  let sl := s.sliceOf la
  let s := s.count cnt sl .FCH_SL_FLAGS_CNT_OVF sl b
  { s with fch := { s.fch with mq := s.fch.mq ++ [⟨la, obj, tp, q⟩] } }

/-- A request reaches the front cache for line la (R221, R225 to R229). -/
def State.lineAccess (s : State) (la obj tp : Nat) (q : Req) : State :=
  let sl := s.sliceOf la
  match s.cline? la with
  | some (k, _) => s.applyReq k q
  | none =>
    match s.fch.mrs.find? fun e => e.2.la == la with
    | some (k, m) =>
      if m.reqs.length < 16 then
        { s with fch := { s.fch with mrs := mput s.fch.mrs k { m with reqs := m.reqs ++ [q] } } }
      else s.missWait la obj tp q .MERGE_FULL_CNT 1
    | none =>
      if q.wr && q.mask == fullMask then
        if s.candidates sl obj tp = [] then s.applyBare la obj tp q
        else (s.install ⟨la, obj, tp, true, q.poison, q.data⟩ q.who.cls).applyLine la obj tp q
      else
        match s.freeMr sl with
        | some n =>
          let s := s.touch (la / 1024)
          (({ s with fch := { s.fch with mrs := mput s.fch.mrs (sl, n) ⟨la, obj, tp, .fill, zeroLine, [q], q.who.cls⟩ } }).dreq
            la 1 false .fch q.who.cls).mrPeak sl
        | none => s.missWait la obj tp q .MR_FULL_CNT 0

/-- Miss-queue entries of a slice go on when a miss register frees (R229). -/
def State.missQueue (s : State) (sl : Nat) : State :=
  match s.fch.mq.find? fun e => s.sliceOf e.la == sl with
  | some e => ({ s with fch := { s.fch with mq := s.fch.mq.erase e } }).lineAccess e.la e.obj e.tp e.req
  | none => s

/-- INSTALL (Table 09.2, R228): the line takes a way unless it is resident by now, its requests are applied in arrival
order, and the register is free for the miss queue (R229). -/
def State.mrFinish (s : State) (k : Key) (m : MissReg) : State :=
  let s := { s with fch := { s.fch with mrs := mdel s.fch.mrs k } }
  let s := match s.cline? m.la with
    | some _ => s
    | none =>
      let s := s.flushEvict m.la
      let d : DLine := s.dline m.la
      s.install ⟨m.la, m.obj, m.tp, false, d.st != LSt.good, d.data⟩ m.fillCls
  let s := s.each m.reqs fun s q => s.applyLine m.la m.obj m.tp q
  s.missQueue k.1

/-- A command is a WRITE_ATOMIC that has not switched and whose lock covers the tier page. -/
def State.atomicOn (s : State) (c : Cmd) (obj tp : Nat) : Bool :=
  !c.switched && bits (c.words.getD 0 0) 0 8 == 3 && s.cmd.locks.any fun l => l.uid == c.uid && l.obj == obj &&
    decide (l.first ≤ 1024 * tp + 1023) && decide (1024 * tp ≤ l.last)

/-- A granted WRITE_ATOMIC lock holds the tier page, from its grant to the switch (R20, R128, R149). -/
def State.atomicHolds (s : State) (obj tp : Nat) : Bool :=
  s.cmd.cmds.any fun c => c.ph != .finished && s.atomicOn c obj tp && s.granted c.uid

/-- A dispatched WRITE_ATOMIC pins the frames of its locked range until the switch (R180, R188). -/
def State.atomicPins (s : State) (obj tp : Nat) : Bool :=
  s.cmd.cmds.any fun c => c.ph == .running && s.atomicOn c obj tp

/-- The page waits for its restore from the twin (R344) or for its frame-map block (R454). -/
def State.pageHeld (s : State) (obj tp ix : Nat) : Option Why :=
  if s.mir.need.contains (obj, tp) then some .resync
  else if s.tpe.unloaded.contains (ix / 4096) then some .mapBlk else none

/-- Serve a translated host request on a T1 page, after its charge (R19, R59, R93, R235). -/
def State.serveT1 (s : State) (r : HostReq) (o : Obj) (obj tp ix la : Nat) : State :=
  let s := s.dropDemotion obj tp
  let d := s.ldDom r.link r.ld
  let e := s.mapE ix
  let k := la / 64 % 16
  let needs := r.wr && o.persist && (e.cpSt k == 0 || e.cpSt k == 3)
  let q : Req := ⟨.host r, r.wr, r.data, r.mask, r.poison⟩
  let inval := if r.snoopWb then [] else if r.wr || r.mty == 2 then s.others la (some r.link)
    else if r.mty == 3 && ((mget s.fch.sf (la, 0)).map (·.excl)).getD false then s.others la (some r.link) else []
  let victim := if r.mty == 0 || !s.hdmDb r.link then none else s.sfVictim la
  if bit (s.rd .SLICE_BUSY) (s.sliceOf la) then s.hostWait r .slice obj tp
  else if inval ≠ [] then (s.each inval fun s l => s.snoop l la).hostWait r .snoop obj tp
  else match victim with
    | some v =>
      let s := if s.fch.snoops.any fun (x : Snoop) => x.la == v then s else s.count .SF_EVICT_CNT 0 .SF_EVICT_OVF 0 0
      (s.each (s.others v none) fun s l => s.snoop l v).hostWait r .snoop obj tp
    | none =>
      if !s.canCharge2 d (b2n needs) (if r.wr then s.mirNeeds o obj tp else 0) then s.hostWait r .flt obj tp
      else
        let s := if needs then s.chargeCp ix k d else s
        let s := if r.wr then s.redirty ix k else s
        s.lineAccess la obj tp q

/-- A snoop write-back to a LEAVING page lands in its frame before CLEAN ends (R182, R198), through the line's slice
(R17): on a persistent page it charges its code page and abandons the demotion. -/
def State.leavingWb (s : State) (r : HostReq) (o : Obj) (obj tp ix la : Nat) : State :=
  let d := s.ldDom r.link r.ld
  let e := s.mapE ix
  let q : Req := ⟨.host r, true, r.data, r.mask, r.poison⟩
  if !o.persist then s.lineAccess la obj tp q
  else if !s.canCharge2 d 1 (s.mirNeeds o obj tp) then s.hostWait r .flt obj tp
  else
    let s := (match s.moveOf obj tp with
      | some m => s.abandonMove m
      | none => s).setMap ix { e with st := .t1 }
    (s.chargeCp ix (la / 64 % 16) d).lineAccess la obj tp q

/-- Serve a host request from translation on (R171, R16, R20, R173, R189). A request served again after it waited was
accepted, and what ends service to later requests does not reach it (R86, R89). -/
def State.serveHost (s : State) (r : HostReq) : State :=
  if r.arr = 0 && !s.ldServes r.link r.ld r.dpa then
    let s := if s.fli .IDE_REQUIRED (portOf r.link) && !s.fli .IDE_MEM r.link && bit s.prt.rdy (portOf r.link) then
      s.recordOnce (1000 + r.link) clsError 0 95 (item 3 r.link) else s
    s.unmapped r
  else if s.onSettlePage r.link r.ld r.dpa then
    if r.wr then
      let i := ldIx r.link r.ld
      let st := (mget s.prt.fstat (r.link, r.ld)).getD ⟨3, 0, 0⟩
      s.acceptFence (.page r.link r.ld r.tag) (s.rdi .PRT_LD_CFG_DOMAIN i) (st.seq + 1)
    else
      let st := (mget s.prt.fstat (r.link, r.ld)).getD ⟨3, 0, 0⟩
      let w := if r.dpa / 64 % 64 = 0 then st.state + st.seq * 2 ^ 16 + st.mark * 2 ^ 64 else 0
      (s.when (r.dpa / 64 % 64 = 0) (·.sfRead r (pageLa r.link r.ld))).doneRead r (BitVec.ofNat 512 w) false
  else match s.window? r.link r.ld (r.dpa / 65536) with
    | none => s.unmapped r
    | some (k, w) =>
      if r.wr && w.ro then
        let i := ldIx r.link r.ld
        (s.recordOnce i clsError (s.ldDom r.link r.ld) 157 (item 3 (r.link + 8 * r.ld) ++ item 2 r.dpa)).doneWrite r
      else
        let tp := w.objPn + r.dpa / 65536 - k.2
        match s.own? w.obj with
        | none => s.unmapped r
        | some o =>
          let ix := o.mapBase + tp
          let e := s.mapE ix
          let d := s.ldDom r.link r.ld
          if o.pages ≤ tp then s.unmapped r
          else match s.pageHeld w.obj tp ix with
            | some why => s.hostWait r why w.obj tp
            | none =>
              if r.wr && !r.snoopWb && s.atomicHolds w.obj tp then s.hostWait r .atomic w.obj tp
              else match (if r.wr && o.mirror then s.mirWait w.obj else none) with
                | some why =>
                  (s.when (why == .retx) (·.setf .RETX_FULL true)).hostWait r why w.obj tp
                | none =>
                  if e.st = .t1 then s.serveT1 r o w.obj tp ix (1024 * e.frame + r.dpa / 64 % 1024)
                  else if e.st = .zero && !r.wr then s.doneRead r 0 false
                  else if e.st = .leaving && r.snoopWb then
                    s.leavingWb r o w.obj tp ix (1024 * e.frame + r.dpa / 64 % 1024)
                  else
                    let s := s.needPage w.obj tp d false
                    let e := s.mapE ix
                    let la := 1024 * e.frame + r.dpa / 64 % 1024
                    let sl := s.sliceOf la
                    if e.st = .fetching && !r.wr && (s.cline? la).isNone then
                      -- a load of a FETCHING page waits in a miss register (Table 09.2 WAIT_PAGE)
                      let q : Req := ⟨.host r, false, 0, 0, false⟩
                      match s.fch.mrs.find? (fun e => e.2.la == la), s.freeMr sl with
                      | some _, _ => s.lineAccess la w.obj tp q
                      | none, some n =>
                        ({ s with fch := { s.fch with mrs := mput s.fch.mrs (sl, n) ⟨la, w.obj, tp, .waitPage, zeroLine, [q], sc1⟩ } }).mrPeak sl
                      | none, none => s.hostWait r .page w.obj tp
                    else s.hostWait r .page w.obj tp

/-- An earlier benched write of the same LD still waits (R98). -/
def State.benchedBefore (s : State) (r : HostReq) : Bool :=
  s.waits.any fun w => w.benched && match w.ent with
    | .host h => h.link == r.link && h.ld == r.ld && decide (h.arr < r.arr)
    | _ => false

/-- Serve a host request again that left the waiting list: benched writes of one LD in arrival order (R98). -/
def State.reserve (s : State) (w : Wait) : State :=
  match w.ent with
  | .host r =>
    if w.benched && s.benchedBefore r then { s with waits := insWait w r.arr s.waits }
    else
      let s := if w.benched then s.benchRegs r.link r.ld else s
      (s.stallEnd w.dom).serveHost r
  | _ => s

/-- A link returns write credits again once its tracker has room: writes that waited at their hosts arrive (R99). -/
def State.creditBack (s : State) (k : Nat) : State :=
  if !s.prt.stopped.contains k || s.halfTracker k ≤ s.held k true then s
  else
    let n := s.halfTracker k - s.held k true
    let mine := s.prt.atHost.filter fun r => r.link == k
    let go := mine.take n
    let s := { s with prt := { s.prt with atHost := s.prt.atHost.filter fun r => !go.contains r
                                          stopped := if mine.length ≤ n then without s.prt.stopped k else s.prt.stopped } }
    s.each go State.serveHost

/-- Every link's bench fills from its tracker, and stopped links that have room return credits. -/
def State.credits (s : State) : State := s.each (List.range 8) fun s k => (s.benchFill k).creditBack k

/-- Take the waiting host requests that a test accepts off the list and serve them in arrival order
(R98, BENCH_REENTRY), with the benched writes behind them of the same LD; commands and RDMA packets stay and are driven
by their own rows. -/
def State.rerun (s : State) (p : Wait → Bool) : State :=
  let isHost := fun w : Wait => match w.ent with
    | .host _ => true
    | _ => false
  let sameLd := fun w x : Wait => match w.ent, x.ent with
    | .host a, .host b => a.link == b.link && a.ld == b.ld && decide (a.arr < b.arr)
    | _, _ => false
  let first := s.waits.filter fun w => isHost w && p w
  let q := fun w : Wait => (isHost w && p w) || (w.benched && w.why != .flt && first.any fun x => x.benched && sameLd x w)
  let go := s.waits.filter q
  let s := { s with waits := s.waits.filter fun w => !q w }
  (s.each go State.reserve).when (!go.isEmpty) State.credits

/-- Requests that wait for a page that is T1 now go on (R198). -/
def State.wakePages (s : State) : State :=
  s.rerun fun w => w.why == .page && (match s.obj? w.obj with
    | some o => (s.mapE (o.mapBase + w.tp)).st == .t1
    | none => false)

/-- A page became T1 (R189, R197 DONE): fills that waited for it go on and its waiting requests are
served. -/
def State.pageReady (s : State) (obj tp : Nat) : State :=
  let s := { s with fch := { s.fch with mrs := s.fch.mrs.map fun (e : Key × MissReg) =>
    if e.2.st = MrSt.waitPage ∧ e.2.obj = obj ∧ e.2.tp = tp then (e.1, { e.2 with st := .fill }) else e } }
  let s := s.each (s.fch.mrs.filter fun e => e.2.st == .fill && e.2.obj == obj && e.2.tp == tp) fun s e =>
    s.dreq e.2.la 1 false .fch e.2.fillCls
  s.rerun fun (w : Wait) => w.obj == obj && w.tp == tp && w.why == Why.page

/-- The mirror's inputs changed: re-evaluate its state (R338) and serve what a fence no longer holds. -/
def State.mirChange (s : State) : State :=
  let s := s.mirEval
  if s.rd .STATE = mirFenced then s else s.rerun fun w => w.why == .fence

/-- Requests that waited for the retransmit store or an SSN block are tried again. -/
def State.mirRoom (s : State) : State := s.rerun fun w => w.why == .retx || w.why == .ssn

end Sys2Proof.Machine
end

