-- ==== Sys2Proof/Machine/IntegOps.lean ====
section
/-! DEFINITION. The address mapping of the DRAM controller (R249) and the shared operations of the
integrity engine (12_data_integrity.md): decoding a read with the flip mask (R296, R315), the rungs of the
recovery ladder (R302, R303), verify reads, remap and marks (R306 to R310). -/

namespace Sys2Proof.Machine

/-! ### Address mapping -/

/-- Where a line lies (R249). -/
structure Loc where
  ch : Nat
  sub : Nat
  rank : Nat
  bg : Nat
  bank : Nat
  row : Nat
  col : Nat
deriving DecidableEq, Repr

/-- Half 0 of the channels: D00, D01, D04, D05, D08, D09 (R246). -/
def halfMask0 : Nat := 0x333
/-- Half 1: D02, D03, D06, D07, D10, D11. -/
def halfMask1 : Nat := 0xCCC

/-- R249, with g the grain in force, `six` for a half and h its number, RB log2 of the ranks. -/
def mapDda (g : Nat) (six : Bool) (h RB dda : Nat) : Loc :=
  let u := dda / 2 ^ g
  let off := dda % 2 ^ g
  let t := u % 3
  let q := u / 3
  let c := if six then bits q 0 1 ^^^ bits q 8 1 ^^^ bits q 16 1 else bits q 0 2 ^^^ bits q 8 2 ^^^ bits q 16 2
  let ch := if six then 4 * t + 2 * h + c else 4 * t + c
  let p := if six then q / 2 else q / 4
  let ca := p * 2 ^ g + off
  let l := ca / 128
  let row := l / 2 ^ (12 + RB)
  ⟨ch, bits ca 6 1, bits l 12 RB, bits l 0 3 ^^^ bits row 0 3, bits l 10 2 ^^^ bits row 3 2, row, bits l 3 7⟩

/-- Where a line address lies on the channel set in force. -/
def State.locate (s : State) (la : Nat) : Loc :=
  let a := s.rd .CH_ACTIVE
  mapDda s.drc.grain (a == halfMask0 || a == halfMask1) (b2n (a == halfMask1)) (Nat.log2 (s.rd .RANKS)) (64 * la)

/-- The line address of a place (R249 read backwards), with g, `six` and RB as mapDda takes them. -/
def lineAt (g : Nat) (six : Bool) (RB : Nat) (p : Loc) : Nat :=
  let bg := p.bg ^^^ bits p.row 0 3
  let bk := p.bank ^^^ bits p.row 3 2
  let ca := ((p.row * 2 ^ (12 + RB) + p.rank * 2 ^ 12 + bk * 2 ^ 10 + p.col * 2 ^ 3 + bg) * 2 + p.sub) * 64
  let pp := ca / 2 ^ g
  let t := p.ch / 4
  let q := if six then pp * 2 + ((p.ch % 2) ^^^ bits pp 7 1 ^^^ bits pp 15 1)
    else pp * 4 + ((p.ch % 4) ^^^ bits pp 6 2 ^^^ bits pp 14 2)
  ((3 * q + t) * 2 ^ g + ca % 2 ^ g) / 64

/-- The line address of a place on the channel set in force. -/
def State.lineOf (s : State) (p : Loc) : Nat :=
  let a := s.rd .CH_ACTIVE
  lineAt s.drc.grain (a == halfMask0 || a == halfMask1) (Nat.log2 (s.rd .RANKS)) p

/-- Rows of a bank of the installed devices: 2,048 per GiB of a rank (R438). -/
def State.rowsPerBank (s : State) : Nat := s.rd .CH_CAP_GIB * 2048 / max 1 (s.rd .RANKS)

/-- Bank group, bank and row of unit u of a rank test (R438). -/
def State.unitPlace (s : State) (u : Nat) : Nat × Nat × Nat :=
  let b := u / max 1 s.rowsPerBank
  (b / 4, b % 4, u % max 1 s.rowsPerBank)

/-- The channel of a line. -/
def State.chOf (s : State) (la : Nat) : Nat := (s.locate la).ch

/-! ### Decoding -/

/-- The object, page and code page a pool frame's line belongs to. -/
structure LCtx where
  obj : Nat
  tp : Nat
  k : Nat
  ix : Nat
  o : Obj
deriving DecidableEq, Repr

/-- What the frame table and the ledger say of a line. -/
def State.lineCtx (s : State) (la : Nat) : Option LCtx :=
  match s.frame? (la / 1024) with
  | none => none
  | some f => (s.obj? f.obj).map fun o => ⟨f.obj, f.tp, la / 64 % 16, o.mapBase + f.tp, o⟩

/-- The tweak of a line (R375): object offset and TWEAK_ID of a frame's line, else the DDA. -/
def State.tweakOf (s : State) (la : Nat) : Nat :=
  match s.lineCtx la with
  | some c => 1024 * c.tp + la % 1024 + 2 ^ 42 * (c.o.tweak % 2 ^ 32)
  | none => la % 2 ^ 37 + 2 ^ 127

/-- The metadata key of slot 0 (R383), which the 8120 derives from its device secret (log entry 8). -/
def metaKey : Nat := Config.cipher 11 [] % 2 ^ 512

/-- The XTS key of a line (Table 15.1): that of its object's slot, or slot 0. -/
def State.lineKey (s : State) (la : Nat) : Nat :=
  match s.lineCtx la with
  | some c => s.slotKey c.o.slot
  | none => metaKey

/-- What DRAM holds of a line's data: XTS ciphertext (R295; log entry 4). -/
def State.cipherLine (s : State) (la : Nat) : Line := xtsLine (s.lineKey la) (s.tweakOf la) (s.dline la).data

/-- The 40 symbols stored of a line on its ten devices (R294 to R296). -/
def State.storedForm (s : State) (la : Nat) : List Nat := storedSyms (s.cipherLine la) (s.dline la).st (64 * la)

/-- The page-code lines P and Q of code page k of a frame, over its lines as stored (R298). -/
def State.pageCode (s : State) (f k : Nat) : Nat × Nat :=
  let ls := (List.range 64).map fun j =>
    let la := 1024 * f + 64 * k + j
    pageLine (s.cipherLine la).toNat (s.dline la).st
  (pageP ls, pageQ ls)

/-- The line is served from a remap entry (R308). -/
def State.remapped (s : State) (la : Nat) : Bool :=
  (List.range 32).any fun e => s.fli .VALID (32 * s.chOf la + e) && s.rdi .LA (32 * s.chOf la + e) == la

/-- Two places lie in one row of a channel's bank. -/
def Loc.sameRow (a b : Loc) : Bool := (a.ch, a.sub, a.rank, a.bg, a.bank, a.row) == (b.ch, b.sub, b.rank, b.bg, b.bank, b.row)

/-- The line lies in the row that an online test holds fenced (R437), or in a row saved by a sliced retrain (R266); a
remapped line does not (R438). -/
def State.rowFenced (s : State) (la : Nat) : Bool :=
  let l := s.locate la
  !s.remapped la && ((s.bst.test == 6 && s.bst.step != 0 && l.ch == s.bst.ch && l.rank == s.bst.rank
      && (l.bg, l.bank, l.row) == s.unitPlace s.bst.unit)
    || s.drc.rowBuf.any fun e => (s.locate e.2).sameRow l)

/-- The flip is armed on this line (R315). -/
def State.flipHere (s : State) (la : Nat) : Bool :=
  s.fl .FLIP_ARM && (match s.frame? (la / 1024) with
    | some f => f.obj == s.rd .FLIP_OBJ && 1024 * f.tp + la % 1024 == s.rd .FLIP_LINE && f.use != 4
    | none => false)

/-- The devices a flip corrupts: a pattern of zeros corrupts none, and both patterns on one device add. -/
def State.flipDevs (s : State) : List Nat :=
  let a := s.rd .INT_FLIP_PAT_A
  let b := if s.fl .B_EN then s.rd .INT_FLIP_PAT_B else 0
  if s.rd .DEV_A = s.rd .DEV_B then (if a ^^^ b = 0 then [] else [s.rd .DEV_A])
  else (if a = 0 then [] else [s.rd .DEV_A]) ++ (if b = 0 then [] else [s.rd .DEV_B])

/-- The word that the flip adds to the stored symbols. -/
def State.flipSyms (s : State) : List Nat :=
  addSyms (devSyms (s.rd .DEV_A) (s.rd .INT_FLIP_PAT_A)) (if s.fl .B_EN then devSyms (s.rd .DEV_B) (s.rd .INT_FLIP_PAT_B) else devSyms 0 0)

/-- One corrupted read is used up (R315). -/
def State.flipUse (s : State) : State :=
  let n := s.rd .FLIP_READS - 1
  (s.wr .FLIP_READS n).when (n = 0) (·.setf .FLIP_ARM false)

/-- Read and decode the stored form of a line; `errs` are the devices that fail in this burst. A flip decodes by its
syndrome, the stored word's own being that of its status (Table 12.2); with failing devices, whose errors the operand
does not give, an error in one device is corrected and in more it is uncorrectable (R297; log entry 32). -/
def State.decode (s : State) (la : Nat) (errs : List Nat) : State × Dec × List Nat :=
  let errs := if s.remapped la then [] else errs.map (min 9)
  let devs := (errs ++ (if s.flipHere la then s.flipDevs else [])).eraseDups
  let st := (s.dline la).st
  let d : Dec := if errs.isEmpty && s.flipHere la then outcome (addSyms (syndrome s.flipSyms) (syndrome (patSyms st)))
    else if 2 ≤ devs.length then .uncorr
    else match st, devs with
      | .poison, _ => .poisoned
      | .marked, _ => .marked
      | .good, x :: _ => .corrected x
      | .good, [] => .good
  (s.when (s.flipHere la) State.flipUse, d, devs)

/-! ### Corrected errors, verify reads, remap -/

/-- The device of a line is marked (R310). -/
def State.devMarked (s : State) (l : Loc) (dev : Nat) : Bool :=
  bit (s.rdi .MARK_VALID l.ch) (2 * l.rank + l.sub) && bits (s.rdi .MARK_DEV l.ch) (4 * (2 * l.rank + l.sub)) 4 == dev

/-- The code of a device among all. -/
def devCode (l : Loc) (dev : Nat) : Nat := ((l.ch * 2 + l.sub) * 4 + l.rank) * 16 + dev

/-- Count a corrected decode, and mark the device at DEV_MARK_CE within 1 s over 16 rows (R310; times are
OP_TIME, 25,000,000 to a second). -/
def State.corrected (s : State) (la dev : Nat) : State :=
  let l := s.locate la
  let s := s.count .INT_CH_ERR_CE_CNT l.ch .INT_CH_FLAGS_CNT_OVF l.ch 0
  let now := s.rd .OP_TIME
  let log := (s.int.ceLog.filter fun x => decide (now < x.1 + 25000000)) ++ [(now, devCode l dev, l.row)]
  let s := { s with int := { s.int with ceLog := log } }
  let mine := log.filter fun x => x.2.1 == devCode l dev
  let lim := s.rd .DEV_MARK_CE
  let u := 2 * l.rank + l.sub
  if lim != 0 && decide (lim ≤ mine.length) && decide (16 ≤ (mine.map (·.2.2)).eraseDups.length)
      && !bit (s.rdi .MARK_VALID l.ch) u then
    let s := (s.setBitOf .MARK_VALID l.ch u true).wri .MARK_DEV l.ch (setBits (s.rdi .MARK_DEV l.ch) (4 * u) 4 dev)
    (s.record clsWarn 0 310 (item 4 l.ch ++ item 7 (16 * u + dev))).alert blkINT
  else s

/-- A write-back is verified (R306), unless the line is remapped already or known to fault. The write and its verify
read go through the line's slice with the front cache's tag (R252, R301), at SC3 (log entry 16). -/
def State.askVerify (s : State) (la : Nat) : State :=
  let s := s.dreq la 1 true .fch sc3
  if s.int.known.contains la then s
  else ({ s with int := { s.int with verify := withNat s.int.verify la } }).dreq la 1 false .fch sc3

/-- After a CORRECTED decode: counted, written back and verified, a marked device's line only counted. -/
def State.fixCorrected (s : State) (la dev : Nat) : State :=
  let m := s.devMarked (s.locate la) dev
  (s.corrected la dev).when (!m) (·.askVerify la)

/-- A line is written back with recovered contents and verified (R301, R302). -/
def State.fixLine (s : State) (la : Nat) (d : DLine) : State := (s.setDline la d).askVerify la

/-- Two entries of Table 12.3 name the same row, device and DIMM. -/
def sameRow (a b : Nat) : Bool := bits a 0 34 == bits b 0 34 && bits a 64 32 == bits b 64 32

/-- The pending repair list (R312): at most 1,024 entries; a full list drops its oldest KIND 0b10 entry. A row and
device already listed is not listed again (R440). -/
def State.addRepair (s : State) (e : Nat) : State :=
  if s.int.repair.any (sameRow e) then s
  else
    let old := if s.int.repair.length < 1024 then s.int.repair
      else match s.int.repair.find? fun x => bits x 34 2 == 2 with
        | some x => s.int.repair.erase x
        | none => s.int.repair
    if old.length < 1024 then { s with int := { s.int with repair := old ++ [e] } } else s

/-- Table 12.3 for a hard fault of a line. -/
def State.repairEntry (s : State) (la dev : Nat) : Nat :=
  let l := s.locate la
  l.ch + 2 ^ 4 * l.sub + 2 ^ 5 * (l.rank % 4) + 2 ^ 7 * dev + 2 ^ 11 * l.bg + 2 ^ 14 * l.bank
    + 2 ^ 16 * (l.row % 2 ^ 18) + 2 ^ 36 * 1 + 2 ^ 64 * (mget s.drc.sn (l.ch, l.rank)).getD 0

/-- A pool frame becomes retire-pending (R309), at most 64. -/
def State.retireFrame (s : State) (f : Nat) : State :=
  match s.frame? f with
  | none => s
  | some x =>
    if x.use = useRetired ∨ s.int.retire.contains f ∨ 64 ≤ s.int.retire.length then s
    else
      let s := { s with int := { s.int with retire := s.int.retire ++ [f] } }
      s.wr .RETIRE_PEND s.int.retire.length

/-- A hard fault (R308, R309): a remap entry, or a line served with correction from then on. -/
def State.hardFault (s : State) (la dev : Nat) : State :=
  if s.remapped la || s.int.known.contains la then s
  else
    let c := s.chOf la
    let s := s.addRepair (s.repairEntry la dev)
    match (if s.fl .REMAP_EN then (List.range 32).find? fun e => !s.fli .VALID (32 * c + e) else none) with
    | some e =>
      let i := 32 * c + e
      let s := ((s.setfi .VALID i true).wri .LA i la).wri .INT_REMAP_DEVICE i dev
      let s := s.setfi .SPPR_PEND i true
      s.wri .REMAP_USED c (s.rdi .REMAP_USED c + 1)
    | none =>
      let s := { s with int := { s.int with known := s.int.known ++ [la] } }
      let s := s.when (s.fl .REMAP_EN) (·.setf .REMAP_FULL true)
      let s := s.record clsWarn 0 309 (item 4 c ++ item 2 (64 * la))
      if poolBase ≤ la / 1024 then s.retireFrame (la / 1024) else s.alert blkINT

/-! ### Rungs of the ladder -/

/-- The windows through which hosts see a line. -/
def State.winsAt (s : State) (la : Nat) : List (Key × Win) :=
  match s.frame? (la / 1024) with
  | none => []
  | some f => s.md.wins.filter fun e => e.2.obj == f.obj && decide (e.2.objPn ≤ f.tp) && decide (f.tp < e.2.objPn + e.2.wlen)

/-- A DRAM event record (0, an uncorrectable line) or a General Media event record (1, a line stored poisoned) joins
the mailbox's list (R96), and the event interrupt goes to the functions of the LDs that map the line, entry 0 (log
entry 21). -/
def State.mediaEvent (s : State) (kind la : Nat) : State :=
  let s := { s with prt := { s.prt with events := s.prt.events ++ [(kind, la)] } }
  s.each ((s.winsAt la).map (·.1.1)).eraseDups fun s i => s.send (.msix (i / 16) (i % 16) 0)

/-- The first read and the one retry (R302): `some true` good data, `some false` a line stored poisoned,
`none` on to the next rung, with whether the line is MARKED. UE_CNT counts a line that goes on. -/
def State.firstRungs (s : State) (la : Nat) (e1 e2 : List Nat) : State × Option Bool × Bool :=
  let up := fun (s : State) => s.count .INT_CH_ERR_UE_CNT (s.chOf la) .INT_CH_FLAGS_CNT_OVF (s.chOf la) 1
  let r := s.decode la e1
  match r.2.1 with
  | .good => (r.1, some true, false)
  | .corrected x => (r.1.fixCorrected la x, some true, false)
  | .poisoned => (r.1, some false, false)
  | .marked => (up r.1, none, true)
  | .uncorr =>
    let t := r.1.decode la e2
    match t.2.1 with
    | .good => (t.1.askVerify la, some true, false)
    | .corrected x => (t.1.fixCorrected la x, some true, false)
    | .poisoned => (t.1, some false, false)
    | .marked => (up t.1, none, true)
    | .uncorr => (up t.1, none, false)

/-- The page code of a line's code page is valid (R299) but for its page-code lines' own decoding. -/
def State.pageCodeValid (s : State) (c : LCtx) (f : Nat) : Bool :=
  let e := s.mapE c.ix
  (c.o.persist || c.o.kind == 2) && e.st == .t1 && e.frame == f && (e.cpSt c.k == 0 || e.cpSt c.k == 3)
    && !s.int.recode.contains (f, c.k) && !s.int.pcLost.contains (f, c.k)

/-- The page-code rung (R302): `others` are further lines of the code page that fail in this reading, `pq`
that both page-code lines decode. A stored MARKED line of the page fails too, and what P and Q give for it is
a free value (log entry 6). The second part says that the line was rebuilt. -/
def State.pageRung (s : State) (la : Nat) (c : LCtx) (others : List Nat) (pq : Bool) : State × Bool :=
  let f := la / 1024
  if !s.pageCodeValid c f then (s, false)
  else if !pq then ({ s with int := { s.int with pcLost := (f, c.k) :: s.int.pcLost } }, false)
  else
    let base := la / 64 * 64
    let fails := (List.range 64).filter fun j => base + j != la
      && (others.contains j || (s.dline (base + j)).st == .marked)
    if 1 < fails.length then (s, false)
    else
      let cnt := fun (s : State) (x : Nat) => s.count .REBUILD_CNT (s.chOf x) .INT_CH_FLAGS_CNT_OVF (s.chOf x) 2
      let s := s.each fails fun s j =>
        let x := base + j
        let s := if (s.dline x).st = .marked then (s.setDline x ⟨BitVec.ofNat 512 s.freeVal, .good⟩).freeNext else s
        (cnt s x).askVerify x
      ((cnt s la).askVerify la, true)

/-- The listed lines of code page k of a page that is not resident: its vault copy while CP_STATE is
0b11, else its home (Table 07.5); a home never programmed reads as zero (R173). -/
def State.coldCp (s : State) (obj tp : Nat) (e : MapE) (k : Nat) : List (Nat × DLine) :=
  if e.cpSt k = 3 then (mget s.nfc.vault (obj, 16 * tp + k)).getD []
  else (mget s.nfc.homes (e.home, k)).getD []

/-- The home rung may be climbed (R302): the code page is settled or vaulted and its page has a home. -/
def State.homeOpen (s : State) (c : LCtx) : Bool :=
  let e := s.mapE c.ix
  (c.o.persist || c.o.kind == 2) && (e.cpSt c.k == 0 || e.cpSt c.k == 3)

/-- The line as home or vault holds it: a sentinel line is poison (R305), a chunk never programmed zeros
(R173). -/
def State.homeLine (s : State) (c : LCtx) (la : Nat) : DLine :=
  (((s.coldCp c.obj c.tp (s.mapE c.ix) c.k).find? fun x => x.1 == la % 64).map (·.2)).getD zeroLine

/-- The home rung succeeded: HOME_CNT, and the line is written back and verified. -/
def State.homeFix (s : State) (c : LCtx) (la : Nat) : State :=
  (s.count .HOME_CNT (s.chOf la) .INT_CH_FLAGS_CNT_OVF (s.chOf la) 3).fixLine la (s.homeLine c la)

/-- The twin rung is open (R303, R307). -/
def State.twinOpen (s : State) (o : Obj) : Bool :=
  (o.mirror || o.kind == 2) && s.mirUp && s.rd .STATE != mirSolo && s.rd .STATE != mirFenced
    && !(s.draining && !s.drain.railsUp)

/-- The newest of the own records that holds a line, open or not acknowledged, with the line's value
(R303). -/
def State.ownRecord (s : State) (obj ln : Nat) : Option DLine :=
  let rs := s.unacked.filter fun r => r.obj == obj && r.cpage == ln / 64 && (r.ty == .data || r.ty == .atomic)
    && r.lines.any fun x => x.1 == ln % 64
  let best := rs.foldl (fun (b : Option MRec) r => match b with
    | none => some r
    | some x => if x.ssn ≤ r.ssn then some r else some x) none
  best.map fun r =>
    let i := (r.lines.map (·.1)).findIdx (· == ln % 64)
    let isOpen := s.mir.opn.any fun e => e.2.ssn == r.ssn
    let p := if isOpen then bit r.poison (ln % 64) else bit r.poison i
    ⟨((r.lines.find? fun x => x.1 == ln % 64).map (·.2)).getD 0, if p then .poison else .good⟩

/-- The twin rung gave the line: TWIN_CNT, written back and verified. -/
def State.twinFix (s : State) (la : Nat) (d : DLine) : State :=
  (s.count .TWIN_CNT (s.chOf la) .INT_CH_FLAGS_CNT_OVF (s.chOf la) 4).fixLine la d

/-- Every rung failed: the line is stored poisoned, counted and recorded with the rung reached (R302,
R304), and the mailbox lists it (R96). -/
def State.ladderFail (s : State) (la rung dom : Nat) : State :=
  let f := (s.frame? (la / 1024)).getD ⟨0, 0, 0, 0, 0, false, 0⟩
  let s := s.writeDram la ⟨(s.dline la).data, .poison⟩ .fch sc3
  let s := s.count .POISON_CNT (s.chOf la) .INT_CH_FLAGS_CNT_OVF (s.chOf la) 5
  (s.record clsError dom 304 (item 1 f.obj ++ item 2 (65536 * f.tp + 64 * (la % 1024)) ++ item 7 rung)).mediaEvent 0 la

/-- The whole ladder within one step, for a command, a packet, a settle, scrub or another reader of its own;
`e1` and `e2` are the devices in error at the read and the retry, `fail` says that every later rung fails
too. False when the line ends poisoned; a twin fetch brings the line as the twin holds it, which is its value
(R50). -/
def State.ladderRun (s : State) (la dom : Nat) (e1 e2 : List Nat) (fail : Bool) : State × Bool :=
  let r := s.firstRungs la e1 e2
  match r.2.1 with
  | some b => (r.1, b)
  | none =>
    match r.1.lineCtx la with
    | none => (r.1.ladderFail la 1 dom, false)
    | some c =>
      let s := r.1
      let p := if r.2.2 || fail then (s, false) else s.pageRung la c [] true
      if p.2 then (p.1, true)
      else
        let s := p.1
        if s.homeOpen c && !fail then (s.homeFix c la, (s.homeLine c la).st == .good)
        else if s.twinOpen c.o && !fail then
          match (if c.o.kind == 1 then s.ownRecord c.obj (1024 * c.tp + la % 1024) else none) with
          | some d => (s.twinFix la d, d.st == .good)
          | none => (s.twinFix la ⟨(s.dline la).data, .good⟩, true)
        else (s.ladderFail la (if s.homeOpen c then 3 else if s.pageCodeValid c (la / 1024) then 2 else 1) dom, false)

/-- The ladder of a line that reads without error, or fails on every rung. -/
def State.ladderNow (s : State) (la dom : Nat) (fail : Bool) : State × Bool :=
  let errs := if fail then [0, 1] else []
  s.ladderRun la dom errs errs fail

/-- Lines of an object that a reader of its own takes from DRAM (not from the front cache) pass the ladder
where they could fail: those listed in `bad`, stored marked, or under the flip mask. The second part lists
the lines that ended poisoned in this reading. -/
def State.probeLines (s : State) (o : Obj) (dom : Nat) (lns bad : List Nat) : State × List Nat :=
  lns.foldl (fun (x : State × List Nat) ln =>
    let s := x.1
    let e := s.mapE (o.mapBase + ln / 1024)
    let la := 1024 * e.frame + ln % 1024
    if e.st != .t1 || (s.cline? la).isSome then x
    else if !(bad.contains ln || s.flipHere la || (s.dline la).st == .marked) then x
    else if (s.dline la).st == .poison && !s.flipHere la then x
    else
      let r := (s.flushEvict la).ladderNow la dom (bad.contains ln)
      (r.1, if r.2 then x.2 else x.2 ++ [ln])) (s, [])

/-- The lines of code page k of a frame as a settle, a move or a drain reads them: those that could fail
pass the ladder first; `bad` lists the line addresses that fail on every rung. -/
def State.probeCp (s : State) (f k dom : Nat) (bad : List Nat) : State :=
  s.each (List.range 64) fun s j =>
    let la := 1024 * f + 64 * k + j
    if bad.contains la || s.flipHere la || (s.dline la).st == .marked then
      if (s.dline la).st == .poison && !s.flipHere la then s else (s.ladderNow la dom (bad.contains la)).1
    else s

end Sys2Proof.Machine
end

