-- ==== Sys2Proof/Machine/Operands.lean ====
section
/-! DEFINITION. The operand forms of commands: the submission-entry layouts of 06_command_set.md, their
format checks (R114, R138), range locks (R125, R137) and SGL (R142). -/

namespace Sys2Proof.Machine

/-- Opcodes of Table 06.1. -/
def opRead : Nat := 0x01
/-- WRITE. -/
def opWrite : Nat := 0x02
/-- WRITE_ATOMIC. -/
def opAtomic : Nat := 0x03
/-- COPY. -/
def opCopy : Nat := 0x04
/-- FILL. -/
def opFill : Nat := 0x05
/-- SETTLE. -/
def opSettle : Nat := 0x08
/-- OBJ_CREATE. -/
def opCreate : Nat := 0x10
/-- OBJ_DELETE. -/
def opDelete : Nat := 0x11
/-- OBJ_RESIZE. -/
def opResize : Nat := 0x12
/-- OBJ_ATTR. -/
def opAttr : Nat := 0x13
/-- WINDOW_MAP. -/
def opMap : Nat := 0x18
/-- WINDOW_UNMAP. -/
def opUnmap : Nat := 0x19
/-- PLACE. -/
def opPlace : Nat := 0x20
/-- HOLD. -/
def opHold : Nat := 0x21
/-- RELEASE. -/
def opRelease : Nat := 0x22
/-- STREAM_POST. -/
def opStream : Nat := 0x24
/-- STREAM_CANCEL. -/
def opCancel : Nat := 0x25
/-- SEAL. -/
def opSeal : Nat := 0x30
/-- UNSEAL. -/
def opUnseal : Nat := 0x31
/-- LOG_READ. -/
def opLog : Nat := 0x38
/-- NOP. -/
def opNop : Nat := 0x3F

/-- Word i of an SQE (byte offset 8 * i). -/
def sqeW (ws : List Nat) (i : Nat) : Nat := ws.getD i 0 % 2 ^ 64

/-- OPCODE (Table 05.1). -/
def sqeOp (ws : List Nat) : Nat := bits (sqeW ws 0) 0 8
/-- NO_INT (Table 05.1). -/
def sqeNoInt (ws : List Nat) : Bool := bit (sqeW ws 0) 8
/-- CID (Table 05.1). -/
def sqeCid (ws : List Nat) : Nat := bits (sqeW ws 0) 16 16
/-- OBJ_ID, SRC_OBJ or REQ_ID. -/
def sqeObj (ws : List Nat) : Nat := bits (sqeW ws 1) 0 32
/-- WIN (Table 06.4). -/
def sqeWin (ws : List Nat) : Bool := bit (sqeW ws 1) 32
/-- SGL (Table 06.4). -/
def sqeSgl (ws : List Nat) : Bool :=
  (sqeOp ws == opRead || sqeOp ws == opWrite || sqeOp ws == opAtomic) && bit (sqeW ws 1) 33
/-- OFFSET, or SIZE of Table 06.9. -/
def sqeOfs (ws : List Nat) : Nat := bits (sqeW ws 2) 0 48
/-- LENGTH of the data commands and SEAL, UNSEAL; COPY has it at 0x20. -/
def sqeLen (ws : List Nat) : Nat :=
  if sqeOp ws = opCopy then bits (sqeW ws 4) 0 40 else bits (sqeW ws 3) 0 40
/-- HOST_ADDR or PATTERN. -/
def sqeAddr (ws : List Nat) : Nat := sqeW ws 4

/-- The bits each opcode's layout names, word by word; every other bit is reserved (R114). -/
def sqeMask (op : Nat) (ws : List Nat) : Option (List Nat) :=
  let m := fun n => 2 ^ n - 1
  let h := 0xFFFF01FF
  if op = opRead ∨ op = opWrite ∨ op = opAtomic then some [h, m 34, m 48, m 40, m 64, 0, 0, 0]
  else if op = opFill then some [h, m 33, m 48, m 40, m 64, 0, 0, 0]
  else if op = opCopy then some [h, m 64, m 50, m 48, m 40, 0, 0, 0]
  else if op = opSettle then some [h, 1, 0, 0, 0, 0, 0, 0]
  else if op = opCreate then some [h, m 40, m 48, m 18, 0, 0, 0, 0]
  else if op = opDelete then some [h, m 32, 0, 0, 0, 0, 0, 0]
  else if op = opResize then some [h, m 32, m 48, 0, 0, 0, 0, 0]
  else if op = opAttr then some [h, m 32, 0, m 18 + m 18 * 2 ^ 32, 0, 0, 0, 0]
  else if op = opMap then
    some [h, m 32 + 2 ^ 40 + 2 ^ 41 + (if bit (sqeW ws 1) 41 then m 7 * 2 ^ 42 else 0), m 48, 0, m 47, m 48, 0, 0]
  else if op = opUnmap then
    some [h, m 32 + 2 ^ 41 + (if bit (sqeW ws 1) 41 then m 7 * 2 ^ 42 else 0), 0, 0, m 47, 0, 0, 0]
  else if op = opPlace then
    some [h, m 34, m 48, m 48, if bits (sqeW ws 1) 32 2 = 3 then m 64 else 0, 0, 0, 0]
  else if op = opHold then some [h, m 34, 0, 0, 0, 0, 0, 0]
  else if op = opRelease then some [h, m 32, 0, 0, 0, 0, 0, 0]
  else if op = opStream then some [h, m 32 * 2 ^ 32, 0, 0, m 64, 0, 0, 0]
  else if op = opCancel then some [h, m 16 * 2 ^ 32, 0, 0, 0, 0, 0, 0]
  else if op = opSeal ∨ op = opUnseal then some [h, m 45, m 48, m 40, m 64, m 64, m 32, m 64]
  else if op = opLog then some [h, m 64, m 64, m 32, 0, 0, 0, 0]
  else if op = opNop then some [h, 0, 0, 0, 0, 0, 0, 0]
  else none

/-- Detail 0x0003: the lengths, counts and sizes of Tables 06.5, 06.9, 06.10 and 06.12 lie in their
limits. -/
def sqeLenOk (op : Nat) (ws : List Nat) : Bool :=
  let inr := fun (v lo hi : Nat) => decide (lo ≤ v) && decide (v ≤ hi)
  if op = opRead ∨ op = opWrite ∨ op = opCopy then inr (sqeLen ws) 1 (2 ^ 26)
  else if op = opFill then inr (sqeLen ws) 1 (2 ^ 36)
  else if op = opAtomic then inr (sqeLen ws) 4096 (2 ^ 20)
  else if op = opSeal ∨ op = opUnseal then inr (sqeLen ws) 1 (2 ^ 20)
  else if op = opCreate ∨ op = opResize then inr (sqeOfs ws) 0 (2 ^ 48 - 65536)
  else if op = opMap then inr (bits (sqeW ws 5) 0 48) 1 (2 ^ 48)
  else if op = opPlace then inr (bits (sqeW ws 3) 0 48) 1 (2 ^ 48)
  else if op = opStream then inr (bits (sqeW ws 1) 48 16) 1 65535
  else if op = opLog then inr (bits (sqeW ws 3) 0 32) 1024 (2 ^ 20)
  else true

/-- Detail 0x0004: the alignments of Tables 06.5, 06.9 and 06.10, R192 and R203. -/
def sqeAlignOk (op : Nat) (ws : List Nat) : Bool :=
  if op = opAtomic then sqeOfs ws % 4096 == 0 && sqeLen ws % 4096 == 0
  else if op = opMap then sqeOfs ws % 65536 == 0 && sqeW ws 4 % 65536 == 0 && sqeW ws 5 % 65536 == 0
  else if op = opUnmap then sqeW ws 4 % 65536 == 0
  else if op = opPlace then sqeOfs ws % 65536 == 0 && sqeW ws 3 % 65536 == 0
    && (bits (sqeW ws 1) 32 2 != 3 || sqeW ws 4 % 65536 == 0)
  else if op = opStream then sqeW ws 4 % 32 == 0
  else true

/-- The format checks made at fetch, in code order: 0 passes, else the detail code (R138). -/
def sqeCheck (ws : List Nat) : Nat :=
  let op := sqeOp ws
  match sqeMask op ws with
  | none => 1
  | some ms =>
    if (List.range 8).any fun i => (sqeW ws i &&& (2 ^ 64 - 1 - ms.getD i 0)) != 0 then 2
    else if !sqeLenOk op ws then 3
    else if !sqeAlignOk op ws then 4 else 0

/-- The opcodes whose change is a metadata-journal entry (Table 02.2). -/
def isMetaOp (op : Nat) : Bool :=
  [opCreate, opDelete, opResize, opAttr, opMap, opUnmap, opPlace, opHold, opRelease].contains op

/-- The last line of any object. -/
def lastLine : Nat := 2 ^ 42 - 1

/-- A command's range locks (R125, R137, R149). -/
def cmdLocks (c : Cmd) : List Lock :=
  let op := sqeOp c.words
  let len := sqeLen c.words
  let line := fun o x => Lock.mk c.uid o (x / 64) ((x + len - 1) / 64)
  if c.terr then []
  else if op = opRead ∨ op = opSeal then [line c.tobj c.tofs false]
  else if op = opWrite ∨ op = opFill ∨ op = opUnseal then [line c.tobj c.tofs true]
  else if op = opAtomic then
    [⟨c.uid, c.tobj, c.tofs / 65536 * 1024, (c.tofs + len - 1) / 65536 * 1024 + 1023, true⟩]
  else if op = opCopy then [line c.tobj c.tofs false, line c.tobj2 c.tofs2 true]
  else if op = opCreate then (if sqeObj c.words = 0 then [] else [⟨c.uid, sqeObj c.words, 0, lastLine, true⟩])
  else if op = opDelete ∨ op = opResize ∨ op = opAttr ∨ op = opMap ∨ op = opUnmap then
    [⟨c.uid, sqeObj c.words, 0, lastLine, true⟩]
  else []

/-- R142: 1 to 4,096 entries of nonzero length and zero reserved bits that sum to LENGTH, the list 16 B
aligned. -/
def sglOk (addr len : Nat) (es : List SglE) : Bool :=
  addr % 16 == 0 && decide (1 ≤ es.length) && decide (es.length ≤ 4096) &&
    es.all (fun e => e.len != 0 && e.rsv == 0) && (es.map (·.len)).foldl (· + ·) 0 == len

/-- The object and offset that one window of an LD maps a whole DPA range to (R140). -/
def State.winMaps (s : State) (k j dpa len : Nat) : Option (Nat × Nat) :=
  match s.window? k j (dpa / 65536) with
  | none => none
  | some (kk, w) =>
    if (kk.2 + w.wlen) * 65536 < dpa + len then none
    else some (w.obj, (w.objPn + dpa / 65536 - kk.2) * 65536 + dpa % 65536)

/-- R140: the translation at fetch, within the LD's capacity and off the settle page. -/
def State.winRange (s : State) (k j dpa len : Nat) : Option (Nat × Nat) :=
  let i := ldIx k j
  let pg := s.rdi .SETTLE_PFN i * 4096
  if (List.range ((dpa + len - 1) / 2 ^ 28 + 1 - dpa / 2 ^ 28)).any fun b => !s.inCapacity k j ((dpa / 2 ^ 28 + b) * 2 ^ 28) then none
  else if s.fli .SETTLE_EN i && spansMeet dpa len pg 4096 then none
  else s.winMaps k j dpa len

/-! ### Occupancy -/

/-- Commands of a queue pair. -/
def State.cmdsOf (s : State) (q : Nat) : List Cmd := s.cmd.cmds.filter fun c => c.qp == q

/-- The occupancy fields of the command engine follow its tables (R124, R135). -/
def State.cmdRegs (s : State) : State :=
  let s := s.wr .EXEC_USED (s.cmd.cmds.filter fun c => c.ph == .running).length
  let s := s.wr .WAIT_USED (s.cmd.cmds.filter fun c => c.ph == .waiting).length
  let s := s.wr .LOCK_USED s.cmd.locks.length
  s.wr .LOCK_PEAK (max (s.rd .LOCK_PEAK) s.cmd.locks.length)

/-- Reservations of a queue pair: fetched and not yet posted (R120). -/
def State.reservations (s : State) (q : Nat) : Nat := (s.cmdsOf q).length

/-- INFLIGHT shows the reservations. -/
def State.inflightReg (s : State) (q : Nat) : State := s.wri .INFLIGHT q (s.reservations q)

/-- Enter the locks of fetched commands in fetch order while the table of 4,096 has the entries (R127). -/
def State.enterLocks (s : State) : State :=
  s.each s.cmd.cmds fun s c =>
    if c.needLocks = 0 then s
    else if (s.cmd.cmds.find? fun x => x.needLocks != 0).map (·.uid) == some c.uid
        && decide (s.cmd.locks.length + c.needLocks ≤ 4096) then
      ({ s with cmd := { s.cmd with locks := s.cmd.locks ++ cmdLocks c } }).updCmd c.uid fun c => { c with needLocks := 0 }
    else s

end Sys2Proof.Machine
end

