-- ==== Sys2Proof/Machine/Ports.lean ====
section
/-! DEFINITION. The CXL host ports (04_fabric_ports.md): meanings of the port, snoop, fence and mailbox
commands. -/

namespace Sys2Proof.Machine

/-- The outcome of every command of this model: it goes on. -/
abbrev Out := Host.Outcome State Fault Refusal

/-- The address of a line in DRAM for an LD's DPA, when its page is in a frame. -/
def State.dpaLa (s : State) (k j dpa : Nat) : Option Nat :=
  (s.window? k j (dpa / 65536)).bind fun w => (s.own? w.2.obj).bind fun o =>
    let e := s.mapE (o.mapBase + (w.2.objPn + dpa / 65536 - w.1.2))
    if e.st = .t1 ∨ e.st = .leaving ∨ e.st = .fetching then some (1024 * e.frame + dpa / 64 % 1024) else none

/-- A write that reaches the port: for a line with a snoop outstanding on its link it is a snoop write-back (R93). On
a link that returns no write credits a write waits at its host (R99); a snoop write-back has its entry. -/
def State.portWrite (s : State) (r : HostReq) : State :=
  let wb := (s.dpaLa r.link r.ld r.dpa).any (s.snooped r.link)
  if s.prt.stopped.contains r.link && !wb then { s with prt := { s.prt with atHost := s.prt.atHost ++ [r] } }
  else (s.serveHost { r with snoopWb := wb }).creditStop r.link

/-- CXL_MEM_WRITE (R19). -/
def execCxlMemWrite (link ld dpa mty tag : Nat) (data : Line) (mask : Mask) (poison : Bool) (s : State) : Out :=
  .next (s.portWrite ⟨link, ld, dpa, tag, mty, true, data, mask, poison, false, 0⟩)

/-- SETTLE_PAGE_STORE (R103): a store at the LD's settle page. -/
def execSettlePageStore (link ld tag : Nat) (s : State) : Out :=
  .next (s.portWrite ⟨link, ld, s.rdi .SETTLE_PFN (ldIx link ld) * 4096, tag, 0, true, 0, fullMask, false, false, 0⟩)

/-- SETTLE_PAGE_TIMEOUT (R40): the store's completion is released while its fence stays pending. -/
def execSettlePageTimeout (link ld tag : Nat) (s : State) : Out :=
  match s.fences.find? fun f => f.src == .page link ld tag && !f.freed with
  | some f =>
    let s := { s with fences := s.fences.map fun g => if g = f then { g with freed := true } else g }
    .next (s.complete link ld tag)
  | none => .next s

/-- SNOOP_WRITE_BACK (R93, R94): a write for a line with a snoop outstanding on its link; the answer to
a lost snoop is discarded and recorded. -/
def execSnoopWriteBack (link ld dpa mty tag : Nat) (data : Line) (mask : Mask) (poison : Bool) (s : State) : Out :=
  let r : HostReq := ⟨link, ld, dpa, tag, mty, true, data, mask, poison, false, 0⟩
  match (s.dpaLa link ld dpa).filter fun la => s.prt.lost.contains (link, la) with
  | some la =>
    let s := { s with prt := { s.prt with lost := s.prt.lost.erase (link, la) } }
    .next ((s.record clsError (s.ldDom link ld) 94 (item 3 (link + 8 * ld) ++ item 2 dpa)).doneWrite r)
  | none => .next (s.portWrite r).wakePages

/-- A snoop write-back of one of a snoop's lines has not taken effect yet (R93): it waits, or its fill is not back. -/
def State.wbPending (s : State) (x : Snoop) : Bool :=
  let wb := fun r : HostReq => r.snoopWb && (s.dpaLa r.link r.ld r.dpa).any (x.covers r.link)
  s.waits.any (fun w => match w.ent with
    | .host r => wb r
    | _ => false) || s.fch.mrs.any fun e => e.2.reqs.any fun q => match q.who with
      | .host r => wb r
      | _ => false

/-- A snoop is over: the filter forgets the link's copies of its lines, and the next waiting snoop of the link is
sent (R92). -/
def State.snoopEnd (s : State) (x : Snoop) : State :=
  let s := { s with fch := { s.fch with snoops := s.fch.snoops.filter fun y => !(y.link == x.link && y.la == x.la) } }
  let s := s.each (List.range x.n) fun s i => s.sfDrop x.link (x.la + i)
  match s.fch.snoops.find? fun y => y.link == x.link && !y.sent with
  | some y =>
    ({ s with fch := { s.fch with snoops := s.fch.snoops.map fun z => if z = y then { z with sent := true } else z } }).send
      y.msg
  | none => s

/-! ### Dynamic capacity (R91) -/

/-- FM API and mailbox status codes: success, and Resources Exhausted (R91). -/
def stOk : Nat := 0
/-- Resources Exhausted. -/
def stExhausted : Nat := 0x0B
/-- Invalid Input; where the spec gives no status the model answers it (log entry 18). -/
def stInvalid : Nat := 2

/-- DC regions of an LD (Table 04.1). -/
def dcRegions : Nat := 2

/-- The duration of GPF phase 2 that the GPF DVSEC advertises, in ms (R39, Table 04.1). -/
def gpfPhase2Ms : Nat := 1

/-- The Memory_Active_Timeout that the 8120 advertises, in s (R105). -/
def memActiveTimeoutS : Nat := 4

/-- The accepted extents of an LD. -/
def State.extentsOf (s : State) (link ld : Nat) : List Extent := s.md.extents.filter fun e => e.link == link && e.ld == ld

/-- The settle page of an LD lies within its static capacity, or SETTLE_EN clears (R102). -/
def State.settleCheck (s : State) (i : Nat) : State :=
  if s.rdi .LD_CAP_256M i * 2 ^ 28 < s.rdi .SETTLE_PFN i * 4096 + 4096 then s.setfi .SETTLE_EN i false else s

/-- DC_EXTENTS follows the accepted extents. -/
def State.dcRegs (s : State) (link ld : Nat) : State := s.wri .DC_EXTENTS (ldIx link ld) (s.extentsOf link ld).length

/-- Some accepted extent of an LD holds block b. -/
def State.hasBlock (s : State) (link ld b : Nat) : Bool :=
  (s.extentsOf link ld).any fun e => decide (e.start ≤ b) && decide (b < e.start + e.len)

/-- What is left of an extent without the blocks of another. -/
def Extent.minus (e x : Extent) : List Extent :=
  if e.link ≠ x.link ∨ e.ld ≠ x.ld ∨ e.start + e.len ≤ x.start ∨ x.start + x.len ≤ e.start then [e]
  else (if e.start < x.start then [{ e with len := x.start - e.start }] else [])
    ++ (if x.start + x.len < e.start + e.len then [{ e with start := x.start + x.len, len := e.start + e.len - (x.start + x.len) }]
      else [])

/-- The frames of a window's resident pages. -/
def State.winFrames (s : State) (k : Key) (w : Win) : List Nat :=
  match s.own? w.obj with
  | none => []
  | some o => (List.range w.wlen).filterMap fun i =>
      let e := s.mapE (o.mapBase + w.objPn + i)
      if e.st = .t1 ∧ k.2 ≤ k.2 + i then some e.frame else none

/-- Back-invalidate the frames given and say whether no host copy is left (R92). -/
def State.invalFrames (s : State) (fs : List Nat) : State := s.each fs State.snoopFrame

/-- No host copy of any frame given. -/
def State.framesClear (s : State) (fs : List Nat) : Bool := fs.all s.noCopies

/-- Remove windows, journalled, with WIN_CNT of their objects (R157, R166). -/
def winDropOps (s : State) (ks : List (Key × Win)) : List JOp :=
  ks.flatMap fun e =>
    let o := (s.obj? e.2.obj).map fun o => { o with winCnt := o.winCnt - (ks.filter fun x => x.2.obj == e.2.obj).length }
    [.win e.1 none, .obj e.2.obj o]

/-- The windows of an LD that reach into an extent. -/
def State.winsIn (s : State) (x : Extent) : List (Key × Win) :=
  s.md.wins.filter fun e => e.1.1 == ldIx x.link x.ld && decide (e.1.2 < (x.start + x.len) * 4096)
    && decide (x.start * 4096 < e.1.2 + e.2.wlen)

/-- The frames of the windows of an LD that reach into an extent. -/
def State.extentFrames (s : State) (x : Extent) : List Nat := (s.winsIn x).flatMap fun e => s.winFrames e.1 e.2

/-- An add that its journal charge admits is accepted (R91, R109). -/
def State.dcAdd (s : State) (x : Extent) : State :=
  ((s.journal [.extents (s.md.extents ++ [x])]).dcRegs x.link x.ld).send (.fm 0x5604 stOk [])

/-- A release without host copies ends (R91): the windows' lines are written back, the windows are removed as
WINDOW_UNMAP removes them, and the blocks are unmapped. -/
def State.dcRelease (s : State) (x : Extent) : State :=
  let ks := s.winsIn x
  let s := s.each (s.extentFrames x) fun s f => s.cleanFrame f sc2
  let s := s.journal (winDropOps s ks ++ [.extents (s.md.extents.flatMap fun e => e.minus x)])
  let s := s.each (ks.map (·.2.obj)).eraseDups fun s id => match s.obj? id with
    | some o => if o.mirror then s.mirMeta id [.obj id (some o)] (s.ldDom x.link x.ld) else s
    | none => s
  (s.dcRegs x.link x.ld).send (.fm 0x5605 stOk [])

/-- A DC change can take effect: its journal charge is admitted, and no host copy is left in a released extent. -/
def State.dcReady (s : State) (x : Bool × Extent) : Bool :=
  s.canJournal && (x.1 || (s.framesClear (s.extentFrames x.2) && !(s.extentFrames x.2).any s.fillsOn))

/-- The pending DC changes that can take effect do. -/
def State.dcRun (s : State) : State :=
  s.each s.prt.dcPend fun s x =>
    if s.dcReady x then
      let s := { s with prt := { s.prt with dcPend := s.prt.dcPend.erase x } }
      if x.1 then s.dcAdd x.2 else s.dcRelease x.2
    else s

/-! ### Ends of snoops -/

/-- A snoop is over and the requests that waited for snoops go on (R92, R93), as do DC releases (R91). -/
def State.snoopOver (s : State) (x : Snoop) : State := ((s.snoopEnd x).rerun fun w => w.why == .snoop).dcRun

/-- Snoops whose BIRsp came end once their write-backs have taken effect (R93). -/
def State.snoopsAnswered (s : State) : State :=
  s.each (s.fch.snoops.filter (·.ans)) fun s x => if s.wbPending x then s else s.snoopOver x

/-- The snoop sent on a link for a line. -/
def State.sentSnoop (s : State) (link la : Nat) : Option Snoop :=
  s.fch.snoops.find? fun x => x.link == link && x.la == la && x.sent

/-- BIRSP (R93): the operation that issued the snoop waits with a write-back that waits. -/
def execBirsp (link la : Nat) (s : State) : Out :=
  match s.sentSnoop link la with
  | none => .next s
  | some x =>
    .next (if s.wbPending x then
      { s with fch := { s.fch with snoops := s.fch.snoops.map fun y => if y = x then { y with ans := true } else y } }
      else s.snoopOver x)

/-- The LD of a link through which a line is mapped, with the line's DPA there: for the settle page its own LD, else
the first window of the link on the line's page; LD 0 and the line's address when none maps it now. -/
def State.ldOf (s : State) (link la : Nat) : Nat × Nat :=
  if 2 ^ 40 ≤ la then ((la - 2 ^ 40) % 16, s.rdi .SETTLE_PFN (la - 2 ^ 40) * 4096)
  else
    (((s.winsAt la).find? fun e => e.1.1 / 16 == link).map fun e =>
      (e.1.1 % 16, (e.1.2 + ((s.frame? (la / 1024)).map (·.tp)).getD 0 - e.2.objPn) * 65536 + la % 1024 * 64)).getD (0, 64 * la)

/-- BI_TIMEOUT (R94): the host's copy is marked lost. -/
def execBiTimeout (link la : Nat) (s : State) : Out :=
  match s.sentSnoop link la with
  | none => .next s
  | some x =>
    let s := { s with prt := { s.prt with lost := s.prt.lost ++ (List.range x.n).map fun i => (link, la + i) } }
    let at' := s.ldOf link la
    let s := s.record clsError (s.ldDom link at'.1) 94 (item 3 (link + 8 * at'.1) ++ item 2 at'.2)
    let s := (s.count .BI_TIMEOUT_CNT link .PRT_LINK_FLAGS_CNT_OVF link 1).alert blkPRT
    .next (s.snoopOver x)

/-- The domains bound to LDs of a port (R39), each once. -/
def State.portDomains (s : State) (p : Nat) : List Nat :=
  ((List.range 32).filterMap fun n =>
    let k := 2 * p + n / 16
    if s.ldExists k (n % 16) && s.fli .LD_EN (ldIx k (n % 16)) then some (s.ldDom k (n % 16)) else none).eraseDups

/-- GPF_PHASE_2 (R39): one fence per domain bound to an LD of the port. -/
def execGpfPhase2 (port : Nat) (s : State) : Out :=
  if s.prt.gpf.contains port || s.draining then .next s
  else
    let ds := s.portDomains port
    let s := s.each ds fun s d => s.acceptFence (.gpf port) d 0
    let s := { s with prt := { s.prt with gpf := s.prt.gpf ++ [port] } }
    .next (s.gpfCheck port)

/-- GPF_PHASE2_TIMEOUT (R39): one record per affected domain, and phase 2 completes. -/
def execGpfPhase2Timeout (port : Nat) (s : State) : Out :=
  if !s.prt.gpf.contains port then .next s
  else
    let late := s.fences.filter fun f => f.src == .gpf port
    let s := { s with fences := s.fences.filter fun f => f.src != FSrc.gpf port }
    let s := s.each late fun s f => (s.record clsWarn f.dom 39 (item 8 2)).stallEnd f.dom
    .next (s.gpfCheck port)

/-- The interleaves of Table 04.1. -/
def hdmListed (ways gran : Nat) : Bool :=
  [1, 2, 3, 4, 6, 8, 12, 16].contains ways && [256, 512, 1024, 2048, 4096, 8192, 16384].contains gran

/-- HDM_DECODER_COMMIT (R90): an unlisted interleave ends in an error and stays uncommitted. Under the CXL 3.1 rules
(PRESUMED, log entry 19) a commit with lock locks the decoder, a locked decoder takes no further commit, and one that
is committed and not locked is uncommitted and committed anew. `n` is the decoder, with 2 added to lock it on commit. -/
def execHdmDecoderCommit (link ld n base size ways gran : Nat) (s : State) : Out :=
  let lock : Bool := decide (2 ≤ n)
  let k : Key := (ldIx link ld, n % 2)
  let old := (mget s.prt.hdm k).getD ⟨0, 0, 0, 0, false, false, false⟩
  if !s.ldExists link ld || 4 ≤ n || old.locked then .next s
  else
    let ok := hdmListed ways gran
    .next { s with prt := { s.prt with hdm := mput s.prt.hdm k ⟨base, size, ways, gran, ok, !ok, ok && lock⟩ } }

/-- The DPA that a committed decoder of an LD gives a host address (R90, Table 01.3): the LD's share of an interleave
set of `ways` memory devices in units of `gran` bytes; decoder 1's DPAs follow those of decoder 0. -/
def State.hdmDpa (s : State) (link ld hpa : Nat) : Option Nat :=
  let share := fun n => match mget s.prt.hdm (ldIx link ld, n) with
    | some d => if d.committed then d.size / max 1 d.ways else 0
    | none => 0
  [0, 1].findSome? fun n => match mget s.prt.hdm (ldIx link ld, n) with
    | some d =>
      if d.committed && decide (d.base ≤ hpa) && decide (hpa < d.base + d.size) then
        let x := hpa - d.base
        some ((if n = 1 then share 0 else 0) + x / (d.gran * d.ways) * d.gran + x % d.gran)
      else none
    | none => none

/-- IDE_KM_KEY_PROG (R95): the keys of a stream, delivered in an SPDM session; the stream serves. -/
def execIdeKmKeyProg (link key : Nat) (isMem : Bool) (s : State) : Out :=
  if s.rd .SESSIONS = 0 then .next s
  else
    let x := (mget s.prt.ide (link, 0)).getD ⟨0, 0, false, false⟩
    let x := if isMem then { x with memKey := key, memBad := false } else { x with ioKey := key, ioBad := false }
    let s := { s with prt := { s.prt with ide := mput s.prt.ide (link, 0) x } }
    .next (if isMem then s.setfi .IDE_MEM link true else s.setfi .IDE_IO link true)

/-- Discard without effect the host requests that a test accepts. -/
def State.dropHost (s : State) (p : HostReq → Bool) : State :=
  let hit := fun (w : Who) => match w with
    | .host r => p r
    | _ => false
  let s := { s with
    waits := s.waits.filter fun w => match w.ent with
      | .host r => !p r
      | _ => true
    fch := { s.fch with
      mrs := s.fch.mrs.map fun (e : Key × MissReg) => (e.1, { e.2 with reqs := e.2.reqs.filter fun q => !hit q.who })
      mq := s.fch.mq.filter fun e => !hit e.req.who }
    prt := { s.prt with atHost := s.prt.atHost.filter fun r => !p r } }
  s.stallEnds

/-- IDE_MAC_FAIL (R95): the requests of the failed epoch are discarded and the stream is insecure until
IDE_KM re-keys it. -/
def execIdeMacFail (link : Nat) (isMem : Bool) (tags : List Nat) (s : State) : Out :=
  let x := (mget s.prt.ide (link, 0)).getD ⟨0, 0, false, false⟩
  let x := if isMem then { x with memBad := true } else { x with ioBad := true }
  let s := { s with prt := { s.prt with ide := mput s.prt.ide (link, 0) x } }
  let s := if isMem then s.setfi .IDE_MEM link false else s.setfi .IDE_IO link false
  let s := s.when isMem (·.dropHost fun r => r.link == link && tags.contains r.tag)
  let s := s.count .GCM_FAIL_CNT 0 .CIP_FLAGS_CNT_OVF 0 0
  .next ((s.count .IDE_FAIL_CNT link .PRT_LINK_FLAGS_CNT_OVF link 3).send (.rasError link))

/-- The name of a port's ready pin. -/
def rdyPin (p : Nat) : String := ["P0_RDY", "P1_RDY", "P2_RDY", "P3_RDY"].getD p "Pn_RDY"

/-- Drive Pn_RDY; MEM_ACTIVE mirrors it on the port's links (R105). -/
def State.setRdy (s : State) (p : Nat) (v : Bool) : State :=
  let s := ({ s with prt := { s.prt with rdy := setBit s.prt.rdy p v } }).when (bit s.prt.rdy p != v)
    (·.send (.pin (rdyPin p) v))
  (s.setfi .MEM_ACTIVE (2 * p) v).setfi .MEM_ACTIVE (2 * p + 1) v

/-- The link status fields of a link clear (R109). -/
def State.clearLink (s : State) (k : Nat) : State :=
  s.each [Fld.PRT_LINK_STATUS_LINK_UP, .RATE, .WIDTH, .REVERSED, .FLIT256, .HDM_DB, .IDE_MEM, .IDE_IO, .POLARITY]
    fun s f => s.wri f k 0

/-- The entry of a queue pair beside its registers. -/
def State.qp (s : State) (q : Nat) : QpS := (mget s.cmd.qps (q, 0)).getD ⟨0, 0, 0, 0, 0⟩

/-- Change a queue pair's entry. -/
def State.setQp (s : State) (q : Nat) (x : QpS) : State :=
  { s with cmd := { s.cmd with qps := mput s.cmd.qps (q, 0) x } }

/-- Forget commands that a test accepts, with their locks and waits: the stores that a lock held go on, freed lock
entries go to the next command in fetch order (R127), and a stall may end (R74). -/
def State.dropCmds (s : State) (p : Cmd → Bool) : State :=
  let gone := (s.cmd.cmds.filter p).map (·.uid)
  let s := { s with cmd := { s.cmd with
    cmds := s.cmd.cmds.filter fun c => !p c
    locks := s.cmd.locks.filter fun l => !gone.contains l.uid
    done := s.cmd.done.filter fun u => !gone.contains u } }
  { s with waits := s.waits.filter fun w => match w.ent with
    | .cmd u => !gone.contains u
    | _ => true }.stallEnds.enterLocks.rerun fun (w : Wait) => w.why == Why.atomic

/-- QP_EN clears under R132 and R467: waiting commands are discarded, dispatched ones run on silently. -/
def State.qpSilence (s : State) (q : Nat) : State :=
  if !s.fli .QP_EN q then s
  else
    let s := s.dropCmds fun c => c.qp == q && c.ph == .waiting
    let s := { s with cmd := { s.cmd with cmds := s.cmd.cmds.map fun (c : Cmd) =>
      if c.qp = q then { c with silent := true } else c } }
    (((s.setfi .QP_EN q false).setfi .RESET_BUSY q false).inflightReg q).cmdRegs

/-- Queue pairs assigned to links that a test accepts. -/
def State.qpsOn (s : State) (p : Nat → Nat → Bool) : List Nat :=
  (List.range 1024).filter fun q => s.fli .CMD_QP_ASSIGN_ASSIGNED q
    && p (s.rdi .CMD_QP_ASSIGN_LINK q) (s.rdi .CMD_QP_ASSIGN_LD q)

/-- A reset of a port's links ends their IDE streams (R95). -/
def ideReset (m : SMap Ide) (port : Nat) : SMap Ide := mdel (mdel m (2 * port, 0)) (2 * port + 1, 0)

/-- PERST_ASSERT (R107, R109, R132): no response goes out any more, writes before step 3 are discarded,
writes past it complete inside, and the port's queue pairs are cleared. -/
def execPerstAssert (port : Nat) (s : State) : Out :=
  if 4 ≤ port then .next s
  else
    let on := fun k : Nat => portOf k == port
    let s := { s with prt := { s.prt with perst := setBit s.prt.perst port true, ide := ideReset s.prt.ide port } }
    let s := s.setRdy port false
    let own := fun (q : Req) => match q.who with
      | .host r => if on r.link then (if q.wr then some { q with who := .gone (s.ldDom r.link r.ld) } else none) else some q
      | _ => some q
    let s := { s with
      waits := s.waits.filter fun w => match w.ent with
        | .host r => !on r.link
        | _ => true
      fch := { s.fch with
        mrs := s.fch.mrs.map fun (e : Key × MissReg) => (e.1, { e.2 with reqs := e.2.reqs.filterMap own })
        mq := s.fch.mq.filterMap fun (e : MissQ) => (own e.req).map fun q => MissQ.mk e.la e.obj e.tp q }
      fences := s.fences.map fun (f : Fence) => match f.src with
        | .page k _ _ => if on k then { f with freed := true } else f
        | _ => f
      prt := { s.prt with gpf := without s.prt.gpf port, gpfSolo := s.prt.gpfSolo.filter fun x => x.1 != port
                          stopped := s.prt.stopped.filter fun k => !on k
                          atHost := s.prt.atHost.filter fun r => !on r.link
                          hdm := mfilter s.prt.hdm fun k _ => !on (k.1 / 16) } }
    let s := { s with fences := s.fences.filter fun f => f.src != FSrc.gpf port }.stallEnds
    let s := (s.clearLink (2 * port)).clearLink (2 * port + 1)
    let s := s.each (List.range 32) fun s n => s.wri .BENCHED (32 * port + n) 0
    let s := (s.wri .BENCH_USED (2 * port) 0).wri .BENCH_USED (2 * port + 1) 0
    .next (s.each (s.qpsOn fun k _ => on k) State.qpSilence)

/-- PERST_RELEASE (R83): SPLIT_ACT takes SPLIT; training begins (LINK_UP ends it). -/
def execPerstRelease (port : Nat) (s : State) : Out :=
  if 4 ≤ port ∨ !bit s.prt.perst port then .next s
  else
    let s := { s with prt := { s.prt with perst := setBit s.prt.perst port false
                                          stepped := mdel (mdel s.prt.stepped (2 * port, 0)) (2 * port + 1, 0)
                                          timedOut := setBit s.prt.timedOut port false } }
    .next (s.wri .SPLIT_ACT port (s.rdi .SPLIT port))

/-- A link of a port that is neither in reset nor offline. -/
def State.linkLive (s : State) (k : Nat) : Bool :=
  decide (k < 8) && !bit s.prt.perst (portOf k) && !s.fli .PORT_OFFLINE (portOf k)
    && (k % 2 == 0 || s.fli .SPLIT_ACT (portOf k)) && !s.draining

/-- The widest width at which all lanes pass (R84): lanes 0 to w - 1, or after lane reversal the upper w lanes, of a
link of n lanes (log entry 20); `lanes` has a bit per lane that passed. -/
def linkWidth (lanes n : Nat) : Option Nat :=
  [16, 8, 4, 2, 1].find? fun w => decide (w ≤ n) && ((List.range w).all (bit lanes ·) || (List.range w).all fun i => bit lanes (n - 1 - i))

/-- The highest rate a link may train at (R84, R85): MAX_RATE, 32 GT/s with 68 B flits, and the rate it stepped down
to. -/
def State.rateCap (s : State) (link : Nat) (flit256 : Bool) : Nat :=
  let m := s.rdi .MAX_RATE (portOf link)
  min (if flit256 then m else min 4 m) ((mget s.prt.stepped (link, 0)).getD 7)

/-- LINK_UP (R84, R82): a link that is not up trains; the chosen rate is the partner's at or below MAX_RATE; 68 B flits
run at up to 32 GT/s and in HDM-H mode. -/
def execLinkUp (link rate lanes polarity : Nat) (reversed flit256 : Bool) (s : State) : Out :=
  if !s.linkLive link || s.fli .PRT_LINK_STATUS_LINK_UP link then .next s
  else match linkWidth lanes (if s.fli .SPLIT_ACT (portOf link) then 8 else 16) with
    | none => .next s
    | some w =>
      let s := (s.setfi .PRT_LINK_STATUS_LINK_UP link true).wri .RATE link (min rate (s.rateCap link flit256))
      let s := ((s.wri .WIDTH link w).setfi .REVERSED link reversed).wri .POLARITY link polarity
      .next ((s.setfi .FLIT256 link flit256).setfi .HDM_DB link flit256)

/-- LINK_DOWN (R108): LINK_UP clears; nothing else of the port changes. -/
def execLinkDown (link : Nat) (s : State) : Out :=
  .next (if s.fli .PRT_LINK_STATUS_LINK_UP link then s.setfi .PRT_LINK_STATUS_LINK_UP link false else s)

/-- LINK_RECOVERY_ENTRY (R85): `recent` is the count of recovery entries within the last second, this
one included. -/
def execLinkRecoveryEntry (link recent : Nat) (s : State) : Out :=
  if !s.fli .PRT_LINK_STATUS_LINK_UP link then .next s
  else
    let s := s.count .RETRAIN_CNT link .PRT_LINK_FLAGS_CNT_OVF link 0
    let p := portOf link
    if s.fli .DOWNSHIFT_EN p && decide (s.rdi .RETRAIN_LIMIT p < recent) && decide (0 < s.rdi .RATE link) then
      let s := s.wri .RATE link (s.rdi .RATE link - 1)
      let s := { s with prt := { s.prt with stepped := mput s.prt.stepped (link, 0) (s.rdi .RATE link) } }
      let s := s.record clsWarn 0 85 (item 3 link)
      .next (s.count .DOWNSHIFT_CNT link .PRT_LINK_FLAGS_CNT_OVF link 2)
    else .next s

/-- A link retrains at the highest rate both partners allow (R85); `rate` is the partner's. -/
def State.linkRetrain (s : State) (link rate : Nat) : State :=
  if s.linkLive link && s.fli .PRT_LINK_STATUS_LINK_UP link then
    let s := { s with prt := { s.prt with stepped := mdel s.prt.stepped (link, 0) } }
    s.wri .RATE link (min rate (s.rateCap link (s.fli .FLIT256 link)))
  else s

/-- LINK_RETRAIN (R85). -/
def execLinkRetrain (link rate : Nat) (s : State) : Out := .next (s.barWrite (·.linkRetrain link rate))

/-- A PORT_OFFLINE write (R86): set, the port's links are held in reset and Pn_RDY is low; requests
already accepted complete and their responses are discarded. -/
def State.portOffline (s : State) (port : Nat) (v : Bool) : State :=
  let s := s.setfi .PORT_OFFLINE port v
  if v then
    let s := (s.setRdy port false).clearLink (2 * port)
    { s with prt := { s.prt with ide := ideReset s.prt.ide port } }.clearLink (2 * port + 1)
  else s

/-- PORT_OFFLINE_WRITE (R86). -/
def execPortOfflineWrite (port : Nat) (v : Bool) (s : State) : Out :=
  .next (s.barWrite fun s => if 4 ≤ port then s else s.portOffline port v)

/-! ### Mailbox and FM API -/

/-- IDENTIFY (R81): the LD's static capacity and DC regions. -/
def execIdentify (link ld : Nat) (s : State) : Out :=
  .next (s.send (.mailbox 0x4000 stOk [s.rd .GLB_ID_DEVICE, s.rdi .LD_CAP_256M (ldIx link ld), dcRegions]))

/-- GET_EVENT_RECORDS (R96): the General Media and DRAM event records. -/
def execGetEventRecords (link ld : Nat) (s : State) : Out :=
  .next (s.send (.mailbox 0x0100 stOk (s.prt.events.flatMap fun e => [link, ld, e.1, e.2])))

/-- The DPAs of the stored poisoned lines that an LD maps. -/
def State.poisonOf (s : State) (link ld : Nat) : List Nat :=
  (s.dram.filter fun e => e.2.st == .poison).flatMap fun e => match s.frame? e.1.1 with
    | none => []
    | some f => ((s.winsAt (1024 * e.1.1)).filter fun w => w.1.1 == ldIx link ld).map fun w =>
        (w.1.2 + f.tp - w.2.objPn) * 65536 + 64 * e.1.2

/-- GET_POISON_LIST (R81, R96): the LD's lines stored poisoned. -/
def execGetPoisonList (link ld : Nat) (s : State) : Out :=
  .next (s.send (.mailbox 0x4300 stOk ([link, ld] ++ s.poisonOf link ld)))

/-- GET_HEALTH_INFO (R484): device temperature and the count of stored poisoned lines. -/
def execGetHealthInfo (link ld : Nat) (s : State) : Out :=
  .next (s.send (.mailbox 0x4200 stOk [link, ld, s.pwr.dieTemp, b2n (s.fl .FATAL)]))

/-- SET_TIMESTAMP (R81). -/
def execSetTimestamp (value : Nat) (s : State) : Out :=
  .next ({ s with prt := { s.prt with timestamp := value } }.send (.mailbox 0x0301 stOk []))

/-- INITIATE_DYNAMIC_CAPACITY_ADD (R91): whole 256 MiB blocks beyond the static capacity, in the LD's DC regions and in
no extent yet; beyond 256 extents Resources Exhausted. -/
def execInitiateDynamicCapacityAdd (link ld start len : Nat) (s : State) : Out :=
  if !s.ldExists link ld || len == 0 || decide (start < s.rdi .LD_CAP_256M (ldIx link ld)) || decide (2 ^ 19 < start + len)
      || (List.range len).any fun i => s.hasBlock link ld (start + i) then .next (s.send (.fm 0x5604 stInvalid []))
  else if 256 ≤ (s.extentsOf link ld).length then .next (s.send (.fm 0x5604 stExhausted []))
  else if s.canJournal then .next (s.dcAdd ⟨link, ld, start, len⟩)
  else .next { s with prt := { s.prt with dcPend := s.prt.dcPend ++ [(true, ⟨link, ld, start, len⟩)] } }

/-- DYNAMIC_CAPACITY_RELEASE (R91): host copies in the extent are back-invalidated first; once none is left the release
takes effect and is confirmed. Any whole blocks of accepted extents may be named. -/
def execDynamicCapacityRelease (link ld start len : Nat) (s : State) : Out :=
  let x : Extent := ⟨link, ld, start, len⟩
  if len = 0 ∨ !((List.range len).all fun i => s.hasBlock link ld (start + i)) then .next (s.send (.fm 0x5605 stInvalid []))
  else if s.prt.dcPend.contains (false, x) then .next s
  else if s.dcReady (false, x) then .next (s.dcRelease x)
  else .next ({ s with prt := { s.prt with dcPend := s.prt.dcPend ++ [(false, x)] } }.invalFrames (s.extentFrames x))

/-- A DOMAIN write (R87, R491): refused with a record while LD_EN is 1 and the value would change. -/
def State.bindLd (s : State) (link ld d : Nat) : State :=
  let i := ldIx link ld
  if !s.ldRegs link ld || s.rdi .PRT_LD_CFG_DOMAIN i == d then s
  else if s.fli .LD_EN i then s.record clsService d 87 (item 3 (link + 8 * ld))
  else s.wri .PRT_LD_CFG_DOMAIN i d

/-- BIND_LD_DOMAIN (R87): the effect of the register write, and success when the LD is bound so after it. -/
def execBindLdDomain (link ld dom : Nat) (s : State) : Out :=
  let s := s.barWrite (·.bindLd link ld dom)
  .next (s.send (.fm 0xC001 (if s.ldRegs link ld && s.ldDom link ld == dom then stOk else stInvalid) []))

end Sys2Proof.Machine
end

