-- ==== Sys2Proof/Machine/Queues.lean ====
section
/-! DEFINITION. Descriptor rings, doorbells, fetching, dispatch, posting and queue reset
(05_queues_and_doorbells.md). -/

namespace Sys2Proof.Machine

/-- Entries of a queue pair's rings (R113). -/
def State.sqN (s : State) (q : Nat) : Nat := 2 ^ s.rdi .SQ_LOG2 q
/-- Entries of the completion ring. -/
def State.cqN (s : State) (q : Nat) : Nat := 2 ^ s.rdi .CQ_LOG2 q

/-- (a - b) mod n for ring indices. -/
def ringDist (a b n : Nat) : Nat := (a + n - b % n) % n

/-- Unfetched SQEs (R113). -/
def State.unfetched (s : State) (q : Nat) : Nat := ringDist (s.rdi .SQ_TAIL q) (s.rdi .SQ_HEAD q) (s.sqN q)

/-- Free completion entries (R120). -/
def State.cqFree (s : State) (q : Nat) : Nat :=
  s.cqN q - 1 - ringDist (s.rdi .CQ_TAIL q) (s.rdi .CQ_HEAD q) (s.cqN q)

/-- An invalid doorbell (R118): DB_ERR, its counter, one record per queue pair per tick. -/
def State.dbErr (s : State) (q : Nat) : State :=
  ((s.setfi .DB_ERR q true).count .DB_ERR_CNT 0 .CMD_FLAGS_CNT_OVF 0 3).recordOnce q clsWarn
    (s.rdi .QP_OWNER_DOMAIN q) 118 (item 0xE q)

/-- SQ_TAIL_DOORBELL (R118). -/
def execSqTailDoorbell (q t : Nat) (s : State) : Out :=
  .next (s.barWrite fun s =>
    if 1024 ≤ q || !s.fli .QP_EN q || s.fli .RESET_BUSY q then s
    else
      let n := s.sqN q
      let h := s.rdi .SQ_HEAD q
      if n ≤ t || ringDist t h n < ringDist (s.rdi .SQ_TAIL q) h n then s.dbErr q else s.wri .SQ_TAIL q t)

/-- CQ_HEAD_DOORBELL (R119). -/
def execCqHeadDoorbell (q h : Nat) (s : State) : Out :=
  .next (s.barWrite fun s =>
    if 1024 ≤ q || !s.fli .QP_EN q then s
    else
      let n := s.cqN q
      let old := s.rdi .CQ_HEAD q
      if n ≤ h || ringDist (s.rdi .CQ_TAIL q) old n < ringDist h old n then s.dbErr q else s.wri .CQ_HEAD q h)

/-- The owner fields mirror CMD_QP_ASSIGN; DOMAIN is captured at enable (R110). -/
def State.qpOwner (s : State) (q : Nat) : State :=
  let k := s.rdi .CMD_QP_ASSIGN_LINK q
  let j := s.rdi .CMD_QP_ASSIGN_LD q
  ((s.wri .QP_OWNER_LINK q k).wri .QP_OWNER_LD q j).wri .QP_OWNER_ASSIGNED q (s.rdi .CMD_QP_ASSIGN_ASSIGNED q)

/-- A write of QP_EN (R112): 1 enables an assigned queue pair of an enabled LD and resets its indices;
0 on an enabled queue pair, or a failed enable, sets CFG_ERR. Its credit starts at 0 (DESIGN CHOICE, log entry 22). -/
def State.qpEnWrite (s : State) (q : Nat) (v : Bool) : State :=
  let k := s.rdi .CMD_QP_ASSIGN_LINK q
  let j := s.rdi .CMD_QP_ASSIGN_LD q
  if s.fli .QP_EN q then (if v then s else s.setfi .CFG_ERR q true)
  else if !v then s
  else if !s.fli .CMD_QP_ASSIGN_ASSIGNED q || !s.fli .LD_EN (ldIx k j) || decide (2048 ≤ s.rdi .MSIX_VEC q) then
    s.setfi .CFG_ERR q true
  else
    let s := (((s.wri .SQ_HEAD q 0).wri .SQ_TAIL q 0).wri .CQ_HEAD q 0).wri .CQ_TAIL q 0
    let s := ((s.wri .CQ_PHASE q 1).qpOwner q).wri .QP_OWNER_DOMAIN q (s.ldDom k j)
    (s.setfi .QP_EN q true).setQp q ⟨0, 0, 0, 0, 0⟩

/-- QP_EN_WRITE (R112). -/
def execQpEnWrite (q : Nat) (v : Bool) (s : State) : Out :=
  .next (s.barWrite fun s => if 1024 ≤ q then s else s.qpEnWrite q v)

/-- Post one completion entry (R115): written at CQ_TAIL of the ring at QP_CQ_BASE with the current phase, which inverts
at the wrap; the DMA carries the requester of the assigned LD's function (R111). -/
def State.postCqe (s : State) (q : Nat) (r0 r1 w2 : Nat) : State :=
  let t := s.rdi .CQ_TAIL q
  let ph := s.rdi .CQ_PHASE q
  let s := s.send (.cqe (s.rdi .CMD_QP_ASSIGN_LINK q) (s.rdi .CMD_QP_ASSIGN_LD q) (s.rdi .QP_CQ_BASE q * 4096 + 32 * t) q t
    [r0, r1, w2, q + ph * 2 ^ 63])
  let t' := (t + 1) % s.cqN q
  let s := s.wri .CQ_TAIL q t'
  if t' = 0 then s.wri .CQ_PHASE q (1 - ph) else s

/-- The MSI-X message of a queue pair (R121). -/
def State.qpMsix (s : State) (q : Nat) : State :=
  (s.setQp q { s.qp q with unsig := 0 }).send (.msix (s.rdi .CMD_QP_ASSIGN_LINK q) (s.rdi .CMD_QP_ASSIGN_LD q) (s.rdi .MSIX_VEC q))

/-- Count a CQE toward coalescing and signal at COAL_CNT (R121; 0 acts as 1). -/
def State.coalesce (s : State) (q : Nat) : State :=
  if !s.fli .QP_CTRL_INT_EN q then s
  else
    let n := (s.qp q).unsig + 1
    let s := s.setQp q { s.qp q with unsig := n }
    if max 1 (s.rdi .COAL_CNT q) ≤ n then s.qpMsix q else s

/-- Steps 4 and 5 of Table 05.3 once no dispatched command remains (R129, R133); in a drain no reset-done is written
(R132). -/
def State.resetDone (s : State) (q : Nat) : State :=
  if s.fli .RESET_BUSY q && !s.draining && !((s.cmdsOf q).any fun c => c.ph != .waiting) then
    let x := s.qp q
    let s := s.postCqe q (x.disc + x.ncut * 2 ^ 32) 0 (x.rhead * 2 ^ 16 + 0x3E * 2 ^ 32)
    let s := if s.fli .QP_CTRL_INT_EN q then s.qpMsix q else s
    let s := (s.setfi .QP_EN q false).setfi .RESET_BUSY q false
    (s.setfi .QP_ERR q false).count .RESET_CNT 0 .CMD_FLAGS_CNT_OVF 0 1
  else s

/-- Discard the waiting commands of a queue pair, counting them for a reset. -/
def State.discardWaiting (s : State) (q : Nat) : State :=
  let n := ((s.cmdsOf q).filter fun c => c.ph == .waiting).length
  let s := s.dropCmds fun c => c.qp == q && c.ph == .waiting
  (s.setQp q { s.qp q with disc := (s.qp q).disc + n }).inflightReg q

/-- A QP_RESET write (R129): step 1 of Table 05.3, and the end of the reset when nothing was
dispatched. Commands that an error discarded before (R133) are not in its discarded count (DESIGN CHOICE, log entry
22). -/
def State.qpReset (s : State) (q : Nat) : State :=
  if s.fli .QP_EN q && !s.fli .RESET_BUSY q then
    let s := s.setfi .RESET_BUSY q true
    let s := s.setQp q { s.qp q with rhead := s.rdi .SQ_HEAD q, disc := 0, ncut := 0 }
    ((s.discardWaiting q).resetDone q).cmdRegs
  else s

/-- QP_RESET (R129). -/
def execQpReset (q : Nat) (s : State) : Out := .next (s.barWrite fun s => if 1024 ≤ q then s else s.qpReset q)

/-- A queued move stops counting for a stream (R160): cancelled when nothing else asked for it. -/
def State.detachStream (s : State) (d sid : Nat) (m : Move) : State :=
  let mine := fun (x : MSrc) => match x with
    | .stream d' sid' _ => d' == d && sid' == sid
    | _ => false
  match (m.src :: m.also).filter fun x => !mine x with
  | [] => s.cancelMove m
  | x :: r =>
    let n := (m.streams.filter (· == (d, sid))).length
    (s.updMove m.id fun m => { m with src := x, also := r }).updStream d sid fun t => { t with cancelled := t.cancelled + n }

/-- Cancel the moves of a stream that have not begun (R160, Table 08.3). -/
def State.cancelStream (s : State) (d sid : Nat) : State :=
  let ms := s.tpe.moves.filter fun m => m.st == .queued && m.streams.contains (d, sid)
  let s := s.each ms fun s m => s.detachStream d sid m
  -- entries not yet started are cancelled whole
  State.streamEnds <| s.updStream d sid fun t =>
    let left := t.ents.filter fun e => !e.started
    { t with cancelled := t.cancelled + (left.map (·.pages)).foldl (· + ·) 0
             ents := t.ents.filter fun e => e.started }

/-- Release the escrow frames of a WRITE_ATOMIC or UNSEAL that did not switch, with their charges
(R151). Each entry pairs a tier page with its escrow frame. -/
def State.dropEscrow (s : State) (c : Cmd) : State :=
  let s := s.each c.escrow fun s e =>
    let ks := s.stl.chq.filter fun k => k.1 == e.2
    let s := s.each ks fun s k => s.releaseKey (((s.frame? e.2).map fun f => f.chgDom k.2).getD c.dom) k
    s.freeFrame e.2
  s.updCmd c.uid fun c => { c with escrow := [] }

/-- Cut one dispatched command (R131): WRITE_ATOMIC stays whole old, a stream's unbegun moves are
cancelled, a pending fence is dropped; the failing lines met before the cut are reported. -/
def State.cutCmd (s : State) (c : Cmd) : State :=
  let op := sqeOp c.words
  let s := s.dropEscrow c
  let s := { s with fences := s.fences.filter fun f => f.src != FSrc.cmd c.uid }
  let s := (s.entGo (.cmd c.uid) c.dom).finishCmd c.uid fun c =>
    if c.fails = 0 then { c with cut := true, r0 := 0 }
    else { c with cut := true, status := 0x30, detail := c.failDet, r0 := c.failAt, r1 := c.failDet + c.fails % 2 ^ 32 * 2 ^ 16 }
  let s := if op = opStream then s.cancelStream c.dom (bits (sqeW c.words 1) 32 16) else s
  s.count .CUT_CNT 0 .CMD_FLAGS_CNT_OVF 0 2

/-- QUEUE_RESET_CUT (R129 step 3, R131): commands with no metadata change are cut. -/
def execQueueResetCut (q : Nat) (s : State) : Out :=
  if !s.fli .RESET_BUSY q then .next s
  else
    let cs := (s.cmdsOf q).filter fun c => c.ph == .running && !c.switched && !isMetaOp (sqeOp c.words)
    let s := s.each cs State.cutCmd
    .next ((s.setQp q { s.qp q with ncut := (s.qp q).ncut + cs.length }).cmdRegs)

/-- A queue pair is eligible to be fetched (R122). -/
def State.eligible (s : State) (q : Nat) : Bool :=
  s.fli .QP_EN q && !s.fli .RESET_BUSY q && !s.fli .QP_ERR q && decide (0 < s.unfetched q)
    && decide (s.reservations q < s.rdi .MAX_INFLIGHT q) && decide (s.reservations q + 2 ≤ s.cqFree q)

/-- Commands in the waiting pool. -/
def State.waiting (s : State) : Nat := (s.cmd.cmds.filter fun c => c.ph == .waiting).length

/-- The SQEs one fetch may take before credit (R122): 8, the free entries of the waiting pool (R124), what is announced,
what lies before the end of the ring, what R120 permits, what MAX_INFLIGHT permits. -/
def State.fetchMax (s : State) (q : Nat) : Nat :=
  min (min (min 8 (4096 - s.waiting)) (s.unfetched q)) (min (s.sqN q - s.rdi .SQ_HEAD q)
    (min (s.cqFree q - 1 - s.reservations q) (s.rdi .MAX_INFLIGHT q - s.reservations q)))

/-- The next queue pair after `last` in rising order, wrapping, that a test accepts. -/
def nextQp (last : Nat) (p : Nat → Bool) : Option Nat :=
  ((List.range 1024).map fun i => (last + 1 + i) % 1024).find? p

/-- Copy one SQE (R122, R138, R140): format checks, window translation, range locks. -/
def State.fetchSqe (s : State) (q : Nat) (ws : List Nat) : State :=
  let op := sqeOp ws
  let k := s.rdi .CMD_QP_ASSIGN_LINK q
  let j := s.rdi .CMD_QP_ASSIGN_LD q
  let bad := sqeCheck ws
  let len := sqeLen ws
  let isData := [opRead, opWrite, opAtomic, opFill, opSeal, opUnseal].contains op
  let t1 := if isData && sqeWin ws then s.winRange k j (sqeOfs ws) len
    else if op = opCopy && bit (sqeW ws 2) 48 then s.winRange k j (sqeOfs ws) len
    else some (sqeObj ws, sqeOfs ws)
  let t2 := if op = opCopy then
      (if bit (sqeW ws 2) 49 then s.winRange k j (bits (sqeW ws 3) 0 48) len
       else some (bits (sqeW ws 1) 32 32, bits (sqeW ws 3) 0 48))
    else some (0, 0)
  let c : Cmd := { uid := s.cmd.uid, qp := q, dom := s.rdi .QP_OWNER_DOMAIN q, link := k, ld := j, words := ws
                   ph := .waiting, lockWait := false, needLocks := 0
                   tobj := (t1.getD (0, 0)).1, tofs := (t1.getD (0, 0)).2
                   tobj2 := (t2.getD (0, 0)).1, tofs2 := (t2.getD (0, 0)).2
                   terr := t1.isNone || t2.isNone, accepted := false, late := false, fails := 0
                   failAt := 0, part := 0, sgl := [], escrow := [], switched := false, key := 0, mask := 0, status := 0, detail := 0
                   r0 := 0, r1 := 0, silent := false, cut := false, failDet := 0, jr := false }
  let c := { c with needLocks := if bad = 0 then (cmdLocks c).length else 0 }
  let s := { s with cmd := { s.cmd with cmds := s.cmd.cmds ++ [c], uid := s.cmd.uid + 1 } }
  if bad ≠ 0 then s.finishCmd c.uid fun c => { c with status := 0x10, detail := bad, r1 := bad }
  else
    let s := s.enterLocks
    let held : Bool := ((s.cmd.cmds.find? fun (x : Cmd) => x.uid == c.uid).map fun (x : Cmd) =>
      x.needLocks == 0 && s.granted c.uid).getD true
    s.when (!held) fun s => (s.updCmd c.uid fun c => { c with lockWait := true }).count .LOCK_WAIT_CNT 0 .CMD_FLAGS_CNT_OVF 0 0

/-- Fetch n SQEs of a queue pair in one DMA read of its ring (R111, R122); host memory gives their words. -/
def State.fetchN (s : State) (q n : Nat) (sqes : List (List Nat)) : State :=
  let s := s.send (.dmaRead (s.rdi .CMD_QP_ASSIGN_LINK q) (s.rdi .CMD_QP_ASSIGN_LD q)
    (s.rdi .QP_SQ_BASE q * 4096 + 64 * s.rdi .SQ_HEAD q) (64 * n))
  let s := s.each (List.range n) fun s i => s.fetchSqe q (sqes.getD i [])
  let s := s.wri .SQ_HEAD q ((s.rdi .SQ_HEAD q + n) % s.sqN q)
  (s.inflightReg q).cmdRegs

/-- SQE_FETCH (R122): `aged` lists the queue pairs whose oldest unfetched SQE has waited more than
SC2_AGE_US, longest first; `sqes` is what the ring holds at the fetched entries. An aged fetch does not move the last
one served (DESIGN CHOICE, log entry 22). The credit of a queue pair that is not enabled is not kept: enabling sets
it. -/
def execSqeFetch (aged : List Nat) (sqes : List (List Nat)) (s : State) : Out :=
  if s.draining || decide (4096 ≤ s.waiting) then .next s
  else match aged.find? fun q => s.eligible q && !s.fli .CLASS_SC1 q with
    | some q =>
      let n := s.fetchMax q
      let s := s.fetchN q n sqes
      .next (s.setQp q { s.qp q with credit := (s.qp q).credit - n })
    | none =>
      let sc1 := (List.range 1024).any fun q => s.eligible q && s.fli .CLASS_SC1 q
      let inC := fun q => s.fli .CLASS_SC1 q == sc1
      let last := if sc1 then s.cmd.lastQ1 else s.cmd.lastQ2
      let pick := fun (s : State) => nextQp last fun q => s.eligible q && inC q && decide (0 < (s.qp q).credit)
      let s' := match pick s with
        | some _ => s
        | none => s.each ((List.range 1024).filter fun q => s.fli .QP_EN q && inC q) fun s q =>
            s.setQp q { s.qp q with credit := s.rdi .WEIGHT q }
      match pick s' with
      | none => .next s
      | some q =>
        let n := min (s'.fetchMax q) (s'.qp q).credit
        let s := s'.fetchN q n sqes
        let s := s.setQp q { s.qp q with credit := (s.qp q).credit - n }
        .next { s with cmd := { s.cmd with lastQ1 := if sc1 then q else s.cmd.lastQ1
                                           lastQ2 := if sc1 then s.cmd.lastQ2 else q } }

/-- An accepted SETTLE (R152): with AFTER_PRIOR, once every earlier-fetched command of the queue pair is
posted. -/
def State.settleAccept (s : State) (c : Cmd) : State :=
  let prior := s.cmd.cmds.any fun x => x.qp == c.qp && decide (x.uid < c.uid)
  if sqeOp c.words != opSettle || c.accepted || c.ph != .running || (bit (sqeW c.words 1) 0 && prior) then s
  else
    let s := s.updCmd c.uid fun c => { c with accepted := true }
    s.acceptFence (.cmd c.uid) c.dom 0

/-- SETTLEs that wait for earlier commands to be posted are looked at again (R152). -/
def State.settleAfter (s : State) (q : Nat) : State := s.each (s.cmdsOf q) State.settleAccept

/-- COMMAND_COMPLETE (R115, R126): the command that ended first is posted and its locks are released. -/
def execCommandComplete (s : State) : Out :=
  match s.cmd.done with
  | [] => .next s
  | uid :: _ =>
    match s.cmd.cmds.find? fun c => c.uid == uid with
    | none => .next { s with cmd := { s.cmd with done := s.cmd.done.drop 1 } }
    | some c =>
      let late := c.late && c.status == 0 && [opRead, opWrite, opCopy, opFill].contains (sqeOp c.words)
      let st := if late then 1 else c.status
      let s := s.dropCmds fun x => x.uid == uid
      let s := if c.silent || s.draining then s else
        let s := s.postCqe c.qp c.r0 c.r1 (sqeCid c.words + s.rdi .SQ_HEAD c.qp * 2 ^ 16 + st * 2 ^ 32
          + sqeOp c.words * 2 ^ 40 + b2n c.cut * 2 ^ 48)
        if sqeNoInt c.words then s else s.coalesce c.qp
      let s := (s.enterLocks.settleAfter c.qp).inflightReg c.qp
      let s := s.rerun fun w => w.why == .atomic
      .next ((s.resetDone c.qp).cmdRegs)

/-- COALESCE_TIMEOUT (R121): the oldest unsignalled CQE has waited COAL_US, where that is nonzero. -/
def execCoalesceTimeout (q : Nat) (s : State) : Out :=
  .next (if s.fli .QP_CTRL_INT_EN q && s.rdi .COAL_US q != 0 && (s.qp q).unsig != 0 then s.qpMsix q else s)

/-- RING_DMA_ERROR (R133); `onResetDone` says that the failing write was reset-done's, whose step 5 has cleared QP_EN and
QP_ERR all the same: only the record is left. -/
def execRingDmaError (q : Nat) (onResetDone : Bool) (s : State) : Out :=
  if onResetDone then
    .next (if s.fli .QP_EN q then s else s.record clsError (s.rdi .QP_OWNER_DOMAIN q) 133 (item 0xE q))
  else if !s.fli .QP_EN q then .next s
  else
    let s := (s.setfi .QP_ERR q true).record clsError (s.rdi .QP_OWNER_DOMAIN q) 133 (item 0xE q)
    .next ((s.discardWaiting q).cmdRegs)

/-- CMD_STATUS_WRITE (R135): any write sets LOCK_PEAK to LOCK_USED. -/
def execCmdStatusWrite (s : State) : Out := .next (s.barWrite fun s => s.wr .LOCK_PEAK (s.rd .LOCK_USED))

end Sys2Proof.Machine
end

