-- ==== Sys2Proof/Machine/Data.lean ====
section
/-! DEFINITION. The data commands READ, WRITE, WRITE_ATOMIC, COPY and FILL (06_command_set.md R145 to
R151). A row of a dispatched command does what it can now; where it must wait (page, float, fence,
snoop) it starts what it waits for and goes on when its row comes again (log entry 11). -/

namespace Sys2Proof.Machine

/-- The dispatched command with a number and an opcode. -/
def State.running? (s : State) (uid op : Nat) : Option Cmd :=
  if s.draining then none else s.cmd.cmds.find? fun c => c.uid == uid && c.ph == .running && sqeOp c.words == op

/-- The host address of byte x of a command's buffer: HOST_ADDR + x, or through its SGL (R142). -/
def bufAddr (base : Nat) (sgl : List (Nat × Nat)) (x : Nat) : Nat :=
  match sgl with
  | [] => base + x
  | (a, n) :: r => if x < n ∨ r = [] then a + x else bufAddr base r (x - n)

/-- Byte k of a line. -/
def lineByte (l : Line) (k : Nat) : Nat := bits l.toNat (8 * k) 8

/-- A line from its 64 bytes. -/
def lineOfBytes (b : Nat → Nat) : Line :=
  BitVec.ofNat 512 ((List.range 64).foldl (fun v k => v + (b k % 256) * 2 ^ (8 * k)) 0)

/-- The bytes of line ln that lie in [ofs, ofs + len), as positions in the line. -/
def linePart (ofs len ln : Nat) : List Nat :=
  (List.range 64).filter fun k => decide (ofs ≤ 64 * ln + k) && decide (64 * ln + k < ofs + len)

/-- The byte enables of a part of a line. -/
def partMask (ps : List Nat) : Mask := BitVec.ofNat 64 (ps.foldl (fun m k => m + 2 ^ k) 0)

/-- The lines of a byte range. -/
def linesOf (ofs len : Nat) : List Nat :=
  if len = 0 then [] else (List.range ((ofs + len - 1) / 64 - ofs / 64 + 1)).map (ofs / 64 + ·)

/-- The tier pages of a byte range. -/
def pagesOf (ofs len : Nat) : List Nat :=
  if len = 0 then [] else (List.range ((ofs + len - 1) / 65536 - ofs / 65536 + 1)).map (ofs / 65536 + ·)

/-- End a command with success. -/
def State.cmdOk (s : State) (c : Cmd) (r0 r1 : Nat) : State :=
  ((s.entGo (.cmd c.uid) c.dom).finishCmd c.uid fun c => { c with status := 0, r0 := r0, r1 := r1 }).cmdRegs

/-- End a command with an error status, detail code, first failing byte and count of failing lines
(R139). -/
def State.cmdErr (s : State) (c : Cmd) (status detail r0 n : Nat) : State :=
  ((s.entGo (.cmd c.uid) c.dom).finishCmd c.uid fun c =>
    { c with status := status, detail := detail, r0 := r0, r1 := detail + n % 2 ^ 32 * 2 ^ 16 }).cmdRegs

/-- Note failing lines of a command, each an object offset and a detail code (R139): their count, and the offset and
code of the lowest. -/
def Cmd.note (c : Cmd) (fs : List (Nat × Nat)) : Cmd :=
  fs.foldl (fun c f =>
    if c.fails = 0 || decide (f.1 < c.failAt) then { c with fails := c.fails + 1, failAt := f.1, failDet := f.2 }
    else { c with fails := c.fails + 1 }) c

/-- The detail code of a line that failed the recovery ladder, or is stored poisoned (Table 06.2). -/
def lineDet (ladder : Bool) : Nat := if ladder then 0x30 else 0x31

/-- End a data command that has done every line it can (R139, R142, R145): a data-buffer DMA error at an offset comes
first, then failing lines. -/
def State.cmdEnd (s : State) (uid : Nat) (stop : Option Nat) (bytes : Nat) : State :=
  match s.cmd.cmds.find? fun x => x.uid == uid with
  | none => s
  | some c =>
    match stop with
    | some at' => s.cmdErr c 0x13 0x1C at' c.fails
    | none => if c.fails = 0 then s.cmdOk c bytes 0 else s.cmdErr c 0x30 c.failDet c.failAt c.fails

/-- The bytes of a range done when the DMA of its buffer fails at byte x: whole lines of the object (R142). -/
def dmaUpto (ofs len : Nat) : Option Nat → Nat
  | none => len
  | some x => if len ≤ x then len else (ofs + x) / 64 * 64 - ofs

/-- The page of an object's line is ready for a command: T1, or ZERO for a reader; otherwise its demand
fetch starts and the command waits (R189, R211). An access drops a queued demotion of its page; the demotions in the
locked range of a WRITE_ATOMIC wait instead (`keep`, Table 07.8). -/
def State.cmdPage (s : State) (c : Cmd) (obj tp : Nat) (o : Obj) (rd keep : Bool) : State × Bool :=
  let ix := o.mapBase + tp
  let e := s.mapE ix
  match s.pageHeld obj tp ix with
  | some why => (s.entWait (.cmd c.uid) c.dom why obj tp, false)
  | none =>
    if e.st = .t1 then (if keep then s else s.dropDemotion obj tp, true)
    else if e.st = .zero && rd then (s, true)
    else
      let late : Bool := match s.moveOf obj tp with
        | some m => m.dest == .t1 && m.streams.any fun x => x.1 == c.dom
        | none => false
      let s := s.needPage obj tp c.dom false
      let s := if late then s.updCmd c.uid fun c => { c with late := true } else s
      (s.entWait (.cmd c.uid) c.dom .page obj tp, false)

/-- All pages of a range are ready for a command. -/
def State.cmdPages (s : State) (c : Cmd) (obj : Nat) (o : Obj) (ofs len : Nat) (rd keep : Bool) : State × Bool :=
  (pagesOf ofs len).foldl (fun x tp =>
    let y := x.1.cmdPage c obj tp o rd keep
    (y.1, x.2 && y.2)) (s, true)

/-- The lines of a list before the first whose page is not ready, and whether all are: a command takes a range page by
page. -/
def State.readyLines (s : State) (c : Cmd) (obj : Nat) (o : Obj) (lns : List Nat) (rd : Bool) : State × List Nat × Bool :=
  let r := ((lns.map (· / 1024)).eraseDups).foldl (fun (x : State × List Nat × Bool) tp =>
    if !x.2.2 then x
    else
      let y := x.1.cmdPage c obj tp o rd false
      (y.1, if y.2 then x.2.1 ++ [tp] else x.2.1, y.2)) (s, [], true)
  (r.1, lns.filter fun ln => r.2.1.contains (ln / 1024), r.2.2)

/-- The value of an object's line for a command or packet: the front cache's (R17), zero on a ZERO page;
a line listed as uncorrectable, or stored poisoned or marked, fails (R145). -/
def State.objLine (s : State) (o : Obj) (ln : Nat) (bad : List Nat) : Line × Bool :=
  let e := s.mapE (o.mapBase + ln / 1024)
  if e.st = .zero then (0, false)
  else
    let d := s.lineNow (1024 * e.frame + ln % 1024)
    (d.data, d.st != .good || bad.contains ln)

/-- Reading a line fills it into the front cache and marks its frame (R179, R222); `cls` is the service class. -/
def State.readTouch (s : State) (obj : Nat) (o : Obj) (cls ln : Nat) : State :=
  let e := s.mapE (o.mapBase + ln / 1024)
  if e.st = .t1 then (s.touch e.frame).fillNow (1024 * e.frame + ln % 1024) obj (ln / 1024) cls else s

/-- READ (R145): whole lines, failing lines leave the buffer as it was; `bad` are the lines that fail the
recovery ladder and `stop` the byte at which the buffer's DMA failed. -/
def execRead (uid : Nat) (bad : List Nat) (stop : Option Nat) (s : State) : Out :=
  match s.running? uid opRead with
  | none => .next s
  | some c =>
    match s.own? c.tobj with
    | none => .next s
    | some o =>
      let len := sqeLen c.words
      let stop := stop.filter fun x => decide (x < len)
      let upto := dmaUpto c.tofs len stop
      let r := s.readyLines c c.tobj o ((linesOf c.tofs upto).drop c.part) true
      let lns := r.2.1
      let pr := r.1.probeLines o c.dom lns bad
      let s := pr.1
      let bad := pr.2
      let fails := lns.filter fun ln => (s.objLine o ln bad).2
      let good := lns.filter fun ln => !(s.objLine o ln bad).2
      let bytes := good.flatMap fun ln => (linePart c.tofs upto ln).map fun k =>
        (bufAddr (sqeAddr c.words) c.sgl (64 * ln + k - c.tofs), lineByte (s.objLine o ln bad).1 k)
      let s := s.each good fun s ln => s.readTouch c.tobj o sc2 ln
      let s := s.each (fails.filter fun ln => !bad.contains ln) fun s ln =>
        s.mediaEvent 1 (1024 * (s.mapE (o.mapBase + ln / 1024)).frame + ln % 1024)
      let s := s.when (!bytes.isEmpty) (·.send (.dmaBytes c.link c.ld bytes))
      let s := s.updCmd uid fun c => { c with part := c.part + lns.length }.note
        (fails.map fun ln => (max c.tofs (64 * ln), lineDet (bad.contains ln)))
      .next (if r.2.2 then s.cmdEnd uid (stop.map fun _ => c.tofs + upto) len else s)

/-- Write one line of an object for a command or packet of domain d, with its service class: the line's page must be T1.
It waits for host copies (R47, R92), a fence or the record path (R26, R330) and float (R62), in that order; the
second part says why it waits. -/
def State.storeLine (s : State) (d cls : Nat) (obj : Nat) (o : Obj) (ln : Nat) (data : Line) (m : Mask)
    (poison : Bool) : State × Option Why :=
  let tp := ln / 1024
  let ix := o.mapBase + tp
  let e := s.mapE ix
  let la := 1024 * e.frame + ln % 1024
  let k := ln / 64 % 16
  let inval := s.others la none
  let needs := o.persist && (e.cpSt k == 0 || e.cpSt k == 3)
  if inval ≠ [] then (s.each inval fun s l => s.snoop l la, some .snoop)
  else match (if o.mirror then s.mirWait obj else none) with
    | some w => (s, some w)
    | none =>
      if !s.canCharge2 d (b2n needs) (s.mirNeeds o obj tp) then (s, some .flt)
      else
        let s := if needs then s.chargeCp ix k d else s
        let s := s.touch e.frame
        if (s.cline? la).isNone && s.candidates (s.sliceOf la) obj tp == [] then
          ((s.flushEvict la).storeBare la obj tp data m poison d cls, none)
        else
          let s := if m = fullMask && (s.cline? la).isNone then
              (s.flushEvict la).install ⟨la, obj, tp, true, poison, data⟩ cls
            else s.fillNow la obj tp cls
          match s.cline? la with
          | none => (s, none)
          | some (kk, cl) =>
            let cl' := cl.store data m poison
            ((s.putWay kk cl').stored obj tp la cl'.data cl'.poison d, none)

/-- A line to write: its number, the new data and which bytes, whether the data came poisoned, and the detail code of an
old value that failed (0 without one). -/
structure WLine where
  ln : Nat
  data : Line
  mask : Mask
  poison : Bool
  det : Nat
deriving DecidableEq, Repr

/-- A line that counts as failing (R146), with its detail code. -/
def WLine.fail? (w : WLine) : Option Nat := if w.det ≠ 0 then some w.det else if w.poison then some (lineDet false) else none

/-- Write lines in order until one must wait; how many were written, and why the next waits. -/
def State.storeLines (s : State) (d cls : Nat) (obj : Nat) (o : Obj) (ws : List WLine) : State × Nat × Option Why :=
  ws.foldl (fun x w =>
    match x.2.2 with
    | some _ => x
    | none =>
      let r := x.1.storeLine d cls obj o w.ln w.data w.mask w.fail?.isSome
      match r.2 with
      | some why => (r.1, x.2.1, some why)
      | none => (r.1, x.2.1 + 1, none)) (s, 0, none)

/-- Run the writing part of a command on the lines that are ready, failing lines noted, then its end when `all` are;
`stop` is the offset at which a data-buffer DMA failed. -/
def State.cmdStore (s : State) (c : Cmd) (obj : Nat) (o : Obj) (ws : List WLine) (all : Bool) (stop : Option Nat)
    (bytes : Nat) : State :=
  let r := s.storeLines c.dom sc2 obj o ws
  let fs := (ws.take r.2.1).filterMap fun w => w.fail?.map fun x => (max c.tofs (64 * w.ln), x)
  let s := r.1.updCmd c.uid fun c => { c with part := c.part + r.2.1 }.note fs
  match r.2.2 with
  | some why => s.entWait (.cmd c.uid) c.dom why obj (((ws.drop r.2.1).head?.map (·.ln / 1024)).getD 0)
  | none => if all then s.cmdEnd c.uid stop bytes else s

/-- The lines among `lns` that a WRITE, FILL or UNSEAL of a range writes: `byte` gives the new byte at an object offset,
`pois` the lines whose data came poisoned, `bad` those whose old value failed the ladder. A full line's old value
does not matter (R146). -/
def State.writeList (s : State) (o : Obj) (ofs len : Nat) (lns : List Nat) (byte : Nat → Nat) (pois bad : List Nat) :
    List WLine :=
  lns.map fun ln =>
    let m := partMask (linePart ofs len ln)
    ⟨ln, lineOfBytes (fun k => byte (64 * ln + k)), m, pois.contains ln,
      if m != fullMask && (s.objLine o ln bad).2 then lineDet (bad.contains ln) else 0⟩

/-- The lines among `lns` of which only a part lies in the range: their old value is read (R146, R221). -/
def partLines (ofs len : Nat) (lns : List Nat) : List Nat := lns.filter fun ln => (linePart ofs len ln).length != 64

/-- Write a range of an object for a command from its next line on, page by page. -/
def State.cmdWrite (s : State) (c : Cmd) (o : Obj) (len upto : Nat) (byte : Nat → Nat) (pois bad : List Nat)
    (stop : Option Nat) : State :=
  let r := s.readyLines c c.tobj o ((linesOf c.tofs upto).drop c.part) false
  let pr := r.1.probeLines o c.dom (partLines c.tofs upto r.2.1) bad
  pr.1.cmdStore c c.tobj o (pr.1.writeList o c.tofs upto r.2.1 byte pois pr.2) r.2.2 (stop.map fun _ => c.tofs + upto) len

/-- WRITE (R146): `data` is the host buffer, `pois` lines of the range whose DMA data came poisoned. -/
def execWrite (uid : Nat) (data : List Nat) (pois bad : List Nat) (stop : Option Nat) (s : State) : Out :=
  match s.running? uid opWrite with
  | none => .next s
  | some c =>
    match s.own? c.tobj with
    | none => .next s
    | some o =>
      let len := sqeLen c.words
      let stop := stop.filter fun x => decide (x < len)
      .next (s.cmdWrite c o len (dmaUpto c.tofs len stop) (fun x => data.getD (x - c.tofs) 0) pois bad stop)

/-- FILL (R148): byte x takes byte x mod 8 of PATTERN. -/
def execFill (uid : Nat) (bad : List Nat) (s : State) : Out :=
  match s.running? uid opFill with
  | none => .next s
  | some c =>
    match s.own? c.tobj with
    | none => .next s
    | some o =>
      let len := sqeLen c.words
      .next (s.cmdWrite c o len len (fun x => bits (sqeAddr c.words) (8 * (x % 8)) 8) [] bad none)

/-- One byte of an object as it stands. -/
def State.objByte (s : State) (o : Obj) (x : Nat) : Nat := lineByte (s.objLine o (x / 64) []).1 (x % 64)

/-- The source lines of destination line ln of a COPY. -/
def copySrc (c : Cmd) (len ln : Nat) : List Nat :=
  ((linePart c.tofs2 len ln).map fun k => (64 * ln + k + c.tofs - c.tofs2) / 64).eraseDups

/-- The destination offset of the first byte of source line sl that a COPY takes. -/
def copyAt (c : Cmd) (sl : Nat) : Nat := max c.tofs (64 * sl) + c.tofs2 - c.tofs

/-- One destination line of a COPY, which reads the source as it then stands; the second part says that no line has
had to wait. A failing source line counts once, at the destination line of its first byte; so does the old value of a
destination line that a partial line merges (R146, R147). -/
def State.copyLine (uid len : Nat) (bad : List Nat) (o1 o2 : Obj) (x : State × Bool) (ln : Nat) : State × Bool :=
  if !x.2 then x
  else
    match x.1.running? uid opCopy with
    | none => (x.1, false)
    | some c =>
      let src := copySrc c len ln
      let r1 := x.1.readyLines c c.tobj o1 src true
      let r2 := r1.1.readyLines c c.tobj2 o2 [ln] false
      if !(r1.2.2 && r2.2.2) then (r2.1, false)
      else
        let m := partMask (linePart c.tofs2 len ln)
        let p1 := r2.1.probeLines o1 c.dom src bad
        let p2 := p1.1.probeLines o2 c.dom (partLines c.tofs2 len [ln]) []
        let s := p2.1
        let fails := src.filter fun sl => (s.objLine o1 sl p1.2).2
        let old := m != fullMask && (s.objLine o2 ln p2.2).2
        let data := lineOfBytes fun k => s.objByte o1 (64 * ln + k + c.tofs - c.tofs2)
        let w := s.storeLine c.dom sc2 c.tobj2 o2 ln data m (!fails.isEmpty || old)
        match w.2 with
        | some why => (w.1.entWait (.cmd uid) c.dom why c.tobj2 (ln / 1024), false)
        | none => (w.1.updCmd uid fun c => { c with part := c.part + 1 }.note
            (((fails.filter fun sl => copyAt c sl / 64 == ln).map fun sl => (copyAt c sl, lineDet (bad.contains sl)))
              ++ (if old then [(max c.tofs2 (64 * ln), lineDet (p2.2.contains ln))] else [])), true)

/-- COPY (R147): destination lines are written downward when the destination lies above the source in
one object, upward otherwise, so an overlap reads every source byte before it is overwritten. -/
def execCopy (uid : Nat) (bad : List Nat) (s : State) : Out :=
  match s.running? uid opCopy with
  | none => .next s
  | some c =>
    match s.own? c.tobj, s.own? c.tobj2 with
    | some o1, some o2 =>
      let len := sqeLen c.words
      let down := c.tobj == c.tobj2 && decide (c.tofs < c.tofs2)
      let lns := if down then (linesOf c.tofs2 len).reverse else linesOf c.tofs2 len
      let x := (lns.drop c.part).foldl (fun x ln => State.copyLine uid len bad o1 o2 x ln) (s, true)
      .next (if x.2 then x.1.cmdEnd uid none len else x.1)
    | _, _ => .next s

/-- The code pages of a tier page that a range covers. -/
def coveredCps (ofs len tp : Nat) : List Nat :=
  (List.range 16).filter fun k => decide (ofs ≤ tp * 65536 + k * 4096) && decide (tp * 65536 + k * 4096 < ofs + len)

/-- Step 1 of R150 for one covered code page: the buffer's bytes are written into the escrow frame through the front
cache's slice (R17) and charged to the domain; the old page's charge is released (step 5). -/
def State.switchNew (s : State) (c : Cmd) (o : Obj) (ix tp f k : Nat) (byte : Nat → Nat) : State :=
  let s := s.each (List.range 64) fun (s : State) (j : Nat) =>
    s.writeDram (1024 * f + 64 * k + j) ⟨lineOfBytes (fun b => byte (tp * 65536 + k * 4096 + 64 * j + b)), .good⟩ .fch sc2
  let s := s.releaseCp ix k 0
  if !o.persist then s
  else
    let s := s.chargeKey c.dom (f, k)
    let s := s.setMap ix ((s.mapE ix).setCp k 1)
    match s.frame? f with
    | some x => s.setFrame f { x with chg := setBits x.chg (8 * k) 8 c.dom }
    | none => s

/-- Step 3 of R150 for one uncovered code page: it is copied from the old frame, an uncorrectable line poisoned, with its
charge (R61), its page-code lines and its place in the recode queue (R299, R300). -/
def State.switchCopy (s : State) (ix tp oldF f k : Nat) (bad : List Nat) : State :=
  let s := (s.dreq (1024 * oldF + 64 * k) 64 false .tpe sc2).dreq (1024 * f + 64 * k) 64 true .tpe sc2
  let ls := (s.cpLines oldF k).map fun l =>
    if bad.contains (1024 * tp + 64 * k + l.1) || l.2.st == .marked then (l.1, ⟨l.2.data, .poison⟩) else l
  let extra := (List.range 64).filterMap fun j =>
    if bad.contains (1024 * tp + 64 * k + j) then some (j, DLine.mk 0 .poison) else none
  let s := (s.putCp f k extra)
  let s := s.each ls fun s l => s.setDline (1024 * f + 64 * k + l.1) l.2
  let mv := fun (x : Key) => if x = (oldF, k) then (f, k) else x
  let s := { s with stl := { s.stl with chq := s.stl.chq.map mv }
                    int := { s.int with recode := s.int.recode.map mv, pcLost := s.int.pcLost.map mv } }
  s.redirty ix k

/-- Steps 1 to 5 of R150 for one tier page: an escrow frame takes the covered code pages from the buffer
and the others from the old frame, and the frame-map entry is switched to it. -/
def State.switchPage (s : State) (c : Cmd) (o : Obj) (tp : Nat) (byte : Nat → Nat) (bad : List Nat) : State :=
  let ix := o.mapBase + tp
  let oldF := (s.mapE ix).frame
  let cov := coveredCps c.tofs (sqeLen c.words) tp
  let chg := ((s.frame? oldF).map (·.chg)).getD 0
  let f := s.nextFrame
  let s := s.takeFrame ⟨c.tobj, tp, 0, c.dom, 1, true, chg⟩
  let s := s.each (List.range 16) fun (s : State) (k : Nat) =>
    if cov.contains k then s.switchNew c o ix tp f k byte else s.switchCopy ix tp oldF f k bad
  let s := s.setMap ix { s.mapE ix with st := .t1, frame := f }
  s.freeFrame oldF

/-- The code pages that the atomic group of a WRITE_ATOMIC carries of a tier page (R151): the covered ones, and those
that took a failing line of `old`. -/
def groupCps (c : Cmd) (old : List Nat) (tp : Nat) : List Nat :=
  let cov := coveredCps c.tofs (sqeLen c.words) tp
  (List.range 16).filter fun k => cov.contains k || old.any fun ln => ln / 64 == 16 * tp + k

/-- The atomic group of a WRITE_ATOMIC to a mirrored object (R45, R335): four ATOMIC records a code page, then
COMMIT. -/
def State.sendGroup (s : State) (c : Cmd) (o : Obj) (tps old : List Nat) : State :=
  let s := s.each tps fun s tp => s.each (groupCps c old tp) fun s k =>
    s.each (List.range 4) fun s g =>
      let vs := (List.range 16).map fun j => s.objLine o (1024 * tp + 64 * k + 16 * g + j) []
      let pois := ((vs.mapIdx fun i v => if v.2 then 2 ^ i else 0)).foldl (· + ·) 0
      s.addRec (laneOf c.tobj tp) .atomic c.tobj (16 * tp + k) (0xFFFF * 2 ^ (16 * g)) pois
        (vs.mapIdx fun i v => (16 * g + i, v.1)) [] c.dom false
  let t0 := c.tofs / 65536
  s.addRec (laneOf c.tobj t0) .commit c.tobj (16 * t0) tps.length 0 [] [] c.dom false

/-- What a switched WRITE_ATOMIC does for the twin (R45, R52, R336, R340), as mirStore does for a store. -/
def State.mirAtomic (s : State) (c : Cmd) (o : Obj) (tps old : List Nat) : State :=
  let s := s.when (o.mirror && s.mirSoloes c.tobj) fun s => s.each tps fun s tp => s.soloMark c.tobj tp
  if !o.mirror || s.rd .STATE == mirNoTwin || s.unmatchedHere c.tobj then s
  else if s.mirUp then s.sendGroup c o tps old
  else { s with mir := { s.mir with soloDoms := withNat s.mir.soloDoms c.dom } }

/-- Why a WRITE_ATOMIC cannot switch now, if it cannot (R150): a fence or the record path, the charges of its covered code
pages, of the journal page and of solo-map pages (R62), escrow frames, host copies (R44), and fills of the old frames
that are not back (R225). -/
def State.atomicWait (s : State) (c : Cmd) (o : Obj) (tps frames : List Nat) : Option Why :=
  match (if o.mirror then s.mirWait c.tobj else none) with
  | some why => some why
  | none =>
    if !s.canCharge2 c.dom (if o.persist then sqeLen c.words / 4096 else 0)
        ((s.jNew 1).length + s.mirNeedsAll o c.tobj tps) then some .flt
    else if s.rd .FREE_FRAMES < tps.length then some .frame
    else if !s.framesClear frames || frames.any s.fillsOn then some .snoop
    else none

/-- WRITE_ATOMIC (R149 to R151, R335): `data` is the host buffer; `bad` old lines outside the covered
range that are uncorrectable; a DMA failure leaves the whole range old. -/
def execWriteAtomic (uid : Nat) (data : List Nat) (bad : List Nat) (stop : Bool) (s : State) : Out :=
  match s.running? uid opAtomic with
  | none => .next s
  | some c =>
    match s.own? c.tobj with
    | none => .next s
    | some o =>
      let len := sqeLen c.words
      if stop then .next (s.cmdErr c 0x13 0x1C c.tofs 0)
      else
        let tps := pagesOf c.tofs len
        let r := s.cmdPages c c.tobj o (c.tofs / 65536 * 65536) (tps.length * 65536) false true
        if !r.2 then .next r.1
        else
          let s := r.1
          let frames := tps.map fun tp => (s.mapE (o.mapBase + tp)).frame
          match s.atomicWait c o tps frames with
          | some why => .next ((s.when (why == .snoop) (·.invalFrames frames)).entWait (.cmd uid) c.dom why c.tobj (c.tofs / 65536))
          | none =>
            let s := s.each frames fun s f => s.cleanFrame f sc2
            let kept := tps.flatMap fun tp => (List.range 1024).filterMap fun j =>
              if (coveredCps c.tofs len tp).contains (j / 64) then none else some (1024 * tp + j)
            let pr := s.probeLines o c.dom kept bad
            let s := pr.1
            -- a stored poisoned or marked old line outside the covered range also counts as failed
            let old := kept.filter fun ln => (s.objLine o ln pr.2).2
            let s := s.each tps fun s tp => s.switchPage c o tp (fun x => data.getD (x - c.tofs) 0) pr.2
            let s := s.journal (tps.map fun tp => .map (o.mapBase + tp) (some (s.mapE (o.mapBase + tp))))
            let s := (s.updCmd uid fun c => { c with switched := true }).mirAtomic c o tps old
            let s := s.rerun fun w => w.why == .atomic && w.obj == c.tobj
            match old with
            | [] => .next (s.cmdOk c (len / 4096) tps.length)
            | f :: fs => .next (s.cmdErr c 0x30 (lineDet (pr.2.contains f)) (64 * f) (fs.length + 1))

end Sys2Proof.Machine
end

