-- ==== Sys2Proof/Machine/TierOps.lean ====
section
/-! DEFINITION. The shared operations of the tier and placement engine (07_objects_and_tiers.md,
08_page_movement.md): runs and homes, the pages a command frees, placement moves, floors and
eligibility. -/

namespace Sys2Proof.Machine

/-! ### Vault capacity -/

/-- Channels online (Table 11.1). -/
def State.chOnline (s : State) (c : Nat) : Bool := bit (s.rd .CH_ONLINE) c

/-- The data MiB of the vault blocks of the online channels, rehearsal blocks excluded (R284):
(VAULT_BLK - 1) blocks of 8 MiB, 16 of every 18 chunks. -/
def State.vaultCap (s : State) : Nat :=
  (s.nfc.vaultBlk - 1) * popCount (s.rd .CH_ONLINE) 36 * 8 * 16 / 18

/-- VAULT_CAP_MIB and VAULT_FREE_MIB follow the channels and the content awaiting re-homing (the code pages at
0b11), counted in bytes of Table 03.2 rounded up to MiB. -/
def State.vaultRegs (s : State) : State :=
  let cap := s.vaultCap
  (s.wr .VAULT_CAP_MIB cap).wr .VAULT_FREE_MIB (cap - cdiv (s.rd .REHOME_LEFT * 4104) 1048576)

/-- The number of code pages at 0b11 (REHOME_LEFT). -/
def State.rehomeCount (s : State) : State :=
  s.wr .REHOME_LEFT ((s.md.fmap.map fun e => ((List.range 16).filter fun k => e.2.cpSt k == 3).length).foldl (· + ·) 0)

/-! ### The ledger's registers -/

/-- The number of tier pages of the objects that a test accepts. -/
def State.pagesWhere (s : State) (p : Obj → Bool) : Nat :=
  (s.md.ledger.map fun e => if p e.2 then e.2.pages else 0).foldl (· + ·) 0

/-- OBJ_COUNT, MAP_USED and RESERVED_TP follow the ledger (R195). -/
def State.ledgerRegs (s : State) : State :=
  let s := s.wr .OBJ_COUNT s.md.ledger.length
  let s := s.wr .MAP_USED (s.pagesWhere fun _ => true)
  (s.wr .RESERVED_TP (s.pagesWhere Obj.persist)).rehomeCount.vaultRegs

/-- REFS of a slot counts the ledger entries that name it (R385). -/
def State.refsReg (s : State) (k : Nat) : State :=
  s.wri .REFS k (s.md.ledger.filter fun e => e.2.slot = k).length

/-- A slot is usable by a domain for a mode, 1 XTS or 2 GCM (R384). -/
def State.slotUsable (s : State) (k d mode : Nat) : Bool :=
  k != 0 && s.rdi .MODE k == mode && (s.rdi .OWNER k == d || s.fli .ANY k || d == 0)

/-! ### Runs and homes -/

/-- Entries of the frame map (Table 07.1). -/
def mapEntries : Nat := 2 ^ 31

/-- Entries that the runs of volatile objects hold at most (R169). -/
def volatileBound : Nat := 536870912

/-- The runs in use: start and length (R169). -/
def MetaData.runs (m : MetaData) : List (Nat × Nat) :=
  m.ledger.filterMap fun e => if e.2.pages = 0 then none else some (e.2.mapBase, e.2.pages)

/-- The n entries from c on are free. -/
def runFree (rs : List (Nat × Nat)) (c n : Nat) : Bool :=
  decide (c + n ≤ mapEntries) && rs.all fun r => decide (c + n ≤ r.1) || decide (r.1 + r.2 ≤ c)

/-- The lowest free run of n entries (R169; log entry 7); an object of size 0 owns no run. -/
def MetaData.findRun (m : MetaData) (n : Nat) : Option Nat :=
  if n = 0 then some 0
  else ((0 :: m.runs.map fun r => r.1 + r.2).filter (runFree m.runs · n)).min?

/-- The homes held, each 2^32 + HOME[63:32] (Table 07.4); 0 is no home. -/
def MetaData.homesHeld (m : MetaData) : List Nat :=
  m.fmap.filterMap fun e => if e.2.home = 0 then none else some e.2.home

/-- The home in group g with the lowest stripe number that none of the used homes holds (R200). -/
def pickHome (used : List Nat) (g : Nat) : Nat :=
  let c := 2 ^ 32 + g * 2 ^ 31
  c + ((List.range (used.length + 1)).find? fun i => !used.contains (c + i)).getD 0

/-- The frame-map entries of n new persistent pages from page `first` of a run: a home each, in the group
of R200. -/
def MetaData.homeOps (m : MetaData) (base first n : Nat) : List JOp :=
  ((List.range n).foldl (fun (x : List Nat × List JOp) i =>
    let ix := base + first + i
    let h := pickHome x.1 (ix % 2)
    (h :: x.1, x.2 ++ [.map ix (some { zeroPage with home := h })])) (m.homesHeld, [])).2

/-- New pages of an object from page `first` on take their homes: what the homes and the vault last held
belongs to no page any more, and is kept only until the journal entry about to be written is settled (R58). -/
def State.takeHomes (s : State) (obj first : Nat) (ops : List JOp) : State :=
  let hs := ops.filterMap fun o => match o with
    | .map _ (some e) => some e.home
    | _ => none
  let mine := fun (k : Key) => k.1 == obj && decide (16 * first ≤ k.2)
  let x : Shadow := ⟨s.jr.log.length, mfilter s.nfc.homes fun k _ => hs.contains k.1, mfilter s.nfc.vault fun k _ => mine k⟩
  { s with nfc := { s.nfc with homes := mfilter s.nfc.homes fun k _ => !hs.contains k.1
                               vault := mfilter s.nfc.vault fun k _ => !mine k
                               shadow := if x.homes.isEmpty && x.vault.isEmpty then s.nfc.shadow else s.nfc.shadow ++ [x] } }

/-- Put back what journal entries from number n on gave up: they are lost (R58). -/
def State.shadowBack (s : State) (n : Nat) : State :=
  let back := s.nfc.shadow.reverse.filter fun x => decide (n ≤ x.at')
  let put := fun (m x : SMap (List (Nat × DLine))) => x.foldl (fun m e => mput m e.1 e.2) m
  { s with nfc := { s.nfc with homes := back.foldl (fun m x => put m x.homes) s.nfc.homes
                               vault := back.foldl (fun m x => put m x.vault) s.nfc.vault, shadow := [] } }

/-- Forget what settled journal entries gave up. -/
def State.shadowTrim (s : State) : State :=
  { s with nfc := { s.nfc with shadow := s.nfc.shadow.filter fun x => decide (s.jr.settled ≤ x.at') } }

/-- The group of a home. -/
def homeGroup (h : Nat) : Nat := bits h 31 1
/-- The stripe number of a home. -/
def homeStripe (h : Nat) : Nat := bits h 0 31

/-! ### T2 contents -/

/-- Write the cold contents of a page into frame f (Table 07.10 step 4); a code page listed in `bad`
neither decodes nor rebuilds and is written with its lines marked for the recovery ladder. -/
def State.loadCold (s : State) (obj tp : Nat) (e : MapE) (f : Nat) (bad : List Nat) : State :=
  s.each (List.range 16) fun s k =>
    let ls := s.coldCp obj tp e k
    let ls := if bad.contains k then (List.range 64).map fun j =>
        (j, DLine.mk (((ls.find? fun x => x.1 = j).map (·.2.data)).getD 0) .marked)
      else ls
    s.putCp f k ls

/-! ### Requests of a page freed under a move -/

/-- Answer a host request of a freed page (Table 07.8): a load gets the line given, a store completes without
effect. -/
def State.answerReq (s : State) (r : HostReq) (d : DLine) : State :=
  if r.wr then s.doneWrite r else s.doneRead r d.data (d.st != LSt.good)

/-- Answer a host request for line la from the line as it stands. -/
def State.answerAt (s : State) (la : Nat) (q : Req) : State :=
  match q.who with
  | .host r => s.answerReq r (s.lineNow la)
  | _ => s

/-- Answer every request attached to miss registers of a frame whose page was freed, or queued for one (Table 07.8, R154);
the freed registers serve the slices' queues (R229). -/
def State.answerMrs (s : State) (f : Nat) : State :=
  let hit := s.fch.mrs.filter fun e => e.2.la / 1024 == f
  let qd := s.fch.mq.filter fun e => e.la / 1024 == f
  let s := s.each hit fun s e => s.each e.2.reqs fun s q => s.answerAt e.2.la q
  let s := s.each qd fun s e => s.answerAt e.la e.req
  let s := { s with fch := { s.fch with mrs := s.fch.mrs.filter fun e => e.2.la / 1024 != f
                                        mq := s.fch.mq.filter fun e => e.la / 1024 != f } }
  s.each (hit.map (·.1.1)) State.missQueue

/-- The object offset that a packet's address names through its key (R355). -/
def State.keyOfs (s : State) (p : Pkt) : Nat :=
  let ws := (mget s.rae.keys (p.rkey / 2 ^ 16, 0)).getD []
  bits (ws.getD 1 0) 0 48 + (p.va + 2 ^ 64 - ws.getD 2 0) % 2 ^ 64

/-- A packet of context x that waits for a freed page completes (Table 07.8): what it reads of the page is kept for its
answer, and bytes of the object's other pages are free values (log entry 29). -/
def State.ctxGone (s : State) (x psn tp : Nat) (line : Nat → DLine) : State :=
  match s.ctxReady x with
  | none => s
  | some c => match (c.blocked.toList ++ c.reads).find? fun (p : Pkt) => p.psn == psn with
    | none => s
    | some p =>
      let ofs := s.keyOfs p
      let n := if p.op = 0x0C then p.len else if p.op = 0x13 ∨ p.op = 0x14 then 8 else 0
      let byte := fun (k : Nat) =>
        let y := ofs + k
        let l := line (y / 64 % 1024)
        if y / 65536 ≠ tp then bits s.freeVal (8 * k) 8 else if l.st = .good then lineByte l.data (y % 64) else 256
      (s.putCtx x { c with gone := c.gone ++ [(psn, (List.range n).map byte)] }).freeNext

/-- The same for requests waiting under a freed page's move (Table 07.8). -/
def State.answerGone (s : State) (m : Move) : State :=
  let hit := s.waits.filter fun (w : Wait) => w.why == Why.gone && w.obj == m.id
  let s := { s with waits := s.waits.filter fun (w : Wait) => !(w.why == Why.gone && w.obj == m.id) }
  (s.each hit fun (s : State) (w : Wait) => match w.ent with
    | .host r => (s.stallEnd w.dom).answerReq r (s.lineNow (1024 * m.frame + r.dpa / 64 % 1024))
    | .rdma x psn => (s.stallEnd w.dom).ctxGone x psn w.tp fun j => s.lineNow (1024 * m.frame + j)
    | _ => s).answerMrs m.frame

/-- Drop the front-cache lines of a frame, dirty or not. -/
def State.discardFrame (s : State) (f : Nat) : State :=
  { s with fch := { s.fch with lines := s.fch.lines.filter fun e => e.2.la / 1024 != f
                               mrs := s.fch.mrs.filter fun e => !(e.2.la / 1024 == f && e.2.st == .evict && e.2.reqs == []) } }

/-- A begun move of a freed page ends: its requests are answered and its frame is freed. -/
def State.endOrphan (s : State) (m : Move) : State :=
  (((s.answerGone m).discardFrame m.frame).freeFrame m.frame).dropMove m.id

/-- The line a request of a page outside DRAM would load: home or vault, zeros of a ZERO page, and of a T3 slot a free
value (log entry 6). -/
def State.coldLine (s : State) (obj tp : Nat) (e : MapE) (j : Nat) : DLine :=
  match e.st with
  | .t2 => (((s.coldCp obj tp e (j / 64)).find? fun x => x.1 == j % 64).map (·.2)).getD zeroLine
  | .t3 => ⟨BitVec.ofNat 512 s.freeVal, .good⟩
  | _ => zeroLine

/-- Host requests and packets that wait for a page whose fetch has not begun complete when the page is freed (R154). -/
def State.answerCold (s : State) (obj tp : Nat) (e : MapE) : State :=
  let hit := s.waits.filter fun (w : Wait) => w.obj == obj && w.tp == tp && w.why == Why.page
  let s := { s with waits := s.waits.filter fun (w : Wait) => !hit.contains w }
  s.each hit fun (s : State) (w : Wait) => match w.ent with
    | .host r => ((s.stallEnd w.dom).answerReq r (s.coldLine obj tp e (r.dpa / 64 % 1024))).freeNext
    | .rdma x psn => (s.stallEnd w.dom).ctxGone x psn tp (s.coldLine obj tp e)
    | _ => s

/-- Free tier page tp of an object in the frame map (R154, R155, Table 07.8): queued moves are cancelled and their
waiting requests complete, a begun move is orphaned, frame and charges are released. The caller journals the entry's
removal. -/
def State.freePage (s : State) (obj : Nat) (o : Obj) (tp : Nat) : State :=
  let ix := o.mapBase + tp
  let e := s.mapE ix
  let ms := s.tpe.moves.filter fun m => m.obj == obj && m.tp == tp
  let s := s.each (ms.filter fun m => m.st == .queued) State.cancelMove
  match ms.find? fun m => m.st != .queued with
  | some m =>
    let s := if e.st = .fetching && m.src0 == .t2 then s.loadCold obj tp e m.frame [] else s
    let s := s.updMove m.id fun m => { m with orphan := true }
    { s with waits := s.waits.map fun (w : Wait) =>
      if w.obj = obj ∧ w.tp = tp ∧ w.why = Why.page then { w with why := Why.gone, obj := m.id } else w }
  | none =>
    if e.st = .t1 then
      let s := s.releasePage ix
      ((s.answerMrs e.frame).discardFrame e.frame).freeFrame e.frame
    else s.answerCold obj tp e

/-- Schedule entries not yet started lose their pages of an object from page n on (R154, R155). -/
def State.cutEntries (s : State) (obj n : Nat) : State :=
  let keep := fun (e : SEnt) => if e.started || e.obj != obj then e.pages else min e.pages (n - e.ofs / 65536)
  State.streamEnds { s with tpe := { s.tpe with streams := s.tpe.streams.map fun t =>
    { t with cancelled := t.cancelled + (t.ents.map fun e => e.pages - keep e).foldl (· + ·) 0
             ents := t.ents.map fun e => { e with pages := keep e, started := e.started || (keep e == 0 && e.pages != 0) } } } }

/-- Tier pages of a range whose state is not ZERO (R154 freed tier pages). -/
def State.usedPages (s : State) (o : Obj) (first n : Nat) : Nat :=
  ((List.range n).filter fun i => (s.mapE (o.mapBase + first + i)).st != .zero).length

/-- The frames of a page range that host copies could show: resident or leaving. -/
def State.rangeFrames (s : State) (o : Obj) (first n : Nat) : List Nat :=
  (List.range n).filterMap fun i =>
    let e := s.mapE (o.mapBase + first + i)
    if e.st = .t1 ∨ e.st = .leaving then some e.frame else none

/-! ### Tallies, holds and floors -/

/-- Move a frame's tally to another domain (R177). -/
def State.moveAcct (s : State) (f d : Nat) : State :=
  match s.frame? f with
  | none => s
  | some e =>
    let s := (s.wri .TALLY e.acct (s.rdi .TALLY e.acct - 1)).ceilFlag e.acct
    ((s.wri .TALLY d (s.rdi .TALLY d + 1)).ceilFlag d).setFrame f { e with acct := d }

/-- The domains that hold an object, rising. -/
def Obj.holders (o : Obj) : List Nat := (List.range 256).filter (o.holdMap.testBit ·)

/-- Frames of an object tallied to d go to the lowest-numbered domain still holding it, if any (R177). -/
def State.passAcct (s : State) (obj d : Nat) (o : Obj) : State :=
  match o.holders with
  | [] => s
  | h :: _ =>
    s.each ((s.tpe.frames.filter fun e => e.2.obj = obj ∧ e.2.acct = d).map (·.1.1)) fun s f => s.moveAcct f h

/-- Drop a domain's hold on an object, journalled when it held one (R159, R185, R186). -/
def State.dropHold (s : State) (obj d : Nat) : State :=
  match s.obj? obj with
  | none => s
  | some o =>
    if !bit o.holdMap d then s
    else
      let o' := { o with holdMap := setBit o.holdMap d false }
      let s := s.journal [.obj obj (some o')]
      let s := if o.mirror then s.mirMeta obj [.obj obj (some o')] d else s
      s.passAcct obj d o'

/-- The object and tier decide that a resident page may be demoted (R175, R185): no hold, and
LOWEST_TIER T2 or T3 for a persistent object or replica, T3 with a bound slot for a volatile one. -/
def mayDemote (o : Obj) (e : MapE) : Bool :=
  o.holdMap == 0 && (if o.persist || o.kind == 2 then o.lowest != 1 else o.lowest == 3 && e.t3Bound)

/-- The tier a demotion reaches (R182). -/
def demoteTo (o : Obj) : PgSt := if o.persist || o.kind == 2 then .t2 else .t3

/-- A dispatched WRITE_ATOMIC's locked range holds the page (R180, R188). -/
def State.inLockedRange (s : State) (obj tp : Nat) : Bool := s.atomicPins obj tp

/-- A frame is eligible for eviction (R180); otherwise its PIN is 1. -/
def State.eligibleFrame (s : State) (f : Nat) (x : Frame) : Bool :=
  match s.obj? x.obj with
  | none => false
  | some o =>
    let e := s.mapE (o.mapBase + x.tp)
    (x.use == 1 || x.use == 3) && e.st == .t1 && e.frame == f && mayDemote o e
      && ((!o.persist && o.kind == 1) || e.clean) && (s.moveOf x.obj x.tp).isNone && !s.inLockedRange x.obj x.tp

/-! ### Placement moves -/

/-- Operating time in µs at the last tick boundary (R424: 40 ns units). -/
def State.nowUs (s : State) : Nat := s.rd .OP_TIME / 25

/-- A queued move of a page. -/
def State.queuedOf (s : State) (obj tp : Nat) : Option Move :=
  s.tpe.moves.find? fun m => m.obj == obj && m.tp == tp && m.st == .queued

/-- What a promotion request finds on a page (R187, R213). -/
inductive Want where
  | already | cancel (m : Move) | back | attach (m : Move) | move
deriving DecidableEq, Repr

/-- A promotion to T1 meets a page: it is there; a demotion not begun is cancelled; a demotion under way
is fetched back; an equal move is joined; else a promotion is queued. -/
def State.wantT1 (s : State) (obj : Nat) (o : Obj) (tp : Nat) : Want :=
  match s.queuedOf obj tp, s.moveOf obj tp with
  | some q, _ => if q.dest == .t1 then .attach q else .cancel q
  | none, some m => if m.dest == .t1 then .attach m else .back
  | none, none => if (s.mapE (o.mapBase + tp)).st = .t1 then .already else .move

/-- A demotion request meets a page (R188, R213): it is already out of DRAM or never written; a promotion
not begun, other than a demand fetch, is cancelled; an equal move is joined; else a demotion is
queued, behind a promotion under way. -/
def State.wantOut (s : State) (obj : Nat) (o : Obj) (tp : Nat) (dest : PgSt) : Want :=
  match s.queuedOf obj tp, s.moveOf obj tp with
  | some q, _ => if q.dest == dest then .attach q else if q.dest == .t1 && q.src != .demand then .cancel q else .move
  | none, some m => if m.dest == dest then .attach m else .move
  | none, none =>
    let st := (s.mapE (o.mapBase + tp)).st
    if st = .t1 then .move else .already

/-- Attach a source to an existing move (Table 08.3). -/
def State.attachMove (s : State) (m : Move) (src : MSrc) : State :=
  s.updMove m.id fun m => { m with also := m.also ++ [src] }

/-- Queue a promotion of a page. -/
def State.queuePromote (s : State) (obj : Nat) (o : Obj) (tp : Nat) (src : MSrc) (d deadline : Nat) : State :=
  s.queueMove ⟨0, obj, tp, src, [], .queued, (s.mapE (o.mapBase + tp)).st, .t1, 0, d, deadline, false, false, false⟩

/-- The first line of frame-map entry ix (Table 07.1). -/
def mapLa (ix : Nat) : Nat := (partBase 2 + 16 * ix) / 64

/-- The requests of moving n frame-map entries, at SC3 (R169). -/
def State.mapDreq (s : State) (old new n : Nat) : State :=
  let lines := fun (a : Nat) => mapLa (a + n - 1) + 1 - mapLa a
  (s.dreq (mapLa old) (lines old) false .tpe sc3).dreq (mapLa new) (lines new) true .tpe sc3

/-- Queue a demotion of a page. -/
def State.queueDemote (s : State) (obj tp : Nat) (dest : PgSt) (src : MSrc) (d deadline : Nat) : State :=
  s.queueMove ⟨0, obj, tp, src, [], .queued, .t1, dest, 0, d, deadline, false, false, false⟩

/-- Frames that promoting pages would newly take (R178). -/
def State.framesWanted (s : State) (obj : Nat) (o : Obj) (tps : List Nat) : Nat :=
  (tps.filter fun tp => s.wantT1 obj o tp == .move || s.wantT1 obj o tp == .back).length

/-- The ceiling of R178 for n further frames. -/
def State.underCeil (s : State) (d n : Nat) : Bool := decide (s.rdi .TALLY d + n ≤ s.rdi .CEIL_FRAMES d)

/-- The four counts of a placement command (Table 06.10). -/
structure Counts where
  queued : Nat
  there : Nat
  c1 : Nat
  c2 : Nat
deriving DecidableEq, Repr

/-- Promote pages to T1 (R158, R159, R187), counting. -/
def State.promotePages (s : State) (obj : Nat) (o : Obj) (tps : List Nat) (src : MSrc) (d : Nat) : State × Counts :=
  let dl := s.nowUs + s.rd .PLACE_DL_US
  tps.foldl (fun (x : State × Counts) tp =>
    let n := x.2
    match x.1.wantT1 obj o tp with
    | .already => (x.1, { n with there := n.there + 1 })
    | .cancel m => (x.1.cancelMove m, { n with there := n.there + 1, c1 := n.c1 + 1 })
    | .attach m => (x.1.attachMove m src, { n with queued := n.queued + 1 })
    | .back => (x.1.queuePromote obj o tp src d dl, { n with queued := n.queued + 1, c2 := n.c2 + 1 })
    | .move => (x.1.queuePromote obj o tp src d dl, { n with queued := n.queued + 1 })) (s, ⟨0, 0, 0, 0⟩)

/-- Demote pages to a tier (R158, R186, R188), counting; a page that a hold or LOWEST_TIER keeps in DRAM
is skipped. -/
def State.demotePages (s : State) (obj : Nat) (o : Obj) (tps : List Nat) (dest : PgSt) (d : Nat) : State × Counts :=
  let dl := s.nowUs + s.rd .PLACE_DL_US
  tps.foldl (fun (x : State × Counts) tp =>
    let s := x.1
    let n := x.2
    let e := s.mapE (o.mapBase + tp)
    let out := e.st == .t2 || e.st == .t3 || e.st == .zero
    if out && (s.moveOf obj tp).isNone then (s, { n with there := n.there + 1 })
    else if !(mayDemote o e && demoteTo o == dest) then (s, { n with c1 := n.c1 + 1 })
    else match s.wantOut obj o tp dest with
      | .already => (s, { n with there := n.there + 1 })
      | .cancel m => (s.cancelMove m, { n with there := n.there + 1 })
      | .attach m => (s.attachMove m .place, { n with queued := n.queued + 1 })
      | _ => (s.queueDemote obj tp dest .place d dl, { n with queued := n.queued + 1 })) (s, ⟨0, 0, 0, 0⟩)

end Sys2Proof.Machine
end

