-- ==== Sys2Proof/Machine/Checks.lean ====
section
/-! DEFINITION. Dispatch of commands (R124, R138 to R143): the state checks of every opcode in the order
NO_OBJECT, ACCESS, RANGE, INVALID, NO_SPACE. -/

namespace Sys2Proof.Machine

/-- A failing check: STATUS, detail code, RESULT0. -/
abbrev Bad := Nat × Nat × Nat

/-- An object range a command touches: through the window at `dpa` when WIN names one (R140). -/
structure Touch where
  obj : Nat
  ofs : Nat
  len : Nat
  wr : Bool
  dpa : Option Nat
deriving DecidableEq, Repr

/-- The ranges of a data command. -/
def cmdTouches (c : Cmd) : List Touch :=
  let op := sqeOp c.words
  let len := sqeLen c.words
  let w := if sqeWin c.words then some (sqeOfs c.words) else none
  if op = opRead ∨ op = opSeal then [⟨c.tobj, c.tofs, len, false, w⟩]
  else if op = opWrite ∨ op = opAtomic ∨ op = opFill ∨ op = opUnseal then [⟨c.tobj, c.tofs, len, true, w⟩]
  else if op = opCopy then
    [⟨c.tobj, c.tofs, len, false, if bit (sqeW c.words 2) 48 then some (sqeOfs c.words) else none⟩,
     ⟨c.tobj2, c.tofs2, len, true, if bit (sqeW c.words 2) 49 then some (bits (sqeW c.words 3) 0 48) else none⟩]
  else []

/-- NO_OBJECT of a touched range: its window no longer maps the same object range (0x0011), or the object is gone
(0x0010). -/
def State.touchGone (s : State) (c : Cmd) (t : Touch) : Option Bad :=
  match t.dpa with
  | some dpa => if s.winMaps c.link c.ld dpa t.len = some (t.obj, t.ofs) then
      (if (s.own? t.obj).isNone then some (0x11, 0x10, 0) else none) else some (0x11, 0x11, 0)
  | none => if (s.own? t.obj).isNone then some (0x11, 0x10, 0) else none

/-- ACCESS of a touched range: ACCESS_MODE (0x0018), then a read-only window (0x0019). -/
def State.touchAccess (s : State) (c : Cmd) (t : Touch) : Option Bad :=
  match s.own? t.obj with
  | none => none
  | some o =>
    if !(if t.wr then o.canWrite c.dom else o.canRead c.dom) then some (0x13, 0x18, 0)
    else match t.dpa with
      | some dpa =>
        let ro : Bool := match s.window? c.link c.ld (dpa / 65536) with
          | some (_, w) => w.ro
          | none => false
        if t.wr && ro then some (0x13, 0x19, 0) else none
      | none => none

/-- RANGE of a range: RESULT0 is SIZE when OFFSET lies below it, else OFFSET (R139). -/
def rangeBad (size ofs len : Nat) : Option Bad :=
  if ofs + len ≤ size then none else some (0x12, 0x20, if ofs < size then size else ofs)

/-- RANGE of a touched range. -/
def State.touchRange (s : State) (t : Touch) : Option Bad :=
  (s.own? t.obj).bind fun o => rangeBad o.size t.ofs t.len

/-- INVALID, detail 0x0006: an ATTR value that Table 06.8 does not permit. -/
def attrOk (a : Nat) : Bool :=
  (!bit a 1 || bit a 0) && bits a 2 2 != 0 && (bits a 2 2 != 3 || !bit a 0) && bits a 4 2 != 3

/-- SIZE rounded up to 64 KiB, in tier pages. -/
def sizePages (ws : List Nat) : Nat := cdiv (sqeOfs ws) 65536

/-- ATTR and MASK of an object command (Table 06.9). -/
def sqeAttr (ws : List Nat) : Nat := bits (sqeW ws 3) 0 32
/-- MASK. -/
def sqeMaskBits (ws : List Nat) : Nat := bits (sqeW ws 3) 32 32

/-- OWNER of an OBJ_CREATE: honoured for domain 0 (Table 06.9). -/
def createOwner (c : Cmd) : Nat := if c.dom = 0 then bits (sqeW c.words 1) 32 8 else c.dom

/-- Usable persistent capacity holds n more tier pages (R153). -/
def State.capHolds (s : State) (n : Nat) : Bool := decide (s.pagesWhere Obj.persist + n ≤ s.rd .CAP_TP)

/-- The volatile objects' runs with n more entries stay in the bound of R169. -/
def State.volHolds (s : State) (n : Nat) : Bool :=
  decide ((s.pagesWhere fun o => !o.persist) + n ≤ volatileBound)

/-- OBJ_CREATE (R153, R168, R384). -/
def State.checkCreate (s : State) (c : Cmd) : Option Bad :=
  let a := sqeAttr c.words
  let n := sizePages c.words
  let id := sqeObj c.words
  if c.dom != 0 && bits (sqeW c.words 1) 32 8 != 0 then some (0x13, 0x1B, 0)
  else if !s.slotUsable (bits a 6 12) (createOwner c) 1 then some (0x13, 0x1A, 0)
  else if !attrOk a then some (0x10, 6, 0)
  else if id != 0 && (b2n (bit id 31) != s.rd .ID_SIDE || (s.obj? id).isSome) then some (0x10, 8, 0)
  else if 16777216 ≤ s.md.ledger.length || (!bit a 0 && !s.volHolds n) || (s.md.findRun n).isNone then some (0x20, 0x28, 0)
  else if bit a 0 && !s.capHolds n then some (0x20, 0x29, 0)
  else none

/-- Only the owner or domain 0 may delete, resize, re-attribute or unmap (R141). -/
def Obj.ownedBy (o : Obj) (d : Nat) : Bool := d == 0 || o.owner == d

/-- OBJ_RESIZE (R155). -/
def State.checkResize (s : State) (c : Cmd) (o : Obj) : Option Bad :=
  let n := sizePages c.words
  if o.pages < n then
    let m := { s.md with ledger := mdel s.md.ledger (sqeObj c.words, 0) }
    let room := runFree m.runs o.mapBase n || (m.findRun n).isSome
    if !room || (!o.persist && !s.volHolds (n - o.pages)) then some (0x20, 0x28, 0)
    else if o.persist && !s.capHolds (n - o.pages) then some (0x20, 0x29, 0)
    else none
  else none

/-- ATTR after an OBJ_ATTR: the bits MASK selects, and MIRROR clears with PERSIST (R156). -/
def newAttr (o : Obj) (a m : Nat) : Nat :=
  let x := ((o.attr ^^^ (o.attr &&& m)) ||| (a &&& m)) % 2 ^ 18
  if o.persist && !bit x 0 then setBit x 1 false else x

/-- OBJ_ATTR sets LOWEST_TIER to T1. -/
def setsT1 (o : Obj) (a : Nat) : Bool := bits a 2 2 == 1 && o.lowest != 1

/-- OBJ_ATTR (R156, R178, R169). -/
def State.checkAttr (s : State) (c : Cmd) (o : Obj) : Option Bad :=
  let a := newAttr o (sqeAttr c.words) (sqeMaskBits c.words)
  let raw := sqeAttr c.words &&& sqeMaskBits c.words
  if bits a 6 12 != o.slot && !s.slotUsable (bits a 6 12) o.owner 1 then some (0x13, 0x1A, 0)
  else if !attrOk a || (!o.persist && bit a 0) || (!o.mirror && bit raw 1 && (o.size != 0 || !bit a 0))
      || (bits a 6 12 != o.slot && o.size != 0) then some (0x10, 6, 0)
  else if o.persist && !bit a 0 && !s.volHolds o.pages then some (0x20, 0x28, 0)
  else if setsT1 o a && !s.underCeil c.dom (s.framesWanted (sqeObj c.words) o (List.range o.pages)) then some (0x20, 0x2A, 0)
  else none

/-- The target LD of a window command (Table 06.9). -/
def winTarget (c : Cmd) : Nat × Nat :=
  if bit (sqeW c.words 1) 41 then (bits (sqeW c.words 1) 42 3, bits (sqeW c.words 1) 45 4) else (c.link, c.ld)

/-- DPA of a window command. -/
def winDpa (c : Cmd) : Nat := bits (sqeW c.words 4) 0 47

/-- Window ranges in pages that meet on an LD. -/
def State.winOverlap (s : State) (i pn n : Nat) : Bool :=
  s.md.wins.any fun e => e.1.1 == i && decide (e.1.2 < pn + n) && decide (pn < e.1.2 + e.2.wlen)

/-- WINDOW_MAP (R157, R170): the target LD's DOMAIN needs the access too. -/
def State.checkMap (s : State) (c : Cmd) (o : Obj) : Option Bad :=
  let t := winTarget c
  let i := ldIx t.1 t.2
  let td := s.rdi .PRT_LD_CFG_DOMAIN i
  let ro := bit (sqeW c.words 1) 40
  let dpa := winDpa c
  let len := bits (sqeW c.words 5) 0 48
  let inDc := s.md.extents.any fun e => e.link == t.1 && e.ld == t.2 &&
    decide (e.start * 2 ^ 28 ≤ dpa) && decide (dpa + len ≤ (e.start + e.len) * 2 ^ 28)
  let inSt := decide (dpa + len ≤ s.rdi .LD_CAP_256M i * 2 ^ 28)
  if bit (sqeW c.words 1) 41 && c.dom != 0 then some (0x13, 0x1B, 0)
  else if !o.canRead c.dom || !o.canRead td || (!ro && !o.canWrite td) then some (0x13, 0x18, 0)
  else match rangeBad o.size (sqeOfs c.words) len with
    | some b => some b
    | none =>
      if !s.ldExists t.1 t.2 || !(inSt || inDc) then some (0x12, 0x21, 0)
      else if s.winOverlap i (dpa / 65536) (len / 65536) then some (0x10, 7, 0)
      else if 4096 ≤ (s.md.wins.filter fun e => e.1.1 = i).length || 65536 ≤ s.md.wins.length then some (0x20, 0x2B, 0)
      else none

/-- WINDOW_UNMAP (R157, R141). -/
def State.checkUnmap (s : State) (c : Cmd) (o : Obj) : Option Bad :=
  let t := winTarget c
  let here : Bool := match mget s.md.wins (ldIx t.1 t.2, winDpa c / 65536) with
    | some w => w.obj == sqeObj c.words
    | none => false
  if !here then some (0x11, 0x11, 0)
  else if bit (sqeW c.words 1) 41 && c.dom != 0 then some (0x13, 0x1B, 0)
  else if !o.ownedBy c.dom then some (0x13, 0x18, 0)
  else none

/-- TIER of PLACE and HOLD. -/
def sqeTier (ws : List Nat) : Nat := bits (sqeW ws 1) 32 2

/-- The tier pages of a PLACE. -/
def placePages (c : Cmd) : List Nat :=
  pagesOf (sqeOfs c.words) (bits (sqeW c.words 3) 0 48)

/-- PLACE (R158, R178): TIER 0b00 and a T3 request for a persistent object are values that the command
does not permit. -/
def State.checkPlace (s : State) (c : Cmd) (o : Obj) : Option Bad :=
  let t := sqeTier c.words
  if !o.canRead c.dom then some (0x13, 0x18, 0)
  else match rangeBad o.size (sqeOfs c.words) (bits (sqeW c.words 3) 0 48) with
    | some b => some b
    | none =>
      if t = 0 ∨ (t = 3 ∧ o.persist) then some (0x10, 6, 0)
      else if t = 1 && !s.underCeil c.dom (s.framesWanted (sqeObj c.words) o (placePages c)) then some (0x20, 0x2A, 0)
      else none

/-- HOLD (R159, R178); a second hold by the domain is accepted as it stands. -/
def State.checkHold (s : State) (c : Cmd) (o : Obj) : Option Bad :=
  if !o.canRead c.dom then some (0x13, 0x18, 0)
  else if sqeTier c.words ≠ 1 then some (0x10, 6, 0)
  else if !bit o.holdMap c.dom && !s.underCeil c.dom (s.framesWanted (sqeObj c.words) o (List.range o.pages)) then
    some (0x20, 0x2A, 0)
  else none

/-- The stream of a STREAM_POST or STREAM_CANCEL. -/
def sqeSid (ws : List Nat) : Nat := bits (sqeW ws 1) 32 16

/-- The domain's active stream of a number. -/
def State.stream? (s : State) (d sid : Nat) : Option Stream := s.tpe.streams.find? fun t => t.dom == d && t.sid == sid

/-- STREAM_POSTs of a domain that are dispatched and not yet in the stream table, and those of every domain. -/
def State.streamsDue (s : State) (c : Cmd) : Nat × Nat :=
  let ps := s.cmd.cmds.filter fun x => x.ph == .running && sqeOp x.words == opStream && !x.accepted && x.uid != c.uid
  ((ps.filter (·.dom == c.dom)).length, ps.length)

/-- The stream table has no place (R160): 64 a domain, 1,024 in all. -/
def State.streamsFull (s : State) (c : Cmd) : Bool :=
  decide (64 ≤ (s.tpe.streams.filter fun t => t.dom = c.dom).length + (s.streamsDue c).1)
    || decide (1024 ≤ s.tpe.streams.length + (s.streamsDue c).2)

/-- The state checks of a command at dispatch, in the order of R138; a translation that failed at fetch is
the only check made (R140). -/
def State.stateCheck (s : State) (c : Cmd) : Option Bad :=
  let op := sqeOp c.words
  let obj := sqeObj c.words
  let withObj := fun (f : Obj → Option Bad) => match s.own? obj with
    | none => some (0x11, 0x10, 0)
    | some o => f o
  let owned := fun (f : Obj → Option Bad) => withObj fun o => if o.ownedBy c.dom then f o else some (0x13, 0x18, 0)
  if c.terr then some (0x12, 0x21, 0)
  else if op = opCreate then s.checkCreate c
  else if op = opDelete then owned fun _ => none
  else if op = opResize then owned (s.checkResize c)
  else if op = opAttr then owned (s.checkAttr c)
  else if op = opMap then withObj (s.checkMap c)
  else if op = opUnmap then withObj (s.checkUnmap c)
  else if op = opPlace then withObj (s.checkPlace c)
  else if op = opHold then withObj (s.checkHold c)
  else if op = opRelease then withObj fun o => if o.canRead c.dom then none else some (0x13, 0x18, 0)
  else if op = opStream then
    if (s.stream? c.dom (sqeSid c.words)).isSome then some (0x10, 8, 0)
    else if s.streamsFull c then some (0x20, 0x2C, 0) else none
  else if op = opCancel then
    if (s.stream? c.dom (sqeSid c.words)).isNone then some (0x11, 0x12, 0) else none
  else
    let ts := cmdTouches c
    match ts.findSome? (s.touchGone c), ts.findSome? (s.touchAccess c) with
    | some b, _ => some b
    | none, some b => some b
    | none, none =>
      if (op = opSeal ∨ op = opUnseal) && !s.slotUsable (bits (sqeW c.words 1) 33 12) c.dom 2 then some (0x13, 0x1A, 0)
      else match ts.findSome? s.touchRange with
        | some b => some b
        | none =>
          if (op = opAtomic ∨ op = opUnseal) && !s.underCeil c.dom (pagesOf c.tofs (sqeLen c.words)).length then some (0x20, 0x2A, 0)
          else none

/-- The change of a metadata command concerns a mirrored object (R143). -/
def State.concernsMirror (s : State) (c : Cmd) : Bool :=
  if sqeOp c.words = opCreate then bit (sqeAttr c.words) 1
  else ((s.own? (sqeObj c.words)).map Obj.mirror).getD false
    || (sqeOp c.words == opAttr && bit (sqeAttr c.words &&& sqeMaskBits c.words) 1)

/-- A waiting command whose locks are granted. -/
def State.lockReady (s : State) (c : Cmd) : Bool :=
  c.ph == .waiting && c.needLocks == 0 && s.granted c.uid

/-- A waiting metadata command has its journal charge admitted when there is room, and keeps it (R143). -/
def State.admitMeta (s : State) (c : Cmd) : State :=
  if isMetaOp (sqeOp c.words) && !c.jr && s.lockReady c && s.canJournal then
    (s.chargeJPage s.jPage).updCmd c.uid fun c => { c with jr := true }
  else s

/-- Why a waiting metadata command may not dispatch yet, if it may not (R143). -/
def State.metaWait (s : State) (c : Cmd) : Option Why :=
  if !isMetaOp (sqeOp c.words) then none
  else if !c.jr then some .flt
  else if s.concernsMirror c then
    if s.rd .STATE = mirFenced then some .fence
    else if s.mirUp && decide (retxSlots ≤ s.mir.retx.length) then some .retx
    else if s.mirUp && !s.ssnReady then some .ssn else none
  else none

/-- COMMAND_DISPATCH (R124, R138, R142, R143): of the commands with their locks granted, the one fetched
first is dispatched; `sgl` is the list at HOST_ADDR of a command with SGL set and `sglErr` says that
its DMA failed. -/
def execCommandDispatch (sglErr : Bool) (sgl : List SglE) (s : State) : Out :=
  if s.draining || decide (16384 ≤ (s.cmd.cmds.filter fun c => c.ph == .running).length) then .next s
  else
    let s := s.each s.cmd.cmds State.admitMeta
    -- metadata commands that must wait join the waiting list (R74, R143)
    let held := s.cmd.cmds.filter fun c => s.lockReady c && (s.metaWait c).isSome
    let s := s.each held fun s c => match s.metaWait c with
      | some why =>
        (s.entWait (.cmd c.uid) c.dom why (sqeObj c.words) 0).when (why == .retx) (·.setf .RETX_FULL true)
      | none => s
    match s.cmd.cmds.find? fun c => s.lockReady c && (s.metaWait c).isNone with
    | none => .next s
    | some c =>
      let s := s.entGo (.cmd c.uid) c.dom
      let s := s.updCmd c.uid fun x => { x with ph := .running }
      match s.stateCheck c with
      | some (st, det, r0) => .next ((s.updCmd c.uid fun x => { x with jr := false }).cmdErr c st det r0 0)
      | none =>
        if sqeSgl c.words then
          if sglErr then .next (s.cmdErr c 0x13 0x1C 0 0)
          else if !sglOk (sqeAddr c.words) (sqeLen c.words) sgl then .next (s.cmdErr c 0x10 5 0 0)
          else .next (s.updCmd c.uid fun x => { x with sgl := sgl.map fun e => (e.addr, e.len) }).cmdRegs
        else if sqeOp c.words = opSettle then
          .next (s.settleAccept { c with ph := .running }).cmdRegs
        else if sqeOp c.words = opSeal ∨ sqeOp c.words = opUnseal then
          let k := bits (sqeW c.words 1) 33 12
          let s := s.reshareSlot k
          .next (s.updCmd c.uid fun x => { x with key := (mget s.sec.keys (k, 0)).getD 0, mask := (mget s.sec.masks (0, k)).getD 0 }).cmdRegs
        else .next s.cmdRegs

end Sys2Proof.Machine
end

