-- ==== Sys2Proof/Machine/Objects.lean ====
section
/-! DEFINITION. SETTLE, the object, window and placement commands, streams and NOP
(06_command_set.md R152 to R160, R164). A command that takes frames or windows away first
back-invalidates host copies and goes on once none is left (R92, R93). -/

namespace Sys2Proof.Machine

/-- SETTLE (R152): with AFTER_PRIOR it is accepted once every earlier-fetched command of its queue pair
is posted. -/
def execSettle (uid : Nat) (s : State) : Out :=
  match s.running? uid opSettle with
  | none => .next s
  | some c => .next (s.settleAccept c).cmdRegs

/-- NOP (R164). -/
def execNop (uid : Nat) (s : State) : Out :=
  match s.running? uid opNop with
  | none => .next s
  | some c => .next (s.cmdOk c 0 0)

/-- The ID an OBJ_CREATE with REQ_ID 0 takes: the lowest free ID of the side at or above the pointer,
wrapping and skipping 0 (R168). -/
def State.pickId (s : State) : Nat :=
  let side := s.rd .ID_SIDE * 2 ^ 31
  ((List.range (s.md.ledger.length + 2)).map fun i => side + (s.md.idPtr + i) % 2 ^ 31).find?
    (fun id => id != 0 && (s.obj? id).isNone) |>.getD side

/-- A META change of a mirrored object goes to the twin (R41). -/
def State.tellTwin (s : State) (obj : Nat) (o : Obj) (d : Nat) : State :=
  if o.mirror then s.mirMeta obj [.obj obj (s.obj? obj)] d else s

/-- Run a dispatched metadata command: its entry takes the place that its admitted charge holds (R143); a command that
has not ended keeps it. -/
def State.metaRun (s : State) (uid op : Nat) (f : State → Cmd → State) : Out :=
  match s.running? uid op with
  | none => .next s
  | some c =>
    let t := f (s.updCmd uid fun x => { x with jr := false }) c
    .next (if (t.running? uid op).isSome then t.updCmd uid fun x => { x with jr := c.jr } else t)

/-- The same for a command on an existing own object; one that went since dispatch ends the command with
NO_OBJECT. -/
def State.metaObj (s : State) (uid op : Nat) (f : State → Cmd → Obj → State) : Out :=
  s.metaRun uid op fun s c => match s.own? (sqeObj c.words) with
    | none => s.cmdErr c 0x11 0x10 0 0
    | some o => f s c o

/-- OBJ_CREATE (R153, R166 to R169, R200). -/
def execObjCreate (uid : Nat) (s : State) : Out :=
  s.metaRun uid opCreate fun s c =>
    match s.checkCreate c with
    | some (st, det, r0) => s.cmdErr c st det r0 0
    | none =>
      let a := sqeAttr c.words
      let n := sizePages c.words
      let req := sqeObj c.words
      let id := if req = 0 then s.pickId else req
      let base := (s.md.findRun n).getD 0
      let o : Obj := ⟨createOwner c, 1, a, id, n * 65536, base, 0, 0⟩
      let ops := [.obj id (some o)] ++ (if bit a 0 then s.md.homeOps base 0 n else [])
        ++ (if req = 0 then [.idPtr ((id + 1) % 2 ^ 31)] else [])
      let s := (((s.takeHomes id 0 ops).journal ops).ledgerRegs).refsReg o.slot
      (s.tellTwin id o c.dom).cmdOk c id (n * 65536)

/-- The windows that map an object. -/
def State.winsOf (s : State) (obj : Nat) : List (Key × Win) := s.md.wins.filter fun e => e.2.obj = obj

/-- OBJ_DELETE (R154). -/
def execObjDelete (uid : Nat) (s : State) : Out :=
  s.metaObj uid opDelete fun s c o =>
    let obj := sqeObj c.words
    let fs := s.rangeFrames o 0 o.pages
    if !s.framesClear fs then s.invalFrames fs
    else
      let freed := s.usedPages o 0 o.pages
      let s := (s.each (List.range o.pages) fun s tp => s.freePage obj o tp).cutEntries obj 0
      let ops := (s.winsOf obj).map (fun e => JOp.win e.1 none)
        ++ (List.range o.pages).map (fun tp => JOp.map (o.mapBase + tp) none) ++ [.obj obj none]
      let s := ((s.journal ops).ledgerRegs).refsReg o.slot
      (s.tellTwin obj o c.dom).cmdOk c obj freed

/-- The windows of an object after it shrank to n pages (R155): those past the end go, the others lose
their part past it. -/
def State.winTrim (s : State) (obj n : Nat) : List JOp :=
  (s.winsOf obj).filterMap fun e =>
    if n ≤ e.2.objPn then some (.win e.1 none)
    else if n < e.2.objPn + e.2.wlen then some (.win e.1 (some { e.2 with wlen := n - e.2.objPn }))
    else none

/-- OBJ_RESIZE (R155): growth keeps or moves the run (R169) and homes the new pages (R200). -/
def execObjResize (uid : Nat) (s : State) : Out :=
  s.metaObj uid opResize fun s c o =>
    let obj := sqeObj c.words
    let n := sizePages c.words
    if n ≤ o.pages then
      let fs := s.rangeFrames o n (o.pages - n)
      if !s.framesClear fs then s.invalFrames fs
      else
        let freed := s.usedPages o n (o.pages - n)
        let s := (s.each (List.range (o.pages - n)) fun s i => s.freePage obj o (n + i)).cutEntries obj n
        let gone := (s.winsOf obj).filter fun e => decide (n ≤ e.2.objPn)
        let o' := { o with size := n * 65536, winCnt := o.winCnt - gone.length, mapBase := if n = 0 then 0 else o.mapBase }
        let ops := s.winTrim obj n ++ (List.range (o.pages - n)).map (fun i => JOp.map (o.mapBase + n + i) none)
          ++ [.obj obj (some o')]
        let s := (s.journal ops).ledgerRegs
        (s.tellTwin obj o c.dom).cmdOk c (n * 65536) freed
    else match s.checkResize c o with
      | some (st, det, r0) => s.cmdErr c st det r0 0
      | none =>
        let m := { s.md with ledger := mdel s.md.ledger (obj, 0) }
        let base := if o.pages ≠ 0 && runFree m.runs o.mapBase n then o.mapBase else (m.findRun n).getD 0
        let o' := { o with size := n * 65536, mapBase := base }
        let old := (List.range o.pages).map fun tp => (tp, s.mapE (o.mapBase + tp))
        let move := if base = o.mapBase then []
          else (List.range o.pages).map (fun tp => JOp.map (o.mapBase + tp) none)
            ++ old.map fun e => JOp.map (base + e.1) (some e.2)
        let homes := if o.persist then s.md.homeOps base o.pages (n - o.pages) else []
        let s := ((s.takeHomes obj o.pages homes).journal (move ++ homes ++ [.obj obj (some o')])).ledgerRegs
        (s.tellTwin obj o c.dom).cmdOk c (n * 65536) 0

/-- A page of an object that is volatile now has no HOME and no CP_STATE (Table 07.4), once its contents are in DRAM. -/
def State.dropHome (s : State) (ix : Nat) : State :=
  let e := s.mapE ix
  if e.st = .t1 ∨ e.st = .zero then s.setMap ix { e with home := 0, cp := 0, vaultIx := 0 } else s

/-- OBJ_ATTR (R156). -/
def execObjAttr (uid : Nat) (s : State) : Out :=
  s.metaObj uid opAttr fun s c o =>
    match s.checkAttr c o with
    | some (st, det, r0) => s.cmdErr c st det r0 0
    | none =>
      let obj := sqeObj c.words
      let a := newAttr o (sqeAttr c.words) (sqeMaskBits c.words)
      let o' := { o with attr := a }
      let s := ((s.journal [.obj obj (some o')]).ledgerRegs).refsReg o.slot
      let s := s.refsReg o'.slot
      let s := if o.persist && !bit a 0 then s.each (List.range o.pages) fun s tp => (s.releasePage (o.mapBase + tp)).dropHome (o.mapBase + tp) else s
      let s := if setsT1 o a then (s.promotePages obj o' (List.range o.pages) .attr c.dom).1 else s
      (s.tellTwin obj { o with attr := o.attr ||| a } c.dom).cmdOk c a 0

/-- WINDOW_MAP (R157). -/
def execWindowMap (uid : Nat) (s : State) : Out :=
  s.metaObj uid opMap fun s c o =>
    match s.checkMap c o with
    | some (st, det, r0) => s.cmdErr c st det r0 0
    | none =>
      let obj := sqeObj c.words
      let t := winTarget c
      let len := bits (sqeW c.words 5) 0 48
      let w : Win := ⟨bit (sqeW c.words 1) 40, obj, len / 65536, sqeOfs c.words / 65536⟩
      let s := s.journal [.win (ldIx t.1 t.2, winDpa c / 65536) (some w), .obj obj (some { o with winCnt := o.winCnt + 1 })]
      (s.tellTwin obj o c.dom).cmdOk c (winDpa c) len

/-- WINDOW_UNMAP (R157), with the back-invalidates of R92. -/
def execWindowUnmap (uid : Nat) (s : State) : Out :=
  s.metaObj uid opUnmap fun s c o =>
    let obj := sqeObj c.words
    let t := winTarget c
    let k : Key := (ldIx t.1 t.2, winDpa c / 65536)
    match mget s.md.wins k with
    | none => s.cmdErr c 0x11 0x11 0 0
    | some w =>
      let fs := s.winFrames k w
      if w.obj ≠ obj then s.cmdErr c 0x11 0x11 0 0
      else if !s.framesClear fs then s.invalFrames fs
      else
        let s := s.journal [.win k none, .obj obj (some { o with winCnt := o.winCnt - 1 })]
        (s.tellTwin obj o c.dom).cmdOk c (winDpa c) (w.wlen * 65536)

/-! ### Placement -/

/-- Bind page tp to a T3 slot (R192); a page already in T3 keeps its slot. -/
def State.bindSlot (s : State) (o : Obj) (tp link ld addr : Nat) : State :=
  let e := s.mapE (o.mapBase + tp)
  if e.st = .t3 then s
  else s.setMap (o.mapBase + tp) { e with t3Bound := true, t3Ld := ld, t3Link := link, t3Addr := addr / 65536 }

/-- End a placement command with its counts (Table 06.10). -/
def State.placeOk (s : State) (c : Cmd) (n : Counts) : State :=
  s.cmdOk c (n.queued % 2 ^ 32 + n.there % 2 ^ 32 * 2 ^ 32) (n.c1 % 2 ^ 32 + n.c2 % 2 ^ 32 * 2 ^ 32)

/-- PLACE (R158, R186, R187, R192). -/
def execPlace (uid : Nat) (s : State) : Out :=
  s.metaObj uid opPlace fun s c o =>
    match s.checkPlace c o with
    | some (st, det, r0) => s.cmdErr c st det r0 0
    | none =>
      let obj := sqeObj c.words
      let tps := placePages c
      let t := sqeTier c.words
      if t = 1 then
        let r := s.promotePages obj o tps .place c.dom
        r.1.placeOk c r.2
      else
        let s := s.dropHold obj c.dom
        let o := (s.own? obj).getD o
        let s := if t = 3 then
            s.each tps fun s tp => s.bindSlot o tp c.link c.ld (sqeAddr c.words + 65536 * (tp - sqeOfs c.words / 65536))
          else s
        let r := s.demotePages obj o tps (if t = 2 then .t2 else .t3) c.dom
        r.1.placeOk c (if t = 3 then { r.2 with c1 := 0 } else r.2)

/-- HOLD (R159, R185, R187). -/
def execHold (uid : Nat) (s : State) : Out :=
  s.metaObj uid opHold fun s c o =>
    match s.checkHold c o with
    | some (st, det, r0) => s.cmdErr c st det r0 0
    | none =>
      let obj := sqeObj c.words
      if bit o.holdMap c.dom then
        -- accepted and changes nothing: every page counts as it stands
        let there := (List.range o.pages).filter fun tp => (s.mapE (o.mapBase + tp)).st == .t1
        s.placeOk c ⟨0, there.length, 0, 0⟩
      else
        let o' := { o with holdMap := setBit o.holdMap c.dom true }
        let s := (s.journal [.obj obj (some o')]).tellTwin obj o c.dom
        let r := s.promotePages obj o' (List.range o.pages) .hold c.dom
        r.1.placeOk c r.2

/-- RELEASE (R159, R177, R185). -/
def execRelease (uid : Nat) (s : State) : Out :=
  s.metaObj uid opRelease fun s c _ =>
    let obj := sqeObj c.words
    let s := s.dropHold obj c.dom
    s.cmdOk c (popCount (((s.obj? obj).map (·.holdMap)).getD 0) 256) 0

/-! ### Streams -/

/-- A schedule entry from its four 64-bit words (Table 08.2). -/
def schedEntry (w : List Nat) (now : Nat) : SEnt :=
  let x := fun i => w.getD i 0 % 2 ^ 64
  ⟨bits (x 0) 0 32, bit (x 0) 32, bits (x 1) 0 48, bits (x 2) 0 32, now + bits (x 3) 0 32, now + bits (x 3) 32 32,
    [x 0, x 1, x 2, x 3], false, false⟩

/-- The checks of R204 on one entry, with the pages of the entries before it. -/
def State.checkEntry (s : State) (d before : Nat) (e : SEnt) : Option Bad :=
  let x := fun i => e.words.getD i 0
  if bits (x 0) 33 31 ≠ 0 ∨ bits (x 1) 48 16 ≠ 0 ∨ bits (x 2) 32 32 ≠ 0 then some (0x10, 2, e.ofs)
  else if e.pages = 0 ∨ 16777216 < e.pages ∨ e.deadline < e.start ∨ 16777216 < before + e.pages then some (0x10, 3, e.ofs)
  else if e.ofs % 65536 ≠ 0 then some (0x10, 4, e.ofs)
  else match s.own? e.obj with
    | none => some (0x11, 0x10, e.ofs)
    | some o =>
      if !o.canRead d then some (0x13, 0x18, e.ofs)
      else if o.size < e.ofs + e.pages * 65536 then some (0x12, 0x20, e.ofs) else none

/-- The first failure of a list in list order (R204). -/
def State.checkList (s : State) (d before : Nat) : List SEnt → Option Bad
  | [] => none
  | e :: r => match s.checkEntry d before e with
    | some b => some b
    | none => s.checkList d (before + e.pages) r

/-- STREAM_POST (R160, R203 to R206): `list` are the words of the schedule entries as read from
HOST_ADDR, `dmaErr` says that the read failed. -/
def execStreamPost (uid : Nat) (dmaErr : Bool) (list : List (List Nat)) (s : State) : Out :=
  match s.running? uid opStream with
  | none => .next s
  | some c =>
    let sid := sqeSid c.words
    if c.accepted then .next s
    else if (s.stream? c.dom sid).isSome then .next (s.cmdErr c 0x10 8 0 0)
    else if dmaErr then .next (s.cmdErr c 0x13 0x1C 0 0)
    else
      let n := bits (sqeW c.words 1) 48 16
      let es := (List.range n).map fun i => schedEntry (list.getD i []) s.nowUs
      match s.checkList c.dom 0 es with
      | some (st, det, r0) => .next (s.cmdErr c st det r0 0)
      | none =>
        let s := s.updCmd uid fun c => { c with accepted := true }
        let t : Stream := ⟨c.dom, sid, uid, es, [], 0, 0, 0, 0, none⟩
        .next ({ s with tpe := { s.tpe with streams := s.tpe.streams ++ [t] } }.streamRegs c.dom)

/-- STREAM_CANCEL (R160): RESULT0 counts the moves cancelled; the STREAM_POST completes after it. -/
def execStreamCancel (uid : Nat) (s : State) : Out :=
  match s.running? uid opCancel with
  | none => .next s
  | some c =>
    let sid := sqeSid c.words
    match s.stream? c.dom sid with
    | none => .next (s.cmdErr c 0x11 0x12 0 0)
    | some t =>
      let queued := (s.tpe.moves.filter fun m => m.st == .queued && m.streams.contains (c.dom, sid)).length
      let left := ((t.ents.filter fun e => !e.started).map (·.pages)).foldl (· + ·) 0
      .next ((s.cmdOk c (queued + left) 0).cancelStream c.dom sid).cmdRegs

end Sys2Proof.Machine
end

