-- ==== Sys2Proof/Machine/DrainOps.lean ====
section
/-! DEFINITION. The drain's shared operations: its trigger (R24, R77, Table 03.4 step 1), fatal device
errors (R471) and what each part of the 8120 does at the trigger. -/

namespace Sys2Proof.Machine

/-- SEQ_STATE values (Table 16.7). -/
def seqOff : Nat := 0
/-- Core phase. -/
def seqCore : Nat := 1
/-- Awaiting configuration. -/
def seqAwait : Nat := 2
/-- Board phase. -/
def seqBoard : Nat := 3
/-- ON. -/
def seqOn : Nat := 4
/-- Down-sequence. -/
def seqDown : Nat := 5
/-- MIN_OFF. -/
def seqMinOff : Nat := 6
/-- LOCKOUT. -/
def seqLock : Nat := 7

/-- What a drain trigger is called in its Daybook record. -/
def Trig.code : Trig → Nat
  | .pfail => 1
  | .floor => 2
  | .sysRst => 3
  | .now => 4
  | .fatal => 5
  | .pwrReq => 6
  | .rail => 7

/-- The domain of a charged store. -/
def State.reqDom (s : State) (q : Req) : Nat :=
  match q.who with
  | .host r => s.ldDom r.link r.ld
  | .gone d => d
  | _ => 0

/-- The solo map records a domain's write to a tier page (R52, R53). -/
def State.soloWrite (s : State) (obj tp d : Nat) : State :=
  let s := s.soloMark obj tp
  { s with mir := { s.mir with soloDoms := withNat s.mir.soloDoms d } }

/-- R24, R242: a store that passed step 3 reaches its line, whose fill completes at SC0; other requests are
discarded. A mirrored object's page changed so enters the solo map (R53). -/
def State.drainReq (s : State) (la obj tp : Nat) (q : Req) : State :=
  if !q.wr then s
  else
    let s := s.fillNow la obj tp sc0
    let s := match s.cline? la with
      | some (k, c) => s.putWay k (c.store q.data q.mask q.poison)
      | none =>
        let d : DLine := s.dline la
        let c : CLine := ⟨la, obj, tp, false, d.st != LSt.good, d.data⟩
        s.writeDram la (c.store q.data q.mask q.poison).stored .fch sc0
    match s.obj? obj with
    | some o =>
      let s := s.redirty (o.mapBase + tp) (la / 64 % 16)
      if o.mirror && o.kind == 1 && (s.rd .STATE != mirNoTwin || s.mir.takenOver.contains obj) then
        s.soloWrite obj tp (s.reqDom q) else s
    | none => s

/-- R242: every miss register with an attached store completes its fill; the others are discarded, and with them
every WAIT_PAGE register. A register that only writes back keeps its line for step 2. -/
def State.drainMr (s : State) (e : Key × MissReg) : State :=
  let m := e.2
  if m.st == MrSt.evict && m.reqs.isEmpty then s
  else
    let s := s.flushEvict m.la
    let s := { s with fch := { s.fch with mrs := mdel s.fch.mrs e.1 } }
    if m.st == MrSt.waitPage then s else s.each m.reqs fun s q => s.drainReq m.la m.obj m.tp q

/-- Table 07.8, drain trigger: a FETCHING page returns to its source state and its frame is freed unused, a
LEAVING page returns to T1, and no queued move or stream is left. -/
def State.drainMoves (s : State) : State :=
  let s := s.each (s.tpe.moves.filter fun m => m.st != MSt.queued) fun s m =>
    let ix := ((s.obj? m.obj).map (·.mapBase)).getD 0 + m.tp
    if m.orphan then s.freeFrame m.frame
    else if m.dest == PgSt.t1 then
      (s.setMap ix { s.mapE ix with st := m.src0, frame := 0 }).freeFrame m.frame
    else s.setMap ix { s.mapE ix with st := .t1 }
  { s with tpe := { s.tpe with moves := [], streams := [] } }.moveRegs

/-- A drain trigger abandons a rehearsal or a capacitance cycle (R77), whose charger setting returns. -/
def State.ccalStop (s : State) : State :=
  let back : Bool := s.fgv.ccal == CcalPh.discharge
  let s := s.when back (·.send (.pmbus (s.rd .HOLDUP_PMBUS_ADDR) 0 0x21 s.fgv.vset))
  { s.setf .CCAL_BUSY false with fgv := { s.fgv with ccal := .idle, charge := 0 } }

/-- A drain trigger ends every sliced retrain and restores the saved rows (R267); a repair is one slice (R311). -/
def State.slicesStop (s : State) : State :=
  let s := s.each s.drc.slices fun s e => s.setfi .RETRAIN_BUSY (20 * e.1.1 + e.1.2) false
  { s with drc := { s.drc with slices := [], rowBuf := [] } }

/-- A drain trigger ends an online test; the row under test is restored (R438). -/
def State.bstStop (s : State) : State :=
  if s.bst.test = 0 then s
  else
    let s := ((s.setf .BST_STATUS_BUSY false).wr .TEST_NOW 0).wr .UNITS_LEFT 0
    { s with bst := { bstNone with fifo := s.bst.fifo } }

/-- Step 1 of the drain for the front cache (R24, R242): stores in miss registers and miss queues passed step 3; the
reads of discarded requests leave the DRAM queues (R256). -/
def State.drainStores (s : State) : State :=
  let keep := (s.fch.mrs.filter fun e => e.2.reqs.any (·.wr)).map (·.2.la) ++ (s.fch.mq.filter (·.req.wr)).map (·.la)
  let stays := fun (q : DReq) => q.wr || q.tag != .fch || q.n != 1 || keep.contains q.la
  let s := { s with drc := { s.drc with fabric := s.drc.fabric.filter stays, queue := s.drc.queue.filter stays } }
  let s := s.each s.fch.mrs State.drainMr
  let s := s.each s.fch.mq fun s e => s.drainReq e.la e.obj e.tp e.req
  { s with fch := { s.fch with mq := [], snoops := [] } }

/-- The pages and domains of the unacknowledged records enter the solo map (R38, R53, R339). -/
def State.recsToSolo (s : State) : State :=
  s.each s.unacked fun s r =>
    let s := { s with mir := { s.mir with soloDoms := r.doms.foldl withNat s.mir.soloDoms } }
    if r.ty = RTy.md then s else s.soloMark r.obj (r.cpage / 16)

/-- Step 1 of the drain (R24, R77, Table 03.4): credits and every Pn_RDY are withdrawn, waiting requests
are discarded, execution stops, DRAIN goes to the twin, the pages of unacknowledged records enter the solo
map (R53), and the write-back of the front cache begins. -/
def State.startDrain (s : State) (t : Trig) (railsUp : Bool) : State :=
  let sticky := b2n (s.fl .FLOAT_OVER) * 16 + b2n (s.fl .CAL_REJECT) * 32
  let s := s.record clsState 0 80 (item 6 0xC0008 ++ item 7 sticky)
  let s := s.record clsState 0 80 (item 6 0xC0030 ++ item 7 (b2n (s.fl .STALL_OVF) * 2 ^ 32))
  let s := s.record clsFault 0 77 (item 8 t.code)
  let s := s.setf .DRAINING true
  let s := { s with drain := { s.drain with
    trig := some t, railsUp := railsUp, step := 2, vTrig := s.rd .HOLDUP_MV, seq := s.drain.seq + 1
    count := 0, downAfter := false, power := 0 } }
  let s := s.each (List.range 4) fun s p => s.setRdy p false
  let s := { s with waits := [], fences := []
                    prt := { s.prt with gpf := [], gpfSolo := [], dcPend := [], stopped := [], atHost := [] } }
  let s := s.each (List.range 8) fun s k => s.wri .BENCH_USED k 0
  let s := s.each (List.range 128) fun s i => s.wri .BENCHED i 0
  let s := s.stallEnds.slicesStop.bstStop.drainStores.drainMoves
  let s := { s with int := { s.int with ladders := [], verify := [] }, mir := { s.mir with fetches := [] } }
  let s := { s.ccalStop with fgv := { s.fgv with rehearsal := false, vcalDue := false, ccal := .idle, charge := 0 } }
  let s := { s.wr .SETTLES_ACTIVE 0 with stl := { s.stl with jobs := [] } }
  let s := s.each (if s.mir.refused then [] else linksOf (s.mir.phy &&& s.mir.ports)) fun s p => s.send (.mirCtl 6 0 0 [p])
  s.recsToSolo

/-- A drain trigger (R77). Later triggers add no step, but PFAIL_N falling during a drain with the rails
up turns it onto the store's energy, and step 6 then takes the rails down. Outside ON there is no drain
(Table 16.3). -/
def State.trigger (s : State) (t : Trig) (railsUp : Bool) : State :=
  if s.draining then
    if t = Trig.pfail then { s with drain := { s.drain with railsUp := false } } else s
  else if s.rd .SEQ_STATE = seqOn then s.startDrain t railsUp else s

/-- A fatal device error of a block (R471): FATAL and FATAL_BLK at the first, every Pn_RDY falls and a
drain starts as DRAIN_NOW starts it; later ones add only their record. -/
def State.fatal (s : State) (blk rule : Nat) (items : List (Nat × Nat)) : State :=
  let s := s.record clsFault 0 rule items
  if s.fl .FATAL then s
  else
    let s := ((s.setf .FATAL true).wr .FATAL_BLK blk).alertFatal
    let s := s.each (List.range 4) fun s p => s.setRdy p false
    s.trigger .fatal true

/-- Every dirty line of the front cache reaches DRAM (R242). -/
def State.writeBackAll (s : State) : State :=
  let s := s.each s.fch.lines fun s e => s.writeBack e.2 sc0
  let s := s.each (s.fch.mrs.filter fun e => e.2.st == MrSt.evict) fun s e => s.writeDram e.2.la e.2.out .fch sc0
  { s with fch := { s.fch with lines := s.fch.lines.map fun (e : Key × CLine) => (e.1, { e.2 with dirty := false })
                               mrs := [] } }

/-- What a code page is written as outside DRAM: a poisoned line is the sentinel line, and so is a marked
one that the ladder could not recover (R298, R305, R307). -/
def sentinelLines (ls : List (Nat × DLine)) (bad : List Nat) : List (Nat × DLine) :=
  let m := ls.map fun x => if x.2.st = LSt.good ∧ !bad.contains x.1 then x else (x.1, ⟨x.2.data, .poison⟩)
  m ++ (bad.filter fun j => !(ls.any fun x => x.1 == j)).map fun j => (j, ⟨0, .poison⟩)

/-- Step 3 for one charged code page: its lines go to the vault under object and code page. Escrow frames
are left out (R46). `bad` lists line addresses that neither decode nor recover. -/
def State.vaultCp (s : State) (bad : List Nat) (k : Key) : State :=
  match s.frame? k.1 with
  | none => s
  | some f =>
    if f.use = 2 then s
    else
      let bl := (bad.filter fun la => la / 64 == 16 * k.1 + k.2).map (· % 64)
      let ls := sentinelLines (s.cpLines k.1 k.2) bl
      { s with nfc := { s.nfc with vaultNew := mput s.nfc.vaultNew (f.obj, 16 * f.tp + k.2) ls }
               drain := { s.drain with count := s.drain.count + 1 } }

/-- Insert a number into a rising list. -/
def insNat (n : Nat) : List Nat → List Nat
  | [] => [n]
  | x :: r => if n ≤ x then n :: x :: r else x :: insNat n r

/-- The vault index of the drain in progress (R284): frame-map entry × 16 + code page of every drained code page, in
tier-page order. -/
def State.vaultIndex (s : State) : List Nat :=
  s.nfc.vaultNew.foldl (fun l e => insNat (16 * ((s.obj? e.1.1).map (·.mapBase)).getD 0 + e.1.2) l) []

/-- CRC-32C over a vault index, 8 bytes an entry (R55, R284). -/
def indexCrc (l : List Nat) : Nat := crc32c (l.flatMap (toBytes 8))

/-- What settles beside the journal, taken now (R38, R80, R347). -/
def State.saveMeta (s : State) (j : MetaData) (solo : SMap Bool) : State :=
  { s with saved :=
    { journal := j, solo := solo, ssnIssued := s.rd .SSN_ISSUED, ssnAcked := s.rd .SSN_ACKED
      twinApplied := s.rd .TWIN_APPLIED, partner := s.rd .PARTNER_UID, drainSeen := s.mir.drainSeen
      capMeas := s.rd .HOLDUP_CAP_MEAS_MF, rates := s.fgv.rates, powerMeas := s.rd .DRAIN_POWER_MEAS_W
      soloDoms := s.mir.soloDoms } }

/-- The store capacitance used: the lower of measured and nominal (Table 03.2). -/
def State.capUsed (s : State) : Nat := min (s.rd .HOLDUP_CAP_MEAS_MF) (s.rd .HOLDUP_CAP_NOM_MF)

/-- R69: the power drawn over steps 1 to 4a, in whole W, rounded down: η · ½ · C · (V_trig² - V_4a²) / t, t in µs; with
t = 0 it is taken as 0 (log entry 27). -/
def State.drainPower (s : State) (v4a t : Nat) : Nat :=
  if t = 0 then 0
  else s.rd .DRAIN_EFF_PM * s.capUsed * (s.drain.vTrig ^ 2 - v4a ^ 2) / (2 * 10 ^ 6 * t)

end Sys2Proof.Machine
end

