-- ==== Sys2Proof/Machine/MirRx.lean ====
section
/-! DEFINITION. What the mirror receives: records in lane order, their application to replicas (R331, R332,
R335, R336, R492), and the loss of the mirror link (R325, R339). -/

namespace Sys2Proof.Machine

/-- Change the mirror's part of the state. -/
def State.setMir (s : State) (f : MirS → MirS) : State := { s with mir := f s.mir }

/-- Answer with the lane's applied mark (R331). -/
def State.sendAck (s : State) (lane : Nat) : State :=
  s.send (.mirCtl kAck lane ((mget s.mir.rxMark (lane, 0)).getD 0) [])

/-- The stored line of an object wherever it lies: cache or frame of a resident page, vault or home of
another, zero of a page never written (R343, R337); an absent page has none. -/
def State.lineAt (s : State) (o : Obj) (obj ln : Nat) : Option DLine :=
  let tp := ln / 1024
  let e := s.mapE (o.mapBase + tp)
  if o.pages ≤ tp then none
  else if e.st = .t1 ∨ e.st = .leaving then some (s.lineNow (1024 * e.frame + ln % 1024))
  else if e.st = .t2 ∨ (e.st = .fetching ∧ e.home ≠ 0) then
    some ((((s.coldCp obj tp e (ln / 64 % 16)).find? fun x => x.1 == ln % 64).map (·.2)).getD zeroLine)
  else some zeroLine

/-- Change every frame of an object to another use (R340, R341). -/
def State.setUse (s : State) (obj u : Nat) : State :=
  s.each (s.tpe.frames.filter fun e => e.2.obj = obj) fun s e => s.setFrame e.1.1 { e.2 with use := u }

/-- Remove an object with its windows, pages and runs as OBJ_DELETE does (R154, R492). -/
def State.removeObj (s : State) (obj : Nat) : State :=
  match s.obj? obj with
  | none => s
  | some o =>
    let s := s.each (List.range o.pages) fun s tp => s.freePage obj o tp
    let ops := (s.winsOf obj).map (fun e => JOp.win e.1 none)
      ++ (List.range o.pages).map (fun tp => JOp.map (o.mapBase + tp) none) ++ [.obj obj none]
    ((s.journal ops).ledgerRegs).refsReg o.slot

/-- The change of size of a replica: shrinking frees pages, growth may move the run (R169, R155). -/
def State.resizeTo (s : State) (obj : Nat) (o o2 : Obj) : State :=
  let n := o2.pages
  if n ≤ o.pages then
    let s := s.each (List.range (o.pages - n)) fun s i => s.freePage obj o (n + i)
    let ops := s.winTrim obj n ++ (List.range (o.pages - n)).map (fun i => JOp.map (o.mapBase + n + i) none)
    s.journal (ops ++ [.obj obj (some { o2 with mapBase := if n = 0 then 0 else o.mapBase })])
  else
    let m := { s.md with ledger := mdel s.md.ledger (obj, 0) }
    let base := if o.pages ≠ 0 && runFree m.runs o.mapBase n then o.mapBase else (m.findRun n).getD 0
    let old := (List.range o.pages).map fun tp => (tp, s.mapE (o.mapBase + tp))
    let move := if base = o.mapBase then []
      else (List.range o.pages).map (fun tp => JOp.map (o.mapBase + tp) none)
        ++ old.map fun e => JOp.map (base + e.1) (some e.2)
    let homes := s.md.homeOps base o.pages (n - o.pages)
    (s.takeHomes obj o.pages homes).journal (move ++ homes ++ [.obj obj (some { o2 with mapBase := base })])

/-- A ledger entry that the partner sends concerns an object this 8120 owns: in a full resync after its
abrupt restart (R492). -/
def State.ownSide (s : State) (id : Nat) : Bool :=
  s.mir.abrupt && (match s.obj? id with
    | some o => o.kind == 1
    | none => b2n (bit id 31) == s.rd .ID_SIDE)

/-- Pages `a` to `b` of an own object that the partner's full resync gives back: accesses wait for them (R344). -/
def State.needPages (s : State) (own : Bool) (id a b : Nat) : State :=
  if !own then s
  else
    let ks := (List.range (b - a)).map fun i => (id, a + i)
    s.setMir fun m => { m with need := (m.need ++ ks).eraseDups, rxDue := (m.rxDue ++ ks).eraseDups }

/-- NO_ROOM (R336): the receiver cannot hold the replica; `items` add to its record. -/
def State.noRoom (s : State) (id : Nat) (items : List (Nat × Nat)) : State :=
  let s := s.setMir fun m => { m with rxUnmatched := withNat m.rxUnmatched id }
  ((s.send (.mirCtl kNoRoom 0 id [])).record clsWarn 0 336 (item 1 id ++ items)).alert blkMIR

/-- Apply one ledger entry of a META record (R332 step 5, R336): create, resize, re-attribute or delete the
replica; window entries are ignored. A slot that is not XTS here does not fit, and the record names it (R384). -/
def State.applyMeta (s : State) (op : JOp) : State :=
  match op with
  | .obj id none =>
    match s.obj? id with
    | some o => if o.kind == 2 || s.ownSide id then s.removeObj id else s
    | none => s
  | .obj id (some x) =>
    let own := s.ownSide id
    let s := s.setMir fun m => { m with rxPass := withNat m.rxPass id }
    if !x.mirror then
      match s.obj? id with
      | some o => if o.kind == 2 then s.removeObj id else s
      | none => s
    else
      match s.obj? id with
      | none =>
        if 16777216 ≤ s.md.ledger.length || !s.capHolds x.pages || (s.md.findRun x.pages).isNone then s.noRoom id []
        else if s.rdi .MODE x.slot != 1 then s.noRoom id (item 7 x.slot)
        else
          let base := (s.md.findRun x.pages).getD 0
          let y := { x with kind := if own then 1 else 2, mapBase := base, winCnt := 0 }
          let s := s.setMir fun m => { m with rxUnmatched := without m.rxUnmatched id }
          let homes := s.md.homeOps base 0 x.pages
          ((((s.takeHomes id 0 homes).journal ([.obj id (some y)] ++ homes)).ledgerRegs).refsReg y.slot).needPages own id 0 x.pages
      | some o =>
        if o.kind == 1 && !own then s
        else if o.pages < x.pages && (!s.capHolds (x.pages - o.pages) || (s.md.findRun x.pages).isNone) then s.noRoom id []
        else if s.rdi .MODE x.slot != 1 then s.noRoom id (item 7 x.slot)
        else
          let y := { x with kind := o.kind, mapBase := o.mapBase, winCnt := o.winCnt, tweak := x.tweak }
          let s := s.setMir fun m => { m with rxUnmatched := without m.rxUnmatched id }
          (((s.resizeTo id o y).ledgerRegs).refsReg y.slot).needPages own id o.pages x.pages
  | _ => s

/-- The closing META record of a ledger pass (R492): replicas of the sender's objects, and in a full resync
own mirrored objects, that the pass did not name are deleted, as far as journal charges are admitted (R41). A new partner
owes every page of its objects (R344). -/
def State.closePass (s : State) : State × Bool :=
  let partnerAbrupt := ((s.mir.peer).map (·.abrupt)).getD false
  let gone := s.md.ledger.filter fun e => !s.mir.rxPass.contains e.1.1 &&
    ((e.2.kind == 2 && !partnerAbrupt) || (e.2.kind == 1 && e.2.mirror && s.mir.abrupt))
  let x := gone.foldl (fun (x : State × Bool) e =>
    if x.2 && x.1.canJournal then (x.1.removeObj e.1.1, true) else (x.1, false)) (s, true)
  if x.2 then
    let all := x.1.md.ledger.flatMap fun e => if e.2.kind = 2 then (List.range e.2.pages).map fun tp => (e.1.1, tp) else []
    (x.1.setMir fun m => { m with rxPassDone := true, rxDue := if m.fresh then (m.rxDue ++ all).eraseDups else m.rxDue }, true)
  else x

/-- The SSN is applied: its lane's mark and TWIN_APPLIED advance, and the ACK goes out (R331, R332). -/
def State.markApplied (s : State) (r : MRec) : State :=
  let t := s.rd .TWIN_APPLIED
  let done := withNat s.mir.applied r.ssn
  let t' := (List.range (done.length + 1)).foldl (fun t _ => if done.contains (t + 1) then t + 1 else t) t
  let s := s.setMir fun m => { m with rxMark := mput m.rxMark (r.lane, 0) r.ssn
                                      applied := done.filter fun n => decide (t' < n)
                                      held := m.held.erase r }
  (s.wr .TWIN_APPLIED t').sendAck r.lane

/-- Write the lines of a record into a frame (R332 step 5): poisoned lines are stored with Π. -/
def State.putLines (s : State) (f k : Nat) (r : MRec) : State :=
  s.each ((List.range r.lines.length).zip r.lines) fun s x =>
    let la := 1024 * f + 64 * k + x.2.1 % 64
    let s := s.flushEvict la
    let s := match s.cline? la with
      | some (w, _) => s.dropWay w
      | none => s
    s.writeDram la (tag := .mir) (cls := sc0) ⟨x.2.2, if bit r.poison x.1 then .poison else .good⟩

/-- Stage an ATOMIC record (R335): the tier page's escrow frame starts as a copy of the replica's page. -/
def State.stageFrame (s : State) (obj tp old : Nat) : State :=
  match mget s.mir.staged (obj, tp) with
  | some _ => s
  | none =>
    let f := s.nextFrame
    let s := s.takeFrame ⟨obj, tp, 0, 0, 2, false, 0⟩
    let s := ((s.cleanFrame old sc0).dreq (1024 * old) 1024 false .mir sc0).dreq (1024 * f) 1024 true .mir sc0
    let s := s.each (List.range 16) fun s k => s.putCp f k (s.cpLines old k)
    s.setMir fun m => { m with staged := mput m.staged (obj, tp) f }

/-- Release staged frames and their charges without a switch (R335). -/
def State.dropStaged (s : State) : State :=
  let s := s.each s.mir.staged fun s e =>
    let ks := s.stl.chq.filter fun k => k.1 == e.2
    (s.each ks fun s k => s.releaseKey 0 k).freeFrame e.2
  s.setMir fun m => { m with staged := [] }

/-- COMMIT for one staged tier page (R335): the frame-map entry switches to the staged frame. -/
def State.commitPage (s : State) (o : Obj) (obj tp f : Nat) : State :=
  let ix := o.mapBase + tp
  let oldF := (s.mapE ix).frame
  let s := s.each (List.range 16) fun s k =>
    if s.stl.chq.contains (f, k) then (s.releaseCp ix k 0).setMap ix (((s.releaseCp ix k 0).mapE ix).setCp k 1)
    else
      let d := ((s.frame? oldF).map fun x => x.chgDom k).getD 0
      let s := { s with stl := { s.stl with chq := s.stl.chq.map fun (x : Key) => if x = (oldF, k) then (f, k) else x } }
      let s := match s.frame? f with
        | some x => s.setFrame f { x with chg := setBits x.chg (8 * k) 8 d }
        | none => s
      s.redirty ix k
  let s := match s.frame? f with
    | some x => s.setFrame f { x with use := 3 }
    | none => s
  let s := s.setMap ix { s.mapE ix with st := .t1, frame := f }
  let s := if oldF = 0 then s else s.freeFrame oldF
  s.setMir fun m => { m with staged := mdel m.staged (obj, tp) }

/-- What applying one record came to: applied, waiting alone, or stopping every lane (R332 step 4). -/
inductive Applied where
  | done | wait | stop
deriving DecidableEq

/-- Apply one record, if it can be applied now (R332). -/
def State.applyOne (s : State) (r : MRec) : State × Applied :=
  let inTurn := s.mir.held.all fun x => decide (r.ssn ≤ x.ssn) ||
    !(x.lane == r.lane || (x.obj == r.obj && (x.ty == RTy.md || x.ty == RTy.commit)))
  let whole := r.ty == RTy.md || r.ty == RTy.commit
  if !inTurn || (whole && s.rd .TWIN_APPLIED + 1 != r.ssn) then (s, .wait)
  else if r.ty == RTy.md then
    if r.obj == 0 && r.ops.isEmpty then
      let x := s.closePass
      if x.2 then (x.1.markApplied r, .done) else (x.1, .stop)
    else if !s.canJournalN r.ops.length then (s, .stop)
    else ((s.each r.ops State.applyMeta).markApplied r, .done)
  else match s.obj? r.obj with
    | none => (s.markApplied r, .done)
    | some o =>
      let tp := r.cpage / 16
      let k := r.cpage % 16
      let ix := o.mapBase + tp
      let e := s.mapE ix
      if s.mir.rxUnmatched.contains r.obj || (o.kind == 1 && !s.ownSide r.obj) || o.pages ≤ tp then (s.markApplied r, .done)
      else if r.ty == RTy.commit then
        if !s.canJournal then (s, .stop)
        else
          let tps := (List.range r.mask).filterMap fun i => (mget s.mir.staged (r.obj, tp + i)).map fun f => (tp + i, f)
          let s := s.each tps fun s x => s.commitPage o r.obj x.1 x.2
          let s := s.journal (tps.map fun x => .map (o.mapBase + x.1) (some (s.mapE (o.mapBase + x.1))))
          (s.markApplied r, .done)
      else if e.st != .t1 then (if e.st = .leaving then s else s.needPage r.obj tp 0 (o.kind == 2), .wait)
      else if r.ty == RTy.atomic then
        if (mget s.mir.staged (r.obj, tp)).isNone && s.rd .FREE_FRAMES == 0 then (s, .wait)
        else
          let s := s.stageFrame r.obj tp e.frame
          let f := (mget s.mir.staged (r.obj, tp)).getD 0
          if !s.stl.chq.contains (f, k) && !s.canCharge 0 1 then (s, .stop)
          else
            let s := if s.stl.chq.contains (f, k) then s else s.chargeKey 0 (f, k)
            ((s.putLines f k r).markApplied r, .done)
      else
        let needs := e.cpSt k == 0 || e.cpSt k == 3
        if needs && !s.canCharge 0 1 then (s, .stop)
        else
          let s := if needs then s.chargeCp ix k 0 else s.redirty ix k
          let s := (s.putLines e.frame k r).touch e.frame
          let last := r.resync && k == 15 && bit r.mask 63
          let s := if last then
              (s.setMir fun m => { m with rxDue := m.rxDue.filter (· != (r.obj, tp))
                                          need := m.need.filter (· != (r.obj, tp)) }).rerun
                fun (w : Wait) => w.why == Why.resync && w.obj == r.obj && w.tp == tp
            else s
          (s.markApplied r, .done)

/-- Apply what the records held allow, round by round. -/
def applyRounds : Nat → State → State
  | 0, s => s
  | n + 1, s =>
    let r := s.mir.held.foldl (fun (x : State × Bool × Bool) (q : MRec) =>
      if x.2.2 then x
      else
        let a := x.1.applyOne q
        (a.1, x.2.1 || a.2 == Applied.done, a.2 == Applied.stop)) (s, false, false)
    if r.2.1 && !r.2.2 then applyRounds n r.1 else r.1

/-- A page that the partner still owes is one of an object held here (R336, R492). -/
def State.stillDue (s : State) (k : Key) : Bool :=
  !s.mir.rxUnmatched.contains k.1 && (match s.obj? k.1 with
    | some o => decide (k.2 < o.pages)
    | none => false)

/-- Resync is complete (R345): both directions have sent every due page and the last resync record is
acknowledged; the retried objects match. -/
def State.resyncCheck (s : State) : State :=
  if s.fl .RESYNC_BUSY && s.mir.pass == 3 && s.mir.toSend.isEmpty && s.mir.inflight.isEmpty
      && s.mir.rxPassDone && !s.mir.rxDue.any s.stillDue && s.mir.retry.isEmpty then
    let s := s.setMir fun m => { m with
      unmatched := m.unmatched.filter (fun o => !m.flow.contains o), flow := [], need := [], abrupt := false
      rxDue := [], pass := 0, soloDoms := if m.solo.isEmpty then [] else m.soloDoms }
    let s := (s.setf .RESYNC_BUSY false).setf .FULL_RESYNC false
    let s := s.setf .UNMATCHED (!s.mir.unmatched.isEmpty)
    (s.rerun fun (w : Wait) => w.why == Why.resync).mirChange
  else s

/-- Apply the records that can be applied now (R332); the last may complete resync (R345). -/
def State.applyHeld (s : State) : State :=
  if s.draining then s else (applyRounds (s.mir.held.length + 1) s).resyncCheck

/-! ### Link loss and sending -/

/-- The mirror ports of a selection (Table 13.1): bit 0 E0, bit 1 E1. -/
def State.mirrorPorts (s : State) : Nat := s.mir.ports

/-- Mirror ports whose PHY is up. -/
def State.mirrorUp (s : State) : Nat := s.mir.phy &&& s.mir.ports

/-- The link is lost (R325, R339): open records close, the pages of unacknowledged records enter the solo
map, the retransmit store empties, staged groups are released, and the state is evaluated again. An 8120
that declares the loss holds its PHYs down; a DRAIN notice (R53) ends the link without that. -/
def State.linkLost (s : State) (hold : Bool) : State :=
  let was := s.fl .MIR_STATUS_LINK_UP
  let s := s.closeAll.recsToSolo
  let s := if hold then s.each ((linksOf (s.mir.phy &&& s.mir.ports)).filter (· < 2)) fun s p => s.setfi .PHY_UP (2 * p) false else s
  let s := s.setMir fun m => { m with
    retx := [], sendq := [], opn := [], held := [], rxGap := [], tagRun := [], applied := []
    bring := .down, peer := none, pend := none, refused := false, phy := if hold then 0 else m.phy, phyHold := hold
    pass := 0, passIds := [], toSend := [], inflight := [], rxPass := [], rxPassDone := false, rxDue := []
    need := [], fetches := [], flow := [], retry := [] }
  let s := ((s.dropStaged.wr .RETX_RECORDS 0).wr .RESYNC_LEFT 0).setf .MIR_STATUS_LINK_UP false
  let s := (s.setf .RESYNC_BUSY false).setf .FULL_RESYNC false
  let s := if was then s.count .LINK_LOSS_CNT 0 .MIR_FLAGS_CNT_OVF 0 3 else s
  (s.mirChange.mirRoom).rerun fun (w : Wait) => w.why == Why.resync

/-- Resend a lane from its oldest unacknowledged record (R330). -/
def State.resend (s : State) (lane : Nat) : State :=
  let rs := s.mir.retx.filter fun r => r.lane == lane
  if rs.isEmpty then s
  else (s.each rs fun s r => s.send (.mirRec r)).count .RETX_CNT 0 .MIR_FLAGS_CNT_OVF 0 0

/-- RECORD (R331). -/
def execRecord (r : MRec) (tagOk : Bool) (s : State) : Out :=
  if !s.fl .MIR_STATUS_LINK_UP || s.draining then .next s
  else
    let lane := r.lane
    let want := (mget s.mir.rxLsn (lane, 0)).getD 0
    let d := (r.lsn % 2 ^ 32 + 2 ^ 32 - want) % 2 ^ 32
    if d ≠ 0 then
      if d < 2 ^ 31 then
        if s.mir.rxGap.contains lane then .next s
        else .next ((s.setMir fun m => { m with rxGap := withNat m.rxGap lane }).send (.mirCtl kNak lane want []))
      else .next ((s.count .DUP_CNT 0 .MIR_FLAGS_CNT_OVF 0 2).sendAck lane)
    else if !tagOk then
      let n := (mget s.mir.tagRun (lane, 0)).getD 0 + 1
      let s := s.setMir fun m => { m with tagRun := mput m.tagRun (lane, 0) n }
      let s := (s.count .TAG_FAIL_CNT 0 .MIR_FLAGS_CNT_OVF 0 1).count .GCM_FAIL_CNT 0 .CIP_FLAGS_CNT_OVF 0 0
      if 8 ≤ n then .next (s.linkLost true) else .next (s.send (.mirCtl kNak lane want []))
    else
      let s := s.setMir fun m => { m with tagRun := mdel m.tagRun (lane, 0), rxGap := without m.rxGap lane
                                          rxLsn := mput m.rxLsn (lane, 0) ((want + 1) % 2 ^ 32) }
      let queued := s.mir.held.any fun x => x.lane == lane && decide (r.ssn ≤ x.ssn)
      if r.ssn ≤ (mget s.mir.rxMark (lane, 0)).getD 0 || queued then
        .next ((s.count .DUP_CNT 0 .MIR_FLAGS_CNT_OVF 0 2).sendAck lane)
      else .next (s.setMir fun m => { m with held := m.held ++ [r] }).applyHeld

/-- A DRAIN frame (R53, R333): one whose tag fails is ignored; else this 8120 turns solo at once. -/
def execDrain (tagOk : Bool) (s : State) : Out :=
  if s.draining || !(s.mir.bring == Bring.roles || s.mir.bring == Bring.up) then .next s
  else if !tagOk then .next (s.count .GCM_FAIL_CNT 0 .CIP_FLAGS_CNT_OVF 0 0)
  else (fun (s : State) => .next (s.linkLost false)) (s.setMir fun m => { m with drainSeen := true })

/-- NO_ROOM (R336): the named object is unmatched. -/
def execNoRoom (obj : Nat) (s : State) : Out :=
  match s.own? obj with
  | none => .next s
  | some _ =>
    let s := s.setMir fun m => { m with unmatched := withNat m.unmatched obj, flow := without m.flow obj
                                        retry := m.retry.filter fun x => x.1 != obj }
    .next ((s.setf .UNMATCHED true).resolveFences true)

end Sys2Proof.Machine
end

