-- ==== Sys2Proof/Machine/Mirror.lean ====
section
/-! DEFINITION. The mirror's commands (13_twin_mirror.md): bring-up and roles (R321 to R323, R341, R342),
heartbeat and TWIN_GRANT (R324 to R326), transport (R330), twin fetch (R337), takeover (R340) and resync (R343
to R345, R492). -/

namespace Sys2Proof.Machine

/-- This 8120's HELLO on a port (Table 13.3 step 2). -/
def State.helloOf (s : State) (port : Nat) : Hello :=
  ⟨s.rd .DEVICE_UID, s.rd .PAIR_ID, s.rd .ID_SIDE, port, s.mir.ports, s.mir.half, s.rd .STATE,
    s.mir.abrupt, s.fl .TOOK_OVER⟩

/-- Send HELLO on every mirror port that is up. -/
def State.sayHello (s : State) : State :=
  s.each ((linksOf s.mirrorUp).filter (· < 2)) fun s p => s.send (.mirHello (s.helloOf p))

/-- The network port at which a mirror port's PHY is seen (R349): 0 for E0, 2 for E1. -/
def phyPort (port : Nat) : Nat := 2 * port

/-- MIR_PORTS and E1_HALF take effect (R318): the network ports in the mirror role (Table 13.1). -/
def State.mirrorRoles (s : State) : State :=
  let m := s.rd .MIR_PORTS
  let s := s.setMir fun x => { x with ports := m, half := s.fl .E1_HALF }
  let s := (s.setfi .MIRROR 0 (bit m 0)).setfi .MIRROR 1 (bit m 0)
  (s.setfi .MIRROR 2 (bit m 1)).setfi .MIRROR 3 (bit m 1 && !s.fl .E1_HALF)

/-- Bring-up starts on a port with HELLO (R321): MIR_PORTS and E1_HALF take effect (R318), and the state follows
(R338). A port that carries no mirror link starts none. -/
def State.bringUp (s : State) (port : Nat) : State :=
  let idle := s.mir.bring == Bring.down
  let s := (if idle || bit (s.rd .MIR_PORTS) port then s.mirrorRoles else s).mirChange
  s.when (bit s.mir.ports port) fun s =>
    (s.setMir fun m => { m with refused := false, bring := .hello, peer := none, pend := none }).sayHello

/-- MIRROR_PHY_UP (R321): while the link is down, bring-up starts with HELLO. -/
def execMirrorPhyUp (port : Nat) (s : State) : Out :=
  if 2 ≤ port || s.draining || s.mir.phyHold then .next s
  else
    let s := s.setMir fun m => { m with phy := setBit m.phy port true }
    let s := s.setfi .PHY_UP (phyPort port) true
    .next (if s.mir.bring == Bring.up then s else s.bringUp port)

/-- Bring-up ends without a link (R322). -/
def State.refuse (s : State) (cause : Nat) : State :=
  let s := (s.wr .ID_FAIL cause).setMir fun m => { m with bring := .down, refused := true, pend := none, peer := none }
  (s.record clsError 0 322 (item 8 cause)).alert blkMIR

/-- The lanes a mirror port carries (R319). -/
def State.lanesOf (s : State) (port : Nat) : List Nat :=
  if s.mir.ports != 3 then (if bit s.mir.ports port then List.range 16 else [])
  else
    let cut := if s.mir.half then 11 else 8
    (List.range 16).filter fun l => decide (l < cut) == (port == 0)

/-- MIRROR_PORT_PHY_DOWN (R319, R325): its lanes move to the other port, where their unacknowledged records
are sent again, or the link is lost. -/
def execMirrorPortPhyDown (port : Nat) (s : State) : Out :=
  if 2 ≤ port || !bit s.mir.phy port then .next s
  else
    let s := (s.setMir fun m => { m with phy := setBit m.phy port false }).setfi .PHY_UP (phyPort port) false
    if s.draining || !bit s.mir.ports port then .next s
    else if s.mirrorUp = 0 then
      if s.mir.bring == Bring.down then .next s
      else if s.fl .MIR_STATUS_LINK_UP then .next (s.linkLost true)
      else .next (s.setMir fun m => { m with bring := .down, peer := none, pend := none }).mirChange
    else if s.fl .MIR_STATUS_LINK_UP then .next (s.each (s.lanesOf port) State.resend)
    else .next s

/-- HELLO (R321): bring-up goes on to SPDM; `lport` is the port it arrived on. The port of a HELLO that came
across a crossed cable is judged by R322. -/
def execHello (lport : Nat) (h : Hello) (s : State) : Out :=
  if s.mir.bring != Bring.hello || !bit s.mirrorUp lport then .next s
  else .next (s.setMir fun m => { m with peer := some h, crossed := h.port != lport, bring := .spdm })

/-- HELLO_REPEAT (R321). -/
def execHelloRepeat (s : State) : Out :=
  .next (if s.mir.bring == Bring.hello then s.sayHello else s)

/-- The first failing cause of R322; 0 passes. -/
def State.idCheck (s : State) (h : Hello) (authOk : Bool) : Nat :=
  if !authOk then 1
  else if s.rd .PAIR_ID = 0 || h.pair == 0 || s.rd .PAIR_ID != h.pair then 2
  else if h.side = s.rd .ID_SIDE then 3
  else if s.mir.crossed || h.ports != s.mir.ports || h.half != s.mir.half then 4
  else if h.uid != s.rd .PARTNER_UID && s.md.ledger.any (fun e => e.2.kind == 2) then 5 else 0

/-- The tier pages of an object as keys. -/
def pageKeys (id : Nat) (o : Obj) : List Key := (List.range o.pages).map fun tp => (id, tp)

/-- The own mirrored objects. -/
def State.ownMirrored (s : State) : List (Nat × Obj) :=
  (s.md.ledger.filter fun e => e.2.kind = 1 && e.2.mirror).map fun e => (e.1.1, e.2)

/-- The replicas held. -/
def State.replicas (s : State) : List (Nat × Obj) :=
  (s.md.ledger.filter fun e => e.2.kind = 2).map fun e => (e.1.1, e.2)

/-- The frames of objects whose windows step 5 removes (R341, R342). -/
def State.step5Frames (s : State) (ids : List Nat) : List Nat :=
  ids.flatMap fun id => match s.obj? id with
    | some o => s.rangeFrames o 0 o.pages
    | none => []

/-- Remove an object's windows (R341, R342). -/
def State.dropWins (s : State) (id : Nat) : State :=
  let ks := s.winsOf id
  if ks.isEmpty then s else s.journal (winDropOps s ks)

/-- The solo map forgets an object (R341, R342). -/
def State.soloForget (s : State) (id : Nat) : State :=
  s.soloKeep fun k => k.1 != id

/-- The lines, fills and queued requests of an object go to its new ID (R231, R342). -/
def FchS.rename (x : FchS) (id new : Nat) : FchS :=
  { x with lines := x.lines.map fun (e : Key × CLine) => if e.2.obj = id then (e.1, { e.2 with obj := new }) else e
           mrs := x.mrs.map fun (e : Key × MissReg) => if e.2.obj = id then (e.1, { e.2 with obj := new }) else e
           mq := x.mq.map fun (e : MissQ) => if e.obj = id then { e with obj := new } else e }

/-- A taken-over object that diverged becomes a new own object that keeps its tweak (R342). -/
def State.renewTaken (s : State) (id : Nat) : State :=
  match s.obj? id with
  | none => s
  | some o =>
    let new := s.pickId
    let s := s.dropWins id
    let o := (s.obj? id).getD o
    let s := s.journal [.obj id none, .obj new (some o), .idPtr ((new + 1) % 2 ^ 31)]
    let s := { s with tpe := { s.tpe with
      frames := s.tpe.frames.map (fun (e : Key × Frame) => if e.2.obj = id then (e.1, { e.2 with obj := new }) else e)
      moves := s.tpe.moves.map (fun (m : Move) => if m.obj = id then { m with obj := new } else m) } }
    let v := s.nfc.vault.foldl (fun v e => if e.1.1 = id then mput (mdel v e.1) (new, e.1.2) e.2 else v) s.nfc.vault
    let s := { s with nfc := { s.nfc with vault := v }, fch := s.fch.rename id new, waits := s.waits.map fun (w : Wait) =>
      if w.obj = id ∧ w.why ≠ Why.gone then { w with obj := new } else w }
    let s := s.each (pageKeys new o) fun s k => s.soloMark k.1 k.2
    ((s.soloForget id).setf .SPLIT_SEEN true).record clsService 0 342 (item 1 id ++ item 1 new)

/-- An own object that the partner took over while this 8120 did not write becomes a replica (R341). -/
def State.becomeReplica (s : State) (id : Nat) : State :=
  match s.obj? id with
  | none => s
  | some _ =>
    let s := s.dropWins id
    let o := (s.obj? id).getD ⟨0, 2, 0, 0, 0, 0, 0, 0⟩
    ((s.journal [.obj id (some { o with kind := 2 })]).setUse id 3).soloForget id

/-- Steps 5 and 6 of bring-up (R323, R341, R342, R344, Table 13.3): roles journalled, divergence resolved,
LINK_UP, and resync begins with its ledger pass (R492). -/
def State.step5 (s : State) (x : Exch) (h : Hello) : State :=
  let solo := s.rd .STATE = mirSolo
  let peerSolo := h.state = mirSolo
  let senior : Bool := if decide solo != decide peerSolo then decide solo else s.rd .ID_SIDE == 0
  let ours := s.mir.takenOver
  let theirs := x.taken.filter fun e => ((s.own? e.1).map (·.mirror)).getD false
  let s := s.journal [.roles senior, .tookOver false]
  let s := s.setf .SENIOR senior
  -- objects taken over here: diverged while their owner was SOLO
  let s := if peerSolo then s.each ours State.renewTaken else s
  let s := s.each theirs fun s e =>
    if solo then
      let o := (s.obj? e.1).getD ⟨0, 1, 0, 0, 0, 0, 0, 0⟩
      let s := s.each (pageKeys e.1 o) fun s k => s.soloMark k.1 k.2
      (s.setf .SPLIT_SEEN true).record clsService 0 342 (item 1 e.1 ++ item 1 e.2)
    else s.becomeReplica e.1
  let newPartner := h.uid != s.rd .PARTNER_UID || x.fresh
  let s := ((s.wr .PARTNER_UID h.uid).setf .TOOK_OVER false).wr .ID_FAIL 0
  let own := s.ownMirrored
  let mine := (s.mir.solo.map (·.1)).filter fun k => own.any (fun e => e.1 == k.1) && !s.mir.unmatched.contains k.1
  let union := x.solo.filter fun k => ours.contains k.1 && own.any (fun e => e.1 == k.1)
  let allOwn := if newPartner then own.flatMap fun e => pageKeys e.1 e.2 else []
  let full := if h.abrupt then s.replicas.flatMap fun e => pageKeys e.1 e.2 else []
  let toSend := (mine ++ union ++ allOwn ++ full).eraseDups
  let need := if s.mir.abrupt then own.flatMap fun e => pageKeys e.1 e.2 else []
  let ids := (if s.mir.abrupt then [] else own.map (·.1)) ++ (if h.abrupt then s.replicas.map (·.1) else [])
  let s := s.setMir fun m => { m with
    bring := .up, pend := none, drainSeen := false, takenOver := [], toSend := toSend, need := need
    rxDue := (x.solo.filter (fun k => !ours.contains k.1) ++ need).eraseDups
    pass := 1, passIds := ids, passSsn := 0, inflight := [], fresh := newPartner
    rxPass := [], rxPassDone := false, lsnTx := [], rxLsn := []
    rxMark := (List.range 16).map fun l => ((l, 0), x.ssn), applied := [], held := [] }
  let s := ((s.wr .TWIN_APPLIED x.ssn).setf .MIR_STATUS_LINK_UP true).setf .RESYNC_BUSY true
  let s := (s.setf .FULL_RESYNC (h.abrupt || s.mir.abrupt)).wr .RESYNC_LEFT toSend.length
  s.ssnReserve.mirChange

/-- Step 5 when it can run: the charges of its journal entries are admitted (R41, R323), at most two for each
object that changes, and no host copy is left of an object whose windows go (R92). -/
def State.tryStep5 (s : State) : State :=
  match s.mir.bring, s.mir.pend, s.mir.peer with
  | .roles, some x, some h =>
    let ids := (if h.state = mirSolo then s.mir.takenOver else []) ++
      (if s.rd .STATE = mirSolo then [] else x.taken.map (·.1))
    let fs := s.step5Frames (ids.filter fun id => (s.own? id).isSome)
    if !s.framesClear fs then s.invalFrames fs
    else if s.canJournalN (1 + 2 * ids.length) then s.step5 x h else s
  | _, _, _ => s

/-- MIRROR_SPDM (R321, R322, R381, R393): first the session's end (`authOk`: the partner authenticated as an
8120), then the step-5 exchange. -/
def execMirrorSpdm (authOk : Bool) (x : Option Exch) (s : State) : Out :=
  if s.draining then .next s
  else match s.mir.bring, s.mir.peer with
    | .spdm, some h =>
      let c := s.idCheck h authOk
      if s.fl .TRNG_FAIL then .next s
      else if c ≠ 0 then .next (s.refuse c).mirChange
      else .next ((s.setMir fun m => { m with bring := .roles }).send (.mirCtl kSpdm 0 0 []))
    | .roles, _ =>
      let s := match x with
        | some e => s.setMir fun m => { m with pend := some e }
        | none => s
      .next s.tryStep5
    | _, _ => .next s

/-- PARTNER_ENDED_BRING_UP (R322): no step-5 exchange came. -/
def execPartnerEndedBringUp (s : State) : Out :=
  .next (if s.mir.bring == Bring.roles && s.mir.pend.isNone then (s.refuse 6).mirChange else s)

/-! ### Transport -/

/-- The records of an object's retried entry and of resync pages that are acknowledged by now (R336,
R343). -/
def State.resyncAcks (s : State) : State :=
  let pending := fun n : Nat => s.unacked.any fun r => r.ssn == n
  let s := if s.mir.pass == 2 && !pending s.mir.passSsn then s.setMir fun m => { m with pass := 3 } else s
  let ok := s.mir.retry.filter fun x => !pending x.2
  let s := s.setMir fun m => { m with
    retry := m.retry.filter fun x => pending x.2
    flow := ok.foldl (fun l x => withNat l x.1) m.flow
    toSend := (m.toSend ++ (m.solo.map (·.1)).filter fun k => ok.any fun x => x.1 == k.1).eraseDups }
  let done := s.mir.inflight.filter fun x =>
    !(s.unacked.any fun r => r.lane == laneOf x.1.1 x.1.2 && decide (r.ssn ≤ x.2))
  let s := s.each done fun s x => s.soloClear x.1
  let s := s.setMir fun m => { m with inflight := m.inflight.filter fun x => !done.contains x }
  (s.wr .RESYNC_LEFT s.mir.toSend.length).resyncCheck

/-- ACK (R330, R334): the lane's records up to the mark leave the retransmit store; send queues, fences,
resync and waiting writers go on. -/
def execAck (lane mark : Nat) (s : State) : Out :=
  if !s.fl .MIR_STATUS_LINK_UP || s.draining then .next s
  else
    let s := s.setMir fun m => { m with retx := m.retx.filter fun r => !(r.lane == lane && decide (r.ssn ≤ mark)) }
    let s := (s.wr .RETX_RECORDS s.mir.retx.length).drainSendq
    .next (((s.ssnAcked.resyncAcks).resolveFences false).mirRoom)

/-- NAK (R330). -/
def execNak (lane : Nat) (s : State) : Out :=
  .next (if s.fl .MIR_STATUS_LINK_UP && !s.draining then s.resend lane else s)

/-- RETX_TIMEOUT (R330). -/
def execRetxTimeout (lane : Nat) (s : State) : Out :=
  .next (if s.fl .MIR_STATUS_LINK_UP && !s.draining then s.resend lane else s)

/-- KEEPALIVE (R325). -/
def execKeepalive (port : Nat) (s : State) : Out :=
  .next (if bit s.mirrorUp port && !s.mir.refused && s.fl .MIR_STATUS_LINK_UP && !s.draining then
    (s.setMir fun m => { m with ctl := m.ctl + 1 }).send (.mirCtl kKeep 0 0 [port]) else s)

/-- MIRROR_LINK_LOST (R325): every mirror port is silent, or ACKs stall. -/
def execMirrorLinkLost (s : State) : Out :=
  .next (if s.fl .MIR_STATUS_LINK_UP && !s.draining then s.linkLost true else s)

/-- PHY_HOLD_END (R325). -/
def execPhyHoldEnd (s : State) : Out := .next (s.setMir fun m => { m with phyHold := false })

/-- The DRAM read of a line that lies in a frame and not in the front cache, through the twin-mirror tag for a replica
(R230, R337, R343). -/
def State.lineDreq (s : State) (o : Obj) (ln cls : Nat) : State :=
  let e := s.mapE (o.mapBase + ln / 1024)
  let la := 1024 * e.frame + ln % 1024
  if (e.st == .t1 || e.st == .leaving) && decide (ln / 1024 < o.pages) && (s.cline? la).isNone then
    s.dreq la 1 false (if o.kind = 2 then .mir else .fch) cls
  else s

/-- FETCH_REQ (R337): the line is read with the twin rung closed; `fail` says that the server's own ladder
failed. -/
def execFetchReq (tag obj ln : Nat) (fail : Bool) (s : State) : Out :=
  if !(s.fl .MIR_STATUS_LINK_UP || s.mir.drainSeen) || s.draining then .next s
  else
    let l : Option DLine := (s.obj? obj).bind fun o => s.lineAt o obj ln
    let ws : List Nat := match l with
      | none => [2]
      | some d => if d.st == LSt.poison then [1] else if fail || d.st == LSt.marked then [2] else [0, d.data.toNat]
    let s := match s.obj? obj with
      | some o => s.lineDreq o ln sc1
      | none => s
    .next ((s.send (.mirCtl kFetchRsp 0 tag ws)).count .FETCH_CNT 0 .MIR_FLAGS_CNT_OVF 0 4)

/-! ### Heartbeat, TWIN_GRANT, takeover -/

/-- HEARTBEAT_LOST (R324, R338). -/
def execHeartbeatLost (s : State) : Out := .next (s.setf .HB_ALIVE false).mirChange

/-- HEARTBEAT_RESTORED (R324, R338). -/
def execHeartbeatRestored (s : State) : Out := .next (s.setf .HB_ALIVE true).mirChange

/-- TWIN_GRANT_CHANGE (R326, R338). -/
def execTwinGrantChange (v : Bool) (s : State) : Out := .next (s.setf .GRANT v).mirChange

/-- HEARTBEAT_TOGGLE (R324): until the rails go down. -/
def execHeartbeatToggle (s : State) : Out :=
  if s.rd .RAIL_EN_OUT = 0 then .next s
  else
    let v := !s.mir.hbOut
    .next ((s.setMir fun m => { m with hbOut := v }).send (.pin "TWIN_HB_OUT" v))

/-- The effect of an accepted TAKEOVER: one journal entry turns every replica into an own object (R340). -/
def State.takeAll (s : State) : State :=
  let rs := s.replicas
  let s := s.journal (rs.map (fun e => .obj e.1 (some { e.2 with kind := 1 })) ++ [.tookOver true])
  let s := s.each rs fun s e => s.setUse e.1 1
  let s := s.setMir fun m => { m with takenOver := rs.foldl (fun l e => withNat l e.1) m.takenOver, takePend := false }
  (s.setf .TOOK_OVER true).record clsService 0 340 (item 9 rs.length)

/-- A TAKEOVER write (R340): refused with a record unless solo by DRAIN, or by heartbeat loss and grant. -/
def State.takeover (s : State) : State :=
  if s.rd .STATE == mirSolo && (s.mir.drainSeen || (!s.fl .HB_ALIVE && s.fl .GRANT)) then
    if s.canJournal then s.takeAll else s.setMir fun m => { m with takePend := true }
  else s.record clsService 0 340 (item 8 (s.rd .STATE))

/-- TAKEOVER (R340). -/
def execTakeover (s : State) : Out := .next (s.barWrite State.takeover)

/-- A RETRY_MATCH write (R336): the ledger entry of each unmatched object is sent again. -/
def State.retryMatch (s : State) : State :=
  if !s.mirUp then s
  else s.each s.mir.unmatched fun s id =>
    if s.mir.flow.contains id || s.mir.retry.any (fun x => x.1 == id) then s
    else match s.own? id with
      | none => s.setMir fun m => { m with unmatched := without m.unmatched id }
      | some o =>
        let s := s.addRec (bits id 0 4) .md id 0 1 0 [] [.obj id (some o)] o.owner false
        let s := if s.fl .RESYNC_BUSY then s else
          (s.setf .RESYNC_BUSY true).setMir fun m => { m with pass := 3, rxPassDone := true, rxDue := [] }
        s.setMir fun m => { m with retry := m.retry ++ [(id, s.rd .SSN_ISSUED)] }

/-- RETRY_MATCH (R336). -/
def execRetryMatch (s : State) : Out := .next (s.barWrite State.retryMatch)

/-- A LINK_RESTART write (R325, R321): the link goes down for 1 ms, then bring-up runs. -/
def State.linkRestart (s : State) : State := s.linkLost true

/-- LINK_RESTART (R325). -/
def execLinkRestart (s : State) : Out := .next (s.barWrite State.linkRestart)

/-! ### Resync -/

/-- One line of a resync page enters the lane's open record (R343); a poisoned or unreadable line goes with
its POISON bit. -/
def State.resyncLine (s : State) (o : Obj) (k : Key) (j : Nat) : State :=
  let ln := 1024 * k.2 + j
  let d := (s.lineAt o k.1 ln).getD zeroLine
  (s.lineDreq o ln sc3).addLine k.1 ln d.data (d.st != LSt.good) 0 true

/-- RESYNC_PAGE_SEND (R343, R344, R492): the next ledger entry, the closing record, or the next page; a page
the partner waits for goes first. The entry of an unmatched object is sent again with the pass (R336). -/
def execResyncPageSend (waited : Option Key) (s : State) : Out :=
  if !s.mirUp || !s.fl .RESYNC_BUSY || s.draining || retxSlots ≤ s.mir.retx.length || !s.ssnReady then .next s
  else if s.mir.pass = 1 then
    match s.mir.passIds with
    | id :: rest =>
      let s := match s.obj? id with
        | some o => s.addRec (bits id 0 4) .md id 0 1 0 [] [.obj id (some { o with mapBase := 0, winCnt := 0 })] 0 true
        | none => s
      let again : Bool := s.mir.unmatched.contains id && (s.own? id).isSome
      .next (s.setMir fun m => { m with
        passIds := rest, retry := if again then m.retry ++ [(id, s.rd .SSN_ISSUED)] else m.retry })
    | [] =>
      let s := s.addRec 0 .md 0 0 0 0 [] [] 0 true
      .next (s.setMir fun m => { m with pass := 2, passSsn := s.rd .SSN_ISSUED })
  else if s.mir.pass != 3 then .next s
  else
    let pick := match waited with
      | some k => if s.mir.toSend.contains k then some k else s.mir.toSend.head?
      | none => s.mir.toSend.head?
    match pick with
    | none => .next s.resyncCheck
    | some k =>
      let s := s.setMir fun m => { m with toSend := m.toSend.filter (· != k) }
      let s := s.wr .RESYNC_LEFT s.mir.toSend.length
      match s.obj? k.1 with
      | none => .next (s.soloClear k).resyncCheck
      | some o =>
        if o.pages ≤ k.2 then .next (s.soloClear k).resyncCheck
        else
          let s := s.each (List.range 1024) fun s j => s.resyncLine o k j
          .next (s.setMir fun m => { m with inflight := m.inflight ++ [(k, s.rd .SSN_ISSUED)] })

end Sys2Proof.Machine
end

