-- ==== Sys2Proof/Machine/Moves.lean ====
section
/-! DEFINITION. Page movement (08_page_movement.md, R181 to R194): which move begins next, the life of a
move, stream entries, refill, and the rows of the frame pool. -/

namespace Sys2Proof.Machine

/-- The map index of a move's page. -/
def State.moveIx (s : State) (m : Move) : Nat := ((s.obj? m.obj).map (·.mapBase)).getD 0 + m.tp

/-! ### Ends of moves -/

/-- A stream promotion reached DONE after its entry's deadline: MISS_DL_CNT, once per entry (R210). -/
def State.missDeadline (s : State) (m : Move) : State :=
  s.each (m.src :: m.also) fun s x => match x with
    | .stream d sid n =>
      match (s.tpe.streams.find? fun t => t.dom == d && t.sid == sid) with
      | some t =>
        match t.ents[n]? with
        | some e =>
          if e.missed || s.nowUs ≤ e.deadline then s
          else
            let es := (List.range t.ents.length).zip t.ents |>.map fun y => if y.1 = n then { y.2 with missed := true } else y.2
            (s.updStream d sid fun t => { t with ents := es }).count .MISS_DL_CNT d .TPE_DOM_STRM2_CNT_OVF d 1
        | none => s
      | none => s
    | _ => s

/-- A promotion is done (R197 DONE): the page is T1, referenced, and what waited for it goes on; a volatile object's
page keeps no home (Table 07.4). -/
def State.promoteDone (s : State) (m : Move) : State :=
  if m.orphan then (s.endOrphan m).applyHeld
  else
    let ix := s.moveIx m
    let s := s.setMap ix { s.mapE ix with st := .t1 }
    let s := if (s.obj? m.obj).any fun o => o.kind == 1 && !o.persist then s.dropHome ix else s
    let s := match s.frame? m.frame with
      | some f => s.setFrame m.frame { f with age := 0, ref := true }
      | none => s
    let s := ((s.missDeadline m).countStreams m true).dropMove m.id
    (s.pageReady m.obj m.tp).applyHeld

/-- A demotion is done: its frame is freed and the page has its new tier. -/
def State.demoteDone (s : State) (m : Move) : State :=
  if m.orphan then (s.endOrphan m).applyHeld
  else
    let ix := s.moveIx m
    let s := s.setMap ix { s.mapE ix with st := m.dest, frame := 0 }
    let s := s.freeFrame m.frame
    let s := (s.countStreams m true).dropMove m.id
    let s := s.rerun fun (w : Wait) => w.obj == m.obj && w.tp == m.tp && w.why == Why.page
    s.applyHeld

/-- The class of a move's reads and writes: a replica page's fetch SC0 (R332), a demand fetch and what an access raised
SC1 (R190, R211), refill SC3 (R214), every other SC2 (R199, R202). -/
def State.moveCls (s : State) (m : Move) : Nat :=
  if m.src == .demand then (if ((s.obj? m.obj).map (·.kind)) == some 2 then sc0 else sc1)
  else if m.late then sc1 else if m.src == .refill then sc3 else sc2

/-- The promotion's data enters its frame: vault and home for T2, the T3 slot's lines, or zeros (R197, R190
step 4, R202). `bad` lists code pages that neither decode nor rebuild; `t3` what the slot decrypts to, and
`sent` the lines that came back as sentinel lines (R305). A page freed under its move from T2 was read when it was
freed. -/
def State.loadFrame (s : State) (m : Move) (bad : List Nat) (t3 : List (Nat × Line)) (sent : List Nat) : State :=
  let e := s.mapE (s.moveIx m)
  let s := s.dreq (1024 * m.frame) 1024 true .tpe (s.moveCls m)
  if m.orphan && m.src0 != .t3 then s
  else match m.src0 with
  | .t2 => (s.when (!bad.isEmpty) (·.setf .STRIPE_LOSS true)).loadCold m.obj m.tp e m.frame bad
  | .t3 => s.each t3 fun s l =>
      s.setDline (1024 * m.frame + l.1 % 1024) ⟨l.2, if sent.contains l.1 then .poison else .good⟩
  | _ => s

/-- The move under way of a page, in a given state. -/
def State.moveIn (s : State) (obj tp : Nat) (st : MSt) : Option Move :=
  s.tpe.moves.find? fun m => m.obj == obj && m.tp == tp && m.st == st

/-- An SC1 read suspends a program on its die, one operation at most SUSPEND_MAX times (R280). -/
def State.suspend (s : State) (ch die : Nat) : State :=
  let max := s.rd .SUSPEND_MAX
  let hit := fun (p : NProg) => if p.ch = ch ∧ p.die = die ∧ p.susp < max then { p with susp := p.susp + 1 } else p
  { s with stl := { s.stl with jobs := s.stl.jobs.map fun j => { j with progs := j.progs.map hit } } }

/-- What NAND reads of a class needed (R275, R280): per member read, its channel, its die and whether it was rebuilt
from parity (REBUILT_CNT) or read with retries or soft decision (RETRY_CNT). -/
def State.nandReads (s : State) (cls : Nat) (rd : List (Nat × Nat × Bool)) : State :=
  let s := if cls = sc1 then s.each rd fun s x => s.suspend x.1 x.2.1 else s
  s.each rd fun s x =>
    if 36 ≤ x.1 then s
    else if x.2.2 then s.count .REBUILT_CNT x.1 .NFC_CH_FLAGS_CNT_OVF x.1 1
    else s.count .RETRY_CNT x.1 .NFC_CH_FLAGS_CNT_OVF x.1 0

/-- The LD of a T3 slot can be reached (R194). -/
def State.slotLive (s : State) (e : MapE) : Bool :=
  s.fli .LD_EN (ldIx e.t3Link e.t3Ld) && !bit s.prt.perst (portOf e.t3Link)

/-- A fetch from T3 cannot reach its slot's LD now, so its read fails (R194). -/
def State.slotDead (s : State) (m : Move) : Bool := m.src0 == PgSt.t3 && !m.orphan && !s.slotLive (s.mapE (s.moveIx m))

/-- Answer a host request for a line that no fetch brought: a store completes, a read returns poison (R194). -/
def State.failHost (s : State) (r : HostReq) : State :=
  if r.wr then s.doneWrite r else (s.doneRead r s.poisonData true).freeNext

/-- The same for a request at a line. -/
def State.failLine (s : State) (q : Req) : State :=
  match q.who with
  | .host r => s.failHost r
  | _ => s

/-- The same for what waits on the page of a failed fetch. -/
def State.failWait (s : State) (tp : Nat) (w : Wait) : State :=
  match w.ent with
  | .host r => (s.stallEnd w.dom).failHost r
  | .cmd uid => match s.cmd.cmds.find? fun c => c.uid == uid with
    | some c => s.cmdErr c 0x30 0x30 (tp * 65536) 1
    | none => s
  | .rdma ctx psn => s.ctxPageFail ctx psn

/-- Answer every access attached to a failed T3 fetch as an uncorrectable line (R194). -/
def State.failPage (s : State) (m : Move) : State :=
  let mine := fun (w : Wait) => if m.orphan then w.why == Why.gone && w.obj == m.id
    else w.why == Why.page && w.obj == m.obj && w.tp == m.tp
  let hit := s.waits.filter mine
  let mrs := s.fch.mrs.filter fun e => e.2.la / 1024 == m.frame
  let qd := s.fch.mq.filter fun e => e.la / 1024 == m.frame
  let s := { s with waits := s.waits.filter fun (w : Wait) => !mine w
                    fch := { s.fch with mrs := s.fch.mrs.filter fun e => e.2.la / 1024 != m.frame
                                        mq := s.fch.mq.filter fun e => e.la / 1024 != m.frame } }
  let s := s.each hit fun s w => s.failWait m.tp w
  let s := s.each mrs fun s e => s.each e.2.reqs State.failLine
  let s := s.each qd fun s e => s.failLine e.req
  s.each (mrs.map (·.1.1)) State.missQueue

/-- A T3 fetch fails: the page stays T3; one record per page per tick (R194). -/
def State.fetchFail (s : State) (m : Move) : State :=
  let s := s.recordOnce (s.moveIx m) clsError m.dom 194 (item 1 m.obj ++ item 0xD m.tp)
  let s := s.failPage m
  if m.orphan then (s.freeFrame m.frame).dropMove m.id
  else
    let s := s.setMap (s.moveIx m) { s.mapE (s.moveIx m) with st := .t3, frame := 0 }
    ((s.freeFrame m.frame).countStreams m false).dropMove m.id

/-- DEMAND_FETCH_DONE (R190, R189): `us` is how long the fetch took. -/
def execDemandFetchDone (obj tp us : Nat) (bad : List Nat) (rd : List (Nat × Nat × Bool)) (t3 : List (Nat × Line)) (sent : List Nat) (s : State) : Out :=
  match s.moveIn obj tp .load with
  | none => .next s
  | some m =>
    if m.src != MSrc.demand || m.src0 == PgSt.zero || s.draining then .next s
    else if s.slotDead m then .next (s.fetchFail m)
    else
      let s := (s.nandReads (s.moveCls m) rd).loadFrame m bad t3 sent
      .next ((s.wr .DF_MAX_US (max (s.rd .DF_MAX_US) us)).promoteDone m)

/-- ZERO_FILL_DONE (R173): a demand fetch's zero fill counts in DF_MAX_US (R189, R191); `tpUs` is the tier page with 2^32
times the microseconds that the fill took added. -/
def execZeroFillDone (obj tpUs : Nat) (s : State) : Out :=
  let us := tpUs / 2 ^ 32
  match s.moveIn obj (tpUs % 2 ^ 32) .load with
  | none => .next s
  | some m =>
    if m.src0 != PgSt.zero || s.draining then .next s
    else
      let s := s.when (m.src == MSrc.demand) (·.wr .DF_MAX_US (max (s.rd .DF_MAX_US) us))
      .next ((s.loadFrame m [] [] []).promoteDone m)

/-- OVER_BOUND (R191). -/
def execOverBound (obj tp : Nat) (s : State) : Out :=
  match s.moveOf obj tp with
  | none => .next s
  | some m =>
    if m.src != MSrc.demand then .next s
    else .next ((s.setf .OVER_BOUND true).record clsWarn m.dom 191 (item 1 obj ++ item 0xD tp))

/-- T3_FETCH_FAIL (R194). -/
def execT3FetchFail (obj tp : Nat) (s : State) : Out :=
  match s.moveIn obj tp .load with
  | none => .next s
  | some m =>
    .next (if m.src0 != PgSt.t3 || s.draining then s else s.fetchFail m)

/-- RESIDENCY_CHECKPOINT (R184). -/
def execResidencyCheckpoint (s : State) : Out :=
  if s.draining then .next s
  else
    let l := (s.tpe.frames.filter fun e => e.2.use = 1 ∨ e.2.use = 3).map fun e => Resid.mk e.2.obj e.2.tp e.2.age e.2.acct
    .next { s with tpe := { s.tpe with ckpt := l } }

/-- The run that compaction moves next and the lower start it can have: the lowest such run (R169). -/
def State.compactNext (s : State) : Option (Nat × Obj × Nat) :=
  s.md.ledger.findSome? fun e =>
    if e.2.pages = 0 then none
    else match { s.md with ledger := mdel s.md.ledger e.1 }.findRun e.2.pages with
      | some b => if b < e.2.mapBase then some (e.1.1, e.2, b) else none
      | none => none

/-- RUN_COMPACTION_STEP (R169): 4,096 entries of the run move at SC3; with the last of them its MAP_BASE changes, and no
HOME does. Until then the run is translated where it lay. -/
def execRunCompactionStep (s : State) : Out :=
  match s.compactNext with
  | none => .next { s with tpe := { s.tpe with compact := none } }
  | some (id, o, b) =>
    let n := match s.tpe.compact with
      | some (i, t, n) => if i = id ∧ t = b then n else 0
      | none => 0
    if s.draining then .next s
    else if n + 4096 < o.pages then
      .next ({ s with tpe := { s.tpe with compact := some (id, b, n + 4096) } }.mapDreq (o.mapBase + n) (b + n) 4096)
    else if !s.canJournal then .next s
    else
      let old := (List.range o.pages).map fun tp => (tp, s.mapE (o.mapBase + tp))
      let s := { s with tpe := { s.tpe with compact := none } }.mapDreq (o.mapBase + n) (b + n) (o.pages - n)
      .next (s.journal ((List.range o.pages).map (fun tp => JOp.map (o.mapBase + tp) none)
        ++ old.map (fun e => JOp.map (b + e.1) (some e.2)) ++ [.obj id (some { o with mapBase := b })]))

/-! ### Which move begins next -/

/-- Begin a demotion (R197 CLEAN): the page is LEAVING and host copies are back-invalidated (R92). -/
def State.beginClean (s : State) (m : Move) : State :=
  let ix := s.moveIx m
  let e := s.mapE ix
  let s := s.setMap ix { e with st := .leaving }
  ((s.updMove m.id fun m => { m with st := .clean, frame := e.frame, aside := false }).snoopFrame e.frame).moveRegs

/-- The frame R181 evicts now, if any. -/
def State.victim (s : State) : Option Nat :=
  let v := s.tpe.frames.filter fun e => s.eligibleFrame e.1.1 e.2
  let above := v.filter fun e => decide (s.rdi .CEIL_FRAMES e.2.acct < s.rdi .TALLY e.2.acct)
  let v := if above.isEmpty then v.filter fun e => decide (s.rdi .FLOOR_EFF e.2.acct < s.rdi .TALLY e.2.acct) else above
  let gap := fun (f : Frame) => (s.rdi .TALLY f.acct : Int) - (s.rdi .FLOOR_EFF f.acct : Int)
  (v.foldl (fun (b : Option (Nat × Frame)) e => match b with
    | none => some (e.1.1, e.2)
    | some (n, f) => if f.age < e.2.age ∨ (f.age = e.2.age ∧ gap f < gap e.2) then some (e.1.1, e.2) else some (n, f))
    none).map (·.1)

/-- A retire-pending frame that is eligible (R309). -/
def State.retireVictim (s : State) : Option Nat :=
  s.int.retire.find? fun f => match s.frame? f with
    | some x => s.eligibleFrame f x
    | none => false

/-- Evict a frame: its demotion begins (R182). -/
def State.evictFrame (s : State) (f : Nat) : State :=
  match s.frame? f with
  | none => s
  | some x =>
    match s.obj? x.obj with
    | none => s
    | some o =>
      let s := s.queueMove ⟨0, x.obj, x.tp, .evict, [], .queued, .t1, demoteTo o, f, x.acct, 0, false, false, false⟩
      let s := s.count .EVICT_CNT 0 .TPE_FLAGS_CNT_OVF 0 1
      match s.moveOf x.obj x.tp with
      | some m => s.beginClean m
      | none => s

/-- What a queued move needs before it can begin. -/
inductive Ready where
  | go | doneNow | cancelled | aside | ceiling | wait
deriving DecidableEq, Repr

/-- Judge a queued move (R206, R208, R209, R180). -/
def State.judge (s : State) (m : Move) : Ready :=
  match s.obj? m.obj with
  | none => .cancelled
  | some o =>
    let e := s.mapE (o.mapBase + m.tp)
    let strm : Bool := match m.src with
      | .stream .. => true
      | _ => false
    if m.dest == PgSt.t1 then
      if e.st = .t1 then .doneNow
      else if e.st = .leaving ∨ e.st = .fetching then .wait
      else if strm && !s.underCeil m.dom 1 then .ceiling
      else if s.rd .FREE_FRAMES = 0 then .wait else .go
    else if e.st = .zero ∨ e.st = .t2 ∨ e.st = .t3 then .doneNow
    else if e.st = .fetching then .wait
    else if !mayDemote o e || demoteTo o != m.dest then .cancelled
    else if (o.persist && !e.clean) || s.inLockedRange m.obj m.tp then (if strm then .aside else .wait)
    else .go

/-- The index of a stream move's entry. -/
def Move.entry (m : Move) : Nat :=
  match m.src with
  | .stream _ _ n => n
  | _ => 0

/-- Is the move a stream's own. -/
def Move.ofStream (m : Move) (t : Stream) : Bool :=
  match m.src with
  | .stream d sid _ => d == t.dom && sid == t.sid
  | _ => false

/-- The head of a stream (R207): its first queued move not set aside; it must not overtake a move of an
earlier entry. -/
def State.headOf (s : State) (t : Stream) : Option Move :=
  s.tpe.moves.find? fun m => m.st == MSt.queued && m.ofStream t && !m.aside

/-- Moves of a stream begun and not done; late pages hold no depth (R206, R211). -/
def State.depthUsed (s : State) (t : Stream) : Nat :=
  (s.tpe.moves.filter fun m => m.st != MSt.queued && m.ofStream t && !m.late).length

/-- Settle what the streams' heads come to without beginning: skipped, set aside, failed at the ceiling, or
done already. -/
def State.sortHead (s : State) (t : Stream) : State :=
  match s.headOf t with
  | none => s
  | some m =>
    match s.judge m with
    | .doneNow => (s.countStreams m true).dropMove m.id
    | .cancelled => s.cancelMove m
    | .aside => s.updMove m.id fun m => { m with aside := true }
    | .ceiling =>
      let s := (s.count .CEIL_CNCL_CNT t.dom .TPE_DOM_STRM2_CNT_OVF t.dom 2).updStream t.dom t.sid fun t =>
        { t with ceilAt := t.ceilAt.or (some (m.tp * 65536)) }
      s.cancelMove m
    | _ => s

/-- Sort heads until each stream's head can begin or must wait. -/
def sortHeads : Nat → State → State
  | 0, s => s
  | n + 1, s => sortHeads n (s.each s.tpe.streams State.sortHead)

/-- R205: a stream reaches a block of 256 entries and rereads it; if its CRC changed, the block's unbegun
moves are cancelled with one record. -/
def State.rereadBlock (s : State) (t : Stream) (b : Nat) (words : List (List Nat)) : State :=
  if t.reread.contains b then s
  else
    let es := (t.ents.drop (256 * b)).take 256
    let crc := fun (l : List (List Nat)) => crc32c (l.flatMap fun w => (List.range 4).flatMap fun i => toBytes 8 (w.getD i 0))
    let s := s.updStream t.dom t.sid fun t => { t with reread := t.reread ++ [b] }
    if crc (es.map (·.words)) = crc (words.take es.length) then s
    else
      let ms := s.tpe.moves.filter fun m => m.st == MSt.queued && m.ofStream t && m.entry / 256 == b
      let left := ((es.filter fun e => !e.started).map (·.pages)).foldl (· + ·) 0
      let s := s.updStream t.dom t.sid fun t =>
        let es' := ((List.range t.ents.length).zip t.ents).map fun y => if y.1 / 256 = b then { y.2 with started := true } else y.2
        { t with ents := es', cancelled := t.cancelled + left }
      let s := s.each ms State.cancelMove
      s.record clsWarn t.dom 205 (item 0xC t.sid)

/-- Begin a move that may begin. -/
def State.beginMove (s : State) (m : Move) : State :=
  if m.dest == PgSt.t1 then
    let rep := ((s.obj? m.obj).map fun o => o.kind == 2).getD false
    s.beginLoad m m.dom (if rep then 3 else 1)
  else s.beginClean m

/-- The next refill entry that is not skipped, and the list after it (R214). -/
def State.nextRefill (s : State) (l : List Resid) : Option (Resid × List Resid) :=
  match l with
  | [] => none
  | r :: rest =>
    let ok := match s.obj? r.obj with
      | none => false
      | some o => (o.persist || o.kind == 2) && decide (r.tp < o.pages) && (s.moveOf r.obj r.tp).isNone
          && !([PgSt.t1, .fetching, .leaving].contains (s.mapE (o.mapBase + r.tp)).st) && decide (s.rdi .TALLY r.acct < s.rdi .CEIL_FRAMES r.acct)
    if ok then some (r, rest) else s.nextRefill rest

/-- REFILL_LEFT and REFILL_DONE follow the refill list. -/
def State.refillRegs (s : State) : State :=
  (s.wr .REFILL_LEFT s.tpe.refill.length).setf .REFILL_DONE s.tpe.refill.isEmpty

/-- Begin the next refill move (R214): never below FREE_LOW. -/
def State.beginRefill (s : State) : State :=
  if !s.fl .REFILL_EN || s.tpe.refill.isEmpty || s.rd .FREE_FRAMES ≤ s.rd .FREE_LOW then s
  else match s.nextRefill s.tpe.refill with
    | none => { s with tpe := { s.tpe with refill := [] } }.refillRegs
    | some (r, rest) =>
      let s := { s with tpe := { s.tpe with refill := rest } }.refillRegs
      let s := s.queueMove ⟨0, r.obj, r.tp, .refill, [], .queued, .t2, .t1, 0, r.acct, 0, false, false, false⟩
      match s.moveOf r.obj r.tp with
      | some m => s.beginMove m
      | none => s

/-- The move of the ready ones with the earliest deadline; among equals the one queued first (R201). -/
def earliest (ms : List Move) : Option Move :=
  ms.foldl (fun (b : Option Move) m => match b with
    | none => some m
    | some x => if m.deadline < x.deadline ∨ (m.deadline = x.deadline ∧ m.id < x.id) then some m else some x) none

/-- Placement moves: of PLACE, HOLD and OBJ_ATTR. -/
def Move.placement (m : Move) : Bool := m.src == .place || m.src == .hold || m.src == .attr

/-- A queued promotion asks for a frame and finds none (R183): demand fetches, and of the others those next in their
order. -/
def State.frameWait (s : State) (m : Move) : Bool :=
  m.st == MSt.queued && m.dest == PgSt.t1 && (m.src == MSrc.demand
    || (s.judge m == Ready.wait && s.moveOf m.obj m.tp == some m
      && (m.placement || m.aside || s.tpe.streams.any fun t => s.headOf t == some m)
      && !([PgSt.fetching, PgSt.leaving].contains (s.mapE (s.moveIx m)).st)))

/-- POOL_DRY (R183): a frame request has waited 1 ms. -/
def execPoolDry (s : State) : Out :=
  let waiting := s.tpe.moves.any s.frameWait || s.waits.any (fun w => w.why == Why.frame)
    || s.mir.held.any fun r => r.ty == RTy.atomic && (mget s.mir.staged (r.obj, r.cpage / 16)).isNone
  if s.fl .POOL_DRY || s.rd .FREE_FRAMES != 0 || !waiting then .next s
  else .next ((((s.setf .POOL_DRY true).count .POOL_DRY_CNT 0 .TPE_FLAGS_CNT_OVF 0 2).record clsWarn 0 183 []).alert blkTPE)

/-- A tracker entry that moves other than demand fetch may use is free (R191). -/
def State.otherEntry (s : State) : Bool :=
  decide (s.trackerUsed < 4096)
    && decide ((s.tpe.moves.filter fun m => m.st != MSt.queued && m.src != MSrc.demand).length + s.rd .DF_RESERVE < 4096)

/-- The eviction that begins now: of a retire-pending frame (R309), else while the pool is short (R181). -/
def State.evictNow (s : State) : Option Nat :=
  s.retireVictim.or (if s.rd .FREE_FRAMES < s.rd .FREE_LOW then s.victim else none)

/-- The streams' heads, the set-aside moves and the oldest placement move: the earliest deadline begins, else a refill
move (R201, R206 to R209). -/
def State.beginOther (s : State) (words : List (List Nat)) : State :=
  let s := s.each s.tpe.streams fun s t => match s.headOf t with
    | some m => s.rereadBlock t (m.entry / 256) words
    | none => s
  let s := (sortHeads (s.tpe.moves.length + 1) s).streamEnds
  let go := fun (m : Move) => s.judge m == Ready.go
  let heads := s.tpe.streams.filterMap fun t =>
    if s.depthUsed t < s.rd .STREAM_DEPTH then (s.headOf t).filter go else none
  let asides := s.tpe.moves.filter fun m => m.st == MSt.queued && m.aside && go m
  let place := (s.tpe.moves.find? fun m => m.st == MSt.queued && m.placement && go m).toList
  let ended := s.tpe.moves.filter fun m => m.st == MSt.queued && m.placement &&
    (s.judge m == Ready.doneNow || s.judge m == Ready.cancelled)
  let s := s.each ended fun s m => if s.judge m == Ready.doneNow then (s.countStreams m true).dropMove m.id else s.cancelMove m
  match earliest (heads ++ asides ++ place) with
  | some m => s.beginMove m
  | none => s.beginRefill

/-- MOVE_BEGIN (R201, R205 to R209, R214): a demand fetch that waited for a tracker entry or a frame first, in arrival
order (R191); `words` is what a block of schedule entries reads as now. -/
def execMoveBegin (words : List (List Nat)) (s : State) : Out :=
  if s.draining then .next s
  else match s.firstDemand, s.canDemand with
    | some m, true => .next (s.beginMove m)
    | _, _ =>
      if !s.otherEntry then .next s
      else match s.evictNow with
        | some f => .next (s.evictFrame f)
        | none => .next (s.beginOther words)

/-- MOVE_LOAD_DONE (R197, R199, R202): a promotion's data has been read. -/
def execMoveLoadDone (obj tp : Nat) (bad : List Nat) (rd : List (Nat × Nat × Bool)) (t3 : List (Nat × Line)) (sent : List Nat) (s : State) : Out :=
  match s.moveIn obj tp .load with
  | none => .next s
  | some m =>
    if m.src == MSrc.demand || s.draining then .next s
    else if s.slotDead m then .next (s.fetchFail m)
    else
      let s := (s.nandReads (s.moveCls m) rd).loadFrame m bad t3 sent
      .next (s.updMove m.id fun m => { m with st := .install })

/-- MOVE_INSTALL_DONE (R197). -/
def execMoveInstallDone (obj tp : Nat) (s : State) : Out :=
  match s.moveIn obj tp .install with
  | none => .next s
  | some m => .next (if s.draining then s else s.promoteDone m)

/-- A demotion is abandoned in UNLOAD: the page stays T1 (R194, R198). -/
def State.demoteFail (s : State) (m : Move) : State :=
  if m.orphan then s.endOrphan m
  else
    let ix := s.moveIx m
    let s := (s.setMap ix { s.mapE ix with st := .t1 }).cancelMove m
    s.pageReady m.obj m.tp

/-- MOVE_CLEAN_DONE (R193, R197, R182, R202, R233; the DMA carries ciphertext, and lines it does not name are those of
zeros): once every host copy has answered and no request is attached to a line
(R229), the page's lines are out of the cache, and the demotion ends or goes on to UNLOAD. -/
def execMoveCleanDone (obj tp : Nat) (s : State) : Out :=
  match s.moveIn obj tp .clean with
  | none => .next s
  | some m =>
    if s.draining || !s.noCopies m.frame || (!m.orphan && s.fillsOn m.frame) then .next s
    else
      let s := s.cleanFrame m.frame sc2
      if m.orphan || m.dest == PgSt.t2 then .next (s.demoteDone m)
      else
        let e := s.mapE (s.moveIx m)
        if !s.slotLive e then .next (s.demoteFail m)
        else
          let s := s.each (List.range 16) fun s k => s.probeCp m.frame k 0 []
          let ls := (s.dram.filter fun x => x.1.1 == m.frame).map fun x =>
            (x.1.2, if x.2.st == LSt.good then (s.cipherLine (1024 * m.frame + x.1.2)).toNat else sentinelLine)
          let s := (s.updMove m.id fun m => { m with st := .unload }).dreq (1024 * m.frame) 1024 false .tpe sc2
          .next ((s.send (.dmaPage e.t3Link e.t3Ld e.t3Addr ls)).send (.zeroRead e.t3Link e.t3Ld e.t3Addr))

/-- MOVE_UNLOAD_DONE (R202): the zero-length read came back, or a write failed or the LD is out of reach and the move is
abandoned (R194). -/
def execMoveUnloadDone (obj tp : Nat) (ok : Bool) (s : State) : Out :=
  match s.moveIn obj tp .unload with
  | none => .next s
  | some m => .next (if s.draining then s
    else if m.orphan || (ok && s.slotLive (s.mapE (s.moveIx m))) then s.demoteDone m else s.demoteFail m)

/-- One page of a started entry (R206, R213). -/
def State.queueEntryPage (s : State) (t : Stream) (n : Nat) (e : SEnt) (o : Obj) (tp : Nat) : State :=
  let src := MSrc.stream t.dom t.sid n
  let done := fun (s : State) => s.updStream t.dom t.sid fun t => { t with done := t.done + 1 }
  if e.demote then
    match s.wantOut e.obj o tp (demoteTo o) with
    | .already => done s
    | .cancel m => done (s.cancelMove m)
    | .attach m => s.attachMove m src
    | _ => s.queueDemote e.obj tp (demoteTo o) src t.dom e.deadline
  else
    match s.wantT1 e.obj o tp with
    | .already => done s
    | .cancel m => done (s.cancelMove m)
    | .attach m => s.attachMove m src
    | _ => s.queuePromote e.obj o tp src t.dom e.deadline

/-- STREAM_ENTRY_START (R206): the next entry of a stream whose START_US has passed is queued in tier-page
order. -/
def execStreamEntryStart (d sid : Nat) (s : State) : Out :=
  if s.draining then .next s
  else match s.tpe.streams.find? fun t => t.dom == d && t.sid == sid with
    | none => .next s
    | some t =>
      match ((List.range t.ents.length).zip t.ents).find? fun x => !x.2.started with
      | none => .next s.streamEnds
      | some (n, e) =>
        let es := ((List.range t.ents.length).zip t.ents).map fun y => if y.1 = n then { y.2 with started := true } else y.2
        let s := s.updStream d sid fun t => { t with ents := es }
        match s.own? e.obj with
        | none => .next (s.updStream d sid fun t => { t with cancelled := t.cancelled + e.pages }).streamEnds
        | some o =>
          let s := s.each (List.range e.pages) fun s i =>
            let tp := e.ofs / 65536 + i
            if tp < o.pages then s.queueEntryPage t n e o tp
            else s.updStream d sid fun t => { t with cancelled := t.cancelled + 1 }
          .next s.streamEnds

/-- TPE_CNT2_WRITE (R195). -/
def execTpeCnt2Write (s : State) : Out := .next (s.barWrite fun s => s.wr .DF_MAX_US 0)

end Sys2Proof.Machine
end

