-- ==== Sys2Proof/Machine/Cache.lean ====
section
/-! DEFINITION. The front cache's commands (09_front_cache.md): evictions and fills, way groups, slices,
lock entries, disabled ways, and the events its checkers and the cipher clusters report while a line is
served. -/

namespace Sys2Proof.Machine

/-! ### Ways and slices -/

/-- Write back and invalidate every line of a slice whose way is accepted; lines of set `bad` hold an
uncorrectable word and leave as poison (R237); the writes carry SC3 (log entry 16). -/
def State.cleanWays (s : State) (sl : Nat) (ways : Nat → Bool) (bad : Option (Nat × Nat)) : State :=
  let hit := s.fch.lines.filter fun e => e.1.1 / 4096 == sl && ways e.1.2
  s.each hit fun s e =>
    let b : Bool := match bad with
      | some (set, w) => e.1.1 % 4096 == set && e.1.2 == w
      | none => false
    (s.writeBack { e.2 with poison := e.2.poison || b } sc3).dropWay e.1

/-- Slices in use: enabled and not being disabled. -/
def State.slicesLeft (s : State) : Nat :=
  ((List.range 16).filter fun i => bit (s.rd .SLICE_EN) i && !bit (s.rd .SLICE_BUSY) i).length

/-- A way is disabled (R237); beyond 12 in a slice, the slice is (R238), or with only 8 slices left a
fatal error follows (R241). -/
def State.disableWay (s : State) (sl w : Nat) (bad : Option (Nat × Nat)) : State :=
  if bit (s.rdi .WAY_DIS sl) w then s
  else
    let s := s.cleanWays sl (· == w) bad
    let s := s.setBitOf .WAY_DIS sl w true
    let s := (s.record clsWarn 0 237 (item 7 (256 * sl + w))).alert blkFCH
    if popCount (s.rdi .WAY_DIS sl) 24 ≤ 12 || bit (s.rd .SLICE_BUSY) sl || !bit (s.rd .SLICE_EN) sl then s
    else if s.slicesLeft ≤ 8 then s.fatal blkFCH 241 (item 7 sl)
    else s.setBitOf .SLICE_BUSY 0 sl true

/-- A cipher cluster's parity mismatches (R376): it is fenced, unless it is the last active one; a block
that fails its re-runs there is stored poisoned and is a fatal error (R377). -/
def State.clusterFault (s : State) (n la : Nat) (dead : Bool) : State :=
  let act := s.rd .CLUSTER_ACTIVE
  if !bit act n then s
  else
    let s := s.count .PARITY_CNT 0 .CIP_FLAGS_CNT_OVF 0 1
    if popCount act 8 = 1 then
      if dead then (s.setDline la ⟨(s.dline la).data, .poison⟩).fatal blkCIP 377 (item 7 n) else s
    else
      let s := (s.setBitOf .CLUSTER_FAULT 0 n true).setBitOf .CLUSTER_ACTIVE 0 n false
      (s.record clsError 0 376 (item 7 n)).alert blkCIP

/-- One event of the checkers (R220, R237, R238, R376). WAY_CE_WIN_MS is measured on OP_TIME. -/
def State.sramEvent (s : State) (la : Nat) (e : SramEv) : State :=
  match e with
  | .ce sl w =>
    let s := s.count .FCH_SL_ERR_CE_CNT sl .FCH_SL_FLAGS_CNT_OVF sl 2
    let now := s.rd .OP_TIME
    let l := (((mget s.fch.wayCe (sl, w)).getD []).filter fun t => decide (now < t + s.rd .WAY_CE_WIN_MS * 25000)) ++ [now]
    let s := { s with fch := { s.fch with wayCe := mput s.fch.wayCe (sl, w) l } }
    if s.rd .WAY_CE_LIMIT ≤ l.length then s.disableWay sl w none else s
  | .ue sl w set => (s.count .FCH_SL_ERR_UE_CNT sl .FCH_SL_FLAGS_CNT_OVF sl 3).disableWay sl w (some (set, w))
  | .tag sl =>
    let s := (s.count .FCH_SL_ERR_UE_CNT sl .FCH_SL_FLAGS_CNT_OVF sl 3).setf .TAG_FATAL true
    s.fatal blkFCH 238 (item 7 sl)
  | .cluster n dead => s.clusterFault n la dead

/-- The events met while a line is served. -/
def State.sramEvents (s : State) (la : Nat) (ev : List SramEv) : State := s.each ev fun s e => s.sramEvent la e

/-- CXL_MEM_READ (R21, R171): `ev` are the checkers' events of the line's access. -/
def execCxlMemRead (link ld dpa mty tag : Nat) (ev : List SramEv) (s : State) : Out :=
  let s := if s.draining then s else s.sramEvents (s.dpaLa link ld dpa |>.getD 0) ev
  .next (s.serveHost ⟨link, ld, dpa, tag, mty, false, 0, 0, false, false, 0⟩)

/-! ### Miss registers -/

/-- The register that fills a line. -/
def State.fillMr (s : State) (la : Nat) : Option (Key × MissReg) :=
  s.fch.mrs.find? fun e => e.2.la == la && e.2.st == .fill

/-- The ladder of a line ended: its fill goes on. -/
def State.ladderEnd (s : State) (la : Nat) : State :=
  let s := { s with int := { s.int with ladders := s.int.ladders.filter fun l => l.la != la } }
  match s.fillMr la with
  | some (k, m) => s.mrFinish k m
  | none => s

/-- Put a line's ladder into the list in place of an older entry. -/
def State.setLadder (s : State) (l : Ladder) : State :=
  { s with int := { s.int with ladders := (s.int.ladders.filter fun x => x.la != l.la) ++ [l] } }

/-- The twin rung or the ladder's end (R302, R303); `rung` is the rung reached before. -/
def State.twinStep (s : State) (la : Nat) (c : LCtx) (rung : Nat) (late : Bool) : State :=
  if late || !s.twinOpen c.o then (s.ladderFail la rung 0).ladderEnd la
  else
    let ln := 1024 * c.tp + la % 1024
    match (if c.o.kind == 1 then s.ownRecord c.obj ln else none) with
    | some d => (s.twinFix la d).ladderEnd la
    | none =>
      let tag := (s.mir.fetches.map (·.1)).foldl max 0 + 1
      let s := (s.setLadder ⟨la, true, false, tag⟩).setMir fun m => { m with fetches := m.fetches ++ [(tag, (c.obj, ln))] }
      s.send (.mirCtl kFetchReq 0 tag [c.obj, ln])

/-- MISS_EVICT_QUEUED (R226, R227): the write of an evicted line enters the write queue. -/
def execMissEvictQueued (la : Nat) (ev : List SramEv) (s : State) : Out :=
  match s.fch.mrs.find? fun e => e.2.la == la && e.2.st == .evict with
  | none => .next s
  | some (k, m) =>
    if s.draining then .next s
    else
      let s := s.flushEvict la
      let s := s.sramEvents la ev
      .next (if m.reqs = [] && !s.draining then s.missQueue k.1 else s)

/-! ### Way groups (R239) -/

/-- The ways that enabled lock entries name. -/
def State.lockedWays (s : State) : Nat := s.waysOf ((List.range 16).filter fun k => s.fli .LOCK_EN k)

/-- Some way of group g is in a way mask. -/
def groupHit (ways g : Nat) : Bool := (List.range 6).any fun i => bit ways (6 * g + i)

/-- A group that an online march tests (R438). -/
def State.underMarch (s : State) (sl g : Nat) : Bool := s.bst.test == 5 && s.bst.ch == sl && s.bst.group == g

/-- One bit of a PG_REQ write: gating starts the group's clean, enabling needs INV_DONE. A group still being
cleaned is not yet gated, and a 1 for it is refused, as is every change of a group under an online march (R438). -/
def State.pgBit (s : State) (sl : Nat) (v g : Nat) : State :=
  let want := bit v g
  if want == bit (s.rdi .PG_REQ sl) g then s
  else if s.underMarch sl g then s.setf .PG_ERR true
  else if want then
    if bit (s.rdi .PG_STATE sl) g || !bit (s.rdi .INV_DONE sl) g then s.setf .PG_ERR true
    else ((s.setBitOf .INV_DONE sl g false).setBitOf .PG_REQ sl g true).setBitOf .PG_STATE sl g true
  else if groupHit s.lockedWays g then s.setf .PG_ERR true
  else (s.setBitOf .PG_REQ sl g false).setBitOf .PG_BUSY sl g true

/-- A PG_REQ write (R239); bit 0 stores 1. -/
def State.pgReq (s : State) (sl v : Nat) : State := s.each [1, 2, 3] fun s g => s.pgBit sl v g

/-- PG_REQ_WRITE (R239). -/
def execPgReqWrite (sl v : Nat) (s : State) : Out := .next (s.barWrite fun s => if 16 ≤ sl then s else s.pgReq sl v)

/-- WAY_GROUP_CLEAN_DONE (R239): the group's lines are written back and invalidated, and it is gated. -/
def execWayGroupCleanDone (sl g : Nat) (s : State) : Out :=
  if bit (s.rdi .PG_BUSY sl) g && !bit (s.rdi .PG_REQ sl) g && !s.draining then
    let s := s.cleanWays sl (fun w => w / 6 == g) none
    .next ((s.setBitOf .PG_BUSY sl g false).setBitOf .PG_STATE sl g false)
  else .next s

/-- A GRP_INV write (R239): a gated group's arrays are powered and cleared. -/
def State.grpInv (s : State) (sl v : Nat) : State :=
  s.each [1, 2, 3] fun s g =>
    if bit v g && s.underMarch sl g then s.setf .PG_ERR true
    else if bit v g && !bit (s.rdi .PG_STATE sl) g then s.setBitOf .INV_DONE sl g true else s

/-- GRP_INV (R239). -/
def execGrpInv (sl v : Nat) (s : State) : Out := .next (s.barWrite fun s => if 16 ≤ sl then s else s.grpInv sl v)

/-! ### Slices (R240) -/

/-- A SLICE_DIS_REQ write: refused whole, with PG_ERR, when fewer than 8 slices would be left. -/
def State.sliceDis (s : State) (v : Nat) : State :=
  let req := (List.range 16).filter fun i => bit v i && bit (s.rd .SLICE_EN) i && !bit (s.rd .SLICE_BUSY) i
  if req = [] then s
  else if s.slicesLeft - req.length < 8 then s.setf .PG_ERR true
  else s.each req fun s i => s.setBitOf .SLICE_BUSY 0 i true

/-- SLICE_DIS_REQ (R240). -/
def execSliceDisReq (v : Nat) (s : State) : Out := .next (s.barWrite (·.sliceDis v))

/-- DRAIN_FIXED_US for n enabled slices (Table 09.4 step 4). -/
def drainFixed (n : Nat) : Nat := 43510 + cdiv (31875 * n) 1000

/-- SLICE_FLUSH_DONE (Table 09.4 steps 2 to 4): once the slice's requests have finished, its lines are
written back, SLICE_EN clears, waiting requests are rehashed and DRAIN_FIXED_US follows. -/
def execSliceFlushDone (sl : Nat) (s : State) : Out :=
  if !bit (s.rd .SLICE_BUSY) sl || s.fch.mrs.any (fun e => e.1.1 == sl) || s.draining then .next s
  else
    let s := s.cleanWays sl (fun _ => true) none
    let s := (s.setBitOf .SLICE_EN 0 sl false).setBitOf .SLICE_BUSY 0 sl false
    let s := s.wr .DRAIN_FIXED_US (drainFixed (popCount (s.rd .SLICE_EN) 16))
    let s := s.record clsWarn 0 240 (item 7 sl)
    .next (s.rerun fun w => w.why == .slice)

/-! ### Lock entries (R231, R232) -/

/-- A written value of a register, if the write covers the field. -/
def WVals.get (w : WVals) (f : Fld) : Option Nat := (w.find? fun x => x.1 == f).map (·.2)

/-- The values written, after each field's own rule. -/
def State.putVals (s : State) (w : WVals) (i : Nat) : State := s.each w fun s x => s.wri x.1 i x.2

/-- A write to a lock entry: while LOCK_EN is 1 a change of its other fields is ignored and sets LOCK_ERR;
setting LOCK_EN needs ways, none of a gated group. -/
def State.lockWrite (s : State) (k : Nat) (w : WVals) : State :=
  let others := w.filter fun x => x.1 != .LOCK_EN
  let changes := others.any fun x => x.1.store k x.2 != s.rdi x.1 k
  if s.fli .LOCK_EN k then
    let s := s.when changes (·.setf .LOCK_ERR true)
    if WVals.get w .LOCK_EN = some 0 then s.setfi .LOCK_EN k false else s
  else
    let s := s.putVals others k
    if WVals.get w .LOCK_EN = some 1 then
      let ways := s.rdi .WAYS k * 2 ^ 16
      let gated := (List.range 16).any fun sl => [1, 2, 3].any fun g => groupHit ways g && !bit (s.rdi .PG_STATE sl) g
      if ways = 0 || gated then s.setf .LOCK_ERR true else s.setfi .LOCK_EN k true
    else s

/-- LOCK_ENTRY_WRITE (R232): a whole write of FCH_LOCK_OBJ_k, or of FCH_LOCK_RANGE_k. -/
def execLockEntryWrite (k : Nat) (range : Bool) (v : Nat) (s : State) : Out :=
  .next (s.barWrite fun s =>
    if 16 ≤ k then s
    else s.lockWrite k (if range then [(.TP_FIRST, bits v 0 32), (.TP_LAST, bits v 32 32)]
      else [(.OBJ_ID, bits v 0 32), (.WAYS, bits v 32 8), (.LOCK_EN, bits v 40 1)]))

/-! ### Peaks -/

/-- MR_USED of a slice (R243). -/
def State.mrUsed (s : State) (sl : Nat) : Nat := (s.fch.mrs.filter fun e => e.1.1 = sl).length

/-- FCH_SL_STATE_WRITE (R243). -/
def execFchSlStateWrite (sl : Nat) (s : State) : Out :=
  .next (s.barWrite fun s => if 16 ≤ sl then s else s.wri .MR_PEAK sl (s.mrUsed sl))

/-- PRT_BENCH_WRITE (R108). -/
def execPrtBenchWrite (link : Nat) (s : State) : Out :=
  .next (s.barWrite fun s => if 8 ≤ link then s else s.wri .BENCH_PEAK link (s.rdi .BENCH_USED link))

end Sys2Proof.Machine
end

