-- ==== Sys2Proof/Machine/Dram.lean ====
section
/-! DEFINITION. The DDR5 controller's commands (10_dram_controller.md): refresh, neighbour refresh,
temperature, eye tracking, sliced retrains and parity errors. Training is in Start.lean. -/

namespace Sys2Proof.Machine

/-- A channel serves: it is in the set, and its DIMMs are not in self-refresh (R259). -/
def State.chLive (s : State) (c : Nat) : Bool := bit (s.rd .CH_ACTIVE) c && !s.drc.selfRef

/-- REF_DEBT of a rank (Table 10.4). -/
def State.refDebt (s : State) (c r : Nat) : Nat := bits (s.rdi .REF_DEBT c) (4 * r) 4

/-- Store a rank's REF_DEBT. -/
def State.setDebt (s : State) (c r v : Nat) : State := s.wri .REF_DEBT c (setBits (s.rdi .REF_DEBT c) (4 * r) 4 v)

/-- REFRESH_DUE (R257): with traffic the refresh is postponed into the debt; an idle rank is refreshed and
its debt repaid. -/
def execRefreshDue (ch rank : Nat) (busy : Bool) (s : State) : Out :=
  if !s.chLive ch || s.rd .RANKS ≤ rank then .next s
  else .next (s.setDebt ch rank (if busy then min 8 (s.refDebt ch rank + 1) else 0))

/-- A refresh forced at a debt of 8 (R257). -/
def State.forceRef (s : State) (c r : Nat) : State :=
  (s.setDebt c r 7).count .REF_FORCED_CNT c .DRC_CH_FLAGS_CNT_OVF c 1

/-- FORCED_REFRESH (R257, R14): at a debt of 8. -/
def execForcedRefresh (ch rank : Nat) (s : State) : Out :=
  if !s.chLive ch || s.refDebt ch rank != 8 then .next s else .next (s.forceRef ch rank)

/-- Charge bursts of a class to a subchannel's tick (R253). -/
def State.spend (s : State) (c sub cls n : Nat) : State :=
  let l := (mget s.drc.spent (c, sub)).getD [0, 0, 0, 0]
  { s with drc := { s.drc with spent := mput s.drc.spent (c, sub) (l.set cls (l.getD cls 0 + n)) } }

/-- The time of a slice, in ns, counts against SC3 on its channel (R266, R436). -/
def State.sliceTime (s : State) (c ns : Nat) : State :=
  let n := ns * s.rd .DATA_MTS / 16000
  (s.spend c 0 sc3 n).spend c 1 sc3 n

/-- The make-up burst of a tick boundary (R257, Table 01.2 order 4). -/
def State.makeUp (s : State) : State :=
  s.each (List.range 12) fun s c =>
    if s.chLive c then s.each (List.range 4) fun s r => s.setDebt c r (min (s.refDebt c r) (s.rd .REF_DEBT_TGT)) else s

/-- Pending neighbour refreshes of a rank (R261). -/
def State.nrPending (s : State) (c r : Nat) : Nat := (mget s.drc.nr (c, r)).getD 0

/-- NEIGHBOUR_REFRESH (R260, R261): a row is sampled; its neighbours are refreshed before the next tick
boundary. A rank with 8 pending takes no ACT, so none is sampled. -/
def execNeighbourRefresh (ch rank : Nat) (s : State) : Out :=
  if !s.chLive ch || s.rd .RANKS ≤ rank || 8 ≤ s.nrPending ch rank then .next s
  else
    let s := { s with drc := { s.drc with nr := mput s.drc.nr (ch, rank) (s.nrPending ch rank + 1) } }
    .next (s.count .NR_CNT ch .DRC_CH_FLAGS_CNT_OVF ch 2)

/-- DIMM_THERMAL_POLL (R258): `temps` are the highest readings of the channel's DIMMs in °C; the ranks of a
channel are shared evenly by its DIMMs. -/
def execDimmThermalPoll (ch : Nat) (temps : List Nat) (s : State) : Out :=
  if !bit (s.rd .CH_ACTIVE) ch || temps = [] then .next s
  else
    let per := max 1 (s.rd .RANKS / temps.length)
    let s := s.wri .DIMM_TEMP_C ch (temps.foldl max 0)
    .next (s.each (List.range temps.length) fun s d =>
      let t := temps.getD d 0
      let s := s.each (List.range per) fun s i =>
        if 85 < t then s.setBitOf .HOT ch (per * d + i) true
        else if t < 83 then s.setBitOf .HOT ch (per * d + i) false else s
      let key := 2 * ch + d
      if 95 < t then
        if s.drc.hotDimm.contains key then s
        else
          let s := { s with drc := { s.drc with hotDimm := s.drc.hotDimm ++ [key] } }
          ((s.setfi .HOT_ALERT ch true).record clsWarn 0 258 (item 4 ch ++ item 7 d)).alert blkDRC
      else { s with drc := { s.drc with hotDimm := without s.drc.hotDimm key } })

/-! ### Eye tracking -/

/-- The index of a strobe lane's register. -/
def laneIx (ch lane : Nat) : Nat := 20 * ch + lane

/-- An 8-bit two's complement field as a number. -/
def sgn8 (v : Nat) : Int := if v < 128 then (v : Int) else (v : Int) - 256

/-- A sliced retrain of a lane is requested (R266). -/
def State.askRetrain (s : State) (ch lane : Nat) : State :=
  if s.fli .RETRAIN_BUSY (laneIx ch lane) then s
  else { s.setfi .RETRAIN_BUSY (laneIx ch lane) true with drc := { s.drc with slices := mput s.drc.slices (ch, lane) 0 } }

/-- Store a lane offset; beyond 8 bits in two's complement the spec states no value, and it is free (log
entry 6). -/
def State.putOfs (s : State) (f : Fld) (i : Nat) (v : Int) : State :=
  if v < -128 ∨ 127 < v then (s.wri f i s.freeVal).freeNext else s.wri f i ((v % 256).toNat)

/-- READ_EYE_WINDOW (R264): the counts E and T of a lane's window. -/
def execReadEyeWindow (ch lane e t : Nat) (s : State) : Out :=
  if !s.chLive ch || 20 ≤ lane then .next s
  else
    let i := laneIx ch lane
    let o := sgn8 (s.rdi .RD_OFS i)
    let d : Int := if 2 * t + 16 < e then 1 else if 2 * e + 16 < t then -1 else 0
    let s := if d = 0 then s else (s.putOfs .RD_OFS i (o + d)).count .RD_ADJ_CNT ch .DRC_CH_FLAGS_CNT_OVF ch 4
    .next (if s.rd .RD_LIMIT < (sgn8 (s.rdi .RD_OFS i)).natAbs then (s.setfi .LIMIT_HIT ch true).askRetrain ch lane else s)

/-- WRITE_TRACKING_SLICE (R265, R266): `drift` gives per lane the drift from its baseline in steps. The slice
does not start with a debt of 7 or more or a neighbour refresh pending on the rank. -/
def execWriteTrackingSlice (ch rank : Nat) (drift : List (Nat × Int)) (s : State) : Out :=
  if !s.chLive ch || s.rd .RANKS ≤ rank || 7 ≤ s.refDebt ch rank || s.nrPending ch rank != 0 || s.draining then .next s
  else .next ((s.sliceTime ch (s.rd .WR_SLICE_NS)).each drift fun s x =>
    if 20 ≤ x.1 then s
    else
      let i := laneIx ch x.1
      let o := sgn8 (s.rdi .WR_OFS i)
      let n := if o < x.2 then min x.2 (o + 2) else max x.2 (o - 2)
      let s := if n = o then s else (s.putOfs .WR_OFS i n).count .WR_ADJ_CNT ch .DRC_CH_FLAGS_CNT_OVF ch 5
      if s.rd .WR_LIMIT < x.2.natAbs then (s.setfi .LIMIT_HIT ch true).askRetrain ch x.1 else s)

/-- RETRAIN (R266). -/
def execRetrain (ch lane : Nat) (s : State) : Out :=
  .next (s.barWrite fun s => if 12 ≤ ch || 20 ≤ lane || !s.chLive ch then s else s.askRetrain ch lane)

/-- What one slice of a lane's retrain found: RD_CENTRE, VREF_RD and WR_CENTRE by the step it repeats, and a line of the
row it trains in. -/
abbrev LaneRes := Nat × Nat × Nat × Nat

/-- The rank that the channel's sliced retrain trains in: that of the row saved, before the first slice that of the row given
with the lane's results (R266). -/
def State.sliceRank (s : State) (ch : Nat) (res : LaneRes) : Nat :=
  (s.locate ((mget s.drc.rowBuf (ch, 0)).getD res.2.2.2)).rank

/-- One slice of the channel's sliced retrain at a tick boundary (R266): the three slices repeat steps 5, 6
and 7 of Table 10.2; the first takes the row buffer and saves the row, the last restores it. `res` are the
lane's training results. -/
def State.retrainSlice (s : State) (ch : Nat) (res : LaneRes) : State :=
  let due := s.drc.slices.find? fun e => e.1.1 == ch
  match due with
  | none => s
  | some ((_, lane), n) =>
    let r := s.sliceRank ch res
    if 7 ≤ s.refDebt ch r ∨ s.nrPending ch r ≠ 0 ∨ !s.chLive ch ∨ (n = 0 ∧ (s.locate res.2.2.2).ch != ch) then s
    else
      let i := laneIx ch lane
      let s := s.sliceTime ch (s.rd .WR_SLICE_NS)
      if n = 0 then
        let s := (s.wri .RD_CENTRE i res.1).wri .VREF_RD i res.2.1
        { s with drc := { s.drc with rowBuf := mput s.drc.rowBuf (ch, 0) res.2.2.2, slices := mput s.drc.slices (ch, lane) 1 } }
      else if n = 1 then
        { s.wri .WR_CENTRE i res.2.2.1 with drc := { s.drc with slices := mput s.drc.slices (ch, lane) 2 } }
      else
        { s.setfi .RETRAIN_BUSY i false with drc := { s.drc with
          rowBuf := mdel s.drc.rowBuf (ch, 0), slices := mdel s.drc.slices (ch, lane) } }

/-! ### Parity errors -/

/-- CA_PARITY_ALERT (R268, R269): up to three retries of one error; a fourth alert within 1 ms of the first
(25,000 units of OP_TIME) fails the channel, which is a fatal device error. -/
def execCaParityAlert (ch sub : Nat) (s : State) : Out :=
  if !s.chLive ch || 2 ≤ sub || bit (s.rd .CH_FAIL) ch then .next s
  else
    let now := s.rd .OP_TIME
    let old := (mget s.drc.ca (ch, sub)).getD (now, 0)
    let cur := if old.1 + 25000 < now then (now, 0) else old
    if cur.2 < 3 then
      let s := { s with drc := { s.drc with ca := mput s.drc.ca (ch, sub) (cur.1, cur.2 + 1) } }
      .next (s.count .CA_PAR_CNT ch .DRC_CH_FLAGS_CNT_OVF ch 3)
    else .next ((s.setBitOf .CH_FAIL 0 ch true).fatal blkDRC 269 (item 4 ch))

end Sys2Proof.Machine
end

