-- ==== Sys2Proof/Machine/DramQ.lean ====
section
/-! DEFINITION. The DRAM queues (10_dram_controller.md R251 to R256): entries, insertion, promotion, the choice at a
command slot and batches. They are brought up to date at the tick boundary, slot by slot (log entry 15). -/

namespace Sys2Proof.Machine

/-- Entries of a channel's queue (R251). -/
def queueSize : Nat := 128

/-- Queued requests of a channel, writes or reads. -/
def State.queued (s : State) (c : Nat) (wr : Bool) : List DReq :=
  s.drc.queue.filter fun q => q.wr == wr && (s.locate q.la).ch == c

/-- A request may take an entry of its channel (R251): SC0_RSV entries of a queue are for SC0 alone. -/
def State.mayEnter (s : State) (q : DReq) : Bool :=
  let l := s.queued (s.locate q.la).ch q.wr
  decide (l.length < queueSize)
    && (q.cls == sc0 || decide ((l.filter fun x => x.cls != sc0).length < queueSize - s.rd .SC0_RSV))

/-- The lines of a request that find entries are inserted at time `now`; what is left waits at the fabric (R251). -/
def State.admitLines (now : Nat) : Nat → State → DReq → State × Option DReq
  | 0, s, _ => (s, none)
  | k + 1, s, q =>
    if s.mayEnter q then
      let s := { s with drc := { s.drc with queue := s.drc.queue ++ [{ q with n := 1, at' := now, old := false }] } }
      State.admitLines now k s { q with la := q.la + 1, n := q.n - 1 }
    else (s, some q)

/-- A waiting request holds back a later one of its source: of its class, or of one of its lines (R251, R252). -/
def DReq.holds (x q : DReq) : Bool :=
  x.tag == q.tag && (x.cls == q.cls || (decide (x.la < q.la + q.n) && decide (q.la < x.la + x.n)))

/-- The requests at the fabric take entries, oldest first. -/
def State.admitAll (s : State) (now : Nat) : State :=
  let r := s.drc.fabric.foldl (fun (x : State × List DReq) q =>
    if x.2.any (·.holds q) then (x.1, x.2 ++ [q])
    else
      let a := State.admitLines now q.n x.1 q
      (a.1, x.2 ++ a.2.toList)) (s, [])
  { r.1 with drc := { r.1.drc with fabric := r.2 } }

/-- The age limit of a class in ns (R254). -/
def State.ageLimit (s : State) (cls : Nat) : Nat :=
  match cls with
  | 0 => s.rd .AGE_SC0_NS
  | 1 => s.rd .AGE_SC1_NS
  | 2 => s.rd .AGE_SC2_NS
  | _ => s.rd .AGE_SC3_NS

/-- Requests older than their class's limit are promoted and counted (R254). -/
def State.promote (s : State) (now : Nat) : State :=
  let due := fun (q : DReq) => !q.old && decide (s.ageLimit q.cls < now - q.at')
  let s' := s.each (s.drc.queue.filter due) fun t q =>
    let c := (s.locate q.la).ch
    t.count .PROMOTE_CNT c .DRC_CH_FLAGS_CNT_OVF c 0
  { s' with drc := { s'.drc with queue := s'.drc.queue.map fun q => if due q then { q with old := true } else q } }

/-- The queued requests of a subchannel that may issue at a slot: ready, not fenced (R437), and first among the queued
of their tag and line (R252). -/
def State.readyAt (s : State) (x : DSlot) : List DReq :=
  s.drc.queue.filter fun q =>
    let l := s.locate q.la
    l.ch == x.ch && l.sub == x.sub && !s.rowFenced q.la
      && x.ready.any (fun y => y.la == q.la && y.wr == q.wr)
      && (s.drc.queue.find? fun p => p.tag == q.tag && p.la == q.la) == some q

/-- The batch direction at a slot, true for writes (R255). -/
def State.batchDir (s : State) (x : DSlot) (r : List DReq) : Bool :=
  let w := r.any (·.wr)
  let n := (s.queued x.ch true).length
  if w && r.all (·.wr) then true
  else if !w then false
  else if s.drc.wrBatch.contains (x.ch, x.sub) then decide (s.rd .WQ_LO < n) else decide (s.rd .WQ_HI ≤ n)

/-- The order of R254 as a number: budget left first, then the lower class, then the row hit. -/
def State.slotKeyOf (s : State) (x : DSlot) (q : DReq) : Nat :=
  let used := ((mget s.drc.spent (x.ch, x.sub)).getD []).getD q.cls 0
  (if used < s.drc.bud.getD q.cls 0 then 0 else 8) + 2 * q.cls
    + (if x.ready.any fun y => y.la == q.la && y.wr == q.wr && y.hit then 0 else 1)

/-- The best of some requests, the older of equals (R254). -/
def State.bestOf (s : State) (x : DSlot) (l : List DReq) : Option DReq :=
  l.foldl (fun (b : Option DReq) q => match b with
    | none => some q
    | some p => if s.slotKeyOf x q < s.slotKeyOf x p then some q else some p) none

/-- The request chosen at a slot (R254): in a drain by age alone (R256). -/
def State.slotPick (s : State) (x : DSlot) : Option DReq :=
  let r := s.readyAt x
  if s.draining then r.head?
  else match r.find? (·.old) with
    | some q => some q
    | none => s.bestOf x (r.filter (·.wr == s.batchDir x r))

/-- A request's direction is its subchannel's batch now (R255). -/
def State.setBatch (s : State) (c sub : Nat) (wr : Bool) : State :=
  let l := s.drc.wrBatch.filter (· != (c, sub))
  { s with drc := { s.drc with wrBatch := if wr then l ++ [(c, sub)] else l } }

/-- One command slot (R254): a forced refresh, a neighbour refresh, or the next command of the request chosen, whose
column command ends it and charges its class (R253). -/
def State.dramSlot (s : State) (x : DSlot) : State :=
  if !s.chLive x.ch then s
  else match (List.range 4).find? fun r => s.refDebt x.ch r == 8 with
    | some r => s.forceRef x.ch r
    | none => match (List.range 4).find? fun r => s.nrPending x.ch r != 0 with
      | some r => { s with drc := { s.drc with nr := mput s.drc.nr (x.ch, r) (s.nrPending x.ch r - 1) } }
      | none =>
        let now := 40 * s.rd .OP_TIME + x.ofs
        let s := s.promote now
        match s.slotPick x with
        | none => s
        | some q =>
          let s := s.setBatch x.ch x.sub q.wr
          if x.ready.any fun y => y.la == q.la && y.wr == q.wr && y.col then
            State.admitAll (State.spend { s with drc := { s.drc with queue := s.drc.queue.erase q } } x.ch x.sub q.cls 1) now
          else s

/-- RQ_USED and WQ_USED follow the queues. -/
def State.queueRegs (s : State) : State :=
  s.each (List.range 12) fun s c =>
    (s.wri .RQ_USED c (s.queued c false).length).wri .WQ_USED c (s.queued c true).length

/-- The queues over the tick that ends: requests are inserted, the slots of the tick are served, and ages are judged at
its end. -/
def State.dramTick (s : State) (slots : List DSlot) : State :=
  let t := 40 * s.rd .OP_TIME
  let s := (s.admitAll t).each slots State.dramSlot
  (s.promote (t + 40 * s.glb.period)).queueRegs

/-- Every write at the fabric or in a queue is issued (R256). -/
def State.issueWrites (s : State) : State :=
  { s with drc := { s.drc with fabric := s.drc.fabric.filter (!·.wr), queue := s.drc.queue.filter (!·.wr) } }.queueRegs

end Sys2Proof.Machine
end

