-- ==== Sys2Proof/Machine/Nand.lean ====
section
/-! DEFINITION. The flash backing and the settlement engine (11_flash_backing.md): stripe settles,
re-homing, garbage collection, block and channel retirement, carriers and rebuild. -/

namespace Sys2Proof.Machine

/-! ### Channels -/

/-- The channels of stripe group g: F(18g) to F(18g + 17) (R200). -/
def groupChans (g : Nat) : List Nat := (List.range 18).map (18 * g + ·)

/-- Channels of a group that are not online. -/
def State.groupDown (s : State) (g : Nat) : Nat := ((groupChans g).filter fun c => !s.chOnline c).length

/-- The channel of member m of a home's stripe (R200). -/
def memberChan (home m : Nat) : Nat := 18 * homeGroup home + (m + homeStripe home) % 18

/-- Set a channel's state and what follows it: CH_ONLINE, DEGRADED_g and the vault's figures (R284). -/
def State.chanState (s : State) (c st : Nat) : State :=
  let s := (s.wri .CH_STATE c st).setBitOf .CH_ONLINE 0 c (st == 1)
  let s := s.setf (if c < 18 then .DEGRADED_0 else .DEGRADED_1) (decide (0 < s.groupDown (c / 18)))
  s.vaultRegs

/-- A rehearsal begins (R70): the 64 MiB scratch area is read at SC0. -/
def State.rehearse (s : State) : State :=
  State.dreq { s with fgv := { s.fgv with rehearsal := true, vcalDue := false } } (partBase 8 / 64) (2 ^ 20) false .tpe sc0

/-- On the path without metadata an empty ledger and map are written once the media are ready and DRAM is trained
(Table 19.5): what the carriers held belongs to no object, and the rehearsal runs (R71). -/
def State.freshMeta (s : State) : State :=
  if s.boot.metaDone || !s.fl .TRAIN_DONE || !s.fl .MEDIA_READY || s.rd .PATH ≠ 0 then s
  else
    State.rehearse { s with
             boot := { s.boot with hasMeta := true, metaDone := true, floor := 0, consumed := 0, lost := [] }
             nfc := { s.nfc with homes := [], vault := [], vaultNew := [], seals := [], rebuilt := [], shadow := [], index := [] }
             int := { s.int with repair := [] }, saved := savedNone, tpe := { s.tpe with ckpt := [] } }

/-- MEDIA_READY sets once each group has at most 2 channels not online (R289). -/
def State.mediaReady (s : State) : State :=
  if s.groupDown 0 ≤ 2 ∧ s.groupDown 1 ≤ 2 then (s.setf .MEDIA_READY true).freshMeta else s

/-- A channel changes its state in service: it is recorded in the NAND metadata (R287). -/
def State.setChan (s : State) (c st : Nat) : State :=
  let s := s.chanState c st
  ({ s with nfc := { s.nfc with recState := mput s.nfc.recState (c, 0) st } }).mediaReady

/-- The homes of a group that were ever programmed. -/
def State.homesOf (s : State) (g : Nat) : List Nat :=
  ((s.nfc.homes.map (·.1.1)).filter fun h => homeGroup h == g).eraseDups

/-- REBUILD_LEFT of a channel from the page map (R288, R293). -/
def State.rebuildLeft (s : State) (c : Nat) : State :=
  s.wri .REBUILD_LEFT c (((s.homesOf (c / 18)).filter fun h => (mget s.nfc.rebuilt (c, h)).isNone).length)

/-- Program a home's member on a rebuilding channel (R282, R288). -/
def State.rebuildMember (s : State) (c home : Nat) : State :=
  if s.rdi .CH_STATE c != 3 || (mget s.nfc.rebuilt (c, home)).isSome then s
  else { s with nfc := { s.nfc with rebuilt := mput s.nfc.rebuilt (c, home) true } }.rebuildLeft c

/-- CAP_TP and CAP_SHORT (R290): D[c] as recorded; a channel that was never online is left out. -/
def State.capTp (s : State) : State :=
  let sg := fun (g : Nat) =>
    match ((groupChans g).filterMap fun c => mget s.nfc.dataBlk (c, 0)).min? with
    | some d => d * 6144 * s.nfc.usePm / 1000
    | none => 0
  let s := s.wr .CAP_TP (min 1610612736 (sg 0 + sg 1))
  let short : Bool := decide (s.rd .CAP_TP < s.rd .RESERVED_TP)
  let was := s.fl .CAP_SHORT
  let s := s.setf .CAP_SHORT short
  if short && !was then s.record clsWarn 0 290 [] else s

/-- A block of a channel is retired (R286). -/
def State.badBlock (s : State) (c : Nat) : State :=
  let s := s.wri .BAD_BLK c (s.rdi .BAD_BLK c + 1)
  match mget s.nfc.dataBlk (c, 0) with
  | some d => { s with nfc := { s.nfc with dataBlk := mput s.nfc.dataBlk (c, 0) (d - 1) } }
  | none => s

/-! ### Settling -/

/-- The metadata key of a settle: a journal page or a solo-map page (R41, Table 03.1). -/
def isMetaKey (k : Key) : Bool := decide (2 ^ 30 ≤ k.1)

/-- The solo-map bits of solo page p. -/
def State.soloBits (s : State) (p : Nat) : List Key :=
  (s.mir.solo.filter fun e => soloKey ((((s.obj? e.1.1).map (·.mapBase)).getD 0 + e.1.2) / 32768) == soloKey p).map (·.1)

/-- Put a settle among those in progress. -/
def State.addJob (s : State) (j : Settle) : State :=
  let s := { s with stl := { s.stl with jobs := s.stl.jobs ++ [j] } }
  s.wr .SETTLES_ACTIVE s.stl.jobs.length

/-- Remove a settle. -/
def State.dropJob (s : State) (j : Settle) : State :=
  let s := { s with stl := { s.stl with jobs := s.stl.jobs.erase j } }
  s.wr .SETTLES_ACTIVE s.stl.jobs.length

/-- Steps 1 to 3 of Table 11.2 for tier page tp of an object in frame f; with `rehome` the settle set is
the code pages at 0b11, at SC3 (R283). `bad` are line addresses that fail the ladder, `progs` its programs. -/
def State.startSettle (s : State) (f : Nat) (x : Frame) (o : Obj) (rehome : Bool) (bad : List Nat) (progs : List NProg) : State :=
  let cls := if rehome then sc3 else sc0
  let ix := o.mapBase + x.tp
  let e := s.mapE ix
  let fresh := (List.range 16).all fun k => (mget s.nfc.homes (e.home, k)).isNone
  let chg := if rehome then [] else (List.range 16).filter fun k => e.cpSt k == 1
  let S := if rehome then (List.range 16).filter fun k => e.cpSt k == 3
    else if fresh then List.range 16 else (List.range 16).filter fun k => e.cpSt k == 1 || e.cpSt k == 3
  let s := s.wr .SETTLE_SEQ (s.rd .SETTLE_SEQ + 1)
  let s := s.each chg fun s k => (s.settleSnoop f k cls).setMap ix ((s.mapE ix).setCp k 2)
  let s := s.dreq (1024 * f) 1024 false .stl cls
  let s := s.each (List.range 16) fun s k => s.probeCp f k 0 bad
  let img := S.map fun k => (k, sentinelLines (s.cpLines f k) [])
  s.addJob ⟨(f, 0), x.obj, x.tp, e.home, S, chg, img, 0, [], progs, cls⟩

/-- The oldest charged code page that no settle in progress covers and that a settle can take now. -/
def State.settleNext (s : State) : Option Key :=
  s.stl.chq.find? fun k =>
    if isMetaKey k then !(s.stl.jobs.any fun j => j.key == k)
    else !(s.stl.jobs.any fun j => j.key.1 == k.1) && (match s.frame? k.1 with
      | some x => x.use != 2 && (match s.obj? x.obj with
        | some o => (s.mapE (o.mapBase + x.tp)).frame == k.1 && (s.mapE (o.mapBase + x.tp)).st == .t1
        | none => false)
      | none => false)

/-- A channel's programs open their erased blocks. -/
def State.openBlocks (s : State) (ps : List NProg) : State :=
  s.each (ps.filter (·.opens)) fun s p => s.wri .FREE_BLK p.ch (s.rdi .FREE_BLK p.ch - 1)

/-- The programs of a settle (R280): on a channel below GC_LO_BLK free blocks they wait (R279). -/
def State.settleProgs (s : State) (progs : List (Nat × Nat × Bool)) : List NProg :=
  (progs.filter fun x => decide (x.1 < 36)).map fun x =>
    ⟨x.1, x.2.1, 0, x.2.2, decide (s.rdi .FREE_BLK x.1 < s.rd .GC_LO_BLK)⟩

/-- STRIPE_SETTLE_START (R281 steps 1 to 4, R300, R282): `bad` are line addresses that fail the ladder,
`progs` its programs as channel, die and whether an erased block is opened (R280). -/
def execStripeSettleStart (bad : List Nat) (progs : List (Nat × Nat × Bool)) (s : State) : Out :=
  if s.draining || s.fgv.rehearsal || s.rd .SETTLE_MAX ≤ s.stl.jobs.length || 65536 ≤ s.int.recode.length then .next s
  else match s.settleNext with
    | none => .next s
    | some k =>
      let ps := s.settleProgs progs
      let s := s.openBlocks (ps.filter (!·.held))
      if isMetaKey k then
        let s := s.wr .SETTLE_SEQ (s.rd .SETTLE_SEQ + 1)
        .next (s.addJob ⟨k, 0, 0, 0, [], [], [], s.jr.log.length, if k.1 = 2 ^ 30 then [] else s.soloBits k.2, ps, sc0⟩)
      else match s.frame? k.1 with
        | none => .next s
        | some x => match s.obj? x.obj with
          | none => .next s
          | some o => .next (s.startSettle k.1 x o false bad ps)

/-- Journal page p holds the place of an entry whose charge is admitted (R143). -/
def State.jHolds (s : State) (p : Nat) : Bool :=
  s.jHeld != 0 && decide (s.jr.log.length / 64 ≤ p) && decide (p ≤ (s.jr.log.length + s.jHeld - 1) / 64)

/-- Release a settled journal page; with no charged page left the settled metadata is the present one, and what the
settled entries gave up is forgotten (R58). -/
def State.jRelease (s : State) (p : Nat) : State :=
  let s := s.releaseKey 0 (jKey p)
  let s := { s with jr := { s.jr with charged := without s.jr.charged p } }
  if s.jr.charged = [] then { s with jr := { s.jr with base := s.md, log := [] }, nfc := { s.nfc with shadow := [] } }
  else s.shadowTrim

/-- A journal page settled: when no entry was added meanwhile and none is admitted for it (R143) its charge is
released. The calibrations and numbers beside the journal settle with it
(R80, R347). What a settled SSN reservation allows goes on (R327, R41). -/
def State.journalSettled (s : State) (j : Settle) : State :=
  let p := j.key.2
  let same : Bool := min (64 * p + 64) s.jr.log.length == min (64 * p + 64) j.mark
  let s := s.dropJob j
  if !same then s.count .REDIRTY_CNT 0 .STL_FLAGS_CNT_OVF 0 1
  else
    let s := if s.jHolds p then s else s.jRelease p
    let n := s.jr.prefixMeta.ssnEnd
    let s := s.saveMeta s.saved.journal s.saved.solo
    (s.setMir fun m => { m with ssnBlockSettled := max m.ssnBlockSettled n }).mirRoom

/-- A solo-map page settled: the stored solo map takes its bits, and its charge is released unless bits
changed meanwhile. -/
def State.soloSettled (s : State) (j : Settle) : State :=
  let p := j.key.2
  let keep := s.saved.solo.filter fun e => !(j.solo.contains e.1) &&
    ((((s.obj? e.1.1).map (·.mapBase)).getD 0 + e.1.2) / 32768 != p)
  let s := { s with saved := { s.saved with solo := j.solo.foldl (fun m k => mput m k false) keep, soloDoms := s.mir.soloDoms } }
  let same : Bool := s.soloBits p == j.solo
  let s := s.dropJob j
  if same then s.releaseKey 0 j.key else s.count .REDIRTY_CNT 0 .STL_FLAGS_CNT_OVF 0 1

/-- Step 5 of Table 11.2 for a tier page: the page map takes the programmed members; members on channels
that are not online are absent or, on a rebuilding one, rebuilt; then each code page of S, whose older vault content is superseded (R56). A store that
waits for its line keeps its code page charged (R22, R224). -/
def State.pageSettled (s : State) (j : Settle) : State :=
  let s := s.dropJob j
  match s.obj? j.obj with
  | none => s
  | some o =>
    let ix := o.mapBase + j.tp
    let e := s.mapE ix
    if e.home ≠ j.home ∨ e.home = 0 ∨ o.pages ≤ j.tp then s
    else
      let s := { s with nfc := { s.nfc with homes := j.img.foldl (fun (m : SMap (List (Nat × DLine))) (x : Nat × List (Nat × DLine)) => mput m (j.home, x.1) x.2) s.nfc.homes } }
      let s := s.each (j.cps ++ [16, 17]) fun s m => s.rebuildMember (memberChan j.home m) j.home
      let s := s.each j.cps fun s k =>
        let st := (s.mapE ix).cpSt k
        let f := (s.mapE ix).frame
        let s := { s with nfc := { s.nfc with vault := mdel s.nfc.vault (j.obj, 16 * j.tp + k) } }
        if st = 2 && s.storePending f k then (s.redirty ix k).count .REDIRTY_CNT 0 .STL_FLAGS_CNT_OVF 0 1
        else if st = 2 then
          let s := s.releaseCp ix k 0
          { s with int := { s.int with recode := s.int.recode ++ [(f, k)] } }
        else if st = 3 then
          let s := s.setMap ix ((s.mapE ix).setCp k 0)
          let e' : MapE := s.mapE ix
          if e'.st = .t1 then { s with int := { s.int with recode := s.int.recode ++ [(f, k)] } } else s
        else if j.chg.contains k then s.count .REDIRTY_CNT 0 .STL_FLAGS_CNT_OVF 0 1 else s
      let s := s.wr .RECODE_LEFT s.int.recode.length
      s.rehomeCount.vaultRegs

/-- STRIPE_SETTLE_DONE (R281 step 5, R22, R278): every program of the settle with this key succeeded; none can while one
still waits for free blocks (R279). -/
def execStripeSettleDone (frame p : Nat) (s : State) : Out :=
  match s.stl.jobs.find? fun j => j.key == (frame, p) with
  | none => .next s
  | some j =>
    if s.draining || j.progs.any (·.held) then .next s
    else
      let s := s.count .SETTLE_CNT 0 .STL_FLAGS_CNT_OVF 0 0
      .next (if j.key.1 = 2 ^ 30 then s.journalSettled j
        else if isMetaKey j.key then s.soloSettled j else s.pageSettled j)

/-- A settle is abandoned (R282): its SETTLING pages are charged again at their original age. -/
def State.abandonSettle (s : State) (j : Settle) : State :=
  let s := s.dropJob j
  match s.obj? j.obj with
  | none => s
  | some o =>
    let ix := o.mapBase + j.tp
    s.each j.chg fun s k => if (s.mapE ix).cpSt k = 2 then s.setMap ix ((s.mapE ix).setCp k 1) else s

/-- NAND_PROGRAM_FAIL (R282, R285, R286): the block is retired; the settle whose program it was, named by its
key, is abandoned. In a drain the vault member goes to the channel's next vault block. -/
def execNandProgramFail (ch : Nat) (settle : Option (Nat × Nat)) (s : State) : Out :=
  if 36 ≤ ch then .next s
  else
    let s := (s.count .PROG_FAIL_CNT ch .NFC_CH_FLAGS_CNT_OVF ch 2).badBlock ch
    .next (match settle.bind fun k => s.stl.jobs.find? fun j => j.key == k with
      | some j => s.abandonSettle j
      | none => s)

/-- NAND_ERASE_FAIL (R286). -/
def execNandEraseFail (ch : Nat) (s : State) : Out :=
  if 36 ≤ ch then .next s
  else .next ((s.count .ERASE_FAIL_CNT ch .NFC_CH_FLAGS_CNT_OVF ch 3).badBlock ch)

/-- REHOME (R283): a page with vaulted code pages goes home: at once when it is in no frame, by a stripe
settle when it is in a frame without a charged code page. `bad` are code pages that cannot be read, or, for a
frame, line addresses that fail the ladder. -/
def execRehome (obj tp : Nat) (bad : List Nat) (s : State) : Out :=
  match s.obj? obj with
  | none => .next s
  | some o =>
    let ix := o.mapBase + tp
    let e := s.mapE ix
    let vs := (List.range 16).filter fun k => e.cpSt k == 3
    if s.draining || s.fgv.rehearsal || vs.isEmpty || o.pages ≤ tp || s.rd .MEDIA_READY = 0 then .next s
    else if e.st = .t2 ∧ (s.moveOf obj tp).isNone then
      let go := vs.filter fun k => !bad.contains k
      let s := s.wr .SETTLE_SEQ (s.rd .SETTLE_SEQ + 1)
      let s := s.each go fun s k =>
        let ls := (mget s.nfc.vault (obj, 16 * tp + k)).getD []
        let s := { s with nfc := { s.nfc with homes := mput s.nfc.homes (e.home, k) ls
                                              vault := mdel s.nfc.vault (obj, 16 * tp + k) } }
        s.setMap ix ((s.mapE ix).setCp k 0)
      let s := s.each (go ++ [16, 17]) fun s m => s.rebuildMember (memberChan e.home m) e.home
      .next s.rehomeCount.vaultRegs
    else if e.st = .t1 ∧ !((List.range 16).any fun k => e.cpSt k == 1 || e.cpSt k == 2)
        ∧ !(s.stl.jobs.any fun j => j.key.1 == e.frame) ∧ s.stl.jobs.length < s.rd .SETTLE_MAX ∧ s.int.recode.length < 65536 then
      match s.frame? e.frame with
      | some x => .next (s.startSettle e.frame x o true bad [])
      | none => .next s
    else .next s

/-! ### Wear and retirement -/

/-- With GC_LO_BLK free blocks again, the settle programs that waited on the channel go on (R279). -/
def State.progsGo (s : State) (ch : Nat) : State :=
  if s.rdi .FREE_BLK ch < s.rd .GC_LO_BLK then s
  else
    let mine := fun (p : NProg) => p.ch == ch && p.held
    let ps := s.stl.jobs.flatMap fun (j : Settle) => j.progs.filter mine
    let s := { s with stl := { s.stl with jobs := s.stl.jobs.map fun (j : Settle) =>
      { j with progs := j.progs.map fun (p : NProg) => if mine p then { p with held := false } else p } } }
    s.openBlocks ps

/-- GARBAGE_COLLECTION (R279, R286): below GC_HI_BLK a victim's `valid` chunks move under new SETTLE_SEQs and
its block is erased; `avg` and `top` are the channel's program/erase figures then. -/
def execGarbageCollection (ch valid avg top : Nat) (s : State) : Out :=
  if 36 ≤ ch || !(s.rdi .CH_STATE ch == 1 || s.rdi .CH_STATE ch == 3) || s.rd .GC_HI_BLK ≤ s.rdi .FREE_BLK ch then .next s
  else
    let s := s.wr .SETTLE_SEQ (s.rd .SETTLE_SEQ + valid)
    let s := (((s.wri .FREE_BLK ch (s.rdi .FREE_BLK ch + 1)).progsGo ch).wri .PE_AVG ch avg).wri .PE_MAX ch top
    let r := s.rdi .PE_RATED ch
    let w := if r = 0 then s.rdi .WEAR_PM ch else min 1023 (s.rdi .PE_AVG ch * 1000 / r)
    let was := s.rdi .WEAR_PM ch
    let s := s.wri .WEAR_PM ch w
    .next (if was < 900 ∧ 900 ≤ w then
      ((s.setfi .WEAR_WARN ch true).record clsWarn 0 286 (item 4 ch)).alert blkNFC else s)

/-- A channel is retired (R287): its members become absent. -/
def State.retireChan (s : State) (c : Nat) : State :=
  ((s.setChan c 2).record clsError 0 287 (item 4 c)).alert blkNFC

/-- A channel can be retired: it is online or rebuilding. -/
def State.chanWorks (s : State) (c : Nat) : Bool := s.rdi .CH_STATE c == 1 || s.rdi .CH_STATE c == 3

/-- CHANNEL_RETIRE (R287): by the hardware itself, never refused. -/
def execChannelRetire (ch : Nat) (s : State) : Out :=
  .next (if ch < 36 && s.chanWorks ch then s.retireChan ch else s)

/-- Retiring these channels would leave a group with more than 2 not online (R287). -/
def State.retireTooMany (s : State) (cs : List Nat) : Bool :=
  [0, 1].any fun g => decide (2 < s.groupDown g + (cs.filter fun c => c / 18 == g && s.chOnline c).length)

/-- A RETIRE write. -/
def State.retireWrite (s : State) (c : Nat) : State :=
  if !s.chanWorks c then s
  else if s.retireTooMany [c] then s.setf .RETIRE_REFUSED true else s.retireChan c

/-- RETIRE (R287). -/
def execRetire (ch : Nat) (s : State) : Out := .next (s.barWrite fun s => if 36 ≤ ch then s else s.retireWrite ch)

/-- A settle programs one of these channels: by the members of its set and its parity, or by its named programs. -/
def Settle.programs (j : Settle) (cs : List Nat) : Bool :=
  if isMetaKey j.key then j.progs.any fun p => cs.contains p.ch
  else (j.cps ++ [16, 17]).any fun m => cs.contains (memberChan j.home m)

/-- A RETIRE_SLOT write (Table 11.3 step 1): both channels are retired, and the settles that program them abandoned. -/
def State.retireSlot (s : State) (i : Nat) : State :=
  let cs := [i, 18 + i].filter s.chanWorks
  if cs = [] then s
  else if s.retireTooMany cs then s.setf .RETIRE_REFUSED true
  else
    let s := s.each (s.stl.jobs.filter (·.programs cs)) State.abandonSettle
    s.each cs State.retireChan

/-- RETIRE_SLOT (R288). -/
def execRetireSlot (slot : Nat) (s : State) : Out := .next (s.barWrite fun s => if 18 ≤ slot then s else s.retireSlot slot)

/-! ### Carriers -/

/-- A SLOT_PWR write (R288): FC_PWR_EN_i and PWR_ON follow. -/
def State.slotPwr (s : State) (i : Nat) (v : Bool) : State :=
  let s := if s.fli .SLOT_PWR i == v then s else s.send (.pin ("FC_PWR_EN_" ++ toString i) v)
  (s.setfi .SLOT_PWR i v).setfi .PWR_ON i v

/-- SLOT_PWR_WRITE (R288). -/
def execSlotPwrWrite (slot : Nat) (v : Bool) (s : State) : Out :=
  .next (s.barWrite fun s => if 18 ≤ slot then s else s.slotPwr slot v)

/-- ID_STATE and REFUSE_CAUSE of a carrier in slot i (R272, R289): (state, cause). -/
def State.judgeCarrier (s : State) (i : Nat) (c : Carrier) : Nat × Nat :=
  if !c.readable then (3, 4)
  else if !c.mediaOk then (3, 3)
  else if c.array = 0 then (2, 0)
  else if c.array ≠ s.rd .DEVICE_UID then (3, 2)
  else if c.slot ≠ i then (3, 1) else (1, 0)

/-- The slot's registers from its carrier. -/
def State.slotRegs (s : State) (i : Nat) (c : Carrier) : State :=
  let j := s.judgeCarrier i c
  let s := (s.setfi .PRESENT i true).wri .CARRIER_UID i (if c.readable then c.uid else 0)
  (s.wri .ID_STATE i j.1).wri .REFUSE_CAUSE i j.2

/-- CARRIER_PRESENT (Table 11.3 step 3, R273): one record. -/
def execCarrierPresent (slot : Nat) (c : Carrier) (s : State) : Out :=
  if 18 ≤ slot || s.fli .PRESENT slot then .next s
  else
    let s := { s with nfc := { s.nfc with carriers := mput s.nfc.carriers (slot, 0) c } }
    .next ((s.slotRegs slot c).record clsService 0 288 (item 7 slot))

/-- CARRIER_REMOVED (R288). -/
def execCarrierRemoved (slot : Nat) (s : State) : Out :=
  if 18 ≤ slot || (mget s.nfc.carriers (slot, 0)).isNone then .next s
  else
    let s := { s with nfc := { s.nfc with carriers := mdel s.nfc.carriers (slot, 0) } }
    .next (((s.setfi .PRESENT slot false).wri .CARRIER_UID slot 0).wri .ID_STATE slot 0 |>.wri .REFUSE_CAUSE slot 0)

/-- A channel's media fields from its carrier: n is 0 for F(i) and 1 for F(18 + i) (R272, R286, R293). -/
def State.chanMedia (s : State) (c : Nat) (x : Carrier) (n : Nat) : State :=
  let s := ((s.setfi .TOGGLE c x.toggle).wri .MTS c x.mts).wri .DIES c x.dies
  let s := (s.wri .PE_RATED c x.peRated).wri .BAD_BLK c (x.bad.getD n 0)
  let s := (s.wri .PE_AVG c (x.peAvg.getD n 0)).wri .PE_MAX c (x.peMax.getD n 0)
  s.wri .WEAR_PM c (if x.peRated = 0 then 0 else min 1023 (x.peAvg.getD n 0 * 1000 / x.peRated))

/-- D[c]: good blocks, less the vault's and the map's (R290). -/
def State.dataBlocks (s : State) (x : Carrier) (n : Nat) : Nat := x.good.getD n 0 - s.nfc.vaultBlk - 1152

/-- ADOPT (Table 11.3 step 4): `icOk` says that the interconnect test passed, `paramOk` that the parameter
pages match Table 11.1. -/
def State.adopt (s : State) (i : Nat) (icOk paramOk : Bool) : State :=
  match mget s.nfc.carriers (i, 0) with
  | none => s
  | some x =>
    if s.rdi .ID_STATE i ≠ 2 then s
    else
      let s := s.slotPwr i true
      if !icOk then (s.wri .ID_STATE i 3).wri .REFUSE_CAUSE i 5
      else if !paramOk then (s.wri .ID_STATE i 3).wri .REFUSE_CAUSE i 3
      else
        let x := { x with array := s.rd .DEVICE_UID, slot := i }
        let s := { s with nfc := { s.nfc with carriers := mput s.nfc.carriers (i, 0) x } }
        let s := s.wri .ID_STATE i 1
        let s := s.each [(i, 0), (18 + i, 1)] fun s y =>
          let s := { s with nfc := { s.nfc with
            rebuilt := mfilter s.nfc.rebuilt fun k _ => k.1 != y.1
            dataBlk := mput s.nfc.dataBlk (y.1, 0) (s.dataBlocks x y.2) } }
          let s := (s.chanMedia y.1 x y.2).wri .FREE_BLK y.1 (s.dataBlocks x y.2)
          (s.setChan y.1 3).rebuildLeft y.1
        s.capTp

/-- ADOPT (R288, R289, R290). -/
def execAdopt (slot : Nat) (icOk paramOk : Bool) (s : State) : Out :=
  .next (s.barWrite fun s => if 18 ≤ slot then s else s.adopt slot icOk paramOk)

/-- REBUILD_STRIPE (Table 11.3 step 5): needs 16 of the stripe's other 17 members. -/
def execRebuildStripe (ch home : Nat) (s : State) : Out :=
  if 36 ≤ ch || s.rdi .CH_STATE ch != 3 || s.draining || !(s.homesOf (ch / 18)).contains home
      || 2 < s.groupDown (ch / 18) then .next s
  else .next (s.rebuildMember ch home)

/-- REBUILD_DONE (Table 11.3 step 6). -/
def execRebuildDone (ch : Nat) (s : State) : Out :=
  if 36 ≤ ch || s.rdi .CH_STATE ch != 3 || s.rdi .REBUILD_LEFT ch != 0 then .next s
  else .next ((s.setChan ch 1).record clsService 0 288 (item 4 ch))

/-- UNBIND_CARRIER (R289, R287): FM API vendor command 0xC002 makes a carrier blank. It is refused while a
channel of the slot is in use, or without a carrier that can be read. -/
def execUnbindCarrier (slot : Nat) (s : State) : Out :=
  match mget s.nfc.carriers (slot, 0) with
  | none => .next (s.send (.fm 0xC002 stInvalid []))
  | some x =>
    if !x.readable || 18 ≤ slot || s.chanWorks slot || s.chanWorks (18 + slot) then .next (s.send (.fm 0xC002 stInvalid []))
    else
      let x := { x with array := 0, slot := 0 }
      let s := { s with nfc := { s.nfc with carriers := mput s.nfc.carriers (slot, 0) x } }
      .next ((s.slotRegs slot x).send (.fm 0xC002 stOk []))

end Sys2Proof.Machine
end

