-- ==== Sys2Proof/Machine/Integrity.lean ====
section
/-! DEFINITION. The integrity engine's commands (12_data_integrity.md): the ladder's later rungs, verify
reads, the recode queue, the flip mask; and for the tick the patrol scrub and in-service repair. -/

namespace Sys2Proof.Machine

/-- The ladder under way of a line. -/
def State.ladderOf (s : State) (la : Nat) : Option Ladder := s.int.ladders.find? fun l => l.la == la

/-- LADDER_HOME_READ_DONE (R302): `ok` says that the chunk decoded or was rebuilt, `rd` what its members
needed (R275). A chunk that could not be read leaves the twin rung; a sentinel line comes back as poison. -/
def execLadderHomeReadDone (la : Nat) (ok : Bool) (rd : List (Nat × Nat × Bool)) (s : State) : Out :=
  match s.ladderOf la with
  | none => .next s
  | some l =>
    if l.twin || s.draining then .next s
    else match s.lineCtx la with
      | none => .next (s.ladderEnd la)
      | some c =>
        let s := s.nandReads sc1 rd
        if ok then .next ((s.homeFix c la).ladderEnd la)
        else .next ((s.setf .STRIPE_LOSS true).twinStep la c 3 l.late)

/-- LADDER_DEADLINE (R304): the loads that wait are answered with poison, and the ladder goes on without
further rungs; the same event again is its 10 ms limit. A store stays attached and completes at the ladder's
end. -/
def execLadderDeadline (la : Nat) (s : State) : Out :=
  match s.ladderOf la with
  | none => .next s
  | some l =>
    if s.draining then .next s
    else if l.late then .next ((s.ladderFail la (if l.twin then 4 else 3) 0).ladderEnd la)
    else
      let s := s.setLadder { l with late := true }
      match s.fillMr la with
      | none => .next s
      | some (k, m) =>
        let s := { s with fch := { s.fch with mrs := mput s.fch.mrs k { m with reqs := m.reqs.filter fun q => q.wr } } }
        .next (s.each (m.reqs.filter fun q => !q.wr) fun s q => match q.who with
          | .host r => (s.doneRead r s.poisonData true).freeNext
          | _ => s)

/-- FETCH_RSP (R337, R303): status 0 the line, 1 a stored poisoned line, 2 none. A response after the
deadline is discarded. -/
def execFetchRsp (tag st : Nat) (data : Line) (s : State) : Out :=
  if !s.mirUp || s.draining then .next s
  else match s.mir.fetches.find? fun x => x.1 == tag with
    | none => .next s
    | some x =>
      let s := s.setMir fun m => { m with fetches := m.fetches.erase x }
      match s.int.ladders.find? fun l => l.twin && l.tag == tag with
      | none => .next s
      | some l =>
        if l.late || 2 ≤ st then .next ((s.ladderFail l.la 4 0).ladderEnd l.la)
        else if st = 1 then .next ((s.twinFix l.la ⟨(s.dline l.la).data, .poison⟩).ladderEnd l.la)
        else .next ((s.twinFix l.la ⟨data, .good⟩).ladderEnd l.la)

/-- VERIFY_READ (R306): any error shown marks a hard fault, unless its device is marked (R310). -/
def execVerifyRead (la : Nat) (errs : List Nat) (s : State) : Out :=
  if !s.int.verify.contains la then .next s
  else
    let s := State.dreq { s with int := { s.int with verify := without s.int.verify la } } la 1 false .fch sc3
    let r := s.decode la errs
    match r.2.2 with
    | [] => .next r.1
    | d :: _ => .next (if r.1.devMarked (r.1.locate la) d then r.1 else r.1.hardFault la d)

/-- RECODE_WRITE (R300, R301): the page-code lines of the queue's first code page are written at SC3 with the
integrity tag. A code page charged again has left the queue. -/
def execRecodeWrite (s : State) : Out :=
  match s.int.recode with
  | [] => .next s
  | k :: rest =>
    if s.draining then .next s
    else
      let s := { s with int := { s.int with recode := rest, pcLost := s.int.pcLost.filter (· != k) } }
      let s := s.dreq (pcLa s.tpe.poolEnd k.1 k.2) 2 true .int sc3
      .next (s.wr .RECODE_LEFT rest.length)

/-! ### Flip mask -/

/-- The front-cache line of a flip target is written back and invalidated (R315). -/
def State.flipClean (s : State) : State :=
  let ln := s.rd .FLIP_LINE
  match s.obj? (s.rd .FLIP_OBJ) with
  | none => s
  | some o =>
    let e := s.mapE (o.mapBase + ln / 1024)
    let la := 1024 * e.frame + ln % 1024
    if e.st != .t1 || o.pages ≤ ln / 1024 then s
    else match s.cline? la with
      | some (k, c) => (s.writeBack c sc3).dropWay k
      | none => s.flushEvict la

/-- A write of INT_FLIP_OBJ (R315, R490): while armed only a 0 to FLIP_ARM acts; arming needs FLIP_READS
nonzero after the same write. -/
def State.flipWrite (s : State) (w : WVals) : State :=
  if s.fl .FLIP_ARM then (if w.get .FLIP_ARM = some 0 then s.setf .FLIP_ARM false else s)
  else
    let s := s.putVals (w.filter fun x => x.1 != .FLIP_ARM) 0
    if w.get .FLIP_ARM = some 1 ∧ s.rd .FLIP_READS ≠ 0 then (s.setf .FLIP_ARM true).flipClean else s

/-- FLIP_ARM_WRITE (R315): a whole write of INT_FLIP_OBJ. -/
def execFlipArmWrite (obj reads : Nat) (arm : Bool) (s : State) : Out :=
  .next (s.barWrite (·.flipWrite [(.FLIP_OBJ, obj), (.FLIP_READS, reads), (.FLIP_ARM, b2n arm)]))

/-! ### Metadata region -/

/-- The lines of the metadata journal (Table 07.1). -/
def journalLine (la : Nat) : Bool := decide (partBase 4 ≤ 64 * la) && decide (64 * la < partBase 5)

/-- A read of a line of the metadata region (R313): uncorrectable after the retry is fatal; a journal line
leaves the drain without a seal. -/
def State.metaRead (s : State) (la : Nat) (e1 e2 : List Nat) : State :=
  let r := s.decode la e1
  match r.2.1 with
  | .corrected x => r.1.fixCorrected la x
  | .uncorr =>
    let t := r.1.decode la e2
    match t.2.1 with
    | .uncorr =>
      let s := t.1.count .INT_CH_ERR_UE_CNT (t.1.chOf la) .INT_CH_FLAGS_CNT_OVF (t.1.chOf la) 1
      let s := { s.setf .META_FATAL true with int := { s.int with journalBad := s.int.journalBad || journalLine la } }
      s.fatal blkINT 313 (item 2 (64 * la))
    | .corrected x => t.1.fixCorrected la x
    | _ => t.1
  | _ => r.1

/-- A miss register's read returns (R225, R302): `e1` and `e2` are the devices in error at the first read and at the
retry (a fenced row's fill waits, R437), `others` further lines of the code page that fail now, `pq` whether both page-code lines decode. A line of
the metadata region has no register and no rung but the retry (R313). -/
def State.fillReturn (s : State) (la : Nat) (e1 e2 others : List Nat) (pq : Bool) (ev : List SramEv) : State :=
  if la / 1024 < poolBase then (if s.draining then s else (s.sramEvents la ev).metaRead la e1 e2)
  else match s.fillMr la with
  | none => s
  | some _ =>
    if s.draining || s.rowFenced la || s.int.ladders.any (fun l => l.la == la) then s
    else
      let s := s.sramEvents la ev
      if s.draining then s
      else
        let r := s.firstRungs la e1 e2
        match r.2.1 with
        | some _ => (r.1.ladderEnd la)
        | none =>
          match r.1.lineCtx la with
          | none => ((r.1.ladderFail la 1 0).ladderEnd la)
          | some c =>
            let p := if r.2.2 then (r.1, false) else r.1.pageRung la c others pq
            if p.2 then (p.1.ladderEnd la)
            else if p.1.homeOpen c then (p.1.setLadder ⟨la, false, false, 0⟩)
            else (p.1.twinStep la c 1 false)

/-- MISS_FILL_RETURN (R225, R302), after which snoops whose write-backs took effect end (R93). -/
def execMissFillReturn (la : Nat) (e1 e2 others : List Nat) (pq : Bool) (ev : List SramEv) (s : State) : Out :=
  .next (s.fillReturn la e1 e2 others pq ev).snoopsAnswered

/-! ### Patrol scrub and repair (tick) -/

/-- Installed lines (R247, R314). -/
def State.installedLines (s : State) : Nat := popCount (s.rd .CH_ACTIVE) 12 * s.rd .CH_CAP_GIB * 2 ^ 24

/-- Lines of one tick's scrub: ⌈L × tick / (SCRUB_HOURS × 3,600 s)⌉, ticks in 40 ns (R314). -/
def State.scrubQuota (s : State) : Nat :=
  if s.rd .SCRUB_HOURS = 0 then 0
  else cdiv (s.installedLines * s.rd .TICK_PERIOD * 40) (s.rd .SCRUB_HOURS * 3600000000000)

/-- A page-code line of a frame in use is read at SC3; uncorrectable after the retry, its page code is invalid (R313). -/
def State.scrubPc (s : State) (la : Nat) (e1 e2 : List Nat) : State :=
  let k := pcOwner s.tpe.poolEnd la
  if (s.frame? k.1).all fun f => f.use == useRetired then s
  else
    let r := (s.dreq la 1 false .int sc3).decode la e1
    match r.2.1 with
    | .corrected x => (r.1.corrected la x).dreq la 1 true .int sc3
    | .uncorr =>
      let t := r.1.decode la e2
      match t.2.1 with
      | .corrected x => (t.1.corrected la x).dreq la 1 true .int sc3
      | .uncorr =>
        let s := (t.1.count .INT_CH_ERR_UE_CNT (t.1.chOf la) .INT_CH_FLAGS_CNT_OVF (t.1.chOf la) 1).dreq la 1 true .int sc3
        { s with int := { s.int with pcLost := k :: s.int.pcLost } }
      | _ => t.1
    | _ => r.1

/-- A line of the scrub is read and, when it does not decode GOOD, runs the ladder; a resident dirty line is
skipped, as are free and retired frames and their page-code lines (R314). `errs` lists failing lines with their devices at the read and
the retry. -/
def State.scrubLine (s : State) (errs : List (Nat × List Nat × List Nat)) (la : Nat) : State :=
  let e := ((errs.find? fun x => x.1 == la).map (·.2)).getD ([], [])
  if la / 1024 < poolBase then
    let s := s.dreq la 1 false .int sc3
    if e.1 = [] then s else s.metaRead la e.1 e.2
  else if s.tpe.poolEnd ≤ la / 1024 then s.scrubPc la e.1 e.2
  else match s.frame? (la / 1024) with
    | none => s
    | some f =>
      let dirty : Bool := match s.cline? la with
        | some (_, c) => c.dirty
        | none => false
      if f.use = useRetired ∨ dirty = true ∨ (s.ladderOf la).isSome then s
      else
        let s := s.dreq la 1 false .int sc3
        if e.1 = [] ∧ (s.dline la).st ≠ .marked ∧ !s.flipHere la then s
        else (s.ladderRun la 0 e.1 e.2 false).1

/-- The scrub's part of a tick (R314). -/
def State.scrubTick (s : State) (errs : List (Nat × List Nat × List Nat)) : State :=
  let l := s.installedLines
  let n := min s.scrubQuota l
  if n = 0 ∨ s.draining then s
  else
    let p := s.rd .SCRUB_LA
    let s := s.each (List.range n) fun s i => s.scrubLine errs ((p + i) % l)
    let s := s.wr .SCRUB_LA ((p + n) % l)
    if l ≤ p + n then s.count .SCRUB_PASSES 0 .SCRUB_OVF 0 0 else s

/-- One in-service repair slice of the remap entry given, whose device reports an sPPR resource (R311). -/
def State.repairSlice (s : State) (c e : Nat) : State :=
  let i := 32 * c + e
  let r := (s.locate (s.rdi .LA i)).rank
  if !s.fl .SPPR_EN || !s.fli .VALID i || !s.fli .SPPR_PEND i || (mget s.drc.rowBuf (c, 0)).isSome
      || 7 ≤ s.refDebt c r || s.nrPending c r != 0 || s.draining || 12 ≤ c || 32 ≤ e then s
  else s.dropRemap c e

end Sys2Proof.Machine
end

