-- ==== Sys2Proof/Machine/Float.lean ====
section
/-! DEFINITION. The Float Governor (03_float_governor.md): admitted charges, stalls, the sensing of the
energy store, the calibrations, the limit and the shares of a tick, and steps 2 to 4b of the drain. -/

namespace Sys2Proof.Machine

/-! ### Charges that wait -/

/-- A host write waiting on float can be charged now (R62): its code page and its solo-map page, or nothing; benched
writes of one LD go in arrival order (R98). -/
def State.fltReady (s : State) (w : Wait) : Bool :=
  match w.ent with
  | .host r => w.why == Why.flt && !s.benchedBefore r && (match s.obj? w.obj with
    | some o =>
      let e := s.mapE (o.mapBase + w.tp)
      let k := r.dpa / 4096 % 16
      let needs := o.persist && (e.st == .leaving || e.cpSt k == 0 || e.cpSt k == 3)
      if e.st == .t1 || e.st == .leaving then s.canCharge2 w.dom (b2n needs) (s.mirNeeds o w.obj w.tp) else true
    | none => true)
  | _ => false

/-- The first host write waiting on float whose charge would be admitted, in arrival order (R62, R98). -/
def State.fltNext (s : State) : Option Wait := s.waits.find? s.fltReady

/-- The 8120's own charges go on (R41, R60): solo-map pages, records held, roles, a TAKEOVER, SSN blocks,
dynamic-capacity changes. -/
def State.journalWriters (s : State) : State :=
  let s := s.soloRetry.applyHeld.tryStep5
  let s := if s.mir.takePend && s.canJournal then s.takeAll else s
  s.ssnReserve.dcRun

/-- FLOAT_CHARGE_ADMITTED (R62, R98, R41): the first host write that waits and can be charged is served; with
none, the 8120's journal writers go on. Commands and packets take their charge in their own rows. -/
def execFloatChargeAdmitted (s : State) : Out :=
  if s.draining then .next s
  else match s.fltNext with
    | some w => .next (({ s with waits := s.waits.erase w }.reserve w).credits.snoopsAnswered)
    | none => .next s.journalWriters

/-- The first waiting request or fence of a domain that is not yet 1 ms old becomes so. -/
def State.ageOldest (s : State) (d : Nat) (fence : Bool) : Option State :=
  if fence then
    (s.fences.find? fun (f : Fence) => f.dom == d && !f.aged).map fun (f : Fence) =>
      { s with fences := s.fences.map fun (g : Fence) => if g = f then { g with aged := true } else g }
  else
    (s.waits.find? fun (w : Wait) => w.dom == d && !w.aged && (w.why == Why.flt || w.why == Why.slice)).map
      fun (w : Wait) => { s with waits := s.waits.map fun (x : Wait) => if x = w then { x with aged := true } else x }

/-- STALL (R74): cause 1 a fence, 0 float. -/
def execStall (dom : Nat) (fence : Bool) (s : State) : Out :=
  if s.draining then .next s
  else match s.ageOldest dom fence with
    | none => .next s
    | some t =>
      if t.fli .STALLED dom then .next t
      else
        let t := (t.setfi .STALLED dom true).count .STALL_CNT 0 .STALL_OVF 0 0
        if t.rd .FLOAT_LIMIT = 0 ∧ t.fgv.stallRec.contains dom then .next t
        else
          let t := if t.rd .FLOAT_LIMIT = 0 then { t with fgv := { t.fgv with stallRec := dom :: t.fgv.stallRec } } else t
          .next ((t.record clsWarn dom 74 (item 8 (b2n fence) ++ item 7 (t.rd .FLOAT_LIMIT))).alert blkFGV)

/-! ### Sensing the store -/

/-- FLOOR_COMPARATOR_ARMED (R65). -/
def execFloorComparatorArmed (s : State) : Out :=
  if s.rd .HOLDUP_FLOOR_MV + s.rd .HOLDUP_HYST_MV ≤ s.rd .HOLDUP_MV && !s.fl .HOLDUP_SNS_FAULT && !s.fl .HOLDUP_REVERSED
      && !s.draining then .next (s.setf .ARMED true) else .next s

/-- HOLDUP_FLOOR_CROSSING (R65, R77). -/
def execHoldupFloorCrossing (s : State) : Out :=
  .next (if s.fl .ARMED then s.trigger .floor false else s)

/-- A sense fault sets (R66, R65): the comparator is disarmed, one record and ALERT_N. -/
def State.senseFault (s : State) (f : Fld) (cause : Nat) : State :=
  if s.fl f then s
  else (((s.setf f true).setf .ARMED false).record clsError 0 66 (item 8 cause)).alert blkFGV

/-- The open and mismatch conditions have changed: the time without them counts from their end. -/
def State.senseCond (s : State) (mis opn : Bool) : State :=
  let was := s.fgv.mismatch || s.fl .SNS_OPEN
  let s := { s.setf .SNS_OPEN opn with fgv := { s.fgv with
    mismatch := mis, faultT := if was && !(mis || opn) then s.rd .OP_TIME else s.fgv.faultT } }
  if mis || opn then s.senseFault .HOLDUP_SNS_FAULT 1 else s

/-- HOLDUP_PMBUS_POLL (R66): `mv` is the charger's READ_VOUT. -/
def execHoldupPmbusPoll (mv : Nat) (s : State) : Out :=
  let s := s.wr .PMBUS_MV mv
  let a := s.rd .PMBUS_MV
  let b := s.rd .HOLDUP_MV
  .next (s.senseCond (decide (max a b < 20 * (max a b - min a b))) (s.fl .SNS_OPEN))

/-- HOLDUP_SNS_FAULT clears after 1 s without its conditions (R66; 25,000,000 units of OP_TIME). -/
def State.senseClear (s : State) : State :=
  if s.fl .HOLDUP_SNS_FAULT && !s.fgv.mismatch && !s.fl .SNS_OPEN && decide (s.fgv.faultT + 25000000 ≤ s.rd .OP_TIME)
  then s.setf .HOLDUP_SNS_FAULT false else s

/-- SNS_OPEN (R412, R66). -/
def execSnsOpen (v : Bool) (s : State) : Out := .next (s.senseCond s.fgv.mismatch v)

/-- SNS_NEG (R412, R66): HOLDUP_REVERSED follows. -/
def execSnsNeg (v : Bool) (s : State) : Out :=
  let s := s.setf .SNS_NEG v
  .next (if v then s.senseFault .HOLDUP_REVERSED 2 else s.setf .HOLDUP_REVERSED false)

/-- A HOLDUP_INVERT write (R66). -/
def State.invertWrite (s : State) (v : Bool) : State :=
  let s := s.setf .HOLDUP_INVERT v
  if v then s.setf .HOLDUP_REVERSED false else s

/-- HOLDUP_INVERT_WRITE (R66). -/
def execHoldupInvertWrite (v : Bool) (s : State) : Out := .next (s.barWrite (·.invertWrite v))

/-! ### Capacitance (R67, R68) -/

/-- VOUT_COMMAND is written to the charger. -/
def State.vout (s : State) (v : Nat) : State := s.send (.pmbus (s.rd .HOLDUP_PMBUS_ADDR) 0 0x21 v)

/-- Step 1 of Table 03.3: `vset` is the charger's setting, to be restored. -/
def State.ccalStart (s : State) (vset : Nat) : State :=
  if s.fl .CCAL_BUSY || s.rd .CCAL_LO_MV = 0 then s
  else
    let lo := max (s.rd .CCAL_LO_MV) (s.rd .HOLDUP_FLOOR_MV + s.rd .HOLDUP_HYST_MV)
    let s := { s.setf .CCAL_BUSY true with fgv := { s.fgv with
      ccal := .discharge, v1 := s.rd .HOLDUP_MV, loMv := lo, vset := vset, charge := 0 } }
    s.vout lo

/-- CCAL_NOW (R67, R68). -/
def execCcalNow (vset : Nat) (s : State) : Out := .next (s.barWrite (·.ccalStart vset))

/-- CCAL_INTERVAL (R67). -/
def execCcalInterval (vset : Nat) (s : State) : Out :=
  .next (if s.rd .CCAL_INTERVAL_H = 0 || s.draining then s else s.ccalStart vset)

/-- CCAL_DISCHARGED (Table 03.3 step 3). -/
def execCcalDischarged (s : State) : Out :=
  if s.fgv.ccal == .discharge && decide (s.rd .HOLDUP_MV ≤ s.fgv.loMv) && !s.draining then
    .next ({ s with fgv := { s.fgv with ccal := .charge, v2 := s.rd .HOLDUP_MV, charge := 0 } }.vout s.fgv.vset)
  else .next s

/-- CCAL_ABANDON (Table 03.3 step 2). -/
def execCcalAbandon (s : State) : Out :=
  if s.fgv.ccal == .discharge && !s.draining then
    .next ({ s.setf .CCAL_BUSY false with fgv := { s.fgv with ccal := .idle } }.vout s.fgv.vset)
  else .next s

/-- CCAL_IOUT_POLL (R67): `ma` is READ_IOUT in mA over 1 ms, so Q counts in µC. -/
def execCcalIoutPoll (ma : Nat) (s : State) : Out :=
  .next (if (s.fgv.ccal == .charge || s.fgv.ccal == .startUp) && !s.draining then
    { s with fgv := { s.fgv with charge := s.fgv.charge + ma } } else s)

/-- The range check of Table 03.3 step 4 on C_new = Q / (V1 − V2), in mF rounded down (log entry 26). With V1 = V2 the
spec states no quotient: it is a free value (log entry 6); with V1 below V2 it is negative and out of range. -/
def State.capResult (s : State) (v1 v2 : Nat) : State :=
  let nom := s.rd .HOLDUP_CAP_NOM_MF
  let q := if v1 = v2 then s.freeVal else s.fgv.charge
  let d := if v1 = v2 then 1 else v1 - v2
  let s := if v1 = v2 then s.freeNext else s
  if v1 < v2 then (s.setf .CAL_REJECT true).record clsWarn 0 67 (item 7 0)
  else if nom * d ≤ 2 * q ∧ 100 * q ≤ 110 * nom * d then s.wr .HOLDUP_CAP_MEAS_MF (q / d)
  else (s.setf .CAL_REJECT true).record clsWarn 0 67 (item 7 (q / d))

/-- CCAL_RECHARGED (R67): the end of a cycle, or of the start-up cycle at its crossing. -/
def execCcalRecharged (s : State) : Out :=
  let mv := s.rd .HOLDUP_MV
  if s.draining then .next s
  else if s.fgv.ccal == .charge && decide (s.fgv.v1 ≤ mv) then
    .next ({ s.setf .CCAL_BUSY false with fgv := { s.fgv with ccal := .idle } }.capResult s.fgv.v1 s.fgv.v2)
  else if s.fgv.ccal == .startUp && decide (s.rd .HOLDUP_FLOOR_MV + s.rd .HOLDUP_HYST_MV ≤ mv) then
    let s := { s.setf .CCAL_BUSY false with fgv := { s.fgv with ccal := .idle, v1 := mv } }
    .next (if mv - s.fgv.v2 < 1000 then s else s.capResult mv s.fgv.v2)
  else .next s

/-- A reading below floor plus hysteresis begins the start-up cycle (R67). -/
def State.startCycle (s : State) : State :=
  if s.rd .HOLDUP_MV < s.rd .HOLDUP_FLOOR_MV + s.rd .HOLDUP_HYST_MV then
    { s.setf .CCAL_BUSY true with fgv := { s.fgv with ccal := .startUp, v2 := s.rd .HOLDUP_MV, charge := 0 } }
  else s

/-- The first HOLDUP_MV reading after the configuration copy is applied (R67): below floor plus hysteresis
the start-up cycle begins. -/
def State.firstReading (s : State) : State :=
  if !s.fgv.first then s else State.startCycle { s with fgv := { s.fgv with first := false } }

/-! ### Drain rate (R70, R71) -/

/-- VCAL_NOW (R70). -/
def execVcalNow (s : State) : Out := .next (s.barWrite fun s => { s with fgv := { s.fgv with vcalDue := true } })

/-- REHEARSAL (R70): the scratch area is read at SC0. -/
def execRehearsal (s : State) : Out :=
  .next (if s.draining || s.fgv.rehearsal then s else s.rehearse)

/-- DRAIN_RATE_LAST, DRAIN_RATE_CAL and RATE_VALID from the rate history. -/
def State.rateRegs (s : State) : State :=
  match s.fgv.rates.getLast? with
  | none => s
  | some r => ((s.wr .DRAIN_RATE_LAST r).wr .DRAIN_RATE_CAL (s.fgv.rates.foldl min r)).setf .RATE_VALID true

/-- REHEARSAL_DONE (R70, R71): `rate` in MB/s. -/
def execRehearsalDone (rate : Nat) (s : State) : Out :=
  if !s.fgv.rehearsal || s.draining then .next s
  else
    let l := s.fgv.rates ++ [rate % 2 ^ 32]
    .next ({ s with fgv := { s.fgv with rehearsal := false, rates := l.drop (l.length - 8) } }.rateRegs)

/-- MEAS_CLR (R69). -/
def execMeasClr (s : State) : Out := .next (s.barWrite (·.wr .DRAIN_POWER_MEAS_W 0))

/-! ### The limit and the shares of a tick -/

/-- The metadata tail in bytes (Table 03.2). -/
def tailBytes : Nat := 16777216

/-- R63, R64: the float limit, its source and T_HOLD_US in whole µs, from the present values. Of equal terms LIMIT_SRC
names the energy first, then the vault; T_HOLD_US rounds down (log entry 24). -/
def State.floatLimit (s : State) : Nat × Nat × Nat :=
  let vf := s.rd .HOLDUP_FLOOR_MV
  let vm := s.rd .HOLDUP_VMIN_MV
  let n := s.capUsed * (vf ^ 2 - vm ^ 2) * s.rd .DRAIN_EFF_PM
  let p := max (s.rd .DRAIN_POWER_W) (s.rd .DRAIN_POWER_MEAS_W)
  let hold := if p = 0 then 0 else n / (2 * 10 ^ 6 * p)
  let x := (n - 2 * 10 ^ 6 * s.rd .DRAIN_FIXED_US * p) * s.rd .DRAIN_RATE_CAL * (256 - s.rd .MARGIN)
  let d := 512 * 10 ^ 6 * p
  let le := if p = 0 then 0 else (x - tailBytes * d) / (4104 * d)
  let lv := (min (s.rd .VAULT_FREE_MIB) (s.rd .VAULT_CAP_MIB / 2) * 1048576 - tailBytes) / 4104
  let cap := s.rd .FLOAT_CAP
  if !s.fl .ARMED || !s.fl .RATE_VALID || s.fl .HOLDUP_SNS_FAULT || s.fl .HOLDUP_REVERSED then (0, 3, hold)
  else (min le (min lv cap), if le ≤ min lv cap then 0 else if lv ≤ cap then 1 else 2, hold)

/-- The Float Governor's computation during a tick, from the values at its start (R63). -/
def State.limitCompute (s : State) : State :=
  let l := s.floatLimit
  { s with fgv := { s.fgv with nextLimit := l.1, nextSrc := l.2.1, nextHold := l.2.2 } }

/-- A sum over the domains. -/
def domSum (f : Nat → Nat) : Nat := ((List.range 256).map f).foldl (· + ·) 0

/-- The shares of R72 from limit l. -/
def State.shares (s : State) (l : Nat) : Nat → Nat :=
  let w := max 65536 (domSum (s.rdi .GUAR_WT ·))
  let g := fun d => l * s.rdi .GUAR_WT d / w
  let opn := l - domSum g
  let o := fun d => s.rdi .CHARGE d - g d
  let used := domSum o
  let a := opn - used
  let binding : Bool := decide (a < opn * s.rd .BIND_FRAC / 256)
  let inJ := fun d => decide (0 < s.rdi .CHARGE d) || s.waits.any fun (x : Wait) => x.dom == d && x.why == Why.flt
  let j := ((List.range 256).filter inJ).length
  fun d =>
    if !binding || used == 0 || decide (j < 2) then g d + o d + a
    else if inJ d then g d + o d + a * (used - o d) / ((j - 1) * used) else g d

/-- Orders 1 and 2 of Table 01.2: publication of the limit, the shares (R72) or, above the limit, FLOAT_OVER
(R76); T_HOLD_US reads 2^32 − 1 above its width (log entry 24). -/
def State.publishLimit (s : State) : State :=
  let l := s.fgv.nextLimit
  let s := ((s.wr .FLOAT_LIMIT l).wr .LIMIT_SRC s.fgv.nextSrc).wr .T_HOLD_US (min s.fgv.nextHold (2 ^ 32 - 1))
  let s := if l = 0 then s else { s with fgv := { s.fgv with stallRec := [] } }
  if l < s.rd .FLOAT_PAGES then
    let was := s.fgv.shareFrozen
    let s := s.each (List.range 256) fun s d => s.wri .SHARE d (s.rdi .CHARGE d)
    let s := { s with fgv := { s.fgv with shareFrozen := true } }
    let s := s.setf .FLOAT_OVER true
    if was then s
    else (s.record clsWarn 0 76 (item 7 l ++ item 9 (s.rd .FLOAT_PAGES))).alert blkFGV
  else
    let sh := s.shares l
    let s := { s with fgv := { s.fgv with shareFrozen := false } }
    s.each (List.range 256) fun s d => s.wri .SHARE d (sh d)

/-! ### Steps 2 to 4b of the drain (Table 03.4) -/

/-- DRAIN_WRITEBACK_DONE (R242): every queued write is issued (R256) and step 3 begins. -/
def execDrainWritebackDone (s : State) : Out :=
  if s.draining && s.drain.step == 2 then
    .next (State.issueWrites { s.writeBackAll with drain := { s.drain with step := 3 } })
  else .next s

/-- DRAIN_FLOAT_DONE (R55, R57, R307): every charged page of a pool frame is in the vault, a line of `bad`
that fails the ladder as the sentinel line, named in the Daybook. -/
def execDrainFloatDone (bad : List Nat) (s : State) : Out :=
  if !(s.draining && s.drain.step == 3) then .next s
  else
    let ks := s.stl.chq.filter fun k => !isMetaKey k
    let s := s.each ks fun s k => s.probeCp k.1 k.2 0 bad
    let s := s.each ks fun s k => (s.dreq (1024 * k.1 + 64 * k.2) 64 false .stl sc0).vaultCp [] k
    let lost := bad.filter fun la => ks.contains (la / 1024, la / 64 % 16)
    let s := s.each lost fun s la =>
      let f := (s.frame? (la / 1024)).getD ⟨0, 0, 0, 0, 0, false, 0⟩
      s.record clsError 0 307 (item 1 f.obj ++ item 2 (65536 * f.tp + 64 * (la % 1024)))
    .next { s with drain := { s.drain with step := 4 } }

end Sys2Proof.Machine
end

