-- ==== Sys2Proof/Machine/Export.lean ====
section
/-! DEFINITION. SEAL, UNSEAL and LOG_READ (06_command_set.md R161 to R163). IV, key and AAD bytes go in address
order. -/

namespace Sys2Proof.Machine

/-- The IV of a SEAL or UNSEAL. -/
def sqeIv (ws : List Nat) : List Nat := toBytes 8 (sqeW ws 5) ++ toBytes 4 (sqeW ws 6)

/-- The AAD of a SEAL or UNSEAL. -/
def sqeAad (ws : List Nat) : List Nat := toBytes 8 (sqeW ws 7)

/-- SEAL (R161): `bad` are the lines that fail the recovery ladder and `stop` the byte at which the host
buffer's DMA failed, which stops it at a line of the range (R142). -/
def execSeal (uid : Nat) (bad : List Nat) (stop : Option Nat) (s : State) : Out :=
  match s.running? uid opSeal with
  | none => .next s
  | some c =>
    match s.own? c.tobj with
    | none => .next s
    | some o =>
      let len := sqeLen c.words
      let stop := stop.filter fun x => decide (x < len + 16)
      let r := s.cmdPages c c.tobj o c.tofs len true false
      if !r.2 then .next r.1
      else
        let lns := linesOf c.tofs len
        let pr := r.1.probeLines o c.dom lns bad
        let s := pr.1
        let bad := pr.2
        match lns.filter fun ln => (s.objLine o ln bad).2 with
        | f :: fs => .next (s.cmdErr c 0x30 (lineDet (bad.contains f)) (max c.tofs (64 * f)) (fs.length + 1))
        | [] =>
          let text := lns.flatMap fun ln => (linePart c.tofs len ln).map fun k => lineByte (s.objLine o ln []).1 k
          let x := gcmSeal (toBytes 32 (c.key ^^^ c.mask)) (sqeIv c.words) (sqeAad c.words) text
          let upto := dmaUpto c.tofs len stop
          let out := if stop.isSome then x.1.take upto else x.1 ++ x.2
          let s := s.each lns fun s ln => s.readTouch c.tobj o sc2 ln
          let s := s.send (.dmaBytes c.link c.ld (out.mapIdx fun i b => (sqeAddr c.words + i, b)))
          .next (if stop.isSome then s.cmdErr c 0x13 0x1C (c.tofs + upto) 0 else s.cmdOk c (len + 16) 0)

/-- The escrow frames of an UNSEAL: one per touched tier page, tallied to the domain (R162, R178), holding
the decrypted bytes at their object offsets. -/
def State.unsealEscrow (s : State) (c : Cmd) (len : Nat) (text : List Nat) : State :=
  s.each (pagesOf c.tofs len) fun s tp =>
    let f := s.nextFrame
    let s := s.takeFrame ⟨c.tobj, tp, 0, c.dom, 2, false, 0⟩
    let s := s.each ((linesOf c.tofs len).filter fun ln => ln / 1024 == tp) fun s ln =>
      s.setDline (1024 * f + ln % 1024)
        ⟨lineOfBytes fun k => if c.tofs ≤ 64 * ln + k then text.getD (64 * ln + k - c.tofs) 0 else 0, .good⟩
    s.updCmd c.uid fun c => { c with escrow := c.escrow ++ [(tp, f)] }

/-- The decrypted byte at an object offset, from a command's escrow frames. -/
def State.escrowByte (s : State) (c : Cmd) (x : Nat) : Nat :=
  match c.escrow.find? fun e => e.1 == x / 65536 with
  | some e => lineByte (s.dline (1024 * e.2 + x / 64 % 1024)).data (x % 64)
  | none => 0

/-- The escrow frames of a command that has ended are released. -/
def State.unsealEnd (s : State) (uid : Nat) : State :=
  match s.running? uid opUnseal, s.cmd.cmds.find? fun c => c.uid == uid with
  | none, some c => s.dropEscrow c
  | _, _ => s

/-- UNSEAL (R162): `data` is the host buffer, ciphertext then tag, read until the tag has verified; `bad` are lines whose
old value is uncorrectable; `dmaErr` says that reading the buffer failed. A mismatch is AUTH_FAIL, detail 0x0038. -/
def execUnseal (uid : Nat) (data bad : List Nat) (dmaErr : Bool) (s : State) : Out :=
  match s.running? uid opUnseal with
  | none => .next s
  | some c =>
    match s.own? c.tobj with
    | none => .next s
    | some o =>
      let len := sqeLen c.words
      let go := fun (s : State) (c : Cmd) => (s.cmdWrite c o len len (s.escrowByte c) [] bad none).unsealEnd uid
      if !c.escrow.isEmpty then .next (go s c)
      else if dmaErr then .next (s.cmdErr c 0x13 0x1C c.tofs 0)
      else if s.rd .FREE_FRAMES < (pagesOf c.tofs len).length then
        .next (s.entWait (.cmd uid) c.dom .frame c.tobj (c.tofs / 65536))
      else match gcmOpen (toBytes 32 (c.key ^^^ c.mask)) (sqeIv c.words) (sqeAad c.words) (data.take len) ((data.drop len).take 16) with
        | none => .next ((s.count .GCM_FAIL_CNT 0 .CIP_FLAGS_CNT_OVF 0 0).cmdErr c 0x31 0x38 0 0)
        | some text =>
          let s := s.unsealEscrow c len text
          match s.running? uid opUnseal with
          | none => .next s
          | some c => .next (go s c)

/-- LOG_READ (R163, R427): `stop` is the byte at which the host buffer's DMA failed, which stops it at a line of the
buffer (R142). -/
def execLogRead (uid : Nat) (stop : Option Nat) (s : State) : Out :=
  match s.running? uid opLog with
  | none => .next s
  | some c =>
    let w := s.logWalk c.dom (sqeW c.words 1) (bits (sqeW c.words 3) 0 32)
    let put := fun (l : List Nat) => Msg.dmaBytes c.link c.ld (l.mapIdx fun i b => (sqeW c.words 2 + i, b))
    match stop.filter fun x => decide (x < w.bytes.length) with
    | some n => .next ((s.send (put (w.bytes.take (n / 64 * 64)))).cmdErr c 0x13 0x1C 0 0)
    | none => .next ((s.send (put w.bytes)).cmdOk c w.next (w.bytes.length + b2n w.gap * 2 ^ 32))

end Sys2Proof.Machine
end

