-- ==== Sys2Proof/Machine/Restart.lean ====
section
/-! DEFINITION. What a loss of the fabric's power leaves: the metadata of the abrupt path (R41, R58), the fields
that survive (the reset rules of every chapter, R472), the cold reset of the always-on domain (R424, R426). -/

namespace Sys2Proof.Machine

/-- Fields held in the always-on domain or in OTP, and the sampled grant, through a restart (R417, R430, R472,
R396; log entry 14). -/
def keptFlds : List Fld :=
  [.WHISTLE_EN, .WH_SYNC_STEP, .MIN_OFF_MS, .UP_DELAY_US, .DOWN_DELAY_US, .WH_TIMEOUT_MS, .PMBUS_POLL_MS, .SEQ_STATE,
   .UP_STEP_NOW, .DOWN_STEP_NOW, .PWR_REQ_IN, .PFAIL_IN, .WHISTLE_IN, .WHISTLE_OUT, .ON_LATCHED, .SNS_OPEN, .SNS_NEG,
   .FF_VALID, .PMBUS_ERR, .PWR_STATUS_DOM_FAIL, .RAIL_EN_OUT, .RAIL_FAILED, .RAIL_RETRYING, .POWER_CYCLES, .FAULT_CNT,
   .CHATTER_CNT, .WHISTLE_CNT, .PWR_FLAGS_CNT_OVF, .FF, .PWR_DOM_FAIL_DOM_FAIL, .EN, .UP_STEP, .DOWN_STEP,
   .PWR_RAIL_CFG_GROUP, .REACTION, .DRAIN_NEED, .PMBUS_EN, .PMBUS_ADDR, .PMBUS_PAGE, .DRAM_CH, .DWELL_US,
   .CHATTER_LIMIT, .RAMP_TIMEOUT_US, .DEGLITCH_US, .ATTEMPTS, .CHATTER_NOW, .LAST_CAUSE, .HEAD_SEQ, .OP_TIME,
   .CKPT_TIME, .TICK_NUMBER, .XTAL_BYP, .WARM_CAUSE, .GRANT, .SVN_FUSE, .ROOT_REVOKED, .OWNER_SET, .FW_SVN]

/-- Fields that the NAND format blocks and the tag scan give back (R293). -/
def wearFlds : List Fld := [.FREE_BLK, .BAD_BLK, .PE_AVG, .PE_MAX, .SETTLE_SEQ]

/-- Fields that the key table gives back (R387). -/
def keyFlds : List Fld := [.OWNER, .ANY, .MODE]

/-- The register values of some fields. -/
def regsOf (r : SMap Nat) (l : List Fld) : SMap Nat :=
  let ks := l.map Fld.ctorIdx
  mfilter r fun k _ => ks.contains k.1

/-- Every field but those listed starts over at its reset value. -/
def State.onlyRegs (s : State) (l : List Fld) : State := { s with regs := regsOf s.regs l }

/-- DRAM loses its contents. -/
def State.dramLost (s : State) : State := { s with dram := [] }

/-- Put the stored values of some fields back. -/
def State.putRegs (s : State) (l : List Fld) (r : SMap Nat) : State :=
  s.each (r.filter fun e => l.contains (Fld.ofNat e.1.1)) fun s e => s.wri (Fld.ofNat e.1.1) e.1.2 e.2

/-- A seal is valid: its CRC-32C is that of the vault index (R55). -/
def State.sealOk (s : State) (x : Seal) : Bool := x.crc == indexCrc s.nfc.index

/-- The drain in progress has written its seal, which is valid (R55). -/
def State.sealed (s : State) : Bool :=
  s.draining && (match s.nfc.seals.getLast? with
    | some x => x.seq == s.drain.seq && s.sealOk x
    | none => false)

/-- Unmirrored objects with code pages charged at a loss (R456). -/
def State.lostObjs (s : State) : List Nat :=
  (s.md.ledger.filter fun e => !e.2.mirror && (List.range e.2.pages).any fun tp =>
    (List.range 16).any fun k => let c := (s.mapE (e.2.mapBase + tp)).cpSt k; c == 1 || c == 2).map (·.1.1)

/-- Without a seal, what restarts is the longest settled prefix of the journal with the numbers and the solo map
as last settled (R41, R347); SSN_ISSUED resumes at the end of the highest settled reservation (R327). Before
the metadata were loaded nothing changed (Table 02.3 row 7). -/
def State.abruptSave (s : State) : State :=
  if s.sealed || !s.boot.metaDone then s
  else
    let j := s.jr.prefixMeta
    let s := s.shadowBack s.jr.settled
    { s with saved := { s.saved with journal := j, ssnIssued := max s.saved.ssnIssued j.ssnEnd }
             boot := { s.boot with lost := s.lostObjs } }

/-- The fabric loses its power, or is reset for a start-up with the rails up: every volatile table and field
starts over. NAND, SPI, OTP and the always-on domain keep theirs. -/
def State.fabricLost (s : State) : State :=
  let s := s.abruptSave
  let h := s.rd .HEAD_SEQ
  let s := { s with
    nfc := { s.nfc with wear := if s.fl .TRAIN_DONE then regsOf s.regs wearFlds else s.nfc.wear, vaultNew := [], shadow := [] }
    sec := { s.sec with table := if s.boot.keysRead then regsOf s.regs keyFlds else s.sec.table, sessions := [], blob := [], meas := [], recovery := false }
    glb := ⟨[], false, false, 195⟩
    dbk := { s.dbk with ring := [], dropped := 0, dropTime := 0, flushTo := none, flushAgain := false, frozen := none }
    once := [], md := metaNone, jr := ⟨metaNone, [], []⟩, tpe := { tpeNone with ckpt := s.tpe.ckpt }
    fch := fchNone, stl := ⟨[], []⟩
    drc := { drcNone with failed := if s.fl .TRAIN_DONE then s.rd .CH_FAIL else s.drc.failed }
    int := { intNone with repair := s.int.repair }
    prt := { prtNone with perst := s.prt.perst }, cmd := cmdNone, waits := [], fences := [], fgv := fgvNone
    drain := { drainNone with seq := s.drain.seq }, mir := { mirNone with abrupt := s.mir.abrupt }, rae := raeNone, bst := bstNone
    boot := { s.boot with chosen := none, fwUp := false, metaDone := false, keysRead := false, kats := false } }
  let s := (s.onlyRegs keptFlds).dramLost
  ((s.wr .TAIL_SEQ h).wr .FLUSH_SEQ h).setf .COLD false

/-! ### The always-on domain -/

/-- The newest checkpoint on either device (R424). -/
def State.newestCkpt (s : State) : Option Ckpt :=
  (s.dbk.ckA ++ s.dbk.ckB).foldl (fun (m : Option Ckpt) (c : Ckpt) => match m with
    | some x => if x.opTime < c.opTime then some c else some x
    | none => some c) none

/-- The first-fault record that a cold reset loads: SPI_A's copy when both hold one (R413). -/
def State.storedFf (s : State) : List Nat := if s.pwr.ffA = [] then s.pwr.ffB else s.pwr.ffA

/-- Power-up of the always-on domain (R397, R413, R417, R424, R426, R430): a cold reset. POWER_CYCLES and PWR_FF
come from the power record area, OP_TIME and HEAD_SEQ from the Daybook's logs; the supervisor begins in MIN_OFF
(R411). `req`, `pfail` and `bypass` are PWR_REQ, PFAIL_N low and STRAP_XTAL_BYP as sampled. -/
def State.coldReset (s : State) (req pfail bypass : Bool) : State :=
  let s := s.fabricLost
  let c := s.newestCkpt
  let recs := s.dbk.logA ++ s.dbk.logB
  let h := recs.foldl (fun n (r : Rec) => max n r.seq) 0
  let op := match c with
    | some x => x.opTime + 1500000000
    | none => 0
  let seq := if c.isNone && recs.isEmpty then 1 else max (h + 1) ((c.map (·.seq)).getD 0) + 8192
  let ff := s.storedFf
  let s := s.onlyRegs [.SVN_FUSE, .ROOT_REVOKED, .OWNER_SET, .FW_SVN]
  let s := { s with pwr := { pwrNone with ffA := s.pwr.ffA, ffB := s.pwr.ffB, cycles := s.pwr.cycles
                                          sysRst := s.pwr.sysRst } }
  let s := (s.wr .OP_TIME op).wr .CKPT_TIME ((c.map (·.opTime)).getD 0)
  let s := ((s.wr .HEAD_SEQ seq).wr .TAIL_SEQ seq).wr .FLUSH_SEQ seq
  let s := s.wr .POWER_CYCLES s.pwr.cycles
  let s := s.each (List.range 8) fun s i => s.wri .FF i (ff.getD i 0)
  let s := s.setf .FF_VALID (ff != [])
  let s := ((s.setf .PWR_REQ_IN req).setf .PFAIL_IN pfail).setf .XTAL_BYP bypass
  s.record clsBoot 0 426 (item 7 op ++ item 0xA seq)

/-- ALWAYS_ON_POWER_UP (R465). -/
def execAlwaysOnPowerUp (req pfail bypass : Bool) (s : State) : Out := .next (s.coldReset req pfail bypass)

/-- Records of the flush in progress that a device had programmed at a loss stay there, in SEQ order (R423). -/
def State.partFlush (s : State) (na nb : Nat) : State :=
  let rs := s.flushRecs
  { s with dbk := { s.dbk with
      logA := if s.fl .SPI_A_FAIL then s.dbk.logA else logTrim (s.dbk.logA ++ rs.take na)
      logB := if s.fl .SPI_B_FAIL then s.dbk.logB else logTrim (s.dbk.logB ++ rs.take nb) } }

/-- ABRUPT_LOSS (R58): the board's power collapses with the 8120 running; `na` and `nb` records of the flush in
progress had reached the devices. The rails are off: a supervisor that was on or sequencing is in MIN_OFF. Where
the always-on rail was lost too, ALWAYS_ON_POWER_UP follows. -/
def execAbruptLoss (na nb : Nat) (s : State) : Out :=
  let s := (s.partFlush na nb).fabricLost
  let q := s.rd .SEQ_STATE
  let s := ((s.wr .SEQ_STATE (if q = seqOff ∨ q = seqLock then q else seqMinOff)).wr .RAIL_EN_OUT 0).wr .RAIL_RETRYING 0
  let s := (s.wr .UP_STEP_NOW 0).wr .DOWN_STEP_NOW 0
  .next { s with pwr := { s.pwr with good := 0, kept := 0, ign := 0, again := [], drop := [], rdyUp := false, syncing := false
                                     synced := false, byUp := false, domRamp := [], domWait := [], hot := false } }

end Sys2Proof.Machine
end

