-- ==== Sys2Proof/Machine/Power.lean ====
section
/-! DEFINITION. The power supervisor (16_power_supervision.md): sequences, rails and their reactions, WHISTLE_N,
requests, the first-fault record and the internal power domains. -/

namespace Sys2Proof.Machine

/-! ### Rails -/

/-- The rails of the core phase. -/
def coreRails : List Nat := List.range 6
/-- The board rails. -/
def boardRails : List Nat := (List.range 18).map (6 + ·)
/-- Every rail. -/
def allRails : List Nat := List.range 24

/-- The rail's enable output is asserted. -/
def State.railOn (s : State) (r : Nat) : Bool := bit (s.rd .RAIL_EN_OUT) r

/-- The rail is good (R401). -/
def State.railGood (s : State) (r : Nat) : Bool := bit s.pwr.good r

/-- Change the supervisor's own state. -/
def State.setPwr (s : State) (f : PwrS → PwrS) : State := { s with pwr := f s.pwr }

/-- Enable a rail: its ramp starts with CHATTER_NOW cleared (R401, R406). -/
def State.railEnable (s : State) (r : Nat) : State :=
  ((s.setBitOf .RAIL_EN_OUT 0 r true).wri .CHATTER_NOW r 0).setPwr fun p => { p with good := setBit p.good r false }

/-- Deassert a rail's enable. -/
def State.railDisable (s : State) (r : Nat) : State :=
  (s.setBitOf .RAIL_EN_OUT 0 r false).setPwr fun p => { p with good := setBit p.good r false }

/-- A board rail that feeds a channel of the set (R402). -/
def State.dramRail (s : State) (r : Nat) : Bool :=
  decide (6 ≤ r) && (s.rdi .DRAM_CH r &&& s.rd .CH_ACTIVE) != 0

/-- The channels a DRAM rail feeds. -/
def State.railChans (s : State) (r : Nat) : List Nat :=
  (List.range 12).filter fun c => bit (s.rdi .DRAM_CH r) c && bit (s.rd .CH_ACTIVE) c

/-- REACTION in force: RETRY and GROUP count as SYSTEM on a rail that the drain needs or that is a DRAM rail
(R406). -/
def State.reaction (s : State) (r : Nat) : Nat :=
  let x := s.rdi .REACTION r
  if (x = 1 ∨ x = 2) && (s.fli .DRAIN_NEED r || s.dramRail r) then 3 else x

/-- Fields whose write rule looks at another field (R490, R68, R179, R406), stored after the others of a write. -/
def lateFlds : List Fld := [.WQ_LO, .GC_HI_BLK, .CCAL_LO_MV, .CEIL_FRAMES, .DWELL_US, .REACTION]

/-- Fields of the rail table (R451). -/
def railFlds : List Fld :=
  [.EN, .UP_STEP, .DOWN_STEP, .PWR_RAIL_CFG_GROUP, .REACTION, .DRAIN_NEED, .PMBUS_EN, .PMBUS_ADDR, .PMBUS_PAGE, .DRAM_CH,
   .DWELL_US, .CHATTER_LIMIT, .RAMP_TIMEOUT_US, .DEGLITCH_US]

/-- Store v in an RW field by the write rules that need more than the field itself: rules against another field
(R490), fields of rails 00 to 05 that cannot be written (R398), RETRY and GROUP stored as SYSTEM (R406), and ID_SIDE
once objects exist (R195). CCAL_LO_MV stores 65,535 where floor and hysteresis exceed its 16 bits (log entry 25). -/
def State.storeFld (s : State) (f : Fld) (i v : Nat) : State :=
  match f with
  | .WQ_LO => s.wri f i (min v (s.rdi .WQ_HI i))
  | .GC_HI_BLK => s.wri f i (max v (s.rdi .GC_LO_BLK i))
  | .CCAL_LO_MV => s.wri f i (if v = 0 then 0 else max v (min 65535 (s.rdi .HOLDUP_FLOOR_MV i + s.rdi .HOLDUP_HYST_MV i)))
  | .CEIL_FRAMES => s.wri f i (max v (s.rdi .FLOOR_FRAMES i))
  | .DWELL_US =>
    let r := s.rdi .RAMP_TIMEOUT_US i
    s.wri f i (if r ≤ max 1 v then r / 2 else v)
  | .EN | .DRAIN_NEED => if i < 6 then s else s.wri f i v
  | .REACTION =>
    if i < 6 then s
    else s.wri f i (if (v = 1 ∨ v = 2) && (s.fli .DRAIN_NEED i || s.dramRail i) then 3 else v)
  | .ID_SIDE =>
    if s.rd .OBJ_COUNT = 0 ∨ v = s.rdi f i then s.wri f i v else s.record clsWarn 0 195 (item 6 0xB0000)
  | _ => s.wri f i v

/-- A rail counts as good for R400: good, failed under IGNORE, or kept down. -/
def State.railDone (s : State) (r : Nat) : Bool := s.railGood r || bit s.pwr.ign r || bit s.pwr.kept r

/-- The enabled rails of a phase. -/
def State.phaseRails (s : State) : List Nat :=
  (if s.rd .SEQ_STATE = seqCore then coreRails else boardRails).filter fun r => s.fli .EN r

/-- The lowest UP_STEP of the rails that a test accepts. -/
def State.lowStep (s : State) (l : List Nat) (p : Nat → Bool) : Option Nat := ((l.filter p).map (s.rdi .UP_STEP ·)).min?

/-- Enable the rails of one up step (R400); rails kept down stay so. -/
def State.stepUp (s : State) (l : List Nat) (n : Nat) : State :=
  (s.each (l.filter fun r => s.rdi .UP_STEP r == n && !bit s.pwr.kept r && !s.railOn r) State.railEnable).wr .UP_STEP_NOW n

/-! ### Down-sequence (R403, R411) -/

/-- The order of a down-sequence: DOWN_STEP, or after a stopped up-sequence the board's then the core's UP_STEP. -/
def State.downKey (s : State) (r : Nat) : Nat :=
  if s.pwr.byUp then s.rdi .UP_STEP r + (if r < 6 then 0 else 16) else s.rdi .DOWN_STEP r

/-- The rails of the highest step that are still up go down together. -/
def State.stepDown (s : State) : State :=
  let up := allRails.filter s.railOn
  match (up.map s.downKey).max? with
  | none => s
  | some k =>
    (s.each (up.filter fun r => s.downKey r == k) State.railDisable).wr .DOWN_STEP_NOW k

/-- Of the rails being taken down while the rest run on, those of the highest DOWN_STEP go down together (R402, R403,
R405). -/
def State.dropStep (s : State) : State :=
  let up := s.pwr.drop.filter s.railOn
  match (up.map (s.rdi .DOWN_STEP ·)).max? with
  | none => s.setPwr fun p => { p with drop := [] }
  | some k =>
    let s' := (s.each (up.filter fun r => s.rdi .DOWN_STEP r == k) State.railDisable).wr .DOWN_STEP_NOW k
    s'.setPwr fun p => { p with drop := up.filter fun r => s.rdi .DOWN_STEP r != k }

/-- Take rails down until the next up-sequence (R402, R405). -/
def State.dropRails (s : State) (l : List Nat) : State :=
  (s.setPwr fun p => { p with kept := l.foldl (fun k x => setBit k x true) p.kept, drop := (p.drop ++ l).eraseDups }).dropStep

/-- MIN_OFF begins: the fabric has lost its power. -/
def State.minOff (s : State) : State :=
  let s := ((s.fabricLost.wr .SEQ_STATE seqMinOff).wr .UP_STEP_NOW 0).wr .DOWN_STEP_NOW 0
  s.setPwr fun p => { p with good := 0, kept := 0, ign := 0, again := [], drop := [], rdyUp := false, syncing := false
                             synced := false, byUp := false, domRamp := [], domWait := [], hot := false }

/-- A down-sequence begins from the present state (R403): WHISTLE_N is pulled low when the sync was done (R409),
every Pn_RDY and ALERT_N are released. With no rail up MIN_OFF begins at once. -/
def State.goDown (s : State) (byUp : Bool) : State :=
  if s.rd .SEQ_STATE = seqOff ∨ 5 ≤ s.rd .SEQ_STATE then s
  else
    let s := s.each (List.range 4) fun s p => s.setRdy p false
    let s := (s.setf .ALERT_OUT false).when (s.pwr.synced && s.fl .WHISTLE_EN) fun s =>
      (s.setf .WHISTLE_OUT true).setf .WHISTLE_IN true
    let s := (s.wr .SEQ_STATE seqDown).wr .RAIL_RETRYING 0
    let s := s.setPwr fun p => { p with byUp := byUp, syncing := false, drop := [] }
    if allRails.any s.railOn then s.stepDown else s.minOff

/-- A down-sequence with every DOWN_DELAY_US taken as 0 (R407). -/
def State.crashDown (s : State) : State :=
  let s := s.goDown false
  if s.rd .SEQ_STATE = seqDown then (s.each allRails State.railDisable).minOff else s

/-- DOWN_STEP_DELAY (R403): of a down-sequence, or of rails taken down alone (R402, R405). -/
def execDownStepDelay (s : State) : Out :=
  if s.rd .SEQ_STATE ≠ seqDown then .next (if s.pwr.drop.isEmpty then s else s.dropStep)
  else .next (if allRails.any s.railOn then s.stepDown else s.minOff)

/-! ### Up-sequence (R399, R400, R409) -/

/-- An up-sequence begins: the copy's values for rails 00 to 05 take effect (R399), WHISTLE_N is held low while
WHISTLE_EN is set, and the first core step is enabled. -/
def State.upSequence (s : State) : State :=
  let s := s.each (s.pwr.corePend.filter fun x => railFlds.contains x.1) fun s x => s.storeFld x.1 x.2.1 x.2.2
  let s := s.setPwr fun p => { p with corePend := [], good := 0, kept := 0, ign := 0, again := [], drop := [], rdyUp := false
                                      syncing := false, synced := false, toLock := false }
  let s := (s.wr .SEQ_STATE seqCore).setf .ON_LATCHED false
  let s := (s.setf .WHISTLE_OUT (s.fl .WHISTLE_EN)).setf .WHISTLE_IN (s.fl .WHISTLE_EN)
  match s.lowStep s.phaseRails fun _ => true with
  | some n => s.stepUp s.phaseRails n
  | none => s

/-- The board phase goes on once its present step is good: the sync first when the next step lies above
WH_SYNC_STEP or none is left (R400, R409), then the next step, or ON. -/
def State.boardNext (s : State) : State :=
  let l := s.phaseRails
  let next := s.lowStep l fun r => !s.railOn r && !s.railDone r
  let sync : Bool := s.fl .WHISTLE_EN && !s.pwr.synced && (match next with
    | some n => decide (s.rd .WH_SYNC_STEP < n)
    | none => true)
  if sync then (s.setf .WHISTLE_OUT false).setPwr fun p => { p with syncing := true }
  else match next with
    | some n => s.stepUp l n
    | none => s.wr .SEQ_STATE seqOn

/-- Every enabled rail of the phase that is on is good (R400). -/
def State.stepGood (s : State) : Bool := s.phaseRails.all fun r => !s.railOn r || s.railDone r

/-- A rail of the board phase has become good or dropped out: with no step left the phase ends without a
further delay (R400). -/
def State.boardCheck (s : State) : State :=
  if s.rd .SEQ_STATE = seqBoard && !s.pwr.syncing && s.stepGood && s.phaseRails.all fun r => s.railOn r || s.railDone r
  then s.boardNext else s

/-- The board phase begins (R399). -/
def State.boardPhase (s : State) : State :=
  let s := s.wr .SEQ_STATE seqBoard
  if s.phaseRails.any fun r => !s.railOn r && !s.railDone r then s.boardNext else s.boardCheck

/-- UP_STEP_DELAY (R400). -/
def execUpStepDelay (s : State) : Out :=
  if s.rd .SEQ_STATE = seqCore && s.stepGood then
    .next (match s.lowStep s.phaseRails fun r => !s.railOn r && !s.railDone r with
      | some n => s.stepUp s.phaseRails n
      | none => s)
  else if s.rd .SEQ_STATE = seqBoard && s.stepGood && !s.pwr.syncing then .next s.boardNext
  else .next s

/-- RAIL_GOOD (R401, R406): a rail under retry keeps ATTEMPTS. -/
def execRailGood (r : Nat) (s : State) : Out :=
  if 24 ≤ r || !s.railOn r || s.railGood r then .next s
  else
    let retried := bit (s.rd .RAIL_RETRYING) r
    let s := s.setBitOf .RAIL_RETRYING 0 r false
    let s := s.setPwr fun p => { p with
      good := setBit p.good r true
      again := if retried then mput p.again (r, 0) (s.rd .OP_TIME) else p.again }
    .next s.boardCheck

/-- CONFIG_WAIT_TIMEOUT (R399). -/
def execConfigWaitTimeout (s : State) : Out :=
  if s.rd .SEQ_STATE ≠ seqAwait then .next s
  else .next ((s.record clsWarn 0 399 []).boardPhase)

/-- MIN_OFF_END (R403, R408, R411): LOCKOUT after a SYSTEM reaction, else an up-sequence while PWR_REQ is
asserted. WHISTLE_N is released. -/
def execMinOffEnd (s : State) : Out :=
  if s.rd .SEQ_STATE ≠ seqMinOff then .next s
  else
    let s := ((s.setf .WHISTLE_OUT false).setf .WHISTLE_IN false).setf .ON_LATCHED false
    .next (if s.pwr.toLock then (s.wr .SEQ_STATE seqLock).setPwr fun p => { p with toLock := false }
      else if s.fl .PWR_REQ_IN then s.upSequence else s.wr .SEQ_STATE seqOff)

/-- WHISTLE_SYNC (R409). -/
def execWhistleSync (s : State) : Out :=
  if !s.pwr.syncing || s.rd .SEQ_STATE ≠ seqBoard then .next s
  else
    let s := (s.setf .WHISTLE_IN false).setPwr fun p => { p with syncing := false, synced := true }
    .next s.boardNext

/-! ### First-fault record (R413) -/

/-- PHASE of Table 16.4; none while no phase it names is under way. -/
def State.ffPhase (s : State) : Option Nat :=
  let q := s.rd .SEQ_STATE
  if s.draining then some 3
  else if q = seqCore then some 0
  else if q = seqAwait ∨ q = seqBoard then some 1
  else if q = seqOn then some 2 else none

/-- The words of Table 16.4 for rail r (31 for a cause without a rail). -/
def State.ffWords (s : State) (r cause phase : Nat) : List Nat :=
  let pm := (mget s.pwr.pmbus (r, 0)).getD (0, 0, 0)
  let w0 := s.rd .POWER_CYCLES + r * 2 ^ 32 + cause * 2 ^ 37 + phase * 2 ^ 41
    + (if r < 24 then s.rdi .REACTION r else 3) * 2 ^ 43 + (if r < 24 then s.rdi .CHATTER_NOW r else 0) * 2 ^ 45
  let w3 := s.rd .RAIL_EN_OUT + s.pwr.good * 2 ^ 24 + s.rd .HOLDUP_MV * 2 ^ 48
  let ws := [w0, s.rd .OP_TIME, s.rd .TICK_NUMBER, w3, pm.1 + pm.2.1 * 2 ^ 16 + pm.2.2 * 2 ^ 32, 0, 0]
  ws ++ [crc32c (ws.flatMap (toBytes 8))]

/-- The first failure since FF_VALID was cleared is captured and written to both devices. The spec names no PHASE
for a failure outside its four phases: a free value there (log entry 6). -/
def State.captureFf (s : State) (r cause : Nat) : State :=
  if s.fl .FF_VALID then s
  else
    let ph := s.ffPhase
    let w := s.ffWords r cause (ph.getD (s.freeVal % 4))
    let s := if ph.isNone then s.freeNext else s
    let s := s.each (List.range 8) fun s i => s.wri .FF i (w.getD i 0)
    (s.setf .FF_VALID true).setPwr fun p => { p with ffA := w, ffB := w }

/-- FF_CLR (R413). -/
def State.ffClr (s : State) : State :=
  let s := s.each (List.range 8) fun s i => s.wri .FF i 0
  (s.setf .FF_VALID false).setPwr fun p => { p with ffA := [], ffB := [] }

/-- FF_CLR (R413). -/
def execFfClr (s : State) : Out := .next (s.barWrite State.ffClr)

/-! ### Reactions (R405 to R408) -/

/-- Step 6 of the drain under way takes the rails down whatever its trigger (R407, R410); a drain that has ended and
waits for SYS_RST_N with the rails up takes them down now. -/
def State.downAtEnd (s : State) : State :=
  if s.draining && s.drain.step == 7 then s.goDown false
  else { s with drain := { s.drain with downAfter := true } }

/-- A SYSTEM reaction without a rail of the drain (R407): before any Pn_RDY a down-sequence, else the drain;
LOCKOUT follows. -/
def State.systemDown (s : State) : State :=
  let s := s.setPwr fun p => { p with toLock := true }
  if !s.pwr.rdyUp && !s.draining then s.goDown false
  else (s.trigger .rail false).downAtEnd

/-- A SYSTEM reaction of cause 8, 9 or 10, rail field 31. -/
def State.systemOther (s : State) (cause : Nat) : State :=
  let rule := if cause = 8 then 409 else if cause = 9 then 410 else 484
  let s := (s.captureFf 31 cause).count .FAULT_CNT 0 .PWR_FLAGS_CNT_OVF 0 1
  let s := (s.record clsFault 0 rule (item 5 31 ++ item 8 cause)).alert blkPWR
  s.systemDown

/-- A SYSTEM reaction of rail r (R405, R407). -/
def State.systemRail (s : State) (r : Nat) : State :=
  if !s.pwr.rdyUp && !s.draining then s.systemDown
  else if s.fli .DRAIN_NEED r then
    let s := s.setPwr fun p => { p with toLock := true, synced := true }
    s.crashDown
  else if s.dramRail r then
    let s := s.setPwr fun p => { p with toLock := true }
    let s := s.each (s.railChans r) fun s c =>
      if bit (s.rd .CH_FAIL) c then s else (s.setBitOf .CH_FAIL 0 c true).fatal blkDRC 269 (item 4 c)
    (s.trigger .rail true).downAtEnd
  else s.systemDown

/-- GROUP (Table 16.2): every rail of the group goes down in the order of R403 and stays down until the next up-sequence. -/
def State.groupDownRails (s : State) (r : Nat) : State :=
  let l := allRails.filter fun x => s.fli .EN x && s.rdi .PWR_RAIL_CFG_GROUP x == s.rdi .PWR_RAIL_CFG_GROUP r
  ((s.each l fun s x => s.setBitOf .RAIL_RETRYING 0 x false).dropRails l).boardCheck

/-- RETRY (R406): the enable falls; ATTEMPTS restarts unless this failure continues a retry or comes within 1 s
(25,000,000 units of OP_TIME) of the rail's return. After the third failed attempt the rail escalates to GROUP. -/
def State.retryRail (s : State) (r : Nat) : State :=
  let goes : Bool := bit (s.rd .RAIL_RETRYING) r || (match mget s.pwr.again (r, 0) with
    | some t => decide (s.rd .OP_TIME ≤ t + 25000000)
    | none => false)
  let s := s.railDisable r
  let s := if goes then s else s.wri .ATTEMPTS r 0
  if 3 ≤ s.rdi .ATTEMPTS r then s.groupDownRails r else s.setBitOf .RAIL_RETRYING 0 r true

/-- A rail fails (R405): it is counted and recorded, and takes its reaction unless a down-sequence or MIN_OFF is
under way (Table 16.3). -/
def State.railFail (s : State) (r cause : Nat) : State :=
  let s := s.captureFf r cause
  let s := (s.setBitOf .RAIL_FAILED 0 r true).wri .LAST_CAUSE r cause
  let s := s.count .FAULT_CNT 0 .PWR_FLAGS_CNT_OVF 0 1
  let s := (s.record clsFault 0 405 (item 5 r ++ item 8 cause)).alert blkPWR
  let q := s.rd .SEQ_STATE
  if q = seqOff ∨ 5 ≤ q then s
  else if s.reaction r = 0 then
    (s.setPwr fun p => { p with ign := if s.rd .SEQ_STATE = seqOn then p.ign else setBit p.ign r true }).boardCheck
  else if s.reaction r = 1 then s.retryRail r
  else if s.reaction r = 2 then s.groupDownRails r
  else s.systemRail r

/-- RAIL_RETRY (R406). -/
def execRailRetry (r : Nat) (s : State) : Out :=
  if 24 ≤ r || !bit (s.rd .RAIL_RETRYING) r || s.railOn r || 3 ≤ s.rdi .ATTEMPTS r then .next s
  else .next ((s.wri .ATTEMPTS r (s.rdi .ATTEMPTS r + 1)).railEnable r)

/-- RAIL_PG_FALL (R401, R404): a fall before the rail is good restarts its dwell; a low that outlasts the deglitch
of a good rail fails it. -/
def execRailPgFall (r : Nat) (s : State) : Out :=
  if 24 ≤ r || !s.railOn r then .next s
  else if s.railGood r then
    .next ((s.setPwr fun p => { p with good := setBit p.good r false }).railFail r 3)
  else
    let s := (s.wri .CHATTER_NOW r (s.rdi .CHATTER_NOW r + 1)).count .CHATTER_CNT 0 .PWR_FLAGS_CNT_OVF 0 2
    .next (if s.rdi .CHATTER_LIMIT r < s.rdi .CHATTER_NOW r then s.railFail r 2 else s)

/-- RAMP_TIMEOUT (R401). -/
def execRampTimeout (r : Nat) (s : State) : Out :=
  if 24 ≤ r || !s.railOn r || s.railGood r || bit s.pwr.ign r then .next s else .next (s.railFail r 1)

/-- PMBUS_POLL (R404): `ans` is STATUS_WORD, READ_VOUT and READ_IOUT, none when the regulator does not answer; bits 0
to 3 of `faults` say IOUT_OC, VOUT_OV, VOUT_UV and TEMPERATURE. One record per rail per minute (1,500,000,000 units
of OP_TIME). -/
def execPmbusPoll (r : Nat) (ans : Option (Nat × Nat × Nat)) (faults : Nat) (s : State) : Out :=
  if 24 ≤ r || !s.fli .PMBUS_EN r then .next s
  else match ans with
    | none =>
      let s := s.setf .PMBUS_ERR true
      let due : Bool := match mget s.pwr.pmErr (r, 0) with
        | some t => decide (t + 1500000000 ≤ s.rd .OP_TIME)
        | none => true
      .next (if due then
        (s.setPwr fun p => { p with pmErr := mput p.pmErr (r, 0) (s.rd .OP_TIME) }).record clsError 0 404 (item 5 r) else s)
    | some a =>
      let s := s.setPwr fun p => { p with pmbus := mput p.pmbus (r, 0) (a.1 % 2 ^ 16, a.2.1 % 2 ^ 16, a.2.2 % 2 ^ 16) }
      let cause := if bit faults 0 then 4 else if bit faults 1 then 5 else if bit faults 2 then 6
        else if bit faults 3 then 7 else 0
      .next (if cause = 0 || !s.railOn r then s else s.railFail r cause)

/-! ### WHISTLE_N and die temperature -/

/-- WHISTLE_SYNC_TIMEOUT (R409). -/
def execWhistleSyncTimeout (s : State) : Out :=
  if !s.pwr.syncing || s.rd .SEQ_STATE ≠ seqBoard then .next s else .next (s.systemOther 8)

/-- WHISTLE (R409, R410). -/
def execWhistle (s : State) : Out :=
  if !s.fl .WHISTLE_EN || !s.pwr.synced || s.fl .WHISTLE_OUT then .next s
  else
    let s := (s.setf .WHISTLE_IN true).count .WHISTLE_CNT 0 .PWR_FLAGS_CNT_OVF 0 3
    .next (if s.draining then s.downAtEnd
      else if s.rd .SEQ_STATE = seqOn then s.systemOther 9
      else if s.rd .SEQ_STATE = seqBoard then s.goDown false else s)

/-- DIE_OVER_TEMPERATURE (R484). -/
def execDieOverTemperature (s : State) : Out :=
  let q := s.rd .SEQ_STATE
  if q = seqOff ∨ 5 ≤ q then .next s else .next (s.systemOther 10)

/-! ### Requests and pins (R411, Table 16.3) -/

/-- The supervisor is in the core or board phase, or ON before any Pn_RDY has risen, and no drain runs. -/
def State.starting (s : State) : Bool :=
  let q := s.rd .SEQ_STATE
  !s.draining && (q == seqCore || q == seqAwait || q == seqBoard || (q == seqOn && !s.pwr.rdyUp))

/-- PWR_REQ_ASSERT (R408, R411): `longOff` says that PWR_REQ had been deasserted for MIN_OFF_MS. -/
def execPwrReqAssert (longOff : Bool) (s : State) : Out :=
  if s.fl .PWR_REQ_IN then .next s
  else
    let s := s.setf .PWR_REQ_IN true
    let q := s.rd .SEQ_STATE
    .next (if q = seqOff then s.upSequence
      else if q = seqLock then (if longOff then s.upSequence else s)
      else if s.draining ∨ q = seqDown ∨ q = seqMinOff then s.setf .ON_LATCHED true else s)

/-- PWR_REQ_DEASSERT (Table 16.3). -/
def execPwrReqDeassert (s : State) : Out :=
  if !s.fl .PWR_REQ_IN then .next s
  else
    let s := s.setf .PWR_REQ_IN false
    .next (if s.starting then s.goDown true
      else if s.rd .SEQ_STATE = seqOn then (s.trigger .pwrReq false).downAtEnd
      else s)

/-- PFAIL_N_FALL (R77, Table 16.3). -/
def execPfailNFall (s : State) : Out :=
  let s := s.setf .PFAIL_IN true
  .next (if s.starting then s.goDown true
    else if s.draining && s.drain.step == 7 then s.goDown false else s.trigger .pfail false)

/-- PFAIL_N_RISE (R78): a drain in progress runs to its end as on main power. -/
def execPfailNRise (s : State) : Out :=
  .next (s.setf .PFAIL_IN false)

/-- A DRAIN_NOW write (R77). -/
def State.drainNow (s : State) : State := s.trigger .now true

/-- DRAIN_NOW (R77). -/
def execDrainNow (s : State) : Out := .next (s.barWrite State.drainNow)

/-! ### The end of a drain -/

/-- The start-up after a drain that left the rails up (R465): the fabric is reset, the up-sequence meets rails
already on, and each up step passes as its power-good inputs read good. Without a power-down an armed floor comparator
stays armed (R65). -/
def State.startUpRailsUp (s : State) : State :=
  let armed := s.fl .ARMED
  let good := s.pwr.good
  let on := s.rd .RAIL_EN_OUT
  let s := s.fabricLost.upSequence
  ((s.wr .RAIL_EN_OUT on).setf .ARMED armed).setPwr fun p => { p with good := good }

/-- Step 6 of the drain (Table 03.4, R77, R259, R407, R410, R465): the rails go down, or the DIMMs stay in
self-refresh and a start-up follows, at SYS_RST_N's release when that pin is asserted. -/
def State.drainEnd (s : State) : State :=
  if !s.drain.railsUp || s.drain.downAfter then s.goDown false
  else if s.pwr.sysRst then
    { s with drc := { s.drc with selfRef := true }, drain := { s.drain with step := 7 } }
  else s.startUpRailsUp

/-- The flush of step 4c (R423): what is in the ring now, and nothing created later. -/
def State.finalFlush (s : State) : State :=
  let s := { s with dbk := { s.dbk with frozen := some (s.rd .HEAD_SEQ) } }
  let s := s.flushStart
  if s.fl .FLUSH_BUSY then s else s.drainEnd

/-- DRAIN_METADATA_DONE (R55, R69): `v4a` is the store voltage at the end of step 4a and `us` the time since
the trigger. After the loss of a journal line (R313), or before the metadata were loaded, no seal follows: the
Daybook flushes at once. -/
def execDrainMetadataDone (v4a us : Nat) (s : State) : Out :=
  if !(s.draining && s.drain.step == 4) then .next s
  else
    let noSeal : Bool := s.int.journalBad || !s.boot.metaDone
    let s := { s with drain := { s.drain with power := s.drainPower v4a us, step := if noSeal then 6 else 5 } }
    .next (if noSeal then s.finalFlush else s)

/-- VAULT_SEAL_WRITTEN (R55, R69, R423): the drain's content is the vault's, the metadata of step 4a is the
stored one, and the Daybook flushes. -/
def execVaultSealWritten (s : State) : Out :=
  if !(s.draining && s.drain.step == 5) then .next s
  else
    let p := max (s.rd .DRAIN_POWER_MEAS_W) s.drain.power
    let s := s.saveMeta s.md s.mir.solo
    let ix := s.vaultIndex
    let s := { s with
      saved := { s.saved with powerMeas := min p 65535 }
      nfc := { s.nfc with
        seals := s.nfc.seals ++ [Seal.mk s.drain.seq s.drain.count s.drain.power (indexCrc ix)]
        index := ix
        vault := s.nfc.vaultNew.foldl (fun (m : SMap (List (Nat × DLine))) (e : Key × List (Nat × DLine)) => mput m e.1 e.2) s.nfc.vault
        vaultNew := [] }
      drain := { s.drain with step := 6 } }
    .next s.finalFlush

/-- FLUSH_NOW (R423). -/
def execFlushNow (s : State) : Out := .next (s.barWrite State.dbkFlush)

/-- DAYBOOK_FLUSH_DONE (R423, Table 03.4 step 6): `okA` and `okB` say whether the device's program and verify
succeeded. -/
def execDaybookFlushDone (okA okB : Bool) (s : State) : Out :=
  if !s.fl .FLUSH_BUSY then .next s
  else
    let s := s.flushEnd okA okB
    .next (if s.draining && s.drain.step == 6 && !s.fl .FLUSH_BUSY && s.rd .SEQ_STATE == seqOn then s.drainEnd else s)

/-- DAYBOOK_CHECKPOINT (R424). -/
def execDaybookCheckpoint (s : State) : Out := .next (if s.fabricUp then s.checkpoint else s)

/-! ### Internal power domains (R414, R415) -/

/-- DOM_ON of domain d. -/
def State.domOn (s : State) (d : Nat) : Bool := bit (s.rdi .DOM_ON (d / 64)) (d % 64)

/-- Set DOM_ON of domain d. -/
def State.setDom (s : State) (d : Nat) (v : Bool) : State := s.setBitOf .DOM_ON (d / 64) (d % 64) v

/-- A network port carries remote access (R349): it exists, is enabled and is not in the mirror role. -/
def State.netPort (s : State) (p : Nat) : Bool :=
  decide (p < 4) && bit (s.rd .PORT_EN) p && !s.fli .MIRROR p
    && (p == 0 || p == 2 || (if p = 1 then s.fl .E0_SPLIT && !s.fli .MIRROR 0
      else s.fl .E1_SPLIT || (s.fli .MIRROR 2 && s.mir.half)))

/-- Table 16.6: whether the domain's owner keeps it off. -/
def State.domOff (s : State) (d : Nat) : Bool :=
  if d < 16 then !bit (s.rd .SLICE_EN) d
  else if d < 64 then
    let i := d - 16
    !bit (s.rdi .PG_STATE (i / 3)) (i % 3 + 1) && !bit (s.rdi .INV_DONE (i / 3)) (i % 3 + 1)
  else if d < 72 then s.fli .PORT_OFFLINE ((d - 64) / 2)
  else if d < 76 then !(s.fli .MIRROR (d - 72) || s.netPort (d - 72))
  else if d < 88 then !bit (s.rd .CH_ACTIVE) (d - 76) || bit (s.rd .CH_FAIL) (d - 76)
  else if d < 100 then (List.range 3).all fun i => let st := s.rdi .CH_STATE (3 * (d - 88) + i); st == 0 || st == 2
  else if d < 108 then !bit (s.rd .CLUSTER_ACTIVE) (d - 100)
  else !bit (s.rd .CORE_ON) (d - 108)

/-- Domains that wait start ramping while fewer than 2 ramp; none during a drain (R415). -/
def State.domStart (s : State) : State :=
  if s.draining then s
  else
    let n := 2 - s.pwr.domRamp.length
    s.setPwr fun p => { p with domRamp := p.domRamp ++ p.domWait.take n, domWait := p.domWait.drop n }

/-- A domain goes off: its contents are lost, its bit clears. -/
def State.domDown (s : State) (d : Nat) : State :=
  ((s.setDom d false).setPwr fun p => { p with domRamp := without p.domRamp d, domWait := without p.domWait d }).domStart

/-- DOMAIN_SWITCH (R414, R415): the owner requests domain d on or off, by the rule of Table 16.6; a way group or
front-cache domain may also be powered for a test (R438). -/
def execDomainSwitch (d : Nat) (on : Bool) (s : State) : Out :=
  if 112 ≤ d || s.domOff d == on && !(on && s.bst.test == 5 && d == 16 + 3 * s.bst.ch + s.bst.group - 1) then .next s
  else if !on then .next (s.domDown d)
  else if s.draining || s.domOn d || s.pwr.domRamp.contains d || s.pwr.domWait.contains d then .next s
  else .next ((s.setPwr fun p => { p with domWait := p.domWait ++ [d] }).domStart)

/-- DOMAIN_POWER_GOOD (R415). -/
def execDomainPowerGood (d : Nat) (s : State) : Out :=
  if !s.pwr.domRamp.contains d then .next s
  else .next (((s.setDom d true).setPwr fun p => { p with domRamp := without p.domRamp d }).domStart)

/-- DOMAIN_SWITCH_TIMEOUT (R415): the owner then treats the domain as off. -/
def execDomainSwitchTimeout (d : Nat) (s : State) : Out :=
  if !s.pwr.domRamp.contains d then .next s
  else
    let s := (s.domDown d).setf .PWR_STATUS_DOM_FAIL true
    let s := s.setBitOf .PWR_DOM_FAIL_DOM_FAIL (d / 64) (d % 64) true
    .next ((s.record clsError 0 415 (item 7 d)).alert blkPWR)

end Sys2Proof.Machine
end

