-- ==== Sys2Proof/Machine/Cipher.lean ====
section
/-! DEFINITION. Cipher clusters, randomness, teller pages and the SPDM responder (15_cipher_and_identity.md), with
the requests that write firmware images and configuration copies (R392, R452). -/

namespace Sys2Proof.Machine

/-! ### Clusters and randomness -/

/-- A CLUSTER_FENCE write (R378, R491): CLUSTER_ACTIVE follows, or FENCE_ERR when no active cluster would be left. -/
def State.fenceWrite (s : State) (v : Nat) : State :=
  let act := 255 - ((v % 256) ||| s.rd .CLUSTER_FAULT)
  if v % 256 = s.rd .CLUSTER_FENCE then s
  else if act = 0 then s.setf .FENCE_ERR true
  else (s.wr .CLUSTER_FENCE v).wr .CLUSTER_ACTIVE act

/-- CLUSTER_FENCE_WRITE (R378). -/
def execClusterFenceWrite (v : Nat) (s : State) : Out := .next (s.barWrite (·.fenceWrite v))

/-- TRNG_HEALTH_TEST (R381). -/
def execTrngHealthTest (pass : Bool) (s : State) : Out :=
  .next (if pass then s.setf .TRNG_FAIL false
    else if s.fl .TRNG_FAIL then s
    else ((s.setf .TRNG_FAIL true).record clsError 0 381 []).alert blkCIP)

/-- DRBG_RESEED (R380, R381). -/
def execDrbgReseed (s : State) : Out :=
  .next (if s.fl .TRNG_FAIL then s else { s with sec := { s.sec with reseeds := s.sec.reseeds + 1 } })

/-- 64 fresh bits of the DRBG (log entry 8). -/
def State.drbg (s : State) : State × Nat :=
  ({ s.freeNext with sec := { s.sec with draws := s.sec.draws + 1 } }, s.freeVal % 2 ^ 64)

/-- The value of a read of TL_RANDOM: 0 while TRNG_FAIL is set (R380, R381). -/
def State.tlRandom (s : State) : State × Nat := if s.fl .TRNG_FAIL then (s, 0) else s.drbg

/-- TL_RANDOM_READ (R380, R389) by the function of LD j on link k, of its own domain's page. -/
def execTlRandomRead (link ld : Nat) (s : State) : Out :=
  let fn := ldIx link ld
  if !s.fli .LD_EN fn then .next (s.send (.regRead fn 0 0))
  else
    let x := s.tlRandom
    .next (x.1.send (.regRead fn (0x800010 + 0x1000 * s.rdi .PRT_LD_CFG_DOMAIN fn) x.2))

/-! ### Teller commands (R390) -/

/-- The blob words written to domain d's page. -/
def State.blobWord (s : State) (d i : Nat) : Nat := (mget s.sec.blob (d, i)).getD 0

/-- Unwrap the blob of page d under its DKEK for a slot and a mode (Table 15.4). -/
def State.unwrap (s : State) (d k mode dkek : Nat) : Option (List Nat) :=
  let w := s.blobWord d
  gcmOpen (toBytes 32 dkek) (toBytes 8 (w 0) ++ toBytes 4 (w 1)) (toBytes 1 d ++ toBytes 2 k ++ toBytes 1 mode)
    ((List.range 8).flatMap fun i => toBytes 8 (w (2 + i))) (toBytes 8 (w 10) ++ toBytes 8 (w 11))

/-- A teller command ends: RESULT, and the blob clears. -/
def State.tellerEnd (s : State) (d k result : Nat) : State :=
  let s := (s.wri .SLOT d k).wri .TL_CMD_RESULT d result
  { s with sec := { s.sec with blob := mfilter s.sec.blob fun x _ => x.1 != d } }

/-- RESULT 1 of Table 15.3. -/
def State.tellerBarred (s : State) (d k : Nat) : Bool := k == 0 || (s.rdi .OWNER k != d && d != 0)

/-- LOAD_XTS (mode 1) or LOAD_GCM (mode 2) of page d into slot k (R390, R382). -/
def State.tellerLoad (s : State) (d k mode : Nat) : State :=
  if s.tellerBarred d k then s.tellerEnd d k 1
  else if s.rdi .REFS k ≠ 0 ∧ (mode = 1 ∨ s.rdi .MODE k = 1) then s.tellerEnd d k 2
  else match mget s.sec.dkek (d, 0) with
    | none => s.tellerEnd d k 3
    | some _ =>
      let s := s.reshareKek d
      match s.unwrap d k mode (s.domKek d) with
      | none => (s.count .GCM_FAIL_CNT 0 .CIP_FLAGS_CNT_OVF 0 0).tellerEnd d k 4
      | some x =>
        if mode = 2 && (x.drop 32).any (· != 0) then s.tellerEnd d k 4
        else
          let key := ofBytes (if mode = 1 then x else x.take 32)
          ((s.wri .MODE k mode).setSlotKey k key).tellerEnd d k 0

/-- ZEROIZE of page d on slot k. -/
def State.tellerZero (s : State) (d k : Nat) : State :=
  if s.tellerBarred d k then s.tellerEnd d k 1
  else if s.rdi .REFS k ≠ 0 then s.tellerEnd d k 2
  else ((s.wri .MODE k 0).clearSlotKey k).tellerEnd d k 0

/-- QUERY of page d on slot k. -/
def State.tellerQuery (s : State) (d k : Nat) : State :=
  ((s.wri .Q_MODE d (s.rdi .MODE k)).wri .Q_REFS d (s.rdi .REFS k)).tellerEnd d k 0

/-- A teller page and a slot exist. -/
def tellerAt (d k : Nat) : Bool := decide (d < 256) && decide (k < 4096)

/-- LOAD_XTS (R390). -/
def execLoadXts (d slot : Nat) (s : State) : Out :=
  .next (s.barWrite fun s => if tellerAt d slot then s.tellerLoad d slot 1 else s)

/-- LOAD_GCM (R390). -/
def execLoadGcm (d slot : Nat) (s : State) : Out :=
  .next (s.barWrite fun s => if tellerAt d slot then s.tellerLoad d slot 2 else s)

/-- ZEROIZE (R390). -/
def execZeroize (d slot : Nat) (s : State) : Out :=
  .next (s.barWrite fun s => if tellerAt d slot then s.tellerZero d slot else s)

/-- QUERY (R390). -/
def execQuery (d slot : Nat) (s : State) : Out :=
  .next (s.barWrite fun s => if tellerAt d slot then s.tellerQuery d slot else s)

/-- An SVN_COMMIT write (R392): fuses burn until their count equals FW_SVN. -/
def State.svnCommit (s : State) : State := s.wr .SVN_FUSE (max (s.rd .SVN_FUSE) (min 64 (s.rd .FW_SVN)))

/-- SVN_COMMIT (R392). -/
def execSvnCommit (s : State) : Out := .next (s.barWrite State.svnCommit)

/-! ### Images (R391, R392) -/

/-- An image is valid (R391). -/
def State.imgValid (s : State) (x : Img) : Bool :=
  x.sound && decide (x.root < 4) && !bit (s.rd .ROOT_REVOKED) x.root && decide (s.rd .SVN_FUSE ≤ x.svn)

/-- The device whose image of a kind is used (Table 15.5): the one that STRAP_BOOT_SPI names, or the other; a device
that failed SPI_NET is not read. -/
def State.bootDev (s : State) (kind : Nat) : Option (Nat × Img) :=
  let f := s.rd .BOOT_SPI
  [f, 1 - f].findSome? fun dev =>
    if s.fl (if dev = 0 then .SPI_A_BAD else .SPI_B_BAD) then none
    else (mget s.boot.imgs (dev, kind)).bind fun x => if s.imgValid x then some (dev, x) else none

/-- Record measurement n. -/
def State.measure (s : State) (n v : Nat) : State := { s with sec := { s.sec with meas := mput s.sec.meas (n, 0) v } }

/-- Steps 1 to 3 of Table 15.5, or recovery (R392). -/
def State.bootImages (s : State) : State :=
  let s := s.measure 1 (Config.cipher 1 [])
  match s.bootDev 0, s.bootDev 1 with
  | some a, some b =>
    let s := (((s.wr .BOOT_DEV a.1).wr .FW_DEV b.1).wr .FW_SVN b.2.svn).wr .ROOT_KEY b.2.root
    let s := (s.measure 2 a.2.digest).measure 3 b.2.digest
    { s with sec := { s.sec with recovery := false } }
  | _, _ => ({ s with sec := { s.sec with recovery := true } }.record clsFault 0 392 []).alert blkSEC

/-! ### SPDM (R393, R394): request codes as SPDM 1.2 numbers them -/

/-- An SPDM error response: Busy is 3, InvalidRequest 1, UnexpectedRequest 4, Unspecified 5. -/
def State.spdmErr (s : State) (op code : Nat) : State := s.send (.spdm op 0x7F [code])

/-- An SPDM vendor-defined request answered with success. -/
def State.spdmOk (s : State) (words : List Nat) : State := s.send (.spdm 0xFE 0x7E words)

/-- Measurement n (Table 15.6); the digests of 5 and 6 are taken when asked for. -/
def State.measurement (s : State) (n : Nat) : Nat :=
  if n = 5 then Config.cipher 5 [s.rd .SVN_FUSE, s.rd .FW_SVN]
  else if n = 6 then Config.cipher 6 [s.rd .ROOT_REVOKED, s.sec.ownerHash]
  else (mget s.sec.meas (n, 0)).getD 0

/-- GET_MEASUREMENTS (R394): index 255 asks for all; the last word is the alias key's signature over them and the
nonce. -/
def execGetMeasurements (index nonce : Nat) (s : State) : Out :=
  if !s.fabricUp then .next s
  else
    let ns := if index = 255 then [1, 2, 3, 4, 5, 6] else if 1 ≤ index ∧ index ≤ 6 then [index] else []
    let ws := ns.flatMap fun n => [n, s.measurement n]
    .next (if ns = [] then s.spdmErr 0xE0 1 else s.send (.spdm 0xE0 0x60 (ws ++ [Config.cipher 8 (nonce :: ws)])))

/-- CHALLENGE (R393): answered for certificate slots 0 and 1 with a signature by the alias key. -/
def execChallenge (slot nonce : Nat) (s : State) : Out :=
  if !s.fabricUp then .next s
  else .next (if 1 < slot then s.spdmErr 0x83 1 else s.send (.spdm 0x83 0x03 [slot, Config.cipher 9 [slot, nonce]]))

/-- GET_CERTIFICATE (R393): slot 0 holds the chain Isasin root, Krovnu intermediate, DeviceID; slot 1 adds the alias
certificate, which binds measurement 3. -/
def execGetCertificate (slot : Nat) (s : State) : Out :=
  if !s.fabricUp then .next s
  else
    let chain := [Config.cipher 10 [0], Config.cipher 10 [1], Config.cipher 10 [2, s.rd .DEVICE_UID]]
    .next (if slot = 0 then s.send (.spdm 0x82 0x02 chain)
      else if slot = 1 then s.send (.spdm 0x82 0x02 (chain ++ [Config.cipher 10 [3, s.measurement 3]]))
      else s.spdmErr 0x82 1)

/-- KEY_EXCHANGE (R393, R381): `owner` says that the requester authenticates with a chain rooted in
OWNER_KEY_HASH. -/
def execKeyExchange (owner : Bool) (s : State) : Out :=
  if !s.fabricUp then .next s
  else if s.fl .TRNG_FAIL then .next (s.spdmErr 0xE4 5)
  else if 8 ≤ s.sec.sessions.length then .next (s.spdmErr 0xE4 3)
  else
    let id := s.sec.sessions.length
    let s := { s with sec := { s.sec with sessions := s.sec.sessions ++ [(id, owner && s.fl .OWNER_SET)] } }
    .next ((s.wr .SESSIONS s.sec.sessions.length).drbg.1.send (.spdm 0xE4 0x64 [id]))

/-- A session is open and its requester authenticated as the owner. -/
def State.ownerSession (s : State) (sess : Nat) : Bool := s.fabricUp && s.sec.sessions.contains (sess, true)

/-- KEK_SET of a domain in its teller page and in SEC. -/
def State.kekSet (s : State) (d : Nat) (v : Bool) : State :=
  (s.setfi .TL_STATE_KEK_SET d v).setBitOf .SEC_DKEK_SET_KEK_SET (d / 64) (d % 64) v

/-- SET_DOMAIN_KEK (R388). -/
def execSetDomainKek (sess d kek : Nat) (s : State) : Out :=
  if !s.ownerSession sess || 256 ≤ d then .next (s.when s.fabricUp (·.spdmErr 0xFE 4))
  else .next (((s.setKek d (kek % 2 ^ 256)).kekSet d true).spdmOk [d])

/-- CLEAR_DOMAIN_KEK (R388): the slots stay loaded. -/
def execClearDomainKek (sess d : Nat) (s : State) : Out :=
  if !s.ownerSession sess || 256 ≤ d then .next (s.when s.fabricUp (·.spdmErr 0xFE 4))
  else .next (((s.clearKek d).kekSet d false).spdmOk [d])

/-- WRITE_RECOVERY_IMAGE (R392): a valid image of `kind` (0 stage 1, 1 service firmware) goes to both SPI devices; a
processor in recovery then boots again. -/
def execWriteRecoveryImage (sess kind : Nat) (x : Img) (s : State) : Out :=
  if !s.ownerSession sess then .next (s.when s.fabricUp (·.spdmErr 0xFE 4))
  else if 1 < kind || !s.imgValid x then .next (s.spdmErr 0xFE 1)
  else
    let s := { s with boot := { s.boot with imgs := mput (mput s.boot.imgs (0, kind) x) (1, kind) x } }
    let s := s.spdmOk [kind]
    .next (if s.sec.recovery then s.bootImages else s)

/-! ### Configuration copies (R449, R452) -/

/-- A copy is valid (R449). -/
def State.copyValid (s : State) (c : Copy) : Bool :=
  c.sound && (c.target == 0 || c.target == s.rd .DEVICE_UID) && c.seq != 0 && decide (s.boot.floor ≤ c.seq)

/-- A stored copy, if valid. -/
def State.validCopy (s : State) (c : Option Copy) : Option Copy := c.bind fun x => if s.copyValid x then some x else none

/-- The target of a copy write: false A, true B (R452 step 2). -/
def State.copyTarget (s : State) : Bool :=
  match s.validCopy s.boot.copyA, s.validCopy s.boot.copyB with
  | none, some _ => false
  | some a, some b => decide (b.seq ≤ a.seq)
  | _, none => true

/-- WRITE_CONFIGURATION (R452): `cut` says that the write was broken off by a drain trigger, a warm reset or a loss
of power, which leaves the target partly written and unanswered. -/
def execWriteConfiguration (sess : Nat) (c : Copy) (cut : Bool) (s : State) : Out :=
  if !s.ownerSession sess then .next (s.when s.fabricUp (·.spdmErr 0xFE 4))
  else
    let top := [s.validCopy s.boot.copyA, s.validCopy s.boot.copyB].foldl
      (fun (n : Nat) (x : Option Copy) => max n ((x.map (·.seq)).getD 0)) 0
    let b := s.copyTarget
    if !s.copyValid c || c.seq ≤ top then .next (s.spdmErr 0xFE 1)
    else if (if b then s.fl .SPI_B_BAD || s.fl .SPI_B_FAIL else s.fl .SPI_A_BAD || s.fl .SPI_A_FAIL) then .next (s.spdmErr 0xFE 5)
    else if s.draining then .next s
    else
      let x := if cut then none else some c
      let s := { s with boot := if b then { s.boot with copyB := x } else { s.boot with copyA := x } }
      .next (s.when (!cut) (·.spdmOk [c.seq]))

end Sys2Proof.Machine
end

