-- ==== Sys2Proof/Machine/Bist.lean ====
section
/-! DEFINITION. The self-test unit (18_self_test_and_service.md): online tests in slices, their results and the repair
they feed, and service cores taken offline. -/

namespace Sys2Proof.Machine

/-! ### Results (R439) -/

/-- RES_USED and the four words of the oldest entry. -/
def State.fifoRegs (s : State) : State :=
  let s := s.wr .RES_USED s.bst.fifo.length
  let e := s.bst.fifo.head?.getD (0, 0, 0)
  ((s.wri .RES 0 e.1).wri .RES 1 e.2.1).wri .RES 2 e.2.2

/-- One failure: FAIL_CNT, and its entry in the FIFO of 256 or RES_OVF. -/
def State.testFail (s : State) (w mask : Nat) : State :=
  let s := s.count .FAIL_CNT 0 .BST_FLAGS_CNT_OVF 0 1
  if 256 ≤ s.bst.fifo.length then s.setf .RES_OVF true
  else ({ s with bst := { s.bst with fifo := s.bst.fifo ++ [(w, mask % 2 ^ 64, s.rd .OP_TIME)] } }).fifoRegs

/-- The first word of Table 18.3 for an online test. -/
def resWord (test ch sub rank dev bg bank row burst step : Nat) : Nat :=
  test + 2 ^ 11 * ch + 2 ^ 17 * sub + 2 ^ 18 * rank + 2 ^ 20 * dev + 2 ^ 24 * bg + 2 ^ 27 * bank
    + 2 ^ 29 * (row % 2 ^ 18) + 2 ^ 47 * (burst % 128) + 2 ^ 54 * (step % 16)

/-- The Daybook record of a failing unit. -/
def State.unitRecord (s : State) (test ch unit : Nat) : State :=
  s.record clsError 0 439 (item 7 test ++ item 4 ch ++ item 9 unit)

/-- A POP write. -/
def State.pop (s : State) : State := ({ s with bst := { s.bst with fifo := s.bst.fifo.drop 1 } }).fifoRegs

/-- POP (R439). -/
def execPop (s : State) : Out := .next (s.barWrite State.pop)

/-! ### Start and end (R438) -/

/-- The target of an online test is eligible: a rank of a channel in the set, a gated way group, a fenced cluster
(Table 18.1, R438). -/
def State.testable (s : State) (test ch rank group : Nat) : Bool :=
  if test = 6 then decide (ch < 12) && bit (s.rd .CH_ACTIVE) ch && !bit (s.rd .CH_FAIL) ch && decide (rank < s.rd .RANKS)
  else if test = 5 then decide (ch < 16) && bit (s.rd .SLICE_EN) ch && decide (1 ≤ group) && decide (group < 4)
    && !bit (s.rdi .PG_STATE ch) group && !bit (s.rdi .PG_BUSY ch) group
  else if test = 7 then decide (ch < 8) && !bit (s.rd .CLUSTER_ACTIVE) ch else false

/-- A start (R435): BUSY, TEST_NOW and UNITS_LEFT. -/
def State.bstStart (s : State) (test ch rank group : Nat) : State :=
  if s.bst.test ≠ 0 || !s.testable test ch rank group then s.setf .REFUSED true
  else
    let s := (s.setf .BST_STATUS_BUSY true).wr .TEST_NOW test
    let s := s.wr .UNITS_LEFT (if test = 6 then 64 * s.rowsPerBank else 1)
    { s with bst := ⟨test, ch, rank, group, 0, 0, false, [], s.bst.fifo, false⟩ }

/-- DRAM_ROW (Table 18.1). -/
def execDramRow (ch rank : Nat) (s : State) : Out := .next (s.barWrite (·.bstStart 6 ch rank 0))

/-- FCH_MARCH (Table 18.1). -/
def execFchMarch (sl group : Nat) (s : State) : Out := .next (s.barWrite (·.bstStart 5 sl 0 group))

/-- CIP_KAT (Table 18.1). -/
def execCipKat (cluster : Nat) (s : State) : Out := .next (s.barWrite (·.bstStart 7 cluster 0 0))

/-- An ABORT write: at once between units, else after the unit in progress. -/
def State.bstAbort (s : State) : State :=
  if s.bst.test = 0 then s
  else if s.bst.step = 0 then s.bstStop else { s with bst := { s.bst with abort := true } }

/-- ABORT (R438). -/
def execAbort (s : State) : Out := .next (s.barWrite State.bstAbort)

/-! ### Slices (R435 to R440) -/

/-- The slice budget in ns (R435). -/
def State.sliceBudget (s : State) : Nat := min (s.rd .SLICE_NS) (s.rd .TICK_PERIOD * 40 - 2000)

/-- The steps of a DRAM_ROW unit that fit a slice: 128 bursts of 16 beats and 80 ns each. -/
def State.sliceSteps (s : State) : Nat :=
  let m := s.rd .DATA_MTS
  s.sliceBudget * m / max 1 (2048000 + 80 * m)

/-- R436: the rank takes no slice in this tick. -/
def State.rankBlocked (s : State) (x : TickIn) : Bool :=
  let c := s.bst.ch
  let r := s.bst.rank
  (x.repair.any fun e => e.1 == c && (s.locate (s.rdi .LA (32 * e.1 + e.2))).rank == r)
    || ((s.drc.slices.any fun e => e.1.1 == c) && s.sliceRank c (x.retrain.getD c (0, 0, 0, 0)) == r)
    || decide (8 ≤ s.refDebt c r + cdiv s.sliceBudget 975) || s.nrPending c r != 0 || bit (s.rd .CH_FAIL) c || s.draining

/-- The front cache range-invalidates the lines of the row under test (R437). -/
def State.rowInval (s : State) : State :=
  let hit := s.fch.lines.filter fun e =>
    let l := s.locate e.2.la
    l.ch == s.bst.ch && l.rank == s.bst.rank && (l.bg, l.bank, l.row) == s.unitPlace s.bst.unit
  s.each hit fun s e => (s.writeBack e.2 sc3).dropWay e.1

/-- The place of a failure in the unit that has ended. -/
def State.failLoc (s : State) (f : RowFail) : Loc :=
  let u := s.unitPlace s.bst.unit
  ⟨s.bst.ch, f.sub % 2, s.bst.rank, u.1, u.2.1, u.2.2, f.burst % 128⟩

/-- Table 12.3 for a device's row (R440): KIND 0b00, SOURCE 2. -/
def State.bistEntry (s : State) (l : Loc) (dev : Nat) : Nat :=
  l.ch + 2 ^ 4 * l.sub + 2 ^ 5 * (l.rank % 4) + 2 ^ 7 * dev + 2 ^ 11 * l.bg + 2 ^ 14 * l.bank
    + 2 ^ 16 * (l.row % 2 ^ 18) + 2 ^ 36 * 2 + 2 ^ 64 * (mget s.drc.sn (l.ch, l.rank)).getD 0

/-- R440 steps 1 to 3 for one failure, the unit's row being restored: a line of the metadata region, or of a frame in
use, is read once through the ladder and becomes a hard fault of a device that is not marked. -/
def State.feedRepair (s : State) (all : List RowFail) (f : RowFail) : State :=
  let l := s.failLoc f
  let s := s.addRepair (s.bistEntry l f.dev)
  let la := s.lineOf l
  let used : Bool := decide (la / 1024 < poolBase) || (match s.frame? (la / 1024) with
    | some x => x.use != useRetired
    | none => false)
  if !used || s.devMarked l f.dev || f.mask = 0 then s
  else
    let errs := ((all.filter fun g => g.sub % 2 == l.sub && g.burst % 128 == l.col).map (·.dev)).eraseDups
    (s.ladderRun la 0 errs errs false).1.hardFault la f.dev

/-- A unit has ended on both subchannels: results, repair, and the next unit or the end of the test. -/
def State.unitEnd (s : State) : State :=
  let fs := s.bst.fails
  let u := s.unitPlace s.bst.unit
  let s := s.each fs fun s f =>
    s.testFail (resWord 6 s.bst.ch (f.sub % 2) s.bst.rank f.dev u.1 u.2.1 u.2.2 f.burst f.step) f.mask
  let s := s.each ((fs.map fun (f : RowFail) => f.sub % 2).eraseDups) fun s sub => s.unitRecord 6 s.bst.ch (2 * s.bst.unit + sub)
  let s := s.each fs fun s f => if s.draining then s else s.feedRepair fs f
  if s.bst.test ≠ 6 then s
  else
    let s := (s.count .UNITS_CNT 0 .BST_FLAGS_CNT_OVF 0 0).count .UNITS_CNT 0 .BST_FLAGS_CNT_OVF 0 0
    let s := s.wr .UNITS_LEFT (s.rd .UNITS_LEFT - 2)
    let s := { s with bst := { s.bst with unit := s.bst.unit + 1, step := 0, fails := [] } }
    if s.bst.abort || s.rd .UNITS_LEFT = 0 then s.bstStop else s

/-- A DRAM_ROW slice (R435 to R437). -/
def State.rowSlice (s : State) (x : TickIn) : State :=
  let n := min s.sliceSteps (12 - s.bst.step)
  if s.rankBlocked x || n = 0 then s
  else
    let s := if s.bst.step = 0 then s.rowInval else s
    let s := s.sliceTime s.bst.ch (n * (2048000 / max 1 (s.rd .DATA_MTS) + 80))
    let hit := x.rows.filter fun (f : RowFail) => decide (s.bst.step < f.step) && decide (f.step ≤ s.bst.step + n) && decide (f.dev < 10)
    let s := { s with bst := { s.bst with step := s.bst.step + n, fails := s.bst.fails ++ hit } }
    if s.bst.step = 12 then s.unitEnd else s

/-- The elements of an FCH_MARCH test: the spec gives an element's time and not their number, so the model takes
DRAM_ROW's own write and read elements between save and restore (DESIGN CHOICE, log entry 28). -/
def marchSteps : Nat := 6

/-- An FCH_MARCH slice (R435, R438, R440): the elements of 600 ns that fit the slice. A failing (set, way) of the
group disables its way, and after the last element the group is left invalidated. -/
def State.marchSlice (s : State) (x : TickIn) : State :=
  let sl := s.bst.ch
  let g := s.bst.group
  let n := min (s.sliceBudget / 600) (marchSteps - s.bst.step)
  if n = 0 then s
  else
    let s := { s with bst := { s.bst with step := s.bst.step + n } }
    let bad := x.ways.filter fun e => e.2 / 6 == g
    let s := s.each bad fun s e => s.testFail (resWord 5 sl 0 0 0 g 0 e.1 e.2 0) 0
    let s := s.when (bad != [] && !s.bst.bad) (·.unitRecord 5 sl g)
    let s := s.each ((bad.map (·.2)).eraseDups) fun s w => s.disableWay sl w none
    let s := { s with bst := { s.bst with bad := s.bst.bad || bad != [] } }
    if s.bst.test ≠ 5 || s.bst.step < marchSteps then s
    else ((s.setBitOf .INV_DONE sl g true).count .UNITS_CNT 0 .BST_FLAGS_CNT_OVF 0 0).bstStop

/-- A CIP_KAT test: its one step of 200 ns runs in a slice that it fits; a failure is reported. -/
def State.katSlice (s : State) (x : TickIn) : State :=
  if s.sliceBudget < 200 then s
  else
    let s := if x.katBad then (s.testFail (resWord 7 s.bst.ch 0 0 0 0 0 0 0 0) 0).unitRecord 7 s.bst.ch 0 else s
    (s.count .UNITS_CNT 0 .BST_FLAGS_CNT_OVF 0 0).bstStop

/-- The test slice of a tick boundary (Table 01.2 order 7). -/
def State.testSlice (s : State) (x : TickIn) : State :=
  if s.draining then s
  else if s.bst.test = 6 then s.rowSlice x
  else if s.bst.test = 5 then s.marchSlice x
  else if s.bst.test = 7 then s.katSlice x else s

/-! ### Service cores (R443) -/

/-- A CORE_OFF write: one that would leave no core online changes nothing. -/
def State.coreOff (s : State) (v : Nat) : State :=
  if v % 16 = 15 then s.setf .REFUSED true
  else (s.wr .CORE_OFF v).wr .CORE_ON (15 - v % 16)

/-- CORE_OFF_WRITE (R443). -/
def execCoreOffWrite (v : Nat) (s : State) : Out := .next (s.barWrite (·.coreOff v))

end Sys2Proof.Machine
end

