-- ==== Sys2Proof/Machine/Start.lean ====
section
/-! DEFINITION. Start-up (19_start_up.md): straps and images, the configuration copy, training and the channel set,
carriers, the restart path with its metadata load, and Pn_RDY. -/

namespace Sys2Proof.Machine

/-! ### The core phase and the straps -/

/-- CORE_PHASE_END (R399, R446, R433): POWER_CYCLES, the straps, SPI_NET, and steps 1 to 3 of Table 15.5. A device that
fails SPI_NET counts as failed for Daybook writes. -/
def execCorePhaseEnd (bootSpi safe badA badB : Bool) (s : State) : Out :=
  if s.rd .SEQ_STATE ≠ seqCore || !s.stepGood || s.phaseRails.any fun r => !s.railOn r && !s.railDone r then .next s
  else
    let s := s.wr .POWER_CYCLES (min (2 ^ 32 - 1) (s.rd .POWER_CYCLES + 1))
    let s := s.setPwr fun p => { p with cycles := s.rd .POWER_CYCLES }
    let s := ((s.setf .BOOT_SPI bootSpi).setf .SAFE safe).wr .SEQ_STATE seqAwait
    let s := (s.setf .SPI_A_BAD badA).setf .SPI_B_BAD badB
    let s := (s.when badA (·.setf .SPI_A_FAIL true)).when badB (·.setf .SPI_B_FAIL true)
    .next (if s.pwr.sysRst then s else s.bootImages)

/-- SYS_RST_N_ASSERT (R77, Table 16.3): a drain while ON; in a phase of the up-sequence the rails continue and the service
processor stays in reset until the release. -/
def execSysRstNAssert (s : State) : Out :=
  let s := s.setPwr fun p => { p with sysRst := true }
  let q := s.rd .SEQ_STATE
  .next (if q = seqCore ∨ q = seqAwait ∨ q = seqBoard then
      { s with sec := { s.sec with meas := [], recovery := false }, boot := { s.boot with fwUp := false } }
    else s.trigger .sysRst true)

/-- SYS_RST_N_DEASSERT (R465, Table 16.3): the start-up after a drain that waited for it; a service processor held in reset
boots. -/
def execSysRstNDeassert (s : State) : Out :=
  let s := s.setPwr fun p => { p with sysRst := false }
  let q := s.rd .SEQ_STATE
  .next (if s.draining && s.drain.step == 7 && q == seqOn then s.startUpRailsUp
    else if !s.draining && s.sec.meas.isEmpty && (q == seqAwait || q == seqBoard || q == seqOn) then s.bootImages else s)

/-! ### The configuration copy (R449 to R451) -/

/-- RW fields that no copy loads: of the flip mask (R317), RAE_CMD and RAE_CTX_DATA (R372), the key table's (R387), and
CORE_OFF (R445). -/
def notLoaded : List Fld :=
  [.FLIP_OBJ, .FLIP_READS, .FLIP_ARM, .FLIP_LINE, .DEV_A, .DEV_B, .B_EN, .INT_FLIP_PAT_A, .INT_FLIP_PAT_B,
   .RAE_CTX_DATA_DATA, .INDEX, .TARGET, .OWNER, .ANY, .CORE_OFF]

/-- The present value of a field to an entry: for rails 00 to 05, what waits for the next core phase. -/
def State.entryOld (s : State) (f : Fld) (i : Nat) : Nat :=
  match s.pwr.corePend.reverse.find? fun x => x.1 == f && x.2.1 == i with
  | some x => x.2.2
  | none => s.rdi f i

/-- Load a field from the copy. -/
def State.loadFld (s : State) (f : Fld) (i v : Nat) : State :=
  if railFlds.contains f && decide (i < 6) then s.setPwr fun p => { p with corePend := p.corePend ++ [(f, i, v)] }
  else match f with
    | .CLUSTER_FENCE => s.fenceWrite v
    | .SLOT_PWR => s.slotPwr i (v != 0)
    | _ => s.storeFld f i v

/-- One register entry (R451): offset, mask and value. -/
def State.applyEntry (s : State) (e : Nat × Nat × Nat) : State :=
  if 0x12FFFF < e.1 then s.record clsWarn 0 451 (item 6 (e.1 % 2 ^ 24))
  else match regAt e.1 with
    | none => s
    | some (r, i) =>
      let fs := r.fields.filter fun x => x.acc == Acc.rw && !notLoaded.contains x.fld
      let fs := fs.filter (fun x => !lateFlds.contains x.fld) ++ fs.filter (fun x => lateFlds.contains x.fld)
      let s := s.each fs fun s x =>
        let w := x.fld.spec.width
        let m := bits e.2.1 x.lo w
        s.loadFld x.fld i (((s.entryOld x.fld i) &&& (2 ^ w - 1 - m)) ||| (bits e.2.2 x.lo w &&& m))
      if fs.any fun (x : RegFld) => x.fld == Fld.SETTLE_PFN then s.settleCheck i else s

/-- The copy chosen (R449): the valid one with the higher SEQ, A on a tie. -/
def State.chooseCopy (s : State) : Option Copy :=
  match s.validCopy s.boot.copyA, s.validCopy s.boot.copyB with
  | some a, some b => if a.seq < b.seq then some b else some a
  | some a, none => some a
  | none, b => b

/-- The copy stored that has a SEQ. -/
def State.chosenCopy (s : State) : Option Copy :=
  s.boot.chosen.bind fun n => [s.boot.copyA, s.boot.copyB].findSome? fun c => c.bind fun x => if x.seq = n then some x else none

/-- The start-up self-test and the disable list on the front cache (R244, R241): failing and listed ways are disabled, and
slices that are listed or have more than 12 disabled ways are off. Fewer than 8 slices are named. -/
def State.cacheStart (s : State) (ways : List (Nat × Nat)) (disable : List (Nat × Bool × Nat)) : State :=
  let bad := ways.filter fun e => decide (e.1 < 16) && decide (e.2 < 24)
  let s := s.each bad fun s e => (s.setBitOf .WAY_DIS e.1 e.2 true).testFail (resWord 5 e.1 0 0 0 (e.2 / 6) 0 0 e.2 0) 0
  let s := s.each bad fun s e => (s.record clsWarn 0 237 (item 7 (256 * e.1 + e.2))).alert blkFCH
  let s := s.each disable fun s e => s.wri .WAY_DIS (e.1 % 16) (s.rdi .WAY_DIS (e.1 % 16) ||| e.2.2)
  let off := fun i => (disable.any fun e => e.1 % 16 == i && e.2.1) || decide (12 < popCount (s.rdi .WAY_DIS i) 24)
  let s := s.wr .SLICE_EN (((List.range 16).filter fun i => !off i).foldl (fun m i => m + 2 ^ i) 0)
  let n := popCount (s.rd .SLICE_EN) 16
  let s := s.wr .DRAIN_FIXED_US (drainFixed n)
  s.when (decide (n < 8)) (·.record clsError 0 241 (item 7 (65535 - s.rd .SLICE_EN)))

/-- What follows from the fields loaded: gated groups start gated (R239), lock entries that name one or no way do not
enable (R232), slots are powered, mirror roles (R318), queue-pair owners (R110) and effective floors (R178). -/
def State.afterLoad (s : State) : State :=
  let s := s.each (List.range 16) fun s i => s.wri .PG_STATE i (s.rdi .PG_REQ i)
  let s := s.each (List.range 16) fun s k =>
    let ways := s.rdi .WAYS k * 2 ^ 16
    let gated := (List.range 16).any fun sl => [1, 2, 3].any fun g => groupHit ways g && !bit (s.rdi .PG_STATE sl) g
    if s.fli .LOCK_EN k && (ways == 0 || gated) then (s.setfi .LOCK_EN k false).setf .LOCK_ERR true else s
  let s := s.each (List.range 18) fun s i => s.slotPwr i (s.fli .SLOT_PWR i)
  let s := s.each ((List.range 1024).filter fun q => s.fli .CMD_QP_ASSIGN_ASSIGNED q) State.qpOwner
  s.mirrorRoles.floors

/-- The words of a copy that measurement 4 covers. -/
def copyWords (c : Copy) : List Nat :=
  [c.seq, c.target] ++ (c.entries.flatMap fun e => [e.1, e.2.1, e.2.2]) ++ c.repair ++ c.disable.flatMap fun e => [e.1, b2n e.2.1, e.2.2]

/-- A safe start, or the chosen copy applied. -/
def State.applyCopy (s : State) (x : StartIn) : State :=
  match (if s.fl .SAFE then none else s.chooseCopy) with
  | none =>
    let s := (s.cacheStart x.ways []).setf .SAFE_START true
    (s.record clsBoot 0 450 []).alert blkGLB
  | some c =>
    let s := (s.measure 4 (Config.cipher 4 (copyWords c))).setf .SAFE_START false
    let s := s.each c.entries State.applyEntry
    let s := s.cacheStart x.ways c.disable
    { s with boot := { s.boot with chosen := some c.seq } }

/-- SERVICE_FIRMWARE_START (Table 15.5 step 4, R449 to R451, R431): the start-up tests' results, the copy, and the board
phase. -/
def execServiceFirmwareStart (x : StartIn) (s : State) : Out :=
  if !s.fabricUp || s.boot.fwUp || s.sec.recovery || s.sec.meas.isEmpty || s.draining then .next s
  else
    let s := (s.wr .DDR5_BAD x.ddr).wr .NAND_BAD x.nand
    let s := s.each x.results fun s e => s.testFail e.1 e.2
    let s := s.each ((x.results.map fun e => (bits e.1 0 8, bits e.1 11 6)).eraseDups) fun s u => s.unitRecord u.1 u.2 0
    let s := { s with boot := { s.boot with fwUp := true } }
    let s := (s.applyCopy x).afterLoad
    let s := { s with fgv := { s.fgv with first := true } }
    .next (if s.rd .SEQ_STATE = seqAwait then s.boardPhase else s)

/-! ### Training and the channel set (R245, R246, R262, R263) -/

/-- The data rates of a population, highest first (Table 10.1); none for one that is not supported. -/
def ratesOf (typ dimms : Nat) : List Nat :=
  if typ = 1 ∧ dimms = 1 then [6400, 6000, 5600, 5200, 4800]
  else if typ = 1 ∧ dimms = 2 then [5600, 5200, 4800]
  else if typ = 2 ∧ dimms = 1 then [8800, 8000] else []

/-- A channel's population is one of Table 10.1. -/
def chSupported (x : ChTrain) : Bool :=
  x.present && ratesOf x.typ x.dimms != [] && [16, 24, 32, 64].contains x.dens && x.cap == x.ranks * 2 * x.dens
    && (if x.dimms = 2 then x.ranks == 2 || x.ranks == 4 else x.ranks == 1 || x.ranks == 2)

/-- What one channel of a set must share with the others. -/
def chSame (x y : ChTrain) : Bool :=
  x.typ == y.typ && x.dimms == y.dimms && x.ranks == y.ranks && x.dens == y.dens && x.cap == y.cap

/-- What training found of channel c. -/
def trainCh (x : TrainIn) (c : Nat) : ChTrain :=
  x.chans.getD c ⟨false, 0, 0, 0, 0, 0, 0, false, false, [], []⟩

/-- The channels of a mask. -/
def chansOf (m : Nat) : List Nat := (List.range 12).filter (m.testBit ·)

/-- The rates a set can run at, highest first. -/
def State.setRates (s : State) (x : TrainIn) (m : Nat) : List Nat :=
  match chansOf m with
  | [] => []
  | c :: _ =>
    let top := (chansOf m).foldl (fun n c => min n (trainCh x c).spd) (s.rd .MAX_MTS)
    (ratesOf (trainCh x c).typ (trainCh x c).dimms).filter (· ≤ top)

/-- A set is eligible (R246, R269); with `lanes` every lane of it must have passed. -/
def State.setOk (s : State) (x : TrainIn) (m : Nat) (lanes : Bool) : Bool :=
  (match chansOf m with
    | [] => false
    | c :: _ => (chansOf m).all fun d => chSame (trainCh x c) (trainCh x d))
  && ((chansOf m).all fun c => chSupported (trainCh x c) && !bit (s.rd .DDR5_BAD) c && !bit s.drc.failed c && (!lanes || (trainCh x c).pass))
  && s.setRates x m != []

/-- The sets in the order of choice (R246): all twelve, half CH_HALF, the other half. -/
def State.setOrder (s : State) : List Nat :=
  let h := s.rd .CH_HALF
  (if s.fl .FORCE_6CH then [] else [0xFFF]) ++ (if h = 0 then [halfMask0, halfMask1] else [halfMask1, halfMask0])

/-- Frames with a line on the row of a repair entry (R312). -/
def State.rowFrames (s : State) (e : Nat) : List Nat :=
  let l : Loc := ⟨bits e 0 4, bits e 4 1, bits e 5 2, bits e 11 3, bits e 14 2, bits e 16 18, 0⟩
  ((List.range 128).map fun c => s.lineOf { l with col := c } / 1024).eraseDups

/-- Retire the pool frames of a repair entry's row at start-up (R312). -/
def State.retireRow (s : State) (e : Nat) : State :=
  s.each ((s.rowFrames e).filter fun f => decide (poolBase ≤ f) && decide (f < s.tpe.poolEnd) && (s.frame? f).isNone) fun s f =>
    let s := s.setFrame f ⟨0, 0, 0, 0, useRetired, false, 0⟩
    (s.wr .POOL_FRAMES (s.rd .POOL_FRAMES - 1)).wr .FREE_FRAMES (s.rd .FREE_FRAMES - 1)

/-- Step 8 of Table 10.2 (R312) over the repair map and the pending repair list: an entry whose DIMM is not there is kept
and reported; one that succeeds leaves the pending list unless it is an sPPR, which a power-down undoes; one that fails,
or that only retires, retires its row's frames and stays with KIND 0b10. -/
def State.startRepair (s : State) (x : TrainIn) (own : Bool) (e : Nat) : State :=
  let drop := fun (s : State) => if own then { s with int := { s.int with repair := s.int.repair.erase e } } else s
  if mget s.drc.sn (bits e 0 4, bits e 5 2) ≠ some (bits e 64 32) then s.record clsService 0 312 (item 4 (bits e 0 4) ++ item 7 (bits e 0 34))
  else if bits e 34 2 = 2 then s.retireRow e
  else if x.ppr.contains e then
    let s := (s.setf .REPAIR_FAIL true).retireRow e
    if own then { s with int := { s.int with repair := s.int.repair.map fun r => if r = e then setBits e 34 2 2 else r } } else s
  else if bits e 34 2 = 1 then s else drop s

/-- The pool of the installed frames (R165, R178); a pool below 16 GiB is recorded. -/
def State.poolStart (s : State) : State :=
  let f := popCount (s.rd .CH_ACTIVE) 12 * s.rd .CH_CAP_GIB * 16384
  let e := f - cdiv (f - poolBase) 33
  let n := e - poolBase
  let s := { s with tpe := { s.tpe with poolEnd := e, frames := [] } }
  (s.wr .POOL_FRAMES n).wr .FREE_FRAMES n

/-- R402: the rails of channels outside the set go down in the order of R403 and stay down; RETRY and GROUP of a DRAM rail are stored as SYSTEM
(R406). -/
def State.setRails (s : State) : State :=
  let out := boardRails.filter fun r => s.rdi .DRAM_CH r != 0 && !s.dramRail r
  let s := s.dropRails out
  s.each (boardRails.filter s.dramRail) fun s r =>
    if s.rdi .REACTION r = 1 ∨ s.rdi .REACTION r = 2 then s.wri .REACTION r 3 else s

/-- The set is chosen and trained at a rate. -/
def State.takeSet (s : State) (x : TrainIn) (m mts : Nat) : State :=
  let a := trainCh x ((chansOf m).headD 0)
  let s := ((s.wr .CH_ACTIVE m).wr .DATA_MTS mts).wr .DIMM_TYPE a.typ
  let s := ((s.wr .RANKS a.ranks).wr .CH_CAP_GIB a.cap).setf .TRAIN_DONE true
  let s := { s with drc := { s.drc with grain := s.rd .GRAIN_LOG2, selfRef := false, failed := 0, sn := [] } }
  let s := s.each (chansOf m) fun s c =>
    let s := { s.setfi .DRFM_AVAIL c (trainCh x c).drfm with
      drc := { s.drc with sn := (List.range a.ranks).foldl (fun (t : SMap Nat) r => mput t (c, r) ((trainCh x c).sn.getD r 0)) s.drc.sn } }
    s.each (List.range 20) fun s l =>
      let v := (trainCh x c).lanes.getD l (0, 0, 0, 0)
      let i := laneIx c l
      let s := ((s.wri .RD_CENTRE i v.1).wri .WR_CENTRE i v.2.1).wri .VREF_RD i v.2.2.1
      ((s.wri .EYE_STEPS i v.2.2.2).wri .RD_OFS i 0).wri .WR_OFS i 0
  let s := s.setRails.poolStart
  let s := s.each ((s.chosenCopy.map (·.repair)).getD []) (·.startRepair x false)
  let s := s.each s.int.repair (·.startRepair x true)
  let s := s.floors
  let s := s.when (decide (s.rd .POOL_FRAMES < 262144)) (·.record clsError 0 165 (item 9 (s.rd .POOL_FRAMES)))
  if m = 0xFFF then s else s.record clsBoot 0 246 (item 7 (0xFFF - m))

/-! ### Carriers (R289, R290, R293) -/

/-- The carrier in slot i and its channels as found at a start-up: their recorded states in its own slot, retired when it
is bound elsewhere. A slot whose nets failed is refused with cause 5. -/
def State.slotStart (s : State) (i : Nat) : State :=
  match mget s.nfc.carriers (i, 0) with
  | none => s
  | some c =>
    let s := s.slotRegs i c
    let nets : Bool := bit (s.rd .NAND_BAD) i || bit (s.rd .NAND_BAD) (18 + i)
    let s := if nets then (s.wri .ID_STATE i 3).wri .REFUSE_CAUSE i 5 else s
    if s.rdi .ID_STATE i = 1 && s.fli .PWR_ON i then
      s.each [(i, 0), (18 + i, 1)] fun s y =>
        let s := s.chanMedia y.1 c y.2
        let s := s.putRegs [.FREE_BLK, .BAD_BLK, .PE_AVG, .PE_MAX] (mfilter s.nfc.wear fun k _ => k.2 == y.1)
        let r := s.rdi .PE_RATED y.1
        let s := s.wri .WEAR_PM y.1 (if r = 0 then 0 else min 1023 (s.rdi .PE_AVG y.1 * 1000 / r))
        let st := (mget s.nfc.recState (y.1, 0)).getD 0
        let d := s.dataBlocks c y.2 - (s.rdi .BAD_BLK y.1 - c.bad.getD y.2 0)
        let s := if st ≠ 1 then s else { s with nfc := { s.nfc with dataBlk := mput s.nfc.dataBlk (y.1, 0) d } }
        let s := s.chanState y.1 st
        if st = 3 then s.rebuildLeft y.1 else s
    else if s.rdi .ID_STATE i = 3 && c.array != 0 then (s.chanState i 2).chanState (18 + i) 2
    else s

/-- Step 6 of Table 19.4 for the media; slots with a channel that is not online are named when MEDIA_READY stays 0. -/
def State.mediaStart (s : State) : State :=
  let s := { s with nfc := { s.nfc with usePm := s.rd .USE_PM, vaultBlk := s.rd .VAULT_BLK } }
  let s := s.each (List.range 18) State.slotStart
  let s := (s.putRegs [.SETTLE_SEQ] s.nfc.wear).capTp
  let s := s.setf .DEGRADED_0 (decide (0 < s.groupDown 0))
  let s := (s.setf .DEGRADED_1 (decide (0 < s.groupDown 1))).mediaReady
  let down := (List.range 18).filter fun i => !s.chOnline i || !s.chOnline (18 + i)
  s.when (!s.fl .MEDIA_READY) (·.record clsError 0 289 (item 7 (down.foldl (fun m i => m + 2 ^ i) 0)))

/-! ### The restart path (R455, R456, Table 19.5) -/

/-- Some carrier in its own slot holds this 8120's metadata. -/
def State.metaFound (s : State) : Bool := s.boot.hasMeta && (List.range 18).any fun i => s.rdi .ID_STATE i == 1

/-- The highest drain sequence number of a valid vault seal (R55). -/
def State.sealSeq (s : State) : Nat := (s.nfc.seals.filter s.sealOk).foldl (fun n (x : Seal) => max n x.seq) 0

/-- The path: 0 no metadata, 1 drain, 2 abrupt (R455). -/
def State.pathNow (s : State) : Nat :=
  if !s.metaFound then 0 else if s.boot.consumed < s.sealSeq then 1 else 2

/-- VAULT_IX of frame-map entry n (R172, R284): where its first entry stands in the vault index, if it has one there. -/
def State.vaultPos (s : State) (n : Nat) : Option Nat := s.nfc.index.findIdx? fun x => x / 16 == n

/-- A page after a restart: vaulted code pages at 0b11, T2 with any content at its home or in the vault, else as never
written. -/
def State.pageBack (s : State) (obj tp n : Nat) (e : MapE) : MapE :=
  let v := fun k => (mget s.nfc.vault (obj, 16 * tp + k)).isSome
  let any := (List.range 16).any fun k => v k || (mget s.nfc.homes (e.home, k)).isSome
  let cp := (List.range 16).foldl (fun n k => if v k then n + 3 * 4 ^ k else n) 0
  { zeroPage with st := if any then .t2 else .zero, home := e.home, vaultIx := (s.vaultPos n).getD e.vaultIx, cp := cp }

/-- The metadata as loaded: volatile objects go with their windows and pages (R42), the others' pages as `pageBack`. -/
def State.metaBack (s : State) (m : MetaData) : MetaData :=
  let led := m.ledger.filter fun e => e.2.persist || e.2.kind == 2
  let keep := led.map (·.1.1)
  let pages : SMap MapE := led.foldl (fun (t : SMap MapE) e => (List.range e.2.pages).foldl (fun (t : SMap MapE) tp =>
    match mget m.fmap (e.2.mapBase + tp, 0) with
    | some x => mput t (e.2.mapBase + tp, 0) (s.pageBack e.1.1 tp (e.2.mapBase + tp) x)
    | none => t) t) []
  { m with ledger := led, fmap := pages, wins := m.wins.filter fun w => keep.contains w.2.obj }

/-- The map blocks that objects' runs touch, rising (R454). -/
def MetaData.blocks (m : MetaData) : List Nat :=
  let bs := (m.runs.flatMap fun r => (List.range ((r.1 + r.2 - 1) / 4096 + 1 - r.1 / 4096)).map (r.1 / 4096 + ·)).eraseDups
  bs.mergeSort (fun a b => decide (a ≤ b))

/-- The roles in force until a bring-up: the journalled ones, or at a first start ID_SIDE 0 senior (R323). -/
def State.rolesBack (s : State) (r : Option Bool) : State := s.setf .SENIOR (r.getD (s.rd .ID_SIDE == 0))

/-- The mirror's numbers, roles and solo map come back (R347). -/
def State.mirBack (s : State) (m : MetaData) (abrupt : Bool) : State :=
  let v := s.saved
  let s := ((s.wr .SSN_ISSUED v.ssnIssued).wr .SSN_ACKED v.ssnAcked).wr .TWIN_APPLIED v.twinApplied
  let s := (s.wr .PARTNER_UID v.partner).setf .TOOK_OVER m.tookOver
  let s := s.rolesBack m.roles
  let solo := v.solo.filter fun e => (s.obj? e.1.1).isSome
  let s := s.setMir fun x => { x with
    solo := solo, soloDoms := if solo.isEmpty then [] else v.soloDoms, drainSeen := v.drainSeen, ssnBlockSettled := m.ssnEnd, abrupt := abrupt || x.abrupt }
  (s.wr .SOLO_PAGES solo.length).mirEval

/-- The calibrations come back (R80): the rate history, the measured capacitance and the measured power. -/
def State.calBack (s : State) : State :=
  let v := s.saved
  let s := (s.wr .HOLDUP_CAP_MEAS_MF v.capMeas).wr .DRAIN_POWER_MEAS_W v.powerMeas
  ({ s with fgv := { s.fgv with rates := v.rates } }).rateRegs

/-- Dynamic-capacity extents come back with the journal (R109). -/
def State.dcBack (s : State) : State :=
  s.each s.md.extents fun s x => s.dcRegs x.link x.ld

/-- The metadata load of the drain path or the abrupt path (Table 19.5, R56, R58, R456). -/
def State.metaLoad (s : State) (abrupt : Bool) : State :=
  let m := s.metaBack s.saved.journal
  let s := { s with md := m, jr := ⟨m, [], []⟩, tpe := { s.tpe with unloaded := m.blocks } }
  let s := { s with nfc := { s.nfc with vault := s.nfc.vault.filter fun e => (mget m.ledger (e.1.1, 0)).isSome } }
  let s := ((s.mirBack m abrupt).calBack).dcBack
  let s := s.ledgerRegs.capTp
  let s := s.each ((m.ledger.map fun e => e.2.slot).eraseDups) State.refsReg
  let lost := s.boot.lost.filter fun id => (mget m.ledger (id, 0)).isSome
  let s := s.when (abrupt && lost != []) (·.record clsBoot 0 456 ((lost.take 124).map fun id => (1, id)))
  { s with boot := { s.boot with metaDone := true, lost := [] } }

/-- The key table is read (R387, R396): slot modes, owners and KEK_SET. Without metadata there is none, and every slot is
empty; so it is when both copies fail. -/
def State.keysRead (s : State) (ok : Bool) : State :=
  if s.rd .PATH ≠ 0 && ok then
    let s := s.each (s.sec.dkek.map (·.1.1)) fun s d => s.kekSet d true
    { s.putRegs keyFlds s.sec.table with boot := { s.boot with keysRead := true } }
  else
    let s := { s with sec := { s.sec with keys := [], dkek := [], masks := [], table := [] }
                      boot := { s.boot with keysRead := s.rd .PATH = 0 } }
    s.when (s.rd .PATH != 0) fun s => (s.record clsError 0 387 []).alert blkSEC

/-- Every cluster's known-answer test (R396). -/
def State.katStart (s : State) (bad : Nat) : State :=
  let s := s.each ((List.range 8).filter (bad.testBit ·)) fun s n =>
    let s := (s.setBitOf .CLUSTER_FAULT 0 n true).setBitOf .CLUSTER_ACTIVE 0 n false
    (s.testFail (resWord 7 n 0 0 0 0 0 0 0 0) 0).unitRecord 7 n 0
  { s with boot := { s.boot with kats := true } }

/-- Steps 7 and 8 of Table 19.4, once the set is chosen: carriers, path, metadata, keys and known-answer tests. -/
def State.restore (s : State) (x : TrainIn) : State :=
  let s := s.mediaStart
  let p := s.pathNow
  let s := (s.wr .PATH p).record clsBoot 0 455 (item 7 p)
  let s := if p = 0 then ((s.setMir fun m => { m with abrupt := false }).freshMeta.rolesBack none).mirEval else s.metaLoad (p == 2)
  ((s.keysRead x.keysOk).katStart x.kat).setf .REFILL_DONE s.tpe.ckpt.isEmpty

/-- TRAINING_DONE (R246, R262, R263): training at one rate has ended. A failing lane of the set lowers the rate, at most
twice; then the first set whose lanes all pass is taken. -/
def execTrainingDone (x : TrainIn) (s : State) : Out :=
  if s.rd .SEQ_STATE ≠ seqOn || s.fl .TRAIN_DONE || s.draining then .next s
  else
    let none' := s.record clsError 0 246 []
    match s.setOrder.find? fun m => s.setOk x m false with
    | none => .next none'
    | some m =>
      let rs := s.setRates x m
      let n := min s.drc.tried (rs.length - 1)
      let fails := (chansOf m).any fun c => !(trainCh x c).pass
      if fails && s.drc.tried < 2 && n + 1 < rs.length then
        .next { s with drc := { s.drc with tried := s.drc.tried + 1 } }
      else match s.setOrder.find? fun m => s.setOk x m true with
        | none => .next none'
        | some m => .next ((s.takeSet x m (rs.getD n 0)).restore x)

/-! ### Pn_RDY (R453) and the map blocks (R454) -/

/-- The first condition of R453 that does not hold for port p, by its place in the list: copy, training, media, pool, key
table, known-answer tests, metadata, reset pin, offline; 11 a front cache below 8 slices (R241), 12 recovery or a fatal
error, 13 the first rehearsal of the path without metadata (R71). -/
def State.rdyUnmet (s : State) (p : Nat) : Option Nat :=
  let c : List (Bool × Nat) := [
    (s.boot.chosen.isSome, 1), (s.fl .TRAIN_DONE, 2), (s.fl .MEDIA_READY, 3), (decide (262144 ≤ s.rd .POOL_FRAMES), 4),
    (s.boot.keysRead || s.md.ledger.all fun e => e.2.slot == 0, 5), (s.boot.kats, 6), (s.boot.metaDone, 7),
    (!bit s.prt.perst p, 8), (!s.fli .PORT_OFFLINE p, 9), (decide (8 ≤ popCount (s.rd .SLICE_EN) 16), 11),
    (!s.sec.recovery && !s.fl .FATAL, 12), (s.rd .PATH != 0 || !s.fgv.rehearsal || s.fl .RATE_VALID, 13)]
  (c.find? fun x => !x.1).map (·.2)

/-- Insert a checkpoint entry behind those of no higher AGE (R214). -/
def insAge (r : Resid) : List Resid → List Resid
  | [] => [r]
  | x :: l => if x.age ≤ r.age then x :: insAge r l else r :: x :: l

/-- The refill order of a checkpoint: rising AGE, ties in checkpoint order (R214). -/
def ckptOrder (l : List Resid) : List Resid := l.foldl (fun o r => insAge r o) []

/-- The first Pn_RDY of a start-up: the consumed mark is written on the drain path (R455), the floor is the chosen copy's
SEQ (R449), and refill starts from the checkpoint (R214). -/
def State.firstRdy (s : State) : State :=
  if s.pwr.rdyUp then s
  else
    let s := { s with boot := { s.boot with
      floor := s.boot.chosen.getD s.boot.floor, consumed := if s.rd .PATH = 1 then s.sealSeq else s.boot.consumed } }
    let s := s.setPwr fun p => { p with rdyUp := true }
    let s := { s with tpe := { s.tpe with refill := ckptOrder s.tpe.ckpt } }.refillRegs
    s.when s.tpe.unloaded.isEmpty (·.record clsBoot 0 454 [])

/-- PN_RDY_RISE (R453). -/
def execPnRdyRise (port : Nat) (s : State) : Out :=
  if 4 ≤ port || s.draining || s.rd .SEQ_STATE ≠ seqOn || bit s.prt.rdy port || (s.rdyUnmet port).isSome then .next s
  else .next (s.firstRdy.setRdy port true)

/-- PN_RDY_TIMEOUT (R453): 4 s after the release of Pn_PERST_N, once. -/
def execPnRdyTimeout (port : Nat) (s : State) : Out :=
  if 4 ≤ port || bit s.prt.perst port || bit s.prt.rdy port || bit s.prt.timedOut port then .next s
  else match s.rdyUnmet port with
    | none => .next s
    | some n => .next (State.record { s with prt := { s.prt with timedOut := setBit s.prt.timedOut port true } }
        clsError 0 453 (item 3 (2 * port) ++ item 7 n))

/-- MAP_BLOCK_LOADED (R454): the block's waiting translations go on; one record with the last. -/
def execMapBlockLoaded (blk : Nat) (s : State) : Out :=
  if !s.pwr.rdyUp || s.draining || !s.tpe.unloaded.contains blk then .next s
  else
    let s := { s with tpe := { s.tpe with unloaded := without s.tpe.unloaded blk } }
    let s := s.when s.tpe.unloaded.isEmpty (·.record clsBoot 0 454 [])
    .next (s.rerun fun w => w.why == .mapBlk)

end Sys2Proof.Machine
end

