-- ==== Sys2Proof/Machine/Rdma.lean ====
section
/-! DEFINITION. The remote access engine (14_remote_access.md): packets received as responder and as requester,
timers, triggered requests, contexts and keys, flow control. What must wait is tried again at the engine's own
rows and at each tick (log entry 11). -/

namespace Sys2Proof.Machine

/-! ### Opcodes of Table 14.2 -/

/-- An RDMA WRITE packet. -/
def opIsWr (op : Nat) : Bool := decide (6 ≤ op) && decide (op ≤ 0xB)
/-- A WRITE First or Only, which carries the RETH. -/
def opIsFirst (op : Nat) : Bool := op == 6 || op == 0xA || op == 0xB
/-- The last packet of a WRITE or SEND. -/
def opIsEnd (op : Nat) : Bool := [2, 3, 4, 5, 8, 9, 0xA, 0xB].contains op
/-- A packet that bumps TRIG_COUNT: SEND Only and WRITE with immediate (R367). -/
def opBumps (op : Nat) : Bool := [4, 5, 9, 0xB].contains op

/-- SETTLE counts on the last packet of a WRITE or SEND only (R350). -/
def Pkt_settle (p : Pkt) : Bool := p.settle && opIsEnd p.op
/-- FIN counts on the last packet of a WRITE or SEND only (R350). -/
def Pkt_fin (p : Pkt) : Bool := p.fin && opIsEnd p.op

/-- How far PSN b lies after PSN a. -/
def psnAfter (a b : Nat) : Nat := (b + 2 ^ 24 - a % 2 ^ 24) % 2 ^ 24

/-- The next PSN to acknowledge with: the expected one minus one (R361). -/
def RCtx.ackPsn (c : RCtx) : Nat := (c.epsn + 2 ^ 24 - 1) % 2 ^ 24

/-- Packets that a length takes at the path MTU, at least one. -/
def RCtx.packets (c : RCtx) (len : Nat) : Nat := max 1 (cdiv len c.mtu)

/-! ### Contexts on chip -/

/-- Room for one more context on chip: the least recently used one that may leave is evicted (R353). -/
def State.ctxRoom (s : State) : Option State :=
  let on := s.rae.ctxs.filter fun e => e.2.chip
  if on.length < 4096 then some s
  else
    let free := on.filter fun e => !e.2.pin && e.2.parked.isEmpty && e.2.fins.isEmpty
      && !(e.2.sq.any fun (r : TReq) => r.st == RqSt.sent || r.st == RqSt.settling)
    let lru := free.foldl (fun (b : Option (Nat × Nat)) e => match b with
      | none => some (e.1.1, e.2.used)
      | some (x, u) => if e.2.used < u then some (e.1.1, e.2.used) else some (x, u)) none
    lru.map fun x => s.updCtx x.1 fun c => { c with chip := false }

/-- A context is used: its place in the order of use, or the start of its fetch (R353). -/
def State.ctxUse (s : State) (x : Nat) : State :=
  match s.ctx? x with
  | none => s
  | some c =>
    if c.chip then { s.putCtx x { c with used := s.rae.clock } with rae := { (s.putCtx x { c with used := s.rae.clock }).rae with clock := s.rae.clock + 1 } }
    else if c.fetching then s
    else (s.putCtx x { c with fetching := true }).count .CTX_MISS_CNT 0 .RAE_FLAGS_CNT_OVF 0 1

/-! ### Responder -/

/-- A packet's destination addresses are those of an enabled network port (R349). -/
def State.addrOk (s : State) (p : Pkt) : Bool :=
  s.netPort p.port && p.mac == s.rdi .MAC p.port &&
    (if p.v6 then p.ip == s.rdi .IPV6_LO p.port + 2 ^ 64 * s.rdi .IPV6_HI p.port else p.ip == s.rdi .IPV4 p.port)

/-- A packet marked CE draws a CNP, at most one per context per CNP_INTERVAL_US (R369; OP_TIME counts 25 to a
microsecond). -/
def State.cnpFor (s : State) (x : Nat) (p : Pkt) : State :=
  match s.ctx? x with
  | none => s
  | some c =>
    let now := s.rd .OP_TIME
    let due : Bool := match c.cnpAt with
      | none => true
      | some t => decide (t + 25 * s.rd .CNP_INTERVAL_US ≤ now)
    if p.ce && s.fl .CC_EN && due then (s.putCtx x { c with cnpAt := some now }).ctxSend x 0x81 0 [] [] else s

/-- The object and offset that a request addresses through a key with a right (0 RD, 1 WR, 2 AT) (R355, R356). -/
def State.keyAt (s : State) (c : RCtx) (rkey right va len : Nat) : Option (Nat × Obj × Nat) :=
  match mget s.rae.keys (rkey / 2 ^ 16, 0) with
  | none => none
  | some ws =>
    let w0 := ws.getD 0 0
    let w3 := ws.getD 3 0
    let d := (va + 2 ^ 64 - ws.getD 2 0) % 2 ^ 64
    if bits w3 48 16 != rkey % 2 ^ 16 || bits w0 32 8 != c.dom || !bit w0 (40 + right)
        || decide (bits w3 0 48 < d + len) then none
    else match s.own? (bits w0 0 32) with
      | none => none
      | some o =>
        let ofs := bits (ws.getD 1 0) 0 48 + d
        if o.size < ofs + len then none else some (bits w0 0 32, o, ofs)

/-- The page of an object is ready for the engine: T1, or ZERO for a reader; else what it waits for (R189). -/
def State.raePage (s : State) (d obj tp : Nat) (o : Obj) (rd : Bool) : State × Option Why :=
  match s.pageHeld obj tp (o.mapBase + tp) with
  | some w => (s, some w)
  | none =>
    let e := s.mapE (o.mapBase + tp)
    if e.st = .t1 then (s.dropDemotion obj tp, none)
    else if e.st = .zero && rd then (s, none)
    else (s.needPage obj tp d false, some .page)

/-- All pages of a range; the last that waits with its reason. -/
def State.raePages (s : State) (d obj : Nat) (o : Obj) (ofs len : Nat) (rd : Bool) : State × Option (Why × Nat) :=
  (pagesOf ofs len).foldl (fun (x : State × Option (Why × Nat)) (tp : Nat) =>
    let y := x.1.raePage d obj tp o rd
    (y.1, match y.2 with
      | some w => some (w, tp)
      | none => x.2)) (s, none)

/-- A packet's page is being fetched though its object is gone: it waits for the fetch (Table 07.8). -/
def State.goneWait (s : State) (x psn : Nat) : Bool := s.waits.any fun w => w.ent == Ent.rdma x psn && w.why == Why.gone

/-- What a packet of a deleted object reads, once its wait is over. -/
def RCtx.goneOf (c : RCtx) (psn : Nat) : Option (List Nat) := (c.gone.find? fun g => g.1 == psn).map (·.2)

/-- The packet of a deleted object is answered. -/
def State.goneEnd (s : State) (x psn : Nat) : State := s.updCtx x fun c => { c with gone := c.gone.filter fun g => g.1 != psn }

/-- The code pages of a range that a write would charge, as (map index, code page) (R59). -/
def State.uncharged (s : State) (o : Obj) (ofs len : Nat) : List (Nat × Nat) :=
  if !o.persist || len = 0 then []
  else
    let cps := (List.range ((ofs + len - 1) / 4096 - ofs / 4096 + 1)).map fun i => (o.mapBase + (ofs / 4096 + i) / 16, (ofs / 4096 + i) % 16)
    cps.filter fun k => (s.mapE k.1).cpSt k.2 == 0 || (s.mapE k.1).cpSt k.2 == 3

/-- What came of placing a write's bytes: done (with lines that failed), waiting after some lines, or refused
until later with an RNR NAK (R359). -/
inductive Plc where
  | done (bad : Bool)
  | wait (why : Why) (tp lines : Nat)
  | rnr (why : Why) (tp : Nat)

/-- Place a packet's bytes at an object offset for domain d, from line `p.cmp` on (R356, R359): pages, locked
ranges, fences and float first, then host copies (R47). -/
def State.place (s : State) (d : Nat) (p : Pkt) (obj : Nat) (o : Obj) (ofs : Nat) : State × Plc :=
  let len := p.data.length
  let tp0 := ofs / 65536
  if len = 0 then (s, .done false)
  else
    let r := s.raePages d obj o ofs len false
    match r.2 with
    | some (why, tp) => (r.1, .wait why tp 0)
    | none =>
      let s := r.1
      if (pagesOf ofs len).any (s.atomicHolds obj ·) then (s, .wait .atomic tp0 0)
      else match (if o.mirror then s.mirWait obj else none) with
        | some .fence => (s, .rnr .fence tp0)
        | some w => (s.when (w == .retx) (·.setf .RETX_FULL true), .wait w tp0 0)
        | none =>
          if !s.canCharge2 d (s.uncharged o ofs len).length (s.mirNeedsAll o obj (pagesOf ofs len)) then (s, .rnr .flt tp0)
          else
            let la := fun (ln : Nat) => 1024 * (s.mapE (o.mapBase + ln / 1024)).frame + ln % 1024
            let inv := (linesOf ofs len).filter fun ln => s.others (la ln) none ≠ []
            if inv ≠ [] then
              (s.each inv fun s ln => s.each (s.others (la ln) none) fun s l => s.snoop l (la ln), .wait .snoop tp0 0)
            else
              let pr := s.probeLines o d (partLines ofs len (linesOf ofs len)) p.bad
              let ws := pr.1.writeList o ofs len (linesOf ofs len) (fun x => p.data.getD (x - ofs) 0) [] pr.2
              let r := pr.1.storeLines d sc1 obj o (ws.drop p.cmp)
              match r.2.2 with
              | some why => (r.1, .wait why tp0 r.2.1)
              | none => (r.1, .done (ws.any fun w => w.fail?.isSome))

/-- The message that a WRITE packet belongs to, none when no message under way reaches it: its own, for a
First or Only. -/
def State.msgOf (s : State) (c : RCtx) (p : Pkt) : Option (RMsg × Nat) :=
  if opIsFirst p.op then (s.keyAt c p.rkey 1 p.va p.len).map fun k => (⟨p.psn, k.1, k.2.2, p.len⟩, 0)
  else (c.msgs.find? fun m => psnAfter m.psn p.psn != 0 && decide (psnAfter m.psn p.psn * c.mtu < m.len)).map fun m =>
    (m, psnAfter m.psn p.psn)

/-- A packet lies inside a message under way. -/
def RCtx.inMsg (c : RCtx) (p : Pkt) : Bool :=
  c.msgs.any fun m => psnAfter m.psn p.psn != 0 && decide (psnAfter m.psn p.psn * c.mtu < m.len)

/-- The payload of packet i of a message agrees with the message's length (Table 14.5). -/
def RCtx.lenOk (c : RCtx) (p : Pkt) (m : RMsg) (i : Nat) : Bool :=
  let rest := m.len - i * c.mtu
  if opIsEnd p.op then p.data.length == rest && decide (rest ≤ c.mtu)
  else p.data.length == c.mtu && decide (c.mtu < rest)

/-- Sequence error NAK naming the expected PSN (R357). -/
def State.seqNak (s : State) (x : Nat) (c : RCtx) : State := s.ctxNak x c.epsn synSeq

/-- The context's cumulative ACK (R361). -/
def State.cumAck (s : State) (x : Nat) : State :=
  match s.ctxReady x with
  | none => s
  | some c => s.ctxSend x 0x11 c.ackPsn [0] []

/-- The expected PSN moves past contiguous placed PSNs; the second part lists the flagged ones passed. -/
def passPlaced : Nat → Nat → List Nat → Nat × List Nat
  | 0, e, _ => (e, [])
  | n + 1, e, placed =>
    if placed.contains e then passPlaced n ((e + 1) % 2 ^ 24) placed
    else if placed.contains (e + 2 ^ 24) then
      let r := passPlaced n ((e + 1) % 2 ^ 24) placed
      (r.1, e :: r.2)
    else (e, [])

/-- A packet of n PSNs at the expected PSN was processed: the expected PSN advances over it and over what was
placed ahead (R361), messages and parked FIN packets behind it are forgotten, and its wait ends. -/
def State.rxAdvance (s : State) (x n : Nat) : State × List Nat :=
  match s.ctxReady x with
  | none => (s, [])
  | some c =>
    let r := passPlaced c.placed.length ((c.epsn + n) % 2 ^ 24) c.placed
    let ahead := fun (q : Nat) => decide (psnAfter r.1 q < 2 ^ 23)
    (s.putCtx x { c with
      epsn := r.1, gap := false, rnr := false
      placed := c.placed.filter fun q => ahead (q % 2 ^ 24)
      fins := c.fins.filter fun (q : Pkt) => ahead q.psn
      msgs := c.msgs.filter fun (m : RMsg) => ahead ((m.psn + c.packets m.len - 1) % 2 ^ 24) }, r.2)

/-- Table 14.6 for a flagged message that became locally persistent: its fence is accepted (R362). -/
def State.rxFence (s : State) (x d psn : Nat) : State :=
  (s.updCtx x fun c => { c with fence := some (psn, 2, 0) }).acceptFence (.rdma x psn) d 0

/-- A processed WRITE or SEND packet: TRIG_COUNT, the acknowledgement and the fences (R361, R362, R367). -/
def State.rxDone (s : State) (x : Nat) (c : RCtx) (p : Pkt) : State :=
  let s := s.entGo (.rdma x p.psn) c.dom
  let r := s.rxAdvance x 1
  let s := if opBumps p.op then r.1.updCtx x fun c => { c with count := c.count + 1, exam := true } else r.1
  let more : Bool := match s.ctxReady x with
    | some t => t.epsn != (p.psn + 1) % 2 ^ 24
    | none => false
  let s := if p.ackReq || more then s.cumAck x else s
  s.each ((if Pkt_settle p then [p.psn] else []) ++ r.2) fun s q => s.rxFence x c.dom q

/-- A packet waits at its context; the context's later packets park (R354, log entry 11). -/
def State.rxWait (s : State) (x : Nat) (c : RCtx) (p : Pkt) (why : Why) (obj tp : Nat) : State :=
  (s.updCtx x fun c => { c with blocked := some p }).entWait (.rdma x p.psn) c.dom why obj tp

/-- The RNR NAK of R359; the refused packet counts as waiting from its first refusal. -/
def State.rxRnr (s : State) (x : Nat) (c : RCtx) (p : Pkt) (why : Why) (obj tp : Nat) : State :=
  let s := (s.ctxSend x 0x11 p.psn [0x20 + s.rd .RNR_TIMER] []).count .RNR_SENT_CNT 0 .RAE_FLAGS_CNT_OVF 0 4
  (s.updCtx x fun c => { c with rnr := p.psn == c.epsn || c.rnr }).entWait (.rdma x p.psn) c.dom why obj tp

/-- A WRITE packet has been placed, at the expected PSN or ahead of it (R361). -/
def State.rxPlaced (s : State) (x : Nat) (c : RCtx) (p : Pkt) (ahead : Bool) : State :=
  if ahead then
    let s := (s.entGo (.rdma x p.psn) c.dom).updCtx x fun c =>
      { c with placed := c.placed ++ [p.psn + (if Pkt_settle p then 2 ^ 24 else 0)] }
    if p.ackReq then s.cumAck x else s
  else s.rxDone x c p

/-- A WRITE packet at the expected PSN, or placed ahead in relaxed mode (R356, R361). -/
def State.rxWrite (s : State) (x : Nat) (c : RCtx) (p : Pkt) (ahead : Bool) : State :=
  if s.goneWait x p.psn then s.updCtx x fun c => { c with blocked := some p }
  else if (c.goneOf p.psn).isSome then (s.goneEnd x p.psn).rxPlaced x c p ahead
  else match s.msgOf c p with
  | none =>
    if opIsFirst p.op then s.ctxNak x p.psn synAcc
    else if ahead then (if c.gap then s else (s.updCtx x fun c => { c with gap := true }).seqNak x c)
    else s.ctxNak x p.psn synInv
  | some (m, i) =>
    let ofs := m.ofs + i * c.mtu
    if (opIsFirst p.op && c.inMsg p) || !c.lenOk p m i then s.ctxNak x p.psn synInv
    else match s.own? m.obj with
      | none => s.ctxNak x p.psn synAcc
      | some o =>
        if o.size < ofs + p.data.length then s.ctxNak x p.psn synAcc
        else
          let r := s.place c.dom p m.obj o ofs
          let s := if opIsFirst p.op && !opIsEnd p.op && !c.msgs.contains m then r.1.updCtx x fun c => { c with msgs := c.msgs ++ [m] } else r.1
          match r.2 with
          | .wait why tp n => s.rxWait x c { p with cmp := p.cmp + n } why m.obj tp
          | .rnr why tp => s.rxRnr x c p why m.obj tp
          | .done true => (s.entGo (.rdma x p.psn) c.dom).ctxNak x p.psn synOp
          | .done false => s.rxPlaced x c p ahead

/-- The offset in its range and the length of packet i of a READ's answer. -/
def RCtx.part (c : RCtx) (len i : Nat) : Nat × Nat := (i * c.mtu, min c.mtu (len - i * c.mtu))

/-- How many packets of a READ's answer can be sent before one that fails. -/
def RCtx.goodParts (c : RCtx) (len : Nat) (fail : Nat × Nat → Bool) : Nat :=
  ((List.range (c.packets len)).takeWhile fun i => !fail (c.part len i)).length

/-- The first n response packets of a READ (R356); `byte` gives a byte of the range. -/
def State.readSend (s : State) (x : Nat) (c : RCtx) (p : Pkt) (n : Nat) (byte : Nat → Nat) : State :=
  let k := c.packets p.len
  let op := fun (i : Nat) => if k = 1 then 0x10 else if i = 0 then 0x0D else if i + 1 = k then 0x0F else 0x0E
  s.each (List.range n) fun t i =>
    t.ctxSend x (op i) (p.psn + i) [0] ((List.range (c.part p.len i).2).map fun j => byte ((c.part p.len i).1 + j))

/-- A READ request's answer (R356), once its pages are there: response packets, with a NAK in place of the one
that holds a failing line; false while it waits. -/
def State.readOne (s : State) (x : Nat) (c : RCtx) (p : Pkt) : State × Bool :=
  if s.goneWait x p.psn then (s, false)
  else match c.goneOf p.psn with
  | some bs =>
    let n := c.goodParts p.len fun y => ((bs.drop y.1).take y.2).contains 256
    let s := (s.goneEnd x p.psn).readSend x c p n (bs.getD · 0)
    (if n = c.packets p.len then s else s.ctxNak x (p.psn + n) synOp, true)
  | none => match s.keyAt c p.rkey 0 p.va p.len with
  | none => (s.ctxNak x p.psn synAcc, true)
  | some (obj, o, ofs) =>
    let r := s.raePages c.dom obj o ofs p.len true
    match r.2 with
    | some (why, tp) => (r.1.entWait (.rdma x p.psn) c.dom why obj tp, false)
    | none =>
      let pr := r.1.probeLines o c.dom (linesOf ofs p.len) p.bad
      let s := pr.1.entGo (.rdma x p.psn) c.dom
      let fail := fun (ln : Nat) => (s.objLine o ln pr.2).2
      let n := c.goodParts p.len fun y => (linesOf (ofs + y.1) y.2).any fail
      let s2 := s.readSend x c p n fun k => s.objByte o (ofs + k)
      let s2 := s2.each (linesOf ofs (min p.len (n * c.mtu))) fun t ln => t.readTouch obj o sc1 ln
      if n = c.packets p.len then (s2, true)
      else
        let y := c.part p.len n
        let bad := (linesOf (ofs + y.1) y.2).filter fail
        let s3 := s2.each (bad.filter fun ln => !pr.2.contains ln) fun t ln =>
          t.mediaEvent 1 (1024 * (t.mapE (o.mapBase + ln / 1024)).frame + ln % 1024)
        (s3.ctxNak x (p.psn + n) synOp, true)

/-- READ requests are answered in order; the first that waits keeps the later ones. -/
def State.readsRun : Nat → Nat → State → State
  | 0, _, s => s
  | n + 1, x, s => match s.ctxReady x with
    | none => s
    | some c => match c.reads with
      | [] => s
      | p :: _ =>
        let r := s.readOne x c p
        if r.2 then State.readsRun n x (r.1.updCtx x fun c => { c with reads := c.reads.drop 1 }) else r.1

/-- A READ request at the expected PSN (R360): accepted within MAX_RD_ATOMIC, its responses take its PSNs. -/
def State.rxRead (s : State) (x : Nat) (c : RCtx) (p : Pkt) : State :=
  if (s.keyAt c p.rkey 0 p.va p.len).isNone then s.ctxNak x p.psn synAcc
  else if c.inMsg p || decide (c.maxRd ≤ c.reads.length) then s.ctxNak x p.psn synInv
  else
    let s := (s.rxAdvance x (c.packets p.len)).1.updCtx x fun c => { c with reads := c.reads ++ [p] }
    State.readsRun (c.reads.length + 1) x s

/-- An atomic at the expected PSN (R360): eight bytes, little-endian, read and written in one step; it waits for
READs before it. -/
def State.rxAtomic (s : State) (x : Nat) (c : RCtx) (p : Pkt) : State :=
  let fin := fun (s : State) (old : Nat) =>
    let s := (s.entGo (.rdma x p.psn) c.dom).updCtx x fun c =>
      { c with atomics := (c.atomics ++ [(p.psn, old)]).drop (c.atomics.length + 1 - 16) }
    (s.rxAdvance x 1).1.ctxSend x 0x12 p.psn [0] (toBytes 8 old)
  if s.goneWait x p.psn then s.updCtx x fun c => { c with blocked := some p }
  else match c.goneOf p.psn with
  | some bs => if bs.contains 256 then (s.goneEnd x p.psn).ctxNak x p.psn synOp else fin (s.goneEnd x p.psn) (ofBytes bs)
  | none => match s.keyAt c p.rkey 2 p.va 8 with
  | none => s.ctxNak x p.psn synAcc
  | some (obj, o, ofs) =>
    if p.va % 8 != 0 || ofs % 8 != 0 || c.inMsg p || decide (c.maxRd ≤ c.reads.length) then s.ctxNak x p.psn synInv
    else
      let tp := ofs / 65536
      let ln := ofs / 64
      if !c.reads.isEmpty then s.rxWait x c p .page obj tp
      else
        let r := s.raePage c.dom obj tp o false
        match r.2 with
        | some why => r.1.rxWait x c p why obj tp
        | none =>
          let s := r.1
          let la := 1024 * (s.mapE (o.mapBase + tp)).frame + ln % 1024
          if s.atomicHolds obj tp then s.rxWait x c p .atomic obj tp
          else if s.others la none ≠ [] then (s.each (s.others la none) fun s l => s.snoop l la).rxWait x c p .snoop obj tp
          else
            let pr := s.probeLines o c.dom [ln] p.bad
            let s := pr.1
            let v := s.objLine o ln pr.2
            if v.2 then s.ctxNak x p.psn synOp
            else
              let old := bits v.1.toNat (8 * (ofs % 64)) 64
              let new := if p.op = 0x13 then (if old = p.cmp then p.swap else old) else (old + p.swap) % 2 ^ 64
              let wr : Bool := p.op != 0x13 || old == p.cmp
              if !wr then fin (s.readTouch obj o sc1 ln) old
              else match (if o.mirror then s.mirWait obj else none) with
                | some .fence => s.rxRnr x c p .fence obj tp
                | some w => s.rxWait x c p w obj tp
                | none =>
                  if !s.canCharge2 c.dom (s.uncharged o ofs 8).length (s.mirNeeds o obj tp) then s.rxRnr x c p .flt obj tp
                  else
                    let data : Line := BitVec.ofNat 512 (new % 2 ^ 64 * 2 ^ (8 * (ofs % 64)))
                    let m : Mask := BitVec.ofNat 64 (255 * 2 ^ (ofs % 64))
                    let w := s.storeLine c.dom sc1 obj o ln data m false
                    match w.2 with
                    | some why => w.1.rxWait x c p why obj tp
                    | none => fin w.1 old

/-- A packet at the expected PSN (R357, Table 14.5). -/
def State.rxExpected (s : State) (x : Nat) (c : RCtx) (p : Pkt) : State :=
  if opIsWr p.op then s.rxWrite x c p false
  else if p.op = 0x0C then s.rxRead x c p
  else if p.op = 0x13 ∨ p.op = 0x14 then s.rxAtomic x c p
  else if (p.op = 4 ∨ p.op = 5) ∧ p.data = [] ∧ !c.inMsg p then s.rxDone x c p
  else s.ctxNak x p.psn synInv

/-- A duplicate (R358): never applied again. -/
def State.rxDup (s : State) (x : Nat) (c : RCtx) (p : Pkt) : State :=
  let s := s.count .RAE_DUP_CNT 0 .RAE_FLAGS_CNT_OVF 0 2
  if p.op = 0x0C then
    let s := s.updCtx x fun c => { c with reads := (c.reads.filter fun (q : Pkt) => q.psn != p.psn) ++ [p] }
    State.readsRun (c.reads.length + 1) x s
  else if p.op = 0x13 ∨ p.op = 0x14 then
    match c.atomics.find? fun a => a.1 == p.psn with
    | some a => s.ctxSend x 0x12 p.psn [0] (toBytes 8 a.2)
    | none => s.ctxNak x p.psn synOp
  else
    let s := if p.ackReq then s.cumAck x else s
    match (if Pkt_settle p then c.fence else none) with
    | some f => s.ctxSend x 0xC1 p.psn [f.2.1, f.2.2] []
    | none => s

/-- A packet is parked as the context given holds it, or dropped when the buffer is full (R354). -/
def State.rxPark (s : State) (x : Nat) (c : RCtx) (p : Pkt) : State :=
  if 256 ≤ s.rd .PARK_PKTS ∨ 2 ^ 20 < s.rd .PARK_BYTES + p.data.length then
    let s := s.count .PARK_DROP_CNT 0 .RAE_FLAGS_CNT_OVF 0 0
    if s.once.contains (354, 0) then s
    else { s.setf .PARK_FULL true with once := s.once ++ [(354, 0)] }
  else (s.putCtx x c).raeRegs

/-- A packet ahead of the expected PSN (R361). -/
def State.rxAhead (s : State) (x : Nat) (c : RCtx) (p : Pkt) : State :=
  if c.rnr then s
  else if c.placed.contains p.psn || c.placed.contains (p.psn + 2 ^ 24) then s.rxDup x c p
  else if c.relaxed && Pkt_fin p then
    if c.fins.any fun (q : Pkt) => q.psn == p.psn then s else s.rxPark x { c with fins := c.fins ++ [p] } p
  else if c.relaxed && opIsWr p.op && !opBumps p.op && decide (psnAfter c.epsn p.psn ≤ 1024) then s.rxWrite x c p true
  else if c.gap then s
  else (s.updCtx x fun c => { c with gap := true }).seqNak x c

/-- Process one packet of a ready context (R357). -/
def State.rxProcess (s : State) (x : Nat) (p : Pkt) : State :=
  match s.ctxReady x with
  | none => s
  | some c =>
    let d := psnAfter p.psn c.epsn
    if d = 0 then s.rxExpected x c p
    else if d ≤ 8192 then s.rxDup x c p
    else if d < 2 ^ 23 then s.seqNak x c
    else s.rxAhead x c p

/-- The packets that a context holds back, in order: a FIN packet whose turn came, then the parked ones (R354). -/
def State.rxNext : Nat → Nat → State → State
  | 0, _, s => s
  | n + 1, x, s => match s.ctxReady x with
    | none => s
    | some c =>
      if c.blocked.isSome || !c.chip then s
      else match c.fins.find? fun (q : Pkt) => q.psn == c.epsn with
        | some p => State.rxNext n x ((s.putCtx x { c with fins := c.fins.filter fun q => q != p }).rxProcess x p)
        | none => match c.parked with
          | [] => s
          | p :: r => State.rxNext n x ((s.putCtx x { c with parked := r }).rxProcess x p)

/-- Go on with what a context holds back. -/
def State.rxGo (s : State) (x : Nat) : State :=
  match s.ctxReady x with
  | none => s
  | some c =>
    let n := c.parked.length + c.fins.length
    match c.blocked with
    | some p => State.rxNext n x ((s.putCtx x { c with blocked := none }).rxProcess x p)
    | none => State.rxNext n x s

/-- A packet arrives (R349, R351, R354). -/
def State.rx (s : State) (p : Pkt) : State :=
  let x := p.qpn - 0x10000
  let c := if s.addrOk p && decide (0x10000 ≤ p.qpn) && decide (p.qpn < 0x20000) then s.ctxReady x else none
  match c with
  | none => s.count .RX_DROP_CNT 0 .RAE_FLAGS_CNT_OVF 0 7
  | some _ =>
    let s := (s.cnpFor x p).ctxUse x
    match s.ctxReady x with
    | none => s
    | some c =>
      if !c.chip || !c.parked.isEmpty || c.blocked.isSome then s.rxPark x { c with parked := c.parked ++ [p] } p
      else
        let s := s.rxProcess x p
        State.rxNext c.fins.length x s

/-! ### Requester -/

/-- A slot's OP (Table 14.8). -/
def TReq.op (r : TReq) : Nat := bits r.slot 0 8
/-- A slot's SETTLE. -/
def TReq.settle (r : TReq) : Bool := bit r.slot 9
/-- A slot's LENGTH. -/
def TReq.len (r : TReq) : Nat := bits r.slot 160 32
/-- A slot's LOCAL_OBJ. -/
def TReq.lobj (r : TReq) : Nat := bits r.slot 128 32
/-- A slot's LOCAL_OFFSET. -/
def TReq.lofs (r : TReq) : Nat := bits r.slot 192 48

/-- Packet i of a request: a READ asks from its packet i on; a WRITE or SEND carries that packet's bytes, with
AckReq, SETTLE and FIN on its last (Table 14.2, R350). -/
def State.emit (s : State) (t : Nat) (c : RCtx) (r : TReq) (i : Nat) : State :=
  let va := bits r.slot 256 64
  let key := bits r.slot 320 32
  let last : Bool := i + 1 == r.n
  let imm := bits r.slot 96 32
  let bytes := (r.data.drop (i * c.mtu)).take c.mtu
  let fl := if last then 128 + 64 * b2n r.settle + 32 * b2n (bit r.slot 10) else 0
  if r.op = 3 then s.ctxSend t 0x0C (r.psn + i) [0, (va + i * c.mtu) % 2 ^ 64, key, r.len - i * c.mtu] []
  else if r.op = 4 then
    let op := if r.n = 1 then 4 else if i = 0 then 0 else if last then 2 else 1
    s.ctxSend t op (r.psn + i) [fl] bytes
  else
    let w := b2n (last && r.op == 2)
    let op := if r.n = 1 then 0xA + w else if i = 0 then 6 else if last then 8 + w else 7
    s.ctxSend t op (r.psn + i) ([fl] ++ (if i = 0 then [va, key, r.len] else []) ++ (if w = 1 then [imm] else [])) bytes

/-- Send packets of a request from number i on. -/
def State.emitFrom (s : State) (t : Nat) (c : RCtx) (r : TReq) (i : Nat) : State :=
  if r.op = 3 then s.emit t c r i else s.each ((List.range r.n).drop i) fun s k => s.emit t c r k

/-- Packets of a request that need not be sent again: those acknowledged, or received of a READ. -/
def TReq.got (r : TReq) (c : RCtx) : Nat := if r.op = 3 then r.data.length / c.mtu else r.part

/-- Resend every sent packet from a PSN on (R364). -/
def State.raeResend (s : State) (t psn : Nat) : State :=
  match s.ctxReady t with
  | none => s
  | some c => s.each (c.sq.filter fun (r : TReq) => r.st == RqSt.sent) fun s r =>
    let k := psnAfter r.psn psn
    if 2 ^ 23 ≤ k then s.emitFrom t c r (r.got c)
    else if k < r.n then s.emitFrom t c r (max k (r.got c)) else s

/-- Change the requests of a context. -/
def State.updReq (s : State) (t : Nat) (f : TReq → TReq) : State := s.updCtx t fun c => { c with sq := c.sq.map f }

/-- Acknowledged progress (R364, R365): the retry counts start anew. -/
def State.progress (s : State) (t : Nat) : State := s.updCtx t fun c => { c with retries := 0, rnrs := 0 }

/-- A cumulative ACK of a PSN: sent WRITE and SEND requests that it covers, up to the first READ still without
its data, are complete, or wait for SETTLE_ACK. -/
def ackReqs (c : RCtx) (psn : Nat) : List TReq → List TReq
  | [] => []
  | r :: rest =>
    if r.st == RqSt.sent then
      if r.op = 3 then r :: rest
      else
        let k := psnAfter r.psn psn
        if 2 ^ 23 ≤ k then r :: rest
        else if k + 1 < r.n then { r with part := max r.part (k + 1) } :: rest
        else (if r.settle then { r with st := .settling } else r.finish 0 0) :: ackReqs c psn rest
    else r :: ackReqs c psn rest

/-- A PSN lies among those sent and not beyond. -/
def RCtx.sentPsn (c : RCtx) (psn : Nat) : Bool :=
  match c.sq.find? fun (r : TReq) => r.st == RqSt.sent || r.st == RqSt.settling with
  | none => false
  | some r => decide (psnAfter r.psn psn < 2 ^ 23) && decide (psnAfter psn c.spsn ≤ 2 ^ 23) && psn != c.spsn

/-- Apply a cumulative ACK. -/
def State.ackUpTo (s : State) (t psn : Nat) : State :=
  match s.ctxReady t with
  | none => s
  | some c =>
    if !c.sentPsn psn then s
    else
      let q := ackReqs c psn c.sq
      if q = c.sq then s else (s.putCtx t { c with sq := q }).progress t

/-- A request's local checks and payload (R368, Table 14.9): what it waits for, a failure status, or ready with
its data; a READ's charges are admitted here. -/
def State.reqReady (s : State) (r : TReq) : State × (Option (Why × Nat)) × Nat × List Nat :=
  match s.own? r.lobj with
  | none => (s, none, 0x11, [])
  | some o =>
    if o.size < r.lofs + r.len then (s, none, 0x12, [])
    else if !(if r.op = 3 then o.canWrite r.dom else o.canRead r.dom) then (s, none, 0x13, [])
    else
      let p := s.raePages r.dom r.lobj o r.lofs r.len (r.op != 3)
      match p.2 with
      | some w => (p.1, some w, 0, [])
      | none =>
        if r.op = 3 then
          let ks := p.1.uncharged o r.lofs r.len
          if !p.1.canCharge r.dom ks.length then (p.1, some (.flt, r.lofs / 65536), 0, [])
          else (p.1.each ks fun s k => s.chargeCp k.1 k.2 r.dom, none, 0, [])
        else
          let pr := p.1.probeLines o r.dom (linesOf r.lofs r.len) []
          let s := pr.1
          if (linesOf r.lofs r.len).any fun ln => (s.objLine o ln pr.2).2 then (s, none, 0x30, [])
          else
            let t := s.each (linesOf r.lofs r.len) fun s ln => s.readTouch r.lobj o sc1 ln
            (t, none, 0, (List.range r.len).map fun k => s.objByte o (r.lofs + k))

/-- Send the queued requests of a context in order, until one waits (R366, R368); none while an RNR NAK stands. -/
def State.sendNext : Nat → Nat → State → State
  | 0, _, s => s
  | n + 1, t, s => match s.ctxReady t with
    | none => s
    | some c =>
      if c.rnrAt.isSome then s
      else match c.sq.find? fun (r : TReq) => r.st == RqSt.queued with
        | none => s
        | some r =>
          let a := s.reqReady r
          let put := fun (s : State) (q : TReq) => s.updReq t fun (y : TReq) => if y = r then q else y
          match a.2.1 with
          | some (why, tp) => a.1.entWait (.rdma t ownPsn) r.dom why r.lobj tp
          | none =>
            let s := a.1.entGo (.rdma t ownPsn) r.dom
            if a.2.2.1 != 0 then State.sendNext n t (put s (r.finish a.2.2.1 0))
            else
              let k := c.packets r.len
              let q : TReq := { r with st := .sent, psn := c.spsn, n := k, data := a.2.2.2 }
              let s := (put s q).updCtx t fun c => { c with spsn := (c.spsn + k) % 2 ^ 24 }
              State.sendNext n t (s.emitFrom t c q 0)

/-- The data of a completed READ is written as WRITE commands write (R368); lines already written are counted in
`part`. -/
def State.storeRead (s : State) (t : Nat) (r : TReq) : State :=
  let put := fun (s : State) (q : TReq) => s.updReq t fun (y : TReq) => if y = r then q else y
  match s.own? r.lobj with
  | none => put s (r.finish 0x11 0)
  | some o =>
    if o.size < r.lofs + r.len then put s (r.finish 0x12 0)
    else
      let p := s.raePages r.dom r.lobj o r.lofs r.len false
      match p.2 with
      | some (why, tp) => p.1.entWait (.rdma t ownPsn) r.dom why r.lobj tp
      | none =>
        let tp0 := r.lofs / 65536
        if (pagesOf r.lofs r.len).any (p.1.atomicHolds r.lobj ·) then p.1.entWait (.rdma t ownPsn) r.dom .atomic r.lobj tp0
        else
          let lns := linesOf r.lofs r.len
          let pr := p.1.probeLines o r.dom (partLines r.lofs r.len lns) []
          let ws := pr.1.writeList o r.lofs r.len lns (fun x => r.data.getD (x - r.lofs) 0) [] pr.2
          let w := pr.1.storeLines r.dom sc1 r.lobj o (ws.drop r.part)
          match w.2.2 with
          | some why => (put w.1 { r with part := r.part + w.2.1 }).entWait (.rdma t ownPsn) r.dom why r.lobj tp0
          | none =>
            let s := w.1.entGo (.rdma t ownPsn) r.dom
            put s (r.finish (if ws.any fun w => w.fail?.isSome then 0x30 else 0) 0)

/-- The slot's line at completion (R368): VALID 0, STATUS and DONE_MARK, the rest as read. -/
def TReq.line (r : TReq) : Line :=
  BitVec.ofNat 512 (setBits (setBits (setBit r.slot 8 false) 384 8 r.status) 448 64 r.mark)

/-- Write the slot of a request that ended; none while it waits. -/
def State.slotWrite (s : State) (t : Nat) (r : TReq) : State × Bool :=
  let w := fun (s : State) (why : Why) => (s.entWait (.rdma t ownPsn) r.dom why r.obj (r.ofs / 65536), false)
  match s.own? r.obj with
  | none => (s, true)
  | some o =>
    if o.size < r.ofs + 64 then (s, true)
    else
      let p := s.raePage r.dom r.obj (r.ofs / 65536) o false
      match p.2 with
      | some why => w p.1 why
      | none =>
        if p.1.atomicHolds r.obj (r.ofs / 65536) then w p.1 .atomic
        else
          let q := p.1.storeLine r.dom sc1 r.obj o (r.ofs / 64) r.line fullMask false
          match q.2 with
          | some why => w q.1 why
          | none => (q.1.entGo (.rdma t ownPsn) r.dom, true)

/-- What a completed request sets off (R367): BUMP counts on its context, and both lists are examined. -/
def State.reqEnd (s : State) (r : TReq) : State :=
  let s := s.updCtx r.owner fun c => { c with opn := c.opn - 1, exam := true }
  if bit r.slot 11 && r.status != 0x10 then s.updCtx (bits r.slot 80 16) fun c => { c with count := c.count + 1, exam := true } else s

/-- Complete the requests of a context that ended (R368). -/
def State.completeAll (s : State) (t : Nat) : State :=
  match s.ctx? t with
  | none => s
  | some c => s.each (c.sq.filter fun (r : TReq) => r.st == RqSt.done) fun s r =>
    let w := s.slotWrite t r
    if w.2 then (w.1.updCtx t fun c => { c with sq := c.sq.filter fun q => q != r }).reqEnd r else w.1

/-- Slots of requests whose sending context was destroyed (R352). -/
def State.flushSlots (s : State) : State :=
  s.each s.rae.flush fun s r =>
    let w := s.slotWrite 65536 r
    if w.2 then { w.1 with rae := { w.1.rae with flush := w.1.rae.flush.filter fun q => q != r } }.reqEnd r else w.1

/-- Release slot TRIG_NEXT of context x (R366, R367): its request joins its sending context, or ends INVALID. -/
def State.release (s : State) (x : Nat) (c : RCtx) (slot : Nat) : State :=
  let t := bits slot 64 16
  let b := bits slot 80 16
  let okCtx := fun (y : Nat) => match s.ctxReady y with
    | some q => q.dom == c.dom
    | none => false
  let op := bits slot 0 8
  let r : TReq := ⟨x, c.dom, c.trigObj, c.slotOfs, slot, 0, 0, .queued, [], 0, 0, 0⟩
  let s := s.updCtx x fun c => { c with next := (c.next + 1) % 2 ^ bits (c.w 3) 48 4, opn := c.opn + 1 }
  if op = 0 || decide (4 < op) || !okCtx t || (bit slot 11 && !okCtx b) then
    s.updCtx x fun c => { c with sq := c.sq ++ [r.finish 0x10 0] }
  else s.updCtx t fun c => { c with sq := c.sq ++ [r] }

/-- A count has not reached a slot's threshold: modulo 2^32, it lies in the half below it (R366). -/
def notReached (count threshold : Nat) : Bool := decide (2 ^ 31 ≤ (count % 2 ^ 32 + 2 ^ 32 - threshold) % 2 ^ 32)

/-- Examine the trigger list of context x (R367). -/
def State.examine : Nat → Nat → State → State
  | 0, _, s => s
  | n + 1, x, s => match s.ctxReady x with
    | none => s
    | some c =>
      let stop := s.updCtx x fun c => { c with exam := false }
      if !c.exam || !c.trigEn || decide (64 ≤ c.opn) then stop
      else match s.own? c.trigObj with
        | none => stop
        | some o =>
          if o.size < c.slotOfs + 64 || !o.canRead c.dom then stop
          else
            let p := s.raePage c.dom c.trigObj (c.slotOfs / 65536) o true
            match p.2 with
            | some why => p.1.entWait (.rdma x (ownPsn + 1)) c.dom why c.trigObj (c.slotOfs / 65536)
            | none =>
              let s := (p.1.probeLines o c.dom [c.slotOfs / 64] []).1.entGo (.rdma x (ownPsn + 1)) c.dom
              let v := s.objLine o (c.slotOfs / 64) []
              let slot := v.1.toNat
              let stop := s.updCtx x fun c => { c with exam := false }
              if v.2 || !bit slot 8 then stop
              else if notReached c.count (bits slot 32 32) then stop
              else State.examine n x ((s.readTouch c.trigObj o sc1 (c.slotOfs / 64)).release x c slot)

/-- A context on chip does what it can; one that is not is fetched when it has something to do (R353). -/
def State.raeCtx (s : State) (x : Nat) : State :=
  match s.ctx? x with
  | none => s
  | some c =>
    if !c.chip then (if (c.exam && c.trigEn) || !c.sq.isEmpty || !c.reads.isEmpty || c.blocked.isSome then s.ctxUse x else s)
    else
      let s := State.readsRun c.reads.length x (s.rxGo x)
      let s := State.examine 64 x s
      let s := match s.ctx? x with
        | some c => (State.sendNext c.sq.length x s).each (c.sq.filter fun (r : TReq) => r.st == RqSt.storing) fun s r => s.storeRead x r
        | none => s
      s.completeAll x

/-- Passes over the contexts until nothing changes, at most n. -/
def State.raePass : Nat → State → State
  | 0, s => s
  | n + 1, s =>
    let t := (s.each (s.rae.ctxs.map (·.1.1)) State.raeCtx).flushSlots
    if t = s then s else State.raePass n t

/-- The engine goes on with everything that waited; from step 1 of the drain on it does nothing (R370). -/
def State.raeRun (s : State) : State :=
  if s.draining || (s.rae.ctxs.isEmpty && s.rae.flush.isEmpty) then s else (State.raePass 8 s).raeRegs

/-! ### Rows: packets received as responder -/

/-- A packet of the given opcodes arrives; from step 1 of the drain on every port stops receiving (R370). -/
def State.rxRow (s : State) (ok : Bool) (p : Pkt) : State := if s.draining || !ok then s else (s.rx p).raeRun

/-- RDMA_WRITE (R356, R357, R359, R361). -/
def execRdmaWrite (p : Pkt) (s : State) : Out := .next (s.rxRow (opIsWr p.op) { p with cmp := 0 })

/-- RDMA_SEND (R367), and every packet whose opcode no other row takes, answered NAK Invalid Request (R350). -/
def execRdmaSend (p : Pkt) (s : State) : Out :=
  .next (s.rxRow (!(opIsWr p.op) && !([0x0C, 0x0D, 0x0E, 0x0F, 0x10, 0x11, 0x12, 0x13, 0x14, 0x81, 0xC1].contains p.op)) p)

/-- RDMA_READ_REQUEST (R356, R360). -/
def execRdmaReadRequest (p : Pkt) (s : State) : Out := .next (s.rxRow (p.op == 0x0C) p)

/-- CMPSWAP (R360). -/
def execCmpswap (p : Pkt) (s : State) : Out := .next (s.rxRow (p.op == 0x13) p)

/-- FETCHADD (R360). -/
def execFetchadd (p : Pkt) (s : State) : Out := .next (s.rxRow (p.op == 0x14) p)

/-! ### Rows: packets and timers of the requester -/

/-- A row about a context's requests, unless a drain has begun; what it set free goes on. -/
def State.reqRow (s : State) (f : State → State) : State := if s.draining then s else (f s).raeRun

/-- ACKNOWLEDGE (R364): every packet up to a PSN is acknowledged. -/
def execAcknowledge (t psn : Nat) (s : State) : Out := .next (s.reqRow fun s => s.ackUpTo t psn)

/-- The request that holds a PSN ends with a status. -/
def State.failReq (s : State) (t psn status : Nat) : State :=
  s.updReq t fun (r : TReq) => if r.st == RqSt.sent && decide (psnAfter r.psn psn < r.n) then r.finish status 0 else r

/-- Retries are exhausted (R365): the oldest request in flight ends RETRY_EXC and the context enters error. -/
def State.retryExc (s : State) (t : Nat) : State :=
  let s := s.count .RETRY_EXC_CNT 0 .RAE_FLAGS_CNT_OVF 0 8
  let s := match (s.ctx? t).bind fun c => c.sq.find? fun (r : TReq) => r.st == RqSt.sent || r.st == RqSt.settling with
    | some q => s.updReq t fun (r : TReq) => if r = q then r.finish 0x40 0 else r
    | none => s
  s.ctxError t

/-- RDMA_NAK (R364, R365) with its syndrome: a NAK of Table 14.5, or an RNR NAK with its timer. Every packet
before the PSN is acknowledged. -/
def execRdmaNak (t psn syn : Nat) (s : State) : Out :=
  .next (s.reqRow fun s => match s.ctxReady t with
    | none => s
    | some c =>
      if !c.sentPsn psn then s
      else
        let s := s.ackUpTo t ((psn + 2 ^ 24 - 1) % 2 ^ 24)
        if syn / 32 = 1 then
          if c.rnrRetry != 7 && decide (c.rnrRetry ≤ ((s.ctx? t).map (·.rnrs)).getD 0) then s.retryExc t
          else s.updCtx t fun c => { c with rnrs := c.rnrs + 1, rnrAt := some psn }
        else if syn = synSeq then s.raeResend t psn
        else if syn = synAcc then (s.failReq t psn 0x41).ctxError t
        else if syn = synInv then (s.failReq t psn 0x42).ctxError t
        else if syn = synOp then (s.failReq t psn 0x43).ctxError t
        else s)

/-- RDMA_READ_RESPONSE (R368): the next packet of a READ; with the last one the data is written. -/
def execRdmaReadResponse (t psn : Nat) (data : List Nat) (s : State) : Out :=
  .next (s.reqRow fun s => match s.ctxReady t with
    | none => s
    | some c => match c.sq.find? fun (r : TReq) => r.st == RqSt.sent && r.op == 3 with
      | none => s
      | some r =>
        let i := r.got c
        if psn != (r.psn + i) % 2 ^ 24 || data.length != min c.mtu (r.len - i * c.mtu) then s
        else
          let s := if psnAfter r.psn psn = 0 then s.ackUpTo t ((psn + 2 ^ 24 - 1) % 2 ^ 24) else s
          let q : TReq := { r with data := r.data ++ data.map (· % 256), st := if i + 1 = r.n then .storing else .sent }
          (s.updReq t fun (y : TReq) => if y = r then q else y).progress t)

/-- SETTLE_ACK (R363, R365): OK and OK_SOLO end the flagged request; PENDING restarts the retry count. -/
def execSettleAck (t psn state mark : Nat) (s : State) : Out :=
  .next (s.reqRow fun s =>
    let hit := fun (r : TReq) => r.st == RqSt.settling && (r.psn + r.n - 1) % 2 ^ 24 == psn
    if !(((s.ctxReady t).map fun c => c.sq.any hit).getD false) then s
    else if state < 2 then (s.updReq t fun (r : TReq) => if hit r then r.finish (2 * state) mark else r).progress t
    else if state = 2 then s.updCtx t fun c => { c with retries := 0 }
    else s)

/-- RDMA_RETRY_TIMEOUT (R364, R365): resend from the oldest unacknowledged PSN, and each flagged packet that
waits for SETTLE_ACK; or error. -/
def execRdmaRetryTimeout (t : Nat) (s : State) : Out :=
  .next (s.reqRow fun s => match s.ctxReady t with
    | none => s
    | some c =>
      let sent := c.sq.filter fun (r : TReq) => r.st == RqSt.sent
      let wait := c.sq.filter fun (r : TReq) => r.st == RqSt.settling
      if (sent.isEmpty && wait.isEmpty) || c.rnrAt.isSome then s
      else if c.retryCnt ≤ c.retries then s.retryExc t
      else
        let s := (s.updCtx t fun c => { c with retries := c.retries + 1 }).count .RAE_RETX_CNT 0 .RAE_FLAGS_CNT_OVF 0 5
        let s := s.each wait fun s r => s.emit t c r (r.n - 1)
        s.each sent fun s r => s.emitFrom t c r (r.got c))

/-- RNR_TIMER_EXPIRY (R365): resend from the PSN of the RNR NAK. -/
def execRnrTimerExpiry (t : Nat) (s : State) : Out :=
  .next (s.reqRow fun s => match (s.ctxReady t).bind (·.rnrAt) with
    | none => s
    | some psn => (s.updCtx t fun c => { c with rnrAt := none }).raeResend t psn)

/-! ### Rows: congestion, flow control, ports, fetches -/

/-- The rate of a network port in Mb/s (Table 14.1, R349). -/
def State.portRate (s : State) (p : Nat) : Nat :=
  if (p < 2 && s.fl .E0_SPLIT) || (2 ≤ p && (s.fl .E1_SPLIT || (s.fli .MIRROR 2 && s.mir.half))) then 400000 else 800000

/-- CNP (R369): the context's rate is cut, to 1 Gb/s at least. -/
def execCnp (t : Nat) (s : State) : Out :=
  .next (if s.draining || (s.ctxReady t).isNone then s
    else
      let s := s.count .CNP_RX_CNT 0 .RAE_FLAGS_CNT_OVF 0 6
      if s.fl .CC_EN then s.updCtx t fun c => { c with rate := max 1000 (c.rate * (256 - s.rd .CC_CUT) / 256) } else s)

/-- CC_RECOVER (R369): the rate rises by CC_STEP_GBPS, up to the port's rate. -/
def execCcRecover (t : Nat) (s : State) : Out :=
  .next (if s.draining || !s.fl .CC_EN then s
    else s.updCtx t fun c => { c with rate := min (s.portRate c.port) (c.rate + 1000 * s.rd .CC_STEP_GBPS) })

/-- PFC_FRAME (R369): XOFF or XON on PFC_PRIO; XON sends what was held back. -/
def execPfcFrame (port : Nat) (xoff : Bool) (s : State) : Out :=
  .next (if s.draining || !s.netPort port || !s.fl .PFC_EN then s
    else if xoff then { s with rae := { s.rae with paused := withNat s.rae.paused port } }
    else
      let go := s.rae.held.filter fun m => m.1 == port
      let s := { s with rae := { s.rae with paused := without s.rae.paused port, held := s.rae.held.filter fun m => m.1 != port } }
      s.each go fun s m => s.send m.2)

/-- CONTEXT_FETCH_DONE (R353): the context is on chip and its parked packets are processed in order. -/
def execContextFetchDone (x : Nat) (s : State) : Out :=
  .next (match s.ctx? x with
    | none => s
    | some c =>
      if !c.fetching || s.draining then s
      else match s.ctxRoom with
        | none => s
        | some s => (((s.updCtx x fun c => { c with chip := true, fetching := false }).ctxUse x).rxGo x).raeRun)

/-- RAE_PORT_DOWN (R370): contexts with ALT_EN move to ALT_PORT and keep their PSNs. -/
def execRaePortDown (port : Nat) (s : State) : Out :=
  .next (if s.draining || !s.netPort port then s
    else
      let move := fun (c : RCtx) => if c.port == port && bit (c.w 0) 20 then { c with port := bits (c.w 0) 18 2 } else c
      { s.setfi .PHY_UP port false with rae := { s.rae with ctxs := s.rae.ctxs.map fun (e : Key × RCtx) => (e.1, move e.2) } })

/-- NETWORK_PORT_PHY_UP (R434): the PHY of a port outside the mirror role reaches link. -/
def execNetworkPortPhyUp (port : Nat) (s : State) : Out :=
  .next (if s.draining || !s.fabricUp || !s.netPort port then s else s.setfi .PHY_UP port true)

/-! ### Rows: contexts and keys by RAE_CMD (R352) -/

/-- The record in RAE_CTX_DATA. -/
def State.ctxData (s : State) : List Nat := (List.range 16).map (s.rdi .RAE_CTX_DATA_DATA ·)

/-- The bits that a context record may set, word by word, and its read-only bits (Table 14.3). -/
def ctxMask : List Nat :=
  [2 ^ 53 - 2 ^ 8 + 3, 2 ^ 64 - 1, 2 ^ 30 - 1 + (2 ^ 64 - 2 ^ 32), 2 ^ 53 - 1, 2 ^ 48 - 1, 2 ^ 64 - 1, 2 ^ 64 - 1, 2 ^ 64 - 1, 2 ^ 12 - 1, 0, 0, 0, 0, 0, 0, 0]

/-- A record without its read-only fields, with RETRY_TO_US 0 stored as 1. -/
def ctxStore (ws : List Nat) : List Nat :=
  let w0 := setBits (ws.getD 0 0) 0 2 0
  let w0 := if bits w0 33 15 = 0 then setBits w0 33 15 1 else w0
  [w0, ws.getD 1 0, ws.getD 2 0, ws.getD 3 0, ws.getD 4 0, ws.getD 5 0, ws.getD 6 0, 0, 0]

/-- Field rules of Table 14.3: reserved bits, PMTU, MAX_RD_ATOMIC, and the trigger list of a set TRIG_EN. -/
def ctxFields (ws : List Nat) : Bool :=
  let w0 := ws.getD 0 0
  let w3 := ws.getD 3 0
  ((List.range 16).all fun i => (ws.getD i 0 &&& (2 ^ 64 - 1 - ctxMask.getD i 0)) == 0)
    && decide (3 ≤ bits w0 24 3) && decide (bits w0 24 3 ≤ 5) && decide (1 ≤ bits w0 48 5) && decide (bits w0 48 5 ≤ 16)
    && (!bit w3 52 || (decide (4 ≤ bits w3 48 4) && decide (bits w3 48 4 ≤ 12) && bits w3 0 12 == 0))

/-- The trigger-list object of a set TRIG_EN is one that the domain can read and write (R366). -/
def State.trigOk (s : State) (ws : List Nat) : Bool :=
  !bit (ws.getD 3 0) 52 || (match s.own? (bits (ws.getD 2 0) 32 32) with
    | some o => o.canRead (bits (ws.getD 0 0) 8 8) && o.canWrite (bits (ws.getD 0 0) 8 8)
    | none => false)

/-- A further pinned context would exceed 1,024 (R353); `was` says that this one is pinned already. -/
def State.pinFull (s : State) (ws : List Nat) (was : Bool) : Bool :=
  bit (ws.getD 0 0) 23 && !was && decide (1024 ≤ (s.rae.ctxs.filter fun e => e.2.pin).length)

/-- RAE_CMD is written: INDEX and TARGET are stored, RESULT tells what came of it (R352). -/
def State.raeCmd (s : State) (target idx : Nat) (f : State → State × Nat) : State :=
  s.barWrite fun s =>
    let r := f (((s.wr .INDEX idx).wr .TARGET target).wr .RAE_CMD_RESULT 0)
    (r.1.wr .RAE_CMD_RESULT r.2).raeRegs.raeRun

/-- A ready context made from a record. -/
def State.newCtx (s : State) (ws : List Nat) : RCtx :=
  let w := ctxStore ws
  { words := w, err := false, chip := true, fetching := false, used := s.rae.clock, epsn := bits (w.getD 2 0) 0 24, placed := []
    gap := false, rnr := false, msgs := [], atomics := [], reads := [], blocked := none, parked := [], fins := [], fence := none
    sq := [], spsn := bits (w.getD 1 0) 24 24, retries := 0, rnrs := 0, rnrAt := none
    rate := s.portRate (bits (w.getD 0 0) 16 2), cnpAt := none, count := 0, next := 0, opn := 0, exam := false
    port := bits (w.getD 0 0) 16 2, gone := [] }

/-- Put a new context in place, on chip where there is room. -/
def State.enterCtx (s : State) (x : Nat) (c : RCtx) : State :=
  match s.ctxRoom with
  | some s => { s.putCtx x c with rae := { (s.putCtx x c).rae with clock := s.rae.clock + 1 } }
  | none => s.putCtx x { c with chip := false }

/-- The fences and waits of a context's packets are forgotten. -/
def State.forgetCtx (s : State) (x : Nat) : State :=
  { s with
    fences := s.fences.filter fun (f : Fence) => match f.src with
      | .rdma y _ => y != x
      | _ => true
    waits := s.waits.filter fun (w : Wait) => match w.ent with
      | .rdma y _ => y != x
      | _ => true }

/-- CTX_CREATE (R352, R353, R366). -/
def execCtxCreate (x : Nat) (s : State) : Out :=
  .next (s.raeCmd 0 x fun s =>
    let ws := s.ctxData
    if (s.ctx? x).isSome || decide (65535 < x) then (s, 1)
    else if !ctxFields ws then (s, 2)
    else if !s.trigOk ws then (s, 3)
    else if s.pinFull ws false then (s, 4)
    else (s.enterCtx x (s.newCtx ws), 0))

/-- The fields that MODIFY may change, word by word; the list's place only while TRIG_EN is stored as 0 (R352). -/
def modMask (trigEn : Bool) : List Nat :=
  [3 + 2 ^ 18 + 2 ^ 19 + 2 ^ 20 + 2 ^ 23 + (2 ^ 48 - 2 ^ 27), 0, (2 ^ 30 - 2 ^ 24) + (if trigEn then 0 else 2 ^ 64 - 2 ^ 32),
    2 ^ 52 + (if trigEn then 0 else 2 ^ 52 - 1), 0, 0, 0, 2 ^ 64 - 1, 2 ^ 64 - 1]

/-- CTX_MODIFY (R352). -/
def execCtxModify (x : Nat) (s : State) : Out :=
  .next (s.raeCmd 0 x fun s => match s.ctxReady x with
    | none => (s, 1)
    | some c =>
      let ws := s.ctxData
      let same := (List.range 9).all fun i => (ws.getD i 0 ^^^ c.w i) &&& (2 ^ 64 - 1 - (modMask c.trigEn).getD i 0) == 0
      if !ctxFields ws || !same then (s, 2)
      else if !s.trigOk ws then (s, 3)
      else if s.pinFull ws c.pin then (s, 4)
      else (s.putCtx x { c with words := ctxStore ws }, 0))

/-- CTX_RESET (R352): a context in error is rewritten from the record; its trigger count and its requests not yet
completed stay. -/
def execCtxReset (x : Nat) (s : State) : Out :=
  .next (s.raeCmd 0 x fun s => match s.ctx? x with
    | none => (s, 1)
    | some c =>
      let ws := s.ctxData
      if !c.err then (s, 1)
      else if !ctxFields ws then (s, 2)
      else if !s.trigOk ws then (s, 3)
      else if s.pinFull ws c.pin then (s, 4)
      else
        let n := s.newCtx ws
        ((s.forgetCtx x).putCtx x { n with
          chip := c.chip, fetching := c.fetching, used := c.used, sq := c.sq, count := c.count, next := c.next, opn := c.opn }, 0))

/-- CTX_DESTROY (R352): parked packets are discarded and its requests complete FLUSHED. -/
def execCtxDestroy (x : Nat) (s : State) : Out :=
  .next (s.raeCmd 0 x fun s => match s.ctx? x with
    | none => (s, 1)
    | some c =>
      let gone := fun (r : TReq) => if r.owner = x then { r with owner := 65536 } else r
      let s := s.forgetCtx x
      ({ s with rae := { s.rae with
          ctxs := (mdel s.rae.ctxs (x, 0)).map fun (e : Key × RCtx) => (e.1, { e.2 with sq := e.2.sq.map gone })
          flush := s.rae.flush.map gone ++ c.sq.map fun r => gone (r.finish 0x44 0) } }, 0))

/-- Put a record into RAE_CTX_DATA. -/
def State.showRec (s : State) (n : Nat) (ws : List Nat) : State :=
  s.each (List.range n) fun s i => s.wri .RAE_CTX_DATA_DATA i (ws.getD i 0)

/-- CTX_QUERY (R352, Table 14.3). -/
def execCtxQuery (x : Nat) (s : State) : Out :=
  .next (s.raeCmd 0 x fun s => match s.ctx? x with
    | none => (s.showRec 16 [], 0)
    | some c =>
      let ws := [c.w 0 + (if c.err then 2 else 1), c.w 1, c.w 2, c.w 3, c.w 4, c.w 5, c.w 6, c.count, c.next]
      (s.showRec 16 ws, 0))

/-- KEY_CREATE (R355): the record is checked and entered with a fresh KEY_TAG. -/
def execKeyCreate (i : Nat) (s : State) : Out :=
  .next (s.raeCmd 1 i fun s =>
    let ws := s.ctxData.take 4
    let w := fun (k : Nat) => ws.getD k 0
    let d := bits (w 0) 32 8
    if i = 0 || decide (65535 < i) || (mget s.rae.keys (i, 0)).isSome then (s, 1)
    else if 2 ^ 44 ≤ w 0 || 2 ^ 48 ≤ w 1 || w 1 % 4096 != 0 || bits (w 3) 0 48 = 0 then (s, 2)
    else match s.own? (bits (w 0) 0 32) with
      | none => (s, 3)
      | some o =>
        if (bit (w 0) 40 && !o.canRead d) || ((bit (w 0) 41 || bit (w 0) 42) && !o.canWrite d) then (s, 3)
        else if o.size < w 1 + bits (w 3) 0 48 then (s, 2)
        else
          let r := s.drbg
          let k := [setBit (w 0) 43 true, w 1, w 2, setBits (w 3) 48 16 (r.2 % 2 ^ 16)]
          ({ r.1 with rae := { r.1.rae with keys := mput r.1.rae.keys (i, 0) k } }, 0))

/-- KEY_DESTROY (R352). -/
def execKeyDestroy (i : Nat) (s : State) : Out :=
  .next (s.raeCmd 1 i fun s =>
    if (mget s.rae.keys (i, 0)).isNone then (s, 1)
    else ({ s with rae := { s.rae with keys := mdel s.rae.keys (i, 0) } }, 0))

/-- KEY_QUERY (R352, Table 14.4). -/
def execKeyQuery (i : Nat) (s : State) : Out :=
  .next (s.raeCmd 1 i fun s =>
    if i = 0 || decide (65535 < i) then (s, 1) else (s.showRec 4 ((mget s.rae.keys (i, 0)).getD []), 0))

/-- RAE_TRIG (R367): ADD is counted on a context and its trigger list is examined. -/
def execRaeTrig (x add : Nat) (s : State) : Out :=
  .next (s.barWrite fun s => if (s.ctxReady x).isNone then s
    else (s.updCtx x fun c => { c with count := c.count + add % 2 ^ 32, exam := true }).raeRun)

end Sys2Proof.Machine
end

