-- ==== Sys2Proof/Machine/Regs.lean ====
section
/-! DEFINITION. BAR0 accesses (20_register_map.md R457 to R464, R490, R491): reach, widths, the read latch, the
fields a write covers and what each does, and the reset classes of R466, R467 and R471. An accessor is numbered
16 * link + LD for the function of an LD, and 128 + e for MCTP endpoint e. -/

namespace Sys2Proof.Machine

/-- The state an outcome leaves. -/
def outState (s : State) (o : Out) : State :=
  match o with
  | .next t => t
  | _ => s

/-! ### Reach (R458, R459) -/

/-- A part of BAR0 reached through domain 0 (Table 20.1). -/
def domZero (ofs : Nat) : Bool := decide (ofs < 0x130000) || (decide (0xA00000 ≤ ofs) && decide (ofs < 0xA40000))

/-- The accessor reaches the offset. -/
def State.reaches (s : State) (fn ofs : Nat) : Bool :=
  let k := fn / 16
  let j := fn % 16
  if 128 ≤ fn then domZero ofs
  else if !s.fli .LD_EN fn || !s.ldExists k j then false
  else if domZero ofs then s.rdi .PRT_LD_CFG_DOMAIN fn == 0
  else if 0x400000 ≤ ofs && ofs < 0x800000 then
    let q := (ofs - 0x400000) / 4096
    s.fli .CMD_QP_ASSIGN_ASSIGNED q && s.rdi .CMD_QP_ASSIGN_LINK q == k && s.rdi .CMD_QP_ASSIGN_LD q == j
  else decide (0x800000 ≤ ofs) && decide (ofs < 0x900000) && (ofs - 0x800000) / 4096 == s.rdi .PRT_LD_CFG_DOMAIN fn

/-- The instance exists: registers of an odd link only while its port is split, LDs 8 to 15 only while it is
not (R108). -/
def State.regExists (s : State) (r : RegDef) (i : Nat) : Bool :=
  if r.base < 0x30000 || 0x38000 ≤ r.base then true
  else
    let k := if r.n2 = 16 then i / 16 else i
    let split := s.fli .SPLIT_ACT (portOf k)
    (k % 2 == 0 || split) && (r.n2 != 16 || decide (i % 16 < 8) || !split)

/-- The register at an offset that the accessor reaches, with its instance. -/
def State.regFor (s : State) (fn ofs : Nat) : Option (RegDef × Nat) :=
  if s.reaches fn ofs then (regAt (ofs / 8 * 8)).bind fun x => if s.regExists x.1 x.2 then some x else none else none

/-- The offset lies in the Daybook read window (R420). -/
def inWindow (ofs : Nat) : Bool := decide (0xA00000 ≤ ofs) && decide (ofs < 0xA40000)

/-- A naturally aligned access of 8 B or 4 B (R460). -/
def goodAccess (ofs size : Nat) : Bool := (size == 8 && ofs % 8 == 0) || (size == 4 && ofs % 4 == 0)

/-- An access of wrong width or alignment (R460). -/
def State.accErr (s : State) (fn ofs : Nat) : State :=
  (s.count .ACC_ERR_CNT 0 .GLB_FLAGS_CNT_OVF 0 1).recordOnce fn clsWarn 0 460 (item 6 ofs)

/-- The read latch of an accessor is emptied by any access (R461). -/
def State.unlatch (s : State) (fn : Nat) : State :=
  { s with glb := { s.glb with latches := mdel s.glb.latches (fn, 0) } }

/-! ### Reads -/

/-- Frames tallied to a domain that are not eligible for eviction (R180). -/
def State.pinnedOf (s : State) (d : Nat) : Nat :=
  (s.tpe.frames.filter fun e => e.2.acct == d && e.2.use != useRetired && !s.eligibleFrame e.1.1 e.2).length

/-- The present value of a field: those that follow a table are derived from it. -/
def State.readFld (s : State) (f : Fld) (i : Nat) : Nat :=
  match f with
  | .TPE_DOM_STATE_PINNED => s.pinnedOf i
  | .SF_USED => s.fch.sf.length
  | .POISONED => b2n (s.fli .VALID i && (s.dline (s.rdi .LA i)).st == .poison)
  | .MR_USED => s.mrUsed i
  | .MQ_USED => (s.fch.mq.filter fun e => s.sliceOf e.la == i).length
  | .E0_SPLIT => if s.fli .MIRROR 0 then 0 else s.rd f
  | .E1_SPLIT => if s.fli .MIRROR 2 && s.mir.half then 1 else s.rd f
  | _ => s.rdi f i

/-- The 64 bits of a register as they stand; a WO field reads 0 (R7). -/
def State.regBits (s : State) (r : RegDef) (i : Nat) : Nat :=
  (r.fields.map fun x => if x.acc = .wo then 0 else s.readFld x.fld i % 2 ^ x.fld.spec.width * 2 ^ x.lo).foldl (· + ·) 0

/-- A register's bits when it is read; a read of TL_RANDOM draws fresh bits (R389). -/
def State.regValue (s : State) (r : RegDef) (i : Nat) : State × Nat :=
  if r.base = 0x800010 then s.tlRandom else (s, s.regBits r i)

/-- The bytes of a Daybook window read; what no record holds is a free value (log entry 6). -/
def State.windowRead (s : State) (x size : Nat) : State × Nat :=
  (List.range size).foldl (fun (a : State × Nat) (k : Nat) => match a.1.windowByte (x + k) with
    | some b => (a.1, a.2 + b % 256 * 2 ^ (8 * k))
    | none => (a.1.freeNext, a.2 + a.1.freeVal % 256 * 2 ^ (8 * k))) (s, 0)

/-- A read (R460, R461): its value, with the read latch of the accessor. -/
def State.regRead (s : State) (fn ofs size : Nat) : State × Nat :=
  let old := mget s.glb.latches (fn, 0)
  let s := s.unlatch fn
  if inWindow ofs && s.reaches fn ofs then
    if goodAccess ofs size then s.windowRead (ofs - 0xA00000) size else (s.accErr fn ofs, 0)
  else match s.regFor fn ofs with
    | none => (s, 0)
    | some (r, i) =>
      if !goodAccess ofs size then (s.accErr fn ofs, 0)
      else
        let v := s.regValue r i
        if size = 8 then v
        else if ofs % 8 = 0 then
          ({ v.1 with glb := { v.1.glb with latches := mput v.1.glb.latches (fn, 0) (ofs, bits v.2 32 32) } }, bits v.2 0 32)
        else match old with
          | some (tag, h) => if tag + 4 = ofs then (s, h) else (v.1, bits v.2 32 32)
          | none => (v.1, bits v.2 32 32)

/-! ### Resets of this chapter -/

/-- A warm reset (R466): a mirror bring-up in progress starts again at step 2; none is taken in a drain. -/
def State.warmReset (s : State) (cause : Nat) : State :=
  if s.draining then s
  else
    let s := (s.count .WARM_CNT 0 .GLB_FLAGS_CNT_OVF 0 0).wr .WARM_CAUSE cause
    if s.mir.bring == Bring.down || s.mir.bring == Bring.up then s
    else (s.setMir fun m => { m with bring := .hello, peer := none, pend := none }).sayHello

/-- WARM_RST (R466). -/
def execWarmRst (s : State) : Out := .next (s.barWrite (·.warmReset 1))

/-- WDOG_KICK (R471): the watchdog's period starts again; nothing else changes (log entry 2). -/
def execWdogKick (s : State) : Out := .next (s.barWrite fun s => s)

/-- WATCHDOG_EXPIRY (R471). -/
def execWatchdogExpiry (s : State) : Out := .next (if s.rd .WDOG_MS = 0 then s else s.warmReset 2)

/-- FUNCTION_LEVEL_RESET (R467) of the function of LD ld on a link. -/
def execFunctionLevelReset (link ld : Nat) (s : State) : Out :=
  .next (if !s.ldExists link ld then s
    else (s.each (s.qpsOn fun k j => k == link && j == ld) State.qpSilence).unlatch (ldIx link ld))

/-! ### Writes -/

/-- The set-up fields of a doorbell page (R112). -/
def qpSetup : List Fld :=
  [.QP_SQ_BASE, .QP_CQ_BASE, .SQ_LOG2, .CQ_LOG2, .CLASS_SC1, .WEIGHT, .MAX_INFLIGHT, .QP_CTRL_INT_EN, .MSIX_VEC, .COAL_CNT, .COAL_US]

/-- Some written value would change its field (R491). -/
def State.changes (s : State) (i : Nat) (w : WVals) : Bool := w.any fun x => x.1.store i x.2 != s.rdi x.1 i

/-- The action of a WO bit written 1; `x` is what the action meets outside the registers: the charger's setting for
CCAL_NOW, the rate reached for LINK_RETRAIN, the tests of ADOPT as two bits. -/
def State.woAct (s : State) (f : Fld) (i v x : Nat) : State :=
  match f with
  | .MEAS_CLR => s.wr .DRAIN_POWER_MEAS_W 0
  | .DRAIN_NOW => s.drainNow
  | .VCAL_NOW => outState s (execVcalNow s)
  | .CCAL_NOW => s.ccalStart x
  | .LINK_RETRAIN => s.linkRetrain i x
  | .SLICE_DIS_REQ => s.sliceDis v
  | .GRP_INV => s.grpInv i v
  | .RETRAIN => if s.chLive (i / 20) then s.askRetrain (i / 20) (i % 20) else s
  | .RETIRE => s.retireWrite i
  | .RETIRE_SLOT => s.retireSlot i
  | .ADOPT => s.adopt i (bit x 0) (bit x 1)
  | .TAKEOVER => s.takeover
  | .RETRY_MATCH => s.retryMatch
  | .LINK_RESTART => s.linkRestart
  | .SVN_COMMIT => s.svnCommit
  | .FF_CLR => s.ffClr
  | .FLUSH_NOW => s.dbkFlush
  | .POP => s.pop
  | .WARM_RST => s.warmReset 1
  | _ => s

/-- A written RW field takes its value with what follows from it. -/
def State.rwAct (s : State) (f : Fld) (i v : Nat) : State :=
  match f with
  | .HOLDUP_INVERT => s.invertWrite (v != 0)
  | .PORT_OFFLINE => if f.store i v = s.rdi f i then s else s.portOffline i (v != 0)
  | .SLOT_PWR => s.slotPwr i (v != 0)
  | .CLUSTER_FENCE => s.fenceWrite v
  | .CORE_OFF => s.coreOff v
  | .PG_REQ => s.pgReq i v
  | .FLOOR_FRAMES | .FREE_LOW => (s.storeFld f i v).floors
  | .CEIL_FRAMES => (s.storeFld f i v).ceilFlag i
  | .ALERT_EN => (s.storeFld f i v).alertOut
  | _ => s.storeFld f i v

/-- One field of a write, by its type (R7). -/
def State.fldWrite (s : State) (acc : Acc) (f : Fld) (i v x : Nat) : State :=
  match acc with
  | .ro => s
  | .w1c =>
    let s := s.wri f i (s.rdi f i &&& (2 ^ 64 - 1 - v))
    if f = .ALERT_CAUSE ∨ f = .ALERT_FATAL then s.alertOut else s
  | .rw => s.rwAct f i v
  | .wo => if v = 0 then s else s.woAct f i v x

/-- The fields of a write in order; those whose rule compares with another come last (R490). -/
def State.fldWrites (s : State) (r : RegDef) (i : Nat) (w : WVals) (x : Nat) : State :=
  let acc := fun (f : Fld) => ((r.fields.find? fun y => y.fld == f).map (·.acc)).getD .ro
  let late := fun (e : Fld × Nat) => lateFlds.contains e.1
  let s := s.each (w.filter fun e => !late e) fun s e => s.fldWrite (acc e.1) e.1 i e.2 x
  s.each (w.filter late) fun s e => s.fldWrite (acc e.1) e.1 i e.2 x

/-- A write to a doorbell page's set-up or control register (R112): one that sets QP_EN and QP_RESET of a disabled queue
pair enables it and then resets it (DESIGN CHOICE, log entry 22). -/
def State.qpWrite (s : State) (q : Nat) (w : WVals) : State :=
  let setup := w.filter fun e => qpSetup.contains e.1
  let s := if !s.fli .QP_EN q then s.putVals setup q
    else if s.changes q setup then s.setfi .CFG_ERR q true else s
  let s := match w.get .QP_EN with
    | some v => s.qpEnWrite q (v != 0)
    | none => s
  if w.get .QP_RESET = some 1 then s.qpReset q else s

/-- A write to PRT_LD_CFG (R87, R104, R132): clearing LD_EN resets the LD's enabled queue pairs, and setting it starts the
fence status anew. -/
def State.ldCfgWrite (s : State) (i : Nat) (w : WVals) : State :=
  let was := s.fli .LD_EN i
  let dom := w.filter fun e => e.1 == Fld.PRT_LD_CFG_DOMAIN
  let s := if !was then s.putVals dom i
    else if s.changes i dom then s.record clsService ((w.get .PRT_LD_CFG_DOMAIN).getD 0) 87 (item 3 (i / 16 + 8 * (i % 16))) else s
  let s := s.putVals (w.filter fun e => e.1 != Fld.PRT_LD_CFG_DOMAIN) i
  if !was && s.fli .LD_EN i then { s with prt := { s.prt with fstat := mdel s.prt.fstat (i / 16, i % 16) } }
  else if was && !s.fli .LD_EN i then
    s.each ((s.qpsOn fun k j => 16 * k + j == i).filter fun q => s.fli .QP_EN q) State.qpReset
  else s

/-- A write to PRT_LD_SETTLE (R102): a SETTLE_PFN outside the static capacity clears SETTLE_EN. -/
def State.settleCfgWrite (s : State) (i : Nat) (w : WVals) : State :=
  let s := s.putVals w i
  if (w.get .SETTLE_PFN).isSome then s.settleCheck i else s

/-- A write to CMD_QP_ASSIGN (R110): a change while QP_EN is 1 is refused with a record. -/
def State.assignWrite (s : State) (q : Nat) (w : WVals) : State :=
  if s.fli .QP_EN q then (if s.changes q w then s.record clsService 0 110 (item 0xE q) else s)
  else (s.putVals w q).qpOwner q

/-- A write to SEC_SLOT (R386): OWNER and ANY of a loaded slot stay, with a record; slot 0's are read only. -/
def State.secSlotWrite (s : State) (k : Nat) (w : WVals) : State :=
  let w := w.filter fun e => e.1 == Fld.OWNER || e.1 == Fld.ANY
  if k = 0 then s
  else if s.rdi .MODE k = 0 then s.putVals w k
  else if s.changes k w then s.record clsService 0 386 (item 0xB k) else s

/-- A write to TL_CMD (R389, R390) of domain d's page. -/
def State.tellerWrite (s : State) (d : Nat) (w : WVals) : State :=
  let s := s.putVals (w.filter fun e => e.1 == Fld.SLOT) d
  let k := s.rdi .SLOT d
  match w.get .TL_CMD_OP with
  | some 1 => s.tellerLoad d k 1
  | some 2 => s.tellerLoad d k 2
  | some 3 => s.tellerZero d k
  | some 4 => s.tellerQuery d k
  | _ => s

/-- A write to RAE_CMD (R352, Table 14.11). -/
def State.raeCmdWrite (s : State) (w : WVals) : State :=
  let s := s.putVals (w.filter fun e => e.1 == Fld.INDEX || e.1 == Fld.TARGET) 0
  let i := s.rd .INDEX
  if s.rd .TARGET = 0 then
    match w.get .RAE_CMD_OP with
    | some 1 => outState s (execCtxCreate i s)
    | some 2 => outState s (execCtxModify i s)
    | some 3 => outState s (execCtxDestroy i s)
    | some 4 => outState s (execCtxQuery i s)
    | some 5 => outState s (execCtxReset i s)
    | _ => s
  else
    match w.get .RAE_CMD_OP with
    | some 1 => outState s (execKeyCreate i s)
    | some 3 => outState s (execKeyDestroy i s)
    | some 4 => outState s (execKeyQuery i s)
    | some 2 | some 5 => s.wr .RAE_CMD_RESULT 1
    | _ => s

/-- A write to BST_START (R435). -/
def State.bstWrite (s : State) (w : WVals) : State :=
  let g := fun (f : Fld) => (w.get f).getD 0
  let s := if g .ABORT = 1 then s.bstAbort else s
  if g .TEST = 0 then s else s.bstStart (g .TEST) (g .CH) (g .RANK) (g .BST_START_GROUP)

/-- A write of instance i of a register, with the values of the fields it covers: the registers whose fields act
together first, every other field by field. -/
def State.putReg (s : State) (r : RegDef) (i : Nat) (w : WVals) (x : Nat) : State :=
  match (r.fields.head?.map (·.fld)).getD .MARGIN with
  | .OBJ_ID | .TP_FIRST => s.lockWrite i w
  | .FLIP_OBJ => s.flipWrite w
  | .FLIP_LINE | .DEV_A | .INT_FLIP_PAT_A | .INT_FLIP_PAT_B => if s.fl .FLIP_ARM then s else s.putVals w 0
  | .LD_EN => s.ldCfgWrite i w
  | .SETTLE_EN => s.settleCfgWrite i w
  | .CMD_QP_ASSIGN_ASSIGNED => s.assignWrite i w
  | .SQ_TAIL => outState s (execSqTailDoorbell i ((w.get .SQ_TAIL).getD (s.rdi .SQ_TAIL i)) s)
  | .CQ_HEAD => outState s (execCqHeadDoorbell i ((w.get .CQ_HEAD).getD (s.rdi .CQ_HEAD i)) s)
  | .QP_EN | .QP_SQ_BASE | .QP_CQ_BASE | .SQ_LOG2 | .MSIX_VEC => s.qpWrite i w
  | .OWNER => s.secSlotWrite i w
  | .TL_CMD_OP => s.tellerWrite i w
  | .TL_DATA_DATA =>
    { s with sec := { s.sec with blob := mput s.sec.blob (i / 12, i % 12) ((w.get .TL_DATA_DATA).getD 0) } }
  | .INDEX => s.raeCmdWrite w
  | .CTX => match w.get .CTX with
    | some c => outState s (execRaeTrig c ((w.get .ADD).getD 0) s)
    | none => s
  | .TEST => s.bstWrite w
  | .BENCH_USED => s.wri .BENCH_PEAK i (s.rdi .BENCH_USED i)
  | .MR_USED => s.wri .MR_PEAK i (s.mrUsed i)
  | .POOL_DRY_CNT => s.wr .DF_MAX_US 0
  | .EXEC_USED => s.wr .LOCK_PEAK (s.rd .LOCK_USED)
  | _ => s.fldWrites r i w x

/-- The fields that lie wholly within the bits a write covers, each with its value (R462). -/
def covered (r : RegDef) (ofs size v : Nat) : WVals :=
  let lo := 8 * (ofs % 8)
  r.fields.filterMap fun f =>
    if lo ≤ f.lo ∧ f.lo + f.fld.spec.width ≤ lo + 8 * size then some (f.fld, bits v (f.lo - lo) f.fld.spec.width) else none

/-- A write (R458, R460, R462, R464). -/
def State.regWrite (s : State) (fn ofs size v x : Nat) : State :=
  let s := s.unlatch fn
  if inWindow ofs && s.reaches fn ofs then (if goodAccess ofs size then s else s.accErr fn ofs)
  else match s.regFor fn ofs with
    | none => s
    | some (r, i) =>
      if !goodAccess ofs size then s.accErr fn ofs
      else if s.draining then s.recordOnce fn clsWarn 0 464 []
      else s.putReg r i (covered r ofs size v) x

/-- A link's CXL.io serves: its IDE stream is not insecure (R95). -/
def State.ioServes (s : State) (link : Nat) : Bool := !((mget s.prt.ide (link, 0)).map (·.ioBad)).getD false

/-- REGISTER_WRITE (R460, R462, R464) by the function of LD ld on a link; `x` as in `woAct`. An insecure stream is not
served (R95). -/
def execRegisterWrite (link ld ofs size v x : Nat) (s : State) : Out :=
  .next (if link < 8 ∧ ld < 16 ∧ ofs < 2 ^ 24 ∧ s.ioServes link then s.regWrite (ldIx link ld) ofs size v x else s)

/-- REGISTER_READ (R460, R461) by the function of LD ld on a link; an insecure stream is not served (R95). -/
def execRegisterRead (link ld ofs size : Nat) (s : State) : Out :=
  .next (if link < 8 ∧ ld < 16 ∧ ofs < 2 ^ 24 ∧ s.ioServes link then
      let r := s.regRead (ldIx link ld) ofs size
      r.1.send (.regRead (ldIx link ld) ofs r.2)
    else s)

/-- REGISTER_ACCESS (R459): FM API command 0xC003 of MCTP endpoint `ep`; `data` is none for a read. -/
def execRegisterAccess (ep ofs size : Nat) (data : Option Nat) (x : Nat) (s : State) : Out :=
  .next (match data with
    | some v => (s.regWrite (128 + ep) ofs size v x).send (.fm 0xC003 stOk [])
    | none =>
      let r := s.regRead (128 + ep) ofs size
      r.1.send (.fm 0xC003 stOk [r.2]))

end Sys2Proof.Machine
end

