-- ==== Sys2Proof/Machine/Tick.lean ====
section
/-! DEFINITION. The tick boundary (01_architecture.md R11 to R14, Table 01.2, and what R179, R212, R253, R311, R314,
R404, R424, R435, R469, R470 and R484 hang on it). -/

namespace Sys2Proof.Machine

/-- A frame visited v times by the age sweep (R179). -/
def Frame.visited (x : Frame) (v : Nat) : Frame :=
  if v = 0 then x
  else if x.ref then { x with age := min (v - 1) 255, ref := false } else { x with age := min (x.age + v) 255 }

/-- How far a stride of n pool frames reaches over frame numbers, past retired ones at the rising distances l. -/
def sweepReach (n : Nat) (l : List Nat) : Nat := l.foldl (fun e d => if d < e then e + 1 else e) n

/-- The age sweep (R179): the next STRIDE_FRAMES pool frames in frame order, wrapping; retired frames are not of the
pool. -/
def State.ageSweep (s : State) : State :=
  let n := s.tpe.poolEnd - poolBase
  let p := s.tpe.sweep
  let dist := fun (f : Nat) => (f - poolBase + n - p) % n
  let dead := (s.tpe.frames.filter fun (e : Key × Frame) => e.2.use == useRetired).foldl
    (fun (l : List Nat) (e : Key × Frame) => insNat (dist e.1.1) l) []
  let m := n - dead.length
  if m = 0 then s
  else
    let stride := s.rd .STRIDE_FRAMES
    let reach := sweepReach (stride % m) dead
    let fr := s.tpe.frames.map fun (e : Key × Frame) =>
      if e.2.use == useRetired then e else (e.1, e.2.visited (stride / m + if dist e.1.1 < reach then 1 else 0))
    { s with tpe := { s.tpe with frames := fr, sweep := (p + reach) % n } }

/-- The class budgets of the tick that starts (R253, Table 01.2 order 3): floor(BUDGET_SCk × S / 256), S the tick over
the time of a burst of 16 transfers. The front cache and the flash backing get the same fractions (DESIGN CHOICE, log
entry 30). -/
def State.budgets (s : State) : State :=
  let S := s.rd .TICK_PERIOD * 40 * s.rd .DATA_MTS / 16000
  let b := [Fld.BUDGET_SC0, .BUDGET_SC1, .BUDGET_SC2, .BUDGET_SC3].map fun f => s.rd f * S / 256
  { s with drc := { s.drc with bud := b, spent := [] }, fch := { s.fch with bud := b }, nfc := { s.nfc with bud := b } }

/-- Late pages of the ending tick (R212): one record per stream. -/
def State.lateRecords (s : State) : State :=
  let late := s.tpe.streams.filter fun (t : Stream) => t.lateTick != 0
  let s := { s with tpe := { s.tpe with streams := s.tpe.streams.map fun (t : Stream) => { t with lateTick := 0 } } }
  s.each late fun s t => s.record clsWarn t.dom 212 (item 0xC t.sid ++ item 9 t.lateTick)

/-- The die sensors (R484): the hottest is reported; at 100 °C one record per excursion, which ends below 97 °C. -/
def State.dieRead (s : State) (die : List Nat) : State :=
  let t := die.foldl max 0
  let was := s.pwr.hot
  let s := s.setPwr fun p => { p with dieTemp := t, hot := decide (100 ≤ t) || (p.hot && decide (97 ≤ t)) }
  if 100 ≤ t ∧ !was then s.record clsWarn 0 484 (item 7 t) else s

/-- The store voltage of a sense of `mv` at the divider's output (R65, R66, Table 03.8): scaled by HOLDUP_DIV hundredths, inverted
with HOLDUP_INVERT; the register holds 0 for a negative one and its greatest value above that (log entry 31). -/
def State.storeMv (s : State) (mv : Int) : Nat :=
  let v := (if s.fl .HOLDUP_INVERT then -mv else mv) * (s.rd .HOLDUP_DIV : Int) / 100
  min 65535 v.toNat

/-- The store voltage, filtered per tick (R65). -/
def State.senseTick (s : State) (mv : Int) : State :=
  let s := s.wr .HOLDUP_MV (s.storeMv mv)
  let s := s.senseCond s.fgv.mismatch (s.fl .SNS_OPEN)
  let s := if s.fl .SNS_NEG && !s.fl .HOLDUP_INVERT then s.senseFault .HOLDUP_REVERSED 2 else s
  s.senseClear.firstReading

/-- Conditions that hold ALERT_N asserted set their bit again (R469): safe start and recovery. -/
def State.heldAlerts (s : State) : State :=
  let s := if s.fl .SAFE_START then s.alert blkGLB else s
  if s.sec.recovery then s.alert blkSEC else s

/-- What waits for room in the float, a link's credit or a snoop's answer is tried again. -/
def State.tickRetry (s : State) : State := if s.draining then s else s.journalWriters.credits.snoopsAnswered

/-- Orders 1 to 7 of Table 01.2 for the engines behind the fabric, in that order. -/
def State.fabricTick (s : State) (x : TickIn) : State :=
  let s := s.when (!s.draining) State.publishLimit
  let s := s.budgets.makeUp.ageSweep
  let s := s.when (!s.draining) State.closeAll
  let s := s.testSlice x
  let s := s.scrubTick x.scrub
  let s := s.each x.repair fun s e => s.repairSlice e.1 e.2
  let s := s.each (List.range 12) fun s c => s.retrainSlice c (x.retrain.getD c (0, 0, 0, 0))
  { s with drc := { s.drc with nr := [] } }.tickRetry.reshareAll

/-- TICK_BOUNDARY (R13): the period that ends is the one in force since the boundary before (R12). -/
def execTickBoundary (x : TickIn) (s : State) : Out :=
  let s := { s.lateRecords with once := [], glb := { s.lateRecords.glb with intSent := false } }
  let s := if s.glb.intPend then s.intSend else s
  let s := if s.fabricUp then (s.dramTick x.slots).fabricTick x else s
  let s := s.wr .OP_TIME (s.rd .OP_TIME + s.glb.period)
  let s := s.wr .RAIL_PG_IN x.pg
  let s := ((s.dieRead x.die).senseTick x.mv).heldAlerts
  let s := s.wr .TICK_NUMBER ((s.rd .TICK_NUMBER + 1) % 2 ^ 64)
  let s := { s with glb := { s.glb with period := s.rd .TICK_PERIOD } }
  .next (s.limitCompute.raeRun)

end Sys2Proof.Machine
end

