-- ==== Sys2Proof/Machine/Dispatch.lean ====
section
/-! DEFINITION. The meaning of each command: one arm per row of the opcode table, in its order. -/

namespace Sys2Proof.Machine

def exec (i : Instr) (s : State) : Host.Outcome State Fault Refusal :=
  match i with
  | .tickBoundary x => Sys2Proof.Machine.execTickBoundary x s
  | .cxlMemRead link ld dpa mty tag ev => Sys2Proof.Machine.execCxlMemRead link ld dpa mty tag ev s
  | .cxlMemWrite link ld dpa mty tag data mask poison => Sys2Proof.Machine.execCxlMemWrite link ld dpa mty tag data mask poison s
  | .settlePageStore link ld tag => Sys2Proof.Machine.execSettlePageStore link ld tag s
  | .settlePageTimeout link ld tag => Sys2Proof.Machine.execSettlePageTimeout link ld tag s
  | .snoopWriteBack link ld dpa mty tag data mask poison => Sys2Proof.Machine.execSnoopWriteBack link ld dpa mty tag data mask poison s
  | .birsp link la => Sys2Proof.Machine.execBirsp link la s
  | .biTimeout link la => Sys2Proof.Machine.execBiTimeout link la s
  | .gpfPhase2 port => Sys2Proof.Machine.execGpfPhase2 port s
  | .gpfPhase2Timeout port => Sys2Proof.Machine.execGpfPhase2Timeout port s
  | .hdmDecoderCommit link ld n base size ways gran => Sys2Proof.Machine.execHdmDecoderCommit link ld n base size ways gran s
  | .ideKmKeyProg link key isMem => Sys2Proof.Machine.execIdeKmKeyProg link key isMem s
  | .ideMacFail link isMem tags => Sys2Proof.Machine.execIdeMacFail link isMem tags s
  | .perstAssert port => Sys2Proof.Machine.execPerstAssert port s
  | .perstRelease port => Sys2Proof.Machine.execPerstRelease port s
  | .linkUp link rate lanes polarity reversed flit256 => Sys2Proof.Machine.execLinkUp link rate lanes polarity reversed flit256 s
  | .linkRecoveryEntry link recent => Sys2Proof.Machine.execLinkRecoveryEntry link recent s
  | .linkRetrain link rate => Sys2Proof.Machine.execLinkRetrain link rate s
  | .portOfflineWrite port v => Sys2Proof.Machine.execPortOfflineWrite port v s
  | .pnRdyRise port => Sys2Proof.Machine.execPnRdyRise port s
  | .pnRdyTimeout port => Sys2Proof.Machine.execPnRdyTimeout port s
  | .identify link ld => Sys2Proof.Machine.execIdentify link ld s
  | .getEventRecords link ld => Sys2Proof.Machine.execGetEventRecords link ld s
  | .getPoisonList link ld => Sys2Proof.Machine.execGetPoisonList link ld s
  | .getHealthInfo link ld => Sys2Proof.Machine.execGetHealthInfo link ld s
  | .setTimestamp value => Sys2Proof.Machine.execSetTimestamp value s
  | .initiateDynamicCapacityAdd link ld start len => Sys2Proof.Machine.execInitiateDynamicCapacityAdd link ld start len s
  | .dynamicCapacityRelease link ld start len => Sys2Proof.Machine.execDynamicCapacityRelease link ld start len s
  | .bindLdDomain link ld dom => Sys2Proof.Machine.execBindLdDomain link ld dom s
  | .unbindCarrier slot => Sys2Proof.Machine.execUnbindCarrier slot s
  | .registerAccess ep ofs size data x => Sys2Proof.Machine.execRegisterAccess ep ofs size data x s
  | .sqTailDoorbell q t => Sys2Proof.Machine.execSqTailDoorbell q t s
  | .cqHeadDoorbell q h => Sys2Proof.Machine.execCqHeadDoorbell q h s
  | .qpEnWrite q v => Sys2Proof.Machine.execQpEnWrite q v s
  | .qpReset q => Sys2Proof.Machine.execQpReset q s
  | .queueResetCut q => Sys2Proof.Machine.execQueueResetCut q s
  | .sqeFetch aged sqes => Sys2Proof.Machine.execSqeFetch aged sqes s
  | .commandDispatch sglErr sgl => Sys2Proof.Machine.execCommandDispatch sglErr sgl s
  | .commandComplete => Sys2Proof.Machine.execCommandComplete s
  | .coalesceTimeout q => Sys2Proof.Machine.execCoalesceTimeout q s
  | .ringDmaError q onResetDone => Sys2Proof.Machine.execRingDmaError q onResetDone s
  | .read uid bad stop => Sys2Proof.Machine.execRead uid bad stop s
  | .write uid data pois bad stop => Sys2Proof.Machine.execWrite uid data pois bad stop s
  | .writeAtomic uid data bad stop => Sys2Proof.Machine.execWriteAtomic uid data bad stop s
  | .copy uid bad => Sys2Proof.Machine.execCopy uid bad s
  | .fill uid bad => Sys2Proof.Machine.execFill uid bad s
  | .settle uid => Sys2Proof.Machine.execSettle uid s
  | .objCreate uid => Sys2Proof.Machine.execObjCreate uid s
  | .objDelete uid => Sys2Proof.Machine.execObjDelete uid s
  | .objResize uid => Sys2Proof.Machine.execObjResize uid s
  | .objAttr uid => Sys2Proof.Machine.execObjAttr uid s
  | .windowMap uid => Sys2Proof.Machine.execWindowMap uid s
  | .windowUnmap uid => Sys2Proof.Machine.execWindowUnmap uid s
  | .place uid => Sys2Proof.Machine.execPlace uid s
  | .hold uid => Sys2Proof.Machine.execHold uid s
  | .release uid => Sys2Proof.Machine.execRelease uid s
  | .streamPost uid dmaErr list => Sys2Proof.Machine.execStreamPost uid dmaErr list s
  | .streamCancel uid => Sys2Proof.Machine.execStreamCancel uid s
  | .seal uid bad stop => Sys2Proof.Machine.execSeal uid bad stop s
  | .unseal uid data bad dmaErr => Sys2Proof.Machine.execUnseal uid data bad dmaErr s
  | .logRead uid stop => Sys2Proof.Machine.execLogRead uid stop s
  | .nop uid => Sys2Proof.Machine.execNop uid s
  | .floatChargeAdmitted => Sys2Proof.Machine.execFloatChargeAdmitted s
  | .stall dom fence => Sys2Proof.Machine.execStall dom fence s
  | .floorComparatorArmed => Sys2Proof.Machine.execFloorComparatorArmed s
  | .holdupFloorCrossing => Sys2Proof.Machine.execHoldupFloorCrossing s
  | .holdupPmbusPoll mv => Sys2Proof.Machine.execHoldupPmbusPoll mv s
  | .snsOpen v => Sys2Proof.Machine.execSnsOpen v s
  | .snsNeg v => Sys2Proof.Machine.execSnsNeg v s
  | .holdupInvertWrite v => Sys2Proof.Machine.execHoldupInvertWrite v s
  | .ccalNow vset => Sys2Proof.Machine.execCcalNow vset s
  | .ccalInterval vset => Sys2Proof.Machine.execCcalInterval vset s
  | .ccalDischarged => Sys2Proof.Machine.execCcalDischarged s
  | .ccalAbandon => Sys2Proof.Machine.execCcalAbandon s
  | .ccalIoutPoll ma => Sys2Proof.Machine.execCcalIoutPoll ma s
  | .ccalRecharged => Sys2Proof.Machine.execCcalRecharged s
  | .vcalNow => Sys2Proof.Machine.execVcalNow s
  | .rehearsal => Sys2Proof.Machine.execRehearsal s
  | .rehearsalDone rate => Sys2Proof.Machine.execRehearsalDone rate s
  | .measClr => Sys2Proof.Machine.execMeasClr s
  | .pfailNFall => Sys2Proof.Machine.execPfailNFall s
  | .pfailNRise => Sys2Proof.Machine.execPfailNRise s
  | .sysRstNAssert => Sys2Proof.Machine.execSysRstNAssert s
  | .sysRstNDeassert => Sys2Proof.Machine.execSysRstNDeassert s
  | .drainNow => Sys2Proof.Machine.execDrainNow s
  | .drainWritebackDone => Sys2Proof.Machine.execDrainWritebackDone s
  | .drainFloatDone bad => Sys2Proof.Machine.execDrainFloatDone bad s
  | .drainMetadataDone v4a us => Sys2Proof.Machine.execDrainMetadataDone v4a us s
  | .vaultSealWritten => Sys2Proof.Machine.execVaultSealWritten s
  | .demandFetchDone obj tp us bad rd t3 sent => Sys2Proof.Machine.execDemandFetchDone obj tp us bad rd t3 sent s
  | .zeroFillDone obj tp => Sys2Proof.Machine.execZeroFillDone obj tp s
  | .overBound obj tp => Sys2Proof.Machine.execOverBound obj tp s
  | .t3FetchFail obj tp => Sys2Proof.Machine.execT3FetchFail obj tp s
  | .poolDry => Sys2Proof.Machine.execPoolDry s
  | .residencyCheckpoint => Sys2Proof.Machine.execResidencyCheckpoint s
  | .runCompactionStep => Sys2Proof.Machine.execRunCompactionStep s
  | .moveBegin words => Sys2Proof.Machine.execMoveBegin words s
  | .moveLoadDone obj tp bad rd t3 sent => Sys2Proof.Machine.execMoveLoadDone obj tp bad rd t3 sent s
  | .moveInstallDone obj tp => Sys2Proof.Machine.execMoveInstallDone obj tp s
  | .moveCleanDone obj tp => Sys2Proof.Machine.execMoveCleanDone obj tp s
  | .moveUnloadDone obj tp ok => Sys2Proof.Machine.execMoveUnloadDone obj tp ok s
  | .streamEntryStart d sid => Sys2Proof.Machine.execStreamEntryStart d sid s
  | .missEvictQueued la ev => Sys2Proof.Machine.execMissEvictQueued la ev s
  | .missFillReturn la e1 e2 others pq ev => Sys2Proof.Machine.execMissFillReturn la e1 e2 others pq ev s
  | .pgReqWrite sl v => Sys2Proof.Machine.execPgReqWrite sl v s
  | .wayGroupCleanDone sl g => Sys2Proof.Machine.execWayGroupCleanDone sl g s
  | .grpInv sl v => Sys2Proof.Machine.execGrpInv sl v s
  | .sliceDisReq v => Sys2Proof.Machine.execSliceDisReq v s
  | .sliceFlushDone sl => Sys2Proof.Machine.execSliceFlushDone sl s
  | .lockEntryWrite k range v => Sys2Proof.Machine.execLockEntryWrite k range v s
  | .fchSlStateWrite sl => Sys2Proof.Machine.execFchSlStateWrite sl s
  | .prtBenchWrite link => Sys2Proof.Machine.execPrtBenchWrite link s
  | .cmdStatusWrite => Sys2Proof.Machine.execCmdStatusWrite s
  | .tpeCnt2Write => Sys2Proof.Machine.execTpeCnt2Write s
  | .refreshDue ch rank busy => Sys2Proof.Machine.execRefreshDue ch rank busy s
  | .forcedRefresh ch rank => Sys2Proof.Machine.execForcedRefresh ch rank s
  | .neighbourRefresh ch rank => Sys2Proof.Machine.execNeighbourRefresh ch rank s
  | .dimmThermalPoll ch temps => Sys2Proof.Machine.execDimmThermalPoll ch temps s
  | .trainingDone x => Sys2Proof.Machine.execTrainingDone x s
  | .readEyeWindow ch lane e t => Sys2Proof.Machine.execReadEyeWindow ch lane e t s
  | .writeTrackingSlice ch rank drift => Sys2Proof.Machine.execWriteTrackingSlice ch rank drift s
  | .retrain ch lane => Sys2Proof.Machine.execRetrain ch lane s
  | .caParityAlert ch sub => Sys2Proof.Machine.execCaParityAlert ch sub s
  | .stripeSettleStart bad progs => Sys2Proof.Machine.execStripeSettleStart bad progs s
  | .stripeSettleDone frame p => Sys2Proof.Machine.execStripeSettleDone frame p s
  | .nandProgramFail ch settle => Sys2Proof.Machine.execNandProgramFail ch settle s
  | .nandEraseFail ch => Sys2Proof.Machine.execNandEraseFail ch s
  | .rehome obj tp bad => Sys2Proof.Machine.execRehome obj tp bad s
  | .garbageCollection ch valid avg top => Sys2Proof.Machine.execGarbageCollection ch valid avg top s
  | .channelRetire ch => Sys2Proof.Machine.execChannelRetire ch s
  | .retire ch => Sys2Proof.Machine.execRetire ch s
  | .retireSlot slot => Sys2Proof.Machine.execRetireSlot slot s
  | .slotPwrWrite slot v => Sys2Proof.Machine.execSlotPwrWrite slot v s
  | .carrierPresent slot c => Sys2Proof.Machine.execCarrierPresent slot c s
  | .adopt slot icOk paramOk => Sys2Proof.Machine.execAdopt slot icOk paramOk s
  | .rebuildDone ch => Sys2Proof.Machine.execRebuildDone ch s
  | .ladderHomeReadDone la ok rd => Sys2Proof.Machine.execLadderHomeReadDone la ok rd s
  | .ladderDeadline la => Sys2Proof.Machine.execLadderDeadline la s
  | .verifyRead la errs => Sys2Proof.Machine.execVerifyRead la errs s
  | .recodeWrite => Sys2Proof.Machine.execRecodeWrite s
  | .flipArmWrite obj reads arm => Sys2Proof.Machine.execFlipArmWrite obj reads arm s
  | .mirrorPhyUp port => Sys2Proof.Machine.execMirrorPhyUp port s
  | .mirrorPortPhyDown port => Sys2Proof.Machine.execMirrorPortPhyDown port s
  | .hello lport h => Sys2Proof.Machine.execHello lport h s
  | .helloRepeat => Sys2Proof.Machine.execHelloRepeat s
  | .mirrorSpdm authOk x => Sys2Proof.Machine.execMirrorSpdm authOk x s
  | .partnerEndedBringUp => Sys2Proof.Machine.execPartnerEndedBringUp s
  | .record r tagOk => Sys2Proof.Machine.execRecord r tagOk s
  | .ack lane mark => Sys2Proof.Machine.execAck lane mark s
  | .nak lane => Sys2Proof.Machine.execNak lane s
  | .retxTimeout lane => Sys2Proof.Machine.execRetxTimeout lane s
  | .keepalive port => Sys2Proof.Machine.execKeepalive port s
  | .mirrorLinkLost => Sys2Proof.Machine.execMirrorLinkLost s
  | .phyHoldEnd => Sys2Proof.Machine.execPhyHoldEnd s
  | .drain tagOk => Sys2Proof.Machine.execDrain tagOk s
  | .fetchReq tag obj ln fail => Sys2Proof.Machine.execFetchReq tag obj ln fail s
  | .fetchRsp tag st data => Sys2Proof.Machine.execFetchRsp tag st data s
  | .noRoom obj => Sys2Proof.Machine.execNoRoom obj s
  | .heartbeatLost => Sys2Proof.Machine.execHeartbeatLost s
  | .heartbeatRestored => Sys2Proof.Machine.execHeartbeatRestored s
  | .twinGrantChange v => Sys2Proof.Machine.execTwinGrantChange v s
  | .takeover => Sys2Proof.Machine.execTakeover s
  | .retryMatch => Sys2Proof.Machine.execRetryMatch s
  | .linkRestart => Sys2Proof.Machine.execLinkRestart s
  | .rdmaWrite p => Sys2Proof.Machine.execRdmaWrite p s
  | .rdmaSend p => Sys2Proof.Machine.execRdmaSend p s
  | .rdmaReadRequest p => Sys2Proof.Machine.execRdmaReadRequest p s
  | .cmpswap p => Sys2Proof.Machine.execCmpswap p s
  | .fetchadd p => Sys2Proof.Machine.execFetchadd p s
  | .acknowledge t psn => Sys2Proof.Machine.execAcknowledge t psn s
  | .rdmaNak t psn syn => Sys2Proof.Machine.execRdmaNak t psn syn s
  | .rdmaReadResponse t psn data => Sys2Proof.Machine.execRdmaReadResponse t psn data s
  | .settleAck t psn state mark => Sys2Proof.Machine.execSettleAck t psn state mark s
  | .cnp t => Sys2Proof.Machine.execCnp t s
  | .ccRecover t => Sys2Proof.Machine.execCcRecover t s
  | .pfcFrame port xoff => Sys2Proof.Machine.execPfcFrame port xoff s
  | .rdmaRetryTimeout t => Sys2Proof.Machine.execRdmaRetryTimeout t s
  | .rnrTimerExpiry t => Sys2Proof.Machine.execRnrTimerExpiry t s
  | .contextFetchDone x => Sys2Proof.Machine.execContextFetchDone x s
  | .raePortDown port => Sys2Proof.Machine.execRaePortDown port s
  | .ctxCreate x => Sys2Proof.Machine.execCtxCreate x s
  | .ctxModify x => Sys2Proof.Machine.execCtxModify x s
  | .ctxReset x => Sys2Proof.Machine.execCtxReset x s
  | .ctxDestroy x => Sys2Proof.Machine.execCtxDestroy x s
  | .ctxQuery x => Sys2Proof.Machine.execCtxQuery x s
  | .keyCreate k => Sys2Proof.Machine.execKeyCreate k s
  | .keyDestroy k => Sys2Proof.Machine.execKeyDestroy k s
  | .keyQuery k => Sys2Proof.Machine.execKeyQuery k s
  | .raeTrig x add => Sys2Proof.Machine.execRaeTrig x add s
  | .clusterFenceWrite v => Sys2Proof.Machine.execClusterFenceWrite v s
  | .trngHealthTest pass => Sys2Proof.Machine.execTrngHealthTest pass s
  | .drbgReseed => Sys2Proof.Machine.execDrbgReseed s
  | .loadXts d slot => Sys2Proof.Machine.execLoadXts d slot s
  | .loadGcm d slot => Sys2Proof.Machine.execLoadGcm d slot s
  | .zeroize d slot => Sys2Proof.Machine.execZeroize d slot s
  | .query d slot => Sys2Proof.Machine.execQuery d slot s
  | .tlRandomRead link ld => Sys2Proof.Machine.execTlRandomRead link ld s
  | .svnCommit => Sys2Proof.Machine.execSvnCommit s
  | .getMeasurements index nonce => Sys2Proof.Machine.execGetMeasurements index nonce s
  | .challenge slot nonce => Sys2Proof.Machine.execChallenge slot nonce s
  | .getCertificate slot => Sys2Proof.Machine.execGetCertificate slot s
  | .keyExchange owner => Sys2Proof.Machine.execKeyExchange owner s
  | .setDomainKek sess d kek => Sys2Proof.Machine.execSetDomainKek sess d kek s
  | .clearDomainKek sess d => Sys2Proof.Machine.execClearDomainKek sess d s
  | .writeRecoveryImage sess kind x => Sys2Proof.Machine.execWriteRecoveryImage sess kind x s
  | .writeConfiguration sess c cut => Sys2Proof.Machine.execWriteConfiguration sess c cut s
  | .serviceFirmwareStart x => Sys2Proof.Machine.execServiceFirmwareStart x s
  | .pwrReqAssert longOff => Sys2Proof.Machine.execPwrReqAssert longOff s
  | .pwrReqDeassert => Sys2Proof.Machine.execPwrReqDeassert s
  | .railGood r => Sys2Proof.Machine.execRailGood r s
  | .railPgFall r => Sys2Proof.Machine.execRailPgFall r s
  | .rampTimeout r => Sys2Proof.Machine.execRampTimeout r s
  | .pmbusPoll r ans faults => Sys2Proof.Machine.execPmbusPoll r ans faults s
  | .railRetry r => Sys2Proof.Machine.execRailRetry r s
  | .upStepDelay => Sys2Proof.Machine.execUpStepDelay s
  | .corePhaseEnd bootSpi safe badA badB => Sys2Proof.Machine.execCorePhaseEnd bootSpi safe badA badB s
  | .configWaitTimeout => Sys2Proof.Machine.execConfigWaitTimeout s
  | .downStepDelay => Sys2Proof.Machine.execDownStepDelay s
  | .minOffEnd => Sys2Proof.Machine.execMinOffEnd s
  | .whistleSync => Sys2Proof.Machine.execWhistleSync s
  | .whistleSyncTimeout => Sys2Proof.Machine.execWhistleSyncTimeout s
  | .whistle => Sys2Proof.Machine.execWhistle s
  | .ffClr => Sys2Proof.Machine.execFfClr s
  | .domainSwitch d on => Sys2Proof.Machine.execDomainSwitch d on s
  | .domainPowerGood d => Sys2Proof.Machine.execDomainPowerGood d s
  | .domainSwitchTimeout d => Sys2Proof.Machine.execDomainSwitchTimeout d s
  | .dieOverTemperature => Sys2Proof.Machine.execDieOverTemperature s
  | .flushNow => Sys2Proof.Machine.execFlushNow s
  | .daybookFlushDone okA okB => Sys2Proof.Machine.execDaybookFlushDone okA okB s
  | .daybookCheckpoint => Sys2Proof.Machine.execDaybookCheckpoint s
  | .dramRow ch rank => Sys2Proof.Machine.execDramRow ch rank s
  | .fchMarch sl group => Sys2Proof.Machine.execFchMarch sl group s
  | .cipKat cluster => Sys2Proof.Machine.execCipKat cluster s
  | .abort => Sys2Proof.Machine.execAbort s
  | .pop => Sys2Proof.Machine.execPop s
  | .coreOffWrite v => Sys2Proof.Machine.execCoreOffWrite v s
  | .mapBlockLoaded blk => Sys2Proof.Machine.execMapBlockLoaded blk s
  | .warmRst => Sys2Proof.Machine.execWarmRst s
  | .wdogKick => Sys2Proof.Machine.execWdogKick s
  | .watchdogExpiry => Sys2Proof.Machine.execWatchdogExpiry s
  | .functionLevelReset link ld => Sys2Proof.Machine.execFunctionLevelReset link ld s
  | .registerWrite link ld ofs size v x => Sys2Proof.Machine.execRegisterWrite link ld ofs size v x s
  | .alwaysOnPowerUp req pfail bypass => Sys2Proof.Machine.execAlwaysOnPowerUp req pfail bypass s
  | .abruptLoss na nb => Sys2Proof.Machine.execAbruptLoss na nb s
  | .carrierRemoved slot => Sys2Proof.Machine.execCarrierRemoved slot s
  | .resyncPageSend waited => Sys2Proof.Machine.execResyncPageSend waited s
  | .rebuildStripe ch home => Sys2Proof.Machine.execRebuildStripe ch home s
  | .linkDown link => Sys2Proof.Machine.execLinkDown link s
  | .networkPortPhyUp port => Sys2Proof.Machine.execNetworkPortPhyUp port s
  | .heartbeatToggle => Sys2Proof.Machine.execHeartbeatToggle s
  | .registerRead link ld ofs size => Sys2Proof.Machine.execRegisterRead link ld ofs size s

end Sys2Proof.Machine
end

