-- ==== Sys2Proof/WellFormed.lean ====
section
/-! DEFINITION. Which commands are well formed: every number lies in the range of the thing it names. An ill-formed
command never reaches the hardware; the meanings leave the state as it is where a range they index by is left. -/

namespace Sys2Proof

/-- A link of R83. -/
def okLink (n : Nat) : Bool := decide (n < 8)
/-- An LD of R87. -/
def okLd (n : Nat) : Bool := decide (n < 16)
/-- A port (CXL or network) 0 to 3. -/
def okPort (n : Nat) : Bool := decide (n < 4)
/-- A mirror port, E0 or E1 (R318). -/
def okTwinPort (n : Nat) : Bool := decide (n < 2)
/-- A queue pair (R110). -/
def okQp (n : Nat) : Bool := decide (n < 1024)
/-- A domain. -/
def okDom (n : Nat) : Bool := decide (n < 256)
/-- An internal power domain (Table 16.6). -/
def okPowerDom (n : Nat) : Bool := decide (n < 112)
/-- A slice or lock entry of the front cache. -/
def okSlice (n : Nat) : Bool := decide (n < 16)
/-- A way group. -/
def okGroup (n : Nat) : Bool := decide (n < 4)
/-- A DDR5 channel. -/
def okCh (n : Nat) : Bool := decide (n < 12)
/-- A NAND channel. -/
def okNand (n : Nat) : Bool := decide (n < 36)
/-- A rank. -/
def okRank (n : Nat) : Bool := decide (n < 4)
/-- A subchannel. -/
def okSub (n : Nat) : Bool := decide (n < 2)
/-- A strobe lane. -/
def okLane (n : Nat) : Bool := decide (n < 20)
/-- A mirror lane. -/
def okMirLane (n : Nat) : Bool := decide (n < 16)
/-- A carrier slot. -/
def okSlot (n : Nat) : Bool := decide (n < 18)
/-- A key slot. -/
def okKeySlot (n : Nat) : Bool := decide (n < 4096)
/-- A line address, DDA[42:6]. -/
def okLa (n : Nat) : Bool := decide (n < 2 ^ 37)
/-- A DPA (R89). -/
def okDpa (n : Nat) : Bool := decide (n < 2 ^ 47)
/-- A rail (R397). -/
def okRail (n : Nat) : Bool := decide (n < 24)
/-- A packet sequence number. -/
def okPsn (n : Nat) : Bool := decide (n < 2 ^ 24)
/-- A context or key index. -/
def okCtx (n : Nat) : Bool := decide (n < 65536)
/-- An object ID. -/
def okObj (n : Nat) : Bool := decide (n < 2 ^ 32)
/-- A tier page. -/
def okTp (n : Nat) : Bool := decide (n < 2 ^ 32)
/-- A cipher cluster. -/
def okCluster (n : Nat) : Bool := decide (n < 8)
/-- A BAR0 offset (R457). -/
def okOfs (n : Nat) : Bool := decide (n < 2 ^ 24)
/-- A packet's PSN and QPN of 24 bits, keys of 32, and bytes. -/
def okPkt (p : Pkt) : Bool :=
  decide (p.psn < 2 ^ 24) && decide (p.qpn < 2 ^ 24) && decide (p.rkey < 2 ^ 32) && p.data.all fun b => decide (b < 256)

/-- A command is well formed. -/
def Instr.wf (i : Instr) : Bool :=
  match i with
  | .tickBoundary _ => true
  | .cxlMemRead link ld dpa _ _ _ => okLink link && okLd ld && okDpa dpa
  | .cxlMemWrite link ld dpa _ _ _ _ _ => okLink link && okLd ld && okDpa dpa
  | .settlePageStore link ld _ => okLink link && okLd ld
  | .settlePageTimeout link ld _ => okLink link && okLd ld
  | .snoopWriteBack link ld dpa _ _ _ _ _ => okLink link && okLd ld && okDpa dpa
  | .birsp link la => okLink link && okLa la
  | .biTimeout link la => okLink link && okLa la
  | .gpfPhase2 port => okPort port
  | .gpfPhase2Timeout port => okPort port
  | .hdmDecoderCommit link ld _ _ _ _ _ => okLink link && okLd ld
  | .ideKmKeyProg link _ _ => okLink link
  | .ideMacFail link _ _ => okLink link
  | .perstAssert port => okPort port
  | .perstRelease port => okPort port
  | .linkUp link _ _ _ _ _ => okLink link
  | .linkRecoveryEntry link _ => okLink link
  | .linkRetrain link _ => okLink link
  | .portOfflineWrite port _ => okPort port
  | .pnRdyRise port => okPort port
  | .pnRdyTimeout port => okPort port
  | .identify link ld => okLink link && okLd ld
  | .getEventRecords link ld => okLink link && okLd ld
  | .getPoisonList link ld => okLink link && okLd ld
  | .getHealthInfo link ld => okLink link && okLd ld
  | .setTimestamp _ => true
  | .initiateDynamicCapacityAdd link ld _ _ => okLink link && okLd ld
  | .dynamicCapacityRelease link ld _ _ => okLink link && okLd ld
  | .bindLdDomain link ld dom => okLink link && okLd ld && okDom dom
  | .unbindCarrier slot => okSlot slot
  | .registerAccess _ ofs _ _ _ => okOfs ofs
  | .sqTailDoorbell q _ => okQp q
  | .cqHeadDoorbell q _ => okQp q
  | .qpEnWrite q _ => okQp q
  | .qpReset q => okQp q
  | .queueResetCut q => okQp q
  | .sqeFetch _ _ => true
  | .commandDispatch _ _ => true
  | .commandComplete => true
  | .coalesceTimeout q => okQp q
  | .ringDmaError q _ => okQp q
  | .read _ _ _ => true
  | .write _ _ _ _ _ => true
  | .writeAtomic _ _ _ _ => true
  | .copy _ _ => true
  | .fill _ _ => true
  | .settle _ => true
  | .objCreate _ => true
  | .objDelete _ => true
  | .objResize _ => true
  | .objAttr _ => true
  | .windowMap _ => true
  | .windowUnmap _ => true
  | .place _ => true
  | .hold _ => true
  | .release _ => true
  | .streamPost _ _ _ => true
  | .streamCancel _ => true
  | .seal _ _ _ => true
  | .unseal _ _ _ _ => true
  | .logRead _ _ => true
  | .nop _ => true
  | .floatChargeAdmitted => true
  | .stall dom _ => okDom dom
  | .floorComparatorArmed => true
  | .holdupFloorCrossing => true
  | .holdupPmbusPoll _ => true
  | .snsOpen _ => true
  | .snsNeg _ => true
  | .holdupInvertWrite _ => true
  | .ccalNow _ => true
  | .ccalInterval _ => true
  | .ccalDischarged => true
  | .ccalAbandon => true
  | .ccalIoutPoll _ => true
  | .ccalRecharged => true
  | .vcalNow => true
  | .rehearsal => true
  | .rehearsalDone _ => true
  | .measClr => true
  | .pfailNFall => true
  | .pfailNRise => true
  | .sysRstNAssert => true
  | .sysRstNDeassert => true
  | .drainNow => true
  | .drainWritebackDone => true
  | .drainFloatDone _ => true
  | .drainMetadataDone _ _ => true
  | .vaultSealWritten => true
  | .demandFetchDone obj tp _ _ _ _ _ => okObj obj && okTp tp
  | .zeroFillDone obj _ => okObj obj
  | .overBound obj tp => okObj obj && okTp tp
  | .t3FetchFail obj tp => okObj obj && okTp tp
  | .poolDry => true
  | .residencyCheckpoint => true
  | .runCompactionStep => true
  | .moveBegin _ => true
  | .moveLoadDone obj tp _ _ _ _ => okObj obj && okTp tp
  | .moveInstallDone obj tp => okObj obj && okTp tp
  | .moveCleanDone obj tp => okObj obj && okTp tp
  | .moveUnloadDone obj tp _ => okObj obj && okTp tp
  | .streamEntryStart d _ => okDom d
  | .missEvictQueued la _ => okLa la
  | .missFillReturn la _ _ _ _ _ => okLa la
  | .pgReqWrite sl _ => okSlice sl
  | .wayGroupCleanDone sl g => okSlice sl && okGroup g
  | .grpInv sl _ => okSlice sl
  | .sliceDisReq _ => true
  | .sliceFlushDone sl => okSlice sl
  | .lockEntryWrite k _ _ => okSlice k
  | .fchSlStateWrite sl => okSlice sl
  | .prtBenchWrite link => okLink link
  | .cmdStatusWrite => true
  | .tpeCnt2Write => true
  | .refreshDue ch rank _ => okCh ch && okRank rank
  | .forcedRefresh ch rank => okCh ch && okRank rank
  | .neighbourRefresh ch rank => okCh ch && okRank rank
  | .dimmThermalPoll ch _ => okCh ch
  | .trainingDone _ => true
  | .readEyeWindow ch lane _ _ => okCh ch && okLane lane
  | .writeTrackingSlice ch rank _ => okCh ch && okRank rank
  | .retrain ch lane => okCh ch && okLane lane
  | .caParityAlert ch sub => okCh ch && okSub sub
  | .stripeSettleStart _ _ => true
  | .stripeSettleDone _ _ => true
  | .nandProgramFail ch _ => okNand ch
  | .nandEraseFail ch => okNand ch
  | .rehome obj tp _ => okObj obj && okTp tp
  | .garbageCollection ch _ _ _ => okNand ch
  | .channelRetire ch => okNand ch
  | .retire ch => okNand ch
  | .retireSlot slot => okSlot slot
  | .slotPwrWrite slot _ => okSlot slot
  | .carrierPresent slot _ => okSlot slot
  | .adopt slot _ _ => okSlot slot
  | .rebuildDone ch => okNand ch
  | .ladderHomeReadDone la _ _ => okLa la
  | .ladderDeadline la => okLa la
  | .verifyRead la _ => okLa la
  | .recodeWrite => true
  | .flipArmWrite obj _ _ => okObj obj
  | .mirrorPhyUp port => okTwinPort port
  | .mirrorPortPhyDown port => okTwinPort port
  | .hello lport _ => okTwinPort lport
  | .helloRepeat => true
  | .mirrorSpdm _ _ => true
  | .partnerEndedBringUp => true
  | .record _ _ => true
  | .ack lane _ => okMirLane lane
  | .nak lane => okMirLane lane
  | .retxTimeout lane => okMirLane lane
  | .keepalive port => okTwinPort port
  | .mirrorLinkLost => true
  | .phyHoldEnd => true
  | .drain _ => true
  | .fetchReq _ obj _ _ => okObj obj
  | .fetchRsp _ _ _ => true
  | .noRoom obj => okObj obj
  | .heartbeatLost => true
  | .heartbeatRestored => true
  | .twinGrantChange _ => true
  | .takeover => true
  | .retryMatch => true
  | .linkRestart => true
  | .rdmaWrite p => okPkt p
  | .rdmaSend p => okPkt p
  | .rdmaReadRequest p => okPkt p
  | .cmpswap p => okPkt p
  | .fetchadd p => okPkt p
  | .acknowledge t psn => okCtx t && okPsn psn
  | .rdmaNak t psn _ => okCtx t && okPsn psn
  | .rdmaReadResponse t psn _ => okCtx t && okPsn psn
  | .settleAck t psn _ _ => okCtx t && okPsn psn
  | .cnp t => okCtx t
  | .ccRecover t => okCtx t
  | .pfcFrame port _ => okPort port
  | .rdmaRetryTimeout t => okCtx t
  | .rnrTimerExpiry t => okCtx t
  | .contextFetchDone x => okCtx x
  | .raePortDown port => okPort port
  | .ctxCreate x => okCtx x
  | .ctxModify x => okCtx x
  | .ctxReset x => okCtx x
  | .ctxDestroy x => okCtx x
  | .ctxQuery x => okCtx x
  | .keyCreate i => okCtx i
  | .keyDestroy i => okCtx i
  | .keyQuery i => okCtx i
  | .raeTrig x _ => okCtx x
  | .clusterFenceWrite _ => true
  | .trngHealthTest _ => true
  | .drbgReseed => true
  | .loadXts d slot => okDom d && okKeySlot slot
  | .loadGcm d slot => okDom d && okKeySlot slot
  | .zeroize d slot => okDom d && okKeySlot slot
  | .query d slot => okDom d && okKeySlot slot
  | .tlRandomRead link ld => okLink link && okLd ld
  | .svnCommit => true
  | .getMeasurements _ _ => true
  | .challenge _ _ => true
  | .getCertificate _ => true
  | .keyExchange _ => true
  | .setDomainKek _ d _ => okDom d
  | .clearDomainKek _ d => okDom d
  | .writeRecoveryImage _ _ _ => true
  | .writeConfiguration _ _ _ => true
  | .serviceFirmwareStart _ => true
  | .pwrReqAssert _ => true
  | .pwrReqDeassert => true
  | .railGood r => okRail r
  | .railPgFall r => okRail r
  | .rampTimeout r => okRail r
  | .pmbusPoll r _ _ => okRail r
  | .railRetry r => okRail r
  | .upStepDelay => true
  | .corePhaseEnd _ _ _ _ => true
  | .configWaitTimeout => true
  | .downStepDelay => true
  | .minOffEnd => true
  | .whistleSync => true
  | .whistleSyncTimeout => true
  | .whistle => true
  | .ffClr => true
  | .domainSwitch d _ => okPowerDom d
  | .domainPowerGood d => okPowerDom d
  | .domainSwitchTimeout d => okPowerDom d
  | .dieOverTemperature => true
  | .flushNow => true
  | .daybookFlushDone _ _ => true
  | .daybookCheckpoint => true
  | .dramRow ch rank => okCh ch && okRank rank
  | .fchMarch sl group => okSlice sl && okGroup group
  | .cipKat cluster => okCluster cluster
  | .abort => true
  | .pop => true
  | .coreOffWrite _ => true
  | .mapBlockLoaded _ => true
  | .warmRst => true
  | .wdogKick => true
  | .watchdogExpiry => true
  | .functionLevelReset link ld => okLink link && okLd ld
  | .registerWrite link ld ofs _ _ _ => okLink link && okLd ld && okOfs ofs
  | .alwaysOnPowerUp _ _ _ => true
  | .abruptLoss _ _ => true
  | .carrierRemoved slot => okSlot slot
  | .resyncPageSend _ => true
  | .rebuildStripe ch _ => okNand ch
  | .linkDown link => okLink link
  | .networkPortPhyUp port => okPort port
  | .heartbeatToggle => true
  | .registerRead link ld ofs _ => okLink link && okLd ld && okOfs ofs

end Sys2Proof
end

