-- ==== Sys2Proof/Safety.lean ====
section
/-! DEFINITION. What a safe state is: the properties that every command keeps, in the terms the statements use. -/

namespace Sys2Proof.Machine

/-- A value that instance i of a field can hold: within its width, its table's limits and its write rule (the Bits
columns and clamping rules of the register tables). -/
def Fld.legal (f : Fld) (i v : Nat) : Bool := f.store i v == v

/-- The register table is in canonical form: keys rising, every listed value one that its field can hold and other
than the reset value. -/
def regsOk (r : SMap Nat) : Bool :=
  mwf r && r.all fun e => (Fld.ofNat e.1.1).legal e.1.2 e.2 && e.2 != (Fld.ofNat e.1.1).resetVal e.1.2

/-- The DRAM contents are in canonical form: line keys rising, and no listed line equal to what an unlisted line reads
as (log entry 5). -/
def dramOk (m : SMap DLine) : Bool := mwf m && m.all fun e => e.2 != zeroLine

/-- The invariant of the model: registers and DRAM are canonical, and the waiting commands are well formed. -/
def State.Inv (s : State) : Prop := regsOk s.regs = true ∧ dramOk s.dram = true ∧ s.pending.all Instr.wf = true

/-! ### Frames -/

/-- The parts of the state beside the registers. -/
inductive Part where
  | glb | dbk | once | md | jr | saved | tpe | dram | fch | stl | nfc | drc | int | prt | cmd | waits | fences | fgv | drain | mir | rae | sec | pwr | bst | boot | freeIdx | out | pending
deriving DecidableEq, Repr

/-- A part is alike in two states. -/
def Part.same (p : Part) (s t : State) : Prop :=
  match p with
  | .glb => t.glb = s.glb
  | .dbk => t.dbk = s.dbk
  | .once => t.once = s.once
  | .md => t.md = s.md
  | .jr => t.jr = s.jr
  | .saved => t.saved = s.saved
  | .tpe => t.tpe = s.tpe
  | .dram => t.dram = s.dram
  | .fch => t.fch = s.fch
  | .stl => t.stl = s.stl
  | .nfc => t.nfc = s.nfc
  | .drc => t.drc = s.drc
  | .int => t.int = s.int
  | .prt => t.prt = s.prt
  | .cmd => t.cmd = s.cmd
  | .waits => t.waits = s.waits
  | .fences => t.fences = s.fences
  | .fgv => t.fgv = s.fgv
  | .drain => t.drain = s.drain
  | .mir => t.mir = s.mir
  | .rae => t.rae = s.rae
  | .sec => t.sec = s.sec
  | .pwr => t.pwr = s.pwr
  | .bst => t.bst = s.bst
  | .boot => t.boot = s.boot
  | .freeIdx => t.freeIdx = s.freeIdx
  | .out => t.out = s.out
  | .pending => t.pending = s.pending

/-- From s to t nothing changes but the parts and the register fields listed, each field with its instance. -/
structure Only (ps : List Part) (fs : List (Fld × Nat)) (s t : State) : Prop where
  parts : ∀ p, p ∉ ps → p.same s t
  regs : ∀ f i, (f, i) ∉ fs → t.rdi f i = s.rdi f i

/-- The register fields that raising a Daybook record may change (R418 to R425). -/
def dbkRegs : List (Fld × Nat) :=
  [(.HEAD_SEQ, 0), (.HEAD_OFS, 0), (.TAIL_SEQ, 0), (.TAIL_OFS, 0), (.LOST, 0), (.LOST_CNT, 0),
    (.DBK_FLAGS_CNT_OVF, 0), (.FLUSH_BUSY, 0)]

/-- The register fields that an alert changes (R469, R470). -/
def alertRegs : List (Fld × Nat) := [(.ALERT_CAUSE, 0), (.ALERT_OUT, 0), (.INT_TGT_ERR, 0)]

/-! ### Footprints -/

/-- From s to t nothing changes but the parts and the register fields listed. -/
structure Within (ps : List Part) (fs : List Fld) (s t : State) : Prop where
  parts : ∀ p, p ∉ ps → p.same s t
  regs : ∀ f i, f ∉ fs → t.rdi f i = s.rdi f i

/-- What a Daybook record may change (R418 to R425). -/
def dbkFlds : List Fld := [.HEAD_SEQ, .TAIL_SEQ, .TAIL_OFS, .HEAD_OFS, .FLUSH_BUSY, .LOST_CNT, .DBK_FLAGS_CNT_OVF,
  .LOST]

/-- What an alert may change (R469, R470). -/
def alertFlds : List Fld := [.ALERT_CAUSE, .ALERT_OUT, .INT_TGT_ERR]

/-- The fatal alert (R470). -/
def fatalFlds : List Fld := [.ALERT_FATAL, .FATAL, .FATAL_BLK]

/-- The occupancy of the command engine (R124, R135). -/
def engineFlds : List Fld := [.EXEC_USED, .WAIT_USED, .LOCK_USED, .LOCK_PEAK]

/-- The start of a drain (R50, R51, and what it stops). -/
def drainFlds : List Fld := [.DRAINING, .CCAL_BUSY, .STALLED, .MEM_ACTIVE, .BENCH_USED, .BENCHED, .MR_PEAK,
  .RETRAIN_BUSY, .SETTLES_ACTIVE, .SOLO_PAGES, .BST_STATUS_BUSY, .TEST_NOW, .UNITS_LEFT]

/-- A store to a page (R47, R62, R318, R347). -/
def storeFlds : List Fld := [.FLOAT_PAGES, .CHARGE, .SSN_ISSUED, .SOLO_PAGES, .RETX_RECORDS]

/-- The moves of pages and what asks for them (R174 to R183, R202, R205). -/
def moveFlds : List Fld := [.STALLED, .FREE_FRAMES, .MOVES_USED, .DF_ACTIVE, .DF_CNT, .TPE_FLAGS_CNT_OVF,
  .OVER_CEIL, .TALLY, .STREAMS_ACTIVE, .LATE_CNT, .TPE_DOM_STRM2_CNT_OVF, .STREAMS]

/-- A line of the front cache (R227 to R236). -/
def lineFlds : List Fld := [.MR_PEAK, .MR_FULL_CNT, .MERGE_FULL_CNT, .FCH_SL_FLAGS_CNT_OVF]

/-- The answer to a host access (R88, R89, R96). -/
def answerFlds : List Fld := [.DEVLOAD, .POISON_RD_CNT, .PRT_LD_FLAGS_CNT_OVF]

/-- A host access that waits or fails (R16, R107, R108, R236). -/
def hostFlds : List Fld := [.BENCH_FULL, .BENCH_USED, .BENCH_PEAK, .BENCHED, .UNMAPPED_CNT, .SF_EVICT_CNT,
  .SF_EVICT_OVF, .RETX_FULL]

/-- A frame freed or retired (R177, R178, R183, R309). -/
def frameFlds : List Fld := [.POOL_FRAMES, .FREE_FRAMES, .POOL_DRY, .FLOOR_SCALED, .FLOOR_CLAMP, .OVER_CEIL, .TALLY,
  .FLOOR_EFF, .RECODE_LEFT, .RETIRE_PEND, .REMAP_USED, .VALID, .LA, .INT_REMAP_DEVICE, .SPPR_PEND]

/-- The recovery ladder and the decode of a line (R299 to R308). -/
def ladderFlds : List Fld := [.FLIP_READS, .FLIP_ARM, .INT_CH_ERR_CE_CNT, .INT_CH_ERR_UE_CNT, .REBUILD_CNT,
  .HOME_CNT, .TWIN_CNT, .POISON_CNT, .MARK_VALID, .MARK_DEV, .INT_CH_FLAGS_CNT_OVF]

/-- The ledger, the map and the vault (R167 to R173, R246). -/
def ledgerFlds : List Fld := [.VAULT_FREE_MIB, .VAULT_CAP_MIB, .RESERVED_TP, .OBJ_COUNT, .MAP_USED, .REHOME_LEFT,
  .REFS]

/-- The link of a port (Table 04.3). -/
def linkFields : List Fld := [.PRT_LINK_STATUS_LINK_UP, .RATE, .WIDTH, .REVERSED, .FLIT256, .HDM_DB, .IDE_MEM,
  .IDE_IO, .POLARITY]

/-- The twin-mirror state machine (R329 to R340). -/
def mirFlds : List Fld := [.STATE, .RESYNC_BUSY, .FULL_RESYNC, .RESYNC_LEFT, .SOLO_CNT, .MIR_FLAGS_CNT_OVF]

/-- An RDMA context that takes packets (R353 to R370). -/
def packetFlds : List Fld := [.PARK_PKTS, .PARK_BYTES, .RAE_FLAGS_CNT_OVF, .CTX_ERR, .RAE_DUP_CNT, .SEQ_NAK_CNT,
  .RNR_SENT_CNT]

/-- An RDMA context that comes on chip (R351). -/
def ctxFlds : List Fld := [.CTX_ONCHIP, .RAE_STATUS_PINNED, .CTX_MISS_CNT]

/-- The rail table (R451). -/
def railFields : List Fld := [.EN, .UP_STEP, .DOWN_STEP, .PWR_RAIL_CFG_GROUP, .REACTION, .DRAIN_NEED, .PMBUS_EN,
  .PMBUS_ADDR, .PMBUS_PAGE, .DRAM_CH, .DWELL_US, .CHATTER_LIMIT, .RAMP_TIMEOUT_US, .DEGLITCH_US]

/-- An up-sequence (R399, R400). -/
def railUpFlds : List Fld := [.SEQ_STATE, .UP_STEP_NOW, .WHISTLE_IN, .WHISTLE_OUT, .ON_LATCHED, .RAIL_EN_OUT,
  .CHATTER_NOW]

/-- A down-sequence and MIN_OFF (R402, R403). -/
def railDownFlds : List Fld := [.MEM_ACTIVE, .DOWN_STEP_NOW, .WHISTLE_IN, .WHISTLE_OUT, .RAIL_EN_OUT,
  .RAIL_RETRYING, .ALERT_OUT]

/-- A carrier and its channels (R249 to R262, R289). -/
def mediaFlds : List Fld := [.VAULT_FREE_MIB, .VAULT_CAP_MIB, .CH_ONLINE, .DEGRADED_0, .DEGRADED_1, .MEDIA_READY,
  .CH_STATE]

/-- Every field. -/
def allFlds : List Fld := (List.range 564).map Fld.ofNat

/-- Every field but those that a loss of the fabric's power leaves (R472). -/
def restartFlds : List Fld := allFlds.filter fun f => !keptFlds.contains f

/-- The register fields that a command may change. -/
def touchedFlds : Instr → List Fld
  | .tickBoundary .. =>
    dbkFlds ++ alertFlds ++ fatalFlds ++ drainFlds ++ storeFlds ++ moveFlds ++ lineFlds ++ answerFlds ++ hostFlds
      ++ frameFlds ++ ladderFlds ++ ledgerFlds ++ mirFlds ++ packetFlds ++ ctxFlds ++ [.ARMED, .HOLDUP_SNS_FAULT,
      .HOLDUP_REVERSED, .FLOAT_OVER, .LIMIT_SRC, .FLOAT_LIMIT, .T_HOLD_US, .HOLDUP_MV, .SHARE, .DC_EXTENTS,
      .SLICE_BUSY, .INV_DONE, .WAY_DIS, .REF_DEBT, .RQ_USED, .WQ_USED, .PROMOTE_CNT, .REF_FORCED_CNT,
      .DRC_CH_FLAGS_CNT_OVF, .RD_CENTRE, .WR_CENTRE, .VREF_RD, .SCRUB_PASSES, .META_FATAL, .SCRUB_LA, .SCRUB_OVF,
      .REMAP_FULL, .PARTNER_UID, .SENIOR, .MIR_STATUS_LINK_UP, .ID_FAIL, .UNMATCHED, .TOOK_OVER, .TWIN_APPLIED,
      .SPLIT_SEEN, .PARK_FULL, .SNS_OPEN, .RAIL_PG_IN, .OP_TIME, .RES_USED, .RES, .UNITS_CNT, .FAIL_CNT,
      .BST_FLAGS_CNT_OVF, .RES_OVF, .TICK_NUMBER, .PARK_DROP_CNT]
  | .cxlMemRead .. =>
    dbkFlds ++ alertFlds ++ fatalFlds ++ drainFlds ++ storeFlds ++ moveFlds ++ lineFlds ++ answerFlds ++ hostFlds
      ++ frameFlds ++ [.SLICE_BUSY, .TAG_FATAL, .WAY_DIS, .FCH_SL_ERR_CE_CNT, .FCH_SL_ERR_UE_CNT, .CLUSTER_ACTIVE,
      .CLUSTER_FAULT, .PARITY_CNT, .CIP_FLAGS_CNT_OVF]
  | .cxlMemWrite .. | .settlePageStore .. | .snoopWriteBack .. | .mapBlockLoaded .. =>
    dbkFlds ++ storeFlds ++ moveFlds ++ lineFlds ++ answerFlds ++ hostFlds
  | .settlePageTimeout .. => [.DEVLOAD]
  | .birsp .. => dbkFlds ++ storeFlds ++ moveFlds ++ lineFlds ++ answerFlds ++ hostFlds ++ [.DC_EXTENTS]
  | .biTimeout .. =>
    dbkFlds ++ alertFlds ++ storeFlds ++ moveFlds ++ lineFlds ++ answerFlds ++ hostFlds ++ [.BI_TIMEOUT_CNT,
      .PRT_LINK_FLAGS_CNT_OVF, .DC_EXTENTS]
  | .gpfPhase2 .. => dbkFlds ++ [.STALLED, .DEVLOAD, .RETX_RECORDS, .RETX_FULL]
  | .gpfPhase2Timeout .. => dbkFlds ++ [.STALLED]
  | .hdmDecoderCommit .. | .identify .. | .getEventRecords .. | .getPoisonList .. | .getHealthInfo ..
  | .setTimestamp .. | .coalesceTimeout .. | .ccalDischarged | .ccalIoutPoll .. | .rehearsal
  | .residencyCheckpoint | .hello .. | .helloRepeat | .keepalive .. | .phyHoldEnd | .ccRecover .. | .pfcFrame ..
  | .drbgReseed | .tlRandomRead .. | .getMeasurements .. | .challenge .. | .getCertificate ..
  | .writeConfiguration .. | .heartbeatToggle =>
    []
  | .ideKmKeyProg .. => [.IDE_MEM, .IDE_IO]
  | .ideMacFail .. =>
    dbkFlds ++ [.STALLED, .IDE_MEM, .IDE_IO, .IDE_FAIL_CNT, .PRT_LINK_FLAGS_CNT_OVF, .GCM_FAIL_CNT,
      .CIP_FLAGS_CNT_OVF]
  | .perstAssert .. =>
    dbkFlds ++ engineFlds ++ storeFlds ++ moveFlds ++ lineFlds ++ answerFlds ++ hostFlds ++ linkFields ++
      [.MEM_ACTIVE, .QP_EN, .RESET_BUSY, .INFLIGHT]
  | .perstRelease .. => [.SPLIT_ACT]
  | .linkUp .. => [.PRT_LINK_STATUS_LINK_UP, .RATE, .WIDTH, .REVERSED, .FLIT256, .HDM_DB, .POLARITY]
  | .linkRecoveryEntry .. => dbkFlds ++ [.RATE, .RETRAIN_CNT, .DOWNSHIFT_CNT, .PRT_LINK_FLAGS_CNT_OVF]
  | .linkRetrain .. => dbkFlds ++ [.RATE]
  | .portOfflineWrite .. => dbkFlds ++ linkFields ++ [.PORT_OFFLINE, .MEM_ACTIVE]
  | .pnRdyRise .. => dbkFlds ++ [.MEM_ACTIVE, .REFILL_LEFT, .REFILL_DONE]
  | .pnRdyTimeout .. | .vcalNow | .flushNow | .wdogKick => dbkFlds
  | .initiateDynamicCapacityAdd .. => [.FLOAT_PAGES, .CHARGE, .DC_EXTENTS]
  | .dynamicCapacityRelease .. => [.FLOAT_PAGES, .CHARGE, .DC_EXTENTS, .SSN_ISSUED, .RETX_RECORDS, .RETX_FULL]
  | .bindLdDomain .. => dbkFlds ++ [.PRT_LD_CFG_DOMAIN]
  | .unbindCarrier .. | .carrierRemoved .. => [.PRESENT, .ID_STATE, .REFUSE_CAUSE, .CARRIER_UID]
  | .registerAccess .. | .serviceFirmwareStart .. | .registerWrite .. | .alwaysOnPowerUp .. => allFlds
  | .sqTailDoorbell .. => dbkFlds ++ [.SQ_TAIL, .DB_ERR, .DB_ERR_CNT, .CMD_FLAGS_CNT_OVF]
  | .cqHeadDoorbell .. => dbkFlds ++ [.CQ_HEAD, .DB_ERR, .DB_ERR_CNT, .CMD_FLAGS_CNT_OVF]
  | .qpEnWrite .. =>
    dbkFlds ++ [.SQ_TAIL, .CQ_HEAD, .QP_EN, .SQ_HEAD, .CQ_TAIL, .CQ_PHASE, .CFG_ERR, .QP_OWNER_DOMAIN,
      .QP_OWNER_LINK, .QP_OWNER_LD, .QP_OWNER_ASSIGNED]
  | .qpReset .. | .commandComplete =>
    dbkFlds ++ engineFlds ++ storeFlds ++ moveFlds ++ lineFlds ++ answerFlds ++ hostFlds ++ [.QP_EN, .CQ_TAIL,
      .CQ_PHASE, .RESET_BUSY, .QP_ERR, .INFLIGHT, .RESET_CNT, .CMD_FLAGS_CNT_OVF]
  | .queueResetCut .. =>
    dbkFlds ++ engineFlds ++ frameFlds ++ [.FLOAT_PAGES, .STALLED, .CHARGE, .CUT_CNT, .CMD_FLAGS_CNT_OVF,
      .MOVES_USED, .DF_ACTIVE, .STREAMS_ACTIVE, .STREAMS]
  | .sqeFetch .. => dbkFlds ++ engineFlds ++ [.SQ_HEAD, .INFLIGHT, .LOCK_WAIT_CNT, .CMD_FLAGS_CNT_OVF]
  | .commandDispatch .. =>
    dbkFlds ++ engineFlds ++ [.FLOAT_PAGES, .STALLED, .CHARGE, .DEVLOAD, .RETX_RECORDS, .RETX_FULL]
  | .ringDmaError .. =>
    dbkFlds ++ engineFlds ++ storeFlds ++ moveFlds ++ lineFlds ++ answerFlds ++ hostFlds ++ [.QP_ERR, .INFLIGHT]
  | .read .. | .seal .. => dbkFlds ++ alertFlds ++ engineFlds ++ moveFlds ++ ladderFlds ++ [.MR_PEAK]
  | .write .. | .copy .. | .fill .. =>
    dbkFlds ++ alertFlds ++ engineFlds ++ storeFlds ++ moveFlds ++ ladderFlds ++ [.MR_PEAK, .RETX_FULL]
  | .writeAtomic .. =>
    dbkFlds ++ alertFlds ++ engineFlds ++ storeFlds ++ moveFlds ++ lineFlds ++ answerFlds ++ hostFlds ++ frameFlds
      ++ ladderFlds
  | .settle .. => dbkFlds ++ engineFlds ++ [.STALLED, .DEVLOAD, .RETX_RECORDS, .RETX_FULL]
  | .objCreate .. =>
    engineFlds ++ ledgerFlds ++ [.FLOAT_PAGES, .STALLED, .CHARGE, .SSN_ISSUED, .RETX_RECORDS, .RETX_FULL]
  | .objDelete .. =>
    dbkFlds ++ engineFlds ++ storeFlds ++ lineFlds ++ answerFlds ++ frameFlds ++ ledgerFlds ++ [.STALLED,
      .MOVES_USED, .DF_ACTIVE, .STREAMS_ACTIVE, .STREAMS, .RETX_FULL]
  | .objResize .. =>
    dbkFlds ++ engineFlds ++ storeFlds ++ lineFlds ++ answerFlds ++ frameFlds ++ [.VAULT_FREE_MIB, .VAULT_CAP_MIB,
      .STALLED, .RESERVED_TP, .OBJ_COUNT, .MAP_USED, .MOVES_USED, .DF_ACTIVE, .STREAMS_ACTIVE, .STREAMS,
      .REHOME_LEFT, .RETX_FULL]
  | .objAttr .. =>
    engineFlds ++ ledgerFlds ++ [.FLOAT_PAGES, .STALLED, .CHARGE, .MOVES_USED, .DF_ACTIVE, .STREAMS_ACTIVE,
      .STREAMS, .SSN_ISSUED, .RETX_RECORDS, .RETX_FULL]
  | .windowMap .. | .windowUnmap .. =>
    engineFlds ++ [.FLOAT_PAGES, .STALLED, .CHARGE, .SSN_ISSUED, .RETX_RECORDS, .RETX_FULL]
  | .place .. =>
    engineFlds ++ [.FLOAT_PAGES, .STALLED, .CHARGE, .MOVES_USED, .DF_ACTIVE, .OVER_CEIL, .TALLY, .STREAMS_ACTIVE,
      .STREAMS, .SSN_ISSUED, .RETX_RECORDS, .RETX_FULL]
  | .hold .. =>
    engineFlds ++ [.FLOAT_PAGES, .STALLED, .CHARGE, .MOVES_USED, .DF_ACTIVE, .STREAMS_ACTIVE, .STREAMS,
      .SSN_ISSUED, .RETX_RECORDS, .RETX_FULL]
  | .release .. =>
    engineFlds ++ [.FLOAT_PAGES, .STALLED, .CHARGE, .OVER_CEIL, .TALLY, .SSN_ISSUED, .RETX_RECORDS, .RETX_FULL]
  | .streamPost .. => engineFlds ++ [.STALLED, .STREAMS_ACTIVE, .STREAMS]
  | .streamCancel .. => engineFlds ++ [.STALLED, .MOVES_USED, .DF_ACTIVE, .STREAMS_ACTIVE, .STREAMS]
  | .unseal .. =>
    dbkFlds ++ alertFlds ++ engineFlds ++ storeFlds ++ moveFlds ++ frameFlds ++ ladderFlds ++ [.MR_PEAK,
      .RETX_FULL, .GCM_FAIL_CNT, .CIP_FLAGS_CNT_OVF]
  | .logRead .. | .nop .. => engineFlds ++ [.STALLED]
  | .floatChargeAdmitted =>
    dbkFlds ++ alertFlds ++ storeFlds ++ moveFlds ++ lineFlds ++ answerFlds ++ hostFlds ++ frameFlds ++ ledgerFlds
      ++ mirFlds ++ [.DC_EXTENTS, .PARTNER_UID, .SENIOR, .MIR_STATUS_LINK_UP, .ID_FAIL, .UNMATCHED, .TOOK_OVER,
      .TWIN_APPLIED, .SPLIT_SEEN]
  | .stall .. => dbkFlds ++ alertFlds ++ [.STALL_CNT, .STALL_OVF, .STALLED]
  | .floorComparatorArmed => [.ARMED]
  | .holdupFloorCrossing | .sysRstNAssert | .drainNow =>
    dbkFlds ++ drainFlds ++ frameFlds ++ [.FLOAT_PAGES, .CHARGE, .MOVES_USED, .DF_ACTIVE]
  | .holdupPmbusPoll .. => dbkFlds ++ alertFlds ++ [.ARMED, .HOLDUP_SNS_FAULT, .PMBUS_MV, .SNS_OPEN]
  | .snsOpen .. => dbkFlds ++ alertFlds ++ [.ARMED, .HOLDUP_SNS_FAULT, .SNS_OPEN]
  | .snsNeg .. => dbkFlds ++ alertFlds ++ [.ARMED, .HOLDUP_REVERSED, .SNS_NEG]
  | .holdupInvertWrite .. => dbkFlds ++ [.HOLDUP_INVERT, .HOLDUP_REVERSED]
  | .ccalNow .. => dbkFlds ++ [.CCAL_BUSY]
  | .ccalInterval .. | .ccalAbandon => [.CCAL_BUSY]
  | .ccalRecharged => dbkFlds ++ [.CAL_REJECT, .CCAL_BUSY, .HOLDUP_CAP_MEAS_MF]
  | .rehearsalDone .. => [.RATE_VALID, .DRAIN_RATE_CAL, .DRAIN_RATE_LAST]
  | .measClr => dbkFlds ++ [.DRAIN_POWER_MEAS_W]
  | .pfailNFall => restartFlds ++ (railDownFlds ++ [.SEQ_STATE, .UP_STEP_NOW, .PFAIL_IN, .HEAD_SEQ])
  | .pfailNRise => [.PFAIL_IN]
  | .sysRstNDeassert => restartFlds ++ (railFields ++ railUpFlds ++ [.FW_SVN, .HEAD_SEQ])
  | .drainWritebackDone => [.RQ_USED, .WQ_USED]
  | .drainFloatDone .. => dbkFlds ++ alertFlds ++ ladderFlds
  | .drainMetadataDone .. | .vaultSealWritten =>
    restartFlds ++ (railFields ++ railUpFlds ++ railDownFlds ++ [.HEAD_SEQ])
  | .demandFetchDone .. =>
    dbkFlds ++ alertFlds ++ engineFlds ++ storeFlds ++ moveFlds ++ lineFlds ++ answerFlds ++ hostFlds ++ frameFlds
      ++ ledgerFlds ++ [.DF_MAX_US, .MISS_DL_CNT, .STRIPE_LOSS, .RETRY_CNT, .REBUILT_CNT, .NFC_CH_FLAGS_CNT_OVF,
      .STATE, .RESYNC_BUSY, .FULL_RESYNC, .UNMATCHED, .TWIN_APPLIED, .SOLO_CNT, .MIR_FLAGS_CNT_OVF, .CTX_ONCHIP,
      .PARK_PKTS, .PARK_BYTES, .RAE_STATUS_PINNED, .RAE_FLAGS_CNT_OVF, .CTX_ERR, .SEQ_NAK_CNT]
  | .zeroFillDone .. =>
    dbkFlds ++ alertFlds ++ storeFlds ++ moveFlds ++ lineFlds ++ answerFlds ++ hostFlds ++ frameFlds ++ ledgerFlds
      ++ [.DF_MAX_US, .MISS_DL_CNT, .STRIPE_LOSS, .STATE, .RESYNC_BUSY, .FULL_RESYNC, .UNMATCHED, .TWIN_APPLIED,
      .SOLO_CNT, .MIR_FLAGS_CNT_OVF]
  | .overBound .. => dbkFlds ++ [.OVER_BOUND]
  | .t3FetchFail .. =>
    dbkFlds ++ engineFlds ++ storeFlds ++ lineFlds ++ answerFlds ++ frameFlds ++ [.STALLED, .MOVES_USED,
      .DF_ACTIVE, .STREAMS_ACTIVE, .STREAMS, .RETX_FULL, .CTX_ONCHIP, .PARK_PKTS, .PARK_BYTES, .RAE_STATUS_PINNED,
      .RAE_FLAGS_CNT_OVF, .CTX_ERR, .SEQ_NAK_CNT]
  | .poolDry => dbkFlds ++ alertFlds ++ [.POOL_DRY, .POOL_DRY_CNT, .TPE_FLAGS_CNT_OVF]
  | .runCompactionStep => [.FLOAT_PAGES, .CHARGE]
  | .moveBegin .. =>
    dbkFlds ++ [.FREE_FRAMES, .MOVES_USED, .DF_ACTIVE, .EVICT_CNT, .TPE_FLAGS_CNT_OVF, .OVER_CEIL, .TALLY,
      .STREAMS_ACTIVE, .REFILL_LEFT, .REFILL_DONE, .CEIL_CNCL_CNT, .TPE_DOM_STRM2_CNT_OVF, .STREAMS]
  | .moveLoadDone .. =>
    dbkFlds ++ engineFlds ++ storeFlds ++ lineFlds ++ answerFlds ++ frameFlds ++ [.STALLED, .MOVES_USED,
      .DF_ACTIVE, .STREAMS_ACTIVE, .STREAMS, .STRIPE_LOSS, .RETRY_CNT, .REBUILT_CNT, .NFC_CH_FLAGS_CNT_OVF,
      .RETX_FULL, .CTX_ONCHIP, .PARK_PKTS, .PARK_BYTES, .RAE_STATUS_PINNED, .RAE_FLAGS_CNT_OVF, .CTX_ERR,
      .SEQ_NAK_CNT]
  | .moveInstallDone .. =>
    dbkFlds ++ alertFlds ++ storeFlds ++ moveFlds ++ lineFlds ++ answerFlds ++ hostFlds ++ frameFlds ++ ledgerFlds
      ++ [.MISS_DL_CNT, .STATE, .RESYNC_BUSY, .FULL_RESYNC, .UNMATCHED, .TWIN_APPLIED, .SOLO_CNT,
      .MIR_FLAGS_CNT_OVF]
  | .moveCleanDone .. =>
    dbkFlds ++ alertFlds ++ storeFlds ++ moveFlds ++ lineFlds ++ answerFlds ++ hostFlds ++ frameFlds ++ ladderFlds
      ++ ledgerFlds ++ [.STATE, .RESYNC_BUSY, .FULL_RESYNC, .UNMATCHED, .TWIN_APPLIED, .SOLO_CNT,
      .MIR_FLAGS_CNT_OVF]
  | .moveUnloadDone .. =>
    dbkFlds ++ alertFlds ++ storeFlds ++ moveFlds ++ lineFlds ++ answerFlds ++ hostFlds ++ frameFlds ++ ledgerFlds
      ++ [.STATE, .RESYNC_BUSY, .FULL_RESYNC, .UNMATCHED, .TWIN_APPLIED, .SOLO_CNT, .MIR_FLAGS_CNT_OVF]
  | .streamEntryStart .. => [.MOVES_USED, .DF_ACTIVE, .STREAMS_ACTIVE, .STREAMS]
  | .missEvictQueued .. =>
    dbkFlds ++ alertFlds ++ fatalFlds ++ drainFlds ++ storeFlds ++ lineFlds ++ answerFlds ++ frameFlds ++
      [.MOVES_USED, .DF_ACTIVE, .SLICE_BUSY, .TAG_FATAL, .WAY_DIS, .FCH_SL_ERR_CE_CNT, .FCH_SL_ERR_UE_CNT,
      .RETX_FULL, .CLUSTER_ACTIVE, .CLUSTER_FAULT, .PARITY_CNT, .CIP_FLAGS_CNT_OVF]
  | .missFillReturn .. =>
    dbkFlds ++ alertFlds ++ fatalFlds ++ drainFlds ++ storeFlds ++ moveFlds ++ lineFlds ++ answerFlds ++ hostFlds
      ++ frameFlds ++ [.DC_EXTENTS, .SLICE_BUSY, .TAG_FATAL, .WAY_DIS, .FCH_SL_ERR_CE_CNT, .FCH_SL_ERR_UE_CNT,
      .META_FATAL, .FLIP_READS, .FLIP_ARM, .INT_CH_ERR_CE_CNT, .INT_CH_ERR_UE_CNT, .REBUILD_CNT, .TWIN_CNT,
      .POISON_CNT, .MARK_VALID, .MARK_DEV, .INT_CH_FLAGS_CNT_OVF, .CLUSTER_ACTIVE, .CLUSTER_FAULT, .PARITY_CNT,
      .CIP_FLAGS_CNT_OVF]
  | .pgReqWrite .. => dbkFlds ++ [.PG_ERR, .PG_REQ, .PG_STATE, .PG_BUSY, .INV_DONE]
  | .wayGroupCleanDone .. => [.PG_STATE, .PG_BUSY]
  | .grpInv .. => dbkFlds ++ [.PG_ERR, .INV_DONE]
  | .sliceDisReq .. => dbkFlds ++ [.SLICE_BUSY, .PG_ERR]
  | .sliceFlushDone .. =>
    dbkFlds ++ storeFlds ++ moveFlds ++ lineFlds ++ answerFlds ++ hostFlds ++ [.DRAIN_FIXED_US, .SLICE_EN,
      .SLICE_BUSY]
  | .lockEntryWrite .. => dbkFlds ++ [.LOCK_ERR, .OBJ_ID, .WAYS, .LOCK_EN, .TP_FIRST, .TP_LAST]
  | .fchSlStateWrite .. => dbkFlds ++ [.MR_PEAK]
  | .prtBenchWrite .. => dbkFlds ++ [.BENCH_PEAK]
  | .cmdStatusWrite => dbkFlds ++ [.LOCK_PEAK]
  | .tpeCnt2Write => dbkFlds ++ [.DF_MAX_US]
  | .refreshDue .. => [.REF_DEBT]
  | .forcedRefresh .. => dbkFlds ++ [.REF_DEBT, .REF_FORCED_CNT, .DRC_CH_FLAGS_CNT_OVF]
  | .neighbourRefresh .. => dbkFlds ++ [.NR_CNT, .DRC_CH_FLAGS_CNT_OVF]
  | .dimmThermalPoll .. => dbkFlds ++ alertFlds ++ [.HOT, .DIMM_TEMP_C, .HOT_ALERT]
  | .trainingDone .. =>
    dbkFlds ++ alertFlds ++ ledgerFlds ++ mediaFlds ++ [.RATE_VALID, .DRAIN_RATE_CAL, .DRAIN_RATE_LAST,
      .HOLDUP_CAP_MEAS_MF, .DRAIN_POWER_MEAS_W, .STALLED, .DEVLOAD, .DC_EXTENTS, .POOL_FRAMES, .FREE_FRAMES,
      .FLOOR_SCALED, .CAP_TP, .FLOOR_CLAMP, .FLOOR_EFF, .REFILL_DONE, .CH_ACTIVE, .TRAIN_DONE, .DATA_MTS,
      .DIMM_TYPE, .RANKS, .CH_CAP_GIB, .DRFM_AVAIL, .RD_CENTRE, .RD_OFS, .WR_CENTRE, .WR_OFS, .VREF_RD,
      .EYE_STEPS, .CAP_SHORT, .TOGGLE, .MTS, .DIES, .FREE_BLK, .BAD_BLK, .PE_AVG, .PE_MAX, .PE_RATED, .WEAR_PM,
      .REBUILD_LEFT, .PRESENT, .ID_STATE, .REFUSE_CAUSE, .CARRIER_UID, .SETTLE_SEQ, .REPAIR_FAIL, .PARTNER_UID,
      .STATE, .SENIOR, .TOOK_OVER, .SSN_ISSUED, .SSN_ACKED, .TWIN_APPLIED, .SOLO_PAGES, .SOLO_CNT,
      .MIR_FLAGS_CNT_OVF, .TL_STATE_KEK_SET, .CLUSTER_ACTIVE, .CLUSTER_FAULT, .SEC_DKEK_SET_KEK_SET, .OWNER, .ANY,
      .MODE, .DOWN_STEP_NOW, .RAIL_EN_OUT, .REACTION, .RES_USED, .RES, .FAIL_CNT, .BST_FLAGS_CNT_OVF, .RES_OVF,
      .PATH]
  | .readEyeWindow .. => dbkFlds ++ [.RD_ADJ_CNT, .DRC_CH_FLAGS_CNT_OVF, .LIMIT_HIT, .RD_OFS, .RETRAIN_BUSY]
  | .writeTrackingSlice .. => dbkFlds ++ [.WR_ADJ_CNT, .DRC_CH_FLAGS_CNT_OVF, .LIMIT_HIT, .WR_OFS, .RETRAIN_BUSY]
  | .retrain .. => dbkFlds ++ [.RETRAIN_BUSY]
  | .caParityAlert .. =>
    dbkFlds ++ fatalFlds ++ drainFlds ++ frameFlds ++ [.FLOAT_PAGES, .CHARGE, .MOVES_USED, .DF_ACTIVE, .CH_FAIL,
      .CA_PAR_CNT, .DRC_CH_FLAGS_CNT_OVF, .ALERT_OUT, .INT_TGT_ERR]
  | .stripeSettleStart .. => dbkFlds ++ alertFlds ++ ladderFlds ++ [.FREE_BLK, .SETTLES_ACTIVE, .SETTLE_SEQ]
  | .stripeSettleDone .. =>
    dbkFlds ++ storeFlds ++ moveFlds ++ lineFlds ++ answerFlds ++ hostFlds ++ [.VAULT_FREE_MIB, .VAULT_CAP_MIB,
      .REBUILD_LEFT, .SETTLES_ACTIVE, .REHOME_LEFT, .SETTLE_CNT, .REDIRTY_CNT, .STL_FLAGS_CNT_OVF, .RECODE_LEFT]
  | .nandProgramFail .. => dbkFlds ++ [.BAD_BLK, .PROG_FAIL_CNT, .NFC_CH_FLAGS_CNT_OVF, .SETTLES_ACTIVE]
  | .nandEraseFail .. => dbkFlds ++ [.BAD_BLK, .ERASE_FAIL_CNT, .NFC_CH_FLAGS_CNT_OVF]
  | .rehome .. =>
    dbkFlds ++ alertFlds ++ ladderFlds ++ [.VAULT_FREE_MIB, .VAULT_CAP_MIB, .REBUILD_LEFT, .SETTLES_ACTIVE,
      .REHOME_LEFT, .SETTLE_SEQ]
  | .garbageCollection .. => dbkFlds ++ alertFlds ++ [.FREE_BLK, .PE_AVG, .PE_MAX, .WEAR_PM, .WEAR_WARN, .SETTLE_SEQ]
  | .channelRetire .. => dbkFlds ++ alertFlds ++ mediaFlds
  | .retire .. => dbkFlds ++ alertFlds ++ mediaFlds ++ [.RETIRE_REFUSED]
  | .retireSlot .. => dbkFlds ++ alertFlds ++ mediaFlds ++ [.RETIRE_REFUSED, .SETTLES_ACTIVE]
  | .slotPwrWrite .. => dbkFlds ++ [.PWR_ON, .SLOT_PWR]
  | .carrierPresent .. => dbkFlds ++ [.PRESENT, .ID_STATE, .REFUSE_CAUSE, .CARRIER_UID]
  | .adopt .. =>
    dbkFlds ++ mediaFlds ++ [.CAP_TP, .CAP_SHORT, .TOGGLE, .MTS, .DIES, .FREE_BLK, .BAD_BLK, .PE_AVG, .PE_MAX,
      .PE_RATED, .WEAR_PM, .REBUILD_LEFT, .ID_STATE, .REFUSE_CAUSE, .PWR_ON, .SLOT_PWR]
  | .rebuildDone .. => dbkFlds ++ mediaFlds
  | .ladderHomeReadDone .. =>
    dbkFlds ++ storeFlds ++ lineFlds ++ answerFlds ++ [.STRIPE_LOSS, .RETRY_CNT, .REBUILT_CNT,
      .NFC_CH_FLAGS_CNT_OVF, .HOME_CNT, .TWIN_CNT, .POISON_CNT, .INT_CH_FLAGS_CNT_OVF, .RETX_FULL]
  | .ladderDeadline .. =>
    dbkFlds ++ storeFlds ++ lineFlds ++ answerFlds ++ [.POISON_CNT, .INT_CH_FLAGS_CNT_OVF, .RETX_FULL]
  | .verifyRead .. =>
    dbkFlds ++ alertFlds ++ [.RETIRE_PEND, .FLIP_READS, .FLIP_ARM, .REMAP_FULL, .REMAP_USED, .VALID, .LA,
      .INT_REMAP_DEVICE, .SPPR_PEND]
  | .recodeWrite => [.RECODE_LEFT]
  | .flipArmWrite .. => dbkFlds ++ [.FLIP_OBJ, .FLIP_READS, .FLIP_ARM]
  | .mirrorPhyUp .. =>
    dbkFlds ++ storeFlds ++ moveFlds ++ lineFlds ++ answerFlds ++ hostFlds ++ [.STATE, .SOLO_CNT,
      .MIR_FLAGS_CNT_OVF, .PHY_UP, .MIRROR]
  | .mirrorPortPhyDown .. =>
    dbkFlds ++ storeFlds ++ moveFlds ++ lineFlds ++ answerFlds ++ hostFlds ++ frameFlds ++ mirFlds ++
      [.MIR_STATUS_LINK_UP, .RETX_CNT, .LINK_LOSS_CNT, .PHY_UP]
  | .mirrorSpdm .. =>
    dbkFlds ++ alertFlds ++ storeFlds ++ moveFlds ++ lineFlds ++ answerFlds ++ hostFlds ++ mirFlds ++
      [.PARTNER_UID, .SENIOR, .MIR_STATUS_LINK_UP, .ID_FAIL, .TOOK_OVER, .TWIN_APPLIED, .SPLIT_SEEN]
  | .partnerEndedBringUp =>
    dbkFlds ++ alertFlds ++ storeFlds ++ moveFlds ++ lineFlds ++ answerFlds ++ hostFlds ++ [.STATE, .ID_FAIL,
      .SOLO_CNT, .MIR_FLAGS_CNT_OVF]
  | .record .. =>
    dbkFlds ++ alertFlds ++ storeFlds ++ moveFlds ++ lineFlds ++ answerFlds ++ hostFlds ++ frameFlds ++ ledgerFlds
      ++ mirFlds ++ [.MIR_STATUS_LINK_UP, .UNMATCHED, .TWIN_APPLIED, .TAG_FAIL_CNT, .DUP_CNT, .LINK_LOSS_CNT,
      .PHY_UP, .GCM_FAIL_CNT, .CIP_FLAGS_CNT_OVF]
  | .ack .. =>
    dbkFlds ++ storeFlds ++ moveFlds ++ lineFlds ++ answerFlds ++ hostFlds ++ mirFlds ++ [.UNMATCHED, .SSN_ACKED]
  | .nak .. | .retxTimeout .. => dbkFlds ++ [.RETX_CNT, .MIR_FLAGS_CNT_OVF]
  | .mirrorLinkLost | .linkRestart =>
    dbkFlds ++ storeFlds ++ moveFlds ++ lineFlds ++ answerFlds ++ hostFlds ++ frameFlds ++ mirFlds ++
      [.MIR_STATUS_LINK_UP, .LINK_LOSS_CNT, .PHY_UP]
  | .drain .. =>
    dbkFlds ++ storeFlds ++ moveFlds ++ lineFlds ++ answerFlds ++ hostFlds ++ frameFlds ++ mirFlds ++
      [.MIR_STATUS_LINK_UP, .LINK_LOSS_CNT, .PHY_UP, .GCM_FAIL_CNT, .CIP_FLAGS_CNT_OVF]
  | .fetchReq .. => dbkFlds ++ [.FETCH_CNT, .MIR_FLAGS_CNT_OVF]
  | .fetchRsp .. =>
    dbkFlds ++ storeFlds ++ lineFlds ++ answerFlds ++ [.TWIN_CNT, .POISON_CNT, .INT_CH_FLAGS_CNT_OVF, .RETX_FULL]
  | .noRoom .. => dbkFlds ++ [.STALLED, .DEVLOAD, .UNMATCHED]
  | .heartbeatLost | .heartbeatRestored =>
    dbkFlds ++ storeFlds ++ moveFlds ++ lineFlds ++ answerFlds ++ hostFlds ++ [.STATE, .HB_ALIVE, .SOLO_CNT,
      .MIR_FLAGS_CNT_OVF]
  | .twinGrantChange .. =>
    dbkFlds ++ storeFlds ++ moveFlds ++ lineFlds ++ answerFlds ++ hostFlds ++ [.STATE, .GRANT, .SOLO_CNT,
      .MIR_FLAGS_CNT_OVF]
  | .takeover => dbkFlds ++ [.FLOAT_PAGES, .CHARGE, .TOOK_OVER]
  | .retryMatch => dbkFlds ++ [.FLOAT_PAGES, .CHARGE, .RESYNC_BUSY, .SSN_ISSUED, .RETX_RECORDS, .RETX_FULL]
  | .rdmaWrite .. | .rdmaSend .. | .rdmaReadRequest .. | .cmpswap .. | .fetchadd .. =>
    dbkFlds ++ alertFlds ++ storeFlds ++ moveFlds ++ ladderFlds ++ packetFlds ++ ctxFlds ++ [.DEVLOAD, .MR_PEAK,
      .RETX_FULL, .PARK_FULL, .PARK_DROP_CNT, .RX_DROP_CNT]
  | .acknowledge .. | .rdmaReadResponse .. | .settleAck .. | .rnrTimerExpiry .. | .contextFetchDone ..
  | .raeTrig .. =>
    dbkFlds ++ alertFlds ++ storeFlds ++ moveFlds ++ ladderFlds ++ packetFlds ++ ctxFlds ++ [.DEVLOAD, .MR_PEAK,
      .RETX_FULL, .PARK_FULL, .PARK_DROP_CNT]
  | .rdmaNak .. =>
    dbkFlds ++ alertFlds ++ storeFlds ++ moveFlds ++ ladderFlds ++ packetFlds ++ ctxFlds ++ [.DEVLOAD, .MR_PEAK,
      .RETX_FULL, .PARK_FULL, .PARK_DROP_CNT, .RETRY_EXC_CNT]
  | .cnp .. => dbkFlds ++ [.RAE_FLAGS_CNT_OVF, .CNP_RX_CNT]
  | .rdmaRetryTimeout .. =>
    dbkFlds ++ alertFlds ++ storeFlds ++ moveFlds ++ ladderFlds ++ packetFlds ++ ctxFlds ++ [.DEVLOAD, .MR_PEAK,
      .RETX_FULL, .PARK_FULL, .PARK_DROP_CNT, .RAE_RETX_CNT, .RETRY_EXC_CNT]
  | .raePortDown .. | .networkPortPhyUp .. => [.PHY_UP]
  | .ctxCreate .. | .ctxModify .. | .ctxReset .. | .ctxDestroy .. | .keyCreate .. | .keyDestroy .. =>
    dbkFlds ++ alertFlds ++ storeFlds ++ moveFlds ++ ladderFlds ++ packetFlds ++ ctxFlds ++ [.DEVLOAD, .MR_PEAK,
      .RETX_FULL, .INDEX, .TARGET, .RAE_CMD_RESULT, .PARK_FULL, .PARK_DROP_CNT]
  | .ctxQuery .. | .keyQuery .. =>
    dbkFlds ++ alertFlds ++ storeFlds ++ moveFlds ++ ladderFlds ++ packetFlds ++ ctxFlds ++ [.DEVLOAD, .MR_PEAK,
      .RETX_FULL, .INDEX, .TARGET, .RAE_CMD_RESULT, .RAE_CTX_DATA_DATA, .PARK_FULL, .PARK_DROP_CNT]
  | .clusterFenceWrite .. => dbkFlds ++ [.CLUSTER_FENCE, .CLUSTER_ACTIVE, .FENCE_ERR]
  | .trngHealthTest .. => dbkFlds ++ alertFlds ++ [.TRNG_FAIL]
  | .loadXts .. | .loadGcm .. => dbkFlds ++ [.SLOT, .TL_CMD_RESULT, .GCM_FAIL_CNT, .CIP_FLAGS_CNT_OVF, .MODE]
  | .zeroize .. => dbkFlds ++ [.SLOT, .TL_CMD_RESULT, .MODE]
  | .query .. => dbkFlds ++ [.SLOT, .TL_CMD_RESULT, .Q_MODE, .Q_REFS]
  | .svnCommit => dbkFlds ++ [.SVN_FUSE]
  | .keyExchange .. => [.SESSIONS]
  | .setDomainKek .. | .clearDomainKek .. => [.TL_STATE_KEK_SET, .SEC_DKEK_SET_KEK_SET]
  | .writeRecoveryImage .. => dbkFlds ++ alertFlds ++ [.BOOT_DEV, .FW_DEV, .FW_SVN, .ROOT_KEY]
  | .pwrReqAssert .. => dbkFlds ++ railFields ++ railUpFlds ++ [.PWR_REQ_IN]
  | .pwrReqDeassert => restartFlds ++ (railDownFlds ++ [.SEQ_STATE, .UP_STEP_NOW, .PWR_REQ_IN, .HEAD_SEQ])
  | .railGood .. => [.SEQ_STATE, .UP_STEP_NOW, .WHISTLE_OUT, .RAIL_EN_OUT, .RAIL_RETRYING, .CHATTER_NOW]
  | .railPgFall .. =>
    restartFlds ++ (railDownFlds ++ [.SEQ_STATE, .UP_STEP_NOW, .FF_VALID, .RAIL_FAILED, .FAULT_CNT, .CHATTER_CNT,
      .PWR_FLAGS_CNT_OVF, .FF, .ATTEMPTS, .CHATTER_NOW, .LAST_CAUSE, .HEAD_SEQ])
  | .rampTimeout .. =>
    restartFlds ++ (railDownFlds ++ [.SEQ_STATE, .UP_STEP_NOW, .FF_VALID, .RAIL_FAILED, .FAULT_CNT,
      .PWR_FLAGS_CNT_OVF, .FF, .ATTEMPTS, .CHATTER_NOW, .LAST_CAUSE, .HEAD_SEQ])
  | .pmbusPoll .. =>
    restartFlds ++ (railDownFlds ++ [.SEQ_STATE, .UP_STEP_NOW, .FF_VALID, .PMBUS_ERR, .RAIL_FAILED, .FAULT_CNT,
      .PWR_FLAGS_CNT_OVF, .FF, .ATTEMPTS, .CHATTER_NOW, .LAST_CAUSE, .HEAD_SEQ])
  | .railRetry .. => [.RAIL_EN_OUT, .ATTEMPTS, .CHATTER_NOW]
  | .upStepDelay => [.SEQ_STATE, .UP_STEP_NOW, .WHISTLE_OUT, .RAIL_EN_OUT, .CHATTER_NOW]
  | .corePhaseEnd .. =>
    dbkFlds ++ alertFlds ++ [.BOOT_DEV, .FW_DEV, .FW_SVN, .ROOT_KEY, .SEQ_STATE, .POWER_CYCLES, .SPI_A_FAIL,
      .SPI_B_FAIL, .SPI_A_BAD, .SPI_B_BAD, .BOOT_SPI, .SAFE]
  | .configWaitTimeout => dbkFlds ++ [.SEQ_STATE, .UP_STEP_NOW, .WHISTLE_OUT, .RAIL_EN_OUT, .CHATTER_NOW]
  | .downStepDelay => restartFlds ++ ([.SEQ_STATE, .UP_STEP_NOW, .DOWN_STEP_NOW, .RAIL_EN_OUT])
  | .minOffEnd => dbkFlds ++ railFields ++ railUpFlds
  | .whistleSync => [.SEQ_STATE, .UP_STEP_NOW, .WHISTLE_IN, .WHISTLE_OUT, .RAIL_EN_OUT, .CHATTER_NOW]
  | .whistleSyncTimeout | .dieOverTemperature =>
    restartFlds ++ (railDownFlds ++ [.SEQ_STATE, .UP_STEP_NOW, .FF_VALID, .FAULT_CNT, .PWR_FLAGS_CNT_OVF, .FF,
      .HEAD_SEQ])
  | .whistle =>
    restartFlds ++ (railDownFlds ++ [.SEQ_STATE, .UP_STEP_NOW, .FF_VALID, .FAULT_CNT, .WHISTLE_CNT,
      .PWR_FLAGS_CNT_OVF, .FF, .HEAD_SEQ])
  | .ffClr => dbkFlds ++ [.FF_VALID, .FF]
  | .domainSwitch .. | .domainPowerGood .. => [.DOM_ON]
  | .domainSwitchTimeout .. => dbkFlds ++ alertFlds ++ [.PWR_STATUS_DOM_FAIL, .DOM_ON, .PWR_DOM_FAIL_DOM_FAIL]
  | .daybookFlushDone .. => restartFlds ++ (railFields ++ railUpFlds ++ railDownFlds ++ [.HEAD_SEQ, .CKPT_TIME])
  | .daybookCheckpoint => [.CKPT_TIME]
  | .dramRow .. | .fchMarch .. | .cipKat .. => dbkFlds ++ [.BST_STATUS_BUSY, .TEST_NOW, .UNITS_LEFT, .REFUSED]
  | .abort => dbkFlds ++ [.BST_STATUS_BUSY, .TEST_NOW, .UNITS_LEFT]
  | .pop => dbkFlds ++ [.RES_USED, .RES]
  | .coreOffWrite .. => dbkFlds ++ [.CORE_OFF, .CORE_ON, .REFUSED]
  | .warmRst | .watchdogExpiry => dbkFlds ++ [.WARM_CAUSE, .WARM_CNT, .GLB_FLAGS_CNT_OVF]
  | .functionLevelReset .. =>
    dbkFlds ++ engineFlds ++ storeFlds ++ moveFlds ++ lineFlds ++ answerFlds ++ hostFlds ++ [.QP_EN, .RESET_BUSY,
      .INFLIGHT]
  | .abruptLoss .. => restartFlds ++ ([.SEQ_STATE, .UP_STEP_NOW, .DOWN_STEP_NOW, .RAIL_EN_OUT, .RAIL_RETRYING])
  | .resyncPageSend .. =>
    dbkFlds ++ storeFlds ++ moveFlds ++ lineFlds ++ answerFlds ++ hostFlds ++ mirFlds ++ [.UNMATCHED]
  | .rebuildStripe .. => [.REBUILD_LEFT]
  | .linkDown .. => [.PRT_LINK_STATUS_LINK_UP]
  | .registerRead .. => dbkFlds ++ [.ACC_ERR_CNT, .GLB_FLAGS_CNT_OVF]

/-- Every part but the queue and those listed. -/
def partsBut (l : List Part) : List Part :=
  [.glb, .dbk, .once, .md, .jr, .saved, .tpe, .dram, .fch, .stl, .nfc, .drc, .int, .prt, .cmd, .waits, .fences, .fgv,
   .drain, .mir, .rae, .sec, .pwr, .bst, .boot, .freeIdx, .out].filter fun p => !l.contains p

/-- The parts beside the registers that a command may change. -/
def touchedParts : Instr → List Part
  | .tickBoundary .. => partsBut [.saved, .boot]
  | .cxlMemRead .. | .missFillReturn .. => partsBut [.saved, .nfc, .sec, .pwr, .boot]
  | .cxlMemWrite .. | .settlePageStore .. | .snoopWriteBack .. | .birsp .. | .perstAssert .. | .qpReset ..
  | .commandComplete | .ringDmaError .. | .sliceFlushDone .. | .mirrorPhyUp .. | .ack .. | .heartbeatLost
  | .heartbeatRestored | .twinGrantChange .. | .mapBlockLoaded .. | .resyncPageSend .. =>
    [.dbk, .once, .md, .jr, .tpe, .dram, .fch, .stl, .drc, .prt, .cmd, .waits, .fences, .mir, .rae, .freeIdx,
      .out]
  | .settlePageTimeout .. => [.fences, .out]
  | .biTimeout .. | .partnerEndedBringUp | .functionLevelReset .. =>
    [.glb, .dbk, .once, .md, .jr, .tpe, .dram, .fch, .stl, .drc, .prt, .cmd, .waits, .fences, .mir, .rae,
      .freeIdx, .out]
  | .gpfPhase2 .. | .settle .. | .noRoom .. => [.dbk, .fch, .prt, .cmd, .fences, .mir, .rae, .out]
  | .gpfPhase2Timeout .. => [.dbk, .prt, .fences, .out]
  | .hdmDecoderCommit .. | .ideKmKeyProg .. | .perstRelease .. => [.prt]
  | .ideMacFail .. => [.dbk, .fch, .prt, .waits, .out]
  | .linkUp .. | .floorComparatorArmed | .pfailNRise | .refreshDue .. | .linkDown .. | .networkPortPhyUp .. => []
  | .linkRecoveryEntry .. | .pnRdyTimeout .. => [.dbk, .prt]
  | .linkRetrain .. => [.dbk, .once, .prt]
  | .portOfflineWrite .. => [.dbk, .once, .prt, .out]
  | .pnRdyRise .. => [.dbk, .tpe, .prt, .pwr, .boot, .out]
  | .identify .. | .getEventRecords .. | .getPoisonList .. | .getHealthInfo .. | .helloRepeat
  | .getMeasurements .. | .challenge .. | .getCertificate .. =>
    [.out]
  | .setTimestamp .. => [.prt, .out]
  | .initiateDynamicCapacityAdd .. => [.md, .jr, .stl, .drc, .prt, .out]
  | .dynamicCapacityRelease .. => [.md, .jr, .dram, .fch, .stl, .drc, .prt, .mir, .out]
  | .bindLdDomain .. | .slotPwrWrite .. => [.dbk, .once, .out]
  | .unbindCarrier .. => [.nfc, .out]
  | .registerAccess .. | .pfailNFall | .pwrReqDeassert | .railPgFall .. | .rampTimeout .. | .pmbusPoll ..
  | .whistleSyncTimeout | .whistle | .dieOverTemperature | .registerWrite .. =>
    partsBut []
  | .sqTailDoorbell .. | .cqHeadDoorbell .. | .holdupInvertWrite .. | .measClr | .pgReqWrite .. | .grpInv ..
  | .sliceDisReq .. | .lockEntryWrite .. | .fchSlStateWrite .. | .prtBenchWrite .. | .cmdStatusWrite
  | .tpeCnt2Write | .clusterFenceWrite .. | .svnCommit | .flushNow | .coreOffWrite .. | .wdogKick =>
    [.dbk, .once]
  | .qpEnWrite .. => [.dbk, .once, .cmd]
  | .queueResetCut .. => [.dbk, .tpe, .dram, .stl, .int, .cmd, .waits, .fences]
  | .sqeFetch .. => [.dbk, .jr, .cmd, .out]
  | .commandDispatch .. => [.dbk, .jr, .fch, .stl, .prt, .cmd, .waits, .fences, .mir, .rae, .sec, .freeIdx, .out]
  | .coalesceTimeout .. => [.cmd, .out]
  | .read .. | .seal .. => [.glb, .dbk, .md, .tpe, .dram, .fch, .drc, .int, .prt, .cmd, .waits, .freeIdx, .out]
  | .write .. | .copy .. | .fill .. | .unseal .. =>
    [.glb, .dbk, .md, .jr, .tpe, .dram, .fch, .stl, .drc, .int, .prt, .cmd, .waits, .mir, .freeIdx, .out]
  | .writeAtomic .. | .rdmaWrite .. | .rdmaSend .. | .rdmaReadRequest .. | .cmpswap .. | .fetchadd ..
  | .acknowledge .. | .rdmaNak .. | .rdmaReadResponse .. | .settleAck .. | .rdmaRetryTimeout ..
  | .rnrTimerExpiry .. | .contextFetchDone .. | .ctxCreate .. | .ctxModify .. | .ctxReset .. | .ctxDestroy ..
  | .ctxQuery .. | .keyDestroy .. | .keyQuery .. | .raeTrig .. =>
    [.glb, .dbk, .once, .md, .jr, .tpe, .dram, .fch, .stl, .drc, .int, .prt, .cmd, .waits, .fences, .mir, .rae,
      .freeIdx, .out]
  | .objCreate .. => [.md, .jr, .stl, .nfc, .drc, .cmd, .waits, .mir, .out]
  | .objDelete .. => [.dbk, .md, .jr, .tpe, .dram, .fch, .stl, .drc, .int, .cmd, .waits, .mir, .rae, .freeIdx, .out]
  | .objResize .. =>
    [.dbk, .md, .jr, .tpe, .dram, .fch, .stl, .nfc, .drc, .int, .cmd, .waits, .mir, .rae, .freeIdx, .out]
  | .objAttr .. | .place .. | .hold .. | .release .. => [.md, .jr, .tpe, .stl, .drc, .cmd, .waits, .mir, .out]
  | .windowMap .. => [.md, .jr, .stl, .drc, .cmd, .waits, .mir, .out]
  | .windowUnmap .. => [.md, .jr, .fch, .stl, .drc, .cmd, .waits, .mir, .out]
  | .streamPost .. | .streamCancel .. => [.tpe, .cmd, .waits]
  | .logRead .. => [.cmd, .waits, .out]
  | .nop .. => [.cmd, .waits]
  | .floatChargeAdmitted | .demandFetchDone .. | .zeroFillDone .. | .moveInstallDone .. | .moveCleanDone ..
  | .moveUnloadDone .. | .record .. =>
    [.glb, .dbk, .once, .md, .jr, .tpe, .dram, .fch, .stl, .nfc, .drc, .int, .prt, .cmd, .waits, .fences, .mir,
      .rae, .freeIdx, .out]
  | .stall .. => [.glb, .dbk, .waits, .fences, .fgv, .out]
  | .holdupFloorCrossing =>
    [.dbk, .md, .tpe, .dram, .fch, .stl, .drc, .int, .prt, .waits, .fences, .fgv, .drain, .mir, .bst, .freeIdx,
      .out]
  | .holdupPmbusPoll .. | .snsOpen .. => [.glb, .dbk, .fgv, .out]
  | .snsNeg .. | .poolDry | .trngHealthTest .. => [.glb, .dbk, .out]
  | .ccalNow .. => [.dbk, .once, .fgv, .out]
  | .ccalInterval .. | .ccalDischarged | .ccalAbandon => [.fgv, .out]
  | .ccalIoutPoll .. | .rehearsalDone .. => [.fgv]
  | .ccalRecharged => [.dbk, .fgv, .freeIdx]
  | .vcalNow => [.dbk, .once, .fgv]
  | .rehearsal => [.drc, .fgv]
  | .sysRstNAssert =>
    [.dbk, .md, .tpe, .dram, .fch, .stl, .drc, .int, .prt, .waits, .fences, .fgv, .drain, .mir, .sec, .pwr, .bst,
      .boot, .freeIdx, .out]
  | .sysRstNDeassert | .drainMetadataDone .. | .vaultSealWritten | .daybookFlushDone .. => partsBut [.freeIdx]
  | .drainNow =>
    [.dbk, .once, .md, .tpe, .dram, .fch, .stl, .drc, .int, .prt, .waits, .fences, .fgv, .drain, .mir, .bst,
      .freeIdx, .out]
  | .drainWritebackDone => [.dram, .fch, .drc, .drain]
  | .drainFloatDone .. => [.glb, .dbk, .dram, .nfc, .drc, .int, .prt, .drain, .freeIdx, .out]
  | .overBound .. | .forcedRefresh .. | .daybookCheckpoint => [.dbk]
  | .t3FetchFail .. | .moveLoadDone .. =>
    [.dbk, .once, .md, .jr, .tpe, .dram, .fch, .stl, .drc, .int, .cmd, .waits, .mir, .rae, .freeIdx, .out]
  | .residencyCheckpoint => [.tpe]
  | .runCompactionStep => [.md, .jr, .tpe, .stl, .drc]
  | .moveBegin .. => [.dbk, .md, .tpe, .fch, .cmd, .out]
  | .streamEntryStart .. => [.tpe, .cmd]
  | .missEvictQueued .. =>
    [.glb, .dbk, .md, .jr, .tpe, .dram, .fch, .stl, .drc, .int, .prt, .waits, .fences, .fgv, .drain, .mir, .bst,
      .freeIdx, .out]
  | .wayGroupCleanDone .. => [.dram, .fch, .drc]
  | .neighbourRefresh .. => [.dbk, .drc]
  | .dimmThermalPoll .. => [.glb, .dbk, .drc, .out]
  | .trainingDone .. =>
    [.glb, .dbk, .md, .jr, .saved, .tpe, .fch, .nfc, .drc, .int, .prt, .cmd, .fences, .fgv, .mir, .rae, .sec,
      .pwr, .bst, .boot, .out]
  | .readEyeWindow .. | .writeTrackingSlice .. => [.dbk, .drc, .freeIdx]
  | .retrain .. => [.dbk, .once, .drc]
  | .caParityAlert .. =>
    [.glb, .dbk, .md, .tpe, .dram, .fch, .stl, .drc, .int, .prt, .waits, .fences, .fgv, .drain, .mir, .bst,
      .freeIdx, .out]
  | .stripeSettleStart .. => [.glb, .dbk, .md, .dram, .fch, .stl, .drc, .int, .prt, .freeIdx, .out]
  | .stripeSettleDone .. =>
    [.dbk, .once, .md, .jr, .saved, .tpe, .dram, .fch, .stl, .nfc, .drc, .int, .prt, .cmd, .waits, .fences, .mir,
      .rae, .freeIdx, .out]
  | .nandProgramFail .. => [.dbk, .md, .stl, .nfc]
  | .nandEraseFail .. | .carrierPresent .. => [.dbk, .nfc]
  | .rehome .. => [.glb, .dbk, .md, .dram, .fch, .stl, .nfc, .drc, .int, .prt, .freeIdx, .out]
  | .garbageCollection .. => [.glb, .dbk, .stl, .out]
  | .channelRetire .. => [.glb, .dbk, .saved, .tpe, .nfc, .drc, .int, .fgv, .boot, .out]
  | .retire .. => [.glb, .dbk, .once, .saved, .tpe, .nfc, .drc, .int, .fgv, .boot, .out]
  | .retireSlot .. => [.glb, .dbk, .once, .md, .saved, .tpe, .stl, .nfc, .drc, .int, .fgv, .boot, .out]
  | .adopt .. => [.dbk, .once, .saved, .tpe, .nfc, .drc, .int, .fgv, .boot, .out]
  | .rebuildDone .. => [.dbk, .saved, .tpe, .nfc, .drc, .int, .fgv, .boot]
  | .ladderHomeReadDone .. | .ladderDeadline .. | .fetchRsp .. =>
    [.dbk, .md, .jr, .tpe, .dram, .fch, .stl, .drc, .int, .prt, .mir, .freeIdx, .out]
  | .verifyRead .. => [.glb, .dbk, .drc, .int, .out]
  | .recodeWrite => [.drc, .int]
  | .flipArmWrite .. => [.dbk, .once, .dram, .fch, .drc]
  | .mirrorPortPhyDown .. | .mirrorLinkLost | .drain .. | .linkRestart =>
    [.dbk, .once, .md, .jr, .tpe, .dram, .fch, .stl, .drc, .int, .prt, .cmd, .waits, .fences, .mir, .rae,
      .freeIdx, .out]
  | .hello .. | .phyHoldEnd => [.mir]
  | .mirrorSpdm .. =>
    [.glb, .dbk, .once, .md, .jr, .tpe, .dram, .fch, .stl, .nfc, .drc, .prt, .cmd, .waits, .fences, .mir, .rae,
      .freeIdx, .out]
  | .nak .. | .retxTimeout .. => [.dbk, .out]
  | .keepalive .. | .heartbeatToggle => [.mir, .out]
  | .fetchReq .. => [.dbk, .drc, .out]
  | .takeover => [.dbk, .once, .md, .jr, .tpe, .stl, .drc, .mir]
  | .retryMatch => [.dbk, .once, .md, .jr, .stl, .drc, .mir, .out]
  | .cnp .. => [.dbk, .rae]
  | .ccRecover .. | .raePortDown .. => [.rae]
  | .pfcFrame .. => [.rae, .out]
  | .keyCreate .. =>
    [.glb, .dbk, .once, .md, .jr, .tpe, .dram, .fch, .stl, .drc, .int, .prt, .cmd, .waits, .fences, .mir, .rae,
      .sec, .freeIdx, .out]
  | .drbgReseed => [.sec]
  | .loadXts .. | .loadGcm .. => [.dbk, .once, .sec, .freeIdx]
  | .zeroize .. | .query .. => [.dbk, .once, .sec]
  | .tlRandomRead .. | .keyExchange .. | .setDomainKek .. => [.sec, .freeIdx, .out]
  | .clearDomainKek .. => [.sec, .out]
  | .writeRecoveryImage .. => [.glb, .dbk, .sec, .boot, .out]
  | .writeConfiguration .. => [.boot, .out]
  | .serviceFirmwareStart .. => [.glb, .dbk, .fgv, .mir, .sec, .pwr, .bst, .boot, .out]
  | .pwrReqAssert .. | .configWaitTimeout | .minOffEnd => [.dbk, .pwr]
  | .railGood .. | .railRetry .. | .upStepDelay | .whistleSync | .domainSwitch .. | .domainPowerGood .. => [.pwr]
  | .corePhaseEnd .. => [.glb, .dbk, .sec, .pwr, .out]
  | .downStepDelay | .alwaysOnPowerUp .. | .abruptLoss .. => partsBut [.freeIdx, .out]
  | .ffClr => [.dbk, .once, .pwr]
  | .domainSwitchTimeout .. => [.glb, .dbk, .pwr, .out]
  | .dramRow .. | .fchMarch .. | .cipKat .. | .abort | .pop => [.dbk, .once, .bst]
  | .warmRst => [.dbk, .once, .mir, .out]
  | .watchdogExpiry => [.dbk, .mir, .out]
  | .carrierRemoved .. | .rebuildStripe .. => [.nfc]
  | .registerRead .. => [.glb, .dbk, .once, .sec, .freeIdx, .out]

/-! ### The words of the statements -/

/-- A host access at a DPA of an LD meets a page of an own object that is in DRAM, outside a drain: the LD serves the
address (R89, R95, R106), a window maps it (R171), the page is T1 and neither held back nor on its way out, and its
slice is in use. `la` is the line. -/
structure OnPage (s : State) (link ld dpa obj tp la : Nat) (w : Win) (o : Obj) : Prop where
  running : s.draining = false
  serves : s.ldServes link ld dpa = true
  notSettle : s.onSettlePage link ld dpa = false
  win : ∃ k, s.window? link ld (dpa / 65536) = some (k, w) ∧ tp = w.objPn + dpa / 65536 - k.2
  ids : w.obj = obj
  own : s.own? obj = some o
  bound : tp < o.pages
  free : s.pageHeld obj tp (o.mapBase + tp) = none
  here : (s.mapE (o.mapBase + tp)).st = .t1
  line : la = 1024 * (s.mapE (o.mapBase + tp)).frame + dpa / 64 % 1024
  stays : ∀ m ∈ s.tpe.moves, ¬(m.obj = obj ∧ m.tp = tp)
  slice : bit (s.rd .SLICE_BUSY) (s.sliceOf la) = false

/-- The front cache holds line la at way k as c. -/
def State.holds (s : State) (la : Nat) (k : Key) (c : CLine) : Prop :=
  s.cline? la = some (k, c) ∧ mget s.fch.lines k = some c

/-- No host but that of the link holds the line, and the snoop filter has room for it (R92, R236). -/
def State.alone (s : State) (link la : Nat) : Prop := s.others la (some link) = [] ∧ s.sfVictim la = none

/-- The status fields of a link that training and a reset of the port write (Table 04.3). -/
def linkFlds : List Fld :=
  [.PRT_LINK_STATUS_LINK_UP, .RATE, .WIDTH, .REVERSED, .FLIT256, .HDM_DB, .IDE_MEM, .IDE_IO, .POLARITY]

/-- The link fields of a port, with MEM_ACTIVE. -/
def portRegs (port : Nat) : List (Fld × Nat) :=
  (.MEM_ACTIVE, 2 * port) :: (.MEM_ACTIVE, 2 * port + 1) ::
    (linkFlds.map fun f => (f, 2 * port)) ++ linkFlds.map fun f => (f, 2 * port + 1)

/-- The registers that the end of a command of domain d may change: the engine's occupancy (R124, R135), and the
domain's stall (R74). -/
def cmdFlds (d : Nat) : List (Fld × Nat) :=
  [(.EXEC_USED, 0), (.WAIT_USED, 0), (.LOCK_USED, 0), (.LOCK_PEAK, 0), (.STALLED, d)]

/-- Command c has ended: it waits to be posted with a STATUS and its two results (R115). -/
def State.ended (t : State) (c : Cmd) (status r0 r1 : Nat) : Prop :=
  c.uid ∈ t.cmd.done ∧ ∃ x ∈ t.cmd.cmds, x.uid = c.uid ∧ x.words = c.words ∧ x.ph = .finished ∧ x.status = status ∧
    x.r0 = r0 ∧ x.r1 = r1

/-- No move of the object is queued or under way. -/
def State.still (s : State) (obj : Nat) : Prop := ∀ m ∈ s.tpe.moves, m.obj ≠ obj

/-- The range of length len at byte ofs of an own object lies in one line, whose page is T1 with no move and whose
value the front cache holds unpoisoned at way k. -/
structure OneLine (s : State) (obj ofs len : Nat) (o : Obj) (la : Nat) (k : Key) (cl : CLine) : Prop where
  own : s.own? obj = some o
  pos : 0 < len
  fits : ofs % 64 + len ≤ 64
  free : s.pageHeld obj (ofs / 65536) (o.mapBase + ofs / 65536) = none
  here : (s.mapE (o.mapBase + ofs / 65536)).st = .t1
  line : la = 1024 * (s.mapE (o.mapBase + ofs / 65536)).frame + ofs / 64 % 1024
  stays : ∀ m ∈ s.tpe.moves, ¬(m.obj = obj ∧ m.tp = ofs / 65536)
  cached : s.holds la k cl
  clean : cl.poison = false

/-- A store of domain d to that line goes through at once: no host copy, an unmirrored object, and float for it
(R47, R62). -/
structure Storable (s : State) (d : Nat) (obj ofs la : Nat) (o : Obj) (cl : CLine) : Prop where
  noCopy : s.others la none = []
  alone : o.mirror = false
  same : cl.obj = obj
  float : o.persist = true → s.canCharge d 1 = true

/-- The remote access engine has one context, ready and on chip, that holds nothing back: no packet, READ or message
waits, and no examination of its list is due. -/
structure SoleCtx (s : State) (x : Nat) (c : RCtx) : Prop where
  running : s.draining = false
  only : s.rae.ctxs = [((x, 0), c)]
  flush : s.rae.flush = []
  paused : s.rae.paused = []
  ready : c.err = false
  chip : c.chip = true
  here : c.fetching = false
  reads : c.reads = []
  blocked : c.blocked = none
  parked : c.parked = []
  fins : c.fins = []
  placed : c.placed = []
  msgs : c.msgs = []
  quiet : c.exam = false
  noRnr : c.rnr = false
  noGap : c.gap = false
  noGone : c.gone = []
  noWait : (s.waits.any fun w => match w.ent with | .rdma _ _ => true | _ => false) = false

/-- A packet reaches the context in order, with no mark of congestion and no SETTLE or FIN (R349, R357). -/
structure Arrives (s : State) (x : Nat) (c : RCtx) (p : Pkt) : Prop where
  addr : s.addrOk p = true
  index : x < 65536
  qpn : p.qpn = 0x10000 + x
  psn : p.psn = c.epsn
  low : c.epsn < 2 ^ 24
  notCe : p.ce = false
  noSettle : p.settle = false
  noFin : p.fin = false
  noBad : p.bad = []

end Sys2Proof.Machine
end

