-- ==== Sys2Proof/Certificates/Slice0/Obligations.lean ====
section
/-! DEFINITION. The statements for the provers. Each is about every state and operand that meets its premises; what a
command leaves unchanged beyond what its statement says, CommandsStayInTheirFootprints says. -/

open Sys2Proof Machine

/-- A step runs the front command. A step with a command at the front of the queue runs that command on the state with the
queue's rest. On an empty queue the block idles, which is the model's choice (log entry 1). From 01_architecture.md. -/
def Obligations.StepRunsFront : Prop :=
  (∀ (c : Instr) (cs : List Instr) (s : State), step { s with pending := c :: cs } = exec c { s with pending := cs }) ∧
  ∀ s : State, s.pending = [] → step s = .next s

/-- Reset: the register tables' Reset values, nothing stored, nothing waiting. Right after reset every field reads as its
Reset value, the supervisor is in MIN_OFF with every rail off, no line of DRAM is stored, no object exists, no command
waits, and the invariant holds. What the parts beside the registers hold at reset is the model's choice where the spec
is silent (log entries 3, 5 and 14). From 20_register_map.md, 16_power_supervision.md, 01_architecture.md. -/
def Obligations.ResetHoldsTheResetValues : Prop :=
  State.reset.Inv ∧ (∀ f i, State.reset.rdi f i = f.resetVal i) ∧ State.reset.rd .TICK_PERIOD = 195 ∧
  State.reset.rd .SEQ_STATE = seqMinOff ∧ State.reset.rd .RAIL_EN_OUT = 0 ∧ State.reset.rd .FLOAT_LIMIT = 0 ∧
  State.reset.rdi .GUAR_WT 0 = 4096 ∧ State.reset.rdi .GUAR_WT 1 = 0 ∧ State.reset.fl .MEDIA_READY = false ∧
  State.reset.draining = false ∧ State.reset.dram = [] ∧ State.reset.md.ledger = [] ∧ State.reset.cmd.cmds = [] ∧
  State.reset.pending = []

/-- Every step keeps registers and DRAM canonical and within their limits. Whatever command a step runs, from any state
that meets the invariant it leaves one that meets it: every register field holds a value of its width, within its
table's limits and write rule; the register table and the DRAM contents stay in their one canonical form; the commands
still waiting stay well formed. From 20_register_map.md, 01_architecture.md, 10_dram_controller.md. -/
def Obligations.StepKeepsTheInvariant : Prop :=
  ∀ s t : State, s.Inv → step s = .next t → t.Inv

/-- Every command, in every state and with every operand, answers a next state. No command of the table ends in a fault or
a refusal, in whatever state and with whatever operands it comes; a command whose condition does not hold leaves the
state (log entry 1). No command touches the queue. This says that each completes; what it does the other statements
say. From 01_architecture.md, 95_what_each_step_holds.md. -/
def Obligations.EveryCommandAnswersANextState : Prop :=
  ∀ (c : Instr) (s : State), ∃ t, exec c s = .next t ∧ t.pending = s.pending

/-- What each command leaves unchanged. The frame of every command: no register field but those touchedFlds lists for it
changes, at any instance, and no part of the state but those touchedParts lists for it; the queue never. From
01_architecture.md, 20_register_map.md, 95_what_each_step_holds.md. -/
def Obligations.CommandsStayInTheirFootprints : Prop :=
  ∀ (c : Instr) (s t : State), exec c s = .next t → Within (touchedParts c) (touchedFlds c) s t ∧ t.pending = s.pending

/-- A charge admitted serves the write that waited; a stall is reported. When the float admits the charge of the first
host write that waits for it, that write leaves the waiting list and is merged into its line, charged and completed. A
stall of a domain marks its oldest waiting request and sets STALLED and the FGV alert. From 03_float_governor.md,
04_fabric_ports.md. -/
def Obligations.FloatAndStalls : Prop :=
  (∀ (s u : State) (w : Wait) (r : HostReq) (obj tp la : Nat) (x : Win) (o : Obj) (k : Key) (c : CLine),
    s.draining = false → s.waits = [w] → s.fltNext = some w → w.ent = .host r → w.benched = false → r.wr = true →
    s.prt.stopped = [] → (∀ y ∈ s.fch.snoops, y.ans = false) → u = State.stallEnd { s with waits := [] } w.dom →
    OnPage u r.link r.ld r.dpa obj tp la x o → u.holds la k c → u.alone r.link la → x.ro = false →
    u.mute r.link = false → o.mirror = false → u.atomicHolds obj tp = false → c.obj = obj → u.Inv →
    (o.persist = true → u.canCharge (u.ldDom r.link r.ld) 1 = true) →
    ∃ t v, exec .floatChargeAdmitted s = .next t ∧ t.waits = [] ∧
      mget t.fch.lines k = some (c.store r.data r.mask r.poison) ∧
      (∀ j, j ≠ k → mget t.fch.lines j = mget s.fch.lines j) ∧ t.out = s.out ++ [Msg.cxlDone r.link r.ld r.tag v]) ∧
  (∀ (s : State) (d : Nat) (w : Wait), s.draining = false → s.Inv → s.fli .STALLED d = false →
    s.rd .FLOAT_LIMIT ≠ 0 → w ∈ s.waits → w.dom = d → w.aged = false → w.why = .flt →
    ∃ t, exec (.stall d false) s = .next t ∧ t.fli .STALLED d = true ∧ bit (t.rd .ALERT_CAUSE) blkFGV = true ∧
      t.waits.length = s.waits.length ∧ ∃ x ∈ t.waits, x.aged = true ∧ x.dom = d) ∧
  (∀ (s : State) (d : Nat) (f : Fence), s.draining = false → s.Inv → s.fli .STALLED d = false →
    s.rd .FLOAT_LIMIT ≠ 0 → f ∈ s.fences → f.dom = d → f.aged = false →
    ∃ t, exec (.stall d true) s = .next t ∧ t.fli .STALLED d = true ∧ bit (t.rd .ALERT_CAUSE) blkFGV = true ∧
      ∃ x ∈ t.fences, x.aged = true ∧ x.dom = d)

/-- Sensing the energy store. The floor comparator arms at floor plus hysteresis without a sense fault. A PMBus reading
that disagrees by more than 5 % with HOLDUP_MV, or an open sense input, sets HOLDUP_SNS_FAULT and disarms; one that
agrees changes only PMBUS_MV. A negative sense input sets HOLDUP_REVERSED and disarms; its end, and writing
HOLDUP_INVERT, clear it. From 03_float_governor.md, 16_power_supervision.md. -/
def Obligations.HoldupSensing : Prop :=
  (∀ s : State, s.Inv → s.rd .HOLDUP_FLOOR_MV + s.rd .HOLDUP_HYST_MV ≤ s.rd .HOLDUP_MV →
    s.fl .HOLDUP_SNS_FAULT = false → s.fl .HOLDUP_REVERSED = false → s.draining = false →
    ∃ t, exec .floorComparatorArmed s = .next t ∧ t.fl .ARMED = true) ∧
  (∀ (s : State) (mv a : Nat), s.Inv → mv < 2 ^ 16 → a = s.rd .HOLDUP_MV → max mv a < 20 * (max mv a - min mv a) →
    s.fl .HOLDUP_SNS_FAULT = false →
    ∃ t, exec (.holdupPmbusPoll mv) s = .next t ∧ t.rd .PMBUS_MV = mv ∧ t.fl .HOLDUP_SNS_FAULT = true ∧
      t.fl .ARMED = false ∧ bit (t.rd .ALERT_CAUSE) blkFGV = true) ∧
  (∀ (s : State) (mv a : Nat), s.Inv → mv < 2 ^ 16 → a = s.rd .HOLDUP_MV → 20 * (max mv a - min mv a) ≤ max mv a →
    s.fl .SNS_OPEN = false →
    ∃ t, exec (.holdupPmbusPoll mv) s = .next t ∧ t.rd .PMBUS_MV = mv ∧
      t.fl .HOLDUP_SNS_FAULT = s.fl .HOLDUP_SNS_FAULT ∧ t.fl .ARMED = s.fl .ARMED ∧ t.dbk = s.dbk) ∧
  (∀ s : State, s.Inv → s.fl .HOLDUP_SNS_FAULT = false →
    ∃ t, exec (.snsOpen true) s = .next t ∧ t.fl .SNS_OPEN = true ∧ t.fl .HOLDUP_SNS_FAULT = true ∧
      t.fl .ARMED = false) ∧
  (∀ s : State, s.Inv → s.fl .HOLDUP_REVERSED = false →
    ∃ t, exec (.snsNeg true) s = .next t ∧ t.fl .SNS_NEG = true ∧ t.fl .HOLDUP_REVERSED = true ∧
      t.fl .ARMED = false) ∧
  (∀ s : State, s.Inv →
    ∃ t, exec (.snsNeg false) s = .next t ∧ t.fl .SNS_NEG = false ∧ t.fl .HOLDUP_REVERSED = false) ∧
  (∀ (s : State) (v : Bool), s.Inv → s.draining = false →
    ∃ t, exec (.holdupInvertWrite v) s = .next t ∧ t.fl .HOLDUP_INVERT = v ∧
      t.fl .HOLDUP_REVERSED = (!v && s.fl .HOLDUP_REVERSED))

/-- The capacitance cycle and the drain-rate rehearsal. CCAL_NOW and the interval start the cycle of Table 03.3: V1 is
recorded and the low target written to the charger. At the target V2 is recorded and the setting restored; an
abandoned cycle restores it without a result; READ_IOUT adds to the charge; recharged, an accepted Q / (V1 - V2)
becomes HOLDUP_CAP_MEAS_MF. VCAL_NOW asks for a rehearsal, which starts and ends with the rate, the lowest of the last
eight in DRAIN_RATE_CAL. MEAS_CLR clears the measured power. From 03_float_governor.md. -/
def Obligations.Calibrations : Prop :=
  (∀ (s : State) (i : Instr) (vset lo : Nat), s.Inv → s.draining = false → s.fl .CCAL_BUSY = false →
    s.rd .CCAL_LO_MV ≠ 0 → i = .ccalNow vset ∨ (i = .ccalInterval vset ∧ s.rd .CCAL_INTERVAL_H ≠ 0) →
    lo = max (s.rd .CCAL_LO_MV) (s.rd .HOLDUP_FLOOR_MV + s.rd .HOLDUP_HYST_MV) →
    ∃ t, exec i s = .next t ∧ t.fl .CCAL_BUSY = true ∧ t.fgv.ccal = .discharge ∧ t.fgv.v1 = s.rd .HOLDUP_MV ∧
      t.fgv.loMv = lo ∧ t.fgv.vset = vset ∧ t.out = s.out ++ [Msg.pmbus (s.rd .HOLDUP_PMBUS_ADDR) 0 0x21 lo]) ∧
  (∀ s : State, s.draining = false → s.fgv.ccal = .discharge → s.rd .HOLDUP_MV ≤ s.fgv.loMv →
    exec .ccalDischarged s = .next
      { s with fgv := { s.fgv with ccal := .charge, v2 := s.rd .HOLDUP_MV, charge := 0 }
               out := s.out ++ [Msg.pmbus (s.rd .HOLDUP_PMBUS_ADDR) 0 0x21 s.fgv.vset] }) ∧
  (∀ s : State, s.Inv → s.draining = false → s.fgv.ccal = .discharge →
    ∃ t, exec .ccalAbandon s = .next t ∧ t.fgv = { s.fgv with ccal := .idle } ∧ t.fl .CCAL_BUSY = false ∧
      t.rd .HOLDUP_CAP_MEAS_MF = s.rd .HOLDUP_CAP_MEAS_MF ∧
      t.out = s.out ++ [Msg.pmbus (s.rd .HOLDUP_PMBUS_ADDR) 0 0x21 s.fgv.vset]) ∧
  (∀ (s : State) (ma : Nat), s.draining = false → s.fgv.ccal = .charge ∨ s.fgv.ccal = .startUp →
    exec (.ccalIoutPoll ma) s = .next { s with fgv := { s.fgv with charge := s.fgv.charge + ma } }) ∧
  (∀ (s : State) (d : Nat), s.Inv → s.draining = false → s.fgv.ccal = .charge → s.fgv.v1 ≤ s.rd .HOLDUP_MV →
    d = s.fgv.v1 - s.fgv.v2 → 0 < d → s.rd .HOLDUP_CAP_NOM_MF * d ≤ 2 * s.fgv.charge →
    100 * s.fgv.charge ≤ 110 * s.rd .HOLDUP_CAP_NOM_MF * d → s.fgv.charge / d < 2 ^ 24 →
    ∃ t, exec .ccalRecharged s = .next t ∧ t.rd .HOLDUP_CAP_MEAS_MF = s.fgv.charge / d ∧ t.fl .CCAL_BUSY = false ∧
      t.fgv.ccal = .idle) ∧
  (∀ (s : State) (d : Nat), s.Inv → s.draining = false → s.fgv.ccal = .charge → s.fgv.v1 ≤ s.rd .HOLDUP_MV →
    d = s.fgv.v1 - s.fgv.v2 → s.fgv.v1 < s.fgv.v2 ∨ 0 < d ∧ (2 * s.fgv.charge < s.rd .HOLDUP_CAP_NOM_MF * d ∨
      110 * s.rd .HOLDUP_CAP_NOM_MF * d < 100 * s.fgv.charge) →
    ∃ t, exec .ccalRecharged s = .next t ∧ t.rd .HOLDUP_CAP_MEAS_MF = s.rd .HOLDUP_CAP_MEAS_MF ∧
      t.fl .CAL_REJECT = true ∧ t.fl .CCAL_BUSY = false) ∧
  (∀ s : State, s.draining = false → exec .vcalNow s = .next { s with fgv := { s.fgv with vcalDue := true } }) ∧
  (∀ s : State, s.draining = false → s.fgv.rehearsal = false →
    ∃ t, exec .rehearsal s = .next t ∧ t.fgv = { s.fgv with rehearsal := true, vcalDue := false } ∧ t.dram = s.dram ∧
      t.md = s.md ∧ t.nfc = s.nfc) ∧
  (∀ (s : State) (rate : Nat), s.Inv → s.draining = false → s.fgv.rehearsal = true → rate < 2 ^ 32 →
    (∀ r ∈ s.fgv.rates, r < 2 ^ 32) →
    ∃ t, exec (.rehearsalDone rate) s = .next t ∧ t.fgv.rehearsal = false ∧
      t.fgv.rates = (s.fgv.rates ++ [rate]).drop (s.fgv.rates.length + 1 - 8) ∧ t.rd .DRAIN_RATE_LAST = rate ∧
      t.rd .DRAIN_RATE_CAL ≤ rate ∧ (∀ r ∈ t.fgv.rates, t.rd .DRAIN_RATE_CAL ≤ r) ∧
      t.rd .DRAIN_RATE_CAL ∈ t.fgv.rates ∧ t.fl .RATE_VALID = true) ∧
  (∀ s : State, s.Inv → s.draining = false → ∃ t, exec .measClr s = .next t ∧ t.rd .DRAIN_POWER_MEAS_W = 0)

/-- What starts a drain and what it stops. In ON with a Pn_RDY risen, the fall of PFAIL_N, the floor crossing of an armed
comparator, SYS_RST_N and DRAIN_NOW start a drain: DRAINING is set, every MEM_ACTIVE and Pn_RDY falls, and no waiting
request, fence, move, stream or settle is left. PFAIL_N's rise only changes its pin. SYS_RST_N released before the
drain's end changes only its pin; released after it the start-up begins with the rails as they are. From
03_float_governor.md, 16_power_supervision.md, 02_persistence_model.md. -/
def Obligations.DrainTriggers : Prop :=
  (∀ (s : State) (i : Instr) (g : Trig) (up : Bool), s.Inv → s.draining = false → s.rd .SEQ_STATE = seqOn →
    (i = .pfailNFall ∧ s.pwr.rdyUp = true ∧ g = .pfail ∧ up = false) ∨
      (i = .holdupFloorCrossing ∧ s.fl .ARMED = true ∧ g = .floor ∧ up = false) ∨
      (i = .sysRstNAssert ∧ g = .sysRst ∧ up = true) ∨ (i = .drainNow ∧ g = .now ∧ up = true) →
    ∃ t, exec i s = .next t ∧ t.draining = true ∧ t.drain.trig = some g ∧ t.drain.railsUp = up ∧ t.drain.step = 2 ∧
      t.drain.seq = s.drain.seq + 1 ∧ t.drain.vTrig = s.rd .HOLDUP_MV ∧
      (∀ k, k < 8 → t.fli .MEM_ACTIVE k = false) ∧ (∀ p, p < 4 → bit t.prt.rdy p = false) ∧ t.waits = [] ∧
      t.fences = [] ∧ t.tpe.moves = [] ∧ t.tpe.streams = [] ∧ t.stl.jobs = [] ∧
      t.stl.chq = s.stl.chq) ∧
  (∀ s : State, s.Inv → ∃ t, exec .pfailNRise s = .next t ∧ t.fl .PFAIL_IN = false ∧ t.draining = s.draining) ∧
  (∀ s : State, s.drain.step ≠ 7 → s.draining = true ∨ s.sec.meas ≠ [] → exec .sysRstNDeassert s = .next { s with pwr := { s.pwr with sysRst := false } }) ∧
  (∀ s : State, s.Inv → s.draining = true → s.drain.step = 7 → s.rd .SEQ_STATE = seqOn →
    ∃ t, exec .sysRstNDeassert s = .next t ∧ t.rd .SEQ_STATE = seqCore ∧ t.draining = false ∧
      t.rd .RAIL_EN_OUT = s.rd .RAIL_EN_OUT ∧ t.pwr.good = s.pwr.good ∧ t.nfc.seals = s.nfc.seals ∧ t.dram = [] ∧
      t.md = metaNone)

/-- The steps of a drain. Step 2 ends with every front-cache line clean and written; step 3 leaves each charged code
page's lines in the vault; step 4a takes the measured power; step 4b writes the seal, which makes the content and the
metadata stored, and the last flush begins; its end takes the rails down when the trigger asked for it. From
03_float_governor.md, 02_persistence_model.md, 17_daybook.md. -/
def Obligations.DrainSteps : Prop :=
  (∀ (s : State) (k : Key) (c : CLine), s.Inv → s.draining = true → s.drain.step = 2 → s.fch.lines = [(k, c)] →
    s.fch.mrs = [] → c.dirty = true →
    ∃ t, exec .drainWritebackDone s = .next t ∧ t.drain.step = 3 ∧ t.fch.lines = [(k, { c with dirty := false })] ∧
      t.dline c.la = c.stored ∧ ∀ la, la ≠ c.la → t.dline la = s.dline la) ∧
  (∀ (s : State) (k : Key) (f : Frame), s.draining = true → s.drain.step = 3 → s.stl.chq = [k] → k.1 < 2 ^ 30 →
    s.frame? k.1 = some f → f.use ≠ 2 → s.fl .FLIP_ARM = false → (∀ e ∈ s.dram, e.2.st = .good) →
    ∃ t, exec (.drainFloatDone []) s = .next t ∧ t.drain.step = 4 ∧ t.drain.count = s.drain.count + 1 ∧
      t.nfc.vaultNew = mput s.nfc.vaultNew (f.obj, 16 * f.tp + k.2) (s.cpLines k.1 k.2) ∧ t.dram = s.dram) ∧
  (∀ (s : State) (v us : Nat), s.draining = true → s.drain.step = 4 → s.int.journalBad = false →
    s.boot.metaDone = true →
    exec (.drainMetadataDone v us) s = .next { s with drain := { s.drain with power := s.drainPower v us, step := 5 } }) ∧
  (∀ s : State, s.Inv → s.draining = true → s.drain.step = 5 → s.fl .SPI_A_FAIL = false ∨ s.fl .SPI_B_FAIL = false →
    ∃ t, exec .vaultSealWritten s = .next t ∧ t.drain.step = 6 ∧
      t.nfc.seals = s.nfc.seals ++ [⟨s.drain.seq, s.drain.count, s.drain.power, indexCrc t.nfc.index⟩] ∧ t.nfc.vaultNew = [] ∧
      t.saved.journal = s.md ∧ t.saved.solo = s.mir.solo ∧ t.fl .FLUSH_BUSY = true ∧
      t.dbk.frozen = some (s.rd .HEAD_SEQ)) ∧
  (∀ s : State, s.Inv → s.draining = true → s.drain.step = 6 → s.fl .FLUSH_BUSY = true → s.dbk.flushAgain = false →
    s.rd .SEQ_STATE = seqOn → s.drain.railsUp = false → s.fl .SPI_A_FAIL = false →
    ∃ t, exec (.daybookFlushDone true true) s = .next t ∧
      t.rd .SEQ_STATE = (if s.rd .RAIL_EN_OUT = 0 then seqMinOff else seqDown) ∧
      ∀ p, p < 4 → bit t.prt.rdy p = false)

/-- Host loads and stores on a page in DRAM. A host load of an unpoisoned cached line of a page in DRAM answers the line's
data and changes nothing but the page's age mark, the DevLoad reading and the filter. A host store, or a snoop's
write-back, to such a line merges the bytes of its mask and answers; the code page is charged once for a persistent
object. From 04_fabric_ports.md, 01_architecture.md, 09_front_cache.md, 07_objects_and_tiers.md. -/
def Obligations.HostLoadsAndStores : Prop :=
  (
  ∀ (s : State) (link ld dpa mty tag obj tp la : Nat) (w : Win) (o : Obj) (k : Key) (c : CLine),
    OnPage s link ld dpa obj tp la w o → s.holds la k c → s.alone link la → c.poison = false → s.mute link = false →
    ∃ t, exec (.cxlMemRead link ld dpa mty tag []) s = .next t ∧
      (∃ v, t.out = s.out ++ [Msg.cxlData link ld tag c.data false v]) ∧ t.fch.lines = s.fch.lines ∧
      Only [.tpe, .fch, .out] [(.DEVLOAD, ldIx link ld)] s t) ∧
  (
  ∀ (s : State) (link ld dpa mty tag obj tp la : Nat) (data : Line) (mask : Mask) (poison : Bool) (w : Win) (o : Obj)
    (k : Key) (c : CLine) (i : Instr),
    i = .cxlMemWrite link ld dpa mty tag data mask poison ∨
      (i = .snoopWriteBack link ld dpa mty tag data mask poison ∧ (link, la) ∉ s.prt.lost ∧ ∀ y ∈ s.waits, y.why ≠ .page) →
    link ∉ s.prt.stopped → s.held link true < s.halfTracker link → OnPage s link ld dpa obj tp la w o → s.holds la k c → s.alone link la → w.ro = false → s.mute link = false →
    o.mirror = false → s.atomicHolds obj tp = false → c.obj = obj → regsOk s.regs = true →
    (o.persist = true → s.canCharge (s.ldDom link ld) 1 = true) →
    ∃ t, exec i s = .next t ∧ mget t.fch.lines k = some (c.store data mask poison) ∧
      (∀ j, j ≠ k → mget t.fch.lines j = mget s.fch.lines j) ∧
      t.rd .FLOAT_PAGES = s.rd .FLOAT_PAGES +
        b2n (o.persist && ((s.mapE (o.mapBase + tp)).cpSt (dpa / 4096 % 16) == 0 ||
          (s.mapE (o.mapBase + tp)).cpSt (dpa / 4096 % 16) == 3)) ∧
      (∃ v, t.out = s.out ++ [Msg.cxlDone link ld tag v]) ∧
      Only [.md, .stl, .tpe, .fch, .out] [(.DEVLOAD, ldIx link ld), (.FLOAT_PAGES, 0), (.CHARGE, s.ldDom link ld)] s t)

/-- Settle-page stores and GPF Phase 2. With no twin and no open record, a settle-page store takes the next sequence
number and completes with OK_SOLO at once; a fence that times out answers and goes on uncounted; GPF Phase 2 completes when
nothing is pending, and its timeout ends its fence. From 04_fabric_ports.md, 02_persistence_model.md,
06_command_set.md. -/
def Obligations.FencesComplete : Prop :=
  (∀ (s : State) (link ld tag : Nat), s.draining = false →
    s.ldServes link ld (s.rdi .SETTLE_PFN (ldIx link ld) * 4096) = true → s.fli .SETTLE_EN (ldIx link ld) = true →
    s.rd .STATE = mirNoTwin → s.mir.opn = [] → s.mute link = false → s.others (pageLa link ld) none = [] →
    link ∉ s.prt.stopped → s.held link true < s.halfTracker link →
    ∃ t v seq, exec (.settlePageStore link ld tag) s = .next t ∧
      seq = ((mget s.prt.fstat (link, ld)).getD ⟨3, 0, 0⟩).seq + 1 ∧
      mget t.prt.fstat (link, ld) = some ⟨1, seq, s.rd .SSN_ISSUED⟩ ∧ .cxlDone link ld tag v ∈ t.out ∧
      (∀ f ∈ t.fences, f ∈ s.fences) ∧
      Only [.prt, .fences, .out] [(.STALLED, s.ldDom link ld), (.DEVLOAD, ldIx link ld)] s t) ∧
  (∀ (s : State) (link ld tag : Nat) (f : Fence), f ∈ s.fences → f.src = .page link ld tag → f.freed = false →
    s.mute link = false →
    ∃ t v, exec (.settlePageTimeout link ld tag) s = .next t ∧ t.out = s.out ++ [Msg.cxlDone link ld tag v] ∧
      t.fences.map (fun g => { g with freed := false }) = s.fences.map (fun g => { g with freed := false }) ∧
      Only [.fences, .out] [(.DEVLOAD, ldIx link ld)] s t) ∧
  (∀ (s : State) (port : Nat), s.draining = false → port ∉ s.prt.gpf → s.rd .STATE = mirNoTwin → s.mir.opn = [] →
    (∀ f ∈ s.fences, f.src ≠ .gpf port) →
    ∃ t, exec (.gpfPhase2 port) s = .next t ∧ .gpfDone port ∈ t.out ∧ port ∉ t.prt.gpf ∧ (∀ f ∈ t.fences, f ∈ s.fences) ∧
      Only [.prt, .fences, .out, .dbk] ((s.portDomains port).map (fun d => (.STALLED, d)) ++ dbkRegs) s t) ∧
  (∀ (s : State) (port : Nat), port ∈ s.prt.gpf →
    ∃ t, exec (.gpfPhase2Timeout port) s = .next t ∧ .gpfDone port ∈ t.out ∧ port ∉ t.prt.gpf ∧
      (∀ f, f ∈ t.fences ↔ f ∈ s.fences ∧ f.src ≠ .gpf port) ∧
      Only [.prt, .fences, .out, .dbk] (s.fences.map (fun f => (.STALLED, f.dom)) ++ dbkRegs) s t)

/-- Port resets, link training and PORT_OFFLINE. PERST takes the port's links and Pn_RDY down and leaves DRAM, metadata,
settles and the mirror; its release samples SPLIT; a link comes up at a rate and width that both ends allow; a link
that goes down is down; PORT_OFFLINE takes the port down and its clearing changes only itself. From
04_fabric_ports.md. -/
def Obligations.PortResetAndTraining : Prop :=
  (∀ (s : State) (port : Nat), port < 4 → s.Inv →
    ∃ t, exec (.perstAssert port) s = .next t ∧ bit t.prt.perst port = true ∧ bit t.prt.rdy port = false ∧
      (∀ k, portOf k = port → t.fli .PRT_LINK_STATUS_LINK_UP k = false ∧ t.fli .MEM_ACTIVE k = false) ∧
      ((∀ w ∈ s.waits, w.why ≠ .atomic) → t.dram = s.dram ∧ t.md = s.md ∧ t.stl = s.stl ∧ t.mir = s.mir)) ∧
  (∀ (s : State) (port : Nat), port < 4 → bit s.prt.perst port = true → s.Inv →
    ∃ t, exec (.perstRelease port) s = .next t ∧ bit t.prt.perst port = false ∧
      t.rdi .SPLIT_ACT port = s.rdi .SPLIT port ∧ Only [.prt] [(.SPLIT_ACT, port)] s t) ∧
  (∀ (s : State) (link rate lanes polarity w : Nat) (reversed flit256 : Bool), s.linkLive link = true →
    s.fli .PRT_LINK_STATUS_LINK_UP link = false →
    linkWidth lanes (if s.fli .SPLIT_ACT (portOf link) then 8 else 16) = some w → s.Inv →
    ∃ t, exec (.linkUp link rate lanes polarity reversed flit256) s = .next t ∧
      t.fli .PRT_LINK_STATUS_LINK_UP link = true ∧ t.rdi .RATE link ≤ s.rdi .MAX_RATE (portOf link) ∧
      t.rdi .RATE link ≤ rate ∧ (flit256 = false → t.rdi .RATE link ≤ 4) ∧ t.rdi .WIDTH link = w ∧
      t.fli .HDM_DB link = flit256 ∧ Only [] (linkFlds.map fun f => (f, link)) s t) ∧
  (∀ (s : State) (link : Nat), s.Inv →
    ∃ t, exec (.linkDown link) s = .next t ∧ t.fli .PRT_LINK_STATUS_LINK_UP link = false ∧
      Only [] [(.PRT_LINK_STATUS_LINK_UP, link)] s t) ∧
  (∀ (s : State) (port : Nat), port < 4 → s.draining = false → s.Inv →
    ∃ t, exec (.portOfflineWrite port true) s = .next t ∧ t.fli .PORT_OFFLINE port = true ∧ bit t.prt.rdy port = false ∧
      (∀ k, portOf k = port → t.fli .PRT_LINK_STATUS_LINK_UP k = false) ∧
      Only [.prt, .out] ((.PORT_OFFLINE, port) :: portRegs port) s t) ∧
  (∀ (s : State) (port : Nat), port < 4 → s.draining = false → s.Inv →
    ∃ t, exec (.portOfflineWrite port false) s = .next t ∧ t.fli .PORT_OFFLINE port = false ∧
      Only [] [(.PORT_OFFLINE, port)] s t)

/-- Downshift, retrain and the answers to snoops. A recovery beyond RETRAIN_LIMIT lowers the rate by one step while
DOWNSHIFT_EN is set, and only then; LINK_RETRAIN takes the rate asked for within MAX_RATE. A snoop's answer ends that
snoop alone; its timeout also marks its lines lost for the link, is counted and raises an alert. From
04_fabric_ports.md, 20_register_map.md. -/
def Obligations.LinkSpeedAndSnoops : Prop :=
  (
  (∀ (s : State) (link recent : Nat), s.fli .PRT_LINK_STATUS_LINK_UP link = true → s.Inv →
    s.fli .DOWNSHIFT_EN (portOf link) = true → s.rdi .RETRAIN_LIMIT (portOf link) < recent → 0 < s.rdi .RATE link →
    ∃ t, exec (.linkRecoveryEntry link recent) s = .next t ∧ t.rdi .RATE link = s.rdi .RATE link - 1 ∧
      Only [.dbk, .prt] ((.RATE, link) :: (.RETRAIN_CNT, link) :: (.DOWNSHIFT_CNT, link) :: (.PRT_LINK_FLAGS_CNT_OVF, link) :: dbkRegs) s t) ∧
  (∀ (s : State) (link recent : Nat), s.fli .PRT_LINK_STATUS_LINK_UP link = true →
    s.fli .DOWNSHIFT_EN (portOf link) = false ∨ recent ≤ s.rdi .RETRAIN_LIMIT (portOf link) →
    ∃ t, exec (.linkRecoveryEntry link recent) s = .next t ∧
      Only [.dbk] ((.RETRAIN_CNT, link) :: (.PRT_LINK_FLAGS_CNT_OVF, link) :: dbkRegs) s t) ∧
  (∀ (s : State) (link rate : Nat), s.linkLive link = true → s.fli .PRT_LINK_STATUS_LINK_UP link = true →
    s.fli .FLIT256 link = true → mwf s.prt.stepped = true → s.Inv →
    ∃ t, exec (.linkRetrain link rate) s = .next t ∧ t.rdi .RATE link = min rate (s.rdi .MAX_RATE (portOf link)) ∧
      Only [.prt] [(.RATE, link)] s t)) ∧
  (
  ∀ (s : State) (link la : Nat) (x : Snoop), x ∈ s.fch.snoops → x.link = link → x.la = la → x.sent = true →
    (∀ y ∈ s.fch.snoops, y.sent = true ∧ (y.link = link → y.la = la → y = x)) → (∀ w ∈ s.waits, w.why ≠ .snoop) →
    s.wbPending x = false → s.prt.dcPend = [] →
    (∃ t, exec (.birsp link la) s = .next t ∧ (∀ y, y ∈ t.fch.snoops ↔ y ∈ s.fch.snoops ∧ ¬(y.link = link ∧ y.la = la)) ∧
      t.fch.lines = s.fch.lines ∧ t.waits = s.waits ∧ Only [.fch] [] s t) ∧
    (∃ t, exec (.biTimeout link la) s = .next t ∧ (∀ y, y ∈ t.fch.snoops ↔ y ∈ s.fch.snoops ∧ ¬(y.link = link ∧ y.la = la)) ∧
      (∀ n, n < x.n → (link, la + n) ∈ t.prt.lost) ∧ t.fch.lines = s.fch.lines ∧ t.waits = s.waits ∧
      Only [.fch, .prt, .dbk, .glb, .out] ((.BI_TIMEOUT_CNT, link) :: (.PRT_LINK_FLAGS_CNT_OVF, link) :: alertRegs ++ dbkRegs) s t))

/-- HDM decoders and IDE. A decoder that is not locked takes the values written, commits when its interleave is listed and
else flags an error. A key programmed over a session turns the stream's IDE on; a failed MAC turns it off, on CXL.mem
discards the requests of the flit, and reports it. When a decoder locks is PRESUMED of CXL (log entry 19). From
04_fabric_ports.md. -/
def Obligations.DecodersAndIde : Prop :=
  (∀ (s : State) (link ld n base size ways gran : Nat) (lock : Bool), s.ldExists link ld = true → n < 2 →
    (∀ d, mget s.prt.hdm (ldIx link ld, n) = some d → d.locked = false) →
    ∃ t, exec (.hdmDecoderCommit link ld (n + 2 * b2n lock) base size ways gran) s = .next t ∧
      mget t.prt.hdm (ldIx link ld, n) =
        some ⟨base, size, ways, gran, hdmListed ways gran, !hdmListed ways gran, hdmListed ways gran && lock⟩ ∧
      (∀ k, k ≠ (ldIx link ld, n) → mget t.prt.hdm k = mget s.prt.hdm k) ∧ Only [.prt] [] s t) ∧
  (∀ (s : State) (link key : Nat) (isMem : Bool), s.rd .SESSIONS ≠ 0 → s.Inv →
    ∃ t, exec (.ideKmKeyProg link key isMem) s = .next t ∧
      t.fli (if isMem then .IDE_MEM else .IDE_IO) link = true ∧
      (∃ x, mget t.prt.ide (link, 0) = some x ∧ (if isMem then x.memKey else x.ioKey) = key) ∧
      Only [.prt] [(if isMem then .IDE_MEM else .IDE_IO, link)] s t) ∧
  (∀ (s : State) (link : Nat) (isMem : Bool) (tags : List Nat), s.Inv →
    ∃ t, exec (.ideMacFail link isMem tags) s = .next t ∧ t.fli (if isMem then .IDE_MEM else .IDE_IO) link = false ∧
      (isMem = true → ∀ w ∈ t.waits, ∀ r, w.ent = .host r → ¬(r.link = link ∧ r.tag ∈ tags)) ∧
      (isMem = false → t.waits = s.waits ∧ t.fch = s.fch) ∧ t.fch.lines = s.fch.lines ∧ .rasError link ∈ t.out ∧
      Only [.prt, .waits, .fch, .dbk, .out] ((if isMem then .IDE_MEM else .IDE_IO, link) :: (.GCM_FAIL_CNT, 0) ::
        (.CIP_FLAGS_CNT_OVF, 0) :: (.IDE_FAIL_CNT, link) :: (.PRT_LINK_FLAGS_CNT_OVF, link) ::
        (List.range 256).map (fun d => (.STALLED, d)) ++ dbkRegs) s t)

/-- Mailbox and FM API commands. IDENTIFY, GET_EVENT_RECORDS, GET_POISON_LIST, GET_HEALTH_INFO and SET_TIMESTAMP answer
what the spec lists; dynamic capacity is added within its limit beyond the static capacity, and released when no window
lies in it; an LD that is not enabled is bound to a domain. The numbers of opcodes and status codes are PRESUMED (NOTES.md, Assumptions). From
04_fabric_ports.md, 17_daybook.md, 16_power_supervision.md. -/
def Obligations.MailboxAndFabricManager : Prop :=
  (∀ (s : State) (link ld : Nat),
    exec (.identify link ld) s =
      .next (s.send (.mailbox 0x4000 stOk [s.rd .GLB_ID_DEVICE, s.rdi .LD_CAP_256M (ldIx link ld), 2]))) ∧
  (∀ (s : State) (link ld : Nat), ∃ t l, exec (.getEventRecords link ld) s = .next t ∧
    t.out = s.out ++ [Msg.mailbox 0x0100 stOk l] ∧ (∀ e ∈ s.prt.events, e.1 ∈ l ∧ e.2 ∈ l) ∧ Only [.out] [] s t) ∧
  (∀ (s : State) (link ld : Nat), ∃ t l, exec (.getPoisonList link ld) s = .next t ∧
    t.out = s.out ++ [Msg.mailbox 0x4300 stOk (link :: ld :: l)] ∧
    (∀ (e : Key × DLine) (f : Frame) (w : Key × Win), e ∈ s.dram → e.2.st = .poison → s.frame? e.1.1 = some f →
      w ∈ s.winsAt (1024 * e.1.1) → w.1.1 = ldIx link ld →
      (w.1.2 + f.tp - w.2.objPn) * 65536 + 64 * e.1.2 ∈ l) ∧ Only [.out] [] s t) ∧
  (∀ (s : State) (link ld : Nat), ∃ t x, exec (.getHealthInfo link ld) s = .next t ∧
    t.out = s.out ++ [Msg.mailbox 0x4200 stOk [link, ld, s.pwr.dieTemp, x]] ∧ Only [.out] [] s t) ∧
  (∀ (s : State) (v : Nat), ∃ t, exec (.setTimestamp v) s = .next t ∧ t.prt.timestamp = v ∧
    t.out = s.out ++ [Msg.mailbox 0x0301 stOk []] ∧ Only [.prt, .out] [] s t) ∧
  (∀ (s : State) (link ld start len : Nat), s.ldExists link ld = true → 0 < len → s.Inv → s.canJournal = true →
    s.rdi .LD_CAP_256M (ldIx link ld) ≤ start → start + len ≤ 2 ^ 19 →
    (∀ i, i < len → s.hasBlock link ld (start + i) = false) → (s.extentsOf link ld).length < 256 →
    ∃ t, exec (.initiateDynamicCapacityAdd link ld start len) s = .next t ∧
      t.md = { s.md with extents := s.md.extents ++ [⟨link, ld, start, len⟩] } ∧
      t.out = s.out ++ [Msg.fm 0x5604 stOk []] ∧ t.rdi .DC_EXTENTS (ldIx link ld) = (s.extentsOf link ld).length + 1 ∧
      t.dram = s.dram) ∧
  (∀ (s : State) (link ld start len : Nat), 0 < len → s.Inv → s.canJournal = true →
    (∀ i, i < len → s.hasBlock link ld (start + i) = true) → s.winsIn ⟨link, ld, start, len⟩ = [] →
    (false, ⟨link, ld, start, len⟩) ∉ s.prt.dcPend →
    ∃ t, exec (.dynamicCapacityRelease link ld start len) s = .next t ∧
      (∀ i, i < len → t.hasBlock link ld (start + i) = false) ∧ t.out = s.out ++ [Msg.fm 0x5605 stOk []] ∧
      (∀ k j b, k ≠ link ∨ j ≠ ld ∨ b < start ∨ start + len ≤ b → t.hasBlock k j b = s.hasBlock k j b) ∧
      t.md.wins = s.md.wins ∧ t.dram = s.dram) ∧
  (∀ (s : State) (link ld dom : Nat), s.draining = false → s.ldRegs link ld = true → s.fli .LD_EN (ldIx link ld) = false →
    dom < 256 → s.Inv →
    ∃ t, exec (.bindLdDomain link ld dom) s = .next t ∧ t.rdi .PRT_LD_CFG_DOMAIN (ldIx link ld) = dom ∧
      t.out = s.out ++ [Msg.fm 0xC001 stOk []] ∧ Only [.out] [(.PRT_LD_CFG_DOMAIN, ldIx link ld)] s t)

/-- Doorbells, QP_EN, resets and DMA errors of a queue pair. A doorbell within the ring is stored; QP_EN set on an
assigned pair of an enabled LD zeroes its pointers, sets the phase and captures the owner; a reset with nothing in
flight completes at once with its entry; a ring DMA error stops the pair and discards its waiting commands; coalesced
entries are signalled; a write of CMD_STATUS restarts LOCK_PEAK. From 05_queues_and_doorbells.md. -/
def Obligations.QueuePairs : Prop :=
  (∀ (s : State) (q t : Nat), s.draining = false → q < 1024 → s.fli .QP_EN q = true → s.fli .RESET_BUSY q = false → s.Inv →
    t < s.sqN q → ringDist (s.rdi .SQ_TAIL q) (s.rdi .SQ_HEAD q) (s.sqN q) ≤ ringDist t (s.rdi .SQ_HEAD q) (s.sqN q) →
    ∃ u, exec (.sqTailDoorbell q t) s = .next u ∧ u.rdi .SQ_TAIL q = t ∧ Only [] [(.SQ_TAIL, q)] s u) ∧
  (∀ (s : State) (q h : Nat), s.draining = false → q < 1024 → s.fli .QP_EN q = true → s.Inv →
    h < s.cqN q → ringDist h (s.rdi .CQ_HEAD q) (s.cqN q) ≤ ringDist (s.rdi .CQ_TAIL q) (s.rdi .CQ_HEAD q) (s.cqN q) →
    ∃ u, exec (.cqHeadDoorbell q h) s = .next u ∧ u.rdi .CQ_HEAD q = h ∧ Only [] [(.CQ_HEAD, q)] s u) ∧
  (∀ (s : State) (q : Nat), s.draining = false → q < 1024 → s.fli .QP_EN q = false → s.fli .CMD_QP_ASSIGN_ASSIGNED q = true →
    s.fli .LD_EN (ldIx (s.rdi .CMD_QP_ASSIGN_LINK q) (s.rdi .CMD_QP_ASSIGN_LD q)) = true → s.rdi .MSIX_VEC q < 2048 → s.Inv →
    ∃ u, exec (.qpEnWrite q true) s = .next u ∧ u.fli .QP_EN q = true ∧ u.rdi .SQ_HEAD q = 0 ∧ u.rdi .SQ_TAIL q = 0 ∧
      u.rdi .CQ_HEAD q = 0 ∧ u.rdi .CQ_TAIL q = 0 ∧ u.rdi .CQ_PHASE q = 1 ∧
      u.rdi .QP_OWNER_DOMAIN q = s.ldDom (s.rdi .CMD_QP_ASSIGN_LINK q) (s.rdi .CMD_QP_ASSIGN_LD q) ∧
      Only [.cmd] [(.QP_EN, q), (.SQ_HEAD, q), (.SQ_TAIL, q), (.CQ_HEAD, q), (.CQ_TAIL, q), (.CQ_PHASE, q),
        (.QP_OWNER_LINK, q), (.QP_OWNER_LD, q), (.QP_OWNER_ASSIGNED, q), (.QP_OWNER_DOMAIN, q)] s u) ∧
  (∀ (s : State) (q : Nat), s.draining = false → q < 1024 → s.fli .QP_EN q = true → s.fli .RESET_BUSY q = false →
    s.fli .QP_CTRL_INT_EN q = false → s.cmdsOf q = [] → (∀ w ∈ s.waits, w.why ≠ .atomic) → s.Inv →
    ∃ u, exec (.qpReset q) s = .next u ∧ u.fli .QP_EN q = false ∧ u.fli .RESET_BUSY q = false ∧ u.fli .QP_ERR q = false ∧
      u.out = s.out ++ [Msg.cqe (s.rdi .CMD_QP_ASSIGN_LINK q) (s.rdi .CMD_QP_ASSIGN_LD q)
        (s.rdi .QP_CQ_BASE q * 4096 + 32 * s.rdi .CQ_TAIL q) q (s.rdi .CQ_TAIL q)
        [0, 0, s.rdi .SQ_HEAD q * 2 ^ 16 + 0x3E * 2 ^ 32, q + s.rdi .CQ_PHASE q * 2 ^ 63]] ∧
      u.dram = s.dram ∧ u.md = s.md) ∧
  (∀ (s : State) (q : Nat), s.fli .QP_EN q = true → (∀ w ∈ s.waits, w.why ≠ .atomic) → s.Inv →
    ∃ u, exec (.ringDmaError q false) s = .next u ∧ u.fli .QP_ERR q = true ∧
      (∀ c ∈ u.cmd.cmds, c.qp = q → c.ph ≠ .waiting) ∧ u.rdi .SQ_HEAD q = s.rdi .SQ_HEAD q ∧ u.dram = s.dram ∧ u.md = s.md) ∧
  (∀ (s : State) (q : Nat), s.fli .QP_CTRL_INT_EN q = true → s.rdi .COAL_US q ≠ 0 → (s.qp q).unsig ≠ 0 →
    ∃ u, exec (.coalesceTimeout q) s = .next u ∧
      u.out = s.out ++ [Msg.msix (s.rdi .CMD_QP_ASSIGN_LINK q) (s.rdi .CMD_QP_ASSIGN_LD q) (s.rdi .MSIX_VEC q)] ∧
      (u.qp q).unsig = 0 ∧ Only [.cmd, .out] [] s u) ∧
  (∀ s : State, s.draining = false → s.Inv →
    ∃ u, exec .cmdStatusWrite s = .next u ∧ u.rd .LOCK_PEAK = s.rd .LOCK_USED ∧ Only [] [(.LOCK_PEAK, 0)] s u)

/-- SQE fetch, dispatch, completion and the cut of a reset. An eligible pair's entries are fetched in ring order and
SQ_HEAD passes them; a command that holds its locks and passes its checks runs; the oldest done command posts its
completion entry and leaves with its locks; the running command of a pair under reset is cut and counted. From
05_queues_and_doorbells.md, 06_command_set.md. -/
def Obligations.FetchDispatchComplete : Prop :=
  (∀ (s : State) (q : Nat) (sqes : List (List Nat)), s.draining = false → s.eligible q = true → s.fli .CLASS_SC1 q = false →
    (s.cmd.cmds.filter fun c => c.ph == .waiting).length < 4096 → s.Inv →
    ∃ t, exec (.sqeFetch [q] sqes) s = .next t ∧
      t.cmd.cmds.map (fun c => (c.qp, c.words)) =
        s.cmd.cmds.map (fun c => (c.qp, c.words)) ++ (List.range (s.fetchMax q)).map (fun i => (q, sqes.getD i [])) ∧
      t.rdi .SQ_HEAD q = (s.rdi .SQ_HEAD q + s.fetchMax q) % s.sqN q ∧ t.dram = s.dram ∧ t.md = s.md) ∧
  (∀ (s : State) (c : Cmd) (sgl : List SglE), s.draining = false → s.cmd.cmds = [c] → s.lockReady c = true →
    isMetaOp (sqeOp c.words) = false → sqeSgl c.words = false →
    sqeOp c.words ≠ opSettle → sqeOp c.words ≠ opSeal → sqeOp c.words ≠ opUnseal →
    (State.updCmd (s.entGo (.cmd c.uid) c.dom) c.uid fun x => { x with ph := .running }).stateCheck c = none →
    ∃ t, exec (.commandDispatch false sgl) s = .next t ∧ t.cmd.cmds = [{ c with ph := .running }] ∧
      Only [.waits, .cmd] (cmdFlds c.dom) s t) ∧
  (∀ (s : State) (c : Cmd), s.draining = false → s.cmd.cmds = [c] → s.cmd.done = [c.uid] → c.silent = false →
    sqeNoInt c.words = true → c.late = false → s.fli .RESET_BUSY c.qp = false → (∀ w ∈ s.waits, w.why ≠ .atomic) → s.Inv →
    ∃ t, exec .commandComplete s = .next t ∧ t.cmd.cmds = [] ∧ t.cmd.done = [] ∧ (∀ l ∈ t.cmd.locks, l.uid ≠ c.uid) ∧
      t.out = s.out ++ [Msg.cqe (s.rdi .CMD_QP_ASSIGN_LINK c.qp) (s.rdi .CMD_QP_ASSIGN_LD c.qp)
        (s.rdi .QP_CQ_BASE c.qp * 4096 + 32 * s.rdi .CQ_TAIL c.qp) c.qp (s.rdi .CQ_TAIL c.qp) [c.r0, c.r1, sqeCid c.words + s.rdi .SQ_HEAD c.qp * 2 ^ 16 +
          c.status * 2 ^ 32 + sqeOp c.words * 2 ^ 40 + b2n c.cut * 2 ^ 48, c.qp + s.rdi .CQ_PHASE c.qp * 2 ^ 63]] ∧
      t.dram = s.dram ∧ t.md = s.md) ∧
  (∀ (s : State) (c : Cmd) (q : Nat), s.fli .RESET_BUSY q = true → s.cmd.cmds = [c] → c.qp = q → c.ph = .running →
    c.switched = false → c.escrow = [] → isMetaOp (sqeOp c.words) = false → sqeOp c.words ≠ opStream →
    ∃ t x, exec (.queueResetCut q) s = .next t ∧ t.cmd.cmds = [x] ∧ x.uid = c.uid ∧ x.ph = .finished ∧ x.cut = true ∧
      c.uid ∈ t.cmd.done ∧ (t.qp q).ncut = (s.qp q).ncut + 1 ∧ t.dram = s.dram ∧ t.md = s.md)

/-- READ, SEAL, LOG_READ and NOP. READ of bytes of one line of a page in DRAM delivers them to the buffer; SEAL delivers
their AES-256-GCM ciphertext and tag; LOG_READ delivers whole records of the domain from START_SEQ; NOP completes;
each with its status and results, and nothing else changes. From 06_command_set.md, 15_cipher_and_identity.md,
17_daybook.md. -/
def Obligations.DataCommandsRead : Prop :=
  (∀ (s : State) (c : Cmd) (o : Obj) (la : Nat) (k : Key) (cl : CLine), s.running? c.uid opRead = some c → c.sgl = [] →
    s.cmd.cmds.find? (fun x => x.uid == c.uid) = some c → c.part = 0 → c.fails = 0 →
    OneLine s c.tobj c.tofs (sqeLen c.words) o la k cl →
    ∃ t bytes, exec (.read c.uid [] none) s = .next t ∧ t.ended c 0 (sqeLen c.words) 0 ∧
      t.out = s.out ++ [Msg.dmaBytes c.link c.ld bytes] ∧
      (∀ i, i < sqeLen c.words → (sqeAddr c.words + i, lineByte cl.data (c.tofs % 64 + i)) ∈ bytes) ∧
      Only [.tpe, .waits, .cmd, .out] (cmdFlds c.dom) s t) ∧
  (∀ (s : State) (c : Cmd) (o : Obj) (la : Nat) (k : Key) (cl : CLine), s.running? c.uid opSeal = some c →
    OneLine s c.tobj c.tofs (sqeLen c.words) o la k cl →
    ∃ t x, exec (.seal c.uid [] none) s = .next t ∧ t.ended c 0 (sqeLen c.words + 16) 0 ∧
      x = gcmSeal (toBytes 32 (c.key ^^^ c.mask)) (sqeIv c.words) (sqeAad c.words)
        ((linePart c.tofs (sqeLen c.words) (c.tofs / 64)).map (lineByte cl.data)) ∧
      t.out = s.out ++ [Msg.dmaBytes c.link c.ld ((x.1 ++ x.2).mapIdx fun i b => (sqeAddr c.words + i, b))] ∧
      Only [.tpe, .waits, .cmd, .out] (cmdFlds c.dom) s t) ∧
  (∀ (s : State) (c : Cmd), s.running? c.uid opLog = some c →
    ∃ t w, exec (.logRead c.uid none) s = .next t ∧
      w = s.logWalk c.dom (sqeW c.words 1) (bits (sqeW c.words 3) 0 32) ∧
      t.ended c 0 w.next (w.bytes.length + b2n w.gap * 2 ^ 32) ∧
      t.out = s.out ++ [Msg.dmaBytes c.link c.ld (w.bytes.mapIdx fun i b => (sqeW c.words 2 + i, b))] ∧
      Only [.waits, .cmd, .out] (cmdFlds c.dom) s t) ∧
  (∀ (s : State) (c : Cmd), s.running? c.uid opNop = some c →
    ∃ t, exec (.nop c.uid) s = .next t ∧ t.ended c 0 0 0 ∧ Only [.waits, .cmd] (cmdFlds c.dom) s t)

/-- WRITE, FILL and COPY within one line. WRITE, FILL and COPY of bytes of one cached line merge the bytes named into the
line, complete with their length, charge the code page at most once, and leave every other line. From
06_command_set.md, 07_objects_and_tiers.md, 09_front_cache.md. -/
def Obligations.DataCommandsWrite : Prop :=
  ∀ (s : State) (c : Cmd) (o : Obj) (la : Nat) (k : Key) (cl : CLine) (ofs len obj : Nat) (i : Instr) (byte : Nat → Nat),
    s.cmd.cmds.find? (fun x => x.uid == c.uid) = some c → c.part = 0 → c.fails = 0 → OneLine s obj ofs len o la k cl → Storable s c.dom obj ofs la o cl → s.Inv →
    (s.running? c.uid opWrite = some c ∧ obj = c.tobj ∧ ofs = c.tofs ∧ len = sqeLen c.words ∧
        ∃ data : List Nat, i = .write c.uid data [] [] none ∧ byte = fun x => data.getD (x - ofs) 0) ∨
      (s.running? c.uid opFill = some c ∧ obj = c.tobj ∧ ofs = c.tofs ∧ len = sqeLen c.words ∧
        i = .fill c.uid [] ∧ byte = fun x => bits (sqeAddr c.words) (8 * (x % 8)) 8) ∨
      (s.running? c.uid opCopy = some c ∧ obj = c.tobj2 ∧ ofs = c.tofs2 ∧ len = sqeLen c.words ∧ i = .copy c.uid [] ∧
        ∃ o1 la1 k1 cl1, OneLine s c.tobj c.tofs len o1 la1 k1 cl1 ∧ byte = fun x => s.objByte o1 (x + c.tofs - ofs)) →
    ∃ t, exec i s = .next t ∧ t.ended c 0 len 0 ∧
      mget t.fch.lines k = some (cl.store (lineOfBytes fun b => byte (64 * (ofs / 64) + b))
        (partMask (linePart ofs len (ofs / 64))) false) ∧
      (∀ j, j ≠ k → mget t.fch.lines j = mget s.fch.lines j) ∧
      Only [.md, .stl, .tpe, .fch, .waits, .cmd] ((.FLOAT_PAGES, 0) :: (.CHARGE, c.dom) :: cmdFlds c.dom) s t

/-- Object commands change the ledger as asked. A dispatched OBJ_CREATE that passes its checks enters the new object (its
ID, attributes, size rounded up to 64 KiB and a free run) in the ledger; OBJ_DELETE removes the object and every
window on it; OBJ_RESIZE gives it the new size; OBJ_ATTR its new ATTR. Each ends with STATUS 0 and the results of
Table 06.10. For OBJ_DELETE and a shrink no host copy of the freed pages and no move of the object is left. From
06_command_set.md, 07_objects_and_tiers.md. -/
def Obligations.ObjectCommands : Prop :=
  (∀ (s : State) (c : Cmd), s.running? c.uid opCreate = some c → s.checkCreate c = none →
    ∃ t id base, id = (if sqeObj c.words = 0 then s.pickId else sqeObj c.words) ∧
      s.md.findRun (sizePages c.words) = some base ∧
      exec (.objCreate c.uid) s = .next t ∧ t.ended c 0 id (sizePages c.words * 65536) ∧
      t.md.ledger = mput s.md.ledger (id, 0)
        ⟨createOwner c, 1, sqeAttr c.words, id, sizePages c.words * 65536, base, 0, 0⟩ ∧
      (bit (sqeAttr c.words) 0 = false → t.md.fmap = s.md.fmap) ∧ t.md.wins = s.md.wins) ∧
  (∀ (s : State) (c : Cmd) (o : Obj), s.running? c.uid opDelete = some c →
    s.own? (sqeObj c.words) = some o → s.framesClear (s.rangeFrames o 0 o.pages) = true →
    s.still (sqeObj c.words) → (∀ y ∈ s.tpe.streams, y.uid ≠ c.uid) →
    ∃ t, exec (.objDelete c.uid) s = .next t ∧
      t.ended c 0 (sqeObj c.words) (s.usedPages o 0 o.pages) ∧
      t.md.ledger = mdel s.md.ledger (sqeObj c.words, 0) ∧
      t.md.wins = (s.winsOf (sqeObj c.words)).foldl (fun m e => mdel m e.1) s.md.wins) ∧
  (∀ (s : State) (c : Cmd) (o : Obj) (n : Nat), s.running? c.uid opResize = some c →
    s.own? (sqeObj c.words) = some o → n = sizePages c.words →
    ((n ≤ o.pages ∧ s.framesClear (s.rangeFrames o n (o.pages - n)) = true ∧ s.still (sqeObj c.words) ∧
        ∀ y ∈ s.tpe.streams, y.uid ≠ c.uid) ∨
      (o.pages < n ∧ s.checkResize c o = none)) →
    ∃ t o', exec (.objResize c.uid) s = .next t ∧
      t.ended c 0 (n * 65536) (if n ≤ o.pages then s.usedPages o n (o.pages - n) else 0) ∧
      t.md.ledger = mput s.md.ledger (sqeObj c.words, 0) o' ∧ o'.size = n * 65536 ∧ o'.attr = o.attr ∧
      o'.owner = o.owner ∧ o'.holdMap = o.holdMap) ∧
  (∀ (s : State) (c : Cmd) (o : Obj) (a : Nat), s.running? c.uid opAttr = some c →
    s.own? (sqeObj c.words) = some o → s.checkAttr c o = none → s.still (sqeObj c.words) →
    a = newAttr o (sqeAttr c.words) (sqeMaskBits c.words) →
    ∃ t, exec (.objAttr c.uid) s = .next t ∧ t.ended c 0 a 0 ∧
      t.md.ledger = mput s.md.ledger (sqeObj c.words, 0) { o with attr := a })

/-- Window and placement commands. WINDOW_MAP that passes its checks enters the window and counts it in WIN_CNT;
WINDOW_UNMAP removes it once no host copy is left. PLACE of one page in no tier but T1 queues its promotion, a PLACE
of a resident page to T2 queues its demotion. HOLD sets the domain's hold bit and counts the pages queued and
resident; RELEASE drops the hold and returns the holds left. Each ends with STATUS 0. From 06_command_set.md,
07_objects_and_tiers.md, 08_page_movement.md. -/
def Obligations.WindowAndPlacementCommands : Prop :=
  (∀ (s : State) (c : Cmd) (o : Obj) (w : Win) (k : Key), s.running? c.uid opMap = some c →
    s.own? (sqeObj c.words) = some o → s.checkMap c o = none →
    k = (ldIx (winTarget c).1 (winTarget c).2, winDpa c / 65536) →
    w = ⟨bit (sqeW c.words 1) 40, sqeObj c.words, bits (sqeW c.words 5) 0 48 / 65536, sqeOfs c.words / 65536⟩ →
    ∃ t, exec (.windowMap c.uid) s = .next t ∧ t.ended c 0 (winDpa c) (bits (sqeW c.words 5) 0 48) ∧
      t.md.wins = mput s.md.wins k w ∧
      t.md.ledger = mput s.md.ledger (sqeObj c.words, 0) { o with winCnt := o.winCnt + 1 } ∧ t.md.fmap = s.md.fmap) ∧
  (∀ (s : State) (c : Cmd) (o : Obj) (w : Win) (k : Key), s.running? c.uid opUnmap = some c →
    s.own? (sqeObj c.words) = some o → k = (ldIx (winTarget c).1 (winTarget c).2, winDpa c / 65536) →
    mget s.md.wins k = some w → w.obj = sqeObj c.words → s.framesClear (s.winFrames k w) = true →
    ∃ t, exec (.windowUnmap c.uid) s = .next t ∧ t.ended c 0 (winDpa c) (w.wlen * 65536) ∧
      t.md.wins = mdel s.md.wins k ∧
      t.md.ledger = mput s.md.ledger (sqeObj c.words, 0) { o with winCnt := o.winCnt - 1 } ∧ t.md.fmap = s.md.fmap) ∧
  (∀ (s : State) (c : Cmd) (o : Obj) (tp : Nat), s.running? c.uid opPlace = some c →
    s.own? (sqeObj c.words) = some o → s.checkPlace c o = none → sqeTier c.words = 1 → placePages c = [tp] →
    s.still (sqeObj c.words) → (s.mapE (o.mapBase + tp)).st ≠ .t1 →
    ∃ t, exec (.place c.uid) s = .next t ∧ t.ended c 0 1 0 ∧ t.md = s.md ∧
      t.tpe.moves = s.tpe.moves ++ [⟨s.tpe.moveId, sqeObj c.words, tp, .place, [], .queued,
        (s.mapE (o.mapBase + tp)).st, .t1, 0, c.dom, s.nowUs + s.rd .PLACE_DL_US, false, false, false⟩]) ∧
  (∀ (s : State) (c : Cmd) (o : Obj) (tp : Nat), s.running? c.uid opPlace = some c →
    s.own? (sqeObj c.words) = some o → s.checkPlace c o = none → sqeTier c.words = 2 → placePages c = [tp] →
    s.still (sqeObj c.words) → (s.mapE (o.mapBase + tp)).st = .t1 → o.persist = true → o.lowest ≠ 1 → o.holdMap = 0 →
    ∃ t, exec (.place c.uid) s = .next t ∧ t.ended c 0 1 0 ∧ t.md = s.md ∧
      t.tpe.moves = s.tpe.moves ++ [⟨s.tpe.moveId, sqeObj c.words, tp, .place, [], .queued, .t1, .t2, 0, c.dom,
        s.nowUs + s.rd .PLACE_DL_US, false, false, false⟩]) ∧
  (∀ (s : State) (c : Cmd) (o : Obj) (q h : Nat), s.running? c.uid opHold = some c →
    s.own? (sqeObj c.words) = some o → s.checkHold c o = none → bit o.holdMap c.dom = false →
    s.still (sqeObj c.words) →
    q = ((List.range o.pages).filter fun tp => (s.mapE (o.mapBase + tp)).st != .t1).length →
    h = ((List.range o.pages).filter fun tp => (s.mapE (o.mapBase + tp)).st == .t1).length →
    ∃ t, exec (.hold c.uid) s = .next t ∧ t.ended c 0 (q % 2 ^ 32 + h % 2 ^ 32 * 2 ^ 32) 0 ∧
      t.tpe.moves.length = s.tpe.moves.length + q ∧
      t.md.ledger = mput s.md.ledger (sqeObj c.words, 0) { o with holdMap := setBit o.holdMap c.dom true }) ∧
  (∀ (s : State) (c : Cmd) (o : Obj), s.running? c.uid opRelease = some c →
    s.own? (sqeObj c.words) = some o → bit o.holdMap c.dom = true →
    ∃ t, exec (.release c.uid) s = .next t ∧ t.ended c 0 (popCount (setBit o.holdMap c.dom false) 256) 0 ∧
      t.md.ledger = mput s.md.ledger (sqeObj c.words, 0) { o with holdMap := setBit o.holdMap c.dom false })

/-- Streams, SETTLE and the two commands that write whole pages or opened text. STREAM_POST with a list that passes its
checks is accepted and enters the stream with its entries; STREAM_CANCEL ends with the moves and pages it cancelled
and leaves no unbegun move of the stream. SETTLE without AFTER_PRIOR ends with STATUS 2 where there is no twin.
WRITE_ATOMIC of one whole page of an unmirrored volatile object takes a new frame that holds the new data and ends
with 16 code pages and 1 page. UNSEAL whose tag matches stores the opened text and ends with its length; with a tag
that does not match it ends with STATUS 0x31 and detail 0x38 and writes nothing. From 06_command_set.md, 08_page_movement.md,
02_persistence_model.md. -/
def Obligations.StreamAndSettleCommands : Prop :=
  (∀ (s : State) (c : Cmd) (list : List (List Nat)) (es : List SEnt), s.running? c.uid opStream = some c →
    c.accepted = false → s.stream? c.dom (sqeSid c.words) = none →
    es = (List.range (bits (sqeW c.words 1) 48 16)).map (fun i => schedEntry (list.getD i []) s.nowUs) →
    s.checkList c.dom 0 es = none →
    ∃ t, exec (.streamPost c.uid false list) s = .next t ∧
      t.tpe.streams = s.tpe.streams ++ [⟨c.dom, sqeSid c.words, c.uid, es, [], 0, 0, 0, 0, none⟩] ∧
      t.tpe.moves = s.tpe.moves ∧ (∃ x ∈ t.cmd.cmds, x.uid = c.uid ∧ x.accepted = true ∧ x.ph = .running)) ∧
  (∀ (s : State) (c : Cmd) (x : Stream) (n : Nat), s.running? c.uid opCancel = some c →
    s.stream? c.dom (sqeSid c.words) = some x → (∀ y ∈ s.tpe.streams, y.uid ≠ c.uid) →
    n = (s.tpe.moves.filter fun m => m.st == .queued && m.streams.contains (c.dom, sqeSid c.words)).length +
      ((x.ents.filter fun e => !e.started).map (·.pages)).foldl (· + ·) 0 →
    ∃ t, exec (.streamCancel c.uid) s = .next t ∧ t.ended c 0 n 0 ∧
      (∀ m ∈ t.tpe.moves, m.st = .queued → (c.dom, sqeSid c.words) ∉ m.streams)) ∧
  (∀ (s : State) (c : Cmd), s.running? c.uid opSettle = some c → c.accepted = false →
    bit (sqeW c.words 1) 0 = false → s.rd .STATE = mirNoTwin → s.mir.opn = [] →
    ∃ t, exec (.settle c.uid) s = .next t ∧ (∀ f ∈ t.fences, f ∈ s.fences) ∧
      ∃ x ∈ t.cmd.cmds, x.uid = c.uid ∧ x.ph = .finished ∧ x.status = 2 ∧ x.r0 = s.rd .SSN_ISSUED) ∧
  (∀ (s : State) (c : Cmd) (o : Obj) (tp f : Nat) (data : List Nat), s.running? c.uid opAtomic = some c →
    s.own? c.tobj = some o → o.persist = false → o.mirror = false → c.tofs = tp * 65536 → sqeLen c.words = 65536 →
    (s.mapE (o.mapBase + tp)).st = .t1 → s.pageHeld c.tobj tp (o.mapBase + tp) = none → s.still c.tobj →
    s.canJournal = true → s.rd .FREE_FRAMES ≠ 0 → s.framesClear [(s.mapE (o.mapBase + tp)).frame] = true →
    s.fillsOn (s.mapE (o.mapBase + tp)).frame = false → f = s.nextFrame → f ≠ (s.mapE (o.mapBase + tp)).frame → (∀ w ∈ s.waits, w.why ≠ .atomic) → s.Inv →
    ∃ t, exec (.writeAtomic c.uid data [] false) s = .next t ∧ t.ended c 0 16 1 ∧
      (t.mapE (o.mapBase + tp)).st = .t1 ∧ (t.mapE (o.mapBase + tp)).frame = f ∧
      ∀ j, j < 1024 → t.dline (1024 * f + j) = ⟨lineOfBytes fun b => data.getD (64 * j + b) 0, .good⟩) ∧
  (∀ (s : State) (c : Cmd) (o : Obj) (data : List Nat), s.running? c.uid opUnseal = some c →
    s.own? c.tobj = some o → c.escrow = [] → (pagesOf c.tofs (sqeLen c.words)).length ≤ s.rd .FREE_FRAMES →
    gcmOpen (toBytes 32 (c.key ^^^ c.mask)) (sqeIv c.words) (sqeAad c.words) (data.take (sqeLen c.words))
      ((data.drop (sqeLen c.words)).take 16) = none →
    ∃ t, exec (.unseal c.uid data [] false) s = .next t ∧ t.ended c 0x31 0 0x38 ∧ t.dram = s.dram ∧ t.fch = s.fch) ∧
  (∀ (s : State) (c : Cmd) (o : Obj) (la : Nat) (k : Key) (cl : CLine) (data text : List Nat),
    s.running? c.uid opUnseal = some c → s.cmd.cmds.find? (fun x => x.uid == c.uid) = some c → c.part = 0 →
    c.fails = 0 → c.escrow = [] → s.rd .FREE_FRAMES ≠ 0 → OneLine s c.tobj c.tofs (sqeLen c.words) o la k cl →
    Storable s c.dom c.tobj c.tofs la o cl → s.Inv →
    gcmOpen (toBytes 32 (c.key ^^^ c.mask)) (sqeIv c.words) (sqeAad c.words) (data.take (sqeLen c.words))
      ((data.drop (sqeLen c.words)).take 16) = some text →
    ∃ t, exec (.unseal c.uid data [] false) s = .next t ∧ t.ended c 0 (sqeLen c.words) 0 ∧
      mget t.fch.lines k = some (cl.store (lineOfBytes fun b => text.getD (64 * (c.tofs / 64) + b - c.tofs) 0)
        (partMask (linePart c.tofs (sqeLen c.words) (c.tofs / 64))) false) ∧
      (∀ j, j ≠ k → mget t.fch.lines j = mget s.fch.lines j))

/-- How a promotion ends. When the data of a demand fetch, a zero fill or an installed move is there, its page is T1 in
the frame the move took, the frame holds what home or vault held, and the move is gone. The data of any other
promotion puts it in INSTALL. A failed T3 fetch leaves the page in T3 without a frame and no request waiting for it.
From 08_page_movement.md, 07_objects_and_tiers.md. -/
def Obligations.PromotionsEnd : Prop :=
  (∀ (s : State) (m : Move) (obj tp us ix : Nat), s.Inv → s.draining = false → s.moveIn obj tp .load = some m →
    m.src = .demand → m.src0 = .t2 → m.orphan = false → ix = s.moveIx m → (∀ w ∈ s.waits, w.why ≠ .page) →
    s.mir.held = [] → s.fl .RESYNC_BUSY = false → us < 2 ^ 32 →
    ∃ t, exec (.demandFetchDone obj tp us [] [] [] []) s = .next t ∧ (t.mapE ix).st = .t1 ∧
      (t.mapE ix).frame = (s.mapE ix).frame ∧ (∀ x ∈ t.tpe.moves, x.id ≠ m.id) ∧
      t.rd .DF_MAX_US = max (s.rd .DF_MAX_US) us ∧
      ∀ k j d, k < 16 → j < 64 → s.coldCp obj tp (s.mapE ix) k = [(j, d)] →
        t.dline (1024 * m.frame + 64 * k + j) = d) ∧
  (∀ (s : State) (m : Move) (obj tp us ix : Nat) (i : Instr), s.draining = false → m.orphan = false → ix = s.moveIx m →
    (tp < 2 ^ 32 ∧ i = .zeroFillDone obj (tp + 2 ^ 32 * us) ∧ s.moveIn obj tp .load = some m ∧ m.src0 = .zero) ∨
      (i = .moveInstallDone obj tp ∧ s.moveIn obj tp .install = some m) →
    (∀ w ∈ s.waits, w.why ≠ .page) → s.mir.held = [] → s.fl .RESYNC_BUSY = false →
    ∃ t, exec i s = .next t ∧ (t.mapE ix).st = .t1 ∧ (t.mapE ix).frame = (s.mapE ix).frame ∧ t.dram = s.dram ∧
      ∀ x ∈ t.tpe.moves, x.id ≠ m.id) ∧
  (∀ (s : State) (m : Move) (obj tp ix : Nat), s.Inv → s.draining = false → s.moveIn obj tp .load = some m →
    m.src ≠ .demand → m.src0 = .t2 → m.orphan = false → ix = s.moveIx m →
    ∃ t, exec (.moveLoadDone obj tp [] [] [] []) s = .next t ∧
      t.tpe.moves = s.tpe.moves.map (fun x => if x.id = m.id then { x with st := .install } else x) ∧ t.md = s.md ∧
      ∀ k j d, k < 16 → j < 64 → s.coldCp obj tp (s.mapE ix) k = [(j, d)] →
        t.dline (1024 * m.frame + 64 * k + j) = d) ∧
  (∀ (s : State) (m : Move) (obj tp ix : Nat), s.draining = false → s.moveIn obj tp .load = some m → m.src0 = .t3 →
    m.orphan = false → ix = s.moveIx m → (∀ w ∈ s.waits, ∀ c p, w.ent ≠ .rdma c p) →
    ∃ t, exec (.t3FetchFail obj tp) s = .next t ∧ (t.mapE ix).st = .t3 ∧ (t.mapE ix).frame = 0 ∧
      (∀ x ∈ t.tpe.moves, x.id ≠ m.id) ∧
      ∀ w ∈ t.waits, ¬(w.obj = obj ∧ w.tp = tp ∧ w.why = .page))

/-- How a demotion ends. With no host copy left, a demotion to T2 ends: the page is in T2 without a frame, the frame is
free again and the move gone. A demotion to a reachable T3 slot sends the page and goes on to UNLOAD; the zero-length
read that comes back ends it in T3, a failed write leaves the page in T1. From 08_page_movement.md,
07_objects_and_tiers.md. -/
def Obligations.DemotionsEnd : Prop :=
  (∀ (s : State) (m : Move) (obj tp ix : Nat) (f : Frame), s.Inv → s.draining = false →
    s.moveIn obj tp .clean = some m → s.noCopies m.frame = true → m.orphan = false → m.dest = .t2 → ix = s.moveIx m →
    s.fillsOn m.frame = false → s.frame? m.frame = some f → s.int.retire = [] → s.rd .FREE_FRAMES + 1 < 2 ^ 28 →
    (∀ w ∈ s.waits, w.why ≠ .page) → s.mir.held = [] → s.fl .RESYNC_BUSY = false →
    ∃ t, exec (.moveCleanDone obj tp) s = .next t ∧ (t.mapE ix).st = .t2 ∧ (t.mapE ix).frame = 0 ∧
      t.tpe.frames = mdel s.tpe.frames (m.frame, 0) ∧ t.rd .FREE_FRAMES = s.rd .FREE_FRAMES + 1 ∧
      (∀ x ∈ t.tpe.moves, x.id ≠ m.id) ∧ ∀ e ∈ t.dram, e.1.1 ≠ m.frame) ∧
  (∀ (s : State) (m : Move) (obj tp : Nat) (e : MapE), s.draining = false → s.moveIn obj tp .clean = some m →
    s.noCopies m.frame = true → m.orphan = false → m.dest = .t3 → e = s.mapE (s.moveIx m) → s.slotLive e = true →
    s.fl .FLIP_ARM = false → s.fch.lines = [] → s.fch.mrs = [] → s.fch.mq = [] → (∀ x ∈ s.dram, x.2.st = .good) →
    ∃ t, exec (.moveCleanDone obj tp) s = .next t ∧ t.md = s.md ∧
      t.tpe.moves = s.tpe.moves.map (fun x => if x.id = m.id then { x with st := .unload } else x) ∧
      t.out = s.out ++ [Msg.dmaPage e.t3Link e.t3Ld e.t3Addr ((s.dram.filter fun x => x.1.1 == m.frame).map fun x =>
        (x.1.2, (s.cipherLine (1024 * m.frame + x.1.2)).toNat)), .zeroRead e.t3Link e.t3Ld e.t3Addr]) ∧
  (∀ (s : State) (m : Move) (obj tp ix : Nat), s.draining = false → s.moveIn obj tp .unload = some m →
    m.orphan = false → m.dest = .t3 → ix = s.moveIx m → (∀ w ∈ s.waits, w.why ≠ .page) → s.mir.held = [] →
    s.fl .RESYNC_BUSY = false →
    (s.slotLive (s.mapE ix) = true → ∃ t, exec (.moveUnloadDone obj tp true) s = .next t ∧ (t.mapE ix).st = .t3 ∧
      (t.mapE ix).frame = 0 ∧ ∀ x ∈ t.tpe.moves, x.id ≠ m.id) ∧
    ∃ t, exec (.moveUnloadDone obj tp false) s = .next t ∧ (t.mapE ix).st = .t1 ∧
      (t.mapE ix).frame = (s.mapE ix).frame ∧ t.dram = s.dram ∧ ∀ x ∈ t.tpe.moves, x.id ≠ m.id)

/-- Which moves begin, and the reports of the frame pool. A queued demand fetch, and a queued placement promotion that may
go, take the lowest free frame and load; a stream's next entry queues its page's promotion with the entry's deadline.
A fetch over its bound sets OVER_BOUND, a dry pool POOL_DRY and the TPE alert. A residency checkpoint lists the
resident pages; a compaction step moves 4,096 entries of a run down, and the last step the run; a write of TPE_CNT2
clears DF_MAX_US. From
08_page_movement.md, 07_objects_and_tiers.md. -/
def Obligations.MovesBegin : Prop :=
  (∀ (s : State) (m : Move) (ix : Nat) (ws : List (List Nat)), s.Inv → s.draining = false → s.tpe.moves = [m] →
    m.st = .queued → m.dest = .t1 → s.tpe.streams = [] → s.int.retire = [] → s.rd .DF_RESERVE < 4096 →
    0 < s.rd .FREE_FRAMES → m.src = .demand ∨ (m.src = .place ∧ s.judge m = .go ∧ s.rd .FREE_LOW ≤ s.rd .FREE_FRAMES) →
    ix = ((s.obj? m.obj).map (·.mapBase)).getD 0 + m.tp →
    ∃ t, exec (.moveBegin ws) s = .next t ∧
      t.tpe.moves = [{ m with st := .load, src0 := (s.mapE ix).st, frame := s.nextFrame, aside := false }] ∧
      (t.mapE ix).st = .fetching ∧ (t.mapE ix).frame = s.nextFrame ∧
      t.rd .FREE_FRAMES = s.rd .FREE_FRAMES - 1 ∧ (t.frame? s.nextFrame).map (·.obj) = some m.obj) ∧
  (∀ (s : State) (d sid : Nat) (x : Stream) (e : SEnt) (o : Obj), s.draining = false → s.tpe.streams = [x] →
    x.dom = d → x.sid = sid → x.ents = [e] → e.started = false → e.demote = false → e.pages = 1 →
    s.own? e.obj = some o → e.ofs / 65536 < o.pages → s.wantT1 e.obj o (e.ofs / 65536) = .move →
    ∃ t, exec (.streamEntryStart d sid) s = .next t ∧
      t.tpe.moves = s.tpe.moves ++ [⟨s.tpe.moveId, e.obj, e.ofs / 65536, .stream d sid 0, [], .queued,
        (s.mapE (o.mapBase + e.ofs / 65536)).st, .t1, 0, d, e.deadline, false, false, false⟩] ∧
      t.tpe.streams = [{ x with ents := [{ e with started := true }] }]) ∧
  (∀ (s : State) (obj tp : Nat) (m : Move), s.Inv → s.moveOf obj tp = some m → m.src = .demand →
    ∃ t, exec (.overBound obj tp) s = .next t ∧ t.fl .OVER_BOUND = true ∧ t.tpe = s.tpe) ∧
  (∀ s : State, s.Inv → s.fl .POOL_DRY = false → s.rd .FREE_FRAMES = 0 →
    s.tpe.moves.any s.frameWait = true ∨ s.waits.any (fun w => w.why == .frame) = true →
    ∃ t, exec .poolDry s = .next t ∧ t.fl .POOL_DRY = true ∧ bit (t.rd .ALERT_CAUSE) blkTPE = true) ∧
  (∀ s : State, s.draining = false →
    exec .residencyCheckpoint s = .next { s with tpe := { s.tpe with
      ckpt := (s.tpe.frames.filter fun e => decide (e.2.use = 1 ∨ e.2.use = 3)).map fun e =>
        Resid.mk e.2.obj e.2.tp e.2.age e.2.acct } }) ∧
  (∀ (s : State) (id : Nat) (o : Obj), s.draining = false → s.canJournal = true → s.md.ledger = [((id, 0), o)] →
    0 < o.pages → o.pages ≤ mapEntries → 0 < o.mapBase →
    (o.pages ≤ 4096 → ∃ t, exec .runCompactionStep s = .next t ∧ t.obj? id = some { o with mapBase := 0 } ∧
      (∀ tp, tp < o.pages → t.mapE tp = s.mapE (o.mapBase + tp)) ∧ t.dram = s.dram) ∧
    (4096 < o.pages → s.tpe.compact = none → ∃ t, exec .runCompactionStep s = .next t ∧
      t.tpe.compact = some (id, 0, 4096) ∧ t.md = s.md ∧ t.dram = s.dram)) ∧
  (∀ s : State, s.Inv → s.draining = false → ∃ t, exec .tpeCnt2Write s = .next t ∧ t.rd .DF_MAX_US = 0)

/-- An eviction's write and a fill. The queued write of an evicted line reaches DRAM, as a write of the
front cache in the register's class that asks for a DRAM queue entry, and frees its miss register. A fill
that decodes GOOD installs the line in a way of its set and answers the load that waited, and the register is free.
From 09_front_cache.md, 10_dram_controller.md, 12_data_integrity.md. -/
def Obligations.CacheMisses : Prop :=
  (∀ (s : State) (la : Nat) (k : Key) (m : MissReg), s.Inv → s.draining = false → s.fch.mrs = [(k, m)] → m.la = la →
    m.st = .evict → m.reqs = [] → s.fch.mq = [] →
    ∃ t, exec (.missEvictQueued la []) s = .next t ∧ t.dline la = m.out ∧ t.fch.mrs = [] ∧
      t.fch.lines = s.fch.lines ∧ t.drc.fabric = s.drc.fabric ++ [⟨la, 1, true, .fch, m.cls, 0, false⟩] ∧ ∀ x, x ≠ la → t.dline x = s.dline x) ∧
  (∀ (s : State) (la : Nat) (k : Key) (m : MissReg) (r : HostReq), s.draining = false → poolBase ≤ la / 1024 →
    s.fch.mrs = [(k, m)] → m.la = la → m.st = .fill → m.reqs = [⟨.host r, false, 0, 0, false⟩] → s.fch.mq = [] →
    s.fch.lines = [] → s.candidates (s.sliceOf la) m.obj m.tp ≠ [] → s.int.ladders = [] → s.rowFenced la = false →
    (∀ y ∈ s.fch.snoops, y.ans = false) →
    s.fl .FLIP_ARM = false → (s.dline la).st = .good → s.mute r.link = false →
    ∃ t w v, exec (.missFillReturn la [] [] [] true []) s = .next t ∧
      t.fch.lines = [((4096 * s.sliceOf la + setOf la, w), ⟨la, m.obj, m.tp, false, false, (s.dline la).data⟩)] ∧
      t.fch.mrs = [] ∧ t.out = s.out ++ [Msg.cxlData r.link r.ld r.tag (s.dline la).data false v])

/-- Gating way groups and disabling slices. A PG_REQ write that takes a group away starts its clean unless an enabled lock
names its ways; the clean's end gates the group; GRP_INV clears a gated group's arrays, after which PG_REQ may enable
it, and before which it is refused with PG_ERR. SLICE_DIS_REQ makes a slice busy while 8 slices would be left, else
PG_ERR; the flush's end leaves no line of the slice and lowers DRAIN_FIXED_US. From 09_front_cache.md. -/
def Obligations.WayGroupsAndSlices : Prop :=
  (∀ (s : State) (sl v g : Nat), s.Inv → s.draining = false → sl < 16 → g ∈ [1, 2, 3] →
    (∀ h ∈ [1, 2, 3], h ≠ g → bit v h = bit (s.rdi .PG_REQ sl) h) → s.underMarch sl g = false →
    bit (s.rdi .PG_REQ sl) g = true → bit v g = false → groupHit s.lockedWays g = false →
    ∃ t, exec (.pgReqWrite sl v) s = .next t ∧ bit (t.rdi .PG_REQ sl) g = false ∧
      bit (t.rdi .PG_BUSY sl) g = true ∧ t.fl .PG_ERR = s.fl .PG_ERR) ∧
  (∀ (s : State) (sl v g : Nat), s.Inv → s.draining = false → sl < 16 → g ∈ [1, 2, 3] →
    (∀ h ∈ [1, 2, 3], h ≠ g → bit v h = bit (s.rdi .PG_REQ sl) h) → s.underMarch sl g = false →
    bit (s.rdi .PG_REQ sl) g = false → bit v g = true → bit (s.rdi .PG_STATE sl) g = false →
    (bit (s.rdi .INV_DONE sl) g = true → ∃ t, exec (.pgReqWrite sl v) s = .next t ∧
      bit (t.rdi .PG_REQ sl) g = true ∧ bit (t.rdi .PG_STATE sl) g = true ∧ bit (t.rdi .INV_DONE sl) g = false) ∧
    (bit (s.rdi .INV_DONE sl) g = false → ∃ t, exec (.pgReqWrite sl v) s = .next t ∧
      bit (t.rdi .PG_REQ sl) g = false ∧ t.fl .PG_ERR = true)) ∧
  (∀ (s : State) (sl g : Nat) (k : Key) (c : CLine), s.Inv → s.draining = false →
    bit (s.rdi .PG_BUSY sl) g = true → bit (s.rdi .PG_REQ sl) g = false → g < 4 → s.fch.lines = [(k, c)] →
    k.1 / 4096 = sl → k.2 / 6 = g → c.dirty = true →
    ∃ t, exec (.wayGroupCleanDone sl g) s = .next t ∧ bit (t.rdi .PG_STATE sl) g = false ∧
      bit (t.rdi .PG_BUSY sl) g = false ∧ t.fch.lines = [] ∧ t.dline c.la = c.stored) ∧
  (∀ (s : State) (sl v g : Nat), s.Inv → s.draining = false → sl < 16 → g ∈ [1, 2, 3] → bit v g = true →
    s.bst.test ≠ 5 → bit (s.rdi .PG_STATE sl) g = false →
    ∃ t, exec (.grpInv sl v) s = .next t ∧ bit (t.rdi .INV_DONE sl) g = true ∧ t.rdi .PG_STATE sl = s.rdi .PG_STATE sl) ∧
  (∀ (s : State) (i : Nat), s.Inv → s.draining = false → i < 16 → bit (s.rd .SLICE_EN) i = true →
    bit (s.rd .SLICE_BUSY) i = false →
    (8 < s.slicesLeft → ∃ t, exec (.sliceDisReq (2 ^ i)) s = .next t ∧ bit (t.rd .SLICE_BUSY) i = true ∧
      t.fl .PG_ERR = s.fl .PG_ERR) ∧
    (s.slicesLeft ≤ 8 → ∃ t, exec (.sliceDisReq (2 ^ i)) s = .next t ∧ t.rd .SLICE_BUSY = s.rd .SLICE_BUSY ∧
      t.fl .PG_ERR = true)) ∧
  (∀ (s : State) (sl : Nat), s.Inv → s.draining = false → sl < 16 → bit (s.rd .SLICE_BUSY) sl = true →
    (∀ e ∈ s.fch.mrs, e.1.1 ≠ sl) → (∀ w ∈ s.waits, w.why ≠ .slice) →
    ∃ t, exec (.sliceFlushDone sl) s = .next t ∧ bit (t.rd .SLICE_EN) sl = false ∧
      bit (t.rd .SLICE_BUSY) sl = false ∧ t.rd .DRAIN_FIXED_US = drainFixed (popCount (t.rd .SLICE_EN) 16) ∧
      (mwf s.fch.lines = true → ∀ e ∈ t.fch.lines, e.1.1 / 4096 ≠ sl))

/-- Lock entries and the registers that a write restarts. A write of FCH_LOCK_OBJ with ways of powered groups enters the
object, the ways and LOCK_EN; while LOCK_EN is 1 a change of another field is ignored and sets LOCK_ERR. A write of
FCH_SL_STATE and of PRT_BENCH restarts the peak at the present value. From 09_front_cache.md, 04_fabric_ports.md. -/
def Obligations.LockEntriesAndPeaks : Prop :=
  (∀ (s : State) (k v : Nat), s.Inv → s.draining = false → k < 16 → s.fli .LOCK_EN k = false → bits v 32 8 ≠ 0 →
    bit v 40 = true → (∀ sl, sl < 16 → ∀ g ∈ [1, 2, 3], bit (s.rdi .PG_STATE sl) g = true) →
    ∃ t, exec (.lockEntryWrite k false v) s = .next t ∧ t.rdi .OBJ_ID k = bits v 0 32 ∧
      t.rdi .WAYS k = bits v 32 8 ∧ t.fli .LOCK_EN k = true) ∧
  (∀ (s : State) (k v : Nat), s.Inv → s.draining = false → k < 16 → s.fli .LOCK_EN k = true →
    bits v 0 32 ≠ s.rdi .TP_FIRST k →
    ∃ t, exec (.lockEntryWrite k true v) s = .next t ∧ t.fl .LOCK_ERR = true ∧
      t.rdi .TP_FIRST k = s.rdi .TP_FIRST k ∧ t.rdi .TP_LAST k = s.rdi .TP_LAST k) ∧
  (∀ (s : State) (sl : Nat), s.Inv → s.draining = false → sl < 16 → s.mrUsed sl ≤ 128 →
    ∃ t, exec (.fchSlStateWrite sl) s = .next t ∧ t.rdi .MR_PEAK sl = s.mrUsed sl) ∧
  (∀ (s : State) (link : Nat), s.Inv → s.draining = false → link < 8 →
    ∃ t, exec (.prtBenchWrite link) s = .next t ∧ t.rdi .BENCH_PEAK link = s.rdi .BENCH_USED link)

/-- Refresh debts, forced refreshes and neighbour refreshes. On a serving channel a refresh that falls due with traffic
raises its rank's debt by one, up to 8, and an idle rank's debt becomes 0; at a debt of 8 a forced refresh leaves 7
and counts; a sampled row's neighbour refresh is pending and counts. No other rank's debt changes. From
10_dram_controller.md. -/
def Obligations.RefreshesAndNeighbours : Prop :=
  (∀ (s : State) (ch rank : Nat) (busy : Bool), s.Inv → s.chLive ch = true → rank < s.rd .RANKS → rank < 4 →
    ∃ t, exec (.refreshDue ch rank busy) s = .next t ∧
      t.refDebt ch rank = (if busy then min 8 (s.refDebt ch rank + 1) else 0) ∧
      ∀ r, r < 4 → r ≠ rank → t.refDebt ch r = s.refDebt ch r) ∧
  (∀ (s : State) (ch rank : Nat), s.Inv → s.chLive ch = true → rank < 4 → s.refDebt ch rank = 8 →
    ∃ t, exec (.forcedRefresh ch rank) s = .next t ∧ t.refDebt ch rank = 7 ∧
      t.rdi .REF_FORCED_CNT ch = min (2 ^ 32 - 1) (s.rdi .REF_FORCED_CNT ch + 1) ∧
      ∀ r, r < 4 → r ≠ rank → t.refDebt ch r = s.refDebt ch r) ∧
  (∀ (s : State) (ch rank : Nat), s.Inv → s.chLive ch = true → rank < s.rd .RANKS → s.nrPending ch rank < 8 →
    mwf s.drc.nr = true →
    ∃ t, exec (.neighbourRefresh ch rank) s = .next t ∧ t.nrPending ch rank = s.nrPending ch rank + 1 ∧
      t.rdi .NR_CNT ch = min (2 ^ 32 - 1) (s.rdi .NR_CNT ch + 1))

/-- DIMM temperature, eye tracking and retrain requests. A DIMM above 85 °C is refreshed hot, one below 83 °C is not, and
DIMM_TEMP_C holds the hottest DIMM of the channel. READ_EYE_WINDOW moves RD_OFS one step toward the side whose count
is larger by more than 16 over twice the other, and counts; an offset beyond RD_LIMIT sets LIMIT_HIT and asks for a
sliced retrain. A write-tracking slice moves WR_OFS at most two steps to the drift. RETRAIN makes the lane busy. From
10_dram_controller.md. -/
def Obligations.EyesAndTemperatures : Prop :=
  (∀ (s : State) (ch a : Nat), s.Inv → bit (s.rd .CH_ACTIVE) ch = true → s.rd .RANKS = 2 → a < 256 → ¬(83 ≤ a ∧ a ≤ 85) →
    ∃ t, exec (.dimmThermalPoll ch [a]) s = .next t ∧ t.rdi .DIMM_TEMP_C ch = a ∧
      bit (t.rdi .HOT ch) 0 = decide (85 < a) ∧ bit (t.rdi .HOT ch) 1 = decide (85 < a) ∧
      (95 < a → s.drc.hotDimm.contains (2 * ch) = false →
        t.fli .HOT_ALERT ch = true ∧ bit (t.rd .ALERT_CAUSE) blkDRC = true)) ∧
  (∀ (s : State) (ch lane e u : Nat) (o : Int), s.Inv → s.chLive ch = true → lane < 20 →
    o = sgn8 (s.rdi .RD_OFS (laneIx ch lane)) → -128 < o → o < 127 →
    ∃ t, exec (.readEyeWindow ch lane e u) s = .next t ∧
      (2 * u + 16 < e → sgn8 (t.rdi .RD_OFS (laneIx ch lane)) = o + 1) ∧
      (2 * e + 16 < u → sgn8 (t.rdi .RD_OFS (laneIx ch lane)) = o - 1) ∧
      (e ≤ 2 * u + 16 → u ≤ 2 * e + 16 → sgn8 (t.rdi .RD_OFS (laneIx ch lane)) = o ∧
        t.rdi .RD_ADJ_CNT ch = s.rdi .RD_ADJ_CNT ch) ∧
      (2 * u + 16 < e → t.rdi .RD_ADJ_CNT ch = min (2 ^ 32 - 1) (s.rdi .RD_ADJ_CNT ch + 1)) ∧
      (s.rd .RD_LIMIT < (sgn8 (t.rdi .RD_OFS (laneIx ch lane))).natAbs →
        t.fli .LIMIT_HIT ch = true ∧ t.fli .RETRAIN_BUSY (laneIx ch lane) = true)) ∧
  (∀ (s : State) (ch rank lane : Nat) (d o : Int), s.Inv → s.draining = false → s.chLive ch = true →
    rank < s.rd .RANKS → s.refDebt ch rank < 7 → s.nrPending ch rank = 0 → lane < 20 →
    o = sgn8 (s.rdi .WR_OFS (laneIx ch lane)) → -127 ≤ d → d ≤ 127 →
    ∃ t, exec (.writeTrackingSlice ch rank [(lane, d)]) s = .next t ∧
      sgn8 (t.rdi .WR_OFS (laneIx ch lane)) = (if o < d then min d (o + 2) else max d (o - 2)) ∧
      (s.rd .WR_LIMIT < d.natAbs → t.fli .LIMIT_HIT ch = true ∧ t.fli .RETRAIN_BUSY (laneIx ch lane) = true)) ∧
  (∀ (s : State) (ch lane : Nat), s.Inv → s.draining = false → s.chLive ch = true → lane < 20 →
    ∃ t, exec (.retrain ch lane) s = .next t ∧ t.fli .RETRAIN_BUSY (laneIx ch lane) = true)

/-- Command and address parity, and the end of training. The first three parity alerts of a sub-channel in a window are
retried and counted; a fourth fails its channel, which is a fatal device error: FATAL, FATAL_BLK and the fatal alert
rise and every Pn_RDY is 0. A training in which no set is possible takes none; one with a failing lane, while a lower
rate is left, is repeated at that rate; one whose set's lanes all pass sets TRAIN_DONE and CH_ACTIVE. From
10_dram_controller.md, 20_register_map.md, 19_start_up.md. -/
def Obligations.ParityErrorsAndTraining : Prop :=
  (∀ (s : State) (ch sub n : Nat), s.Inv → s.chLive ch = true → sub < 2 → bit (s.rd .CH_FAIL) ch = false →
    mwf s.drc.ca = true →
    (mget s.drc.ca (ch, sub) = none ∨ (mget s.drc.ca (ch, sub) = some (s.rd .OP_TIME, n) ∧ n < 3) → ∃ t, exec (.caParityAlert ch sub) s = .next t ∧
        t.rdi .CA_PAR_CNT ch = min (2 ^ 32 - 1) (s.rdi .CA_PAR_CNT ch + 1) ∧ t.rd .CH_FAIL = s.rd .CH_FAIL ∧
        (mget t.drc.ca (ch, sub)).isSome = true) ∧
    (mget s.drc.ca (ch, sub) = some (s.rd .OP_TIME, 3) → s.fl .FATAL = false →
      ∃ t, exec (.caParityAlert ch sub) s = .next t ∧ bit (t.rd .CH_FAIL) ch = true ∧ t.fl .FATAL = true ∧
        t.rd .FATAL_BLK = blkDRC ∧ t.fl .ALERT_FATAL = true ∧ ∀ p, p < 4 → bit t.prt.rdy p = false)) ∧
  (∀ (s : State) (x : TrainIn), s.draining = false → s.rd .SEQ_STATE = seqOn → s.fl .TRAIN_DONE = false →
    (∀ m ∈ s.setOrder, s.setOk x m false = false) →
    ∃ t, exec (.trainingDone x) s = .next t ∧ t.fl .TRAIN_DONE = false ∧ t.md = s.md ∧ t.drc = s.drc) ∧
  (∀ (s : State) (x : TrainIn) (m c : Nat), s.draining = false → s.rd .SEQ_STATE = seqOn → s.fl .TRAIN_DONE = false →
    s.setOrder.find? (fun m => s.setOk x m false) = some m → c ∈ chansOf m → (trainCh x c).pass = false →
    s.drc.tried < 2 → s.drc.tried + 1 < (s.setRates x m).length →
    ∃ t, exec (.trainingDone x) s = .next t ∧ t.drc.tried = s.drc.tried + 1 ∧ t.fl .TRAIN_DONE = false) ∧
  (∀ (s : State) (x : TrainIn) (m : Nat), s.Inv → s.draining = false → s.rd .SEQ_STATE = seqOn → s.fl .TRAIN_DONE = false →
    s.setOrder.find? (fun m => s.setOk x m false) = some m → s.setOrder.find? (fun m => s.setOk x m true) = some m →
    (∀ c ∈ chansOf m, (trainCh x c).pass = true) →
    ∃ t, exec (.trainingDone x) s = .next t ∧ t.fl .TRAIN_DONE = true ∧ t.rd .CH_ACTIVE = m ∧ t.boot.kats = true)

/-- A tier page's stripe settle, from its start to its end. The start of a settle takes the next SETTLE_SEQ, holds the
page's home, turns every charged code page of the page to SETTLING and takes their lines as they stand, failing lines
as the poison sentinel. Its end puts the lines in the home, settles each code page still SETTLING, releases its charge
and counts. A failed program counts, loses its channel a block and gives the settle's pages back their charge. From
11_flash_backing.md, 03_float_governor.md. -/
def Obligations.SettlesRunThrough : Prop :=
  (∀ (s : State) (f k ix : Nat) (x : Frame) (o : Obj), s.Inv → mwf s.md.fmap = true → s.draining = false →
    s.fgv.rehearsal = false → s.stl.jobs = [] → 0 < s.rd .SETTLE_MAX → s.int.recode = [] →
    s.settleNext = some (f, k) → f < 2 ^ 30 → s.frame? f = some x → s.obj? x.obj = some o → ix = o.mapBase + x.tp →
    s.fch.lines = [] → s.fch.mrs = [] → s.fl .FLIP_ARM = false → (∀ e ∈ s.dram, e.2.st ≠ .marked) →
    s.rd .SETTLE_SEQ + 1 < 2 ^ 64 →
    ∃ t j, exec (.stripeSettleStart [] []) s = .next t ∧ t.stl.jobs = [j] ∧ j.key = (f, 0) ∧ j.obj = x.obj ∧
      j.tp = x.tp ∧ j.home = (s.mapE ix).home ∧ t.rd .SETTLE_SEQ = s.rd .SETTLE_SEQ + 1 ∧ t.rd .SETTLES_ACTIVE = 1 ∧
      ∀ c, c < 16 → (s.mapE ix).cpSt c = 1 → (t.mapE ix).cpSt c = 2 ∧ c ∈ j.chg ∧
        (c, sentinelLines (s.cpLines f c) []) ∈ j.img) ∧
  (∀ (s : State) (j : Settle) (o : Obj) (f k ix : Nat) (ls : List (Nat × DLine)), s.Inv → mwf s.md.fmap = true →
    mwf s.nfc.homes = true → s.draining = false → s.stl.jobs = [j] → j.key = (f, 0) → f < 2 ^ 30 →
    s.obj? j.obj = some o → j.tp < o.pages → ix = o.mapBase + j.tp → (s.mapE ix).home = j.home → j.home ≠ 0 →
    j.cps = [k] → k < 16 → j.img = [(k, ls)] → (s.mapE ix).cpSt k = 2 → (∀ p ∈ j.progs, p.held = false) →
    s.storePending (s.mapE ix).frame k = false →
    ∃ t, exec (.stripeSettleDone f 0) s = .next t ∧ t.stl.jobs = [] ∧ (t.mapE ix).cpSt k = 0 ∧
      mget t.nfc.homes (j.home, k) = some ls ∧ t.rd .FLOAT_PAGES = s.rd .FLOAT_PAGES - 1 ∧
      t.rd .SETTLE_CNT = min (2 ^ 32 - 1) (s.rd .SETTLE_CNT + 1) ∧
      ∀ c, c < 16 → c ≠ k → (t.mapE ix).cpSt c = (s.mapE ix).cpSt c) ∧
  (∀ (s : State) (ch k ix : Nat) (j : Settle) (o : Obj), s.Inv → mwf s.md.fmap = true → ch < 36 → s.stl.jobs = [j] →
    s.obj? j.obj = some o → ix = o.mapBase + j.tp → j.chg = [k] → k < 16 → (s.mapE ix).cpSt k = 2 →
    s.rdi .BAD_BLK ch + 1 < 2 ^ 18 →
    ∃ t, exec (.nandProgramFail ch (some j.key)) s = .next t ∧ t.stl.jobs = [] ∧ (t.mapE ix).cpSt k = 1 ∧
      t.rdi .BAD_BLK ch = s.rdi .BAD_BLK ch + 1 ∧
      t.rdi .PROG_FAIL_CNT ch = min (2 ^ 32 - 1) (s.rdi .PROG_FAIL_CNT ch + 1)) ∧
  (∀ (s : State) (obj tp : Nat) (o : Obj) (e : MapE), s.Inv → mwf s.md.fmap = true → mwf s.nfc.homes = true →
    mwf s.nfc.vault = true → s.draining = false → s.fgv.rehearsal = false → s.fl .MEDIA_READY = true →
    s.obj? obj = some o → tp < o.pages → e = s.mapE (o.mapBase + tp) → e.st = .t2 → s.moveOf obj tp = none →
    (∃ k, k < 16 ∧ e.cpSt k = 3) →
    ∃ t, exec (.rehome obj tp []) s = .next t ∧
      ∀ k ls, k < 16 → e.cpSt k = 3 → mget s.nfc.vault (obj, 16 * tp + k) = some ls →
        (t.mapE (o.mapBase + tp)).cpSt k = 0 ∧ mget t.nfc.homes (e.home, k) = some ls ∧
        mget t.nfc.vault (obj, 16 * tp + k) = none)

/-- Blocks and channels of the flash backing. Garbage collection of a channel below GC_HI_BLK frees a block and numbers
the chunks it moved, and with GC_LO_BLK free blocks no program of a settle waits on the channel; a channel whose wear reaches 900 raises WEAR_WARN and the NFC alert. An erase failure counts and
takes a block. A retired channel is not online and its state is recorded; RETIRE and RETIRE_SLOT are refused, and
nothing is retired, when a group would lose more than two channels, and a retired slot leaves no settle that programs
its channels. A rebuilt stripe is entered once; a channel with
none left comes online. From 11_flash_backing.md. -/
def Obligations.ChannelsRetireAndRebuild : Prop :=
  (∀ (s : State) (ch n avg top : Nat), s.Inv → ch < 36 → s.chanWorks ch = true → s.rdi .FREE_BLK ch < s.rd .GC_HI_BLK →
    s.rd .SETTLE_SEQ + n < 2 ^ 64 → avg < 2 ^ 16 → top < 2 ^ 16 →
    ∃ t, exec (.garbageCollection ch n avg top) s = .next t ∧
      ((∀ j ∈ s.stl.jobs, ∀ p ∈ j.progs, p.held = false) → t.rdi .FREE_BLK ch = s.rdi .FREE_BLK ch + 1) ∧
      (s.rd .GC_LO_BLK ≤ s.rdi .FREE_BLK ch + 1 → ∀ j ∈ t.stl.jobs, ∀ p ∈ j.progs, p.ch = ch → p.held = false) ∧
      t.rd .SETTLE_SEQ = s.rd .SETTLE_SEQ + n ∧ t.rdi .PE_AVG ch = avg ∧
      (s.rdi .WEAR_PM ch < 900 → 0 < s.rdi .PE_RATED ch → 900 ≤ avg * 1000 / s.rdi .PE_RATED ch →
        t.fli .WEAR_WARN ch = true ∧ bit (t.rd .ALERT_CAUSE) blkNFC = true)) ∧
  (∀ (s : State) (ch : Nat), s.Inv → ch < 36 → s.rdi .BAD_BLK ch + 1 < 2 ^ 18 →
    ∃ t, exec (.nandEraseFail ch) s = .next t ∧ t.rdi .BAD_BLK ch = s.rdi .BAD_BLK ch + 1 ∧
      t.rdi .ERASE_FAIL_CNT ch = min (2 ^ 32 - 1) (s.rdi .ERASE_FAIL_CNT ch + 1)) ∧
  (∀ (s : State) (ch : Nat) (i : Instr), s.Inv → mwf s.nfc.recState = true → ch < 36 → s.chanWorks ch = true →
    i = .channelRetire ch ∨ (i = .retire ch ∧ s.draining = false ∧ s.retireTooMany [ch] = false) →
    ∃ t, exec i s = .next t ∧ t.rdi .CH_STATE ch = 2 ∧ bit (t.rd .CH_ONLINE) ch = false ∧
      mget t.nfc.recState (ch, 0) = some 2 ∧ bit (t.rd .ALERT_CAUSE) blkNFC = true ∧
      ∀ c, c < 36 → c ≠ ch → t.rdi .CH_STATE c = s.rdi .CH_STATE c) ∧
  (∀ (s : State) (i : Nat), s.Inv → s.draining = false → i < 18 → s.chanWorks i = true → s.chanWorks (18 + i) = true →
    (s.retireTooMany [i] = true → ∃ t, exec (.retire i) s = .next t ∧ t.fl .RETIRE_REFUSED = true ∧
      t.rdi .CH_STATE i = s.rdi .CH_STATE i ∧ t.nfc = s.nfc) ∧
    (s.retireTooMany [i, 18 + i] = true → ∃ t, exec (.retireSlot i) s = .next t ∧ t.fl .RETIRE_REFUSED = true ∧
      t.rdi .CH_STATE i = s.rdi .CH_STATE i ∧ t.rdi .CH_STATE (18 + i) = s.rdi .CH_STATE (18 + i)) ∧
    (s.retireTooMany [i, 18 + i] = false → ∃ t, exec (.retireSlot i) s = .next t ∧
      t.rdi .CH_STATE i = 2 ∧ t.rdi .CH_STATE (18 + i) = 2 ∧ ∀ j ∈ t.stl.jobs, j.programs [i, 18 + i] = false)) ∧
  (∀ (s : State) (ch home : Nat), s.Inv → mwf s.nfc.rebuilt = true → ch < 36 → s.rdi .CH_STATE ch = 3 → s.draining = false →
    home ∈ s.homesOf (ch / 18) → s.groupDown (ch / 18) ≤ 2 →
    ∃ t, exec (.rebuildStripe ch home) s = .next t ∧ (mget t.nfc.rebuilt (ch, home)).isSome = true ∧
      ∀ c h, (c, h) ≠ (ch, home) → mget t.nfc.rebuilt (c, h) = mget s.nfc.rebuilt (c, h)) ∧
  (∀ (s : State) (ch : Nat), s.Inv → ch < 36 → s.rdi .CH_STATE ch = 3 → s.rdi .REBUILD_LEFT ch = 0 →
    ∃ t, exec (.rebuildDone ch) s = .next t ∧ t.rdi .CH_STATE ch = 1 ∧ bit (t.rd .CH_ONLINE) ch = true)

/-- Carriers. A carrier put in a slot is judged: unreadable, a wrong medium, blank, another array's, another slot's, or
its own. One taken out leaves the slot empty. ADOPT of a blank carrier whose nets and parameter pages pass powers the
slot, writes the array and slot into it and sets both channels rebuilding; a failed interconnect test refuses it.
UNBIND_CARRIER blanks a carrier no channel of which works, and is refused otherwise. SLOT_PWR drives the slot's power
pin. From 11_flash_backing.md. -/
def Obligations.CarriersComeAndGo : Prop :=
  (∀ (s : State) (i : Nat) (c : Carrier), s.Inv → i < 18 → s.fli .PRESENT i = false →
    ∃ t, exec (.carrierPresent i c) s = .next t ∧ t.fli .PRESENT i = true ∧
      (t.rdi .ID_STATE i, t.rdi .REFUSE_CAUSE i) =
        if c.readable = false then (3, 4) else if c.mediaOk = false then (3, 3) else if c.array = 0 then (2, 0)
        else if c.array ≠ s.rd .DEVICE_UID then (3, 2) else if c.slot ≠ i then (3, 1) else (1, 0)) ∧
  (∀ (s : State) (i : Nat) (c : Carrier), s.Inv → mwf s.nfc.carriers = true → i < 18 → mget s.nfc.carriers (i, 0) = some c →
    ∃ t, exec (.carrierRemoved i) s = .next t ∧ t.fli .PRESENT i = false ∧ t.rdi .ID_STATE i = 0 ∧
      t.rdi .CARRIER_UID i = 0 ∧ mget t.nfc.carriers (i, 0) = none) ∧
  (∀ (s : State) (i : Nat) (c : Carrier), s.Inv → mwf s.nfc.carriers = true → s.draining = false → i < 18 →
    mget s.nfc.carriers (i, 0) = some c → s.rdi .ID_STATE i = 2 →
    (∃ t, exec (.adopt i true true) s = .next t ∧ t.rdi .ID_STATE i = 1 ∧ t.fli .PWR_ON i = true ∧
      t.rdi .CH_STATE i = 3 ∧ t.rdi .CH_STATE (18 + i) = 3 ∧
      mget t.nfc.carriers (i, 0) = some { c with array := s.rd .DEVICE_UID, slot := i }) ∧
    ∃ t, exec (.adopt i false true) s = .next t ∧ t.rdi .ID_STATE i = 3 ∧ t.rdi .REFUSE_CAUSE i = 5 ∧
      t.rdi .CH_STATE i = s.rdi .CH_STATE i) ∧
  (∀ (s : State) (i : Nat) (c : Carrier), s.Inv → mwf s.nfc.carriers = true → i < 18 → mget s.nfc.carriers (i, 0) = some c →
    c.readable = true →
    (s.chanWorks i = false → s.chanWorks (18 + i) = false → ∃ t, exec (.unbindCarrier i) s = .next t ∧
      mget t.nfc.carriers (i, 0) = some { c with array := 0, slot := 0 } ∧ (c.mediaOk = true → t.rdi .ID_STATE i = 2) ∧
      t.out = s.out ++ [Msg.fm 0xC002 stOk []]) ∧
    (s.chanWorks i = true → ∃ t, exec (.unbindCarrier i) s = .next t ∧ t.nfc = s.nfc ∧
      t.out = s.out ++ [Msg.fm 0xC002 stInvalid []])) ∧
  (∀ (s : State) (i : Nat) (v : Bool), s.Inv → s.draining = false → i < 18 →
    ∃ t, exec (.slotPwrWrite i v) s = .next t ∧ t.fli .SLOT_PWR i = v ∧ t.fli .PWR_ON i = v ∧
      (s.fli .SLOT_PWR i ≠ v → t.out = s.out ++ [Msg.pin ("FC_PWR_EN_" ++ toString i) v]))

/-- The home and twin rungs of the recovery ladder, and its deadline. A home read that comes back writes the line as the
home holds it, counts and ends the ladder. One that fails, with the deadline passed, sets STRIPE_LOSS and stores the
line poisoned. At the deadline the waiting load is answered with poison and the ladder goes on; the deadline of a late
ladder stores the line poisoned. A twin's answer writes its line, or poison where the twin's line is poisoned, and
ends the ladder. From 12_data_integrity.md, 13_twin_mirror.md. -/
def Obligations.LadderRungsEnd : Prop :=
  (∀ (s : State) (la : Nat) (l : Ladder) (c : LCtx) (d : DLine), s.Inv → s.draining = false → s.int.ladders = [l] →
    l.la = la → l.twin = false → s.lineCtx la = some c → s.fch.mrs = [] → (s.mapE c.ix).cpSt c.k = 0 →
    mget s.nfc.homes ((s.mapE c.ix).home, c.k) = some [(la % 64, d)] →
    ∃ t, exec (.ladderHomeReadDone la true []) s = .next t ∧ t.dline la = d ∧ t.int.ladders = [] ∧
      t.rdi .HOME_CNT (s.chOf la) = min (2 ^ 32 - 1) (s.rdi .HOME_CNT (s.chOf la) + 1) ∧
      ∀ x, x ≠ la → t.dline x = s.dline x) ∧
  (∀ (s : State) (la : Nat) (l : Ladder) (c : LCtx), s.Inv → s.draining = false → s.int.ladders = [l] →
    l.la = la → l.twin = false → l.late = true → s.lineCtx la = some c → s.fch.mrs = [] →
    ∃ t, exec (.ladderHomeReadDone la false []) s = .next t ∧ t.dline la = ⟨(s.dline la).data, .poison⟩ ∧
      t.fl .STRIPE_LOSS = true ∧ t.int.ladders = [] ∧
      t.rdi .POISON_CNT (s.chOf la) = min (2 ^ 32 - 1) (s.rdi .POISON_CNT (s.chOf la) + 1)) ∧
  (∀ (s : State) (la : Nat) (l : Ladder) (k : Key) (m : MissReg) (r : HostReq) (q : Req), s.draining = false →
    s.int.ladders = [l] → l.la = la → l.late = false → s.fch.mrs = [(k, m)] → m.la = la → m.st = .fill →
    m.reqs = [q] → q.who = .host r → q.wr = false → s.mute r.link = false →
    ∃ t x v, exec (.ladderDeadline la) s = .next t ∧ t.out = s.out ++ [Msg.cxlData r.link r.ld r.tag x true v] ∧
      t.int.ladders = [{ l with late := true }] ∧ t.fch.mrs = [(k, { m with reqs := [] })] ∧ t.dram = s.dram) ∧
  (∀ (s : State) (la : Nat) (l : Ladder), s.Inv → s.draining = false → s.int.ladders = [l] → l.la = la → l.late = true →
    s.fch.mrs = [] →
    ∃ t, exec (.ladderDeadline la) s = .next t ∧ t.dline la = ⟨(s.dline la).data, .poison⟩ ∧ t.int.ladders = []) ∧
  (∀ (s : State) (la tag st : Nat) (data : Line) (l : Ladder) (x : Nat × Key), s.Inv → s.draining = false → s.mirUp = true →
    s.mir.fetches = [x] → x.1 = tag → s.int.ladders = [l] → l.la = la → l.twin = true → l.tag = tag → l.late = false →
    s.fch.mrs = [] →
    ∃ t, exec (.fetchRsp tag st data) s = .next t ∧ t.mir.fetches = [] ∧ t.int.ladders = [] ∧
      (st = 0 → t.dline la = ⟨data, .good⟩) ∧ (st ≠ 0 → t.dline la = ⟨(s.dline la).data, .poison⟩) ∧
      (st < 2 → t.rdi .TWIN_CNT (s.chOf la) = min (2 ^ 32 - 1) (s.rdi .TWIN_CNT (s.chOf la) + 1)))

/-- Verify reads, the recode queue and the flip mask. A verify read without an error only ends; one that shows an error
makes a remap entry of the line and the device, while REMAP_EN is 1 and entry 0 is free. A recode write takes the
first code page from the queue. A write of INT_FLIP_OBJ with FLIP_ARM and a nonzero FLIP_READS arms; while it is armed
only a 0 to FLIP_ARM acts. From 12_data_integrity.md. -/
def Obligations.VerifyRecodeAndFlip : Prop :=
  (∀ (s : State) (la : Nat), s.Inv → s.int.verify = [la] → s.flipHere la = false →
    ∃ t, exec (.verifyRead la []) s = .next t ∧ t.int.verify = [] ∧ t.regs = s.regs ∧ t.dram = s.dram) ∧
  (∀ (s : State) (la d : Nat), s.Inv → s.int.verify = [la] → s.flipHere la = false → s.remapped la = false →
    s.int.known = [] → s.fl .REMAP_EN = true → s.fli .VALID (32 * s.chOf la) = false → d < 10 → la < 2 ^ 32 →
    s.rdi .REMAP_USED (s.chOf la) < 32 → s.devMarked (s.locate la) d = false → s.chOf la < 12 →
    ∃ t, exec (.verifyRead la [d]) s = .next t ∧ t.fli .VALID (32 * s.chOf la) = true ∧
      t.rdi .LA (32 * s.chOf la) = la ∧ t.rdi .INT_REMAP_DEVICE (32 * s.chOf la) = d ∧
      t.rdi .REMAP_USED (s.chOf la) = s.rdi .REMAP_USED (s.chOf la) + 1 ∧ t.remapped la = true) ∧
  (∀ (s : State) (k : Key) (r : List Key), s.Inv → s.draining = false → s.int.recode = k :: r → r.length < 65536 →
    ∃ t, exec .recodeWrite s = .next t ∧ t.int.recode = r ∧ t.rd .RECODE_LEFT = r.length ∧ k ∉ t.int.pcLost) ∧
  (∀ (s : State) (obj n : Nat), s.Inv → s.draining = false → 0 < n → n < 16 → obj < 2 ^ 32 →
    (s.fl .FLIP_ARM = false → s.obj? obj = none → ∃ t, exec (.flipArmWrite obj n true) s = .next t ∧
      t.fl .FLIP_ARM = true ∧ t.rd .FLIP_OBJ = obj ∧ t.rd .FLIP_READS = n) ∧
    (s.fl .FLIP_ARM = false → ∃ t, exec (.flipArmWrite obj 0 true) s = .next t ∧ t.fl .FLIP_ARM = false ∧
      t.rd .FLIP_OBJ = obj) ∧
    (s.fl .FLIP_ARM = true → ∃ t u, exec (.flipArmWrite obj n true) s = .next t ∧ t = s ∧
      exec (.flipArmWrite obj n false) s = .next u ∧ u.fl .FLIP_ARM = false ∧ u.rd .FLIP_OBJ = s.rd .FLIP_OBJ))

/-- Bring-up of the mirror link. A mirror port's PHY coming up while the link is down begins bring-up with HELLO; a HELLO
of the port goes on to SPDM, one that is due again is sent again. A partner that is not an 8120, has no or another
PAIR_ID, the same side, or other mirror ports, is refused with cause 1, 2, 3 or 4; one that passes goes on to the
exchange, whose end sets LINK_UP and starts resync. A partner that ends bring-up is refused with cause 6. The loss of
the last PHY takes the link down, holds the PHYs down and counts. From 13_twin_mirror.md. -/
def Obligations.MirrorBringUp : Prop :=
  (∀ (s : State) (port : Nat), s.Inv → port < 2 → s.draining = false → s.mir.phyHold = false → s.mir.bring = .down →
    bit (s.rd .MIR_PORTS) port = true → s.waits = [] → s.fences = [] →
    ∃ t, exec (.mirrorPhyUp port) s = .next t ∧ t.mir.bring = .hello ∧ t.fli .PHY_UP (phyPort port) = true ∧
      bit t.mir.phy port = true ∧ t.mir.ports = s.rd .MIR_PORTS ∧ t.mir.half = s.fl .E1_HALF ∧
      Msg.mirHello (t.helloOf port) ∈ t.out) ∧
  (∀ (s : State) (port : Nat) (h : Hello), s.mir.bring = .hello → bit s.mirrorUp port = true →
    ∃ t, exec (.hello port h) s = .next t ∧ t.mir.peer = some h ∧ t.mir.bring = .spdm ∧
      t.mir.crossed = (h.port != port) ∧ t.regs = s.regs ∧ t.out = s.out) ∧
  (∀ (s : State) (port : Nat), s.mir.bring = .hello → s.mirrorUp = 2 ^ port → port < 2 →
    ∃ t, exec .helloRepeat s = .next t ∧ t.out = s.out ++ [Msg.mirHello (s.helloOf port)]) ∧
  (∀ (s : State) (h : Hello) (c : Nat) (ok : Bool) (x : Option Exch), s.Inv → s.draining = false → s.mir.bring = .spdm →
    s.mir.peer = some h → s.fl .TRNG_FAIL = false → s.waits = [] → s.fences = [] →
    (c = 1 ∧ ok = false) ∨ (c = 2 ∧ ok = true ∧ (s.rd .PAIR_ID = 0 ∨ s.rd .PAIR_ID ≠ h.pair)) ∨
      (c = 3 ∧ ok = true ∧ s.rd .PAIR_ID ≠ 0 ∧ s.rd .PAIR_ID = h.pair ∧ h.side = s.rd .ID_SIDE) ∨
      (c = 4 ∧ ok = true ∧ s.rd .PAIR_ID ≠ 0 ∧ s.rd .PAIR_ID = h.pair ∧ h.side ≠ s.rd .ID_SIDE ∧
        (s.mir.crossed = true ∨ h.ports ≠ s.mir.ports ∨ h.half ≠ s.mir.half)) →
    ∃ t, exec (.mirrorSpdm ok x) s = .next t ∧ t.rd .ID_FAIL = c ∧ t.mir.bring = .down ∧ t.mir.refused = true ∧
      t.mir.peer = none ∧ bit (t.rd .ALERT_CAUSE) blkMIR = true) ∧
  (∀ (s : State) (h : Hello) (x : Option Exch), s.draining = false → s.mir.bring = .spdm → s.mir.peer = some h →
    s.fl .TRNG_FAIL = false → s.rd .PAIR_ID ≠ 0 → s.rd .PAIR_ID = h.pair → h.side ≠ s.rd .ID_SIDE →
    s.mir.crossed = false → h.ports = s.mir.ports → h.half = s.mir.half → h.uid = s.rd .PARTNER_UID →
    ∃ t, exec (.mirrorSpdm true x) s = .next t ∧ t.mir.bring = .roles ∧ t.regs = s.regs) ∧
  (∀ (s : State) (h : Hello) (x : Exch) (ok : Bool), s.Inv → s.draining = false → s.mir.bring = .roles → s.mir.peer = some h →
    s.md.ledger = [] → s.waits = [] → s.fences = [] → s.canJournal = true → s.mir.takenOver = [] → x.taken = [] →
    ∃ t, exec (.mirrorSpdm ok (some x)) s = .next t ∧ t.mir.bring = .up ∧ t.fl .MIR_STATUS_LINK_UP = true ∧
      t.fl .RESYNC_BUSY = true ∧ t.rd .PARTNER_UID = h.uid % 2 ^ 64 ∧ t.rd .ID_FAIL = 0 ∧ t.mir.pass = 1 ∧
      (s.rd .STATE = mirSolo → h.state ≠ mirSolo → t.fl .SENIOR = true) ∧
      (s.rd .STATE ≠ mirSolo → h.state = mirSolo → t.fl .SENIOR = false) ∧
      ((s.rd .STATE = mirSolo ↔ h.state = mirSolo) → t.fl .SENIOR = decide (s.rd .ID_SIDE = 0))) ∧
  (∀ (s : State), s.Inv → s.mir.bring = .roles → s.mir.pend = none → s.waits = [] → s.fences = [] →
    ∃ t, exec .partnerEndedBringUp s = .next t ∧ t.rd .ID_FAIL = 6 ∧ t.mir.bring = .down ∧ t.mir.refused = true) ∧
  (∀ (s : State) (port : Nat), s.Inv → port < 2 → s.draining = false → s.mir.phy = 2 ^ port → bit s.mir.ports port = true →
    s.mir.bring = .up → s.fl .MIR_STATUS_LINK_UP = true → s.unacked = [] → s.mir.staged = [] → s.waits = [] → s.fences = [] →
    ∃ t, exec (.mirrorPortPhyDown port) s = .next t ∧ t.fl .MIR_STATUS_LINK_UP = false ∧ t.mir.bring = .down ∧
      t.mir.phyHold = true ∧ t.mir.phy = 0 ∧ t.fli .PHY_UP (phyPort port) = false ∧
      t.rd .LINK_LOSS_CNT = min (2 ^ 32 - 1) (s.rd .LINK_LOSS_CNT + 1))

/-- Records, their acknowledgement and the loss of the link. The next record of a lane for a resident, charged page of a
replica stores its lines there, advances TWIN_APPLIED and is acknowledged; one ahead of the lane's number is answered
with NAK and not applied; one behind it counts as a duplicate. A record whose tag fails counts and is answered with
NAK. An ACK frees the records up to its mark; a NAK or a timeout sends the lane's records again. Losing the link
empties the retransmit store, marks its data pages in the solo map and holds the PHYs down; the hold ends. From
13_twin_mirror.md. -/
def Obligations.RecordsAndTheirAnswers : Prop :=
  (∀ (s : State) (r : MRec) (o : Obj) (e : MapE) (d : Line), s.Inv → mwf s.mir.rxLsn = true → mwf s.mir.rxMark = true →
    s.fl .MIR_STATUS_LINK_UP = true → s.draining = false → s.mir.held = [] → s.mir.applied = [] →
    (mget s.mir.rxLsn (r.lane, 0)).getD 0 = r.lsn % 2 ^ 32 → r.ssn = s.rd .TWIN_APPLIED + 1 → r.ssn < 2 ^ 64 →
    (mget s.mir.rxMark (r.lane, 0)).getD 0 < r.ssn → r.ty = .data → r.resync = false → s.obj? r.obj = some o → o.kind = 2 →
    r.cpage / 16 < o.pages → s.mir.rxUnmatched = [] → e = s.mapE (o.mapBase + r.cpage / 16) → e.st = .t1 →
    e.cpSt (r.cpage % 16) = 1 → s.fch.lines = [] → r.lines = [(5, d)] → r.poison = 0 → s.fl .RESYNC_BUSY = false →
    ∃ t, exec (.record r true) s = .next t ∧ t.dline (1024 * e.frame + 64 * (r.cpage % 16) + 5) = ⟨d, .good⟩ ∧
      t.rd .TWIN_APPLIED = r.ssn ∧ t.mir.held = [] ∧ t.out = s.out ++ [Msg.mirCtl kAck r.lane r.ssn []]) ∧
  (∀ (s : State) (r : MRec) (tagOk : Bool) (w d : Nat), s.fl .MIR_STATUS_LINK_UP = true → s.draining = false →
    w = (mget s.mir.rxLsn (r.lane, 0)).getD 0 → w < 2 ^ 32 → r.lsn = (w + d) % 2 ^ 32 → 0 < d → d < 2 ^ 31 → s.mir.rxGap = [] →
    ∃ t, exec (.record r tagOk) s = .next t ∧ t.mir.held = s.mir.held ∧ t.dram = s.dram ∧
      t.out = s.out ++ [Msg.mirCtl kNak r.lane w []]) ∧
  (∀ (s : State) (r : MRec) (tagOk : Bool) (w d : Nat), s.Inv → s.fl .MIR_STATUS_LINK_UP = true → s.draining = false →
    w = (mget s.mir.rxLsn (r.lane, 0)).getD 0 → w < 2 ^ 32 → r.lsn = (w + 2 ^ 32 - d) % 2 ^ 32 → 0 < d → d < 2 ^ 31 →
    ∃ t, exec (.record r tagOk) s = .next t ∧ t.mir.held = s.mir.held ∧ t.dram = s.dram ∧
      t.rd .DUP_CNT = min (2 ^ 32 - 1) (s.rd .DUP_CNT + 1) ∧
      t.out = s.out ++ [Msg.mirCtl kAck r.lane ((mget s.mir.rxMark (r.lane, 0)).getD 0) []]) ∧
  (∀ (s : State) (r : MRec) (w : Nat), s.Inv → s.fl .MIR_STATUS_LINK_UP = true → s.draining = false →
    w = (mget s.mir.rxLsn (r.lane, 0)).getD 0 → r.lsn = w → w < 2 ^ 32 → mget s.mir.tagRun (r.lane, 0) = none →
    ∃ t, exec (.record r false) s = .next t ∧ t.mir.held = s.mir.held ∧ t.dram = s.dram ∧
      t.rd .TAG_FAIL_CNT = min (2 ^ 32 - 1) (s.rd .TAG_FAIL_CNT + 1) ∧ t.out = s.out ++ [Msg.mirCtl kNak r.lane w []]) ∧
  (∀ (s : State) (lane mark : Nat), s.Inv → s.fl .MIR_STATUS_LINK_UP = true → s.draining = false → s.mir.sendq = [] →
    s.mir.opn = [] → s.mir.pass = 0 → s.mir.retry = [] → s.mir.inflight = [] → s.fl .RESYNC_BUSY = false → s.waits = [] →
    s.fences = [] → s.mir.retx.length < 2 ^ 12 →
    ∃ t, exec (.ack lane mark) s = .next t ∧
      t.mir.retx = s.mir.retx.filter (fun r => !(r.lane == lane && decide (r.ssn ≤ mark))) ∧
      t.rd .RETX_RECORDS = t.mir.retx.length ∧ (t.mir.retx = [] → t.rd .SSN_ACKED = s.rd .SSN_ISSUED)) ∧
  (∀ (s : State) (lane : Nat) (r : MRec) (i : Instr), s.Inv → i = .nak lane ∨ i = .retxTimeout lane →
    s.fl .MIR_STATUS_LINK_UP = true → s.draining = false → s.mir.retx = [r] → r.lane = lane →
    ∃ t, exec i s = .next t ∧ t.out = s.out ++ [Msg.mirRec r] ∧ t.mir = s.mir ∧
      t.rd .RETX_CNT = min (2 ^ 32 - 1) (s.rd .RETX_CNT + 1)) ∧
  (∀ (s : State) (r : MRec) (i : Instr), s.Inv → i = .mirrorLinkLost ∨ i = .linkRestart →
    s.fl .MIR_STATUS_LINK_UP = true → s.draining = false → mwf s.mir.solo = true → s.mir.opn = [] → s.mir.sendq = [] →
    s.mir.retx = [r] → r.ty = .data → s.mir.staged = [] → s.waits = [] → s.fences = [] →
    ∃ t, exec i s = .next t ∧ t.fl .MIR_STATUS_LINK_UP = false ∧ t.mir.retx = [] ∧ t.mir.phy = 0 ∧
      t.mir.phyHold = true ∧ mget t.mir.solo (r.obj, r.cpage / 16) = some false ∧
      t.rd .LINK_LOSS_CNT = min (2 ^ 32 - 1) (s.rd .LINK_LOSS_CNT + 1)) ∧
  (∀ (s : State), ∃ t, exec .phyHoldEnd s = .next t ∧ t.mir.phyHold = false ∧ t.mir.phy = s.mir.phy) ∧
  (∀ (s : State) (port : Nat), s.fl .MIR_STATUS_LINK_UP = true → s.draining = false → s.mir.refused = false →
    bit s.mirrorUp port = true →
    ∃ t, exec (.keepalive port) s = .next t ∧ t.mir.ctl = s.mir.ctl + 1 ∧ t.out = s.out ++ [Msg.mirCtl kKeep 0 0 [port]]) ∧
  (∀ (s : State) (tag obj ln : Nat) (o : Obj) (d : Line), s.Inv → s.fl .MIR_STATUS_LINK_UP = true → s.draining = false →
    s.obj? obj = some o → s.lineAt o obj ln = some ⟨d, .good⟩ →
    ∃ t, exec (.fetchReq tag obj ln false) s = .next t ∧ t.out = s.out ++ [Msg.mirCtl kFetchRsp 0 tag [0, d.toNat]] ∧
      t.rd .FETCH_CNT = min (2 ^ 32 - 1) (s.rd .FETCH_CNT + 1))

/-- Heartbeat, grant, takeover, unmatched objects and resync pages. While the link is down and no DRAIN was seen, a lost
heartbeat leaves the 8120 SOLO with the grant and FENCED without; a restored one leaves the senior SOLO and the other
FENCED. The heartbeat output toggles while a rail is up. A drain notice with a good tag takes the link down and is
latched, one with a bad tag counts. TAKEOVER while SOLO after a drain notice, or with the grant and
no heartbeat, turns every replica into an own object; while not SOLO it changes no metadata. NO_ROOM makes an object unmatched; RETRY_MATCH sends its entry again. Resync
sends the ledger entries, the closing record, then the pages. From 13_twin_mirror.md. -/
def Obligations.SoloTakeoverAndResync : Prop :=
  (∀ (s : State) (v : Bool), s.Inv → s.waits = [] → s.fences = [] → s.mir.ports ≠ 0 → s.fl .MIR_STATUS_LINK_UP = false →
    s.mir.drainSeen = false →
    (∃ t, exec .heartbeatLost s = .next t ∧ t.fl .HB_ALIVE = false ∧
      t.rd .STATE = if s.fl .GRANT then mirSolo else mirFenced) ∧
    (∃ t, exec .heartbeatRestored s = .next t ∧ t.fl .HB_ALIVE = true ∧
      t.rd .STATE = if s.fl .SENIOR then mirSolo else mirFenced) ∧
    ∃ t, exec (.twinGrantChange v) s = .next t ∧ t.fl .GRANT = v ∧
      (s.fl .HB_ALIVE = false → t.rd .STATE = if v then mirSolo else mirFenced)) ∧
  (∀ (s : State), s.rd .RAIL_EN_OUT ≠ 0 →
    ∃ t, exec .heartbeatToggle s = .next t ∧ t.mir.hbOut = !s.mir.hbOut ∧
      t.out = s.out ++ [Msg.pin "TWIN_HB_OUT" (!s.mir.hbOut)]) ∧
  (∀ (s : State), s.Inv → s.draining = false → s.mir.bring = .up → s.fl .MIR_STATUS_LINK_UP = true → s.unacked = [] →
    s.mir.staged = [] → s.waits = [] → s.fences = [] → s.mir.ports ≠ 0 →
    (∃ t, exec (.drain true) s = .next t ∧ t.mir.drainSeen = true ∧ t.fl .MIR_STATUS_LINK_UP = false ∧
      t.rd .STATE = mirSolo ∧ t.mir.phy = s.mir.phy) ∧
    ∃ t, exec (.drain false) s = .next t ∧ t.mir = s.mir ∧
      t.rd .GCM_FAIL_CNT = min (2 ^ 32 - 1) (s.rd .GCM_FAIL_CNT + 1)) ∧
  (∀ (s : State), s.Inv → mwf s.md.ledger = true → s.draining = false →
    (s.rd .STATE = mirSolo → s.mir.drainSeen = true ∨ (s.fl .HB_ALIVE = false ∧ s.fl .GRANT = true) →
      s.canJournal = true →
      ∃ t, exec .takeover s = .next t ∧ t.fl .TOOK_OVER = true ∧
        ∀ id o, s.obj? id = some o → t.obj? id = some (if o.kind = 2 then { o with kind := 1 } else o)) ∧
    (s.rd .STATE ≠ mirSolo → ∃ t, exec .takeover s = .next t ∧ t.md = s.md ∧ t.fl .TOOK_OVER = s.fl .TOOK_OVER)) ∧
  (∀ (s : State) (obj : Nat) (o : Obj), s.Inv → s.own? obj = some o → s.fences = [] →
    ∃ t, exec (.noRoom obj) s = .next t ∧ obj ∈ t.mir.unmatched ∧ t.fl .UNMATCHED = true) ∧
  (∀ (s : State) (id : Nat) (o : Obj), s.Inv → s.draining = false → s.fl .MIR_STATUS_LINK_UP = true →
    s.mir.unmatched = [id] → s.mir.flow = [] → s.mir.retry = [] → s.own? id = some o → s.mir.opn = [] →
    s.mir.sendq = [] → s.mir.retx = [] → s.rd .SSN_ISSUED + 1 < 2 ^ 64 →
    ∃ t, exec .retryMatch s = .next t ∧ t.mir.retry = [(id, s.rd .SSN_ISSUED + 1)] ∧ t.fl .RESYNC_BUSY = true ∧
      t.mir.retx.map (fun r => (r.ty, r.obj, r.ops)) = [(.md, id, [.obj id (some o)])]) ∧
  (∀ (s : State) (w : Option Key), s.Inv → s.draining = false → s.fl .MIR_STATUS_LINK_UP = true → s.fl .RESYNC_BUSY = true →
    s.mir.retx = [] → s.mir.opn = [] → s.mir.sendq = [] → s.ssnReady = true → s.rd .SSN_ISSUED + 1 < 2 ^ 64 →
    (∀ id rest o, s.mir.pass = 1 → s.mir.passIds = id :: rest → s.obj? id = some o →
      ∃ t, exec (.resyncPageSend w) s = .next t ∧ t.mir.passIds = rest ∧
        t.mir.retx.map (fun r => (r.ty, r.obj)) = [(.md, id)]) ∧
    (s.mir.pass = 1 → s.mir.passIds = [] →
      ∃ t, exec (.resyncPageSend w) s = .next t ∧ t.mir.pass = 2 ∧ t.mir.passSsn = s.rd .SSN_ISSUED + 1) ∧
    ∀ k o, s.mir.pass = 3 → s.mir.toSend = [k] → s.obj? k.1 = some o → k.2 < o.pages →
      ∃ t, exec (.resyncPageSend w) s = .next t ∧ t.mir.toSend = [] ∧ t.rd .RESYNC_LEFT = 0 ∧
        k ∈ t.mir.inflight.map (·.1))

/-- Packets that the remote access engine takes as responder. In order on a ready context: a WRITE Only of part of one
cached line stores its bytes there, a SEND Only counts, a READ of one line's bytes answers with them, and the atomics
answer with the eight bytes before and store the swapped or summed value; each moves the expected PSN on and an asked
acknowledgement names the PSN. A duplicate atomic is answered from the kept result and stores nothing. A packet for no
address of the engine is dropped and counted. A key that gives no right is answered with NAK Remote Access Error and
puts the context in error. From 14_remote_access.md. -/
def Obligations.PacketsReceived : Prop :=
  (∀ (s : State) (x : Nat) (c : RCtx) (p : Pkt) (obj ofs : Nat) (o : Obj) (la : Nat) (k : Key) (cl : CLine), s.Inv →
    SoleCtx s x c → Arrives s x c p → c.sq = [] → p.op = 0xA → p.ackReq = true →
    s.keyAt c p.rkey 1 p.va p.len = some (obj, o, ofs) → p.data.length = p.len → OneLine s obj ofs p.len o la k cl →
    Storable s c.dom obj ofs la o cl → s.atomicHolds obj (ofs / 65536) = false →
    ∃ t c', exec (.rdmaWrite p) s = .next t ∧
      mget t.fch.lines k = some (cl.store (lineOfBytes fun b => p.data.getD (64 * (ofs / 64) + b - ofs) 0)
        (partMask (linePart ofs p.len (ofs / 64))) false) ∧
      t.ctx? x = some c' ∧ c'.epsn = (c.epsn + 1) % 2 ^ 24 ∧ t.out = s.out ++ [Msg.rdma x 0x11 c.epsn [0] []]) ∧
  (∀ (s : State) (x : Nat) (c : RCtx) (p : Pkt), s.Inv → SoleCtx s x c → Arrives s x c p → c.sq = [] → p.op = 4 →
    p.ackReq = true → p.data = [] → c.trigEn = false →
    ∃ t c', exec (.rdmaSend p) s = .next t ∧ t.ctx? x = some c' ∧ c'.epsn = (c.epsn + 1) % 2 ^ 24 ∧
      c'.count = c.count + 1 ∧ t.out = s.out ++ [Msg.rdma x 0x11 c.epsn [0] []]) ∧
  (∀ (s : State) (x : Nat) (c : RCtx) (p : Pkt) (obj ofs : Nat) (o : Obj) (la : Nat) (k : Key) (cl : CLine), s.Inv →
    SoleCtx s x c → Arrives s x c p → c.sq = [] → p.op = 0x0C → 0 < c.maxRd →
    s.keyAt c p.rkey 0 p.va p.len = some (obj, o, ofs) → OneLine s obj ofs p.len o la k cl →
    ∃ t c', exec (.rdmaReadRequest p) s = .next t ∧ t.ctx? x = some c' ∧ c'.epsn = (c.epsn + 1) % 2 ^ 24 ∧ c'.reads = [] ∧
      t.out = s.out ++ [Msg.rdma x 0x10 c.epsn [0] ((List.range p.len).map fun i => lineByte cl.data (ofs % 64 + i))]) ∧
  (∀ (s : State) (x : Nat) (c : RCtx) (p : Pkt) (i : Instr) (obj ofs old new : Nat) (o : Obj) (la : Nat) (k : Key)
    (cl : CLine), s.Inv → SoleCtx s x c → Arrives s x c p → c.sq = [] → 0 < c.maxRd →
    s.keyAt c p.rkey 2 p.va 8 = some (obj, o, ofs) → p.va % 8 = 0 → ofs % 8 = 0 → OneLine s obj ofs 8 o la k cl →
    Storable s c.dom obj ofs la o cl → s.atomicHolds obj (ofs / 65536) = false → old = bits cl.data.toNat (8 * (ofs % 64)) 64 →
    (i = .cmpswap p ∧ p.op = 0x13 ∧ p.cmp = old ∧ new = p.swap % 2 ^ 64) ∨
      (i = .fetchadd p ∧ p.op = 0x14 ∧ new = (old + p.swap) % 2 ^ 64) →
    ∃ t c', exec i s = .next t ∧ t.ctx? x = some c' ∧ c'.epsn = (c.epsn + 1) % 2 ^ 24 ∧
      mget t.fch.lines k = some (cl.store (BitVec.ofNat 512 (new * 2 ^ (8 * (ofs % 64))))
        (BitVec.ofNat 64 (255 * 2 ^ (ofs % 64))) false) ∧
      t.out = s.out ++ [Msg.rdma x 0x12 c.epsn [0] (toBytes 8 old)]) ∧
  (∀ (s : State) (x : Nat) (c : RCtx) (p : Pkt) (obj ofs : Nat) (o : Obj) (la : Nat) (k : Key)
    (cl : CLine), s.Inv → SoleCtx s x c → Arrives s x c p → c.sq = [] → 0 < c.maxRd → p.op = 0x13 →
    s.keyAt c p.rkey 2 p.va 8 = some (obj, o, ofs) → p.va % 8 = 0 → ofs % 8 = 0 → OneLine s obj ofs 8 o la k cl →
    s.others la none = [] → s.atomicHolds obj (ofs / 65536) = false → p.cmp ≠ bits cl.data.toNat (8 * (ofs % 64)) 64 →
    ∃ t, exec (.cmpswap p) s = .next t ∧ mget t.fch.lines k = some cl ∧ t.stl = s.stl ∧
      t.out = s.out ++ [Msg.rdma x 0x12 c.epsn [0] (toBytes 8 (bits cl.data.toNat (8 * (ofs % 64)) 64))]) ∧
  (∀ (s : State) (x : Nat) (c : RCtx) (p : Pkt) (old : Nat), s.Inv → SoleCtx s x c → c.sq = [] → s.addrOk p = true →
    x < 65536 → p.qpn = 0x10000 + x → p.ce = false → p.op = 0x14 → 0 < psnAfter p.psn c.epsn → psnAfter p.psn c.epsn ≤ 8192 →
    p.psn < 2 ^ 24 → c.atomics = [(p.psn, old)] →
    ∃ t c', exec (.fetchadd p) s = .next t ∧ t.ctx? x = some c' ∧ c'.epsn = c.epsn ∧ t.fch = s.fch ∧
      t.rd .RAE_DUP_CNT = min (2 ^ 32 - 1) (s.rd .RAE_DUP_CNT + 1) ∧
      t.out = s.out ++ [Msg.rdma x 0x12 p.psn [0] (toBytes 8 old)]) ∧
  (∀ (s : State) (x : Nat) (c : RCtx) (p : Pkt), s.Inv → SoleCtx s x c → c.sq = [] → s.addrOk p = false → p.op = 0xA →
    ∃ t, exec (.rdmaWrite p) s = .next t ∧ t.out = s.out ∧ t.fch = s.fch ∧
      t.rd .RX_DROP_CNT = min (2 ^ 32 - 1) (s.rd .RX_DROP_CNT + 1)) ∧
  (∀ (s : State) (x : Nat) (c : RCtx) (p : Pkt), s.Inv → SoleCtx s x c → Arrives s x c p → c.sq = [] → p.op = 0xA →
    s.keyAt c p.rkey 1 p.va p.len = none →
    ∃ t c', exec (.rdmaWrite p) s = .next t ∧ t.ctx? x = some c' ∧ c'.err = true ∧ t.fl .CTX_ERR = true ∧ t.fch = s.fch ∧
      t.out = s.out ++ [Msg.rdma x 0x11 c.epsn [0x62] []])

/-- What ends, holds or sends again a remote request. An acknowledgement of a request's last packet ends it: its slot is
written with VALID 0, STATUS 0 and no DONE_MARK, or with SETTLE it waits for SETTLE_ACK, which ends it with STATUS 0
or 2 and the mark. A NAK ends it with STATUS 0x41, 0x42 or 0x43 and puts the context in error; an RNR NAK holds it
until its timer, at whose end it is sent again, as it is after a sequence NAK and after a timeout, which counts a
retry; with no retry left the context is in error. A READ's next response adds its bytes. From 14_remote_access.md. -/
def Obligations.RequestsEnd : Prop :=
  (∀ (s : State) (x : Nat) (c : RCtx) (r : TReq) (i : Instr) (st mark : Nat) (o : Obj) (la : Nat) (k : Key) (cl : CLine),
    s.Inv → SoleCtx s x c → c.sq = [r] → r.owner = x → c.trigEn = false → c.rnrAt = none → r.n = 1 → r.op ≠ 3 →
    bit r.slot 11 = false → r.psn < 2 ^ 24 → c.spsn = (r.psn + 1) % 2 ^ 24 →
    OneLine s r.obj r.ofs 64 o la k cl → r.ofs + 64 ≤ o.size → Storable s r.dom r.obj r.ofs la o cl → s.atomicHolds r.obj (r.ofs / 65536) = false →
    o.mirror = false →
    (i = .acknowledge x r.psn ∧ r.st = .sent ∧ r.settle = false ∧ st = 0 ∧ mark = 0) ∨
      (∃ b, i = .settleAck x r.psn b mark ∧ r.st = .settling ∧ b < 2 ∧ st = 2 * b) ∨
      (∃ syn, i = .rdmaNak x r.psn syn ∧ r.st = .sent ∧ (syn, st) ∈ [(0x62, 0x41), (0x61, 0x42), (0x63, 0x43)] ∧ mark = 0) →
    ∃ t c', exec i s = .next t ∧ t.ctx? x = some c' ∧ c'.sq = [] ∧
      mget t.fch.lines k = some (cl.store (BitVec.ofNat 512 (setBits (setBits (setBit r.slot 8 false) 384 8 st) 448 64 mark))
        fullMask false) ∧ (r.st = .sent → c'.err = decide (st ≠ 0))) ∧
  (∀ (s : State) (x : Nat) (c : RCtx) (r : TReq), s.Inv → SoleCtx s x c → c.sq = [r] → c.trigEn = false → c.rnrAt = none →
    r.n = 1 → r.op = 1 → r.psn < 2 ^ 24 → c.spsn = (r.psn + 1) % 2 ^ 24 → r.st = .sent → r.part = 0 →
    s.own? r.obj = none →
    (r.settle = true → ∃ t c', exec (.acknowledge x r.psn) s = .next t ∧ t.ctx? x = some c' ∧
      c'.sq = [{ r with st := .settling }]) ∧
    (∃ t c' op h b, exec (.rdmaNak x r.psn 0x60) s = .next t ∧ t.ctx? x = some c' ∧ c'.sq = [r] ∧
      t.out = s.out ++ [Msg.rdma x op r.psn h b]) ∧
    (c.rnrRetry = 7 → ∀ n, n < 32 → ∃ t c', exec (.rdmaNak x r.psn (32 + n)) s = .next t ∧ t.ctx? x = some c' ∧
      c'.rnrAt = some r.psn ∧ c'.rnrs = c.rnrs + 1 ∧ t.out = s.out) ∧
    (c.retries < c.retryCnt → ∃ t c' op h b, exec (.rdmaRetryTimeout x) s = .next t ∧ t.ctx? x = some c' ∧
      c'.retries = c.retries + 1 ∧ t.rd .RAE_RETX_CNT = min (2 ^ 32 - 1) (s.rd .RAE_RETX_CNT + 1) ∧
      t.out = s.out ++ [Msg.rdma x op r.psn h b]) ∧
    (c.retryCnt ≤ c.retries → ∃ t c', exec (.rdmaRetryTimeout x) s = .next t ∧ t.ctx? x = some c' ∧ c'.err = true ∧
      t.rd .RETRY_EXC_CNT = min (2 ^ 32 - 1) (s.rd .RETRY_EXC_CNT + 1))) ∧
  (∀ (s : State) (x : Nat) (c : RCtx) (r : TReq), s.Inv → SoleCtx s x c → c.sq = [r] → c.trigEn = false →
    c.rnrAt = some r.psn → r.n = 1 → r.op = 1 → r.psn < 2 ^ 24 → r.st = .sent → r.part = 0 →
    ∃ t c' op h b, exec (.rnrTimerExpiry x) s = .next t ∧ t.ctx? x = some c' ∧ c'.rnrAt = none ∧
      t.out = s.out ++ [Msg.rdma x op r.psn h b]) ∧
  (∀ (s : State) (x : Nat) (c : RCtx) (r : TReq) (data : List Nat), s.Inv → SoleCtx s x c → c.sq = [r] → c.trigEn = false →
    c.rnrAt = none → r.op = 3 → r.n = 2 → r.st = .sent → r.psn < 2 ^ 24 → c.spsn = (r.psn + 2) % 2 ^ 24 → r.data = [] →
    c.mtu < r.len → data.length = c.mtu → (∀ b ∈ data, b < 256) →
    ∃ t c', exec (.rdmaReadResponse x r.psn data) s = .next t ∧ t.ctx? x = some c' ∧ c'.sq = [{ r with data := data }] ∧
      c'.retries = 0)

/-- Congestion, flow control, network ports and contexts that are fetched. A CNP cuts its context's rate, to 1 Gb/s at
least, and counts; recovery raises it by CC_STEP_GBPS up to the port's rate. XOFF pauses a network port, XON sends
what was held back for it. A fetched context is on chip. A port that goes down moves its contexts with an alternate
port there; a port's PHY that reaches link is up. From 14_remote_access.md. -/
def Obligations.NetworkPortsAndContextFetches : Prop :=
  (∀ (s : State) (x : Nat) (c : RCtx), s.Inv → SoleCtx s x c → s.fl .CC_EN = true →
    (∃ t c', exec (.cnp x) s = .next t ∧ t.ctx? x = some c' ∧ c'.rate = max 1000 (c.rate * (256 - s.rd .CC_CUT) / 256) ∧
      t.rd .CNP_RX_CNT = min (2 ^ 32 - 1) (s.rd .CNP_RX_CNT + 1)) ∧
    ∃ t c', exec (.ccRecover x) s = .next t ∧ t.ctx? x = some c' ∧
      c'.rate = min (s.portRate c.port) (c.rate + 1000 * s.rd .CC_STEP_GBPS)) ∧
  (∀ (s : State) (p : Nat) (m : Msg), s.draining = false → s.netPort p = true → s.fl .PFC_EN = true →
    (∃ t, exec (.pfcFrame p true) s = .next t ∧ p ∈ t.rae.paused ∧ t.out = s.out) ∧
    (s.rae.held = [(p, m)] → s.rae.paused = [p] → ∃ t, exec (.pfcFrame p false) s = .next t ∧ t.rae.paused = [] ∧
      t.rae.held = [] ∧ t.out = s.out ++ [m])) ∧
  (∀ (s : State) (x : Nat) (c : RCtx), s.Inv → SoleCtx { s with rae := { s.rae with ctxs := [((x, 0), { c with chip := true, fetching := false })] } } x
      { c with chip := true, fetching := false } → s.rae.ctxs = [((x, 0), c)] → c.chip = false → c.fetching = true → c.sq = [] →
    ∃ t c', exec (.contextFetchDone x) s = .next t ∧ t.ctx? x = some c' ∧ c'.chip = true ∧ c'.fetching = false ∧
      c'.epsn = c.epsn ∧ t.rd .CTX_ONCHIP = 1) ∧
  (∀ (s : State) (p x : Nat) (c : RCtx), s.Inv → s.draining = false → s.netPort p = true → s.rae.ctxs = [((x, 0), c)] → c.port = p →
    ∃ t c', exec (.raePortDown p) s = .next t ∧ t.fli .PHY_UP p = false ∧ t.ctx? x = some c' ∧ c'.epsn = c.epsn ∧
      c'.port = if bit (c.w 0) 20 then bits (c.w 0) 18 2 else p) ∧
  (∀ (s : State) (p : Nat), s.Inv → s.draining = false → s.fabricUp = true → s.netPort p = true →
    ∃ t, exec (.networkPortPhyUp p) s = .next t ∧ t.fli .PHY_UP p = true)

/-- The commands of RAE_CMD and the trigger register. CREATE makes a context of the record, unless one is there (RESULT 1)
or the record breaks a field rule (RESULT 2). MODIFY stores a record that differs only where it may. RESET makes a
context in error ready again and keeps its count. DESTROY frees it. QUERY shows its record with its state and count. A
key is created from a record that names an object with the rights and range, shown, and destroyed. RAE_TRIG adds to a
context's count. From 14_remote_access.md. -/
def Obligations.ContextsAndKeys : Prop :=
  (∀ (s : State) (x : Nat), s.Inv → s.draining = false → x < 65536 → s.rae.ctxs = [] → s.rae.flush = [] →
    (ctxFields s.ctxData = true → s.trigOk s.ctxData = true → ∃ t c', exec (.ctxCreate x) s = .next t ∧ t.ctx? x = some c' ∧
      c'.words = ctxStore s.ctxData ∧ c'.err = false ∧ c'.epsn = bits (s.ctxData.getD 2 0) 0 24 ∧ c'.count = 0 ∧
      t.rd .RAE_CMD_RESULT = 0 ∧ t.rd .INDEX = x ∧ t.rd .CTX_ONCHIP = 1) ∧
    (ctxFields s.ctxData = false → ∃ t, exec (.ctxCreate x) s = .next t ∧ t.rae.ctxs = [] ∧ t.rd .RAE_CMD_RESULT = 2)) ∧
  (∀ (s : State) (x : Nat) (c : RCtx), s.Inv → SoleCtx s x c → c.sq = [] → x < 65536 →
    (∃ t c', exec (.ctxCreate x) s = .next t ∧ t.ctx? x = some c' ∧ c'.words = c.words ∧ t.rd .RAE_CMD_RESULT = 1) ∧
    (ctxFields s.ctxData = true → s.trigOk s.ctxData = true →
      (∀ i, i < 9 → (s.ctxData.getD i 0 ^^^ c.w i) &&& (2 ^ 64 - 1 - (modMask c.trigEn).getD i 0) = 0) →
      s.pinFull s.ctxData c.pin = false →
      ∃ t c', exec (.ctxModify x) s = .next t ∧ t.ctx? x = some c' ∧ c'.words = ctxStore s.ctxData ∧ c'.epsn = c.epsn ∧
        t.rd .RAE_CMD_RESULT = 0) ∧
    (∃ t, exec (.ctxDestroy x) s = .next t ∧ t.ctx? x = none ∧ t.rd .RAE_CMD_RESULT = 0) ∧
    (c.w 0 + 1 < 2 ^ 64 → c.count < 2 ^ 64 → ∃ t, exec (.ctxQuery x) s = .next t ∧ t.rdi .RAE_CTX_DATA_DATA 0 = c.w 0 + 1 ∧
      t.rdi .RAE_CTX_DATA_DATA 7 = c.count ∧ t.rd .RAE_CMD_RESULT = 0) ∧
    (c.trigEn = false → ∀ n, n < 2 ^ 32 → ∃ t c', exec (.raeTrig x n) s = .next t ∧ t.ctx? x = some c' ∧
      c'.count = c.count + n)) ∧
  (∀ (s : State) (x : Nat) (c : RCtx), s.Inv → s.draining = false → x < 65536 → s.rae.ctxs = [((x, 0), c)] →
    s.rae.flush = [] → c.err = true → c.chip = true → c.sq = [] → ctxFields s.ctxData = true → s.trigOk s.ctxData = true →
    s.pinFull s.ctxData c.pin = false →
    ∃ t c', exec (.ctxReset x) s = .next t ∧ t.ctx? x = some c' ∧ c'.err = false ∧ c'.words = ctxStore s.ctxData ∧
      c'.count = c.count ∧ t.rd .RAE_CMD_RESULT = 0) ∧
  (∀ (s : State) (i : Nat) (o : Obj) (ws : List Nat), s.Inv → s.draining = false → s.rae.ctxs = [] → s.rae.flush = [] →
    mwf s.rae.keys = true → 0 < i → i < 65536 → ws = s.ctxData.take 4 →
    (mget s.rae.keys (i, 0) = none → ws.getD 0 0 < 2 ^ 44 → ws.getD 1 0 < 2 ^ 48 → ws.getD 1 0 % 4096 = 0 →
      0 < bits (ws.getD 3 0) 0 48 → s.own? (bits (ws.getD 0 0) 0 32) = some o → o.canRead (bits (ws.getD 0 0) 32 8) = true →
      o.canWrite (bits (ws.getD 0 0) 32 8) = true → ws.getD 1 0 + bits (ws.getD 3 0) 0 48 ≤ o.size →
      ∃ t k, exec (.keyCreate i) s = .next t ∧ mget t.rae.keys (i, 0) = some k ∧ k.getD 0 0 = setBit (ws.getD 0 0) 43 true ∧
        k.getD 1 0 = ws.getD 1 0 ∧ k.getD 2 0 = ws.getD 2 0 ∧ bits (k.getD 3 0) 0 48 = bits (ws.getD 3 0) 0 48 ∧
        t.rd .RAE_CMD_RESULT = 0) ∧
    ∀ k, mget s.rae.keys (i, 0) = some k →
      (∃ t, exec (.keyCreate i) s = .next t ∧ mget t.rae.keys (i, 0) = some k ∧ t.rd .RAE_CMD_RESULT = 1) ∧
      (∃ t, exec (.keyDestroy i) s = .next t ∧ mget t.rae.keys (i, 0) = none ∧ t.rd .RAE_CMD_RESULT = 0) ∧
      ∃ t, exec (.keyQuery i) s = .next t ∧ t.rd .RAE_CMD_RESULT = 0 ∧
        ∀ j, j < 4 → k.getD j 0 < 2 ^ 64 → t.rdi .RAE_CTX_DATA_DATA j = k.getD j 0)

/-- Cipher clusters and the random source. A CLUSTER_FENCE write that leaves a cluster neither fenced nor faulty is stored
and CLUSTER_ACTIVE has exactly the others; one that would leave none sets FENCE_ERR and changes nothing. A failed
health test sets TRNG_FAIL with the CIP alert, a passed one clears it. Reseeding goes on while TRNG_FAIL is 0.
TL_RANDOM answers the enabled function's read, with 0 while TRNG_FAIL is set. From 15_cipher_and_identity.md. -/
def Obligations.ClustersAndRandomness : Prop :=
  (∀ (s : State) (v : Nat), s.Inv → s.draining = false → v < 256 → v ≠ s.rd .CLUSTER_FENCE →
    ((∃ i, i < 8 ∧ bit v i = false ∧ bit (s.rd .CLUSTER_FAULT) i = false) → ∃ t, exec (.clusterFenceWrite v) s = .next t ∧
      t.rd .CLUSTER_FENCE = v ∧ t.fl .FENCE_ERR = s.fl .FENCE_ERR ∧
      ∀ i, i < 8 → bit (t.rd .CLUSTER_ACTIVE) i = (!bit v i && !bit (s.rd .CLUSTER_FAULT) i)) ∧
    ((∀ i, i < 8 → (bit v i || bit (s.rd .CLUSTER_FAULT) i) = true) → ∃ t, exec (.clusterFenceWrite v) s = .next t ∧
      t.rd .CLUSTER_FENCE = s.rd .CLUSTER_FENCE ∧ t.rd .CLUSTER_ACTIVE = s.rd .CLUSTER_ACTIVE ∧ t.fl .FENCE_ERR = true)) ∧
  (∀ (s : State), s.Inv →
    (∃ t, exec (.trngHealthTest true) s = .next t ∧ t.fl .TRNG_FAIL = false) ∧
    (s.fl .TRNG_FAIL = false → ∃ t, exec (.trngHealthTest false) s = .next t ∧ t.fl .TRNG_FAIL = true ∧
      bit (t.rd .ALERT_CAUSE) blkCIP = true)) ∧
  (∀ (s : State), s.fl .TRNG_FAIL = false →
    ∃ t, exec .drbgReseed s = .next t ∧ t.sec.reseeds = s.sec.reseeds + 1 ∧ t.regs = s.regs) ∧
  (∀ (s : State) (link ld : Nat), s.fli .LD_EN (ldIx link ld) = true →
    ∃ t a v, exec (.tlRandomRead link ld) s = .next t ∧ t.out = s.out ++ [Msg.regRead (ldIx link ld) a v] ∧
      a = 0x800010 + 0x1000 * s.rdi .PRT_LD_CFG_DOMAIN (ldIx link ld) ∧ (s.fl .TRNG_FAIL = true → v = 0) ∧
      (s.fl .TRNG_FAIL = false → t.sec.draws = s.sec.draws + 1))

/-- The commands of a teller page. A load of slot 0 or of another domain's slot gives RESULT 1, of a slot in use that
holds or takes an XTS key RESULT 2, of a page without a key-encryption key RESULT 3, of a blob that does not open
RESULT 4, as of a 256-bit key with a nonzero second half; otherwise the slot's two shares give the key, with its mode,
and RESULT is 0. ZEROIZE of an unused own slot empties it. QUERY shows the slot's mode and references. Each clears the page's blob. SVN_COMMIT burns fuses up to FW_SVN. From
15_cipher_and_identity.md. -/
def Obligations.TellerCommands : Prop :=
  (∀ (s : State) (d k mode : Nat) (i : Instr), s.Inv → s.draining = false → d < 256 → k < 4096 →
    (i = .loadXts d k ∧ mode = 1) ∨ (i = .loadGcm d k ∧ mode = 2) →
    (k = 0 ∨ (s.rdi .OWNER k ≠ d ∧ d ≠ 0) → ∃ t, exec i s = .next t ∧ t.rdi .TL_CMD_RESULT d = 1 ∧
      t.rdi .MODE k = s.rdi .MODE k ∧ t.sec.keys = s.sec.keys) ∧
    (k ≠ 0 → s.rdi .OWNER k = d → s.rdi .REFS k ≠ 0 → mode = 1 → ∃ t, exec i s = .next t ∧
      t.rdi .TL_CMD_RESULT d = 2 ∧ t.sec.keys = s.sec.keys) ∧
    (k ≠ 0 → s.rdi .OWNER k = d → s.rdi .REFS k = 0 → mget s.sec.dkek (d, 0) = none → ∃ t, exec i s = .next t ∧
      t.rdi .TL_CMD_RESULT d = 3 ∧ t.sec.keys = s.sec.keys) ∧
    (k ≠ 0 → s.rdi .OWNER k = d → s.rdi .REFS k = 0 → (mget s.sec.dkek (d, 0)).isSome = true →
      s.unwrap d k mode (s.domKek d) = none → ∃ t, exec i s = .next t ∧ t.rdi .TL_CMD_RESULT d = 4 ∧
        t.sec.keys = s.sec.keys ∧ t.rd .GCM_FAIL_CNT = min (2 ^ 32 - 1) (s.rd .GCM_FAIL_CNT + 1)) ∧
    (∀ x, k ≠ 0 → s.rdi .OWNER k = d → s.rdi .REFS k = 0 → (mget s.sec.dkek (d, 0)).isSome = true →
      s.unwrap d k mode (s.domKek d) = some x →
      (mode = 2 ∧ (∃ b ∈ x.drop 32, b ≠ 0) → ∃ t, exec i s = .next t ∧ t.rdi .TL_CMD_RESULT d = 4 ∧
        t.sec.keys = s.sec.keys) ∧
      ((mode = 2 → ∀ b ∈ x.drop 32, b = 0) →
        ∃ t, exec i s = .next t ∧ t.rdi .TL_CMD_RESULT d = 0 ∧ t.rdi .MODE k = mode ∧ (mget t.sec.keys (k, 0)).isSome = true ∧
          t.slotKey k = ofBytes (if mode = 1 then x else x.take 32) ∧ t.domKek d = s.domKek d ∧
          ∀ j, mget t.sec.blob (d, j) = none))) ∧
  (∀ (s : State) (d k : Nat), s.Inv → mwf s.sec.keys = true → s.draining = false → d < 256 → k < 4096 →
    (k ≠ 0 → s.rdi .OWNER k = d → s.rdi .REFS k = 0 → ∃ t, exec (.zeroize d k) s = .next t ∧ t.rdi .TL_CMD_RESULT d = 0 ∧
      t.rdi .MODE k = 0 ∧ mget t.sec.keys (k, 0) = none ∧ ∀ j, j ≠ k → mget t.sec.keys (j, 0) = mget s.sec.keys (j, 0)) ∧
    ∃ t, exec (.query d k) s = .next t ∧ t.rdi .TL_CMD_RESULT d = 0 ∧ t.rdi .Q_MODE d = s.rdi .MODE k ∧
      t.rdi .Q_REFS d = s.rdi .REFS k ∧ t.sec.keys = s.sec.keys) ∧
  (∀ (s : State), s.Inv → s.draining = false →
    ∃ t, exec .svnCommit s = .next t ∧ t.rd .SVN_FUSE = max (s.rd .SVN_FUSE) (min 64 (s.rd .FW_SVN)))

/-- The SPDM responder and what an owner's session writes. While the fabric is up: measurements, challenges and
certificates are answered for the numbers the device has and refused for others; a key exchange opens a session, at
most eight, and none while TRNG_FAIL is set. In the owner's session a domain's key-encryption key is set and cleared
with its KEK_SET bits, a valid image goes to both SPI devices, and a valid configuration copy with a higher SEQ goes
to the target; without the owner's session they are refused. From 15_cipher_and_identity.md, 19_start_up.md. -/
def Obligations.SpdmRequests : Prop :=
  (∀ (s : State) (n m : Nat), s.fabricUp = true →
    (∃ t v w, exec (.getMeasurements n m) s = .next t ∧
      (1 ≤ n → n ≤ 6 → t.out = s.out ++ [Msg.spdm 0xE0 0x60 [n, v, w]] ∧ v = s.measurement n) ∧
      (n = 0 ∨ (6 < n ∧ n ≠ 255) → t.out = s.out ++ [Msg.spdm 0xE0 0x7F [1]])) ∧
    (∃ t v, exec (.challenge n m) s = .next t ∧
      t.out = s.out ++ [if n ≤ 1 then Msg.spdm 0x83 0x03 [n, v] else Msg.spdm 0x83 0x7F [1]]) ∧
    ∃ t v, exec (.getCertificate n) s = .next t ∧
      t.out = s.out ++ [if n ≤ 1 then Msg.spdm 0x82 0x02 v else Msg.spdm 0x82 0x7F [1]] ∧ (n ≤ 1 → v.length = 3 + n)) ∧
  (∀ (s : State) (owner : Bool), s.Inv → s.fabricUp = true →
    (s.fl .TRNG_FAIL = false → s.sec.sessions.length < 8 → ∃ t, exec (.keyExchange owner) s = .next t ∧
      t.sec.sessions = s.sec.sessions ++ [(s.sec.sessions.length, owner && s.fl .OWNER_SET)] ∧
      t.rd .SESSIONS = s.sec.sessions.length + 1 ∧ t.out = s.out ++ [Msg.spdm 0xE4 0x64 [s.sec.sessions.length]]) ∧
    (s.fl .TRNG_FAIL = true → ∃ t, exec (.keyExchange owner) s = .next t ∧ t.sec = s.sec ∧
      t.out = s.out ++ [Msg.spdm 0xE4 0x7F [5]]) ∧
    (s.fl .TRNG_FAIL = false → 8 ≤ s.sec.sessions.length → ∃ t, exec (.keyExchange owner) s = .next t ∧ t.sec = s.sec ∧
      t.out = s.out ++ [Msg.spdm 0xE4 0x7F [3]])) ∧
  (∀ (s : State) (n d kek : Nat), s.Inv → mwf s.sec.dkek = true → d < 256 →
    (s.ownerSession n = true → (∃ t, exec (.setDomainKek n d kek) s = .next t ∧ (mget t.sec.dkek (d, 0)).isSome = true ∧ t.domKek d = kek % 2 ^ 256 ∧
        t.fli .TL_STATE_KEK_SET d = true ∧ bit (t.rdi .SEC_DKEK_SET_KEK_SET (d / 64)) (d % 64) = true) ∧
      ∃ t, exec (.clearDomainKek n d) s = .next t ∧ mget t.sec.dkek (d, 0) = none ∧
        t.fli .TL_STATE_KEK_SET d = false ∧ bit (t.rdi .SEC_DKEK_SET_KEK_SET (d / 64)) (d % 64) = false) ∧
    (s.fabricUp = true → s.ownerSession n = false →
      (∃ t, exec (.setDomainKek n d kek) s = .next t ∧ t.sec = s.sec ∧ t.out = s.out ++ [Msg.spdm 0xFE 0x7F [4]]) ∧
      ∃ t, exec (.clearDomainKek n d) s = .next t ∧ t.sec = s.sec ∧ t.out = s.out ++ [Msg.spdm 0xFE 0x7F [4]])) ∧
  (∀ (s : State) (n kind : Nat) (x : Img), mwf s.boot.imgs = true → s.ownerSession n = true → kind < 2 →
    (s.imgValid x = true → s.sec.recovery = false → ∃ t, exec (.writeRecoveryImage n kind x) s = .next t ∧
      mget t.boot.imgs (0, kind) = some x ∧ mget t.boot.imgs (1, kind) = some x ∧ t.out = s.out ++ [Msg.spdm 0xFE 0x7E [kind]]) ∧
    (s.imgValid x = false → ∃ t, exec (.writeRecoveryImage n kind x) s = .next t ∧ t.boot = s.boot ∧
      t.out = s.out ++ [Msg.spdm 0xFE 0x7F [1]])) ∧
  (∀ (s : State) (n : Nat) (c : Copy), s.draining = false → s.ownerSession n = true → s.boot.copyA = none → s.boot.copyB = none →
    s.fl .SPI_B_BAD = false → s.fl .SPI_B_FAIL = false →
    (s.copyValid c = true → (∃ t, exec (.writeConfiguration n c false) s = .next t ∧ t.boot.copyB = some c ∧ t.boot.copyA = none ∧
        t.out = s.out ++ [Msg.spdm 0xFE 0x7E [c.seq]]) ∧
      ∃ t, exec (.writeConfiguration n c true) s = .next t ∧ t.boot.copyB = none ∧ t.out = s.out) ∧
    (s.copyValid c = false → ∃ t, exec (.writeConfiguration n c false) s = .next t ∧ t.boot = s.boot ∧
      t.out = s.out ++ [Msg.spdm 0xFE 0x7F [1]]))

/-- The up-sequence of the power supervisor. PWR_REQ asserted in OFF, or after a long release in LOCKOUT, starts the core
phase with WHISTLE_N held low while WHISTLE_EN is set; asserted on the way down it is latched. The rails of the next
step are enabled together; one that becomes good is no longer retrying; the core phase's end counts the power cycle,
samples the straps and awaits the configuration; after the wait's timeout the board phase enables its lowest step;
after the whistle sync, with no rail left, the supervisor is ON. From 16_power_supervision.md,
15_cipher_and_identity.md. -/
def Obligations.UpSequence : Prop :=
  (∀ (s : State) (long : Bool), s.Inv → s.fl .PWR_REQ_IN = false → s.pwr.corePend = [] →
    (s.rd .SEQ_STATE = seqOff ∨ (s.rd .SEQ_STATE = seqLock ∧ long = true) → ∃ t, exec (.pwrReqAssert long) s = .next t ∧
      t.fl .PWR_REQ_IN = true ∧ t.rd .SEQ_STATE = seqCore ∧ t.fl .WHISTLE_OUT = s.fl .WHISTLE_EN ∧
      ∀ r, r < 6 → s.fli .EN r = true → s.railOn r = false → (∀ q, q < 6 → s.fli .EN q = true → s.rdi .UP_STEP r ≤ s.rdi .UP_STEP q) →
        t.railOn r = true) ∧
    (s.rd .SEQ_STATE = seqLock → long = false → ∃ t, exec (.pwrReqAssert long) s = .next t ∧ t.fl .PWR_REQ_IN = true ∧
      t.rd .SEQ_STATE = seqLock) ∧
    (s.rd .SEQ_STATE = seqDown → ∃ t, exec (.pwrReqAssert long) s = .next t ∧ t.fl .ON_LATCHED = true ∧
      t.rd .SEQ_STATE = seqDown)) ∧
  (∀ (s : State) (r : Nat), s.Inv → r < 24 → s.railOn r = true → s.railGood r = false → s.rd .SEQ_STATE ≠ seqBoard →
    ∃ t, exec (.railGood r) s = .next t ∧ t.railGood r = true ∧ bit (t.rd .RAIL_RETRYING) r = false ∧ t.railOn r = true ∧
      ∀ q, q ≠ r → t.railGood q = s.railGood q) ∧
  (∀ (s : State) (r : Nat), s.Inv → s.rd .SEQ_STATE = seqCore → s.stepGood = true → r < 6 → s.fli .EN r = true →
    s.railOn r = false → s.railDone r = false →
    (∀ q, q < 6 → s.fli .EN q = true → s.railOn q = false → s.railDone q = false → s.rdi .UP_STEP r ≤ s.rdi .UP_STEP q) →
    ∃ t, exec .upStepDelay s = .next t ∧ t.railOn r = true ∧ t.rd .UP_STEP_NOW = s.rdi .UP_STEP r ∧ t.rdi .CHATTER_NOW r = 0 ∧
      ∀ q, s.railOn q = true → t.railOn q = true) ∧
  (∀ (s : State) (spi safe a b : Bool), s.Inv → s.rd .SEQ_STATE = seqCore → s.stepGood = true →
    (∀ r, r < 6 → s.fli .EN r = true → s.railOn r = true) →
    ∃ t, exec (.corePhaseEnd spi safe a b) s = .next t ∧ t.rd .SEQ_STATE = seqAwait ∧ t.fl .BOOT_SPI = spi ∧ t.fl .SAFE = safe ∧
      t.fl .SPI_A_BAD = a ∧ t.fl .SPI_B_BAD = b ∧ t.rd .POWER_CYCLES = min (2 ^ 32 - 1) (s.rd .POWER_CYCLES + 1)) ∧
  (∀ (s : State) (r : Nat), s.Inv → s.rd .SEQ_STATE = seqAwait → s.fl .WHISTLE_EN = false → 6 ≤ r → r < 24 → s.fli .EN r = true →
    s.railOn r = false → s.railDone r = false →
    (∀ q, 6 ≤ q → q < 24 → s.fli .EN q = true → s.railOn q = false → s.railDone q = false → s.rdi .UP_STEP r ≤ s.rdi .UP_STEP q) →
    ∃ t, exec .configWaitTimeout s = .next t ∧ t.rd .SEQ_STATE = seqBoard ∧ t.railOn r = true ∧
      t.rd .UP_STEP_NOW = s.rdi .UP_STEP r) ∧
  (∀ (s : State), s.Inv → s.rd .SEQ_STATE = seqBoard → s.pwr.syncing = true →
    (∀ r, 6 ≤ r → r < 24 → s.fli .EN r = true → s.railOn r = true ∨ s.railDone r = true) →
    ∃ t, exec .whistleSync s = .next t ∧ t.rd .SEQ_STATE = seqOn ∧ t.pwr.synced = true ∧ t.fl .WHISTLE_IN = false)

/-- Rails that fail, and their reactions. A rail whose ramp times out, that loses its good power, chatters beyond its
limit or reports a PMBus fault fails: it is marked with its cause and counted, the PWR alert rises and the first
failure is captured. Under RETRY it goes off and retries, counting an attempt at each new enable; under IGNORE nothing
else goes down. A regulator that does not answer sets PMBUS_ERR. FF_CLR clears the record. A missing whistle sync and
a hot die are SYSTEM reactions that lead to LOCKOUT. From 16_power_supervision.md. -/
def Obligations.RailFaults : Prop :=
  (∀ (s : State) (r cause : Nat) (i : Instr), s.Inv → r < 24 → s.railOn r = true → s.rd .SEQ_STATE = seqOn →
    (i = .rampTimeout r ∧ s.railGood r = false ∧ bit s.pwr.ign r = false ∧ cause = 1) ∨
      (i = .railPgFall r ∧ s.railGood r = false ∧ s.rdi .CHATTER_LIMIT r ≤ s.rdi .CHATTER_NOW r ∧ s.rdi .CHATTER_NOW r < 31 ∧ cause = 2) ∨
      (i = .railPgFall r ∧ s.railGood r = true ∧ cause = 3) ∨
      (∃ a, s.fli .PMBUS_EN r = true ∧ i = .pmbusPoll r (some a) 0b0110 ∧ cause = 5) →
    (s.reaction r = 0 → ∃ t, exec i s = .next t ∧ bit (t.rd .RAIL_FAILED) r = true ∧ t.rdi .LAST_CAUSE r = cause ∧
      t.rd .FAULT_CNT = min (2 ^ 32 - 1) (s.rd .FAULT_CNT + 1) ∧ bit (t.rd .ALERT_CAUSE) blkPWR = true ∧
      t.fl .FF_VALID = true ∧ t.rd .RAIL_EN_OUT = s.rd .RAIL_EN_OUT ∧ t.rd .SEQ_STATE = seqOn) ∧
    (s.reaction r = 1 → s.rdi .ATTEMPTS r < 3 → ∃ t, exec i s = .next t ∧ bit (t.rd .RAIL_FAILED) r = true ∧
      t.rdi .LAST_CAUSE r = cause ∧ t.railOn r = false ∧ bit (t.rd .RAIL_RETRYING) r = true ∧
      ∀ q, q < 24 → q ≠ r → t.railOn q = s.railOn q)) ∧
  (∀ (s : State) (r : Nat), s.Inv → r < 24 → bit (s.rd .RAIL_RETRYING) r = true → s.railOn r = false → s.rdi .ATTEMPTS r < 3 →
    ∃ t, exec (.railRetry r) s = .next t ∧ t.railOn r = true ∧ t.rdi .ATTEMPTS r = s.rdi .ATTEMPTS r + 1 ∧
      t.rdi .CHATTER_NOW r = 0) ∧
  (∀ (s : State) (r n : Nat), s.Inv → r < 24 → s.fli .PMBUS_EN r = true →
    ∃ t, exec (.pmbusPoll r none n) s = .next t ∧ t.fl .PMBUS_ERR = true ∧ t.rd .RAIL_EN_OUT = s.rd .RAIL_EN_OUT) ∧
  (∀ (s : State), s.Inv → s.draining = false →
    ∃ t, exec .ffClr s = .next t ∧ t.fl .FF_VALID = false ∧ t.pwr.ffA = [] ∧ t.pwr.ffB = [] ∧ ∀ i, i < 8 → t.rdi .FF i = 0) ∧
  (∀ (s : State) (i : Instr), s.Inv → s.draining = false → s.pwr.rdyUp = false → s.fl .FF_VALID = false →
    (i = .whistleSyncTimeout ∧ s.pwr.syncing = true ∧ s.rd .SEQ_STATE = seqBoard) ∨
      (i = .dieOverTemperature ∧ s.rd .SEQ_STATE ∈ [seqCore, seqAwait, seqBoard, seqOn]) →
    ∃ t, exec i s = .next t ∧ t.pwr.toLock = true ∧ t.fl .FF_VALID = true ∧ t.rd .SEQ_STATE ∈ [seqDown, seqMinOff] ∧
      t.rd .FAULT_CNT = min (2 ^ 32 - 1) (s.rd .FAULT_CNT + 1) ∧ bits (t.rdi .FF 0) 32 5 = 31)

/-- The down-sequence, WHISTLE_N and the internal power domains. PWR_REQ released before any Pn_RDY starts the
down-sequence, and once a Pn_RDY rose in ON it starts the drain. Each step of the down-sequence takes the highest
step's rails down; with none left MIN_OFF begins, whose end leads to LOCKOUT, to a new core phase while PWR_REQ is
asserted, or to OFF. WHISTLE_N pulled by another board in ON counts and leads to LOCKOUT. A domain switched on ramps,
at most two at a time, is on when its power is good, and off after a timeout, which sets DOM_FAIL; one switched off is
off at once. From 16_power_supervision.md, 03_float_governor.md. -/
def Obligations.DownSequenceAndDomains : Prop :=
  (∀ (s : State), s.Inv → s.draining = false → s.fl .PWR_REQ_IN = true →
    (s.rd .SEQ_STATE ∈ [seqCore, seqAwait, seqBoard] ∨ (s.rd .SEQ_STATE = seqOn ∧ s.pwr.rdyUp = false) →
      ∃ t, exec .pwrReqDeassert s = .next t ∧ t.fl .PWR_REQ_IN = false ∧ t.rd .SEQ_STATE ∈ [seqDown, seqMinOff] ∧
        t.prt.rdy % 16 = 0) ∧
    (s.rd .SEQ_STATE = seqOn → s.pwr.rdyUp = true →
      ∃ t, exec .pwrReqDeassert s = .next t ∧ t.draining = true ∧ t.drain.railsUp = false)) ∧
  (∀ (s : State) (r : Nat), s.Inv → s.rd .SEQ_STATE = seqDown → r < 24 → s.railOn r = true →
    (∀ q, q < 24 → s.railOn q = true → s.downKey q ≤ s.downKey r) →
    ∃ t, exec .downStepDelay s = .next t ∧ t.railOn r = false ∧ t.rd .SEQ_STATE = seqDown ∧
      ∀ q, q < 24 → s.downKey q < s.downKey r → t.railOn q = s.railOn q) ∧
  (∀ (s : State), s.Inv → s.rd .SEQ_STATE = seqDown → s.rd .RAIL_EN_OUT = 0 →
    ∃ t, exec .downStepDelay s = .next t ∧ t.rd .SEQ_STATE = seqMinOff ∧ t.pwr.synced = false) ∧
  (∀ (s : State), s.Inv → s.rd .SEQ_STATE = seqMinOff → s.pwr.corePend = [] →
    ∃ t, exec .minOffEnd s = .next t ∧
      t.rd .SEQ_STATE = (if s.pwr.toLock then seqLock else if s.fl .PWR_REQ_IN then seqCore else seqOff) ∧
      (s.pwr.toLock = true ∨ s.fl .PWR_REQ_IN = false → t.fl .WHISTLE_OUT = false) ∧ t.fl .ON_LATCHED = false) ∧
  (∀ (s : State), s.Inv → s.draining = false → s.fl .WHISTLE_EN = true → s.pwr.synced = true → s.fl .WHISTLE_OUT = false →
    s.rd .SEQ_STATE = seqOn →
    ∃ t, exec .whistle s = .next t ∧ t.pwr.toLock = true ∧ t.rd .WHISTLE_CNT = min (2 ^ 32 - 1) (s.rd .WHISTLE_CNT + 1) ∧
      (s.pwr.rdyUp = true → t.draining = true)) ∧
  (∀ (s : State) (d : Nat), s.Inv → s.draining = false → d < 112 →
    (s.domOff d = true → ∃ t, exec (.domainSwitch d false) s = .next t ∧ t.domOn d = false ∧ d ∉ t.pwr.domRamp) ∧
    (s.domOff d = false → s.domOn d = false → s.pwr.domRamp = [] → s.pwr.domWait = [] →
      ∃ t, exec (.domainSwitch d true) s = .next t ∧ t.pwr.domRamp = [d] ∧ t.domOn d = false) ∧
    (s.pwr.domRamp = [d] → s.pwr.domWait = [] →
      (∃ t, exec (.domainPowerGood d) s = .next t ∧ t.domOn d = true ∧ t.pwr.domRamp = []) ∧
      ∃ t, exec (.domainSwitchTimeout d) s = .next t ∧ t.domOn d = false ∧ t.pwr.domRamp = [] ∧
        t.fl .PWR_STATUS_DOM_FAIL = true ∧ bit (t.rdi .PWR_DOM_FAIL_DOM_FAIL (d / 64)) (d % 64) = true))

/-- Daybook flushes and checkpoints. A FLUSH_NOW write captures HEAD_SEQ and starts a flush while a device works; during a
flush it asks for another. A checkpoint puts OP_TIME, FLUSH_SEQ and POWER_CYCLES at the end of each working device's
log and sets CKPT_TIME. A flush that ends on a working device puts its records into that device's log, and FLUSH_SEQ
takes the captured value; a device that failed is marked. From 17_daybook.md. -/
def Obligations.FlushesAndCheckpoints : Prop :=
  (∀ s : State, s.Inv → s.draining = false → s.dbk.frozen = none →
    (s.fl .FLUSH_BUSY = false → s.fl .SPI_A_FAIL = false ∨ s.fl .SPI_B_FAIL = false →
      ∃ t, exec .flushNow s = .next t ∧ t.fl .FLUSH_BUSY = true ∧
        t.dbk = { s.dbk with flushTo := some (s.rd .HEAD_SEQ), flushAgain := false }) ∧
    (s.fl .FLUSH_BUSY = true →
      exec .flushNow s = .next { s with dbk := { s.dbk with flushAgain := true } }) ∧
    (s.fl .FLUSH_BUSY = false → s.fl .SPI_A_FAIL = true → s.fl .SPI_B_FAIL = true → exec .flushNow s = .next s)) ∧
  (∀ s : State, s.Inv → 2 ≤ s.rd .SEQ_STATE → s.rd .SEQ_STATE ≤ 4 →
    ∃ t, exec .daybookCheckpoint s = .next t ∧ t.rd .CKPT_TIME = s.rd .OP_TIME ∧
      (if s.fl .SPI_A_FAIL then t.dbk.ckA = s.dbk.ckA
        else t.dbk.ckA.getLast? = some ⟨s.rd .OP_TIME, s.rd .FLUSH_SEQ, s.rd .POWER_CYCLES⟩) ∧
      (if s.fl .SPI_B_FAIL then t.dbk.ckB = s.dbk.ckB
        else t.dbk.ckB.getLast? = some ⟨s.rd .OP_TIME, s.rd .FLUSH_SEQ, s.rd .POWER_CYCLES⟩)) ∧
  (∀ (s : State) (okA okB : Bool) (e : Nat), s.Inv → s.fl .FLUSH_BUSY = true → s.dbk.flushTo = some e → s.dbk.flushAgain = false →
    s.draining = false → s.rd .FLUSH_CNT < 2 ^ 32 - 2 →
    ∃ t, exec (.daybookFlushDone okA okB) s = .next t ∧ t.fl .FLUSH_BUSY = false ∧ t.dbk.flushTo = none ∧
      t.fl .SPI_A_FAIL = (s.fl .SPI_A_FAIL || !okA) ∧ t.fl .SPI_B_FAIL = (s.fl .SPI_B_FAIL || !okB) ∧
      t.rd .FLUSH_SEQ = (if (okA && !s.fl .SPI_A_FAIL) || (okB && !s.fl .SPI_B_FAIL) then e % 2 ^ 64 else s.rd .FLUSH_SEQ) ∧
      t.dbk.logA = (if okA && !s.fl .SPI_A_FAIL then logTrim (s.dbk.logA ++ s.flushRecs) else s.dbk.logA) ∧
      t.dbk.logB = (if okB && !s.fl .SPI_B_FAIL then logTrim (s.dbk.logB ++ s.flushRecs) else s.dbk.logB))

/-- Online self-tests. A start on an eligible target while no test runs sets BUSY, TEST_NOW and UNITS_LEFT; any other
start sets REFUSED. ABORT between units ends the test, inside a unit it ends it after the unit. POP drops the oldest
result and shows the next. From 18_self_test_and_service.md. -/
def Obligations.OnlineTests : Prop :=
  (∀ (s : State) (i : Instr) (test ch rank group units : Nat), s.Inv → s.draining = false → s.rowsPerBank ≤ 2 ^ 18 →
    (i = .dramRow ch rank ∧ test = 6 ∧ group = 0 ∧ units = 64 * s.rowsPerBank) ∨
      (i = .fchMarch ch group ∧ test = 5 ∧ rank = 0 ∧ units = 1) ∨
      (i = .cipKat ch ∧ test = 7 ∧ rank = 0 ∧ group = 0 ∧ units = 1) →
    (s.bst.test = 0 → s.testable test ch rank group = true →
      ∃ t, exec i s = .next t ∧ t.fl .BST_STATUS_BUSY = true ∧ t.rd .TEST_NOW = test ∧ t.rd .UNITS_LEFT = units ∧
        t.bst = ⟨test, ch, rank, group, 0, 0, false, [], s.bst.fifo, false⟩) ∧
    (s.bst.test ≠ 0 ∨ s.testable test ch rank group = false →
      ∃ t, exec i s = .next t ∧ t = s.setf .REFUSED true ∧ t.fl .REFUSED = true)) ∧
  (∀ s : State, s.Inv → s.draining = false → s.bst.test ≠ 0 →
    (s.bst.step = 0 → ∃ t, exec .abort s = .next t ∧ t.fl .BST_STATUS_BUSY = false ∧ t.rd .TEST_NOW = 0 ∧ t.bst.test = 0 ∧
      t.bst.fifo = s.bst.fifo) ∧
    (s.bst.step ≠ 0 → exec .abort s = .next { s with bst := { s.bst with abort := true } })) ∧
  (∀ (s : State) (e f : Nat × Nat × Nat) (r : List (Nat × Nat × Nat)), s.Inv → s.draining = false →
    (s.bst.fifo = e :: f :: r → r.length < 255 →
      ∃ t, exec .pop s = .next t ∧ t.bst.fifo = f :: r ∧ t.rd .RES_USED = r.length + 1 ∧ t.rdi .RES 0 = f.1 % 2 ^ 64 ∧
        t.rdi .RES 1 = f.2.1 % 2 ^ 64 ∧ t.rdi .RES 2 = f.2.2 % 2 ^ 64) ∧
    (s.bst.fifo.length ≤ 1 → ∃ t, exec .pop s = .next t ∧ t.bst.fifo = [] ∧ t.rd .RES_USED = 0 ∧ t.rdi .RES 0 = 0 ∧
      t.rdi .RES 1 = 0 ∧ t.rdi .RES 2 = 0))

/-- A CORE_OFF write takes service cores offline, never the last. A CORE_OFF write takes each service core whose bit is 1
offline and switches each core whose bit is 0 on (the supervisor then switches the domains of the cores that are
offline off), unless it would leave none of the four online: then nothing changes but REFUSED, which is set.
Formalises R443. -/
def Obligations.ServiceCoresOffline : Prop :=
  ∀ (s : State) (v : Nat), s.Inv → s.draining = false →
    ((∃ k, k < 4 ∧ bit v k = false) → ∃ t, exec (.coreOffWrite v) s = .next t ∧ t.rd .CORE_OFF = v % 16 ∧
      ∀ k, k < 4 → bit (t.rd .CORE_ON) k = !bit v k ∧ t.domOff (108 + k) = bit v k ∧
        (bit v k = true → ∃ u, exec (.domainSwitch (108 + k) false) t = .next u ∧ u.domOn (108 + k) = false)) ∧
    ((∀ k, k < 4 → bit v k = true) → ∃ t, exec (.coreOffWrite v) s = .next t ∧ t = s.setf .REFUSED true ∧ t.fl .REFUSED = true ∧
      t.rd .CORE_OFF = s.rd .CORE_OFF ∧ t.rd .CORE_ON = s.rd .CORE_ON)

/-- Start-up: the configuration copy, Pn_RDY and the map blocks. The service firmware's start, once the images have booted, takes the net-test results,
and with STRAP_SAFE set or no valid copy makes a safe start with an alert; else it chooses the valid copy with the
higher SEQ, A on a tie, and applies its entries (shown on an entry of TICK_PERIOD); the board phase follows. Pn_RDY
rises when every condition of R453 holds, with 8 slices or more, no recovery and no fatal error, and the first rehearsal of a
start without metadata has ended; while one does not, the timeout marks the port once. A map block that has
loaded is no longer awaited. From 19_start_up.md, 20_register_map.md. -/
def Obligations.StartUps : Prop :=
  (∀ (s : State) (x : StartIn), s.Inv → 2 ≤ s.rd .SEQ_STATE → s.rd .SEQ_STATE ≤ 4 → s.boot.fwUp = false → s.sec.recovery = false →
    s.sec.meas ≠ [] → s.draining = false → ∃ t, exec (.serviceFirmwareStart x) s = .next t ∧ t.boot.fwUp = true ∧ t.rd .DDR5_BAD = x.ddr % 2 ^ 12 ∧
      t.rd .NAND_BAD = x.nand % 2 ^ 36 ∧ t.rd .SEQ_STATE ∈ [seqBoard, seqOn] ∧
      (s.fl .SAFE = true ∨ (s.validCopy s.boot.copyA = none ∧ s.validCopy s.boot.copyB = none) →
        t.fl .SAFE_START = true ∧ bit (t.rd .ALERT_CAUSE) blkGLB = true ∧ t.boot.chosen = s.boot.chosen) ∧
      (∀ c : Copy, s.fl .SAFE = false →
        (s.validCopy s.boot.copyA = some c ∧ (∀ b, s.validCopy s.boot.copyB = some b → b.seq ≤ c.seq)) ∨
          (s.validCopy s.boot.copyB = some c ∧ (∀ a, s.validCopy s.boot.copyA = some a → a.seq < c.seq)) →
        t.fl .SAFE_START = false ∧ t.boot.chosen = some c.seq ∧
        ∀ v : Nat, c.entries = [(0x10, 2 ^ 64 - 1, v)] → t.rd .TICK_PERIOD = min 1560 (max 98 (v % 2 ^ 11)))) ∧
  (∀ (s : State) (p : Nat), s.Inv → p < 4 → s.draining = false → s.rd .SEQ_STATE = seqOn → bit s.prt.rdy p = false →
    s.boot.chosen ≠ none → s.fl .TRAIN_DONE = true → s.fl .MEDIA_READY = true → 262144 ≤ s.rd .POOL_FRAMES →
    s.boot.keysRead = true → s.boot.kats = true → s.boot.metaDone = true → bit s.prt.perst p = false →
    s.fli .PORT_OFFLINE p = false → 8 ≤ popCount (s.rd .SLICE_EN) 16 → s.sec.recovery = false → s.fl .FATAL = false →
    s.rd .PATH ≠ 0 ∨ s.fgv.rehearsal = false ∨ s.fl .RATE_VALID = true →
    ∃ t, exec (.pnRdyRise p) s = .next t ∧ bit t.prt.rdy p = true ∧ (∀ q, q ≠ p → bit t.prt.rdy q = bit s.prt.rdy q) ∧
      t.fli .MEM_ACTIVE (2 * p) = true ∧ t.fli .MEM_ACTIVE (2 * p + 1) = true ∧ t.pwr.rdyUp = true ∧
      (s.pwr.rdyUp = false → t.boot.floor = s.boot.chosen.getD 0 ∧
        t.boot.consumed = if s.rd .PATH = 1 then s.sealSeq else s.boot.consumed)) ∧
  (∀ (s : State) (p : Nat), s.Inv → p < 4 → bit s.prt.perst p = false → bit s.prt.rdy p = false → bit s.prt.timedOut p = false →
    s.boot.chosen = none ∨ s.fl .TRAIN_DONE = false ∨ s.fl .MEDIA_READY = false ∨ s.rd .POOL_FRAMES < 262144 ∨
      s.boot.kats = false ∨ s.boot.metaDone = false ∨ s.fli .PORT_OFFLINE p = true ∨ popCount (s.rd .SLICE_EN) 16 < 8 ∨
      s.sec.recovery = true ∨ s.fl .FATAL = true →
    ∃ t, exec (.pnRdyTimeout p) s = .next t ∧ t.prt = { s.prt with timedOut := setBit s.prt.timedOut p true } ∧
      exec (.pnRdyTimeout p) t = .next t) ∧
  (∀ (s : State) (blk : Nat), s.Inv → s.pwr.rdyUp = true → s.draining = false → blk ∈ s.tpe.unloaded →
    ∃ t, exec (.mapBlockLoaded blk) s = .next t ∧ t.tpe.unloaded = s.tpe.unloaded.filter (· != blk))

/-- The always-on domain's power-up and an abrupt loss. A power-up of the always-on domain begins in MIN_OFF with the
rails off, the pins as sampled, POWER_CYCLES and the first-fault record from the power record area, TICK_NUMBER 0,
OP_TIME 60 s beyond the newest checkpoint (0 without one), and HEAD_SEQ beyond every number issued, of which one BOOT
record takes the first. An abrupt loss loses DRAM, the metadata tables and a drain in progress, takes the rails down,
and keeps what the NAND homes and the vault hold (when no journal entry not yet settled gave any up) and the always-on
counters. From 16_power_supervision.md, 17_daybook.md,
20_register_map.md, 02_persistence_model.md. -/
def Obligations.PowerUpAndAbruptLoss : Prop :=
  (∀ (s : State) (req pfail bypass : Bool), s.Inv →
    ∃ t, exec (.alwaysOnPowerUp req pfail bypass) s = .next t ∧ t.rd .SEQ_STATE = seqMinOff ∧ t.rd .RAIL_EN_OUT = 0 ∧
      t.fl .PWR_REQ_IN = req ∧ t.fl .PFAIL_IN = pfail ∧ t.fl .XTAL_BYP = bypass ∧ t.rd .TICK_NUMBER = 0 ∧
      t.rd .POWER_CYCLES = s.pwr.cycles % 2 ^ 32 ∧ t.draining = false ∧ t.dram = [] ∧
      t.fl .FF_VALID = (s.storedFf != []) ∧ (∀ i, i < 8 → t.rdi .FF i = s.storedFf.getD i 0 % 2 ^ 64) ∧
      (s.newestCkpt = none → t.rd .OP_TIME = 0) ∧
      (∀ c, s.newestCkpt = some c → t.rd .OP_TIME = (c.opTime + 1500000000) % 2 ^ 64) ∧
      (s.newestCkpt = none → s.dbk.logA = [] → s.dbk.logB = [] → t.rd .TAIL_SEQ = 1 ∧ t.rd .HEAD_SEQ = 2) ∧
      (∀ c h, s.newestCkpt = some c → c.seq < 2 ^ 63 → h < 2 ^ 63 → (∀ r, r ∈ s.dbk.logA ++ s.dbk.logB → r.seq ≤ h) →
        (h = 0 ∨ ∃ r, r ∈ s.dbk.logA ++ s.dbk.logB ∧ r.seq = h) →
        t.rd .TAIL_SEQ = max (h + 1) c.seq + 8192 ∧ t.rd .HEAD_SEQ = max (h + 1) c.seq + 8193)) ∧
  (∀ (s : State) (na nb : Nat), s.Inv →
    ∃ t, exec (.abruptLoss na nb) s = .next t ∧
      t.rd .SEQ_STATE = (if s.rd .SEQ_STATE = seqOff ∨ s.rd .SEQ_STATE = seqLock then s.rd .SEQ_STATE else seqMinOff) ∧
      t.rd .RAIL_EN_OUT = 0 ∧ t.pwr.rdyUp = false ∧ t.draining = false ∧ t.dram = [] ∧ t.md.ledger = [] ∧ t.md.fmap = [] ∧
      t.waits = [] ∧ t.fences = [] ∧ t.cmd.cmds = [] ∧
      (s.nfc.shadow = [] → t.nfc.homes = s.nfc.homes ∧ t.nfc.vault = s.nfc.vault) ∧
      t.rd .OP_TIME = s.rd .OP_TIME ∧ t.rd .HEAD_SEQ = s.rd .HEAD_SEQ ∧ t.rd .TICK_NUMBER = s.rd .TICK_NUMBER ∧
      t.rd .POWER_CYCLES = s.rd .POWER_CYCLES)

/-- A new TICK_PERIOD takes effect at the next boundary, and TICK_NUMBER counts the boundaries. A write of TICK_PERIOD
stores its clamped value and leaves the length of the tick in progress; at the boundary OP_TIME advances by the length
the tick had, the next tick takes TICK_PERIOD's value, and TICK_NUMBER counts one more (modulo 2^64, which service
never reaches). TICK_NUMBER is read only, 0 after a power-up of the always-on domain, and kept by a warm reset.
Formalises R12. -/
def Obligations.TickPeriodAndNumber : Prop :=
  (∀ (s : State) (link ld v x : Nat), s.Inv → s.draining = false → link < 8 → ld < 16 → s.ioServes link = true →
    s.reaches (ldIx link ld) 0x10 = true →
    ∃ t, exec (.registerWrite link ld 0x10 8 v x) s = .next t ∧ t.rd .TICK_PERIOD = min 1560 (max 98 (v % 2 ^ 11)) ∧
      t.glb.period = s.glb.period ∧ t.rd .TICK_NUMBER = s.rd .TICK_NUMBER) ∧
  (∀ (s : State) (link ld v x : Nat), link < 8 → ld < 16 → s.draining = false →
    ∃ t, exec (.registerWrite link ld 0x18 8 v x) s = .next t ∧ t.rd .TICK_NUMBER = s.rd .TICK_NUMBER ∧ t.glb.period = s.glb.period) ∧
  (∀ (s : State) (x : TickIn), s.Inv →
    ∃ t, exec (.tickBoundary x) s = .next t ∧ t.glb.period = s.rd .TICK_PERIOD ∧ t.rd .TICK_PERIOD = s.rd .TICK_PERIOD ∧
      t.rd .TICK_NUMBER = (s.rd .TICK_NUMBER + 1) % 2 ^ 64 ∧ t.rd .OP_TIME = (s.rd .OP_TIME + s.glb.period) % 2 ^ 64) ∧
  (∀ (s : State) (req pfail bypass : Bool), s.Inv →
    ∃ t, exec (.alwaysOnPowerUp req pfail bypass) s = .next t ∧ t.rd .TICK_NUMBER = 0) ∧
  (∀ s : State, s.Inv → ∃ t, exec .warmRst s = .next t ∧ t.rd .TICK_NUMBER = s.rd .TICK_NUMBER)

/-- The tick boundary, warm resets and function-level resets. A boundary posts the rail monitors and the filtered store
voltage (the sense times HOLDUP_DIV / 100, inverted with HOLDUP_INVERT; that a negative one reads 0 and a greater one 65,535
is the model's choice, log entry 31) and moves no rail; with the fabric up
the DRAM controller's class budgets of the next tick are their 256ths of the bursts that fit its length. A WARM_RST write and the watchdog's expiry, outside a drain,
count one warm reset with their cause and change no register field outside GLB but the Daybook's; WDOG_MS 0 disables
the watchdog; a kick changes nothing. A function-level reset clears QP_EN of the LD's queue pairs and the function's
read latch, and no other queue pair's QP_EN. From 01_architecture.md, 03_float_governor.md, 10_dram_controller.md, 20_register_map.md. -/
def Obligations.TicksAndResets : Prop :=
  (∀ (s : State) (x : TickIn), s.Inv → ∃ t, exec (.tickBoundary x) s = .next t ∧ t.rd .RAIL_PG_IN = x.pg % 2 ^ 24 ∧
      t.rd .HOLDUP_MV = min 65535 ((if s.fl .HOLDUP_INVERT then -x.mv else x.mv) * (s.rd .HOLDUP_DIV : Int) / 100).toNat ∧ t.rd .SEQ_STATE = s.rd .SEQ_STATE ∧
      t.rd .RAIL_EN_OUT = s.rd .RAIL_EN_OUT ∧
      (s.fabricUp = true → t.drc.bud = [Fld.BUDGET_SC0, .BUDGET_SC1, .BUDGET_SC2, .BUDGET_SC3].map fun f =>
        s.rd f * (s.rd .TICK_PERIOD * 40 * s.rd .DATA_MTS / 16000) / 256)) ∧
  (∀ (s : State) (i : Instr) (cause : Nat), s.Inv → s.draining = false →
    (i = .warmRst ∧ cause = 1) ∨ (i = .watchdogExpiry ∧ cause = 2 ∧ s.rd .WDOG_MS ≠ 0) →
    ∃ t, exec i s = .next t ∧ t.rd .WARM_CNT = min (2 ^ 32 - 1) (s.rd .WARM_CNT + 1) ∧ t.rd .WARM_CAUSE = cause ∧
      ∀ f j, f ∉ Fld.WARM_CNT :: .WARM_CAUSE :: .GLB_FLAGS_CNT_OVF :: dbkFlds → t.rdi f j = s.rdi f j) ∧
  (∀ s : State, (s.rd .WDOG_MS = 0 ∨ s.draining = true → exec .watchdogExpiry s = .next s) ∧
    (s.draining = false → exec .wdogKick s = .next s)) ∧
  (∀ (s : State) (link ld : Nat), s.Inv → mwf s.glb.latches = true → s.ldExists link ld = true →
    ∃ t, exec (.functionLevelReset link ld) s = .next t ∧ mget t.glb.latches (ldIx link ld, 0) = none ∧
      ∀ q, q < 1024 → t.fli .QP_EN q = (s.fli .QP_EN q && !(s.fli .CMD_QP_ASSIGN_ASSIGNED q &&
        s.rdi .CMD_QP_ASSIGN_LINK q == link && s.rdi .CMD_QP_ASSIGN_LD q == ld)))

/-- LOCKOUT holds until PWR_REQ has been off for MIN_OFF_MS and is asserted again. In LOCKOUT, with every rail off and
none retrying and no drain under way, every command leaves that so, whatever its operands, but a PWR_REQ_ASSERT after
a release of at least MIN_OFF_MS, which starts the core phase when PWR_REQ was deasserted, and a power-up of the
always-on domain, which is a cold reset. Formalises R408. -/
def Obligations.LockoutHolds : Prop :=
  (∀ (c : Instr) (s : State), s.Inv → s.rd .SEQ_STATE = seqLock → s.rd .RAIL_EN_OUT = 0 → s.rd .RAIL_RETRYING = 0 → s.draining = false →
    c ≠ .pwrReqAssert true → (∀ req pfail bypass, c ≠ .alwaysOnPowerUp req pfail bypass) →
    ∃ t, exec c s = .next t ∧ t.rd .SEQ_STATE = seqLock ∧ t.rd .RAIL_EN_OUT = 0 ∧ t.rd .RAIL_RETRYING = 0 ∧ t.draining = false) ∧
  (∀ s : State, s.Inv → s.rd .SEQ_STATE = seqLock → s.fl .PWR_REQ_IN = false →
    ∃ t, exec (.pwrReqAssert true) s = .next t ∧ t.rd .SEQ_STATE = seqCore) ∧
  (∀ s : State, s.Inv → s.rd .SEQ_STATE = seqLock → s.fl .PWR_REQ_IN = true → exec (.pwrReqAssert true) s = .next s)

/-- What a function does not reach reads 0, ignores writes and raises no record. A function reaches the blocks and the
Daybook window only with its LD enabled in domain 0, a doorbell page only as the function of the queue pair's assigned
LD, and a teller page only as bound to the page's domain. An access that it does not reach, or to an offset that no
register and no window holds, returns 0 on a read and ignores a write, and changes nothing else: no record, no error
count (the read latch of the function alone is emptied). (Stated of a link whose
CXL.io stream is not insecure.) Formalises R458. -/
def Obligations.RegisterReach : Prop :=
  ∀ (s : State) (link ld ofs size v x : Nat), link < 8 → ld < 16 → ofs < 2 ^ 24 → s.ioServes link = true →
    (s.fli .LD_EN (ldIx link ld) = false) ∨
      (s.rdi .PRT_LD_CFG_DOMAIN (ldIx link ld) ≠ 0 ∧ (ofs < 0x130000 ∨ (0xA00000 ≤ ofs ∧ ofs < 0xA40000))) ∨
      (∃ q, q < 1024 ∧ 0x400000 + 4096 * q ≤ ofs ∧ ofs < 0x400000 + 4096 * (q + 1) ∧
        ¬(s.fli .CMD_QP_ASSIGN_ASSIGNED q = true ∧ s.rdi .CMD_QP_ASSIGN_LINK q = link ∧ s.rdi .CMD_QP_ASSIGN_LD q = ld)) ∨
      (∃ d, d < 256 ∧ 0x800000 + 4096 * d ≤ ofs ∧ ofs < 0x800000 + 4096 * (d + 1) ∧ s.rdi .PRT_LD_CFG_DOMAIN (ldIx link ld) ≠ d) ∨
      (0x130000 ≤ ofs ∧ ofs < 0x400000) ∨ (0x900000 ≤ ofs ∧ ofs < 0xA00000) ∨ 0xA40000 ≤ ofs ∨
      (regAt (ofs / 8 * 8) = none ∧ ¬(0xA00000 ≤ ofs ∧ ofs < 0xA40000)) →
    exec (.registerRead link ld ofs size) s = .next ((s.unlatch (ldIx link ld)).send (Msg.regRead (ldIx link ld) ofs 0)) ∧
    exec (.registerWrite link ld ofs size v x) s = .next (s.unlatch (ldIx link ld))

/-- Widths, latches and drains of BAR0 accesses. A reached access of wrong width or alignment counts one error, reads 0
and writes nothing. An 8-byte read answers the register's bits; a 4-byte read of the low half answers them and latches
the high half, which an adjacent read of the high half answers. A 4-byte write changes only a field wholly within it
(shown on LD_CAP_256M, which spans PRT_LD_CFG's halves, and on GLB_ALERT_MASK's upper half), a W1C bit clears by a 1,
and ALERT_EN's FATAL bit stays 1. During a drain a write is discarded. The management path of R459 reads and writes
alike and answers with success. A link whose CXL.io IDE stream is insecure serves no access. From 20_register_map.md, 01_architecture.md. -/
def Obligations.RegisterAccesses : Prop :=
  (∀ (s : State) (link ld ofs size v x : Nat), s.ioServes link = false →
    exec (.registerRead link ld ofs size) s = .next s ∧ exec (.registerWrite link ld ofs size v x) s = .next s) ∧
  (∀ (s : State) (link ld ofs size v x : Nat), s.Inv → link < 8 → ld < 16 → ofs < 2 ^ 24 → s.ioServes link = true →
    s.regFor (ldIx link ld) ofs ≠ none → inWindow ofs = false → goodAccess ofs size = false →
    (∃ t, exec (.registerWrite link ld ofs size v x) s = .next t ∧ t.rd .ACC_ERR_CNT = min (2 ^ 32 - 1) (s.rd .ACC_ERR_CNT + 1) ∧
      ∀ f j, f ∉ Fld.ACC_ERR_CNT :: .GLB_FLAGS_CNT_OVF :: dbkFlds → t.rdi f j = s.rdi f j) ∧
    ∃ t, exec (.registerRead link ld ofs size) s = .next t ∧ t.rd .ACC_ERR_CNT = min (2 ^ 32 - 1) (s.rd .ACC_ERR_CNT + 1) ∧
      t.out.getLast? = some (Msg.regRead (ldIx link ld) ofs 0)) ∧
  (∀ (s : State) (link ld ofs : Nat) (r : RegDef) (i : Nat), s.Inv → mwf s.glb.latches = true → link < 8 → ld < 16 → ofs < 2 ^ 24 →
    s.ioServes link = true → ofs % 8 = 0 → s.regFor (ldIx link ld) ofs = some (r, i) → r.base ≠ 0x800010 → inWindow ofs = false →
    (∃ t, exec (.registerRead link ld ofs 8) s = .next t ∧ t.out = s.out ++ [Msg.regRead (ldIx link ld) ofs (s.regBits r i)] ∧
      t.regs = s.regs) ∧
    ∃ t, exec (.registerRead link ld ofs 4) s = .next t ∧ t.out = s.out ++ [Msg.regRead (ldIx link ld) ofs (bits (s.regBits r i) 0 32)] ∧
      t.regs = s.regs ∧ ∀ u : State, u.glb.latches = t.glb.latches → u.ioServes link = true → u.regFor (ldIx link ld) (ofs + 4) = some (r, i) →
        ∃ w, exec (.registerRead link ld (ofs + 4) 4) u = .next w ∧
          w.out = u.out ++ [Msg.regRead (ldIx link ld) (ofs + 4) (bits (s.regBits r i) 32 32)]) ∧
  (∀ (s : State) (link ld v x : Nat), s.Inv → s.draining = false → link < 8 → ld < 16 → s.ioServes link = true →
    s.reaches (ldIx link ld) 0x28 = true →
    (∃ t, exec (.registerWrite link ld 0x28 8 v x) s = .next t ∧
      t.rd .ALERT_EN = (if v % 2 ^ 18 < 2 ^ 17 then v % 2 ^ 18 + 2 ^ 17 else v % 2 ^ 18)) ∧
    (∃ t, exec (.registerWrite link ld 0x20 8 v x) s = .next t ∧ ∀ b, b < 17 → bit (t.rd .ALERT_CAUSE) b = (bit (s.rd .ALERT_CAUSE) b && !bit v b)) ∧
    (∃ t, exec (.registerWrite link ld 0x2C 4 v x) s = .next t ∧ t.regs = s.regs) ∧
    ∃ t, exec (.registerWrite link ld 0x30100 4 v x) s = .next t ∧ t.fli .LD_EN 0 = bit v 0 ∧
      ∀ i, t.rdi .LD_CAP_256M i = s.rdi .LD_CAP_256M i ∧ t.rdi .BENCH_QUOTA i = s.rdi .BENCH_QUOTA i) ∧
  (∀ (s : State) (link ld ofs size v x : Nat), s.Inv → s.draining = true → link < 8 → ld < 16 → ofs < 2 ^ 24 →
    s.ioServes link = true → s.regFor (ldIx link ld) ofs ≠ none → inWindow ofs = false → goodAccess ofs size = true →
    ∃ t, exec (.registerWrite link ld ofs size v x) s = .next t ∧ (∀ f j, f ∉ dbkFlds → t.rdi f j = s.rdi f j) ∧
      (464, ldIx link ld) ∈ t.once) ∧
  (∀ (s : State) (ep v x : Nat), s.Inv → s.draining = false →
    (∃ t, exec (.registerAccess ep 0x10 8 (some v) x) s = .next t ∧ t.rd .TICK_PERIOD = min 1560 (max 98 (v % 2 ^ 11)) ∧
      t.out.getLast? = some (Msg.fm 0xC003 stOk [])) ∧
    ∃ t, exec (.registerAccess ep 0x10 8 none x) s = .next t ∧ t.out.getLast? = some (Msg.fm 0xC003 stOk [s.rd .TICK_PERIOD]) ∧
      t.regs = s.regs)
end

