-- ==== Sys2Proof/Laws/Smap.lean ====
section
/-! SUPPORT. The laws of sparse tables: a read after a write, and every operation keeps the keys strictly rising. -/

namespace Sys2Proof.Machine

theorem keyLt_irrefl (a : Key) : keyLt a a = false := by simp [keyLt]

theorem keyLt_ne {a b : Key} (h : keyLt a b = true) : a ≠ b := by
  rintro rfl; simp [keyLt_irrefl] at h

theorem keyLt_trans {a b c : Key} (h : keyLt a b = true) (h' : keyLt b c = true) : keyLt a c = true := by
  simp only [keyLt, Bool.or_eq_true, Bool.and_eq_true, decide_eq_true_eq, beq_iff_eq] at *
  omega

theorem keyLt_total {a b : Key} (h : keyLt a b = false) (hn : b ≠ a) : keyLt b a = true := by
  have : ¬(b.1 = a.1 ∧ b.2 = a.2) := fun e => hn (Prod.ext e.1 e.2)
  simp only [keyLt, Bool.or_eq_true, Bool.and_eq_true, decide_eq_true_eq, beq_iff_eq, Bool.or_eq_false_iff,
    Bool.and_eq_false_iff, decide_eq_false_iff_not, beq_eq_false_iff_ne] at *
  omega

variable {β : Type}

/-- A read of the key just written gives the value written. -/
@[simp] theorem mget_mput (m : SMap β) (k : Key) (v : β) : mget (mput m k v) k = some v := by
  induction m with
  | nil => simp [mput, mget]
  | cons a r ih =>
    obtain ⟨k', v'⟩ := a
    simp only [mput]
    split
    · simp [mget]
    · split
      · simp [mget]
      · rename_i h; simp [mget, h, ih]

/-- A write leaves every other key alone. -/
theorem mget_mput_ne (m : SMap β) (k j : Key) (v : β) (h : k ≠ j) : mget (mput m k v) j = mget m j := by
  induction m with
  | nil => simp [mput, mget, h]
  | cons a r ih =>
    obtain ⟨k', v'⟩ := a
    simp only [mput]
    split
    · simp [mget, h]
    · split
      · rename_i h' ; subst h'; simp [mget, h]
      · simp only [mget, ih]

/-- A removal leaves every other key alone. -/
theorem mget_mdel_ne (m : SMap β) (k j : Key) (h : k ≠ j) : mget (mdel m k) j = mget m j := by
  induction m with
  | nil => rfl
  | cons a r ih =>
    obtain ⟨k', v'⟩ := a
    simp only [mdel]
    split
    · rename_i h'; subst h'; simp [mget, h]
    · simp only [mget, ih]

/-- The keys of a table rise from a bound on. -/
def mfrom (k : Key) (m : SMap β) : Prop := ∀ e ∈ m, keyLt k e.1 = true

theorem mwf_cons {a : Key × β} {m : SMap β} : mwf (a :: m) = true ↔ mfrom a.1 m ∧ mwf m = true := by
  induction m generalizing a with
  | nil => simp [mwf, mfrom]
  | cons b r ih =>
    constructor
    · intro h
      simp only [mwf, Bool.and_eq_true] at h
      refine ⟨?_, h.2⟩
      intro e he
      rcases List.mem_cons.1 he with rfl | he
      · exact h.1
      · exact keyLt_trans h.1 ((ih.1 h.2).1 e he)
    · rintro ⟨h, h'⟩
      simp only [mwf, Bool.and_eq_true]
      exact ⟨h b (by simp), h'⟩

theorem mem_mput {m : SMap β} {k : Key} {v : β} {e : Key × β} (h : e ∈ mput m k v) : e = (k, v) ∨ e ∈ m := by
  induction m with
  | nil => simp [mput] at h; simp [h]
  | cons a r ih =>
    obtain ⟨k', v'⟩ := a
    simp only [mput] at h
    split at h
    · simp at h ⊢; tauto
    · split at h
      · simp at h ⊢; tauto
      · simp at h ⊢; rcases h with h | h
        · tauto
        · rcases ih h with h | h <;> tauto

theorem mem_mdel {m : SMap β} {k : Key} {e : Key × β} (h : e ∈ mdel m k) : e ∈ m := by
  induction m with
  | nil => simp [mdel] at h
  | cons a r ih =>
    obtain ⟨k', v'⟩ := a
    simp only [mdel] at h
    split at h
    · exact List.mem_cons_of_mem _ h
    · rcases List.mem_cons.1 h with h | h
      · simp [h]
      · exact List.mem_cons_of_mem _ (ih h)

theorem mem_mfilter {m : SMap β} {p : Key → β → Bool} {e : Key × β} (h : e ∈ mfilter m p) : e ∈ m := by
  simp [mfilter] at h; exact h.1

/-- A write keeps the canonical form. -/
theorem mwf_mput {m : SMap β} (k : Key) (v : β) (h : mwf m = true) : mwf (mput m k v) = true := by
  induction m with
  | nil => rfl
  | cons a r ih =>
    obtain ⟨k', v'⟩ := a
    have hc := mwf_cons.1 h
    simp only [mput]
    split
    · rename_i hk
      refine mwf_cons.2 ⟨fun e he => ?_, h⟩
      rcases List.mem_cons.1 he with rfl | he
      · exact hk
      · exact keyLt_trans hk (hc.1 e he)
    · split
      · rename_i hk; subst hk; exact mwf_cons.2 hc
      · rename_i h1 h2
        refine mwf_cons.2 ⟨fun e he => ?_, ih hc.2⟩
        rcases mem_mput he with rfl | he
        · exact keyLt_total (by simpa using h1) h2
        · exact hc.1 e he

/-- A removal keeps the canonical form. -/
theorem mwf_mdel {m : SMap β} (k : Key) (h : mwf m = true) : mwf (mdel m k) = true := by
  induction m with
  | nil => rfl
  | cons a r ih =>
    obtain ⟨k', v'⟩ := a
    have hc := mwf_cons.1 h
    simp only [mdel]
    split
    · exact hc.2
    · exact mwf_cons.2 ⟨fun e he => hc.1 e (mem_mdel he), ih hc.2⟩

/-- Keeping some entries keeps the canonical form. -/
theorem mwf_mfilter {m : SMap β} (p : Key → β → Bool) (h : mwf m = true) : mwf (mfilter m p) = true := by
  induction m with
  | nil => rfl
  | cons a r ih =>
    have hc := mwf_cons.1 h
    simp only [mfilter, List.filter_cons]
    split
    · exact mwf_cons.2 ⟨fun e he => hc.1 e (mem_mfilter (p := p) he), ih hc.2⟩
    · exact ih hc.2

/-- In a canonical table a removed key reads as absent. -/
theorem mget_mdel {m : SMap β} (k : Key) (h : mwf m = true) : mget (mdel m k) k = none := by
  induction m with
  | nil => rfl
  | cons a r ih =>
    obtain ⟨k', v'⟩ := a
    have hc := mwf_cons.1 h
    simp only [mdel]
    split
    · rename_i hk; subst hk
      have : ∀ r : SMap β, mfrom k' r → mget r k' = none := by
        intro r hr
        induction r with
        | nil => rfl
        | cons b t iht =>
          simp only [mget]
          rw [if_neg (keyLt_ne (hr b (by simp))).symm]
          exact iht fun e he => hr e (List.mem_cons_of_mem _ he)
      exact this r hc.1
    · rename_i hk; simp only [mget, hk, if_false]; exact ih hc.2

/-- A filter by key keeps what is at an accepted key. -/
theorem mget_mfilter_key {m : SMap β} {p : Key → Bool} {k : Key} (h : p k = true) :
    mget (mfilter m fun a _ => p a) k = mget m k := by
  induction m with
  | nil => rfl
  | cons a r ih =>
    rw [mfilter, List.filter_cons]
    by_cases e : a.1 = k
    · simp only [e, h, if_true, mget]
    · split
      · simp only [mget, e, if_false]; exact ih
      · simp only [mget, e, if_false]; exact ih

end Sys2Proof.Machine
end

