-- ==== Sys2Proof/Laws/Registers.lean ====
section
/-! SUPPORT. The laws of the register table: what a write stores is legal, a read gives it back, other fields keep
theirs, and the canonical form is kept. -/

namespace Sys2Proof.Machine

/-- The limits of every field's table lie within its width, and its reset value within the limits. -/
theorem Fld.spec_ok (f : Fld) : f.spec.lo ≤ f.spec.reset ∧ f.spec.reset ≤ f.spec.hi ∧ f.spec.hi < 2 ^ f.spec.width := by
  cases f <;> decide

theorem Fld.ctorIdx_inj {f g : Fld} (h : f.ctorIdx = g.ctorIdx) : f = g := by
  rw [← Fld.ofNat_ctorIdx f, h, Fld.ofNat_ctorIdx]

/-- The limits and width of a table, as a write rule applies them. -/
theorem clamp_clamp (lo hi w v : Nat) (h : lo ≤ hi) (hw : hi < 2 ^ w) :
    min hi (max lo (min hi (max lo (v % 2 ^ w)) % 2 ^ w)) = min hi (max lo (v % 2 ^ w)) := by
  have : min hi (max lo (v % 2 ^ w)) < 2 ^ w := by omega
  rw [Nat.mod_eq_of_lt this]; omega

/-- A write rule changes nothing that it has already stored. -/
theorem Fld.store_store (f : Fld) (i v : Nat) : f.store i (f.store i v) = f.store i v := by
  have hs := f.spec_ok
  have hc := clamp_clamp f.spec.lo f.spec.hi f.spec.width v (by omega) hs.2.2
  cases f
  case GUAR_WT => simp only [Fld.store, Fld.spec]; split <;> omega
  case PG_REQ =>
    have e : ∀ v, Fld.PG_REQ.store i v = v % 16 / 2 * 2 + 1 := by
      intro v
      change (if min 15 (max 0 (v % 16)) % 2 = 1 then min 15 (max 0 (v % 16)) else min 15 (max 0 (v % 16)) + 1) = _
      split <;> omega
    rw [e, e]; omega
  case WDOG_MS =>
    have e : ∀ v, Fld.WDOG_MS.store i v = if 0 < v % 65536 ∧ v % 65536 < 100 then 100 else v % 65536 := by
      intro v
      change (if 0 < min 65535 (max 0 (v % 65536)) ∧ min 65535 (max 0 (v % 65536)) < 100 then 100
        else min 65535 (max 0 (v % 65536))) = _
      split <;> split <;> omega
    rw [e, e]; split <;> split <;> omega
  case ALERT_EN =>
    have e : ∀ v, Fld.ALERT_EN.store i v = v % 2 ^ 17 + 2 ^ 17 := by
      intro v
      change (if min 262143 (max 0 (v % 262144)) < 131072 then min 262143 (max 0 (v % 262144)) + 131072
        else min 262143 (max 0 (v % 262144))) = _
      split <;> omega
    rw [e, e]; omega
  case DEVICE_UID => rfl
  all_goals exact hc

/-- Every reset value is legal. -/
theorem Fld.store_resetVal (f : Fld) (i : Nat) : f.store i (f.resetVal i) = f.resetVal i := by
  cases f
  case TL_STATE_DOMAIN => simp only [Fld.store, Fld.resetVal, Fld.spec]; omega
  case DEVICE_UID => simp [Fld.store, Fld.resetVal]
  case UP_STEP =>
    rcases i with _ | _ | _ | _ | _ | _ | i <;> rfl
  case DOWN_STEP =>
    rcases i with _ | _ | _ | _ | _ | _ | i <;> rfl
  case PG_REQ => exact (by decide : Fld.PG_REQ.store 0 15 = 15)
  case ALERT_EN => exact (by decide : Fld.ALERT_EN.store 0 262143 = 262143)
  case GUAR_WT => simp only [Fld.store, Fld.resetVal]; split <;> rfl
  case EN => simp only [Fld.store, Fld.resetVal]; split <;> rfl
  case DRAIN_NEED => simp only [Fld.store, Fld.resetVal]; split <;> rfl
  case MODE => simp only [Fld.store, Fld.resetVal]; split <;> rfl
  all_goals rfl

/-- A write of one instance of a field leaves every other instance of every field alone. -/
theorem State.rdi_wri_ne (s : State) {f g : Fld} {i j v : Nat} (h : f ≠ g ∨ i ≠ j) :
    (s.wri f i v).rdi g j = s.rdi g j := by
  have hk : ((f.ctorIdx, i) : Key) ≠ (g.ctorIdx, j) := by
    intro e
    simp only [Prod.mk.injEq] at e
    rcases h with h | h
    · exact h (Fld.ctorIdx_inj e.1)
    · exact h e.2
  simp only [State.rdi, State.wri, regsPut]
  split
  · rw [mget_mdel_ne _ _ _ hk]
  · rw [mget_mput_ne _ _ _ _ hk]

/-- Unpack the canonical form. -/
theorem regsOk_iff {r : SMap Nat} : regsOk r = true ↔ mwf r = true ∧
    ∀ e ∈ r, (Fld.ofNat e.1.1).store e.1.2 e.2 = e.2 ∧ e.2 ≠ (Fld.ofNat e.1.1).resetVal e.1.2 := by
  simp [regsOk, Fld.legal]

/-- In a canonical table a field just written reads as what its write rule stores. -/
theorem State.rdi_wri {s : State} (f : Fld) (i v : Nat) (h : mwf s.regs = true) :
    (s.wri f i v).rdi f i = f.store i v := by
  simp only [State.rdi, State.wri, regsPut]
  split
  · rename_i hv; rw [mget_mdel _ h, hv]; rfl
  · rw [mget_mput]; rfl

/-- A field's write keeps the table canonical. -/
theorem regsOk_put {r : SMap Nat} (f : Fld) (i v : Nat) (h : regsOk r = true) : regsOk (regsPut r f i v) = true := by
  obtain ⟨hw, ha⟩ := regsOk_iff.1 h
  simp only [regsPut]
  split
  · exact regsOk_iff.2 ⟨mwf_mdel _ hw, fun e he => ha e (mem_mdel he)⟩
  · rename_i hv
    refine regsOk_iff.2 ⟨mwf_mput _ _ hw, fun e he => ?_⟩
    rcases mem_mput he with rfl | he
    · exact ⟨by rw [Fld.ofNat_ctorIdx, Fld.store_store], by rw [Fld.ofNat_ctorIdx]; exact hv⟩
    · exact ha e he

/-- Keeping some entries keeps the table canonical. -/
theorem regsOk_filter {r : SMap Nat} (p : Key → Nat → Bool) (h : regsOk r = true) : regsOk (mfilter r p) = true := by
  obtain ⟨hw, ha⟩ := regsOk_iff.1 h
  exact regsOk_iff.2 ⟨mwf_mfilter p hw, fun e he => ha e (mem_mfilter he)⟩

/-- In a canonical table every field reads as a value that it can hold. -/
theorem State.rdi_legal {s : State} (h : regsOk s.regs = true) (f : Fld) (i : Nat) : f.legal i (s.rdi f i) = true := by
  have hm : ∀ (r : SMap Nat) (k : Key) (v : Nat), mget r k = some v → (k, v) ∈ r := by
    intro r k v
    induction r with
    | nil => simp [mget]
    | cons a t ih =>
      obtain ⟨k', v'⟩ := a
      simp only [mget]
      split
      · rename_i e; rintro ⟨⟩; simp [e]
      · intro e; exact List.mem_cons_of_mem _ (ih e)
  simp only [Fld.legal, beq_iff_eq, State.rdi]
  cases e : mget s.regs (f.ctorIdx, i) with
  | none => exact f.store_resetVal i
  | some v =>
    have := ((regsOk_iff.1 h).2 _ (hm _ _ _ e)).1
    simpa [Fld.ofNat_ctorIdx] using this

/-! ### DRAM -/

theorem dramOk_iff {m : SMap DLine} : dramOk m = true ↔ mwf m = true ∧ ∀ e ∈ m, e.2 ≠ zeroLine := by
  simp [dramOk]

theorem dramOk_filter {m : SMap DLine} (p : Key → DLine → Bool) (h : dramOk m = true) : dramOk (mfilter m p) = true := by
  obtain ⟨hw, ha⟩ := dramOk_iff.1 h
  exact dramOk_iff.2 ⟨mwf_mfilter p hw, fun e he => ha e (mem_mfilter he)⟩

theorem dramOk_del {m : SMap DLine} (k : Key) (h : dramOk m = true) : dramOk (mdel m k) = true := by
  obtain ⟨hw, ha⟩ := dramOk_iff.1 h
  exact dramOk_iff.2 ⟨mwf_mdel k hw, fun e he => ha e (mem_mdel he)⟩

theorem dramOk_put {m : SMap DLine} (k : Key) (d : DLine) (hd : d ≠ zeroLine) (h : dramOk m = true) :
    dramOk (mput m k d) = true := by
  obtain ⟨hw, ha⟩ := dramOk_iff.1 h
  refine dramOk_iff.2 ⟨mwf_mput _ _ hw, fun e he => ?_⟩
  rcases mem_mput he with rfl | he
  · exact hd
  · exact ha e he

/-- A line just stored reads back. -/
theorem State.dline_setDline {s : State} (la : Nat) (d : DLine) (h : mwf s.dram = true) :
    (s.setDline la d).dline la = d := by
  simp only [State.dline, State.setDline]
  split
  · rename_i e; rw [mget_mdel _ h, e]; rfl
  · rw [mget_mput]; rfl

/-- Storing a line leaves every other line alone. -/
theorem State.dline_setDline_ne (s : State) {la lb : Nat} (d : DLine) (h : la ≠ lb) :
    (s.setDline la d).dline lb = s.dline lb := by
  have hk : ((la / 1024, la % 1024) : Key) ≠ (lb / 1024, lb % 1024) := by
    intro e
    simp only [Prod.mk.injEq] at e
    omega
  simp only [State.dline, State.setDline]
  split
  · rw [mget_mdel_ne _ _ _ hk]
  · rw [mget_mput_ne _ _ _ _ hk]

end Sys2Proof.Machine
end

