-- ==== Sys2Proof/Laws/Frame.lean ====
section
/-! SUPPORT. Footprints: which parts and register fields an operation may change, and that it keeps the canonical
  forms
and the queue. One lemma per shared operation (this file and Laws/Frame…); the meanings' lemmas follow from them. A
footprint is a set of parts and fields, held as the bits of a number so that inclusion is decided by arithmetic. -/

namespace Sys2Proof.Machine

/-- A set of parts and register fields. -/
abbrev Foot := Nat

/-- The set of one part. -/
def Part.foot (p : Part) : Foot := 2 ^ p.ctorIdx
/-- 2 ^ n, from powers with small exponents. -/
def pow2 (n : Nat) : Nat :=
  Nat.mul (Nat.pow 1606938044258990275541962092341162602522202993782792835301376 (Nat.div n 200)) (Nat.pow 2 (Nat.mod
    n 200))
/-- The set of one register field. -/
def Fld.foot (f : Fld) : Foot := pow2 (Nat.add 28 f.ctorIdx)
/-- Inclusion. -/
def Foot.le (a b : Foot) : Bool := Nat.beq (Nat.lor a b) b
/-- Every register field. -/
def Foot.allFlds : Foot := 2 ^ 28 * ((2 ^ 200) ^ 2 * 2 ^ 164 - 1)

theorem pow2_eq (n : Nat) : pow2 n = 2 ^ n := by
  have : pow2 n = (2 ^ 200) ^ (n / 200) * 2 ^ (n % 200) := rfl
  rw [this, ← Nat.pow_mul, ← Nat.pow_add, Nat.div_add_mod]

theorem Fld.foot_eq (f : Fld) : f.foot = 2 ^ (28 + f.ctorIdx) := pow2_eq _

theorem Foot.le_testBit {a b : Foot} (h : a.le b = true) {i : Nat} (ha : a.testBit i = true) : b.testBit i = true :=
  by
  have h : a ||| b = b := Nat.eq_of_beq_eq_true h
  rw [← h, Nat.testBit_or, ha, Bool.true_or]

theorem Foot.le_of_testBit {a b : Foot} (h : ∀ i, a.testBit i = true → b.testBit i = true) : a.le b = true := by
  have : a ||| b = b := by
    apply Nat.eq_of_testBit_eq
    intro i
    rw [Nat.testBit_or]
    cases ha : a.testBit i
    · simp
    · simp [h i ha]
  exact (congrArg (Nat.beq · b) this).trans (Nat.beq_refl b)

theorem Foot.le_trans {a b c : Foot} (h : a.le b = true) (h' : b.le c = true) : a.le c = true :=
  Foot.le_of_testBit fun _ hi => Foot.le_testBit h' (Foot.le_testBit h hi)

/-- Inclusion in a set that is included. -/
theorem Foot.sub {a b c : Foot} (h' : b.le c = true) (h : a.le b = true) : a.le c = true := Foot.le_trans h h'

theorem Foot.le_refl (a : Foot) : a.le a = true := Foot.le_of_testBit fun _ h => h

theorem Fld.ctorIdx_lt (f : Fld) : f.ctorIdx < 564 := by
  cases f <;> decide

theorem Foot.allFlds_testBit (i : Nat) : Foot.allFlds.testBit i = (decide (i ≥ 28) && decide (i - 28 < 564)) := by
  rw [Foot.allFlds, ← Nat.pow_mul, ← Nat.pow_add, Nat.mul_comm, Nat.testBit_mul_two_pow, Nat.testBit_two_pow_sub_one]

theorem Fld.le_all (f : Fld) : f.foot.le Foot.allFlds = true := by
  refine Foot.le_of_testBit fun i hi => ?_
  have e : 28 + f.ctorIdx = i := by
    by_contra hne
    rw [Fld.foot_eq, Nat.testBit_two_pow_of_ne hne] at hi
    cases hi
  have := f.ctorIdx_lt
  rw [Foot.allFlds, ← Nat.pow_mul, ← Nat.pow_add, Nat.mul_comm, Nat.testBit_mul_two_pow, Nat.testBit_two_pow_sub_one]
  simp; omega

/-- From s to t nothing changes outside the set k, the queue stays, and the register table and DRAM stay canonical. -/
structure In (k : Foot) (s t : State) : Prop where
  parts : ∀ p : Part, p.foot.le k = false → p.same s t
  regs : ∀ (f : Fld) (i : Nat), f.foot.le k = false → t.rdi f i = s.rdi f i
  pending : t.pending = s.pending
  regsOk : regsOk s.regs = true → regsOk t.regs = true
  dramOk : dramOk s.dram = true → dramOk t.dram = true

/-- A pair whose state is so. -/
structure InP {α : Type} (k : Foot) (s : State) (p : State × α) : Prop where
  fst : In k s p.1

/-- A possible state that is so. -/
structure InOpt (k : Foot) (s : State) (o : Option State) : Prop where
  out : ∀ t, o = some t → In k s t

/-- An outcome whose next state is so. -/
structure InOut (k : Foot) (s : State) (o : Out) : Prop where
  out : ∀ t, o = .next t → In k s t

variable {k : Foot} {s0 : State}

theorem In.refl (k : Foot) (s : State) : In k s s :=
  ⟨fun p _ => by cases p <;> rfl, fun _ _ _ => rfl, rfl, id, id⟩

theorem In.trans {s t u : State} (h : In k s t) (h' : In k t u) : In k s u :=
  ⟨fun p hp => by have a := h.parts p hp; have b := h'.parts p hp; cases p <;> exact Eq.trans b a,
    fun f i hf => (h'.regs f i hf).trans (h.regs f i hf), h'.pending.trans h.pending, h'.regsOk ∘ h.regsOk,
    h'.dramOk ∘ h.dramOk⟩

theorem in_ite {c : Prop} [Decidable c] {a b : State} (ha : In k s0 a) (hb : In k s0 b) :
    In k s0 (if c then a else b) := by split <;> assumption

theorem State.each_in {α : Type} {s : State} {l : List α} {f : State → α → State} (h : In k s0 s)
    (hf : ∀ s x, In k s0 s → In k s0 (f s x)) : In k s0 (s.each l f) := by
  induction l generalizing s with
  | nil => exact h
  | cons a r ih => exact ih (hf s a h)

theorem State.when_in {s : State} {c : Bool} {f : State → State} (h : In k s0 s)
    (hf : ∀ s, In k s0 s → In k s0 (f s)) : In k s0 (s.when c f) := by
  unfold State.when; split
  · exact hf s h
  · exact h

theorem foldl_in {α : Type} {l : List α} {f : State → α → State} {s : State} (h : In k s0 s)
    (hf : ∀ s x, In k s0 s → In k s0 (f s x)) : In k s0 (l.foldl f s) := by
  induction l generalizing s with
  | nil => exact h
  | cons a r ih => exact ih (hf s a h)

theorem InP.pair {α : Type} {s : State} {a : α} (h : In k s0 s) : InP k s0 (s, a) := ⟨h⟩

theorem inP_ite {α : Type} {c : Prop} [Decidable c] {a b : State × α} (ha : InP k s0 a) (hb : InP k s0 b) :
    InP k s0 (if c then a else b) := by split <;> assumption

theorem InP.eq {α : Type} {p : State × α} {s : State} {a : α} (e : p = (s, a)) (h : InP k s0 p) : In k s0 s := by
  subst e; exact h.fst

theorem foldl_inP {α β : Type} {l : List α} {f : State × β → α → State × β} {p : State × β} (h : InP k s0 p)
    (hf : ∀ p x, InP k s0 p → InP k s0 (f p x)) : InP k s0 (l.foldl f p) := by
  induction l generalizing p with
  | nil => exact h
  | cons a r ih => exact ih (hf p a h)

theorem InOpt.some {s : State} (h : In k s0 s) : InOpt k s0 (some s) :=
  ⟨by rintro _ ⟨⟩; exact h⟩

theorem InOpt.none : InOpt k s0 none := ⟨by rintro _ ⟨⟩⟩

theorem inOpt_ite {c : Prop} [Decidable c] {a b : Option State} (ha : InOpt k s0 a) (hb : InOpt k s0 b) :
    InOpt k s0 (if c then a else b) := by split <;> assumption

theorem InOpt.eq {o : Option State} {s : State} (e : o = Option.some s) (h : InOpt k s0 o) : In k s0 s := h.out s e

theorem InOpt.map {o : Option State} {f : State → State} (h : InOpt k s0 o) (hf : ∀ t, In k s0 t → In k s0 (f t)) :
    InOpt k s0 (o.map f) := by
  cases o with
  | none => exact InOpt.none
  | some t => exact InOpt.some (hf t (h.out t rfl))

theorem inOpt_map {α : Type} {o : Option α} {f : α → State} (hf : ∀ a, In k s0 (f a)) : InOpt k s0 (o.map f) := by
  cases o with
  | none => exact InOpt.none
  | some a => exact InOpt.some (hf a)

theorem InOpt.bind {o : Option State} {f : State → Option State} (h : InOpt k s0 o)
    (hf : ∀ t, In k s0 t → InOpt k s0 (f t)) : InOpt k s0 (o.bind f) := by
  cases o with
  | none => exact InOpt.none
  | some t => exact hf t (h.out t rfl)

theorem InOut.next {t : State} (h : In k s0 t) : InOut k s0 (.next t) :=
  ⟨by rintro _ ⟨⟩; exact h⟩

theorem inOut_ite {c : Prop} [Decidable c] {a b : Out} (ha : InOut k s0 a) (hb : InOut k s0 b) :
    InOut k s0 (if c then a else b) := by split <;> assumption

/-! ### Registers -/

theorem State.wri_in {s : State} {f : Fld} {i v : Nat} (h : In k s0 s) (e : f.foot.le k = true) :
    In k s0 (s.wri f i v) :=
  ⟨fun p hp => by have := h.parts p hp; cases p <;> exact this, fun g j hg => by
    rw [State.rdi_wri_ne _ (Or.inl (by rintro rfl; rw [e] at hg; cases hg))]
    exact h.regs g j hg, h.pending, fun x => regsOk_put f i v (h.regsOk x), h.dramOk⟩

theorem State.wr_in {s : State} {f : Fld} {v : Nat} (h : In k s0 s) (e : f.foot.le k = true) : In k s0 (s.wr f v) :=
  State.wri_in h e
theorem State.setf_in {s : State} {f : Fld} {b : Bool} (h : In k s0 s) (e : f.foot.le k = true) :
    In k s0 (s.setf f b) := State.wri_in h e
theorem State.setfi_in {s : State} {f : Fld} {i : Nat} {b : Bool} (h : In k s0 s) (e : f.foot.le k = true) :
    In k s0 (s.setfi f i b) := State.wri_in h e
theorem State.setBitOf_in {s : State} {f : Fld} {i n : Nat} {b : Bool} (h : In k s0 s) (e : f.foot.le k = true) :
    In k s0 (s.setBitOf f i n b) := State.wri_in h e

/-! ### Updates of parts -/

/-- An update of parts beside the registers and DRAM. -/
def InMk (k : Foot) (s0 : State) (t : State) : Prop := In k s0 t

theorem in_mk_iff {regs glb dbk once md jr saved tpe dram fch stl nfc drc int prt cmd waits fences fgv drain mir rae
  sec pwr bst boot freeIdx out pending} :
    In k s0 ⟨regs, glb, dbk, once, md, jr, saved, tpe, dram, fch, stl, nfc, drc, int, prt, cmd, waits, fences, fgv,
      drain, mir, rae, sec, pwr, bst, boot, freeIdx, out, pending⟩ ↔
      InMk k s0 ⟨regs, glb, dbk, once, md, jr, saved, tpe, dram, fch, stl, nfc, drc, int, prt, cmd, waits, fences,
        fgv, drain, mir, rae, sec, pwr, bst, boot, freeIdx, out, pending⟩ := Iff.rfl

theorem InMk.upd {t u : State} (h : In k s0 t) (hr : u.regs = t.regs) (hd : u.dram = t.dram)
    (hw : u.pending = t.pending) (hp : ∀ p : Part, p.foot.le k = false → p.same t u) : InMk k s0 u :=
  ⟨fun p x => by have a := h.parts p x; have b := hp p x; cases p <;> exact Eq.trans b a,
    fun f i hf => by
      have := h.regs f i hf
      simp only [State.rdi] at this ⊢
      rw [hr]; exact this, hw.trans h.pending, fun x => hr ▸ h.regsOk x, fun x => hd ▸ h.dramOk x⟩

theorem InMk.of {t : State} {glb dbk once md jr saved tpe fch stl nfc drc int prt cmd waits fences fgv drain mir rae
  sec pwr bst boot freeIdx out} (h : In k s0 t)
    (h_glb : glb = t.glb ∨ (Part.foot .glb).le k = true)
    (h_dbk : dbk = t.dbk ∨ (Part.foot .dbk).le k = true)
    (h_once : once = t.once ∨ (Part.foot .once).le k = true)
    (h_md : md = t.md ∨ (Part.foot .md).le k = true)
    (h_jr : jr = t.jr ∨ (Part.foot .jr).le k = true)
    (h_saved : saved = t.saved ∨ (Part.foot .saved).le k = true)
    (h_tpe : tpe = t.tpe ∨ (Part.foot .tpe).le k = true)
    (h_fch : fch = t.fch ∨ (Part.foot .fch).le k = true)
    (h_stl : stl = t.stl ∨ (Part.foot .stl).le k = true)
    (h_nfc : nfc = t.nfc ∨ (Part.foot .nfc).le k = true)
    (h_drc : drc = t.drc ∨ (Part.foot .drc).le k = true)
    (h_int : int = t.int ∨ (Part.foot .int).le k = true)
    (h_prt : prt = t.prt ∨ (Part.foot .prt).le k = true)
    (h_cmd : cmd = t.cmd ∨ (Part.foot .cmd).le k = true)
    (h_waits : waits = t.waits ∨ (Part.foot .waits).le k = true)
    (h_fences : fences = t.fences ∨ (Part.foot .fences).le k = true)
    (h_fgv : fgv = t.fgv ∨ (Part.foot .fgv).le k = true)
    (h_drain : drain = t.drain ∨ (Part.foot .drain).le k = true)
    (h_mir : mir = t.mir ∨ (Part.foot .mir).le k = true)
    (h_rae : rae = t.rae ∨ (Part.foot .rae).le k = true)
    (h_sec : sec = t.sec ∨ (Part.foot .sec).le k = true)
    (h_pwr : pwr = t.pwr ∨ (Part.foot .pwr).le k = true)
    (h_bst : bst = t.bst ∨ (Part.foot .bst).le k = true)
    (h_boot : boot = t.boot ∨ (Part.foot .boot).le k = true)
    (h_freeIdx : freeIdx = t.freeIdx ∨ (Part.foot .freeIdx).le k = true)
    (h_out : out = t.out ∨ (Part.foot .out).le k = true)
    : InMk k s0 ⟨t.regs, glb, dbk, once, md, jr, saved, tpe, t.dram, fch, stl, nfc, drc, int, prt, cmd, waits, fences,
      fgv, drain, mir, rae, sec, pwr, bst, boot, freeIdx, out, t.pending⟩ := by
  refine InMk.upd h rfl rfl rfl fun p hp => ?_
  cases p <;> first
    | rfl
    | exact h_glb.resolve_right (by rw [hp]; decide)
    | exact h_dbk.resolve_right (by rw [hp]; decide)
    | exact h_once.resolve_right (by rw [hp]; decide)
    | exact h_md.resolve_right (by rw [hp]; decide)
    | exact h_jr.resolve_right (by rw [hp]; decide)
    | exact h_saved.resolve_right (by rw [hp]; decide)
    | exact h_tpe.resolve_right (by rw [hp]; decide)
    | exact h_fch.resolve_right (by rw [hp]; decide)
    | exact h_stl.resolve_right (by rw [hp]; decide)
    | exact h_nfc.resolve_right (by rw [hp]; decide)
    | exact h_drc.resolve_right (by rw [hp]; decide)
    | exact h_int.resolve_right (by rw [hp]; decide)
    | exact h_prt.resolve_right (by rw [hp]; decide)
    | exact h_cmd.resolve_right (by rw [hp]; decide)
    | exact h_waits.resolve_right (by rw [hp]; decide)
    | exact h_fences.resolve_right (by rw [hp]; decide)
    | exact h_fgv.resolve_right (by rw [hp]; decide)
    | exact h_drain.resolve_right (by rw [hp]; decide)
    | exact h_mir.resolve_right (by rw [hp]; decide)
    | exact h_rae.resolve_right (by rw [hp]; decide)
    | exact h_sec.resolve_right (by rw [hp]; decide)
    | exact h_pwr.resolve_right (by rw [hp]; decide)
    | exact h_bst.resolve_right (by rw [hp]; decide)
    | exact h_boot.resolve_right (by rw [hp]; decide)
    | exact h_freeIdx.resolve_right (by rw [hp]; decide)
    | exact h_out.resolve_right (by rw [hp]; decide)

end Sys2Proof.Machine
end

