-- ==== Sys2Proof/Laws/FrameFlags.lean ====
section
/-! SUPPORT. The footprints of the operations of Machine/Ops and Machine/Flags (Laws/Frame). -/

namespace Sys2Proof.Machine

variable {ft : Foot} {s0 : State}

def State.send_foot : Foot := Part.out.foot
theorem State.send_in {s : State} {m : Msg} (hks : In ft s0 s) (hft : State.send_foot.le ft = true) :
    In ft s0 (State.send s m) := by
  unfold State.send
  repeat' first
    | (extract_lets +onlyGivenNames x; clear_value x)
    | with_reducible first | assumption
    | exact Foot.sub hft rfl
    | with_reducible exact Or.inl rfl
    | exact Or.inr (Foot.sub hft rfl)
    | with_reducible apply InMk.of
    | simp -zeta only [in_mk_iff]

def State.freeNext_foot : Foot := Part.freeIdx.foot
theorem State.freeNext_in {s : State} (hks : In ft s0 s) (hft : State.freeNext_foot.le ft = true) :
    In ft s0 (State.freeNext s) := by
  unfold State.freeNext
  repeat' first
    | (extract_lets +onlyGivenNames x; clear_value x)
    | with_reducible first | assumption
    | exact Foot.sub hft rfl
    | with_reducible exact Or.inl rfl
    | exact Or.inr (Foot.sub hft rfl)
    | with_reducible apply InMk.of
    | simp -zeta only [in_mk_iff]

def State.reshareSlot_foot : Foot := Part.sec.foot ||| State.freeNext_foot
theorem State.reshareSlot_in {s : State} {k : Nat} (hks : In ft s0 s) (hft : State.reshareSlot_foot.le ft = true) :
    In ft s0 (State.reshareSlot s k) := by
  unfold State.reshareSlot
  repeat' first
    | (extract_lets +onlyGivenNames x
       first
       | (have : In ft s0 x := by
            subst x
            repeat' first
              | with_reducible first | assumption | apply State.freeNext_in
              | exact Foot.sub hft rfl
              | with_reducible exact Or.inl rfl
              | exact Or.inr (Foot.sub hft rfl)
              | with_reducible apply InMk.of
              | simp -zeta only [in_mk_iff]
              | split
          clear_value x)
       | clear_value x
       | subst x)
    | with_reducible first | assumption | apply State.freeNext_in
    | exact Foot.sub hft rfl
    | with_reducible exact Or.inl rfl
    | exact Or.inr (Foot.sub hft rfl)
    | with_reducible apply InMk.of
    | simp -zeta only [in_mk_iff]
    | split

def State.reshareKek_foot : Foot := Part.sec.foot ||| State.freeNext_foot
theorem State.reshareKek_in {s : State} {d : Nat} (hks : In ft s0 s) (hft : State.reshareKek_foot.le ft = true) :
    In ft s0 (State.reshareKek s d) := by
  unfold State.reshareKek
  repeat' first
    | (extract_lets +onlyGivenNames x
       first
       | (have : In ft s0 x := by
            subst x
            repeat' first
              | with_reducible first | assumption | apply State.freeNext_in
              | exact Foot.sub hft rfl
              | with_reducible exact Or.inl rfl
              | exact Or.inr (Foot.sub hft rfl)
              | with_reducible apply InMk.of
              | simp -zeta only [in_mk_iff]
              | split
          clear_value x)
       | clear_value x
       | subst x)
    | with_reducible first | assumption | apply State.freeNext_in
    | exact Foot.sub hft rfl
    | with_reducible exact Or.inl rfl
    | exact Or.inr (Foot.sub hft rfl)
    | with_reducible apply InMk.of
    | simp -zeta only [in_mk_iff]
    | split

def State.reshareAll_foot : Foot := State.reshareSlot_foot ||| State.reshareKek_foot
theorem State.reshareAll_in {s : State} (hks : In ft s0 s) (hft : State.reshareAll_foot.le ft = true) :
    In ft s0 (State.reshareAll s) := by
  unfold State.reshareAll
  repeat' first
    | (extract_lets +onlyGivenNames x
       first
       | (have : In ft s0 x := by
            subst x
            repeat' first
              | with_reducible first
                  | assumption | apply State.each_in | apply State.reshareSlot_in | apply State.reshareKek_in
              | exact Foot.sub hft rfl
              | intro _ _ _
              | intro _ _
          clear_value x)
       | clear_value x
       | subst x)
    | with_reducible first | assumption | apply State.each_in | apply State.reshareSlot_in | apply State.reshareKek_in
    | exact Foot.sub hft rfl
    | intro _ _ _
    | intro _ _

def State.setSlotKey_foot : Foot := Part.sec.foot ||| State.freeNext_foot
theorem State.setSlotKey_in {s : State} {k v : Nat} (hks : In ft s0 s) (hft : State.setSlotKey_foot.le ft = true) :
    In ft s0 (State.setSlotKey s k v) := by
  unfold State.setSlotKey
  repeat' first
    | (extract_lets +onlyGivenNames x
       first
       | (have : In ft s0 x := by
            subst x
            repeat' first
              | with_reducible first | assumption | apply State.freeNext_in
              | exact Foot.sub hft rfl
              | with_reducible exact Or.inl rfl
              | exact Or.inr (Foot.sub hft rfl)
              | with_reducible apply InMk.of
              | simp -zeta only [in_mk_iff]
          clear_value x)
       | clear_value x
       | subst x)
    | with_reducible first | assumption | apply State.freeNext_in
    | exact Foot.sub hft rfl
    | with_reducible exact Or.inl rfl
    | exact Or.inr (Foot.sub hft rfl)
    | with_reducible apply InMk.of
    | simp -zeta only [in_mk_iff]

def State.clearSlotKey_foot : Foot := Part.sec.foot
theorem State.clearSlotKey_in {s : State} {k : Nat} (hks : In ft s0 s) (hft : State.clearSlotKey_foot.le ft = true) :
    In ft s0 (State.clearSlotKey s k) := by
  unfold State.clearSlotKey
  repeat' first
    | (extract_lets +onlyGivenNames x
       first
       | (have : In ft s0 x := by
            subst x
            repeat' first
              | with_reducible first | assumption
              | exact Foot.sub hft rfl
              | with_reducible exact Or.inl rfl
              | exact Or.inr (Foot.sub hft rfl)
              | with_reducible apply InMk.of
              | simp -zeta only [in_mk_iff]
          clear_value x)
       | clear_value x
       | subst x)
    | with_reducible first | assumption
    | exact Foot.sub hft rfl
    | with_reducible exact Or.inl rfl
    | exact Or.inr (Foot.sub hft rfl)
    | with_reducible apply InMk.of
    | simp -zeta only [in_mk_iff]

def State.setKek_foot : Foot := Part.sec.foot ||| State.freeNext_foot
theorem State.setKek_in {s : State} {d v : Nat} (hks : In ft s0 s) (hft : State.setKek_foot.le ft = true) :
    In ft s0 (State.setKek s d v) := by
  unfold State.setKek
  repeat' first
    | (extract_lets +onlyGivenNames x
       first
       | (have : In ft s0 x := by
            subst x
            repeat' first
              | with_reducible first | assumption | apply State.freeNext_in
              | exact Foot.sub hft rfl
              | with_reducible exact Or.inl rfl
              | exact Or.inr (Foot.sub hft rfl)
              | with_reducible apply InMk.of
              | simp -zeta only [in_mk_iff]
          clear_value x)
       | clear_value x
       | subst x)
    | with_reducible first | assumption | apply State.freeNext_in
    | exact Foot.sub hft rfl
    | with_reducible exact Or.inl rfl
    | exact Or.inr (Foot.sub hft rfl)
    | with_reducible apply InMk.of
    | simp -zeta only [in_mk_iff]

def State.clearKek_foot : Foot := Part.sec.foot
theorem State.clearKek_in {s : State} {d : Nat} (hks : In ft s0 s) (hft : State.clearKek_foot.le ft = true) :
    In ft s0 (State.clearKek s d) := by
  unfold State.clearKek
  repeat' first
    | (extract_lets +onlyGivenNames x
       first
       | (have : In ft s0 x := by
            subst x
            repeat' first
              | with_reducible first | assumption
              | exact Foot.sub hft rfl
              | with_reducible exact Or.inl rfl
              | exact Or.inr (Foot.sub hft rfl)
              | with_reducible apply InMk.of
              | simp -zeta only [in_mk_iff]
          clear_value x)
       | clear_value x
       | subst x)
    | with_reducible first | assumption
    | exact Foot.sub hft rfl
    | with_reducible exact Or.inl rfl
    | exact Or.inr (Foot.sub hft rfl)
    | with_reducible apply InMk.of
    | simp -zeta only [in_mk_iff]

def State.dbkTail_foot : Foot := Fld.TAIL_SEQ.foot ||| Fld.TAIL_OFS.foot
theorem State.dbkTail_in {s : State} (hks : In ft s0 s) (hft : State.dbkTail_foot.le ft = true) :
    In ft s0 (State.dbkTail s) := by
  unfold State.dbkTail
  repeat' first
    | with_reducible first | assumption | apply State.wr_in
    | exact Foot.sub hft rfl
    | split

def State.dbkPlace_foot : Foot := Fld.HEAD_SEQ.foot ||| Fld.HEAD_OFS.foot ||| Part.dbk.foot ||| State.dbkTail_foot
theorem State.dbkPlace_in {s : State} {cls dom rule : Nat} {items : List (Nat × Nat)} (hks : In ft s0 s)
    (hft : State.dbkPlace_foot.le ft = true) :
    InOpt ft s0 (State.dbkPlace s cls dom rule items) := by
  unfold State.dbkPlace
  repeat' first
    | (extract_lets +onlyGivenNames x
       first
       | (have : In ft s0 x := by
            subst x
            repeat' first
              | (extract_lets +onlyGivenNames x; subst x)
              | with_reducible first
                  | assumption | apply State.wr_in | apply State.dbkTail_in | apply inOpt_ite | apply in_ite
                  | apply InOpt.some | apply InOpt.none | apply inOpt_map
              | exact Foot.sub hft rfl
              | with_reducible exact Or.inl rfl
              | exact Or.inr (Foot.sub hft rfl)
              | with_reducible apply InMk.of
              | simp -zeta only [in_mk_iff]
              | split
              | intro _ _ _
              | intro _ _
              | intro _
          clear_value x)
       | clear_value x
       | subst x)
    | with_reducible first
        | assumption | apply State.wr_in | apply State.dbkTail_in | apply inOpt_ite | apply in_ite | apply InOpt.some
        | apply InOpt.none | apply inOpt_map
    | exact Foot.sub hft rfl
    | with_reducible exact Or.inl rfl
    | exact Or.inr (Foot.sub hft rfl)
    | with_reducible apply InMk.of
    | simp -zeta only [in_mk_iff]
    | split
    | intro _ _ _
    | intro _ _
    | intro _

def State.flushStart_foot : Foot := Fld.FLUSH_BUSY.foot ||| Part.dbk.foot
theorem State.flushStart_in {s : State} (hks : In ft s0 s) (hft : State.flushStart_foot.le ft = true) :
    In ft s0 (State.flushStart s) := by
  unfold State.flushStart
  repeat' first
    | (extract_lets +onlyGivenNames x
       first
       | (have : In ft s0 x := by
            subst x
            repeat' first
              | with_reducible first | assumption | apply State.setf_in | apply in_ite
              | exact Foot.sub hft rfl
              | with_reducible exact Or.inl rfl
              | exact Or.inr (Foot.sub hft rfl)
              | with_reducible apply InMk.of
              | simp -zeta only [in_mk_iff]
              | split
          clear_value x)
       | clear_value x
       | subst x)
    | with_reducible first | assumption | apply State.setf_in | apply in_ite
    | exact Foot.sub hft rfl
    | with_reducible exact Or.inl rfl
    | exact Or.inr (Foot.sub hft rfl)
    | with_reducible apply InMk.of
    | simp -zeta only [in_mk_iff]
    | split

def State.dbkFlush_foot : Foot := State.flushStart_foot
theorem State.dbkFlush_in {s : State} (hks : In ft s0 s) (hft : State.dbkFlush_foot.le ft = true) :
    In ft s0 (State.dbkFlush s) := by
  unfold State.dbkFlush
  repeat' first
    | with_reducible first | assumption | apply State.flushStart_in | apply in_ite
    | exact Foot.sub hft rfl
    | split

def State.dbkDrop_foot : Foot :=
  Fld.LOST.foot ||| Fld.LOST_CNT.foot ||| Fld.DBK_FLAGS_CNT_OVF.foot ||| Part.dbk.foot
theorem State.dbkDrop_in {s : State} (hks : In ft s0 s) (hft : State.dbkDrop_foot.le ft = true) :
    In ft s0 (State.dbkDrop s) := by
  unfold State.dbkDrop
  repeat' first
    | (extract_lets +onlyGivenNames x
       first
       | (have : In ft s0 x := by
            subst x
            repeat' first
              | (extract_lets +onlyGivenNames x; subst x)
              | with_reducible first
                  | assumption | apply State.wr_in | apply State.setf_in | apply State.setBitOf_in
                  | apply State.when_in | apply in_ite
              | exact Foot.sub hft rfl
              | with_reducible exact Or.inl rfl
              | exact Or.inr (Foot.sub hft rfl)
              | with_reducible apply InMk.of
              | simp -zeta only [in_mk_iff]
              | split
              | intro _ _ _
              | intro _ _
          clear_value x)
       | clear_value x
       | subst x)
    | with_reducible first
        | assumption | apply State.wr_in | apply State.setf_in | apply State.setBitOf_in | apply State.when_in
        | apply in_ite
    | exact Foot.sub hft rfl
    | with_reducible exact Or.inl rfl
    | exact Or.inr (Foot.sub hft rfl)
    | with_reducible apply InMk.of
    | simp -zeta only [in_mk_iff]
    | split
    | intro _ _ _
    | intro _ _

def State.record_foot : Foot :=
  Part.dbk.foot ||| State.dbkPlace_foot ||| State.dbkFlush_foot ||| State.dbkDrop_foot
theorem State.record_in {s : State} {cls dom rule : Nat} {items : List (Nat × Nat)} (hks : In ft s0 s)
    (hft : State.record_foot.le ft = true) : In ft s0 (State.record s cls dom rule items) := by
  have e1 : State.dbkPlace_foot.le ft = true := Foot.sub hft rfl
  have e2 : Part.dbk.foot.le ft = true := Foot.sub hft rfl
  unfold State.record
  extract_lets s1
  have h1 : InOpt ft s0 s1 := by
    subst s1
    split
    · exact InOpt.some hks
    · exact (State.dbkPlace_in hks e1).map fun t ht => in_mk_iff.2 (InMk.upd ht rfl rfl rfl fun p hp => by
        cases p <;> first | rfl | (rw [e2] at hp; cases hp))
  clear_value s1
  split
  · rename_i t e'
    exact State.when_in (InOpt.eq e' (h1.bind fun t ht => State.dbkPlace_in ht e1)) fun s hs =>
      State.dbkFlush_in hs (Foot.sub hft rfl)
  · exact State.dbkDrop_in hks (Foot.sub hft rfl)

def State.recordOnce_foot : Foot := Part.once.foot ||| State.record_foot
theorem State.recordOnce_in {s : State} {key : Nat} {cls dom rule : Nat} {items : List (Nat × Nat)}
    (hks : In ft s0 s) (hft : State.recordOnce_foot.le ft = true) :
    In ft s0 (State.recordOnce s key cls dom rule items) := by
  unfold State.recordOnce
  repeat' first
    | (extract_lets +onlyGivenNames x; clear_value x)
    | with_reducible first | assumption | apply State.record_in | apply in_ite
    | exact Foot.sub hft rfl
    | with_reducible exact Or.inl rfl
    | exact Or.inr (Foot.sub hft rfl)
    | with_reducible apply InMk.of
    | simp -zeta only [in_mk_iff]
    | split

def State.count_foot : Foot := State.record_foot
theorem State.count_in {s : State} {f : Fld} {i : Nat} {ovf : Fld} {oi b : Nat} (hks : In ft s0 s)
    (hf : f.foot.le ft = true) (ho : ovf.foot.le ft = true) (hft : State.count_foot.le ft = true) :
    In ft s0 (State.count s f i ovf oi b) := by
  unfold State.count
  repeat' first
    | (extract_lets +onlyGivenNames x; first | (have : In ft s0 x := State.wri_in hks hf; clear_value x) | clear_value x)
    | with_reducible first | assumption | apply State.record_in | apply State.setBitOf_in | apply in_ite
    | exact Foot.sub hft rfl

def State.intSend_foot : Foot := Fld.INT_TGT_ERR.foot ||| Part.glb.foot ||| State.send_foot
theorem State.intSend_in {s : State} (hks : In ft s0 s) (hft : State.intSend_foot.le ft = true) :
    In ft s0 (State.intSend s) := by
  unfold State.intSend
  repeat' first
    | (extract_lets +onlyGivenNames x
       first
       | (have : In ft s0 x := by
            subst x
            repeat' first
              | (extract_lets +onlyGivenNames x; subst x)
              | with_reducible first | assumption | apply State.setf_in | apply State.send_in | apply in_ite
              | exact Foot.sub hft rfl
              | with_reducible exact Or.inl rfl
              | exact Or.inr (Foot.sub hft rfl)
              | with_reducible apply InMk.of
              | simp -zeta only [in_mk_iff]
              | split
          clear_value x)
       | clear_value x
       | subst x)
    | with_reducible first | assumption | apply State.setf_in | apply State.send_in | apply in_ite
    | exact Foot.sub hft rfl
    | with_reducible exact Or.inl rfl
    | exact Or.inr (Foot.sub hft rfl)
    | with_reducible apply InMk.of
    | simp -zeta only [in_mk_iff]
    | split

def State.intBit_foot : Foot := Part.glb.foot ||| State.intSend_foot
theorem State.intBit_in {s : State} {b : Nat} {wasSet : Bool} (hks : In ft s0 s)
    (hft : State.intBit_foot.le ft = true) :
    In ft s0 (State.intBit s b wasSet) := by
  unfold State.intBit
  repeat' first
    | (extract_lets +onlyGivenNames x; clear_value x)
    | with_reducible first | assumption | apply State.intSend_in | apply in_ite
    | exact Foot.sub hft rfl
    | with_reducible exact Or.inl rfl
    | exact Or.inr (Foot.sub hft rfl)
    | with_reducible apply InMk.of
    | simp -zeta only [in_mk_iff]
    | split

def State.alertOut_foot : Foot := Fld.ALERT_OUT.foot
theorem State.alertOut_in {s : State} (hks : In ft s0 s) (hft : State.alertOut_foot.le ft = true) :
    In ft s0 (State.alertOut s) := by
  unfold State.alertOut
  repeat' first
    | (extract_lets +onlyGivenNames x; clear_value x)
    | with_reducible first | assumption | apply State.setf_in
    | exact Foot.sub hft rfl

def State.alert_foot : Foot := Fld.ALERT_CAUSE.foot ||| State.intBit_foot ||| State.alertOut_foot
theorem State.alert_in {s : State} {b : Nat} (hks : In ft s0 s) (hft : State.alert_foot.le ft = true) :
    In ft s0 (State.alert s b) := by
  unfold State.alert
  repeat' first
    | (extract_lets +onlyGivenNames x; clear_value x)
    | with_reducible first | assumption | apply State.setBitOf_in | apply State.intBit_in | apply State.alertOut_in
    | exact Foot.sub hft rfl

def State.alertFatal_foot : Foot := Fld.ALERT_FATAL.foot ||| State.intBit_foot ||| State.alertOut_foot
theorem State.alertFatal_in {s : State} (hks : In ft s0 s) (hft : State.alertFatal_foot.le ft = true) :
    In ft s0 (State.alertFatal s) := by
  unfold State.alertFatal
  repeat' first
    | (extract_lets +onlyGivenNames x; clear_value x)
    | with_reducible first | assumption | apply State.setf_in | apply State.intBit_in | apply State.alertOut_in
    | exact Foot.sub hft rfl

end Sys2Proof.Machine
end

