-- ==== Sys2Proof/Laws/FrameMemOps.lean ====
section
/-! SUPPORT. The footprints of the operations of Machine/MemOps (Laws/Frame). -/

namespace Sys2Proof.Machine

variable {ft : Foot} {s0 : State}

def State.chargeKey_foot : Foot := Fld.FLOAT_PAGES.foot ||| Fld.CHARGE.foot ||| Part.stl.foot
theorem State.chargeKey_in {s : State} {d : Nat} {k : Key} (hks : In ft s0 s)
    (hft : State.chargeKey_foot.le ft = true) :
    In ft s0 (State.chargeKey s d k) := by
  unfold State.chargeKey
  repeat' first
    | (extract_lets +onlyGivenNames x
       first
       | (have : In ft s0 x := by
            subst x
            repeat' first
              | with_reducible first | assumption | apply State.wri_in | apply State.wr_in
              | exact Foot.sub hft rfl
              | with_reducible exact Or.inl rfl
              | exact Or.inr (Foot.sub hft rfl)
              | with_reducible apply InMk.of
              | simp -zeta only [in_mk_iff]
          clear_value x)
       | clear_value x
       | subst x)
    | with_reducible first | assumption | apply State.wri_in | apply State.wr_in
    | exact Foot.sub hft rfl
    | with_reducible exact Or.inl rfl
    | exact Or.inr (Foot.sub hft rfl)
    | with_reducible apply InMk.of
    | simp -zeta only [in_mk_iff]

def State.releaseKey_foot : Foot := Fld.FLOAT_PAGES.foot ||| Fld.CHARGE.foot ||| Part.stl.foot
theorem State.releaseKey_in {s : State} {d : Nat} {k : Key} (hks : In ft s0 s)
    (hft : State.releaseKey_foot.le ft = true) :
    In ft s0 (State.releaseKey s d k) := by
  unfold State.releaseKey
  repeat' first
    | (extract_lets +onlyGivenNames x
       first
       | (have : In ft s0 x := by
            subst x
            repeat' first
              | with_reducible first | assumption | apply State.wri_in | apply State.wr_in
              | exact Foot.sub hft rfl
              | with_reducible exact Or.inl rfl
              | exact Or.inr (Foot.sub hft rfl)
              | with_reducible apply InMk.of
              | simp -zeta only [in_mk_iff]
          clear_value x)
       | clear_value x
       | subst x)
    | with_reducible first | assumption | apply State.wri_in | apply State.wr_in
    | exact Foot.sub hft rfl
    | with_reducible exact Or.inl rfl
    | exact Or.inr (Foot.sub hft rfl)
    | with_reducible apply InMk.of
    | simp -zeta only [in_mk_iff]

def State.dreq_foot : Foot := Part.drc.foot
theorem State.dreq_in {s : State} {la n : Nat} {wr : Bool} {tag : DTag} {cls : Nat} (hks : In ft s0 s)
    (hft : State.dreq_foot.le ft = true) :
    In ft s0 (State.dreq s la n wr tag cls) := by
  unfold State.dreq
  repeat' first
    | (extract_lets +onlyGivenNames x
       first
       | (have : In ft s0 x := by
            subst x
            repeat' first
              | with_reducible first | assumption | apply in_ite
              | exact Foot.sub hft rfl
              | with_reducible exact Or.inl rfl
              | exact Or.inr (Foot.sub hft rfl)
              | with_reducible apply InMk.of
              | simp -zeta only [in_mk_iff]
              | split
          clear_value x)
       | clear_value x
       | subst x)
    | with_reducible first | assumption | apply in_ite
    | exact Foot.sub hft rfl
    | with_reducible exact Or.inl rfl
    | exact Or.inr (Foot.sub hft rfl)
    | with_reducible apply InMk.of
    | simp -zeta only [in_mk_iff]
    | split

def State.chargeJPage_foot : Foot := Part.jr.foot ||| State.chargeKey_foot
theorem State.chargeJPage_in {s : State} {p : Nat} (hks : In ft s0 s) (hft : State.chargeJPage_foot.le ft = true) :
    In ft s0 (State.chargeJPage s p) := by
  unfold State.chargeJPage
  repeat' first
    | (extract_lets +onlyGivenNames x
       first
       | (have : In ft s0 x := by
            subst x
            repeat' first
              | with_reducible first | assumption | apply State.chargeKey_in | apply in_ite
              | exact Foot.sub hft rfl
              | with_reducible exact Or.inl rfl
              | exact Or.inr (Foot.sub hft rfl)
              | with_reducible apply InMk.of
              | simp -zeta only [in_mk_iff]
              | split
          clear_value x)
       | clear_value x
       | subst x)
    | with_reducible first | assumption | apply State.chargeKey_in | apply in_ite
    | exact Foot.sub hft rfl
    | with_reducible exact Or.inl rfl
    | exact Or.inr (Foot.sub hft rfl)
    | with_reducible apply InMk.of
    | simp -zeta only [in_mk_iff]
    | split

def State.journal_foot : Foot := Part.md.foot ||| Part.jr.foot ||| State.dreq_foot ||| State.chargeJPage_foot
theorem State.journal_in {s : State} {ops : List JOp} (hks : In ft s0 s) (hft : State.journal_foot.le ft = true) :
    In ft s0 (State.journal s ops) := by
  unfold State.journal
  repeat' first
    | (extract_lets +onlyGivenNames x
       first
       | (have : In ft s0 x := by
            subst x
            repeat' first
              | with_reducible first | assumption | apply State.dreq_in | apply State.chargeJPage_in | apply foldl_in
              | exact Foot.sub hft rfl
              | with_reducible exact Or.inl rfl
              | exact Or.inr (Foot.sub hft rfl)
              | with_reducible apply InMk.of
              | simp -zeta only [in_mk_iff]
              | intro _ _ _
              | intro _ _
              | with_reducible apply InP.pair
          clear_value x)
       | clear_value x
       | subst x)
    | with_reducible first | assumption | apply State.dreq_in | apply State.chargeJPage_in | apply foldl_in
    | exact Foot.sub hft rfl
    | with_reducible exact Or.inl rfl
    | exact Or.inr (Foot.sub hft rfl)
    | with_reducible apply InMk.of
    | simp -zeta only [in_mk_iff]
    | intro _ _ _
    | intro _ _
    | with_reducible apply InP.pair

def State.setMap_foot : Foot := Part.md.foot
theorem State.setMap_in {s : State} {ix : Nat} {e : MapE} (hks : In ft s0 s) (hft : State.setMap_foot.le ft = true) :
    In ft s0 (State.setMap s ix e) := by
  unfold State.setMap
  repeat' first
    | (extract_lets +onlyGivenNames x; clear_value x)
    | with_reducible first | assumption
    | exact Foot.sub hft rfl
    | with_reducible exact Or.inl rfl
    | exact Or.inr (Foot.sub hft rfl)
    | with_reducible apply InMk.of
    | simp -zeta only [in_mk_iff]

def State.setFrame_foot : Foot := Part.tpe.foot
theorem State.setFrame_in {s : State} {f : Nat} {e : Frame} (hks : In ft s0 s)
    (hft : State.setFrame_foot.le ft = true) :
    In ft s0 (State.setFrame s f e) := by
  unfold State.setFrame
  repeat' first
    | (extract_lets +onlyGivenNames x; clear_value x)
    | with_reducible first | assumption
    | exact Foot.sub hft rfl
    | with_reducible exact Or.inl rfl
    | exact Or.inr (Foot.sub hft rfl)
    | with_reducible apply InMk.of
    | simp -zeta only [in_mk_iff]

def State.ceilFlag_foot : Foot := Fld.OVER_CEIL.foot
theorem State.ceilFlag_in {s : State} {d : Nat} (hks : In ft s0 s) (hft : State.ceilFlag_foot.le ft = true) :
    In ft s0 (State.ceilFlag s d) := by
  unfold State.ceilFlag
  repeat' first
    | with_reducible first | assumption | apply State.setfi_in
    | exact Foot.sub hft rfl

def State.takeFrame_foot : Foot :=
  Fld.FREE_FRAMES.foot ||| Fld.TALLY.foot ||| State.setFrame_foot ||| State.ceilFlag_foot
theorem State.takeFrame_in {s : State} {e : Frame} (hks : In ft s0 s) (hft : State.takeFrame_foot.le ft = true) :
    In ft s0 (State.takeFrame s e) := by
  unfold State.takeFrame
  repeat' first
    | (extract_lets +onlyGivenNames x
       first
       | (have : In ft s0 x := by
            subst x
            repeat' first
              | (extract_lets +onlyGivenNames x; subst x)
              | with_reducible first
                  | assumption | apply State.wri_in | apply State.wr_in | apply State.setFrame_in
                  | apply State.ceilFlag_in
              | exact Foot.sub hft rfl
          clear_value x)
       | clear_value x
       | subst x)
    | with_reducible first
        | assumption | apply State.wri_in | apply State.wr_in | apply State.setFrame_in | apply State.ceilFlag_in
    | exact Foot.sub hft rfl

def State.floors_foot : Foot :=
  Fld.FLOOR_EFF.foot ||| Fld.FLOOR_SCALED.foot ||| Fld.FLOOR_CLAMP.foot ||| State.record_foot
theorem State.floors_in {s : State} (hks : In ft s0 s) (hft : State.floors_foot.le ft = true) :
    In ft s0 (State.floors s) := by
  unfold State.floors
  repeat' first
    | (extract_lets +onlyGivenNames x
       first
       | (have : In ft s0 x := by
            subst x
            repeat' first
              | (extract_lets +onlyGivenNames x; subst x)
              | with_reducible first
                  | assumption | apply State.wri_in | apply State.setf_in | apply State.each_in
                  | apply State.record_in | apply in_ite
              | exact Foot.sub hft rfl
              | split
              | intro _ _ _
              | intro _ _
          clear_value x)
       | clear_value x
       | subst x)
    | with_reducible first
        | assumption | apply State.wri_in | apply State.setf_in | apply State.each_in | apply State.record_in
        | apply in_ite
    | exact Foot.sub hft rfl
    | split
    | intro _ _ _
    | intro _ _

def State.dropRemap_foot : Foot :=
  Fld.VALID.foot ||| Fld.LA.foot ||| Fld.INT_REMAP_DEVICE.foot ||| Fld.SPPR_PEND.foot ||| Fld.REMAP_USED.foot
theorem State.dropRemap_in {s : State} {c e : Nat} (hks : In ft s0 s) (hft : State.dropRemap_foot.le ft = true) :
    In ft s0 (State.dropRemap s c e) := by
  unfold State.dropRemap
  repeat' first
    | (extract_lets +onlyGivenNames x
       first
       | (have : In ft s0 x := by
            subst x
            repeat' first
              | (extract_lets +onlyGivenNames x; subst x)
              | with_reducible first | assumption | apply State.wri_in | apply State.setfi_in
              | exact Foot.sub hft rfl
          clear_value x)
       | clear_value x
       | subst x)
    | with_reducible first | assumption | apply State.wri_in | apply State.setfi_in
    | exact Foot.sub hft rfl

def State.freeRemap_foot : Foot := State.dropRemap_foot
theorem State.freeRemap_in {s : State} {f : Nat} (hks : In ft s0 s) (hft : State.freeRemap_foot.le ft = true) :
    In ft s0 (State.freeRemap s f) := by
  unfold State.freeRemap
  repeat' first
    | with_reducible first | assumption | apply State.when_in | apply State.each_in | apply State.dropRemap_in
    | exact Foot.sub hft rfl
    | intro _ _ _
    | intro _ _

def State.dropLines_foot : Foot := Part.dram.foot
theorem State.dropLines_in {s : State} {f : Nat} (hks : In ft s0 s) (hft : State.dropLines_foot.le ft = true) :
    In ft s0 (s.dropLines f) :=
  ⟨fun p hp => by
      have := hks.parts p hp
      cases p <;> first
        | exact this
        | (have h : Part.dram.foot.le ft = true := Foot.sub hft rfl; rw [h] at hp; cases hp),
    fun f i hf => hks.regs f i hf, hks.pending, hks.regsOk, fun h => by
      rw [State.dropLines]
      dsimp only
      exact dramOk_filter _ (hks.dramOk h)⟩

def State.freeFrame_foot : Foot :=
  Fld.RECODE_LEFT.foot ||| Fld.TALLY.foot ||| Fld.RETIRE_PEND.foot ||| Fld.POOL_FRAMES.foot |||
    Fld.FREE_FRAMES.foot ||| Fld.POOL_DRY.foot ||| Part.tpe.foot ||| Part.int.foot ||| State.setFrame_foot |||
    State.ceilFlag_foot ||| State.floors_foot ||| State.freeRemap_foot ||| State.dropLines_foot
theorem State.freeFrame_in {s : State} {f : Nat} (hks : In ft s0 s) (hft : State.freeFrame_foot.le ft = true) :
    In ft s0 (State.freeFrame s f) := by
  unfold State.freeFrame
  repeat' first
    | (extract_lets +onlyGivenNames x
       first
       | (have : In ft s0 x := by
            subst x
            repeat' first
              | (extract_lets +onlyGivenNames x; subst x)
              | with_reducible first
                  | assumption | apply State.wri_in | apply State.wr_in | apply State.setf_in
                  | apply State.setFrame_in | apply State.ceilFlag_in | apply State.floors_in
                  | apply State.freeRemap_in | apply State.dropLines_in | apply in_ite
              | exact Foot.sub hft rfl
              | with_reducible exact Or.inl rfl
              | exact Or.inr (Foot.sub hft rfl)
              | with_reducible apply InMk.of
              | simp -zeta only [in_mk_iff]
              | split
          clear_value x)
       | clear_value x
       | subst x)
    | with_reducible first
        | assumption | apply State.wri_in | apply State.wr_in | apply State.setf_in | apply State.setFrame_in
        | apply State.ceilFlag_in | apply State.floors_in | apply State.freeRemap_in | apply State.dropLines_in
        | apply in_ite
    | exact Foot.sub hft rfl
    | with_reducible exact Or.inl rfl
    | exact Or.inr (Foot.sub hft rfl)
    | with_reducible apply InMk.of
    | simp -zeta only [in_mk_iff]
    | split

def State.chargeCp_foot : Foot := State.chargeKey_foot ||| State.setMap_foot ||| State.setFrame_foot
theorem State.chargeCp_in {s : State} {ix k d : Nat} (hks : In ft s0 s) (hft : State.chargeCp_foot.le ft = true) :
    In ft s0 (State.chargeCp s ix k d) := by
  unfold State.chargeCp
  repeat' first
    | (extract_lets +onlyGivenNames x
       first
       | (have : In ft s0 x := by
            subst x
            repeat' first
              | (extract_lets +onlyGivenNames x; subst x)
              | with_reducible first
                  | assumption | apply State.chargeKey_in | apply State.setMap_in | apply State.setFrame_in
              | exact Foot.sub hft rfl
              | with_reducible exact Or.inl rfl
              | exact Or.inr (Foot.sub hft rfl)
              | with_reducible apply InMk.of
              | simp -zeta only [in_mk_iff]
              | split
          clear_value x)
       | clear_value x
       | subst x)
    | with_reducible first | assumption | apply State.chargeKey_in | apply State.setMap_in | apply State.setFrame_in
    | exact Foot.sub hft rfl
    | with_reducible exact Or.inl rfl
    | exact Or.inr (Foot.sub hft rfl)
    | with_reducible apply InMk.of
    | simp -zeta only [in_mk_iff]
    | split

def State.releaseCp_foot : Foot := State.releaseKey_foot ||| State.setMap_foot
theorem State.releaseCp_in {s : State} {ix k v : Nat} (hks : In ft s0 s) (hft : State.releaseCp_foot.le ft = true) :
    In ft s0 (State.releaseCp s ix k v) := by
  unfold State.releaseCp
  repeat' first
    | (extract_lets +onlyGivenNames x; clear_value x)
    | with_reducible first | assumption | apply State.releaseKey_in | apply State.setMap_in | apply in_ite
    | exact Foot.sub hft rfl
    | split

def State.releasePage_foot : Foot := State.releaseCp_foot
theorem State.releasePage_in {s : State} {ix : Nat} (hks : In ft s0 s) (hft : State.releasePage_foot.le ft = true) :
    In ft s0 (State.releasePage s ix) := by
  unfold State.releasePage
  repeat' first
    | with_reducible first | assumption | apply State.each_in | apply State.releaseCp_in
    | exact Foot.sub hft rfl
    | intro _ _ _
    | intro _ _

def State.setDline_foot : Foot := Part.dram.foot
theorem State.setDline_in {s : State} {la : Nat} {d : DLine} (hks : In ft s0 s) (hft : State.setDline_foot.le ft = true) :
    In ft s0 (s.setDline la d) :=
  ⟨fun p hp => by
      have := hks.parts p hp
      cases p <;> first
        | exact this
        | (have h : Part.dram.foot.le ft = true := Foot.sub hft rfl; rw [h] at hp; cases hp),
    fun f i hf => hks.regs f i hf, hks.pending, hks.regsOk, fun h => by
      simp only [State.setDline]
      split
      · exact dramOk_del _ (hks.dramOk h)
      · rename_i hd; exact dramOk_put _ _ hd (hks.dramOk h)⟩

def State.writeDram_foot : Foot := State.dreq_foot ||| State.setDline_foot
theorem State.writeDram_in {s : State} {la : Nat} {d : DLine} {tag : DTag} {cls : Nat} (hks : In ft s0 s)
    (hft : State.writeDram_foot.le ft = true) :
    In ft s0 (State.writeDram s la d tag cls) := by
  unfold State.writeDram
  repeat' first
    | with_reducible first | assumption | apply State.dreq_in | apply State.setDline_in
    | exact Foot.sub hft rfl

def State.dropCp_foot : Foot := Part.dram.foot
theorem State.dropCp_in {s : State} {f c : Nat} (hks : In ft s0 s) (hft : State.dropCp_foot.le ft = true) :
    In ft s0 (s.dropCp f c) :=
  ⟨fun p hp => by
      have := hks.parts p hp
      cases p <;> first
        | exact this
        | (have h : Part.dram.foot.le ft = true := Foot.sub hft rfl; rw [h] at hp; cases hp),
    fun f i hf => hks.regs f i hf, hks.pending, hks.regsOk, fun h => by
      rw [State.dropCp]
      dsimp only
      exact dramOk_filter _ (hks.dramOk h)⟩

def State.putCp_foot : Foot := State.setDline_foot ||| State.dropCp_foot
theorem State.putCp_in {s : State} {f k : Nat} {ls : List (Nat × DLine)} (hks : In ft s0 s)
    (hft : State.putCp_foot.le ft = true) :
    In ft s0 (State.putCp s f k ls) := by
  unfold State.putCp
  repeat' first
    | with_reducible first | assumption | apply State.each_in | apply State.setDline_in | apply State.dropCp_in
    | exact Foot.sub hft rfl
    | intro _ _ _
    | intro _ _

def State.putWay_foot : Foot := Part.fch.foot
theorem State.putWay_in {s : State} {k : Key} {c : CLine} (hks : In ft s0 s) (hft : State.putWay_foot.le ft = true) :
    In ft s0 (State.putWay s k c) := by
  unfold State.putWay
  repeat' first
    | (extract_lets +onlyGivenNames x; clear_value x)
    | with_reducible first | assumption
    | exact Foot.sub hft rfl
    | with_reducible exact Or.inl rfl
    | exact Or.inr (Foot.sub hft rfl)
    | with_reducible apply InMk.of
    | simp -zeta only [in_mk_iff]

def State.dropWay_foot : Foot := Part.fch.foot
theorem State.dropWay_in {s : State} {k : Key} (hks : In ft s0 s) (hft : State.dropWay_foot.le ft = true) :
    In ft s0 (State.dropWay s k) := by
  unfold State.dropWay
  repeat' first
    | (extract_lets +onlyGivenNames x; clear_value x)
    | with_reducible first | assumption
    | exact Foot.sub hft rfl
    | with_reducible exact Or.inl rfl
    | exact Or.inr (Foot.sub hft rfl)
    | with_reducible apply InMk.of
    | simp -zeta only [in_mk_iff]

def State.writeBack_foot : Foot := State.writeDram_foot
theorem State.writeBack_in {s : State} {c : CLine} {cls : Nat} (hks : In ft s0 s)
    (hft : State.writeBack_foot.le ft = true) :
    In ft s0 (State.writeBack s c cls) := by
  unfold State.writeBack
  repeat' first
    | with_reducible first | assumption | apply State.writeDram_in | apply in_ite
    | exact Foot.sub hft rfl
    | split

def State.mrPeak_foot : Foot := Fld.MR_PEAK.foot
theorem State.mrPeak_in {s : State} {sl : Nat} (hks : In ft s0 s) (hft : State.mrPeak_foot.le ft = true) :
    In ft s0 (State.mrPeak s sl) := by
  unfold State.mrPeak
  repeat' first
    | with_reducible first | assumption | apply State.wri_in
    | exact Foot.sub hft rfl

def State.evictTo_foot : Foot := Part.fch.foot ||| State.writeBack_foot ||| State.mrPeak_foot
theorem State.evictTo_in {s : State} {sl : Nat} {c : CLine} {cls : Nat} (hks : In ft s0 s)
    (hft : State.evictTo_foot.le ft = true) :
    In ft s0 (State.evictTo s sl c cls) := by
  unfold State.evictTo
  repeat' first
    | (extract_lets +onlyGivenNames x; clear_value x)
    | with_reducible first | assumption | apply State.writeBack_in | apply State.mrPeak_in | apply in_ite
    | exact Foot.sub hft rfl
    | with_reducible exact Or.inl rfl
    | exact Or.inr (Foot.sub hft rfl)
    | with_reducible apply InMk.of
    | simp -zeta only [in_mk_iff]
    | split

def State.install_foot : Foot :=
  State.freeNext_foot ||| State.putWay_foot ||| State.dropWay_foot ||| State.writeBack_foot ||| State.evictTo_foot
theorem State.install_in {s : State} {c : CLine} {cls : Nat} (hks : In ft s0 s)
    (hft : State.install_foot.le ft = true) :
    In ft s0 (State.install s c cls) := by
  unfold State.install
  repeat' first
    | (extract_lets +onlyGivenNames x
       first
       | (have : In ft s0 x := by
            subst x
            repeat' first
              | (extract_lets +onlyGivenNames x; subst x)
              | with_reducible first
                  | assumption | apply State.freeNext_in | apply State.putWay_in | apply State.dropWay_in
                  | apply State.writeBack_in | apply State.evictTo_in | apply in_ite
              | exact Foot.sub hft rfl
              | split
          clear_value x)
       | clear_value x
       | subst x)
    | with_reducible first
        | assumption | apply State.freeNext_in | apply State.putWay_in | apply State.dropWay_in
        | apply State.writeBack_in | apply State.evictTo_in | apply in_ite
    | exact Foot.sub hft rfl
    | split

def State.flushEvict_foot : Foot := Part.fch.foot ||| State.dreq_foot ||| State.writeDram_foot
theorem State.flushEvict_in {s : State} {la : Nat} (hks : In ft s0 s) (hft : State.flushEvict_foot.le ft = true) :
    In ft s0 (State.flushEvict s la) := by
  unfold State.flushEvict
  repeat' first
    | (extract_lets +onlyGivenNames x
       first
       | (have : In ft s0 x := by
            subst x
            repeat' first
              | with_reducible first | assumption | apply State.dreq_in | apply State.writeDram_in | apply in_ite
              | exact Foot.sub hft rfl
              | with_reducible exact Or.inl rfl
              | exact Or.inr (Foot.sub hft rfl)
              | with_reducible apply InMk.of
              | simp -zeta only [in_mk_iff]
              | split
          clear_value x)
       | clear_value x
       | subst x)
    | with_reducible first | assumption | apply State.dreq_in | apply State.writeDram_in | apply in_ite
    | exact Foot.sub hft rfl
    | with_reducible exact Or.inl rfl
    | exact Or.inr (Foot.sub hft rfl)
    | with_reducible apply InMk.of
    | simp -zeta only [in_mk_iff]
    | split

def State.fillNow_foot : Foot := State.dreq_foot ||| State.install_foot ||| State.flushEvict_foot
theorem State.fillNow_in {s : State} {la obj tp cls : Nat} (hks : In ft s0 s)
    (hft : State.fillNow_foot.le ft = true) :
    In ft s0 (State.fillNow s la obj tp cls) := by
  unfold State.fillNow
  repeat' first
    | (extract_lets +onlyGivenNames x
       first
       | (have : In ft s0 x := by
            subst x
            repeat' first
              | (extract_lets +onlyGivenNames x; subst x)
              | with_reducible first
                  | assumption | apply State.dreq_in | apply State.install_in | apply State.flushEvict_in
              | exact Foot.sub hft rfl
              | split
          clear_value x)
       | clear_value x
       | subst x)
    | with_reducible first | assumption | apply State.dreq_in | apply State.install_in | apply State.flushEvict_in
    | exact Foot.sub hft rfl
    | split

def State.touch_foot : Foot := State.setFrame_foot
theorem State.touch_in {s : State} {f : Nat} (hks : In ft s0 s) (hft : State.touch_foot.le ft = true) :
    In ft s0 (State.touch s f) := by
  unfold State.touch
  repeat' first
    | (extract_lets +onlyGivenNames x; clear_value x)
    | with_reducible first | assumption | apply State.setFrame_in
    | exact Foot.sub hft rfl
    | with_reducible exact Or.inl rfl
    | exact Or.inr (Foot.sub hft rfl)
    | with_reducible apply InMk.of
    | simp -zeta only [in_mk_iff]
    | split

def State.redirty_foot : Foot := State.setMap_foot
theorem State.redirty_in {s : State} {ix k : Nat} (hks : In ft s0 s) (hft : State.redirty_foot.le ft = true) :
    In ft s0 (State.redirty s ix k) := by
  unfold State.redirty
  repeat' first
    | (extract_lets +onlyGivenNames x; clear_value x)
    | with_reducible first | assumption | apply State.setMap_in | apply in_ite
    | exact Foot.sub hft rfl
    | split

def State.cleanFrame_foot : Foot := State.dropWay_foot ||| State.writeBack_foot ||| State.flushEvict_foot
theorem State.cleanFrame_in {s : State} {f cls : Nat} (hks : In ft s0 s) (hft : State.cleanFrame_foot.le ft = true) :
    In ft s0 (State.cleanFrame s f cls) := by
  unfold State.cleanFrame
  repeat' first
    | (extract_lets +onlyGivenNames x
       first
       | (have : In ft s0 x := by
            subst x
            repeat' first
              | (extract_lets +onlyGivenNames x; subst x)
              | with_reducible first
                  | assumption | apply State.each_in | apply State.dropWay_in | apply State.writeBack_in
                  | apply State.flushEvict_in
              | exact Foot.sub hft rfl
              | intro _ _ _
              | intro _ _
          clear_value x)
       | clear_value x
       | subst x)
    | with_reducible first
        | assumption | apply State.each_in | apply State.dropWay_in | apply State.writeBack_in
        | apply State.flushEvict_in
    | exact Foot.sub hft rfl
    | intro _ _ _
    | intro _ _

def State.settleSnoop_foot : Foot := State.putWay_foot ||| State.writeBack_foot ||| State.flushEvict_foot
theorem State.settleSnoop_in {s : State} {f k cls : Nat} (hks : In ft s0 s)
    (hft : State.settleSnoop_foot.le ft = true) :
    In ft s0 (State.settleSnoop s f k cls) := by
  unfold State.settleSnoop
  repeat' first
    | (extract_lets +onlyGivenNames x
       first
       | (have : In ft s0 x := by
            subst x
            repeat' first
              | (extract_lets +onlyGivenNames x; subst x)
              | with_reducible first
                  | assumption | apply State.each_in | apply State.putWay_in | apply State.writeBack_in
                  | apply State.flushEvict_in
              | exact Foot.sub hft rfl
              | with_reducible exact Or.inl rfl
              | exact Or.inr (Foot.sub hft rfl)
              | with_reducible apply InMk.of
              | simp -zeta only [in_mk_iff]
              | intro _ _ _
              | intro _ _
          clear_value x)
       | clear_value x
       | subst x)
    | with_reducible first
        | assumption | apply State.each_in | apply State.putWay_in | apply State.writeBack_in
        | apply State.flushEvict_in
    | exact Foot.sub hft rfl
    | with_reducible exact Or.inl rfl
    | exact Or.inr (Foot.sub hft rfl)
    | with_reducible apply InMk.of
    | simp -zeta only [in_mk_iff]
    | intro _ _ _
    | intro _ _

def State.snoopN_foot : Foot := Part.fch.foot ||| State.send_foot
theorem State.snoopN_in {s : State} {link la n : Nat} (hks : In ft s0 s) (hft : State.snoopN_foot.le ft = true) :
    In ft s0 (State.snoopN s link la n) := by
  unfold State.snoopN
  repeat' first
    | (extract_lets +onlyGivenNames x
       first
       | (have : In ft s0 x := by
            subst x
            repeat' first
              | (extract_lets +onlyGivenNames x; subst x)
              | with_reducible first | assumption | apply State.when_in | apply State.send_in
              | exact Foot.sub hft rfl
              | with_reducible exact Or.inl rfl
              | exact Or.inr (Foot.sub hft rfl)
              | with_reducible apply InMk.of
              | simp -zeta only [in_mk_iff]
              | intro _ _ _
              | intro _ _
          clear_value x)
       | clear_value x
       | subst x)
    | with_reducible first | assumption | apply State.when_in | apply State.send_in
    | exact Foot.sub hft rfl
    | with_reducible exact Or.inl rfl
    | exact Or.inr (Foot.sub hft rfl)
    | with_reducible apply InMk.of
    | simp -zeta only [in_mk_iff]
    | intro _ _ _
    | intro _ _

def State.snoop_foot : Foot := State.snoopN_foot
theorem State.snoop_in {s : State} {link la : Nat} (hks : In ft s0 s) (hft : State.snoop_foot.le ft = true) :
    In ft s0 (State.snoop s link la) := by
  unfold State.snoop
  repeat' first
    | with_reducible first | assumption | apply State.snoopN_in | apply in_ite
    | exact Foot.sub hft rfl
    | split

def State.sfDrop_foot : Foot := Part.fch.foot
theorem State.sfDrop_in {s : State} {link la : Nat} (hks : In ft s0 s) (hft : State.sfDrop_foot.le ft = true) :
    In ft s0 (State.sfDrop s link la) := by
  unfold State.sfDrop
  repeat' first
    | (extract_lets +onlyGivenNames x; clear_value x)
    | with_reducible first | assumption | apply in_ite
    | exact Foot.sub hft rfl
    | with_reducible exact Or.inl rfl
    | exact Or.inr (Foot.sub hft rfl)
    | with_reducible apply InMk.of
    | simp -zeta only [in_mk_iff]
    | split

def State.sfAdd_foot : Foot := Part.fch.foot
theorem State.sfAdd_in {s : State} {link la : Nat} {excl : Bool} (hks : In ft s0 s)
    (hft : State.sfAdd_foot.le ft = true) :
    In ft s0 (State.sfAdd s link la excl) := by
  unfold State.sfAdd
  repeat' first
    | (extract_lets +onlyGivenNames x; clear_value x)
    | with_reducible first | assumption | apply in_ite
    | exact Foot.sub hft rfl
    | with_reducible exact Or.inl rfl
    | exact Or.inr (Foot.sub hft rfl)
    | with_reducible apply InMk.of
    | simp -zeta only [in_mk_iff]
    | split

def State.snoopBlk_foot : Foot := State.snoopN_foot
theorem State.snoopBlk_in {s : State} {link la : Nat} (hks : In ft s0 s) (hft : State.snoopBlk_foot.le ft = true) :
    In ft s0 (State.snoopBlk s link la) := by
  unfold State.snoopBlk
  repeat' first
    | (extract_lets +onlyGivenNames x
       first
       | (have : In ft s0 x := by
            subst x
            repeat' first
              | with_reducible first | assumption | apply State.snoopN_in | apply in_ite
              | exact Foot.sub hft rfl
              | split
          clear_value x)
       | clear_value x
       | subst x)
    | with_reducible first | assumption | apply State.snoopN_in | apply in_ite
    | exact Foot.sub hft rfl
    | split

def State.snoopFrame_foot : Foot := State.snoopBlk_foot
theorem State.snoopFrame_in {s : State} {f : Nat} (hks : In ft s0 s) (hft : State.snoopFrame_foot.le ft = true) :
    In ft s0 (State.snoopFrame s f) := by
  unfold State.snoopFrame
  repeat' first
    | with_reducible first | assumption | apply State.each_in | apply State.snoopBlk_in
    | exact Foot.sub hft rfl
    | intro _ _ _
    | intro _ _

def State.complete_foot : Foot := Fld.DEVLOAD.foot ||| State.send_foot
theorem State.complete_in {s : State} {link ld tag : Nat} (hks : In ft s0 s)
    (hft : State.complete_foot.le ft = true) :
    In ft s0 (State.complete s link ld tag) := by
  unfold State.complete
  repeat' first
    | (extract_lets +onlyGivenNames x
       first
       | (have : In ft s0 x := by
            subst x
            repeat' first
              | (extract_lets +onlyGivenNames x; subst x)
              | with_reducible first | assumption | apply State.wri_in | apply State.when_in | apply State.send_in
              | exact Foot.sub hft rfl
              | intro _ _ _
              | intro _ _
          clear_value x)
       | clear_value x
       | subst x)
    | with_reducible first | assumption | apply State.wri_in | apply State.when_in | apply State.send_in
    | exact Foot.sub hft rfl
    | intro _ _ _
    | intro _ _

end Sys2Proof.Machine
end

