-- ==== Sys2Proof/Laws/FrameRdmaOps.lean ====
section
/-! SUPPORT. The footprints of the operations of Machine/RdmaOps (Laws/Frame). -/

namespace Sys2Proof.Machine

variable {ft : Foot} {s0 : State}

def State.putCtx_foot : Foot := Part.rae.foot
theorem State.putCtx_in {s : State} {x : Nat} {c : RCtx} (hks : In ft s0 s) (hft : State.putCtx_foot.le ft = true) :
    In ft s0 (State.putCtx s x c) := by
  unfold State.putCtx
  repeat' first
    | (extract_lets +onlyGivenNames x; clear_value x)
    | with_reducible first | assumption
    | exact Foot.sub hft rfl
    | with_reducible exact Or.inl rfl
    | exact Or.inr (Foot.sub hft rfl)
    | with_reducible apply InMk.of
    | simp -zeta only [in_mk_iff]

def State.updCtx_foot : Foot := State.putCtx_foot
theorem State.updCtx_in {s : State} {x : Nat} {f : RCtx → RCtx} (hks : In ft s0 s)
    (hft : State.updCtx_foot.le ft = true) :
    In ft s0 (State.updCtx s x f) := by
  unfold State.updCtx
  repeat' first
    | with_reducible first | assumption | apply State.putCtx_in
    | exact Foot.sub hft rfl
    | split

def State.raeRegs_foot : Foot :=
  Fld.CTX_ONCHIP.foot ||| Fld.PARK_PKTS.foot ||| Fld.PARK_BYTES.foot ||| Fld.RAE_STATUS_PINNED.foot
theorem State.raeRegs_in {s : State} (hks : In ft s0 s) (hft : State.raeRegs_foot.le ft = true) :
    In ft s0 (State.raeRegs s) := by
  unfold State.raeRegs
  repeat' first
    | (extract_lets +onlyGivenNames x
       first
       | (have : In ft s0 x := by
            subst x
            repeat' first
              | (extract_lets +onlyGivenNames x; subst x)
              | with_reducible first | assumption | apply State.wr_in | apply foldl_in
              | exact Foot.sub hft rfl
              | split
              | intro _ _ _
              | intro _ _
              | with_reducible apply InP.pair
          clear_value x)
       | clear_value x
       | subst x)
    | with_reducible first | assumption | apply State.wr_in | apply foldl_in
    | exact Foot.sub hft rfl
    | split
    | intro _ _ _
    | intro _ _
    | with_reducible apply InP.pair

def State.ctxSend_foot : Foot := Part.rae.foot ||| State.send_foot
theorem State.ctxSend_in {s : State} {x op psn : Nat} {hdr bytes : List Nat} (hks : In ft s0 s)
    (hft : State.ctxSend_foot.le ft = true) :
    In ft s0 (State.ctxSend s x op psn hdr bytes) := by
  unfold State.ctxSend
  repeat' first
    | (extract_lets +onlyGivenNames x; clear_value x)
    | with_reducible first | assumption | apply State.send_in | apply in_ite
    | exact Foot.sub hft rfl
    | with_reducible exact Or.inl rfl
    | exact Or.inr (Foot.sub hft rfl)
    | with_reducible apply InMk.of
    | simp -zeta only [in_mk_iff]
    | split

def State.ctxError_foot : Foot :=
  Fld.CTX_ERR.foot ||| Part.waits.foot ||| State.record_foot ||| State.putCtx_foot ||| State.raeRegs_foot
theorem State.ctxError_in {s : State} {x : Nat} (hks : In ft s0 s) (hft : State.ctxError_foot.le ft = true) :
    In ft s0 (State.ctxError s x) := by
  unfold State.ctxError
  repeat' first
    | (extract_lets +onlyGivenNames x
       first
       | (have : In ft s0 x := by
            subst x
            repeat' first
              | (extract_lets +onlyGivenNames x; subst x)
              | with_reducible first
                  | assumption | apply State.setf_in | apply State.record_in | apply State.putCtx_in
                  | apply State.raeRegs_in
              | exact Foot.sub hft rfl
              | with_reducible exact Or.inl rfl
              | exact Or.inr (Foot.sub hft rfl)
              | with_reducible apply InMk.of
              | simp -zeta only [in_mk_iff]
              | split
          clear_value x)
       | clear_value x
       | subst x)
    | with_reducible first
        | assumption | apply State.setf_in | apply State.record_in | apply State.putCtx_in | apply State.raeRegs_in
    | exact Foot.sub hft rfl
    | with_reducible exact Or.inl rfl
    | exact Or.inr (Foot.sub hft rfl)
    | with_reducible apply InMk.of
    | simp -zeta only [in_mk_iff]
    | split

def State.ctxNak_foot : Foot :=
  Fld.SEQ_NAK_CNT.foot ||| Fld.RAE_FLAGS_CNT_OVF.foot ||| State.count_foot ||| State.ctxSend_foot |||
    State.ctxError_foot
theorem State.ctxNak_in {s : State} {x psn syn : Nat} (hks : In ft s0 s) (hft : State.ctxNak_foot.le ft = true) :
    In ft s0 (State.ctxNak s x psn syn) := by
  unfold State.ctxNak
  repeat' first
    | (extract_lets +onlyGivenNames x
       first
       | (have : In ft s0 x := by
            subst x
            repeat' first
              | with_reducible first
                  | assumption | apply State.count_in | apply State.ctxSend_in | apply State.ctxError_in
                  | apply in_ite
              | exact Foot.sub hft rfl
              | split
          clear_value x)
       | clear_value x
       | subst x)
    | with_reducible first
        | assumption | apply State.count_in | apply State.ctxSend_in | apply State.ctxError_in | apply in_ite
    | exact Foot.sub hft rfl
    | split

def State.ctxPageFail_foot : Foot := State.updCtx_foot ||| State.ctxNak_foot
theorem State.ctxPageFail_in {s : State} {x psn : Nat} (hks : In ft s0 s)
    (hft : State.ctxPageFail_foot.le ft = true) :
    In ft s0 (State.ctxPageFail s x psn) := by
  unfold State.ctxPageFail
  repeat' first
    | (extract_lets +onlyGivenNames x; clear_value x)
    | with_reducible first | assumption | apply State.updCtx_in | apply State.ctxNak_in | apply in_ite
    | exact Foot.sub hft rfl
    | with_reducible exact Or.inl rfl
    | exact Or.inr (Foot.sub hft rfl)
    | with_reducible apply InMk.of
    | simp -zeta only [in_mk_iff]
    | split
    | intro _ _ _
    | intro _ _

def State.ctxFence_foot : Foot := State.putCtx_foot ||| State.ctxSend_foot
theorem State.ctxFence_in {s : State} {x psn : Nat} {solo : Bool} {mark : Nat} (hks : In ft s0 s)
    (hft : State.ctxFence_foot.le ft = true) :
    In ft s0 (State.ctxFence s x psn solo mark) := by
  unfold State.ctxFence
  repeat' first
    | (extract_lets +onlyGivenNames x
       first
       | (have : In ft s0 x := by
            subst x
            repeat' first
              | with_reducible first | assumption | apply State.putCtx_in | apply State.ctxSend_in | apply in_ite
              | exact Foot.sub hft rfl
              | with_reducible exact Or.inl rfl
              | exact Or.inr (Foot.sub hft rfl)
              | with_reducible apply InMk.of
              | simp -zeta only [in_mk_iff]
              | split
          clear_value x)
       | clear_value x
       | subst x)
    | with_reducible first | assumption | apply State.putCtx_in | apply State.ctxSend_in | apply in_ite
    | exact Foot.sub hft rfl
    | with_reducible exact Or.inl rfl
    | exact Or.inr (Foot.sub hft rfl)
    | with_reducible apply InMk.of
    | simp -zeta only [in_mk_iff]
    | split

end Sys2Proof.Machine
end

