-- ==== Sys2Proof/Laws/FrameMirOps.lean ====
section
/-! SUPPORT. The footprints of the operations of Machine/MirOps (Laws/Frame). -/

namespace Sys2Proof.Machine

variable {ft : Foot} {s0 : State}

def State.ssnAcked_foot : Foot := Fld.SSN_ACKED.foot
theorem State.ssnAcked_in {s : State} (hks : In ft s0 s) (hft : State.ssnAcked_foot.le ft = true) :
    In ft s0 (State.ssnAcked s) := by
  unfold State.ssnAcked
  repeat' first
    | with_reducible first | assumption | apply State.wr_in | apply foldl_in
    | exact Foot.sub hft rfl
    | intro _ _ _
    | intro _ _
    | with_reducible apply InP.pair

def State.soloCharge_foot : Foot := Part.mir.foot ||| State.chargeKey_foot
theorem State.soloCharge_in {s : State} {p : Nat} (hks : In ft s0 s) (hft : State.soloCharge_foot.le ft = true) :
    In ft s0 (State.soloCharge s p) := by
  unfold State.soloCharge
  repeat' first
    | (extract_lets +onlyGivenNames x
       first
       | (have : In ft s0 x := by
            subst x
            repeat' first
              | with_reducible first | assumption | apply State.chargeKey_in | apply in_ite
              | exact Foot.sub hft rfl
              | with_reducible exact Or.inl rfl
              | exact Or.inr (Foot.sub hft rfl)
              | with_reducible apply InMk.of
              | simp -zeta only [in_mk_iff]
              | split
          clear_value x)
       | clear_value x
       | subst x)
    | with_reducible first | assumption | apply State.chargeKey_in | apply in_ite
    | exact Foot.sub hft rfl
    | with_reducible exact Or.inl rfl
    | exact Or.inr (Foot.sub hft rfl)
    | with_reducible apply InMk.of
    | simp -zeta only [in_mk_iff]
    | split

def State.soloRetry_foot : Foot := Part.mir.foot ||| State.soloCharge_foot
theorem State.soloRetry_in {s : State} (hks : In ft s0 s) (hft : State.soloRetry_foot.le ft = true) :
    In ft s0 (State.soloRetry s) := by
  unfold State.soloRetry
  repeat' first
    | (extract_lets +onlyGivenNames x
       first
       | (have : In ft s0 x := by
            subst x
            repeat' first
              | with_reducible first | assumption | apply State.each_in | apply State.soloCharge_in
              | exact Foot.sub hft rfl
              | with_reducible exact Or.inl rfl
              | exact Or.inr (Foot.sub hft rfl)
              | with_reducible apply InMk.of
              | simp -zeta only [in_mk_iff]
              | intro _ _ _
              | intro _ _
          clear_value x)
       | clear_value x
       | subst x)
    | with_reducible first | assumption | apply State.each_in | apply State.soloCharge_in
    | exact Foot.sub hft rfl
    | with_reducible exact Or.inl rfl
    | exact Or.inr (Foot.sub hft rfl)
    | with_reducible apply InMk.of
    | simp -zeta only [in_mk_iff]
    | intro _ _ _
    | intro _ _

def State.soloMark_foot : Foot := Fld.SOLO_PAGES.foot ||| Part.mir.foot ||| State.soloCharge_foot
theorem State.soloMark_in {s : State} {obj tp : Nat} (hks : In ft s0 s) (hft : State.soloMark_foot.le ft = true) :
    In ft s0 (State.soloMark s obj tp) := by
  unfold State.soloMark
  repeat' first
    | (extract_lets +onlyGivenNames x
       first
       | (have : In ft s0 x := by
            subst x
            repeat' first
              | (extract_lets +onlyGivenNames x; subst x)
              | with_reducible first | assumption | apply State.wr_in | apply State.soloCharge_in
              | exact Foot.sub hft rfl
              | with_reducible exact Or.inl rfl
              | exact Or.inr (Foot.sub hft rfl)
              | with_reducible apply InMk.of
              | simp -zeta only [in_mk_iff]
          clear_value x)
       | clear_value x
       | subst x)
    | with_reducible first | assumption | apply State.wr_in | apply State.soloCharge_in
    | exact Foot.sub hft rfl
    | with_reducible exact Or.inl rfl
    | exact Or.inr (Foot.sub hft rfl)
    | with_reducible apply InMk.of
    | simp -zeta only [in_mk_iff]

def State.soloKeep_foot : Foot := Fld.SOLO_PAGES.foot ||| Part.mir.foot
theorem State.soloKeep_in {s : State} {p : Key → Bool} (hks : In ft s0 s) (hft : State.soloKeep_foot.le ft = true) :
    In ft s0 (State.soloKeep s p) := by
  unfold State.soloKeep
  repeat' first
    | (extract_lets +onlyGivenNames x
       first
       | (have : In ft s0 x := by
            subst x
            repeat' first
              | (extract_lets +onlyGivenNames x; subst x)
              | with_reducible first | assumption | apply State.wr_in | apply in_ite
              | exact Foot.sub hft rfl
              | with_reducible exact Or.inl rfl
              | exact Or.inr (Foot.sub hft rfl)
              | with_reducible apply InMk.of
              | simp -zeta only [in_mk_iff]
              | split
          clear_value x)
       | clear_value x
       | subst x)
    | with_reducible first | assumption | apply State.wr_in | apply in_ite
    | exact Foot.sub hft rfl
    | with_reducible exact Or.inl rfl
    | exact Or.inr (Foot.sub hft rfl)
    | with_reducible apply InMk.of
    | simp -zeta only [in_mk_iff]
    | split

def State.soloClear_foot : Foot := State.soloKeep_foot
theorem State.soloClear_in {s : State} {k : Key} (hks : In ft s0 s) (hft : State.soloClear_foot.le ft = true) :
    In ft s0 (State.soloClear s k) := by
  unfold State.soloClear
  repeat' first
    | with_reducible first | assumption | apply State.soloKeep_in
    | exact Foot.sub hft rfl
    | intro _ _ _
    | intro _ _

def State.txRec_foot : Foot := Fld.RETX_FULL.foot ||| Fld.RETX_RECORDS.foot ||| Part.mir.foot ||| State.send_foot
theorem State.txRec_in {s : State} {r : MRec} (hks : In ft s0 s) (hft : State.txRec_foot.le ft = true) :
    In ft s0 (State.txRec s r) := by
  unfold State.txRec
  repeat' first
    | (extract_lets +onlyGivenNames x
       first
       | (have : In ft s0 x := by
            subst x
            repeat' first
              | (extract_lets +onlyGivenNames x; subst x)
              | with_reducible first
                  | assumption | apply State.wr_in | apply State.setf_in | apply State.when_in | apply State.send_in
              | exact Foot.sub hft rfl
              | with_reducible exact Or.inl rfl
              | exact Or.inr (Foot.sub hft rfl)
              | with_reducible apply InMk.of
              | simp -zeta only [in_mk_iff]
              | intro _ _ _
              | intro _ _
          clear_value x)
       | clear_value x
       | subst x)
    | with_reducible first
        | assumption | apply State.wr_in | apply State.setf_in | apply State.when_in | apply State.send_in
    | exact Foot.sub hft rfl
    | with_reducible exact Or.inl rfl
    | exact Or.inr (Foot.sub hft rfl)
    | with_reducible apply InMk.of
    | simp -zeta only [in_mk_iff]
    | intro _ _ _
    | intro _ _

def State.queueRec_foot : Foot := Part.mir.foot ||| State.txRec_foot
theorem State.queueRec_in {s : State} {r : MRec} (hks : In ft s0 s) (hft : State.queueRec_foot.le ft = true) :
    In ft s0 (State.queueRec s r) := by
  unfold State.queueRec
  repeat' first
    | (extract_lets +onlyGivenNames x; clear_value x)
    | with_reducible first | assumption | apply State.txRec_in | apply in_ite
    | exact Foot.sub hft rfl
    | with_reducible exact Or.inl rfl
    | exact Or.inr (Foot.sub hft rfl)
    | with_reducible apply InMk.of
    | simp -zeta only [in_mk_iff]
    | split

def State.drainSendq_foot : Foot := Part.mir.foot ||| State.txRec_foot
theorem State.drainSendq_in {s : State} (hks : In ft s0 s) (hft : State.drainSendq_foot.le ft = true) :
    In ft s0 (State.drainSendq s) := by
  unfold State.drainSendq
  repeat' first
    | (extract_lets +onlyGivenNames x; clear_value x)
    | with_reducible first | assumption | apply State.each_in | apply State.txRec_in | apply in_ite
    | exact Foot.sub hft rfl
    | with_reducible exact Or.inl rfl
    | exact Or.inr (Foot.sub hft rfl)
    | with_reducible apply InMk.of
    | simp -zeta only [in_mk_iff]
    | split
    | intro _ _ _
    | intro _ _

def State.closeLane_foot : Foot := Part.mir.foot ||| State.queueRec_foot
theorem State.closeLane_in {s : State} {lane : Nat} (hks : In ft s0 s) (hft : State.closeLane_foot.le ft = true) :
    In ft s0 (State.closeLane s lane) := by
  unfold State.closeLane
  repeat' first
    | (extract_lets +onlyGivenNames x
       first
       | (have : In ft s0 x := by
            subst x
            repeat' first
              | with_reducible first | assumption | apply State.queueRec_in
              | exact Foot.sub hft rfl
              | with_reducible exact Or.inl rfl
              | exact Or.inr (Foot.sub hft rfl)
              | with_reducible apply InMk.of
              | simp -zeta only [in_mk_iff]
              | split
          clear_value x)
       | clear_value x
       | subst x)
    | with_reducible first | assumption | apply State.queueRec_in
    | exact Foot.sub hft rfl
    | with_reducible exact Or.inl rfl
    | exact Or.inr (Foot.sub hft rfl)
    | with_reducible apply InMk.of
    | simp -zeta only [in_mk_iff]
    | split

def State.closeAll_foot : Foot := State.closeLane_foot
theorem State.closeAll_in {s : State} (hks : In ft s0 s) (hft : State.closeAll_foot.le ft = true) :
    In ft s0 (State.closeAll s) := by
  unfold State.closeAll
  repeat' first
    | with_reducible first | assumption | apply State.each_in | apply State.closeLane_in
    | exact Foot.sub hft rfl
    | intro _ _ _
    | intro _ _

def State.ssnReserve_foot : Foot := State.journal_foot
theorem State.ssnReserve_in {s : State} (hks : In ft s0 s) (hft : State.ssnReserve_foot.le ft = true) :
    In ft s0 (State.ssnReserve s) := by
  unfold State.ssnReserve
  repeat' first
    | with_reducible first | assumption | apply State.journal_in | apply in_ite
    | exact Foot.sub hft rfl
    | split

def State.nextSsn_foot : Foot := Fld.SSN_ISSUED.foot ||| State.ssnReserve_foot
theorem State.nextSsn_in {s : State} (hks : In ft s0 s) (hft : State.nextSsn_foot.le ft = true) :
    In ft s0 (State.nextSsn s) := by
  unfold State.nextSsn
  repeat' first
    | with_reducible first | assumption | apply State.wr_in | apply State.ssnReserve_in
    | exact Foot.sub hft rfl

def State.addLine_foot : Foot := Part.mir.foot ||| State.closeLane_foot ||| State.nextSsn_foot
theorem State.addLine_in {s : State} {obj ofsLine : Nat} {data : Line} {poison : Bool} {dom : Nat} {resync : Bool}
    (hks : In ft s0 s) (hft : State.addLine_foot.le ft = true) :
    In ft s0 (State.addLine s obj ofsLine data poison dom resync) := by
  unfold State.addLine
  repeat' first
    | (extract_lets +onlyGivenNames x
       first
       | (have : In ft s0 x := by
            subst x
            repeat' first
              | (extract_lets +onlyGivenNames x; subst x)
              | with_reducible first | assumption | apply State.closeLane_in | apply State.nextSsn_in | apply in_ite
              | exact Foot.sub hft rfl
              | with_reducible exact Or.inl rfl
              | exact Or.inr (Foot.sub hft rfl)
              | with_reducible apply InMk.of
              | simp -zeta only [in_mk_iff]
              | split
          clear_value x)
       | clear_value x
       | subst x)
    | with_reducible first | assumption | apply State.closeLane_in | apply State.nextSsn_in | apply in_ite
    | exact Foot.sub hft rfl
    | with_reducible exact Or.inl rfl
    | exact Or.inr (Foot.sub hft rfl)
    | with_reducible apply InMk.of
    | simp -zeta only [in_mk_iff]
    | split

def State.addRec_foot : Foot := State.queueRec_foot ||| State.closeLane_foot ||| State.nextSsn_foot
theorem State.addRec_in {s : State} {lane : Nat} {ty : RTy} {obj cpage mask poison : Nat}
    {lines : List (Nat × Line)} {ops : List JOp} {dom : Nat} {resync : Bool} (hks : In ft s0 s)
    (hft : State.addRec_foot.le ft = true) :
    In ft s0 (State.addRec s lane ty obj cpage mask poison lines ops dom resync) := by
  unfold State.addRec
  repeat' first
    | (extract_lets +onlyGivenNames x
       first
       | (have : In ft s0 x := by
            subst x
            repeat' first
              | with_reducible first
                  | assumption | apply State.queueRec_in | apply State.closeLane_in | apply State.nextSsn_in
              | exact Foot.sub hft rfl
          clear_value x)
       | clear_value x
       | subst x)
    | with_reducible first | assumption | apply State.queueRec_in | apply State.closeLane_in | apply State.nextSsn_in
    | exact Foot.sub hft rfl

def State.mirMeta_foot : Foot := State.addRec_foot
theorem State.mirMeta_in {s : State} {obj : Nat} {ops : List JOp} {dom : Nat} (hks : In ft s0 s)
    (hft : State.mirMeta_foot.le ft = true) :
    In ft s0 (State.mirMeta s obj ops dom) := by
  unfold State.mirMeta
  repeat' first
    | with_reducible first | assumption | apply State.addRec_in | apply in_ite
    | exact Foot.sub hft rfl
    | split

def State.mirStore_foot : Foot := Part.mir.foot ||| State.soloMark_foot ||| State.addLine_foot
theorem State.mirStore_in {s : State} {obj ofsLine : Nat} {data : Line} {poison : Bool} {dom : Nat}
    (hks : In ft s0 s) (hft : State.mirStore_foot.le ft = true) :
    In ft s0 (State.mirStore s obj ofsLine data poison dom) := by
  unfold State.mirStore
  repeat' first
    | (extract_lets +onlyGivenNames x
       first
       | (have : In ft s0 x := by
            subst x
            repeat' first
              | (extract_lets +onlyGivenNames x; subst x)
              | with_reducible first | assumption | apply State.soloMark_in | apply State.addLine_in | apply in_ite
              | exact Foot.sub hft rfl
              | with_reducible exact Or.inl rfl
              | exact Or.inr (Foot.sub hft rfl)
              | with_reducible apply InMk.of
              | simp -zeta only [in_mk_iff]
              | split
          clear_value x)
       | clear_value x
       | subst x)
    | with_reducible first | assumption | apply State.soloMark_in | apply State.addLine_in | apply in_ite
    | exact Foot.sub hft rfl
    | with_reducible exact Or.inl rfl
    | exact Or.inr (Foot.sub hft rfl)
    | with_reducible apply InMk.of
    | simp -zeta only [in_mk_iff]
    | split

def State.stallEnd_foot : Foot := Fld.STALLED.foot
theorem State.stallEnd_in {s : State} {d : Nat} (hks : In ft s0 s) (hft : State.stallEnd_foot.le ft = true) :
    In ft s0 (State.stallEnd s d) := by
  unfold State.stallEnd
  repeat' first
    | with_reducible first | assumption | apply State.setfi_in | apply in_ite
    | exact Foot.sub hft rfl
    | split

def State.stallEnds_foot : Foot := State.stallEnd_foot
theorem State.stallEnds_in {s : State} (hks : In ft s0 s) (hft : State.stallEnds_foot.le ft = true) :
    In ft s0 (State.stallEnds s) := by
  unfold State.stallEnds
  repeat' first
    | with_reducible first | assumption | apply State.each_in | apply State.stallEnd_in
    | exact Foot.sub hft rfl
    | intro _ _ _
    | intro _ _

def State.updCmd_foot : Foot := Part.cmd.foot
theorem State.updCmd_in {s : State} {uid : Nat} {f : Cmd → Cmd} (hks : In ft s0 s)
    (hft : State.updCmd_foot.le ft = true) :
    In ft s0 (State.updCmd s uid f) := by
  unfold State.updCmd
  repeat' first
    | (extract_lets +onlyGivenNames x; clear_value x)
    | with_reducible first | assumption | apply in_ite
    | exact Foot.sub hft rfl
    | with_reducible exact Or.inl rfl
    | exact Or.inr (Foot.sub hft rfl)
    | with_reducible apply InMk.of
    | simp -zeta only [in_mk_iff]
    | split

def State.finishCmd_foot : Foot := Part.cmd.foot ||| State.updCmd_foot
theorem State.finishCmd_in {s : State} {uid : Nat} {f : Cmd → Cmd} (hks : In ft s0 s)
    (hft : State.finishCmd_foot.le ft = true) :
    In ft s0 (State.finishCmd s uid f) := by
  unfold State.finishCmd
  repeat' first
    | (extract_lets +onlyGivenNames x
       first
       | (have : In ft s0 x := by
            subst x
            repeat' first
              | with_reducible first | assumption | apply State.updCmd_in | apply in_ite
              | exact Foot.sub hft rfl
              | with_reducible exact Or.inl rfl
              | exact Or.inr (Foot.sub hft rfl)
              | with_reducible apply InMk.of
              | simp -zeta only [in_mk_iff]
              | split
              | intro _ _ _
              | intro _ _
          clear_value x)
       | clear_value x
       | subst x)
    | with_reducible first | assumption | apply State.updCmd_in | apply in_ite
    | exact Foot.sub hft rfl
    | with_reducible exact Or.inl rfl
    | exact Or.inr (Foot.sub hft rfl)
    | with_reducible apply InMk.of
    | simp -zeta only [in_mk_iff]
    | split
    | intro _ _ _
    | intro _ _

def State.setFstat_foot : Foot := Part.prt.foot ||| State.snoop_foot
theorem State.setFstat_in {s : State} {link ld : Nat} {st : FStat} (hks : In ft s0 s)
    (hft : State.setFstat_foot.le ft = true) :
    In ft s0 (State.setFstat s link ld st) := by
  unfold State.setFstat
  repeat' first
    | (extract_lets +onlyGivenNames x; clear_value x)
    | with_reducible first | assumption | apply State.each_in | apply State.snoop_in
    | exact Foot.sub hft rfl
    | with_reducible exact Or.inl rfl
    | exact Or.inr (Foot.sub hft rfl)
    | with_reducible apply InMk.of
    | simp -zeta only [in_mk_iff]
    | intro _ _ _
    | intro _ _

def State.gpfCheck_foot : Foot := Part.prt.foot ||| State.send_foot ||| State.record_foot
theorem State.gpfCheck_in {s : State} {p : Nat} (hks : In ft s0 s) (hft : State.gpfCheck_foot.le ft = true) :
    In ft s0 (State.gpfCheck s p) := by
  unfold State.gpfCheck
  repeat' first
    | (extract_lets +onlyGivenNames x
       first
       | (have : In ft s0 x := by
            subst x
            repeat' first
              | with_reducible first
                  | assumption | apply State.send_in | apply State.each_in | apply State.record_in | apply in_ite
              | exact Foot.sub hft rfl
              | with_reducible exact Or.inl rfl
              | exact Or.inr (Foot.sub hft rfl)
              | with_reducible apply InMk.of
              | simp -zeta only [in_mk_iff]
              | split
              | intro _ _ _
              | intro _ _
          clear_value x)
       | clear_value x
       | subst x)
    | with_reducible first
        | assumption | apply State.send_in | apply State.each_in | apply State.record_in | apply in_ite
    | exact Foot.sub hft rfl
    | with_reducible exact Or.inl rfl
    | exact Or.inr (Foot.sub hft rfl)
    | with_reducible apply InMk.of
    | simp -zeta only [in_mk_iff]
    | split
    | intro _ _ _
    | intro _ _

def State.fenceDone_foot : Foot :=
  Part.prt.foot ||| Part.fences.foot ||| State.complete_foot ||| State.ctxFence_foot ||| State.stallEnd_foot |||
    State.finishCmd_foot ||| State.setFstat_foot ||| State.gpfCheck_foot
theorem State.fenceDone_in {s : State} {f : Fence} {solo : Bool} (hks : In ft s0 s)
    (hft : State.fenceDone_foot.le ft = true) :
    In ft s0 (State.fenceDone s f solo) := by
  unfold State.fenceDone
  repeat' first
    | (extract_lets +onlyGivenNames x
       first
       | (have : In ft s0 x := by
            subst x
            repeat' first
              | (extract_lets +onlyGivenNames x; subst x)
              | with_reducible first
                  | assumption | apply State.when_in | apply State.complete_in | apply State.ctxFence_in
                  | apply State.stallEnd_in | apply State.finishCmd_in | apply State.setFstat_in
                  | apply State.gpfCheck_in | apply in_ite
              | exact Foot.sub hft rfl
              | with_reducible exact Or.inl rfl
              | exact Or.inr (Foot.sub hft rfl)
              | with_reducible apply InMk.of
              | simp -zeta only [in_mk_iff]
              | split
              | intro _ _ _
              | intro _ _
          clear_value x)
       | clear_value x
       | subst x)
    | with_reducible first
        | assumption | apply State.when_in | apply State.complete_in | apply State.ctxFence_in
        | apply State.stallEnd_in | apply State.finishCmd_in | apply State.setFstat_in | apply State.gpfCheck_in
        | apply in_ite
    | exact Foot.sub hft rfl
    | with_reducible exact Or.inl rfl
    | exact Or.inr (Foot.sub hft rfl)
    | with_reducible apply InMk.of
    | simp -zeta only [in_mk_iff]
    | split
    | intro _ _ _
    | intro _ _

def State.resolveFences_foot : Foot := State.fenceDone_foot
theorem State.resolveFences_in {s : State} {judge : Bool} (hks : In ft s0 s)
    (hft : State.resolveFences_foot.le ft = true) :
    In ft s0 (State.resolveFences s judge) := by
  unfold State.resolveFences
  repeat' first
    | with_reducible first | assumption | apply State.each_in | apply State.fenceDone_in
    | exact Foot.sub hft rfl
    | split
    | intro _ _ _
    | intro _ _

def State.acceptFence_foot : Foot :=
  Part.fences.foot ||| State.closeAll_foot ||| State.setFstat_foot ||| State.fenceDone_foot
theorem State.acceptFence_in {s : State} {src : FSrc} {d seq : Nat} (hks : In ft s0 s)
    (hft : State.acceptFence_foot.le ft = true) :
    In ft s0 (State.acceptFence s src d seq) := by
  unfold State.acceptFence
  repeat' first
    | (extract_lets +onlyGivenNames x
       first
       | (have : In ft s0 x := by
            subst x
            repeat' first
              | (extract_lets +onlyGivenNames x; subst x)
              | with_reducible first
                  | assumption | apply State.closeAll_in | apply State.setFstat_in | apply State.fenceDone_in
                  | apply in_ite
              | exact Foot.sub hft rfl
              | with_reducible exact Or.inl rfl
              | exact Or.inr (Foot.sub hft rfl)
              | with_reducible apply InMk.of
              | simp -zeta only [in_mk_iff]
              | split
          clear_value x)
       | clear_value x
       | subst x)
    | with_reducible first
        | assumption | apply State.closeAll_in | apply State.setFstat_in | apply State.fenceDone_in | apply in_ite
    | exact Foot.sub hft rfl
    | with_reducible exact Or.inl rfl
    | exact Or.inr (Foot.sub hft rfl)
    | with_reducible apply InMk.of
    | simp -zeta only [in_mk_iff]
    | split

def State.mirEval_foot : Foot :=
  Fld.STATE.foot ||| Fld.SOLO_CNT.foot ||| Fld.MIR_FLAGS_CNT_OVF.foot ||| State.count_foot |||
    State.resolveFences_foot
theorem State.mirEval_in {s : State} (hks : In ft s0 s) (hft : State.mirEval_foot.le ft = true) :
    In ft s0 (State.mirEval s) := by
  unfold State.mirEval
  repeat' first
    | (extract_lets +onlyGivenNames x
       first
       | (have : In ft s0 x := by
            subst x
            repeat' first
              | (extract_lets +onlyGivenNames x; subst x)
              | with_reducible first
                  | assumption | apply State.wr_in | apply State.count_in | apply State.resolveFences_in
                  | apply in_ite
              | exact Foot.sub hft rfl
              | split
          clear_value x)
       | clear_value x
       | subst x)
    | with_reducible first
        | assumption | apply State.wr_in | apply State.count_in | apply State.resolveFences_in | apply in_ite
    | exact Foot.sub hft rfl
    | split

end Sys2Proof.Machine
end

