-- ==== Sys2Proof/Laws/FramePathOps.lean ====
section
/-! SUPPORT. The footprints of the operations of Machine/PathOps (Laws/Frame). -/

namespace Sys2Proof.Machine

variable {ft : Foot} {s0 : State}

def State.barWrite_foot : Foot := State.recordOnce_foot
theorem State.barWrite_in {s : State} {f : State → State} (hks : In ft s0 s)
    (hf : ∀ s, In ft s0 s → In ft s0 (f s)) (hft : State.barWrite_foot.le ft = true) :
    In ft s0 (State.barWrite s f) := by
  unfold State.barWrite
  repeat' first
    | with_reducible first | assumption | apply State.recordOnce_in | apply in_ite | apply hf
    | exact Foot.sub hft rfl
    | split
    | intro _ _ _
    | intro _ _

def State.doneWrite_foot : Foot := State.complete_foot
theorem State.doneWrite_in {s : State} {r : HostReq} (hks : In ft s0 s) (hft : State.doneWrite_foot.le ft = true) :
    In ft s0 (State.doneWrite s r) := by
  unfold State.doneWrite
  repeat' first
    | with_reducible first | assumption | apply State.complete_in
    | exact Foot.sub hft rfl

def State.doneRead_foot : Foot :=
  Fld.DEVLOAD.foot ||| Fld.POISON_RD_CNT.foot ||| Fld.PRT_LD_FLAGS_CNT_OVF.foot ||| State.send_foot |||
    State.count_foot
theorem State.doneRead_in {s : State} {r : HostReq} {data : Line} {poison : Bool} (hks : In ft s0 s)
    (hft : State.doneRead_foot.le ft = true) :
    In ft s0 (State.doneRead s r data poison) := by
  unfold State.doneRead
  repeat' first
    | (extract_lets +onlyGivenNames x
       first
       | (have : In ft s0 x := by
            subst x
            repeat' first
              | (extract_lets +onlyGivenNames x; subst x)
              | with_reducible first
                  | assumption | apply State.wri_in | apply State.when_in | apply State.send_in
                  | apply State.count_in | apply in_ite
              | exact Foot.sub hft rfl
              | split
              | intro _ _ _
              | intro _ _
          clear_value x)
       | clear_value x
       | subst x)
    | with_reducible first
        | assumption | apply State.wri_in | apply State.when_in | apply State.send_in | apply State.count_in
        | apply in_ite
    | exact Foot.sub hft rfl
    | split
    | intro _ _ _
    | intro _ _

def State.unmapped_foot : Foot :=
  Fld.UNMAPPED_CNT.foot ||| Fld.PRT_LD_FLAGS_CNT_OVF.foot ||| State.freeNext_foot ||| State.recordOnce_foot |||
    State.count_foot ||| State.doneWrite_foot ||| State.doneRead_foot
theorem State.unmapped_in {s : State} {r : HostReq} (hks : In ft s0 s) (hft : State.unmapped_foot.le ft = true) :
    In ft s0 (State.unmapped s r) := by
  unfold State.unmapped
  repeat' first
    | (extract_lets +onlyGivenNames x
       first
       | (have : In ft s0 x := by
            subst x
            repeat' first
              | (extract_lets +onlyGivenNames x; subst x)
              | with_reducible first
                  | assumption | apply State.freeNext_in | apply State.recordOnce_in | apply State.count_in
                  | apply State.doneWrite_in | apply State.doneRead_in | apply in_ite
              | exact Foot.sub hft rfl
              | split
          clear_value x)
       | clear_value x
       | subst x)
    | with_reducible first
        | assumption | apply State.freeNext_in | apply State.recordOnce_in | apply State.count_in
        | apply State.doneWrite_in | apply State.doneRead_in | apply in_ite
    | exact Foot.sub hft rfl
    | split

def State.benchRegs_foot : Foot := Fld.BENCHED.foot ||| Fld.BENCH_USED.foot ||| Fld.BENCH_PEAK.foot
theorem State.benchRegs_in {s : State} {k j : Nat} (hks : In ft s0 s) (hft : State.benchRegs_foot.le ft = true) :
    In ft s0 (State.benchRegs s k j) := by
  unfold State.benchRegs
  repeat' first
    | (extract_lets +onlyGivenNames x
       first
       | (have : In ft s0 x := by
            subst x
            repeat' first
              | (extract_lets +onlyGivenNames x; subst x)
              | with_reducible first | assumption | apply State.wri_in | apply foldl_in
              | exact Foot.sub hft rfl
              | intro _ _ _
              | intro _ _
              | with_reducible apply InP.pair
          clear_value x)
       | clear_value x
       | subst x)
    | with_reducible first | assumption | apply State.wri_in | apply foldl_in
    | exact Foot.sub hft rfl
    | intro _ _ _
    | intro _ _
    | with_reducible apply InP.pair

def State.creditStop_foot : Foot := Fld.BENCH_FULL.foot ||| Part.prt.foot ||| State.recordOnce_foot
theorem State.creditStop_in {s : State} {k : Nat} (hks : In ft s0 s) (hft : State.creditStop_foot.le ft = true) :
    In ft s0 (State.creditStop s k) := by
  unfold State.creditStop
  repeat' first
    | (extract_lets +onlyGivenNames x
       first
       | (have : In ft s0 x := by
            subst x
            repeat' first
              | with_reducible first | assumption | apply State.setfi_in | apply State.recordOnce_in | apply in_ite
              | exact Foot.sub hft rfl
              | with_reducible exact Or.inl rfl
              | exact Or.inr (Foot.sub hft rfl)
              | with_reducible apply InMk.of
              | simp -zeta only [in_mk_iff]
              | split
          clear_value x)
       | clear_value x
       | subst x)
    | with_reducible first | assumption | apply State.setfi_in | apply State.recordOnce_in | apply in_ite
    | exact Foot.sub hft rfl
    | with_reducible exact Or.inl rfl
    | exact Or.inr (Foot.sub hft rfl)
    | with_reducible apply InMk.of
    | simp -zeta only [in_mk_iff]
    | split

def State.hostWait_foot : Foot :=
  Part.prt.foot ||| Part.waits.foot ||| State.benchRegs_foot ||| State.creditStop_foot
theorem State.hostWait_in {s : State} {r : HostReq} {why : Why} {obj tp : Nat} (hks : In ft s0 s)
    (hft : State.hostWait_foot.le ft = true) :
    In ft s0 (State.hostWait s r why obj tp) := by
  unfold State.hostWait
  repeat' first
    | (extract_lets +onlyGivenNames x
       first
       | (have : In ft s0 x := by
            subst x
            repeat' first
              | (extract_lets +onlyGivenNames x; subst x)
              | with_reducible first
                  | assumption | apply State.when_in | apply State.benchRegs_in | apply State.creditStop_in
                  | apply in_ite
              | exact Foot.sub hft rfl
              | with_reducible exact Or.inl rfl
              | exact Or.inr (Foot.sub hft rfl)
              | with_reducible apply InMk.of
              | simp -zeta only [in_mk_iff]
              | split
              | intro _ _ _
              | intro _ _
          clear_value x)
       | clear_value x
       | subst x)
    | with_reducible first
        | assumption | apply State.when_in | apply State.benchRegs_in | apply State.creditStop_in | apply in_ite
    | exact Foot.sub hft rfl
    | with_reducible exact Or.inl rfl
    | exact Or.inr (Foot.sub hft rfl)
    | with_reducible apply InMk.of
    | simp -zeta only [in_mk_iff]
    | split
    | intro _ _ _
    | intro _ _

def State.benchFill_foot : Foot := Part.waits.foot ||| State.benchRegs_foot
theorem State.benchFill_in {s : State} {k : Nat} (hks : In ft s0 s) (hft : State.benchFill_foot.le ft = true) :
    In ft s0 (State.benchFill s k) := by
  unfold State.benchFill
  repeat' first
    | (extract_lets +onlyGivenNames x
       first
       | (have : In ft s0 x := by
            subst x
            repeat' first
              | with_reducible first | assumption | apply State.each_in | apply State.benchRegs_in | apply in_ite
              | exact Foot.sub hft rfl
              | with_reducible exact Or.inl rfl
              | exact Or.inr (Foot.sub hft rfl)
              | with_reducible apply InMk.of
              | simp -zeta only [in_mk_iff]
              | split
              | intro _ _ _
              | intro _ _
          clear_value x)
       | clear_value x
       | subst x)
    | with_reducible first | assumption | apply State.each_in | apply State.benchRegs_in | apply in_ite
    | exact Foot.sub hft rfl
    | with_reducible exact Or.inl rfl
    | exact Or.inr (Foot.sub hft rfl)
    | with_reducible apply InMk.of
    | simp -zeta only [in_mk_iff]
    | split
    | intro _ _ _
    | intro _ _

def State.entWait_foot : Foot := Part.waits.foot
theorem State.entWait_in {s : State} {e : Ent} {d : Nat} {why : Why} {obj tp : Nat} (hks : In ft s0 s)
    (hft : State.entWait_foot.le ft = true) :
    In ft s0 (State.entWait s e d why obj tp) := by
  unfold State.entWait
  repeat' first
    | (extract_lets +onlyGivenNames x; clear_value x)
    | with_reducible first | assumption | apply in_ite
    | exact Foot.sub hft rfl
    | with_reducible exact Or.inl rfl
    | exact Or.inr (Foot.sub hft rfl)
    | with_reducible apply InMk.of
    | simp -zeta only [in_mk_iff]
    | split

def State.entGo_foot : Foot := Part.waits.foot ||| State.stallEnd_foot
theorem State.entGo_in {s : State} {e : Ent} {d : Nat} (hks : In ft s0 s) (hft : State.entGo_foot.le ft = true) :
    In ft s0 (State.entGo s e d) := by
  unfold State.entGo
  repeat' first
    | (extract_lets +onlyGivenNames x; clear_value x)
    | with_reducible first | assumption | apply State.stallEnd_in
    | exact Foot.sub hft rfl
    | with_reducible exact Or.inl rfl
    | exact Or.inr (Foot.sub hft rfl)
    | with_reducible apply InMk.of
    | simp -zeta only [in_mk_iff]

def State.moveRegs_foot : Foot := Fld.MOVES_USED.foot ||| Fld.DF_ACTIVE.foot
theorem State.moveRegs_in {s : State} (hks : In ft s0 s) (hft : State.moveRegs_foot.le ft = true) :
    In ft s0 (State.moveRegs s) := by
  unfold State.moveRegs
  repeat' first
    | with_reducible first | assumption | apply State.wr_in
    | exact Foot.sub hft rfl

def State.updMove_foot : Foot := Part.tpe.foot
theorem State.updMove_in {s : State} {id : Nat} {f : Move → Move} (hks : In ft s0 s)
    (hft : State.updMove_foot.le ft = true) :
    In ft s0 (State.updMove s id f) := by
  unfold State.updMove
  repeat' first
    | (extract_lets +onlyGivenNames x; clear_value x)
    | with_reducible first | assumption | apply in_ite
    | exact Foot.sub hft rfl
    | with_reducible exact Or.inl rfl
    | exact Or.inr (Foot.sub hft rfl)
    | with_reducible apply InMk.of
    | simp -zeta only [in_mk_iff]
    | split

def State.streamRegs_foot : Foot := Fld.STREAMS_ACTIVE.foot ||| Fld.STREAMS.foot
theorem State.streamRegs_in {s : State} {d : Nat} (hks : In ft s0 s) (hft : State.streamRegs_foot.le ft = true) :
    In ft s0 (State.streamRegs s d) := by
  unfold State.streamRegs
  repeat' first
    | with_reducible first | assumption | apply State.wri_in | apply State.wr_in
    | exact Foot.sub hft rfl

def State.streamEnd_foot : Foot := Part.tpe.foot ||| State.finishCmd_foot ||| State.streamRegs_foot
theorem State.streamEnd_in {s : State} {t : Stream} (hks : In ft s0 s) (hft : State.streamEnd_foot.le ft = true) :
    In ft s0 (State.streamEnd s t) := by
  unfold State.streamEnd
  repeat' first
    | (extract_lets +onlyGivenNames x
       first
       | (have : In ft s0 x := by
            subst x
            repeat' first
              | with_reducible first
                  | assumption | apply State.finishCmd_in | apply State.streamRegs_in | apply in_ite
              | exact Foot.sub hft rfl
              | with_reducible exact Or.inl rfl
              | exact Or.inr (Foot.sub hft rfl)
              | with_reducible apply InMk.of
              | simp -zeta only [in_mk_iff]
              | split
              | intro _ _ _
              | intro _ _
          clear_value x)
       | clear_value x
       | subst x)
    | with_reducible first | assumption | apply State.finishCmd_in | apply State.streamRegs_in | apply in_ite
    | exact Foot.sub hft rfl
    | with_reducible exact Or.inl rfl
    | exact Or.inr (Foot.sub hft rfl)
    | with_reducible apply InMk.of
    | simp -zeta only [in_mk_iff]
    | split
    | intro _ _ _
    | intro _ _

def State.streamEnds_foot : Foot := State.streamEnd_foot
theorem State.streamEnds_in {s : State} (hks : In ft s0 s) (hft : State.streamEnds_foot.le ft = true) :
    In ft s0 (State.streamEnds s) := by
  unfold State.streamEnds
  repeat' first
    | with_reducible first | assumption | apply State.each_in | apply State.streamEnd_in
    | exact Foot.sub hft rfl
    | intro _ _ _
    | intro _ _

def State.dropMove_foot : Foot := Part.tpe.foot ||| State.moveRegs_foot ||| State.streamEnds_foot
theorem State.dropMove_in {s : State} {id : Nat} (hks : In ft s0 s) (hft : State.dropMove_foot.le ft = true) :
    In ft s0 (State.dropMove s id) := by
  unfold State.dropMove
  repeat' first
    | (extract_lets +onlyGivenNames x; clear_value x)
    | with_reducible first | assumption | apply State.moveRegs_in | apply State.streamEnds_in
    | exact Foot.sub hft rfl
    | with_reducible exact Or.inl rfl
    | exact Or.inr (Foot.sub hft rfl)
    | with_reducible apply InMk.of
    | simp -zeta only [in_mk_iff]

def State.queueMove_foot : Foot := Part.tpe.foot
theorem State.queueMove_in {s : State} {m : Move} (hks : In ft s0 s) (hft : State.queueMove_foot.le ft = true) :
    In ft s0 (State.queueMove s m) := by
  unfold State.queueMove
  repeat' first
    | (extract_lets +onlyGivenNames x; clear_value x)
    | with_reducible first | assumption
    | exact Foot.sub hft rfl
    | with_reducible exact Or.inl rfl
    | exact Or.inr (Foot.sub hft rfl)
    | with_reducible apply InMk.of
    | simp -zeta only [in_mk_iff]

def State.updStream_foot : Foot := Part.tpe.foot
theorem State.updStream_in {s : State} {d sid : Nat} {f : Stream → Stream} (hks : In ft s0 s)
    (hft : State.updStream_foot.le ft = true) :
    In ft s0 (State.updStream s d sid f) := by
  unfold State.updStream
  repeat' first
    | (extract_lets +onlyGivenNames x; clear_value x)
    | with_reducible first | assumption | apply in_ite
    | exact Foot.sub hft rfl
    | with_reducible exact Or.inl rfl
    | exact Or.inr (Foot.sub hft rfl)
    | with_reducible apply InMk.of
    | simp -zeta only [in_mk_iff]
    | split

def State.countStreams_foot : Foot := State.updStream_foot
theorem State.countStreams_in {s : State} {m : Move} {done : Bool} (hks : In ft s0 s)
    (hft : State.countStreams_foot.le ft = true) :
    In ft s0 (State.countStreams s m done) := by
  unfold State.countStreams
  repeat' first
    | (extract_lets +onlyGivenNames x; clear_value x)
    | with_reducible first | assumption | apply State.each_in | apply State.updStream_in | apply in_ite
    | exact Foot.sub hft rfl
    | with_reducible exact Or.inl rfl
    | exact Or.inr (Foot.sub hft rfl)
    | with_reducible apply InMk.of
    | simp -zeta only [in_mk_iff]
    | split
    | intro _ _ _
    | intro _ _

def State.cancelMove_foot : Foot := State.dropMove_foot ||| State.countStreams_foot
theorem State.cancelMove_in {s : State} {m : Move} (hks : In ft s0 s) (hft : State.cancelMove_foot.le ft = true) :
    In ft s0 (State.cancelMove s m) := by
  unfold State.cancelMove
  repeat' first
    | with_reducible first | assumption | apply State.dropMove_in | apply State.countStreams_in
    | exact Foot.sub hft rfl

def State.abandonMove_foot : Foot := State.queueMove_foot ||| State.cancelMove_foot
theorem State.abandonMove_in {s : State} {m : Move} (hks : In ft s0 s) (hft : State.abandonMove_foot.le ft = true) :
    In ft s0 (State.abandonMove s m) := by
  unfold State.abandonMove
  repeat' first
    | (extract_lets +onlyGivenNames x
       first
       | (have : In ft s0 x := by
            subst x
            repeat' first
              | (extract_lets +onlyGivenNames x; subst x)
              | with_reducible first
                  | assumption | apply State.queueMove_in | apply State.cancelMove_in | apply in_ite
              | exact Foot.sub hft rfl
              | with_reducible exact Or.inl rfl
              | exact Or.inr (Foot.sub hft rfl)
              | with_reducible apply InMk.of
              | simp -zeta only [in_mk_iff]
              | split
          clear_value x)
       | clear_value x
       | subst x)
    | with_reducible first | assumption | apply State.queueMove_in | apply State.cancelMove_in | apply in_ite
    | exact Foot.sub hft rfl
    | with_reducible exact Or.inl rfl
    | exact Or.inr (Foot.sub hft rfl)
    | with_reducible apply InMk.of
    | simp -zeta only [in_mk_iff]
    | split

def State.markLate_foot : Foot :=
  Fld.LATE_CNT.foot ||| Fld.TPE_DOM_STRM2_CNT_OVF.foot ||| State.count_foot ||| State.updMove_foot |||
    State.updStream_foot
theorem State.markLate_in {s : State} {m : Move} {d : Nat} (hks : In ft s0 s)
    (hft : State.markLate_foot.le ft = true) :
    In ft s0 (State.markLate s m d) := by
  unfold State.markLate
  repeat' first
    | (extract_lets +onlyGivenNames x
       first
       | (have : In ft s0 x := by
            subst x
            repeat' first
              | (extract_lets +onlyGivenNames x; subst x)
              | with_reducible first
                  | assumption | apply State.each_in | apply State.count_in | apply State.updMove_in
                  | apply State.updStream_in | apply in_ite
              | exact Foot.sub hft rfl
              | with_reducible exact Or.inl rfl
              | exact Or.inr (Foot.sub hft rfl)
              | with_reducible apply InMk.of
              | simp -zeta only [in_mk_iff]
              | split
              | intro _ _ _
              | intro _ _
          clear_value x)
       | clear_value x
       | subst x)
    | with_reducible first
        | assumption | apply State.each_in | apply State.count_in | apply State.updMove_in | apply State.updStream_in
        | apply in_ite
    | exact Foot.sub hft rfl
    | with_reducible exact Or.inl rfl
    | exact Or.inr (Foot.sub hft rfl)
    | with_reducible apply InMk.of
    | simp -zeta only [in_mk_iff]
    | split
    | intro _ _ _
    | intro _ _

def State.beginLoad_foot : Foot :=
  State.setMap_foot ||| State.takeFrame_foot ||| State.moveRegs_foot ||| State.updMove_foot
theorem State.beginLoad_in {s : State} {m : Move} {acct use : Nat} (hks : In ft s0 s)
    (hft : State.beginLoad_foot.le ft = true) :
    In ft s0 (State.beginLoad s m acct use) := by
  unfold State.beginLoad
  repeat' first
    | (extract_lets +onlyGivenNames x
       first
       | (have : In ft s0 x := by
            subst x
            repeat' first
              | (extract_lets +onlyGivenNames x; subst x)
              | with_reducible first
                  | assumption | apply State.setMap_in | apply State.takeFrame_in | apply State.moveRegs_in
                  | apply State.updMove_in
              | exact Foot.sub hft rfl
              | with_reducible exact Or.inl rfl
              | exact Or.inr (Foot.sub hft rfl)
              | with_reducible apply InMk.of
              | simp -zeta only [in_mk_iff]
              | intro _ _ _
              | intro _ _
          clear_value x)
       | clear_value x
       | subst x)
    | with_reducible first
        | assumption | apply State.setMap_in | apply State.takeFrame_in | apply State.moveRegs_in
        | apply State.updMove_in
    | exact Foot.sub hft rfl
    | with_reducible exact Or.inl rfl
    | exact Or.inr (Foot.sub hft rfl)
    | with_reducible apply InMk.of
    | simp -zeta only [in_mk_iff]
    | intro _ _ _
    | intro _ _

def State.startDemand_foot : Foot :=
  Fld.DF_CNT.foot ||| Fld.TPE_FLAGS_CNT_OVF.foot ||| State.count_foot ||| State.queueMove_foot |||
    State.beginLoad_foot
theorem State.startDemand_in {s : State} {m : Move} {replica : Bool} (hks : In ft s0 s)
    (hft : State.startDemand_foot.le ft = true) :
    In ft s0 (State.startDemand s m replica) := by
  unfold State.startDemand
  repeat' first
    | (extract_lets +onlyGivenNames x
       first
       | (have : In ft s0 x := by
            subst x
            repeat' first
              | (extract_lets +onlyGivenNames x; subst x)
              | with_reducible first
                  | assumption | apply State.count_in | apply State.queueMove_in | apply State.beginLoad_in
                  | apply in_ite
              | exact Foot.sub hft rfl
              | split
          clear_value x)
       | clear_value x
       | subst x)
    | with_reducible first
        | assumption | apply State.count_in | apply State.queueMove_in | apply State.beginLoad_in | apply in_ite
    | exact Foot.sub hft rfl
    | split

def State.needPage_foot : Foot := Part.tpe.foot ||| State.markLate_foot ||| State.startDemand_foot
theorem State.needPage_in {s : State} {obj tp d : Nat} {replica : Bool} (hks : In ft s0 s)
    (hft : State.needPage_foot.le ft = true) :
    In ft s0 (State.needPage s obj tp d replica) := by
  unfold State.needPage
  repeat' first
    | (extract_lets +onlyGivenNames x
       first
       | (have : In ft s0 x := by
            subst x
            repeat' first
              | (extract_lets +onlyGivenNames x; subst x)
              | with_reducible first
                  | assumption | apply State.markLate_in | apply State.startDemand_in | apply in_ite
              | exact Foot.sub hft rfl
              | with_reducible exact Or.inl rfl
              | exact Or.inr (Foot.sub hft rfl)
              | with_reducible apply InMk.of
              | simp -zeta only [in_mk_iff]
              | split
          clear_value x)
       | clear_value x
       | subst x)
    | with_reducible first | assumption | apply State.markLate_in | apply State.startDemand_in | apply in_ite
    | exact Foot.sub hft rfl
    | with_reducible exact Or.inl rfl
    | exact Or.inr (Foot.sub hft rfl)
    | with_reducible apply InMk.of
    | simp -zeta only [in_mk_iff]
    | split

def State.dropDemotion_foot : Foot := State.cancelMove_foot
theorem State.dropDemotion_in {s : State} {obj tp : Nat} (hks : In ft s0 s)
    (hft : State.dropDemotion_foot.le ft = true) :
    In ft s0 (State.dropDemotion s obj tp) := by
  unfold State.dropDemotion
  repeat' first
    | with_reducible first | assumption | apply State.cancelMove_in
    | exact Foot.sub hft rfl
    | split

def State.sfRead_foot : Foot := State.sfAdd_foot
theorem State.sfRead_in {s : State} {r : HostReq} {la : Nat} (hks : In ft s0 s)
    (hft : State.sfRead_foot.le ft = true) :
    In ft s0 (State.sfRead s r la) := by
  unfold State.sfRead
  repeat' first
    | with_reducible first | assumption | apply State.sfAdd_in | apply in_ite
    | exact Foot.sub hft rfl
    | split

def State.sfWrite_foot : Foot := State.sfDrop_foot ||| State.sfRead_foot
theorem State.sfWrite_in {s : State} {r : HostReq} {la : Nat} (hks : In ft s0 s)
    (hft : State.sfWrite_foot.le ft = true) :
    In ft s0 (State.sfWrite s r la) := by
  unfold State.sfWrite
  repeat' first
    | with_reducible first | assumption | apply State.sfDrop_in | apply State.sfRead_in | apply in_ite
    | exact Foot.sub hft rfl
    | split

def State.stored_foot : Foot := State.redirty_foot ||| State.mirStore_foot
theorem State.stored_in {s : State} {obj tp la : Nat} {data : Line} {poison : Bool} {d : Nat} (hks : In ft s0 s)
    (hft : State.stored_foot.le ft = true) :
    In ft s0 (State.stored s obj tp la data poison d) := by
  unfold State.stored
  repeat' first
    | (extract_lets +onlyGivenNames x
       first
       | (have : In ft s0 x := by
            subst x
            repeat' first
              | (extract_lets +onlyGivenNames x; subst x)
              | with_reducible first | assumption | apply State.redirty_in | apply State.mirStore_in | apply in_ite
              | exact Foot.sub hft rfl
              | split
          clear_value x)
       | clear_value x
       | subst x)
    | with_reducible first | assumption | apply State.redirty_in | apply State.mirStore_in | apply in_ite
    | exact Foot.sub hft rfl
    | split

def State.applyReq_foot : Foot :=
  State.putWay_foot ||| State.touch_foot ||| State.doneWrite_foot ||| State.doneRead_foot ||| State.sfRead_foot |||
    State.sfWrite_foot ||| State.stored_foot
theorem State.applyReq_in {s : State} {k : Key} {q : Req} (hks : In ft s0 s)
    (hft : State.applyReq_foot.le ft = true) :
    In ft s0 (State.applyReq s k q) := by
  unfold State.applyReq
  repeat' first
    | (extract_lets +onlyGivenNames x
       first
       | (have : In ft s0 x := by
            subst x
            repeat' first
              | (extract_lets +onlyGivenNames x; subst x)
              | with_reducible first
                  | assumption | apply State.putWay_in | apply State.touch_in | apply State.doneWrite_in
                  | apply State.doneRead_in | apply State.sfRead_in | apply State.sfWrite_in | apply State.stored_in
              | exact Foot.sub hft rfl
              | split
          clear_value x)
       | clear_value x
       | subst x)
    | with_reducible first
        | assumption | apply State.putWay_in | apply State.touch_in | apply State.doneWrite_in
        | apply State.doneRead_in | apply State.sfRead_in | apply State.sfWrite_in | apply State.stored_in
    | exact Foot.sub hft rfl
    | split

def State.storeBare_foot : Foot := State.writeDram_foot ||| State.stored_foot
theorem State.storeBare_in {s : State} {la obj tp : Nat} {data : Line} {m : Mask} {poison : Bool} {d cls : Nat}
    (hks : In ft s0 s) (hft : State.storeBare_foot.le ft = true) :
    In ft s0 (State.storeBare s la obj tp data m poison d cls) := by
  unfold State.storeBare
  repeat' first
    | (extract_lets +onlyGivenNames x
       first
       | (have : In ft s0 x := by
            subst x
            repeat' first
              | (extract_lets +onlyGivenNames x; subst x)
              | with_reducible first | assumption | apply State.writeDram_in | apply State.stored_in | apply in_ite
              | exact Foot.sub hft rfl
              | split
          clear_value x)
       | clear_value x
       | subst x)
    | with_reducible first | assumption | apply State.writeDram_in | apply State.stored_in | apply in_ite
    | exact Foot.sub hft rfl
    | split

def State.applyBare_foot : Foot :=
  State.touch_foot ||| State.doneWrite_foot ||| State.doneRead_foot ||| State.sfRead_foot |||
    State.sfWrite_foot ||| State.storeBare_foot
theorem State.applyBare_in {s : State} {la obj tp : Nat} {q : Req} (hks : In ft s0 s)
    (hft : State.applyBare_foot.le ft = true) :
    In ft s0 (State.applyBare s la obj tp q) := by
  unfold State.applyBare
  repeat' first
    | (extract_lets +onlyGivenNames x
       first
       | (have hgo : ∀ s y, In ft s0 s → In ft s0 (x s y) := by
            intro s y hs
            subst x
            repeat' first
              | (extract_lets +onlyGivenNames x; subst x)
              | with_reducible first
                  | assumption | apply State.touch_in | apply State.doneWrite_in | apply State.doneRead_in
                  | apply State.sfRead_in | apply State.sfWrite_in | apply State.storeBare_in
              | exact Foot.sub hft rfl
              | split
          clear_value x)
       | (have : In ft s0 x := by
            subst x
            repeat' first
              | (extract_lets +onlyGivenNames x; subst x)
              | with_reducible first
                  | assumption | apply hgo | apply State.touch_in | apply State.doneWrite_in
                  | apply State.doneRead_in | apply State.sfRead_in | apply State.sfWrite_in
                  | apply State.storeBare_in
              | exact Foot.sub hft rfl
              | split
          clear_value x)
       | clear_value x
       | subst x)
    | with_reducible first
        | assumption | apply hgo | apply State.touch_in | apply State.doneWrite_in | apply State.doneRead_in
        | apply State.sfRead_in | apply State.sfWrite_in | apply State.storeBare_in
    | exact Foot.sub hft rfl
    | split

def State.applyLine_foot : Foot := State.applyReq_foot ||| State.applyBare_foot
theorem State.applyLine_in {s : State} {la obj tp : Nat} {q : Req} (hks : In ft s0 s)
    (hft : State.applyLine_foot.le ft = true) :
    In ft s0 (State.applyLine s la obj tp q) := by
  unfold State.applyLine
  repeat' first
    | with_reducible first | assumption | apply State.applyReq_in | apply State.applyBare_in
    | exact Foot.sub hft rfl
    | split

def State.missWait_foot : Foot := Fld.FCH_SL_FLAGS_CNT_OVF.foot ||| Part.fch.foot ||| State.count_foot
theorem State.missWait_in {s : State} {la obj tp : Nat} {q : Req} {cnt : Fld} {b : Nat} (hks : In ft s0 s)
    (hcnt : cnt.foot.le ft = true) (hft : State.missWait_foot.le ft = true) :
    In ft s0 (State.missWait s la obj tp q cnt b) := by
  unfold State.missWait
  repeat' first
    | (extract_lets +onlyGivenNames x
       first
       | (have : In ft s0 x := by
            subst x
            repeat' first
              | (extract_lets +onlyGivenNames x; subst x)
              | with_reducible first | assumption | apply State.count_in
              | exact Foot.sub hft rfl
              | with_reducible exact Or.inl rfl
              | exact Or.inr (Foot.sub hft rfl)
              | with_reducible apply InMk.of
              | simp -zeta only [in_mk_iff]
          clear_value x)
       | clear_value x
       | subst x)
    | with_reducible first | assumption | apply State.count_in
    | exact Foot.sub hft rfl
    | with_reducible exact Or.inl rfl
    | exact Or.inr (Foot.sub hft rfl)
    | with_reducible apply InMk.of
    | simp -zeta only [in_mk_iff]

def State.lineAccess_foot : Foot :=
  Part.fch.foot ||| State.dreq_foot ||| State.mrPeak_foot ||| State.install_foot ||| State.touch_foot |||
    State.applyReq_foot ||| State.applyBare_foot ||| State.applyLine_foot ||| State.missWait_foot |||
    Fld.MERGE_FULL_CNT.foot ||| Fld.MR_FULL_CNT.foot
theorem State.lineAccess_in {s : State} {la obj tp : Nat} {q : Req} (hks : In ft s0 s)
    (hft : State.lineAccess_foot.le ft = true) :
    In ft s0 (State.lineAccess s la obj tp q) := by
  unfold State.lineAccess
  repeat' first
    | (extract_lets +onlyGivenNames x
       first
       | (have : In ft s0 x := by
            subst x
            repeat' first
              | (extract_lets +onlyGivenNames x; subst x)
              | with_reducible first
                  | assumption | apply State.dreq_in | apply State.mrPeak_in | apply State.install_in
                  | apply State.touch_in | apply State.applyReq_in | apply State.applyBare_in
                  | apply State.applyLine_in | apply State.missWait_in | apply in_ite
              | exact Foot.sub hft rfl
              | with_reducible exact Or.inl rfl
              | exact Or.inr (Foot.sub hft rfl)
              | with_reducible apply InMk.of
              | simp -zeta only [in_mk_iff]
              | split
          clear_value x)
       | clear_value x
       | subst x)
    | with_reducible first
        | assumption | apply State.dreq_in | apply State.mrPeak_in | apply State.install_in | apply State.touch_in
        | apply State.applyReq_in | apply State.applyBare_in | apply State.applyLine_in | apply State.missWait_in
        | apply in_ite
    | exact Foot.sub hft rfl
    | with_reducible exact Or.inl rfl
    | exact Or.inr (Foot.sub hft rfl)
    | with_reducible apply InMk.of
    | simp -zeta only [in_mk_iff]
    | split

def State.missQueue_foot : Foot := Part.fch.foot ||| State.lineAccess_foot
theorem State.missQueue_in {s : State} {sl : Nat} (hks : In ft s0 s) (hft : State.missQueue_foot.le ft = true) :
    In ft s0 (State.missQueue s sl) := by
  unfold State.missQueue
  repeat' first
    | (extract_lets +onlyGivenNames x; clear_value x)
    | with_reducible first | assumption | apply State.lineAccess_in
    | exact Foot.sub hft rfl
    | with_reducible exact Or.inl rfl
    | exact Or.inr (Foot.sub hft rfl)
    | with_reducible apply InMk.of
    | simp -zeta only [in_mk_iff]
    | split

def State.mrFinish_foot : Foot :=
  Part.fch.foot ||| State.install_foot ||| State.flushEvict_foot ||| State.applyLine_foot ||| State.missQueue_foot
theorem State.mrFinish_in {s : State} {k : Key} {m : MissReg} (hks : In ft s0 s)
    (hft : State.mrFinish_foot.le ft = true) :
    In ft s0 (State.mrFinish s k m) := by
  unfold State.mrFinish
  repeat' first
    | (extract_lets +onlyGivenNames x
       first
       | (have : In ft s0 x := by
            subst x
            repeat' first
              | (extract_lets +onlyGivenNames x; subst x)
              | with_reducible first
                  | assumption | apply State.each_in | apply State.install_in | apply State.flushEvict_in
                  | apply State.applyLine_in | apply State.missQueue_in
              | exact Foot.sub hft rfl
              | with_reducible exact Or.inl rfl
              | exact Or.inr (Foot.sub hft rfl)
              | with_reducible apply InMk.of
              | simp -zeta only [in_mk_iff]
              | split
              | intro _ _ _
              | intro _ _
          clear_value x)
       | clear_value x
       | subst x)
    | with_reducible first
        | assumption | apply State.each_in | apply State.install_in | apply State.flushEvict_in
        | apply State.applyLine_in | apply State.missQueue_in
    | exact Foot.sub hft rfl
    | with_reducible exact Or.inl rfl
    | exact Or.inr (Foot.sub hft rfl)
    | with_reducible apply InMk.of
    | simp -zeta only [in_mk_iff]
    | split
    | intro _ _ _
    | intro _ _

def State.serveT1_foot : Foot :=
  Fld.SF_EVICT_CNT.foot ||| Fld.SF_EVICT_OVF.foot ||| State.count_foot ||| State.chargeCp_foot |||
    State.redirty_foot ||| State.snoop_foot ||| State.hostWait_foot ||| State.dropDemotion_foot |||
    State.lineAccess_foot
theorem State.serveT1_in {s : State} {r : HostReq} {o : Obj} {obj tp ix la : Nat} (hks : In ft s0 s)
    (hft : State.serveT1_foot.le ft = true) :
    In ft s0 (State.serveT1 s r o obj tp ix la) := by
  unfold State.serveT1
  repeat' first
    | (extract_lets +onlyGivenNames x
       first
       | (have : In ft s0 x := by
            subst x
            repeat' first
              | (extract_lets +onlyGivenNames x; subst x)
              | with_reducible first
                  | assumption | apply State.each_in | apply State.count_in | apply State.chargeCp_in
                  | apply State.redirty_in | apply State.snoop_in | apply State.hostWait_in
                  | apply State.dropDemotion_in | apply State.lineAccess_in | apply in_ite
              | exact Foot.sub hft rfl
              | split
              | intro _ _ _
              | intro _ _
          clear_value x)
       | clear_value x
       | subst x)
    | with_reducible first
        | assumption | apply State.each_in | apply State.count_in | apply State.chargeCp_in | apply State.redirty_in
        | apply State.snoop_in | apply State.hostWait_in | apply State.dropDemotion_in | apply State.lineAccess_in
        | apply in_ite
    | exact Foot.sub hft rfl
    | split
    | intro _ _ _
    | intro _ _

def State.leavingWb_foot : Foot :=
  State.setMap_foot ||| State.chargeCp_foot ||| State.hostWait_foot ||| State.abandonMove_foot |||
    State.lineAccess_foot
theorem State.leavingWb_in {s : State} {r : HostReq} {o : Obj} {obj tp ix la : Nat} (hks : In ft s0 s)
    (hft : State.leavingWb_foot.le ft = true) :
    In ft s0 (State.leavingWb s r o obj tp ix la) := by
  unfold State.leavingWb
  repeat' first
    | (extract_lets +onlyGivenNames x
       first
       | (have : In ft s0 x := by
            subst x
            repeat' first
              | (extract_lets +onlyGivenNames x; subst x)
              | with_reducible first
                  | assumption | apply State.setMap_in | apply State.chargeCp_in | apply State.hostWait_in
                  | apply State.abandonMove_in | apply State.lineAccess_in | apply in_ite
              | exact Foot.sub hft rfl
              | with_reducible exact Or.inl rfl
              | exact Or.inr (Foot.sub hft rfl)
              | with_reducible apply InMk.of
              | simp -zeta only [in_mk_iff]
              | split
          clear_value x)
       | clear_value x
       | subst x)
    | with_reducible first
        | assumption | apply State.setMap_in | apply State.chargeCp_in | apply State.hostWait_in
        | apply State.abandonMove_in | apply State.lineAccess_in | apply in_ite
    | exact Foot.sub hft rfl
    | with_reducible exact Or.inl rfl
    | exact Or.inr (Foot.sub hft rfl)
    | with_reducible apply InMk.of
    | simp -zeta only [in_mk_iff]
    | split

def State.serveHost_foot : Foot :=
  Fld.RETX_FULL.foot ||| Part.fch.foot ||| State.recordOnce_foot ||| State.mrPeak_foot |||
    State.acceptFence_foot ||| State.doneWrite_foot ||| State.doneRead_foot ||| State.unmapped_foot |||
    State.hostWait_foot ||| State.needPage_foot ||| State.sfRead_foot ||| State.lineAccess_foot |||
    State.serveT1_foot ||| State.leavingWb_foot
theorem State.serveHost_in {s : State} {r : HostReq} (hks : In ft s0 s) (hft : State.serveHost_foot.le ft = true) :
    In ft s0 (State.serveHost s r) := by
  unfold State.serveHost
  repeat' first
    | (extract_lets +onlyGivenNames x
       first
       | (have : In ft s0 x := by
            subst x
            repeat' first
              | (extract_lets +onlyGivenNames x; subst x)
              | with_reducible first
                  | assumption | apply State.setf_in | apply State.when_in | apply State.recordOnce_in
                  | apply State.mrPeak_in | apply State.acceptFence_in | apply State.doneWrite_in
                  | apply State.doneRead_in | apply State.unmapped_in | apply State.hostWait_in
                  | apply State.needPage_in | apply State.sfRead_in | apply State.lineAccess_in
                  | apply State.serveT1_in | apply State.leavingWb_in | apply in_ite
              | exact Foot.sub hft rfl
              | with_reducible exact Or.inl rfl
              | exact Or.inr (Foot.sub hft rfl)
              | with_reducible apply InMk.of
              | simp -zeta only [in_mk_iff]
              | split
              | intro _ _ _
              | intro _ _
          clear_value x)
       | clear_value x
       | subst x)
    | with_reducible first
        | assumption | apply State.setf_in | apply State.when_in | apply State.recordOnce_in | apply State.mrPeak_in
        | apply State.acceptFence_in | apply State.doneWrite_in | apply State.doneRead_in | apply State.unmapped_in
        | apply State.hostWait_in | apply State.needPage_in | apply State.sfRead_in | apply State.lineAccess_in
        | apply State.serveT1_in | apply State.leavingWb_in | apply in_ite
    | exact Foot.sub hft rfl
    | with_reducible exact Or.inl rfl
    | exact Or.inr (Foot.sub hft rfl)
    | with_reducible apply InMk.of
    | simp -zeta only [in_mk_iff]
    | split
    | intro _ _ _
    | intro _ _

def State.reserve_foot : Foot :=
  Part.waits.foot ||| State.stallEnd_foot ||| State.benchRegs_foot ||| State.serveHost_foot
theorem State.reserve_in {s : State} {w : Wait} (hks : In ft s0 s) (hft : State.reserve_foot.le ft = true) :
    In ft s0 (State.reserve s w) := by
  unfold State.reserve
  repeat' first
    | (extract_lets +onlyGivenNames x
       first
       | (have : In ft s0 x := by
            subst x
            repeat' first
              | with_reducible first
                  | assumption | apply State.stallEnd_in | apply State.benchRegs_in | apply State.serveHost_in
                  | apply in_ite
              | exact Foot.sub hft rfl
              | with_reducible exact Or.inl rfl
              | exact Or.inr (Foot.sub hft rfl)
              | with_reducible apply InMk.of
              | simp -zeta only [in_mk_iff]
              | split
          clear_value x)
       | clear_value x
       | subst x)
    | with_reducible first
        | assumption | apply State.stallEnd_in | apply State.benchRegs_in | apply State.serveHost_in | apply in_ite
    | exact Foot.sub hft rfl
    | with_reducible exact Or.inl rfl
    | exact Or.inr (Foot.sub hft rfl)
    | with_reducible apply InMk.of
    | simp -zeta only [in_mk_iff]
    | split

def State.creditBack_foot : Foot := Part.prt.foot ||| State.serveHost_foot
theorem State.creditBack_in {s : State} {k : Nat} (hks : In ft s0 s) (hft : State.creditBack_foot.le ft = true) :
    In ft s0 (State.creditBack s k) := by
  unfold State.creditBack
  repeat' first
    | (extract_lets +onlyGivenNames x
       first
       | (have : In ft s0 x := by
            subst x
            repeat' first
              | (extract_lets +onlyGivenNames x; subst x)
              | with_reducible first | assumption | apply State.each_in | apply State.serveHost_in | apply in_ite
              | exact Foot.sub hft rfl
              | with_reducible exact Or.inl rfl
              | exact Or.inr (Foot.sub hft rfl)
              | with_reducible apply InMk.of
              | simp -zeta only [in_mk_iff]
              | split
              | intro _ _ _
              | intro _ _
          clear_value x)
       | clear_value x
       | subst x)
    | with_reducible first | assumption | apply State.each_in | apply State.serveHost_in | apply in_ite
    | exact Foot.sub hft rfl
    | with_reducible exact Or.inl rfl
    | exact Or.inr (Foot.sub hft rfl)
    | with_reducible apply InMk.of
    | simp -zeta only [in_mk_iff]
    | split
    | intro _ _ _
    | intro _ _

def State.credits_foot : Foot := State.benchFill_foot ||| State.creditBack_foot
theorem State.credits_in {s : State} (hks : In ft s0 s) (hft : State.credits_foot.le ft = true) :
    In ft s0 (State.credits s) := by
  unfold State.credits
  repeat' first
    | with_reducible first | assumption | apply State.each_in | apply State.benchFill_in | apply State.creditBack_in
    | exact Foot.sub hft rfl
    | intro _ _ _
    | intro _ _

def State.rerun_foot : Foot := Part.waits.foot ||| State.reserve_foot ||| State.credits_foot
theorem State.rerun_in {s : State} {p : Wait → Bool} (hks : In ft s0 s) (hft : State.rerun_foot.le ft = true) :
    In ft s0 (State.rerun s p) := by
  unfold State.rerun
  repeat' first
    | (extract_lets +onlyGivenNames x
       first
       | (have : In ft s0 x := by
            subst x
            repeat' first
              | (extract_lets +onlyGivenNames x; subst x)
              | with_reducible first
                  | assumption | apply State.when_in | apply State.each_in | apply State.reserve_in
                  | apply State.credits_in
              | exact Foot.sub hft rfl
              | with_reducible exact Or.inl rfl
              | exact Or.inr (Foot.sub hft rfl)
              | with_reducible apply InMk.of
              | simp -zeta only [in_mk_iff]
              | split
              | intro _ _ _
              | intro _ _
          clear_value x)
       | clear_value x
       | subst x)
    | with_reducible first
        | assumption | apply State.when_in | apply State.each_in | apply State.reserve_in | apply State.credits_in
    | exact Foot.sub hft rfl
    | with_reducible exact Or.inl rfl
    | exact Or.inr (Foot.sub hft rfl)
    | with_reducible apply InMk.of
    | simp -zeta only [in_mk_iff]
    | split
    | intro _ _ _
    | intro _ _

def State.wakePages_foot : Foot := State.rerun_foot
theorem State.wakePages_in {s : State} (hks : In ft s0 s) (hft : State.wakePages_foot.le ft = true) :
    In ft s0 (State.wakePages s) := by
  unfold State.wakePages
  repeat' first
    | with_reducible first | assumption | apply State.rerun_in
    | exact Foot.sub hft rfl
    | split
    | intro _ _ _
    | intro _ _

def State.pageReady_foot : Foot := Part.fch.foot ||| State.dreq_foot ||| State.rerun_foot
theorem State.pageReady_in {s : State} {obj tp : Nat} (hks : In ft s0 s) (hft : State.pageReady_foot.le ft = true) :
    In ft s0 (State.pageReady s obj tp) := by
  unfold State.pageReady
  repeat' first
    | (extract_lets +onlyGivenNames x
       first
       | (have : In ft s0 x := by
            subst x
            repeat' first
              | (extract_lets +onlyGivenNames x; subst x)
              | with_reducible first
                  | assumption | apply State.each_in | apply State.dreq_in | apply State.rerun_in | apply in_ite
              | exact Foot.sub hft rfl
              | with_reducible exact Or.inl rfl
              | exact Or.inr (Foot.sub hft rfl)
              | with_reducible apply InMk.of
              | simp -zeta only [in_mk_iff]
              | split
              | intro _ _ _
              | intro _ _
          clear_value x)
       | clear_value x
       | subst x)
    | with_reducible first
        | assumption | apply State.each_in | apply State.dreq_in | apply State.rerun_in | apply in_ite
    | exact Foot.sub hft rfl
    | with_reducible exact Or.inl rfl
    | exact Or.inr (Foot.sub hft rfl)
    | with_reducible apply InMk.of
    | simp -zeta only [in_mk_iff]
    | split
    | intro _ _ _
    | intro _ _

def State.mirChange_foot : Foot := State.mirEval_foot ||| State.rerun_foot
theorem State.mirChange_in {s : State} (hks : In ft s0 s) (hft : State.mirChange_foot.le ft = true) :
    In ft s0 (State.mirChange s) := by
  unfold State.mirChange
  repeat' first
    | (extract_lets +onlyGivenNames x
       first
       | (have : In ft s0 x := by
            subst x
            repeat' first
              | with_reducible first | assumption | apply State.mirEval_in | apply State.rerun_in | apply in_ite
              | exact Foot.sub hft rfl
              | split
              | intro _ _ _
              | intro _ _
          clear_value x)
       | clear_value x
       | subst x)
    | with_reducible first | assumption | apply State.mirEval_in | apply State.rerun_in | apply in_ite
    | exact Foot.sub hft rfl
    | split
    | intro _ _ _
    | intro _ _

def State.mirRoom_foot : Foot := State.rerun_foot
theorem State.mirRoom_in {s : State} (hks : In ft s0 s) (hft : State.mirRoom_foot.le ft = true) :
    In ft s0 (State.mirRoom s) := by
  unfold State.mirRoom
  repeat' first
    | with_reducible first | assumption | apply State.rerun_in
    | exact Foot.sub hft rfl
    | intro _ _ _
    | intro _ _

end Sys2Proof.Machine
end

