-- ==== Sys2Proof/Laws/FrameIntegOps.lean ====
section
/-! SUPPORT. The footprints of the operations of Machine/IntegOps (Laws/Frame). -/

namespace Sys2Proof.Machine

variable {ft : Foot} {s0 : State}

def State.flipUse_foot : Foot := Fld.FLIP_READS.foot ||| Fld.FLIP_ARM.foot
theorem State.flipUse_in {s : State} (hks : In ft s0 s) (hft : State.flipUse_foot.le ft = true) :
    In ft s0 (State.flipUse s) := by
  unfold State.flipUse
  repeat' first
    | (extract_lets +onlyGivenNames x; clear_value x)
    | with_reducible first | assumption | apply State.wr_in | apply State.setf_in | apply State.when_in
    | exact Foot.sub hft rfl
    | intro _ _ _
    | intro _ _

def State.decode_foot : Foot := State.flipUse_foot
theorem State.decode_in {s : State} {la : Nat} {errs : List Nat} (hks : In ft s0 s)
    (hft : State.decode_foot.le ft = true) :
    InP ft s0 (State.decode s la errs) := by
  unfold State.decode
  repeat' first
    | (extract_lets +onlyGivenNames x; clear_value x)
    | with_reducible first | assumption | apply State.when_in | apply State.flipUse_in | apply inP_ite | apply in_ite
    | exact Foot.sub hft rfl
    | split
    | intro _ _ _
    | intro _ _
    | with_reducible apply InP.pair
    | dsimp -zeta only

def State.corrected_foot : Foot :=
  Fld.MARK_VALID.foot ||| Fld.MARK_DEV.foot ||| Fld.INT_CH_ERR_CE_CNT.foot ||| Fld.INT_CH_FLAGS_CNT_OVF.foot |||
    Part.int.foot ||| State.record_foot ||| State.count_foot ||| State.alert_foot
theorem State.corrected_in {s : State} {la dev : Nat} (hks : In ft s0 s) (hft : State.corrected_foot.le ft = true) :
    In ft s0 (State.corrected s la dev) := by
  unfold State.corrected
  repeat' first
    | (extract_lets +onlyGivenNames x
       first
       | (have : In ft s0 x := by
            subst x
            repeat' first
              | (extract_lets +onlyGivenNames x; subst x)
              | with_reducible first
                  | assumption | apply State.wri_in | apply State.setBitOf_in | apply State.record_in
                  | apply State.count_in | apply State.alert_in | apply in_ite
              | exact Foot.sub hft rfl
              | with_reducible exact Or.inl rfl
              | exact Or.inr (Foot.sub hft rfl)
              | with_reducible apply InMk.of
              | simp -zeta only [in_mk_iff]
              | split
          clear_value x)
       | clear_value x
       | subst x)
    | with_reducible first
        | assumption | apply State.wri_in | apply State.setBitOf_in | apply State.record_in | apply State.count_in
        | apply State.alert_in | apply in_ite
    | exact Foot.sub hft rfl
    | with_reducible exact Or.inl rfl
    | exact Or.inr (Foot.sub hft rfl)
    | with_reducible apply InMk.of
    | simp -zeta only [in_mk_iff]
    | split

def State.askVerify_foot : Foot := Part.int.foot ||| State.dreq_foot
theorem State.askVerify_in {s : State} {la : Nat} (hks : In ft s0 s) (hft : State.askVerify_foot.le ft = true) :
    In ft s0 (State.askVerify s la) := by
  unfold State.askVerify
  repeat' first
    | (extract_lets +onlyGivenNames x
       first
       | (have : In ft s0 x := by
            subst x
            repeat' first
              | with_reducible first | assumption | apply State.dreq_in | apply in_ite
              | exact Foot.sub hft rfl
              | with_reducible exact Or.inl rfl
              | exact Or.inr (Foot.sub hft rfl)
              | with_reducible apply InMk.of
              | simp -zeta only [in_mk_iff]
              | split
          clear_value x)
       | clear_value x
       | subst x)
    | with_reducible first | assumption | apply State.dreq_in | apply in_ite
    | exact Foot.sub hft rfl
    | with_reducible exact Or.inl rfl
    | exact Or.inr (Foot.sub hft rfl)
    | with_reducible apply InMk.of
    | simp -zeta only [in_mk_iff]
    | split

def State.fixCorrected_foot : Foot := State.corrected_foot ||| State.askVerify_foot
theorem State.fixCorrected_in {s : State} {la dev : Nat} (hks : In ft s0 s)
    (hft : State.fixCorrected_foot.le ft = true) :
    In ft s0 (State.fixCorrected s la dev) := by
  unfold State.fixCorrected
  repeat' first
    | (extract_lets +onlyGivenNames x; clear_value x)
    | with_reducible first | assumption | apply State.when_in | apply State.corrected_in | apply State.askVerify_in
    | exact Foot.sub hft rfl
    | intro _ _ _
    | intro _ _

def State.fixLine_foot : Foot := State.setDline_foot ||| State.askVerify_foot
theorem State.fixLine_in {s : State} {la : Nat} {d : DLine} (hks : In ft s0 s)
    (hft : State.fixLine_foot.le ft = true) :
    In ft s0 (State.fixLine s la d) := by
  unfold State.fixLine
  repeat' first
    | with_reducible first | assumption | apply State.setDline_in | apply State.askVerify_in
    | exact Foot.sub hft rfl

def State.addRepair_foot : Foot := Part.int.foot
theorem State.addRepair_in {s : State} {e : Nat} (hks : In ft s0 s) (hft : State.addRepair_foot.le ft = true) :
    In ft s0 (State.addRepair s e) := by
  unfold State.addRepair
  repeat' first
    | (extract_lets +onlyGivenNames x; clear_value x)
    | with_reducible first | assumption | apply in_ite
    | exact Foot.sub hft rfl
    | with_reducible exact Or.inl rfl
    | exact Or.inr (Foot.sub hft rfl)
    | with_reducible apply InMk.of
    | simp -zeta only [in_mk_iff]
    | split

def State.retireFrame_foot : Foot := Fld.RETIRE_PEND.foot ||| Part.int.foot
theorem State.retireFrame_in {s : State} {f : Nat} (hks : In ft s0 s) (hft : State.retireFrame_foot.le ft = true) :
    In ft s0 (State.retireFrame s f) := by
  unfold State.retireFrame
  repeat' first
    | (extract_lets +onlyGivenNames x
       first
       | (have : In ft s0 x := by
            subst x
            repeat' first
              | with_reducible first | assumption | apply State.wr_in | apply in_ite
              | exact Foot.sub hft rfl
              | with_reducible exact Or.inl rfl
              | exact Or.inr (Foot.sub hft rfl)
              | with_reducible apply InMk.of
              | simp -zeta only [in_mk_iff]
              | split
          clear_value x)
       | clear_value x
       | subst x)
    | with_reducible first | assumption | apply State.wr_in | apply in_ite
    | exact Foot.sub hft rfl
    | with_reducible exact Or.inl rfl
    | exact Or.inr (Foot.sub hft rfl)
    | with_reducible apply InMk.of
    | simp -zeta only [in_mk_iff]
    | split

def State.hardFault_foot : Foot :=
  Fld.VALID.foot ||| Fld.LA.foot ||| Fld.INT_REMAP_DEVICE.foot ||| Fld.SPPR_PEND.foot ||| Fld.REMAP_USED.foot |||
    Fld.REMAP_FULL.foot ||| Part.int.foot ||| State.record_foot ||| State.alert_foot ||| State.addRepair_foot |||
    State.retireFrame_foot
theorem State.hardFault_in {s : State} {la dev : Nat} (hks : In ft s0 s) (hft : State.hardFault_foot.le ft = true) :
    In ft s0 (State.hardFault s la dev) := by
  unfold State.hardFault
  repeat' first
    | (extract_lets +onlyGivenNames x
       first
       | (have : In ft s0 x := by
            subst x
            repeat' first
              | (extract_lets +onlyGivenNames x; subst x)
              | with_reducible first
                  | assumption | apply State.wri_in | apply State.setf_in | apply State.setfi_in
                  | apply State.when_in | apply State.record_in | apply State.alert_in | apply State.addRepair_in
                  | apply State.retireFrame_in | apply in_ite
              | exact Foot.sub hft rfl
              | with_reducible exact Or.inl rfl
              | exact Or.inr (Foot.sub hft rfl)
              | with_reducible apply InMk.of
              | simp -zeta only [in_mk_iff]
              | split
              | intro _ _ _
              | intro _ _
          clear_value x)
       | clear_value x
       | subst x)
    | with_reducible first
        | assumption | apply State.wri_in | apply State.setf_in | apply State.setfi_in | apply State.when_in
        | apply State.record_in | apply State.alert_in | apply State.addRepair_in | apply State.retireFrame_in
        | apply in_ite
    | exact Foot.sub hft rfl
    | with_reducible exact Or.inl rfl
    | exact Or.inr (Foot.sub hft rfl)
    | with_reducible apply InMk.of
    | simp -zeta only [in_mk_iff]
    | split
    | intro _ _ _
    | intro _ _

def State.mediaEvent_foot : Foot := Part.prt.foot ||| State.send_foot
theorem State.mediaEvent_in {s : State} {kind la : Nat} (hks : In ft s0 s)
    (hft : State.mediaEvent_foot.le ft = true) :
    In ft s0 (State.mediaEvent s kind la) := by
  unfold State.mediaEvent
  repeat' first
    | (extract_lets +onlyGivenNames x
       first
       | (have : In ft s0 x := by
            subst x
            repeat' first
              | with_reducible first | assumption | apply State.send_in | apply State.each_in
              | exact Foot.sub hft rfl
              | with_reducible exact Or.inl rfl
              | exact Or.inr (Foot.sub hft rfl)
              | with_reducible apply InMk.of
              | simp -zeta only [in_mk_iff]
              | intro _ _ _
              | intro _ _
          clear_value x)
       | clear_value x
       | subst x)
    | with_reducible first | assumption | apply State.send_in | apply State.each_in
    | exact Foot.sub hft rfl
    | with_reducible exact Or.inl rfl
    | exact Or.inr (Foot.sub hft rfl)
    | with_reducible apply InMk.of
    | simp -zeta only [in_mk_iff]
    | intro _ _ _
    | intro _ _

def State.firstRungs_foot : Foot :=
  Fld.INT_CH_ERR_UE_CNT.foot ||| Fld.INT_CH_FLAGS_CNT_OVF.foot ||| State.count_foot ||| State.decode_foot |||
    State.askVerify_foot ||| State.fixCorrected_foot
theorem State.firstRungs_in {s : State} {la : Nat} {e1 e2 : List Nat} (hks : In ft s0 s)
    (hft : State.firstRungs_foot.le ft = true) :
    InP ft s0 (State.firstRungs s la e1 e2) := by
  unfold State.firstRungs
  repeat' first
    | (extract_lets +onlyGivenNames x
       first
       | (have hgo : ∀ s, In ft s0 s → In ft s0 (x s) := by
            intro s hs
            subst x
            repeat' first
              | (extract_lets +onlyGivenNames x; subst x)
              | with_reducible first
                  | assumption | apply State.count_in | apply State.decode_in | apply State.askVerify_in
                  | apply State.fixCorrected_in
              | exact Foot.sub hft rfl
              | with_reducible refine InP.eq (by assumption) ?_
              | (with_reducible refine InP.fst ?_; with_reducible first | assumption | apply State.decode_in)
              | split
              | with_reducible apply InP.pair
              | dsimp -zeta only
          clear_value x)
       | (have : In ft s0 x := by
            subst x
            repeat' first
              | (extract_lets +onlyGivenNames x; subst x)
              | with_reducible first
                  | assumption | apply hgo | apply State.count_in | apply State.decode_in | apply State.askVerify_in
                  | apply State.fixCorrected_in
              | exact Foot.sub hft rfl
              | with_reducible refine InP.eq (by assumption) ?_
              | (with_reducible refine InP.fst ?_; with_reducible first | assumption | apply State.decode_in)
              | split
              | with_reducible apply InP.pair
              | dsimp -zeta only
          clear_value x)
       | (have : InP ft s0 x := by
            subst x
            repeat' first
              | (extract_lets +onlyGivenNames x; subst x)
              | with_reducible first
                  | assumption | apply hgo | apply State.count_in | apply State.decode_in | apply State.askVerify_in
                  | apply State.fixCorrected_in
              | exact Foot.sub hft rfl
              | with_reducible refine InP.eq (by assumption) ?_
              | (with_reducible refine InP.fst ?_; with_reducible first | assumption | apply State.decode_in)
              | split
              | with_reducible apply InP.pair
              | dsimp -zeta only
          clear_value x)
       | clear_value x
       | subst x)
    | with_reducible first
        | assumption | apply hgo | apply State.count_in | apply State.decode_in | apply State.askVerify_in
        | apply State.fixCorrected_in
    | exact Foot.sub hft rfl
    | with_reducible refine InP.eq (by assumption) ?_
    | (with_reducible refine InP.fst ?_; with_reducible first | assumption | apply State.decode_in)
    | split
    | with_reducible apply InP.pair
    | dsimp -zeta only

def State.pageRung_foot : Foot :=
  Fld.REBUILD_CNT.foot ||| Fld.INT_CH_FLAGS_CNT_OVF.foot ||| Part.int.foot ||| State.freeNext_foot |||
    State.count_foot ||| State.setDline_foot ||| State.askVerify_foot
theorem State.pageRung_in {s : State} {la : Nat} {c : LCtx} {others : List Nat} {pq : Bool} (hks : In ft s0 s)
    (hft : State.pageRung_foot.le ft = true) :
    InP ft s0 (State.pageRung s la c others pq) := by
  unfold State.pageRung
  repeat' first
    | (extract_lets +onlyGivenNames x
       first
       | (have hgo : ∀ s y, In ft s0 s → In ft s0 (x s y) := by
            intro s y hs
            subst x
            repeat' first
              | (extract_lets +onlyGivenNames x; subst x)
              | with_reducible first
                  | assumption | apply State.freeNext_in | apply State.each_in | apply State.count_in
                  | apply State.setDline_in | apply State.askVerify_in | apply inP_ite | apply in_ite
              | exact Foot.sub hft rfl
              | with_reducible exact Or.inl rfl
              | exact Or.inr (Foot.sub hft rfl)
              | with_reducible apply InMk.of
              | simp -zeta only [in_mk_iff]
              | split
              | intro _ _ _
              | intro _ _
              | with_reducible apply InP.pair
              | dsimp -zeta only
          clear_value x)
       | (have : In ft s0 x := by
            subst x
            repeat' first
              | (extract_lets +onlyGivenNames x; subst x)
              | with_reducible first
                  | assumption | apply hgo | apply State.freeNext_in | apply State.each_in | apply State.count_in
                  | apply State.setDline_in | apply State.askVerify_in | apply inP_ite | apply in_ite
              | exact Foot.sub hft rfl
              | with_reducible exact Or.inl rfl
              | exact Or.inr (Foot.sub hft rfl)
              | with_reducible apply InMk.of
              | simp -zeta only [in_mk_iff]
              | split
              | intro _ _ _
              | intro _ _
              | with_reducible apply InP.pair
              | dsimp -zeta only
          clear_value x)
       | clear_value x
       | subst x)
    | with_reducible first
        | assumption | apply hgo | apply State.freeNext_in | apply State.each_in | apply State.count_in
        | apply State.setDline_in | apply State.askVerify_in | apply inP_ite | apply in_ite
    | exact Foot.sub hft rfl
    | with_reducible exact Or.inl rfl
    | exact Or.inr (Foot.sub hft rfl)
    | with_reducible apply InMk.of
    | simp -zeta only [in_mk_iff]
    | split
    | intro _ _ _
    | intro _ _
    | with_reducible apply InP.pair
    | dsimp -zeta only

def State.homeFix_foot : Foot :=
  Fld.HOME_CNT.foot ||| Fld.INT_CH_FLAGS_CNT_OVF.foot ||| State.count_foot ||| State.fixLine_foot
theorem State.homeFix_in {s : State} {c : LCtx} {la : Nat} (hks : In ft s0 s)
    (hft : State.homeFix_foot.le ft = true) :
    In ft s0 (State.homeFix s c la) := by
  unfold State.homeFix
  repeat' first
    | with_reducible first | assumption | apply State.count_in | apply State.fixLine_in
    | exact Foot.sub hft rfl

def State.twinFix_foot : Foot :=
  Fld.TWIN_CNT.foot ||| Fld.INT_CH_FLAGS_CNT_OVF.foot ||| State.count_foot ||| State.fixLine_foot
theorem State.twinFix_in {s : State} {la : Nat} {d : DLine} (hks : In ft s0 s)
    (hft : State.twinFix_foot.le ft = true) :
    In ft s0 (State.twinFix s la d) := by
  unfold State.twinFix
  repeat' first
    | with_reducible first | assumption | apply State.count_in | apply State.fixLine_in
    | exact Foot.sub hft rfl

def State.ladderFail_foot : Foot :=
  Fld.POISON_CNT.foot ||| Fld.INT_CH_FLAGS_CNT_OVF.foot ||| State.record_foot ||| State.count_foot |||
    State.writeDram_foot ||| State.mediaEvent_foot
theorem State.ladderFail_in {s : State} {la rung dom : Nat} (hks : In ft s0 s)
    (hft : State.ladderFail_foot.le ft = true) :
    In ft s0 (State.ladderFail s la rung dom) := by
  unfold State.ladderFail
  repeat' first
    | (extract_lets +onlyGivenNames x
       first
       | (have : In ft s0 x := by
            subst x
            repeat' first
              | (extract_lets +onlyGivenNames x; subst x)
              | with_reducible first
                  | assumption | apply State.record_in | apply State.count_in | apply State.writeDram_in
                  | apply State.mediaEvent_in
              | exact Foot.sub hft rfl
          clear_value x)
       | clear_value x
       | subst x)
    | with_reducible first
        | assumption | apply State.record_in | apply State.count_in | apply State.writeDram_in
        | apply State.mediaEvent_in
    | exact Foot.sub hft rfl

def State.ladderRun_foot : Foot :=
  State.firstRungs_foot ||| State.pageRung_foot ||| State.homeFix_foot ||| State.twinFix_foot |||
    State.ladderFail_foot
theorem State.ladderRun_in {s : State} {la dom : Nat} {e1 e2 : List Nat} {fail : Bool} (hks : In ft s0 s)
    (hft : State.ladderRun_foot.le ft = true) :
    InP ft s0 (State.ladderRun s la dom e1 e2 fail) := by
  unfold State.ladderRun
  repeat' first
    | (extract_lets +onlyGivenNames x
       first
       | (have : In ft s0 x := by
            subst x
            repeat' first
              | (extract_lets +onlyGivenNames x; subst x)
              | with_reducible first
                  | assumption | apply State.firstRungs_in | apply State.pageRung_in | apply State.homeFix_in
                  | apply State.twinFix_in | apply State.ladderFail_in | apply inP_ite | apply in_ite
              | exact Foot.sub hft rfl
              | with_reducible refine InP.eq (by assumption) ?_
              | (with_reducible refine InP.fst ?_
                 with_reducible first
                   | assumption | apply State.firstRungs_in | apply State.pageRung_in)
              | split
              | with_reducible apply InP.pair
              | dsimp -zeta only
          clear_value x)
       | (have : InP ft s0 x := by
            subst x
            repeat' first
              | (extract_lets +onlyGivenNames x; subst x)
              | with_reducible first
                  | assumption | apply State.firstRungs_in | apply State.pageRung_in | apply State.homeFix_in
                  | apply State.twinFix_in | apply State.ladderFail_in | apply inP_ite | apply in_ite
              | exact Foot.sub hft rfl
              | with_reducible refine InP.eq (by assumption) ?_
              | (with_reducible refine InP.fst ?_
                 with_reducible first
                   | assumption | apply State.firstRungs_in | apply State.pageRung_in)
              | split
              | with_reducible apply InP.pair
              | dsimp -zeta only
          clear_value x)
       | clear_value x
       | subst x)
    | with_reducible first
        | assumption | apply State.firstRungs_in | apply State.pageRung_in | apply State.homeFix_in
        | apply State.twinFix_in | apply State.ladderFail_in | apply inP_ite | apply in_ite
    | exact Foot.sub hft rfl
    | with_reducible refine InP.eq (by assumption) ?_
    | (with_reducible refine InP.fst ?_
       with_reducible first
         | assumption | apply State.firstRungs_in | apply State.pageRung_in)
    | split
    | with_reducible apply InP.pair
    | dsimp -zeta only

def State.ladderNow_foot : Foot := State.ladderRun_foot
theorem State.ladderNow_in {s : State} {la dom : Nat} {fail : Bool} (hks : In ft s0 s)
    (hft : State.ladderNow_foot.le ft = true) :
    InP ft s0 (State.ladderNow s la dom fail) := by
  unfold State.ladderNow
  repeat' first
    | (extract_lets +onlyGivenNames x; clear_value x)
    | with_reducible first | assumption | apply State.ladderRun_in | apply inP_ite | apply in_ite
    | exact Foot.sub hft rfl
    | with_reducible refine InP.eq (by assumption) ?_
    | (with_reducible refine InP.fst ?_; with_reducible first | assumption | apply State.ladderRun_in)
    | split
    | with_reducible apply InP.pair
    | dsimp -zeta only

def State.probeLines_foot : Foot := State.flushEvict_foot ||| State.ladderNow_foot
theorem State.probeLines_in {s : State} {o : Obj} {dom : Nat} {lns bad : List Nat} (hks : In ft s0 s)
    (hft : State.probeLines_foot.le ft = true) :
    InP ft s0 (State.probeLines s o dom lns bad) := by
  unfold State.probeLines
  repeat' first
    | (extract_lets +onlyGivenNames x
       first
       | (have : In ft s0 x := by
            subst x
            repeat' first
              | (extract_lets +onlyGivenNames x; subst x)
              | with_reducible first
                  | assumption | apply State.flushEvict_in | apply State.ladderNow_in | apply foldl_in
                  | apply inP_ite | apply in_ite | apply foldl_inP
              | exact Foot.sub hft rfl
              | with_reducible refine InP.eq (by assumption) ?_
              | (with_reducible refine InP.fst ?_
                 with_reducible first
                   | assumption | apply State.ladderNow_in | apply foldl_inP)
              | split
              | intro _ _ _
              | intro _ _
              | with_reducible apply InP.pair
              | dsimp -zeta only
          clear_value x)
       | (have : InP ft s0 x := by
            subst x
            repeat' first
              | (extract_lets +onlyGivenNames x; subst x)
              | with_reducible first
                  | assumption | apply State.flushEvict_in | apply State.ladderNow_in | apply foldl_in
                  | apply inP_ite | apply in_ite | apply foldl_inP
              | exact Foot.sub hft rfl
              | with_reducible refine InP.eq (by assumption) ?_
              | (with_reducible refine InP.fst ?_
                 with_reducible first
                   | assumption | apply State.ladderNow_in | apply foldl_inP)
              | split
              | intro _ _ _
              | intro _ _
              | with_reducible apply InP.pair
              | dsimp -zeta only
          clear_value x)
       | clear_value x
       | subst x)
    | with_reducible first
        | assumption | apply State.flushEvict_in | apply State.ladderNow_in | apply foldl_in | apply inP_ite
        | apply in_ite | apply foldl_inP
    | exact Foot.sub hft rfl
    | with_reducible refine InP.eq (by assumption) ?_
    | (with_reducible refine InP.fst ?_
       with_reducible first
         | assumption | apply State.ladderNow_in | apply foldl_inP)
    | split
    | intro _ _ _
    | intro _ _
    | with_reducible apply InP.pair
    | dsimp -zeta only

def State.probeCp_foot : Foot := State.ladderNow_foot
theorem State.probeCp_in {s : State} {f k dom : Nat} {bad : List Nat} (hks : In ft s0 s)
    (hft : State.probeCp_foot.le ft = true) :
    In ft s0 (State.probeCp s f k dom bad) := by
  unfold State.probeCp
  repeat' first
    | (extract_lets +onlyGivenNames x; clear_value x)
    | with_reducible first
        | assumption | apply State.each_in | apply State.ladderNow_in | apply in_ite | apply inP_ite
    | exact Foot.sub hft rfl
    | with_reducible refine InP.eq (by assumption) ?_
    | (with_reducible refine InP.fst ?_; with_reducible first | assumption | apply State.ladderNow_in)
    | split
    | intro _ _ _
    | intro _ _
    | with_reducible apply InP.pair
    | dsimp -zeta only

end Sys2Proof.Machine
end

