-- ==== Sys2Proof/Laws/FrameOperands.lean ====
section
/-! SUPPORT. The footprints of the operations of Machine/Operands (Laws/Frame). -/

namespace Sys2Proof.Machine

variable {ft : Foot} {s0 : State}

def State.cmdRegs_foot : Foot :=
  Fld.EXEC_USED.foot ||| Fld.WAIT_USED.foot ||| Fld.LOCK_USED.foot ||| Fld.LOCK_PEAK.foot
theorem State.cmdRegs_in {s : State} (hks : In ft s0 s) (hft : State.cmdRegs_foot.le ft = true) :
    In ft s0 (State.cmdRegs s) := by
  unfold State.cmdRegs
  repeat' first
    | (extract_lets +onlyGivenNames x
       first
       | (have : In ft s0 x := by
            subst x
            repeat' first
              | (extract_lets +onlyGivenNames x; subst x)
              | with_reducible first | assumption | apply State.wr_in
              | exact Foot.sub hft rfl
          clear_value x)
       | clear_value x
       | subst x)
    | with_reducible first | assumption | apply State.wr_in
    | exact Foot.sub hft rfl

def State.inflightReg_foot : Foot := Fld.INFLIGHT.foot
theorem State.inflightReg_in {s : State} {q : Nat} (hks : In ft s0 s) (hft : State.inflightReg_foot.le ft = true) :
    In ft s0 (State.inflightReg s q) := by
  unfold State.inflightReg
  repeat' first
    | with_reducible first | assumption | apply State.wri_in
    | exact Foot.sub hft rfl

def State.enterLocks_foot : Foot := Part.cmd.foot ||| State.updCmd_foot
theorem State.enterLocks_in {s : State} (hks : In ft s0 s) (hft : State.enterLocks_foot.le ft = true) :
    In ft s0 (State.enterLocks s) := by
  unfold State.enterLocks
  repeat' first
    | (extract_lets +onlyGivenNames x; clear_value x)
    | with_reducible first | assumption | apply State.each_in | apply State.updCmd_in | apply in_ite
    | exact Foot.sub hft rfl
    | with_reducible exact Or.inl rfl
    | exact Or.inr (Foot.sub hft rfl)
    | with_reducible apply InMk.of
    | simp -zeta only [in_mk_iff]
    | split
    | intro _ _ _
    | intro _ _

end Sys2Proof.Machine
end

