-- ==== Sys2Proof/Laws/FramePorts.lean ====
section
/-! SUPPORT. The footprints of the operations of Machine/Ports (Laws/Frame). -/

namespace Sys2Proof.Machine

variable {ft : Foot} {s0 : State}

def State.portWrite_foot : Foot := Part.prt.foot ||| State.creditStop_foot ||| State.serveHost_foot
theorem State.portWrite_in {s : State} {r : HostReq} (hks : In ft s0 s) (hft : State.portWrite_foot.le ft = true) :
    In ft s0 (State.portWrite s r) := by
  unfold State.portWrite
  repeat' first
    | (extract_lets +onlyGivenNames x
       first
       | (have : In ft s0 x := by
            subst x
            repeat' first
              | with_reducible first
                  | assumption | apply State.creditStop_in | apply State.serveHost_in | apply in_ite
              | exact Foot.sub hft rfl
              | with_reducible exact Or.inl rfl
              | exact Or.inr (Foot.sub hft rfl)
              | with_reducible apply InMk.of
              | simp -zeta only [in_mk_iff]
              | split
          clear_value x)
       | clear_value x
       | subst x)
    | with_reducible first | assumption | apply State.creditStop_in | apply State.serveHost_in | apply in_ite
    | exact Foot.sub hft rfl
    | with_reducible exact Or.inl rfl
    | exact Or.inr (Foot.sub hft rfl)
    | with_reducible apply InMk.of
    | simp -zeta only [in_mk_iff]
    | split

def execCxlMemWrite_foot : Foot := State.portWrite_foot
theorem execCxlMemWrite_in {link ld dpa mty tag : Nat} {data : Line} {mask : Mask} {poison : Bool} {s : State}
    (hks : In ft s0 s) (hft : execCxlMemWrite_foot.le ft = true) :
    InOut ft s0 (execCxlMemWrite link ld dpa mty tag data mask poison s) := by
  unfold execCxlMemWrite
  repeat' first
    | with_reducible first | assumption | apply State.portWrite_in | apply InOut.next
    | exact Foot.sub hft rfl

def execSettlePageStore_foot : Foot := State.portWrite_foot
theorem execSettlePageStore_in {link ld tag : Nat} {s : State} (hks : In ft s0 s)
    (hft : execSettlePageStore_foot.le ft = true) :
    InOut ft s0 (execSettlePageStore link ld tag s) := by
  unfold execSettlePageStore
  repeat' first
    | with_reducible first | assumption | apply State.portWrite_in | apply InOut.next
    | exact Foot.sub hft rfl

def execSettlePageTimeout_foot : Foot := Part.fences.foot ||| State.complete_foot
theorem execSettlePageTimeout_in {link ld tag : Nat} {s : State} (hks : In ft s0 s)
    (hft : execSettlePageTimeout_foot.le ft = true) :
    InOut ft s0 (execSettlePageTimeout link ld tag s) := by
  unfold execSettlePageTimeout
  repeat' first
    | (extract_lets +onlyGivenNames x
       first
       | (have : In ft s0 x := by
            subst x
            repeat' first
              | with_reducible first
                  | assumption | apply State.complete_in | apply inOut_ite | apply in_ite | apply InOut.next
              | exact Foot.sub hft rfl
              | with_reducible exact Or.inl rfl
              | exact Or.inr (Foot.sub hft rfl)
              | with_reducible apply InMk.of
              | simp -zeta only [in_mk_iff]
              | split
          clear_value x)
       | clear_value x
       | subst x)
    | with_reducible first | assumption | apply State.complete_in | apply inOut_ite | apply in_ite | apply InOut.next
    | exact Foot.sub hft rfl
    | with_reducible exact Or.inl rfl
    | exact Or.inr (Foot.sub hft rfl)
    | with_reducible apply InMk.of
    | simp -zeta only [in_mk_iff]
    | split

def execSnoopWriteBack_foot : Foot :=
  Part.prt.foot ||| State.record_foot ||| State.doneWrite_foot ||| State.wakePages_foot ||| State.portWrite_foot
theorem execSnoopWriteBack_in {link ld dpa mty tag : Nat} {data : Line} {mask : Mask} {poison : Bool} {s : State}
    (hks : In ft s0 s) (hft : execSnoopWriteBack_foot.le ft = true) :
    InOut ft s0 (execSnoopWriteBack link ld dpa mty tag data mask poison s) := by
  unfold execSnoopWriteBack
  repeat' first
    | (extract_lets +onlyGivenNames x
       first
       | (have : In ft s0 x := by
            subst x
            repeat' first
              | (extract_lets +onlyGivenNames x; subst x)
              | with_reducible first
                  | assumption | apply State.record_in | apply State.doneWrite_in | apply State.wakePages_in
                  | apply State.portWrite_in | apply InOut.next
              | exact Foot.sub hft rfl
              | with_reducible exact Or.inl rfl
              | exact Or.inr (Foot.sub hft rfl)
              | with_reducible apply InMk.of
              | simp -zeta only [in_mk_iff]
              | split
          clear_value x)
       | clear_value x
       | subst x)
    | with_reducible first
        | assumption | apply State.record_in | apply State.doneWrite_in | apply State.wakePages_in
        | apply State.portWrite_in | apply InOut.next
    | exact Foot.sub hft rfl
    | with_reducible exact Or.inl rfl
    | exact Or.inr (Foot.sub hft rfl)
    | with_reducible apply InMk.of
    | simp -zeta only [in_mk_iff]
    | split

def State.snoopEnd_foot : Foot := Part.fch.foot ||| State.send_foot ||| State.sfDrop_foot
theorem State.snoopEnd_in {s : State} {x : Snoop} (hks : In ft s0 s) (hft : State.snoopEnd_foot.le ft = true) :
    In ft s0 (State.snoopEnd s x) := by
  unfold State.snoopEnd
  repeat' first
    | (extract_lets +onlyGivenNames x
       first
       | (have : In ft s0 x := by
            subst x
            repeat' first
              | (extract_lets +onlyGivenNames x; subst x)
              | with_reducible first
                  | assumption | apply State.send_in | apply State.each_in | apply State.sfDrop_in | apply in_ite
              | exact Foot.sub hft rfl
              | with_reducible exact Or.inl rfl
              | exact Or.inr (Foot.sub hft rfl)
              | with_reducible apply InMk.of
              | simp -zeta only [in_mk_iff]
              | split
              | intro _ _ _
              | intro _ _
          clear_value x)
       | clear_value x
       | subst x)
    | with_reducible first
        | assumption | apply State.send_in | apply State.each_in | apply State.sfDrop_in | apply in_ite
    | exact Foot.sub hft rfl
    | with_reducible exact Or.inl rfl
    | exact Or.inr (Foot.sub hft rfl)
    | with_reducible apply InMk.of
    | simp -zeta only [in_mk_iff]
    | split
    | intro _ _ _
    | intro _ _

def State.settleCheck_foot : Foot := Fld.SETTLE_EN.foot
theorem State.settleCheck_in {s : State} {i : Nat} (hks : In ft s0 s) (hft : State.settleCheck_foot.le ft = true) :
    In ft s0 (State.settleCheck s i) := by
  unfold State.settleCheck
  repeat' first
    | with_reducible first | assumption | apply State.setfi_in | apply in_ite
    | exact Foot.sub hft rfl
    | split

def State.dcRegs_foot : Foot := Fld.DC_EXTENTS.foot
theorem State.dcRegs_in {s : State} {link ld : Nat} (hks : In ft s0 s) (hft : State.dcRegs_foot.le ft = true) :
    In ft s0 (State.dcRegs s link ld) := by
  unfold State.dcRegs
  repeat' first
    | with_reducible first | assumption | apply State.wri_in
    | exact Foot.sub hft rfl

def State.invalFrames_foot : Foot := State.snoopFrame_foot
theorem State.invalFrames_in {s : State} {fs : List Nat} (hks : In ft s0 s)
    (hft : State.invalFrames_foot.le ft = true) :
    In ft s0 (State.invalFrames s fs) := by
  unfold State.invalFrames
  repeat' first
    | with_reducible first | assumption | apply State.each_in | apply State.snoopFrame_in
    | exact Foot.sub hft rfl
    | intro _ _ _
    | intro _ _

def State.dcAdd_foot : Foot := State.send_foot ||| State.journal_foot ||| State.dcRegs_foot
theorem State.dcAdd_in {s : State} {x : Extent} (hks : In ft s0 s) (hft : State.dcAdd_foot.le ft = true) :
    In ft s0 (State.dcAdd s x) := by
  unfold State.dcAdd
  repeat' first
    | with_reducible first | assumption | apply State.send_in | apply State.journal_in | apply State.dcRegs_in
    | exact Foot.sub hft rfl

def State.dcRelease_foot : Foot :=
  State.send_foot ||| State.journal_foot ||| State.cleanFrame_foot ||| State.mirMeta_foot ||| State.dcRegs_foot
theorem State.dcRelease_in {s : State} {x : Extent} (hks : In ft s0 s) (hft : State.dcRelease_foot.le ft = true) :
    In ft s0 (State.dcRelease s x) := by
  unfold State.dcRelease
  repeat' first
    | (extract_lets +onlyGivenNames x
       first
       | (have : In ft s0 x := by
            subst x
            repeat' first
              | (extract_lets +onlyGivenNames x; subst x)
              | with_reducible first
                  | assumption | apply State.send_in | apply State.each_in | apply State.journal_in
                  | apply State.cleanFrame_in | apply State.mirMeta_in | apply State.dcRegs_in | apply in_ite
              | exact Foot.sub hft rfl
              | split
              | intro _ _ _
              | intro _ _
          clear_value x)
       | clear_value x
       | subst x)
    | with_reducible first
        | assumption | apply State.send_in | apply State.each_in | apply State.journal_in | apply State.cleanFrame_in
        | apply State.mirMeta_in | apply State.dcRegs_in | apply in_ite
    | exact Foot.sub hft rfl
    | split
    | intro _ _ _
    | intro _ _

def State.dcRun_foot : Foot := Part.prt.foot ||| State.dcAdd_foot ||| State.dcRelease_foot
theorem State.dcRun_in {s : State} (hks : In ft s0 s) (hft : State.dcRun_foot.le ft = true) :
    In ft s0 (State.dcRun s) := by
  unfold State.dcRun
  repeat' first
    | (extract_lets +onlyGivenNames x
       first
       | (have : In ft s0 x := by
            subst x
            repeat' first
              | with_reducible first
                  | assumption | apply State.each_in | apply State.dcAdd_in | apply State.dcRelease_in | apply in_ite
              | exact Foot.sub hft rfl
              | with_reducible exact Or.inl rfl
              | exact Or.inr (Foot.sub hft rfl)
              | with_reducible apply InMk.of
              | simp -zeta only [in_mk_iff]
              | split
              | intro _ _ _
              | intro _ _
          clear_value x)
       | clear_value x
       | subst x)
    | with_reducible first
        | assumption | apply State.each_in | apply State.dcAdd_in | apply State.dcRelease_in | apply in_ite
    | exact Foot.sub hft rfl
    | with_reducible exact Or.inl rfl
    | exact Or.inr (Foot.sub hft rfl)
    | with_reducible apply InMk.of
    | simp -zeta only [in_mk_iff]
    | split
    | intro _ _ _
    | intro _ _

def State.snoopOver_foot : Foot := State.rerun_foot ||| State.snoopEnd_foot ||| State.dcRun_foot
theorem State.snoopOver_in {s : State} {x : Snoop} (hks : In ft s0 s) (hft : State.snoopOver_foot.le ft = true) :
    In ft s0 (State.snoopOver s x) := by
  unfold State.snoopOver
  repeat' first
    | with_reducible first | assumption | apply State.rerun_in | apply State.snoopEnd_in | apply State.dcRun_in
    | exact Foot.sub hft rfl
    | intro _ _ _
    | intro _ _

def State.snoopsAnswered_foot : Foot := State.snoopOver_foot
theorem State.snoopsAnswered_in {s : State} (hks : In ft s0 s) (hft : State.snoopsAnswered_foot.le ft = true) :
    In ft s0 (State.snoopsAnswered s) := by
  unfold State.snoopsAnswered
  repeat' first
    | with_reducible first | assumption | apply State.each_in | apply State.snoopOver_in | apply in_ite
    | exact Foot.sub hft rfl
    | split
    | intro _ _ _
    | intro _ _

def execBirsp_foot : Foot := Part.fch.foot ||| State.snoopOver_foot
theorem execBirsp_in {link la : Nat} {s : State} (hks : In ft s0 s) (hft : execBirsp_foot.le ft = true) :
    InOut ft s0 (execBirsp link la s) := by
  unfold execBirsp
  repeat' first
    | (extract_lets +onlyGivenNames x; clear_value x)
    | with_reducible first | assumption | apply State.snoopOver_in | apply inOut_ite | apply in_ite | apply InOut.next
    | exact Foot.sub hft rfl
    | with_reducible exact Or.inl rfl
    | exact Or.inr (Foot.sub hft rfl)
    | with_reducible apply InMk.of
    | simp -zeta only [in_mk_iff]
    | split

def execBiTimeout_foot : Foot :=
  Fld.BI_TIMEOUT_CNT.foot ||| Fld.PRT_LINK_FLAGS_CNT_OVF.foot ||| Part.prt.foot ||| State.record_foot |||
    State.count_foot ||| State.alert_foot ||| State.snoopOver_foot
theorem execBiTimeout_in {link la : Nat} {s : State} (hks : In ft s0 s) (hft : execBiTimeout_foot.le ft = true) :
    InOut ft s0 (execBiTimeout link la s) := by
  unfold execBiTimeout
  repeat' first
    | (extract_lets +onlyGivenNames x
       first
       | (have : In ft s0 x := by
            subst x
            repeat' first
              | (extract_lets +onlyGivenNames x; subst x)
              | with_reducible first
                  | assumption | apply State.record_in | apply State.count_in | apply State.alert_in
                  | apply State.snoopOver_in | apply InOut.next
              | exact Foot.sub hft rfl
              | with_reducible exact Or.inl rfl
              | exact Or.inr (Foot.sub hft rfl)
              | with_reducible apply InMk.of
              | simp -zeta only [in_mk_iff]
              | split
          clear_value x)
       | clear_value x
       | subst x)
    | with_reducible first
        | assumption | apply State.record_in | apply State.count_in | apply State.alert_in | apply State.snoopOver_in
        | apply InOut.next
    | exact Foot.sub hft rfl
    | with_reducible exact Or.inl rfl
    | exact Or.inr (Foot.sub hft rfl)
    | with_reducible apply InMk.of
    | simp -zeta only [in_mk_iff]
    | split

def execGpfPhase2_foot : Foot := Part.prt.foot ||| State.gpfCheck_foot ||| State.acceptFence_foot
theorem execGpfPhase2_in {port : Nat} {s : State} (hks : In ft s0 s) (hft : execGpfPhase2_foot.le ft = true) :
    InOut ft s0 (execGpfPhase2 port s) := by
  unfold execGpfPhase2
  repeat' first
    | (extract_lets +onlyGivenNames x
       first
       | (have : In ft s0 x := by
            subst x
            repeat' first
              | (extract_lets +onlyGivenNames x; subst x)
              | with_reducible first
                  | assumption | apply State.each_in | apply State.gpfCheck_in | apply State.acceptFence_in
                  | apply inOut_ite | apply in_ite | apply InOut.next
              | exact Foot.sub hft rfl
              | with_reducible exact Or.inl rfl
              | exact Or.inr (Foot.sub hft rfl)
              | with_reducible apply InMk.of
              | simp -zeta only [in_mk_iff]
              | split
              | intro _ _ _
              | intro _ _
          clear_value x)
       | clear_value x
       | subst x)
    | with_reducible first
        | assumption | apply State.each_in | apply State.gpfCheck_in | apply State.acceptFence_in | apply inOut_ite
        | apply in_ite | apply InOut.next
    | exact Foot.sub hft rfl
    | with_reducible exact Or.inl rfl
    | exact Or.inr (Foot.sub hft rfl)
    | with_reducible apply InMk.of
    | simp -zeta only [in_mk_iff]
    | split
    | intro _ _ _
    | intro _ _

def execGpfPhase2Timeout_foot : Foot :=
  Part.fences.foot ||| State.record_foot ||| State.stallEnd_foot ||| State.gpfCheck_foot
theorem execGpfPhase2Timeout_in {port : Nat} {s : State} (hks : In ft s0 s)
    (hft : execGpfPhase2Timeout_foot.le ft = true) :
    InOut ft s0 (execGpfPhase2Timeout port s) := by
  unfold execGpfPhase2Timeout
  repeat' first
    | (extract_lets +onlyGivenNames x
       first
       | (have : In ft s0 x := by
            subst x
            repeat' first
              | (extract_lets +onlyGivenNames x; subst x)
              | with_reducible first
                  | assumption | apply State.each_in | apply State.record_in | apply State.stallEnd_in
                  | apply State.gpfCheck_in | apply inOut_ite | apply in_ite | apply InOut.next
              | exact Foot.sub hft rfl
              | with_reducible exact Or.inl rfl
              | exact Or.inr (Foot.sub hft rfl)
              | with_reducible apply InMk.of
              | simp -zeta only [in_mk_iff]
              | split
              | intro _ _ _
              | intro _ _
          clear_value x)
       | clear_value x
       | subst x)
    | with_reducible first
        | assumption | apply State.each_in | apply State.record_in | apply State.stallEnd_in
        | apply State.gpfCheck_in | apply inOut_ite | apply in_ite | apply InOut.next
    | exact Foot.sub hft rfl
    | with_reducible exact Or.inl rfl
    | exact Or.inr (Foot.sub hft rfl)
    | with_reducible apply InMk.of
    | simp -zeta only [in_mk_iff]
    | split
    | intro _ _ _
    | intro _ _

def execHdmDecoderCommit_foot : Foot := Part.prt.foot
theorem execHdmDecoderCommit_in {link ld n base size ways gran : Nat} {s : State} (hks : In ft s0 s)
    (hft : execHdmDecoderCommit_foot.le ft = true) :
    InOut ft s0 (execHdmDecoderCommit link ld n base size ways gran s) := by
  unfold execHdmDecoderCommit
  repeat' first
    | (extract_lets +onlyGivenNames x; clear_value x)
    | with_reducible first | assumption | apply inOut_ite | apply in_ite | apply InOut.next
    | exact Foot.sub hft rfl
    | with_reducible exact Or.inl rfl
    | exact Or.inr (Foot.sub hft rfl)
    | with_reducible apply InMk.of
    | simp -zeta only [in_mk_iff]
    | split

def execIdeKmKeyProg_foot : Foot := Fld.IDE_MEM.foot ||| Fld.IDE_IO.foot ||| Part.prt.foot
theorem execIdeKmKeyProg_in {link key : Nat} {isMem : Bool} {s : State} (hks : In ft s0 s)
    (hft : execIdeKmKeyProg_foot.le ft = true) :
    InOut ft s0 (execIdeKmKeyProg link key isMem s) := by
  unfold execIdeKmKeyProg
  repeat' first
    | (extract_lets +onlyGivenNames x
       first
       | (have : In ft s0 x := by
            subst x
            repeat' first
              | (extract_lets +onlyGivenNames x; subst x)
              | with_reducible first
                  | assumption | apply State.setfi_in | apply inOut_ite | apply in_ite | apply InOut.next
              | exact Foot.sub hft rfl
              | with_reducible exact Or.inl rfl
              | exact Or.inr (Foot.sub hft rfl)
              | with_reducible apply InMk.of
              | simp -zeta only [in_mk_iff]
              | split
          clear_value x)
       | clear_value x
       | subst x)
    | with_reducible first | assumption | apply State.setfi_in | apply inOut_ite | apply in_ite | apply InOut.next
    | exact Foot.sub hft rfl
    | with_reducible exact Or.inl rfl
    | exact Or.inr (Foot.sub hft rfl)
    | with_reducible apply InMk.of
    | simp -zeta only [in_mk_iff]
    | split

def State.dropHost_foot : Foot := Part.fch.foot ||| Part.prt.foot ||| Part.waits.foot ||| State.stallEnds_foot
theorem State.dropHost_in {s : State} {p : HostReq → Bool} (hks : In ft s0 s)
    (hft : State.dropHost_foot.le ft = true) :
    In ft s0 (State.dropHost s p) := by
  unfold State.dropHost
  repeat' first
    | (extract_lets +onlyGivenNames x
       first
       | (have : In ft s0 x := by
            subst x
            repeat' first
              | (extract_lets +onlyGivenNames x; subst x)
              | with_reducible first | assumption | apply State.stallEnds_in
              | exact Foot.sub hft rfl
              | with_reducible exact Or.inl rfl
              | exact Or.inr (Foot.sub hft rfl)
              | with_reducible apply InMk.of
              | simp -zeta only [in_mk_iff]
              | split
          clear_value x)
       | clear_value x
       | subst x)
    | with_reducible first | assumption | apply State.stallEnds_in
    | exact Foot.sub hft rfl
    | with_reducible exact Or.inl rfl
    | exact Or.inr (Foot.sub hft rfl)
    | with_reducible apply InMk.of
    | simp -zeta only [in_mk_iff]
    | split

def execIdeMacFail_foot : Foot :=
  Fld.IDE_MEM.foot ||| Fld.IDE_IO.foot ||| Fld.GCM_FAIL_CNT.foot ||| Fld.CIP_FLAGS_CNT_OVF.foot |||
    Fld.IDE_FAIL_CNT.foot ||| Fld.PRT_LINK_FLAGS_CNT_OVF.foot ||| Part.prt.foot ||| State.send_foot |||
    State.count_foot ||| State.dropHost_foot
theorem execIdeMacFail_in {link : Nat} {isMem : Bool} {tags : List Nat} {s : State} (hks : In ft s0 s)
    (hft : execIdeMacFail_foot.le ft = true) :
    InOut ft s0 (execIdeMacFail link isMem tags s) := by
  unfold execIdeMacFail
  repeat' first
    | (extract_lets +onlyGivenNames x
       first
       | (have : In ft s0 x := by
            subst x
            repeat' first
              | (extract_lets +onlyGivenNames x; subst x)
              | with_reducible first
                  | assumption | apply State.setfi_in | apply State.when_in | apply State.send_in
                  | apply State.count_in | apply State.dropHost_in | apply inOut_ite | apply in_ite
                  | apply InOut.next
              | exact Foot.sub hft rfl
              | with_reducible exact Or.inl rfl
              | exact Or.inr (Foot.sub hft rfl)
              | with_reducible apply InMk.of
              | simp -zeta only [in_mk_iff]
              | split
              | intro _ _ _
              | intro _ _
          clear_value x)
       | clear_value x
       | subst x)
    | with_reducible first
        | assumption | apply State.setfi_in | apply State.when_in | apply State.send_in | apply State.count_in
        | apply State.dropHost_in | apply inOut_ite | apply in_ite | apply InOut.next
    | exact Foot.sub hft rfl
    | with_reducible exact Or.inl rfl
    | exact Or.inr (Foot.sub hft rfl)
    | with_reducible apply InMk.of
    | simp -zeta only [in_mk_iff]
    | split
    | intro _ _ _
    | intro _ _

def State.setRdy_foot : Foot := Fld.MEM_ACTIVE.foot ||| Part.prt.foot ||| State.send_foot
theorem State.setRdy_in {s : State} {p : Nat} {v : Bool} (hks : In ft s0 s) (hft : State.setRdy_foot.le ft = true) :
    In ft s0 (State.setRdy s p v) := by
  unfold State.setRdy
  repeat' first
    | (extract_lets +onlyGivenNames x
       first
       | (have : In ft s0 x := by
            subst x
            repeat' first
              | with_reducible first | assumption | apply State.setfi_in | apply State.when_in | apply State.send_in
              | exact Foot.sub hft rfl
              | with_reducible exact Or.inl rfl
              | exact Or.inr (Foot.sub hft rfl)
              | with_reducible apply InMk.of
              | simp -zeta only [in_mk_iff]
              | intro _ _ _
              | intro _ _
          clear_value x)
       | clear_value x
       | subst x)
    | with_reducible first | assumption | apply State.setfi_in | apply State.when_in | apply State.send_in
    | exact Foot.sub hft rfl
    | with_reducible exact Or.inl rfl
    | exact Or.inr (Foot.sub hft rfl)
    | with_reducible apply InMk.of
    | simp -zeta only [in_mk_iff]
    | intro _ _ _
    | intro _ _

def State.clearLink_foot : Foot :=
  Fld.PRT_LINK_STATUS_LINK_UP.foot ||| Fld.RATE.foot ||| Fld.WIDTH.foot ||| Fld.REVERSED.foot |||
    Fld.FLIT256.foot ||| Fld.HDM_DB.foot ||| Fld.IDE_MEM.foot ||| Fld.IDE_IO.foot ||| Fld.POLARITY.foot
theorem State.clearLink_in {s : State} {n : Nat} (hks : In ft s0 s) (hft : State.clearLink_foot.le ft = true) :
    In ft s0 (State.clearLink s n) := by
  unfold State.clearLink State.each
  simp only [List.foldl_cons, List.foldl_nil]
  repeat' first
    | exact hks
    | with_reducible apply State.wri_in
    | exact Foot.sub hft rfl

def State.setQp_foot : Foot := Part.cmd.foot
theorem State.setQp_in {s : State} {q : Nat} {x : QpS} (hks : In ft s0 s) (hft : State.setQp_foot.le ft = true) :
    In ft s0 (State.setQp s q x) := by
  unfold State.setQp
  repeat' first
    | (extract_lets +onlyGivenNames x
       first
       | (have : In ft s0 x := by
            subst x
            repeat' first
              | with_reducible first | assumption
              | exact Foot.sub hft rfl
              | with_reducible exact Or.inl rfl
              | exact Or.inr (Foot.sub hft rfl)
              | with_reducible apply InMk.of
              | simp -zeta only [in_mk_iff]
          clear_value x)
       | clear_value x
       | subst x)
    | with_reducible first | assumption
    | exact Foot.sub hft rfl
    | with_reducible exact Or.inl rfl
    | exact Or.inr (Foot.sub hft rfl)
    | with_reducible apply InMk.of
    | simp -zeta only [in_mk_iff]

def State.dropCmds_foot : Foot :=
  Part.cmd.foot ||| Part.waits.foot ||| State.stallEnds_foot ||| State.rerun_foot ||| State.enterLocks_foot
theorem State.dropCmds_in {s : State} {p : Cmd → Bool} (hks : In ft s0 s) (hft : State.dropCmds_foot.le ft = true) :
    In ft s0 (State.dropCmds s p) := by
  unfold State.dropCmds
  repeat' first
    | (extract_lets +onlyGivenNames x
       first
       | (have : In ft s0 x := by
            subst x
            repeat' first
              | (extract_lets +onlyGivenNames x; subst x)
              | with_reducible first
                  | assumption | apply State.stallEnds_in | apply State.rerun_in | apply State.enterLocks_in
              | exact Foot.sub hft rfl
              | with_reducible exact Or.inl rfl
              | exact Or.inr (Foot.sub hft rfl)
              | with_reducible apply InMk.of
              | simp -zeta only [in_mk_iff]
              | split
              | intro _ _ _
              | intro _ _
          clear_value x)
       | clear_value x
       | subst x)
    | with_reducible first | assumption | apply State.stallEnds_in | apply State.rerun_in | apply State.enterLocks_in
    | exact Foot.sub hft rfl
    | with_reducible exact Or.inl rfl
    | exact Or.inr (Foot.sub hft rfl)
    | with_reducible apply InMk.of
    | simp -zeta only [in_mk_iff]
    | split
    | intro _ _ _
    | intro _ _

def State.qpSilence_foot : Foot :=
  Fld.QP_EN.foot ||| Fld.RESET_BUSY.foot ||| Part.cmd.foot ||| State.cmdRegs_foot ||| State.inflightReg_foot |||
    State.dropCmds_foot
theorem State.qpSilence_in {s : State} {q : Nat} (hks : In ft s0 s) (hft : State.qpSilence_foot.le ft = true) :
    In ft s0 (State.qpSilence s q) := by
  unfold State.qpSilence
  repeat' first
    | (extract_lets +onlyGivenNames x
       first
       | (have : In ft s0 x := by
            subst x
            repeat' first
              | (extract_lets +onlyGivenNames x; subst x)
              | with_reducible first
                  | assumption | apply State.setfi_in | apply State.cmdRegs_in | apply State.inflightReg_in
                  | apply State.dropCmds_in | apply in_ite
              | exact Foot.sub hft rfl
              | with_reducible exact Or.inl rfl
              | exact Or.inr (Foot.sub hft rfl)
              | with_reducible apply InMk.of
              | simp -zeta only [in_mk_iff]
              | split
              | intro _ _ _
              | intro _ _
          clear_value x)
       | clear_value x
       | subst x)
    | with_reducible first
        | assumption | apply State.setfi_in | apply State.cmdRegs_in | apply State.inflightReg_in
        | apply State.dropCmds_in | apply in_ite
    | exact Foot.sub hft rfl
    | with_reducible exact Or.inl rfl
    | exact Or.inr (Foot.sub hft rfl)
    | with_reducible apply InMk.of
    | simp -zeta only [in_mk_iff]
    | split
    | intro _ _ _
    | intro _ _

def execPerstAssert_foot : Foot :=
  Fld.BENCHED.foot ||| Fld.BENCH_USED.foot ||| Part.fch.foot ||| Part.prt.foot ||| Part.waits.foot |||
    Part.fences.foot ||| State.stallEnds_foot ||| State.setRdy_foot ||| State.clearLink_foot |||
    State.qpSilence_foot
theorem execPerstAssert_in {port : Nat} {s : State} (hks : In ft s0 s) (hft : execPerstAssert_foot.le ft = true) :
    InOut ft s0 (execPerstAssert port s) := by
  unfold execPerstAssert
  repeat' first
    | (extract_lets +onlyGivenNames x
       first
       | (have : In ft s0 x := by
            subst x
            repeat' first
              | (extract_lets +onlyGivenNames x; subst x)
              | with_reducible first
                  | assumption | apply State.wri_in | apply State.each_in | apply State.stallEnds_in
                  | apply State.setRdy_in | apply State.clearLink_in | apply State.qpSilence_in | apply inOut_ite
                  | apply in_ite | apply InOut.next
              | exact Foot.sub hft rfl
              | with_reducible exact Or.inl rfl
              | exact Or.inr (Foot.sub hft rfl)
              | with_reducible apply InMk.of
              | simp -zeta only [in_mk_iff]
              | split
              | intro _ _ _
              | intro _ _
          clear_value x)
       | clear_value x
       | subst x)
    | with_reducible first
        | assumption | apply State.wri_in | apply State.each_in | apply State.stallEnds_in | apply State.setRdy_in
        | apply State.clearLink_in | apply State.qpSilence_in | apply inOut_ite | apply in_ite | apply InOut.next
    | exact Foot.sub hft rfl
    | with_reducible exact Or.inl rfl
    | exact Or.inr (Foot.sub hft rfl)
    | with_reducible apply InMk.of
    | simp -zeta only [in_mk_iff]
    | split
    | intro _ _ _
    | intro _ _

def execPerstRelease_foot : Foot := Fld.SPLIT_ACT.foot ||| Part.prt.foot
theorem execPerstRelease_in {port : Nat} {s : State} (hks : In ft s0 s) (hft : execPerstRelease_foot.le ft = true) :
    InOut ft s0 (execPerstRelease port s) := by
  unfold execPerstRelease
  repeat' first
    | (extract_lets +onlyGivenNames x
       first
       | (have : In ft s0 x := by
            subst x
            repeat' first
              | with_reducible first
                  | assumption | apply State.wri_in | apply inOut_ite | apply in_ite | apply InOut.next
              | exact Foot.sub hft rfl
              | with_reducible exact Or.inl rfl
              | exact Or.inr (Foot.sub hft rfl)
              | with_reducible apply InMk.of
              | simp -zeta only [in_mk_iff]
              | split
          clear_value x)
       | clear_value x
       | subst x)
    | with_reducible first | assumption | apply State.wri_in | apply inOut_ite | apply in_ite | apply InOut.next
    | exact Foot.sub hft rfl
    | with_reducible exact Or.inl rfl
    | exact Or.inr (Foot.sub hft rfl)
    | with_reducible apply InMk.of
    | simp -zeta only [in_mk_iff]
    | split

def execLinkUp_foot : Foot :=
  Fld.PRT_LINK_STATUS_LINK_UP.foot ||| Fld.RATE.foot ||| Fld.WIDTH.foot ||| Fld.REVERSED.foot |||
    Fld.POLARITY.foot ||| Fld.FLIT256.foot ||| Fld.HDM_DB.foot
theorem execLinkUp_in {link rate lanes polarity : Nat} {reversed flit256 : Bool} {s : State} (hks : In ft s0 s)
    (hft : execLinkUp_foot.le ft = true) :
    InOut ft s0 (execLinkUp link rate lanes polarity reversed flit256 s) := by
  unfold execLinkUp
  repeat' first
    | (extract_lets +onlyGivenNames x
       first
       | (have : In ft s0 x := by
            subst x
            repeat' first
              | (extract_lets +onlyGivenNames x; subst x)
              | with_reducible first
                  | assumption | apply State.wri_in | apply State.setfi_in | apply inOut_ite | apply in_ite
                  | apply InOut.next
              | exact Foot.sub hft rfl
              | split
          clear_value x)
       | clear_value x
       | subst x)
    | with_reducible first
        | assumption | apply State.wri_in | apply State.setfi_in | apply inOut_ite | apply in_ite | apply InOut.next
    | exact Foot.sub hft rfl
    | split

def execLinkDown_foot : Foot := Fld.PRT_LINK_STATUS_LINK_UP.foot
theorem execLinkDown_in {link : Nat} {s : State} (hks : In ft s0 s) (hft : execLinkDown_foot.le ft = true) :
    InOut ft s0 (execLinkDown link s) := by
  unfold execLinkDown
  repeat' first
    | with_reducible first | assumption | apply State.setfi_in | apply inOut_ite | apply in_ite | apply InOut.next
    | exact Foot.sub hft rfl
    | split

def execLinkRecoveryEntry_foot : Foot :=
  Fld.RATE.foot ||| Fld.RETRAIN_CNT.foot ||| Fld.PRT_LINK_FLAGS_CNT_OVF.foot ||| Fld.DOWNSHIFT_CNT.foot |||
    Part.prt.foot ||| State.record_foot ||| State.count_foot
theorem execLinkRecoveryEntry_in {link recent : Nat} {s : State} (hks : In ft s0 s)
    (hft : execLinkRecoveryEntry_foot.le ft = true) :
    InOut ft s0 (execLinkRecoveryEntry link recent s) := by
  unfold execLinkRecoveryEntry
  repeat' first
    | (extract_lets +onlyGivenNames x
       first
       | (have : In ft s0 x := by
            subst x
            repeat' first
              | (extract_lets +onlyGivenNames x; subst x)
              | with_reducible first
                  | assumption | apply State.wri_in | apply State.record_in | apply State.count_in | apply inOut_ite
                  | apply in_ite | apply InOut.next
              | exact Foot.sub hft rfl
              | with_reducible exact Or.inl rfl
              | exact Or.inr (Foot.sub hft rfl)
              | with_reducible apply InMk.of
              | simp -zeta only [in_mk_iff]
              | split
          clear_value x)
       | clear_value x
       | subst x)
    | with_reducible first
        | assumption | apply State.wri_in | apply State.record_in | apply State.count_in | apply inOut_ite
        | apply in_ite | apply InOut.next
    | exact Foot.sub hft rfl
    | with_reducible exact Or.inl rfl
    | exact Or.inr (Foot.sub hft rfl)
    | with_reducible apply InMk.of
    | simp -zeta only [in_mk_iff]
    | split

def State.linkRetrain_foot : Foot := Fld.RATE.foot ||| Part.prt.foot
theorem State.linkRetrain_in {s : State} {link rate : Nat} (hks : In ft s0 s)
    (hft : State.linkRetrain_foot.le ft = true) :
    In ft s0 (State.linkRetrain s link rate) := by
  unfold State.linkRetrain
  repeat' first
    | (extract_lets +onlyGivenNames x
       first
       | (have : In ft s0 x := by
            subst x
            repeat' first
              | with_reducible first | assumption | apply State.wri_in | apply in_ite
              | exact Foot.sub hft rfl
              | with_reducible exact Or.inl rfl
              | exact Or.inr (Foot.sub hft rfl)
              | with_reducible apply InMk.of
              | simp -zeta only [in_mk_iff]
              | split
          clear_value x)
       | clear_value x
       | subst x)
    | with_reducible first | assumption | apply State.wri_in | apply in_ite
    | exact Foot.sub hft rfl
    | with_reducible exact Or.inl rfl
    | exact Or.inr (Foot.sub hft rfl)
    | with_reducible apply InMk.of
    | simp -zeta only [in_mk_iff]
    | split

def execLinkRetrain_foot : Foot := State.barWrite_foot ||| State.linkRetrain_foot
theorem execLinkRetrain_in {link rate : Nat} {s : State} (hks : In ft s0 s)
    (hft : execLinkRetrain_foot.le ft = true) :
    InOut ft s0 (execLinkRetrain link rate s) := by
  unfold execLinkRetrain
  repeat' first
    | with_reducible first | assumption | apply State.barWrite_in | apply State.linkRetrain_in | apply InOut.next
    | exact Foot.sub hft rfl
    | intro _ _ _
    | intro _ _

def State.portOffline_foot : Foot :=
  Fld.PORT_OFFLINE.foot ||| Part.prt.foot ||| State.setRdy_foot ||| State.clearLink_foot
theorem State.portOffline_in {s : State} {port : Nat} {v : Bool} (hks : In ft s0 s)
    (hft : State.portOffline_foot.le ft = true) :
    In ft s0 (State.portOffline s port v) := by
  unfold State.portOffline
  repeat' first
    | (extract_lets +onlyGivenNames x
       first
       | (have : In ft s0 x := by
            subst x
            repeat' first
              | (extract_lets +onlyGivenNames x; subst x)
              | with_reducible first
                  | assumption | apply State.setfi_in | apply State.setRdy_in | apply State.clearLink_in
                  | apply in_ite
              | exact Foot.sub hft rfl
              | with_reducible exact Or.inl rfl
              | exact Or.inr (Foot.sub hft rfl)
              | with_reducible apply InMk.of
              | simp -zeta only [in_mk_iff]
              | split
          clear_value x)
       | clear_value x
       | subst x)
    | with_reducible first
        | assumption | apply State.setfi_in | apply State.setRdy_in | apply State.clearLink_in | apply in_ite
    | exact Foot.sub hft rfl
    | with_reducible exact Or.inl rfl
    | exact Or.inr (Foot.sub hft rfl)
    | with_reducible apply InMk.of
    | simp -zeta only [in_mk_iff]
    | split

def execPortOfflineWrite_foot : Foot := State.barWrite_foot ||| State.portOffline_foot
theorem execPortOfflineWrite_in {port : Nat} {v : Bool} {s : State} (hks : In ft s0 s)
    (hft : execPortOfflineWrite_foot.le ft = true) :
    InOut ft s0 (execPortOfflineWrite port v s) := by
  unfold execPortOfflineWrite
  repeat' first
    | with_reducible first
        | assumption | apply State.barWrite_in | apply State.portOffline_in | apply inOut_ite | apply in_ite
        | apply InOut.next
    | exact Foot.sub hft rfl
    | split
    | intro _ _ _
    | intro _ _

def execIdentify_foot : Foot := State.send_foot
theorem execIdentify_in {link ld : Nat} {s : State} (hks : In ft s0 s) (hft : execIdentify_foot.le ft = true) :
    InOut ft s0 (execIdentify link ld s) := by
  unfold execIdentify
  repeat' first
    | with_reducible first | assumption | apply State.send_in | apply InOut.next
    | exact Foot.sub hft rfl

def execGetEventRecords_foot : Foot := State.send_foot
theorem execGetEventRecords_in {link ld : Nat} {s : State} (hks : In ft s0 s)
    (hft : execGetEventRecords_foot.le ft = true) :
    InOut ft s0 (execGetEventRecords link ld s) := by
  unfold execGetEventRecords
  repeat' first
    | with_reducible first | assumption | apply State.send_in | apply InOut.next
    | exact Foot.sub hft rfl

def execGetPoisonList_foot : Foot := State.send_foot
theorem execGetPoisonList_in {link ld : Nat} {s : State} (hks : In ft s0 s)
    (hft : execGetPoisonList_foot.le ft = true) :
    InOut ft s0 (execGetPoisonList link ld s) := by
  unfold execGetPoisonList
  repeat' first
    | with_reducible first | assumption | apply State.send_in | apply InOut.next
    | exact Foot.sub hft rfl

def execGetHealthInfo_foot : Foot := State.send_foot
theorem execGetHealthInfo_in {link ld : Nat} {s : State} (hks : In ft s0 s)
    (hft : execGetHealthInfo_foot.le ft = true) :
    InOut ft s0 (execGetHealthInfo link ld s) := by
  unfold execGetHealthInfo
  repeat' first
    | with_reducible first | assumption | apply State.send_in | apply InOut.next
    | exact Foot.sub hft rfl

def execSetTimestamp_foot : Foot := Part.prt.foot ||| State.send_foot
theorem execSetTimestamp_in {value : Nat} {s : State} (hks : In ft s0 s) (hft : execSetTimestamp_foot.le ft = true) :
    InOut ft s0 (execSetTimestamp value s) := by
  unfold execSetTimestamp
  repeat' first
    | (extract_lets +onlyGivenNames x; clear_value x)
    | with_reducible first | assumption | apply State.send_in | apply InOut.next
    | exact Foot.sub hft rfl
    | with_reducible exact Or.inl rfl
    | exact Or.inr (Foot.sub hft rfl)
    | with_reducible apply InMk.of
    | simp -zeta only [in_mk_iff]

def execInitiateDynamicCapacityAdd_foot : Foot := Part.prt.foot ||| State.send_foot ||| State.dcAdd_foot
theorem execInitiateDynamicCapacityAdd_in {link ld start len : Nat} {s : State} (hks : In ft s0 s)
    (hft : execInitiateDynamicCapacityAdd_foot.le ft = true) :
    InOut ft s0 (execInitiateDynamicCapacityAdd link ld start len s) := by
  unfold execInitiateDynamicCapacityAdd
  repeat' first
    | (extract_lets +onlyGivenNames x
       first
       | (have : In ft s0 x := by
            subst x
            repeat' first
              | with_reducible first
                  | assumption | apply State.send_in | apply State.dcAdd_in | apply inOut_ite | apply in_ite
                  | apply InOut.next
              | exact Foot.sub hft rfl
              | with_reducible exact Or.inl rfl
              | exact Or.inr (Foot.sub hft rfl)
              | with_reducible apply InMk.of
              | simp -zeta only [in_mk_iff]
              | split
          clear_value x)
       | clear_value x
       | subst x)
    | with_reducible first
        | assumption | apply State.send_in | apply State.dcAdd_in | apply inOut_ite | apply in_ite | apply InOut.next
    | exact Foot.sub hft rfl
    | with_reducible exact Or.inl rfl
    | exact Or.inr (Foot.sub hft rfl)
    | with_reducible apply InMk.of
    | simp -zeta only [in_mk_iff]
    | split

def execDynamicCapacityRelease_foot : Foot :=
  Part.prt.foot ||| State.send_foot ||| State.invalFrames_foot ||| State.dcRelease_foot
theorem execDynamicCapacityRelease_in {link ld start len : Nat} {s : State} (hks : In ft s0 s)
    (hft : execDynamicCapacityRelease_foot.le ft = true) :
    InOut ft s0 (execDynamicCapacityRelease link ld start len s) := by
  unfold execDynamicCapacityRelease
  repeat' first
    | (extract_lets +onlyGivenNames x
       first
       | (have : In ft s0 x := by
            subst x
            repeat' first
              | with_reducible first
                  | assumption | apply State.send_in | apply State.invalFrames_in | apply State.dcRelease_in
                  | apply inOut_ite | apply in_ite | apply InOut.next
              | exact Foot.sub hft rfl
              | with_reducible exact Or.inl rfl
              | exact Or.inr (Foot.sub hft rfl)
              | with_reducible apply InMk.of
              | simp -zeta only [in_mk_iff]
              | split
          clear_value x)
       | clear_value x
       | subst x)
    | with_reducible first
        | assumption | apply State.send_in | apply State.invalFrames_in | apply State.dcRelease_in | apply inOut_ite
        | apply in_ite | apply InOut.next
    | exact Foot.sub hft rfl
    | with_reducible exact Or.inl rfl
    | exact Or.inr (Foot.sub hft rfl)
    | with_reducible apply InMk.of
    | simp -zeta only [in_mk_iff]
    | split

def State.bindLd_foot : Foot := Fld.PRT_LD_CFG_DOMAIN.foot ||| State.record_foot
theorem State.bindLd_in {s : State} {link ld d : Nat} (hks : In ft s0 s) (hft : State.bindLd_foot.le ft = true) :
    In ft s0 (State.bindLd s link ld d) := by
  unfold State.bindLd
  repeat' first
    | (extract_lets +onlyGivenNames x; clear_value x)
    | with_reducible first | assumption | apply State.wri_in | apply State.record_in | apply in_ite
    | exact Foot.sub hft rfl
    | split

def execBindLdDomain_foot : Foot := State.send_foot ||| State.barWrite_foot ||| State.bindLd_foot
theorem execBindLdDomain_in {link ld dom : Nat} {s : State} (hks : In ft s0 s)
    (hft : execBindLdDomain_foot.le ft = true) :
    InOut ft s0 (execBindLdDomain link ld dom s) := by
  unfold execBindLdDomain
  repeat' first
    | (extract_lets +onlyGivenNames x
       first
       | (have : In ft s0 x := by
            subst x
            repeat' first
              | with_reducible first
                  | assumption | apply State.send_in | apply State.barWrite_in | apply State.bindLd_in
                  | apply inOut_ite | apply in_ite | apply InOut.next
              | exact Foot.sub hft rfl
              | split
              | intro _ _ _
              | intro _ _
          clear_value x)
       | clear_value x
       | subst x)
    | with_reducible first
        | assumption | apply State.send_in | apply State.barWrite_in | apply State.bindLd_in | apply inOut_ite
        | apply in_ite | apply InOut.next
    | exact Foot.sub hft rfl
    | split
    | intro _ _ _
    | intro _ _

end Sys2Proof.Machine
end

