-- ==== Sys2Proof/Laws/FrameQueues.lean ====
section
/-! SUPPORT. The footprints of the operations of Machine/Queues (Laws/Frame). -/

namespace Sys2Proof.Machine

variable {ft : Foot} {s0 : State}

def State.dbErr_foot : Foot :=
  Fld.DB_ERR.foot ||| Fld.DB_ERR_CNT.foot ||| Fld.CMD_FLAGS_CNT_OVF.foot ||| State.recordOnce_foot |||
    State.count_foot
theorem State.dbErr_in {s : State} {q : Nat} (hks : In ft s0 s) (hft : State.dbErr_foot.le ft = true) :
    In ft s0 (State.dbErr s q) := by
  unfold State.dbErr
  repeat' first
    | with_reducible first | assumption | apply State.setfi_in | apply State.recordOnce_in | apply State.count_in
    | exact Foot.sub hft rfl

def execSqTailDoorbell_foot : Foot := Fld.SQ_TAIL.foot ||| State.barWrite_foot ||| State.dbErr_foot
theorem execSqTailDoorbell_in {q t : Nat} {s : State} (hks : In ft s0 s)
    (hft : execSqTailDoorbell_foot.le ft = true) :
    InOut ft s0 (execSqTailDoorbell q t s) := by
  unfold execSqTailDoorbell
  repeat' first
    | (extract_lets +onlyGivenNames x; clear_value x)
    | with_reducible first
        | assumption | apply State.wri_in | apply State.barWrite_in | apply State.dbErr_in | apply inOut_ite
        | apply in_ite | apply InOut.next
    | exact Foot.sub hft rfl
    | split
    | intro _ _ _
    | intro _ _

def execCqHeadDoorbell_foot : Foot := Fld.CQ_HEAD.foot ||| State.barWrite_foot ||| State.dbErr_foot
theorem execCqHeadDoorbell_in {q h : Nat} {s : State} (hks : In ft s0 s)
    (hft : execCqHeadDoorbell_foot.le ft = true) :
    InOut ft s0 (execCqHeadDoorbell q h s) := by
  unfold execCqHeadDoorbell
  repeat' first
    | (extract_lets +onlyGivenNames x; clear_value x)
    | with_reducible first
        | assumption | apply State.wri_in | apply State.barWrite_in | apply State.dbErr_in | apply inOut_ite
        | apply in_ite | apply InOut.next
    | exact Foot.sub hft rfl
    | split
    | intro _ _ _
    | intro _ _

def State.qpOwner_foot : Foot := Fld.QP_OWNER_LINK.foot ||| Fld.QP_OWNER_LD.foot ||| Fld.QP_OWNER_ASSIGNED.foot
theorem State.qpOwner_in {s : State} {q : Nat} (hks : In ft s0 s) (hft : State.qpOwner_foot.le ft = true) :
    In ft s0 (State.qpOwner s q) := by
  unfold State.qpOwner
  repeat' first
    | (extract_lets +onlyGivenNames x; clear_value x)
    | with_reducible first | assumption | apply State.wri_in
    | exact Foot.sub hft rfl

def State.qpEnWrite_foot : Foot :=
  Fld.CFG_ERR.foot ||| Fld.SQ_HEAD.foot ||| Fld.SQ_TAIL.foot ||| Fld.CQ_HEAD.foot ||| Fld.CQ_TAIL.foot |||
    Fld.CQ_PHASE.foot ||| Fld.QP_OWNER_DOMAIN.foot ||| Fld.QP_EN.foot ||| State.setQp_foot ||| State.qpOwner_foot
theorem State.qpEnWrite_in {s : State} {q : Nat} {v : Bool} (hks : In ft s0 s)
    (hft : State.qpEnWrite_foot.le ft = true) :
    In ft s0 (State.qpEnWrite s q v) := by
  unfold State.qpEnWrite
  repeat' first
    | (extract_lets +onlyGivenNames x
       first
       | (have : In ft s0 x := by
            subst x
            repeat' first
              | (extract_lets +onlyGivenNames x; subst x)
              | with_reducible first
                  | assumption | apply State.wri_in | apply State.setfi_in | apply State.setQp_in
                  | apply State.qpOwner_in | apply in_ite
              | exact Foot.sub hft rfl
              | split
          clear_value x)
       | clear_value x
       | subst x)
    | with_reducible first
        | assumption | apply State.wri_in | apply State.setfi_in | apply State.setQp_in | apply State.qpOwner_in
        | apply in_ite
    | exact Foot.sub hft rfl
    | split

def execQpEnWrite_foot : Foot := State.barWrite_foot ||| State.qpEnWrite_foot
theorem execQpEnWrite_in {q : Nat} {v : Bool} {s : State} (hks : In ft s0 s) (hft : execQpEnWrite_foot.le ft = true) :
    InOut ft s0 (execQpEnWrite q v s) := by
  unfold execQpEnWrite
  repeat' first
    | with_reducible first
        | assumption | apply State.barWrite_in | apply State.qpEnWrite_in | apply inOut_ite | apply in_ite
        | apply InOut.next
    | exact Foot.sub hft rfl
    | split
    | intro _ _ _
    | intro _ _

def State.postCqe_foot : Foot := Fld.CQ_TAIL.foot ||| Fld.CQ_PHASE.foot ||| State.send_foot
theorem State.postCqe_in {s : State} {q : Nat} {r0 r1 w2 : Nat} (hks : In ft s0 s)
    (hft : State.postCqe_foot.le ft = true) :
    In ft s0 (State.postCqe s q r0 r1 w2) := by
  unfold State.postCqe
  repeat' first
    | (extract_lets +onlyGivenNames x
       first
       | (have : In ft s0 x := by
            subst x
            repeat' first
              | (extract_lets +onlyGivenNames x; subst x)
              | with_reducible first | assumption | apply State.wri_in | apply State.send_in | apply in_ite
              | exact Foot.sub hft rfl
              | split
          clear_value x)
       | clear_value x
       | subst x)
    | with_reducible first | assumption | apply State.wri_in | apply State.send_in | apply in_ite
    | exact Foot.sub hft rfl
    | split

def State.qpMsix_foot : Foot := State.send_foot ||| State.setQp_foot
theorem State.qpMsix_in {s : State} {q : Nat} (hks : In ft s0 s) (hft : State.qpMsix_foot.le ft = true) :
    In ft s0 (State.qpMsix s q) := by
  unfold State.qpMsix
  repeat' first
    | (extract_lets +onlyGivenNames x; clear_value x)
    | with_reducible first | assumption | apply State.send_in | apply State.setQp_in
    | exact Foot.sub hft rfl
    | with_reducible exact Or.inl rfl
    | exact Or.inr (Foot.sub hft rfl)
    | with_reducible apply InMk.of
    | simp -zeta only [in_mk_iff]

def State.coalesce_foot : Foot := State.setQp_foot ||| State.qpMsix_foot
theorem State.coalesce_in {s : State} {q : Nat} (hks : In ft s0 s) (hft : State.coalesce_foot.le ft = true) :
    In ft s0 (State.coalesce s q) := by
  unfold State.coalesce
  repeat' first
    | (extract_lets +onlyGivenNames x
       first
       | (have : In ft s0 x := by
            subst x
            repeat' first
              | (extract_lets +onlyGivenNames x; subst x)
              | with_reducible first | assumption | apply State.setQp_in | apply State.qpMsix_in | apply in_ite
              | exact Foot.sub hft rfl
              | with_reducible exact Or.inl rfl
              | exact Or.inr (Foot.sub hft rfl)
              | with_reducible apply InMk.of
              | simp -zeta only [in_mk_iff]
              | split
          clear_value x)
       | clear_value x
       | subst x)
    | with_reducible first | assumption | apply State.setQp_in | apply State.qpMsix_in | apply in_ite
    | exact Foot.sub hft rfl
    | with_reducible exact Or.inl rfl
    | exact Or.inr (Foot.sub hft rfl)
    | with_reducible apply InMk.of
    | simp -zeta only [in_mk_iff]
    | split

def State.resetDone_foot : Foot :=
  Fld.QP_EN.foot ||| Fld.RESET_BUSY.foot ||| Fld.QP_ERR.foot ||| Fld.RESET_CNT.foot |||
    Fld.CMD_FLAGS_CNT_OVF.foot ||| State.count_foot ||| State.postCqe_foot ||| State.qpMsix_foot
theorem State.resetDone_in {s : State} {q : Nat} (hks : In ft s0 s) (hft : State.resetDone_foot.le ft = true) :
    In ft s0 (State.resetDone s q) := by
  unfold State.resetDone
  repeat' first
    | (extract_lets +onlyGivenNames x
       first
       | (have : In ft s0 x := by
            subst x
            repeat' first
              | (extract_lets +onlyGivenNames x; subst x)
              | with_reducible first
                  | assumption | apply State.setfi_in | apply State.count_in | apply State.postCqe_in
                  | apply State.qpMsix_in | apply in_ite
              | exact Foot.sub hft rfl
              | split
          clear_value x)
       | clear_value x
       | subst x)
    | with_reducible first
        | assumption | apply State.setfi_in | apply State.count_in | apply State.postCqe_in | apply State.qpMsix_in
        | apply in_ite
    | exact Foot.sub hft rfl
    | split

def State.discardWaiting_foot : Foot := State.inflightReg_foot ||| State.setQp_foot ||| State.dropCmds_foot
theorem State.discardWaiting_in {s : State} {q : Nat} (hks : In ft s0 s)
    (hft : State.discardWaiting_foot.le ft = true) :
    In ft s0 (State.discardWaiting s q) := by
  unfold State.discardWaiting
  repeat' first
    | (extract_lets +onlyGivenNames x
       first
       | (have : In ft s0 x := by
            subst x
            repeat' first
              | (extract_lets +onlyGivenNames x; subst x)
              | with_reducible first
                  | assumption | apply State.inflightReg_in | apply State.setQp_in | apply State.dropCmds_in
              | exact Foot.sub hft rfl
              | with_reducible exact Or.inl rfl
              | exact Or.inr (Foot.sub hft rfl)
              | with_reducible apply InMk.of
              | simp -zeta only [in_mk_iff]
              | intro _ _ _
              | intro _ _
          clear_value x)
       | clear_value x
       | subst x)
    | with_reducible first | assumption | apply State.inflightReg_in | apply State.setQp_in | apply State.dropCmds_in
    | exact Foot.sub hft rfl
    | with_reducible exact Or.inl rfl
    | exact Or.inr (Foot.sub hft rfl)
    | with_reducible apply InMk.of
    | simp -zeta only [in_mk_iff]
    | intro _ _ _
    | intro _ _

def State.qpReset_foot : Foot :=
  Fld.RESET_BUSY.foot ||| State.cmdRegs_foot ||| State.setQp_foot ||| State.resetDone_foot |||
    State.discardWaiting_foot
theorem State.qpReset_in {s : State} {q : Nat} (hks : In ft s0 s) (hft : State.qpReset_foot.le ft = true) :
    In ft s0 (State.qpReset s q) := by
  unfold State.qpReset
  repeat' first
    | (extract_lets +onlyGivenNames x
       first
       | (have : In ft s0 x := by
            subst x
            repeat' first
              | (extract_lets +onlyGivenNames x; subst x)
              | with_reducible first
                  | assumption | apply State.setfi_in | apply State.cmdRegs_in | apply State.setQp_in
                  | apply State.resetDone_in | apply State.discardWaiting_in | apply in_ite
              | exact Foot.sub hft rfl
              | with_reducible exact Or.inl rfl
              | exact Or.inr (Foot.sub hft rfl)
              | with_reducible apply InMk.of
              | simp -zeta only [in_mk_iff]
              | split
          clear_value x)
       | clear_value x
       | subst x)
    | with_reducible first
        | assumption | apply State.setfi_in | apply State.cmdRegs_in | apply State.setQp_in
        | apply State.resetDone_in | apply State.discardWaiting_in | apply in_ite
    | exact Foot.sub hft rfl
    | with_reducible exact Or.inl rfl
    | exact Or.inr (Foot.sub hft rfl)
    | with_reducible apply InMk.of
    | simp -zeta only [in_mk_iff]
    | split

def execQpReset_foot : Foot := State.barWrite_foot ||| State.qpReset_foot
theorem execQpReset_in {q : Nat} {s : State} (hks : In ft s0 s) (hft : execQpReset_foot.le ft = true) :
    InOut ft s0 (execQpReset q s) := by
  unfold execQpReset
  repeat' first
    | with_reducible first
        | assumption | apply State.barWrite_in | apply State.qpReset_in | apply inOut_ite | apply in_ite
        | apply InOut.next
    | exact Foot.sub hft rfl
    | split
    | intro _ _ _
    | intro _ _

def State.detachStream_foot : Foot := State.updMove_foot ||| State.updStream_foot ||| State.cancelMove_foot
theorem State.detachStream_in {s : State} {d sid : Nat} {m : Move} (hks : In ft s0 s)
    (hft : State.detachStream_foot.le ft = true) :
    In ft s0 (State.detachStream s d sid m) := by
  unfold State.detachStream
  repeat' first
    | (extract_lets +onlyGivenNames x; clear_value x)
    | with_reducible first
        | assumption | apply State.updMove_in | apply State.updStream_in | apply State.cancelMove_in
    | exact Foot.sub hft rfl
    | with_reducible exact Or.inl rfl
    | exact Or.inr (Foot.sub hft rfl)
    | with_reducible apply InMk.of
    | simp -zeta only [in_mk_iff]
    | split
    | intro _ _ _
    | intro _ _

def State.cancelStream_foot : Foot := State.streamEnds_foot ||| State.updStream_foot ||| State.detachStream_foot
theorem State.cancelStream_in {s : State} {d sid : Nat} (hks : In ft s0 s)
    (hft : State.cancelStream_foot.le ft = true) :
    In ft s0 (State.cancelStream s d sid) := by
  unfold State.cancelStream
  repeat' first
    | (extract_lets +onlyGivenNames x
       first
       | (have : In ft s0 x := by
            subst x
            repeat' first
              | (extract_lets +onlyGivenNames x; subst x)
              | with_reducible first
                  | assumption | apply State.each_in | apply State.streamEnds_in | apply State.updStream_in
                  | apply State.detachStream_in | apply foldl_in
              | exact Foot.sub hft rfl
              | with_reducible exact Or.inl rfl
              | exact Or.inr (Foot.sub hft rfl)
              | with_reducible apply InMk.of
              | simp -zeta only [in_mk_iff]
              | intro _ _ _
              | intro _ _
              | with_reducible apply InP.pair
          clear_value x)
       | clear_value x
       | subst x)
    | with_reducible first
        | assumption | apply State.each_in | apply State.streamEnds_in | apply State.updStream_in
        | apply State.detachStream_in | apply foldl_in
    | exact Foot.sub hft rfl
    | with_reducible exact Or.inl rfl
    | exact Or.inr (Foot.sub hft rfl)
    | with_reducible apply InMk.of
    | simp -zeta only [in_mk_iff]
    | intro _ _ _
    | intro _ _
    | with_reducible apply InP.pair

def State.dropEscrow_foot : Foot := State.releaseKey_foot ||| State.freeFrame_foot ||| State.updCmd_foot
theorem State.dropEscrow_in {s : State} {c : Cmd} (hks : In ft s0 s) (hft : State.dropEscrow_foot.le ft = true) :
    In ft s0 (State.dropEscrow s c) := by
  unfold State.dropEscrow
  repeat' first
    | (extract_lets +onlyGivenNames x
       first
       | (have : In ft s0 x := by
            subst x
            repeat' first
              | (extract_lets +onlyGivenNames x; subst x)
              | with_reducible first
                  | assumption | apply State.each_in | apply State.releaseKey_in | apply State.freeFrame_in
                  | apply State.updCmd_in
              | exact Foot.sub hft rfl
              | with_reducible exact Or.inl rfl
              | exact Or.inr (Foot.sub hft rfl)
              | with_reducible apply InMk.of
              | simp -zeta only [in_mk_iff]
              | intro _ _ _
              | intro _ _
          clear_value x)
       | clear_value x
       | subst x)
    | with_reducible first
        | assumption | apply State.each_in | apply State.releaseKey_in | apply State.freeFrame_in
        | apply State.updCmd_in
    | exact Foot.sub hft rfl
    | with_reducible exact Or.inl rfl
    | exact Or.inr (Foot.sub hft rfl)
    | with_reducible apply InMk.of
    | simp -zeta only [in_mk_iff]
    | intro _ _ _
    | intro _ _

def State.cutCmd_foot : Foot :=
  Fld.CUT_CNT.foot ||| Fld.CMD_FLAGS_CNT_OVF.foot ||| Part.fences.foot ||| State.count_foot |||
    State.finishCmd_foot ||| State.entGo_foot ||| State.cancelStream_foot ||| State.dropEscrow_foot
theorem State.cutCmd_in {s : State} {c : Cmd} (hks : In ft s0 s) (hft : State.cutCmd_foot.le ft = true) :
    In ft s0 (State.cutCmd s c) := by
  unfold State.cutCmd
  repeat' first
    | (extract_lets +onlyGivenNames x
       first
       | (have : In ft s0 x := by
            subst x
            repeat' first
              | (extract_lets +onlyGivenNames x; subst x)
              | with_reducible first
                  | assumption | apply State.count_in | apply State.finishCmd_in | apply State.entGo_in
                  | apply State.cancelStream_in | apply State.dropEscrow_in | apply in_ite
              | exact Foot.sub hft rfl
              | with_reducible exact Or.inl rfl
              | exact Or.inr (Foot.sub hft rfl)
              | with_reducible apply InMk.of
              | simp -zeta only [in_mk_iff]
              | split
              | intro _ _ _
              | intro _ _
          clear_value x)
       | clear_value x
       | subst x)
    | with_reducible first
        | assumption | apply State.count_in | apply State.finishCmd_in | apply State.entGo_in
        | apply State.cancelStream_in | apply State.dropEscrow_in | apply in_ite
    | exact Foot.sub hft rfl
    | with_reducible exact Or.inl rfl
    | exact Or.inr (Foot.sub hft rfl)
    | with_reducible apply InMk.of
    | simp -zeta only [in_mk_iff]
    | split
    | intro _ _ _
    | intro _ _

def execQueueResetCut_foot : Foot := State.cmdRegs_foot ||| State.setQp_foot ||| State.cutCmd_foot
theorem execQueueResetCut_in {q : Nat} {s : State} (hks : In ft s0 s) (hft : execQueueResetCut_foot.le ft = true) :
    InOut ft s0 (execQueueResetCut q s) := by
  unfold execQueueResetCut
  repeat' first
    | (extract_lets +onlyGivenNames x
       first
       | (have : In ft s0 x := by
            subst x
            repeat' first
              | (extract_lets +onlyGivenNames x; subst x)
              | with_reducible first
                  | assumption | apply State.each_in | apply State.cmdRegs_in | apply State.setQp_in
                  | apply State.cutCmd_in | apply inOut_ite | apply in_ite | apply InOut.next
              | exact Foot.sub hft rfl
              | with_reducible exact Or.inl rfl
              | exact Or.inr (Foot.sub hft rfl)
              | with_reducible apply InMk.of
              | simp -zeta only [in_mk_iff]
              | split
              | intro _ _ _
              | intro _ _
          clear_value x)
       | clear_value x
       | subst x)
    | with_reducible first
        | assumption | apply State.each_in | apply State.cmdRegs_in | apply State.setQp_in | apply State.cutCmd_in
        | apply inOut_ite | apply in_ite | apply InOut.next
    | exact Foot.sub hft rfl
    | with_reducible exact Or.inl rfl
    | exact Or.inr (Foot.sub hft rfl)
    | with_reducible apply InMk.of
    | simp -zeta only [in_mk_iff]
    | split
    | intro _ _ _
    | intro _ _

def State.fetchSqe_foot : Foot :=
  Fld.LOCK_WAIT_CNT.foot ||| Fld.CMD_FLAGS_CNT_OVF.foot ||| Part.jr.foot ||| Part.cmd.foot ||| State.count_foot |||
    State.updCmd_foot ||| State.finishCmd_foot ||| State.enterLocks_foot
theorem State.fetchSqe_in {s : State} {q : Nat} {ws : List Nat} (hks : In ft s0 s)
    (hft : State.fetchSqe_foot.le ft = true) :
    In ft s0 (State.fetchSqe s q ws) := by
  unfold State.fetchSqe
  repeat' first
    | (extract_lets +onlyGivenNames x
       first
       | (have : In ft s0 x := by
            subst x
            repeat' first
              | (extract_lets +onlyGivenNames x; subst x)
              | with_reducible first
                  | assumption | apply State.when_in | apply State.count_in | apply State.updCmd_in
                  | apply State.finishCmd_in | apply State.enterLocks_in | apply in_ite
              | exact Foot.sub hft rfl
              | with_reducible exact Or.inl rfl
              | exact Or.inr (Foot.sub hft rfl)
              | with_reducible apply InMk.of
              | simp -zeta only [in_mk_iff]
              | split
              | intro _ _ _
              | intro _ _
          clear_value x)
       | clear_value x
       | subst x)
    | with_reducible first
        | assumption | apply State.when_in | apply State.count_in | apply State.updCmd_in | apply State.finishCmd_in
        | apply State.enterLocks_in | apply in_ite
    | exact Foot.sub hft rfl
    | with_reducible exact Or.inl rfl
    | exact Or.inr (Foot.sub hft rfl)
    | with_reducible apply InMk.of
    | simp -zeta only [in_mk_iff]
    | split
    | intro _ _ _
    | intro _ _

def State.fetchN_foot : Foot :=
  Fld.SQ_HEAD.foot ||| State.send_foot ||| State.cmdRegs_foot ||| State.inflightReg_foot ||| State.fetchSqe_foot
theorem State.fetchN_in {s : State} {q n : Nat} {sqes : List (List Nat)} (hks : In ft s0 s)
    (hft : State.fetchN_foot.le ft = true) :
    In ft s0 (State.fetchN s q n sqes) := by
  unfold State.fetchN
  repeat' first
    | (extract_lets +onlyGivenNames x
       first
       | (have : In ft s0 x := by
            subst x
            repeat' first
              | (extract_lets +onlyGivenNames x; subst x)
              | with_reducible first
                  | assumption | apply State.wri_in | apply State.send_in | apply State.each_in
                  | apply State.cmdRegs_in | apply State.inflightReg_in | apply State.fetchSqe_in
              | exact Foot.sub hft rfl
              | intro _ _ _
              | intro _ _
          clear_value x)
       | clear_value x
       | subst x)
    | with_reducible first
        | assumption | apply State.wri_in | apply State.send_in | apply State.each_in | apply State.cmdRegs_in
        | apply State.inflightReg_in | apply State.fetchSqe_in
    | exact Foot.sub hft rfl
    | intro _ _ _
    | intro _ _

def execSqeFetch_foot : Foot := Part.cmd.foot ||| State.setQp_foot ||| State.fetchN_foot
theorem execSqeFetch_in {aged : List Nat} {sqes : List (List Nat)} {s : State} (hks : In ft s0 s)
    (hft : execSqeFetch_foot.le ft = true) :
    InOut ft s0 (execSqeFetch aged sqes s) := by
  unfold execSqeFetch
  repeat' first
    | (extract_lets +onlyGivenNames x
       first
       | (have : In ft s0 x := by
            subst x
            repeat' first
              | (extract_lets +onlyGivenNames x; subst x)
              | with_reducible first
                  | assumption | apply State.each_in | apply State.setQp_in | apply State.fetchN_in | apply inOut_ite
                  | apply in_ite | apply InOut.next
              | exact Foot.sub hft rfl
              | with_reducible exact Or.inl rfl
              | exact Or.inr (Foot.sub hft rfl)
              | with_reducible apply InMk.of
              | simp -zeta only [in_mk_iff]
              | split
              | intro _ _ _
              | intro _ _
          clear_value x)
       | clear_value x
       | subst x)
    | with_reducible first
        | assumption | apply State.each_in | apply State.setQp_in | apply State.fetchN_in | apply inOut_ite
        | apply in_ite | apply InOut.next
    | exact Foot.sub hft rfl
    | with_reducible exact Or.inl rfl
    | exact Or.inr (Foot.sub hft rfl)
    | with_reducible apply InMk.of
    | simp -zeta only [in_mk_iff]
    | split
    | intro _ _ _
    | intro _ _

def State.settleAccept_foot : Foot := State.updCmd_foot ||| State.acceptFence_foot
theorem State.settleAccept_in {s : State} {c : Cmd} (hks : In ft s0 s) (hft : State.settleAccept_foot.le ft = true) :
    In ft s0 (State.settleAccept s c) := by
  unfold State.settleAccept
  repeat' first
    | (extract_lets +onlyGivenNames x
       first
       | (have : In ft s0 x := by
            subst x
            repeat' first
              | (extract_lets +onlyGivenNames x; subst x)
              | with_reducible first | assumption | apply State.updCmd_in | apply State.acceptFence_in | apply in_ite
              | exact Foot.sub hft rfl
              | with_reducible exact Or.inl rfl
              | exact Or.inr (Foot.sub hft rfl)
              | with_reducible apply InMk.of
              | simp -zeta only [in_mk_iff]
              | split
              | intro _ _ _
              | intro _ _
          clear_value x)
       | clear_value x
       | subst x)
    | with_reducible first | assumption | apply State.updCmd_in | apply State.acceptFence_in | apply in_ite
    | exact Foot.sub hft rfl
    | with_reducible exact Or.inl rfl
    | exact Or.inr (Foot.sub hft rfl)
    | with_reducible apply InMk.of
    | simp -zeta only [in_mk_iff]
    | split
    | intro _ _ _
    | intro _ _

def State.settleAfter_foot : Foot := State.settleAccept_foot
theorem State.settleAfter_in {s : State} {q : Nat} (hks : In ft s0 s) (hft : State.settleAfter_foot.le ft = true) :
    In ft s0 (State.settleAfter s q) := by
  unfold State.settleAfter
  repeat' first
    | with_reducible first | assumption | apply State.each_in | apply State.settleAccept_in
    | exact Foot.sub hft rfl
    | intro _ _ _
    | intro _ _

def execCommandComplete_foot : Foot :=
  Part.cmd.foot ||| State.rerun_foot ||| State.cmdRegs_foot ||| State.inflightReg_foot |||
    State.enterLocks_foot ||| State.dropCmds_foot ||| State.postCqe_foot ||| State.coalesce_foot |||
    State.resetDone_foot ||| State.settleAfter_foot
theorem execCommandComplete_in {s : State} (hks : In ft s0 s) (hft : execCommandComplete_foot.le ft = true) :
    InOut ft s0 (execCommandComplete s) := by
  unfold execCommandComplete
  repeat' first
    | (extract_lets +onlyGivenNames x
       first
       | (have : In ft s0 x := by
            subst x
            repeat' first
              | (extract_lets +onlyGivenNames x; subst x)
              | with_reducible first
                  | assumption | apply State.rerun_in | apply State.cmdRegs_in | apply State.inflightReg_in
                  | apply State.enterLocks_in | apply State.dropCmds_in | apply State.postCqe_in
                  | apply State.coalesce_in | apply State.resetDone_in | apply State.settleAfter_in | apply inOut_ite
                  | apply in_ite | apply InOut.next
              | exact Foot.sub hft rfl
              | with_reducible exact Or.inl rfl
              | exact Or.inr (Foot.sub hft rfl)
              | with_reducible apply InMk.of
              | simp -zeta only [in_mk_iff]
              | split
              | intro _ _ _
              | intro _ _
          clear_value x)
       | clear_value x
       | subst x)
    | with_reducible first
        | assumption | apply State.rerun_in | apply State.cmdRegs_in | apply State.inflightReg_in
        | apply State.enterLocks_in | apply State.dropCmds_in | apply State.postCqe_in | apply State.coalesce_in
        | apply State.resetDone_in | apply State.settleAfter_in | apply inOut_ite | apply in_ite | apply InOut.next
    | exact Foot.sub hft rfl
    | with_reducible exact Or.inl rfl
    | exact Or.inr (Foot.sub hft rfl)
    | with_reducible apply InMk.of
    | simp -zeta only [in_mk_iff]
    | split
    | intro _ _ _
    | intro _ _

def execCoalesceTimeout_foot : Foot := State.qpMsix_foot
theorem execCoalesceTimeout_in {q : Nat} {s : State} (hks : In ft s0 s)
    (hft : execCoalesceTimeout_foot.le ft = true) :
    InOut ft s0 (execCoalesceTimeout q s) := by
  unfold execCoalesceTimeout
  repeat' first
    | with_reducible first | assumption | apply State.qpMsix_in | apply inOut_ite | apply in_ite | apply InOut.next
    | exact Foot.sub hft rfl
    | split

def execRingDmaError_foot : Foot :=
  Fld.QP_ERR.foot ||| State.record_foot ||| State.cmdRegs_foot ||| State.discardWaiting_foot
theorem execRingDmaError_in {q : Nat} {onResetDone : Bool} {s : State} (hks : In ft s0 s)
    (hft : execRingDmaError_foot.le ft = true) :
    InOut ft s0 (execRingDmaError q onResetDone s) := by
  unfold execRingDmaError
  repeat' first
    | (extract_lets +onlyGivenNames x
       first
       | (have : In ft s0 x := by
            subst x
            repeat' first
              | with_reducible first
                  | assumption | apply State.setfi_in | apply State.record_in | apply State.cmdRegs_in
                  | apply State.discardWaiting_in | apply inOut_ite | apply in_ite | apply InOut.next
              | exact Foot.sub hft rfl
              | split
          clear_value x)
       | clear_value x
       | subst x)
    | with_reducible first
        | assumption | apply State.setfi_in | apply State.record_in | apply State.cmdRegs_in
        | apply State.discardWaiting_in | apply inOut_ite | apply in_ite | apply InOut.next
    | exact Foot.sub hft rfl
    | split

def execCmdStatusWrite_foot : Foot := Fld.LOCK_PEAK.foot ||| State.barWrite_foot
theorem execCmdStatusWrite_in {s : State} (hks : In ft s0 s) (hft : execCmdStatusWrite_foot.le ft = true) :
    InOut ft s0 (execCmdStatusWrite s) := by
  unfold execCmdStatusWrite
  repeat' first
    | with_reducible first | assumption | apply State.wr_in | apply State.barWrite_in | apply InOut.next
    | exact Foot.sub hft rfl
    | intro _ _ _
    | intro _ _

end Sys2Proof.Machine
end

