-- ==== Sys2Proof/Laws/FrameData.lean ====
section
/-! SUPPORT. The footprints of the operations of Machine/Data (Laws/Frame). -/

namespace Sys2Proof.Machine

variable {ft : Foot} {s0 : State}

def State.cmdOk_foot : Foot := State.finishCmd_foot ||| State.entGo_foot ||| State.cmdRegs_foot
theorem State.cmdOk_in {s : State} {c : Cmd} {r0 r1 : Nat} (hks : In ft s0 s) (hft : State.cmdOk_foot.le ft = true) :
    In ft s0 (State.cmdOk s c r0 r1) := by
  unfold State.cmdOk
  repeat' first
    | (extract_lets +onlyGivenNames x; clear_value x)
    | with_reducible first | assumption | apply State.finishCmd_in | apply State.entGo_in | apply State.cmdRegs_in
    | exact Foot.sub hft rfl
    | with_reducible exact Or.inl rfl
    | exact Or.inr (Foot.sub hft rfl)
    | with_reducible apply InMk.of
    | simp -zeta only [in_mk_iff]
    | intro _ _ _
    | intro _ _

def State.cmdErr_foot : Foot := State.finishCmd_foot ||| State.entGo_foot ||| State.cmdRegs_foot
theorem State.cmdErr_in {s : State} {c : Cmd} {status detail r0 n : Nat} (hks : In ft s0 s)
    (hft : State.cmdErr_foot.le ft = true) :
    In ft s0 (State.cmdErr s c status detail r0 n) := by
  unfold State.cmdErr
  repeat' first
    | (extract_lets +onlyGivenNames x; clear_value x)
    | with_reducible first | assumption | apply State.finishCmd_in | apply State.entGo_in | apply State.cmdRegs_in
    | exact Foot.sub hft rfl
    | with_reducible exact Or.inl rfl
    | exact Or.inr (Foot.sub hft rfl)
    | with_reducible apply InMk.of
    | simp -zeta only [in_mk_iff]
    | intro _ _ _
    | intro _ _

def State.cmdEnd_foot : Foot := State.cmdOk_foot ||| State.cmdErr_foot
theorem State.cmdEnd_in {s : State} {uid : Nat} {stop : Option Nat} {bytes : Nat} (hks : In ft s0 s)
    (hft : State.cmdEnd_foot.le ft = true) :
    In ft s0 (State.cmdEnd s uid stop bytes) := by
  unfold State.cmdEnd
  repeat' first
    | with_reducible first | assumption | apply State.cmdOk_in | apply State.cmdErr_in | apply in_ite
    | exact Foot.sub hft rfl
    | split

def State.cmdPage_foot : Foot :=
  State.updCmd_foot ||| State.entWait_foot ||| State.needPage_foot ||| State.dropDemotion_foot
theorem State.cmdPage_in {s : State} {c : Cmd} {obj tp : Nat} {o : Obj} {rd keep : Bool} (hks : In ft s0 s)
    (hft : State.cmdPage_foot.le ft = true) :
    InP ft s0 (State.cmdPage s c obj tp o rd keep) := by
  unfold State.cmdPage
  repeat' first
    | (extract_lets +onlyGivenNames x
       first
       | (have : In ft s0 x := by
            subst x
            repeat' first
              | (extract_lets +onlyGivenNames x; subst x)
              | with_reducible first
                  | assumption | apply State.updCmd_in | apply State.entWait_in | apply State.needPage_in
                  | apply State.dropDemotion_in | apply inP_ite | apply in_ite
              | exact Foot.sub hft rfl
              | with_reducible exact Or.inl rfl
              | exact Or.inr (Foot.sub hft rfl)
              | with_reducible apply InMk.of
              | simp -zeta only [in_mk_iff]
              | split
              | intro _ _ _
              | intro _ _
              | with_reducible apply InP.pair
              | dsimp -zeta only
          clear_value x)
       | clear_value x
       | subst x)
    | with_reducible first
        | assumption | apply State.updCmd_in | apply State.entWait_in | apply State.needPage_in
        | apply State.dropDemotion_in | apply inP_ite | apply in_ite
    | exact Foot.sub hft rfl
    | with_reducible exact Or.inl rfl
    | exact Or.inr (Foot.sub hft rfl)
    | with_reducible apply InMk.of
    | simp -zeta only [in_mk_iff]
    | split
    | intro _ _ _
    | intro _ _
    | with_reducible apply InP.pair
    | dsimp -zeta only

def State.cmdPages_foot : Foot := State.cmdPage_foot
theorem State.cmdPages_in {s : State} {c : Cmd} {obj : Nat} {o : Obj} {ofs len : Nat} {rd keep : Bool}
    (hks : In ft s0 s) (hft : State.cmdPages_foot.le ft = true) :
    InP ft s0 (State.cmdPages s c obj o ofs len rd keep) := by
  unfold State.cmdPages
  repeat' first
    | (extract_lets +onlyGivenNames x
       first
       | (have : In ft s0 x := by
            subst x
            repeat' first
              | with_reducible first | assumption | apply State.cmdPage_in | apply foldl_in | apply foldl_inP
              | exact Foot.sub hft rfl
              | with_reducible refine InP.eq (by assumption) ?_
              | (with_reducible refine InP.fst ?_
                 with_reducible first
                   | assumption | apply State.cmdPage_in | apply foldl_inP)
              | intro _ _ _
              | intro _ _
              | with_reducible apply InP.pair
              | dsimp -zeta only
          clear_value x)
       | (have : InP ft s0 x := by
            subst x
            repeat' first
              | with_reducible first | assumption | apply State.cmdPage_in | apply foldl_in | apply foldl_inP
              | exact Foot.sub hft rfl
              | with_reducible refine InP.eq (by assumption) ?_
              | (with_reducible refine InP.fst ?_
                 with_reducible first
                   | assumption | apply State.cmdPage_in | apply foldl_inP)
              | intro _ _ _
              | intro _ _
              | with_reducible apply InP.pair
              | dsimp -zeta only
          clear_value x)
       | clear_value x
       | subst x)
    | with_reducible first | assumption | apply State.cmdPage_in | apply foldl_in | apply foldl_inP
    | exact Foot.sub hft rfl
    | with_reducible refine InP.eq (by assumption) ?_
    | (with_reducible refine InP.fst ?_; with_reducible first | assumption | apply State.cmdPage_in | apply foldl_inP)
    | intro _ _ _
    | intro _ _
    | with_reducible apply InP.pair
    | dsimp -zeta only

def State.readyLines_foot : Foot := State.cmdPage_foot
theorem State.readyLines_in {s : State} {c : Cmd} {obj : Nat} {o : Obj} {lns : List Nat} {rd : Bool}
    (hks : In ft s0 s) (hft : State.readyLines_foot.le ft = true) :
    InP ft s0 (State.readyLines s c obj o lns rd) := by
  unfold State.readyLines
  repeat' first
    | (extract_lets +onlyGivenNames x
       first
       | (have : In ft s0 x := by
            subst x
            repeat' first
              | (extract_lets +onlyGivenNames x; subst x)
              | with_reducible first
                  | assumption | apply State.cmdPage_in | apply foldl_in | apply inP_ite | apply in_ite
                  | apply foldl_inP
              | exact Foot.sub hft rfl
              | with_reducible refine InP.eq (by assumption) ?_
              | (with_reducible refine InP.fst ?_
                 with_reducible first
                   | assumption | apply State.cmdPage_in | apply foldl_inP)
              | split
              | intro _ _ _
              | intro _ _
              | with_reducible apply InP.pair
              | dsimp -zeta only
          clear_value x)
       | (have : InP ft s0 x := by
            subst x
            repeat' first
              | (extract_lets +onlyGivenNames x; subst x)
              | with_reducible first
                  | assumption | apply State.cmdPage_in | apply foldl_in | apply inP_ite | apply in_ite
                  | apply foldl_inP
              | exact Foot.sub hft rfl
              | with_reducible refine InP.eq (by assumption) ?_
              | (with_reducible refine InP.fst ?_
                 with_reducible first
                   | assumption | apply State.cmdPage_in | apply foldl_inP)
              | split
              | intro _ _ _
              | intro _ _
              | with_reducible apply InP.pair
              | dsimp -zeta only
          clear_value x)
       | clear_value x
       | subst x)
    | with_reducible first
        | assumption | apply State.cmdPage_in | apply foldl_in | apply inP_ite | apply in_ite | apply foldl_inP
    | exact Foot.sub hft rfl
    | with_reducible refine InP.eq (by assumption) ?_
    | (with_reducible refine InP.fst ?_; with_reducible first | assumption | apply State.cmdPage_in | apply foldl_inP)
    | split
    | intro _ _ _
    | intro _ _
    | with_reducible apply InP.pair
    | dsimp -zeta only

def State.readTouch_foot : Foot := State.fillNow_foot ||| State.touch_foot
theorem State.readTouch_in {s : State} {obj : Nat} {o : Obj} {cls ln : Nat} (hks : In ft s0 s)
    (hft : State.readTouch_foot.le ft = true) :
    In ft s0 (State.readTouch s obj o cls ln) := by
  unfold State.readTouch
  repeat' first
    | (extract_lets +onlyGivenNames x; clear_value x)
    | with_reducible first | assumption | apply State.fillNow_in | apply State.touch_in | apply in_ite
    | exact Foot.sub hft rfl
    | split

def execRead_foot : Foot :=
  State.send_foot ||| State.updCmd_foot ||| State.mediaEvent_foot ||| State.probeLines_foot |||
    State.cmdEnd_foot ||| State.readyLines_foot ||| State.readTouch_foot
theorem execRead_in {uid : Nat} {bad : List Nat} {stop : Option Nat} {s : State} (hks : In ft s0 s)
    (hft : execRead_foot.le ft = true) :
    InOut ft s0 (execRead uid bad stop s) := by
  unfold execRead
  repeat' first
    | (extract_lets +onlyGivenNames x
       first
       | (have : In ft s0 x := by
            subst x
            repeat' first
              | (extract_lets +onlyGivenNames x; subst x)
              | with_reducible first
                  | assumption | apply State.when_in | apply State.send_in | apply State.each_in
                  | apply State.updCmd_in | apply State.mediaEvent_in | apply State.probeLines_in
                  | apply State.cmdEnd_in | apply State.readyLines_in | apply State.readTouch_in | apply inOut_ite
                  | apply in_ite | apply inP_ite | apply InOut.next
              | exact Foot.sub hft rfl
              | with_reducible exact Or.inl rfl
              | exact Or.inr (Foot.sub hft rfl)
              | with_reducible apply InMk.of
              | simp -zeta only [in_mk_iff]
              | with_reducible refine InP.eq (by assumption) ?_
              | (with_reducible refine InP.fst ?_
                 with_reducible first
                   | assumption | apply State.probeLines_in | apply State.readyLines_in)
              | split
              | intro _ _ _
              | intro _ _
              | with_reducible apply InP.pair
              | dsimp -zeta only
          clear_value x)
       | (have : InP ft s0 x := by
            subst x
            repeat' first
              | (extract_lets +onlyGivenNames x; subst x)
              | with_reducible first
                  | assumption | apply State.when_in | apply State.send_in | apply State.each_in
                  | apply State.updCmd_in | apply State.mediaEvent_in | apply State.probeLines_in
                  | apply State.cmdEnd_in | apply State.readyLines_in | apply State.readTouch_in | apply inOut_ite
                  | apply in_ite | apply inP_ite | apply InOut.next
              | exact Foot.sub hft rfl
              | with_reducible exact Or.inl rfl
              | exact Or.inr (Foot.sub hft rfl)
              | with_reducible apply InMk.of
              | simp -zeta only [in_mk_iff]
              | with_reducible refine InP.eq (by assumption) ?_
              | (with_reducible refine InP.fst ?_
                 with_reducible first
                   | assumption | apply State.probeLines_in | apply State.readyLines_in)
              | split
              | intro _ _ _
              | intro _ _
              | with_reducible apply InP.pair
              | dsimp -zeta only
          clear_value x)
       | clear_value x
       | subst x)
    | with_reducible first
        | assumption | apply State.when_in | apply State.send_in | apply State.each_in | apply State.updCmd_in
        | apply State.mediaEvent_in | apply State.probeLines_in | apply State.cmdEnd_in | apply State.readyLines_in
        | apply State.readTouch_in | apply inOut_ite | apply in_ite | apply inP_ite | apply InOut.next
    | exact Foot.sub hft rfl
    | with_reducible exact Or.inl rfl
    | exact Or.inr (Foot.sub hft rfl)
    | with_reducible apply InMk.of
    | simp -zeta only [in_mk_iff]
    | with_reducible refine InP.eq (by assumption) ?_
    | (with_reducible refine InP.fst ?_
       with_reducible first
         | assumption | apply State.probeLines_in | apply State.readyLines_in)
    | split
    | intro _ _ _
    | intro _ _
    | with_reducible apply InP.pair
    | dsimp -zeta only

def State.storeLine_foot : Foot :=
  State.chargeCp_foot ||| State.putWay_foot ||| State.install_foot ||| State.flushEvict_foot |||
    State.fillNow_foot ||| State.touch_foot ||| State.snoop_foot ||| State.stored_foot ||| State.storeBare_foot
theorem State.storeLine_in {s : State} {d cls : Nat} {obj : Nat} {o : Obj} {ln : Nat} {data : Line} {m : Mask}
    {poison : Bool} (hks : In ft s0 s) (hft : State.storeLine_foot.le ft = true) :
    InP ft s0 (State.storeLine s d cls obj o ln data m poison) := by
  unfold State.storeLine
  repeat' first
    | (extract_lets +onlyGivenNames x
       first
       | (have : In ft s0 x := by
            subst x
            repeat' first
              | (extract_lets +onlyGivenNames x; subst x)
              | with_reducible first
                  | assumption | apply State.each_in | apply State.chargeCp_in | apply State.putWay_in
                  | apply State.install_in | apply State.flushEvict_in | apply State.fillNow_in
                  | apply State.touch_in | apply State.snoop_in | apply State.stored_in | apply State.storeBare_in
                  | apply inP_ite | apply in_ite
              | exact Foot.sub hft rfl
              | split
              | intro _ _ _
              | intro _ _
              | with_reducible apply InP.pair
              | dsimp -zeta only
          clear_value x)
       | clear_value x
       | subst x)
    | with_reducible first
        | assumption | apply State.each_in | apply State.chargeCp_in | apply State.putWay_in | apply State.install_in
        | apply State.flushEvict_in | apply State.fillNow_in | apply State.touch_in | apply State.snoop_in
        | apply State.stored_in | apply State.storeBare_in | apply inP_ite | apply in_ite
    | exact Foot.sub hft rfl
    | split
    | intro _ _ _
    | intro _ _
    | with_reducible apply InP.pair
    | dsimp -zeta only

def State.storeLines_foot : Foot := State.storeLine_foot
theorem State.storeLines_in {s : State} {d cls : Nat} {obj : Nat} {o : Obj} {ws : List WLine} (hks : In ft s0 s)
    (hft : State.storeLines_foot.le ft = true) :
    InP ft s0 (State.storeLines s d cls obj o ws) := by
  unfold State.storeLines
  repeat' first
    | (extract_lets +onlyGivenNames x
       first
       | (have : In ft s0 x := by
            subst x
            repeat' first
              | with_reducible first | assumption | apply State.storeLine_in | apply foldl_in | apply foldl_inP
              | exact Foot.sub hft rfl
              | with_reducible refine InP.eq (by assumption) ?_
              | (with_reducible refine InP.fst ?_
                 with_reducible first
                   | assumption | apply State.storeLine_in | apply foldl_inP)
              | split
              | intro _ _ _
              | intro _ _
              | with_reducible apply InP.pair
              | dsimp -zeta only
          clear_value x)
       | (have : InP ft s0 x := by
            subst x
            repeat' first
              | with_reducible first | assumption | apply State.storeLine_in | apply foldl_in | apply foldl_inP
              | exact Foot.sub hft rfl
              | with_reducible refine InP.eq (by assumption) ?_
              | (with_reducible refine InP.fst ?_
                 with_reducible first
                   | assumption | apply State.storeLine_in | apply foldl_inP)
              | split
              | intro _ _ _
              | intro _ _
              | with_reducible apply InP.pair
              | dsimp -zeta only
          clear_value x)
       | clear_value x
       | subst x)
    | with_reducible first | assumption | apply State.storeLine_in | apply foldl_in | apply foldl_inP
    | exact Foot.sub hft rfl
    | with_reducible refine InP.eq (by assumption) ?_
    | (with_reducible refine InP.fst ?_
       with_reducible first
         | assumption | apply State.storeLine_in | apply foldl_inP)
    | split
    | intro _ _ _
    | intro _ _
    | with_reducible apply InP.pair
    | dsimp -zeta only

def State.cmdStore_foot : Foot :=
  State.updCmd_foot ||| State.entWait_foot ||| State.cmdEnd_foot ||| State.storeLines_foot
theorem State.cmdStore_in {s : State} {c : Cmd} {obj : Nat} {o : Obj} {ws : List WLine} {all : Bool}
    {stop : Option Nat} {bytes : Nat} (hks : In ft s0 s) (hft : State.cmdStore_foot.le ft = true) :
    In ft s0 (State.cmdStore s c obj o ws all stop bytes) := by
  unfold State.cmdStore
  repeat' first
    | (extract_lets +onlyGivenNames x
       first
       | (have : In ft s0 x := by
            subst x
            repeat' first
              | (extract_lets +onlyGivenNames x; subst x)
              | with_reducible first
                  | assumption | apply State.updCmd_in | apply State.entWait_in | apply State.cmdEnd_in
                  | apply State.storeLines_in | apply in_ite | apply inP_ite
              | exact Foot.sub hft rfl
              | with_reducible exact Or.inl rfl
              | exact Or.inr (Foot.sub hft rfl)
              | with_reducible apply InMk.of
              | simp -zeta only [in_mk_iff]
              | with_reducible refine InP.eq (by assumption) ?_
              | (with_reducible refine InP.fst ?_; with_reducible first | assumption | apply State.storeLines_in)
              | split
              | intro _ _ _
              | intro _ _
              | with_reducible apply InP.pair
              | dsimp -zeta only
          clear_value x)
       | (have : InP ft s0 x := by
            subst x
            repeat' first
              | (extract_lets +onlyGivenNames x; subst x)
              | with_reducible first
                  | assumption | apply State.updCmd_in | apply State.entWait_in | apply State.cmdEnd_in
                  | apply State.storeLines_in | apply in_ite | apply inP_ite
              | exact Foot.sub hft rfl
              | with_reducible exact Or.inl rfl
              | exact Or.inr (Foot.sub hft rfl)
              | with_reducible apply InMk.of
              | simp -zeta only [in_mk_iff]
              | with_reducible refine InP.eq (by assumption) ?_
              | (with_reducible refine InP.fst ?_; with_reducible first | assumption | apply State.storeLines_in)
              | split
              | intro _ _ _
              | intro _ _
              | with_reducible apply InP.pair
              | dsimp -zeta only
          clear_value x)
       | clear_value x
       | subst x)
    | with_reducible first
        | assumption | apply State.updCmd_in | apply State.entWait_in | apply State.cmdEnd_in
        | apply State.storeLines_in | apply in_ite | apply inP_ite
    | exact Foot.sub hft rfl
    | with_reducible exact Or.inl rfl
    | exact Or.inr (Foot.sub hft rfl)
    | with_reducible apply InMk.of
    | simp -zeta only [in_mk_iff]
    | with_reducible refine InP.eq (by assumption) ?_
    | (with_reducible refine InP.fst ?_; with_reducible first | assumption | apply State.storeLines_in)
    | split
    | intro _ _ _
    | intro _ _
    | with_reducible apply InP.pair
    | dsimp -zeta only

def State.cmdWrite_foot : Foot := State.probeLines_foot ||| State.readyLines_foot ||| State.cmdStore_foot
theorem State.cmdWrite_in {s : State} {c : Cmd} {o : Obj} {len upto : Nat} {byte : Nat → Nat} {pois bad : List Nat}
    {stop : Option Nat} (hks : In ft s0 s) (hft : State.cmdWrite_foot.le ft = true) :
    In ft s0 (State.cmdWrite s c o len upto byte pois bad stop) := by
  unfold State.cmdWrite
  repeat' first
    | (extract_lets +onlyGivenNames x
       first
       | (have : In ft s0 x := by
            subst x
            repeat' first
              | (extract_lets +onlyGivenNames x; subst x)
              | with_reducible first
                  | assumption | apply State.probeLines_in | apply State.readyLines_in | apply State.cmdStore_in
              | exact Foot.sub hft rfl
              | with_reducible refine InP.eq (by assumption) ?_
              | (with_reducible refine InP.fst ?_
                 with_reducible first
                   | assumption | apply State.probeLines_in | apply State.readyLines_in)
              | with_reducible apply InP.pair
              | dsimp -zeta only
          clear_value x)
       | (have : InP ft s0 x := by
            subst x
            repeat' first
              | (extract_lets +onlyGivenNames x; subst x)
              | with_reducible first
                  | assumption | apply State.probeLines_in | apply State.readyLines_in | apply State.cmdStore_in
              | exact Foot.sub hft rfl
              | with_reducible refine InP.eq (by assumption) ?_
              | (with_reducible refine InP.fst ?_
                 with_reducible first
                   | assumption | apply State.probeLines_in | apply State.readyLines_in)
              | with_reducible apply InP.pair
              | dsimp -zeta only
          clear_value x)
       | clear_value x
       | subst x)
    | with_reducible first
        | assumption | apply State.probeLines_in | apply State.readyLines_in | apply State.cmdStore_in
    | exact Foot.sub hft rfl
    | with_reducible refine InP.eq (by assumption) ?_
    | (with_reducible refine InP.fst ?_
       with_reducible first
         | assumption | apply State.probeLines_in | apply State.readyLines_in)
    | with_reducible apply InP.pair
    | dsimp -zeta only

def execWrite_foot : Foot := State.cmdWrite_foot
theorem execWrite_in {uid : Nat} {data : List Nat} {pois bad : List Nat} {stop : Option Nat} {s : State}
    (hks : In ft s0 s) (hft : execWrite_foot.le ft = true) :
    InOut ft s0 (execWrite uid data pois bad stop s) := by
  unfold execWrite
  repeat' first
    | (extract_lets +onlyGivenNames x
       first
       | (have : In ft s0 x := by
            subst x
            repeat' first
              | (extract_lets +onlyGivenNames x; subst x)
              | with_reducible first | assumption | apply State.cmdWrite_in | apply InOut.next
              | exact Foot.sub hft rfl
              | split
              | intro _ _ _
              | intro _ _
          clear_value x)
       | clear_value x
       | subst x)
    | with_reducible first | assumption | apply State.cmdWrite_in | apply InOut.next
    | exact Foot.sub hft rfl
    | split
    | intro _ _ _
    | intro _ _

def execFill_foot : Foot := State.cmdWrite_foot
theorem execFill_in {uid : Nat} {bad : List Nat} {s : State} (hks : In ft s0 s) (hft : execFill_foot.le ft = true) :
    InOut ft s0 (execFill uid bad s) := by
  unfold execFill
  repeat' first
    | (extract_lets +onlyGivenNames x
       first
       | (have : In ft s0 x := by
            subst x
            repeat' first
              | with_reducible first | assumption | apply State.cmdWrite_in | apply InOut.next
              | exact Foot.sub hft rfl
              | split
              | intro _ _ _
              | intro _ _
          clear_value x)
       | clear_value x
       | subst x)
    | with_reducible first | assumption | apply State.cmdWrite_in | apply InOut.next
    | exact Foot.sub hft rfl
    | split
    | intro _ _ _
    | intro _ _

def State.copyLine_foot : Foot :=
  State.updCmd_foot ||| State.entWait_foot ||| State.probeLines_foot ||| State.readyLines_foot |||
    State.storeLine_foot
theorem State.copyLine_in {uid len : Nat} {bad : List Nat} {o1 o2 : Obj} {x : State × Bool} {ln : Nat}
    (hx : InP ft s0 x) (hft : State.copyLine_foot.le ft = true) :
    InP ft s0 (State.copyLine uid len bad o1 o2 x ln) := by
  unfold State.copyLine
  repeat' first
    | (extract_lets +onlyGivenNames x
       first
       | (have : In ft s0 x := by
            subst x
            repeat' first
              | (extract_lets +onlyGivenNames x; subst x)
              | with_reducible first
                  | assumption | apply State.updCmd_in | apply State.entWait_in | apply State.probeLines_in
                  | apply State.readyLines_in | apply State.storeLine_in | apply inP_ite | apply in_ite
              | exact Foot.sub hft rfl
              | with_reducible exact Or.inl rfl
              | exact Or.inr (Foot.sub hft rfl)
              | with_reducible apply InMk.of
              | simp -zeta only [in_mk_iff]
              | with_reducible refine InP.eq (by assumption) ?_
              | (with_reducible refine InP.fst ?_
                 with_reducible first
                   | assumption | apply State.probeLines_in | apply State.readyLines_in | apply State.storeLine_in
                   | apply hx)
              | split
              | intro _ _ _
              | intro _ _
              | with_reducible apply InP.pair
              | dsimp -zeta only
          clear_value x)
       | (have : InP ft s0 x := by
            subst x
            repeat' first
              | (extract_lets +onlyGivenNames x; subst x)
              | with_reducible first
                  | assumption | apply State.updCmd_in | apply State.entWait_in | apply State.probeLines_in
                  | apply State.readyLines_in | apply State.storeLine_in | apply inP_ite | apply in_ite
              | exact Foot.sub hft rfl
              | with_reducible exact Or.inl rfl
              | exact Or.inr (Foot.sub hft rfl)
              | with_reducible apply InMk.of
              | simp -zeta only [in_mk_iff]
              | with_reducible refine InP.eq (by assumption) ?_
              | (with_reducible refine InP.fst ?_
                 with_reducible first
                   | assumption | apply State.probeLines_in | apply State.readyLines_in | apply State.storeLine_in
                   | apply hx)
              | split
              | intro _ _ _
              | intro _ _
              | with_reducible apply InP.pair
              | dsimp -zeta only
          clear_value x)
       | clear_value x
       | subst x)
    | with_reducible first
        | assumption | apply State.updCmd_in | apply State.entWait_in | apply State.probeLines_in
        | apply State.readyLines_in | apply State.storeLine_in | apply inP_ite | apply in_ite
    | exact Foot.sub hft rfl
    | with_reducible exact Or.inl rfl
    | exact Or.inr (Foot.sub hft rfl)
    | with_reducible apply InMk.of
    | simp -zeta only [in_mk_iff]
    | with_reducible refine InP.eq (by assumption) ?_
    | (with_reducible refine InP.fst ?_
       with_reducible first
         | assumption | apply State.probeLines_in | apply State.readyLines_in | apply State.storeLine_in | apply hx)
    | split
    | intro _ _ _
    | intro _ _
    | with_reducible apply InP.pair
    | dsimp -zeta only

def execCopy_foot : Foot := State.cmdEnd_foot ||| State.copyLine_foot
theorem execCopy_in {uid : Nat} {bad : List Nat} {s : State} (hks : In ft s0 s) (hft : execCopy_foot.le ft = true) :
    InOut ft s0 (execCopy uid bad s) := by
  unfold execCopy
  repeat' first
    | (extract_lets +onlyGivenNames x
       first
       | (have : In ft s0 x := by
            subst x
            repeat' first
              | (extract_lets +onlyGivenNames x; subst x)
              | with_reducible first
                  | assumption | apply State.cmdEnd_in | apply State.copyLine_in | apply foldl_in | apply inOut_ite
                  | apply in_ite | apply inP_ite | apply InOut.next | apply foldl_inP
              | exact Foot.sub hft rfl
              | with_reducible refine InP.eq (by assumption) ?_
              | (with_reducible refine InP.fst ?_
                 with_reducible first
                   | assumption | apply State.copyLine_in | apply foldl_inP)
              | split
              | intro _ _ _
              | intro _ _
              | with_reducible apply InP.pair
              | dsimp -zeta only
          clear_value x)
       | (have : InP ft s0 x := by
            subst x
            repeat' first
              | (extract_lets +onlyGivenNames x; subst x)
              | with_reducible first
                  | assumption | apply State.cmdEnd_in | apply State.copyLine_in | apply foldl_in | apply inOut_ite
                  | apply in_ite | apply inP_ite | apply InOut.next | apply foldl_inP
              | exact Foot.sub hft rfl
              | with_reducible refine InP.eq (by assumption) ?_
              | (with_reducible refine InP.fst ?_
                 with_reducible first
                   | assumption | apply State.copyLine_in | apply foldl_inP)
              | split
              | intro _ _ _
              | intro _ _
              | with_reducible apply InP.pair
              | dsimp -zeta only
          clear_value x)
       | clear_value x
       | subst x)
    | with_reducible first
        | assumption | apply State.cmdEnd_in | apply State.copyLine_in | apply foldl_in | apply inOut_ite
        | apply in_ite | apply inP_ite | apply InOut.next | apply foldl_inP
    | exact Foot.sub hft rfl
    | with_reducible refine InP.eq (by assumption) ?_
    | (with_reducible refine InP.fst ?_
       with_reducible first
         | assumption | apply State.copyLine_in | apply foldl_inP)
    | split
    | intro _ _ _
    | intro _ _
    | with_reducible apply InP.pair
    | dsimp -zeta only

def State.switchNew_foot : Foot :=
  State.chargeKey_foot ||| State.setMap_foot ||| State.setFrame_foot ||| State.releaseCp_foot |||
    State.writeDram_foot
theorem State.switchNew_in {s : State} {c : Cmd} {o : Obj} {ix tp f k : Nat} {byte : Nat → Nat} (hks : In ft s0 s)
    (hft : State.switchNew_foot.le ft = true) :
    In ft s0 (State.switchNew s c o ix tp f k byte) := by
  unfold State.switchNew
  repeat' first
    | (extract_lets +onlyGivenNames x
       first
       | (have : In ft s0 x := by
            subst x
            repeat' first
              | (extract_lets +onlyGivenNames x; subst x)
              | with_reducible first
                  | assumption | apply State.each_in | apply State.chargeKey_in | apply State.setMap_in
                  | apply State.setFrame_in | apply State.releaseCp_in | apply State.writeDram_in | apply in_ite
              | exact Foot.sub hft rfl
              | with_reducible exact Or.inl rfl
              | exact Or.inr (Foot.sub hft rfl)
              | with_reducible apply InMk.of
              | simp -zeta only [in_mk_iff]
              | split
              | intro _ _ _
              | intro _ _
          clear_value x)
       | clear_value x
       | subst x)
    | with_reducible first
        | assumption | apply State.each_in | apply State.chargeKey_in | apply State.setMap_in
        | apply State.setFrame_in | apply State.releaseCp_in | apply State.writeDram_in | apply in_ite
    | exact Foot.sub hft rfl
    | with_reducible exact Or.inl rfl
    | exact Or.inr (Foot.sub hft rfl)
    | with_reducible apply InMk.of
    | simp -zeta only [in_mk_iff]
    | split
    | intro _ _ _
    | intro _ _

def State.switchCopy_foot : Foot :=
  Part.stl.foot ||| Part.int.foot ||| State.dreq_foot ||| State.setDline_foot ||| State.putCp_foot |||
    State.redirty_foot
theorem State.switchCopy_in {s : State} {ix tp oldF f k : Nat} {bad : List Nat} (hks : In ft s0 s)
    (hft : State.switchCopy_foot.le ft = true) :
    In ft s0 (State.switchCopy s ix tp oldF f k bad) := by
  unfold State.switchCopy
  repeat' first
    | (extract_lets +onlyGivenNames x
       first
       | (have : In ft s0 x := by
            subst x
            repeat' first
              | (extract_lets +onlyGivenNames x; subst x)
              | with_reducible first
                  | assumption | apply State.each_in | apply State.dreq_in | apply State.setDline_in
                  | apply State.putCp_in | apply State.redirty_in | apply in_ite
              | exact Foot.sub hft rfl
              | with_reducible exact Or.inl rfl
              | exact Or.inr (Foot.sub hft rfl)
              | with_reducible apply InMk.of
              | simp -zeta only [in_mk_iff]
              | split
              | intro _ _ _
              | intro _ _
          clear_value x)
       | clear_value x
       | subst x)
    | with_reducible first
        | assumption | apply State.each_in | apply State.dreq_in | apply State.setDline_in | apply State.putCp_in
        | apply State.redirty_in | apply in_ite
    | exact Foot.sub hft rfl
    | with_reducible exact Or.inl rfl
    | exact Or.inr (Foot.sub hft rfl)
    | with_reducible apply InMk.of
    | simp -zeta only [in_mk_iff]
    | split
    | intro _ _ _
    | intro _ _

def State.switchPage_foot : Foot :=
  State.setMap_foot ||| State.takeFrame_foot ||| State.freeFrame_foot ||| State.switchNew_foot |||
    State.switchCopy_foot
theorem State.switchPage_in {s : State} {c : Cmd} {o : Obj} {tp : Nat} {byte : Nat → Nat} {bad : List Nat}
    (hks : In ft s0 s) (hft : State.switchPage_foot.le ft = true) :
    In ft s0 (State.switchPage s c o tp byte bad) := by
  unfold State.switchPage
  repeat' first
    | (extract_lets +onlyGivenNames x
       first
       | (have : In ft s0 x := by
            subst x
            repeat' first
              | (extract_lets +onlyGivenNames x; subst x)
              | with_reducible first
                  | assumption | apply State.each_in | apply State.setMap_in | apply State.takeFrame_in
                  | apply State.freeFrame_in | apply State.switchNew_in | apply State.switchCopy_in | apply in_ite
              | exact Foot.sub hft rfl
              | with_reducible exact Or.inl rfl
              | exact Or.inr (Foot.sub hft rfl)
              | with_reducible apply InMk.of
              | simp -zeta only [in_mk_iff]
              | split
              | intro _ _ _
              | intro _ _
          clear_value x)
       | clear_value x
       | subst x)
    | with_reducible first
        | assumption | apply State.each_in | apply State.setMap_in | apply State.takeFrame_in
        | apply State.freeFrame_in | apply State.switchNew_in | apply State.switchCopy_in | apply in_ite
    | exact Foot.sub hft rfl
    | with_reducible exact Or.inl rfl
    | exact Or.inr (Foot.sub hft rfl)
    | with_reducible apply InMk.of
    | simp -zeta only [in_mk_iff]
    | split
    | intro _ _ _
    | intro _ _

def State.sendGroup_foot : Foot := State.addRec_foot
theorem State.sendGroup_in {s : State} {c : Cmd} {o : Obj} {tps old : List Nat} (hks : In ft s0 s)
    (hft : State.sendGroup_foot.le ft = true) :
    In ft s0 (State.sendGroup s c o tps old) := by
  unfold State.sendGroup
  repeat' first
    | (extract_lets +onlyGivenNames x
       first
       | (have : In ft s0 x := by
            subst x
            repeat' first
              | (extract_lets +onlyGivenNames x; subst x)
              | with_reducible first
                  | assumption | apply State.each_in | apply State.addRec_in | apply foldl_in | apply in_ite
                  | apply inP_ite
              | exact Foot.sub hft rfl
              | split
              | intro _ _ _
              | intro _ _
              | with_reducible apply InP.pair
          clear_value x)
       | clear_value x
       | subst x)
    | with_reducible first
        | assumption | apply State.each_in | apply State.addRec_in | apply foldl_in | apply in_ite | apply inP_ite
    | exact Foot.sub hft rfl
    | split
    | intro _ _ _
    | intro _ _
    | with_reducible apply InP.pair

def State.mirAtomic_foot : Foot := Part.mir.foot ||| State.soloMark_foot ||| State.sendGroup_foot
theorem State.mirAtomic_in {s : State} {c : Cmd} {o : Obj} {tps old : List Nat} (hks : In ft s0 s)
    (hft : State.mirAtomic_foot.le ft = true) :
    In ft s0 (State.mirAtomic s c o tps old) := by
  unfold State.mirAtomic
  repeat' first
    | (extract_lets +onlyGivenNames x
       first
       | (have : In ft s0 x := by
            subst x
            repeat' first
              | with_reducible first
                  | assumption | apply State.when_in | apply State.each_in | apply State.soloMark_in
                  | apply State.sendGroup_in | apply in_ite
              | exact Foot.sub hft rfl
              | with_reducible exact Or.inl rfl
              | exact Or.inr (Foot.sub hft rfl)
              | with_reducible apply InMk.of
              | simp -zeta only [in_mk_iff]
              | split
              | intro _ _ _
              | intro _ _
          clear_value x)
       | clear_value x
       | subst x)
    | with_reducible first
        | assumption | apply State.when_in | apply State.each_in | apply State.soloMark_in | apply State.sendGroup_in
        | apply in_ite
    | exact Foot.sub hft rfl
    | with_reducible exact Or.inl rfl
    | exact Or.inr (Foot.sub hft rfl)
    | with_reducible apply InMk.of
    | simp -zeta only [in_mk_iff]
    | split
    | intro _ _ _
    | intro _ _

def execWriteAtomic_foot : Foot :=
  State.journal_foot ||| State.cleanFrame_foot ||| State.updCmd_foot ||| State.entWait_foot |||
    State.rerun_foot ||| State.probeLines_foot ||| State.invalFrames_foot ||| State.cmdOk_foot |||
    State.cmdErr_foot ||| State.cmdPages_foot ||| State.switchPage_foot ||| State.mirAtomic_foot
theorem execWriteAtomic_in {uid : Nat} {data : List Nat} {bad : List Nat} {stop : Bool} {s : State}
    (hks : In ft s0 s) (hft : execWriteAtomic_foot.le ft = true) :
    InOut ft s0 (execWriteAtomic uid data bad stop s) := by
  unfold execWriteAtomic
  repeat' first
    | (extract_lets +onlyGivenNames x
       first
       | (have : In ft s0 x := by
            subst x
            repeat' first
              | (extract_lets +onlyGivenNames x; subst x)
              | with_reducible first
                  | assumption | apply State.when_in | apply State.each_in | apply State.journal_in
                  | apply State.cleanFrame_in | apply State.updCmd_in | apply State.entWait_in | apply State.rerun_in
                  | apply State.probeLines_in | apply State.invalFrames_in | apply State.cmdOk_in
                  | apply State.cmdErr_in | apply State.cmdPages_in | apply State.switchPage_in
                  | apply State.mirAtomic_in | apply inOut_ite | apply in_ite | apply inP_ite | apply InOut.next
              | exact Foot.sub hft rfl
              | with_reducible exact Or.inl rfl
              | exact Or.inr (Foot.sub hft rfl)
              | with_reducible apply InMk.of
              | simp -zeta only [in_mk_iff]
              | with_reducible refine InP.eq (by assumption) ?_
              | (with_reducible refine InP.fst ?_
                 with_reducible first
                   | assumption | apply State.probeLines_in | apply State.cmdPages_in)
              | split
              | intro _ _ _
              | intro _ _
              | with_reducible apply InP.pair
              | dsimp -zeta only
          clear_value x)
       | (have : InP ft s0 x := by
            subst x
            repeat' first
              | (extract_lets +onlyGivenNames x; subst x)
              | with_reducible first
                  | assumption | apply State.when_in | apply State.each_in | apply State.journal_in
                  | apply State.cleanFrame_in | apply State.updCmd_in | apply State.entWait_in | apply State.rerun_in
                  | apply State.probeLines_in | apply State.invalFrames_in | apply State.cmdOk_in
                  | apply State.cmdErr_in | apply State.cmdPages_in | apply State.switchPage_in
                  | apply State.mirAtomic_in | apply inOut_ite | apply in_ite | apply inP_ite | apply InOut.next
              | exact Foot.sub hft rfl
              | with_reducible exact Or.inl rfl
              | exact Or.inr (Foot.sub hft rfl)
              | with_reducible apply InMk.of
              | simp -zeta only [in_mk_iff]
              | with_reducible refine InP.eq (by assumption) ?_
              | (with_reducible refine InP.fst ?_
                 with_reducible first
                   | assumption | apply State.probeLines_in | apply State.cmdPages_in)
              | split
              | intro _ _ _
              | intro _ _
              | with_reducible apply InP.pair
              | dsimp -zeta only
          clear_value x)
       | clear_value x
       | subst x)
    | with_reducible first
        | assumption | apply State.when_in | apply State.each_in | apply State.journal_in | apply State.cleanFrame_in
        | apply State.updCmd_in | apply State.entWait_in | apply State.rerun_in | apply State.probeLines_in
        | apply State.invalFrames_in | apply State.cmdOk_in | apply State.cmdErr_in | apply State.cmdPages_in
        | apply State.switchPage_in | apply State.mirAtomic_in | apply inOut_ite | apply in_ite | apply inP_ite
        | apply InOut.next
    | exact Foot.sub hft rfl
    | with_reducible exact Or.inl rfl
    | exact Or.inr (Foot.sub hft rfl)
    | with_reducible apply InMk.of
    | simp -zeta only [in_mk_iff]
    | with_reducible refine InP.eq (by assumption) ?_
    | (with_reducible refine InP.fst ?_
       with_reducible first
         | assumption | apply State.probeLines_in | apply State.cmdPages_in)
    | split
    | intro _ _ _
    | intro _ _
    | with_reducible apply InP.pair
    | dsimp -zeta only

end Sys2Proof.Machine
end

