-- ==== Sys2Proof/Laws/FrameTierOps.lean ====
section
/-! SUPPORT. The footprints of the operations of Machine/TierOps (Laws/Frame). -/

namespace Sys2Proof.Machine

variable {ft : Foot} {s0 : State}

def State.vaultRegs_foot : Foot := Fld.VAULT_CAP_MIB.foot ||| Fld.VAULT_FREE_MIB.foot
theorem State.vaultRegs_in {s : State} (hks : In ft s0 s) (hft : State.vaultRegs_foot.le ft = true) :
    In ft s0 (State.vaultRegs s) := by
  unfold State.vaultRegs
  repeat' first
    | (extract_lets +onlyGivenNames x; clear_value x)
    | with_reducible first | assumption | apply State.wr_in
    | exact Foot.sub hft rfl

def State.rehomeCount_foot : Foot := Fld.REHOME_LEFT.foot
theorem State.rehomeCount_in {s : State} (hks : In ft s0 s) (hft : State.rehomeCount_foot.le ft = true) :
    In ft s0 (State.rehomeCount s) := by
  unfold State.rehomeCount
  repeat' first
    | with_reducible first | assumption | apply State.wr_in | apply foldl_in
    | exact Foot.sub hft rfl
    | intro _ _ _
    | intro _ _
    | with_reducible apply InP.pair

def State.ledgerRegs_foot : Foot :=
  Fld.OBJ_COUNT.foot ||| Fld.MAP_USED.foot ||| Fld.RESERVED_TP.foot ||| State.vaultRegs_foot |||
    State.rehomeCount_foot
theorem State.ledgerRegs_in {s : State} (hks : In ft s0 s) (hft : State.ledgerRegs_foot.le ft = true) :
    In ft s0 (State.ledgerRegs s) := by
  unfold State.ledgerRegs
  repeat' first
    | (extract_lets +onlyGivenNames x
       first
       | (have : In ft s0 x := by
            subst x
            repeat' first
              | (extract_lets +onlyGivenNames x; subst x)
              | with_reducible first
                  | assumption | apply State.wr_in | apply State.vaultRegs_in | apply State.rehomeCount_in
              | exact Foot.sub hft rfl
          clear_value x)
       | clear_value x
       | subst x)
    | with_reducible first | assumption | apply State.wr_in | apply State.vaultRegs_in | apply State.rehomeCount_in
    | exact Foot.sub hft rfl

def State.refsReg_foot : Foot := Fld.REFS.foot
theorem State.refsReg_in {s : State} {k : Nat} (hks : In ft s0 s) (hft : State.refsReg_foot.le ft = true) :
    In ft s0 (State.refsReg s k) := by
  unfold State.refsReg
  repeat' first
    | with_reducible first | assumption | apply State.wri_in
    | exact Foot.sub hft rfl

def State.takeHomes_foot : Foot := Part.nfc.foot
theorem State.takeHomes_in {s : State} {obj first : Nat} {ops : List JOp} (hks : In ft s0 s)
    (hft : State.takeHomes_foot.le ft = true) :
    In ft s0 (State.takeHomes s obj first ops) := by
  unfold State.takeHomes
  repeat' first
    | (extract_lets +onlyGivenNames x; clear_value x)
    | with_reducible first | assumption | apply in_ite
    | exact Foot.sub hft rfl
    | with_reducible exact Or.inl rfl
    | exact Or.inr (Foot.sub hft rfl)
    | with_reducible apply InMk.of
    | simp -zeta only [in_mk_iff]
    | split

def State.shadowBack_foot : Foot := Part.nfc.foot
theorem State.shadowBack_in {s : State} {n : Nat} (hks : In ft s0 s) (hft : State.shadowBack_foot.le ft = true) :
    In ft s0 (State.shadowBack s n) := by
  unfold State.shadowBack
  repeat' first
    | (extract_lets +onlyGivenNames x
       first
       | (have : In ft s0 x := by
            subst x
            repeat' first
              | (extract_lets +onlyGivenNames x; subst x)
              | with_reducible first | assumption | apply foldl_in
              | exact Foot.sub hft rfl
              | with_reducible exact Or.inl rfl
              | exact Or.inr (Foot.sub hft rfl)
              | with_reducible apply InMk.of
              | simp -zeta only [in_mk_iff]
              | split
              | intro _ _ _
              | intro _ _
              | with_reducible apply InP.pair
          clear_value x)
       | clear_value x
       | subst x)
    | with_reducible first | assumption | apply foldl_in
    | exact Foot.sub hft rfl
    | with_reducible exact Or.inl rfl
    | exact Or.inr (Foot.sub hft rfl)
    | with_reducible apply InMk.of
    | simp -zeta only [in_mk_iff]
    | split
    | intro _ _ _
    | intro _ _
    | with_reducible apply InP.pair

def State.shadowTrim_foot : Foot := Part.nfc.foot
theorem State.shadowTrim_in {s : State} (hks : In ft s0 s) (hft : State.shadowTrim_foot.le ft = true) :
    In ft s0 (State.shadowTrim s) := by
  unfold State.shadowTrim
  repeat' first
    | (extract_lets +onlyGivenNames x
       first
       | (have : In ft s0 x := by
            subst x
            repeat' first
              | with_reducible first | assumption
              | exact Foot.sub hft rfl
              | with_reducible exact Or.inl rfl
              | exact Or.inr (Foot.sub hft rfl)
              | with_reducible apply InMk.of
              | simp -zeta only [in_mk_iff]
          clear_value x)
       | clear_value x
       | subst x)
    | with_reducible first | assumption
    | exact Foot.sub hft rfl
    | with_reducible exact Or.inl rfl
    | exact Or.inr (Foot.sub hft rfl)
    | with_reducible apply InMk.of
    | simp -zeta only [in_mk_iff]

def State.loadCold_foot : Foot := State.putCp_foot
theorem State.loadCold_in {s : State} {obj tp : Nat} {e : MapE} {f : Nat} {bad : List Nat} (hks : In ft s0 s)
    (hft : State.loadCold_foot.le ft = true) :
    In ft s0 (State.loadCold s obj tp e f bad) := by
  unfold State.loadCold
  repeat' first
    | (extract_lets +onlyGivenNames x; clear_value x)
    | with_reducible first | assumption | apply State.each_in | apply State.putCp_in | apply in_ite
    | exact Foot.sub hft rfl
    | split
    | intro _ _ _
    | intro _ _

def State.answerReq_foot : Foot := State.doneWrite_foot ||| State.doneRead_foot
theorem State.answerReq_in {s : State} {r : HostReq} {d : DLine} (hks : In ft s0 s)
    (hft : State.answerReq_foot.le ft = true) :
    In ft s0 (State.answerReq s r d) := by
  unfold State.answerReq
  repeat' first
    | with_reducible first | assumption | apply State.doneWrite_in | apply State.doneRead_in | apply in_ite
    | exact Foot.sub hft rfl
    | split

def State.answerAt_foot : Foot := State.answerReq_foot
theorem State.answerAt_in {s : State} {la : Nat} {q : Req} (hks : In ft s0 s)
    (hft : State.answerAt_foot.le ft = true) :
    In ft s0 (State.answerAt s la q) := by
  unfold State.answerAt
  repeat' first
    | with_reducible first | assumption | apply State.answerReq_in
    | exact Foot.sub hft rfl
    | split

def State.answerMrs_foot : Foot := Part.fch.foot ||| State.missQueue_foot ||| State.answerAt_foot
theorem State.answerMrs_in {s : State} {f : Nat} (hks : In ft s0 s) (hft : State.answerMrs_foot.le ft = true) :
    In ft s0 (State.answerMrs s f) := by
  unfold State.answerMrs
  repeat' first
    | (extract_lets +onlyGivenNames x
       first
       | (have : In ft s0 x := by
            subst x
            repeat' first
              | (extract_lets +onlyGivenNames x; subst x)
              | with_reducible first
                  | assumption | apply State.each_in | apply State.missQueue_in | apply State.answerAt_in
              | exact Foot.sub hft rfl
              | with_reducible exact Or.inl rfl
              | exact Or.inr (Foot.sub hft rfl)
              | with_reducible apply InMk.of
              | simp -zeta only [in_mk_iff]
              | intro _ _ _
              | intro _ _
          clear_value x)
       | clear_value x
       | subst x)
    | with_reducible first | assumption | apply State.each_in | apply State.missQueue_in | apply State.answerAt_in
    | exact Foot.sub hft rfl
    | with_reducible exact Or.inl rfl
    | exact Or.inr (Foot.sub hft rfl)
    | with_reducible apply InMk.of
    | simp -zeta only [in_mk_iff]
    | intro _ _ _
    | intro _ _

def State.ctxGone_foot : Foot := State.freeNext_foot ||| State.putCtx_foot
theorem State.ctxGone_in {s : State} {x psn tp : Nat} {line : Nat → DLine} (hks : In ft s0 s)
    (hft : State.ctxGone_foot.le ft = true) :
    In ft s0 (State.ctxGone s x psn tp line) := by
  unfold State.ctxGone
  repeat' first
    | (extract_lets +onlyGivenNames x
       first
       | (have : In ft s0 x := by
            subst x
            repeat' first
              | (extract_lets +onlyGivenNames x; subst x)
              | with_reducible first | assumption | apply State.freeNext_in | apply State.putCtx_in | apply in_ite
              | exact Foot.sub hft rfl
              | with_reducible exact Or.inl rfl
              | exact Or.inr (Foot.sub hft rfl)
              | with_reducible apply InMk.of
              | simp -zeta only [in_mk_iff]
              | split
          clear_value x)
       | clear_value x
       | subst x)
    | with_reducible first | assumption | apply State.freeNext_in | apply State.putCtx_in | apply in_ite
    | exact Foot.sub hft rfl
    | with_reducible exact Or.inl rfl
    | exact Or.inr (Foot.sub hft rfl)
    | with_reducible apply InMk.of
    | simp -zeta only [in_mk_iff]
    | split

def State.answerGone_foot : Foot :=
  Part.waits.foot ||| State.stallEnd_foot ||| State.answerReq_foot ||| State.answerMrs_foot ||| State.ctxGone_foot
theorem State.answerGone_in {s : State} {m : Move} (hks : In ft s0 s) (hft : State.answerGone_foot.le ft = true) :
    In ft s0 (State.answerGone s m) := by
  unfold State.answerGone
  repeat' first
    | (extract_lets +onlyGivenNames x
       first
       | (have : In ft s0 x := by
            subst x
            repeat' first
              | (extract_lets +onlyGivenNames x; subst x)
              | with_reducible first
                  | assumption | apply State.each_in | apply State.stallEnd_in | apply State.answerReq_in
                  | apply State.answerMrs_in | apply State.ctxGone_in
              | exact Foot.sub hft rfl
              | with_reducible exact Or.inl rfl
              | exact Or.inr (Foot.sub hft rfl)
              | with_reducible apply InMk.of
              | simp -zeta only [in_mk_iff]
              | split
              | intro _ _ _
              | intro _ _
          clear_value x)
       | clear_value x
       | subst x)
    | with_reducible first
        | assumption | apply State.each_in | apply State.stallEnd_in | apply State.answerReq_in
        | apply State.answerMrs_in | apply State.ctxGone_in
    | exact Foot.sub hft rfl
    | with_reducible exact Or.inl rfl
    | exact Or.inr (Foot.sub hft rfl)
    | with_reducible apply InMk.of
    | simp -zeta only [in_mk_iff]
    | split
    | intro _ _ _
    | intro _ _

def State.discardFrame_foot : Foot := Part.fch.foot
theorem State.discardFrame_in {s : State} {f : Nat} (hks : In ft s0 s) (hft : State.discardFrame_foot.le ft = true) :
    In ft s0 (State.discardFrame s f) := by
  unfold State.discardFrame
  repeat' first
    | (extract_lets +onlyGivenNames x; clear_value x)
    | with_reducible first | assumption
    | exact Foot.sub hft rfl
    | with_reducible exact Or.inl rfl
    | exact Or.inr (Foot.sub hft rfl)
    | with_reducible apply InMk.of
    | simp -zeta only [in_mk_iff]

def State.endOrphan_foot : Foot :=
  State.freeFrame_foot ||| State.dropMove_foot ||| State.answerGone_foot ||| State.discardFrame_foot
theorem State.endOrphan_in {s : State} {m : Move} (hks : In ft s0 s) (hft : State.endOrphan_foot.le ft = true) :
    In ft s0 (State.endOrphan s m) := by
  unfold State.endOrphan
  repeat' first
    | with_reducible first
        | assumption | apply State.freeFrame_in | apply State.dropMove_in | apply State.answerGone_in
        | apply State.discardFrame_in
    | exact Foot.sub hft rfl

def State.answerCold_foot : Foot :=
  Part.waits.foot ||| State.freeNext_foot ||| State.stallEnd_foot ||| State.answerReq_foot ||| State.ctxGone_foot
theorem State.answerCold_in {s : State} {obj tp : Nat} {e : MapE} (hks : In ft s0 s)
    (hft : State.answerCold_foot.le ft = true) :
    In ft s0 (State.answerCold s obj tp e) := by
  unfold State.answerCold
  repeat' first
    | (extract_lets +onlyGivenNames x
       first
       | (have : In ft s0 x := by
            subst x
            repeat' first
              | (extract_lets +onlyGivenNames x; subst x)
              | with_reducible first
                  | assumption | apply State.freeNext_in | apply State.each_in | apply State.stallEnd_in
                  | apply State.answerReq_in | apply State.ctxGone_in
              | exact Foot.sub hft rfl
              | with_reducible exact Or.inl rfl
              | exact Or.inr (Foot.sub hft rfl)
              | with_reducible apply InMk.of
              | simp -zeta only [in_mk_iff]
              | split
              | intro _ _ _
              | intro _ _
          clear_value x)
       | clear_value x
       | subst x)
    | with_reducible first
        | assumption | apply State.freeNext_in | apply State.each_in | apply State.stallEnd_in
        | apply State.answerReq_in | apply State.ctxGone_in
    | exact Foot.sub hft rfl
    | with_reducible exact Or.inl rfl
    | exact Or.inr (Foot.sub hft rfl)
    | with_reducible apply InMk.of
    | simp -zeta only [in_mk_iff]
    | split
    | intro _ _ _
    | intro _ _

def State.freePage_foot : Foot :=
  Part.waits.foot ||| State.freeFrame_foot ||| State.releasePage_foot ||| State.updMove_foot |||
    State.cancelMove_foot ||| State.loadCold_foot ||| State.answerMrs_foot ||| State.discardFrame_foot |||
    State.answerCold_foot
theorem State.freePage_in {s : State} {obj : Nat} {o : Obj} {tp : Nat} (hks : In ft s0 s)
    (hft : State.freePage_foot.le ft = true) :
    In ft s0 (State.freePage s obj o tp) := by
  unfold State.freePage
  repeat' first
    | (extract_lets +onlyGivenNames x
       first
       | (have : In ft s0 x := by
            subst x
            repeat' first
              | (extract_lets +onlyGivenNames x; subst x)
              | with_reducible first
                  | assumption | apply State.each_in | apply State.freeFrame_in | apply State.releasePage_in
                  | apply State.updMove_in | apply State.cancelMove_in | apply State.loadCold_in
                  | apply State.answerMrs_in | apply State.discardFrame_in | apply State.answerCold_in | apply in_ite
              | exact Foot.sub hft rfl
              | with_reducible exact Or.inl rfl
              | exact Or.inr (Foot.sub hft rfl)
              | with_reducible apply InMk.of
              | simp -zeta only [in_mk_iff]
              | split
              | intro _ _ _
              | intro _ _
          clear_value x)
       | clear_value x
       | subst x)
    | with_reducible first
        | assumption | apply State.each_in | apply State.freeFrame_in | apply State.releasePage_in
        | apply State.updMove_in | apply State.cancelMove_in | apply State.loadCold_in | apply State.answerMrs_in
        | apply State.discardFrame_in | apply State.answerCold_in | apply in_ite
    | exact Foot.sub hft rfl
    | with_reducible exact Or.inl rfl
    | exact Or.inr (Foot.sub hft rfl)
    | with_reducible apply InMk.of
    | simp -zeta only [in_mk_iff]
    | split
    | intro _ _ _
    | intro _ _

def State.cutEntries_foot : Foot := Part.tpe.foot ||| State.streamEnds_foot
theorem State.cutEntries_in {s : State} {obj n : Nat} (hks : In ft s0 s) (hft : State.cutEntries_foot.le ft = true) :
    In ft s0 (State.cutEntries s obj n) := by
  unfold State.cutEntries
  repeat' first
    | (extract_lets +onlyGivenNames x
       first
       | (have : In ft s0 x := by
            subst x
            repeat' first
              | with_reducible first
                  | assumption | apply State.streamEnds_in | apply foldl_in | apply in_ite | apply inP_ite
              | exact Foot.sub hft rfl
              | with_reducible exact Or.inl rfl
              | exact Or.inr (Foot.sub hft rfl)
              | with_reducible apply InMk.of
              | simp -zeta only [in_mk_iff]
              | split
              | intro _ _ _
              | intro _ _
              | with_reducible apply InP.pair
          clear_value x)
       | clear_value x
       | subst x)
    | with_reducible first | assumption | apply State.streamEnds_in | apply foldl_in | apply in_ite | apply inP_ite
    | exact Foot.sub hft rfl
    | with_reducible exact Or.inl rfl
    | exact Or.inr (Foot.sub hft rfl)
    | with_reducible apply InMk.of
    | simp -zeta only [in_mk_iff]
    | split
    | intro _ _ _
    | intro _ _
    | with_reducible apply InP.pair

def State.moveAcct_foot : Foot := Fld.TALLY.foot ||| State.setFrame_foot ||| State.ceilFlag_foot
theorem State.moveAcct_in {s : State} {f d : Nat} (hks : In ft s0 s) (hft : State.moveAcct_foot.le ft = true) :
    In ft s0 (State.moveAcct s f d) := by
  unfold State.moveAcct
  repeat' first
    | (extract_lets +onlyGivenNames x
       first
       | (have : In ft s0 x := by
            subst x
            repeat' first
              | with_reducible first
                  | assumption | apply State.wri_in | apply State.setFrame_in | apply State.ceilFlag_in
              | exact Foot.sub hft rfl
              | with_reducible exact Or.inl rfl
              | exact Or.inr (Foot.sub hft rfl)
              | with_reducible apply InMk.of
              | simp -zeta only [in_mk_iff]
              | split
          clear_value x)
       | clear_value x
       | subst x)
    | with_reducible first | assumption | apply State.wri_in | apply State.setFrame_in | apply State.ceilFlag_in
    | exact Foot.sub hft rfl
    | with_reducible exact Or.inl rfl
    | exact Or.inr (Foot.sub hft rfl)
    | with_reducible apply InMk.of
    | simp -zeta only [in_mk_iff]
    | split

def State.passAcct_foot : Foot := State.moveAcct_foot
theorem State.passAcct_in {s : State} {obj d : Nat} {o : Obj} (hks : In ft s0 s)
    (hft : State.passAcct_foot.le ft = true) :
    In ft s0 (State.passAcct s obj d o) := by
  unfold State.passAcct
  repeat' first
    | with_reducible first | assumption | apply State.each_in | apply State.moveAcct_in
    | exact Foot.sub hft rfl
    | split
    | intro _ _ _
    | intro _ _

def State.dropHold_foot : Foot := State.journal_foot ||| State.mirMeta_foot ||| State.passAcct_foot
theorem State.dropHold_in {s : State} {obj d : Nat} (hks : In ft s0 s) (hft : State.dropHold_foot.le ft = true) :
    In ft s0 (State.dropHold s obj d) := by
  unfold State.dropHold
  repeat' first
    | (extract_lets +onlyGivenNames x
       first
       | (have : In ft s0 x := by
            subst x
            repeat' first
              | (extract_lets +onlyGivenNames x; subst x)
              | with_reducible first
                  | assumption | apply State.journal_in | apply State.mirMeta_in | apply State.passAcct_in
                  | apply in_ite
              | exact Foot.sub hft rfl
              | with_reducible exact Or.inl rfl
              | exact Or.inr (Foot.sub hft rfl)
              | with_reducible apply InMk.of
              | simp -zeta only [in_mk_iff]
              | split
          clear_value x)
       | clear_value x
       | subst x)
    | with_reducible first
        | assumption | apply State.journal_in | apply State.mirMeta_in | apply State.passAcct_in | apply in_ite
    | exact Foot.sub hft rfl
    | with_reducible exact Or.inl rfl
    | exact Or.inr (Foot.sub hft rfl)
    | with_reducible apply InMk.of
    | simp -zeta only [in_mk_iff]
    | split

def State.attachMove_foot : Foot := State.updMove_foot
theorem State.attachMove_in {s : State} {m : Move} {src : MSrc} (hks : In ft s0 s)
    (hft : State.attachMove_foot.le ft = true) :
    In ft s0 (State.attachMove s m src) := by
  unfold State.attachMove
  repeat' first
    | (extract_lets +onlyGivenNames x; clear_value x)
    | with_reducible first | assumption | apply State.updMove_in
    | exact Foot.sub hft rfl
    | with_reducible exact Or.inl rfl
    | exact Or.inr (Foot.sub hft rfl)
    | with_reducible apply InMk.of
    | simp -zeta only [in_mk_iff]
    | intro _ _ _
    | intro _ _

def State.queuePromote_foot : Foot := State.queueMove_foot
theorem State.queuePromote_in {s : State} {obj : Nat} {o : Obj} {tp : Nat} {src : MSrc} {d deadline : Nat}
    (hks : In ft s0 s) (hft : State.queuePromote_foot.le ft = true) :
    In ft s0 (State.queuePromote s obj o tp src d deadline) := by
  unfold State.queuePromote
  repeat' first
    | with_reducible first | assumption | apply State.queueMove_in
    | exact Foot.sub hft rfl

def State.mapDreq_foot : Foot := State.dreq_foot
theorem State.mapDreq_in {s : State} {old new n : Nat} (hks : In ft s0 s) (hft : State.mapDreq_foot.le ft = true) :
    In ft s0 (State.mapDreq s old new n) := by
  unfold State.mapDreq
  repeat' first
    | (extract_lets +onlyGivenNames x
       first
       | (have : In ft s0 x := by
            subst x
            repeat' first
              | with_reducible first | assumption | apply State.dreq_in
              | exact Foot.sub hft rfl
              | split
          clear_value x)
       | clear_value x
       | subst x)
    | with_reducible first | assumption | apply State.dreq_in
    | exact Foot.sub hft rfl
    | split

def State.queueDemote_foot : Foot := State.queueMove_foot
theorem State.queueDemote_in {s : State} {obj tp : Nat} {dest : PgSt} {src : MSrc} {d deadline : Nat}
    (hks : In ft s0 s) (hft : State.queueDemote_foot.le ft = true) :
    In ft s0 (State.queueDemote s obj tp dest src d deadline) := by
  unfold State.queueDemote
  repeat' first
    | with_reducible first | assumption | apply State.queueMove_in
    | exact Foot.sub hft rfl

def State.promotePages_foot : Foot := State.cancelMove_foot ||| State.attachMove_foot ||| State.queuePromote_foot
theorem State.promotePages_in {s : State} {obj : Nat} {o : Obj} {tps : List Nat} {src : MSrc} {d : Nat}
    (hks : In ft s0 s) (hft : State.promotePages_foot.le ft = true) :
    InP ft s0 (State.promotePages s obj o tps src d) := by
  unfold State.promotePages
  repeat' first
    | (extract_lets +onlyGivenNames x; clear_value x)
    | with_reducible first
        | assumption | apply State.cancelMove_in | apply State.attachMove_in | apply State.queuePromote_in
        | apply foldl_in | apply foldl_inP
    | exact Foot.sub hft rfl
    | with_reducible exact Or.inl rfl
    | exact Or.inr (Foot.sub hft rfl)
    | with_reducible apply InMk.of
    | simp -zeta only [in_mk_iff]
    | (with_reducible refine InP.fst ?_; with_reducible first | assumption | apply foldl_inP)
    | split
    | intro _ _ _
    | intro _ _
    | with_reducible apply InP.pair
    | dsimp -zeta only

def State.demotePages_foot : Foot :=
  Part.out.foot ||| State.cancelMove_foot ||| State.attachMove_foot ||| State.queueDemote_foot
theorem State.demotePages_in {s : State} {obj : Nat} {o : Obj} {tps : List Nat} {dest : PgSt} {d : Nat}
    (hks : In ft s0 s) (hft : State.demotePages_foot.le ft = true) :
    InP ft s0 (State.demotePages s obj o tps dest d) := by
  unfold State.demotePages
  repeat' first
    | (extract_lets +onlyGivenNames x
       first
       | (have : In ft s0 x := by
            subst x
            repeat' first
              | (extract_lets +onlyGivenNames x; subst x)
              | with_reducible first
                  | assumption | apply State.cancelMove_in | apply State.attachMove_in | apply State.queueDemote_in
                  | apply foldl_in | apply inP_ite | apply in_ite | apply foldl_inP
              | exact Foot.sub hft rfl
              | with_reducible exact Or.inl rfl
              | exact Or.inr (Foot.sub hft rfl)
              | with_reducible apply InMk.of
              | simp -zeta only [in_mk_iff]
              | (with_reducible refine InP.fst ?_; with_reducible first | assumption | apply foldl_inP)
              | split
              | intro _ _ _
              | intro _ _
              | with_reducible apply InP.pair
              | dsimp -zeta only
          clear_value x)
       | clear_value x
       | subst x)
    | with_reducible first
        | assumption | apply State.cancelMove_in | apply State.attachMove_in | apply State.queueDemote_in
        | apply foldl_in | apply inP_ite | apply in_ite | apply foldl_inP
    | exact Foot.sub hft rfl
    | with_reducible exact Or.inl rfl
    | exact Or.inr (Foot.sub hft rfl)
    | with_reducible apply InMk.of
    | simp -zeta only [in_mk_iff]
    | (with_reducible refine InP.fst ?_; with_reducible first | assumption | apply foldl_inP)
    | split
    | intro _ _ _
    | intro _ _
    | with_reducible apply InP.pair
    | dsimp -zeta only

end Sys2Proof.Machine
end

