-- ==== Sys2Proof/Laws/FrameChecks.lean ====
section
/-! SUPPORT. The footprints of the operations of Machine/Checks (Laws/Frame). -/

namespace Sys2Proof.Machine

variable {ft : Foot} {s0 : State}

def State.admitMeta_foot : Foot := Part.jr.foot ||| State.chargeJPage_foot ||| State.updCmd_foot
theorem State.admitMeta_in {s : State} {c : Cmd} (hks : In ft s0 s) (hft : State.admitMeta_foot.le ft = true) :
    In ft s0 (State.admitMeta s c) := by
  unfold State.admitMeta
  repeat' first
    | (extract_lets +onlyGivenNames x
       first
       | (have : In ft s0 x := by
            subst x
            repeat' first
              | with_reducible first | assumption | apply State.chargeJPage_in | apply State.updCmd_in | apply in_ite
              | exact Foot.sub hft rfl
              | with_reducible exact Or.inl rfl
              | exact Or.inr (Foot.sub hft rfl)
              | with_reducible apply InMk.of
              | simp -zeta only [in_mk_iff]
              | split
              | intro _ _ _
              | intro _ _
          clear_value x)
       | clear_value x
       | subst x)
    | with_reducible first | assumption | apply State.chargeJPage_in | apply State.updCmd_in | apply in_ite
    | exact Foot.sub hft rfl
    | with_reducible exact Or.inl rfl
    | exact Or.inr (Foot.sub hft rfl)
    | with_reducible apply InMk.of
    | simp -zeta only [in_mk_iff]
    | split
    | intro _ _ _
    | intro _ _

def execCommandDispatch_foot : Foot :=
  Fld.RETX_FULL.foot ||| Part.jr.foot ||| State.reshareSlot_foot ||| State.updCmd_foot ||| State.entWait_foot |||
    State.entGo_foot ||| State.cmdRegs_foot ||| State.settleAccept_foot ||| State.cmdErr_foot |||
    State.admitMeta_foot
theorem execCommandDispatch_in {sglErr : Bool} {sgl : List SglE} {s : State} (hks : In ft s0 s)
    (hft : execCommandDispatch_foot.le ft = true) :
    InOut ft s0 (execCommandDispatch sglErr sgl s) := by
  unfold execCommandDispatch
  repeat' first
    | (extract_lets +onlyGivenNames x
       first
       | (have : In ft s0 x := by
            subst x
            repeat' first
              | (extract_lets +onlyGivenNames x; subst x)
              | with_reducible first
                  | assumption | apply State.setf_in | apply State.when_in | apply State.each_in
                  | apply State.reshareSlot_in | apply State.updCmd_in | apply State.entWait_in
                  | apply State.entGo_in | apply State.cmdRegs_in | apply State.settleAccept_in
                  | apply State.cmdErr_in | apply State.admitMeta_in | apply inOut_ite | apply in_ite
                  | apply InOut.next
              | exact Foot.sub hft rfl
              | with_reducible exact Or.inl rfl
              | exact Or.inr (Foot.sub hft rfl)
              | with_reducible apply InMk.of
              | simp -zeta only [in_mk_iff]
              | split
              | intro _ _ _
              | intro _ _
          clear_value x)
       | clear_value x
       | subst x)
    | with_reducible first
        | assumption | apply State.setf_in | apply State.when_in | apply State.each_in | apply State.reshareSlot_in
        | apply State.updCmd_in | apply State.entWait_in | apply State.entGo_in | apply State.cmdRegs_in
        | apply State.settleAccept_in | apply State.cmdErr_in | apply State.admitMeta_in | apply inOut_ite
        | apply in_ite | apply InOut.next
    | exact Foot.sub hft rfl
    | with_reducible exact Or.inl rfl
    | exact Or.inr (Foot.sub hft rfl)
    | with_reducible apply InMk.of
    | simp -zeta only [in_mk_iff]
    | split
    | intro _ _ _
    | intro _ _

end Sys2Proof.Machine
end

