-- ==== Sys2Proof/Laws/FrameObjects.lean ====
section
/-! SUPPORT. The footprints of the operations of Machine/Objects (Laws/Frame). -/

namespace Sys2Proof.Machine

variable {ft : Foot} {s0 : State}

def execSettle_foot : Foot := State.cmdRegs_foot ||| State.settleAccept_foot
theorem execSettle_in {uid : Nat} {s : State} (hks : In ft s0 s) (hft : execSettle_foot.le ft = true) :
    InOut ft s0 (execSettle uid s) := by
  unfold execSettle
  repeat' first
    | with_reducible first | assumption | apply State.cmdRegs_in | apply State.settleAccept_in | apply InOut.next
    | exact Foot.sub hft rfl
    | split

def execNop_foot : Foot := State.cmdOk_foot
theorem execNop_in {uid : Nat} {s : State} (hks : In ft s0 s) (hft : execNop_foot.le ft = true) :
    InOut ft s0 (execNop uid s) := by
  unfold execNop
  repeat' first
    | with_reducible first | assumption | apply State.cmdOk_in | apply InOut.next
    | exact Foot.sub hft rfl
    | split

def State.tellTwin_foot : Foot := State.mirMeta_foot
theorem State.tellTwin_in {s : State} {obj : Nat} {o : Obj} {d : Nat} (hks : In ft s0 s)
    (hft : State.tellTwin_foot.le ft = true) :
    In ft s0 (State.tellTwin s obj o d) := by
  unfold State.tellTwin
  repeat' first
    | with_reducible first | assumption | apply State.mirMeta_in | apply in_ite
    | exact Foot.sub hft rfl
    | split

def State.metaRun_foot : Foot := Part.jr.foot ||| State.updCmd_foot
theorem State.metaRun_in {s : State} {uid op : Nat} {f : State → Cmd → State} (hks : In ft s0 s)
    (hf : ∀ s c, In ft s0 s → In ft s0 (f s c)) (hft : State.metaRun_foot.le ft = true) :
    InOut ft s0 (State.metaRun s uid op f) := by
  unfold State.metaRun
  repeat' first
    | (extract_lets +onlyGivenNames x
       first
       | (have : In ft s0 x := by
            subst x
            repeat' first
              | with_reducible first
                  | assumption | apply State.updCmd_in | apply inOut_ite | apply in_ite | apply InOut.next | apply hf
              | exact Foot.sub hft rfl
              | with_reducible exact Or.inl rfl
              | exact Or.inr (Foot.sub hft rfl)
              | with_reducible apply InMk.of
              | simp -zeta only [in_mk_iff]
              | split
              | intro _ _ _
              | intro _ _
          clear_value x)
       | clear_value x
       | subst x)
    | with_reducible first
        | assumption | apply State.updCmd_in | apply inOut_ite | apply in_ite | apply InOut.next | apply hf
    | exact Foot.sub hft rfl
    | with_reducible exact Or.inl rfl
    | exact Or.inr (Foot.sub hft rfl)
    | with_reducible apply InMk.of
    | simp -zeta only [in_mk_iff]
    | split
    | intro _ _ _
    | intro _ _

def State.metaObj_foot : Foot := State.cmdErr_foot ||| State.metaRun_foot
theorem State.metaObj_in {s : State} {uid op : Nat} {f : State → Cmd → Obj → State} (hks : In ft s0 s)
    (hf : ∀ s c o, In ft s0 s → In ft s0 (f s c o)) (hft : State.metaObj_foot.le ft = true) :
    InOut ft s0 (State.metaObj s uid op f) := by
  unfold State.metaObj
  repeat' first
    | with_reducible first | assumption | apply State.cmdErr_in | apply State.metaRun_in | apply InOut.next | apply hf
    | exact Foot.sub hft rfl
    | split
    | intro _ _ _ _
    | intro _ _ _
    | intro _ _

def execObjCreate_foot : Foot :=
  State.journal_foot ||| State.cmdOk_foot ||| State.cmdErr_foot ||| State.ledgerRegs_foot |||
    State.refsReg_foot ||| State.takeHomes_foot ||| State.tellTwin_foot ||| State.metaRun_foot
theorem execObjCreate_in {uid : Nat} {s : State} (hks : In ft s0 s) (hft : execObjCreate_foot.le ft = true) :
    InOut ft s0 (execObjCreate uid s) := by
  unfold execObjCreate
  repeat' first
    | (extract_lets +onlyGivenNames x
       first
       | (have : In ft s0 x := by
            subst x
            repeat' first
              | (extract_lets +onlyGivenNames x; subst x)
              | with_reducible first
                  | assumption | apply State.journal_in | apply State.cmdOk_in | apply State.cmdErr_in
                  | apply State.ledgerRegs_in | apply State.refsReg_in | apply State.takeHomes_in
                  | apply State.tellTwin_in | apply State.metaRun_in | apply inOut_ite | apply in_ite
                  | apply InOut.next
              | exact Foot.sub hft rfl
              | split
              | intro _ _ _ _
              | intro _ _ _
              | intro _ _
          clear_value x)
       | clear_value x
       | subst x)
    | with_reducible first
        | assumption | apply State.journal_in | apply State.cmdOk_in | apply State.cmdErr_in
        | apply State.ledgerRegs_in | apply State.refsReg_in | apply State.takeHomes_in | apply State.tellTwin_in
        | apply State.metaRun_in | apply inOut_ite | apply in_ite | apply InOut.next
    | exact Foot.sub hft rfl
    | split
    | intro _ _ _ _
    | intro _ _ _
    | intro _ _

def execObjDelete_foot : Foot :=
  State.journal_foot ||| State.invalFrames_foot ||| State.cmdOk_foot ||| State.ledgerRegs_foot |||
    State.refsReg_foot ||| State.freePage_foot ||| State.cutEntries_foot ||| State.tellTwin_foot |||
    State.metaObj_foot
theorem execObjDelete_in {uid : Nat} {s : State} (hks : In ft s0 s) (hft : execObjDelete_foot.le ft = true) :
    InOut ft s0 (execObjDelete uid s) := by
  unfold execObjDelete
  repeat' first
    | (extract_lets +onlyGivenNames x
       first
       | (have : In ft s0 x := by
            subst x
            repeat' first
              | (extract_lets +onlyGivenNames x; subst x)
              | with_reducible first
                  | assumption | apply State.each_in | apply State.journal_in | apply State.invalFrames_in
                  | apply State.cmdOk_in | apply State.ledgerRegs_in | apply State.refsReg_in
                  | apply State.freePage_in | apply State.cutEntries_in | apply State.tellTwin_in
                  | apply State.metaObj_in | apply inOut_ite | apply in_ite | apply InOut.next
              | exact Foot.sub hft rfl
              | split
              | intro _ _ _ _
              | intro _ _ _
              | intro _ _
          clear_value x)
       | clear_value x
       | subst x)
    | with_reducible first
        | assumption | apply State.each_in | apply State.journal_in | apply State.invalFrames_in
        | apply State.cmdOk_in | apply State.ledgerRegs_in | apply State.refsReg_in | apply State.freePage_in
        | apply State.cutEntries_in | apply State.tellTwin_in | apply State.metaObj_in | apply inOut_ite
        | apply in_ite | apply InOut.next
    | exact Foot.sub hft rfl
    | split
    | intro _ _ _ _
    | intro _ _ _
    | intro _ _

def execObjResize_foot : Foot :=
  State.journal_foot ||| State.invalFrames_foot ||| State.cmdOk_foot ||| State.cmdErr_foot |||
    State.ledgerRegs_foot ||| State.takeHomes_foot ||| State.freePage_foot ||| State.cutEntries_foot |||
    State.tellTwin_foot ||| State.metaObj_foot
theorem execObjResize_in {uid : Nat} {s : State} (hks : In ft s0 s) (hft : execObjResize_foot.le ft = true) :
    InOut ft s0 (execObjResize uid s) := by
  unfold execObjResize
  repeat' first
    | (extract_lets +onlyGivenNames x
       first
       | (have : In ft s0 x := by
            subst x
            repeat' first
              | (extract_lets +onlyGivenNames x; subst x)
              | with_reducible first
                  | assumption | apply State.each_in | apply State.journal_in | apply State.invalFrames_in
                  | apply State.cmdOk_in | apply State.cmdErr_in | apply State.ledgerRegs_in
                  | apply State.takeHomes_in | apply State.freePage_in | apply State.cutEntries_in
                  | apply State.tellTwin_in | apply State.metaObj_in | apply inOut_ite | apply in_ite
                  | apply InOut.next
              | exact Foot.sub hft rfl
              | with_reducible exact Or.inl rfl
              | exact Or.inr (Foot.sub hft rfl)
              | with_reducible apply InMk.of
              | simp -zeta only [in_mk_iff]
              | split
              | intro _ _ _ _
              | intro _ _ _
              | intro _ _
          clear_value x)
       | clear_value x
       | subst x)
    | with_reducible first
        | assumption | apply State.each_in | apply State.journal_in | apply State.invalFrames_in
        | apply State.cmdOk_in | apply State.cmdErr_in | apply State.ledgerRegs_in | apply State.takeHomes_in
        | apply State.freePage_in | apply State.cutEntries_in | apply State.tellTwin_in | apply State.metaObj_in
        | apply inOut_ite | apply in_ite | apply InOut.next
    | exact Foot.sub hft rfl
    | with_reducible exact Or.inl rfl
    | exact Or.inr (Foot.sub hft rfl)
    | with_reducible apply InMk.of
    | simp -zeta only [in_mk_iff]
    | split
    | intro _ _ _ _
    | intro _ _ _
    | intro _ _

def State.dropHome_foot : Foot := State.setMap_foot
theorem State.dropHome_in {s : State} {ix : Nat} (hks : In ft s0 s) (hft : State.dropHome_foot.le ft = true) :
    In ft s0 (State.dropHome s ix) := by
  unfold State.dropHome
  repeat' first
    | (extract_lets +onlyGivenNames x
       first
       | (have : In ft s0 x := by
            subst x
            repeat' first
              | with_reducible first | assumption | apply State.setMap_in | apply in_ite
              | exact Foot.sub hft rfl
              | with_reducible exact Or.inl rfl
              | exact Or.inr (Foot.sub hft rfl)
              | with_reducible apply InMk.of
              | simp -zeta only [in_mk_iff]
              | split
          clear_value x)
       | clear_value x
       | subst x)
    | with_reducible first | assumption | apply State.setMap_in | apply in_ite
    | exact Foot.sub hft rfl
    | with_reducible exact Or.inl rfl
    | exact Or.inr (Foot.sub hft rfl)
    | with_reducible apply InMk.of
    | simp -zeta only [in_mk_iff]
    | split

def execObjAttr_foot : Foot :=
  State.journal_foot ||| State.releasePage_foot ||| State.cmdOk_foot ||| State.cmdErr_foot |||
    State.ledgerRegs_foot ||| State.refsReg_foot ||| State.promotePages_foot ||| State.tellTwin_foot |||
    State.metaObj_foot ||| State.dropHome_foot
theorem execObjAttr_in {uid : Nat} {s : State} (hks : In ft s0 s) (hft : execObjAttr_foot.le ft = true) :
    InOut ft s0 (execObjAttr uid s) := by
  unfold execObjAttr
  repeat' first
    | (extract_lets +onlyGivenNames x
       first
       | (have : In ft s0 x := by
            subst x
            repeat' first
              | (extract_lets +onlyGivenNames x; subst x)
              | with_reducible first
                  | assumption | apply State.each_in | apply State.journal_in | apply State.releasePage_in
                  | apply State.cmdOk_in | apply State.cmdErr_in | apply State.ledgerRegs_in | apply State.refsReg_in
                  | apply State.promotePages_in | apply State.tellTwin_in | apply State.metaObj_in
                  | apply State.dropHome_in | apply inOut_ite | apply in_ite | apply inP_ite | apply InOut.next
              | exact Foot.sub hft rfl
              | with_reducible exact Or.inl rfl
              | exact Or.inr (Foot.sub hft rfl)
              | with_reducible apply InMk.of
              | simp -zeta only [in_mk_iff]
              | with_reducible refine InP.eq (by assumption) ?_
              | (with_reducible refine InP.fst ?_; with_reducible first | assumption | apply State.promotePages_in)
              | split
              | intro _ _ _ _
              | intro _ _ _
              | intro _ _
              | with_reducible apply InP.pair
              | dsimp -zeta only
          clear_value x)
       | clear_value x
       | subst x)
    | with_reducible first
        | assumption | apply State.each_in | apply State.journal_in | apply State.releasePage_in
        | apply State.cmdOk_in | apply State.cmdErr_in | apply State.ledgerRegs_in | apply State.refsReg_in
        | apply State.promotePages_in | apply State.tellTwin_in | apply State.metaObj_in | apply State.dropHome_in
        | apply inOut_ite | apply in_ite | apply inP_ite | apply InOut.next
    | exact Foot.sub hft rfl
    | with_reducible exact Or.inl rfl
    | exact Or.inr (Foot.sub hft rfl)
    | with_reducible apply InMk.of
    | simp -zeta only [in_mk_iff]
    | with_reducible refine InP.eq (by assumption) ?_
    | (with_reducible refine InP.fst ?_; with_reducible first | assumption | apply State.promotePages_in)
    | split
    | intro _ _ _ _
    | intro _ _ _
    | intro _ _
    | with_reducible apply InP.pair
    | dsimp -zeta only

def execWindowMap_foot : Foot :=
  State.journal_foot ||| State.cmdOk_foot ||| State.cmdErr_foot ||| State.tellTwin_foot ||| State.metaObj_foot
theorem execWindowMap_in {uid : Nat} {s : State} (hks : In ft s0 s) (hft : execWindowMap_foot.le ft = true) :
    InOut ft s0 (execWindowMap uid s) := by
  unfold execWindowMap
  repeat' first
    | (extract_lets +onlyGivenNames x
       first
       | (have : In ft s0 x := by
            subst x
            repeat' first
              | (extract_lets +onlyGivenNames x; subst x)
              | with_reducible first
                  | assumption | apply State.journal_in | apply State.cmdOk_in | apply State.cmdErr_in
                  | apply State.tellTwin_in | apply State.metaObj_in | apply InOut.next
              | exact Foot.sub hft rfl
              | with_reducible exact Or.inl rfl
              | exact Or.inr (Foot.sub hft rfl)
              | with_reducible apply InMk.of
              | simp -zeta only [in_mk_iff]
              | split
              | intro _ _ _ _
              | intro _ _ _
              | intro _ _
          clear_value x)
       | clear_value x
       | subst x)
    | with_reducible first
        | assumption | apply State.journal_in | apply State.cmdOk_in | apply State.cmdErr_in
        | apply State.tellTwin_in | apply State.metaObj_in | apply InOut.next
    | exact Foot.sub hft rfl
    | with_reducible exact Or.inl rfl
    | exact Or.inr (Foot.sub hft rfl)
    | with_reducible apply InMk.of
    | simp -zeta only [in_mk_iff]
    | split
    | intro _ _ _ _
    | intro _ _ _
    | intro _ _

def execWindowUnmap_foot : Foot :=
  State.journal_foot ||| State.invalFrames_foot ||| State.cmdOk_foot ||| State.cmdErr_foot |||
    State.tellTwin_foot ||| State.metaObj_foot
theorem execWindowUnmap_in {uid : Nat} {s : State} (hks : In ft s0 s) (hft : execWindowUnmap_foot.le ft = true) :
    InOut ft s0 (execWindowUnmap uid s) := by
  unfold execWindowUnmap
  repeat' first
    | (extract_lets +onlyGivenNames x
       first
       | (have : In ft s0 x := by
            subst x
            repeat' first
              | (extract_lets +onlyGivenNames x; subst x)
              | with_reducible first
                  | assumption | apply State.journal_in | apply State.invalFrames_in | apply State.cmdOk_in
                  | apply State.cmdErr_in | apply State.tellTwin_in | apply State.metaObj_in | apply inOut_ite
                  | apply in_ite | apply InOut.next
              | exact Foot.sub hft rfl
              | with_reducible exact Or.inl rfl
              | exact Or.inr (Foot.sub hft rfl)
              | with_reducible apply InMk.of
              | simp -zeta only [in_mk_iff]
              | split
              | intro _ _ _ _
              | intro _ _ _
              | intro _ _
          clear_value x)
       | clear_value x
       | subst x)
    | with_reducible first
        | assumption | apply State.journal_in | apply State.invalFrames_in | apply State.cmdOk_in
        | apply State.cmdErr_in | apply State.tellTwin_in | apply State.metaObj_in | apply inOut_ite | apply in_ite
        | apply InOut.next
    | exact Foot.sub hft rfl
    | with_reducible exact Or.inl rfl
    | exact Or.inr (Foot.sub hft rfl)
    | with_reducible apply InMk.of
    | simp -zeta only [in_mk_iff]
    | split
    | intro _ _ _ _
    | intro _ _ _
    | intro _ _

def State.bindSlot_foot : Foot := State.setMap_foot
theorem State.bindSlot_in {s : State} {o : Obj} {tp link ld addr : Nat} (hks : In ft s0 s)
    (hft : State.bindSlot_foot.le ft = true) :
    In ft s0 (State.bindSlot s o tp link ld addr) := by
  unfold State.bindSlot
  repeat' first
    | (extract_lets +onlyGivenNames x; clear_value x)
    | with_reducible first | assumption | apply State.setMap_in | apply in_ite
    | exact Foot.sub hft rfl
    | with_reducible exact Or.inl rfl
    | exact Or.inr (Foot.sub hft rfl)
    | with_reducible apply InMk.of
    | simp -zeta only [in_mk_iff]
    | split

def State.placeOk_foot : Foot := State.cmdOk_foot
theorem State.placeOk_in {s : State} {c : Cmd} {n : Counts} (hks : In ft s0 s)
    (hft : State.placeOk_foot.le ft = true) :
    In ft s0 (State.placeOk s c n) := by
  unfold State.placeOk
  repeat' first
    | with_reducible first | assumption | apply State.cmdOk_in
    | exact Foot.sub hft rfl

def execPlace_foot : Foot :=
  State.cmdErr_foot ||| State.dropHold_foot ||| State.promotePages_foot ||| State.demotePages_foot |||
    State.metaObj_foot ||| State.bindSlot_foot ||| State.placeOk_foot
theorem execPlace_in {uid : Nat} {s : State} (hks : In ft s0 s) (hft : execPlace_foot.le ft = true) :
    InOut ft s0 (execPlace uid s) := by
  unfold execPlace
  repeat' first
    | (extract_lets +onlyGivenNames x
       first
       | (have : In ft s0 x := by
            subst x
            repeat' first
              | (extract_lets +onlyGivenNames x; subst x)
              | with_reducible first
                  | assumption | apply State.each_in | apply State.cmdErr_in | apply State.dropHold_in
                  | apply State.promotePages_in | apply State.demotePages_in | apply State.metaObj_in
                  | apply State.bindSlot_in | apply State.placeOk_in | apply inOut_ite | apply in_ite | apply inP_ite
                  | apply InOut.next
              | exact Foot.sub hft rfl
              | with_reducible exact Or.inl rfl
              | exact Or.inr (Foot.sub hft rfl)
              | with_reducible apply InMk.of
              | simp -zeta only [in_mk_iff]
              | with_reducible refine InP.eq (by assumption) ?_
              | (with_reducible refine InP.fst ?_
                 with_reducible first
                   | assumption | apply State.promotePages_in | apply State.demotePages_in)
              | split
              | intro _ _ _ _
              | intro _ _ _
              | intro _ _
              | with_reducible apply InP.pair
              | dsimp -zeta only
          clear_value x)
       | (have : InP ft s0 x := by
            subst x
            repeat' first
              | (extract_lets +onlyGivenNames x; subst x)
              | with_reducible first
                  | assumption | apply State.each_in | apply State.cmdErr_in | apply State.dropHold_in
                  | apply State.promotePages_in | apply State.demotePages_in | apply State.metaObj_in
                  | apply State.bindSlot_in | apply State.placeOk_in | apply inOut_ite | apply in_ite | apply inP_ite
                  | apply InOut.next
              | exact Foot.sub hft rfl
              | with_reducible exact Or.inl rfl
              | exact Or.inr (Foot.sub hft rfl)
              | with_reducible apply InMk.of
              | simp -zeta only [in_mk_iff]
              | with_reducible refine InP.eq (by assumption) ?_
              | (with_reducible refine InP.fst ?_
                 with_reducible first
                   | assumption | apply State.promotePages_in | apply State.demotePages_in)
              | split
              | intro _ _ _ _
              | intro _ _ _
              | intro _ _
              | with_reducible apply InP.pair
              | dsimp -zeta only
          clear_value x)
       | clear_value x
       | subst x)
    | with_reducible first
        | assumption | apply State.each_in | apply State.cmdErr_in | apply State.dropHold_in
        | apply State.promotePages_in | apply State.demotePages_in | apply State.metaObj_in | apply State.bindSlot_in
        | apply State.placeOk_in | apply inOut_ite | apply in_ite | apply inP_ite | apply InOut.next
    | exact Foot.sub hft rfl
    | with_reducible exact Or.inl rfl
    | exact Or.inr (Foot.sub hft rfl)
    | with_reducible apply InMk.of
    | simp -zeta only [in_mk_iff]
    | with_reducible refine InP.eq (by assumption) ?_
    | (with_reducible refine InP.fst ?_
       with_reducible first
         | assumption | apply State.promotePages_in | apply State.demotePages_in)
    | split
    | intro _ _ _ _
    | intro _ _ _
    | intro _ _
    | with_reducible apply InP.pair
    | dsimp -zeta only

def execHold_foot : Foot :=
  State.journal_foot ||| State.cmdErr_foot ||| State.promotePages_foot ||| State.tellTwin_foot |||
    State.metaObj_foot ||| State.placeOk_foot
theorem execHold_in {uid : Nat} {s : State} (hks : In ft s0 s) (hft : execHold_foot.le ft = true) :
    InOut ft s0 (execHold uid s) := by
  unfold execHold
  repeat' first
    | (extract_lets +onlyGivenNames x
       first
       | (have : In ft s0 x := by
            subst x
            repeat' first
              | (extract_lets +onlyGivenNames x; subst x)
              | with_reducible first
                  | assumption | apply State.journal_in | apply State.cmdErr_in | apply State.promotePages_in
                  | apply State.tellTwin_in | apply State.metaObj_in | apply State.placeOk_in | apply inOut_ite
                  | apply in_ite | apply inP_ite | apply InOut.next
              | exact Foot.sub hft rfl
              | with_reducible exact Or.inl rfl
              | exact Or.inr (Foot.sub hft rfl)
              | with_reducible apply InMk.of
              | simp -zeta only [in_mk_iff]
              | with_reducible refine InP.eq (by assumption) ?_
              | (with_reducible refine InP.fst ?_; with_reducible first | assumption | apply State.promotePages_in)
              | split
              | intro _ _ _ _
              | intro _ _ _
              | intro _ _
              | with_reducible apply InP.pair
              | dsimp -zeta only
          clear_value x)
       | (have : InP ft s0 x := by
            subst x
            repeat' first
              | (extract_lets +onlyGivenNames x; subst x)
              | with_reducible first
                  | assumption | apply State.journal_in | apply State.cmdErr_in | apply State.promotePages_in
                  | apply State.tellTwin_in | apply State.metaObj_in | apply State.placeOk_in | apply inOut_ite
                  | apply in_ite | apply inP_ite | apply InOut.next
              | exact Foot.sub hft rfl
              | with_reducible exact Or.inl rfl
              | exact Or.inr (Foot.sub hft rfl)
              | with_reducible apply InMk.of
              | simp -zeta only [in_mk_iff]
              | with_reducible refine InP.eq (by assumption) ?_
              | (with_reducible refine InP.fst ?_; with_reducible first | assumption | apply State.promotePages_in)
              | split
              | intro _ _ _ _
              | intro _ _ _
              | intro _ _
              | with_reducible apply InP.pair
              | dsimp -zeta only
          clear_value x)
       | clear_value x
       | subst x)
    | with_reducible first
        | assumption | apply State.journal_in | apply State.cmdErr_in | apply State.promotePages_in
        | apply State.tellTwin_in | apply State.metaObj_in | apply State.placeOk_in | apply inOut_ite | apply in_ite
        | apply inP_ite | apply InOut.next
    | exact Foot.sub hft rfl
    | with_reducible exact Or.inl rfl
    | exact Or.inr (Foot.sub hft rfl)
    | with_reducible apply InMk.of
    | simp -zeta only [in_mk_iff]
    | with_reducible refine InP.eq (by assumption) ?_
    | (with_reducible refine InP.fst ?_; with_reducible first | assumption | apply State.promotePages_in)
    | split
    | intro _ _ _ _
    | intro _ _ _
    | intro _ _
    | with_reducible apply InP.pair
    | dsimp -zeta only

def execRelease_foot : Foot := State.cmdOk_foot ||| State.dropHold_foot ||| State.metaObj_foot
theorem execRelease_in {uid : Nat} {s : State} (hks : In ft s0 s) (hft : execRelease_foot.le ft = true) :
    InOut ft s0 (execRelease uid s) := by
  unfold execRelease
  repeat' first
    | (extract_lets +onlyGivenNames x
       first
       | (have : In ft s0 x := by
            subst x
            repeat' first
              | (extract_lets +onlyGivenNames x; subst x)
              | with_reducible first
                  | assumption | apply State.cmdOk_in | apply State.dropHold_in | apply State.metaObj_in
                  | apply InOut.next
              | exact Foot.sub hft rfl
              | intro _ _ _ _
              | intro _ _ _
              | intro _ _
          clear_value x)
       | clear_value x
       | subst x)
    | with_reducible first
        | assumption | apply State.cmdOk_in | apply State.dropHold_in | apply State.metaObj_in | apply InOut.next
    | exact Foot.sub hft rfl
    | intro _ _ _ _
    | intro _ _ _
    | intro _ _

def execStreamPost_foot : Foot :=
  Part.tpe.foot ||| State.updCmd_foot ||| State.streamRegs_foot ||| State.cmdErr_foot
theorem execStreamPost_in {uid : Nat} {dmaErr : Bool} {list : List (List Nat)} {s : State} (hks : In ft s0 s)
    (hft : execStreamPost_foot.le ft = true) :
    InOut ft s0 (execStreamPost uid dmaErr list s) := by
  unfold execStreamPost
  repeat' first
    | (extract_lets +onlyGivenNames x
       first
       | (have : In ft s0 x := by
            subst x
            repeat' first
              | (extract_lets +onlyGivenNames x; subst x)
              | with_reducible first
                  | assumption | apply State.updCmd_in | apply State.streamRegs_in | apply State.cmdErr_in
                  | apply inOut_ite | apply in_ite | apply InOut.next
              | exact Foot.sub hft rfl
              | with_reducible exact Or.inl rfl
              | exact Or.inr (Foot.sub hft rfl)
              | with_reducible apply InMk.of
              | simp -zeta only [in_mk_iff]
              | split
              | intro _ _ _
              | intro _ _
          clear_value x)
       | clear_value x
       | subst x)
    | with_reducible first
        | assumption | apply State.updCmd_in | apply State.streamRegs_in | apply State.cmdErr_in | apply inOut_ite
        | apply in_ite | apply InOut.next
    | exact Foot.sub hft rfl
    | with_reducible exact Or.inl rfl
    | exact Or.inr (Foot.sub hft rfl)
    | with_reducible apply InMk.of
    | simp -zeta only [in_mk_iff]
    | split
    | intro _ _ _
    | intro _ _

def execStreamCancel_foot : Foot :=
  State.cmdRegs_foot ||| State.cancelStream_foot ||| State.cmdOk_foot ||| State.cmdErr_foot
theorem execStreamCancel_in {uid : Nat} {s : State} (hks : In ft s0 s) (hft : execStreamCancel_foot.le ft = true) :
    InOut ft s0 (execStreamCancel uid s) := by
  unfold execStreamCancel
  repeat' first
    | (extract_lets +onlyGivenNames x; clear_value x)
    | with_reducible first
        | assumption | apply State.cmdRegs_in | apply State.cancelStream_in | apply State.cmdOk_in
        | apply State.cmdErr_in | apply foldl_in | apply InOut.next
    | exact Foot.sub hft rfl
    | split
    | intro _ _ _
    | intro _ _
    | with_reducible apply InP.pair

end Sys2Proof.Machine
end

