-- ==== Sys2Proof/Laws/FrameDrainOps.lean ====
section
/-! SUPPORT. The footprints of the operations of Machine/DrainOps (Laws/Frame). -/

namespace Sys2Proof.Machine

variable {ft : Foot} {s0 : State}

def State.soloWrite_foot : Foot := Part.mir.foot ||| State.soloMark_foot
theorem State.soloWrite_in {s : State} {obj tp d : Nat} (hks : In ft s0 s) (hft : State.soloWrite_foot.le ft = true) :
    In ft s0 (State.soloWrite s obj tp d) := by
  unfold State.soloWrite
  repeat' first
    | (extract_lets +onlyGivenNames x
       first
       | (have : In ft s0 x := by
            subst x
            repeat' first
              | with_reducible first | assumption | apply State.soloMark_in
              | exact Foot.sub hft rfl
              | with_reducible exact Or.inl rfl
              | exact Or.inr (Foot.sub hft rfl)
              | with_reducible apply InMk.of
              | simp -zeta only [in_mk_iff]
          clear_value x)
       | clear_value x
       | subst x)
    | with_reducible first | assumption | apply State.soloMark_in
    | exact Foot.sub hft rfl
    | with_reducible exact Or.inl rfl
    | exact Or.inr (Foot.sub hft rfl)
    | with_reducible apply InMk.of
    | simp -zeta only [in_mk_iff]

def State.drainReq_foot : Foot :=
  State.writeDram_foot ||| State.putWay_foot ||| State.fillNow_foot ||| State.redirty_foot ||| State.soloWrite_foot
theorem State.drainReq_in {s : State} {la obj tp : Nat} {q : Req} (hks : In ft s0 s)
    (hft : State.drainReq_foot.le ft = true) :
    In ft s0 (State.drainReq s la obj tp q) := by
  unfold State.drainReq
  repeat' first
    | (extract_lets +onlyGivenNames x
       first
       | (have : In ft s0 x := by
            subst x
            repeat' first
              | (extract_lets +onlyGivenNames x; subst x)
              | with_reducible first
                  | assumption | apply State.writeDram_in | apply State.putWay_in | apply State.fillNow_in
                  | apply State.redirty_in | apply State.soloWrite_in | apply in_ite
              | exact Foot.sub hft rfl
              | split
          clear_value x)
       | clear_value x
       | subst x)
    | with_reducible first
        | assumption | apply State.writeDram_in | apply State.putWay_in | apply State.fillNow_in
        | apply State.redirty_in | apply State.soloWrite_in | apply in_ite
    | exact Foot.sub hft rfl
    | split

def State.drainMr_foot : Foot := Part.fch.foot ||| State.flushEvict_foot ||| State.drainReq_foot
theorem State.drainMr_in {s : State} {e : Key × MissReg} (hks : In ft s0 s) (hft : State.drainMr_foot.le ft = true) :
    In ft s0 (State.drainMr s e) := by
  unfold State.drainMr
  repeat' first
    | (extract_lets +onlyGivenNames x
       first
       | (have : In ft s0 x := by
            subst x
            repeat' first
              | (extract_lets +onlyGivenNames x; subst x)
              | with_reducible first
                  | assumption | apply State.each_in | apply State.flushEvict_in | apply State.drainReq_in
                  | apply in_ite
              | exact Foot.sub hft rfl
              | with_reducible exact Or.inl rfl
              | exact Or.inr (Foot.sub hft rfl)
              | with_reducible apply InMk.of
              | simp -zeta only [in_mk_iff]
              | split
              | intro _ _ _
              | intro _ _
          clear_value x)
       | clear_value x
       | subst x)
    | with_reducible first
        | assumption | apply State.each_in | apply State.flushEvict_in | apply State.drainReq_in | apply in_ite
    | exact Foot.sub hft rfl
    | with_reducible exact Or.inl rfl
    | exact Or.inr (Foot.sub hft rfl)
    | with_reducible apply InMk.of
    | simp -zeta only [in_mk_iff]
    | split
    | intro _ _ _
    | intro _ _

def State.drainMoves_foot : Foot :=
  Part.tpe.foot ||| State.setMap_foot ||| State.freeFrame_foot ||| State.moveRegs_foot
theorem State.drainMoves_in {s : State} (hks : In ft s0 s) (hft : State.drainMoves_foot.le ft = true) :
    In ft s0 (State.drainMoves s) := by
  unfold State.drainMoves
  repeat' first
    | (extract_lets +onlyGivenNames x
       first
       | (have : In ft s0 x := by
            subst x
            repeat' first
              | (extract_lets +onlyGivenNames x; subst x)
              | with_reducible first
                  | assumption | apply State.each_in | apply State.setMap_in | apply State.freeFrame_in
                  | apply State.moveRegs_in | apply in_ite
              | exact Foot.sub hft rfl
              | with_reducible exact Or.inl rfl
              | exact Or.inr (Foot.sub hft rfl)
              | with_reducible apply InMk.of
              | simp -zeta only [in_mk_iff]
              | split
              | intro _ _ _
              | intro _ _
          clear_value x)
       | clear_value x
       | subst x)
    | with_reducible first
        | assumption | apply State.each_in | apply State.setMap_in | apply State.freeFrame_in
        | apply State.moveRegs_in | apply in_ite
    | exact Foot.sub hft rfl
    | with_reducible exact Or.inl rfl
    | exact Or.inr (Foot.sub hft rfl)
    | with_reducible apply InMk.of
    | simp -zeta only [in_mk_iff]
    | split
    | intro _ _ _
    | intro _ _

def State.ccalStop_foot : Foot := Fld.CCAL_BUSY.foot ||| Part.fgv.foot ||| State.send_foot
theorem State.ccalStop_in {s : State} (hks : In ft s0 s) (hft : State.ccalStop_foot.le ft = true) :
    In ft s0 (State.ccalStop s) := by
  unfold State.ccalStop
  repeat' first
    | (extract_lets +onlyGivenNames x
       first
       | (have : In ft s0 x := by
            subst x
            repeat' first
              | (extract_lets +onlyGivenNames x; subst x)
              | with_reducible first | assumption | apply State.setf_in | apply State.when_in | apply State.send_in
              | exact Foot.sub hft rfl
              | with_reducible exact Or.inl rfl
              | exact Or.inr (Foot.sub hft rfl)
              | with_reducible apply InMk.of
              | simp -zeta only [in_mk_iff]
              | intro _ _ _
              | intro _ _
          clear_value x)
       | clear_value x
       | subst x)
    | with_reducible first | assumption | apply State.setf_in | apply State.when_in | apply State.send_in
    | exact Foot.sub hft rfl
    | with_reducible exact Or.inl rfl
    | exact Or.inr (Foot.sub hft rfl)
    | with_reducible apply InMk.of
    | simp -zeta only [in_mk_iff]
    | intro _ _ _
    | intro _ _

def State.slicesStop_foot : Foot := Fld.RETRAIN_BUSY.foot ||| Part.drc.foot
theorem State.slicesStop_in {s : State} (hks : In ft s0 s) (hft : State.slicesStop_foot.le ft = true) :
    In ft s0 (State.slicesStop s) := by
  unfold State.slicesStop
  repeat' first
    | (extract_lets +onlyGivenNames x
       first
       | (have : In ft s0 x := by
            subst x
            repeat' first
              | with_reducible first | assumption | apply State.setfi_in | apply State.each_in
              | exact Foot.sub hft rfl
              | with_reducible exact Or.inl rfl
              | exact Or.inr (Foot.sub hft rfl)
              | with_reducible apply InMk.of
              | simp -zeta only [in_mk_iff]
              | intro _ _ _
              | intro _ _
          clear_value x)
       | clear_value x
       | subst x)
    | with_reducible first | assumption | apply State.setfi_in | apply State.each_in
    | exact Foot.sub hft rfl
    | with_reducible exact Or.inl rfl
    | exact Or.inr (Foot.sub hft rfl)
    | with_reducible apply InMk.of
    | simp -zeta only [in_mk_iff]
    | intro _ _ _
    | intro _ _

def State.bstStop_foot : Foot :=
  Fld.BST_STATUS_BUSY.foot ||| Fld.TEST_NOW.foot ||| Fld.UNITS_LEFT.foot ||| Part.bst.foot
theorem State.bstStop_in {s : State} (hks : In ft s0 s) (hft : State.bstStop_foot.le ft = true) :
    In ft s0 (State.bstStop s) := by
  unfold State.bstStop
  repeat' first
    | (extract_lets +onlyGivenNames x
       first
       | (have : In ft s0 x := by
            subst x
            repeat' first
              | with_reducible first | assumption | apply State.wr_in | apply State.setf_in | apply in_ite
              | exact Foot.sub hft rfl
              | with_reducible exact Or.inl rfl
              | exact Or.inr (Foot.sub hft rfl)
              | with_reducible apply InMk.of
              | simp -zeta only [in_mk_iff]
              | split
          clear_value x)
       | clear_value x
       | subst x)
    | with_reducible first | assumption | apply State.wr_in | apply State.setf_in | apply in_ite
    | exact Foot.sub hft rfl
    | with_reducible exact Or.inl rfl
    | exact Or.inr (Foot.sub hft rfl)
    | with_reducible apply InMk.of
    | simp -zeta only [in_mk_iff]
    | split

def State.drainStores_foot : Foot :=
  Part.fch.foot ||| Part.drc.foot ||| State.drainReq_foot ||| State.drainMr_foot
theorem State.drainStores_in {s : State} (hks : In ft s0 s) (hft : State.drainStores_foot.le ft = true) :
    In ft s0 (State.drainStores s) := by
  unfold State.drainStores
  repeat' first
    | (extract_lets +onlyGivenNames x
       first
       | (have : In ft s0 x := by
            subst x
            repeat' first
              | (extract_lets +onlyGivenNames x; subst x)
              | with_reducible first
                  | assumption | apply State.each_in | apply State.drainReq_in | apply State.drainMr_in
              | exact Foot.sub hft rfl
              | with_reducible exact Or.inl rfl
              | exact Or.inr (Foot.sub hft rfl)
              | with_reducible apply InMk.of
              | simp -zeta only [in_mk_iff]
              | split
              | intro _ _ _
              | intro _ _
          clear_value x)
       | clear_value x
       | subst x)
    | with_reducible first | assumption | apply State.each_in | apply State.drainReq_in | apply State.drainMr_in
    | exact Foot.sub hft rfl
    | with_reducible exact Or.inl rfl
    | exact Or.inr (Foot.sub hft rfl)
    | with_reducible apply InMk.of
    | simp -zeta only [in_mk_iff]
    | split
    | intro _ _ _
    | intro _ _

def State.recsToSolo_foot : Foot := Part.mir.foot ||| State.soloMark_foot
theorem State.recsToSolo_in {s : State} (hks : In ft s0 s) (hft : State.recsToSolo_foot.le ft = true) :
    In ft s0 (State.recsToSolo s) := by
  unfold State.recsToSolo
  repeat' first
    | (extract_lets +onlyGivenNames x
       first
       | (have : In ft s0 x := by
            subst x
            repeat' first
              | with_reducible first
                  | assumption | apply State.each_in | apply State.soloMark_in | apply foldl_in | apply in_ite
                  | apply inP_ite
              | exact Foot.sub hft rfl
              | with_reducible exact Or.inl rfl
              | exact Or.inr (Foot.sub hft rfl)
              | with_reducible apply InMk.of
              | simp -zeta only [in_mk_iff]
              | split
              | intro _ _ _
              | intro _ _
              | with_reducible apply InP.pair
          clear_value x)
       | clear_value x
       | subst x)
    | with_reducible first
        | assumption | apply State.each_in | apply State.soloMark_in | apply foldl_in | apply in_ite | apply inP_ite
    | exact Foot.sub hft rfl
    | with_reducible exact Or.inl rfl
    | exact Or.inr (Foot.sub hft rfl)
    | with_reducible apply InMk.of
    | simp -zeta only [in_mk_iff]
    | split
    | intro _ _ _
    | intro _ _
    | with_reducible apply InP.pair

def State.startDrain_foot : Foot :=
  Fld.DRAINING.foot ||| Fld.BENCH_USED.foot ||| Fld.BENCHED.foot ||| Fld.SETTLES_ACTIVE.foot ||| Part.stl.foot |||
    Part.int.foot ||| Part.prt.foot ||| Part.waits.foot ||| Part.fences.foot ||| Part.fgv.foot |||
    Part.drain.foot ||| Part.mir.foot ||| State.send_foot ||| State.record_foot ||| State.stallEnds_foot |||
    State.setRdy_foot ||| State.drainMoves_foot ||| State.ccalStop_foot ||| State.slicesStop_foot |||
    State.bstStop_foot ||| State.drainStores_foot ||| State.recsToSolo_foot
theorem State.startDrain_in {s : State} {t : Trig} {railsUp : Bool} (hks : In ft s0 s)
    (hft : State.startDrain_foot.le ft = true) :
    In ft s0 (State.startDrain s t railsUp) := by
  unfold State.startDrain
  repeat' first
    | (extract_lets +onlyGivenNames x
       first
       | (have : In ft s0 x := by
            subst x
            repeat' first
              | (extract_lets +onlyGivenNames x; subst x)
              | with_reducible first
                  | assumption | apply State.wri_in | apply State.wr_in | apply State.setf_in | apply State.send_in
                  | apply State.each_in | apply State.record_in | apply State.stallEnds_in | apply State.setRdy_in
                  | apply State.drainMoves_in | apply State.ccalStop_in | apply State.slicesStop_in
                  | apply State.bstStop_in | apply State.drainStores_in | apply State.recsToSolo_in | apply in_ite
              | exact Foot.sub hft rfl
              | with_reducible exact Or.inl rfl
              | exact Or.inr (Foot.sub hft rfl)
              | with_reducible apply InMk.of
              | simp -zeta only [in_mk_iff]
              | split
              | intro _ _ _
              | intro _ _
          clear_value x)
       | clear_value x
       | subst x)
    | with_reducible first
        | assumption | apply State.wri_in | apply State.wr_in | apply State.setf_in | apply State.send_in
        | apply State.each_in | apply State.record_in | apply State.stallEnds_in | apply State.setRdy_in
        | apply State.drainMoves_in | apply State.ccalStop_in | apply State.slicesStop_in | apply State.bstStop_in
        | apply State.drainStores_in | apply State.recsToSolo_in | apply in_ite
    | exact Foot.sub hft rfl
    | with_reducible exact Or.inl rfl
    | exact Or.inr (Foot.sub hft rfl)
    | with_reducible apply InMk.of
    | simp -zeta only [in_mk_iff]
    | split
    | intro _ _ _
    | intro _ _

def State.trigger_foot : Foot := Part.drain.foot ||| State.startDrain_foot
theorem State.trigger_in {s : State} {t : Trig} {railsUp : Bool} (hks : In ft s0 s)
    (hft : State.trigger_foot.le ft = true) :
    In ft s0 (State.trigger s t railsUp) := by
  unfold State.trigger
  repeat' first
    | (extract_lets +onlyGivenNames x; clear_value x)
    | with_reducible first | assumption | apply State.startDrain_in | apply in_ite
    | exact Foot.sub hft rfl
    | with_reducible exact Or.inl rfl
    | exact Or.inr (Foot.sub hft rfl)
    | with_reducible apply InMk.of
    | simp -zeta only [in_mk_iff]
    | split

def State.fatal_foot : Foot :=
  Fld.FATAL.foot ||| Fld.FATAL_BLK.foot ||| State.record_foot ||| State.alertFatal_foot ||| State.setRdy_foot |||
    State.trigger_foot
theorem State.fatal_in {s : State} {blk rule : Nat} {items : List (Nat × Nat)} (hks : In ft s0 s)
    (hft : State.fatal_foot.le ft = true) :
    In ft s0 (State.fatal s blk rule items) := by
  unfold State.fatal
  repeat' first
    | (extract_lets +onlyGivenNames x
       first
       | (have : In ft s0 x := by
            subst x
            repeat' first
              | (extract_lets +onlyGivenNames x; subst x)
              | with_reducible first
                  | assumption | apply State.wr_in | apply State.setf_in | apply State.each_in
                  | apply State.record_in | apply State.alertFatal_in | apply State.setRdy_in
                  | apply State.trigger_in | apply in_ite
              | exact Foot.sub hft rfl
              | split
              | intro _ _ _
              | intro _ _
          clear_value x)
       | clear_value x
       | subst x)
    | with_reducible first
        | assumption | apply State.wr_in | apply State.setf_in | apply State.each_in | apply State.record_in
        | apply State.alertFatal_in | apply State.setRdy_in | apply State.trigger_in | apply in_ite
    | exact Foot.sub hft rfl
    | split
    | intro _ _ _
    | intro _ _

def State.writeBackAll_foot : Foot := Part.fch.foot ||| State.writeDram_foot ||| State.writeBack_foot
theorem State.writeBackAll_in {s : State} (hks : In ft s0 s) (hft : State.writeBackAll_foot.le ft = true) :
    In ft s0 (State.writeBackAll s) := by
  unfold State.writeBackAll
  repeat' first
    | (extract_lets +onlyGivenNames x
       first
       | (have : In ft s0 x := by
            subst x
            repeat' first
              | (extract_lets +onlyGivenNames x; subst x)
              | with_reducible first
                  | assumption | apply State.each_in | apply State.writeDram_in | apply State.writeBack_in
              | exact Foot.sub hft rfl
              | with_reducible exact Or.inl rfl
              | exact Or.inr (Foot.sub hft rfl)
              | with_reducible apply InMk.of
              | simp -zeta only [in_mk_iff]
              | split
              | intro _ _ _
              | intro _ _
          clear_value x)
       | clear_value x
       | subst x)
    | with_reducible first | assumption | apply State.each_in | apply State.writeDram_in | apply State.writeBack_in
    | exact Foot.sub hft rfl
    | with_reducible exact Or.inl rfl
    | exact Or.inr (Foot.sub hft rfl)
    | with_reducible apply InMk.of
    | simp -zeta only [in_mk_iff]
    | split
    | intro _ _ _
    | intro _ _

def State.vaultCp_foot : Foot := Part.nfc.foot ||| Part.drain.foot
theorem State.vaultCp_in {s : State} {bad : List Nat} {k : Key} (hks : In ft s0 s)
    (hft : State.vaultCp_foot.le ft = true) :
    In ft s0 (State.vaultCp s bad k) := by
  unfold State.vaultCp
  repeat' first
    | (extract_lets +onlyGivenNames x; clear_value x)
    | with_reducible first | assumption | apply in_ite
    | exact Foot.sub hft rfl
    | with_reducible exact Or.inl rfl
    | exact Or.inr (Foot.sub hft rfl)
    | with_reducible apply InMk.of
    | simp -zeta only [in_mk_iff]
    | split

def State.saveMeta_foot : Foot := Part.saved.foot
theorem State.saveMeta_in {s : State} {j : MetaData} {solo : SMap Bool} (hks : In ft s0 s)
    (hft : State.saveMeta_foot.le ft = true) :
    In ft s0 (State.saveMeta s j solo) := by
  unfold State.saveMeta
  repeat' first
    | (extract_lets +onlyGivenNames x; clear_value x)
    | with_reducible first | assumption
    | exact Foot.sub hft rfl
    | with_reducible exact Or.inl rfl
    | exact Or.inr (Foot.sub hft rfl)
    | with_reducible apply InMk.of
    | simp -zeta only [in_mk_iff]

end Sys2Proof.Machine
end

