-- ==== Sys2Proof/Laws/FrameMirRx.lean ====
section
/-! SUPPORT. The footprints of the operations of Machine/MirRx (Laws/Frame). -/

namespace Sys2Proof.Machine

variable {ft : Foot} {s0 : State}

def State.setMir_foot : Foot := Part.mir.foot
theorem State.setMir_in {s : State} {f : MirS → MirS} (hks : In ft s0 s) (hft : State.setMir_foot.le ft = true) :
    In ft s0 (State.setMir s f) := by
  unfold State.setMir
  repeat' first
    | (extract_lets +onlyGivenNames x; clear_value x)
    | with_reducible first | assumption
    | exact Foot.sub hft rfl
    | with_reducible exact Or.inl rfl
    | exact Or.inr (Foot.sub hft rfl)
    | with_reducible apply InMk.of
    | simp -zeta only [in_mk_iff]

def State.sendAck_foot : Foot := State.send_foot
theorem State.sendAck_in {s : State} {lane : Nat} (hks : In ft s0 s) (hft : State.sendAck_foot.le ft = true) :
    In ft s0 (State.sendAck s lane) := by
  unfold State.sendAck
  repeat' first
    | with_reducible first | assumption | apply State.send_in
    | exact Foot.sub hft rfl

def State.setUse_foot : Foot := State.setFrame_foot
theorem State.setUse_in {s : State} {obj u : Nat} (hks : In ft s0 s) (hft : State.setUse_foot.le ft = true) :
    In ft s0 (State.setUse s obj u) := by
  unfold State.setUse
  repeat' first
    | (extract_lets +onlyGivenNames x; clear_value x)
    | with_reducible first | assumption | apply State.each_in | apply State.setFrame_in
    | exact Foot.sub hft rfl
    | with_reducible exact Or.inl rfl
    | exact Or.inr (Foot.sub hft rfl)
    | with_reducible apply InMk.of
    | simp -zeta only [in_mk_iff]
    | intro _ _ _
    | intro _ _

def State.removeObj_foot : Foot :=
  State.journal_foot ||| State.ledgerRegs_foot ||| State.refsReg_foot ||| State.freePage_foot
theorem State.removeObj_in {s : State} {obj : Nat} (hks : In ft s0 s) (hft : State.removeObj_foot.le ft = true) :
    In ft s0 (State.removeObj s obj) := by
  unfold State.removeObj
  repeat' first
    | (extract_lets +onlyGivenNames x
       first
       | (have : In ft s0 x := by
            subst x
            repeat' first
              | (extract_lets +onlyGivenNames x; subst x)
              | with_reducible first
                  | assumption | apply State.each_in | apply State.journal_in | apply State.ledgerRegs_in
                  | apply State.refsReg_in | apply State.freePage_in
              | exact Foot.sub hft rfl
              | split
              | intro _ _ _
              | intro _ _
          clear_value x)
       | clear_value x
       | subst x)
    | with_reducible first
        | assumption | apply State.each_in | apply State.journal_in | apply State.ledgerRegs_in
        | apply State.refsReg_in | apply State.freePage_in
    | exact Foot.sub hft rfl
    | split
    | intro _ _ _
    | intro _ _

def State.resizeTo_foot : Foot := State.journal_foot ||| State.takeHomes_foot ||| State.freePage_foot
theorem State.resizeTo_in {s : State} {obj : Nat} {o o2 : Obj} (hks : In ft s0 s)
    (hft : State.resizeTo_foot.le ft = true) :
    In ft s0 (State.resizeTo s obj o o2) := by
  unfold State.resizeTo
  repeat' first
    | (extract_lets +onlyGivenNames x
       first
       | (have : In ft s0 x := by
            subst x
            repeat' first
              | (extract_lets +onlyGivenNames x; subst x)
              | with_reducible first
                  | assumption | apply State.each_in | apply State.journal_in | apply State.takeHomes_in
                  | apply State.freePage_in | apply in_ite
              | exact Foot.sub hft rfl
              | with_reducible exact Or.inl rfl
              | exact Or.inr (Foot.sub hft rfl)
              | with_reducible apply InMk.of
              | simp -zeta only [in_mk_iff]
              | split
              | intro _ _ _
              | intro _ _
          clear_value x)
       | clear_value x
       | subst x)
    | with_reducible first
        | assumption | apply State.each_in | apply State.journal_in | apply State.takeHomes_in
        | apply State.freePage_in | apply in_ite
    | exact Foot.sub hft rfl
    | with_reducible exact Or.inl rfl
    | exact Or.inr (Foot.sub hft rfl)
    | with_reducible apply InMk.of
    | simp -zeta only [in_mk_iff]
    | split
    | intro _ _ _
    | intro _ _

def State.needPages_foot : Foot := State.setMir_foot
theorem State.needPages_in {s : State} {own : Bool} {id a b : Nat} (hks : In ft s0 s)
    (hft : State.needPages_foot.le ft = true) :
    In ft s0 (State.needPages s own id a b) := by
  unfold State.needPages
  repeat' first
    | (extract_lets +onlyGivenNames x
       first
       | (have : In ft s0 x := by
            subst x
            repeat' first
              | with_reducible first | assumption | apply State.setMir_in | apply in_ite
              | exact Foot.sub hft rfl
              | with_reducible exact Or.inl rfl
              | exact Or.inr (Foot.sub hft rfl)
              | with_reducible apply InMk.of
              | simp -zeta only [in_mk_iff]
              | split
              | intro _ _ _
              | intro _ _
          clear_value x)
       | clear_value x
       | subst x)
    | with_reducible first | assumption | apply State.setMir_in | apply in_ite
    | exact Foot.sub hft rfl
    | with_reducible exact Or.inl rfl
    | exact Or.inr (Foot.sub hft rfl)
    | with_reducible apply InMk.of
    | simp -zeta only [in_mk_iff]
    | split
    | intro _ _ _
    | intro _ _

def State.noRoom_foot : Foot := State.send_foot ||| State.record_foot ||| State.alert_foot ||| State.setMir_foot
theorem State.noRoom_in {s : State} {id : Nat} {items : List (Nat × Nat)} (hks : In ft s0 s)
    (hft : State.noRoom_foot.le ft = true) :
    In ft s0 (State.noRoom s id items) := by
  unfold State.noRoom
  repeat' first
    | (extract_lets +onlyGivenNames x
       first
       | (have : In ft s0 x := by
            subst x
            repeat' first
              | with_reducible first
                  | assumption | apply State.send_in | apply State.record_in | apply State.alert_in
                  | apply State.setMir_in
              | exact Foot.sub hft rfl
              | with_reducible exact Or.inl rfl
              | exact Or.inr (Foot.sub hft rfl)
              | with_reducible apply InMk.of
              | simp -zeta only [in_mk_iff]
              | split
              | intro _ _ _
              | intro _ _
          clear_value x)
       | clear_value x
       | subst x)
    | with_reducible first
        | assumption | apply State.send_in | apply State.record_in | apply State.alert_in | apply State.setMir_in
    | exact Foot.sub hft rfl
    | with_reducible exact Or.inl rfl
    | exact Or.inr (Foot.sub hft rfl)
    | with_reducible apply InMk.of
    | simp -zeta only [in_mk_iff]
    | split
    | intro _ _ _
    | intro _ _

def State.applyMeta_foot : Foot :=
  State.journal_foot ||| State.ledgerRegs_foot ||| State.refsReg_foot ||| State.takeHomes_foot |||
    State.setMir_foot ||| State.removeObj_foot ||| State.resizeTo_foot ||| State.needPages_foot |||
    State.noRoom_foot
theorem State.applyMeta_in {s : State} {op : JOp} (hks : In ft s0 s) (hft : State.applyMeta_foot.le ft = true) :
    In ft s0 (State.applyMeta s op) := by
  unfold State.applyMeta
  repeat' first
    | (extract_lets +onlyGivenNames x
       first
       | (have : In ft s0 x := by
            subst x
            repeat' first
              | (extract_lets +onlyGivenNames x; subst x)
              | with_reducible first
                  | assumption | apply State.journal_in | apply State.ledgerRegs_in | apply State.refsReg_in
                  | apply State.takeHomes_in | apply State.setMir_in | apply State.removeObj_in
                  | apply State.resizeTo_in | apply State.needPages_in | apply State.noRoom_in | apply in_ite
              | exact Foot.sub hft rfl
              | with_reducible exact Or.inl rfl
              | exact Or.inr (Foot.sub hft rfl)
              | with_reducible apply InMk.of
              | simp -zeta only [in_mk_iff]
              | split
              | intro _ _ _
              | intro _ _
          clear_value x)
       | clear_value x
       | subst x)
    | with_reducible first
        | assumption | apply State.journal_in | apply State.ledgerRegs_in | apply State.refsReg_in
        | apply State.takeHomes_in | apply State.setMir_in | apply State.removeObj_in | apply State.resizeTo_in
        | apply State.needPages_in | apply State.noRoom_in | apply in_ite
    | exact Foot.sub hft rfl
    | with_reducible exact Or.inl rfl
    | exact Or.inr (Foot.sub hft rfl)
    | with_reducible apply InMk.of
    | simp -zeta only [in_mk_iff]
    | split
    | intro _ _ _
    | intro _ _

def State.closePass_foot : Foot := State.setMir_foot ||| State.removeObj_foot
theorem State.closePass_in {s : State} (hks : In ft s0 s) (hft : State.closePass_foot.le ft = true) :
    InP ft s0 (State.closePass s) := by
  unfold State.closePass
  repeat' first
    | (extract_lets +onlyGivenNames x
       first
       | (have : In ft s0 x := by
            subst x
            repeat' first
              | (extract_lets +onlyGivenNames x; subst x)
              | with_reducible first
                  | assumption | apply State.setMir_in | apply State.removeObj_in | apply foldl_in | apply inP_ite
                  | apply in_ite | apply foldl_inP
              | exact Foot.sub hft rfl
              | with_reducible exact Or.inl rfl
              | exact Or.inr (Foot.sub hft rfl)
              | with_reducible apply InMk.of
              | simp -zeta only [in_mk_iff]
              | (with_reducible refine InP.fst ?_; with_reducible first | assumption | apply foldl_inP)
              | split
              | intro _ _ _
              | intro _ _
              | with_reducible apply InP.pair
              | dsimp -zeta only
          clear_value x)
       | (have : InP ft s0 x := by
            subst x
            repeat' first
              | (extract_lets +onlyGivenNames x; subst x)
              | with_reducible first
                  | assumption | apply State.setMir_in | apply State.removeObj_in | apply foldl_in | apply inP_ite
                  | apply in_ite | apply foldl_inP
              | exact Foot.sub hft rfl
              | with_reducible exact Or.inl rfl
              | exact Or.inr (Foot.sub hft rfl)
              | with_reducible apply InMk.of
              | simp -zeta only [in_mk_iff]
              | (with_reducible refine InP.fst ?_; with_reducible first | assumption | apply foldl_inP)
              | split
              | intro _ _ _
              | intro _ _
              | with_reducible apply InP.pair
              | dsimp -zeta only
          clear_value x)
       | clear_value x
       | subst x)
    | with_reducible first
        | assumption | apply State.setMir_in | apply State.removeObj_in | apply foldl_in | apply inP_ite
        | apply in_ite | apply foldl_inP
    | exact Foot.sub hft rfl
    | with_reducible exact Or.inl rfl
    | exact Or.inr (Foot.sub hft rfl)
    | with_reducible apply InMk.of
    | simp -zeta only [in_mk_iff]
    | (with_reducible refine InP.fst ?_; with_reducible first | assumption | apply foldl_inP)
    | split
    | intro _ _ _
    | intro _ _
    | with_reducible apply InP.pair
    | dsimp -zeta only

def State.markApplied_foot : Foot := Fld.TWIN_APPLIED.foot ||| State.setMir_foot ||| State.sendAck_foot
theorem State.markApplied_in {s : State} {r : MRec} (hks : In ft s0 s) (hft : State.markApplied_foot.le ft = true) :
    In ft s0 (State.markApplied s r) := by
  unfold State.markApplied
  repeat' first
    | (extract_lets +onlyGivenNames x
       first
       | (have : In ft s0 x := by
            subst x
            repeat' first
              | (extract_lets +onlyGivenNames x; subst x)
              | with_reducible first
                  | assumption | apply State.wr_in | apply State.setMir_in | apply State.sendAck_in | apply foldl_in
                  | apply in_ite | apply inP_ite
              | exact Foot.sub hft rfl
              | with_reducible exact Or.inl rfl
              | exact Or.inr (Foot.sub hft rfl)
              | with_reducible apply InMk.of
              | simp -zeta only [in_mk_iff]
              | split
              | intro _ _ _
              | intro _ _
              | with_reducible apply InP.pair
          clear_value x)
       | clear_value x
       | subst x)
    | with_reducible first
        | assumption | apply State.wr_in | apply State.setMir_in | apply State.sendAck_in | apply foldl_in
        | apply in_ite | apply inP_ite
    | exact Foot.sub hft rfl
    | with_reducible exact Or.inl rfl
    | exact Or.inr (Foot.sub hft rfl)
    | with_reducible apply InMk.of
    | simp -zeta only [in_mk_iff]
    | split
    | intro _ _ _
    | intro _ _
    | with_reducible apply InP.pair

def State.putLines_foot : Foot := State.writeDram_foot ||| State.dropWay_foot ||| State.flushEvict_foot
theorem State.putLines_in {s : State} {f k : Nat} {r : MRec} (hks : In ft s0 s)
    (hft : State.putLines_foot.le ft = true) :
    In ft s0 (State.putLines s f k r) := by
  unfold State.putLines
  repeat' first
    | (extract_lets +onlyGivenNames x
       first
       | (have : In ft s0 x := by
            subst x
            repeat' first
              | (extract_lets +onlyGivenNames x; subst x)
              | with_reducible first
                  | assumption | apply State.each_in | apply State.writeDram_in | apply State.dropWay_in
                  | apply State.flushEvict_in | apply in_ite
              | exact Foot.sub hft rfl
              | split
              | intro _ _ _
              | intro _ _
          clear_value x)
       | clear_value x
       | subst x)
    | with_reducible first
        | assumption | apply State.each_in | apply State.writeDram_in | apply State.dropWay_in
        | apply State.flushEvict_in | apply in_ite
    | exact Foot.sub hft rfl
    | split
    | intro _ _ _
    | intro _ _

def State.stageFrame_foot : Foot :=
  State.dreq_foot ||| State.takeFrame_foot ||| State.putCp_foot ||| State.cleanFrame_foot ||| State.setMir_foot
theorem State.stageFrame_in {s : State} {obj tp old : Nat} (hks : In ft s0 s)
    (hft : State.stageFrame_foot.le ft = true) :
    In ft s0 (State.stageFrame s obj tp old) := by
  unfold State.stageFrame
  repeat' first
    | (extract_lets +onlyGivenNames x
       first
       | (have : In ft s0 x := by
            subst x
            repeat' first
              | (extract_lets +onlyGivenNames x; subst x)
              | with_reducible first
                  | assumption | apply State.each_in | apply State.dreq_in | apply State.takeFrame_in
                  | apply State.putCp_in | apply State.cleanFrame_in | apply State.setMir_in
              | exact Foot.sub hft rfl
              | with_reducible exact Or.inl rfl
              | exact Or.inr (Foot.sub hft rfl)
              | with_reducible apply InMk.of
              | simp -zeta only [in_mk_iff]
              | split
              | intro _ _ _
              | intro _ _
          clear_value x)
       | clear_value x
       | subst x)
    | with_reducible first
        | assumption | apply State.each_in | apply State.dreq_in | apply State.takeFrame_in | apply State.putCp_in
        | apply State.cleanFrame_in | apply State.setMir_in
    | exact Foot.sub hft rfl
    | with_reducible exact Or.inl rfl
    | exact Or.inr (Foot.sub hft rfl)
    | with_reducible apply InMk.of
    | simp -zeta only [in_mk_iff]
    | split
    | intro _ _ _
    | intro _ _

def State.dropStaged_foot : Foot := State.releaseKey_foot ||| State.freeFrame_foot ||| State.setMir_foot
theorem State.dropStaged_in {s : State} (hks : In ft s0 s) (hft : State.dropStaged_foot.le ft = true) :
    In ft s0 (State.dropStaged s) := by
  unfold State.dropStaged
  repeat' first
    | (extract_lets +onlyGivenNames x
       first
       | (have : In ft s0 x := by
            subst x
            repeat' first
              | (extract_lets +onlyGivenNames x; subst x)
              | with_reducible first
                  | assumption | apply State.each_in | apply State.releaseKey_in | apply State.freeFrame_in
                  | apply State.setMir_in
              | exact Foot.sub hft rfl
              | with_reducible exact Or.inl rfl
              | exact Or.inr (Foot.sub hft rfl)
              | with_reducible apply InMk.of
              | simp -zeta only [in_mk_iff]
              | intro _ _ _
              | intro _ _
          clear_value x)
       | clear_value x
       | subst x)
    | with_reducible first
        | assumption | apply State.each_in | apply State.releaseKey_in | apply State.freeFrame_in
        | apply State.setMir_in
    | exact Foot.sub hft rfl
    | with_reducible exact Or.inl rfl
    | exact Or.inr (Foot.sub hft rfl)
    | with_reducible apply InMk.of
    | simp -zeta only [in_mk_iff]
    | intro _ _ _
    | intro _ _

def State.commitPage_foot : Foot :=
  Part.stl.foot ||| State.setMap_foot ||| State.setFrame_foot ||| State.freeFrame_foot ||| State.releaseCp_foot |||
    State.redirty_foot ||| State.setMir_foot
theorem State.commitPage_in {s : State} {o : Obj} {obj tp f : Nat} (hks : In ft s0 s)
    (hft : State.commitPage_foot.le ft = true) :
    In ft s0 (State.commitPage s o obj tp f) := by
  unfold State.commitPage
  repeat' first
    | (extract_lets +onlyGivenNames x
       first
       | (have : In ft s0 x := by
            subst x
            repeat' first
              | (extract_lets +onlyGivenNames x; subst x)
              | with_reducible first
                  | assumption | apply State.each_in | apply State.setMap_in | apply State.setFrame_in
                  | apply State.freeFrame_in | apply State.releaseCp_in | apply State.redirty_in
                  | apply State.setMir_in | apply in_ite
              | exact Foot.sub hft rfl
              | with_reducible exact Or.inl rfl
              | exact Or.inr (Foot.sub hft rfl)
              | with_reducible apply InMk.of
              | simp -zeta only [in_mk_iff]
              | split
              | intro _ _ _
              | intro _ _
          clear_value x)
       | clear_value x
       | subst x)
    | with_reducible first
        | assumption | apply State.each_in | apply State.setMap_in | apply State.setFrame_in
        | apply State.freeFrame_in | apply State.releaseCp_in | apply State.redirty_in | apply State.setMir_in
        | apply in_ite
    | exact Foot.sub hft rfl
    | with_reducible exact Or.inl rfl
    | exact Or.inr (Foot.sub hft rfl)
    | with_reducible apply InMk.of
    | simp -zeta only [in_mk_iff]
    | split
    | intro _ _ _
    | intro _ _

def State.applyOne_foot : Foot :=
  State.chargeKey_foot ||| State.journal_foot ||| State.chargeCp_foot ||| State.touch_foot |||
    State.redirty_foot ||| State.needPage_foot ||| State.rerun_foot ||| State.setMir_foot |||
    State.applyMeta_foot ||| State.closePass_foot ||| State.markApplied_foot ||| State.putLines_foot |||
    State.stageFrame_foot ||| State.commitPage_foot
theorem State.applyOne_in {s : State} {r : MRec} (hks : In ft s0 s) (hft : State.applyOne_foot.le ft = true) :
    InP ft s0 (State.applyOne s r) := by
  unfold State.applyOne
  repeat' first
    | (extract_lets +onlyGivenNames x
       first
       | (have : In ft s0 x := by
            subst x
            repeat' first
              | (extract_lets +onlyGivenNames x; subst x)
              | with_reducible first
                  | assumption | apply State.each_in | apply State.chargeKey_in | apply State.journal_in
                  | apply State.chargeCp_in | apply State.touch_in | apply State.redirty_in | apply State.needPage_in
                  | apply State.rerun_in | apply State.setMir_in | apply State.applyMeta_in
                  | apply State.closePass_in | apply State.markApplied_in | apply State.putLines_in
                  | apply State.stageFrame_in | apply State.commitPage_in | apply inP_ite | apply in_ite
              | exact Foot.sub hft rfl
              | with_reducible exact Or.inl rfl
              | exact Or.inr (Foot.sub hft rfl)
              | with_reducible apply InMk.of
              | simp -zeta only [in_mk_iff]
              | with_reducible refine InP.eq (by assumption) ?_
              | (with_reducible refine InP.fst ?_; with_reducible first | assumption | apply State.closePass_in)
              | split
              | intro _ _ _
              | intro _ _
              | with_reducible apply InP.pair
              | dsimp -zeta only
          clear_value x)
       | (have : InP ft s0 x := by
            subst x
            repeat' first
              | (extract_lets +onlyGivenNames x; subst x)
              | with_reducible first
                  | assumption | apply State.each_in | apply State.chargeKey_in | apply State.journal_in
                  | apply State.chargeCp_in | apply State.touch_in | apply State.redirty_in | apply State.needPage_in
                  | apply State.rerun_in | apply State.setMir_in | apply State.applyMeta_in
                  | apply State.closePass_in | apply State.markApplied_in | apply State.putLines_in
                  | apply State.stageFrame_in | apply State.commitPage_in | apply inP_ite | apply in_ite
              | exact Foot.sub hft rfl
              | with_reducible exact Or.inl rfl
              | exact Or.inr (Foot.sub hft rfl)
              | with_reducible apply InMk.of
              | simp -zeta only [in_mk_iff]
              | with_reducible refine InP.eq (by assumption) ?_
              | (with_reducible refine InP.fst ?_; with_reducible first | assumption | apply State.closePass_in)
              | split
              | intro _ _ _
              | intro _ _
              | with_reducible apply InP.pair
              | dsimp -zeta only
          clear_value x)
       | clear_value x
       | subst x)
    | with_reducible first
        | assumption | apply State.each_in | apply State.chargeKey_in | apply State.journal_in
        | apply State.chargeCp_in | apply State.touch_in | apply State.redirty_in | apply State.needPage_in
        | apply State.rerun_in | apply State.setMir_in | apply State.applyMeta_in | apply State.closePass_in
        | apply State.markApplied_in | apply State.putLines_in | apply State.stageFrame_in
        | apply State.commitPage_in | apply inP_ite | apply in_ite
    | exact Foot.sub hft rfl
    | with_reducible exact Or.inl rfl
    | exact Or.inr (Foot.sub hft rfl)
    | with_reducible apply InMk.of
    | simp -zeta only [in_mk_iff]
    | with_reducible refine InP.eq (by assumption) ?_
    | (with_reducible refine InP.fst ?_; with_reducible first | assumption | apply State.closePass_in)
    | split
    | intro _ _ _
    | intro _ _
    | with_reducible apply InP.pair
    | dsimp -zeta only

def applyRounds_foot : Foot := State.applyOne_foot
theorem applyRounds_in {n : Nat} {s : State} (hks : In ft s0 s) (hft : applyRounds_foot.le ft = true) :
    In ft s0 (applyRounds n s) := by
  induction n generalizing s with
  | zero => exact hks
  | succ n ih =>
  unfold applyRounds
  repeat' first
    | (extract_lets +onlyGivenNames x
       first
       | (have : In ft s0 x := by
            subst x
            repeat' first
              | (extract_lets +onlyGivenNames x; subst x)
              | with_reducible first
                  | assumption | apply ih | apply State.applyOne_in | apply foldl_in | apply in_ite | apply inP_ite
                  | apply foldl_inP
              | exact Foot.sub hft rfl
              | with_reducible refine InP.eq (by assumption) ?_
              | (with_reducible refine InP.fst ?_
                 with_reducible first
                   | assumption | apply State.applyOne_in | apply foldl_inP)
              | split
              | intro _ _ _
              | intro _ _
              | with_reducible apply InP.pair
              | dsimp -zeta only
          clear_value x)
       | (have : InP ft s0 x := by
            subst x
            repeat' first
              | (extract_lets +onlyGivenNames x; subst x)
              | with_reducible first
                  | assumption | apply ih | apply State.applyOne_in | apply foldl_in | apply in_ite | apply inP_ite
                  | apply foldl_inP
              | exact Foot.sub hft rfl
              | with_reducible refine InP.eq (by assumption) ?_
              | (with_reducible refine InP.fst ?_
                 with_reducible first
                   | assumption | apply State.applyOne_in | apply foldl_inP)
              | split
              | intro _ _ _
              | intro _ _
              | with_reducible apply InP.pair
              | dsimp -zeta only
          clear_value x)
       | clear_value x
       | subst x)
    | with_reducible first
        | assumption | apply ih | apply State.applyOne_in | apply foldl_in | apply in_ite | apply inP_ite
        | apply foldl_inP
    | exact Foot.sub hft rfl
    | with_reducible refine InP.eq (by assumption) ?_
    | (with_reducible refine InP.fst ?_
       with_reducible first
         | assumption | apply State.applyOne_in | apply foldl_inP)
    | split
    | intro _ _ _
    | intro _ _
    | with_reducible apply InP.pair
    | dsimp -zeta only

def State.resyncCheck_foot : Foot :=
  Fld.RESYNC_BUSY.foot ||| Fld.FULL_RESYNC.foot ||| Fld.UNMATCHED.foot ||| State.rerun_foot |||
    State.mirChange_foot ||| State.setMir_foot
theorem State.resyncCheck_in {s : State} (hks : In ft s0 s) (hft : State.resyncCheck_foot.le ft = true) :
    In ft s0 (State.resyncCheck s) := by
  unfold State.resyncCheck
  repeat' first
    | (extract_lets +onlyGivenNames x
       first
       | (have : In ft s0 x := by
            subst x
            repeat' first
              | (extract_lets +onlyGivenNames x; subst x)
              | with_reducible first
                  | assumption | apply State.setf_in | apply State.rerun_in | apply State.mirChange_in
                  | apply State.setMir_in | apply in_ite
              | exact Foot.sub hft rfl
              | with_reducible exact Or.inl rfl
              | exact Or.inr (Foot.sub hft rfl)
              | with_reducible apply InMk.of
              | simp -zeta only [in_mk_iff]
              | split
              | intro _ _ _
              | intro _ _
          clear_value x)
       | clear_value x
       | subst x)
    | with_reducible first
        | assumption | apply State.setf_in | apply State.rerun_in | apply State.mirChange_in | apply State.setMir_in
        | apply in_ite
    | exact Foot.sub hft rfl
    | with_reducible exact Or.inl rfl
    | exact Or.inr (Foot.sub hft rfl)
    | with_reducible apply InMk.of
    | simp -zeta only [in_mk_iff]
    | split
    | intro _ _ _
    | intro _ _

def State.applyHeld_foot : Foot := applyRounds_foot ||| State.resyncCheck_foot
theorem State.applyHeld_in {s : State} (hks : In ft s0 s) (hft : State.applyHeld_foot.le ft = true) :
    In ft s0 (State.applyHeld s) := by
  unfold State.applyHeld
  repeat' first
    | with_reducible first | assumption | apply applyRounds_in | apply State.resyncCheck_in | apply in_ite
    | exact Foot.sub hft rfl
    | split

def State.linkLost_foot : Foot :=
  Fld.PHY_UP.foot ||| Fld.RETX_RECORDS.foot ||| Fld.RESYNC_LEFT.foot ||| Fld.MIR_STATUS_LINK_UP.foot |||
    Fld.RESYNC_BUSY.foot ||| Fld.FULL_RESYNC.foot ||| Fld.LINK_LOSS_CNT.foot ||| Fld.MIR_FLAGS_CNT_OVF.foot |||
    State.count_foot ||| State.closeAll_foot ||| State.rerun_foot ||| State.mirChange_foot |||
    State.mirRoom_foot ||| State.recsToSolo_foot ||| State.setMir_foot ||| State.dropStaged_foot
theorem State.linkLost_in {s : State} {hold : Bool} (hks : In ft s0 s) (hft : State.linkLost_foot.le ft = true) :
    In ft s0 (State.linkLost s hold) := by
  unfold State.linkLost
  repeat' first
    | (extract_lets +onlyGivenNames x
       first
       | (have : In ft s0 x := by
            subst x
            repeat' first
              | (extract_lets +onlyGivenNames x; subst x)
              | with_reducible first
                  | assumption | apply State.wr_in | apply State.setf_in | apply State.setfi_in | apply State.each_in
                  | apply State.count_in | apply State.closeAll_in | apply State.rerun_in | apply State.mirChange_in
                  | apply State.mirRoom_in | apply State.recsToSolo_in | apply State.setMir_in
                  | apply State.dropStaged_in | apply in_ite
              | exact Foot.sub hft rfl
              | with_reducible exact Or.inl rfl
              | exact Or.inr (Foot.sub hft rfl)
              | with_reducible apply InMk.of
              | simp -zeta only [in_mk_iff]
              | split
              | intro _ _ _
              | intro _ _
          clear_value x)
       | clear_value x
       | subst x)
    | with_reducible first
        | assumption | apply State.wr_in | apply State.setf_in | apply State.setfi_in | apply State.each_in
        | apply State.count_in | apply State.closeAll_in | apply State.rerun_in | apply State.mirChange_in
        | apply State.mirRoom_in | apply State.recsToSolo_in | apply State.setMir_in | apply State.dropStaged_in
        | apply in_ite
    | exact Foot.sub hft rfl
    | with_reducible exact Or.inl rfl
    | exact Or.inr (Foot.sub hft rfl)
    | with_reducible apply InMk.of
    | simp -zeta only [in_mk_iff]
    | split
    | intro _ _ _
    | intro _ _

def State.resend_foot : Foot :=
  Fld.RETX_CNT.foot ||| Fld.MIR_FLAGS_CNT_OVF.foot ||| State.send_foot ||| State.count_foot
theorem State.resend_in {s : State} {lane : Nat} (hks : In ft s0 s) (hft : State.resend_foot.le ft = true) :
    In ft s0 (State.resend s lane) := by
  unfold State.resend
  repeat' first
    | (extract_lets +onlyGivenNames x; clear_value x)
    | with_reducible first
        | assumption | apply State.send_in | apply State.each_in | apply State.count_in | apply in_ite
    | exact Foot.sub hft rfl
    | split
    | intro _ _ _
    | intro _ _

def execRecord_foot : Foot :=
  Fld.DUP_CNT.foot ||| Fld.MIR_FLAGS_CNT_OVF.foot ||| Fld.TAG_FAIL_CNT.foot ||| Fld.GCM_FAIL_CNT.foot |||
    Fld.CIP_FLAGS_CNT_OVF.foot ||| State.send_foot ||| State.count_foot ||| State.setMir_foot |||
    State.sendAck_foot ||| State.applyHeld_foot ||| State.linkLost_foot
theorem execRecord_in {r : MRec} {tagOk : Bool} {s : State} (hks : In ft s0 s) (hft : execRecord_foot.le ft = true) :
    InOut ft s0 (execRecord r tagOk s) := by
  unfold execRecord
  repeat' first
    | (extract_lets +onlyGivenNames x
       first
       | (have : In ft s0 x := by
            subst x
            repeat' first
              | (extract_lets +onlyGivenNames x; subst x)
              | with_reducible first
                  | assumption | apply State.send_in | apply State.count_in | apply State.setMir_in
                  | apply State.sendAck_in | apply State.applyHeld_in | apply State.linkLost_in | apply inOut_ite
                  | apply in_ite | apply InOut.next
              | exact Foot.sub hft rfl
              | with_reducible exact Or.inl rfl
              | exact Or.inr (Foot.sub hft rfl)
              | with_reducible apply InMk.of
              | simp -zeta only [in_mk_iff]
              | split
              | intro _ _ _
              | intro _ _
          clear_value x)
       | clear_value x
       | subst x)
    | with_reducible first
        | assumption | apply State.send_in | apply State.count_in | apply State.setMir_in | apply State.sendAck_in
        | apply State.applyHeld_in | apply State.linkLost_in | apply inOut_ite | apply in_ite | apply InOut.next
    | exact Foot.sub hft rfl
    | with_reducible exact Or.inl rfl
    | exact Or.inr (Foot.sub hft rfl)
    | with_reducible apply InMk.of
    | simp -zeta only [in_mk_iff]
    | split
    | intro _ _ _
    | intro _ _

def execDrain_foot : Foot :=
  Fld.GCM_FAIL_CNT.foot ||| Fld.CIP_FLAGS_CNT_OVF.foot ||| State.count_foot ||| State.setMir_foot |||
    State.linkLost_foot
theorem execDrain_in {tagOk : Bool} {s : State} (hks : In ft s0 s) (hft : execDrain_foot.le ft = true) :
    InOut ft s0 (execDrain tagOk s) := by
  unfold execDrain
  repeat' first
    | (extract_lets +onlyGivenNames x; clear_value x)
    | with_reducible first
        | assumption | apply State.count_in | apply State.setMir_in | apply State.linkLost_in | apply inOut_ite
        | apply in_ite | apply InOut.next
    | exact Foot.sub hft rfl
    | with_reducible exact Or.inl rfl
    | exact Or.inr (Foot.sub hft rfl)
    | with_reducible apply InMk.of
    | simp -zeta only [in_mk_iff]
    | split
    | intro _ _ _
    | intro _ _

def execNoRoom_foot : Foot := Fld.UNMATCHED.foot ||| State.resolveFences_foot ||| State.setMir_foot
theorem execNoRoom_in {obj : Nat} {s : State} (hks : In ft s0 s) (hft : execNoRoom_foot.le ft = true) :
    InOut ft s0 (execNoRoom obj s) := by
  unfold execNoRoom
  repeat' first
    | (extract_lets +onlyGivenNames x
       first
       | (have : In ft s0 x := by
            subst x
            repeat' first
              | with_reducible first
                  | assumption | apply State.setf_in | apply State.resolveFences_in | apply State.setMir_in
                  | apply InOut.next
              | exact Foot.sub hft rfl
              | with_reducible exact Or.inl rfl
              | exact Or.inr (Foot.sub hft rfl)
              | with_reducible apply InMk.of
              | simp -zeta only [in_mk_iff]
              | split
              | intro _ _ _
              | intro _ _
          clear_value x)
       | clear_value x
       | subst x)
    | with_reducible first
        | assumption | apply State.setf_in | apply State.resolveFences_in | apply State.setMir_in | apply InOut.next
    | exact Foot.sub hft rfl
    | with_reducible exact Or.inl rfl
    | exact Or.inr (Foot.sub hft rfl)
    | with_reducible apply InMk.of
    | simp -zeta only [in_mk_iff]
    | split
    | intro _ _ _
    | intro _ _

end Sys2Proof.Machine
end

