-- ==== Sys2Proof/Laws/FrameMirror.lean ====
section
/-! SUPPORT. The footprints of the operations of Machine/Mirror (Laws/Frame). -/

namespace Sys2Proof.Machine

variable {ft : Foot} {s0 : State}

def State.sayHello_foot : Foot := State.send_foot
theorem State.sayHello_in {s : State} (hks : In ft s0 s) (hft : State.sayHello_foot.le ft = true) :
    In ft s0 (State.sayHello s) := by
  unfold State.sayHello
  repeat' first
    | with_reducible first | assumption | apply State.send_in | apply State.each_in
    | exact Foot.sub hft rfl
    | intro _ _ _
    | intro _ _

def State.mirrorRoles_foot : Foot := Fld.MIRROR.foot ||| State.setMir_foot
theorem State.mirrorRoles_in {s : State} (hks : In ft s0 s) (hft : State.mirrorRoles_foot.le ft = true) :
    In ft s0 (State.mirrorRoles s) := by
  unfold State.mirrorRoles
  repeat' first
    | (extract_lets +onlyGivenNames x
       first
       | (have : In ft s0 x := by
            subst x
            repeat' first
              | (extract_lets +onlyGivenNames x; subst x)
              | with_reducible first | assumption | apply State.setfi_in | apply State.setMir_in
              | exact Foot.sub hft rfl
              | with_reducible exact Or.inl rfl
              | exact Or.inr (Foot.sub hft rfl)
              | with_reducible apply InMk.of
              | simp -zeta only [in_mk_iff]
              | intro _ _ _
              | intro _ _
          clear_value x)
       | clear_value x
       | subst x)
    | with_reducible first | assumption | apply State.setfi_in | apply State.setMir_in
    | exact Foot.sub hft rfl
    | with_reducible exact Or.inl rfl
    | exact Or.inr (Foot.sub hft rfl)
    | with_reducible apply InMk.of
    | simp -zeta only [in_mk_iff]
    | intro _ _ _
    | intro _ _

def State.bringUp_foot : Foot :=
  State.mirChange_foot ||| State.setMir_foot ||| State.sayHello_foot ||| State.mirrorRoles_foot
theorem State.bringUp_in {s : State} {port : Nat} (hks : In ft s0 s) (hft : State.bringUp_foot.le ft = true) :
    In ft s0 (State.bringUp s port) := by
  unfold State.bringUp
  repeat' first
    | (extract_lets +onlyGivenNames x
       first
       | (have : In ft s0 x := by
            subst x
            repeat' first
              | (extract_lets +onlyGivenNames x; subst x)
              | with_reducible first
                  | assumption | apply State.when_in | apply State.mirChange_in | apply State.setMir_in
                  | apply State.sayHello_in | apply State.mirrorRoles_in | apply in_ite
              | exact Foot.sub hft rfl
              | with_reducible exact Or.inl rfl
              | exact Or.inr (Foot.sub hft rfl)
              | with_reducible apply InMk.of
              | simp -zeta only [in_mk_iff]
              | split
              | intro _ _ _
              | intro _ _
          clear_value x)
       | clear_value x
       | subst x)
    | with_reducible first
        | assumption | apply State.when_in | apply State.mirChange_in | apply State.setMir_in
        | apply State.sayHello_in | apply State.mirrorRoles_in | apply in_ite
    | exact Foot.sub hft rfl
    | with_reducible exact Or.inl rfl
    | exact Or.inr (Foot.sub hft rfl)
    | with_reducible apply InMk.of
    | simp -zeta only [in_mk_iff]
    | split
    | intro _ _ _
    | intro _ _

def execMirrorPhyUp_foot : Foot := Fld.PHY_UP.foot ||| State.setMir_foot ||| State.bringUp_foot
theorem execMirrorPhyUp_in {port : Nat} {s : State} (hks : In ft s0 s) (hft : execMirrorPhyUp_foot.le ft = true) :
    InOut ft s0 (execMirrorPhyUp port s) := by
  unfold execMirrorPhyUp
  repeat' first
    | (extract_lets +onlyGivenNames x
       first
       | (have : In ft s0 x := by
            subst x
            repeat' first
              | (extract_lets +onlyGivenNames x; subst x)
              | with_reducible first
                  | assumption | apply State.setfi_in | apply State.setMir_in | apply State.bringUp_in
                  | apply inOut_ite | apply in_ite | apply InOut.next
              | exact Foot.sub hft rfl
              | with_reducible exact Or.inl rfl
              | exact Or.inr (Foot.sub hft rfl)
              | with_reducible apply InMk.of
              | simp -zeta only [in_mk_iff]
              | split
              | intro _ _ _
              | intro _ _
          clear_value x)
       | clear_value x
       | subst x)
    | with_reducible first
        | assumption | apply State.setfi_in | apply State.setMir_in | apply State.bringUp_in | apply inOut_ite
        | apply in_ite | apply InOut.next
    | exact Foot.sub hft rfl
    | with_reducible exact Or.inl rfl
    | exact Or.inr (Foot.sub hft rfl)
    | with_reducible apply InMk.of
    | simp -zeta only [in_mk_iff]
    | split
    | intro _ _ _
    | intro _ _

def State.refuse_foot : Foot := Fld.ID_FAIL.foot ||| State.record_foot ||| State.alert_foot ||| State.setMir_foot
theorem State.refuse_in {s : State} {cause : Nat} (hks : In ft s0 s) (hft : State.refuse_foot.le ft = true) :
    In ft s0 (State.refuse s cause) := by
  unfold State.refuse
  repeat' first
    | (extract_lets +onlyGivenNames x
       first
       | (have : In ft s0 x := by
            subst x
            repeat' first
              | with_reducible first
                  | assumption | apply State.wr_in | apply State.record_in | apply State.alert_in
                  | apply State.setMir_in
              | exact Foot.sub hft rfl
              | with_reducible exact Or.inl rfl
              | exact Or.inr (Foot.sub hft rfl)
              | with_reducible apply InMk.of
              | simp -zeta only [in_mk_iff]
              | intro _ _ _
              | intro _ _
          clear_value x)
       | clear_value x
       | subst x)
    | with_reducible first
        | assumption | apply State.wr_in | apply State.record_in | apply State.alert_in | apply State.setMir_in
    | exact Foot.sub hft rfl
    | with_reducible exact Or.inl rfl
    | exact Or.inr (Foot.sub hft rfl)
    | with_reducible apply InMk.of
    | simp -zeta only [in_mk_iff]
    | intro _ _ _
    | intro _ _

def execMirrorPortPhyDown_foot : Foot :=
  Fld.PHY_UP.foot ||| State.mirChange_foot ||| State.setMir_foot ||| State.linkLost_foot ||| State.resend_foot
theorem execMirrorPortPhyDown_in {port : Nat} {s : State} (hks : In ft s0 s)
    (hft : execMirrorPortPhyDown_foot.le ft = true) :
    InOut ft s0 (execMirrorPortPhyDown port s) := by
  unfold execMirrorPortPhyDown
  repeat' first
    | (extract_lets +onlyGivenNames x
       first
       | (have : In ft s0 x := by
            subst x
            repeat' first
              | with_reducible first
                  | assumption | apply State.setfi_in | apply State.each_in | apply State.mirChange_in
                  | apply State.setMir_in | apply State.linkLost_in | apply State.resend_in | apply inOut_ite
                  | apply in_ite | apply InOut.next
              | exact Foot.sub hft rfl
              | with_reducible exact Or.inl rfl
              | exact Or.inr (Foot.sub hft rfl)
              | with_reducible apply InMk.of
              | simp -zeta only [in_mk_iff]
              | split
              | intro _ _ _
              | intro _ _
          clear_value x)
       | clear_value x
       | subst x)
    | with_reducible first
        | assumption | apply State.setfi_in | apply State.each_in | apply State.mirChange_in | apply State.setMir_in
        | apply State.linkLost_in | apply State.resend_in | apply inOut_ite | apply in_ite | apply InOut.next
    | exact Foot.sub hft rfl
    | with_reducible exact Or.inl rfl
    | exact Or.inr (Foot.sub hft rfl)
    | with_reducible apply InMk.of
    | simp -zeta only [in_mk_iff]
    | split
    | intro _ _ _
    | intro _ _

def execHello_foot : Foot := State.setMir_foot
theorem execHello_in {lport : Nat} {h : Hello} {s : State} (hks : In ft s0 s) (hft : execHello_foot.le ft = true) :
    InOut ft s0 (execHello lport h s) := by
  unfold execHello
  repeat' first
    | (extract_lets +onlyGivenNames x; clear_value x)
    | with_reducible first | assumption | apply State.setMir_in | apply inOut_ite | apply in_ite | apply InOut.next
    | exact Foot.sub hft rfl
    | with_reducible exact Or.inl rfl
    | exact Or.inr (Foot.sub hft rfl)
    | with_reducible apply InMk.of
    | simp -zeta only [in_mk_iff]
    | split
    | intro _ _ _
    | intro _ _

def execHelloRepeat_foot : Foot := State.sayHello_foot
theorem execHelloRepeat_in {s : State} (hks : In ft s0 s) (hft : execHelloRepeat_foot.le ft = true) :
    InOut ft s0 (execHelloRepeat s) := by
  unfold execHelloRepeat
  repeat' first
    | with_reducible first | assumption | apply State.sayHello_in | apply inOut_ite | apply in_ite | apply InOut.next
    | exact Foot.sub hft rfl
    | split

def State.dropWins_foot : Foot := State.journal_foot
theorem State.dropWins_in {s : State} {id : Nat} (hks : In ft s0 s) (hft : State.dropWins_foot.le ft = true) :
    In ft s0 (State.dropWins s id) := by
  unfold State.dropWins
  repeat' first
    | (extract_lets +onlyGivenNames x; clear_value x)
    | with_reducible first | assumption | apply State.journal_in | apply in_ite
    | exact Foot.sub hft rfl
    | split

def State.soloForget_foot : Foot := State.soloKeep_foot
theorem State.soloForget_in {s : State} {id : Nat} (hks : In ft s0 s) (hft : State.soloForget_foot.le ft = true) :
    In ft s0 (State.soloForget s id) := by
  unfold State.soloForget
  repeat' first
    | with_reducible first | assumption | apply State.soloKeep_in
    | exact Foot.sub hft rfl
    | intro _ _ _
    | intro _ _

def State.renewTaken_foot : Foot :=
  Fld.SPLIT_SEEN.foot ||| Part.tpe.foot ||| Part.fch.foot ||| Part.nfc.foot ||| Part.waits.foot |||
    State.record_foot ||| State.journal_foot ||| State.soloMark_foot ||| State.dropWins_foot |||
    State.soloForget_foot
theorem State.renewTaken_in {s : State} {id : Nat} (hks : In ft s0 s) (hft : State.renewTaken_foot.le ft = true) :
    In ft s0 (State.renewTaken s id) := by
  unfold State.renewTaken
  repeat' first
    | (extract_lets +onlyGivenNames x
       first
       | (have : In ft s0 x := by
            subst x
            repeat' first
              | (extract_lets +onlyGivenNames x; subst x)
              | with_reducible first
                  | assumption | apply State.setf_in | apply State.each_in | apply State.record_in
                  | apply State.journal_in | apply State.soloMark_in | apply State.dropWins_in
                  | apply State.soloForget_in | apply foldl_in | apply in_ite | apply inP_ite
              | exact Foot.sub hft rfl
              | with_reducible exact Or.inl rfl
              | exact Or.inr (Foot.sub hft rfl)
              | with_reducible apply InMk.of
              | simp -zeta only [in_mk_iff]
              | split
              | intro _ _ _
              | intro _ _
              | with_reducible apply InP.pair
          clear_value x)
       | clear_value x
       | subst x)
    | with_reducible first
        | assumption | apply State.setf_in | apply State.each_in | apply State.record_in | apply State.journal_in
        | apply State.soloMark_in | apply State.dropWins_in | apply State.soloForget_in | apply foldl_in
        | apply in_ite | apply inP_ite
    | exact Foot.sub hft rfl
    | with_reducible exact Or.inl rfl
    | exact Or.inr (Foot.sub hft rfl)
    | with_reducible apply InMk.of
    | simp -zeta only [in_mk_iff]
    | split
    | intro _ _ _
    | intro _ _
    | with_reducible apply InP.pair

def State.becomeReplica_foot : Foot :=
  State.journal_foot ||| State.setUse_foot ||| State.dropWins_foot ||| State.soloForget_foot
theorem State.becomeReplica_in {s : State} {id : Nat} (hks : In ft s0 s)
    (hft : State.becomeReplica_foot.le ft = true) :
    In ft s0 (State.becomeReplica s id) := by
  unfold State.becomeReplica
  repeat' first
    | (extract_lets +onlyGivenNames x
       first
       | (have : In ft s0 x := by
            subst x
            repeat' first
              | (extract_lets +onlyGivenNames x; subst x)
              | with_reducible first
                  | assumption | apply State.journal_in | apply State.setUse_in | apply State.dropWins_in
                  | apply State.soloForget_in
              | exact Foot.sub hft rfl
              | with_reducible exact Or.inl rfl
              | exact Or.inr (Foot.sub hft rfl)
              | with_reducible apply InMk.of
              | simp -zeta only [in_mk_iff]
              | split
          clear_value x)
       | clear_value x
       | subst x)
    | with_reducible first
        | assumption | apply State.journal_in | apply State.setUse_in | apply State.dropWins_in
        | apply State.soloForget_in
    | exact Foot.sub hft rfl
    | with_reducible exact Or.inl rfl
    | exact Or.inr (Foot.sub hft rfl)
    | with_reducible apply InMk.of
    | simp -zeta only [in_mk_iff]
    | split

def State.step5_foot : Foot :=
  Fld.SENIOR.foot ||| Fld.SPLIT_SEEN.foot ||| Fld.PARTNER_UID.foot ||| Fld.TOOK_OVER.foot ||| Fld.ID_FAIL.foot |||
    Fld.TWIN_APPLIED.foot ||| Fld.MIR_STATUS_LINK_UP.foot ||| Fld.RESYNC_BUSY.foot ||| Fld.FULL_RESYNC.foot |||
    Fld.RESYNC_LEFT.foot ||| State.record_foot ||| State.journal_foot ||| State.soloMark_foot |||
    State.ssnReserve_foot ||| State.mirChange_foot ||| State.setMir_foot ||| State.renewTaken_foot |||
    State.becomeReplica_foot
theorem State.step5_in {s : State} {x : Exch} {h : Hello} (hks : In ft s0 s) (hft : State.step5_foot.le ft = true) :
    In ft s0 (State.step5 s x h) := by
  unfold State.step5
  repeat' first
    | (extract_lets +onlyGivenNames x
       first
       | (have : In ft s0 x := by
            subst x
            repeat' first
              | (extract_lets +onlyGivenNames x; subst x)
              | with_reducible first
                  | assumption | apply State.wr_in | apply State.setf_in | apply State.each_in
                  | apply State.record_in | apply State.journal_in | apply State.soloMark_in
                  | apply State.ssnReserve_in | apply State.mirChange_in | apply State.setMir_in
                  | apply State.renewTaken_in | apply State.becomeReplica_in | apply in_ite
              | exact Foot.sub hft rfl
              | with_reducible exact Or.inl rfl
              | exact Or.inr (Foot.sub hft rfl)
              | with_reducible apply InMk.of
              | simp -zeta only [in_mk_iff]
              | split
              | intro _ _ _
              | intro _ _
          clear_value x)
       | clear_value x
       | subst x)
    | with_reducible first
        | assumption | apply State.wr_in | apply State.setf_in | apply State.each_in | apply State.record_in
        | apply State.journal_in | apply State.soloMark_in | apply State.ssnReserve_in | apply State.mirChange_in
        | apply State.setMir_in | apply State.renewTaken_in | apply State.becomeReplica_in | apply in_ite
    | exact Foot.sub hft rfl
    | with_reducible exact Or.inl rfl
    | exact Or.inr (Foot.sub hft rfl)
    | with_reducible apply InMk.of
    | simp -zeta only [in_mk_iff]
    | split
    | intro _ _ _
    | intro _ _

def State.tryStep5_foot : Foot := State.invalFrames_foot ||| State.step5_foot
theorem State.tryStep5_in {s : State} (hks : In ft s0 s) (hft : State.tryStep5_foot.le ft = true) :
    In ft s0 (State.tryStep5 s) := by
  unfold State.tryStep5
  repeat' first
    | (extract_lets +onlyGivenNames x; clear_value x)
    | with_reducible first | assumption | apply State.invalFrames_in | apply State.step5_in | apply in_ite
    | exact Foot.sub hft rfl
    | split

def execMirrorSpdm_foot : Foot :=
  State.send_foot ||| State.mirChange_foot ||| State.setMir_foot ||| State.refuse_foot ||| State.tryStep5_foot
theorem execMirrorSpdm_in {authOk : Bool} {x : Option Exch} {s : State} (hks : In ft s0 s)
    (hft : execMirrorSpdm_foot.le ft = true) :
    InOut ft s0 (execMirrorSpdm authOk x s) := by
  unfold execMirrorSpdm
  repeat' first
    | (extract_lets +onlyGivenNames x
       first
       | (have : In ft s0 x := by
            subst x
            repeat' first
              | (extract_lets +onlyGivenNames x; subst x)
              | with_reducible first
                  | assumption | apply State.send_in | apply State.mirChange_in | apply State.setMir_in
                  | apply State.refuse_in | apply State.tryStep5_in | apply inOut_ite | apply in_ite
                  | apply InOut.next
              | exact Foot.sub hft rfl
              | with_reducible exact Or.inl rfl
              | exact Or.inr (Foot.sub hft rfl)
              | with_reducible apply InMk.of
              | simp -zeta only [in_mk_iff]
              | split
              | intro _ _ _
              | intro _ _
          clear_value x)
       | clear_value x
       | subst x)
    | with_reducible first
        | assumption | apply State.send_in | apply State.mirChange_in | apply State.setMir_in | apply State.refuse_in
        | apply State.tryStep5_in | apply inOut_ite | apply in_ite | apply InOut.next
    | exact Foot.sub hft rfl
    | with_reducible exact Or.inl rfl
    | exact Or.inr (Foot.sub hft rfl)
    | with_reducible apply InMk.of
    | simp -zeta only [in_mk_iff]
    | split
    | intro _ _ _
    | intro _ _

def execPartnerEndedBringUp_foot : Foot := State.mirChange_foot ||| State.refuse_foot
theorem execPartnerEndedBringUp_in {s : State} (hks : In ft s0 s) (hft : execPartnerEndedBringUp_foot.le ft = true) :
    InOut ft s0 (execPartnerEndedBringUp s) := by
  unfold execPartnerEndedBringUp
  repeat' first
    | with_reducible first
        | assumption | apply State.mirChange_in | apply State.refuse_in | apply inOut_ite | apply in_ite
        | apply InOut.next
    | exact Foot.sub hft rfl
    | split

def State.resyncAcks_foot : Foot :=
  Fld.RESYNC_LEFT.foot ||| State.soloClear_foot ||| State.setMir_foot ||| State.resyncCheck_foot
theorem State.resyncAcks_in {s : State} (hks : In ft s0 s) (hft : State.resyncAcks_foot.le ft = true) :
    In ft s0 (State.resyncAcks s) := by
  unfold State.resyncAcks
  repeat' first
    | (extract_lets +onlyGivenNames x
       first
       | (have : In ft s0 x := by
            subst x
            repeat' first
              | (extract_lets +onlyGivenNames x; subst x)
              | with_reducible first
                  | assumption | apply State.wr_in | apply State.each_in | apply State.soloClear_in
                  | apply State.setMir_in | apply State.resyncCheck_in | apply foldl_in | apply in_ite
                  | apply inP_ite
              | exact Foot.sub hft rfl
              | with_reducible exact Or.inl rfl
              | exact Or.inr (Foot.sub hft rfl)
              | with_reducible apply InMk.of
              | simp -zeta only [in_mk_iff]
              | split
              | intro _ _ _
              | intro _ _
              | with_reducible apply InP.pair
          clear_value x)
       | clear_value x
       | subst x)
    | with_reducible first
        | assumption | apply State.wr_in | apply State.each_in | apply State.soloClear_in | apply State.setMir_in
        | apply State.resyncCheck_in | apply foldl_in | apply in_ite | apply inP_ite
    | exact Foot.sub hft rfl
    | with_reducible exact Or.inl rfl
    | exact Or.inr (Foot.sub hft rfl)
    | with_reducible apply InMk.of
    | simp -zeta only [in_mk_iff]
    | split
    | intro _ _ _
    | intro _ _
    | with_reducible apply InP.pair

def execAck_foot : Foot :=
  Fld.RETX_RECORDS.foot ||| State.ssnAcked_foot ||| State.drainSendq_foot ||| State.resolveFences_foot |||
    State.mirRoom_foot ||| State.setMir_foot ||| State.resyncAcks_foot
theorem execAck_in {lane mark : Nat} {s : State} (hks : In ft s0 s) (hft : execAck_foot.le ft = true) :
    InOut ft s0 (execAck lane mark s) := by
  unfold execAck
  repeat' first
    | (extract_lets +onlyGivenNames x
       first
       | (have : In ft s0 x := by
            subst x
            repeat' first
              | (extract_lets +onlyGivenNames x; subst x)
              | with_reducible first
                  | assumption | apply State.wr_in | apply State.ssnAcked_in | apply State.drainSendq_in
                  | apply State.resolveFences_in | apply State.mirRoom_in | apply State.setMir_in
                  | apply State.resyncAcks_in | apply inOut_ite | apply in_ite | apply InOut.next
              | exact Foot.sub hft rfl
              | with_reducible exact Or.inl rfl
              | exact Or.inr (Foot.sub hft rfl)
              | with_reducible apply InMk.of
              | simp -zeta only [in_mk_iff]
              | split
              | intro _ _ _
              | intro _ _
          clear_value x)
       | clear_value x
       | subst x)
    | with_reducible first
        | assumption | apply State.wr_in | apply State.ssnAcked_in | apply State.drainSendq_in
        | apply State.resolveFences_in | apply State.mirRoom_in | apply State.setMir_in | apply State.resyncAcks_in
        | apply inOut_ite | apply in_ite | apply InOut.next
    | exact Foot.sub hft rfl
    | with_reducible exact Or.inl rfl
    | exact Or.inr (Foot.sub hft rfl)
    | with_reducible apply InMk.of
    | simp -zeta only [in_mk_iff]
    | split
    | intro _ _ _
    | intro _ _

def execNak_foot : Foot := State.resend_foot
theorem execNak_in {lane : Nat} {s : State} (hks : In ft s0 s) (hft : execNak_foot.le ft = true) :
    InOut ft s0 (execNak lane s) := by
  unfold execNak
  repeat' first
    | with_reducible first | assumption | apply State.resend_in | apply inOut_ite | apply in_ite | apply InOut.next
    | exact Foot.sub hft rfl
    | split

def execRetxTimeout_foot : Foot := State.resend_foot
theorem execRetxTimeout_in {lane : Nat} {s : State} (hks : In ft s0 s) (hft : execRetxTimeout_foot.le ft = true) :
    InOut ft s0 (execRetxTimeout lane s) := by
  unfold execRetxTimeout
  repeat' first
    | with_reducible first | assumption | apply State.resend_in | apply inOut_ite | apply in_ite | apply InOut.next
    | exact Foot.sub hft rfl
    | split

def execKeepalive_foot : Foot := State.send_foot ||| State.setMir_foot
theorem execKeepalive_in {port : Nat} {s : State} (hks : In ft s0 s) (hft : execKeepalive_foot.le ft = true) :
    InOut ft s0 (execKeepalive port s) := by
  unfold execKeepalive
  repeat' first
    | (extract_lets +onlyGivenNames x; clear_value x)
    | with_reducible first
        | assumption | apply State.send_in | apply State.setMir_in | apply inOut_ite | apply in_ite
        | apply InOut.next
    | exact Foot.sub hft rfl
    | with_reducible exact Or.inl rfl
    | exact Or.inr (Foot.sub hft rfl)
    | with_reducible apply InMk.of
    | simp -zeta only [in_mk_iff]
    | split
    | intro _ _ _
    | intro _ _

def execMirrorLinkLost_foot : Foot := State.linkLost_foot
theorem execMirrorLinkLost_in {s : State} (hks : In ft s0 s) (hft : execMirrorLinkLost_foot.le ft = true) :
    InOut ft s0 (execMirrorLinkLost s) := by
  unfold execMirrorLinkLost
  repeat' first
    | with_reducible first | assumption | apply State.linkLost_in | apply inOut_ite | apply in_ite | apply InOut.next
    | exact Foot.sub hft rfl
    | split

def execPhyHoldEnd_foot : Foot := State.setMir_foot
theorem execPhyHoldEnd_in {s : State} (hks : In ft s0 s) (hft : execPhyHoldEnd_foot.le ft = true) :
    InOut ft s0 (execPhyHoldEnd s) := by
  unfold execPhyHoldEnd
  repeat' first
    | (extract_lets +onlyGivenNames x; clear_value x)
    | with_reducible first | assumption | apply State.setMir_in | apply InOut.next
    | exact Foot.sub hft rfl
    | with_reducible exact Or.inl rfl
    | exact Or.inr (Foot.sub hft rfl)
    | with_reducible apply InMk.of
    | simp -zeta only [in_mk_iff]
    | intro _ _ _
    | intro _ _

def State.lineDreq_foot : Foot := State.dreq_foot
theorem State.lineDreq_in {s : State} {o : Obj} {ln cls : Nat} (hks : In ft s0 s)
    (hft : State.lineDreq_foot.le ft = true) :
    In ft s0 (State.lineDreq s o ln cls) := by
  unfold State.lineDreq
  repeat' first
    | (extract_lets +onlyGivenNames x
       first
       | (have : In ft s0 x := by
            subst x
            repeat' first
              | (extract_lets +onlyGivenNames x; subst x)
              | with_reducible first | assumption | apply State.dreq_in | apply in_ite
              | exact Foot.sub hft rfl
              | split
          clear_value x)
       | clear_value x
       | subst x)
    | with_reducible first | assumption | apply State.dreq_in | apply in_ite
    | exact Foot.sub hft rfl
    | split

def execFetchReq_foot : Foot :=
  Fld.FETCH_CNT.foot ||| Fld.MIR_FLAGS_CNT_OVF.foot ||| State.send_foot ||| State.count_foot |||
    State.lineDreq_foot
theorem execFetchReq_in {tag obj ln : Nat} {fail : Bool} {s : State} (hks : In ft s0 s)
    (hft : execFetchReq_foot.le ft = true) :
    InOut ft s0 (execFetchReq tag obj ln fail s) := by
  unfold execFetchReq
  repeat' first
    | (extract_lets +onlyGivenNames x
       first
       | (have : In ft s0 x := by
            subst x
            repeat' first
              | (extract_lets +onlyGivenNames x; subst x)
              | with_reducible first
                  | assumption | apply State.send_in | apply State.count_in | apply State.lineDreq_in
                  | apply inOut_ite | apply in_ite | apply InOut.next
              | exact Foot.sub hft rfl
              | split
          clear_value x)
       | clear_value x
       | subst x)
    | with_reducible first
        | assumption | apply State.send_in | apply State.count_in | apply State.lineDreq_in | apply inOut_ite
        | apply in_ite | apply InOut.next
    | exact Foot.sub hft rfl
    | split

def execHeartbeatLost_foot : Foot := Fld.HB_ALIVE.foot ||| State.mirChange_foot
theorem execHeartbeatLost_in {s : State} (hks : In ft s0 s) (hft : execHeartbeatLost_foot.le ft = true) :
    InOut ft s0 (execHeartbeatLost s) := by
  unfold execHeartbeatLost
  repeat' first
    | with_reducible first | assumption | apply State.setf_in | apply State.mirChange_in | apply InOut.next
    | exact Foot.sub hft rfl

def execHeartbeatRestored_foot : Foot := Fld.HB_ALIVE.foot ||| State.mirChange_foot
theorem execHeartbeatRestored_in {s : State} (hks : In ft s0 s) (hft : execHeartbeatRestored_foot.le ft = true) :
    InOut ft s0 (execHeartbeatRestored s) := by
  unfold execHeartbeatRestored
  repeat' first
    | with_reducible first | assumption | apply State.setf_in | apply State.mirChange_in | apply InOut.next
    | exact Foot.sub hft rfl

def execTwinGrantChange_foot : Foot := Fld.GRANT.foot ||| State.mirChange_foot
theorem execTwinGrantChange_in {v : Bool} {s : State} (hks : In ft s0 s)
    (hft : execTwinGrantChange_foot.le ft = true) :
    InOut ft s0 (execTwinGrantChange v s) := by
  unfold execTwinGrantChange
  repeat' first
    | with_reducible first | assumption | apply State.setf_in | apply State.mirChange_in | apply InOut.next
    | exact Foot.sub hft rfl

def execHeartbeatToggle_foot : Foot := State.send_foot ||| State.setMir_foot
theorem execHeartbeatToggle_in {s : State} (hks : In ft s0 s) (hft : execHeartbeatToggle_foot.le ft = true) :
    InOut ft s0 (execHeartbeatToggle s) := by
  unfold execHeartbeatToggle
  repeat' first
    | (extract_lets +onlyGivenNames x; clear_value x)
    | with_reducible first
        | assumption | apply State.send_in | apply State.setMir_in | apply inOut_ite | apply in_ite
        | apply InOut.next
    | exact Foot.sub hft rfl
    | with_reducible exact Or.inl rfl
    | exact Or.inr (Foot.sub hft rfl)
    | with_reducible apply InMk.of
    | simp -zeta only [in_mk_iff]
    | split
    | intro _ _ _
    | intro _ _

def State.takeAll_foot : Foot :=
  Fld.TOOK_OVER.foot ||| State.record_foot ||| State.journal_foot ||| State.setMir_foot ||| State.setUse_foot
theorem State.takeAll_in {s : State} (hks : In ft s0 s) (hft : State.takeAll_foot.le ft = true) :
    In ft s0 (State.takeAll s) := by
  unfold State.takeAll
  repeat' first
    | (extract_lets +onlyGivenNames x
       first
       | (have : In ft s0 x := by
            subst x
            repeat' first
              | (extract_lets +onlyGivenNames x; subst x)
              | with_reducible first
                  | assumption | apply State.setf_in | apply State.each_in | apply State.record_in
                  | apply State.journal_in | apply State.setMir_in | apply State.setUse_in | apply foldl_in
              | exact Foot.sub hft rfl
              | with_reducible exact Or.inl rfl
              | exact Or.inr (Foot.sub hft rfl)
              | with_reducible apply InMk.of
              | simp -zeta only [in_mk_iff]
              | intro _ _ _
              | intro _ _
              | with_reducible apply InP.pair
          clear_value x)
       | clear_value x
       | subst x)
    | with_reducible first
        | assumption | apply State.setf_in | apply State.each_in | apply State.record_in | apply State.journal_in
        | apply State.setMir_in | apply State.setUse_in | apply foldl_in
    | exact Foot.sub hft rfl
    | with_reducible exact Or.inl rfl
    | exact Or.inr (Foot.sub hft rfl)
    | with_reducible apply InMk.of
    | simp -zeta only [in_mk_iff]
    | intro _ _ _
    | intro _ _
    | with_reducible apply InP.pair

def State.takeover_foot : Foot := State.record_foot ||| State.setMir_foot ||| State.takeAll_foot
theorem State.takeover_in {s : State} (hks : In ft s0 s) (hft : State.takeover_foot.le ft = true) :
    In ft s0 (State.takeover s) := by
  unfold State.takeover
  repeat' first
    | (extract_lets +onlyGivenNames x; clear_value x)
    | with_reducible first
        | assumption | apply State.record_in | apply State.setMir_in | apply State.takeAll_in | apply in_ite
    | exact Foot.sub hft rfl
    | with_reducible exact Or.inl rfl
    | exact Or.inr (Foot.sub hft rfl)
    | with_reducible apply InMk.of
    | simp -zeta only [in_mk_iff]
    | split
    | intro _ _ _
    | intro _ _

def execTakeover_foot : Foot := State.barWrite_foot ||| State.takeover_foot
theorem execTakeover_in {s : State} (hks : In ft s0 s) (hft : execTakeover_foot.le ft = true) :
    InOut ft s0 (execTakeover s) := by
  unfold execTakeover
  repeat' first
    | with_reducible first | assumption | apply State.barWrite_in | apply State.takeover_in | apply InOut.next
    | exact Foot.sub hft rfl
    | intro _ _ _
    | intro _ _

def State.retryMatch_foot : Foot := Fld.RESYNC_BUSY.foot ||| State.addRec_foot ||| State.setMir_foot
theorem State.retryMatch_in {s : State} (hks : In ft s0 s) (hft : State.retryMatch_foot.le ft = true) :
    In ft s0 (State.retryMatch s) := by
  unfold State.retryMatch
  repeat' first
    | (extract_lets +onlyGivenNames x
       first
       | (have : In ft s0 x := by
            subst x
            repeat' first
              | (extract_lets +onlyGivenNames x; subst x)
              | with_reducible first
                  | assumption | apply State.setf_in | apply State.each_in | apply State.addRec_in
                  | apply State.setMir_in | apply in_ite
              | exact Foot.sub hft rfl
              | with_reducible exact Or.inl rfl
              | exact Or.inr (Foot.sub hft rfl)
              | with_reducible apply InMk.of
              | simp -zeta only [in_mk_iff]
              | split
              | intro _ _ _
              | intro _ _
          clear_value x)
       | clear_value x
       | subst x)
    | with_reducible first
        | assumption | apply State.setf_in | apply State.each_in | apply State.addRec_in | apply State.setMir_in
        | apply in_ite
    | exact Foot.sub hft rfl
    | with_reducible exact Or.inl rfl
    | exact Or.inr (Foot.sub hft rfl)
    | with_reducible apply InMk.of
    | simp -zeta only [in_mk_iff]
    | split
    | intro _ _ _
    | intro _ _

def execRetryMatch_foot : Foot := State.barWrite_foot ||| State.retryMatch_foot
theorem execRetryMatch_in {s : State} (hks : In ft s0 s) (hft : execRetryMatch_foot.le ft = true) :
    InOut ft s0 (execRetryMatch s) := by
  unfold execRetryMatch
  repeat' first
    | with_reducible first | assumption | apply State.barWrite_in | apply State.retryMatch_in | apply InOut.next
    | exact Foot.sub hft rfl
    | intro _ _ _
    | intro _ _

def State.linkRestart_foot : Foot := State.linkLost_foot
theorem State.linkRestart_in {s : State} (hks : In ft s0 s) (hft : State.linkRestart_foot.le ft = true) :
    In ft s0 (State.linkRestart s) := by
  unfold State.linkRestart
  repeat' first
    | with_reducible first | assumption | apply State.linkLost_in
    | exact Foot.sub hft rfl

def execLinkRestart_foot : Foot := State.barWrite_foot ||| State.linkRestart_foot
theorem execLinkRestart_in {s : State} (hks : In ft s0 s) (hft : execLinkRestart_foot.le ft = true) :
    InOut ft s0 (execLinkRestart s) := by
  unfold execLinkRestart
  repeat' first
    | with_reducible first | assumption | apply State.barWrite_in | apply State.linkRestart_in | apply InOut.next
    | exact Foot.sub hft rfl
    | intro _ _ _
    | intro _ _

def State.resyncLine_foot : Foot := State.addLine_foot ||| State.lineDreq_foot
theorem State.resyncLine_in {s : State} {o : Obj} {k : Key} {j : Nat} (hks : In ft s0 s)
    (hft : State.resyncLine_foot.le ft = true) :
    In ft s0 (State.resyncLine s o k j) := by
  unfold State.resyncLine
  repeat' first
    | (extract_lets +onlyGivenNames x; clear_value x)
    | with_reducible first | assumption | apply State.addLine_in | apply State.lineDreq_in
    | exact Foot.sub hft rfl

def execResyncPageSend_foot : Foot :=
  Fld.RESYNC_LEFT.foot ||| State.soloClear_foot ||| State.addRec_foot ||| State.setMir_foot |||
    State.resyncCheck_foot ||| State.resyncLine_foot
theorem execResyncPageSend_in {waited : Option Key} {s : State} (hks : In ft s0 s)
    (hft : execResyncPageSend_foot.le ft = true) :
    InOut ft s0 (execResyncPageSend waited s) := by
  unfold execResyncPageSend
  repeat' first
    | (extract_lets +onlyGivenNames x
       first
       | (have : In ft s0 x := by
            subst x
            repeat' first
              | (extract_lets +onlyGivenNames x; subst x)
              | with_reducible first
                  | assumption | apply State.wr_in | apply State.each_in | apply State.soloClear_in
                  | apply State.addRec_in | apply State.setMir_in | apply State.resyncCheck_in
                  | apply State.resyncLine_in | apply inOut_ite | apply in_ite | apply InOut.next
              | exact Foot.sub hft rfl
              | with_reducible exact Or.inl rfl
              | exact Or.inr (Foot.sub hft rfl)
              | with_reducible apply InMk.of
              | simp -zeta only [in_mk_iff]
              | split
              | intro _ _ _
              | intro _ _
          clear_value x)
       | clear_value x
       | subst x)
    | with_reducible first
        | assumption | apply State.wr_in | apply State.each_in | apply State.soloClear_in | apply State.addRec_in
        | apply State.setMir_in | apply State.resyncCheck_in | apply State.resyncLine_in | apply inOut_ite
        | apply in_ite | apply InOut.next
    | exact Foot.sub hft rfl
    | with_reducible exact Or.inl rfl
    | exact Or.inr (Foot.sub hft rfl)
    | with_reducible apply InMk.of
    | simp -zeta only [in_mk_iff]
    | split
    | intro _ _ _
    | intro _ _

end Sys2Proof.Machine
end

