-- ==== Sys2Proof/Laws/FrameMoves.lean ====
section
/-! SUPPORT. The footprints of the operations of Machine/Moves (Laws/Frame). -/

namespace Sys2Proof.Machine

variable {ft : Foot} {s0 : State}

def State.missDeadline_foot : Foot :=
  Fld.MISS_DL_CNT.foot ||| Fld.TPE_DOM_STRM2_CNT_OVF.foot ||| State.count_foot ||| State.updStream_foot
theorem State.missDeadline_in {s : State} {m : Move} (hks : In ft s0 s) (hft : State.missDeadline_foot.le ft = true) :
    In ft s0 (State.missDeadline s m) := by
  unfold State.missDeadline
  repeat' first
    | (extract_lets +onlyGivenNames x; clear_value x)
    | with_reducible first
        | assumption | apply State.each_in | apply State.count_in | apply State.updStream_in | apply in_ite
    | exact Foot.sub hft rfl
    | with_reducible exact Or.inl rfl
    | exact Or.inr (Foot.sub hft rfl)
    | with_reducible apply InMk.of
    | simp -zeta only [in_mk_iff]
    | split
    | intro _ _ _
    | intro _ _

def State.promoteDone_foot : Foot :=
  State.setMap_foot ||| State.setFrame_foot ||| State.dropMove_foot ||| State.countStreams_foot |||
    State.pageReady_foot ||| State.endOrphan_foot ||| State.dropHome_foot ||| State.applyHeld_foot |||
    State.missDeadline_foot
theorem State.promoteDone_in {s : State} {m : Move} (hks : In ft s0 s) (hft : State.promoteDone_foot.le ft = true) :
    In ft s0 (State.promoteDone s m) := by
  unfold State.promoteDone
  repeat' first
    | (extract_lets +onlyGivenNames x
       first
       | (have : In ft s0 x := by
            subst x
            repeat' first
              | (extract_lets +onlyGivenNames x; subst x)
              | with_reducible first
                  | assumption | apply State.setMap_in | apply State.setFrame_in | apply State.dropMove_in
                  | apply State.countStreams_in | apply State.pageReady_in | apply State.endOrphan_in
                  | apply State.dropHome_in | apply State.applyHeld_in | apply State.missDeadline_in | apply in_ite
              | exact Foot.sub hft rfl
              | with_reducible exact Or.inl rfl
              | exact Or.inr (Foot.sub hft rfl)
              | with_reducible apply InMk.of
              | simp -zeta only [in_mk_iff]
              | split
          clear_value x)
       | clear_value x
       | subst x)
    | with_reducible first
        | assumption | apply State.setMap_in | apply State.setFrame_in | apply State.dropMove_in
        | apply State.countStreams_in | apply State.pageReady_in | apply State.endOrphan_in | apply State.dropHome_in
        | apply State.applyHeld_in | apply State.missDeadline_in | apply in_ite
    | exact Foot.sub hft rfl
    | with_reducible exact Or.inl rfl
    | exact Or.inr (Foot.sub hft rfl)
    | with_reducible apply InMk.of
    | simp -zeta only [in_mk_iff]
    | split

def State.demoteDone_foot : Foot :=
  State.setMap_foot ||| State.freeFrame_foot ||| State.dropMove_foot ||| State.countStreams_foot |||
    State.rerun_foot ||| State.endOrphan_foot ||| State.applyHeld_foot
theorem State.demoteDone_in {s : State} {m : Move} (hks : In ft s0 s) (hft : State.demoteDone_foot.le ft = true) :
    In ft s0 (State.demoteDone s m) := by
  unfold State.demoteDone
  repeat' first
    | (extract_lets +onlyGivenNames x
       first
       | (have : In ft s0 x := by
            subst x
            repeat' first
              | (extract_lets +onlyGivenNames x; subst x)
              | with_reducible first
                  | assumption | apply State.setMap_in | apply State.freeFrame_in | apply State.dropMove_in
                  | apply State.countStreams_in | apply State.rerun_in | apply State.endOrphan_in
                  | apply State.applyHeld_in | apply in_ite
              | exact Foot.sub hft rfl
              | with_reducible exact Or.inl rfl
              | exact Or.inr (Foot.sub hft rfl)
              | with_reducible apply InMk.of
              | simp -zeta only [in_mk_iff]
              | split
              | intro _ _ _
              | intro _ _
          clear_value x)
       | clear_value x
       | subst x)
    | with_reducible first
        | assumption | apply State.setMap_in | apply State.freeFrame_in | apply State.dropMove_in
        | apply State.countStreams_in | apply State.rerun_in | apply State.endOrphan_in | apply State.applyHeld_in
        | apply in_ite
    | exact Foot.sub hft rfl
    | with_reducible exact Or.inl rfl
    | exact Or.inr (Foot.sub hft rfl)
    | with_reducible apply InMk.of
    | simp -zeta only [in_mk_iff]
    | split
    | intro _ _ _
    | intro _ _

def State.loadFrame_foot : Foot :=
  Fld.STRIPE_LOSS.foot ||| State.dreq_foot ||| State.setDline_foot ||| State.loadCold_foot
theorem State.loadFrame_in {s : State} {m : Move} {bad : List Nat} {t3 : List (Nat × Line)} {sent : List Nat}
    (hks : In ft s0 s) (hft : State.loadFrame_foot.le ft = true) :
    In ft s0 (State.loadFrame s m bad t3 sent) := by
  unfold State.loadFrame
  repeat' first
    | (extract_lets +onlyGivenNames x
       first
       | (have : In ft s0 x := by
            subst x
            repeat' first
              | (extract_lets +onlyGivenNames x; subst x)
              | with_reducible first
                  | assumption | apply State.setf_in | apply State.when_in | apply State.each_in
                  | apply State.dreq_in | apply State.setDline_in | apply State.loadCold_in | apply in_ite
              | exact Foot.sub hft rfl
              | split
              | intro _ _ _
              | intro _ _
          clear_value x)
       | clear_value x
       | subst x)
    | with_reducible first
        | assumption | apply State.setf_in | apply State.when_in | apply State.each_in | apply State.dreq_in
        | apply State.setDline_in | apply State.loadCold_in | apply in_ite
    | exact Foot.sub hft rfl
    | split
    | intro _ _ _
    | intro _ _

def State.suspend_foot : Foot := Part.stl.foot
theorem State.suspend_in {s : State} {ch die : Nat} (hks : In ft s0 s) (hft : State.suspend_foot.le ft = true) :
    In ft s0 (State.suspend s ch die) := by
  unfold State.suspend
  repeat' first
    | (extract_lets +onlyGivenNames x
       first
       | (have : In ft s0 x := by
            subst x
            repeat' first
              | (extract_lets +onlyGivenNames x; subst x)
              | with_reducible first | assumption | apply in_ite
              | exact Foot.sub hft rfl
              | with_reducible exact Or.inl rfl
              | exact Or.inr (Foot.sub hft rfl)
              | with_reducible apply InMk.of
              | simp -zeta only [in_mk_iff]
              | split
          clear_value x)
       | clear_value x
       | subst x)
    | with_reducible first | assumption | apply in_ite
    | exact Foot.sub hft rfl
    | with_reducible exact Or.inl rfl
    | exact Or.inr (Foot.sub hft rfl)
    | with_reducible apply InMk.of
    | simp -zeta only [in_mk_iff]
    | split

def State.nandReads_foot : Foot :=
  Fld.REBUILT_CNT.foot ||| Fld.NFC_CH_FLAGS_CNT_OVF.foot ||| Fld.RETRY_CNT.foot ||| State.count_foot |||
    State.suspend_foot
theorem State.nandReads_in {s : State} {cls : Nat} {rd : List (Nat × Nat × Bool)} (hks : In ft s0 s)
    (hft : State.nandReads_foot.le ft = true) :
    In ft s0 (State.nandReads s cls rd) := by
  unfold State.nandReads
  repeat' first
    | (extract_lets +onlyGivenNames x
       first
       | (have : In ft s0 x := by
            subst x
            repeat' first
              | with_reducible first
                  | assumption | apply State.each_in | apply State.count_in | apply State.suspend_in | apply in_ite
              | exact Foot.sub hft rfl
              | split
              | intro _ _ _
              | intro _ _
          clear_value x)
       | clear_value x
       | subst x)
    | with_reducible first
        | assumption | apply State.each_in | apply State.count_in | apply State.suspend_in | apply in_ite
    | exact Foot.sub hft rfl
    | split
    | intro _ _ _
    | intro _ _

def State.failHost_foot : Foot := State.freeNext_foot ||| State.doneWrite_foot ||| State.doneRead_foot
theorem State.failHost_in {s : State} {r : HostReq} (hks : In ft s0 s) (hft : State.failHost_foot.le ft = true) :
    In ft s0 (State.failHost s r) := by
  unfold State.failHost
  repeat' first
    | with_reducible first
        | assumption | apply State.freeNext_in | apply State.doneWrite_in | apply State.doneRead_in | apply in_ite
    | exact Foot.sub hft rfl
    | split

def State.failLine_foot : Foot := State.failHost_foot
theorem State.failLine_in {s : State} {q : Req} (hks : In ft s0 s) (hft : State.failLine_foot.le ft = true) :
    In ft s0 (State.failLine s q) := by
  unfold State.failLine
  repeat' first
    | with_reducible first | assumption | apply State.failHost_in
    | exact Foot.sub hft rfl
    | split

def State.failWait_foot : Foot :=
  State.ctxPageFail_foot ||| State.stallEnd_foot ||| State.cmdErr_foot ||| State.failHost_foot
theorem State.failWait_in {s : State} {tp : Nat} {w : Wait} (hks : In ft s0 s)
    (hft : State.failWait_foot.le ft = true) :
    In ft s0 (State.failWait s tp w) := by
  unfold State.failWait
  repeat' first
    | with_reducible first
        | assumption | apply State.ctxPageFail_in | apply State.stallEnd_in | apply State.cmdErr_in
        | apply State.failHost_in
    | exact Foot.sub hft rfl
    | split

def State.failPage_foot : Foot :=
  Part.fch.foot ||| Part.waits.foot ||| State.missQueue_foot ||| State.failLine_foot ||| State.failWait_foot
theorem State.failPage_in {s : State} {m : Move} (hks : In ft s0 s) (hft : State.failPage_foot.le ft = true) :
    In ft s0 (State.failPage s m) := by
  unfold State.failPage
  repeat' first
    | (extract_lets +onlyGivenNames x
       first
       | (have : In ft s0 x := by
            subst x
            repeat' first
              | (extract_lets +onlyGivenNames x; subst x)
              | with_reducible first
                  | assumption | apply State.each_in | apply State.missQueue_in | apply State.failLine_in
                  | apply State.failWait_in | apply in_ite
              | exact Foot.sub hft rfl
              | with_reducible exact Or.inl rfl
              | exact Or.inr (Foot.sub hft rfl)
              | with_reducible apply InMk.of
              | simp -zeta only [in_mk_iff]
              | split
              | intro _ _ _
              | intro _ _
          clear_value x)
       | clear_value x
       | subst x)
    | with_reducible first
        | assumption | apply State.each_in | apply State.missQueue_in | apply State.failLine_in
        | apply State.failWait_in | apply in_ite
    | exact Foot.sub hft rfl
    | with_reducible exact Or.inl rfl
    | exact Or.inr (Foot.sub hft rfl)
    | with_reducible apply InMk.of
    | simp -zeta only [in_mk_iff]
    | split
    | intro _ _ _
    | intro _ _

def State.fetchFail_foot : Foot :=
  State.recordOnce_foot ||| State.setMap_foot ||| State.freeFrame_foot ||| State.dropMove_foot |||
    State.countStreams_foot ||| State.failPage_foot
theorem State.fetchFail_in {s : State} {m : Move} (hks : In ft s0 s) (hft : State.fetchFail_foot.le ft = true) :
    In ft s0 (State.fetchFail s m) := by
  unfold State.fetchFail
  repeat' first
    | (extract_lets +onlyGivenNames x
       first
       | (have : In ft s0 x := by
            subst x
            repeat' first
              | (extract_lets +onlyGivenNames x; subst x)
              | with_reducible first
                  | assumption | apply State.recordOnce_in | apply State.setMap_in | apply State.freeFrame_in
                  | apply State.dropMove_in | apply State.countStreams_in | apply State.failPage_in | apply in_ite
              | exact Foot.sub hft rfl
              | with_reducible exact Or.inl rfl
              | exact Or.inr (Foot.sub hft rfl)
              | with_reducible apply InMk.of
              | simp -zeta only [in_mk_iff]
              | split
          clear_value x)
       | clear_value x
       | subst x)
    | with_reducible first
        | assumption | apply State.recordOnce_in | apply State.setMap_in | apply State.freeFrame_in
        | apply State.dropMove_in | apply State.countStreams_in | apply State.failPage_in | apply in_ite
    | exact Foot.sub hft rfl
    | with_reducible exact Or.inl rfl
    | exact Or.inr (Foot.sub hft rfl)
    | with_reducible apply InMk.of
    | simp -zeta only [in_mk_iff]
    | split

def execDemandFetchDone_foot : Foot :=
  Fld.DF_MAX_US.foot ||| State.promoteDone_foot ||| State.loadFrame_foot ||| State.nandReads_foot |||
    State.fetchFail_foot
theorem execDemandFetchDone_in {obj tp us : Nat} {bad : List Nat} {rd : List (Nat × Nat × Bool)}
    {t3 : List (Nat × Line)} {sent : List Nat} {s : State} (hks : In ft s0 s)
    (hft : execDemandFetchDone_foot.le ft = true) :
    InOut ft s0 (execDemandFetchDone obj tp us bad rd t3 sent s) := by
  unfold execDemandFetchDone
  repeat' first
    | (extract_lets +onlyGivenNames x
       first
       | (have : In ft s0 x := by
            subst x
            repeat' first
              | with_reducible first
                  | assumption | apply State.wr_in | apply State.promoteDone_in | apply State.loadFrame_in
                  | apply State.nandReads_in | apply State.fetchFail_in | apply inOut_ite | apply in_ite
                  | apply InOut.next
              | exact Foot.sub hft rfl
              | split
          clear_value x)
       | clear_value x
       | subst x)
    | with_reducible first
        | assumption | apply State.wr_in | apply State.promoteDone_in | apply State.loadFrame_in
        | apply State.nandReads_in | apply State.fetchFail_in | apply inOut_ite | apply in_ite | apply InOut.next
    | exact Foot.sub hft rfl
    | split

def execZeroFillDone_foot : Foot := Fld.DF_MAX_US.foot ||| State.promoteDone_foot ||| State.loadFrame_foot
theorem execZeroFillDone_in {obj tpUs : Nat} {s : State} (hks : In ft s0 s)
    (hft : execZeroFillDone_foot.le ft = true) :
    InOut ft s0 (execZeroFillDone obj tpUs s) := by
  unfold execZeroFillDone
  repeat' first
    | (extract_lets +onlyGivenNames x
       first
       | (have : In ft s0 x := by
            subst x
            repeat' first
              | (extract_lets +onlyGivenNames x; subst x)
              | with_reducible first
                  | assumption | apply State.wr_in | apply State.when_in | apply State.promoteDone_in
                  | apply State.loadFrame_in | apply inOut_ite | apply in_ite | apply InOut.next
              | exact Foot.sub hft rfl
              | split
              | intro _ _ _
              | intro _ _
          clear_value x)
       | clear_value x
       | subst x)
    | with_reducible first
        | assumption | apply State.wr_in | apply State.when_in | apply State.promoteDone_in
        | apply State.loadFrame_in | apply inOut_ite | apply in_ite | apply InOut.next
    | exact Foot.sub hft rfl
    | split
    | intro _ _ _
    | intro _ _

def execOverBound_foot : Foot := Fld.OVER_BOUND.foot ||| State.record_foot
theorem execOverBound_in {obj tp : Nat} {s : State} (hks : In ft s0 s) (hft : execOverBound_foot.le ft = true) :
    InOut ft s0 (execOverBound obj tp s) := by
  unfold execOverBound
  repeat' first
    | with_reducible first
        | assumption | apply State.setf_in | apply State.record_in | apply inOut_ite | apply in_ite
        | apply InOut.next
    | exact Foot.sub hft rfl
    | split

def execT3FetchFail_foot : Foot := State.fetchFail_foot
theorem execT3FetchFail_in {obj tp : Nat} {s : State} (hks : In ft s0 s) (hft : execT3FetchFail_foot.le ft = true) :
    InOut ft s0 (execT3FetchFail obj tp s) := by
  unfold execT3FetchFail
  repeat' first
    | with_reducible first | assumption | apply State.fetchFail_in | apply inOut_ite | apply in_ite | apply InOut.next
    | exact Foot.sub hft rfl
    | split

def execResidencyCheckpoint_foot : Foot := Part.tpe.foot
theorem execResidencyCheckpoint_in {s : State} (hks : In ft s0 s) (hft : execResidencyCheckpoint_foot.le ft = true) :
    InOut ft s0 (execResidencyCheckpoint s) := by
  unfold execResidencyCheckpoint
  repeat' first
    | (extract_lets +onlyGivenNames x; clear_value x)
    | with_reducible first | assumption | apply inOut_ite | apply in_ite | apply InOut.next
    | exact Foot.sub hft rfl
    | with_reducible exact Or.inl rfl
    | exact Or.inr (Foot.sub hft rfl)
    | with_reducible apply InMk.of
    | simp -zeta only [in_mk_iff]
    | split

def execRunCompactionStep_foot : Foot := Part.tpe.foot ||| State.journal_foot ||| State.mapDreq_foot
theorem execRunCompactionStep_in {s : State} (hks : In ft s0 s) (hft : execRunCompactionStep_foot.le ft = true) :
    InOut ft s0 (execRunCompactionStep s) := by
  unfold execRunCompactionStep
  repeat' first
    | (extract_lets +onlyGivenNames x
       first
       | (have : In ft s0 x := by
            subst x
            repeat' first
              | (extract_lets +onlyGivenNames x; subst x)
              | with_reducible first
                  | assumption | apply State.journal_in | apply State.mapDreq_in | apply inOut_ite | apply in_ite
                  | apply InOut.next
              | exact Foot.sub hft rfl
              | with_reducible exact Or.inl rfl
              | exact Or.inr (Foot.sub hft rfl)
              | with_reducible apply InMk.of
              | simp -zeta only [in_mk_iff]
              | split
          clear_value x)
       | clear_value x
       | subst x)
    | with_reducible first
        | assumption | apply State.journal_in | apply State.mapDreq_in | apply inOut_ite | apply in_ite
        | apply InOut.next
    | exact Foot.sub hft rfl
    | with_reducible exact Or.inl rfl
    | exact Or.inr (Foot.sub hft rfl)
    | with_reducible apply InMk.of
    | simp -zeta only [in_mk_iff]
    | split

def State.beginClean_foot : Foot :=
  State.setMap_foot ||| State.snoopFrame_foot ||| State.moveRegs_foot ||| State.updMove_foot
theorem State.beginClean_in {s : State} {m : Move} (hks : In ft s0 s) (hft : State.beginClean_foot.le ft = true) :
    In ft s0 (State.beginClean s m) := by
  unfold State.beginClean
  repeat' first
    | (extract_lets +onlyGivenNames x
       first
       | (have : In ft s0 x := by
            subst x
            repeat' first
              | (extract_lets +onlyGivenNames x; subst x)
              | with_reducible first
                  | assumption | apply State.setMap_in | apply State.snoopFrame_in | apply State.moveRegs_in
                  | apply State.updMove_in
              | exact Foot.sub hft rfl
              | with_reducible exact Or.inl rfl
              | exact Or.inr (Foot.sub hft rfl)
              | with_reducible apply InMk.of
              | simp -zeta only [in_mk_iff]
              | intro _ _ _
              | intro _ _
          clear_value x)
       | clear_value x
       | subst x)
    | with_reducible first
        | assumption | apply State.setMap_in | apply State.snoopFrame_in | apply State.moveRegs_in
        | apply State.updMove_in
    | exact Foot.sub hft rfl
    | with_reducible exact Or.inl rfl
    | exact Or.inr (Foot.sub hft rfl)
    | with_reducible apply InMk.of
    | simp -zeta only [in_mk_iff]
    | intro _ _ _
    | intro _ _

def State.evictFrame_foot : Foot :=
  Fld.EVICT_CNT.foot ||| Fld.TPE_FLAGS_CNT_OVF.foot ||| State.count_foot ||| State.queueMove_foot |||
    State.beginClean_foot
theorem State.evictFrame_in {s : State} {f : Nat} (hks : In ft s0 s) (hft : State.evictFrame_foot.le ft = true) :
    In ft s0 (State.evictFrame s f) := by
  unfold State.evictFrame
  repeat' first
    | (extract_lets +onlyGivenNames x
       first
       | (have : In ft s0 x := by
            subst x
            repeat' first
              | (extract_lets +onlyGivenNames x; subst x)
              | with_reducible first
                  | assumption | apply State.count_in | apply State.queueMove_in | apply State.beginClean_in
              | exact Foot.sub hft rfl
              | split
          clear_value x)
       | clear_value x
       | subst x)
    | with_reducible first | assumption | apply State.count_in | apply State.queueMove_in | apply State.beginClean_in
    | exact Foot.sub hft rfl
    | split

def State.sortHead_foot : Foot :=
  Fld.CEIL_CNCL_CNT.foot ||| Fld.TPE_DOM_STRM2_CNT_OVF.foot ||| State.count_foot ||| State.updMove_foot |||
    State.dropMove_foot ||| State.updStream_foot ||| State.countStreams_foot ||| State.cancelMove_foot
theorem State.sortHead_in {s : State} {t : Stream} (hks : In ft s0 s) (hft : State.sortHead_foot.le ft = true) :
    In ft s0 (State.sortHead s t) := by
  unfold State.sortHead
  repeat' first
    | (extract_lets +onlyGivenNames x
       first
       | (have : In ft s0 x := by
            subst x
            repeat' first
              | with_reducible first
                  | assumption | apply State.count_in | apply State.updMove_in | apply State.dropMove_in
                  | apply State.updStream_in | apply State.countStreams_in | apply State.cancelMove_in
              | exact Foot.sub hft rfl
              | with_reducible exact Or.inl rfl
              | exact Or.inr (Foot.sub hft rfl)
              | with_reducible apply InMk.of
              | simp -zeta only [in_mk_iff]
              | split
              | intro _ _ _
              | intro _ _
          clear_value x)
       | clear_value x
       | subst x)
    | with_reducible first
        | assumption | apply State.count_in | apply State.updMove_in | apply State.dropMove_in
        | apply State.updStream_in | apply State.countStreams_in | apply State.cancelMove_in
    | exact Foot.sub hft rfl
    | with_reducible exact Or.inl rfl
    | exact Or.inr (Foot.sub hft rfl)
    | with_reducible apply InMk.of
    | simp -zeta only [in_mk_iff]
    | split
    | intro _ _ _
    | intro _ _

def sortHeads_foot : Foot := State.sortHead_foot
theorem sortHeads_in {n : Nat} {s : State} (hks : In ft s0 s) (hft : sortHeads_foot.le ft = true) :
    In ft s0 (sortHeads n s) := by
  induction n generalizing s with
  | zero => exact hks
  | succ n ih =>
  unfold sortHeads
  repeat' first
    | with_reducible first | assumption | apply ih | apply State.each_in | apply State.sortHead_in
    | exact Foot.sub hft rfl
    | intro _ _ _
    | intro _ _

def State.rereadBlock_foot : Foot := State.record_foot ||| State.updStream_foot ||| State.cancelMove_foot
theorem State.rereadBlock_in {s : State} {t : Stream} {b : Nat} {words : List (List Nat)} (hks : In ft s0 s)
    (hft : State.rereadBlock_foot.le ft = true) :
    In ft s0 (State.rereadBlock s t b words) := by
  unfold State.rereadBlock
  repeat' first
    | (extract_lets +onlyGivenNames x
       first
       | (have : In ft s0 x := by
            subst x
            repeat' first
              | (extract_lets +onlyGivenNames x; subst x)
              | with_reducible first
                  | assumption | apply State.each_in | apply State.record_in | apply State.updStream_in
                  | apply State.cancelMove_in | apply foldl_in | apply in_ite | apply inP_ite
              | exact Foot.sub hft rfl
              | with_reducible exact Or.inl rfl
              | exact Or.inr (Foot.sub hft rfl)
              | with_reducible apply InMk.of
              | simp -zeta only [in_mk_iff]
              | split
              | intro _ _ _
              | intro _ _
              | with_reducible apply InP.pair
          clear_value x)
       | clear_value x
       | subst x)
    | with_reducible first
        | assumption | apply State.each_in | apply State.record_in | apply State.updStream_in
        | apply State.cancelMove_in | apply foldl_in | apply in_ite | apply inP_ite
    | exact Foot.sub hft rfl
    | with_reducible exact Or.inl rfl
    | exact Or.inr (Foot.sub hft rfl)
    | with_reducible apply InMk.of
    | simp -zeta only [in_mk_iff]
    | split
    | intro _ _ _
    | intro _ _
    | with_reducible apply InP.pair

def State.beginMove_foot : Foot := State.beginLoad_foot ||| State.beginClean_foot
theorem State.beginMove_in {s : State} {m : Move} (hks : In ft s0 s) (hft : State.beginMove_foot.le ft = true) :
    In ft s0 (State.beginMove s m) := by
  unfold State.beginMove
  repeat' first
    | (extract_lets +onlyGivenNames x; clear_value x)
    | with_reducible first | assumption | apply State.beginLoad_in | apply State.beginClean_in | apply in_ite
    | exact Foot.sub hft rfl
    | split

def State.refillRegs_foot : Foot := Fld.REFILL_LEFT.foot ||| Fld.REFILL_DONE.foot
theorem State.refillRegs_in {s : State} (hks : In ft s0 s) (hft : State.refillRegs_foot.le ft = true) :
    In ft s0 (State.refillRegs s) := by
  unfold State.refillRegs
  repeat' first
    | with_reducible first | assumption | apply State.wr_in | apply State.setf_in
    | exact Foot.sub hft rfl

def State.beginRefill_foot : Foot :=
  Part.tpe.foot ||| State.queueMove_foot ||| State.beginMove_foot ||| State.refillRegs_foot
theorem State.beginRefill_in {s : State} (hks : In ft s0 s) (hft : State.beginRefill_foot.le ft = true) :
    In ft s0 (State.beginRefill s) := by
  unfold State.beginRefill
  repeat' first
    | (extract_lets +onlyGivenNames x
       first
       | (have : In ft s0 x := by
            subst x
            repeat' first
              | (extract_lets +onlyGivenNames x; subst x)
              | with_reducible first
                  | assumption | apply State.queueMove_in | apply State.beginMove_in | apply State.refillRegs_in
                  | apply in_ite
              | exact Foot.sub hft rfl
              | with_reducible exact Or.inl rfl
              | exact Or.inr (Foot.sub hft rfl)
              | with_reducible apply InMk.of
              | simp -zeta only [in_mk_iff]
              | split
          clear_value x)
       | clear_value x
       | subst x)
    | with_reducible first
        | assumption | apply State.queueMove_in | apply State.beginMove_in | apply State.refillRegs_in | apply in_ite
    | exact Foot.sub hft rfl
    | with_reducible exact Or.inl rfl
    | exact Or.inr (Foot.sub hft rfl)
    | with_reducible apply InMk.of
    | simp -zeta only [in_mk_iff]
    | split

def execPoolDry_foot : Foot :=
  Fld.POOL_DRY.foot ||| Fld.POOL_DRY_CNT.foot ||| Fld.TPE_FLAGS_CNT_OVF.foot ||| State.record_foot |||
    State.count_foot ||| State.alert_foot
theorem execPoolDry_in {s : State} (hks : In ft s0 s) (hft : execPoolDry_foot.le ft = true) :
    InOut ft s0 (execPoolDry s) := by
  unfold execPoolDry
  repeat' first
    | (extract_lets +onlyGivenNames x; clear_value x)
    | with_reducible first
        | assumption | apply State.setf_in | apply State.record_in | apply State.count_in | apply State.alert_in
        | apply inOut_ite | apply in_ite | apply InOut.next
    | exact Foot.sub hft rfl
    | split

def State.beginOther_foot : Foot :=
  State.streamEnds_foot ||| State.dropMove_foot ||| State.countStreams_foot ||| State.cancelMove_foot |||
    sortHeads_foot ||| State.rereadBlock_foot ||| State.beginMove_foot ||| State.beginRefill_foot
theorem State.beginOther_in {s : State} {words : List (List Nat)} (hks : In ft s0 s)
    (hft : State.beginOther_foot.le ft = true) :
    In ft s0 (State.beginOther s words) := by
  unfold State.beginOther
  repeat' first
    | (extract_lets +onlyGivenNames x
       first
       | (have : In ft s0 x := by
            subst x
            repeat' first
              | (extract_lets +onlyGivenNames x; subst x)
              | with_reducible first
                  | assumption | apply State.each_in | apply State.streamEnds_in | apply State.dropMove_in
                  | apply State.countStreams_in | apply State.cancelMove_in | apply sortHeads_in
                  | apply State.rereadBlock_in | apply State.beginMove_in | apply State.beginRefill_in | apply in_ite
              | exact Foot.sub hft rfl
              | split
              | intro _ _ _
              | intro _ _
          clear_value x)
       | clear_value x
       | subst x)
    | with_reducible first
        | assumption | apply State.each_in | apply State.streamEnds_in | apply State.dropMove_in
        | apply State.countStreams_in | apply State.cancelMove_in | apply sortHeads_in | apply State.rereadBlock_in
        | apply State.beginMove_in | apply State.beginRefill_in | apply in_ite
    | exact Foot.sub hft rfl
    | split
    | intro _ _ _
    | intro _ _

def execMoveBegin_foot : Foot := State.evictFrame_foot ||| State.beginMove_foot ||| State.beginOther_foot
theorem execMoveBegin_in {words : List (List Nat)} {s : State} (hks : In ft s0 s)
    (hft : execMoveBegin_foot.le ft = true) :
    InOut ft s0 (execMoveBegin words s) := by
  unfold execMoveBegin
  repeat' first
    | with_reducible first
        | assumption | apply State.evictFrame_in | apply State.beginMove_in | apply State.beginOther_in
        | apply inOut_ite | apply in_ite | apply InOut.next
    | exact Foot.sub hft rfl
    | split

def execMoveLoadDone_foot : Foot :=
  State.updMove_foot ||| State.loadFrame_foot ||| State.nandReads_foot ||| State.fetchFail_foot
theorem execMoveLoadDone_in {obj tp : Nat} {bad : List Nat} {rd : List (Nat × Nat × Bool)} {t3 : List (Nat × Line)}
    {sent : List Nat} {s : State} (hks : In ft s0 s) (hft : execMoveLoadDone_foot.le ft = true) :
    InOut ft s0 (execMoveLoadDone obj tp bad rd t3 sent s) := by
  unfold execMoveLoadDone
  repeat' first
    | (extract_lets +onlyGivenNames x
       first
       | (have : In ft s0 x := by
            subst x
            repeat' first
              | with_reducible first
                  | assumption | apply State.updMove_in | apply State.loadFrame_in | apply State.nandReads_in
                  | apply State.fetchFail_in | apply inOut_ite | apply in_ite | apply InOut.next
              | exact Foot.sub hft rfl
              | with_reducible exact Or.inl rfl
              | exact Or.inr (Foot.sub hft rfl)
              | with_reducible apply InMk.of
              | simp -zeta only [in_mk_iff]
              | split
              | intro _ _ _
              | intro _ _
          clear_value x)
       | clear_value x
       | subst x)
    | with_reducible first
        | assumption | apply State.updMove_in | apply State.loadFrame_in | apply State.nandReads_in
        | apply State.fetchFail_in | apply inOut_ite | apply in_ite | apply InOut.next
    | exact Foot.sub hft rfl
    | with_reducible exact Or.inl rfl
    | exact Or.inr (Foot.sub hft rfl)
    | with_reducible apply InMk.of
    | simp -zeta only [in_mk_iff]
    | split
    | intro _ _ _
    | intro _ _

def execMoveInstallDone_foot : Foot := State.promoteDone_foot
theorem execMoveInstallDone_in {obj tp : Nat} {s : State} (hks : In ft s0 s)
    (hft : execMoveInstallDone_foot.le ft = true) :
    InOut ft s0 (execMoveInstallDone obj tp s) := by
  unfold execMoveInstallDone
  repeat' first
    | with_reducible first
        | assumption | apply State.promoteDone_in | apply inOut_ite | apply in_ite | apply InOut.next
    | exact Foot.sub hft rfl
    | split

def State.demoteFail_foot : Foot :=
  State.setMap_foot ||| State.cancelMove_foot ||| State.pageReady_foot ||| State.endOrphan_foot
theorem State.demoteFail_in {s : State} {m : Move} (hks : In ft s0 s) (hft : State.demoteFail_foot.le ft = true) :
    In ft s0 (State.demoteFail s m) := by
  unfold State.demoteFail
  repeat' first
    | (extract_lets +onlyGivenNames x
       first
       | (have : In ft s0 x := by
            subst x
            repeat' first
              | (extract_lets +onlyGivenNames x; subst x)
              | with_reducible first
                  | assumption | apply State.setMap_in | apply State.cancelMove_in | apply State.pageReady_in
                  | apply State.endOrphan_in | apply in_ite
              | exact Foot.sub hft rfl
              | with_reducible exact Or.inl rfl
              | exact Or.inr (Foot.sub hft rfl)
              | with_reducible apply InMk.of
              | simp -zeta only [in_mk_iff]
              | split
          clear_value x)
       | clear_value x
       | subst x)
    | with_reducible first
        | assumption | apply State.setMap_in | apply State.cancelMove_in | apply State.pageReady_in
        | apply State.endOrphan_in | apply in_ite
    | exact Foot.sub hft rfl
    | with_reducible exact Or.inl rfl
    | exact Or.inr (Foot.sub hft rfl)
    | with_reducible apply InMk.of
    | simp -zeta only [in_mk_iff]
    | split

def execMoveCleanDone_foot : Foot :=
  State.send_foot ||| State.dreq_foot ||| State.cleanFrame_foot ||| State.updMove_foot ||| State.probeCp_foot |||
    State.demoteDone_foot ||| State.demoteFail_foot
theorem execMoveCleanDone_in {obj tp : Nat} {s : State} (hks : In ft s0 s)
    (hft : execMoveCleanDone_foot.le ft = true) :
    InOut ft s0 (execMoveCleanDone obj tp s) := by
  unfold execMoveCleanDone
  repeat' first
    | (extract_lets +onlyGivenNames x
       first
       | (have : In ft s0 x := by
            subst x
            repeat' first
              | (extract_lets +onlyGivenNames x; subst x)
              | with_reducible first
                  | assumption | apply State.send_in | apply State.each_in | apply State.dreq_in
                  | apply State.cleanFrame_in | apply State.updMove_in | apply State.probeCp_in
                  | apply State.demoteDone_in | apply State.demoteFail_in | apply inOut_ite | apply in_ite
                  | apply InOut.next
              | exact Foot.sub hft rfl
              | with_reducible exact Or.inl rfl
              | exact Or.inr (Foot.sub hft rfl)
              | with_reducible apply InMk.of
              | simp -zeta only [in_mk_iff]
              | split
              | intro _ _ _
              | intro _ _
          clear_value x)
       | clear_value x
       | subst x)
    | with_reducible first
        | assumption | apply State.send_in | apply State.each_in | apply State.dreq_in | apply State.cleanFrame_in
        | apply State.updMove_in | apply State.probeCp_in | apply State.demoteDone_in | apply State.demoteFail_in
        | apply inOut_ite | apply in_ite | apply InOut.next
    | exact Foot.sub hft rfl
    | with_reducible exact Or.inl rfl
    | exact Or.inr (Foot.sub hft rfl)
    | with_reducible apply InMk.of
    | simp -zeta only [in_mk_iff]
    | split
    | intro _ _ _
    | intro _ _

def execMoveUnloadDone_foot : Foot := State.demoteDone_foot ||| State.demoteFail_foot
theorem execMoveUnloadDone_in {obj tp : Nat} {ok : Bool} {s : State} (hks : In ft s0 s)
    (hft : execMoveUnloadDone_foot.le ft = true) :
    InOut ft s0 (execMoveUnloadDone obj tp ok s) := by
  unfold execMoveUnloadDone
  repeat' first
    | with_reducible first
        | assumption | apply State.demoteDone_in | apply State.demoteFail_in | apply inOut_ite | apply in_ite
        | apply InOut.next
    | exact Foot.sub hft rfl
    | split

def State.queueEntryPage_foot : Foot :=
  State.updStream_foot ||| State.cancelMove_foot ||| State.attachMove_foot ||| State.queuePromote_foot |||
    State.queueDemote_foot
theorem State.queueEntryPage_in {s : State} {t : Stream} {n : Nat} {e : SEnt} {o : Obj} {tp : Nat}
    (hks : In ft s0 s) (hft : State.queueEntryPage_foot.le ft = true) :
    In ft s0 (State.queueEntryPage s t n e o tp) := by
  unfold State.queueEntryPage
  repeat' first
    | (extract_lets +onlyGivenNames x
       first
       | (have hgo : ∀ s, In ft s0 s → In ft s0 (x s) := by
            intro s hs
            subst x
            repeat' first
              | (extract_lets +onlyGivenNames x; subst x)
              | with_reducible first
                  | assumption | apply State.updStream_in | apply State.cancelMove_in | apply State.attachMove_in
                  | apply State.queuePromote_in | apply State.queueDemote_in | apply in_ite
              | exact Foot.sub hft rfl
              | with_reducible exact Or.inl rfl
              | exact Or.inr (Foot.sub hft rfl)
              | with_reducible apply InMk.of
              | simp -zeta only [in_mk_iff]
              | split
              | intro _ _ _
              | intro _ _
          clear_value x)
       | (have : In ft s0 x := by
            subst x
            repeat' first
              | (extract_lets +onlyGivenNames x; subst x)
              | with_reducible first
                  | assumption | apply hgo | apply State.updStream_in | apply State.cancelMove_in
                  | apply State.attachMove_in | apply State.queuePromote_in | apply State.queueDemote_in
                  | apply in_ite
              | exact Foot.sub hft rfl
              | with_reducible exact Or.inl rfl
              | exact Or.inr (Foot.sub hft rfl)
              | with_reducible apply InMk.of
              | simp -zeta only [in_mk_iff]
              | split
              | intro _ _ _
              | intro _ _
          clear_value x)
       | clear_value x
       | subst x)
    | with_reducible first
        | assumption | apply hgo | apply State.updStream_in | apply State.cancelMove_in | apply State.attachMove_in
        | apply State.queuePromote_in | apply State.queueDemote_in | apply in_ite
    | exact Foot.sub hft rfl
    | with_reducible exact Or.inl rfl
    | exact Or.inr (Foot.sub hft rfl)
    | with_reducible apply InMk.of
    | simp -zeta only [in_mk_iff]
    | split
    | intro _ _ _
    | intro _ _

def execStreamEntryStart_foot : Foot :=
  State.streamEnds_foot ||| State.updStream_foot ||| State.queueEntryPage_foot
theorem execStreamEntryStart_in {d sid : Nat} {s : State} (hks : In ft s0 s)
    (hft : execStreamEntryStart_foot.le ft = true) :
    InOut ft s0 (execStreamEntryStart d sid s) := by
  unfold execStreamEntryStart
  repeat' first
    | (extract_lets +onlyGivenNames x
       first
       | (have : In ft s0 x := by
            subst x
            repeat' first
              | (extract_lets +onlyGivenNames x; subst x)
              | with_reducible first
                  | assumption | apply State.each_in | apply State.streamEnds_in | apply State.updStream_in
                  | apply State.queueEntryPage_in | apply inOut_ite | apply in_ite | apply InOut.next
              | exact Foot.sub hft rfl
              | with_reducible exact Or.inl rfl
              | exact Or.inr (Foot.sub hft rfl)
              | with_reducible apply InMk.of
              | simp -zeta only [in_mk_iff]
              | split
              | intro _ _ _
              | intro _ _
          clear_value x)
       | clear_value x
       | subst x)
    | with_reducible first
        | assumption | apply State.each_in | apply State.streamEnds_in | apply State.updStream_in
        | apply State.queueEntryPage_in | apply inOut_ite | apply in_ite | apply InOut.next
    | exact Foot.sub hft rfl
    | with_reducible exact Or.inl rfl
    | exact Or.inr (Foot.sub hft rfl)
    | with_reducible apply InMk.of
    | simp -zeta only [in_mk_iff]
    | split
    | intro _ _ _
    | intro _ _

def execTpeCnt2Write_foot : Foot := Fld.DF_MAX_US.foot ||| State.barWrite_foot
theorem execTpeCnt2Write_in {s : State} (hks : In ft s0 s) (hft : execTpeCnt2Write_foot.le ft = true) :
    InOut ft s0 (execTpeCnt2Write s) := by
  unfold execTpeCnt2Write
  repeat' first
    | with_reducible first | assumption | apply State.wr_in | apply State.barWrite_in | apply InOut.next
    | exact Foot.sub hft rfl
    | intro _ _ _
    | intro _ _

end Sys2Proof.Machine
end

