-- ==== Sys2Proof/Laws/FrameCache.lean ====
section
/-! SUPPORT. The footprints of the operations of Machine/Cache (Laws/Frame). -/

namespace Sys2Proof.Machine

variable {ft : Foot} {s0 : State}

def State.cleanWays_foot : Foot := State.dropWay_foot ||| State.writeBack_foot
theorem State.cleanWays_in {s : State} {sl : Nat} {ways : Nat → Bool} {bad : Option (Nat × Nat)} (hks : In ft s0 s)
    (hft : State.cleanWays_foot.le ft = true) :
    In ft s0 (State.cleanWays s sl ways bad) := by
  unfold State.cleanWays
  repeat' first
    | (extract_lets +onlyGivenNames x; clear_value x)
    | with_reducible first | assumption | apply State.each_in | apply State.dropWay_in | apply State.writeBack_in
    | exact Foot.sub hft rfl
    | with_reducible exact Or.inl rfl
    | exact Or.inr (Foot.sub hft rfl)
    | with_reducible apply InMk.of
    | simp -zeta only [in_mk_iff]
    | split
    | intro _ _ _
    | intro _ _

def State.disableWay_foot : Foot :=
  Fld.WAY_DIS.foot ||| Fld.SLICE_BUSY.foot ||| State.record_foot ||| State.alert_foot ||| State.fatal_foot |||
    State.cleanWays_foot
theorem State.disableWay_in {s : State} {sl w : Nat} {bad : Option (Nat × Nat)} (hks : In ft s0 s)
    (hft : State.disableWay_foot.le ft = true) :
    In ft s0 (State.disableWay s sl w bad) := by
  unfold State.disableWay
  repeat' first
    | (extract_lets +onlyGivenNames x
       first
       | (have : In ft s0 x := by
            subst x
            repeat' first
              | (extract_lets +onlyGivenNames x; subst x)
              | with_reducible first
                  | assumption | apply State.setBitOf_in | apply State.record_in | apply State.alert_in
                  | apply State.fatal_in | apply State.cleanWays_in | apply in_ite
              | exact Foot.sub hft rfl
              | split
              | intro _ _ _
              | intro _ _
          clear_value x)
       | clear_value x
       | subst x)
    | with_reducible first
        | assumption | apply State.setBitOf_in | apply State.record_in | apply State.alert_in | apply State.fatal_in
        | apply State.cleanWays_in | apply in_ite
    | exact Foot.sub hft rfl
    | split
    | intro _ _ _
    | intro _ _

def State.clusterFault_foot : Foot :=
  Fld.CLUSTER_FAULT.foot ||| Fld.CLUSTER_ACTIVE.foot ||| Fld.PARITY_CNT.foot ||| Fld.CIP_FLAGS_CNT_OVF.foot |||
    State.record_foot ||| State.count_foot ||| State.alert_foot ||| State.setDline_foot ||| State.fatal_foot
theorem State.clusterFault_in {s : State} {n la : Nat} {dead : Bool} (hks : In ft s0 s)
    (hft : State.clusterFault_foot.le ft = true) :
    In ft s0 (State.clusterFault s n la dead) := by
  unfold State.clusterFault
  repeat' first
    | (extract_lets +onlyGivenNames x
       first
       | (have : In ft s0 x := by
            subst x
            repeat' first
              | (extract_lets +onlyGivenNames x; subst x)
              | with_reducible first
                  | assumption | apply State.setBitOf_in | apply State.record_in | apply State.count_in
                  | apply State.alert_in | apply State.setDline_in | apply State.fatal_in | apply in_ite
              | exact Foot.sub hft rfl
              | split
          clear_value x)
       | clear_value x
       | subst x)
    | with_reducible first
        | assumption | apply State.setBitOf_in | apply State.record_in | apply State.count_in | apply State.alert_in
        | apply State.setDline_in | apply State.fatal_in | apply in_ite
    | exact Foot.sub hft rfl
    | split

def State.sramEvent_foot : Foot :=
  Fld.TAG_FATAL.foot ||| Fld.FCH_SL_ERR_CE_CNT.foot ||| Fld.FCH_SL_FLAGS_CNT_OVF.foot |||
    Fld.FCH_SL_ERR_UE_CNT.foot ||| Part.fch.foot ||| State.count_foot ||| State.fatal_foot |||
    State.disableWay_foot ||| State.clusterFault_foot
theorem State.sramEvent_in {s : State} {la : Nat} {e : SramEv} (hks : In ft s0 s)
    (hft : State.sramEvent_foot.le ft = true) :
    In ft s0 (State.sramEvent s la e) := by
  unfold State.sramEvent
  repeat' first
    | (extract_lets +onlyGivenNames x
       first
       | (have : In ft s0 x := by
            subst x
            repeat' first
              | (extract_lets +onlyGivenNames x; subst x)
              | with_reducible first
                  | assumption | apply State.setf_in | apply State.count_in | apply State.fatal_in
                  | apply State.disableWay_in | apply State.clusterFault_in | apply in_ite
              | exact Foot.sub hft rfl
              | with_reducible exact Or.inl rfl
              | exact Or.inr (Foot.sub hft rfl)
              | with_reducible apply InMk.of
              | simp -zeta only [in_mk_iff]
              | split
          clear_value x)
       | clear_value x
       | subst x)
    | with_reducible first
        | assumption | apply State.setf_in | apply State.count_in | apply State.fatal_in | apply State.disableWay_in
        | apply State.clusterFault_in | apply in_ite
    | exact Foot.sub hft rfl
    | with_reducible exact Or.inl rfl
    | exact Or.inr (Foot.sub hft rfl)
    | with_reducible apply InMk.of
    | simp -zeta only [in_mk_iff]
    | split

def State.sramEvents_foot : Foot := State.sramEvent_foot
theorem State.sramEvents_in {s : State} {la : Nat} {ev : List SramEv} (hks : In ft s0 s)
    (hft : State.sramEvents_foot.le ft = true) :
    In ft s0 (State.sramEvents s la ev) := by
  unfold State.sramEvents
  repeat' first
    | with_reducible first | assumption | apply State.each_in | apply State.sramEvent_in
    | exact Foot.sub hft rfl
    | intro _ _ _
    | intro _ _

def execCxlMemRead_foot : Foot := State.serveHost_foot ||| State.sramEvents_foot
theorem execCxlMemRead_in {link ld dpa mty tag : Nat} {ev : List SramEv} {s : State} (hks : In ft s0 s)
    (hft : execCxlMemRead_foot.le ft = true) :
    InOut ft s0 (execCxlMemRead link ld dpa mty tag ev s) := by
  unfold execCxlMemRead
  repeat' first
    | (extract_lets +onlyGivenNames x
       first
       | (have : In ft s0 x := by
            subst x
            repeat' first
              | with_reducible first
                  | assumption | apply State.serveHost_in | apply State.sramEvents_in | apply inOut_ite
                  | apply in_ite | apply InOut.next
              | exact Foot.sub hft rfl
              | split
          clear_value x)
       | clear_value x
       | subst x)
    | with_reducible first
        | assumption | apply State.serveHost_in | apply State.sramEvents_in | apply inOut_ite | apply in_ite
        | apply InOut.next
    | exact Foot.sub hft rfl
    | split

def State.ladderEnd_foot : Foot := Part.int.foot ||| State.mrFinish_foot
theorem State.ladderEnd_in {s : State} {la : Nat} (hks : In ft s0 s) (hft : State.ladderEnd_foot.le ft = true) :
    In ft s0 (State.ladderEnd s la) := by
  unfold State.ladderEnd
  repeat' first
    | (extract_lets +onlyGivenNames x
       first
       | (have : In ft s0 x := by
            subst x
            repeat' first
              | with_reducible first | assumption | apply State.mrFinish_in
              | exact Foot.sub hft rfl
              | with_reducible exact Or.inl rfl
              | exact Or.inr (Foot.sub hft rfl)
              | with_reducible apply InMk.of
              | simp -zeta only [in_mk_iff]
              | split
          clear_value x)
       | clear_value x
       | subst x)
    | with_reducible first | assumption | apply State.mrFinish_in
    | exact Foot.sub hft rfl
    | with_reducible exact Or.inl rfl
    | exact Or.inr (Foot.sub hft rfl)
    | with_reducible apply InMk.of
    | simp -zeta only [in_mk_iff]
    | split

def State.setLadder_foot : Foot := Part.int.foot
theorem State.setLadder_in {s : State} {l : Ladder} (hks : In ft s0 s) (hft : State.setLadder_foot.le ft = true) :
    In ft s0 (State.setLadder s l) := by
  unfold State.setLadder
  repeat' first
    | (extract_lets +onlyGivenNames x; clear_value x)
    | with_reducible first | assumption
    | exact Foot.sub hft rfl
    | with_reducible exact Or.inl rfl
    | exact Or.inr (Foot.sub hft rfl)
    | with_reducible apply InMk.of
    | simp -zeta only [in_mk_iff]

def State.twinStep_foot : Foot :=
  State.send_foot ||| State.twinFix_foot ||| State.ladderFail_foot ||| State.setMir_foot |||
    State.ladderEnd_foot ||| State.setLadder_foot
theorem State.twinStep_in {s : State} {la : Nat} {c : LCtx} {rung : Nat} {late : Bool} (hks : In ft s0 s)
    (hft : State.twinStep_foot.le ft = true) :
    In ft s0 (State.twinStep s la c rung late) := by
  unfold State.twinStep
  repeat' first
    | (extract_lets +onlyGivenNames x
       first
       | (have : In ft s0 x := by
            subst x
            repeat' first
              | (extract_lets +onlyGivenNames x; subst x)
              | with_reducible first
                  | assumption | apply State.send_in | apply State.twinFix_in | apply State.ladderFail_in
                  | apply State.setMir_in | apply State.ladderEnd_in | apply State.setLadder_in | apply foldl_in
                  | apply in_ite | apply inP_ite
              | exact Foot.sub hft rfl
              | with_reducible exact Or.inl rfl
              | exact Or.inr (Foot.sub hft rfl)
              | with_reducible apply InMk.of
              | simp -zeta only [in_mk_iff]
              | split
              | intro _ _ _
              | intro _ _
              | with_reducible apply InP.pair
          clear_value x)
       | clear_value x
       | subst x)
    | with_reducible first
        | assumption | apply State.send_in | apply State.twinFix_in | apply State.ladderFail_in
        | apply State.setMir_in | apply State.ladderEnd_in | apply State.setLadder_in | apply foldl_in | apply in_ite
        | apply inP_ite
    | exact Foot.sub hft rfl
    | with_reducible exact Or.inl rfl
    | exact Or.inr (Foot.sub hft rfl)
    | with_reducible apply InMk.of
    | simp -zeta only [in_mk_iff]
    | split
    | intro _ _ _
    | intro _ _
    | with_reducible apply InP.pair

def execMissEvictQueued_foot : Foot := State.flushEvict_foot ||| State.missQueue_foot ||| State.sramEvents_foot
theorem execMissEvictQueued_in {la : Nat} {ev : List SramEv} {s : State} (hks : In ft s0 s)
    (hft : execMissEvictQueued_foot.le ft = true) :
    InOut ft s0 (execMissEvictQueued la ev s) := by
  unfold execMissEvictQueued
  repeat' first
    | (extract_lets +onlyGivenNames x
       first
       | (have : In ft s0 x := by
            subst x
            repeat' first
              | (extract_lets +onlyGivenNames x; subst x)
              | with_reducible first
                  | assumption | apply State.flushEvict_in | apply State.missQueue_in | apply State.sramEvents_in
                  | apply inOut_ite | apply in_ite | apply InOut.next
              | exact Foot.sub hft rfl
              | split
          clear_value x)
       | clear_value x
       | subst x)
    | with_reducible first
        | assumption | apply State.flushEvict_in | apply State.missQueue_in | apply State.sramEvents_in
        | apply inOut_ite | apply in_ite | apply InOut.next
    | exact Foot.sub hft rfl
    | split

def State.pgBit_foot : Foot :=
  Fld.PG_ERR.foot ||| Fld.INV_DONE.foot ||| Fld.PG_REQ.foot ||| Fld.PG_STATE.foot ||| Fld.PG_BUSY.foot
theorem State.pgBit_in {s : State} {sl : Nat} {v g : Nat} (hks : In ft s0 s) (hft : State.pgBit_foot.le ft = true) :
    In ft s0 (State.pgBit s sl v g) := by
  unfold State.pgBit
  repeat' first
    | (extract_lets +onlyGivenNames x; clear_value x)
    | with_reducible first | assumption | apply State.setf_in | apply State.setBitOf_in | apply in_ite
    | exact Foot.sub hft rfl
    | split

def State.pgReq_foot : Foot := State.pgBit_foot
theorem State.pgReq_in {s : State} {sl v : Nat} (hks : In ft s0 s) (hft : State.pgReq_foot.le ft = true) :
    In ft s0 (State.pgReq s sl v) := by
  unfold State.pgReq
  repeat' first
    | with_reducible first | assumption | apply State.each_in | apply State.pgBit_in
    | exact Foot.sub hft rfl
    | intro _ _ _
    | intro _ _

def execPgReqWrite_foot : Foot := State.barWrite_foot ||| State.pgReq_foot
theorem execPgReqWrite_in {sl v : Nat} {s : State} (hks : In ft s0 s) (hft : execPgReqWrite_foot.le ft = true) :
    InOut ft s0 (execPgReqWrite sl v s) := by
  unfold execPgReqWrite
  repeat' first
    | with_reducible first
        | assumption | apply State.barWrite_in | apply State.pgReq_in | apply inOut_ite | apply in_ite
        | apply InOut.next
    | exact Foot.sub hft rfl
    | split
    | intro _ _ _
    | intro _ _

def execWayGroupCleanDone_foot : Foot := Fld.PG_BUSY.foot ||| Fld.PG_STATE.foot ||| State.cleanWays_foot
theorem execWayGroupCleanDone_in {sl g : Nat} {s : State} (hks : In ft s0 s)
    (hft : execWayGroupCleanDone_foot.le ft = true) :
    InOut ft s0 (execWayGroupCleanDone sl g s) := by
  unfold execWayGroupCleanDone
  repeat' first
    | (extract_lets +onlyGivenNames x
       first
       | (have : In ft s0 x := by
            subst x
            repeat' first
              | with_reducible first
                  | assumption | apply State.setBitOf_in | apply State.cleanWays_in | apply inOut_ite | apply in_ite
                  | apply InOut.next
              | exact Foot.sub hft rfl
              | split
              | intro _ _ _
              | intro _ _
          clear_value x)
       | clear_value x
       | subst x)
    | with_reducible first
        | assumption | apply State.setBitOf_in | apply State.cleanWays_in | apply inOut_ite | apply in_ite
        | apply InOut.next
    | exact Foot.sub hft rfl
    | split
    | intro _ _ _
    | intro _ _

def State.grpInv_foot : Foot := Fld.PG_ERR.foot ||| Fld.INV_DONE.foot
theorem State.grpInv_in {s : State} {sl v : Nat} (hks : In ft s0 s) (hft : State.grpInv_foot.le ft = true) :
    In ft s0 (State.grpInv s sl v) := by
  unfold State.grpInv
  repeat' first
    | with_reducible first
        | assumption | apply State.setf_in | apply State.setBitOf_in | apply State.each_in | apply in_ite
    | exact Foot.sub hft rfl
    | split
    | intro _ _ _
    | intro _ _

def execGrpInv_foot : Foot := State.barWrite_foot ||| State.grpInv_foot
theorem execGrpInv_in {sl v : Nat} {s : State} (hks : In ft s0 s) (hft : execGrpInv_foot.le ft = true) :
    InOut ft s0 (execGrpInv sl v s) := by
  unfold execGrpInv
  repeat' first
    | with_reducible first
        | assumption | apply State.barWrite_in | apply State.grpInv_in | apply inOut_ite | apply in_ite
        | apply InOut.next
    | exact Foot.sub hft rfl
    | split
    | intro _ _ _
    | intro _ _

def State.sliceDis_foot : Foot := Fld.PG_ERR.foot ||| Fld.SLICE_BUSY.foot
theorem State.sliceDis_in {s : State} {v : Nat} (hks : In ft s0 s) (hft : State.sliceDis_foot.le ft = true) :
    In ft s0 (State.sliceDis s v) := by
  unfold State.sliceDis
  repeat' first
    | (extract_lets +onlyGivenNames x; clear_value x)
    | with_reducible first
        | assumption | apply State.setf_in | apply State.setBitOf_in | apply State.each_in | apply in_ite
    | exact Foot.sub hft rfl
    | split
    | intro _ _ _
    | intro _ _

def execSliceDisReq_foot : Foot := State.barWrite_foot ||| State.sliceDis_foot
theorem execSliceDisReq_in {v : Nat} {s : State} (hks : In ft s0 s) (hft : execSliceDisReq_foot.le ft = true) :
    InOut ft s0 (execSliceDisReq v s) := by
  unfold execSliceDisReq
  repeat' first
    | with_reducible first | assumption | apply State.barWrite_in | apply State.sliceDis_in | apply InOut.next
    | exact Foot.sub hft rfl
    | intro _ _ _
    | intro _ _

def execSliceFlushDone_foot : Foot :=
  Fld.SLICE_EN.foot ||| Fld.SLICE_BUSY.foot ||| Fld.DRAIN_FIXED_US.foot ||| State.record_foot |||
    State.rerun_foot ||| State.cleanWays_foot
theorem execSliceFlushDone_in {sl : Nat} {s : State} (hks : In ft s0 s) (hft : execSliceFlushDone_foot.le ft = true) :
    InOut ft s0 (execSliceFlushDone sl s) := by
  unfold execSliceFlushDone
  repeat' first
    | (extract_lets +onlyGivenNames x
       first
       | (have : In ft s0 x := by
            subst x
            repeat' first
              | (extract_lets +onlyGivenNames x; subst x)
              | with_reducible first
                  | assumption | apply State.wr_in | apply State.setBitOf_in | apply State.record_in
                  | apply State.rerun_in | apply State.cleanWays_in | apply inOut_ite | apply in_ite
                  | apply InOut.next
              | exact Foot.sub hft rfl
              | split
              | intro _ _ _
              | intro _ _
          clear_value x)
       | clear_value x
       | subst x)
    | with_reducible first
        | assumption | apply State.wr_in | apply State.setBitOf_in | apply State.record_in | apply State.rerun_in
        | apply State.cleanWays_in | apply inOut_ite | apply in_ite | apply InOut.next
    | exact Foot.sub hft rfl
    | split
    | intro _ _ _
    | intro _ _

def State.putVals_foot : Foot := 0
theorem State.putVals_in {s : State} {w : WVals} {i : Nat} (hks : In ft s0 s)
    (hw : ∀ x ∈ w, x.1.foot.le ft = true) : In ft s0 (State.putVals s w i) := by
  unfold State.putVals State.each
  induction w generalizing s with
  | nil => exact hks
  | cons a r ih =>
    exact ih (State.wri_in hks (hw a List.mem_cons_self)) fun x hx => hw x (List.mem_cons_of_mem _ hx)

def State.lockWrite_foot : Foot := Fld.LOCK_ERR.foot ||| Fld.LOCK_EN.foot
theorem State.lockWrite_in {s : State} {k : Nat} {w : WVals} (hks : In ft s0 s)
    (hw : ∀ x ∈ w, x.1.foot.le ft = true) (hft : State.lockWrite_foot.le ft = true) :
    In ft s0 (State.lockWrite s k w) := by
  have h1 : Fld.LOCK_ERR.foot.le ft = true := Foot.sub hft rfl
  have h2 : Fld.LOCK_EN.foot.le ft = true := Foot.sub hft rfl
  unfold State.lockWrite
  extract_lets others changes
  have ho : ∀ x ∈ others, x.1.foot.le ft = true := fun x hx => hw x (List.mem_of_mem_filter hx)
  clear_value others
  split
  · exact in_ite (State.setfi_in (State.when_in hks fun _ h => State.setf_in h h1) h2)
      (State.when_in hks fun _ h => State.setf_in h h1)
  · have hp : In ft s0 (s.putVals others k) := State.putVals_in hks ho
    exact in_ite (in_ite (State.setf_in hp h1) (State.setfi_in hp h2)) hp

def execLockEntryWrite_foot : Foot :=
  State.barWrite_foot ||| State.lockWrite_foot ||| Fld.TP_FIRST.foot ||| Fld.TP_LAST.foot ||| Fld.OBJ_ID.foot |||
    Fld.WAYS.foot
theorem execLockEntryWrite_in {k : Nat} {range : Bool} {v : Nat} {s : State} (hks : In ft s0 s)
    (hft : execLockEntryWrite_foot.le ft = true) : InOut ft s0 (execLockEntryWrite k range v s) := by
  refine InOut.next (State.barWrite_in hks (fun s hs => ?_) (Foot.sub hft rfl))
  refine in_ite hs (State.lockWrite_in hs (fun x hx => ?_) (Foot.sub hft rfl))
  have : x.1 ∈ [Fld.TP_FIRST, .TP_LAST, .OBJ_ID, .WAYS, .LOCK_EN] := by
    split at hx <;> simp only [List.mem_cons, List.not_mem_nil, or_false] at hx <;>
      rcases hx with rfl | rfl | rfl <;> simp
  exact Foot.le_trans ((by decide +kernel : ∀ f ∈ [Fld.TP_FIRST, .TP_LAST, .OBJ_ID, .WAYS, .LOCK_EN],
    f.foot.le execLockEntryWrite_foot = true) _ this) hft

def execFchSlStateWrite_foot : Foot := Fld.MR_PEAK.foot ||| State.barWrite_foot
theorem execFchSlStateWrite_in {sl : Nat} {s : State} (hks : In ft s0 s)
    (hft : execFchSlStateWrite_foot.le ft = true) :
    InOut ft s0 (execFchSlStateWrite sl s) := by
  unfold execFchSlStateWrite
  repeat' first
    | with_reducible first
        | assumption | apply State.wri_in | apply State.barWrite_in | apply inOut_ite | apply in_ite
        | apply InOut.next
    | exact Foot.sub hft rfl
    | split
    | intro _ _ _
    | intro _ _

def execPrtBenchWrite_foot : Foot := Fld.BENCH_PEAK.foot ||| State.barWrite_foot
theorem execPrtBenchWrite_in {link : Nat} {s : State} (hks : In ft s0 s) (hft : execPrtBenchWrite_foot.le ft = true) :
    InOut ft s0 (execPrtBenchWrite link s) := by
  unfold execPrtBenchWrite
  repeat' first
    | with_reducible first
        | assumption | apply State.wri_in | apply State.barWrite_in | apply inOut_ite | apply in_ite
        | apply InOut.next
    | exact Foot.sub hft rfl
    | split
    | intro _ _ _
    | intro _ _

end Sys2Proof.Machine
end

