-- ==== Sys2Proof/Laws/FrameDram.lean ====
section
/-! SUPPORT. The footprints of the operations of Machine/Dram (Laws/Frame). -/

namespace Sys2Proof.Machine

variable {ft : Foot} {s0 : State}

def State.setDebt_foot : Foot := Fld.REF_DEBT.foot
theorem State.setDebt_in {s : State} {c r v : Nat} (hks : In ft s0 s) (hft : State.setDebt_foot.le ft = true) :
    In ft s0 (State.setDebt s c r v) := by
  unfold State.setDebt
  repeat' first
    | with_reducible first | assumption | apply State.wri_in
    | exact Foot.sub hft rfl

def execRefreshDue_foot : Foot := State.setDebt_foot
theorem execRefreshDue_in {ch rank : Nat} {busy : Bool} {s : State} (hks : In ft s0 s)
    (hft : execRefreshDue_foot.le ft = true) :
    InOut ft s0 (execRefreshDue ch rank busy s) := by
  unfold execRefreshDue
  repeat' first
    | with_reducible first | assumption | apply State.setDebt_in | apply inOut_ite | apply in_ite | apply InOut.next
    | exact Foot.sub hft rfl
    | split

def State.forceRef_foot : Foot :=
  Fld.REF_FORCED_CNT.foot ||| Fld.DRC_CH_FLAGS_CNT_OVF.foot ||| State.count_foot ||| State.setDebt_foot
theorem State.forceRef_in {s : State} {c r : Nat} (hks : In ft s0 s) (hft : State.forceRef_foot.le ft = true) :
    In ft s0 (State.forceRef s c r) := by
  unfold State.forceRef
  repeat' first
    | with_reducible first | assumption | apply State.count_in | apply State.setDebt_in
    | exact Foot.sub hft rfl

def execForcedRefresh_foot : Foot := State.forceRef_foot
theorem execForcedRefresh_in {ch rank : Nat} {s : State} (hks : In ft s0 s)
    (hft : execForcedRefresh_foot.le ft = true) :
    InOut ft s0 (execForcedRefresh ch rank s) := by
  unfold execForcedRefresh
  repeat' first
    | with_reducible first | assumption | apply State.forceRef_in | apply inOut_ite | apply in_ite | apply InOut.next
    | exact Foot.sub hft rfl
    | split

def State.spend_foot : Foot := Part.drc.foot
theorem State.spend_in {s : State} {c sub cls n : Nat} (hks : In ft s0 s) (hft : State.spend_foot.le ft = true) :
    In ft s0 (State.spend s c sub cls n) := by
  unfold State.spend
  repeat' first
    | (extract_lets +onlyGivenNames x
       first
       | (have : In ft s0 x := by
            subst x
            repeat' first
              | with_reducible first | assumption
              | exact Foot.sub hft rfl
              | with_reducible exact Or.inl rfl
              | exact Or.inr (Foot.sub hft rfl)
              | with_reducible apply InMk.of
              | simp -zeta only [in_mk_iff]
          clear_value x)
       | clear_value x
       | subst x)
    | with_reducible first | assumption
    | exact Foot.sub hft rfl
    | with_reducible exact Or.inl rfl
    | exact Or.inr (Foot.sub hft rfl)
    | with_reducible apply InMk.of
    | simp -zeta only [in_mk_iff]

def State.sliceTime_foot : Foot := State.spend_foot
theorem State.sliceTime_in {s : State} {c ns : Nat} (hks : In ft s0 s) (hft : State.sliceTime_foot.le ft = true) :
    In ft s0 (State.sliceTime s c ns) := by
  unfold State.sliceTime
  repeat' first
    | (extract_lets +onlyGivenNames x
       first
       | (have : In ft s0 x := by
            subst x
            repeat' first
              | with_reducible first | assumption | apply State.spend_in
              | exact Foot.sub hft rfl
          clear_value x)
       | clear_value x
       | subst x)
    | with_reducible first | assumption | apply State.spend_in
    | exact Foot.sub hft rfl

def State.makeUp_foot : Foot := State.setDebt_foot
theorem State.makeUp_in {s : State} (hks : In ft s0 s) (hft : State.makeUp_foot.le ft = true) :
    In ft s0 (State.makeUp s) := by
  unfold State.makeUp
  repeat' first
    | with_reducible first | assumption | apply State.each_in | apply State.setDebt_in | apply in_ite
    | exact Foot.sub hft rfl
    | split
    | intro _ _ _
    | intro _ _

def execNeighbourRefresh_foot : Foot :=
  Fld.NR_CNT.foot ||| Fld.DRC_CH_FLAGS_CNT_OVF.foot ||| Part.drc.foot ||| State.count_foot
theorem execNeighbourRefresh_in {ch rank : Nat} {s : State} (hks : In ft s0 s)
    (hft : execNeighbourRefresh_foot.le ft = true) :
    InOut ft s0 (execNeighbourRefresh ch rank s) := by
  unfold execNeighbourRefresh
  repeat' first
    | (extract_lets +onlyGivenNames x
       first
       | (have : In ft s0 x := by
            subst x
            repeat' first
              | with_reducible first
                  | assumption | apply State.count_in | apply inOut_ite | apply in_ite | apply InOut.next
              | exact Foot.sub hft rfl
              | with_reducible exact Or.inl rfl
              | exact Or.inr (Foot.sub hft rfl)
              | with_reducible apply InMk.of
              | simp -zeta only [in_mk_iff]
              | split
          clear_value x)
       | clear_value x
       | subst x)
    | with_reducible first | assumption | apply State.count_in | apply inOut_ite | apply in_ite | apply InOut.next
    | exact Foot.sub hft rfl
    | with_reducible exact Or.inl rfl
    | exact Or.inr (Foot.sub hft rfl)
    | with_reducible apply InMk.of
    | simp -zeta only [in_mk_iff]
    | split

def execDimmThermalPoll_foot : Foot :=
  Fld.DIMM_TEMP_C.foot ||| Fld.HOT.foot ||| Fld.HOT_ALERT.foot ||| Part.drc.foot ||| State.record_foot |||
    State.alert_foot
theorem execDimmThermalPoll_in {ch : Nat} {temps : List Nat} {s : State} (hks : In ft s0 s)
    (hft : execDimmThermalPoll_foot.le ft = true) :
    InOut ft s0 (execDimmThermalPoll ch temps s) := by
  unfold execDimmThermalPoll
  repeat' first
    | (extract_lets +onlyGivenNames x
       first
       | (have : In ft s0 x := by
            subst x
            repeat' first
              | (extract_lets +onlyGivenNames x; subst x)
              | with_reducible first
                  | assumption | apply State.wri_in | apply State.setfi_in | apply State.setBitOf_in
                  | apply State.each_in | apply State.record_in | apply State.alert_in | apply foldl_in
                  | apply inOut_ite | apply in_ite | apply inP_ite | apply InOut.next
              | exact Foot.sub hft rfl
              | with_reducible exact Or.inl rfl
              | exact Or.inr (Foot.sub hft rfl)
              | with_reducible apply InMk.of
              | simp -zeta only [in_mk_iff]
              | split
              | intro _ _ _
              | intro _ _
              | with_reducible apply InP.pair
          clear_value x)
       | clear_value x
       | subst x)
    | with_reducible first
        | assumption | apply State.wri_in | apply State.setfi_in | apply State.setBitOf_in | apply State.each_in
        | apply State.record_in | apply State.alert_in | apply foldl_in | apply inOut_ite | apply in_ite
        | apply inP_ite | apply InOut.next
    | exact Foot.sub hft rfl
    | with_reducible exact Or.inl rfl
    | exact Or.inr (Foot.sub hft rfl)
    | with_reducible apply InMk.of
    | simp -zeta only [in_mk_iff]
    | split
    | intro _ _ _
    | intro _ _
    | with_reducible apply InP.pair

def State.askRetrain_foot : Foot := Fld.RETRAIN_BUSY.foot ||| Part.drc.foot
theorem State.askRetrain_in {s : State} {ch lane : Nat} (hks : In ft s0 s)
    (hft : State.askRetrain_foot.le ft = true) :
    In ft s0 (State.askRetrain s ch lane) := by
  unfold State.askRetrain
  repeat' first
    | (extract_lets +onlyGivenNames x
       first
       | (have : In ft s0 x := by
            subst x
            repeat' first
              | with_reducible first | assumption | apply State.setfi_in | apply in_ite
              | exact Foot.sub hft rfl
              | with_reducible exact Or.inl rfl
              | exact Or.inr (Foot.sub hft rfl)
              | with_reducible apply InMk.of
              | simp -zeta only [in_mk_iff]
              | split
          clear_value x)
       | clear_value x
       | subst x)
    | with_reducible first | assumption | apply State.setfi_in | apply in_ite
    | exact Foot.sub hft rfl
    | with_reducible exact Or.inl rfl
    | exact Or.inr (Foot.sub hft rfl)
    | with_reducible apply InMk.of
    | simp -zeta only [in_mk_iff]
    | split

def State.putOfs_foot : Foot := Part.freeIdx.foot
theorem State.putOfs_in {s : State} {f : Fld} {i : Nat} {v : Int} (hks : In ft s0 s) (hf : f.foot.le ft = true)
    (hft : State.putOfs_foot.le ft = true) :
    In ft s0 (State.putOfs s f i v) := by
  unfold State.putOfs
  repeat' first
    | with_reducible first | assumption | apply State.wri_in | apply State.freeNext_in | apply in_ite
    | exact Foot.sub hft rfl
    | split

def execReadEyeWindow_foot : Foot :=
  Fld.LIMIT_HIT.foot ||| Fld.RD_ADJ_CNT.foot ||| Fld.DRC_CH_FLAGS_CNT_OVF.foot ||| Fld.RD_OFS.foot |||
    State.count_foot ||| State.askRetrain_foot ||| State.putOfs_foot
theorem execReadEyeWindow_in {ch lane e t : Nat} {s : State} (hks : In ft s0 s)
    (hft : execReadEyeWindow_foot.le ft = true) :
    InOut ft s0 (execReadEyeWindow ch lane e t s) := by
  unfold execReadEyeWindow
  repeat' first
    | (extract_lets +onlyGivenNames x
       first
       | (have : In ft s0 x := by
            subst x
            repeat' first
              | (extract_lets +onlyGivenNames x; subst x)
              | with_reducible first
                  | assumption | apply State.setfi_in | apply State.count_in | apply State.askRetrain_in
                  | apply State.putOfs_in | apply inOut_ite | apply in_ite | apply InOut.next
              | exact Foot.sub hft rfl
              | split
          clear_value x)
       | clear_value x
       | subst x)
    | with_reducible first
        | assumption | apply State.setfi_in | apply State.count_in | apply State.askRetrain_in
        | apply State.putOfs_in | apply inOut_ite | apply in_ite | apply InOut.next
    | exact Foot.sub hft rfl
    | split

def execWriteTrackingSlice_foot : Foot :=
  Fld.LIMIT_HIT.foot ||| Fld.WR_ADJ_CNT.foot ||| Fld.DRC_CH_FLAGS_CNT_OVF.foot ||| Fld.WR_OFS.foot |||
    State.count_foot ||| State.sliceTime_foot ||| State.askRetrain_foot ||| State.putOfs_foot
theorem execWriteTrackingSlice_in {ch rank : Nat} {drift : List (Nat × Int)} {s : State} (hks : In ft s0 s)
    (hft : execWriteTrackingSlice_foot.le ft = true) :
    InOut ft s0 (execWriteTrackingSlice ch rank drift s) := by
  unfold execWriteTrackingSlice
  repeat' first
    | (extract_lets +onlyGivenNames x
       first
       | (have : In ft s0 x := by
            subst x
            repeat' first
              | (extract_lets +onlyGivenNames x; subst x)
              | with_reducible first
                  | assumption | apply State.setfi_in | apply State.each_in | apply State.count_in
                  | apply State.sliceTime_in | apply State.askRetrain_in | apply State.putOfs_in | apply inOut_ite
                  | apply in_ite | apply InOut.next
              | exact Foot.sub hft rfl
              | split
              | intro _ _ _
              | intro _ _
          clear_value x)
       | clear_value x
       | subst x)
    | with_reducible first
        | assumption | apply State.setfi_in | apply State.each_in | apply State.count_in | apply State.sliceTime_in
        | apply State.askRetrain_in | apply State.putOfs_in | apply inOut_ite | apply in_ite | apply InOut.next
    | exact Foot.sub hft rfl
    | split
    | intro _ _ _
    | intro _ _

def execRetrain_foot : Foot := State.barWrite_foot ||| State.askRetrain_foot
theorem execRetrain_in {ch lane : Nat} {s : State} (hks : In ft s0 s) (hft : execRetrain_foot.le ft = true) :
    InOut ft s0 (execRetrain ch lane s) := by
  unfold execRetrain
  repeat' first
    | with_reducible first
        | assumption | apply State.barWrite_in | apply State.askRetrain_in | apply inOut_ite | apply in_ite
        | apply InOut.next
    | exact Foot.sub hft rfl
    | split
    | intro _ _ _
    | intro _ _

def State.retrainSlice_foot : Foot :=
  Fld.RD_CENTRE.foot ||| Fld.VREF_RD.foot ||| Fld.WR_CENTRE.foot ||| Fld.RETRAIN_BUSY.foot ||| Part.drc.foot |||
    State.sliceTime_foot
theorem State.retrainSlice_in {s : State} {ch : Nat} {res : LaneRes} (hks : In ft s0 s)
    (hft : State.retrainSlice_foot.le ft = true) :
    In ft s0 (State.retrainSlice s ch res) := by
  unfold State.retrainSlice
  repeat' first
    | (extract_lets +onlyGivenNames x
       first
       | (have : In ft s0 x := by
            subst x
            repeat' first
              | (extract_lets +onlyGivenNames x; subst x)
              | with_reducible first
                  | assumption | apply State.wri_in | apply State.setfi_in | apply State.sliceTime_in | apply in_ite
              | exact Foot.sub hft rfl
              | with_reducible exact Or.inl rfl
              | exact Or.inr (Foot.sub hft rfl)
              | with_reducible apply InMk.of
              | simp -zeta only [in_mk_iff]
              | split
          clear_value x)
       | clear_value x
       | subst x)
    | with_reducible first
        | assumption | apply State.wri_in | apply State.setfi_in | apply State.sliceTime_in | apply in_ite
    | exact Foot.sub hft rfl
    | with_reducible exact Or.inl rfl
    | exact Or.inr (Foot.sub hft rfl)
    | with_reducible apply InMk.of
    | simp -zeta only [in_mk_iff]
    | split

def execCaParityAlert_foot : Foot :=
  Fld.CH_FAIL.foot ||| Fld.CA_PAR_CNT.foot ||| Fld.DRC_CH_FLAGS_CNT_OVF.foot ||| Part.drc.foot |||
    State.count_foot ||| State.fatal_foot
theorem execCaParityAlert_in {ch sub : Nat} {s : State} (hks : In ft s0 s)
    (hft : execCaParityAlert_foot.le ft = true) :
    InOut ft s0 (execCaParityAlert ch sub s) := by
  unfold execCaParityAlert
  repeat' first
    | (extract_lets +onlyGivenNames x
       first
       | (have : In ft s0 x := by
            subst x
            repeat' first
              | (extract_lets +onlyGivenNames x; subst x)
              | with_reducible first
                  | assumption | apply State.setBitOf_in | apply State.count_in | apply State.fatal_in
                  | apply inOut_ite | apply in_ite | apply InOut.next
              | exact Foot.sub hft rfl
              | with_reducible exact Or.inl rfl
              | exact Or.inr (Foot.sub hft rfl)
              | with_reducible apply InMk.of
              | simp -zeta only [in_mk_iff]
              | split
          clear_value x)
       | clear_value x
       | subst x)
    | with_reducible first
        | assumption | apply State.setBitOf_in | apply State.count_in | apply State.fatal_in | apply inOut_ite
        | apply in_ite | apply InOut.next
    | exact Foot.sub hft rfl
    | with_reducible exact Or.inl rfl
    | exact Or.inr (Foot.sub hft rfl)
    | with_reducible apply InMk.of
    | simp -zeta only [in_mk_iff]
    | split

end Sys2Proof.Machine
end

