-- ==== Sys2Proof/Laws/FrameDramQ.lean ====
section
/-! SUPPORT. The footprints of the operations of Machine/DramQ (Laws/Frame). -/

namespace Sys2Proof.Machine

variable {ft : Foot} {s0 : State}

def State.admitLines_foot : Foot := Part.drc.foot
theorem State.admitLines_in {now n : Nat} {s : State} {q : DReq} (hks : In ft s0 s)
    (hft : State.admitLines_foot.le ft = true) : InP ft s0 (State.admitLines now n s q) := by
  induction n generalizing s q with
  | zero => exact ⟨hks⟩
  | succ n ih =>
    unfold State.admitLines
    split
    · refine ih (in_mk_iff.2 (InMk.of hks ?_ ?_ ?_ ?_ ?_ ?_ ?_ ?_ ?_ ?_ ?_ ?_ ?_ ?_ ?_ ?_ ?_ ?_ ?_ ?_ ?_ ?_ ?_ ?_ ?_ ?_)) <;>
        first
        | with_reducible exact Or.inl rfl
        | exact Or.inr (Foot.sub hft rfl)
    · exact ⟨hks⟩

def State.admitAll_foot : Foot := Part.drc.foot ||| State.admitLines_foot
theorem State.admitAll_in {s : State} {now : Nat} (hks : In ft s0 s) (hft : State.admitAll_foot.le ft = true) :
    In ft s0 (State.admitAll s now) := by
  unfold State.admitAll
  extract_lets r
  have h : InP ft s0 r := foldl_inP ⟨hks⟩ fun p q hp => by
    split
    · exact ⟨hp.fst⟩
    · exact ⟨(State.admitLines_in hp.fst (Foot.sub hft rfl)).fst⟩
  refine in_mk_iff.2 (InMk.of h.fst ?_ ?_ ?_ ?_ ?_ ?_ ?_ ?_ ?_ ?_ ?_ ?_ ?_ ?_ ?_ ?_ ?_ ?_ ?_ ?_ ?_ ?_ ?_ ?_ ?_ ?_) <;> first
    | with_reducible exact Or.inl rfl
    | exact Or.inr (Foot.sub hft rfl)

def State.promote_foot : Foot :=
  Fld.PROMOTE_CNT.foot ||| Fld.DRC_CH_FLAGS_CNT_OVF.foot ||| Part.drc.foot ||| State.count_foot
theorem State.promote_in {s : State} {now : Nat} (hks : In ft s0 s) (hft : State.promote_foot.le ft = true) :
    In ft s0 (State.promote s now) := by
  unfold State.promote
  repeat' first
    | (extract_lets +onlyGivenNames x
       first
       | (have : In ft s0 x := by
            subst x
            repeat' first
              | (extract_lets +onlyGivenNames x; subst x)
              | with_reducible first | assumption | apply State.each_in | apply State.count_in | apply in_ite
              | exact Foot.sub hft rfl
              | with_reducible exact Or.inl rfl
              | exact Or.inr (Foot.sub hft rfl)
              | with_reducible apply InMk.of
              | simp -zeta only [in_mk_iff]
              | split
              | intro _ _ _
              | intro _ _
          clear_value x)
       | clear_value x
       | subst x)
    | with_reducible first | assumption | apply State.each_in | apply State.count_in | apply in_ite
    | exact Foot.sub hft rfl
    | with_reducible exact Or.inl rfl
    | exact Or.inr (Foot.sub hft rfl)
    | with_reducible apply InMk.of
    | simp -zeta only [in_mk_iff]
    | split
    | intro _ _ _
    | intro _ _

def State.setBatch_foot : Foot := Part.drc.foot
theorem State.setBatch_in {s : State} {c sub : Nat} {wr : Bool} (hks : In ft s0 s)
    (hft : State.setBatch_foot.le ft = true) :
    In ft s0 (State.setBatch s c sub wr) := by
  unfold State.setBatch
  repeat' first
    | (extract_lets +onlyGivenNames x
       first
       | (have : In ft s0 x := by
            subst x
            repeat' first
              | with_reducible first | assumption | apply in_ite
              | exact Foot.sub hft rfl
              | with_reducible exact Or.inl rfl
              | exact Or.inr (Foot.sub hft rfl)
              | with_reducible apply InMk.of
              | simp -zeta only [in_mk_iff]
              | split
          clear_value x)
       | clear_value x
       | subst x)
    | with_reducible first | assumption | apply in_ite
    | exact Foot.sub hft rfl
    | with_reducible exact Or.inl rfl
    | exact Or.inr (Foot.sub hft rfl)
    | with_reducible apply InMk.of
    | simp -zeta only [in_mk_iff]
    | split

def State.dramSlot_foot : Foot :=
  Part.drc.foot ||| State.forceRef_foot ||| State.spend_foot ||| State.admitAll_foot ||| State.promote_foot |||
    State.setBatch_foot
theorem State.dramSlot_in {s : State} {x : DSlot} (hks : In ft s0 s) (hft : State.dramSlot_foot.le ft = true) :
    In ft s0 (State.dramSlot s x) := by
  unfold State.dramSlot
  repeat' first
    | (extract_lets +onlyGivenNames x
       first
       | (have : In ft s0 x := by
            subst x
            repeat' first
              | (extract_lets +onlyGivenNames x; subst x)
              | with_reducible first
                  | assumption | apply State.forceRef_in | apply State.spend_in | apply State.admitAll_in
                  | apply State.promote_in | apply State.setBatch_in | apply in_ite
              | exact Foot.sub hft rfl
              | with_reducible exact Or.inl rfl
              | exact Or.inr (Foot.sub hft rfl)
              | with_reducible apply InMk.of
              | simp -zeta only [in_mk_iff]
              | split
          clear_value x)
       | clear_value x
       | subst x)
    | with_reducible first
        | assumption | apply State.forceRef_in | apply State.spend_in | apply State.admitAll_in
        | apply State.promote_in | apply State.setBatch_in | apply in_ite
    | exact Foot.sub hft rfl
    | with_reducible exact Or.inl rfl
    | exact Or.inr (Foot.sub hft rfl)
    | with_reducible apply InMk.of
    | simp -zeta only [in_mk_iff]
    | split

def State.queueRegs_foot : Foot := Fld.RQ_USED.foot ||| Fld.WQ_USED.foot
theorem State.queueRegs_in {s : State} (hks : In ft s0 s) (hft : State.queueRegs_foot.le ft = true) :
    In ft s0 (State.queueRegs s) := by
  unfold State.queueRegs
  repeat' first
    | with_reducible first | assumption | apply State.wri_in | apply State.each_in
    | exact Foot.sub hft rfl
    | intro _ _ _
    | intro _ _

def State.dramTick_foot : Foot :=
  State.admitAll_foot ||| State.promote_foot ||| State.dramSlot_foot ||| State.queueRegs_foot
theorem State.dramTick_in {s : State} {slots : List DSlot} (hks : In ft s0 s)
    (hft : State.dramTick_foot.le ft = true) :
    In ft s0 (State.dramTick s slots) := by
  unfold State.dramTick
  repeat' first
    | (extract_lets +onlyGivenNames x
       first
       | (have : In ft s0 x := by
            subst x
            repeat' first
              | (extract_lets +onlyGivenNames x; subst x)
              | with_reducible first
                  | assumption | apply State.each_in | apply State.admitAll_in | apply State.promote_in
                  | apply State.dramSlot_in | apply State.queueRegs_in
              | exact Foot.sub hft rfl
              | intro _ _ _
              | intro _ _
          clear_value x)
       | clear_value x
       | subst x)
    | with_reducible first
        | assumption | apply State.each_in | apply State.admitAll_in | apply State.promote_in
        | apply State.dramSlot_in | apply State.queueRegs_in
    | exact Foot.sub hft rfl
    | intro _ _ _
    | intro _ _

def State.issueWrites_foot : Foot := Part.drc.foot ||| State.queueRegs_foot
theorem State.issueWrites_in {s : State} (hks : In ft s0 s) (hft : State.issueWrites_foot.le ft = true) :
    In ft s0 (State.issueWrites s) := by
  unfold State.issueWrites
  repeat' first
    | (extract_lets +onlyGivenNames x
       first
       | (have : In ft s0 x := by
            subst x
            repeat' first
              | with_reducible first | assumption | apply State.queueRegs_in
              | exact Foot.sub hft rfl
              | with_reducible exact Or.inl rfl
              | exact Or.inr (Foot.sub hft rfl)
              | with_reducible apply InMk.of
              | simp -zeta only [in_mk_iff]
          clear_value x)
       | clear_value x
       | subst x)
    | with_reducible first | assumption | apply State.queueRegs_in
    | exact Foot.sub hft rfl
    | with_reducible exact Or.inl rfl
    | exact Or.inr (Foot.sub hft rfl)
    | with_reducible apply InMk.of
    | simp -zeta only [in_mk_iff]

end Sys2Proof.Machine
end

