-- ==== Sys2Proof/Laws/FrameNand.lean ====
section
/-! SUPPORT. The footprints of the operations of Machine/Nand (Laws/Frame). -/

namespace Sys2Proof.Machine

variable {ft : Foot} {s0 : State}

def State.chanState_foot : Foot :=
  Fld.CH_STATE.foot ||| Fld.CH_ONLINE.foot ||| Fld.DEGRADED_0.foot ||| Fld.DEGRADED_1.foot ||| State.vaultRegs_foot
theorem State.chanState_in {s : State} {c st : Nat} (hks : In ft s0 s) (hft : State.chanState_foot.le ft = true) :
    In ft s0 (State.chanState s c st) := by
  unfold State.chanState
  repeat' first
    | (extract_lets +onlyGivenNames x
       first
       | (have : In ft s0 x := by
            subst x
            repeat' first
              | (extract_lets +onlyGivenNames x; subst x)
              | with_reducible first
                  | assumption | apply State.wri_in | apply State.setf_in | apply State.setBitOf_in
                  | apply State.vaultRegs_in | apply in_ite
              | exact Foot.sub hft rfl
              | split
          clear_value x)
       | clear_value x
       | subst x)
    | with_reducible first
        | assumption | apply State.wri_in | apply State.setf_in | apply State.setBitOf_in | apply State.vaultRegs_in
        | apply in_ite
    | exact Foot.sub hft rfl
    | split

def State.rehearse_foot : Foot := Part.fgv.foot ||| State.dreq_foot
theorem State.rehearse_in {s : State} (hks : In ft s0 s) (hft : State.rehearse_foot.le ft = true) :
    In ft s0 (State.rehearse s) := by
  unfold State.rehearse
  repeat' first
    | (extract_lets +onlyGivenNames x
       first
       | (have : In ft s0 x := by
            subst x
            repeat' first
              | with_reducible first | assumption | apply State.dreq_in
              | exact Foot.sub hft rfl
              | with_reducible exact Or.inl rfl
              | exact Or.inr (Foot.sub hft rfl)
              | with_reducible apply InMk.of
              | simp -zeta only [in_mk_iff]
          clear_value x)
       | clear_value x
       | subst x)
    | with_reducible first | assumption | apply State.dreq_in
    | exact Foot.sub hft rfl
    | with_reducible exact Or.inl rfl
    | exact Or.inr (Foot.sub hft rfl)
    | with_reducible apply InMk.of
    | simp -zeta only [in_mk_iff]

def State.freshMeta_foot : Foot :=
  Part.saved.foot ||| Part.tpe.foot ||| Part.nfc.foot ||| Part.int.foot ||| Part.boot.foot ||| State.rehearse_foot
theorem State.freshMeta_in {s : State} (hks : In ft s0 s) (hft : State.freshMeta_foot.le ft = true) :
    In ft s0 (State.freshMeta s) := by
  unfold State.freshMeta
  repeat' first
    | (extract_lets +onlyGivenNames x; clear_value x)
    | with_reducible first | assumption | apply State.rehearse_in | apply in_ite
    | exact Foot.sub hft rfl
    | with_reducible exact Or.inl rfl
    | exact Or.inr (Foot.sub hft rfl)
    | with_reducible apply InMk.of
    | simp -zeta only [in_mk_iff]
    | split

def State.mediaReady_foot : Foot := Fld.MEDIA_READY.foot ||| State.freshMeta_foot
theorem State.mediaReady_in {s : State} (hks : In ft s0 s) (hft : State.mediaReady_foot.le ft = true) :
    In ft s0 (State.mediaReady s) := by
  unfold State.mediaReady
  repeat' first
    | with_reducible first | assumption | apply State.setf_in | apply State.freshMeta_in | apply in_ite
    | exact Foot.sub hft rfl
    | split

def State.setChan_foot : Foot := Part.nfc.foot ||| State.chanState_foot ||| State.mediaReady_foot
theorem State.setChan_in {s : State} {c st : Nat} (hks : In ft s0 s) (hft : State.setChan_foot.le ft = true) :
    In ft s0 (State.setChan s c st) := by
  unfold State.setChan
  repeat' first
    | (extract_lets +onlyGivenNames x
       first
       | (have : In ft s0 x := by
            subst x
            repeat' first
              | with_reducible first | assumption | apply State.chanState_in | apply State.mediaReady_in
              | exact Foot.sub hft rfl
              | with_reducible exact Or.inl rfl
              | exact Or.inr (Foot.sub hft rfl)
              | with_reducible apply InMk.of
              | simp -zeta only [in_mk_iff]
          clear_value x)
       | clear_value x
       | subst x)
    | with_reducible first | assumption | apply State.chanState_in | apply State.mediaReady_in
    | exact Foot.sub hft rfl
    | with_reducible exact Or.inl rfl
    | exact Or.inr (Foot.sub hft rfl)
    | with_reducible apply InMk.of
    | simp -zeta only [in_mk_iff]

def State.rebuildLeft_foot : Foot := Fld.REBUILD_LEFT.foot
theorem State.rebuildLeft_in {s : State} {c : Nat} (hks : In ft s0 s) (hft : State.rebuildLeft_foot.le ft = true) :
    In ft s0 (State.rebuildLeft s c) := by
  unfold State.rebuildLeft
  repeat' first
    | with_reducible first | assumption | apply State.wri_in
    | exact Foot.sub hft rfl

def State.rebuildMember_foot : Foot := Part.nfc.foot ||| State.rebuildLeft_foot
theorem State.rebuildMember_in {s : State} {c home : Nat} (hks : In ft s0 s)
    (hft : State.rebuildMember_foot.le ft = true) :
    In ft s0 (State.rebuildMember s c home) := by
  unfold State.rebuildMember
  repeat' first
    | (extract_lets +onlyGivenNames x; clear_value x)
    | with_reducible first | assumption | apply State.rebuildLeft_in | apply in_ite
    | exact Foot.sub hft rfl
    | with_reducible exact Or.inl rfl
    | exact Or.inr (Foot.sub hft rfl)
    | with_reducible apply InMk.of
    | simp -zeta only [in_mk_iff]
    | split

def State.capTp_foot : Foot := Fld.CAP_TP.foot ||| Fld.CAP_SHORT.foot ||| State.record_foot
theorem State.capTp_in {s : State} (hks : In ft s0 s) (hft : State.capTp_foot.le ft = true) :
    In ft s0 (State.capTp s) := by
  unfold State.capTp
  repeat' first
    | (extract_lets +onlyGivenNames x
       first
       | (have : In ft s0 x := by
            subst x
            repeat' first
              | (extract_lets +onlyGivenNames x; subst x)
              | with_reducible first
                  | assumption | apply State.wr_in | apply State.setf_in | apply State.record_in | apply in_ite
              | exact Foot.sub hft rfl
              | split
          clear_value x)
       | clear_value x
       | subst x)
    | with_reducible first
        | assumption | apply State.wr_in | apply State.setf_in | apply State.record_in | apply in_ite
    | exact Foot.sub hft rfl
    | split

def State.badBlock_foot : Foot := Fld.BAD_BLK.foot ||| Part.nfc.foot
theorem State.badBlock_in {s : State} {c : Nat} (hks : In ft s0 s) (hft : State.badBlock_foot.le ft = true) :
    In ft s0 (State.badBlock s c) := by
  unfold State.badBlock
  repeat' first
    | (extract_lets +onlyGivenNames x
       first
       | (have : In ft s0 x := by
            subst x
            repeat' first
              | with_reducible first | assumption | apply State.wri_in
              | exact Foot.sub hft rfl
              | with_reducible exact Or.inl rfl
              | exact Or.inr (Foot.sub hft rfl)
              | with_reducible apply InMk.of
              | simp -zeta only [in_mk_iff]
              | split
          clear_value x)
       | clear_value x
       | subst x)
    | with_reducible first | assumption | apply State.wri_in
    | exact Foot.sub hft rfl
    | with_reducible exact Or.inl rfl
    | exact Or.inr (Foot.sub hft rfl)
    | with_reducible apply InMk.of
    | simp -zeta only [in_mk_iff]
    | split

def State.addJob_foot : Foot := Fld.SETTLES_ACTIVE.foot ||| Part.stl.foot
theorem State.addJob_in {s : State} {j : Settle} (hks : In ft s0 s) (hft : State.addJob_foot.le ft = true) :
    In ft s0 (State.addJob s j) := by
  unfold State.addJob
  repeat' first
    | (extract_lets +onlyGivenNames x
       first
       | (have : In ft s0 x := by
            subst x
            repeat' first
              | with_reducible first | assumption | apply State.wr_in
              | exact Foot.sub hft rfl
              | with_reducible exact Or.inl rfl
              | exact Or.inr (Foot.sub hft rfl)
              | with_reducible apply InMk.of
              | simp -zeta only [in_mk_iff]
          clear_value x)
       | clear_value x
       | subst x)
    | with_reducible first | assumption | apply State.wr_in
    | exact Foot.sub hft rfl
    | with_reducible exact Or.inl rfl
    | exact Or.inr (Foot.sub hft rfl)
    | with_reducible apply InMk.of
    | simp -zeta only [in_mk_iff]

def State.dropJob_foot : Foot := Fld.SETTLES_ACTIVE.foot ||| Part.stl.foot
theorem State.dropJob_in {s : State} {j : Settle} (hks : In ft s0 s) (hft : State.dropJob_foot.le ft = true) :
    In ft s0 (State.dropJob s j) := by
  unfold State.dropJob
  repeat' first
    | (extract_lets +onlyGivenNames x
       first
       | (have : In ft s0 x := by
            subst x
            repeat' first
              | with_reducible first | assumption | apply State.wr_in
              | exact Foot.sub hft rfl
              | with_reducible exact Or.inl rfl
              | exact Or.inr (Foot.sub hft rfl)
              | with_reducible apply InMk.of
              | simp -zeta only [in_mk_iff]
          clear_value x)
       | clear_value x
       | subst x)
    | with_reducible first | assumption | apply State.wr_in
    | exact Foot.sub hft rfl
    | with_reducible exact Or.inl rfl
    | exact Or.inr (Foot.sub hft rfl)
    | with_reducible apply InMk.of
    | simp -zeta only [in_mk_iff]

def State.startSettle_foot : Foot :=
  Fld.SETTLE_SEQ.foot ||| State.dreq_foot ||| State.setMap_foot ||| State.settleSnoop_foot |||
    State.probeCp_foot ||| State.addJob_foot
theorem State.startSettle_in {s : State} {f : Nat} {x : Frame} {o : Obj} {rehome : Bool} {bad : List Nat}
    {progs : List NProg} (hks : In ft s0 s) (hft : State.startSettle_foot.le ft = true) :
    In ft s0 (State.startSettle s f x o rehome bad progs) := by
  unfold State.startSettle
  repeat' first
    | (extract_lets +onlyGivenNames x
       first
       | (have : In ft s0 x := by
            subst x
            repeat' first
              | (extract_lets +onlyGivenNames x; subst x)
              | with_reducible first
                  | assumption | apply State.wr_in | apply State.each_in | apply State.dreq_in
                  | apply State.setMap_in | apply State.settleSnoop_in | apply State.probeCp_in
                  | apply State.addJob_in | apply in_ite
              | exact Foot.sub hft rfl
              | split
              | intro _ _ _
              | intro _ _
          clear_value x)
       | clear_value x
       | subst x)
    | with_reducible first
        | assumption | apply State.wr_in | apply State.each_in | apply State.dreq_in | apply State.setMap_in
        | apply State.settleSnoop_in | apply State.probeCp_in | apply State.addJob_in | apply in_ite
    | exact Foot.sub hft rfl
    | split
    | intro _ _ _
    | intro _ _

def State.openBlocks_foot : Foot := Fld.FREE_BLK.foot
theorem State.openBlocks_in {s : State} {ps : List NProg} (hks : In ft s0 s)
    (hft : State.openBlocks_foot.le ft = true) :
    In ft s0 (State.openBlocks s ps) := by
  unfold State.openBlocks
  repeat' first
    | with_reducible first | assumption | apply State.wri_in | apply State.each_in
    | exact Foot.sub hft rfl
    | intro _ _ _
    | intro _ _

def execStripeSettleStart_foot : Foot :=
  Fld.SETTLE_SEQ.foot ||| State.addJob_foot ||| State.startSettle_foot ||| State.openBlocks_foot
theorem execStripeSettleStart_in {bad : List Nat} {progs : List (Nat × Nat × Bool)} {s : State} (hks : In ft s0 s)
    (hft : execStripeSettleStart_foot.le ft = true) :
    InOut ft s0 (execStripeSettleStart bad progs s) := by
  unfold execStripeSettleStart
  repeat' first
    | (extract_lets +onlyGivenNames x
       first
       | (have : In ft s0 x := by
            subst x
            repeat' first
              | (extract_lets +onlyGivenNames x; subst x)
              | with_reducible first
                  | assumption | apply State.wr_in | apply State.addJob_in | apply State.startSettle_in
                  | apply State.openBlocks_in | apply inOut_ite | apply in_ite | apply InOut.next
              | exact Foot.sub hft rfl
              | split
          clear_value x)
       | clear_value x
       | subst x)
    | with_reducible first
        | assumption | apply State.wr_in | apply State.addJob_in | apply State.startSettle_in
        | apply State.openBlocks_in | apply inOut_ite | apply in_ite | apply InOut.next
    | exact Foot.sub hft rfl
    | split

def State.jRelease_foot : Foot :=
  Part.jr.foot ||| Part.nfc.foot ||| State.releaseKey_foot ||| State.shadowTrim_foot
theorem State.jRelease_in {s : State} {p : Nat} (hks : In ft s0 s) (hft : State.jRelease_foot.le ft = true) :
    In ft s0 (State.jRelease s p) := by
  unfold State.jRelease
  repeat' first
    | (extract_lets +onlyGivenNames x
       first
       | (have : In ft s0 x := by
            subst x
            repeat' first
              | (extract_lets +onlyGivenNames x; subst x)
              | with_reducible first
                  | assumption | apply State.releaseKey_in | apply State.shadowTrim_in | apply in_ite
              | exact Foot.sub hft rfl
              | with_reducible exact Or.inl rfl
              | exact Or.inr (Foot.sub hft rfl)
              | with_reducible apply InMk.of
              | simp -zeta only [in_mk_iff]
              | split
          clear_value x)
       | clear_value x
       | subst x)
    | with_reducible first | assumption | apply State.releaseKey_in | apply State.shadowTrim_in | apply in_ite
    | exact Foot.sub hft rfl
    | with_reducible exact Or.inl rfl
    | exact Or.inr (Foot.sub hft rfl)
    | with_reducible apply InMk.of
    | simp -zeta only [in_mk_iff]
    | split

def State.journalSettled_foot : Foot :=
  Fld.REDIRTY_CNT.foot ||| Fld.STL_FLAGS_CNT_OVF.foot ||| State.count_foot ||| State.mirRoom_foot |||
    State.saveMeta_foot ||| State.setMir_foot ||| State.dropJob_foot ||| State.jRelease_foot
theorem State.journalSettled_in {s : State} {j : Settle} (hks : In ft s0 s)
    (hft : State.journalSettled_foot.le ft = true) :
    In ft s0 (State.journalSettled s j) := by
  unfold State.journalSettled
  repeat' first
    | (extract_lets +onlyGivenNames x
       first
       | (have : In ft s0 x := by
            subst x
            repeat' first
              | (extract_lets +onlyGivenNames x; subst x)
              | with_reducible first
                  | assumption | apply State.count_in | apply State.mirRoom_in | apply State.saveMeta_in
                  | apply State.setMir_in | apply State.dropJob_in | apply State.jRelease_in | apply in_ite
              | exact Foot.sub hft rfl
              | with_reducible exact Or.inl rfl
              | exact Or.inr (Foot.sub hft rfl)
              | with_reducible apply InMk.of
              | simp -zeta only [in_mk_iff]
              | split
              | intro _ _ _
              | intro _ _
          clear_value x)
       | clear_value x
       | subst x)
    | with_reducible first
        | assumption | apply State.count_in | apply State.mirRoom_in | apply State.saveMeta_in
        | apply State.setMir_in | apply State.dropJob_in | apply State.jRelease_in | apply in_ite
    | exact Foot.sub hft rfl
    | with_reducible exact Or.inl rfl
    | exact Or.inr (Foot.sub hft rfl)
    | with_reducible apply InMk.of
    | simp -zeta only [in_mk_iff]
    | split
    | intro _ _ _
    | intro _ _

def State.soloSettled_foot : Foot :=
  Fld.REDIRTY_CNT.foot ||| Fld.STL_FLAGS_CNT_OVF.foot ||| Part.saved.foot ||| State.count_foot |||
    State.releaseKey_foot ||| State.dropJob_foot
theorem State.soloSettled_in {s : State} {j : Settle} (hks : In ft s0 s) (hft : State.soloSettled_foot.le ft = true) :
    In ft s0 (State.soloSettled s j) := by
  unfold State.soloSettled
  repeat' first
    | (extract_lets +onlyGivenNames x
       first
       | (have : In ft s0 x := by
            subst x
            repeat' first
              | (extract_lets +onlyGivenNames x; subst x)
              | with_reducible first
                  | assumption | apply State.count_in | apply State.releaseKey_in | apply State.dropJob_in
                  | apply foldl_in | apply in_ite | apply inP_ite
              | exact Foot.sub hft rfl
              | with_reducible exact Or.inl rfl
              | exact Or.inr (Foot.sub hft rfl)
              | with_reducible apply InMk.of
              | simp -zeta only [in_mk_iff]
              | split
              | intro _ _ _
              | intro _ _
              | with_reducible apply InP.pair
          clear_value x)
       | clear_value x
       | subst x)
    | with_reducible first
        | assumption | apply State.count_in | apply State.releaseKey_in | apply State.dropJob_in | apply foldl_in
        | apply in_ite | apply inP_ite
    | exact Foot.sub hft rfl
    | with_reducible exact Or.inl rfl
    | exact Or.inr (Foot.sub hft rfl)
    | with_reducible apply InMk.of
    | simp -zeta only [in_mk_iff]
    | split
    | intro _ _ _
    | intro _ _
    | with_reducible apply InP.pair

def State.pageSettled_foot : Foot :=
  Fld.RECODE_LEFT.foot ||| Fld.REDIRTY_CNT.foot ||| Fld.STL_FLAGS_CNT_OVF.foot ||| Part.nfc.foot |||
    Part.int.foot ||| State.count_foot ||| State.setMap_foot ||| State.releaseCp_foot ||| State.redirty_foot |||
    State.vaultRegs_foot ||| State.rehomeCount_foot ||| State.rebuildMember_foot ||| State.dropJob_foot
theorem State.pageSettled_in {s : State} {j : Settle} (hks : In ft s0 s) (hft : State.pageSettled_foot.le ft = true) :
    In ft s0 (State.pageSettled s j) := by
  unfold State.pageSettled
  repeat' first
    | (extract_lets +onlyGivenNames x
       first
       | (have : In ft s0 x := by
            subst x
            repeat' first
              | (extract_lets +onlyGivenNames x; subst x)
              | with_reducible first
                  | assumption | apply State.wr_in | apply State.each_in | apply State.count_in
                  | apply State.setMap_in | apply State.releaseCp_in | apply State.redirty_in
                  | apply State.vaultRegs_in | apply State.rehomeCount_in | apply State.rebuildMember_in
                  | apply State.dropJob_in | apply foldl_in | apply in_ite | apply inP_ite
              | exact Foot.sub hft rfl
              | with_reducible exact Or.inl rfl
              | exact Or.inr (Foot.sub hft rfl)
              | with_reducible apply InMk.of
              | simp -zeta only [in_mk_iff]
              | split
              | intro _ _ _
              | intro _ _
              | with_reducible apply InP.pair
          clear_value x)
       | clear_value x
       | subst x)
    | with_reducible first
        | assumption | apply State.wr_in | apply State.each_in | apply State.count_in | apply State.setMap_in
        | apply State.releaseCp_in | apply State.redirty_in | apply State.vaultRegs_in | apply State.rehomeCount_in
        | apply State.rebuildMember_in | apply State.dropJob_in | apply foldl_in | apply in_ite | apply inP_ite
    | exact Foot.sub hft rfl
    | with_reducible exact Or.inl rfl
    | exact Or.inr (Foot.sub hft rfl)
    | with_reducible apply InMk.of
    | simp -zeta only [in_mk_iff]
    | split
    | intro _ _ _
    | intro _ _
    | with_reducible apply InP.pair

def execStripeSettleDone_foot : Foot :=
  Fld.SETTLE_CNT.foot ||| Fld.STL_FLAGS_CNT_OVF.foot ||| State.count_foot ||| State.journalSettled_foot |||
    State.soloSettled_foot ||| State.pageSettled_foot
theorem execStripeSettleDone_in {frame p : Nat} {s : State} (hks : In ft s0 s)
    (hft : execStripeSettleDone_foot.le ft = true) :
    InOut ft s0 (execStripeSettleDone frame p s) := by
  unfold execStripeSettleDone
  repeat' first
    | (extract_lets +onlyGivenNames x
       first
       | (have : In ft s0 x := by
            subst x
            repeat' first
              | with_reducible first
                  | assumption | apply State.count_in | apply State.journalSettled_in | apply State.soloSettled_in
                  | apply State.pageSettled_in | apply inOut_ite | apply in_ite | apply InOut.next
              | exact Foot.sub hft rfl
              | split
          clear_value x)
       | clear_value x
       | subst x)
    | with_reducible first
        | assumption | apply State.count_in | apply State.journalSettled_in | apply State.soloSettled_in
        | apply State.pageSettled_in | apply inOut_ite | apply in_ite | apply InOut.next
    | exact Foot.sub hft rfl
    | split

def State.abandonSettle_foot : Foot := State.setMap_foot ||| State.dropJob_foot
theorem State.abandonSettle_in {s : State} {j : Settle} (hks : In ft s0 s)
    (hft : State.abandonSettle_foot.le ft = true) :
    In ft s0 (State.abandonSettle s j) := by
  unfold State.abandonSettle
  repeat' first
    | (extract_lets +onlyGivenNames x
       first
       | (have : In ft s0 x := by
            subst x
            repeat' first
              | (extract_lets +onlyGivenNames x; subst x)
              | with_reducible first
                  | assumption | apply State.each_in | apply State.setMap_in | apply State.dropJob_in | apply in_ite
              | exact Foot.sub hft rfl
              | split
              | intro _ _ _
              | intro _ _
          clear_value x)
       | clear_value x
       | subst x)
    | with_reducible first
        | assumption | apply State.each_in | apply State.setMap_in | apply State.dropJob_in | apply in_ite
    | exact Foot.sub hft rfl
    | split
    | intro _ _ _
    | intro _ _

def execNandProgramFail_foot : Foot :=
  Fld.PROG_FAIL_CNT.foot ||| Fld.NFC_CH_FLAGS_CNT_OVF.foot ||| State.count_foot ||| State.badBlock_foot |||
    State.abandonSettle_foot
theorem execNandProgramFail_in {ch : Nat} {settle : Option (Nat × Nat)} {s : State} (hks : In ft s0 s)
    (hft : execNandProgramFail_foot.le ft = true) :
    InOut ft s0 (execNandProgramFail ch settle s) := by
  unfold execNandProgramFail
  repeat' first
    | (extract_lets +onlyGivenNames x
       first
       | (have : In ft s0 x := by
            subst x
            repeat' first
              | with_reducible first
                  | assumption | apply State.count_in | apply State.badBlock_in | apply State.abandonSettle_in
                  | apply inOut_ite | apply in_ite | apply InOut.next
              | exact Foot.sub hft rfl
              | split
          clear_value x)
       | clear_value x
       | subst x)
    | with_reducible first
        | assumption | apply State.count_in | apply State.badBlock_in | apply State.abandonSettle_in
        | apply inOut_ite | apply in_ite | apply InOut.next
    | exact Foot.sub hft rfl
    | split

def execNandEraseFail_foot : Foot :=
  Fld.ERASE_FAIL_CNT.foot ||| Fld.NFC_CH_FLAGS_CNT_OVF.foot ||| State.count_foot ||| State.badBlock_foot
theorem execNandEraseFail_in {ch : Nat} {s : State} (hks : In ft s0 s) (hft : execNandEraseFail_foot.le ft = true) :
    InOut ft s0 (execNandEraseFail ch s) := by
  unfold execNandEraseFail
  repeat' first
    | with_reducible first
        | assumption | apply State.count_in | apply State.badBlock_in | apply inOut_ite | apply in_ite
        | apply InOut.next
    | exact Foot.sub hft rfl
    | split

def execRehome_foot : Foot :=
  Fld.SETTLE_SEQ.foot ||| Part.nfc.foot ||| State.setMap_foot ||| State.vaultRegs_foot |||
    State.rehomeCount_foot ||| State.rebuildMember_foot ||| State.startSettle_foot
theorem execRehome_in {obj tp : Nat} {bad : List Nat} {s : State} (hks : In ft s0 s)
    (hft : execRehome_foot.le ft = true) :
    InOut ft s0 (execRehome obj tp bad s) := by
  unfold execRehome
  repeat' first
    | (extract_lets +onlyGivenNames x
       first
       | (have : In ft s0 x := by
            subst x
            repeat' first
              | (extract_lets +onlyGivenNames x; subst x)
              | with_reducible first
                  | assumption | apply State.wr_in | apply State.each_in | apply State.setMap_in
                  | apply State.vaultRegs_in | apply State.rehomeCount_in | apply State.rebuildMember_in
                  | apply State.startSettle_in | apply inOut_ite | apply in_ite | apply InOut.next
              | exact Foot.sub hft rfl
              | with_reducible exact Or.inl rfl
              | exact Or.inr (Foot.sub hft rfl)
              | with_reducible apply InMk.of
              | simp -zeta only [in_mk_iff]
              | split
              | intro _ _ _
              | intro _ _
          clear_value x)
       | clear_value x
       | subst x)
    | with_reducible first
        | assumption | apply State.wr_in | apply State.each_in | apply State.setMap_in | apply State.vaultRegs_in
        | apply State.rehomeCount_in | apply State.rebuildMember_in | apply State.startSettle_in | apply inOut_ite
        | apply in_ite | apply InOut.next
    | exact Foot.sub hft rfl
    | with_reducible exact Or.inl rfl
    | exact Or.inr (Foot.sub hft rfl)
    | with_reducible apply InMk.of
    | simp -zeta only [in_mk_iff]
    | split
    | intro _ _ _
    | intro _ _

def State.progsGo_foot : Foot := Part.stl.foot ||| State.openBlocks_foot
theorem State.progsGo_in {s : State} {ch : Nat} (hks : In ft s0 s) (hft : State.progsGo_foot.le ft = true) :
    In ft s0 (State.progsGo s ch) := by
  unfold State.progsGo
  repeat' first
    | (extract_lets +onlyGivenNames x
       first
       | (have : In ft s0 x := by
            subst x
            repeat' first
              | (extract_lets +onlyGivenNames x; subst x)
              | with_reducible first | assumption | apply State.openBlocks_in | apply in_ite
              | exact Foot.sub hft rfl
              | with_reducible exact Or.inl rfl
              | exact Or.inr (Foot.sub hft rfl)
              | with_reducible apply InMk.of
              | simp -zeta only [in_mk_iff]
              | split
          clear_value x)
       | clear_value x
       | subst x)
    | with_reducible first | assumption | apply State.openBlocks_in | apply in_ite
    | exact Foot.sub hft rfl
    | with_reducible exact Or.inl rfl
    | exact Or.inr (Foot.sub hft rfl)
    | with_reducible apply InMk.of
    | simp -zeta only [in_mk_iff]
    | split

def execGarbageCollection_foot : Foot :=
  Fld.SETTLE_SEQ.foot ||| Fld.FREE_BLK.foot ||| Fld.PE_AVG.foot ||| Fld.PE_MAX.foot ||| Fld.WEAR_PM.foot |||
    Fld.WEAR_WARN.foot ||| State.record_foot ||| State.alert_foot ||| State.progsGo_foot
theorem execGarbageCollection_in {ch valid avg top : Nat} {s : State} (hks : In ft s0 s)
    (hft : execGarbageCollection_foot.le ft = true) :
    InOut ft s0 (execGarbageCollection ch valid avg top s) := by
  unfold execGarbageCollection
  repeat' first
    | (extract_lets +onlyGivenNames x
       first
       | (have : In ft s0 x := by
            subst x
            repeat' first
              | (extract_lets +onlyGivenNames x; subst x)
              | with_reducible first
                  | assumption | apply State.wri_in | apply State.wr_in | apply State.setfi_in
                  | apply State.record_in | apply State.alert_in | apply State.progsGo_in | apply inOut_ite
                  | apply in_ite | apply InOut.next
              | exact Foot.sub hft rfl
              | split
          clear_value x)
       | clear_value x
       | subst x)
    | with_reducible first
        | assumption | apply State.wri_in | apply State.wr_in | apply State.setfi_in | apply State.record_in
        | apply State.alert_in | apply State.progsGo_in | apply inOut_ite | apply in_ite | apply InOut.next
    | exact Foot.sub hft rfl
    | split

def State.retireChan_foot : Foot := State.record_foot ||| State.alert_foot ||| State.setChan_foot
theorem State.retireChan_in {s : State} {c : Nat} (hks : In ft s0 s) (hft : State.retireChan_foot.le ft = true) :
    In ft s0 (State.retireChan s c) := by
  unfold State.retireChan
  repeat' first
    | with_reducible first | assumption | apply State.record_in | apply State.alert_in | apply State.setChan_in
    | exact Foot.sub hft rfl

def execChannelRetire_foot : Foot := State.retireChan_foot
theorem execChannelRetire_in {ch : Nat} {s : State} (hks : In ft s0 s) (hft : execChannelRetire_foot.le ft = true) :
    InOut ft s0 (execChannelRetire ch s) := by
  unfold execChannelRetire
  repeat' first
    | with_reducible first
        | assumption | apply State.retireChan_in | apply inOut_ite | apply in_ite | apply InOut.next
    | exact Foot.sub hft rfl
    | split

def State.retireWrite_foot : Foot := Fld.RETIRE_REFUSED.foot ||| State.retireChan_foot
theorem State.retireWrite_in {s : State} {c : Nat} (hks : In ft s0 s) (hft : State.retireWrite_foot.le ft = true) :
    In ft s0 (State.retireWrite s c) := by
  unfold State.retireWrite
  repeat' first
    | with_reducible first | assumption | apply State.setf_in | apply State.retireChan_in | apply in_ite
    | exact Foot.sub hft rfl
    | split

def execRetire_foot : Foot := State.barWrite_foot ||| State.retireWrite_foot
theorem execRetire_in {ch : Nat} {s : State} (hks : In ft s0 s) (hft : execRetire_foot.le ft = true) :
    InOut ft s0 (execRetire ch s) := by
  unfold execRetire
  repeat' first
    | with_reducible first
        | assumption | apply State.barWrite_in | apply State.retireWrite_in | apply inOut_ite | apply in_ite
        | apply InOut.next
    | exact Foot.sub hft rfl
    | split
    | intro _ _ _
    | intro _ _

def State.retireSlot_foot : Foot := Fld.RETIRE_REFUSED.foot ||| State.abandonSettle_foot ||| State.retireChan_foot
theorem State.retireSlot_in {s : State} {i : Nat} (hks : In ft s0 s) (hft : State.retireSlot_foot.le ft = true) :
    In ft s0 (State.retireSlot s i) := by
  unfold State.retireSlot
  repeat' first
    | (extract_lets +onlyGivenNames x
       first
       | (have : In ft s0 x := by
            subst x
            repeat' first
              | (extract_lets +onlyGivenNames x; subst x)
              | with_reducible first
                  | assumption | apply State.setf_in | apply State.each_in | apply State.abandonSettle_in
                  | apply State.retireChan_in | apply in_ite
              | exact Foot.sub hft rfl
              | split
              | intro _ _ _
              | intro _ _
          clear_value x)
       | clear_value x
       | subst x)
    | with_reducible first
        | assumption | apply State.setf_in | apply State.each_in | apply State.abandonSettle_in
        | apply State.retireChan_in | apply in_ite
    | exact Foot.sub hft rfl
    | split
    | intro _ _ _
    | intro _ _

def execRetireSlot_foot : Foot := State.barWrite_foot ||| State.retireSlot_foot
theorem execRetireSlot_in {slot : Nat} {s : State} (hks : In ft s0 s) (hft : execRetireSlot_foot.le ft = true) :
    InOut ft s0 (execRetireSlot slot s) := by
  unfold execRetireSlot
  repeat' first
    | with_reducible first
        | assumption | apply State.barWrite_in | apply State.retireSlot_in | apply inOut_ite | apply in_ite
        | apply InOut.next
    | exact Foot.sub hft rfl
    | split
    | intro _ _ _
    | intro _ _

def State.slotPwr_foot : Foot := Fld.SLOT_PWR.foot ||| Fld.PWR_ON.foot ||| State.send_foot
theorem State.slotPwr_in {s : State} {i : Nat} {v : Bool} (hks : In ft s0 s) (hft : State.slotPwr_foot.le ft = true) :
    In ft s0 (State.slotPwr s i v) := by
  unfold State.slotPwr
  repeat' first
    | (extract_lets +onlyGivenNames x
       first
       | (have : In ft s0 x := by
            subst x
            repeat' first
              | with_reducible first | assumption | apply State.setfi_in | apply State.send_in | apply in_ite
              | exact Foot.sub hft rfl
              | split
          clear_value x)
       | clear_value x
       | subst x)
    | with_reducible first | assumption | apply State.setfi_in | apply State.send_in | apply in_ite
    | exact Foot.sub hft rfl
    | split

def execSlotPwrWrite_foot : Foot := State.barWrite_foot ||| State.slotPwr_foot
theorem execSlotPwrWrite_in {slot : Nat} {v : Bool} {s : State} (hks : In ft s0 s)
    (hft : execSlotPwrWrite_foot.le ft = true) :
    InOut ft s0 (execSlotPwrWrite slot v s) := by
  unfold execSlotPwrWrite
  repeat' first
    | with_reducible first
        | assumption | apply State.barWrite_in | apply State.slotPwr_in | apply inOut_ite | apply in_ite
        | apply InOut.next
    | exact Foot.sub hft rfl
    | split
    | intro _ _ _
    | intro _ _

def State.slotRegs_foot : Foot :=
  Fld.PRESENT.foot ||| Fld.CARRIER_UID.foot ||| Fld.ID_STATE.foot ||| Fld.REFUSE_CAUSE.foot
theorem State.slotRegs_in {s : State} {i : Nat} {c : Carrier} (hks : In ft s0 s)
    (hft : State.slotRegs_foot.le ft = true) :
    In ft s0 (State.slotRegs s i c) := by
  unfold State.slotRegs
  repeat' first
    | (extract_lets +onlyGivenNames x
       first
       | (have : In ft s0 x := by
            subst x
            repeat' first
              | (extract_lets +onlyGivenNames x; subst x)
              | with_reducible first | assumption | apply State.wri_in | apply State.setfi_in | apply in_ite
              | exact Foot.sub hft rfl
              | split
          clear_value x)
       | clear_value x
       | subst x)
    | with_reducible first | assumption | apply State.wri_in | apply State.setfi_in | apply in_ite
    | exact Foot.sub hft rfl
    | split

def execCarrierPresent_foot : Foot := Part.nfc.foot ||| State.record_foot ||| State.slotRegs_foot
theorem execCarrierPresent_in {slot : Nat} {c : Carrier} {s : State} (hks : In ft s0 s)
    (hft : execCarrierPresent_foot.le ft = true) :
    InOut ft s0 (execCarrierPresent slot c s) := by
  unfold execCarrierPresent
  repeat' first
    | (extract_lets +onlyGivenNames x
       first
       | (have : In ft s0 x := by
            subst x
            repeat' first
              | with_reducible first
                  | assumption | apply State.record_in | apply State.slotRegs_in | apply inOut_ite | apply in_ite
                  | apply InOut.next
              | exact Foot.sub hft rfl
              | with_reducible exact Or.inl rfl
              | exact Or.inr (Foot.sub hft rfl)
              | with_reducible apply InMk.of
              | simp -zeta only [in_mk_iff]
              | split
          clear_value x)
       | clear_value x
       | subst x)
    | with_reducible first
        | assumption | apply State.record_in | apply State.slotRegs_in | apply inOut_ite | apply in_ite
        | apply InOut.next
    | exact Foot.sub hft rfl
    | with_reducible exact Or.inl rfl
    | exact Or.inr (Foot.sub hft rfl)
    | with_reducible apply InMk.of
    | simp -zeta only [in_mk_iff]
    | split

def execCarrierRemoved_foot : Foot :=
  Fld.PRESENT.foot ||| Fld.CARRIER_UID.foot ||| Fld.ID_STATE.foot ||| Fld.REFUSE_CAUSE.foot ||| Part.nfc.foot
theorem execCarrierRemoved_in {slot : Nat} {s : State} (hks : In ft s0 s)
    (hft : execCarrierRemoved_foot.le ft = true) :
    InOut ft s0 (execCarrierRemoved slot s) := by
  unfold execCarrierRemoved
  repeat' first
    | (extract_lets +onlyGivenNames x
       first
       | (have : In ft s0 x := by
            subst x
            repeat' first
              | with_reducible first
                  | assumption | apply State.wri_in | apply State.setfi_in | apply inOut_ite | apply in_ite
                  | apply InOut.next
              | exact Foot.sub hft rfl
              | with_reducible exact Or.inl rfl
              | exact Or.inr (Foot.sub hft rfl)
              | with_reducible apply InMk.of
              | simp -zeta only [in_mk_iff]
              | split
          clear_value x)
       | clear_value x
       | subst x)
    | with_reducible first
        | assumption | apply State.wri_in | apply State.setfi_in | apply inOut_ite | apply in_ite | apply InOut.next
    | exact Foot.sub hft rfl
    | with_reducible exact Or.inl rfl
    | exact Or.inr (Foot.sub hft rfl)
    | with_reducible apply InMk.of
    | simp -zeta only [in_mk_iff]
    | split

def State.chanMedia_foot : Foot :=
  Fld.TOGGLE.foot ||| Fld.MTS.foot ||| Fld.DIES.foot ||| Fld.PE_RATED.foot ||| Fld.BAD_BLK.foot |||
    Fld.PE_AVG.foot ||| Fld.PE_MAX.foot ||| Fld.WEAR_PM.foot
theorem State.chanMedia_in {s : State} {c : Nat} {x : Carrier} {n : Nat} (hks : In ft s0 s)
    (hft : State.chanMedia_foot.le ft = true) :
    In ft s0 (State.chanMedia s c x n) := by
  unfold State.chanMedia
  repeat' first
    | (extract_lets +onlyGivenNames x
       first
       | (have : In ft s0 x := by
            subst x
            repeat' first
              | (extract_lets +onlyGivenNames x; subst x)
              | with_reducible first | assumption | apply State.wri_in | apply State.setfi_in | apply in_ite
              | exact Foot.sub hft rfl
              | split
          clear_value x)
       | clear_value x
       | subst x)
    | with_reducible first | assumption | apply State.wri_in | apply State.setfi_in | apply in_ite
    | exact Foot.sub hft rfl
    | split

def State.adopt_foot : Foot :=
  Fld.ID_STATE.foot ||| Fld.REFUSE_CAUSE.foot ||| Fld.FREE_BLK.foot ||| Part.nfc.foot ||| State.setChan_foot |||
    State.rebuildLeft_foot ||| State.capTp_foot ||| State.slotPwr_foot ||| State.chanMedia_foot
theorem State.adopt_in {s : State} {i : Nat} {icOk paramOk : Bool} (hks : In ft s0 s)
    (hft : State.adopt_foot.le ft = true) :
    In ft s0 (State.adopt s i icOk paramOk) := by
  unfold State.adopt
  repeat' first
    | (extract_lets +onlyGivenNames x
       first
       | (have : In ft s0 x := by
            subst x
            repeat' first
              | (extract_lets +onlyGivenNames x; subst x)
              | with_reducible first
                  | assumption | apply State.wri_in | apply State.each_in | apply State.setChan_in
                  | apply State.rebuildLeft_in | apply State.capTp_in | apply State.slotPwr_in
                  | apply State.chanMedia_in | apply in_ite
              | exact Foot.sub hft rfl
              | with_reducible exact Or.inl rfl
              | exact Or.inr (Foot.sub hft rfl)
              | with_reducible apply InMk.of
              | simp -zeta only [in_mk_iff]
              | split
              | intro _ _ _
              | intro _ _
          clear_value x)
       | clear_value x
       | subst x)
    | with_reducible first
        | assumption | apply State.wri_in | apply State.each_in | apply State.setChan_in | apply State.rebuildLeft_in
        | apply State.capTp_in | apply State.slotPwr_in | apply State.chanMedia_in | apply in_ite
    | exact Foot.sub hft rfl
    | with_reducible exact Or.inl rfl
    | exact Or.inr (Foot.sub hft rfl)
    | with_reducible apply InMk.of
    | simp -zeta only [in_mk_iff]
    | split
    | intro _ _ _
    | intro _ _

def execAdopt_foot : Foot := State.barWrite_foot ||| State.adopt_foot
theorem execAdopt_in {slot : Nat} {icOk paramOk : Bool} {s : State} (hks : In ft s0 s)
    (hft : execAdopt_foot.le ft = true) :
    InOut ft s0 (execAdopt slot icOk paramOk s) := by
  unfold execAdopt
  repeat' first
    | with_reducible first
        | assumption | apply State.barWrite_in | apply State.adopt_in | apply inOut_ite | apply in_ite
        | apply InOut.next
    | exact Foot.sub hft rfl
    | split
    | intro _ _ _
    | intro _ _

def execRebuildStripe_foot : Foot := State.rebuildMember_foot
theorem execRebuildStripe_in {ch home : Nat} {s : State} (hks : In ft s0 s)
    (hft : execRebuildStripe_foot.le ft = true) :
    InOut ft s0 (execRebuildStripe ch home s) := by
  unfold execRebuildStripe
  repeat' first
    | with_reducible first
        | assumption | apply State.rebuildMember_in | apply inOut_ite | apply in_ite | apply InOut.next
    | exact Foot.sub hft rfl
    | split

def execRebuildDone_foot : Foot := State.record_foot ||| State.setChan_foot
theorem execRebuildDone_in {ch : Nat} {s : State} (hks : In ft s0 s) (hft : execRebuildDone_foot.le ft = true) :
    InOut ft s0 (execRebuildDone ch s) := by
  unfold execRebuildDone
  repeat' first
    | with_reducible first
        | assumption | apply State.record_in | apply State.setChan_in | apply inOut_ite | apply in_ite
        | apply InOut.next
    | exact Foot.sub hft rfl
    | split

def execUnbindCarrier_foot : Foot := Part.nfc.foot ||| State.send_foot ||| State.slotRegs_foot
theorem execUnbindCarrier_in {slot : Nat} {s : State} (hks : In ft s0 s) (hft : execUnbindCarrier_foot.le ft = true) :
    InOut ft s0 (execUnbindCarrier slot s) := by
  unfold execUnbindCarrier
  repeat' first
    | (extract_lets +onlyGivenNames x
       first
       | (have : In ft s0 x := by
            subst x
            repeat' first
              | (extract_lets +onlyGivenNames x; subst x)
              | with_reducible first
                  | assumption | apply State.send_in | apply State.slotRegs_in | apply inOut_ite | apply in_ite
                  | apply InOut.next
              | exact Foot.sub hft rfl
              | with_reducible exact Or.inl rfl
              | exact Or.inr (Foot.sub hft rfl)
              | with_reducible apply InMk.of
              | simp -zeta only [in_mk_iff]
              | split
          clear_value x)
       | clear_value x
       | subst x)
    | with_reducible first
        | assumption | apply State.send_in | apply State.slotRegs_in | apply inOut_ite | apply in_ite
        | apply InOut.next
    | exact Foot.sub hft rfl
    | with_reducible exact Or.inl rfl
    | exact Or.inr (Foot.sub hft rfl)
    | with_reducible apply InMk.of
    | simp -zeta only [in_mk_iff]
    | split

end Sys2Proof.Machine
end

