-- ==== Sys2Proof/Laws/FrameIntegrity.lean ====
section
/-! SUPPORT. The footprints of the operations of Machine/Integrity (Laws/Frame). -/

namespace Sys2Proof.Machine

variable {ft : Foot} {s0 : State}

def execLadderHomeReadDone_foot : Foot :=
  Fld.STRIPE_LOSS.foot ||| State.homeFix_foot ||| State.nandReads_foot ||| State.ladderEnd_foot |||
    State.twinStep_foot
theorem execLadderHomeReadDone_in {la : Nat} {ok : Bool} {rd : List (Nat × Nat × Bool)} {s : State}
    (hks : In ft s0 s) (hft : execLadderHomeReadDone_foot.le ft = true) :
    InOut ft s0 (execLadderHomeReadDone la ok rd s) := by
  unfold execLadderHomeReadDone
  repeat' first
    | (extract_lets +onlyGivenNames x
       first
       | (have : In ft s0 x := by
            subst x
            repeat' first
              | with_reducible first
                  | assumption | apply State.setf_in | apply State.homeFix_in | apply State.nandReads_in
                  | apply State.ladderEnd_in | apply State.twinStep_in | apply inOut_ite | apply in_ite
                  | apply InOut.next
              | exact Foot.sub hft rfl
              | split
          clear_value x)
       | clear_value x
       | subst x)
    | with_reducible first
        | assumption | apply State.setf_in | apply State.homeFix_in | apply State.nandReads_in
        | apply State.ladderEnd_in | apply State.twinStep_in | apply inOut_ite | apply in_ite | apply InOut.next
    | exact Foot.sub hft rfl
    | split

def execLadderDeadline_foot : Foot :=
  Part.fch.foot ||| State.freeNext_foot ||| State.doneRead_foot ||| State.ladderFail_foot |||
    State.ladderEnd_foot ||| State.setLadder_foot
theorem execLadderDeadline_in {la : Nat} {s : State} (hks : In ft s0 s) (hft : execLadderDeadline_foot.le ft = true) :
    InOut ft s0 (execLadderDeadline la s) := by
  unfold execLadderDeadline
  repeat' first
    | (extract_lets +onlyGivenNames x
       first
       | (have : In ft s0 x := by
            subst x
            repeat' first
              | (extract_lets +onlyGivenNames x; subst x)
              | with_reducible first
                  | assumption | apply State.freeNext_in | apply State.each_in | apply State.doneRead_in
                  | apply State.ladderFail_in | apply State.ladderEnd_in | apply State.setLadder_in | apply inOut_ite
                  | apply in_ite | apply InOut.next
              | exact Foot.sub hft rfl
              | with_reducible exact Or.inl rfl
              | exact Or.inr (Foot.sub hft rfl)
              | with_reducible apply InMk.of
              | simp -zeta only [in_mk_iff]
              | split
              | intro _ _ _
              | intro _ _
          clear_value x)
       | clear_value x
       | subst x)
    | with_reducible first
        | assumption | apply State.freeNext_in | apply State.each_in | apply State.doneRead_in
        | apply State.ladderFail_in | apply State.ladderEnd_in | apply State.setLadder_in | apply inOut_ite
        | apply in_ite | apply InOut.next
    | exact Foot.sub hft rfl
    | with_reducible exact Or.inl rfl
    | exact Or.inr (Foot.sub hft rfl)
    | with_reducible apply InMk.of
    | simp -zeta only [in_mk_iff]
    | split
    | intro _ _ _
    | intro _ _

def execFetchRsp_foot : Foot :=
  State.twinFix_foot ||| State.ladderFail_foot ||| State.setMir_foot ||| State.ladderEnd_foot
theorem execFetchRsp_in {tag st : Nat} {data : Line} {s : State} (hks : In ft s0 s)
    (hft : execFetchRsp_foot.le ft = true) :
    InOut ft s0 (execFetchRsp tag st data s) := by
  unfold execFetchRsp
  repeat' first
    | (extract_lets +onlyGivenNames x
       first
       | (have : In ft s0 x := by
            subst x
            repeat' first
              | with_reducible first
                  | assumption | apply State.twinFix_in | apply State.ladderFail_in | apply State.setMir_in
                  | apply State.ladderEnd_in | apply inOut_ite | apply in_ite | apply InOut.next
              | exact Foot.sub hft rfl
              | with_reducible exact Or.inl rfl
              | exact Or.inr (Foot.sub hft rfl)
              | with_reducible apply InMk.of
              | simp -zeta only [in_mk_iff]
              | split
              | intro _ _ _
              | intro _ _
          clear_value x)
       | clear_value x
       | subst x)
    | with_reducible first
        | assumption | apply State.twinFix_in | apply State.ladderFail_in | apply State.setMir_in
        | apply State.ladderEnd_in | apply inOut_ite | apply in_ite | apply InOut.next
    | exact Foot.sub hft rfl
    | with_reducible exact Or.inl rfl
    | exact Or.inr (Foot.sub hft rfl)
    | with_reducible apply InMk.of
    | simp -zeta only [in_mk_iff]
    | split
    | intro _ _ _
    | intro _ _

def execVerifyRead_foot : Foot := Part.int.foot ||| State.dreq_foot ||| State.decode_foot ||| State.hardFault_foot
theorem execVerifyRead_in {la : Nat} {errs : List Nat} {s : State} (hks : In ft s0 s)
    (hft : execVerifyRead_foot.le ft = true) :
    InOut ft s0 (execVerifyRead la errs s) := by
  unfold execVerifyRead
  repeat' first
    | (extract_lets +onlyGivenNames x
       first
       | (have : In ft s0 x := by
            subst x
            repeat' first
              | (extract_lets +onlyGivenNames x; subst x)
              | with_reducible first
                  | assumption | apply State.dreq_in | apply State.decode_in | apply State.hardFault_in
                  | apply inOut_ite | apply in_ite | apply inP_ite | apply InOut.next
              | exact Foot.sub hft rfl
              | with_reducible exact Or.inl rfl
              | exact Or.inr (Foot.sub hft rfl)
              | with_reducible apply InMk.of
              | simp -zeta only [in_mk_iff]
              | with_reducible refine InP.eq (by assumption) ?_
              | (with_reducible refine InP.fst ?_; with_reducible first | assumption | apply State.decode_in)
              | split
              | with_reducible apply InP.pair
              | dsimp -zeta only
          clear_value x)
       | (have : InP ft s0 x := by
            subst x
            repeat' first
              | (extract_lets +onlyGivenNames x; subst x)
              | with_reducible first
                  | assumption | apply State.dreq_in | apply State.decode_in | apply State.hardFault_in
                  | apply inOut_ite | apply in_ite | apply inP_ite | apply InOut.next
              | exact Foot.sub hft rfl
              | with_reducible exact Or.inl rfl
              | exact Or.inr (Foot.sub hft rfl)
              | with_reducible apply InMk.of
              | simp -zeta only [in_mk_iff]
              | with_reducible refine InP.eq (by assumption) ?_
              | (with_reducible refine InP.fst ?_; with_reducible first | assumption | apply State.decode_in)
              | split
              | with_reducible apply InP.pair
              | dsimp -zeta only
          clear_value x)
       | clear_value x
       | subst x)
    | with_reducible first
        | assumption | apply State.dreq_in | apply State.decode_in | apply State.hardFault_in | apply inOut_ite
        | apply in_ite | apply inP_ite | apply InOut.next
    | exact Foot.sub hft rfl
    | with_reducible exact Or.inl rfl
    | exact Or.inr (Foot.sub hft rfl)
    | with_reducible apply InMk.of
    | simp -zeta only [in_mk_iff]
    | with_reducible refine InP.eq (by assumption) ?_
    | (with_reducible refine InP.fst ?_; with_reducible first | assumption | apply State.decode_in)
    | split
    | with_reducible apply InP.pair
    | dsimp -zeta only

def execRecodeWrite_foot : Foot := Fld.RECODE_LEFT.foot ||| Part.int.foot ||| State.dreq_foot
theorem execRecodeWrite_in {s : State} (hks : In ft s0 s) (hft : execRecodeWrite_foot.le ft = true) :
    InOut ft s0 (execRecodeWrite s) := by
  unfold execRecodeWrite
  repeat' first
    | (extract_lets +onlyGivenNames x
       first
       | (have : In ft s0 x := by
            subst x
            repeat' first
              | (extract_lets +onlyGivenNames x; subst x)
              | with_reducible first
                  | assumption | apply State.wr_in | apply State.dreq_in | apply inOut_ite | apply in_ite
                  | apply InOut.next
              | exact Foot.sub hft rfl
              | with_reducible exact Or.inl rfl
              | exact Or.inr (Foot.sub hft rfl)
              | with_reducible apply InMk.of
              | simp -zeta only [in_mk_iff]
              | split
          clear_value x)
       | clear_value x
       | subst x)
    | with_reducible first
        | assumption | apply State.wr_in | apply State.dreq_in | apply inOut_ite | apply in_ite | apply InOut.next
    | exact Foot.sub hft rfl
    | with_reducible exact Or.inl rfl
    | exact Or.inr (Foot.sub hft rfl)
    | with_reducible apply InMk.of
    | simp -zeta only [in_mk_iff]
    | split

def State.flipClean_foot : Foot := State.dropWay_foot ||| State.writeBack_foot ||| State.flushEvict_foot
theorem State.flipClean_in {s : State} (hks : In ft s0 s) (hft : State.flipClean_foot.le ft = true) :
    In ft s0 (State.flipClean s) := by
  unfold State.flipClean
  repeat' first
    | (extract_lets +onlyGivenNames x; clear_value x)
    | with_reducible first
        | assumption | apply State.dropWay_in | apply State.writeBack_in | apply State.flushEvict_in | apply in_ite
    | exact Foot.sub hft rfl
    | split

def State.flipWrite_foot : Foot := Fld.FLIP_ARM.foot ||| State.flipClean_foot
theorem State.flipWrite_in {s : State} {w : WVals} (hks : In ft s0 s)
    (hw : ∀ x ∈ w, x.1.foot.le ft = true) (hft : State.flipWrite_foot.le ft = true) :
    In ft s0 (State.flipWrite s w) := by
  have h1 : Fld.FLIP_ARM.foot.le ft = true := Foot.sub hft rfl
  unfold State.flipWrite
  refine in_ite (in_ite (State.setf_in hks h1) hks) ?_
  have hp : In ft s0 (s.putVals (w.filter fun x => x.1 != .FLIP_ARM) 0) :=
    State.putVals_in hks fun x hx => hw x (List.mem_of_mem_filter hx)
  exact in_ite (State.flipClean_in (State.setf_in hp h1) (Foot.sub hft rfl)) hp

def execFlipArmWrite_foot : Foot :=
  State.barWrite_foot ||| State.flipWrite_foot ||| Fld.FLIP_OBJ.foot ||| Fld.FLIP_READS.foot
theorem execFlipArmWrite_in {obj reads : Nat} {arm : Bool} {s : State} (hks : In ft s0 s)
    (hft : execFlipArmWrite_foot.le ft = true) : InOut ft s0 (execFlipArmWrite obj reads arm s) := by
  refine InOut.next (State.barWrite_in hks (fun s hs => ?_) (Foot.sub hft rfl))
  refine State.flipWrite_in hs (fun x hx => ?_) (Foot.sub hft rfl)
  have : x.1 ∈ [Fld.FLIP_OBJ, .FLIP_READS, .FLIP_ARM] := by
    simp only [List.mem_cons, List.not_mem_nil, or_false] at hx
    rcases hx with rfl | rfl | rfl <;> simp
  exact Foot.le_trans ((by decide +kernel : ∀ f ∈ [Fld.FLIP_OBJ, .FLIP_READS, .FLIP_ARM],
    f.foot.le execFlipArmWrite_foot = true) _ this) hft

def State.metaRead_foot : Foot :=
  Fld.META_FATAL.foot ||| Fld.INT_CH_ERR_UE_CNT.foot ||| Fld.INT_CH_FLAGS_CNT_OVF.foot ||| Part.int.foot |||
    State.count_foot ||| State.decode_foot ||| State.fixCorrected_foot ||| State.fatal_foot
theorem State.metaRead_in {s : State} {la : Nat} {e1 e2 : List Nat} (hks : In ft s0 s)
    (hft : State.metaRead_foot.le ft = true) :
    In ft s0 (State.metaRead s la e1 e2) := by
  unfold State.metaRead
  repeat' first
    | (extract_lets +onlyGivenNames x
       first
       | (have : In ft s0 x := by
            subst x
            repeat' first
              | (extract_lets +onlyGivenNames x; subst x)
              | with_reducible first
                  | assumption | apply State.setf_in | apply State.count_in | apply State.decode_in
                  | apply State.fixCorrected_in | apply State.fatal_in
              | exact Foot.sub hft rfl
              | with_reducible exact Or.inl rfl
              | exact Or.inr (Foot.sub hft rfl)
              | with_reducible apply InMk.of
              | simp -zeta only [in_mk_iff]
              | with_reducible refine InP.eq (by assumption) ?_
              | (with_reducible refine InP.fst ?_; with_reducible first | assumption | apply State.decode_in)
              | split
              | with_reducible apply InP.pair
              | dsimp -zeta only
          clear_value x)
       | (have : InP ft s0 x := by
            subst x
            repeat' first
              | (extract_lets +onlyGivenNames x; subst x)
              | with_reducible first
                  | assumption | apply State.setf_in | apply State.count_in | apply State.decode_in
                  | apply State.fixCorrected_in | apply State.fatal_in
              | exact Foot.sub hft rfl
              | with_reducible exact Or.inl rfl
              | exact Or.inr (Foot.sub hft rfl)
              | with_reducible apply InMk.of
              | simp -zeta only [in_mk_iff]
              | with_reducible refine InP.eq (by assumption) ?_
              | (with_reducible refine InP.fst ?_; with_reducible first | assumption | apply State.decode_in)
              | split
              | with_reducible apply InP.pair
              | dsimp -zeta only
          clear_value x)
       | clear_value x
       | subst x)
    | with_reducible first
        | assumption | apply State.setf_in | apply State.count_in | apply State.decode_in
        | apply State.fixCorrected_in | apply State.fatal_in
    | exact Foot.sub hft rfl
    | with_reducible exact Or.inl rfl
    | exact Or.inr (Foot.sub hft rfl)
    | with_reducible apply InMk.of
    | simp -zeta only [in_mk_iff]
    | with_reducible refine InP.eq (by assumption) ?_
    | (with_reducible refine InP.fst ?_; with_reducible first | assumption | apply State.decode_in)
    | split
    | with_reducible apply InP.pair
    | dsimp -zeta only

def State.fillReturn_foot : Foot :=
  State.firstRungs_foot ||| State.pageRung_foot ||| State.ladderFail_foot ||| State.sramEvents_foot |||
    State.ladderEnd_foot ||| State.setLadder_foot ||| State.twinStep_foot ||| State.metaRead_foot
theorem State.fillReturn_in {s : State} {la : Nat} {e1 e2 others : List Nat} {pq : Bool} {ev : List SramEv}
    (hks : In ft s0 s) (hft : State.fillReturn_foot.le ft = true) :
    In ft s0 (State.fillReturn s la e1 e2 others pq ev) := by
  unfold State.fillReturn
  repeat' first
    | (extract_lets +onlyGivenNames x
       first
       | (have : In ft s0 x := by
            subst x
            repeat' first
              | (extract_lets +onlyGivenNames x; subst x)
              | with_reducible first
                  | assumption | apply State.firstRungs_in | apply State.pageRung_in | apply State.ladderFail_in
                  | apply State.sramEvents_in | apply State.ladderEnd_in | apply State.setLadder_in
                  | apply State.twinStep_in | apply State.metaRead_in | apply in_ite | apply inP_ite
              | exact Foot.sub hft rfl
              | with_reducible refine InP.eq (by assumption) ?_
              | (with_reducible refine InP.fst ?_
                 with_reducible first
                   | assumption | apply State.firstRungs_in | apply State.pageRung_in)
              | split
              | with_reducible apply InP.pair
              | dsimp -zeta only
          clear_value x)
       | (have : InP ft s0 x := by
            subst x
            repeat' first
              | (extract_lets +onlyGivenNames x; subst x)
              | with_reducible first
                  | assumption | apply State.firstRungs_in | apply State.pageRung_in | apply State.ladderFail_in
                  | apply State.sramEvents_in | apply State.ladderEnd_in | apply State.setLadder_in
                  | apply State.twinStep_in | apply State.metaRead_in | apply in_ite | apply inP_ite
              | exact Foot.sub hft rfl
              | with_reducible refine InP.eq (by assumption) ?_
              | (with_reducible refine InP.fst ?_
                 with_reducible first
                   | assumption | apply State.firstRungs_in | apply State.pageRung_in)
              | split
              | with_reducible apply InP.pair
              | dsimp -zeta only
          clear_value x)
       | clear_value x
       | subst x)
    | with_reducible first
        | assumption | apply State.firstRungs_in | apply State.pageRung_in | apply State.ladderFail_in
        | apply State.sramEvents_in | apply State.ladderEnd_in | apply State.setLadder_in | apply State.twinStep_in
        | apply State.metaRead_in | apply in_ite | apply inP_ite
    | exact Foot.sub hft rfl
    | with_reducible refine InP.eq (by assumption) ?_
    | (with_reducible refine InP.fst ?_
       with_reducible first
         | assumption | apply State.firstRungs_in | apply State.pageRung_in)
    | split
    | with_reducible apply InP.pair
    | dsimp -zeta only

def execMissFillReturn_foot : Foot := State.snoopsAnswered_foot ||| State.fillReturn_foot
theorem execMissFillReturn_in {la : Nat} {e1 e2 others : List Nat} {pq : Bool} {ev : List SramEv} {s : State}
    (hks : In ft s0 s) (hft : execMissFillReturn_foot.le ft = true) :
    InOut ft s0 (execMissFillReturn la e1 e2 others pq ev s) := by
  unfold execMissFillReturn
  repeat' first
    | with_reducible first | assumption | apply State.snoopsAnswered_in | apply State.fillReturn_in | apply InOut.next
    | exact Foot.sub hft rfl

def State.scrubPc_foot : Foot :=
  Fld.INT_CH_ERR_UE_CNT.foot ||| Fld.INT_CH_FLAGS_CNT_OVF.foot ||| Part.int.foot ||| State.count_foot |||
    State.dreq_foot ||| State.decode_foot ||| State.corrected_foot
theorem State.scrubPc_in {s : State} {la : Nat} {e1 e2 : List Nat} (hks : In ft s0 s)
    (hft : State.scrubPc_foot.le ft = true) :
    In ft s0 (State.scrubPc s la e1 e2) := by
  unfold State.scrubPc
  repeat' first
    | (extract_lets +onlyGivenNames x
       first
       | (have : In ft s0 x := by
            subst x
            repeat' first
              | (extract_lets +onlyGivenNames x; subst x)
              | with_reducible first
                  | assumption | apply State.count_in | apply State.dreq_in | apply State.decode_in
                  | apply State.corrected_in | apply in_ite | apply inP_ite
              | exact Foot.sub hft rfl
              | with_reducible exact Or.inl rfl
              | exact Or.inr (Foot.sub hft rfl)
              | with_reducible apply InMk.of
              | simp -zeta only [in_mk_iff]
              | with_reducible refine InP.eq (by assumption) ?_
              | (with_reducible refine InP.fst ?_; with_reducible first | assumption | apply State.decode_in)
              | split
              | with_reducible apply InP.pair
              | dsimp -zeta only
          clear_value x)
       | (have : InP ft s0 x := by
            subst x
            repeat' first
              | (extract_lets +onlyGivenNames x; subst x)
              | with_reducible first
                  | assumption | apply State.count_in | apply State.dreq_in | apply State.decode_in
                  | apply State.corrected_in | apply in_ite | apply inP_ite
              | exact Foot.sub hft rfl
              | with_reducible exact Or.inl rfl
              | exact Or.inr (Foot.sub hft rfl)
              | with_reducible apply InMk.of
              | simp -zeta only [in_mk_iff]
              | with_reducible refine InP.eq (by assumption) ?_
              | (with_reducible refine InP.fst ?_; with_reducible first | assumption | apply State.decode_in)
              | split
              | with_reducible apply InP.pair
              | dsimp -zeta only
          clear_value x)
       | clear_value x
       | subst x)
    | with_reducible first
        | assumption | apply State.count_in | apply State.dreq_in | apply State.decode_in | apply State.corrected_in
        | apply in_ite | apply inP_ite
    | exact Foot.sub hft rfl
    | with_reducible exact Or.inl rfl
    | exact Or.inr (Foot.sub hft rfl)
    | with_reducible apply InMk.of
    | simp -zeta only [in_mk_iff]
    | with_reducible refine InP.eq (by assumption) ?_
    | (with_reducible refine InP.fst ?_; with_reducible first | assumption | apply State.decode_in)
    | split
    | with_reducible apply InP.pair
    | dsimp -zeta only

def State.scrubLine_foot : Foot :=
  State.dreq_foot ||| State.ladderRun_foot ||| State.metaRead_foot ||| State.scrubPc_foot
theorem State.scrubLine_in {s : State} {errs : List (Nat × List Nat × List Nat)} {la : Nat} (hks : In ft s0 s)
    (hft : State.scrubLine_foot.le ft = true) :
    In ft s0 (State.scrubLine s errs la) := by
  unfold State.scrubLine
  repeat' first
    | (extract_lets +onlyGivenNames x
       first
       | (have : In ft s0 x := by
            subst x
            repeat' first
              | (extract_lets +onlyGivenNames x; subst x)
              | with_reducible first
                  | assumption | apply State.dreq_in | apply State.ladderRun_in | apply State.metaRead_in
                  | apply State.scrubPc_in | apply in_ite | apply inP_ite
              | exact Foot.sub hft rfl
              | with_reducible refine InP.eq (by assumption) ?_
              | (with_reducible refine InP.fst ?_; with_reducible first | assumption | apply State.ladderRun_in)
              | split
              | with_reducible apply InP.pair
              | dsimp -zeta only
          clear_value x)
       | (have : InP ft s0 x := by
            subst x
            repeat' first
              | (extract_lets +onlyGivenNames x; subst x)
              | with_reducible first
                  | assumption | apply State.dreq_in | apply State.ladderRun_in | apply State.metaRead_in
                  | apply State.scrubPc_in | apply in_ite | apply inP_ite
              | exact Foot.sub hft rfl
              | with_reducible refine InP.eq (by assumption) ?_
              | (with_reducible refine InP.fst ?_; with_reducible first | assumption | apply State.ladderRun_in)
              | split
              | with_reducible apply InP.pair
              | dsimp -zeta only
          clear_value x)
       | clear_value x
       | subst x)
    | with_reducible first
        | assumption | apply State.dreq_in | apply State.ladderRun_in | apply State.metaRead_in
        | apply State.scrubPc_in | apply in_ite | apply inP_ite
    | exact Foot.sub hft rfl
    | with_reducible refine InP.eq (by assumption) ?_
    | (with_reducible refine InP.fst ?_; with_reducible first | assumption | apply State.ladderRun_in)
    | split
    | with_reducible apply InP.pair
    | dsimp -zeta only

def State.scrubTick_foot : Foot :=
  Fld.SCRUB_LA.foot ||| Fld.SCRUB_PASSES.foot ||| Fld.SCRUB_OVF.foot ||| State.count_foot ||| State.scrubLine_foot
theorem State.scrubTick_in {s : State} {errs : List (Nat × List Nat × List Nat)} (hks : In ft s0 s)
    (hft : State.scrubTick_foot.le ft = true) :
    In ft s0 (State.scrubTick s errs) := by
  unfold State.scrubTick
  repeat' first
    | (extract_lets +onlyGivenNames x
       first
       | (have : In ft s0 x := by
            subst x
            repeat' first
              | (extract_lets +onlyGivenNames x; subst x)
              | with_reducible first
                  | assumption | apply State.wr_in | apply State.each_in | apply State.count_in
                  | apply State.scrubLine_in | apply in_ite
              | exact Foot.sub hft rfl
              | split
              | intro _ _ _
              | intro _ _
          clear_value x)
       | clear_value x
       | subst x)
    | with_reducible first
        | assumption | apply State.wr_in | apply State.each_in | apply State.count_in | apply State.scrubLine_in
        | apply in_ite
    | exact Foot.sub hft rfl
    | split
    | intro _ _ _
    | intro _ _

def State.repairSlice_foot : Foot := State.dropRemap_foot
theorem State.repairSlice_in {s : State} {c e : Nat} (hks : In ft s0 s) (hft : State.repairSlice_foot.le ft = true) :
    In ft s0 (State.repairSlice s c e) := by
  unfold State.repairSlice
  repeat' first
    | (extract_lets +onlyGivenNames x; clear_value x)
    | with_reducible first | assumption | apply State.dropRemap_in | apply in_ite
    | exact Foot.sub hft rfl
    | split

end Sys2Proof.Machine
end

