-- ==== Sys2Proof/Laws/FrameFloat.lean ====
section
/-! SUPPORT. The footprints of the operations of Machine/Float (Laws/Frame). -/

namespace Sys2Proof.Machine

variable {ft : Foot} {s0 : State}

def State.journalWriters_foot : Foot :=
  State.soloRetry_foot ||| State.ssnReserve_foot ||| State.dcRun_foot ||| State.applyHeld_foot |||
    State.tryStep5_foot ||| State.takeAll_foot
theorem State.journalWriters_in {s : State} (hks : In ft s0 s) (hft : State.journalWriters_foot.le ft = true) :
    In ft s0 (State.journalWriters s) := by
  unfold State.journalWriters
  repeat' first
    | (extract_lets +onlyGivenNames x
       first
       | (have : In ft s0 x := by
            subst x
            repeat' first
              | (extract_lets +onlyGivenNames x; subst x)
              | with_reducible first
                  | assumption | apply State.soloRetry_in | apply State.ssnReserve_in | apply State.dcRun_in
                  | apply State.applyHeld_in | apply State.tryStep5_in | apply State.takeAll_in | apply in_ite
              | exact Foot.sub hft rfl
              | split
          clear_value x)
       | clear_value x
       | subst x)
    | with_reducible first
        | assumption | apply State.soloRetry_in | apply State.ssnReserve_in | apply State.dcRun_in
        | apply State.applyHeld_in | apply State.tryStep5_in | apply State.takeAll_in | apply in_ite
    | exact Foot.sub hft rfl
    | split

def execFloatChargeAdmitted_foot : Foot :=
  Part.waits.foot ||| State.reserve_foot ||| State.credits_foot ||| State.snoopsAnswered_foot |||
    State.journalWriters_foot
theorem execFloatChargeAdmitted_in {s : State} (hks : In ft s0 s) (hft : execFloatChargeAdmitted_foot.le ft = true) :
    InOut ft s0 (execFloatChargeAdmitted s) := by
  unfold execFloatChargeAdmitted
  repeat' first
    | (extract_lets +onlyGivenNames x; clear_value x)
    | with_reducible first
        | assumption | apply State.reserve_in | apply State.credits_in | apply State.snoopsAnswered_in
        | apply State.journalWriters_in | apply inOut_ite | apply in_ite | apply InOut.next
    | exact Foot.sub hft rfl
    | with_reducible exact Or.inl rfl
    | exact Or.inr (Foot.sub hft rfl)
    | with_reducible apply InMk.of
    | simp -zeta only [in_mk_iff]
    | split

def State.ageOldest_foot : Foot := Part.waits.foot ||| Part.fences.foot
theorem State.ageOldest_in {s : State} {d : Nat} {fence : Bool} (hks : In ft s0 s)
    (hft : State.ageOldest_foot.le ft = true) :
    InOpt ft s0 (State.ageOldest s d fence) := by
  unfold State.ageOldest
  repeat' first
    | (extract_lets +onlyGivenNames x; clear_value x)
    | with_reducible first
        | assumption | apply inOpt_ite | apply in_ite | apply InOpt.some | apply InOpt.none | apply inOpt_map
    | exact Foot.sub hft rfl
    | with_reducible exact Or.inl rfl
    | exact Or.inr (Foot.sub hft rfl)
    | with_reducible apply InMk.of
    | simp -zeta only [in_mk_iff]
    | split
    | intro _ _ _
    | intro _ _
    | intro _

def execStall_foot : Foot :=
  Fld.STALLED.foot ||| Fld.STALL_CNT.foot ||| Fld.STALL_OVF.foot ||| Part.fgv.foot ||| State.record_foot |||
    State.count_foot ||| State.alert_foot ||| State.ageOldest_foot
theorem execStall_in {dom : Nat} {fence : Bool} {s : State} (hks : In ft s0 s) (hft : execStall_foot.le ft = true) :
    InOut ft s0 (execStall dom fence s) := by
  unfold execStall
  repeat' first
    | (extract_lets +onlyGivenNames x
       first
       | (have : In ft s0 x := by
            subst x
            repeat' first
              | (extract_lets +onlyGivenNames x; subst x)
              | with_reducible first
                  | assumption | apply State.setfi_in | apply State.record_in | apply State.count_in
                  | apply State.alert_in | apply State.ageOldest_in | apply inOut_ite | apply in_ite
                  | apply InOut.next
              | exact Foot.sub hft rfl
              | with_reducible exact Or.inl rfl
              | exact Or.inr (Foot.sub hft rfl)
              | with_reducible apply InMk.of
              | simp -zeta only [in_mk_iff]
              | with_reducible refine InOpt.eq (by assumption) ?_
              | split
          clear_value x)
       | clear_value x
       | subst x)
    | with_reducible first
        | assumption | apply State.setfi_in | apply State.record_in | apply State.count_in | apply State.alert_in
        | apply State.ageOldest_in | apply inOut_ite | apply in_ite | apply InOut.next
    | exact Foot.sub hft rfl
    | with_reducible exact Or.inl rfl
    | exact Or.inr (Foot.sub hft rfl)
    | with_reducible apply InMk.of
    | simp -zeta only [in_mk_iff]
    | with_reducible refine InOpt.eq (by assumption) ?_
    | split

def execFloorComparatorArmed_foot : Foot := Fld.ARMED.foot
theorem execFloorComparatorArmed_in {s : State} (hks : In ft s0 s)
    (hft : execFloorComparatorArmed_foot.le ft = true) :
    InOut ft s0 (execFloorComparatorArmed s) := by
  unfold execFloorComparatorArmed
  repeat' first
    | with_reducible first | assumption | apply State.setf_in | apply inOut_ite | apply in_ite | apply InOut.next
    | exact Foot.sub hft rfl
    | split

def execHoldupFloorCrossing_foot : Foot := State.trigger_foot
theorem execHoldupFloorCrossing_in {s : State} (hks : In ft s0 s) (hft : execHoldupFloorCrossing_foot.le ft = true) :
    InOut ft s0 (execHoldupFloorCrossing s) := by
  unfold execHoldupFloorCrossing
  repeat' first
    | with_reducible first | assumption | apply State.trigger_in | apply inOut_ite | apply in_ite | apply InOut.next
    | exact Foot.sub hft rfl
    | split

def State.senseFault_foot : Foot := Fld.ARMED.foot ||| State.record_foot ||| State.alert_foot
theorem State.senseFault_in {s : State} {f : Fld} {cause : Nat} (hks : In ft s0 s) (hf : f.foot.le ft = true)
    (hft : State.senseFault_foot.le ft = true) :
    In ft s0 (State.senseFault s f cause) := by
  unfold State.senseFault
  repeat' first
    | with_reducible first
        | assumption | apply State.setf_in | apply State.record_in | apply State.alert_in | apply in_ite
    | exact Foot.sub hft rfl
    | split

def State.senseCond_foot : Foot :=
  Fld.SNS_OPEN.foot ||| Fld.HOLDUP_SNS_FAULT.foot ||| Part.fgv.foot ||| State.senseFault_foot
theorem State.senseCond_in {s : State} {mis opn : Bool} (hks : In ft s0 s) (hft : State.senseCond_foot.le ft = true) :
    In ft s0 (State.senseCond s mis opn) := by
  unfold State.senseCond
  repeat' first
    | (extract_lets +onlyGivenNames x
       first
       | (have : In ft s0 x := by
            subst x
            repeat' first
              | (extract_lets +onlyGivenNames x; subst x)
              | with_reducible first | assumption | apply State.setf_in | apply State.senseFault_in | apply in_ite
              | exact Foot.sub hft rfl
              | with_reducible exact Or.inl rfl
              | exact Or.inr (Foot.sub hft rfl)
              | with_reducible apply InMk.of
              | simp -zeta only [in_mk_iff]
              | split
          clear_value x)
       | clear_value x
       | subst x)
    | with_reducible first | assumption | apply State.setf_in | apply State.senseFault_in | apply in_ite
    | exact Foot.sub hft rfl
    | with_reducible exact Or.inl rfl
    | exact Or.inr (Foot.sub hft rfl)
    | with_reducible apply InMk.of
    | simp -zeta only [in_mk_iff]
    | split

def execHoldupPmbusPoll_foot : Foot := Fld.PMBUS_MV.foot ||| State.senseCond_foot
theorem execHoldupPmbusPoll_in {mv : Nat} {s : State} (hks : In ft s0 s)
    (hft : execHoldupPmbusPoll_foot.le ft = true) :
    InOut ft s0 (execHoldupPmbusPoll mv s) := by
  unfold execHoldupPmbusPoll
  repeat' first
    | (extract_lets +onlyGivenNames x
       first
       | (have : In ft s0 x := by
            subst x
            repeat' first
              | (extract_lets +onlyGivenNames x; subst x)
              | with_reducible first | assumption | apply State.wr_in | apply State.senseCond_in | apply InOut.next
              | exact Foot.sub hft rfl
          clear_value x)
       | clear_value x
       | subst x)
    | with_reducible first | assumption | apply State.wr_in | apply State.senseCond_in | apply InOut.next
    | exact Foot.sub hft rfl

def State.senseClear_foot : Foot := Fld.HOLDUP_SNS_FAULT.foot
theorem State.senseClear_in {s : State} (hks : In ft s0 s) (hft : State.senseClear_foot.le ft = true) :
    In ft s0 (State.senseClear s) := by
  unfold State.senseClear
  repeat' first
    | with_reducible first | assumption | apply State.setf_in | apply in_ite
    | exact Foot.sub hft rfl
    | split

def execSnsOpen_foot : Foot := State.senseCond_foot
theorem execSnsOpen_in {v : Bool} {s : State} (hks : In ft s0 s) (hft : execSnsOpen_foot.le ft = true) :
    InOut ft s0 (execSnsOpen v s) := by
  unfold execSnsOpen
  repeat' first
    | with_reducible first | assumption | apply State.senseCond_in | apply InOut.next
    | exact Foot.sub hft rfl
    | split

def execSnsNeg_foot : Foot := Fld.SNS_NEG.foot ||| Fld.HOLDUP_REVERSED.foot ||| State.senseFault_foot
theorem execSnsNeg_in {v : Bool} {s : State} (hks : In ft s0 s) (hft : execSnsNeg_foot.le ft = true) :
    InOut ft s0 (execSnsNeg v s) := by
  unfold execSnsNeg
  repeat' first
    | (extract_lets +onlyGivenNames x
       first
       | (have : In ft s0 x := by
            subst x
            repeat' first
              | with_reducible first
                  | assumption | apply State.setf_in | apply State.senseFault_in | apply inOut_ite | apply in_ite
                  | apply InOut.next
              | exact Foot.sub hft rfl
              | split
          clear_value x)
       | clear_value x
       | subst x)
    | with_reducible first
        | assumption | apply State.setf_in | apply State.senseFault_in | apply inOut_ite | apply in_ite
        | apply InOut.next
    | exact Foot.sub hft rfl
    | split

def State.invertWrite_foot : Foot := Fld.HOLDUP_INVERT.foot ||| Fld.HOLDUP_REVERSED.foot
theorem State.invertWrite_in {s : State} {v : Bool} (hks : In ft s0 s) (hft : State.invertWrite_foot.le ft = true) :
    In ft s0 (State.invertWrite s v) := by
  unfold State.invertWrite
  repeat' first
    | (extract_lets +onlyGivenNames x
       first
       | (have : In ft s0 x := by
            subst x
            repeat' first
              | with_reducible first | assumption | apply State.setf_in | apply in_ite
              | exact Foot.sub hft rfl
              | split
          clear_value x)
       | clear_value x
       | subst x)
    | with_reducible first | assumption | apply State.setf_in | apply in_ite
    | exact Foot.sub hft rfl
    | split

def execHoldupInvertWrite_foot : Foot := State.barWrite_foot ||| State.invertWrite_foot
theorem execHoldupInvertWrite_in {v : Bool} {s : State} (hks : In ft s0 s)
    (hft : execHoldupInvertWrite_foot.le ft = true) :
    InOut ft s0 (execHoldupInvertWrite v s) := by
  unfold execHoldupInvertWrite
  repeat' first
    | with_reducible first | assumption | apply State.barWrite_in | apply State.invertWrite_in | apply InOut.next
    | exact Foot.sub hft rfl
    | intro _ _ _
    | intro _ _

def State.vout_foot : Foot := State.send_foot
theorem State.vout_in {s : State} {v : Nat} (hks : In ft s0 s) (hft : State.vout_foot.le ft = true) :
    In ft s0 (State.vout s v) := by
  unfold State.vout
  repeat' first
    | with_reducible first | assumption | apply State.send_in
    | exact Foot.sub hft rfl

def State.ccalStart_foot : Foot := Fld.CCAL_BUSY.foot ||| Part.fgv.foot ||| State.vout_foot
theorem State.ccalStart_in {s : State} {vset : Nat} (hks : In ft s0 s) (hft : State.ccalStart_foot.le ft = true) :
    In ft s0 (State.ccalStart s vset) := by
  unfold State.ccalStart
  repeat' first
    | (extract_lets +onlyGivenNames x
       first
       | (have : In ft s0 x := by
            subst x
            repeat' first
              | (extract_lets +onlyGivenNames x; subst x)
              | with_reducible first | assumption | apply State.setf_in | apply State.vout_in | apply in_ite
              | exact Foot.sub hft rfl
              | with_reducible exact Or.inl rfl
              | exact Or.inr (Foot.sub hft rfl)
              | with_reducible apply InMk.of
              | simp -zeta only [in_mk_iff]
              | split
          clear_value x)
       | clear_value x
       | subst x)
    | with_reducible first | assumption | apply State.setf_in | apply State.vout_in | apply in_ite
    | exact Foot.sub hft rfl
    | with_reducible exact Or.inl rfl
    | exact Or.inr (Foot.sub hft rfl)
    | with_reducible apply InMk.of
    | simp -zeta only [in_mk_iff]
    | split

def execCcalNow_foot : Foot := State.barWrite_foot ||| State.ccalStart_foot
theorem execCcalNow_in {vset : Nat} {s : State} (hks : In ft s0 s) (hft : execCcalNow_foot.le ft = true) :
    InOut ft s0 (execCcalNow vset s) := by
  unfold execCcalNow
  repeat' first
    | with_reducible first | assumption | apply State.barWrite_in | apply State.ccalStart_in | apply InOut.next
    | exact Foot.sub hft rfl
    | intro _ _ _
    | intro _ _

def execCcalInterval_foot : Foot := State.ccalStart_foot
theorem execCcalInterval_in {vset : Nat} {s : State} (hks : In ft s0 s) (hft : execCcalInterval_foot.le ft = true) :
    InOut ft s0 (execCcalInterval vset s) := by
  unfold execCcalInterval
  repeat' first
    | with_reducible first | assumption | apply State.ccalStart_in | apply inOut_ite | apply in_ite | apply InOut.next
    | exact Foot.sub hft rfl
    | split

def execCcalDischarged_foot : Foot := Part.fgv.foot ||| State.vout_foot
theorem execCcalDischarged_in {s : State} (hks : In ft s0 s) (hft : execCcalDischarged_foot.le ft = true) :
    InOut ft s0 (execCcalDischarged s) := by
  unfold execCcalDischarged
  repeat' first
    | (extract_lets +onlyGivenNames x; clear_value x)
    | with_reducible first | assumption | apply State.vout_in | apply inOut_ite | apply in_ite | apply InOut.next
    | exact Foot.sub hft rfl
    | with_reducible exact Or.inl rfl
    | exact Or.inr (Foot.sub hft rfl)
    | with_reducible apply InMk.of
    | simp -zeta only [in_mk_iff]
    | split

def execCcalAbandon_foot : Foot := Fld.CCAL_BUSY.foot ||| Part.fgv.foot ||| State.vout_foot
theorem execCcalAbandon_in {s : State} (hks : In ft s0 s) (hft : execCcalAbandon_foot.le ft = true) :
    InOut ft s0 (execCcalAbandon s) := by
  unfold execCcalAbandon
  repeat' first
    | (extract_lets +onlyGivenNames x
       first
       | (have : In ft s0 x := by
            subst x
            repeat' first
              | with_reducible first
                  | assumption | apply State.setf_in | apply State.vout_in | apply inOut_ite | apply in_ite
                  | apply InOut.next
              | exact Foot.sub hft rfl
              | with_reducible exact Or.inl rfl
              | exact Or.inr (Foot.sub hft rfl)
              | with_reducible apply InMk.of
              | simp -zeta only [in_mk_iff]
              | split
          clear_value x)
       | clear_value x
       | subst x)
    | with_reducible first
        | assumption | apply State.setf_in | apply State.vout_in | apply inOut_ite | apply in_ite | apply InOut.next
    | exact Foot.sub hft rfl
    | with_reducible exact Or.inl rfl
    | exact Or.inr (Foot.sub hft rfl)
    | with_reducible apply InMk.of
    | simp -zeta only [in_mk_iff]
    | split

def execCcalIoutPoll_foot : Foot := Part.fgv.foot
theorem execCcalIoutPoll_in {ma : Nat} {s : State} (hks : In ft s0 s) (hft : execCcalIoutPoll_foot.le ft = true) :
    InOut ft s0 (execCcalIoutPoll ma s) := by
  unfold execCcalIoutPoll
  repeat' first
    | (extract_lets +onlyGivenNames x; clear_value x)
    | with_reducible first | assumption | apply inOut_ite | apply in_ite | apply InOut.next
    | exact Foot.sub hft rfl
    | with_reducible exact Or.inl rfl
    | exact Or.inr (Foot.sub hft rfl)
    | with_reducible apply InMk.of
    | simp -zeta only [in_mk_iff]
    | split

def State.capResult_foot : Foot :=
  Fld.CAL_REJECT.foot ||| Fld.HOLDUP_CAP_MEAS_MF.foot ||| State.freeNext_foot ||| State.record_foot
theorem State.capResult_in {s : State} {v1 v2 : Nat} (hks : In ft s0 s) (hft : State.capResult_foot.le ft = true) :
    In ft s0 (State.capResult s v1 v2) := by
  unfold State.capResult
  repeat' first
    | (extract_lets +onlyGivenNames x
       first
       | (have : In ft s0 x := by
            subst x
            repeat' first
              | (extract_lets +onlyGivenNames x; subst x)
              | with_reducible first
                  | assumption | apply State.wr_in | apply State.setf_in | apply State.freeNext_in
                  | apply State.record_in | apply in_ite
              | exact Foot.sub hft rfl
              | split
          clear_value x)
       | clear_value x
       | subst x)
    | with_reducible first
        | assumption | apply State.wr_in | apply State.setf_in | apply State.freeNext_in | apply State.record_in
        | apply in_ite
    | exact Foot.sub hft rfl
    | split

def execCcalRecharged_foot : Foot := Fld.CCAL_BUSY.foot ||| Part.fgv.foot ||| State.capResult_foot
theorem execCcalRecharged_in {s : State} (hks : In ft s0 s) (hft : execCcalRecharged_foot.le ft = true) :
    InOut ft s0 (execCcalRecharged s) := by
  unfold execCcalRecharged
  repeat' first
    | (extract_lets +onlyGivenNames x
       first
       | (have : In ft s0 x := by
            subst x
            repeat' first
              | (extract_lets +onlyGivenNames x; subst x)
              | with_reducible first
                  | assumption | apply State.setf_in | apply State.capResult_in | apply inOut_ite | apply in_ite
                  | apply InOut.next
              | exact Foot.sub hft rfl
              | with_reducible exact Or.inl rfl
              | exact Or.inr (Foot.sub hft rfl)
              | with_reducible apply InMk.of
              | simp -zeta only [in_mk_iff]
              | split
          clear_value x)
       | clear_value x
       | subst x)
    | with_reducible first
        | assumption | apply State.setf_in | apply State.capResult_in | apply inOut_ite | apply in_ite
        | apply InOut.next
    | exact Foot.sub hft rfl
    | with_reducible exact Or.inl rfl
    | exact Or.inr (Foot.sub hft rfl)
    | with_reducible apply InMk.of
    | simp -zeta only [in_mk_iff]
    | split

def State.startCycle_foot : Foot := Fld.CCAL_BUSY.foot ||| Part.fgv.foot
theorem State.startCycle_in {s : State} (hks : In ft s0 s) (hft : State.startCycle_foot.le ft = true) :
    In ft s0 (State.startCycle s) := by
  unfold State.startCycle
  repeat' first
    | (extract_lets +onlyGivenNames x
       first
       | (have : In ft s0 x := by
            subst x
            repeat' first
              | with_reducible first | assumption | apply State.setf_in | apply in_ite
              | exact Foot.sub hft rfl
              | with_reducible exact Or.inl rfl
              | exact Or.inr (Foot.sub hft rfl)
              | with_reducible apply InMk.of
              | simp -zeta only [in_mk_iff]
              | split
          clear_value x)
       | clear_value x
       | subst x)
    | with_reducible first | assumption | apply State.setf_in | apply in_ite
    | exact Foot.sub hft rfl
    | with_reducible exact Or.inl rfl
    | exact Or.inr (Foot.sub hft rfl)
    | with_reducible apply InMk.of
    | simp -zeta only [in_mk_iff]
    | split

def State.firstReading_foot : Foot := Part.fgv.foot ||| State.startCycle_foot
theorem State.firstReading_in {s : State} (hks : In ft s0 s) (hft : State.firstReading_foot.le ft = true) :
    In ft s0 (State.firstReading s) := by
  unfold State.firstReading
  repeat' first
    | (extract_lets +onlyGivenNames x; clear_value x)
    | with_reducible first | assumption | apply State.startCycle_in | apply in_ite
    | exact Foot.sub hft rfl
    | with_reducible exact Or.inl rfl
    | exact Or.inr (Foot.sub hft rfl)
    | with_reducible apply InMk.of
    | simp -zeta only [in_mk_iff]
    | split

def execVcalNow_foot : Foot := Part.fgv.foot ||| State.barWrite_foot
theorem execVcalNow_in {s : State} (hks : In ft s0 s) (hft : execVcalNow_foot.le ft = true) :
    InOut ft s0 (execVcalNow s) := by
  unfold execVcalNow
  repeat' first
    | (extract_lets +onlyGivenNames x; clear_value x)
    | with_reducible first | assumption | apply State.barWrite_in | apply InOut.next
    | exact Foot.sub hft rfl
    | with_reducible exact Or.inl rfl
    | exact Or.inr (Foot.sub hft rfl)
    | with_reducible apply InMk.of
    | simp -zeta only [in_mk_iff]
    | intro _ _ _
    | intro _ _

def execRehearsal_foot : Foot := State.rehearse_foot
theorem execRehearsal_in {s : State} (hks : In ft s0 s) (hft : execRehearsal_foot.le ft = true) :
    InOut ft s0 (execRehearsal s) := by
  unfold execRehearsal
  repeat' first
    | with_reducible first | assumption | apply State.rehearse_in | apply inOut_ite | apply in_ite | apply InOut.next
    | exact Foot.sub hft rfl
    | split

def State.rateRegs_foot : Foot := Fld.DRAIN_RATE_LAST.foot ||| Fld.DRAIN_RATE_CAL.foot ||| Fld.RATE_VALID.foot
theorem State.rateRegs_in {s : State} (hks : In ft s0 s) (hft : State.rateRegs_foot.le ft = true) :
    In ft s0 (State.rateRegs s) := by
  unfold State.rateRegs
  repeat' first
    | with_reducible first | assumption | apply State.wr_in | apply State.setf_in | apply foldl_in
    | exact Foot.sub hft rfl
    | split
    | intro _ _ _
    | intro _ _
    | with_reducible apply InP.pair

def execRehearsalDone_foot : Foot := Part.fgv.foot ||| State.rateRegs_foot
theorem execRehearsalDone_in {rate : Nat} {s : State} (hks : In ft s0 s) (hft : execRehearsalDone_foot.le ft = true) :
    InOut ft s0 (execRehearsalDone rate s) := by
  unfold execRehearsalDone
  repeat' first
    | (extract_lets +onlyGivenNames x; clear_value x)
    | with_reducible first | assumption | apply State.rateRegs_in | apply inOut_ite | apply in_ite | apply InOut.next
    | exact Foot.sub hft rfl
    | with_reducible exact Or.inl rfl
    | exact Or.inr (Foot.sub hft rfl)
    | with_reducible apply InMk.of
    | simp -zeta only [in_mk_iff]
    | split

def execMeasClr_foot : Foot := Fld.DRAIN_POWER_MEAS_W.foot ||| State.barWrite_foot
theorem execMeasClr_in {s : State} (hks : In ft s0 s) (hft : execMeasClr_foot.le ft = true) :
    InOut ft s0 (execMeasClr s) := by
  unfold execMeasClr
  repeat' first
    | with_reducible first | assumption | apply State.wr_in | apply State.barWrite_in | apply InOut.next
    | exact Foot.sub hft rfl
    | intro _ _ _
    | intro _ _

def State.limitCompute_foot : Foot := Part.fgv.foot
theorem State.limitCompute_in {s : State} (hks : In ft s0 s) (hft : State.limitCompute_foot.le ft = true) :
    In ft s0 (State.limitCompute s) := by
  unfold State.limitCompute
  repeat' first
    | (extract_lets +onlyGivenNames x; clear_value x)
    | with_reducible first | assumption
    | exact Foot.sub hft rfl
    | with_reducible exact Or.inl rfl
    | exact Or.inr (Foot.sub hft rfl)
    | with_reducible apply InMk.of
    | simp -zeta only [in_mk_iff]

def State.publishLimit_foot : Foot :=
  Fld.FLOAT_LIMIT.foot ||| Fld.LIMIT_SRC.foot ||| Fld.T_HOLD_US.foot ||| Fld.SHARE.foot ||| Fld.FLOAT_OVER.foot |||
    Part.fgv.foot ||| State.record_foot ||| State.alert_foot
theorem State.publishLimit_in {s : State} (hks : In ft s0 s) (hft : State.publishLimit_foot.le ft = true) :
    In ft s0 (State.publishLimit s) := by
  unfold State.publishLimit
  repeat' first
    | (extract_lets +onlyGivenNames x
       first
       | (have : In ft s0 x := by
            subst x
            repeat' first
              | (extract_lets +onlyGivenNames x; subst x)
              | with_reducible first
                  | assumption | apply State.wri_in | apply State.wr_in | apply State.setf_in | apply State.each_in
                  | apply State.record_in | apply State.alert_in | apply in_ite
              | exact Foot.sub hft rfl
              | with_reducible exact Or.inl rfl
              | exact Or.inr (Foot.sub hft rfl)
              | with_reducible apply InMk.of
              | simp -zeta only [in_mk_iff]
              | split
              | intro _ _ _
              | intro _ _
          clear_value x)
       | clear_value x
       | subst x)
    | with_reducible first
        | assumption | apply State.wri_in | apply State.wr_in | apply State.setf_in | apply State.each_in
        | apply State.record_in | apply State.alert_in | apply in_ite
    | exact Foot.sub hft rfl
    | with_reducible exact Or.inl rfl
    | exact Or.inr (Foot.sub hft rfl)
    | with_reducible apply InMk.of
    | simp -zeta only [in_mk_iff]
    | split
    | intro _ _ _
    | intro _ _

def execDrainWritebackDone_foot : Foot := Part.drain.foot ||| State.writeBackAll_foot ||| State.issueWrites_foot
theorem execDrainWritebackDone_in {s : State} (hks : In ft s0 s) (hft : execDrainWritebackDone_foot.le ft = true) :
    InOut ft s0 (execDrainWritebackDone s) := by
  unfold execDrainWritebackDone
  repeat' first
    | (extract_lets +onlyGivenNames x
       first
       | (have : In ft s0 x := by
            subst x
            repeat' first
              | with_reducible first
                  | assumption | apply State.writeBackAll_in | apply State.issueWrites_in | apply inOut_ite
                  | apply in_ite | apply InOut.next
              | exact Foot.sub hft rfl
              | with_reducible exact Or.inl rfl
              | exact Or.inr (Foot.sub hft rfl)
              | with_reducible apply InMk.of
              | simp -zeta only [in_mk_iff]
              | split
          clear_value x)
       | clear_value x
       | subst x)
    | with_reducible first
        | assumption | apply State.writeBackAll_in | apply State.issueWrites_in | apply inOut_ite | apply in_ite
        | apply InOut.next
    | exact Foot.sub hft rfl
    | with_reducible exact Or.inl rfl
    | exact Or.inr (Foot.sub hft rfl)
    | with_reducible apply InMk.of
    | simp -zeta only [in_mk_iff]
    | split

def execDrainFloatDone_foot : Foot :=
  Part.drain.foot ||| State.record_foot ||| State.dreq_foot ||| State.probeCp_foot ||| State.vaultCp_foot
theorem execDrainFloatDone_in {bad : List Nat} {s : State} (hks : In ft s0 s)
    (hft : execDrainFloatDone_foot.le ft = true) :
    InOut ft s0 (execDrainFloatDone bad s) := by
  unfold execDrainFloatDone
  repeat' first
    | (extract_lets +onlyGivenNames x
       first
       | (have : In ft s0 x := by
            subst x
            repeat' first
              | (extract_lets +onlyGivenNames x; subst x)
              | with_reducible first
                  | assumption | apply State.each_in | apply State.record_in | apply State.dreq_in
                  | apply State.probeCp_in | apply State.vaultCp_in | apply inOut_ite | apply in_ite
                  | apply InOut.next
              | exact Foot.sub hft rfl
              | with_reducible exact Or.inl rfl
              | exact Or.inr (Foot.sub hft rfl)
              | with_reducible apply InMk.of
              | simp -zeta only [in_mk_iff]
              | split
              | intro _ _ _
              | intro _ _
          clear_value x)
       | clear_value x
       | subst x)
    | with_reducible first
        | assumption | apply State.each_in | apply State.record_in | apply State.dreq_in | apply State.probeCp_in
        | apply State.vaultCp_in | apply inOut_ite | apply in_ite | apply InOut.next
    | exact Foot.sub hft rfl
    | with_reducible exact Or.inl rfl
    | exact Or.inr (Foot.sub hft rfl)
    | with_reducible apply InMk.of
    | simp -zeta only [in_mk_iff]
    | split
    | intro _ _ _
    | intro _ _

end Sys2Proof.Machine
end

