-- ==== Sys2Proof/Laws/FrameDaybook.lean ====
section
/-! SUPPORT. The footprints of the operations of Machine/Daybook (Laws/Frame). -/

namespace Sys2Proof.Machine

variable {ft : Foot} {s0 : State}

def State.checkpoint_foot : Foot := Fld.CKPT_TIME.foot ||| Part.dbk.foot
theorem State.checkpoint_in {s : State} (hks : In ft s0 s) (hft : State.checkpoint_foot.le ft = true) :
    In ft s0 (State.checkpoint s) := by
  unfold State.checkpoint
  repeat' first
    | (extract_lets +onlyGivenNames x; clear_value x)
    | with_reducible first | assumption | apply State.wr_in | apply in_ite
    | exact Foot.sub hft rfl
    | with_reducible exact Or.inl rfl
    | exact Or.inr (Foot.sub hft rfl)
    | with_reducible apply InMk.of
    | simp -zeta only [in_mk_iff]
    | split

def State.flushEnd_foot : Foot :=
  Fld.FLUSH_BUSY.foot ||| Fld.SPI_A_FAIL.foot ||| Fld.SPI_B_FAIL.foot ||| Fld.FLUSH_SEQ.foot |||
    Fld.FLUSH_CNT.foot ||| Fld.DBK_FLAGS_CNT_OVF.foot ||| Part.dbk.foot ||| State.flushStart_foot |||
    State.count_foot ||| State.checkpoint_foot
theorem State.flushEnd_in {s : State} {okA okB : Bool} (hks : In ft s0 s) (hft : State.flushEnd_foot.le ft = true) :
    In ft s0 (State.flushEnd s okA okB) := by
  unfold State.flushEnd
  repeat' first
    | (extract_lets +onlyGivenNames x
       first
       | (have : In ft s0 x := by
            subst x
            repeat' first
              | (extract_lets +onlyGivenNames x; subst x)
              | with_reducible first
                  | assumption | apply State.wr_in | apply State.setf_in | apply State.when_in
                  | apply State.flushStart_in | apply State.count_in | apply State.checkpoint_in | apply in_ite
              | exact Foot.sub hft rfl
              | with_reducible exact Or.inl rfl
              | exact Or.inr (Foot.sub hft rfl)
              | with_reducible apply InMk.of
              | simp -zeta only [in_mk_iff]
              | split
              | intro _ _ _
              | intro _ _
          clear_value x)
       | clear_value x
       | subst x)
    | with_reducible first
        | assumption | apply State.wr_in | apply State.setf_in | apply State.when_in | apply State.flushStart_in
        | apply State.count_in | apply State.checkpoint_in | apply in_ite
    | exact Foot.sub hft rfl
    | with_reducible exact Or.inl rfl
    | exact Or.inr (Foot.sub hft rfl)
    | with_reducible apply InMk.of
    | simp -zeta only [in_mk_iff]
    | split
    | intro _ _ _
    | intro _ _

def State.flushNow_foot : Foot := State.dbkFlush_foot
theorem State.flushNow_in {s : State} (hks : In ft s0 s) (hft : State.flushNow_foot.le ft = true) :
    In ft s0 (State.flushNow s) := by
  unfold State.flushNow
  repeat' first
    | with_reducible first | assumption | apply State.dbkFlush_in
    | exact Foot.sub hft rfl

end Sys2Proof.Machine
end

