-- ==== Sys2Proof/Laws/FrameExport.lean ====
section
/-! SUPPORT. The footprints of the operations of Machine/Export (Laws/Frame). -/

namespace Sys2Proof.Machine

variable {ft : Foot} {s0 : State}

def execSeal_foot : Foot :=
  Part.out.foot ||| State.send_foot ||| State.probeLines_foot ||| State.cmdOk_foot ||| State.cmdErr_foot |||
    State.cmdPages_foot ||| State.readTouch_foot
theorem execSeal_in {uid : Nat} {bad : List Nat} {stop : Option Nat} {s : State} (hks : In ft s0 s)
    (hft : execSeal_foot.le ft = true) :
    InOut ft s0 (execSeal uid bad stop s) := by
  unfold execSeal
  repeat' first
    | (extract_lets +onlyGivenNames x
       first
       | (have : In ft s0 x := by
            subst x
            repeat' first
              | (extract_lets +onlyGivenNames x; subst x)
              | with_reducible first
                  | assumption | apply State.send_in | apply State.each_in | apply State.probeLines_in
                  | apply State.cmdOk_in | apply State.cmdErr_in | apply State.cmdPages_in | apply State.readTouch_in
                  | apply inOut_ite | apply in_ite | apply inP_ite | apply InOut.next
              | exact Foot.sub hft rfl
              | with_reducible refine InP.eq (by assumption) ?_
              | (with_reducible refine InP.fst ?_
                 with_reducible first
                   | assumption | apply State.probeLines_in | apply State.cmdPages_in)
              | split
              | intro _ _ _
              | intro _ _
              | with_reducible apply InP.pair
              | dsimp -zeta only
          clear_value x)
       | (have : InP ft s0 x := by
            subst x
            repeat' first
              | (extract_lets +onlyGivenNames x; subst x)
              | with_reducible first
                  | assumption | apply State.send_in | apply State.each_in | apply State.probeLines_in
                  | apply State.cmdOk_in | apply State.cmdErr_in | apply State.cmdPages_in | apply State.readTouch_in
                  | apply inOut_ite | apply in_ite | apply inP_ite | apply InOut.next
              | exact Foot.sub hft rfl
              | with_reducible refine InP.eq (by assumption) ?_
              | (with_reducible refine InP.fst ?_
                 with_reducible first
                   | assumption | apply State.probeLines_in | apply State.cmdPages_in)
              | split
              | intro _ _ _
              | intro _ _
              | with_reducible apply InP.pair
              | dsimp -zeta only
          clear_value x)
       | clear_value x
       | subst x)
    | with_reducible first
        | assumption | apply State.send_in | apply State.each_in | apply State.probeLines_in | apply State.cmdOk_in
        | apply State.cmdErr_in | apply State.cmdPages_in | apply State.readTouch_in | apply inOut_ite | apply in_ite
        | apply inP_ite | apply InOut.next
    | exact Foot.sub hft rfl
    | with_reducible refine InP.eq (by assumption) ?_
    | (with_reducible refine InP.fst ?_
       with_reducible first
         | assumption | apply State.probeLines_in | apply State.cmdPages_in)
    | split
    | intro _ _ _
    | intro _ _
    | with_reducible apply InP.pair
    | dsimp -zeta only

def State.unsealEscrow_foot : Foot := State.takeFrame_foot ||| State.setDline_foot ||| State.updCmd_foot
theorem State.unsealEscrow_in {s : State} {c : Cmd} {len : Nat} {text : List Nat} (hks : In ft s0 s)
    (hft : State.unsealEscrow_foot.le ft = true) :
    In ft s0 (State.unsealEscrow s c len text) := by
  unfold State.unsealEscrow
  repeat' first
    | (extract_lets +onlyGivenNames x
       first
       | (have : In ft s0 x := by
            subst x
            repeat' first
              | (extract_lets +onlyGivenNames x; subst x)
              | with_reducible first
                  | assumption | apply State.each_in | apply State.takeFrame_in | apply State.setDline_in
                  | apply State.updCmd_in | apply in_ite
              | exact Foot.sub hft rfl
              | with_reducible exact Or.inl rfl
              | exact Or.inr (Foot.sub hft rfl)
              | with_reducible apply InMk.of
              | simp -zeta only [in_mk_iff]
              | split
              | intro _ _ _
              | intro _ _
          clear_value x)
       | clear_value x
       | subst x)
    | with_reducible first
        | assumption | apply State.each_in | apply State.takeFrame_in | apply State.setDline_in
        | apply State.updCmd_in | apply in_ite
    | exact Foot.sub hft rfl
    | with_reducible exact Or.inl rfl
    | exact Or.inr (Foot.sub hft rfl)
    | with_reducible apply InMk.of
    | simp -zeta only [in_mk_iff]
    | split
    | intro _ _ _
    | intro _ _

def State.unsealEnd_foot : Foot := State.dropEscrow_foot
theorem State.unsealEnd_in {s : State} {uid : Nat} (hks : In ft s0 s) (hft : State.unsealEnd_foot.le ft = true) :
    In ft s0 (State.unsealEnd s uid) := by
  unfold State.unsealEnd
  repeat' first
    | with_reducible first | assumption | apply State.dropEscrow_in
    | exact Foot.sub hft rfl
    | split

def execUnseal_foot : Foot :=
  Fld.GCM_FAIL_CNT.foot ||| Fld.CIP_FLAGS_CNT_OVF.foot ||| State.count_foot ||| State.entWait_foot |||
    State.cmdErr_foot ||| State.cmdWrite_foot ||| State.unsealEscrow_foot ||| State.unsealEnd_foot
theorem execUnseal_in {uid : Nat} {data bad : List Nat} {dmaErr : Bool} {s : State} (hks : In ft s0 s)
    (hft : execUnseal_foot.le ft = true) :
    InOut ft s0 (execUnseal uid data bad dmaErr s) := by
  unfold execUnseal
  repeat' first
    | (extract_lets +onlyGivenNames x
       first
       | (have hgo : ∀ s y, In ft s0 s → In ft s0 (x s y) := by
            intro s y hs
            subst x
            repeat' first
              | (extract_lets +onlyGivenNames x; subst x)
              | with_reducible first
                  | assumption | apply State.count_in | apply State.entWait_in | apply State.cmdErr_in
                  | apply State.cmdWrite_in | apply State.unsealEscrow_in | apply State.unsealEnd_in
                  | apply inOut_ite | apply in_ite | apply InOut.next
              | exact Foot.sub hft rfl
              | split
              | intro _ _ _
              | intro _ _
          clear_value x)
       | (have : In ft s0 x := by
            subst x
            repeat' first
              | (extract_lets +onlyGivenNames x; subst x)
              | with_reducible first
                  | assumption | apply hgo | apply State.count_in | apply State.entWait_in | apply State.cmdErr_in
                  | apply State.cmdWrite_in | apply State.unsealEscrow_in | apply State.unsealEnd_in
                  | apply inOut_ite | apply in_ite | apply InOut.next
              | exact Foot.sub hft rfl
              | split
              | intro _ _ _
              | intro _ _
          clear_value x)
       | clear_value x
       | subst x)
    | with_reducible first
        | assumption | apply hgo | apply State.count_in | apply State.entWait_in | apply State.cmdErr_in
        | apply State.cmdWrite_in | apply State.unsealEscrow_in | apply State.unsealEnd_in | apply inOut_ite
        | apply in_ite | apply InOut.next
    | exact Foot.sub hft rfl
    | split
    | intro _ _ _
    | intro _ _

def execLogRead_foot : Foot := State.send_foot ||| State.cmdOk_foot ||| State.cmdErr_foot
theorem execLogRead_in {uid : Nat} {stop : Option Nat} {s : State} (hks : In ft s0 s)
    (hft : execLogRead_foot.le ft = true) :
    InOut ft s0 (execLogRead uid stop s) := by
  unfold execLogRead
  repeat' first
    | (extract_lets +onlyGivenNames x; clear_value x)
    | with_reducible first
        | assumption | apply State.send_in | apply State.cmdOk_in | apply State.cmdErr_in | apply InOut.next
    | exact Foot.sub hft rfl
    | split

end Sys2Proof.Machine
end

