-- ==== Sys2Proof/Laws/FrameRestart.lean ====
section
/-! SUPPORT. The footprints of the operations of Machine/Restart (Laws/Frame). -/

namespace Sys2Proof.Machine

variable {ft : Foot} {s0 : State}

/-- Every register field but those listed. -/
def Foot.allBut (l : List Fld) : Foot := Foot.allFlds ^^^ l.foldl (fun k f => k ||| f.foot) 0

theorem foldl_foot (l : List Fld) (k i : Nat) : (l.foldl (fun k f => k ||| f.foot) k).testBit i =
    (k.testBit i || l.any fun f => decide (28 + f.ctorIdx = i)) := by
  induction l generalizing k with
  | nil => simp
  | cons a r ih =>
    rw [List.foldl_cons, ih, Nat.testBit_or, Fld.foot_eq, Nat.testBit_two_pow, List.any_cons, Bool.or_assoc]

theorem Foot.le_but {l : List Fld} (f : Fld) (h : f ∉ l) : f.foot.le (Foot.allBut l) = true := by
  refine Foot.le_of_testBit fun i hi => ?_
  rw [Fld.foot_eq, Nat.testBit_two_pow, decide_eq_true_eq] at hi
  have ha : Foot.allFlds.testBit i = true :=
    Foot.le_testBit f.le_all (by rw [Fld.foot_eq, Nat.testBit_two_pow]; exact decide_eq_true hi)
  rw [Foot.allBut, Nat.testBit_xor, ha, foldl_foot, Nat.zero_testBit, Bool.false_or]
  have : (l.any fun g => decide (28 + g.ctorIdx = i)) = false := by
    rw [List.any_eq_false]
    intro g hg hc
    have : g = f := Fld.ctorIdx_inj (by have := of_decide_eq_true hc; omega)
    exact h (this ▸ hg)
  rw [this]; rfl

theorem State.rdi_onlyRegs (s : State) {l : List Fld} {f : Fld} {i : Nat} (h : f ∈ l) :
    (s.onlyRegs l).rdi f i = s.rdi f i := by
  simp only [State.onlyRegs, State.rdi, regsOf]
  congr 1
  exact mget_mfilter_key (by simp only [List.contains_eq_mem, decide_eq_true_eq]; exact List.mem_map_of_mem h)

def State.onlyRegs_foot : Foot := 0
theorem State.onlyRegs_in {s : State} {l : List Fld} (hks : In ft s0 s)
    (hl : ∀ f : Fld, f ∉ l → f.foot.le ft = true) : In ft s0 (s.onlyRegs l) :=
  ⟨fun p hp => by have := hks.parts p hp; cases p <;> exact this, fun f i hf => by
      have hm : f ∈ l := by
        by_contra h
        rw [hl f h] at hf; cases hf
      rw [← hks.regs f i hf, State.rdi_onlyRegs _ hm], hks.pending, fun h => by
      rw [State.onlyRegs, regsOf]
      dsimp only
      exact regsOk_filter _ (hks.regsOk h), hks.dramOk⟩

def State.dramLost_foot : Foot := Part.dram.foot
theorem State.dramLost_in {s : State} (hks : In ft s0 s) (hft : State.dramLost_foot.le ft = true) :
    In ft s0 (s.dramLost) :=
  ⟨fun p hp => by
      have := hks.parts p hp
      cases p <;> first
        | exact this
        | (have h : Part.dram.foot.le ft = true := Foot.sub hft rfl; rw [h] at hp; cases hp),
    fun f i hf => hks.regs f i hf, hks.pending, hks.regsOk, fun h => rfl⟩

def State.putRegs_foot : Foot := 0
theorem State.putRegs_in {s : State} {l : List Fld} {r : SMap Nat} (hks : In ft s0 s)
    (hl : ∀ f ∈ l, f.foot.le ft = true) : In ft s0 (s.putRegs l r) := by
  unfold State.putRegs State.each
  induction r generalizing s with
  | nil => exact hks
  | cons a r ih =>
    rw [List.filter_cons]
    split
    · rename_i h
      exact ih (State.wri_in hks (hl _ (by simpa using h)))
    · exact ih hks

def State.abruptSave_foot : Foot := Part.saved.foot ||| Part.boot.foot ||| State.shadowBack_foot
theorem State.abruptSave_in {s : State} (hks : In ft s0 s) (hft : State.abruptSave_foot.le ft = true) :
    In ft s0 (State.abruptSave s) := by
  unfold State.abruptSave
  repeat' first
    | (extract_lets +onlyGivenNames x
       first
       | (have : In ft s0 x := by
            subst x
            repeat' first
              | (extract_lets +onlyGivenNames x; subst x)
              | with_reducible first | assumption | apply State.shadowBack_in | apply in_ite
              | exact Foot.sub hft rfl
              | with_reducible exact Or.inl rfl
              | exact Or.inr (Foot.sub hft rfl)
              | with_reducible apply InMk.of
              | simp -zeta only [in_mk_iff]
              | split
          clear_value x)
       | clear_value x
       | subst x)
    | with_reducible first | assumption | apply State.shadowBack_in | apply in_ite
    | exact Foot.sub hft rfl
    | with_reducible exact Or.inl rfl
    | exact Or.inr (Foot.sub hft rfl)
    | with_reducible apply InMk.of
    | simp -zeta only [in_mk_iff]
    | split

def State.fabricLost_foot : Foot :=
  Fld.TAIL_SEQ.foot ||| Fld.FLUSH_SEQ.foot ||| Fld.COLD.foot ||| Part.glb.foot ||| Part.dbk.foot |||
    Part.once.foot ||| Part.md.foot ||| Part.jr.foot ||| Part.tpe.foot ||| Part.fch.foot ||| Part.stl.foot |||
    Part.nfc.foot ||| Part.drc.foot ||| Part.int.foot ||| Part.prt.foot ||| Part.cmd.foot ||| Part.waits.foot |||
    Part.fences.foot ||| Part.fgv.foot ||| Part.drain.foot ||| Part.mir.foot ||| Part.rae.foot |||
    Part.sec.foot ||| Part.bst.foot ||| Part.boot.foot ||| State.onlyRegs_foot ||| State.dramLost_foot |||
    State.abruptSave_foot ||| Foot.allBut keptFlds
theorem State.fabricLost_in {s : State} (hks : In ft s0 s) (hft : State.fabricLost_foot.le ft = true) :
    In ft s0 (State.fabricLost s) := by
  unfold State.fabricLost
  repeat' first
    | (extract_lets +onlyGivenNames x
       first
       | (have : In ft s0 x := by
            subst x
            repeat' first
              | (extract_lets +onlyGivenNames x; subst x)
              | with_reducible first
                  | assumption | apply State.wr_in | apply State.setf_in | apply State.onlyRegs_in
                  | apply State.dramLost_in | apply State.abruptSave_in | apply in_ite
              | exact Foot.sub hft rfl
              | exact fun f h => Foot.le_trans (Foot.le_but f h) (Foot.sub hft rfl)
              | with_reducible exact Or.inl rfl
              | exact Or.inr (Foot.sub hft rfl)
              | with_reducible apply InMk.of
              | simp -zeta only [in_mk_iff]
              | split
          clear_value x)
       | clear_value x
       | subst x)
    | with_reducible first
        | assumption | apply State.wr_in | apply State.setf_in | apply State.onlyRegs_in | apply State.dramLost_in
        | apply State.abruptSave_in | apply in_ite
    | exact Foot.sub hft rfl
    | exact fun f h => Foot.le_trans (Foot.le_but f h) (Foot.sub hft rfl)
    | with_reducible exact Or.inl rfl
    | exact Or.inr (Foot.sub hft rfl)
    | with_reducible apply InMk.of
    | simp -zeta only [in_mk_iff]
    | split

def State.coldReset_foot : Foot :=
  Fld.OP_TIME.foot ||| Fld.CKPT_TIME.foot ||| Fld.HEAD_SEQ.foot ||| Fld.TAIL_SEQ.foot ||| Fld.FLUSH_SEQ.foot |||
    Fld.POWER_CYCLES.foot ||| Fld.FF.foot ||| Fld.FF_VALID.foot ||| Fld.PWR_REQ_IN.foot ||| Fld.PFAIL_IN.foot |||
    Fld.XTAL_BYP.foot ||| Part.pwr.foot ||| State.record_foot ||| State.onlyRegs_foot ||| State.fabricLost_foot |||
    Foot.allFlds
theorem State.coldReset_in {s : State} {req pfail bypass : Bool} (hks : In ft s0 s)
    (hft : State.coldReset_foot.le ft = true) :
    In ft s0 (State.coldReset s req pfail bypass) := by
  unfold State.coldReset
  repeat' first
    | (extract_lets +onlyGivenNames x
       first
       | (have : In ft s0 x := by
            subst x
            repeat' first
              | (extract_lets +onlyGivenNames x; subst x)
              | with_reducible first
                  | assumption | apply State.wri_in | apply State.wr_in | apply State.setf_in | apply State.each_in
                  | apply State.record_in | apply State.onlyRegs_in | apply State.fabricLost_in | apply foldl_in
                  | apply in_ite | apply inP_ite
              | exact Foot.sub hft rfl
              | exact fun f _ => Foot.le_trans f.le_all (Foot.sub hft rfl)
              | with_reducible exact Or.inl rfl
              | exact Or.inr (Foot.sub hft rfl)
              | with_reducible apply InMk.of
              | simp -zeta only [in_mk_iff]
              | split
              | intro _ _ _
              | intro _ _
              | with_reducible apply InP.pair
          clear_value x)
       | clear_value x
       | subst x)
    | with_reducible first
        | assumption | apply State.wri_in | apply State.wr_in | apply State.setf_in | apply State.each_in
        | apply State.record_in | apply State.onlyRegs_in | apply State.fabricLost_in | apply foldl_in | apply in_ite
        | apply inP_ite
    | exact Foot.sub hft rfl
    | exact fun f _ => Foot.le_trans f.le_all (Foot.sub hft rfl)
    | with_reducible exact Or.inl rfl
    | exact Or.inr (Foot.sub hft rfl)
    | with_reducible apply InMk.of
    | simp -zeta only [in_mk_iff]
    | split
    | intro _ _ _
    | intro _ _
    | with_reducible apply InP.pair

def execAlwaysOnPowerUp_foot : Foot := State.coldReset_foot
theorem execAlwaysOnPowerUp_in {req pfail bypass : Bool} {s : State} (hks : In ft s0 s)
    (hft : execAlwaysOnPowerUp_foot.le ft = true) :
    InOut ft s0 (execAlwaysOnPowerUp req pfail bypass s) := by
  unfold execAlwaysOnPowerUp
  repeat' first
    | with_reducible first | assumption | apply State.coldReset_in | apply InOut.next
    | exact Foot.sub hft rfl

def State.partFlush_foot : Foot := Part.dbk.foot
theorem State.partFlush_in {s : State} {na nb : Nat} (hks : In ft s0 s) (hft : State.partFlush_foot.le ft = true) :
    In ft s0 (State.partFlush s na nb) := by
  unfold State.partFlush
  repeat' first
    | (extract_lets +onlyGivenNames x; clear_value x)
    | with_reducible first | assumption | apply in_ite
    | exact Foot.sub hft rfl
    | with_reducible exact Or.inl rfl
    | exact Or.inr (Foot.sub hft rfl)
    | with_reducible apply InMk.of
    | simp -zeta only [in_mk_iff]
    | split

def execAbruptLoss_foot : Foot :=
  Fld.SEQ_STATE.foot ||| Fld.RAIL_EN_OUT.foot ||| Fld.RAIL_RETRYING.foot ||| Fld.UP_STEP_NOW.foot |||
    Fld.DOWN_STEP_NOW.foot ||| Part.pwr.foot ||| State.fabricLost_foot ||| State.partFlush_foot
theorem execAbruptLoss_in {na nb : Nat} {s : State} (hks : In ft s0 s) (hft : execAbruptLoss_foot.le ft = true) :
    InOut ft s0 (execAbruptLoss na nb s) := by
  unfold execAbruptLoss
  repeat' first
    | (extract_lets +onlyGivenNames x
       first
       | (have : In ft s0 x := by
            subst x
            repeat' first
              | (extract_lets +onlyGivenNames x; subst x)
              | with_reducible first
                  | assumption | apply State.wr_in | apply State.fabricLost_in | apply State.partFlush_in
                  | apply inOut_ite | apply in_ite | apply InOut.next
              | exact Foot.sub hft rfl
              | with_reducible exact Or.inl rfl
              | exact Or.inr (Foot.sub hft rfl)
              | with_reducible apply InMk.of
              | simp -zeta only [in_mk_iff]
              | split
          clear_value x)
       | clear_value x
       | subst x)
    | with_reducible first
        | assumption | apply State.wr_in | apply State.fabricLost_in | apply State.partFlush_in | apply inOut_ite
        | apply in_ite | apply InOut.next
    | exact Foot.sub hft rfl
    | with_reducible exact Or.inl rfl
    | exact Or.inr (Foot.sub hft rfl)
    | with_reducible apply InMk.of
    | simp -zeta only [in_mk_iff]
    | split

end Sys2Proof.Machine
end

