-- ==== Sys2Proof/Laws/FramePower.lean ====
section
/-! SUPPORT. The footprints of the operations of Machine/Power (Laws/Frame). -/

namespace Sys2Proof.Machine

variable {ft : Foot} {s0 : State}

def State.setPwr_foot : Foot := Part.pwr.foot
theorem State.setPwr_in {s : State} {f : PwrS → PwrS} (hks : In ft s0 s) (hft : State.setPwr_foot.le ft = true) :
    In ft s0 (State.setPwr s f) := by
  unfold State.setPwr
  repeat' first
    | (extract_lets +onlyGivenNames x; clear_value x)
    | with_reducible first | assumption
    | exact Foot.sub hft rfl
    | with_reducible exact Or.inl rfl
    | exact Or.inr (Foot.sub hft rfl)
    | with_reducible apply InMk.of
    | simp -zeta only [in_mk_iff]

def State.railEnable_foot : Foot := Fld.RAIL_EN_OUT.foot ||| Fld.CHATTER_NOW.foot ||| State.setPwr_foot
theorem State.railEnable_in {s : State} {r : Nat} (hks : In ft s0 s) (hft : State.railEnable_foot.le ft = true) :
    In ft s0 (State.railEnable s r) := by
  unfold State.railEnable
  repeat' first
    | (extract_lets +onlyGivenNames x; clear_value x)
    | with_reducible first | assumption | apply State.wri_in | apply State.setBitOf_in | apply State.setPwr_in
    | exact Foot.sub hft rfl
    | with_reducible exact Or.inl rfl
    | exact Or.inr (Foot.sub hft rfl)
    | with_reducible apply InMk.of
    | simp -zeta only [in_mk_iff]
    | intro _ _ _
    | intro _ _

def State.railDisable_foot : Foot := Fld.RAIL_EN_OUT.foot ||| State.setPwr_foot
theorem State.railDisable_in {s : State} {r : Nat} (hks : In ft s0 s) (hft : State.railDisable_foot.le ft = true) :
    In ft s0 (State.railDisable s r) := by
  unfold State.railDisable
  repeat' first
    | (extract_lets +onlyGivenNames x; clear_value x)
    | with_reducible first | assumption | apply State.setBitOf_in | apply State.setPwr_in
    | exact Foot.sub hft rfl
    | with_reducible exact Or.inl rfl
    | exact Or.inr (Foot.sub hft rfl)
    | with_reducible apply InMk.of
    | simp -zeta only [in_mk_iff]
    | intro _ _ _
    | intro _ _

def State.storeFld_foot : Foot := State.record_foot
theorem State.storeFld_in {s : State} {f : Fld} {i v : Nat} (hks : In ft s0 s) (hf : f.foot.le ft = true)
    (hft : State.storeFld_foot.le ft = true) :
    In ft s0 (State.storeFld s f i v) := by
  unfold State.storeFld
  repeat' first
    | (extract_lets +onlyGivenNames x; clear_value x)
    | with_reducible first | assumption | apply State.wri_in | apply State.record_in | apply in_ite
    | exact Foot.sub hft rfl
    | split

def State.stepUp_foot : Foot := Fld.UP_STEP_NOW.foot ||| State.railEnable_foot
theorem State.stepUp_in {s : State} {l : List Nat} {n : Nat} (hks : In ft s0 s)
    (hft : State.stepUp_foot.le ft = true) :
    In ft s0 (State.stepUp s l n) := by
  unfold State.stepUp
  repeat' first
    | with_reducible first | assumption | apply State.wr_in | apply State.each_in | apply State.railEnable_in
    | exact Foot.sub hft rfl
    | intro _ _ _
    | intro _ _

def State.stepDown_foot : Foot := Fld.DOWN_STEP_NOW.foot ||| State.railDisable_foot
theorem State.stepDown_in {s : State} (hks : In ft s0 s) (hft : State.stepDown_foot.le ft = true) :
    In ft s0 (State.stepDown s) := by
  unfold State.stepDown
  repeat' first
    | (extract_lets +onlyGivenNames x; clear_value x)
    | with_reducible first | assumption | apply State.wr_in | apply State.each_in | apply State.railDisable_in
    | exact Foot.sub hft rfl
    | split
    | intro _ _ _
    | intro _ _

def State.dropStep_foot : Foot := Fld.DOWN_STEP_NOW.foot ||| State.setPwr_foot ||| State.railDisable_foot
theorem State.dropStep_in {s : State} (hks : In ft s0 s) (hft : State.dropStep_foot.le ft = true) :
    In ft s0 (State.dropStep s) := by
  unfold State.dropStep
  repeat' first
    | (extract_lets +onlyGivenNames x
       first
       | (have : In ft s0 x := by
            subst x
            repeat' first
              | (extract_lets +onlyGivenNames x; subst x)
              | with_reducible first
                  | assumption | apply State.wr_in | apply State.each_in | apply State.setPwr_in
                  | apply State.railDisable_in
              | exact Foot.sub hft rfl
              | with_reducible exact Or.inl rfl
              | exact Or.inr (Foot.sub hft rfl)
              | with_reducible apply InMk.of
              | simp -zeta only [in_mk_iff]
              | split
              | intro _ _ _
              | intro _ _
          clear_value x)
       | clear_value x
       | subst x)
    | with_reducible first
        | assumption | apply State.wr_in | apply State.each_in | apply State.setPwr_in | apply State.railDisable_in
    | exact Foot.sub hft rfl
    | with_reducible exact Or.inl rfl
    | exact Or.inr (Foot.sub hft rfl)
    | with_reducible apply InMk.of
    | simp -zeta only [in_mk_iff]
    | split
    | intro _ _ _
    | intro _ _

def State.dropRails_foot : Foot := State.setPwr_foot ||| State.dropStep_foot
theorem State.dropRails_in {s : State} {l : List Nat} (hks : In ft s0 s) (hft : State.dropRails_foot.le ft = true) :
    In ft s0 (State.dropRails s l) := by
  unfold State.dropRails
  repeat' first
    | (extract_lets +onlyGivenNames x
       first
       | (have : In ft s0 x := by
            subst x
            repeat' first
              | with_reducible first | assumption | apply State.setPwr_in | apply State.dropStep_in | apply foldl_in
              | exact Foot.sub hft rfl
              | with_reducible exact Or.inl rfl
              | exact Or.inr (Foot.sub hft rfl)
              | with_reducible apply InMk.of
              | simp -zeta only [in_mk_iff]
              | intro _ _ _
              | intro _ _
              | with_reducible apply InP.pair
          clear_value x)
       | clear_value x
       | subst x)
    | with_reducible first | assumption | apply State.setPwr_in | apply State.dropStep_in | apply foldl_in
    | exact Foot.sub hft rfl
    | with_reducible exact Or.inl rfl
    | exact Or.inr (Foot.sub hft rfl)
    | with_reducible apply InMk.of
    | simp -zeta only [in_mk_iff]
    | intro _ _ _
    | intro _ _
    | with_reducible apply InP.pair

def State.minOff_foot : Foot :=
  Fld.SEQ_STATE.foot ||| Fld.UP_STEP_NOW.foot ||| Fld.DOWN_STEP_NOW.foot ||| State.fabricLost_foot |||
    State.setPwr_foot
theorem State.minOff_in {s : State} (hks : In ft s0 s) (hft : State.minOff_foot.le ft = true) :
    In ft s0 (State.minOff s) := by
  unfold State.minOff
  repeat' first
    | (extract_lets +onlyGivenNames x
       first
       | (have : In ft s0 x := by
            subst x
            repeat' first
              | with_reducible first
                  | assumption | apply State.wr_in | apply State.fabricLost_in | apply State.setPwr_in
              | exact Foot.sub hft rfl
              | with_reducible exact Or.inl rfl
              | exact Or.inr (Foot.sub hft rfl)
              | with_reducible apply InMk.of
              | simp -zeta only [in_mk_iff]
              | intro _ _ _
              | intro _ _
          clear_value x)
       | clear_value x
       | subst x)
    | with_reducible first | assumption | apply State.wr_in | apply State.fabricLost_in | apply State.setPwr_in
    | exact Foot.sub hft rfl
    | with_reducible exact Or.inl rfl
    | exact Or.inr (Foot.sub hft rfl)
    | with_reducible apply InMk.of
    | simp -zeta only [in_mk_iff]
    | intro _ _ _
    | intro _ _

def State.goDown_foot : Foot :=
  Fld.ALERT_OUT.foot ||| Fld.WHISTLE_OUT.foot ||| Fld.WHISTLE_IN.foot ||| Fld.SEQ_STATE.foot |||
    Fld.RAIL_RETRYING.foot ||| State.setRdy_foot ||| State.setPwr_foot ||| State.stepDown_foot |||
    State.minOff_foot
theorem State.goDown_in {s : State} {byUp : Bool} (hks : In ft s0 s) (hft : State.goDown_foot.le ft = true) :
    In ft s0 (State.goDown s byUp) := by
  unfold State.goDown
  repeat' first
    | (extract_lets +onlyGivenNames x
       first
       | (have : In ft s0 x := by
            subst x
            repeat' first
              | (extract_lets +onlyGivenNames x; subst x)
              | with_reducible first
                  | assumption | apply State.wr_in | apply State.setf_in | apply State.when_in | apply State.each_in
                  | apply State.setRdy_in | apply State.setPwr_in | apply State.stepDown_in | apply State.minOff_in
                  | apply in_ite
              | exact Foot.sub hft rfl
              | with_reducible exact Or.inl rfl
              | exact Or.inr (Foot.sub hft rfl)
              | with_reducible apply InMk.of
              | simp -zeta only [in_mk_iff]
              | split
              | intro _ _ _
              | intro _ _
          clear_value x)
       | clear_value x
       | subst x)
    | with_reducible first
        | assumption | apply State.wr_in | apply State.setf_in | apply State.when_in | apply State.each_in
        | apply State.setRdy_in | apply State.setPwr_in | apply State.stepDown_in | apply State.minOff_in
        | apply in_ite
    | exact Foot.sub hft rfl
    | with_reducible exact Or.inl rfl
    | exact Or.inr (Foot.sub hft rfl)
    | with_reducible apply InMk.of
    | simp -zeta only [in_mk_iff]
    | split
    | intro _ _ _
    | intro _ _

def State.crashDown_foot : Foot := State.railDisable_foot ||| State.minOff_foot ||| State.goDown_foot
theorem State.crashDown_in {s : State} (hks : In ft s0 s) (hft : State.crashDown_foot.le ft = true) :
    In ft s0 (State.crashDown s) := by
  unfold State.crashDown
  repeat' first
    | (extract_lets +onlyGivenNames x
       first
       | (have : In ft s0 x := by
            subst x
            repeat' first
              | with_reducible first
                  | assumption | apply State.each_in | apply State.railDisable_in | apply State.minOff_in
                  | apply State.goDown_in | apply in_ite
              | exact Foot.sub hft rfl
              | split
              | intro _ _ _
              | intro _ _
          clear_value x)
       | clear_value x
       | subst x)
    | with_reducible first
        | assumption | apply State.each_in | apply State.railDisable_in | apply State.minOff_in
        | apply State.goDown_in | apply in_ite
    | exact Foot.sub hft rfl
    | split
    | intro _ _ _
    | intro _ _

def execDownStepDelay_foot : Foot := State.stepDown_foot ||| State.dropStep_foot ||| State.minOff_foot
theorem execDownStepDelay_in {s : State} (hks : In ft s0 s) (hft : execDownStepDelay_foot.le ft = true) :
    InOut ft s0 (execDownStepDelay s) := by
  unfold execDownStepDelay
  repeat' first
    | with_reducible first
        | assumption | apply State.stepDown_in | apply State.dropStep_in | apply State.minOff_in | apply inOut_ite
        | apply in_ite | apply InOut.next
    | exact Foot.sub hft rfl
    | split

theorem storePend_in {s : State} {l : List (Fld × Nat × Nat)} (hks : In ft s0 s)
    (hl : ∀ f ∈ railFlds, f.foot.le ft = true) (hr : State.storeFld_foot.le ft = true) :
    In ft s0 (s.each (l.filter fun x => railFlds.contains x.1) fun s x => s.storeFld x.1 x.2.1 x.2.2) := by
  unfold State.each
  induction l generalizing s with
  | nil => exact hks
  | cons a r ih =>
    rw [List.filter_cons]
    split
    · rename_i h
      exact ih (State.storeFld_in hks (hl _ (by simpa using h)) hr)
    · exact ih hks

def State.upSequence_foot : Foot :=
  Fld.SEQ_STATE.foot ||| Fld.ON_LATCHED.foot ||| Fld.WHISTLE_OUT.foot ||| Fld.WHISTLE_IN.foot |||
    State.setPwr_foot ||| State.storeFld_foot ||| State.stepUp_foot ||| Fld.EN.foot ||| Fld.UP_STEP.foot |||
    Fld.DOWN_STEP.foot ||| Fld.PWR_RAIL_CFG_GROUP.foot ||| Fld.REACTION.foot ||| Fld.DRAIN_NEED.foot |||
    Fld.PMBUS_EN.foot ||| Fld.PMBUS_ADDR.foot ||| Fld.PMBUS_PAGE.foot ||| Fld.DRAM_CH.foot |||
    Fld.DWELL_US.foot ||| Fld.CHATTER_LIMIT.foot ||| Fld.RAMP_TIMEOUT_US.foot ||| Fld.DEGLITCH_US.foot
theorem State.upSequence_in {s : State} (hks : In ft s0 s) (hft : State.upSequence_foot.le ft = true) :
    In ft s0 (State.upSequence s) := by
  unfold State.upSequence
  repeat' first
    | (extract_lets +onlyGivenNames x
       first
       | (have : In ft s0 x := by
            subst x
            repeat' first
              | (extract_lets +onlyGivenNames x; subst x)
              | with_reducible apply storePend_in
              | with_reducible first
                  | assumption | apply State.wr_in | apply State.setf_in | apply State.each_in
                  | apply State.setPwr_in | apply State.storeFld_in | apply State.stepUp_in
              | exact Foot.sub hft rfl
              | exact fun f hf => Foot.le_trans ((by decide +kernel : ∀ f ∈ railFlds,
                    f.foot.le State.upSequence_foot = true) f hf) hft
              | with_reducible exact Or.inl rfl
              | exact Or.inr (Foot.sub hft rfl)
              | with_reducible apply InMk.of
              | simp -zeta only [in_mk_iff]
              | split
              | intro _ _ _
              | intro _ _
          clear_value x)
       | clear_value x
       | subst x)
    | with_reducible apply storePend_in
    | with_reducible first
        | assumption | apply State.wr_in | apply State.setf_in | apply State.each_in | apply State.setPwr_in
        | apply State.storeFld_in | apply State.stepUp_in
    | exact Foot.sub hft rfl
    | exact fun f hf => Foot.le_trans ((by decide +kernel : ∀ f ∈ railFlds,
          f.foot.le State.upSequence_foot = true) f hf) hft
    | with_reducible exact Or.inl rfl
    | exact Or.inr (Foot.sub hft rfl)
    | with_reducible apply InMk.of
    | simp -zeta only [in_mk_iff]
    | split
    | intro _ _ _
    | intro _ _

def State.boardNext_foot : Foot :=
  Fld.WHISTLE_OUT.foot ||| Fld.SEQ_STATE.foot ||| State.setPwr_foot ||| State.stepUp_foot
theorem State.boardNext_in {s : State} (hks : In ft s0 s) (hft : State.boardNext_foot.le ft = true) :
    In ft s0 (State.boardNext s) := by
  unfold State.boardNext
  repeat' first
    | (extract_lets +onlyGivenNames x; clear_value x)
    | with_reducible first
        | assumption | apply State.wr_in | apply State.setf_in | apply State.setPwr_in | apply State.stepUp_in
        | apply in_ite
    | exact Foot.sub hft rfl
    | with_reducible exact Or.inl rfl
    | exact Or.inr (Foot.sub hft rfl)
    | with_reducible apply InMk.of
    | simp -zeta only [in_mk_iff]
    | split
    | intro _ _ _
    | intro _ _

def State.boardCheck_foot : Foot := State.boardNext_foot
theorem State.boardCheck_in {s : State} (hks : In ft s0 s) (hft : State.boardCheck_foot.le ft = true) :
    In ft s0 (State.boardCheck s) := by
  unfold State.boardCheck
  repeat' first
    | with_reducible first | assumption | apply State.boardNext_in | apply in_ite
    | exact Foot.sub hft rfl
    | split

def State.boardPhase_foot : Foot := Fld.SEQ_STATE.foot ||| State.boardNext_foot ||| State.boardCheck_foot
theorem State.boardPhase_in {s : State} (hks : In ft s0 s) (hft : State.boardPhase_foot.le ft = true) :
    In ft s0 (State.boardPhase s) := by
  unfold State.boardPhase
  repeat' first
    | (extract_lets +onlyGivenNames x
       first
       | (have : In ft s0 x := by
            subst x
            repeat' first
              | with_reducible first
                  | assumption | apply State.wr_in | apply State.boardNext_in | apply State.boardCheck_in
                  | apply in_ite
              | exact Foot.sub hft rfl
              | split
          clear_value x)
       | clear_value x
       | subst x)
    | with_reducible first
        | assumption | apply State.wr_in | apply State.boardNext_in | apply State.boardCheck_in | apply in_ite
    | exact Foot.sub hft rfl
    | split

def execUpStepDelay_foot : Foot := State.stepUp_foot ||| State.boardNext_foot
theorem execUpStepDelay_in {s : State} (hks : In ft s0 s) (hft : execUpStepDelay_foot.le ft = true) :
    InOut ft s0 (execUpStepDelay s) := by
  unfold execUpStepDelay
  repeat' first
    | with_reducible first
        | assumption | apply State.stepUp_in | apply State.boardNext_in | apply inOut_ite | apply in_ite
        | apply InOut.next
    | exact Foot.sub hft rfl
    | split

def execRailGood_foot : Foot := Fld.RAIL_RETRYING.foot ||| State.setPwr_foot ||| State.boardCheck_foot
theorem execRailGood_in {r : Nat} {s : State} (hks : In ft s0 s) (hft : execRailGood_foot.le ft = true) :
    InOut ft s0 (execRailGood r s) := by
  unfold execRailGood
  repeat' first
    | (extract_lets +onlyGivenNames x
       first
       | (have : In ft s0 x := by
            subst x
            repeat' first
              | (extract_lets +onlyGivenNames x; subst x)
              | with_reducible first
                  | assumption | apply State.setBitOf_in | apply State.setPwr_in | apply State.boardCheck_in
                  | apply inOut_ite | apply in_ite | apply InOut.next
              | exact Foot.sub hft rfl
              | with_reducible exact Or.inl rfl
              | exact Or.inr (Foot.sub hft rfl)
              | with_reducible apply InMk.of
              | simp -zeta only [in_mk_iff]
              | split
              | intro _ _ _
              | intro _ _
          clear_value x)
       | clear_value x
       | subst x)
    | with_reducible first
        | assumption | apply State.setBitOf_in | apply State.setPwr_in | apply State.boardCheck_in | apply inOut_ite
        | apply in_ite | apply InOut.next
    | exact Foot.sub hft rfl
    | with_reducible exact Or.inl rfl
    | exact Or.inr (Foot.sub hft rfl)
    | with_reducible apply InMk.of
    | simp -zeta only [in_mk_iff]
    | split
    | intro _ _ _
    | intro _ _

def execConfigWaitTimeout_foot : Foot := State.record_foot ||| State.boardPhase_foot
theorem execConfigWaitTimeout_in {s : State} (hks : In ft s0 s) (hft : execConfigWaitTimeout_foot.le ft = true) :
    InOut ft s0 (execConfigWaitTimeout s) := by
  unfold execConfigWaitTimeout
  repeat' first
    | with_reducible first
        | assumption | apply State.record_in | apply State.boardPhase_in | apply inOut_ite | apply in_ite
        | apply InOut.next
    | exact Foot.sub hft rfl
    | split

def execMinOffEnd_foot : Foot :=
  Fld.WHISTLE_OUT.foot ||| Fld.WHISTLE_IN.foot ||| Fld.ON_LATCHED.foot ||| Fld.SEQ_STATE.foot |||
    State.setPwr_foot ||| State.upSequence_foot
theorem execMinOffEnd_in {s : State} (hks : In ft s0 s) (hft : execMinOffEnd_foot.le ft = true) :
    InOut ft s0 (execMinOffEnd s) := by
  unfold execMinOffEnd
  repeat' first
    | (extract_lets +onlyGivenNames x
       first
       | (have : In ft s0 x := by
            subst x
            repeat' first
              | with_reducible first
                  | assumption | apply State.wr_in | apply State.setf_in | apply State.setPwr_in
                  | apply State.upSequence_in | apply inOut_ite | apply in_ite | apply InOut.next
              | exact Foot.sub hft rfl
              | with_reducible exact Or.inl rfl
              | exact Or.inr (Foot.sub hft rfl)
              | with_reducible apply InMk.of
              | simp -zeta only [in_mk_iff]
              | split
              | intro _ _ _
              | intro _ _
          clear_value x)
       | clear_value x
       | subst x)
    | with_reducible first
        | assumption | apply State.wr_in | apply State.setf_in | apply State.setPwr_in | apply State.upSequence_in
        | apply inOut_ite | apply in_ite | apply InOut.next
    | exact Foot.sub hft rfl
    | with_reducible exact Or.inl rfl
    | exact Or.inr (Foot.sub hft rfl)
    | with_reducible apply InMk.of
    | simp -zeta only [in_mk_iff]
    | split
    | intro _ _ _
    | intro _ _

def execWhistleSync_foot : Foot := Fld.WHISTLE_IN.foot ||| State.setPwr_foot ||| State.boardNext_foot
theorem execWhistleSync_in {s : State} (hks : In ft s0 s) (hft : execWhistleSync_foot.le ft = true) :
    InOut ft s0 (execWhistleSync s) := by
  unfold execWhistleSync
  repeat' first
    | (extract_lets +onlyGivenNames x
       first
       | (have : In ft s0 x := by
            subst x
            repeat' first
              | with_reducible first
                  | assumption | apply State.setf_in | apply State.setPwr_in | apply State.boardNext_in
                  | apply inOut_ite | apply in_ite | apply InOut.next
              | exact Foot.sub hft rfl
              | with_reducible exact Or.inl rfl
              | exact Or.inr (Foot.sub hft rfl)
              | with_reducible apply InMk.of
              | simp -zeta only [in_mk_iff]
              | split
              | intro _ _ _
              | intro _ _
          clear_value x)
       | clear_value x
       | subst x)
    | with_reducible first
        | assumption | apply State.setf_in | apply State.setPwr_in | apply State.boardNext_in | apply inOut_ite
        | apply in_ite | apply InOut.next
    | exact Foot.sub hft rfl
    | with_reducible exact Or.inl rfl
    | exact Or.inr (Foot.sub hft rfl)
    | with_reducible apply InMk.of
    | simp -zeta only [in_mk_iff]
    | split
    | intro _ _ _
    | intro _ _

def State.captureFf_foot : Foot := Fld.FF.foot ||| Fld.FF_VALID.foot ||| State.freeNext_foot ||| State.setPwr_foot
theorem State.captureFf_in {s : State} {r cause : Nat} (hks : In ft s0 s) (hft : State.captureFf_foot.le ft = true) :
    In ft s0 (State.captureFf s r cause) := by
  unfold State.captureFf
  repeat' first
    | (extract_lets +onlyGivenNames x
       first
       | (have : In ft s0 x := by
            subst x
            repeat' first
              | (extract_lets +onlyGivenNames x; subst x)
              | with_reducible first
                  | assumption | apply State.wri_in | apply State.setf_in | apply State.freeNext_in
                  | apply State.each_in | apply State.setPwr_in | apply in_ite
              | exact Foot.sub hft rfl
              | with_reducible exact Or.inl rfl
              | exact Or.inr (Foot.sub hft rfl)
              | with_reducible apply InMk.of
              | simp -zeta only [in_mk_iff]
              | split
              | intro _ _ _
              | intro _ _
          clear_value x)
       | clear_value x
       | subst x)
    | with_reducible first
        | assumption | apply State.wri_in | apply State.setf_in | apply State.freeNext_in | apply State.each_in
        | apply State.setPwr_in | apply in_ite
    | exact Foot.sub hft rfl
    | with_reducible exact Or.inl rfl
    | exact Or.inr (Foot.sub hft rfl)
    | with_reducible apply InMk.of
    | simp -zeta only [in_mk_iff]
    | split
    | intro _ _ _
    | intro _ _

def State.ffClr_foot : Foot := Fld.FF.foot ||| Fld.FF_VALID.foot ||| State.setPwr_foot
theorem State.ffClr_in {s : State} (hks : In ft s0 s) (hft : State.ffClr_foot.le ft = true) :
    In ft s0 (State.ffClr s) := by
  unfold State.ffClr
  repeat' first
    | (extract_lets +onlyGivenNames x
       first
       | (have : In ft s0 x := by
            subst x
            repeat' first
              | with_reducible first
                  | assumption | apply State.wri_in | apply State.setf_in | apply State.each_in
                  | apply State.setPwr_in
              | exact Foot.sub hft rfl
              | with_reducible exact Or.inl rfl
              | exact Or.inr (Foot.sub hft rfl)
              | with_reducible apply InMk.of
              | simp -zeta only [in_mk_iff]
              | intro _ _ _
              | intro _ _
          clear_value x)
       | clear_value x
       | subst x)
    | with_reducible first
        | assumption | apply State.wri_in | apply State.setf_in | apply State.each_in | apply State.setPwr_in
    | exact Foot.sub hft rfl
    | with_reducible exact Or.inl rfl
    | exact Or.inr (Foot.sub hft rfl)
    | with_reducible apply InMk.of
    | simp -zeta only [in_mk_iff]
    | intro _ _ _
    | intro _ _

def execFfClr_foot : Foot := State.barWrite_foot ||| State.ffClr_foot
theorem execFfClr_in {s : State} (hks : In ft s0 s) (hft : execFfClr_foot.le ft = true) :
    InOut ft s0 (execFfClr s) := by
  unfold execFfClr
  repeat' first
    | with_reducible first | assumption | apply State.barWrite_in | apply State.ffClr_in | apply InOut.next
    | exact Foot.sub hft rfl
    | intro _ _ _
    | intro _ _

def State.downAtEnd_foot : Foot := Part.drain.foot ||| State.goDown_foot
theorem State.downAtEnd_in {s : State} (hks : In ft s0 s) (hft : State.downAtEnd_foot.le ft = true) :
    In ft s0 (State.downAtEnd s) := by
  unfold State.downAtEnd
  repeat' first
    | (extract_lets +onlyGivenNames x; clear_value x)
    | with_reducible first | assumption | apply State.goDown_in | apply in_ite
    | exact Foot.sub hft rfl
    | with_reducible exact Or.inl rfl
    | exact Or.inr (Foot.sub hft rfl)
    | with_reducible apply InMk.of
    | simp -zeta only [in_mk_iff]
    | split

def State.systemDown_foot : Foot :=
  State.trigger_foot ||| State.setPwr_foot ||| State.goDown_foot ||| State.downAtEnd_foot
theorem State.systemDown_in {s : State} (hks : In ft s0 s) (hft : State.systemDown_foot.le ft = true) :
    In ft s0 (State.systemDown s) := by
  unfold State.systemDown
  repeat' first
    | (extract_lets +onlyGivenNames x
       first
       | (have : In ft s0 x := by
            subst x
            repeat' first
              | with_reducible first
                  | assumption | apply State.trigger_in | apply State.setPwr_in | apply State.goDown_in
                  | apply State.downAtEnd_in | apply in_ite
              | exact Foot.sub hft rfl
              | with_reducible exact Or.inl rfl
              | exact Or.inr (Foot.sub hft rfl)
              | with_reducible apply InMk.of
              | simp -zeta only [in_mk_iff]
              | split
              | intro _ _ _
              | intro _ _
          clear_value x)
       | clear_value x
       | subst x)
    | with_reducible first
        | assumption | apply State.trigger_in | apply State.setPwr_in | apply State.goDown_in
        | apply State.downAtEnd_in | apply in_ite
    | exact Foot.sub hft rfl
    | with_reducible exact Or.inl rfl
    | exact Or.inr (Foot.sub hft rfl)
    | with_reducible apply InMk.of
    | simp -zeta only [in_mk_iff]
    | split
    | intro _ _ _
    | intro _ _

def State.systemOther_foot : Foot :=
  Fld.FAULT_CNT.foot ||| Fld.PWR_FLAGS_CNT_OVF.foot ||| State.record_foot ||| State.count_foot |||
    State.alert_foot ||| State.captureFf_foot ||| State.systemDown_foot
theorem State.systemOther_in {s : State} {cause : Nat} (hks : In ft s0 s)
    (hft : State.systemOther_foot.le ft = true) :
    In ft s0 (State.systemOther s cause) := by
  unfold State.systemOther
  repeat' first
    | (extract_lets +onlyGivenNames x
       first
       | (have : In ft s0 x := by
            subst x
            repeat' first
              | (extract_lets +onlyGivenNames x; subst x)
              | with_reducible first
                  | assumption | apply State.record_in | apply State.count_in | apply State.alert_in
                  | apply State.captureFf_in | apply State.systemDown_in | apply in_ite
              | exact Foot.sub hft rfl
              | split
          clear_value x)
       | clear_value x
       | subst x)
    | with_reducible first
        | assumption | apply State.record_in | apply State.count_in | apply State.alert_in | apply State.captureFf_in
        | apply State.systemDown_in | apply in_ite
    | exact Foot.sub hft rfl
    | split

def State.systemRail_foot : Foot :=
  Fld.CH_FAIL.foot ||| State.trigger_foot ||| State.fatal_foot ||| State.setPwr_foot ||| State.crashDown_foot |||
    State.downAtEnd_foot ||| State.systemDown_foot
theorem State.systemRail_in {s : State} {r : Nat} (hks : In ft s0 s) (hft : State.systemRail_foot.le ft = true) :
    In ft s0 (State.systemRail s r) := by
  unfold State.systemRail
  repeat' first
    | (extract_lets +onlyGivenNames x
       first
       | (have : In ft s0 x := by
            subst x
            repeat' first
              | (extract_lets +onlyGivenNames x; subst x)
              | with_reducible first
                  | assumption | apply State.setBitOf_in | apply State.each_in | apply State.trigger_in
                  | apply State.fatal_in | apply State.setPwr_in | apply State.crashDown_in
                  | apply State.downAtEnd_in | apply State.systemDown_in | apply in_ite
              | exact Foot.sub hft rfl
              | with_reducible exact Or.inl rfl
              | exact Or.inr (Foot.sub hft rfl)
              | with_reducible apply InMk.of
              | simp -zeta only [in_mk_iff]
              | split
              | intro _ _ _
              | intro _ _
          clear_value x)
       | clear_value x
       | subst x)
    | with_reducible first
        | assumption | apply State.setBitOf_in | apply State.each_in | apply State.trigger_in | apply State.fatal_in
        | apply State.setPwr_in | apply State.crashDown_in | apply State.downAtEnd_in | apply State.systemDown_in
        | apply in_ite
    | exact Foot.sub hft rfl
    | with_reducible exact Or.inl rfl
    | exact Or.inr (Foot.sub hft rfl)
    | with_reducible apply InMk.of
    | simp -zeta only [in_mk_iff]
    | split
    | intro _ _ _
    | intro _ _

def State.groupDownRails_foot : Foot := Fld.RAIL_RETRYING.foot ||| State.dropRails_foot ||| State.boardCheck_foot
theorem State.groupDownRails_in {s : State} {r : Nat} (hks : In ft s0 s)
    (hft : State.groupDownRails_foot.le ft = true) :
    In ft s0 (State.groupDownRails s r) := by
  unfold State.groupDownRails
  repeat' first
    | (extract_lets +onlyGivenNames x
       first
       | (have : In ft s0 x := by
            subst x
            repeat' first
              | with_reducible first
                  | assumption | apply State.setBitOf_in | apply State.each_in | apply State.dropRails_in
                  | apply State.boardCheck_in
              | exact Foot.sub hft rfl
              | intro _ _ _
              | intro _ _
          clear_value x)
       | clear_value x
       | subst x)
    | with_reducible first
        | assumption | apply State.setBitOf_in | apply State.each_in | apply State.dropRails_in
        | apply State.boardCheck_in
    | exact Foot.sub hft rfl
    | intro _ _ _
    | intro _ _

def State.retryRail_foot : Foot :=
  Fld.ATTEMPTS.foot ||| Fld.RAIL_RETRYING.foot ||| State.railDisable_foot ||| State.groupDownRails_foot
theorem State.retryRail_in {s : State} {r : Nat} (hks : In ft s0 s) (hft : State.retryRail_foot.le ft = true) :
    In ft s0 (State.retryRail s r) := by
  unfold State.retryRail
  repeat' first
    | (extract_lets +onlyGivenNames x
       first
       | (have : In ft s0 x := by
            subst x
            repeat' first
              | (extract_lets +onlyGivenNames x; subst x)
              | with_reducible first
                  | assumption | apply State.wri_in | apply State.setBitOf_in | apply State.railDisable_in
                  | apply State.groupDownRails_in | apply in_ite
              | exact Foot.sub hft rfl
              | split
          clear_value x)
       | clear_value x
       | subst x)
    | with_reducible first
        | assumption | apply State.wri_in | apply State.setBitOf_in | apply State.railDisable_in
        | apply State.groupDownRails_in | apply in_ite
    | exact Foot.sub hft rfl
    | split

def State.railFail_foot : Foot :=
  Fld.RAIL_FAILED.foot ||| Fld.LAST_CAUSE.foot ||| Fld.FAULT_CNT.foot ||| Fld.PWR_FLAGS_CNT_OVF.foot |||
    State.record_foot ||| State.count_foot ||| State.alert_foot ||| State.setPwr_foot ||| State.boardCheck_foot |||
    State.captureFf_foot ||| State.systemRail_foot ||| State.groupDownRails_foot ||| State.retryRail_foot
theorem State.railFail_in {s : State} {r cause : Nat} (hks : In ft s0 s) (hft : State.railFail_foot.le ft = true) :
    In ft s0 (State.railFail s r cause) := by
  unfold State.railFail
  repeat' first
    | (extract_lets +onlyGivenNames x
       first
       | (have : In ft s0 x := by
            subst x
            repeat' first
              | (extract_lets +onlyGivenNames x; subst x)
              | with_reducible first
                  | assumption | apply State.wri_in | apply State.setBitOf_in | apply State.record_in
                  | apply State.count_in | apply State.alert_in | apply State.setPwr_in | apply State.boardCheck_in
                  | apply State.captureFf_in | apply State.systemRail_in | apply State.groupDownRails_in
                  | apply State.retryRail_in | apply in_ite
              | exact Foot.sub hft rfl
              | with_reducible exact Or.inl rfl
              | exact Or.inr (Foot.sub hft rfl)
              | with_reducible apply InMk.of
              | simp -zeta only [in_mk_iff]
              | split
              | intro _ _ _
              | intro _ _
          clear_value x)
       | clear_value x
       | subst x)
    | with_reducible first
        | assumption | apply State.wri_in | apply State.setBitOf_in | apply State.record_in | apply State.count_in
        | apply State.alert_in | apply State.setPwr_in | apply State.boardCheck_in | apply State.captureFf_in
        | apply State.systemRail_in | apply State.groupDownRails_in | apply State.retryRail_in | apply in_ite
    | exact Foot.sub hft rfl
    | with_reducible exact Or.inl rfl
    | exact Or.inr (Foot.sub hft rfl)
    | with_reducible apply InMk.of
    | simp -zeta only [in_mk_iff]
    | split
    | intro _ _ _
    | intro _ _

def execRailRetry_foot : Foot := Fld.ATTEMPTS.foot ||| State.railEnable_foot
theorem execRailRetry_in {r : Nat} {s : State} (hks : In ft s0 s) (hft : execRailRetry_foot.le ft = true) :
    InOut ft s0 (execRailRetry r s) := by
  unfold execRailRetry
  repeat' first
    | with_reducible first
        | assumption | apply State.wri_in | apply State.railEnable_in | apply inOut_ite | apply in_ite
        | apply InOut.next
    | exact Foot.sub hft rfl
    | split

def execRailPgFall_foot : Foot :=
  Fld.CHATTER_NOW.foot ||| Fld.CHATTER_CNT.foot ||| Fld.PWR_FLAGS_CNT_OVF.foot ||| State.count_foot |||
    State.setPwr_foot ||| State.railFail_foot
theorem execRailPgFall_in {r : Nat} {s : State} (hks : In ft s0 s) (hft : execRailPgFall_foot.le ft = true) :
    InOut ft s0 (execRailPgFall r s) := by
  unfold execRailPgFall
  repeat' first
    | (extract_lets +onlyGivenNames x
       first
       | (have : In ft s0 x := by
            subst x
            repeat' first
              | with_reducible first
                  | assumption | apply State.wri_in | apply State.count_in | apply State.setPwr_in
                  | apply State.railFail_in | apply inOut_ite | apply in_ite | apply InOut.next
              | exact Foot.sub hft rfl
              | with_reducible exact Or.inl rfl
              | exact Or.inr (Foot.sub hft rfl)
              | with_reducible apply InMk.of
              | simp -zeta only [in_mk_iff]
              | split
              | intro _ _ _
              | intro _ _
          clear_value x)
       | clear_value x
       | subst x)
    | with_reducible first
        | assumption | apply State.wri_in | apply State.count_in | apply State.setPwr_in | apply State.railFail_in
        | apply inOut_ite | apply in_ite | apply InOut.next
    | exact Foot.sub hft rfl
    | with_reducible exact Or.inl rfl
    | exact Or.inr (Foot.sub hft rfl)
    | with_reducible apply InMk.of
    | simp -zeta only [in_mk_iff]
    | split
    | intro _ _ _
    | intro _ _

def execRampTimeout_foot : Foot := State.railFail_foot
theorem execRampTimeout_in {r : Nat} {s : State} (hks : In ft s0 s) (hft : execRampTimeout_foot.le ft = true) :
    InOut ft s0 (execRampTimeout r s) := by
  unfold execRampTimeout
  repeat' first
    | with_reducible first | assumption | apply State.railFail_in | apply inOut_ite | apply in_ite | apply InOut.next
    | exact Foot.sub hft rfl
    | split

def execPmbusPoll_foot : Foot :=
  Fld.PMBUS_ERR.foot ||| State.record_foot ||| State.setPwr_foot ||| State.railFail_foot
theorem execPmbusPoll_in {r : Nat} {ans : Option (Nat × Nat × Nat)} {faults : Nat} {s : State} (hks : In ft s0 s)
    (hft : execPmbusPoll_foot.le ft = true) :
    InOut ft s0 (execPmbusPoll r ans faults s) := by
  unfold execPmbusPoll
  repeat' first
    | (extract_lets +onlyGivenNames x
       first
       | (have : In ft s0 x := by
            subst x
            repeat' first
              | (extract_lets +onlyGivenNames x; subst x)
              | with_reducible first
                  | assumption | apply State.setf_in | apply State.record_in | apply State.setPwr_in
                  | apply State.railFail_in | apply inOut_ite | apply in_ite | apply InOut.next
              | exact Foot.sub hft rfl
              | with_reducible exact Or.inl rfl
              | exact Or.inr (Foot.sub hft rfl)
              | with_reducible apply InMk.of
              | simp -zeta only [in_mk_iff]
              | split
              | intro _ _ _
              | intro _ _
          clear_value x)
       | clear_value x
       | subst x)
    | with_reducible first
        | assumption | apply State.setf_in | apply State.record_in | apply State.setPwr_in | apply State.railFail_in
        | apply inOut_ite | apply in_ite | apply InOut.next
    | exact Foot.sub hft rfl
    | with_reducible exact Or.inl rfl
    | exact Or.inr (Foot.sub hft rfl)
    | with_reducible apply InMk.of
    | simp -zeta only [in_mk_iff]
    | split
    | intro _ _ _
    | intro _ _

def execWhistleSyncTimeout_foot : Foot := State.systemOther_foot
theorem execWhistleSyncTimeout_in {s : State} (hks : In ft s0 s) (hft : execWhistleSyncTimeout_foot.le ft = true) :
    InOut ft s0 (execWhistleSyncTimeout s) := by
  unfold execWhistleSyncTimeout
  repeat' first
    | with_reducible first
        | assumption | apply State.systemOther_in | apply inOut_ite | apply in_ite | apply InOut.next
    | exact Foot.sub hft rfl
    | split

def execWhistle_foot : Foot :=
  Fld.WHISTLE_IN.foot ||| Fld.WHISTLE_CNT.foot ||| Fld.PWR_FLAGS_CNT_OVF.foot ||| State.count_foot |||
    State.goDown_foot ||| State.downAtEnd_foot ||| State.systemOther_foot
theorem execWhistle_in {s : State} (hks : In ft s0 s) (hft : execWhistle_foot.le ft = true) :
    InOut ft s0 (execWhistle s) := by
  unfold execWhistle
  repeat' first
    | (extract_lets +onlyGivenNames x
       first
       | (have : In ft s0 x := by
            subst x
            repeat' first
              | with_reducible first
                  | assumption | apply State.setf_in | apply State.count_in | apply State.goDown_in
                  | apply State.downAtEnd_in | apply State.systemOther_in | apply inOut_ite | apply in_ite
                  | apply InOut.next
              | exact Foot.sub hft rfl
              | split
          clear_value x)
       | clear_value x
       | subst x)
    | with_reducible first
        | assumption | apply State.setf_in | apply State.count_in | apply State.goDown_in | apply State.downAtEnd_in
        | apply State.systemOther_in | apply inOut_ite | apply in_ite | apply InOut.next
    | exact Foot.sub hft rfl
    | split

def execDieOverTemperature_foot : Foot := State.systemOther_foot
theorem execDieOverTemperature_in {s : State} (hks : In ft s0 s) (hft : execDieOverTemperature_foot.le ft = true) :
    InOut ft s0 (execDieOverTemperature s) := by
  unfold execDieOverTemperature
  repeat' first
    | (extract_lets +onlyGivenNames x; clear_value x)
    | with_reducible first
        | assumption | apply State.systemOther_in | apply inOut_ite | apply in_ite | apply InOut.next
    | exact Foot.sub hft rfl
    | split

def execPwrReqAssert_foot : Foot := Fld.PWR_REQ_IN.foot ||| Fld.ON_LATCHED.foot ||| State.upSequence_foot
theorem execPwrReqAssert_in {longOff : Bool} {s : State} (hks : In ft s0 s)
    (hft : execPwrReqAssert_foot.le ft = true) :
    InOut ft s0 (execPwrReqAssert longOff s) := by
  unfold execPwrReqAssert
  repeat' first
    | (extract_lets +onlyGivenNames x
       first
       | (have : In ft s0 x := by
            subst x
            repeat' first
              | (extract_lets +onlyGivenNames x; subst x)
              | with_reducible first
                  | assumption | apply State.setf_in | apply State.upSequence_in | apply inOut_ite | apply in_ite
                  | apply InOut.next
              | exact Foot.sub hft rfl
              | split
          clear_value x)
       | clear_value x
       | subst x)
    | with_reducible first
        | assumption | apply State.setf_in | apply State.upSequence_in | apply inOut_ite | apply in_ite
        | apply InOut.next
    | exact Foot.sub hft rfl
    | split

def execPwrReqDeassert_foot : Foot :=
  Fld.PWR_REQ_IN.foot ||| State.trigger_foot ||| State.goDown_foot ||| State.downAtEnd_foot
theorem execPwrReqDeassert_in {s : State} (hks : In ft s0 s) (hft : execPwrReqDeassert_foot.le ft = true) :
    InOut ft s0 (execPwrReqDeassert s) := by
  unfold execPwrReqDeassert
  repeat' first
    | (extract_lets +onlyGivenNames x
       first
       | (have : In ft s0 x := by
            subst x
            repeat' first
              | with_reducible first
                  | assumption | apply State.setf_in | apply State.trigger_in | apply State.goDown_in
                  | apply State.downAtEnd_in | apply inOut_ite | apply in_ite | apply InOut.next
              | exact Foot.sub hft rfl
              | split
          clear_value x)
       | clear_value x
       | subst x)
    | with_reducible first
        | assumption | apply State.setf_in | apply State.trigger_in | apply State.goDown_in
        | apply State.downAtEnd_in | apply inOut_ite | apply in_ite | apply InOut.next
    | exact Foot.sub hft rfl
    | split

def execPfailNFall_foot : Foot := Fld.PFAIL_IN.foot ||| State.trigger_foot ||| State.goDown_foot
theorem execPfailNFall_in {s : State} (hks : In ft s0 s) (hft : execPfailNFall_foot.le ft = true) :
    InOut ft s0 (execPfailNFall s) := by
  unfold execPfailNFall
  repeat' first
    | (extract_lets +onlyGivenNames x
       first
       | (have : In ft s0 x := by
            subst x
            repeat' first
              | with_reducible first
                  | assumption | apply State.setf_in | apply State.trigger_in | apply State.goDown_in
                  | apply inOut_ite | apply in_ite | apply InOut.next
              | exact Foot.sub hft rfl
              | split
          clear_value x)
       | clear_value x
       | subst x)
    | with_reducible first
        | assumption | apply State.setf_in | apply State.trigger_in | apply State.goDown_in | apply inOut_ite
        | apply in_ite | apply InOut.next
    | exact Foot.sub hft rfl
    | split

def execPfailNRise_foot : Foot := Fld.PFAIL_IN.foot
theorem execPfailNRise_in {s : State} (hks : In ft s0 s) (hft : execPfailNRise_foot.le ft = true) :
    InOut ft s0 (execPfailNRise s) := by
  unfold execPfailNRise
  repeat' first
    | with_reducible first | assumption | apply State.setf_in | apply InOut.next
    | exact Foot.sub hft rfl

def State.drainNow_foot : Foot := State.trigger_foot
theorem State.drainNow_in {s : State} (hks : In ft s0 s) (hft : State.drainNow_foot.le ft = true) :
    In ft s0 (State.drainNow s) := by
  unfold State.drainNow
  repeat' first
    | with_reducible first | assumption | apply State.trigger_in
    | exact Foot.sub hft rfl

def execDrainNow_foot : Foot := State.barWrite_foot ||| State.drainNow_foot
theorem execDrainNow_in {s : State} (hks : In ft s0 s) (hft : execDrainNow_foot.le ft = true) :
    InOut ft s0 (execDrainNow s) := by
  unfold execDrainNow
  repeat' first
    | with_reducible first | assumption | apply State.barWrite_in | apply State.drainNow_in | apply InOut.next
    | exact Foot.sub hft rfl
    | intro _ _ _
    | intro _ _

def State.startUpRailsUp_foot : Foot :=
  Fld.RAIL_EN_OUT.foot ||| Fld.ARMED.foot ||| State.fabricLost_foot ||| State.setPwr_foot ||| State.upSequence_foot
theorem State.startUpRailsUp_in {s : State} (hks : In ft s0 s) (hft : State.startUpRailsUp_foot.le ft = true) :
    In ft s0 (State.startUpRailsUp s) := by
  unfold State.startUpRailsUp
  repeat' first
    | (extract_lets +onlyGivenNames x
       first
       | (have : In ft s0 x := by
            subst x
            repeat' first
              | (extract_lets +onlyGivenNames x; subst x)
              | with_reducible first
                  | assumption | apply State.wr_in | apply State.setf_in | apply State.fabricLost_in
                  | apply State.setPwr_in | apply State.upSequence_in
              | exact Foot.sub hft rfl
              | with_reducible exact Or.inl rfl
              | exact Or.inr (Foot.sub hft rfl)
              | with_reducible apply InMk.of
              | simp -zeta only [in_mk_iff]
              | intro _ _ _
              | intro _ _
          clear_value x)
       | clear_value x
       | subst x)
    | with_reducible first
        | assumption | apply State.wr_in | apply State.setf_in | apply State.fabricLost_in | apply State.setPwr_in
        | apply State.upSequence_in
    | exact Foot.sub hft rfl
    | with_reducible exact Or.inl rfl
    | exact Or.inr (Foot.sub hft rfl)
    | with_reducible apply InMk.of
    | simp -zeta only [in_mk_iff]
    | intro _ _ _
    | intro _ _

def State.drainEnd_foot : Foot :=
  Part.drc.foot ||| Part.drain.foot ||| State.goDown_foot ||| State.startUpRailsUp_foot
theorem State.drainEnd_in {s : State} (hks : In ft s0 s) (hft : State.drainEnd_foot.le ft = true) :
    In ft s0 (State.drainEnd s) := by
  unfold State.drainEnd
  repeat' first
    | (extract_lets +onlyGivenNames x; clear_value x)
    | with_reducible first | assumption | apply State.goDown_in | apply State.startUpRailsUp_in | apply in_ite
    | exact Foot.sub hft rfl
    | with_reducible exact Or.inl rfl
    | exact Or.inr (Foot.sub hft rfl)
    | with_reducible apply InMk.of
    | simp -zeta only [in_mk_iff]
    | split

def State.finalFlush_foot : Foot := Part.dbk.foot ||| State.flushStart_foot ||| State.drainEnd_foot
theorem State.finalFlush_in {s : State} (hks : In ft s0 s) (hft : State.finalFlush_foot.le ft = true) :
    In ft s0 (State.finalFlush s) := by
  unfold State.finalFlush
  repeat' first
    | (extract_lets +onlyGivenNames x
       first
       | (have : In ft s0 x := by
            subst x
            repeat' first
              | (extract_lets +onlyGivenNames x; subst x)
              | with_reducible first | assumption | apply State.flushStart_in | apply State.drainEnd_in | apply in_ite
              | exact Foot.sub hft rfl
              | with_reducible exact Or.inl rfl
              | exact Or.inr (Foot.sub hft rfl)
              | with_reducible apply InMk.of
              | simp -zeta only [in_mk_iff]
              | split
          clear_value x)
       | clear_value x
       | subst x)
    | with_reducible first | assumption | apply State.flushStart_in | apply State.drainEnd_in | apply in_ite
    | exact Foot.sub hft rfl
    | with_reducible exact Or.inl rfl
    | exact Or.inr (Foot.sub hft rfl)
    | with_reducible apply InMk.of
    | simp -zeta only [in_mk_iff]
    | split

def execDrainMetadataDone_foot : Foot := Part.drain.foot ||| State.finalFlush_foot
theorem execDrainMetadataDone_in {v4a us : Nat} {s : State} (hks : In ft s0 s)
    (hft : execDrainMetadataDone_foot.le ft = true) :
    InOut ft s0 (execDrainMetadataDone v4a us s) := by
  unfold execDrainMetadataDone
  repeat' first
    | (extract_lets +onlyGivenNames x
       first
       | (have : In ft s0 x := by
            subst x
            repeat' first
              | (extract_lets +onlyGivenNames x; subst x)
              | with_reducible first
                  | assumption | apply State.finalFlush_in | apply inOut_ite | apply in_ite | apply InOut.next
              | exact Foot.sub hft rfl
              | with_reducible exact Or.inl rfl
              | exact Or.inr (Foot.sub hft rfl)
              | with_reducible apply InMk.of
              | simp -zeta only [in_mk_iff]
              | split
          clear_value x)
       | clear_value x
       | subst x)
    | with_reducible first
        | assumption | apply State.finalFlush_in | apply inOut_ite | apply in_ite | apply InOut.next
    | exact Foot.sub hft rfl
    | with_reducible exact Or.inl rfl
    | exact Or.inr (Foot.sub hft rfl)
    | with_reducible apply InMk.of
    | simp -zeta only [in_mk_iff]
    | split

def execVaultSealWritten_foot : Foot :=
  Part.saved.foot ||| Part.nfc.foot ||| Part.drain.foot ||| State.saveMeta_foot ||| State.finalFlush_foot
theorem execVaultSealWritten_in {s : State} (hks : In ft s0 s) (hft : execVaultSealWritten_foot.le ft = true) :
    InOut ft s0 (execVaultSealWritten s) := by
  unfold execVaultSealWritten
  repeat' first
    | (extract_lets +onlyGivenNames x
       first
       | (have : In ft s0 x := by
            subst x
            repeat' first
              | (extract_lets +onlyGivenNames x; subst x)
              | with_reducible first
                  | assumption | apply State.saveMeta_in | apply State.finalFlush_in | apply foldl_in
                  | apply inOut_ite | apply in_ite | apply inP_ite | apply InOut.next
              | exact Foot.sub hft rfl
              | with_reducible exact Or.inl rfl
              | exact Or.inr (Foot.sub hft rfl)
              | with_reducible apply InMk.of
              | simp -zeta only [in_mk_iff]
              | split
              | intro _ _ _
              | intro _ _
              | with_reducible apply InP.pair
          clear_value x)
       | clear_value x
       | subst x)
    | with_reducible first
        | assumption | apply State.saveMeta_in | apply State.finalFlush_in | apply foldl_in | apply inOut_ite
        | apply in_ite | apply inP_ite | apply InOut.next
    | exact Foot.sub hft rfl
    | with_reducible exact Or.inl rfl
    | exact Or.inr (Foot.sub hft rfl)
    | with_reducible apply InMk.of
    | simp -zeta only [in_mk_iff]
    | split
    | intro _ _ _
    | intro _ _
    | with_reducible apply InP.pair

def execFlushNow_foot : Foot := State.dbkFlush_foot ||| State.barWrite_foot
theorem execFlushNow_in {s : State} (hks : In ft s0 s) (hft : execFlushNow_foot.le ft = true) :
    InOut ft s0 (execFlushNow s) := by
  unfold execFlushNow
  repeat' first
    | with_reducible first | assumption | apply State.dbkFlush_in | apply State.barWrite_in | apply InOut.next
    | exact Foot.sub hft rfl
    | intro _ _ _
    | intro _ _

def execDaybookFlushDone_foot : Foot := State.flushEnd_foot ||| State.drainEnd_foot
theorem execDaybookFlushDone_in {okA okB : Bool} {s : State} (hks : In ft s0 s)
    (hft : execDaybookFlushDone_foot.le ft = true) :
    InOut ft s0 (execDaybookFlushDone okA okB s) := by
  unfold execDaybookFlushDone
  repeat' first
    | (extract_lets +onlyGivenNames x
       first
       | (have : In ft s0 x := by
            subst x
            repeat' first
              | with_reducible first
                  | assumption | apply State.flushEnd_in | apply State.drainEnd_in | apply inOut_ite | apply in_ite
                  | apply InOut.next
              | exact Foot.sub hft rfl
              | split
          clear_value x)
       | clear_value x
       | subst x)
    | with_reducible first
        | assumption | apply State.flushEnd_in | apply State.drainEnd_in | apply inOut_ite | apply in_ite
        | apply InOut.next
    | exact Foot.sub hft rfl
    | split

def execDaybookCheckpoint_foot : Foot := State.checkpoint_foot
theorem execDaybookCheckpoint_in {s : State} (hks : In ft s0 s) (hft : execDaybookCheckpoint_foot.le ft = true) :
    InOut ft s0 (execDaybookCheckpoint s) := by
  unfold execDaybookCheckpoint
  repeat' first
    | with_reducible first
        | assumption | apply State.checkpoint_in | apply inOut_ite | apply in_ite | apply InOut.next
    | exact Foot.sub hft rfl
    | split

def State.setDom_foot : Foot := Fld.DOM_ON.foot
theorem State.setDom_in {s : State} {d : Nat} {v : Bool} (hks : In ft s0 s) (hft : State.setDom_foot.le ft = true) :
    In ft s0 (State.setDom s d v) := by
  unfold State.setDom
  repeat' first
    | with_reducible first | assumption | apply State.setBitOf_in
    | exact Foot.sub hft rfl

def State.domStart_foot : Foot := State.setPwr_foot
theorem State.domStart_in {s : State} (hks : In ft s0 s) (hft : State.domStart_foot.le ft = true) :
    In ft s0 (State.domStart s) := by
  unfold State.domStart
  repeat' first
    | (extract_lets +onlyGivenNames x; clear_value x)
    | with_reducible first | assumption | apply State.setPwr_in | apply in_ite
    | exact Foot.sub hft rfl
    | with_reducible exact Or.inl rfl
    | exact Or.inr (Foot.sub hft rfl)
    | with_reducible apply InMk.of
    | simp -zeta only [in_mk_iff]
    | split
    | intro _ _ _
    | intro _ _

def State.domDown_foot : Foot := State.setPwr_foot ||| State.setDom_foot ||| State.domStart_foot
theorem State.domDown_in {s : State} {d : Nat} (hks : In ft s0 s) (hft : State.domDown_foot.le ft = true) :
    In ft s0 (State.domDown s d) := by
  unfold State.domDown
  repeat' first
    | (extract_lets +onlyGivenNames x; clear_value x)
    | with_reducible first | assumption | apply State.setPwr_in | apply State.setDom_in | apply State.domStart_in
    | exact Foot.sub hft rfl
    | with_reducible exact Or.inl rfl
    | exact Or.inr (Foot.sub hft rfl)
    | with_reducible apply InMk.of
    | simp -zeta only [in_mk_iff]
    | intro _ _ _
    | intro _ _

def execDomainSwitch_foot : Foot := State.setPwr_foot ||| State.domStart_foot ||| State.domDown_foot
theorem execDomainSwitch_in {d : Nat} {on : Bool} {s : State} (hks : In ft s0 s)
    (hft : execDomainSwitch_foot.le ft = true) :
    InOut ft s0 (execDomainSwitch d on s) := by
  unfold execDomainSwitch
  repeat' first
    | (extract_lets +onlyGivenNames x; clear_value x)
    | with_reducible first
        | assumption | apply State.setPwr_in | apply State.domStart_in | apply State.domDown_in | apply inOut_ite
        | apply in_ite | apply InOut.next
    | exact Foot.sub hft rfl
    | with_reducible exact Or.inl rfl
    | exact Or.inr (Foot.sub hft rfl)
    | with_reducible apply InMk.of
    | simp -zeta only [in_mk_iff]
    | split
    | intro _ _ _
    | intro _ _

def execDomainPowerGood_foot : Foot := State.setPwr_foot ||| State.setDom_foot ||| State.domStart_foot
theorem execDomainPowerGood_in {d : Nat} {s : State} (hks : In ft s0 s)
    (hft : execDomainPowerGood_foot.le ft = true) :
    InOut ft s0 (execDomainPowerGood d s) := by
  unfold execDomainPowerGood
  repeat' first
    | (extract_lets +onlyGivenNames x; clear_value x)
    | with_reducible first
        | assumption | apply State.setPwr_in | apply State.setDom_in | apply State.domStart_in | apply inOut_ite
        | apply in_ite | apply InOut.next
    | exact Foot.sub hft rfl
    | with_reducible exact Or.inl rfl
    | exact Or.inr (Foot.sub hft rfl)
    | with_reducible apply InMk.of
    | simp -zeta only [in_mk_iff]
    | split
    | intro _ _ _
    | intro _ _

def execDomainSwitchTimeout_foot : Foot :=
  Fld.PWR_STATUS_DOM_FAIL.foot ||| Fld.PWR_DOM_FAIL_DOM_FAIL.foot ||| State.record_foot ||| State.alert_foot |||
    State.domDown_foot
theorem execDomainSwitchTimeout_in {d : Nat} {s : State} (hks : In ft s0 s)
    (hft : execDomainSwitchTimeout_foot.le ft = true) :
    InOut ft s0 (execDomainSwitchTimeout d s) := by
  unfold execDomainSwitchTimeout
  repeat' first
    | (extract_lets +onlyGivenNames x
       first
       | (have : In ft s0 x := by
            subst x
            repeat' first
              | (extract_lets +onlyGivenNames x; subst x)
              | with_reducible first
                  | assumption | apply State.setf_in | apply State.setBitOf_in | apply State.record_in
                  | apply State.alert_in | apply State.domDown_in | apply inOut_ite | apply in_ite | apply InOut.next
              | exact Foot.sub hft rfl
              | split
          clear_value x)
       | clear_value x
       | subst x)
    | with_reducible first
        | assumption | apply State.setf_in | apply State.setBitOf_in | apply State.record_in | apply State.alert_in
        | apply State.domDown_in | apply inOut_ite | apply in_ite | apply InOut.next
    | exact Foot.sub hft rfl
    | split

end Sys2Proof.Machine
end

