-- ==== Sys2Proof/Laws/FrameCipher.lean ====
section
/-! SUPPORT. The footprints of the operations of Machine/Cipher (Laws/Frame). -/

namespace Sys2Proof.Machine

variable {ft : Foot} {s0 : State}

def State.fenceWrite_foot : Foot := Fld.FENCE_ERR.foot ||| Fld.CLUSTER_FENCE.foot ||| Fld.CLUSTER_ACTIVE.foot
theorem State.fenceWrite_in {s : State} {v : Nat} (hks : In ft s0 s) (hft : State.fenceWrite_foot.le ft = true) :
    In ft s0 (State.fenceWrite s v) := by
  unfold State.fenceWrite
  repeat' first
    | (extract_lets +onlyGivenNames x; clear_value x)
    | with_reducible first | assumption | apply State.wr_in | apply State.setf_in | apply in_ite
    | exact Foot.sub hft rfl
    | split

def execClusterFenceWrite_foot : Foot := State.barWrite_foot ||| State.fenceWrite_foot
theorem execClusterFenceWrite_in {v : Nat} {s : State} (hks : In ft s0 s)
    (hft : execClusterFenceWrite_foot.le ft = true) :
    InOut ft s0 (execClusterFenceWrite v s) := by
  unfold execClusterFenceWrite
  repeat' first
    | with_reducible first | assumption | apply State.barWrite_in | apply State.fenceWrite_in | apply InOut.next
    | exact Foot.sub hft rfl
    | intro _ _ _
    | intro _ _

def execTrngHealthTest_foot : Foot := Fld.TRNG_FAIL.foot ||| State.record_foot ||| State.alert_foot
theorem execTrngHealthTest_in {pass : Bool} {s : State} (hks : In ft s0 s)
    (hft : execTrngHealthTest_foot.le ft = true) :
    InOut ft s0 (execTrngHealthTest pass s) := by
  unfold execTrngHealthTest
  repeat' first
    | with_reducible first
        | assumption | apply State.setf_in | apply State.record_in | apply State.alert_in | apply inOut_ite
        | apply in_ite | apply InOut.next
    | exact Foot.sub hft rfl
    | split

def execDrbgReseed_foot : Foot := Part.sec.foot
theorem execDrbgReseed_in {s : State} (hks : In ft s0 s) (hft : execDrbgReseed_foot.le ft = true) :
    InOut ft s0 (execDrbgReseed s) := by
  unfold execDrbgReseed
  repeat' first
    | (extract_lets +onlyGivenNames x; clear_value x)
    | with_reducible first | assumption | apply inOut_ite | apply in_ite | apply InOut.next
    | exact Foot.sub hft rfl
    | with_reducible exact Or.inl rfl
    | exact Or.inr (Foot.sub hft rfl)
    | with_reducible apply InMk.of
    | simp -zeta only [in_mk_iff]
    | split

def State.drbg_foot : Foot := Part.sec.foot ||| State.freeNext_foot
theorem State.drbg_in {s : State} (hks : In ft s0 s) (hft : State.drbg_foot.le ft = true) :
    InP ft s0 (State.drbg s) := by
  unfold State.drbg
  repeat' first
    | (extract_lets +onlyGivenNames x
       first
       | (have : In ft s0 x := by
            subst x
            repeat' first
              | with_reducible first | assumption | apply State.freeNext_in
              | exact Foot.sub hft rfl
              | with_reducible exact Or.inl rfl
              | exact Or.inr (Foot.sub hft rfl)
              | with_reducible apply InMk.of
              | simp -zeta only [in_mk_iff]
              | with_reducible apply InP.pair
              | dsimp -zeta only
          clear_value x)
       | clear_value x
       | subst x)
    | with_reducible first | assumption | apply State.freeNext_in
    | exact Foot.sub hft rfl
    | with_reducible exact Or.inl rfl
    | exact Or.inr (Foot.sub hft rfl)
    | with_reducible apply InMk.of
    | simp -zeta only [in_mk_iff]
    | with_reducible apply InP.pair
    | dsimp -zeta only

def State.tlRandom_foot : Foot := State.drbg_foot
theorem State.tlRandom_in {s : State} (hks : In ft s0 s) (hft : State.tlRandom_foot.le ft = true) :
    InP ft s0 (State.tlRandom s) := by
  unfold State.tlRandom
  repeat' first
    | with_reducible first | assumption | apply State.drbg_in | apply inP_ite | apply in_ite
    | exact Foot.sub hft rfl
    | with_reducible refine InP.eq (by assumption) ?_
    | (with_reducible refine InP.fst ?_; with_reducible first | assumption | apply State.drbg_in)
    | split
    | with_reducible apply InP.pair
    | dsimp -zeta only

def execTlRandomRead_foot : Foot := State.send_foot ||| State.tlRandom_foot
theorem execTlRandomRead_in {link ld : Nat} {s : State} (hks : In ft s0 s)
    (hft : execTlRandomRead_foot.le ft = true) :
    InOut ft s0 (execTlRandomRead link ld s) := by
  unfold execTlRandomRead
  repeat' first
    | (extract_lets +onlyGivenNames x
       first
       | (have : In ft s0 x := by
            subst x
            repeat' first
              | (extract_lets +onlyGivenNames x; subst x)
              | with_reducible first
                  | assumption | apply State.send_in | apply State.tlRandom_in | apply inOut_ite | apply in_ite
                  | apply inP_ite | apply InOut.next
              | exact Foot.sub hft rfl
              | with_reducible refine InP.eq (by assumption) ?_
              | (with_reducible refine InP.fst ?_; with_reducible first | assumption | apply State.tlRandom_in)
              | split
              | with_reducible apply InP.pair
              | dsimp -zeta only
          clear_value x)
       | (have : InP ft s0 x := by
            subst x
            repeat' first
              | (extract_lets +onlyGivenNames x; subst x)
              | with_reducible first
                  | assumption | apply State.send_in | apply State.tlRandom_in | apply inOut_ite | apply in_ite
                  | apply inP_ite | apply InOut.next
              | exact Foot.sub hft rfl
              | with_reducible refine InP.eq (by assumption) ?_
              | (with_reducible refine InP.fst ?_; with_reducible first | assumption | apply State.tlRandom_in)
              | split
              | with_reducible apply InP.pair
              | dsimp -zeta only
          clear_value x)
       | clear_value x
       | subst x)
    | with_reducible first
        | assumption | apply State.send_in | apply State.tlRandom_in | apply inOut_ite | apply in_ite | apply inP_ite
        | apply InOut.next
    | exact Foot.sub hft rfl
    | with_reducible refine InP.eq (by assumption) ?_
    | (with_reducible refine InP.fst ?_; with_reducible first | assumption | apply State.tlRandom_in)
    | split
    | with_reducible apply InP.pair
    | dsimp -zeta only

def State.tellerEnd_foot : Foot := Fld.SLOT.foot ||| Fld.TL_CMD_RESULT.foot ||| Part.sec.foot
theorem State.tellerEnd_in {s : State} {d k result : Nat} (hks : In ft s0 s)
    (hft : State.tellerEnd_foot.le ft = true) :
    In ft s0 (State.tellerEnd s d k result) := by
  unfold State.tellerEnd
  repeat' first
    | (extract_lets +onlyGivenNames x
       first
       | (have : In ft s0 x := by
            subst x
            repeat' first
              | with_reducible first | assumption | apply State.wri_in
              | exact Foot.sub hft rfl
              | with_reducible exact Or.inl rfl
              | exact Or.inr (Foot.sub hft rfl)
              | with_reducible apply InMk.of
              | simp -zeta only [in_mk_iff]
          clear_value x)
       | clear_value x
       | subst x)
    | with_reducible first | assumption | apply State.wri_in
    | exact Foot.sub hft rfl
    | with_reducible exact Or.inl rfl
    | exact Or.inr (Foot.sub hft rfl)
    | with_reducible apply InMk.of
    | simp -zeta only [in_mk_iff]

def State.tellerLoad_foot : Foot :=
  Fld.MODE.foot ||| Fld.GCM_FAIL_CNT.foot ||| Fld.CIP_FLAGS_CNT_OVF.foot ||| State.reshareKek_foot |||
    State.setSlotKey_foot ||| State.count_foot ||| State.tellerEnd_foot
theorem State.tellerLoad_in {s : State} {d k mode : Nat} (hks : In ft s0 s)
    (hft : State.tellerLoad_foot.le ft = true) :
    In ft s0 (State.tellerLoad s d k mode) := by
  unfold State.tellerLoad
  repeat' first
    | (extract_lets +onlyGivenNames x
       first
       | (have : In ft s0 x := by
            subst x
            repeat' first
              | (extract_lets +onlyGivenNames x; subst x)
              | with_reducible first
                  | assumption | apply State.wri_in | apply State.reshareKek_in | apply State.setSlotKey_in
                  | apply State.count_in | apply State.tellerEnd_in | apply in_ite
              | exact Foot.sub hft rfl
              | split
          clear_value x)
       | clear_value x
       | subst x)
    | with_reducible first
        | assumption | apply State.wri_in | apply State.reshareKek_in | apply State.setSlotKey_in
        | apply State.count_in | apply State.tellerEnd_in | apply in_ite
    | exact Foot.sub hft rfl
    | split

def State.tellerZero_foot : Foot := Fld.MODE.foot ||| State.clearSlotKey_foot ||| State.tellerEnd_foot
theorem State.tellerZero_in {s : State} {d k : Nat} (hks : In ft s0 s) (hft : State.tellerZero_foot.le ft = true) :
    In ft s0 (State.tellerZero s d k) := by
  unfold State.tellerZero
  repeat' first
    | with_reducible first
        | assumption | apply State.wri_in | apply State.clearSlotKey_in | apply State.tellerEnd_in | apply in_ite
    | exact Foot.sub hft rfl
    | split

def State.tellerQuery_foot : Foot := Fld.Q_MODE.foot ||| Fld.Q_REFS.foot ||| State.tellerEnd_foot
theorem State.tellerQuery_in {s : State} {d k : Nat} (hks : In ft s0 s) (hft : State.tellerQuery_foot.le ft = true) :
    In ft s0 (State.tellerQuery s d k) := by
  unfold State.tellerQuery
  repeat' first
    | with_reducible first | assumption | apply State.wri_in | apply State.tellerEnd_in
    | exact Foot.sub hft rfl

def execLoadXts_foot : Foot := State.barWrite_foot ||| State.tellerLoad_foot
theorem execLoadXts_in {d slot : Nat} {s : State} (hks : In ft s0 s) (hft : execLoadXts_foot.le ft = true) :
    InOut ft s0 (execLoadXts d slot s) := by
  unfold execLoadXts
  repeat' first
    | with_reducible first
        | assumption | apply State.barWrite_in | apply State.tellerLoad_in | apply inOut_ite | apply in_ite
        | apply InOut.next
    | exact Foot.sub hft rfl
    | split
    | intro _ _ _
    | intro _ _

def execLoadGcm_foot : Foot := State.barWrite_foot ||| State.tellerLoad_foot
theorem execLoadGcm_in {d slot : Nat} {s : State} (hks : In ft s0 s) (hft : execLoadGcm_foot.le ft = true) :
    InOut ft s0 (execLoadGcm d slot s) := by
  unfold execLoadGcm
  repeat' first
    | with_reducible first
        | assumption | apply State.barWrite_in | apply State.tellerLoad_in | apply inOut_ite | apply in_ite
        | apply InOut.next
    | exact Foot.sub hft rfl
    | split
    | intro _ _ _
    | intro _ _

def execZeroize_foot : Foot := State.barWrite_foot ||| State.tellerZero_foot
theorem execZeroize_in {d slot : Nat} {s : State} (hks : In ft s0 s) (hft : execZeroize_foot.le ft = true) :
    InOut ft s0 (execZeroize d slot s) := by
  unfold execZeroize
  repeat' first
    | with_reducible first
        | assumption | apply State.barWrite_in | apply State.tellerZero_in | apply inOut_ite | apply in_ite
        | apply InOut.next
    | exact Foot.sub hft rfl
    | split
    | intro _ _ _
    | intro _ _

def execQuery_foot : Foot := State.barWrite_foot ||| State.tellerQuery_foot
theorem execQuery_in {d slot : Nat} {s : State} (hks : In ft s0 s) (hft : execQuery_foot.le ft = true) :
    InOut ft s0 (execQuery d slot s) := by
  unfold execQuery
  repeat' first
    | with_reducible first
        | assumption | apply State.barWrite_in | apply State.tellerQuery_in | apply inOut_ite | apply in_ite
        | apply InOut.next
    | exact Foot.sub hft rfl
    | split
    | intro _ _ _
    | intro _ _

def State.svnCommit_foot : Foot := Fld.SVN_FUSE.foot
theorem State.svnCommit_in {s : State} (hks : In ft s0 s) (hft : State.svnCommit_foot.le ft = true) :
    In ft s0 (State.svnCommit s) := by
  unfold State.svnCommit
  repeat' first
    | with_reducible first | assumption | apply State.wr_in
    | exact Foot.sub hft rfl

def execSvnCommit_foot : Foot := State.barWrite_foot ||| State.svnCommit_foot
theorem execSvnCommit_in {s : State} (hks : In ft s0 s) (hft : execSvnCommit_foot.le ft = true) :
    InOut ft s0 (execSvnCommit s) := by
  unfold execSvnCommit
  repeat' first
    | with_reducible first | assumption | apply State.barWrite_in | apply State.svnCommit_in | apply InOut.next
    | exact Foot.sub hft rfl
    | intro _ _ _
    | intro _ _

def State.measure_foot : Foot := Part.sec.foot
theorem State.measure_in {s : State} {n v : Nat} (hks : In ft s0 s) (hft : State.measure_foot.le ft = true) :
    In ft s0 (State.measure s n v) := by
  unfold State.measure
  repeat' first
    | (extract_lets +onlyGivenNames x; clear_value x)
    | with_reducible first | assumption
    | exact Foot.sub hft rfl
    | with_reducible exact Or.inl rfl
    | exact Or.inr (Foot.sub hft rfl)
    | with_reducible apply InMk.of
    | simp -zeta only [in_mk_iff]

def State.bootImages_foot : Foot :=
  Fld.BOOT_DEV.foot ||| Fld.FW_DEV.foot ||| Fld.FW_SVN.foot ||| Fld.ROOT_KEY.foot ||| Part.sec.foot |||
    State.record_foot ||| State.alert_foot ||| State.measure_foot
theorem State.bootImages_in {s : State} (hks : In ft s0 s) (hft : State.bootImages_foot.le ft = true) :
    In ft s0 (State.bootImages s) := by
  unfold State.bootImages
  repeat' first
    | (extract_lets +onlyGivenNames x
       first
       | (have : In ft s0 x := by
            subst x
            repeat' first
              | (extract_lets +onlyGivenNames x; subst x)
              | with_reducible first
                  | assumption | apply State.wr_in | apply State.record_in | apply State.alert_in
                  | apply State.measure_in
              | exact Foot.sub hft rfl
              | with_reducible exact Or.inl rfl
              | exact Or.inr (Foot.sub hft rfl)
              | with_reducible apply InMk.of
              | simp -zeta only [in_mk_iff]
              | split
          clear_value x)
       | clear_value x
       | subst x)
    | with_reducible first
        | assumption | apply State.wr_in | apply State.record_in | apply State.alert_in | apply State.measure_in
    | exact Foot.sub hft rfl
    | with_reducible exact Or.inl rfl
    | exact Or.inr (Foot.sub hft rfl)
    | with_reducible apply InMk.of
    | simp -zeta only [in_mk_iff]
    | split

def State.spdmErr_foot : Foot := State.send_foot
theorem State.spdmErr_in {s : State} {op code : Nat} (hks : In ft s0 s) (hft : State.spdmErr_foot.le ft = true) :
    In ft s0 (State.spdmErr s op code) := by
  unfold State.spdmErr
  repeat' first
    | with_reducible first | assumption | apply State.send_in
    | exact Foot.sub hft rfl

def State.spdmOk_foot : Foot := State.send_foot
theorem State.spdmOk_in {s : State} {words : List Nat} (hks : In ft s0 s) (hft : State.spdmOk_foot.le ft = true) :
    In ft s0 (State.spdmOk s words) := by
  unfold State.spdmOk
  repeat' first
    | with_reducible first | assumption | apply State.send_in
    | exact Foot.sub hft rfl

def execGetMeasurements_foot : Foot := State.send_foot ||| State.spdmErr_foot
theorem execGetMeasurements_in {index nonce : Nat} {s : State} (hks : In ft s0 s)
    (hft : execGetMeasurements_foot.le ft = true) :
    InOut ft s0 (execGetMeasurements index nonce s) := by
  unfold execGetMeasurements
  repeat' first
    | (extract_lets +onlyGivenNames x; clear_value x)
    | with_reducible first
        | assumption | apply State.send_in | apply State.spdmErr_in | apply inOut_ite | apply in_ite
        | apply InOut.next
    | exact Foot.sub hft rfl
    | split

def execChallenge_foot : Foot := State.send_foot ||| State.spdmErr_foot
theorem execChallenge_in {slot nonce : Nat} {s : State} (hks : In ft s0 s) (hft : execChallenge_foot.le ft = true) :
    InOut ft s0 (execChallenge slot nonce s) := by
  unfold execChallenge
  repeat' first
    | with_reducible first
        | assumption | apply State.send_in | apply State.spdmErr_in | apply inOut_ite | apply in_ite
        | apply InOut.next
    | exact Foot.sub hft rfl
    | split

def execGetCertificate_foot : Foot := State.send_foot ||| State.spdmErr_foot
theorem execGetCertificate_in {slot : Nat} {s : State} (hks : In ft s0 s)
    (hft : execGetCertificate_foot.le ft = true) :
    InOut ft s0 (execGetCertificate slot s) := by
  unfold execGetCertificate
  repeat' first
    | (extract_lets +onlyGivenNames x; clear_value x)
    | with_reducible first
        | assumption | apply State.send_in | apply State.spdmErr_in | apply inOut_ite | apply in_ite
        | apply InOut.next
    | exact Foot.sub hft rfl
    | split

def execKeyExchange_foot : Foot :=
  Fld.SESSIONS.foot ||| Part.sec.foot ||| State.send_foot ||| State.drbg_foot ||| State.spdmErr_foot
theorem execKeyExchange_in {owner : Bool} {s : State} (hks : In ft s0 s) (hft : execKeyExchange_foot.le ft = true) :
    InOut ft s0 (execKeyExchange owner s) := by
  unfold execKeyExchange
  repeat' first
    | (extract_lets +onlyGivenNames x
       first
       | (have : In ft s0 x := by
            subst x
            repeat' first
              | (extract_lets +onlyGivenNames x; subst x)
              | with_reducible first
                  | assumption | apply State.wr_in | apply State.send_in | apply State.drbg_in
                  | apply State.spdmErr_in | apply inOut_ite | apply in_ite | apply inP_ite | apply InOut.next
              | exact Foot.sub hft rfl
              | with_reducible exact Or.inl rfl
              | exact Or.inr (Foot.sub hft rfl)
              | with_reducible apply InMk.of
              | simp -zeta only [in_mk_iff]
              | with_reducible refine InP.eq (by assumption) ?_
              | (with_reducible refine InP.fst ?_; with_reducible first | assumption | apply State.drbg_in)
              | split
              | with_reducible apply InP.pair
              | dsimp -zeta only
          clear_value x)
       | clear_value x
       | subst x)
    | with_reducible first
        | assumption | apply State.wr_in | apply State.send_in | apply State.drbg_in | apply State.spdmErr_in
        | apply inOut_ite | apply in_ite | apply inP_ite | apply InOut.next
    | exact Foot.sub hft rfl
    | with_reducible exact Or.inl rfl
    | exact Or.inr (Foot.sub hft rfl)
    | with_reducible apply InMk.of
    | simp -zeta only [in_mk_iff]
    | with_reducible refine InP.eq (by assumption) ?_
    | (with_reducible refine InP.fst ?_; with_reducible first | assumption | apply State.drbg_in)
    | split
    | with_reducible apply InP.pair
    | dsimp -zeta only

def State.kekSet_foot : Foot := Fld.TL_STATE_KEK_SET.foot ||| Fld.SEC_DKEK_SET_KEK_SET.foot
theorem State.kekSet_in {s : State} {d : Nat} {v : Bool} (hks : In ft s0 s) (hft : State.kekSet_foot.le ft = true) :
    In ft s0 (State.kekSet s d v) := by
  unfold State.kekSet
  repeat' first
    | with_reducible first | assumption | apply State.setfi_in | apply State.setBitOf_in
    | exact Foot.sub hft rfl

def execSetDomainKek_foot : Foot :=
  State.setKek_foot ||| State.spdmErr_foot ||| State.spdmOk_foot ||| State.kekSet_foot
theorem execSetDomainKek_in {sess d kek : Nat} {s : State} (hks : In ft s0 s)
    (hft : execSetDomainKek_foot.le ft = true) :
    InOut ft s0 (execSetDomainKek sess d kek s) := by
  unfold execSetDomainKek
  repeat' first
    | with_reducible first
        | assumption | apply State.when_in | apply State.setKek_in | apply State.spdmErr_in | apply State.spdmOk_in
        | apply State.kekSet_in | apply inOut_ite | apply in_ite | apply InOut.next
    | exact Foot.sub hft rfl
    | split
    | intro _ _ _
    | intro _ _

def execClearDomainKek_foot : Foot :=
  State.clearKek_foot ||| State.spdmErr_foot ||| State.spdmOk_foot ||| State.kekSet_foot
theorem execClearDomainKek_in {sess d : Nat} {s : State} (hks : In ft s0 s)
    (hft : execClearDomainKek_foot.le ft = true) :
    InOut ft s0 (execClearDomainKek sess d s) := by
  unfold execClearDomainKek
  repeat' first
    | with_reducible first
        | assumption | apply State.when_in | apply State.clearKek_in | apply State.spdmErr_in | apply State.spdmOk_in
        | apply State.kekSet_in | apply inOut_ite | apply in_ite | apply InOut.next
    | exact Foot.sub hft rfl
    | split
    | intro _ _ _
    | intro _ _

def execWriteRecoveryImage_foot : Foot :=
  Part.boot.foot ||| State.bootImages_foot ||| State.spdmErr_foot ||| State.spdmOk_foot
theorem execWriteRecoveryImage_in {sess kind : Nat} {x : Img} {s : State} (hks : In ft s0 s)
    (hft : execWriteRecoveryImage_foot.le ft = true) :
    InOut ft s0 (execWriteRecoveryImage sess kind x s) := by
  unfold execWriteRecoveryImage
  repeat' first
    | (extract_lets +onlyGivenNames x
       first
       | (have : In ft s0 x := by
            subst x
            repeat' first
              | (extract_lets +onlyGivenNames x; subst x)
              | with_reducible first
                  | assumption | apply State.when_in | apply State.bootImages_in | apply State.spdmErr_in
                  | apply State.spdmOk_in | apply inOut_ite | apply in_ite | apply InOut.next
              | exact Foot.sub hft rfl
              | with_reducible exact Or.inl rfl
              | exact Or.inr (Foot.sub hft rfl)
              | with_reducible apply InMk.of
              | simp -zeta only [in_mk_iff]
              | split
              | intro _ _ _
              | intro _ _
          clear_value x)
       | clear_value x
       | subst x)
    | with_reducible first
        | assumption | apply State.when_in | apply State.bootImages_in | apply State.spdmErr_in
        | apply State.spdmOk_in | apply inOut_ite | apply in_ite | apply InOut.next
    | exact Foot.sub hft rfl
    | with_reducible exact Or.inl rfl
    | exact Or.inr (Foot.sub hft rfl)
    | with_reducible apply InMk.of
    | simp -zeta only [in_mk_iff]
    | split
    | intro _ _ _
    | intro _ _

def execWriteConfiguration_foot : Foot := Part.boot.foot ||| State.spdmErr_foot ||| State.spdmOk_foot
theorem execWriteConfiguration_in {sess : Nat} {c : Copy} {cut : Bool} {s : State} (hks : In ft s0 s)
    (hft : execWriteConfiguration_foot.le ft = true) :
    InOut ft s0 (execWriteConfiguration sess c cut s) := by
  unfold execWriteConfiguration
  repeat' first
    | (extract_lets +onlyGivenNames x
       first
       | (have : In ft s0 x := by
            subst x
            repeat' first
              | (extract_lets +onlyGivenNames x; subst x)
              | with_reducible first
                  | assumption | apply State.when_in | apply State.spdmErr_in | apply State.spdmOk_in
                  | apply foldl_in | apply inOut_ite | apply in_ite | apply inP_ite | apply InOut.next
              | exact Foot.sub hft rfl
              | with_reducible exact Or.inl rfl
              | exact Or.inr (Foot.sub hft rfl)
              | with_reducible apply InMk.of
              | simp -zeta only [in_mk_iff]
              | split
              | intro _ _ _
              | intro _ _
              | with_reducible apply InP.pair
          clear_value x)
       | clear_value x
       | subst x)
    | with_reducible first
        | assumption | apply State.when_in | apply State.spdmErr_in | apply State.spdmOk_in | apply foldl_in
        | apply inOut_ite | apply in_ite | apply inP_ite | apply InOut.next
    | exact Foot.sub hft rfl
    | with_reducible exact Or.inl rfl
    | exact Or.inr (Foot.sub hft rfl)
    | with_reducible apply InMk.of
    | simp -zeta only [in_mk_iff]
    | split
    | intro _ _ _
    | intro _ _
    | with_reducible apply InP.pair

end Sys2Proof.Machine
end

