-- ==== Sys2Proof/Laws/FrameBist.lean ====
section
/-! SUPPORT. The footprints of the operations of Machine/Bist (Laws/Frame). -/

namespace Sys2Proof.Machine

variable {ft : Foot} {s0 : State}

def State.fifoRegs_foot : Foot := Fld.RES_USED.foot ||| Fld.RES.foot
theorem State.fifoRegs_in {s : State} (hks : In ft s0 s) (hft : State.fifoRegs_foot.le ft = true) :
    In ft s0 (State.fifoRegs s) := by
  unfold State.fifoRegs
  repeat' first
    | (extract_lets +onlyGivenNames x
       first
       | (have : In ft s0 x := by
            subst x
            repeat' first
              | (extract_lets +onlyGivenNames x; subst x)
              | with_reducible first | assumption | apply State.wri_in | apply State.wr_in
              | exact Foot.sub hft rfl
          clear_value x)
       | clear_value x
       | subst x)
    | with_reducible first | assumption | apply State.wri_in | apply State.wr_in
    | exact Foot.sub hft rfl

def State.testFail_foot : Foot :=
  Fld.RES_OVF.foot ||| Fld.FAIL_CNT.foot ||| Fld.BST_FLAGS_CNT_OVF.foot ||| Part.bst.foot ||| State.count_foot |||
    State.fifoRegs_foot
theorem State.testFail_in {s : State} {w mask : Nat} (hks : In ft s0 s) (hft : State.testFail_foot.le ft = true) :
    In ft s0 (State.testFail s w mask) := by
  unfold State.testFail
  repeat' first
    | (extract_lets +onlyGivenNames x
       first
       | (have : In ft s0 x := by
            subst x
            repeat' first
              | with_reducible first
                  | assumption | apply State.setf_in | apply State.count_in | apply State.fifoRegs_in | apply in_ite
              | exact Foot.sub hft rfl
              | with_reducible exact Or.inl rfl
              | exact Or.inr (Foot.sub hft rfl)
              | with_reducible apply InMk.of
              | simp -zeta only [in_mk_iff]
              | split
          clear_value x)
       | clear_value x
       | subst x)
    | with_reducible first
        | assumption | apply State.setf_in | apply State.count_in | apply State.fifoRegs_in | apply in_ite
    | exact Foot.sub hft rfl
    | with_reducible exact Or.inl rfl
    | exact Or.inr (Foot.sub hft rfl)
    | with_reducible apply InMk.of
    | simp -zeta only [in_mk_iff]
    | split

def State.unitRecord_foot : Foot := State.record_foot
theorem State.unitRecord_in {s : State} {test ch unit : Nat} (hks : In ft s0 s)
    (hft : State.unitRecord_foot.le ft = true) :
    In ft s0 (State.unitRecord s test ch unit) := by
  unfold State.unitRecord
  repeat' first
    | with_reducible first | assumption | apply State.record_in
    | exact Foot.sub hft rfl

def State.pop_foot : Foot := Part.bst.foot ||| State.fifoRegs_foot
theorem State.pop_in {s : State} (hks : In ft s0 s) (hft : State.pop_foot.le ft = true) :
    In ft s0 (State.pop s) := by
  unfold State.pop
  repeat' first
    | (extract_lets +onlyGivenNames x; clear_value x)
    | with_reducible first | assumption | apply State.fifoRegs_in
    | exact Foot.sub hft rfl
    | with_reducible exact Or.inl rfl
    | exact Or.inr (Foot.sub hft rfl)
    | with_reducible apply InMk.of
    | simp -zeta only [in_mk_iff]

def execPop_foot : Foot := State.barWrite_foot ||| State.pop_foot
theorem execPop_in {s : State} (hks : In ft s0 s) (hft : execPop_foot.le ft = true) :
    InOut ft s0 (execPop s) := by
  unfold execPop
  repeat' first
    | with_reducible first | assumption | apply State.barWrite_in | apply State.pop_in | apply InOut.next
    | exact Foot.sub hft rfl
    | intro _ _ _
    | intro _ _

def State.bstStart_foot : Foot :=
  Fld.REFUSED.foot ||| Fld.BST_STATUS_BUSY.foot ||| Fld.TEST_NOW.foot ||| Fld.UNITS_LEFT.foot ||| Part.bst.foot
theorem State.bstStart_in {s : State} {test ch rank group : Nat} (hks : In ft s0 s)
    (hft : State.bstStart_foot.le ft = true) :
    In ft s0 (State.bstStart s test ch rank group) := by
  unfold State.bstStart
  repeat' first
    | (extract_lets +onlyGivenNames x
       first
       | (have : In ft s0 x := by
            subst x
            repeat' first
              | (extract_lets +onlyGivenNames x; subst x)
              | with_reducible first | assumption | apply State.wr_in | apply State.setf_in | apply in_ite
              | exact Foot.sub hft rfl
              | with_reducible exact Or.inl rfl
              | exact Or.inr (Foot.sub hft rfl)
              | with_reducible apply InMk.of
              | simp -zeta only [in_mk_iff]
              | split
          clear_value x)
       | clear_value x
       | subst x)
    | with_reducible first | assumption | apply State.wr_in | apply State.setf_in | apply in_ite
    | exact Foot.sub hft rfl
    | with_reducible exact Or.inl rfl
    | exact Or.inr (Foot.sub hft rfl)
    | with_reducible apply InMk.of
    | simp -zeta only [in_mk_iff]
    | split

def execDramRow_foot : Foot := State.barWrite_foot ||| State.bstStart_foot
theorem execDramRow_in {ch rank : Nat} {s : State} (hks : In ft s0 s) (hft : execDramRow_foot.le ft = true) :
    InOut ft s0 (execDramRow ch rank s) := by
  unfold execDramRow
  repeat' first
    | with_reducible first | assumption | apply State.barWrite_in | apply State.bstStart_in | apply InOut.next
    | exact Foot.sub hft rfl
    | intro _ _ _
    | intro _ _

def execFchMarch_foot : Foot := State.barWrite_foot ||| State.bstStart_foot
theorem execFchMarch_in {sl group : Nat} {s : State} (hks : In ft s0 s) (hft : execFchMarch_foot.le ft = true) :
    InOut ft s0 (execFchMarch sl group s) := by
  unfold execFchMarch
  repeat' first
    | with_reducible first | assumption | apply State.barWrite_in | apply State.bstStart_in | apply InOut.next
    | exact Foot.sub hft rfl
    | intro _ _ _
    | intro _ _

def execCipKat_foot : Foot := State.barWrite_foot ||| State.bstStart_foot
theorem execCipKat_in {cluster : Nat} {s : State} (hks : In ft s0 s) (hft : execCipKat_foot.le ft = true) :
    InOut ft s0 (execCipKat cluster s) := by
  unfold execCipKat
  repeat' first
    | with_reducible first | assumption | apply State.barWrite_in | apply State.bstStart_in | apply InOut.next
    | exact Foot.sub hft rfl
    | intro _ _ _
    | intro _ _

def State.bstAbort_foot : Foot := Part.bst.foot ||| State.bstStop_foot
theorem State.bstAbort_in {s : State} (hks : In ft s0 s) (hft : State.bstAbort_foot.le ft = true) :
    In ft s0 (State.bstAbort s) := by
  unfold State.bstAbort
  repeat' first
    | (extract_lets +onlyGivenNames x; clear_value x)
    | with_reducible first | assumption | apply State.bstStop_in | apply in_ite
    | exact Foot.sub hft rfl
    | with_reducible exact Or.inl rfl
    | exact Or.inr (Foot.sub hft rfl)
    | with_reducible apply InMk.of
    | simp -zeta only [in_mk_iff]
    | split

def execAbort_foot : Foot := State.barWrite_foot ||| State.bstAbort_foot
theorem execAbort_in {s : State} (hks : In ft s0 s) (hft : execAbort_foot.le ft = true) :
    InOut ft s0 (execAbort s) := by
  unfold execAbort
  repeat' first
    | with_reducible first | assumption | apply State.barWrite_in | apply State.bstAbort_in | apply InOut.next
    | exact Foot.sub hft rfl
    | intro _ _ _
    | intro _ _

def State.rowInval_foot : Foot := State.dropWay_foot ||| State.writeBack_foot
theorem State.rowInval_in {s : State} (hks : In ft s0 s) (hft : State.rowInval_foot.le ft = true) :
    In ft s0 (State.rowInval s) := by
  unfold State.rowInval
  repeat' first
    | (extract_lets +onlyGivenNames x; clear_value x)
    | with_reducible first | assumption | apply State.each_in | apply State.dropWay_in | apply State.writeBack_in
    | exact Foot.sub hft rfl
    | intro _ _ _
    | intro _ _

def State.feedRepair_foot : Foot := State.addRepair_foot ||| State.hardFault_foot ||| State.ladderRun_foot
theorem State.feedRepair_in {s : State} {all : List RowFail} {f : RowFail} (hks : In ft s0 s)
    (hft : State.feedRepair_foot.le ft = true) :
    In ft s0 (State.feedRepair s all f) := by
  unfold State.feedRepair
  repeat' first
    | (extract_lets +onlyGivenNames x
       first
       | (have : In ft s0 x := by
            subst x
            repeat' first
              | (extract_lets +onlyGivenNames x; subst x)
              | with_reducible first
                  | assumption | apply State.addRepair_in | apply State.hardFault_in | apply State.ladderRun_in
                  | apply in_ite | apply inP_ite
              | exact Foot.sub hft rfl
              | with_reducible refine InP.eq (by assumption) ?_
              | (with_reducible refine InP.fst ?_; with_reducible first | assumption | apply State.ladderRun_in)
              | split
              | with_reducible apply InP.pair
              | dsimp -zeta only
          clear_value x)
       | clear_value x
       | subst x)
    | with_reducible first
        | assumption | apply State.addRepair_in | apply State.hardFault_in | apply State.ladderRun_in | apply in_ite
        | apply inP_ite
    | exact Foot.sub hft rfl
    | with_reducible refine InP.eq (by assumption) ?_
    | (with_reducible refine InP.fst ?_; with_reducible first | assumption | apply State.ladderRun_in)
    | split
    | with_reducible apply InP.pair
    | dsimp -zeta only

def State.unitEnd_foot : Foot :=
  Fld.UNITS_LEFT.foot ||| Fld.UNITS_CNT.foot ||| Fld.BST_FLAGS_CNT_OVF.foot ||| Part.bst.foot |||
    State.count_foot ||| State.bstStop_foot ||| State.testFail_foot ||| State.unitRecord_foot |||
    State.feedRepair_foot
theorem State.unitEnd_in {s : State} (hks : In ft s0 s) (hft : State.unitEnd_foot.le ft = true) :
    In ft s0 (State.unitEnd s) := by
  unfold State.unitEnd
  repeat' first
    | (extract_lets +onlyGivenNames x
       first
       | (have : In ft s0 x := by
            subst x
            repeat' first
              | (extract_lets +onlyGivenNames x; subst x)
              | with_reducible first
                  | assumption | apply State.wr_in | apply State.each_in | apply State.count_in
                  | apply State.bstStop_in | apply State.testFail_in | apply State.unitRecord_in
                  | apply State.feedRepair_in | apply in_ite
              | exact Foot.sub hft rfl
              | with_reducible exact Or.inl rfl
              | exact Or.inr (Foot.sub hft rfl)
              | with_reducible apply InMk.of
              | simp -zeta only [in_mk_iff]
              | split
              | intro _ _ _
              | intro _ _
          clear_value x)
       | clear_value x
       | subst x)
    | with_reducible first
        | assumption | apply State.wr_in | apply State.each_in | apply State.count_in | apply State.bstStop_in
        | apply State.testFail_in | apply State.unitRecord_in | apply State.feedRepair_in | apply in_ite
    | exact Foot.sub hft rfl
    | with_reducible exact Or.inl rfl
    | exact Or.inr (Foot.sub hft rfl)
    | with_reducible apply InMk.of
    | simp -zeta only [in_mk_iff]
    | split
    | intro _ _ _
    | intro _ _

def State.rowSlice_foot : Foot :=
  Part.bst.foot ||| State.sliceTime_foot ||| State.rowInval_foot ||| State.unitEnd_foot
theorem State.rowSlice_in {s : State} {x : TickIn} (hks : In ft s0 s) (hft : State.rowSlice_foot.le ft = true) :
    In ft s0 (State.rowSlice s x) := by
  unfold State.rowSlice
  repeat' first
    | (extract_lets +onlyGivenNames x; clear_value x)
    | with_reducible first
        | assumption | apply State.sliceTime_in | apply State.rowInval_in | apply State.unitEnd_in | apply in_ite
    | exact Foot.sub hft rfl
    | with_reducible exact Or.inl rfl
    | exact Or.inr (Foot.sub hft rfl)
    | with_reducible apply InMk.of
    | simp -zeta only [in_mk_iff]
    | split

def State.marchSlice_foot : Foot :=
  Fld.INV_DONE.foot ||| Fld.UNITS_CNT.foot ||| Fld.BST_FLAGS_CNT_OVF.foot ||| Part.bst.foot |||
    State.count_foot ||| State.bstStop_foot ||| State.disableWay_foot ||| State.testFail_foot |||
    State.unitRecord_foot
theorem State.marchSlice_in {s : State} {x : TickIn} (hks : In ft s0 s) (hft : State.marchSlice_foot.le ft = true) :
    In ft s0 (State.marchSlice s x) := by
  unfold State.marchSlice
  repeat' first
    | (extract_lets +onlyGivenNames x
       first
       | (have : In ft s0 x := by
            subst x
            repeat' first
              | (extract_lets +onlyGivenNames x; subst x)
              | with_reducible first
                  | assumption | apply State.setBitOf_in | apply State.when_in | apply State.each_in
                  | apply State.count_in | apply State.bstStop_in | apply State.disableWay_in
                  | apply State.testFail_in | apply State.unitRecord_in | apply in_ite
              | exact Foot.sub hft rfl
              | with_reducible exact Or.inl rfl
              | exact Or.inr (Foot.sub hft rfl)
              | with_reducible apply InMk.of
              | simp -zeta only [in_mk_iff]
              | split
              | intro _ _ _
              | intro _ _
          clear_value x)
       | clear_value x
       | subst x)
    | with_reducible first
        | assumption | apply State.setBitOf_in | apply State.when_in | apply State.each_in | apply State.count_in
        | apply State.bstStop_in | apply State.disableWay_in | apply State.testFail_in | apply State.unitRecord_in
        | apply in_ite
    | exact Foot.sub hft rfl
    | with_reducible exact Or.inl rfl
    | exact Or.inr (Foot.sub hft rfl)
    | with_reducible apply InMk.of
    | simp -zeta only [in_mk_iff]
    | split
    | intro _ _ _
    | intro _ _

def State.katSlice_foot : Foot :=
  Fld.UNITS_CNT.foot ||| Fld.BST_FLAGS_CNT_OVF.foot ||| State.count_foot ||| State.bstStop_foot |||
    State.testFail_foot ||| State.unitRecord_foot
theorem State.katSlice_in {s : State} {x : TickIn} (hks : In ft s0 s) (hft : State.katSlice_foot.le ft = true) :
    In ft s0 (State.katSlice s x) := by
  unfold State.katSlice
  repeat' first
    | (extract_lets +onlyGivenNames x
       first
       | (have : In ft s0 x := by
            subst x
            repeat' first
              | with_reducible first
                  | assumption | apply State.count_in | apply State.bstStop_in | apply State.testFail_in
                  | apply State.unitRecord_in | apply in_ite
              | exact Foot.sub hft rfl
              | split
          clear_value x)
       | clear_value x
       | subst x)
    | with_reducible first
        | assumption | apply State.count_in | apply State.bstStop_in | apply State.testFail_in
        | apply State.unitRecord_in | apply in_ite
    | exact Foot.sub hft rfl
    | split

def State.testSlice_foot : Foot := State.rowSlice_foot ||| State.marchSlice_foot ||| State.katSlice_foot
theorem State.testSlice_in {s : State} {x : TickIn} (hks : In ft s0 s) (hft : State.testSlice_foot.le ft = true) :
    In ft s0 (State.testSlice s x) := by
  unfold State.testSlice
  repeat' first
    | with_reducible first
        | assumption | apply State.rowSlice_in | apply State.marchSlice_in | apply State.katSlice_in | apply in_ite
    | exact Foot.sub hft rfl
    | split

def State.coreOff_foot : Foot := Fld.REFUSED.foot ||| Fld.CORE_OFF.foot ||| Fld.CORE_ON.foot
theorem State.coreOff_in {s : State} {v : Nat} (hks : In ft s0 s) (hft : State.coreOff_foot.le ft = true) :
    In ft s0 (State.coreOff s v) := by
  unfold State.coreOff
  repeat' first
    | with_reducible first | assumption | apply State.wr_in | apply State.setf_in | apply in_ite
    | exact Foot.sub hft rfl
    | split

def execCoreOffWrite_foot : Foot := State.barWrite_foot ||| State.coreOff_foot
theorem execCoreOffWrite_in {v : Nat} {s : State} (hks : In ft s0 s) (hft : execCoreOffWrite_foot.le ft = true) :
    InOut ft s0 (execCoreOffWrite v s) := by
  unfold execCoreOffWrite
  repeat' first
    | with_reducible first | assumption | apply State.barWrite_in | apply State.coreOff_in | apply InOut.next
    | exact Foot.sub hft rfl
    | intro _ _ _
    | intro _ _

end Sys2Proof.Machine
end

