-- ==== Sys2Proof/Laws/FrameStart.lean ====
section
/-! SUPPORT. The footprints of the operations of Machine/Start (Laws/Frame). -/

namespace Sys2Proof.Machine

variable {ft : Foot} {s0 : State}

def execCorePhaseEnd_foot : Foot :=
  Fld.POWER_CYCLES.foot ||| Fld.BOOT_SPI.foot ||| Fld.SAFE.foot ||| Fld.SEQ_STATE.foot ||| Fld.SPI_A_BAD.foot |||
    Fld.SPI_B_BAD.foot ||| Fld.SPI_A_FAIL.foot ||| Fld.SPI_B_FAIL.foot ||| State.setPwr_foot |||
    State.bootImages_foot
theorem execCorePhaseEnd_in {bootSpi safe badA badB : Bool} {s : State} (hks : In ft s0 s)
    (hft : execCorePhaseEnd_foot.le ft = true) :
    InOut ft s0 (execCorePhaseEnd bootSpi safe badA badB s) := by
  unfold execCorePhaseEnd
  repeat' first
    | (extract_lets +onlyGivenNames x
       first
       | (have : In ft s0 x := by
            subst x
            repeat' first
              | (extract_lets +onlyGivenNames x; subst x)
              | with_reducible first
                  | assumption | apply State.wr_in | apply State.setf_in | apply State.when_in
                  | apply State.setPwr_in | apply State.bootImages_in | apply inOut_ite | apply in_ite
                  | apply InOut.next
              | exact Foot.sub hft rfl
              | with_reducible exact Or.inl rfl
              | exact Or.inr (Foot.sub hft rfl)
              | with_reducible apply InMk.of
              | simp -zeta only [in_mk_iff]
              | split
              | intro _ _ _
              | intro _ _
          clear_value x)
       | clear_value x
       | subst x)
    | with_reducible first
        | assumption | apply State.wr_in | apply State.setf_in | apply State.when_in | apply State.setPwr_in
        | apply State.bootImages_in | apply inOut_ite | apply in_ite | apply InOut.next
    | exact Foot.sub hft rfl
    | with_reducible exact Or.inl rfl
    | exact Or.inr (Foot.sub hft rfl)
    | with_reducible apply InMk.of
    | simp -zeta only [in_mk_iff]
    | split
    | intro _ _ _
    | intro _ _

def execSysRstNAssert_foot : Foot := Part.sec.foot ||| Part.boot.foot ||| State.trigger_foot ||| State.setPwr_foot
theorem execSysRstNAssert_in {s : State} (hks : In ft s0 s) (hft : execSysRstNAssert_foot.le ft = true) :
    InOut ft s0 (execSysRstNAssert s) := by
  unfold execSysRstNAssert
  repeat' first
    | (extract_lets +onlyGivenNames x
       first
       | (have : In ft s0 x := by
            subst x
            repeat' first
              | (extract_lets +onlyGivenNames x; subst x)
              | with_reducible first
                  | assumption | apply State.trigger_in | apply State.setPwr_in | apply inOut_ite | apply in_ite
                  | apply InOut.next
              | exact Foot.sub hft rfl
              | with_reducible exact Or.inl rfl
              | exact Or.inr (Foot.sub hft rfl)
              | with_reducible apply InMk.of
              | simp -zeta only [in_mk_iff]
              | split
              | intro _ _ _
              | intro _ _
          clear_value x)
       | clear_value x
       | subst x)
    | with_reducible first
        | assumption | apply State.trigger_in | apply State.setPwr_in | apply inOut_ite | apply in_ite
        | apply InOut.next
    | exact Foot.sub hft rfl
    | with_reducible exact Or.inl rfl
    | exact Or.inr (Foot.sub hft rfl)
    | with_reducible apply InMk.of
    | simp -zeta only [in_mk_iff]
    | split
    | intro _ _ _
    | intro _ _

def execSysRstNDeassert_foot : Foot := State.setPwr_foot ||| State.startUpRailsUp_foot ||| State.bootImages_foot
theorem execSysRstNDeassert_in {s : State} (hks : In ft s0 s) (hft : execSysRstNDeassert_foot.le ft = true) :
    InOut ft s0 (execSysRstNDeassert s) := by
  unfold execSysRstNDeassert
  repeat' first
    | (extract_lets +onlyGivenNames x
       first
       | (have : In ft s0 x := by
            subst x
            repeat' first
              | (extract_lets +onlyGivenNames x; subst x)
              | with_reducible first
                  | assumption | apply State.setPwr_in | apply State.startUpRailsUp_in | apply State.bootImages_in
                  | apply inOut_ite | apply in_ite | apply InOut.next
              | exact Foot.sub hft rfl
              | with_reducible exact Or.inl rfl
              | exact Or.inr (Foot.sub hft rfl)
              | with_reducible apply InMk.of
              | simp -zeta only [in_mk_iff]
              | split
              | intro _ _ _
              | intro _ _
          clear_value x)
       | clear_value x
       | subst x)
    | with_reducible first
        | assumption | apply State.setPwr_in | apply State.startUpRailsUp_in | apply State.bootImages_in
        | apply inOut_ite | apply in_ite | apply InOut.next
    | exact Foot.sub hft rfl
    | with_reducible exact Or.inl rfl
    | exact Or.inr (Foot.sub hft rfl)
    | with_reducible apply InMk.of
    | simp -zeta only [in_mk_iff]
    | split
    | intro _ _ _
    | intro _ _

def State.loadFld_foot : Foot :=
  State.slotPwr_foot ||| State.setPwr_foot ||| State.storeFld_foot ||| State.fenceWrite_foot
theorem State.loadFld_in {s : State} {f : Fld} {i v : Nat} (hks : In ft s0 s) (hf : f.foot.le ft = true)
    (hft : State.loadFld_foot.le ft = true) :
    In ft s0 (State.loadFld s f i v) := by
  unfold State.loadFld
  repeat' first
    | (extract_lets +onlyGivenNames x; clear_value x)
    | with_reducible first
        | assumption | apply State.slotPwr_in | apply State.setPwr_in | apply State.storeFld_in
        | apply State.fenceWrite_in | apply in_ite
    | exact Foot.sub hft rfl
    | with_reducible exact Or.inl rfl
    | exact Or.inr (Foot.sub hft rfl)
    | with_reducible apply InMk.of
    | simp -zeta only [in_mk_iff]
    | split
    | intro _ _ _
    | intro _ _

def State.applyEntry_foot : Foot :=
  State.record_foot ||| State.settleCheck_foot ||| State.loadFld_foot ||| Foot.allFlds
theorem State.applyEntry_in {s : State} {e : Nat × Nat × Nat} (hks : In ft s0 s)
    (hft : State.applyEntry_foot.le ft = true) :
    In ft s0 (State.applyEntry s e) := by
  unfold State.applyEntry
  repeat' first
    | (extract_lets +onlyGivenNames x
       first
       | (have : In ft s0 x := by
            subst x
            repeat' first
              | (extract_lets +onlyGivenNames x; subst x)
              | with_reducible first
                  | assumption | apply State.each_in | apply State.record_in | apply State.settleCheck_in
                  | apply State.loadFld_in | apply in_ite
              | exact Foot.sub hft rfl
              | exact Foot.le_trans (Fld.le_all _) (Foot.sub hft rfl)
              | split
              | intro _ _ _
              | intro _ _
          clear_value x)
       | clear_value x
       | subst x)
    | with_reducible first
        | assumption | apply State.each_in | apply State.record_in | apply State.settleCheck_in
        | apply State.loadFld_in | apply in_ite
    | exact Foot.sub hft rfl
    | exact Foot.le_trans (Fld.le_all _) (Foot.sub hft rfl)
    | split
    | intro _ _ _
    | intro _ _

def State.cacheStart_foot : Foot :=
  Fld.WAY_DIS.foot ||| Fld.SLICE_EN.foot ||| Fld.DRAIN_FIXED_US.foot ||| State.record_foot ||| State.alert_foot |||
    State.testFail_foot
theorem State.cacheStart_in {s : State} {ways : List (Nat × Nat)} {disable : List (Nat × Bool × Nat)}
    (hks : In ft s0 s) (hft : State.cacheStart_foot.le ft = true) :
    In ft s0 (State.cacheStart s ways disable) := by
  unfold State.cacheStart
  repeat' first
    | (extract_lets +onlyGivenNames x
       first
       | (have : In ft s0 x := by
            subst x
            repeat' first
              | (extract_lets +onlyGivenNames x; subst x)
              | with_reducible first
                  | assumption | apply State.wri_in | apply State.wr_in | apply State.setBitOf_in
                  | apply State.when_in | apply State.each_in | apply State.record_in | apply State.alert_in
                  | apply State.testFail_in | apply foldl_in
              | exact Foot.sub hft rfl
              | intro _ _ _
              | intro _ _
              | with_reducible apply InP.pair
          clear_value x)
       | clear_value x
       | subst x)
    | with_reducible first
        | assumption | apply State.wri_in | apply State.wr_in | apply State.setBitOf_in | apply State.when_in
        | apply State.each_in | apply State.record_in | apply State.alert_in | apply State.testFail_in
        | apply foldl_in
    | exact Foot.sub hft rfl
    | intro _ _ _
    | intro _ _
    | with_reducible apply InP.pair

def State.afterLoad_foot : Foot :=
  Fld.PG_STATE.foot ||| Fld.LOCK_EN.foot ||| Fld.LOCK_ERR.foot ||| State.floors_foot ||| State.qpOwner_foot |||
    State.mirrorRoles_foot ||| State.slotPwr_foot
theorem State.afterLoad_in {s : State} (hks : In ft s0 s) (hft : State.afterLoad_foot.le ft = true) :
    In ft s0 (State.afterLoad s) := by
  unfold State.afterLoad
  repeat' first
    | (extract_lets +onlyGivenNames x
       first
       | (have : In ft s0 x := by
            subst x
            repeat' first
              | (extract_lets +onlyGivenNames x; subst x)
              | with_reducible first
                  | assumption | apply State.wri_in | apply State.setf_in | apply State.setfi_in
                  | apply State.each_in | apply State.floors_in | apply State.qpOwner_in | apply State.mirrorRoles_in
                  | apply State.slotPwr_in | apply in_ite
              | exact Foot.sub hft rfl
              | split
              | intro _ _ _
              | intro _ _
          clear_value x)
       | clear_value x
       | subst x)
    | with_reducible first
        | assumption | apply State.wri_in | apply State.setf_in | apply State.setfi_in | apply State.each_in
        | apply State.floors_in | apply State.qpOwner_in | apply State.mirrorRoles_in | apply State.slotPwr_in
        | apply in_ite
    | exact Foot.sub hft rfl
    | split
    | intro _ _ _
    | intro _ _

def State.applyCopy_foot : Foot :=
  Fld.SAFE_START.foot ||| Part.boot.foot ||| State.record_foot ||| State.alert_foot ||| State.measure_foot |||
    State.applyEntry_foot ||| State.cacheStart_foot
theorem State.applyCopy_in {s : State} {x : StartIn} (hks : In ft s0 s) (hft : State.applyCopy_foot.le ft = true) :
    In ft s0 (State.applyCopy s x) := by
  unfold State.applyCopy
  repeat' first
    | (extract_lets +onlyGivenNames x
       first
       | (have : In ft s0 x := by
            subst x
            repeat' first
              | (extract_lets +onlyGivenNames x; subst x)
              | with_reducible first
                  | assumption | apply State.setf_in | apply State.each_in | apply State.record_in
                  | apply State.alert_in | apply State.measure_in | apply State.applyEntry_in
                  | apply State.cacheStart_in | apply in_ite
              | exact Foot.sub hft rfl
              | with_reducible exact Or.inl rfl
              | exact Or.inr (Foot.sub hft rfl)
              | with_reducible apply InMk.of
              | simp -zeta only [in_mk_iff]
              | split
              | intro _ _ _
              | intro _ _
          clear_value x)
       | clear_value x
       | subst x)
    | with_reducible first
        | assumption | apply State.setf_in | apply State.each_in | apply State.record_in | apply State.alert_in
        | apply State.measure_in | apply State.applyEntry_in | apply State.cacheStart_in | apply in_ite
    | exact Foot.sub hft rfl
    | with_reducible exact Or.inl rfl
    | exact Or.inr (Foot.sub hft rfl)
    | with_reducible apply InMk.of
    | simp -zeta only [in_mk_iff]
    | split
    | intro _ _ _
    | intro _ _

def execServiceFirmwareStart_foot : Foot :=
  Fld.DDR5_BAD.foot ||| Fld.NAND_BAD.foot ||| Part.fgv.foot ||| Part.boot.foot ||| State.boardPhase_foot |||
    State.testFail_foot ||| State.unitRecord_foot ||| State.afterLoad_foot ||| State.applyCopy_foot
theorem execServiceFirmwareStart_in {x : StartIn} {s : State} (hks : In ft s0 s)
    (hft : execServiceFirmwareStart_foot.le ft = true) :
    InOut ft s0 (execServiceFirmwareStart x s) := by
  unfold execServiceFirmwareStart
  repeat' first
    | (extract_lets +onlyGivenNames x
       first
       | (have : In ft s0 x := by
            subst x
            repeat' first
              | (extract_lets +onlyGivenNames x; subst x)
              | with_reducible first
                  | assumption | apply State.wr_in | apply State.each_in | apply State.boardPhase_in
                  | apply State.testFail_in | apply State.unitRecord_in | apply State.afterLoad_in
                  | apply State.applyCopy_in | apply inOut_ite | apply in_ite | apply InOut.next
              | exact Foot.sub hft rfl
              | with_reducible exact Or.inl rfl
              | exact Or.inr (Foot.sub hft rfl)
              | with_reducible apply InMk.of
              | simp -zeta only [in_mk_iff]
              | split
              | intro _ _ _
              | intro _ _
          clear_value x)
       | clear_value x
       | subst x)
    | with_reducible first
        | assumption | apply State.wr_in | apply State.each_in | apply State.boardPhase_in | apply State.testFail_in
        | apply State.unitRecord_in | apply State.afterLoad_in | apply State.applyCopy_in | apply inOut_ite
        | apply in_ite | apply InOut.next
    | exact Foot.sub hft rfl
    | with_reducible exact Or.inl rfl
    | exact Or.inr (Foot.sub hft rfl)
    | with_reducible apply InMk.of
    | simp -zeta only [in_mk_iff]
    | split
    | intro _ _ _
    | intro _ _

def State.retireRow_foot : Foot := Fld.POOL_FRAMES.foot ||| Fld.FREE_FRAMES.foot ||| State.setFrame_foot
theorem State.retireRow_in {s : State} {e : Nat} (hks : In ft s0 s) (hft : State.retireRow_foot.le ft = true) :
    In ft s0 (State.retireRow s e) := by
  unfold State.retireRow
  repeat' first
    | (extract_lets +onlyGivenNames x
       first
       | (have : In ft s0 x := by
            subst x
            repeat' first
              | with_reducible first | assumption | apply State.wr_in | apply State.each_in | apply State.setFrame_in
              | exact Foot.sub hft rfl
              | intro _ _ _
              | intro _ _
          clear_value x)
       | clear_value x
       | subst x)
    | with_reducible first | assumption | apply State.wr_in | apply State.each_in | apply State.setFrame_in
    | exact Foot.sub hft rfl
    | intro _ _ _
    | intro _ _

def State.startRepair_foot : Foot :=
  Fld.REPAIR_FAIL.foot ||| Part.int.foot ||| State.record_foot ||| State.retireRow_foot
theorem State.startRepair_in {s : State} {x : TrainIn} {own : Bool} {e : Nat} (hks : In ft s0 s)
    (hft : State.startRepair_foot.le ft = true) :
    In ft s0 (State.startRepair s x own e) := by
  unfold State.startRepair
  repeat' first
    | (extract_lets +onlyGivenNames x
       first
       | (have hgo : ∀ s, In ft s0 s → In ft s0 (x s) := by
            intro s hs
            subst x
            repeat' first
              | (extract_lets +onlyGivenNames x; subst x)
              | with_reducible first
                  | assumption | apply State.setf_in | apply State.record_in | apply State.retireRow_in
                  | apply in_ite
              | exact Foot.sub hft rfl
              | with_reducible exact Or.inl rfl
              | exact Or.inr (Foot.sub hft rfl)
              | with_reducible apply InMk.of
              | simp -zeta only [in_mk_iff]
              | split
          clear_value x)
       | (have : In ft s0 x := by
            subst x
            repeat' first
              | (extract_lets +onlyGivenNames x; subst x)
              | with_reducible first
                  | assumption | apply hgo | apply State.setf_in | apply State.record_in | apply State.retireRow_in
                  | apply in_ite
              | exact Foot.sub hft rfl
              | with_reducible exact Or.inl rfl
              | exact Or.inr (Foot.sub hft rfl)
              | with_reducible apply InMk.of
              | simp -zeta only [in_mk_iff]
              | split
          clear_value x)
       | clear_value x
       | subst x)
    | with_reducible first
        | assumption | apply hgo | apply State.setf_in | apply State.record_in | apply State.retireRow_in
        | apply in_ite
    | exact Foot.sub hft rfl
    | with_reducible exact Or.inl rfl
    | exact Or.inr (Foot.sub hft rfl)
    | with_reducible apply InMk.of
    | simp -zeta only [in_mk_iff]
    | split

def State.poolStart_foot : Foot := Fld.POOL_FRAMES.foot ||| Fld.FREE_FRAMES.foot ||| Part.tpe.foot
theorem State.poolStart_in {s : State} (hks : In ft s0 s) (hft : State.poolStart_foot.le ft = true) :
    In ft s0 (State.poolStart s) := by
  unfold State.poolStart
  repeat' first
    | (extract_lets +onlyGivenNames x
       first
       | (have : In ft s0 x := by
            subst x
            repeat' first
              | (extract_lets +onlyGivenNames x; subst x)
              | with_reducible first | assumption | apply State.wr_in
              | exact Foot.sub hft rfl
              | with_reducible exact Or.inl rfl
              | exact Or.inr (Foot.sub hft rfl)
              | with_reducible apply InMk.of
              | simp -zeta only [in_mk_iff]
          clear_value x)
       | clear_value x
       | subst x)
    | with_reducible first | assumption | apply State.wr_in
    | exact Foot.sub hft rfl
    | with_reducible exact Or.inl rfl
    | exact Or.inr (Foot.sub hft rfl)
    | with_reducible apply InMk.of
    | simp -zeta only [in_mk_iff]

def State.setRails_foot : Foot := Fld.REACTION.foot ||| Part.out.foot ||| State.dropRails_foot
theorem State.setRails_in {s : State} (hks : In ft s0 s) (hft : State.setRails_foot.le ft = true) :
    In ft s0 (State.setRails s) := by
  unfold State.setRails
  repeat' first
    | (extract_lets +onlyGivenNames x
       first
       | (have : In ft s0 x := by
            subst x
            repeat' first
              | (extract_lets +onlyGivenNames x; subst x)
              | with_reducible first
                  | assumption | apply State.wri_in | apply State.each_in | apply State.dropRails_in | apply in_ite
              | exact Foot.sub hft rfl
              | split
              | intro _ _ _
              | intro _ _
          clear_value x)
       | clear_value x
       | subst x)
    | with_reducible first
        | assumption | apply State.wri_in | apply State.each_in | apply State.dropRails_in | apply in_ite
    | exact Foot.sub hft rfl
    | split
    | intro _ _ _
    | intro _ _

def State.takeSet_foot : Foot :=
  Fld.CH_ACTIVE.foot ||| Fld.DATA_MTS.foot ||| Fld.DIMM_TYPE.foot ||| Fld.RANKS.foot ||| Fld.CH_CAP_GIB.foot |||
    Fld.TRAIN_DONE.foot ||| Fld.DRFM_AVAIL.foot ||| Fld.RD_CENTRE.foot ||| Fld.WR_CENTRE.foot |||
    Fld.VREF_RD.foot ||| Fld.EYE_STEPS.foot ||| Fld.RD_OFS.foot ||| Fld.WR_OFS.foot ||| Part.drc.foot |||
    State.record_foot ||| State.floors_foot ||| State.startRepair_foot ||| State.poolStart_foot |||
    State.setRails_foot
theorem State.takeSet_in {s : State} {x : TrainIn} {m mts : Nat} (hks : In ft s0 s)
    (hft : State.takeSet_foot.le ft = true) :
    In ft s0 (State.takeSet s x m mts) := by
  unfold State.takeSet
  repeat' first
    | (extract_lets +onlyGivenNames x
       first
       | (have : In ft s0 x := by
            subst x
            repeat' first
              | (extract_lets +onlyGivenNames x; subst x)
              | with_reducible first
                  | assumption | apply State.wri_in | apply State.wr_in | apply State.setf_in | apply State.setfi_in
                  | apply State.when_in | apply State.each_in | apply State.record_in | apply State.floors_in
                  | apply State.startRepair_in | apply State.poolStart_in | apply State.setRails_in | apply foldl_in
                  | apply in_ite | apply inP_ite
              | exact Foot.sub hft rfl
              | with_reducible exact Or.inl rfl
              | exact Or.inr (Foot.sub hft rfl)
              | with_reducible apply InMk.of
              | simp -zeta only [in_mk_iff]
              | split
              | intro _ _ _
              | intro _ _
              | with_reducible apply InP.pair
          clear_value x)
       | clear_value x
       | subst x)
    | with_reducible first
        | assumption | apply State.wri_in | apply State.wr_in | apply State.setf_in | apply State.setfi_in
        | apply State.when_in | apply State.each_in | apply State.record_in | apply State.floors_in
        | apply State.startRepair_in | apply State.poolStart_in | apply State.setRails_in | apply foldl_in
        | apply in_ite | apply inP_ite
    | exact Foot.sub hft rfl
    | with_reducible exact Or.inl rfl
    | exact Or.inr (Foot.sub hft rfl)
    | with_reducible apply InMk.of
    | simp -zeta only [in_mk_iff]
    | split
    | intro _ _ _
    | intro _ _
    | with_reducible apply InP.pair

def State.slotStart_foot : Foot :=
  Fld.ID_STATE.foot ||| Fld.REFUSE_CAUSE.foot ||| Fld.WEAR_PM.foot ||| Part.nfc.foot ||| State.chanState_foot |||
    State.rebuildLeft_foot ||| State.slotRegs_foot ||| State.chanMedia_foot ||| State.putRegs_foot |||
    Fld.FREE_BLK.foot ||| Fld.BAD_BLK.foot ||| Fld.PE_AVG.foot ||| Fld.PE_MAX.foot
theorem State.slotStart_in {s : State} {i : Nat} (hks : In ft s0 s) (hft : State.slotStart_foot.le ft = true) :
    In ft s0 (State.slotStart s i) := by
  unfold State.slotStart
  repeat' first
    | (extract_lets +onlyGivenNames x
       first
       | (have : In ft s0 x := by
            subst x
            repeat' first
              | (extract_lets +onlyGivenNames x; subst x)
              | with_reducible first
                  | assumption | apply State.wri_in | apply State.each_in | apply State.chanState_in
                  | apply State.rebuildLeft_in | apply State.slotRegs_in | apply State.chanMedia_in
                  | apply State.putRegs_in | apply in_ite
              | exact Foot.sub hft rfl
              | exact fun f hf => Foot.le_trans ((by decide +kernel : ∀ f ∈ [Fld.FREE_BLK, .BAD_BLK, .PE_AVG, .PE_MAX],
                    f.foot.le State.slotStart_foot = true) f hf) hft
              | with_reducible exact Or.inl rfl
              | exact Or.inr (Foot.sub hft rfl)
              | with_reducible apply InMk.of
              | simp -zeta only [in_mk_iff]
              | split
              | intro _ _ _
              | intro _ _
          clear_value x)
       | clear_value x
       | subst x)
    | with_reducible first
        | assumption | apply State.wri_in | apply State.each_in | apply State.chanState_in
        | apply State.rebuildLeft_in | apply State.slotRegs_in | apply State.chanMedia_in | apply State.putRegs_in
        | apply in_ite
    | exact Foot.sub hft rfl
    | exact fun f hf => Foot.le_trans ((by decide +kernel : ∀ f ∈ [Fld.FREE_BLK, .BAD_BLK, .PE_AVG, .PE_MAX],
          f.foot.le State.slotStart_foot = true) f hf) hft
    | with_reducible exact Or.inl rfl
    | exact Or.inr (Foot.sub hft rfl)
    | with_reducible apply InMk.of
    | simp -zeta only [in_mk_iff]
    | split
    | intro _ _ _
    | intro _ _

def State.mediaStart_foot : Foot :=
  Fld.DEGRADED_0.foot ||| Fld.DEGRADED_1.foot ||| Part.nfc.foot ||| State.record_foot ||| State.mediaReady_foot |||
    State.capTp_foot ||| State.putRegs_foot ||| State.slotStart_foot ||| Fld.SETTLE_SEQ.foot
theorem State.mediaStart_in {s : State} (hks : In ft s0 s) (hft : State.mediaStart_foot.le ft = true) :
    In ft s0 (State.mediaStart s) := by
  unfold State.mediaStart
  repeat' first
    | (extract_lets +onlyGivenNames x
       first
       | (have : In ft s0 x := by
            subst x
            repeat' first
              | (extract_lets +onlyGivenNames x; subst x)
              | with_reducible first
                  | assumption | apply State.setf_in | apply State.when_in | apply State.each_in
                  | apply State.record_in | apply State.mediaReady_in | apply State.capTp_in | apply State.putRegs_in
                  | apply State.slotStart_in | apply foldl_in
              | exact Foot.sub hft rfl
              | exact fun f hf => Foot.le_trans ((by decide +kernel : ∀ f ∈ [Fld.SETTLE_SEQ],
                    f.foot.le State.mediaStart_foot = true) f hf) hft
              | with_reducible exact Or.inl rfl
              | exact Or.inr (Foot.sub hft rfl)
              | with_reducible apply InMk.of
              | simp -zeta only [in_mk_iff]
              | intro _ _ _
              | intro _ _
              | with_reducible apply InP.pair
          clear_value x)
       | clear_value x
       | subst x)
    | with_reducible first
        | assumption | apply State.setf_in | apply State.when_in | apply State.each_in | apply State.record_in
        | apply State.mediaReady_in | apply State.capTp_in | apply State.putRegs_in | apply State.slotStart_in
        | apply foldl_in
    | exact Foot.sub hft rfl
    | exact fun f hf => Foot.le_trans ((by decide +kernel : ∀ f ∈ [Fld.SETTLE_SEQ],
          f.foot.le State.mediaStart_foot = true) f hf) hft
    | with_reducible exact Or.inl rfl
    | exact Or.inr (Foot.sub hft rfl)
    | with_reducible apply InMk.of
    | simp -zeta only [in_mk_iff]
    | intro _ _ _
    | intro _ _
    | with_reducible apply InP.pair

def State.rolesBack_foot : Foot := Fld.SENIOR.foot
theorem State.rolesBack_in {s : State} {r : Option Bool} (hks : In ft s0 s)
    (hft : State.rolesBack_foot.le ft = true) :
    In ft s0 (State.rolesBack s r) := by
  unfold State.rolesBack
  repeat' first
    | with_reducible first | assumption | apply State.setf_in
    | exact Foot.sub hft rfl

def State.mirBack_foot : Foot :=
  Fld.SSN_ISSUED.foot ||| Fld.SSN_ACKED.foot ||| Fld.TWIN_APPLIED.foot ||| Fld.PARTNER_UID.foot |||
    Fld.TOOK_OVER.foot ||| Fld.SOLO_PAGES.foot ||| State.mirEval_foot ||| State.setMir_foot |||
    State.rolesBack_foot
theorem State.mirBack_in {s : State} {m : MetaData} {abrupt : Bool} (hks : In ft s0 s)
    (hft : State.mirBack_foot.le ft = true) :
    In ft s0 (State.mirBack s m abrupt) := by
  unfold State.mirBack
  repeat' first
    | (extract_lets +onlyGivenNames x
       first
       | (have : In ft s0 x := by
            subst x
            repeat' first
              | (extract_lets +onlyGivenNames x; subst x)
              | with_reducible first
                  | assumption | apply State.wr_in | apply State.setf_in | apply State.mirEval_in
                  | apply State.setMir_in | apply State.rolesBack_in | apply in_ite
              | exact Foot.sub hft rfl
              | with_reducible exact Or.inl rfl
              | exact Or.inr (Foot.sub hft rfl)
              | with_reducible apply InMk.of
              | simp -zeta only [in_mk_iff]
              | split
              | intro _ _ _
              | intro _ _
          clear_value x)
       | clear_value x
       | subst x)
    | with_reducible first
        | assumption | apply State.wr_in | apply State.setf_in | apply State.mirEval_in | apply State.setMir_in
        | apply State.rolesBack_in | apply in_ite
    | exact Foot.sub hft rfl
    | with_reducible exact Or.inl rfl
    | exact Or.inr (Foot.sub hft rfl)
    | with_reducible apply InMk.of
    | simp -zeta only [in_mk_iff]
    | split
    | intro _ _ _
    | intro _ _

def State.calBack_foot : Foot :=
  Fld.HOLDUP_CAP_MEAS_MF.foot ||| Fld.DRAIN_POWER_MEAS_W.foot ||| Part.fgv.foot ||| State.rateRegs_foot
theorem State.calBack_in {s : State} (hks : In ft s0 s) (hft : State.calBack_foot.le ft = true) :
    In ft s0 (State.calBack s) := by
  unfold State.calBack
  repeat' first
    | (extract_lets +onlyGivenNames x
       first
       | (have : In ft s0 x := by
            subst x
            repeat' first
              | (extract_lets +onlyGivenNames x; subst x)
              | with_reducible first | assumption | apply State.wr_in | apply State.rateRegs_in
              | exact Foot.sub hft rfl
              | with_reducible exact Or.inl rfl
              | exact Or.inr (Foot.sub hft rfl)
              | with_reducible apply InMk.of
              | simp -zeta only [in_mk_iff]
          clear_value x)
       | clear_value x
       | subst x)
    | with_reducible first | assumption | apply State.wr_in | apply State.rateRegs_in
    | exact Foot.sub hft rfl
    | with_reducible exact Or.inl rfl
    | exact Or.inr (Foot.sub hft rfl)
    | with_reducible apply InMk.of
    | simp -zeta only [in_mk_iff]

def State.dcBack_foot : Foot := State.dcRegs_foot
theorem State.dcBack_in {s : State} (hks : In ft s0 s) (hft : State.dcBack_foot.le ft = true) :
    In ft s0 (State.dcBack s) := by
  unfold State.dcBack
  repeat' first
    | with_reducible first | assumption | apply State.each_in | apply State.dcRegs_in
    | exact Foot.sub hft rfl
    | intro _ _ _
    | intro _ _

def State.metaLoad_foot : Foot :=
  Part.md.foot ||| Part.jr.foot ||| Part.tpe.foot ||| Part.nfc.foot ||| Part.boot.foot ||| State.record_foot |||
    State.ledgerRegs_foot ||| State.refsReg_foot ||| State.capTp_foot ||| State.mirBack_foot |||
    State.calBack_foot ||| State.dcBack_foot
theorem State.metaLoad_in {s : State} {abrupt : Bool} (hks : In ft s0 s) (hft : State.metaLoad_foot.le ft = true) :
    In ft s0 (State.metaLoad s abrupt) := by
  unfold State.metaLoad
  repeat' first
    | (extract_lets +onlyGivenNames x
       first
       | (have : In ft s0 x := by
            subst x
            repeat' first
              | (extract_lets +onlyGivenNames x; subst x)
              | with_reducible first
                  | assumption | apply State.when_in | apply State.each_in | apply State.record_in
                  | apply State.ledgerRegs_in | apply State.refsReg_in | apply State.capTp_in
                  | apply State.mirBack_in | apply State.calBack_in | apply State.dcBack_in
              | exact Foot.sub hft rfl
              | with_reducible exact Or.inl rfl
              | exact Or.inr (Foot.sub hft rfl)
              | with_reducible apply InMk.of
              | simp -zeta only [in_mk_iff]
              | intro _ _ _
              | intro _ _
          clear_value x)
       | clear_value x
       | subst x)
    | with_reducible first
        | assumption | apply State.when_in | apply State.each_in | apply State.record_in | apply State.ledgerRegs_in
        | apply State.refsReg_in | apply State.capTp_in | apply State.mirBack_in | apply State.calBack_in
        | apply State.dcBack_in
    | exact Foot.sub hft rfl
    | with_reducible exact Or.inl rfl
    | exact Or.inr (Foot.sub hft rfl)
    | with_reducible apply InMk.of
    | simp -zeta only [in_mk_iff]
    | intro _ _ _
    | intro _ _

def State.keysRead_foot : Foot :=
  Part.sec.foot ||| Part.boot.foot ||| State.record_foot ||| State.alert_foot ||| State.putRegs_foot |||
    State.kekSet_foot ||| Fld.OWNER.foot ||| Fld.ANY.foot ||| Fld.MODE.foot
theorem State.keysRead_in {s : State} {ok : Bool} (hks : In ft s0 s) (hft : State.keysRead_foot.le ft = true) :
    In ft s0 (State.keysRead s ok) := by
  unfold State.keysRead
  repeat' first
    | (extract_lets +onlyGivenNames x
       first
       | (have : In ft s0 x := by
            subst x
            repeat' first
              | (extract_lets +onlyGivenNames x; subst x)
              | with_reducible first
                  | assumption | apply State.when_in | apply State.each_in | apply State.record_in
                  | apply State.alert_in | apply State.putRegs_in | apply State.kekSet_in | apply in_ite
              | exact Foot.sub hft rfl
              | exact fun f hf => Foot.le_trans ((by decide +kernel : ∀ f ∈ keyFlds,
                    f.foot.le State.keysRead_foot = true) f hf) hft
              | with_reducible exact Or.inl rfl
              | exact Or.inr (Foot.sub hft rfl)
              | with_reducible apply InMk.of
              | simp -zeta only [in_mk_iff]
              | split
              | intro _ _ _
              | intro _ _
          clear_value x)
       | clear_value x
       | subst x)
    | with_reducible first
        | assumption | apply State.when_in | apply State.each_in | apply State.record_in | apply State.alert_in
        | apply State.putRegs_in | apply State.kekSet_in | apply in_ite
    | exact Foot.sub hft rfl
    | exact fun f hf => Foot.le_trans ((by decide +kernel : ∀ f ∈ keyFlds,
          f.foot.le State.keysRead_foot = true) f hf) hft
    | with_reducible exact Or.inl rfl
    | exact Or.inr (Foot.sub hft rfl)
    | with_reducible apply InMk.of
    | simp -zeta only [in_mk_iff]
    | split
    | intro _ _ _
    | intro _ _

def State.katStart_foot : Foot :=
  Fld.CLUSTER_FAULT.foot ||| Fld.CLUSTER_ACTIVE.foot ||| Part.boot.foot ||| State.testFail_foot |||
    State.unitRecord_foot
theorem State.katStart_in {s : State} {bad : Nat} (hks : In ft s0 s) (hft : State.katStart_foot.le ft = true) :
    In ft s0 (State.katStart s bad) := by
  unfold State.katStart
  repeat' first
    | (extract_lets +onlyGivenNames x
       first
       | (have : In ft s0 x := by
            subst x
            repeat' first
              | (extract_lets +onlyGivenNames x; subst x)
              | with_reducible first
                  | assumption | apply State.setBitOf_in | apply State.each_in | apply State.testFail_in
                  | apply State.unitRecord_in
              | exact Foot.sub hft rfl
              | with_reducible exact Or.inl rfl
              | exact Or.inr (Foot.sub hft rfl)
              | with_reducible apply InMk.of
              | simp -zeta only [in_mk_iff]
              | intro _ _ _
              | intro _ _
          clear_value x)
       | clear_value x
       | subst x)
    | with_reducible first
        | assumption | apply State.setBitOf_in | apply State.each_in | apply State.testFail_in
        | apply State.unitRecord_in
    | exact Foot.sub hft rfl
    | with_reducible exact Or.inl rfl
    | exact Or.inr (Foot.sub hft rfl)
    | with_reducible apply InMk.of
    | simp -zeta only [in_mk_iff]
    | intro _ _ _
    | intro _ _

def State.restore_foot : Foot :=
  Fld.PATH.foot ||| Fld.REFILL_DONE.foot ||| State.record_foot ||| State.mirEval_foot ||| State.setMir_foot |||
    State.freshMeta_foot ||| State.mediaStart_foot ||| State.rolesBack_foot ||| State.metaLoad_foot |||
    State.keysRead_foot ||| State.katStart_foot
theorem State.restore_in {s : State} {x : TrainIn} (hks : In ft s0 s) (hft : State.restore_foot.le ft = true) :
    In ft s0 (State.restore s x) := by
  unfold State.restore
  repeat' first
    | (extract_lets +onlyGivenNames x
       first
       | (have : In ft s0 x := by
            subst x
            repeat' first
              | (extract_lets +onlyGivenNames x; subst x)
              | with_reducible first
                  | assumption | apply State.wr_in | apply State.setf_in | apply State.record_in
                  | apply State.mirEval_in | apply State.setMir_in | apply State.freshMeta_in
                  | apply State.mediaStart_in | apply State.rolesBack_in | apply State.metaLoad_in
                  | apply State.keysRead_in | apply State.katStart_in | apply in_ite
              | exact Foot.sub hft rfl
              | with_reducible exact Or.inl rfl
              | exact Or.inr (Foot.sub hft rfl)
              | with_reducible apply InMk.of
              | simp -zeta only [in_mk_iff]
              | split
              | intro _ _ _
              | intro _ _
          clear_value x)
       | clear_value x
       | subst x)
    | with_reducible first
        | assumption | apply State.wr_in | apply State.setf_in | apply State.record_in | apply State.mirEval_in
        | apply State.setMir_in | apply State.freshMeta_in | apply State.mediaStart_in | apply State.rolesBack_in
        | apply State.metaLoad_in | apply State.keysRead_in | apply State.katStart_in | apply in_ite
    | exact Foot.sub hft rfl
    | with_reducible exact Or.inl rfl
    | exact Or.inr (Foot.sub hft rfl)
    | with_reducible apply InMk.of
    | simp -zeta only [in_mk_iff]
    | split
    | intro _ _ _
    | intro _ _

def execTrainingDone_foot : Foot :=
  Part.drc.foot ||| State.record_foot ||| State.takeSet_foot ||| State.restore_foot
theorem execTrainingDone_in {x : TrainIn} {s : State} (hks : In ft s0 s) (hft : execTrainingDone_foot.le ft = true) :
    InOut ft s0 (execTrainingDone x s) := by
  unfold execTrainingDone
  repeat' first
    | (extract_lets +onlyGivenNames x
       first
       | (have : In ft s0 x := by
            subst x
            repeat' first
              | (extract_lets +onlyGivenNames x; subst x)
              | with_reducible first
                  | assumption | apply State.record_in | apply State.takeSet_in | apply State.restore_in
                  | apply inOut_ite | apply in_ite | apply InOut.next
              | exact Foot.sub hft rfl
              | with_reducible exact Or.inl rfl
              | exact Or.inr (Foot.sub hft rfl)
              | with_reducible apply InMk.of
              | simp -zeta only [in_mk_iff]
              | split
          clear_value x)
       | clear_value x
       | subst x)
    | with_reducible first
        | assumption | apply State.record_in | apply State.takeSet_in | apply State.restore_in | apply inOut_ite
        | apply in_ite | apply InOut.next
    | exact Foot.sub hft rfl
    | with_reducible exact Or.inl rfl
    | exact Or.inr (Foot.sub hft rfl)
    | with_reducible apply InMk.of
    | simp -zeta only [in_mk_iff]
    | split

def State.firstRdy_foot : Foot :=
  Part.tpe.foot ||| Part.boot.foot ||| State.record_foot ||| State.refillRegs_foot ||| State.setPwr_foot
theorem State.firstRdy_in {s : State} (hks : In ft s0 s) (hft : State.firstRdy_foot.le ft = true) :
    In ft s0 (State.firstRdy s) := by
  unfold State.firstRdy
  repeat' first
    | (extract_lets +onlyGivenNames x
       first
       | (have : In ft s0 x := by
            subst x
            repeat' first
              | (extract_lets +onlyGivenNames x; subst x)
              | with_reducible first
                  | assumption | apply State.when_in | apply State.record_in | apply State.refillRegs_in
                  | apply State.setPwr_in | apply in_ite
              | exact Foot.sub hft rfl
              | with_reducible exact Or.inl rfl
              | exact Or.inr (Foot.sub hft rfl)
              | with_reducible apply InMk.of
              | simp -zeta only [in_mk_iff]
              | split
              | intro _ _ _
              | intro _ _
          clear_value x)
       | clear_value x
       | subst x)
    | with_reducible first
        | assumption | apply State.when_in | apply State.record_in | apply State.refillRegs_in
        | apply State.setPwr_in | apply in_ite
    | exact Foot.sub hft rfl
    | with_reducible exact Or.inl rfl
    | exact Or.inr (Foot.sub hft rfl)
    | with_reducible apply InMk.of
    | simp -zeta only [in_mk_iff]
    | split
    | intro _ _ _
    | intro _ _

def execPnRdyRise_foot : Foot := State.setRdy_foot ||| State.firstRdy_foot
theorem execPnRdyRise_in {port : Nat} {s : State} (hks : In ft s0 s) (hft : execPnRdyRise_foot.le ft = true) :
    InOut ft s0 (execPnRdyRise port s) := by
  unfold execPnRdyRise
  repeat' first
    | with_reducible first
        | assumption | apply State.setRdy_in | apply State.firstRdy_in | apply inOut_ite | apply in_ite
        | apply InOut.next
    | exact Foot.sub hft rfl
    | split

def execPnRdyTimeout_foot : Foot := Part.prt.foot ||| State.record_foot
theorem execPnRdyTimeout_in {port : Nat} {s : State} (hks : In ft s0 s) (hft : execPnRdyTimeout_foot.le ft = true) :
    InOut ft s0 (execPnRdyTimeout port s) := by
  unfold execPnRdyTimeout
  repeat' first
    | (extract_lets +onlyGivenNames x; clear_value x)
    | with_reducible first | assumption | apply State.record_in | apply inOut_ite | apply in_ite | apply InOut.next
    | exact Foot.sub hft rfl
    | with_reducible exact Or.inl rfl
    | exact Or.inr (Foot.sub hft rfl)
    | with_reducible apply InMk.of
    | simp -zeta only [in_mk_iff]
    | split

def execMapBlockLoaded_foot : Foot := Part.tpe.foot ||| State.record_foot ||| State.rerun_foot
theorem execMapBlockLoaded_in {blk : Nat} {s : State} (hks : In ft s0 s)
    (hft : execMapBlockLoaded_foot.le ft = true) :
    InOut ft s0 (execMapBlockLoaded blk s) := by
  unfold execMapBlockLoaded
  repeat' first
    | (extract_lets +onlyGivenNames x
       first
       | (have : In ft s0 x := by
            subst x
            repeat' first
              | (extract_lets +onlyGivenNames x; subst x)
              | with_reducible first
                  | assumption | apply State.when_in | apply State.record_in | apply State.rerun_in | apply inOut_ite
                  | apply in_ite | apply InOut.next
              | exact Foot.sub hft rfl
              | with_reducible exact Or.inl rfl
              | exact Or.inr (Foot.sub hft rfl)
              | with_reducible apply InMk.of
              | simp -zeta only [in_mk_iff]
              | split
              | intro _ _ _
              | intro _ _
          clear_value x)
       | clear_value x
       | subst x)
    | with_reducible first
        | assumption | apply State.when_in | apply State.record_in | apply State.rerun_in | apply inOut_ite
        | apply in_ite | apply InOut.next
    | exact Foot.sub hft rfl
    | with_reducible exact Or.inl rfl
    | exact Or.inr (Foot.sub hft rfl)
    | with_reducible apply InMk.of
    | simp -zeta only [in_mk_iff]
    | split
    | intro _ _ _
    | intro _ _

end Sys2Proof.Machine
end

