-- ==== Sys2Proof/Laws/FrameRdma.lean ====
section
/-! SUPPORT. The footprints of the operations of Machine/Rdma (Laws/Frame). -/

namespace Sys2Proof.Machine

variable {ft : Foot} {s0 : State}

def State.ctxRoom_foot : Foot := State.updCtx_foot
theorem State.ctxRoom_in {s : State} (hks : In ft s0 s) (hft : State.ctxRoom_foot.le ft = true) :
    InOpt ft s0 (State.ctxRoom s) := by
  unfold State.ctxRoom
  repeat' first
    | (extract_lets +onlyGivenNames x; clear_value x)
    | with_reducible first
        | assumption | apply State.updCtx_in | apply foldl_in | apply inOpt_ite | apply in_ite | apply inP_ite
        | apply InOpt.some | apply InOpt.none | apply inOpt_map
    | exact Foot.sub hft rfl
    | with_reducible exact Or.inl rfl
    | exact Or.inr (Foot.sub hft rfl)
    | with_reducible apply InMk.of
    | simp -zeta only [in_mk_iff]
    | split
    | intro _ _ _
    | intro _ _
    | intro _
    | with_reducible apply InP.pair

def State.ctxUse_foot : Foot :=
  Fld.CTX_MISS_CNT.foot ||| Fld.RAE_FLAGS_CNT_OVF.foot ||| Part.rae.foot ||| State.count_foot ||| State.putCtx_foot
theorem State.ctxUse_in {s : State} {x : Nat} (hks : In ft s0 s) (hft : State.ctxUse_foot.le ft = true) :
    In ft s0 (State.ctxUse s x) := by
  unfold State.ctxUse
  repeat' first
    | (extract_lets +onlyGivenNames x
       first
       | (have : In ft s0 x := by
            subst x
            repeat' first
              | with_reducible first | assumption | apply State.count_in | apply State.putCtx_in | apply in_ite
              | exact Foot.sub hft rfl
              | with_reducible exact Or.inl rfl
              | exact Or.inr (Foot.sub hft rfl)
              | with_reducible apply InMk.of
              | simp -zeta only [in_mk_iff]
              | split
          clear_value x)
       | clear_value x
       | subst x)
    | with_reducible first | assumption | apply State.count_in | apply State.putCtx_in | apply in_ite
    | exact Foot.sub hft rfl
    | with_reducible exact Or.inl rfl
    | exact Or.inr (Foot.sub hft rfl)
    | with_reducible apply InMk.of
    | simp -zeta only [in_mk_iff]
    | split

def State.cnpFor_foot : Foot := State.putCtx_foot ||| State.ctxSend_foot
theorem State.cnpFor_in {s : State} {x : Nat} {p : Pkt} (hks : In ft s0 s) (hft : State.cnpFor_foot.le ft = true) :
    In ft s0 (State.cnpFor s x p) := by
  unfold State.cnpFor
  repeat' first
    | (extract_lets +onlyGivenNames x; clear_value x)
    | with_reducible first | assumption | apply State.putCtx_in | apply State.ctxSend_in | apply in_ite
    | exact Foot.sub hft rfl
    | with_reducible exact Or.inl rfl
    | exact Or.inr (Foot.sub hft rfl)
    | with_reducible apply InMk.of
    | simp -zeta only [in_mk_iff]
    | split

def State.raePage_foot : Foot := State.needPage_foot ||| State.dropDemotion_foot
theorem State.raePage_in {s : State} {d obj tp : Nat} {o : Obj} {rd : Bool} (hks : In ft s0 s)
    (hft : State.raePage_foot.le ft = true) :
    InP ft s0 (State.raePage s d obj tp o rd) := by
  unfold State.raePage
  repeat' first
    | (extract_lets +onlyGivenNames x; clear_value x)
    | with_reducible first
        | assumption | apply State.needPage_in | apply State.dropDemotion_in | apply inP_ite | apply in_ite
    | exact Foot.sub hft rfl
    | split
    | with_reducible apply InP.pair
    | dsimp -zeta only

def State.raePages_foot : Foot := State.raePage_foot
theorem State.raePages_in {s : State} {d obj : Nat} {o : Obj} {ofs len : Nat} {rd : Bool} (hks : In ft s0 s)
    (hft : State.raePages_foot.le ft = true) :
    InP ft s0 (State.raePages s d obj o ofs len rd) := by
  unfold State.raePages
  repeat' first
    | (extract_lets +onlyGivenNames x
       first
       | (have : In ft s0 x := by
            subst x
            repeat' first
              | with_reducible first | assumption | apply State.raePage_in | apply foldl_in | apply foldl_inP
              | exact Foot.sub hft rfl
              | with_reducible refine InP.eq (by assumption) ?_
              | (with_reducible refine InP.fst ?_
                 with_reducible first
                   | assumption | apply State.raePage_in | apply foldl_inP)
              | split
              | intro _ _ _
              | intro _ _
              | with_reducible apply InP.pair
              | dsimp -zeta only
          clear_value x)
       | (have : InP ft s0 x := by
            subst x
            repeat' first
              | with_reducible first | assumption | apply State.raePage_in | apply foldl_in | apply foldl_inP
              | exact Foot.sub hft rfl
              | with_reducible refine InP.eq (by assumption) ?_
              | (with_reducible refine InP.fst ?_
                 with_reducible first
                   | assumption | apply State.raePage_in | apply foldl_inP)
              | split
              | intro _ _ _
              | intro _ _
              | with_reducible apply InP.pair
              | dsimp -zeta only
          clear_value x)
       | clear_value x
       | subst x)
    | with_reducible first | assumption | apply State.raePage_in | apply foldl_in | apply foldl_inP
    | exact Foot.sub hft rfl
    | with_reducible refine InP.eq (by assumption) ?_
    | (with_reducible refine InP.fst ?_; with_reducible first | assumption | apply State.raePage_in | apply foldl_inP)
    | split
    | intro _ _ _
    | intro _ _
    | with_reducible apply InP.pair
    | dsimp -zeta only

def State.goneEnd_foot : Foot := State.updCtx_foot
theorem State.goneEnd_in {s : State} {x psn : Nat} (hks : In ft s0 s) (hft : State.goneEnd_foot.le ft = true) :
    In ft s0 (State.goneEnd s x psn) := by
  unfold State.goneEnd
  repeat' first
    | (extract_lets +onlyGivenNames x
       first
       | (have : In ft s0 x := by
            subst x
            repeat' first
              | with_reducible first | assumption | apply State.updCtx_in
              | exact Foot.sub hft rfl
              | with_reducible exact Or.inl rfl
              | exact Or.inr (Foot.sub hft rfl)
              | with_reducible apply InMk.of
              | simp -zeta only [in_mk_iff]
              | intro _ _ _
              | intro _ _
          clear_value x)
       | clear_value x
       | subst x)
    | with_reducible first | assumption | apply State.updCtx_in
    | exact Foot.sub hft rfl
    | with_reducible exact Or.inl rfl
    | exact Or.inr (Foot.sub hft rfl)
    | with_reducible apply InMk.of
    | simp -zeta only [in_mk_iff]
    | intro _ _ _
    | intro _ _

def State.place_foot : Foot :=
  Fld.RETX_FULL.foot ||| State.snoop_foot ||| State.probeLines_foot ||| State.storeLines_foot |||
    State.raePages_foot
theorem State.place_in {s : State} {d : Nat} {p : Pkt} {obj : Nat} {o : Obj} {ofs : Nat} (hks : In ft s0 s)
    (hft : State.place_foot.le ft = true) :
    InP ft s0 (State.place s d p obj o ofs) := by
  unfold State.place
  repeat' first
    | (extract_lets +onlyGivenNames x
       first
       | (have : In ft s0 x := by
            subst x
            repeat' first
              | (extract_lets +onlyGivenNames x; subst x)
              | with_reducible first
                  | assumption | apply State.setf_in | apply State.when_in | apply State.each_in
                  | apply State.snoop_in | apply State.probeLines_in | apply State.storeLines_in
                  | apply State.raePages_in | apply inP_ite | apply in_ite
              | exact Foot.sub hft rfl
              | with_reducible refine InP.eq (by assumption) ?_
              | (with_reducible refine InP.fst ?_
                 with_reducible first
                   | assumption | apply State.probeLines_in | apply State.storeLines_in | apply State.raePages_in)
              | split
              | intro _ _ _
              | intro _ _
              | with_reducible apply InP.pair
              | dsimp -zeta only
          clear_value x)
       | (have : InP ft s0 x := by
            subst x
            repeat' first
              | (extract_lets +onlyGivenNames x; subst x)
              | with_reducible first
                  | assumption | apply State.setf_in | apply State.when_in | apply State.each_in
                  | apply State.snoop_in | apply State.probeLines_in | apply State.storeLines_in
                  | apply State.raePages_in | apply inP_ite | apply in_ite
              | exact Foot.sub hft rfl
              | with_reducible refine InP.eq (by assumption) ?_
              | (with_reducible refine InP.fst ?_
                 with_reducible first
                   | assumption | apply State.probeLines_in | apply State.storeLines_in | apply State.raePages_in)
              | split
              | intro _ _ _
              | intro _ _
              | with_reducible apply InP.pair
              | dsimp -zeta only
          clear_value x)
       | clear_value x
       | subst x)
    | with_reducible first
        | assumption | apply State.setf_in | apply State.when_in | apply State.each_in | apply State.snoop_in
        | apply State.probeLines_in | apply State.storeLines_in | apply State.raePages_in | apply inP_ite
        | apply in_ite
    | exact Foot.sub hft rfl
    | with_reducible refine InP.eq (by assumption) ?_
    | (with_reducible refine InP.fst ?_
       with_reducible first
         | assumption | apply State.probeLines_in | apply State.storeLines_in | apply State.raePages_in)
    | split
    | intro _ _ _
    | intro _ _
    | with_reducible apply InP.pair
    | dsimp -zeta only

def State.seqNak_foot : Foot := State.ctxNak_foot
theorem State.seqNak_in {s : State} {x : Nat} {c : RCtx} (hks : In ft s0 s) (hft : State.seqNak_foot.le ft = true) :
    In ft s0 (State.seqNak s x c) := by
  unfold State.seqNak
  repeat' first
    | with_reducible first | assumption | apply State.ctxNak_in
    | exact Foot.sub hft rfl

def State.cumAck_foot : Foot := State.ctxSend_foot
theorem State.cumAck_in {s : State} {x : Nat} (hks : In ft s0 s) (hft : State.cumAck_foot.le ft = true) :
    In ft s0 (State.cumAck s x) := by
  unfold State.cumAck
  repeat' first
    | with_reducible first | assumption | apply State.ctxSend_in
    | exact Foot.sub hft rfl
    | split

def State.rxAdvance_foot : Foot := State.putCtx_foot
theorem State.rxAdvance_in {s : State} {x n : Nat} (hks : In ft s0 s) (hft : State.rxAdvance_foot.le ft = true) :
    InP ft s0 (State.rxAdvance s x n) := by
  unfold State.rxAdvance
  repeat' first
    | (extract_lets +onlyGivenNames x; clear_value x)
    | with_reducible first | assumption | apply State.putCtx_in
    | exact Foot.sub hft rfl
    | with_reducible exact Or.inl rfl
    | exact Or.inr (Foot.sub hft rfl)
    | with_reducible apply InMk.of
    | simp -zeta only [in_mk_iff]
    | split
    | with_reducible apply InP.pair
    | dsimp -zeta only

def State.rxFence_foot : Foot := State.updCtx_foot ||| State.acceptFence_foot
theorem State.rxFence_in {s : State} {x d psn : Nat} (hks : In ft s0 s) (hft : State.rxFence_foot.le ft = true) :
    In ft s0 (State.rxFence s x d psn) := by
  unfold State.rxFence
  repeat' first
    | (extract_lets +onlyGivenNames x; clear_value x)
    | with_reducible first | assumption | apply State.updCtx_in | apply State.acceptFence_in
    | exact Foot.sub hft rfl
    | with_reducible exact Or.inl rfl
    | exact Or.inr (Foot.sub hft rfl)
    | with_reducible apply InMk.of
    | simp -zeta only [in_mk_iff]
    | intro _ _ _
    | intro _ _

def State.rxDone_foot : Foot :=
  State.updCtx_foot ||| State.entGo_foot ||| State.cumAck_foot ||| State.rxAdvance_foot ||| State.rxFence_foot
theorem State.rxDone_in {s : State} {x : Nat} {c : RCtx} {p : Pkt} (hks : In ft s0 s)
    (hft : State.rxDone_foot.le ft = true) :
    In ft s0 (State.rxDone s x c p) := by
  unfold State.rxDone
  repeat' first
    | (extract_lets +onlyGivenNames x
       first
       | (have : In ft s0 x := by
            subst x
            repeat' first
              | (extract_lets +onlyGivenNames x; subst x)
              | with_reducible first
                  | assumption | apply State.each_in | apply State.updCtx_in | apply State.entGo_in
                  | apply State.cumAck_in | apply State.rxAdvance_in | apply State.rxFence_in | apply in_ite
                  | apply inP_ite
              | exact Foot.sub hft rfl
              | with_reducible exact Or.inl rfl
              | exact Or.inr (Foot.sub hft rfl)
              | with_reducible apply InMk.of
              | simp -zeta only [in_mk_iff]
              | with_reducible refine InP.eq (by assumption) ?_
              | (with_reducible refine InP.fst ?_; with_reducible first | assumption | apply State.rxAdvance_in)
              | split
              | intro _ _ _
              | intro _ _
              | with_reducible apply InP.pair
              | dsimp -zeta only
          clear_value x)
       | (have : InP ft s0 x := by
            subst x
            repeat' first
              | (extract_lets +onlyGivenNames x; subst x)
              | with_reducible first
                  | assumption | apply State.each_in | apply State.updCtx_in | apply State.entGo_in
                  | apply State.cumAck_in | apply State.rxAdvance_in | apply State.rxFence_in | apply in_ite
                  | apply inP_ite
              | exact Foot.sub hft rfl
              | with_reducible exact Or.inl rfl
              | exact Or.inr (Foot.sub hft rfl)
              | with_reducible apply InMk.of
              | simp -zeta only [in_mk_iff]
              | with_reducible refine InP.eq (by assumption) ?_
              | (with_reducible refine InP.fst ?_; with_reducible first | assumption | apply State.rxAdvance_in)
              | split
              | intro _ _ _
              | intro _ _
              | with_reducible apply InP.pair
              | dsimp -zeta only
          clear_value x)
       | clear_value x
       | subst x)
    | with_reducible first
        | assumption | apply State.each_in | apply State.updCtx_in | apply State.entGo_in | apply State.cumAck_in
        | apply State.rxAdvance_in | apply State.rxFence_in | apply in_ite | apply inP_ite
    | exact Foot.sub hft rfl
    | with_reducible exact Or.inl rfl
    | exact Or.inr (Foot.sub hft rfl)
    | with_reducible apply InMk.of
    | simp -zeta only [in_mk_iff]
    | with_reducible refine InP.eq (by assumption) ?_
    | (with_reducible refine InP.fst ?_; with_reducible first | assumption | apply State.rxAdvance_in)
    | split
    | intro _ _ _
    | intro _ _
    | with_reducible apply InP.pair
    | dsimp -zeta only

def State.rxWait_foot : Foot := State.updCtx_foot ||| State.entWait_foot
theorem State.rxWait_in {s : State} {x : Nat} {c : RCtx} {p : Pkt} {why : Why} {obj tp : Nat} (hks : In ft s0 s)
    (hft : State.rxWait_foot.le ft = true) :
    In ft s0 (State.rxWait s x c p why obj tp) := by
  unfold State.rxWait
  repeat' first
    | (extract_lets +onlyGivenNames x; clear_value x)
    | with_reducible first | assumption | apply State.updCtx_in | apply State.entWait_in
    | exact Foot.sub hft rfl
    | with_reducible exact Or.inl rfl
    | exact Or.inr (Foot.sub hft rfl)
    | with_reducible apply InMk.of
    | simp -zeta only [in_mk_iff]
    | intro _ _ _
    | intro _ _

def State.rxRnr_foot : Foot :=
  Fld.RNR_SENT_CNT.foot ||| Fld.RAE_FLAGS_CNT_OVF.foot ||| State.count_foot ||| State.updCtx_foot |||
    State.ctxSend_foot ||| State.entWait_foot
theorem State.rxRnr_in {s : State} {x : Nat} {c : RCtx} {p : Pkt} {why : Why} {obj tp : Nat} (hks : In ft s0 s)
    (hft : State.rxRnr_foot.le ft = true) :
    In ft s0 (State.rxRnr s x c p why obj tp) := by
  unfold State.rxRnr
  repeat' first
    | (extract_lets +onlyGivenNames x
       first
       | (have : In ft s0 x := by
            subst x
            repeat' first
              | with_reducible first
                  | assumption | apply State.count_in | apply State.updCtx_in | apply State.ctxSend_in
                  | apply State.entWait_in
              | exact Foot.sub hft rfl
              | with_reducible exact Or.inl rfl
              | exact Or.inr (Foot.sub hft rfl)
              | with_reducible apply InMk.of
              | simp -zeta only [in_mk_iff]
              | intro _ _ _
              | intro _ _
          clear_value x)
       | clear_value x
       | subst x)
    | with_reducible first
        | assumption | apply State.count_in | apply State.updCtx_in | apply State.ctxSend_in | apply State.entWait_in
    | exact Foot.sub hft rfl
    | with_reducible exact Or.inl rfl
    | exact Or.inr (Foot.sub hft rfl)
    | with_reducible apply InMk.of
    | simp -zeta only [in_mk_iff]
    | intro _ _ _
    | intro _ _

def State.rxPlaced_foot : Foot :=
  State.updCtx_foot ||| State.entGo_foot ||| State.cumAck_foot ||| State.rxDone_foot
theorem State.rxPlaced_in {s : State} {x : Nat} {c : RCtx} {p : Pkt} {ahead : Bool} (hks : In ft s0 s)
    (hft : State.rxPlaced_foot.le ft = true) :
    In ft s0 (State.rxPlaced s x c p ahead) := by
  unfold State.rxPlaced
  repeat' first
    | (extract_lets +onlyGivenNames x
       first
       | (have : In ft s0 x := by
            subst x
            repeat' first
              | with_reducible first
                  | assumption | apply State.updCtx_in | apply State.entGo_in | apply State.cumAck_in
                  | apply State.rxDone_in | apply in_ite
              | exact Foot.sub hft rfl
              | with_reducible exact Or.inl rfl
              | exact Or.inr (Foot.sub hft rfl)
              | with_reducible apply InMk.of
              | simp -zeta only [in_mk_iff]
              | split
              | intro _ _ _
              | intro _ _
          clear_value x)
       | clear_value x
       | subst x)
    | with_reducible first
        | assumption | apply State.updCtx_in | apply State.entGo_in | apply State.cumAck_in | apply State.rxDone_in
        | apply in_ite
    | exact Foot.sub hft rfl
    | with_reducible exact Or.inl rfl
    | exact Or.inr (Foot.sub hft rfl)
    | with_reducible apply InMk.of
    | simp -zeta only [in_mk_iff]
    | split
    | intro _ _ _
    | intro _ _

def State.rxWrite_foot : Foot :=
  State.updCtx_foot ||| State.ctxNak_foot ||| State.entGo_foot ||| State.goneEnd_foot ||| State.place_foot |||
    State.seqNak_foot ||| State.rxWait_foot ||| State.rxRnr_foot ||| State.rxPlaced_foot
theorem State.rxWrite_in {s : State} {x : Nat} {c : RCtx} {p : Pkt} {ahead : Bool} (hks : In ft s0 s)
    (hft : State.rxWrite_foot.le ft = true) :
    In ft s0 (State.rxWrite s x c p ahead) := by
  unfold State.rxWrite
  repeat' first
    | (extract_lets +onlyGivenNames x
       first
       | (have : In ft s0 x := by
            subst x
            repeat' first
              | (extract_lets +onlyGivenNames x; subst x)
              | with_reducible first
                  | assumption | apply State.updCtx_in | apply State.ctxNak_in | apply State.entGo_in
                  | apply State.goneEnd_in | apply State.place_in | apply State.seqNak_in | apply State.rxWait_in
                  | apply State.rxRnr_in | apply State.rxPlaced_in | apply in_ite | apply inP_ite
              | exact Foot.sub hft rfl
              | with_reducible exact Or.inl rfl
              | exact Or.inr (Foot.sub hft rfl)
              | with_reducible apply InMk.of
              | simp -zeta only [in_mk_iff]
              | with_reducible refine InP.eq (by assumption) ?_
              | (with_reducible refine InP.fst ?_; with_reducible first | assumption | apply State.place_in)
              | split
              | intro _ _ _
              | intro _ _
              | with_reducible apply InP.pair
              | dsimp -zeta only
          clear_value x)
       | (have : InP ft s0 x := by
            subst x
            repeat' first
              | (extract_lets +onlyGivenNames x; subst x)
              | with_reducible first
                  | assumption | apply State.updCtx_in | apply State.ctxNak_in | apply State.entGo_in
                  | apply State.goneEnd_in | apply State.place_in | apply State.seqNak_in | apply State.rxWait_in
                  | apply State.rxRnr_in | apply State.rxPlaced_in | apply in_ite | apply inP_ite
              | exact Foot.sub hft rfl
              | with_reducible exact Or.inl rfl
              | exact Or.inr (Foot.sub hft rfl)
              | with_reducible apply InMk.of
              | simp -zeta only [in_mk_iff]
              | with_reducible refine InP.eq (by assumption) ?_
              | (with_reducible refine InP.fst ?_; with_reducible first | assumption | apply State.place_in)
              | split
              | intro _ _ _
              | intro _ _
              | with_reducible apply InP.pair
              | dsimp -zeta only
          clear_value x)
       | clear_value x
       | subst x)
    | with_reducible first
        | assumption | apply State.updCtx_in | apply State.ctxNak_in | apply State.entGo_in | apply State.goneEnd_in
        | apply State.place_in | apply State.seqNak_in | apply State.rxWait_in | apply State.rxRnr_in
        | apply State.rxPlaced_in | apply in_ite | apply inP_ite
    | exact Foot.sub hft rfl
    | with_reducible exact Or.inl rfl
    | exact Or.inr (Foot.sub hft rfl)
    | with_reducible apply InMk.of
    | simp -zeta only [in_mk_iff]
    | with_reducible refine InP.eq (by assumption) ?_
    | (with_reducible refine InP.fst ?_; with_reducible first | assumption | apply State.place_in)
    | split
    | intro _ _ _
    | intro _ _
    | with_reducible apply InP.pair
    | dsimp -zeta only

def State.readSend_foot : Foot := State.ctxSend_foot
theorem State.readSend_in {s : State} {x : Nat} {c : RCtx} {p : Pkt} {n : Nat} {byte : Nat → Nat}
    (hks : In ft s0 s) (hft : State.readSend_foot.le ft = true) :
    In ft s0 (State.readSend s x c p n byte) := by
  unfold State.readSend
  repeat' first
    | (extract_lets +onlyGivenNames x
       first
       | (have : In ft s0 x := by
            subst x
            repeat' first
              | (extract_lets +onlyGivenNames x; subst x)
              | with_reducible first | assumption | apply State.each_in | apply State.ctxSend_in | apply in_ite
              | exact Foot.sub hft rfl
              | split
              | intro _ _ _
              | intro _ _
          clear_value x)
       | clear_value x
       | subst x)
    | with_reducible first | assumption | apply State.each_in | apply State.ctxSend_in | apply in_ite
    | exact Foot.sub hft rfl
    | split
    | intro _ _ _
    | intro _ _

def State.readOne_foot : Foot :=
  State.ctxNak_foot ||| State.entWait_foot ||| State.entGo_foot ||| State.mediaEvent_foot |||
    State.probeLines_foot ||| State.readTouch_foot ||| State.raePages_foot ||| State.goneEnd_foot |||
    State.readSend_foot
theorem State.readOne_in {s : State} {x : Nat} {c : RCtx} {p : Pkt} (hks : In ft s0 s)
    (hft : State.readOne_foot.le ft = true) :
    InP ft s0 (State.readOne s x c p) := by
  unfold State.readOne
  repeat' first
    | (extract_lets +onlyGivenNames x
       first
       | (have : In ft s0 x := by
            subst x
            repeat' first
              | (extract_lets +onlyGivenNames x; subst x)
              | with_reducible first
                  | assumption | apply State.each_in | apply State.ctxNak_in | apply State.entWait_in
                  | apply State.entGo_in | apply State.mediaEvent_in | apply State.probeLines_in
                  | apply State.readTouch_in | apply State.raePages_in | apply State.goneEnd_in
                  | apply State.readSend_in | apply inP_ite | apply in_ite
              | exact Foot.sub hft rfl
              | with_reducible refine InP.eq (by assumption) ?_
              | (with_reducible refine InP.fst ?_
                 with_reducible first
                   | assumption | apply State.probeLines_in | apply State.raePages_in)
              | split
              | intro _ _ _
              | intro _ _
              | with_reducible apply InP.pair
              | dsimp -zeta only
          clear_value x)
       | (have : InP ft s0 x := by
            subst x
            repeat' first
              | (extract_lets +onlyGivenNames x; subst x)
              | with_reducible first
                  | assumption | apply State.each_in | apply State.ctxNak_in | apply State.entWait_in
                  | apply State.entGo_in | apply State.mediaEvent_in | apply State.probeLines_in
                  | apply State.readTouch_in | apply State.raePages_in | apply State.goneEnd_in
                  | apply State.readSend_in | apply inP_ite | apply in_ite
              | exact Foot.sub hft rfl
              | with_reducible refine InP.eq (by assumption) ?_
              | (with_reducible refine InP.fst ?_
                 with_reducible first
                   | assumption | apply State.probeLines_in | apply State.raePages_in)
              | split
              | intro _ _ _
              | intro _ _
              | with_reducible apply InP.pair
              | dsimp -zeta only
          clear_value x)
       | clear_value x
       | subst x)
    | with_reducible first
        | assumption | apply State.each_in | apply State.ctxNak_in | apply State.entWait_in | apply State.entGo_in
        | apply State.mediaEvent_in | apply State.probeLines_in | apply State.readTouch_in | apply State.raePages_in
        | apply State.goneEnd_in | apply State.readSend_in | apply inP_ite | apply in_ite
    | exact Foot.sub hft rfl
    | with_reducible refine InP.eq (by assumption) ?_
    | (with_reducible refine InP.fst ?_
       with_reducible first
         | assumption | apply State.probeLines_in | apply State.raePages_in)
    | split
    | intro _ _ _
    | intro _ _
    | with_reducible apply InP.pair
    | dsimp -zeta only

def State.readsRun_foot : Foot := State.updCtx_foot ||| State.readOne_foot
theorem State.readsRun_in {n : Nat} {x : Nat} {s : State} (hks : In ft s0 s)
    (hft : State.readsRun_foot.le ft = true) :
    In ft s0 (State.readsRun n x s) := by
  induction n generalizing x s with
  | zero => exact hks
  | succ n ih =>
  unfold State.readsRun
  repeat' first
    | (extract_lets +onlyGivenNames x
       first
       | (have : In ft s0 x := by
            subst x
            repeat' first
              | with_reducible first
                  | assumption | apply ih | apply State.updCtx_in | apply State.readOne_in | apply in_ite
                  | apply inP_ite
              | exact Foot.sub hft rfl
              | with_reducible exact Or.inl rfl
              | exact Or.inr (Foot.sub hft rfl)
              | with_reducible apply InMk.of
              | simp -zeta only [in_mk_iff]
              | with_reducible refine InP.eq (by assumption) ?_
              | (with_reducible refine InP.fst ?_; with_reducible first | assumption | apply State.readOne_in)
              | split
              | intro _ _ _
              | intro _ _
              | with_reducible apply InP.pair
              | dsimp -zeta only
          clear_value x)
       | (have : InP ft s0 x := by
            subst x
            repeat' first
              | with_reducible first
                  | assumption | apply ih | apply State.updCtx_in | apply State.readOne_in | apply in_ite
                  | apply inP_ite
              | exact Foot.sub hft rfl
              | with_reducible exact Or.inl rfl
              | exact Or.inr (Foot.sub hft rfl)
              | with_reducible apply InMk.of
              | simp -zeta only [in_mk_iff]
              | with_reducible refine InP.eq (by assumption) ?_
              | (with_reducible refine InP.fst ?_; with_reducible first | assumption | apply State.readOne_in)
              | split
              | intro _ _ _
              | intro _ _
              | with_reducible apply InP.pair
              | dsimp -zeta only
          clear_value x)
       | clear_value x
       | subst x)
    | with_reducible first
        | assumption | apply ih | apply State.updCtx_in | apply State.readOne_in | apply in_ite | apply inP_ite
    | exact Foot.sub hft rfl
    | with_reducible exact Or.inl rfl
    | exact Or.inr (Foot.sub hft rfl)
    | with_reducible apply InMk.of
    | simp -zeta only [in_mk_iff]
    | with_reducible refine InP.eq (by assumption) ?_
    | (with_reducible refine InP.fst ?_; with_reducible first | assumption | apply State.readOne_in)
    | split
    | intro _ _ _
    | intro _ _
    | with_reducible apply InP.pair
    | dsimp -zeta only

def State.rxRead_foot : Foot :=
  State.updCtx_foot ||| State.ctxNak_foot ||| State.rxAdvance_foot ||| State.readsRun_foot
theorem State.rxRead_in {s : State} {x : Nat} {c : RCtx} {p : Pkt} (hks : In ft s0 s)
    (hft : State.rxRead_foot.le ft = true) :
    In ft s0 (State.rxRead s x c p) := by
  unfold State.rxRead
  repeat' first
    | (extract_lets +onlyGivenNames x
       first
       | (have : In ft s0 x := by
            subst x
            repeat' first
              | with_reducible first
                  | assumption | apply State.updCtx_in | apply State.ctxNak_in | apply State.rxAdvance_in
                  | apply State.readsRun_in | apply in_ite | apply inP_ite
              | exact Foot.sub hft rfl
              | with_reducible exact Or.inl rfl
              | exact Or.inr (Foot.sub hft rfl)
              | with_reducible apply InMk.of
              | simp -zeta only [in_mk_iff]
              | with_reducible refine InP.eq (by assumption) ?_
              | (with_reducible refine InP.fst ?_; with_reducible first | assumption | apply State.rxAdvance_in)
              | split
              | intro _ _ _
              | intro _ _
              | with_reducible apply InP.pair
              | dsimp -zeta only
          clear_value x)
       | clear_value x
       | subst x)
    | with_reducible first
        | assumption | apply State.updCtx_in | apply State.ctxNak_in | apply State.rxAdvance_in
        | apply State.readsRun_in | apply in_ite | apply inP_ite
    | exact Foot.sub hft rfl
    | with_reducible exact Or.inl rfl
    | exact Or.inr (Foot.sub hft rfl)
    | with_reducible apply InMk.of
    | simp -zeta only [in_mk_iff]
    | with_reducible refine InP.eq (by assumption) ?_
    | (with_reducible refine InP.fst ?_; with_reducible first | assumption | apply State.rxAdvance_in)
    | split
    | intro _ _ _
    | intro _ _
    | with_reducible apply InP.pair
    | dsimp -zeta only

def State.rxAtomic_foot : Foot :=
  State.snoop_foot ||| State.updCtx_foot ||| State.ctxSend_foot ||| State.ctxNak_foot ||| State.entGo_foot |||
    State.probeLines_foot ||| State.readTouch_foot ||| State.storeLine_foot ||| State.raePage_foot |||
    State.goneEnd_foot ||| State.rxAdvance_foot ||| State.rxWait_foot ||| State.rxRnr_foot
theorem State.rxAtomic_in {s : State} {x : Nat} {c : RCtx} {p : Pkt} (hks : In ft s0 s)
    (hft : State.rxAtomic_foot.le ft = true) :
    In ft s0 (State.rxAtomic s x c p) := by
  unfold State.rxAtomic
  repeat' first
    | (extract_lets +onlyGivenNames x
       first
       | (have hgo : ∀ s y, In ft s0 s → In ft s0 (x s y) := by
            intro s y hs
            subst x
            repeat' first
              | (extract_lets +onlyGivenNames x; subst x)
              | with_reducible first
                  | assumption | apply State.each_in | apply State.snoop_in | apply State.updCtx_in
                  | apply State.ctxSend_in | apply State.ctxNak_in | apply State.entGo_in | apply State.probeLines_in
                  | apply State.readTouch_in | apply State.storeLine_in | apply State.raePage_in
                  | apply State.goneEnd_in | apply State.rxAdvance_in | apply State.rxWait_in | apply State.rxRnr_in
                  | apply in_ite | apply inP_ite
              | exact Foot.sub hft rfl
              | with_reducible exact Or.inl rfl
              | exact Or.inr (Foot.sub hft rfl)
              | with_reducible apply InMk.of
              | simp -zeta only [in_mk_iff]
              | with_reducible refine InP.eq (by assumption) ?_
              | (with_reducible refine InP.fst ?_
                 with_reducible first
                   | assumption | apply State.probeLines_in | apply State.storeLine_in | apply State.raePage_in
                   | apply State.rxAdvance_in)
              | split
              | intro _ _ _
              | intro _ _
              | with_reducible apply InP.pair
              | dsimp -zeta only
          clear_value x)
       | (have : In ft s0 x := by
            subst x
            repeat' first
              | (extract_lets +onlyGivenNames x; subst x)
              | with_reducible first
                  | assumption | apply hgo | apply State.each_in | apply State.snoop_in | apply State.updCtx_in
                  | apply State.ctxSend_in | apply State.ctxNak_in | apply State.entGo_in | apply State.probeLines_in
                  | apply State.readTouch_in | apply State.storeLine_in | apply State.raePage_in
                  | apply State.goneEnd_in | apply State.rxAdvance_in | apply State.rxWait_in | apply State.rxRnr_in
                  | apply in_ite | apply inP_ite
              | exact Foot.sub hft rfl
              | with_reducible exact Or.inl rfl
              | exact Or.inr (Foot.sub hft rfl)
              | with_reducible apply InMk.of
              | simp -zeta only [in_mk_iff]
              | with_reducible refine InP.eq (by assumption) ?_
              | (with_reducible refine InP.fst ?_
                 with_reducible first
                   | assumption | apply State.probeLines_in | apply State.storeLine_in | apply State.raePage_in
                   | apply State.rxAdvance_in)
              | split
              | intro _ _ _
              | intro _ _
              | with_reducible apply InP.pair
              | dsimp -zeta only
          clear_value x)
       | (have : InP ft s0 x := by
            subst x
            repeat' first
              | (extract_lets +onlyGivenNames x; subst x)
              | with_reducible first
                  | assumption | apply hgo | apply State.each_in | apply State.snoop_in | apply State.updCtx_in
                  | apply State.ctxSend_in | apply State.ctxNak_in | apply State.entGo_in | apply State.probeLines_in
                  | apply State.readTouch_in | apply State.storeLine_in | apply State.raePage_in
                  | apply State.goneEnd_in | apply State.rxAdvance_in | apply State.rxWait_in | apply State.rxRnr_in
                  | apply in_ite | apply inP_ite
              | exact Foot.sub hft rfl
              | with_reducible exact Or.inl rfl
              | exact Or.inr (Foot.sub hft rfl)
              | with_reducible apply InMk.of
              | simp -zeta only [in_mk_iff]
              | with_reducible refine InP.eq (by assumption) ?_
              | (with_reducible refine InP.fst ?_
                 with_reducible first
                   | assumption | apply State.probeLines_in | apply State.storeLine_in | apply State.raePage_in
                   | apply State.rxAdvance_in)
              | split
              | intro _ _ _
              | intro _ _
              | with_reducible apply InP.pair
              | dsimp -zeta only
          clear_value x)
       | clear_value x
       | subst x)
    | with_reducible first
        | assumption | apply hgo | apply State.each_in | apply State.snoop_in | apply State.updCtx_in
        | apply State.ctxSend_in | apply State.ctxNak_in | apply State.entGo_in | apply State.probeLines_in
        | apply State.readTouch_in | apply State.storeLine_in | apply State.raePage_in | apply State.goneEnd_in
        | apply State.rxAdvance_in | apply State.rxWait_in | apply State.rxRnr_in | apply in_ite | apply inP_ite
    | exact Foot.sub hft rfl
    | with_reducible exact Or.inl rfl
    | exact Or.inr (Foot.sub hft rfl)
    | with_reducible apply InMk.of
    | simp -zeta only [in_mk_iff]
    | with_reducible refine InP.eq (by assumption) ?_
    | (with_reducible refine InP.fst ?_
       with_reducible first
         | assumption | apply State.probeLines_in | apply State.storeLine_in | apply State.raePage_in
         | apply State.rxAdvance_in)
    | split
    | intro _ _ _
    | intro _ _
    | with_reducible apply InP.pair
    | dsimp -zeta only

def State.rxExpected_foot : Foot :=
  State.ctxNak_foot ||| State.rxDone_foot ||| State.rxWrite_foot ||| State.rxRead_foot ||| State.rxAtomic_foot
theorem State.rxExpected_in {s : State} {x : Nat} {c : RCtx} {p : Pkt} (hks : In ft s0 s)
    (hft : State.rxExpected_foot.le ft = true) :
    In ft s0 (State.rxExpected s x c p) := by
  unfold State.rxExpected
  repeat' first
    | with_reducible first
        | assumption | apply State.ctxNak_in | apply State.rxDone_in | apply State.rxWrite_in | apply State.rxRead_in
        | apply State.rxAtomic_in | apply in_ite
    | exact Foot.sub hft rfl
    | split

def State.rxDup_foot : Foot :=
  Fld.RAE_DUP_CNT.foot ||| Fld.RAE_FLAGS_CNT_OVF.foot ||| State.count_foot ||| State.updCtx_foot |||
    State.ctxSend_foot ||| State.ctxNak_foot ||| State.cumAck_foot ||| State.readsRun_foot
theorem State.rxDup_in {s : State} {x : Nat} {c : RCtx} {p : Pkt} (hks : In ft s0 s)
    (hft : State.rxDup_foot.le ft = true) :
    In ft s0 (State.rxDup s x c p) := by
  unfold State.rxDup
  repeat' first
    | (extract_lets +onlyGivenNames x
       first
       | (have : In ft s0 x := by
            subst x
            repeat' first
              | (extract_lets +onlyGivenNames x; subst x)
              | with_reducible first
                  | assumption | apply State.count_in | apply State.updCtx_in | apply State.ctxSend_in
                  | apply State.ctxNak_in | apply State.cumAck_in | apply State.readsRun_in | apply in_ite
              | exact Foot.sub hft rfl
              | with_reducible exact Or.inl rfl
              | exact Or.inr (Foot.sub hft rfl)
              | with_reducible apply InMk.of
              | simp -zeta only [in_mk_iff]
              | split
              | intro _ _ _
              | intro _ _
          clear_value x)
       | clear_value x
       | subst x)
    | with_reducible first
        | assumption | apply State.count_in | apply State.updCtx_in | apply State.ctxSend_in | apply State.ctxNak_in
        | apply State.cumAck_in | apply State.readsRun_in | apply in_ite
    | exact Foot.sub hft rfl
    | with_reducible exact Or.inl rfl
    | exact Or.inr (Foot.sub hft rfl)
    | with_reducible apply InMk.of
    | simp -zeta only [in_mk_iff]
    | split
    | intro _ _ _
    | intro _ _

def State.rxPark_foot : Foot :=
  Fld.PARK_FULL.foot ||| Fld.PARK_DROP_CNT.foot ||| Fld.RAE_FLAGS_CNT_OVF.foot ||| Part.once.foot |||
    State.count_foot ||| State.putCtx_foot ||| State.raeRegs_foot
theorem State.rxPark_in {s : State} {x : Nat} {c : RCtx} {p : Pkt} (hks : In ft s0 s)
    (hft : State.rxPark_foot.le ft = true) :
    In ft s0 (State.rxPark s x c p) := by
  unfold State.rxPark
  repeat' first
    | (extract_lets +onlyGivenNames x
       first
       | (have : In ft s0 x := by
            subst x
            repeat' first
              | with_reducible first
                  | assumption | apply State.setf_in | apply State.count_in | apply State.putCtx_in
                  | apply State.raeRegs_in | apply in_ite
              | exact Foot.sub hft rfl
              | with_reducible exact Or.inl rfl
              | exact Or.inr (Foot.sub hft rfl)
              | with_reducible apply InMk.of
              | simp -zeta only [in_mk_iff]
              | split
          clear_value x)
       | clear_value x
       | subst x)
    | with_reducible first
        | assumption | apply State.setf_in | apply State.count_in | apply State.putCtx_in | apply State.raeRegs_in
        | apply in_ite
    | exact Foot.sub hft rfl
    | with_reducible exact Or.inl rfl
    | exact Or.inr (Foot.sub hft rfl)
    | with_reducible apply InMk.of
    | simp -zeta only [in_mk_iff]
    | split

def State.rxAhead_foot : Foot :=
  State.updCtx_foot ||| State.seqNak_foot ||| State.rxWrite_foot ||| State.rxDup_foot ||| State.rxPark_foot
theorem State.rxAhead_in {s : State} {x : Nat} {c : RCtx} {p : Pkt} (hks : In ft s0 s)
    (hft : State.rxAhead_foot.le ft = true) :
    In ft s0 (State.rxAhead s x c p) := by
  unfold State.rxAhead
  repeat' first
    | (extract_lets +onlyGivenNames x; clear_value x)
    | with_reducible first
        | assumption | apply State.updCtx_in | apply State.seqNak_in | apply State.rxWrite_in | apply State.rxDup_in
        | apply State.rxPark_in | apply in_ite
    | exact Foot.sub hft rfl
    | with_reducible exact Or.inl rfl
    | exact Or.inr (Foot.sub hft rfl)
    | with_reducible apply InMk.of
    | simp -zeta only [in_mk_iff]
    | split
    | intro _ _ _
    | intro _ _

def State.rxProcess_foot : Foot :=
  State.seqNak_foot ||| State.rxExpected_foot ||| State.rxDup_foot ||| State.rxAhead_foot
theorem State.rxProcess_in {s : State} {x : Nat} {p : Pkt} (hks : In ft s0 s)
    (hft : State.rxProcess_foot.le ft = true) :
    In ft s0 (State.rxProcess s x p) := by
  unfold State.rxProcess
  repeat' first
    | (extract_lets +onlyGivenNames x; clear_value x)
    | with_reducible first
        | assumption | apply State.seqNak_in | apply State.rxExpected_in | apply State.rxDup_in
        | apply State.rxAhead_in | apply in_ite
    | exact Foot.sub hft rfl
    | split

def State.rxNext_foot : Foot := State.putCtx_foot ||| State.rxProcess_foot
theorem State.rxNext_in {n : Nat} {x : Nat} {s : State} (hks : In ft s0 s) (hft : State.rxNext_foot.le ft = true) :
    In ft s0 (State.rxNext n x s) := by
  induction n generalizing x s with
  | zero => exact hks
  | succ n ih =>
  unfold State.rxNext
  repeat' first
    | (extract_lets +onlyGivenNames x; clear_value x)
    | with_reducible first | assumption | apply ih | apply State.putCtx_in | apply State.rxProcess_in | apply in_ite
    | exact Foot.sub hft rfl
    | with_reducible exact Or.inl rfl
    | exact Or.inr (Foot.sub hft rfl)
    | with_reducible apply InMk.of
    | simp -zeta only [in_mk_iff]
    | split

def State.rxGo_foot : Foot := State.putCtx_foot ||| State.rxProcess_foot ||| State.rxNext_foot
theorem State.rxGo_in {s : State} {x : Nat} (hks : In ft s0 s) (hft : State.rxGo_foot.le ft = true) :
    In ft s0 (State.rxGo s x) := by
  unfold State.rxGo
  repeat' first
    | (extract_lets +onlyGivenNames x; clear_value x)
    | with_reducible first | assumption | apply State.putCtx_in | apply State.rxProcess_in | apply State.rxNext_in
    | exact Foot.sub hft rfl
    | with_reducible exact Or.inl rfl
    | exact Or.inr (Foot.sub hft rfl)
    | with_reducible apply InMk.of
    | simp -zeta only [in_mk_iff]
    | split

def State.rx_foot : Foot :=
  Fld.RX_DROP_CNT.foot ||| Fld.RAE_FLAGS_CNT_OVF.foot ||| State.count_foot ||| State.ctxUse_foot |||
    State.cnpFor_foot ||| State.rxPark_foot ||| State.rxProcess_foot ||| State.rxNext_foot
theorem State.rx_in {s : State} {p : Pkt} (hks : In ft s0 s) (hft : State.rx_foot.le ft = true) :
    In ft s0 (State.rx s p) := by
  unfold State.rx
  repeat' first
    | (extract_lets +onlyGivenNames x
       first
       | (have : In ft s0 x := by
            subst x
            repeat' first
              | (extract_lets +onlyGivenNames x; subst x)
              | with_reducible first
                  | assumption | apply State.count_in | apply State.ctxUse_in | apply State.cnpFor_in
                  | apply State.rxPark_in | apply State.rxProcess_in | apply State.rxNext_in | apply in_ite
              | exact Foot.sub hft rfl
              | with_reducible exact Or.inl rfl
              | exact Or.inr (Foot.sub hft rfl)
              | with_reducible apply InMk.of
              | simp -zeta only [in_mk_iff]
              | split
          clear_value x)
       | clear_value x
       | subst x)
    | with_reducible first
        | assumption | apply State.count_in | apply State.ctxUse_in | apply State.cnpFor_in | apply State.rxPark_in
        | apply State.rxProcess_in | apply State.rxNext_in | apply in_ite
    | exact Foot.sub hft rfl
    | with_reducible exact Or.inl rfl
    | exact Or.inr (Foot.sub hft rfl)
    | with_reducible apply InMk.of
    | simp -zeta only [in_mk_iff]
    | split

def State.emit_foot : Foot := State.ctxSend_foot
theorem State.emit_in {s : State} {t : Nat} {c : RCtx} {r : TReq} {i : Nat} (hks : In ft s0 s)
    (hft : State.emit_foot.le ft = true) :
    In ft s0 (State.emit s t c r i) := by
  unfold State.emit
  repeat' first
    | (extract_lets +onlyGivenNames x; clear_value x)
    | with_reducible first | assumption | apply State.ctxSend_in | apply in_ite
    | exact Foot.sub hft rfl
    | split

def State.emitFrom_foot : Foot := State.emit_foot
theorem State.emitFrom_in {s : State} {t : Nat} {c : RCtx} {r : TReq} {i : Nat} (hks : In ft s0 s)
    (hft : State.emitFrom_foot.le ft = true) :
    In ft s0 (State.emitFrom s t c r i) := by
  unfold State.emitFrom
  repeat' first
    | with_reducible first | assumption | apply State.each_in | apply State.emit_in | apply in_ite
    | exact Foot.sub hft rfl
    | split
    | intro _ _ _
    | intro _ _

def State.raeResend_foot : Foot := State.emitFrom_foot
theorem State.raeResend_in {s : State} {t psn : Nat} (hks : In ft s0 s) (hft : State.raeResend_foot.le ft = true) :
    In ft s0 (State.raeResend s t psn) := by
  unfold State.raeResend
  repeat' first
    | (extract_lets +onlyGivenNames x; clear_value x)
    | with_reducible first | assumption | apply State.each_in | apply State.emitFrom_in | apply in_ite
    | exact Foot.sub hft rfl
    | split
    | intro _ _ _
    | intro _ _

def State.updReq_foot : Foot := State.updCtx_foot
theorem State.updReq_in {s : State} {t : Nat} {f : TReq → TReq} (hks : In ft s0 s)
    (hft : State.updReq_foot.le ft = true) :
    In ft s0 (State.updReq s t f) := by
  unfold State.updReq
  repeat' first
    | (extract_lets +onlyGivenNames x; clear_value x)
    | with_reducible first | assumption | apply State.updCtx_in
    | exact Foot.sub hft rfl
    | with_reducible exact Or.inl rfl
    | exact Or.inr (Foot.sub hft rfl)
    | with_reducible apply InMk.of
    | simp -zeta only [in_mk_iff]
    | intro _ _ _
    | intro _ _

def State.progress_foot : Foot := State.updCtx_foot
theorem State.progress_in {s : State} {t : Nat} (hks : In ft s0 s) (hft : State.progress_foot.le ft = true) :
    In ft s0 (State.progress s t) := by
  unfold State.progress
  repeat' first
    | (extract_lets +onlyGivenNames x; clear_value x)
    | with_reducible first | assumption | apply State.updCtx_in
    | exact Foot.sub hft rfl
    | with_reducible exact Or.inl rfl
    | exact Or.inr (Foot.sub hft rfl)
    | with_reducible apply InMk.of
    | simp -zeta only [in_mk_iff]
    | intro _ _ _
    | intro _ _

def State.ackUpTo_foot : Foot := State.putCtx_foot ||| State.progress_foot
theorem State.ackUpTo_in {s : State} {t psn : Nat} (hks : In ft s0 s) (hft : State.ackUpTo_foot.le ft = true) :
    In ft s0 (State.ackUpTo s t psn) := by
  unfold State.ackUpTo
  repeat' first
    | (extract_lets +onlyGivenNames x; clear_value x)
    | with_reducible first | assumption | apply State.putCtx_in | apply State.progress_in | apply in_ite
    | exact Foot.sub hft rfl
    | with_reducible exact Or.inl rfl
    | exact Or.inr (Foot.sub hft rfl)
    | with_reducible apply InMk.of
    | simp -zeta only [in_mk_iff]
    | split

def State.reqReady_foot : Foot :=
  State.chargeCp_foot ||| State.probeLines_foot ||| State.readTouch_foot ||| State.raePages_foot
theorem State.reqReady_in {s : State} {r : TReq} (hks : In ft s0 s) (hft : State.reqReady_foot.le ft = true) :
    InP ft s0 (State.reqReady s r) := by
  unfold State.reqReady
  repeat' first
    | (extract_lets +onlyGivenNames x
       first
       | (have : In ft s0 x := by
            subst x
            repeat' first
              | (extract_lets +onlyGivenNames x; subst x)
              | with_reducible first
                  | assumption | apply State.each_in | apply State.chargeCp_in | apply State.probeLines_in
                  | apply State.readTouch_in | apply State.raePages_in | apply inP_ite | apply in_ite
              | exact Foot.sub hft rfl
              | with_reducible refine InP.eq (by assumption) ?_
              | (with_reducible refine InP.fst ?_
                 with_reducible first
                   | assumption | apply State.probeLines_in | apply State.raePages_in)
              | split
              | intro _ _ _
              | intro _ _
              | with_reducible apply InP.pair
              | dsimp -zeta only
          clear_value x)
       | (have : InP ft s0 x := by
            subst x
            repeat' first
              | (extract_lets +onlyGivenNames x; subst x)
              | with_reducible first
                  | assumption | apply State.each_in | apply State.chargeCp_in | apply State.probeLines_in
                  | apply State.readTouch_in | apply State.raePages_in | apply inP_ite | apply in_ite
              | exact Foot.sub hft rfl
              | with_reducible refine InP.eq (by assumption) ?_
              | (with_reducible refine InP.fst ?_
                 with_reducible first
                   | assumption | apply State.probeLines_in | apply State.raePages_in)
              | split
              | intro _ _ _
              | intro _ _
              | with_reducible apply InP.pair
              | dsimp -zeta only
          clear_value x)
       | clear_value x
       | subst x)
    | with_reducible first
        | assumption | apply State.each_in | apply State.chargeCp_in | apply State.probeLines_in
        | apply State.readTouch_in | apply State.raePages_in | apply inP_ite | apply in_ite
    | exact Foot.sub hft rfl
    | with_reducible refine InP.eq (by assumption) ?_
    | (with_reducible refine InP.fst ?_
       with_reducible first
         | assumption | apply State.probeLines_in | apply State.raePages_in)
    | split
    | intro _ _ _
    | intro _ _
    | with_reducible apply InP.pair
    | dsimp -zeta only

def State.sendNext_foot : Foot :=
  State.updCtx_foot ||| State.entWait_foot ||| State.entGo_foot ||| State.emitFrom_foot ||| State.updReq_foot |||
    State.reqReady_foot
theorem State.sendNext_in {n : Nat} {t : Nat} {s : State} (hks : In ft s0 s)
    (hft : State.sendNext_foot.le ft = true) :
    In ft s0 (State.sendNext n t s) := by
  induction n generalizing t s with
  | zero => exact hks
  | succ n ih =>
  unfold State.sendNext
  repeat' first
    | (extract_lets +onlyGivenNames x
       first
       | (have hgo : ∀ s y, In ft s0 s → In ft s0 (x s y) := by
            intro s y hs
            subst x
            repeat' first
              | (extract_lets +onlyGivenNames x; subst x)
              | with_reducible first
                  | assumption | apply ih | apply State.updCtx_in | apply State.entWait_in | apply State.entGo_in
                  | apply State.emitFrom_in | apply State.updReq_in | apply State.reqReady_in | apply in_ite
                  | apply inP_ite
              | exact Foot.sub hft rfl
              | with_reducible exact Or.inl rfl
              | exact Or.inr (Foot.sub hft rfl)
              | with_reducible apply InMk.of
              | simp -zeta only [in_mk_iff]
              | with_reducible refine InP.eq (by assumption) ?_
              | (with_reducible refine InP.fst ?_; with_reducible first | assumption | apply State.reqReady_in)
              | split
              | intro _ _ _
              | intro _ _
              | with_reducible apply InP.pair
              | dsimp -zeta only
          clear_value x)
       | (have : In ft s0 x := by
            subst x
            repeat' first
              | (extract_lets +onlyGivenNames x; subst x)
              | with_reducible first
                  | assumption | apply hgo | apply ih | apply State.updCtx_in | apply State.entWait_in
                  | apply State.entGo_in | apply State.emitFrom_in | apply State.updReq_in | apply State.reqReady_in
                  | apply in_ite | apply inP_ite
              | exact Foot.sub hft rfl
              | with_reducible exact Or.inl rfl
              | exact Or.inr (Foot.sub hft rfl)
              | with_reducible apply InMk.of
              | simp -zeta only [in_mk_iff]
              | with_reducible refine InP.eq (by assumption) ?_
              | (with_reducible refine InP.fst ?_; with_reducible first | assumption | apply State.reqReady_in)
              | split
              | intro _ _ _
              | intro _ _
              | with_reducible apply InP.pair
              | dsimp -zeta only
          clear_value x)
       | (have : InP ft s0 x := by
            subst x
            repeat' first
              | (extract_lets +onlyGivenNames x; subst x)
              | with_reducible first
                  | assumption | apply hgo | apply ih | apply State.updCtx_in | apply State.entWait_in
                  | apply State.entGo_in | apply State.emitFrom_in | apply State.updReq_in | apply State.reqReady_in
                  | apply in_ite | apply inP_ite
              | exact Foot.sub hft rfl
              | with_reducible exact Or.inl rfl
              | exact Or.inr (Foot.sub hft rfl)
              | with_reducible apply InMk.of
              | simp -zeta only [in_mk_iff]
              | with_reducible refine InP.eq (by assumption) ?_
              | (with_reducible refine InP.fst ?_; with_reducible first | assumption | apply State.reqReady_in)
              | split
              | intro _ _ _
              | intro _ _
              | with_reducible apply InP.pair
              | dsimp -zeta only
          clear_value x)
       | clear_value x
       | subst x)
    | with_reducible first
        | assumption | apply hgo | apply ih | apply State.updCtx_in | apply State.entWait_in | apply State.entGo_in
        | apply State.emitFrom_in | apply State.updReq_in | apply State.reqReady_in | apply in_ite | apply inP_ite
    | exact Foot.sub hft rfl
    | with_reducible exact Or.inl rfl
    | exact Or.inr (Foot.sub hft rfl)
    | with_reducible apply InMk.of
    | simp -zeta only [in_mk_iff]
    | with_reducible refine InP.eq (by assumption) ?_
    | (with_reducible refine InP.fst ?_; with_reducible first | assumption | apply State.reqReady_in)
    | split
    | intro _ _ _
    | intro _ _
    | with_reducible apply InP.pair
    | dsimp -zeta only

def State.storeRead_foot : Foot :=
  State.entWait_foot ||| State.entGo_foot ||| State.probeLines_foot ||| State.storeLines_foot |||
    State.raePages_foot ||| State.updReq_foot
theorem State.storeRead_in {s : State} {t : Nat} {r : TReq} (hks : In ft s0 s)
    (hft : State.storeRead_foot.le ft = true) :
    In ft s0 (State.storeRead s t r) := by
  unfold State.storeRead
  repeat' first
    | (extract_lets +onlyGivenNames x
       first
       | (have hgo : ∀ s y, In ft s0 s → In ft s0 (x s y) := by
            intro s y hs
            subst x
            repeat' first
              | (extract_lets +onlyGivenNames x; subst x)
              | with_reducible first
                  | assumption | apply State.entWait_in | apply State.entGo_in | apply State.probeLines_in
                  | apply State.storeLines_in | apply State.raePages_in | apply State.updReq_in | apply in_ite
                  | apply inP_ite
              | exact Foot.sub hft rfl
              | with_reducible exact Or.inl rfl
              | exact Or.inr (Foot.sub hft rfl)
              | with_reducible apply InMk.of
              | simp -zeta only [in_mk_iff]
              | with_reducible refine InP.eq (by assumption) ?_
              | (with_reducible refine InP.fst ?_
                 with_reducible first
                   | assumption | apply State.probeLines_in | apply State.storeLines_in | apply State.raePages_in)
              | split
              | intro _ _ _
              | intro _ _
              | with_reducible apply InP.pair
              | dsimp -zeta only
          clear_value x)
       | (have : In ft s0 x := by
            subst x
            repeat' first
              | (extract_lets +onlyGivenNames x; subst x)
              | with_reducible first
                  | assumption | apply hgo | apply State.entWait_in | apply State.entGo_in
                  | apply State.probeLines_in | apply State.storeLines_in | apply State.raePages_in
                  | apply State.updReq_in | apply in_ite | apply inP_ite
              | exact Foot.sub hft rfl
              | with_reducible exact Or.inl rfl
              | exact Or.inr (Foot.sub hft rfl)
              | with_reducible apply InMk.of
              | simp -zeta only [in_mk_iff]
              | with_reducible refine InP.eq (by assumption) ?_
              | (with_reducible refine InP.fst ?_
                 with_reducible first
                   | assumption | apply State.probeLines_in | apply State.storeLines_in | apply State.raePages_in)
              | split
              | intro _ _ _
              | intro _ _
              | with_reducible apply InP.pair
              | dsimp -zeta only
          clear_value x)
       | (have : InP ft s0 x := by
            subst x
            repeat' first
              | (extract_lets +onlyGivenNames x; subst x)
              | with_reducible first
                  | assumption | apply hgo | apply State.entWait_in | apply State.entGo_in
                  | apply State.probeLines_in | apply State.storeLines_in | apply State.raePages_in
                  | apply State.updReq_in | apply in_ite | apply inP_ite
              | exact Foot.sub hft rfl
              | with_reducible exact Or.inl rfl
              | exact Or.inr (Foot.sub hft rfl)
              | with_reducible apply InMk.of
              | simp -zeta only [in_mk_iff]
              | with_reducible refine InP.eq (by assumption) ?_
              | (with_reducible refine InP.fst ?_
                 with_reducible first
                   | assumption | apply State.probeLines_in | apply State.storeLines_in | apply State.raePages_in)
              | split
              | intro _ _ _
              | intro _ _
              | with_reducible apply InP.pair
              | dsimp -zeta only
          clear_value x)
       | clear_value x
       | subst x)
    | with_reducible first
        | assumption | apply hgo | apply State.entWait_in | apply State.entGo_in | apply State.probeLines_in
        | apply State.storeLines_in | apply State.raePages_in | apply State.updReq_in | apply in_ite | apply inP_ite
    | exact Foot.sub hft rfl
    | with_reducible exact Or.inl rfl
    | exact Or.inr (Foot.sub hft rfl)
    | with_reducible apply InMk.of
    | simp -zeta only [in_mk_iff]
    | with_reducible refine InP.eq (by assumption) ?_
    | (with_reducible refine InP.fst ?_
       with_reducible first
         | assumption | apply State.probeLines_in | apply State.storeLines_in | apply State.raePages_in)
    | split
    | intro _ _ _
    | intro _ _
    | with_reducible apply InP.pair
    | dsimp -zeta only

def State.slotWrite_foot : Foot :=
  State.entWait_foot ||| State.entGo_foot ||| State.storeLine_foot ||| State.raePage_foot
theorem State.slotWrite_in {s : State} {t : Nat} {r : TReq} (hks : In ft s0 s)
    (hft : State.slotWrite_foot.le ft = true) :
    InP ft s0 (State.slotWrite s t r) := by
  unfold State.slotWrite
  repeat' first
    | (extract_lets +onlyGivenNames x
       first
       | (have hgo : ∀ s y, In ft s0 s → InP ft s0 (x s y) := by
            intro s y hs
            subst x
            repeat' first
              | (extract_lets +onlyGivenNames x; subst x)
              | with_reducible first
                  | assumption | apply State.entWait_in | apply State.entGo_in | apply State.storeLine_in
                  | apply State.raePage_in | apply inP_ite | apply in_ite
              | exact Foot.sub hft rfl
              | with_reducible refine InP.eq (by assumption) ?_
              | (with_reducible refine InP.fst ?_
                 with_reducible first
                   | assumption | apply State.storeLine_in | apply State.raePage_in)
              | split
              | with_reducible apply InP.pair
              | dsimp -zeta only
          clear_value x)
       | (have : In ft s0 x := by
            subst x
            repeat' first
              | (extract_lets +onlyGivenNames x; subst x)
              | with_reducible first
                  | assumption | apply hgo | apply State.entWait_in | apply State.entGo_in | apply State.storeLine_in
                  | apply State.raePage_in | apply inP_ite | apply in_ite
              | exact Foot.sub hft rfl
              | with_reducible refine InP.eq (by assumption) ?_
              | (with_reducible refine InP.fst ?_
                 with_reducible first
                   | assumption | apply State.storeLine_in | apply State.raePage_in)
              | split
              | with_reducible apply InP.pair
              | dsimp -zeta only
          clear_value x)
       | (have : InP ft s0 x := by
            subst x
            repeat' first
              | (extract_lets +onlyGivenNames x; subst x)
              | with_reducible first
                  | assumption | apply hgo | apply State.entWait_in | apply State.entGo_in | apply State.storeLine_in
                  | apply State.raePage_in | apply inP_ite | apply in_ite
              | exact Foot.sub hft rfl
              | with_reducible refine InP.eq (by assumption) ?_
              | (with_reducible refine InP.fst ?_
                 with_reducible first
                   | assumption | apply State.storeLine_in | apply State.raePage_in)
              | split
              | with_reducible apply InP.pair
              | dsimp -zeta only
          clear_value x)
       | clear_value x
       | subst x)
    | with_reducible first
        | assumption | apply hgo | apply State.entWait_in | apply State.entGo_in | apply State.storeLine_in
        | apply State.raePage_in | apply inP_ite | apply in_ite
    | exact Foot.sub hft rfl
    | with_reducible refine InP.eq (by assumption) ?_
    | (with_reducible refine InP.fst ?_
       with_reducible first
         | assumption | apply State.storeLine_in | apply State.raePage_in)
    | split
    | with_reducible apply InP.pair
    | dsimp -zeta only

def State.reqEnd_foot : Foot := State.updCtx_foot
theorem State.reqEnd_in {s : State} {r : TReq} (hks : In ft s0 s) (hft : State.reqEnd_foot.le ft = true) :
    In ft s0 (State.reqEnd s r) := by
  unfold State.reqEnd
  repeat' first
    | (extract_lets +onlyGivenNames x
       first
       | (have : In ft s0 x := by
            subst x
            repeat' first
              | with_reducible first | assumption | apply State.updCtx_in | apply in_ite
              | exact Foot.sub hft rfl
              | with_reducible exact Or.inl rfl
              | exact Or.inr (Foot.sub hft rfl)
              | with_reducible apply InMk.of
              | simp -zeta only [in_mk_iff]
              | split
              | intro _ _ _
              | intro _ _
          clear_value x)
       | clear_value x
       | subst x)
    | with_reducible first | assumption | apply State.updCtx_in | apply in_ite
    | exact Foot.sub hft rfl
    | with_reducible exact Or.inl rfl
    | exact Or.inr (Foot.sub hft rfl)
    | with_reducible apply InMk.of
    | simp -zeta only [in_mk_iff]
    | split
    | intro _ _ _
    | intro _ _

def State.completeAll_foot : Foot := State.updCtx_foot ||| State.slotWrite_foot ||| State.reqEnd_foot
theorem State.completeAll_in {s : State} {t : Nat} (hks : In ft s0 s) (hft : State.completeAll_foot.le ft = true) :
    In ft s0 (State.completeAll s t) := by
  unfold State.completeAll
  repeat' first
    | (extract_lets +onlyGivenNames x
       first
       | (have : In ft s0 x := by
            subst x
            repeat' first
              | with_reducible first
                  | assumption | apply State.each_in | apply State.updCtx_in | apply State.slotWrite_in
                  | apply State.reqEnd_in | apply in_ite | apply inP_ite
              | exact Foot.sub hft rfl
              | with_reducible exact Or.inl rfl
              | exact Or.inr (Foot.sub hft rfl)
              | with_reducible apply InMk.of
              | simp -zeta only [in_mk_iff]
              | with_reducible refine InP.eq (by assumption) ?_
              | (with_reducible refine InP.fst ?_; with_reducible first | assumption | apply State.slotWrite_in)
              | split
              | intro _ _ _
              | intro _ _
              | with_reducible apply InP.pair
              | dsimp -zeta only
          clear_value x)
       | (have : InP ft s0 x := by
            subst x
            repeat' first
              | with_reducible first
                  | assumption | apply State.each_in | apply State.updCtx_in | apply State.slotWrite_in
                  | apply State.reqEnd_in | apply in_ite | apply inP_ite
              | exact Foot.sub hft rfl
              | with_reducible exact Or.inl rfl
              | exact Or.inr (Foot.sub hft rfl)
              | with_reducible apply InMk.of
              | simp -zeta only [in_mk_iff]
              | with_reducible refine InP.eq (by assumption) ?_
              | (with_reducible refine InP.fst ?_; with_reducible first | assumption | apply State.slotWrite_in)
              | split
              | intro _ _ _
              | intro _ _
              | with_reducible apply InP.pair
              | dsimp -zeta only
          clear_value x)
       | clear_value x
       | subst x)
    | with_reducible first
        | assumption | apply State.each_in | apply State.updCtx_in | apply State.slotWrite_in | apply State.reqEnd_in
        | apply in_ite | apply inP_ite
    | exact Foot.sub hft rfl
    | with_reducible exact Or.inl rfl
    | exact Or.inr (Foot.sub hft rfl)
    | with_reducible apply InMk.of
    | simp -zeta only [in_mk_iff]
    | with_reducible refine InP.eq (by assumption) ?_
    | (with_reducible refine InP.fst ?_; with_reducible first | assumption | apply State.slotWrite_in)
    | split
    | intro _ _ _
    | intro _ _
    | with_reducible apply InP.pair
    | dsimp -zeta only

def State.flushSlots_foot : Foot := Part.rae.foot ||| State.slotWrite_foot ||| State.reqEnd_foot
theorem State.flushSlots_in {s : State} (hks : In ft s0 s) (hft : State.flushSlots_foot.le ft = true) :
    In ft s0 (State.flushSlots s) := by
  unfold State.flushSlots
  repeat' first
    | (extract_lets +onlyGivenNames x
       first
       | (have : In ft s0 x := by
            subst x
            repeat' first
              | with_reducible first
                  | assumption | apply State.each_in | apply State.slotWrite_in | apply State.reqEnd_in
                  | apply in_ite | apply inP_ite
              | exact Foot.sub hft rfl
              | with_reducible exact Or.inl rfl
              | exact Or.inr (Foot.sub hft rfl)
              | with_reducible apply InMk.of
              | simp -zeta only [in_mk_iff]
              | with_reducible refine InP.eq (by assumption) ?_
              | (with_reducible refine InP.fst ?_; with_reducible first | assumption | apply State.slotWrite_in)
              | split
              | intro _ _ _
              | intro _ _
              | with_reducible apply InP.pair
              | dsimp -zeta only
          clear_value x)
       | (have : InP ft s0 x := by
            subst x
            repeat' first
              | with_reducible first
                  | assumption | apply State.each_in | apply State.slotWrite_in | apply State.reqEnd_in
                  | apply in_ite | apply inP_ite
              | exact Foot.sub hft rfl
              | with_reducible exact Or.inl rfl
              | exact Or.inr (Foot.sub hft rfl)
              | with_reducible apply InMk.of
              | simp -zeta only [in_mk_iff]
              | with_reducible refine InP.eq (by assumption) ?_
              | (with_reducible refine InP.fst ?_; with_reducible first | assumption | apply State.slotWrite_in)
              | split
              | intro _ _ _
              | intro _ _
              | with_reducible apply InP.pair
              | dsimp -zeta only
          clear_value x)
       | clear_value x
       | subst x)
    | with_reducible first
        | assumption | apply State.each_in | apply State.slotWrite_in | apply State.reqEnd_in | apply in_ite
        | apply inP_ite
    | exact Foot.sub hft rfl
    | with_reducible exact Or.inl rfl
    | exact Or.inr (Foot.sub hft rfl)
    | with_reducible apply InMk.of
    | simp -zeta only [in_mk_iff]
    | with_reducible refine InP.eq (by assumption) ?_
    | (with_reducible refine InP.fst ?_; with_reducible first | assumption | apply State.slotWrite_in)
    | split
    | intro _ _ _
    | intro _ _
    | with_reducible apply InP.pair
    | dsimp -zeta only

def State.release_foot : Foot := State.updCtx_foot
theorem State.release_in {s : State} {x : Nat} {c : RCtx} {slot : Nat} (hks : In ft s0 s)
    (hft : State.release_foot.le ft = true) :
    In ft s0 (State.release s x c slot) := by
  unfold State.release
  repeat' first
    | (extract_lets +onlyGivenNames x
       first
       | (have : In ft s0 x := by
            subst x
            repeat' first
              | (extract_lets +onlyGivenNames x; subst x)
              | with_reducible first | assumption | apply State.updCtx_in | apply in_ite
              | exact Foot.sub hft rfl
              | with_reducible exact Or.inl rfl
              | exact Or.inr (Foot.sub hft rfl)
              | with_reducible apply InMk.of
              | simp -zeta only [in_mk_iff]
              | split
              | intro _ _ _
              | intro _ _
          clear_value x)
       | clear_value x
       | subst x)
    | with_reducible first | assumption | apply State.updCtx_in | apply in_ite
    | exact Foot.sub hft rfl
    | with_reducible exact Or.inl rfl
    | exact Or.inr (Foot.sub hft rfl)
    | with_reducible apply InMk.of
    | simp -zeta only [in_mk_iff]
    | split
    | intro _ _ _
    | intro _ _

def State.examine_foot : Foot :=
  State.count_foot ||| State.updCtx_foot ||| State.entWait_foot ||| State.entGo_foot ||| State.probeLines_foot |||
    State.readTouch_foot ||| State.raePage_foot ||| State.release_foot
theorem State.examine_in {n : Nat} {x : Nat} {s : State} (hks : In ft s0 s) (hft : State.examine_foot.le ft = true) :
    In ft s0 (State.examine n x s) := by
  induction n generalizing x s with
  | zero => exact hks
  | succ n ih =>
  unfold State.examine
  repeat' first
    | (extract_lets +onlyGivenNames x
       first
       | (have : In ft s0 x := by
            subst x
            repeat' first
              | (extract_lets +onlyGivenNames x; subst x)
              | with_reducible first
                  | assumption | apply ih | apply State.count_in | apply State.updCtx_in | apply State.entWait_in
                  | apply State.entGo_in | apply State.probeLines_in | apply State.readTouch_in
                  | apply State.raePage_in | apply State.release_in | apply in_ite | apply inP_ite
              | exact Foot.sub hft rfl
              | with_reducible exact Or.inl rfl
              | exact Or.inr (Foot.sub hft rfl)
              | with_reducible apply InMk.of
              | simp -zeta only [in_mk_iff]
              | with_reducible refine InP.eq (by assumption) ?_
              | (with_reducible refine InP.fst ?_
                 with_reducible first
                   | assumption | apply State.probeLines_in | apply State.raePage_in)
              | split
              | intro _ _ _
              | intro _ _
              | with_reducible apply InP.pair
              | dsimp -zeta only
          clear_value x)
       | (have : InP ft s0 x := by
            subst x
            repeat' first
              | (extract_lets +onlyGivenNames x; subst x)
              | with_reducible first
                  | assumption | apply ih | apply State.count_in | apply State.updCtx_in | apply State.entWait_in
                  | apply State.entGo_in | apply State.probeLines_in | apply State.readTouch_in
                  | apply State.raePage_in | apply State.release_in | apply in_ite | apply inP_ite
              | exact Foot.sub hft rfl
              | with_reducible exact Or.inl rfl
              | exact Or.inr (Foot.sub hft rfl)
              | with_reducible apply InMk.of
              | simp -zeta only [in_mk_iff]
              | with_reducible refine InP.eq (by assumption) ?_
              | (with_reducible refine InP.fst ?_
                 with_reducible first
                   | assumption | apply State.probeLines_in | apply State.raePage_in)
              | split
              | intro _ _ _
              | intro _ _
              | with_reducible apply InP.pair
              | dsimp -zeta only
          clear_value x)
       | clear_value x
       | subst x)
    | with_reducible first
        | assumption | apply ih | apply State.count_in | apply State.updCtx_in | apply State.entWait_in
        | apply State.entGo_in | apply State.probeLines_in | apply State.readTouch_in | apply State.raePage_in
        | apply State.release_in | apply in_ite | apply inP_ite
    | exact Foot.sub hft rfl
    | with_reducible exact Or.inl rfl
    | exact Or.inr (Foot.sub hft rfl)
    | with_reducible apply InMk.of
    | simp -zeta only [in_mk_iff]
    | with_reducible refine InP.eq (by assumption) ?_
    | (with_reducible refine InP.fst ?_
       with_reducible first
         | assumption | apply State.probeLines_in | apply State.raePage_in)
    | split
    | intro _ _ _
    | intro _ _
    | with_reducible apply InP.pair
    | dsimp -zeta only

def State.raeCtx_foot : Foot :=
  State.ctxUse_foot ||| State.readsRun_foot ||| State.rxGo_foot ||| State.sendNext_foot |||
    State.storeRead_foot ||| State.completeAll_foot ||| State.examine_foot
theorem State.raeCtx_in {s : State} {x : Nat} (hks : In ft s0 s) (hft : State.raeCtx_foot.le ft = true) :
    In ft s0 (State.raeCtx s x) := by
  unfold State.raeCtx
  repeat' first
    | (extract_lets +onlyGivenNames x
       first
       | (have : In ft s0 x := by
            subst x
            repeat' first
              | (extract_lets +onlyGivenNames x; subst x)
              | with_reducible first
                  | assumption | apply State.each_in | apply State.ctxUse_in | apply State.readsRun_in
                  | apply State.rxGo_in | apply State.sendNext_in | apply State.storeRead_in
                  | apply State.completeAll_in | apply State.examine_in | apply in_ite
              | exact Foot.sub hft rfl
              | split
              | intro _ _ _
              | intro _ _
          clear_value x)
       | clear_value x
       | subst x)
    | with_reducible first
        | assumption | apply State.each_in | apply State.ctxUse_in | apply State.readsRun_in | apply State.rxGo_in
        | apply State.sendNext_in | apply State.storeRead_in | apply State.completeAll_in | apply State.examine_in
        | apply in_ite
    | exact Foot.sub hft rfl
    | split
    | intro _ _ _
    | intro _ _

def State.raePass_foot : Foot := State.flushSlots_foot ||| State.raeCtx_foot
theorem State.raePass_in {n : Nat} {s : State} (hks : In ft s0 s) (hft : State.raePass_foot.le ft = true) :
    In ft s0 (State.raePass n s) := by
  induction n generalizing s with
  | zero => exact hks
  | succ n ih =>
  unfold State.raePass
  repeat' first
    | (extract_lets +onlyGivenNames x
       first
       | (have : In ft s0 x := by
            subst x
            repeat' first
              | with_reducible first
                  | assumption | apply ih | apply State.each_in | apply State.flushSlots_in | apply State.raeCtx_in
                  | apply in_ite
              | exact Foot.sub hft rfl
              | split
              | intro _ _ _
              | intro _ _
          clear_value x)
       | clear_value x
       | subst x)
    | with_reducible first
        | assumption | apply ih | apply State.each_in | apply State.flushSlots_in | apply State.raeCtx_in
        | apply in_ite
    | exact Foot.sub hft rfl
    | split
    | intro _ _ _
    | intro _ _

def State.raeRun_foot : Foot := State.raeRegs_foot ||| State.raePass_foot
theorem State.raeRun_in {s : State} (hks : In ft s0 s) (hft : State.raeRun_foot.le ft = true) :
    In ft s0 (State.raeRun s) := by
  unfold State.raeRun
  repeat' first
    | with_reducible first | assumption | apply State.raeRegs_in | apply State.raePass_in | apply in_ite
    | exact Foot.sub hft rfl
    | split

def State.rxRow_foot : Foot := State.rx_foot ||| State.raeRun_foot
theorem State.rxRow_in {s : State} {ok : Bool} {p : Pkt} (hks : In ft s0 s) (hft : State.rxRow_foot.le ft = true) :
    In ft s0 (State.rxRow s ok p) := by
  unfold State.rxRow
  repeat' first
    | with_reducible first | assumption | apply State.rx_in | apply State.raeRun_in | apply in_ite
    | exact Foot.sub hft rfl
    | split

def execRdmaWrite_foot : Foot := State.rxRow_foot
theorem execRdmaWrite_in {p : Pkt} {s : State} (hks : In ft s0 s) (hft : execRdmaWrite_foot.le ft = true) :
    InOut ft s0 (execRdmaWrite p s) := by
  unfold execRdmaWrite
  repeat' first
    | (extract_lets +onlyGivenNames x; clear_value x)
    | with_reducible first | assumption | apply State.rxRow_in | apply InOut.next
    | exact Foot.sub hft rfl
    | with_reducible exact Or.inl rfl
    | exact Or.inr (Foot.sub hft rfl)
    | with_reducible apply InMk.of
    | simp -zeta only [in_mk_iff]

def execRdmaSend_foot : Foot := State.rxRow_foot
theorem execRdmaSend_in {p : Pkt} {s : State} (hks : In ft s0 s) (hft : execRdmaSend_foot.le ft = true) :
    InOut ft s0 (execRdmaSend p s) := by
  unfold execRdmaSend
  repeat' first
    | with_reducible first | assumption | apply State.rxRow_in | apply InOut.next
    | exact Foot.sub hft rfl

def execRdmaReadRequest_foot : Foot := State.rxRow_foot
theorem execRdmaReadRequest_in {p : Pkt} {s : State} (hks : In ft s0 s)
    (hft : execRdmaReadRequest_foot.le ft = true) :
    InOut ft s0 (execRdmaReadRequest p s) := by
  unfold execRdmaReadRequest
  repeat' first
    | with_reducible first | assumption | apply State.rxRow_in | apply InOut.next
    | exact Foot.sub hft rfl

def execCmpswap_foot : Foot := State.rxRow_foot
theorem execCmpswap_in {p : Pkt} {s : State} (hks : In ft s0 s) (hft : execCmpswap_foot.le ft = true) :
    InOut ft s0 (execCmpswap p s) := by
  unfold execCmpswap
  repeat' first
    | with_reducible first | assumption | apply State.rxRow_in | apply InOut.next
    | exact Foot.sub hft rfl

def execFetchadd_foot : Foot := State.rxRow_foot
theorem execFetchadd_in {p : Pkt} {s : State} (hks : In ft s0 s) (hft : execFetchadd_foot.le ft = true) :
    InOut ft s0 (execFetchadd p s) := by
  unfold execFetchadd
  repeat' first
    | with_reducible first | assumption | apply State.rxRow_in | apply InOut.next
    | exact Foot.sub hft rfl

def State.reqRow_foot : Foot := State.raeRun_foot
theorem State.reqRow_in {s : State} {f : State → State} (hks : In ft s0 s) (hf : ∀ s, In ft s0 s → In ft s0 (f s))
    (hft : State.reqRow_foot.le ft = true) :
    In ft s0 (State.reqRow s f) := by
  unfold State.reqRow
  repeat' first
    | with_reducible first | assumption | apply State.raeRun_in | apply in_ite | apply hf
    | exact Foot.sub hft rfl
    | split
    | intro _ _ _
    | intro _ _

def execAcknowledge_foot : Foot := State.ackUpTo_foot ||| State.reqRow_foot
theorem execAcknowledge_in {t psn : Nat} {s : State} (hks : In ft s0 s) (hft : execAcknowledge_foot.le ft = true) :
    InOut ft s0 (execAcknowledge t psn s) := by
  unfold execAcknowledge
  repeat' first
    | with_reducible first | assumption | apply State.ackUpTo_in | apply State.reqRow_in | apply InOut.next
    | exact Foot.sub hft rfl
    | intro _ _ _
    | intro _ _

def State.failReq_foot : Foot := State.updReq_foot
theorem State.failReq_in {s : State} {t psn status : Nat} (hks : In ft s0 s) (hft : State.failReq_foot.le ft = true) :
    In ft s0 (State.failReq s t psn status) := by
  unfold State.failReq
  repeat' first
    | with_reducible first | assumption | apply State.updReq_in | apply in_ite
    | exact Foot.sub hft rfl
    | split
    | intro _ _ _
    | intro _ _

def State.retryExc_foot : Foot :=
  Fld.RETRY_EXC_CNT.foot ||| Fld.RAE_FLAGS_CNT_OVF.foot ||| State.count_foot ||| State.ctxError_foot |||
    State.updReq_foot
theorem State.retryExc_in {s : State} {t : Nat} (hks : In ft s0 s) (hft : State.retryExc_foot.le ft = true) :
    In ft s0 (State.retryExc s t) := by
  unfold State.retryExc
  repeat' first
    | (extract_lets +onlyGivenNames x
       first
       | (have : In ft s0 x := by
            subst x
            repeat' first
              | (extract_lets +onlyGivenNames x; subst x)
              | with_reducible first
                  | assumption | apply State.count_in | apply State.ctxError_in | apply State.updReq_in
                  | apply in_ite
              | exact Foot.sub hft rfl
              | split
              | intro _ _ _
              | intro _ _
          clear_value x)
       | clear_value x
       | subst x)
    | with_reducible first
        | assumption | apply State.count_in | apply State.ctxError_in | apply State.updReq_in | apply in_ite
    | exact Foot.sub hft rfl
    | split
    | intro _ _ _
    | intro _ _

def execRdmaNak_foot : Foot :=
  State.updCtx_foot ||| State.ctxError_foot ||| State.raeResend_foot ||| State.ackUpTo_foot |||
    State.reqRow_foot ||| State.failReq_foot ||| State.retryExc_foot
theorem execRdmaNak_in {t psn syn : Nat} {s : State} (hks : In ft s0 s) (hft : execRdmaNak_foot.le ft = true) :
    InOut ft s0 (execRdmaNak t psn syn s) := by
  unfold execRdmaNak
  repeat' first
    | (extract_lets +onlyGivenNames x
       first
       | (have : In ft s0 x := by
            subst x
            repeat' first
              | with_reducible first
                  | assumption | apply State.updCtx_in | apply State.ctxError_in | apply State.raeResend_in
                  | apply State.ackUpTo_in | apply State.reqRow_in | apply State.failReq_in | apply State.retryExc_in
                  | apply inOut_ite | apply in_ite | apply InOut.next
              | exact Foot.sub hft rfl
              | with_reducible exact Or.inl rfl
              | exact Or.inr (Foot.sub hft rfl)
              | with_reducible apply InMk.of
              | simp -zeta only [in_mk_iff]
              | split
              | intro _ _ _
              | intro _ _
          clear_value x)
       | clear_value x
       | subst x)
    | with_reducible first
        | assumption | apply State.updCtx_in | apply State.ctxError_in | apply State.raeResend_in
        | apply State.ackUpTo_in | apply State.reqRow_in | apply State.failReq_in | apply State.retryExc_in
        | apply inOut_ite | apply in_ite | apply InOut.next
    | exact Foot.sub hft rfl
    | with_reducible exact Or.inl rfl
    | exact Or.inr (Foot.sub hft rfl)
    | with_reducible apply InMk.of
    | simp -zeta only [in_mk_iff]
    | split
    | intro _ _ _
    | intro _ _

def execRdmaReadResponse_foot : Foot :=
  State.updReq_foot ||| State.progress_foot ||| State.ackUpTo_foot ||| State.reqRow_foot
theorem execRdmaReadResponse_in {t psn : Nat} {data : List Nat} {s : State} (hks : In ft s0 s)
    (hft : execRdmaReadResponse_foot.le ft = true) :
    InOut ft s0 (execRdmaReadResponse t psn data s) := by
  unfold execRdmaReadResponse
  repeat' first
    | (extract_lets +onlyGivenNames x
       first
       | (have : In ft s0 x := by
            subst x
            repeat' first
              | (extract_lets +onlyGivenNames x; subst x)
              | with_reducible first
                  | assumption | apply State.updReq_in | apply State.progress_in | apply State.ackUpTo_in
                  | apply State.reqRow_in | apply inOut_ite | apply in_ite | apply InOut.next
              | exact Foot.sub hft rfl
              | with_reducible exact Or.inl rfl
              | exact Or.inr (Foot.sub hft rfl)
              | with_reducible apply InMk.of
              | simp -zeta only [in_mk_iff]
              | split
              | intro _ _ _
              | intro _ _
          clear_value x)
       | clear_value x
       | subst x)
    | with_reducible first
        | assumption | apply State.updReq_in | apply State.progress_in | apply State.ackUpTo_in
        | apply State.reqRow_in | apply inOut_ite | apply in_ite | apply InOut.next
    | exact Foot.sub hft rfl
    | with_reducible exact Or.inl rfl
    | exact Or.inr (Foot.sub hft rfl)
    | with_reducible apply InMk.of
    | simp -zeta only [in_mk_iff]
    | split
    | intro _ _ _
    | intro _ _

def execSettleAck_foot : Foot :=
  State.updCtx_foot ||| State.updReq_foot ||| State.progress_foot ||| State.reqRow_foot
theorem execSettleAck_in {t psn state mark : Nat} {s : State} (hks : In ft s0 s)
    (hft : execSettleAck_foot.le ft = true) :
    InOut ft s0 (execSettleAck t psn state mark s) := by
  unfold execSettleAck
  repeat' first
    | (extract_lets +onlyGivenNames x; clear_value x)
    | with_reducible first
        | assumption | apply State.updCtx_in | apply State.updReq_in | apply State.progress_in
        | apply State.reqRow_in | apply inOut_ite | apply in_ite | apply InOut.next
    | exact Foot.sub hft rfl
    | with_reducible exact Or.inl rfl
    | exact Or.inr (Foot.sub hft rfl)
    | with_reducible apply InMk.of
    | simp -zeta only [in_mk_iff]
    | split
    | intro _ _ _
    | intro _ _

def execRdmaRetryTimeout_foot : Foot :=
  Fld.RAE_RETX_CNT.foot ||| Fld.RAE_FLAGS_CNT_OVF.foot ||| State.count_foot ||| State.updCtx_foot |||
    State.emit_foot ||| State.emitFrom_foot ||| State.reqRow_foot ||| State.retryExc_foot
theorem execRdmaRetryTimeout_in {t : Nat} {s : State} (hks : In ft s0 s)
    (hft : execRdmaRetryTimeout_foot.le ft = true) :
    InOut ft s0 (execRdmaRetryTimeout t s) := by
  unfold execRdmaRetryTimeout
  repeat' first
    | (extract_lets +onlyGivenNames x
       first
       | (have : In ft s0 x := by
            subst x
            repeat' first
              | (extract_lets +onlyGivenNames x; subst x)
              | with_reducible first
                  | assumption | apply State.each_in | apply State.count_in | apply State.updCtx_in
                  | apply State.emit_in | apply State.emitFrom_in | apply State.reqRow_in | apply State.retryExc_in
                  | apply inOut_ite | apply in_ite | apply InOut.next
              | exact Foot.sub hft rfl
              | with_reducible exact Or.inl rfl
              | exact Or.inr (Foot.sub hft rfl)
              | with_reducible apply InMk.of
              | simp -zeta only [in_mk_iff]
              | split
              | intro _ _ _
              | intro _ _
          clear_value x)
       | clear_value x
       | subst x)
    | with_reducible first
        | assumption | apply State.each_in | apply State.count_in | apply State.updCtx_in | apply State.emit_in
        | apply State.emitFrom_in | apply State.reqRow_in | apply State.retryExc_in | apply inOut_ite | apply in_ite
        | apply InOut.next
    | exact Foot.sub hft rfl
    | with_reducible exact Or.inl rfl
    | exact Or.inr (Foot.sub hft rfl)
    | with_reducible apply InMk.of
    | simp -zeta only [in_mk_iff]
    | split
    | intro _ _ _
    | intro _ _

def execRnrTimerExpiry_foot : Foot := State.updCtx_foot ||| State.raeResend_foot ||| State.reqRow_foot
theorem execRnrTimerExpiry_in {t : Nat} {s : State} (hks : In ft s0 s) (hft : execRnrTimerExpiry_foot.le ft = true) :
    InOut ft s0 (execRnrTimerExpiry t s) := by
  unfold execRnrTimerExpiry
  repeat' first
    | (extract_lets +onlyGivenNames x; clear_value x)
    | with_reducible first
        | assumption | apply State.updCtx_in | apply State.raeResend_in | apply State.reqRow_in | apply InOut.next
    | exact Foot.sub hft rfl
    | with_reducible exact Or.inl rfl
    | exact Or.inr (Foot.sub hft rfl)
    | with_reducible apply InMk.of
    | simp -zeta only [in_mk_iff]
    | split
    | intro _ _ _
    | intro _ _

def execCnp_foot : Foot :=
  Fld.CNP_RX_CNT.foot ||| Fld.RAE_FLAGS_CNT_OVF.foot ||| State.count_foot ||| State.updCtx_foot
theorem execCnp_in {t : Nat} {s : State} (hks : In ft s0 s) (hft : execCnp_foot.le ft = true) :
    InOut ft s0 (execCnp t s) := by
  unfold execCnp
  repeat' first
    | (extract_lets +onlyGivenNames x
       first
       | (have : In ft s0 x := by
            subst x
            repeat' first
              | with_reducible first
                  | assumption | apply State.count_in | apply State.updCtx_in | apply inOut_ite | apply in_ite
                  | apply InOut.next
              | exact Foot.sub hft rfl
              | with_reducible exact Or.inl rfl
              | exact Or.inr (Foot.sub hft rfl)
              | with_reducible apply InMk.of
              | simp -zeta only [in_mk_iff]
              | split
              | intro _ _ _
              | intro _ _
          clear_value x)
       | clear_value x
       | subst x)
    | with_reducible first
        | assumption | apply State.count_in | apply State.updCtx_in | apply inOut_ite | apply in_ite
        | apply InOut.next
    | exact Foot.sub hft rfl
    | with_reducible exact Or.inl rfl
    | exact Or.inr (Foot.sub hft rfl)
    | with_reducible apply InMk.of
    | simp -zeta only [in_mk_iff]
    | split
    | intro _ _ _
    | intro _ _

def execCcRecover_foot : Foot := State.updCtx_foot
theorem execCcRecover_in {t : Nat} {s : State} (hks : In ft s0 s) (hft : execCcRecover_foot.le ft = true) :
    InOut ft s0 (execCcRecover t s) := by
  unfold execCcRecover
  repeat' first
    | (extract_lets +onlyGivenNames x; clear_value x)
    | with_reducible first | assumption | apply State.updCtx_in | apply inOut_ite | apply in_ite | apply InOut.next
    | exact Foot.sub hft rfl
    | with_reducible exact Or.inl rfl
    | exact Or.inr (Foot.sub hft rfl)
    | with_reducible apply InMk.of
    | simp -zeta only [in_mk_iff]
    | split
    | intro _ _ _
    | intro _ _

def execPfcFrame_foot : Foot := Part.rae.foot ||| State.send_foot
theorem execPfcFrame_in {port : Nat} {xoff : Bool} {s : State} (hks : In ft s0 s)
    (hft : execPfcFrame_foot.le ft = true) :
    InOut ft s0 (execPfcFrame port xoff s) := by
  unfold execPfcFrame
  repeat' first
    | (extract_lets +onlyGivenNames x
       first
       | (have : In ft s0 x := by
            subst x
            repeat' first
              | (extract_lets +onlyGivenNames x; subst x)
              | with_reducible first
                  | assumption | apply State.send_in | apply State.each_in | apply inOut_ite | apply in_ite
                  | apply InOut.next
              | exact Foot.sub hft rfl
              | with_reducible exact Or.inl rfl
              | exact Or.inr (Foot.sub hft rfl)
              | with_reducible apply InMk.of
              | simp -zeta only [in_mk_iff]
              | split
              | intro _ _ _
              | intro _ _
          clear_value x)
       | clear_value x
       | subst x)
    | with_reducible first
        | assumption | apply State.send_in | apply State.each_in | apply inOut_ite | apply in_ite | apply InOut.next
    | exact Foot.sub hft rfl
    | with_reducible exact Or.inl rfl
    | exact Or.inr (Foot.sub hft rfl)
    | with_reducible apply InMk.of
    | simp -zeta only [in_mk_iff]
    | split
    | intro _ _ _
    | intro _ _

def execContextFetchDone_foot : Foot :=
  State.updCtx_foot ||| State.ctxRoom_foot ||| State.ctxUse_foot ||| State.rxGo_foot ||| State.raeRun_foot
theorem execContextFetchDone_in {x : Nat} {s : State} (hks : In ft s0 s)
    (hft : execContextFetchDone_foot.le ft = true) :
    InOut ft s0 (execContextFetchDone x s) := by
  unfold execContextFetchDone
  repeat' first
    | (extract_lets +onlyGivenNames x; clear_value x)
    | with_reducible first
        | assumption | apply State.updCtx_in | apply State.ctxRoom_in | apply State.ctxUse_in | apply State.rxGo_in
        | apply State.raeRun_in | apply inOut_ite | apply in_ite | apply InOut.next
    | exact Foot.sub hft rfl
    | with_reducible exact Or.inl rfl
    | exact Or.inr (Foot.sub hft rfl)
    | with_reducible apply InMk.of
    | simp -zeta only [in_mk_iff]
    | with_reducible refine InOpt.eq (by assumption) ?_
    | split
    | intro _ _ _
    | intro _ _

def execRaePortDown_foot : Foot := Fld.PHY_UP.foot ||| Part.rae.foot
theorem execRaePortDown_in {port : Nat} {s : State} (hks : In ft s0 s) (hft : execRaePortDown_foot.le ft = true) :
    InOut ft s0 (execRaePortDown port s) := by
  unfold execRaePortDown
  repeat' first
    | (extract_lets +onlyGivenNames x
       first
       | (have : In ft s0 x := by
            subst x
            repeat' first
              | with_reducible first
                  | assumption | apply State.setfi_in | apply inOut_ite | apply in_ite | apply InOut.next
              | exact Foot.sub hft rfl
              | with_reducible exact Or.inl rfl
              | exact Or.inr (Foot.sub hft rfl)
              | with_reducible apply InMk.of
              | simp -zeta only [in_mk_iff]
              | split
          clear_value x)
       | clear_value x
       | subst x)
    | with_reducible first | assumption | apply State.setfi_in | apply inOut_ite | apply in_ite | apply InOut.next
    | exact Foot.sub hft rfl
    | with_reducible exact Or.inl rfl
    | exact Or.inr (Foot.sub hft rfl)
    | with_reducible apply InMk.of
    | simp -zeta only [in_mk_iff]
    | split

def execNetworkPortPhyUp_foot : Foot := Fld.PHY_UP.foot
theorem execNetworkPortPhyUp_in {port : Nat} {s : State} (hks : In ft s0 s)
    (hft : execNetworkPortPhyUp_foot.le ft = true) :
    InOut ft s0 (execNetworkPortPhyUp port s) := by
  unfold execNetworkPortPhyUp
  repeat' first
    | with_reducible first | assumption | apply State.setfi_in | apply inOut_ite | apply in_ite | apply InOut.next
    | exact Foot.sub hft rfl
    | split

def State.raeCmd_foot : Foot :=
  Fld.INDEX.foot ||| Fld.TARGET.foot ||| Fld.RAE_CMD_RESULT.foot ||| State.raeRegs_foot ||| State.barWrite_foot |||
    State.raeRun_foot
theorem State.raeCmd_in {s : State} {target idx : Nat} {f : State → State × Nat} (hks : In ft s0 s)
    (hf : ∀ s, In ft s0 s → InP ft s0 (f s)) (hft : State.raeCmd_foot.le ft = true) :
    In ft s0 (State.raeCmd s target idx f) := by
  unfold State.raeCmd
  repeat' first
    | (extract_lets +onlyGivenNames x
       first
       | (have : In ft s0 x := by
            subst x
            repeat' first
              | with_reducible first
                  | assumption | apply State.wr_in | apply State.raeRegs_in | apply State.barWrite_in
                  | apply State.raeRun_in | apply hf
              | exact Foot.sub hft rfl
              | (with_reducible refine InP.fst ?_; with_reducible first | assumption | apply hf)
              | intro _ _ _
              | intro _ _
              | dsimp -zeta only
          clear_value x)
       | (have : InP ft s0 x := by
            subst x
            repeat' first
              | with_reducible first
                  | assumption | apply State.wr_in | apply State.raeRegs_in | apply State.barWrite_in
                  | apply State.raeRun_in | apply hf
              | exact Foot.sub hft rfl
              | (with_reducible refine InP.fst ?_; with_reducible first | assumption | apply hf)
              | intro _ _ _
              | intro _ _
              | dsimp -zeta only
          clear_value x)
       | clear_value x
       | subst x)
    | with_reducible first
        | assumption | apply State.wr_in | apply State.raeRegs_in | apply State.barWrite_in | apply State.raeRun_in
        | apply hf
    | exact Foot.sub hft rfl
    | (with_reducible refine InP.fst ?_; with_reducible first | assumption | apply hf)
    | intro _ _ _
    | intro _ _
    | dsimp -zeta only

def State.enterCtx_foot : Foot := Part.rae.foot ||| State.putCtx_foot ||| State.ctxRoom_foot
theorem State.enterCtx_in {s : State} {x : Nat} {c : RCtx} (hks : In ft s0 s)
    (hft : State.enterCtx_foot.le ft = true) :
    In ft s0 (State.enterCtx s x c) := by
  unfold State.enterCtx
  repeat' first
    | (extract_lets +onlyGivenNames x
       first
       | (have : In ft s0 x := by
            subst x
            repeat' first
              | with_reducible first | assumption | apply State.putCtx_in | apply State.ctxRoom_in
              | exact Foot.sub hft rfl
              | with_reducible exact Or.inl rfl
              | exact Or.inr (Foot.sub hft rfl)
              | with_reducible apply InMk.of
              | simp -zeta only [in_mk_iff]
              | with_reducible refine InOpt.eq (by assumption) ?_
              | split
          clear_value x)
       | clear_value x
       | subst x)
    | with_reducible first | assumption | apply State.putCtx_in | apply State.ctxRoom_in
    | exact Foot.sub hft rfl
    | with_reducible exact Or.inl rfl
    | exact Or.inr (Foot.sub hft rfl)
    | with_reducible apply InMk.of
    | simp -zeta only [in_mk_iff]
    | with_reducible refine InOpt.eq (by assumption) ?_
    | split

def State.forgetCtx_foot : Foot := Part.waits.foot ||| Part.fences.foot
theorem State.forgetCtx_in {s : State} {x : Nat} (hks : In ft s0 s) (hft : State.forgetCtx_foot.le ft = true) :
    In ft s0 (State.forgetCtx s x) := by
  unfold State.forgetCtx
  repeat' first
    | (extract_lets +onlyGivenNames x; clear_value x)
    | with_reducible first | assumption
    | exact Foot.sub hft rfl
    | with_reducible exact Or.inl rfl
    | exact Or.inr (Foot.sub hft rfl)
    | with_reducible apply InMk.of
    | simp -zeta only [in_mk_iff]
    | split

def execCtxCreate_foot : Foot := State.raeCmd_foot ||| State.enterCtx_foot
theorem execCtxCreate_in {x : Nat} {s : State} (hks : In ft s0 s) (hft : execCtxCreate_foot.le ft = true) :
    InOut ft s0 (execCtxCreate x s) := by
  unfold execCtxCreate
  repeat' first
    | (extract_lets +onlyGivenNames x; clear_value x)
    | with_reducible first
        | assumption | apply State.raeCmd_in | apply State.enterCtx_in | apply inOut_ite | apply in_ite
        | apply InOut.next | apply inP_ite
    | exact Foot.sub hft rfl
    | split
    | intro _ _ _
    | intro _ _
    | with_reducible apply InP.pair

def execCtxModify_foot : Foot := State.putCtx_foot ||| State.raeCmd_foot
theorem execCtxModify_in {x : Nat} {s : State} (hks : In ft s0 s) (hft : execCtxModify_foot.le ft = true) :
    InOut ft s0 (execCtxModify x s) := by
  unfold execCtxModify
  repeat' first
    | (extract_lets +onlyGivenNames x; clear_value x)
    | with_reducible first
        | assumption | apply State.putCtx_in | apply State.raeCmd_in | apply inOut_ite | apply in_ite
        | apply InOut.next | apply inP_ite
    | exact Foot.sub hft rfl
    | with_reducible exact Or.inl rfl
    | exact Or.inr (Foot.sub hft rfl)
    | with_reducible apply InMk.of
    | simp -zeta only [in_mk_iff]
    | split
    | intro _ _ _
    | intro _ _
    | with_reducible apply InP.pair

def execCtxReset_foot : Foot := State.putCtx_foot ||| State.raeCmd_foot ||| State.forgetCtx_foot
theorem execCtxReset_in {x : Nat} {s : State} (hks : In ft s0 s) (hft : execCtxReset_foot.le ft = true) :
    InOut ft s0 (execCtxReset x s) := by
  unfold execCtxReset
  repeat' first
    | (extract_lets +onlyGivenNames x; clear_value x)
    | with_reducible first
        | assumption | apply State.putCtx_in | apply State.raeCmd_in | apply State.forgetCtx_in | apply inOut_ite
        | apply in_ite | apply InOut.next | apply inP_ite
    | exact Foot.sub hft rfl
    | with_reducible exact Or.inl rfl
    | exact Or.inr (Foot.sub hft rfl)
    | with_reducible apply InMk.of
    | simp -zeta only [in_mk_iff]
    | split
    | intro _ _ _
    | intro _ _
    | with_reducible apply InP.pair

def execCtxDestroy_foot : Foot := Part.rae.foot ||| State.raeCmd_foot ||| State.forgetCtx_foot
theorem execCtxDestroy_in {x : Nat} {s : State} (hks : In ft s0 s) (hft : execCtxDestroy_foot.le ft = true) :
    InOut ft s0 (execCtxDestroy x s) := by
  unfold execCtxDestroy
  repeat' first
    | (extract_lets +onlyGivenNames x
       first
       | (have : In ft s0 x := by
            subst x
            repeat' first
              | (extract_lets +onlyGivenNames x; subst x)
              | with_reducible first
                  | assumption | apply State.raeCmd_in | apply State.forgetCtx_in | apply inOut_ite | apply in_ite
                  | apply InOut.next | apply inP_ite
              | exact Foot.sub hft rfl
              | with_reducible exact Or.inl rfl
              | exact Or.inr (Foot.sub hft rfl)
              | with_reducible apply InMk.of
              | simp -zeta only [in_mk_iff]
              | split
              | intro _ _ _
              | intro _ _
              | with_reducible apply InP.pair
          clear_value x)
       | clear_value x
       | subst x)
    | with_reducible first
        | assumption | apply State.raeCmd_in | apply State.forgetCtx_in | apply inOut_ite | apply in_ite
        | apply InOut.next | apply inP_ite
    | exact Foot.sub hft rfl
    | with_reducible exact Or.inl rfl
    | exact Or.inr (Foot.sub hft rfl)
    | with_reducible apply InMk.of
    | simp -zeta only [in_mk_iff]
    | split
    | intro _ _ _
    | intro _ _
    | with_reducible apply InP.pair

def State.showRec_foot : Foot := Fld.RAE_CTX_DATA_DATA.foot
theorem State.showRec_in {s : State} {n : Nat} {ws : List Nat} (hks : In ft s0 s)
    (hft : State.showRec_foot.le ft = true) :
    In ft s0 (State.showRec s n ws) := by
  unfold State.showRec
  repeat' first
    | with_reducible first | assumption | apply State.wri_in | apply State.each_in
    | exact Foot.sub hft rfl
    | intro _ _ _
    | intro _ _

def execCtxQuery_foot : Foot := State.raeCmd_foot ||| State.showRec_foot
theorem execCtxQuery_in {x : Nat} {s : State} (hks : In ft s0 s) (hft : execCtxQuery_foot.le ft = true) :
    InOut ft s0 (execCtxQuery x s) := by
  unfold execCtxQuery
  repeat' first
    | (extract_lets +onlyGivenNames x; clear_value x)
    | with_reducible first
        | assumption | apply State.raeCmd_in | apply State.showRec_in | apply inOut_ite | apply in_ite
        | apply InOut.next | apply inP_ite
    | exact Foot.sub hft rfl
    | split
    | intro _ _ _
    | intro _ _
    | with_reducible apply InP.pair

def execKeyCreate_foot : Foot := Part.rae.foot ||| State.drbg_foot ||| State.raeCmd_foot
theorem execKeyCreate_in {i : Nat} {s : State} (hks : In ft s0 s) (hft : execKeyCreate_foot.le ft = true) :
    InOut ft s0 (execKeyCreate i s) := by
  unfold execKeyCreate
  repeat' first
    | (extract_lets +onlyGivenNames x
       first
       | (have : In ft s0 x := by
            subst x
            repeat' first
              | (extract_lets +onlyGivenNames x; subst x)
              | with_reducible first
                  | assumption | apply State.drbg_in | apply State.raeCmd_in | apply inOut_ite | apply in_ite
                  | apply inP_ite | apply InOut.next
              | exact Foot.sub hft rfl
              | with_reducible exact Or.inl rfl
              | exact Or.inr (Foot.sub hft rfl)
              | with_reducible apply InMk.of
              | simp -zeta only [in_mk_iff]
              | with_reducible refine InP.eq (by assumption) ?_
              | (with_reducible refine InP.fst ?_; with_reducible first | assumption | apply State.drbg_in)
              | split
              | intro _ _ _
              | intro _ _
              | with_reducible apply InP.pair
              | dsimp -zeta only
          clear_value x)
       | (have : InP ft s0 x := by
            subst x
            repeat' first
              | (extract_lets +onlyGivenNames x; subst x)
              | with_reducible first
                  | assumption | apply State.drbg_in | apply State.raeCmd_in | apply inOut_ite | apply in_ite
                  | apply inP_ite | apply InOut.next
              | exact Foot.sub hft rfl
              | with_reducible exact Or.inl rfl
              | exact Or.inr (Foot.sub hft rfl)
              | with_reducible apply InMk.of
              | simp -zeta only [in_mk_iff]
              | with_reducible refine InP.eq (by assumption) ?_
              | (with_reducible refine InP.fst ?_; with_reducible first | assumption | apply State.drbg_in)
              | split
              | intro _ _ _
              | intro _ _
              | with_reducible apply InP.pair
              | dsimp -zeta only
          clear_value x)
       | clear_value x
       | subst x)
    | with_reducible first
        | assumption | apply State.drbg_in | apply State.raeCmd_in | apply inOut_ite | apply in_ite | apply inP_ite
        | apply InOut.next
    | exact Foot.sub hft rfl
    | with_reducible exact Or.inl rfl
    | exact Or.inr (Foot.sub hft rfl)
    | with_reducible apply InMk.of
    | simp -zeta only [in_mk_iff]
    | with_reducible refine InP.eq (by assumption) ?_
    | (with_reducible refine InP.fst ?_; with_reducible first | assumption | apply State.drbg_in)
    | split
    | intro _ _ _
    | intro _ _
    | with_reducible apply InP.pair
    | dsimp -zeta only

def execKeyDestroy_foot : Foot := Part.rae.foot ||| State.raeCmd_foot
theorem execKeyDestroy_in {i : Nat} {s : State} (hks : In ft s0 s) (hft : execKeyDestroy_foot.le ft = true) :
    InOut ft s0 (execKeyDestroy i s) := by
  unfold execKeyDestroy
  repeat' first
    | (extract_lets +onlyGivenNames x; clear_value x)
    | with_reducible first
        | assumption | apply State.raeCmd_in | apply inOut_ite | apply in_ite | apply InOut.next | apply inP_ite
    | exact Foot.sub hft rfl
    | with_reducible exact Or.inl rfl
    | exact Or.inr (Foot.sub hft rfl)
    | with_reducible apply InMk.of
    | simp -zeta only [in_mk_iff]
    | split
    | intro _ _ _
    | intro _ _
    | with_reducible apply InP.pair

def execKeyQuery_foot : Foot := State.raeCmd_foot ||| State.showRec_foot
theorem execKeyQuery_in {i : Nat} {s : State} (hks : In ft s0 s) (hft : execKeyQuery_foot.le ft = true) :
    InOut ft s0 (execKeyQuery i s) := by
  unfold execKeyQuery
  repeat' first
    | with_reducible first
        | assumption | apply State.raeCmd_in | apply State.showRec_in | apply inOut_ite | apply in_ite
        | apply InOut.next | apply inP_ite
    | exact Foot.sub hft rfl
    | split
    | intro _ _ _
    | intro _ _
    | with_reducible apply InP.pair

def execRaeTrig_foot : Foot := State.updCtx_foot ||| State.barWrite_foot ||| State.raeRun_foot
theorem execRaeTrig_in {x add : Nat} {s : State} (hks : In ft s0 s) (hft : execRaeTrig_foot.le ft = true) :
    InOut ft s0 (execRaeTrig x add s) := by
  unfold execRaeTrig
  repeat' first
    | (extract_lets +onlyGivenNames x; clear_value x)
    | with_reducible first
        | assumption | apply State.updCtx_in | apply State.barWrite_in | apply State.raeRun_in | apply inOut_ite
        | apply in_ite | apply InOut.next
    | exact Foot.sub hft rfl
    | with_reducible exact Or.inl rfl
    | exact Or.inr (Foot.sub hft rfl)
    | with_reducible apply InMk.of
    | simp -zeta only [in_mk_iff]
    | split
    | intro _ _ _
    | intro _ _

end Sys2Proof.Machine
end

