-- ==== Sys2Proof/Laws/FrameRegs.lean ====
section
/-! SUPPORT. The footprints of the operations of Machine/Regs (Laws/Frame). -/

namespace Sys2Proof.Machine

variable {ft : Foot} {s0 : State}

def outState_foot : Foot := 0
theorem outState_in {s : State} {o : Out} (hks : In ft s0 s) (ho : InOut ft s0 o) :
    In ft s0 (outState s o) := by
  unfold outState
  split
  · exact ho.out _ rfl
  · exact hks

def State.accErr_foot : Foot :=
  Fld.ACC_ERR_CNT.foot ||| Fld.GLB_FLAGS_CNT_OVF.foot ||| State.recordOnce_foot ||| State.count_foot
theorem State.accErr_in {s : State} {fn ofs : Nat} (hks : In ft s0 s) (hft : State.accErr_foot.le ft = true) :
    In ft s0 (State.accErr s fn ofs) := by
  unfold State.accErr
  repeat' first
    | with_reducible first | assumption | apply State.recordOnce_in | apply State.count_in
    | exact Foot.sub hft rfl

def State.unlatch_foot : Foot := Part.glb.foot
theorem State.unlatch_in {s : State} {fn : Nat} (hks : In ft s0 s) (hft : State.unlatch_foot.le ft = true) :
    In ft s0 (State.unlatch s fn) := by
  unfold State.unlatch
  repeat' first
    | (extract_lets +onlyGivenNames x; clear_value x)
    | with_reducible first | assumption
    | exact Foot.sub hft rfl
    | with_reducible exact Or.inl rfl
    | exact Or.inr (Foot.sub hft rfl)
    | with_reducible apply InMk.of
    | simp -zeta only [in_mk_iff]

def State.regValue_foot : Foot := State.tlRandom_foot
theorem State.regValue_in {s : State} {r : RegDef} {i : Nat} (hks : In ft s0 s)
    (hft : State.regValue_foot.le ft = true) :
    InP ft s0 (State.regValue s r i) := by
  unfold State.regValue
  repeat' first
    | with_reducible first | assumption | apply State.tlRandom_in | apply inP_ite | apply in_ite
    | exact Foot.sub hft rfl
    | with_reducible refine InP.eq (by assumption) ?_
    | (with_reducible refine InP.fst ?_; with_reducible first | assumption | apply State.tlRandom_in)
    | split
    | with_reducible apply InP.pair
    | dsimp -zeta only

def State.windowRead_foot : Foot := State.freeNext_foot
theorem State.windowRead_in {s : State} {x size : Nat} (hks : In ft s0 s) (hft : State.windowRead_foot.le ft = true) :
    InP ft s0 (State.windowRead s x size) := by
  unfold State.windowRead
  repeat' first
    | with_reducible first | assumption | apply State.freeNext_in | apply foldl_in | apply foldl_inP
    | exact Foot.sub hft rfl
    | (with_reducible refine InP.fst ?_; with_reducible first | assumption | apply foldl_inP)
    | split
    | intro _ _ _
    | intro _ _
    | with_reducible apply InP.pair
    | dsimp -zeta only

def State.regRead_foot : Foot :=
  Part.glb.foot ||| State.accErr_foot ||| State.unlatch_foot ||| State.regValue_foot ||| State.windowRead_foot
theorem State.regRead_in {s : State} {fn ofs size : Nat} (hks : In ft s0 s) (hft : State.regRead_foot.le ft = true) :
    InP ft s0 (State.regRead s fn ofs size) := by
  unfold State.regRead
  repeat' first
    | (extract_lets +onlyGivenNames x
       first
       | (have : In ft s0 x := by
            subst x
            repeat' first
              | (extract_lets +onlyGivenNames x; subst x)
              | with_reducible first
                  | assumption | apply State.accErr_in | apply State.unlatch_in | apply State.regValue_in
                  | apply State.windowRead_in | apply inP_ite | apply in_ite
              | exact Foot.sub hft rfl
              | with_reducible exact Or.inl rfl
              | exact Or.inr (Foot.sub hft rfl)
              | with_reducible apply InMk.of
              | simp -zeta only [in_mk_iff]
              | with_reducible refine InP.eq (by assumption) ?_
              | (with_reducible refine InP.fst ?_
                 with_reducible first
                   | assumption | apply State.regValue_in | apply State.windowRead_in)
              | split
              | with_reducible apply InP.pair
              | dsimp -zeta only
          clear_value x)
       | (have : InP ft s0 x := by
            subst x
            repeat' first
              | (extract_lets +onlyGivenNames x; subst x)
              | with_reducible first
                  | assumption | apply State.accErr_in | apply State.unlatch_in | apply State.regValue_in
                  | apply State.windowRead_in | apply inP_ite | apply in_ite
              | exact Foot.sub hft rfl
              | with_reducible exact Or.inl rfl
              | exact Or.inr (Foot.sub hft rfl)
              | with_reducible apply InMk.of
              | simp -zeta only [in_mk_iff]
              | with_reducible refine InP.eq (by assumption) ?_
              | (with_reducible refine InP.fst ?_
                 with_reducible first
                   | assumption | apply State.regValue_in | apply State.windowRead_in)
              | split
              | with_reducible apply InP.pair
              | dsimp -zeta only
          clear_value x)
       | clear_value x
       | subst x)
    | with_reducible first
        | assumption | apply State.accErr_in | apply State.unlatch_in | apply State.regValue_in
        | apply State.windowRead_in | apply inP_ite | apply in_ite
    | exact Foot.sub hft rfl
    | with_reducible exact Or.inl rfl
    | exact Or.inr (Foot.sub hft rfl)
    | with_reducible apply InMk.of
    | simp -zeta only [in_mk_iff]
    | with_reducible refine InP.eq (by assumption) ?_
    | (with_reducible refine InP.fst ?_
       with_reducible first
         | assumption | apply State.regValue_in | apply State.windowRead_in)
    | split
    | with_reducible apply InP.pair
    | dsimp -zeta only

def State.warmReset_foot : Foot :=
  Fld.WARM_CAUSE.foot ||| Fld.WARM_CNT.foot ||| Fld.GLB_FLAGS_CNT_OVF.foot ||| State.count_foot |||
    State.setMir_foot ||| State.sayHello_foot
theorem State.warmReset_in {s : State} {cause : Nat} (hks : In ft s0 s) (hft : State.warmReset_foot.le ft = true) :
    In ft s0 (State.warmReset s cause) := by
  unfold State.warmReset
  repeat' first
    | (extract_lets +onlyGivenNames x
       first
       | (have : In ft s0 x := by
            subst x
            repeat' first
              | with_reducible first
                  | assumption | apply State.wr_in | apply State.count_in | apply State.setMir_in
                  | apply State.sayHello_in | apply in_ite
              | exact Foot.sub hft rfl
              | with_reducible exact Or.inl rfl
              | exact Or.inr (Foot.sub hft rfl)
              | with_reducible apply InMk.of
              | simp -zeta only [in_mk_iff]
              | split
              | intro _ _ _
              | intro _ _
          clear_value x)
       | clear_value x
       | subst x)
    | with_reducible first
        | assumption | apply State.wr_in | apply State.count_in | apply State.setMir_in | apply State.sayHello_in
        | apply in_ite
    | exact Foot.sub hft rfl
    | with_reducible exact Or.inl rfl
    | exact Or.inr (Foot.sub hft rfl)
    | with_reducible apply InMk.of
    | simp -zeta only [in_mk_iff]
    | split
    | intro _ _ _
    | intro _ _

def execWarmRst_foot : Foot := State.barWrite_foot ||| State.warmReset_foot
theorem execWarmRst_in {s : State} (hks : In ft s0 s) (hft : execWarmRst_foot.le ft = true) :
    InOut ft s0 (execWarmRst s) := by
  unfold execWarmRst
  repeat' first
    | with_reducible first | assumption | apply State.barWrite_in | apply State.warmReset_in | apply InOut.next
    | exact Foot.sub hft rfl
    | intro _ _ _
    | intro _ _

def execWdogKick_foot : Foot := State.barWrite_foot
theorem execWdogKick_in {s : State} (hks : In ft s0 s) (hft : execWdogKick_foot.le ft = true) :
    InOut ft s0 (execWdogKick s) := by
  unfold execWdogKick
  repeat' first
    | with_reducible first | assumption | apply State.barWrite_in | apply InOut.next
    | exact Foot.sub hft rfl
    | intro _ _ _
    | intro _ _

def execWatchdogExpiry_foot : Foot := State.warmReset_foot
theorem execWatchdogExpiry_in {s : State} (hks : In ft s0 s) (hft : execWatchdogExpiry_foot.le ft = true) :
    InOut ft s0 (execWatchdogExpiry s) := by
  unfold execWatchdogExpiry
  repeat' first
    | with_reducible first | assumption | apply State.warmReset_in | apply inOut_ite | apply in_ite | apply InOut.next
    | exact Foot.sub hft rfl
    | split

def execFunctionLevelReset_foot : Foot := State.qpSilence_foot ||| State.unlatch_foot
theorem execFunctionLevelReset_in {link ld : Nat} {s : State} (hks : In ft s0 s)
    (hft : execFunctionLevelReset_foot.le ft = true) :
    InOut ft s0 (execFunctionLevelReset link ld s) := by
  unfold execFunctionLevelReset
  repeat' first
    | with_reducible first
        | assumption | apply State.each_in | apply State.qpSilence_in | apply State.unlatch_in | apply inOut_ite
        | apply in_ite | apply InOut.next
    | exact Foot.sub hft rfl
    | split
    | intro _ _ _
    | intro _ _

def State.woAct_foot : Foot :=
  Fld.DRAIN_POWER_MEAS_W.foot ||| State.dbkFlush_foot ||| State.linkRetrain_foot ||| State.takeover_foot |||
    State.retryMatch_foot ||| State.linkRestart_foot ||| State.grpInv_foot ||| State.sliceDis_foot |||
    State.askRetrain_foot ||| State.retireWrite_foot ||| State.retireSlot_foot ||| State.adopt_foot |||
    State.ccalStart_foot ||| execVcalNow_foot ||| State.ffClr_foot ||| State.drainNow_foot |||
    State.svnCommit_foot ||| State.pop_foot ||| outState_foot ||| State.warmReset_foot
theorem State.woAct_in {s : State} {f : Fld} {i v x : Nat} (hks : In ft s0 s) (hf : f.foot.le ft = true)
    (hft : State.woAct_foot.le ft = true) :
    In ft s0 (State.woAct s f i v x) := by
  unfold State.woAct
  repeat' first
    | with_reducible first
        | assumption | apply State.wr_in | apply State.dbkFlush_in | apply State.linkRetrain_in
        | apply State.takeover_in | apply State.retryMatch_in | apply State.linkRestart_in | apply State.grpInv_in
        | apply State.sliceDis_in | apply State.askRetrain_in | apply State.retireWrite_in
        | apply State.retireSlot_in | apply State.adopt_in | apply State.ccalStart_in | apply execVcalNow_in
        | apply State.ffClr_in | apply State.drainNow_in | apply State.svnCommit_in | apply State.pop_in
        | apply outState_in | apply State.warmReset_in | apply in_ite
    | exact Foot.sub hft rfl
    | split

def State.rwAct_foot : Foot :=
  State.alertOut_foot ||| State.ceilFlag_foot ||| State.floors_foot ||| State.portOffline_foot |||
    State.pgReq_foot ||| State.slotPwr_foot ||| State.invertWrite_foot ||| State.storeFld_foot |||
    State.fenceWrite_foot ||| State.coreOff_foot
theorem State.rwAct_in {s : State} {f : Fld} {i v : Nat} (hks : In ft s0 s) (hf : f.foot.le ft = true)
    (hft : State.rwAct_foot.le ft = true) :
    In ft s0 (State.rwAct s f i v) := by
  unfold State.rwAct
  repeat' first
    | with_reducible first
        | assumption | apply State.alertOut_in | apply State.ceilFlag_in | apply State.floors_in
        | apply State.portOffline_in | apply State.pgReq_in | apply State.slotPwr_in | apply State.invertWrite_in
        | apply State.storeFld_in | apply State.fenceWrite_in | apply State.coreOff_in | apply in_ite
    | exact Foot.sub hft rfl
    | split

def State.fldWrite_foot : Foot := State.alertOut_foot ||| State.woAct_foot ||| State.rwAct_foot ||| Foot.allFlds
theorem State.fldWrite_in {s : State} {acc : Acc} {f : Fld} {i v x : Nat} (hks : In ft s0 s)
    (hf : f.foot.le ft = true) (hft : State.fldWrite_foot.le ft = true) :
    In ft s0 (State.fldWrite s acc f i v x) := by
  unfold State.fldWrite
  repeat' first
    | (extract_lets +onlyGivenNames x
       first
       | (have : In ft s0 x := by
            subst x
            repeat' first
              | with_reducible first
                  | assumption | apply State.wri_in | apply State.alertOut_in | apply State.woAct_in
                  | apply State.rwAct_in | apply in_ite
              | exact Foot.sub hft rfl
              | exact Foot.le_trans (Fld.le_all _) (Foot.sub hft rfl)
              | exact fun x _ => Foot.le_trans x.1.le_all (Foot.sub hft rfl)
              | split
          clear_value x)
       | clear_value x
       | subst x)
    | with_reducible first
        | assumption | apply State.wri_in | apply State.alertOut_in | apply State.woAct_in | apply State.rwAct_in
        | apply in_ite
    | exact Foot.sub hft rfl
    | exact Foot.le_trans (Fld.le_all _) (Foot.sub hft rfl)
    | exact fun x _ => Foot.le_trans x.1.le_all (Foot.sub hft rfl)
    | split

def State.fldWrites_foot : Foot := State.fldWrite_foot ||| Foot.allFlds
theorem State.fldWrites_in {s : State} {r : RegDef} {i : Nat} {w : WVals} {x : Nat} (hks : In ft s0 s)
    (hft : State.fldWrites_foot.le ft = true) :
    In ft s0 (State.fldWrites s r i w x) := by
  unfold State.fldWrites
  repeat' first
    | (extract_lets +onlyGivenNames x
       first
       | (have : In ft s0 x := by
            subst x
            repeat' first
              | (extract_lets +onlyGivenNames x; subst x)
              | with_reducible first | assumption | apply State.each_in | apply State.fldWrite_in
              | exact Foot.sub hft rfl
              | exact Foot.le_trans (Fld.le_all _) (Foot.sub hft rfl)
              | exact fun x _ => Foot.le_trans x.1.le_all (Foot.sub hft rfl)
              | split
              | intro _ _ _
              | intro _ _
          clear_value x)
       | clear_value x
       | subst x)
    | with_reducible first | assumption | apply State.each_in | apply State.fldWrite_in
    | exact Foot.sub hft rfl
    | exact Foot.le_trans (Fld.le_all _) (Foot.sub hft rfl)
    | exact fun x _ => Foot.le_trans x.1.le_all (Foot.sub hft rfl)
    | split
    | intro _ _ _
    | intro _ _

def State.qpWrite_foot : Foot :=
  Fld.CFG_ERR.foot ||| State.qpEnWrite_foot ||| State.qpReset_foot ||| State.putVals_foot ||| Foot.allFlds
theorem State.qpWrite_in {s : State} {q : Nat} {w : WVals} (hks : In ft s0 s)
    (hft : State.qpWrite_foot.le ft = true) :
    In ft s0 (State.qpWrite s q w) := by
  unfold State.qpWrite
  repeat' first
    | (extract_lets +onlyGivenNames x
       first
       | (have : In ft s0 x := by
            subst x
            repeat' first
              | (extract_lets +onlyGivenNames x; subst x)
              | with_reducible first
                  | assumption | apply State.setfi_in | apply State.qpEnWrite_in | apply State.qpReset_in
                  | apply State.putVals_in | apply in_ite
              | exact Foot.sub hft rfl
              | exact Foot.le_trans (Fld.le_all _) (Foot.sub hft rfl)
              | exact fun x _ => Foot.le_trans x.1.le_all (Foot.sub hft rfl)
              | split
          clear_value x)
       | clear_value x
       | subst x)
    | with_reducible first
        | assumption | apply State.setfi_in | apply State.qpEnWrite_in | apply State.qpReset_in
        | apply State.putVals_in | apply in_ite
    | exact Foot.sub hft rfl
    | exact Foot.le_trans (Fld.le_all _) (Foot.sub hft rfl)
    | exact fun x _ => Foot.le_trans x.1.le_all (Foot.sub hft rfl)
    | split

def State.ldCfgWrite_foot : Foot :=
  Part.prt.foot ||| State.record_foot ||| State.qpReset_foot ||| State.putVals_foot ||| Foot.allFlds
theorem State.ldCfgWrite_in {s : State} {i : Nat} {w : WVals} (hks : In ft s0 s)
    (hft : State.ldCfgWrite_foot.le ft = true) :
    In ft s0 (State.ldCfgWrite s i w) := by
  unfold State.ldCfgWrite
  repeat' first
    | (extract_lets +onlyGivenNames x
       first
       | (have : In ft s0 x := by
            subst x
            repeat' first
              | (extract_lets +onlyGivenNames x; subst x)
              | with_reducible first
                  | assumption | apply State.each_in | apply State.record_in | apply State.qpReset_in
                  | apply State.putVals_in | apply in_ite
              | exact Foot.sub hft rfl
              | exact Foot.le_trans (Fld.le_all _) (Foot.sub hft rfl)
              | exact fun x _ => Foot.le_trans x.1.le_all (Foot.sub hft rfl)
              | with_reducible exact Or.inl rfl
              | exact Or.inr (Foot.sub hft rfl)
              | with_reducible apply InMk.of
              | simp -zeta only [in_mk_iff]
              | split
              | intro _ _ _
              | intro _ _
          clear_value x)
       | clear_value x
       | subst x)
    | with_reducible first
        | assumption | apply State.each_in | apply State.record_in | apply State.qpReset_in | apply State.putVals_in
        | apply in_ite
    | exact Foot.sub hft rfl
    | exact Foot.le_trans (Fld.le_all _) (Foot.sub hft rfl)
    | exact fun x _ => Foot.le_trans x.1.le_all (Foot.sub hft rfl)
    | with_reducible exact Or.inl rfl
    | exact Or.inr (Foot.sub hft rfl)
    | with_reducible apply InMk.of
    | simp -zeta only [in_mk_iff]
    | split
    | intro _ _ _
    | intro _ _

def State.settleCfgWrite_foot : Foot := State.settleCheck_foot ||| State.putVals_foot ||| Foot.allFlds
theorem State.settleCfgWrite_in {s : State} {i : Nat} {w : WVals} (hks : In ft s0 s)
    (hft : State.settleCfgWrite_foot.le ft = true) :
    In ft s0 (State.settleCfgWrite s i w) := by
  unfold State.settleCfgWrite
  repeat' first
    | (extract_lets +onlyGivenNames x
       first
       | (have : In ft s0 x := by
            subst x
            repeat' first
              | with_reducible first | assumption | apply State.settleCheck_in | apply State.putVals_in | apply in_ite
              | exact Foot.sub hft rfl
              | exact Foot.le_trans (Fld.le_all _) (Foot.sub hft rfl)
              | exact fun x _ => Foot.le_trans x.1.le_all (Foot.sub hft rfl)
              | split
          clear_value x)
       | clear_value x
       | subst x)
    | with_reducible first | assumption | apply State.settleCheck_in | apply State.putVals_in | apply in_ite
    | exact Foot.sub hft rfl
    | exact Foot.le_trans (Fld.le_all _) (Foot.sub hft rfl)
    | exact fun x _ => Foot.le_trans x.1.le_all (Foot.sub hft rfl)
    | split

def State.assignWrite_foot : Foot :=
  State.record_foot ||| State.qpOwner_foot ||| State.putVals_foot ||| Foot.allFlds
theorem State.assignWrite_in {s : State} {q : Nat} {w : WVals} (hks : In ft s0 s)
    (hft : State.assignWrite_foot.le ft = true) :
    In ft s0 (State.assignWrite s q w) := by
  unfold State.assignWrite
  repeat' first
    | with_reducible first
        | assumption | apply State.record_in | apply State.qpOwner_in | apply State.putVals_in | apply in_ite
    | exact Foot.sub hft rfl
    | exact Foot.le_trans (Fld.le_all _) (Foot.sub hft rfl)
    | exact fun x _ => Foot.le_trans x.1.le_all (Foot.sub hft rfl)
    | split

def State.secSlotWrite_foot : Foot := State.record_foot ||| State.putVals_foot ||| Foot.allFlds
theorem State.secSlotWrite_in {s : State} {k : Nat} {w : WVals} (hks : In ft s0 s)
    (hft : State.secSlotWrite_foot.le ft = true) :
    In ft s0 (State.secSlotWrite s k w) := by
  unfold State.secSlotWrite
  repeat' first
    | (extract_lets +onlyGivenNames x; clear_value x)
    | with_reducible first | assumption | apply State.record_in | apply State.putVals_in | apply in_ite
    | exact Foot.sub hft rfl
    | exact Foot.le_trans (Fld.le_all _) (Foot.sub hft rfl)
    | exact fun x _ => Foot.le_trans x.1.le_all (Foot.sub hft rfl)
    | split

def State.tellerWrite_foot : Foot :=
  State.putVals_foot ||| State.tellerLoad_foot ||| State.tellerZero_foot ||| State.tellerQuery_foot |||
    Foot.allFlds
theorem State.tellerWrite_in {s : State} {d : Nat} {w : WVals} (hks : In ft s0 s)
    (hft : State.tellerWrite_foot.le ft = true) :
    In ft s0 (State.tellerWrite s d w) := by
  unfold State.tellerWrite
  repeat' first
    | (extract_lets +onlyGivenNames x
       first
       | (have : In ft s0 x := by
            subst x
            repeat' first
              | (extract_lets +onlyGivenNames x; subst x)
              | with_reducible first
                  | assumption | apply State.putVals_in | apply State.tellerLoad_in | apply State.tellerZero_in
                  | apply State.tellerQuery_in
              | exact Foot.sub hft rfl
              | exact Foot.le_trans (Fld.le_all _) (Foot.sub hft rfl)
              | exact fun x _ => Foot.le_trans x.1.le_all (Foot.sub hft rfl)
              | split
          clear_value x)
       | clear_value x
       | subst x)
    | with_reducible first
        | assumption | apply State.putVals_in | apply State.tellerLoad_in | apply State.tellerZero_in
        | apply State.tellerQuery_in
    | exact Foot.sub hft rfl
    | exact Foot.le_trans (Fld.le_all _) (Foot.sub hft rfl)
    | exact fun x _ => Foot.le_trans x.1.le_all (Foot.sub hft rfl)
    | split

def State.raeCmdWrite_foot : Foot :=
  Fld.RAE_CMD_RESULT.foot ||| State.putVals_foot ||| execCtxCreate_foot ||| execCtxModify_foot |||
    execCtxReset_foot ||| execCtxDestroy_foot ||| execCtxQuery_foot ||| execKeyCreate_foot |||
    execKeyDestroy_foot ||| execKeyQuery_foot ||| outState_foot ||| Foot.allFlds
theorem State.raeCmdWrite_in {s : State} {w : WVals} (hks : In ft s0 s) (hft : State.raeCmdWrite_foot.le ft = true) :
    In ft s0 (State.raeCmdWrite s w) := by
  unfold State.raeCmdWrite
  repeat' first
    | (extract_lets +onlyGivenNames x
       first
       | (have : In ft s0 x := by
            subst x
            repeat' first
              | (extract_lets +onlyGivenNames x; subst x)
              | with_reducible first
                  | assumption | apply State.wr_in | apply State.putVals_in | apply execCtxCreate_in
                  | apply execCtxModify_in | apply execCtxReset_in | apply execCtxDestroy_in | apply execCtxQuery_in
                  | apply execKeyCreate_in | apply execKeyDestroy_in | apply execKeyQuery_in | apply outState_in
                  | apply in_ite
              | exact Foot.sub hft rfl
              | exact Foot.le_trans (Fld.le_all _) (Foot.sub hft rfl)
              | exact fun x _ => Foot.le_trans x.1.le_all (Foot.sub hft rfl)
              | split
          clear_value x)
       | clear_value x
       | subst x)
    | with_reducible first
        | assumption | apply State.wr_in | apply State.putVals_in | apply execCtxCreate_in | apply execCtxModify_in
        | apply execCtxReset_in | apply execCtxDestroy_in | apply execCtxQuery_in | apply execKeyCreate_in
        | apply execKeyDestroy_in | apply execKeyQuery_in | apply outState_in | apply in_ite
    | exact Foot.sub hft rfl
    | exact Foot.le_trans (Fld.le_all _) (Foot.sub hft rfl)
    | exact fun x _ => Foot.le_trans x.1.le_all (Foot.sub hft rfl)
    | split

def State.bstWrite_foot : Foot := State.bstStart_foot ||| State.bstAbort_foot
theorem State.bstWrite_in {s : State} {w : WVals} (hks : In ft s0 s) (hft : State.bstWrite_foot.le ft = true) :
    In ft s0 (State.bstWrite s w) := by
  unfold State.bstWrite
  repeat' first
    | (extract_lets +onlyGivenNames x
       first
       | (have : In ft s0 x := by
            subst x
            repeat' first
              | (extract_lets +onlyGivenNames x; subst x)
              | with_reducible first | assumption | apply State.bstStart_in | apply State.bstAbort_in | apply in_ite
              | exact Foot.sub hft rfl
              | split
          clear_value x)
       | clear_value x
       | subst x)
    | with_reducible first | assumption | apply State.bstStart_in | apply State.bstAbort_in | apply in_ite
    | exact Foot.sub hft rfl
    | split

def State.putReg_foot : Foot :=
  Fld.BENCH_PEAK.foot ||| Fld.MR_PEAK.foot ||| Fld.DF_MAX_US.foot ||| Fld.LOCK_PEAK.foot ||| Part.sec.foot |||
    execSqTailDoorbell_foot ||| execCqHeadDoorbell_foot ||| State.putVals_foot ||| State.lockWrite_foot |||
    State.flipWrite_foot ||| execRaeTrig_foot ||| outState_foot ||| State.fldWrites_foot ||| State.qpWrite_foot |||
    State.ldCfgWrite_foot ||| State.settleCfgWrite_foot ||| State.assignWrite_foot ||| State.secSlotWrite_foot |||
    State.tellerWrite_foot ||| State.raeCmdWrite_foot ||| State.bstWrite_foot ||| Foot.allFlds
theorem State.putReg_in {s : State} {r : RegDef} {i : Nat} {w : WVals} {x : Nat} (hks : In ft s0 s)
    (hft : State.putReg_foot.le ft = true) :
    In ft s0 (State.putReg s r i w x) := by
  unfold State.putReg
  repeat' first
    | (extract_lets +onlyGivenNames x; clear_value x)
    | with_reducible first
        | assumption | apply State.wri_in | apply State.wr_in | apply execSqTailDoorbell_in
        | apply execCqHeadDoorbell_in | apply State.putVals_in | apply State.lockWrite_in | apply State.flipWrite_in
        | apply execRaeTrig_in | apply outState_in | apply State.fldWrites_in | apply State.qpWrite_in
        | apply State.ldCfgWrite_in | apply State.settleCfgWrite_in | apply State.assignWrite_in
        | apply State.secSlotWrite_in | apply State.tellerWrite_in | apply State.raeCmdWrite_in
        | apply State.bstWrite_in | apply in_ite
    | exact Foot.sub hft rfl
    | exact Foot.le_trans (Fld.le_all _) (Foot.sub hft rfl)
    | exact fun x _ => Foot.le_trans x.1.le_all (Foot.sub hft rfl)
    | with_reducible exact Or.inl rfl
    | exact Or.inr (Foot.sub hft rfl)
    | with_reducible apply InMk.of
    | simp -zeta only [in_mk_iff]
    | split

def State.regWrite_foot : Foot :=
  State.recordOnce_foot ||| State.accErr_foot ||| State.unlatch_foot ||| State.putReg_foot
theorem State.regWrite_in {s : State} {fn ofs size v x : Nat} (hks : In ft s0 s)
    (hft : State.regWrite_foot.le ft = true) :
    In ft s0 (State.regWrite s fn ofs size v x) := by
  unfold State.regWrite
  repeat' first
    | (extract_lets +onlyGivenNames x
       first
       | (have : In ft s0 x := by
            subst x
            repeat' first
              | with_reducible first
                  | assumption | apply State.recordOnce_in | apply State.accErr_in | apply State.unlatch_in
                  | apply State.putReg_in | apply in_ite
              | exact Foot.sub hft rfl
              | split
          clear_value x)
       | clear_value x
       | subst x)
    | with_reducible first
        | assumption | apply State.recordOnce_in | apply State.accErr_in | apply State.unlatch_in
        | apply State.putReg_in | apply in_ite
    | exact Foot.sub hft rfl
    | split

def execRegisterWrite_foot : Foot := State.regWrite_foot
theorem execRegisterWrite_in {link ld ofs size v x : Nat} {s : State} (hks : In ft s0 s)
    (hft : execRegisterWrite_foot.le ft = true) :
    InOut ft s0 (execRegisterWrite link ld ofs size v x s) := by
  unfold execRegisterWrite
  repeat' first
    | with_reducible first | assumption | apply State.regWrite_in | apply inOut_ite | apply in_ite | apply InOut.next
    | exact Foot.sub hft rfl
    | split

def execRegisterRead_foot : Foot := State.send_foot ||| State.regRead_foot
theorem execRegisterRead_in {link ld ofs size : Nat} {s : State} (hks : In ft s0 s)
    (hft : execRegisterRead_foot.le ft = true) :
    InOut ft s0 (execRegisterRead link ld ofs size s) := by
  unfold execRegisterRead
  repeat' first
    | (extract_lets +onlyGivenNames x
       first
       | (have : In ft s0 x := by
            subst x
            repeat' first
              | with_reducible first
                  | assumption | apply State.send_in | apply State.regRead_in | apply inOut_ite | apply in_ite
                  | apply inP_ite | apply InOut.next
              | exact Foot.sub hft rfl
              | with_reducible refine InP.eq (by assumption) ?_
              | (with_reducible refine InP.fst ?_; with_reducible first | assumption | apply State.regRead_in)
              | split
              | with_reducible apply InP.pair
              | dsimp -zeta only
          clear_value x)
       | (have : InP ft s0 x := by
            subst x
            repeat' first
              | with_reducible first
                  | assumption | apply State.send_in | apply State.regRead_in | apply inOut_ite | apply in_ite
                  | apply inP_ite | apply InOut.next
              | exact Foot.sub hft rfl
              | with_reducible refine InP.eq (by assumption) ?_
              | (with_reducible refine InP.fst ?_; with_reducible first | assumption | apply State.regRead_in)
              | split
              | with_reducible apply InP.pair
              | dsimp -zeta only
          clear_value x)
       | clear_value x
       | subst x)
    | with_reducible first
        | assumption | apply State.send_in | apply State.regRead_in | apply inOut_ite | apply in_ite | apply inP_ite
        | apply InOut.next
    | exact Foot.sub hft rfl
    | with_reducible refine InP.eq (by assumption) ?_
    | (with_reducible refine InP.fst ?_; with_reducible first | assumption | apply State.regRead_in)
    | split
    | with_reducible apply InP.pair
    | dsimp -zeta only

def execRegisterAccess_foot : Foot := State.send_foot ||| State.regRead_foot ||| State.regWrite_foot
theorem execRegisterAccess_in {ep ofs size : Nat} {data : Option Nat} {x : Nat} {s : State} (hks : In ft s0 s)
    (hft : execRegisterAccess_foot.le ft = true) :
    InOut ft s0 (execRegisterAccess ep ofs size data x s) := by
  unfold execRegisterAccess
  repeat' first
    | (extract_lets +onlyGivenNames x
       first
       | (have : In ft s0 x := by
            subst x
            repeat' first
              | with_reducible first
                  | assumption | apply State.send_in | apply State.regRead_in | apply State.regWrite_in
                  | apply InOut.next
              | exact Foot.sub hft rfl
              | with_reducible refine InP.eq (by assumption) ?_
              | (with_reducible refine InP.fst ?_; with_reducible first | assumption | apply State.regRead_in)
              | split
              | with_reducible apply InP.pair
              | dsimp -zeta only
          clear_value x)
       | (have : InP ft s0 x := by
            subst x
            repeat' first
              | with_reducible first
                  | assumption | apply State.send_in | apply State.regRead_in | apply State.regWrite_in
                  | apply InOut.next
              | exact Foot.sub hft rfl
              | with_reducible refine InP.eq (by assumption) ?_
              | (with_reducible refine InP.fst ?_; with_reducible first | assumption | apply State.regRead_in)
              | split
              | with_reducible apply InP.pair
              | dsimp -zeta only
          clear_value x)
       | clear_value x
       | subst x)
    | with_reducible first
        | assumption | apply State.send_in | apply State.regRead_in | apply State.regWrite_in | apply InOut.next
    | exact Foot.sub hft rfl
    | with_reducible refine InP.eq (by assumption) ?_
    | (with_reducible refine InP.fst ?_; with_reducible first | assumption | apply State.regRead_in)
    | split
    | with_reducible apply InP.pair
    | dsimp -zeta only

end Sys2Proof.Machine
end

