-- ==== Sys2Proof/Laws/FrameTick.lean ====
section
/-! SUPPORT. The footprints of the operations of Machine/Tick (Laws/Frame). -/

namespace Sys2Proof.Machine

variable {ft : Foot} {s0 : State}

def State.ageSweep_foot : Foot := Part.tpe.foot
theorem State.ageSweep_in {s : State} (hks : In ft s0 s) (hft : State.ageSweep_foot.le ft = true) :
    In ft s0 (State.ageSweep s) := by
  unfold State.ageSweep
  repeat' first
    | (extract_lets +onlyGivenNames x; clear_value x)
    | with_reducible first | assumption | apply foldl_in | apply in_ite | apply inP_ite
    | exact Foot.sub hft rfl
    | with_reducible exact Or.inl rfl
    | exact Or.inr (Foot.sub hft rfl)
    | with_reducible apply InMk.of
    | simp -zeta only [in_mk_iff]
    | split
    | intro _ _ _
    | intro _ _
    | with_reducible apply InP.pair

def State.budgets_foot : Foot := Part.fch.foot ||| Part.nfc.foot ||| Part.drc.foot
theorem State.budgets_in {s : State} (hks : In ft s0 s) (hft : State.budgets_foot.le ft = true) :
    In ft s0 (State.budgets s) := by
  unfold State.budgets
  repeat' first
    | (extract_lets +onlyGivenNames x; clear_value x)
    | with_reducible first | assumption
    | exact Foot.sub hft rfl
    | with_reducible exact Or.inl rfl
    | exact Or.inr (Foot.sub hft rfl)
    | with_reducible apply InMk.of
    | simp -zeta only [in_mk_iff]

def State.lateRecords_foot : Foot := Part.tpe.foot ||| State.record_foot
theorem State.lateRecords_in {s : State} (hks : In ft s0 s) (hft : State.lateRecords_foot.le ft = true) :
    In ft s0 (State.lateRecords s) := by
  unfold State.lateRecords
  repeat' first
    | (extract_lets +onlyGivenNames x
       first
       | (have : In ft s0 x := by
            subst x
            repeat' first
              | (extract_lets +onlyGivenNames x; subst x)
              | with_reducible first | assumption | apply State.each_in | apply State.record_in
              | exact Foot.sub hft rfl
              | with_reducible exact Or.inl rfl
              | exact Or.inr (Foot.sub hft rfl)
              | with_reducible apply InMk.of
              | simp -zeta only [in_mk_iff]
              | split
              | intro _ _ _
              | intro _ _
          clear_value x)
       | clear_value x
       | subst x)
    | with_reducible first | assumption | apply State.each_in | apply State.record_in
    | exact Foot.sub hft rfl
    | with_reducible exact Or.inl rfl
    | exact Or.inr (Foot.sub hft rfl)
    | with_reducible apply InMk.of
    | simp -zeta only [in_mk_iff]
    | split
    | intro _ _ _
    | intro _ _

def State.dieRead_foot : Foot := State.record_foot ||| State.setPwr_foot
theorem State.dieRead_in {s : State} {die : List Nat} (hks : In ft s0 s) (hft : State.dieRead_foot.le ft = true) :
    In ft s0 (State.dieRead s die) := by
  unfold State.dieRead
  repeat' first
    | (extract_lets +onlyGivenNames x
       first
       | (have : In ft s0 x := by
            subst x
            repeat' first
              | (extract_lets +onlyGivenNames x; subst x)
              | with_reducible first
                  | assumption | apply State.record_in | apply State.setPwr_in | apply foldl_in | apply in_ite
                  | apply inP_ite
              | exact Foot.sub hft rfl
              | with_reducible exact Or.inl rfl
              | exact Or.inr (Foot.sub hft rfl)
              | with_reducible apply InMk.of
              | simp -zeta only [in_mk_iff]
              | split
              | intro _ _ _
              | intro _ _
              | with_reducible apply InP.pair
          clear_value x)
       | clear_value x
       | subst x)
    | with_reducible first
        | assumption | apply State.record_in | apply State.setPwr_in | apply foldl_in | apply in_ite | apply inP_ite
    | exact Foot.sub hft rfl
    | with_reducible exact Or.inl rfl
    | exact Or.inr (Foot.sub hft rfl)
    | with_reducible apply InMk.of
    | simp -zeta only [in_mk_iff]
    | split
    | intro _ _ _
    | intro _ _
    | with_reducible apply InP.pair

def State.senseTick_foot : Foot :=
  Fld.HOLDUP_MV.foot ||| Fld.HOLDUP_REVERSED.foot ||| State.senseFault_foot ||| State.senseCond_foot |||
    State.senseClear_foot ||| State.firstReading_foot
theorem State.senseTick_in {s : State} {mv : Int} (hks : In ft s0 s) (hft : State.senseTick_foot.le ft = true) :
    In ft s0 (State.senseTick s mv) := by
  unfold State.senseTick
  repeat' first
    | (extract_lets +onlyGivenNames x
       first
       | (have : In ft s0 x := by
            subst x
            repeat' first
              | (extract_lets +onlyGivenNames x; subst x)
              | with_reducible first
                  | assumption | apply State.wr_in | apply State.senseFault_in | apply State.senseCond_in
                  | apply State.senseClear_in | apply State.firstReading_in | apply in_ite
              | exact Foot.sub hft rfl
              | split
          clear_value x)
       | clear_value x
       | subst x)
    | with_reducible first
        | assumption | apply State.wr_in | apply State.senseFault_in | apply State.senseCond_in
        | apply State.senseClear_in | apply State.firstReading_in | apply in_ite
    | exact Foot.sub hft rfl
    | split

def State.heldAlerts_foot : Foot := State.alert_foot
theorem State.heldAlerts_in {s : State} (hks : In ft s0 s) (hft : State.heldAlerts_foot.le ft = true) :
    In ft s0 (State.heldAlerts s) := by
  unfold State.heldAlerts
  repeat' first
    | (extract_lets +onlyGivenNames x
       first
       | (have : In ft s0 x := by
            subst x
            repeat' first
              | with_reducible first | assumption | apply State.alert_in | apply in_ite
              | exact Foot.sub hft rfl
              | split
          clear_value x)
       | clear_value x
       | subst x)
    | with_reducible first | assumption | apply State.alert_in | apply in_ite
    | exact Foot.sub hft rfl
    | split

def State.tickRetry_foot : Foot := State.credits_foot ||| State.snoopsAnswered_foot ||| State.journalWriters_foot
theorem State.tickRetry_in {s : State} (hks : In ft s0 s) (hft : State.tickRetry_foot.le ft = true) :
    In ft s0 (State.tickRetry s) := by
  unfold State.tickRetry
  repeat' first
    | with_reducible first
        | assumption | apply State.credits_in | apply State.snoopsAnswered_in | apply State.journalWriters_in
        | apply in_ite
    | exact Foot.sub hft rfl
    | split

def State.fabricTick_foot : Foot :=
  Part.drc.foot ||| State.reshareAll_foot ||| State.closeAll_foot ||| State.makeUp_foot |||
    State.retrainSlice_foot ||| State.scrubTick_foot ||| State.repairSlice_foot ||| State.publishLimit_foot |||
    State.testSlice_foot ||| State.ageSweep_foot ||| State.budgets_foot ||| State.tickRetry_foot
theorem State.fabricTick_in {s : State} {x : TickIn} (hks : In ft s0 s) (hft : State.fabricTick_foot.le ft = true) :
    In ft s0 (State.fabricTick s x) := by
  unfold State.fabricTick
  repeat' first
    | (extract_lets +onlyGivenNames x
       first
       | (have : In ft s0 x := by
            subst x
            repeat' first
              | (extract_lets +onlyGivenNames x; subst x)
              | with_reducible first
                  | assumption | apply State.when_in | apply State.each_in | apply State.reshareAll_in
                  | apply State.closeAll_in | apply State.makeUp_in | apply State.retrainSlice_in
                  | apply State.scrubTick_in | apply State.repairSlice_in | apply State.publishLimit_in
                  | apply State.testSlice_in | apply State.ageSweep_in | apply State.budgets_in
                  | apply State.tickRetry_in
              | exact Foot.sub hft rfl
              | with_reducible exact Or.inl rfl
              | exact Or.inr (Foot.sub hft rfl)
              | with_reducible apply InMk.of
              | simp -zeta only [in_mk_iff]
              | intro _ _ _
              | intro _ _
          clear_value x)
       | clear_value x
       | subst x)
    | with_reducible first
        | assumption | apply State.when_in | apply State.each_in | apply State.reshareAll_in
        | apply State.closeAll_in | apply State.makeUp_in | apply State.retrainSlice_in | apply State.scrubTick_in
        | apply State.repairSlice_in | apply State.publishLimit_in | apply State.testSlice_in
        | apply State.ageSweep_in | apply State.budgets_in | apply State.tickRetry_in
    | exact Foot.sub hft rfl
    | with_reducible exact Or.inl rfl
    | exact Or.inr (Foot.sub hft rfl)
    | with_reducible apply InMk.of
    | simp -zeta only [in_mk_iff]
    | intro _ _ _
    | intro _ _

def execTickBoundary_foot : Foot :=
  Fld.OP_TIME.foot ||| Fld.RAIL_PG_IN.foot ||| Fld.TICK_NUMBER.foot ||| Part.glb.foot ||| Part.once.foot |||
    State.intSend_foot ||| State.dramTick_foot ||| State.limitCompute_foot ||| State.raeRun_foot |||
    State.lateRecords_foot ||| State.dieRead_foot ||| State.senseTick_foot ||| State.heldAlerts_foot |||
    State.fabricTick_foot
theorem execTickBoundary_in {x : TickIn} {s : State} (hks : In ft s0 s) (hft : execTickBoundary_foot.le ft = true) :
    InOut ft s0 (execTickBoundary x s) := by
  unfold execTickBoundary
  repeat' first
    | (extract_lets +onlyGivenNames x
       first
       | (have : In ft s0 x := by
            subst x
            repeat' first
              | (extract_lets +onlyGivenNames x; subst x)
              | with_reducible first
                  | assumption | apply State.wr_in | apply State.intSend_in | apply State.dramTick_in
                  | apply State.limitCompute_in | apply State.raeRun_in | apply State.lateRecords_in
                  | apply State.dieRead_in | apply State.senseTick_in | apply State.heldAlerts_in
                  | apply State.fabricTick_in | apply inOut_ite | apply in_ite | apply InOut.next
              | exact Foot.sub hft rfl
              | with_reducible exact Or.inl rfl
              | exact Or.inr (Foot.sub hft rfl)
              | with_reducible apply InMk.of
              | simp -zeta only [in_mk_iff]
              | split
          clear_value x)
       | clear_value x
       | subst x)
    | with_reducible first
        | assumption | apply State.wr_in | apply State.intSend_in | apply State.dramTick_in
        | apply State.limitCompute_in | apply State.raeRun_in | apply State.lateRecords_in | apply State.dieRead_in
        | apply State.senseTick_in | apply State.heldAlerts_in | apply State.fabricTick_in | apply inOut_ite
        | apply in_ite | apply InOut.next
    | exact Foot.sub hft rfl
    | with_reducible exact Or.inl rfl
    | exact Or.inr (Foot.sub hft rfl)
    | with_reducible apply InMk.of
    | simp -zeta only [in_mk_iff]
    | split

end Sys2Proof.Machine
end

