-- ==== Sys2Proof/Laws/FrameExec.lean ====
section
/-! SUPPORT. The footprint of every command, as a set and as the lists of Safety.lean. -/

namespace Sys2Proof.Machine

/-- The footprint of a command's meaning. -/
def Instr.foot : Instr → Foot
  | .tickBoundary .. => execTickBoundary_foot
  | .cxlMemRead .. => execCxlMemRead_foot
  | .cxlMemWrite .. => execCxlMemWrite_foot
  | .settlePageStore .. => execSettlePageStore_foot
  | .settlePageTimeout .. => execSettlePageTimeout_foot
  | .snoopWriteBack .. => execSnoopWriteBack_foot
  | .birsp .. => execBirsp_foot
  | .biTimeout .. => execBiTimeout_foot
  | .gpfPhase2 .. => execGpfPhase2_foot
  | .gpfPhase2Timeout .. => execGpfPhase2Timeout_foot
  | .hdmDecoderCommit .. => execHdmDecoderCommit_foot
  | .ideKmKeyProg .. => execIdeKmKeyProg_foot
  | .ideMacFail .. => execIdeMacFail_foot
  | .perstAssert .. => execPerstAssert_foot
  | .perstRelease .. => execPerstRelease_foot
  | .linkUp .. => execLinkUp_foot
  | .linkRecoveryEntry .. => execLinkRecoveryEntry_foot
  | .linkRetrain .. => execLinkRetrain_foot
  | .portOfflineWrite .. => execPortOfflineWrite_foot
  | .pnRdyRise .. => execPnRdyRise_foot
  | .pnRdyTimeout .. => execPnRdyTimeout_foot
  | .identify .. => execIdentify_foot
  | .getEventRecords .. => execGetEventRecords_foot
  | .getPoisonList .. => execGetPoisonList_foot
  | .getHealthInfo .. => execGetHealthInfo_foot
  | .setTimestamp .. => execSetTimestamp_foot
  | .initiateDynamicCapacityAdd .. => execInitiateDynamicCapacityAdd_foot
  | .dynamicCapacityRelease .. => execDynamicCapacityRelease_foot
  | .bindLdDomain .. => execBindLdDomain_foot
  | .unbindCarrier .. => execUnbindCarrier_foot
  | .registerAccess .. => execRegisterAccess_foot
  | .sqTailDoorbell .. => execSqTailDoorbell_foot
  | .cqHeadDoorbell .. => execCqHeadDoorbell_foot
  | .qpEnWrite .. => execQpEnWrite_foot
  | .qpReset .. => execQpReset_foot
  | .queueResetCut .. => execQueueResetCut_foot
  | .sqeFetch .. => execSqeFetch_foot
  | .commandDispatch .. => execCommandDispatch_foot
  | .commandComplete => execCommandComplete_foot
  | .coalesceTimeout .. => execCoalesceTimeout_foot
  | .ringDmaError .. => execRingDmaError_foot
  | .read .. => execRead_foot
  | .write .. => execWrite_foot
  | .writeAtomic .. => execWriteAtomic_foot
  | .copy .. => execCopy_foot
  | .fill .. => execFill_foot
  | .settle .. => execSettle_foot
  | .objCreate .. => execObjCreate_foot
  | .objDelete .. => execObjDelete_foot
  | .objResize .. => execObjResize_foot
  | .objAttr .. => execObjAttr_foot
  | .windowMap .. => execWindowMap_foot
  | .windowUnmap .. => execWindowUnmap_foot
  | .place .. => execPlace_foot
  | .hold .. => execHold_foot
  | .release .. => execRelease_foot
  | .streamPost .. => execStreamPost_foot
  | .streamCancel .. => execStreamCancel_foot
  | .seal .. => execSeal_foot
  | .unseal .. => execUnseal_foot
  | .logRead .. => execLogRead_foot
  | .nop .. => execNop_foot
  | .floatChargeAdmitted => execFloatChargeAdmitted_foot
  | .stall .. => execStall_foot
  | .floorComparatorArmed => execFloorComparatorArmed_foot
  | .holdupFloorCrossing => execHoldupFloorCrossing_foot
  | .holdupPmbusPoll .. => execHoldupPmbusPoll_foot
  | .snsOpen .. => execSnsOpen_foot
  | .snsNeg .. => execSnsNeg_foot
  | .holdupInvertWrite .. => execHoldupInvertWrite_foot
  | .ccalNow .. => execCcalNow_foot
  | .ccalInterval .. => execCcalInterval_foot
  | .ccalDischarged => execCcalDischarged_foot
  | .ccalAbandon => execCcalAbandon_foot
  | .ccalIoutPoll .. => execCcalIoutPoll_foot
  | .ccalRecharged => execCcalRecharged_foot
  | .vcalNow => execVcalNow_foot
  | .rehearsal => execRehearsal_foot
  | .rehearsalDone .. => execRehearsalDone_foot
  | .measClr => execMeasClr_foot
  | .pfailNFall => execPfailNFall_foot
  | .pfailNRise => execPfailNRise_foot
  | .sysRstNAssert => execSysRstNAssert_foot
  | .sysRstNDeassert => execSysRstNDeassert_foot
  | .drainNow => execDrainNow_foot
  | .drainWritebackDone => execDrainWritebackDone_foot
  | .drainFloatDone .. => execDrainFloatDone_foot
  | .drainMetadataDone .. => execDrainMetadataDone_foot
  | .vaultSealWritten => execVaultSealWritten_foot
  | .demandFetchDone .. => execDemandFetchDone_foot
  | .zeroFillDone .. => execZeroFillDone_foot
  | .overBound .. => execOverBound_foot
  | .t3FetchFail .. => execT3FetchFail_foot
  | .poolDry => execPoolDry_foot
  | .residencyCheckpoint => execResidencyCheckpoint_foot
  | .runCompactionStep => execRunCompactionStep_foot
  | .moveBegin .. => execMoveBegin_foot
  | .moveLoadDone .. => execMoveLoadDone_foot
  | .moveInstallDone .. => execMoveInstallDone_foot
  | .moveCleanDone .. => execMoveCleanDone_foot
  | .moveUnloadDone .. => execMoveUnloadDone_foot
  | .streamEntryStart .. => execStreamEntryStart_foot
  | .missEvictQueued .. => execMissEvictQueued_foot
  | .missFillReturn .. => execMissFillReturn_foot
  | .pgReqWrite .. => execPgReqWrite_foot
  | .wayGroupCleanDone .. => execWayGroupCleanDone_foot
  | .grpInv .. => execGrpInv_foot
  | .sliceDisReq .. => execSliceDisReq_foot
  | .sliceFlushDone .. => execSliceFlushDone_foot
  | .lockEntryWrite .. => execLockEntryWrite_foot
  | .fchSlStateWrite .. => execFchSlStateWrite_foot
  | .prtBenchWrite .. => execPrtBenchWrite_foot
  | .cmdStatusWrite => execCmdStatusWrite_foot
  | .tpeCnt2Write => execTpeCnt2Write_foot
  | .refreshDue .. => execRefreshDue_foot
  | .forcedRefresh .. => execForcedRefresh_foot
  | .neighbourRefresh .. => execNeighbourRefresh_foot
  | .dimmThermalPoll .. => execDimmThermalPoll_foot
  | .trainingDone .. => execTrainingDone_foot
  | .readEyeWindow .. => execReadEyeWindow_foot
  | .writeTrackingSlice .. => execWriteTrackingSlice_foot
  | .retrain .. => execRetrain_foot
  | .caParityAlert .. => execCaParityAlert_foot
  | .stripeSettleStart .. => execStripeSettleStart_foot
  | .stripeSettleDone .. => execStripeSettleDone_foot
  | .nandProgramFail .. => execNandProgramFail_foot
  | .nandEraseFail .. => execNandEraseFail_foot
  | .rehome .. => execRehome_foot
  | .garbageCollection .. => execGarbageCollection_foot
  | .channelRetire .. => execChannelRetire_foot
  | .retire .. => execRetire_foot
  | .retireSlot .. => execRetireSlot_foot
  | .slotPwrWrite .. => execSlotPwrWrite_foot
  | .carrierPresent .. => execCarrierPresent_foot
  | .adopt .. => execAdopt_foot
  | .rebuildDone .. => execRebuildDone_foot
  | .ladderHomeReadDone .. => execLadderHomeReadDone_foot
  | .ladderDeadline .. => execLadderDeadline_foot
  | .verifyRead .. => execVerifyRead_foot
  | .recodeWrite => execRecodeWrite_foot
  | .flipArmWrite .. => execFlipArmWrite_foot
  | .mirrorPhyUp .. => execMirrorPhyUp_foot
  | .mirrorPortPhyDown .. => execMirrorPortPhyDown_foot
  | .hello .. => execHello_foot
  | .helloRepeat => execHelloRepeat_foot
  | .mirrorSpdm .. => execMirrorSpdm_foot
  | .partnerEndedBringUp => execPartnerEndedBringUp_foot
  | .record .. => execRecord_foot
  | .ack .. => execAck_foot
  | .nak .. => execNak_foot
  | .retxTimeout .. => execRetxTimeout_foot
  | .keepalive .. => execKeepalive_foot
  | .mirrorLinkLost => execMirrorLinkLost_foot
  | .phyHoldEnd => execPhyHoldEnd_foot
  | .drain .. => execDrain_foot
  | .fetchReq .. => execFetchReq_foot
  | .fetchRsp .. => execFetchRsp_foot
  | .noRoom .. => execNoRoom_foot
  | .heartbeatLost => execHeartbeatLost_foot
  | .heartbeatRestored => execHeartbeatRestored_foot
  | .twinGrantChange .. => execTwinGrantChange_foot
  | .takeover => execTakeover_foot
  | .retryMatch => execRetryMatch_foot
  | .linkRestart => execLinkRestart_foot
  | .rdmaWrite .. => execRdmaWrite_foot
  | .rdmaSend .. => execRdmaSend_foot
  | .rdmaReadRequest .. => execRdmaReadRequest_foot
  | .cmpswap .. => execCmpswap_foot
  | .fetchadd .. => execFetchadd_foot
  | .acknowledge .. => execAcknowledge_foot
  | .rdmaNak .. => execRdmaNak_foot
  | .rdmaReadResponse .. => execRdmaReadResponse_foot
  | .settleAck .. => execSettleAck_foot
  | .cnp .. => execCnp_foot
  | .ccRecover .. => execCcRecover_foot
  | .pfcFrame .. => execPfcFrame_foot
  | .rdmaRetryTimeout .. => execRdmaRetryTimeout_foot
  | .rnrTimerExpiry .. => execRnrTimerExpiry_foot
  | .contextFetchDone .. => execContextFetchDone_foot
  | .raePortDown .. => execRaePortDown_foot
  | .ctxCreate .. => execCtxCreate_foot
  | .ctxModify .. => execCtxModify_foot
  | .ctxReset .. => execCtxReset_foot
  | .ctxDestroy .. => execCtxDestroy_foot
  | .ctxQuery .. => execCtxQuery_foot
  | .keyCreate .. => execKeyCreate_foot
  | .keyDestroy .. => execKeyDestroy_foot
  | .keyQuery .. => execKeyQuery_foot
  | .raeTrig .. => execRaeTrig_foot
  | .clusterFenceWrite .. => execClusterFenceWrite_foot
  | .trngHealthTest .. => execTrngHealthTest_foot
  | .drbgReseed => execDrbgReseed_foot
  | .loadXts .. => execLoadXts_foot
  | .loadGcm .. => execLoadGcm_foot
  | .zeroize .. => execZeroize_foot
  | .query .. => execQuery_foot
  | .tlRandomRead .. => execTlRandomRead_foot
  | .svnCommit => execSvnCommit_foot
  | .getMeasurements .. => execGetMeasurements_foot
  | .challenge .. => execChallenge_foot
  | .getCertificate .. => execGetCertificate_foot
  | .keyExchange .. => execKeyExchange_foot
  | .setDomainKek .. => execSetDomainKek_foot
  | .clearDomainKek .. => execClearDomainKek_foot
  | .writeRecoveryImage .. => execWriteRecoveryImage_foot
  | .writeConfiguration .. => execWriteConfiguration_foot
  | .serviceFirmwareStart .. => execServiceFirmwareStart_foot
  | .pwrReqAssert .. => execPwrReqAssert_foot
  | .pwrReqDeassert => execPwrReqDeassert_foot
  | .railGood .. => execRailGood_foot
  | .railPgFall .. => execRailPgFall_foot
  | .rampTimeout .. => execRampTimeout_foot
  | .pmbusPoll .. => execPmbusPoll_foot
  | .railRetry .. => execRailRetry_foot
  | .upStepDelay => execUpStepDelay_foot
  | .corePhaseEnd .. => execCorePhaseEnd_foot
  | .configWaitTimeout => execConfigWaitTimeout_foot
  | .downStepDelay => execDownStepDelay_foot
  | .minOffEnd => execMinOffEnd_foot
  | .whistleSync => execWhistleSync_foot
  | .whistleSyncTimeout => execWhistleSyncTimeout_foot
  | .whistle => execWhistle_foot
  | .ffClr => execFfClr_foot
  | .domainSwitch .. => execDomainSwitch_foot
  | .domainPowerGood .. => execDomainPowerGood_foot
  | .domainSwitchTimeout .. => execDomainSwitchTimeout_foot
  | .dieOverTemperature => execDieOverTemperature_foot
  | .flushNow => execFlushNow_foot
  | .daybookFlushDone .. => execDaybookFlushDone_foot
  | .daybookCheckpoint => execDaybookCheckpoint_foot
  | .dramRow .. => execDramRow_foot
  | .fchMarch .. => execFchMarch_foot
  | .cipKat .. => execCipKat_foot
  | .abort => execAbort_foot
  | .pop => execPop_foot
  | .coreOffWrite .. => execCoreOffWrite_foot
  | .mapBlockLoaded .. => execMapBlockLoaded_foot
  | .warmRst => execWarmRst_foot
  | .wdogKick => execWdogKick_foot
  | .watchdogExpiry => execWatchdogExpiry_foot
  | .functionLevelReset .. => execFunctionLevelReset_foot
  | .registerWrite .. => execRegisterWrite_foot
  | .alwaysOnPowerUp .. => execAlwaysOnPowerUp_foot
  | .abruptLoss .. => execAbruptLoss_foot
  | .carrierRemoved .. => execCarrierRemoved_foot
  | .resyncPageSend .. => execResyncPageSend_foot
  | .rebuildStripe .. => execRebuildStripe_foot
  | .linkDown .. => execLinkDown_foot
  | .networkPortPhyUp .. => execNetworkPortPhyUp_foot
  | .heartbeatToggle => execHeartbeatToggle_foot
  | .registerRead .. => execRegisterRead_foot

/-- A command changes nothing outside its footprint, and keeps the queue and the canonical forms. -/
theorem exec_in (c : Instr) (s : State) : InOut (Instr.foot c) s (exec c s) := by
  cases c <;> simp only [exec, Instr.foot]
  · exact execTickBoundary_in (In.refl _ _) (Foot.le_refl _)
  · exact execCxlMemRead_in (In.refl _ _) (Foot.le_refl _)
  · exact execCxlMemWrite_in (In.refl _ _) (Foot.le_refl _)
  · exact execSettlePageStore_in (In.refl _ _) (Foot.le_refl _)
  · exact execSettlePageTimeout_in (In.refl _ _) (Foot.le_refl _)
  · exact execSnoopWriteBack_in (In.refl _ _) (Foot.le_refl _)
  · exact execBirsp_in (In.refl _ _) (Foot.le_refl _)
  · exact execBiTimeout_in (In.refl _ _) (Foot.le_refl _)
  · exact execGpfPhase2_in (In.refl _ _) (Foot.le_refl _)
  · exact execGpfPhase2Timeout_in (In.refl _ _) (Foot.le_refl _)
  · exact execHdmDecoderCommit_in (In.refl _ _) (Foot.le_refl _)
  · exact execIdeKmKeyProg_in (In.refl _ _) (Foot.le_refl _)
  · exact execIdeMacFail_in (In.refl _ _) (Foot.le_refl _)
  · exact execPerstAssert_in (In.refl _ _) (Foot.le_refl _)
  · exact execPerstRelease_in (In.refl _ _) (Foot.le_refl _)
  · exact execLinkUp_in (In.refl _ _) (Foot.le_refl _)
  · exact execLinkRecoveryEntry_in (In.refl _ _) (Foot.le_refl _)
  · exact execLinkRetrain_in (In.refl _ _) (Foot.le_refl _)
  · exact execPortOfflineWrite_in (In.refl _ _) (Foot.le_refl _)
  · exact execPnRdyRise_in (In.refl _ _) (Foot.le_refl _)
  · exact execPnRdyTimeout_in (In.refl _ _) (Foot.le_refl _)
  · exact execIdentify_in (In.refl _ _) (Foot.le_refl _)
  · exact execGetEventRecords_in (In.refl _ _) (Foot.le_refl _)
  · exact execGetPoisonList_in (In.refl _ _) (Foot.le_refl _)
  · exact execGetHealthInfo_in (In.refl _ _) (Foot.le_refl _)
  · exact execSetTimestamp_in (In.refl _ _) (Foot.le_refl _)
  · exact execInitiateDynamicCapacityAdd_in (In.refl _ _) (Foot.le_refl _)
  · exact execDynamicCapacityRelease_in (In.refl _ _) (Foot.le_refl _)
  · exact execBindLdDomain_in (In.refl _ _) (Foot.le_refl _)
  · exact execUnbindCarrier_in (In.refl _ _) (Foot.le_refl _)
  · exact execRegisterAccess_in (In.refl _ _) (Foot.le_refl _)
  · exact execSqTailDoorbell_in (In.refl _ _) (Foot.le_refl _)
  · exact execCqHeadDoorbell_in (In.refl _ _) (Foot.le_refl _)
  · exact execQpEnWrite_in (In.refl _ _) (Foot.le_refl _)
  · exact execQpReset_in (In.refl _ _) (Foot.le_refl _)
  · exact execQueueResetCut_in (In.refl _ _) (Foot.le_refl _)
  · exact execSqeFetch_in (In.refl _ _) (Foot.le_refl _)
  · exact execCommandDispatch_in (In.refl _ _) (Foot.le_refl _)
  · exact execCommandComplete_in (In.refl _ _) (Foot.le_refl _)
  · exact execCoalesceTimeout_in (In.refl _ _) (Foot.le_refl _)
  · exact execRingDmaError_in (In.refl _ _) (Foot.le_refl _)
  · exact execRead_in (In.refl _ _) (Foot.le_refl _)
  · exact execWrite_in (In.refl _ _) (Foot.le_refl _)
  · exact execWriteAtomic_in (In.refl _ _) (Foot.le_refl _)
  · exact execCopy_in (In.refl _ _) (Foot.le_refl _)
  · exact execFill_in (In.refl _ _) (Foot.le_refl _)
  · exact execSettle_in (In.refl _ _) (Foot.le_refl _)
  · exact execObjCreate_in (In.refl _ _) (Foot.le_refl _)
  · exact execObjDelete_in (In.refl _ _) (Foot.le_refl _)
  · exact execObjResize_in (In.refl _ _) (Foot.le_refl _)
  · exact execObjAttr_in (In.refl _ _) (Foot.le_refl _)
  · exact execWindowMap_in (In.refl _ _) (Foot.le_refl _)
  · exact execWindowUnmap_in (In.refl _ _) (Foot.le_refl _)
  · exact execPlace_in (In.refl _ _) (Foot.le_refl _)
  · exact execHold_in (In.refl _ _) (Foot.le_refl _)
  · exact execRelease_in (In.refl _ _) (Foot.le_refl _)
  · exact execStreamPost_in (In.refl _ _) (Foot.le_refl _)
  · exact execStreamCancel_in (In.refl _ _) (Foot.le_refl _)
  · exact execSeal_in (In.refl _ _) (Foot.le_refl _)
  · exact execUnseal_in (In.refl _ _) (Foot.le_refl _)
  · exact execLogRead_in (In.refl _ _) (Foot.le_refl _)
  · exact execNop_in (In.refl _ _) (Foot.le_refl _)
  · exact execFloatChargeAdmitted_in (In.refl _ _) (Foot.le_refl _)
  · exact execStall_in (In.refl _ _) (Foot.le_refl _)
  · exact execFloorComparatorArmed_in (In.refl _ _) (Foot.le_refl _)
  · exact execHoldupFloorCrossing_in (In.refl _ _) (Foot.le_refl _)
  · exact execHoldupPmbusPoll_in (In.refl _ _) (Foot.le_refl _)
  · exact execSnsOpen_in (In.refl _ _) (Foot.le_refl _)
  · exact execSnsNeg_in (In.refl _ _) (Foot.le_refl _)
  · exact execHoldupInvertWrite_in (In.refl _ _) (Foot.le_refl _)
  · exact execCcalNow_in (In.refl _ _) (Foot.le_refl _)
  · exact execCcalInterval_in (In.refl _ _) (Foot.le_refl _)
  · exact execCcalDischarged_in (In.refl _ _) (Foot.le_refl _)
  · exact execCcalAbandon_in (In.refl _ _) (Foot.le_refl _)
  · exact execCcalIoutPoll_in (In.refl _ _) (Foot.le_refl _)
  · exact execCcalRecharged_in (In.refl _ _) (Foot.le_refl _)
  · exact execVcalNow_in (In.refl _ _) (Foot.le_refl _)
  · exact execRehearsal_in (In.refl _ _) (Foot.le_refl _)
  · exact execRehearsalDone_in (In.refl _ _) (Foot.le_refl _)
  · exact execMeasClr_in (In.refl _ _) (Foot.le_refl _)
  · exact execPfailNFall_in (In.refl _ _) (Foot.le_refl _)
  · exact execPfailNRise_in (In.refl _ _) (Foot.le_refl _)
  · exact execSysRstNAssert_in (In.refl _ _) (Foot.le_refl _)
  · exact execSysRstNDeassert_in (In.refl _ _) (Foot.le_refl _)
  · exact execDrainNow_in (In.refl _ _) (Foot.le_refl _)
  · exact execDrainWritebackDone_in (In.refl _ _) (Foot.le_refl _)
  · exact execDrainFloatDone_in (In.refl _ _) (Foot.le_refl _)
  · exact execDrainMetadataDone_in (In.refl _ _) (Foot.le_refl _)
  · exact execVaultSealWritten_in (In.refl _ _) (Foot.le_refl _)
  · exact execDemandFetchDone_in (In.refl _ _) (Foot.le_refl _)
  · exact execZeroFillDone_in (In.refl _ _) (Foot.le_refl _)
  · exact execOverBound_in (In.refl _ _) (Foot.le_refl _)
  · exact execT3FetchFail_in (In.refl _ _) (Foot.le_refl _)
  · exact execPoolDry_in (In.refl _ _) (Foot.le_refl _)
  · exact execResidencyCheckpoint_in (In.refl _ _) (Foot.le_refl _)
  · exact execRunCompactionStep_in (In.refl _ _) (Foot.le_refl _)
  · exact execMoveBegin_in (In.refl _ _) (Foot.le_refl _)
  · exact execMoveLoadDone_in (In.refl _ _) (Foot.le_refl _)
  · exact execMoveInstallDone_in (In.refl _ _) (Foot.le_refl _)
  · exact execMoveCleanDone_in (In.refl _ _) (Foot.le_refl _)
  · exact execMoveUnloadDone_in (In.refl _ _) (Foot.le_refl _)
  · exact execStreamEntryStart_in (In.refl _ _) (Foot.le_refl _)
  · exact execMissEvictQueued_in (In.refl _ _) (Foot.le_refl _)
  · exact execMissFillReturn_in (In.refl _ _) (Foot.le_refl _)
  · exact execPgReqWrite_in (In.refl _ _) (Foot.le_refl _)
  · exact execWayGroupCleanDone_in (In.refl _ _) (Foot.le_refl _)
  · exact execGrpInv_in (In.refl _ _) (Foot.le_refl _)
  · exact execSliceDisReq_in (In.refl _ _) (Foot.le_refl _)
  · exact execSliceFlushDone_in (In.refl _ _) (Foot.le_refl _)
  · exact execLockEntryWrite_in (In.refl _ _) (Foot.le_refl _)
  · exact execFchSlStateWrite_in (In.refl _ _) (Foot.le_refl _)
  · exact execPrtBenchWrite_in (In.refl _ _) (Foot.le_refl _)
  · exact execCmdStatusWrite_in (In.refl _ _) (Foot.le_refl _)
  · exact execTpeCnt2Write_in (In.refl _ _) (Foot.le_refl _)
  · exact execRefreshDue_in (In.refl _ _) (Foot.le_refl _)
  · exact execForcedRefresh_in (In.refl _ _) (Foot.le_refl _)
  · exact execNeighbourRefresh_in (In.refl _ _) (Foot.le_refl _)
  · exact execDimmThermalPoll_in (In.refl _ _) (Foot.le_refl _)
  · exact execTrainingDone_in (In.refl _ _) (Foot.le_refl _)
  · exact execReadEyeWindow_in (In.refl _ _) (Foot.le_refl _)
  · exact execWriteTrackingSlice_in (In.refl _ _) (Foot.le_refl _)
  · exact execRetrain_in (In.refl _ _) (Foot.le_refl _)
  · exact execCaParityAlert_in (In.refl _ _) (Foot.le_refl _)
  · exact execStripeSettleStart_in (In.refl _ _) (Foot.le_refl _)
  · exact execStripeSettleDone_in (In.refl _ _) (Foot.le_refl _)
  · exact execNandProgramFail_in (In.refl _ _) (Foot.le_refl _)
  · exact execNandEraseFail_in (In.refl _ _) (Foot.le_refl _)
  · exact execRehome_in (In.refl _ _) (Foot.le_refl _)
  · exact execGarbageCollection_in (In.refl _ _) (Foot.le_refl _)
  · exact execChannelRetire_in (In.refl _ _) (Foot.le_refl _)
  · exact execRetire_in (In.refl _ _) (Foot.le_refl _)
  · exact execRetireSlot_in (In.refl _ _) (Foot.le_refl _)
  · exact execSlotPwrWrite_in (In.refl _ _) (Foot.le_refl _)
  · exact execCarrierPresent_in (In.refl _ _) (Foot.le_refl _)
  · exact execAdopt_in (In.refl _ _) (Foot.le_refl _)
  · exact execRebuildDone_in (In.refl _ _) (Foot.le_refl _)
  · exact execLadderHomeReadDone_in (In.refl _ _) (Foot.le_refl _)
  · exact execLadderDeadline_in (In.refl _ _) (Foot.le_refl _)
  · exact execVerifyRead_in (In.refl _ _) (Foot.le_refl _)
  · exact execRecodeWrite_in (In.refl _ _) (Foot.le_refl _)
  · exact execFlipArmWrite_in (In.refl _ _) (Foot.le_refl _)
  · exact execMirrorPhyUp_in (In.refl _ _) (Foot.le_refl _)
  · exact execMirrorPortPhyDown_in (In.refl _ _) (Foot.le_refl _)
  · exact execHello_in (In.refl _ _) (Foot.le_refl _)
  · exact execHelloRepeat_in (In.refl _ _) (Foot.le_refl _)
  · exact execMirrorSpdm_in (In.refl _ _) (Foot.le_refl _)
  · exact execPartnerEndedBringUp_in (In.refl _ _) (Foot.le_refl _)
  · exact execRecord_in (In.refl _ _) (Foot.le_refl _)
  · exact execAck_in (In.refl _ _) (Foot.le_refl _)
  · exact execNak_in (In.refl _ _) (Foot.le_refl _)
  · exact execRetxTimeout_in (In.refl _ _) (Foot.le_refl _)
  · exact execKeepalive_in (In.refl _ _) (Foot.le_refl _)
  · exact execMirrorLinkLost_in (In.refl _ _) (Foot.le_refl _)
  · exact execPhyHoldEnd_in (In.refl _ _) (Foot.le_refl _)
  · exact execDrain_in (In.refl _ _) (Foot.le_refl _)
  · exact execFetchReq_in (In.refl _ _) (Foot.le_refl _)
  · exact execFetchRsp_in (In.refl _ _) (Foot.le_refl _)
  · exact execNoRoom_in (In.refl _ _) (Foot.le_refl _)
  · exact execHeartbeatLost_in (In.refl _ _) (Foot.le_refl _)
  · exact execHeartbeatRestored_in (In.refl _ _) (Foot.le_refl _)
  · exact execTwinGrantChange_in (In.refl _ _) (Foot.le_refl _)
  · exact execTakeover_in (In.refl _ _) (Foot.le_refl _)
  · exact execRetryMatch_in (In.refl _ _) (Foot.le_refl _)
  · exact execLinkRestart_in (In.refl _ _) (Foot.le_refl _)
  · exact execRdmaWrite_in (In.refl _ _) (Foot.le_refl _)
  · exact execRdmaSend_in (In.refl _ _) (Foot.le_refl _)
  · exact execRdmaReadRequest_in (In.refl _ _) (Foot.le_refl _)
  · exact execCmpswap_in (In.refl _ _) (Foot.le_refl _)
  · exact execFetchadd_in (In.refl _ _) (Foot.le_refl _)
  · exact execAcknowledge_in (In.refl _ _) (Foot.le_refl _)
  · exact execRdmaNak_in (In.refl _ _) (Foot.le_refl _)
  · exact execRdmaReadResponse_in (In.refl _ _) (Foot.le_refl _)
  · exact execSettleAck_in (In.refl _ _) (Foot.le_refl _)
  · exact execCnp_in (In.refl _ _) (Foot.le_refl _)
  · exact execCcRecover_in (In.refl _ _) (Foot.le_refl _)
  · exact execPfcFrame_in (In.refl _ _) (Foot.le_refl _)
  · exact execRdmaRetryTimeout_in (In.refl _ _) (Foot.le_refl _)
  · exact execRnrTimerExpiry_in (In.refl _ _) (Foot.le_refl _)
  · exact execContextFetchDone_in (In.refl _ _) (Foot.le_refl _)
  · exact execRaePortDown_in (In.refl _ _) (Foot.le_refl _)
  · exact execCtxCreate_in (In.refl _ _) (Foot.le_refl _)
  · exact execCtxModify_in (In.refl _ _) (Foot.le_refl _)
  · exact execCtxReset_in (In.refl _ _) (Foot.le_refl _)
  · exact execCtxDestroy_in (In.refl _ _) (Foot.le_refl _)
  · exact execCtxQuery_in (In.refl _ _) (Foot.le_refl _)
  · exact execKeyCreate_in (In.refl _ _) (Foot.le_refl _)
  · exact execKeyDestroy_in (In.refl _ _) (Foot.le_refl _)
  · exact execKeyQuery_in (In.refl _ _) (Foot.le_refl _)
  · exact execRaeTrig_in (In.refl _ _) (Foot.le_refl _)
  · exact execClusterFenceWrite_in (In.refl _ _) (Foot.le_refl _)
  · exact execTrngHealthTest_in (In.refl _ _) (Foot.le_refl _)
  · exact execDrbgReseed_in (In.refl _ _) (Foot.le_refl _)
  · exact execLoadXts_in (In.refl _ _) (Foot.le_refl _)
  · exact execLoadGcm_in (In.refl _ _) (Foot.le_refl _)
  · exact execZeroize_in (In.refl _ _) (Foot.le_refl _)
  · exact execQuery_in (In.refl _ _) (Foot.le_refl _)
  · exact execTlRandomRead_in (In.refl _ _) (Foot.le_refl _)
  · exact execSvnCommit_in (In.refl _ _) (Foot.le_refl _)
  · exact execGetMeasurements_in (In.refl _ _) (Foot.le_refl _)
  · exact execChallenge_in (In.refl _ _) (Foot.le_refl _)
  · exact execGetCertificate_in (In.refl _ _) (Foot.le_refl _)
  · exact execKeyExchange_in (In.refl _ _) (Foot.le_refl _)
  · exact execSetDomainKek_in (In.refl _ _) (Foot.le_refl _)
  · exact execClearDomainKek_in (In.refl _ _) (Foot.le_refl _)
  · exact execWriteRecoveryImage_in (In.refl _ _) (Foot.le_refl _)
  · exact execWriteConfiguration_in (In.refl _ _) (Foot.le_refl _)
  · exact execServiceFirmwareStart_in (In.refl _ _) (Foot.le_refl _)
  · exact execPwrReqAssert_in (In.refl _ _) (Foot.le_refl _)
  · exact execPwrReqDeassert_in (In.refl _ _) (Foot.le_refl _)
  · exact execRailGood_in (In.refl _ _) (Foot.le_refl _)
  · exact execRailPgFall_in (In.refl _ _) (Foot.le_refl _)
  · exact execRampTimeout_in (In.refl _ _) (Foot.le_refl _)
  · exact execPmbusPoll_in (In.refl _ _) (Foot.le_refl _)
  · exact execRailRetry_in (In.refl _ _) (Foot.le_refl _)
  · exact execUpStepDelay_in (In.refl _ _) (Foot.le_refl _)
  · exact execCorePhaseEnd_in (In.refl _ _) (Foot.le_refl _)
  · exact execConfigWaitTimeout_in (In.refl _ _) (Foot.le_refl _)
  · exact execDownStepDelay_in (In.refl _ _) (Foot.le_refl _)
  · exact execMinOffEnd_in (In.refl _ _) (Foot.le_refl _)
  · exact execWhistleSync_in (In.refl _ _) (Foot.le_refl _)
  · exact execWhistleSyncTimeout_in (In.refl _ _) (Foot.le_refl _)
  · exact execWhistle_in (In.refl _ _) (Foot.le_refl _)
  · exact execFfClr_in (In.refl _ _) (Foot.le_refl _)
  · exact execDomainSwitch_in (In.refl _ _) (Foot.le_refl _)
  · exact execDomainPowerGood_in (In.refl _ _) (Foot.le_refl _)
  · exact execDomainSwitchTimeout_in (In.refl _ _) (Foot.le_refl _)
  · exact execDieOverTemperature_in (In.refl _ _) (Foot.le_refl _)
  · exact execFlushNow_in (In.refl _ _) (Foot.le_refl _)
  · exact execDaybookFlushDone_in (In.refl _ _) (Foot.le_refl _)
  · exact execDaybookCheckpoint_in (In.refl _ _) (Foot.le_refl _)
  · exact execDramRow_in (In.refl _ _) (Foot.le_refl _)
  · exact execFchMarch_in (In.refl _ _) (Foot.le_refl _)
  · exact execCipKat_in (In.refl _ _) (Foot.le_refl _)
  · exact execAbort_in (In.refl _ _) (Foot.le_refl _)
  · exact execPop_in (In.refl _ _) (Foot.le_refl _)
  · exact execCoreOffWrite_in (In.refl _ _) (Foot.le_refl _)
  · exact execMapBlockLoaded_in (In.refl _ _) (Foot.le_refl _)
  · exact execWarmRst_in (In.refl _ _) (Foot.le_refl _)
  · exact execWdogKick_in (In.refl _ _) (Foot.le_refl _)
  · exact execWatchdogExpiry_in (In.refl _ _) (Foot.le_refl _)
  · exact execFunctionLevelReset_in (In.refl _ _) (Foot.le_refl _)
  · exact execRegisterWrite_in (In.refl _ _) (Foot.le_refl _)
  · exact execAlwaysOnPowerUp_in (In.refl _ _) (Foot.le_refl _)
  · exact execAbruptLoss_in (In.refl _ _) (Foot.le_refl _)
  · exact execCarrierRemoved_in (In.refl _ _) (Foot.le_refl _)
  · exact execResyncPageSend_in (In.refl _ _) (Foot.le_refl _)
  · exact execRebuildStripe_in (In.refl _ _) (Foot.le_refl _)
  · exact execLinkDown_in (In.refl _ _) (Foot.le_refl _)
  · exact execNetworkPortPhyUp_in (In.refl _ _) (Foot.le_refl _)
  · exact execHeartbeatToggle_in (In.refl _ _) (Foot.le_refl _)
  · exact execRegisterRead_in (In.refl _ _) (Foot.le_refl _)

/-- The set of listed parts and fields. -/
def footOf (ps : List Part) (fs : List Fld) : Foot :=
  fs.foldl (fun k f => k ||| f.foot) (ps.foldl (fun k p => k ||| p.foot) 0)

theorem footOf_testBit (ps : List Part) (fs : List Fld) (i : Nat) : (footOf ps fs).testBit i =
    ((ps.any fun p => decide (p.ctorIdx = i)) || fs.any fun f => decide (28 + f.ctorIdx = i)) := by
  rw [footOf, foldl_foot]
  congr 1
  have : ∀ (l : List Part) (k : Nat), (l.foldl (fun k p => k ||| p.foot) k).testBit i =
      (k.testBit i || l.any fun p => decide (p.ctorIdx = i)) := by
    intro l
    induction l with
    | nil => simp
    | cons a r ih =>
      intro k
      rw [List.foldl_cons, ih, Nat.testBit_or, Part.foot, Nat.testBit_two_pow, List.any_cons, Bool.or_assoc]
  rw [this]; simp

theorem Part.ctorIdx_inj {p q : Part} (h : p.ctorIdx = q.ctorIdx) : p = q := by
  cases p <;> cases q <;> first | rfl | cases h

/-- What is within a set of listed parts and fields is within the lists. -/
theorem In.within {k : Foot} {ps : List Part} {fs : List Fld} {s t : State} (h : In k s t)
    (e : k.le (footOf ps fs) = true) : Within ps fs s t := by
  refine ⟨fun p hp => h.parts p ?_, fun f i hf => h.regs f i ?_⟩
  · by_contra hc
    have hb := Foot.le_testBit (Foot.le_trans (by simpa using hc) e) (i := p.ctorIdx)
      (by rw [Part.foot, Nat.testBit_two_pow]; simp)
    rw [footOf_testBit] at hb
    rcases Bool.or_eq_true_iff.1 hb with hb | hb
    · obtain ⟨q, hq, hi⟩ := List.any_eq_true.1 hb
      have e : q = p := Part.ctorIdx_inj (of_decide_eq_true hi)
      exact hp (e ▸ hq)
    · obtain ⟨q, hq, hi⟩ := List.any_eq_true.1 hb
      have := of_decide_eq_true hi
      have : p.ctorIdx < 28 := by cases p <;> decide
      omega
  · by_contra hc
    have hb := Foot.le_testBit (Foot.le_trans (by simpa using hc) e) (i := 28 + f.ctorIdx)
      (by rw [Fld.foot_eq, Nat.testBit_two_pow]; simp)
    rw [footOf_testBit] at hb
    rcases Bool.or_eq_true_iff.1 hb with hb | hb
    · obtain ⟨q, hq, hi⟩ := List.any_eq_true.1 hb
      have := of_decide_eq_true hi
      have : q.ctorIdx < 28 := by cases q <;> decide
      omega
    · obtain ⟨q, hq, hi⟩ := List.any_eq_true.1 hb
      have e : q = f := Fld.ctorIdx_inj (by have := of_decide_eq_true hi; omega)
      exact hf (e ▸ hq)

set_option Elab.async false

theorem Fld.ctorIdx_ofNat : ∀ i < 564, (Fld.ofNat i).ctorIdx = i := by decide +kernel

theorem mem_allFlds (f : Fld) : f ∈ allFlds :=
  List.mem_map.2 ⟨f.ctorIdx, List.mem_range.2 f.ctorIdx_lt, Fld.ofNat_ctorIdx f⟩

/-- A set within every field and a list of parts. -/
theorem le_footOf_all {k : Foot} {ps : List Part} (h : k.le (footOf ps [] ||| Foot.allFlds) = true) :
    k.le (footOf ps allFlds) = true := by
  refine Foot.le_trans h (Foot.le_of_testBit fun i hi => ?_)
  rw [Nat.testBit_or, footOf_testBit] at hi
  rw [footOf_testBit]
  rcases Bool.or_eq_true_iff.1 hi with hi | hi
  · simp only [List.any_nil, Bool.or_false] at hi
    rw [hi, Bool.true_or]
  · rw [Foot.allFlds_testBit] at hi
    simp only [Bool.and_eq_true, decide_eq_true_eq] at hi
    refine Bool.or_eq_true_iff.2 (Or.inr (List.any_eq_true.2 ⟨Fld.ofNat (i - 28), mem_allFlds _, ?_⟩))
    rw [Fld.ctorIdx_ofNat _ (by omega)]
    exact decide_eq_true (by omega)

/-- A set within the fields that a restart may change, a list of parts and a list of fields. -/
theorem le_footOf_restart {k : Foot} {ps : List Part} {fs : List Fld}
    (h : k.le (footOf ps fs ||| Foot.allBut keptFlds) = true) : k.le (footOf ps (restartFlds ++ fs)) = true := by
  refine Foot.le_trans h (Foot.le_of_testBit fun i hi => ?_)
  rw [Nat.testBit_or, footOf_testBit] at hi
  rw [footOf_testBit, List.any_append]
  rcases Bool.or_eq_true_iff.1 hi with hi | hi
  · rcases Bool.or_eq_true_iff.1 hi with hi | hi
    · rw [hi, Bool.true_or]
    · rw [hi, Bool.or_true, Bool.or_true]
  · rw [Foot.allBut, Nat.testBit_xor, foldl_foot, Nat.zero_testBit, Bool.false_or] at hi
    rw [Bool.or_eq_true_iff, Bool.or_eq_true_iff]
    refine Or.inr (Or.inl (List.any_eq_true.2 ?_))
    by_cases ha : Foot.allFlds.testBit i = true
    · rw [ha, Bool.true_xor, Bool.not_eq_true', List.any_eq_false] at hi
      rw [Foot.allFlds_testBit] at ha
      simp only [Bool.and_eq_true, decide_eq_true_eq] at ha
      have e : 28 + (Fld.ofNat (i - 28)).ctorIdx = i := by rw [Fld.ctorIdx_ofNat _ (by omega)]; omega
      refine ⟨Fld.ofNat (i - 28), List.mem_filter.2 ⟨mem_allFlds _, ?_⟩, decide_eq_true e⟩
      rw [Bool.not_eq_true', List.contains_eq_mem, decide_eq_false_iff_not]
      intro hm
      exact hi _ hm (decide_eq_true e)
    · rw [Bool.not_eq_true] at ha
      rw [ha, Bool.false_xor] at hi
      obtain ⟨g, hg, e⟩ := List.any_eq_true.1 hi
      have : Foot.allFlds.testBit i = true := Foot.le_testBit g.le_all
        (by rw [Fld.foot_eq, Nat.testBit_two_pow]; exact e)
      rw [ha] at this; cases this

/-- A command's set lies within its lists. -/
def Touched (c : Instr) : Prop := (Instr.foot c).le (footOf (touchedParts c) (touchedFlds c)) = true

theorem touched_tickBoundary {a0} : Touched (.tickBoundary a0) := by
  dsimp only [Touched, Instr.foot, touchedParts, touchedFlds]; decide +kernel
theorem touched_cxlMemRead {a0 a1 a2 a3 a4 a5} : Touched (.cxlMemRead a0 a1 a2 a3 a4 a5) := by
  dsimp only [Touched, Instr.foot, touchedParts, touchedFlds]; decide +kernel
theorem touched_cxlMemWrite {a0 a1 a2 a3 a4 a5 a6 a7} : Touched (.cxlMemWrite a0 a1 a2 a3 a4 a5 a6 a7) := by
  dsimp only [Touched, Instr.foot, touchedParts, touchedFlds]; decide +kernel
theorem touched_settlePageStore {a0 a1 a2} : Touched (.settlePageStore a0 a1 a2) := by
  dsimp only [Touched, Instr.foot, touchedParts, touchedFlds]; decide +kernel
theorem touched_settlePageTimeout {a0 a1 a2} : Touched (.settlePageTimeout a0 a1 a2) := by
  dsimp only [Touched, Instr.foot, touchedParts, touchedFlds]; decide +kernel
theorem touched_snoopWriteBack {a0 a1 a2 a3 a4 a5 a6 a7} : Touched (.snoopWriteBack a0 a1 a2 a3 a4 a5 a6 a7) := by
  dsimp only [Touched, Instr.foot, touchedParts, touchedFlds]; decide +kernel
theorem touched_birsp {a0 a1} : Touched (.birsp a0 a1) := by
  dsimp only [Touched, Instr.foot, touchedParts, touchedFlds]; decide +kernel
theorem touched_biTimeout {a0 a1} : Touched (.biTimeout a0 a1) := by
  dsimp only [Touched, Instr.foot, touchedParts, touchedFlds]; decide +kernel
theorem touched_gpfPhase2 {a0} : Touched (.gpfPhase2 a0) := by
  dsimp only [Touched, Instr.foot, touchedParts, touchedFlds]; decide +kernel
theorem touched_gpfPhase2Timeout {a0} : Touched (.gpfPhase2Timeout a0) := by
  dsimp only [Touched, Instr.foot, touchedParts, touchedFlds]; decide +kernel
theorem touched_hdmDecoderCommit {a0 a1 a2 a3 a4 a5 a6} : Touched (.hdmDecoderCommit a0 a1 a2 a3 a4 a5 a6) := by
  dsimp only [Touched, Instr.foot, touchedParts, touchedFlds]; decide +kernel
theorem touched_ideKmKeyProg {a0 a1 a2} : Touched (.ideKmKeyProg a0 a1 a2) := by
  dsimp only [Touched, Instr.foot, touchedParts, touchedFlds]; decide +kernel
theorem touched_ideMacFail {a0 a1 a2} : Touched (.ideMacFail a0 a1 a2) := by
  dsimp only [Touched, Instr.foot, touchedParts, touchedFlds]; decide +kernel
theorem touched_perstAssert {a0} : Touched (.perstAssert a0) := by
  dsimp only [Touched, Instr.foot, touchedParts, touchedFlds]; decide +kernel
theorem touched_perstRelease {a0} : Touched (.perstRelease a0) := by
  dsimp only [Touched, Instr.foot, touchedParts, touchedFlds]; decide +kernel
theorem touched_linkUp {a0 a1 a2 a3 a4 a5} : Touched (.linkUp a0 a1 a2 a3 a4 a5) := by
  dsimp only [Touched, Instr.foot, touchedParts, touchedFlds]; decide +kernel
theorem touched_linkRecoveryEntry {a0 a1} : Touched (.linkRecoveryEntry a0 a1) := by
  dsimp only [Touched, Instr.foot, touchedParts, touchedFlds]; decide +kernel
theorem touched_linkRetrain {a0 a1} : Touched (.linkRetrain a0 a1) := by
  dsimp only [Touched, Instr.foot, touchedParts, touchedFlds]; decide +kernel
theorem touched_portOfflineWrite {a0 a1} : Touched (.portOfflineWrite a0 a1) := by
  dsimp only [Touched, Instr.foot, touchedParts, touchedFlds]; decide +kernel
theorem touched_pnRdyRise {a0} : Touched (.pnRdyRise a0) := by
  dsimp only [Touched, Instr.foot, touchedParts, touchedFlds]; decide +kernel
theorem touched_pnRdyTimeout {a0} : Touched (.pnRdyTimeout a0) := by
  dsimp only [Touched, Instr.foot, touchedParts, touchedFlds]; decide +kernel
theorem touched_identify {a0 a1} : Touched (.identify a0 a1) := by
  dsimp only [Touched, Instr.foot, touchedParts, touchedFlds]; decide +kernel
theorem touched_getEventRecords {a0 a1} : Touched (.getEventRecords a0 a1) := by
  dsimp only [Touched, Instr.foot, touchedParts, touchedFlds]; decide +kernel
theorem touched_getPoisonList {a0 a1} : Touched (.getPoisonList a0 a1) := by
  dsimp only [Touched, Instr.foot, touchedParts, touchedFlds]; decide +kernel
theorem touched_getHealthInfo {a0 a1} : Touched (.getHealthInfo a0 a1) := by
  dsimp only [Touched, Instr.foot, touchedParts, touchedFlds]; decide +kernel
theorem touched_setTimestamp {a0} : Touched (.setTimestamp a0) := by
  dsimp only [Touched, Instr.foot, touchedParts, touchedFlds]; decide +kernel
theorem touched_initiateDynamicCapacityAdd {a0 a1 a2 a3} : Touched (.initiateDynamicCapacityAdd a0 a1 a2 a3) := by
  dsimp only [Touched, Instr.foot, touchedParts, touchedFlds]; decide +kernel
theorem touched_dynamicCapacityRelease {a0 a1 a2 a3} : Touched (.dynamicCapacityRelease a0 a1 a2 a3) := by
  dsimp only [Touched, Instr.foot, touchedParts, touchedFlds]; decide +kernel
theorem touched_bindLdDomain {a0 a1 a2} : Touched (.bindLdDomain a0 a1 a2) := by
  dsimp only [Touched, Instr.foot, touchedParts, touchedFlds]; decide +kernel
theorem touched_unbindCarrier {a0} : Touched (.unbindCarrier a0) := by
  dsimp only [Touched, Instr.foot, touchedParts, touchedFlds]; decide +kernel
theorem touched_registerAccess {a0 a1 a2 a3 a4} : Touched (.registerAccess a0 a1 a2 a3 a4) := by
  dsimp only [Touched, Instr.foot, touchedParts, touchedFlds]; refine le_footOf_all ?_; decide +kernel
theorem touched_sqTailDoorbell {a0 a1} : Touched (.sqTailDoorbell a0 a1) := by
  dsimp only [Touched, Instr.foot, touchedParts, touchedFlds]; decide +kernel
theorem touched_cqHeadDoorbell {a0 a1} : Touched (.cqHeadDoorbell a0 a1) := by
  dsimp only [Touched, Instr.foot, touchedParts, touchedFlds]; decide +kernel
theorem touched_qpEnWrite {a0 a1} : Touched (.qpEnWrite a0 a1) := by
  dsimp only [Touched, Instr.foot, touchedParts, touchedFlds]; decide +kernel
theorem touched_qpReset {a0} : Touched (.qpReset a0) := by
  dsimp only [Touched, Instr.foot, touchedParts, touchedFlds]; decide +kernel
theorem touched_queueResetCut {a0} : Touched (.queueResetCut a0) := by
  dsimp only [Touched, Instr.foot, touchedParts, touchedFlds]; decide +kernel
theorem touched_sqeFetch {a0 a1} : Touched (.sqeFetch a0 a1) := by
  dsimp only [Touched, Instr.foot, touchedParts, touchedFlds]; decide +kernel
theorem touched_commandDispatch {a0 a1} : Touched (.commandDispatch a0 a1) := by
  dsimp only [Touched, Instr.foot, touchedParts, touchedFlds]; decide +kernel
theorem touched_commandComplete : Touched (.commandComplete) := by
  dsimp only [Touched, Instr.foot, touchedParts, touchedFlds]; decide +kernel
theorem touched_coalesceTimeout {a0} : Touched (.coalesceTimeout a0) := by
  dsimp only [Touched, Instr.foot, touchedParts, touchedFlds]; decide +kernel
theorem touched_ringDmaError {a0 a1} : Touched (.ringDmaError a0 a1) := by
  dsimp only [Touched, Instr.foot, touchedParts, touchedFlds]; decide +kernel
theorem touched_read {a0 a1 a2} : Touched (.read a0 a1 a2) := by
  dsimp only [Touched, Instr.foot, touchedParts, touchedFlds]; decide +kernel
theorem touched_write {a0 a1 a2 a3 a4} : Touched (.write a0 a1 a2 a3 a4) := by
  dsimp only [Touched, Instr.foot, touchedParts, touchedFlds]; decide +kernel
theorem touched_writeAtomic {a0 a1 a2 a3} : Touched (.writeAtomic a0 a1 a2 a3) := by
  dsimp only [Touched, Instr.foot, touchedParts, touchedFlds]; decide +kernel
theorem touched_copy {a0 a1} : Touched (.copy a0 a1) := by
  dsimp only [Touched, Instr.foot, touchedParts, touchedFlds]; decide +kernel
theorem touched_fill {a0 a1} : Touched (.fill a0 a1) := by
  dsimp only [Touched, Instr.foot, touchedParts, touchedFlds]; decide +kernel
theorem touched_settle {a0} : Touched (.settle a0) := by
  dsimp only [Touched, Instr.foot, touchedParts, touchedFlds]; decide +kernel
theorem touched_objCreate {a0} : Touched (.objCreate a0) := by
  dsimp only [Touched, Instr.foot, touchedParts, touchedFlds]; decide +kernel
theorem touched_objDelete {a0} : Touched (.objDelete a0) := by
  dsimp only [Touched, Instr.foot, touchedParts, touchedFlds]; decide +kernel
theorem touched_objResize {a0} : Touched (.objResize a0) := by
  dsimp only [Touched, Instr.foot, touchedParts, touchedFlds]; decide +kernel
theorem touched_objAttr {a0} : Touched (.objAttr a0) := by
  dsimp only [Touched, Instr.foot, touchedParts, touchedFlds]; decide +kernel
theorem touched_windowMap {a0} : Touched (.windowMap a0) := by
  dsimp only [Touched, Instr.foot, touchedParts, touchedFlds]; decide +kernel
theorem touched_windowUnmap {a0} : Touched (.windowUnmap a0) := by
  dsimp only [Touched, Instr.foot, touchedParts, touchedFlds]; decide +kernel
theorem touched_place {a0} : Touched (.place a0) := by
  dsimp only [Touched, Instr.foot, touchedParts, touchedFlds]; decide +kernel
theorem touched_hold {a0} : Touched (.hold a0) := by
  dsimp only [Touched, Instr.foot, touchedParts, touchedFlds]; decide +kernel
theorem touched_release {a0} : Touched (.release a0) := by
  dsimp only [Touched, Instr.foot, touchedParts, touchedFlds]; decide +kernel
theorem touched_streamPost {a0 a1 a2} : Touched (.streamPost a0 a1 a2) := by
  dsimp only [Touched, Instr.foot, touchedParts, touchedFlds]; decide +kernel
theorem touched_streamCancel {a0} : Touched (.streamCancel a0) := by
  dsimp only [Touched, Instr.foot, touchedParts, touchedFlds]; decide +kernel
theorem touched_seal {a0 a1 a2} : Touched (.seal a0 a1 a2) := by
  dsimp only [Touched, Instr.foot, touchedParts, touchedFlds]; decide +kernel
theorem touched_unseal {a0 a1 a2 a3} : Touched (.unseal a0 a1 a2 a3) := by
  dsimp only [Touched, Instr.foot, touchedParts, touchedFlds]; decide +kernel
theorem touched_logRead {a0 a1} : Touched (.logRead a0 a1) := by
  dsimp only [Touched, Instr.foot, touchedParts, touchedFlds]; decide +kernel
theorem touched_nop {a0} : Touched (.nop a0) := by
  dsimp only [Touched, Instr.foot, touchedParts, touchedFlds]; decide +kernel
theorem touched_floatChargeAdmitted : Touched (.floatChargeAdmitted) := by
  dsimp only [Touched, Instr.foot, touchedParts, touchedFlds]; decide +kernel
theorem touched_stall {a0 a1} : Touched (.stall a0 a1) := by
  dsimp only [Touched, Instr.foot, touchedParts, touchedFlds]; decide +kernel
theorem touched_floorComparatorArmed : Touched (.floorComparatorArmed) := by
  dsimp only [Touched, Instr.foot, touchedParts, touchedFlds]; decide +kernel
theorem touched_holdupFloorCrossing : Touched (.holdupFloorCrossing) := by
  dsimp only [Touched, Instr.foot, touchedParts, touchedFlds]; decide +kernel
theorem touched_holdupPmbusPoll {a0} : Touched (.holdupPmbusPoll a0) := by
  dsimp only [Touched, Instr.foot, touchedParts, touchedFlds]; decide +kernel
theorem touched_snsOpen {a0} : Touched (.snsOpen a0) := by
  dsimp only [Touched, Instr.foot, touchedParts, touchedFlds]; decide +kernel
theorem touched_snsNeg {a0} : Touched (.snsNeg a0) := by
  dsimp only [Touched, Instr.foot, touchedParts, touchedFlds]; decide +kernel
theorem touched_holdupInvertWrite {a0} : Touched (.holdupInvertWrite a0) := by
  dsimp only [Touched, Instr.foot, touchedParts, touchedFlds]; decide +kernel
theorem touched_ccalNow {a0} : Touched (.ccalNow a0) := by
  dsimp only [Touched, Instr.foot, touchedParts, touchedFlds]; decide +kernel
theorem touched_ccalInterval {a0} : Touched (.ccalInterval a0) := by
  dsimp only [Touched, Instr.foot, touchedParts, touchedFlds]; decide +kernel
theorem touched_ccalDischarged : Touched (.ccalDischarged) := by
  dsimp only [Touched, Instr.foot, touchedParts, touchedFlds]; decide +kernel
theorem touched_ccalAbandon : Touched (.ccalAbandon) := by
  dsimp only [Touched, Instr.foot, touchedParts, touchedFlds]; decide +kernel
theorem touched_ccalIoutPoll {a0} : Touched (.ccalIoutPoll a0) := by
  dsimp only [Touched, Instr.foot, touchedParts, touchedFlds]; decide +kernel
theorem touched_ccalRecharged : Touched (.ccalRecharged) := by
  dsimp only [Touched, Instr.foot, touchedParts, touchedFlds]; decide +kernel
theorem touched_vcalNow : Touched (.vcalNow) := by
  dsimp only [Touched, Instr.foot, touchedParts, touchedFlds]; decide +kernel
theorem touched_rehearsal : Touched (.rehearsal) := by
  dsimp only [Touched, Instr.foot, touchedParts, touchedFlds]; decide +kernel
theorem touched_rehearsalDone {a0} : Touched (.rehearsalDone a0) := by
  dsimp only [Touched, Instr.foot, touchedParts, touchedFlds]; decide +kernel
theorem touched_measClr : Touched (.measClr) := by
  dsimp only [Touched, Instr.foot, touchedParts, touchedFlds]; decide +kernel
theorem touched_pfailNFall : Touched (.pfailNFall) := by
  dsimp only [Touched, Instr.foot, touchedParts, touchedFlds]; refine le_footOf_restart ?_; decide +kernel
theorem touched_pfailNRise : Touched (.pfailNRise) := by
  dsimp only [Touched, Instr.foot, touchedParts, touchedFlds]; decide +kernel
theorem touched_sysRstNAssert : Touched (.sysRstNAssert) := by
  dsimp only [Touched, Instr.foot, touchedParts, touchedFlds]; decide +kernel
theorem touched_sysRstNDeassert : Touched (.sysRstNDeassert) := by
  dsimp only [Touched, Instr.foot, touchedParts, touchedFlds]; refine le_footOf_restart ?_; decide +kernel
theorem touched_drainNow : Touched (.drainNow) := by
  dsimp only [Touched, Instr.foot, touchedParts, touchedFlds]; decide +kernel
theorem touched_drainWritebackDone : Touched (.drainWritebackDone) := by
  dsimp only [Touched, Instr.foot, touchedParts, touchedFlds]; decide +kernel
theorem touched_drainFloatDone {a0} : Touched (.drainFloatDone a0) := by
  dsimp only [Touched, Instr.foot, touchedParts, touchedFlds]; decide +kernel
theorem touched_drainMetadataDone {a0 a1} : Touched (.drainMetadataDone a0 a1) := by
  dsimp only [Touched, Instr.foot, touchedParts, touchedFlds]; refine le_footOf_restart ?_; decide +kernel
theorem touched_vaultSealWritten : Touched (.vaultSealWritten) := by
  dsimp only [Touched, Instr.foot, touchedParts, touchedFlds]; refine le_footOf_restart ?_; decide +kernel
theorem touched_demandFetchDone {a0 a1 a2 a3 a4 a5 a6} : Touched (.demandFetchDone a0 a1 a2 a3 a4 a5 a6) := by
  dsimp only [Touched, Instr.foot, touchedParts, touchedFlds]; decide +kernel
theorem touched_zeroFillDone {a0 a1} : Touched (.zeroFillDone a0 a1) := by
  dsimp only [Touched, Instr.foot, touchedParts, touchedFlds]; decide +kernel
theorem touched_overBound {a0 a1} : Touched (.overBound a0 a1) := by
  dsimp only [Touched, Instr.foot, touchedParts, touchedFlds]; decide +kernel
theorem touched_t3FetchFail {a0 a1} : Touched (.t3FetchFail a0 a1) := by
  dsimp only [Touched, Instr.foot, touchedParts, touchedFlds]; decide +kernel
theorem touched_poolDry : Touched (.poolDry) := by
  dsimp only [Touched, Instr.foot, touchedParts, touchedFlds]; decide +kernel
theorem touched_residencyCheckpoint : Touched (.residencyCheckpoint) := by
  dsimp only [Touched, Instr.foot, touchedParts, touchedFlds]; decide +kernel
theorem touched_runCompactionStep : Touched (.runCompactionStep) := by
  dsimp only [Touched, Instr.foot, touchedParts, touchedFlds]; decide +kernel
theorem touched_moveBegin {a0} : Touched (.moveBegin a0) := by
  dsimp only [Touched, Instr.foot, touchedParts, touchedFlds]; decide +kernel
theorem touched_moveLoadDone {a0 a1 a2 a3 a4 a5} : Touched (.moveLoadDone a0 a1 a2 a3 a4 a5) := by
  dsimp only [Touched, Instr.foot, touchedParts, touchedFlds]; decide +kernel
theorem touched_moveInstallDone {a0 a1} : Touched (.moveInstallDone a0 a1) := by
  dsimp only [Touched, Instr.foot, touchedParts, touchedFlds]; decide +kernel
theorem touched_moveCleanDone {a0 a1} : Touched (.moveCleanDone a0 a1) := by
  dsimp only [Touched, Instr.foot, touchedParts, touchedFlds]; decide +kernel
theorem touched_moveUnloadDone {a0 a1 a2} : Touched (.moveUnloadDone a0 a1 a2) := by
  dsimp only [Touched, Instr.foot, touchedParts, touchedFlds]; decide +kernel
theorem touched_streamEntryStart {a0 a1} : Touched (.streamEntryStart a0 a1) := by
  dsimp only [Touched, Instr.foot, touchedParts, touchedFlds]; decide +kernel
theorem touched_missEvictQueued {a0 a1} : Touched (.missEvictQueued a0 a1) := by
  dsimp only [Touched, Instr.foot, touchedParts, touchedFlds]; decide +kernel
theorem touched_missFillReturn {a0 a1 a2 a3 a4 a5} : Touched (.missFillReturn a0 a1 a2 a3 a4 a5) := by
  dsimp only [Touched, Instr.foot, touchedParts, touchedFlds]; decide +kernel
theorem touched_pgReqWrite {a0 a1} : Touched (.pgReqWrite a0 a1) := by
  dsimp only [Touched, Instr.foot, touchedParts, touchedFlds]; decide +kernel
theorem touched_wayGroupCleanDone {a0 a1} : Touched (.wayGroupCleanDone a0 a1) := by
  dsimp only [Touched, Instr.foot, touchedParts, touchedFlds]; decide +kernel
theorem touched_grpInv {a0 a1} : Touched (.grpInv a0 a1) := by
  dsimp only [Touched, Instr.foot, touchedParts, touchedFlds]; decide +kernel
theorem touched_sliceDisReq {a0} : Touched (.sliceDisReq a0) := by
  dsimp only [Touched, Instr.foot, touchedParts, touchedFlds]; decide +kernel
theorem touched_sliceFlushDone {a0} : Touched (.sliceFlushDone a0) := by
  dsimp only [Touched, Instr.foot, touchedParts, touchedFlds]; decide +kernel
theorem touched_lockEntryWrite {a0 a1 a2} : Touched (.lockEntryWrite a0 a1 a2) := by
  dsimp only [Touched, Instr.foot, touchedParts, touchedFlds]; decide +kernel
theorem touched_fchSlStateWrite {a0} : Touched (.fchSlStateWrite a0) := by
  dsimp only [Touched, Instr.foot, touchedParts, touchedFlds]; decide +kernel
theorem touched_prtBenchWrite {a0} : Touched (.prtBenchWrite a0) := by
  dsimp only [Touched, Instr.foot, touchedParts, touchedFlds]; decide +kernel
theorem touched_cmdStatusWrite : Touched (.cmdStatusWrite) := by
  dsimp only [Touched, Instr.foot, touchedParts, touchedFlds]; decide +kernel
theorem touched_tpeCnt2Write : Touched (.tpeCnt2Write) := by
  dsimp only [Touched, Instr.foot, touchedParts, touchedFlds]; decide +kernel
theorem touched_refreshDue {a0 a1 a2} : Touched (.refreshDue a0 a1 a2) := by
  dsimp only [Touched, Instr.foot, touchedParts, touchedFlds]; decide +kernel
theorem touched_forcedRefresh {a0 a1} : Touched (.forcedRefresh a0 a1) := by
  dsimp only [Touched, Instr.foot, touchedParts, touchedFlds]; decide +kernel
theorem touched_neighbourRefresh {a0 a1} : Touched (.neighbourRefresh a0 a1) := by
  dsimp only [Touched, Instr.foot, touchedParts, touchedFlds]; decide +kernel
theorem touched_dimmThermalPoll {a0 a1} : Touched (.dimmThermalPoll a0 a1) := by
  dsimp only [Touched, Instr.foot, touchedParts, touchedFlds]; decide +kernel
theorem touched_trainingDone {a0} : Touched (.trainingDone a0) := by
  dsimp only [Touched, Instr.foot, touchedParts, touchedFlds]; decide +kernel
theorem touched_readEyeWindow {a0 a1 a2 a3} : Touched (.readEyeWindow a0 a1 a2 a3) := by
  dsimp only [Touched, Instr.foot, touchedParts, touchedFlds]; decide +kernel
theorem touched_writeTrackingSlice {a0 a1 a2} : Touched (.writeTrackingSlice a0 a1 a2) := by
  dsimp only [Touched, Instr.foot, touchedParts, touchedFlds]; decide +kernel
theorem touched_retrain {a0 a1} : Touched (.retrain a0 a1) := by
  dsimp only [Touched, Instr.foot, touchedParts, touchedFlds]; decide +kernel
theorem touched_caParityAlert {a0 a1} : Touched (.caParityAlert a0 a1) := by
  dsimp only [Touched, Instr.foot, touchedParts, touchedFlds]; decide +kernel
theorem touched_stripeSettleStart {a0 a1} : Touched (.stripeSettleStart a0 a1) := by
  dsimp only [Touched, Instr.foot, touchedParts, touchedFlds]; decide +kernel
theorem touched_stripeSettleDone {a0 a1} : Touched (.stripeSettleDone a0 a1) := by
  dsimp only [Touched, Instr.foot, touchedParts, touchedFlds]; decide +kernel
theorem touched_nandProgramFail {a0 a1} : Touched (.nandProgramFail a0 a1) := by
  dsimp only [Touched, Instr.foot, touchedParts, touchedFlds]; decide +kernel
theorem touched_nandEraseFail {a0} : Touched (.nandEraseFail a0) := by
  dsimp only [Touched, Instr.foot, touchedParts, touchedFlds]; decide +kernel
theorem touched_rehome {a0 a1 a2} : Touched (.rehome a0 a1 a2) := by
  dsimp only [Touched, Instr.foot, touchedParts, touchedFlds]; decide +kernel
theorem touched_garbageCollection {a0 a1 a2 a3} : Touched (.garbageCollection a0 a1 a2 a3) := by
  dsimp only [Touched, Instr.foot, touchedParts, touchedFlds]; decide +kernel
theorem touched_channelRetire {a0} : Touched (.channelRetire a0) := by
  dsimp only [Touched, Instr.foot, touchedParts, touchedFlds]; decide +kernel
theorem touched_retire {a0} : Touched (.retire a0) := by
  dsimp only [Touched, Instr.foot, touchedParts, touchedFlds]; decide +kernel
theorem touched_retireSlot {a0} : Touched (.retireSlot a0) := by
  dsimp only [Touched, Instr.foot, touchedParts, touchedFlds]; decide +kernel
theorem touched_slotPwrWrite {a0 a1} : Touched (.slotPwrWrite a0 a1) := by
  dsimp only [Touched, Instr.foot, touchedParts, touchedFlds]; decide +kernel
theorem touched_carrierPresent {a0 a1} : Touched (.carrierPresent a0 a1) := by
  dsimp only [Touched, Instr.foot, touchedParts, touchedFlds]; decide +kernel
theorem touched_adopt {a0 a1 a2} : Touched (.adopt a0 a1 a2) := by
  dsimp only [Touched, Instr.foot, touchedParts, touchedFlds]; decide +kernel
theorem touched_rebuildDone {a0} : Touched (.rebuildDone a0) := by
  dsimp only [Touched, Instr.foot, touchedParts, touchedFlds]; decide +kernel
theorem touched_ladderHomeReadDone {a0 a1 a2} : Touched (.ladderHomeReadDone a0 a1 a2) := by
  dsimp only [Touched, Instr.foot, touchedParts, touchedFlds]; decide +kernel
theorem touched_ladderDeadline {a0} : Touched (.ladderDeadline a0) := by
  dsimp only [Touched, Instr.foot, touchedParts, touchedFlds]; decide +kernel
theorem touched_verifyRead {a0 a1} : Touched (.verifyRead a0 a1) := by
  dsimp only [Touched, Instr.foot, touchedParts, touchedFlds]; decide +kernel
theorem touched_recodeWrite : Touched (.recodeWrite) := by
  dsimp only [Touched, Instr.foot, touchedParts, touchedFlds]; decide +kernel
theorem touched_flipArmWrite {a0 a1 a2} : Touched (.flipArmWrite a0 a1 a2) := by
  dsimp only [Touched, Instr.foot, touchedParts, touchedFlds]; decide +kernel
theorem touched_mirrorPhyUp {a0} : Touched (.mirrorPhyUp a0) := by
  dsimp only [Touched, Instr.foot, touchedParts, touchedFlds]; decide +kernel
theorem touched_mirrorPortPhyDown {a0} : Touched (.mirrorPortPhyDown a0) := by
  dsimp only [Touched, Instr.foot, touchedParts, touchedFlds]; decide +kernel
theorem touched_hello {a0 a1} : Touched (.hello a0 a1) := by
  dsimp only [Touched, Instr.foot, touchedParts, touchedFlds]; decide +kernel
theorem touched_helloRepeat : Touched (.helloRepeat) := by
  dsimp only [Touched, Instr.foot, touchedParts, touchedFlds]; decide +kernel
theorem touched_mirrorSpdm {a0 a1} : Touched (.mirrorSpdm a0 a1) := by
  dsimp only [Touched, Instr.foot, touchedParts, touchedFlds]; decide +kernel
theorem touched_partnerEndedBringUp : Touched (.partnerEndedBringUp) := by
  dsimp only [Touched, Instr.foot, touchedParts, touchedFlds]; decide +kernel
theorem touched_record {a0 a1} : Touched (.record a0 a1) := by
  dsimp only [Touched, Instr.foot, touchedParts, touchedFlds]; decide +kernel
theorem touched_ack {a0 a1} : Touched (.ack a0 a1) := by
  dsimp only [Touched, Instr.foot, touchedParts, touchedFlds]; decide +kernel
theorem touched_nak {a0} : Touched (.nak a0) := by
  dsimp only [Touched, Instr.foot, touchedParts, touchedFlds]; decide +kernel
theorem touched_retxTimeout {a0} : Touched (.retxTimeout a0) := by
  dsimp only [Touched, Instr.foot, touchedParts, touchedFlds]; decide +kernel
theorem touched_keepalive {a0} : Touched (.keepalive a0) := by
  dsimp only [Touched, Instr.foot, touchedParts, touchedFlds]; decide +kernel
theorem touched_mirrorLinkLost : Touched (.mirrorLinkLost) := by
  dsimp only [Touched, Instr.foot, touchedParts, touchedFlds]; decide +kernel
theorem touched_phyHoldEnd : Touched (.phyHoldEnd) := by
  dsimp only [Touched, Instr.foot, touchedParts, touchedFlds]; decide +kernel
theorem touched_drain {a0} : Touched (.drain a0) := by
  dsimp only [Touched, Instr.foot, touchedParts, touchedFlds]; decide +kernel
theorem touched_fetchReq {a0 a1 a2 a3} : Touched (.fetchReq a0 a1 a2 a3) := by
  dsimp only [Touched, Instr.foot, touchedParts, touchedFlds]; decide +kernel
theorem touched_fetchRsp {a0 a1 a2} : Touched (.fetchRsp a0 a1 a2) := by
  dsimp only [Touched, Instr.foot, touchedParts, touchedFlds]; decide +kernel
theorem touched_noRoom {a0} : Touched (.noRoom a0) := by
  dsimp only [Touched, Instr.foot, touchedParts, touchedFlds]; decide +kernel
theorem touched_heartbeatLost : Touched (.heartbeatLost) := by
  dsimp only [Touched, Instr.foot, touchedParts, touchedFlds]; decide +kernel
theorem touched_heartbeatRestored : Touched (.heartbeatRestored) := by
  dsimp only [Touched, Instr.foot, touchedParts, touchedFlds]; decide +kernel
theorem touched_twinGrantChange {a0} : Touched (.twinGrantChange a0) := by
  dsimp only [Touched, Instr.foot, touchedParts, touchedFlds]; decide +kernel
theorem touched_takeover : Touched (.takeover) := by
  dsimp only [Touched, Instr.foot, touchedParts, touchedFlds]; decide +kernel
theorem touched_retryMatch : Touched (.retryMatch) := by
  dsimp only [Touched, Instr.foot, touchedParts, touchedFlds]; decide +kernel
theorem touched_linkRestart : Touched (.linkRestart) := by
  dsimp only [Touched, Instr.foot, touchedParts, touchedFlds]; decide +kernel
theorem touched_rdmaWrite {a0} : Touched (.rdmaWrite a0) := by
  dsimp only [Touched, Instr.foot, touchedParts, touchedFlds]; decide +kernel
theorem touched_rdmaSend {a0} : Touched (.rdmaSend a0) := by
  dsimp only [Touched, Instr.foot, touchedParts, touchedFlds]; decide +kernel
theorem touched_rdmaReadRequest {a0} : Touched (.rdmaReadRequest a0) := by
  dsimp only [Touched, Instr.foot, touchedParts, touchedFlds]; decide +kernel
theorem touched_cmpswap {a0} : Touched (.cmpswap a0) := by
  dsimp only [Touched, Instr.foot, touchedParts, touchedFlds]; decide +kernel
theorem touched_fetchadd {a0} : Touched (.fetchadd a0) := by
  dsimp only [Touched, Instr.foot, touchedParts, touchedFlds]; decide +kernel
theorem touched_acknowledge {a0 a1} : Touched (.acknowledge a0 a1) := by
  dsimp only [Touched, Instr.foot, touchedParts, touchedFlds]; decide +kernel
theorem touched_rdmaNak {a0 a1 a2} : Touched (.rdmaNak a0 a1 a2) := by
  dsimp only [Touched, Instr.foot, touchedParts, touchedFlds]; decide +kernel
theorem touched_rdmaReadResponse {a0 a1 a2} : Touched (.rdmaReadResponse a0 a1 a2) := by
  dsimp only [Touched, Instr.foot, touchedParts, touchedFlds]; decide +kernel
theorem touched_settleAck {a0 a1 a2 a3} : Touched (.settleAck a0 a1 a2 a3) := by
  dsimp only [Touched, Instr.foot, touchedParts, touchedFlds]; decide +kernel
theorem touched_cnp {a0} : Touched (.cnp a0) := by
  dsimp only [Touched, Instr.foot, touchedParts, touchedFlds]; decide +kernel
theorem touched_ccRecover {a0} : Touched (.ccRecover a0) := by
  dsimp only [Touched, Instr.foot, touchedParts, touchedFlds]; decide +kernel
theorem touched_pfcFrame {a0 a1} : Touched (.pfcFrame a0 a1) := by
  dsimp only [Touched, Instr.foot, touchedParts, touchedFlds]; decide +kernel
theorem touched_rdmaRetryTimeout {a0} : Touched (.rdmaRetryTimeout a0) := by
  dsimp only [Touched, Instr.foot, touchedParts, touchedFlds]; decide +kernel
theorem touched_rnrTimerExpiry {a0} : Touched (.rnrTimerExpiry a0) := by
  dsimp only [Touched, Instr.foot, touchedParts, touchedFlds]; decide +kernel
theorem touched_contextFetchDone {a0} : Touched (.contextFetchDone a0) := by
  dsimp only [Touched, Instr.foot, touchedParts, touchedFlds]; decide +kernel
theorem touched_raePortDown {a0} : Touched (.raePortDown a0) := by
  dsimp only [Touched, Instr.foot, touchedParts, touchedFlds]; decide +kernel
theorem touched_ctxCreate {a0} : Touched (.ctxCreate a0) := by
  dsimp only [Touched, Instr.foot, touchedParts, touchedFlds]; decide +kernel
theorem touched_ctxModify {a0} : Touched (.ctxModify a0) := by
  dsimp only [Touched, Instr.foot, touchedParts, touchedFlds]; decide +kernel
theorem touched_ctxReset {a0} : Touched (.ctxReset a0) := by
  dsimp only [Touched, Instr.foot, touchedParts, touchedFlds]; decide +kernel
theorem touched_ctxDestroy {a0} : Touched (.ctxDestroy a0) := by
  dsimp only [Touched, Instr.foot, touchedParts, touchedFlds]; decide +kernel
theorem touched_ctxQuery {a0} : Touched (.ctxQuery a0) := by
  dsimp only [Touched, Instr.foot, touchedParts, touchedFlds]; decide +kernel
theorem touched_keyCreate {a0} : Touched (.keyCreate a0) := by
  dsimp only [Touched, Instr.foot, touchedParts, touchedFlds]; decide +kernel
theorem touched_keyDestroy {a0} : Touched (.keyDestroy a0) := by
  dsimp only [Touched, Instr.foot, touchedParts, touchedFlds]; decide +kernel
theorem touched_keyQuery {a0} : Touched (.keyQuery a0) := by
  dsimp only [Touched, Instr.foot, touchedParts, touchedFlds]; decide +kernel
theorem touched_raeTrig {a0 a1} : Touched (.raeTrig a0 a1) := by
  dsimp only [Touched, Instr.foot, touchedParts, touchedFlds]; decide +kernel
theorem touched_clusterFenceWrite {a0} : Touched (.clusterFenceWrite a0) := by
  dsimp only [Touched, Instr.foot, touchedParts, touchedFlds]; decide +kernel
theorem touched_trngHealthTest {a0} : Touched (.trngHealthTest a0) := by
  dsimp only [Touched, Instr.foot, touchedParts, touchedFlds]; decide +kernel
theorem touched_drbgReseed : Touched (.drbgReseed) := by
  dsimp only [Touched, Instr.foot, touchedParts, touchedFlds]; decide +kernel
theorem touched_loadXts {a0 a1} : Touched (.loadXts a0 a1) := by
  dsimp only [Touched, Instr.foot, touchedParts, touchedFlds]; decide +kernel
theorem touched_loadGcm {a0 a1} : Touched (.loadGcm a0 a1) := by
  dsimp only [Touched, Instr.foot, touchedParts, touchedFlds]; decide +kernel
theorem touched_zeroize {a0 a1} : Touched (.zeroize a0 a1) := by
  dsimp only [Touched, Instr.foot, touchedParts, touchedFlds]; decide +kernel
theorem touched_query {a0 a1} : Touched (.query a0 a1) := by
  dsimp only [Touched, Instr.foot, touchedParts, touchedFlds]; decide +kernel
theorem touched_tlRandomRead {a0 a1} : Touched (.tlRandomRead a0 a1) := by
  dsimp only [Touched, Instr.foot, touchedParts, touchedFlds]; decide +kernel
theorem touched_svnCommit : Touched (.svnCommit) := by
  dsimp only [Touched, Instr.foot, touchedParts, touchedFlds]; decide +kernel
theorem touched_getMeasurements {a0 a1} : Touched (.getMeasurements a0 a1) := by
  dsimp only [Touched, Instr.foot, touchedParts, touchedFlds]; decide +kernel
theorem touched_challenge {a0 a1} : Touched (.challenge a0 a1) := by
  dsimp only [Touched, Instr.foot, touchedParts, touchedFlds]; decide +kernel
theorem touched_getCertificate {a0} : Touched (.getCertificate a0) := by
  dsimp only [Touched, Instr.foot, touchedParts, touchedFlds]; decide +kernel
theorem touched_keyExchange {a0} : Touched (.keyExchange a0) := by
  dsimp only [Touched, Instr.foot, touchedParts, touchedFlds]; decide +kernel
theorem touched_setDomainKek {a0 a1 a2} : Touched (.setDomainKek a0 a1 a2) := by
  dsimp only [Touched, Instr.foot, touchedParts, touchedFlds]; decide +kernel
theorem touched_clearDomainKek {a0 a1} : Touched (.clearDomainKek a0 a1) := by
  dsimp only [Touched, Instr.foot, touchedParts, touchedFlds]; decide +kernel
theorem touched_writeRecoveryImage {a0 a1 a2} : Touched (.writeRecoveryImage a0 a1 a2) := by
  dsimp only [Touched, Instr.foot, touchedParts, touchedFlds]; decide +kernel
theorem touched_writeConfiguration {a0 a1 a2} : Touched (.writeConfiguration a0 a1 a2) := by
  dsimp only [Touched, Instr.foot, touchedParts, touchedFlds]; decide +kernel
theorem touched_serviceFirmwareStart {a0} : Touched (.serviceFirmwareStart a0) := by
  dsimp only [Touched, Instr.foot, touchedParts, touchedFlds]; refine le_footOf_all ?_; decide +kernel
theorem touched_pwrReqAssert {a0} : Touched (.pwrReqAssert a0) := by
  dsimp only [Touched, Instr.foot, touchedParts, touchedFlds]; decide +kernel
theorem touched_pwrReqDeassert : Touched (.pwrReqDeassert) := by
  dsimp only [Touched, Instr.foot, touchedParts, touchedFlds]; refine le_footOf_restart ?_; decide +kernel
theorem touched_railGood {a0} : Touched (.railGood a0) := by
  dsimp only [Touched, Instr.foot, touchedParts, touchedFlds]; decide +kernel
theorem touched_railPgFall {a0} : Touched (.railPgFall a0) := by
  dsimp only [Touched, Instr.foot, touchedParts, touchedFlds]; refine le_footOf_restart ?_; decide +kernel
theorem touched_rampTimeout {a0} : Touched (.rampTimeout a0) := by
  dsimp only [Touched, Instr.foot, touchedParts, touchedFlds]; refine le_footOf_restart ?_; decide +kernel
theorem touched_pmbusPoll {a0 a1 a2} : Touched (.pmbusPoll a0 a1 a2) := by
  dsimp only [Touched, Instr.foot, touchedParts, touchedFlds]; refine le_footOf_restart ?_; decide +kernel
theorem touched_railRetry {a0} : Touched (.railRetry a0) := by
  dsimp only [Touched, Instr.foot, touchedParts, touchedFlds]; decide +kernel
theorem touched_upStepDelay : Touched (.upStepDelay) := by
  dsimp only [Touched, Instr.foot, touchedParts, touchedFlds]; decide +kernel
theorem touched_corePhaseEnd {a0 a1 a2 a3} : Touched (.corePhaseEnd a0 a1 a2 a3) := by
  dsimp only [Touched, Instr.foot, touchedParts, touchedFlds]; decide +kernel
theorem touched_configWaitTimeout : Touched (.configWaitTimeout) := by
  dsimp only [Touched, Instr.foot, touchedParts, touchedFlds]; decide +kernel
theorem touched_downStepDelay : Touched (.downStepDelay) := by
  dsimp only [Touched, Instr.foot, touchedParts, touchedFlds]; refine le_footOf_restart ?_; decide +kernel
theorem touched_minOffEnd : Touched (.minOffEnd) := by
  dsimp only [Touched, Instr.foot, touchedParts, touchedFlds]; decide +kernel
theorem touched_whistleSync : Touched (.whistleSync) := by
  dsimp only [Touched, Instr.foot, touchedParts, touchedFlds]; decide +kernel
theorem touched_whistleSyncTimeout : Touched (.whistleSyncTimeout) := by
  dsimp only [Touched, Instr.foot, touchedParts, touchedFlds]; refine le_footOf_restart ?_; decide +kernel
theorem touched_whistle : Touched (.whistle) := by
  dsimp only [Touched, Instr.foot, touchedParts, touchedFlds]; refine le_footOf_restart ?_; decide +kernel
theorem touched_ffClr : Touched (.ffClr) := by
  dsimp only [Touched, Instr.foot, touchedParts, touchedFlds]; decide +kernel
theorem touched_domainSwitch {a0 a1} : Touched (.domainSwitch a0 a1) := by
  dsimp only [Touched, Instr.foot, touchedParts, touchedFlds]; decide +kernel
theorem touched_domainPowerGood {a0} : Touched (.domainPowerGood a0) := by
  dsimp only [Touched, Instr.foot, touchedParts, touchedFlds]; decide +kernel
theorem touched_domainSwitchTimeout {a0} : Touched (.domainSwitchTimeout a0) := by
  dsimp only [Touched, Instr.foot, touchedParts, touchedFlds]; decide +kernel
theorem touched_dieOverTemperature : Touched (.dieOverTemperature) := by
  dsimp only [Touched, Instr.foot, touchedParts, touchedFlds]; refine le_footOf_restart ?_; decide +kernel
theorem touched_flushNow : Touched (.flushNow) := by
  dsimp only [Touched, Instr.foot, touchedParts, touchedFlds]; decide +kernel
theorem touched_daybookFlushDone {a0 a1} : Touched (.daybookFlushDone a0 a1) := by
  dsimp only [Touched, Instr.foot, touchedParts, touchedFlds]; refine le_footOf_restart ?_; decide +kernel
theorem touched_daybookCheckpoint : Touched (.daybookCheckpoint) := by
  dsimp only [Touched, Instr.foot, touchedParts, touchedFlds]; decide +kernel
theorem touched_dramRow {a0 a1} : Touched (.dramRow a0 a1) := by
  dsimp only [Touched, Instr.foot, touchedParts, touchedFlds]; decide +kernel
theorem touched_fchMarch {a0 a1} : Touched (.fchMarch a0 a1) := by
  dsimp only [Touched, Instr.foot, touchedParts, touchedFlds]; decide +kernel
theorem touched_cipKat {a0} : Touched (.cipKat a0) := by
  dsimp only [Touched, Instr.foot, touchedParts, touchedFlds]; decide +kernel
theorem touched_abort : Touched (.abort) := by
  dsimp only [Touched, Instr.foot, touchedParts, touchedFlds]; decide +kernel
theorem touched_pop : Touched (.pop) := by
  dsimp only [Touched, Instr.foot, touchedParts, touchedFlds]; decide +kernel
theorem touched_coreOffWrite {a0} : Touched (.coreOffWrite a0) := by
  dsimp only [Touched, Instr.foot, touchedParts, touchedFlds]; decide +kernel
theorem touched_mapBlockLoaded {a0} : Touched (.mapBlockLoaded a0) := by
  dsimp only [Touched, Instr.foot, touchedParts, touchedFlds]; decide +kernel
theorem touched_warmRst : Touched (.warmRst) := by
  dsimp only [Touched, Instr.foot, touchedParts, touchedFlds]; decide +kernel
theorem touched_wdogKick : Touched (.wdogKick) := by
  dsimp only [Touched, Instr.foot, touchedParts, touchedFlds]; decide +kernel
theorem touched_watchdogExpiry : Touched (.watchdogExpiry) := by
  dsimp only [Touched, Instr.foot, touchedParts, touchedFlds]; decide +kernel
theorem touched_functionLevelReset {a0 a1} : Touched (.functionLevelReset a0 a1) := by
  dsimp only [Touched, Instr.foot, touchedParts, touchedFlds]; decide +kernel
theorem touched_registerWrite {a0 a1 a2 a3 a4 a5} : Touched (.registerWrite a0 a1 a2 a3 a4 a5) := by
  dsimp only [Touched, Instr.foot, touchedParts, touchedFlds]; refine le_footOf_all ?_; decide +kernel
theorem touched_alwaysOnPowerUp {a0 a1 a2} : Touched (.alwaysOnPowerUp a0 a1 a2) := by
  dsimp only [Touched, Instr.foot, touchedParts, touchedFlds]; refine le_footOf_all ?_; decide +kernel
theorem touched_abruptLoss {a0 a1} : Touched (.abruptLoss a0 a1) := by
  dsimp only [Touched, Instr.foot, touchedParts, touchedFlds]; refine le_footOf_restart ?_; decide +kernel
theorem touched_carrierRemoved {a0} : Touched (.carrierRemoved a0) := by
  dsimp only [Touched, Instr.foot, touchedParts, touchedFlds]; decide +kernel
theorem touched_resyncPageSend {a0} : Touched (.resyncPageSend a0) := by
  dsimp only [Touched, Instr.foot, touchedParts, touchedFlds]; decide +kernel
theorem touched_rebuildStripe {a0 a1} : Touched (.rebuildStripe a0 a1) := by
  dsimp only [Touched, Instr.foot, touchedParts, touchedFlds]; decide +kernel
theorem touched_linkDown {a0} : Touched (.linkDown a0) := by
  dsimp only [Touched, Instr.foot, touchedParts, touchedFlds]; decide +kernel
theorem touched_networkPortPhyUp {a0} : Touched (.networkPortPhyUp a0) := by
  dsimp only [Touched, Instr.foot, touchedParts, touchedFlds]; decide +kernel
theorem touched_heartbeatToggle : Touched (.heartbeatToggle) := by
  dsimp only [Touched, Instr.foot, touchedParts, touchedFlds]; decide +kernel
theorem touched_registerRead {a0 a1 a2 a3} : Touched (.registerRead a0 a1 a2 a3) := by
  dsimp only [Touched, Instr.foot, touchedParts, touchedFlds]; decide +kernel

end Sys2Proof.Machine
end

