-- ==== Sys2Proof/Laws/Only.lean ====
section
/-! SUPPORT. Frames of the shared operations: which parts and register fields each may change. -/

namespace Sys2Proof.Machine

variable {ps : List Part} {fs : List (Fld × Nat)} {s t u : State}

theorem Only.refl (ps : List Part) (fs : List (Fld × Nat)) (s : State) : Only ps fs s s :=
  ⟨fun p _ => by cases p <;> rfl, fun _ _ _ => rfl⟩

theorem Only.trans (h : Only ps fs s t) (h' : Only ps fs t u) : Only ps fs s u :=
  ⟨fun p hp => by
    have a := h.parts p hp
    have b := h'.parts p hp
    cases p <;> exact Eq.trans b a, fun f i hf => (h'.regs f i hf).trans (h.regs f i hf)⟩

theorem Only.mono {qs : List Part} {gs : List (Fld × Nat)} (h : Only ps fs s t) (hp : ps ⊆ qs) (hf : fs ⊆ gs) :
    Only qs gs s t :=
  ⟨fun p x => h.parts p fun y => x (hp y), fun f i x => h.regs f i fun y => x (hf y)⟩

/-- One more step within the frame. -/
theorem Only.step {qs : List Part} {gs : List (Fld × Nat)} (h : Only ps fs s t) (h' : Only qs gs t u)
    (hp : qs ⊆ ps) (hf : gs ⊆ fs) : Only ps fs s u := h.trans (h'.mono hp hf)

theorem Only.wri (h : Only ps fs s t) {f : Fld} {i v : Nat} (hm : (f, i) ∈ fs) : Only ps fs s (t.wri f i v) :=
  ⟨fun p hp => by have := h.parts p hp; cases p <;> exact this, fun g j hg => by
    rw [State.rdi_wri_ne _ (by
      by_contra hc
      simp only [not_or, not_not] at hc
      exact hg (hc.1 ▸ hc.2 ▸ hm))]
    exact h.regs g j hg⟩

theorem Only.wr (h : Only ps fs s t) {f : Fld} {v : Nat} (hm : (f, 0) ∈ fs) : Only ps fs s (t.wr f v) := h.wri hm
theorem Only.setf (h : Only ps fs s t) {f : Fld} {b : Bool} (hm : (f, 0) ∈ fs) : Only ps fs s (t.setf f b) := h.wri hm
theorem Only.setfi (h : Only ps fs s t) {f : Fld} {i : Nat} {b : Bool} (hm : (f, i) ∈ fs) :
    Only ps fs s (t.setfi f i b) := h.wri hm
theorem Only.setBitOf (h : Only ps fs s t) {f : Fld} {i k : Nat} {b : Bool} (hm : (f, i) ∈ fs) :
    Only ps fs s (t.setBitOf f i k b) := h.wri hm

/-- An update of parts beside the registers. -/
theorem Only.upd (h : Only ps fs s t) (hr : u.regs = t.regs) (hp : ∀ p, p ∉ ps → p.same t u) : Only ps fs s u :=
  ⟨fun p x => by
    have a := h.parts p x
    have b := hp p x
    cases p <;> exact Eq.trans b a, fun f i hf => by
      have := h.regs f i hf
      simp only [State.rdi] at this ⊢
      rw [hr]; exact this⟩

theorem Only.mk_glb (h : Only ps fs s t) {x} (hp : .glb ∈ ps) : Only ps fs s { t with glb := x } :=
  h.upd rfl fun q hq => by cases q <;> first | rfl | exact absurd hp hq
theorem Only.mk_dbk (h : Only ps fs s t) {x} (hp : .dbk ∈ ps) : Only ps fs s { t with dbk := x } :=
  h.upd rfl fun q hq => by cases q <;> first | rfl | exact absurd hp hq
theorem Only.mk_once (h : Only ps fs s t) {x} (hp : .once ∈ ps) : Only ps fs s { t with once := x } :=
  h.upd rfl fun q hq => by cases q <;> first | rfl | exact absurd hp hq
theorem Only.mk_md (h : Only ps fs s t) {x} (hp : .md ∈ ps) : Only ps fs s { t with md := x } :=
  h.upd rfl fun q hq => by cases q <;> first | rfl | exact absurd hp hq
theorem Only.mk_jr (h : Only ps fs s t) {x} (hp : .jr ∈ ps) : Only ps fs s { t with jr := x } :=
  h.upd rfl fun q hq => by cases q <;> first | rfl | exact absurd hp hq
theorem Only.mk_saved (h : Only ps fs s t) {x} (hp : .saved ∈ ps) : Only ps fs s { t with saved := x } :=
  h.upd rfl fun q hq => by cases q <;> first | rfl | exact absurd hp hq
theorem Only.mk_tpe (h : Only ps fs s t) {x} (hp : .tpe ∈ ps) : Only ps fs s { t with tpe := x } :=
  h.upd rfl fun q hq => by cases q <;> first | rfl | exact absurd hp hq
theorem Only.mk_dram (h : Only ps fs s t) {x} (hp : .dram ∈ ps) : Only ps fs s { t with dram := x } :=
  h.upd rfl fun q hq => by cases q <;> first | rfl | exact absurd hp hq
theorem Only.mk_fch (h : Only ps fs s t) {x} (hp : .fch ∈ ps) : Only ps fs s { t with fch := x } :=
  h.upd rfl fun q hq => by cases q <;> first | rfl | exact absurd hp hq
theorem Only.mk_stl (h : Only ps fs s t) {x} (hp : .stl ∈ ps) : Only ps fs s { t with stl := x } :=
  h.upd rfl fun q hq => by cases q <;> first | rfl | exact absurd hp hq
theorem Only.mk_nfc (h : Only ps fs s t) {x} (hp : .nfc ∈ ps) : Only ps fs s { t with nfc := x } :=
  h.upd rfl fun q hq => by cases q <;> first | rfl | exact absurd hp hq
theorem Only.mk_drc (h : Only ps fs s t) {x} (hp : .drc ∈ ps) : Only ps fs s { t with drc := x } :=
  h.upd rfl fun q hq => by cases q <;> first | rfl | exact absurd hp hq
theorem Only.mk_int (h : Only ps fs s t) {x} (hp : .int ∈ ps) : Only ps fs s { t with int := x } :=
  h.upd rfl fun q hq => by cases q <;> first | rfl | exact absurd hp hq
theorem Only.mk_prt (h : Only ps fs s t) {x} (hp : .prt ∈ ps) : Only ps fs s { t with prt := x } :=
  h.upd rfl fun q hq => by cases q <;> first | rfl | exact absurd hp hq
theorem Only.mk_cmd (h : Only ps fs s t) {x} (hp : .cmd ∈ ps) : Only ps fs s { t with cmd := x } :=
  h.upd rfl fun q hq => by cases q <;> first | rfl | exact absurd hp hq
theorem Only.mk_waits (h : Only ps fs s t) {x} (hp : .waits ∈ ps) : Only ps fs s { t with waits := x } :=
  h.upd rfl fun q hq => by cases q <;> first | rfl | exact absurd hp hq
theorem Only.mk_fences (h : Only ps fs s t) {x} (hp : .fences ∈ ps) : Only ps fs s { t with fences := x } :=
  h.upd rfl fun q hq => by cases q <;> first | rfl | exact absurd hp hq
theorem Only.mk_fgv (h : Only ps fs s t) {x} (hp : .fgv ∈ ps) : Only ps fs s { t with fgv := x } :=
  h.upd rfl fun q hq => by cases q <;> first | rfl | exact absurd hp hq
theorem Only.mk_drain (h : Only ps fs s t) {x} (hp : .drain ∈ ps) : Only ps fs s { t with drain := x } :=
  h.upd rfl fun q hq => by cases q <;> first | rfl | exact absurd hp hq
theorem Only.mk_mir (h : Only ps fs s t) {x} (hp : .mir ∈ ps) : Only ps fs s { t with mir := x } :=
  h.upd rfl fun q hq => by cases q <;> first | rfl | exact absurd hp hq
theorem Only.mk_rae (h : Only ps fs s t) {x} (hp : .rae ∈ ps) : Only ps fs s { t with rae := x } :=
  h.upd rfl fun q hq => by cases q <;> first | rfl | exact absurd hp hq
theorem Only.mk_sec (h : Only ps fs s t) {x} (hp : .sec ∈ ps) : Only ps fs s { t with sec := x } :=
  h.upd rfl fun q hq => by cases q <;> first | rfl | exact absurd hp hq
theorem Only.mk_pwr (h : Only ps fs s t) {x} (hp : .pwr ∈ ps) : Only ps fs s { t with pwr := x } :=
  h.upd rfl fun q hq => by cases q <;> first | rfl | exact absurd hp hq
theorem Only.mk_bst (h : Only ps fs s t) {x} (hp : .bst ∈ ps) : Only ps fs s { t with bst := x } :=
  h.upd rfl fun q hq => by cases q <;> first | rfl | exact absurd hp hq
theorem Only.mk_boot (h : Only ps fs s t) {x} (hp : .boot ∈ ps) : Only ps fs s { t with boot := x } :=
  h.upd rfl fun q hq => by cases q <;> first | rfl | exact absurd hp hq
theorem Only.mk_freeIdx (h : Only ps fs s t) {x} (hp : .freeIdx ∈ ps) : Only ps fs s { t with freeIdx := x } :=
  h.upd rfl fun q hq => by cases q <;> first | rfl | exact absurd hp hq
theorem Only.mk_out (h : Only ps fs s t) {x} (hp : .out ∈ ps) : Only ps fs s { t with out := x } :=
  h.upd rfl fun q hq => by cases q <;> first | rfl | exact absurd hp hq
theorem Only.mk_pending (h : Only ps fs s t) {x} (hp : .pending ∈ ps) : Only ps fs s { t with pending := x } :=
  h.upd rfl fun q hq => by cases q <;> first | rfl | exact absurd hp hq

theorem Only.glb_eq (h : Only ps fs s t) (hp : Part.glb ∉ ps) : t.glb = s.glb := h.parts .glb hp
theorem Only.dbk_eq (h : Only ps fs s t) (hp : Part.dbk ∉ ps) : t.dbk = s.dbk := h.parts .dbk hp
theorem Only.once_eq (h : Only ps fs s t) (hp : Part.once ∉ ps) : t.once = s.once := h.parts .once hp
theorem Only.md_eq (h : Only ps fs s t) (hp : Part.md ∉ ps) : t.md = s.md := h.parts .md hp
theorem Only.jr_eq (h : Only ps fs s t) (hp : Part.jr ∉ ps) : t.jr = s.jr := h.parts .jr hp
theorem Only.saved_eq (h : Only ps fs s t) (hp : Part.saved ∉ ps) : t.saved = s.saved := h.parts .saved hp
theorem Only.tpe_eq (h : Only ps fs s t) (hp : Part.tpe ∉ ps) : t.tpe = s.tpe := h.parts .tpe hp
theorem Only.dram_eq (h : Only ps fs s t) (hp : Part.dram ∉ ps) : t.dram = s.dram := h.parts .dram hp
theorem Only.fch_eq (h : Only ps fs s t) (hp : Part.fch ∉ ps) : t.fch = s.fch := h.parts .fch hp
theorem Only.stl_eq (h : Only ps fs s t) (hp : Part.stl ∉ ps) : t.stl = s.stl := h.parts .stl hp
theorem Only.nfc_eq (h : Only ps fs s t) (hp : Part.nfc ∉ ps) : t.nfc = s.nfc := h.parts .nfc hp
theorem Only.drc_eq (h : Only ps fs s t) (hp : Part.drc ∉ ps) : t.drc = s.drc := h.parts .drc hp
theorem Only.int_eq (h : Only ps fs s t) (hp : Part.int ∉ ps) : t.int = s.int := h.parts .int hp
theorem Only.prt_eq (h : Only ps fs s t) (hp : Part.prt ∉ ps) : t.prt = s.prt := h.parts .prt hp
theorem Only.cmd_eq (h : Only ps fs s t) (hp : Part.cmd ∉ ps) : t.cmd = s.cmd := h.parts .cmd hp
theorem Only.waits_eq (h : Only ps fs s t) (hp : Part.waits ∉ ps) : t.waits = s.waits := h.parts .waits hp
theorem Only.fences_eq (h : Only ps fs s t) (hp : Part.fences ∉ ps) : t.fences = s.fences := h.parts .fences hp
theorem Only.fgv_eq (h : Only ps fs s t) (hp : Part.fgv ∉ ps) : t.fgv = s.fgv := h.parts .fgv hp
theorem Only.drain_eq (h : Only ps fs s t) (hp : Part.drain ∉ ps) : t.drain = s.drain := h.parts .drain hp
theorem Only.mir_eq (h : Only ps fs s t) (hp : Part.mir ∉ ps) : t.mir = s.mir := h.parts .mir hp
theorem Only.rae_eq (h : Only ps fs s t) (hp : Part.rae ∉ ps) : t.rae = s.rae := h.parts .rae hp
theorem Only.sec_eq (h : Only ps fs s t) (hp : Part.sec ∉ ps) : t.sec = s.sec := h.parts .sec hp
theorem Only.pwr_eq (h : Only ps fs s t) (hp : Part.pwr ∉ ps) : t.pwr = s.pwr := h.parts .pwr hp
theorem Only.bst_eq (h : Only ps fs s t) (hp : Part.bst ∉ ps) : t.bst = s.bst := h.parts .bst hp
theorem Only.boot_eq (h : Only ps fs s t) (hp : Part.boot ∉ ps) : t.boot = s.boot := h.parts .boot hp
theorem Only.freeIdx_eq (h : Only ps fs s t) (hp : Part.freeIdx ∉ ps) : t.freeIdx = s.freeIdx := h.parts .freeIdx hp
theorem Only.out_eq (h : Only ps fs s t) (hp : Part.out ∉ ps) : t.out = s.out := h.parts .out hp
theorem Only.pending_eq (h : Only ps fs s t) (hp : Part.pending ∉ ps) : t.pending = s.pending := h.parts .pending hp
theorem Only.rd_eq (h : Only ps fs s t) {f : Fld} (hf : (f, 0) ∉ fs) : t.rd f = s.rd f := h.regs f 0 hf
theorem Only.fl_eq (h : Only ps fs s t) {f : Fld} (hf : (f, 0) ∉ fs) : t.fl f = s.fl f := by
  unfold State.fl; rw [h.rd_eq hf]
theorem Only.fli_eq (h : Only ps fs s t) {f : Fld} {i : Nat} (hf : (f, i) ∉ fs) : t.fli f i = s.fli f i := by
  unfold State.fli; rw [h.regs f i hf]

theorem Only.send (h : Only ps fs s t) {m : Msg} (hp : .out ∈ ps) : Only ps fs s (t.send m) := h.mk_out hp
theorem Only.freeNext (h : Only ps fs s t) (hp : .freeIdx ∈ ps) : Only ps fs s t.freeNext := h.mk_freeIdx hp

theorem Only.when (h : Only ps fs s t) {c : Bool} {f : State → State} (hf : Only ps fs s (f t)) : Only ps fs s (t.when c f) := by
  unfold State.when; split <;> assumption

theorem Only.ite (ha : Only ps fs s t) {c : Prop} [Decidable c] (hb : Only ps fs s u) : Only ps fs s (if c then t else u) := by
  split <;> assumption

theorem Only.each {α : Type} {l : List α} {f : State → α → State} (h : Only ps fs s t)
    (hf : ∀ t x, x ∈ l → Only ps fs s t → Only ps fs s (f t x)) : Only ps fs s (t.each l f) := by
  unfold State.each
  induction l generalizing t with
  | nil => exact h
  | cons a r ih => exact ih (hf t a (by simp) h) fun t x hx => hf t x (by simp [hx])

/-! ### Records, counters and alerts -/

theorem State.dbkTail_only (s : State) : Only [.dbk] dbkRegs s s.dbkTail := by
  unfold State.dbkTail
  split <;> exact ((Only.refl _ _ _).wr (by decide)).wr (by decide)

theorem State.dbkPlace_only {s t : State} {cls dom rule : Nat} {items : List (Nat × Nat)}
    (h : s.dbkPlace cls dom rule items = some t) : Only [.dbk] dbkRegs s t := by
  unfold State.dbkPlace at h
  extract_lets len hd seq at h
  split at h
  · cases h
  · cases h
    exact ((((Only.refl _ _ _).mk_dbk (by decide)).wr (by decide)).wr (by decide)).trans (State.dbkTail_only _)

theorem State.flushStart_only (s : State) : Only [.dbk] dbkRegs s s.flushStart := by
  unfold State.flushStart
  split
  · exact (Only.refl _ _ _).mk_dbk (by decide)
  · split
    · exact Only.refl _ _ _
    · exact ((Only.refl _ _ _).setf (by decide)).mk_dbk (by decide)

theorem State.dbkFlush_only (s : State) : Only [.dbk] dbkRegs s s.dbkFlush := by
  unfold State.dbkFlush
  split
  · exact Only.refl _ _ _
  · exact s.flushStart_only

theorem State.dbkDrop_only (s : State) : Only [.dbk] dbkRegs s s.dbkDrop := by
  unfold State.dbkDrop
  extract_lets n d t u
  have h : Only [.dbk] dbkRegs s u := by
    refine Only.setf (Only.mk_dbk (Only.refl _ _ _) ?_) ?_ <;> decide
  split
  · exact (h.wr (by decide)).when ((h.wr (by decide)).setBitOf (by decide))
  · exact h

/-- A record changes the Daybook alone. -/
theorem State.record_only (s : State) (cls dom rule : Nat) (items : List (Nat × Nat)) :
    Only [.dbk] dbkRegs s (s.record cls dom rule items) := by
  unfold State.record
  extract_lets s1
  have h1 : ∀ u, s1 = some u → Only [.dbk] dbkRegs s u := by
    intro u hu
    subst s1
    split at hu
    · cases hu; exact Only.refl _ _ _
    · rw [Option.map_eq_some_iff] at hu
      obtain ⟨v, hv, rfl⟩ := hu
      exact (State.dbkPlace_only hv).mk_dbk (by decide)
  split
  · rename_i t e
    obtain ⟨u, hu, hv⟩ := Option.bind_eq_some_iff.1 e
    have h2 := (h1 u hu).trans (State.dbkPlace_only hv)
    exact h2.when (h2.trans (State.dbkFlush_only _))
  · exact s.dbkDrop_only

/-- A record raised once per tick is remembered beside the Daybook. -/
theorem State.recordOnce_only (s : State) (key cls dom rule : Nat) (items : List (Nat × Nat)) :
    Only [.dbk, .once] dbkRegs s (s.recordOnce key cls dom rule items) := by
  unfold State.recordOnce
  split
  · exact Only.refl _ _ _
  · exact ((Only.refl _ _ _).mk_once (by decide)).step (State.record_only _ _ _ _ _) (by decide) (by decide)

/-- A counter changes itself and its overflow bit, and raises a record when it reaches its maximum. -/
theorem State.count_only (s : State) (f : Fld) (i : Nat) (ovf : Fld) (oi b : Nat) :
    Only [.dbk] ((f, i) :: (ovf, oi) :: dbkRegs) s (s.count f i ovf oi b) := by
  unfold State.count
  extract_lets top v t a
  have h : Only [.dbk] ((f, i) :: (ovf, oi) :: dbkRegs) s t := (Only.refl _ _ _).wri (by simp)
  split
  · split
    · exact (h.setBitOf (by simp)).step (State.record_only _ _ _ _ _) (by simp) (fun x hx => by simp [hx])
    · exact h
  · exact Only.refl _ _ _

theorem State.intSend_only (s : State) : Only [.glb, .out] alertRegs s s.intSend := by
  unfold State.intSend
  extract_lets l j t u
  have h : Only [.glb, .out] alertRegs s u := (Only.refl _ _ _).mk_glb (by decide)
  clear_value u
  split
  · exact h.send (by decide)
  · exact h.setf (by decide)

theorem State.intBit_only (s : State) (b : Nat) (w : Bool) : Only [.glb, .out] alertRegs s (s.intBit b w) := by
  unfold State.intBit
  split
  · exact Only.refl _ _ _
  · split
    · exact (Only.refl _ _ _).mk_glb (by decide)
    · exact s.intSend_only

/-- An alert changes the alert registers, and may send the management interrupt. -/
theorem State.alert_only (s : State) (b : Nat) : Only [.glb, .out] alertRegs s (s.alert b) := by
  unfold State.alert
  extract_lets was
  exact (((Only.refl _ _ _).setBitOf (by decide)).setf (by decide)).trans (State.intBit_only _ _ _)

theorem State.alertFatal_only (s : State) : Only [.glb, .out] ((.ALERT_FATAL, 0) :: alertRegs) s s.alertFatal := by
  unfold State.alertFatal
  extract_lets was
  exact (((Only.refl _ _ _).setf (by decide)).setf (by decide)).step (State.intBit_only _ _ _) (by decide) (by decide)

theorem Only.record (h : Only ps fs s t) {cls dom rule : Nat} {items : List (Nat × Nat)} (hp : .dbk ∈ ps)
    (hf : dbkRegs ⊆ fs) : Only ps fs s (t.record cls dom rule items) :=
  h.step (State.record_only _ _ _ _ _) (by simpa using hp) hf

theorem Only.recordOnce (h : Only ps fs s t) {key cls dom rule : Nat} {items : List (Nat × Nat)} (hp : .dbk ∈ ps)
    (ho : .once ∈ ps) (hf : dbkRegs ⊆ fs) : Only ps fs s (t.recordOnce key cls dom rule items) :=
  h.step (State.recordOnce_only _ _ _ _ _ _) (by simp [hp, ho]) hf

theorem Only.count (h : Only ps fs s t) {f ovf : Fld} {i oi b : Nat} (hp : .dbk ∈ ps) (hm : (f, i) ∈ fs)
    (ho : (ovf, oi) ∈ fs) (hf : dbkRegs ⊆ fs) : Only ps fs s (t.count f i ovf oi b) :=
  h.step (State.count_only _ _ _ _ _ _) (by simpa using hp) (by
    intro x hx
    rcases List.mem_cons.1 hx with rfl | hx
    · exact hm
    · rcases List.mem_cons.1 hx with rfl | hx
      · exact ho
      · exact hf hx)

theorem Only.alert (h : Only ps fs s t) {b : Nat} (hg : .glb ∈ ps) (ho : .out ∈ ps) (hf : alertRegs ⊆ fs) :
    Only ps fs s (t.alert b) := h.step (State.alert_only _ _) (by simp [hg, ho]) hf

end Sys2Proof.Machine
end

