-- ==== Sys2Proof/Laws/State.lean ====
section
/-! SUPPORT. One lemma per field of the state per elementary update: what the update leaves alone, and what it makes of
the field it changes. -/

namespace Sys2Proof.Machine

/-! ### wri -/

theorem State.wri_regs (s : State) (f : Fld) (i v : Nat) : (s.wri f i v).regs = regsPut s.regs f i v := rfl
@[simp] theorem State.wri_glb (s : State) (f : Fld) (i v : Nat) : (s.wri f i v).glb = s.glb := rfl
@[simp] theorem State.wri_dbk (s : State) (f : Fld) (i v : Nat) : (s.wri f i v).dbk = s.dbk := rfl
@[simp] theorem State.wri_once (s : State) (f : Fld) (i v : Nat) : (s.wri f i v).once = s.once := rfl
@[simp] theorem State.wri_md (s : State) (f : Fld) (i v : Nat) : (s.wri f i v).md = s.md := rfl
@[simp] theorem State.wri_jr (s : State) (f : Fld) (i v : Nat) : (s.wri f i v).jr = s.jr := rfl
@[simp] theorem State.wri_saved (s : State) (f : Fld) (i v : Nat) : (s.wri f i v).saved = s.saved := rfl
@[simp] theorem State.wri_tpe (s : State) (f : Fld) (i v : Nat) : (s.wri f i v).tpe = s.tpe := rfl
@[simp] theorem State.wri_dram (s : State) (f : Fld) (i v : Nat) : (s.wri f i v).dram = s.dram := rfl
@[simp] theorem State.wri_fch (s : State) (f : Fld) (i v : Nat) : (s.wri f i v).fch = s.fch := rfl
@[simp] theorem State.wri_stl (s : State) (f : Fld) (i v : Nat) : (s.wri f i v).stl = s.stl := rfl
@[simp] theorem State.wri_nfc (s : State) (f : Fld) (i v : Nat) : (s.wri f i v).nfc = s.nfc := rfl
@[simp] theorem State.wri_drc (s : State) (f : Fld) (i v : Nat) : (s.wri f i v).drc = s.drc := rfl
@[simp] theorem State.wri_int (s : State) (f : Fld) (i v : Nat) : (s.wri f i v).int = s.int := rfl
@[simp] theorem State.wri_prt (s : State) (f : Fld) (i v : Nat) : (s.wri f i v).prt = s.prt := rfl
@[simp] theorem State.wri_cmd (s : State) (f : Fld) (i v : Nat) : (s.wri f i v).cmd = s.cmd := rfl
@[simp] theorem State.wri_waits (s : State) (f : Fld) (i v : Nat) : (s.wri f i v).waits = s.waits := rfl
@[simp] theorem State.wri_fences (s : State) (f : Fld) (i v : Nat) : (s.wri f i v).fences = s.fences := rfl
@[simp] theorem State.wri_fgv (s : State) (f : Fld) (i v : Nat) : (s.wri f i v).fgv = s.fgv := rfl
@[simp] theorem State.wri_drain (s : State) (f : Fld) (i v : Nat) : (s.wri f i v).drain = s.drain := rfl
@[simp] theorem State.wri_mir (s : State) (f : Fld) (i v : Nat) : (s.wri f i v).mir = s.mir := rfl
@[simp] theorem State.wri_rae (s : State) (f : Fld) (i v : Nat) : (s.wri f i v).rae = s.rae := rfl
@[simp] theorem State.wri_sec (s : State) (f : Fld) (i v : Nat) : (s.wri f i v).sec = s.sec := rfl
@[simp] theorem State.wri_pwr (s : State) (f : Fld) (i v : Nat) : (s.wri f i v).pwr = s.pwr := rfl
@[simp] theorem State.wri_bst (s : State) (f : Fld) (i v : Nat) : (s.wri f i v).bst = s.bst := rfl
@[simp] theorem State.wri_boot (s : State) (f : Fld) (i v : Nat) : (s.wri f i v).boot = s.boot := rfl
@[simp] theorem State.wri_freeIdx (s : State) (f : Fld) (i v : Nat) : (s.wri f i v).freeIdx = s.freeIdx := rfl
@[simp] theorem State.wri_out (s : State) (f : Fld) (i v : Nat) : (s.wri f i v).out = s.out := rfl
@[simp] theorem State.wri_pending (s : State) (f : Fld) (i v : Nat) : (s.wri f i v).pending = s.pending := rfl

/-! ### wr -/

@[simp] theorem State.wr_glb (s : State) (f : Fld) (v : Nat) : (s.wr f v).glb = s.glb := rfl
@[simp] theorem State.wr_dbk (s : State) (f : Fld) (v : Nat) : (s.wr f v).dbk = s.dbk := rfl
@[simp] theorem State.wr_once (s : State) (f : Fld) (v : Nat) : (s.wr f v).once = s.once := rfl
@[simp] theorem State.wr_md (s : State) (f : Fld) (v : Nat) : (s.wr f v).md = s.md := rfl
@[simp] theorem State.wr_jr (s : State) (f : Fld) (v : Nat) : (s.wr f v).jr = s.jr := rfl
@[simp] theorem State.wr_saved (s : State) (f : Fld) (v : Nat) : (s.wr f v).saved = s.saved := rfl
@[simp] theorem State.wr_tpe (s : State) (f : Fld) (v : Nat) : (s.wr f v).tpe = s.tpe := rfl
@[simp] theorem State.wr_dram (s : State) (f : Fld) (v : Nat) : (s.wr f v).dram = s.dram := rfl
@[simp] theorem State.wr_fch (s : State) (f : Fld) (v : Nat) : (s.wr f v).fch = s.fch := rfl
@[simp] theorem State.wr_stl (s : State) (f : Fld) (v : Nat) : (s.wr f v).stl = s.stl := rfl
@[simp] theorem State.wr_nfc (s : State) (f : Fld) (v : Nat) : (s.wr f v).nfc = s.nfc := rfl
@[simp] theorem State.wr_drc (s : State) (f : Fld) (v : Nat) : (s.wr f v).drc = s.drc := rfl
@[simp] theorem State.wr_int (s : State) (f : Fld) (v : Nat) : (s.wr f v).int = s.int := rfl
@[simp] theorem State.wr_prt (s : State) (f : Fld) (v : Nat) : (s.wr f v).prt = s.prt := rfl
@[simp] theorem State.wr_cmd (s : State) (f : Fld) (v : Nat) : (s.wr f v).cmd = s.cmd := rfl
@[simp] theorem State.wr_waits (s : State) (f : Fld) (v : Nat) : (s.wr f v).waits = s.waits := rfl
@[simp] theorem State.wr_fences (s : State) (f : Fld) (v : Nat) : (s.wr f v).fences = s.fences := rfl
@[simp] theorem State.wr_fgv (s : State) (f : Fld) (v : Nat) : (s.wr f v).fgv = s.fgv := rfl
@[simp] theorem State.wr_drain (s : State) (f : Fld) (v : Nat) : (s.wr f v).drain = s.drain := rfl
@[simp] theorem State.wr_mir (s : State) (f : Fld) (v : Nat) : (s.wr f v).mir = s.mir := rfl
@[simp] theorem State.wr_rae (s : State) (f : Fld) (v : Nat) : (s.wr f v).rae = s.rae := rfl
@[simp] theorem State.wr_sec (s : State) (f : Fld) (v : Nat) : (s.wr f v).sec = s.sec := rfl
@[simp] theorem State.wr_pwr (s : State) (f : Fld) (v : Nat) : (s.wr f v).pwr = s.pwr := rfl
@[simp] theorem State.wr_bst (s : State) (f : Fld) (v : Nat) : (s.wr f v).bst = s.bst := rfl
@[simp] theorem State.wr_boot (s : State) (f : Fld) (v : Nat) : (s.wr f v).boot = s.boot := rfl
@[simp] theorem State.wr_freeIdx (s : State) (f : Fld) (v : Nat) : (s.wr f v).freeIdx = s.freeIdx := rfl
@[simp] theorem State.wr_out (s : State) (f : Fld) (v : Nat) : (s.wr f v).out = s.out := rfl
@[simp] theorem State.wr_pending (s : State) (f : Fld) (v : Nat) : (s.wr f v).pending = s.pending := rfl

/-! ### setf -/

@[simp] theorem State.setf_glb (s : State) (f : Fld) (b : Bool) : (s.setf f b).glb = s.glb := rfl
@[simp] theorem State.setf_dbk (s : State) (f : Fld) (b : Bool) : (s.setf f b).dbk = s.dbk := rfl
@[simp] theorem State.setf_once (s : State) (f : Fld) (b : Bool) : (s.setf f b).once = s.once := rfl
@[simp] theorem State.setf_md (s : State) (f : Fld) (b : Bool) : (s.setf f b).md = s.md := rfl
@[simp] theorem State.setf_jr (s : State) (f : Fld) (b : Bool) : (s.setf f b).jr = s.jr := rfl
@[simp] theorem State.setf_saved (s : State) (f : Fld) (b : Bool) : (s.setf f b).saved = s.saved := rfl
@[simp] theorem State.setf_tpe (s : State) (f : Fld) (b : Bool) : (s.setf f b).tpe = s.tpe := rfl
@[simp] theorem State.setf_dram (s : State) (f : Fld) (b : Bool) : (s.setf f b).dram = s.dram := rfl
@[simp] theorem State.setf_fch (s : State) (f : Fld) (b : Bool) : (s.setf f b).fch = s.fch := rfl
@[simp] theorem State.setf_stl (s : State) (f : Fld) (b : Bool) : (s.setf f b).stl = s.stl := rfl
@[simp] theorem State.setf_nfc (s : State) (f : Fld) (b : Bool) : (s.setf f b).nfc = s.nfc := rfl
@[simp] theorem State.setf_drc (s : State) (f : Fld) (b : Bool) : (s.setf f b).drc = s.drc := rfl
@[simp] theorem State.setf_int (s : State) (f : Fld) (b : Bool) : (s.setf f b).int = s.int := rfl
@[simp] theorem State.setf_prt (s : State) (f : Fld) (b : Bool) : (s.setf f b).prt = s.prt := rfl
@[simp] theorem State.setf_cmd (s : State) (f : Fld) (b : Bool) : (s.setf f b).cmd = s.cmd := rfl
@[simp] theorem State.setf_waits (s : State) (f : Fld) (b : Bool) : (s.setf f b).waits = s.waits := rfl
@[simp] theorem State.setf_fences (s : State) (f : Fld) (b : Bool) : (s.setf f b).fences = s.fences := rfl
@[simp] theorem State.setf_fgv (s : State) (f : Fld) (b : Bool) : (s.setf f b).fgv = s.fgv := rfl
@[simp] theorem State.setf_drain (s : State) (f : Fld) (b : Bool) : (s.setf f b).drain = s.drain := rfl
@[simp] theorem State.setf_mir (s : State) (f : Fld) (b : Bool) : (s.setf f b).mir = s.mir := rfl
@[simp] theorem State.setf_rae (s : State) (f : Fld) (b : Bool) : (s.setf f b).rae = s.rae := rfl
@[simp] theorem State.setf_sec (s : State) (f : Fld) (b : Bool) : (s.setf f b).sec = s.sec := rfl
@[simp] theorem State.setf_pwr (s : State) (f : Fld) (b : Bool) : (s.setf f b).pwr = s.pwr := rfl
@[simp] theorem State.setf_bst (s : State) (f : Fld) (b : Bool) : (s.setf f b).bst = s.bst := rfl
@[simp] theorem State.setf_boot (s : State) (f : Fld) (b : Bool) : (s.setf f b).boot = s.boot := rfl
@[simp] theorem State.setf_freeIdx (s : State) (f : Fld) (b : Bool) : (s.setf f b).freeIdx = s.freeIdx := rfl
@[simp] theorem State.setf_out (s : State) (f : Fld) (b : Bool) : (s.setf f b).out = s.out := rfl
@[simp] theorem State.setf_pending (s : State) (f : Fld) (b : Bool) : (s.setf f b).pending = s.pending := rfl

/-! ### setfi -/

@[simp] theorem State.setfi_glb (s : State) (f : Fld) (i : Nat) (b : Bool) : (s.setfi f i b).glb = s.glb := rfl
@[simp] theorem State.setfi_dbk (s : State) (f : Fld) (i : Nat) (b : Bool) : (s.setfi f i b).dbk = s.dbk := rfl
@[simp] theorem State.setfi_once (s : State) (f : Fld) (i : Nat) (b : Bool) : (s.setfi f i b).once = s.once := rfl
@[simp] theorem State.setfi_md (s : State) (f : Fld) (i : Nat) (b : Bool) : (s.setfi f i b).md = s.md := rfl
@[simp] theorem State.setfi_jr (s : State) (f : Fld) (i : Nat) (b : Bool) : (s.setfi f i b).jr = s.jr := rfl
@[simp] theorem State.setfi_saved (s : State) (f : Fld) (i : Nat) (b : Bool) : (s.setfi f i b).saved = s.saved := rfl
@[simp] theorem State.setfi_tpe (s : State) (f : Fld) (i : Nat) (b : Bool) : (s.setfi f i b).tpe = s.tpe := rfl
@[simp] theorem State.setfi_dram (s : State) (f : Fld) (i : Nat) (b : Bool) : (s.setfi f i b).dram = s.dram := rfl
@[simp] theorem State.setfi_fch (s : State) (f : Fld) (i : Nat) (b : Bool) : (s.setfi f i b).fch = s.fch := rfl
@[simp] theorem State.setfi_stl (s : State) (f : Fld) (i : Nat) (b : Bool) : (s.setfi f i b).stl = s.stl := rfl
@[simp] theorem State.setfi_nfc (s : State) (f : Fld) (i : Nat) (b : Bool) : (s.setfi f i b).nfc = s.nfc := rfl
@[simp] theorem State.setfi_drc (s : State) (f : Fld) (i : Nat) (b : Bool) : (s.setfi f i b).drc = s.drc := rfl
@[simp] theorem State.setfi_int (s : State) (f : Fld) (i : Nat) (b : Bool) : (s.setfi f i b).int = s.int := rfl
@[simp] theorem State.setfi_prt (s : State) (f : Fld) (i : Nat) (b : Bool) : (s.setfi f i b).prt = s.prt := rfl
@[simp] theorem State.setfi_cmd (s : State) (f : Fld) (i : Nat) (b : Bool) : (s.setfi f i b).cmd = s.cmd := rfl
@[simp] theorem State.setfi_waits (s : State) (f : Fld) (i : Nat) (b : Bool) : (s.setfi f i b).waits = s.waits := rfl
@[simp] theorem State.setfi_fences (s : State) (f : Fld) (i : Nat) (b : Bool) : (s.setfi f i b).fences = s.fences := rfl
@[simp] theorem State.setfi_fgv (s : State) (f : Fld) (i : Nat) (b : Bool) : (s.setfi f i b).fgv = s.fgv := rfl
@[simp] theorem State.setfi_drain (s : State) (f : Fld) (i : Nat) (b : Bool) : (s.setfi f i b).drain = s.drain := rfl
@[simp] theorem State.setfi_mir (s : State) (f : Fld) (i : Nat) (b : Bool) : (s.setfi f i b).mir = s.mir := rfl
@[simp] theorem State.setfi_rae (s : State) (f : Fld) (i : Nat) (b : Bool) : (s.setfi f i b).rae = s.rae := rfl
@[simp] theorem State.setfi_sec (s : State) (f : Fld) (i : Nat) (b : Bool) : (s.setfi f i b).sec = s.sec := rfl
@[simp] theorem State.setfi_pwr (s : State) (f : Fld) (i : Nat) (b : Bool) : (s.setfi f i b).pwr = s.pwr := rfl
@[simp] theorem State.setfi_bst (s : State) (f : Fld) (i : Nat) (b : Bool) : (s.setfi f i b).bst = s.bst := rfl
@[simp] theorem State.setfi_boot (s : State) (f : Fld) (i : Nat) (b : Bool) : (s.setfi f i b).boot = s.boot := rfl
@[simp] theorem State.setfi_freeIdx (s : State) (f : Fld) (i : Nat) (b : Bool) : (s.setfi f i b).freeIdx = s.freeIdx := rfl
@[simp] theorem State.setfi_out (s : State) (f : Fld) (i : Nat) (b : Bool) : (s.setfi f i b).out = s.out := rfl
@[simp] theorem State.setfi_pending (s : State) (f : Fld) (i : Nat) (b : Bool) : (s.setfi f i b).pending = s.pending := rfl

/-! ### setBitOf -/

@[simp] theorem State.setBitOf_glb (s : State) (f : Fld) (i b : Nat) (v : Bool) : (s.setBitOf f i b v).glb = s.glb := rfl
@[simp] theorem State.setBitOf_dbk (s : State) (f : Fld) (i b : Nat) (v : Bool) : (s.setBitOf f i b v).dbk = s.dbk := rfl
@[simp] theorem State.setBitOf_once (s : State) (f : Fld) (i b : Nat) (v : Bool) : (s.setBitOf f i b v).once = s.once := rfl
@[simp] theorem State.setBitOf_md (s : State) (f : Fld) (i b : Nat) (v : Bool) : (s.setBitOf f i b v).md = s.md := rfl
@[simp] theorem State.setBitOf_jr (s : State) (f : Fld) (i b : Nat) (v : Bool) : (s.setBitOf f i b v).jr = s.jr := rfl
@[simp] theorem State.setBitOf_saved (s : State) (f : Fld) (i b : Nat) (v : Bool) : (s.setBitOf f i b v).saved = s.saved := rfl
@[simp] theorem State.setBitOf_tpe (s : State) (f : Fld) (i b : Nat) (v : Bool) : (s.setBitOf f i b v).tpe = s.tpe := rfl
@[simp] theorem State.setBitOf_dram (s : State) (f : Fld) (i b : Nat) (v : Bool) : (s.setBitOf f i b v).dram = s.dram := rfl
@[simp] theorem State.setBitOf_fch (s : State) (f : Fld) (i b : Nat) (v : Bool) : (s.setBitOf f i b v).fch = s.fch := rfl
@[simp] theorem State.setBitOf_stl (s : State) (f : Fld) (i b : Nat) (v : Bool) : (s.setBitOf f i b v).stl = s.stl := rfl
@[simp] theorem State.setBitOf_nfc (s : State) (f : Fld) (i b : Nat) (v : Bool) : (s.setBitOf f i b v).nfc = s.nfc := rfl
@[simp] theorem State.setBitOf_drc (s : State) (f : Fld) (i b : Nat) (v : Bool) : (s.setBitOf f i b v).drc = s.drc := rfl
@[simp] theorem State.setBitOf_int (s : State) (f : Fld) (i b : Nat) (v : Bool) : (s.setBitOf f i b v).int = s.int := rfl
@[simp] theorem State.setBitOf_prt (s : State) (f : Fld) (i b : Nat) (v : Bool) : (s.setBitOf f i b v).prt = s.prt := rfl
@[simp] theorem State.setBitOf_cmd (s : State) (f : Fld) (i b : Nat) (v : Bool) : (s.setBitOf f i b v).cmd = s.cmd := rfl
@[simp] theorem State.setBitOf_waits (s : State) (f : Fld) (i b : Nat) (v : Bool) : (s.setBitOf f i b v).waits = s.waits := rfl
@[simp] theorem State.setBitOf_fences (s : State) (f : Fld) (i b : Nat) (v : Bool) : (s.setBitOf f i b v).fences = s.fences := rfl
@[simp] theorem State.setBitOf_fgv (s : State) (f : Fld) (i b : Nat) (v : Bool) : (s.setBitOf f i b v).fgv = s.fgv := rfl
@[simp] theorem State.setBitOf_drain (s : State) (f : Fld) (i b : Nat) (v : Bool) : (s.setBitOf f i b v).drain = s.drain := rfl
@[simp] theorem State.setBitOf_mir (s : State) (f : Fld) (i b : Nat) (v : Bool) : (s.setBitOf f i b v).mir = s.mir := rfl
@[simp] theorem State.setBitOf_rae (s : State) (f : Fld) (i b : Nat) (v : Bool) : (s.setBitOf f i b v).rae = s.rae := rfl
@[simp] theorem State.setBitOf_sec (s : State) (f : Fld) (i b : Nat) (v : Bool) : (s.setBitOf f i b v).sec = s.sec := rfl
@[simp] theorem State.setBitOf_pwr (s : State) (f : Fld) (i b : Nat) (v : Bool) : (s.setBitOf f i b v).pwr = s.pwr := rfl
@[simp] theorem State.setBitOf_bst (s : State) (f : Fld) (i b : Nat) (v : Bool) : (s.setBitOf f i b v).bst = s.bst := rfl
@[simp] theorem State.setBitOf_boot (s : State) (f : Fld) (i b : Nat) (v : Bool) : (s.setBitOf f i b v).boot = s.boot := rfl
@[simp] theorem State.setBitOf_freeIdx (s : State) (f : Fld) (i b : Nat) (v : Bool) : (s.setBitOf f i b v).freeIdx = s.freeIdx := rfl
@[simp] theorem State.setBitOf_out (s : State) (f : Fld) (i b : Nat) (v : Bool) : (s.setBitOf f i b v).out = s.out := rfl
@[simp] theorem State.setBitOf_pending (s : State) (f : Fld) (i b : Nat) (v : Bool) : (s.setBitOf f i b v).pending = s.pending := rfl

/-! ### send -/

@[simp] theorem State.send_regs (s : State) (m : Msg) : (s.send m).regs = s.regs := rfl
@[simp] theorem State.send_glb (s : State) (m : Msg) : (s.send m).glb = s.glb := rfl
@[simp] theorem State.send_dbk (s : State) (m : Msg) : (s.send m).dbk = s.dbk := rfl
@[simp] theorem State.send_once (s : State) (m : Msg) : (s.send m).once = s.once := rfl
@[simp] theorem State.send_md (s : State) (m : Msg) : (s.send m).md = s.md := rfl
@[simp] theorem State.send_jr (s : State) (m : Msg) : (s.send m).jr = s.jr := rfl
@[simp] theorem State.send_saved (s : State) (m : Msg) : (s.send m).saved = s.saved := rfl
@[simp] theorem State.send_tpe (s : State) (m : Msg) : (s.send m).tpe = s.tpe := rfl
@[simp] theorem State.send_dram (s : State) (m : Msg) : (s.send m).dram = s.dram := rfl
@[simp] theorem State.send_fch (s : State) (m : Msg) : (s.send m).fch = s.fch := rfl
@[simp] theorem State.send_stl (s : State) (m : Msg) : (s.send m).stl = s.stl := rfl
@[simp] theorem State.send_nfc (s : State) (m : Msg) : (s.send m).nfc = s.nfc := rfl
@[simp] theorem State.send_drc (s : State) (m : Msg) : (s.send m).drc = s.drc := rfl
@[simp] theorem State.send_int (s : State) (m : Msg) : (s.send m).int = s.int := rfl
@[simp] theorem State.send_prt (s : State) (m : Msg) : (s.send m).prt = s.prt := rfl
@[simp] theorem State.send_cmd (s : State) (m : Msg) : (s.send m).cmd = s.cmd := rfl
@[simp] theorem State.send_waits (s : State) (m : Msg) : (s.send m).waits = s.waits := rfl
@[simp] theorem State.send_fences (s : State) (m : Msg) : (s.send m).fences = s.fences := rfl
@[simp] theorem State.send_fgv (s : State) (m : Msg) : (s.send m).fgv = s.fgv := rfl
@[simp] theorem State.send_drain (s : State) (m : Msg) : (s.send m).drain = s.drain := rfl
@[simp] theorem State.send_mir (s : State) (m : Msg) : (s.send m).mir = s.mir := rfl
@[simp] theorem State.send_rae (s : State) (m : Msg) : (s.send m).rae = s.rae := rfl
@[simp] theorem State.send_sec (s : State) (m : Msg) : (s.send m).sec = s.sec := rfl
@[simp] theorem State.send_pwr (s : State) (m : Msg) : (s.send m).pwr = s.pwr := rfl
@[simp] theorem State.send_bst (s : State) (m : Msg) : (s.send m).bst = s.bst := rfl
@[simp] theorem State.send_boot (s : State) (m : Msg) : (s.send m).boot = s.boot := rfl
@[simp] theorem State.send_freeIdx (s : State) (m : Msg) : (s.send m).freeIdx = s.freeIdx := rfl
@[simp] theorem State.send_out (s : State) (m : Msg) : (s.send m).out = s.out ++ [m] := rfl
@[simp] theorem State.send_pending (s : State) (m : Msg) : (s.send m).pending = s.pending := rfl
@[simp] theorem State.send_rdi (s : State) (m : Msg) (g : Fld) (k : Nat) : (s.send m).rdi g k = s.rdi g k := rfl
@[simp] theorem State.send_fli (s : State) (m : Msg) (g : Fld) (k : Nat) : (s.send m).fli g k = s.fli g k := rfl

/-! ### freeNext -/

@[simp] theorem State.freeNext_regs (s : State) : s.freeNext.regs = s.regs := rfl
@[simp] theorem State.freeNext_glb (s : State) : s.freeNext.glb = s.glb := rfl
@[simp] theorem State.freeNext_dbk (s : State) : s.freeNext.dbk = s.dbk := rfl
@[simp] theorem State.freeNext_once (s : State) : s.freeNext.once = s.once := rfl
@[simp] theorem State.freeNext_md (s : State) : s.freeNext.md = s.md := rfl
@[simp] theorem State.freeNext_jr (s : State) : s.freeNext.jr = s.jr := rfl
@[simp] theorem State.freeNext_saved (s : State) : s.freeNext.saved = s.saved := rfl
@[simp] theorem State.freeNext_tpe (s : State) : s.freeNext.tpe = s.tpe := rfl
@[simp] theorem State.freeNext_dram (s : State) : s.freeNext.dram = s.dram := rfl
@[simp] theorem State.freeNext_fch (s : State) : s.freeNext.fch = s.fch := rfl
@[simp] theorem State.freeNext_stl (s : State) : s.freeNext.stl = s.stl := rfl
@[simp] theorem State.freeNext_nfc (s : State) : s.freeNext.nfc = s.nfc := rfl
@[simp] theorem State.freeNext_drc (s : State) : s.freeNext.drc = s.drc := rfl
@[simp] theorem State.freeNext_int (s : State) : s.freeNext.int = s.int := rfl
@[simp] theorem State.freeNext_prt (s : State) : s.freeNext.prt = s.prt := rfl
@[simp] theorem State.freeNext_cmd (s : State) : s.freeNext.cmd = s.cmd := rfl
@[simp] theorem State.freeNext_waits (s : State) : s.freeNext.waits = s.waits := rfl
@[simp] theorem State.freeNext_fences (s : State) : s.freeNext.fences = s.fences := rfl
@[simp] theorem State.freeNext_fgv (s : State) : s.freeNext.fgv = s.fgv := rfl
@[simp] theorem State.freeNext_drain (s : State) : s.freeNext.drain = s.drain := rfl
@[simp] theorem State.freeNext_mir (s : State) : s.freeNext.mir = s.mir := rfl
@[simp] theorem State.freeNext_rae (s : State) : s.freeNext.rae = s.rae := rfl
@[simp] theorem State.freeNext_sec (s : State) : s.freeNext.sec = s.sec := rfl
@[simp] theorem State.freeNext_pwr (s : State) : s.freeNext.pwr = s.pwr := rfl
@[simp] theorem State.freeNext_bst (s : State) : s.freeNext.bst = s.bst := rfl
@[simp] theorem State.freeNext_boot (s : State) : s.freeNext.boot = s.boot := rfl
@[simp] theorem State.freeNext_freeIdx (s : State) : s.freeNext.freeIdx = s.freeIdx + 1 := rfl
@[simp] theorem State.freeNext_out (s : State) : s.freeNext.out = s.out := rfl
@[simp] theorem State.freeNext_pending (s : State) : s.freeNext.pending = s.pending := rfl
@[simp] theorem State.freeNext_rdi (s : State) (g : Fld) (k : Nat) : s.freeNext.rdi g k = s.rdi g k := rfl
@[simp] theorem State.freeNext_fli (s : State) (g : Fld) (k : Nat) : s.freeNext.fli g k = s.fli g k := rfl

end Sys2Proof.Machine
end

