-- ==== Sys2Proof/Laws/Blocks.lean ====
section
/-! SUPPORT. What the shared operations do, said once: reading a register through a write, the precise frames of the
small operations of the blocks, and what ending a command, completing a store, accepting a fence and ending a snoop
leave. -/

namespace Sys2Proof.Machine

@[simp] theorem State.wr_eq_wri (s : State) (f : Fld) (v : Nat) : s.wr f v = s.wri f 0 v := rfl

theorem mwf_wri {s : State} (h : mwf s.regs = true) (f : Fld) (i v : Nat) : mwf (s.wri f i v).regs = true := by
  simp only [State.wri, regsPut]; split
  · exact mwf_mdel _ h
  · exact mwf_mput _ _ h

/-- Reading a field through one write. -/
theorem rdi_wri' {s : State} (h : mwf s.regs = true) (f g : Fld) (i j v : Nat) :
    (s.wri f i v).rdi g j = if f = g ∧ i = j then f.store i v else s.rdi g j := by
  split
  · rename_i h'; obtain ⟨rfl, rfl⟩ := h'; exact State.rdi_wri _ _ _ h
  · rename_i h'; exact State.rdi_wri_ne _ (by tauto)

theorem flag_set {s : State} (h : mwf s.regs = true) (f : Fld) (i : Nat) (b : Bool) (hf : ∀ v, v < 2 → f.store i v = v) :
    (s.setfi f i b).fli f i = b := by
  unfold State.fli State.setfi
  rw [State.rdi_wri _ _ _ h, hf _ (by cases b <;> decide)]
  cases b <;> rfl

theorem setRdy_facts {s : State} (hm : mwf s.regs = true) {p : Nat} (hp : p < 4) (v : Bool) :
    Only [.prt, .out] [(.MEM_ACTIVE, 2 * p), (.MEM_ACTIVE, 2 * p + 1)] s (s.setRdy p v) ∧ mwf (s.setRdy p v).regs = true ∧
    (s.setRdy p v).prt = { s.prt with rdy := setBit s.prt.rdy p v } ∧ (s.setRdy p v).fli .MEM_ACTIVE (2 * p) = v ∧
    (s.setRdy p v).fli .MEM_ACTIVE (2 * p + 1) = v := by
  unfold State.setRdy
  extract_lets u0 u
  have hu : Only [.prt, .out] [] s u := by subst u; refine Only.when ?_ ?_ <;> repeat' first | (with_reducible first | assumption | exact Only.refl _ _ _ | apply Only.wri | apply Only.wr | apply Only.setf | apply Only.setfi | apply Only.send | apply Only.when | apply Only.mk_out | apply Only.mk_prt | apply Only.each) | decide | (simp; done) | intro _ _ _ _
  have hur : u.regs = s.regs := by subst u; unfold State.when; split <;> rfl
  have hup : u.prt = { s.prt with rdy := setBit s.prt.rdy p v } := by subst u; unfold State.when; split <;> rfl
  have hmu : mwf u.regs = true := by rw [hur]; exact hm
  clear_value u
  refine ⟨?_, ?_, ?_, ?_, ?_⟩
  · refine Only.setfi (Only.setfi (hu.mono (by simp) (by simp)) (by simp)) (by simp)
  · exact mwf_wri (mwf_wri hmu ..) ..
  · exact hup
  · unfold State.fli State.setfi
    rw [State.rdi_wri_ne _ (by simp), State.rdi_wri _ _ _ hmu]
    cases v <;> rfl
  · unfold State.fli State.setfi
    rw [State.rdi_wri _ _ _ (mwf_wri hmu ..)]
    cases v <;> rfl

theorem each_wri_zero {fs : List Fld} (k : Nat) : ∀ {s : State}, mwf s.regs = true →
    Only [] (fs.map fun f => (f, k)) s (s.each fs fun s f => s.wri f k 0) ∧
    mwf (s.each fs fun s f => s.wri f k 0).regs = true ∧
    (∀ g ∈ fs, g.store k 0 = 0 → (s.each fs fun s f => s.wri f k 0).rdi g k = 0) ∧
    (∀ g, s.rdi g k = 0 → g.store k 0 = 0 → (s.each fs fun s f => s.wri f k 0).rdi g k = 0) := by
  induction fs with
  | nil => intro s h; exact ⟨Only.refl _ _ _, h, by simp, fun g h _ => h⟩
  | cons a r ih =>
    intro s h
    have hm := mwf_wri h a k 0
    obtain ⟨h1, h2, h3, h4⟩ := ih hm
    rw [State.each, List.foldl_cons, ← State.each]
    refine ⟨?_, h2, ?_, ?_⟩
    · refine Only.trans (Only.wri (Only.refl _ _ _) (by simp)) (h1.mono (by simp) (by simp))
    · intro g hg hs
      by_cases e : a = g
      · subst e
        exact h4 _ (by rw [State.rdi_wri _ _ _ h]; exact hs) hs
      · refine h3 g ?_ hs
        simp at hg; rcases hg with rfl | hg
        · exact absurd rfl e
        · exact hg
    · intro g hg hs
      refine h4 g ?_ hs
      rw [rdi_wri' h]; split
      · rename_i h'; rw [h'.1]; exact hs
      · exact hg

theorem clearLink_facts {s : State} (hm : mwf s.regs = true) (k : Nat) :
    Only [] (linkFlds.map fun f => (f, k)) s (s.clearLink k) ∧ mwf (s.clearLink k).regs = true ∧
    (s.clearLink k).fli .PRT_LINK_STATUS_LINK_UP k = false := by
  have h := each_wri_zero (fs := linkFlds) k hm
  refine ⟨h.1, h.2.1, ?_⟩
  have := h.2.2.1 .PRT_LINK_STATUS_LINK_UP (by simp [linkFlds]) rfl
  unfold State.fli State.clearLink
  rw [show [Fld.PRT_LINK_STATUS_LINK_UP, .RATE, .WIDTH, .REVERSED, .FLIT256, .HDM_DB, .IDE_MEM, .IDE_IO, .POLARITY] = linkFlds from rfl, this]
  rfl

theorem bit_setBit (v i : Nat) (b : Bool) : bit (setBit v i b) i = b := by
  unfold setBit setBits bits b2n bit
  rw [Nat.pow_one, Nat.shiftRight_eq_div_pow]
  have h1 := Nat.div_add_mod v (2 ^ i)
  have h2 := Nat.mod_lt v (Nat.two_pow_pos i)
  have h3 := Nat.div_add_mod (v / 2 ^ i) 2
  set q := v / 2 ^ i
  set p := 2 ^ i
  have h4 : v - q % 2 * p = (q / 2 * 2) * p + v % p := by
    have : v = (2 * (q / 2) + q % 2) * p + v % p := by rw [h3]; rw [Nat.mul_comm]; omega
    have h5 : (2 * (q / 2) + q % 2) * p = (q / 2 * 2) * p + q % 2 * p := by ring
    omega
  rw [h4, Nat.testBit_eq_decide_div_mod_eq]
  have h6 : ((q / 2 * 2) * p + v % p + (if b = true then 1 else 0) % 2 * p) = v % p + (q / 2 * 2 + (if b = true then 1 else 0) % 2) * p := by ring
  rw [h6, Nat.add_mul_div_right _ _ (Nat.two_pow_pos i), Nat.div_eq_of_lt h2]
  cases b <;> simp

theorem dropDemotion_stays {s : State} {obj tp : Nat} (h : ∀ m ∈ s.tpe.moves, ¬(m.obj = obj ∧ m.tp = tp)) :
    s.dropDemotion obj tp = s := by
  have : s.tpe.moves.find? (fun m => m.obj == obj && m.tp == tp && m.st == .queued && m.dest != .t1) = none := by
    rw [List.find?_eq_none]
    intro m hm
    have := h m hm
    simp; tauto
  simp only [State.dropDemotion, this]

theorem touch_only (s : State) (f : Nat) : Only [.tpe] [] s (s.touch f) := by
  unfold State.touch State.setFrame; split <;> repeat' first | (with_reducible first | assumption | exact Only.refl _ _ _ | apply Only.wri | apply Only.wr | apply Only.setf | apply Only.setfi | apply Only.send | apply Only.when | apply Only.mk_tpe | apply Only.each) | decide | (simp; done) | intro _ _ _ _

theorem sfAdd_only (s : State) (a b : Nat) (e : Bool) : Only [.fch] [] s (s.sfAdd a b e) := by
  unfold State.sfAdd
  split
  · exact (Only.refl _ _ _).mk_fch (by decide)
  · repeat' first | (with_reducible first | assumption | exact Only.refl _ _ _ | apply Only.wri | apply Only.wr | apply Only.setf | apply Only.setfi | apply Only.send | apply Only.when | apply Only.mk_fch | apply Only.each) | decide | (simp; done) | intro _ _ _ _

theorem sfDrop_only (s : State) (a b : Nat) : Only [.fch] [] s (s.sfDrop a b) := by
  unfold State.sfDrop
  split
  · repeat' first | (with_reducible first | assumption | exact Only.refl _ _ _ | apply Only.wri | apply Only.wr | apply Only.setf | apply Only.setfi | apply Only.send | apply Only.when | apply Only.mk_fch | apply Only.each) | decide | (simp; done) | intro _ _ _ _
  · extract_lets m; split
    · exact (Only.refl _ _ _).mk_fch (by decide)
    · exact (Only.refl _ _ _).mk_fch (by decide)

theorem sfRead_only (s : State) (r : HostReq) (b : Nat) : Only [.fch] [] s (s.sfRead r b) := by
  unfold State.sfRead
  split
  · exact sfAdd_only ..
  · split
    · exact sfAdd_only ..
    · repeat' first | (with_reducible first | assumption | exact Only.refl _ _ _ | apply Only.wri | apply Only.wr | apply Only.setf | apply Only.setfi | apply Only.send | apply Only.when | apply Only.mk_fch | apply Only.each) | decide | (simp; done) | intro _ _ _ _

theorem sfWrite_only (s : State) (r : HostReq) (b : Nat) : Only [.fch] [] s (s.sfWrite r b) := by
  unfold State.sfWrite
  split
  · exact sfDrop_only ..
  · exact sfRead_only ..

theorem sfRead_lines (s : State) (r : HostReq) (b : Nat) : (s.sfRead r b).fch.lines = s.fch.lines := by
  unfold State.sfRead State.sfAdd
  split
  · split <;> rfl
  · split
    · split <;> rfl
    · rfl

theorem sfWrite_lines (s : State) (r : HostReq) (b : Nat) : (s.sfWrite r b).fch.lines = s.fch.lines := by
  unfold State.sfWrite
  split
  · unfold State.sfDrop; split
    · rfl
    · extract_lets m; split <;> rfl
  · exact sfRead_lines ..

theorem setFrame_only (s : State) (f e) : Only [.tpe] [] s (s.setFrame f e) := by unfold State.setFrame; repeat' first | (with_reducible first | assumption | exact Only.refl _ _ _ | apply Only.wri | apply Only.wr | apply Only.setf | apply Only.setfi | apply Only.send | apply Only.when | apply Only.mk_tpe | apply Only.each) | decide | (simp; done) | intro _ _ _ _

theorem chargeKey_only (s : State) (d : Nat) (k : Key) :
    Only [.stl] [(.FLOAT_PAGES, 0), (.CHARGE, d)] s (s.chargeKey d k) := by
  unfold State.chargeKey; repeat' first | (with_reducible first | assumption | exact Only.refl _ _ _ | apply Only.wri | apply Only.wr | apply Only.setf | apply Only.setfi | apply Only.send | apply Only.when | apply Only.mk_stl | apply Only.each) | decide | (simp; done) | intro _ _ _ _

theorem chargeCp_only (s : State) (ix k d : Nat) :
    Only [.md, .stl, .tpe] [(.FLOAT_PAGES, 0), (.CHARGE, d)] s (s.chargeCp ix k d) := by
  unfold State.chargeCp State.setMap
  extract_lets m t0 t
  have : Only [.md, .stl, .tpe] [(.FLOAT_PAGES, 0), (.CHARGE, d)] s t := by
    refine Only.step ?_ (chargeKey_only _ _ _) (by simp) (by simp)
    repeat' first | (with_reducible first | assumption | exact Only.refl _ _ _ | apply Only.wri | apply Only.wr | apply Only.setf | apply Only.setfi | apply Only.send | apply Only.when | apply Only.mk_md | apply Only.mk_stl | apply Only.mk_tpe | apply Only.each) | decide | (simp; done) | intro _ _ _ _
  clear_value t
  split
  · exact this.step (setFrame_only _ _ _) (by simp) (by simp)
  · exact this

theorem chargeCp_fch (s : State) (ix k d : Nat) : (s.chargeCp ix k d).fch = s.fch := (chargeCp_only ..).parts .fch (by simp)

theorem legal_le {s : State} (h : regsOk s.regs = true) (f : Fld) (i : Nat) (hs : f.store i (s.rdi f i) = min f.spec.hi (max f.spec.lo (s.rdi f i % 2 ^ f.spec.width))) :
    s.rdi f i ≤ f.spec.hi := by
  have := State.rdi_legal h f i
  simp only [Fld.legal, beq_iff_eq] at this
  omega

theorem chargeKey_float {s : State} (hr : regsOk s.regs = true) {d : Nat} (k : Key) (h : s.canCharge d 1 = true) :
    (s.chargeKey d k).rd .FLOAT_PAGES = s.rd .FLOAT_PAGES + 1 := by
  have hl := legal_le hr .FLOAT_LIMIT 0 rfl
  simp only [Fld.spec] at hl
  simp only [State.canCharge, Bool.or_eq_true, Bool.and_eq_true, decide_eq_true_eq, beq_iff_eq, Nat.one_ne_zero, false_or] at h
  have hh : s.rd .FLOAT_PAGES + 1 ≤ s.rdi .FLOAT_LIMIT 0 := h.1.2
  show ((s.wr .FLOAT_PAGES (s.rd .FLOAT_PAGES + 1)).wri .CHARGE d _).rdi .FLOAT_PAGES 0 = _
  rw [State.rdi_wri_ne _ (by simp)]
  show (s.wri .FLOAT_PAGES 0 _).rdi .FLOAT_PAGES 0 = _
  rw [State.rdi_wri _ _ _ (regsOk_iff.1 hr).1]
  simp only [Fld.store, Fld.spec]
  omega

theorem chargeCp_float {s : State} (hr : regsOk s.regs = true) {d : Nat} (ix k : Nat) (h : s.canCharge d 1 = true) :
    (s.chargeCp ix k d).rd .FLOAT_PAGES = s.rd .FLOAT_PAGES + 1 := by
  unfold State.chargeCp
  extract_lets m t
  have : t.rd .FLOAT_PAGES = s.rd .FLOAT_PAGES + 1 := by
    rw [← chargeKey_float (s := s) hr (m.frame, k) h]; rfl
  clear_value t
  split
  · rw [← this]; exact (setFrame_only _ _ _).regs _ _ (by simp)
  · exact this

theorem redirty_only (s : State) (a b) : Only [.md] [] s (s.redirty a b) := by
  unfold State.redirty State.setMap; extract_lets m; split <;> repeat' first | (with_reducible first | assumption | exact Only.refl _ _ _ | apply Only.wri | apply Only.wr | apply Only.setf | apply Only.setfi | apply Only.send | apply Only.when | apply Only.mk_md | apply Only.each) | decide | (simp; done) | intro _ _ _ _

theorem obj_redirty (s : State) (a b i) : (s.redirty a b).obj? i = s.obj? i := by
  unfold State.redirty State.setMap State.obj?; extract_lets m; split <;> rfl

theorem own_obj {s : State} {i : Nat} {o : Obj} (h : s.own? i = some o) : s.obj? i = some o := by
  unfold State.own? at h
  obtain ⟨a, h1, h2⟩ := Option.bind_eq_some_iff.1 h
  split at h2 <;> simp_all

theorem closeLane_nil {s : State} (h : s.mir.opn = []) (l : Nat) : s.closeLane l = s := by
  unfold State.closeLane; rw [h]; rfl

theorem closeAll_nil {s : State} (h : s.mir.opn = []) : s.closeAll = s := by
  unfold State.closeAll State.each
  have : ∀ l : List Nat, List.foldl State.closeLane s l = s := by
    intro l
    induction l with
    | nil => rfl
    | cons a r ih => rw [List.foldl_cons, closeLane_nil h]; exact ih
  exact this _

theorem stallEnd_only (s : State) (d : Nat) : Only [] [(.STALLED, d)] s (s.stallEnd d) := by
  unfold State.stallEnd; split <;> repeat' first | (with_reducible first | assumption | exact Only.refl _ _ _ | apply Only.wri | apply Only.wr | apply Only.setf | apply Only.setfi | apply Only.send | apply Only.when | apply Only.each) | decide | (simp; done) | intro _ _ _ _

theorem running_mem {s : State} {uid op : Nat} {c : Cmd} (h : s.running? uid op = some c) :
    s.draining = false ∧ c ∈ s.cmd.cmds ∧ c.uid = uid ∧ c.ph = .running ∧ sqeOp c.words = op := by
  unfold State.running? at h
  split at h
  · cases h
  · rename_i hd
    have h1 := List.find?_some h
    simp only [Bool.and_eq_true, beq_iff_eq] at h1
    exact ⟨by simpa using hd, List.mem_of_find?_eq_some h, h1.1.1, h1.1.2, h1.2⟩

theorem cmdRegs_only (s : State) (d : Nat) : Only [] (cmdFlds d) s s.cmdRegs := by
  unfold State.cmdRegs
  refine Only.wr (Only.wr (Only.wr (Only.wr (Only.refl _ _ _) ?_) ?_) ?_) ?_ <;> simp [cmdFlds]

theorem cmdRegs_cmd (s : State) : s.cmdRegs.cmd = s.cmd := rfl

theorem updCmd_only (s : State) (u : Nat) (f) : Only [.cmd] [] s (s.updCmd u f) := (Only.refl _ _ _).mk_cmd (by simp)

theorem finishCmd_only (s : State) (u : Nat) (f) : Only [.cmd] [] s (s.finishCmd u f) := by
  unfold State.finishCmd
  split
  · exact Only.mk_cmd (updCmd_only _ _ _) (by simp)
  · exact Only.refl _ _ _

theorem entGo_only (s : State) (e : Ent) (d : Nat) : Only [.waits] (cmdFlds d) s (s.entGo e d) := by
  unfold State.entGo
  exact Only.step (Only.mk_waits (Only.refl _ _ _) (by simp)) (stallEnd_only _ _) (by simp) (by simp [cmdFlds])

theorem entGo_cmd (s : State) (e : Ent) (d : Nat) : (s.entGo e d).cmd = s.cmd := (entGo_only s e d).cmd_eq (by simp)

theorem finishCmd_ended {s : State} {c x : Cmd} (f : Cmd → Cmd) (hx : x ∈ s.cmd.cmds) (hu : x.uid = c.uid) (hp : x.ph ≠ .finished)
    (hw : x.words = c.words) (hfu : (f x).uid = x.uid) (hfw : (f x).words = x.words) :
    (s.finishCmd c.uid f).ended c (f x).status (f x).r0 (f x).r1 := by
  unfold State.finishCmd
  have : (s.cmd.cmds.any fun c' => c'.uid == c.uid && c'.ph != .finished) = true := by
    rw [List.any_eq_true]; exact ⟨x, hx, by simp [hu, hp]⟩
  rw [if_pos this]
  refine ⟨by simp [State.updCmd], { f x with ph := .finished }, ?_, ?_, ?_, rfl, rfl, rfl, rfl⟩
  · simp only [State.updCmd]
    exact List.mem_map.2 ⟨x, hx, by simp [hu]⟩
  · simp [hfu, hu]
  · simp [hfw, hw]

theorem ended_of_cmd {s t : State} {c : Cmd} {st a b : Nat} (h : s.ended c st a b) (e : t.cmd = s.cmd) : t.ended c st a b := by
  unfold State.ended at *; rw [e]; exact h

/-- What the good end of a command leaves (R132). -/
theorem cmdOk_facts {s : State} {c x : Cmd} (r0 r1 : Nat) (hx : x ∈ s.cmd.cmds) (hu : x.uid = c.uid) (hp : x.ph ≠ .finished) (hw : x.words = c.words) :
    (s.cmdOk c r0 r1).ended c 0 r0 r1 ∧ Only [.waits, .cmd] (cmdFlds c.dom) s (s.cmdOk c r0 r1) := by
  unfold State.cmdOk
  refine ⟨?_, ?_⟩
  · refine ended_of_cmd ?_ (cmdRegs_cmd _)
    exact finishCmd_ended (fun c => { c with status := 0, r0 := r0, r1 := r1 }) (x := x) (by rw [entGo_cmd]; exact hx) hu hp hw rfl rfl
  · refine Only.step (Only.step ((entGo_only _ _ _).mono (by simp) (by simp)) (finishCmd_only _ _ _) (by simp) (by simp)) (cmdRegs_only _ c.dom) (by simp) (by simp)

theorem cmdErr_facts {s : State} {c x : Cmd} (st det r0 n : Nat) (hx : x ∈ s.cmd.cmds) (hu : x.uid = c.uid) (hp : x.ph ≠ .finished) (hw : x.words = c.words) :
    (s.cmdErr c st det r0 n).ended c st r0 (det + n % 2 ^ 32 * 2 ^ 16) ∧ Only [.waits, .cmd] (cmdFlds c.dom) s (s.cmdErr c st det r0 n) := by
  unfold State.cmdErr
  refine ⟨?_, ?_⟩
  · refine ended_of_cmd ?_ (cmdRegs_cmd _)
    exact finishCmd_ended (fun c => { c with status := st, detail := det, r0 := r0, r1 := det + n % 2 ^ 32 * 2 ^ 16 }) (x := x) (by rw [entGo_cmd]; exact hx) hu hp hw rfl rfl
  · refine Only.step (Only.step ((entGo_only _ _ _).mono (by simp) (by simp)) (finishCmd_only _ _ _) (by simp) (by simp)) (cmdRegs_only _ c.dom) (by simp) (by simp)

/-- What completing a host write leaves: DEVLOAD and one message. -/
theorem complete_only (s : State) (l j tag : Nat) : Only [.out] [(.DEVLOAD, ldIx l j)] s (s.complete l j tag) := by
  unfold State.complete
  repeat' first
    | (with_reducible first
        | assumption | exact Only.refl _ _ _ | apply Only.wri | apply Only.send | apply Only.when)
    | decide | (simp; done) | intro _ _ _ _

theorem complete_out (s : State) (l j tag : Nat) (h : s.mute l = false) :
    (s.complete l j tag).out = s.out ++ [.cxlDone l j tag (s.devLoad l j)] := by
  unfold State.complete
  extract_lets v t
  have : t.mute l = false := by
    rw [← h]; subst t; unfold State.mute State.fli; rw [State.rdi_wri_ne _ (by simp)]; rfl
  simp only [this, State.when, Bool.not_false, if_true]
  rfl

theorem rerun_nil {s : State} {p : Wait → Bool} (h : ∀ w ∈ s.waits, p w = false) : s.rerun p = s := by
  unfold State.rerun
  extract_lets isHost sameLd first q go t
  have hf : first = [] := by
    unfold first; rw [List.filter_eq_nil_iff]; intro w hw; simp [h w hw]
  have hq : ∀ w ∈ s.waits, q w = false := by
    intro w hw; unfold q; rw [hf]; simp [h w hw]
  have hg : go = [] := by
    unfold go; rw [List.filter_eq_nil_iff]; intro w hw; simp [hq w hw]
  have ht : t = s := by
    have : (s.waits.filter fun w => !q w) = s.waits := by
      rw [List.filter_eq_self]; intro w hw; simp [hq w hw]
    unfold t; rw [this]
  rw [hg, ht]; rfl

end Sys2Proof.Machine
end

