-- ==== Sys2Proof/Machine/Pins.lean ====
section
/-! DEFINITION. The package (21_pins_and_electrical.md): what every ball of the grid carries (R473 to R479), the
service life used up (R486) and the junction temperature (R485). Nothing here changes: no command reads or writes it. -/

namespace Sys2Proof.Machine

/-- What a position of the grid carries: no ball, a named signal, ground, a rail of Table 21.10 or the always-on rail. -/
inductive Ball where
  | empty
  | signal (name : String)
  | vss
  | vdd (rail : Nat)
  | aon
deriving DecidableEq, Repr

/-- The names of rows 1 to 19 (Table 21.1). -/
def rowLetters : List String :=
  ["A", "B", "C", "D", "E", "F", "G", "H", "J", "K", "L", "M", "N", "P", "T", "U", "V", "W", "Y"]

/-- A row's name (Table 21.1). -/
def rowName (r : Nat) : String :=
  let tail := rowLetters.getD ((r - 1) % 19) ""
  match (r - 1) / 19 with
  | 0 => tail
  | 1 => "A" ++ tail
  | 2 => "B" ++ tail
  | _ => "C" ++ tail

/-- A ball's name (R473). -/
def ballName (r c : Nat) : String := rowName r ++ Nat.repr c

/-- A number in two digits. -/
def twoDigits (n : Nat) : String := (if n < 10 then "0" else "") ++ Nat.repr n

/-- A grid of rows × columns from its origin row and column, `up` for one whose i grows upward (R474), with a
position's local coordinates. -/
def blockAt (r0 c0 rows cols : Nat) (up : Bool) (r c : Nat) : Option (Nat × Nat) :=
  let i := if up then r0 - r else r - r0
  let j := c - c0
  if (if up then r ≤ r0 else r0 ≤ r) ∧ c0 ≤ c ∧ i < rows ∧ j < cols then some (i, j) else none

/-- A SerDes ball (Table 21.3, R475). -/
def serdesBall (x : String) (i j : Nat) : Ball :=
  let l := Nat.repr (8 * (i / 4) + j / 2)
  let pol := if j % 2 = 0 then "P_" else "N_"
  match i % 4 with
  | 0 => .signal (x ++ "_TX_" ++ pol ++ l)
  | 2 => .signal (x ++ "_RX_" ++ pol ++ l)
  | 3 => if j % 2 = 0 then .vdd 2 else .vss
  | _ => .vss

/-- A DDR5 ball of channel cc (Table 21.4, R476). -/
def ddrBall (cc i j : Nat) : Ball :=
  let b := j / 9
  let k := j % 9
  let d := "D" ++ twoDigits cc
  let half := fun (n : String) => Ball.signal (d ++ (if b = 0 then "_A_" else "_B_") ++ n)
  match i with
  | 0 => half ("DQ_" ++ Nat.repr (4 * k))
  | 1 => half ("DQ_" ++ Nat.repr (4 * k + 1))
  | 2 => half ("DQS_P_" ++ Nat.repr k)
  | 3 => half ("DQS_N_" ++ Nat.repr k)
  | 4 => half ("DQ_" ++ Nat.repr (4 * k + 2))
  | 5 => half ("DQ_" ++ Nat.repr (4 * k + 3))
  | 6 => half (["DQ_36", "DQ_37", "DQS_P_9", "DQS_N_9", "DQ_38", "DQ_39", "CA_0", "CA_1", "CA_2"].getD k "")
  | 7 => half ("CA_" ++ Nat.repr (k + 3))
  | 8 => half (["CA_12", "CA_13", "CS_N_0", "CS_N_1", "CS_N_2", "CS_N_3", "CK_P_0", "CK_N_0", "CK_P_1"].getD k "")
  | _ => match k with
    | 0 => half "CK_N_1"
    | 1 => half "PAR"
    | 2 => .signal (d ++ (if b = 0 then "_RESET_N" else "_SCL"))
    | 3 => .signal (d ++ (if b = 0 then "_PAR_ALERT_N" else "_SDA"))
    | 7 | 8 => .vdd 4
    | _ => .vss

/-- A NAND ball of channel m (Table 21.5, R477). -/
def nandBall (m i j : Nat) : Ball :=
  let f := "F" ++ twoDigits m ++ "_"
  match i with
  | 0 => .signal (f ++ "DQ_" ++ Nat.repr j)
  | 1 => .signal (f ++ "CE_N_" ++ Nat.repr j)
  | 2 => .signal (f ++ ["DQS_P", "DQS_N", "RE_P", "RE_N", "ALE", "CLE", "WE_N", "WP_N"].getD j "")
  | _ => if j = 0 then .signal (f ++ "READY_N") else if j % 2 = 0 then .vdd 5 else .vss

/-- A ball of M1 (Table 21.6, R478). -/
def m1Ball (i j : Nat) : Ball :=
  .signal <| match i with
    | 0 => "RAIL_EN_" ++ twoDigits j
    | 1 => if j < 6 then "RAIL_EN_" ++ twoDigits (18 + j) else "RAIL_PG_" ++ twoDigits (j - 6)
    | 2 => if j < 12 then "RAIL_PG_" ++ twoDigits (12 + j)
      else ["WHISTLE_N", "PFAIL_N", "HOLDUP_SNS_P", "HOLDUP_SNS_N", "PWR_REQ", "SYS_RST_N"].getD (j - 12) ""
    | 3 => "FC_PRSNT_N_" ++ Nat.repr j
    | _ => "FC_PWR_EN_" ++ Nat.repr j

/-- The balls of an SPI device (Table 21.6). -/
def spiBall (x : String) (j : Nat) : Ball :=
  if j < 12 then
    .signal (x ++ ["SCK", "CS_N", "DQS", "RESET_N", "IO_0", "IO_1", "IO_2", "IO_3", "IO_4", "IO_5", "IO_6", "IO_7"].getD j "")
  else if j % 2 = 0 then .vss else .aon

/-- A ball of M2 (Table 21.6, R478). -/
def m2Ball (i j : Nat) : Ball :=
  let port := fun (x : String) => Ball.signal ("P" ++ Nat.repr (j / 3) ++ x)
  match i with
  | 0 =>
    if j < 12 then (match j % 3 with
      | 0 => port "_REFCLK_P"
      | 1 => port "_REFCLK_N"
      | _ => .vss)
    else if j % 3 = 2 then .vss else .signal (["ECLK_P", "ECLK_N", "", "XTAL_IN", "XTAL_OUT"].getD (j - 12) "")
  | 1 =>
    if j < 12 then port (["_PERST_N", "_CLKREQ_N", "_RDY"].getD (j % 3) "")
    else if j < 15 then .signal (["TWIN_HB_OUT", "TWIN_HB_IN", "TWIN_GRANT"].getD (j - 12) "")
    else if j = 15 then .vss else .aon
  | 2 => spiBall "SPI_A_" j
  | 3 => spiBall "SPI_B_" j
  | _ =>
    if j < 15 then .signal (["MG_SCL", "MG_SDA", "PM_SCL", "PM_SDA", "ALERT_N", "UART_TX", "UART_RX", "TCK", "TMS", "TDI",
      "TDO", "TRST_N", "STRAP_BOOT_SPI", "STRAP_SAFE", "STRAP_XTAL_BYP"].getD j "")
    else if j = 16 then .aon else .vss

/-- The origin row and column of NAND block m (Table 21.2). -/
def nandOrigin (m : Nat) : Nat × Nat :=
  if m < 13 then (9 + 4 * m, 19) else if m < 26 then (9 + 4 * (m - 13), 44)
  else if m < 31 then (9 + 4 * (m - 26), 29) else (42 + 4 * (m - 31), 29)

/-- The ball of a block of Table 21.2 at a position, if the position lies in one (R474). -/
def blockBall (r c : Nat) : Option Ball :=
  let at' := fun (r0 c0 rows cols : Nat) (up : Bool) (f : Nat → Nat → Ball) => (blockAt r0 c0 rows cols up r c).map fun x => f x.1 x.2
  (at' 1 19 8 16 false (serdesBall "P0")).orElse fun _ => (at' 1 35 8 16 false (serdesBall "P1")).orElse fun _ =>
  (at' 69 19 8 16 true (serdesBall "P2")).orElse fun _ => (at' 69 35 8 16 true (serdesBall "P3")).orElse fun _ =>
  (at' 1 1 4 16 false (serdesBall "E0")).orElse fun _ => (at' 1 54 4 16 false (serdesBall "E1")).orElse fun _ =>
  (at' 65 1 5 18 false m1Ball).orElse fun _ => (at' 65 52 5 18 false m2Ball).orElse fun _ =>
  ((List.range 12).findSome? fun cc => at' (5 + 10 * (cc % 6)) (if cc < 6 then 1 else 52) 10 18 false (ddrBall cc)).orElse fun _ =>
  (List.range 36).findSome? fun m => at' (nandOrigin m).1 (nandOrigin m).2 4 8 false (nandBall m)

/-- A field ball (R479, Table 21.7). -/
def fieldBall (r c : Nat) : Ball :=
  let rows := fun (a b : Nat) => decide (a ≤ r) && decide (r ≤ b)
  let cols := fun (a b : Nat) => decide (a ≤ c) && decide (c ≤ b)
  if (r + c) % 2 = 0 then .vss
  else if ((cols 27 28 || cols 42 43) && rows 9 61) || (cols 37 41 && rows 9 28) then .vdd 0
  else if cols 37 41 && rows 42 61 then .vdd 1
  else if rows 1 4 && (cols 17 18 || cols 52 53) then .vdd 2
  else if c = 51 && (rows 1 8 || rows 62 69) then .vdd 3
  else if r = 61 && (cols 19 26 || cols 44 51) then .vdd 5
  else .vss

/-- What position (r, c) of the 69 × 69 grid carries (R473, R474, R479). -/
def ball (r c : Nat) : Ball :=
  if r = 0 ∨ 69 < r ∨ c = 0 ∨ 69 < c ∨ (29 ≤ r ∧ r ≤ 41 ∧ 29 ≤ c ∧ c ≤ 41) then .empty
  else (blockBall r c).getD (fieldBall r c)

/-- The life in years at a junction temperature in °C (Table 21.12). -/
def lifeYears (tj : Nat) : Option Nat :=
  if tj ≤ 95 then some 40 else if tj ≤ 100 then some 28 else if tj ≤ 105 then some 20 else if tj ≤ 110 then some 14 else none

/-- The life consumed by (hours, junction temperature) spans, in 280ths of an hour of rated life: the life ends when this
reaches 280 times the hours of one year (R486). -/
def lifeUsed (l : List (Nat × Nat)) : Nat :=
  (l.map fun e => match lifeYears e.2 with
    | some y => e.1 * 280 / y
    | none => 0).foldl (· + ·) 0

end Sys2Proof.Machine
end

