-- ==== Sys2Proof/Tests/Slice0.lean ====
section
/-! SUPPORT. Tests: ill-formed commands are refused, worked examples of the spec, and for every statement a state and
operands that meet its premises (theorems named wit_…). -/

open Sys2Proof Machine

namespace Sys2Proof.Tests

set_option Elab.async false

/-! ## Well-formedness -/

/-- Terms that WellFormed refuses, one for each of its checks. -/
theorem test_illFormed_refused : ([.birsp 8 0, .identify 0 16, .gpfPhase2 4, .helloRepeat, .keepalive 2, .qpReset 1024, .stall 256 false,
    .domainPowerGood 112, .grpInv 16 0, .wayGroupCleanDone 0 4, .caParityAlert 12 0, .nandEraseFail 36, .refreshDue 0 4 true,
    .caParityAlert 0 2, .retrain 0 20, .nak 16, .retireSlot 18, .zeroize 0 4096, .birsp 0 (2 ^ 37),
    .cxlMemRead 0 0 (2 ^ 47) 0 0 [], .railGood 24, .acknowledge 0 (2 ^ 24), .cnp 65536, .noRoom (2 ^ 32), .zeroFillDone (2 ^ 32) 0,
    .cipKat 8, .registerRead 0 0 (2 ^ 24) 8] : List Instr).filter Instr.wf = [.helloRepeat] := by decide +kernel

/-- An ordinary packet. -/
def packet : Pkt := ⟨0, 0, false, 0, 2 ^ 16, 4, 0, false, false, false, false, 0, 0, 0, 0, 0, [], []⟩

theorem test_illFormed_packets : okPkt packet = true ∧ okPkt { packet with psn := 2 ^ 24 } = false ∧
    okPkt { packet with qpn := 2 ^ 24 } = false ∧ okPkt { packet with rkey := 2 ^ 32 } = false ∧
    okPkt { packet with data := [256] } = false := by decide +kernel

/-- No word spells a command: the table gives no row any bits. -/
theorem test_decodeTableWord : decodeTableWord 32 0 = none := rfl

/-! ## Worked examples of the spec -/

/-- The check value of CRC-32C (the Castagnoli code R419 names) over the digits 1 to 9. -/
theorem test_crc32c : crc32c [49, 50, 51, 52, 53, 54, 55, 56, 57] = 0xE3069283 := by decide +kernel

/-- AES-256-GCM of a zero block under a zero key and IV (the GCM specification's test case 14). -/
theorem test_gcm : gcmSeal (List.replicate 32 0) (List.replicate 12 0) [] (List.replicate 16 0) =
    ([0xce, 0xa7, 0x40, 0x3d, 0x4d, 0x60, 0x6b, 0x6e, 0x07, 0x4e, 0xc5, 0xd3, 0xba, 0xf3, 0x9d, 0x18],
      [0xd0, 0xd1, 0xc8, 0xa7, 0x99, 0x99, 0x6b, 0xf0, 0x26, 0x5b, 0x98, 0xb5, 0xd4, 0x8a, 0xb9, 0x19]) := by decide +kernel

/-- Chapter 10's worked example: DDA 0x90911A40 lies on D09 subchannel B, bank group 5, bank 2, row 385, burst 6. -/
theorem test_address_map : mapDda 12 false 0 0 0x90911A40 = ⟨9, 1, 0, 5, 2, 385, 6⟩ := by decide +kernel

/-- Chapter 3's worked example: 1.2 F from 50 V to 30 V hold for 1.5 s, and the limit is 33,255,689 pages. -/
theorem test_float_limit :
    ((((((((((((((State.reset.wr .HOLDUP_CAP_MEAS_MF 1200).wr .HOLDUP_CAP_NOM_MF 1250).wr .HOLDUP_FLOOR_MV 50000).wr
      .HOLDUP_VMIN_MV 30000).wr .DRAIN_EFF_PM 900).wr .DRAIN_POWER_W 560).wr .DRAIN_POWER_MEAS_W 576).wr .MARGIN 16).wr
      .DRAIN_FIXED_US 44020).wr .DRAIN_RATE_CAL 100000).wr .VAULT_FREE_MIB 1000000).wr .VAULT_CAP_MIB 2000000).setf .ARMED
      true).setf .RATE_VALID true).floatLimit = (33255689, 0, 1500000) := by decide +kernel

/-- Chapter 6's worked example: OFFSET 0x3F000 and LENGTH 0x22000 touch tier pages 3 to 6. -/
theorem test_pages_touched : pagesOf 0x3F000 0x22000 = [3, 4, 5, 6] := by decide +kernel

/-- Chapter 17's worked example: a cold reset after checkpoint 4,500,000,000,000 with FLUSH_SEQ 1,200,000 and highest
SEQ 1,199,999. -/
theorem test_cold_reset :
    let s := { State.reset with dbk := { State.reset.dbk with
      ckA := [⟨4500000000000, 1200000, 3⟩], logA := [⟨0, 32, 1, 0, 0, 1199999, 1, 3, []⟩] } }
    let t := s.coldReset true false false
    t.rd .OP_TIME = 4501500000000 ∧ t.rd .TAIL_SEQ = 1208192 ∧ t.rd .HEAD_SEQ = 1208193 := by decide +kernel

/-- R464's worked example: TICK_NUMBER read as two halves across a tick. -/
theorem test_read_latch :
    let s := ((State.reset.wri .LD_EN 0 1).wr .TICK_NUMBER 0x1FFFFFFFF)
    let a := s.regRead 0 0x18 4
    let b := (a.1.wr .TICK_NUMBER 0x200000000).regRead 0 0x1C 4
    let c := ((a.1.regRead 0 0x10 4).1.wr .TICK_NUMBER 0x200000000).regRead 0 0x1C 4
    a.2 = 0xFFFFFFFF ∧ b.2 = 1 ∧ c.2 = 2 := by decide +kernel

/-- R11's clamps, by writes to GLB_TICK. -/
theorem test_tick_period : ([97, 98, 1560, 1561].map fun v => ((State.reset.wri .LD_EN 0 1).regWrite 0 0x10 8 v 0).rd .TICK_PERIOD) =
    [98, 98, 1560, 1560] := by decide +kernel

/-- R73: GUAR_WT of domain 0 stores at least 1,024; other domains' do not. -/
theorem test_guar_wt : (((State.reset.wri .LD_EN 0 1).regWrite 0 0xC1000 8 5 0).rdi .GUAR_WT 0,
    ((State.reset.wri .LD_EN 0 1).regWrite 0 0xC1010 8 5 0).rdi .GUAR_WT 1) = (1024, 5) := by decide +kernel

/-- Chapter 18's worked example: a slice of 2,000 ns runs 5 steps of DRAM_ROW at 6,400 MT/s. -/
theorem test_slice_steps : ((State.reset.wr .SLICE_NS 2000).wr .DATA_MTS 6400).sliceSteps = 5 := by decide +kernel

/-! ## States of the witnesses -/

/-- Frame 638976 + i of the pool. -/
abbrev fr (i : Nat) : Nat := 638976 + i

/-- A persistent object of two pages, the first in frame 0 of the pool, the second in T2. -/
def obj5 : Obj := ⟨0, 1, 73, 5, 131072, 0, 0, 0⟩
/-- A volatile object of one page, in frame 1 of the pool. -/
def obj6 : Obj := ⟨0, 1, 68, 6, 65536, 2, 0, 0⟩

/-- A machine with two objects and room for more. -/
def small : State :=
  let s := (((State.reset.wr .FLOAT_LIMIT 100).wri .SHARE 0 100).wr .FREE_FRAMES 100).wr .POOL_FRAMES 102
  let s := ((s.wr .CAP_TP 1000).wri .MODE 1 1).wri .CEIL_FRAMES 0 100
  { s with prt := { prtNone with perst := 0 }
           md := { metaNone with ledger := [((5, 0), obj5), ((6, 0), obj6)]
                                 fmap := [((0, 0), { zeroPage with st := .t1, frame := fr 0 }), ((1, 0), { zeroPage with st := .t2, home := 2 ^ 32 }),
                                   ((2, 0), { zeroPage with st := .t1, frame := fr 1 })] }
           tpe := { tpeNone with frames := [((fr 0, 0), ⟨5, 0, 0, 0, 1, false, 0⟩), ((fr 1, 0), ⟨6, 0, 0, 0, 1, false, 0⟩)], moveId := 1 }
           fch := { fchNone with lines := [((setOf (1024 * fr 0), 6), ⟨1024 * fr 0, 5, 0, false, false, 7⟩), ((setOf (1024 * fr 1), 6), ⟨1024 * fr 1, 6, 0, false, false, 7⟩)] } }

/-- A dispatched command with an opcode and the words after the first. -/
def cmd (op : Nat) (ws : List Nat) : Cmd :=
  ⟨1, 0, 0, 0, 0, op :: ws, .running, false, 0, 5, 0, 5, 0, false, false, false, 0, 0, 0, [], [], false, 0, 0, 0, 0, 0, 0, false, false, 0, false⟩

/-- The machine with one command. -/
def withCmd (c : Cmd) (s : State) : State := { s with cmd := { s.cmd with cmds := [c] } }

/-! ## The Float Governor and the drain -/

/-- LD 0 of link 0 serves a window on object 5; the port is up. -/
def served : State := { ((small.wri .LD_EN 0 1).wri .LD_CAP_256M 0 1).wri .MEM_ACTIVE 0 1 with
  md := { small.md with wins := [((0, 0), ⟨false, 5, 2, 0⟩)] }, prt := { prtNone with perst := 0, rdy := 1 } }

/-- A host's store to the first line of that window. -/
def store0 : HostReq := ⟨0, 0, 0, 7, 0, true, 5, 1, false, false, 1⟩

/-- The store waits for float. -/
def floating : State := { served with waits := [⟨.host store0, 0, .flt, 5, 0, false, false⟩] }

theorem wit_onPage : OnPage served 0 0 0 5 0 (1024 * fr 0) ⟨false, 5, 2, 0⟩ obj5 :=
  ⟨by decide +kernel, by decide +kernel, by decide +kernel, ⟨(0, 0), by decide +kernel, by decide +kernel⟩, rfl, by decide +kernel,
    by decide +kernel, by decide +kernel, by decide +kernel, by decide +kernel, by decide +kernel, by decide +kernel⟩

theorem wit_hostLoadsAndStores : served.holds (1024 * fr 0) (setOf (1024 * fr 0), 6) ⟨1024 * fr 0, 5, 0, false, false, 7⟩ ∧
    served.alone 0 (1024 * fr 0) ∧ served.mute 0 = false ∧ obj5.mirror = false ∧ served.atomicHolds 5 0 = false ∧
    regsOk served.regs = true ∧ served.canCharge (served.ldDom 0 0) 1 = true ∧ (0, 1024 * fr 0) ∉ served.prt.lost ∧
    (∀ y ∈ served.waits, y.why ≠ .page) ∧ 0 ∉ served.prt.stopped ∧ served.held 0 true < served.halfTracker 0 := by
  unfold State.holds State.alone; decide +kernel

theorem wit_floatChargeAdmitted : floating.draining = false ∧ floating.prt.stopped = [] ∧ (∀ y ∈ floating.fch.snoops, y.ans = false) ∧ floating.fltNext = some ⟨.host store0, 0, .flt, 5, 0, false, false⟩ ∧
    State.stallEnd { floating with waits := [] } 0 = served.setfi .STALLED 0 false ∧
    (served.setfi .STALLED 0 false).Inv := by
  unfold State.Inv; decide +kernel

/-- A fence of the domain is pending. -/
def fenced : State := { served with fences := [⟨.page 0 0 3, 0, 0, 1, false, false⟩] }

theorem wit_stall : floating.draining = false ∧ floating.Inv ∧ floating.fli .STALLED 0 = false ∧ floating.rd .FLOAT_LIMIT ≠ 0 ∧
    fenced.draining = false ∧ fenced.Inv ∧ fenced.fli .STALLED 0 = false ∧ fenced.rd .FLOAT_LIMIT ≠ 0 := by
  unfold State.Inv; decide +kernel

/-- The energy store is at 40 V. -/
def stored : State := (served.wr .HOLDUP_MV 40000).wr .HOLDUP_FLOOR_MV 30000

theorem wit_holdupSensing : stored.Inv ∧ stored.rd .HOLDUP_FLOOR_MV + stored.rd .HOLDUP_HYST_MV ≤ stored.rd .HOLDUP_MV ∧
    stored.fl .HOLDUP_SNS_FAULT = false ∧ stored.fl .HOLDUP_REVERSED = false ∧ stored.draining = false ∧
    max 44000 (stored.rd .HOLDUP_MV) < 20 * (max 44000 (stored.rd .HOLDUP_MV) - min 44000 (stored.rd .HOLDUP_MV)) ∧
    20 * (max 41000 (stored.rd .HOLDUP_MV) - min 41000 (stored.rd .HOLDUP_MV)) ≤ max 41000 (stored.rd .HOLDUP_MV) ∧
    stored.fl .SNS_OPEN = false := by unfold State.Inv; decide +kernel

/-- A capacitance cycle in a state, with its charge. -/
def cycle (ph : CcalPh) (q : Nat) : State := { (stored.wr .CCAL_LO_MV 41000).wr .HOLDUP_CAP_NOM_MF 100 with
  fgv := { stored.fgv with ccal := ph, v1 := 40000, v2 := 39000, loMv := 40000, vset := 5, charge := q } }

theorem wit_calibrations : (cycle .idle 0).Inv ∧ (cycle .idle 0).draining = false ∧ (cycle .idle 0).fl .CCAL_BUSY = false ∧
    (cycle .idle 0).rd .CCAL_LO_MV ≠ 0 ∧ ((cycle .idle 0).wr .CCAL_INTERVAL_H 5).rd .CCAL_INTERVAL_H ≠ 0 ∧
    (cycle .discharge 0).fgv.ccal = .discharge ∧ (cycle .discharge 0).rd .HOLDUP_MV ≤ (cycle .discharge 0).fgv.loMv ∧
    (cycle .discharge 0).Inv ∧ (cycle .charge 9).fgv.ccal = .charge ∧ (cycle .charge 99000).Inv ∧
    (cycle .charge 99000).fgv.v1 ≤ (cycle .charge 99000).rd .HOLDUP_MV ∧ 0 < (cycle .charge 99000).fgv.v1 - (cycle .charge 99000).fgv.v2 ∧
    (cycle .charge 99000).rd .HOLDUP_CAP_NOM_MF * 1000 ≤ 2 * (cycle .charge 99000).fgv.charge ∧ 100 * 99000 ≤ 110 * 100 * 1000 ∧
    110 * (cycle .charge 200000).rd .HOLDUP_CAP_NOM_MF * 1000 < 100 * (cycle .charge 200000).fgv.charge ∧
    (cycle .idle 0).fgv.rehearsal = false := by unfold State.Inv; decide +kernel

/-- A rehearsal is under way. -/
def rehearsing : State := { stored with fgv := { stored.fgv with rehearsal := true, rates := [50, 40] } }

theorem wit_rehearsalDone : rehearsing.Inv ∧ rehearsing.draining = false ∧ rehearsing.fgv.rehearsal = true ∧
    ∀ r ∈ rehearsing.fgv.rates, r < 2 ^ 32 := by unfold State.Inv; decide +kernel

/-- ON, armed, with a waiting store. -/
def running : State := { (floating.wr .SEQ_STATE seqOn).setf .ARMED true with pwr := { small.pwr with rdyUp := true } }

theorem wit_drainTriggers : running.Inv ∧ running.draining = false ∧ running.rd .SEQ_STATE = seqOn ∧ running.pwr.rdyUp = true ∧
    running.fl .ARMED = true ∧ running.drain.step ≠ 7 := by unfold State.Inv; decide +kernel

/-- A drain at a step. -/
def draining (step : Nat) : State := { ((served.wr .SEQ_STATE seqOn).setf .DRAINING true).wr .RAIL_EN_OUT 3 with
  drain := { small.drain with step := step }, boot := { small.boot with metaDone := true } }

theorem wit_sysRstNDeassert : (draining 7).Inv ∧ (draining 7).draining = true ∧ (draining 7).drain.step = 7 ∧
    (draining 7).rd .SEQ_STATE = seqOn := by unfold State.Inv; decide +kernel

/-- Step 2, with one dirty line. -/
def drain2 : State := { draining 2 with fch := { small.fch with lines := [((3, 4), ⟨5, 5, 0, true, false, 9⟩)] } }

/-- Step 3, with one charged code page. -/
def drain3 : State := { draining 3 with stl := { small.stl with chq := [(fr 0, 3)] } }

theorem wit_drainSteps : drain2.Inv ∧ drain2.draining = true ∧ drain2.drain.step = 2 ∧ drain2.fch.mrs = [] ∧ drain3.draining = true ∧
    drain3.drain.step = 3 ∧ (fr 0, 3).1 < 2 ^ 30 ∧ drain3.frame? (fr 0) = some ⟨5, 0, 0, 0, 1, false, 0⟩ ∧ drain3.fl .FLIP_ARM = false ∧
    (∀ e ∈ drain3.dram, e.2.st = .good) ∧ (draining 4).draining = true ∧ (draining 4).int.journalBad = false ∧
    (draining 4).boot.metaDone = true ∧ (draining 5).Inv ∧ (draining 5).drain.step = 5 ∧ (draining 5).fl .SPI_A_FAIL = false ∧
    ((draining 6).setf .FLUSH_BUSY true).Inv ∧ ((draining 6).setf .FLUSH_BUSY true).fl .FLUSH_BUSY = true ∧
    ((draining 6).setf .FLUSH_BUSY true).dbk.flushAgain = false ∧ ((draining 6).setf .FLUSH_BUSY true).drain.railsUp = false := by
  unfold State.Inv; decide +kernel

/-! ## Host ports -/

/-- The settle page of the LD is enabled at page 3. -/
def settlePaged : State := (served.wri .SETTLE_EN 0 1).wri .SETTLE_PFN 0 3

theorem wit_settlePageStore : settlePaged.draining = false ∧ settlePaged.ldServes 0 0 (settlePaged.rdi .SETTLE_PFN (ldIx 0 0) * 4096) = true ∧
    settlePaged.fli .SETTLE_EN (ldIx 0 0) = true ∧ settlePaged.rd .STATE = mirNoTwin ∧ settlePaged.mir.opn = [] ∧ settlePaged.mute 0 = false ∧
    settlePaged.others (pageLa 0 0) none = [] ∧ 0 ∉ settlePaged.prt.stopped ∧ settlePaged.held 0 true < settlePaged.halfTracker 0 := by
  decide +kernel

theorem wit_settlePageTimeout : ⟨.page 0 0 3, 0, 0, 1, false, false⟩ ∈ fenced.fences ∧ fenced.mute 0 = false := by decide +kernel

theorem wit_gpf : served.draining = false ∧ 0 ∉ served.prt.gpf ∧ served.rd .STATE = mirNoTwin ∧ served.mir.opn = [] ∧
    (∀ f ∈ served.fences, f.src ≠ .gpf 0) ∧ 2 ∈ ({ served with prt := { served.prt with gpf := [2] } } : State).prt.gpf := by decide +kernel

/-- Port 1 in reset; link 0 up at rate 4 with the 256-byte flit. -/
def trained : State := { (((served.wri .PRT_LINK_STATUS_LINK_UP 0 1).wri .RATE 0 4).wri .FLIT256 0 1).wri .DOWNSHIFT_EN 0 1 with
  prt := { served.prt with perst := 2 } }

theorem wit_ports : trained.Inv ∧ bit trained.prt.perst 1 = true ∧ trained.linkLive 0 = true ∧ mwf trained.prt.stepped = true ∧
    served.linkLive 0 = true ∧ served.fli .PRT_LINK_STATUS_LINK_UP 0 = false ∧
    linkWidth 0x00FF (if served.fli .SPLIT_ACT (portOf 0) then 8 else 16) = some 8 ∧ trained.draining = false ∧
    trained.fli .PRT_LINK_STATUS_LINK_UP 0 = true ∧ trained.fli .DOWNSHIFT_EN (portOf 0) = true ∧
    trained.rdi .RETRAIN_LIMIT (portOf 0) < 60000 ∧ 0 < trained.rdi .RATE 0 ∧ 0 ≤ trained.rdi .RETRAIN_LIMIT (portOf 0) ∧
    trained.fli .FLIT256 0 = true := by unfold State.Inv; decide +kernel

/-- A snoop is out. -/
def snooped : State := { served with fch := { served.fch with snoops := [⟨0, 77, true, 1, false⟩] } }

theorem wit_snoops : ⟨0, 77, true, 1, false⟩ ∈ snooped.fch.snoops ∧
    (∀ y ∈ snooped.fch.snoops, y.sent = true ∧ (y.link = 0 → y.la = 77 → y = ⟨0, 77, true, 1, false⟩)) ∧
    snooped.wbPending ⟨0, 77, true, 1, false⟩ = false ∧ snooped.prt.dcPend = [] ∧
    (∀ w ∈ snooped.waits, w.why ≠ .snoop) := by decide +kernel

theorem wit_decodersAndIde : served.ldExists 0 0 = true ∧ (∀ d ∈ mget served.prt.hdm (ldIx 0 0, 1), d.locked = false) ∧
    (served.wr .SESSIONS 1).rd .SESSIONS ≠ 0 ∧ (served.wr .SESSIONS 1).Inv := by unfold State.Inv; decide +kernel

/-- One dynamic-capacity extent. -/
def extended : State := { served.wri .DC_EXTENTS 0 1 with md := { served.md with extents := [⟨0, 0, 64, 2⟩] } }

theorem wit_mailbox : extended.Inv ∧ extended.ldExists 0 0 = true ∧ extended.canJournal = true ∧
    extended.rdi .LD_CAP_256M (ldIx 0 0) ≤ 80 ∧ (∀ i, i < 1 → extended.hasBlock 0 0 (80 + i) = false) ∧
    (extended.extentsOf 0 0).length < 256 ∧ (∀ i, i < 2 → extended.hasBlock 0 0 (64 + i) = true) ∧
    extended.winsIn ⟨0, 0, 64, 2⟩ = [] ∧ (false, (⟨0, 0, 64, 2⟩ : Extent)) ∉ extended.prt.dcPend ∧
    small.draining = false ∧ small.ldRegs 0 0 = true ∧ small.fli .LD_EN (ldIx 0 0) = false := by unfold State.Inv; decide +kernel

/-- A stored poisoned line of a mapped page. -/
def poisoned : State := { served with dram := [((fr 0, 3), ⟨0, .poison⟩)] }

theorem wit_poisonList : ((fr 0, 3), ⟨0, .poison⟩) ∈ poisoned.dram ∧ poisoned.frame? (fr 0) = some ⟨5, 0, 0, 0, 1, false, 0⟩ ∧
    ((0, 0), ⟨false, 5, 2, 0⟩) ∈ poisoned.winsAt (1024 * fr 0) := by decide +kernel

/-! ## Queue pairs and commands -/

/-- Queue pair 2 of the LD, enabled or not, with four entries posted. -/
def queue (en : Bool) : State :=
  (((((((served.wri .CMD_QP_ASSIGN_ASSIGNED 2 1).setfi .QP_EN 2 en).wri .SQ_LOG2 2 4).wri .CQ_LOG2 2 4).wri .SQ_TAIL 2 4).wri .CQ_PHASE 2 1).wri .CQ_TAIL 2 3)

theorem wit_doorbells : (queue true).Inv ∧ (queue true).draining = false ∧ (queue true).fli .QP_EN 2 = true ∧ (queue true).fli .RESET_BUSY 2 = false ∧
    6 < (queue true).sqN 2 ∧ ringDist ((queue true).rdi .SQ_TAIL 2) ((queue true).rdi .SQ_HEAD 2) ((queue true).sqN 2) ≤
      ringDist 6 ((queue true).rdi .SQ_HEAD 2) ((queue true).sqN 2) ∧ 2 < (queue true).cqN 2 ∧
    ringDist 2 ((queue true).rdi .CQ_HEAD 2) ((queue true).cqN 2) ≤
      ringDist ((queue true).rdi .CQ_TAIL 2) ((queue true).rdi .CQ_HEAD 2) ((queue true).cqN 2) := by unfold State.Inv; decide +kernel

theorem wit_qpEnWrite : (queue false).Inv ∧ (queue false).draining = false ∧ (queue false).fli .QP_EN 2 = false ∧
    (queue false).fli .CMD_QP_ASSIGN_ASSIGNED 2 = true ∧
    (queue false).fli .LD_EN (ldIx ((queue false).rdi .CMD_QP_ASSIGN_LINK 2) ((queue false).rdi .CMD_QP_ASSIGN_LD 2)) = true ∧
    (queue false).rdi .MSIX_VEC 2 < 2048 ∧ (queue true).fli .QP_CTRL_INT_EN 2 = false ∧ (queue true).cmdsOf 2 = [] ∧
    (∀ w ∈ (queue true).waits, w.why ≠ .atomic) := by
  unfold State.Inv; decide +kernel

/-- Two unsignalled completions. -/
def coalescing : State := { ((queue true).wri .QP_CTRL_INT_EN 2 1).wri .COAL_US 2 5 with cmd := { small.cmd with qps := [((2, 0), ⟨0, 2, 0, 0, 0⟩)] } }

theorem wit_coalesceTimeout : coalescing.fli .QP_CTRL_INT_EN 2 = true ∧ coalescing.rdi .COAL_US 2 ≠ 0 ∧ (coalescing.qp 2).unsig ≠ 0 := by
  decide +kernel

theorem wit_sqeFetch : (queue true).eligible 2 = true ∧ (queue true).fli .CLASS_SC1 2 = false ∧
    ((queue true).cmd.cmds.filter fun c => c.ph == .waiting).length < 4096 ∧ 0 < (queue true).fetchMax 2 := by decide +kernel

/-- A fetched NOP, in a phase. -/
def nop2 (ph : CPh) : Cmd := { cmd opNop [] with qp := 2, ph := ph }

/-- The machine with that command, done or not. -/
def nops (ph : CPh) : State := { queue true with cmd := { small.cmd with cmds := [nop2 ph], done := if ph = .finished then [1] else [] } }

theorem wit_commandDispatch : (nops .waiting).draining = false ∧ (nops .waiting).cmd.cmds = [nop2 .waiting] ∧
    (nops .waiting).lockReady (nop2 .waiting) = true ∧ isMetaOp (sqeOp (nop2 .waiting).words) = false ∧ sqeSgl (nop2 .waiting).words = false ∧
    sqeOp (nop2 .waiting).words ≠ opSettle ∧ sqeOp (nop2 .waiting).words ≠ opSeal ∧ sqeOp (nop2 .waiting).words ≠ opUnseal ∧
    (State.updCmd ((nops .waiting).entGo (.cmd 1) 0) 1 fun x => { x with ph := .running }).stateCheck (nop2 .waiting) = none := by
  decide +kernel

theorem wit_queueResetCut : ((nops .running).setfi .RESET_BUSY 2 true).fli .RESET_BUSY 2 = true ∧ (nop2 .running).switched = false ∧
    (nop2 .running).escrow = [] ∧ sqeOp (nop2 .running).words ≠ opStream := by decide +kernel

/-- A finished NOP that asks for no interrupt. -/
def quietNop : Cmd := { nop2 .finished with words := [opNop + 2 ^ 8] }

/-- The machine with it. -/
def quietDone : State := { queue true with cmd := { small.cmd with cmds := [quietNop], done := [1] } }

theorem wit_commandComplete : quietDone.Inv ∧ quietDone.draining = false ∧ quietDone.cmd.done = [quietNop.uid] ∧ quietNop.silent = false ∧
    sqeNoInt quietNop.words = true ∧ quietNop.late = false ∧ quietDone.fli .RESET_BUSY quietNop.qp = false ∧
    (∀ w ∈ quietDone.waits, w.why ≠ .atomic) := by unfold State.Inv; decide +kernel

/-! ## Commands on data, objects and windows -/

/-- A READ of 8 bytes at the start of object 5, and a WRITE, a FILL and a COPY to object 6. -/
def rd5 (op : Nat) : Cmd := { cmd op [5, 4096, 8, 0] with tobj := 5, tofs := 0 }

/-- A command whose target is object 6. -/
def to6 (op : Nat) : Cmd := { cmd op [6, 4096, 8, 0] with tobj := 6, tofs := 0 }

/-- A COPY from object 5 to object 6. -/
def copy56 : Cmd := { cmd opCopy [5, 6, 8, 0] with tobj := 5, tofs := 0, tobj2 := 6, tofs2 := 0 }

/-- The cached first line of object 5 or 6. -/
def line (i v : Nat) : CLine := ⟨1024 * fr (i - 5), i, 0, false, false, BitVec.ofNat 512 v⟩

theorem wit_oneLine5 : OneLine (withCmd (rd5 opRead) small) 5 0 8 obj5 (1024 * fr 0) (setOf (1024 * fr 0), 6) (line 5 7) :=
  ⟨by decide +kernel, by decide +kernel, by decide +kernel, by decide +kernel, by decide +kernel, by decide +kernel, by decide +kernel,
    by unfold State.holds; decide +kernel, by decide +kernel⟩

theorem wit_oneLine6w : OneLine (withCmd (to6 opWrite) small) 6 0 8 obj6 (1024 * fr 1) (setOf (1024 * fr 1), 6) (line 6 7) :=
  ⟨by decide +kernel, by decide +kernel, by decide +kernel, by decide +kernel, by decide +kernel, by decide +kernel, by decide +kernel,
    by unfold State.holds; decide +kernel, by decide +kernel⟩

theorem wit_storable : Storable (withCmd (to6 opWrite) small) 0 6 0 (1024 * fr 1) obj6 (line 6 7) :=
  ⟨by decide +kernel, by decide +kernel, by decide +kernel, by decide +kernel⟩

theorem wit_dataCommands : (withCmd (rd5 opRead) small).running? 1 opRead = some (rd5 opRead) ∧ (rd5 opRead).sgl = [] ∧ (rd5 opRead).part = 0 ∧ (rd5 opRead).fails = 0 ∧
    (withCmd (rd5 opRead) small).cmd.cmds.find? (fun x => x.uid == 1) = some (rd5 opRead) ∧ sqeLen (rd5 opRead).words = 8 ∧
    (withCmd (rd5 opSeal) small).running? 1 opSeal = some (rd5 opSeal) ∧ (withCmd (cmd opLog []) small).running? 1 opLog = some (cmd opLog []) ∧
    (withCmd (cmd opNop []) small).running? 1 opNop = some (cmd opNop []) ∧
    (withCmd (to6 opWrite) small).running? 1 opWrite = some (to6 opWrite) ∧ (withCmd (to6 opFill) small).running? 1 opFill = some (to6 opFill) ∧
    (withCmd copy56 small).running? 1 opCopy = some copy56 ∧ (withCmd copy56 small).Inv := by unfold State.Inv; decide +kernel

/-- Commands of Table 06.9. -/
def create1 : Cmd := cmd opCreate [0, 100000, 68]

/-- OBJ_DELETE of object 5. -/
def delete5 : Cmd := cmd opDelete [5]

/-- OBJ_RESIZE of object 5 to n bytes. -/
def resize5 (n : Nat) : Cmd := cmd opResize [5, n]

/-- OBJ_ATTR of object 5. -/
def attr5 : Cmd := cmd opAttr [5, 0, 4 + 12 * 2 ^ 32]

theorem wit_objectCommands : (withCmd create1 small).running? 1 opCreate = some create1 ∧ (withCmd create1 small).checkCreate create1 = none ∧ (withCmd delete5 small).running? 1 opDelete = some delete5 ∧
    (withCmd delete5 small).own? 5 = some obj5 ∧ (withCmd delete5 small).framesClear ((withCmd delete5 small).rangeFrames obj5 0 2) = true ∧
    (withCmd (resize5 65536) small).running? 1 opResize = some (resize5 65536) ∧ sizePages (resize5 65536).words = 1 ∧
    (withCmd (resize5 65536) small).framesClear ((withCmd (resize5 65536) small).rangeFrames obj5 1 1) = true ∧
    (withCmd (resize5 327680) small).running? 1 opResize = some (resize5 327680) ∧
    (withCmd (resize5 327680) small).checkResize (resize5 327680) obj5 = none ∧ (withCmd attr5 small).running? 1 opAttr = some attr5 ∧
    (withCmd attr5 small).checkAttr attr5 obj5 = none ∧ small.tpe.moves = [] ∧ small.tpe.streams = [] := by decide +kernel

/-- WINDOW_MAP and WINDOW_UNMAP of one page of object 5 at DPA 0. -/
def map5 (op : Nat) : Cmd := cmd op [5, 0, 0, 0, 65536]

/-- An LD with room for windows, with one or none. -/
def windowed (ws : SMap Win) : State := { (small.wri .LD_CAP_256M 0 1).wri .LD_EN 0 1 with md := { small.md with wins := ws } }

theorem wit_windows : (withCmd (map5 opMap) (windowed [])).running? 1 opMap = some (map5 opMap) ∧
    (withCmd (map5 opMap) (windowed [])).checkMap (map5 opMap) obj5 = none ∧
    (withCmd (map5 opUnmap) (windowed [((0, 0), ⟨false, 5, 1, 0⟩)])).running? 1 opUnmap = some (map5 opUnmap) ∧
    (winTarget (map5 opUnmap), winDpa (map5 opUnmap)) = ((0, 0), 0) ∧
    (withCmd (map5 opUnmap) (windowed [((0, 0), ⟨false, 5, 1, 0⟩)])).framesClear
      ((withCmd (map5 opUnmap) (windowed [((0, 0), ⟨false, 5, 1, 0⟩)])).winFrames (0, 0) ⟨false, 5, 1, 0⟩) = true := by decide +kernel

/-- PLACE of page 1 to T1, and of page 0 to T2. -/
def place5 (tier ofs : Nat) : Cmd := cmd opPlace [5 + tier * 2 ^ 32, ofs, 65536]

/-- HOLD and RELEASE of object 5. -/
def hold5 (op : Nat) : Cmd := cmd op [5 + 2 ^ 32]

/-- Object 5 is held by domain 0. -/
def heldObj : State := { small with md := { small.md with ledger := [((5, 0), { obj5 with holdMap := 1 })] } }

theorem wit_placement : (withCmd (place5 1 65536) small).running? 1 opPlace = some (place5 1 65536) ∧
    (withCmd (place5 1 65536) small).checkPlace (place5 1 65536) obj5 = none ∧ sqeTier (place5 1 65536).words = 1 ∧
    placePages (place5 1 65536) = [1] ∧ (small.mapE 1).st ≠ .t1 ∧ (withCmd (place5 2 0) small).checkPlace (place5 2 0) obj5 = none ∧
    sqeTier (place5 2 0).words = 2 ∧ placePages (place5 2 0) = [0] ∧ (small.mapE 0).st = .t1 ∧ obj5.persist = true ∧ obj5.lowest ≠ 1 ∧
    (withCmd (hold5 opHold) small).running? 1 opHold = some (hold5 opHold) ∧ (withCmd (hold5 opHold) small).checkHold (hold5 opHold) obj5 = none ∧
    bit obj5.holdMap 0 = false ∧ (withCmd (hold5 opRelease) heldObj).running? 1 opRelease = some (hold5 opRelease) ∧
    (withCmd (hold5 opRelease) heldObj).own? 5 = some { obj5 with holdMap := 1 } := by decide +kernel

/-- STREAM_POST of one entry, STREAM_CANCEL, and SETTLE. -/
def post3 : Cmd := cmd opStream [1 * 2 ^ 48 + 3 * 2 ^ 32]

/-- STREAM_CANCEL of stream 3. -/
def cancel3 : Cmd := cmd opCancel [3 * 2 ^ 32]

/-- Stream 3 with one queued move. -/
def streaming : State := { small with tpe := { small.tpe with
  streams := [⟨0, 3, 9, [schedEntry [5, 0, 1, 0] 0], [], 0, 0, 0, 0, none⟩]
  moves := [⟨0, 5, 1, .stream 0 3 0, [], .queued, .t2, .t1, 0, 0, 0, false, false, false⟩] } }

theorem wit_streams : (withCmd post3 small).running? 1 opStream = some post3 ∧ post3.accepted = false ∧ (withCmd post3 small).stream? 0 3 = none ∧
    (withCmd post3 small).checkList 0 0 [schedEntry [5, 0, 1, 0] small.nowUs] = none ∧
    (withCmd cancel3 streaming).running? 1 opCancel = some cancel3 ∧ ((withCmd cancel3 streaming).stream? 0 3).isSome = true ∧
    (∀ y ∈ streaming.tpe.streams, y.uid ≠ 1) ∧ (withCmd (cmd opSettle [0]) small).running? 1 opSettle = some (cmd opSettle [0]) ∧
    small.rd .STATE = mirNoTwin ∧ small.mir.opn = [] := by decide +kernel

/-- WRITE_ATOMIC of object 6's page. -/
def atomic6 : Cmd := { cmd opAtomic [6, 0, 65536] with tobj := 6 }

theorem wit_writeAtomic : (withCmd atomic6 small).running? 1 opAtomic = some atomic6 ∧ small.own? 6 = some obj6 ∧ obj6.persist = false ∧
    obj6.mirror = false ∧ sqeLen atomic6.words = 65536 ∧ (small.mapE 2).st = .t1 ∧ small.pageHeld 6 0 2 = none ∧ small.canJournal = true ∧
    small.rd .FREE_FRAMES ≠ 0 ∧ small.fillsOn (fr 1) = false ∧ (withCmd atomic6 small).framesClear [fr 1] = true ∧ small.nextFrame ≠ fr 1 ∧ (withCmd atomic6 small).Inv := by
  unfold State.Inv; decide +kernel

/-- UNSEAL of 16 bytes to object 5 with a zero key. -/
def open5 : Cmd := { cmd opUnseal [5, 0, 16, 0] with tobj := 5 }

/-- Sixteen bytes and their tag. -/
def sealed16 : List Nat × List Nat := gcmSeal (toBytes 32 0) (sqeIv open5.words) (sqeAad open5.words) (List.range 16)

theorem wit_unseal : (withCmd open5 small).running? 1 opUnseal = some open5 ∧ open5.escrow = [] ∧ (pagesOf 0 16).length ≤ small.rd .FREE_FRAMES ∧
    gcmOpen (toBytes 32 0) (sqeIv open5.words) (sqeAad open5.words) sealed16.1 sealed16.2 = some (List.range 16) ∧
    gcmOpen (toBytes 32 0) (sqeIv open5.words) (sqeAad open5.words) sealed16.1 (sealed16.2.map fun _ => 0) = none := by decide +kernel

/-! ## Page movement -/

/-- A move of page 1 of object 5. -/
def mv (st : MSt) (src : MSrc) (src0 dest : PgSt) (f : Nat) : Move := ⟨0, 5, 1, src, [], st, src0, dest, f, 0, 0, false, false, false⟩

/-- Page 1 of object 5 as given, with one move. -/
def page1 (e : MapE) (m : Move) : State := { small with
  md := { small.md with fmap := [((0, 0), { zeroPage with st := .t1, frame := fr 0 }), ((1, 0), e), ((2, 0), { zeroPage with st := .t1, frame := fr 1 })] }
  tpe := { small.tpe with frames := small.tpe.frames ++ (if m.frame = 0 then [] else [((m.frame, 0), ⟨5, 1, 0, 0, 1, false, 0⟩)]), moves := [m] }
  nfc := { small.nfc with homes := [((2 ^ 32, 3), [(4, ⟨77, .good⟩)])] } }

/-- A page that loads. -/
def coming (st : MSt) (src : MSrc) (src0 : PgSt) : State :=
  page1 { zeroPage with st := .fetching, frame := fr 2, home := 2 ^ 32 } (mv st src src0 .t1 (fr 2))

theorem wit_promotionsEnd : (coming .load .demand .t2).Inv ∧ (coming .load .demand .t2).fl .RESYNC_BUSY = false ∧ (coming .load .demand .t2).draining = false ∧
    (coming .load .demand .t2).moveIn 5 1 .load = some (mv .load .demand .t2 .t1 (fr 2)) ∧ (coming .load .demand .t2).mir.held = [] ∧
    (coming .load .demand .t2).waits = [] ∧
    (coming .load .demand .t2).coldCp 5 1 ((coming .load .demand .t2).mapE 1) 3 = [(4, ⟨77, .good⟩)] ∧
    (coming .load .demand .zero).moveIn 5 1 .load = some (mv .load .demand .zero .t1 (fr 2)) ∧
    (coming .install .place .t2).moveIn 5 1 .install = some (mv .install .place .t2 .t1 (fr 2)) ∧
    (coming .load .place .t2).moveIn 5 1 .load = some (mv .load .place .t2 .t1 (fr 2)) ∧ (coming .load .place .t2).Inv ∧
    (coming .load .demand .t3).moveIn 5 1 .load = some (mv .load .demand .t3 .t1 (fr 2)) := by unfold State.Inv; decide +kernel

/-- A page that leaves DRAM. -/
def going (st : MSt) (dest : PgSt) : State :=
  page1 { zeroPage with st := .leaving, frame := fr 2, t3Bound := true, t3Ld := 0, t3Link := 0, t3Addr := 5 } (mv st .place .t1 dest (fr 2))

/-- The same with a reachable T3 slot and one stored line. -/
def slotted3 : State := { (going .clean .t3).wri .LD_EN 0 1 with fch := fchNone, prt := { prtNone with perst := 0 }, dram := [((fr 2, 3), ⟨9, .good⟩)] }

/-- The page sent, its zero-length read on the way. -/
def unload3 : State := { slotted3 with tpe := { slotted3.tpe with moves := [mv .unload .place .t1 .t3 (fr 2)] } }

theorem wit_demotionsEnd : (going .clean .t2).Inv ∧ (going .clean .t2).draining = false ∧
    (going .clean .t2).moveIn 5 1 .clean = some (mv .clean .place .t1 .t2 (fr 2)) ∧ (going .clean .t2).noCopies (fr 2) = true ∧
    (going .clean .t2).fillsOn (fr 2) = false ∧ (going .clean .t2).fl .RESYNC_BUSY = false ∧
    (going .clean .t2).frame? (fr 2) = some ⟨5, 1, 0, 0, 1, false, 0⟩ ∧ (going .clean .t2).int.retire = [] ∧
    (going .clean .t2).rd .FREE_FRAMES + 1 < 2 ^ 28 ∧ slotted3.moveIn 5 1 .clean = some (mv .clean .place .t1 .t3 (fr 2)) ∧
    slotted3.noCopies (fr 2) = true ∧ slotted3.slotLive (slotted3.mapE 1) = true ∧ slotted3.fl .FLIP_ARM = false ∧ slotted3.fch.lines = [] ∧
    slotted3.fch.mrs = [] ∧ slotted3.fch.mq = [] ∧ (∀ x ∈ slotted3.dram, x.2.st = .good) ∧
    (going .unload .t3).moveIn 5 1 .unload = some (mv .unload .place .t1 .t3 (fr 2)) ∧
    unload3.moveIn 5 1 .unload = some (mv .unload .place .t1 .t3 (fr 2)) ∧ unload3.slotLive (unload3.mapE 1) = true ∧ unload3.draining = false := by unfold State.Inv; decide +kernel

/-- A queued promotion. -/
def queued (src : MSrc) : State := { small.wr .FREE_LOW 10 with tpe := { small.tpe with moves := [mv .queued src .t2 .t1 0] } }

/-- An entry that promotes page 1. -/
def entry1 : SEnt := schedEntry [5, 65536, 1, 0] 0

/-- A stream with that entry. -/
def streams1 : State := { small with tpe := { small.tpe with streams := [⟨0, 3, 9, [entry1], [], 0, 0, 0, 0, none⟩] } }

/-- One object whose run starts at 1. -/
def gap1 : State := { small with md := { small.md with ledger := [((5, 0), { obj5 with mapBase := 1 })] } }

/-- The same with a run longer than one step. -/
def gapL : State := { small with md := { small.md with ledger := [((5, 0), { obj5 with mapBase := 1, size := 65536 * 4097 })] } }

theorem wit_movesBegin : (queued .demand).Inv ∧ (queued .demand).draining = false ∧ (queued .demand).rd .DF_RESERVE < 4096 ∧
    0 < (queued .demand).rd .FREE_FRAMES ∧ (queued .place).judge (mv .queued .place .t2 .t1 0) = .go ∧
    (queued .place).rd .FREE_LOW ≤ (queued .place).rd .FREE_FRAMES ∧ entry1.started = false ∧ entry1.demote = false ∧ entry1.pages = 1 ∧
    streams1.own? entry1.obj = some obj5 ∧ entry1.ofs / 65536 < obj5.pages ∧
    streams1.wantT1 entry1.obj obj5 (entry1.ofs / 65536) = .move ∧ (queued .demand).moveOf 5 1 = some (mv .queued .demand .t2 .t1 0) ∧
    (queued .demand).fl .POOL_DRY = false ∧ ((queued .demand).wr .FREE_FRAMES 0).rd .FREE_FRAMES = 0 ∧ ((queued .demand).wr .FREE_FRAMES 0).Inv ∧
    gap1.canJournal = true ∧ gap1.draining = false ∧
    gapL.canJournal = true ∧ 4096 < (⟨0, 1, 73, 5, 65536 * 4097, 1, 0, 0⟩ : Obj).pages ∧ gapL.tpe.compact = none ∧
    ((queued .demand).wr .FREE_FRAMES 0).tpe.moves.any ((queued .demand).wr .FREE_FRAMES 0).frameWait = true := by unfold State.Inv; decide +kernel

/-! ## The front cache -/

/-- A dirty evicted line waits in a miss register. -/
def evict : State := { small with fch := { small.fch with
  mrs := [((0, 0), ⟨1024 * fr 0 + 8, 5, 0, .evict, ⟨33, .good⟩, [], 1⟩)] } }

theorem wit_missEvictQueued : evict.Inv ∧ evict.draining = false ∧ evict.fch.mq = [] := by
  unfold State.Inv; decide +kernel

/-- A host's load of line 9 of frame 0. -/
def load9 : HostReq := ⟨0, 0, 72, 7, 0, false, 0, 0, false, false, 0⟩

/-- A fill for that load. -/
def fill9 : State := { small with
  dram := [((fr 0, 9), ⟨99, .good⟩)]
  fch := { small.fch with lines := [], mrs := [((0, 0), ⟨1024 * fr 0 + 9, 5, 0, .fill, ⟨0, .good⟩, [⟨.host load9, false, 0, 0, false⟩], 1⟩)] } }

theorem wit_missFillReturn : fill9.draining = false ∧ poolBase ≤ (1024 * fr 0 + 9) / 1024 ∧ fill9.fch.mq = [] ∧
    fill9.candidates (fill9.sliceOf (1024 * fr 0 + 9)) 5 0 ≠ [] ∧ fill9.int.ladders = [] ∧ fill9.rowFenced (1024 * fr 0 + 9) = false ∧ (∀ y ∈ fill9.fch.snoops, y.ans = false) ∧
    fill9.fl .FLIP_ARM = false ∧ (fill9.dline (1024 * fr 0 + 9)).st = .good ∧ fill9.mute 0 = false := by decide +kernel

/-- Way group 1 of slice 2 leaves; the lock of its ways is off. -/
theorem wit_pgReqOff : small.Inv ∧ small.draining = false ∧ (∀ h ∈ [1, 2, 3], h ≠ 1 → bit 0b1100 h = bit (small.rdi .PG_REQ 2) h) ∧
    small.underMarch 2 1 = false ∧ bit (small.rdi .PG_REQ 2) 1 = true ∧ bit 0b1100 1 = false ∧ groupHit small.lockedWays 1 = false := by
  unfold State.Inv; decide +kernel

/-- Way group 1 of slice 2 is gated. -/
def gated : State := (small.wri .PG_REQ 2 0b1101).wri .PG_STATE 2 0b1101

theorem wit_pgReqOn : gated.Inv ∧ gated.draining = false ∧ (∀ h ∈ [1, 2, 3], h ≠ 1 → bit 0b1110 h = bit (gated.rdi .PG_REQ 2) h) ∧
    gated.underMarch 2 1 = false ∧ bit (gated.rdi .PG_REQ 2) 1 = false ∧ bit 0b1110 1 = true ∧ bit (gated.rdi .PG_STATE 2) 1 = false ∧
    bit (gated.rdi .INV_DONE 2) 1 = false ∧ bit ((gated.wri .INV_DONE 2 2).rdi .INV_DONE 2) 1 = true := by
  unfold State.Inv; decide +kernel

theorem wit_grpInv : bit 0b0010 1 = true ∧ gated.bst.test ≠ 5 := by decide +kernel

/-- Way group 1 of slice 2 is being cleaned of one dirty line in way 6. -/
def cleaning : State := { (small.wri .PG_REQ 2 0b1101).wri .PG_BUSY 2 2 with
  fch := { fchNone with lines := [((4096 * 2 + 5, 6), ⟨1024 * fr 0 + 5, 5, 0, true, false, 66⟩)] } }

theorem wit_wayGroupCleanDone : cleaning.Inv ∧ cleaning.draining = false ∧ bit (cleaning.rdi .PG_BUSY 2) 1 = true ∧
    bit (cleaning.rdi .PG_REQ 2) 1 = false := by
  unfold State.Inv; decide +kernel

/-- Slice 3 may go while more than 8 remain. -/
def eight : State := small.wr .SLICE_EN 255

theorem wit_sliceDisReq : bit (small.rd .SLICE_EN) 3 = true ∧ bit (small.rd .SLICE_BUSY) 3 = false ∧ 8 < small.slicesLeft ∧
    eight.Inv ∧ eight.draining = false ∧ bit (eight.rd .SLICE_EN) 3 = true ∧ bit (eight.rd .SLICE_BUSY) 3 = false ∧ eight.slicesLeft ≤ 8 := by
  unfold State.Inv; decide +kernel

/-- Slice 2 flushes one dirty line. -/
def flushing : State := { small.wr .SLICE_BUSY 4 with fch := cleaning.fch }

theorem wit_sliceFlushDone : flushing.Inv ∧ flushing.draining = false ∧ bit (flushing.rd .SLICE_BUSY) 2 = true ∧
    (∀ e ∈ flushing.fch.mrs, e.1.1 ≠ 2) ∧ (∀ w ∈ flushing.waits, w.why ≠ .slice) ∧ mwf flushing.fch.lines = true := by
  unfold State.Inv; decide +kernel

theorem wit_lockEntryWrite : small.fli .LOCK_EN 0 = false ∧ bits (2 ^ 40 + 0xC0 * 2 ^ 32 + 5) 32 8 ≠ 0 ∧
    bit (2 ^ 40 + 0xC0 * 2 ^ 32 + 5) 40 = true ∧ (∀ sl, sl < 16 → ∀ g ∈ [1, 2, 3], bit (small.rdi .PG_STATE sl) g = true) ∧
    (small.wri .LOCK_EN 0 1).Inv ∧ (small.wri .LOCK_EN 0 1).draining = false ∧ (small.wri .LOCK_EN 0 1).fli .LOCK_EN 0 = true ∧
    bits 3 0 32 ≠ (small.wri .LOCK_EN 0 1).rdi .TP_FIRST 0 := by
  unfold State.Inv; decide +kernel

theorem wit_peaks : evict.mrUsed 0 ≤ 128 := by decide +kernel

/-! ## The DDR5 controller -/

/-- Twelve channels of two ranks serve. -/
def dramOn : State := { ((small.wr .CH_ACTIVE 0xFFF).wr .RANKS 2).wr .CH_CAP_GIB 128 with drc := { drcNone with selfRef := false } }

theorem wit_refresh : dramOn.Inv ∧ dramOn.draining = false ∧ dramOn.chLive 11 = true ∧ 1 < dramOn.rd .RANKS ∧ dramOn.nrPending 11 1 < 8 ∧
    mwf dramOn.drc.nr = true ∧ (dramOn.wri .REF_DEBT 11 0x80).Inv ∧ (dramOn.wri .REF_DEBT 11 0x80).chLive 11 = true ∧
    (dramOn.wri .REF_DEBT 11 0x80).refDebt 11 1 = 8 := by unfold State.Inv; decide +kernel

theorem wit_dimmThermalPoll : bit (dramOn.rd .CH_ACTIVE) 11 = true ∧ dramOn.rd .RANKS = 2 ∧ ¬(83 ≤ 96 ∧ 96 ≤ 85) ∧
    dramOn.drc.hotDimm.contains (2 * 11) = false := by decide +kernel

/-- Lane 19 of channel 11 stands 16 steps below its trained centre. -/
def skewed : State := (dramOn.wri .RD_OFS (laneIx 11 19) 240).wri .WR_OFS (laneIx 11 19) 5

theorem wit_readEyeWindow : skewed.Inv ∧ skewed.chLive 11 = true ∧ sgn8 (skewed.rdi .RD_OFS (laneIx 11 19)) = -16 ∧
    2 * 100 + 16 < 217 ∧ 216 ≤ 2 * 100 + 16 := by unfold State.Inv; decide +kernel

theorem wit_writeTrackingSlice : skewed.draining = false ∧ 1 < skewed.rd .RANKS ∧ skewed.refDebt 11 1 < 7 ∧ skewed.nrPending 11 1 = 0 ∧
    sgn8 (skewed.rdi .WR_OFS (laneIx 11 19)) = 5 := by decide +kernel

/-- Sub-channel 1 of channel 11 had three parity alerts in this window. -/
def threeAlerts : State := { dramOn with drc := { dramOn.drc with ca := [((11, 1), (dramOn.rd .OP_TIME, 3))] } }

theorem wit_caParityAlert : bit (dramOn.rd .CH_FAIL) 11 = false ∧ mwf dramOn.drc.ca = true ∧ mget dramOn.drc.ca (11, 1) = none ∧
    threeAlerts.Inv ∧ threeAlerts.chLive 11 = true ∧ bit (threeAlerts.rd .CH_FAIL) 11 = false ∧ mwf threeAlerts.drc.ca = true ∧
    mget threeAlerts.drc.ca (11, 1) = some (threeAlerts.rd .OP_TIME, 3) ∧ threeAlerts.fl .FATAL = false := by unfold State.Inv; decide +kernel

/-- All twelve channels populated alike; lanes fail where `bad` has a bit. -/
def dimms (bad : Nat) : TrainIn :=
  ⟨(List.range 12).map fun c => ⟨true, 1, 1, 2, 16, 64, 6400, !bit bad c, false, [], []⟩, [], true, 0⟩

/-- The rails are up and training is due. -/
def rails : State := State.reset.wr .SEQ_STATE seqOn

theorem wit_trainingDone : rails.Inv ∧ rails.draining = false ∧ rails.rd .SEQ_STATE = seqOn ∧ rails.fl .TRAIN_DONE = false ∧
    (∀ m ∈ rails.setOrder, rails.setOk ⟨[], [], true, 0⟩ m false = false) ∧
    rails.setOrder.find? (fun m => rails.setOk (dimms 2) m false) = some 0xFFF ∧ 1 ∈ chansOf 0xFFF ∧ (trainCh (dimms 2) 1).pass = false ∧
    rails.drc.tried < 2 ∧ rails.drc.tried + 1 < (rails.setRates (dimms 2) 0xFFF).length := by unfold State.Inv; decide +kernel

theorem wit_trainingPass : rails.setOrder.find? (fun m => rails.setOk (dimms 0) m false) = some 0xFFF ∧
    rails.setOrder.find? (fun m => rails.setOk (dimms 0) m true) = some 0xFFF ∧
    (∀ c ∈ chansOf 0xFFF, (trainCh (dimms 0) c).pass = true) := by decide +kernel

/-! ## The flash backing -/

/-- Code page 2 of object 5's first tier page is charged. -/
def charged : State := { ((small.wr .FLOAT_PAGES 1).wri .CHARGE 0 1).wr .SETTLE_SEQ 9 with
  md := { small.md with fmap := [((0, 0), ({ zeroPage with st := .t1, frame := fr 0, home := 2 ^ 32 } : MapE).setCp 2 1)] }
  fch := fchNone, stl := { small.stl with chq := [(fr 0, 2)] }, dram := [((fr 0, 130), ⟨4, .good⟩)] }

theorem wit_stripeSettleStart : charged.Inv ∧ mwf charged.md.fmap = true ∧ charged.draining = false ∧ charged.fgv.rehearsal = false ∧
    charged.stl.jobs = [] ∧ 0 < charged.rd .SETTLE_MAX ∧ charged.int.recode = [] ∧ charged.settleNext = some (fr 0, 2) ∧ fr 0 < 2 ^ 30 ∧
    charged.frame? (fr 0) = some ⟨5, 0, 0, 0, 1, false, 0⟩ ∧ charged.obj? 5 = some obj5 ∧ charged.fl .FLIP_ARM = false ∧
    (∀ e ∈ charged.dram, e.2.st ≠ .marked) ∧ charged.rd .SETTLE_SEQ + 1 < 2 ^ 64 := by unfold State.Inv; decide +kernel

/-- Its settle. -/
def job2 : Settle := ⟨(fr 0, 0), 5, 0, 2 ^ 32, [2], [2], [(2, [(2, ⟨4, .good⟩)])], 0, [], [], 0⟩

/-- The settle is in progress. -/
def settling : State := { charged.wr .SETTLES_ACTIVE 1 with
  md := { small.md with fmap := [((0, 0), ({ zeroPage with st := .t1, frame := fr 0, home := 2 ^ 32 } : MapE).setCp 2 2)] }
  stl := { small.stl with chq := [(fr 0, 2)], jobs := [job2] } }

theorem wit_stripeSettleDone : settling.Inv ∧ mwf settling.md.fmap = true ∧ mwf settling.nfc.homes = true ∧ settling.draining = false ∧
    settling.obj? 5 = some obj5 ∧ 0 < obj5.pages ∧ (settling.mapE (obj5.mapBase + 0)).home = 2 ^ 32 ∧
    (settling.mapE (obj5.mapBase + 0)).cpSt 2 = 2 ∧ (∀ p ∈ job2.progs, p.held = false) ∧ settling.storePending (fr 0) 2 = false ∧
    (settling.mapE (obj5.mapBase + 0)).frame = fr 0 ∧ settling.rdi .BAD_BLK 35 + 1 < 2 ^ 18 := by unfold State.Inv; decide +kernel

/-- Code page 3 of object 5's second page lies in the vault. -/
def vaulted : State := { small.setf .MEDIA_READY true with
  md := { small.md with fmap := [((1, 0), ({ zeroPage with st := .t2, home := 2 ^ 32 } : MapE).setCp 3 3)] }
  nfc := { small.nfc with vault := [((5, 19), [(0, ⟨8, .good⟩)])] } }

theorem wit_rehome : vaulted.Inv ∧ mwf vaulted.md.fmap = true ∧ mwf vaulted.nfc.homes = true ∧ mwf vaulted.nfc.vault = true ∧
    vaulted.draining = false ∧ vaulted.fgv.rehearsal = false ∧ vaulted.fl .MEDIA_READY = true ∧ vaulted.obj? 5 = some obj5 ∧ 1 < obj5.pages ∧
    (vaulted.mapE (obj5.mapBase + 1)).st = .t2 ∧ vaulted.moveOf 5 1 = none ∧ (vaulted.mapE (obj5.mapBase + 1)).cpSt 3 = 3 ∧
    mget vaulted.nfc.vault (5, 16 * 1 + 3) = some [(0, ⟨8, .good⟩)] := by unfold State.Inv; decide +kernel

/-- All channels are online. -/
def online : State := ((List.range 36).foldl (fun s c => s.wri .CH_STATE c 1) small).wr .CH_ONLINE (2 ^ 36 - 1)

/-- Channels 0 and 1 are retired. -/
def twoDown : State := ((online.wri .CH_STATE 0 2).wri .CH_STATE 1 2).wr .CH_ONLINE (2 ^ 36 - 4)

theorem wit_garbageCollection : online.Inv ∧ online.chanWorks 35 = true ∧ online.rdi .FREE_BLK 35 < online.rd .GC_HI_BLK ∧
    online.rd .SETTLE_SEQ + 7 < 2 ^ 64 ∧
    online.rd .GC_LO_BLK ≤ (online.wri .FREE_BLK 35 (online.rd .GC_LO_BLK - 1)).rdi .FREE_BLK 35 + 1 := by unfold State.Inv; decide +kernel

theorem wit_retire : mwf online.nfc.recState = true ∧ online.draining = false ∧ online.retireTooMany [17] = false ∧
    online.retireTooMany [3, 18 + 3] = false := by decide +kernel

theorem wit_retireRefused : twoDown.Inv ∧ twoDown.draining = false ∧ twoDown.chanWorks 17 = true ∧ twoDown.chanWorks (18 + 17) = true ∧
    twoDown.retireTooMany [17] = true ∧ twoDown.retireTooMany [17, 18 + 17] = true := by unfold State.Inv; decide +kernel

/-- Channel 17 is rebuilding, with one home of its group programmed. -/
def rebuilding : State := { (online.wri .CH_STATE 17 3).wr .CH_ONLINE (2 ^ 36 - 1 - 2 ^ 17) with
  nfc := { online.nfc with homes := [((2 ^ 32, 0), [])] } }

theorem wit_rebuild : rebuilding.Inv ∧ mwf rebuilding.nfc.rebuilt = true ∧ rebuilding.rdi .CH_STATE 17 = 3 ∧ rebuilding.draining = false ∧
    2 ^ 32 ∈ rebuilding.homesOf (17 / 18) ∧ rebuilding.groupDown (17 / 18) ≤ 2 ∧ rebuilding.rdi .REBUILD_LEFT 17 = 0 := by
  unfold State.Inv; decide +kernel

/-- A blank carrier. -/
def blank : Carrier := ⟨77, 0, 0, true, true, true, 3200, 4, 3000, [100000, 100000], [3, 4], [0, 0], [0, 0]⟩

/-- Slot 17 holds it. -/
def slotted : State := { ((small.wri .ID_STATE 17 2).setfi .PRESENT 17 true).wri .CARRIER_UID 17 77 with
  nfc := { small.nfc with carriers := [((17, 0), blank)] } }

theorem wit_carriers : small.Inv ∧ small.fli .PRESENT 17 = false ∧ slotted.Inv ∧ mwf slotted.nfc.carriers = true ∧
    slotted.draining = false ∧ mget slotted.nfc.carriers (17, 0) = some blank ∧ slotted.rdi .ID_STATE 17 = 2 ∧
    slotted.chanWorks 17 = false ∧ slotted.chanWorks (18 + 17) = false ∧ (slotted.wri .CH_STATE 17 1).Inv ∧
    (slotted.wri .CH_STATE 17 1).chanWorks 17 = true ∧ small.fli .SLOT_PWR 17 ≠ false := by unfold State.Inv; decide +kernel

/-! ## Data integrity -/

/-- A line of object 5 whose ladder reads its home. -/
def climbing : State := { small with
  md := { small.md with fmap := [((0, 0), { zeroPage with st := .t1, frame := fr 0, home := 2 ^ 32 })] }
  fch := fchNone, nfc := { small.nfc with homes := [((2 ^ 32, 2), [(4, ⟨55, .good⟩)])] }
  int := { small.int with ladders := [⟨1024 * fr 0 + 132, false, false, 0⟩] } }

/-- The same past its deadline. -/
def lateClimb : State := { climbing with int := { small.int with ladders := [⟨1024 * fr 0 + 132, false, true, 0⟩] } }

/-- The same with a load that waits. -/
def loadClimb : State := { climbing with
  fch := { fchNone with mrs := [((0, 0), ⟨1024 * fr 0 + 132, 5, 0, .fill, ⟨0, .good⟩, [⟨.host load9, false, 0, 0, false⟩], 1⟩)] } }

/-- The same waiting for the twin's line under tag 3. -/
def twinClimb : State := { climbing.setf .MIR_STATUS_LINK_UP true with
  mir := { small.mir with fetches := [(3, (5, 132))] }
  int := { small.int with ladders := [⟨1024 * fr 0 + 132, true, false, 3⟩] } }

theorem wit_ladder : climbing.Inv ∧ climbing.draining = false ∧ climbing.lineCtx (1024 * fr 0 + 132) = some ⟨5, 0, 2, 0, obj5⟩ ∧
    (climbing.mapE 0).cpSt 2 = 0 ∧ mget climbing.nfc.homes ((climbing.mapE 0).home, 2) = some [((1024 * fr 0 + 132) % 64, ⟨55, .good⟩)] ∧
    lateClimb.Inv ∧ lateClimb.draining = false ∧ lateClimb.lineCtx (1024 * fr 0 + 132) = some ⟨5, 0, 2, 0, obj5⟩ ∧
    loadClimb.draining = false ∧ loadClimb.mute 0 = false ∧ twinClimb.Inv ∧ twinClimb.draining = false ∧ twinClimb.mirUp = true := by
  unfold State.Inv; decide +kernel

/-- A line due for a verify read, on twelve serving channels. -/
def verifying : State := { dramOn with int := { small.int with verify := [1024 * fr 0 + 132] } }

theorem wit_verifyRead : verifying.Inv ∧ verifying.flipHere (1024 * fr 0 + 132) = false ∧ verifying.remapped (1024 * fr 0 + 132) = false ∧
    verifying.int.known = [] ∧ verifying.fl .REMAP_EN = true ∧ verifying.fli .VALID (32 * verifying.chOf (1024 * fr 0 + 132)) = false ∧
    1024 * fr 0 + 132 < 2 ^ 32 ∧ verifying.rdi .REMAP_USED (verifying.chOf (1024 * fr 0 + 132)) < 32 ∧
    verifying.devMarked (verifying.locate (1024 * fr 0 + 132)) 9 = false ∧ verifying.chOf (1024 * fr 0 + 132) < 12 := by
  unfold State.Inv; decide +kernel

/-- Two code pages wait for their page-code lines. -/
def recoding : State := { small with int := { small.int with recode := [(fr 0, 2), (fr 0, 3)], pcLost := [(fr 0, 2)] } }

theorem wit_recodeWrite : recoding.Inv ∧ recoding.draining = false := by unfold State.Inv; decide +kernel

theorem wit_flipArmWrite : small.Inv ∧ small.draining = false ∧ small.fl .FLIP_ARM = false ∧ small.obj? 9 = none ∧
    (small.setf .FLIP_ARM true).Inv ∧ (small.setf .FLIP_ARM true).draining = false ∧ (small.setf .FLIP_ARM true).fl .FLIP_ARM = true := by
  unfold State.Inv; decide +kernel

/-! ## The twin mirror -/

theorem wit_mirrorPhyUp : small.Inv ∧ small.draining = false ∧ small.mir.phyHold = false ∧ small.mir.bring = .down ∧
    bit (small.rd .MIR_PORTS) 0 = true ∧ small.waits = [] ∧ small.fences = [] := by unfold State.Inv; decide +kernel

/-- A link in bring-up at a stage. -/
def bringing (b : Bring) (p : Option Hello) : State := { small.wr .PAIR_ID 77 with
  mir := { small.mir with bring := b, phy := 1, ports := 1, peer := p } }

/-- The partner's HELLO with a pair and a side. -/
def partner (pair side : Nat) : Hello := ⟨12, pair, side, 0, 1, false, 0, false, false⟩

theorem wit_hello : (bringing .hello none).mir.bring = .hello ∧ bit (bringing .hello none).mirrorUp 0 = true ∧
    (bringing .hello none).mirrorUp = 2 ^ 0 := by decide +kernel

/-- At SPDM with a partner. -/
def atSpdm (pair side : Nat) : State := bringing .spdm (some (partner pair side))

/-- The partner's HELLO came across a crossed cable. -/
def crossed4 : State := { atSpdm 77 1 with mir := { (atSpdm 77 1).mir with crossed := true } }

theorem wit_mirrorSpdm : (atSpdm 78 1).Inv ∧ (atSpdm 78 1).draining = false ∧ (atSpdm 78 1).fl .TRNG_FAIL = false ∧
    (atSpdm 78 1).waits = [] ∧ (atSpdm 78 1).fences = [] ∧ (atSpdm 78 1).rd .PAIR_ID ≠ 78 ∧
    (atSpdm 77 0).Inv ∧ (atSpdm 77 0).draining = false ∧ (atSpdm 77 0).rd .PAIR_ID = 77 ∧ (atSpdm 77 0).rd .ID_SIDE = 0 ∧
    crossed4.Inv ∧ crossed4.draining = false ∧ crossed4.fl .TRNG_FAIL = false ∧ crossed4.rd .PAIR_ID = 77 ∧ 1 ≠ crossed4.rd .ID_SIDE := by
  unfold State.Inv; decide +kernel

theorem wit_mirrorSpdmPasses : (atSpdm 77 1).draining = false ∧ (atSpdm 77 1).fl .TRNG_FAIL = false ∧ (atSpdm 77 1).rd .PAIR_ID = 77 ∧
    1 ≠ (atSpdm 77 1).rd .ID_SIDE ∧ (atSpdm 77 1).mir.crossed = false ∧ 1 = (atSpdm 77 1).mir.ports ∧ false = (atSpdm 77 1).mir.half ∧
    ((atSpdm 77 1).wr .PARTNER_UID 12).rd .PARTNER_UID = 12 := by decide +kernel

/-- At the exchange, with no object; the partner is SOLO or not. -/
def atRoles (st : Nat) : State := { (bringing .roles (some { partner 77 1 with state := st })) with md := metaNone }

theorem wit_step5 : (atRoles 2).Inv ∧ (atRoles 2).draining = false ∧ (atRoles 2).md.ledger = [] ∧ (atRoles 2).waits = [] ∧
    (atRoles 2).fences = [] ∧ (atRoles 2).canJournal = true ∧ (atRoles 2).mir.takenOver = [] ∧
    (atRoles 2).rd .STATE ≠ mirSolo ∧ ((atRoles 2).wr .STATE 2).rd .STATE = mirSolo ∧ (atRoles 2).mir.pend = none := by
  unfold State.Inv; decide +kernel

/-- The mirror link is up over E0. -/
def linked : State := { (small.setf .MIR_STATUS_LINK_UP true).wr .STATE 1 with mir := { small.mir with bring := .up, phy := 1, ports := 1 } }

theorem wit_mirrorPortPhyDown : linked.Inv ∧ linked.draining = false ∧ linked.mir.phy = 2 ^ 0 ∧ bit linked.mir.ports 0 = true ∧
    linked.mir.bring = .up ∧ linked.fl .MIR_STATUS_LINK_UP = true ∧ linked.unacked = [] ∧ linked.mir.staged = [] ∧ linked.waits = [] ∧
    linked.fences = [] := by unfold State.Inv; decide +kernel

/-- Object 5 is a replica whose first page is resident and charged at code page 2. -/
def replica : State := { linked with
  md := { small.md with ledger := [((5, 0), { obj5 with kind := 2 })]
                        fmap := [((0, 0), ({ zeroPage with st := .t1, frame := fr 0, home := 2 ^ 32 } : MapE).setCp 2 1)] }
  fch := fchNone }

/-- The first record of lane 5 for line 5 of that code page. -/
def record1 : MRec := ⟨1, 5, 5, .data, 2, 0, 32, [(5, 99)], [], 0, [0], false⟩

theorem wit_record : replica.Inv ∧ mwf replica.mir.rxLsn = true ∧ mwf replica.mir.rxMark = true ∧ replica.fl .MIR_STATUS_LINK_UP = true ∧
    replica.draining = false ∧ replica.mir.held = [] ∧ replica.mir.applied = [] ∧ (mget replica.mir.rxLsn (5, 0)).getD 0 = 0 % 2 ^ 32 ∧
    1 = replica.rd .TWIN_APPLIED + 1 ∧ (mget replica.mir.rxMark (5, 0)).getD 0 < 1 ∧ replica.obj? 5 = some { obj5 with kind := 2 } ∧
    2 / 16 < obj5.pages ∧ replica.mir.rxUnmatched = [] ∧ (replica.mapE 0).st = .t1 ∧ (replica.mapE 0).cpSt (2 % 16) = 1 ∧
    replica.mir.rxGap = [] ∧ replica.fl .RESYNC_BUSY = false ∧ mget replica.mir.tagRun (5, 0) = none := by unfold State.Inv; decide +kernel

/-- One record is sent and not acknowledged. -/
def sent1 : State := { (linked.wr .RETX_RECORDS 1).wr .SSN_ISSUED 1 with mir := { linked.mir with retx := [record1], ssnBlockSettled := 2 ^ 32 } }

theorem wit_ack : sent1.Inv ∧ sent1.fl .MIR_STATUS_LINK_UP = true ∧ sent1.draining = false ∧ sent1.mir.sendq = [] ∧ sent1.mir.opn = [] ∧
    sent1.mir.pass = 0 ∧ sent1.mir.retry = [] ∧ sent1.mir.inflight = [] ∧ sent1.fl .RESYNC_BUSY = false ∧ sent1.waits = [] ∧
    sent1.fences = [] ∧ mwf sent1.mir.solo = true ∧ sent1.mir.staged = [] := by unfold State.Inv; decide +kernel

theorem wit_keepalive : linked.mir.refused = false ∧ bit linked.mirrorUp 0 = true := by decide +kernel

theorem wit_fetchReq : replica.lineAt { obj5 with kind := 2 } 5 7 = some ⟨0, .good⟩ := by decide +kernel

/-- The mirror has its port, and no link. -/
def lonely : State := { small with mir := { small.mir with ports := 1 } }

theorem wit_heartbeat : lonely.Inv ∧ lonely.waits = [] ∧ lonely.fences = [] ∧ lonely.mir.ports ≠ 0 ∧ lonely.fl .MIR_STATUS_LINK_UP = false ∧
    lonely.mir.drainSeen = false := by unfold State.Inv; decide +kernel

theorem wit_heartbeatToggle : (small.wr .RAIL_EN_OUT 4).rd .RAIL_EN_OUT ≠ 0 := by decide +kernel

theorem wit_drain : linked.mir.ports ≠ 0 := by decide +kernel

/-- SOLO after a drain notice, with a replica. -/
def alone : State := { small.wr .STATE 2 with md := replica.md, mir := { small.mir with drainSeen := true } }

/-- SOLO by a lost heartbeat and the grant. -/
def granted : State := { (alone.setf .HB_ALIVE false).setf .GRANT true with mir := small.mir }

theorem wit_takeover : alone.Inv ∧ mwf alone.md.ledger = true ∧ alone.draining = false ∧ alone.rd .STATE = mirSolo ∧
    alone.mir.drainSeen = true ∧ alone.canJournal = true ∧ small.rd .STATE ≠ mirSolo ∧
    granted.rd .STATE = mirSolo ∧ granted.fl .HB_ALIVE = false ∧ granted.fl .GRANT = true ∧ granted.canJournal = true ∧ granted.Inv := by unfold State.Inv; decide +kernel

theorem wit_noRoom : (small.own? 5).isSome = true := by decide +kernel

/-- Object 5 is unmatched on a link that is up. -/
def unmatched5 : State := { linked with mir := { linked.mir with unmatched := [5], ssnBlockSettled := 2 ^ 32 } }

theorem wit_retryMatch : unmatched5.Inv ∧ unmatched5.draining = false ∧ unmatched5.fl .MIR_STATUS_LINK_UP = true ∧ unmatched5.mir.flow = [] ∧
    unmatched5.mir.retry = [] ∧ (unmatched5.own? 5).isSome = true ∧ unmatched5.mir.opn = [] ∧ unmatched5.mir.sendq = [] ∧
    unmatched5.mir.retx = [] ∧ unmatched5.rd .SSN_ISSUED + 1 < 2 ^ 64 := by unfold State.Inv; decide +kernel

/-- A resync under way. -/
def resyncing (pass : Nat) (ids : List Nat) (ks : List Key) : State := { linked.setf .RESYNC_BUSY true with
  mir := { linked.mir with ssnBlockSettled := 2 ^ 32, pass := pass, passIds := ids, toSend := ks } }

theorem wit_resyncPageSend : (resyncing 1 [5] []).Inv ∧ (resyncing 1 [5] []).draining = false ∧ (resyncing 1 [5] []).fl .MIR_STATUS_LINK_UP = true ∧
    (resyncing 1 [5] []).fl .RESYNC_BUSY = true ∧ (resyncing 1 [5] []).ssnReady = true ∧ (resyncing 1 [5] []).rd .SSN_ISSUED + 1 < 2 ^ 64 ∧
    (resyncing 1 [5] []).obj? 5 = some obj5 ∧ (resyncing 1 [] []).Inv ∧ (resyncing 1 [] []).ssnReady = true ∧
    (resyncing 3 [] [(5, 1)]).Inv ∧ (resyncing 3 [] [(5, 1)]).ssnReady = true ∧ 1 < obj5.pages := by unfold State.Inv; decide +kernel

/-! ## Remote access -/

/-- A context record: domain 0, MTU 1,024, 3 retries, RNR retries without end, 16 READs. -/
def ctxWords : List Nat := [3 * 2 ^ 24 + 3 * 2 ^ 27 + 7 * 2 ^ 30 + 2 ^ 33 + 16 * 2 ^ 48, 0, 40, 0, 0, 0, 0, 0, 0, 0, 0, 0, 0, 0, 0, 0]

/-- The context made of it. -/
def ctx0 : RCtx := State.reset.newCtx ctxWords

/-- A key for all of volatile object 6 with every right. -/
def key6 : List Nat := [6 + 7 * 2 ^ 40, 0, 0, 65536]

/-- One context, one key. -/
def remote : State := { ((small.wri .MAC 0 77).wri .IPV4 0 99).wr .PORT_EN 1 with
  rae := { small.rae with ctxs := [((3, 0), ctx0)], keys := [((1, 0), key6)] } }

/-- A packet for it. -/
def pkt (op len cmp swap : Nat) (data : List Nat) : Pkt :=
  ⟨0, 77, false, 99, 0x10003, op, 40, true, false, false, false, 2 ^ 16, 16, len, swap, cmp, data, []⟩

/-- The cached line of object 6. -/
def line6 : CLine := ⟨1024 * fr 1, 6, 0, false, false, 7⟩

/-- Its place in the front cache. -/
def way6 : Key := (setOf (1024 * fr 1), 6)

theorem wit_soleCtx : SoleCtx remote 3 ctx0 := by constructor <;> decide +kernel

theorem wit_arrives : Arrives remote 3 ctx0 (pkt 0xA 8 0 0 [1, 2, 3, 4, 5, 6, 7, 8]) ∧ Arrives remote 3 ctx0 (pkt 4 0 0 0 []) ∧
    Arrives remote 3 ctx0 (pkt 0x0C 8 0 0 []) ∧ Arrives remote 3 ctx0 (pkt 0x13 8 0 5 []) := by
  refine ⟨?_, ?_, ?_, ?_⟩ <;> constructor <;> decide +kernel

theorem wit_oneLine6 : OneLine remote 6 16 8 obj6 (1024 * fr 1) way6 line6 := by
  constructor <;> first | exact ⟨by decide +kernel, by decide +kernel⟩ | decide +kernel

theorem wit_storable6 : Storable remote 0 6 16 (1024 * fr 1) obj6 line6 := by constructor <;> decide +kernel

theorem wit_packets : remote.Inv ∧ ctx0.sq = [] ∧ ctx0.trigEn = false ∧ 0 < ctx0.maxRd ∧ remote.atomicHolds 6 (16 / 65536) = false ∧
    remote.keyAt ctx0 (2 ^ 16) 1 16 8 = some (6, obj6, 16) ∧ remote.keyAt ctx0 (2 ^ 16) 0 16 8 = some (6, obj6, 16) ∧
    remote.keyAt ctx0 (2 ^ 16) 2 16 8 = some (6, obj6, 16) ∧ remote.keyAt ctx0 (2 ^ 17) 1 16 8 = none ∧
    bits line6.data.toNat (8 * (16 % 64)) 64 = 0 ∧ remote.addrOk { pkt 0xA 8 0 0 [] with mac := 78 } = false := by
  unfold State.Inv; decide +kernel

/-- The context keeps the result of the atomic before. -/
def replay : State := { remote with rae := { remote.rae with ctxs := [((3, 0), { ctx0 with atomics := [(39, 258)] })] } }

theorem wit_duplicate : replay.Inv ∧ replay.addrOk (pkt 0x14 8 0 0 []) = true ∧ 0 < psnAfter 39 40 ∧ psnAfter 39 40 ≤ 8192 := by
  unfold State.Inv; decide +kernel

theorem wit_soleReplay : SoleCtx replay 3 { ctx0 with atomics := [(39, 258)] } := by constructor <;> decide +kernel

/-- A WRITE of the context's trigger slot at object 6, offset 0, with SETTLE and FETCH bits as given. -/
def req (st : RqSt) (op : Nat) (settle : Bool) : TReq := ⟨3, 0, 6, 0, op + 256 + 512 * b2n settle, 40, 1, st, [], 0, 0, 0⟩

/-- The context with that request. -/
def ctxReq (r : TReq) (at' : Option Nat) (tries : Nat) : RCtx := { ctx0 with sq := [r], spsn := 41, rnrAt := at', retries := tries }

/-- The machine with it. -/
def asking (c : RCtx) : State := { remote with rae := { remote.rae with ctxs := [((3, 0), c)] } }

theorem wit_requests : (asking (ctxReq (req .sent 1 false) none 0)).Inv ∧ (req .sent 1 false).op ≠ 3 ∧ bit (req .sent 1 false).slot 11 = false ∧
    (req .sent 1 false).settle = false ∧ (req .sent 1 true).settle = true ∧ (ctxReq (req .sent 1 false) none 0).spsn = (40 + 1) % 2 ^ 24 ∧
    (ctxReq (req .sent 1 false) none 0).trigEn = false ∧ (asking (ctxReq (req .sent 1 false) none 0)).atomicHolds 6 (0 / 65536) = false ∧
    obj6.mirror = false ∧ 0 + 64 ≤ obj6.size ∧ (asking (ctxReq (req .settling 1 true) none 0)).Inv ∧ ctx0.rnrRetry = 7 ∧ 0 < ctx0.retryCnt ∧ ctx0.retryCnt ≤ 3 ∧
    (asking (ctxReq (req .sent 1 true) (some 40) 0)).Inv := by unfold State.Inv; decide +kernel

theorem wit_soleAsking : SoleCtx (asking (ctxReq (req .sent 1 false) none 0)) 3 (ctxReq (req .sent 1 false) none 0) ∧
    SoleCtx (asking (ctxReq (req .settling 1 true) none 0)) 3 (ctxReq (req .settling 1 true) none 0) ∧
    SoleCtx (asking (ctxReq (req .sent 1 true) (some 40) 0)) 3 (ctxReq (req .sent 1 true) (some 40) 0) ∧
    SoleCtx (asking (ctxReq { req .sent 1 true with obj := 9 } none 3)) 3 (ctxReq { req .sent 1 true with obj := 9 } none 3) := by
  refine ⟨?_, ?_, ?_, ?_⟩ <;> constructor <;> decide +kernel

theorem wit_slotLine : OneLine (asking (ctxReq (req .sent 1 false) none 0)) 6 0 64 obj6 (1024 * fr 1) way6 line6 ∧
    Storable (asking (ctxReq (req .sent 1 false) none 0)) 0 6 0 (1024 * fr 1) obj6 line6 ∧
    OneLine (asking (ctxReq (req .settling 1 true) none 0)) 6 0 64 obj6 (1024 * fr 1) way6 line6 ∧
    (asking (ctxReq { req .sent 1 true with obj := 9 } none 3)).own? 9 = none := by
  refine ⟨?_, ?_, ?_, by decide +kernel⟩ <;> constructor <;>
    first | exact ⟨by decide +kernel, by decide +kernel⟩ | decide +kernel

def lineIs (t : State) (r : TReq) (st mark : Nat) : Bool := (mget t.fch.lines way6) == some (line6.store (BitVec.ofNat 512 (setBits (setBits (setBit r.slot 8 false) 384 8 st) 448 64 mark)) fullMask false)

/-- A READ of two packets in flight. -/
def reading : TReq := ⟨3, 0, 6, 0, 3 + 256 + 2000 * 2 ^ 160, 40, 2, .sent, [], 0, 0, 0⟩

/-- Its context. -/
def ctxRead : RCtx := { ctx0 with sq := [reading], spsn := 42, retries := 2 }

theorem wit_readResponse : SoleCtx (asking ctxRead) 3 ctxRead ∧ (asking ctxRead).Inv ∧ reading.op = 3 ∧ ctxRead.mtu < reading.len ∧
    (List.replicate 1024 9).length = ctxRead.mtu ∧ ctxRead.trigEn = false := by
  refine ⟨by constructor <;> decide +kernel, ?_⟩; unfold State.Inv; decide +kernel

theorem wit_congestion : (remote.setf .CC_EN true).Inv ∧ (remote.setf .CC_EN true).fl .CC_EN = true ∧ remote.netPort 0 = true ∧
    remote.draining = false ∧ (remote.setf .PFC_EN true).fl .PFC_EN = true ∧ (remote.setf .PFC_EN true).netPort 0 = true := by
  unfold State.Inv; decide +kernel

theorem wit_soleCongestion : SoleCtx (remote.setf .CC_EN true) 3 ctx0 := by constructor <;> decide +kernel

/-- The context is being fetched. -/
def fetching : State := asking { ctx0 with chip := false, fetching := true }

theorem wit_contextFetchDone : SoleCtx { fetching with rae := { fetching.rae with ctxs := [((3, 0), ctx0)] } } 3 ctx0 ∧ fetching.Inv := by
  refine ⟨by constructor <;> decide +kernel, ?_⟩; unfold State.Inv; decide +kernel

theorem wit_networkPortPhyUp : (remote.wr .SEQ_STATE seqOn).Inv ∧ (remote.wr .SEQ_STATE seqOn).fabricUp = true ∧
    (remote.wr .SEQ_STATE seqOn).netPort 0 = true ∧ (remote.wr .SEQ_STATE seqOn).draining = false := by unfold State.Inv; decide +kernel

/-- The record stands in RAE_CTX_DATA. -/
def withRec (ws : List Nat) (s : State) : State :=
  (List.range 16).foldl (fun s i => s.wri .RAE_CTX_DATA_DATA i (ws.getD i 0)) s

/-- No context. -/
def noCtx : State := { withRec ctxWords remote with rae := { remote.rae with ctxs := [] } }

theorem wit_ctxCreate : noCtx.Inv ∧ noCtx.draining = false ∧ ctxFields noCtx.ctxData = true ∧ noCtx.trigOk noCtx.ctxData = true ∧
    small.rae.ctxs = [] ∧ small.rae.flush = [] ∧ ctxFields small.ctxData = false := by unfold State.Inv; decide +kernel

theorem wit_ctxModify : (withRec ctxWords remote).Inv ∧ SoleCtx (withRec ctxWords remote) 3 ctx0 ∧
    ctxFields (withRec ctxWords remote).ctxData = true ∧
    (∀ i, i < 9 → ((withRec ctxWords remote).ctxData.getD i 0 ^^^ ctx0.w i) &&& (2 ^ 64 - 1 - (modMask ctx0.trigEn).getD i 0) = 0) ∧
    (withRec ctxWords remote).pinFull (withRec ctxWords remote).ctxData ctx0.pin = false ∧ ctx0.w 0 + 1 < 2 ^ 64 ∧ ctx0.count < 2 ^ 64 := by
  refine ⟨?_, by constructor <;> decide +kernel, ?_⟩; · unfold State.Inv; decide +kernel
  · decide +kernel

/-- The context is in error. -/
def inError : State := withRec ctxWords (asking { ctx0 with err := true, count := 8 })

theorem wit_ctxReset : inError.Inv ∧ inError.draining = false ∧ ctxFields inError.ctxData = true ∧ inError.trigOk inError.ctxData = true ∧
    inError.pinFull inError.ctxData ctx0.pin = false := by unfold State.Inv; decide +kernel

/-- A key record for object 6 stands in RAE_CTX_DATA. -/
def keyRec : State := withRec [6 + 7 * 2 ^ 40, 0, 5, 65536] { remote with rae := { remote.rae with ctxs := [] } }

theorem wit_keyCreate : keyRec.Inv ∧ keyRec.draining = false ∧ mwf keyRec.rae.keys = true ∧ mget keyRec.rae.keys (2, 0) = none ∧
    keyRec.ctxData.getD 0 0 < 2 ^ 44 ∧ keyRec.ctxData.getD 1 0 = 0 ∧ bits (keyRec.ctxData.getD 3 0) 0 48 = 65536 ∧
    keyRec.own? (bits (keyRec.ctxData.getD 0 0) 0 32) = some obj6 ∧ obj6.canRead (bits (keyRec.ctxData.getD 0 0) 32 8) = true ∧
    obj6.canWrite (bits (keyRec.ctxData.getD 0 0) 32 8) = true ∧ obj6.size = 65536 ∧ mget keyRec.rae.keys (1, 0) = some key6 := by
  unfold State.Inv; decide +kernel

/-! ## Cipher and identity -/

theorem wit_clusterFence : small.Inv ∧ small.draining = false ∧ 3 ≠ small.rd .CLUSTER_FENCE ∧ bit 3 7 = false ∧
    bit (small.rd .CLUSTER_FAULT) 7 = false ∧ (∀ i, i < 8 → (bit 255 i || bit (small.rd .CLUSTER_FAULT) i) = true) ∧
    255 ≠ small.rd .CLUSTER_FENCE ∧ small.fl .TRNG_FAIL = false := by unfold State.Inv; decide +kernel

theorem wit_tlRandomRead : (small.wri .LD_EN (ldIx 0 0) 1).fli .LD_EN (ldIx 0 0) = true ∧
    ((small.wri .LD_EN (ldIx 0 0) 1).setf .TRNG_FAIL true).fl .TRNG_FAIL = true := by decide +kernel

/-- Domain 1 owns slot 9; its page holds a blob sealed for that slot and mode 2 under key-encryption key 0x0123456789ABCDEF:
31 bytes 5, a byte 6 and 32 bytes 0. -/
def teller : State := { small.wri .OWNER 9 1 with sec := { small.sec with
  dkek := [((1, 0), 0x0123456789ABCDEF)]
  blob := [((1, 2), 15161906909950023610), ((1, 3), 15402436183828525073), ((1, 4), 7830043699140394024),
    ((1, 5), 968144531293304212), ((1, 6), 7631211207638326537), ((1, 7), 14945353829426019838), ((1, 8), 3794369083832087686),
    ((1, 9), 4930921446064687149), ((1, 10), 12604051394440716486), ((1, 11), 14108196095463121400)] } }

/-- The machine where domain 1 owns slot 9. -/
def slot9 : State := small.wri .OWNER 9 1

theorem wit_teller : slot9.Inv ∧ slot9.draining = false ∧ slot9.rdi .OWNER 9 = 1 ∧ slot9.rdi .REFS 9 = 0 ∧
    mget slot9.sec.dkek (1, 0) = none ∧ mwf slot9.sec.keys = true ∧ (slot9.wri .REFS 9 1).Inv ∧ (slot9.wri .REFS 9 1).rdi .REFS 9 ≠ 0 ∧
    (slot9.wri .REFS 9 1).rdi .OWNER 9 = 1 ∧ slot9.rdi .OWNER 9 ≠ 2 := by unfold State.Inv; decide +kernel

theorem wit_tellerOpens : (teller.unwrap 1 9 2 0x0123456789ABCDEF).any (fun x => (x.drop 32).all (· == 0)) = true := by decide +kernel

/-- The same for a blob of 64 bytes 5. -/
def wide : State := { teller with sec := { teller.sec with
  blob := [((1, 2), 15161906909950023610), ((1, 3), 15402436183828525073), ((1, 4), 7830043699140394024),
    ((1, 5), 1040202125331232148), ((1, 6), 7845982125227907084), ((1, 7), 14586478710119151867), ((1, 8), 3579600365131936131),
    ((1, 9), 4713900927685201192), ((1, 10), 1449989576508420393), ((1, 11), 16712407423832619913)] } }

theorem wit_tellerWide : wide.Inv ∧ wide.draining = false ∧ wide.rdi .OWNER 9 = 1 ∧ wide.rdi .REFS 9 = 0 ∧
    (mget wide.sec.dkek (1, 0)).isSome = true ∧ (wide.unwrap 1 9 2 (wide.domKek 1)).any (fun x => (x.drop 32).any (· != 0)) = true := by
  unfold State.Inv; decide +kernel

theorem wit_tellerFails : teller.unwrap 1 9 1 0x0123456789ABCDEF = none := by decide +kernel

theorem wit_tellerState : teller.Inv ∧ teller.draining = false ∧ teller.rdi .OWNER 9 = 1 ∧
    teller.rdi .REFS 9 = 0 ∧ (mget teller.sec.dkek (1, 0)).isSome = true ∧ teller.domKek 1 = 0x0123456789ABCDEF := by
  unfold State.Inv; decide +kernel

/-- The fabric is up and the owner's session 0 is open. -/
def owned : State := { small.wr .SEQ_STATE 4 with sec := { small.sec with sessions := [(0, true)] } }

/-- A sound image. -/
def image : Img := ⟨0, 3, true, 55⟩

/-- A sound configuration copy. -/
def copy1 : Copy := ⟨4, 0, true, [], [], []⟩

theorem wit_spdm : owned.Inv ∧ owned.fabricUp = true ∧ owned.fl .TRNG_FAIL = false ∧ owned.sec.sessions.length < 8 ∧
    mwf owned.sec.dkek = true ∧ owned.ownerSession 0 = true ∧ owned.ownerSession 1 = false ∧ mwf owned.boot.imgs = true ∧
    owned.imgValid image = true ∧ owned.imgValid { image with sound := false } = false ∧ owned.sec.recovery = false ∧
    owned.boot.copyA = none ∧ owned.boot.copyB = none ∧ owned.fl .SPI_B_BAD = false ∧ owned.fl .SPI_B_FAIL = false ∧
    owned.copyValid copy1 = true ∧ owned.copyValid { copy1 with sound := false } = false ∧ owned.draining = false := by
  unfold State.Inv; decide +kernel

theorem wit_keyExchangeRefused : (owned.setf .TRNG_FAIL true).Inv ∧ (owned.setf .TRNG_FAIL true).fl .TRNG_FAIL = true ∧
    (owned.setf .TRNG_FAIL true).fabricUp = true := by unfold State.Inv; decide +kernel

/-! ## Power supervision -/

/-- The supervisor in a state, with rails on and good as masks. -/
def power (q on good : Nat) : State := { (small.wr .SEQ_STATE q).wr .RAIL_EN_OUT on with pwr := { small.pwr with good := good } }

theorem wit_pwrReqAssert : (power seqOff 0 0).Inv ∧ (power seqOff 0 0).fl .PWR_REQ_IN = false ∧ (power seqOff 0 0).pwr.corePend = [] ∧
    (power seqOff 0 0).rd .SEQ_STATE = seqOff ∧ (power seqLock 0 0).Inv ∧ (power seqLock 0 0).fl .PWR_REQ_IN = false ∧
    (power seqLock 0 0).rd .SEQ_STATE = seqLock ∧ (power seqDown 1 1).Inv ∧ (power seqDown 1 1).rd .SEQ_STATE = seqDown ∧
    (power seqDown 1 1).fl .PWR_REQ_IN = false ∧ (power seqOff 0 0).fli .EN 0 = true ∧ (power seqOff 0 0).railOn 0 = false ∧
    (∀ q, q < 6 → (power seqOff 0 0).fli .EN q = true → (power seqOff 0 0).rdi .UP_STEP 0 ≤ (power seqOff 0 0).rdi .UP_STEP q) := by
  unfold State.Inv; decide +kernel

theorem wit_railGood : (power seqCore 1 0).Inv ∧ (power seqCore 1 0).railOn 0 = true ∧ (power seqCore 1 0).railGood 0 = false ∧
    (power seqCore 1 0).rd .SEQ_STATE ≠ seqBoard := by unfold State.Inv; decide +kernel

theorem wit_upStepDelay : (power seqCore 1 1).Inv ∧ (power seqCore 1 1).rd .SEQ_STATE = seqCore ∧ (power seqCore 1 1).stepGood = true ∧
    (power seqCore 1 1).fli .EN 1 = true ∧ (power seqCore 1 1).railOn 1 = false ∧ (power seqCore 1 1).railDone 1 = false ∧
    (∀ q, q < 6 → (power seqCore 1 1).fli .EN q = true → (power seqCore 1 1).railOn q = false → (power seqCore 1 1).railDone q = false →
      (power seqCore 1 1).rdi .UP_STEP 1 ≤ (power seqCore 1 1).rdi .UP_STEP q) := by unfold State.Inv; decide +kernel

theorem wit_corePhaseEnd : (power seqCore 63 63).Inv ∧ (power seqCore 63 63).rd .SEQ_STATE = seqCore ∧ (power seqCore 63 63).stepGood = true ∧
    (∀ r, r < 6 → (power seqCore 63 63).fli .EN r = true → (power seqCore 63 63).railOn r = true) := by unfold State.Inv; decide +kernel

/-- Rail 9 is the one board rail; WHISTLE_EN is 0. -/
def awaiting (q : Nat) : State := ((power q 63 63).wri .EN 9 1).setf .WHISTLE_EN false

theorem wit_configWaitTimeout : (awaiting seqAwait).Inv ∧ (awaiting seqAwait).rd .SEQ_STATE = seqAwait ∧ (awaiting seqAwait).fl .WHISTLE_EN = false ∧
    (awaiting seqAwait).fli .EN 9 = true ∧ (awaiting seqAwait).railOn 9 = false ∧ (awaiting seqAwait).railDone 9 = false ∧
    (∀ q, q < 24 → 6 ≤ q → (awaiting seqAwait).fli .EN q = true → (awaiting seqAwait).rdi .UP_STEP 9 ≤ (awaiting seqAwait).rdi .UP_STEP q) := by
  unfold State.Inv; decide +kernel

/-- The board phase waits for the whistle sync. -/
def syncing : State := { power seqBoard 63 63 with pwr := { small.pwr with good := 63, syncing := true } }

theorem wit_whistleSync : syncing.Inv ∧ syncing.rd .SEQ_STATE = seqBoard ∧ syncing.pwr.syncing = true ∧
    (∀ r, r < 24 → 6 ≤ r → syncing.fli .EN r = true → syncing.railOn r = true) ∧ syncing.draining = false ∧ syncing.pwr.rdyUp = false ∧
    syncing.fl .FF_VALID = false := by unfold State.Inv; decide +kernel

/-- ON, with rail 9 good or not and a reaction. -/
def on9 (good reaction : Nat) : State := ((((power seqOn (63 + 2 ^ 9) (63 + good)).wri .EN 9 1).wri .REACTION 9 reaction).wri .CHATTER_NOW 9 8).wri .PMBUS_EN 9 1

theorem wit_railFaults : (on9 0 0).Inv ∧ (on9 0 0).railOn 9 = true ∧ (on9 0 0).rd .SEQ_STATE = seqOn ∧ (on9 0 0).railGood 9 = false ∧
    bit (on9 0 0).pwr.ign 9 = false ∧ (on9 0 0).rdi .CHATTER_LIMIT 9 ≤ (on9 0 0).rdi .CHATTER_NOW 9 ∧ (on9 0 0).rdi .CHATTER_NOW 9 < 31 ∧
    (on9 (2 ^ 9) 0).Inv ∧ (on9 (2 ^ 9) 0).railGood 9 = true ∧ (on9 0 0).fli .PMBUS_EN 9 = true ∧ (on9 0 0).reaction 9 = 0 ∧
    (on9 0 1).reaction 9 = 1 ∧ (on9 0 1).rdi .ATTEMPTS 9 < 3 ∧ (on9 0 1).Inv := by unfold State.Inv; decide +kernel

/-- Rail 9 is off and retries. -/
def retrying : State := ((power seqOn 63 63).wr .RAIL_RETRYING 512).wri .PMBUS_EN 9 1

theorem wit_railRetry : retrying.Inv ∧ bit (retrying.rd .RAIL_RETRYING) 9 = true ∧ retrying.railOn 9 = false ∧ retrying.rdi .ATTEMPTS 9 < 3 ∧
    retrying.fli .PMBUS_EN 9 = true := by unfold State.Inv; decide +kernel

theorem wit_dieOverTemperature : (power seqOn 63 63).Inv ∧ (power seqOn 63 63).draining = false ∧ (power seqOn 63 63).pwr.rdyUp = false ∧
    (power seqOn 63 63).fl .FF_VALID = false ∧ (power seqOn 63 63).rd .SEQ_STATE ∈ [seqCore, seqAwait, seqBoard, seqOn] := by
  unfold State.Inv; decide +kernel

/-- PWR_REQ is asserted. -/
def requested (q : Nat) (up : Bool) : State := { (power q 63 63).setf .PWR_REQ_IN true with pwr := { small.pwr with good := 63, rdyUp := up } }

theorem wit_pwrReqDeassert : (requested seqBoard false).Inv ∧ (requested seqBoard false).draining = false ∧
    (requested seqBoard false).fl .PWR_REQ_IN = true ∧ (requested seqBoard false).rd .SEQ_STATE ∈ [seqCore, seqAwait, seqBoard] ∧
    (requested seqOn true).Inv ∧ (requested seqOn true).draining = false ∧ (requested seqOn true).fl .PWR_REQ_IN = true ∧
    (requested seqOn true).rd .SEQ_STATE = seqOn := by unfold State.Inv; decide +kernel

theorem wit_downStepDelay : (power seqDown 63 63).Inv ∧ (power seqDown 63 63).rd .SEQ_STATE = seqDown ∧ (power seqDown 63 63).railOn 5 = true ∧
    (∀ q, q < 24 → (power seqDown 63 63).railOn q = true → (power seqDown 63 63).downKey q ≤ (power seqDown 63 63).downKey 5) ∧
    (power seqDown 0 0).Inv ∧ (power seqDown 0 0).rd .RAIL_EN_OUT = 0 ∧ (power seqDown 0 0).rd .SEQ_STATE = seqDown := by
  unfold State.Inv; decide +kernel

theorem wit_minOffEnd : (power seqMinOff 0 0).Inv ∧ (power seqMinOff 0 0).rd .SEQ_STATE = seqMinOff ∧ (power seqMinOff 0 0).pwr.corePend = [] := by
  unfold State.Inv; decide +kernel

/-- ON and synced. -/
def synced : State := { (power seqOn 63 63).setf .WHISTLE_EN true with pwr := { small.pwr with good := 63, synced := true, rdyUp := true } }

theorem wit_whistle : synced.Inv ∧ synced.draining = false ∧ synced.fl .WHISTLE_EN = true ∧ synced.pwr.synced = true ∧
    synced.fl .WHISTLE_OUT = false ∧ synced.rd .SEQ_STATE = seqOn := by unfold State.Inv; decide +kernel

theorem wit_domains : small.domOff 64 = false ∧ small.domOn 64 = false ∧ small.pwr.domRamp = [] ∧ small.pwr.domWait = [] ∧
    small.domOff 76 = true := by decide +kernel

/-! ## Daybook -/

/-- ON, with or without a flush in progress. -/
def daybook (busy : Bool) : State := { (small.wr .SEQ_STATE seqOn).setf .FLUSH_BUSY busy with dbk := { small.dbk with flushTo := if busy then some 40 else none } }

theorem wit_flushNow : (daybook false).Inv ∧ (daybook false).draining = false ∧ (daybook false).dbk.frozen = none ∧
    (daybook false).fl .FLUSH_BUSY = false ∧ (daybook false).fl .SPI_A_FAIL = false ∧ (daybook true).Inv ∧
    (daybook true).fl .FLUSH_BUSY = true ∧ (daybook true).dbk.frozen = none ∧ (daybook true).draining = false ∧
    (((daybook false).setf .SPI_A_FAIL true).setf .SPI_B_FAIL true).Inv := by unfold State.Inv; decide +kernel

theorem wit_daybookCheckpoint : (daybook false).Inv ∧ 2 ≤ (daybook false).rd .SEQ_STATE ∧ (daybook false).rd .SEQ_STATE ≤ 4 := by
  unfold State.Inv; decide +kernel

theorem wit_daybookFlushDone : (daybook true).Inv ∧ (daybook true).fl .FLUSH_BUSY = true ∧ (daybook true).dbk.flushTo = some 40 ∧
    (daybook true).dbk.flushAgain = false ∧ (daybook true).draining = false ∧ (daybook true).rd .FLUSH_CNT < 2 ^ 32 - 2 := by
  unfold State.Inv; decide +kernel

/-! ## Self-test -/

/-- A channel with one rank of 16 GiB in the set, slice 0's group 1 gated, cluster 3 fenced. -/
def bench : State := ((((small.wr .CH_ACTIVE 1).wr .RANKS 1).wr .CH_CAP_GIB 64).wri .PG_STATE 0 13).wr .CLUSTER_ACTIVE 7

/-- A test under way. -/
def testing (step : Nat) : State := { bench.setf .BST_STATUS_BUSY true with bst := ⟨6, 0, 0, 0, 0, step, false, [], [(6, 1, 2), (7, 3, 4)], false⟩ }

theorem wit_onlineTests : bench.Inv ∧ bench.draining = false ∧ bench.rowsPerBank ≤ 2 ^ 18 ∧ bench.bst.test = 0 ∧
    bench.testable 6 0 0 0 = true ∧ bench.testable 5 0 0 1 = true ∧ bench.testable 7 3 0 0 = true ∧ bench.testable 6 0 1 0 = false ∧
    bench.testable 5 0 0 2 = false ∧ bench.testable 7 2 0 0 = false := by unfold State.Inv; decide +kernel

theorem wit_abort : (testing 0).Inv ∧ (testing 0).draining = false ∧ (testing 0).bst.test ≠ 0 ∧ (testing 0).bst.step = 0 ∧
    (testing 4).Inv ∧ (testing 4).bst.test ≠ 0 ∧ (testing 4).bst.step ≠ 0 ∧ (testing 4).draining = false := by
  unfold State.Inv; decide +kernel

theorem wit_pop : (testing 0).bst.fifo = [(6, 1, 2), (7, 3, 4)] ∧ bench.bst.fifo.length ≤ 1 := by decide +kernel

theorem wit_coreOffWrite : bench.Inv ∧ bench.draining = false ∧ bit 14 0 = false ∧ ∀ k, k < 4 → bit 31 k = true := by
  unfold State.Inv; decide +kernel

/-! ## Start-up -/

/-- Awaiting the configuration, with two copies. -/
def copies (a b : Option Copy) : State := { small.wr .SEQ_STATE seqAwait with boot := { small.boot with copyA := a, copyB := b }, sec := { small.sec with meas := [((1, 0), 7)] } }

/-- A copy with one entry, of TICK_PERIOD. -/
def copyTick (seq : Nat) (sound : Bool) : Copy := ⟨seq, 0, sound, [(0x10, 2 ^ 64 - 1, 300)], [], []⟩

theorem wit_serviceFirmwareStart : (copies none none).Inv ∧ (copies none none).rd .SEQ_STATE = 2 ∧ (copies none none).boot.fwUp = false ∧
    (copies none none).sec.recovery = false ∧ (copies none none).sec.meas ≠ [] ∧ (copies none none).draining = false ∧ (copies none none).validCopy none = none ∧
    (copies none none).validCopy none = none ∧ (copies (some (copyTick 4 true)) (some (copyTick 5 false))).fl .SAFE = false ∧
    (copies (some (copyTick 4 true)) (some (copyTick 5 false))).Inv := by unfold State.Inv; decide +kernel

theorem wit_validCopy : (copies (some (copyTick 4 true)) none).validCopy (some (copyTick 4 true)) = some (copyTick 4 true) := by decide +kernel

/-- Every condition of R453 holds. -/
def readyUp : State :=
  { (((small.wr .SEQ_STATE seqOn).setf .TRAIN_DONE true).setf .MEDIA_READY true).wr .POOL_FRAMES 262144 with
    boot := { small.boot with chosen := some 4, keysRead := true, kats := true, metaDone := true } }

theorem wit_pnRdyRise : readyUp.Inv ∧ readyUp.draining = false ∧ readyUp.rd .SEQ_STATE = seqOn ∧ bit readyUp.prt.rdy 1 = false ∧
    readyUp.boot.chosen ≠ none ∧ readyUp.fl .TRAIN_DONE = true ∧ readyUp.fl .MEDIA_READY = true ∧ 262144 ≤ readyUp.rd .POOL_FRAMES ∧
    readyUp.boot.keysRead = true ∧ readyUp.boot.kats = true ∧ readyUp.boot.metaDone = true ∧ bit readyUp.prt.perst 1 = false ∧
    readyUp.fli .PORT_OFFLINE 1 = false ∧ 8 ≤ popCount (readyUp.rd .SLICE_EN) 16 ∧ readyUp.sec.recovery = false ∧
    readyUp.fl .FATAL = false ∧ readyUp.fgv.rehearsal = false ∧ readyUp.pwr.rdyUp = false := by unfold State.Inv; decide +kernel

theorem wit_pnRdyTimeout : small.Inv ∧ bit small.prt.perst 1 = false ∧ bit small.prt.rdy 1 = false ∧ bit small.prt.timedOut 1 = false ∧
    small.boot.chosen = none := by unfold State.Inv; decide +kernel

/-- Two map blocks are awaited. -/
def loading : State := { small with pwr := { small.pwr with rdyUp := true }, tpe := { small.tpe with unloaded := [0, 3] } }

theorem wit_mapBlockLoaded : loading.Inv ∧ loading.pwr.rdyUp = true ∧ loading.draining = false ∧ 3 ∈ loading.tpe.unloaded := by
  unfold State.Inv; decide +kernel

/-- A checkpoint and a record from before. -/
def past : State := { small with dbk := { small.dbk with ckA := [⟨1000, 50, 2⟩, ⟨2000, 60, 2⟩], ckB := [⟨1500, 55, 2⟩], logB := [⟨0, 32, 1, 0, 0, 70, 1, 2, []⟩] } }

theorem wit_alwaysOnPowerUp : small.Inv ∧ small.newestCkpt = none ∧ small.dbk.logA = [] ∧ small.dbk.logB = [] ∧ past.Inv ∧
    past.newestCkpt = some ⟨2000, 60, 2⟩ ∧ (∀ r, r ∈ past.dbk.logA ++ past.dbk.logB → r.seq ≤ 70) ∧
    ∃ r, r ∈ past.dbk.logA ++ past.dbk.logB ∧ r.seq = 70 := by
  unfold State.Inv; exact ⟨by decide +kernel, by decide +kernel, by decide +kernel, by decide +kernel, by decide +kernel,
    by decide +kernel, by decide +kernel, ⟨0, 32, 1, 0, 0, 70, 1, 2, []⟩, by decide +kernel, by decide +kernel⟩

theorem wit_abruptLoss : readyUp.Inv ∧ readyUp.rd .SEQ_STATE = seqOn ∧ readyUp.nfc.shadow = [] ∧ (small.wr .SEQ_STATE seqLock).Inv := by unfold State.Inv; decide +kernel

/-! ## Ticks, resets and registers -/

/-- LD 0 of link 0 is enabled in domain 0. -/
def hosted : State := small.wri .LD_EN 0 1

theorem wit_registerWrite : hosted.Inv ∧ hosted.draining = false ∧ hosted.ioServes 0 = true ∧ hosted.reaches (ldIx 0 0) 0x10 = true ∧
    hosted.reaches (ldIx 0 0) 0x28 = true := by unfold State.Inv; decide +kernel

/-- A boundary that finds nothing. -/
def quiet : TickIn := ⟨48000, [40], 63, [], [], false, [], [], [], []⟩

theorem wit_warmReset : hosted.Inv ∧ hosted.draining = false ∧ hosted.rd .WDOG_MS ≠ 0 ∧ (hosted.wr .WDOG_MS 0).rd .WDOG_MS = 0 := by
  unfold State.Inv; decide +kernel

/-- Queue pair 2 of the LD and queue pair 3 of another are enabled. -/
def enabled : State := ((((hosted.wri .CMD_QP_ASSIGN_ASSIGNED 2 1).wri .QP_EN 2 1).wri .CMD_QP_ASSIGN_ASSIGNED 3 1).wri .CMD_QP_ASSIGN_LINK 3 2).wri .QP_EN 3 1

theorem wit_functionLevelReset : enabled.Inv ∧ mwf enabled.glb.latches = true ∧ enabled.ldExists 0 0 = true := by
  unfold State.Inv; decide +kernel

theorem wit_lockout : (power seqLock 0 0).Inv ∧ (power seqLock 0 0).rd .SEQ_STATE = seqLock ∧ (power seqLock 0 0).rd .RAIL_EN_OUT = 0 ∧
    (power seqLock 0 0).rd .RAIL_RETRYING = 0 ∧ (power seqLock 0 0).draining = false ∧ (power seqLock 0 0).fl .PWR_REQ_IN = false ∧
    (Instr.pwrReqAssert false ≠ .pwrReqAssert true) ∧ ((power seqLock 0 0).setf .PWR_REQ_IN true).Inv ∧
    ((power seqLock 0 0).setf .PWR_REQ_IN true).fl .PWR_REQ_IN = true := by unfold State.Inv; decide +kernel

theorem wit_registerReach : small.fli .LD_EN (ldIx 0 0) = false ∧ (hosted.wri .PRT_LD_CFG_DOMAIN 0 9).rdi .PRT_LD_CFG_DOMAIN (ldIx 0 0) ≠ 0 ∧
    hosted.fli .CMD_QP_ASSIGN_ASSIGNED 1023 = false ∧ hosted.rdi .PRT_LD_CFG_DOMAIN (ldIx 0 0) ≠ 255 ∧ regAt (0x58 / 8 * 8) = none := by
  decide +kernel

theorem wit_registerAccesses : hosted.regFor (ldIx 0 0) 0x18 ≠ none ∧ inWindow 0x18 = false ∧ goodAccess 0x18 2 = false ∧
    mwf hosted.glb.latches = true ∧ (hosted.regFor (ldIx 0 0) 0x18).map (·.1.base) = some 0x18 ∧ goodAccess 0x18 8 = true ∧
    (hosted.setf .DRAINING true).Inv ∧ (hosted.setf .DRAINING true).draining = true ∧
    (hosted.setf .DRAINING true).regFor (ldIx 0 0) 0x18 ≠ none := by unfold State.Inv; decide +kernel

/-- R464's worked example. -/
def ticked : State := hosted.wr .TICK_NUMBER 0x1FFFFFFFF

/-! ## Line code and package -/

/-- A stored line of every status reads as its status, and a device's errors are repaired (Table 12.2). -/
theorem test_line_code :
    let l : Line := 0x0123456789abcdef0011223344556677
    let g := storedSyms l .good 0x12345
    (readSyms g 0x12345).1 = .good ∧ (readSyms (storedSyms l .poison 0x12345) 0x12345).1 = .poisoned ∧
      (readSyms (storedSyms l .marked 0x12345) 0x12345).1 = .marked ∧
      readSyms (g.mapIdx fun i v => if i / 4 = 9 then v ^^^ (3 * i) else v) 0x12345 = (.corrected 9, g) ∧
      (readSyms g 0x12385).1 ≠ .good := by decide +kernel

/-- Chapter 21's grid: positions named by its tables. -/
theorem test_balls : (ball 15 55, ballName 15 55) = (.signal "D07_A_DQ_12", "T55") ∧
    (ball 50 49, ballName 50 49) = (.signal "F23_CE_N_5", "BM49") ∧ (ball 66 54, ballName 66 54) = (.signal "P0_RDY", "CJ54") ∧
    ball 30 27 = .vdd 0 ∧ ballName 69 69 = "CM69" := by decide +kernel

end Sys2Proof.Tests
end

section
/-! SUPPORT. Operations that leave the part of block GLB (20_register_map.md) as it was: one lemma each, from its
footprint (Laws/Frame). -/

namespace Sys2Proof.Machine

/-- Every register field, and every part of the state but GLB's. -/
def offGlb : Foot := Foot.allFlds ||| (2 ^ 28 - 1 - Part.glb.foot)

/-- What stays off GLB leaves it as it was. -/
theorem glb_of_in {s t : State} (h : In offGlb s t) : t.glb = s.glb := h.parts .glb rfl

theorem glb_of_inP {α : Type} {s : State} {p : State × α} (h : InP offGlb s p) : p.1.glb = s.glb := glb_of_in h.fst

theorem Fld.le_offGlb (f : Fld) : f.foot.le offGlb = true := Foot.le_trans f.le_all rfl

/-! ### Shared bookkeeping (Machine/Ops) -/

@[simp] theorem State.reshareAll_glb (s : State) :
    s.reshareAll.glb = s.glb := glb_of_in (State.reshareAll_in (In.refl _ _) rfl)

/-! ### Records and alerts (Machine/Flags) -/

@[simp] theorem State.count_glb (s : State) (f : Fld) (i : Nat) (ovf : Fld) (oi b : Nat) :
    (s.count f i ovf oi b).glb = s.glb := glb_of_in (State.count_in (In.refl _ _) f.le_offGlb ovf.le_offGlb rfl)
@[simp] theorem State.record_glb (s : State) (cls dom rule : Nat) (items : List (Nat × Nat)) :
    (s.record cls dom rule items).glb = s.glb := glb_of_in (State.record_in (In.refl _ _) rfl)
@[simp] theorem State.alertOut_glb (s : State) :
    s.alertOut.glb = s.glb := glb_of_in (State.alertOut_in (In.refl _ _) rfl)

/-! ### Memory, frames and waits (Machine/MemOps) -/

@[simp] theorem State.chargeKey_glb (s : State) (d : Nat) (k : Key) :
    (s.chargeKey d k).glb = s.glb := glb_of_in (State.chargeKey_in (In.refl _ _) rfl)
@[simp] theorem State.dreq_glb (s : State) (la n : Nat) (wr : Bool) (tag : DTag) (cls : Nat) :
    (s.dreq la n wr tag cls).glb = s.glb := glb_of_in (State.dreq_in (In.refl _ _) rfl)
@[simp] theorem State.journal_glb (s : State) (ops : List JOp) :
    (s.journal ops).glb = s.glb := glb_of_in (State.journal_in (In.refl _ _) rfl)
@[simp] theorem State.chargeCp_glb (s : State) (ix k d : Nat) :
    (s.chargeCp ix k d).glb = s.glb := glb_of_in (State.chargeCp_in (In.refl _ _) rfl)
@[simp] theorem State.flushEvict_glb (s : State) (la : Nat) :
    (s.flushEvict la).glb = s.glb := glb_of_in (State.flushEvict_in (In.refl _ _) rfl)
@[simp] theorem State.touch_glb (s : State) (f : Nat) :
    (s.touch f).glb = s.glb := glb_of_in (State.touch_in (In.refl _ _) rfl)
@[simp] theorem State.redirty_glb (s : State) (ix k : Nat) :
    (s.redirty ix k).glb = s.glb := glb_of_in (State.redirty_in (In.refl _ _) rfl)
@[simp] theorem State.snoop_glb (s : State) (link la : Nat) :
    (s.snoop link la).glb = s.glb := glb_of_in (State.snoop_in (In.refl _ _) rfl)

/-! ### Contexts of the remote access engine (Machine/RdmaOps) -/

@[simp] theorem State.putCtx_glb (s : State) (x : Nat) (c : RCtx) :
    (s.putCtx x c).glb = s.glb := glb_of_in (State.putCtx_in (In.refl _ _) rfl)
@[simp] theorem State.updCtx_glb (s : State) (x : Nat) (f : RCtx → RCtx) :
    (s.updCtx x f).glb = s.glb := glb_of_in (State.updCtx_in (In.refl _ _) rfl)
@[simp] theorem State.raeRegs_glb (s : State) :
    s.raeRegs.glb = s.glb := glb_of_in (State.raeRegs_in (In.refl _ _) rfl)
@[simp] theorem State.ctxSend_glb (s : State) (x op psn : Nat) (hdr bytes : List Nat) :
    (s.ctxSend x op psn hdr bytes).glb = s.glb := glb_of_in (State.ctxSend_in (In.refl _ _) rfl)
@[simp] theorem State.ctxNak_glb (s : State) (x psn syn : Nat) :
    (s.ctxNak x psn syn).glb = s.glb := glb_of_in (State.ctxNak_in (In.refl _ _) rfl)

/-! ### The mirror and the journal (Machine/MirOps) -/

@[simp] theorem State.soloRetry_glb (s : State) :
    s.soloRetry.glb = s.glb := glb_of_in (State.soloRetry_in (In.refl _ _) rfl)
@[simp] theorem State.closeAll_glb (s : State) :
    s.closeAll.glb = s.glb := glb_of_in (State.closeAll_in (In.refl _ _) rfl)
@[simp] theorem State.ssnReserve_glb (s : State) :
    s.ssnReserve.glb = s.glb := glb_of_in (State.ssnReserve_in (In.refl _ _) rfl)

/-! ### Lines on their way (Machine/PathOps) -/

@[simp] theorem State.entWait_glb (s : State) (e : Ent) (d : Nat) (why : Why) (obj tp : Nat) :
    (s.entWait e d why obj tp).glb = s.glb := glb_of_in (State.entWait_in (In.refl _ _) rfl)
@[simp] theorem State.entGo_glb (s : State) (e : Ent) (d : Nat) :
    (s.entGo e d).glb = s.glb := glb_of_in (State.entGo_in (In.refl _ _) rfl)
@[simp] theorem State.needPage_glb (s : State) (obj tp d : Nat) (replica : Bool) :
    (s.needPage obj tp d replica).glb = s.glb := glb_of_in (State.needPage_in (In.refl _ _) rfl)
@[simp] theorem State.credits_glb (s : State) :
    s.credits.glb = s.glb := glb_of_in (State.credits_in (In.refl _ _) rfl)
@[simp] theorem State.rerun_glb (s : State) (p : Wait → Bool) :
    (s.rerun p).glb = s.glb := glb_of_in (State.rerun_in (In.refl _ _) rfl)

/-! ### Repairs and the rungs of the ladder (Machine/IntegOps) -/

@[simp] theorem State.decode_glb (s : State) (la : Nat) (errs : List Nat) :
    (s.decode la errs).1.glb = s.glb := glb_of_inP (State.decode_in (In.refl _ _) rfl)
@[simp] theorem State.askVerify_glb (s : State) (la : Nat) :
    (s.askVerify la).glb = s.glb := glb_of_in (State.askVerify_in (In.refl _ _) rfl)
@[simp] theorem State.addRepair_glb (s : State) (e : Nat) :
    (s.addRepair e).glb = s.glb := glb_of_in (State.addRepair_in (In.refl _ _) rfl)
@[simp] theorem State.retireFrame_glb (s : State) (f : Nat) :
    (s.retireFrame f).glb = s.glb := glb_of_in (State.retireFrame_in (In.refl _ _) rfl)
@[simp] theorem State.mediaEvent_glb (s : State) (kind la : Nat) :
    (s.mediaEvent kind la).glb = s.glb := glb_of_in (State.mediaEvent_in (In.refl _ _) rfl)
@[simp] theorem State.pageRung_glb (s : State) (la : Nat) (c : LCtx) (others : List Nat) (pq : Bool) :
    (s.pageRung la c others pq).1.glb = s.glb := glb_of_inP (State.pageRung_in (In.refl _ _) rfl)
@[simp] theorem State.homeFix_glb (s : State) (c : LCtx) (la : Nat) :
    (s.homeFix c la).glb = s.glb := glb_of_in (State.homeFix_in (In.refl _ _) rfl)
@[simp] theorem State.twinFix_glb (s : State) (la : Nat) (d : DLine) :
    (s.twinFix la d).glb = s.glb := glb_of_in (State.twinFix_in (In.refl _ _) rfl)
@[simp] theorem State.ladderFail_glb (s : State) (la rung dom : Nat) :
    (s.ladderFail la rung dom).glb = s.glb := glb_of_in (State.ladderFail_in (In.refl _ _) rfl)

/-! ### Links and snoops (Machine/Ports) -/

@[simp] theorem State.dcRun_glb (s : State) :
    s.dcRun.glb = s.glb := glb_of_in (State.dcRun_in (In.refl _ _) rfl)
@[simp] theorem State.snoopsAnswered_glb (s : State) :
    s.snoopsAnswered.glb = s.glb := glb_of_in (State.snoopsAnswered_in (In.refl _ _) rfl)
@[simp] theorem State.setRdy_glb (s : State) (p : Nat) (v : Bool) :
    (s.setRdy p v).glb = s.glb := glb_of_in (State.setRdy_in (In.refl _ _) rfl)

/-! ### Stores of lines (Machine/Data) -/

@[simp] theorem State.readTouch_glb (s : State) (obj : Nat) (o : Obj) (cls ln : Nat) :
    (s.readTouch obj o cls ln).glb = s.glb := glb_of_in (State.readTouch_in (In.refl _ _) rfl)
@[simp] theorem State.storeLine_glb (s : State) (d cls : Nat) (obj : Nat) (o : Obj) (ln : Nat) (data : Line)
    (m : Mask) (poison : Bool) :
    (s.storeLine d cls obj o ln data m poison).1.glb = s.glb := glb_of_inP (State.storeLine_in (In.refl _ _) rfl)
@[simp] theorem State.storeLines_glb (s : State) (d cls : Nat) (obj : Nat) (o : Obj) (ws : List WLine) :
    (s.storeLines d cls obj o ws).1.glb = s.glb := glb_of_inP (State.storeLines_in (In.refl _ _) rfl)

/-! ### Pages and objects (Machine/TierOps) -/

@[simp] theorem State.ledgerRegs_glb (s : State) :
    s.ledgerRegs.glb = s.glb := glb_of_in (State.ledgerRegs_in (In.refl _ _) rfl)
@[simp] theorem State.refsReg_glb (s : State) (k : Nat) :
    (s.refsReg k).glb = s.glb := glb_of_in (State.refsReg_in (In.refl _ _) rfl)
@[simp] theorem State.takeHomes_glb (s : State) (obj first : Nat) (ops : List JOp) :
    (s.takeHomes obj first ops).glb = s.glb := glb_of_in (State.takeHomes_in (In.refl _ _) rfl)

/-! ### Triggers and what a tick makes up (Machine/DrainOps) -/

@[simp] theorem State.bstStop_glb (s : State) :
    s.bstStop.glb = s.glb := glb_of_in (State.bstStop_in (In.refl _ _) rfl)
@[simp] theorem State.trigger_glb (s : State) (t : Trig) (railsUp : Bool) :
    (s.trigger t railsUp).glb = s.glb := glb_of_in (State.trigger_in (In.refl _ _) rfl)

/-! ### The partner's records (Machine/MirRx) -/

@[simp] theorem State.setMir_glb (s : State) (f : MirS → MirS) :
    (s.setMir f).glb = s.glb := glb_of_in (State.setMir_in (In.refl _ _) rfl)
@[simp] theorem State.removeObj_glb (s : State) (obj : Nat) :
    (s.removeObj obj).glb = s.glb := glb_of_in (State.removeObj_in (In.refl _ _) rfl)
@[simp] theorem State.resizeTo_glb (s : State) (obj : Nat) (o o2 : Obj) :
    (s.resizeTo obj o o2).glb = s.glb := glb_of_in (State.resizeTo_in (In.refl _ _) rfl)
@[simp] theorem State.needPages_glb (s : State) (own : Bool) (id a b : Nat) :
    (s.needPages own id a b).glb = s.glb := glb_of_in (State.needPages_in (In.refl _ _) rfl)
@[simp] theorem State.closePass_glb (s : State) :
    s.closePass.1.glb = s.glb := glb_of_inP (State.closePass_in (In.refl _ _) rfl)
@[simp] theorem State.markApplied_glb (s : State) (r : MRec) :
    (s.markApplied r).glb = s.glb := glb_of_in (State.markApplied_in (In.refl _ _) rfl)
@[simp] theorem State.putLines_glb (s : State) (f k : Nat) (r : MRec) :
    (s.putLines f k r).glb = s.glb := glb_of_in (State.putLines_in (In.refl _ _) rfl)
@[simp] theorem State.stageFrame_glb (s : State) (obj tp old : Nat) :
    (s.stageFrame obj tp old).glb = s.glb := glb_of_in (State.stageFrame_in (In.refl _ _) rfl)
@[simp] theorem State.commitPage_glb (s : State) (o : Obj) (obj tp f : Nat) :
    (s.commitPage o obj tp f).glb = s.glb := glb_of_in (State.commitPage_in (In.refl _ _) rfl)
@[simp] theorem State.resyncCheck_glb (s : State) :
    s.resyncCheck.glb = s.glb := glb_of_in (State.resyncCheck_in (In.refl _ _) rfl)

/-! ### Resync (Machine/Mirror) -/

@[simp] theorem State.tryStep5_glb (s : State) :
    s.tryStep5.glb = s.glb := glb_of_in (State.tryStep5_in (In.refl _ _) rfl)
@[simp] theorem State.takeAll_glb (s : State) :
    s.takeAll.glb = s.glb := glb_of_in (State.takeAll_in (In.refl _ _) rfl)

/-! ### Ways (Machine/Cache) -/

@[simp] theorem State.cleanWays_glb (s : State) (sl : Nat) (ways : Nat → Bool) (bad : Option (Nat × Nat)) :
    (s.cleanWays sl ways bad).glb = s.glb := glb_of_in (State.cleanWays_in (In.refl _ _) rfl)

/-! ### Retraining (Machine/Dram) -/

@[simp] theorem State.sliceTime_glb (s : State) (c ns : Nat) :
    (s.sliceTime c ns).glb = s.glb := glb_of_in (State.sliceTime_in (In.refl _ _) rfl)
@[simp] theorem State.makeUp_glb (s : State) :
    s.makeUp.glb = s.glb := glb_of_in (State.makeUp_in (In.refl _ _) rfl)
@[simp] theorem State.retrainSlice_glb (s : State) (ch : Nat) (res : LaneRes) :
    (s.retrainSlice ch res).glb = s.glb := glb_of_in (State.retrainSlice_in (In.refl _ _) rfl)

/-! ### The DRAM queues (Machine/DramQ) -/

@[simp] theorem State.dramTick_glb (s : State) (slots : List DSlot) :
    (s.dramTick slots).glb = s.glb := glb_of_in (State.dramTick_in (In.refl _ _) rfl)

/-! ### Slices of repair (Machine/Integrity) -/

@[simp] theorem State.repairSlice_glb (s : State) (c e : Nat) :
    (s.repairSlice c e).glb = s.glb := glb_of_in (State.repairSlice_in (In.refl _ _) rfl)

/-! ### The float (Machine/Float) -/

@[simp] theorem State.limitCompute_glb (s : State) :
    s.limitCompute.glb = s.glb := glb_of_in (State.limitCompute_in (In.refl _ _) rfl)

/-! ### Self-test (Machine/Bist) -/

@[simp] theorem State.testFail_glb (s : State) (w mask : Nat) :
    (s.testFail w mask).glb = s.glb := glb_of_in (State.testFail_in (In.refl _ _) rfl)
@[simp] theorem State.unitRecord_glb (s : State) (test ch unit : Nat) :
    (s.unitRecord test ch unit).glb = s.glb := glb_of_in (State.unitRecord_in (In.refl _ _) rfl)
@[simp] theorem State.rowInval_glb (s : State) :
    s.rowInval.glb = s.glb := glb_of_in (State.rowInval_in (In.refl _ _) rfl)
@[simp] theorem State.katSlice_glb (s : State) (x : TickIn) :
    (s.katSlice x).glb = s.glb := glb_of_in (State.katSlice_in (In.refl _ _) rfl)

/-! ### Packets (Machine/Rdma) -/

@[simp] theorem State.ctxUse_glb (s : State) (x : Nat) :
    (s.ctxUse x).glb = s.glb := glb_of_in (State.ctxUse_in (In.refl _ _) rfl)
@[simp] theorem State.raePage_glb (s : State) (d obj tp : Nat) (o : Obj) (rd : Bool) :
    (s.raePage d obj tp o rd).1.glb = s.glb := glb_of_inP (State.raePage_in (In.refl _ _) rfl)
@[simp] theorem State.raePages_glb (s : State) (d obj : Nat) (o : Obj) (ofs len : Nat) (rd : Bool) :
    (s.raePages d obj o ofs len rd).1.glb = s.glb := glb_of_inP (State.raePages_in (In.refl _ _) rfl)
@[simp] theorem State.goneEnd_glb (s : State) (x psn : Nat) :
    (s.goneEnd x psn).glb = s.glb := glb_of_in (State.goneEnd_in (In.refl _ _) rfl)
@[simp] theorem State.seqNak_glb (s : State) (x : Nat) (c : RCtx) :
    (s.seqNak x c).glb = s.glb := glb_of_in (State.seqNak_in (In.refl _ _) rfl)
@[simp] theorem State.cumAck_glb (s : State) (x : Nat) :
    (s.cumAck x).glb = s.glb := glb_of_in (State.cumAck_in (In.refl _ _) rfl)
@[simp] theorem State.rxAdvance_glb (s : State) (x n : Nat) :
    (s.rxAdvance x n).1.glb = s.glb := glb_of_inP (State.rxAdvance_in (In.refl _ _) rfl)
@[simp] theorem State.rxDone_glb (s : State) (x : Nat) (c : RCtx) (p : Pkt) :
    (s.rxDone x c p).glb = s.glb := glb_of_in (State.rxDone_in (In.refl _ _) rfl)
@[simp] theorem State.rxWait_glb (s : State) (x : Nat) (c : RCtx) (p : Pkt) (why : Why) (obj tp : Nat) :
    (s.rxWait x c p why obj tp).glb = s.glb := glb_of_in (State.rxWait_in (In.refl _ _) rfl)
@[simp] theorem State.rxRnr_glb (s : State) (x : Nat) (c : RCtx) (p : Pkt) (why : Why) (obj tp : Nat) :
    (s.rxRnr x c p why obj tp).glb = s.glb := glb_of_in (State.rxRnr_in (In.refl _ _) rfl)
@[simp] theorem State.rxPlaced_glb (s : State) (x : Nat) (c : RCtx) (p : Pkt) (ahead : Bool) :
    (s.rxPlaced x c p ahead).glb = s.glb := glb_of_in (State.rxPlaced_in (In.refl _ _) rfl)
@[simp] theorem State.readSend_glb (s : State) (x : Nat) (c : RCtx) (p : Pkt) (n : Nat) (byte : Nat → Nat) :
    (s.readSend x c p n byte).glb = s.glb := glb_of_in (State.readSend_in (In.refl _ _) rfl)
@[simp] theorem State.rxPark_glb (s : State) (x : Nat) (c : RCtx) (p : Pkt) :
    (s.rxPark x c p).glb = s.glb := glb_of_in (State.rxPark_in (In.refl _ _) rfl)
@[simp] theorem State.emitFrom_glb (s : State) (t : Nat) (c : RCtx) (r : TReq) (i : Nat) :
    (s.emitFrom t c r i).glb = s.glb := glb_of_in (State.emitFrom_in (In.refl _ _) rfl)
@[simp] theorem State.updReq_glb (s : State) (t : Nat) (f : TReq → TReq) :
    (s.updReq t f).glb = s.glb := glb_of_in (State.updReq_in (In.refl _ _) rfl)
@[simp] theorem State.completeAll_glb (s : State) (t : Nat) :
    (s.completeAll t).glb = s.glb := glb_of_in (State.completeAll_in (In.refl _ _) rfl)
@[simp] theorem State.flushSlots_glb (s : State) :
    s.flushSlots.glb = s.glb := glb_of_in (State.flushSlots_in (In.refl _ _) rfl)
@[simp] theorem State.release_glb (s : State) (x : Nat) (c : RCtx) (slot : Nat) :
    (s.release x c slot).glb = s.glb := glb_of_in (State.release_in (In.refl _ _) rfl)

/-! ### The boundary (Machine/Tick) -/

@[simp] theorem State.ageSweep_glb (s : State) :
    s.ageSweep.glb = s.glb := glb_of_in (State.ageSweep_in (In.refl _ _) rfl)
@[simp] theorem State.budgets_glb (s : State) :
    s.budgets.glb = s.glb := glb_of_in (State.budgets_in (In.refl _ _) rfl)
@[simp] theorem State.lateRecords_glb (s : State) :
    s.lateRecords.glb = s.glb := glb_of_in (State.lateRecords_in (In.refl _ _) rfl)

end Sys2Proof.Machine
end

section
/-! SUPPORT. The length of the tick in progress (R12). An alert may send the management interrupt, which changes the part
of block GLB but not the length; so of every operation that a boundary runs and that may raise an alert there is one lemma
here, in the order of the model's files. -/

namespace Sys2Proof.Machine

/-! ### Lists of operations -/

@[simp] theorem State.each_period {α : Type} (s : State) (l : List α) {f : State → α → State}
    (hf : ∀ s x, (f s x).glb.period = s.glb.period) : (s.each l f).glb.period = s.glb.period := by
  unfold State.each
  induction l generalizing s with
  | nil => rfl
  | cons a r ih => exact (ih (f s a)).trans (hf s a)

@[simp] theorem State.when_period (s : State) (c : Bool) (f : State → State) :
    (s.when c f).glb.period = if c then (f s).glb.period else s.glb.period := by
  unfold State.when
  split <;> rfl

@[simp] theorem State.ite_period (c : Prop) [Decidable c] (a b : State) :
    (if c then a else b).glb.period = if c then a.glb.period else b.glb.period := by
  split <;> rfl

theorem State.period_of_ite {c : Prop} [Decidable c] {a b : State} {n : Nat} (ha : a.glb.period = n)
    (hb : b.glb.period = n) : (if c then a else b).glb.period = n := by
  split <;> assumption

@[simp] theorem State.ite_fst_period {α : Type} (c : Prop) [Decidable c] (a b : State × α) :
    (if c then a else b).1.glb.period = if c then a.1.glb.period else b.1.glb.period := by
  split <;> rfl

theorem foldl_period {α β : Type} (l : List α) (p : State × β) {f : State × β → α → State × β}
    (hf : ∀ p x, (f p x).1.glb.period = p.1.glb.period) : (l.foldl f p).1.glb.period = p.1.glb.period := by
  induction l generalizing p with
  | nil => rfl
  | cons a r ih => exact (ih (f p a)).trans (hf p a)

/-! ### Alerts and fatal errors (R469, R470) -/

@[simp] theorem State.intSend_period (s : State) : s.intSend.glb.period = s.glb.period := by
  unfold State.intSend
  dsimp only
  split <;> rfl

@[simp] theorem State.intBit_period (s : State) (b : Nat) (wasSet : Bool) :
    (s.intBit b wasSet).glb.period = s.glb.period := by
  unfold State.intBit
  split
  · rfl
  · split
    · rfl
    · exact s.intSend_period

@[simp] theorem State.alert_period (s : State) (b : Nat) : (s.alert b).glb.period = s.glb.period := by
  simp [State.alert]

@[simp] theorem State.alertFatal_period (s : State) : s.alertFatal.glb.period = s.glb.period := by
  simp [State.alertFatal]

@[simp] theorem State.fatal_period (s : State) (blk rule : Nat) (items : List (Nat × Nat)) :
    (s.fatal blk rule items).glb.period = s.glb.period := by
  unfold State.fatal
  dsimp only
  split <;> simp

/-! ### The integrity ladder (12_data_integrity.md) -/

@[simp] theorem State.corrected_period (s : State) (la dev : Nat) :
    (s.corrected la dev).glb.period = s.glb.period := by
  unfold State.corrected
  dsimp only
  split <;> simp

@[simp] theorem State.fixCorrected_period (s : State) (la dev : Nat) :
    (s.fixCorrected la dev).glb.period = s.glb.period := by
  simp [State.fixCorrected]

@[simp] theorem State.hardFault_period (s : State) (la dev : Nat) :
    (s.hardFault la dev).glb.period = s.glb.period := by
  unfold State.hardFault
  split
  · rfl
  · dsimp only
    split
    · simp
    · split <;> simp

@[simp] theorem State.firstRungs_period (s : State) (la : Nat) (e1 e2 : List Nat) :
    (s.firstRungs la e1 e2).1.glb.period = s.glb.period := by
  unfold State.firstRungs
  dsimp only
  split
  case h_5 => split <;> simp
  all_goals simp

@[simp] theorem State.ladderRun_period (s : State) (la dom : Nat) (e1 e2 : List Nat) (fail : Bool) :
    (s.ladderRun la dom e1 e2 fail).1.glb.period = s.glb.period := by
  unfold State.ladderRun
  dsimp only
  repeat' split
  all_goals simp

@[simp] theorem State.ladderNow_period (s : State) (la dom : Nat) (fail : Bool) :
    (s.ladderNow la dom fail).1.glb.period = s.glb.period := s.ladderRun_period ..

@[simp] theorem State.probeLines_period (s : State) (o : Obj) (dom : Nat) (lns bad : List Nat) :
    (s.probeLines o dom lns bad).1.glb.period = s.glb.period := by
  refine foldl_period lns (s, []) fun p ln => ?_
  dsimp only
  repeat' split
  all_goals simp

/-! ### The patrol scrub (R313, R314) -/

@[simp] theorem State.metaRead_period (s : State) (la : Nat) (e1 e2 : List Nat) :
    (s.metaRead la e1 e2).glb.period = s.glb.period := by
  unfold State.metaRead
  dsimp only
  split
  case h_2 => split <;> simp
  all_goals simp

@[simp] theorem State.scrubPc_period (s : State) (la : Nat) (e1 e2 : List Nat) :
    (s.scrubPc la e1 e2).glb.period = s.glb.period := by
  unfold State.scrubPc
  dsimp only
  repeat' split
  all_goals simp

@[simp] theorem State.scrubLine_period (s : State) (errs : List (Nat × List Nat × List Nat)) (la : Nat) :
    (s.scrubLine errs la).glb.period = s.glb.period := by
  unfold State.scrubLine
  dsimp only
  repeat' split
  all_goals simp

@[simp] theorem State.scrubTick_period (s : State) (errs : List (Nat × List Nat × List Nat)) :
    (s.scrubTick errs).glb.period = s.glb.period := by
  unfold State.scrubTick
  dsimp only
  split
  · rfl
  · split <;> simp

/-! ### Applying the partner's records (R332, R336) -/

@[simp] theorem State.noRoom_period (s : State) (id : Nat) (items : List (Nat × Nat)) :
    (s.noRoom id items).glb.period = s.glb.period := by
  simp [State.noRoom]

@[simp] theorem State.applyMeta_period (s : State) (op : JOp) : (s.applyMeta op).glb.period = s.glb.period := by
  unfold State.applyMeta
  dsimp only
  repeat' split
  all_goals simp

@[simp] theorem State.applyOne_period (s : State) (r : MRec) : (s.applyOne r).1.glb.period = s.glb.period := by
  unfold State.applyOne
  cases s.obj? r.obj <;> simp

@[simp] theorem applyRounds_period (n : Nat) (s : State) : (applyRounds n s).glb.period = s.glb.period := by
  induction n generalizing s with
  | zero => rfl
  | succ n ih =>
    simp only [applyRounds]
    have hr := foldl_period s.mir.held (s, false, false) (f := fun x q =>
      if x.2.2 then x
      else ((x.1.applyOne q).1, x.2.1 || (x.1.applyOne q).2 == Applied.done, (x.1.applyOne q).2 == Applied.stop))
      fun x q => by split <;> simp
    split
    · exact (ih _).trans hr
    · exact hr

@[simp] theorem State.applyHeld_period (s : State) : s.applyHeld.glb.period = s.glb.period := by
  unfold State.applyHeld
  split <;> simp

@[simp] theorem State.journalWriters_period (s : State) : s.journalWriters.glb.period = s.glb.period := by
  unfold State.journalWriters
  dsimp only
  split <;> simp

@[simp] theorem State.tickRetry_period (s : State) : s.tickRetry.glb.period = s.glb.period := by
  unfold State.tickRetry
  split <;> simp

/-! ### The limit of the float (R76) and the tests of a slice (18_self_test_and_service.md) -/

@[simp] theorem State.publishLimit_period (s : State) : s.publishLimit.glb.period = s.glb.period := by
  have hshare : ∀ (t : State) (v : State → Nat → Nat),
      (t.each (List.range 256) fun s d => s.wri .SHARE d (v s d)).glb.period = t.glb.period :=
    fun t v => t.each_period _ fun _ _ => rfl
  unfold State.publishLimit
  extract_lets -lift l s1 _ s2
  have h2 : s2.glb.period = s.glb.period := by
    unfold s2
    split <;> rfl
  clear_value s2
  split
  · split <;> simp +zetaDelta [hshare, h2]
  · exact (hshare _ _).trans h2

@[simp] theorem State.disableWay_period (s : State) (sl w : Nat) (bad : Option (Nat × Nat)) :
    (s.disableWay sl w bad).glb.period = s.glb.period := by
  unfold State.disableWay
  dsimp only
  repeat' split
  all_goals simp

@[simp] theorem State.feedRepair_period (s : State) (all : List RowFail) (f : RowFail) :
    (s.feedRepair all f).glb.period = s.glb.period := by
  unfold State.feedRepair
  dsimp only
  split <;> simp

@[simp] theorem State.unitEnd_period (s : State) : s.unitEnd.glb.period = s.glb.period := by
  simp [State.unitEnd]

@[simp] theorem State.rowSlice_period (s : State) (x : TickIn) : (s.rowSlice x).glb.period = s.glb.period := by
  simp [State.rowSlice]

@[simp] theorem State.marchSlice_period (s : State) (x : TickIn) : (s.marchSlice x).glb.period = s.glb.period := by
  simp [State.marchSlice]

@[simp] theorem State.testSlice_period (s : State) (x : TickIn) : (s.testSlice x).glb.period = s.glb.period := by
  unfold State.testSlice
  repeat' split
  all_goals simp

@[simp] theorem State.fabricTick_period (s : State) (x : TickIn) : (s.fabricTick x).glb.period = s.glb.period := by
  simp [State.fabricTick]

/-! ### The remote access engine (14_remote_access.md) -/

@[simp] theorem State.place_period (s : State) (d : Nat) (p : Pkt) (obj : Nat) (o : Obj) (ofs : Nat) :
    (s.place d p obj o ofs).1.glb.period = s.glb.period := by
  unfold State.place
  dsimp only
  repeat' split
  all_goals simp

@[simp] theorem State.rxWrite_period (s : State) (x : Nat) (c : RCtx) (p : Pkt) (ahead : Bool) :
    (s.rxWrite x c p ahead).glb.period = s.glb.period := by
  unfold State.rxWrite
  dsimp only
  repeat' split
  all_goals simp

@[simp] theorem State.readOne_period (s : State) (x : Nat) (c : RCtx) (p : Pkt) :
    (s.readOne x c p).1.glb.period = s.glb.period := by
  unfold State.readOne
  dsimp only
  repeat' split
  all_goals simp

@[simp] theorem State.readsRun_period (n x : Nat) (s : State) :
    (State.readsRun n x s).glb.period = s.glb.period := by
  induction n generalizing s with
  | zero => rfl
  | succ n ih =>
    simp only [State.readsRun]
    repeat' split
    all_goals simp [ih]

@[simp] theorem State.rxRead_period (s : State) (x : Nat) (c : RCtx) (p : Pkt) :
    (s.rxRead x c p).glb.period = s.glb.period := by
  unfold State.rxRead
  dsimp only
  repeat' split
  all_goals simp

@[simp] theorem State.rxAtomic_period (s : State) (x : Nat) (c : RCtx) (p : Pkt) :
    (s.rxAtomic x c p).glb.period = s.glb.period := by
  unfold State.rxAtomic
  extract_lets -lift fin
  have hfin : ∀ (t : State) (old : Nat), (fin t old).glb.period = t.glb.period := by simp [fin]
  clear_value fin
  refine State.period_of_ite (by simp) ?_
  split
  · simp [hfin]
  split
  · simp
  refine State.period_of_ite (by simp) ?_
  extract_lets tp ln r s1 la pr s2 v old new wr data m w
  have h1 : s1.glb.period = s.glb.period := by simp [s1, r]
  have h2 : s2.glb.period = s.glb.period := by simp [s2, pr, h1]
  have hw : w.1.glb.period = s.glb.period := by simp [w, h2]
  clear_value w wr s2 s1
  refine State.period_of_ite (by simp) ?_
  split
  · simp [r]
  refine State.period_of_ite (by simp [h1]) (State.period_of_ite (by simp [h1]) ?_)
  refine State.period_of_ite (by simp [h2]) (State.period_of_ite (by simp [hfin, h2]) ?_)
  split
  · simp [h2]
  · simp [h2]
  refine State.period_of_ite (by simp [h2]) ?_
  split <;> simp [hfin, hw]

@[simp] theorem State.rxExpected_period (s : State) (x : Nat) (c : RCtx) (p : Pkt) :
    (s.rxExpected x c p).glb.period = s.glb.period := by
  unfold State.rxExpected
  repeat' split
  all_goals simp

@[simp] theorem State.rxDup_period (s : State) (x : Nat) (c : RCtx) (p : Pkt) :
    (s.rxDup x c p).glb.period = s.glb.period := by
  unfold State.rxDup
  dsimp only
  repeat' split
  all_goals simp

@[simp] theorem State.rxAhead_period (s : State) (x : Nat) (c : RCtx) (p : Pkt) :
    (s.rxAhead x c p).glb.period = s.glb.period := by
  unfold State.rxAhead
  repeat' split
  all_goals simp

@[simp] theorem State.rxProcess_period (s : State) (x : Nat) (p : Pkt) :
    (s.rxProcess x p).glb.period = s.glb.period := by
  unfold State.rxProcess
  dsimp only
  repeat' split
  all_goals simp

@[simp] theorem State.rxNext_period (n x : Nat) (s : State) : (State.rxNext n x s).glb.period = s.glb.period := by
  induction n generalizing s with
  | zero => rfl
  | succ n ih =>
    simp only [State.rxNext]
    repeat' split
    all_goals simp [ih]

@[simp] theorem State.rxGo_period (s : State) (x : Nat) : (s.rxGo x).glb.period = s.glb.period := by
  unfold State.rxGo
  dsimp only
  repeat' split
  all_goals simp

@[simp] theorem State.reqReady_period (s : State) (r : TReq) : (s.reqReady r).1.glb.period = s.glb.period := by
  unfold State.reqReady
  dsimp only
  repeat' split
  all_goals simp

@[simp] theorem State.sendNext_period (n t : Nat) (s : State) : (State.sendNext n t s).glb.period = s.glb.period := by
  induction n generalizing s with
  | zero => rfl
  | succ n ih =>
    simp only [State.sendNext]
    repeat' split
    all_goals simp [ih]

@[simp] theorem State.storeRead_period (s : State) (t : Nat) (r : TReq) :
    (s.storeRead t r).glb.period = s.glb.period := by
  unfold State.storeRead
  dsimp only
  repeat' split
  all_goals simp

@[simp] theorem State.examine_period (n x : Nat) (s : State) : (State.examine n x s).glb.period = s.glb.period := by
  induction n generalizing s with
  | zero => rfl
  | succ n ih =>
    simp only [State.examine]
    repeat' split
    all_goals simp [ih]

@[simp] theorem State.raeCtx_period (s : State) (x : Nat) : (s.raeCtx x).glb.period = s.glb.period := by
  unfold State.raeCtx
  dsimp only
  repeat' split
  all_goals simp

@[simp] theorem State.raePass_period (n : Nat) (s : State) : (State.raePass n s).glb.period = s.glb.period := by
  induction n generalizing s with
  | zero => rfl
  | succ n ih =>
    simp only [State.raePass]
    split <;> simp [ih]

@[simp] theorem State.raeRun_period (s : State) : s.raeRun.glb.period = s.glb.period := by
  unfold State.raeRun
  split <;> simp

end Sys2Proof.Machine
end

section
/-! The tick's period and number (01_architecture.md R11 to R13). -/

namespace Sys2Proof.Machine

/-! ### The registers GLB_TICK and GLB_TICK_NUM -/

/-- GLB_TICK (Table 20.3). -/
def glbTick : RegDef := ⟨"GLB_TICK", 0x10, 1, 0x0, 1, 0x0, [⟨.TICK_PERIOD, 0, .rw⟩]⟩

/-- GLB_TICK_NUM (Table 20.3). -/
def glbTickNum : RegDef := ⟨"GLB_TICK_NUM", 0x18, 1, 0x0, 1, 0x0, [⟨.TICK_NUMBER, 0, .ro⟩]⟩

theorem regAt_glbTick : regAt 0x10 = some (glbTick, 0) := rfl

theorem regAt_glbTickNum : regAt 0x18 = some (glbTickNum, 0) := rfl

/-- A register below the link registers exists always, so an accessor that reaches it finds it. -/
theorem State.regFor_of_reaches {s : State} {fn ofs i : Nat} {r : RegDef} (hreach : s.reaches fn ofs = true)
    (hat : regAt (ofs / 8 * 8) = some (r, i)) (hbase : r.base < 0x30000) : s.regFor fn ofs = some (r, i) := by
  simp [State.regFor, State.regExists, hreach, hat, hbase]

/-- Emptying a read latch changes no register, so the accessor finds the same register as before. -/
theorem State.unlatch_regFor (s : State) (fn fn' ofs : Nat) : (s.unlatch fn).regFor fn' ofs = s.regFor fn' ofs := rfl

@[simp] theorem State.unlatch_rd (s : State) (fn : Nat) (f : Fld) : (s.unlatch fn).rd f = s.rd f := rfl

@[simp] theorem State.unlatch_period (s : State) (fn : Nat) : (s.unlatch fn).glb.period = s.glb.period := rfl

/-- A good write outside a drain to a register that the accessor reaches is the register's own write (R458, R462). -/
theorem State.regWrite_of_regFor {s : State} {fn ofs size i : Nat} {r : RegDef} (v x : Nat)
    (hwin : inWindow ofs = false) (hgood : goodAccess ofs size = true) (hrun : s.draining = false)
    (hreg : s.regFor fn ofs = some (r, i)) :
    s.regWrite fn ofs size v x = (s.unlatch fn).putReg r i (covered r ofs size v) x := by
  have hd : (s.unlatch fn).draining = false := hrun
  simp [State.regWrite, hwin, State.unlatch_regFor, hreg, hgood, hd]

theorem State.putReg_glbTick (s : State) (v x : Nat) :
    s.putReg glbTick 0 (covered glbTick 0x10 8 v) x = s.wr .TICK_PERIOD (bits v 0 11) := by
  have hw : covered glbTick 0x10 8 v = [(.TICK_PERIOD, bits v 0 11)] := rfl
  calc s.putReg glbTick 0 (covered glbTick 0x10 8 v) x
    _ = s.fldWrites glbTick 0 [(.TICK_PERIOD, bits v 0 11)] x := by rw [hw]; rfl
    _ = s.rwAct .TICK_PERIOD 0 (bits v 0 11) := by
      simp [State.fldWrites, glbTick, lateFlds, State.each, State.fldWrite]
    _ = s.wr .TICK_PERIOD (bits v 0 11) := rfl

theorem State.putReg_glbTickNum (s : State) (v x : Nat) :
    s.putReg glbTickNum 0 (covered glbTickNum 0x18 8 v) x = s := by
  have hw : covered glbTickNum 0x18 8 v = [(.TICK_NUMBER, bits v 0 64)] := rfl
  calc s.putReg glbTickNum 0 (covered glbTickNum 0x18 8 v) x
    _ = s.fldWrites glbTickNum 0 [(.TICK_NUMBER, bits v 0 64)] x := by rw [hw]; rfl
    _ = s := by simp [State.fldWrites, glbTickNum, lateFlds, State.each, State.fldWrite]

/-- A write of GLB_TICK stores TICK_PERIOD. -/
theorem State.regWrite_glbTick {s : State} {fn : Nat} (v x : Nat) (hrun : s.draining = false)
    (hreach : s.reaches fn 0x10 = true) :
    s.regWrite fn 0x10 8 v x = (s.unlatch fn).wr .TICK_PERIOD (bits v 0 11) := by
  rw [State.regWrite_of_regFor v x rfl rfl hrun (State.regFor_of_reaches hreach regAt_glbTick (by decide)),
    State.putReg_glbTick]

/-- A write of GLB_TICK_NUM, reached or not, only empties the accessor's read latch: TICK_NUMBER is read only. -/
theorem State.regWrite_glbTickNum {s : State} {fn : Nat} (v x : Nat) (hrun : s.draining = false) :
    s.regWrite fn 0x18 8 v x = s.unlatch fn := by
  cases hreach : s.reaches fn 0x18 with
  | true =>
    rw [State.regWrite_of_regFor v x rfl rfl hrun (State.regFor_of_reaches hreach regAt_glbTickNum (by decide)),
      State.putReg_glbTickNum]
  | false =>
    have hreg : s.regFor fn 0x18 = none := by simp [State.regFor, hreach]
    simp [State.regWrite, State.unlatch_regFor, hreg, show inWindow 0x18 = false from rfl]

theorem exec_registerWrite {s : State} {link ld ofs : Nat} (size v x : Nat) (hlink : link < 8) (hld : ld < 16)
    (hofs : ofs < 2 ^ 24) : exec (.registerWrite link ld ofs size v x) s =
      .next (if s.ioServes link then s.regWrite (ldIx link ld) ofs size v x else s) := by
  have hguard : (link < 8 ∧ ld < 16 ∧ ofs < 2 ^ 24 ∧ s.ioServes link) = (s.ioServes link = true) := by
    simp only [hlink, hld, hofs, true_and]
  simp only [exec, execRegisterWrite, hguard]

theorem Fld.store_TICK_PERIOD (v : Nat) : Fld.store .TICK_PERIOD 0 (bits v 0 11) = min 1560 (max 98 (v % 2 ^ 11)) :=
  congrArg (fun n => min 1560 (max 98 n)) (Nat.mod_mod v (2 ^ 11))

theorem Fld.store_OP_TIME (v : Nat) : Fld.store .OP_TIME 0 v = v % 2 ^ 64 := by
  change min (2 ^ 64 - 1) (max 0 (v % 2 ^ 64)) = v % 2 ^ 64
  omega

theorem Fld.store_TICK_NUMBER (v : Nat) : Fld.store .TICK_NUMBER 0 v = v % 2 ^ 64 := by
  change min (2 ^ 64 - 1) (max 0 (v % 2 ^ 64)) = v % 2 ^ 64
  omega

/-- A write of TICK_PERIOD stores its clamped value and leaves the tick in progress and TICK_NUMBER (R12). -/
theorem exec_registerWrite_glbTick {s : State} {link ld : Nat} (v x : Nat) (hinv : s.Inv) (hrun : s.draining = false)
    (hlink : link < 8) (hld : ld < 16) (hio : s.ioServes link = true) (hreach : s.reaches (ldIx link ld) 0x10 = true) :
    ∃ t, exec (.registerWrite link ld 0x10 8 v x) s = .next t ∧
      t.rd .TICK_PERIOD = min 1560 (max 98 (v % 2 ^ 11)) ∧ t.glb.period = s.glb.period ∧
      t.rd .TICK_NUMBER = s.rd .TICK_NUMBER := by
  have hmwf : mwf (s.unlatch (ldIx link ld)).regs = true := (regsOk_iff.1 hinv.1).1
  refine ⟨(s.unlatch (ldIx link ld)).wr .TICK_PERIOD (bits v 0 11), ?_, ?_, rfl, ?_⟩
  · rw [exec_registerWrite 8 v x hlink hld (by decide), if_pos hio, State.regWrite_glbTick v x hrun hreach]
  · exact (State.rdi_wri _ _ _ hmwf).trans (Fld.store_TICK_PERIOD v)
  · exact State.rdi_wri_ne _ (.inl (by decide))

/-- A write of TICK_NUMBER changes neither it nor the length of the tick in progress. -/
theorem exec_registerWrite_glbTickNum {s : State} {link ld : Nat} (v x : Nat) (hlink : link < 8) (hld : ld < 16)
    (hrun : s.draining = false) :
    ∃ t, exec (.registerWrite link ld 0x18 8 v x) s = .next t ∧ t.rd .TICK_NUMBER = s.rd .TICK_NUMBER ∧
      t.glb.period = s.glb.period := by
  refine ⟨_, exec_registerWrite 8 v x hlink hld (by decide), ?_⟩
  split
  · simp [State.regWrite_glbTickNum v x hrun]
  · exact ⟨rfl, rfl⟩

/-! ### The boundary -/

/-- Every part and every field but TICK_PERIOD, TICK_NUMBER and OP_TIME. -/
def offTickFlds : Foot :=
  (2 ^ 28 - 1 ||| Foot.allFlds) ^^^ (Fld.TICK_PERIOD.foot ||| Fld.TICK_NUMBER.foot ||| Fld.OP_TIME.foot)

/-- What stays off them leaves the three fields of the tick. -/
theorem In.tickFlds {s t : State} (h : In offTickFlds s t) : t.rd .TICK_PERIOD = s.rd .TICK_PERIOD ∧
    t.rd .TICK_NUMBER = s.rd .TICK_NUMBER ∧ t.rd .OP_TIME = s.rd .OP_TIME :=
  ⟨h.regs _ 0 rfl, h.regs _ 0 rfl, h.regs _ 0 rfl⟩

/-- The records and the interrupt that the ending tick owes (R212, R470). -/
def State.tickReports (s : State) : State :=
  let s := { s.lateRecords with once := [], glb := { s.lateRecords.glb with intSent := false } }
  if s.glb.intPend then s.intSend else s

/-- What a boundary does before OP_TIME advances. -/
def State.tickWork (s : State) (x : TickIn) : State :=
  if s.tickReports.fabricUp then (s.tickReports.dramTick x.slots).fabricTick x else s.tickReports

/-- OP_TIME advances by the length of the tick that ends. -/
def State.tickTime (s : State) : State := s.wr .OP_TIME (s.rd .OP_TIME + s.glb.period)

/-- What a boundary reads at the pins and sensors (R65, R404, R469, R484). -/
def State.tickPins (s : State) (x : TickIn) : State :=
  (((s.wr .RAIL_PG_IN x.pg).dieRead x.die).senseTick x.mv).heldAlerts

/-- TICK_NUMBER counts the boundary, and the next tick takes TICK_PERIOD's value (R12). -/
def State.tickTurn (s : State) : State :=
  let s := s.wr .TICK_NUMBER ((s.rd .TICK_NUMBER + 1) % 2 ^ 64)
  { s with glb := { s.glb with period := s.rd .TICK_PERIOD } }

theorem exec_tickBoundary (x : TickIn) (s : State) : exec (.tickBoundary x) s =
    .next ((s.tickWork x).tickTime.tickPins x).tickTurn.limitCompute.raeRun := by
  unfold State.tickTurn State.tickPins State.tickTime State.tickWork State.tickReports
  rfl

@[simp] theorem State.tickReports_period (s : State) : s.tickReports.glb.period = s.glb.period := by
  unfold State.tickReports
  simp

@[simp] theorem State.tickWork_period (s : State) (x : TickIn) : (s.tickWork x).glb.period = s.glb.period := by
  simp [State.tickWork]

theorem State.tickReports_in (s : State) : In offTickFlds s s.tickReports := by
  have hlate : In offTickFlds s s.lateRecords := State.lateRecords_in (In.refl _ _) rfl
  have hstart : In offTickFlds s { s.lateRecords with
      once := [], glb := { s.lateRecords.glb with intSent := false } } :=
    hlate.trans (InMk.upd (In.refl _ _) rfl rfl rfl fun p hp => by
      cases p
      case glb => exact absurd hp (by decide)
      case once => exact absurd hp (by decide)
      all_goals rfl)
  exact in_ite (State.intSend_in hstart rfl) hstart

theorem State.tickWork_in (s : State) (x : TickIn) : In offTickFlds s (s.tickWork x) :=
  in_ite (State.fabricTick_in (State.dramTick_in s.tickReports_in rfl) rfl) s.tickReports_in

theorem State.tickPins_in (s : State) (x : TickIn) : In offTickFlds s (s.tickPins x) :=
  State.heldAlerts_in (State.senseTick_in (State.dieRead_in (State.wr_in (In.refl _ _) rfl) rfl) rfl) rfl

theorem State.tickEnd_in (s : State) : In offTickFlds s s.limitCompute.raeRun :=
  State.raeRun_in (State.limitCompute_in (In.refl _ _) rfl) rfl

theorem State.tickTime_facts {s : State} (hok : regsOk s.regs = true) :
    regsOk s.tickTime.regs = true ∧ s.tickTime.rd .TICK_PERIOD = s.rd .TICK_PERIOD ∧
      s.tickTime.rd .TICK_NUMBER = s.rd .TICK_NUMBER ∧
      s.tickTime.rd .OP_TIME = (s.rd .OP_TIME + s.glb.period) % 2 ^ 64 := by
  have hother : ∀ f, .OP_TIME ≠ f → s.tickTime.rd f = s.rd f := fun f hf => State.rdi_wri_ne _ (.inl hf)
  have hread : s.tickTime.rd .OP_TIME = Fld.store .OP_TIME 0 (s.rd .OP_TIME + s.glb.period) :=
    State.rdi_wri _ _ _ (regsOk_iff.1 hok).1
  exact ⟨regsOk_put _ _ _ hok, hother _ (by decide), hother _ (by decide), hread.trans (Fld.store_OP_TIME _)⟩

theorem State.tickTurn_facts {s : State} (hok : regsOk s.regs = true) :
    s.tickTurn.glb.period = s.rd .TICK_PERIOD ∧ s.tickTurn.rd .TICK_PERIOD = s.rd .TICK_PERIOD ∧
      s.tickTurn.rd .TICK_NUMBER = (s.rd .TICK_NUMBER + 1) % 2 ^ 64 ∧ s.tickTurn.rd .OP_TIME = s.rd .OP_TIME := by
  have hother : ∀ f, .TICK_NUMBER ≠ f → s.tickTurn.rd f = s.rd f := fun f hf => State.rdi_wri_ne _ (.inl hf)
  have hread : s.tickTurn.rd .TICK_NUMBER = Fld.store .TICK_NUMBER 0 ((s.rd .TICK_NUMBER + 1) % 2 ^ 64) :=
    State.rdi_wri _ _ _ (regsOk_iff.1 hok).1
  refine ⟨hother .TICK_PERIOD (by decide), hother _ (by decide), ?_, hother _ (by decide)⟩
  rw [hread, Fld.store_TICK_NUMBER, Nat.mod_mod]

/-- At a boundary OP_TIME advances by the length the tick had, the next tick takes TICK_PERIOD's value, and TICK_NUMBER
counts one more (R12, R13). -/
theorem exec_tickBoundary_facts {s : State} (x : TickIn) (hinv : s.Inv) :
    ∃ t, exec (.tickBoundary x) s = .next t ∧ t.glb.period = s.rd .TICK_PERIOD ∧
      t.rd .TICK_PERIOD = s.rd .TICK_PERIOD ∧ t.rd .TICK_NUMBER = (s.rd .TICK_NUMBER + 1) % 2 ^ 64 ∧
      t.rd .OP_TIME = (s.rd .OP_TIME + s.glb.period) % 2 ^ 64 := by
  refine ⟨_, exec_tickBoundary x s, ?_⟩
  have hwork := s.tickWork_in x
  obtain ⟨hworkP, hworkN, hworkO⟩ := hwork.tickFlds
  obtain ⟨hok, htimeP, htimeN, htimeO⟩ := State.tickTime_facts (hwork.regsOk hinv.1)
  have hpins := (s.tickWork x).tickTime.tickPins_in x
  obtain ⟨hpinsP, hpinsN, hpinsO⟩ := hpins.tickFlds
  obtain ⟨hlen, hturnP, hturnN, hturnO⟩ := State.tickTurn_facts (hpins.regsOk hok)
  obtain ⟨hendP, hendN, hendO⟩ := (State.tickEnd_in ((s.tickWork x).tickTime.tickPins x).tickTurn).tickFlds
  refine ⟨?_, ?_, ?_, ?_⟩
  · rw [State.raeRun_period, State.limitCompute_glb, hlen, hpinsP, htimeP, hworkP]
  · rw [hendP, hturnP, hpinsP, htimeP, hworkP]
  · rw [hendN, hturnN, hpinsN, htimeN, hworkN]
  · rw [hendO, hturnO, hpinsO, htimeO, hworkO, State.tickWork_period]

/-! ### Power-up and warm reset -/

/-- A filter by key drops what is at a refused key. -/
theorem mget_mfilter_refused {β : Type} {m : SMap β} {p : Key → Bool} {k : Key} (h : p k = false) :
    mget (mfilter m fun a _ => p a) k = none := by
  induction m with
  | nil => rfl
  | cons a r ih =>
    rw [mfilter, List.filter_cons]
    split
    case isTrue ha =>
      have hne : a.1 ≠ k := by
        rintro rfl
        simp [h] at ha
      simp only [mget, hne, if_false]
      exact ih
    case isFalse => exact ih

/-- A field that a restart does not keep reads as its reset value. -/
theorem State.rdi_onlyRegs_of_notMem (s : State) {l : List Fld} {f : Fld} (i : Nat) (h : f ∉ l) :
    (s.onlyRegs l).rdi f i = f.resetVal i := by
  have hk : (l.map Fld.ctorIdx).contains f.ctorIdx = false := by
    simp only [List.contains_eq_mem, decide_eq_false_iff_not, List.mem_map, not_exists, not_and]
    rintro g hg e
    exact h (Fld.ctorIdx_inj e ▸ hg)
  have hnone : mget (regsOf s.regs l) (f.ctorIdx, i) = none :=
    mget_mfilter_refused (p := fun k => (l.map Fld.ctorIdx).contains k.1) hk
  simp [State.rdi, State.onlyRegs, hnone]

/-- Every part and every field but TICK_NUMBER. -/
def offTickNumber : Foot := (2 ^ 28 - 1 ||| Foot.allFlds) ^^^ Fld.TICK_NUMBER.foot

/-- TICK_NUMBER is 0 after a power-up of the always-on domain. -/
theorem State.coldReset_tickNumber (s : State) (req pfail bypass : Bool) :
    (s.coldReset req pfail bypass).rd .TICK_NUMBER = 0 := by
  unfold State.coldReset
  extract_lets s1 c recs h op seq ff s2 _ s3 s4 s5 s6 s7 s8 s9
  have h3 : s3.rd .TICK_NUMBER = 0 := State.rdi_onlyRegs_of_notMem s1 0 (by decide)
  have h7 : In offTickNumber s3 s7 :=
    State.each_in (State.wr_in (State.wr_in (State.wr_in (State.wr_in (State.wr_in (State.wr_in (In.refl _ _)
      rfl) rfl) rfl) rfl) rfl) rfl) fun s i hs => State.wri_in hs rfl
  have hend : In offTickNumber s3 (s9.record clsBoot 0 426 (item 7 op ++ item 0xA seq)) :=
    State.record_in (State.setf_in (State.setf_in (State.setf_in (State.setf_in h7 rfl) rfl) rfl) rfl) rfl
  exact (hend.regs .TICK_NUMBER 0 rfl).trans h3

/-- A warm reset keeps TICK_NUMBER, which is not of its footprint. -/
theorem exec_warmRst_tickNumber (s : State) :
    ∃ t, exec .warmRst s = .next t ∧ t.rd .TICK_NUMBER = s.rd .TICK_NUMBER :=
  ⟨_, rfl, ((exec_in .warmRst s).out _ rfl).regs .TICK_NUMBER 0 rfl⟩

/-- Settles O56: the three fields of the tick and its length, through a register write, a boundary, a power-up of the
always-on domain and a warm reset. -/
theorem tickPeriodAndNumber : Obligations.TickPeriodAndNumber := by
  unfold Obligations.TickPeriodAndNumber
  refine ⟨?write, ?readOnly, ?boundary, ?powerUp, ?warm⟩
  case write => exact fun s link ld v x hinv hrun hlink hld hio hreach =>
    exec_registerWrite_glbTick v x hinv hrun hlink hld hio hreach
  case readOnly => exact fun s link ld v x hlink hld hrun => exec_registerWrite_glbTickNum v x hlink hld hrun
  case boundary => exact fun s x hinv => exec_tickBoundary_facts x hinv
  case powerUp => exact fun s req pfail bypass _ => ⟨_, rfl, s.coldReset_tickNumber req pfail bypass⟩
  case warm => exact fun s _ => exec_warmRst_tickNumber s

end Sys2Proof.Machine
end

section
/-! Every command answers a next state. -/

namespace Sys2Proof.Machine

/-- The outcome of a command is a next state. -/
def Answers (o : Out) : Prop := ∃ t, o = .next t

theorem answers_next (t : State) : Answers (.next t) := ⟨t, rfl⟩

theorem answers_ite {c : Prop} [Decidable c] {a b : Out} (ha : Answers a) (hb : Answers b) :
    Answers (if c then a else b) := by
  split <;> assumption

theorem State.metaRun_answers (s : State) (uid op : Nat) (f : State → Cmd → State) :
    Answers (s.metaRun uid op f) := by
  unfold State.metaRun
  repeat' first | exact answers_next _ | apply answers_ite | split

theorem State.metaObj_answers (s : State) (uid op : Nat) (f : State → Cmd → Obj → State) :
    Answers (s.metaObj uid op f) :=
  State.metaRun_answers ..

/-- Every command answers a next state, along every branch of its row; the rows named are those that stop at a definition
of their own. -/
theorem exec_answers (c : Instr) (s : State) : Answers (exec c s) := by
  cases c
  case objCreate => unfold exec execObjCreate; exact State.metaRun_answers ..
  case objDelete | objResize | objAttr | windowMap | windowUnmap | place | hold | release =>
    dsimp -zeta only [exec, execObjDelete, execObjResize, execObjAttr, execWindowMap, execWindowUnmap, execPlace, execHold,
      execRelease]
    exact State.metaObj_answers ..
  all_goals dsimp -zeta only [exec, execSettlePageTimeout, execSnoopWriteBack, execBirsp, execBiTimeout, execUnbindCarrier,
      execCommandComplete, execRead, execWrite, execWriteAtomic, execCopy, execFill, execSettle,
      execStreamPost, execStreamCancel, execSeal, execUnseal, execLogRead, execNop, execDemandFetchDone,
      execZeroFillDone, execOverBound, execT3FetchFail, execRunCompactionStep, execMoveLoadDone,
      execMoveInstallDone, execMoveCleanDone, execMoveUnloadDone, execMissEvictQueued, execStripeSettleDone,
      execRehome, execLadderHomeReadDone, execLadderDeadline, execRecodeWrite, execNoRoom]
  all_goals repeat' first
    | with_reducible exact answers_next _
    | with_reducible apply answers_ite
    | split
    | (extract_lets +onlyGivenNames x; clear_value x)
    | exact answers_next _
    | apply answers_ite

end Sys2Proof.Machine
end

section
/-! LOCKOUT: what it says of the supervisor, and the rows that may touch the fields it fixes (16_power_supervision.md R408). -/

namespace Sys2Proof.Machine

/-- A smaller footprint is a stronger claim. -/
theorem In.mono {k l : Foot} {s t : State} (h : In k s t) (hkl : k.le l = true) : In l s t where
  parts p hp := h.parts p (Bool.eq_false_iff.2 fun e => absurd (Foot.le_trans e hkl) (by simp [hp]))
  regs f i hf := h.regs f i (Bool.eq_false_iff.2 fun e => absurd (Foot.le_trans e hkl) (by simp [hf]))
  pending := h.pending
  regsOk := h.regsOk
  dramOk := h.dramOk

/-- Every part and every register field. -/
def anywhere : Foot := 2 ^ 28 - 1 ||| Foot.allFlds

/-- Every part and every register field but f. -/
def Fld.off (f : Fld) : Foot := anywhere ^^^ f.foot

/-- The register fields that LOCKOUT fixes. -/
def lockFlds : List Fld := [.SEQ_STATE, .RAIL_EN_OUT, .RAIL_RETRYING, .DRAINING]

/-- Every part and every register field but those that LOCKOUT fixes. -/
def offLock : Foot :=
  anywhere ^^^
    (Fld.SEQ_STATE.foot ||| Fld.RAIL_EN_OUT.foot ||| Fld.RAIL_RETRYING.foot ||| Fld.DRAINING.foot)

theorem Fld.le_offLock {f : Fld} (h : f ∉ lockFlds) : f.foot.le offLock = true := by
  cases f
  case SEQ_STATE | RAIL_EN_OUT | RAIL_RETRYING | DRAINING => exact absurd h (by decide)
  all_goals rfl

/-! ### LOCKOUT -/

/-- LOCKOUT with every rail off and none retrying, and no drain under way (R408). -/
structure State.LockedOut (s : State) : Prop where
  seq : s.rd .SEQ_STATE = seqLock
  off : s.rd .RAIL_EN_OUT = 0
  idle : s.rd .RAIL_RETRYING = 0
  quiet : s.draining = false

/-- The outcome is a next state in LOCKOUT. -/
def StaysLocked (o : Out) : Prop := ∃ t, o = .next t ∧ t.LockedOut

namespace State.LockedOut

variable {s t : State}

/-- An operation whose footprint avoids the four fields stays in LOCKOUT. -/
theorem of_in (h : s.LockedOut) (hin : In offLock s t) : t.LockedOut where
  seq := (hin.regs .SEQ_STATE 0 rfl).trans h.seq
  off := (hin.regs .RAIL_EN_OUT 0 rfl).trans h.off
  idle := (hin.regs .RAIL_RETRYING 0 rfl).trans h.idle
  quiet := (congrArg (· != 0) (hin.regs .DRAINING 0 rfl)).trans h.quiet

theorem of_rd (h : s.LockedOut) (e : ∀ f, t.rd f = s.rd f) : t.LockedOut :=
  ⟨(e _).trans h.seq, (e _).trans h.off, (e _).trans h.idle, (congrArg (· != 0) (e .DRAINING)).trans h.quiet⟩

theorem of_regs (h : s.LockedOut) (e : t.regs = s.regs) : t.LockedOut :=
  h.of_rd fun f => by simp only [State.rd, State.rdi, e]

theorem next (h : s.LockedOut) : StaysLocked (.next s) := ⟨s, rfl, h⟩

theorem ite {c : Prop} [Decidable c] {a b : State} (ha : a.LockedOut) (hb : b.LockedOut) :
    (if c then a else b).LockedOut := by
  split <;> assumption

theorem each {α : Type} (h : s.LockedOut) (l : List α) {f : State → α → State}
    (hf : ∀ s x, s.LockedOut → (f s x).LockedOut) : (s.each l f).LockedOut := by
  unfold State.each
  induction l generalizing s with
  | nil => exact h
  | cons a r ih => exact ih (hf s a h)

theorem wr (h : s.LockedOut) {f : Fld} (v : Nat) (hf : f ∉ lockFlds) : (s.wr f v).LockedOut :=
  h.of_in (State.wr_in (In.refl _ _) (Fld.le_offLock hf))

theorem setf (h : s.LockedOut) {f : Fld} (b : Bool) (hf : f ∉ lockFlds) : (s.setf f b).LockedOut :=
  h.wr _ hf

theorem setPwr (h : s.LockedOut) (f : PwrS → PwrS) : (s.setPwr f).LockedOut := h.of_regs rfl

theorem send (h : s.LockedOut) (m : Msg) : (s.send m).LockedOut := h.of_regs rfl

theorem record (h : s.LockedOut) (cls dom rule : Nat) (items : List (Nat × Nat)) :
    (s.record cls dom rule items).LockedOut := h.of_in (State.record_in (In.refl _ _) rfl)

theorem count (h : s.LockedOut) {f ovf : Fld} (i oi b : Nat) (hf : f ∉ lockFlds) (ho : ovf ∉ lockFlds) :
    (s.count f i ovf oi b).LockedOut :=
  h.of_in (State.count_in (In.refl _ _) (Fld.le_offLock hf) (Fld.le_offLock ho) rfl)

/-! ### What LOCKOUT says of the supervisor -/

theorem railOn (h : s.LockedOut) (r : Nat) : s.railOn r = false := by
  simp [State.railOn, h.off, bit]

theorem fabricUp (h : s.LockedOut) : s.fabricUp = false := by
  simp [State.fabricUp, h.seq, seqLock]

theorem starting (h : s.LockedOut) : s.starting = false := by
  simp [State.starting, h.seq, seqLock, seqCore, seqAwait, seqBoard, seqOn]

/-- No drain starts outside ON (Table 16.3). -/
theorem trigger (h : s.LockedOut) (x : Trig) (up : Bool) : s.trigger x up = s := by
  simp [State.trigger, h.quiet, h.seq, seqLock, seqOn]

/-- A fatal device error raises its flags and alert, and its drain does not start (R471). -/
theorem fatal (h : s.LockedOut) (blk rule : Nat) (items : List (Nat × Nat)) : (s.fatal blk rule items).LockedOut := by
  have hrec := h.record clsFault 0 rule items
  have hflags : State.LockedOut ((((s.record clsFault 0 rule items).setf .FATAL true).wr .FATAL_BLK blk).alertFatal) :=
    ((hrec.setf _ (by decide)).wr _ (by decide)).of_in (State.alertFatal_in (In.refl _ _) rfl)
  have hrdy := hflags.each (List.range 4) (f := fun s p => s.setRdy p false) fun s p hs =>
    hs.of_in (State.setRdy_in (In.refl _ _) rfl)
  unfold State.fatal
  refine ite hrec ?_
  rw [hrdy.trigger]
  exact hrdy

/-! ### Rows that may end in a fatal error -/

theorem disableWay (h : s.LockedOut) (sl w : Nat) (bad : Option (Nat × Nat)) : (s.disableWay sl w bad).LockedOut := by
  unfold State.disableWay
  extract_lets s1 s2 s3
  have h3 : s3.LockedOut := h.of_in (State.alert_in (State.record_in (State.setBitOf_in
    (State.cleanWays_in (In.refl _ _) rfl) rfl) rfl) rfl)
  exact ite h (ite h3 (ite (h3.fatal _ _ _) (h3.of_in (State.setBitOf_in (In.refl _ _) rfl))))

theorem clusterFault (h : s.LockedOut) (n la : Nat) (dead : Bool) : (s.clusterFault n la dead).LockedOut := by
  unfold State.clusterFault
  extract_lets act s1 s2
  have h1 : s1.LockedOut := h.count _ _ _ (by decide) (by decide)
  refine ite h (ite (ite ?_ h1) ?_)
  · exact LockedOut.fatal (h1.of_in (State.setDline_in (In.refl _ _) rfl)) _ _ _
  · exact h1.of_in (State.alert_in (State.record_in (State.setBitOf_in (State.setBitOf_in (In.refl _ _) rfl) rfl) rfl) rfl)

theorem sramEvent (h : s.LockedOut) (la : Nat) (e : SramEv) : (s.sramEvent la e).LockedOut := by
  unfold State.sramEvent
  split
  next sl w =>
    extract_lets s1 now l _ s2
    have h1 : s1.LockedOut := h.count sl sl 2 (by decide) (by decide)
    have h2 : s2.LockedOut := h1.of_regs rfl
    exact ite (h2.disableWay sl w none) h2
  next sl w set =>
    exact LockedOut.disableWay (h.count sl sl 3 (by decide) (by decide)) sl w (some (set, w))
  next sl =>
    extract_lets s1
    have h1 : s1.LockedOut := LockedOut.setf (h.count sl sl 3 (by decide) (by decide)) true (by decide)
    exact h1.fatal blkFCH 238 (item 7 sl)
  next n dead => exact h.clusterFault n la dead

theorem sramEvents (h : s.LockedOut) (la : Nat) (ev : List SramEv) : (s.sramEvents la ev).LockedOut :=
  h.each ev fun _ e hs => hs.sramEvent la e

theorem metaRead (h : s.LockedOut) (la : Nat) (e1 e2 : List Nat) : (s.metaRead la e1 e2).LockedOut := by
  unfold State.metaRead
  extract_lets r t s1 _ _ s2
  have hr : r.1.LockedOut := h.of_in (State.decode_in (In.refl _ _) rfl).fst
  split
  · exact hr.of_in (State.fixCorrected_in (In.refl _ _) rfl)
  · have ht : t.1.LockedOut := hr.of_in (State.decode_in (In.refl _ _) rfl).fst
    split
    · have h1 : s1.LockedOut := ht.count _ _ 1 (by decide) (by decide)
      have h2 : s2.LockedOut := (h1.setf (f := .META_FATAL) true (by decide)).of_regs rfl
      exact h2.fatal blkINT 313 (item 2 (64 * la))
    · exact ht.of_in (State.fixCorrected_in (In.refl _ _) rfl)
    · exact ht
  · exact hr

theorem fillReturn (h : s.LockedOut) (la : Nat) (e1 e2 others : List Nat) (pq : Bool) (ev : List SramEv) :
    (s.fillReturn la e1 e2 others pq ev).LockedOut := by
  have hev := h.sramEvents la ev
  unfold State.fillReturn
  split
  · exact ite h (hev.metaRead la e1 e2)
  · split
    · exact h
    · extract_lets s1 r
      have hr : r.1.LockedOut := hev.of_in (State.firstRungs_in (In.refl _ _) rfl).fst
      refine ite h (ite hev ?_)
      split
      · exact hr.of_in (State.ladderEnd_in (In.refl _ _) rfl)
      · split
        · exact hr.of_in (State.ladderEnd_in (State.ladderFail_in (In.refl _ _) rfl) rfl)
        · next c _ =>
          extract_lets p
          have hp : p.1.LockedOut := by
            change State.LockedOut (if r.2.2 then (r.1, false) else r.1.pageRung la c others pq).1
            split
            · exact hr
            · exact hr.of_in (State.pageRung_in (In.refl _ _) rfl).fst
          refine ite (hp.of_in (State.ladderEnd_in (In.refl _ _) rfl)) (ite ?_ ?_)
          · exact hp.of_regs rfl
          · exact hp.of_in (State.twinStep_in (In.refl _ _) rfl)

theorem execCxlMemRead (h : s.LockedOut) (link ld dpa mty tag : Nat) (ev : List SramEv) :
    StaysLocked (execCxlMemRead link ld dpa mty tag ev s) :=
  LockedOut.next (LockedOut.of_in (ite h (h.sramEvents _ ev)) (State.serveHost_in (In.refl _ _) rfl))

theorem execMissEvictQueued (h : s.LockedOut) (la : Nat) (ev : List SramEv) :
    StaysLocked (execMissEvictQueued la ev s) := by
  have hev : ((s.flushEvict la).sramEvents la ev).LockedOut :=
    LockedOut.sramEvents (h.of_in (State.flushEvict_in (In.refl _ _) rfl)) la ev
  unfold Machine.execMissEvictQueued
  split
  · exact h.next
  · split
    · exact h.next
    · exact (ite (hev.of_in (State.missQueue_in (In.refl _ _) rfl)) hev).next

theorem execMissFillReturn (h : s.LockedOut) (la : Nat) (e1 e2 others : List Nat) (pq : Bool) (ev : List SramEv) :
    StaysLocked (execMissFillReturn la e1 e2 others pq ev s) :=
  ((h.fillReturn la e1 e2 others pq ev).of_in (State.snoopsAnswered_in (In.refl _ _) rfl)).next

theorem execCaParityAlert (h : s.LockedOut) (ch sub : Nat) : StaysLocked (execCaParityAlert ch sub s) := by
  unfold Machine.execCaParityAlert
  split
  · exact h.next
  · extract_lets now old cur _ s1
    have h1 : s1.LockedOut := h.of_regs rfl
    have hfail : (s.setBitOf .CH_FAIL 0 ch true).LockedOut := h.of_in (State.setBitOf_in (In.refl _ _) rfl)
    split
    · exact (h1.count ch ch 3 (by decide) (by decide)).next
    · exact (hfail.fatal blkDRC 269 (item 4 ch)).next

/-! ### Requests and pins -/

theorem execPwrReqAssert (h : s.LockedOut) : StaysLocked (execPwrReqAssert false s) := by
  have h' := h.setf (f := .PWR_REQ_IN) true (by decide)
  unfold Machine.execPwrReqAssert
  split
  · exact h.next
  · simpa [h'.seq, seqLock, seqOff] using h'.next

theorem execPwrReqDeassert (h : s.LockedOut) : StaysLocked (execPwrReqDeassert s) := by
  have h' := h.setf (f := .PWR_REQ_IN) false (by decide)
  unfold Machine.execPwrReqDeassert
  split
  · exact h.next
  · simpa [h'.starting, h'.seq, seqLock, seqOn] using h'.next

theorem execPfailNFall (h : s.LockedOut) : StaysLocked (execPfailNFall s) := by
  have h' := h.setf (f := .PFAIL_IN) true (by decide)
  simpa [Machine.execPfailNFall, h'.starting, h'.quiet, h'.trigger] using h'.next

theorem execSysRstNAssert (h : s.LockedOut) : StaysLocked (execSysRstNAssert s) := by
  have h' := h.setPwr fun p => { p with sysRst := true }
  simpa [Machine.execSysRstNAssert, h'.seq, h'.trigger, seqLock, seqCore, seqAwait, seqBoard] using h'.next

theorem execSysRstNDeassert (h : s.LockedOut) : StaysLocked (execSysRstNDeassert s) := by
  have h' := h.setPwr fun p => { p with sysRst := false }
  simpa [Machine.execSysRstNDeassert, h'.seq, h'.quiet, seqLock, seqAwait, seqBoard, seqOn] using h'.next

theorem execWhistle (h : s.LockedOut) : StaysLocked (execWhistle s) := by
  unfold Machine.execWhistle
  split
  · exact h.next
  · extract_lets s1
    have h1 : s1.LockedOut :=
      LockedOut.count (h.setf (f := .WHISTLE_IN) true (by decide)) 0 0 3 (by decide) (by decide)
    simpa [h1.quiet, h1.seq, seqLock, seqOn, seqBoard] using h1.next

theorem execHoldupFloorCrossing (h : s.LockedOut) : StaysLocked (execHoldupFloorCrossing s) := by
  simpa [Machine.execHoldupFloorCrossing, h.trigger] using h.next

theorem drainNow (h : s.LockedOut) : s.drainNow = s := h.trigger .now true

theorem execDrainNow (h : s.LockedOut) : StaysLocked (execDrainNow s) := by
  simpa [Machine.execDrainNow, State.barWrite, h.quiet, h.drainNow] using h.next

/-! ### Rails -/

theorem dropStep (h : s.LockedOut) : s.dropStep.LockedOut := by
  have hnone : s.pwr.drop.filter s.railOn = [] := List.filter_eq_nil_iff.2 fun r _ => by simp [h.railOn]
  simpa [State.dropStep, hnone] using h.setPwr fun p => { p with drop := [] }

theorem execDownStepDelay (h : s.LockedOut) : StaysLocked (execDownStepDelay s) := by
  have hseq : s.rd .SEQ_STATE ≠ seqDown := by simp [h.seq, seqLock, seqDown]
  unfold Machine.execDownStepDelay
  rw [if_pos hseq]
  exact (ite h h.dropStep).next

theorem execPmbusPoll (h : s.LockedOut) (r : Nat) (ans : Option (Nat × Nat × Nat)) (faults : Nat) :
    StaysLocked (execPmbusPoll r ans faults s) := by
  unfold Machine.execPmbusPoll
  split
  · exact h.next
  · split
    · have herr := h.setf (f := .PMBUS_ERR) true (by decide)
      exact (ite ((herr.setPwr _).record clsError 0 404 (item 5 r)) herr).next
    · extract_lets s1 cause
      have h1 : s1.LockedOut := h.setPwr _
      rw [if_pos (by simp [h1.railOn])]
      exact h1.next

theorem execDaybookFlushDone (h : s.LockedOut) (okA okB : Bool) : StaysLocked (execDaybookFlushDone okA okB s) := by
  have hend : (s.flushEnd okA okB).LockedOut := h.of_in (State.flushEnd_in (In.refl _ _) rfl)
  unfold Machine.execDaybookFlushDone
  split
  · exact h.next
  · simpa [hend.quiet] using hend.next

/-! ### The tick boundary -/

/-- The fabric is off in LOCKOUT, so a boundary only writes its reports before OP_TIME advances. -/
theorem tickWork (h : s.LockedOut) (x : TickIn) : (s.tickWork x).LockedOut := by
  have hlate : s.lateRecords.LockedOut := h.of_in (State.lateRecords_in (In.refl _ _) rfl)
  have hstart : State.LockedOut { s.lateRecords with
      once := [], glb := { s.lateRecords.glb with intSent := false } } := hlate.of_regs rfl
  have hrep : s.tickReports.LockedOut := ite (hstart.of_in (State.intSend_in (In.refl _ _) rfl)) hstart
  unfold State.tickWork
  rw [if_neg (by simp [hrep.fabricUp])]
  exact hrep

theorem tickTurn (h : s.LockedOut) : s.tickTurn.LockedOut := by
  unfold State.tickTurn
  extract_lets s1
  have h1 : s1.LockedOut := h.wr _ (by decide)
  exact h1.of_regs rfl

theorem tickBoundary (h : s.LockedOut) (x : TickIn) : StaysLocked (exec (.tickBoundary x) s) := by
  have htime : (s.tickWork x).tickTime.LockedOut := (h.tickWork x).wr _ (by decide)
  have hpins : ((s.tickWork x).tickTime.tickPins x).LockedOut := htime.of_in
    (State.heldAlerts_in (State.senseTick_in (State.dieRead_in (State.wr_in (In.refl _ _) rfl) rfl) rfl) rfl)
  rw [exec_tickBoundary]
  exact (hpins.tickTurn.of_in (State.raeRun_in (State.limitCompute_in (In.refl _ _) rfl) rfl)).next

end State.LockedOut

end Sys2Proof.Machine
end

section
/-! LOCKOUT through a register write (20_register_map.md R462). -/

namespace Sys2Proof.Machine

/-- Values for fields that LOCKOUT does not fix. -/
def WVals.OffLock (w : WVals) : Prop := ∀ e ∈ w, e.1 ∉ lockFlds

theorem WVals.OffLock.filter {w : WVals} (hw : w.OffLock) (p : Fld × Nat → Bool) : WVals.OffLock (w.filter p) :=
  fun e he => hw e (List.mem_of_mem_filter he)

theorem WVals.OffLock.le {w : WVals} (hw : w.OffLock) : ∀ e ∈ w, e.1.foot.le offLock = true :=
  fun e he => Fld.le_offLock (hw e he)

/-- The first fields of the registers that hold a field which LOCKOUT fixes: FGV_STATUS, PWR_STATUS, PWR_RAIL_STATE and
PWR_RAIL_FAILED. -/
def lockHeads : List Fld := [.ARMED, .SEQ_STATE, .RAIL_EN_OUT, .RAIL_FAILED]

/-- The first field of a register, by which `putReg` tells registers apart. -/
def RegDef.head (r : RegDef) : Fld := (r.fields.head?.map (·.fld)).getD .MARGIN

/-- A register holds no field that LOCKOUT fixes, or it is one of those four and the field is read only. -/
def RegDef.sparesLock (r : RegDef) : Bool :=
  (r.fields.all fun x => !lockFlds.contains x.fld) ||
    (lockHeads.contains r.head && r.fields.all fun x => !lockFlds.contains x.fld || x.acc == .ro)

theorem regTable_sparesLock : regTable.all RegDef.sparesLock = true := by decide +kernel

theorem regFor_mem {s : State} {fn ofs i : Nat} {r : RegDef} (h : s.regFor fn ofs = some (r, i)) : r ∈ regTable := by
  unfold State.regFor at h
  split at h
  · obtain ⟨⟨r', i'⟩, hat, hex⟩ := Option.bind_eq_some_iff.1 h
    obtain ⟨r'', hmem, hr⟩ := List.exists_of_findSome?_eq_some hat
    obtain ⟨j, _, hj⟩ := Option.map_eq_some_iff.1 hr
    split at hex
    · cases hex
      cases hj
      exact hmem
    · cases hex
  · cases h

/-- The type of a register's field, as a write finds it (R7). -/
def RegDef.accOf (r : RegDef) (f : Fld) : Acc := ((r.fields.find? fun y => y.fld == f).map (·.acc)).getD .ro

/-- In the register table a field that LOCKOUT fixes is read only. -/
theorem RegDef.accOf_of_sparesLock {r : RegDef} (hr : r.sparesLock = true) {f : Fld} (hf : f ∈ lockFlds) :
    r.accOf f = .ro := by
  unfold RegDef.accOf
  cases hfind : r.fields.find? fun y => y.fld == f with
  | none => rfl
  | some y =>
    have hy : y.fld ∈ lockFlds := by
      have := List.find?_some hfind
      rwa [beq_iff_eq.1 this]
    have hmem := List.mem_of_find?_eq_some hfind
    simp only [RegDef.sparesLock, Bool.or_eq_true, Bool.and_eq_true, List.all_eq_true, Bool.not_eq_true',
      List.contains_eq_mem, decide_eq_false_iff_not, decide_eq_true_eq, beq_iff_eq] at hr
    rcases hr with hr | ⟨_, hr⟩
    · exact absurd hy (hr y hmem)
    · exact (hr y hmem).resolve_left (absurd hy)

namespace State.LockedOut

variable {s : State} {w : WVals}

theorem putVals (h : s.LockedOut) (hw : w.OffLock) (i : Nat) : (s.putVals w i).LockedOut :=
  h.of_in (State.putVals_in (In.refl _ _) hw.le)

theorem qpWrite (h : s.LockedOut) (hw : w.OffLock) (q : Nat) : (s.qpWrite q w).LockedOut := by
  unfold State.qpWrite
  extract_lets setup s1 s2
  have h1 : s1.LockedOut := ite (h.putVals (hw.filter _) q) (ite (h.of_in (State.setfi_in (In.refl _ _) rfl)) h)
  have h2 : s2.LockedOut := by
    unfold s2
    split
    · exact h1.of_in (State.qpEnWrite_in (In.refl _ _) rfl)
    · exact h1
  exact ite (h2.of_in (State.qpReset_in (In.refl _ _) rfl)) h2

theorem ldCfgWrite (h : s.LockedOut) (hw : w.OffLock) (i : Nat) : (s.ldCfgWrite i w).LockedOut := by
  unfold State.ldCfgWrite
  extract_lets was dom s1 s2
  have h1 : s1.LockedOut := ite (h.putVals (hw.filter _) i) (ite (h.record _ _ _ _) h)
  have h2 : s2.LockedOut := h1.putVals (hw.filter _) i
  exact ite (h2.of_regs rfl) (ite (h2.each _ fun _ q hs => hs.of_in (State.qpReset_in (In.refl _ _) rfl)) h2)

theorem settleCfgWrite (h : s.LockedOut) (hw : w.OffLock) (i : Nat) : (s.settleCfgWrite i w).LockedOut :=
  ite ((h.putVals hw i).of_in (State.settleCheck_in (In.refl _ _) rfl)) (h.putVals hw i)

theorem assignWrite (h : s.LockedOut) (hw : w.OffLock) (q : Nat) : (s.assignWrite q w).LockedOut :=
  ite (ite (h.record _ _ _ _) h) ((h.putVals hw q).of_in (State.qpOwner_in (In.refl _ _) rfl))

theorem secSlotWrite (h : s.LockedOut) (hw : w.OffLock) (k : Nat) : (s.secSlotWrite k w).LockedOut :=
  ite h (ite (h.putVals (hw.filter _) k) (ite (h.record _ _ _ _) h))

theorem tellerWrite (h : s.LockedOut) (hw : w.OffLock) (d : Nat) : (s.tellerWrite d w).LockedOut := by
  unfold State.tellerWrite
  extract_lets s1 k
  have h1 : s1.LockedOut := h.putVals (hw.filter _) d
  split
  · exact h1.of_in (State.tellerLoad_in (In.refl _ _) rfl)
  · exact h1.of_in (State.tellerLoad_in (In.refl _ _) rfl)
  · exact h1.of_in (State.tellerZero_in (In.refl _ _) rfl)
  · exact h1.of_in (State.tellerQuery_in (In.refl _ _) rfl)
  · exact h1

/-- What a write runs as a command of its own stays in LOCKOUT when the command's footprint allows it. -/
theorem outState (h : s.LockedOut) {o : Out} (ho : InOut offLock s o) : (outState s o).LockedOut :=
  h.of_in (outState_in (In.refl _ _) ho)

theorem raeCmdWrite (h : s.LockedOut) (hw : w.OffLock) : (s.raeCmdWrite w).LockedOut := by
  unfold State.raeCmdWrite
  extract_lets s1 i
  have h1 : s1.LockedOut := h.putVals (hw.filter _) 0
  refine ite ?_ ?_
  · split
    · exact h1.outState (execCtxCreate_in (In.refl _ _) rfl)
    · exact h1.outState (execCtxModify_in (In.refl _ _) rfl)
    · exact h1.outState (execCtxDestroy_in (In.refl _ _) rfl)
    · exact h1.outState (execCtxQuery_in (In.refl _ _) rfl)
    · exact h1.outState (execCtxReset_in (In.refl _ _) rfl)
    · exact h1
  · split
    · exact h1.outState (execKeyCreate_in (In.refl _ _) rfl)
    · exact h1.outState (execKeyDestroy_in (In.refl _ _) rfl)
    · exact h1.outState (execKeyQuery_in (In.refl _ _) rfl)
    · exact h1.wr _ (by decide)
    · exact h1.wr _ (by decide)
    · exact h1

theorem woAct (h : s.LockedOut) (f : Fld) (i v x : Nat) : (s.woAct f i v x).LockedOut := by
  unfold State.woAct
  split
  · exact h.wr _ (by decide)
  · rw [h.drainNow]
    exact h
  · exact h.outState (execVcalNow_in (In.refl _ _) rfl)
  · exact h.of_in (State.ccalStart_in (In.refl _ _) rfl)
  · exact h.of_in (State.linkRetrain_in (In.refl _ _) rfl)
  · exact h.of_in (State.sliceDis_in (In.refl _ _) rfl)
  · exact h.of_in (State.grpInv_in (In.refl _ _) rfl)
  · exact ite (h.of_in (State.askRetrain_in (In.refl _ _) rfl)) h
  · exact h.of_in (State.retireWrite_in (In.refl _ _) rfl)
  · exact h.of_in (State.retireSlot_in (In.refl _ _) rfl)
  · exact h.of_in (State.adopt_in (In.refl _ _) rfl)
  · exact h.of_in (State.takeover_in (In.refl _ _) rfl)
  · exact h.of_in (State.retryMatch_in (In.refl _ _) rfl)
  · exact h.of_in (State.linkRestart_in (In.refl _ _) rfl)
  · exact h.of_in (State.svnCommit_in (In.refl _ _) rfl)
  · exact h.of_in (State.ffClr_in (In.refl _ _) rfl)
  · exact h.of_in (State.dbkFlush_in (In.refl _ _) rfl)
  · exact h.of_in (State.pop_in (In.refl _ _) rfl)
  · exact h.of_in (State.warmReset_in (In.refl _ _) rfl)
  · exact h

/-- One field of a write: a field that LOCKOUT fixes is read only. -/
theorem fldWrite (h : s.LockedOut) {acc : Acc} {f : Fld} (hf : f ∈ lockFlds → acc = .ro) (i v x : Nat) :
    (s.fldWrite acc f i v x).LockedOut := by
  by_cases hmem : f ∈ lockFlds
  · rw [hf hmem]
    exact h
  · have hle := Fld.le_offLock hmem
    cases acc with
    | ro => exact h
    | w1c =>
      have h1 : (s.wri f i (s.rdi f i &&& (2 ^ 64 - 1 - v))).LockedOut := h.of_in (State.wri_in (In.refl _ _) hle)
      exact ite (h1.of_in (State.alertOut_in (In.refl _ _) rfl)) h1
    | rw => exact h.of_in (State.rwAct_in (In.refl _ _) hle rfl)
    | wo => exact ite h (h.woAct f i v x)

theorem fldWrites (h : s.LockedOut) {r : RegDef} (hr : r.sparesLock = true) (i : Nat) (w : WVals) (x : Nat) :
    (s.fldWrites r i w x).LockedOut :=
  LockedOut.each (h.each _ fun _ _ hs => hs.fldWrite (RegDef.accOf_of_sparesLock hr) _ _ _) _ fun _ _ hs =>
    hs.fldWrite (RegDef.accOf_of_sparesLock hr) _ _ _

/-- The registers whose fields act together hold none that LOCKOUT fixes. -/
theorem putReg_offLock (h : s.LockedOut) {r : RegDef} (hr : r.sparesLock = true) (hw : w.OffLock) (i x : Nat) :
    (s.putReg r i w x).LockedOut := by
  have hflip : (if s.fl .FLIP_ARM then s else s.putVals w 0).LockedOut := ite h (h.putVals hw 0)
  unfold State.putReg
  split
  · exact h.of_in (State.lockWrite_in (In.refl _ _) hw.le rfl)
  · exact h.of_in (State.lockWrite_in (In.refl _ _) hw.le rfl)
  · exact h.of_in (State.flipWrite_in (In.refl _ _) hw.le rfl)
  · exact hflip
  · exact hflip
  · exact hflip
  · exact hflip
  · exact h.ldCfgWrite hw i
  · exact h.settleCfgWrite hw i
  · exact h.assignWrite hw i
  · exact h.outState (execSqTailDoorbell_in (In.refl _ _) rfl)
  · exact h.outState (execCqHeadDoorbell_in (In.refl _ _) rfl)
  · exact h.qpWrite hw i
  · exact h.qpWrite hw i
  · exact h.qpWrite hw i
  · exact h.qpWrite hw i
  · exact h.qpWrite hw i
  · exact h.secSlotWrite hw i
  · exact h.tellerWrite hw i
  · exact h.of_regs rfl
  · exact h.raeCmdWrite hw
  · split
    · exact h.outState (execRaeTrig_in (In.refl _ _) rfl)
    · exact h
  · exact h.of_in (State.bstWrite_in (In.refl _ _) rfl)
  · exact h.of_in (State.wri_in (In.refl _ _) rfl)
  · exact h.of_in (State.wri_in (In.refl _ _) rfl)
  · exact h.wr _ (by decide)
  · exact h.wr _ (by decide)
  · exact h.fldWrites hr i w x

end State.LockedOut

/-- A register that holds a field which LOCKOUT fixes is written field by field. -/
theorem State.putReg_of_lockHeads (s : State) {r : RegDef} (hr : r.head ∈ lockHeads) (i : Nat) (w : WVals) (x : Nat) :
    s.putReg r i w x = s.fldWrites r i w x := by
  simp only [lockHeads, List.mem_cons, List.not_mem_nil, or_false, RegDef.head] at hr
  unfold State.putReg
  rcases hr with e | e | e | e <;> rw [e]

theorem covered_offLock {r : RegDef} (hr : ∀ x ∈ r.fields, x.fld ∉ lockFlds) (ofs size v : Nat) :
    WVals.OffLock (covered r ofs size v) := by
  intro e he
  obtain ⟨x, hx, hxe⟩ := List.mem_filterMap.1 he
  split at hxe
  · cases hxe
    exact hr x hx
  · cases hxe

namespace State.LockedOut

variable {s : State}

theorem putReg (h : s.LockedOut) {r : RegDef} (hr : r ∈ regTable) (i ofs size v x : Nat) :
    (s.putReg r i (covered r ofs size v) x).LockedOut := by
  have hsp := List.all_eq_true.1 regTable_sparesLock r hr
  have hsp' := hsp
  simp only [RegDef.sparesLock, Bool.or_eq_true, Bool.and_eq_true, List.all_eq_true, Bool.not_eq_true',
    List.contains_eq_mem, decide_eq_false_iff_not, decide_eq_true_eq, beq_iff_eq] at hsp'
  rcases hsp' with hfree | ⟨hhead, _⟩
  · exact h.putReg_offLock hsp (covered_offLock hfree ofs size v) i x
  · rw [s.putReg_of_lockHeads hhead]
    exact h.fldWrites hsp i _ x

theorem regWrite (h : s.LockedOut) (fn ofs size v x : Nat) : (s.regWrite fn ofs size v x).LockedOut := by
  unfold State.regWrite
  extract_lets s1
  have h1 : s1.LockedOut := h.of_in (State.unlatch_in (In.refl _ _) rfl)
  have herr : (s1.accErr fn ofs).LockedOut := h1.of_in (State.accErr_in (In.refl _ _) rfl)
  refine ite (ite h1 herr) ?_
  split
  · exact h1
  · next r i hreg =>
    exact ite herr (ite (h1.of_in (State.recordOnce_in (In.refl _ _) rfl)) (h1.putReg (regFor_mem hreg) i ofs size v x))

theorem execRegisterWrite (h : s.LockedOut) (link ld ofs size v x : Nat) :
    StaysLocked (execRegisterWrite link ld ofs size v x s) :=
  (ite (h.regWrite _ _ _ _ _) h).next

theorem execRegisterAccess (h : s.LockedOut) (ep ofs size : Nat) (data : Option Nat) (x : Nat) :
    StaysLocked (execRegisterAccess ep ofs size data x s) := by
  cases data with
  | some v => exact ((h.regWrite (128 + ep) ofs size v x).send _).next
  | none =>
    have hread : (s.regRead (128 + ep) ofs size).1.LockedOut := h.of_in (State.regRead_in (In.refl _ _) rfl).fst
    exact (hread.send _).next

end State.LockedOut

end Sys2Proof.Machine
end

section
/-! LOCKOUT through every command, and the way out of it (16_power_supervision.md R399, R408). -/

namespace Sys2Proof.Machine

/-- A loss of the fabric's power ends a drain. -/
theorem State.fabricLost_draining (s : State) : s.fabricLost.draining = false := by
  obtain ⟨u, n, e⟩ : ∃ u n, s.fabricLost =
      ((((State.onlyRegs u keptFlds).dramLost.wr .TAIL_SEQ n).wr .FLUSH_SEQ n).setf .COLD false) := ⟨_, _, rfl⟩
  have hreset : (u.onlyRegs keptFlds).dramLost.rd .DRAINING = 0 := u.rdi_onlyRegs_of_notMem 0 (by decide)
  have hin : In (Fld.off .DRAINING) (u.onlyRegs keptFlds).dramLost s.fabricLost :=
    e ▸ State.setf_in (State.wr_in (State.wr_in (In.refl _ _) rfl) rfl) rfl
  exact congrArg (· != 0) ((hin.regs .DRAINING 0 rfl).trans hreset)

theorem State.LockedOut.fabricLost {s : State} (h : s.LockedOut) : s.fabricLost.LockedOut := by
  have hin : In (Fld.off .SEQ_STATE ^^^ Fld.RAIL_EN_OUT.foot ^^^ Fld.RAIL_RETRYING.foot) s s.fabricLost :=
    State.fabricLost_in (In.refl _ _) rfl
  exact ⟨(hin.regs .SEQ_STATE 0 rfl).trans h.seq, (hin.regs .RAIL_EN_OUT 0 rfl).trans h.off,
    (hin.regs .RAIL_RETRYING 0 rfl).trans h.idle, s.fabricLost_draining⟩

/-- In a canonical table a write of the value that a field holds changes no field. -/
theorem State.rdi_wri_self {s : State} (hok : regsOk s.regs = true) {f : Fld} {i v : Nat} (hv : s.rdi f i = v) (g : Fld)
    (j : Nat) : (s.wri f i v).rdi g j = s.rdi g j := by
  by_cases hne : f ≠ g ∨ i ≠ j
  · exact State.rdi_wri_ne s hne
  · simp only [not_or, not_not] at hne
    obtain ⟨rfl, rfl⟩ := hne
    have hlegal : f.store i (s.rdi f i) = s.rdi f i := beq_iff_eq.1 (State.rdi_legal hok f i)
    rw [State.rdi_wri f i v (regsOk_iff.1 hok).1, ← hv, hlegal]

theorem State.LockedOut.wr_self {s : State} (h : s.LockedOut) (hok : regsOk s.regs = true) {f : Fld} {v : Nat}
    (hv : s.rd f = v) : (s.wr f v).LockedOut :=
  h.of_rd fun g => State.rdi_wri_self hok hv g 0

/-- The end of the supply writes SEQ_STATE and the rails with what they hold in LOCKOUT. -/
theorem State.LockedOut.supplyEnd {s : State} (h : s.LockedOut) (hok : regsOk s.regs = true) {q : Nat}
    (hq : s.rd .SEQ_STATE = q) : (((s.wr .SEQ_STATE q).wr .RAIL_EN_OUT 0).wr .RAIL_RETRYING 0).LockedOut := by
  have hokSeq := regsOk_put .SEQ_STATE 0 q hok
  have hseq := h.wr_self hok hq
  have hen := hseq.wr_self hokSeq hseq.off
  exact hen.wr_self (regsOk_put .RAIL_EN_OUT 0 0 hokSeq) hen.idle

theorem State.LockedOut.execAbruptLoss {s : State} (h : s.LockedOut) (hok : regsOk s.regs = true) (na nb : Nat) :
    StaysLocked (execAbruptLoss na nb s) := by
  have hflush : (s.partFlush na nb).LockedOut := h.of_in (State.partFlush_in (In.refl _ _) rfl)
  have hok1 : regsOk (s.partFlush na nb).fabricLost.regs = true :=
    (State.fabricLost_in (State.partFlush_in (In.refl anywhere s) rfl) rfl).regsOk hok
  have hlost := hflush.fabricLost
  unfold Machine.execAbruptLoss
  generalize (s.partFlush na nb).fabricLost = s1 at hok1 hlost
  extract_lets _ q s2 s3
  have h2 : s2.LockedOut := hlost.supplyEnd hok1 (if_pos (.inr hlost.seq)).symm
  have h3 : s3.LockedOut := LockedOut.wr (h2.wr (f := .UP_STEP_NOW) 0 (by decide)) 0 (by decide)
  exact ⟨_, rfl, h3.of_regs rfl⟩

namespace State.LockedOut

variable {s : State}

/-- A command whose footprint avoids the fields that LOCKOUT fixes. -/
theorem of_foot (h : s.LockedOut) {c : Instr} (hc : (Instr.foot c).le offLock = true) : StaysLocked (exec c s) := by
  obtain ⟨t, ht⟩ := exec_answers c s
  exact ⟨t, ht, h.of_in (((exec_in c s).out t ht).mono hc)⟩

/-- Every command but a request after a long release and a power-up of the always-on domain stays in LOCKOUT. -/
theorem exec (h : s.LockedOut) (hok : regsOk s.regs = true) (c : Instr) (hreq : c ≠ .pwrReqAssert true)
    (hup : ∀ req pfail bypass, c ≠ .alwaysOnPowerUp req pfail bypass) : StaysLocked (exec c s) := by
  cases c
  case tickBoundary x => exact h.tickBoundary x
  case cxlMemRead => exact h.execCxlMemRead ..
  case missEvictQueued => exact h.execMissEvictQueued ..
  case missFillReturn => exact h.execMissFillReturn ..
  case caParityAlert => exact h.execCaParityAlert ..
  case registerAccess => exact h.execRegisterAccess ..
  case registerWrite => exact h.execRegisterWrite ..
  case holdupFloorCrossing => exact h.execHoldupFloorCrossing
  case drainNow => exact h.execDrainNow
  case pfailNFall => exact h.execPfailNFall
  case sysRstNAssert => exact h.execSysRstNAssert
  case sysRstNDeassert => exact h.execSysRstNDeassert
  case pwrReqAssert longOff =>
    cases longOff
    · exact h.execPwrReqAssert
    · exact absurd rfl hreq
  case pwrReqDeassert => exact h.execPwrReqDeassert
  case whistle => exact h.execWhistle
  case downStepDelay => exact h.execDownStepDelay
  case pmbusPoll => exact h.execPmbusPoll ..
  case daybookFlushDone => exact h.execDaybookFlushDone ..
  case abruptLoss => exact h.execAbruptLoss hok ..
  case alwaysOnPowerUp => exact absurd rfl (hup _ _ _)
  -- Rows that a drain answers.
  case drainMetadataDone | vaultSealWritten =>
    simpa [Machine.exec, execDrainMetadataDone, execVaultSealWritten, h.quiet] using h.next
  -- Rows of a rail that is on or retrying.
  case railGood | railPgFall | rampTimeout | railRetry =>
    simpa [Machine.exec, execRailGood, execRailPgFall, execRampTimeout, execRailRetry, h.railOn, h.idle, bit] using h.next
  -- Rows of another state of the supervisor, or of a fabric that is up.
  case upStepDelay | corePhaseEnd | configWaitTimeout | minOffEnd | whistleSync | whistleSyncTimeout | dieOverTemperature
      | trainingDone | serviceFirmwareStart =>
    simpa [Machine.exec, execUpStepDelay, execCorePhaseEnd, execConfigWaitTimeout, execMinOffEnd, execWhistleSync,
      execWhistleSyncTimeout, execDieOverTemperature, execTrainingDone, execServiceFirmwareStart, h.seq, h.fabricUp, seqLock,
      seqCore, seqAwait, seqBoard, seqOn, seqMinOff, seqOff] using h.next
  all_goals
    refine h.of_foot ?_
    dsimp only [Instr.foot]
    rfl

end State.LockedOut

/-! ### The way out -/

/-- An up-sequence begins with the core phase (R399). -/
theorem State.upSequence_seq {s : State} (hok : regsOk s.regs = true) : s.upSequence.rd .SEQ_STATE = seqCore := by
  unfold State.upSequence
  extract_lets s1 s2 s3 s4
  have h2 : In anywhere s s2 := State.setPwr_in (State.each_in (In.refl _ _) fun _ e hs =>
    State.storeFld_in hs (Foot.le_trans e.1.le_all rfl) rfl) rfl
  have hcore : (s2.wr .SEQ_STATE seqCore).rd .SEQ_STATE = seqCore :=
    State.rdi_wri .SEQ_STATE 0 seqCore (regsOk_iff.1 (h2.regsOk hok)).1
  have h4 : In (Fld.off .SEQ_STATE) (s2.wr .SEQ_STATE seqCore) s4 :=
    State.setf_in (State.setf_in (State.setf_in (In.refl _ _) rfl) rfl) rfl
  split
  · exact ((State.stepUp_in h4 rfl).regs .SEQ_STATE 0 rfl).trans hcore
  · exact (h4.regs .SEQ_STATE 0 rfl).trans hcore

/-- A request after a release of MIN_OFF_MS leaves LOCKOUT for the core phase (R408). -/
theorem execPwrReqAssert_of_lock {s : State} (hok : regsOk s.regs = true) (hseq : s.rd .SEQ_STATE = seqLock)
    (hreq : s.fl .PWR_REQ_IN = false) :
    ∃ t, exec (.pwrReqAssert true) s = .next t ∧ t.rd .SEQ_STATE = seqCore := by
  have hseq' : (s.setf .PWR_REQ_IN true).rd .SEQ_STATE = seqLock := (State.rdi_wri_ne s (.inl (by decide))).trans hseq
  have hup : exec (.pwrReqAssert true) s = .next (s.setf .PWR_REQ_IN true).upSequence := by
    simp [exec, execPwrReqAssert, hreq, hseq', seqLock, seqOff]
  exact ⟨_, hup, State.upSequence_seq (regsOk_put .PWR_REQ_IN 0 1 hok)⟩

/-- Settles O58: LOCKOUT holds through every row but the request after a long release. -/
theorem lockoutHolds : Obligations.LockoutHolds := by
  unfold Obligations.LockoutHolds
  refine ⟨?holds, ?leaves, ?asserted⟩
  case holds =>
    intro c s hinv hseq hoff hidle hquiet hreq hup
    have hlock : s.LockedOut := ⟨hseq, hoff, hidle, hquiet⟩
    obtain ⟨t, ht, hseq', hoff', hidle', hquiet'⟩ := hlock.exec hinv.1 c hreq hup
    exact ⟨t, ht, hseq', hoff', hidle', hquiet'⟩
  case leaves => exact fun s hinv hseq hreq => execPwrReqAssert_of_lock hinv.1 hseq hreq
  case asserted =>
    intro s _ _ hreq
    simp [exec, execPwrReqAssert, hreq]

end Sys2Proof.Machine
end

section
/-! CORE_OFF: the service cores and their power domains (18_self_test_and_service.md R443). -/

namespace Sys2Proof.Machine

/-! ### The bits of a CORE_OFF write -/

theorem mod_sixteen_eq_iff_bits (v : Nat) : v % 16 = 15 ↔ ∀ k, k < 4 → bit v k = true := by
  have hbits (k : Nat) : (v % 2 ^ 4).testBit k = (2 ^ 4 - 1).testBit k ↔ (k < 4 → v.testBit k = true) := by
    rw [Nat.testBit_mod_two_pow, Nat.testBit_two_pow_sub_one]
    by_cases hk : k < 4 <;> simp [hk]
  calc v % 16 = 15 ↔ ∀ k, (v % 2 ^ 4).testBit k = (2 ^ 4 - 1).testBit k :=
        ⟨fun h k => congrArg (·.testBit k) h, Nat.eq_of_testBit_eq⟩
    _ ↔ ∀ k, k < 4 → bit v k = true := forall_congr' hbits

/-- CORE_ON is the complement of CORE_OFF in the four bits. -/
theorem bit_fifteen_sub (v : Nat) {k : Nat} (hk : k < 4) : bit (15 - v % 16) k = !bit v k := by
  have hcompl := Nat.testBit_two_pow_sub_succ (Nat.mod_lt v (show 0 < 2 ^ 4 by decide)) k
  rw [show 2 ^ 4 - (v % 2 ^ 4 + 1) = 15 - v % 16 by omega, Nat.testBit_mod_two_pow] at hcompl
  simpa [bit, hk] using hcompl

/-! ### The write -/

theorem State.barWrite_of_running {s : State} (hrun : s.draining = false) (f : State → State) : s.barWrite f = f s := by
  simp [State.barWrite, hrun]

theorem State.coreOff_of_all {s : State} {v : Nat} (hall : v % 16 = 15) : s.coreOff v = s.setf .REFUSED true := by
  rw [State.coreOff, if_pos hall]

theorem State.coreOff_facts {s : State} (hok : regsOk s.regs = true) {v : Nat} (hleft : v % 16 ≠ 15) :
    (s.coreOff v).rd .CORE_OFF = v % 16 ∧ (s.coreOff v).rd .CORE_ON = 15 - v % 16 := by
  have hmap := (regsOk_iff.1 hok).1
  rw [State.coreOff, if_neg hleft]
  constructor
  · calc ((s.wr .CORE_OFF v).wri .CORE_ON 0 (15 - v % 16)).rdi .CORE_OFF 0
        = (s.wri .CORE_OFF 0 v).rdi .CORE_OFF 0 := State.rdi_wri_ne _ (.inl (by decide))
      _ = Fld.store .CORE_OFF 0 v := State.rdi_wri _ _ _ hmap
      _ = v % 16 := by simp only [Fld.store, Fld.spec]; omega
  · calc ((s.wr .CORE_OFF v).wri .CORE_ON 0 (15 - v % 16)).rdi .CORE_ON 0
        = Fld.store .CORE_ON 0 (15 - v % 16) := State.rdi_wri _ _ _ (mwf_wri hmap ..)
      _ = 15 - v % 16 := by simp only [Fld.store, Fld.spec]; omega

theorem State.setf_refused_facts {s : State} (hok : regsOk s.regs = true) :
    (s.setf .REFUSED true).fl .REFUSED = true ∧ (s.setf .REFUSED true).rd .CORE_OFF = s.rd .CORE_OFF ∧
      (s.setf .REFUSED true).rd .CORE_ON = s.rd .CORE_ON :=
  ⟨flag_set (regsOk_iff.1 hok).1 .REFUSED 0 true fun v hv => by simp only [Fld.store, Fld.spec]; omega,
    State.rdi_wri_ne _ (.inl (by decide)), State.rdi_wri_ne _ (.inl (by decide))⟩

/-! ### The domains of the cores -/

/-- The owner of domains 108 to 111 is CORE_ON (Table 16.6). -/
theorem State.domOff_core (s : State) {k : Nat} (hk : k < 4) : s.domOff (108 + k) = !bit (s.rd .CORE_ON) k := by
  unfold State.domOff
  iterate 7 rw [if_neg (by omega)]
  rw [Nat.add_sub_cancel_left]

theorem State.domStart_domOn (s : State) (d : Nat) : s.domStart.domOn d = s.domOn d := by
  unfold State.domStart
  split <;> rfl

theorem State.setDom_domOn {s : State} (hok : regsOk s.regs = true) (d : Nat) (b : Bool) : (s.setDom d b).domOn d = b := by
  have hstore (v : Nat) : Fld.store .DOM_ON (d / 64) v = v % 2 ^ 64 := by simp only [Fld.store, Fld.spec]; omega
  have hd : d % 64 < 64 := Nat.mod_lt _ (by decide)
  unfold State.domOn State.setDom State.setBitOf
  rw [State.rdi_wri _ _ _ (regsOk_iff.1 hok).1, hstore, bit, Nat.testBit_mod_two_pow, decide_eq_true hd, Bool.true_and]
  exact bit_setBit _ _ b

theorem State.domDown_domOn {s : State} (hok : regsOk s.regs = true) (d : Nat) : (s.domDown d).domOn d = false :=
  (State.domStart_domOn _ d).trans (State.setDom_domOn hok d false)

/-- The supervisor switches off a domain that its owner keeps off (R414). -/
theorem exec_domainSwitch_off {s : State} {d : Nat} (hd : d < 112) (hoff : s.domOff d = true) :
    exec (.domainSwitch d false) s = .next (s.domDown d) := by
  simp [exec, execDomainSwitch, hoff, Nat.not_le.2 hd]

/-! ### The statement -/

theorem exec_coreOffWrite {s : State} (hrun : s.draining = false) (v : Nat) :
    exec (.coreOffWrite v) s = .next (s.coreOff v) :=
  congrArg Host.Outcome.next (State.barWrite_of_running hrun (·.coreOff v))

/-- Settles O53: a write that leaves a core on complements CORE_ON, which owns the cores' domains; one that leaves none is
refused. -/
theorem serviceCoresOffline : Obligations.ServiceCoresOffline := by
  unfold Obligations.ServiceCoresOffline
  intro s v hinv hrun
  refine ⟨?taken, ?refused⟩
  case taken =>
    rintro ⟨j, hj, hjon⟩
    have hleft : v % 16 ≠ 15 := fun h => by simp [(mod_sixteen_eq_iff_bits v).1 h j hj] at hjon
    obtain ⟨hcoreOff, hcoreOn⟩ := State.coreOff_facts hinv.1 hleft
    have hok : regsOk (s.coreOff v).regs = true := (State.coreOff_in (In.refl _ s) (Foot.le_refl _)).regsOk hinv.1
    refine ⟨_, exec_coreOffWrite hrun v, hcoreOff, fun k hk => ?_⟩
    have hon : bit ((s.coreOff v).rd .CORE_ON) k = !bit v k := by rw [hcoreOn, bit_fifteen_sub v hk]
    have hdom : (s.coreOff v).domOff (108 + k) = bit v k := by rw [State.domOff_core _ hk, hon, Bool.not_not]
    exact ⟨hon, hdom, fun hbit =>
      ⟨_, exec_domainSwitch_off (by omega) (hdom.trans hbit), State.domDown_domOn hok (108 + k)⟩⟩
  case refused =>
    intro hall
    have hrefused : s.coreOff v = s.setf .REFUSED true := State.coreOff_of_all ((mod_sixteen_eq_iff_bits v).2 hall)
    exact ⟨_, exec_coreOffWrite hrun v, hrefused, hrefused ▸ State.setf_refused_facts hinv.1⟩

end Sys2Proof.Machine
end

section
/-! What a function reaches of BAR0, and an access outside it (20_register_map.md R458, Table 20.1). -/

namespace Sys2Proof.Machine

/-! ### What the function of an LD reaches -/

theorem ldIx_lt {link ld : Nat} (hlink : link < 8) (hld : ld < 16) : ldIx link ld < 128 := by
  unfold ldIx
  omega

theorem ldIx_link (link : Nat) {ld : Nat} (hld : ld < 16) : ldIx link ld / 16 = link := by
  unfold ldIx
  omega

theorem ldIx_ld (link : Nat) {ld : Nat} (hld : ld < 16) : ldIx link ld % 16 = ld := by
  unfold ldIx
  omega

theorem domZero_iff (ofs : Nat) : domZero ofs = true ↔ ofs < 0x130000 ∨ 0xA00000 ≤ ofs ∧ ofs < 0xA40000 := by
  simp [domZero]

/-- Queue pair q is assigned to LD ld of a link. -/
def State.qpOf (s : State) (link ld q : Nat) : Prop :=
  s.fli .CMD_QP_ASSIGN_ASSIGNED q = true ∧ s.rdi .CMD_QP_ASSIGN_LINK q = link ∧ s.rdi .CMD_QP_ASSIGN_LD q = ld

/-- The three ways to an offset in Table 20.1's column "Reached through", each by an enabled LD. -/
theorem State.reaches_ldIx {s : State} {link ld ofs : Nat} (hlink : link < 8) (hld : ld < 16)
    (h : s.reaches (ldIx link ld) ofs = true) :
    s.fli .LD_EN (ldIx link ld) = true ∧
      (domZero ofs = true ∧ s.rdi .PRT_LD_CFG_DOMAIN (ldIx link ld) = 0 ∨
        (0x400000 ≤ ofs ∧ ofs < 0x800000) ∧ s.qpOf link ld ((ofs - 0x400000) / 4096) ∨
        (0x800000 ≤ ofs ∧ ofs < 0x900000) ∧ (ofs - 0x800000) / 4096 = s.rdi .PRT_LD_CFG_DOMAIN (ldIx link ld)) := by
  unfold State.reaches at h
  simp only [ldIx_link link hld, ldIx_ld link hld, if_neg (Nat.not_le.2 (ldIx_lt hlink hld))] at h
  split at h
  · cases h
  · next hserves =>
    obtain ⟨hen, -⟩ : s.fli .LD_EN (ldIx link ld) = true ∧ s.ldExists link ld = true := by simpa using hserves
    refine ⟨hen, ?_⟩
    split at h
    · next hzero => exact .inl ⟨hzero, by simpa using h⟩
    · split at h
      · next hpage => exact .inr (.inl ⟨by simpa using hpage, by simpa [State.qpOf, and_assoc] using h⟩)
      · exact .inr (.inr (by simpa using h))

/-- An offset of a page of 4096 B lies in that page. -/
theorem page_eq {base ofs k : Nat} (hlo : base + 4096 * k ≤ ofs) (hhi : ofs < base + 4096 * (k + 1)) :
    (ofs - base) / 4096 = k := by
  omega

section
variable {s : State} {link ld ofs : Nat} (hlink : link < 8) (hld : ld < 16)
include hlink hld

theorem State.not_reaches_of_disabled (hoff : s.fli .LD_EN (ldIx link ld) = false) :
    s.reaches (ldIx link ld) ofs = false :=
  Bool.eq_false_iff.2 fun h => Bool.eq_false_iff.1 hoff (State.reaches_ldIx hlink hld h).1

theorem State.not_reaches_of_domain (hdom : s.rdi .PRT_LD_CFG_DOMAIN (ldIx link ld) ≠ 0) (hzero : domZero ofs = true) :
    s.reaches (ldIx link ld) ofs = false := by
  refine Bool.eq_false_iff.2 fun h => ?_
  rw [domZero_iff] at hzero
  obtain ⟨-, ⟨-, hdom0⟩ | ⟨hdoorbell, -⟩ | ⟨hteller, -⟩⟩ := State.reaches_ldIx hlink hld h
  · exact hdom hdom0
  · omega
  · omega

theorem State.not_reaches_of_doorbell {q : Nat} (hq : q < 1024) (hlo : 0x400000 + 4096 * q ≤ ofs)
    (hhi : ofs < 0x400000 + 4096 * (q + 1)) (hqp : ¬s.qpOf link ld q) : s.reaches (ldIx link ld) ofs = false := by
  refine Bool.eq_false_iff.2 fun h => ?_
  obtain ⟨-, ⟨hzero, -⟩ | ⟨-, hown⟩ | ⟨hteller, -⟩⟩ := State.reaches_ldIx hlink hld h
  · rw [domZero_iff] at hzero
    omega
  · exact hqp (page_eq hlo hhi ▸ hown)
  · omega

theorem State.not_reaches_of_teller {d : Nat} (hd : d < 256) (hlo : 0x800000 + 4096 * d ≤ ofs)
    (hhi : ofs < 0x800000 + 4096 * (d + 1)) (hdom : s.rdi .PRT_LD_CFG_DOMAIN (ldIx link ld) ≠ d) :
    s.reaches (ldIx link ld) ofs = false := by
  refine Bool.eq_false_iff.2 fun h => ?_
  obtain ⟨-, ⟨hzero, -⟩ | ⟨hdoorbell, -⟩ | ⟨-, hown⟩⟩ := State.reaches_ldIx hlink hld h
  · rw [domZero_iff] at hzero
    omega
  · omega
  · exact hdom (hown.symm.trans (page_eq hlo hhi))

/-- The gaps between the parts of Table 20.1. -/
theorem State.not_reaches_of_gap
    (hgap : (0x130000 ≤ ofs ∧ ofs < 0x400000) ∨ (0x900000 ≤ ofs ∧ ofs < 0xA00000) ∨ 0xA40000 ≤ ofs) :
    s.reaches (ldIx link ld) ofs = false := by
  refine Bool.eq_false_iff.2 fun h => ?_
  obtain ⟨-, ⟨hzero, -⟩ | ⟨hdoorbell, -⟩ | ⟨hteller, -⟩⟩ := State.reaches_ldIx hlink hld h
  · rw [domZero_iff] at hzero
    omega
  · omega
  · omega

end

/-! ### An access that reaches nothing -/

/-- The accessor finds nothing at the offset: it does not reach it, or neither a register nor the window lies there. -/
def State.findsNone (s : State) (fn ofs : Nat) : Prop :=
  s.reaches fn ofs = false ∨ (regAt (ofs / 8 * 8) = none ∧ inWindow ofs = false)

theorem State.findsNone.noWindow {s : State} {fn ofs : Nat} (h : s.findsNone fn ofs) :
    (inWindow ofs && (s.unlatch fn).reaches fn ofs) = false := by
  have hsame : (s.unlatch fn).reaches fn ofs = s.reaches fn ofs := rfl
  obtain hreach | ⟨-, hwin⟩ := h
  · rw [hsame, hreach, Bool.and_false]
  · rw [hwin, Bool.false_and]

theorem State.findsNone.noReg {s : State} {fn ofs : Nat} (h : s.findsNone fn ofs) :
    (s.unlatch fn).regFor fn ofs = none := by
  rw [State.unlatch_regFor]
  obtain hreach | ⟨hat, -⟩ := h
  · simp [State.regFor, hreach]
  · simp [State.regFor, hat]

theorem State.findsNone.regRead {s : State} {fn ofs : Nat} (h : s.findsNone fn ofs) (size : Nat) :
    s.regRead fn ofs size = (s.unlatch fn, 0) := by
  simp [State.regRead, h.noWindow, h.noReg]

theorem State.findsNone.regWrite {s : State} {fn ofs : Nat} (h : s.findsNone fn ofs) (size v x : Nat) :
    s.regWrite fn ofs size v x = s.unlatch fn := by
  simp [State.regWrite, h.noWindow, h.noReg]

theorem exec_registerRead {s : State} {link ld ofs : Nat} (size : Nat) (hlink : link < 8) (hld : ld < 16)
    (hofs : ofs < 2 ^ 24) (hio : s.ioServes link = true) : exec (.registerRead link ld ofs size) s =
      .next ((s.regRead (ldIx link ld) ofs size).1.send
        (.regRead (ldIx link ld) ofs (s.regRead (ldIx link ld) ofs size).2)) := by
  have hguard : link < 8 ∧ ld < 16 ∧ ofs < 2 ^ 24 ∧ s.ioServes link = true := ⟨hlink, hld, hofs, hio⟩
  simp only [exec, execRegisterRead, if_pos hguard]

/-- Settles O59: each of the seven cases leaves the access without a register and without the window. -/
theorem registerReach : Obligations.RegisterReach := by
  unfold Obligations.RegisterReach
  intro s link ld ofs size v x hlink hld hofs hio hcase
  have hnone : s.findsNone (ldIx link ld) ofs := by
    obtain hoff | ⟨hdom, hzero⟩ | ⟨q, hq, hlo, hhi, hqp⟩ | ⟨d, hd, hlo, hhi, hdom⟩ |
      hgap | hgap | hgap | ⟨hat, hwin⟩ := hcase
    · exact .inl (State.not_reaches_of_disabled hlink hld hoff)
    · exact .inl (State.not_reaches_of_domain hlink hld hdom ((domZero_iff ofs).2 hzero))
    · exact .inl (State.not_reaches_of_doorbell hlink hld hq hlo hhi hqp)
    · exact .inl (State.not_reaches_of_teller hlink hld hd hlo hhi hdom)
    · exact .inl (State.not_reaches_of_gap hlink hld (.inl hgap))
    · exact .inl (State.not_reaches_of_gap hlink hld (.inr (.inl hgap)))
    · exact .inl (State.not_reaches_of_gap hlink hld (.inr (.inr hgap)))
    · exact .inr ⟨hat, by simpa [inWindow] using hwin⟩
  constructor
  · rw [exec_registerRead size hlink hld hofs hio, hnone.regRead]
  · rw [exec_registerWrite size v x hlink hld hofs, if_pos hio, hnone.regWrite]

end Sys2Proof.Machine
end

section
/-! Every step: what it runs, what it keeps and what it leaves unchanged (01_architecture.md). -/

namespace Sys2Proof.Machine

/-- The set that a command's meaning may change lies within its lists of Safety. -/
theorem touched : ∀ c : Instr, Touched c
  | .tickBoundary .. => touched_tickBoundary
  | .cxlMemRead .. => touched_cxlMemRead
  | .cxlMemWrite .. => touched_cxlMemWrite
  | .settlePageStore .. => touched_settlePageStore
  | .settlePageTimeout .. => touched_settlePageTimeout
  | .snoopWriteBack .. => touched_snoopWriteBack
  | .birsp .. => touched_birsp
  | .biTimeout .. => touched_biTimeout
  | .gpfPhase2 .. => touched_gpfPhase2
  | .gpfPhase2Timeout .. => touched_gpfPhase2Timeout
  | .hdmDecoderCommit .. => touched_hdmDecoderCommit
  | .ideKmKeyProg .. => touched_ideKmKeyProg
  | .ideMacFail .. => touched_ideMacFail
  | .perstAssert .. => touched_perstAssert
  | .perstRelease .. => touched_perstRelease
  | .linkUp .. => touched_linkUp
  | .linkRecoveryEntry .. => touched_linkRecoveryEntry
  | .linkRetrain .. => touched_linkRetrain
  | .portOfflineWrite .. => touched_portOfflineWrite
  | .pnRdyRise .. => touched_pnRdyRise
  | .pnRdyTimeout .. => touched_pnRdyTimeout
  | .identify .. => touched_identify
  | .getEventRecords .. => touched_getEventRecords
  | .getPoisonList .. => touched_getPoisonList
  | .getHealthInfo .. => touched_getHealthInfo
  | .setTimestamp .. => touched_setTimestamp
  | .initiateDynamicCapacityAdd .. => touched_initiateDynamicCapacityAdd
  | .dynamicCapacityRelease .. => touched_dynamicCapacityRelease
  | .bindLdDomain .. => touched_bindLdDomain
  | .unbindCarrier .. => touched_unbindCarrier
  | .registerAccess .. => touched_registerAccess
  | .sqTailDoorbell .. => touched_sqTailDoorbell
  | .cqHeadDoorbell .. => touched_cqHeadDoorbell
  | .qpEnWrite .. => touched_qpEnWrite
  | .qpReset .. => touched_qpReset
  | .queueResetCut .. => touched_queueResetCut
  | .sqeFetch .. => touched_sqeFetch
  | .commandDispatch .. => touched_commandDispatch
  | .commandComplete => touched_commandComplete
  | .coalesceTimeout .. => touched_coalesceTimeout
  | .ringDmaError .. => touched_ringDmaError
  | .read .. => touched_read
  | .write .. => touched_write
  | .writeAtomic .. => touched_writeAtomic
  | .copy .. => touched_copy
  | .fill .. => touched_fill
  | .settle .. => touched_settle
  | .objCreate .. => touched_objCreate
  | .objDelete .. => touched_objDelete
  | .objResize .. => touched_objResize
  | .objAttr .. => touched_objAttr
  | .windowMap .. => touched_windowMap
  | .windowUnmap .. => touched_windowUnmap
  | .place .. => touched_place
  | .hold .. => touched_hold
  | .release .. => touched_release
  | .streamPost .. => touched_streamPost
  | .streamCancel .. => touched_streamCancel
  | .seal .. => touched_seal
  | .unseal .. => touched_unseal
  | .logRead .. => touched_logRead
  | .nop .. => touched_nop
  | .floatChargeAdmitted => touched_floatChargeAdmitted
  | .stall .. => touched_stall
  | .floorComparatorArmed => touched_floorComparatorArmed
  | .holdupFloorCrossing => touched_holdupFloorCrossing
  | .holdupPmbusPoll .. => touched_holdupPmbusPoll
  | .snsOpen .. => touched_snsOpen
  | .snsNeg .. => touched_snsNeg
  | .holdupInvertWrite .. => touched_holdupInvertWrite
  | .ccalNow .. => touched_ccalNow
  | .ccalInterval .. => touched_ccalInterval
  | .ccalDischarged => touched_ccalDischarged
  | .ccalAbandon => touched_ccalAbandon
  | .ccalIoutPoll .. => touched_ccalIoutPoll
  | .ccalRecharged => touched_ccalRecharged
  | .vcalNow => touched_vcalNow
  | .rehearsal => touched_rehearsal
  | .rehearsalDone .. => touched_rehearsalDone
  | .measClr => touched_measClr
  | .pfailNFall => touched_pfailNFall
  | .pfailNRise => touched_pfailNRise
  | .sysRstNAssert => touched_sysRstNAssert
  | .sysRstNDeassert => touched_sysRstNDeassert
  | .drainNow => touched_drainNow
  | .drainWritebackDone => touched_drainWritebackDone
  | .drainFloatDone .. => touched_drainFloatDone
  | .drainMetadataDone .. => touched_drainMetadataDone
  | .vaultSealWritten => touched_vaultSealWritten
  | .demandFetchDone .. => touched_demandFetchDone
  | .zeroFillDone .. => touched_zeroFillDone
  | .overBound .. => touched_overBound
  | .t3FetchFail .. => touched_t3FetchFail
  | .poolDry => touched_poolDry
  | .residencyCheckpoint => touched_residencyCheckpoint
  | .runCompactionStep => touched_runCompactionStep
  | .moveBegin .. => touched_moveBegin
  | .moveLoadDone .. => touched_moveLoadDone
  | .moveInstallDone .. => touched_moveInstallDone
  | .moveCleanDone .. => touched_moveCleanDone
  | .moveUnloadDone .. => touched_moveUnloadDone
  | .streamEntryStart .. => touched_streamEntryStart
  | .missEvictQueued .. => touched_missEvictQueued
  | .missFillReturn .. => touched_missFillReturn
  | .pgReqWrite .. => touched_pgReqWrite
  | .wayGroupCleanDone .. => touched_wayGroupCleanDone
  | .grpInv .. => touched_grpInv
  | .sliceDisReq .. => touched_sliceDisReq
  | .sliceFlushDone .. => touched_sliceFlushDone
  | .lockEntryWrite .. => touched_lockEntryWrite
  | .fchSlStateWrite .. => touched_fchSlStateWrite
  | .prtBenchWrite .. => touched_prtBenchWrite
  | .cmdStatusWrite => touched_cmdStatusWrite
  | .tpeCnt2Write => touched_tpeCnt2Write
  | .refreshDue .. => touched_refreshDue
  | .forcedRefresh .. => touched_forcedRefresh
  | .neighbourRefresh .. => touched_neighbourRefresh
  | .dimmThermalPoll .. => touched_dimmThermalPoll
  | .trainingDone .. => touched_trainingDone
  | .readEyeWindow .. => touched_readEyeWindow
  | .writeTrackingSlice .. => touched_writeTrackingSlice
  | .retrain .. => touched_retrain
  | .caParityAlert .. => touched_caParityAlert
  | .stripeSettleStart .. => touched_stripeSettleStart
  | .stripeSettleDone .. => touched_stripeSettleDone
  | .nandProgramFail .. => touched_nandProgramFail
  | .nandEraseFail .. => touched_nandEraseFail
  | .rehome .. => touched_rehome
  | .garbageCollection .. => touched_garbageCollection
  | .channelRetire .. => touched_channelRetire
  | .retire .. => touched_retire
  | .retireSlot .. => touched_retireSlot
  | .slotPwrWrite .. => touched_slotPwrWrite
  | .carrierPresent .. => touched_carrierPresent
  | .adopt .. => touched_adopt
  | .rebuildDone .. => touched_rebuildDone
  | .ladderHomeReadDone .. => touched_ladderHomeReadDone
  | .ladderDeadline .. => touched_ladderDeadline
  | .verifyRead .. => touched_verifyRead
  | .recodeWrite => touched_recodeWrite
  | .flipArmWrite .. => touched_flipArmWrite
  | .mirrorPhyUp .. => touched_mirrorPhyUp
  | .mirrorPortPhyDown .. => touched_mirrorPortPhyDown
  | .hello .. => touched_hello
  | .helloRepeat => touched_helloRepeat
  | .mirrorSpdm .. => touched_mirrorSpdm
  | .partnerEndedBringUp => touched_partnerEndedBringUp
  | .record .. => touched_record
  | .ack .. => touched_ack
  | .nak .. => touched_nak
  | .retxTimeout .. => touched_retxTimeout
  | .keepalive .. => touched_keepalive
  | .mirrorLinkLost => touched_mirrorLinkLost
  | .phyHoldEnd => touched_phyHoldEnd
  | .drain .. => touched_drain
  | .fetchReq .. => touched_fetchReq
  | .fetchRsp .. => touched_fetchRsp
  | .noRoom .. => touched_noRoom
  | .heartbeatLost => touched_heartbeatLost
  | .heartbeatRestored => touched_heartbeatRestored
  | .twinGrantChange .. => touched_twinGrantChange
  | .takeover => touched_takeover
  | .retryMatch => touched_retryMatch
  | .linkRestart => touched_linkRestart
  | .rdmaWrite .. => touched_rdmaWrite
  | .rdmaSend .. => touched_rdmaSend
  | .rdmaReadRequest .. => touched_rdmaReadRequest
  | .cmpswap .. => touched_cmpswap
  | .fetchadd .. => touched_fetchadd
  | .acknowledge .. => touched_acknowledge
  | .rdmaNak .. => touched_rdmaNak
  | .rdmaReadResponse .. => touched_rdmaReadResponse
  | .settleAck .. => touched_settleAck
  | .cnp .. => touched_cnp
  | .ccRecover .. => touched_ccRecover
  | .pfcFrame .. => touched_pfcFrame
  | .rdmaRetryTimeout .. => touched_rdmaRetryTimeout
  | .rnrTimerExpiry .. => touched_rnrTimerExpiry
  | .contextFetchDone .. => touched_contextFetchDone
  | .raePortDown .. => touched_raePortDown
  | .ctxCreate .. => touched_ctxCreate
  | .ctxModify .. => touched_ctxModify
  | .ctxReset .. => touched_ctxReset
  | .ctxDestroy .. => touched_ctxDestroy
  | .ctxQuery .. => touched_ctxQuery
  | .keyCreate .. => touched_keyCreate
  | .keyDestroy .. => touched_keyDestroy
  | .keyQuery .. => touched_keyQuery
  | .raeTrig .. => touched_raeTrig
  | .clusterFenceWrite .. => touched_clusterFenceWrite
  | .trngHealthTest .. => touched_trngHealthTest
  | .drbgReseed => touched_drbgReseed
  | .loadXts .. => touched_loadXts
  | .loadGcm .. => touched_loadGcm
  | .zeroize .. => touched_zeroize
  | .query .. => touched_query
  | .tlRandomRead .. => touched_tlRandomRead
  | .svnCommit => touched_svnCommit
  | .getMeasurements .. => touched_getMeasurements
  | .challenge .. => touched_challenge
  | .getCertificate .. => touched_getCertificate
  | .keyExchange .. => touched_keyExchange
  | .setDomainKek .. => touched_setDomainKek
  | .clearDomainKek .. => touched_clearDomainKek
  | .writeRecoveryImage .. => touched_writeRecoveryImage
  | .writeConfiguration .. => touched_writeConfiguration
  | .serviceFirmwareStart .. => touched_serviceFirmwareStart
  | .pwrReqAssert .. => touched_pwrReqAssert
  | .pwrReqDeassert => touched_pwrReqDeassert
  | .railGood .. => touched_railGood
  | .railPgFall .. => touched_railPgFall
  | .rampTimeout .. => touched_rampTimeout
  | .pmbusPoll .. => touched_pmbusPoll
  | .railRetry .. => touched_railRetry
  | .upStepDelay => touched_upStepDelay
  | .corePhaseEnd .. => touched_corePhaseEnd
  | .configWaitTimeout => touched_configWaitTimeout
  | .downStepDelay => touched_downStepDelay
  | .minOffEnd => touched_minOffEnd
  | .whistleSync => touched_whistleSync
  | .whistleSyncTimeout => touched_whistleSyncTimeout
  | .whistle => touched_whistle
  | .ffClr => touched_ffClr
  | .domainSwitch .. => touched_domainSwitch
  | .domainPowerGood .. => touched_domainPowerGood
  | .domainSwitchTimeout .. => touched_domainSwitchTimeout
  | .dieOverTemperature => touched_dieOverTemperature
  | .flushNow => touched_flushNow
  | .daybookFlushDone .. => touched_daybookFlushDone
  | .daybookCheckpoint => touched_daybookCheckpoint
  | .dramRow .. => touched_dramRow
  | .fchMarch .. => touched_fchMarch
  | .cipKat .. => touched_cipKat
  | .abort => touched_abort
  | .pop => touched_pop
  | .coreOffWrite .. => touched_coreOffWrite
  | .mapBlockLoaded .. => touched_mapBlockLoaded
  | .warmRst => touched_warmRst
  | .wdogKick => touched_wdogKick
  | .watchdogExpiry => touched_watchdogExpiry
  | .functionLevelReset .. => touched_functionLevelReset
  | .registerWrite .. => touched_registerWrite
  | .alwaysOnPowerUp .. => touched_alwaysOnPowerUp
  | .abruptLoss .. => touched_abruptLoss
  | .carrierRemoved .. => touched_carrierRemoved
  | .resyncPageSend .. => touched_resyncPageSend
  | .rebuildStripe .. => touched_rebuildStripe
  | .linkDown .. => touched_linkDown
  | .networkPortPhyUp .. => touched_networkPortPhyUp
  | .heartbeatToggle => touched_heartbeatToggle
  | .registerRead .. => touched_registerRead

theorem exec_within {c : Instr} {s t : State} (h : exec c s = .next t) :
    Within (touchedParts c) (touchedFlds c) s t := ((exec_in c s).out t h).within (touched c)

theorem exec_keeps_pending {c : Instr} {s t : State} (h : exec c s = .next t) : t.pending = s.pending :=
  ((exec_in c s).out t h).pending

/-- A command keeps the invariant. -/
theorem exec_keeps_inv {c : Instr} {s t : State} (hinv : s.Inv) (h : exec c s = .next t) : t.Inv := by
  obtain ⟨hregs, hdram, hpend⟩ := hinv
  have hin := (exec_in c s).out t h
  exact ⟨hin.regsOk hregs, hin.dramOk hdram, hin.pending ▸ hpend⟩

theorem step_cons (c : Instr) (cs : List Instr) (s : State) :
    step { s with pending := c :: cs } = exec c { s with pending := cs } := rfl

theorem step_idle {s : State} (h : s.pending = []) : step s = .next s := by
  simp [step, h]

/-- Settles O1: the two cases of the queue. -/
theorem stepRunsFront : Obligations.StepRunsFront := ⟨step_cons, fun _ => step_idle⟩

theorem State.reset_inv : State.reset.Inv := ⟨rfl, rfl, rfl⟩

/-- Settles O2: no field is listed in the register table of reset, so each reads as its Reset value. -/
theorem resetHoldsTheResetValues : Obligations.ResetHoldsTheResetValues :=
  ⟨State.reset_inv, fun _ _ => rfl, rfl, rfl, rfl, rfl, rfl, rfl, rfl, rfl, rfl, rfl, rfl, rfl⟩

/-- Settles O3: the front command leaves the queue, and every command keeps the invariant. -/
theorem stepKeepsTheInvariant : Obligations.StepKeepsTheInvariant := by
  unfold Obligations.StepKeepsTheInvariant
  intro s t hinv hstep
  cases hq : s.pending with
  | nil =>
    rw [step_idle hq] at hstep
    cases hstep
    exact hinv
  | cons c cs =>
    obtain ⟨hregs, hdram, hpend⟩ := hinv
    rw [hq, List.all_cons, Bool.and_eq_true] at hpend
    have hrest : State.Inv { s with pending := cs } := ⟨hregs, hdram, hpend.2⟩
    have hexec : exec c { s with pending := cs } = .next t := by
      rw [← hstep, step, hq]
    exact exec_keeps_inv hrest hexec

/-- Settles O4: every row answers, and its footprint holds no queue. -/
theorem everyCommandAnswersANextState : Obligations.EveryCommandAnswersANextState := by
  unfold Obligations.EveryCommandAnswersANextState
  intro c s
  obtain ⟨t, ht⟩ := exec_answers c s
  exact ⟨t, ht, exec_keeps_pending ht⟩

/-- Settles O5: the footprint of each command lies within its lists. -/
theorem commandsStayInTheirFootprints : Obligations.CommandsStayInTheirFootprints :=
  fun _ _ _ h => ⟨exec_within h, exec_keeps_pending h⟩

end Sys2Proof.Machine
end

section
/-! Reading registers through the shared operations: flags, bits, counters, records and alerts (20_register_map.md). -/

namespace Sys2Proof.Machine

/-! ### What a field stores -/

/-- A field whose write rule is its width and its table's limits alone. -/
def Fld.plain (f : Fld) : Bool :=
  match f with
  | .GUAR_WT | .PG_REQ | .ALERT_EN | .WDOG_MS | .DEVICE_UID => false
  | _ => true

theorem Fld.store_plain {f : Fld} (h : f.plain = true) (i v : Nat) :
    f.store i v = min f.spec.hi (max f.spec.lo (v % 2 ^ f.spec.width)) := by
  cases f
  case GUAR_WT | PG_REQ | ALERT_EN | WDOG_MS | DEVICE_UID => cases h
  all_goals rfl

/-- A value within the limits is stored as it is. -/
theorem Fld.store_fits {f : Fld} (h : f.plain = true) (i : Nat) {v : Nat} (hlo : f.spec.lo ≤ v) (hhi : v ≤ f.spec.hi) :
    f.store i v = v := by
  have := f.spec_ok.2.2
  rw [Fld.store_plain h, Nat.mod_eq_of_lt (by omega)]
  omega

/-- A field that uses the whole of its width. -/
def Fld.full (f : Fld) : Bool := f.plain && f.spec.lo == 0 && f.spec.hi + 1 == 2 ^ f.spec.width

theorem Fld.store_full {f : Fld} (h : f.full = true) (i v : Nat) : f.store i v = v % 2 ^ f.spec.width := by
  simp only [Fld.full, Bool.and_eq_true, beq_iff_eq] at h
  have := Nat.mod_lt v (Nat.two_pow_pos f.spec.width)
  rw [Fld.store_plain h.1.1]
  omega

theorem Fld.store_b2n {f : Fld} (h : f.full = true) (hw : f.spec.width ≠ 0) (i : Nat) (b : Bool) :
    f.store i (b2n b) = b2n b := by
  rw [Fld.store_full h, Nat.mod_eq_of_lt]
  have := Nat.one_lt_two_pow hw
  cases b
  · exact Nat.two_pow_pos _
  · exact this

@[simp] theorem b2n_ne_zero (b : Bool) : (b2n b != 0) = b := by cases b <;> rfl
@[simp] theorem b2n_true : b2n true = 1 := rfl
@[simp] theorem b2n_false : b2n false = 0 := rfl

theorem State.rdi_plain_le {s : State} (hok : regsOk s.regs = true) {f : Fld} (h : f.plain = true) (i : Nat) :
    s.rdi f i ≤ f.spec.hi := by
  have := State.rdi_legal hok f i
  have hs := f.spec_ok
  rw [Fld.legal, beq_iff_eq, Fld.store_plain h] at this
  omega

theorem State.rdi_full_lt {s : State} (hok : regsOk s.regs = true) {f : Fld} (h : f.full = true) (i : Nat) :
    s.rdi f i < 2 ^ f.spec.width := by
  have := State.rdi_legal hok f i
  rw [Fld.legal, beq_iff_eq, Fld.store_full h] at this
  exact this ▸ Nat.mod_lt _ (Nat.two_pow_pos _)

/-! ### Single bits -/

/-- A number with one bit replaced, by what lies below, at and above that bit. -/
theorem setBit_eq (v i : Nat) (b : Bool) : setBit v i b = 2 ^ i * (2 * (v / 2 ^ i / 2) + b2n b) + v % 2 ^ i := by
  have hv := Nat.div_add_mod v (2 ^ i)
  have hq := Nat.div_add_mod (v / 2 ^ i) 2
  have hb : b2n b % 2 = b2n b := by cases b <;> rfl
  simp only [setBit, setBits, bits, Nat.shiftRight_eq_div_pow, Nat.pow_one, hb]
  set p := 2 ^ i
  set q := v / p
  have hsplit : p * q = p * (2 * (q / 2)) + q % 2 * p := by
    calc p * q = p * (2 * (q / 2) + q % 2) := by rw [hq]
      _ = _ := by ring
  have : p * (2 * (q / 2) + b2n b) = p * (2 * (q / 2)) + b2n b * p := by ring
  omega

theorem bit_setBit_of_ne (v : Nat) {i j : Nat} (b : Bool) (h : j ≠ i) : bit (setBit v i b) j = bit v j := by
  have hv := (Nat.div_add_mod v (2 ^ i)).symm
  have hr := Nat.mod_lt v (Nat.two_pow_pos i)
  rw [bit, bit, setBit_eq, Nat.testBit_two_pow_mul_add _ hr]
  conv_rhs => rw [hv, Nat.testBit_two_pow_mul_add _ hr]
  split
  · rfl
  · obtain ⟨n, hn⟩ : ∃ n, j - i = n + 1 := ⟨j - i - 1, by omega⟩
    have hb : (2 * (v / 2 ^ i / 2) + b2n b) / 2 = v / 2 ^ i / 2 := by
      have : b2n b ≤ 1 := by cases b <;> decide
      omega
    rw [hn, Nat.testBit_succ, Nat.testBit_succ, hb]

theorem bit_setBit_eq (v i j : Nat) (b : Bool) : bit (setBit v i b) j = if j = i then b else bit v j := by
  split
  · rename_i h; rw [h, bit_setBit]
  · rename_i h; exact bit_setBit_of_ne v b h

theorem setBit_lt {v i w : Nat} (b : Bool) (hv : v < 2 ^ w) (hi : i < w) : setBit v i b < 2 ^ w := by
  apply Nat.lt_pow_two_of_testBit
  intro j hj
  have := bit_setBit_of_ne v b (show j ≠ i by omega)
  rw [bit, bit] at this
  rw [this]
  exact Nat.testBit_lt_two_pow (Nat.lt_of_lt_of_le hv (Nat.pow_le_pow_right (by decide) hj))

theorem bit_mod_two_pow {v w i : Nat} (h : i < w) : bit (v % 2 ^ w) i = bit v i := by
  simp [bit, Nat.testBit_mod_two_pow, h]

/-! ### Writes -/

@[simp] theorem regsOk_wri {s : State} (h : regsOk s.regs = true) (f : Fld) (i v : Nat) : regsOk (s.wri f i v).regs = true :=
  regsOk_put f i v h

theorem regsOk_wr {s : State} (h : regsOk s.regs = true) (f : Fld) (v : Nat) : regsOk (s.wr f v).regs = true :=
  regsOk_wri h f 0 v

theorem regsOk_setf {s : State} (h : regsOk s.regs = true) (f : Fld) (b : Bool) : regsOk (s.setf f b).regs = true :=
  regsOk_wri h f 0 (b2n b)

theorem regsOk_setfi {s : State} (h : regsOk s.regs = true) (f : Fld) (i : Nat) (b : Bool) :
    regsOk (s.setfi f i b).regs = true := regsOk_wri h f i (b2n b)

theorem regsOk_setBitOf {s : State} (h : regsOk s.regs = true) (f : Fld) (i n : Nat) (b : Bool) :
    regsOk (s.setBitOf f i n b).regs = true := regsOk_wri h f i _

theorem regsOk_mwf {r : SMap Nat} (h : regsOk r = true) : mwf r = true := (regsOk_iff.1 h).1

/-- Reading a field through one write. -/
theorem State.rdi_wri_eq {s : State} (h : regsOk s.regs = true) (f g : Fld) (i j v : Nat) :
    (s.wri f i v).rdi g j = if f = g ∧ i = j then f.store i v else s.rdi g j := rdi_wri' (regsOk_mwf h) f g i j v

/-- The registers do not see the other parts. -/
@[simp] theorem State.rdi_mk (s : State) {glb dbk once md jr saved tpe dram fch stl nfc drc int prt cmd waits fences fgv
    drain mir rae sec pwr bst boot freeIdx out pending} (f : Fld) (i : Nat) :
    State.rdi ⟨s.regs, glb, dbk, once, md, jr, saved, tpe, dram, fch, stl, nfc, drc, int, prt, cmd, waits, fences, fgv,
      drain, mir, rae, sec, pwr, bst, boot, freeIdx, out, pending⟩ f i = s.rdi f i := rfl

theorem State.fl_setf {s : State} (h : regsOk s.regs = true) {f : Fld} (hf : f.full = true) (hw : f.spec.width ≠ 0)
    (b : Bool) : (s.setf f b).fl f = b := by
  rw [State.fl, State.rd, State.setf, State.wr, State.rdi_wri _ _ _ (regsOk_mwf h), Fld.store_b2n hf hw, b2n_ne_zero]

theorem State.fli_setfi {s : State} (h : regsOk s.regs = true) {f : Fld} (hf : f.full = true) (hw : f.spec.width ≠ 0)
    (i : Nat) (b : Bool) : (s.setfi f i b).fli f i = b := by
  rw [State.fli, State.setfi, State.rdi_wri _ _ _ (regsOk_mwf h), Fld.store_b2n hf hw, b2n_ne_zero]

theorem State.rdi_congr {s t : State} (h : t.regs = s.regs) (f : Fld) (i : Nat) : t.rdi f i = s.rdi f i := by
  rw [State.rdi, State.rdi, h]

theorem State.rd_congr {s t : State} (h : t.regs = s.regs) (f : Fld) : t.rd f = s.rd f := State.rdi_congr h f 0

/-- A value of the field's width is stored as it is. -/
theorem State.rdi_wri_fit {s : State} (h : regsOk s.regs = true) {f : Fld} (hf : f.full = true) {v : Nat}
    (hv : v < 2 ^ f.spec.width) (i : Nat) : (s.wri f i v).rdi f i = v := by
  rw [State.rdi_wri _ _ _ (regsOk_mwf h), Fld.store_full hf, Nat.mod_eq_of_lt hv]

theorem State.rd_wr {s : State} (h : regsOk s.regs = true) {f : Fld} (hf : f.full = true) {v : Nat}
    (hv : v < 2 ^ f.spec.width) : (s.wr f v).rd f = v := State.rdi_wri_fit h hf hv 0

theorem State.rd_wr_ne (s : State) {f g : Fld} (h : f ≠ g) (v : Nat) : (s.wr f v).rd g = s.rd g :=
  s.rdi_wri_ne (.inl h)

theorem State.fl_eq {s t : State} {f : Fld} (h : t.rdi f 0 = s.rdi f 0) : t.fl f = s.fl f := by
  rw [State.fl, State.fl, State.rd, State.rd, h]

theorem State.fli_eq {s t : State} {f : Fld} {i : Nat} (h : t.rdi f i = s.rdi f i) : t.fli f i = s.fli f i := by
  rw [State.fli, State.fli, h]

theorem State.fl_congr {s t : State} (h : t.regs = s.regs) (f : Fld) : t.fl f = s.fl f :=
  State.fl_eq (State.rdi_congr h f 0)

theorem State.fl_setf_ne (s : State) {f g : Fld} (h : f ≠ g) (b : Bool) : (s.setf f b).fl g = s.fl g :=
  State.fl_eq (s.rdi_wri_ne (.inl h))

theorem State.setf_rdi_ne (s : State) {f g : Fld} (h : f ≠ g) (b : Bool) (j : Nat) : (s.setf f b).rdi g j = s.rdi g j :=
  s.rdi_wri_ne (.inl h)

theorem State.setfi_rdi_ne (s : State) {f g : Fld} (h : f ≠ g) (i : Nat) (b : Bool) (j : Nat) :
    (s.setfi f i b).rdi g j = s.rdi g j := s.rdi_wri_ne (.inl h)

theorem State.setBitOf_rdi_ne (s : State) {f g : Fld} (h : f ≠ g) (i n : Nat) (b : Bool) (j : Nat) :
    (s.setBitOf f i n b).rdi g j = s.rdi g j := s.rdi_wri_ne (.inl h)

theorem Fld.le_anywhere (f : Fld) : f.foot.le anywhere = true := Foot.le_trans f.le_all rfl

theorem Fld.not_le_off (g : Fld) : g.foot.le g.off = false := by
  rw [Bool.eq_false_iff]
  intro h
  have hbit := Foot.le_testBit h (i := 28 + g.ctorIdx) (by rw [Fld.foot_eq, Nat.testBit_two_pow_self])
  have hall := Foot.le_testBit g.le_anywhere (i := 28 + g.ctorIdx) (by rw [Fld.foot_eq, Nat.testBit_two_pow_self])
  rw [Fld.off, Nat.testBit_xor, hall, Fld.foot_eq, Nat.testBit_two_pow_self] at hbit
  cases hbit

/-- What stays off a field leaves it. -/
theorem In.rdi_eq {g : Fld} {s t : State} (h : In g.off s t) (i : Nat) : t.rdi g i = s.rdi g i :=
  h.regs g i g.not_le_off

/-- One bit of a field that holds a bit per unit. -/
theorem State.bit_setBitOf {s : State} (h : regsOk s.regs = true) {f : Fld} (hf : f.full = true) (i : Nat) {n : Nat}
    (hn : n < f.spec.width) (m : Nat) (b : Bool) :
    bit ((s.setBitOf f i n b).rdi f i) m = if m = n then b else bit (s.rdi f i) m := by
  have hlt := setBit_lt b (State.rdi_full_lt h hf i) hn
  rw [State.setBitOf, State.rdi_wri _ _ _ (regsOk_mwf h), Fld.store_full hf, Nat.mod_eq_of_lt hlt, bit_setBit_eq]

/-! ### Records, counters and alerts -/

theorem notMem_dbkRegs {g : Fld} (h : g ∉ dbkFlds) (i : Nat) : (g, i) ∉ dbkRegs := by
  intro hm
  refine h ?_
  simp only [dbkRegs, List.mem_cons, Prod.mk.injEq, List.not_mem_nil, or_false] at hm
  simp only [dbkFlds, List.mem_cons, List.not_mem_nil, or_false]
  tauto

theorem notMem_alertRegs {g : Fld} (h : g ∉ alertFlds) (i : Nat) : (g, i) ∉ alertRegs := by
  intro hm
  refine h ?_
  simp only [alertRegs, List.mem_cons, Prod.mk.injEq, List.not_mem_nil, or_false] at hm
  simp only [alertFlds, List.mem_cons, List.not_mem_nil, or_false]
  tauto

@[simp] theorem State.record_rdi (s : State) (cls dom rule : Nat) (items : List (Nat × Nat)) {g : Fld} (h : g ∉ dbkFlds)
    (i : Nat) : (s.record cls dom rule items).rdi g i = s.rdi g i :=
  (s.record_only cls dom rule items).regs g i (notMem_dbkRegs h i)

@[simp] theorem State.recordOnce_rdi (s : State) (key cls dom rule : Nat) (items : List (Nat × Nat)) {g : Fld} (h : g ∉ dbkFlds)
    (i : Nat) : (s.recordOnce key cls dom rule items).rdi g i = s.rdi g i :=
  (s.recordOnce_only key cls dom rule items).regs g i (notMem_dbkRegs h i)

@[simp] theorem State.alert_rdi (s : State) (b : Nat) {g : Fld} (h : g ∉ alertFlds) (i : Nat) :
    (s.alert b).rdi g i = s.rdi g i := (s.alert_only b).regs g i (notMem_alertRegs h i)

@[simp] theorem State.count_rdi_of_ne (s : State) (f : Fld) (i : Nat) (ovf : Fld) (oi b : Nat) {g : Fld} (hf : g ≠ f)
    (ho : g ≠ ovf) (hd : g ∉ dbkFlds) (j : Nat) : (s.count f i ovf oi b).rdi g j = s.rdi g j := by
  refine (s.count_only f i ovf oi b).regs g j ?_
  simp [hf, ho, notMem_dbkRegs hd j]

@[simp] theorem regsOk_record {s : State} (h : regsOk s.regs = true) (cls dom rule : Nat) (items : List (Nat × Nat)) :
    regsOk (s.record cls dom rule items).regs = true :=
  (State.record_in (ft := State.record_foot) (In.refl _ s) (Foot.le_refl _)).regsOk h

@[simp] theorem regsOk_recordOnce {s : State} (h : regsOk s.regs = true) (key cls dom rule : Nat) (items : List (Nat × Nat)) :
    regsOk (s.recordOnce key cls dom rule items).regs = true :=
  (State.recordOnce_in (ft := State.recordOnce_foot) (In.refl _ s) (Foot.le_refl _)).regsOk h

@[simp] theorem regsOk_alert {s : State} (h : regsOk s.regs = true) (b : Nat) : regsOk (s.alert b).regs = true :=
  (State.alert_in (ft := State.alert_foot) (In.refl _ s) (Foot.le_refl _)).regsOk h

@[simp] theorem regsOk_count {s : State} (h : regsOk s.regs = true) (f : Fld) (i : Nat) (ovf : Fld) (oi b : Nat) :
    regsOk (s.count f i ovf oi b).regs = true :=
  (State.count_in (ft := anywhere) (In.refl _ s) f.le_anywhere ovf.le_anywhere rfl).regsOk h

theorem regsOk_when {s : State} {c : Bool} {f : State → State} (h : regsOk s.regs = true)
    (hf : regsOk (f s).regs = true) : regsOk (s.when c f).regs = true := by
  unfold State.when; split <;> assumption

/-- A counter that uses the whole of its width sticks at its maximum (R425). -/
theorem State.count_rdi {s : State} (h : regsOk s.regs = true) {f ovf : Fld} (hf : f.full = true) (hne : f ≠ ovf)
    (hd : f ∉ dbkFlds) (i oi b : Nat) :
    (s.count f i ovf oi b).rdi f i = min (2 ^ f.spec.width - 1) (s.rdi f i + 1) := by
  have hlt := State.rdi_full_lt h hf i
  have hw : (s.wri f i (s.rdi f i + 1)).rdi f i = (s.rdi f i + 1) % 2 ^ f.spec.width := by
    rw [State.rdi_wri _ _ _ (regsOk_mwf h), Fld.store_full hf]
  unfold State.count
  extract_lets top v t a
  split
  · rename_i hv
    have hmod : (v + 1) % 2 ^ f.spec.width = v + 1 := Nat.mod_eq_of_lt (by omega)
    split
    · rw [State.record_rdi _ _ _ _ _ hd, State.setBitOf, State.rdi_wri_ne _ (.inl (Ne.symm hne)), hw, hmod]
      omega
    · rw [hw, hmod]
      omega
  · omega

theorem State.intBit_cause (s : State) (b : Nat) (was : Bool) : (s.intBit b was).rd .ALERT_CAUSE = s.rd .ALERT_CAUSE :=
  (State.intBit_in (ft := State.intBit_foot) (In.refl _ s) (Foot.le_refl _)).regs .ALERT_CAUSE 0 rfl

/-- An alert sets its block's bit of ALERT_CAUSE and no other (R469). -/
theorem State.alert_cause {s : State} (h : regsOk s.regs = true) {b : Nat} (hb : b < 17) (j : Nat) :
    bit ((s.alert b).rd .ALERT_CAUSE) j = if j = b then true else bit (s.rd .ALERT_CAUSE) j := by
  rw [State.alert, State.intBit_cause, State.alertOut, State.setf, State.wr, State.rd, State.rdi_wri_ne _ (.inl (by decide)),
    State.bit_setBitOf h rfl 0 hb]
  rfl

theorem State.alert_sets {s : State} (h : regsOk s.regs = true) {b : Nat} (hb : b < 17) :
    bit ((s.alert b).rd .ALERT_CAUSE) b = true := by
  rw [State.alert_cause h hb, if_pos rfl]

end Sys2Proof.Machine
end

section
/-! Sensing the energy store (03_float_governor.md R65, R66). -/

namespace Sys2Proof.Machine

/-- A sense fault that is new sets its flag, disarms the comparator and raises the FGV alert. -/
theorem State.senseFault_facts {s : State} (hok : regsOk s.regs = true) {f : Fld} (hf : f.full = true)
    (hw : f.spec.width ≠ 0) (hd : f ∉ dbkFlds) (ha : f ∉ alertFlds) (hne : f ≠ .ARMED) (cause : Nat) (hoff : s.fl f = false) :
    (s.senseFault f cause).fl f = true ∧ (s.senseFault f cause).fl .ARMED = false ∧
      bit ((s.senseFault f cause).rd .ALERT_CAUSE) blkFGV = true := by
  have hset := regsOk_wri hok f 0 (b2n true)
  have hdis := regsOk_wri hset .ARMED 0 (b2n false)
  rw [State.senseFault, if_neg (by simp [hoff])]
  refine ⟨?_, ?_, State.alert_sets (regsOk_record hdis ..) (by decide)⟩
  · rw [State.fl, State.rd, State.alert_rdi _ _ ha, State.record_rdi _ _ _ _ _ hd, State.setf, State.wr,
      State.rdi_wri_ne _ (.inl (Ne.symm hne))]
    exact State.fl_setf hok hf hw true
  · rw [State.fl, State.rd, State.alert_rdi _ _ (by decide), State.record_rdi _ _ _ _ _ (by decide)]
    exact State.fl_setf hset rfl (by decide) false

/-- SNS_OPEN follows its pin, and a condition that stands sets the fault. -/
theorem State.senseCond_eq (s : State) (mis opn : Bool) :
    ∃ t, s.senseCond mis opn = (if mis || opn then t.senseFault .HOLDUP_SNS_FAULT 1 else t) ∧
      t.regs = (s.setf .SNS_OPEN opn).regs := ⟨_, rfl, rfl⟩

/-- A condition that comes sets the fault. -/
theorem State.senseCond_faults {s : State} (hok : regsOk s.regs = true) {mis opn : Bool} (h : (mis || opn) = true)
    (hoff : s.fl .HOLDUP_SNS_FAULT = false) :
    (s.senseCond mis opn).fl .HOLDUP_SNS_FAULT = true ∧ (s.senseCond mis opn).fl .ARMED = false ∧
      bit ((s.senseCond mis opn).rd .ALERT_CAUSE) blkFGV = true := by
  obtain ⟨t, heq, ht⟩ := s.senseCond_eq mis opn
  have htok : regsOk t.regs = true := ht ▸ regsOk_wri hok ..
  have htoff : t.fl .HOLDUP_SNS_FAULT = false := by
    rw [State.fl_congr ht, State.fl_setf_ne _ (by decide), hoff]
  rw [heq, if_pos h]
  exact State.senseFault_facts htok rfl (by decide) (by decide) (by decide) (by decide) 1 htoff

/-- Without a condition only SNS_OPEN changes, beside the debounce. -/
theorem State.senseCond_quiet (s : State) : Only [.fgv] [(.SNS_OPEN, 0)] s (s.senseCond false false) :=
  ((Only.refl _ _ s).setf (by simp)).mk_fgv (by simp)

theorem State.senseCond_open {s : State} (hok : regsOk s.regs = true) (mis opn : Bool) :
    (s.senseCond mis opn).fl .SNS_OPEN = opn := by
  obtain ⟨t, heq, ht⟩ := s.senseCond_eq mis opn
  have hopen : t.fl .SNS_OPEN = opn := by rw [State.fl_congr ht, State.fl_setf hok rfl (by decide)]
  have hin : In (Fld.off .SNS_OPEN) t (t.senseFault .HOLDUP_SNS_FAULT 1) := State.senseFault_in (In.refl _ t) rfl rfl
  rw [heq]
  split
  · rw [State.fl_eq (hin.rdi_eq 0), hopen]
  · exact hopen

/-- PMBUS_MV takes the reading. -/
theorem State.pmbusMv_facts {s : State} (hok : regsOk s.regs = true) {mv : Nat} (hmv : mv < 2 ^ 16) :
    (s.wr .PMBUS_MV mv).rd .PMBUS_MV = mv := by
  rw [State.rd, State.wr, State.rdi_wri _ _ _ (regsOk_mwf hok), Fld.store_full rfl]
  exact Nat.mod_eq_of_lt hmv

/-- A poll judges the reading against HOLDUP_MV. -/
theorem exec_holdupPmbusPoll {s : State} (hok : regsOk s.regs = true) {mv a : Nat} (hmv : mv < 2 ^ 16)
    (ha : a = s.rd .HOLDUP_MV) : exec (.holdupPmbusPoll mv) s = .next ((s.wr .PMBUS_MV mv).senseCond
      (decide (max mv a < 20 * (max mv a - min mv a))) (s.fl .SNS_OPEN)) := by
  have hb : (s.wr .PMBUS_MV mv).rd .HOLDUP_MV = a := by rw [ha]; exact s.rdi_wri_ne (.inl (by decide))
  have ho : (s.wr .PMBUS_MV mv).fl .SNS_OPEN = s.fl .SNS_OPEN := State.fl_eq (s.rdi_wri_ne (.inl (by decide)))
  simp only [exec, execHoldupPmbusPoll, State.pmbusMv_facts hok hmv, hb, ho]

theorem State.senseCond_pmbusMv (s : State) (mis opn : Bool) :
    (s.senseCond mis opn).rd .PMBUS_MV = s.rd .PMBUS_MV :=
  (State.senseCond_in (ft := Fld.off .PMBUS_MV) (In.refl _ s) rfl).rdi_eq 0

/-- Settles O7, one case per row. -/
theorem holdupSensing : Obligations.HoldupSensing := by
  unfold Obligations.HoldupSensing
  refine ⟨?armed, ?disagrees, ?agrees, ?opens, ?negative, ?ends, ?invert⟩
  case armed =>
    intro s hinv hmv hsns hrev hrun
    refine ⟨s.setf .ARMED true, ?_, State.fl_setf hinv.1 rfl (by decide) true⟩
    simp [exec, execFloorComparatorArmed, hmv, hsns, hrev, hrun]
  case disagrees =>
    intro s mv a hinv hmv ha hfar hoff
    have hok := regsOk_wri hinv.1 .PMBUS_MV 0 mv
    have hoff' : (s.wr .PMBUS_MV mv).fl .HOLDUP_SNS_FAULT = false := by
      rw [← hoff]; exact State.fl_eq (s.rdi_wri_ne (.inl (by decide)))
    refine ⟨_, exec_holdupPmbusPoll hinv.1 hmv ha, ?_, State.senseCond_faults hok (by simp [hfar]) hoff'⟩
    rw [State.senseCond_pmbusMv, State.pmbusMv_facts hinv.1 hmv]
  case agrees =>
    intro s mv a hinv hmv ha hnear hopen
    have hfar : decide (max mv a < 20 * (max mv a - min mv a)) = false := decide_eq_false (Nat.not_lt.2 hnear)
    have honly := State.senseCond_quiet (s.wr .PMBUS_MV mv)
    refine ⟨_, exec_holdupPmbusPoll hinv.1 hmv ha, ?_⟩
    rw [hfar, hopen]
    refine ⟨?_, ?_, ?_, honly.dbk_eq (by simp)⟩
    · rw [State.senseCond_pmbusMv, State.pmbusMv_facts hinv.1 hmv]
    · rw [honly.fl_eq (by simp)]; exact State.fl_eq (s.rdi_wri_ne (.inl (by decide)))
    · rw [honly.fl_eq (by simp)]; exact State.fl_eq (s.rdi_wri_ne (.inl (by decide)))
  case opens =>
    intro s hinv hoff
    obtain ⟨hset, hdis, -⟩ := State.senseCond_faults hinv.1 (mis := s.fgv.mismatch) (opn := true) (by simp) hoff
    exact ⟨_, rfl, State.senseCond_open hinv.1 _ _, hset, hdis⟩
  case negative =>
    intro s hinv hoff
    have hok := regsOk_wri hinv.1 .SNS_NEG 0 1
    have hoff' : (s.setf .SNS_NEG true).fl .HOLDUP_REVERSED = false := by rw [State.fl_setf_ne _ (by decide), hoff]
    obtain ⟨hset, hdis, -⟩ := State.senseFault_facts (s := s.setf .SNS_NEG true) (f := .HOLDUP_REVERSED) hok rfl (by decide)
      (by decide) (by decide) (by decide) 2 hoff'
    have hin : In (Fld.off .SNS_NEG) (s.setf .SNS_NEG true) ((s.setf .SNS_NEG true).senseFault .HOLDUP_REVERSED 2) :=
      State.senseFault_in (In.refl _ _) rfl rfl
    exact ⟨_, rfl, (State.fl_eq (hin.rdi_eq 0)).trans (State.fl_setf hinv.1 rfl (by decide) true), hset, hdis⟩
  case ends =>
    intro s hinv
    refine ⟨(s.setf .SNS_NEG false).setf .HOLDUP_REVERSED false, rfl, ?_,
      State.fl_setf (regsOk_wri hinv.1 ..) rfl (by decide) false⟩
    rw [State.fl_setf_ne _ (by decide), State.fl_setf hinv.1 rfl (by decide)]
  case invert =>
    intro s v hinv hrun
    refine ⟨s.invertWrite v, by simp only [exec, execHoldupInvertWrite, State.barWrite_of_running hrun], ?_⟩
    have hset := State.fl_setf hinv.1 (f := .HOLDUP_INVERT) rfl (by decide) v
    cases v with
    | false => exact ⟨hset, State.fl_setf_ne s (by decide) false⟩
    | true =>
      exact ⟨(State.fl_setf_ne _ (by decide) false).trans hset, State.fl_setf (regsOk_wri hinv.1 ..) rfl (by decide) false⟩

end Sys2Proof.Machine
end

section
/-! The capacitance cycle and the drain-rate rehearsal (03_float_governor.md R67 to R71, Table 03.3). -/

namespace Sys2Proof.Machine

/-- What the charger is asked for leaves the registers, and its address is theirs. -/
theorem State.rd_fgv (s : State) (x) (f : Fld) : ({ s with fgv := x } : State).rd f = s.rd f := rfl

/-- The low target of a cycle (R68). -/
theorem State.ccalStart_facts {s : State} (hok : regsOk s.regs = true) {vset lo : Nat} (hidle : s.fl .CCAL_BUSY = false)
    (hon : s.rd .CCAL_LO_MV ≠ 0) (hlo : lo = max (s.rd .CCAL_LO_MV) (s.rd .HOLDUP_FLOOR_MV + s.rd .HOLDUP_HYST_MV)) :
    (s.ccalStart vset).fl .CCAL_BUSY = true ∧ (s.ccalStart vset).fgv.ccal = .discharge ∧
      (s.ccalStart vset).fgv.v1 = s.rd .HOLDUP_MV ∧ (s.ccalStart vset).fgv.loMv = lo ∧
      (s.ccalStart vset).fgv.vset = vset ∧
      (s.ccalStart vset).out = s.out ++ [Msg.pmbus (s.rd .HOLDUP_PMBUS_ADDR) 0 0x21 lo] := by
  have haddr : (s.setf .CCAL_BUSY true).rdi .HOLDUP_PMBUS_ADDR 0 = s.rdi .HOLDUP_PMBUS_ADDR 0 :=
    s.rdi_wri_ne (.inl (by decide))
  have hstart : ¬(s.fl .CCAL_BUSY || decide (s.rd .CCAL_LO_MV = 0)) = true := by simp [hidle, hon]
  subst hlo
  obtain ⟨t, heq, hregs, hfgv, hout⟩ : ∃ t : State, s.ccalStart vset = t ∧ t.regs = (s.setf .CCAL_BUSY true).regs ∧
      t.fgv = { s.fgv with ccal := .discharge, v1 := s.rd .HOLDUP_MV, vset := vset, charge := 0
                           loMv := max (s.rd .CCAL_LO_MV) (s.rd .HOLDUP_FLOOR_MV + s.rd .HOLDUP_HYST_MV) } ∧
      t.out = s.out ++ [Msg.pmbus ((s.setf .CCAL_BUSY true).rdi .HOLDUP_PMBUS_ADDR 0) 0 0x21
        (max (s.rd .CCAL_LO_MV) (s.rd .HOLDUP_FLOOR_MV + s.rd .HOLDUP_HYST_MV))] := by
    refine ⟨_, State.ccalStart.eq_def s vset |>.trans (if_neg hstart), rfl, rfl, rfl⟩
  rw [heq, hfgv, hout, haddr]
  exact ⟨(State.fl_congr hregs _).trans (State.fl_setf hok rfl (by decide) true), rfl, rfl, rfl, rfl, rfl⟩

/-- The range check of step 4 takes a quotient in range. -/
theorem State.capResult_accepts {s : State} {v1 v2 d : Nat} (hd : d = v1 - v2) (hpos : 0 < d)
    (hlow : s.rd .HOLDUP_CAP_NOM_MF * d ≤ 2 * s.fgv.charge)
    (hhigh : 100 * s.fgv.charge ≤ 110 * s.rd .HOLDUP_CAP_NOM_MF * d) :
    s.capResult v1 v2 = s.wr .HOLDUP_CAP_MEAS_MF (s.fgv.charge / d) := by
  have hne : ¬v1 = v2 := by omega
  have hlt : ¬v1 < v2 := by omega
  simp only [State.capResult, if_neg hne, if_neg hlt, ← hd, hlow, hhigh, and_self, if_true]

/-- The range check of step 4 rejects a negative quotient and one out of range. -/
theorem State.capResult_rejects {s : State} {v1 v2 d : Nat} (hd : d = v1 - v2)
    (hout : v1 < v2 ∨ 0 < d ∧ (2 * s.fgv.charge < s.rd .HOLDUP_CAP_NOM_MF * d ∨
      110 * s.rd .HOLDUP_CAP_NOM_MF * d < 100 * s.fgv.charge)) :
    ∃ items, s.capResult v1 v2 = (s.setf .CAL_REJECT true).record clsWarn 0 67 items := by
  have hne : ¬v1 = v2 := by omega
  by_cases hlt : v1 < v2
  · exact ⟨item 7 0, by simp only [State.capResult, if_neg hne, if_pos hlt]⟩
  · have hbad : ¬(s.rd .HOLDUP_CAP_NOM_MF * d ≤ 2 * s.fgv.charge ∧
        100 * s.fgv.charge ≤ 110 * s.rd .HOLDUP_CAP_NOM_MF * d) := by omega
    exact ⟨item 7 (s.fgv.charge / d), by simp only [State.capResult, if_neg hne, if_neg hlt, ← hd, if_neg hbad]⟩

/-- The end of a cycle whose store is charged again judges its quotient. -/
theorem exec_ccalRecharged_charge {s : State} (hrun : s.draining = false) (hph : s.fgv.ccal = .charge)
    (hmv : s.fgv.v1 ≤ s.rd .HOLDUP_MV) : ∃ t : State, exec .ccalRecharged s = .next (t.capResult s.fgv.v1 s.fgv.v2) ∧
      t.regs = (s.setf .CCAL_BUSY false).regs ∧ t.fgv = { s.fgv with ccal := .idle } := by
  refine ⟨{ s.setf .CCAL_BUSY false with fgv := { s.fgv with ccal := .idle } }, ?_, rfl, rfl⟩
  simp [exec, execCcalRecharged, hrun, hph, hmv]

/-- The least of a list, from its fold. -/
theorem foldl_min_le (l : List Nat) (a : Nat) : l.foldl min a ≤ a ∧ ∀ x ∈ l, l.foldl min a ≤ x := by
  induction l generalizing a with
  | nil => simp
  | cons b r ih =>
    obtain ⟨hle, hall⟩ := ih (min a b)
    refine ⟨hle.trans (Nat.min_le_left a b), fun x hx => ?_⟩
    rcases List.mem_cons.1 hx with rfl | hx
    · exact hle.trans (Nat.min_le_right a x)
    · exact hall x hx

theorem foldl_min_mem (l : List Nat) (a : Nat) : l.foldl min a = a ∨ l.foldl min a ∈ l := by
  induction l generalizing a with
  | nil => exact .inl rfl
  | cons b r ih =>
    rcases ih (min a b) with h | h
    · rw [List.foldl_cons, h]
      rcases Nat.le_total a b with hab | hab
      · exact .inl (Nat.min_eq_left hab)
      · exact .inr (by simp [Nat.min_eq_right hab])
    · exact .inr (List.mem_cons_of_mem _ h)

/-- The rate registers are registers alone. -/
@[simp] theorem State.rateRegs_fgv (s : State) : s.rateRegs.fgv = s.fgv := by
  rw [State.rateRegs]
  split <;> simp

/-- With a rate of 32 bits newest, the rate registers show it and the least of the history (R70). -/
theorem State.rateRegs_facts {s : State} (hok : regsOk s.regs = true) {rate : Nat} {l : List Nat}
    (hl : s.fgv.rates = l) (hlast : l.getLast? = some rate) (hlt : ∀ r ∈ l, r < 2 ^ 32) :
    s.rateRegs.rd .DRAIN_RATE_LAST = rate ∧ s.rateRegs.rd .DRAIN_RATE_CAL ≤ rate ∧
      (∀ r ∈ l, s.rateRegs.rd .DRAIN_RATE_CAL ≤ r) ∧ s.rateRegs.rd .DRAIN_RATE_CAL ∈ l ∧
      s.rateRegs.fl .RATE_VALID = true := by
  have hmem : rate ∈ l := List.mem_of_getLast? hlast
  have hmin := foldl_min_le l rate
  have hin : l.foldl min rate ∈ l := (foldl_min_mem l rate).elim (fun e => by rw [e]; exact hmem) id
  have hok1 := regsOk_wri hok .DRAIN_RATE_LAST 0 rate
  have hok2 := regsOk_wri hok1 .DRAIN_RATE_CAL 0 (l.foldl min rate)
  have heq : s.rateRegs = ((s.wr .DRAIN_RATE_LAST rate).wr .DRAIN_RATE_CAL (l.foldl min rate)).setf .RATE_VALID true := by
    simp only [State.rateRegs, hl, hlast]
  have hnew : s.rateRegs.rd .DRAIN_RATE_LAST = rate := by
    rw [heq, State.rd, State.setf, State.wr, State.wr, State.wr, State.rdi_wri_ne _ (.inl (by decide)),
      State.rdi_wri_ne _ (.inl (by decide)), State.rdi_wri _ _ _ (regsOk_mwf hok), Fld.store_full rfl]
    exact Nat.mod_eq_of_lt (hlt _ hmem)
  have hcal : s.rateRegs.rd .DRAIN_RATE_CAL = l.foldl min rate := by
    rw [heq, State.rd, State.setf, State.wr, State.wr, State.wr, State.rdi_wri_ne _ (.inl (by decide)),
      State.rdi_wri _ _ _ (regsOk_mwf hok1), Fld.store_full rfl]
    exact Nat.mod_eq_of_lt (hlt _ hin)
  rw [hnew, hcal]
  exact ⟨rfl, hmin.1, hmin.2, hin, heq ▸ State.fl_setf hok2 rfl (by decide) true⟩

/-- Settles O8, one case per row. -/
theorem calibrations : Obligations.Calibrations := by
  unfold Obligations.Calibrations
  refine ⟨?start, ?discharged, ?abandon, ?poll, ?accepted, ?rejected, ?vcal, ?rehearsal, ?done, ?clear⟩
  case start =>
    intro s i vset lo hinv hrun hidle hon hi hlo
    refine ⟨s.ccalStart vset, ?_, State.ccalStart_facts hinv.1 hidle hon hlo⟩
    rcases hi with rfl | ⟨rfl, hh⟩
    · simp only [exec, execCcalNow, State.barWrite_of_running hrun]
    · simp [exec, execCcalInterval, hrun, hh]
  case discharged =>
    intro s hrun hph hmv
    simp [exec, execCcalDischarged, hrun, hph, hmv, State.vout, State.send, State.rd_fgv]
  case abandon =>
    intro s hinv hrun hph
    have haddr : (s.setf .CCAL_BUSY false).rdi .HOLDUP_PMBUS_ADDR 0 = s.rdi .HOLDUP_PMBUS_ADDR 0 :=
      s.rdi_wri_ne (.inl (by decide))
    refine ⟨{ s.setf .CCAL_BUSY false with fgv := { s.fgv with ccal := .idle }
                                           out := s.out ++ [Msg.pmbus (s.rd .HOLDUP_PMBUS_ADDR) 0 0x21 s.fgv.vset] },
      ?_, rfl, ?_, ?_, rfl⟩
    · simp [exec, execCcalAbandon, hrun, hph, State.vout, State.send, State.rd, haddr]
    · exact (State.fl_congr (t := s.setf .CCAL_BUSY false) rfl _).trans (State.fl_setf hinv.1 rfl (by decide) false)
    · exact (State.rdi_congr (t := s.setf .CCAL_BUSY false) rfl _ _).trans (s.rdi_wri_ne (.inl (by decide)))
  case poll =>
    intro s ma hrun hph
    rcases hph with hph | hph <;> simp [exec, execCcalIoutPoll, hrun, hph]
  case accepted =>
    intro s d hinv hrun hph hmv hd hpos hlow hhigh hfit
    obtain ⟨t, hexec, hregs, hfgv⟩ := exec_ccalRecharged_charge hrun hph hmv
    have hok := regsOk_wri hinv.1 .CCAL_BUSY 0 (b2n false)
    have htok : regsOk t.regs = true := hregs ▸ hok
    have hnom : t.rd .HOLDUP_CAP_NOM_MF = s.rd .HOLDUP_CAP_NOM_MF :=
      (State.rdi_congr hregs _ _).trans (s.rdi_wri_ne (.inl (by decide)))
    have hq : t.fgv.charge = s.fgv.charge := by rw [hfgv]
    rw [State.capResult_accepts hd hpos (by rwa [hnom, hq]) (by rwa [hnom, hq]), hq] at hexec
    refine ⟨_, hexec, ?_, ?_, by rw [State.wr_fgv, hfgv]⟩
    · rw [State.rd, State.wr, State.rdi_wri _ _ _ (regsOk_mwf htok), Fld.store_full rfl]
      exact Nat.mod_eq_of_lt hfit
    · rw [State.wr, State.fl_eq (t.rdi_wri_ne (f := .HOLDUP_CAP_MEAS_MF) (g := .CCAL_BUSY) (.inl (by decide))), State.fl_congr hregs, State.fl_setf hinv.1 rfl (by decide)]
  case rejected =>
    intro s d hinv hrun hph hmv hd hout
    obtain ⟨t, hexec, hregs, hfgv⟩ := exec_ccalRecharged_charge hrun hph hmv
    have htok : regsOk t.regs = true := hregs ▸ regsOk_wri hinv.1 ..
    have hnom : t.rd .HOLDUP_CAP_NOM_MF = s.rd .HOLDUP_CAP_NOM_MF :=
      (State.rdi_congr hregs _ _).trans (s.rdi_wri_ne (.inl (by decide)))
    have hq : t.fgv.charge = s.fgv.charge := by rw [hfgv]
    obtain ⟨items, hrej⟩ := State.capResult_rejects (s := t) hd (by rwa [hnom, hq])
    rw [hrej] at hexec
    refine ⟨_, hexec, ?_, ?_, ?_⟩
    · rw [State.rd, State.record_rdi _ _ _ _ _ (by decide), State.setf, State.wr, State.rdi_wri_ne _ (.inl (by decide)),
        State.rdi_congr hregs, State.setf, State.wr, State.rdi_wri_ne _ (.inl (by decide)), State.rd]
    · rw [State.fl_eq (State.record_rdi _ _ _ _ _ (by decide) 0), State.fl_setf htok rfl (by decide)]
    · rw [State.fl_eq (State.record_rdi _ _ _ _ _ (by decide) 0), State.fl_setf_ne _ (by decide), State.fl_congr hregs,
        State.fl_setf hinv.1 rfl (by decide)]
  case vcal =>
    intro s hrun
    simp only [exec, execVcalNow, State.barWrite_of_running hrun]
  case rehearsal =>
    intro s hrun hidle
    refine ⟨s.rehearse, by simp [exec, execRehearsal, hrun, hidle], rfl, ?_, ?_, ?_⟩
    all_goals rfl
  case done =>
    intro s rate hinv hrun hreh hrate hrates
    refine ⟨_, by simp only [exec, execRehearsalDone, hreh, hrun, Bool.not_true, Bool.or_self, if_false, Bool.false_eq_true]; rfl, ?_⟩
    have hlen : (s.fgv.rates ++ [rate]).length = s.fgv.rates.length + 1 := by simp
    obtain ⟨hlast, hle, hall, hmem, hvalid⟩ := State.rateRegs_facts
      (s := { s with fgv := { s.fgv with rehearsal := false, rates := (s.fgv.rates ++ [rate]).drop (s.fgv.rates.length + 1 - 8) } })
      (rate := rate) hinv.1 rfl (by rw [List.getLast?_drop]; simp)
      (fun r hr => (List.mem_append.1 (List.mem_of_mem_drop hr)).elim (hrates r)
        fun hr => by rw [List.mem_singleton.1 hr]; exact hrate)
    simp only [Nat.mod_eq_of_lt hrate, hlen]
    refine ⟨by rw [State.rateRegs_fgv], by rw [State.rateRegs_fgv], hlast, hle, ?_, ?_, hvalid⟩
    all_goals rw [State.rateRegs_fgv]; assumption
  case clear =>
    intro s hinv hrun
    refine ⟨s.wr .DRAIN_POWER_MEAS_W 0, by simp only [exec, execMeasClr, State.barWrite_of_running hrun], ?_⟩
    rw [State.rd, State.wr, State.rdi_wri _ _ _ (regsOk_mwf hinv.1)]
    rfl

end Sys2Proof.Machine
end

section
/-! Online self-tests: their starts, their end and the oldest result (18_self_test_and_service.md). -/

namespace Sys2Proof.Machine

/-- The units of an online test (R438). -/
def State.testUnits (s : State) (test : Nat) : Nat := if test = 6 then 64 * s.rowsPerBank else 1

/-- A start with an eligible target while no test runs. -/
theorem State.bstStart_eligible {s : State} (hok : regsOk s.regs = true) {test ch rank group : Nat} (htest : test < 8)
    (hrows : s.rowsPerBank ≤ 2 ^ 18) (hidle : s.bst.test = 0) (hgo : s.testable test ch rank group = true) :
    ∃ t : State, s.bstStart test ch rank group = t ∧ t.fl .BST_STATUS_BUSY = true ∧ t.rd .TEST_NOW = test ∧
      t.rd .UNITS_LEFT = s.testUnits test ∧ t.bst = ⟨test, ch, rank, group, 0, 0, false, [], s.bst.fifo, false⟩ := by
  let u := (s.setf .BST_STATUS_BUSY true).wr .TEST_NOW test
  obtain ⟨t, heq, hregs, hbst⟩ : ∃ t : State, s.bstStart test ch rank group = t ∧
      t.regs = (u.wr .UNITS_LEFT (u.testUnits test)).regs ∧ t.bst = ⟨test, ch, rank, group, 0, 0, false, [], s.bst.fifo, false⟩ :=
    ⟨_, (State.bstStart.eq_def s ..).trans (if_neg (by simp [hidle, hgo])), rfl, rfl⟩
  have hunits : u.testUnits test = s.testUnits test := by
    simp [u, State.testUnits, State.rowsPerBank, State.rd, State.setf, State.rdi_wri_eq, hok]
  rw [hunits] at hregs
  have hfit : s.testUnits test < 2 ^ 25 := by
    rw [State.testUnits]
    split <;> omega
  refine ⟨t, heq, ?_, ?_, ?_, hbst⟩
  all_goals
    simp only [State.fl, State.rd_congr hregs]
    simp (disch := solve_by_elim [regsOk_wri]) [u, State.rd, State.setf, State.rdi_wri_eq, Fld.store, Fld.spec]
  all_goals omega

/-- Any other start is refused. -/
theorem State.bstStart_refused {s : State} {test ch rank group : Nat}
    (h : s.bst.test ≠ 0 ∨ s.testable test ch rank group = false) : s.bstStart test ch rank group = s.setf .REFUSED true := by
  rw [State.bstStart, if_pos]
  simpa using h

/-- What an online test's start is (Table 18.1). -/
theorem exec_bstStart {s : State} {i : Instr} {test ch rank group units : Nat} (hrun : s.draining = false)
    (hi : (i = .dramRow ch rank ∧ test = 6 ∧ group = 0 ∧ units = 64 * s.rowsPerBank) ∨
      (i = .fchMarch ch group ∧ test = 5 ∧ rank = 0 ∧ units = 1) ∨
      (i = .cipKat ch ∧ test = 7 ∧ rank = 0 ∧ group = 0 ∧ units = 1)) :
    exec i s = .next (s.bstStart test ch rank group) ∧ test < 8 ∧ units = s.testUnits test := by
  rcases hi with ⟨rfl, rfl, rfl, rfl⟩ | ⟨rfl, rfl, rfl, rfl⟩ | ⟨rfl, rfl, rfl, rfl, rfl⟩ <;>
    exact ⟨by simp only [exec, execDramRow, execFchMarch, execCipKat, State.barWrite_of_running hrun], by decide, rfl⟩

/-- The end of a test keeps the results. -/
theorem State.bstStop_facts {s : State} (hok : regsOk s.regs = true) (hbusy : s.bst.test ≠ 0) :
    s.bstStop.fl .BST_STATUS_BUSY = false ∧ s.bstStop.rd .TEST_NOW = 0 ∧ s.bstStop.bst.test = 0 ∧
      s.bstStop.bst.fifo = s.bst.fifo := by
  rw [State.bstStop, if_neg hbusy]
  simp (disch := solve_by_elim [regsOk_wri]) [State.fl, State.rd, State.setf, State.rdi_wri_eq, Fld.store, Fld.spec, bstNone]

/-- RES_USED and RES show the fill and the oldest result. -/
theorem State.fifoRegs_facts {s : State} (hok : regsOk s.regs = true) {e : Nat × Nat × Nat} {n : Nat} (hn : s.bst.fifo.length = n)
    (hlen : n < 512)
    (he : s.bst.fifo.head?.getD (0, 0, 0) = e) :
    s.fifoRegs.bst = s.bst ∧ s.fifoRegs.rd .RES_USED = n ∧ s.fifoRegs.rdi .RES 0 = e.1 % 2 ^ 64 ∧
      s.fifoRegs.rdi .RES 1 = e.2.1 % 2 ^ 64 ∧ s.fifoRegs.rdi .RES 2 = e.2.2 % 2 ^ 64 := by
  simp (disch := solve_by_elim [regsOk_wri]) [State.fifoRegs, State.rd, State.rdi_wri_eq, Fld.store, Fld.spec, hn, he]
  omega

/-- Settles O52, a case for the starts, for ABORT and for POP. -/
theorem onlineTests : Obligations.OnlineTests := by
  unfold Obligations.OnlineTests
  refine ⟨?start, ?abort, ?pop⟩
  case start =>
    intro s i test ch rank group units hinv hrun hrows hi
    obtain ⟨hexec, htest, rfl⟩ := exec_bstStart hrun hi
    constructor
    · intro hidle hgo
      obtain ⟨t, heq, hfacts⟩ := State.bstStart_eligible hinv.1 htest hrows hidle hgo
      exact ⟨t, heq ▸ hexec, hfacts⟩
    · intro hno
      exact ⟨_, State.bstStart_refused hno ▸ hexec, rfl, State.fl_setf hinv.1 rfl (by decide) true⟩
  case abort =>
    intro s hinv hrun hbusy
    have hexec : exec .abort s = .next s.bstAbort := by simp only [exec, execAbort, State.barWrite_of_running hrun]
    rw [State.bstAbort, if_neg hbusy] at hexec
    constructor
    · intro hstep
      exact ⟨_, by rwa [if_pos hstep] at hexec, State.bstStop_facts hinv.1 hbusy⟩
    · intro hstep
      rwa [if_neg hstep] at hexec
  case pop =>
    intro s e f r hinv hrun
    have hexec : exec .pop s = .next ({ s with bst := { s.bst with fifo := s.bst.fifo.drop 1 } } : State).fifoRegs := by
      simp only [exec, execPop, State.barWrite_of_running hrun, State.pop]
    constructor
    · intro hfifo hlen
      obtain ⟨hbst, hfacts⟩ := State.fifoRegs_facts (s := { s with bst := { s.bst with fifo := s.bst.fifo.drop 1 } }) (e := f)
        (n := r.length + 1) hinv.1 (by simp [hfifo]) (by omega) (by simp [hfifo])
      exact ⟨_, hexec, by rw [hbst]; exact congrArg (List.drop 1) hfifo, hfacts⟩
    · intro hlen
      have hnil : s.bst.fifo.drop 1 = [] := List.drop_eq_nil_of_le hlen
      obtain ⟨hbst, hfacts⟩ := State.fifoRegs_facts (s := { s with bst := { s.bst with fifo := s.bst.fifo.drop 1 } })
        (e := (0, 0, 0)) (n := 0) hinv.1 (by simp [hnil]) (by decide) (by simp [hnil])
      exact ⟨_, hexec, by rw [hbst]; exact hnil, hfacts⟩

end Sys2Proof.Machine
end

section
/-! Cipher clusters and the random source (15_cipher_and_identity.md R378 to R381). -/

namespace Sys2Proof.Machine

/-- The active clusters of a fence and a fault mask. -/
theorem bit_active {v fault i : Nat} (hf : fault < 256) (hi : i < 8) :
    bit (255 - (v % 256 ||| fault)) i = (!bit v i && !bit fault i) := by
  have hlt : v % 256 ||| fault < 2 ^ 8 := Nat.or_lt_two_pow (Nat.mod_lt _ (by decide)) hf
  have heq : 255 - (v % 256 ||| fault) = 2 ^ 8 - ((v % 256 ||| fault) + 1) := by omega
  rw [heq, bit, Nat.testBit_two_pow_sub_succ hlt, Nat.testBit_or, show 256 = 2 ^ 8 from rfl, Nat.testBit_mod_two_pow]
  simp [hi, bit]

theorem active_eq_zero_iff {v fault : Nat} (hf : fault < 256) :
    255 - (v % 256 ||| fault) = 0 ↔ ∀ i, i < 8 → (bit v i || bit fault i) = true := by
  have hle : 255 - (v % 256 ||| fault) < 2 ^ 8 := by omega
  constructor
  · intro h i hi
    have := bit_active (v := v) hf hi
    rw [h, bit, Nat.zero_testBit] at this
    simpa [Bool.or_eq_true, or_iff_not_imp_left] using this.symm
  · intro h
    refine Nat.eq_of_testBit_eq fun i => ?_
    rw [Nat.zero_testBit]
    by_cases hi : i < 8
    · have := bit_active (v := v) hf hi
      have hset := h i hi
      rw [bit] at this
      rw [this]
      cases hv : bit v i <;> simp_all
    · exact Nat.testBit_lt_two_pow (hle.trans_le (Nat.pow_le_pow_right (by decide) (by omega)))

/-- Settles O45: the fence, the health test, reseeding and TL_RANDOM. -/
theorem clustersAndRandomness : Obligations.ClustersAndRandomness := by
  unfold Obligations.ClustersAndRandomness
  refine ⟨?fence, ?health, ?reseed, ?random⟩
  case fence =>
    intro s v hinv hrun hv hne
    have hfault : s.rd .CLUSTER_FAULT < 256 := State.rdi_full_lt hinv.1 rfl 0
    have hexec : exec (.clusterFenceWrite v) s = .next (s.fenceWrite v) := by
      simp only [exec, execClusterFenceWrite, State.barWrite_of_running hrun]
    rw [State.fenceWrite, if_neg (by rwa [Nat.mod_eq_of_lt hv])] at hexec
    constructor
    · rintro ⟨i, hi, hfence, hgood⟩
      have hsome : ¬255 - (v % 256 ||| s.rd .CLUSTER_FAULT) = 0 := by
        rw [active_eq_zero_iff hfault]
        intro hall
        have := hall i hi
        rw [hfence, hgood] at this
        cases this
      rw [if_neg hsome] at hexec
      refine ⟨_, hexec, ?_, ?_, ?_⟩
      · simp [State.rd, State.rdi_wri_eq, hinv.1, Fld.store, Fld.spec]
        omega
      · simp [State.fl, State.rd, State.rdi_wri_ne]
      · intro j hj
        rw [← bit_active hfault hj]
        have hlt : 255 - (v % 256 ||| s.rd .CLUSTER_FAULT) < 256 := by omega
        rw [State.rd_wr (f := .CLUSTER_ACTIVE) (regsOk_wr hinv.1 ..) rfl hlt]
    · intro hall
      rw [if_pos ((active_eq_zero_iff hfault).2 hall)] at hexec
      exact ⟨_, hexec, s.rdi_wri_ne (.inl (by decide)), s.rdi_wri_ne (.inl (by decide)),
        State.fl_setf hinv.1 rfl (by decide) true⟩
  case health =>
    intro s hinv
    constructor
    · exact ⟨_, rfl, State.fl_setf hinv.1 rfl (by decide) false⟩
    · intro hgood
      have hset := regsOk_wri hinv.1 .TRNG_FAIL 0 (b2n true)
      refine ⟨((s.setf .TRNG_FAIL true).record clsError 0 381 []).alert blkCIP, by simp [exec, execTrngHealthTest, hgood], ?_, ?_⟩
      · rw [State.fl_eq (State.alert_rdi _ _ (by decide) 0), State.fl_eq (State.record_rdi _ _ _ _ _ (by decide) 0),
          State.fl_setf hinv.1 rfl (by decide)]
      · exact State.alert_sets (regsOk_record hset ..) (by decide)
  case reseed =>
    intro s hgood
    exact ⟨{ s with sec := { s.sec with reseeds := s.sec.reseeds + 1 } }, by simp [exec, execDrbgReseed, hgood], rfl, rfl⟩
  case random =>
    intro s link ld hen
    refine ⟨_, _, s.tlRandom.2, by simp only [exec, execTlRandomRead, hen, Bool.not_true, if_false, Bool.false_eq_true]; rfl, ?_, rfl, ?_, ?_⟩
    · cases hbad : s.fl .TRNG_FAIL <;> simp [State.tlRandom, hbad, State.drbg, State.send, State.freeNext]
    · intro hbad
      simp [State.tlRandom, hbad]
    · intro hgood
      simp [State.tlRandom, hgood, State.drbg, State.send, State.freeNext]

end Sys2Proof.Machine
end

section
/-! The commands of a teller page (15_cipher_and_identity.md R382, R390, Tables 15.3 and 15.4). -/

namespace Sys2Proof.Machine

/-! ### Keys in two shares (R379) -/

theorem xor_xor_xor_self (a b m : Nat) : (a ^^^ m) ^^^ (b ^^^ m) = a ^^^ b := by
  rw [Nat.xor_assoc, Nat.xor_comm b m, ← Nat.xor_assoc m m b, Nat.xor_self, Nat.zero_xor]

/-- New shares leave the key, the blob and the slots' keys. -/
theorem State.reshareKek_facts (s : State) (d : Nat) :
    (s.reshareKek d).domKek d = s.domKek d ∧ (s.reshareKek d).regs = s.regs ∧
      (s.reshareKek d).sec.keys = s.sec.keys ∧ (s.reshareKek d).sec.blob = s.sec.blob := by
  cases h : mget s.sec.dkek (d, 0) with
  | none => simp [State.reshareKek, h]
  | some x => simp [State.reshareKek, h, State.domKek, xor_xor_xor_self, State.freeNext]

/-- A blob is opened under the words of its page alone. -/
theorem State.unwrap_congr {s t : State} (h : t.sec.blob = s.sec.blob) (d k mode dkek : Nat) :
    t.unwrap d k mode dkek = s.unwrap d k mode dkek := by
  have hword : t.blobWord d = s.blobWord d := by
    funext i
    rw [State.blobWord, State.blobWord, h]
  rw [State.unwrap, State.unwrap, hword]

/-- A slot's key is the exclusive or of its shares. -/
theorem State.setSlotKey_facts (s : State) (k v : Nat) :
    (s.setSlotKey k v).slotKey k = v ∧ (mget (s.setSlotKey k v).sec.keys (k, 0)).isSome = true ∧
      (∀ d, (s.setSlotKey k v).domKek d = s.domKek d) ∧ (s.setSlotKey k v).regs = s.regs := by
  refine ⟨?_, by simp [State.setSlotKey], fun d => ?_, rfl⟩
  · simp [State.slotKey, State.setSlotKey]
  · simp [State.domKek, State.setSlotKey, State.freeNext, mget_mput_ne]

/-! ### The end of a command -/

/-- A command ends with its result, and its page's blob is gone. -/
theorem State.tellerEnd_facts {s : State} (hok : regsOk s.regs = true) (d k : Nat) {result : Nat} (hr : result < 8) :
    (s.tellerEnd d k result).rdi .TL_CMD_RESULT d = result ∧
      (∀ g i, g ≠ .SLOT → g ≠ .TL_CMD_RESULT → (s.tellerEnd d k result).rdi g i = s.rdi g i) ∧
      (s.tellerEnd d k result).sec.keys = s.sec.keys ∧ (s.tellerEnd d k result).domKek d = s.domKek d ∧
      (s.tellerEnd d k result).slotKey k = s.slotKey k ∧
      ∀ j, mget (s.tellerEnd d k result).sec.blob (d, j) = none := by
  refine ⟨?_, fun g i hs ht => ?_, rfl, rfl, rfl, fun j => ?_⟩
  · exact State.rdi_wri_fit (regsOk_wri hok ..) rfl hr d
  · exact (State.rdi_wri_ne _ (.inl ht.symm)).trans (State.rdi_wri_ne _ (.inl hs.symm))
  · exact mget_mfilter_refused (p := fun x => x.1 != d) (by simp)

/-- The two loads run the same steps with their mode. -/
theorem exec_load {s : State} {i : Instr} {d k mode : Nat} (hrun : s.draining = false) (hd : d < 256) (hk : k < 4096)
    (hi : (i = .loadXts d k ∧ mode = 1) ∨ (i = .loadGcm d k ∧ mode = 2)) : exec i s = .next (s.tellerLoad d k mode) := by
  rcases hi with ⟨rfl, rfl⟩ | ⟨rfl, rfl⟩ <;>
    simp [exec, execLoadXts, execLoadGcm, State.barWrite_of_running hrun, tellerAt, hd, hk]

/-- A load that passes the checks of its slot, with its key-encryption key there, and whose blob does not open. -/
theorem State.tellerLoad_shut {s : State} {d k mode : Nat} (hbar : s.tellerBarred d k = false) (hfree : s.rdi .REFS k = 0)
    (hkek : (mget s.sec.dkek (d, 0)).isSome = true) (hno : s.unwrap d k mode (s.domKek d) = none) : s.tellerLoad d k mode =
      ((s.reshareKek d).count .GCM_FAIL_CNT 0 .CIP_FLAGS_CNT_OVF 0 0).tellerEnd d k 4 := by
  obtain ⟨hdom, -, -, hblob⟩ := s.reshareKek_facts d
  obtain ⟨x, hx⟩ := Option.isSome_iff_exists.1 hkek
  simp [State.tellerLoad, hbar, hfree, hx, State.unwrap_congr hblob, hdom, hno]

/-- The same of a blob that opens: a 256-bit key's second half is 0. -/
theorem State.tellerLoad_open {s : State} {d k mode : Nat} (hbar : s.tellerBarred d k = false) (hfree : s.rdi .REFS k = 0)
    (hkek : (mget s.sec.dkek (d, 0)).isSome = true) {x : List Nat} (hopen : s.unwrap d k mode (s.domKek d) = some x) :
    s.tellerLoad d k mode =
      if mode = 2 && (x.drop 32).any (· != 0) then (s.reshareKek d).tellerEnd d k 4
      else (((s.reshareKek d).wri .MODE k mode).setSlotKey k (ofBytes (if mode = 1 then x else x.take 32))).tellerEnd d k 0 := by
  obtain ⟨hdom, -, -, hblob⟩ := s.reshareKek_facts d
  obtain ⟨y, hy⟩ := Option.isSome_iff_exists.1 hkek
  simp [State.tellerLoad, hbar, hfree, hy, State.unwrap_congr hblob, hdom, hopen]

/-- Settles O46: the loads by their checks in order, ZEROIZE and QUERY, and SVN_COMMIT. -/
theorem tellerCommands : Obligations.TellerCommands := by
  unfold Obligations.TellerCommands
  refine ⟨?load, ?clear, ?svn⟩
  case load =>
    intro s d k mode i hinv hrun hd hk hi
    have hexec := exec_load hrun hd hk hi
    have hown (hk0 : k ≠ 0) (ho : s.rdi .OWNER k = d) : s.tellerBarred d k = false := by simp [State.tellerBarred, hk0, ho]
    obtain ⟨hdom, hregs, hkeys, hblob⟩ := s.reshareKek_facts d
    have hok : regsOk (s.reshareKek d).regs = true := hregs ▸ hinv.1
    refine ⟨fun hbar => ?barred, fun hk0 ho href hm => ?used, fun hk0 ho href hkek => ?noKek,
      fun hk0 ho href hkek hno => ?shut, fun x hk0 ho href hkek hx => ⟨fun ⟨hm, hbad⟩ => ?long, fun hgood => ?loaded⟩⟩
    case barred =>
      obtain ⟨hres, hoff, hkeys, -⟩ := State.tellerEnd_facts hinv.1 d k (result := 1) (by decide)
      refine ⟨_, by rw [hexec, State.tellerLoad, if_pos (by simpa [State.tellerBarred] using hbar)], hres, hoff _ _ (by decide) (by decide), hkeys⟩
    case used =>
      obtain ⟨hres, -, hkeys, -⟩ := State.tellerEnd_facts hinv.1 d k (result := 2) (by decide)
      exact ⟨_, by rw [hexec, State.tellerLoad, hown hk0 ho, if_neg (by decide), if_pos ⟨href, .inl hm⟩], hres, hkeys⟩
    case noKek =>
      obtain ⟨hres, -, hkeys, -⟩ := State.tellerEnd_facts hinv.1 d k (result := 3) (by decide)
      exact ⟨_, by rw [hexec]; simp only [State.tellerLoad, hown hk0 ho, href, hkek]; simp, hres, hkeys⟩
    case shut =>
      have hcnt := State.count_rdi hok (f := .GCM_FAIL_CNT) (ovf := .CIP_FLAGS_CNT_OVF) rfl (by decide) (by decide) 0 0 0
      obtain ⟨hres, hoff, hkeys', -⟩ := State.tellerEnd_facts
        (regsOk_count hok .GCM_FAIL_CNT 0 .CIP_FLAGS_CNT_OVF 0 0) d k (result := 4) (by decide)
      refine ⟨_, by rw [hexec, State.tellerLoad_shut (hown hk0 ho) href hkek hno], hres, ?_, ?_⟩
      · rw [hkeys', ((s.reshareKek d).count_only ..).sec_eq (by decide), hkeys]
      · rw [State.rd, hoff _ _ (by decide) (by decide), hcnt, State.rdi_congr hregs]
        rfl
    case long =>
      obtain ⟨hres, -, hkeys', -⟩ := State.tellerEnd_facts hok d k (result := 4) (by decide)
      refine ⟨_, by rw [hexec, State.tellerLoad_open (hown hk0 ho) href hkek hx, if_pos (by simpa [hm] using hbad)], hres, ?_⟩
      rw [hkeys', hkeys]
    case loaded =>
      have hmode : mode < 4 := by omega
      have hfit : ¬(decide (mode = 2) && (x.drop 32).any (· != 0)) = true := by simpa using hgood
      obtain ⟨hslot, hsome, hkek', hsame⟩ := ((s.reshareKek d).wri .MODE k mode).setSlotKey_facts k
        (ofBytes (if mode = 1 then x else x.take 32))
      obtain ⟨hres, hoff, hkeys', hdom', hslot', hclear⟩ := State.tellerEnd_facts
        (s := ((s.reshareKek d).wri .MODE k mode).setSlotKey k (ofBytes (if mode = 1 then x else x.take 32)))
        (regsOk_wri hok .MODE k mode) d k (result := 0) (by decide)
      refine ⟨_, by rw [hexec, State.tellerLoad_open (hown hk0 ho) href hkek hx, if_neg hfit], hres, ?_,
        hkeys' ▸ hsome, hslot'.trans hslot, ?_, hclear⟩
      · rw [hoff _ _ (by decide) (by decide), State.rdi_congr hsame, State.rdi_wri_fit hok rfl hmode]
      · rw [hdom', hkek']
        exact hdom
  case clear =>
    intro s d k hinv hwf hrun hd hk
    constructor
    · intro hk0 ho href
      have hbar : s.tellerBarred d k = false := by simp [State.tellerBarred, hk0, ho]
      obtain ⟨hres, hoff, hkeys, -⟩ := State.tellerEnd_facts (s := (s.wri .MODE k 0).clearSlotKey k)
        (regsOk_wri hinv.1 .MODE k 0) d k (result := 0) (by decide)
      refine ⟨_, by simp [exec, execZeroize, State.barWrite_of_running hrun, tellerAt, hd, hk, State.tellerZero, hbar, href],
        hres, ?_, ?_, fun j hj => ?_⟩
      · rw [hoff _ _ (by decide) (by decide)]
        exact State.rdi_wri_fit hinv.1 rfl (by decide) k
      · rw [hkeys]
        exact mget_mdel _ hwf
      · rw [hkeys]
        exact mget_mdel_ne _ _ _ (by simpa using Ne.symm hj)
    · have hmode : s.rdi .MODE k < 4 := State.rdi_full_lt hinv.1 rfl k
      have hrefs : s.rdi .REFS k < 2 ^ 25 := State.rdi_full_lt hinv.1 rfl k
      obtain ⟨hres, hoff, hkeys, -⟩ := State.tellerEnd_facts (s := (s.wri .Q_MODE d (s.rdi .MODE k)).wri .Q_REFS d (s.rdi .REFS k))
        (regsOk_wri (regsOk_wri hinv.1 ..) ..) d k (result := 0) (by decide)
      refine ⟨_, by simp [exec, execQuery, State.barWrite_of_running hrun, tellerAt, hd, hk, State.tellerQuery], hres, ?_, ?_, ?_⟩
      · rw [hoff _ _ (by decide) (by decide), State.rdi_wri_ne _ (.inl (by decide)), State.rdi_wri_fit hinv.1 rfl hmode]
      · rw [hoff _ _ (by decide) (by decide), State.rdi_wri_fit (regsOk_wri hinv.1 ..) rfl hrefs]
      · rw [hkeys]; rfl
  case svn =>
    intro s hinv hrun
    have hle : s.rd .SVN_FUSE < 2 ^ 7 := State.rdi_full_lt hinv.1 rfl 0
    exact ⟨_, by simp only [exec, execSvnCommit, State.barWrite_of_running hrun, State.svnCommit],
      State.rd_wr hinv.1 rfl (by rw [show Fld.SVN_FUSE.spec.width = 7 from rfl]; omega)⟩

end Sys2Proof.Machine
end

section
/-! The SPDM responder and what an owner's session writes (15_cipher_and_identity.md R388, R391 to R394,
19_start_up.md R449, R452). -/

namespace Sys2Proof.Machine

/-- The fabric is up under an owner's session. -/
theorem State.fabricUp_of_owner {s : State} {n : Nat} (h : s.ownerSession n = true) : s.fabricUp = true :=
  (Bool.and_eq_true_iff.1 h).1

/-- A request that asks for an owner's session without one is refused, and nothing else changes. -/
theorem State.spdmErr_facts (s : State) (op code : Nat) :
    (s.spdmErr op code).sec = s.sec ∧ (s.spdmErr op code).boot = s.boot ∧
      (s.spdmErr op code).out = s.out ++ [Msg.spdm op 0x7F [code]] := ⟨rfl, rfl, rfl⟩

/-- One measurement's answer. -/
theorem exec_getMeasurements_one {s : State} (hup : s.fabricUp = true) {n : Nat} (m : Nat) (hlo : 1 ≤ n) (hhi : n ≤ 6) :
    exec (.getMeasurements n m) s =
      .next (s.send (.spdm 0xE0 0x60 [n, s.measurement n, Config.cipher 8 [m, n, s.measurement n]])) := by
  have hall : ¬n = 255 := by omega
  simp [exec, execGetMeasurements, hup, hall, hlo, hhi]

/-- No measurement has the number asked for. -/
theorem exec_getMeasurements_none {s : State} (hup : s.fabricUp = true) {n : Nat} (m : Nat) (h : n = 0 ∨ 6 < n ∧ n ≠ 255) :
    exec (.getMeasurements n m) s = .next (s.spdmErr 0xE0 1) := by
  have hall : ¬n = 255 := by omega
  have hno : ¬(1 ≤ n ∧ n ≤ 6) := by omega
  simp [exec, execGetMeasurements, hup, hall, hno]

/-- KEK_SET of a domain is set in both registers. -/
theorem State.kekSet_facts {s : State} (hok : regsOk s.regs = true) (d : Nat) (v : Bool) :
    (s.kekSet d v).fli .TL_STATE_KEK_SET d = v ∧ bit ((s.kekSet d v).rdi .SEC_DKEK_SET_KEK_SET (d / 64)) (d % 64) = v := by
  have hset := regsOk_setfi hok .TL_STATE_KEK_SET d v
  constructor
  · exact (State.fli_eq (State.setBitOf_rdi_ne _ (by decide) ..)).trans (State.fli_setfi hok rfl (by decide) d v)
  · exact (State.bit_setBitOf hset (f := .SEC_DKEK_SET_KEK_SET) rfl _ (Nat.mod_lt d (by decide)) _ v).trans (if_pos rfl)

/-- A key-encryption key is the exclusive or of its shares. -/
theorem State.setKek_facts (s : State) (d v : Nat) :
    (s.setKek d v).domKek d = v ∧ (mget (s.setKek d v).sec.dkek (d, 0)).isSome = true ∧ (s.setKek d v).regs = s.regs := by
  simp [State.setKek, State.domKek, State.freeNext]

/-- Without an earlier valid copy a write goes to B (R452). -/
theorem State.copyTarget_of_none {s : State} (ha : s.boot.copyA = none) (hb : s.boot.copyB = none) : s.copyTarget = true := by
  simp [State.copyTarget, State.validCopy, ha, hb]

/-- A copy written to a device pair without one. -/
theorem exec_writeConfiguration_first {s : State} {n : Nat} {c : Copy} (hown : s.ownerSession n = true) (hrun : s.draining = false)
    (ha : s.boot.copyA = none) (hb : s.boot.copyB = none) (hbad : s.fl .SPI_B_BAD = false) (hfail : s.fl .SPI_B_FAIL = false)
    (cut : Bool) : exec (.writeConfiguration n c cut) s = if s.copyValid c then
      .next (State.when { s with boot := { s.boot with copyB := if cut then none else some c } } (!cut) (·.spdmOk [c.seq]))
    else .next (s.spdmErr 0xFE 1) := by
  by_cases hval : s.copyValid c = true
  · have hseq : ¬c.seq = 0 := by
      intro h
      simp [State.copyValid, h] at hval
    simp [exec, execWriteConfiguration, hown, hval, hseq, State.validCopy, ha, hb, State.copyTarget_of_none ha hb, hbad, hfail, hrun]
  · simp [exec, execWriteConfiguration, hown, hval]

/-- Settles O47, a case per kind of request. -/
theorem spdmRequests : Obligations.SpdmRequests := by
  unfold Obligations.SpdmRequests
  refine ⟨?answers, ?exchange, ?kek, ?image, ?copy⟩
  case answers =>
    intro s n m hup
    refine ⟨?_, ?_, ?_⟩
    · by_cases hone : 1 ≤ n ∧ n ≤ 6
      · exact ⟨_, _, _, exec_getMeasurements_one hup m hone.1 hone.2, fun _ _ => ⟨rfl, rfl⟩, fun h => by omega⟩
      · by_cases hno : n = 0 ∨ 6 < n ∧ n ≠ 255
        · exact ⟨_, 0, 0, exec_getMeasurements_none hup m hno, fun h h' => absurd ⟨h, h'⟩ hone, fun _ => rfl⟩
        · exact ⟨_, 0, 0, by simp only [exec, execGetMeasurements, hup]; rfl, fun h h' => absurd ⟨h, h'⟩ hone,
            fun h => absurd h hno⟩
    · by_cases hn : n ≤ 1
      · exact ⟨s.send (.spdm 0x83 0x03 [n, Config.cipher 9 [n, m]]), Config.cipher 9 [n, m],
          by simp [exec, execChallenge, hup, Nat.not_lt.2 hn], by simp [hn, State.send]⟩
      · exact ⟨s.spdmErr 0x83 1, 0, by simp [exec, execChallenge, hup, Nat.not_le.1 hn], by simp [hn, State.spdmErr, State.send]⟩
    · rcases n with _ | _ | n
      · exact ⟨_, [Config.cipher 10 [0], Config.cipher 10 [1], Config.cipher 10 [2, s.rd .DEVICE_UID]],
          by simp only [exec, execGetCertificate, hup]; rfl, rfl, fun _ => rfl⟩
      · exact ⟨_, [Config.cipher 10 [0], Config.cipher 10 [1], Config.cipher 10 [2, s.rd .DEVICE_UID],
          Config.cipher 10 [3, s.measurement 3]], by simp only [exec, execGetCertificate, hup]; rfl, rfl, fun _ => rfl⟩
      · exact ⟨s.spdmErr 0x82 1, [], by simp [exec, execGetCertificate, hup], by simp [State.spdmErr, State.send],
          fun h => by omega⟩
  case exchange =>
    intro s owner hinv hup
    refine ⟨fun hgood hlen => ?_, fun hbad => ?_, fun hgood hlen => ?_⟩
    · refine ⟨_, by simp only [exec, execKeyExchange, hup, hgood, Nat.not_le.2 hlen]; simp; rfl, ?_, ?_, ?_⟩
      · simp [State.drbg, State.send, State.freeNext]
      · simp [State.drbg, State.send, State.freeNext, State.rd, State.rdi_wri_eq, hinv.1, Fld.store, Fld.spec]
        omega
      · simp [State.drbg, State.send, State.freeNext]
    · exact ⟨_, by simp only [exec, execKeyExchange, hup, hbad]; simp, State.spdmErr_facts s _ _ |>.1, rfl⟩
    · exact ⟨_, by simp only [exec, execKeyExchange, hup, hgood, hlen]; simp, State.spdmErr_facts s _ _ |>.1, rfl⟩
  case kek =>
    intro s n d kek hinv hwf hd
    refine ⟨fun hown => ⟨?_, ?_⟩, fun hup hno => ⟨?_, ?_⟩⟩
    · obtain ⟨hval, hsome, hregs⟩ := s.setKek_facts d (kek % 2 ^ 256)
      obtain ⟨hpage, hsec⟩ := State.kekSet_facts (s := s.setKek d (kek % 2 ^ 256)) hinv.1 d true
      exact ⟨((s.setKek d (kek % 2 ^ 256)).kekSet d true).spdmOk [d], by simp [exec, execSetDomainKek, hown, hd], hsome, hval, hpage, hsec⟩
    · obtain ⟨hpage, hsec⟩ := State.kekSet_facts (s := s.clearKek d) hinv.1 d false
      exact ⟨((s.clearKek d).kekSet d false).spdmOk [d], by simp [exec, execClearDomainKek, hown, hd], mget_mdel _ hwf, hpage, hsec⟩
    · exact ⟨s.spdmErr 0xFE 4, by simp [exec, execSetDomainKek, hno, hup, State.when], rfl, rfl⟩
    · exact ⟨s.spdmErr 0xFE 4, by simp [exec, execClearDomainKek, hno, hup, State.when], rfl, rfl⟩
  case image =>
    intro s n kind x hwf hown hkind
    refine ⟨fun hval hrec => ?_, fun hval => ?_⟩
    · refine ⟨_, by simp only [exec, execWriteRecoveryImage, hown, hval, Nat.not_lt.2 (Nat.le_of_lt_succ hkind)]; simp [State.spdmOk, hrec]; rfl, ?_, ?_, rfl⟩
      · simp [mget_mput_ne]
      · simp
    · exact ⟨s.spdmErr 0xFE 1, by simp [exec, execWriteRecoveryImage, hown, hval], rfl, rfl⟩
  case copy =>
    intro s n c hrun hown ha hb hbad hfail
    have hexec := exec_writeConfiguration_first (c := c) hown hrun ha hb hbad hfail
    refine ⟨fun hval => ⟨⟨_, (hexec false).trans (if_pos hval), rfl, ha, rfl⟩, ⟨_, (hexec true).trans (if_pos hval), rfl, rfl⟩⟩,
      fun hval => ⟨_, (hexec false).trans (if_neg (by simp [hval])), rfl, rfl⟩⟩

end Sys2Proof.Machine
end

section
/-! Daybook flushes and checkpoints (17_daybook.md R423, R424). -/

namespace Sys2Proof.Machine

/-! ### Flags set on a condition, counters below their maximum -/

theorem State.fl_when_setf {s : State} (hok : regsOk s.regs = true) {f : Fld} (hf : f.full = true) (hw : f.spec.width ≠ 0)
    (c : Bool) : (s.when c (·.setf f true)).fl f = (s.fl f || c) := by
  cases c
  · exact (Bool.or_false _).symm
  · exact (State.fl_setf hok hf hw true).trans (Bool.or_true _).symm

theorem State.rdi_when_setf_ne (s : State) {f g : Fld} (h : f ≠ g) (c b : Bool) (j : Nat) :
    (s.when c (·.setf f b)).rdi g j = s.rdi g j := by
  cases c
  · rfl
  · exact s.setf_rdi_ne h b j

/-- A count that does not reach its maximum raises no record. -/
theorem State.count_below {s : State} {f : Fld} {i : Nat} (h : s.rdi f i + 1 < 2 ^ f.spec.width - 1) (ovf : Fld) (oi b : Nat) :
    s.count f i ovf oi b = s.wri f i (s.rdi f i + 1) := by
  have hlt : s.rdi f i < 2 ^ f.spec.width - 1 := by omega
  have hne : ¬s.rdi f i + 1 = 2 ^ f.spec.width - 1 := by omega
  simp only [State.count, hlt, hne, if_true, if_false]

/-! ### Flushes and checkpoints -/

/-- A flush begins while a device works. -/
theorem State.flushStart_facts {s : State} (hok : regsOk s.regs = true) (hidle : s.fl .FLUSH_BUSY = false)
    (hdev : s.fl .SPI_A_FAIL = false ∨ s.fl .SPI_B_FAIL = false) : s.flushStart.fl .FLUSH_BUSY = true ∧
      s.flushStart.dbk = { s.dbk with flushTo := some (s.dbk.frozen.getD (s.rd .HEAD_SEQ)), flushAgain := false } := by
  have hboth : ¬(s.fl .SPI_A_FAIL && s.fl .SPI_B_FAIL) = true := by
    rcases hdev with h | h <;> simp [h]
  rw [State.flushStart, if_neg (by simp [hidle]), if_neg hboth]
  exact ⟨(State.fl_congr (s := s.setf .FLUSH_BUSY true) rfl _).trans (State.fl_setf hok rfl (by decide) true), rfl⟩

/-- What was put last stays last while an older entry goes. -/
theorem getLast?_drop_add {α : Type} (l : List α) (c : α) {n : Nat} (h : n ≤ l.length) :
    ((l ++ [c]).drop n).getLast? = some c := by
  rw [List.getLast?_drop]
  simp
  omega

/-- What a flush that ends puts into the logs and the registers; no further flush was asked for. -/
theorem State.flushEnd_facts {s : State} (hok : regsOk s.regs = true) {e : Nat} (he : s.dbk.flushTo = some e)
    (hone : s.dbk.flushAgain = false) (hcnt : s.rd .FLUSH_CNT < 2 ^ 32 - 2) {okA okB a b : Bool}
    (ha : a = (okA && !s.fl .SPI_A_FAIL)) (hb : b = (okB && !s.fl .SPI_B_FAIL)) :
    (s.flushEnd okA okB).fl .FLUSH_BUSY = false ∧ (s.flushEnd okA okB).dbk.flushTo = none ∧
      (s.flushEnd okA okB).fl .SPI_A_FAIL = (s.fl .SPI_A_FAIL || !okA) ∧
      (s.flushEnd okA okB).fl .SPI_B_FAIL = (s.fl .SPI_B_FAIL || !okB) ∧
      (s.flushEnd okA okB).rd .FLUSH_SEQ = (if a || b then e % 2 ^ 64 else s.rd .FLUSH_SEQ) ∧
      (s.flushEnd okA okB).dbk.logA = (if a then logTrim (s.dbk.logA ++ s.flushRecs) else s.dbk.logA) ∧
      (s.flushEnd okA okB).dbk.logB = (if b then logTrim (s.dbk.logB ++ s.flushRecs) else s.dbk.logB) := by
  let u := s.setf .FLUSH_BUSY false
  let v := (u.when (!okA) (·.setf .SPI_A_FAIL true)).when (!okB) (·.setf .SPI_B_FAIL true)
  let w := if a || b then (v.wr .FLUSH_SEQ e).wri .FLUSH_CNT 0 (s.rd .FLUSH_CNT + 1) else v
  have hu : regsOk u.regs = true := regsOk_setf hok ..
  have hv' : regsOk (u.when (!okA) (·.setf .SPI_A_FAIL true)).regs = true := regsOk_when hu (regsOk_setf hu ..)
  have hv : regsOk v.regs = true := regsOk_when hv' (regsOk_setf hv' ..)
  have hvcnt : v.rdi .FLUSH_CNT 0 = s.rd .FLUSH_CNT :=
    (State.rdi_when_setf_ne _ (by decide) ..).trans ((State.rdi_when_setf_ne _ (by decide) ..).trans (s.setf_rdi_ne (by decide) ..))
  have hwv {g : Fld} (h1 : Fld.FLUSH_SEQ ≠ g) (h2 : Fld.FLUSH_CNT ≠ g) : w.rdi g 0 = v.rdi g 0 := by
    by_cases h : (a || b) = true
    · simp only [w, h, if_true]
      rw [State.rdi_wri_ne _ (.inl h2), State.wr, State.rdi_wri_ne _ (.inl h1)]
    · simp only [w, h, if_false, Bool.false_eq_true]
  obtain ⟨t, heq, hregs, hto, hlogA, hlogB⟩ : ∃ t : State, s.flushEnd okA okB = t ∧
      t.regs = (w.wr .CKPT_TIME (w.rd .OP_TIME)).regs ∧ t.dbk.flushTo = none ∧
      t.dbk.logA = (if a then logTrim (s.dbk.logA ++ s.flushRecs) else s.dbk.logA) ∧
      t.dbk.logB = (if b then logTrim (s.dbk.logB ++ s.flushRecs) else s.dbk.logB) := by
    have hcount (x : State) (hx : x.rdi .FLUSH_CNT 0 = s.rdi .FLUSH_CNT 0) :
        x.count .FLUSH_CNT 0 .DBK_FLAGS_CNT_OVF 0 1 = x.wri .FLUSH_CNT 0 (s.rd .FLUSH_CNT + 1) := by
      rw [State.count_below, hx]
      · rfl
      · rw [hx]
        exact Nat.add_lt_of_lt_sub hcnt
    refine ⟨_, rfl, ?_⟩
    subst ha hb
    cases okA <;> cases okB <;> cases hA : s.fl .SPI_A_FAIL <;> cases hB : s.fl .SPI_B_FAIL <;>
      simp [State.flushEnd, he, hone, hcount, State.setf_rdi_ne, State.rdi_wri_ne, hA, hB, State.when, State.checkpoint, u, v, w] <;> rfl
  have hread {g : Fld} (hg : Fld.CKPT_TIME ≠ g) : t.rdi g 0 = w.rdi g 0 := (State.rdi_congr hregs g 0).trans (w.rdi_wri_ne (.inl hg))
  rw [heq]
  refine ⟨?_, hto, ?_, ?_, ?_, hlogA, hlogB⟩
  · rw [State.fl_eq (hread (by decide)), State.fl_eq (hwv (by decide) (by decide)),
      State.fl_eq (State.rdi_when_setf_ne _ (by decide) ..), State.fl_eq (State.rdi_when_setf_ne _ (by decide) ..),
      State.fl_setf hok rfl (by decide)]
  · rw [State.fl_eq (hread (by decide)), State.fl_eq (hwv (by decide) (by decide)),
      State.fl_eq (State.rdi_when_setf_ne _ (by decide) ..), State.fl_when_setf hu rfl (by decide),
      State.fl_eq (s.setf_rdi_ne (by decide) ..)]
  · rw [State.fl_eq (hread (by decide)), State.fl_eq (hwv (by decide) (by decide)),
      State.fl_when_setf hv' rfl (by decide), State.fl_eq (State.rdi_when_setf_ne _ (by decide) ..),
      State.fl_eq (s.setf_rdi_ne (by decide) ..)]
  · rw [State.rd, hread (by decide)]
    by_cases h : (a || b) = true
    · simp only [w, h, if_true]
      rw [State.rdi_wri_ne _ (.inl (by decide)), State.wr, State.rdi_wri _ _ _ (regsOk_mwf hv), Fld.store_full rfl]
      rfl
    · simp only [w, h, if_false, Bool.false_eq_true]
      rw [State.rdi_when_setf_ne _ (by decide), State.rdi_when_setf_ne _ (by decide), s.setf_rdi_ne (by decide), State.rd]

/-- Settles O51, a case for FLUSH_NOW, for the checkpoint and for the end of a flush. -/
theorem flushesAndCheckpoints : Obligations.FlushesAndCheckpoints := by
  unfold Obligations.FlushesAndCheckpoints
  refine ⟨?now, ?ckpt, ?done⟩
  case now =>
    intro s hinv hrun hfree
    have hexec : exec .flushNow s = .next s.flushStart := by
      simp [exec, execFlushNow, State.barWrite_of_running hrun, State.dbkFlush, hfree]
    refine ⟨fun hidle hdev => ?_, fun hbusy => ?_, fun hidle hA hB => ?_⟩
    · obtain ⟨hbusy, hdbk⟩ := State.flushStart_facts hinv.1 hidle hdev
      exact ⟨_, hexec, hbusy, by rw [hdbk, hfree]; rfl⟩
    · rw [hexec, State.flushStart, if_pos hbusy]
    · rw [hexec, State.flushStart, if_neg (by simp [hidle]), if_pos (by simp [hA, hB])]
  case ckpt =>
    intro s hinv hlo hhi
    have hop : s.rd .OP_TIME < 2 ^ 64 := State.rdi_full_lt hinv.1 rfl 0
    refine ⟨s.checkpoint, by simp [exec, execDaybookCheckpoint, State.fabricUp, hlo, hhi], ?_, ?_, ?_⟩
    · exact State.rd_wr (f := .CKPT_TIME) (by exact hinv.1) rfl hop
    · cases h : s.fl .SPI_A_FAIL <;> simp [State.checkpoint, h, getLast?_drop_add]
    · cases h : s.fl .SPI_B_FAIL <;> simp [State.checkpoint, h, getLast?_drop_add]
  case done =>
    intro s okA okB e hinv hbusy he hone hrun hcnt
    refine ⟨s.flushEnd okA okB, ?_, State.flushEnd_facts hinv.1 he hone hcnt rfl rfl⟩
    have hstill : (s.flushEnd okA okB).draining = s.draining :=
      State.fl_eq ((State.flushEnd_in (ft := Fld.off .DRAINING) (In.refl _ s) rfl).rdi_eq 0)
    simp [exec, execDaybookFlushDone, hbusy, hstill, hrun]

end Sys2Proof.Machine
end

section
/-! Rails: what enabling a step does, and the choice of the next step (16_power_supervision.md R399 to R401). -/

namespace Sys2Proof.Machine

/-! ### Lists of operations -/

/-- A predicate that every step of a list keeps holds after the list. -/
theorem State.each_inv {α : Type} {P : State → Prop} {f : State → α → State} (l : List α) {s : State} (h0 : P s)
    (h : ∀ s x, x ∈ l → P s → P (f s x)) : P (s.each l f) := by
  induction l generalizing s with
  | nil => exact h0
  | cons a r ih =>
    exact ih (h s a (List.mem_cons_self ..) h0) fun s x hx => h s x (List.mem_cons_of_mem _ hx)

/-- A part of the state that no step of a list changes. -/
theorem State.each_same {α β : Type} {g : State → β} {f : State → α → State} (l : List α) (s : State)
    (h : ∀ s x, g (f s x) = g s) : g (s.each l f) = g s :=
  State.each_inv (P := fun t => g t = g s) l rfl fun t x _ ht => (h t x).trans ht

/-! ### Enabling rails -/

theorem State.railEnable_regs (s : State) (r : Nat) :
    (s.railEnable r).regs = ((s.setBitOf .RAIL_EN_OUT 0 r true).wri .CHATTER_NOW r 0).regs := rfl

theorem State.railEnable_rdi (s : State) (r : Nat) {g : Fld} (ho : g ≠ .RAIL_EN_OUT) (hc : g ≠ .CHATTER_NOW) (i : Nat) :
    (s.railEnable r).rdi g i = s.rdi g i := by
  rw [State.rdi_congr (s.railEnable_regs r), State.rdi_wri_ne _ (.inl hc.symm), s.setBitOf_rdi_ne ho.symm]

theorem regsOk_railEnable {s : State} (hok : regsOk s.regs = true) (r : Nat) : regsOk (s.railEnable r).regs = true := by
  rw [State.railEnable_regs]
  exact regsOk_wri (regsOk_setBitOf hok ..) ..

theorem State.railOn_railEnable {s : State} (hok : regsOk s.regs = true) {r : Nat} (hr : r < 24) (q : Nat) :
    (s.railEnable r).railOn q = if q = r then true else s.railOn q := by
  rw [State.railOn, State.rd, State.rdi_congr (s.railEnable_regs r), State.rdi_wri_ne _ (.inl (by decide)),
    State.bit_setBitOf hok rfl 0 hr]
  rfl

theorem State.railEnable_chatter {s : State} (hok : regsOk s.regs = true) (r : Nat) : (s.railEnable r).rdi .CHATTER_NOW r = 0 := by
  rw [State.rdi_congr (s.railEnable_regs r), State.rdi_wri_fit (regsOk_setBitOf hok ..) rfl (by decide)]

theorem State.railOn_congr {s t : State} (h : t.rd .RAIL_EN_OUT = s.rd .RAIL_EN_OUT) (r : Nat) : t.railOn r = s.railOn r := by
  rw [State.railOn, State.railOn, h]

theorem State.each_railEnable_facts {s : State} (hok : regsOk s.regs = true) {l : List Nat} (hl : ∀ r ∈ l, r < 24) :
    regsOk (s.each l State.railEnable).regs = true ∧
      (∀ q, (s.each l State.railEnable).railOn q = (decide (q ∈ l) || s.railOn q)) ∧
      (∀ r ∈ l, (s.each l State.railEnable).rdi .CHATTER_NOW r = 0) ∧
      (∀ r, r ∉ l → (s.each l State.railEnable).rdi .CHATTER_NOW r = s.rdi .CHATTER_NOW r) ∧
      ∀ g i, g ≠ .RAIL_EN_OUT → g ≠ .CHATTER_NOW → (s.each l State.railEnable).rdi g i = s.rdi g i := by
  induction l generalizing s with
  | nil => exact ⟨hok, fun q => by simp [State.each], fun r hr => absurd hr (List.not_mem_nil), fun r _ => rfl, fun g i _ _ => rfl⟩
  | cons a r ih =>
    have ha := hl a (List.mem_cons_self ..)
    have hen := regsOk_railEnable hok a
    obtain ⟨hok', hon, hzero, hkeep, hsame⟩ := ih hen fun x hx => hl x (List.mem_cons_of_mem _ hx)
    refine ⟨hok', fun q => ?_, fun x hx => ?_, fun x hx => ?_, fun g i ho hc => ?_⟩
    · rw [State.each, List.foldl_cons, ← State.each, hon, State.railOn_railEnable hok ha]
      by_cases hq : q = a <;> simp [hq]
    · by_cases hmem : x ∈ r
      · exact hzero x hmem
      · exact (hkeep x hmem).trans (((List.mem_cons.1 hx).resolve_right hmem) ▸ State.railEnable_chatter hok a)
    · rw [List.mem_cons, not_or] at hx
      rw [State.each, List.foldl_cons, ← State.each, hkeep x hx.2, State.rdi_congr (s.railEnable_regs a),
        State.rdi_wri_ne _ (.inr (Ne.symm hx.1)), s.setBitOf_rdi_ne (by decide)]
    · exact (hsame g i ho hc).trans (s.railEnable_rdi a ho hc i)

/-- The rails of a phase exist. -/
theorem State.phaseRails_lt (s : State) : ∀ r ∈ s.phaseRails, r < 24 := by
  intro r hr
  have hmem := (List.mem_filter.1 hr).1
  split at hmem
  · exact (List.mem_range.1 hmem).trans (by decide)
  · obtain ⟨x, hx, rfl⟩ := List.mem_map.1 hmem
    have := List.mem_range.1 hx
    omega

/-- One step enables its rails that are off and not kept down, and no other (R400). -/
theorem State.stepUp_facts {s : State} (hok : regsOk s.regs = true) {l : List Nat} (hl : ∀ r ∈ l, r < 24) {n : Nat} (hn : n < 16) :
    (s.stepUp l n).rd .UP_STEP_NOW = n ∧
      (∀ r ∈ l, s.rdi .UP_STEP r = n → bit s.pwr.kept r = false → s.railOn r = false →
        (s.stepUp l n).railOn r = true ∧ (s.stepUp l n).rdi .CHATTER_NOW r = 0) ∧
      (∀ q, s.railOn q = true → (s.stepUp l n).railOn q = true) ∧
      ∀ g i, g ≠ .RAIL_EN_OUT → g ≠ .CHATTER_NOW → g ≠ .UP_STEP_NOW → (s.stepUp l n).rdi g i = s.rdi g i := by
  have hl' : ∀ r ∈ l.filter fun r => s.rdi .UP_STEP r == n && !bit s.pwr.kept r && !s.railOn r, r < 24 :=
    fun r hr => hl r (List.mem_filter.1 hr).1
  obtain ⟨hok', hon, hzero, -, hsame⟩ := State.each_railEnable_facts hok hl'
  have hread (q : Nat) : (s.stepUp l n).railOn q = _ := (State.railOn_congr (State.rd_wr_ne _ (by decide) n) q).trans (hon q)
  refine ⟨State.rd_wr hok' rfl hn, fun r hr hstep hkept hoff => ?_, fun q hq => ?_, fun g i ho hc hu => ?_⟩
  · have hmem : r ∈ l.filter fun r => s.rdi .UP_STEP r == n && !bit s.pwr.kept r && !s.railOn r := by
      simp [hr, hstep, hkept, hoff]
    exact ⟨by rw [hread]; simp [hmem], (State.rdi_wri_ne _ (.inl (by decide))).trans (hzero r hmem)⟩
  · rw [hread, hq, Bool.or_true]
  · exact (State.rdi_wri_ne _ (.inl hu.symm)).trans (hsame g i ho hc)

/-- The next step is that of a rail with the lowest UP_STEP among those that a test accepts. -/
theorem State.lowStep_eq {s : State} {l : List Nat} {p : Nat → Bool} {r : Nat} (hr : r ∈ l) (hp : p r = true)
    (hmin : ∀ q ∈ l, p q = true → s.rdi .UP_STEP r ≤ s.rdi .UP_STEP q) : s.lowStep l p = some (s.rdi .UP_STEP r) := by
  rw [State.lowStep, List.min?_eq_some_iff]
  refine ⟨List.mem_map_of_mem (List.mem_filter.2 ⟨hr, hp⟩), fun b hb => ?_⟩
  obtain ⟨q, hq, rfl⟩ := List.mem_map.1 hb
  exact hmin q (List.mem_filter.1 hq).1 (List.mem_filter.1 hq).2

theorem State.lowStep_none {s : State} {l : List Nat} {p : Nat → Bool} (h : ∀ q ∈ l, p q = false) : s.lowStep l p = none := by
  have : l.filter p = [] := List.filter_eq_nil_iff.2 fun q hq => by simp [h q hq]
  rw [State.lowStep, this]
  rfl

theorem State.mem_phaseRails_core {s : State} (hcore : s.rd .SEQ_STATE = seqCore) (r : Nat) :
    r ∈ s.phaseRails ↔ r < 6 ∧ s.fli .EN r = true := by
  rw [State.phaseRails, if_pos hcore, List.mem_filter, coreRails, List.mem_range]

theorem State.mem_phaseRails_board {s : State} (hboard : s.rd .SEQ_STATE = seqBoard) (r : Nat) :
    r ∈ s.phaseRails ↔ (6 ≤ r ∧ r < 24) ∧ s.fli .EN r = true := by
  rw [State.phaseRails, if_neg (by rw [hboard]; decide), List.mem_filter, boardRails, List.mem_map]
  refine and_congr_left fun _ => ⟨?_, fun h => ⟨r - 6, List.mem_range.2 (by omega), by omega⟩⟩
  rintro ⟨x, hx, rfl⟩
  have := List.mem_range.1 hx
  omega

theorem State.upStep_lt {s : State} (hok : regsOk s.regs = true) (r : Nat) : s.rdi .UP_STEP r < 16 := State.rdi_full_lt hok rfl r

/-! ### The up-sequence -/

/-- The state in which an up-sequence without pending core values looks for its first step (R399). -/
def State.coreStart (s : State) : State :=
  let s := s.setPwr fun p => { p with corePend := [], good := 0, kept := 0, ign := 0, again := [], drop := [], rdyUp := false
                                      syncing := false, synced := false, toLock := false }
  let s := (s.wr .SEQ_STATE seqCore).setf .ON_LATCHED false
  (s.setf .WHISTLE_OUT (s.fl .WHISTLE_EN)).setf .WHISTLE_IN (s.fl .WHISTLE_EN)

/-- The fields that the start of an up-sequence sets beside its first step's. -/
def coreStartFlds : List Fld := [.SEQ_STATE, .ON_LATCHED, .WHISTLE_OUT, .WHISTLE_IN]

theorem State.upSequence_step {s : State} (hpend : s.pwr.corePend = []) {n : Nat}
    (h : s.coreStart.lowStep s.coreStart.phaseRails (fun _ => true) = some n) :
    s.upSequence = s.coreStart.stepUp s.coreStart.phaseRails n := by
  simp only [State.upSequence, hpend, List.filter_nil, State.each, List.foldl_nil]
  change (match s.coreStart.lowStep s.coreStart.phaseRails (fun _ => true) with | some n => _ | none => _) = _
  rw [h]
  rfl

theorem State.upSequence_idle {s : State} (hpend : s.pwr.corePend = [])
    (h : s.coreStart.lowStep s.coreStart.phaseRails (fun _ => true) = none) : s.upSequence = s.coreStart := by
  simp only [State.upSequence, hpend, List.filter_nil, State.each, List.foldl_nil]
  change (match s.coreStart.lowStep s.coreStart.phaseRails (fun _ => true) with | some n => _ | none => _) = _
  rw [h]
  rfl

theorem State.coreStart_regs (s : State) : s.coreStart.regs =
    ((((s.wr .SEQ_STATE seqCore).setf .ON_LATCHED false).setf .WHISTLE_OUT
      (((s.wr .SEQ_STATE seqCore).setf .ON_LATCHED false).fl .WHISTLE_EN)).setf .WHISTLE_IN
        (((s.wr .SEQ_STATE seqCore).setf .ON_LATCHED false).fl .WHISTLE_EN)).regs := rfl

theorem State.coreStart_facts {s : State} (hok : regsOk s.regs = true) :
    regsOk s.coreStart.regs = true ∧ s.coreStart.rd .SEQ_STATE = seqCore ∧ s.coreStart.fl .WHISTLE_OUT = s.fl .WHISTLE_EN ∧
      s.coreStart.fl .ON_LATCHED = false ∧ ∀ g i, g ∉ coreStartFlds → s.coreStart.rdi g i = s.rdi g i := by
  have h1 := regsOk_wr hok .SEQ_STATE seqCore
  have h2 := regsOk_setf h1 .ON_LATCHED false
  have hen : ((s.wr .SEQ_STATE seqCore).setf .ON_LATCHED false).fl .WHISTLE_EN = s.fl .WHISTLE_EN :=
    State.fl_eq ((State.setf_rdi_ne _ (by decide) ..).trans (State.rd_wr_ne s (by decide) _))
  have h3 := regsOk_setf h2 .WHISTLE_OUT (s.fl .WHISTLE_EN)
  refine ⟨?_, ?_, ?_, ?_, fun g i hg => ?_⟩
  · rw [State.coreStart_regs, hen]
    exact regsOk_setf h3 ..
  · rw [State.rd_congr s.coreStart_regs, State.rd, State.setf_rdi_ne _ (by decide), State.setf_rdi_ne _ (by decide),
      State.setf_rdi_ne _ (by decide), ← State.rd, State.rd_wr hok rfl (by decide)]
  · rw [State.fl_congr s.coreStart_regs, State.fl_setf_ne _ (by decide), State.fl_setf h2 rfl (by decide), hen]
  · rw [State.fl_congr s.coreStart_regs, State.fl_setf_ne _ (by decide), State.fl_setf_ne _ (by decide),
      State.fl_setf h1 rfl (by decide)]
  · simp only [coreStartFlds, List.mem_cons, List.not_mem_nil, or_false, not_or] at hg
    obtain ⟨hs, hl, ho, hi⟩ := hg
    rw [State.rdi_congr s.coreStart_regs, State.setf_rdi_ne _ (Ne.symm hi), State.setf_rdi_ne _ (Ne.symm ho),
      State.setf_rdi_ne _ (Ne.symm hl), State.wr, State.rdi_wri_ne _ (.inl (Ne.symm hs))]

/-- What every read of an up-sequence's result says beside its first step. -/
theorem State.upSequence_facts {s : State} (hok : regsOk s.regs = true) (hpend : s.pwr.corePend = []) :
    s.upSequence.rd .SEQ_STATE = seqCore ∧ s.upSequence.fl .WHISTLE_OUT = s.fl .WHISTLE_EN ∧
      s.upSequence.fl .ON_LATCHED = false ∧
      (∀ g i, g ∉ coreStartFlds → g ≠ .RAIL_EN_OUT → g ≠ .CHATTER_NOW → g ≠ .UP_STEP_NOW →
        s.upSequence.rdi g i = s.rdi g i) := by
  obtain ⟨hokc, hseq, hout, hlat, hsame⟩ := State.coreStart_facts hok
  cases h : s.coreStart.lowStep s.coreStart.phaseRails (fun _ => true) with
  | none =>
    rw [State.upSequence_idle hpend h]
    exact ⟨hseq, hout, hlat, fun g i hg _ _ _ => hsame g i hg⟩
  | some n =>
    have hn : n < 16 := by
      obtain ⟨r, -, rfl⟩ := List.mem_map.1 (List.min?_mem h)
      exact State.upStep_lt hokc r
    obtain ⟨-, -, -, hstep⟩ := State.stepUp_facts hokc s.coreStart.phaseRails_lt hn
    rw [State.upSequence_step hpend h]
    refine ⟨?_, ?_, ?_, fun g i hg ho hc hu => (hstep g i ho hc hu).trans (hsame g i hg)⟩
    · rw [State.rd, hstep _ _ (by decide) (by decide) (by decide)]
      exact hseq
    · rw [State.fl_eq (hstep _ _ (by decide) (by decide) (by decide)), hout]
    · rw [State.fl_eq (hstep _ _ (by decide) (by decide) (by decide)), hlat]

/-- The first step of an up-sequence enables the core rails of the lowest UP_STEP. -/
theorem State.upSequence_railOn {s : State} (hok : regsOk s.regs = true) (hpend : s.pwr.corePend = []) {r : Nat} (hr : r < 6)
    (hen : s.fli .EN r = true) (hoff : s.railOn r = false)
    (hmin : ∀ q, q < 6 → s.fli .EN q = true → s.rdi .UP_STEP r ≤ s.rdi .UP_STEP q) : s.upSequence.railOn r = true := by
  obtain ⟨hokc, hseq, -, -, hsame⟩ := State.coreStart_facts hok
  have hEN (q : Nat) : s.coreStart.fli .EN q = s.fli .EN q := State.fli_eq (hsame _ _ (by decide))
  have hstep (q : Nat) : s.coreStart.rdi .UP_STEP q = s.rdi .UP_STEP q := hsame _ _ (by decide)
  have hmem : r ∈ s.coreStart.phaseRails := (State.mem_phaseRails_core hseq r).2 ⟨hr, by rw [hEN, hen]⟩
  have hlow : s.coreStart.lowStep s.coreStart.phaseRails (fun _ => true) = some (s.coreStart.rdi .UP_STEP r) := by
    refine State.lowStep_eq hmem rfl fun q hq _ => ?_
    obtain ⟨hq, hen'⟩ := (State.mem_phaseRails_core hseq q).1 hq
    rw [hstep, hstep]
    exact hmin q hq (by rw [← hEN, hen'])
  obtain ⟨-, hon, -⟩ := State.stepUp_facts hokc s.coreStart.phaseRails_lt (State.upStep_lt hokc r)
  rw [State.upSequence_step hpend hlow]
  exact (hon r hmem rfl (by simp [State.coreStart, State.setPwr, bit]) ((State.railOn_congr (hsame _ _ (by decide)) r).trans hoff)).1

end Sys2Proof.Machine
end

section
/-! The up-sequence of the power supervisor (16_power_supervision.md R399 to R401, R408, R409, R411). -/

namespace Sys2Proof.Machine

theorem State.railDone_congr {s t : State} (h : t.pwr = s.pwr) (r : Nat) : t.railDone r = s.railDone r := by
  simp only [State.railDone, State.railGood, h]

/-- In the core phase, or below ON, no step of the board phase follows a rail that becomes good. -/
theorem State.boardCheck_of_ne {s : State} (h : s.rd .SEQ_STATE ≠ seqBoard) : s.boardCheck = s := by
  rw [State.boardCheck, if_neg]
  simp [h]

/-- PWR_REQ asserted where the fabric is off. -/
theorem exec_pwrReqAssert_starts {s : State} {long : Bool} (hreq : s.fl .PWR_REQ_IN = false)
    (hseq : s.rd .SEQ_STATE = seqOff ∨ s.rd .SEQ_STATE = seqLock ∧ long = true) :
    exec (.pwrReqAssert long) s = .next (s.setf .PWR_REQ_IN true).upSequence := by
  have hsame : (s.setf .PWR_REQ_IN true).rd .SEQ_STATE = s.rd .SEQ_STATE := s.setf_rdi_ne (by decide) ..
  rcases hseq with hseq | ⟨hseq, rfl⟩ <;> simp [exec, execPwrReqAssert, hreq, hsame, hseq, seqOff, seqLock]

/-- The states in which a step of the phase is chosen, after a change of registers that no rail is read from. -/
theorem State.lowStep_congr {s t : State} (h : ∀ r, t.rdi .UP_STEP r = s.rdi .UP_STEP r) (l : List Nat) (p : Nat → Bool) :
    t.lowStep l p = s.lowStep l p := by
  have : (fun r => t.rdi .UP_STEP r) = fun r => s.rdi .UP_STEP r := funext h
  simp only [State.lowStep, this]

/-- The board phase without a sync due enables the lowest of the steps left. -/
theorem State.boardNext_step {s : State} (hsync : s.fl .WHISTLE_EN = false ∨ s.pwr.synced = true) {n : Nat}
    (h : s.lowStep s.phaseRails (fun r => !s.railOn r && !s.railDone r) = some n) : s.boardNext = s.stepUp s.phaseRails n := by
  rcases hsync with hs | hs <;> simp [State.boardNext, h, hs]

theorem State.boardNext_done {s : State} (hsync : s.fl .WHISTLE_EN = false ∨ s.pwr.synced = true)
    (h : s.lowStep s.phaseRails (fun r => !s.railOn r && !s.railDone r) = none) : s.boardNext = s.wr .SEQ_STATE seqOn := by
  rcases hsync with hs | hs <;> simp [State.boardNext, h, hs]

theorem State.setPwr_regs (s : State) (f : PwrS → PwrS) : (s.setPwr f).regs = s.regs := rfl

/-- The straps and the SPI test at the end of the core phase. -/
def State.coreStraps (s : State) (spi safe a b : Bool) : State :=
  let s := ((s.setf .BOOT_SPI spi).setf .SAFE safe).wr .SEQ_STATE seqAwait
  let s := (s.setf .SPI_A_BAD a).setf .SPI_B_BAD b
  (s.when a (·.setf .SPI_A_FAIL true)).when b (·.setf .SPI_B_FAIL true)

/-- The state that the end of the core phase leaves before the images are read. -/
def State.coreEnd (s : State) (spi safe a b : Bool) : State :=
  let s := s.wr .POWER_CYCLES (min (2 ^ 32 - 1) (s.rd .POWER_CYCLES + 1))
  (s.setPwr fun p => { p with cycles := s.rd .POWER_CYCLES }).coreStraps spi safe a b

theorem State.coreStraps_facts {s : State} (hok : regsOk s.regs = true) (spi safe a b : Bool) :
    (s.coreStraps spi safe a b).rd .SEQ_STATE = seqAwait ∧ (s.coreStraps spi safe a b).fl .BOOT_SPI = spi ∧
      (s.coreStraps spi safe a b).fl .SAFE = safe ∧ (s.coreStraps spi safe a b).fl .SPI_A_BAD = a ∧
      (s.coreStraps spi safe a b).fl .SPI_B_BAD = b ∧
      (s.coreStraps spi safe a b).rd .POWER_CYCLES = s.rd .POWER_CYCLES := by
  have h1 := regsOk_setf hok .BOOT_SPI spi
  have h2 := regsOk_setf h1 .SAFE safe
  have h3 := regsOk_wr h2 .SEQ_STATE seqAwait
  have h4 := regsOk_setf h3 .SPI_A_BAD a
  have hlate {g : Fld} (ha : Fld.SPI_A_FAIL ≠ g) (hb : Fld.SPI_B_FAIL ≠ g) : (s.coreStraps spi safe a b).rdi g 0 =
      (((((s.setf .BOOT_SPI spi).setf .SAFE safe).wr .SEQ_STATE seqAwait).setf .SPI_A_BAD a).setf .SPI_B_BAD b).rdi g 0 :=
    (State.rdi_when_setf_ne _ hb ..).trans (State.rdi_when_setf_ne _ ha ..)
  refine ⟨?_, ?_, ?_, ?_, ?_, ?_⟩
  · rw [State.rd, hlate (by decide) (by decide), State.setf_rdi_ne _ (by decide), State.setf_rdi_ne _ (by decide), ← State.rd,
      State.rd_wr h2 rfl (by decide)]
  · rw [State.fl_eq (hlate (by decide) (by decide)), State.fl_setf_ne _ (by decide), State.fl_setf_ne _ (by decide),
      State.fl_eq (State.rd_wr_ne _ (by decide) _), State.fl_setf_ne _ (by decide), State.fl_setf hok rfl (by decide)]
  · rw [State.fl_eq (hlate (by decide) (by decide)), State.fl_setf_ne _ (by decide), State.fl_setf_ne _ (by decide),
      State.fl_eq (State.rd_wr_ne _ (by decide) _), State.fl_setf h1 rfl (by decide)]
  · rw [State.fl_eq (hlate (by decide) (by decide)), State.fl_setf_ne _ (by decide), State.fl_setf h3 rfl (by decide)]
  · rw [State.fl_eq (hlate (by decide) (by decide)), State.fl_setf h4 rfl (by decide)]
  · rw [State.rd, hlate (by decide) (by decide), State.setf_rdi_ne _ (by decide), State.setf_rdi_ne _ (by decide), ← State.rd,
      State.rd_wr_ne _ (by decide), State.rd, State.setf_rdi_ne _ (by decide), State.setf_rdi_ne _ (by decide), State.rd]

theorem State.coreEnd_facts {s : State} (hok : regsOk s.regs = true) (spi safe a b : Bool) :
    (s.coreEnd spi safe a b).rd .SEQ_STATE = seqAwait ∧ (s.coreEnd spi safe a b).fl .BOOT_SPI = spi ∧
      (s.coreEnd spi safe a b).fl .SAFE = safe ∧ (s.coreEnd spi safe a b).fl .SPI_A_BAD = a ∧
      (s.coreEnd spi safe a b).fl .SPI_B_BAD = b ∧
      (s.coreEnd spi safe a b).rd .POWER_CYCLES = min (2 ^ 32 - 1) (s.rd .POWER_CYCLES + 1) := by
  have hfit : min (2 ^ 32 - 1) (s.rd .POWER_CYCLES + 1) < 2 ^ Fld.POWER_CYCLES.spec.width := by
    rw [show Fld.POWER_CYCLES.spec.width = 32 from rfl]
    omega
  obtain ⟨hseq, hspi, hsafe, ha, hb, hcyc⟩ := State.coreStraps_facts
    (s := (s.wr .POWER_CYCLES (min (2 ^ 32 - 1) (s.rd .POWER_CYCLES + 1))).setPwr fun p => { p with
      cycles := (s.wr .POWER_CYCLES (min (2 ^ 32 - 1) (s.rd .POWER_CYCLES + 1))).rd .POWER_CYCLES })
    (regsOk_wr hok .POWER_CYCLES _) spi safe a b
  exact ⟨hseq, hspi, hsafe, ha, hb, hcyc.trans (State.rd_wr hok rfl hfit)⟩

/-- The end of the core phase: its registers, then the images unless the service processor is in reset. -/
theorem execCorePhaseEnd_eq {s : State} (spi safe a b : Bool) (hcore : s.rd .SEQ_STATE = seqCore) (hgood : s.stepGood = true)
    (hall : s.phaseRails.any (fun r => !s.railOn r && !s.railDone r) = false) : execCorePhaseEnd spi safe a b s =
      .next (if (s.coreEnd spi safe a b).pwr.sysRst then s.coreEnd spi safe a b else (s.coreEnd spi safe a b).bootImages) := by
  refine if_neg ?_
  simp only [hcore, hgood, hall]
  decide

/-- Settles O48, a case per event of the up-sequence. -/
theorem upSequence : Obligations.UpSequence := by
  unfold Obligations.UpSequence
  refine ⟨?request, ?good, ?step, ?core, ?wait, ?sync⟩
  case request =>
    intro s long hinv hreq hpend
    have hokq := regsOk_setf hinv.1 .PWR_REQ_IN true
    have hsame {g : Fld} (hg : Fld.PWR_REQ_IN ≠ g) (i : Nat) : (s.setf .PWR_REQ_IN true).rdi g i = s.rdi g i := s.setf_rdi_ne hg ..
    have hin : (s.setf .PWR_REQ_IN true).fl .PWR_REQ_IN = true := State.fl_setf hinv.1 rfl (by decide) true
    refine ⟨fun hseq => ?_, fun hseq hshort => ?_, fun hseq => ?_⟩
    · obtain ⟨hcore, hout, -, hkeep⟩ := State.upSequence_facts hokq hpend
      refine ⟨_, exec_pwrReqAssert_starts hreq hseq, ?_, hcore, ?_, fun r hr hen hoff hmin => ?_⟩
      · rw [State.fl_eq (hkeep _ _ (by decide) (by decide) (by decide) (by decide)), hin]
      · rw [hout, State.fl_eq (hsame (by decide) 0)]
      · refine State.upSequence_railOn hokq hpend hr ?_ ?_ fun q hq henq => ?_
        · rw [State.fli_eq (hsame (by decide) r), hen]
        · rw [State.railOn_congr (hsame (by decide) 0), hoff]
        · rw [hsame (by decide), hsame (by decide)]
          exact hmin q hq (by rw [← State.fli_eq (hsame (by decide) q), henq])
    · refine ⟨s.setf .PWR_REQ_IN true, ?_, hin, (hsame (by decide) 0).trans hseq⟩
      have hq : (s.setf .PWR_REQ_IN true).rd .SEQ_STATE = seqLock := (hsame (by decide) 0).trans hseq
      simp [exec, execPwrReqAssert, hreq, hq, hshort, seqOff, seqLock]
    · have hq : (s.setf .PWR_REQ_IN true).rd .SEQ_STATE = seqDown := (hsame (by decide) 0).trans hseq
      refine ⟨(s.setf .PWR_REQ_IN true).setf .ON_LATCHED true, by simp [exec, execPwrReqAssert, hreq, hq, seqOff, seqLock, seqDown],
        State.fl_setf hokq rfl (by decide) true, ?_⟩
      rw [State.rd, State.setf_rdi_ne _ (by decide)]
      exact hq
  case good =>
    intro s r hinv hr hon hgood hseq
    have hq : (s.setBitOf .RAIL_RETRYING 0 r false).rd .SEQ_STATE ≠ seqBoard := by
      rwa [State.rd, State.setBitOf_rdi_ne _ (by decide)]
    obtain ⟨t, hexec, hregs, hset⟩ : ∃ t : State, execRailGood r s = .next t.boardCheck ∧
        t.regs = (s.setBitOf .RAIL_RETRYING 0 r false).regs ∧ t.pwr.good = setBit s.pwr.good r true :=
      ⟨_, (if_neg (by simp [hr, hon, hgood])), rfl, rfl⟩
    rw [State.boardCheck_of_ne (by rwa [State.rd_congr hregs])] at hexec
    refine ⟨t, hexec, ?_, ?_, ?_, fun q hne => ?_⟩
    · rw [State.railGood, hset, bit_setBit]
    · rw [State.rd_congr hregs, State.rd, State.bit_setBitOf hinv.1 rfl 0 hr, if_pos rfl]
    · rw [State.railOn_congr (State.rd_congr hregs _), State.railOn_congr (s.setBitOf_rdi_ne (by decide) ..), hon]
    · rw [State.railGood, hset, bit_setBit_of_ne _ _ hne, State.railGood]
  case step =>
    intro s r hinv hcore hgood hr hen hoff hdone hmin
    have hmem : r ∈ s.phaseRails := (State.mem_phaseRails_core hcore r).2 ⟨hr, hen⟩
    have hlow : s.lowStep s.phaseRails (fun r => !s.railOn r && !s.railDone r) = some (s.rdi .UP_STEP r) := by
      refine State.lowStep_eq hmem (by simp [hoff, hdone]) fun q hq hp => ?_
      obtain ⟨hq, henq⟩ := (State.mem_phaseRails_core hcore q).1 hq
      simp only [Bool.and_eq_true, Bool.not_eq_true'] at hp
      exact hmin q hq henq hp.1 hp.2
    have hkept : bit s.pwr.kept r = false := by
      simp only [State.railDone, Bool.or_eq_false_iff] at hdone
      exact hdone.2
    obtain ⟨hnow, hstep, hkeep, -⟩ := State.stepUp_facts hinv.1 s.phaseRails_lt (State.upStep_lt hinv.1 r)
    obtain ⟨hon, hchat⟩ := hstep r hmem rfl hkept hoff
    refine ⟨_, ?_, hon, hnow, hchat, hkeep⟩
    simp [exec, execUpStepDelay, hcore, hgood, hlow]
  case core =>
    intro s spi safe a b hinv hcore hgood hall
    have hany : s.phaseRails.any (fun r => !s.railOn r && !s.railDone r) = false := by
      rw [List.any_eq_false]
      intro r hr
      obtain ⟨hr, hen⟩ := (State.mem_phaseRails_core hcore r).1 hr
      simp [hall r hr hen]
    have hexec := execCorePhaseEnd_eq spi safe a b hcore hgood hany
    obtain ⟨t, hexec, hkeep⟩ : ∃ t, execCorePhaseEnd spi safe a b s = .next t ∧
        ∀ g ∈ [Fld.SEQ_STATE, .BOOT_SPI, .SAFE, .SPI_A_BAD, .SPI_B_BAD, .POWER_CYCLES],
          t.rdi g 0 = (s.coreEnd spi safe a b).rdi g 0 := by
      refine ⟨_, hexec, fun g hg => ?_⟩
      split
      · rfl
      · have hle : ∀ g ∈ [Fld.SEQ_STATE, .BOOT_SPI, .SAFE, .SPI_A_BAD, .SPI_B_BAD, .POWER_CYCLES],
            State.bootImages_foot.le g.off = true := by decide
        exact (State.bootImages_in (In.refl _ _) (hle g hg)).rdi_eq 0
    obtain ⟨hseq, hspi, hsafe, ha, hb, hcyc⟩ := State.coreEnd_facts hinv.1 spi safe a b
    refine ⟨t, hexec, (hkeep _ (by decide)).trans hseq, ?_, ?_, ?_, ?_, (hkeep _ (by decide)).trans hcyc⟩
    · rw [State.fl_eq (hkeep _ (by decide)), hspi]
    · rw [State.fl_eq (hkeep _ (by decide)), hsafe]
    · rw [State.fl_eq (hkeep _ (by decide)), ha]
    · rw [State.fl_eq (hkeep _ (by decide)), hb]
  case wait =>
    intro s r hinv hseq hwh hlo hhi hen hoff hdone hmin
    let u := (s.record clsWarn 0 399 []).wr .SEQ_STATE seqBoard
    have hoku : regsOk (s.record clsWarn 0 399 []).regs = true := regsOk_record hinv.1 ..
    have hkeep {g : Fld} (h1 : Fld.SEQ_STATE ≠ g) (h2 : g ∉ dbkFlds) (i : Nat) : u.rdi g i = s.rdi g i :=
      (State.rdi_wri_ne _ (.inl h1)).trans (State.record_rdi s _ _ _ _ h2 i)
    have hpwr : u.pwr = s.pwr := (s.record_only clsWarn 0 399 []).pwr_eq (by decide)
    have hboard : u.rd .SEQ_STATE = seqBoard := State.rd_wr hoku rfl (by decide)
    have hEN (q : Nat) : u.fli .EN q = s.fli .EN q := State.fli_eq (hkeep (by decide) (by decide) q)
    have hon (q : Nat) : u.railOn q = s.railOn q := State.railOn_congr (hkeep (by decide) (by decide) 0) q
    have hdn (q : Nat) : u.railDone q = s.railDone q := State.railDone_congr hpwr q
    have hstep (q : Nat) : u.rdi .UP_STEP q = s.rdi .UP_STEP q := hkeep (by decide) (by decide) q
    have hmem : r ∈ u.phaseRails := (State.mem_phaseRails_board hboard r).2 ⟨⟨hlo, hhi⟩, by rw [hEN, hen]⟩
    have hlow : u.lowStep u.phaseRails (fun r => !u.railOn r && !u.railDone r) = some (u.rdi .UP_STEP r) := by
      refine State.lowStep_eq hmem (by simp [hon, hdn, hoff, hdone]) fun q hq hp => ?_
      obtain ⟨⟨hq1, hq2⟩, henq⟩ := (State.mem_phaseRails_board hboard q).1 hq
      simp only [Bool.and_eq_true, Bool.not_eq_true', hon, hdn] at hp
      rw [hstep, hstep]
      exact hmin q hq1 hq2 (by rw [← hEN, henq]) hp.1 hp.2
    have hany : (u.phaseRails.any fun r => !u.railOn r && !u.railDone r) = true :=
      List.any_eq_true.2 ⟨r, hmem, by simp [hon, hdn, hoff, hdone]⟩
    have hkept : bit u.pwr.kept r = false := by
      simp only [State.railDone, Bool.or_eq_false_iff] at hdone
      rw [hpwr, hdone.2]
    obtain ⟨hnow, hup, -, hsame⟩ := State.stepUp_facts (regsOk_wr hoku .SEQ_STATE seqBoard) u.phaseRails_lt
      (State.upStep_lt (s := u) (regsOk_wr hoku ..) r)
    refine ⟨u.stepUp u.phaseRails (u.rdi .UP_STEP r), ?_, ?_, (hup r hmem rfl hkept (by rw [hon, hoff])).1, hnow.trans (hstep r)⟩
    · have hphase : (s.record clsWarn 0 399 []).boardPhase = u.boardNext := if_pos hany
      rw [← State.boardNext_step (.inl (by rw [State.fl_eq (hkeep (by decide) (by decide) 0), hwh])) hlow, ← hphase]
      simp [exec, execConfigWaitTimeout, hseq]
    · rw [State.rd, hsame _ _ (by decide) (by decide) (by decide)]
      exact hboard
  case sync =>
    intro s hinv hboard hsync hall
    let u := (s.setf .WHISTLE_IN false).setPwr fun p => { p with syncing := false, synced := true }
    have hregs : u.regs = (s.setf .WHISTLE_IN false).regs := rfl
    have hkeep {g : Fld} (h : Fld.WHISTLE_IN ≠ g) (i : Nat) : u.rdi g i = s.rdi g i :=
      (State.rdi_congr hregs g i).trans (s.setf_rdi_ne h ..)
    have hoku : regsOk u.regs = true := hregs ▸ regsOk_setf hinv.1 ..
    have hboard' : u.rd .SEQ_STATE = seqBoard := (hkeep (by decide) 0).trans hboard
    have hlow : u.lowStep u.phaseRails (fun r => !u.railOn r && !u.railDone r) = none := by
      refine State.lowStep_none fun q hq => ?_
      obtain ⟨⟨hq1, hq2⟩, henq⟩ := (State.mem_phaseRails_board hboard' q).1 hq
      have hon : u.railOn q = s.railOn q := State.railOn_congr (hkeep (by decide) 0) q
      have hdn : u.railDone q = s.railDone q := rfl
      rcases hall q hq1 hq2 (by rw [← State.fli_eq (hkeep (by decide) q), henq]) with h | h <;> simp [hon, hdn, h]
    refine ⟨u.wr .SEQ_STATE seqOn, ?_, State.rd_wr hoku rfl (by decide), rfl, ?_⟩
    · rw [← State.boardNext_done (.inr rfl) hlow]
      exact if_neg (by simp [hsync, hboard])
    · rw [State.fl_eq (State.rd_wr_ne u (by decide) _), State.fl_congr hregs,
        State.fl_setf hinv.1 rfl (by decide)]

end Sys2Proof.Machine
end

section
/-! The trigger of a drain (03_float_governor.md Table 03.4 step 1, R24, R77). -/

namespace Sys2Proof.Machine

/-- A change of some parts that leaves registers, DRAM and queue stays within a footprint that has those parts. -/
theorem In.upd {ft : Foot} {s t u : State} (h : In ft s t) (ps : List Part) (hr : u.regs = t.regs) (hd : u.dram = t.dram)
    (hw : u.pending = t.pending) (hps : ∀ p, p ∉ ps → p.same t u) (hk : ∀ p ∈ ps, p.foot.le ft = true) : In ft s u :=
  InMk.upd h hr hd hw fun p hp => hps p fun hm => by rw [hk p hm] at hp; cases hp

/-! ### The stages of a trigger -/

/-- The records of a trigger, DRAINING and the drain's own state. -/
def State.drainBegin (s : State) (t : Trig) (railsUp : Bool) : State :=
  let sticky := b2n (s.fl .FLOAT_OVER) * 16 + b2n (s.fl .CAL_REJECT) * 32
  let s := s.record clsState 0 80 (item 6 0xC0008 ++ item 7 sticky)
  let s := s.record clsState 0 80 (item 6 0xC0030 ++ item 7 (b2n (s.fl .STALL_OVF) * 2 ^ 32))
  let s := s.record clsFault 0 77 (item 8 t.code)
  let s := s.setf .DRAINING true
  { s with drain := { s.drain with
    trig := some t, railsUp := railsUp, step := 2, vTrig := s.rd .HOLDUP_MV, seq := s.drain.seq + 1
    count := 0, downAfter := false, power := 0 } }

/-- Every Pn_RDY falls and what waits is discarded. -/
def State.drainQuiet (s : State) : State :=
  let s := s.each (List.range 4) fun s p => s.setRdy p false
  { s with waits := [], fences := []
           prt := { s.prt with gpf := [], gpfSolo := [], dcPend := [], stopped := [], atHost := [] } }

/-- Benches empty; slices, tests, stores on their way and moves end. -/
def State.drainHalt (s : State) : State :=
  let s := s.each (List.range 8) fun s k => s.wri .BENCH_USED k 0
  let s := s.each (List.range 128) fun s i => s.wri .BENCHED i 0
  s.stallEnds.slicesStop.bstStop.drainStores.drainMoves

/-- Ladders, calibration and settles end; the twin hears of the drain. -/
def State.drainTell (s : State) : State :=
  let s := { s with int := { s.int with ladders := [], verify := [] }, mir := { s.mir with fetches := [] } }
  let s := { s.ccalStop with fgv := { s.fgv with rehearsal := false, vcalDue := false, ccal := .idle, charge := 0 } }
  let s := { s.wr .SETTLES_ACTIVE 0 with stl := { s.stl with jobs := [] } }
  let s := s.each (if s.mir.refused then [] else linksOf (s.mir.phy &&& s.mir.ports)) fun s p => s.send (.mirCtl 6 0 0 [p])
  s.recsToSolo

theorem State.startDrain_eq (s : State) (t : Trig) (railsUp : Bool) :
    s.startDrain t railsUp = (s.drainBegin t railsUp).drainQuiet.drainHalt.drainTell := by
  unfold State.startDrain State.drainTell State.drainHalt State.drainQuiet State.drainBegin
  with_reducible rfl

/-! ### What each stage keeps -/

/-- What the stages after the first may touch. -/
def drainFoot : Foot := State.startDrain_foot ^^^ (Fld.DRAINING.foot ||| Part.drain.foot)

/-- What the stages after the second may touch. -/
def drainHaltFoot : Foot := drainFoot ^^^ (Fld.MEM_ACTIVE.foot ||| Part.prt.foot ||| Part.waits.foot ||| Part.fences.foot)

/-- What the second stage touches. -/
def drainQuietFoot : Foot := State.setRdy_foot ||| Part.prt.foot ||| Part.waits.foot ||| Part.fences.foot

theorem State.drainQuiet_in (s : State) : In drainQuietFoot s s.drainQuiet :=
  (State.each_in (In.refl _ s) fun _ _ h => State.setRdy_in h (by decide)).upd [.waits, .fences, .prt] rfl rfl rfl
    (fun p hp => by cases p <;> first | rfl | simp at hp) (by decide)

theorem State.drainHalt_in (s : State) : In drainHaltFoot s s.drainHalt := by
  refine State.drainMoves_in (State.drainStores_in (State.bstStop_in (State.slicesStop_in (State.stallEnds_in ?_ (by decide))
    (by decide)) (by decide)) (by decide)) (by decide)
  exact State.each_in (State.each_in (In.refl _ s) fun _ _ h => State.wri_in h (by decide)) fun _ _ h => State.wri_in h (by decide)

/-- The last stage up to the end of the settles. -/
def State.drainEnded (s : State) : State :=
  let s := { s with int := { s.int with ladders := [], verify := [] }, mir := { s.mir with fetches := [] } }
  let s := { s.ccalStop with fgv := { s.fgv with rehearsal := false, vcalDue := false, ccal := .idle, charge := 0 } }
  { s.wr .SETTLES_ACTIVE 0 with stl := { s.stl with jobs := [] } }

/-- The last stage before the records enter the solo map. -/
def State.drainTold (s : State) : State :=
  let s := s.drainEnded
  s.each (if s.mir.refused then [] else linksOf (s.mir.phy &&& s.mir.ports)) fun s p => s.send (.mirCtl 6 0 0 [p])

theorem State.drainTell_eq (s : State) : s.drainTell = s.drainTold.recsToSolo := rfl

theorem State.drainTold_in (s : State) : In (drainHaltFoot ^^^ Part.tpe.foot) s s.drainTold := by
  let s1 : State := { s with int := { s.int with ladders := [], verify := [] }, mir := { s.mir with fetches := [] } }
  let s2 : State := { s1.ccalStop with fgv := { s1.fgv with rehearsal := false, vcalDue := false, ccal := .idle, charge := 0 } }
  let s3 : State := { s2.wr .SETTLES_ACTIVE 0 with stl := { s2.stl with jobs := [] } }
  have h1 : In (drainHaltFoot ^^^ Part.tpe.foot) s s1 :=
    (In.refl _ s).upd [.int, .mir] rfl rfl rfl (fun p hp => by cases p <;> first | rfl | simp at hp) (by decide)
  have h2 : In (drainHaltFoot ^^^ Part.tpe.foot) s s2 := (State.ccalStop_in h1 (by decide)).upd [.fgv] rfl rfl rfl
    (fun p hp => by cases p <;> first | rfl | simp at hp) (by decide)
  have h3 : In (drainHaltFoot ^^^ Part.tpe.foot) s s3 := (State.wr_in (f := .SETTLES_ACTIVE) (v := 0) h2 (by decide)).upd [.stl]
    rfl rfl rfl (fun p hp => by cases p <;> first | rfl | simp at hp) (by decide)
  exact State.each_in h3 fun _ _ h => State.send_in h (by decide)

theorem State.drainTell_in (s : State) : In (drainHaltFoot ^^^ Part.tpe.foot) s s.drainTell :=
  State.recsToSolo_in s.drainTold_in (by decide)

/-! ### No charge is taken while a drain runs -/

/-- No drain lets a charge pass (R77). -/
theorem State.canCharge_of_draining {s : State} (h : s.draining = true) (d : Nat) {n : Nat} (hn : n ≠ 0) :
    s.canCharge d n = false := by
  simp [State.canCharge, h, hn]

/-- A drain runs, and what settles and what is charged is as it was. -/
structure State.Holds (q : StlS) (t : State) : Prop where
  run : t.draining = true
  stl : t.stl = q

theorem In.holds {ft : Foot} {s t : State} {q : StlS} (h : In ft s t) (hs : s.Holds q) (hd : Fld.DRAINING.foot.le ft = false)
    (hp : Part.stl.foot.le ft = false) : t.Holds q := by
  refine ⟨(State.fl_eq (h.regs _ 0 hd)).trans hs.run, ?_⟩
  exact (h.parts .stl hp).trans hs.stl

theorem State.soloCharge_holds {s : State} {q : StlS} (hs : s.Holds q) (p : Nat) : (s.soloCharge p).Holds q := by
  rw [State.soloCharge]
  split
  · exact hs
  · rw [State.canCharge_of_draining hs.run _ Nat.one_ne_zero]
    exact ⟨hs.run, hs.stl⟩

theorem State.soloMark_holds {s : State} {q : StlS} (hs : s.Holds q) (obj tp : Nat) : (s.soloMark obj tp).Holds q := by
  refine State.soloCharge_holds ?_ _
  exact ⟨(State.fl_eq (State.rd_wr_ne _ (by decide) _)).trans hs.run, hs.stl⟩

theorem State.recsToSolo_holds {s : State} {q : StlS} (hs : s.Holds q) : s.recsToSolo.Holds q := by
  refine State.each_inv _ hs fun t r _ ht => ?_
  dsimp only
  split
  · exact ⟨ht.run, ht.stl⟩
  · refine State.soloMark_holds ?_ _ _
    exact ⟨ht.run, ht.stl⟩

/-- What a store's own steps touch: neither the charge queue nor DRAINING. -/
def storeFoot : Foot := (State.fillNow_foot ||| State.putWay_foot ||| State.writeDram_foot ||| State.redirty_foot) ||| State.flushEvict_foot

theorem State.drainReq_holds {s : State} {q : StlS} (hs : s.Holds q) (la obj tp : Nat) (r : Req) :
    (s.drainReq la obj tp r).Holds q := by
  unfold State.drainReq
  split
  · exact hs
  · extract_lets u d c v
    have hu : u.Holds q := (State.fillNow_in (ft := storeFoot) (In.refl _ s) (by decide)).holds hs (by decide) (by decide)
    have hv : v.Holds q := by
      subst v
      split
      · exact (State.putWay_in (ft := storeFoot) (In.refl _ _) (by decide)).holds hu (by decide) (by decide)
      · exact (State.writeDram_in (ft := storeFoot) (In.refl _ _) (by decide)).holds hu (by decide) (by decide)
    clear_value v
    split
    · next o _ =>
      have hw : (v.redirty (o.mapBase + tp) (la / 64 % 16)).Holds q :=
        (State.redirty_in (ft := storeFoot) (In.refl _ _) (by decide)).holds hv (by decide) (by decide)
      dsimp only
      split
      · have hmark := State.soloMark_holds hw obj tp
        exact ⟨hmark.run, hmark.stl⟩
      · exact hw
    · exact hv

theorem State.drainMr_holds {s : State} {q : StlS} (hs : s.Holds q) (e : Key × MissReg) : (s.drainMr e).Holds q := by
  unfold State.drainMr
  extract_lets m u f v
  split
  · exact hs
  · have hflush : (s.flushEvict m.la).Holds q :=
      (State.flushEvict_in (ft := storeFoot) (In.refl _ s) (by decide)).holds hs (by decide) (by decide)
    have hv : v.Holds q := ⟨hflush.run, hflush.stl⟩
    split
    · exact hv
    · exact State.each_inv _ hv fun t r _ ht => State.drainReq_holds ht ..

theorem State.drainStores_holds {s : State} {q : StlS} (hs : s.Holds q) : s.drainStores.Holds q := by
  unfold State.drainStores
  extract_lets keep stays d s1 s2 s3
  have h1 : s1.Holds q := ⟨hs.run, hs.stl⟩
  have h2 : s2.Holds q := State.each_inv _ h1 fun t e _ ht => State.drainMr_holds ht e
  have h3 : s3.Holds q := State.each_inv _ h2 fun t e _ ht => State.drainReq_holds ht ..
  exact ⟨h3.run, h3.stl⟩

/-! ### The trigger as a whole -/

/-- The three records of a trigger. -/
def State.drainRecords (s : State) (t : Trig) : State :=
  let sticky := b2n (s.fl .FLOAT_OVER) * 16 + b2n (s.fl .CAL_REJECT) * 32
  let s := s.record clsState 0 80 (item 6 0xC0008 ++ item 7 sticky)
  let s := s.record clsState 0 80 (item 6 0xC0030 ++ item 7 (b2n (s.fl .STALL_OVF) * 2 ^ 32))
  s.record clsFault 0 77 (item 8 t.code)

theorem State.drainRecords_in (s : State) (t : Trig) : In State.record_foot s (s.drainRecords t) :=
  State.record_in (State.record_in (State.record_in (In.refl _ s) (Foot.le_refl _)) (Foot.le_refl _)) (Foot.le_refl _)

theorem State.drainBegin_facts {s : State} (hok : regsOk s.regs = true) (t : Trig) (up : Bool) :
    regsOk (s.drainBegin t up).regs = true ∧ (s.drainBegin t up).draining = true ∧
      (s.drainBegin t up).stl = s.stl ∧ (s.drainBegin t up).drain = { s.drain with
        trig := some t, railsUp := up, step := 2, vTrig := s.rd .HOLDUP_MV, seq := s.drain.seq + 1
        count := 0, downAfter := false, power := 0 } := by
  have hrec := s.drainRecords_in t
  have hdrain : (s.drainRecords t).drain = s.drain := hrec.parts .drain (by decide)
  have hmv : (s.drainRecords t).rd .HOLDUP_MV = s.rd .HOLDUP_MV := hrec.regs .HOLDUP_MV 0 (by decide)
  obtain ⟨hregs, hd, hstl⟩ : (s.drainBegin t up).regs = ((s.drainRecords t).setf .DRAINING true).regs ∧
      (s.drainBegin t up).drain = { (s.drainRecords t).drain with
        trig := some t, railsUp := up, step := 2, vTrig := ((s.drainRecords t).setf .DRAINING true).rd .HOLDUP_MV
        seq := (s.drainRecords t).drain.seq + 1, count := 0, downAfter := false, power := 0 } ∧
      (s.drainBegin t up).stl = (s.drainRecords t).stl := ⟨rfl, rfl, rfl⟩
  refine ⟨?_, ?_, hstl.trans (hrec.parts .stl (by decide)), ?_⟩
  · rw [hregs]
    exact regsOk_setf (hrec.regsOk hok) ..
  · exact (State.fl_congr hregs _).trans (State.fl_setf (hrec.regsOk hok) rfl (by decide) true)
  · rw [hd, hdrain, State.rd, State.setf_rdi_ne _ (by decide), ← State.rd, hmv]

/-- After a list of ports, MEM_ACTIVE and Pn_RDY of each are 0. -/
theorem State.each_setRdy_false {s : State} (hok : regsOk s.regs = true) (l : List Nat) (hl : ∀ p ∈ l, p < 4) :
    regsOk (s.each l fun s p => s.setRdy p false).regs = true ∧
      (∀ p ∈ l, bit (s.each l fun s p => s.setRdy p false).prt.rdy p = false ∧
        (s.each l fun s p => s.setRdy p false).fli .MEM_ACTIVE (2 * p) = false ∧
        (s.each l fun s p => s.setRdy p false).fli .MEM_ACTIVE (2 * p + 1) = false) ∧
      (∀ p, p ∉ l → bit (s.each l fun s p => s.setRdy p false).prt.rdy p = bit s.prt.rdy p) ∧
      ∀ p, p ∉ l → (s.each l fun s p => s.setRdy p false).fli .MEM_ACTIVE (2 * p) = s.fli .MEM_ACTIVE (2 * p) ∧
        (s.each l fun s p => s.setRdy p false).fli .MEM_ACTIVE (2 * p + 1) = s.fli .MEM_ACTIVE (2 * p + 1) := by
  induction l generalizing s with
  | nil => exact ⟨hok, by simp, fun _ _ => rfl, fun _ _ => ⟨rfl, rfl⟩⟩
  | cons a r ih =>
    have ha := hl a (List.mem_cons_self ..)
    obtain ⟨honly, -, hprt, heven, hodd⟩ := setRdy_facts (regsOk_mwf hok) ha false
    have hok1 : regsOk (s.setRdy a false).regs = true :=
      (State.setRdy_in (ft := State.setRdy_foot) (In.refl _ s) (Foot.le_refl _)).regsOk hok
    obtain ⟨hok', hin, hout, hact⟩ := ih hok1 fun p hp => hl p (List.mem_cons_of_mem _ hp)
    have hother {p : Nat} (hp : p ≠ a) : bit (s.setRdy a false).prt.rdy p = bit s.prt.rdy p ∧
        (s.setRdy a false).fli .MEM_ACTIVE (2 * p) = s.fli .MEM_ACTIVE (2 * p) ∧
        (s.setRdy a false).fli .MEM_ACTIVE (2 * p + 1) = s.fli .MEM_ACTIVE (2 * p + 1) := by
      refine ⟨by rw [hprt]; exact bit_setBit_of_ne _ _ hp, honly.fli_eq (by simp; omega), honly.fli_eq (by simp; omega)⟩
    refine ⟨hok', fun p hp => ?_, fun p hp => ?_, fun p hp => ?_⟩
    · by_cases hmem : p ∈ r
      · exact hin p hmem
      · obtain rfl := (List.mem_cons.1 hp).resolve_right hmem
        exact ⟨(hout p hmem).trans (by rw [hprt]; exact bit_setBit _ _ _), (hact p hmem).1.trans heven, (hact p hmem).2.trans hodd⟩
    · rw [List.mem_cons, not_or] at hp
      exact (hout p hp.2).trans (hother hp.1).1
    · rw [List.mem_cons, not_or] at hp
      exact ⟨(hact p hp.2).1.trans (hother hp.1).2.1, (hact p hp.2).2.trans (hother hp.1).2.2⟩

/-- Every Pn_RDY and MEM_ACTIVE is 0 after the four ports. -/
theorem State.each_setRdy_ports {s : State} (hok : regsOk s.regs = true) :
    (∀ p, p < 4 → bit (s.each (List.range 4) fun s p => s.setRdy p false).prt.rdy p = false) ∧
      ∀ k, k < 8 → (s.each (List.range 4) fun s p => s.setRdy p false).fli .MEM_ACTIVE k = false := by
  obtain ⟨-, hin, -, -⟩ := State.each_setRdy_false hok (List.range 4) fun p hp => List.mem_range.1 hp
  refine ⟨fun p hp => (hin p (List.mem_range.2 hp)).1, fun k hk => ?_⟩
  obtain ⟨-, heven, hodd⟩ := hin (k / 2) (List.mem_range.2 (by omega))
  rcases Nat.mod_two_eq_zero_or_one k with h | h
  · rwa [show 2 * (k / 2) = k by omega] at heven
  · rwa [show 2 * (k / 2) + 1 = k by omega] at hodd

/-- The moves end with their streams. -/
theorem State.drainMoves_tpe (s : State) : s.drainMoves.tpe.moves = [] ∧ s.drainMoves.tpe.streams = [] := by
  obtain ⟨u, heq, hm, hs⟩ : ∃ u : State, s.drainMoves = u.moveRegs ∧ u.tpe.moves = [] ∧ u.tpe.streams = [] := ⟨_, rfl, rfl, rfl⟩
  have htpe : u.moveRegs.tpe = u.tpe := (State.moveRegs_in (ft := State.moveRegs_foot) (In.refl _ u) (Foot.le_refl _)).parts .tpe rfl
  rw [heq, htpe]
  exact ⟨hm, hs⟩

theorem State.drainQuiet_facts {s : State} (hok : regsOk s.regs = true) :
    (∀ p, p < 4 → bit s.drainQuiet.prt.rdy p = false) ∧ (∀ k, k < 8 → s.drainQuiet.fli .MEM_ACTIVE k = false) ∧
      s.drainQuiet.waits = [] ∧ s.drainQuiet.fences = [] := by
  obtain ⟨hrdy, hact⟩ := State.each_setRdy_ports hok
  obtain ⟨hregs, hprt, hw, hf⟩ : s.drainQuiet.regs = (s.each (List.range 4) fun s p => s.setRdy p false).regs ∧
      s.drainQuiet.prt.rdy = (s.each (List.range 4) fun s p => s.setRdy p false).prt.rdy ∧ s.drainQuiet.waits = [] ∧
      s.drainQuiet.fences = [] := by
    rw [State.drainQuiet]
    exact ⟨rfl, rfl, rfl, rfl⟩
  exact ⟨fun p hp => by rw [hprt, hrdy p hp], fun k hk => (State.fli_eq (State.rdi_congr hregs _ k)).trans (hact k hk), hw, hf⟩

theorem State.drainHalt_holds {s : State} {q : StlS} (hs : s.Holds q) : s.drainHalt.Holds q := by
  have hbench : In (Fld.BENCH_USED.foot ||| Fld.BENCHED.foot) s ((s.each (List.range 8) fun s k => s.wri .BENCH_USED k 0).each
      (List.range 128) fun s i => s.wri .BENCHED i 0) :=
    State.each_in (State.each_in (In.refl _ s) fun _ _ h => State.wri_in h (by decide)) fun _ _ h => State.wri_in h (by decide)
  have hstop : In (State.stallEnds_foot ||| State.slicesStop_foot ||| State.bstStop_foot ||| Fld.BENCH_USED.foot ||| Fld.BENCHED.foot) s
      ((s.each (List.range 8) fun s k => s.wri .BENCH_USED k 0).each
      (List.range 128) fun s i => s.wri .BENCHED i 0).stallEnds.slicesStop.bstStop :=
    State.bstStop_in (State.slicesStop_in (State.stallEnds_in (hbench.mono (by decide)) (by decide)) (by decide)) (by decide)
  have hstores := State.drainStores_holds (hstop.holds hs (by decide) (by decide))
  rw [State.drainHalt]
  exact (State.drainMoves_in (ft := State.drainMoves_foot) (In.refl _ _) (Foot.le_refl _)).holds hstores (by decide) (by decide)

theorem State.drainHalt_tpe (s : State) : s.drainHalt.tpe.moves = [] ∧ s.drainHalt.tpe.streams = [] := by
  rw [State.drainHalt]
  exact State.drainMoves_tpe _

/-- What a trigger leaves (Table 03.4 step 1). -/
structure State.Triggered (s u : State) (t : Trig) (up : Bool) : Prop where
  run : u.draining = true
  trig : u.drain.trig = some t
  railsUp : u.drain.railsUp = up
  step : u.drain.step = 2
  seq : u.drain.seq = s.drain.seq + 1
  vTrig : u.drain.vTrig = s.rd .HOLDUP_MV
  active : ∀ k, k < 8 → u.fli .MEM_ACTIVE k = false
  rdy : ∀ p, p < 4 → bit u.prt.rdy p = false
  waits : u.waits = []
  fences : u.fences = []
  moves : u.tpe.moves = []
  streams : u.tpe.streams = []
  jobs : u.stl.jobs = []
  chq : u.stl.chq = s.stl.chq

theorem State.drainTold_stl (s : State) : s.drainTold.stl = { s.stl with jobs := [] } := by
  obtain ⟨u, heq, hu⟩ : ∃ u : State, s.drainEnded.stl = { u.ccalStop.stl with jobs := [] } ∧ u.stl = s.stl := ⟨_, rfl, rfl⟩
  have hcal : u.ccalStop.stl = u.stl := (State.ccalStop_in (ft := State.ccalStop_foot) (In.refl _ u) (Foot.le_refl _)).parts .stl rfl
  have hsend : s.drainTold.stl = s.drainEnded.stl :=
    State.each_same (g := State.stl) (f := fun s p => s.send (.mirCtl 6 0 0 [p])) _ _ fun _ _ => rfl
  rw [hsend, heq, hcal, hu]

theorem State.startDrain_triggered {s : State} (hok : regsOk s.regs = true) (t : Trig) (up : Bool) :
    s.Triggered (s.startDrain t up) t up := by
  obtain ⟨hok1, hrun1, hstl1, hdrain1⟩ := State.drainBegin_facts hok t up
  rw [State.startDrain_eq]
  set s1 := s.drainBegin t up
  set s2 := s1.drainQuiet
  set s3 := s2.drainHalt
  have h12 : In drainQuietFoot s1 s2 := s1.drainQuiet_in
  have h23 : In drainHaltFoot s2 s3 := s2.drainHalt_in
  have h34 : In (drainHaltFoot ^^^ Part.tpe.foot) s3 s3.drainTell := s3.drainTell_in
  have hdrain : s3.drainTell.drain = s1.drain :=
    (h34.parts .drain (by decide)).trans ((h23.parts .drain (by decide)).trans (h12.parts .drain (by decide)))
  have hprt : s3.drainTell.prt = s2.prt := (h34.parts .prt (by decide)).trans (h23.parts .prt (by decide))
  have htpe : s3.drainTell.tpe = s3.tpe := h34.parts .tpe (by decide)
  obtain ⟨hm, hs⟩ : s3.tpe.moves = [] ∧ s3.tpe.streams = [] := s2.drainHalt_tpe
  obtain ⟨hrdy, hact, hwaits, hfences⟩ : (∀ p, p < 4 → bit s2.prt.rdy p = false) ∧ (∀ k, k < 8 → s2.fli .MEM_ACTIVE k = false) ∧
      s2.waits = [] ∧ s2.fences = [] := State.drainQuiet_facts hok1
  have hheld2 : s2.Holds s.stl := h12.holds ⟨hrun1, hstl1⟩ (by decide) (by decide)
  have hheld3 : s3.Holds s.stl := State.drainHalt_holds hheld2
  have hheld4 : s3.drainTold.Holds { s.stl with jobs := [] } :=
    ⟨(State.fl_eq (s3.drainTold_in.regs _ 0 (by decide))).trans hheld3.run, by rw [s3.drainTold_stl, hheld3.stl]⟩
  obtain ⟨hrun, hstl⟩ : s3.drainTell.Holds { s.stl with jobs := [] } := State.recsToSolo_holds hheld4
  exact {
    run := hrun
    trig := by rw [hdrain, hdrain1]
    railsUp := by rw [hdrain, hdrain1]
    step := by rw [hdrain, hdrain1]
    seq := by rw [hdrain, hdrain1]
    vTrig := by rw [hdrain, hdrain1]
    active := fun k hk => (State.fli_eq ((h34.regs _ k (by decide)).trans (h23.regs _ k (by decide)))).trans (hact k hk)
    rdy := fun p hp => by rw [hprt]; exact hrdy p hp
    waits := (h34.parts .waits (by decide)).trans ((h23.parts .waits (by decide)).trans hwaits)
    fences := (h34.parts .fences (by decide)).trans ((h23.parts .fences (by decide)).trans hfences)
    moves := by rw [htpe]; exact hm
    streams := by rw [htpe]; exact hs
    jobs := by rw [hstl]
    chq := by rw [hstl] }

/-- A trigger in ON, while no drain runs. -/
theorem State.trigger_starts {s : State} (hrun : s.draining = false) (hon : s.rd .SEQ_STATE = seqOn) (t : Trig) (up : Bool) :
    s.trigger t up = s.startDrain t up := by
  rw [State.trigger, if_neg (by simp [hrun]), if_pos hon]

end Sys2Proof.Machine
end

section
/-! The down-sequence and the loss of the fabric's power (16_power_supervision.md R403, R407 to R411). -/

namespace Sys2Proof.Machine

/-! ### MIN_OFF -/

/-- The fabric's ports are as at reset. -/
theorem State.fabricLost_rdy (s : State) : s.fabricLost.prt.rdy = 0 := by
  obtain ⟨u, n, e, hu⟩ : ∃ (u : State) (n : Nat), s.fabricLost =
      ((((State.onlyRegs u keptFlds).dramLost.wr .TAIL_SEQ n).wr .FLUSH_SEQ n).setf .COLD false) ∧ u.prt.rdy = 0 := ⟨_, _, rfl, rfl⟩
  have hin : In (State.dramLost_foot ||| Fld.TAIL_SEQ.foot ||| Fld.FLUSH_SEQ.foot ||| Fld.COLD.foot) (State.onlyRegs u keptFlds)
      s.fabricLost :=
    e ▸ State.setf_in (State.wr_in (State.wr_in (State.dramLost_in (In.refl _ _) (by decide)) (by decide)) (by decide)) (by decide)
  have hprt : s.fabricLost.prt = (State.onlyRegs u keptFlds).prt := hin.parts .prt (by decide)
  rw [hprt]
  exact hu

theorem State.fabricLost_pwr (s : State) : s.fabricLost.pwr = s.pwr :=
  (State.fabricLost_in (ft := State.fabricLost_foot) (In.refl _ s) (Foot.le_refl _)).parts .pwr (by decide)

theorem regsOk_fabricLost {s : State} (hok : regsOk s.regs = true) : regsOk s.fabricLost.regs = true :=
  (State.fabricLost_in (ft := State.fabricLost_foot) (In.refl _ s) (Foot.le_refl _)).regsOk hok

/-- MIN_OFF begins with no port ready and no sync done. -/
theorem State.minOff_facts {s : State} (hok : regsOk s.regs = true) :
    s.minOff.rd .SEQ_STATE = seqMinOff ∧ s.minOff.prt.rdy = 0 ∧ s.minOff.pwr.toLock = s.pwr.toLock ∧
      s.minOff.pwr.synced = false := by
  obtain ⟨hregs, hprt, hlock, hsync⟩ : s.minOff.regs =
        (((s.fabricLost.wr .SEQ_STATE seqMinOff).wr .UP_STEP_NOW 0).wr .DOWN_STEP_NOW 0).regs ∧
      s.minOff.prt = s.fabricLost.prt ∧ s.minOff.pwr.toLock = s.fabricLost.pwr.toLock ∧ s.minOff.pwr.synced = false := by
    rw [State.minOff]
    exact ⟨rfl, rfl, rfl, rfl⟩
  refine ⟨?_, by rw [hprt, s.fabricLost_rdy], by rw [hlock, s.fabricLost_pwr], hsync⟩
  rw [State.rd_congr hregs, State.rd_wr_ne _ (by decide), State.rd_wr_ne _ (by decide),
    State.rd_wr (regsOk_fabricLost hok) rfl (by decide)]

/-! ### Taking rails down -/

theorem State.railDisable_regs (s : State) (r : Nat) : (s.railDisable r).regs = (s.setBitOf .RAIL_EN_OUT 0 r false).regs := rfl

theorem regsOk_railDisable {s : State} (hok : regsOk s.regs = true) (r : Nat) : regsOk (s.railDisable r).regs = true := by
  rw [State.railDisable_regs]
  exact regsOk_setBitOf hok ..

theorem State.railOn_railDisable {s : State} (hok : regsOk s.regs = true) {r : Nat} (hr : r < 24) (q : Nat) :
    (s.railDisable r).railOn q = if q = r then false else s.railOn q := by
  rw [State.railOn, State.rd_congr (s.railDisable_regs r), State.rd, State.bit_setBitOf hok rfl 0 hr]
  rfl

theorem State.each_railDisable_facts {s : State} (hok : regsOk s.regs = true) {l : List Nat} (hl : ∀ r ∈ l, r < 24) :
    regsOk (s.each l State.railDisable).regs = true ∧
      ∀ q, (s.each l State.railDisable).railOn q = (!decide (q ∈ l) && s.railOn q) := by
  induction l generalizing s with
  | nil => exact ⟨hok, fun q => by simp [State.each]⟩
  | cons a r ih =>
    obtain ⟨hok', hon⟩ := ih (regsOk_railDisable hok a) fun x hx => hl x (List.mem_cons_of_mem _ hx)
    refine ⟨hok', fun q => ?_⟩
    rw [State.each, List.foldl_cons, ← State.each, hon, State.railOn_railDisable hok (hl a (List.mem_cons_self ..))]
    by_cases hq : q = a <;> simp [hq]

theorem mem_allRails (r : Nat) : r ∈ allRails ↔ r < 24 := List.mem_range

/-- A rail is up exactly while an enable output is asserted. -/
theorem State.any_railOn {s : State} (hok : regsOk s.regs = true) : allRails.any s.railOn = decide (s.rd .RAIL_EN_OUT ≠ 0) := by
  have hlt : s.rd .RAIL_EN_OUT < 2 ^ 24 := State.rdi_full_lt hok rfl 0
  rw [Bool.eq_iff_iff, List.any_eq_true, decide_eq_true_eq]
  constructor
  · rintro ⟨r, -, hr⟩ h0
    rw [State.railOn, h0, bit, Nat.zero_testBit] at hr
    cases hr
  · intro hne
    obtain ⟨i, hi⟩ := Nat.exists_testBit_of_ne_zero hne
    refine ⟨i, (mem_allRails i).2 ?_, hi⟩
    by_contra hge
    rw [Nat.testBit_lt_two_pow (hlt.trans_le (Nat.pow_le_pow_right (by decide) (Nat.not_lt.1 hge)))] at hi
    cases hi

/-- A step of the down-sequence takes down the rails of the highest key that are still up, and no other (R403). -/
theorem State.stepDown_facts {s : State} (hok : regsOk s.regs = true) {r : Nat} (hr : r < 24) (hon : s.railOn r = true)
    (hmax : ∀ q, q < 24 → s.railOn q = true → s.downKey q ≤ s.downKey r) :
    s.stepDown.railOn r = false ∧ ∀ q, q < 24 → s.downKey q < s.downKey r → s.stepDown.railOn q = s.railOn q := by
  have hmem : ∀ q, q ∈ allRails.filter s.railOn ↔ q < 24 ∧ s.railOn q = true := fun q => by
    rw [List.mem_filter, mem_allRails]
  have htop : ((allRails.filter s.railOn).map s.downKey).max? = some (s.downKey r) := by
    rw [List.max?_eq_some_iff]
    refine ⟨List.mem_map_of_mem ((hmem r).2 ⟨hr, hon⟩), fun b hb => ?_⟩
    obtain ⟨q, hq, rfl⟩ := List.mem_map.1 hb
    exact hmax q ((hmem q).1 hq).1 ((hmem q).1 hq).2
  have heq : s.stepDown = (s.each ((allRails.filter s.railOn).filter fun q => s.downKey q == s.downKey r) State.railDisable).wr
      .DOWN_STEP_NOW (s.downKey r) := by
    simp only [State.stepDown, htop]
  obtain ⟨-, hoff⟩ := State.each_railDisable_facts hok (l := (allRails.filter s.railOn).filter fun q => s.downKey q == s.downKey r)
    fun q hq => ((hmem q).1 (List.mem_filter.1 hq).1).1
  have hread (q : Nat) : s.stepDown.railOn q = _ := heq ▸ (State.railOn_congr (State.rd_wr_ne _ (by decide) _) q).trans (hoff q)
  refine ⟨?_, fun q hq hlt => ?_⟩
  · rw [hread]
    simp [mem_allRails, hr, hon]
  · rw [hread]
    simp [mem_allRails, hq, Nat.ne_of_lt hlt]

/-- A step of the down-sequence leaves the supervisor's decision on LOCKOUT. -/
theorem State.stepDown_toLock (s : State) : s.stepDown.pwr.toLock = s.pwr.toLock := by
  rw [State.stepDown]
  split
  · rfl
  · exact State.each_same (g := fun t => t.pwr.toLock) (f := State.railDisable) _ _ fun _ _ => rfl

/-! ### The start of a down-sequence -/

/-- The start of a down-sequence before its first step: the ports, ALERT_N and WHISTLE_N (R403, R409). -/
def State.downBegin (s : State) (byUp : Bool) : State :=
  let s := s.each (List.range 4) fun s p => s.setRdy p false
  let s := (s.setf .ALERT_OUT false).when (s.pwr.synced && s.fl .WHISTLE_EN) fun s =>
    (s.setf .WHISTLE_OUT true).setf .WHISTLE_IN true
  let s := (s.wr .SEQ_STATE seqDown).wr .RAIL_RETRYING 0
  s.setPwr fun p => { p with byUp := byUp, syncing := false, drop := [] }

/-- What the start of a down-sequence touches. -/
def downFoot : Foot := State.setRdy_foot ||| Fld.ALERT_OUT.foot ||| Fld.WHISTLE_OUT.foot ||| Fld.WHISTLE_IN.foot |||
  Fld.SEQ_STATE.foot ||| Fld.RAIL_RETRYING.foot ||| Part.pwr.foot

theorem State.downBegin_in (s : State) (byUp : Bool) : In downFoot s (s.downBegin byUp) := by
  rw [State.downBegin]
  refine State.setPwr_in (State.wr_in (State.wr_in (State.when_in (State.setf_in ?_ (by decide)) fun _ h =>
    State.setf_in (State.setf_in h (by decide)) (by decide)) (by decide)) (by decide)) (by decide)
  exact State.each_in (In.refl _ s) fun _ _ h => State.setRdy_in h (by decide)

theorem State.downBegin_facts {s : State} (hok : regsOk s.regs = true) (byUp : Bool) :
    (s.downBegin byUp).rd .SEQ_STATE = seqDown ∧ (s.downBegin byUp).pwr.toLock = s.pwr.toLock ∧
      ∀ p, p < 4 → bit (s.downBegin byUp).prt.rdy p = false := by
  let u := s.each (List.range 4) fun s p => s.setRdy p false
  let v := (u.setf .ALERT_OUT false).when (u.pwr.synced && u.fl .WHISTLE_EN) fun s =>
    (s.setf .WHISTLE_OUT true).setf .WHISTLE_IN true
  obtain ⟨hregs, hlock, hprt⟩ : (s.downBegin byUp).regs = ((v.wr .SEQ_STATE seqDown).wr .RAIL_RETRYING 0).regs ∧
      (s.downBegin byUp).pwr.toLock = v.pwr.toLock ∧ (s.downBegin byUp).prt = v.prt := by
    rw [State.downBegin]
    exact ⟨rfl, rfl, rfl⟩
  have huIn : In State.setRdy_foot s u := State.each_in (In.refl _ s) fun _ _ h => State.setRdy_in h (Foot.le_refl _)
  have hvIn : In (Fld.ALERT_OUT.foot ||| Fld.WHISTLE_OUT.foot ||| Fld.WHISTLE_IN.foot) u v :=
    State.when_in (State.setf_in (In.refl _ u) (by decide)) fun _ h => State.setf_in (State.setf_in h (by decide)) (by decide)
  have hvpwr : v.pwr = s.pwr := (hvIn.parts .pwr (by decide)).trans (huIn.parts .pwr (by decide))
  have hvprt : v.prt = u.prt := hvIn.parts .prt (by decide)
  refine ⟨?_, by rw [hlock, hvpwr], fun p hp => ?_⟩
  · rw [State.rd_congr hregs, State.rd_wr_ne _ (by decide), State.rd_wr (hvIn.regsOk (huIn.regsOk hok)) rfl (by decide)]
  · rw [hprt, hvprt]
    exact (State.each_setRdy_ports hok).1 p hp

theorem State.goDown_eq {s : State} (hlo : s.rd .SEQ_STATE ≠ seqOff) (hhi : s.rd .SEQ_STATE < 5) (byUp : Bool) :
    s.goDown byUp = if allRails.any (s.downBegin byUp).railOn then (s.downBegin byUp).stepDown else (s.downBegin byUp).minOff := by
  rw [State.goDown, if_neg (by omega)]
  rfl

/-- Four clear bits. -/
theorem mod_sixteen_eq_zero {v : Nat} (h : ∀ p, p < 4 → bit v p = false) : v % 16 = 0 := by
  refine Nat.eq_of_testBit_eq fun i => ?_
  rw [show 16 = 2 ^ 4 from rfl, Nat.testBit_mod_two_pow, Nat.zero_testBit]
  by_cases hi : i < 4
  · simpa [hi, bit] using h i hi
  · simp [hi]

/-- A down-sequence from a running fabric: MIN_OFF at once when no rail is up, and no Pn_RDY is left. -/
theorem State.goDown_facts {s : State} (hok : regsOk s.regs = true) (hlo : s.rd .SEQ_STATE ≠ seqOff) (hhi : s.rd .SEQ_STATE < 5)
    (byUp : Bool) : (s.goDown byUp).rd .SEQ_STATE = (if s.rd .RAIL_EN_OUT = 0 then seqMinOff else seqDown) ∧
      (∀ p, p < 4 → bit (s.goDown byUp).prt.rdy p = false) ∧ (s.goDown byUp).pwr.toLock = s.pwr.toLock := by
  obtain ⟨hseq, hlock, hrdy⟩ := State.downBegin_facts hok byUp
  have hin := s.downBegin_in byUp
  have hrail : (s.downBegin byUp).rd .RAIL_EN_OUT = s.rd .RAIL_EN_OUT := hin.regs _ 0 (by decide)
  rw [State.goDown_eq hlo hhi, State.any_railOn (hin.regsOk hok), hrail]
  by_cases h : s.rd .RAIL_EN_OUT = 0
  · obtain ⟨hmin, hprt, hpwr, -⟩ := State.minOff_facts (hin.regsOk hok)
    rw [if_neg (by simp [h]), if_pos h]
    exact ⟨hmin, fun p _ => by rw [hprt, bit, Nat.zero_testBit], hpwr.trans hlock⟩
  · have hstep := State.stepDown_in (ft := State.stepDown_foot) (In.refl _ (s.downBegin byUp)) (Foot.le_refl _)
    rw [if_pos (by simp [h]), if_neg h]
    refine ⟨(hstep.regs .SEQ_STATE 0 (by decide)).trans hseq, fun p hp => ?_, ?_⟩
    · have hprt : (s.downBegin byUp).stepDown.prt = (s.downBegin byUp).prt := hstep.parts .prt (by decide)
      rw [hprt, hrdy p hp]
    · rw [State.stepDown_toLock, hlock]

end Sys2Proof.Machine
end

section
/-! SYSTEM reactions, the first-fault record and the internal power domains (16_power_supervision.md R407, R411 to
R415): O50. -/

namespace Sys2Proof.Machine

/-! ### Registers written in a row -/

theorem State.each_wri_facts {s : State} (hok : regsOk s.regs = true) {f : Fld} (hf : f.full = true) (v : Nat → Nat) (n : Nat) :
    regsOk (s.each (List.range n) fun s i => s.wri f i (v i)).regs = true ∧
      ∀ i, (s.each (List.range n) fun s i => s.wri f i (v i)).rdi f i = if i < n then v i % 2 ^ f.spec.width else s.rdi f i := by
  induction n with
  | zero => exact ⟨hok, fun i => rfl⟩
  | succ n ih =>
    obtain ⟨hok', hread⟩ := ih
    have heq : (s.each (List.range (n + 1)) fun s i => s.wri f i (v i)) =
        (s.each (List.range n) fun s i => s.wri f i (v i)).wri f n (v n) := by
      rw [State.each, List.range_succ, List.foldl_append]
      rfl
    rw [heq]
    refine ⟨regsOk_wri hok' .., fun i => ?_⟩
    by_cases hi : i = n
    · rw [hi, State.rdi_wri _ _ _ (regsOk_mwf hok'), Fld.store_full hf, if_pos n.lt_succ_self]
    · rw [State.rdi_wri_ne _ (.inr (Ne.symm hi)), hread]
      exact if_congr (by omega) rfl rfl

/-! ### The first-fault record -/

/-- The state that takes the record's words: a free value is used up outside the four phases (R413). -/
def State.ffFrom (s : State) : State := if s.ffPhase.isNone then s.freeNext else s

theorem State.ffFrom_regs (s : State) : s.ffFrom.regs = s.regs := by
  rw [State.ffFrom]
  split <;> rfl

/-- PHASE of a record: that of the phase, or a free value. -/
def State.ffPhaseVal (s : State) : Nat := s.ffPhase.getD (s.freeVal % 4)

theorem State.ffPhaseVal_lt (s : State) : s.ffPhaseVal < 4 := by
  have hnamed : ∀ n ∈ s.ffPhase, n < 4 := by
    unfold State.ffPhase
    dsimp only
    repeat' split
    all_goals simp
  rw [State.ffPhaseVal]
  cases h : s.ffPhase with
  | none => exact Nat.mod_lt _ (by decide)
  | some n => exact hnamed n h

/-- The first failure's words in FF. -/
def State.ffStored (s : State) (r cause : Nat) : State :=
  let w := s.ffWords r cause s.ffPhaseVal
  s.ffFrom.each (List.range 8) fun s i => s.wri .FF i (w.getD i 0)

theorem State.captureFf_new {s : State} (hff : s.fl .FF_VALID = false) (r cause : Nat) : s.captureFf r cause =
    ((s.ffStored r cause).setf .FF_VALID true).setPwr fun p =>
      { p with ffA := s.ffWords r cause s.ffPhaseVal, ffB := s.ffWords r cause s.ffPhaseVal } := by
  rw [State.captureFf, if_neg (by simp [hff]), State.ffStored, State.ffFrom, State.ffPhaseVal]

theorem State.ffStored_eq (s : State) (r cause : Nat) : s.ffStored r cause =
    s.ffFrom.each (List.range 8) fun s' i => s'.wri .FF i ((s.ffWords r cause s.ffPhaseVal).getD i 0) := rfl

theorem State.ffFrom_pwr (s : State) : s.ffFrom.pwr = s.pwr := by
  rw [State.ffFrom]
  split <;> rfl

theorem State.each_wri_pwr (s : State) (l : List Nat) (f : Fld) (v : Nat → Nat) :
    (s.each l fun s i => s.wri f i (v i)).pwr = s.pwr :=
  State.each_same (g := State.pwr) _ _ fun _ _ => rfl

theorem State.ffStored_pwr (s : State) (r cause : Nat) : (s.ffStored r cause).pwr = s.pwr :=
  (congrArg State.pwr (s.ffStored_eq r cause)).trans ((State.each_wri_pwr _ _ _ _).trans s.ffFrom_pwr)

theorem State.each_ff_facts {s : State} (hok : regsOk s.regs = true) (w : List Nat) :
    regsOk (s.each (List.range 8) fun s i => s.wri .FF i (w.getD i 0)).regs = true ∧
      (s.each (List.range 8) fun s i => s.wri .FF i (w.getD i 0)).rdi .FF 0 = w.getD 0 0 % 2 ^ Fld.FF.spec.width := by
  obtain ⟨hok', hread⟩ := State.each_wri_facts hok (f := .FF) rfl (fun i => w.getD i 0) 8
  exact ⟨hok', hread 0⟩

theorem State.ffStored_facts {s : State} (hok : regsOk s.regs = true) (r cause : Nat) :
    regsOk (s.ffStored r cause).regs = true ∧
      (s.ffStored r cause).rdi .FF 0 = (s.ffWords r cause s.ffPhaseVal).getD 0 0 % 2 ^ Fld.FF.spec.width := by
  rw [s.ffStored_eq r cause]
  exact State.each_ff_facts (s := s.ffFrom) (s.ffFrom_regs ▸ hok) (s.ffWords r cause s.ffPhaseVal)

theorem State.setPwr_pwr (s : State) (f : PwrS → PwrS) : (s.setPwr f).pwr = f s.pwr := rfl

theorem State.captureFf_rdyUp (s : State) (r cause : Nat) : (s.captureFf r cause).pwr.rdyUp = s.pwr.rdyUp := by
  cases hff : s.fl .FF_VALID with
  | true => rw [State.captureFf, if_pos hff]
  | false =>
    rw [State.captureFf_new hff, State.setPwr_pwr, State.setf_pwr, State.ffStored_pwr]

/-- A failure leaves a valid first-fault record. -/
theorem State.captureFf_valid {s : State} (hok : regsOk s.regs = true) (r cause : Nat) :
    (s.captureFf r cause).fl .FF_VALID = true := by
  cases hff : s.fl .FF_VALID with
  | true =>
    rw [State.captureFf, if_pos hff]
    exact hff
  | false =>
    rw [State.captureFf_new hff, State.fl_congr (State.setPwr_regs ..), State.fl_setf (State.ffStored_facts hok r cause).1 rfl (by decide)]

/-- A record of a failure without a rail has 31 in its rail field (Table 16.4). -/
theorem State.captureFf_noRail {s : State} (hok : regsOk s.regs = true) (hff : s.fl .FF_VALID = false) (cause : Nat) :
    bits ((s.captureFf 31 cause).rdi .FF 0) 32 5 = 31 := by
  have hcyc : s.rd .POWER_CYCLES < 2 ^ 32 := State.rdi_full_lt hok rfl 0
  have hph := s.ffPhaseVal_lt
  have hword : (s.ffWords 31 cause s.ffPhaseVal).getD 0 0 =
      s.rd .POWER_CYCLES + 31 * 2 ^ 32 + cause * 2 ^ 37 + s.ffPhaseVal * 2 ^ 41 + 3 * 2 ^ 43 := by
    simp [State.ffWords]
  rw [State.captureFf_new hff, State.rdi_congr (State.setPwr_regs ..), State.setf_rdi_ne _ (by decide),
    (State.ffStored_facts hok 31 cause).2, hword, bits, Nat.shiftRight_eq_div_pow, show Fld.FF.spec.width = 64 from rfl]
  omega

/-! ### SYSTEM reactions (R407) -/

/-- A drain whose last step has not begun takes the rails down at its end. -/
theorem State.downAtEnd_of_ne {s : State} (h : s.drain.step ≠ 7) :
    s.downAtEnd = { s with drain := { s.drain with downAfter := true } } := by
  rw [State.downAtEnd, if_neg (by simp [h])]

theorem State.downAtEnd_facts {s : State} (h : s.drain.step ≠ 7) : s.downAtEnd.regs = s.regs ∧ s.downAtEnd.pwr = s.pwr ∧
    s.downAtEnd.drain.railsUp = s.drain.railsUp := by
  rw [State.downAtEnd_of_ne h]
  exact ⟨rfl, rfl, rfl⟩

/-- What a SYSTEM reaction does before it takes the rails down or starts the drain. -/
def State.systemReport (s : State) (cause : Nat) : State :=
  let rule := if cause = 8 then 409 else if cause = 9 then 410 else 484
  let s := (s.captureFf 31 cause).count .FAULT_CNT 0 .PWR_FLAGS_CNT_OVF 0 1
  (s.record clsFault 0 rule (item 5 31 ++ item 8 cause)).alert blkPWR

/-- A SYSTEM reaction on its way to LOCKOUT. -/
def State.lockNext (s : State) : State := s.setPwr fun p => { p with toLock := true }

theorem State.systemOther_eq (s : State) (cause : Nat) : s.systemOther cause = (s.systemReport cause).systemDown := rfl

/-- What a SYSTEM reaction's report touches. -/
def reportFoot : Foot := State.captureFf_foot ||| Fld.FAULT_CNT.foot ||| Fld.PWR_FLAGS_CNT_OVF.foot ||| State.record_foot ||| State.alert_foot

theorem State.systemReport_in (s : State) (cause : Nat) : In reportFoot s (s.systemReport cause) :=
  State.alert_in (State.record_in (State.count_in (State.captureFf_in (In.refl _ s) (by decide)) (by decide) (by decide) (by decide))
    (by decide)) (by decide)

/-- A report counts the fault and captures the first failure; the supervisor's own state is otherwise as it was. -/
theorem State.systemReport_facts {s : State} (hok : regsOk s.regs = true) (cause : Nat) :
    (s.systemReport cause).fl .FF_VALID = true ∧
      (s.systemReport cause).rd .FAULT_CNT = min (2 ^ 32 - 1) (s.rd .FAULT_CNT + 1) ∧
      (s.fl .FF_VALID = false → bits ((s.systemReport cause).rdi .FF 0) 32 5 = 31) ∧
      (s.systemReport cause).pwr.rdyUp = s.pwr.rdyUp := by
  let u := s.captureFf 31 cause
  have hu : In State.captureFf_foot s u := State.captureFf_in (In.refl _ s) (Foot.le_refl _)
  have hkeep {g : Fld} (hg : g.foot.le (Fld.FAULT_CNT.foot ||| Fld.PWR_FLAGS_CNT_OVF.foot ||| State.record_foot |||
      State.alert_foot) = false) (i : Nat) : (s.systemReport cause).rdi g i = u.rdi g i :=
    (State.alert_in (State.record_in (State.count_in (In.refl _ u) (by decide) (by decide) (by decide)) (by decide))
      (by decide)).regs g i hg
  have hcount : (s.systemReport cause).rd .FAULT_CNT = (u.count .FAULT_CNT 0 .PWR_FLAGS_CNT_OVF 0 1).rd .FAULT_CNT :=
    (State.alert_rdi _ _ (by decide) 0).trans (State.record_rdi _ _ _ _ _ (by decide) 0)
  refine ⟨?_, ?_, fun hff => ?_, ?_⟩
  · rw [State.fl_eq (hkeep (by decide) 0)]
    exact State.captureFf_valid hok 31 cause
  · rw [hcount, State.rd, State.count_rdi (hu.regsOk hok) rfl (by decide) (by decide), hu.regs _ 0 (by decide)]
    rfl
  · rw [hkeep (by decide)]
    exact State.captureFf_noRail hok hff cause
  · have hrest : In (Fld.FAULT_CNT.foot ||| Fld.PWR_FLAGS_CNT_OVF.foot ||| State.record_foot ||| State.alert_foot) u
        (s.systemReport cause) :=
      State.alert_in (State.record_in (State.count_in (In.refl _ u) (by decide) (by decide) (by decide)) (by decide)) (by decide)
    have hpwr : (s.systemReport cause).pwr = u.pwr := hrest.parts .pwr (by decide)
    rw [hpwr]
    exact State.captureFf_rdyUp s 31 cause

/-- Before any Pn_RDY a SYSTEM reaction takes the rails down; LOCKOUT follows (R407). -/
theorem State.systemDown_starting {s : State} (hok : regsOk s.regs = true) (hrun : s.draining = false) (hrdy : s.pwr.rdyUp = false)
    (hlo : s.rd .SEQ_STATE ≠ seqOff) (hhi : s.rd .SEQ_STATE < 5) :
    s.systemDown = s.lockNext.goDown false ∧ s.systemDown.pwr.toLock = true ∧ s.systemDown.rd .SEQ_STATE ∈ [seqDown, seqMinOff] := by
  have heq : s.systemDown = s.lockNext.goDown false := by
    rw [State.systemDown]
    refine if_pos ?_
    change (!s.pwr.rdyUp && !s.draining) = true
    rw [hrdy, hrun]
    rfl
  obtain ⟨hseq, -, hlock⟩ := State.goDown_facts (s := s.lockNext) hok hlo hhi false
  refine ⟨heq, by rw [heq, hlock]; rfl, ?_⟩
  rw [heq, hseq]
  split <;> simp

/-- After a Pn_RDY a SYSTEM reaction starts the drain, and LOCKOUT follows (R407). -/
theorem State.systemDown_drains {s : State} (hok : regsOk s.regs = true) (hrun : s.draining = false) (hrdy : s.pwr.rdyUp = true)
    (hon : s.rd .SEQ_STATE = seqOn) : s.systemDown.pwr.toLock = true ∧ s.systemDown.draining = true ∧
      ∀ g i, g.foot.le State.startDrain_foot = false → s.systemDown.rdi g i = s.rdi g i := by
  have htr := State.startDrain_triggered (s := s.lockNext) hok .rail false
  have heq : s.systemDown = (s.lockNext.startDrain .rail false).downAtEnd := by
    rw [State.systemDown]
    refine (if_neg (by simp [State.setPwr, hrdy])).trans ?_
    exact congrArg State.downAtEnd (State.trigger_starts (s := s.lockNext) hrun hon .rail false)
  have hne : (s.lockNext.startDrain .rail false).drain.step ≠ 7 := by rw [htr.step]; decide
  have hin : In State.startDrain_foot s.lockNext (s.lockNext.startDrain .rail false) := State.startDrain_in (In.refl _ _) (Foot.le_refl _)
  have hpwr : (s.lockNext.startDrain .rail false).pwr = s.lockNext.pwr := hin.parts .pwr (by decide)
  obtain ⟨hregs, hend, -⟩ := State.downAtEnd_facts hne
  rw [heq]
  exact ⟨by rw [hend, hpwr, State.lockNext, State.setPwr], (State.fl_congr hregs _).trans htr.run,
    fun g i hg => (State.rdi_congr hregs g i).trans (hin.regs g i hg)⟩

end Sys2Proof.Machine
end

section
/-! The down-sequence, WHISTLE_N and the internal power domains (16_power_supervision.md): O50. -/

namespace Sys2Proof.Machine

/-! ### PWR_REQ released (Table 16.3) -/

/-- A supervisor on its way up is neither OFF nor on its way down. -/
theorem State.seq_of_starting {s : State}
    (h : s.rd .SEQ_STATE ∈ [seqCore, seqAwait, seqBoard] ∨ (s.rd .SEQ_STATE = seqOn ∧ s.pwr.rdyUp = false)) :
    s.rd .SEQ_STATE ≠ seqOff ∧ s.rd .SEQ_STATE < 5 := by
  simp only [List.mem_cons, List.not_mem_nil, or_false] at h
  obtain (h | h | h) | ⟨h, -⟩ := h <;> simp [h, seqCore, seqAwait, seqBoard, seqOn, seqOff]

theorem State.starting_of_seq {s : State} (hrun : s.draining = false)
    (h : s.rd .SEQ_STATE ∈ [seqCore, seqAwait, seqBoard] ∨ (s.rd .SEQ_STATE = seqOn ∧ s.pwr.rdyUp = false)) :
    s.starting = true := by
  simp only [List.mem_cons, List.not_mem_nil, or_false] at h
  obtain (h | h | h) | ⟨h, hrdy⟩ := h <;> simp [State.starting, *]

theorem State.starting_of_ready {s : State} (hon : s.rd .SEQ_STATE = seqOn) (hrdy : s.pwr.rdyUp = true) : s.starting = false := by
  simp [State.starting, hon, hrdy, seqOn, seqCore, seqAwait, seqBoard]

/-- The state with PWR_REQ released. -/
theorem State.setf_pwrReq_facts (s : State) (b : Bool) : (s.setf .PWR_REQ_IN b).draining = s.draining ∧
    (s.setf .PWR_REQ_IN b).rd .SEQ_STATE = s.rd .SEQ_STATE :=
  ⟨State.fl_setf_ne s (by decide) b, State.setf_rdi_ne s (by decide) b 0⟩

theorem exec_pwrReqDeassert_starting {s : State} (hreq : s.fl .PWR_REQ_IN = true) (h : (s.setf .PWR_REQ_IN false).starting = true) :
    exec .pwrReqDeassert s = .next ((s.setf .PWR_REQ_IN false).goDown true) := by
  simp [exec, execPwrReqDeassert, hreq, h]

theorem exec_pwrReqDeassert_on {s : State} (hreq : s.fl .PWR_REQ_IN = true) (h : (s.setf .PWR_REQ_IN false).starting = false)
    (hon : (s.setf .PWR_REQ_IN false).rd .SEQ_STATE = seqOn) :
    exec .pwrReqDeassert s = .next ((s.setf .PWR_REQ_IN false).trigger .pwrReq false).downAtEnd := by
  simp [exec, execPwrReqDeassert, hreq, h, hon]

theorem pwrReqDeassert_startsDown {s : State} (hok : regsOk s.regs = true) (hrun : s.draining = false) (hreq : s.fl .PWR_REQ_IN = true)
    (h : s.rd .SEQ_STATE ∈ [seqCore, seqAwait, seqBoard] ∨ (s.rd .SEQ_STATE = seqOn ∧ s.pwr.rdyUp = false)) :
    ∃ t, exec .pwrReqDeassert s = .next t ∧ t.fl .PWR_REQ_IN = false ∧ t.rd .SEQ_STATE ∈ [seqDown, seqMinOff] ∧
      t.prt.rdy % 16 = 0 := by
  obtain ⟨hrun', hseq⟩ := s.setf_pwrReq_facts false
  have h' : (s.setf .PWR_REQ_IN false).rd .SEQ_STATE ∈ [seqCore, seqAwait, seqBoard] ∨
      ((s.setf .PWR_REQ_IN false).rd .SEQ_STATE = seqOn ∧ (s.setf .PWR_REQ_IN false).pwr.rdyUp = false) := by
    rwa [hseq, State.setf_pwr]
  obtain ⟨hlo, hhi⟩ := State.seq_of_starting h'
  obtain ⟨hdown, hrdy, -⟩ := State.goDown_facts (regsOk_setf hok .PWR_REQ_IN false) hlo hhi true
  have hpin := (State.goDown_in (ft := Fld.off .PWR_REQ_IN) (byUp := true) (In.refl _ (s.setf .PWR_REQ_IN false)) rfl).rdi_eq 0
  refine ⟨_, exec_pwrReqDeassert_starting hreq (State.starting_of_seq (hrun'.trans hrun) h'), ?_, ?_, mod_sixteen_eq_zero hrdy⟩
  · rw [State.fl_eq hpin, State.fl_setf hok rfl (by decide)]
  · rw [hdown]
    split <;> simp

theorem pwrReqDeassert_drains {s : State} (hok : regsOk s.regs = true) (hrun : s.draining = false) (hreq : s.fl .PWR_REQ_IN = true)
    (hon : s.rd .SEQ_STATE = seqOn) (hrdy : s.pwr.rdyUp = true) :
    ∃ t, exec .pwrReqDeassert s = .next t ∧ t.draining = true ∧ t.drain.railsUp = false := by
  obtain ⟨hrun', hseq⟩ := s.setf_pwrReq_facts false
  have htr := State.startDrain_triggered (regsOk_setf hok .PWR_REQ_IN false) .pwrReq false
  obtain ⟨hregs, -, hdrain⟩ := State.downAtEnd_facts (s := (s.setf .PWR_REQ_IN false).startDrain .pwrReq false) (by rw [htr.step]; decide)
  refine ⟨_, exec_pwrReqDeassert_on hreq (State.starting_of_ready (hseq.trans hon) hrdy) (hseq.trans hon), ?_⟩
  rw [State.trigger_starts (hrun'.trans hrun) (hseq.trans hon)]
  exact ⟨(State.fl_congr hregs _).trans htr.run, hdrain.trans htr.railsUp⟩

/-! ### DOWN_STEP_DELAY and MIN_OFF_END (R403, R408, R411) -/

theorem exec_downStepDelay {s : State} (hseq : s.rd .SEQ_STATE = seqDown) :
    exec .downStepDelay s = .next (if allRails.any s.railOn then s.stepDown else s.minOff) := by
  simp [exec, execDownStepDelay, hseq]

/-- MIN_OFF_END with the pins as the supervisor leaves them. -/
def State.minOffPins (s : State) : State := ((s.setf .WHISTLE_OUT false).setf .WHISTLE_IN false).setf .ON_LATCHED false

theorem State.minOffPins_facts {s : State} (hok : regsOk s.regs = true) : regsOk s.minOffPins.regs = true ∧
    s.minOffPins.fl .WHISTLE_OUT = false ∧ s.minOffPins.fl .ON_LATCHED = false ∧ s.minOffPins.fl .PWR_REQ_IN = s.fl .PWR_REQ_IN ∧
      s.minOffPins.pwr = s.pwr := by
  refine ⟨regsOk_setf (regsOk_setf (regsOk_setf hok ..) ..) .., ?_, ?_, ?_, rfl⟩
  · rw [State.minOffPins, State.fl_setf_ne _ (by decide), State.fl_setf_ne _ (by decide), State.fl_setf hok rfl (by decide)]
  · rw [State.minOffPins, State.fl_setf (regsOk_setf (regsOk_setf hok ..) ..) rfl (by decide)]
  · rw [State.minOffPins, State.fl_setf_ne _ (by decide), State.fl_setf_ne _ (by decide), State.fl_setf_ne _ (by decide)]

theorem exec_minOffEnd {s : State} (hseq : s.rd .SEQ_STATE = seqMinOff) : exec .minOffEnd s = .next
    (if s.pwr.toLock then (s.minOffPins.wr .SEQ_STATE seqLock).setPwr fun p => { p with toLock := false }
      else if s.minOffPins.fl .PWR_REQ_IN then s.minOffPins.upSequence else s.minOffPins.wr .SEQ_STATE seqOff) := by
  simp only [exec, execMinOffEnd, hseq, ne_eq, not_true_eq_false, if_false]
  rfl

theorem minOffEnd_leads {s : State} (hok : regsOk s.regs = true) (hseq : s.rd .SEQ_STATE = seqMinOff) (hpend : s.pwr.corePend = []) :
    ∃ t, exec .minOffEnd s = .next t ∧
      t.rd .SEQ_STATE = (if s.pwr.toLock then seqLock else if s.fl .PWR_REQ_IN then seqCore else seqOff) ∧
      (s.pwr.toLock = true ∨ s.fl .PWR_REQ_IN = false → t.fl .WHISTLE_OUT = false) ∧ t.fl .ON_LATCHED = false := by
  obtain ⟨hokp, hout, hlat, hreq, hpwr⟩ := State.minOffPins_facts hok
  have hwr (n : Nat) (hn : n < 8) : (s.minOffPins.wr .SEQ_STATE n).rd .SEQ_STATE = n ∧
      (s.minOffPins.wr .SEQ_STATE n).fl .WHISTLE_OUT = false ∧ (s.minOffPins.wr .SEQ_STATE n).fl .ON_LATCHED = false :=
    ⟨State.rd_wr hokp rfl hn, (State.fl_eq (State.rd_wr_ne _ (by decide) n)).trans hout,
      (State.fl_eq (State.rd_wr_ne _ (by decide) n)).trans hlat⟩
  refine ⟨_, exec_minOffEnd hseq, ?_⟩
  cases hlock : s.pwr.toLock with
  | true =>
    obtain ⟨h1, h2, h3⟩ := hwr seqLock (by decide)
    exact ⟨h1, fun _ => h2, h3⟩
  | false =>
    rw [hreq, if_neg Bool.false_ne_true, if_neg Bool.false_ne_true]
    cases hpin : s.fl .PWR_REQ_IN with
    | true =>
      rw [if_pos rfl, if_pos rfl]
      obtain ⟨hcore, -, hlatched, -⟩ := State.upSequence_facts hokp (hpwr ▸ hpend)
      exact ⟨hcore, fun h => by simp at h, hlatched⟩
    | false =>
      obtain ⟨h1, h2, h3⟩ := hwr seqOff (by decide)
      rw [if_neg Bool.false_ne_true, if_neg Bool.false_ne_true]
      exact ⟨h1, fun _ => h2, h3⟩

/-! ### WHISTLE_N (R409, R410) -/

/-- The state with WHISTLE_N seen low and counted. -/
def State.whistled (s : State) : State := (s.setf .WHISTLE_IN true).count .WHISTLE_CNT 0 .PWR_FLAGS_CNT_OVF 0 3

theorem State.whistled_in (s : State) :
    In (Fld.WHISTLE_IN.foot ||| Fld.WHISTLE_CNT.foot ||| Fld.PWR_FLAGS_CNT_OVF.foot ||| State.count_foot) s s.whistled :=
  State.count_in (State.setf_in (In.refl _ s) (by decide)) (by decide) (by decide) (by decide)

theorem exec_whistle_on {s : State} (hen : s.fl .WHISTLE_EN = true) (hsync : s.pwr.synced = true) (hout : s.fl .WHISTLE_OUT = false)
    (hrun : s.whistled.draining = false) (hon : s.whistled.rd .SEQ_STATE = seqOn) :
    exec .whistle s = .next (s.whistled.systemOther 9) := by
  simp only [exec, execWhistle, hen, hsync, hout, Bool.not_true, Bool.false_or, Bool.false_eq_true, if_false]
  exact congrArg _ ((if_neg (by rw [← State.whistled, hrun]; decide)).trans (if_pos hon))

theorem whistle_locks {s : State} (hok : regsOk s.regs = true) (hrun : s.draining = false) (hen : s.fl .WHISTLE_EN = true)
    (hsync : s.pwr.synced = true) (hout : s.fl .WHISTLE_OUT = false) (hon : s.rd .SEQ_STATE = seqOn) :
    ∃ t, exec .whistle s = .next t ∧ t.pwr.toLock = true ∧ t.rd .WHISTLE_CNT = min (2 ^ 32 - 1) (s.rd .WHISTLE_CNT + 1) ∧
      (s.pwr.rdyUp = true → t.draining = true) := by
  have hin := s.whistled_in
  have hw : regsOk s.whistled.regs = true := hin.regsOk hok
  have hcount : s.whistled.rd .WHISTLE_CNT = min (2 ^ 32 - 1) (s.rd .WHISTLE_CNT + 1) :=
    (State.count_rdi (regsOk_setf hok ..) rfl (by decide) (by decide) 0 0 3).trans
      (by rw [State.setf_rdi_ne _ (by decide)]; rfl)
  have hrep := s.whistled.systemReport_in 9
  set u := s.whistled.systemReport 9 with hu
  have hseq : u.rd .SEQ_STATE = seqOn := (hrep.regs _ 0 (by decide)).trans ((hin.regs _ 0 (by decide)).trans hon)
  have hrunu : u.draining = false :=
    (State.fl_eq ((hrep.regs _ 0 (by decide)).trans (hin.regs _ 0 (by decide)))).trans hrun
  have hcnt : u.rd .WHISTLE_CNT = min (2 ^ 32 - 1) (s.rd .WHISTLE_CNT + 1) := (hrep.regs _ 0 (by decide)).trans hcount
  have hrdy : u.pwr.rdyUp = s.pwr.rdyUp := by
    have hpwr : s.whistled.pwr = s.pwr := hin.parts .pwr (by decide)
    rw [(State.systemReport_facts hw 9).2.2.2, hpwr]
  refine ⟨u.systemDown, ?_, ?_⟩
  · rw [exec_whistle_on hen hsync hout ((State.fl_eq (hin.regs _ 0 (by decide))).trans hrun) ((hin.regs _ 0 (by decide)).trans hon),
      State.systemOther_eq]
  · cases h : s.pwr.rdyUp with
    | true =>
      obtain ⟨hlock, hdrain, hsame⟩ := State.systemDown_drains (hrep.regsOk hw) hrunu (hrdy.trans h) hseq
      exact ⟨hlock, (hsame _ 0 (by decide)).trans hcnt, fun _ => hdrain⟩
    | false =>
      obtain ⟨heq, hlock, -⟩ := State.systemDown_starting (hrep.regsOk hw) hrunu (hrdy.trans h) (by rw [hseq]; decide)
        (by rw [hseq]; decide)
      refine ⟨hlock, ?_, fun h => by cases h⟩
      rw [heq]
      exact ((State.goDown_in (ft := Fld.off .WHISTLE_CNT) (In.refl _ u.lockNext) rfl).rdi_eq 0).trans hcnt

/-! ### Power domains (R414, R415) -/

theorem not_mem_without (l : List Nat) (x : Nat) : x ∉ without l x := by simp [without]

theorem State.domStart_ramp {s : State} (hrun : s.draining = false) :
    s.domStart.pwr.domRamp = s.pwr.domRamp ++ s.pwr.domWait.take (2 - s.pwr.domRamp.length) := by
  simp [State.domStart, hrun, State.setPwr]

theorem State.draining_setPwr (s : State) (f : PwrS → PwrS) : (s.setPwr f).draining = s.draining := rfl

theorem State.draining_setDom (s : State) (d : Nat) (b : Bool) : (s.setDom d b).draining = s.draining :=
  State.fl_eq (State.setBitOf_rdi_ne s (by decide) _ _ b 0)

theorem State.domDown_ramp {s : State} (hrun : s.draining = false) (d : Nat) : (s.domDown d).pwr.domRamp =
    without s.pwr.domRamp d ++ (without s.pwr.domWait d).take (2 - (without s.pwr.domRamp d).length) := by
  rw [State.domDown, State.domStart_ramp]
  · rfl
  · exact (s.draining_setDom d false).trans hrun

theorem exec_domainSwitch_on {s : State} {d : Nat} (hd : d < 112) (hown : s.domOff d = false) (hrun : s.draining = false)
    (hoff : s.domOn d = false) (hramp : s.pwr.domRamp = []) (hwait : s.pwr.domWait = []) :
    exec (.domainSwitch d true) s = .next (s.setPwr fun p => { p with domWait := p.domWait ++ [d] }).domStart := by
  simp [exec, execDomainSwitch, hown, hrun, hoff, hramp, hwait, Nat.not_le.2 hd]

theorem exec_domainPowerGood {s : State} {d : Nat} (h : s.pwr.domRamp = [d]) : exec (.domainPowerGood d) s =
    .next ((s.setDom d true).setPwr fun p => { p with domRamp := without p.domRamp d }).domStart := by
  simp [exec, execDomainPowerGood, h]

/-- A domain that did not come up in time, with its flags set. -/
def State.domFailed (s : State) (d : Nat) : State :=
  ((s.domDown d).setf .PWR_STATUS_DOM_FAIL true).setBitOf .PWR_DOM_FAIL_DOM_FAIL (d / 64) (d % 64) true

theorem exec_domainSwitchTimeout {s : State} {d : Nat} (h : s.pwr.domRamp = [d]) : exec (.domainSwitchTimeout d) s =
    .next (((s.domFailed d).record clsError 0 415 (item 7 d)).alert blkPWR) := by
  simp [exec, execDomainSwitchTimeout, h, State.domFailed]

theorem domainTimeout_fails {s : State} (hok : regsOk s.regs = true) (hrun : s.draining = false) {d : Nat}
    (hramp : s.pwr.domRamp = [d]) (hwait : s.pwr.domWait = []) :
    ∃ t, exec (.domainSwitchTimeout d) s = .next t ∧ t.domOn d = false ∧ t.pwr.domRamp = [] ∧
      t.fl .PWR_STATUS_DOM_FAIL = true ∧ bit (t.rdi .PWR_DOM_FAIL_DOM_FAIL (d / 64)) (d % 64) = true := by
  have hdown : In State.domDown_foot s (s.domDown d) := State.domDown_in (In.refl _ s) (Foot.le_refl _)
  have hokd := hdown.regsOk hok
  have htell : In (State.record_foot ||| State.alert_foot) (s.domFailed d)
      (((s.domFailed d).record clsError 0 415 (item 7 d)).alert blkPWR) :=
    State.alert_in (State.record_in (In.refl _ _) (by decide)) (by decide)
  have hpwr : (((s.domFailed d).record clsError 0 415 (item 7 d)).alert blkPWR).pwr = (s.domDown d).pwr := htell.parts .pwr (by decide)
  refine ⟨_, exec_domainSwitchTimeout hramp, ?_, ?_, ?_, ?_⟩
  · rw [State.domOn, htell.regs _ _ (by decide), State.domFailed, State.setBitOf_rdi_ne _ (by decide), State.setf_rdi_ne _ (by decide)]
    exact State.domDown_domOn hok d
  · rw [hpwr, State.domDown_ramp hrun, hramp, hwait]
    simp [without]
  · rw [State.fl_eq (htell.regs _ 0 (by decide)), State.domFailed, State.fl_eq (State.setBitOf_rdi_ne _ (by decide) ..),
      State.fl_setf hokd rfl (by decide)]
  · rw [htell.regs _ _ (by decide), State.domFailed,
      State.bit_setBitOf (f := .PWR_DOM_FAIL_DOM_FAIL) (regsOk_setf hokd ..) rfl _ (show d % 64 < 64 from Nat.mod_lt _ (by decide)), if_pos rfl]

/-- Settles O50: each request reads off the supervisor's phase, and what the down-sequence, the SYSTEM reaction and the
domains leave is said once per operation. -/
theorem downSequenceAndDomains : Obligations.DownSequenceAndDomains := by
  unfold Obligations.DownSequenceAndDomains
  refine ⟨?released, ?step, ?last, ?minOff, ?whistle, ?domains⟩
  case released =>
    intro s hinv hrun hreq
    exact ⟨fun h => pwrReqDeassert_startsDown hinv.1 hrun hreq h, fun hon hrdy => pwrReqDeassert_drains hinv.1 hrun hreq hon hrdy⟩
  case step =>
    intro s r hinv hseq hr hon hmax
    obtain ⟨hoff, hsame⟩ := State.stepDown_facts hinv.1 hr hon hmax
    have hany : allRails.any s.railOn = true := List.any_eq_true.2 ⟨r, (mem_allRails r).2 hr, hon⟩
    refine ⟨s.stepDown, by rw [exec_downStepDelay hseq, if_pos hany], hoff, ?_, hsame⟩
    exact ((State.stepDown_in (ft := State.stepDown_foot) (In.refl _ s) (Foot.le_refl _)).regs .SEQ_STATE 0 (by decide)).trans hseq
  case last =>
    intro s hinv hseq hrails
    obtain ⟨hmin, -, -, hsync⟩ := State.minOff_facts hinv.1
    exact ⟨s.minOff, by rw [exec_downStepDelay hseq, State.any_railOn hinv.1, if_neg (by simp [hrails])], hmin, hsync⟩
  case minOff =>
    intro s hinv hseq hpend
    exact minOffEnd_leads hinv.1 hseq hpend
  case whistle =>
    intro s hinv hrun hen hsync hout hon
    exact whistle_locks hinv.1 hrun hen hsync hout hon
  case domains =>
    intro s d hinv hrun hd
    refine ⟨fun hown => ?_, fun hown hoff hramp hwait => ?_, fun hramp hwait => ⟨?_, domainTimeout_fails hinv.1 hrun hramp hwait⟩⟩
    · refine ⟨_, exec_domainSwitch_off hd hown, State.domDown_domOn hinv.1 d, ?_⟩
      rw [State.domDown_ramp hrun, List.mem_append]
      exact fun h => h.elim (not_mem_without _ d) fun h => not_mem_without _ d (List.mem_of_mem_take h)
    · refine ⟨_, exec_domainSwitch_on hd hown hrun hoff hramp hwait, ?_, ?_⟩
      · rw [State.domStart_ramp ((s.draining_setPwr _).trans hrun)]
        simp [State.setPwr, hramp, hwait]
      · exact (State.domStart_domOn _ d).trans hoff
    · refine ⟨_, exec_domainPowerGood hramp, (State.domStart_domOn _ d).trans (State.setDom_domOn hinv.1 d true), ?_⟩
      rw [State.domStart_ramp ((State.draining_setPwr _ _).trans ((s.draining_setDom d true).trans hrun))]
      simp [State.setPwr, State.setDom, State.setBitOf, hramp, hwait, without]

end Sys2Proof.Machine
end

section
/-! Rails that fail and their reactions (16_power_supervision.md R404 to R407, R413): O49. -/

namespace Sys2Proof.Machine

/-! ### The report of a failed rail -/

/-- What a rail's failure does before its reaction: the first-fault record, the flags, the count and the alert (R405). -/
def State.railReport (s : State) (r cause : Nat) : State :=
  let s := s.captureFf r cause
  let s := (s.setBitOf .RAIL_FAILED 0 r true).wri .LAST_CAUSE r cause
  let s := s.count .FAULT_CNT 0 .PWR_FLAGS_CNT_OVF 0 1
  (s.record clsFault 0 405 (item 5 r ++ item 8 cause)).alert blkPWR

/-- What a rail's report touches. -/
def railReportFoot : Foot := reportFoot ||| Fld.RAIL_FAILED.foot ||| Fld.LAST_CAUSE.foot

theorem State.railReport_in (s : State) (r cause : Nat) : In railReportFoot s (s.railReport r cause) :=
  State.alert_in (State.record_in (State.count_in (State.wri_in (State.setBitOf_in (State.captureFf_in (In.refl _ s) (by decide))
    (by decide)) (by decide)) (by decide) (by decide) (by decide)) (by decide)) (by decide)

/-- A failed rail is marked with its cause and counted, the PWR alert rises and the first failure is captured (R405). -/
structure State.RailReported (s t : State) (r cause : Nat) : Prop where
  failed : bit (t.rd .RAIL_FAILED) r = true
  cause : t.rdi .LAST_CAUSE r = cause
  count : t.rd .FAULT_CNT = min (2 ^ 32 - 1) (s.rd .FAULT_CNT + 1)
  alert : bit (t.rd .ALERT_CAUSE) blkPWR = true
  captured : t.fl .FF_VALID = true

theorem State.railReport_facts {s : State} (hok : regsOk s.regs = true) {r cause : Nat} (hr : r < 24) (hc : cause < 16) :
    s.RailReported (s.railReport r cause) r cause := by
  let u := s.captureFf r cause
  let v := u.setBitOf .RAIL_FAILED 0 r true
  let w := v.wri .LAST_CAUSE r cause
  have hu : In State.captureFf_foot s u := State.captureFf_in (In.refl _ s) (Foot.le_refl _)
  have hv : regsOk v.regs = true := regsOk_setBitOf (hu.regsOk hok) ..
  have hw : regsOk w.regs = true := regsOk_wri hv ..
  have hlate : In (Fld.FAULT_CNT.foot ||| Fld.PWR_FLAGS_CNT_OVF.foot ||| State.record_foot ||| State.alert_foot) w (s.railReport r cause) :=
    State.alert_in (State.record_in (State.count_in (In.refl _ w) (by decide) (by decide) (by decide)) (by decide)) (by decide)
  exact {
    failed := by
      rw [State.rd, hlate.regs _ 0 (by decide), State.rdi_wri_ne _ (.inl (by decide)), State.bit_setBitOf (hu.regsOk hok) rfl 0 hr, if_pos rfl]
    cause := by rw [hlate.regs _ r (by decide), State.rdi_wri_fit hv rfl hc]
    count := by
      have hcount : (s.railReport r cause).rd .FAULT_CNT = (w.count .FAULT_CNT 0 .PWR_FLAGS_CNT_OVF 0 1).rd .FAULT_CNT :=
        (State.alert_rdi _ _ (by decide) 0).trans (State.record_rdi _ _ _ _ _ (by decide) 0)
      rw [hcount, State.rd, State.count_rdi hw rfl (by decide) (by decide), State.rdi_wri_ne _ (.inl (by decide)),
        State.setBitOf_rdi_ne _ (by decide), hu.regs _ 0 (by decide)]
      rfl
    alert := State.alert_sets (regsOk_record (regsOk_count hw ..) ..) (by decide)
    captured := by
      rw [State.fl_eq (hlate.regs _ 0 (by decide)), State.fl_eq (State.rdi_wri_ne _ (.inl (by decide))),
        State.fl_eq (State.setBitOf_rdi_ne _ (by decide) ..)]
      exact State.captureFf_valid hok r cause }

/-- The report survives what touches none of its fields. -/
theorem State.RailReported.of_regs {s t u : State} {r cause : Nat} (h : s.RailReported t r cause)
    (hkeep : ∀ g i, g ∈ [Fld.RAIL_FAILED, .LAST_CAUSE, .FAULT_CNT, .ALERT_CAUSE, .FF_VALID] → u.rdi g i = t.rdi g i) :
    s.RailReported u r cause where
  failed := by rw [State.rd, hkeep _ 0 (by simp)]; exact h.failed
  cause := by rw [hkeep _ r (by simp)]; exact h.cause
  count := by rw [State.rd, hkeep _ 0 (by simp)]; exact h.count
  alert := by rw [State.rd, hkeep _ 0 (by simp)]; exact h.alert
  captured := by rw [State.fl_eq (hkeep _ 0 (by simp))]; exact h.captured

/-! ### The reactions in ON -/

theorem State.reaction_congr {s t : State} (r : Nat)
    (h : ∀ g, g ∈ [Fld.REACTION, .DRAIN_NEED, .DRAM_CH, .CH_ACTIVE] → ∀ i, t.rdi g i = s.rdi g i) : t.reaction r = s.reaction r := by
  rw [State.reaction, State.reaction, State.dramRail, State.dramRail, State.fli, State.fli, State.rd, State.rd, h .REACTION (by simp),
    h .DRAIN_NEED (by simp), h .DRAM_CH (by simp), h .CH_ACTIVE (by simp)]

theorem State.railReport_reaction (s : State) (r cause : Nat) : (s.railReport r cause).reaction r = s.reaction r := by
  refine State.reaction_congr r fun g hg i => (s.railReport_in r cause).regs g i ?_
  simp only [List.mem_cons, List.not_mem_nil, or_false] at hg
  obtain rfl | rfl | rfl | rfl := hg <;> decide

theorem State.railReport_seq (s : State) (r cause : Nat) : (s.railReport r cause).rd .SEQ_STATE = s.rd .SEQ_STATE :=
  (s.railReport_in r cause).regs _ 0 (by decide)

theorem State.railFail_eq (s : State) (r cause : Nat) : s.railFail r cause =
    if (s.railReport r cause).rd .SEQ_STATE = seqOff ∨ 5 ≤ (s.railReport r cause).rd .SEQ_STATE then s.railReport r cause
    else if (s.railReport r cause).reaction r = 0 then
      ((s.railReport r cause).setPwr fun p =>
        { p with ign := if (s.railReport r cause).rd .SEQ_STATE = seqOn then p.ign else setBit p.ign r true }).boardCheck
    else if (s.railReport r cause).reaction r = 1 then (s.railReport r cause).retryRail r
    else if (s.railReport r cause).reaction r = 2 then (s.railReport r cause).groupDownRails r
    else (s.railReport r cause).systemRail r := rfl

/-- Under IGNORE in ON nothing goes down (R405). -/
theorem State.railFail_ignore {s : State} {r : Nat} (hon : s.rd .SEQ_STATE = seqOn) (hre : s.reaction r = 0) (cause : Nat) :
    (s.railFail r cause).regs = (s.railReport r cause).regs := by
  have hseq : (s.railReport r cause).rd .SEQ_STATE = seqOn := (s.railReport_seq r cause).trans hon
  rw [State.railFail_eq, if_neg (by rw [hseq]; decide), if_pos ((s.railReport_reaction r cause).trans hre)]
  rw [State.boardCheck_of_ne, State.setPwr_regs]
  rw [State.rd_congr (State.setPwr_regs _ _), hseq]
  decide

theorem State.railFail_retry {s : State} {r : Nat} (hon : s.rd .SEQ_STATE = seqOn) (hre : s.reaction r = 1) (cause : Nat) :
    s.railFail r cause = (s.railReport r cause).retryRail r := by
  have hseq : (s.railReport r cause).rd .SEQ_STATE = seqOn := (s.railReport_seq r cause).trans hon
  rw [State.railFail_eq, if_neg (by rw [hseq]; decide), s.railReport_reaction, hre, if_neg (by decide), if_pos rfl]

/-- A rail with attempts left goes off and retries; the other rails stay as they are (R406). -/
theorem State.retryRail_facts {s : State} (hok : regsOk s.regs = true) {r : Nat} (hr : r < 24) (hatt : s.rdi .ATTEMPTS r < 3) :
    (s.retryRail r).railOn r = false ∧ bit ((s.retryRail r).rd .RAIL_RETRYING) r = true ∧
      (∀ q, q ≠ r → (s.retryRail r).railOn q = s.railOn q) ∧
      ∀ g i, g ∉ [Fld.RAIL_EN_OUT, .ATTEMPTS, .RAIL_RETRYING] → (s.retryRail r).rdi g i = s.rdi g i := by
  obtain ⟨u, heq, hu, hoku, hlow⟩ : ∃ u : State, s.retryRail r = (if 3 ≤ u.rdi .ATTEMPTS r then u.groupDownRails r
      else u.setBitOf .RAIL_RETRYING 0 r true) ∧ (∀ g i, g ≠ .ATTEMPTS → u.rdi g i = (s.railDisable r).rdi g i) ∧
      regsOk u.regs = true ∧ u.rdi .ATTEMPTS r < 3 := by
    obtain ⟨c, v, heq, hv⟩ : ∃ (c : Bool) (v : State), s.retryRail r = (if 3 ≤ v.rdi .ATTEMPTS r then v.groupDownRails r
      else v.setBitOf .RAIL_RETRYING 0 r true) ∧ v = if c then s.railDisable r else (s.railDisable r).wri .ATTEMPTS r 0 :=
      ⟨_, _, rfl, rfl⟩
    have hdis := regsOk_railDisable hok r
    refine ⟨v, heq, ?_⟩
    cases c with
    | true =>
      rw [hv, if_pos rfl]
      refine ⟨fun _ _ _ => rfl, hdis, ?_⟩
      rwa [State.rdi_congr (s.railDisable_regs r), State.setBitOf_rdi_ne _ (by decide)]
    | false =>
      rw [hv, if_neg Bool.false_ne_true]
      exact ⟨fun g i hg => State.rdi_wri_ne _ (.inl hg.symm), regsOk_wri hdis .., by rw [State.rdi_wri_fit hdis rfl (by decide)]; decide⟩
  have hon (q : Nat) : (u.setBitOf .RAIL_RETRYING 0 r true).railOn q = if q = r then false else s.railOn q := by
    rw [State.railOn_congr (State.setBitOf_rdi_ne u (by decide) 0 r true 0), State.railOn_congr (hu _ 0 (by decide)),
      State.railOn_railDisable hok hr]
  rw [heq, if_neg (Nat.not_le.2 hlow)]
  refine ⟨by rw [hon, if_pos rfl], ?_, fun q hq => by rw [hon, if_neg hq], fun g i hg => ?_⟩
  · rw [State.rd, State.bit_setBitOf hoku rfl 0 hr, if_pos rfl]
  · simp only [List.mem_cons, List.not_mem_nil, or_false, not_or] at hg
    obtain ⟨hen, hatt', hret⟩ := hg
    rw [State.setBitOf_rdi_ne u (Ne.symm hret), hu g i hatt', State.rdi_congr (s.railDisable_regs r),
      State.setBitOf_rdi_ne s (Ne.symm hen)]

/-! ### The four causes -/

/-- What leads to a rail's failure touches only the chatter counts and the supervisor's own state. -/
def railCauseFoot : Foot := Fld.CHATTER_NOW.foot ||| Fld.CHATTER_CNT.foot ||| Fld.PWR_FLAGS_CNT_OVF.foot ||| State.count_foot ||| Part.pwr.foot

/-- How a rail comes to fail (R401, R404, R406). -/
def State.RailCause (s : State) (r cause : Nat) (i : Instr) : Prop :=
  (i = .rampTimeout r ∧ s.railGood r = false ∧ bit s.pwr.ign r = false ∧ cause = 1) ∨
    (i = .railPgFall r ∧ s.railGood r = false ∧ s.rdi .CHATTER_LIMIT r ≤ s.rdi .CHATTER_NOW r ∧ s.rdi .CHATTER_NOW r < 31 ∧ cause = 2) ∨
    (i = .railPgFall r ∧ s.railGood r = true ∧ cause = 3) ∨
    (∃ a, s.fli .PMBUS_EN r = true ∧ i = .pmbusPoll r (some a) 0b0110 ∧ cause = 5)

theorem State.chatter_fails {s : State} (hok : regsOk s.regs = true) {r : Nat} (hr : r < 24) (hon : s.railOn r = true)
    (hgood : s.railGood r = false) (hlim : s.rdi .CHATTER_LIMIT r ≤ s.rdi .CHATTER_NOW r) (hnow : s.rdi .CHATTER_NOW r < 31) :
    exec (.railPgFall r) s = .next (((s.wri .CHATTER_NOW r (s.rdi .CHATTER_NOW r + 1)).count .CHATTER_CNT 0 .PWR_FLAGS_CNT_OVF 0
      2).railFail r 2) := by
  set u := (s.wri .CHATTER_NOW r (s.rdi .CHATTER_NOW r + 1)).count .CHATTER_CNT 0 .PWR_FLAGS_CNT_OVF 0 2 with hu
  have hread : u.rdi .CHATTER_NOW r = s.rdi .CHATTER_NOW r + 1 := by
    rw [hu, State.count_rdi_of_ne _ _ _ _ _ _ (by decide) (by decide) (by decide),
      State.rdi_wri_fit hok rfl (show s.rdi .CHATTER_NOW r + 1 < 2 ^ 5 by omega)]
  have hlimit : u.rdi .CHATTER_LIMIT r = s.rdi .CHATTER_LIMIT r := by
    rw [hu, State.count_rdi_of_ne _ _ _ _ _ _ (by decide) (by decide) (by decide), State.rdi_wri_ne _ (.inl (by decide))]
  simp only [exec, execRailPgFall, hon, hgood, Nat.not_le.2 hr, decide_false, Bool.not_true, Bool.or_false, Bool.false_eq_true, if_false]
  rw [← hu, if_pos (by rw [hread, hlimit]; omega)]

theorem railCause_fails {s : State} (hok : regsOk s.regs = true) {r cause : Nat} {i : Instr} (hr : r < 24) (hon : s.railOn r = true)
    (h : s.RailCause r cause i) : ∃ u, exec i s = .next (u.railFail r cause) ∧ In railCauseFoot s u ∧ cause < 16 := by
  have hlt : ¬ 24 ≤ r := Nat.not_le.2 hr
  obtain ⟨rfl, hgood, hign, rfl⟩ | ⟨rfl, hgood, hlim, hnow, rfl⟩ | ⟨rfl, hgood, rfl⟩ | ⟨a, hen, rfl, rfl⟩ := h
  · exact ⟨s, by simp [exec, execRampTimeout, hlt, hon, hgood, hign], In.refl _ s, by decide⟩
  · exact ⟨_, State.chatter_fails hok hr hon hgood hlim hnow, State.count_in (State.wri_in (In.refl _ s) (by decide)) (by decide)
      (by decide) (by decide), by decide⟩
  · exact ⟨_, by simp only [exec, execRailPgFall, hlt, hon, hgood, decide_false, Bool.not_true, Bool.or_false, Bool.false_eq_true,
      if_false, if_true], State.setPwr_in (f := fun p => { p with good := setBit p.good r false }) (In.refl _ s) (by decide), by decide⟩
  · refine ⟨_, ?_, State.setPwr_in (f := fun p => { p with pmbus := mput p.pmbus (r, 0) (a.1 % 2 ^ 16, a.2.1 % 2 ^ 16, a.2.2 % 2 ^ 16) })
      (In.refl _ s) (by decide), by decide⟩
    have hcause : (if bit 0b0110 0 then 4 else if bit 0b0110 1 then 5 else if bit 0b0110 2 then 6 else if bit 0b0110 3 then 7 else 0) = 5 := by
      decide
    simp only [exec, execPmbusPoll, hlt, hen, hcause, decide_false, Bool.not_true, Bool.or_false, Bool.false_eq_true, if_false]
    exact congrArg _ (if_neg (by rw [State.railOn, State.rd_congr (State.setPwr_regs _ _), ← State.railOn, hon]; decide))

/-! ### The statement -/

theorem exec_railRetry {s : State} {r : Nat} (hr : r < 24) (hret : bit (s.rd .RAIL_RETRYING) r = true) (hoff : s.railOn r = false)
    (hatt : s.rdi .ATTEMPTS r < 3) : exec (.railRetry r) s = .next ((s.wri .ATTEMPTS r (s.rdi .ATTEMPTS r + 1)).railEnable r) := by
  simp [exec, execRailRetry, Nat.not_le.2 hr, hret, hoff, Nat.not_le.2 hatt]

/-- A regulator that does not answer only sets PMBUS_ERR and is recorded once a minute (R404). -/
theorem pmbusPoll_silent {s : State} (hok : regsOk s.regs = true) {r n : Nat} (hr : r < 24) (hen : s.fli .PMBUS_EN r = true) :
    ∃ t, exec (.pmbusPoll r none n) s = .next t ∧ t.fl .PMBUS_ERR = true ∧ t.rd .RAIL_EN_OUT = s.rd .RAIL_EN_OUT := by
  obtain ⟨c, f, heq⟩ : ∃ (c : Bool) (f : PwrS → PwrS), exec (.pmbusPoll r none n) s = .next (if c then
      ((s.setf .PMBUS_ERR true).setPwr f).record clsError 0 404 (item 5 r) else s.setf .PMBUS_ERR true) :=
    ⟨_, _, if_neg (by simp [Nat.not_le.2 hr, hen])⟩
  obtain ⟨t, ht, hin⟩ : ∃ t, (if c then ((s.setf .PMBUS_ERR true).setPwr f).record clsError 0 404 (item 5 r) else s.setf .PMBUS_ERR true)
      = t ∧ In (Part.pwr.foot ||| State.record_foot) (s.setf .PMBUS_ERR true) t := by
    refine ⟨_, rfl, ?_⟩
    split
    · exact State.record_in (State.setPwr_in (In.refl _ _) (by decide)) (by decide)
    · exact In.refl _ _
  rw [ht] at heq
  refine ⟨t, heq, ?_, ?_⟩
  · rw [State.fl_eq (hin.regs _ 0 (by decide)), State.fl_setf hok rfl (by decide)]
  · exact (hin.regs _ 0 (by decide)).trans (State.setf_rdi_ne s (by decide) true 0)

/-- FF_CLR empties the record and both stored copies (R413). -/
theorem State.ffClr_facts {s : State} (hok : regsOk s.regs = true) :
    s.ffClr.fl .FF_VALID = false ∧ s.ffClr.pwr.ffA = [] ∧ s.ffClr.pwr.ffB = [] ∧ ∀ i, i < 8 → s.ffClr.rdi .FF i = 0 := by
  obtain ⟨hok', hread⟩ := State.each_wri_facts hok (f := .FF) rfl (fun _ => 0) 8
  have hregs : s.ffClr.regs = ((s.each (List.range 8) fun s i => s.wri .FF i 0).setf .FF_VALID false).regs := rfl
  refine ⟨?_, rfl, rfl, fun i hi => ?_⟩
  · rw [State.fl_congr hregs, State.fl_setf hok' rfl (by decide)]
  · rw [State.rdi_congr hregs, State.setf_rdi_ne _ (by decide), hread i, if_pos hi]
    rfl

/-- Before any Pn_RDY a SYSTEM reaction without a rail is captured, counted and leads down (R407). -/
theorem State.systemOther_locks {s : State} (hok : regsOk s.regs = true) (hrun : s.draining = false) (hrdy : s.pwr.rdyUp = false)
    (hff : s.fl .FF_VALID = false) (hlo : s.rd .SEQ_STATE ≠ seqOff) (hhi : s.rd .SEQ_STATE < 5) (cause : Nat) :
    (s.systemOther cause).pwr.toLock = true ∧ (s.systemOther cause).fl .FF_VALID = true ∧
      (s.systemOther cause).rd .SEQ_STATE ∈ [seqDown, seqMinOff] ∧
      (s.systemOther cause).rd .FAULT_CNT = min (2 ^ 32 - 1) (s.rd .FAULT_CNT + 1) ∧
      bits ((s.systemOther cause).rdi .FF 0) 32 5 = 31 := by
  obtain ⟨hvalid, hcount, hword, hrdy'⟩ := State.systemReport_facts hok cause
  have hin := s.systemReport_in cause
  set u := s.systemReport cause
  have hseq : u.rd .SEQ_STATE = s.rd .SEQ_STATE := hin.regs _ 0 (by decide)
  have hrunu : u.draining = false := (State.fl_eq (hin.regs _ 0 (by decide))).trans hrun
  obtain ⟨heq, hlock, hdown⟩ := State.systemDown_starting (hin.regsOk hok) hrunu (hrdy'.trans hrdy) (hseq ▸ hlo) (hseq ▸ hhi)
  have hsame {g : Fld} (hg : State.goDown_foot.le g.off = true) (i : Nat) : (s.systemOther cause).rdi g i = u.rdi g i := by
    rw [State.systemOther_eq, heq]
    exact (State.goDown_in (ft := g.off) (In.refl _ u.lockNext) hg).rdi_eq i
  refine ⟨hlock, ?_, hdown, ?_, ?_⟩
  · rw [State.fl_eq (hsame rfl 0), hvalid]
  · exact (hsame rfl 0).trans hcount
  · rw [hsame rfl]
    exact hword hff

theorem exec_systemOther {s : State} {i : Instr} (h : (i = .whistleSyncTimeout ∧ s.pwr.syncing = true ∧ s.rd .SEQ_STATE = seqBoard) ∨
    (i = .dieOverTemperature ∧ s.rd .SEQ_STATE ∈ [seqCore, seqAwait, seqBoard, seqOn])) :
    (∃ cause, exec i s = .next (s.systemOther cause)) ∧ s.rd .SEQ_STATE ≠ seqOff ∧ s.rd .SEQ_STATE < 5 := by
  obtain ⟨rfl, hsync, hseq⟩ | ⟨rfl, hseq⟩ := h
  · exact ⟨⟨8, by simp [exec, execWhistleSyncTimeout, hsync, hseq]⟩, by rw [hseq]; decide, by rw [hseq]; decide⟩
  · have hup : s.rd .SEQ_STATE ≠ seqOff ∧ s.rd .SEQ_STATE < 5 := by
      simp only [List.mem_cons, List.not_mem_nil, or_false] at hseq
      obtain h | h | h | h := hseq <;> rw [h] <;> decide
    exact ⟨⟨10, by simp [exec, execDieOverTemperature, hup.1, Nat.not_le.2 hup.2]⟩, hup⟩

/-- Settles O49: a failed rail's report is one state of its own, and each reaction adds only what it takes down. -/
theorem railFaults : Obligations.RailFaults := by
  unfold Obligations.RailFaults
  refine ⟨?fails, ?retry, ?silent, ?clear, ?system⟩
  case fails =>
    intro s r cause i hinv hr hon hseq hcause
    obtain ⟨u, hexec, hin, hlt⟩ := railCause_fails hinv.1 hr hon hcause
    have hrep := State.railReport_facts (hin.regsOk hinv.1) hr hlt
    have hrepIn := u.railReport_in r cause
    have hequ : u.rd .SEQ_STATE = seqOn := (hin.regs _ 0 (by decide)).trans hseq
    have hre : u.reaction r = s.reaction r := by
      refine State.reaction_congr r fun g hg i => hin.regs g i ?_
      simp only [List.mem_cons, List.not_mem_nil, or_false] at hg
      obtain rfl | rfl | rfl | rfl := hg <;> decide
    have hcnt : u.rd .FAULT_CNT = s.rd .FAULT_CNT := hin.regs _ 0 (by decide)
    have hrails : (u.railReport r cause).rd .RAIL_EN_OUT = s.rd .RAIL_EN_OUT :=
      (hrepIn.regs _ 0 (by decide)).trans (hin.regs _ 0 (by decide))
    refine ⟨fun h0 => ⟨_, hexec, ?_⟩, fun h1 hatt => ⟨_, hexec, ?_⟩⟩
    · have hregs := State.railFail_ignore hequ (hre.trans h0) cause
      obtain ⟨hfailed, hlast, hcount, halert, hff⟩ := hrep.of_regs fun g i _ => State.rdi_congr hregs g i
      exact ⟨hfailed, hlast, hcount.trans (by rw [hcnt]), halert, hff, (State.rd_congr hregs _).trans hrails,
        (State.rd_congr hregs _).trans ((u.railReport_seq r cause).trans hequ)⟩
    · have hatt' : (u.railReport r cause).rdi .ATTEMPTS r < 3 := by
        rwa [hrepIn.regs _ r (by decide), hin.regs _ r (by decide)]
      obtain ⟨hoff, hret, hothers, hsame⟩ := State.retryRail_facts (hrepIn.regsOk (hin.regsOk hinv.1)) hr hatt'
      rw [State.railFail_retry hequ (hre.trans h1)]
      obtain ⟨hfailed, hlast, -⟩ := hrep.of_regs fun g i hg => hsame g i (by
        simp only [List.mem_cons, List.not_mem_nil, or_false] at hg
        obtain rfl | rfl | rfl | rfl | rfl := hg <;> decide)
      exact ⟨hfailed, hlast, hoff, hret, fun q _ hne => (hothers q hne).trans (State.railOn_congr hrails q)⟩
  case retry =>
    intro s r hinv hr hret hoff hatt
    have hok' := regsOk_wri hinv.1 .ATTEMPTS r (s.rdi .ATTEMPTS r + 1)
    refine ⟨_, exec_railRetry hr hret hoff hatt, ?_, ?_, State.railEnable_chatter hok' r⟩
    · rw [State.railOn_railEnable hok' hr, if_pos rfl]
    · rw [State.railEnable_rdi _ r (by decide) (by decide), State.rdi_wri_fit hinv.1 rfl (show _ < 2 ^ 2 by omega)]
  case silent =>
    intro s r n hinv hr hen
    exact pmbusPoll_silent hinv.1 hr hen
  case clear =>
    intro s hinv hrun
    exact ⟨s.ffClr, by rw [exec, execFfClr, State.barWrite_of_running hrun], State.ffClr_facts hinv.1⟩
  case system =>
    intro s i hinv hrun hrdy hff h
    obtain ⟨⟨cause, hexec⟩, hlo, hhi⟩ := exec_systemOther h
    exact ⟨_, hexec, State.systemOther_locks hinv.1 hrun hrdy hff hlo hhi cause⟩

end Sys2Proof.Machine
end

section
/-! What a loss of the fabric's power leaves, and what starts a drain (02_persistence_model.md, 03_float_governor.md
R77, 16_power_supervision.md R465): O9. -/

namespace Sys2Proof.Machine

theorem State.draining_congr {s t : State} (h : t.regs = s.regs) : t.draining = s.draining := State.fl_congr h .DRAINING

/-! ### The loss of the fabric's power -/

theorem State.abruptSave_nfc (s : State) : s.abruptSave.nfc.seals = s.nfc.seals ∧
    (s.nfc.shadow = [] → s.abruptSave.nfc.homes = s.nfc.homes ∧ s.abruptSave.nfc.vault = s.nfc.vault) := by
  rw [State.abruptSave]
  split
  · exact ⟨rfl, fun _ => ⟨rfl, rfl⟩⟩
  · exact ⟨rfl, fun h => by simp [State.shadowBack, h]⟩

/-- Every volatile part starts over; NAND keeps its seals, and its homes and vault when no unsettled journal entry gave any up. -/
theorem State.fabricLost_parts (s : State) : s.fabricLost.dram = [] ∧ s.fabricLost.md = metaNone ∧ s.fabricLost.waits = [] ∧
    s.fabricLost.fences = [] ∧ s.fabricLost.cmd = cmdNone ∧ s.fabricLost.dbk.ring = [] ∧ s.fabricLost.dbk.dropped = 0 := by
  obtain ⟨u, n, heq, hm, hw, hf, hc, hr, hd⟩ : ∃ (u : State) (n : Nat), s.fabricLost =
      ((((State.onlyRegs u keptFlds).dramLost.wr .TAIL_SEQ n).wr .FLUSH_SEQ n).setf .COLD false) ∧ u.md = metaNone ∧
      u.waits = [] ∧ u.fences = [] ∧ u.cmd = cmdNone ∧ u.dbk.ring = [] ∧ u.dbk.dropped = 0 :=
    ⟨_, _, rfl, rfl, rfl, rfl, rfl, rfl, rfl⟩
  rw [heq]
  exact ⟨rfl, hm, hw, hf, hc, hr, hd⟩

theorem State.fabricLost_nfc (s : State) : s.fabricLost.nfc.seals = s.nfc.seals ∧
    (s.nfc.shadow = [] → s.fabricLost.nfc.homes = s.nfc.homes ∧ s.fabricLost.nfc.vault = s.nfc.vault) := by
  obtain ⟨u, n, heq, hs, hh, hv⟩ : ∃ (u : State) (n : Nat), s.fabricLost =
      ((((State.onlyRegs u keptFlds).dramLost.wr .TAIL_SEQ n).wr .FLUSH_SEQ n).setf .COLD false) ∧
      u.nfc.seals = s.abruptSave.nfc.seals ∧ u.nfc.homes = s.abruptSave.nfc.homes ∧ u.nfc.vault = s.abruptSave.nfc.vault :=
    ⟨_, _, rfl, rfl, rfl, rfl⟩
  obtain ⟨hseals, hkeep⟩ := s.abruptSave_nfc
  obtain ⟨hn, hho, hva⟩ : s.fabricLost.nfc.seals = u.nfc.seals ∧ s.fabricLost.nfc.homes = u.nfc.homes ∧
      s.fabricLost.nfc.vault = u.nfc.vault := by
    rw [heq]
    exact ⟨rfl, rfl, rfl⟩
  exact ⟨hn.trans (hs.trans hseals), fun h => ⟨hho.trans (hh.trans (hkeep h).1), hva.trans (hv.trans (hkeep h).2)⟩⟩

/-! ### The start-up with the rails up (R465) -/

/-- A start-up with the rails up resets the fabric and begins the core phase; rails and NAND stay as they are. -/
theorem State.startUpRailsUp_facts {s : State} (hok : regsOk s.regs = true) :
    s.startUpRailsUp.rd .SEQ_STATE = seqCore ∧ s.startUpRailsUp.draining = false ∧
      s.startUpRailsUp.rd .RAIL_EN_OUT = s.rd .RAIL_EN_OUT ∧ s.startUpRailsUp.pwr.good = s.pwr.good ∧
      s.startUpRailsUp.nfc.seals = s.nfc.seals ∧ s.startUpRailsUp.dram = [] ∧ s.startUpRailsUp.md = metaNone := by
  have hokl := regsOk_fabricLost hok
  have hin : In State.upSequence_foot s.fabricLost s.fabricLost.upSequence := State.upSequence_in (In.refl _ _) (Foot.le_refl _)
  obtain ⟨hdram, hmd, -⟩ := s.fabricLost_parts
  obtain ⟨u, c, b, heq, hu, hc⟩ : ∃ (u : State) (c : Nat) (b : Bool), s.startUpRailsUp =
      ((u.wr .RAIL_EN_OUT c).setf .ARMED b).setPwr (fun p => { p with good := s.pwr.good }) ∧ u = s.fabricLost.upSequence ∧
      c = s.rd .RAIL_EN_OUT := ⟨_, _, _, rfl, rfl, rfl⟩
  have hregs : s.startUpRailsUp.regs = ((u.wr .RAIL_EN_OUT c).setf .ARMED b).regs := by rw [heq, State.setPwr_regs]
  have hrails : c < 2 ^ 24 := hc ▸ State.rdi_full_lt hok rfl 0
  have hoku : regsOk u.regs = true := hu ▸ hin.regsOk hokl
  have hread {g : Fld} (ha : Fld.ARMED ≠ g) (hr : Fld.RAIL_EN_OUT ≠ g) : s.startUpRailsUp.rd g = u.rd g := by
    rw [State.rd_congr hregs, State.rd, State.setf_rdi_ne _ ha, ← State.rd, State.rd_wr_ne _ hr]
  refine ⟨?_, ?_, ?_, by rw [heq]; rfl, ?_, ?_, ?_⟩
  · rw [hread (by decide) (by decide), hu]
    exact State.upSequence_seq hokl
  · refine (State.fl_eq (hread (by decide) (by decide))).trans ?_
    rw [hu, State.fl_eq (hin.regs _ 0 (by decide))]
    exact s.fabricLost_draining
  · rw [State.rd_congr hregs, State.rd, State.setf_rdi_ne _ (by decide), ← State.rd, State.rd_wr hoku rfl hrails, hc]
  · have hnfc : u.nfc = s.fabricLost.nfc := hu ▸ hin.parts .nfc (by decide)
    rw [heq]
    exact (congrArg NfcS.seals hnfc).trans s.fabricLost_nfc.1
  · rw [heq]
    exact ((hu ▸ hin.parts .dram (by decide)) : u.dram = s.fabricLost.dram).trans hdram
  · rw [heq]
    exact ((hu ▸ hin.parts .md (by decide)) : u.md = s.fabricLost.md).trans hmd

/-! ### The rows that trigger a drain -/

/-- A row whose drain starts from a state that differs from s only in pins and in the supervisor's own state. -/
def State.Starts (s : State) (i : Instr) (g : Trig) (up : Bool) : Prop :=
  ∃ u : State, exec i s = .next (u.startDrain g up) ∧ regsOk u.regs = true ∧ u.drain = s.drain ∧ u.stl = s.stl ∧
    u.rd .HOLDUP_MV = s.rd .HOLDUP_MV

theorem pfailNFall_starts {s : State} (hok : regsOk s.regs = true) (hrun : s.draining = false) (hon : s.rd .SEQ_STATE = seqOn)
    (hrdy : s.pwr.rdyUp = true) : s.Starts .pfailNFall .pfail false := by
  have hrun' : (s.setf .PFAIL_IN true).draining = false := (State.fl_setf_ne s (by decide) true).trans hrun
  have hon' : (s.setf .PFAIL_IN true).rd .SEQ_STATE = seqOn := (State.setf_rdi_ne s (by decide) true 0).trans hon
  have hst : (s.setf .PFAIL_IN true).starting = false := State.starting_of_ready hon' hrdy
  refine ⟨s.setf .PFAIL_IN true, ?_, regsOk_setf hok .., rfl, rfl, State.setf_rdi_ne s (by decide) true 0⟩
  simp [exec, execPfailNFall, hst, hrun', State.trigger_starts hrun' hon']

theorem holdupFloorCrossing_starts {s : State} (hok : regsOk s.regs = true) (hrun : s.draining = false)
    (hon : s.rd .SEQ_STATE = seqOn) (harm : s.fl .ARMED = true) : s.Starts .holdupFloorCrossing .floor false :=
  ⟨s, by simp [exec, execHoldupFloorCrossing, harm, State.trigger_starts hrun hon], hok, rfl, rfl, rfl⟩

theorem sysRstNAssert_starts {s : State} (hok : regsOk s.regs = true) (hrun : s.draining = false) (hon : s.rd .SEQ_STATE = seqOn) :
    s.Starts .sysRstNAssert .sysRst true := by
  let u := s.setPwr fun p => { p with sysRst := true }
  have hon' : u.rd .SEQ_STATE = seqOn := hon
  refine ⟨u, ?_, hok, rfl, rfl, rfl⟩
  rw [← State.trigger_starts (s := u) hrun hon' .sysRst true]
  exact congrArg _ (if_neg (by rw [hon']; decide))

theorem drainNow_starts {s : State} (hok : regsOk s.regs = true) (hrun : s.draining = false) (hon : s.rd .SEQ_STATE = seqOn) :
    s.Starts .drainNow .now true :=
  ⟨s, by rw [exec, execDrainNow, State.barWrite_of_running hrun, State.drainNow, State.trigger_starts hrun hon], hok, rfl, rfl, rfl⟩

/-- SYS_RST_N released while a drain runs on, or with the images measured, changes only its pin (R465, Table 16.3). -/
theorem exec_sysRstNDeassert_pin {s : State} (hstep : s.drain.step ≠ 7) (h : s.draining = true ∨ s.sec.meas ≠ []) :
    exec .sysRstNDeassert s = .next { s with pwr := { s.pwr with sysRst := false } } := by
  let u := s.setPwr fun p => { p with sysRst := false }
  have hfirst : ¬ ((u.draining && u.drain.step == 7 && u.rd .SEQ_STATE == seqOn) = true) := by
    have : u.drain.step ≠ 7 := hstep
    simp [this]
  have hsecond : ¬ ((!u.draining && u.sec.meas.isEmpty &&
      (u.rd .SEQ_STATE == seqAwait || u.rd .SEQ_STATE == seqBoard || u.rd .SEQ_STATE == seqOn)) = true) := by
    obtain h | h := h
    · have hd : u.draining = true := h
      simp [hd]
    · have hm : u.sec.meas ≠ [] := h
      simp [hm]
  exact congrArg _ ((if_neg hfirst).trans (if_neg hsecond))

theorem exec_sysRstNDeassert_startUp {s : State} (hrun : s.draining = true) (hstep : s.drain.step = 7) (hon : s.rd .SEQ_STATE = seqOn) :
    exec .sysRstNDeassert s = .next (s.setPwr fun p => { p with sysRst := false }).startUpRailsUp := by
  let u := s.setPwr fun p => { p with sysRst := false }
  have hd : u.draining = true := hrun
  have hs : u.drain.step = 7 := hstep
  have ho : u.rd .SEQ_STATE = seqOn := hon
  exact congrArg _ (if_pos (show (u.draining && u.drain.step == 7 && u.rd .SEQ_STATE == seqOn) = true by simp [hd, hs, ho]))

/-- Settles O9: each row of a trigger starts the one drain that step 1 begins. -/
theorem drainTriggers : Obligations.DrainTriggers := by
  unfold Obligations.DrainTriggers
  refine ⟨?starts, ?rise, ?pin, ?release⟩
  case starts =>
    intro s i g up hinv hrun hon hrow
    have hst : s.Starts i g up := by
      obtain ⟨rfl, hrdy, rfl, rfl⟩ | ⟨rfl, harm, rfl, rfl⟩ | ⟨rfl, rfl, rfl⟩ | ⟨rfl, rfl, rfl⟩ := hrow
      · exact pfailNFall_starts hinv.1 hrun hon hrdy
      · exact holdupFloorCrossing_starts hinv.1 hrun hon harm
      · exact sysRstNAssert_starts hinv.1 hrun hon
      · exact drainNow_starts hinv.1 hrun hon
    obtain ⟨u, hexec, hok, hdrain, hstl, hmv⟩ := hst
    have htr := State.startDrain_triggered hok g up
    exact ⟨_, hexec, htr.run, htr.trig, htr.railsUp, htr.step, htr.seq.trans (by rw [hdrain]), htr.vTrig.trans hmv, htr.active, htr.rdy,
      htr.waits, htr.fences, htr.moves, htr.streams, htr.jobs, htr.chq.trans (by rw [hstl])⟩
  case rise =>
    intro s hinv
    exact ⟨_, rfl, State.fl_setf hinv.1 rfl (by decide) false, State.fl_setf_ne s (by decide) false⟩
  case pin =>
    intro s hstep h
    exact exec_sysRstNDeassert_pin hstep h
  case release =>
    intro s hinv hrun hstep hon
    obtain ⟨hseq, hdone, hrails, hgood, hseals, hdram, hmd⟩ :=
      State.startUpRailsUp_facts (s := s.setPwr fun p => { p with sysRst := false }) hinv.1
    exact ⟨_, exec_sysRstNDeassert_startUp hrun hstep hon, hseq, hdone, hrails, hgood, hseals, hdram, hmd⟩

end Sys2Proof.Machine
end

section
/-! The power-up of the always-on domain and an abrupt loss (16_power_supervision.md R397, R413, 17_daybook.md R424,
R426, 02_persistence_model.md R58): O55. -/

namespace Sys2Proof.Machine

/-! ### One record into an empty ring -/

theorem item_length_le (ty v : Nat) : (item ty v).length ≤ 2 := by
  rw [item]
  split <;> simp

/-- A record into an empty ring that has room takes HEAD_SEQ as its number and becomes the tail (R420). -/
theorem State.record_empty {s : State} (hok : regsOk s.regs = true) (hring : s.dbk.ring = []) (hdrop : s.dbk.dropped = 0)
    (hofs : s.rd .HEAD_OFS = 0) (hseq : s.rd .HEAD_SEQ < 2 ^ 64 - 1) {cls : Nat} (hcls : cls ≠ 0) (dom rule : Nat)
    {items : List (Nat × Nat)} (hlen : items.length ≤ 4) :
    (s.record cls dom rule items).rd .TAIL_SEQ = s.rd .HEAD_SEQ ∧ (s.record cls dom rule items).rd .HEAD_SEQ = s.rd .HEAD_SEQ + 1 := by
  have hroom : ringRoom s.dbk.ring (s.rd .HEAD_OFS) (32 + 8 * items.length) (s.rd .FLUSH_SEQ) = some ([], 0, 0) := by
    have hfit : 32 + 8 * items.length ≤ ringBytes := by
      rw [ringBytes]
      omega
    simp [ringRoom, hring, hofs, hfit]
  let r : Rec := ⟨0, 32 + 8 * items.length, cls, dom, rule, s.rd .HEAD_SEQ, s.rd .OP_TIME, s.rd .POWER_CYCLES, items⟩
  let u : State := { s with dbk := { s.dbk with ring := [r] } }
  let v : State := (u.wr .HEAD_SEQ (s.rd .HEAD_SEQ + 1)).wr .HEAD_OFS ((0 + (32 + 8 * items.length)) % ringBytes)
  have hplace : s.dbkPlace cls dom rule items = some v.dbkTail := by
    unfold State.dbkPlace
    simp only [hroom]
    rfl
  have htail : v.dbkTail = (v.wr .TAIL_SEQ (s.rd .HEAD_SEQ)).wr .TAIL_OFS 0 := by
    have hfind : v.dbk.ring.find? (fun r => r.cls != 0) = some r := by simp [v, u, r, hcls]
    unfold State.dbkTail
    simp only [hfind]
    rfl
  have hrec : s.record cls dom rule items =
      v.dbkTail.when (cls = clsFault || decide (v.dbkTail.rd .FLUSH_HI ≤ v.dbkTail.unflushed)) State.dbkFlush := by
    unfold State.record
    simp only [hdrop, if_true, Option.bind_some, hplace]
  have hflush : In State.dbkFlush_foot v.dbkTail (s.record cls dom rule items) :=
    hrec ▸ State.when_in (In.refl _ _) fun _ h => State.dbkFlush_in h (Foot.le_refl _)
  have hokv : regsOk v.regs = true := regsOk_wr (regsOk_wr (s := u) hok ..) ..
  refine ⟨?_, ?_⟩
  · rw [State.rd, hflush.regs _ 0 (by decide), htail, ← State.rd, State.rd_wr_ne _ (by decide), State.rd_wr hokv rfl (by
      exact hseq.trans (by decide))]
  · rw [State.rd, hflush.regs _ 0 (by decide), htail, ← State.rd, State.rd_wr_ne _ (by decide), State.rd_wr_ne _ (by decide),
      State.rd_wr_ne _ (by decide), State.rd_wr (s := u) hok rfl (show s.rd .HEAD_SEQ + 1 < 2 ^ 64 by omega)]

/-! ### The stages of a power-up -/

/-- OP_TIME, the record numbers and POWER_CYCLES as the logs and the power record area give them (R424, R426). -/
def State.coldClock (s : State) (op ck seq : Nat) : State :=
  let s := (s.wr .OP_TIME op).wr .CKPT_TIME ck
  let s := ((s.wr .HEAD_SEQ seq).wr .TAIL_SEQ seq).wr .FLUSH_SEQ seq
  s.wr .POWER_CYCLES s.pwr.cycles

/-- The first-fault record as stored (R413). -/
def State.coldFf (s : State) (ff : List Nat) : State :=
  (s.each (List.range 8) fun s i => s.wri .FF i (ff.getD i 0)).setf .FF_VALID (ff != [])

/-- The pins as sampled. -/
def State.coldPins (s : State) (req pfail bypass : Bool) : State :=
  ((s.setf .PWR_REQ_IN req).setf .PFAIL_IN pfail).setf .XTAL_BYP bypass

/-- OP_TIME at a power-up: 60 s beyond the newest checkpoint (R424). -/
def State.coldOp (s : State) : Nat :=
  match s.newestCkpt with
  | some x => x.opTime + 1500000000
  | none => 0

/-- The highest number in the logs. -/
def State.coldHigh (s : State) : Nat := (s.dbk.logA ++ s.dbk.logB).foldl (fun n (r : Rec) => max n r.seq) 0

/-- The first number of a power-up (R426). -/
def State.coldSeq (s : State) : Nat :=
  if s.newestCkpt.isNone && (s.dbk.logA ++ s.dbk.logB).isEmpty then 1
  else max (s.coldHigh + 1) ((s.newestCkpt.map (·.seq)).getD 0) + 8192

/-- Every field at its reset value but those in OTP, and the supervisor's own state as the power record area holds it. -/
def State.coldBase (s : State) : State :=
  let s := s.onlyRegs [.SVN_FUSE, .ROOT_REVOKED, .OWNER_SET, .FW_SVN]
  { s with pwr := { pwrNone with ffA := s.pwr.ffA, ffB := s.pwr.ffB, cycles := s.pwr.cycles, sysRst := s.pwr.sysRst } }

theorem State.coldReset_eq (s : State) (req pfail bypass : Bool) : s.coldReset req pfail bypass =
    (((s.fabricLost.coldBase.coldClock s.fabricLost.coldOp ((s.fabricLost.newestCkpt.map (·.opTime)).getD 0) s.fabricLost.coldSeq).coldFf
      s.fabricLost.storedFf).coldPins req pfail bypass).record clsBoot 0 426
        (item 7 s.fabricLost.coldOp ++ item 0xA s.fabricLost.coldSeq) := by
  rfl

theorem State.abruptSave_dbk (s : State) : s.abruptSave.dbk = s.dbk := by
  rw [State.abruptSave]
  split <;> rfl

/-- A loss of the fabric's power keeps what the devices hold. -/
theorem State.fabricLost_logs (s : State) : s.fabricLost.dbk.logA = s.dbk.logA ∧ s.fabricLost.dbk.logB = s.dbk.logB ∧
    s.fabricLost.newestCkpt = s.newestCkpt ∧ s.fabricLost.storedFf = s.storedFf := by
  obtain ⟨u, n, heq, ha, hb, hca, hcb⟩ : ∃ (u : State) (n : Nat), s.fabricLost =
      ((((State.onlyRegs u keptFlds).dramLost.wr .TAIL_SEQ n).wr .FLUSH_SEQ n).setf .COLD false) ∧
      u.dbk.logA = s.abruptSave.dbk.logA ∧ u.dbk.logB = s.abruptSave.dbk.logB ∧ u.dbk.ckA = s.abruptSave.dbk.ckA ∧
      u.dbk.ckB = s.abruptSave.dbk.ckB := ⟨_, _, rfl, rfl, rfl, rfl, rfl⟩
  rw [s.abruptSave_dbk] at ha hb hca hcb
  have hdbk : s.fabricLost.dbk = u.dbk := by
    rw [heq]
    rfl
  refine ⟨by rw [hdbk, ha], by rw [hdbk, hb], ?_, ?_⟩
  · rw [State.newestCkpt, State.newestCkpt, hdbk, hca, hcb]
  · rw [State.storedFf, State.storedFf, s.fabricLost_pwr]

/-! ### What each stage writes -/

theorem State.coldBase_regsOk {s : State} (hok : regsOk s.regs = true) : regsOk s.coldBase.regs = true :=
  (State.onlyRegs_in (ft := anywhere) (l := [.SVN_FUSE, .ROOT_REVOKED, .OWNER_SET, .FW_SVN]) (In.refl _ s)
    fun f _ => f.le_anywhere).regsOk hok

theorem State.coldBase_rdi (s : State) {f : Fld} (hf : f ∉ [Fld.SVN_FUSE, .ROOT_REVOKED, .OWNER_SET, .FW_SVN]) (i : Nat) :
    s.coldBase.rdi f i = f.resetVal i := s.rdi_onlyRegs_of_notMem i hf

/-- What the clock of a power-up touches. -/
def coldClockFoot : Foot := Fld.OP_TIME.foot ||| Fld.CKPT_TIME.foot ||| Fld.HEAD_SEQ.foot ||| Fld.TAIL_SEQ.foot |||
  Fld.FLUSH_SEQ.foot ||| Fld.POWER_CYCLES.foot

theorem State.coldClock_in (s : State) (op ck seq : Nat) : In coldClockFoot s (s.coldClock op ck seq) :=
  State.wr_in (State.wr_in (State.wr_in (State.wr_in (State.wr_in (State.wr_in (In.refl _ s) (by decide)) (by decide)) (by decide))
    (by decide)) (by decide)) (by decide)

theorem State.coldClock_facts {s : State} (hok : regsOk s.regs = true) (op ck seq : Nat) :
    (s.coldClock op ck seq).rd .OP_TIME = op % 2 ^ 64 ∧ (s.coldClock op ck seq).rd .HEAD_SEQ = seq % 2 ^ 64 ∧
      (s.coldClock op ck seq).rd .POWER_CYCLES = s.pwr.cycles % 2 ^ 32 := by
  have h1 := regsOk_wr hok .OP_TIME op
  have h2 := regsOk_wr h1 .CKPT_TIME ck
  have h5 := regsOk_wr (regsOk_wr (regsOk_wr h2 .HEAD_SEQ seq) .TAIL_SEQ seq) .FLUSH_SEQ seq
  refine ⟨?_, ?_, ?_⟩
  · rw [State.coldClock, State.rd_wr_ne _ (by decide), State.rd_wr_ne _ (by decide), State.rd_wr_ne _ (by decide),
      State.rd_wr_ne _ (by decide), State.rd_wr_ne _ (by decide), State.wr, State.rd, State.rdi_wri _ _ _ (regsOk_mwf hok),
      Fld.store_full rfl]
    rfl
  · rw [State.coldClock, State.rd_wr_ne _ (by decide), State.rd_wr_ne _ (by decide), State.rd_wr_ne _ (by decide), State.wr,
      State.rd, State.rdi_wri _ _ _ (regsOk_mwf h2), Fld.store_full rfl]
    rfl
  · rw [State.coldClock, State.wr, State.rd, State.rdi_wri _ _ _ (regsOk_mwf h5), Fld.store_full rfl]
    rfl

theorem State.coldFf_in (s : State) (ff : List Nat) : In (Fld.FF.foot ||| Fld.FF_VALID.foot) s (s.coldFf ff) :=
  State.setf_in (State.each_in (In.refl _ s) fun _ _ h => State.wri_in h (by decide)) (by decide)

theorem State.coldFf_facts {s : State} (hok : regsOk s.regs = true) (ff : List Nat) :
    (s.coldFf ff).fl .FF_VALID = (ff != []) ∧ ∀ i, i < 8 → (s.coldFf ff).rdi .FF i = ff.getD i 0 % 2 ^ 64 := by
  obtain ⟨hok', hread⟩ := State.each_wri_facts hok (f := .FF) rfl (fun i => ff.getD i 0) 8
  refine ⟨State.fl_setf hok' rfl (by decide) _, fun i hi => ?_⟩
  rw [State.coldFf, State.setf_rdi_ne _ (by decide), hread i, if_pos hi]
  rfl

theorem State.coldPins_in (s : State) (req pfail bypass : Bool) :
    In (Fld.PWR_REQ_IN.foot ||| Fld.PFAIL_IN.foot ||| Fld.XTAL_BYP.foot) s (s.coldPins req pfail bypass) :=
  State.setf_in (State.setf_in (State.setf_in (In.refl _ s) (by decide)) (by decide)) (by decide)

theorem State.coldPins_facts {s : State} (hok : regsOk s.regs = true) (req pfail bypass : Bool) :
    (s.coldPins req pfail bypass).fl .PWR_REQ_IN = req ∧ (s.coldPins req pfail bypass).fl .PFAIL_IN = pfail ∧
      (s.coldPins req pfail bypass).fl .XTAL_BYP = bypass := by
  have h1 := regsOk_setf hok .PWR_REQ_IN req
  have h2 := regsOk_setf h1 .PFAIL_IN pfail
  refine ⟨?_, ?_, ?_⟩
  · rw [State.coldPins, State.fl_setf_ne _ (by decide), State.fl_setf_ne _ (by decide), State.fl_setf hok rfl (by decide)]
  · rw [State.coldPins, State.fl_setf_ne _ (by decide), State.fl_setf h1 rfl (by decide)]
  · rw [State.coldPins, State.fl_setf h2 rfl (by decide)]

/-! ### The power-up as a whole -/

/-- The highest number of a list of records, from n on. -/
theorem foldl_max_seq (l : List Rec) (n : Nat) : n ≤ l.foldl (fun n (r : Rec) => max n r.seq) n ∧
    (∀ r ∈ l, r.seq ≤ l.foldl (fun n (r : Rec) => max n r.seq) n) ∧
    (l.foldl (fun n (r : Rec) => max n r.seq) n = n ∨ ∃ r ∈ l, r.seq = l.foldl (fun n (r : Rec) => max n r.seq) n) := by
  induction l generalizing n with
  | nil => exact ⟨Nat.le_refl _, by simp, .inl rfl⟩
  | cons a r ih =>
    obtain ⟨hle, hall, hmem⟩ := ih (max n a.seq)
    rw [List.foldl_cons]
    refine ⟨by omega, fun x hx => ?_, ?_⟩
    · obtain rfl | hx := List.mem_cons.1 hx
      · omega
      · exact hall x hx
    · obtain heq | ⟨x, hx, hxe⟩ := hmem
      · rcases Nat.le_total a.seq n with h | h
        · exact .inl (heq.trans (by omega))
        · exact .inr ⟨a, List.mem_cons_self .., by rw [heq]; omega⟩
      · exact .inr ⟨x, List.mem_cons_of_mem _ hx, hxe⟩

theorem State.coldHigh_eq {s : State} {h : Nat} (hle : ∀ r, r ∈ s.dbk.logA ++ s.dbk.logB → r.seq ≤ h)
    (hmem : h = 0 ∨ ∃ r, r ∈ s.dbk.logA ++ s.dbk.logB ∧ r.seq = h) : s.coldHigh = h := by
  obtain ⟨-, hall, hin⟩ := foldl_max_seq (s.dbk.logA ++ s.dbk.logB) 0
  rw [← State.coldHigh] at hall hin
  refine Nat.le_antisymm ?_ ?_
  · obtain h0 | ⟨r, hr, he⟩ := hin
    · omega
    · exact he ▸ hle r hr
  · obtain h0 | ⟨r, hr, rfl⟩ := hmem
    · omega
    · exact hall r hr

/-- What a power-up leaves, each field by the stage that writes it. -/
theorem State.coldReset_facts {s : State} (hok : regsOk s.regs = true) (req pfail bypass : Bool) :
    (s.coldReset req pfail bypass).rd .SEQ_STATE = seqMinOff ∧ (s.coldReset req pfail bypass).rd .RAIL_EN_OUT = 0 ∧
      (s.coldReset req pfail bypass).fl .PWR_REQ_IN = req ∧ (s.coldReset req pfail bypass).fl .PFAIL_IN = pfail ∧
      (s.coldReset req pfail bypass).fl .XTAL_BYP = bypass ∧
      (s.coldReset req pfail bypass).rd .POWER_CYCLES = s.pwr.cycles % 2 ^ 32 ∧
      (s.coldReset req pfail bypass).draining = false ∧ (s.coldReset req pfail bypass).dram = [] ∧
      (s.coldReset req pfail bypass).fl .FF_VALID = (s.storedFf != []) ∧
      (∀ i, i < 8 → (s.coldReset req pfail bypass).rdi .FF i = s.storedFf.getD i 0 % 2 ^ 64) ∧
      (s.coldReset req pfail bypass).rd .OP_TIME = s.coldOp % 2 ^ 64 ∧
      (s.coldSeq < 2 ^ 64 - 1 → (s.coldReset req pfail bypass).rd .TAIL_SEQ = s.coldSeq ∧
        (s.coldReset req pfail bypass).rd .HEAD_SEQ = s.coldSeq + 1) := by
  obtain ⟨hla, hlb, hck, hff⟩ := s.fabricLost_logs
  obtain ⟨hdram, -, -, -, -, hring, hdrop⟩ := s.fabricLost_parts
  have hop : s.fabricLost.coldOp = s.coldOp := by rw [State.coldOp, State.coldOp, hck]
  have hseq : s.fabricLost.coldSeq = s.coldSeq := by
    rw [State.coldSeq, State.coldSeq, State.coldHigh, State.coldHigh, hck, hla, hlb]
  rw [s.coldReset_eq, hop, hseq, hff]
  set a := s.fabricLost.coldBase
  set b := a.coldClock s.coldOp ((s.fabricLost.newestCkpt.map (·.opTime)).getD 0) s.coldSeq
  set c := b.coldFf s.storedFf
  set d := c.coldPins req pfail bypass
  have ha : regsOk a.regs = true := State.coldBase_regsOk (regsOk_fabricLost hok)
  have hab : In coldClockFoot a b := a.coldClock_in ..
  have hb := hab.regsOk ha
  have hbc : In (Fld.FF.foot ||| Fld.FF_VALID.foot) b c := b.coldFf_in _
  have hc := hbc.regsOk hb
  have hcd : In (Fld.PWR_REQ_IN.foot ||| Fld.PFAIL_IN.foot ||| Fld.XTAL_BYP.foot) c d := c.coldPins_in ..
  have hd := hcd.regsOk hc
  have hreset {f : Fld} (hf : f ∉ [Fld.SVN_FUSE, .ROOT_REVOKED, .OWNER_SET, .FW_SVN]) (hclk : f.foot.le coldClockFoot = false)
      (hffv : f.foot.le (Fld.FF.foot ||| Fld.FF_VALID.foot) = false)
      (hpin : f.foot.le (Fld.PWR_REQ_IN.foot ||| Fld.PFAIL_IN.foot ||| Fld.XTAL_BYP.foot) = false) : d.rd f = f.resetVal 0 :=
    (hcd.regs f 0 hpin).trans ((hbc.regs f 0 hffv).trans ((hab.regs f 0 hclk).trans (State.coldBase_rdi _ hf 0)))
  have hrec {g : Fld} (hg : g ∉ dbkFlds) (i : Nat) :
      (d.record clsBoot 0 426 (item 7 s.coldOp ++ item 0xA s.coldSeq)).rdi g i = d.rdi g i := State.record_rdi _ _ _ _ _ hg i
  obtain ⟨hopv, hseqv, hcyc⟩ := State.coldClock_facts ha s.coldOp ((s.fabricLost.newestCkpt.map (·.opTime)).getD 0) s.coldSeq
  obtain ⟨hvalid, hwords⟩ := State.coldFf_facts hb s.storedFf
  obtain ⟨hreq, hpf, hby⟩ := State.coldPins_facts hc req pfail bypass
  have hdbk : d.dbk = s.fabricLost.dbk := (hcd.parts .dbk (by decide)).trans ((hbc.parts .dbk (by decide)).trans (hab.parts .dbk (by decide)))
  have hcycles : a.pwr.cycles = s.pwr.cycles :=
    (show a.pwr.cycles = s.fabricLost.pwr.cycles from rfl).trans (congrArg PwrS.cycles s.fabricLost_pwr)
  have hdramd : d.dram = s.fabricLost.dram := (hcd.parts .dram (by decide)).trans ((hbc.parts .dram (by decide)).trans (hab.parts .dram (by decide)))
  refine ⟨?_, ?_, ?_, ?_, ?_, ?_, ?_, ?_, ?_, fun i hi => ?_, ?_, fun hlt => ?_⟩
  · exact (hrec (by decide) 0).trans (hreset (by decide) (by decide) (by decide) (by decide))
  · exact (hrec (by decide) 0).trans (hreset (by decide) (by decide) (by decide) (by decide))
  · exact (State.fl_eq (hrec (by decide) 0)).trans hreq
  · exact (State.fl_eq (hrec (by decide) 0)).trans hpf
  · exact (State.fl_eq (hrec (by decide) 0)).trans hby
  · rw [State.rd, hrec (by decide), hcd.regs _ 0 (by decide), hbc.regs _ 0 (by decide), ← hcycles]
    exact hcyc
  · have h0 : d.rd .DRAINING = 0 := hreset (by decide) (by decide) (by decide) (by decide)
    rw [State.draining, State.fl_eq (hrec (by decide) 0), State.fl, h0]
    rfl
  · have hkeep : (d.record clsBoot 0 426 (item 7 s.coldOp ++ item 0xA s.coldSeq)).dram = d.dram :=
      (State.record_in (ft := State.record_foot) (In.refl _ d) (Foot.le_refl _)).parts .dram (by decide)
    rw [hkeep, hdramd, hdram]
  · rw [State.fl_eq (hrec (by decide) 0), State.fl_eq (hcd.regs _ 0 (by decide))]
    exact hvalid
  · rw [hrec (by decide), hcd.regs _ i (by decide)]
    exact hwords i hi
  · rw [State.rd, hrec (by decide), hcd.regs _ 0 (by decide), hbc.regs _ 0 (by decide)]
    exact hopv
  · have hhead : d.rd .HEAD_SEQ = s.coldSeq := by
      rw [State.rd, hcd.regs _ 0 (by decide), hbc.regs _ 0 (by decide)]
      exact hseqv.trans (Nat.mod_eq_of_lt (by omega))
    have hlen : (item 7 s.coldOp ++ item 0xA s.coldSeq).length ≤ 4 := by
      have h1 := item_length_le 7 s.coldOp
      have h2 := item_length_le 0xA s.coldSeq
      rw [List.length_append]
      omega
    obtain ⟨htail, hnext⟩ := State.record_empty hd (by rw [hdbk, hring]) (by rw [hdbk, hdrop])
      (hreset (f := .HEAD_OFS) (by decide) (by decide) (by decide) (by decide)) (by rw [hhead]; exact hlt) (cls := clsBoot) (by decide) 0 426 hlen
    exact ⟨htail.trans hhead, hnext.trans (by rw [hhead])⟩

/-! ### An abrupt loss (R58) -/

/-- The state whose fabric power is lost, with SEQ_STATE q and the rails off. -/
def State.railsLost (s : State) (q : Nat) : State :=
  ((((s.wr .SEQ_STATE q).wr .RAIL_EN_OUT 0).wr .RAIL_RETRYING 0).wr .UP_STEP_NOW 0).wr .DOWN_STEP_NOW 0

theorem State.railsLost_in (s : State) (q : Nat) :
    In (Fld.SEQ_STATE.foot ||| Fld.RAIL_EN_OUT.foot ||| Fld.RAIL_RETRYING.foot ||| Fld.UP_STEP_NOW.foot ||| Fld.DOWN_STEP_NOW.foot) s
      (s.railsLost q) :=
  State.wr_in (State.wr_in (State.wr_in (State.wr_in (State.wr_in (In.refl _ s) (by decide)) (by decide)) (by decide)) (by decide))
    (by decide)

theorem State.railsLost_facts {s : State} (hok : regsOk s.regs = true) {q : Nat} (hq : q < 8) :
    (s.railsLost q).rd .SEQ_STATE = q ∧ (s.railsLost q).rd .RAIL_EN_OUT = 0 := by
  refine ⟨?_, ?_⟩
  · rw [State.railsLost, State.rd_wr_ne _ (by decide), State.rd_wr_ne _ (by decide), State.rd_wr_ne _ (by decide),
      State.rd_wr_ne _ (by decide), State.rd_wr hok rfl hq]
  · rw [State.railsLost, State.rd_wr_ne _ (by decide), State.rd_wr_ne _ (by decide), State.rd_wr_ne _ (by decide),
      State.rd_wr (regsOk_wr hok ..) rfl (by decide)]

/-- The supervisor's own state after an abrupt loss. -/
def State.supplyGone (s : State) : State :=
  { s with pwr := { s.pwr with good := 0, kept := 0, ign := 0, again := [], drop := [], rdyUp := false, syncing := false
                               synced := false, byUp := false, domRamp := [], domWait := [], hot := false } }

/-- SEQ_STATE after an abrupt loss. -/
def State.lossSeq (s : State) : Nat :=
  if s.rd .SEQ_STATE = seqOff ∨ s.rd .SEQ_STATE = seqLock then s.rd .SEQ_STATE else seqMinOff

/-- What an abrupt loss touches. -/
def railsLostFoot : Foot := Fld.SEQ_STATE.foot ||| Fld.RAIL_EN_OUT.foot ||| Fld.RAIL_RETRYING.foot ||| Fld.UP_STEP_NOW.foot |||
  Fld.DOWN_STEP_NOW.foot

/-- The state after an abrupt loss. -/
def State.afterLoss (s : State) : State := (s.fabricLost.railsLost s.fabricLost.lossSeq).supplyGone

theorem State.supplyGone_regs (s : State) : s.supplyGone.regs = s.regs := rfl

theorem State.supplyGone_in (s : State) : In Part.pwr.foot s s.supplyGone :=
  (In.refl _ s).upd [.pwr] rfl rfl rfl (fun p hp => by cases p <;> first | rfl | simp at hp) (by decide)

theorem State.afterLoss_regs (s : State) : s.afterLoss.regs = (s.fabricLost.railsLost s.fabricLost.lossSeq).regs :=
  State.supplyGone_regs _

theorem State.afterLoss_in (s : State) : In (railsLostFoot ||| Part.pwr.foot) s.fabricLost s.afterLoss :=
  ((s.fabricLost.railsLost_in s.fabricLost.lossSeq).mono (by decide)).trans ((State.supplyGone_in _).mono (by decide))

theorem State.lossSeq_fabricLost (s : State) : s.fabricLost.lossSeq = s.lossSeq := by
  have hseq : s.fabricLost.rd .SEQ_STATE = s.rd .SEQ_STATE :=
    (State.fabricLost_in (ft := State.fabricLost_foot) (In.refl _ s) (Foot.le_refl _)).regs _ 0 (by decide)
  rw [State.lossSeq, State.lossSeq, hseq]

theorem State.lossSeq_lt {s : State} (hok : regsOk s.regs = true) : s.lossSeq < 8 := by
  have hlt : s.rd .SEQ_STATE < 8 := State.rdi_full_lt hok rfl 0
  rw [State.lossSeq]
  split
  · exact hlt
  · decide

theorem State.afterLoss_rails {s : State} (hok : regsOk s.regs = true) :
    s.afterLoss.rd .SEQ_STATE = s.lossSeq ∧ s.afterLoss.rd .RAIL_EN_OUT = 0 ∧ s.afterLoss.draining = false := by
  have hlt : s.fabricLost.lossSeq < 8 := s.lossSeq_fabricLost ▸ State.lossSeq_lt hok
  obtain ⟨hseq, hrails⟩ := State.railsLost_facts (regsOk_fabricLost hok) hlt
  refine ⟨?_, (State.rd_congr s.afterLoss_regs _).trans hrails, ?_⟩
  · rw [State.rd_congr s.afterLoss_regs, hseq, s.lossSeq_fabricLost]
  · exact (State.fl_eq (s.afterLoss_in.regs _ 0 (by decide))).trans s.fabricLost_draining

theorem State.afterLoss_parts (s : State) : s.afterLoss.dram = [] ∧ s.afterLoss.md = metaNone ∧ s.afterLoss.waits = [] ∧
    s.afterLoss.fences = [] ∧ s.afterLoss.cmd = cmdNone ∧
    (s.nfc.shadow = [] → s.afterLoss.nfc.homes = s.nfc.homes ∧ s.afterLoss.nfc.vault = s.nfc.vault) := by
  obtain ⟨hd, hm, hw, hf, hc, -, -⟩ := s.fabricLost_parts
  have hin := s.afterLoss_in
  have hnfc : s.afterLoss.nfc = s.fabricLost.nfc := hin.parts .nfc (by decide)
  refine ⟨(hin.parts .dram (by decide)).trans hd, (hin.parts .md (by decide)).trans hm, (hin.parts .waits (by decide)).trans hw,
    (hin.parts .fences (by decide)).trans hf, (hin.parts .cmd (by decide)).trans hc, fun h => ?_⟩
  rw [hnfc]
  exact s.fabricLost_nfc.2 h

/-- The always-on counters survive an abrupt loss. -/
theorem State.afterLoss_kept (s : State) {g : Fld} (hg : g.foot.le (railsLostFoot ||| Part.pwr.foot) = false)
    (hl : g.foot.le State.fabricLost_foot = false) : s.afterLoss.rd g = s.rd g :=
  (s.afterLoss_in.regs g 0 hg).trans
    ((State.fabricLost_in (ft := State.fabricLost_foot) (In.refl _ s) (Foot.le_refl _)).regs g 0 hl)

theorem exec_abruptLoss (s : State) (na nb : Nat) : exec (.abruptLoss na nb) s = .next (s.partFlush na nb).afterLoss := by
  simp only [exec, execAbruptLoss, State.afterLoss, State.railsLost, State.supplyGone, State.lossSeq]

theorem State.partFlush_same (s : State) (na nb : Nat) : (s.partFlush na nb).regs = s.regs ∧ (s.partFlush na nb).nfc = s.nfc :=
  ⟨rfl, rfl⟩

/-- Settles O55: a power-up is read stage by stage, and an abrupt loss is the loss of the fabric's power with the rails off. -/
theorem powerUpAndAbruptLoss : Obligations.PowerUpAndAbruptLoss := by
  unfold Obligations.PowerUpAndAbruptLoss
  refine ⟨?up, ?loss⟩
  case up =>
    intro s req pfail bypass hinv
    obtain ⟨hseq, hrails, hreq, hpf, hby, hcyc, hdrain, hdram, hvalid, hwords, hop, hnum⟩ := State.coldReset_facts hinv.1 req pfail bypass
    refine ⟨_, rfl, hseq, hrails, hreq, hpf, hby, s.coldReset_tickNumber req pfail bypass, hcyc, hdrain, hdram, hvalid, hwords,
      fun hnone => ?_, fun c hc => ?_, fun hnone ha hb => ?_, fun c h hc hcs hh hle hmem => ?_⟩
    · simp [hop, State.coldOp, hnone]
    · simp [hop, State.coldOp, hc]
    · have hone : s.coldSeq = 1 := by simp [State.coldSeq, hnone, ha, hb]
      rw [hone] at hnum
      exact hnum (by decide)
    · have hval : s.coldSeq = max (h + 1) c.seq + 8192 := by
        simp [State.coldSeq, hc, State.coldHigh_eq hle hmem]
      rw [hval] at hnum
      exact hnum (by omega)
  case loss =>
    intro s na nb hinv
    obtain ⟨hregs, hnfc⟩ := s.partFlush_same na nb
    obtain ⟨hseq, hrails, hdrain⟩ := State.afterLoss_rails (s := s.partFlush na nb) hinv.1
    obtain ⟨hdram, hmd, hwaits, hfences, hcmd, hkeep⟩ := (s.partFlush na nb).afterLoss_parts
    rw [hnfc] at hkeep
    refine ⟨_, exec_abruptLoss s na nb, ?_, hrails, rfl, hdrain, hdram, by rw [hmd, metaNone], by rw [hmd, metaNone], hwaits, hfences,
      by rw [hcmd, cmdNone], hkeep, ?_, ?_, ?_, ?_⟩
    · rw [hseq, State.lossSeq, State.rd_congr hregs]
    all_goals rw [State.afterLoss_kept _ (by decide) (by decide), State.rd_congr hregs]

end Sys2Proof.Machine
end

section
/-! The end of a drain's last flush (03_float_governor.md Table 03.4 step 6, 17_daybook.md R423, R425): O10. -/

namespace Sys2Proof.Machine

/-- A drain in step 6 whose flush is the one that brings FLUSH_CNT to its top, with enough bytes in the ring for R423 to
ask for a flush at the next record. -/
def State.lastCount : State :=
  let s := (((State.reset.setf .DRAINING true).setf .FLUSH_BUSY true).wr .SEQ_STATE seqOn).wr .FLUSH_CNT (2 ^ 32 - 2)
  { s with drain := { s.drain with step := 6 }, dbk := { s.dbk with ring := [⟨1000, 200000, clsFault, 0, 0, 5, 0, 0, []⟩] } }

theorem State.lastCount_inv : State.lastCount.Inv := ⟨by decide, by decide, by decide⟩

/-- The COUNTER record of FLUSH_CNT's top starts another flush, so the row leaves the drain in ON. -/
theorem exec_flushDone_lastCount : ∃ t, exec (.daybookFlushDone true true) State.lastCount = .next t ∧ t.rd .SEQ_STATE = seqOn := by
  refine ⟨State.lastCount.flushEnd true true, ?_, by decide⟩
  have hbusy : (State.lastCount.flushEnd true true).fl .FLUSH_BUSY = true := by decide
  have hfirst : State.lastCount.fl .FLUSH_BUSY = true := by decide
  simp [exec, execDaybookFlushDone, hfirst, hbusy]

/-- Refutes O10: the flush that ends while FLUSH_CNT is one below its top raises the counter's own record (R425), which
with FLUSH_HI bytes unflushed starts a further flush (R423); the drain then stays in step 6 and the rails stay up. The
statement's hypotheses bound neither FLUSH_CNT nor the ring. -/
theorem not_drainSteps : ¬ Obligations.DrainSteps := by
  unfold Obligations.DrainSteps
  rintro ⟨-, -, -, -, hflush⟩
  obtain ⟨t, hexec, hseq, -⟩ := hflush State.lastCount State.lastCount_inv (by decide) (by decide) (by decide) (by decide) (by decide)
    (by decide) (by decide)
  obtain ⟨u, hu, hon⟩ := exec_flushDone_lastCount
  obtain rfl : t = u := Host.Outcome.next.inj (hexec.symm.trans hu)
  rw [hon] at hseq
  revert hseq
  decide

end Sys2Proof.Machine
end

section
/-! Way groups and slices of the front cache (09_front_cache.md R239, R240, Table 09.4): O28. -/

namespace Sys2Proof.Machine

/-! ### Entries of a canonical map -/

theorem mget_ne_none_of_mem {β : Type} {m : SMap β} {e : Key × β} (h : e ∈ m) : mget m e.1 ≠ none := by
  induction m with
  | nil => cases h
  | cons a r ih =>
    obtain ⟨k, v⟩ := a
    rw [mget]
    split
    · exact Option.some_ne_none v
    · next hk =>
      obtain rfl | h := List.mem_cons.1 h
      · exact absurd rfl hk
      · exact ih h

/-- No entry is left at a key that was removed. -/
theorem key_ne_of_mem_mdel {β : Type} {m : SMap β} {k : Key} {e : Key × β} (hm : mwf m = true) (h : e ∈ mdel m k) : e.1 ≠ k :=
  fun hk => mget_ne_none_of_mem h (hk ▸ mget_mdel k hm)

/-! ### PG_REQ -/

theorem bit_add_one_of_even {x : Nat} (hx : ¬ x % 2 = 1) {h : Nat} (hh : h ≠ 0) : bit (x + 1) h = bit x h := by
  obtain ⟨k, rfl⟩ := Nat.exists_eq_succ_of_ne_zero hh
  rw [bit, bit, Nat.testBit_succ, Nat.testBit_succ, show (x + 1) / 2 = x / 2 by omega]

theorem State.pgReq_lt {s : State} (hok : regsOk s.regs = true) (sl : Nat) : s.rdi .PG_REQ sl < 2 ^ 4 := by
  have hlegal : Fld.store .PG_REQ sl (s.rdi .PG_REQ sl) = s.rdi .PG_REQ sl := beq_iff_eq.1 (State.rdi_legal hok .PG_REQ sl)
  rw [← hlegal]
  have hx : ∀ x, x ≤ 15 → (if x % 2 = 1 then x else x + 1) < 2 ^ 4 := fun x hx => by
    split <;> omega
  exact hx _ (Nat.min_le_left ..)

/-- A bit of PG_REQ but the first, which always stores 1 (R239). -/
theorem State.bit_setBitOf_pgReq {s : State} (hok : regsOk s.regs = true) (sl : Nat) {g h : Nat} (hg : g < 4) (hh : h ≠ 0) (b : Bool) :
    bit ((s.setBitOf .PG_REQ sl g b).rdi .PG_REQ sl) h = if h = g then b else bit (s.rdi .PG_REQ sl) h := by
  have hlt := setBit_lt b (State.pgReq_lt hok sl) hg
  rw [State.setBitOf, State.rdi_wri _ _ _ (regsOk_mwf hok), ← bit_setBit_eq]
  have hx : min (Fld.spec .PG_REQ).hi (max (Fld.spec .PG_REQ).lo (setBit (s.rdi .PG_REQ sl) g b % 2 ^ (Fld.spec .PG_REQ).width)) =
      setBit (s.rdi .PG_REQ sl) g b := by
    simp only [Fld.spec]
    omega
  simp only [Fld.store]
  rw [hx]
  split
  · rfl
  · next hodd => exact bit_add_one_of_even hodd hh

/-! ### A PG_REQ write that concerns one group -/

theorem State.pgBit_same {s : State} {sl v g : Nat} (h : bit v g = bit (s.rdi .PG_REQ sl) g) : s.pgBit sl v g = s := by
  simp [State.pgBit, h]

/-- A write with one group's bit changed asks for that group only. -/
theorem State.pgReq_one {s : State} {sl v g : Nat} (hg : g ∈ [1, 2, 3])
    (hsame : ∀ h ∈ [1, 2, 3], h ≠ g → bit v h = bit (s.rdi .PG_REQ sl) h)
    (hkeep : ∀ h ∈ [1, 2, 3], h ≠ g → bit ((s.pgBit sl v g).rdi .PG_REQ sl) h = bit (s.rdi .PG_REQ sl) h) :
    s.pgReq sl v = s.pgBit sl v g := by
  have hpre : ∀ h ∈ [1, 2, 3], h ≠ g → s.pgBit sl v h = s := fun h hh hne => State.pgBit_same (hsame h hh hne)
  have hpost : ∀ h ∈ [1, 2, 3], h ≠ g → (s.pgBit sl v g).pgBit sl v h = s.pgBit sl v g := fun h hh hne =>
    State.pgBit_same ((hsame h hh hne).trans (hkeep h hh hne).symm)
  have hthree : s.pgReq sl v = ((s.pgBit sl v 1).pgBit sl v 2).pgBit sl v 3 := rfl
  rw [hthree]
  simp only [List.mem_cons, List.not_mem_nil, or_false] at hg
  obtain rfl | rfl | rfl := hg
  · rw [hpost 2 (by decide) (by decide), hpost 3 (by decide) (by decide)]
  · rw [hpre 1 (by decide) (by decide), hpost 3 (by decide) (by decide)]
  · rw [hpre 1 (by decide) (by decide), hpre 2 (by decide) (by decide)]

theorem group_lt {g : Nat} (hg : g ∈ [1, 2, 3]) : g < 4 ∧ g ≠ 0 := by
  simp only [List.mem_cons, List.not_mem_nil, or_false] at hg
  omega

theorem exec_pgReqWrite {s : State} (hrun : s.draining = false) {sl : Nat} (hsl : sl < 16) (v : Nat) :
    exec (.pgReqWrite sl v) s = .next (s.pgReq sl v) := by
  rw [exec, execPgReqWrite, State.barWrite_of_running hrun, if_neg (Nat.not_le.2 hsl)]

/-- Gating a group that no enabled lock names starts its clean (R239). -/
theorem State.pgReq_gates {s : State} (hok : regsOk s.regs = true) {sl v g : Nat} (hg : g ∈ [1, 2, 3])
    (hsame : ∀ h ∈ [1, 2, 3], h ≠ g → bit v h = bit (s.rdi .PG_REQ sl) h) (hmarch : s.underMarch sl g = false)
    (hon : bit (s.rdi .PG_REQ sl) g = true) (hv : bit v g = false) (hlock : groupHit s.lockedWays g = false) :
    bit ((s.pgReq sl v).rdi .PG_REQ sl) g = false ∧ bit ((s.pgReq sl v).rdi .PG_BUSY sl) g = true ∧
      (s.pgReq sl v).fl .PG_ERR = s.fl .PG_ERR := by
  obtain ⟨hlt, hne⟩ := group_lt hg
  have hbit : s.pgBit sl v g = (s.setBitOf .PG_REQ sl g false).setBitOf .PG_BUSY sl g true := by
    simp [State.pgBit, hon, hv, hmarch, hlock]
  have hreq (h : Nat) (hh : h ≠ 0) : bit ((s.pgBit sl v g).rdi .PG_REQ sl) h = if h = g then false else bit (s.rdi .PG_REQ sl) h := by
    rw [hbit, State.setBitOf_rdi_ne _ (by decide), State.bit_setBitOf_pgReq hok sl hlt hh]
  rw [State.pgReq_one hg hsame fun h hh hhg => (hreq h (group_lt hh).2).trans (if_neg hhg)]
  refine ⟨by rw [hreq g hne, if_pos rfl], ?_, ?_⟩
  · rw [hbit, State.bit_setBitOf (regsOk_setBitOf hok ..) rfl sl hlt, if_pos rfl]
  · rw [hbit, State.fl_eq (State.setBitOf_rdi_ne _ (by decide) ..), State.fl_eq (State.setBitOf_rdi_ne _ (by decide) ..)]

/-- Enabling a gated group needs its arrays cleared (R239). -/
theorem State.pgReq_enables {s : State} (hok : regsOk s.regs = true) {sl v g : Nat} (hg : g ∈ [1, 2, 3])
    (hsame : ∀ h ∈ [1, 2, 3], h ≠ g → bit v h = bit (s.rdi .PG_REQ sl) h) (hmarch : s.underMarch sl g = false)
    (hoff : bit (s.rdi .PG_REQ sl) g = false) (hv : bit v g = true) (hstate : bit (s.rdi .PG_STATE sl) g = false)
    (hinv : bit (s.rdi .INV_DONE sl) g = true) :
    bit ((s.pgReq sl v).rdi .PG_REQ sl) g = true ∧ bit ((s.pgReq sl v).rdi .PG_STATE sl) g = true ∧
      bit ((s.pgReq sl v).rdi .INV_DONE sl) g = false := by
  obtain ⟨hlt, hne⟩ := group_lt hg
  have hbit : s.pgBit sl v g = ((s.setBitOf .INV_DONE sl g false).setBitOf .PG_REQ sl g true).setBitOf .PG_STATE sl g true := by
    simp [State.pgBit, hoff, hv, hmarch, hstate, hinv]
  have hok1 := regsOk_setBitOf hok .INV_DONE sl g false
  have hreq (h : Nat) (hh : h ≠ 0) : bit ((s.pgBit sl v g).rdi .PG_REQ sl) h = if h = g then true else bit (s.rdi .PG_REQ sl) h := by
    rw [hbit, State.setBitOf_rdi_ne _ (by decide), State.bit_setBitOf_pgReq hok1 sl hlt hh, State.setBitOf_rdi_ne _ (by decide)]
  rw [State.pgReq_one hg hsame fun h hh hhg => (hreq h (group_lt hh).2).trans (if_neg hhg)]
  refine ⟨by rw [hreq g hne, if_pos rfl], ?_, ?_⟩
  · rw [hbit, State.bit_setBitOf (regsOk_setBitOf hok1 ..) rfl sl hlt, if_pos rfl]
  · rw [hbit, State.setBitOf_rdi_ne _ (by decide), State.setBitOf_rdi_ne _ (by decide), State.bit_setBitOf hok rfl sl hlt, if_pos rfl]

/-- Enabling before GRP_INV is refused (R239). -/
theorem State.pgReq_refused {s : State} (hok : regsOk s.regs = true) {sl v g : Nat} (hg : g ∈ [1, 2, 3])
    (hsame : ∀ h ∈ [1, 2, 3], h ≠ g → bit v h = bit (s.rdi .PG_REQ sl) h) (hmarch : s.underMarch sl g = false)
    (hoff : bit (s.rdi .PG_REQ sl) g = false) (hv : bit v g = true) (hinv : bit (s.rdi .INV_DONE sl) g = false) :
    bit ((s.pgReq sl v).rdi .PG_REQ sl) g = false ∧ (s.pgReq sl v).fl .PG_ERR = true := by
  have hbit : s.pgBit sl v g = s.setf .PG_ERR true := by
    simp [State.pgBit, hoff, hv, hmarch, hinv]
  have hreq : (s.pgBit sl v g).rdi .PG_REQ sl = s.rdi .PG_REQ sl := by rw [hbit, State.setf_rdi_ne _ (by decide)]
  rw [State.pgReq_one hg hsame fun h _ _ => by rw [hreq], hreq, hbit]
  exact ⟨hoff, State.fl_setf hok rfl (by decide) true⟩

/-! ### The clean's end -/

/-- A clean writes back and invalidates the one line it finds. -/
theorem State.cleanWays_one {s : State} {sl : Nat} {ways : Nat → Bool} {k : Key} {c : CLine} (hl : s.fch.lines = [(k, c)])
    (hsl : k.1 / 4096 = sl) (hway : ways k.2 = true) (hd : c.dirty = true) :
    s.cleanWays sl ways none = (s.writeDram c.la c.stored .fch sc3).dropWay k := by
  simp [State.cleanWays, hl, hsl, hway, State.each, State.writeBack, hd, CLine.stored]

theorem State.dline_dropWay (s : State) (k : Key) (la : Nat) : (s.dropWay k).dline la = s.dline la := rfl

theorem dramOk_mwf {s : State} (h : s.Inv) : mwf s.dram = true := by
  have := h.2.1
  rw [dramOk, Bool.and_eq_true] at this
  exact this.1

theorem State.dline_writeDram {s : State} (h : mwf s.dram = true) (la : Nat) (d : DLine) (tag : DTag) (cls : Nat) :
    (s.writeDram la d tag cls).dline la = d := State.dline_setDline la d h

/-- What a clean touches. -/
theorem State.cleanWays_within (s : State) (sl : Nat) (ways : Nat → Bool) (bad : Option (Nat × Nat)) :
    In State.cleanWays_foot s (s.cleanWays sl ways bad) := State.cleanWays_in (In.refl _ s) (Foot.le_refl _)

theorem exec_wayGroupCleanDone {s : State} {sl g : Nat} (hrun : s.draining = false) (hbusy : bit (s.rdi .PG_BUSY sl) g = true)
    (hreq : bit (s.rdi .PG_REQ sl) g = false) : exec (.wayGroupCleanDone sl g) s =
      .next (((s.cleanWays sl (fun w => w / 6 == g) none).setBitOf .PG_BUSY sl g false).setBitOf .PG_STATE sl g false) := by
  simp [exec, execWayGroupCleanDone, hbusy, hreq, hrun]

theorem wayGroupCleanDone_gates {s : State} {sl g : Nat} {k : Key} {c : CLine} (hinv : s.Inv) (hrun : s.draining = false)
    (hbusy : bit (s.rdi .PG_BUSY sl) g = true) (hreq : bit (s.rdi .PG_REQ sl) g = false) (hg : g < 4)
    (hl : s.fch.lines = [(k, c)]) (hsl : k.1 / 4096 = sl) (hway : k.2 / 6 = g) (hd : c.dirty = true) :
    ∃ t, exec (.wayGroupCleanDone sl g) s = .next t ∧ bit (t.rdi .PG_STATE sl) g = false ∧
      bit (t.rdi .PG_BUSY sl) g = false ∧ t.fch.lines = [] ∧ t.dline c.la = c.stored := by
  have hclean := State.cleanWays_one (ways := fun w => w / 6 == g) hl hsl (by simp [hway]) hd
  have hok : regsOk (s.cleanWays sl (fun w => w / 6 == g) none).regs = true := (s.cleanWays_within _ _ _).regsOk hinv.1
  refine ⟨_, exec_wayGroupCleanDone hrun hbusy hreq, ?_, ?_, ?_, ?_⟩
  · rw [State.bit_setBitOf (regsOk_setBitOf hok ..) rfl sl hg, if_pos rfl]
  · rw [State.setBitOf_rdi_ne _ (by decide), State.bit_setBitOf hok rfl sl hg, if_pos rfl]
  · rw [hclean]
    change mdel s.fch.lines k = []
    simp [hl, mdel]
  · rw [hclean]
    exact State.dline_writeDram (dramOk_mwf hinv) c.la c.stored .fch sc3

/-! ### GRP_INV -/

/-- One group of a GRP_INV write. -/
def State.grpInvBit (s : State) (sl v g : Nat) : State :=
  if bit v g && s.underMarch sl g then s.setf .PG_ERR true
  else if bit v g && !bit (s.rdi .PG_STATE sl) g then s.setBitOf .INV_DONE sl g true else s

theorem State.grpInv_eq (s : State) (sl v : Nat) : s.grpInv sl v = ((s.grpInvBit sl v 1).grpInvBit sl v 2).grpInvBit sl v 3 := rfl

/-- A step of a GRP_INV write only sets PG_ERR or its own bit of INV_DONE. -/
theorem State.grpInvBit_facts {s : State} (hok : regsOk s.regs = true) (hbst : s.bst.test ≠ 5) (sl v : Nat) {g : Nat} (hg : g < 4) :
    regsOk (s.grpInvBit sl v g).regs = true ∧ (s.grpInvBit sl v g).bst = s.bst ∧
      (s.grpInvBit sl v g).rdi .PG_STATE sl = s.rdi .PG_STATE sl ∧
      ∀ h, bit ((s.grpInvBit sl v g).rdi .INV_DONE sl) h =
        (bit (s.rdi .INV_DONE sl) h || (h == g && bit v g && !bit (s.rdi .PG_STATE sl) g)) := by
  have hmarch : s.underMarch sl g = false := by simp [State.underMarch, hbst]
  rw [State.grpInvBit, if_neg (by simp [hmarch])]
  split
  · next hset =>
    refine ⟨regsOk_setBitOf hok .., rfl, State.setBitOf_rdi_ne _ (by decide) .., fun h => ?_⟩
    rw [State.bit_setBitOf hok rfl sl hg, Bool.and_assoc, hset, Bool.and_true]
    by_cases hh : h = g <;> simp [hh]
  · next hset =>
    refine ⟨hok, rfl, rfl, fun h => ?_⟩
    rw [Bool.and_assoc, Bool.eq_false_iff.2 hset, Bool.and_false, Bool.or_false]

theorem State.grpInv_facts {s : State} (hok : regsOk s.regs = true) (hbst : s.bst.test ≠ 5) {sl v g : Nat} (hg : g ∈ [1, 2, 3])
    (hv : bit v g = true) (hgated : bit (s.rdi .PG_STATE sl) g = false) :
    bit ((s.grpInv sl v).rdi .INV_DONE sl) g = true ∧ (s.grpInv sl v).rdi .PG_STATE sl = s.rdi .PG_STATE sl := by
  obtain ⟨hok1, hb1, hp1, hi1⟩ := State.grpInvBit_facts hok hbst sl v (g := 1) (by decide)
  obtain ⟨hok2, hb2, hp2, hi2⟩ := State.grpInvBit_facts hok1 (by rw [hb1]; exact hbst) sl v (g := 2) (by decide)
  obtain ⟨-, -, hp3, hi3⟩ := State.grpInvBit_facts hok2 (by rw [hb2, hb1]; exact hbst) sl v (g := 3) (by decide)
  rw [State.grpInv_eq, hi3, hi2, hi1, hp3, hp2, hp1]
  refine ⟨?_, rfl⟩
  simp only [List.mem_cons, List.not_mem_nil, or_false] at hg
  obtain rfl | rfl | rfl := hg <;> simp [hv, hgated]

/-! ### Slices (R240, Table 09.4) -/

theorem filter_range_eq {n i : Nat} (hi : i < n) (p : Nat → Bool) :
    (List.range n).filter (fun j => decide (j = i) && p j) = if p i then [i] else [] := by
  have hone : (List.range n).filter (fun j => decide (j = i)) = [i] := by
    have hb : (fun j : Nat => decide (j = i)) = (· == i) := funext fun j => by simp [beq_eq_decide]
    rw [hb, List.filter_beq, List.count_eq_one_of_mem List.nodup_range (List.mem_range.2 hi)]
    rfl
  have hswap : (fun j => decide (j = i) && p j) = fun j => p j && decide (j = i) := funext fun j => Bool.and_comm ..
  rw [hswap, ← List.filter_filter, hone]
  by_cases h : p i = true <;> simp [h]

theorem bit_two_pow (i j : Nat) : bit (2 ^ i) j = decide (j = i) := by
  rw [bit, Nat.testBit_two_pow]
  simp [eq_comm]

/-- A request for one enabled slice is served while 8 slices are left, and else refused. -/
theorem State.sliceDis_one {s : State} {i : Nat} (hi : i < 16) (hen : bit (s.rd .SLICE_EN) i = true) (hbusy : bit (s.rd .SLICE_BUSY) i = false) :
    s.sliceDis (2 ^ i) = if s.slicesLeft - 1 < 8 then s.setf .PG_ERR true else s.setBitOf .SLICE_BUSY 0 i true := by
  have hreq : ((List.range 16).filter fun j => bit (2 ^ i) j && bit (s.rd .SLICE_EN) j && !bit (s.rd .SLICE_BUSY) j) = [i] := by
    have hp : (fun j => bit (2 ^ i) j && bit (s.rd .SLICE_EN) j && !bit (s.rd .SLICE_BUSY) j) =
        fun j => decide (j = i) && (bit (s.rd .SLICE_EN) j && !bit (s.rd .SLICE_BUSY) j) :=
      funext fun j => by rw [bit_two_pow, Bool.and_assoc]
    rw [hp, filter_range_eq hi, if_pos (by simp [hen, hbusy])]
  rw [State.sliceDis]
  simp only [hreq]
  rfl

theorem exec_sliceDisReq {s : State} (hrun : s.draining = false) (v : Nat) : exec (.sliceDisReq v) s = .next (s.sliceDis v) := by
  rw [exec, execSliceDisReq, State.barWrite_of_running hrun]

/-- The lines after some ways are emptied are among those before, and none is left in those ways. -/
theorem State.each_dropWay_lines {f : State → Key × CLine → State} (hf : ∀ t e, (f t e).fch = t.fch) (l : List (Key × CLine)) {s : State}
    (hm : mwf s.fch.lines = true) :
    mwf (s.each l fun t e => (f t e).dropWay e.1).fch.lines = true ∧
      ∀ e ∈ (s.each l fun t e => (f t e).dropWay e.1).fch.lines, e ∈ s.fch.lines ∧ ∀ x ∈ l, e.1 ≠ x.1 := by
  induction l generalizing s with
  | nil => exact ⟨hm, fun e he => ⟨he, fun x hx => absurd hx (List.not_mem_nil)⟩⟩
  | cons a r ih =>
    have hstep : ((f s a).dropWay a.1).fch.lines = mdel s.fch.lines a.1 := by
      change mdel (f s a).fch.lines a.1 = _
      rw [hf]
    obtain ⟨hm', hall⟩ := ih (s := (f s a).dropWay a.1) (hstep ▸ mwf_mdel a.1 hm)
    refine ⟨hm', fun e he => ?_⟩
    obtain ⟨hin, hne⟩ := hall e he
    rw [hstep] at hin
    refine ⟨mem_mdel hin, fun x hx => ?_⟩
    obtain rfl | hx := List.mem_cons.1 hx
    · exact key_ne_of_mem_mdel hm hin
    · exact hne x hx

theorem State.writeBack_fch (s : State) (c : CLine) (cls : Nat) : (s.writeBack c cls).fch = s.fch := by
  rw [State.writeBack]
  split <;> rfl

/-- A clean of every way of a slice leaves no line of the slice. -/
theorem State.cleanWays_slice {s : State} (sl : Nat) (hm : mwf s.fch.lines = true) :
    ∀ e ∈ (s.cleanWays sl (fun _ => true) none).fch.lines, e.1.1 / 4096 ≠ sl := by
  intro e he hsl
  obtain ⟨-, hall⟩ := State.each_dropWay_lines (s := s)
    (f := fun t e => t.writeBack { e.2 with poison := e.2.poison || false } sc3) (fun t e => t.writeBack_fch _ _)
    (s.fch.lines.filter fun e => e.1.1 / 4096 == sl && true) hm
  obtain ⟨hin, hne⟩ := hall e he
  exact hne e (List.mem_filter.2 ⟨hin, by simp [hsl]⟩) rfl

/-- What the flush's end changes before the waiting requests are rehashed. -/
def State.sliceOff (s : State) (sl : Nat) : State :=
  let s := s.cleanWays sl (fun _ => true) none
  let s := (s.setBitOf .SLICE_EN 0 sl false).setBitOf .SLICE_BUSY 0 sl false
  let s := s.wr .DRAIN_FIXED_US (drainFixed (popCount (s.rd .SLICE_EN) 16))
  s.record clsWarn 0 240 (item 7 sl)

/-- What the flush's end touches before the rehash. -/
def sliceOffFoot : Foot := State.cleanWays_foot ||| Fld.SLICE_EN.foot ||| Fld.SLICE_BUSY.foot ||| Fld.DRAIN_FIXED_US.foot ||| State.record_foot

theorem State.sliceOff_in (s : State) (sl : Nat) : In sliceOffFoot s (s.sliceOff sl) :=
  State.record_in (State.wr_in (State.setBitOf_in (State.setBitOf_in (State.cleanWays_in (In.refl _ s) (by decide)) (by decide))
    (by decide)) (by decide)) (by decide)

theorem exec_sliceFlushDone {s : State} {sl : Nat} (hrun : s.draining = false) (hbusy : bit (s.rd .SLICE_BUSY) sl = true)
    (hmr : ∀ e ∈ s.fch.mrs, e.1.1 ≠ sl) (hwait : ∀ w ∈ s.waits, w.why ≠ .slice) :
    exec (.sliceFlushDone sl) s = .next (s.sliceOff sl) := by
  have hany : s.fch.mrs.any (fun e => e.1.1 == sl) = false := by
    simpa using fun a b m hm => hmr ((a, b), m) hm
  have hw : (s.sliceOff sl).waits = s.waits := (s.sliceOff_in sl).parts .waits (by decide)
  have hrerun : (s.sliceOff sl).rerun (fun w => w.why == .slice) = s.sliceOff sl :=
    rerun_nil fun w h => by
      rw [hw] at h
      simpa using hwait w h
  simp only [exec, execSliceFlushDone, hbusy, hany, hrun, Bool.not_true, Bool.or_false, Bool.false_eq_true, if_false]
  rw [← hrerun]
  rfl

theorem popCount_le (v n : Nat) : popCount v n ≤ n := by
  rw [popCount]
  exact (List.length_filter_le ..).trans (by simp)

theorem State.sliceOff_facts {s : State} (hok : regsOk s.regs = true) {sl : Nat} (hsl : sl < 16) :
    bit ((s.sliceOff sl).rd .SLICE_EN) sl = false ∧ bit ((s.sliceOff sl).rd .SLICE_BUSY) sl = false ∧
      (s.sliceOff sl).rd .DRAIN_FIXED_US = drainFixed (popCount ((s.sliceOff sl).rd .SLICE_EN) 16) ∧
      (s.sliceOff sl).fch.lines = (s.cleanWays sl (fun _ => true) none).fch.lines := by
  let u := s.cleanWays sl (fun _ => true) none
  have hu : regsOk u.regs = true := (s.cleanWays_within sl (fun _ => true) none).regsOk hok
  let v := u.setBitOf .SLICE_EN 0 sl false
  let w := v.setBitOf .SLICE_BUSY 0 sl false
  have hv : regsOk v.regs = true := regsOk_setBitOf hu ..
  have hw : regsOk w.regs = true := regsOk_setBitOf hv ..
  have hrec {g : Fld} (hg : g ∉ dbkFlds) : (s.sliceOff sl).rd g = (w.wr .DRAIN_FIXED_US (drainFixed (popCount (w.rd .SLICE_EN) 16))).rd g :=
    State.record_rdi _ _ _ _ _ hg 0
  have hen : (s.sliceOff sl).rd .SLICE_EN = w.rd .SLICE_EN := (hrec (by decide)).trans (State.rd_wr_ne _ (by decide) _)
  have hwen : w.rd .SLICE_EN = v.rd .SLICE_EN := State.setBitOf_rdi_ne _ (by decide) ..
  have hfix : drainFixed (popCount (w.rd .SLICE_EN) 16) < 2 ^ 32 := by
    have := popCount_le (w.rd .SLICE_EN) 16
    rw [drainFixed, cdiv]
    omega
  refine ⟨?_, ?_, ?_, ?_⟩
  · rw [hen, hwen, State.rd, State.bit_setBitOf hu rfl 0 hsl, if_pos rfl]
  · rw [hrec (by decide), State.rd_wr_ne _ (by decide), State.rd, State.bit_setBitOf hv rfl 0 hsl, if_pos rfl]
  · rw [hrec (by decide), State.rd_wr hw rfl hfix, hen]
  · have hfch : (s.sliceOff sl).fch = (w.wr .DRAIN_FIXED_US (drainFixed (popCount (w.rd .SLICE_EN) 16))).fch :=
      (State.record_in (ft := State.record_foot) (In.refl _ _) (Foot.le_refl _)).parts .fch (by decide)
    exact congrArg FchS.lines hfch

/-- Settles O28: each row of the way groups and slices touches the bits of its own group or slice. -/
theorem wayGroupsAndSlices : Obligations.WayGroupsAndSlices := by
  unfold Obligations.WayGroupsAndSlices
  refine ⟨?gate, ?enable, ?clean, ?inv, ?dis, ?flush⟩
  case gate =>
    intro s sl v g hinv hrun hsl hg hsame hmarch hon hv hlock
    exact ⟨_, exec_pgReqWrite hrun hsl v, State.pgReq_gates hinv.1 hg hsame hmarch hon hv hlock⟩
  case enable =>
    intro s sl v g hinv hrun hsl hg hsame hmarch hoff hv hstate
    exact ⟨fun hdone => ⟨_, exec_pgReqWrite hrun hsl v, State.pgReq_enables hinv.1 hg hsame hmarch hoff hv hstate hdone⟩,
      fun hdone => ⟨_, exec_pgReqWrite hrun hsl v, State.pgReq_refused hinv.1 hg hsame hmarch hoff hv hdone⟩⟩
  case clean =>
    intro s sl g k c hinv hrun hbusy hreq hg hl hsl hway hd
    exact wayGroupCleanDone_gates hinv hrun hbusy hreq hg hl hsl hway hd
  case inv =>
    intro s sl v g hinv hrun hsl hg hv hbst hgated
    exact ⟨s.grpInv sl v, by rw [exec, execGrpInv, State.barWrite_of_running hrun, if_neg (Nat.not_le.2 hsl)],
      State.grpInv_facts hinv.1 hbst hg hv hgated⟩
  case dis =>
    intro s i hinv hrun hi hen hbusy
    refine ⟨fun hleft => ⟨_, exec_sliceDisReq hrun _, ?_⟩, fun hleft => ⟨_, exec_sliceDisReq hrun _, ?_⟩⟩
    · rw [State.sliceDis_one hi hen hbusy, if_neg (by omega)]
      exact ⟨by rw [State.rd, State.bit_setBitOf hinv.1 rfl 0 hi, if_pos rfl], State.fl_eq (State.setBitOf_rdi_ne s (by decide) ..)⟩
    · rw [State.sliceDis_one hi hen hbusy, if_pos (by omega)]
      exact ⟨State.setf_rdi_ne s (by decide) true 0, State.fl_setf hinv.1 rfl (by decide) true⟩
  case flush =>
    intro s sl hinv hrun hsl hbusy hmr hwait
    obtain ⟨hen, hbusy', hfix, hlines⟩ := State.sliceOff_facts hinv.1 hsl
    exact ⟨_, exec_sliceFlushDone hrun hbusy hmr hwait, hen, hbusy', hfix, fun hm => hlines ▸ State.cleanWays_slice sl hm⟩

end Sys2Proof.Machine
end

section
/-! Lock entries and restarted peaks (09_front_cache.md R231, R232, R243, 04_fabric_ports.md R108), refresh debts and
neighbour refreshes (10_dram_controller.md R257, R260, R261): O29, O30. -/

namespace Sys2Proof.Machine

/-! ### Fields within a number -/

theorem testBit_bits (v lo w i : Nat) : (bits v lo w).testBit i = (decide (i < w) && v.testBit (lo + i)) := by
  rw [bits, Nat.testBit_mod_two_pow, Nat.testBit_shiftRight]

/-- A number with a field replaced, by what lies below, in and above the field. -/
theorem setBits_eq (v lo w x : Nat) : setBits v lo w x = 2 ^ lo * (2 ^ w * (v / 2 ^ lo / 2 ^ w) + x % 2 ^ w) + v % 2 ^ lo := by
  have hv := Nat.div_add_mod v (2 ^ lo)
  have hq := Nat.div_add_mod (v / 2 ^ lo) (2 ^ w)
  simp only [setBits, bits, Nat.shiftRight_eq_div_pow]
  set p := 2 ^ lo
  set q := v / p
  set m := 2 ^ w
  have hsplit : p * q = p * (m * (q / m)) + q % m * p := by
    calc p * q = p * (m * (q / m) + q % m) := by rw [hq]
      _ = _ := by ring
  have : p * (m * (q / m) + x % m) = p * (m * (q / m)) + x % m * p := by ring
  omega

theorem testBit_setBits (v lo w x j : Nat) : (setBits v lo w x).testBit j =
    if lo ≤ j ∧ j < lo + w then x.testBit (j - lo) else v.testBit j := by
  have hr := Nat.mod_lt v (Nat.two_pow_pos lo)
  have hx := Nat.mod_lt x (Nat.two_pow_pos w)
  rw [setBits_eq, Nat.testBit_two_pow_mul_add _ hr]
  by_cases hlo : j < lo
  · rw [if_pos hlo, if_neg (by omega), Nat.testBit_mod_two_pow, decide_eq_true hlo, Bool.true_and]
  · rw [if_neg hlo, Nat.testBit_two_pow_mul_add _ hx]
    by_cases hhi : j - lo < w
    · rw [if_pos hhi, if_pos (by omega), Nat.testBit_mod_two_pow, decide_eq_true hhi, Bool.true_and]
    · rw [if_neg hhi, if_neg (by omega), Nat.testBit_div_two_pow, Nat.testBit_div_two_pow]
      congr 1
      omega

theorem bits_setBits (v lo w x : Nat) : bits (setBits v lo w x) lo w = x % 2 ^ w := by
  refine Nat.eq_of_testBit_eq fun i => ?_
  rw [testBit_bits, testBit_setBits, Nat.testBit_mod_two_pow]
  by_cases hi : i < w
  · rw [if_pos (by omega), Nat.add_sub_cancel_left]
  · simp [hi]

/-- A field apart from the one replaced. -/
theorem bits_setBits_of_disjoint {v lo w x lo' w' : Nat} (h : lo' + w' ≤ lo ∨ lo + w ≤ lo') :
    bits (setBits v lo w x) lo' w' = bits v lo' w' := by
  refine Nat.eq_of_testBit_eq fun i => ?_
  rw [testBit_bits, testBit_bits, testBit_setBits]
  by_cases hi : i < w'
  · rw [if_neg (by omega)]
  · simp [hi]

theorem setBits_lt {v lo w x n : Nat} (hv : v < 2 ^ n) (hw : lo + w ≤ n) : setBits v lo w x < 2 ^ n := by
  refine Nat.lt_pow_two_of_testBit _ fun j hj => ?_
  rw [testBit_setBits, if_neg (by omega)]
  exact Nat.testBit_lt_two_pow (hv.trans_le (Nat.pow_le_pow_right (by decide) hj))

theorem bits_eq_one_of_bit {v lo : Nat} (h : bit v lo = true) : bits v lo 1 = 1 := by
  refine Nat.eq_of_testBit_eq fun i => ?_
  rw [testBit_bits, show 1 = 2 ^ 0 from rfl, Nat.testBit_two_pow]
  rcases Nat.eq_zero_or_pos i with rfl | hi
  · simpa [bit] using h
  · simp [Nat.ne_of_lt hi, Nat.pos_iff_ne_zero.1 hi]

theorem bits_lt (v lo w : Nat) : bits v lo w < 2 ^ w := Nat.mod_lt _ (Nat.two_pow_pos w)

/-! ### Lock entries -/

/-- The values of a whole write of FCH_LOCK_OBJ. -/
def lockObjVals (v : Nat) : WVals := [(.OBJ_ID, bits v 0 32), (.WAYS, bits v 32 8), (.LOCK_EN, bits v 40 1)]

/-- The values of a whole write of FCH_LOCK_RANGE. -/
def lockRangeVals (v : Nat) : WVals := [(.TP_FIRST, bits v 0 32), (.TP_LAST, bits v 32 32)]

theorem exec_lockEntryWrite {s : State} (hrun : s.draining = false) {k : Nat} (hk : k < 16) (range : Bool) (v : Nat) :
    exec (.lockEntryWrite k range v) s = .next (s.lockWrite k (if range then lockRangeVals v else lockObjVals v)) := by
  rw [exec, execLockEntryWrite, State.barWrite_of_running hrun, if_neg (Nat.not_le.2 hk)]
  rfl

/-- A write of FCH_LOCK_OBJ before the entry is enabled: its object and ways, then the enable. -/
theorem State.lockWrite_enters {s : State} {k v : Nat} (hok : regsOk s.regs = true) (hfree : s.fli .LOCK_EN k = false)
    (hways : bits v 32 8 ≠ 0) (hen : bit v 40 = true) (hpow : ∀ sl, sl < 16 → ∀ g ∈ [1, 2, 3], bit (s.rdi .PG_STATE sl) g = true) :
    s.lockWrite k (lockObjVals v) = ((s.wri .OBJ_ID k (bits v 0 32)).wri .WAYS k (bits v 32 8)).setfi .LOCK_EN k true := by
  have hone : bits v 40 1 = 1 := bits_eq_one_of_bit hen
  set u := (s.wri .OBJ_ID k (bits v 0 32)).wri .WAYS k (bits v 32 8) with hu
  have hpost : ∀ sl, sl < 16 → ∀ g ∈ [1, 2, 3], bit (u.rdi .PG_STATE sl) g = true := fun sl hsl g hg => by
    rw [hu, State.rdi_wri_ne _ (.inl (by decide)), State.rdi_wri_ne _ (.inl (by decide))]
    exact hpow sl hsl g hg
  have hread : u.rdi .WAYS k ≠ 0 := by
    rw [hu, State.rdi_wri_fit (regsOk_wri hok ..) rfl (show _ < 2 ^ 8 from bits_lt v 32 8)]
    exact hways
  have hgated : ((List.range 16).any fun sl => [1, 2, 3].any fun g =>
      groupHit (u.rdi .WAYS k * 2 ^ 16) g && !bit (u.rdi .PG_STATE sl) g) = false := by
    rw [List.any_eq_false]
    intro sl hsl
    rw [Bool.not_eq_true, List.any_eq_false]
    intro g hg
    simp [hpost sl (List.mem_range.1 hsl) g hg]
  have hcond : ¬ (u.rdi .WAYS k * 2 ^ 16 = 0 ∨ ((List.range 16).any fun sl => [1, 2, 3].any fun g =>
      groupHit (u.rdi .WAYS k * 2 ^ 16) g && !bit (u.rdi .PG_STATE sl) g) = true) := by
    rw [hgated]
    simp [hread]
  have hvals : ((lockObjVals v).filter fun x => x.1 != .LOCK_EN) = [(.OBJ_ID, bits v 0 32), (.WAYS, bits v 32 8)] := rfl
  have hput : s.putVals [(.OBJ_ID, bits v 0 32), (.WAYS, bits v 32 8)] k = u := rfl
  have hget : WVals.get (lockObjVals v) .LOCK_EN = some 1 := hone ▸ rfl
  simp only [State.lockWrite, hfree, hvals, hput, hget, Bool.false_eq_true, if_false, if_true]
  exact if_neg (by simpa using hcond)

/-- While LOCK_EN is 1 a change of another field only sets LOCK_ERR. -/
theorem State.lockWrite_locked {s : State} {k v : Nat} (hlock : s.fli .LOCK_EN k = true) (hne : bits v 0 32 ≠ s.rdi .TP_FIRST k) :
    s.lockWrite k (lockRangeVals v) = s.setf .LOCK_ERR true := by
  have hstore : Fld.store .TP_FIRST k (bits v 0 32) = bits v 0 32 := by
    rw [Fld.store_full rfl]
    exact Nat.mod_eq_of_lt (bits_lt v 0 32)
  have hvals : ((lockRangeVals v).filter fun x => x.1 != .LOCK_EN) = lockRangeVals v := rfl
  have hchg : ((lockRangeVals v).any fun x => x.1.store k x.2 != s.rdi x.1 k) = true := by
    simp [lockRangeVals, hstore, hne]
  have hget : WVals.get (lockRangeVals v) .LOCK_EN = none := rfl
  simp only [State.lockWrite, hlock, hvals, hchg, hget, if_true]
  exact if_neg (by simp)

/-- Settles O29: a lock write stores its values or sets LOCK_ERR, and the two peaks take the present value. -/
theorem lockEntriesAndPeaks : Obligations.LockEntriesAndPeaks := by
  unfold Obligations.LockEntriesAndPeaks
  refine ⟨?enters, ?locked, ?slice, ?bench⟩
  case enters =>
    intro s k v hinv hrun hk hfree hways hen hpow
    have hexec := exec_lockEntryWrite hrun hk false v
    rw [if_neg Bool.false_ne_true, State.lockWrite_enters hinv.1 hfree hways hen hpow] at hexec
    have h1 := regsOk_wri hinv.1 .OBJ_ID k (bits v 0 32)
    refine ⟨_, hexec, ?_, ?_, State.fli_setfi (regsOk_wri h1 ..) rfl (by decide) k true⟩
    · rw [State.setfi_rdi_ne _ (by decide), State.rdi_wri_ne _ (.inl (by decide)),
        State.rdi_wri_fit hinv.1 rfl (show _ < 2 ^ 32 from bits_lt v 0 32)]
    · rw [State.setfi_rdi_ne _ (by decide), State.rdi_wri_fit h1 rfl (show _ < 2 ^ 8 from bits_lt v 32 8)]
  case locked =>
    intro s k v hinv hrun hk hlock hne
    have hexec := exec_lockEntryWrite hrun hk true v
    rw [if_pos rfl, State.lockWrite_locked hlock hne] at hexec
    exact ⟨_, hexec, State.fl_setf hinv.1 rfl (by decide) true, State.setf_rdi_ne s (by decide) true k,
      State.setf_rdi_ne s (by decide) true k⟩
  case slice =>
    intro s sl hinv hrun hsl hused
    refine ⟨s.wri .MR_PEAK sl (s.mrUsed sl), ?_, State.rdi_wri_fit hinv.1 (f := .MR_PEAK) rfl (show s.mrUsed sl < 2 ^ 8 by omega) sl⟩
    rw [exec, execFchSlStateWrite, State.barWrite_of_running hrun, if_neg (Nat.not_le.2 hsl)]
  case bench =>
    intro s link hinv hrun hlink
    refine ⟨s.wri .BENCH_PEAK link (s.rdi .BENCH_USED link), ?_, ?_⟩
    · rw [exec, execPrtBenchWrite, State.barWrite_of_running hrun, if_neg (Nat.not_le.2 hlink)]
    · exact State.rdi_wri_fit hinv.1 (f := .BENCH_PEAK) rfl (show s.rdi .BENCH_USED link < 2 ^ 18 from State.rdi_full_lt hinv.1 rfl link) link

/-! ### Refresh debts -/

theorem State.refDebt_setDebt {s : State} (hok : regsOk s.regs = true) {c r : Nat} (hr : r < 4) (v r' : Nat) :
    (s.setDebt c r v).refDebt c r' = if r' = r then v % 16 else s.refDebt c r' := by
  have hlt : setBits (s.rdi .REF_DEBT c) (4 * r) 4 v < 2 ^ 16 := setBits_lt (State.rdi_full_lt hok rfl c) (by omega)
  rw [State.refDebt, State.setDebt, State.rdi_wri_fit hok rfl hlt]
  split
  · next h => rw [h, bits_setBits]; rfl
  · exact bits_setBits_of_disjoint (by omega)

theorem exec_refreshDue {s : State} {ch rank : Nat} (hlive : s.chLive ch = true) (hrank : rank < s.rd .RANKS) (busy : Bool) :
    exec (.refreshDue ch rank busy) s = .next (s.setDebt ch rank (if busy then min 8 (s.refDebt ch rank + 1) else 0)) := by
  simp [exec, execRefreshDue, hlive, Nat.not_le.2 hrank]

theorem exec_forcedRefresh {s : State} {ch rank : Nat} (hlive : s.chLive ch = true) (hdebt : s.refDebt ch rank = 8) :
    exec (.forcedRefresh ch rank) s = .next (s.forceRef ch rank) := by
  simp [exec, execForcedRefresh, hlive, hdebt]

/-- The state with one more neighbour refresh pending. -/
def State.nrMore (s : State) (ch rank : Nat) : State :=
  { s with drc := { s.drc with nr := mput s.drc.nr (ch, rank) (s.nrPending ch rank + 1) } }

theorem exec_neighbourRefresh {s : State} {ch rank : Nat} (hlive : s.chLive ch = true) (hrank : rank < s.rd .RANKS)
    (hpend : s.nrPending ch rank < 8) :
    exec (.neighbourRefresh ch rank) s = .next ((s.nrMore ch rank).count .NR_CNT ch .DRC_CH_FLAGS_CNT_OVF ch 2) := by
  simp [exec, execNeighbourRefresh, hlive, Nat.not_le.2 hrank, Nat.not_le.2 hpend, State.nrMore]

/-- Settles O30: a debt is one nibble of its channel's REF_DEBT, and a counter moves nothing beside it. -/
theorem refreshesAndNeighbours : Obligations.RefreshesAndNeighbours := by
  unfold Obligations.RefreshesAndNeighbours
  refine ⟨?due, ?forced, ?neighbour⟩
  case due =>
    intro s ch rank busy hinv hlive hrank hlt
    refine ⟨_, exec_refreshDue hlive hrank busy, ?_, fun r _ hne => ?_⟩
    · rw [State.refDebt_setDebt hinv.1 hlt, if_pos rfl]
      split
      · exact Nat.mod_eq_of_lt (by omega)
      · rfl
    · rw [State.refDebt_setDebt hinv.1 hlt, if_neg hne]
  case forced =>
    intro s ch rank hinv hlive hlt hdebt
    have hok : regsOk (s.setDebt ch rank 7).regs = true := regsOk_wri hinv.1 ..
    have hkeep (r : Nat) : (s.forceRef ch rank).refDebt ch r = (s.setDebt ch rank 7).refDebt ch r := by
      rw [State.refDebt, State.refDebt, State.forceRef, State.count_rdi_of_ne _ _ _ _ _ _ (by decide) (by decide) (by decide)]
    refine ⟨_, exec_forcedRefresh hlive hdebt, ?_, ?_, fun r _ hne => ?_⟩
    · rw [hkeep, State.refDebt_setDebt hinv.1 hlt, if_pos rfl]
    · rw [State.forceRef, State.count_rdi hok rfl (by decide) (by decide), State.setDebt, State.rdi_wri_ne _ (.inl (by decide))]
      rfl
    · rw [hkeep, State.refDebt_setDebt hinv.1 hlt, if_neg hne]
  case neighbour =>
    intro s ch rank hinv hlive hrank hpend hm
    refine ⟨_, exec_neighbourRefresh hlive hrank hpend, ?_, ?_⟩
    · have hdrc : ((s.nrMore ch rank).count .NR_CNT ch .DRC_CH_FLAGS_CNT_OVF ch 2).drc = (s.nrMore ch rank).drc :=
        (State.count_in (ft := Fld.NR_CNT.foot ||| Fld.DRC_CH_FLAGS_CNT_OVF.foot ||| State.count_foot) (In.refl _ _) (by decide)
          (by decide) (by decide)).parts .drc (by decide)
      rw [State.nrPending, hdrc, State.nrMore, mget_mput]
      rfl
    · exact State.count_rdi (s := s.nrMore ch rank) hinv.1 rfl (by decide) (by decide) ch ch 2

end Sys2Proof.Machine
end

section
/-! DIMM temperatures, eye tracking and sliced retrains (10_dram_controller.md R258, R264 to R266): O31. -/

namespace Sys2Proof.Machine

/-! ### Lane offsets -/

theorem sgn8_store {v : Int} (hlo : -128 ≤ v) (hhi : v ≤ 127) : sgn8 ((v % 256).toNat) = v := by
  rw [sgn8]
  split <;> omega

theorem sgn8_range {v : Nat} (h : v < 256) : -128 ≤ sgn8 v ∧ sgn8 v ≤ 127 := by
  rw [sgn8]
  split <;> omega

theorem State.putOfs_in_range (s : State) {f : Fld} {i : Nat} {v : Int} (hlo : -128 ≤ v) (hhi : v ≤ 127) :
    s.putOfs f i v = s.wri f i ((v % 256).toNat) := by
  rw [State.putOfs, if_neg (by omega)]

/-- An offset within 8 bits is stored as it is. -/
theorem State.sgn8_putOfs {s : State} (hok : regsOk s.regs = true) {f : Fld} (hf : f.full = true) (hw : f.spec.width = 8) (i : Nat) {v : Int}
    (hlo : -128 ≤ v) (hhi : v ≤ 127) : sgn8 ((s.putOfs f i v).rdi f i) = v := by
  rw [State.putOfs_in_range s hlo hhi, State.rdi_wri_fit hok hf (by rw [hw]; omega)]
  exact sgn8_store hlo hhi

/-- A lane over its limit is marked and asks for a retrain; otherwise the state stays (R264 to R266). -/
def State.overLimit (s : State) (ch lane : Nat) (beyond : Prop) [Decidable beyond] : State :=
  if beyond then (s.setfi .LIMIT_HIT ch true).askRetrain ch lane else s

theorem State.askRetrain_busy {s : State} (hok : regsOk s.regs = true) (ch lane : Nat) :
    (s.askRetrain ch lane).fli .RETRAIN_BUSY (laneIx ch lane) = true := by
  rw [State.askRetrain]
  split
  · assumption
  · exact (State.fli_eq (State.rdi_congr (s := s.setfi .RETRAIN_BUSY (laneIx ch lane) true) rfl _ _)).trans
      (State.fli_setfi hok rfl (by decide) _ true)

theorem State.askRetrain_rdi (s : State) (ch lane : Nat) {g : Fld} (hg : Fld.RETRAIN_BUSY ≠ g) (i : Nat) :
    (s.askRetrain ch lane).rdi g i = s.rdi g i := by
  rw [State.askRetrain]
  split
  · rfl
  · exact (State.rdi_congr (s := s.setfi .RETRAIN_BUSY (laneIx ch lane) true) rfl g i).trans (State.setfi_rdi_ne s hg ..)

theorem State.overLimit_rdi (s : State) (ch lane : Nat) (beyond : Prop) [Decidable beyond] {g : Fld} (hb : Fld.RETRAIN_BUSY ≠ g)
    (hl : Fld.LIMIT_HIT ≠ g) (i : Nat) : (s.overLimit ch lane beyond).rdi g i = s.rdi g i := by
  rw [State.overLimit]
  split
  · rw [State.askRetrain_rdi _ _ _ hb, State.setfi_rdi_ne _ hl]
  · rfl

theorem State.overLimit_marks {s : State} (hok : regsOk s.regs = true) (ch lane : Nat) {beyond : Prop} [Decidable beyond] (h : beyond) :
    (s.overLimit ch lane beyond).fli .LIMIT_HIT ch = true ∧ (s.overLimit ch lane beyond).fli .RETRAIN_BUSY (laneIx ch lane) = true := by
  rw [State.overLimit, if_pos h]
  refine ⟨?_, State.askRetrain_busy (regsOk_setfi hok ..) ch lane⟩
  rw [State.fli_eq (State.askRetrain_rdi _ _ _ (by decide) _), State.fli_setfi hok rfl (by decide)]

/-! ### READ_EYE_WINDOW -/

/-- The step that a window's counts ask for (R264). -/
def eyeStep (e u : Nat) : Int := if 2 * u + 16 < e then 1 else if 2 * e + 16 < u then -1 else 0

/-- The lane after its step. -/
def State.eyeMoved (s : State) (ch lane : Nat) (d : Int) : State :=
  if d = 0 then s
  else (s.putOfs .RD_OFS (laneIx ch lane) (sgn8 (s.rdi .RD_OFS (laneIx ch lane)) + d)).count .RD_ADJ_CNT ch .DRC_CH_FLAGS_CNT_OVF ch 4

theorem exec_readEyeWindow {s : State} {ch lane : Nat} (hlive : s.chLive ch = true) (hlane : lane < 20) (e u : Nat) :
    exec (.readEyeWindow ch lane e u) s = .next ((s.eyeMoved ch lane (eyeStep e u)).overLimit ch lane
      ((s.eyeMoved ch lane (eyeStep e u)).rd .RD_LIMIT < (sgn8 ((s.eyeMoved ch lane (eyeStep e u)).rdi .RD_OFS (laneIx ch lane))).natAbs)) := by
  simp only [exec, execReadEyeWindow, hlive, Nat.not_le.2 hlane, decide_false, Bool.not_true, Bool.or_false, Bool.false_eq_true, if_false]
  rfl

theorem State.eyeMoved_facts {s : State} (hok : regsOk s.regs = true) {ch lane : Nat} {o d : Int}
    (ho : o = sgn8 (s.rdi .RD_OFS (laneIx ch lane))) (hlo : -128 ≤ o + d) (hhi : o + d ≤ 127) :
    regsOk (s.eyeMoved ch lane d).regs = true ∧ sgn8 ((s.eyeMoved ch lane d).rdi .RD_OFS (laneIx ch lane)) = o + d ∧
      (s.eyeMoved ch lane d).rd .RD_LIMIT = s.rd .RD_LIMIT ∧
      (s.eyeMoved ch lane d).rdi .RD_ADJ_CNT ch =
        (if d = 0 then s.rdi .RD_ADJ_CNT ch else min (2 ^ 32 - 1) (s.rdi .RD_ADJ_CNT ch + 1)) := by
  rw [State.eyeMoved, ← ho]
  split
  · next h => exact ⟨hok, by rw [← ho, h, Int.add_zero], rfl, rfl⟩
  · have hput := State.putOfs_in_range s (f := .RD_OFS) (i := laneIx ch lane) hlo hhi
    have hokp : regsOk (s.putOfs .RD_OFS (laneIx ch lane) (o + d)).regs = true := by
      rw [hput]
      exact regsOk_wri hok ..
    refine ⟨regsOk_count hokp .., ?_, ?_, ?_⟩
    · rw [State.count_rdi_of_ne _ _ _ _ _ _ (by decide) (by decide) (by decide)]
      exact State.sgn8_putOfs hok rfl rfl _ hlo hhi
    · rw [State.rd, State.count_rdi_of_ne _ _ _ _ _ _ (by decide) (by decide) (by decide), hput, State.rdi_wri_ne _ (.inl (by decide))]
      rfl
    · rw [State.count_rdi hokp rfl (by decide) (by decide), hput, State.rdi_wri_ne _ (.inl (by decide))]
      rfl

theorem readEyeWindow_tracks {s : State} (hok : regsOk s.regs = true) {ch lane e u : Nat} {o : Int} (hlive : s.chLive ch = true)
    (hlane : lane < 20) (ho : o = sgn8 (s.rdi .RD_OFS (laneIx ch lane))) (hlo : -128 < o) (hhi : o < 127) :
    ∃ t, exec (.readEyeWindow ch lane e u) s = .next t ∧
      (2 * u + 16 < e → sgn8 (t.rdi .RD_OFS (laneIx ch lane)) = o + 1) ∧
      (2 * e + 16 < u → sgn8 (t.rdi .RD_OFS (laneIx ch lane)) = o - 1) ∧
      (e ≤ 2 * u + 16 → u ≤ 2 * e + 16 → sgn8 (t.rdi .RD_OFS (laneIx ch lane)) = o ∧
        t.rdi .RD_ADJ_CNT ch = s.rdi .RD_ADJ_CNT ch) ∧
      (2 * u + 16 < e → t.rdi .RD_ADJ_CNT ch = min (2 ^ 32 - 1) (s.rdi .RD_ADJ_CNT ch + 1)) ∧
      (s.rd .RD_LIMIT < (sgn8 (t.rdi .RD_OFS (laneIx ch lane))).natAbs →
        t.fli .LIMIT_HIT ch = true ∧ t.fli .RETRAIN_BUSY (laneIx ch lane) = true) := by
  have hrange : -1 ≤ eyeStep e u ∧ eyeStep e u ≤ 1 := by
    rw [eyeStep]
    repeat' split
    all_goals omega
  obtain ⟨hok', hofs, hlim, hcnt⟩ := State.eyeMoved_facts hok (d := eyeStep e u) ho (by omega) (by omega)
  have hkeep : ((s.eyeMoved ch lane (eyeStep e u)).overLimit ch lane ((s.eyeMoved ch lane (eyeStep e u)).rd .RD_LIMIT <
      (sgn8 ((s.eyeMoved ch lane (eyeStep e u)).rdi .RD_OFS (laneIx ch lane))).natAbs)).rdi .RD_OFS (laneIx ch lane) =
      (s.eyeMoved ch lane (eyeStep e u)).rdi .RD_OFS (laneIx ch lane) := State.overLimit_rdi _ _ _ _ (by decide) (by decide) _
  refine ⟨_, exec_readEyeWindow hlive hlane e u, fun h => ?_, fun h => ?_, fun h1 h2 => ⟨?_, ?_⟩, fun h => ?_, fun h => ?_⟩
  · rw [hkeep, hofs, eyeStep, if_pos h]
  · rw [hkeep, hofs, eyeStep, if_neg (by omega), if_pos h]
    rfl
  · rw [hkeep, hofs, eyeStep, if_neg (by omega), if_neg (by omega), Int.add_zero]
  · rw [State.overLimit_rdi _ _ _ _ (by decide) (by decide), hcnt, eyeStep, if_neg (Nat.not_lt.2 h1), if_neg (Nat.not_lt.2 h2), if_pos rfl]
  · rw [State.overLimit_rdi _ _ _ _ (by decide) (by decide), hcnt, eyeStep, if_pos h, if_neg (by decide)]
  · rw [hkeep, ← hlim] at h
    exact State.overLimit_marks hok' ch lane h

/-! ### WRITE_TRACKING_SLICE -/

/-- The offset after one slice: at most two steps toward the drift (R265). -/
def driftStep (o d : Int) : Int := if o < d then min d (o + 2) else max d (o - 2)

/-- The lane after its slice. -/
def State.driftMoved (s : State) (ch lane : Nat) (d : Int) : State :=
  let i := laneIx ch lane
  let o := sgn8 (s.rdi .WR_OFS i)
  if driftStep o d = o then s else (s.putOfs .WR_OFS i (driftStep o d)).count .WR_ADJ_CNT ch .DRC_CH_FLAGS_CNT_OVF ch 5

theorem exec_writeTrackingSlice {s : State} {ch rank lane : Nat} (hrun : s.draining = false) (hlive : s.chLive ch = true)
    (hrank : rank < s.rd .RANKS) (hdebt : s.refDebt ch rank < 7) (hpend : s.nrPending ch rank = 0) (hlane : lane < 20) (d : Int) :
    exec (.writeTrackingSlice ch rank [(lane, d)]) s = .next (((s.sliceTime ch (s.rd .WR_SLICE_NS)).driftMoved ch lane d).overLimit ch lane
      (((s.sliceTime ch (s.rd .WR_SLICE_NS)).driftMoved ch lane d).rd .WR_LIMIT < d.natAbs)) := by
  simp only [exec, execWriteTrackingSlice, hlive, Nat.not_le.2 hrank, Nat.not_le.2 hdebt, hpend, hrun, decide_false, bne_self_eq_false,
    Bool.not_true, Bool.or_false, Bool.false_eq_true, if_false, State.each, List.foldl_cons, List.foldl_nil, Nat.not_le.2 hlane]
  rfl

theorem State.driftMoved_facts {s : State} (hok : regsOk s.regs = true) {ch lane : Nat} {o d : Int}
    (ho : o = sgn8 (s.rdi .WR_OFS (laneIx ch lane))) (hlo : -127 ≤ d) (hhi : d ≤ 127) :
    regsOk (s.driftMoved ch lane d).regs = true ∧ sgn8 ((s.driftMoved ch lane d).rdi .WR_OFS (laneIx ch lane)) = driftStep o d ∧
      (s.driftMoved ch lane d).rd .WR_LIMIT = s.rd .WR_LIMIT := by
  have hrange : -128 ≤ o ∧ o ≤ 127 := ho ▸ sgn8_range (State.rdi_full_lt hok (f := .WR_OFS) rfl _)
  have hstep : -128 ≤ driftStep o d ∧ driftStep o d ≤ 127 := by
    rw [driftStep]
    split <;> omega
  rw [State.driftMoved, ← ho]
  split
  · next h => exact ⟨hok, by rw [← ho, h], rfl⟩
  · have hput := State.putOfs_in_range s (f := .WR_OFS) (i := laneIx ch lane) hstep.1 hstep.2
    have hokp : regsOk (s.putOfs .WR_OFS (laneIx ch lane) (driftStep o d)).regs = true := by
      rw [hput]
      exact regsOk_wri hok ..
    refine ⟨regsOk_count hokp .., ?_, ?_⟩
    · rw [State.count_rdi_of_ne _ _ _ _ _ _ (by decide) (by decide) (by decide)]
      exact State.sgn8_putOfs hok rfl rfl _ hstep.1 hstep.2
    · rw [State.rd, State.count_rdi_of_ne _ _ _ _ _ _ (by decide) (by decide) (by decide), hput, State.rdi_wri_ne _ (.inl (by decide))]
      rfl

/-! ### DIMM_THERMAL_POLL -/

/-- The hot marks of a two-rank channel's one DIMM (R258). -/
def State.hotMarks (s : State) (ch a : Nat) : State :=
  s.each (List.range 2) fun s i =>
    if 85 < a then s.setBitOf .HOT ch (2 * 0 + i) true else if a < 83 then s.setBitOf .HOT ch (2 * 0 + i) false else s

/-- The alert of a DIMM above 95 °C, once per excursion (R258). -/
def State.hotAlert (s : State) (ch a : Nat) : State :=
  if 95 < a then
    if s.drc.hotDimm.contains (2 * ch + 0) then s
    else
      let s := { s with drc := { s.drc with hotDimm := s.drc.hotDimm ++ [2 * ch + 0] } }
      ((s.setfi .HOT_ALERT ch true).record clsWarn 0 258 (item 4 ch ++ item 7 0)).alert blkDRC
  else { s with drc := { s.drc with hotDimm := without s.drc.hotDimm (2 * ch + 0) } }

theorem exec_dimmThermalPoll {s : State} {ch : Nat} (hact : bit (s.rd .CH_ACTIVE) ch = true) (hranks : s.rd .RANKS = 2) (a : Nat) :
    exec (.dimmThermalPoll ch [a]) s = .next (((s.wri .DIMM_TEMP_C ch a).hotMarks ch a).hotAlert ch a) := by
  have hper : max 1 (s.rd .RANKS / [a].length) = 2 := by
    simp [hranks]
  have hmax : [a].foldl max 0 = a := Nat.max_eq_right (Nat.zero_le a)
  simp only [exec, execDimmThermalPoll, hact, hper, hmax, Bool.not_true, Bool.false_or, List.cons_ne_self, decide_false,
    Bool.false_eq_true, if_false]
  rfl

theorem State.hotMarks_facts {s : State} (hok : regsOk s.regs = true) (ch : Nat) {a : Nat} (ha : ¬(83 ≤ a ∧ a ≤ 85)) :
    regsOk (s.hotMarks ch a).regs = true ∧ bit ((s.hotMarks ch a).rdi .HOT ch) 0 = decide (85 < a) ∧
      bit ((s.hotMarks ch a).rdi .HOT ch) 1 = decide (85 < a) ∧ (s.hotMarks ch a).drc = s.drc ∧
      ∀ g i, Fld.HOT ≠ g → (s.hotMarks ch a).rdi g i = s.rdi g i := by
  have htwo (b : Bool) : regsOk ((s.setBitOf .HOT ch 0 b).setBitOf .HOT ch 1 b).regs = true ∧
      bit (((s.setBitOf .HOT ch 0 b).setBitOf .HOT ch 1 b).rdi .HOT ch) 0 = b ∧
      bit (((s.setBitOf .HOT ch 0 b).setBitOf .HOT ch 1 b).rdi .HOT ch) 1 = b ∧
      ((s.setBitOf .HOT ch 0 b).setBitOf .HOT ch 1 b).drc = s.drc ∧
      ∀ g i, Fld.HOT ≠ g → ((s.setBitOf .HOT ch 0 b).setBitOf .HOT ch 1 b).rdi g i = s.rdi g i := by
    have h1 := regsOk_setBitOf hok .HOT ch 0 b
    refine ⟨regsOk_setBitOf h1 .., ?_, ?_, rfl, fun g i hg => ?_⟩
    · rw [State.bit_setBitOf h1 rfl ch (by decide), if_neg (by decide), State.bit_setBitOf hok rfl ch (by decide), if_pos rfl]
    · rw [State.bit_setBitOf h1 rfl ch (by decide), if_pos rfl]
    · rw [State.setBitOf_rdi_ne _ hg, State.setBitOf_rdi_ne _ hg]
  by_cases hot : 85 < a
  · have heq : s.hotMarks ch a = (s.setBitOf .HOT ch 0 true).setBitOf .HOT ch 1 true := by
      simp [State.hotMarks, State.each, List.range_succ, hot]
    rw [heq, decide_eq_true hot]
    exact htwo true
  · have heq : s.hotMarks ch a = (s.setBitOf .HOT ch 0 false).setBitOf .HOT ch 1 false := by
      simp [State.hotMarks, State.each, List.range_succ, hot, show a < 83 by omega]
    rw [heq, decide_eq_false hot]
    exact htwo false

/-- What the alert of a hot DIMM touches. -/
def hotAlertFoot : Foot := Part.drc.foot ||| Fld.HOT_ALERT.foot ||| State.record_foot ||| State.alert_foot

theorem State.hotAlert_in (s : State) (ch a : Nat) : In hotAlertFoot s (s.hotAlert ch a) := by
  rw [State.hotAlert]
  split
  · split
    · exact In.refl _ s
    · exact State.alert_in (State.record_in (State.setfi_in ((In.refl _ s).upd [.drc] rfl rfl rfl
        (fun p hp => by cases p <;> first | rfl | simp at hp) (by decide)) (by decide)) (by decide)) (by decide)
  · exact (In.refl _ s).upd [.drc] rfl rfl rfl (fun p hp => by cases p <;> first | rfl | simp at hp) (by decide)

theorem State.hotAlert_raises {s : State} (hok : regsOk s.regs = true) {ch a : Nat} (ha : 95 < a)
    (hnew : s.drc.hotDimm.contains (2 * ch) = false) :
    (s.hotAlert ch a).fli .HOT_ALERT ch = true ∧ bit ((s.hotAlert ch a).rd .ALERT_CAUSE) blkDRC = true := by
  let u : State := { s with drc := { s.drc with hotDimm := s.drc.hotDimm ++ [2 * ch + 0] } }
  have heq : s.hotAlert ch a = ((u.setfi .HOT_ALERT ch true).record clsWarn 0 258 (item 4 ch ++ item 7 0)).alert blkDRC := by
    rw [State.hotAlert, if_pos ha, if_neg (by rw [Nat.add_zero, hnew]; decide)]
  have hu : regsOk u.regs = true := hok
  have hset : regsOk (u.setfi .HOT_ALERT ch true).regs = true := regsOk_setfi hu ..
  rw [heq]
  refine ⟨?_, State.alert_sets (regsOk_record hset ..) (by decide)⟩
  rw [State.fli_eq (State.alert_rdi _ _ (by decide) _), State.fli_eq (State.record_rdi _ _ _ _ _ (by decide) _),
    State.fli_setfi hu rfl (by decide)]

/-! ### The statement -/

theorem exec_retrain {s : State} {ch lane : Nat} (hrun : s.draining = false) (hch : ch < 12) (hlane : lane < 20) (hlive : s.chLive ch = true) :
    exec (.retrain ch lane) s = .next (s.askRetrain ch lane) := by
  rw [exec, execRetrain, State.barWrite_of_running hrun, if_neg (by simp [Nat.not_le.2 hch, Nat.not_le.2 hlane, hlive])]

theorem State.chLive_lt {s : State} (hok : regsOk s.regs = true) {ch : Nat} (hlive : s.chLive ch = true) : ch < 12 := by
  have hact : bit (s.rd .CH_ACTIVE) ch = true := by
    rw [State.chLive, Bool.and_eq_true] at hlive
    exact hlive.1
  by_contra hge
  have hlt : s.rd .CH_ACTIVE < 2 ^ 12 := State.rdi_full_lt hok rfl 0
  rw [bit, Nat.testBit_lt_two_pow (hlt.trans_le (Nat.pow_le_pow_right (by decide) (Nat.not_lt.1 hge)))] at hact
  cases hact

/-- Settles O31: an offset moves by its step and only then meets its limit. -/
theorem eyesAndTemperatures : Obligations.EyesAndTemperatures := by
  unfold Obligations.EyesAndTemperatures
  refine ⟨?thermal, ?eye, ?track, ?retrain⟩
  case thermal =>
    intro s ch a hinv hact hranks ha hmid
    have hok1 := regsOk_wri hinv.1 .DIMM_TEMP_C ch a
    obtain ⟨hok2, hhot0, hhot1, hdrc, hsame⟩ := State.hotMarks_facts hok1 ch hmid
    have hal := ((s.wri .DIMM_TEMP_C ch a).hotMarks ch a).hotAlert_in ch a
    refine ⟨_, exec_dimmThermalPoll hact hranks a, ?_, ?_, ?_, fun h95 hnew => ?_⟩
    · rw [hal.regs _ ch (by decide), hsame _ _ (by decide), State.rdi_wri_fit hinv.1 rfl ha]
    · rw [hal.regs _ ch (by decide), hhot0]
    · rw [hal.regs _ ch (by decide), hhot1]
    · exact State.hotAlert_raises hok2 h95 (by rw [hdrc]; exact hnew)
  case eye =>
    intro s ch lane e u o hinv hlive hlane ho hlo hhi
    exact readEyeWindow_tracks hinv.1 hlive hlane ho hlo hhi
  case track =>
    intro s ch rank lane d o hinv hrun hlive hrank hdebt hpend hlane ho hlo hhi
    obtain ⟨hok, hofs, hlim⟩ := State.driftMoved_facts (s := s.sliceTime ch (s.rd .WR_SLICE_NS)) hinv.1 (ch := ch) (lane := lane) (o := o)
      ho hlo hhi
    refine ⟨_, exec_writeTrackingSlice hrun hlive hrank hdebt hpend hlane d, ?_, fun h => State.overLimit_marks hok ch lane ?_⟩
    · rw [State.overLimit_rdi _ _ _ _ (by decide) (by decide), hofs, driftStep]
    · rw [hlim]
      exact h
  case retrain =>
    intro s ch lane hinv hrun hlive hlane
    exact ⟨_, exec_retrain hrun (State.chLive_lt hinv.1 hlive) hlane hlive, State.askRetrain_busy hinv.1 ch lane⟩

end Sys2Proof.Machine
end

section
/-! Command and address parity, fatal device errors and the end of training (10_dram_controller.md R246, R262, R268,
R269, 20_register_map.md R471, 19_start_up.md): O32. -/

namespace Sys2Proof.Machine

/-! ### Fatal device errors (R471) -/

/-- The first fatal error of a block, before its drain: the flags, the alert and every Pn_RDY. -/
def State.fatalMark (s : State) (blk rule : Nat) (items : List (Nat × Nat)) : State :=
  let s := s.record clsFault 0 rule items
  let s := ((s.setf .FATAL true).wr .FATAL_BLK blk).alertFatal
  s.each (List.range 4) fun s p => s.setRdy p false

theorem State.fatal_first {s : State} (hf : s.fl .FATAL = false) (blk rule : Nat) (items : List (Nat × Nat)) :
    s.fatal blk rule items = (s.fatalMark blk rule items).trigger .fatal true := by
  have hrec : (s.record clsFault 0 rule items).fl .FATAL = false := (State.fl_eq (State.record_rdi _ _ _ _ _ (by decide) 0)).trans hf
  rw [State.fatal]
  exact if_neg (by rw [hrec]; decide)

theorem State.alertFatal_sets {s : State} (hok : regsOk s.regs = true) : s.alertFatal.fl .ALERT_FATAL = true := by
  have hin : In (State.intBit_foot ||| State.alertOut_foot) (s.setf .ALERT_FATAL true) s.alertFatal :=
    State.intBit_in (State.alertOut_in (In.refl _ _) (by decide)) (by decide)
  rw [State.fl_eq (hin.regs _ 0 (by decide)), State.fl_setf hok rfl (by decide)]

theorem State.fatalMark_facts {s : State} (hok : regsOk s.regs = true) {blk : Nat} (hblk : blk < 32) (rule : Nat) (items : List (Nat × Nat)) :
    regsOk (s.fatalMark blk rule items).regs = true ∧ (s.fatalMark blk rule items).fl .FATAL = true ∧
      (s.fatalMark blk rule items).rd .FATAL_BLK = blk ∧ (s.fatalMark blk rule items).fl .ALERT_FATAL = true ∧
      ∀ p, p < 4 → bit (s.fatalMark blk rule items).prt.rdy p = false := by
  let u := s.record clsFault 0 rule items
  let v := (u.setf .FATAL true).wr .FATAL_BLK blk
  let w := v.alertFatal
  have hu : regsOk u.regs = true := regsOk_record hok ..
  have hv : regsOk v.regs = true := regsOk_wr (regsOk_setf hu ..) ..
  have hvw : In State.alertFatal_foot v w := State.alertFatal_in (In.refl _ v) (Foot.le_refl _)
  have hwx : In State.setRdy_foot w (s.fatalMark blk rule items) :=
    State.each_in (In.refl _ w) fun _ _ h => State.setRdy_in h (Foot.le_refl _)
  refine ⟨hwx.regsOk (hvw.regsOk hv), ?_, ?_, ?_, (State.each_setRdy_ports (hvw.regsOk hv)).1⟩
  · rw [State.fl_eq (hwx.regs _ 0 (by decide)), State.fl_eq (hvw.regs _ 0 (by decide)), State.fl_eq (State.rd_wr_ne _ (by decide) _),
      State.fl_setf hu rfl (by decide)]
  · rw [State.rd, hwx.regs _ 0 (by decide), hvw.regs _ 0 (by decide), ← State.rd, State.rd_wr (regsOk_setf hu ..) rfl hblk]
  · rw [State.fl_eq (hwx.regs _ 0 (by decide)), State.alertFatal_sets hv]

/-- No Pn_RDY rises at a trigger. -/
theorem State.trigger_rdy {s : State} (hok : regsOk s.regs = true) (up : Bool) (h : ∀ p, p < 4 → bit s.prt.rdy p = false) :
    ∀ p, p < 4 → bit (s.trigger .fatal up).prt.rdy p = false := by
  rw [State.trigger]
  split
  · simpa using h
  · split
    · exact (State.startDrain_triggered hok .fatal up).rdy
    · exact h

theorem State.fatal_facts {s : State} (hok : regsOk s.regs = true) (hf : s.fl .FATAL = false) {blk : Nat} (hblk : blk < 32) (rule : Nat)
    (items : List (Nat × Nat)) : (s.fatal blk rule items).fl .FATAL = true ∧ (s.fatal blk rule items).rd .FATAL_BLK = blk ∧
      (s.fatal blk rule items).fl .ALERT_FATAL = true ∧ ∀ p, p < 4 → bit (s.fatal blk rule items).prt.rdy p = false := by
  obtain ⟨hok', hset, hno, halert, hrdy⟩ := State.fatalMark_facts hok hblk rule items
  have htr : In State.trigger_foot (s.fatalMark blk rule items) ((s.fatalMark blk rule items).trigger .fatal true) :=
    State.trigger_in (In.refl _ _) (Foot.le_refl _)
  rw [State.fatal_first hf]
  exact ⟨(State.fl_eq (htr.regs _ 0 (by decide))).trans hset, (htr.regs _ 0 (by decide)).trans hno,
    (State.fl_eq (htr.regs _ 0 (by decide))).trans halert, State.trigger_rdy hok' true hrdy⟩

/-! ### Parity alerts -/

/-- The state with the window's count of parity alerts at n. -/
def State.caCount (s : State) (ch sub n : Nat) : State :=
  { s with drc := { s.drc with ca := mput s.drc.ca (ch, sub) (s.rd .OP_TIME, n) } }

theorem exec_caParityAlert_retries {s : State} {ch sub n : Nat} (hlive : s.chLive ch = true) (hsub : sub < 2)
    (hfail : bit (s.rd .CH_FAIL) ch = false) (hold : (mget s.drc.ca (ch, sub)).getD (s.rd .OP_TIME, 0) = (s.rd .OP_TIME, n)) (hn : n < 3) :
    exec (.caParityAlert ch sub) s = .next ((s.caCount ch sub (n + 1)).count .CA_PAR_CNT ch .DRC_CH_FLAGS_CNT_OVF ch 3) := by
  have hnow : ¬ s.rd .OP_TIME + 25000 < s.rd .OP_TIME := by omega
  simp [exec, execCaParityAlert, hlive, Nat.not_le.2 hsub, hfail, hold, hnow, hn, State.caCount]

theorem exec_caParityAlert_fails {s : State} {ch sub : Nat} (hlive : s.chLive ch = true) (hsub : sub < 2)
    (hfail : bit (s.rd .CH_FAIL) ch = false) (hold : mget s.drc.ca (ch, sub) = some (s.rd .OP_TIME, 3)) :
    exec (.caParityAlert ch sub) s = .next ((s.setBitOf .CH_FAIL 0 ch true).fatal blkDRC 269 (item 4 ch)) := by
  have hnow : ¬ s.rd .OP_TIME + 25000 < s.rd .OP_TIME := by omega
  simp [exec, execCaParityAlert, hlive, Nat.not_le.2 hsub, hfail, hold, hnow]

theorem caParityAlert_retries {s : State} (hok : regsOk s.regs = true) {ch sub n : Nat} (hlive : s.chLive ch = true) (hsub : sub < 2)
    (hfail : bit (s.rd .CH_FAIL) ch = false) (hold : (mget s.drc.ca (ch, sub)).getD (s.rd .OP_TIME, 0) = (s.rd .OP_TIME, n)) (hn : n < 3) :
    ∃ t, exec (.caParityAlert ch sub) s = .next t ∧ t.rdi .CA_PAR_CNT ch = min (2 ^ 32 - 1) (s.rdi .CA_PAR_CNT ch + 1) ∧
      t.rd .CH_FAIL = s.rd .CH_FAIL ∧ (mget t.drc.ca (ch, sub)).isSome = true := by
  have hdrc : ((s.caCount ch sub (n + 1)).count .CA_PAR_CNT ch .DRC_CH_FLAGS_CNT_OVF ch 3).drc = (s.caCount ch sub (n + 1)).drc :=
    (State.count_in (ft := Fld.CA_PAR_CNT.foot ||| Fld.DRC_CH_FLAGS_CNT_OVF.foot ||| State.count_foot) (In.refl _ _) (by decide)
      (by decide) (by decide)).parts .drc (by decide)
  refine ⟨_, exec_caParityAlert_retries hlive hsub hfail hold hn,
    State.count_rdi (s := s.caCount ch sub (n + 1)) hok rfl (by decide) (by decide) ch ch 3,
    State.count_rdi_of_ne (s.caCount ch sub (n + 1)) _ _ _ _ _ (by decide) (by decide) (by decide) 0, ?_⟩
  rw [hdrc, State.caCount, mget_mput]
  rfl

theorem caParityAlert_fails {s : State} (hok : regsOk s.regs = true) {ch sub : Nat} (hlive : s.chLive ch = true) (hsub : sub < 2)
    (hfail : bit (s.rd .CH_FAIL) ch = false) (hold : mget s.drc.ca (ch, sub) = some (s.rd .OP_TIME, 3)) (hf : s.fl .FATAL = false) :
    ∃ t, exec (.caParityAlert ch sub) s = .next t ∧ bit (t.rd .CH_FAIL) ch = true ∧ t.fl .FATAL = true ∧
      t.rd .FATAL_BLK = blkDRC ∧ t.fl .ALERT_FATAL = true ∧ ∀ p, p < 4 → bit t.prt.rdy p = false := by
  have hok' := regsOk_setBitOf hok .CH_FAIL 0 ch true
  have hf' : (s.setBitOf .CH_FAIL 0 ch true).fl .FATAL = false := (State.fl_eq (State.setBitOf_rdi_ne s (by decide) ..)).trans hf
  have hfat : In State.fatal_foot (s.setBitOf .CH_FAIL 0 ch true) ((s.setBitOf .CH_FAIL 0 ch true).fatal blkDRC 269 (item 4 ch)) :=
    State.fatal_in (In.refl _ _) (Foot.le_refl _)
  refine ⟨_, exec_caParityAlert_fails hlive hsub hfail hold, ?_, State.fatal_facts hok' hf' (by decide) 269 (item 4 ch)⟩
  rw [State.rd, hfat.regs _ 0 (by decide), State.bit_setBitOf hok rfl 0 (State.chLive_lt hok hlive), if_pos rfl]

/-! ### The end of training -/

theorem exec_trainingDone_none {s : State} {x : TrainIn} (hrun : s.draining = false) (hon : s.rd .SEQ_STATE = seqOn)
    (hdone : s.fl .TRAIN_DONE = false) (hset : s.setOrder.find? (fun m => s.setOk x m false) = none) :
    exec (.trainingDone x) s = .next (s.record clsError 0 246 []) := by
  simp [exec, execTrainingDone, hrun, hon, hdone, hset]

theorem exec_trainingDone_again {s : State} {x : TrainIn} {m c : Nat} (hrun : s.draining = false) (hon : s.rd .SEQ_STATE = seqOn)
    (hdone : s.fl .TRAIN_DONE = false) (hset : s.setOrder.find? (fun m => s.setOk x m false) = some m) (hc : c ∈ chansOf m)
    (hbad : (trainCh x c).pass = false) (htry : s.drc.tried < 2) (hleft : s.drc.tried + 1 < (s.setRates x m).length) :
    exec (.trainingDone x) s = .next { s with drc := { s.drc with tried := s.drc.tried + 1 } } := by
  have hn : min s.drc.tried ((s.setRates x m).length - 1) = s.drc.tried := by omega
  have hfails : ((chansOf m).any fun c => !(trainCh x c).pass) = true := List.any_eq_true.2 ⟨c, hc, by simp [hbad]⟩
  simp [exec, execTrainingDone, hrun, hon, hdone, hset, hfails, hn, htry, hleft]

theorem exec_trainingDone_takes {s : State} {x : TrainIn} {m : Nat} (hrun : s.draining = false) (hon : s.rd .SEQ_STATE = seqOn)
    (hdone : s.fl .TRAIN_DONE = false) (hset : s.setOrder.find? (fun m => s.setOk x m false) = some m)
    (hall : s.setOrder.find? (fun m => s.setOk x m true) = some m) (hpass : ∀ c ∈ chansOf m, (trainCh x c).pass = true) :
    ∃ mts, exec (.trainingDone x) s = .next ((s.takeSet x m mts).restore x) := by
  have hfails : ((chansOf m).any fun c => !(trainCh x c).pass) = false :=
    List.any_eq_false.2 fun c hc => by simp [hpass c hc]
  refine ⟨(s.setRates x m).getD (min s.drc.tried ((s.setRates x m).length - 1)) 0, ?_⟩
  simp [exec, execTrainingDone, hrun, hon, hdone, hset, hfails, hall]

/-- The registers of a set that is chosen and trained. -/
def State.takeHead (s : State) (x : TrainIn) (m mts : Nat) : State :=
  let a := trainCh x ((chansOf m).headD 0)
  let s := ((s.wr .CH_ACTIVE m).wr .DATA_MTS mts).wr .DIMM_TYPE a.typ
  ((s.wr .RANKS a.ranks).wr .CH_CAP_GIB a.cap).setf .TRAIN_DONE true

/-- One lane's training results. -/
def State.takeLane (s : State) (x : TrainIn) (c l : Nat) : State :=
  let v := (trainCh x c).lanes.getD l (0, 0, 0, 0)
  let i := laneIx c l
  let s := ((s.wri .RD_CENTRE i v.1).wri .WR_CENTRE i v.2.1).wri .VREF_RD i v.2.2.1
  ((s.wri .EYE_STEPS i v.2.2.2).wri .RD_OFS i 0).wri .WR_OFS i 0

/-- A channel's part of a set: whether its DIMMs have directed refresh, and their serial numbers. -/
def State.takeSerials (s : State) (x : TrainIn) (m c : Nat) : State :=
  let sn := (List.range (trainCh x ((chansOf m).headD 0)).ranks).foldl (fun (t : SMap Nat) r => mput t (c, r) ((trainCh x c).sn.getD r 0)) s.drc.sn
  { s.setfi .DRFM_AVAIL c (trainCh x c).drfm with drc := { s.drc with sn := sn } }

/-- The controller's own state when a set is taken. -/
def State.takeGrain (s : State) : State :=
  { s with drc := { s.drc with grain := s.rd .GRAIN_LOG2, selfRef := false, failed := 0, sn := [] } }

/-- The repairs of the copy and of the list (R312), and the floors. -/
def State.takeRepairs (s : State) (x : TrainIn) : State :=
  let s := s.each ((s.chosenCopy.map (·.repair)).getD []) (·.startRepair x false)
  (s.each s.int.repair (·.startRepair x true)).floors

/-- The records of a small pool and of a set that leaves channels out. -/
def State.takeTold (s : State) (m : Nat) : State :=
  let s := s.when (decide (s.rd .POOL_FRAMES < 262144)) (·.record clsError 0 165 (item 9 (s.rd .POOL_FRAMES)))
  if m = 0xFFF then s else s.record clsBoot 0 246 (item 7 (0xFFF - m))

/-- What follows the set's registers: the lanes, the rails, the pool, the repairs and the records. -/
def State.takeRest (s : State) (x : TrainIn) (m : Nat) : State :=
  ((s.takeGrain.each (chansOf m) fun s c =>
    (s.takeSerials x m c).each (List.range 20) fun s l => s.takeLane x c l).setRails.poolStart.takeRepairs
      x).takeTold m

theorem State.takeSet_eq (s : State) (x : TrainIn) (m mts : Nat) : s.takeSet x m mts = (s.takeHead x m mts).takeRest x m := by
  unfold State.takeSet State.takeRest State.takeHead State.takeTold State.takeRepairs State.takeGrain State.takeSerials State.takeLane
  with_reducible rfl

/-- Every part and every field but the set's marks. -/
def offSet : Foot := anywhere ^^^ (Fld.TRAIN_DONE.foot ||| Fld.CH_ACTIVE.foot)

theorem State.takeLane_in {s t : State} (h : In offSet s t) (x : TrainIn) (c l : Nat) : In offSet s (t.takeLane x c l) :=
  State.wri_in (State.wri_in (State.wri_in (State.wri_in (State.wri_in (State.wri_in h (by decide)) (by decide)) (by decide)) (by decide))
    (by decide)) (by decide)

theorem State.takeSerials_in {s t : State} (h : In offSet s t) (x : TrainIn) (m c : Nat) : In offSet s (t.takeSerials x m c) :=
  (State.setfi_in (f := .DRFM_AVAIL) (i := c) (b := (trainCh x c).drfm) h (by decide)).upd [.drc] rfl rfl rfl
    (fun p hp => by cases p <;> first | rfl | simp at hp) (by decide)

theorem State.takeGrain_in (s : State) : In offSet s s.takeGrain :=
  (In.refl _ s).upd [.drc] rfl rfl rfl (fun p hp => by cases p <;> first | rfl | simp at hp) (by decide)

theorem State.takeRepairs_in {s t : State} (h : In offSet s t) (x : TrainIn) : In offSet s (t.takeRepairs x) :=
  State.floors_in (State.each_in (State.each_in h fun _ _ h => State.startRepair_in h (by decide))
    fun _ _ h => State.startRepair_in h (by decide)) (by decide)

theorem State.takeTold_in {s t : State} (h : In offSet s t) (m : Nat) : In offSet s (t.takeTold m) := by
  have hpool : In offSet s (t.when (decide (t.rd .POOL_FRAMES < 262144)) (·.record clsError 0 165 (item 9 (t.rd .POOL_FRAMES)))) :=
    State.when_in h fun _ h => State.record_in h (by decide)
  rw [State.takeTold]
  split
  · exact hpool
  · exact State.record_in hpool (by decide)

theorem State.takeRest_in (s : State) (x : TrainIn) (m : Nat) : In offSet s (s.takeRest x m) := by
  refine State.takeTold_in (State.takeRepairs_in (State.poolStart_in (State.setRails_in (State.each_in s.takeGrain_in fun t c h => ?_)
    (by decide)) (by decide)) x) m
  exact State.each_in (State.takeSerials_in h x m c) fun u l h => State.takeLane_in h x c l

theorem State.takeHead_facts {s : State} (hok : regsOk s.regs = true) (x : TrainIn) {m : Nat} (hm : m < 2 ^ 12) (mts : Nat) :
    (s.takeHead x m mts).fl .TRAIN_DONE = true ∧ (s.takeHead x m mts).rd .CH_ACTIVE = m := by
  rw [State.takeHead]
  refine ⟨State.fl_setf (regsOk_wr (regsOk_wr (regsOk_wr (regsOk_wr (regsOk_wr hok ..) ..) ..) ..) ..) rfl (by decide) true, ?_⟩
  rw [State.rd, State.setf_rdi_ne _ (by decide), ← State.rd, State.rd_wr_ne _ (by decide), State.rd_wr_ne _ (by decide),
    State.rd_wr_ne _ (by decide), State.rd_wr_ne _ (by decide), State.rd_wr hok rfl hm]

theorem State.restore_kats (s : State) (x : TrainIn) : (s.restore x).boot.kats = true := by
  obtain ⟨u, b, heq⟩ : ∃ (u : State) (b : Bool), s.restore x = (u.katStart x.kat).setf .REFILL_DONE b := ⟨_, _, rfl⟩
  rw [heq, State.setf_boot, State.katStart]

theorem mem_setOrder_lt {s : State} {m : Nat} (h : m ∈ s.setOrder) : m < 2 ^ 12 := by
  rw [State.setOrder] at h
  have hall : ∀ x ∈ [0xFFF, halfMask0, halfMask1], x < 2 ^ 12 := by decide
  refine hall m ?_
  revert h
  split <;> split <;> simp <;> tauto

/-- Settles O32: a fatal error is marked before its drain, and a training ends by its set. -/
theorem parityErrorsAndTraining : Obligations.ParityErrorsAndTraining := by
  unfold Obligations.ParityErrorsAndTraining
  refine ⟨?parity, ?none, ?again, ?takes⟩
  case parity =>
    intro s ch sub n hinv hlive hsub hfail _
    refine ⟨fun hold => ?_, fun hold hf => caParityAlert_fails hinv.1 hlive hsub hfail hold hf⟩
    obtain hold | ⟨hold, hn⟩ := hold
    · exact caParityAlert_retries hinv.1 (n := 0) hlive hsub hfail (by rw [hold]; rfl) (by decide)
    · exact caParityAlert_retries hinv.1 hlive hsub hfail (by rw [hold]; rfl) hn
  case none =>
    intro s x hrun hon hdone hset
    have hnone : s.setOrder.find? (fun m => s.setOk x m false) = none :=
      List.find?_eq_none.2 fun m hm => by simp [hset m hm]
    have hrec : In State.record_foot s (s.record clsError 0 246 []) := State.record_in (In.refl _ s) (Foot.le_refl _)
    exact ⟨_, exec_trainingDone_none hrun hon hdone hnone, (State.fl_eq (hrec.regs _ 0 (by decide))).trans hdone,
      hrec.parts .md (by decide), hrec.parts .drc (by decide)⟩
  case again =>
    intro s x m c hrun hon hdone hset hc hbad htry hleft
    exact ⟨_, exec_trainingDone_again hrun hon hdone hset hc hbad htry hleft, rfl, hdone⟩
  case takes =>
    intro s x m hinv hrun hon hdone hset hall hpass
    obtain ⟨mts, hexec⟩ := exec_trainingDone_takes hrun hon hdone hset hall hpass
    obtain ⟨htrain, hact⟩ := State.takeHead_facts hinv.1 x (mem_setOrder_lt (List.mem_of_find?_eq_some hset)) mts
    have hin : In offSet (s.takeHead x m mts) ((s.takeSet x m mts).restore x) :=
      State.restore_in (s.takeSet_eq x m mts ▸ (s.takeHead x m mts).takeRest_in x m) (by decide)
    exact ⟨_, hexec, (State.fl_eq (hin.regs _ 0 (by decide))).trans htrain, (hin.regs _ 0 (by decide)).trans hact,
      State.restore_kats _ x⟩

end Sys2Proof.Machine
end

section
/-! Verify reads, the recode queue and the flip mask (12_data_integrity.md R300, R306, R308, R315): O37. -/

namespace Sys2Proof.Machine

/-! ### Where a line lies -/

theorem State.locate_congr {s t : State} (hgrain : t.drc.grain = s.drc.grain) (hact : t.rd .CH_ACTIVE = s.rd .CH_ACTIVE)
    (hranks : t.rd .RANKS = s.rd .RANKS) (la : Nat) : t.locate la = s.locate la := by
  rw [State.locate, State.locate, hgrain, hact, hranks]

theorem State.remapped_of_entry {s : State} {la e : Nat} (he : e < 32) (hv : s.fli .VALID (32 * s.chOf la + e) = true)
    (hla : s.rdi .LA (32 * s.chOf la + e) = la) : s.remapped la = true :=
  List.any_eq_true.2 ⟨e, List.mem_range.2 he, by rw [hv, hla]; simp⟩

/-- A read without a failing device, off the flip mask, changes nothing and shows no device. -/
theorem State.decode_clean {s : State} {la : Nat} (hflip : s.flipHere la = false) :
    (s.decode la []).1 = s ∧ (s.decode la []).2.2 = [] := by
  simp [State.decode, hflip, State.when]

/-- A read of a line that is not remapped shows the device that fails in it. -/
theorem State.decode_one {s : State} {la d : Nat} (hflip : s.flipHere la = false) (hrem : s.remapped la = false) (hd : d < 10) :
    (s.decode la [d]).1 = s ∧ (s.decode la [d]).2.2 = [d] := by
  simp [State.decode, hflip, hrem, State.when, show min 9 d = d by omega, List.eraseDups, List.eraseDupsBy, List.eraseDupsBy.loop]

/-! ### A hard fault's remap entry (R308) -/

theorem State.addRepair_eq (s : State) (e : Nat) : ∃ r, s.addRepair e = { s with int := { s.int with repair := r } } := by
  rw [State.addRepair]
  split
  · exact ⟨_, rfl⟩
  · generalize (if s.int.repair.length < 1024 then s.int.repair
      else match s.int.repair.find? fun x => bits x 34 2 == 2 with
        | some x => s.int.repair.erase x
        | none => s.int.repair) = old
    dsimp only
    split
    · exact ⟨_, rfl⟩
    · exact ⟨s.int.repair, rfl⟩

/-- Remap entry i of channel c names the line and the device. -/
def State.remapTo (s : State) (c i la dev : Nat) : State :=
  ((((s.setfi .VALID i true).wri .LA i la).wri .INT_REMAP_DEVICE i dev).setfi .SPPR_PEND i true).wri .REMAP_USED c
    (((((s.setfi .VALID i true).wri .LA i la).wri .INT_REMAP_DEVICE i dev).setfi .SPPR_PEND i true).rdi .REMAP_USED c + 1)

theorem find_range_zero {p : Nat → Bool} (h : p 0 = true) : (List.range 32).find? p = some 0 := by
  rw [List.range_succ_eq_map, List.find?_cons_of_pos h]

theorem State.hardFault_remaps {s : State} {la dev : Nat} (hrem : s.remapped la = false) (hknown : s.int.known = [])
    (hen : s.fl .REMAP_EN = true) (hfree : s.fli .VALID (32 * s.chOf la) = false) :
    ∃ u : State, u.regs = s.regs ∧ u.drc = s.drc ∧ s.hardFault la dev = u.remapTo (s.chOf la) (32 * s.chOf la) la dev := by
  obtain ⟨r, hr⟩ := s.addRepair_eq (s.repairEntry la dev)
  refine ⟨{ s with int := { s.int with repair := r } }, rfl, rfl, ?_⟩
  have hfind : (List.range 32).find? (fun e => !(State.fli { s with int := { s.int with repair := r } } .VALID (32 * s.chOf la + e))) =
      some 0 := find_range_zero (by rw [Bool.not_eq_true']; exact hfree)
  rw [State.hardFault, hrem, hknown, hr]
  simp only [List.contains_nil, Bool.or_self, Bool.false_eq_true, if_false]
  rw [if_pos (show State.fl { s with int := { s.int with repair := r } } .REMAP_EN = true from hen), hfind]
  rfl

theorem State.remapTo_facts {s : State} (hok : regsOk s.regs = true) {c la dev : Nat} (hla : la < 2 ^ 37) (hdev : dev < 2 ^ 4)
    (hused : s.rdi .REMAP_USED c < 32) (i : Nat) :
    (s.remapTo c i la dev).fli .VALID i = true ∧ (s.remapTo c i la dev).rdi .LA i = la ∧
      (s.remapTo c i la dev).rdi .INT_REMAP_DEVICE i = dev ∧
      (s.remapTo c i la dev).rdi .REMAP_USED c = s.rdi .REMAP_USED c + 1 ∧ (s.remapTo c i la dev).locate = s.locate := by
  have hused' : ((((s.setfi .VALID i true).wri .LA i la).wri .INT_REMAP_DEVICE i dev).setfi .SPPR_PEND i true).rdi .REMAP_USED c =
      s.rdi .REMAP_USED c := by
    rw [State.setfi_rdi_ne _ (by decide), State.rdi_wri_ne _ (.inl (by decide)), State.rdi_wri_ne _ (.inl (by decide)),
      State.setfi_rdi_ne _ (by decide)]
  have hregs : In (Fld.VALID.foot ||| Fld.LA.foot ||| Fld.INT_REMAP_DEVICE.foot ||| Fld.SPPR_PEND.foot ||| Fld.REMAP_USED.foot) s
      (s.remapTo c i la dev) :=
    State.wri_in (State.setfi_in (State.wri_in (State.wri_in (State.setfi_in (In.refl _ s) (by decide)) (by decide)) (by decide))
      (by decide)) (by decide)
  have hok1 := regsOk_setfi hok .VALID i true
  have hok2 := regsOk_wri hok1 .LA i la
  have hok4 := regsOk_setfi (regsOk_wri hok2 .INT_REMAP_DEVICE i dev) .SPPR_PEND i true
  refine ⟨?_, ?_, ?_, ?_, funext fun x => State.locate_congr ?_ ?_ ?_ x⟩
  · refine (State.fli_eq ?_).trans (State.fli_setfi hok (f := .VALID) rfl (by decide) i true)
    rw [State.remapTo, State.rdi_wri_ne _ (.inl (by decide)), State.setfi_rdi_ne _ (by decide), State.rdi_wri_ne _ (.inl (by decide)),
      State.rdi_wri_ne _ (.inl (by decide))]
  · rw [State.remapTo, State.rdi_wri_ne _ (.inl (by decide)), State.setfi_rdi_ne _ (by decide), State.rdi_wri_ne _ (.inl (by decide)),
      State.rdi_wri_fit hok1 (f := .LA) rfl hla]
  · rw [State.remapTo, State.rdi_wri_ne _ (.inl (by decide)), State.setfi_rdi_ne _ (by decide),
      State.rdi_wri_fit hok2 (f := .INT_REMAP_DEVICE) rfl hdev]
  · rw [State.remapTo, hused', State.rdi_wri_fit hok4 (f := .REMAP_USED) rfl (show _ < 2 ^ 6 by omega)]
  · rw [hregs.parts .drc (by decide)]
  · exact hregs.regs .CH_ACTIVE 0 (by decide)
  · exact hregs.regs .RANKS 0 (by decide)

/-! ### The flip mask's register (R315, R490) -/

/-- INT_FLIP_OBJ's object and count as a write leaves them while nothing is armed. -/
def State.flipSet (s : State) (obj reads : Nat) : State := (s.wr .FLIP_OBJ obj).wr .FLIP_READS reads

theorem State.flipSet_facts {s : State} (hok : regsOk s.regs = true) {obj reads : Nat} (hobj : obj < 2 ^ 32) (hn : reads < 16) :
    regsOk (s.flipSet obj reads).regs = true ∧ (s.flipSet obj reads).rd .FLIP_OBJ = obj ∧
      (s.flipSet obj reads).rd .FLIP_READS = reads ∧ (s.flipSet obj reads).fl .FLIP_ARM = s.fl .FLIP_ARM ∧
      (s.flipSet obj reads).md = s.md := by
  refine ⟨regsOk_wr (regsOk_wr hok ..) .., ?_, State.rd_wr (regsOk_wr hok ..) rfl hn, State.fl_eq ?_, rfl⟩
  · rw [State.flipSet, State.rd_wr_ne _ (by decide), State.rd_wr hok rfl hobj]
  · rw [State.flipSet, State.wr, State.rdi_wri_ne _ (.inl (by decide)), State.wr, State.rdi_wri_ne _ (.inl (by decide))]

theorem State.flipWrite_armed {s : State} (harm : s.fl .FLIP_ARM = true) (obj reads : Nat) (arm : Bool) :
    s.flipWrite [(.FLIP_OBJ, obj), (.FLIP_READS, reads), (.FLIP_ARM, b2n arm)] = if arm then s else s.setf .FLIP_ARM false := by
  cases arm <;> rw [State.flipWrite, if_pos harm] <;> rfl

theorem State.flipWrite_idle {s : State} (harm : s.fl .FLIP_ARM = false) (obj reads : Nat) :
    s.flipWrite [(.FLIP_OBJ, obj), (.FLIP_READS, reads), (.FLIP_ARM, b2n true)] =
      if (s.flipSet obj reads).rd .FLIP_READS ≠ 0 then ((s.flipSet obj reads).setf .FLIP_ARM true).flipClean else s.flipSet obj reads := by
  rw [State.flipWrite, if_neg (by rw [harm]; decide)]
  exact if_congr (and_iff_right rfl) rfl rfl

theorem State.flipClean_of_no_object {s : State} (h : s.obj? (s.rd .FLIP_OBJ) = none) : s.flipClean = s := by
  simp only [State.flipClean, h]

/-! ### The obligation -/

theorem exec_flipArmWrite {s : State} (hrun : s.draining = false) (obj reads : Nat) (arm : Bool) :
    exec (.flipArmWrite obj reads arm) s = .next (s.flipWrite [(.FLIP_OBJ, obj), (.FLIP_READS, reads), (.FLIP_ARM, b2n arm)]) := by
  rw [exec, execFlipArmWrite, State.barWrite_of_running hrun]

/-- The state in which a verify read decodes its line. -/
def State.verifying (s : State) (la : Nat) : State :=
  State.dreq { s with int := { s.int with verify := without s.int.verify la } } la 1 false .fch sc3

theorem without_self (la : Nat) : without [la] la = [] := by simp [without]

theorem exec_verifyRead {s : State} {la : Nat} (hver : s.int.verify = [la]) (errs : List Nat) :
    exec (.verifyRead la errs) s = .next (match ((s.verifying la).decode la errs).2.2 with
      | [] => ((s.verifying la).decode la errs).1
      | d :: _ => let u := ((s.verifying la).decode la errs).1
          if u.devMarked (u.locate la) d then u else u.hardFault la d) := by
  rw [exec, execVerifyRead, if_neg (by simp [hver])]
  dsimp only [State.verifying]
  split <;> rename_i h <;> simp only [h]

/-- The first code page of the recode queue is written. -/
def State.recoded (s : State) (k : Key) (rest : List Key) : State :=
  (State.dreq { s with int := { s.int with recode := rest, pcLost := s.int.pcLost.filter (· != k) } }
    (pcLa s.tpe.poolEnd k.1 k.2) 2 true .int sc3).wr .RECODE_LEFT rest.length

theorem exec_recodeWrite {s : State} {k : Key} {rest : List Key} (hrun : s.draining = false) (hq : s.int.recode = k :: rest) :
    exec .recodeWrite s = .next (s.recoded k rest) := by
  simp only [exec, execRecodeWrite, hq, hrun, Bool.false_eq_true, if_false, State.recoded]

/-- Settles O37: a verify read's errors decide, entry 0 is the first of the channel's entries, and an armed mask is left alone. -/
theorem verifyRecodeAndFlip : Obligations.VerifyRecodeAndFlip := by
  unfold Obligations.VerifyRecodeAndFlip
  refine ⟨?clean, ?fault, ?recode, ?flip⟩
  case clean =>
    intro s la _ hver hflip
    obtain ⟨hsame, hdevs⟩ := (s.verifying la).decode_clean (la := la) hflip
    refine ⟨s.verifying la, ?_, ?_, rfl, rfl⟩
    · rw [exec_verifyRead hver, hdevs, hsame]
    · exact (congrArg (without · la) hver).trans (without_self la)
  case fault =>
    intro s la d hinv hver hflip hrem hknown hen hfree hd hla hused hmark _
    obtain ⟨hsame, hdevs⟩ := (s.verifying la).decode_one (la := la) hflip hrem hd
    obtain ⟨u, hregs, hdrc, hu⟩ := (s.verifying la).hardFault_remaps (la := la) (dev := d) hrem hknown hen hfree
    have hok : regsOk u.regs = true := by rw [hregs]; exact hinv.1
    have husedEq : u.rdi .REMAP_USED (s.chOf la) = s.rdi .REMAP_USED (s.chOf la) := State.rdi_congr hregs _ _
    obtain ⟨hvalid, hline, hdev, hcount, hloc⟩ := State.remapTo_facts hok (c := s.chOf la) (la := la) (dev := d)
      (Nat.lt_trans hla (by decide)) (Nat.lt_trans hd (by decide)) (by rw [husedEq]; exact hused) (32 * s.chOf la)
    have hch : (u.remapTo (s.chOf la) (32 * s.chOf la) la d).chOf la = s.chOf la := by
      rw [State.chOf, hloc, State.locate_congr (s := s) (by rw [hdrc]; rfl) (State.rd_congr hregs _) (State.rd_congr hregs _)]
      rfl
    refine ⟨u.remapTo (s.chOf la) (32 * s.chOf la) la d, ?_, hvalid, hline, hdev, by rw [hcount, husedEq], ?_⟩
    · rw [exec_verifyRead hver, hdevs, hsame]
      exact congrArg _ ((if_neg (ne_true_of_eq_false hmark)).trans hu)
    · exact State.remapped_of_entry (e := 0) (by decide) (by rw [hch]; exact hvalid) (by rw [hch]; exact hline)
  case recode =>
    intro s k r hinv hrun hq hlen
    have hpc : (s.recoded k r).int.pcLost = s.int.pcLost.filter (· != k) := rfl
    exact ⟨_, exec_recodeWrite hrun hq, rfl, State.rd_wr hinv.1 rfl (Nat.lt_trans hlen (by decide)), by rw [hpc]; simp⟩
  case flip =>
    intro s obj n hinv hrun hpos hn hobj
    have hok := hinv.1
    refine ⟨fun harm hnone => ?_, fun harm => ?_, fun harm => ?_⟩
    · obtain ⟨hok', hobj', hreads, _, hmd⟩ := State.flipSet_facts hok hobj hn
      have hclean : ((s.flipSet obj n).setf .FLIP_ARM true).obj? (((s.flipSet obj n).setf .FLIP_ARM true).rd .FLIP_OBJ) = none := by
        rw [State.rd, State.setf_rdi_ne _ (by decide), ← State.rd, hobj']
        exact hnone
      refine ⟨_, by rw [exec_flipArmWrite hrun, State.flipWrite_idle harm, if_pos (by omega), State.flipClean_of_no_object hclean],
        State.fl_setf hok' rfl (by decide) true, ?_, ?_⟩
      · exact (State.setf_rdi_ne _ (by decide) _ _).trans hobj'
      · exact (State.setf_rdi_ne _ (by decide) _ _).trans hreads
    · obtain ⟨_, hobj', hreads, harm', _⟩ := State.flipSet_facts hok (reads := 0) hobj (by decide)
      exact ⟨_, by rw [exec_flipArmWrite hrun, State.flipWrite_idle harm, if_neg (by omega)], harm'.trans harm, hobj'⟩
    · refine ⟨s, s.setf .FLIP_ARM false, by rw [exec_flipArmWrite hrun, State.flipWrite_armed harm, if_pos rfl], rfl,
        by rw [exec_flipArmWrite hrun, State.flipWrite_armed harm, if_neg (by decide)], State.fl_setf hok rfl (by decide) false, ?_⟩
      exact State.setf_rdi_ne _ (by decide) _ _

end Sys2Proof.Machine
end

section
/-! The remote access engine with one context that has nothing to do, and its ports, flow control and fetched contexts
(14_remote_access.md R349, R353, R369, R370): O43. -/

namespace Sys2Proof.Machine

/-! ### One context -/

theorem mput_single {β : Type} (k : Key) (v w : β) : mput [(k, v)] k w = [(k, w)] := by
  simp [mput, keyLt_irrefl]

theorem mget_single {β : Type} (k : Key) (v : β) : mget [(k, v)] k = some v := by simp [mget]

/-- The state with one context in place of all. -/
def State.onlyCtx (s : State) (x : Nat) (c : RCtx) : State := { s with rae := { s.rae with ctxs := [((x, 0), c)] } }

@[simp] theorem State.onlyCtx_ctx? (s : State) (x : Nat) (c : RCtx) : (s.onlyCtx x c).ctx? x = some c := mget_single _ _

theorem State.onlyCtx_self {s : State} {x : Nat} {c : RCtx} (h : s.rae.ctxs = [((x, 0), c)]) : s.onlyCtx x c = s := by
  rw [State.onlyCtx, ← h]

@[simp] theorem State.onlyCtx_onlyCtx (s : State) (x : Nat) (c d : RCtx) : (s.onlyCtx x c).onlyCtx x d = s.onlyCtx x d := rfl

theorem State.ctx?_of_only {s : State} {x : Nat} {c : RCtx} (h : s.rae.ctxs = [((x, 0), c)]) : s.ctx? x = some c := by
  rw [State.ctx?, h, mget_single]

theorem State.ctxReady_of_only {s : State} {x : Nat} {c : RCtx} (h : s.rae.ctxs = [((x, 0), c)]) :
    s.ctxReady x = if c.err then none else some c := by
  rw [State.ctxReady, State.ctx?_of_only h]; rfl

theorem State.putCtx_of_only {s : State} {x : Nat} {c : RCtx} (h : s.rae.ctxs = [((x, 0), c)]) (d : RCtx) :
    s.putCtx x d = s.onlyCtx x d := by
  rw [State.putCtx, h, mput_single, State.onlyCtx]

theorem State.updCtx_of_only {s : State} {x : Nat} {c : RCtx} (h : s.rae.ctxs = [((x, 0), c)]) (f : RCtx → RCtx) :
    s.updCtx x f = s.onlyCtx x (f c) := by
  simp only [State.updCtx, State.ctx?_of_only h, State.putCtx_of_only h]

/-- A ready context's examination is over. -/
def RCtx.rest (c : RCtx) : RCtx := if c.err then c else { c with exam := false }

theorem RCtx.rest_of_quiet {c : RCtx} (h : c.exam = false) : c.rest = c := by
  rw [RCtx.rest]
  split
  · rfl
  · rw [← h]

theorem RCtx.rest_of_err {c : RCtx} (h : c.err = true) : c.rest = c := if_pos h

theorem RCtx.rest_err (c : RCtx) : c.rest.err = c.err := by
  rw [RCtx.rest]; split <;> rfl

theorem RCtx.rest_sq (c : RCtx) : c.rest.sq = c.sq := by
  rw [RCtx.rest]; split <;> rfl

theorem RCtx.rest_rest (c : RCtx) : c.rest.rest = c.rest := by
  obtain herr | herr : c.err = true ∨ c.err = false := by cases c.err <;> simp
  · rw [RCtx.rest_of_err herr, RCtx.rest_of_err herr]
  · exact RCtx.rest_of_quiet (by rw [RCtx.rest, if_neg (by rw [herr]; decide)])

/-! ### A pass over a context that holds nothing back -/

/-- A context that does nothing of its own: no packet or READ is held back, and every request of it is on its way. -/
structure RCtx.Idle (c : RCtx) : Prop where
  chip : c.chip = true
  reads : c.reads = []
  blocked : c.blocked = none
  parked : c.parked = []
  fins : c.fins = []
  sent : ∀ r ∈ c.sq, r.st = .sent ∨ r.st = .settling

theorem RCtx.Idle.noneWith {c : RCtx} (h : c.Idle) {st : RqSt} (h1 : st ≠ .sent) (h2 : st ≠ .settling) :
    c.sq.filter (fun r => r.st == st) = [] := by
  refine List.filter_eq_nil_iff.2 fun r hr hst => ?_
  rw [beq_iff_eq] at hst
  cases h.sent r hr with
  | inl h => exact h1 (hst ▸ h)
  | inr h => exact h2 (hst ▸ h)

theorem RCtx.Idle.noneQueued {c : RCtx} (h : c.Idle) : c.sq.find? (fun r => r.st == .queued) = none := by
  refine List.find?_eq_none.2 fun r hr hst => ?_
  rw [beq_iff_eq] at hst
  cases h.sent r hr with
  | inl h => rw [hst] at h; cases h
  | inr h => rw [hst] at h; cases h

section pass
variable {s : State} {x : Nat} {c : RCtx}

theorem State.rxGo_idle (h : s.rae.ctxs = [((x, 0), c)]) (hi : c.Idle) : s.rxGo x = s := by
  rw [State.rxGo, State.ctxReady_of_only h]
  cases c.err
  · simp [hi.blocked, hi.parked, hi.fins, State.rxNext]
  · rfl

/-- An examination of a context without a trigger list, or without one due, only ends. -/
theorem State.examine_idle (h : s.rae.ctxs = [((x, 0), c)]) (hx : c.exam = false ∨ c.trigEn = false) (n : Nat) :
    State.examine (n + 1) x s = s.onlyCtx x c.rest := by
  rw [State.examine, State.ctxReady_of_only h]
  obtain herr | herr : c.err = true ∨ c.err = false := by cases c.err <;> simp
  · rw [if_pos herr, RCtx.rest_of_err herr, State.onlyCtx_self h]
  · have hstop : (!c.exam || !c.trigEn || decide (64 ≤ c.opn)) = true := by
      rcases hx with hx | hx <;> simp [hx]
    have hrest : c.rest = { c with exam := false } := if_neg (by rw [herr]; decide)
    rw [if_neg (by rw [herr]; decide), hrest]
    simp only [hstop, if_true, State.updCtx_of_only h]

theorem State.sendNext_idle (h : s.rae.ctxs = [((x, 0), c)]) (hi : c.Idle) (n : Nat) : State.sendNext n x s = s := by
  cases n with
  | zero => rfl
  | succ n =>
    rw [State.sendNext, State.ctxReady_of_only h]
    cases c.err
    · simp [hi.noneQueued]
    · rfl

theorem State.completeAll_idle (h : s.rae.ctxs = [((x, 0), c)]) (hi : c.Idle) : s.completeAll x = s := by
  rw [State.completeAll, State.ctx?_of_only h]
  dsimp only
  rw [hi.noneWith (st := .done) (by decide) (by decide)]
  rfl

theorem RCtx.Idle.resting (hi : c.Idle) : c.rest.Idle := by
  rw [RCtx.rest]
  split
  · exact hi
  · exact ⟨hi.chip, hi.reads, hi.blocked, hi.parked, hi.fins, hi.sent⟩

/-- A context that has nothing to do only loses its examination. -/
theorem State.raeCtx_idle (h : s.rae.ctxs = [((x, 0), c)]) (hi : c.Idle) (hx : c.exam = false ∨ c.trigEn = false) :
    s.raeCtx x = s.onlyCtx x c.rest := by
  have h' : (s.onlyCtx x c.rest).rae.ctxs = [((x, 0), c.rest)] := rfl
  rw [State.raeCtx, State.ctx?_of_only h]
  simp only [hi.chip, Bool.not_true, Bool.false_eq_true, if_false, State.rxGo_idle h hi, hi.reads, List.length_nil, State.readsRun,
    State.examine_idle h hx 63, State.onlyCtx_ctx?, hi.resting.noneWith (st := .storing) (by decide) (by decide), State.each,
    List.foldl_nil, State.sendNext_idle h' hi.resting, State.completeAll_idle h' hi.resting]

/-- One pass over the contexts. -/
def State.raeOnce (s : State) : State := (s.each (s.rae.ctxs.map (·.1.1)) State.raeCtx).flushSlots

theorem State.raeOnce_idle (h : s.rae.ctxs = [((x, 0), c)]) (hflush : s.rae.flush = []) (hi : c.Idle)
    (hx : c.exam = false ∨ c.trigEn = false) : s.raeOnce = s.onlyCtx x c.rest := by
  have hone : s.each (s.rae.ctxs.map (·.1.1)) State.raeCtx = s.raeCtx x := by rw [h]; rfl
  rw [State.raeOnce, hone, State.raeCtx_idle h hi hx, State.flushSlots,
    show (s.onlyCtx x c.rest).rae.flush = [] from hflush]
  rfl

/-- The passes end where a pass changes nothing. -/
theorem State.raePass_stable {s u : State} (hfirst : s.raeOnce = u) (hstable : u.raeOnce = u) (n : Nat) : State.raePass (n + 2) s = u := by
  rw [State.raePass]
  change (if s.raeOnce = s then s else State.raePass (n + 1) s.raeOnce) = u
  rw [hfirst]
  by_cases hu : u = s
  · rw [if_pos hu, hu]
  · rw [if_neg hu, State.raePass]
    exact if_pos hstable

/-- An engine whose only context has nothing to do only posts its counters. -/
theorem State.raeRun_idle (hrun : s.draining = false) (h : s.rae.ctxs = [((x, 0), c)]) (hflush : s.rae.flush = []) (hi : c.Idle)
    (hx : c.exam = false ∨ c.trigEn = false) : s.raeRun = (s.onlyCtx x c.rest).raeRegs := by
  have hrest : c.rest.exam = false ∨ c.rest.trigEn = false := by
    rw [RCtx.rest]
    split
    · exact hx
    · exact .inl rfl
  rw [State.raeRun, if_neg (by simp [hrun, h])]
  refine congrArg State.raeRegs (State.raePass_stable (State.raeOnce_idle h hflush hi hx) ?_ 6)
  rw [State.raeOnce_idle (s := s.onlyCtx x c.rest) (c := c.rest) rfl hflush hi.resting hrest, RCtx.rest_rest, State.onlyCtx_onlyCtx]

end pass

/-- An engine without contexts and without slots to write does nothing. -/
theorem State.raeRun_empty {s : State} (hctxs : s.rae.ctxs = []) (hflush : s.rae.flush = []) : s.raeRun = s := by
  simp [State.raeRun, hctxs, hflush]

/-! ### The engine's counters -/

/-- The registers that follow the contexts. -/
def raeCounters : Foot := Fld.CTX_ONCHIP.foot ||| Fld.PARK_PKTS.foot ||| Fld.PARK_BYTES.foot ||| Fld.RAE_STATUS_PINNED.foot

theorem State.raeRegs_counters (s : State) : In raeCounters s s.raeRegs := State.raeRegs_in (In.refl _ s) (by decide)

@[simp] theorem State.raeRegs_rae (s : State) : s.raeRegs.rae = s.rae := s.raeRegs_counters.parts .rae (by decide)

@[simp] theorem State.raeRegs_ctx? (s : State) (x : Nat) : s.raeRegs.ctx? x = s.ctx? x := by rw [State.ctx?, State.raeRegs_rae, State.ctx?]

theorem State.raeRegs_rdi (s : State) {f : Fld} (h : f.foot.le raeCounters = false) (i : Nat) : s.raeRegs.rdi f i = s.rdi f i :=
  s.raeRegs_counters.regs f i h

theorem State.raeRegs_onChip {s : State} (hok : regsOk s.regs = true) {x : Nat} {c : RCtx} (h : s.rae.ctxs = [((x, 0), c)])
    (hchip : c.chip = true) : s.raeRegs.rd .CTX_ONCHIP = 1 := by
  rw [State.raeRegs, State.rd_wr_ne _ (by decide), State.rd_wr_ne _ (by decide), State.rd_wr_ne _ (by decide), h]
  simp only [List.map_cons, List.map_nil, List.filter_cons, hchip, if_true, List.filter_nil, List.length_cons, List.length_nil]
  exact State.rd_wr hok (f := .CTX_ONCHIP) rfl (by decide)

end Sys2Proof.Machine
end

section
/-! Congestion, flow control, network ports and contexts that are fetched (14_remote_access.md R349, R353, R369, R370,
16_power_supervision.md R434): O43. -/

namespace Sys2Proof.Machine

theorem draining_of_rdi {s t : State} (h : t.rdi .DRAINING 0 = s.rdi .DRAINING 0) : t.draining = s.draining :=
  State.fl_eq h

/-- One context that a statement calls the only one is idle, once nothing of it is queued. -/
theorem SoleCtx.idle {s : State} {x : Nat} {c : RCtx} (h : SoleCtx s x c) (hsq : ∀ r ∈ c.sq, r.st = .sent ∨ r.st = .settling) : c.Idle :=
  ⟨h.chip, h.reads, h.blocked, h.parked, h.fins, hsq⟩

theorem SoleCtx.ctxReady {s : State} {x : Nat} {c : RCtx} (h : SoleCtx s x c) : s.ctxReady x = some c := by
  rw [State.ctxReady_of_only h.only, h.ready]; rfl

/-! ### Congestion (R369) -/

theorem exec_cnp {s : State} {x : Nat} {c : RCtx} (h : SoleCtx s x c) (hcc : s.fl .CC_EN = true) :
    exec (.cnp x) s = .next ((s.count .CNP_RX_CNT 0 .RAE_FLAGS_CNT_OVF 0 6).onlyCtx x
      { c with rate := max 1000 (c.rate * (256 - s.rd .CC_CUT) / 256) }) := by
  have hcount : In (Fld.CNP_RX_CNT.foot ||| Fld.RAE_FLAGS_CNT_OVF.foot ||| State.record_foot) s
      (s.count .CNP_RX_CNT 0 .RAE_FLAGS_CNT_OVF 0 6) := State.count_in (In.refl _ s) (by decide) (by decide) (by decide)
  have honly : (s.count .CNP_RX_CNT 0 .RAE_FLAGS_CNT_OVF 0 6).rae.ctxs = [((x, 0), c)] := by
    rw [hcount.parts .rae (by decide)]; exact h.only
  have hen : (s.count .CNP_RX_CNT 0 .RAE_FLAGS_CNT_OVF 0 6).fl .CC_EN = true := (State.fl_eq (hcount.regs .CC_EN 0 (by decide))).trans hcc
  have hcut : (s.count .CNP_RX_CNT 0 .RAE_FLAGS_CNT_OVF 0 6).rd .CC_CUT = s.rd .CC_CUT := hcount.regs .CC_CUT 0 (by decide)
  rw [exec, execCnp, if_neg (by simp [h.running, h.ctxReady])]
  dsimp only
  rw [if_pos hen, State.updCtx_of_only honly, hcut]

/-- A context after one step of recovery. -/
def RCtx.recovered (c : RCtx) (s : State) : RCtx := { c with rate := min (s.portRate c.port) (c.rate + 1000 * s.rd .CC_STEP_GBPS) }

/-! ### Flow control (R369) -/

theorem mem_withNat (l : List Nat) (x : Nat) : x ∈ withNat l x := by
  rw [withNat]
  split
  · rename_i h
    exact List.contains_iff_mem.1 h
  · simp

/-- XON on a port that alone is paused sends the packet held back for it. -/
theorem exec_pfcFrame_xon {s : State} {p : Nat} {m : Msg} (hrun : s.draining = false) (hport : s.netPort p = true)
    (hen : s.fl .PFC_EN = true) (hheld : s.rae.held = [(p, m)]) (hpaused : s.rae.paused = [p]) :
    exec (.pfcFrame p false) s = .next (State.send { s with rae := { s.rae with paused := [], held := [] } } m) := by
  simp [exec, execPfcFrame, hrun, hport, hen, hheld, hpaused, without, State.each]

/-! ### Contexts that are fetched (R353) -/

/-- A context that is not on chip, once it is there. -/
def RCtx.fetched (c : RCtx) (clock : Nat) : RCtx := { c with chip := true, fetching := false, used := clock }

/-- The state after a fetched context is used first. -/
def State.fetchedCtx (s : State) (x : Nat) (c : RCtx) : State :=
  { s with rae := { s.rae with ctxs := [((x, 0), c.fetched s.rae.clock)], clock := s.rae.clock + 1 } }

theorem State.ctxRoom_of_none {s : State} (h : s.rae.ctxs.filter (fun e => e.2.chip) = []) : s.ctxRoom = some s := by
  simp [State.ctxRoom, h]

theorem State.ctxUse_fetched {s : State} {x : Nat} {c : RCtx} (h : s.rae.ctxs = [((x, 0), c)]) :
    (s.updCtx x fun c => { c with chip := true, fetching := false }).ctxUse x = s.fetchedCtx x c := by
  have h' : (s.onlyCtx x { c with chip := true, fetching := false }).rae.ctxs = [((x, 0), { c with chip := true, fetching := false })] := rfl
  rw [State.updCtx_of_only h, State.ctxUse, State.onlyCtx_ctx?]
  dsimp only
  rw [if_pos rfl, State.putCtx_of_only h']
  rfl

theorem exec_contextFetchDone {s : State} {x : Nat} {c : RCtx} (hrun : s.draining = false) (h : s.rae.ctxs = [((x, 0), c)])
    (hchip : c.chip = false) (hfetch : c.fetching = true) :
    exec (.contextFetchDone x) s = .next (((s.fetchedCtx x c).rxGo x).raeRun) := by
  have hroom : s.ctxRoom = some s := State.ctxRoom_of_none (by simp [h, hchip])
  rw [exec, execContextFetchDone, State.ctx?_of_only h]
  simp only [hfetch, hrun, Bool.not_true, Bool.or_self, Bool.false_eq_true, if_false, hroom, State.ctxUse_fetched h]

/-! ### The obligation -/

/-- A port's contexts with an alternate port move there (R370). -/
def RCtx.leavePort (c : RCtx) (port : Nat) : RCtx := if c.port == port && bit (c.w 0) 20 then { c with port := bits (c.w 0) 18 2 } else c

theorem exec_raePortDown {s : State} {p : Nat} (hrun : s.draining = false) (hport : s.netPort p = true) :
    exec (.raePortDown p) s = .next { s.setfi .PHY_UP p false with
      rae := { s.rae with ctxs := s.rae.ctxs.map fun (e : Key × RCtx) => (e.1, e.2.leavePort p) } } := by
  rw [exec, execRaePortDown, if_neg (by simp [hrun, hport])]
  rfl

theorem RCtx.leavePort_facts (c : RCtx) : (c.leavePort c.port).epsn = c.epsn ∧
    (c.leavePort c.port).port = if bit (c.w 0) 20 then bits (c.w 0) 18 2 else c.port := by
  rw [RCtx.leavePort]
  cases bit (c.w 0) 20 <;> simp

/-- Settles O43: each row's own change; a fetched context that holds nothing back has nothing to go on with. -/
theorem networkPortsAndContextFetches : Obligations.NetworkPortsAndContextFetches := by
  unfold Obligations.NetworkPortsAndContextFetches
  refine ⟨?congestion, ?flow, ?fetch, ?down, ?up⟩
  case congestion =>
    intro s x c hinv hsole hcc
    refine ⟨⟨_, _, exec_cnp hsole hcc, State.onlyCtx_ctx? _ _ _, rfl, ?_⟩, s.onlyCtx x (c.recovered s), c.recovered s, ?_, State.onlyCtx_ctx? _ _ _, rfl⟩
    · exact State.count_rdi hinv.1 (f := .CNP_RX_CNT) (ovf := .RAE_FLAGS_CNT_OVF) rfl (by decide) (by decide) 0 0 6
    · rw [exec, execCcRecover, if_neg (by simp [hsole.running, hcc]), State.updCtx_of_only hsole.only, RCtx.recovered]
  case flow =>
    intro s p m hrun hport hen
    refine ⟨⟨{ s with rae := { s.rae with paused := withNat s.rae.paused p } }, ?_, mem_withNat _ _, rfl⟩, fun hheld hpaused =>
      ⟨_, exec_pfcFrame_xon hrun hport hen hheld hpaused, rfl, rfl, rfl⟩⟩
    rw [exec, execPfcFrame, if_neg (by simp [hrun, hport, hen]), if_pos rfl]
  case fetch =>
    intro s x c hinv hsole honly hchip hfetch hsq
    have hrun : s.draining = false := hsole.running
    have hidle : (c.fetched s.rae.clock).Idle :=
      ⟨rfl, hsole.reads, hsole.blocked, hsole.parked, hsole.fins, by rw [RCtx.fetched, hsq]; simp⟩
    have hquiet : (c.fetched s.rae.clock).exam = false := hsole.quiet
    have honly' : (s.fetchedCtx x c).rae.ctxs = [((x, 0), c.fetched s.rae.clock)] := rfl
    refine ⟨_, c.fetched s.rae.clock, exec_contextFetchDone hrun honly hchip hfetch, ?_, rfl, rfl, rfl, ?_⟩
    · rw [State.rxGo_idle honly' hidle, State.raeRun_idle (s := s.fetchedCtx x c) hrun honly' hsole.flush hidle (.inl hquiet),
        State.raeRegs_ctx?, RCtx.rest_of_quiet hquiet, State.onlyCtx_ctx?]
    · rw [State.rxGo_idle honly' hidle, State.raeRun_idle (s := s.fetchedCtx x c) hrun honly' hsole.flush hidle (.inl hquiet),
        RCtx.rest_of_quiet hquiet]
      exact State.raeRegs_onChip hinv.1 rfl rfl
  case down =>
    intro s p x c hinv hrun hport honly hc
    subst hc
    obtain ⟨hepsn, hto⟩ := c.leavePort_facts
    refine ⟨_, _, exec_raePortDown hrun hport, State.fli_setfi hinv.1 (f := .PHY_UP) rfl (by decide) c.port false, ?_, hepsn, hto⟩
    rw [State.ctx?, honly]
    exact mget_single _ _
  case up =>
    intro s p hinv hrun hup hport
    refine ⟨s.setfi .PHY_UP p true, ?_, State.fli_setfi hinv.1 (f := .PHY_UP) rfl (by decide) p true⟩
    rw [exec, execNetworkPortPhyUp, if_neg (by simp [hrun, hup, hport])]

end Sys2Proof.Machine
end

section
/-! The commands of RAE_CMD and the trigger register (14_remote_access.md R352, R353, R355, R366, R367): O44. -/

namespace Sys2Proof.Machine

/-! ### RAE_CMD -/

/-- RAE_CMD as its write finds it: index and target are stored, RESULT is cleared. -/
def State.raeAsked (s : State) (target idx : Nat) : State := ((s.wr .INDEX idx).wr .TARGET target).wr .RAE_CMD_RESULT 0

/-- The end of a command of RAE_CMD. -/
def State.raeEnd (s : State) (result : Nat) : State := (s.wr .RAE_CMD_RESULT result).raeRegs.raeRun

theorem State.raeCmd_eq {s : State} (hrun : s.draining = false) (target idx : Nat) (f : State → State × Nat) :
    s.raeCmd target idx f = (f (s.raeAsked target idx)).1.raeEnd (f (s.raeAsked target idx)).2 := by
  rw [State.raeCmd, State.barWrite_of_running hrun]; rfl

/-- The registers of RAE_CMD. -/
def raeAskedFoot : Foot := Fld.INDEX.foot ||| Fld.TARGET.foot ||| Fld.RAE_CMD_RESULT.foot

theorem State.raeAsked_in (s : State) (target idx : Nat) : In raeAskedFoot s (s.raeAsked target idx) :=
  State.wr_in (State.wr_in (State.wr_in (In.refl _ s) (by decide)) (by decide)) (by decide)

theorem State.raeAsked_draining (s : State) (target idx : Nat) : (s.raeAsked target idx).draining = s.draining :=
  draining_of_rdi ((s.raeAsked_in target idx).regs .DRAINING 0 (by decide))

theorem State.raeAsked_ctxData (s : State) (target idx : Nat) : (s.raeAsked target idx).ctxData = s.ctxData :=
  List.map_congr_left fun i _ => (s.raeAsked_in target idx).regs .RAE_CTX_DATA_DATA i (by decide)

theorem State.raeAsked_index {s : State} (hok : regsOk s.regs = true) (target : Nat) {idx : Nat} (h : idx < 65536) :
    (s.raeAsked target idx).rd .INDEX = idx := by
  rw [State.raeAsked, State.rd_wr_ne _ (by decide), State.rd_wr_ne _ (by decide), State.rd_wr hok rfl h]

/-! ### What a command leaves -/

/-- The registers that the end of a command of RAE_CMD writes. -/
def raeEndFoot : Foot := raeCounters ||| Fld.RAE_CMD_RESULT.foot

/-- The end of a command that leaves one context with nothing to do. -/
theorem State.raeEnd_one {s : State} (hok : regsOk s.regs = true) (hrun : s.draining = false) {x : Nat} {c : RCtx}
    (h : s.rae.ctxs = [((x, 0), c)]) (hflush : s.rae.flush = []) (hi : c.Idle) (hq : c.exam = false) {n : Nat} (hn : n < 8) :
    (s.raeEnd n).ctx? x = some c ∧ (s.raeEnd n).rd .RAE_CMD_RESULT = n ∧ (s.raeEnd n).rd .CTX_ONCHIP = 1 ∧
      ∀ f i, f.foot.le raeEndFoot = false → (s.raeEnd n).rdi f i = s.rdi f i := by
  have hin : In raeEndFoot s (s.wr .RAE_CMD_RESULT n).raeRegs.raeRegs :=
    State.raeRegs_in (State.raeRegs_in (State.wr_in (In.refl _ s) (by decide)) (by decide)) (by decide)
  have hin1 : In raeEndFoot s (s.wr .RAE_CMD_RESULT n).raeRegs :=
    State.raeRegs_in (State.wr_in (In.refl _ s) (by decide)) (by decide)
  have honly : (s.wr .RAE_CMD_RESULT n).raeRegs.rae.ctxs = [((x, 0), c)] := by rw [State.raeRegs_rae]; exact h
  have heq : s.raeEnd n = (s.wr .RAE_CMD_RESULT n).raeRegs.raeRegs := by
    rw [State.raeEnd, State.raeRun_idle ((draining_of_rdi (hin1.regs .DRAINING 0 (by decide))).trans hrun) honly
      (by rw [State.raeRegs_rae]; exact hflush) hi (.inl hq), RCtx.rest_of_quiet hq, State.onlyCtx_self honly]
  rw [heq]
  refine ⟨?_, ?_, State.raeRegs_onChip (hin1.regsOk hok) honly hi.chip, fun f i hf => hin.regs f i hf⟩
  · rw [State.raeRegs_ctx?, State.ctx?_of_only honly]
  · rw [State.rd, State.raeRegs_rdi _ (by decide), State.raeRegs_rdi _ (by decide)]
    exact State.rd_wr hok (f := .RAE_CMD_RESULT) rfl hn

/-- The end of a command that leaves no context. -/
theorem State.raeEnd_none {s : State} (hok : regsOk s.regs = true) (h : s.rae.ctxs = []) (hflush : s.rae.flush = []) {n : Nat}
    (hn : n < 8) :
    (s.raeEnd n).rae = s.rae ∧ (s.raeEnd n).rd .RAE_CMD_RESULT = n ∧
      ∀ f i, f.foot.le raeEndFoot = false → (s.raeEnd n).rdi f i = s.rdi f i := by
  have hin : In raeEndFoot s (s.wr .RAE_CMD_RESULT n).raeRegs := State.raeRegs_in (State.wr_in (In.refl _ s) (by decide)) (by decide)
  have hrae : (s.wr .RAE_CMD_RESULT n).raeRegs.rae = s.rae := State.raeRegs_rae _
  rw [State.raeEnd, State.raeRun_empty (by rw [hrae]; exact h) (by rw [hrae]; exact hflush)]
  refine ⟨hrae, ?_, fun f i hf => hin.regs f i hf⟩
  rw [State.rd, State.raeRegs_rdi _ (by decide)]
  exact State.rd_wr hok (f := .RAE_CMD_RESULT) rfl hn

/-- A record put into RAE_CTX_DATA is read there. -/
theorem State.showRec_facts {s : State} (hok : regsOk s.regs = true) (n : Nat) (ws : List Nat) :
    regsOk (s.showRec n ws).regs = true ∧ (∀ i, i < n → ws.getD i 0 < 2 ^ 64 → (s.showRec n ws).rdi .RAE_CTX_DATA_DATA i = ws.getD i 0) ∧
      (s.showRec n ws).draining = s.draining ∧ (s.showRec n ws).rae = s.rae := by
  obtain ⟨hok', hread⟩ := State.each_wri_facts hok (f := .RAE_CTX_DATA_DATA) rfl (fun i => ws.getD i 0) n
  have hin : In Fld.RAE_CTX_DATA_DATA.foot s (s.showRec n ws) :=
    State.each_in (In.refl _ s) fun _ _ h => State.wri_in h (by decide)
  refine ⟨hok', fun i hi hw => ?_, draining_of_rdi (hin.regs .DRAINING 0 (by decide)), hin.parts .rae (by decide)⟩
  exact (hread i).trans ((if_pos hi).trans (Nat.mod_eq_of_lt hw))

/-! ### Contexts -/

section contexts
variable {s : State} {x : Nat} {c : RCtx}

theorem State.ctxs_raeAsked (h : s.rae.ctxs = [((x, 0), c)]) (target idx : Nat) : (s.raeAsked target idx).rae.ctxs = [((x, 0), c)] := h

theorem exec_ctxCreate_new (hrun : s.draining = false) (hx : x < 65536) (h : s.rae.ctxs = []) (hf : ctxFields s.ctxData = true)
    (ht : s.trigOk s.ctxData = true) :
    exec (.ctxCreate x) s = .next (((s.raeAsked 0 x).enterCtx x ((s.raeAsked 0 x).newCtx s.ctxData)).raeEnd 0) := by
  have hx' : ¬65535 < x := by omega
  have hnone : (s.raeAsked 0 x).ctx? x = none := by rw [State.ctx?, show (s.raeAsked 0 x).rae.ctxs = [] from h]; rfl
  have ht' : (s.raeAsked 0 x).trigOk s.ctxData = true := ht
  have hpin : (s.raeAsked 0 x).pinFull s.ctxData false = false := by
    simp [State.pinFull, show (s.raeAsked 0 x).rae.ctxs = [] from h]
  rw [exec, execCtxCreate, State.raeCmd_eq hrun]
  simp [State.raeAsked_ctxData, hx', hnone, hf, ht', hpin]

theorem exec_ctxCreate_bad (hrun : s.draining = false) (hx : x < 65536) (h : s.rae.ctxs = []) (hf : ctxFields s.ctxData = false) :
    exec (.ctxCreate x) s = .next ((s.raeAsked 0 x).raeEnd 2) := by
  have hx' : ¬65535 < x := by omega
  have hnone : (s.raeAsked 0 x).ctx? x = none := by rw [State.ctx?, show (s.raeAsked 0 x).rae.ctxs = [] from h]; rfl
  rw [exec, execCtxCreate, State.raeCmd_eq hrun]
  simp [State.raeAsked_ctxData, hx', hnone, hf]

theorem exec_ctxCreate_taken (hrun : s.draining = false) (h : s.rae.ctxs = [((x, 0), c)]) :
    exec (.ctxCreate x) s = .next ((s.raeAsked 0 x).raeEnd 1) := by
  rw [exec, execCtxCreate, State.raeCmd_eq hrun]
  simp [State.ctx?_of_only (State.ctxs_raeAsked h 0 x)]

theorem exec_ctxModify (hrun : s.draining = false) (h : s.rae.ctxs = [((x, 0), c)]) (hready : c.err = false)
    (hf : ctxFields s.ctxData = true) (ht : s.trigOk s.ctxData = true)
    (hsame : ∀ i, i < 9 → (s.ctxData.getD i 0 ^^^ c.w i) &&& (2 ^ 64 - 1 - (modMask c.trigEn).getD i 0) = 0)
    (hpin : s.pinFull s.ctxData c.pin = false) :
    exec (.ctxModify x) s = .next (((s.raeAsked 0 x).onlyCtx x { c with words := ctxStore s.ctxData }).raeEnd 0) := by
  have hasked := State.ctxs_raeAsked h 0 x
  have hctx : (s.raeAsked 0 x).ctxReady x = some c := by rw [State.ctxReady_of_only hasked, if_neg (by rw [hready]; decide)]
  have hall : ((List.range 9).all fun i => (s.ctxData.getD i 0 ^^^ c.w i) &&& (2 ^ 64 - 1 - (modMask c.trigEn).getD i 0) == 0) = true :=
    List.all_eq_true.2 fun i hi => beq_iff_eq.2 (hsame i (List.mem_range.1 hi))
  have ht' : (s.raeAsked 0 x).trigOk s.ctxData = true := ht
  have hpin' : (s.raeAsked 0 x).pinFull s.ctxData c.pin = false := hpin
  rw [exec, execCtxModify, State.raeCmd_eq hrun]
  simp only [hctx, State.raeAsked_ctxData, hf, hall, ht', hpin', Bool.not_true, Bool.or_self, Bool.false_eq_true, if_false,
    State.putCtx_of_only hasked]

theorem exec_ctxDestroy (hrun : s.draining = false) (h : s.rae.ctxs = [((x, 0), c)]) (hflush : s.rae.flush = []) (hsq : c.sq = []) :
    ∃ u : State, exec (.ctxDestroy x) s = .next (u.raeEnd 0) ∧ u.regs = (s.raeAsked 0 x).regs ∧ u.rae.ctxs = [] ∧ u.rae.flush = [] := by
  rw [exec, execCtxDestroy, State.raeCmd_eq hrun]
  simp only [State.ctx?_of_only (State.ctxs_raeAsked h 0 x)]
  refine ⟨_, rfl, rfl, ?_, ?_⟩
  · show List.map _ (mdel s.rae.ctxs (x, 0)) = []
    simp [h, mdel]
  · show List.map _ s.rae.flush ++ List.map _ c.sq = []
    simp [hflush, hsq]

/-- What CTX_QUERY shows of a context. -/
def RCtx.shown (c : RCtx) : List Nat :=
  [c.w 0 + (if c.err then 2 else 1), c.w 1, c.w 2, c.w 3, c.w 4, c.w 5, c.w 6, c.count, c.next]

theorem exec_ctxQuery (hrun : s.draining = false) (h : s.rae.ctxs = [((x, 0), c)]) :
    exec (.ctxQuery x) s = .next (((s.raeAsked 0 x).showRec 16 c.shown).raeEnd 0) := by
  rw [exec, execCtxQuery, State.raeCmd_eq hrun]
  simp only [State.ctx?_of_only (State.ctxs_raeAsked h 0 x)]
  rfl

/-- The ready context that CTX_RESET makes of one in error. -/
def State.resetCtx (s : State) (c : RCtx) (ws : List Nat) : RCtx :=
  { s.newCtx ws with chip := c.chip, fetching := c.fetching, used := c.used, sq := c.sq, count := c.count, next := c.next, opn := c.opn }

theorem exec_ctxReset (hrun : s.draining = false) (h : s.rae.ctxs = [((x, 0), c)]) (herr : c.err = true)
    (hf : ctxFields s.ctxData = true) (ht : s.trigOk s.ctxData = true) (hpin : s.pinFull s.ctxData c.pin = false) :
    exec (.ctxReset x) s =
      .next ((((s.raeAsked 0 x).forgetCtx x).onlyCtx x ((s.raeAsked 0 x).resetCtx c s.ctxData)).raeEnd 0) := by
  have ht' : (s.raeAsked 0 x).trigOk s.ctxData = true := ht
  have hpin' : (s.raeAsked 0 x).pinFull s.ctxData c.pin = false := hpin
  have hforget : ((s.raeAsked 0 x).forgetCtx x).rae.ctxs = [((x, 0), c)] := h
  rw [exec, execCtxReset, State.raeCmd_eq hrun]
  simp only [State.ctx?_of_only (State.ctxs_raeAsked h 0 x), State.raeAsked_ctxData, herr, hf, ht', hpin', Bool.not_true,
    Bool.false_eq_true, if_false, State.putCtx_of_only hforget]
  rfl

theorem exec_raeTrig (h : SoleCtx s x c) (hi : c.Idle) (htrig : c.trigEn = false) {n : Nat} (hn : n < 2 ^ 32) :
    exec (.raeTrig x n) s =
      .next ((s.onlyCtx x (RCtx.rest { c with count := c.count + n, exam := true })).raeRegs) := by
  have hi' : RCtx.Idle { c with count := c.count + n, exam := true } := ⟨hi.chip, hi.reads, hi.blocked, hi.parked, hi.fins, hi.sent⟩
  rw [exec, execRaeTrig, State.barWrite_of_running h.running, if_neg (by simp [h.ctxReady]), State.updCtx_of_only h.only,
    Nat.mod_eq_of_lt hn]
  exact congrArg _ (State.raeRun_idle (s := s.onlyCtx x { c with count := c.count + n, exam := true }) h.running rfl h.flush hi'
    (.inr htrig))

end contexts

/-! ### Keys (R355) -/

section keys
variable {s : State} {i : Nat}

/-- The record that KEY_CREATE enters, with its tag. -/
def keyRecord (ws : List Nat) (tag : Nat) : List Nat :=
  [setBit (ws.getD 0 0) 43 true, ws.getD 1 0, ws.getD 2 0, setBits (ws.getD 3 0) 48 16 (tag % 2 ^ 16)]

/-- The state with a key entered. -/
def State.withKey (s : State) (i : Nat) (k : List Nat) : State := { s with rae := { s.rae with keys := mput s.rae.keys (i, 0) k } }

/-- The state with a new key of a random tag. -/
def State.keyed (s : State) (i : Nat) (ws : List Nat) : State := s.drbg.1.withKey i (keyRecord ws s.drbg.2)

theorem exec_keyCreate_new {o : Obj} {ws : List Nat} (hrun : s.draining = false) (hpos : 0 < i) (hi : i < 65536)
    (hws : ws = s.ctxData.take 4) (hfree : mget s.rae.keys (i, 0) = none) (hlow0 : ws.getD 0 0 < 2 ^ 44) (hlow1 : ws.getD 1 0 < 2 ^ 48)
    (halign : ws.getD 1 0 % 4096 = 0) (hlen : 0 < bits (ws.getD 3 0) 0 48) (hown : s.own? (bits (ws.getD 0 0) 0 32) = some o)
    (hread : o.canRead (bits (ws.getD 0 0) 32 8) = true) (hwrite : o.canWrite (bits (ws.getD 0 0) 32 8) = true)
    (hfit : ws.getD 1 0 + bits (ws.getD 3 0) 0 48 ≤ o.size) :
    exec (.keyCreate i) s = .next (((s.raeAsked 1 i).keyed i ws).raeEnd 0) := by
  have hown' : (s.raeAsked 1 i).own? (bits (ws.getD 0 0) 0 32) = some o := hown
  have hfree' : mget (s.raeAsked 1 i).rae.keys (i, 0) = none := hfree
  rw [exec, execKeyCreate, State.raeCmd_eq hrun]
  simp only [State.raeAsked_ctxData, ← hws, hfree', Option.isSome_none, hown', hread, hwrite, Bool.not_true, Bool.and_false,
    Bool.or_self, Bool.false_eq_true, if_false, Nat.not_lt.2 hfit, show ¬(i = 0) by omega, show ¬65535 < i by omega, decide_false,
    Nat.not_le.2 hlow0, Nat.not_le.2 hlow1, halign, show ¬(bits (ws.getD 3 0) 0 48 = 0) by omega, bne_self_eq_false]
  rfl

theorem exec_keyCreate_taken {k : List Nat} (hrun : s.draining = false) (h : mget s.rae.keys (i, 0) = some k) :
    exec (.keyCreate i) s = .next ((s.raeAsked 1 i).raeEnd 1) := by
  have h' : mget (s.raeAsked 1 i).rae.keys (i, 0) = some k := h
  rw [exec, execKeyCreate, State.raeCmd_eq hrun]
  simp [h']

theorem exec_keyDestroy {k : List Nat} (hrun : s.draining = false) (h : mget s.rae.keys (i, 0) = some k) :
    exec (.keyDestroy i) s = .next (State.raeEnd { s.raeAsked 1 i with rae := { s.rae with keys := mdel s.rae.keys (i, 0) } } 0) := by
  have h' : mget (s.raeAsked 1 i).rae.keys (i, 0) = some k := h
  rw [exec, execKeyDestroy, State.raeCmd_eq hrun]
  simp only [h', Option.isNone_some, Bool.false_eq_true, if_false]
  rfl

theorem exec_keyQuery {k : List Nat} (hrun : s.draining = false) (hpos : 0 < i) (hi : i < 65536) (h : mget s.rae.keys (i, 0) = some k) :
    exec (.keyQuery i) s = .next (((s.raeAsked 1 i).showRec 4 k).raeEnd 0) := by
  have h' : mget (s.raeAsked 1 i).rae.keys (i, 0) = some k := h
  rw [exec, execKeyQuery, State.raeCmd_eq hrun]
  simp only [h', show ¬(i = 0) by omega, show ¬65535 < i by omega, decide_false, Bool.or_self, Bool.false_eq_true, if_false,
    Option.getD_some]

end keys

/-! ### The obligation -/

theorem State.newCtx_idle (s : State) (ws : List Nat) : (s.newCtx ws).Idle := ⟨rfl, rfl, rfl, rfl, rfl, by simp [State.newCtx]⟩

theorem State.newCtx_epsn (s : State) (ws : List Nat) : (s.newCtx ws).epsn = bits (ws.getD 2 0) 0 24 := rfl

theorem State.enterCtx_empty {s : State} (h : s.rae.ctxs = []) (x : Nat) (c : RCtx) :
    (s.enterCtx x c).rae.ctxs = [((x, 0), c)] ∧ (s.enterCtx x c).rae.flush = s.rae.flush ∧ (s.enterCtx x c).regs = s.regs := by
  rw [State.enterCtx, State.ctxRoom_of_none (by rw [h]; rfl)]
  exact ⟨congrArg (mput · (x, 0) c) h, rfl, rfl⟩

theorem State.keyed_facts (s : State) (i : Nat) (ws : List Nat) :
    (s.keyed i ws).regs = s.regs ∧ (s.keyed i ws).rae.ctxs = s.rae.ctxs ∧ (s.keyed i ws).rae.flush = s.rae.flush ∧
      mget (s.keyed i ws).rae.keys (i, 0) = some (keyRecord ws s.drbg.2) :=
  ⟨rfl, rfl, rfl, mget_mput ..⟩

theorem bits_keyRecord (ws : List Nat) (tag : Nat) : bits ((keyRecord ws tag).getD 3 0) 0 48 = bits (ws.getD 3 0) 0 48 := by
  unfold keyRecord
  generalize tag % 2 ^ 16 = x
  have hkey : ∀ a b c d : Nat, [a, b, c, d].getD 3 0 = d := fun _ _ _ _ => rfl
  rw [hkey]
  exact bits_setBits_of_disjoint (.inl (by omega))

/-- Settles O44: every command ends by posting RESULT over an engine that has nothing to do. -/
theorem contextsAndKeys : Obligations.ContextsAndKeys := by
  unfold Obligations.ContextsAndKeys
  refine ⟨?create, ?sole, ?reset, ?keys⟩
  case create =>
    intro s x hinv hrun hx hctxs hflush
    have hok := (s.raeAsked_in 0 x).regsOk hinv.1
    have hrun' := (s.raeAsked_draining 0 x).trans hrun
    refine ⟨fun hf ht => ?_, fun hf => ?_⟩
    · obtain ⟨honly, hfl, hregs⟩ := State.enterCtx_empty (s := s.raeAsked 0 x) hctxs x ((s.raeAsked 0 x).newCtx s.ctxData)
      obtain ⟨hctx, hres, hchip, hkeep⟩ := State.raeEnd_one (by rw [hregs]; exact hok)
        ((draining_of_rdi (State.rdi_congr hregs .DRAINING 0)).trans hrun') honly (hfl.trans hflush) (State.newCtx_idle _ _) rfl (n := 0) (by decide)
      exact ⟨_, _, exec_ctxCreate_new hrun hx hctxs hf ht, hctx, rfl, rfl, rfl, rfl, hres,
        (hkeep .INDEX 0 (by decide)).trans ((State.rd_congr hregs .INDEX).trans (State.raeAsked_index hinv.1 0 hx)), hchip⟩
    · obtain ⟨hrae, hres, _⟩ := State.raeEnd_none (s := s.raeAsked 0 x) hok hctxs hflush (n := 2) (by decide)
      exact ⟨_, exec_ctxCreate_bad hrun hx hctxs hf, by rw [hrae]; exact hctxs, hres⟩
  case sole =>
    intro s x c hinv hsole hsq hx
    have hrun := hsole.running
    have hok := (s.raeAsked_in 0 x).regsOk hinv.1
    have hrun' := (s.raeAsked_draining 0 x).trans hrun
    have hidle : c.Idle := hsole.idle (by rw [hsq]; simp)
    have hasked := State.ctxs_raeAsked hsole.only 0 x
    refine ⟨?_, fun hf ht hsame hpin => ?_, ?_, fun hw hcount => ?_, fun htrig n hn => ?_⟩
    · obtain ⟨hctx, hres, _⟩ := State.raeEnd_one hok hrun' hasked hsole.flush hidle hsole.quiet (n := 1) (by decide)
      exact ⟨_, c, exec_ctxCreate_taken hrun hsole.only, hctx, rfl, hres⟩
    · obtain ⟨hctx, hres, _⟩ := State.raeEnd_one (s := (s.raeAsked 0 x).onlyCtx x { c with words := ctxStore s.ctxData }) hok hrun' rfl
        hsole.flush ⟨hidle.chip, hidle.reads, hidle.blocked, hidle.parked, hidle.fins, hidle.sent⟩ hsole.quiet (n := 0) (by decide)
      exact ⟨_, _, exec_ctxModify hrun hsole.only hsole.ready hf ht hsame hpin, hctx, rfl, rfl, hres⟩
    · obtain ⟨u, hexec, hregs, hctxs, hflush⟩ := exec_ctxDestroy hrun hsole.only hsole.flush hsq
      obtain ⟨hrae, hres, _⟩ := State.raeEnd_none (s := u) (by rw [hregs]; exact hok) hctxs hflush (n := 0) (by decide)
      exact ⟨_, hexec, by rw [State.ctx?, hrae, hctxs]; rfl, hres⟩
    · obtain ⟨hok', hread, hdr, hrae⟩ := State.showRec_facts hok 16 c.shown
      obtain ⟨_, hres, _, hkeep⟩ := State.raeEnd_one hok' (hdr.trans hrun') (by rw [hrae]; exact hasked)
        (by rw [hrae]; exact hsole.flush) hidle hsole.quiet (n := 0) (by decide)
      have hshow : c.shown.getD 0 0 = c.w 0 + 1 := by simp [RCtx.shown, hsole.ready]
      refine ⟨_, exec_ctxQuery hrun hsole.only, ?_, ?_, hres⟩
      · exact (hkeep _ 0 (by decide)).trans ((hread 0 (by decide) (by rw [hshow]; exact hw)).trans hshow)
      · exact (hkeep _ 7 (by decide)).trans (hread 7 (by decide) hcount)
    · refine ⟨_, _, exec_raeTrig hsole hidle htrig hn, by rw [State.raeRegs_ctx?, State.onlyCtx_ctx?], ?_⟩
      rw [RCtx.rest]
      split <;> rfl
  case reset =>
    intro s x c hinv hrun hx honly hflush herr hchip hsq hf ht hpin
    have hok := (s.raeAsked_in 0 x).regsOk hinv.1
    have hrun' := (s.raeAsked_draining 0 x).trans hrun
    obtain ⟨hctx, hres, _⟩ := State.raeEnd_one
      (s := ((s.raeAsked 0 x).forgetCtx x).onlyCtx x ((s.raeAsked 0 x).resetCtx c s.ctxData)) hok hrun' rfl hflush
      ⟨hchip, rfl, rfl, rfl, rfl, by rw [show ((s.raeAsked 0 x).resetCtx c s.ctxData).sq = c.sq from rfl, hsq]; simp⟩ rfl (n := 0) (by decide)
    exact ⟨_, _, exec_ctxReset hrun honly herr hf ht hpin, hctx, rfl, rfl, rfl, hres⟩
  case keys =>
    intro s i o ws hinv hrun hctxs hflush hwf hpos hi hws
    have hok := (s.raeAsked_in 1 i).regsOk hinv.1
    refine ⟨fun hfree h0 h1 halign hlen hown hread hwrite hfit => ?_, fun k hk => ⟨?_, ?_, ?_⟩⟩
    · obtain ⟨hregs, hc, hfl, hkey⟩ := (s.raeAsked 1 i).keyed_facts i ws
      obtain ⟨hrae, hres, _⟩ := State.raeEnd_none (s := (s.raeAsked 1 i).keyed i ws) (by rw [hregs]; exact hok) (hc.trans hctxs)
        (hfl.trans hflush) (n := 0) (by decide)
      exact ⟨_, keyRecord ws (s.raeAsked 1 i).drbg.2, exec_keyCreate_new hrun hpos hi hws hfree h0 h1 halign hlen hown hread hwrite hfit, by rw [hrae]; exact hkey, rfl, rfl,
        rfl, bits_keyRecord _ _, hres⟩
    · obtain ⟨hrae, hres, _⟩ := State.raeEnd_none (s := s.raeAsked 1 i) hok hctxs hflush (n := 1) (by decide)
      exact ⟨_, exec_keyCreate_taken hrun hk, by rw [hrae]; exact hk, hres⟩
    · obtain ⟨hrae, hres, _⟩ := State.raeEnd_none
        (s := { s.raeAsked 1 i with rae := { s.rae with keys := mdel s.rae.keys (i, 0) } }) hok hctxs hflush (n := 0) (by decide)
      exact ⟨_, exec_keyDestroy hrun hk, by rw [hrae]; exact mget_mdel _ hwf, hres⟩
    · obtain ⟨hok', hread, _, hrae'⟩ := State.showRec_facts hok 4 k
      obtain ⟨_, hres, hkeep⟩ := State.raeEnd_none hok' (by rw [hrae']; exact hctxs) (by rw [hrae']; exact hflush) (n := 0) (by decide)
      exact ⟨_, exec_keyQuery hrun hpos hi hk, hres, fun j hj hlt => (hkeep _ j (by decide)).trans (hread j hj hlt)⟩

end Sys2Proof.Machine
end

section
/-! Port resets, link training and PORT_OFFLINE (04_fabric_ports.md R83 to R86, R107, R108): O13. -/

namespace Sys2Proof.Machine

/-! ### The ports' pins through the service of waiting requests -/

/-- Pn_PERST_N and Pn_RDY. -/
def State.pins (s : State) : Nat × Nat := (s.prt.perst, s.prt.rdy)

theorem pins_of_in {ft : Foot} {s t : State} (h : In ft s t) (hp : Part.prt.foot.le ft = false) : t.pins = s.pins := by
  rw [State.pins, State.pins, h.parts .prt hp]

theorem pins_ite {c : Prop} [Decidable c] {s t u : State} (ht : t.pins = s.pins) (hu : u.pins = s.pins) :
    (if c then t else u).pins = s.pins := by
  split <;> assumption

theorem State.setFstat_pins (s : State) (k j : Nat) (st : FStat) : (s.setFstat k j st).pins = s.pins := by
  rw [State.setFstat]
  exact State.each_same (g := State.pins) _ _ fun u l => pins_of_in (ft := State.snoop_foot) (State.snoop_in (In.refl _ u) (Foot.le_refl _)) (by decide)

theorem State.gpfCheck_pins (s : State) (p : Nat) : (s.gpfCheck p).pins = s.pins := by
  rw [State.gpfCheck]
  split
  · exact State.each_same (g := State.pins) _ _ fun u x => pins_of_in (ft := State.record_foot) (State.record_in (In.refl _ u) (Foot.le_refl _)) (by decide)
  · rfl

theorem State.fenceDone_pins (s : State) (f : Fence) (solo : Bool) : (s.fenceDone f solo).pins = s.pins := by
  have hstall : ∀ u : State, (u.stallEnd f.dom).pins = u.pins := fun u =>
    pins_of_in (ft := State.stallEnd_foot) (State.stallEnd_in (In.refl _ u) (Foot.le_refl _)) (by decide)
  have hcomplete : ∀ (u : State) (k j t : Nat), (u.complete k j t).pins = u.pins := fun u k j t =>
    pins_of_in (ft := State.complete_foot) (State.complete_in (In.refl _ u) (Foot.le_refl _)) (by decide)
  have hcmd : ∀ (u : State) (n : Nat) (g : Cmd → Cmd), (u.finishCmd n g).pins = u.pins := fun u n g =>
    pins_of_in (ft := State.finishCmd_foot) (State.finishCmd_in (In.refl _ u) (Foot.le_refl _)) (by decide)
  have hctx : ∀ (u : State) (x p : Nat) (b : Bool) (m : Nat), (u.ctxFence x p b m).pins = u.pins := fun u x p b m =>
    pins_of_in (ft := State.ctxFence_foot) (State.ctxFence_in (In.refl _ u) (Foot.le_refl _)) (by decide)
  rw [State.fenceDone]
  cases f.src with
  | page k j t =>
    dsimp only [State.when]
    split <;> split <;> simp only [hcomplete, State.setFstat_pins, hstall] <;> rfl
  | gpf p =>
    dsimp only
    rw [State.gpfCheck_pins]
    split <;> exact hstall _
  | cmd uid => exact (hcmd _ _ _).trans (hstall _)
  | rdma x p => exact (hctx _ _ _ _ _).trans (hstall _)

theorem State.acceptFence_pins (s : State) (src : FSrc) (d seq : Nat) : (s.acceptFence src d seq).pins = s.pins := by
  have hclose : s.closeAll.pins = s.pins := pins_of_in (ft := State.closeAll_foot) (State.closeAll_in (In.refl _ s) (Foot.le_refl _)) (by decide)
  have hadd : ∀ (u : State) (l : List Fence), State.pins { u with fences := l } = u.pins := fun _ _ => rfl
  unfold State.acceptFence
  generalize s.closeAll = u at hclose ⊢
  cases src <;> dsimp only <;> split <;> simp only [State.fenceDone_pins, State.setFstat_pins, hadd, hclose]

theorem State.creditStop_pins (s : State) (k : Nat) : (s.creditStop k).pins = s.pins := by
  have hrec : ∀ (u : State) (key cls dom rule : Nat) (items : List (Nat × Nat)), (u.recordOnce key cls dom rule items).pins = u.pins :=
    fun u key cls dom rule items => pins_of_in (ft := State.recordOnce_foot) (State.recordOnce_in (In.refl _ u) (Foot.le_refl _)) (by decide)
  rw [State.creditStop]
  split
  · rfl
  · exact hrec _ _ _ _ _ _

theorem State.when_pins {s : State} (c : Bool) {f : State → State} (h : (f s).pins = s.pins) : (s.when c f).pins = s.pins := by
  rw [State.when]
  split
  · exact h
  · rfl

theorem State.benchRegs_pins (s : State) (k j : Nat) : (s.benchRegs k j).pins = s.pins :=
  pins_of_in (ft := State.benchRegs_foot) (State.benchRegs_in (In.refl _ s) (Foot.le_refl _)) (by decide)

theorem State.hostWait_pins (s : State) (r : HostReq) (why : Why) (obj tp : Nat) : (s.hostWait r why obj tp).pins = s.pins := by
  unfold State.hostWait
  extract_lets src u r' w onBench v v'
  have hu : u.pins = s.pins := by
    subst u
    split <;> rfl
  have hv : v'.pins = s.pins := by
    subst v'
    split
    · exact (State.benchRegs_pins v _ _).trans hu
    · exact hu
  exact (State.when_pins _ (State.creditStop_pins _ _)).trans hv

theorem State.serveT1_pins (s : State) (r : HostReq) (o : Obj) (obj tp ix la : Nat) : (s.serveT1 r o obj tp ix la).pins = s.pins := by
  have hdrop : (s.dropDemotion obj tp).pins = s.pins :=
    pins_of_in (ft := State.dropDemotion_foot) (State.dropDemotion_in (In.refl _ s) (Foot.le_refl _)) (by decide)
  have hsnoops : ∀ (u : State) (l : List Nat) (x : Nat), (u.each l fun s l => s.snoop l x).pins = u.pins := fun u l x =>
    State.each_same (g := State.pins) _ _ fun u l => pins_of_in (State.snoop_in (In.refl _ u) (Foot.le_refl _)) (by decide)
  have hcount : ∀ u : State, (u.count .SF_EVICT_CNT 0 .SF_EVICT_OVF 0 0).pins = u.pins := fun u =>
    pins_of_in (ft := Fld.SF_EVICT_CNT.foot ||| Fld.SF_EVICT_OVF.foot ||| State.record_foot)
      (State.count_in (In.refl _ u) (by decide) (by decide) (by decide)) (by decide)
  have hcharge : ∀ (u : State) (k d : Nat), (u.chargeCp ix k d).pins = u.pins := fun u k d =>
    pins_of_in (ft := State.chargeCp_foot) (State.chargeCp_in (In.refl _ u) (Foot.le_refl _)) (by decide)
  have hredirty : ∀ (u : State) (k : Nat), (u.redirty ix k).pins = u.pins := fun u k =>
    pins_of_in (ft := State.redirty_foot) (State.redirty_in (In.refl _ u) (Foot.le_refl _)) (by decide)
  have hline : ∀ (u : State) (q : Req), (u.lineAccess la obj tp q).pins = u.pins := fun u q =>
    pins_of_in (ft := State.lineAccess_foot) (State.lineAccess_in (In.refl _ u) (Foot.le_refl _)) (by decide)
  unfold State.serveT1
  extract_lets u d e k needs q inval victim
  replace hdrop : u.pins = s.pins := hdrop
  clear_value u needs inval victim
  split
  · exact (State.hostWait_pins ..).trans hdrop
  split
  · exact (State.hostWait_pins ..).trans ((hsnoops _ _ _).trans hdrop)
  split
  · refine (State.hostWait_pins ..).trans ((hsnoops _ _ _).trans (Eq.trans ?_ hdrop))
    split
    · rfl
    · exact hcount u
  generalize u.canCharge2 _ _ _ = admitted
  split
  · exact (State.hostWait_pins ..).trans hdrop
  · refine (hline _ _).trans (Eq.trans ?_ hdrop)
    have hfirst : ∀ b : Bool, State.pins (if b = true then u.chargeCp ix (la / 64 % 16) (u.ldDom r.link r.ld) else u) = u.pins := by
      intro b
      split
      · exact hcharge ..
      · rfl
    exact (pins_ite (hredirty _ _) rfl).trans (hfirst needs)

theorem State.leavingWb_pins (s : State) (r : HostReq) (o : Obj) (obj tp ix la : Nat) : (s.leavingWb r o obj tp ix la).pins = s.pins := by
  have habandon : ∀ m : Move, (s.abandonMove m).pins = s.pins := fun m =>
    pins_of_in (ft := State.abandonMove_foot) (State.abandonMove_in (In.refl _ s) (Foot.le_refl _)) (by decide)
  have hcharge : ∀ (u : State) (k d : Nat), (u.chargeCp ix k d).pins = u.pins := fun u k d =>
    pins_of_in (ft := State.chargeCp_foot) (State.chargeCp_in (In.refl _ u) (Foot.le_refl _)) (by decide)
  have hmap : ∀ (u : State) (e : MapE), (u.setMap ix e).pins = u.pins := fun _ _ => rfl
  have hline : ∀ (u : State) (q : Req), (u.lineAccess la obj tp q).pins = u.pins := fun u q =>
    pins_of_in (ft := State.lineAccess_foot) (State.lineAccess_in (In.refl _ u) (Foot.le_refl _)) (by decide)
  unfold State.leavingWb
  dsimp only
  split
  · exact hline ..
  split
  · exact State.hostWait_pins ..
  · rw [hline, hcharge, hmap]
    split
    · exact habandon _
    · rfl

/-- Serving a request leaves the ports' pins. -/
theorem State.serveHost_pins (s : State) (r : HostReq) : (s.serveHost r).pins = s.pins := by
  have honce : ∀ (u : State) (key cls dom rule : Nat) (items : List (Nat × Nat)), (u.recordOnce key cls dom rule items).pins = u.pins :=
    fun u key cls dom rule items => pins_of_in (ft := State.recordOnce_foot) (State.recordOnce_in (In.refl _ u) (Foot.le_refl _)) (by decide)
  have hunmapped : ∀ u : State, (u.unmapped r).pins = u.pins := fun u =>
    pins_of_in (ft := State.unmapped_foot) (State.unmapped_in (In.refl _ u) (Foot.le_refl _)) (by decide)
  have hwrite : ∀ u : State, (u.doneWrite r).pins = u.pins := fun u =>
    pins_of_in (ft := State.doneWrite_foot) (State.doneWrite_in (In.refl _ u) (Foot.le_refl _)) (by decide)
  have hread : ∀ (u : State) (d : Line) (p : Bool), (u.doneRead r d p).pins = u.pins := fun u d p =>
    pins_of_in (ft := State.doneRead_foot) (State.doneRead_in (In.refl _ u) (Foot.le_refl _)) (by decide)
  have hsf : ∀ (u : State) (la : Nat), (u.sfRead r la).pins = u.pins := fun u la =>
    pins_of_in (ft := State.sfRead_foot) (State.sfRead_in (In.refl _ u) (Foot.le_refl _)) (by decide)
  have hneed : ∀ (u : State) (obj tp d : Nat), (u.needPage obj tp d false).pins = u.pins := fun u obj tp d =>
    pins_of_in (ft := State.needPage_foot) (State.needPage_in (In.refl _ u) (Foot.le_refl _)) (by decide)
  have hline : ∀ (u : State) (la obj tp : Nat) (q : Req), (u.lineAccess la obj tp q).pins = u.pins := fun u la obj tp q =>
    pins_of_in (ft := State.lineAccess_foot) (State.lineAccess_in (In.refl _ u) (Foot.le_refl _)) (by decide)
  have hpeak : ∀ (u : State) (sl : Nat), (u.mrPeak sl).pins = u.pins := fun u sl =>
    pins_of_in (ft := State.mrPeak_foot) (State.mrPeak_in (In.refl _ u) (Foot.le_refl _)) (by decide)
  unfold State.serveHost
  refine pins_ite ((hunmapped _).trans (pins_ite (honce ..) rfl)) (pins_ite (pins_ite (State.acceptFence_pins ..) ?_) ?_)
  · exact (hread ..).trans (State.when_pins _ (hsf ..))
  obtain hw | ⟨⟨k, w⟩, hw⟩ := Option.eq_none_or_eq_some (s.window? r.link r.ld (r.dpa / 65536))
  · simp only [hw]
    exact hunmapped s
  simp only [hw]
  refine pins_ite ((hwrite _).trans (honce ..)) ?_
  obtain ho | ⟨o, ho⟩ := Option.eq_none_or_eq_some (s.own? w.obj)
  · simp only [ho]
    exact hunmapped s
  simp only [ho]
  generalize w.objPn + r.dpa / 65536 - k.2 = tp
  refine pins_ite (hunmapped s) ?_
  obtain hheld | ⟨why, hheld⟩ := Option.eq_none_or_eq_some (s.pageHeld w.obj tp (o.mapBase + tp))
  swap
  · simp only [hheld]
    exact State.hostWait_pins ..
  simp only [hheld]
  refine pins_ite (State.hostWait_pins ..) ?_
  generalize (if (r.wr && o.mirror) = true then s.mirWait w.obj else none) = held
  cases held with
  | some why => exact (State.hostWait_pins ..).trans (State.when_pins _ rfl)
  | none =>
    refine pins_ite (State.serveT1_pins ..) (pins_ite (hread ..) (pins_ite (State.leavingWb_pins ..) ?_))
    generalize hu : s.needPage w.obj tp (s.ldDom r.link r.ld) false = u
    replace hu : u.pins = s.pins := hu ▸ hneed ..
    refine pins_ite ?_ ((State.hostWait_pins ..).trans hu)
    split
    · exact (hline ..).trans hu
    · exact (hpeak ..).trans hu
    · exact (State.hostWait_pins ..).trans hu

theorem State.reserve_pins (s : State) (w : Wait) : (s.reserve w).pins = s.pins := by
  have hstall : ∀ u : State, (u.stallEnd w.dom).pins = u.pins := fun u =>
    pins_of_in (ft := State.stallEnd_foot) (State.stallEnd_in (In.refl _ u) (Foot.le_refl _)) (by decide)
  unfold State.reserve
  split
  · split
    · rfl
    · rw [State.serveHost_pins, hstall]
      split
      · exact State.benchRegs_pins ..
      · rfl
  · rfl

theorem State.creditBack_pins (s : State) (k : Nat) : (s.creditBack k).pins = s.pins := by
  unfold State.creditBack
  split
  · rfl
  · exact State.each_same (g := State.pins) _ _ State.serveHost_pins

theorem State.credits_pins (s : State) : s.credits.pins = s.pins :=
  State.each_same (g := State.pins) _ _ fun u k => (State.creditBack_pins _ _).trans
    (pins_of_in (ft := State.benchFill_foot) (State.benchFill_in (In.refl _ u) (Foot.le_refl _)) (by decide))

/-- Requests that are tried again leave the ports' pins. -/
theorem State.rerun_pins (s : State) (p : Wait → Bool) : (s.rerun p).pins = s.pins := by
  unfold State.rerun
  dsimp only
  exact (State.when_pins _ (State.credits_pins _)).trans (State.each_same (g := State.pins) _ _ State.reserve_pins)

end Sys2Proof.Machine
end

section
/-! Port resets, link training and PORT_OFFLINE (04_fabric_ports.md R83 to R86, R107, R108): O13. -/

namespace Sys2Proof.Machine

/-! ### The status fields of a link -/

section link
variable {s : State}

/-- A link whose fields clear is down. -/
theorem State.clearLink_down (hok : regsOk s.regs = true) (k : Nat) : (s.clearLink k).fli .PRT_LINK_STATUS_LINK_UP k = false := by
  have hup : (s.clearLink k).rdi .PRT_LINK_STATUS_LINK_UP k = (s.wri .PRT_LINK_STATUS_LINK_UP k 0).rdi .PRT_LINK_STATUS_LINK_UP k := by
    simp only [State.clearLink, State.each, List.foldl]
    rw [State.rdi_wri_ne _ (.inl (by decide)), State.rdi_wri_ne _ (.inl (by decide)), State.rdi_wri_ne _ (.inl (by decide)),
      State.rdi_wri_ne _ (.inl (by decide)), State.rdi_wri_ne _ (.inl (by decide)), State.rdi_wri_ne _ (.inl (by decide)),
      State.rdi_wri_ne _ (.inl (by decide)), State.rdi_wri_ne _ (.inl (by decide))]
  rw [State.fli, hup, State.rdi_wri_fit hok (f := .PRT_LINK_STATUS_LINK_UP) rfl (by decide)]
  rfl

theorem State.clearLink_only (s : State) (k : Nat) : Only [] (linkFlds.map fun f => (f, k)) s (s.clearLink k) :=
  Only.each (Only.refl _ _ _) fun _ _ hf h => h.wri (List.mem_map_of_mem hf)

theorem State.clearLink_rdi_ne (s : State) {k k' : Nat} (h : k' ≠ k) (f : Fld) : (s.clearLink k).rdi f k' = s.rdi f k' :=
  (s.clearLink_only k).regs f k' fun hm => by
    obtain ⟨g, _, hg⟩ := List.mem_map.1 hm
    exact h (congrArg Prod.snd hg).symm

theorem regsOk_clearLink (h : regsOk s.regs = true) (k : Nat) : regsOk (s.clearLink k).regs = true :=
  (State.clearLink_in (In.refl _ s) (Foot.le_refl _)).regsOk h

/-- A port whose two links clear is down, whatever changes beside the registers between them. -/
theorem State.clearLinks_down {u : State} (hok : regsOk s.regs = true) (port : Nat) (hu : u.regs = (s.clearLink (2 * port)).regs) {k : Nat}
    (hk : portOf k = port) : (u.clearLink (2 * port + 1)).fli .PRT_LINK_STATUS_LINK_UP k = false := by
  have hoku : regsOk u.regs = true := by rw [hu]; exact regsOk_clearLink hok _
  have hcases : k = 2 * port ∨ k = 2 * port + 1 := by rw [portOf] at hk; omega
  obtain rfl | rfl := hcases
  · exact (State.fli_eq ((State.clearLink_rdi_ne _ (by omega) _).trans (State.rdi_congr hu _ _))).trans (State.clearLink_down hok _)
  · exact State.clearLink_down hoku _

theorem regsOk_setRdy (h : regsOk s.regs = true) (p : Nat) (v : Bool) : regsOk (s.setRdy p v).regs = true :=
  (State.setRdy_in (In.refl _ s) (Foot.le_refl _)).regsOk h

theorem State.setRdy_parts (s : State) (p : Nat) (v : Bool) :
    (s.setRdy p v).prt = { s.prt with rdy := setBit s.prt.rdy p v } ∧
      (∃ w : State, w.regs = s.regs ∧ (s.setRdy p v).regs = ((w.setfi .MEM_ACTIVE (2 * p) v).setfi .MEM_ACTIVE (2 * p + 1) v).regs) := by
  refine ⟨?_, ({ s with prt := { s.prt with rdy := setBit s.prt.rdy p v } }).when (bit s.prt.rdy p != v) (·.send (.pin (rdyPin p) v)), ?_, rfl⟩
  · rw [State.setRdy, State.when]
    split <;> rfl
  · rw [State.when]
    split <;> rfl

/-- MEM_ACTIVE of a port's links mirrors its Pn_RDY (R105). -/
theorem State.setRdy_memActive (hok : regsOk s.regs = true) (p : Nat) (v : Bool) {k : Nat} (hk : portOf k = p) :
    (s.setRdy p v).fli .MEM_ACTIVE k = v := by
  obtain ⟨_, w, hw, hregs⟩ := s.setRdy_parts p v
  have hokw : regsOk w.regs = true := by rw [hw]; exact hok
  have hcases : k = 2 * p ∨ k = 2 * p + 1 := by rw [portOf] at hk; omega
  rw [State.fli_eq (State.rdi_congr hregs .MEM_ACTIVE k)]
  obtain rfl | rfl := hcases
  · refine (State.fli_eq (State.rdi_wri_ne _ (.inr (by omega)))).trans ?_
    exact State.fli_setfi hokw (f := .MEM_ACTIVE) rfl (by decide) _ _
  · exact State.fli_setfi (regsOk_setfi hokw ..) (f := .MEM_ACTIVE) rfl (by decide) _ _

theorem State.setRdy_rdy (s : State) (p : Nat) : bit (s.setRdy p false).prt.rdy p = false := by
  rw [(s.setRdy_parts p false).1]
  exact bit_setBit _ _ _

theorem State.setRdy_only (s : State) {p : Nat} (v : Bool) : Only [.prt, .out] [(.MEM_ACTIVE, 2 * p), (.MEM_ACTIVE, 2 * p + 1)] s (s.setRdy p v) := by
  rw [State.setRdy]
  dsimp only
  refine Only.setfi (Only.setfi (Only.when (Only.mk_prt (Only.refl _ _ _) (by decide)) (Only.send (Only.mk_prt (Only.refl _ _ _) ?_) ?_)) ?_) ?_ <;>
    simp

end link

/-! ### Queue pairs that fall silent -/

/-- Everything but the ports' part and the fields that a port's reset clears. -/
def offPort : Foot :=
  anywhere ^^^ (Part.prt.foot ||| Fld.PRT_LINK_STATUS_LINK_UP.foot ||| Fld.MEM_ACTIVE.foot)

/-- No request waits for an atomic switch. -/
def State.noAtomicWait (s : State) : Prop := ∀ w ∈ s.waits, w.why ≠ .atomic

/-- What a reset of a port must leave: DRAM, metadata, settles and the mirror. -/
def State.content (s : State) : SMap DLine × MetaData × StlS × MirS := (s.dram, s.md, s.stl, s.mir)

theorem content_of_in {ft : Foot} {s t : State} (h : In ft s t) (hd : Part.dram.foot.le ft = false) (hm : Part.md.foot.le ft = false)
    (hs : Part.stl.foot.le ft = false) (hi : Part.mir.foot.le ft = false) : t.content = s.content := by
  have hdram : t.dram = s.dram := h.parts .dram hd
  have hmd : t.md = s.md := h.parts .md hm
  have hstl : t.stl = s.stl := h.parts .stl hs
  have hmir : t.mir = s.mir := h.parts .mir hi
  rw [State.content, State.content, hdram, hmd, hstl, hmir]

/-- Nothing is tried again where no host request meets the test. -/
theorem State.rerun_none {s : State} {p : Wait → Bool} (h : ∀ w ∈ s.waits, p w = false) : s.rerun p = s := by
  unfold State.rerun
  extract_lets isHost sameLd first q go u
  have hf : first = [] := List.filter_eq_nil_iff.2 fun w hw => by simp [h w hw]
  have hq : ∀ w ∈ s.waits, q w = false := fun w hw => by
    show ((isHost w && p w) || (w.benched && w.why != .flt && first.any fun x => x.benched && sameLd x w)) = false
    rw [hf, h w hw]
    simp
  have hgo : go = [] := List.filter_eq_nil_iff.2 fun w hw => by simp [hq w hw]
  have hu : u = s := by
    show { s with waits := s.waits.filter fun w => !q w } = s
    rw [List.filter_eq_self.2 fun w hw => by simp [hq w hw]]
  rw [hgo, hu]
  rfl

theorem State.cmdRegs_off (s : State) : In offPort s s.cmdRegs := State.cmdRegs_in (In.refl _ s) (by decide)

/-- Commands that are forgotten leave the ports' pins. -/
theorem State.dropCmds_pins (s : State) (p : Cmd → Bool) : (s.dropCmds p).pins = s.pins := by
  have hstall : ∀ u : State, u.stallEnds.pins = u.pins := fun u =>
    pins_of_in (ft := State.stallEnds_foot) (State.stallEnds_in (In.refl _ u) (Foot.le_refl _)) (by decide)
  have hlocks : ∀ u : State, u.enterLocks.pins = u.pins := fun u =>
    pins_of_in (ft := State.enterLocks_foot) (State.enterLocks_in (In.refl _ u) (Foot.le_refl _)) (by decide)
  unfold State.dropCmds
  exact (State.rerun_pins _ _).trans ((hlocks _).trans (hstall _))

theorem State.dropCmds_eq (s : State) (p : Cmd → Bool) : ∃ v : State,
    s.dropCmds p = (v.stallEnds.enterLocks).rerun (fun w => w.why == Why.atomic) ∧ (∀ w ∈ v.waits, w ∈ s.waits) ∧ v.content = s.content :=
  ⟨_, rfl, fun _ hw => (List.mem_filter.1 hw).1, rfl⟩

/-- They try nothing again, and leave DRAM and what stands in it, where no request waits for an atomic switch. -/
theorem State.dropCmds_content {s : State} (h : s.noAtomicWait) (p : Cmd → Bool) :
    (s.dropCmds p).noAtomicWait ∧ (s.dropCmds p).content = s.content := by
  obtain ⟨v, heq, hsub, hcontent⟩ := s.dropCmds_eq p
  have hrest : In (State.stallEnds_foot ||| State.enterLocks_foot) v v.stallEnds.enterLocks :=
    State.enterLocks_in (State.stallEnds_in (In.refl _ v) (by decide)) (by decide)
  have hwaits : v.stallEnds.enterLocks.noAtomicWait := by
    intro w hw
    rw [hrest.parts .waits (by decide)] at hw
    exact h w (hsub w hw)
  rw [heq, State.rerun_none fun w hw => by simp [hwaits w hw]]
  exact ⟨hwaits, (content_of_in hrest (by decide) (by decide) (by decide) (by decide)).trans hcontent⟩

/-- What follows the commands' discarding when a queue pair falls silent. -/
def State.qpQuiet (s : State) (q : Nat) : State :=
  let s := { s with cmd := { s.cmd with cmds := s.cmd.cmds.map fun (c : Cmd) => if c.qp = q then { c with silent := true } else c } }
  (((s.setfi .QP_EN q false).setfi .RESET_BUSY q false).inflightReg q).cmdRegs

theorem State.qpSilence_eq (s : State) (q : Nat) :
    s.qpSilence q = if !s.fli .QP_EN q then s else (s.dropCmds fun c => c.qp == q && c.ph == .waiting).qpQuiet q := rfl

/-- The command engine's part and its registers. -/
def qpQuietFoot : Foot := Part.cmd.foot ||| Fld.QP_EN.foot ||| Fld.RESET_BUSY.foot ||| State.inflightReg_foot ||| State.cmdRegs_foot

theorem State.qpQuiet_in (s : State) (q : Nat) : In qpQuietFoot s (s.qpQuiet q) := by
  refine State.cmdRegs_in (State.inflightReg_in (State.setfi_in (State.setfi_in ?_ (by decide)) (by decide)) (by decide)) (by decide)
  exact (In.refl _ s).upd [.cmd] rfl rfl rfl (fun p hp => by cases p <;> first | rfl | simp at hp) (by decide)

theorem State.qpSilence_pins (s : State) (q : Nat) : (s.qpSilence q).pins = s.pins := by
  rw [State.qpSilence_eq]
  split
  · rfl
  · exact (pins_of_in (State.qpQuiet_in _ q) (by decide)).trans (State.dropCmds_pins _ _)

theorem State.qpSilence_content {s : State} (h : s.noAtomicWait) (q : Nat) :
    (s.qpSilence q).noAtomicWait ∧ (s.qpSilence q).content = s.content := by
  rw [State.qpSilence_eq]
  split
  · exact ⟨h, rfl⟩
  · obtain ⟨hwait, hcontent⟩ := State.dropCmds_content h fun c => c.qp == q && c.ph == .waiting
    refine ⟨?_, (content_of_in (State.qpQuiet_in _ q) (by decide) (by decide) (by decide) (by decide)).trans hcontent⟩
    rw [State.noAtomicWait, (State.qpQuiet_in _ q).parts .waits (by decide)]
    exact hwait

/-- All queue pairs given fall silent. -/
theorem State.qpsSilence_facts (s : State) (qs : List Nat) :
    (s.each qs State.qpSilence).pins = s.pins ∧ In State.qpSilence_foot s (s.each qs State.qpSilence) ∧
      (s.noAtomicWait → (s.each qs State.qpSilence).content = s.content) := by
  refine ⟨State.each_same (g := State.pins) _ _ State.qpSilence_pins, State.each_in (In.refl _ s) fun _ _ h =>
    State.qpSilence_in h (Foot.le_refl _), fun h => ?_⟩
  exact (State.each_inv (P := fun t => t.noAtomicWait ∧ t.content = s.content) qs ⟨h, rfl⟩ fun t q _ ht =>
    ⟨(State.qpSilence_content ht.1 q).1, (State.qpSilence_content ht.1 q).2.trans ht.2⟩).2

/-! ### PERST (R107, R109, R132) -/

/-- The registers of a port that a reset clears, after the fences of its GPF phase are forgotten. -/
def State.portClear (s : State) (port : Nat) : State :=
  let s := { s with fences := s.fences.filter fun f => f.src != FSrc.gpf port }.stallEnds
  let s := (s.clearLink (2 * port)).clearLink (2 * port + 1)
  let s := s.each (List.range 32) fun s n => s.wri .BENCHED (32 * port + n) 0
  (s.wri .BENCH_USED (2 * port) 0).wri .BENCH_USED (2 * port + 1) 0

/-- The fields of the bench and the stalls. -/
def portClearFoot : Foot := Part.fences.foot ||| State.stallEnds_foot ||| State.clearLink_foot ||| Fld.BENCHED.foot ||| Fld.BENCH_USED.foot

theorem State.portClear_in (s : State) (port : Nat) : In portClearFoot s (s.portClear port) := by
  have hfences : In portClearFoot s { s with fences := s.fences.filter fun f => f.src != FSrc.gpf port } :=
    (In.refl _ s).upd [.fences] rfl rfl rfl (fun p hp => by cases p <;> first | rfl | simp at hp) (by decide)
  exact State.wri_in (State.wri_in (State.each_in (State.clearLink_in (State.clearLink_in (State.stallEnds_in hfences (by decide))
    (by decide)) (by decide)) fun _ _ h => State.wri_in h (by decide)) (by decide)) (by decide)

theorem State.portClear_down {s : State} (hok : regsOk s.regs = true) (port : Nat) {k : Nat} (hk : portOf k = port) :
    (s.portClear port).fli .PRT_LINK_STATUS_LINK_UP k = false := by
  have hstall : regsOk (State.stallEnds { s with fences := s.fences.filter fun f => f.src != FSrc.gpf port }).regs = true :=
    (State.stallEnds_in (In.refl _ _) (Foot.le_refl _)).regsOk hok
  have hbench : In (Fld.BENCHED.foot ||| Fld.BENCH_USED.foot)
      (((State.stallEnds { s with fences := s.fences.filter fun f => f.src != FSrc.gpf port }).clearLink (2 * port)).clearLink (2 * port + 1))
      (s.portClear port) :=
    State.wri_in (State.wri_in (State.each_in (In.refl _ _) fun _ _ h => State.wri_in h (by decide)) (by decide)) (by decide)
  exact (State.fli_eq (hbench.regs _ k (by decide))).trans (State.clearLinks_down hstall port rfl hk)

/-- A reset of a port: first the port's own state is cleared, then its queue pairs fall silent. -/
theorem exec_perstAssert {s : State} {port : Nat} (hport : port < 4) : ∃ u : State,
    exec (.perstAssert port) s =
      .next ((u.portClear port).each ((u.portClear port).qpsOn fun k _ => portOf k == port) State.qpSilence) ∧
    u.prt.perst = setBit s.prt.perst port true ∧ bit u.prt.rdy port = false ∧
    (∃ v : State, v.regs = s.regs ∧ u.regs = (v.setRdy port false).regs) ∧ (∀ w ∈ u.waits, w ∈ s.waits) ∧ u.content = s.content := by
  rw [exec, execPerstAssert, if_neg (Nat.not_le.2 hport)]
  extract_lets on src v r
  have hperst : r.prt.perst = setBit s.prt.perst port true := congrArg PrtS.perst (v.setRdy_parts port false).1
  have hrdy : bit r.prt.rdy port = false := v.setRdy_rdy port
  have hin : In State.setRdy_foot v r := State.setRdy_in (In.refl _ v) (Foot.le_refl _)
  have hwaits : r.waits = s.waits := hin.parts .waits (by decide)
  have hcontent : r.content = v.content := content_of_in hin (by decide) (by decide) (by decide) (by decide)
  exact ⟨_, rfl, hperst, hrdy, ⟨v, rfl, rfl⟩, fun w hw => hwaits ▸ (List.mem_filter.1 hw).1, hcontent⟩

/-! ### Training (R84, R85) -/

theorem linkWidth_lt {lanes n w : Nat} (h : linkWidth lanes n = some w) : w < 2 ^ 5 := by
  have hall : ∀ x ∈ [16, 8, 4, 2, 1], x < 2 ^ 5 := by decide
  exact hall w (List.mem_of_find?_eq_some h)

theorem State.rateCap_le (s : State) (link : Nat) (flit256 : Bool) :
    s.rateCap link flit256 ≤ s.rdi .MAX_RATE (portOf link) ∧ (flit256 = false → s.rateCap link flit256 ≤ 4) := by
  rw [State.rateCap]
  cases flit256
  · exact ⟨by simp, fun _ => by simp⟩
  · exact ⟨by simp, by simp⟩

/-- A trained link's state. -/
def State.trained (s : State) (link rate width polarity : Nat) (reversed flit256 : Bool) : State :=
  let s := (s.setfi .PRT_LINK_STATUS_LINK_UP link true).wri .RATE link rate
  let s := ((s.wri .WIDTH link width).setfi .REVERSED link reversed).wri .POLARITY link polarity
  (s.setfi .FLIT256 link flit256).setfi .HDM_DB link flit256

theorem exec_linkUp {s : State} {link rate lanes polarity w : Nat} {reversed flit256 : Bool} (hlive : s.linkLive link = true)
    (hdown : s.fli .PRT_LINK_STATUS_LINK_UP link = false)
    (hw : linkWidth lanes (if s.fli .SPLIT_ACT (portOf link) then 8 else 16) = some w) :
    exec (.linkUp link rate lanes polarity reversed flit256) s =
      .next (s.trained link (min rate (s.rateCap link flit256)) w polarity reversed flit256) := by
  rw [exec, execLinkUp, if_neg (by simp [hlive, hdown])]
  simp only [hw]
  rfl

theorem State.trained_facts {s : State} (hok : regsOk s.regs = true) (link : Nat) {rate width : Nat} (hr : rate < 2 ^ 3) (hw : width < 2 ^ 5)
    (polarity : Nat) (reversed flit256 : Bool) :
    (s.trained link rate width polarity reversed flit256).fli .PRT_LINK_STATUS_LINK_UP link = true ∧
      (s.trained link rate width polarity reversed flit256).rdi .RATE link = rate ∧
      (s.trained link rate width polarity reversed flit256).rdi .WIDTH link = width ∧
      (s.trained link rate width polarity reversed flit256).fli .HDM_DB link = flit256 ∧
      Only [] (linkFlds.map fun f => (f, link)) s (s.trained link rate width polarity reversed flit256) := by
  have hok1 := regsOk_setfi hok .PRT_LINK_STATUS_LINK_UP link true
  have hok2 := regsOk_wri hok1 .RATE link rate
  have hok3 := regsOk_setfi (regsOk_wri (regsOk_setfi (regsOk_wri hok2 .WIDTH link width) .REVERSED link reversed) .POLARITY link polarity)
    .FLIT256 link flit256
  refine ⟨?_, ?_, ?_, ?_, ?_⟩
  · refine (State.fli_eq ?_).trans (State.fli_setfi hok (f := .PRT_LINK_STATUS_LINK_UP) rfl (by decide) link true)
    rw [State.trained, State.setfi_rdi_ne _ (by decide), State.setfi_rdi_ne _ (by decide), State.rdi_wri_ne _ (.inl (by decide)),
      State.setfi_rdi_ne _ (by decide), State.rdi_wri_ne _ (.inl (by decide)), State.rdi_wri_ne _ (.inl (by decide))]
  · rw [State.trained, State.setfi_rdi_ne _ (by decide), State.setfi_rdi_ne _ (by decide), State.rdi_wri_ne _ (.inl (by decide)),
      State.setfi_rdi_ne _ (by decide), State.rdi_wri_ne _ (.inl (by decide)), State.rdi_wri_fit hok1 (f := .RATE) rfl hr]
  · rw [State.trained, State.setfi_rdi_ne _ (by decide), State.setfi_rdi_ne _ (by decide), State.rdi_wri_ne _ (.inl (by decide)),
      State.setfi_rdi_ne _ (by decide), State.rdi_wri_fit hok2 (f := .WIDTH) rfl hw]
  · exact State.fli_setfi hok3 (f := .HDM_DB) rfl (by decide) link flit256
  · have hmem : ∀ f ∈ linkFlds, (f, link) ∈ linkFlds.map fun f => (f, link) := fun f hf => List.mem_map_of_mem hf
    exact (((((((Only.refl _ _ s).setfi (hmem _ (by decide))).wri (hmem _ (by decide))).wri (hmem _ (by decide))).setfi
      (hmem _ (by decide))).wri (hmem _ (by decide))).setfi (hmem _ (by decide))).setfi (hmem _ (by decide))

/-! ### PORT_OFFLINE (R86) -/

/-- A port's IDE streams end. -/
def State.endIde (s : State) (port : Nat) : State := { s with prt := { s.prt with ide := ideReset s.prt.ide port } }

/-- A port taken offline, once Pn_RDY has fallen. -/
def State.offlineLinks (s : State) (port : Nat) : State := ((s.clearLink (2 * port)).endIde port).clearLink (2 * port + 1)

theorem State.portOffline_true (s : State) (port : Nat) :
    s.portOffline port true = ((s.setfi .PORT_OFFLINE port true).setRdy port false).offlineLinks port := rfl

theorem State.endIde_regs (s : State) (port : Nat) : (s.endIde port).regs = s.regs := rfl

theorem State.endIde_rdy (s : State) (port : Nat) : (s.endIde port).prt.rdy = s.prt.rdy := rfl

theorem State.offlineLinks_facts {s : State} (hok : regsOk s.regs = true) (port : Nat) :
    (∀ k, portOf k = port → (s.offlineLinks port).fli .PRT_LINK_STATUS_LINK_UP k = false) ∧
      (s.offlineLinks port).prt.rdy = s.prt.rdy ∧
      Only [.prt] ((linkFlds.map fun f => (f, 2 * port)) ++ linkFlds.map fun f => (f, 2 * port + 1)) s (s.offlineLinks port) := by
  have hfirst := s.clearLink_only (2 * port)
  have hsecond := ((s.clearLink (2 * port)).endIde port).clearLink_only (2 * port + 1)
  refine ⟨fun k hk => State.clearLinks_down hok port (State.endIde_regs _ _) hk, ?_, ?_⟩
  · rw [State.offlineLinks, hsecond.prt_eq (by simp), State.endIde_rdy, hfirst.prt_eq (by simp)]
  · exact ((hfirst.mono (by simp) (List.subset_append_left _ _)).mk_prt (by simp)).step hsecond (by simp) (List.subset_append_right _ _)

/-! ### The obligation -/

theorem exec_perstRelease {s : State} {port : Nat} (hport : port < 4) (hin : bit s.prt.perst port = true) :
    exec (.perstRelease port) s = .next (State.wri { s with prt := { s.prt with
      perst := setBit s.prt.perst port false, stepped := mdel (mdel s.prt.stepped (2 * port, 0)) (2 * port + 1, 0),
      timedOut := setBit s.prt.timedOut port false } } .SPLIT_ACT port (s.rdi .SPLIT port)) := by
  rw [exec, execPerstRelease, if_neg (by simp [hin, hport])]
  rfl

theorem exec_portOfflineWrite {s : State} {port : Nat} (hrun : s.draining = false) (hport : port < 4) (v : Bool) :
    exec (.portOfflineWrite port v) s = .next (s.portOffline port v) := by
  rw [exec, execPortOfflineWrite, State.barWrite_of_running hrun, if_neg (Nat.not_le.2 hport)]

/-- Settles O13: queue pairs that fall silent try nothing again that could reach the port's pins, or DRAM where no request waits for a
switch. -/
theorem portResetAndTraining : Obligations.PortResetAndTraining := by
  unfold Obligations.PortResetAndTraining
  refine ⟨?assert, ?release, ?up, ?down, ?offline, ?online⟩
  case assert =>
    intro s port hport hinv
    obtain ⟨u, hexec, hperst, hrdy, ⟨v, hv, hregs⟩, hwaits, hcontent⟩ := exec_perstAssert (s := s) hport
    have hokv : regsOk v.regs = true := by rw [hv]; exact hinv.1
    have hoku : regsOk u.regs = true := by rw [hregs]; exact regsOk_setRdy hokv port false
    obtain ⟨hpins, hsil, hquiet⟩ := State.qpsSilence_facts (u.portClear port) ((u.portClear port).qpsOn fun k _ => portOf k == port)
    have hclear := u.portClear_in port
    have hprt : (u.portClear port).prt = u.prt := hclear.parts .prt (by decide)
    rw [State.pins, State.pins, hprt, Prod.mk.injEq] at hpins
    refine ⟨_, hexec, by rw [hpins.1, hperst]; exact bit_setBit _ _ _, by rw [hpins.2]; exact hrdy, fun k hk => ⟨?_, ?_⟩, fun hno => ?_⟩
    · exact (State.fli_eq (hsil.regs _ k (by decide))).trans (State.portClear_down hoku port hk)
    · rw [State.fli_eq (hsil.regs .MEM_ACTIVE k (by decide)), State.fli_eq (hclear.regs .MEM_ACTIVE k (by decide)),
        State.fli_eq (State.rdi_congr hregs .MEM_ACTIVE k)]
      exact State.setRdy_memActive hokv port false hk
    · have hnone : (u.portClear port).noAtomicWait := by
        rw [State.noAtomicWait, hclear.parts .waits (by decide)]
        exact fun w hw => hno w (hwaits w hw)
      have hall := (hquiet hnone).trans ((content_of_in hclear (by decide) (by decide) (by decide) (by decide)).trans hcontent)
      simpa only [State.content, Prod.mk.injEq] using hall
  case release =>
    intro s port hport hin hinv
    refine ⟨_, exec_perstRelease hport hin, bit_setBit _ _ _, ?_, Only.wri (Only.mk_prt (Only.refl _ _ s) (by simp)) (by simp)⟩
    exact State.rdi_wri_fit (s := { s with prt := _ }) hinv.1 (f := .SPLIT_ACT) rfl (State.rdi_full_lt hinv.1 (f := .SPLIT) rfl port) port
  case up =>
    intro s link rate lanes polarity w reversed flit256 hlive hdown hw hinv
    obtain ⟨hcap, hcap4⟩ := s.rateCap_le link flit256
    have hmax := State.rdi_plain_le hinv.1 (f := .MAX_RATE) rfl (portOf link)
    generalize hr : s.rateCap link flit256 = cap at hcap hcap4
    have hcap5 : cap ≤ 5 := hcap.trans hmax
    obtain ⟨hup, hrate, hwidth, hdb, honly⟩ := State.trained_facts hinv.1 link (rate := min rate cap) (width := w)
      (by omega) (linkWidth_lt hw) polarity reversed flit256
    refine ⟨_, by rw [exec_linkUp hlive hdown hw, hr], hup, ?_, ?_, fun h => ?_, hwidth, hdb, honly⟩ <;> rw [hrate]
    · omega
    · omega
    · have := hcap4 h
      omega
  case down =>
    intro s link hinv
    rw [exec, execLinkDown]
    cases h : s.fli .PRT_LINK_STATUS_LINK_UP link
    · exact ⟨s, rfl, h, Only.refl _ _ _⟩
    · exact ⟨s.setfi .PRT_LINK_STATUS_LINK_UP link false, rfl,
        State.fli_setfi hinv.1 (f := .PRT_LINK_STATUS_LINK_UP) rfl (by decide) link false, (Only.refl _ _ s).setfi (by simp)⟩
  case offline =>
    intro s port hport hrun hinv
    have hok := regsOk_setfi hinv.1 .PORT_OFFLINE port true
    obtain ⟨hdown, hrdy, honly⟩ := State.offlineLinks_facts (regsOk_setRdy hok port false) port
    have hfirst : Only [.prt, .out] ((.PORT_OFFLINE, port) :: portRegs port) s ((s.setfi .PORT_OFFLINE port true).setRdy port false) :=
      ((Only.refl _ _ s).setfi (by simp)).step (State.setRdy_only _ _) (by simp) (by intro x hx; simp [portRegs] at hx ⊢; tauto)
    refine ⟨_, by rw [exec_portOfflineWrite hrun hport, State.portOffline_true], ?_, by rw [hrdy]; exact State.setRdy_rdy _ _, hdown,
      hfirst.step honly (by simp) (by intro x hx; simp only [portRegs, List.mem_cons, List.mem_append] at hx ⊢; tauto)⟩
    have hkeep : ((s.setfi .PORT_OFFLINE port true).setRdy port false).fli .PORT_OFFLINE port = true :=
      (State.fli_eq ((State.setRdy_in (In.refl _ _) (Foot.le_refl _)).regs .PORT_OFFLINE port (by decide))).trans
        (State.fli_setfi hinv.1 (f := .PORT_OFFLINE) rfl (by decide) port true)
    refine (State.fli_eq (honly.regs .PORT_OFFLINE port ?_)).trans hkeep
    simp [linkFlds]
  case online =>
    intro s port hport hrun hinv
    exact ⟨s.setfi .PORT_OFFLINE port false, exec_portOfflineWrite hrun hport false,
      State.fli_setfi hinv.1 (f := .PORT_OFFLINE) rfl (by decide) port false, (Only.refl _ _ s).setfi (by simp)⟩

end Sys2Proof.Machine
end

section
/-! Downshift, retrain and the answers to snoops (04_fabric_ports.md R85, R92 to R94): O14. -/

namespace Sys2Proof.Machine

/-! ### Speed -/

/-- A link that recovered counts it. -/
def State.recovered (s : State) (link : Nat) : State := s.count .RETRAIN_CNT link .PRT_LINK_FLAGS_CNT_OVF link 0

/-- A link that steps down by one. -/
def State.downshift (s : State) (link : Nat) : State :=
  let s := s.wri .RATE link (s.rdi .RATE link - 1)
  let s := { s with prt := { s.prt with stepped := mput s.prt.stepped (link, 0) (s.rdi .RATE link) } }
  (s.record clsWarn 0 85 (item 3 link)).count .DOWNSHIFT_CNT link .PRT_LINK_FLAGS_CNT_OVF link 2

/-- What a recovery's count changes. -/
def recoveredFoot : Foot := Fld.RETRAIN_CNT.foot ||| Fld.PRT_LINK_FLAGS_CNT_OVF.foot ||| State.record_foot

theorem State.recovered_in (s : State) (link : Nat) : In recoveredFoot s (s.recovered link) :=
  State.count_in (In.refl _ s) (by decide) (by decide) (by decide)

theorem exec_linkRecoveryEntry {s : State} {link recent : Nat} (hup : s.fli .PRT_LINK_STATUS_LINK_UP link = true) :
    exec (.linkRecoveryEntry link recent) s =
      if s.fli .DOWNSHIFT_EN (portOf link) && decide (s.rdi .RETRAIN_LIMIT (portOf link) < recent) && decide (0 < s.rdi .RATE link)
      then .next ((s.recovered link).downshift link) else .next (s.recovered link) := by
  have hen := State.fli_eq ((s.recovered_in link).regs .DOWNSHIFT_EN (portOf link) (by decide))
  have hlimit := (s.recovered_in link).regs .RETRAIN_LIMIT (portOf link) (by decide)
  have hrate := (s.recovered_in link).regs .RATE link (by decide)
  rw [← hen, ← hlimit, ← hrate, exec, execLinkRecoveryEntry, if_neg (by simp [hup])]
  rfl

theorem State.downshift_rate {s : State} (hok : regsOk s.regs = true) (link : Nat) :
    (s.downshift link).rdi .RATE link = s.rdi .RATE link - 1 := by
  have hlt := State.rdi_full_lt hok (f := .RATE) rfl link
  rw [State.downshift, State.count_rdi_of_ne _ _ _ _ _ _ (by decide) (by decide) (by decide), State.record_rdi _ _ _ _ _ (by decide)]
  exact State.rdi_wri_fit hok (f := .RATE) rfl (show s.rdi .RATE link - 1 < _ by omega) link

/-! ### Snoops -/

/-- The snoops but those of a link for a line. -/
def State.endSnoops (s : State) (link la : Nat) : State :=
  { s with fch := { s.fch with snoops := s.fch.snoops.filter fun y => !(y.link == link && y.la == la) } }

theorem State.sfDrop_fch (s : State) (link la : Nat) :
    (s.sfDrop link la).fch.snoops = s.fch.snoops ∧ (s.sfDrop link la).fch.lines = s.fch.lines := by
  rw [State.sfDrop]
  split
  · exact ⟨rfl, rfl⟩
  · dsimp only
    split <;> exact ⟨rfl, rfl⟩

theorem State.sfDrop_only (s : State) (link la : Nat) : Only [.fch] [] s (s.sfDrop link la) := by
  rw [State.sfDrop]
  split
  · exact Only.refl _ _ _
  · dsimp only
    split <;> exact (Only.refl _ _ _).mk_fch (by simp)

/-- The next waiting snoop of a link is sent (R92). -/
def State.sendWaiting (s : State) (link : Nat) : State :=
  match s.fch.snoops.find? fun y => y.link == link && !y.sent with
  | some y =>
    ({ s with fch := { s.fch with snoops := s.fch.snoops.map fun z => if z = y then { z with sent := true } else z } }).send y.msg
  | none => s

theorem State.sendWaiting_none {s : State} (h : ∀ y ∈ s.fch.snoops, y.sent = true) (link : Nat) : s.sendWaiting link = s := by
  have hnone : (s.fch.snoops.find? fun y => y.link == link && !y.sent) = none :=
    List.find?_eq_none.2 fun y hy => by simp [h y hy]
  rw [State.sendWaiting, hnone]

theorem State.snoopEnd_eq (s : State) (x : Snoop) :
    s.snoopEnd x = ((s.endSnoops x.link x.la).each (List.range x.n) fun s i => s.sfDrop x.link (x.la + i)).sendWaiting x.link := rfl

/-- The end of a snoop where no snoop of its link is still to be sent. -/
theorem State.snoopEnd_facts {s : State} {x : Snoop} (hsent : ∀ y ∈ s.fch.snoops, y.sent = true) :
    (∀ y, y ∈ (s.snoopEnd x).fch.snoops ↔ y ∈ s.fch.snoops ∧ ¬(y.link = x.link ∧ y.la = x.la)) ∧
      (s.snoopEnd x).fch.lines = s.fch.lines ∧ Only [.fch] [] s (s.snoopEnd x) := by
  have hdrop : ∀ l : List Nat, let t := (s.endSnoops x.link x.la).each l fun s i => s.sfDrop x.link (x.la + i)
      t.fch.snoops = (s.endSnoops x.link x.la).fch.snoops ∧ t.fch.lines = s.fch.lines ∧ Only [.fch] [] s t := fun l =>
    ⟨State.each_same (g := fun s => s.fch.snoops) l _ fun s i => (s.sfDrop_fch _ _).1,
      State.each_same (g := fun s => s.fch.lines) l _ fun s i => (s.sfDrop_fch _ _).2,
      Only.each ((Only.refl _ _ s).mk_fch (by simp)) fun t i _ h => h.trans (t.sfDrop_only _ _)⟩
  obtain ⟨hsnoops, hlines, honly⟩ := hdrop (List.range x.n)
  have hmem : ∀ y, y ∈ (s.endSnoops x.link x.la).fch.snoops ↔ y ∈ s.fch.snoops ∧ ¬(y.link = x.link ∧ y.la = x.la) := fun y => by
    rw [State.endSnoops, List.mem_filter]
    simp only [Bool.not_eq_true', Bool.and_eq_false_iff, beq_eq_false_iff_ne, ne_eq, not_and_or]
  rw [State.snoopEnd_eq, State.sendWaiting_none fun y hy => hsent y ((hmem y).1 (hsnoops ▸ hy)).1]
  exact ⟨fun y => by rw [hsnoops]; exact hmem y, hlines, honly⟩

/-- A snoop that ends where nothing waits for snoops. -/
theorem State.snoopOver_eq {s : State} {x : Snoop} (hsent : ∀ y ∈ s.fch.snoops, y.sent = true) (hwaits : ∀ w ∈ s.waits, w.why ≠ .snoop)
    (hdc : s.prt.dcPend = []) : s.snoopOver x = s.snoopEnd x := by
  obtain ⟨_, _, honly⟩ := State.snoopEnd_facts (x := x) hsent
  have hw : ∀ w ∈ (s.snoopEnd x).waits, (w.why == .snoop) = false := fun w hw => by
    rw [honly.waits_eq (by simp)] at hw
    simp [hwaits w hw]
  rw [State.snoopOver, State.rerun_none hw, State.dcRun, honly.prt_eq (by simp), hdc]
  rfl

theorem State.sentSnoop_eq {s : State} {link la : Nat} {x : Snoop} (hx : x ∈ s.fch.snoops) (hlink : x.link = link) (hla : x.la = la)
    (hsent : x.sent = true) (hone : ∀ y ∈ s.fch.snoops, y.sent = true ∧ (y.link = link → y.la = la → y = x)) :
    s.sentSnoop link la = some x := by
  rw [State.sentSnoop]
  cases hf : s.fch.snoops.find? fun x => x.link == link && x.la == la && x.sent with
  | none => exact absurd (List.find?_eq_none.1 hf x hx) (by simp [hlink, hla, hsent])
  | some y =>
    have hy := List.find?_some hf
    simp only [Bool.and_eq_true, beq_iff_eq] at hy
    rw [(hone y (List.mem_of_find?_eq_some hf)).2 hy.1.1 hy.1.2]

/-- A snoop that times out, before it ends. -/
def State.snoopLost (s : State) (link la : Nat) (x : Snoop) : State :=
  let s := { s with prt := { s.prt with lost := s.prt.lost ++ (List.range x.n).map fun i => (link, la + i) } }
  let at' := s.ldOf link la
  let s := s.record clsError (s.ldDom link at'.1) 94 (item 3 (link + 8 * at'.1) ++ item 2 at'.2)
  (s.count .BI_TIMEOUT_CNT link .PRT_LINK_FLAGS_CNT_OVF link 1).alert blkPRT

/-- What a snoop's timeout may change beside the front cache. -/
def lostRegs (link : Nat) : List (Fld × Nat) :=
  (.BI_TIMEOUT_CNT, link) :: (.PRT_LINK_FLAGS_CNT_OVF, link) :: alertRegs ++ dbkRegs

/-- The lines of a snoop that timed out are marked lost, before it is recorded, counted and reported. -/
def State.markLost (s : State) (link la n : Nat) : State :=
  { s with prt := { s.prt with lost := s.prt.lost ++ (List.range n).map fun i => (link, la + i) } }

theorem State.snoopLost_only (s : State) (link la : Nat) (x : Snoop) :
    Only [.dbk, .glb, .out] (lostRegs link) (s.markLost link la x.n) (s.snoopLost link la x) :=
  Only.alert (Only.count (Only.record (Only.refl _ _ (s.markLost link la x.n)) (by simp) (by intro y hy; simp [lostRegs, hy])) (by simp)
    (by simp [lostRegs]) (by simp [lostRegs]) (by intro y hy; simp [lostRegs, hy])) (by simp) (by simp) (by intro y hy; simp [lostRegs, hy])

theorem exec_birsp {s : State} {link la : Nat} {x : Snoop} (h : s.sentSnoop link la = some x) (hwb : s.wbPending x = false) :
    exec (.birsp link la) s = .next (s.snoopOver x) := by
  simp only [exec, execBirsp, h, hwb, Bool.false_eq_true, if_false]

theorem exec_biTimeout {s : State} {link la : Nat} {x : Snoop} (h : s.sentSnoop link la = some x) :
    exec (.biTimeout link la) s = .next ((s.snoopLost link la x).snoopOver x) := by
  simp only [exec, execBiTimeout, h, State.snoopLost]

/-! ### The obligation -/

theorem exec_linkRetrain {s : State} {link rate : Nat} (hlive : s.linkLive link = true) (hup : s.fli .PRT_LINK_STATUS_LINK_UP link = true) :
    exec (.linkRetrain link rate) s = .next (State.wri { s with prt := { s.prt with stepped := mdel s.prt.stepped (link, 0) } } .RATE link
      (min rate (State.rateCap { s with prt := { s.prt with stepped := mdel s.prt.stepped (link, 0) } } link (s.fli .FLIT256 link)))) := by
  have hrun : s.draining = false := by
    rw [State.linkLive] at hlive
    simp only [Bool.and_eq_true, Bool.not_eq_true'] at hlive
    exact hlive.2
  rw [exec, execLinkRetrain, State.barWrite_of_running hrun, State.linkRetrain, if_pos (by rw [hlive, hup]; rfl)]
  rfl

/-- A link that retrains forgets the rate it stepped down to. -/
theorem State.rateCap_retrain {s : State} (hok : regsOk s.regs = true) (hwf : mwf s.prt.stepped = true) (link : Nat) :
    State.rateCap { s with prt := { s.prt with stepped := mdel s.prt.stepped (link, 0) } } link true = s.rdi .MAX_RATE (portOf link) := by
  have hmax : s.rdi .MAX_RATE (portOf link) ≤ 5 := State.rdi_plain_le hok (f := .MAX_RATE) rfl (portOf link)
  rw [State.rateCap]
  dsimp only
  rw [mget_mdel _ hwf]
  exact Nat.min_eq_left (Nat.le_trans hmax (by decide))

/-- Settles O14: a snoop that ends where every other one is sent and nothing waits for one sends and serves nothing. -/
theorem linkSpeedAndSnoops : Obligations.LinkSpeedAndSnoops := by
  unfold Obligations.LinkSpeedAndSnoops
  refine ⟨⟨?down, ?stay, ?retrain⟩, ?snoops⟩
  case down =>
    intro s link recent hup hinv hen hlimit hrate
    have hok := (s.recovered_in link).regsOk hinv.1
    refine ⟨(s.recovered link).downshift link, by rw [exec_linkRecoveryEntry hup, if_pos (by simp [hen, hlimit, hrate])], ?_, ?_⟩
    · rw [State.downshift_rate hok, (s.recovered_in link).regs .RATE link (by decide)]
    · have hcount : Only [.dbk, .prt] ((.RATE, link) :: (.RETRAIN_CNT, link) :: (.DOWNSHIFT_CNT, link) :: (.PRT_LINK_FLAGS_CNT_OVF, link) :: dbkRegs)
          s (s.recovered link) := Only.count (Only.refl _ _ _) (by simp) (by simp) (by simp) (by intro y hy; simp [hy])
      exact Only.count (Only.record (Only.mk_prt (hcount.wri (by simp)) (by simp)) (by simp) (by intro y hy; simp [hy])) (by simp) (by simp)
        (by simp) (by intro y hy; simp [hy])
  case stay =>
    intro s link recent hup hno
    refine ⟨s.recovered link, (exec_linkRecoveryEntry hup).trans (if_neg ?_), s.count_only _ _ _ _ _⟩
    rcases hno with hno | hno
    · simp [hno]
    · simp [Nat.not_lt.2 hno]
  case retrain =>
    intro s link rate hlive hup hflit hwf hinv
    refine ⟨_, exec_linkRetrain hlive hup, ?_, (Only.mk_prt (Only.refl _ _ s) (by simp)).wri (by simp)⟩
    rw [hflit, State.rateCap_retrain hinv.1 hwf]
    have hmax : s.rdi .MAX_RATE (portOf link) ≤ 5 := State.rdi_plain_le hinv.1 (f := .MAX_RATE) rfl (portOf link)
    exact State.rdi_wri_fit (s := { s with prt := _ }) hinv.1 (f := .RATE) rfl (show min rate _ < 2 ^ 3 by omega) link
  case snoops =>
    intro s link la x hx hlink hla hsent hone hwaits hwb hdc
    have hfound := State.sentSnoop_eq hx hlink hla hsent hone
    have hall : ∀ y ∈ s.fch.snoops, y.sent = true := fun y hy => (hone y hy).1
    refine ⟨?_, ?_⟩
    · obtain ⟨hmem, hlines, honly⟩ := State.snoopEnd_facts (x := x) hall
      rw [hlink, hla] at hmem
      exact ⟨s.snoopEnd x, by rw [exec_birsp hfound hwb, State.snoopOver_eq hall hwaits hdc], hmem, hlines, honly.waits_eq (by simp), honly⟩
    · have hlost := s.snoopLost_only link la x
      have hfch : (s.snoopLost link la x).fch = s.fch := hlost.fch_eq (by simp)
      have hprt : (s.snoopLost link la x).prt = (s.markLost link la x.n).prt := hlost.prt_eq (by simp)
      have hwait : (s.snoopLost link la x).waits = s.waits := hlost.waits_eq (by simp)
      have hall' : ∀ y ∈ (s.snoopLost link la x).fch.snoops, y.sent = true := by rw [hfch]; exact hall
      obtain ⟨hmem, hlines, honly⟩ := State.snoopEnd_facts (x := x) hall'
      rw [hlink, hla, hfch] at hmem
      rw [hfch] at hlines
      refine ⟨(s.snoopLost link la x).snoopEnd x, ?_, hmem, fun n hn => ?_, hlines, (honly.waits_eq (by simp)).trans hwait, ?_⟩
      · rw [exec_biTimeout hfound, State.snoopOver_eq hall' (by rw [hwait]; exact hwaits) (by rw [hprt]; exact hdc)]
      · rw [honly.prt_eq (by simp), hprt, State.markLost]
        exact List.mem_append_right _ (List.mem_map.2 ⟨n, List.mem_range.2 hn, rfl⟩)
      · exact ((Only.mk_prt (Only.refl _ _ s) (by simp)).step hlost (by simp) (fun y hy => hy)).step honly (by simp) (by simp)

end Sys2Proof.Machine
end

section
/-! HDM decoders, IDE, and the commands of the mailbox and the FM API (04_fabric_ports.md R81, R87, R90, R91, R95, R96): O15 and O16. -/

namespace Sys2Proof.Machine

/-! ### Decoders and IDE -/

theorem exec_hdmDecoderCommit {s : State} {link ld n base size ways gran : Nat} {lock : Bool} (hex : s.ldExists link ld = true) (hn : n < 2)
    (hfree : ∀ d, mget s.prt.hdm (ldIx link ld, n) = some d → d.locked = false) :
    exec (.hdmDecoderCommit link ld (n + 2 * b2n lock) base size ways gran) s =
      .next { s with prt := { s.prt with hdm := mput s.prt.hdm (ldIx link ld, n) ⟨base, size, ways, gran, hdmListed ways gran, !hdmListed ways gran, hdmListed ways gran && lock⟩ } } := by
  have hmod : (n + 2 * b2n lock) % 2 = n := by omega
  have hlock : decide (2 ≤ n + 2 * b2n lock) = lock := by
    cases lock
    · simpa using hn
    · simp
  have hlt : ¬4 ≤ n + 2 * b2n lock := by cases lock <;> simp only [b2n_true, b2n_false] <;> omega
  have hold : ((mget s.prt.hdm (ldIx link ld, n)).getD ⟨0, 0, 0, 0, false, false, false⟩).locked = false := by
    cases h : mget s.prt.hdm (ldIx link ld, n) with
    | none => rfl
    | some d => exact hfree d h
  rw [exec, execHdmDecoderCommit, hmod]
  dsimp only
  rw [hold, hlock, if_neg (by simp [hex, hlt])]

/-- A link's IDE entry with one stream's key delivered. -/
def Ide.keyed (x : Ide) (key : Nat) (isMem : Bool) : Ide :=
  if isMem then { x with memKey := key, memBad := false } else { x with ioKey := key, ioBad := false }

/-- The IDE flag of a stream. -/
def ideFld (isMem : Bool) : Fld := if isMem then .IDE_MEM else .IDE_IO

theorem State.ideFlag_facts {s : State} (hok : regsOk s.regs = true) (isMem b : Bool) (link : Nat) :
    (s.setfi (ideFld isMem) link b).fli (ideFld isMem) link = b := by
  cases isMem
  · exact State.fli_setfi hok (f := .IDE_IO) rfl (by decide) link b
  · exact State.fli_setfi hok (f := .IDE_MEM) rfl (by decide) link b

theorem exec_ideKmKeyProg {s : State} (hses : s.rd .SESSIONS ≠ 0) (link key : Nat) (isMem : Bool) :
    exec (.ideKmKeyProg link key isMem) s = .next (State.setfi { s with prt := { s.prt with
      ide := mput s.prt.ide (link, 0) (((mget s.prt.ide (link, 0)).getD ⟨0, 0, false, false⟩).keyed key isMem) } } (ideFld isMem) link true) := by
  rw [exec, execIdeKmKeyProg, if_neg hses]
  cases isMem <;> rfl

/-- A link's IDE entry with one stream insecure. -/
def Ide.failed (x : Ide) (isMem : Bool) : Ide := if isMem then { x with memBad := true } else { x with ioBad := true }

/-- A stream whose MAC failed is off. -/
def State.ideOff (s : State) (link : Nat) (isMem : Bool) : State :=
  State.setfi { s with prt := { s.prt with
    ide := mput s.prt.ide (link, 0) (((mget s.prt.ide (link, 0)).getD ⟨0, 0, false, false⟩).failed isMem) } } (ideFld isMem) link false

/-- The report of a failed MAC. -/
def State.ideTold (s : State) (link : Nat) : State :=
  ((s.count .GCM_FAIL_CNT 0 .CIP_FLAGS_CNT_OVF 0 0).count .IDE_FAIL_CNT link .PRT_LINK_FLAGS_CNT_OVF link 3).send (.rasError link)

theorem exec_ideMacFail (s : State) (link : Nat) (isMem : Bool) (tags : List Nat) :
    exec (.ideMacFail link isMem tags) s =
      .next (((s.ideOff link isMem).when isMem (·.dropHost fun r => r.link == link && tags.contains r.tag)).ideTold link) := by
  cases isMem <;> rfl

/-- The registers that the report of a failed MAC changes. -/
def ideRegs (link : Nat) : List (Fld × Nat) :=
  (.GCM_FAIL_CNT, 0) :: (.CIP_FLAGS_CNT_OVF, 0) :: (.IDE_FAIL_CNT, link) :: (.PRT_LINK_FLAGS_CNT_OVF, link) :: dbkRegs

theorem State.ideTold_only (s : State) (link : Nat) : Only [.dbk, .out] (ideRegs link) s (s.ideTold link) := by
  refine Only.send (Only.count (Only.count (Only.refl _ _ _) ?_ ?_ ?_ ?_) ?_ ?_ ?_ ?_) ?_ <;> simp [ideRegs]
  all_goals intro y hy; simp [hy]

/-- The requests that a test accepts are gone from every place where one waits. -/
theorem State.dropHost_facts (s : State) (p : HostReq → Bool) :
    (∀ w ∈ (s.dropHost p).waits, ∀ r, w.ent = .host r → p r = false) ∧ (s.dropHost p).fch.lines = s.fch.lines ∧
      Only [.waits, .fch, .prt] ((List.range 256).map fun d => (.STALLED, d)) s (s.dropHost p) := by
  unfold State.dropHost
  extract_lets hit src src' u
  have hu : Only [.waits, .fch, .prt] ((List.range 256).map fun d => (.STALLED, d)) s u :=
    ((Only.refl _ _ s).mk_waits (by simp)).upd rfl fun q hq => by cases q <;> first | rfl | simp at hq
  have hends : Only [] ((List.range 256).map fun d => (.STALLED, d)) u u.stallEnds := by
    refine Only.each (Only.refl _ _ _) fun t d hd h => ?_
    have hlt := List.mem_range.1 (List.mem_filter.1 hd).1
    rw [State.stallEnd]
    split
    · exact h
    · exact h.setfi (List.mem_map.2 ⟨d, List.mem_range.2 hlt, rfl⟩)
  refine ⟨fun w hw r hr => ?_, ?_, hu.step hends (by simp) (fun x hx => hx)⟩
  · rw [hends.waits_eq (by simp)] at hw
    have := (List.mem_filter.1 hw).2
    rw [hr] at this
    simpa using this
  · rw [hends.fch_eq (by simp)]

/-- Settles O15: a stream's flag, its entry and its requests each follow the key or the failure. -/
theorem decodersAndIde : Obligations.DecodersAndIde := by
  unfold Obligations.DecodersAndIde
  refine ⟨?decoder, ?key, ?fail⟩
  case decoder =>
    intro s link ld n base size ways gran lock hex hn hfree
    exact ⟨_, exec_hdmDecoderCommit hex hn hfree, mget_mput .., fun k hk => mget_mput_ne _ _ _ _ (Ne.symm hk),
      (Only.refl _ _ s).mk_prt (by simp)⟩
  case key =>
    intro s link key isMem hses hinv
    refine ⟨_, exec_ideKmKeyProg hses link key isMem, State.ideFlag_facts hinv.1 isMem true link, ⟨_, mget_mput .., ?_⟩,
      Only.setfi (Only.mk_prt (Only.refl _ _ s) (by simp)) (by simp [ideFld])⟩
    cases isMem <;> rfl
  case fail =>
    intro s link isMem tags hinv
    have htold := ((s.ideOff link isMem).when isMem (·.dropHost fun r => r.link == link && tags.contains r.tag)).ideTold_only link
    have hoff : Only [.prt] [(ideFld isMem, link)] s (s.ideOff link isMem) := Only.setfi (Only.mk_prt (Only.refl _ _ s) (by simp)) (by simp)
    have hflag : (s.ideOff link isMem).fli (ideFld isMem) link = false := State.ideFlag_facts hinv.1 isMem false link
    obtain ⟨hgone, hlines, hdrop⟩ := (s.ideOff link isMem).dropHost_facts fun r => r.link == link && tags.contains r.tag
    have hwhen : Only [.waits, .fch, .prt] ((List.range 256).map fun d => (.STALLED, d)) (s.ideOff link isMem)
        ((s.ideOff link isMem).when isMem (·.dropHost fun r => r.link == link && tags.contains r.tag)) := Only.when (Only.refl _ _ _) hdrop
    refine ⟨_, exec_ideMacFail s link isMem tags, ?_, ?_, ?_, ?_, ?_, ?_⟩
    · have hkeep := (htold.fli_eq (f := ideFld isMem) (i := link) (by cases isMem <;> simp [ideRegs, ideFld, dbkRegs])).trans
        ((hwhen.fli_eq (f := ideFld isMem) (i := link) (by cases isMem <;> simp [ideFld])).trans hflag)
      exact hkeep
    · rintro rfl w hw r hr ⟨hlink, htag⟩
      rw [htold.waits_eq (by simp)] at hw
      have := hgone w hw r hr
      simp [hlink, htag] at this
    · rintro rfl
      exact ⟨(htold.waits_eq (by simp)).trans rfl, (htold.fch_eq (by simp)).trans rfl⟩
    · rw [htold.fch_eq (by simp)]
      cases isMem
      · rfl
      · exact hlines
    · exact List.mem_append_right _ (List.mem_singleton.2 rfl)
    · have hin : ∀ x, x ∈ ideRegs link → x ∈ ((ideFld isMem, link) :: (.GCM_FAIL_CNT, 0) :: (.CIP_FLAGS_CNT_OVF, 0) :: (.IDE_FAIL_CNT, link) ::
          (.PRT_LINK_FLAGS_CNT_OVF, link) :: (List.range 256).map (fun d => (Fld.STALLED, d)) ++ dbkRegs) := by
        intro x hx
        simp only [ideRegs, List.mem_cons, List.mem_append] at hx ⊢
        tauto
      exact ((hoff.mono (by simp) (by intro x hx; rw [List.mem_singleton.1 hx]; exact List.mem_cons_self ..)).step hwhen (by simp) (by intro x hx; simp [hx])).step htold (by simp) hin

/-! ### Dynamic capacity (R91) -/

/-- An extent of an LD holds a block. -/
def Extent.at (e : Extent) (link ld b : Nat) : Bool := e.link == link && e.ld == ld && (decide (e.start ≤ b) && decide (b < e.start + e.len))

theorem State.hasBlock_eq (s : State) (link ld b : Nat) : s.hasBlock link ld b = s.md.extents.any (·.at link ld b) := by
  rw [State.hasBlock, State.extentsOf, List.any_filter]
  rfl

/-- What is left of an extent without another holds the blocks that the other does not hold. -/
theorem Extent.minus_at (e x : Extent) (link ld b : Nat) : (e.minus x).any (·.at link ld b) = (e.at link ld b && !x.at link ld b) := by
  obtain ⟨el, ed, es, en⟩ := e
  obtain ⟨xl, xd, xs, xn⟩ := x
  rw [Bool.eq_iff_iff]
  simp only [Extent.minus, Extent.at]
  split_ifs <;> simp <;> omega

/-- The state whose accepted extents have lost another. -/
theorem any_minus (es : List Extent) (x : Extent) (link ld b : Nat) :
    (es.flatMap fun e => e.minus x).any (·.at link ld b) = (es.any (·.at link ld b) && !x.at link ld b) := by
  rw [List.any_flatMap]
  simp only [Extent.minus_at]
  rw [Bool.eq_iff_iff]
  simp only [List.any_eq_true, Bool.and_eq_true]
  constructor
  · rintro ⟨e, he, h, hx⟩
    exact ⟨⟨e, he, h⟩, hx⟩
  · rintro ⟨⟨e, he, h⟩, hx⟩
    exact ⟨e, he, h, hx⟩

/-- A journal entry changes the metadata as its operations say, and writes no stored line. -/
theorem State.journal_md (s : State) (ops : List JOp) : (s.journal ops).md = ops.foldl JOp.apply s.md := by
  have hcharge : (s.chargeJPage s.jPage).md = s.md := by
    rw [State.chargeJPage]
    split <;> rfl
  rw [State.journal]
  exact congrArg (fun m => ops.foldl JOp.apply m) hcharge

theorem State.journal_frame (s : State) (ops : List JOp) : In State.journal_foot s (s.journal ops) :=
  State.journal_in (In.refl _ s) (Foot.le_refl _)

/-- The state after a change of the extents is journalled, before it is confirmed. -/
def State.extentsSet (s : State) (link ld : Nat) (es : List Extent) : State := (s.journal [.extents es]).dcRegs link ld

theorem State.extentsSet_facts {s : State} (link ld : Nat) (es : List Extent) :
    (s.extentsSet link ld es).md = { s.md with extents := es } ∧ (s.extentsSet link ld es).out = s.out ∧
      (s.extentsSet link ld es).dram = s.dram := by
  have hin : In (State.journal_foot ||| State.dcRegs_foot) s (s.extentsSet link ld es) :=
    State.dcRegs_in (State.journal_in (In.refl _ s) (by decide)) (by decide)
  exact ⟨State.journal_md s [.extents es], hin.parts .out (by decide), hin.parts .dram (by decide)⟩

theorem exec_dcAdd {s : State} {link ld start len : Nat} (hex : s.ldExists link ld = true) (hpos : 0 < len) (hj : s.canJournal = true)
    (hcap : s.rdi .LD_CAP_256M (ldIx link ld) ≤ start) (hend : start + len ≤ 2 ^ 19)
    (hnew : ∀ i, i < len → s.hasBlock link ld (start + i) = false) (hroom : (s.extentsOf link ld).length < 256) :
    exec (.initiateDynamicCapacityAdd link ld start len) s =
      .next ((s.extentsSet link ld (s.md.extents ++ [⟨link, ld, start, len⟩])).send (.fm 0x5604 stOk [])) := by
  have hany : ((List.range len).any fun i => s.hasBlock link ld (start + i)) = false :=
    List.any_eq_false.2 fun i hi => by simp [hnew i (List.mem_range.1 hi)]
  have hlen : (len == 0) = false := beq_eq_false_iff_ne.2 (by omega)
  rw [exec, execInitiateDynamicCapacityAdd]
  simp only [hex, hlen, Nat.not_lt.2 hcap, Nat.not_lt.2 hend, hany, Bool.not_true, decide_false, Bool.or_self, Bool.false_eq_true, if_false,
    Nat.not_le.2 hroom, hj, if_true]
  rfl

theorem exec_dcRelease {s : State} {link ld start len : Nat} (hpos : 0 < len) (hj : s.canJournal = true)
    (hall : ∀ i, i < len → s.hasBlock link ld (start + i) = true) (hwins : s.winsIn ⟨link, ld, start, len⟩ = [])
    (hnew : (false, (⟨link, ld, start, len⟩ : Extent)) ∉ s.prt.dcPend) :
    exec (.dynamicCapacityRelease link ld start len) s =
      .next ((s.extentsSet link ld (s.md.extents.flatMap fun e => e.minus ⟨link, ld, start, len⟩)).send (.fm 0x5605 stOk [])) := by
  have hblocks : ((List.range len).all fun i => s.hasBlock link ld (start + i)) = true :=
    List.all_eq_true.2 fun i hi => hall i (List.mem_range.1 hi)
  have hframes : s.extentFrames ⟨link, ld, start, len⟩ = [] := by rw [State.extentFrames, hwins]; rfl
  have hready : s.dcReady (false, ⟨link, ld, start, len⟩) = true := by
    rw [State.dcReady, hj, hframes]
    rfl
  have hrel : s.dcRelease ⟨link, ld, start, len⟩ =
      (s.extentsSet link ld (s.md.extents.flatMap fun e => e.minus ⟨link, ld, start, len⟩)).send (.fm 0x5605 stOk []) := by
    rw [State.dcRelease, hwins, hframes]
    rfl
  rw [exec, execDynamicCapacityRelease]
  dsimp only
  rw [if_neg (by rw [hblocks]; simp; omega), if_neg (by rwa [List.contains_iff_mem]), if_pos hready, hrel]

/-! ### Mailbox -/

theorem State.mem_poisonOf {s : State} {link ld : Nat} {e : Key × DLine} {f : Frame} {w : Key × Win} (he : e ∈ s.dram)
    (hst : e.2.st = .poison) (hf : s.frame? e.1.1 = some f) (hw : w ∈ s.winsAt (1024 * e.1.1)) (hld : w.1.1 = ldIx link ld) :
    (w.1.2 + f.tp - w.2.objPn) * 65536 + 64 * e.1.2 ∈ s.poisonOf link ld := by
  refine List.mem_flatMap.2 ⟨e, List.mem_filter.2 ⟨he, by simp [hst]⟩, ?_⟩
  simp only [hf]
  exact List.mem_map.2 ⟨w, List.mem_filter.2 ⟨hw, by simp [hld]⟩, rfl⟩

/-- A binding of an LD that is not enabled. -/
theorem State.bindLd_facts {s : State} (hok : regsOk s.regs = true) {link ld dom : Nat} (hregs : s.ldRegs link ld = true)
    (hoff : s.fli .LD_EN (ldIx link ld) = false) (hdom : dom < 256) :
    (s.bindLd link ld dom).rdi .PRT_LD_CFG_DOMAIN (ldIx link ld) = dom ∧ (s.bindLd link ld dom).ldRegs link ld = true ∧
      Only [] [(.PRT_LD_CFG_DOMAIN, ldIx link ld)] s (s.bindLd link ld dom) := by
  by_cases hsame : s.rdi .PRT_LD_CFG_DOMAIN (ldIx link ld) = dom
  · have heq : s.bindLd link ld dom = s := by simp [State.bindLd, hsame]
    rw [heq]
    exact ⟨hsame, hregs, Only.refl _ _ _⟩
  · have heq : s.bindLd link ld dom = s.wri .PRT_LD_CFG_DOMAIN (ldIx link ld) dom := by
      simp [State.bindLd, hregs, hsame, hoff]
    rw [heq]
    refine ⟨State.rdi_wri_fit hok (f := .PRT_LD_CFG_DOMAIN) rfl hdom _, ?_, (Only.refl _ _ s).wri (by simp)⟩
    rw [← hregs, State.ldRegs, State.ldRegs, State.fli_eq (State.rdi_wri_ne _ (.inl (by decide)))]

/-- Settles O16: each answer is its list; an extent's blocks are those held before and not named, or those and the new ones. -/
theorem mailboxAndFabricManager : Obligations.MailboxAndFabricManager := by
  unfold Obligations.MailboxAndFabricManager
  refine ⟨fun _ _ _ => rfl, ?events, ?poison, ?health, ?time, ?add, ?release, ?bind⟩
  case events =>
    intro s link ld
    refine ⟨_, _, rfl, rfl, fun e he => ⟨List.mem_flatMap.2 ⟨e, he, by simp⟩, List.mem_flatMap.2 ⟨e, he, by simp⟩⟩,
      (Only.refl _ _ s).send (by simp)⟩
  case poison =>
    intro s link ld
    exact ⟨_, _, rfl, rfl, fun e f w he hst hf hw hld => State.mem_poisonOf he hst hf hw hld, (Only.refl _ _ s).send (by simp)⟩
  case health =>
    intro s link ld
    exact ⟨_, _, rfl, rfl, (Only.refl _ _ s).send (by simp)⟩
  case time =>
    intro s v
    exact ⟨_, rfl, rfl, rfl, Only.send (Only.mk_prt (Only.refl _ _ s) (by simp)) (by simp)⟩
  case add =>
    intro s link ld start len hex hpos hinv hj hcap hend hnew hroom
    obtain ⟨hmd, hout, hdram⟩ := s.extentsSet_facts link ld (s.md.extents ++ [⟨link, ld, start, len⟩])
    have hcount : (s.extentsSet link ld (s.md.extents ++ [⟨link, ld, start, len⟩])).rdi .DC_EXTENTS (ldIx link ld) =
        (s.extentsOf link ld).length + 1 := by
      have hlen : ((s.journal [.extents (s.md.extents ++ [⟨link, ld, start, len⟩])]).extentsOf link ld).length = (s.extentsOf link ld).length + 1 := by
        have hmd' : (s.journal [.extents (s.md.extents ++ [⟨link, ld, start, len⟩])]).md.extents = s.md.extents ++ [⟨link, ld, start, len⟩] :=
          congrArg MetaData.extents (State.journal_md s _)
        rw [State.extentsOf, hmd', List.filter_append, List.length_append]
        simp [State.extentsOf]
      rw [State.extentsSet, State.dcRegs, hlen]
      exact State.rdi_wri_fit ((s.journal_frame _).regsOk hinv.1) (f := .DC_EXTENTS) rfl (show _ < 2 ^ 9 by omega) _
    exact ⟨_, exec_dcAdd hex hpos hj hcap hend hnew hroom, hmd, congrArg (· ++ _) hout, hcount, hdram⟩
  case release =>
    intro s link ld start len hpos hinv hj hall hwins hnew
    obtain ⟨hmd, hout, hdram⟩ := s.extentsSet_facts link ld (s.md.extents.flatMap fun e => e.minus ⟨link, ld, start, len⟩)
    have hblock : ∀ k j b, (s.extentsSet link ld (s.md.extents.flatMap fun e => e.minus ⟨link, ld, start, len⟩)).hasBlock k j b =
        (s.hasBlock k j b && !Extent.at ⟨link, ld, start, len⟩ k j b) := fun k j b => by
      rw [State.hasBlock_eq, hmd, any_minus, State.hasBlock_eq]
    refine ⟨_, exec_dcRelease hpos hj hall hwins hnew, fun i hi => ?_, congrArg (· ++ _) hout, fun k j b hout' => ?_,
      (congrArg MetaData.wins hmd).trans rfl, hdram⟩
    · have hin : Extent.at ⟨link, ld, start, len⟩ link ld (start + i) = true := by simp [Extent.at, hi]
      exact (hblock _ _ _).trans (by rw [hin]; simp)
    · have hnot : Extent.at ⟨link, ld, start, len⟩ k j b = false := by
        simp only [Extent.at, Bool.and_eq_false_iff, beq_eq_false_iff_ne, decide_eq_false_iff_not]
        omega
      exact (hblock _ _ _).trans (by rw [hnot]; simp)
  case bind =>
    intro s link ld dom hrun hregs hoff hdom hinv
    obtain ⟨hset, hregs', honly⟩ := State.bindLd_facts hinv.1 hregs hoff hdom
    have hexec : exec (.bindLdDomain link ld dom) s = .next ((s.bindLd link ld dom).send (.fm 0xC001 stOk [])) := by
      rw [exec, execBindLdDomain, State.barWrite_of_running hrun]
      simp [hregs', State.ldDom, hset]
    exact ⟨_, hexec, hset, congrArg (· ++ _) (honly.out_eq (by simp)), (honly.mono (by simp) (by simp)).send (by simp)⟩

end Sys2Proof.Machine
end

section
/-! Queue pairs: doorbells, enabling, resets and DMA errors (05_queues_and_doorbells.md R110 to R135): O17. -/

namespace Sys2Proof.Machine

/-! ### Commands that are forgotten -/

/-- The commands that a test accepts are out of the engine's tables. -/
def State.forget (s : State) (p : Cmd → Bool) : State :=
  { s with
    cmd := { s.cmd with
      cmds := s.cmd.cmds.filter fun c => !p c
      locks := s.cmd.locks.filter fun l => !((s.cmd.cmds.filter p).map (·.uid)).contains l.uid
      done := s.cmd.done.filter fun u => !((s.cmd.cmds.filter p).map (·.uid)).contains u }
    waits := s.waits.filter fun w => match w.ent with
      | .cmd u => !((s.cmd.cmds.filter p).map (·.uid)).contains u
      | _ => true }

/-- Without a request that waits for an atomic switch nothing is tried again. -/
theorem State.dropCmds_none {s : State} (h : s.noAtomicWait) (p : Cmd → Bool) : s.dropCmds p = (s.forget p).stallEnds.enterLocks := by
  have hrest : In (State.stallEnds_foot ||| State.enterLocks_foot) (s.forget p) (s.forget p).stallEnds.enterLocks :=
    State.enterLocks_in (State.stallEnds_in (In.refl _ (s.forget p)) (by decide)) (by decide)
  refine State.rerun_none (s := (s.forget p).stallEnds.enterLocks) fun w hw => ?_
  rw [hrest.parts .waits (by decide)] at hw
  simpa using h w (List.mem_filter.1 hw).1

/-- Entering locks changes no more of the commands than what they still need. -/
theorem State.enterLocks_map {β : Type} (g : Cmd → β) (hg : ∀ c, g { c with needLocks := 0 } = g c) (s : State) :
    s.enterLocks.cmd.cmds.map g = s.cmd.cmds.map g := by
  refine State.each_same (g := fun u : State => u.cmd.cmds.map g) _ s fun u c => ?_
  split
  · rfl
  · split
    · show (u.cmd.cmds.map _).map g = _
      rw [List.map_map]
      refine List.map_congr_left fun x _ => ?_
      show g (if x.uid = c.uid then { x with needLocks := 0 } else x) = g x
      split
      · exact hg x
      · rfl
    · rfl

theorem State.enterLocks_mem {s : State} {x : Cmd} (h : x ∈ s.enterLocks.cmd.cmds) :
    ∃ c ∈ s.cmd.cmds, c.qp = x.qp ∧ c.ph = x.ph ∧ c.uid = x.uid := by
  have hmap := State.enterLocks_map (fun c => (c.qp, c.ph, c.uid)) (fun _ => rfl) s
  have hx : (x.qp, x.ph, x.uid) ∈ s.cmd.cmds.map fun c => (c.qp, c.ph, c.uid) := hmap ▸ List.mem_map_of_mem h
  obtain ⟨c, hc, heq⟩ := List.mem_map.1 hx
  simp only [Prod.mk.injEq] at heq
  exact ⟨c, hc, heq.1, heq.2.1, heq.2.2⟩

theorem State.enterLocks_qps (s : State) : s.enterLocks.cmd.qps = s.cmd.qps := by
  refine State.each_same (g := fun u : State => u.cmd.qps) _ s fun u c => ?_
  split
  · rfl
  · split <;> rfl

/-- What ends with a discarded command changes the engine's part, the stalls and nothing else. -/
theorem State.dropCmds_cmds {s : State} (h : s.noAtomicWait) (p : Cmd → Bool) :
    (∀ x ∈ (s.dropCmds p).cmd.cmds, ∃ c ∈ s.cmd.cmds, p c = false ∧ c.qp = x.qp ∧ c.ph = x.ph ∧ c.uid = x.uid) ∧
      (s.dropCmds p).cmd.qps = s.cmd.qps := by
  have hstall : (s.forget p).stallEnds.cmd = (s.forget p).cmd :=
    (State.stallEnds_in (ft := State.stallEnds_foot) (In.refl _ (s.forget p)) (Foot.le_refl _)).parts .cmd (by decide)
  rw [State.dropCmds_none h, State.enterLocks_qps, hstall]
  refine ⟨fun x hx => ?_, rfl⟩
  obtain ⟨c, hc, hqp, hph, huid⟩ := State.enterLocks_mem hx
  rw [hstall] at hc
  have hc' := List.mem_filter.1 hc
  exact ⟨c, hc'.1, by simpa using hc'.2, hqp, hph, huid⟩

/-- The part of the state that forgetting commands may change where no request waits for an atomic switch. -/
def forgetFoot : Foot := Part.cmd.foot ||| Part.waits.foot ||| State.stallEnds_foot ||| State.enterLocks_foot

theorem State.dropCmds_forget {s : State} (h : s.noAtomicWait) (p : Cmd → Bool) : In forgetFoot s (s.dropCmds p) := by
  have hin : In forgetFoot s (s.forget p) :=
    In.upd (In.refl _ s) [.cmd, .waits] rfl rfl rfl (fun p hp => by cases p <;> first | rfl | simp at hp) (by decide)
  rw [State.dropCmds_none h]
  exact State.enterLocks_in (State.stallEnds_in hin (by decide)) (by decide)

/-! ### Entries of the queue pairs -/

@[simp] theorem State.qp_setQp (s : State) (q : Nat) (x : QpS) : (s.setQp q x).qp q = x := by
  rw [State.qp, State.setQp, mget_mput]; rfl

theorem State.setQp_only {ps : List Part} {fs : List (Fld × Nat)} {s t : State} (h : Only ps fs s t) (hp : .cmd ∈ ps) (q : Nat) (x : QpS) :
    Only ps fs s (t.setQp q x) := h.mk_cmd hp

/-- A ring index lies below the ring's size, which its 5-bit exponent bounds. -/
theorem ringIx_lt {s : State} (hok : regsOk s.regs = true) {f : Fld} (hf : f = .SQ_LOG2 ∨ f = .CQ_LOG2) {q t : Nat}
    (h : t < 2 ^ s.rdi f q) : t < 2 ^ 16 := by
  have hle : s.rdi f q ≤ 16 := by
    obtain rfl | rfl := hf
    · exact State.rdi_plain_le hok (f := .SQ_LOG2) rfl q
    · exact State.rdi_plain_le hok (f := .CQ_LOG2) rfl q
  exact Nat.lt_of_lt_of_le h (Nat.pow_le_pow_right (by decide) hle)

/-! ### Doorbells and QP_EN -/

theorem State.barWrite_pair {s : State} (hrun : s.draining = false) {q : Nat} (hq : q < 1024) (f : State → State) :
    (s.barWrite fun s => if 1024 ≤ q then s else f s) = f s := by
  rw [State.barWrite_of_running hrun, if_neg (Nat.not_le.2 hq)]

theorem exec_sqTailDoorbell {s : State} {q t : Nat} (hrun : s.draining = false) (hq : q < 1024) (hen : s.fli .QP_EN q = true)
    (hbusy : s.fli .RESET_BUSY q = false) (ht : t < s.sqN q)
    (hfwd : ringDist (s.rdi .SQ_TAIL q) (s.rdi .SQ_HEAD q) (s.sqN q) ≤ ringDist t (s.rdi .SQ_HEAD q) (s.sqN q)) :
    exec (.sqTailDoorbell q t) s = .next (s.wri .SQ_TAIL q t) := by
  rw [exec, execSqTailDoorbell, State.barWrite_of_running hrun, if_neg (by simp [Nat.not_le.2 hq, hen, hbusy])]
  exact congrArg Host.Outcome.next (if_neg (by simp [Nat.not_le.2 ht, Nat.not_lt.2 hfwd]))

theorem exec_cqHeadDoorbell {s : State} {q h : Nat} (hrun : s.draining = false) (hq : q < 1024) (hen : s.fli .QP_EN q = true)
    (hh : h < s.cqN q)
    (hfwd : ringDist h (s.rdi .CQ_HEAD q) (s.cqN q) ≤ ringDist (s.rdi .CQ_TAIL q) (s.rdi .CQ_HEAD q) (s.cqN q)) :
    exec (.cqHeadDoorbell q h) s = .next (s.wri .CQ_HEAD q h) := by
  rw [exec, execCqHeadDoorbell, State.barWrite_of_running hrun, if_neg (by simp [Nat.not_le.2 hq, hen])]
  exact congrArg Host.Outcome.next (if_neg (by simp [Nat.not_le.2 hh, Nat.not_lt.2 hfwd]))

/-- Fields at one index written in order. -/
def State.puts (s : State) (q : Nat) (l : List (Fld × Nat)) : State := s.each l fun s e => s.wri e.1 q e.2

theorem regsOk_puts {s : State} (hok : regsOk s.regs = true) (q : Nat) (l : List (Fld × Nat)) : regsOk (s.puts q l).regs = true :=
  State.each_inv (P := fun u => regsOk u.regs = true) l hok fun _ _ _ hu => regsOk_wri hu _ _ _

theorem State.puts_only {s : State} {q : Nat} {ps : List Part} {fs : List (Fld × Nat)} {l : List (Fld × Nat)} (h : ∀ e ∈ l, (e.1, q) ∈ fs) :
    Only ps fs s (s.puts q l) :=
  Only.each (Only.refl _ _ s) fun _ e he ht => ht.wri (h e he)

theorem State.puts_rdi_ne (s : State) (q : Nat) {l : List (Fld × Nat)} {f : Fld} (h : f ∉ l.map Prod.fst) (i : Nat) :
    (s.puts q l).rdi f i = s.rdi f i :=
  State.each_inv (P := fun u => u.rdi f i = s.rdi f i) l rfl fun _ e he hu =>
    (State.rdi_wri_ne _ (.inl fun heq => h (List.mem_map.2 ⟨e, he, heq⟩))).trans hu

/-- A field that is written once, with a value of its width, holds it. -/
theorem State.puts_rdi {s : State} (hok : regsOk s.regs = true) (q : Nat) {l : List (Fld × Nat)} (hnd : (l.map Prod.fst).Nodup) {f : Fld}
    {v : Nat} (hm : (f, v) ∈ l) (hf : f.full = true) (hv : v < 2 ^ f.spec.width) : (s.puts q l).rdi f q = v := by
  induction l generalizing s with
  | nil => simp at hm
  | cons e r ih =>
    rw [List.map_cons, List.nodup_cons] at hnd
    show ((s.wri e.1 q e.2).puts q r).rdi f q = v
    obtain rfl | hr := List.mem_cons.1 hm
    · rw [State.puts_rdi_ne _ _ hnd.1]
      exact State.rdi_wri_fit hok hf hv q
    · exact ih (regsOk_wri hok _ _ _) hnd.2 hr

/-- What enabling a queue pair writes (R110, R112). -/
def qpEnableList (k j a d : Nat) : List (Fld × Nat) :=
  [(.SQ_HEAD, 0), (.SQ_TAIL, 0), (.CQ_HEAD, 0), (.CQ_TAIL, 0), (.CQ_PHASE, 1), (.QP_OWNER_LINK, k), (.QP_OWNER_LD, j),
    (.QP_OWNER_ASSIGNED, a), (.QP_OWNER_DOMAIN, d), (.QP_EN, 1)]

theorem exec_qpEnWrite {s : State} {q : Nat} (hrun : s.draining = false) (hq : q < 1024) (hen : s.fli .QP_EN q = false)
    (hass : s.fli .CMD_QP_ASSIGN_ASSIGNED q = true)
    (hld : s.fli .LD_EN (ldIx (s.rdi .CMD_QP_ASSIGN_LINK q) (s.rdi .CMD_QP_ASSIGN_LD q)) = true) (hvec : s.rdi .MSIX_VEC q < 2048) :
    ∃ k j a, exec (.qpEnWrite q true) s = .next ((s.puts q (qpEnableList k j a
      (s.ldDom (s.rdi .CMD_QP_ASSIGN_LINK q) (s.rdi .CMD_QP_ASSIGN_LD q)))).setQp q ⟨0, 0, 0, 0, 0⟩) := by
  have hdom : (s.puts q [(.SQ_HEAD, 0), (.SQ_TAIL, 0), (.CQ_HEAD, 0), (.CQ_TAIL, 0)]).ldDom (s.rdi .CMD_QP_ASSIGN_LINK q)
      (s.rdi .CMD_QP_ASSIGN_LD q) = s.ldDom (s.rdi .CMD_QP_ASSIGN_LINK q) (s.rdi .CMD_QP_ASSIGN_LD q) := State.puts_rdi_ne _ _ (by decide) _
  rw [exec, execQpEnWrite, State.barWrite_pair hrun hq, State.qpEnWrite]
  simp only [hen, hass, hld, Nat.not_le.2 hvec, decide_false, Bool.not_true, Bool.or_false, Bool.false_eq_true, if_false]
  rw [← hdom]
  exact ⟨_, _, _, rfl⟩

theorem State.setQp_rdi (s : State) (q : Nat) (x : QpS) (f : Fld) (i : Nat) : (s.setQp q x).rdi f i = s.rdi f i := rfl

theorem State.qpEnable_values {s : State} (hok : regsOk s.regs = true) (q k j a : Nat) {d : Nat} (hd : d < 2 ^ 8) {x : QpS} :
    ((s.puts q (qpEnableList k j a d)).setQp q x).fli .QP_EN q = true ∧
    ((s.puts q (qpEnableList k j a d)).setQp q x).rdi .SQ_HEAD q = 0 ∧ ((s.puts q (qpEnableList k j a d)).setQp q x).rdi .SQ_TAIL q = 0 ∧
    ((s.puts q (qpEnableList k j a d)).setQp q x).rdi .CQ_HEAD q = 0 ∧ ((s.puts q (qpEnableList k j a d)).setQp q x).rdi .CQ_TAIL q = 0 ∧
    ((s.puts q (qpEnableList k j a d)).setQp q x).rdi .CQ_PHASE q = 1 ∧
    ((s.puts q (qpEnableList k j a d)).setQp q x).rdi .QP_OWNER_DOMAIN q = d := by
  have hput : ∀ f v, (f, v) ∈ qpEnableList k j a d → f.full = true → v < 2 ^ f.spec.width →
      ((s.puts q (qpEnableList k j a d)).setQp q x).rdi f q = v := fun f v hm hf hv => by
    rw [State.setQp_rdi]
    exact State.puts_rdi hok q (by simp [qpEnableList]) hm hf hv
  refine ⟨?_, hput _ _ (by simp [qpEnableList]) rfl (by decide), hput _ _ (by simp [qpEnableList]) rfl (by decide),
    hput _ _ (by simp [qpEnableList]) rfl (by decide), hput _ _ (by simp [qpEnableList]) rfl (by decide),
    hput _ _ (by simp [qpEnableList]) rfl (by decide), hput _ _ (by simp [qpEnableList]) rfl hd⟩
  rw [State.fli, hput .QP_EN 1 (by simp [qpEnableList]) rfl (by decide)]
  rfl

/-! ### Discarding and the end of a reset -/

/-- The last steps of a reset (steps 4 and 5 of Table 05.3) of a queue pair without interrupts. -/
def State.resetEnds (s : State) (q : Nat) : State :=
  let s := s.postCqe q ((s.qp q).disc + (s.qp q).ncut * 2 ^ 32) 0 ((s.qp q).rhead * 2 ^ 16 + 0x3E * 2 ^ 32)
  (((s.setfi .QP_EN q false).setfi .RESET_BUSY q false).setfi .QP_ERR q false).count .RESET_CNT 0 .CMD_FLAGS_CNT_OVF 0 1

theorem State.resetDone_ends {s : State} {q : Nat} (hbusy : s.fli .RESET_BUSY q = true) (hrun : s.draining = false)
    (hall : ∀ c ∈ s.cmdsOf q, c.ph = .waiting) (hint : s.fli .QP_CTRL_INT_EN q = false) : s.resetDone q = s.resetEnds q := by
  have hany : ((s.cmdsOf q).any fun c => c.ph != .waiting) = false := List.any_eq_false.2 fun c hc => by simp [hall c hc]
  have hint' : ∀ r0 r1 w2, (s.postCqe q r0 r1 w2).fli .QP_CTRL_INT_EN q = false := fun r0 r1 w2 =>
    (State.fli_eq ((State.postCqe_in (ft := State.postCqe_foot) (In.refl _ s) (Foot.le_refl _)).regs .QP_CTRL_INT_EN q (by decide))).trans hint
  unfold State.resetDone
  rw [if_pos (by rw [hbusy, hrun, hany]; rfl)]
  simp only [hint', Bool.false_eq_true, if_false]
  rfl

theorem State.postCqe_out (s : State) (q r0 r1 w2 : Nat) :
    (s.postCqe q r0 r1 w2).out = s.out ++ [Msg.cqe (s.rdi .CMD_QP_ASSIGN_LINK q) (s.rdi .CMD_QP_ASSIGN_LD q)
      (s.rdi .QP_CQ_BASE q * 4096 + 32 * s.rdi .CQ_TAIL q) q (s.rdi .CQ_TAIL q) [r0, r1, w2, q + s.rdi .CQ_PHASE q * 2 ^ 63]] := by
  unfold State.postCqe
  extract_lets t ph u t' v
  split <;> rfl

theorem State.resetEnds_out (s : State) (q : Nat) :
    (s.resetEnds q).out = (s.postCqe q ((s.qp q).disc + (s.qp q).ncut * 2 ^ 32) 0 ((s.qp q).rhead * 2 ^ 16 + 0x3E * 2 ^ 32)).out := by
  unfold State.resetEnds
  exact (State.count_in (ft := State.count_foot ||| Fld.RESET_CNT.foot ||| Fld.CMD_FLAGS_CNT_OVF.foot) (In.refl _ _) (by decide) (by decide)
    (by decide)).parts .out (by decide)

/-- A pair whose reset ended is neither enabled nor busy nor in error. -/
theorem State.resetEnds_flags {s : State} (hok : regsOk s.regs = true) (q : Nat) :
    (s.resetEnds q).fli .QP_EN q = false ∧ (s.resetEnds q).fli .RESET_BUSY q = false ∧ (s.resetEnds q).fli .QP_ERR q = false := by
  have key : ∀ u : State, regsOk u.regs = true →
      (((u.setfi .QP_EN q false).setfi .RESET_BUSY q false).setfi .QP_ERR q false).fli .QP_EN q = false ∧
      (((u.setfi .QP_EN q false).setfi .RESET_BUSY q false).setfi .QP_ERR q false).fli .RESET_BUSY q = false ∧
      (((u.setfi .QP_EN q false).setfi .RESET_BUSY q false).setfi .QP_ERR q false).fli .QP_ERR q = false := fun u hu => by
    have h1 := regsOk_setfi hu .QP_EN q false
    have h2 := regsOk_setfi h1 .RESET_BUSY q false
    refine ⟨?_, ?_, State.fli_setfi h2 (f := .QP_ERR) rfl (by decide) q false⟩
    · rw [State.fli_eq (State.setfi_rdi_ne _ (by decide) q false q), State.fli_eq (State.setfi_rdi_ne _ (by decide) q false q)]
      exact State.fli_setfi hu (f := .QP_EN) rfl (by decide) q false
    · rw [State.fli_eq (State.setfi_rdi_ne _ (by decide) q false q)]
      exact State.fli_setfi h1 (f := .RESET_BUSY) rfl (by decide) q false
  have hpost : regsOk (s.postCqe q ((s.qp q).disc + (s.qp q).ncut * 2 ^ 32) 0 ((s.qp q).rhead * 2 ^ 16 + 0x3E * 2 ^ 32)).regs = true :=
    (State.postCqe_in (ft := State.postCqe_foot) (In.refl _ s) (Foot.le_refl _)).regsOk hok
  obtain ⟨hen, hbusy, herr⟩ := key _ hpost
  have hcount : ∀ (u : State) (f : Fld), f ≠ .RESET_CNT → f ≠ .CMD_FLAGS_CNT_OVF → f ∉ dbkFlds →
      (u.count .RESET_CNT 0 .CMD_FLAGS_CNT_OVF 0 1).fli f q = u.fli f q := fun u f h1 h2 h3 =>
    State.fli_eq (State.count_rdi_of_ne u _ _ _ _ _ h1 h2 h3 q)
  unfold State.resetEnds
  exact ⟨(hcount _ .QP_EN (by decide) (by decide) (by decide)).trans hen, (hcount _ .RESET_BUSY (by decide) (by decide) (by decide)).trans hbusy,
    (hcount _ .QP_ERR (by decide) (by decide) (by decide)).trans herr⟩

/-- What discarding the waiting commands of a queue pair leaves. -/
theorem State.discardWaiting_forget {s : State} (h : s.noAtomicWait) (q : Nat) :
    In (forgetFoot ||| State.setQp_foot ||| State.inflightReg_foot) s (s.discardWaiting q) :=
  State.inflightReg_in (State.setQp_in ((State.dropCmds_forget h _).mono (by decide)) (by decide)) (by decide)

theorem State.discardWaiting_cmds {s : State} (h : s.noAtomicWait) (q : Nat) {c : Cmd} (hc : c ∈ (s.discardWaiting q).cmd.cmds) :
    ∃ x ∈ s.cmd.cmds, x.qp = c.qp ∧ x.ph = c.ph ∧ (c.qp = q → c.ph ≠ .waiting) := by
  obtain ⟨x, hx, hp, hqp, hph, -⟩ := (State.dropCmds_cmds h _).1 c hc
  refine ⟨x, hx, hqp, hph, fun hq hw => ?_⟩
  rw [hqp, hph, hq, hw] at hp
  simp at hp

theorem State.discardWaiting_qp (s : State) (h : s.noAtomicWait) (q : Nat) (hnone : s.cmdsOf q = []) : (s.discardWaiting q).qp q = s.qp q := by
  have hqps := (State.dropCmds_cmds h fun c => c.qp == q && c.ph == .waiting).2
  have hqp : (s.dropCmds fun c => c.qp == q && c.ph == .waiting).qp q = s.qp q := by rw [State.qp, State.qp, hqps]
  have hset : (s.discardWaiting q).qp q =
      { (s.dropCmds fun c => c.qp == q && c.ph == .waiting).qp q with
        disc := ((s.dropCmds fun c => c.qp == q && c.ph == .waiting).qp q).disc + ((s.cmdsOf q).filter fun c => c.ph == .waiting).length } :=
    State.qp_setQp _ q _
  rw [hset, hqp, hnone]
  rfl

/-- A queue pair at the first step of its reset, its waiting commands gone (step 1 of Table 05.3). -/
def State.resetBegun (s : State) (q : Nat) : State :=
  State.discardWaiting ((s.setfi .RESET_BUSY q true).setQp q
    { (s.setfi .RESET_BUSY q true).qp q with rhead := (s.setfi .RESET_BUSY q true).rdi .SQ_HEAD q, disc := 0, ncut := 0 }) q

theorem exec_qpReset {s : State} {q : Nat} (hrun : s.draining = false) (hq : q < 1024) (hen : s.fli .QP_EN q = true)
    (hbusy : s.fli .RESET_BUSY q = false) : exec (.qpReset q) s = .next ((s.resetBegun q).resetDone q).cmdRegs := by
  rw [exec, execQpReset, State.barWrite_pair hrun hq, State.qpReset, if_pos (by rw [hen, hbusy]; rfl), State.resetBegun]

/-- The state at that step: nothing of the pair waits, its entry names the head. -/
theorem State.resetBegun_facts {s : State} (h : s.noAtomicWait) {q : Nat} (hnone : s.cmdsOf q = []) (hok : regsOk s.regs = true) :
    In (forgetFoot ||| State.setQp_foot ||| State.inflightReg_foot ||| Fld.RESET_BUSY.foot) s (s.resetBegun q) ∧
    (s.resetBegun q).fli .RESET_BUSY q = true ∧ (s.resetBegun q).cmdsOf q = [] ∧
    (s.resetBegun q).qp q = ⟨(s.qp q).credit, (s.qp q).unsig, s.rdi .SQ_HEAD q, 0, 0⟩ := by
  have hhead : (s.setfi .RESET_BUSY q true).rdi .SQ_HEAD q = s.rdi .SQ_HEAD q := State.setfi_rdi_ne _ (by decide) q true q
  have hbegun : s.resetBegun q = ((s.setfi .RESET_BUSY q true).setQp q ⟨(s.qp q).credit, (s.qp q).unsig, s.rdi .SQ_HEAD q, 0, 0⟩).discardWaiting q := by
    rw [State.resetBegun, hhead]; rfl
  have hw : ((s.setfi .RESET_BUSY q true).setQp q ⟨(s.qp q).credit, (s.qp q).unsig, s.rdi .SQ_HEAD q, 0, 0⟩).noAtomicWait := h
  have hin1 : In (State.setQp_foot ||| Fld.RESET_BUSY.foot) s
      ((s.setfi .RESET_BUSY q true).setQp q ⟨(s.qp q).credit, (s.qp q).unsig, s.rdi .SQ_HEAD q, 0, 0⟩) :=
    State.setQp_in (State.setfi_in (In.refl _ s) (by decide)) (by decide)
  rw [hbegun]
  have hin2 := State.discardWaiting_forget hw q
  refine ⟨(hin1.mono (by decide)).trans (hin2.mono (by decide)), ?_, List.filter_eq_nil_iff.2 fun c hc => ?_,
    (State.discardWaiting_qp _ hw q hnone).trans (State.qp_setQp _ q _)⟩
  · exact (State.fli_eq (hin2.regs .RESET_BUSY q (by decide))).trans (State.fli_setfi hok (f := .RESET_BUSY) rfl (by decide) q true)
  · obtain ⟨x, hx, hqp, -⟩ := State.discardWaiting_cmds hw q hc
    have hne : ¬ (x.qp == q) = true := List.filter_eq_nil_iff.1 hnone x hx
    rwa [hqp] at hne

/-- A DMA error of a queue pair's ring (R133). -/
def State.ringFault (s : State) (q : Nat) : State :=
  (s.setfi .QP_ERR q true).record clsError (s.rdi .QP_OWNER_DOMAIN q) 133 (item 0xE q)

theorem exec_ringDmaError {s : State} {q : Nat} (hen : s.fli .QP_EN q = true) :
    exec (.ringDmaError q false) s = .next ((s.ringFault q).discardWaiting q).cmdRegs := by
  rw [exec, execRingDmaError, if_neg (by decide), if_neg (by simp [hen])]
  rfl

theorem State.ringFault_facts {s : State} (h : s.noAtomicWait) (hok : regsOk s.regs = true) (q : Nat) :
    In (forgetFoot ||| State.setQp_foot ||| State.inflightReg_foot ||| State.cmdRegs_foot ||| State.record_foot ||| Fld.QP_ERR.foot) s
      ((s.ringFault q).discardWaiting q).cmdRegs ∧
    ((s.ringFault q).discardWaiting q).cmdRegs.fli .QP_ERR q = true ∧
    ∀ c ∈ ((s.ringFault q).discardWaiting q).cmdRegs.cmd.cmds, c.qp = q → c.ph ≠ .waiting := by
  have hrec : In (State.record_foot ||| Fld.QP_ERR.foot) s (s.ringFault q) := State.record_in (State.setfi_in (In.refl _ s) (by decide)) (by decide)
  have hw : (s.ringFault q).noAtomicWait := fun w hm => h w (by rwa [hrec.parts .waits (by decide)] at hm)
  have hdis := State.discardWaiting_forget hw q
  have hregs : In State.cmdRegs_foot ((s.ringFault q).discardWaiting q) ((s.ringFault q).discardWaiting q).cmdRegs :=
    State.cmdRegs_in (In.refl _ _) (Foot.le_refl _)
  refine ⟨((hrec.mono (by decide)).trans (hdis.mono (by decide))).trans (hregs.mono (by decide)), ?_, fun c hc => ?_⟩
  · have herr : (s.ringFault q).fli .QP_ERR q = true :=
      (State.fli_eq (State.record_rdi _ _ _ _ _ (by decide) q)).trans (State.fli_setfi hok (f := .QP_ERR) rfl (by decide) q true)
    exact ((State.fli_eq (hregs.regs .QP_ERR q (by decide))).trans (State.fli_eq (hdis.regs .QP_ERR q (by decide)))).trans herr
  · rw [hregs.parts .cmd (by decide)] at hc
    obtain ⟨-, -, -, -, hne⟩ := State.discardWaiting_cmds hw q hc
    exact hne

/-! ### The obligation -/

/-- Settles O17: each of these commands writes the fields named of its queue pair; a reset with nothing in flight posts its entry with the
head that it captured, and a discarded command is one that waited. -/
theorem queuePairs : Obligations.QueuePairs := by
  unfold Obligations.QueuePairs
  refine ⟨?tail, ?head, ?enable, ?reset, ?dma, ?coalesce, ?peak⟩
  case tail =>
    intro s q t hrun hq hen hbusy hinv ht hfwd
    exact ⟨_, exec_sqTailDoorbell hrun hq hen hbusy ht hfwd,
      State.rdi_wri_fit hinv.1 (f := .SQ_TAIL) rfl (ringIx_lt hinv.1 (.inl rfl) ht) q, (Only.refl _ _ s).wri (by simp)⟩
  case head =>
    intro s q h hrun hq hen hinv hh hfwd
    exact ⟨_, exec_cqHeadDoorbell hrun hq hen hh hfwd,
      State.rdi_wri_fit hinv.1 (f := .CQ_HEAD) rfl (ringIx_lt hinv.1 (.inr rfl) hh) q, (Only.refl _ _ s).wri (by simp)⟩
  case enable =>
    intro s q hrun hq hen hass hld hvec hinv
    obtain ⟨k, j, a, hexec⟩ := exec_qpEnWrite hrun hq hen hass hld hvec
    obtain ⟨hen', hsh, hst, hch, hct, hph, howner⟩ := State.qpEnable_values hinv.1 q k j a
      (State.rdi_full_lt hinv.1 (f := .PRT_LD_CFG_DOMAIN) rfl (ldIx (s.rdi .CMD_QP_ASSIGN_LINK q) (s.rdi .CMD_QP_ASSIGN_LD q)))
    exact ⟨_, hexec, hen', hsh, hst, hch, hct, hph, howner,
      State.setQp_only (State.puts_only (by simp [qpEnableList])) (by simp) _ _⟩
  case reset =>
    intro s q hrun hq hen hbusy hint hnone hwait hinv
    obtain ⟨hin, hbusy', hnone', hqp⟩ := State.resetBegun_facts hwait hnone hinv.1
    have hends : (s.resetBegun q).resetDone q = (s.resetBegun q).resetEnds q :=
      State.resetDone_ends hbusy' ((draining_of_rdi (hin.regs .DRAINING 0 (by decide))).trans hrun) (by simp [hnone'])
        ((State.fli_eq (hin.regs .QP_CTRL_INT_EN q (by decide))).trans hint)
    have hregs : ∀ u : State, In State.cmdRegs_foot u u.cmdRegs := fun u => State.cmdRegs_in (In.refl _ u) (Foot.le_refl _)
    have hdone : In (State.resetDone_foot ||| State.cmdRegs_foot) (s.resetBegun q) ((s.resetBegun q).resetDone q).cmdRegs :=
      State.cmdRegs_in (State.resetDone_in (In.refl _ _) (by decide)) (by decide)
    obtain ⟨hen', hbusy'', herr⟩ := State.resetEnds_flags (hin.regsOk hinv.1) q
    rw [exec_qpReset hrun hq hen hbusy]
    refine ⟨_, rfl, ?_, ?_, ?_, ?_, (hdone.parts .dram (by decide)).trans (hin.parts .dram (by decide)),
      (hdone.parts .md (by decide)).trans (hin.parts .md (by decide))⟩
    · exact (State.fli_eq ((hregs _).regs .QP_EN q (by decide))).trans (by rw [hends]; exact hen')
    · exact (State.fli_eq ((hregs _).regs .RESET_BUSY q (by decide))).trans (by rw [hends]; exact hbusy'')
    · exact (State.fli_eq ((hregs _).regs .QP_ERR q (by decide))).trans (by rw [hends]; exact herr)
    · have hout : (s.resetBegun q).out = s.out := hin.parts .out (by decide)
      rw [(hregs _).parts .out (by decide), hends, State.resetEnds_out, State.postCqe_out, hqp, hout, hin.regs .CMD_QP_ASSIGN_LINK q (by decide),
        hin.regs .CMD_QP_ASSIGN_LD q (by decide), hin.regs .QP_CQ_BASE q (by decide), hin.regs .CQ_TAIL q (by decide),
        hin.regs .CQ_PHASE q (by decide)]
      simp only [Nat.zero_mul, Nat.add_zero]
  case dma =>
    intro s q hen hwait hinv
    obtain ⟨hin, herr, hcmds⟩ := State.ringFault_facts hwait hinv.1 q
    exact ⟨_, exec_ringDmaError hen, herr, hcmds, hin.regs .SQ_HEAD q (by decide), hin.parts .dram (by decide), hin.parts .md (by decide)⟩
  case coalesce =>
    intro s q hint hus hunsig
    have hexec : exec (.coalesceTimeout q) s = .next (s.qpMsix q) := by
      rw [exec, execCoalesceTimeout, if_pos (by simp [hint, hus, hunsig])]
    refine ⟨_, hexec, rfl, ?_, (State.setQp_only (Only.refl _ _ s) (by simp) _ _).send (by simp)⟩
    exact congrArg QpS.unsig (State.qp_setQp s q _)
  case peak =>
    intro s hrun hinv
    have hexec : exec .cmdStatusWrite s = .next (s.wr .LOCK_PEAK (s.rd .LOCK_USED)) := by
      rw [exec, execCmdStatusWrite, State.barWrite_of_running hrun]
    exact ⟨_, hexec, State.rd_wr hinv.1 (f := .LOCK_PEAK) rfl (State.rdi_full_lt hinv.1 (f := .LOCK_USED) rfl 0), (Only.refl _ _ s).wr (by simp)⟩

end Sys2Proof.Machine
end

section
/-! Fetching, dispatch, completion and the cut of a reset (05_queues_and_doorbells.md R115, R122 to R131): O18. -/

namespace Sys2Proof.Machine

/-! ### Fetching -/

/-- What identifies the commands of the engine: their queue pairs and their words. -/
def State.fetched (s : State) : List (Nat × List Nat) := s.cmd.cmds.map fun c => (c.qp, c.words)

theorem State.updCmd_fetched (s : State) (uid : Nat) {f : Cmd → Cmd} (hf : ∀ c, ((f c).qp, (f c).words) = (c.qp, c.words)) :
    (s.updCmd uid f).fetched = s.fetched := by
  show (s.cmd.cmds.map _).map _ = _
  rw [List.map_map]
  refine List.map_congr_left fun c _ => ?_
  show ((if c.uid = uid then f c else c).qp, (if c.uid = uid then f c else c).words) = (c.qp, c.words)
  split
  · exact hf c
  · rfl

theorem State.finishCmd_fetched (s : State) (uid : Nat) {f : Cmd → Cmd} (hf : ∀ c, ((f c).qp, (f c).words) = (c.qp, c.words)) :
    (s.finishCmd uid f).fetched = s.fetched := by
  unfold State.finishCmd
  split
  · exact State.updCmd_fetched s uid (f := fun c => { f c with ph := .finished }) hf
  · rfl

theorem State.enterLocks_fetched (s : State) : s.enterLocks.fetched = s.fetched :=
  State.enterLocks_map (fun c => (c.qp, c.words)) (fun _ => rfl) s

theorem fetched_of_cmd {s t : State} (h : t.cmd = s.cmd) : t.fetched = s.fetched := by rw [State.fetched, State.fetched, h]

/-- A fetched entry joins the engine's commands (R122). -/
theorem State.fetchSqe_fetched (s : State) (q : Nat) (ws : List Nat) : (s.fetchSqe q ws).fetched = s.fetched ++ [(q, ws)] := by
  unfold State.fetchSqe
  extract_lets op k j bad len isData t1 t2 c0 c cmd u l held
  have hu : u.fetched = s.fetched ++ [(q, ws)] := List.map_append
  clear_value u
  split
  · exact (State.finishCmd_fetched _ _ (by intro _; rfl)).trans hu
  · have hl : l.fetched = s.fetched ++ [(q, ws)] := (State.enterLocks_fetched u).trans hu
    unfold State.when
    split
    · exact (fetched_of_cmd ((State.count_only _ _ _ _ _ _).cmd_eq (by simp))).trans ((State.updCmd_fetched _ _ (by intro _; rfl)).trans hl)
    · exact hl

theorem State.fetchSqes_fetched (q : Nat) (f : Nat → List Nat) (l : List Nat) (s : State) :
    (s.each l fun s i => s.fetchSqe q (f i)).fetched = s.fetched ++ l.map fun i => (q, f i) := by
  induction l generalizing s with
  | nil => exact (List.append_nil _).symm
  | cons a r ih =>
    refine (ih (s.fetchSqe q (f a))).trans ?_
    rw [State.fetchSqe_fetched, List.append_assoc]
    rfl

/-- A fetch of n entries of a queue pair's ring (R111, R122). -/
theorem State.fetchN_facts {s : State} (hok : regsOk s.regs = true) (q n : Nat) (sqes : List (List Nat)) :
    (s.fetchN q n sqes).fetched = s.fetched ++ (List.range n).map (fun i => (q, sqes.getD i [])) ∧
    (s.fetchN q n sqes).rdi .SQ_HEAD q = (s.rdi .SQ_HEAD q + n) % s.sqN q := by
  have hin : ∀ u : State, In (State.fetchSqe_foot ||| Part.out.foot) s u →
      In (State.fetchSqe_foot ||| Part.out.foot) s (u.each (List.range n) fun s i => s.fetchSqe q (sqes.getD i [])) := fun u hu =>
    State.each_in hu fun v i hv => State.fetchSqe_in hv (by decide)
  unfold State.fetchN
  extract_lets u v w
  have hv : In (State.fetchSqe_foot ||| Part.out.foot) s v := hin u (State.send_in (In.refl _ s) (by decide))
  have hhead : v.rdi .SQ_HEAD q = s.rdi .SQ_HEAD q := hv.regs .SQ_HEAD q (by decide)
  have hsize : v.sqN q = s.sqN q := by rw [State.sqN, State.sqN, hv.regs .SQ_LOG2 q (by decide)]
  have hrest : In (State.inflightReg_foot ||| State.cmdRegs_foot) w (w.inflightReg q).cmdRegs :=
    State.cmdRegs_in (State.inflightReg_in (In.refl _ w) (by decide)) (by decide)
  have hlt : (s.rdi .SQ_HEAD q + n) % s.sqN q < s.sqN q := Nat.mod_lt _ (Nat.two_pow_pos _)
  constructor
  · rw [fetched_of_cmd (hrest.parts .cmd (by decide))]
    exact (State.fetchSqes_fetched q _ _ u).trans rfl
  · rw [hrest.regs .SQ_HEAD q (by decide), ← hhead, ← hsize]
    refine State.rdi_wri_fit (hv.regsOk hok) (f := .SQ_HEAD) rfl (ringIx_lt hok (.inl rfl) (q := q) ?_) q
    rw [hhead, hsize]
    exact hlt

theorem exec_sqeFetch {s : State} {q : Nat} (sqes : List (List Nat)) (hrun : s.draining = false) (hel : s.eligible q = true)
    (hsc : s.fli .CLASS_SC1 q = false) (hroom : s.waiting < 4096) :
    ∃ x, exec (.sqeFetch [q] sqes) s = .next ((s.fetchN q (s.fetchMax q) sqes).setQp q x) := by
  have hfind : [q].find? (fun q => s.eligible q && !s.fli .CLASS_SC1 q) = some q := by simp [hel, hsc]
  rw [exec, execSqeFetch, if_neg (by simp [hrun, Nat.not_le.2 hroom]), hfind]
  exact ⟨_, rfl⟩

/-! ### Dispatch -/

theorem State.metaWait_none {s : State} {c : Cmd} (h : isMetaOp (sqeOp c.words) = false) : s.metaWait c = none := by
  rw [State.metaWait, h]; rfl

theorem State.admitMeta_data {s : State} {c : Cmd} (h : isMetaOp (sqeOp c.words) = false) : s.admitMeta c = s := by
  rw [State.admitMeta, h]; rfl

/-- The command as dispatched (R124). -/
def State.dispatched (s : State) (c : Cmd) : State := (s.entGo (.cmd c.uid) c.dom).updCmd c.uid fun x => { x with ph := .running }

theorem exec_commandDispatch {s : State} {c : Cmd} (sgl : List SglE) (hrun : s.draining = false) (hcmds : s.cmd.cmds = [c])
    (hready : s.lockReady c = true) (hmeta : isMetaOp (sqeOp c.words) = false) (hsgl : sqeSgl c.words = false)
    (hsettle : sqeOp c.words ≠ opSettle) (hseal : sqeOp c.words ≠ opSeal) (hunseal : sqeOp c.words ≠ opUnseal)
    (hcheck : (s.dispatched c).stateCheck c = none) : exec (.commandDispatch false sgl) s = .next (s.dispatched c).cmdRegs := by
  have hph : c.ph = .waiting := by
    simp only [State.lockReady, Bool.and_eq_true, beq_iff_eq] at hready
    exact hready.1.1
  have hadmit : s.each [c] State.admitMeta = s := State.admitMeta_data hmeta
  have hnil : ∀ f : State → Cmd → State, s.each [] f = s := fun _ => rfl
  have hheld : ([c].filter fun c => s.lockReady c && (s.metaWait c).isSome) = [] := by simp [State.metaWait_none hmeta]
  have hfind : ([c].find? fun c => s.lockReady c && (s.metaWait c).isNone) = some c := by simp [hready, State.metaWait_none hmeta]
  have hcheck' : ((s.entGo (.cmd c.uid) c.dom).updCmd c.uid fun x => { x with ph := .running }).stateCheck c = none := hcheck
  rw [exec, execCommandDispatch, if_neg (by simp [hrun, hcmds, hph]), hcmds, hadmit]
  simp only [hcmds, hheld, hnil, hfind, hcheck', hsgl, hsettle, hseal, hunseal, Bool.false_eq_true, if_false, or_self]
  rfl

theorem State.entGo_only (s : State) (e : Ent) (d : Nat) : Only [.waits] [(.STALLED, d)] s (s.entGo e d) := by
  unfold State.entGo State.stallEnd
  exact Only.ite ((Only.refl _ _ s).mk_waits (by simp)) (((Only.refl _ _ s).mk_waits (by simp)).setfi (by simp))

theorem State.cmdRegs_only (s : State) : Only [] [(.EXEC_USED, 0), (.WAIT_USED, 0), (.LOCK_USED, 0), (.LOCK_PEAK, 0)] s s.cmdRegs :=
  ((((Only.refl _ _ s).wr (by simp)).wr (by simp)).wr (by simp)).wr (by simp)

theorem State.updCmd_one {s : State} {c : Cmd} (h : s.cmd.cmds = [c]) (f : Cmd → Cmd) : (s.updCmd c.uid f).cmd.cmds = [f c] := by
  show s.cmd.cmds.map _ = _
  rw [h, List.map_singleton, if_pos rfl]

/-- The only command ends. -/
theorem State.finishCmd_one {s : State} {c : Cmd} (h : s.cmd.cmds = [c]) (hph : c.ph ≠ .finished) (f : Cmd → Cmd) :
    (s.finishCmd c.uid f).cmd.cmds = [{ f c with ph := .finished }] ∧ (s.finishCmd c.uid f).cmd.done = s.cmd.done ++ [c.uid] ∧
      (s.finishCmd c.uid f).cmd.qps = s.cmd.qps := by
  have hany : (s.cmd.cmds.any fun x => x.uid == c.uid && x.ph != .finished) = true := by simp [h, hph]
  rw [State.finishCmd, if_pos hany]
  exact ⟨State.updCmd_one h _, rfl, rfl⟩

theorem State.dispatched_facts (s : State) {c : Cmd} (hcmds : s.cmd.cmds = [c]) :
    (s.dispatched c).cmdRegs.cmd.cmds = [{ c with ph := .running }] ∧ Only [.waits, .cmd] (cmdFlds c.dom) s (s.dispatched c).cmdRegs := by
  have hent : (s.entGo (.cmd c.uid) c.dom).cmd.cmds = [c] := (congrArg CmdS.cmds ((s.entGo_only _ _).cmd_eq (by simp))).trans hcmds
  have hgo : Only [.waits, .cmd] (cmdFlds c.dom) s (s.dispatched c) :=
    Only.mk_cmd ((s.entGo_only (.cmd c.uid) c.dom).mono (by simp) (by simp [cmdFlds])) (by simp)
  refine ⟨?_, hgo.step (State.cmdRegs_only _) (by simp) (by simp [cmdFlds])⟩
  rw [(State.cmdRegs_only _).cmd_eq (by simp)]
  exact State.updCmd_one hent _

/-! ### Completion -/

/-- With no command left no lock is entered. -/
theorem State.enterLocks_none {s : State} (h : s.cmd.cmds = []) : s.enterLocks = s := by rw [State.enterLocks, h]; rfl

/-- Command c alone posted, without an interrupt: it leaves the tables and its entry is written (R115, R126). -/
def State.posted (s : State) (c : Cmd) : State :=
  ((s.forget fun x => x.uid == c.uid).stallEnds).postCqe c.qp c.r0 c.r1 (sqeCid c.words + ((s.forget fun x => x.uid == c.uid).stallEnds).rdi .SQ_HEAD c.qp * 2 ^ 16 +
    c.status * 2 ^ 32 + sqeOp c.words * 2 ^ 40 + b2n c.cut * 2 ^ 48)

theorem State.forget_in (s : State) (p : Cmd → Bool) : In (Part.cmd.foot ||| Part.waits.foot ||| State.stallEnds_foot) s (s.forget p).stallEnds := by
  have hin : In (Part.cmd.foot ||| Part.waits.foot ||| State.stallEnds_foot) s (s.forget p) :=
    In.upd (In.refl _ s) [.cmd, .waits] rfl rfl rfl (fun p hp => by cases p <;> first | rfl | simp at hp) (by decide)
  exact State.stallEnds_in hin (by decide)

/-- The tables after it: nothing is left of the command. -/
theorem State.posted_facts {s : State} {c : Cmd} (hcmds : s.cmd.cmds = [c]) (hdone : s.cmd.done = [c.uid]) :
    (s.posted c).cmd.cmds = [] ∧ (s.posted c).cmd.done = [] ∧ (∀ l ∈ (s.posted c).cmd.locks, l.uid ≠ c.uid) ∧
    In (Part.cmd.foot ||| Part.waits.foot ||| State.stallEnds_foot ||| State.postCqe_foot) s (s.posted c) ∧
    (∀ w ∈ (s.posted c).waits, w ∈ s.waits) ∧
    (s.posted c).out = s.out ++ [Msg.cqe (s.rdi .CMD_QP_ASSIGN_LINK c.qp) (s.rdi .CMD_QP_ASSIGN_LD c.qp)
      (s.rdi .QP_CQ_BASE c.qp * 4096 + 32 * s.rdi .CQ_TAIL c.qp) c.qp (s.rdi .CQ_TAIL c.qp) [c.r0, c.r1, sqeCid c.words + s.rdi .SQ_HEAD c.qp * 2 ^ 16 +
        c.status * 2 ^ 32 + sqeOp c.words * 2 ^ 40 + b2n c.cut * 2 ^ 48, c.qp + s.rdi .CQ_PHASE c.qp * 2 ^ 63]] := by
  have hin := s.forget_in fun x => x.uid == c.uid
  have hgone : ([c].filter fun x => x.uid == c.uid).map (·.uid) = [c.uid] := by simp
  have hcmd : ((s.forget fun x => x.uid == c.uid).stallEnds).cmd = (s.forget fun x => x.uid == c.uid).cmd :=
    (State.stallEnds_in (ft := State.stallEnds_foot) (In.refl _ (s.forget fun x => x.uid == c.uid)) (Foot.le_refl _)).parts .cmd (by decide)
  have hwaits : ((s.forget fun x => x.uid == c.uid).stallEnds).waits = (s.forget fun x => x.uid == c.uid).waits :=
    (State.stallEnds_in (ft := State.stallEnds_foot) (In.refl _ (s.forget fun x => x.uid == c.uid)) (Foot.le_refl _)).parts .waits (by decide)
  have hpost : ∀ (u : State) (r0 r1 w2 : Nat), In State.postCqe_foot u (u.postCqe c.qp r0 r1 w2) := fun u _ _ _ =>
    State.postCqe_in (In.refl _ u) (Foot.le_refl _)
  have hcmd' : (s.posted c).cmd = (s.forget fun x => x.uid == c.uid).cmd := ((hpost _ _ _ _).parts .cmd (by decide)).trans hcmd
  have hwaits' : (s.posted c).waits = (s.forget fun x => x.uid == c.uid).waits := ((hpost _ _ _ _).parts .waits (by decide)).trans hwaits
  refine ⟨?_, ?_, fun l hl => ?_, (hin.mono (by decide)).trans ((hpost _ _ _ _).mono (by decide)), fun w hw => ?_, ?_⟩
  · rw [hcmd']
    exact List.filter_eq_nil_iff.2 fun x hx => by simp_all
  · rw [hcmd']
    exact List.filter_eq_nil_iff.2 fun u hu => by
      rw [hdone] at hu
      rw [hcmds, hgone]
      simpa using hu
  · rw [hcmd'] at hl
    have hl' := (List.mem_filter.1 hl).2
    rw [hcmds, hgone] at hl'
    simpa using hl'
  · rw [hwaits'] at hw
    exact (List.mem_filter.1 hw).1
  · rw [State.posted, State.postCqe_out, hin.parts .out (by decide), hin.regs .CMD_QP_ASSIGN_LINK c.qp (by decide),
      hin.regs .CMD_QP_ASSIGN_LD c.qp (by decide), hin.regs .QP_CQ_BASE c.qp (by decide), hin.regs .CQ_TAIL c.qp (by decide),
      hin.regs .CQ_PHASE c.qp (by decide), hin.regs .SQ_HEAD c.qp (by decide)]

theorem State.resetDone_idle {s : State} {q : Nat} (h : s.fli .RESET_BUSY q = false) : s.resetDone q = s := by
  rw [State.resetDone, h]; rfl

theorem exec_commandComplete {s : State} {c : Cmd} (hrun : s.draining = false) (hcmds : s.cmd.cmds = [c]) (hdone : s.cmd.done = [c.uid])
    (hsilent : c.silent = false) (hnoint : sqeNoInt c.words = true) (hlate : c.late = false) (hbusy : s.fli .RESET_BUSY c.qp = false)
    (hwait : s.noAtomicWait) : exec .commandComplete s = .next ((s.posted c).inflightReg c.qp).cmdRegs := by
  obtain ⟨hnone, -, -, hin, hsub, -⟩ := State.posted_facts hcmds hdone
  have hforget := s.forget_in fun x => x.uid == c.uid
  have hcmd : ((s.forget fun x => x.uid == c.uid).stallEnds).cmd.cmds = [] := by
    have h := hnone
    rw [State.posted, (State.postCqe_in (ft := State.postCqe_foot) (In.refl _ _) (Foot.le_refl _)).parts .cmd (by decide)] at h
    exact h
  have hdrop : (s.dropCmds fun x => x.uid == c.uid) = (s.forget fun x => x.uid == c.uid).stallEnds := by
    rw [State.dropCmds_none hwait, State.enterLocks_none hcmd]
  have hrun' : ((s.forget fun x => x.uid == c.uid).stallEnds).draining = false :=
    (draining_of_rdi (hforget.regs .DRAINING 0 (by decide))).trans hrun
  have hfind : s.cmd.cmds.find? (fun x => x.uid == c.uid) = some c := by simp [hcmds]
  have hafter : (s.posted c).settleAfter c.qp = s.posted c := by
    rw [State.settleAfter, State.cmdsOf, hnone]; rfl
  have hrefl : In State.inflightReg_foot (s.posted c) ((s.posted c).inflightReg c.qp) := State.inflightReg_in (In.refl _ _) (Foot.le_refl _)
  have hrerun : ((s.posted c).inflightReg c.qp).rerun (fun w => w.why == .atomic) = (s.posted c).inflightReg c.qp :=
    State.rerun_none fun w hw => by
      rw [hrefl.parts .waits (by decide)] at hw
      simpa using hwait w (hsub w hw)
  have hidle : ((s.posted c).inflightReg c.qp).resetDone c.qp = (s.posted c).inflightReg c.qp :=
    State.resetDone_idle ((State.fli_eq ((hrefl.regs .RESET_BUSY c.qp (by decide)).trans (hin.regs .RESET_BUSY c.qp (by decide)))).trans hbusy)
  rw [exec, execCommandComplete, hdone]
  simp only [hfind, hdrop, hsilent, hrun', hnoint, hlate, Bool.false_and, Bool.or_self, Bool.false_eq_true, if_false, if_true]
  show Host.Outcome.next (((((s.posted c).enterLocks.settleAfter c.qp).inflightReg c.qp).rerun fun w => w.why == .atomic).resetDone c.qp).cmdRegs = _
  rw [State.enterLocks_none hnone, hafter, hrerun, hidle]

/-! ### The cut of a reset -/

/-- How a command that is cut ends (R131, R139). -/
def Cmd.asCut (c : Cmd) : Cmd :=
  if c.fails = 0 then { c with cut := true, r0 := 0 }
  else { c with cut := true, status := 0x30, detail := c.failDet, r0 := c.failAt, r1 := c.failDet + c.fails % 2 ^ 32 * 2 ^ 16 }

theorem Cmd.asCut_facts (c : Cmd) : c.asCut.uid = c.uid ∧ c.asCut.cut = true := by
  unfold Cmd.asCut
  split <;> exact ⟨rfl, rfl⟩

theorem State.cutCmd_eq {s : State} {c : Cmd} (hesc : c.escrow = []) (hop : sqeOp c.words ≠ opStream) :
    s.cutCmd c = (((({ s.updCmd c.uid (fun c => { c with escrow := [] }) with fences := s.fences.filter fun f => f.src != FSrc.cmd c.uid } : State).entGo
      (.cmd c.uid) c.dom).finishCmd c.uid Cmd.asCut).count .CUT_CNT 0 .CMD_FLAGS_CNT_OVF 0 2) := by
  have hdrop : s.dropEscrow c = s.updCmd c.uid fun c => { c with escrow := [] } := by rw [State.dropEscrow, hesc]; rfl
  unfold State.cutCmd
  rw [hdrop]
  simp only [hop, if_false]
  rfl

/-- The only command, cut: it ends, and its wait and fences end with it (R131). -/
theorem State.cutCmd_one {s : State} {c : Cmd} (hcmds : s.cmd.cmds = [c]) (hph : c.ph = .running) (hesc : c.escrow = [])
    (hop : sqeOp c.words ≠ opStream) :
    ∃ x, (s.cutCmd c).cmd.cmds = [x] ∧ x.uid = c.uid ∧ x.ph = .finished ∧ x.cut = true ∧ c.uid ∈ (s.cutCmd c).cmd.done ∧
      (s.cutCmd c).cmd.qps = s.cmd.qps ∧ (s.cutCmd c).dram = s.dram ∧ (s.cutCmd c).md = s.md := by
  have key : ∀ u v : State, u.cmd.cmds = [{ c with escrow := [] }] → In (Part.waits.foot ||| State.stallEnd_foot) u v →
      ∃ x, (v.finishCmd c.uid Cmd.asCut).cmd.cmds = [x] ∧ x.uid = c.uid ∧ x.ph = .finished ∧ x.cut = true ∧
        c.uid ∈ (v.finishCmd c.uid Cmd.asCut).cmd.done ∧ (v.finishCmd c.uid Cmd.asCut).cmd.qps = u.cmd.qps := fun u v hu hin => by
    have hv : v.cmd = u.cmd := hin.parts .cmd (by decide)
    have hfin := State.finishCmd_one (s := v) (c := { c with escrow := [] }) (by rw [hv, hu]) (by simp [hph]) Cmd.asCut
    refine ⟨_, hfin.1, (Cmd.asCut_facts _).1, rfl, (Cmd.asCut_facts _).2, ?_, hfin.2.2.trans (congrArg CmdS.qps hv)⟩
    exact hfin.2.1 ▸ List.mem_append_right _ (List.mem_singleton.2 rfl)
  have hu : ({ s.updCmd c.uid (fun c => { c with escrow := [] }) with fences := s.fences.filter fun f => f.src != FSrc.cmd c.uid } : State).cmd.cmds =
      [{ c with escrow := [] }] := State.updCmd_one hcmds _
  obtain ⟨x, hone, huid, hfin, hcut, hdone, hqps⟩ := key _ (({ s.updCmd c.uid (fun c => { c with escrow := [] }) with
    fences := s.fences.filter fun f => f.src != FSrc.cmd c.uid } : State).entGo (.cmd c.uid) c.dom) hu (State.entGo_in (In.refl _ _) (by decide))
  rw [State.cutCmd_eq hesc hop]
  have hcount := State.count_only ((({ s.updCmd c.uid (fun c => { c with escrow := [] }) with
    fences := s.fences.filter fun f => f.src != FSrc.cmd c.uid } : State).entGo (.cmd c.uid) c.dom).finishCmd c.uid Cmd.asCut) .CUT_CNT 0 .CMD_FLAGS_CNT_OVF 0 2
  have hrest : In (State.entGo_foot ||| State.finishCmd_foot) { s.updCmd c.uid (fun c => { c with escrow := [] }) with
      fences := s.fences.filter fun f => f.src != FSrc.cmd c.uid }
      ((({ s.updCmd c.uid (fun c => { c with escrow := [] }) with
        fences := s.fences.filter fun f => f.src != FSrc.cmd c.uid } : State).entGo (.cmd c.uid) c.dom).finishCmd c.uid Cmd.asCut) :=
    State.finishCmd_in (State.entGo_in (In.refl _ _) (by decide)) (by decide)
  refine ⟨x, ?_, huid, hfin, hcut, ?_, ?_, (hcount.dram_eq (by simp)).trans (hrest.parts .dram (by decide)),
    (hcount.md_eq (by simp)).trans (hrest.parts .md (by decide))⟩
  · rw [hcount.cmd_eq (by simp)]; exact hone
  · rw [hcount.cmd_eq (by simp)]; exact hdone
  · rw [hcount.cmd_eq (by simp)]; exact hqps

theorem exec_queueResetCut {s : State} {c : Cmd} (hbusy : s.fli .RESET_BUSY c.qp = true) (hcmds : s.cmd.cmds = [c]) (hph : c.ph = .running)
    (hsw : c.switched = false) (hmeta : isMetaOp (sqeOp c.words) = false) :
    exec (.queueResetCut c.qp) s =
      .next ((s.cutCmd c).setQp c.qp { (s.cutCmd c).qp c.qp with ncut := ((s.cutCmd c).qp c.qp).ncut + 1 }).cmdRegs := by
  have hcs : ((s.cmdsOf c.qp).filter fun c => c.ph == .running && !c.switched && !isMetaOp (sqeOp c.words)) = [c] := by
    simp [State.cmdsOf, hcmds, hph, hsw, hmeta]
  rw [exec, execQueueResetCut, if_neg (by simp [hbusy]), hcs]
  rfl

/-! ### The obligation -/

/-- Settles O18: a fetch copies the ring's entries in order and moves SQ_HEAD past them; the one command that is ready runs; the one that is
done is posted; the running one of a pair under reset is cut. -/
theorem fetchDispatchComplete : Obligations.FetchDispatchComplete := by
  unfold Obligations.FetchDispatchComplete
  refine ⟨?fetch, ?dispatch, ?complete, ?cut⟩
  case fetch =>
    intro s q sqes hrun hel hsc hroom hinv
    obtain ⟨x, hexec⟩ := exec_sqeFetch sqes hrun hel hsc hroom
    obtain ⟨hcmds, hhead⟩ := State.fetchN_facts hinv.1 q (s.fetchMax q) sqes
    have hin : In State.fetchN_foot s (s.fetchN q (s.fetchMax q) sqes) := State.fetchN_in (In.refl _ s) (Foot.le_refl _)
    generalize s.fetchN q (s.fetchMax q) sqes = u at hexec hcmds hhead hin
    exact ⟨_, hexec, hcmds, hhead, hin.parts .dram (by decide), hin.parts .md (by decide)⟩
  case dispatch =>
    intro s c sgl hrun hcmds hready hmeta hsgl hsettle hseal hunseal hcheck
    obtain ⟨hone, honly⟩ := s.dispatched_facts hcmds
    exact ⟨_, exec_commandDispatch sgl hrun hcmds hready hmeta hsgl hsettle hseal hunseal hcheck, hone, honly⟩
  case complete =>
    intro s c hrun hcmds hdone hsilent hnoint hlate hbusy hwait hinv
    obtain ⟨hnone, hnodone, hlocks, hin, -, hout⟩ := State.posted_facts hcmds hdone
    have hregs : In (State.inflightReg_foot ||| State.cmdRegs_foot) (s.posted c) ((s.posted c).inflightReg c.qp).cmdRegs :=
      State.cmdRegs_in (State.inflightReg_in (In.refl _ _) (by decide)) (by decide)
    have hcmd := hregs.parts .cmd (by decide)
    refine ⟨_, exec_commandComplete hrun hcmds hdone hsilent hnoint hlate hbusy hwait, ?_, ?_, fun l hl => ?_, ?_,
      (hregs.parts .dram (by decide)).trans (hin.parts .dram (by decide)), (hregs.parts .md (by decide)).trans (hin.parts .md (by decide))⟩
    · rw [hcmd]; exact hnone
    · rw [hcmd]; exact hnodone
    · rw [hcmd] at hl; exact hlocks l hl
    · exact (hregs.parts .out (by decide)).trans hout
  case cut =>
    intro s c q hbusy hcmds hq hph hsw hesc hmeta hop
    subst hq
    obtain ⟨x, hone, huid, hfin, hcut, hdone, hqps, hdram, hmd⟩ := State.cutCmd_one hcmds hph hesc hop
    have hqp : (s.cutCmd c).qp c.qp = s.qp c.qp := by rw [State.qp, State.qp, hqps]
    have hregs := fun u : State => State.cmdRegs_only u
    have hexec := exec_queueResetCut hbusy hcmds hph hsw hmeta
    generalize ht : (s.cutCmd c).setQp c.qp { (s.cutCmd c).qp c.qp with ncut := ((s.cutCmd c).qp c.qp).ncut + 1 } = t at hexec
    have hset : Only [.cmd] [] (s.cutCmd c) t := ht ▸ State.setQp_only (Only.refl _ _ _) (by simp) _ _
    have honly : Only [.cmd] (cmdFlds 0) (s.cutCmd c) t.cmdRegs := hset.mono (by simp) (by simp) |>.step (State.cmdRegs_only _) (by simp) (by simp [cmdFlds])
    have hcmd : t.cmdRegs.cmd = t.cmd := (State.cmdRegs_only _).cmd_eq (by simp)
    refine ⟨_, x, hexec, ?_, huid, hfin, hcut, ?_, ?_, (honly.dram_eq (by simp)).trans hdram, (honly.md_eq (by simp)).trans hmd⟩
    · rw [hcmd, ← ht]; exact hone
    · rw [hcmd, ← ht]; exact hdone
    · rw [State.qp, hcmd, ← ht]
      exact (congrArg QpS.ncut (State.qp_setQp (s.cutCmd c) c.qp _)).trans (by rw [hqp])

end Sys2Proof.Machine
end

section
/-! Commands that read one line, SEAL, LOG_READ and NOP (06_command_set.md R145, R161, R163, R164): O19. -/

namespace Sys2Proof.Machine

/-! ### The end of a command -/

theorem State.running?_facts {s : State} {uid op : Nat} {c : Cmd} (h : s.running? uid op = some c) :
    s.draining = false ∧ c ∈ s.cmd.cmds ∧ c.uid = uid ∧ c.ph = .running ∧ sqeOp c.words = op := by
  unfold State.running? at h
  split at h
  · cases h
  · rename_i hrun
    have hp := List.find?_some h
    simp only [Bool.and_eq_true, beq_iff_eq] at hp
    exact ⟨by simpa using hrun, List.mem_of_find?_eq_some h, hp.1.1, hp.1.2, hp.2⟩

theorem State.finishCmd_only (s : State) (uid : Nat) (f : Cmd → Cmd) : Only [.cmd] [] s (s.finishCmd uid f) := by
  unfold State.finishCmd
  exact Only.ite ((Only.refl _ _ s).mk_cmd (by simp) |>.mk_cmd (by simp)) (Only.refl _ _ s)

/-- A command that has not ended ends. -/
theorem State.finishCmd_mem {s : State} {x : Cmd} (h : x ∈ s.cmd.cmds) (hph : x.ph ≠ .finished) (f : Cmd → Cmd) :
    x.uid ∈ (s.finishCmd x.uid f).cmd.done ∧ { f x with ph := .finished } ∈ (s.finishCmd x.uid f).cmd.cmds := by
  have hany : (s.cmd.cmds.any fun c => c.uid == x.uid && c.ph != .finished) = true := List.any_eq_true.2 ⟨x, h, by simp [hph]⟩
  rw [State.finishCmd, if_pos hany]
  refine ⟨List.mem_append_right _ (List.mem_singleton.2 rfl), List.mem_map.2 ⟨x, h, ?_⟩⟩
  exact if_pos rfl

theorem State.cmdOk_only (s : State) (c : Cmd) (r0 r1 : Nat) : Only [.waits, .cmd] (cmdFlds c.dom) s (s.cmdOk c r0 r1) := by
  have hgo : Only [.waits, .cmd] (cmdFlds c.dom) s (s.entGo (.cmd c.uid) c.dom) := (s.entGo_only _ _).mono (by simp) (by simp [cmdFlds])
  exact (hgo.step (State.finishCmd_only _ _ _) (by simp) (by simp)).step (State.cmdRegs_only _) (by simp) (by simp [cmdFlds])

/-- A running command that ends with success has ended so. -/
theorem State.cmdOk_ended {s : State} {c x : Cmd} (h : x ∈ s.cmd.cmds) (hph : x.ph = .running) (hw : x.words = c.words) (hu : x.uid = c.uid)
    (r0 r1 : Nat) {y : Cmd} (hy : y.uid = x.uid) : (s.cmdOk y r0 r1).ended c 0 r0 r1 := by
  have hmem : x ∈ (s.entGo (.cmd x.uid) y.dom).cmd.cmds := by rw [(s.entGo_only _ _).cmd_eq (by simp)]; exact h
  obtain ⟨hdone, hin⟩ := State.finishCmd_mem hmem (by rw [hph]; decide) fun c => { c with status := 0, r0 := r0, r1 := r1 }
  have hcmd : (s.cmdOk y r0 r1).cmd = ((s.entGo (.cmd y.uid) y.dom).finishCmd y.uid fun c => { c with status := 0, r0 := r0, r1 := r1 }).cmd :=
    (State.cmdRegs_only _).cmd_eq (by simp)
  rw [hy] at hcmd
  rw [State.ended, hcmd, ← hu]
  exact ⟨hdone, { x with status := 0, r0 := r0, r1 := r1, ph := .finished }, hin, rfl, hw, rfl, rfl, rfl, rfl⟩

/-! ### Bytes of one line -/

theorem linesOf_one {ofs len : Nat} (hpos : 0 < len) (hfit : ofs % 64 + len ≤ 64) : linesOf ofs len = [ofs / 64] := by
  have h : (ofs + len - 1) / 64 - ofs / 64 + 1 = 1 := by omega
  rw [linesOf, if_neg (by omega), h]
  rfl

theorem pagesOf_one {ofs len : Nat} (hpos : 0 < len) (hfit : ofs % 64 + len ≤ 64) : pagesOf ofs len = [ofs / 65536] := by
  have h : (ofs + len - 1) / 65536 - ofs / 65536 + 1 = 1 := by omega
  rw [pagesOf, if_neg (by omega), h]
  rfl

theorem line_page (ofs : Nat) : ofs / 64 / 1024 = ofs / 65536 := Nat.div_div_eq_div_mul ofs 64 1024

theorem State.dropDemotion_still {s : State} {obj tp : Nat} (h : ∀ m ∈ s.tpe.moves, ¬(m.obj = obj ∧ m.tp = tp)) : s.dropDemotion obj tp = s := by
  have hfind : (s.tpe.moves.find? fun m => m.obj == obj && m.tp == tp && m.st == .queued && m.dest != .t1) = none :=
    List.find?_eq_none.2 fun m hm => by
      have := h m hm
      simp only [Bool.and_eq_true, beq_iff_eq, not_and]
      tauto
  rw [State.dropDemotion, hfind]

theorem State.touch_only (s : State) (f : Nat) : Only [.tpe] [] s (s.touch f) := by
  unfold State.touch
  split
  · exact (Only.refl _ _ s).mk_tpe (by simp)
  · exact Only.refl _ _ s

section
variable {s : State} {obj ofs len : Nat} {o : Obj} {la : Nat} {k : Key} {cl : CLine} (h : OneLine s obj ofs len o la k cl)
include h

theorem OneLine.cmdPage (c : Cmd) (rd keep : Bool) : s.cmdPage c obj (ofs / 65536) o rd keep = (s, true) := by
  unfold State.cmdPage
  simp only [h.free, h.here, if_true, State.dropDemotion_still h.stays, ite_self]

theorem OneLine.cmdPages (c : Cmd) (rd keep : Bool) : s.cmdPages c obj o ofs len rd keep = (s, true) := by
  rw [State.cmdPages, pagesOf_one h.pos h.fits, List.foldl_cons, List.foldl_nil, h.cmdPage]
  rfl

theorem OneLine.readyLines (c : Cmd) (rd : Bool) : s.readyLines c obj o [ofs / 64] rd = (s, [ofs / 64], true) := by
  have hdup : ([ofs / 64].map (· / 1024)).eraseDups = [ofs / 65536] := by
    rw [List.map_singleton, line_page]; rfl
  unfold State.readyLines
  rw [hdup, List.foldl_cons, List.foldl_nil, if_neg (by simp), h.cmdPage]
  simp [line_page]

/-- A cached line does not pass the ladder. -/
theorem OneLine.probeLines (d : Nat) (bad : List Nat) : s.probeLines o d [ofs / 64] bad = (s, []) := by
  have hc : (s.cline? (1024 * (s.mapE (o.mapBase + ofs / 65536)).frame + ofs / 64 % 1024)).isSome = true := by
    rw [← h.line, h.cached.1]; rfl
  rw [State.probeLines, List.foldl_cons, List.foldl_nil]
  simp only [line_page, hc, Bool.or_true, if_true]

theorem OneLine.objLine : s.objLine o (ofs / 64) [] = (cl.data, false) := by
  have hz : (s.mapE (o.mapBase + ofs / 64 / 1024)).st ≠ .zero := by rw [line_page, h.here]; decide
  have hnow : s.lineNow la = ⟨cl.data, .good⟩ := by rw [State.lineNow, h.cached.1]; simp [CLine.stored, h.clean]
  unfold State.objLine
  simp only [hz, if_false]
  rw [line_page, ← h.line, hnow]
  rfl

theorem OneLine.readTouch (cls : Nat) : s.readTouch obj o cls (ofs / 64) = s.touch (s.mapE (o.mapBase + ofs / 65536)).frame := by
  have hc : (s.touch (s.mapE (o.mapBase + ofs / 65536)).frame).cline? la = some (k, cl) := by
    rw [State.cline?, (s.touch_only _).fch_eq (by simp)]; exact h.cached.1
  unfold State.readTouch
  simp only [line_page, h.here, if_true]
  rw [State.fillNow, ← h.line, hc]

end

/-- The positions of a range in its one line. -/
theorem mem_linePart_one {ofs len i : Nat} (hi : i < len) (hfit : ofs % 64 + len ≤ 64) : ofs % 64 + i ∈ linePart ofs len (ofs / 64) := by
  refine List.mem_filter.2 ⟨List.mem_range.2 (by omega), ?_⟩
  simp only [Bool.and_eq_true, decide_eq_true_eq]
  omega

/-! ### READ -/

/-- A READ of one line done: the page marked, the bytes delivered, the command's progress noted. -/
def State.readDone (s : State) (c : Cmd) (f : Nat) (bytes : List (Nat × Nat)) : State :=
  ((s.touch f).send (.dmaBytes c.link c.ld bytes)).updCmd c.uid fun c => { c with part := c.part + 1 }

/-- The bytes that it delivers. -/
def readBytes (c : Cmd) (d : Line) : List (Nat × Nat) :=
  (linePart c.tofs (sqeLen c.words) (c.tofs / 64)).map fun k => (sqeAddr c.words + (64 * (c.tofs / 64) + k - c.tofs), lineByte d k)

theorem mem_readBytes {c : Cmd} (d : Line) {i : Nat} (hi : i < sqeLen c.words) (hfit : c.tofs % 64 + sqeLen c.words ≤ 64) :
    (sqeAddr c.words + i, lineByte d (c.tofs % 64 + i)) ∈ readBytes c d := by
  refine List.mem_map.2 ⟨_, mem_linePart_one hi hfit, ?_⟩
  have hsub : 64 * (c.tofs / 64) + (c.tofs % 64 + i) - c.tofs = i := by omega
  rw [hsub]

theorem exec_read {s : State} {c : Cmd} {o : Obj} {la : Nat} {k : Key} {cl : CLine} (hrun : s.running? c.uid opRead = some c) (hsgl : c.sgl = [])
    (hpart : c.part = 0) (h : OneLine s c.tobj c.tofs (sqeLen c.words) o la k cl) :
    exec (.read c.uid [] none) s = .next ((s.readDone c (s.mapE (o.mapBase + c.tofs / 65536)).frame (readBytes c cl.data)).cmdEnd c.uid none (sqeLen c.words)) := by
  have hlines : (linesOf c.tofs (dmaUpto c.tofs (sqeLen c.words) none)).drop c.part = [c.tofs / 64] := by
    rw [hpart, List.drop_zero]; exact linesOf_one h.pos h.fits
  have hne : readBytes c cl.data ≠ [] := List.ne_nil_of_mem (mem_readBytes cl.data (i := 0) h.pos h.fits)
  rw [exec, execRead, hrun]
  simp only [h.own, Option.filter_none, hlines, h.readyLines, h.probeLines, h.objLine, List.filter_cons, List.filter_nil, Bool.not_false,
    Bool.false_eq_true, if_false, if_true, List.flatMap_cons, List.flatMap_nil, List.append_nil, hsgl, bufAddr]
  have hsend : (s.readTouch c.tobj o sc2 (c.tofs / 64)).when (!(readBytes c cl.data).isEmpty) (·.send (.dmaBytes c.link c.ld (readBytes c cl.data))) =
      (s.touch (s.mapE (o.mapBase + c.tofs / 65536)).frame).send (.dmaBytes c.link c.ld (readBytes c cl.data)) := by
    rw [h.readTouch, State.when, if_pos (by simpa using hne)]
  rw [State.readDone, ← hsend]
  rfl

/-- A command's entry after a change that keeps its number. -/
theorem State.updCmd_find {s : State} {uid : Nat} {c : Cmd} (h : s.cmd.cmds.find? (fun x => x.uid == uid) = some c) {f : Cmd → Cmd}
    (hf : ∀ x, (f x).uid = x.uid) : (s.updCmd uid f).cmd.cmds.find? (fun x => x.uid == uid) = some (f c) := by
  have huid : c.uid = uid := by simpa using List.find?_some h
  have hcomp : ((fun x : Cmd => x.uid == uid) ∘ fun c => if c.uid = uid then f c else c) = fun x => x.uid == uid := by
    funext x
    simp only [Function.comp_apply]
    split
    · rw [hf]
    · rfl
  show (s.cmd.cmds.map _).find? _ = _
  rw [List.find?_map, hcomp, h, Option.map_some, if_pos huid]

/-- A data command whose lines are done ends with the bytes of its range (R139, R145). -/
theorem State.cmdEnd_ok {s : State} {uid bytes : Nat} {c : Cmd} (h : s.cmd.cmds.find? (fun x => x.uid == uid) = some c) (hf : c.fails = 0) :
    s.cmdEnd uid none bytes = s.cmdOk c bytes 0 := by
  rw [State.cmdEnd, h]
  exact if_pos hf

/-- The end of a data command of one line: it has ended with STATUS 0, and nothing changed but its tables. -/
theorem State.cmdEnd_part {s : State} {c : Cmd} {bytes : Nat} (hfind : s.cmd.cmds.find? (fun x => x.uid == c.uid) = some c) (hph : c.ph = .running)
    (hf : c.fails = 0) :
    ((s.updCmd c.uid fun c => { c with part := c.part + 1 }).cmdEnd c.uid none bytes).ended c 0 bytes 0 ∧
    Only [.waits, .cmd] (cmdFlds c.dom) s ((s.updCmd c.uid fun c => { c with part := c.part + 1 }).cmdEnd c.uid none bytes) := by
  have hup := State.updCmd_find hfind (f := fun c => { c with part := c.part + 1 }) fun _ => rfl
  rw [State.cmdEnd_ok hup hf]
  refine ⟨State.cmdOk_ended (List.mem_of_find?_eq_some hup) hph rfl rfl bytes 0 rfl, ?_⟩
  exact Only.step ((Only.refl _ _ s).mk_cmd (by simp)) (State.cmdOk_only _ _ bytes 0) (by simp) (by simp)

/-! ### SEAL -/

/-- What a SEAL of one line seals. -/
def sealText (c : Cmd) (d : Line) : List Nat := (linePart c.tofs (sqeLen c.words) (c.tofs / 64)).map (lineByte d)

/-- A command's result bytes, delivered in address order. -/
def Cmd.deliver (c : Cmd) (base : Nat) (l : List Nat) : Msg := .dmaBytes c.link c.ld (l.mapIdx fun i b => (base + i, b))

theorem exec_seal {s : State} {c : Cmd} {o : Obj} {la : Nat} {k : Key} {cl : CLine} (hrun : s.running? c.uid opSeal = some c)
    (h : OneLine s c.tobj c.tofs (sqeLen c.words) o la k cl) {x : List Nat × List Nat}
    (hx : x = gcmSeal (toBytes 32 (c.key ^^^ c.mask)) (sqeIv c.words) (sqeAad c.words) (sealText c cl.data)) :
    exec (.seal c.uid [] none) s = .next (((s.touch (s.mapE (o.mapBase + c.tofs / 65536)).frame).send
      (c.deliver (sqeAddr c.words) (x.1 ++ x.2))).cmdOk c (sqeLen c.words + 16) 0) := by
  have heach : s.each [c.tofs / 64] (fun s ln => s.readTouch c.tobj o sc2 ln) = s.touch (s.mapE (o.mapBase + c.tofs / 65536)).frame := h.readTouch sc2
  rw [exec, execSeal, hrun]
  simp only [h.own, Option.filter_none, h.cmdPages, linesOf_one h.pos h.fits, h.probeLines, h.objLine, List.filter_cons, List.filter_nil, Bool.not_true,
    Bool.false_eq_true, if_false, List.flatMap_cons, List.flatMap_nil, List.append_nil, Option.isSome_none, heach, hx]
  rfl

/-! ### LOG_READ and NOP -/

theorem exec_logRead {s : State} {c : Cmd} {w : LogWalk} (hrun : s.running? c.uid opLog = some c)
    (hw : w = s.logWalk c.dom (sqeW c.words 1) (bits (sqeW c.words 3) 0 32)) :
    exec (.logRead c.uid none) s = .next ((s.send (c.deliver (sqeW c.words 2) w.bytes)).cmdOk c w.next (w.bytes.length + b2n w.gap * 2 ^ 32)) := by
  rw [exec, execLogRead, hrun, hw]
  rfl

theorem exec_nop {s : State} {c : Cmd} (hrun : s.running? c.uid opNop = some c) : exec (.nop c.uid) s = .next (s.cmdOk c 0 0) := by
  rw [exec, execNop, hrun]

/-- A command that delivers bytes and ends with success. -/
theorem State.delivered {ps : List Part} {s u : State} {c : Cmd} (hc : c ∈ s.cmd.cmds) (hph : c.ph = .running) (hu : Only ps [] s u)
    (hcmd : Part.cmd ∉ ps) (hout : Part.out ∉ ps) (m : Msg) (r0 r1 : Nat) :
    ((u.send m).cmdOk c r0 r1).ended c 0 r0 r1 ∧ ((u.send m).cmdOk c r0 r1).out = s.out ++ [m] ∧
    Only (ps ++ [.waits, .cmd, .out]) (cmdFlds c.dom) s ((u.send m).cmdOk c r0 r1) := by
  have hcmd' : u.cmd = s.cmd := hu.cmd_eq hcmd
  have hend := State.cmdOk_ended (s := u.send m) (c := c) (x := c) (show c ∈ u.cmd.cmds from hcmd' ▸ hc) hph rfl rfl r0 r1 rfl
  refine ⟨hend, ?_, ?_⟩
  · rw [(State.cmdOk_only _ _ _ _).out_eq (by simp)]
    exact congrArg (· ++ [m]) (hu.out_eq hout)
  · exact ((hu.mono (by simp) (by simp)).send (by simp)).step (State.cmdOk_only _ _ _ _) (by simp) (by simp)

/-! ### The obligation -/

/-- Settles O19: the one line's page is resident and its value cached, so the command takes it at once; its end writes only its own tables. -/
theorem dataCommandsRead : Obligations.DataCommandsRead := by
  unfold Obligations.DataCommandsRead
  refine ⟨?reading, ?sealing, ?log, ?nop⟩
  case reading =>
    intro s c o la k cl hrun hsgl hfind hpart hfails h
    obtain ⟨-, -, -, hph, -⟩ := State.running?_facts hrun
    generalize hf : (s.mapE (o.mapBase + c.tofs / 65536)).frame = f
    have hread : Only [.tpe, .out] [] s ((s.touch f).send (.dmaBytes c.link c.ld (readBytes c cl.data))) :=
      ((s.touch_only f).mono (by simp) (by simp)).send (by simp)
    have hfind' : ((s.touch f).send (.dmaBytes c.link c.ld (readBytes c cl.data))).cmd.cmds.find? (fun x => x.uid == c.uid) = some c := by
      rw [hread.cmd_eq (by simp)]; exact hfind
    obtain ⟨hend, honly⟩ := State.cmdEnd_part (bytes := sqeLen c.words) hfind' hph hfails
    refine ⟨_, readBytes c cl.data, (exec_read hrun hsgl hpart h).trans (by rw [hf]; rfl), hend, ?_, fun i hi => mem_readBytes cl.data hi h.fits,
      (hread.mono (by simp) (by simp)).step honly (by simp) (by simp)⟩
    exact (honly.out_eq (by simp)).trans (congrArg (· ++ _) ((s.touch_only f).out_eq (by simp)))
  case sealing =>
    intro s c o la k cl hrun h
    obtain ⟨-, hc, -, hph, -⟩ := State.running?_facts hrun
    generalize hx : gcmSeal (toBytes 32 (c.key ^^^ c.mask)) (sqeIv c.words) (sqeAad c.words) (sealText c cl.data) = x
    obtain ⟨hend, hout, honly⟩ := State.delivered hc hph (s.touch_only (s.mapE (o.mapBase + c.tofs / 65536)).frame) (by simp) (by simp)
      (c.deliver (sqeAddr c.words) (x.1 ++ x.2)) (sqeLen c.words + 16) 0
    exact ⟨_, x, exec_seal hrun h hx.symm, hend, hx.symm, hout, honly⟩
  case log =>
    intro s c hrun
    obtain ⟨-, hc, -, hph, -⟩ := State.running?_facts hrun
    generalize hw : s.logWalk c.dom (sqeW c.words 1) (bits (sqeW c.words 3) 0 32) = w
    obtain ⟨hend, hout, honly⟩ := State.delivered hc hph (Only.refl [] _ s) (by simp) (by simp) (c.deliver (sqeW c.words 2) w.bytes) w.next
      (w.bytes.length + b2n w.gap * 2 ^ 32)
    exact ⟨_, w, exec_logRead hrun hw.symm, rfl, hend, hout, honly⟩
  case nop =>
    intro s c hrun
    obtain ⟨-, hc, -, hph, -⟩ := State.running?_facts hrun
    exact ⟨_, exec_nop hrun, State.cmdOk_ended hc hph rfl rfl 0 0 rfl, State.cmdOk_only _ _ _ _⟩

end Sys2Proof.Machine
end

section
/-! A store to a cached line: its charge, its merge and what it leaves (R19, R22, R59, R62, R221). -/

namespace Sys2Proof.Machine

/-! ### Charges -/

theorem State.canCharge_zero (s : State) (d : Nat) : s.canCharge d 0 = true := rfl

/-- One page for a domain is admitted alone or with none for domain 0 (R62). -/
theorem State.canCharge2_one {s : State} {d : Nat} {b : Bool} (h : b = true → s.canCharge d 1 = true) : s.canCharge2 d (b2n b) 0 = true := by
  cases b with
  | false =>
    show s.canCharge2 d 0 0 = true
    unfold State.canCharge2
    split <;> rfl
  | true =>
    have hc := h rfl
    have hpages : s.rd .FLOAT_PAGES + 1 ≤ s.rd .FLOAT_LIMIT := by
      simp only [State.canCharge, Bool.or_eq_true, Bool.and_eq_true, decide_eq_true_eq] at hc
      obtain hc | ⟨⟨-, hc⟩, -⟩ := hc
      · cases hc
      · exact hc
    show s.canCharge2 d 1 0 = true
    unfold State.canCharge2
    split
    · rename_i h0
      rwa [h0] at hc
    · simp [hc, hpages, State.canCharge_zero]

theorem State.canCharge_room {s : State} {d : Nat} (h : s.canCharge d 1 = true) : s.rd .FLOAT_PAGES + 1 ≤ s.rd .FLOAT_LIMIT := by
  simp only [State.canCharge, Bool.or_eq_true, Bool.and_eq_true, decide_eq_true_eq] at h
  obtain h | ⟨⟨-, h⟩, -⟩ := h
  · cases h
  · exact h

theorem State.chargeKey_only (s : State) (d : Nat) (k : Key) : Only [.stl] [(.FLOAT_PAGES, 0), (.CHARGE, d)] s (s.chargeKey d k) :=
  (((Only.refl _ _ s).wr (by simp)).wri (by simp)).mk_stl (by simp)

/-- A charge of a code page is that of its key, with the frame's charging domain noted. -/
theorem State.chargeCp_eq (s : State) (ix k d : Nat) :
    ∃ x, s.chargeCp ix k d = { (s.setMap ix ((s.mapE ix).setCp k 1)).chargeKey d ((s.mapE ix).frame, k) with tpe := x } := by
  unfold State.chargeCp
  extract_lets m u
  cases u.frame? m.frame with
  | none => exact ⟨_, rfl⟩
  | some e => exact ⟨_, rfl⟩

theorem State.chargeCp_only (s : State) (ix k d : Nat) : Only [.md, .stl, .tpe] [(.FLOAT_PAGES, 0), (.CHARGE, d)] s (s.chargeCp ix k d) := by
  obtain ⟨x, hx⟩ := s.chargeCp_eq ix k d
  rw [hx]
  exact Only.mk_tpe (((Only.refl _ _ s).mk_md (by simp)).step (State.chargeKey_only _ _ _) (by simp) (by simp)) (by simp)

theorem State.chargeCp_ledger (s : State) (ix k d : Nat) : (s.chargeCp ix k d).md.ledger = s.md.ledger := by
  obtain ⟨x, hx⟩ := s.chargeCp_eq ix k d
  rw [hx]
  rfl

/-- A charge counts one page (R59). -/
theorem State.chargeCp_float {s : State} (hok : regsOk s.regs = true) {d : Nat} (h : s.canCharge d 1 = true) (ix k : Nat) :
    (s.chargeCp ix k d).rd .FLOAT_PAGES = s.rd .FLOAT_PAGES + 1 := by
  have hlim : s.rd .FLOAT_LIMIT < 2 ^ 32 := State.rdi_full_lt hok (f := .FLOAT_LIMIT) rfl 0
  have hwr : (s.wr .FLOAT_PAGES (s.rd .FLOAT_PAGES + 1)).rd .FLOAT_PAGES = s.rd .FLOAT_PAGES + 1 :=
    State.rd_wr hok (f := .FLOAT_PAGES) rfl (Nat.lt_of_le_of_lt (State.canCharge_room h) hlim)
  obtain ⟨x, hx⟩ := s.chargeCp_eq ix k d
  rw [hx, ← hwr]
  exact State.rdi_wri_ne (s.wr .FLOAT_PAGES (s.rd .FLOAT_PAGES + 1)) (f := .CHARGE) (.inl (by decide))

theorem State.redirty_only (s : State) (ix k : Nat) : Only [.md] [] s (s.redirty ix k) := by
  unfold State.redirty
  exact Only.ite ((Only.refl _ _ s).mk_md (by simp)) (Only.refl _ _ s)

theorem State.redirty_ledger (s : State) (ix k : Nat) : (s.redirty ix k).md.ledger = s.md.ledger := by
  unfold State.redirty
  extract_lets m
  split <;> rfl

theorem State.obj?_of_own {s : State} {id : Nat} {o : Obj} (h : s.own? id = some o) : s.obj? id = some o := by
  obtain ⟨o', ho, hif⟩ := Option.bind_eq_some_iff.1 h
  split at hif
  · exact ho.trans hif
  · cases hif

theorem State.obj?_congr {s t : State} (h : t.md.ledger = s.md.ledger) (id : Nat) : t.obj? id = s.obj? id := by
  rw [State.obj?, State.obj?, h]

/-- A store to an object that is not mirrored sends nothing to the twin. -/
theorem State.stored_plain {s : State} {obj : Nat} {o : Obj} (h : s.obj? obj = some o) (hm : o.mirror = false) (tp la : Nat) (data : Line)
    (poison : Bool) (d : Nat) : s.stored obj tp la data poison d = s.redirty (o.mapBase + tp) (la / 64 % 16) := by
  unfold State.stored
  simp only [h, Option.map_some, Option.getD_some, hm, Bool.false_eq_true, if_false]

theorem State.mirNeeds_plain (s : State) {o : Obj} (hm : o.mirror = false) (obj tp : Nat) : s.mirNeeds o obj tp = 0 := by
  rw [State.mirNeeds, State.mirNeedsAll, hm]
  rfl

/-! ### A store to a cached line -/

/-- The charge of a store's code page, where it needs one (R59, R62). -/
def State.charged (s : State) (needs : Bool) (ix k d : Nat) : State := if needs then s.chargeCp ix k d else s

theorem State.charged_only (s : State) (needs : Bool) (ix k d : Nat) :
    Only [.md, .stl, .tpe] [(.FLOAT_PAGES, 0), (.CHARGE, d)] s (s.charged needs ix k d) :=
  Only.ite (s.chargeCp_only ix k d) (Only.refl _ _ s)

theorem State.charged_ledger (s : State) (needs : Bool) (ix k d : Nat) : (s.charged needs ix k d).md.ledger = s.md.ledger := by
  unfold State.charged
  split
  · exact s.chargeCp_ledger ix k d
  · rfl

theorem State.charged_float {s : State} (hok : regsOk s.regs = true) {needs : Bool} {d : Nat} (h : needs = true → s.canCharge d 1 = true) (ix k : Nat) :
    (s.charged needs ix k d).rd .FLOAT_PAGES = s.rd .FLOAT_PAGES + b2n needs := by
  cases needs with
  | false => rfl
  | true => exact State.chargeCp_float hok (h rfl) ix k

/-- A way takes the merged line, and the store is noted for a settle in progress. -/
def State.merged (s : State) (k : Key) (c : CLine) (ix cp : Nat) : State := (s.putWay k c).redirty ix cp

theorem State.merged_only (s : State) (k : Key) (c : CLine) (ix cp : Nat) : Only [.md, .fch] [] s (s.merged k c ix cp) :=
  ((Only.refl _ _ s).mk_fch (by simp)).step (State.redirty_only _ _ _) (by simp) (by simp)

theorem State.merged_fch (s : State) (k : Key) (c : CLine) (ix cp : Nat) :
    (s.merged k c ix cp).fch = { s.fch with lines := mput s.fch.lines k c } := (State.redirty_only _ _ _).fch_eq (by simp)

theorem State.merged_lines {s t : State} {k : Key} {c : CLine} (h : t.fch.lines = mput s.fch.lines k c) :
    mget t.fch.lines k = some c ∧ ∀ j, j ≠ k → mget t.fch.lines j = mget s.fch.lines j := by
  rw [h]
  exact ⟨mget_mput _ _ _, fun j hj => mget_mput_ne _ _ _ _ (Ne.symm hj)⟩

section
variable {s : State} {d obj ofs len : Nat} {o : Obj} {la : Nat} {k : Key} {cl : CLine} (h : OneLine s obj ofs len o la k cl)
  (hs : Storable s d obj ofs la o cl)
include h hs

/-- The store of one line of a command goes through: the page is charged where it must be, the line merged (R19, R221). -/
theorem OneLine.storeLine (cls : Nat) (data : Line) (m : Mask) :
    ∃ t, s.storeLine d cls obj o (ofs / 64) data m false = (t, none) ∧ t.fch.lines = mput s.fch.lines k (cl.store data m false) ∧
      Only [.md, .stl, .tpe, .fch] [(.FLOAT_PAGES, 0), (.CHARGE, d)] s t := by
  generalize hneeds : (o.persist && ((s.mapE (o.mapBase + ofs / 65536)).cpSt (ofs / 64 / 64 % 16) == 0 ||
    (s.mapE (o.mapBase + ofs / 65536)).cpSt (ofs / 64 / 64 % 16) == 3)) = needs
  have hcharge : s.canCharge2 d (b2n needs) 0 = true := State.canCharge2_one fun hn => hs.float (by
    rw [hn, Bool.and_eq_true] at hneeds
    exact hneeds.1)
  generalize hu : (s.charged needs (o.mapBase + ofs / 65536) (ofs / 64 / 64 % 16) d).touch (s.mapE (o.mapBase + ofs / 65536)).frame = u
  have honly : Only [.md, .stl, .tpe] [(.FLOAT_PAGES, 0), (.CHARGE, d)] s u :=
    hu ▸ (s.charged_only _ _ _ _).step (State.touch_only _ _) (by simp) (by simp)
  have hledger : u.md.ledger = s.md.ledger := by
    rw [← hu, (State.touch_only _ _).md_eq (by simp)]
    exact s.charged_ledger _ _ _ _
  have hc : u.cline? (1024 * (s.mapE (o.mapBase + ofs / 65536)).frame + ofs / 64 % 1024) = some (k, cl) := by
    rw [← h.line, State.cline?, honly.fch_eq (by simp)]
    exact h.cached.1
  have hobj : (u.putWay k (cl.store data m false)).obj? obj = some o :=
    (State.obj?_congr (s := s) hledger obj).trans (State.obj?_of_own h.own)
  refine ⟨u.merged k (cl.store data m false) (o.mapBase + ofs / 65536) (la / 64 % 16), ?_, ?_, ?_⟩
  · unfold State.storeLine
    simp only [line_page, h.line ▸ hs.noCopy, ne_eq, not_true_eq_false, if_false, hs.alone, Bool.false_eq_true]
    rw [hneeds, State.mirNeeds_plain _ hs.alone, if_neg (by simp [hcharge])]
    have hu' : (if needs = true then s.chargeCp (o.mapBase + ofs / 65536) (ofs / 64 / 64 % 16) d else s).touch
        (s.mapE (o.mapBase + ofs / 65536)).frame = u := hu
    simp only [hu', State.fillNow, hc, Option.isNone_some, Bool.false_and, Bool.and_false, Bool.false_eq_true, if_false]
    rw [← h.line, State.stored_plain hobj hs.alone, State.merged]
  · rw [State.merged_fch, honly.fch_eq (by simp)]
  · exact (honly.mono (by simp) (by simp)).step (State.merged_only _ _ _ _ _) (by simp) (by simp)

end

end Sys2Proof.Machine
end

section
/-! WRITE, FILL and COPY of bytes of one cached line (06_command_set.md R146 to R148): O20. -/

namespace Sys2Proof.Machine

/-- The part of a line that a command writes, as one line to write. -/
def oneWLine (ofs len : Nat) (byte : Nat → Nat) : WLine :=
  ⟨ofs / 64, lineOfBytes fun k => byte (64 * (ofs / 64) + k), partMask (linePart ofs len (ofs / 64)), false, 0⟩

theorem partLines_one (ofs len ln : Nat) : partLines ofs len [ln] = [ln] ∨ partLines ofs len [ln] = [] := by
  rw [partLines, List.filter_cons, List.filter_nil]
  split
  · exact .inl rfl
  · exact .inr rfl

section
variable {s : State} {obj ofs len : Nat} {o : Obj} {la : Nat} {k : Key} {cl : CLine} (h : OneLine s obj ofs len o la k cl)
include h

theorem OneLine.probePart (d : Nat) : s.probeLines o d (partLines ofs len [ofs / 64]) [] = (s, []) := by
  obtain hp | hp := partLines_one ofs len (ofs / 64)
  · rw [hp]; exact h.probeLines d []
  · rw [hp]; rfl

theorem OneLine.writeList (byte : Nat → Nat) : s.writeList o ofs len [ofs / 64] byte [] [] = [oneWLine ofs len byte] := by
  unfold State.writeList
  simp only [List.map_cons, List.map_nil, h.objLine, Bool.and_false, Bool.false_eq_true, if_false]
  rfl

end

/-- The writing part of a command whose one line is stored at once (R139, R146). -/
theorem State.cmdStore_one {s t : State} {c : Cmd} {obj : Nat} {o : Obj} {ofs len bytes : Nat} {byte : Nat → Nat}
    (hstore : s.storeLine c.dom sc2 obj o (ofs / 64) (oneWLine ofs len byte).data (oneWLine ofs len byte).mask false = (t, none)) :
    s.cmdStore c obj o [oneWLine ofs len byte] true none bytes =
      (t.updCmd c.uid fun c => { c with part := c.part + 1 }).cmdEnd c.uid none bytes := by
  have hlines : s.storeLines c.dom sc2 obj o [oneWLine ofs len byte] = (t, 1, none) := by
    rw [State.storeLines, List.foldl_cons, List.foldl_nil]
    have hr : s.storeLine c.dom sc2 obj o (oneWLine ofs len byte).ln (oneWLine ofs len byte).data (oneWLine ofs len byte).mask
        (oneWLine ofs len byte).fail?.isSome = (t, none) := hstore
    simp only [hr]
  unfold State.cmdStore
  simp only [hlines]
  rfl

/-- A WRITE or FILL within one line. -/
theorem OneLine.cmdWrite {s : State} {c : Cmd} {len : Nat} {o : Obj} {la : Nat} {k : Key} {cl : CLine} (h : OneLine s c.tobj c.tofs len o la k cl)
    (hpart : c.part = 0) {byte : Nat → Nat} {t : State}
    (hstore : s.storeLine c.dom sc2 c.tobj o (c.tofs / 64) (oneWLine c.tofs len byte).data (oneWLine c.tofs len byte).mask false = (t, none)) :
    s.cmdWrite c o len len byte [] [] none = (t.updCmd c.uid fun c => { c with part := c.part + 1 }).cmdEnd c.uid none len := by
  have hlines : (linesOf c.tofs len).drop c.part = [c.tofs / 64] := by
    rw [hpart, List.drop_zero]; exact linesOf_one h.pos h.fits
  unfold State.cmdWrite
  simp only [hlines, h.readyLines, h.probePart, h.writeList, Option.map_none]
  exact State.cmdStore_one hstore

theorem exec_write {s : State} {c : Cmd} {o : Obj} (data : List Nat) (hrun : s.running? c.uid opWrite = some c) (hown : s.own? c.tobj = some o) :
    exec (.write c.uid data [] [] none) s =
      .next (s.cmdWrite c o (sqeLen c.words) (sqeLen c.words) (fun x => data.getD (x - c.tofs) 0) [] [] none) := by
  rw [exec, execWrite, hrun]
  simp only [hown]
  rfl

theorem exec_fill {s : State} {c : Cmd} {o : Obj} (hrun : s.running? c.uid opFill = some c) (hown : s.own? c.tobj = some o) :
    exec (.fill c.uid []) s =
      .next (s.cmdWrite c o (sqeLen c.words) (sqeLen c.words) (fun x => bits (sqeAddr c.words) (8 * (x % 8)) 8) [] [] none) := by
  rw [exec, execFill, hrun]
  simp only [hown]

/-! ### COPY -/

theorem eraseDups_const {α : Type} [BEq α] [LawfulBEq α] {a : α} {l : List α} (hne : l ≠ []) (h : ∀ x ∈ l, x = a) : l.eraseDups = [a] := by
  cases l with
  | nil => exact absurd rfl hne
  | cons x r =>
    have hr : (r.filter fun b => !b == x) = [] := List.filter_eq_nil_iff.2 fun b hb => by
      rw [h b (List.mem_cons_of_mem _ hb), h x List.mem_cons_self]
      simp
    rw [List.eraseDups_cons, hr, h x List.mem_cons_self]
    rfl

/-- The source of a destination line whose bytes lie in one source line. -/
theorem copySrc_one {c : Cmd} {len : Nat} (hpos : 0 < len) (hsrc : c.tofs % 64 + len ≤ 64) (hdst : c.tofs2 % 64 + len ≤ 64) :
    copySrc c len (c.tofs2 / 64) = [c.tofs / 64] := by
  refine eraseDups_const ?_ fun x hx => ?_
  · exact List.ne_nil_of_mem (List.mem_map_of_mem (mem_linePart_one (i := 0) hpos hdst))
  · obtain ⟨k, hk, rfl⟩ := List.mem_map.1 hx
    have hk' := (List.mem_filter.1 hk).2
    simp only [Bool.and_eq_true, decide_eq_true_eq] at hk'
    omega

/-- The one destination line of a COPY. -/
theorem OneLine.copyLine {s t : State} {c : Cmd} {len : Nat} {o1 o : Obj} {la1 la : Nat} {k1 k : Key} {cl1 cl : CLine}
    (h1 : OneLine s c.tobj c.tofs len o1 la1 k1 cl1) (h : OneLine s c.tobj2 c.tofs2 len o la k cl) (hrun : s.running? c.uid opCopy = some c)
    (hstore : s.storeLine c.dom sc2 c.tobj2 o (c.tofs2 / 64) (oneWLine c.tofs2 len fun x => s.objByte o1 (x + c.tofs - c.tofs2)).data
      (oneWLine c.tofs2 len fun x => s.objByte o1 (x + c.tofs - c.tofs2)).mask false = (t, none)) :
    State.copyLine c.uid len [] o1 o (s, true) (c.tofs2 / 64) = (t.updCmd c.uid fun c => { c with part := c.part + 1 }, true) := by
  have hstore' : s.storeLine c.dom sc2 c.tobj2 o (c.tofs2 / 64) (lineOfBytes fun k => s.objByte o1 (64 * (c.tofs2 / 64) + k + c.tofs - c.tofs2))
      (partMask (linePart c.tofs2 len (c.tofs2 / 64))) false = (t, none) := hstore
  unfold State.copyLine
  simp only [hrun, copySrc_one h.pos h1.fits h.fits, h1.readyLines, h.readyLines, h1.probeLines, h.probePart, h1.objLine, h.objLine, Bool.and_self,
    Bool.not_true, Bool.false_eq_true, if_false, List.filter_cons, List.filter_nil, List.isEmpty_nil, Bool.and_false, Bool.or_self, hstore']
  rfl

theorem exec_copy {s t : State} {c : Cmd} {o1 o : Obj} {len : Nat} (hlen : len = sqeLen c.words) (hpart : c.part = 0) (hrun : s.running? c.uid opCopy = some c)
    (hown1 : s.own? c.tobj = some o1) (hown : s.own? c.tobj2 = some o) (hlines : linesOf c.tofs2 len = [c.tofs2 / 64])
    (hline : State.copyLine c.uid len [] o1 o (s, true) (c.tofs2 / 64) = (t, true)) :
    exec (.copy c.uid []) s = .next (t.cmdEnd c.uid none len) := by
  subst hlen
  rw [exec, execCopy, hrun]
  simp only [hown1, hown, hlines, List.reverse_singleton, ite_self, hpart, List.drop_zero, List.foldl_cons, List.foldl_nil, hline, if_true]

/-! ### The obligation -/

/-- A command whose one line was stored ends with its length, and the line holds the merged bytes. -/
theorem OneLine.stored {s : State} {c : Cmd} {obj ofs len : Nat} {o : Obj} {la : Nat} {k : Key} {cl : CLine} (h : OneLine s obj ofs len o la k cl)
    (hs : Storable s c.dom obj ofs la o cl) (hfind : s.cmd.cmds.find? (fun x => x.uid == c.uid) = some c) (hph : c.ph = .running) (hfails : c.fails = 0)
    (byte : Nat → Nat) :
    ∃ t, s.storeLine c.dom sc2 obj o (ofs / 64) (oneWLine ofs len byte).data (oneWLine ofs len byte).mask false = (t, none) ∧
      ((t.updCmd c.uid fun c => { c with part := c.part + 1 }).cmdEnd c.uid none len).ended c 0 len 0 ∧
      mget ((t.updCmd c.uid fun c => { c with part := c.part + 1 }).cmdEnd c.uid none len).fch.lines k =
        some (cl.store (oneWLine ofs len byte).data (oneWLine ofs len byte).mask false) ∧
      (∀ j, j ≠ k → mget ((t.updCmd c.uid fun c => { c with part := c.part + 1 }).cmdEnd c.uid none len).fch.lines j = mget s.fch.lines j) ∧
      Only [.md, .stl, .tpe, .fch, .waits, .cmd] ((.FLOAT_PAGES, 0) :: (.CHARGE, c.dom) :: cmdFlds c.dom) s
        ((t.updCmd c.uid fun c => { c with part := c.part + 1 }).cmdEnd c.uid none len) := by
  obtain ⟨t, hstore, hlines, honly⟩ := h.storeLine hs sc2 (oneWLine ofs len byte).data (oneWLine ofs len byte).mask
  have hfind' : t.cmd.cmds.find? (fun x => x.uid == c.uid) = some c := by rw [honly.cmd_eq (by simp)]; exact hfind
  obtain ⟨hend, hrest⟩ := State.cmdEnd_part (bytes := len) hfind' hph hfails
  obtain ⟨hline, hothers⟩ := State.merged_lines ((congrArg FchS.lines (hrest.fch_eq (by simp))).trans hlines)
  exact ⟨t, hstore, hend, hline, hothers, (honly.mono (by simp) (by simp)).step hrest (by simp) (by simp [cmdFlds])⟩

/-- Settles O20: the three commands write their one line through the same store, which charges its code page at most once. -/
theorem dataCommandsWrite : Obligations.DataCommandsWrite := by
  unfold Obligations.DataCommandsWrite
  intro s c o la k cl ofs len obj i byte hfind hpart hfails h hs hinv hcmd
  have hph : c.ph = .running := by
    obtain ⟨hrun, -⟩ | ⟨hrun, -⟩ | ⟨hrun, -⟩ := hcmd <;> exact (State.running?_facts hrun).2.2.2.1
  obtain ⟨t, hstore, hend, hline, hothers, honly⟩ := h.stored hs hfind hph hfails byte
  refine ⟨_, ?_, hend, hline, hothers, honly⟩
  obtain ⟨hrun, rfl, rfl, rfl, data, rfl, rfl⟩ | ⟨hrun, rfl, rfl, rfl, rfl, rfl⟩ | ⟨hrun, rfl, rfl, hlen, rfl, o1, la1, k1, cl1, h1, rfl⟩ := hcmd
  · rw [exec_write data hrun h.own, h.cmdWrite hpart hstore]
  · rw [exec_fill hrun h.own, h.cmdWrite hpart hstore]
  · exact exec_copy hlen hpart hrun h1.own h.own (linesOf_one h.pos h.fits) (h1.copyLine h hrun hstore)

end Sys2Proof.Machine
end

section
/-! Host loads and stores of a cached line on a page in DRAM (04_fabric_ports.md R82 to R100, 09_front_cache.md R221, R235): O11 and O6. -/

namespace Sys2Proof.Machine

/-! ### Responses and the snoop filter -/

theorem State.mute_congr {s t : State} {k : Nat} (hp : t.prt.perst = s.prt.perst) (hr : t.rdi .PORT_OFFLINE (portOf k) = s.rdi .PORT_OFFLINE (portOf k)) :
    t.mute k = s.mute k := by
  rw [State.mute, State.mute, hp, State.fli_eq hr]

theorem State.mute_devLoad (s : State) (i v k : Nat) : (s.wri .DEVLOAD i v).mute k = s.mute k :=
  State.mute_congr (s := s) rfl (State.rdi_wri_ne s (f := .DEVLOAD) (g := .PORT_OFFLINE) (.inl (by decide)))

theorem State.complete_facts {s : State} {link : Nat} (h : s.mute link = false) (ld tag : Nat) :
    (∃ v, (s.complete link ld tag).out = s.out ++ [Msg.cxlDone link ld tag v]) ∧
      Only [.out] [(.DEVLOAD, ldIx link ld)] s (s.complete link ld tag) := by
  have hm : (s.wri .DEVLOAD (ldIx link ld) (s.devLoad link ld)).mute link = false :=
    (s.mute_devLoad _ _ _).trans h
  have heq : s.complete link ld tag = (s.wri .DEVLOAD (ldIx link ld) (s.devLoad link ld)).send (.cxlDone link ld tag (s.devLoad link ld)) := by
    unfold State.complete State.when
    exact if_pos (by rw [hm]; rfl)
  rw [heq]
  exact ⟨⟨_, rfl⟩, ((Only.refl _ _ s).wri (by simp)).send (by simp)⟩

theorem State.doneRead_facts {s : State} {r : HostReq} (h : s.mute r.link = false) (data : Line) :
    (∃ v, (s.doneRead r data false).out = s.out ++ [Msg.cxlData r.link r.ld r.tag data false v]) ∧
      Only [.out] [(.DEVLOAD, ldIx r.link r.ld)] s (s.doneRead r data false) := by
  have hm : (s.wri .DEVLOAD (ldIx r.link r.ld) (s.devLoad r.link r.ld)).mute r.link = false :=
    (s.mute_devLoad _ _ _).trans h
  have heq : s.doneRead r data false = (s.wri .DEVLOAD (ldIx r.link r.ld) (s.devLoad r.link r.ld)).send (.cxlData r.link r.ld r.tag data false (s.devLoad r.link r.ld)) := by
    unfold State.doneRead State.when
    exact if_pos (by simp [hm])
  rw [heq]
  exact ⟨⟨_, rfl⟩, ((Only.refl _ _ s).wri (by simp)).send (by simp)⟩

/-- From s to t only the snoop filter changed. -/
def FilterOnly (s t : State) : Prop := ∃ sf clk, t = { s with fch := { s.fch with sf := sf, sfClock := clk } }

theorem State.sfAdd_filter (s : State) (link la : Nat) (excl : Bool) : FilterOnly s (s.sfAdd link la excl) := by
  unfold State.sfAdd
  split
  · exact ⟨_, _, rfl⟩
  · exact ⟨_, _, rfl⟩

theorem State.sfRead_filter (s : State) (r : HostReq) (la : Nat) : FilterOnly s (s.sfRead r la) := by
  unfold State.sfRead
  split
  · exact s.sfAdd_filter _ _ _
  · split
    · exact s.sfAdd_filter _ _ _
    · exact ⟨_, _, rfl⟩

theorem State.sfDrop_filter (s : State) (link la : Nat) : FilterOnly s (s.sfDrop link la) := by
  unfold State.sfDrop
  split
  · exact ⟨_, _, rfl⟩
  · extract_lets m
    split
    · exact ⟨_, _, rfl⟩
    · exact ⟨_, _, rfl⟩

theorem State.sfWrite_filter (s : State) (r : HostReq) (la : Nat) : FilterOnly s (s.sfWrite r la) := by
  unfold State.sfWrite
  split
  · exact s.sfDrop_filter _ _
  · exact s.sfRead_filter _ _

theorem FilterOnly.only {s t : State} (h : FilterOnly s t) : Only [.fch] [] s t := by
  obtain ⟨sf, clk, rfl⟩ := h
  exact (Only.refl _ _ s).mk_fch (by simp)

/-! ### Service on a resident page -/

section
variable {s : State} {r : HostReq} {obj tp la : Nat} {w : Win} {o : Obj} (h : OnPage s r.link r.ld r.dpa obj tp la w o)
include h

/-- A request that nothing holds back is served on its page (R171, R19). -/
theorem OnPage.serveHost (hro : r.wr = true → w.ro = false) (hatomic : r.wr = true → s.atomicHolds obj tp = false)
    (hmirror : r.wr = true → o.mirror = false) : s.serveHost r = s.serveT1 r o obj tp (o.mapBase + tp) la := by
  obtain ⟨k, hwin, htp⟩ := h.win
  have hids := h.ids
  subst hids
  have hro' : (r.wr && w.ro) = false := by cases hw : r.wr <;> simp_all
  have hatomic' : (r.wr && !r.snoopWb && s.atomicHolds w.obj tp) = false := by cases hw : r.wr <;> simp_all
  have hmirror' : (if (r.wr && o.mirror) = true then s.mirWait w.obj else none) = none := if_neg (by cases hw : r.wr <;> simp_all)
  unfold State.serveHost
  rw [if_neg (by rw [h.serves]; simp), if_neg (by rw [h.notSettle]; simp)]
  simp only [hwin, hro', Bool.false_eq_true, if_false, ← htp, h.own, Nat.not_le.2 h.bound, h.free, hatomic', hmirror', h.here, if_true]
  rw [← h.line]

end

/-- The cached line takes a request. -/
theorem State.lineAccess_cached {s : State} {la : Nat} {k : Key} {c : CLine} (h : s.holds la k c) (obj tp : Nat) (q : Req) :
    s.lineAccess la obj tp q = s.applyReq k q := by
  unfold State.lineAccess
  simp only [h.1]

theorem State.holds.la_eq {s : State} {la : Nat} {k : Key} {c : CLine} (h : s.holds la k c) : c.la = la := by
  simpa using List.find?_some h.1

/-- A load's answer leaves its mark on the frame and in the filter. -/
def State.hostLoaded (s : State) (r : HostReq) (la : Nat) : State := (s.touch (la / 1024)).sfRead r la

theorem State.applyReq_load {s : State} {la : Nat} {k : Key} {c : CLine} (h : s.holds la k c) {r : HostReq} {data : Line} {m : Mask} {p : Bool} :
    s.applyReq k ⟨.host r, false, data, m, p⟩ = (s.hostLoaded r la).doneRead r c.data c.poison := by
  unfold State.applyReq
  simp only [h.2, h.la_eq]
  rfl

/-- A store's data merged into its line, before its completion (R221, R235). -/
def State.hostMerged (s : State) (r : HostReq) (k : Key) (c : CLine) (ix la : Nat) : State :=
  ((s.touch (la / 1024)).merged k (c.store r.data r.mask r.poison) ix (la / 64 % 16)).sfWrite r la

theorem State.applyReq_store {s : State} {la : Nat} {k : Key} {c : CLine} (h : s.holds la k c) {r : HostReq} {o : Obj} (hobj : s.obj? c.obj = some o)
    (hm : o.mirror = false) :
    s.applyReq k ⟨.host r, true, r.data, r.mask, r.poison⟩ = (s.hostMerged r k c (o.mapBase + c.tp) la).doneWrite r := by
  have hobj' : ((s.touch (c.la / 1024)).putWay k (c.store r.data r.mask r.poison)).obj? c.obj = some o := by
    refine (State.obj?_congr (s := s) ?_ c.obj).trans hobj
    exact congrArg MetaData.ledger ((State.touch_only s (c.la / 1024)).md_eq (by simp))
  unfold State.applyReq
  simp only [h.2]
  rw [State.stored_plain hobj' hm, h.la_eq]
  rfl

theorem State.hostMerged_facts (s : State) (r : HostReq) (k : Key) (c : CLine) (ix la : Nat) :
    Only [.md, .tpe, .fch] [] s (s.hostMerged r k c ix la) ∧ (s.hostMerged r k c ix la).fch.lines = mput s.fch.lines k (c.store r.data r.mask r.poison) ∧
    (s.hostMerged r k c ix la).fch.mrs = s.fch.mrs ∧ (s.hostMerged r k c ix la).fch.mq = s.fch.mq ∧
    (s.hostMerged r k c ix la).fch.snoops = s.fch.snoops := by
  have htouch : (s.touch (la / 1024)).fch = s.fch := (State.touch_only _ _).fch_eq (by simp)
  have hmerge := (s.touch (la / 1024)).merged_fch k (c.store r.data r.mask r.poison) ix (la / 64 % 16)
  rw [htouch] at hmerge
  have honly : Only [.md, .tpe, .fch] [] s ((s.touch (la / 1024)).merged k (c.store r.data r.mask r.poison) ix (la / 64 % 16)) :=
    ((s.touch_only _).mono (by simp) (by simp)).step (State.merged_only _ _ _ _ _) (by simp) (by simp)
  have hfilter := State.sfWrite_filter ((s.touch (la / 1024)).merged k (c.store r.data r.mask r.poison) ix (la / 64 % 16)) r la
  refine ⟨honly.step hfilter.only (by simp) (by simp), ?_⟩
  obtain ⟨sf, clk, heq⟩ := hfilter
  rw [State.hostMerged, heq]
  simp only [hmerge, and_self]

/-- The state before a store reaches its line: its page charged where it must be, a settle in progress told (R59, R22). -/
def State.readyStore (s : State) (needs : Bool) (ix cp d : Nat) : State := (s.charged needs ix cp d).redirty ix cp

theorem State.readyStore_only (s : State) (needs : Bool) (ix cp d : Nat) :
    Only [.md, .stl, .tpe] [(.FLOAT_PAGES, 0), (.CHARGE, d)] s (s.readyStore needs ix cp d) :=
  (s.charged_only needs ix cp d).step (State.redirty_only _ _ _) (by simp) (by simp)

theorem State.readyStore_ledger (s : State) (needs : Bool) (ix cp d : Nat) : (s.readyStore needs ix cp d).md.ledger = s.md.ledger :=
  (State.redirty_ledger _ _ _).trans (s.charged_ledger _ _ _ _)

/-- A store needs the charge of its code page: the object is persistent and the page uncharged (R59). -/
def State.needsCharge (s : State) (o : Obj) (ix cp : Nat) : Bool := o.persist && ((s.mapE ix).cpSt cp == 0 || (s.mapE ix).cpSt cp == 3)

section
variable {s : State} {r : HostReq} {obj tp la : Nat} {w : Win} {o : Obj} {k : Key} {c : CLine}
  (h : OnPage s r.link r.ld r.dpa obj tp la w o) (hc : s.holds la k c) (ha : s.alone r.link la)
include h hc ha

omit hc in
/-- A load or store that no host copy, filter entry or slice holds back reaches the front cache (R93, R235). -/
theorem OnPage.serveT1 (hcharge : s.canCharge2 (s.ldDom r.link r.ld) (b2n (r.wr && s.needsCharge o (o.mapBase + tp) (la / 64 % 16)))
      (if r.wr then s.mirNeeds o obj tp else 0) = true) :
    s.serveT1 r o obj tp (o.mapBase + tp) la =
      (if r.wr then s.readyStore (s.needsCharge o (o.mapBase + tp) (la / 64 % 16)) (o.mapBase + tp) (la / 64 % 16) (s.ldDom r.link r.ld) else s).lineAccess
        la obj tp ⟨.host r, r.wr, r.data, r.mask, r.poison⟩ := by
  unfold State.serveT1
  rw [State.dropDemotion_still h.stays]
  simp only [h.slice, ha.1, ha.2, ite_self, ne_eq, not_true_eq_false, Bool.false_eq_true, if_false]
  have hneeds : (r.wr && o.persist && ((s.mapE (o.mapBase + tp)).cpSt (la / 64 % 16) == 0 || (s.mapE (o.mapBase + tp)).cpSt (la / 64 % 16) == 3)) =
      (r.wr && s.needsCharge o (o.mapBase + tp) (la / 64 % 16)) := Bool.and_assoc _ _ _
  rw [hneeds, if_neg (by rw [hcharge]; simp)]
  cases r.wr with
  | false => rfl
  | true => rfl

/-- A load answers the cached line's data (R19). -/
theorem OnPage.hostLoad (hwr : r.wr = false) : s.serveHost r = (s.hostLoaded r la).doneRead r c.data c.poison := by
  have hcharge : s.canCharge2 (s.ldDom r.link r.ld) (b2n (r.wr && s.needsCharge o (o.mapBase + tp) (la / 64 % 16)))
      (if r.wr then s.mirNeeds o obj tp else 0) = true := by
    rw [hwr]
    exact State.canCharge2_one (b := false) (by simp)
  rw [h.serveHost (by simp [hwr]) (by simp [hwr]) (by simp [hwr]), h.serveT1 ha hcharge, hwr]
  exact (State.lineAccess_cached hc _ _ _).trans (State.applyReq_load hc)

/-- A store is merged and completed, its code page charged where it must be (R19, R59, R221). -/
theorem OnPage.hostStore (hwr : r.wr = true) (hro : w.ro = false) (hatomic : s.atomicHolds obj tp = false) (hmirror : o.mirror = false)
    (hobj : c.obj = obj) (hok : regsOk s.regs = true) (hfloat : o.persist = true → s.canCharge (s.ldDom r.link r.ld) 1 = true) :
    ∃ u, s.serveHost r = u.doneWrite r ∧ Only [.md, .stl, .tpe, .fch] [(.FLOAT_PAGES, 0), (.CHARGE, s.ldDom r.link r.ld)] s u ∧
      u.fch.lines = mput s.fch.lines k (c.store r.data r.mask r.poison) ∧ u.fch.mrs = s.fch.mrs ∧ u.fch.mq = s.fch.mq ∧
      u.fch.snoops = s.fch.snoops ∧
      u.rd .FLOAT_PAGES = s.rd .FLOAT_PAGES + b2n (s.needsCharge o (o.mapBase + tp) (la / 64 % 16)) := by
  have hfloat' : s.needsCharge o (o.mapBase + tp) (la / 64 % 16) = true → s.canCharge (s.ldDom r.link r.ld) 1 = true := fun hn =>
    hfloat ((Bool.and_eq_true _ _ ▸ hn : _ ∧ _).1)
  have hcharge : s.canCharge2 (s.ldDom r.link r.ld) (b2n (r.wr && s.needsCharge o (o.mapBase + tp) (la / 64 % 16)))
      (if r.wr then s.mirNeeds o obj tp else 0) = true := by
    rw [hwr, if_pos rfl, State.mirNeeds_plain s hmirror, Bool.true_and]
    exact State.canCharge2_one hfloat'
  generalize hv : s.readyStore (s.needsCharge o (o.mapBase + tp) (la / 64 % 16)) (o.mapBase + tp) (la / 64 % 16) (s.ldDom r.link r.ld) = v
  have honly : Only [.md, .stl, .tpe] [(.FLOAT_PAGES, 0), (.CHARGE, s.ldDom r.link r.ld)] s v := hv ▸ s.readyStore_only _ _ _ _
  have hledger : v.md.ledger = s.md.ledger := hv ▸ s.readyStore_ledger _ _ _ _
  have hpages : v.rd .FLOAT_PAGES = s.rd .FLOAT_PAGES + b2n (s.needsCharge o (o.mapBase + tp) (la / 64 % 16)) := by
    rw [← hv, State.readyStore, (State.redirty_only _ _ _).rd_eq (by simp)]
    exact State.charged_float hok hfloat' _ _
  have hfch : v.fch = s.fch := honly.fch_eq (by simp)
  have hcv : v.holds la k c := by
    rw [State.holds, State.cline?, hfch]
    exact hc
  have hobjv : v.obj? c.obj = some o := (State.obj?_congr hledger _).trans (hobj ▸ State.obj?_of_own h.own)
  obtain ⟨hmerged, hlines, hmrs, hmq, hsnoops⟩ := v.hostMerged_facts r k c (o.mapBase + c.tp) la
  refine ⟨v.hostMerged r k c (o.mapBase + c.tp) la, ?_, honly.mono (by simp) (by simp) |>.step hmerged (by simp) (by simp), ?_, ?_, ?_, ?_,
    (hmerged.rd_eq (by simp)).trans hpages⟩
  · rw [h.serveHost (fun _ => hro) (fun _ => hatomic) (fun _ => hmirror), h.serveT1 ha hcharge, if_pos hwr, hv, State.lineAccess_cached hcv, hwr]
    exact State.applyReq_store hcv hobjv hmirror
  · rw [hlines, hfch]
  · rw [hmrs, hfch]
  · rw [hmq, hfch]
  · rw [hsnoops, hfch]

end

/-! ### Writes at the port -/

theorem State.held_congr {s t : State} (hw : t.waits = s.waits) (hm : t.fch.mrs = s.fch.mrs) (hq : t.fch.mq = s.fch.mq) (hf : t.fences = s.fences)
    (k : Nat) (wr : Bool) : t.held k wr = s.held k wr := by
  unfold State.held
  rw [hw, hm, hq, hf]

theorem State.creditStop_room {s : State} {k : Nat} (h : s.held k true < s.halfTracker k) : s.creditStop k = s := by
  unfold State.creditStop
  exact if_pos (by simp [h])

theorem OnPage.dpaLa {s : State} {link ld dpa obj tp la : Nat} {w : Win} {o : Obj} (h : OnPage s link ld dpa obj tp la w o) :
    s.dpaLa link ld dpa = some la := by
  obtain ⟨k, hwin, htp⟩ := h.win
  have hids := h.ids
  subst hids
  unfold State.dpaLa
  simp only [hwin, Option.bind_some, h.own, ← htp, h.here, true_or, if_true]
  rw [h.line]

/-- The request of a write that arrives. -/
def hostWrite (link ld dpa mty tag : Nat) (data : Line) (mask : Mask) (poison wb : Bool) : HostReq :=
  ⟨link, ld, dpa, tag, mty, true, data, mask, poison, wb, 0⟩

/-- A write at the port that a link with room takes: what it merges, charges and answers (R19, R93, R99). -/
theorem OnPage.portWrite {s : State} {link ld dpa obj tp la : Nat} {w : Win} {o : Obj} {k : Key} {c : CLine} (h : OnPage s link ld dpa obj tp la w o)
    (hc : s.holds la k c) (ha : s.alone link la) (hstop : link ∉ s.prt.stopped) (hroom : s.held link true < s.halfTracker link) (hro : w.ro = false)
    (hmute : s.mute link = false) (hmirror : o.mirror = false) (hatomic : s.atomicHolds obj tp = false) (hobj : c.obj = obj) (hok : regsOk s.regs = true)
    (hfloat : o.persist = true → s.canCharge (s.ldDom link ld) 1 = true) (mty tag : Nat) (data : Line) (mask : Mask) (poison : Bool) :
    ∃ t, s.portWrite (hostWrite link ld dpa mty tag data mask poison false) = t ∧ t.fch.lines = mput s.fch.lines k (c.store data mask poison) ∧
      t.rd .FLOAT_PAGES = s.rd .FLOAT_PAGES + b2n (s.needsCharge o (o.mapBase + tp) (la / 64 % 16)) ∧
      (∃ v, t.out = s.out ++ [Msg.cxlDone link ld tag v]) ∧
      Only [.md, .stl, .tpe, .fch, .out] [(.DEVLOAD, ldIx link ld), (.FLOAT_PAGES, 0), (.CHARGE, s.ldDom link ld)] s t := by
  generalize hwb : (s.dpaLa link ld dpa).any (s.snooped link) = wb
  obtain ⟨u, hserve, honly, hlines, hmrs, hmq, -, hpages⟩ := OnPage.hostStore (r := hostWrite link ld dpa mty tag data mask poison wb) h hc ha rfl hro
    hatomic hmirror hobj hok hfloat
  have hmute' : u.mute link = false := (State.mute_congr (congrArg PrtS.perst (honly.prt_eq (by simp))) (honly.regs _ _ (by simp))).trans hmute
  obtain ⟨⟨v, hout⟩, hdone⟩ := State.complete_facts hmute' ld tag
  have hheld : (u.complete link ld tag).held link true < (u.complete link ld tag).halfTracker link := by
    have hsplit : (u.complete link ld tag).halfTracker link = s.halfTracker link := by
      rw [State.halfTracker, State.halfTracker, State.fli_eq ((hdone.regs .SPLIT_ACT _ (by simp)).trans (honly.regs .SPLIT_ACT _ (by simp)))]
    have hfch : (u.complete link ld tag).fch = u.fch := hdone.fch_eq (by simp)
    rw [hsplit, State.held_congr ((hdone.waits_eq (by simp)).trans (honly.waits_eq (by simp))) (by rw [hfch, hmrs]) (by rw [hfch, hmq])
      ((hdone.fences_eq (by simp)).trans (honly.fences_eq (by simp)))]
    exact hroom
  refine ⟨u.complete link ld tag, ?_, ?_, (hdone.rd_eq (by simp)).trans hpages, ⟨v, by rw [hout, honly.out_eq (by simp)]⟩,
    (honly.mono (by simp) (by simp [hostWrite])).step hdone (by simp) (by simp)⟩
  · have hport : s.portWrite (hostWrite link ld dpa mty tag data mask poison false) =
        (s.serveHost (hostWrite link ld dpa mty tag data mask poison wb)).creditStop link := by
      unfold State.portWrite
      rw [if_neg (by simp [hostWrite, hstop])]
      exact congrArg (fun b => (s.serveHost (hostWrite link ld dpa mty tag data mask poison b)).creditStop link) hwb
    rw [hport, hserve]
    exact State.creditStop_room hheld
  · rw [hdone.fch_eq (by simp)]
    exact hlines

/-! ### Loads and stores of a host -/

/-- A code page of a line and of its address. -/
theorem OnPage.cp {s : State} {link ld dpa obj tp la : Nat} {w : Win} {o : Obj} (h : OnPage s link ld dpa obj tp la w o) :
    la / 64 % 16 = dpa / 4096 % 16 := by
  rw [h.line]
  omega

/-- The two commands that bring a write: a store, and a snoop's write-back that is not lost (R19, R93). -/
theorem exec_hostWrite {s : State} {link ld dpa obj tp la : Nat} {x : Win} {o : Obj} (h : OnPage s link ld dpa obj tp la x o) {mty tag : Nat} {data : Line}
    {mask : Mask} {poison : Bool} {i : Instr} {t : State} (ht : s.portWrite (hostWrite link ld dpa mty tag data mask poison false) = t)
    (hwaits : t.waits = s.waits)
    (hi : i = .cxlMemWrite link ld dpa mty tag data mask poison ∨
      (i = .snoopWriteBack link ld dpa mty tag data mask poison ∧ (link, la) ∉ s.prt.lost ∧ ∀ y ∈ s.waits, y.why ≠ .page)) :
    exec i s = .next t := by
  obtain rfl | ⟨rfl, hlost, hpage⟩ := hi
  · exact congrArg Host.Outcome.next ht
  · have hnone : (s.dpaLa link ld dpa).filter (fun la => s.prt.lost.contains (link, la)) = none := by
      rw [h.dpaLa, Option.filter_some, if_neg (by simpa using hlost)]
    have hwake : t.wakePages = t := State.rerun_none fun y hy => by
      rw [hwaits] at hy
      have hne : (y.why == Why.page) = false := by simpa using hpage y hy
      simp only [hne, Bool.false_and]
    rw [exec, execSnoopWriteBack]
    simp only [hnone]
    exact congrArg Host.Outcome.next ((congrArg State.wakePages ht).trans hwake)

theorem exec_cxlMemRead (s : State) (link ld dpa mty tag : Nat) :
    exec (.cxlMemRead link ld dpa mty tag []) s = .next (s.serveHost ⟨link, ld, dpa, tag, mty, false, 0, 0, false, false, 0⟩) := by
  rw [exec, execCxlMemRead]
  have hev : (if s.draining = true then s else s.sramEvents ((s.dpaLa link ld dpa).getD 0) []) = s := by split <;> rfl
  rw [hev]

/-- Settles O11: the page is resident and its line cached, so a load answers the line and a store merges into it, both at once. -/
theorem hostLoadsAndStores : Obligations.HostLoadsAndStores := by
  unfold Obligations.HostLoadsAndStores
  refine ⟨?load, ?store⟩
  case load =>
    intro s link ld dpa mty tag obj tp la w o k c h hc ha hpoison hmute
    have hserve := OnPage.hostLoad (r := ⟨link, ld, dpa, tag, mty, false, 0, 0, false, false, 0⟩) h hc ha rfl
    generalize hr : (⟨link, ld, dpa, tag, mty, false, 0, 0, false, false, 0⟩ : HostReq) = r at hserve
    have htouch := s.touch_only (la / 1024)
    have hfilter := (s.touch (la / 1024)).sfRead_filter r la
    have honly : Only [.tpe, .fch] [] s (s.hostLoaded r la) := (htouch.mono (by simp) (by simp)).step hfilter.only (by simp) (by simp)
    have hmute' : (s.hostLoaded r la).mute r.link = false := by
      have hlink : r.link = link := by rw [← hr]
      rw [hlink]
      exact (State.mute_congr (congrArg PrtS.perst (honly.prt_eq (by simp))) (honly.regs _ _ (by simp))).trans hmute
    obtain ⟨⟨v, hout⟩, hdone⟩ := State.doneRead_facts hmute' c.data
    have hlines : (s.hostLoaded r la).fch.lines = s.fch.lines := by
      obtain ⟨sf, clk, heq⟩ := hfilter
      have htouch' : (s.touch (la / 1024)).fch.lines = s.fch.lines := congrArg FchS.lines (htouch.fch_eq (by simp))
      rw [State.hostLoaded, heq]
      exact htouch'
    rw [hpoison] at hserve
    refine ⟨_, (exec_cxlMemRead s link ld dpa mty tag).trans (by rw [hr, hserve]), ⟨v, ?_⟩, ?_, ?_⟩
    · rw [hout, honly.out_eq (by simp), ← hr]
    · rw [hdone.fch_eq (by simp), hlines]
    · exact (honly.mono (by simp) (by simp)).step hdone (by simp) (by simp [← hr])
  case store =>
    intro s link ld dpa mty tag obj tp la data mask poison w o k c i hi hstop hroom h hc ha hro hmute hmirror hatomic hobj hok hfloat
    obtain ⟨t, ht, hlines, hpages, hout, honly⟩ := h.portWrite hc ha hstop hroom hro hmute hmirror hatomic hobj hok hfloat mty tag data mask poison
    obtain ⟨hline, hothers⟩ := State.merged_lines hlines
    rw [h.cp] at hpages
    exact ⟨t, exec_hostWrite h ht (honly.waits_eq (by simp)) hi, hline, hothers, hpages, hout, honly⟩

end Sys2Proof.Machine
end

section
/-! Charges admitted, stalls, and fences that complete (03_float_governor.md R62, R74; 04_fabric_ports.md R39, R40, R103): O6 and O12. -/

namespace Sys2Proof.Machine

/-! ### A charge admitted -/

theorem State.each_const {α : Type} {s : State} {f : State → α → State} (l : List α) (h : ∀ x, f s x = s) : s.each l f = s :=
  State.each_inv (P := fun u => u = s) l rfl fun u x _ hu => by rw [hu]; exact h x

/-- With no request waiting and no link stopped no credit comes back. -/
theorem State.credits_none {s : State} (hw : s.waits = []) (hp : s.prt.stopped = []) : s.credits = s := by
  refine State.each_const _ fun k => ?_
  have hfill : s.benchFill k = s := by rw [State.benchFill, hw]; rfl
  rw [hfill, State.creditBack, hp]
  rfl

theorem exec_floatChargeAdmitted {s u : State} {w : Wait} {r : HostReq} (hrun : s.draining = false) (hwaits : s.waits = [w]) (hnext : s.fltNext = some w)
    (hent : w.ent = .host r) (hb : w.benched = false) (hu : u = State.stallEnd { s with waits := [] } w.dom) :
    exec .floatChargeAdmitted s = .next (u.serveHost r).credits.snoopsAnswered := by
  have hreserve : State.reserve { s with waits := [] } w = u.serveHost r := by
    unfold State.reserve
    simp only [hent, hb, Bool.false_and, Bool.false_eq_true, if_false]
    rw [hu]
  rw [exec, execFloatChargeAdmitted, if_neg (by simp [hrun]), hnext]
  simp only [hwaits, List.erase_cons_head, hreserve]

theorem State.stallEnd_only (s : State) (d : Nat) : Only [] [(.STALLED, d)] s (s.stallEnd d) :=
  Only.ite (Only.refl _ _ s) ((Only.refl _ _ s).setfi (by simp))

/-! ### Stalls -/

/-- A stall of a domain reported, with its cause (R74). -/
def State.stalled (s : State) (d : Nat) (fence : Bool) : State :=
  let t := (s.setfi .STALLED d true).count .STALL_CNT 0 .STALL_OVF 0 0
  (t.record clsWarn d 74 (item 8 (b2n fence) ++ item 7 (t.rd .FLOAT_LIMIT))).alert blkFGV

theorem exec_stall {s t : State} {d : Nat} {fence : Bool} (hrun : s.draining = false) (hage : s.ageOldest d fence = some t)
    (hreg : t.regs = s.regs) (hst : s.fli .STALLED d = false) (hlim : s.rd .FLOAT_LIMIT ≠ 0) : exec (.stall d fence) s = .next (t.stalled d fence) := by
  have hst' : t.fli .STALLED d = false := (State.fli_eq (State.rdi_congr hreg _ _)).trans hst
  have hlim' : ((t.setfi .STALLED d true).count .STALL_CNT 0 .STALL_OVF 0 0).rd .FLOAT_LIMIT ≠ 0 := by
    rw [State.rd, State.count_rdi_of_ne _ _ _ _ _ _ (by decide) (by decide) (by decide), State.setfi_rdi_ne _ (by decide)]
    exact fun h0 => hlim ((State.rd_congr hreg .FLOAT_LIMIT).symm.trans h0)
  rw [exec, execStall, if_neg (by simp [hrun]), hage]
  simp only [hst', Bool.false_eq_true, if_false, hlim', false_and]
  rfl

/-- The stall's flag and alert, and that the waiting list and the fences stay. -/
theorem State.stalled_facts {s : State} (hok : regsOk s.regs = true) (d : Nat) (fence : Bool) :
    (s.stalled d fence).fli .STALLED d = true ∧ bit ((s.stalled d fence).rd .ALERT_CAUSE) blkFGV = true ∧
    (s.stalled d fence).waits = s.waits ∧ (s.stalled d fence).fences = s.fences := by
  have hset : (s.setfi .STALLED d true).fli .STALLED d = true := State.fli_setfi hok (f := .STALLED) rfl (by decide) d true
  have hcount := State.count_only (s.setfi .STALLED d true) .STALL_CNT 0 .STALL_OVF 0 0
  have hok' : regsOk ((s.setfi .STALLED d true).count .STALL_CNT 0 .STALL_OVF 0 0).regs = true := regsOk_count (regsOk_setfi hok _ _ _) _ _ _ _ _
  have hin : In (State.record_foot ||| State.alert_foot) ((s.setfi .STALLED d true).count .STALL_CNT 0 .STALL_OVF 0 0) (s.stalled d fence) :=
    State.alert_in (State.record_in (In.refl _ _) (by decide)) (by decide)
  refine ⟨?_, State.alert_sets (regsOk_record hok' _ _ _ _) (by decide), ?_, ?_⟩
  · rw [State.fli_eq (hin.regs .STALLED d (by decide)), State.fli_eq (State.count_rdi_of_ne _ _ _ _ _ _ (by decide) (by decide) (by decide) d)]
    exact hset
  · exact (hin.parts .waits (by decide)).trans (hcount.waits_eq (by simp))
  · exact (hin.parts .fences (by decide)).trans (hcount.fences_eq (by simp))

/-- Marking the first waiting request of a domain that is not aged. -/
def State.ageWait (s : State) (w : Wait) : State :=
  { s with waits := s.waits.map fun x => if x = w then { x with aged := true } else x }

/-- Marking its first fence. -/
def State.ageFence (s : State) (f : Fence) : State :=
  { s with fences := s.fences.map fun g => if g = f then { g with aged := true } else g }

theorem State.ageOldest_wait {s : State} {d : Nat} {w : Wait} (hm : w ∈ s.waits) (hd : w.dom = d) (ha : w.aged = false) (hw : w.why = .flt) :
    ∃ x ∈ s.waits, x.dom = d ∧ s.ageOldest d false = some (s.ageWait x) := by
  have hp : (w.dom == d && !w.aged && (w.why == Why.flt || w.why == Why.slice)) = true := by simp [hd, ha, hw]
  have hsome : (s.waits.find? fun (w : Wait) => w.dom == d && !w.aged && (w.why == Why.flt || w.why == Why.slice)).isSome = true :=
    List.find?_isSome.2 ⟨w, hm, hp⟩
  obtain ⟨x, hx⟩ := Option.isSome_iff_exists.1 hsome
  have hxp := List.find?_some hx
  simp only [Bool.and_eq_true, beq_iff_eq] at hxp
  refine ⟨x, List.mem_of_find?_eq_some hx, hxp.1.1, ?_⟩
  unfold State.ageOldest
  rw [if_neg (by simp), hx]
  rfl

theorem State.ageOldest_fence {s : State} {d : Nat} {f : Fence} (hm : f ∈ s.fences) (hd : f.dom = d) (ha : f.aged = false) :
    ∃ x ∈ s.fences, x.dom = d ∧ s.ageOldest d true = some (s.ageFence x) := by
  have hp : (f.dom == d && !f.aged) = true := by simp [hd, ha]
  have hsome : (s.fences.find? fun (f : Fence) => f.dom == d && !f.aged).isSome = true := List.find?_isSome.2 ⟨f, hm, hp⟩
  obtain ⟨x, hx⟩ := Option.isSome_iff_exists.1 hsome
  have hxp := List.find?_some hx
  simp only [Bool.and_eq_true, beq_iff_eq] at hxp
  refine ⟨x, List.mem_of_find?_eq_some hx, hxp.1, ?_⟩
  unfold State.ageOldest
  rw [if_pos rfl, hx]
  rfl

/-- Settles O6: with the charge admitted the one waiting write is served like one that arrives; a stall marks the first request or fence of
its domain that is not aged. -/
theorem floatAndStalls : Obligations.FloatAndStalls := by
  unfold Obligations.FloatAndStalls
  refine ⟨?admitted, ?stallWait, ?stallFence⟩
  case admitted =>
    intro s u w r obj tp la x o k c hrun hwaits hnext hent hb hwr hstop hsnoop hu h hc ha hro hmute hmirror hatomic hobj hinv hfloat
    obtain ⟨v, hserve, honly, hlines, -, -, hsnoops, -⟩ := h.hostStore hc ha hwr hro hatomic hmirror hobj hinv.1 hfloat
    have hmute' : v.mute r.link = false := (State.mute_congr (congrArg PrtS.perst (honly.prt_eq (by simp))) (honly.regs _ _ (by simp))).trans hmute
    obtain ⟨⟨dl, hout⟩, hdone⟩ := State.complete_facts hmute' r.ld r.tag
    have hend : Only [] [(.STALLED, w.dom)] { s with waits := [] } u := hu ▸ State.stallEnd_only _ _
    generalize ht : v.doneWrite r = t at hserve
    have htd : Only [.out] [(.DEVLOAD, ldIx r.link r.ld)] v t := ht ▸ hdone
    have hfch : t.fch = v.fch := htd.fch_eq (by simp)
    have hufch : u.fch = s.fch := hend.fch_eq (by simp)
    have htw : t.waits = [] := (htd.waits_eq (by simp)).trans ((honly.waits_eq (by simp)).trans (hend.waits_eq (by simp)))
    have htp : t.prt.stopped = [] := by
      rw [htd.prt_eq (by simp), honly.prt_eq (by simp), hend.prt_eq (by simp)]
      exact hstop
    have hans : t.snoopsAnswered = t := by
      have hnone : (t.fch.snoops.filter (·.ans)) = [] := by
        rw [hfch, hsnoops, hufch]
        exact List.filter_eq_nil_iff.2 fun y hy => by simp [hsnoop y hy]
      rw [State.snoopsAnswered, hnone]
      rfl
    have hlines' : t.fch.lines = mput s.fch.lines k (c.store r.data r.mask r.poison) := by rw [hfch, hlines, hufch]
    obtain ⟨hline, hothers⟩ := State.merged_lines hlines'
    refine ⟨t, dl, ?_, htw, hline, hothers, ?_⟩
    · rw [exec_floatChargeAdmitted hrun hwaits hnext hent hb hu, hserve, State.credits_none htw htp, hans]
    · rw [← ht]
      exact hout.trans (congrArg (· ++ _) ((honly.out_eq (by simp)).trans (hend.out_eq (by simp))))
  case stallWait =>
    intro s d w hrun hinv hst hlim hm hd ha hw
    obtain ⟨x, hx, hxd, hage⟩ := State.ageOldest_wait hm hd ha hw
    obtain ⟨hst', halert, hwaits, -⟩ := State.stalled_facts (s := s.ageWait x) hinv.1 d false
    refine ⟨_, exec_stall hrun hage rfl hst hlim, hst', halert, ?_, { x with aged := true }, ?_, rfl, hxd⟩
    · rw [hwaits]
      exact List.length_map _
    · rw [hwaits]
      exact List.mem_map.2 ⟨x, hx, if_pos rfl⟩
  case stallFence =>
    intro s d f hrun hinv hst hlim hm hd ha
    obtain ⟨x, hx, hxd, hage⟩ := State.ageOldest_fence hm hd ha
    obtain ⟨hst', halert, -, hfences⟩ := State.stalled_facts (s := s.ageFence x) hinv.1 d true
    refine ⟨_, exec_stall hrun hage rfl hst hlim, hst', halert, { x with aged := true }, ?_, rfl, hxd⟩
    rw [hfences]
    exact List.mem_map.2 ⟨x, hx, if_pos rfl⟩

/-! ### Fences -/

theorem State.closeAll_none {s : State} (h : s.mir.opn = []) : s.closeAll = s :=
  State.each_const _ fun lane => by rw [State.closeLane, h]; rfl

/-- A fence taken off the list that it was just put on. -/
theorem erase_append_perm {α : Type} [BEq α] [LawfulBEq α] (l : List α) (a : α) : ((l ++ [a]).erase a).Perm l := by
  have h : (l ++ [a]).Perm (a :: l) := List.perm_append_comm
  exact (h.erase a).trans (by rw [List.erase_cons_head])

/-- The status word of a settle page written. -/
def State.putFstat (s : State) (link ld : Nat) (st : FStat) : State := { s with prt := { s.prt with fstat := mput s.prt.fstat (link, ld) st } }

theorem State.setFstat_alone {s : State} {link ld : Nat} (h : s.others (pageLa link ld) none = []) (st : FStat) :
    s.setFstat link ld st = s.putFstat link ld st := by
  rw [State.setFstat, h]
  rfl

theorem State.others_congr {s t : State} (h : t.fch = s.fch) (la : Nat) (me : Option Nat) : t.others la me = s.others la me := by
  rw [State.others, State.others, h]

/-- The fence that a request makes where there is no twin (R36, R38). -/
def State.soloFence (s : State) (src : FSrc) (d seq : Nat) : Fence := ⟨src, d, s.rd .SSN_ISSUED, seq, false, false⟩

theorem State.fenceResult_noTwin {s : State} (h : s.rd .STATE = mirNoTwin) (f : Fence) : s.fenceResult f true = some true := by
  rw [State.fenceResult, h]
  rfl

/-- The state with a fence's request gone again. -/
def State.fenceGone (s : State) (f : Fence) : State := ({ s with fences := (s.fences ++ [f]).erase f }).stallEnd f.dom

theorem State.fenceGone_facts (s : State) (f : Fence) : (s.fenceGone f).fences.Perm s.fences ∧ Only [.fences] [(.STALLED, f.dom)] s (s.fenceGone f) := by
  have hend := State.stallEnd_only { s with fences := (s.fences ++ [f]).erase f } f.dom
  refine ⟨?_, ((Only.refl _ _ s).mk_fences (by simp)).step hend (by simp) (by simp)⟩
  rw [State.fenceGone, hend.fences_eq (by simp)]
  exact erase_append_perm _ _

/-- A fence at the end of the list. -/
def State.addFence (s : State) (f : Fence) : State := { s with fences := s.fences ++ [f] }

/-- A settle-page store's fence answered at once (R38, R103). -/
def State.pageFenced (s : State) (link ld tag d seq : Nat) : State :=
  ((s.putFstat link ld ⟨2, seq, s.rd .SSN_ISSUED⟩).fenceGone (s.soloFence (.page link ld tag) d seq)).putFstat link ld ⟨1, seq, s.rd .SSN_ISSUED⟩

theorem State.fenceDone_page {s : State} {link ld : Nat} (hother : s.others (pageLa link ld) none = []) (tag d seq : Nat) :
    ((s.addFence (s.soloFence (.page link ld tag) d seq)).putFstat link ld ⟨2, seq, s.rd .SSN_ISSUED⟩).fenceDone (s.soloFence (.page link ld tag) d seq) true =
      (s.pageFenced link ld tag d seq).complete link ld tag := by
  generalize hf : s.soloFence (.page link ld tag) d seq = f
  have hsrc : f.src = .page link ld tag := hf ▸ rfl
  have hseq : f.seq = seq := hf ▸ rfl
  have hfreed : f.freed = false := hf ▸ rfl
  obtain ⟨-, honly⟩ := (s.putFstat link ld ⟨2, seq, s.rd .SSN_ISSUED⟩).fenceGone_facts f
  have hprt : ((s.putFstat link ld ⟨2, seq, s.rd .SSN_ISSUED⟩).fenceGone f).prt = (s.putFstat link ld ⟨2, seq, s.rd .SSN_ISSUED⟩).prt := honly.prt_eq (by simp)
  have hst : mget ((s.putFstat link ld ⟨2, seq, s.rd .SSN_ISSUED⟩).fenceGone f).prt.fstat (link, ld) = some ⟨2, seq, s.rd .SSN_ISSUED⟩ := by
    rw [hprt]
    exact mget_mput _ _ _
  have hother' : ((s.putFstat link ld ⟨2, seq, s.rd .SSN_ISSUED⟩).fenceGone f).others (pageLa link ld) none = [] :=
    (State.others_congr (honly.fch_eq (by simp)) _ _).trans hother
  have hgone : State.stallEnd { (s.addFence f).putFstat link ld ⟨2, seq, s.rd .SSN_ISSUED⟩ with
      fences := ((s.addFence f).putFstat link ld ⟨2, seq, s.rd .SSN_ISSUED⟩).fences.erase f } f.dom =
      (s.putFstat link ld ⟨2, seq, s.rd .SSN_ISSUED⟩).fenceGone f := rfl
  rw [State.pageFenced, hf]
  unfold State.fenceDone
  simp only [hgone, hsrc, hst, Option.getD_some, hseq, if_true, hfreed, Bool.not_false, State.when, State.setFstat_alone hother', b2n_true]

theorem State.acceptFence_page {s : State} {link ld : Nat} (hopn : s.mir.opn = []) (hst : s.rd .STATE = mirNoTwin)
    (hother : s.others (pageLa link ld) none = []) (tag d seq : Nat) :
    s.acceptFence (.page link ld tag) d seq = (s.pageFenced link ld tag d seq).complete link ld tag := by
  have hzero : (s.rd .STATE != mirNoTwin && !s.ownsUnmatched d && !s.outstanding d) = false := by rw [hst]; rfl
  have hput := State.setFstat_alone (s := s.addFence (s.soloFence (.page link ld tag) d seq)) hother ⟨2, seq, s.rd .SSN_ISSUED⟩
  have hres := State.fenceResult_noTwin (s := (s.addFence (s.soloFence (.page link ld tag) d seq)).putFstat link ld ⟨2, seq, s.rd .SSN_ISSUED⟩) hst
    (s.soloFence (.page link ld tag) d seq)
  have hdone := State.fenceDone_page hother tag d seq
  unfold State.acceptFence
  rw [State.closeAll_none hopn]
  simp only [hzero, Bool.false_eq_true, if_false]
  show (match ((s.addFence (s.soloFence (.page link ld tag) d seq)).setFstat link ld ⟨2, seq, s.rd .SSN_ISSUED⟩).fenceResult
    (s.soloFence (.page link ld tag) d seq) true with | some r => _ | none => _) = _
  rw [hput, hres]
  exact (congrArg (fun u => u.fenceDone (s.soloFence (.page link ld tag) d seq) true) hput).trans hdone

theorem State.pageFenced_facts (s : State) (link ld tag d seq : Nat) :
    (s.pageFenced link ld tag d seq).fences.Perm s.fences ∧ Only [.prt, .fences] [(.STALLED, d)] s (s.pageFenced link ld tag d seq) ∧
    mget (s.pageFenced link ld tag d seq).prt.fstat (link, ld) = some ⟨1, seq, s.rd .SSN_ISSUED⟩ ∧
    (s.pageFenced link ld tag d seq).prt.perst = s.prt.perst := by
  obtain ⟨hperm, honly⟩ := (s.putFstat link ld ⟨2, seq, s.rd .SSN_ISSUED⟩).fenceGone_facts (s.soloFence (.page link ld tag) d seq)
  refine ⟨hperm, (Only.step ((Only.refl _ _ s).mk_prt (by simp)) honly (by simp) (by simp [State.soloFence])).mk_prt (by simp), mget_mput _ _ _, ?_⟩
  have hprt : ((s.putFstat link ld ⟨2, seq, s.rd .SSN_ISSUED⟩).fenceGone (s.soloFence (.page link ld tag) d seq)).prt =
      (s.putFstat link ld ⟨2, seq, s.rd .SSN_ISSUED⟩).prt := honly.prt_eq (by simp)
  have hperst : ((s.putFstat link ld ⟨2, seq, s.rd .SSN_ISSUED⟩).fenceGone (s.soloFence (.page link ld tag) d seq)).prt.perst = s.prt.perst := by
    rw [hprt]; rfl
  exact hperst

theorem State.held_perm {s t : State} (hw : t.waits = s.waits) (hfch : t.fch = s.fch) (hf : t.fences.Perm s.fences) (k : Nat) (wr : Bool) :
    t.held k wr = s.held k wr := by
  unfold State.held
  rw [hw, hfch, (hf.filter _).length_eq]

/-- What a settle-page store's request is. -/
def settleReq (s : State) (link ld tag : Nat) (wb : Bool) : HostReq :=
  ⟨link, ld, s.rdi .SETTLE_PFN (ldIx link ld) * 4096, tag, 0, true, 0, fullMask, false, wb, 0⟩

theorem State.serveHost_settle {s : State} {r : HostReq} (hserves : s.ldServes r.link r.ld r.dpa = true)
    (hon : s.onSettlePage r.link r.ld r.dpa = true) (hwr : r.wr = true) :
    s.serveHost r = s.acceptFence (.page r.link r.ld r.tag) (s.ldDom r.link r.ld) (((mget s.prt.fstat (r.link, r.ld)).getD ⟨3, 0, 0⟩).seq + 1) := by
  unfold State.serveHost
  rw [if_neg (by simp [hserves]), if_pos hon, if_pos hwr]
  rfl

theorem State.onSettlePage_pfn {s : State} {link ld : Nat} (hen : s.fli .SETTLE_EN (ldIx link ld) = true) :
    s.onSettlePage link ld (s.rdi .SETTLE_PFN (ldIx link ld) * 4096) = true := by
  simp [State.onSettlePage, hen]

theorem exec_settlePageStore {s t : State} {link ld : Nat} (tag : Nat) (hstop : link ∉ s.prt.stopped)
    (hserve : ∀ wb, s.serveHost (settleReq s link ld tag wb) = t) (hroom : t.held link true < t.halfTracker link) :
    exec (.settlePageStore link ld tag) s = .next t := by
  have hport : s.portWrite (settleReq s link ld tag false) = t := by
    unfold State.portWrite
    rw [if_neg (by simp [settleReq, hstop])]
    exact (congrArg (fun u : State => u.creditStop link) (hserve _)).trans (State.creditStop_room hroom)
  exact congrArg Host.Outcome.next hport

/-! ### GPF -/

theorem State.gpfCheck_idle {s : State} {port : Nat} (h : port ∉ s.prt.gpf) : s.gpfCheck port = s :=
  if_neg (by simp [h])

/-- A fence of GPF accepted where there is no twin, before the port's phase is pending: it is answered at once. -/
theorem State.acceptFence_gpf {s : State} {port : Nat} (hopn : s.mir.opn = []) (hst : s.rd .STATE = mirNoTwin) (hport : port ∉ s.prt.gpf) (d : Nat) :
    (s.acceptFence (.gpf port) d 0).fences.Perm s.fences ∧ Only [.prt, .fences] [(.STALLED, d)] s (s.acceptFence (.gpf port) d 0) ∧
    (s.acceptFence (.gpf port) d 0).prt.gpf = s.prt.gpf := by
  have hzero : (s.rd .STATE != mirNoTwin && !s.ownsUnmatched d && !s.outstanding d) = false := by rw [hst]; rfl
  have hres := State.fenceResult_noTwin (s := s.addFence (s.soloFence (.gpf port) d 0)) hst (s.soloFence (.gpf port) d 0)
  obtain ⟨hperm, honly⟩ := s.fenceGone_facts (s.soloFence (.gpf port) d 0)
  have hprt : (s.fenceGone (s.soloFence (.gpf port) d 0)).prt = s.prt := honly.prt_eq (by simp)
  have hdone : (s.addFence (s.soloFence (.gpf port) d 0)).fenceDone (s.soloFence (.gpf port) d 0) true =
      { s.fenceGone (s.soloFence (.gpf port) d 0) with
        prt := { (s.fenceGone (s.soloFence (.gpf port) d 0)).prt with
          gpfSolo := (s.fenceGone (s.soloFence (.gpf port) d 0)).prt.gpfSolo ++ [(port, d)] } } := by
    refine State.gpfCheck_idle (s := { s.fenceGone (s.soloFence (.gpf port) d 0) with
      prt := { (s.fenceGone (s.soloFence (.gpf port) d 0)).prt with
        gpfSolo := (s.fenceGone (s.soloFence (.gpf port) d 0)).prt.gpfSolo ++ [(port, d)] } }) ?_
    show port ∉ (s.fenceGone (s.soloFence (.gpf port) d 0)).prt.gpf
    rw [hprt]
    exact hport
  have haccept : s.acceptFence (.gpf port) d 0 = (s.addFence (s.soloFence (.gpf port) d 0)).fenceDone (s.soloFence (.gpf port) d 0) true := by
    unfold State.acceptFence
    rw [State.closeAll_none hopn]
    simp only [hzero, Bool.false_eq_true, if_false]
    show (match (s.addFence (s.soloFence (.gpf port) d 0)).fenceResult (s.soloFence (.gpf port) d 0) true with | some r => _ | none => _) = _
    rw [hres]
    rfl
  have hgpf : (s.fenceGone (s.soloFence (.gpf port) d 0)).prt.gpf = s.prt.gpf := by rw [hprt]
  rw [haccept, hdone]
  exact ⟨hperm, (honly.mono (by simp) (by simp [State.soloFence])).mk_prt (by simp), hgpf⟩

theorem State.acceptFences_gpf {s : State} {port : Nat} (hopn : s.mir.opn = []) (hst : s.rd .STATE = mirNoTwin) (hport : port ∉ s.prt.gpf)
    (ds : List Nat) :
    (s.each ds fun s d => s.acceptFence (.gpf port) d 0).fences.Perm s.fences ∧
    Only [.prt, .fences] (ds.map fun d => (.STALLED, d)) s (s.each ds fun s d => s.acceptFence (.gpf port) d 0) ∧
    (s.each ds fun s d => s.acceptFence (.gpf port) d 0).prt.gpf = s.prt.gpf := by
  refine State.each_inv (P := fun u => u.fences.Perm s.fences ∧ Only [.prt, .fences] (ds.map fun d => (Fld.STALLED, d)) s u ∧ u.prt.gpf = s.prt.gpf) ds
    ⟨List.Perm.refl _, Only.refl _ _ s, rfl⟩ fun u d hd ⟨hperm, honly, hgpf⟩ => ?_
  obtain ⟨hperm', honly', hgpf'⟩ := State.acceptFence_gpf (s := u) (port := port) ((congrArg MirS.opn (honly.mir_eq (by simp))).trans hopn)
    ((honly.rd_eq (by simp)).trans hst) (hgpf ▸ hport) d
  refine ⟨hperm'.trans hperm, honly.step honly' (by simp) fun x hx => ?_, hgpf'.trans hgpf⟩
  rw [List.mem_singleton.1 hx]
  exact List.mem_map_of_mem hd

/-- Phase 2 is pending on a port. -/
def State.gpfPending (s : State) (port : Nat) : State := { s with prt := { s.prt with gpf := s.prt.gpf ++ [port] } }

/-- Phase 2 ends on a port without a pending fence (R39). -/
theorem State.gpfCheck_done {s : State} {port : Nat} (hp : port ∈ s.prt.gpf) (hf : ∀ f ∈ s.fences, f.src ≠ .gpf port) :
    .gpfDone port ∈ (s.gpfCheck port).out ∧ port ∉ (s.gpfCheck port).prt.gpf ∧ (s.gpfCheck port).fences = s.fences ∧
    Only [.prt, .out, .dbk] dbkRegs s (s.gpfCheck port) := by
  have hany : (s.fences.any fun f => f.src == .gpf port) = false := List.any_eq_false.2 fun f hm => by simpa using hf f hm
  have heach : Only [.dbk] dbkRegs s (s.each (s.prt.gpfSolo.filter fun x => x.1 == port) fun s x => s.record clsWarn x.2 39 (item 8 1)) :=
    Only.each (Only.refl _ _ s) fun u x _ hu => hu.record (by simp) (by simp)
  unfold State.gpfCheck
  rw [if_pos (by rw [hany]; simpa using hp)]
  generalize (s.each (s.prt.gpfSolo.filter fun x => x.1 == port) fun s x => s.record clsWarn x.2 39 (item 8 1)) = u at heach
  refine ⟨List.mem_append_right _ (List.mem_singleton.2 rfl), ?_, heach.fences_eq (by simp), ?_⟩
  · show port ∉ without u.prt.gpf port
    simp [without]
  · exact ((heach.mono (by simp) (by simp)).mk_prt (by simp)).send (by simp)

/-! ### The obligation -/

theorem exec_settlePageTimeout {s : State} {link ld tag : Nat} {f : Fence} (hm : f ∈ s.fences) (hsrc : f.src = .page link ld tag) (hfr : f.freed = false) :
    ∃ x, exec (.settlePageTimeout link ld tag) s =
      .next (({ s with fences := s.fences.map fun g => if g = x then { g with freed := true } else g } : State).complete link ld tag) := by
  have hsome : (s.fences.find? fun f => f.src == .page link ld tag && !f.freed).isSome = true :=
    List.find?_isSome.2 ⟨f, hm, by simp [hsrc, hfr]⟩
  obtain ⟨x, hx⟩ := Option.isSome_iff_exists.1 hsome
  refine ⟨x, ?_⟩
  rw [exec, execSettlePageTimeout, hx]

/-- The fences of a port's phase 2 given up, each with its record (R39). -/
def State.gpfLate (s : State) (port : Nat) : State :=
  State.each { s with fences := s.fences.filter fun f => f.src != FSrc.gpf port } (s.fences.filter fun f => f.src == .gpf port)
    fun s f => (s.record clsWarn f.dom 39 (item 8 2)).stallEnd f.dom

theorem State.gpfLate_facts (s : State) (port : Nat) :
    (s.gpfLate port).fences = s.fences.filter (fun f => f.src != FSrc.gpf port) ∧ (s.gpfLate port).prt = s.prt ∧
    Only [.fences, .dbk] (s.fences.map (fun f => (.STALLED, f.dom)) ++ dbkRegs) s (s.gpfLate port) := by
  have hdbk : dbkRegs ⊆ s.fences.map (fun f => (Fld.STALLED, f.dom)) ++ dbkRegs := List.subset_append_right _ _
  have heach : Only [.dbk] (s.fences.map (fun f => (Fld.STALLED, f.dom)) ++ dbkRegs) { s with fences := s.fences.filter fun f => f.src != FSrc.gpf port }
      (s.gpfLate port) :=
    Only.each (Only.refl _ _ _) fun u f hf hu => (hu.record (by simp) hdbk).step (State.stallEnd_only _ _) (by simp) fun x hx => by
      rw [List.mem_singleton.1 hx]
      exact List.mem_append_left _ (List.mem_map.2 ⟨f, (List.mem_filter.1 hf).1, rfl⟩)
  exact ⟨heach.fences_eq (by simp), heach.prt_eq (by simp), Only.step ((Only.refl _ _ s).mk_fences (by simp)) heach (by simp) (by simp)⟩

/-- Settles O12: without a twin a fence is judged as it is accepted, so a settle-page store and GPF's fences end at once. -/
theorem fencesComplete : Obligations.FencesComplete := by
  unfold Obligations.FencesComplete
  refine ⟨?store, ?timeout, ?gpf, ?gpfTimeout⟩
  case store =>
    intro s link ld tag hrun hserves hen hst hopn hmute hother hstop hroom
    generalize hseq : ((mget s.prt.fstat (link, ld)).getD ⟨3, 0, 0⟩).seq + 1 = seq
    obtain ⟨hperm, honly, hfstat, hperst⟩ := s.pageFenced_facts link ld tag (s.ldDom link ld) seq
    generalize hu : s.pageFenced link ld tag (s.ldDom link ld) seq = u at hperm honly hfstat hperst
    have hmute' : u.mute link = false := (State.mute_congr hperst (honly.regs _ _ (by simp))).trans hmute
    obtain ⟨⟨v, hout⟩, hdone⟩ := State.complete_facts hmute' ld tag
    have hserve : ∀ wb, s.serveHost (settleReq s link ld tag wb) = u.complete link ld tag := fun wb => by
      have hreq := State.serveHost_settle (r := settleReq s link ld tag wb) hserves (State.onSettlePage_pfn hen) rfl
      rw [hreq]
      show s.acceptFence (.page link ld tag) (s.ldDom link ld) (((mget s.prt.fstat (link, ld)).getD ⟨3, 0, 0⟩).seq + 1) = _
      rw [State.acceptFence_page hopn hst hother, hseq, hu]
    have hroom' : (u.complete link ld tag).held link true < (u.complete link ld tag).halfTracker link := by
      have hsplit : (u.complete link ld tag).halfTracker link = s.halfTracker link := by
        rw [State.halfTracker, State.halfTracker, State.fli_eq ((hdone.regs .SPLIT_ACT _ (by simp)).trans (honly.regs .SPLIT_ACT _ (by simp)))]
      rw [hsplit, State.held_perm ((hdone.waits_eq (by simp)).trans (honly.waits_eq (by simp))) ((hdone.fch_eq (by simp)).trans (honly.fch_eq (by simp)))
        ((hdone.fences_eq (by simp)).symm ▸ hperm)]
      exact hroom
    refine ⟨_, v, seq, exec_settlePageStore tag hstop hserve hroom', rfl, ?_, ?_, fun f hf => ?_, (honly.mono (by simp) (by simp)).step hdone (by simp) (by simp)⟩
    · rw [hdone.prt_eq (by simp)]
      exact hfstat
    · rw [hout]
      exact List.mem_append_right _ (List.mem_singleton.2 rfl)
    · rw [hdone.fences_eq (by simp)] at hf
      exact hperm.mem_iff.1 hf
  case timeout =>
    intro s link ld tag f hm hsrc hfr hmute
    obtain ⟨x, hexec⟩ := exec_settlePageTimeout hm hsrc hfr
    generalize hu : ({ s with fences := s.fences.map fun g => if g = x then { g with freed := true } else g } : State) = u at hexec
    have honly : Only [.fences] [] s u := hu ▸ (Only.refl _ _ s).mk_fences (by simp)
    have hmute' : u.mute link = false := (State.mute_congr (congrArg PrtS.perst (honly.prt_eq (by simp))) (honly.regs _ _ (by simp))).trans hmute
    obtain ⟨⟨v, hout⟩, hdone⟩ := State.complete_facts hmute' ld tag
    refine ⟨_, v, hexec, ?_, ?_, (honly.mono (by simp) (by simp)).step hdone (by simp) (by simp)⟩
    · rw [hout, honly.out_eq (by simp)]
    · rw [hdone.fences_eq (by simp), ← hu]
      show (s.fences.map _).map _ = _
      rw [List.map_map]
      refine List.map_congr_left fun g _ => ?_
      simp only [Function.comp_apply]
      split <;> rfl
  case gpf =>
    intro s port hrun hport hst hopn hsrc
    obtain ⟨hperm, honly, -⟩ := State.acceptFences_gpf hopn hst hport (s.portDomains port)
    have hexec : exec (.gpfPhase2 port) s =
        .next (((s.each (s.portDomains port) fun s d => s.acceptFence (.gpf port) d 0).gpfPending port).gpfCheck port) := by
      rw [exec, execGpfPhase2, if_neg (by simp [hport, hrun])]
      rfl
    generalize s.each (s.portDomains port) (fun s d => s.acceptFence (.gpf port) d 0) = u at hperm honly hexec
    have hpend : Only [.prt] [] u (u.gpfPending port) := (Only.refl _ _ u).mk_prt (by simp)
    obtain ⟨hout, hgone, hfences, hcheck⟩ := State.gpfCheck_done (s := u.gpfPending port) (port := port)
      (List.mem_append_right _ (List.mem_singleton.2 rfl)) fun f hf => hsrc f (hperm.mem_iff.1 hf)
    refine ⟨_, hexec, hout, hgone, fun f hf => ?_, ?_⟩
    · rw [hfences] at hf
      exact hperm.mem_iff.1 hf
    · exact (((honly.mono (by simp) (List.subset_append_left _ _)).step hpend (by simp) (by simp))).step hcheck (by simp) (List.subset_append_right _ _)
  case gpfTimeout =>
    intro s port hport
    have hexec : exec (.gpfPhase2Timeout port) s = .next ((s.gpfLate port).gpfCheck port) := by
      rw [exec, execGpfPhase2Timeout, if_neg (by simpa using hport)]
      rfl
    obtain ⟨hfences, hprt, honly⟩ := s.gpfLate_facts port
    have hnone : ∀ f ∈ (s.gpfLate port).fences, f.src ≠ .gpf port := fun f hf => by
      rw [hfences] at hf
      simpa using (List.mem_filter.1 hf).2
    obtain ⟨hout, hgone, hfences', hcheck⟩ := State.gpfCheck_done (s := s.gpfLate port) (port := port) (hprt ▸ hport) hnone
    refine ⟨_, hexec, hout, hgone, fun f => ?_, (honly.mono (by simp) (fun _ h => h)).step hcheck (by simp) (List.subset_append_right _ _)⟩
    rw [hfences', hfences, List.mem_filter]
    simp

end Sys2Proof.Machine
end

section
/-! Metadata commands: the run of one, its journal entry and the twin's copy of it (R41, R143, R327): a layer for O21 and O22. -/

namespace Sys2Proof.Machine

/-! ### The metadata but for the reservation of SSNs -/

/-- The metadata without SSN_END, which the twin's records move on (R327). -/
def State.core (s : State) : MetaData := { s.md with ssnEnd := 0 }

theorem core_of_md {s t : State} (h : t.md = s.md) : t.core = s.core := by rw [State.core, State.core, h]

theorem core_ledger {s t : State} (h : t.core = s.core) : t.md.ledger = s.md.ledger := by
  have hc := congrArg MetaData.ledger h
  exact hc
theorem core_wins {s t : State} (h : t.core = s.core) : t.md.wins = s.md.wins := by
  have hc := congrArg MetaData.wins h
  exact hc
theorem core_fmap {s t : State} (h : t.core = s.core) : t.md.fmap = s.md.fmap := by
  have hc := congrArg MetaData.fmap h
  exact hc

theorem State.ssnReserve_core (s : State) : s.ssnReserve.core = s.core := by
  unfold State.ssnReserve
  split
  · rw [State.core, State.journal_md]; rfl
  · rfl

theorem State.nextSsn_core (s : State) : s.nextSsn.core = s.core := State.ssnReserve_core _

theorem State.addRec_core (s : State) (lane : Nat) (ty : RTy) (obj cpage mask poison : Nat) (lines : List (Nat × Line)) (ops : List JOp) (dom : Nat)
    (resync : Bool) : (s.addRec lane ty obj cpage mask poison lines ops dom resync).core = s.core := by
  have hclose : (s.closeLane lane).core = s.core :=
    core_of_md ((State.closeLane_in (ft := State.closeLane_foot) (In.refl _ s) (Foot.le_refl _)).parts .md (by decide))
  have hqueue : ∀ (u : State) (r : MRec), (u.queueRec r).core = u.core := fun u r =>
    core_of_md ((State.queueRec_in (ft := State.queueRec_foot) (In.refl _ u) (Foot.le_refl _)).parts .md (by decide))
  unfold State.addRec
  exact (hqueue _ _).trans ((State.nextSsn_core _).trans hclose)

theorem State.tellTwin_core (s : State) (obj : Nat) (o : Obj) (d : Nat) : (s.tellTwin obj o d).core = s.core := by
  unfold State.tellTwin State.mirMeta
  split
  · split
    · exact State.addRec_core _ _ _ _ _ _ _ _ _ _ _
    · rfl
  · rfl

/-- The twin's copy of a change leaves the engine and the frames alone. -/
theorem State.tellTwin_parts (s : State) (obj : Nat) (o : Obj) (d : Nat) :
    (s.tellTwin obj o d).cmd = s.cmd ∧ (s.tellTwin obj o d).tpe = s.tpe := by
  have hin : In State.tellTwin_foot s (s.tellTwin obj o d) := State.tellTwin_in (In.refl _ s) (Foot.le_refl _)
  exact ⟨hin.parts .cmd (by decide), hin.parts .tpe (by decide)⟩

theorem State.journal_parts (s : State) (ops : List JOp) : (s.journal ops).cmd = s.cmd ∧ (s.journal ops).tpe = s.tpe := by
  have hin := s.journal_frame ops
  exact ⟨hin.parts .cmd (by decide), hin.parts .tpe (by decide)⟩

/-! ### The run of a metadata command -/

/-- A metadata command runs: its entry takes the place of its admitted charge (R143). -/
def State.metaStart (s : State) (c : Cmd) : State := s.updCmd c.uid fun x => { x with jr := false }

theorem State.metaStart_mem {s : State} {c : Cmd} (h : c ∈ s.cmd.cmds) : { c with jr := false } ∈ (s.metaStart c).cmd.cmds :=
  List.mem_map.2 ⟨c, h, if_pos rfl⟩

theorem State.ended_updCmd {s : State} {c : Cmd} {status r0 r1 : Nat} (h : s.ended c status r0 r1) (uid : Nat) {f : Cmd → Cmd}
    (hf : ∀ x, (f x).uid = x.uid ∧ (f x).words = x.words ∧ (f x).ph = x.ph ∧ (f x).status = x.status ∧ (f x).r0 = x.r0 ∧ (f x).r1 = x.r1) :
    (s.updCmd uid f).ended c status r0 r1 := by
  obtain ⟨hdone, x, hx, huid, hwords, hph, hst, hr0, hr1⟩ := h
  obtain ⟨fu, fw, fp, fs, f0, f1⟩ := hf x
  refine ⟨hdone, if x.uid = uid then f x else x, List.mem_map.2 ⟨x, hx, rfl⟩, ?_⟩
  split
  · exact ⟨fu.trans huid, fw.trans hwords, fp.trans hph, fs.trans hst, f0.trans hr0, f1.trans hr1⟩
  · exact ⟨huid, hwords, hph, hst, hr0, hr1⟩

/-- A metadata command that ends with success in its run. -/
theorem State.metaRun_ok {s u : State} {c : Cmd} {op : Nat} {f : State → Cmd → State} {r0 r1 : Nat} {out : Out}
    (hout : out = s.metaRun c.uid op f) (hrun : s.running? c.uid op = some c)
    (hf : f (s.metaStart c) c = u.cmdOk c r0 r1) (hmem : { c with jr := false } ∈ u.cmd.cmds) :
    ∃ t, out = .next t ∧ t.ended c 0 r0 r1 ∧ t.md = u.md ∧ t.tpe = u.tpe := by
  have hph : c.ph = .running := (State.running?_facts hrun).2.2.2.1
  have hend : (u.cmdOk c r0 r1).ended c 0 r0 r1 := State.cmdOk_ended hmem hph rfl rfl r0 r1 rfl
  have honly := u.cmdOk_only c r0 r1
  have hmd : (u.cmdOk c r0 r1).md = u.md := honly.md_eq (by simp)
  have htpe : (u.cmdOk c r0 r1).tpe = u.tpe := honly.tpe_eq (by simp)
  have hf' : f (s.updCmd c.uid fun x => { x with jr := false }) c = u.cmdOk c r0 r1 := hf
  rw [hout, State.metaRun, hrun]
  simp only [hf']
  split
  · exact ⟨_, rfl, State.ended_updCmd hend _ fun _ => ⟨rfl, rfl, rfl, rfl, rfl, rfl⟩, hmd, htpe⟩
  · exact ⟨_, rfl, hend, hmd, htpe⟩

/-- The same for one on an existing own object. -/
theorem State.metaObj_ok {s u : State} {c : Cmd} {o : Obj} {op : Nat} {f : State → Cmd → Obj → State} {r0 r1 : Nat} {out : Out}
    (hout : out = s.metaObj c.uid op f) (hrun : s.running? c.uid op = some c) (hown : s.own? (sqeObj c.words) = some o) (hf : f (s.metaStart c) c o = u.cmdOk c r0 r1)
    (hmem : { c with jr := false } ∈ u.cmd.cmds) :
    ∃ t, out = .next t ∧ t.ended c 0 r0 r1 ∧ t.md = u.md ∧ t.tpe = u.tpe := by
  refine State.metaRun_ok hout hrun ?_ hmem
  have hown' : (s.metaStart c).own? (sqeObj c.words) = some o := hown
  simp only [hown']
  exact hf

/-! ### Moves of pages without one -/

/-- The move that a request to promote or demote queues for a page (Table 08.3). -/
def queuedMove (id obj tp : Nat) (src : MSrc) (src0 dest : PgSt) (d dl : Nat) : Move :=
  ⟨id, obj, tp, src, [], .queued, src0, dest, 0, d, dl, false, false, false⟩

theorem State.noMove_queued {s : State} {obj tp : Nat} (h : ∀ m ∈ s.tpe.moves, ¬(m.obj = obj ∧ m.tp = tp)) :
    s.queuedOf obj tp = none ∧ s.moveOf obj tp = none := by
  refine ⟨List.find?_eq_none.2 fun m hm => ?_, List.find?_eq_none.2 fun m hm => ?_⟩
  · have := h m hm
    simp only [Bool.and_eq_true, beq_iff_eq]
    tauto
  · have := h m hm
    simp only [Bool.and_eq_true, beq_iff_eq]
    tauto

theorem State.wantT1_still {s : State} {obj tp : Nat} (h : ∀ m ∈ s.tpe.moves, ¬(m.obj = obj ∧ m.tp = tp)) (o : Obj) :
    s.wantT1 obj o tp = if (s.mapE (o.mapBase + tp)).st = .t1 then .already else .move := by
  obtain ⟨hq, hm⟩ := State.noMove_queued h
  rw [State.wantT1, hq, hm]

/-- What a promotion does for one page (R187). -/
def promoteAt (obj : Nat) (o : Obj) (src : MSrc) (d dl : Nat) (x : State × Counts) (tp : Nat) : State × Counts :=
  let n := x.2
  match x.1.wantT1 obj o tp with
  | .already => (x.1, { n with there := n.there + 1 })
  | .cancel m => (x.1.cancelMove m, { n with there := n.there + 1, c1 := n.c1 + 1 })
  | .attach m => (x.1.attachMove m src, { n with queued := n.queued + 1 })
  | .back => (x.1.queuePromote obj o tp src d dl, { n with queued := n.queued + 1, c2 := n.c2 + 1 })
  | .move => (x.1.queuePromote obj o tp src d dl, { n with queued := n.queued + 1 })

theorem State.promotePages_eq (s : State) (obj : Nat) (o : Obj) (tps : List Nat) (src : MSrc) (d : Nat) :
    s.promotePages obj o tps src d = tps.foldl (promoteAt obj o src d (s.nowUs + s.rd .PLACE_DL_US)) (s, ⟨0, 0, 0, 0⟩) := rfl

theorem promoteAt_here {obj : Nat} {o : Obj} {src : MSrc} {d dl : Nat} {x : State × Counts} {tp : Nat}
    (h : ∀ m ∈ x.1.tpe.moves, ¬(m.obj = obj ∧ m.tp = tp)) (hst : (x.1.mapE (o.mapBase + tp)).st = .t1) :
    promoteAt obj o src d dl x tp = (x.1, { x.2 with there := x.2.there + 1 }) := by
  unfold promoteAt
  simp only [State.wantT1_still h, if_pos hst]

theorem promoteAt_away {obj : Nat} {o : Obj} {src : MSrc} {d dl : Nat} {x : State × Counts} {tp : Nat}
    (h : ∀ m ∈ x.1.tpe.moves, ¬(m.obj = obj ∧ m.tp = tp)) (hst : (x.1.mapE (o.mapBase + tp)).st ≠ .t1) :
    promoteAt obj o src d dl x tp = (x.1.queuePromote obj o tp src d dl, { x.2 with queued := x.2.queued + 1 }) := by
  unfold promoteAt
  simp only [State.wantT1_still h, if_neg hst]

/-- Pages of a list that are not in DRAM, and those that are. -/
def State.pagesAway (s : State) (o : Obj) (tps : List Nat) : Nat := (tps.filter fun tp => (s.mapE (o.mapBase + tp)).st != .t1).length
def State.pagesHere (s : State) (o : Obj) (tps : List Nat) : Nat := (tps.filter fun tp => (s.mapE (o.mapBase + tp)).st == .t1).length

/-- A promotion over pages without a move queues one for each page that is not in DRAM (R159, R187). -/
theorem promoteAt_foldl (obj : Nat) (o : Obj) (src : MSrc) (d dl : Nat) {tps : List Nat} (hnd : tps.Nodup) (x : State × Counts)
    (hfree : ∀ m ∈ x.1.tpe.moves, m.obj = obj → m.tp ∉ tps) :
    (tps.foldl (promoteAt obj o src d dl) x).1.md = x.1.md ∧ (tps.foldl (promoteAt obj o src d dl) x).1.cmd = x.1.cmd ∧
    (tps.foldl (promoteAt obj o src d dl) x).1.tpe.moves.length = x.1.tpe.moves.length + x.1.pagesAway o tps ∧
    (tps.foldl (promoteAt obj o src d dl) x).2 =
      ⟨x.2.queued + x.1.pagesAway o tps, x.2.there + x.1.pagesHere o tps, x.2.c1, x.2.c2⟩ := by
  induction tps generalizing x with
  | nil => exact ⟨rfl, rfl, rfl, rfl⟩
  | cons tp r ih =>
    obtain ⟨hnot, hnd'⟩ := List.nodup_cons.1 hnd
    have hfree' : ∀ m ∈ x.1.tpe.moves, ¬(m.obj = obj ∧ m.tp = tp) := fun m hm ⟨ho, ht⟩ => hfree m hm ho (ht ▸ List.mem_cons_self)
    rw [List.foldl_cons]
    by_cases hst : (x.1.mapE (o.mapBase + tp)).st = .t1
    · rw [promoteAt_here hfree' hst]
      obtain ⟨hmd, hcmd, hlen, hcount⟩ := ih hnd' (x.1, { x.2 with there := x.2.there + 1 }) fun m hm ho ht => hfree m hm ho (List.mem_cons_of_mem _ ht)
      have haway : x.1.pagesAway o (tp :: r) = x.1.pagesAway o r := congrArg List.length (List.filter_cons_of_neg (by simp [hst]))
      have hhere : x.1.pagesHere o (tp :: r) = x.1.pagesHere o r + 1 := congrArg List.length (List.filter_cons_of_pos (by simp [hst]))
      refine ⟨hmd, hcmd, hlen.trans (by rw [haway]), hcount.trans ?_⟩
      exact Counts.mk.injEq .. ▸ ⟨by rw [haway], by rw [hhere, ← Nat.add_assoc]; exact Nat.add_right_comm .., rfl, rfl⟩
    · rw [promoteAt_away hfree' hst]
      have hmap : ∀ ix, (x.1.queuePromote obj o tp src d dl).mapE ix = x.1.mapE ix := fun _ => rfl
      obtain ⟨hmd, hcmd, hlen, hcount⟩ := ih hnd' (x.1.queuePromote obj o tp src d dl, { x.2 with queued := x.2.queued + 1 }) fun m hm ho ht => by
        obtain hm | hm := List.mem_append.1 hm
        · exact hfree m hm ho (List.mem_cons_of_mem _ ht)
        · rw [List.mem_singleton.1 hm] at ht
          exact hnot ht
      have haway : x.1.pagesAway o (tp :: r) = x.1.pagesAway o r + 1 := congrArg List.length (List.filter_cons_of_pos (by simp [hst]))
      have hhere : x.1.pagesHere o (tp :: r) = x.1.pagesHere o r := congrArg List.length (List.filter_cons_of_neg (by simp [hst]))
      have hq : (x.1.queuePromote obj o tp src d dl).tpe.moves.length = x.1.tpe.moves.length + 1 := List.length_append
      have hsame : ∀ l, (x.1.queuePromote obj o tp src d dl).pagesAway o l = x.1.pagesAway o l := fun _ => rfl
      have hsame' : ∀ l, (x.1.queuePromote obj o tp src d dl).pagesHere o l = x.1.pagesHere o l := fun _ => rfl
      refine ⟨hmd, hcmd, hlen.trans (by rw [haway, hsame, hq]; omega), hcount.trans ?_⟩
      exact Counts.mk.injEq .. ▸ ⟨by rw [hsame, haway, ← Nat.add_assoc]; exact Nat.add_right_comm .., by rw [hsame', hhere], rfl, rfl⟩

end Sys2Proof.Machine
end

section
/-! Window and placement commands (O22: R157 to R159, R185 to R188). -/

namespace Sys2Proof.Machine

/-- A page without a move that is in no tier but T1 (R158): the promotion queues one move. -/
theorem State.promotePages_one {s : State} {obj tp : Nat} {o : Obj} {src : MSrc} {d : Nat} (hstill : s.still obj)
    (hst : (s.mapE (o.mapBase + tp)).st ≠ .t1) :
    s.promotePages obj o [tp] src d = (s.queuePromote obj o tp src d (s.nowUs + s.rd .PLACE_DL_US), ⟨1, 0, 0, 0⟩) :=
  promoteAt_away (x := (s, ⟨0, 0, 0, 0⟩)) (fun m hm h => hstill m hm h.1) hst

/-- A resident page without a move that its object lets go (R188): the demotion queues one move. -/
theorem State.demotePages_one {s : State} {obj tp : Nat} {o : Obj} {dest : PgSt} {d : Nat} (hstill : s.still obj)
    (hst : (s.mapE (o.mapBase + tp)).st = .t1) (hmay : mayDemote o (s.mapE (o.mapBase + tp)) = true) (hto : demoteTo o = dest) :
    s.demotePages obj o [tp] dest d = (s.queueDemote obj tp dest .place d (s.nowUs + s.rd .PLACE_DL_US), ⟨1, 0, 0, 0⟩) := by
  obtain ⟨hq, hm⟩ := State.noMove_queued (tp := tp) fun m hm h => hstill m hm (And.left h)
  have hwant : s.wantOut obj o tp dest = .move := by
    rw [State.wantOut, hq, hm]
    exact if_pos hst
  have hout : (PgSt.t1 == PgSt.t2 || PgSt.t1 == PgSt.t3 || PgSt.t1 == PgSt.zero) = false := rfl
  simp only [State.demotePages, List.foldl_cons, List.foldl_nil, hwant, hst, hmay, hto, hout, Bool.false_and, Bool.false_eq_true, if_false,
    beq_self_eq_true, Bool.and_self, Bool.not_true]

theorem fmap_of_core {t : State} {m : MetaData} (h : t.core = { m with ssnEnd := 0 }) : t.md.fmap = m.fmap := by
  have hc := congrArg MetaData.fmap h
  exact hc

/-- What a metadata command and its copy to the twin leave: the journalled entries, and the engine and the frames as they were. -/
def State.journalled (s : State) (ops : List JOp) (obj : Nat) (o : Obj) (d : Nat) : State := (s.journal ops).tellTwin obj o d

theorem State.journalled_facts (s : State) (ops : List JOp) (obj : Nat) (o : Obj) (d : Nat) :
    (s.journalled ops obj o d).core = { ops.foldl JOp.apply s.md with ssnEnd := 0 } ∧
    (s.journalled ops obj o d).cmd = s.cmd ∧ (s.journalled ops obj o d).tpe = s.tpe := by
  obtain ⟨hcmd, htpe⟩ := s.journal_parts ops
  obtain ⟨hcmd', htpe'⟩ := (s.journal ops).tellTwin_parts obj o d
  refine ⟨(State.tellTwin_core _ obj o d).trans ?_, hcmd'.trans hcmd, htpe'.trans htpe⟩
  rw [State.core, State.journal_md]

/-- Dropping a hold that the domain has: the journalled hold map (R159). -/
theorem State.dropHold_held {s : State} {obj d : Nat} {o : Obj} (ho : s.obj? obj = some o) (hbit : bit o.holdMap d = true) :
    (s.dropHold obj d).md.ledger = mput s.md.ledger (obj, 0) { o with holdMap := setBit o.holdMap d false } ∧
    (s.dropHold obj d).cmd = s.cmd := by
  have hin : In State.dropHold_foot s (s.dropHold obj d) := State.dropHold_in (In.refl _ s) (Foot.le_refl _)
  refine ⟨?_, hin.parts .cmd (by decide)⟩
  have hpass : ∀ (u : State) (x : Obj), (u.passAcct obj d x).core = u.core := fun u x =>
    core_of_md ((State.passAcct_in (ft := State.passAcct_foot) (In.refl _ u) (Foot.le_refl _)).parts .md (by decide))
  have hmir : ∀ (u : State) (ops : List JOp), (u.mirMeta obj ops d).core = u.core := fun u ops => by
    unfold State.mirMeta
    split
    · exact State.addRec_core _ _ _ _ _ _ _ _ _ _ _
    · rfl
  have hj : (s.journal [.obj obj (some { o with holdMap := setBit o.holdMap d false })]).md.ledger =
      mput s.md.ledger (obj, 0) { o with holdMap := setBit o.holdMap d false } := by rw [State.journal_md]; rfl
  rw [State.dropHold, ho]
  simp only [hbit, Bool.not_true, Bool.false_eq_true, if_false]
  refine (core_ledger (hpass _ _)).trans (Eq.trans ?_ hj)
  split
  · exact core_ledger (hmir _ _)
  · rfl

/-- A metadata command that only journals its entries. -/
theorem State.metaJournal_ok {s : State} {c : Cmd} {o : Obj} {op : Nat} {f : State → Cmd → Obj → State} {r0 r1 d : Nat} {ops : List JOp} {out : Out}
    (hout : out = s.metaObj c.uid op f) (hrun : s.running? c.uid op = some c) (hown : s.own? (sqeObj c.words) = some o)
    (hf : f (s.metaStart c) c o = ((s.metaStart c).journalled ops (sqeObj c.words) o d).cmdOk c r0 r1) :
    ∃ t, out = .next t ∧ t.ended c 0 r0 r1 ∧ t.core = { ops.foldl JOp.apply s.md with ssnEnd := 0 } := by
  obtain ⟨hcore, hcmd, -⟩ := (s.metaStart c).journalled_facts ops (sqeObj c.words) o d
  obtain ⟨t, ht, hend, hmd, -⟩ := State.metaObj_ok hout hrun hown hf (hcmd ▸ State.metaStart_mem (State.running?_facts hrun).2.1)
  exact ⟨t, ht, hend, (core_of_md hmd).trans hcore⟩

theorem exec_windowMap {s : State} {c : Cmd} {o : Obj} {w : Win} {k : Key} (hrun : s.running? c.uid opMap = some c)
    (hown : s.own? (sqeObj c.words) = some o) (hcheck : s.checkMap c o = none) (hk : k = (ldIx (winTarget c).1 (winTarget c).2, winDpa c / 65536))
    (hw : w = ⟨bit (sqeW c.words 1) 40, sqeObj c.words, bits (sqeW c.words 5) 0 48 / 65536, sqeOfs c.words / 65536⟩) :
    ∃ t, exec (.windowMap c.uid) s = .next t ∧ t.ended c 0 (winDpa c) (bits (sqeW c.words 5) 0 48) ∧ t.md.wins = mput s.md.wins k w ∧
      t.md.ledger = mput s.md.ledger (sqeObj c.words, 0) { o with winCnt := o.winCnt + 1 } ∧ t.md.fmap = s.md.fmap := by
  subst hk hw
  have hcheck' : (s.metaStart c).checkMap c o = none := hcheck
  obtain ⟨t, ht, hend, hcore⟩ := State.metaJournal_ok (out := execWindowMap c.uid s) (d := c.dom) (r0 := winDpa c)
    (r1 := bits (sqeW c.words 5) 0 48) (ops := [.win (ldIx (winTarget c).1 (winTarget c).2, winDpa c / 65536)
      (some ⟨bit (sqeW c.words 1) 40, sqeObj c.words, bits (sqeW c.words 5) 0 48 / 65536, sqeOfs c.words / 65536⟩),
      .obj (sqeObj c.words) (some { o with winCnt := o.winCnt + 1 })]) rfl hrun hown (by simp only [hcheck', State.journalled])
  exact ⟨t, ht, hend, congrArg MetaData.wins hcore, congrArg MetaData.ledger hcore, (fmap_of_core hcore).trans rfl⟩

theorem exec_windowUnmap {s : State} {c : Cmd} {o : Obj} {w : Win} {k : Key} (hrun : s.running? c.uid opUnmap = some c)
    (hown : s.own? (sqeObj c.words) = some o) (hk : k = (ldIx (winTarget c).1 (winTarget c).2, winDpa c / 65536))
    (hw : mget s.md.wins k = some w) (hobj : w.obj = sqeObj c.words) (hclear : s.framesClear (s.winFrames k w) = true) :
    ∃ t, exec (.windowUnmap c.uid) s = .next t ∧ t.ended c 0 (winDpa c) (w.wlen * 65536) ∧ t.md.wins = mdel s.md.wins k ∧
      t.md.ledger = mput s.md.ledger (sqeObj c.words, 0) { o with winCnt := o.winCnt - 1 } ∧ t.md.fmap = s.md.fmap := by
  subst hk
  have hw' : mget (s.metaStart c).md.wins (ldIx (winTarget c).1 (winTarget c).2, winDpa c / 65536) = some w := hw
  have hclear' : (s.metaStart c).framesClear ((s.metaStart c).winFrames (ldIx (winTarget c).1 (winTarget c).2, winDpa c / 65536) w) = true := hclear
  obtain ⟨t, ht, hend, hcore⟩ := State.metaJournal_ok (out := execWindowUnmap c.uid s) (d := c.dom) (r0 := winDpa c) (r1 := w.wlen * 65536)
    (ops := [.win (ldIx (winTarget c).1 (winTarget c).2, winDpa c / 65536) none, .obj (sqeObj c.words) (some { o with winCnt := o.winCnt - 1 })])
    rfl hrun hown (by simp only [hw', hobj, hclear', State.journalled, ne_eq, not_true_eq_false, if_false, Bool.not_true, Bool.false_eq_true])
  exact ⟨t, ht, hend, congrArg MetaData.wins hcore, congrArg MetaData.ledger hcore, (fmap_of_core hcore).trans rfl⟩

/-- PLACE of one page to T1 (R187). -/
theorem exec_place_up {s : State} {c : Cmd} {o : Obj} {tp : Nat} (hrun : s.running? c.uid opPlace = some c)
    (hown : s.own? (sqeObj c.words) = some o) (hcheck : s.checkPlace c o = none) (htier : sqeTier c.words = 1) (hpages : placePages c = [tp])
    (hstill : s.still (sqeObj c.words)) (hst : (s.mapE (o.mapBase + tp)).st ≠ .t1) :
    ∃ t, exec (.place c.uid) s = .next t ∧ t.ended c 0 1 0 ∧ t.md = s.md ∧
      t.tpe.moves = s.tpe.moves ++ [queuedMove s.tpe.moveId (sqeObj c.words) tp .place (s.mapE (o.mapBase + tp)).st .t1 c.dom (s.nowUs + s.rd .PLACE_DL_US)] := by
  have hcheck' : (s.metaStart c).checkPlace c o = none := hcheck
  have hup := State.promotePages_one (s := s.metaStart c) (src := .place) (d := c.dom) hstill hst
  obtain ⟨t, ht, hend, hmd, htpe⟩ := State.metaObj_ok (out := execPlace c.uid s) (r0 := 1) (r1 := 0)
    (u := (s.metaStart c).queuePromote (sqeObj c.words) o tp .place c.dom ((s.metaStart c).nowUs + (s.metaStart c).rd .PLACE_DL_US))
    rfl hrun hown (by simp only [hcheck', htier, if_true, hpages, hup, State.placeOk]; rfl) (State.metaStart_mem (State.running?_facts hrun).2.1)
  exact ⟨t, ht, hend, hmd, congrArg TpeS.moves htpe⟩

/-- PLACE of one resident page to T2 (R188). -/
theorem exec_place_down {s : State} {c : Cmd} {o : Obj} {tp : Nat} (hrun : s.running? c.uid opPlace = some c)
    (hown : s.own? (sqeObj c.words) = some o) (hcheck : s.checkPlace c o = none) (htier : sqeTier c.words = 2) (hpages : placePages c = [tp])
    (hstill : s.still (sqeObj c.words)) (hst : (s.mapE (o.mapBase + tp)).st = .t1) (hpers : o.persist = true) (hlow : o.lowest ≠ 1)
    (hhold : o.holdMap = 0) :
    ∃ t, exec (.place c.uid) s = .next t ∧ t.ended c 0 1 0 ∧ t.md = s.md ∧
      t.tpe.moves = s.tpe.moves ++ [queuedMove s.tpe.moveId (sqeObj c.words) tp .place .t1 .t2 c.dom (s.nowUs + s.rd .PLACE_DL_US)] := by
  have hcheck' : (s.metaStart c).checkPlace c o = none := hcheck
  have hown' : (s.metaStart c).own? (sqeObj c.words) = some o := hown
  have hdrop : (s.metaStart c).dropHold (sqeObj c.words) c.dom = s.metaStart c := by
    rw [State.dropHold, State.obj?_of_own hown']
    exact if_pos (by simp [hhold, bit])
  have hdown := State.demotePages_one (s := s.metaStart c) (dest := .t2) (d := c.dom) hstill hst
    (by simp [mayDemote, hhold, hpers, hlow]) (by simp [demoteTo, hpers])
  obtain ⟨t, ht, hend, hmd, htpe⟩ := State.metaObj_ok (out := execPlace c.uid s) (r0 := 1) (r1 := 0)
    (u := (s.metaStart c).queueDemote (sqeObj c.words) tp .t2 .place c.dom ((s.metaStart c).nowUs + (s.metaStart c).rd .PLACE_DL_US))
    rfl hrun hown (by
      simp only [hcheck', htier, hpages, hdrop, hown', Option.getD_some, hdown, State.placeOk, if_true, OfNat.ofNat_ne_one, Nat.reduceEqDiff, if_false]
      rfl) (State.metaStart_mem (State.running?_facts hrun).2.1)
  exact ⟨t, ht, hend, hmd, congrArg TpeS.moves htpe⟩

/-- HOLD of a domain that does not hold the object yet (R159). -/
theorem exec_hold {s : State} {c : Cmd} {o : Obj} (hrun : s.running? c.uid opHold = some c)
    (hown : s.own? (sqeObj c.words) = some o) (hcheck : s.checkHold c o = none) (hbit : bit o.holdMap c.dom = false)
    (hstill : s.still (sqeObj c.words)) :
    ∃ t, exec (.hold c.uid) s = .next t ∧
      t.ended c 0 (s.pagesAway o (List.range o.pages) % 2 ^ 32 + s.pagesHere o (List.range o.pages) % 2 ^ 32 * 2 ^ 32) 0 ∧
      t.tpe.moves.length = s.tpe.moves.length + s.pagesAway o (List.range o.pages) ∧
      t.md.ledger = mput s.md.ledger (sqeObj c.words, 0) { o with holdMap := setBit o.holdMap c.dom true } := by
  have hcheck' : (s.metaStart c).checkHold c o = none := hcheck
  let o' : Obj := { o with holdMap := setBit o.holdMap c.dom true }
  let v : State := (s.metaStart c).journalled [.obj (sqeObj c.words) (some o')] (sqeObj c.words) o c.dom
  obtain ⟨hcore, hcmd, htpe⟩ := (s.metaStart c).journalled_facts [.obj (sqeObj c.words) (some o')] (sqeObj c.words) o c.dom
  have hfmap : v.md.fmap = s.md.fmap := (fmap_of_core hcore).trans rfl
  have hmap : ∀ ix, v.mapE ix = s.mapE ix := fun ix => by
    rw [State.mapE, State.mapE, hfmap]
  have haway : v.pagesAway o' (List.range o.pages) = s.pagesAway o (List.range o.pages) := by simp only [State.pagesAway, hmap, o']
  have hhere : v.pagesHere o' (List.range o.pages) = s.pagesHere o (List.range o.pages) := by simp only [State.pagesHere, hmap, o']
  obtain ⟨hmd, hcmd', hlen, hcount⟩ := promoteAt_foldl (sqeObj c.words) o' .hold c.dom (v.nowUs + v.rd .PLACE_DL_US) List.nodup_range
    (tps := List.range o.pages) (v, ⟨0, 0, 0, 0⟩) fun m hm ho => absurd ho (hstill m (htpe ▸ hm))
  rw [← State.promotePages_eq] at hmd hcmd' hlen hcount
  generalize hr : v.promotePages (sqeObj c.words) o' (List.range o.pages) .hold c.dom = r at hmd hcmd' hlen hcount
  obtain ⟨t, ht, hend, htmd, httpe⟩ := State.metaObj_ok (out := execHold c.uid s) (u := r.1)
    (r0 := s.pagesAway o (List.range o.pages) % 2 ^ 32 + s.pagesHere o (List.range o.pages) % 2 ^ 32 * 2 ^ 32) (r1 := 0) rfl hrun hown
    (by
      simp only [hcheck', hbit, Bool.false_eq_true, if_false]
      refine (congrArg (fun x : State × Counts => x.1.placeOk c x.2) hr).trans ?_
      simp only [State.placeOk, hcount, haway, hhere, Nat.zero_add, Nat.zero_mod, Nat.zero_mul])
    (by rw [hcmd', hcmd]; exact State.metaStart_mem (State.running?_facts hrun).2.1)
  refine ⟨t, ht, hend, ?_, ?_⟩
  · rw [httpe, hlen, haway]
    exact congrArg (fun x : TpeS => x.moves.length + _) htpe
  · rw [htmd, hmd]
    exact congrArg MetaData.ledger hcore

/-- RELEASE by a domain that holds the object (R159). -/
theorem exec_release {s : State} {c : Cmd} {o : Obj} (hrun : s.running? c.uid opRelease = some c)
    (hown : s.own? (sqeObj c.words) = some o) (hbit : bit o.holdMap c.dom = true) :
    ∃ t, exec (.release c.uid) s = .next t ∧ t.ended c 0 (popCount (setBit o.holdMap c.dom false) 256) 0 ∧
      t.md.ledger = mput s.md.ledger (sqeObj c.words, 0) { o with holdMap := setBit o.holdMap c.dom false } := by
  obtain ⟨hledger, hcmd⟩ := State.dropHold_held (s := s.metaStart c) (d := c.dom) (State.obj?_of_own hown) hbit
  generalize hu : (s.metaStart c).dropHold (sqeObj c.words) c.dom = u at hledger hcmd
  have hobj : u.obj? (sqeObj c.words) = some { o with holdMap := setBit o.holdMap c.dom false } := by
    rw [State.obj?, hledger, mget_mput]
  obtain ⟨t, ht, hend, htmd, -⟩ := State.metaObj_ok (out := execRelease c.uid s) (u := u)
    (r0 := popCount (setBit o.holdMap c.dom false) 256) (r1 := 0) rfl hrun hown
    (by simp only [hu, hobj, Option.map_some, Option.getD_some]) (by rw [hcmd]; exact State.metaStart_mem (State.running?_facts hrun).2.1)
  exact ⟨t, ht, hend, htmd ▸ hledger⟩

/-- Settles O22: a window command journals its entry and the object's count; a placement of a page without a move queues one move; a
hold queues one for each page away from DRAM; a release journals the smaller hold map. -/
theorem windowAndPlacementCommands : Obligations.WindowAndPlacementCommands := by
  unfold Obligations.WindowAndPlacementCommands
  refine ⟨?map, ?unmap, ?up, ?down, ?hold, ?release⟩
  case map => exact fun s c o w k hrun hown hcheck hk hw => exec_windowMap hrun hown hcheck hk hw
  case unmap => exact fun s c o w k hrun hown hk hw hobj hclear => exec_windowUnmap hrun hown hk hw hobj hclear
  case up => exact fun s c o tp hrun hown hcheck htier hpages hstill hst => exec_place_up hrun hown hcheck htier hpages hstill hst
  case down =>
    exact fun s c o tp hrun hown hcheck htier hpages hstill hst hpers hlow hhold =>
      exec_place_down hrun hown hcheck htier hpages hstill hst hpers hlow hhold
  case hold =>
    rintro s c o q h hrun hown hcheck hbit hstill rfl rfl
    exact exec_hold hrun hown hcheck hbit hstill
  case release => exact fun s c o hrun hown hbit => exec_release hrun hown hbit

end Sys2Proof.Machine
end

section
/-! What freeing a page keeps of the metadata, the tracker and the engine (R154, R155, Table 07.8): a layer for O21. -/

namespace Sys2Proof.Machine

/-- The ledger, the windows, the tracker's moves and streams, the map blocks not loaded and the engine are as they were. -/
structure Kept (s t : State) : Prop where
  ledger : t.md.ledger = s.md.ledger
  wins : t.md.wins = s.md.wins
  moves : t.tpe.moves = s.tpe.moves
  streams : t.tpe.streams = s.tpe.streams
  unloaded : t.tpe.unloaded = s.tpe.unloaded
  cmd : t.cmd = s.cmd

theorem Kept.refl (s : State) : Kept s s := ⟨rfl, rfl, rfl, rfl, rfl, rfl⟩

theorem Kept.trans {s t u : State} (h : Kept s t) (g : Kept t u) : Kept s u :=
  ⟨g.ledger.trans h.ledger, g.wins.trans h.wins, g.moves.trans h.moves, g.streams.trans h.streams, g.unloaded.trans h.unloaded,
    g.cmd.trans h.cmd⟩

/-- A footprint that has none of the three parts keeps them. -/
theorem Kept.of_in {ft : Foot} {s t : State} (h : In ft s t)
    (hft : (Part.md.foot.le ft || Part.tpe.foot.le ft || Part.cmd.foot.le ft) = false) : Kept s t := by
  simp only [Bool.or_eq_false_iff] at hft
  obtain ⟨⟨hm, ht⟩, hc⟩ := hft
  have hmd : t.md = s.md := h.parts .md hm
  have htpe : t.tpe = s.tpe := h.parts .tpe ht
  exact ⟨by rw [hmd], by rw [hmd], by rw [htpe], by rw [htpe], by rw [htpe], h.parts .cmd hc⟩

theorem Kept.of_core {s t : State} (h : t.core = s.core) (ht : t.tpe = s.tpe) (hc : t.cmd = s.cmd) : Kept s t :=
  ⟨core_ledger h, core_wins h, by rw [ht], by rw [ht], by rw [ht], hc⟩

theorem Kept.ite {b : Prop} [Decidable b] {s t u : State} (h : b → Kept s t) (g : ¬b → Kept s u) : Kept s (if b then t else u) := by
  split
  · exact h ‹_›
  · exact g ‹_›

theorem Kept.each {α : Type} {f : State → α → State} (s : State) (l : List α) (h : ∀ u x, Kept u (f u x)) : Kept s (s.each l f) :=
  State.each_inv (P := Kept s) l (Kept.refl s) fun u x _ hu => hu.trans (h u x)

/-! ### Frames -/

theorem State.setFrame_kept (s : State) (f : Nat) (e : Frame) : Kept s (s.setFrame f e) := ⟨rfl, rfl, rfl, rfl, rfl, rfl⟩

theorem State.touch_kept (s : State) (f : Nat) : Kept s (s.touch f) := by
  unfold State.touch
  split
  · exact State.setFrame_kept _ _ _
  · exact Kept.refl s

theorem State.wr_kept (s : State) (f : Fld) (v : Nat) : Kept s (s.wr f v) := ⟨rfl, rfl, rfl, rfl, rfl, rfl⟩
theorem State.wri_kept (s : State) (f : Fld) (i v : Nat) : Kept s (s.wri f i v) := ⟨rfl, rfl, rfl, rfl, rfl, rfl⟩

theorem State.freeFrame_kept (s : State) (f : Nat) : Kept s (s.freeFrame f) := by
  unfold State.freeFrame
  split
  · exact Kept.refl s
  · rename_i e he
    have hdrop : Kept s (s.dropLines f) := Kept.of_in (ft := State.dropLines_foot) (State.dropLines_in (In.refl _ s) (Foot.le_refl _)) (by decide)
    have hceil : ∀ (u : State) (d : Nat), Kept u (u.ceilFlag d) := fun u d =>
      Kept.of_in (ft := State.ceilFlag_foot) (State.ceilFlag_in (In.refl _ u) (Foot.le_refl _)) (by decide)
    have hremap : ∀ (u : State) (g : Nat), Kept u (u.freeRemap g) := fun u g =>
      Kept.of_in (ft := State.freeRemap_foot) (State.freeRemap_in (In.refl _ u) (Foot.le_refl _)) (by decide)
    have hfloors : ∀ u : State, Kept u u.floors := fun u =>
      Kept.of_in (ft := State.floors_foot) (State.floors_in (In.refl _ u) (Foot.le_refl _)) (by decide)
    have hdry : ∀ u : State, Kept u (u.setf .POOL_DRY false) := fun u => ⟨rfl, rfl, rfl, rfl, rfl, rfl⟩
    extract_lets s1 t1 i1 s2 s3 s4 s5 i5 s6 s7
    have h2 : Kept s s2 := ⟨hdrop.ledger, hdrop.wins, hdrop.moves, hdrop.streams, hdrop.unloaded, hdrop.cmd⟩
    have h3 : Kept s s3 := h2.trans (State.wr_kept _ _ _)
    clear_value s3
    have h4 : Kept s s4 := h3.trans ((State.wri_kept _ _ _ _).trans (hceil _ _))
    clear_value s4
    have h6 : Kept s s6 := ⟨h4.ledger, h4.wins, h4.moves, h4.streams, h4.unloaded, h4.cmd⟩
    have h7 : Kept s s7 := h6.trans (hremap _ _)
    clear_value s7
    refine Kept.ite (fun _ => ?_) fun _ => ?_
    · exact h7.trans (((State.wr_kept _ _ _).trans (State.wr_kept _ _ _)).trans (hfloors _))
    · exact h4.trans ((State.wr_kept _ _ _).trans (hdry _))

theorem State.discardFrame_kept (s : State) (f : Nat) : Kept s (s.discardFrame f) := ⟨rfl, rfl, rfl, rfl, rfl, rfl⟩

/-! ### Charges -/

theorem State.releaseCp_kept (s : State) (ix k v : Nat) : Kept s (s.releaseCp ix k v) := by
  unfold State.releaseCp
  extract_lets m d
  exact Kept.ite (fun _ => ⟨rfl, rfl, rfl, rfl, rfl, rfl⟩) fun _ => Kept.refl s

theorem State.releasePage_kept (s : State) (ix : Nat) : Kept s (s.releasePage ix) := Kept.each s _ fun u k => State.releaseCp_kept u ix k 0

/-! ### Stores -/

theorem State.redirty_kept (s : State) (ix k : Nat) : Kept s (s.redirty ix k) := by
  unfold State.redirty
  extract_lets m
  exact Kept.ite (fun _ => ⟨rfl, rfl, rfl, rfl, rfl, rfl⟩) fun _ => Kept.refl s

theorem State.nextSsn_kept (s : State) : Kept s s.nextSsn := by
  refine Kept.of_core s.nextSsn_core ?_ ?_
  · exact (State.nextSsn_in (ft := State.nextSsn_foot) (In.refl _ s) (Foot.le_refl _)).parts .tpe (by decide)
  · exact (State.nextSsn_in (ft := State.nextSsn_foot) (In.refl _ s) (Foot.le_refl _)).parts .cmd (by decide)

theorem State.addLine_kept (s : State) (obj ofsLine : Nat) (data : Line) (poison : Bool) (dom : Nat) (resync : Bool) :
    Kept s (s.addLine obj ofsLine data poison dom resync) := by
  have hclose : ∀ lane, Kept s (s.closeLane lane) := fun lane =>
    Kept.of_in (ft := State.closeLane_foot) (State.closeLane_in (In.refl _ s) (Foot.le_refl _)) (by decide)
  unfold State.addLine
  extract_lets tp cpage j lane fits sA r sB sC
  have hC : Kept s sC := Kept.ite (fun _ => Kept.refl s) fun _ => ((hclose lane).trans (State.nextSsn_kept _)).trans ⟨rfl, rfl, rfl, rfl, rfl, rfl⟩
  split
  · exact hC
  · exact hC.trans ⟨rfl, rfl, rfl, rfl, rfl, rfl⟩

theorem State.mirStore_kept (s : State) (obj ofsLine : Nat) (data : Line) (poison : Bool) (dom : Nat) :
    Kept s (s.mirStore obj ofsLine data poison dom) := by
  have hsolo : ∀ (u : State) (tp : Nat), Kept u (u.soloMark obj tp) := fun u tp =>
    Kept.of_in (ft := State.soloMark_foot) (State.soloMark_in (In.refl _ u) (Foot.le_refl _)) (by decide)
  unfold State.mirStore
  extract_lets tp s1 s2
  have h1 : Kept s s1 := Kept.ite (fun _ => hsolo s tp) fun _ => Kept.refl s
  refine Kept.ite (fun _ => h1) fun _ => Kept.ite (fun _ => h1.trans (hsolo _ _)) fun _ => Kept.ite (fun _ => h1.trans (State.addLine_kept _ _ _ _ _ _ _)) fun _ => ?_
  exact (h1.trans (hsolo s1 tp)).trans ⟨rfl, rfl, rfl, rfl, rfl, rfl⟩

theorem State.stored_kept (s : State) (obj tp la : Nat) (data : Line) (poison : Bool) (d : Nat) : Kept s (s.stored obj tp la data poison d) := by
  unfold State.stored
  exact Kept.ite (fun _ => (State.redirty_kept _ _ _).trans (State.mirStore_kept _ _ _ _ _ _)) fun _ => State.redirty_kept _ _ _

/-! ### Requests at the front cache -/

theorem State.count_kept (s : State) (f : Fld) (i : Nat) (ovf : Fld) (oi b : Nat) : Kept s (s.count f i ovf oi b) := by
  have honly := State.count_only s f i ovf oi b
  have hmd : (s.count f i ovf oi b).md = s.md := honly.md_eq (by simp)
  have htpe : (s.count f i ovf oi b).tpe = s.tpe := honly.tpe_eq (by simp)
  exact ⟨by rw [hmd], by rw [hmd], by rw [htpe], by rw [htpe], by rw [htpe], honly.cmd_eq (by simp)⟩

theorem State.sfWrite_kept (s : State) (r : HostReq) (la : Nat) : Kept s (s.sfWrite r la) :=
  Kept.of_in (ft := State.sfWrite_foot) (State.sfWrite_in (In.refl _ s) (Foot.le_refl _)) (by decide)
theorem State.sfRead_kept (s : State) (r : HostReq) (la : Nat) : Kept s (s.sfRead r la) :=
  Kept.of_in (ft := State.sfRead_foot) (State.sfRead_in (In.refl _ s) (Foot.le_refl _)) (by decide)
theorem State.doneRead_kept (s : State) (r : HostReq) (data : Line) (poison : Bool) : Kept s (s.doneRead r data poison) :=
  Kept.of_in (ft := State.doneRead_foot) (State.doneRead_in (In.refl _ s) (Foot.le_refl _)) (by decide)
theorem State.doneWrite_kept (s : State) (r : HostReq) : Kept s (s.doneWrite r) :=
  Kept.of_in (ft := State.doneWrite_foot) (State.doneWrite_in (In.refl _ s) (Foot.le_refl _)) (by decide)

theorem State.storeBare_kept (s : State) (la obj tp : Nat) (data : Line) (m : Mask) (poison : Bool) (d cls : Nat) :
    Kept s (s.storeBare la obj tp data m poison d cls) := by
  have hwrite : ∀ x, Kept s (s.writeDram la x .fch cls) := fun x =>
    Kept.of_in (ft := State.writeDram_foot) (State.writeDram_in (In.refl _ s) (Foot.le_refl _)) (by decide)
  unfold State.storeBare
  exact (hwrite _).trans (State.stored_kept _ _ _ _ _ _ _)

theorem State.applyBare_kept (s : State) (la obj tp : Nat) (q : Req) : Kept s (s.applyBare la obj tp q) := by
  have ht := s.touch_kept (la / 1024)
  unfold State.applyBare
  extract_lets s1 d put
  split
  · exact ((ht.trans (State.storeBare_kept _ _ _ _ _ _ _ _ _)).trans (State.sfWrite_kept _ _ _)).trans (State.doneWrite_kept _ _)
  · exact (ht.trans (State.sfRead_kept _ _ _)).trans (State.doneRead_kept _ _ _ _)
  · exact ht.trans (State.storeBare_kept _ _ _ _ _ _ _ _ _)
  · exact ht

theorem State.applyReq_kept (s : State) (k : Key) (q : Req) : Kept s (s.applyReq k q) := by
  unfold State.applyReq
  split
  · exact Kept.refl s
  · rename_i c _
    have ht := s.touch_kept (c.la / 1024)
    have hput : ∀ (u : State) (x : CLine), Kept u (u.putWay k x) := fun _ _ => ⟨rfl, rfl, rfl, rfl, rfl, rfl⟩
    extract_lets s1 c'
    split
    · exact (ht.trans (State.sfRead_kept _ _ _)).trans (State.doneRead_kept _ _ _ _)
    · exact ((ht.trans ((hput _ _).trans (State.stored_kept _ _ _ _ _ _ _))).trans (State.sfWrite_kept _ _ _)).trans (State.doneWrite_kept _ _)
    · exact ht.trans ((hput _ _).trans (State.stored_kept _ _ _ _ _ _ _))
    · exact ht
    · exact ht

theorem State.applyLine_kept (s : State) (la obj tp : Nat) (q : Req) : Kept s (s.applyLine la obj tp q) := by
  unfold State.applyLine
  split
  · exact State.applyReq_kept _ _ _
  · exact State.applyBare_kept _ _ _ _ _

theorem State.lineAccess_kept (s : State) (la obj tp : Nat) (q : Req) : Kept s (s.lineAccess la obj tp q) := by
  have hwait : ∀ (cnt : Fld) (b : Nat), Kept s (s.missWait la obj tp q cnt b) := fun cnt b =>
    (State.count_kept s cnt _ _ _ b).trans ⟨rfl, rfl, rfl, rfl, rfl, rfl⟩
  have hinstall : ∀ (x : CLine) (cls : Nat), Kept s (s.install x cls) := fun x cls =>
    Kept.of_in (ft := State.install_foot) (State.install_in (In.refl _ s) (Foot.le_refl _)) (by decide)
  have hdreq : ∀ (u : State) (a n : Nat) (w : Bool) (tag : DTag) (cls : Nat), Kept u (u.dreq a n w tag cls) := fun u a n w tag cls =>
    Kept.of_in (ft := State.dreq_foot) (State.dreq_in (In.refl _ u) (Foot.le_refl _)) (by decide)
  have hpeak : ∀ (u : State) (sl : Nat), Kept u (u.mrPeak sl) := fun u sl =>
    Kept.of_in (ft := State.mrPeak_foot) (State.mrPeak_in (In.refl _ u) (Foot.le_refl _)) (by decide)
  unfold State.lineAccess
  extract_lets sl
  split
  · exact State.applyReq_kept _ _ _
  · split
    · exact Kept.ite (fun _ => ⟨rfl, rfl, rfl, rfl, rfl, rfl⟩) fun _ => hwait _ _
    · refine Kept.ite (fun _ => Kept.ite (fun _ => State.applyBare_kept _ _ _ _ _) fun _ => (hinstall _ _).trans (State.applyLine_kept _ _ _ _ _)) fun _ => ?_
      split
      · rename_i n _
        have ht := s.touch_kept (la / 1024)
        refine Kept.trans ?_ (hpeak _ _)
        refine Kept.trans ?_ (hdreq _ _ _ _ _ _)
        exact ⟨ht.ledger, ht.wins, ht.moves, ht.streams, ht.unloaded, ht.cmd⟩
      · exact hwait _ _

theorem State.missQueue_kept (s : State) (sl : Nat) : Kept s (s.missQueue sl) := by
  unfold State.missQueue
  split
  · rename_i e _
    have h1 : Kept s { s with fch := { s.fch with mq := s.fch.mq.erase e } } := ⟨rfl, rfl, rfl, rfl, rfl, rfl⟩
    exact h1.trans (State.lineAccess_kept _ _ _ _ _)
  · exact Kept.refl s

/-! ### Pages -/

theorem State.answerMrs_kept (s : State) (f : Nat) : Kept s (s.answerMrs f) := by
  have hat : ∀ (u : State) (la : Nat) (q : Req), Kept u (u.answerAt la q) := fun u la q =>
    Kept.of_in (ft := State.answerAt_foot) (State.answerAt_in (In.refl _ u) (Foot.le_refl _)) (by decide)
  unfold State.answerMrs
  extract_lets hit qd s1 s2 x3 s3
  have h1 : Kept s s1 := Kept.each _ _ fun u e => Kept.each _ _ fun v q => hat v _ q
  have h2 : Kept s1 s2 := Kept.each _ _ fun u e => hat u _ _
  have h3 : Kept s2 s3 := ⟨rfl, rfl, rfl, rfl, rfl, rfl⟩
  exact ((h1.trans h2).trans h3).trans (Kept.each _ _ State.missQueue_kept)

theorem State.answerCold_kept (s : State) (obj tp : Nat) (e : MapE) : Kept s (s.answerCold obj tp e) :=
  Kept.of_in (ft := State.answerCold_foot) (State.answerCold_in (In.refl _ s) (Foot.le_refl _)) (by decide)

/-- A page freed while its object has no move. -/
theorem State.freePage_kept {s : State} {obj : Nat} (h : s.still obj) (o : Obj) (tp : Nat) : Kept s (s.freePage obj o tp) := by
  have hnone : (s.tpe.moves.filter fun m => m.obj == obj && m.tp == tp) = [] := List.filter_eq_nil_iff.2 fun m hm => by simp [h m hm]
  unfold State.freePage
  simp only [hnone, List.filter_nil, List.find?_nil]
  refine Kept.ite (fun _ => ?_) fun _ => State.answerCold_kept _ _ _ _
  exact (State.releasePage_kept s _).trans (((State.answerMrs_kept _ _).trans (State.discardFrame_kept _ _)).trans (State.freeFrame_kept _ _))

theorem Kept.still {s t : State} {obj : Nat} (h : Kept s t) (hs : s.still obj) : t.still obj := fun m hm => hs m (h.moves ▸ hm)

theorem State.freePages_kept {s : State} {obj : Nat} (h : s.still obj) (o : Obj) (tp : Nat → Nat) (l : List Nat) :
    Kept s (s.each l fun u i => u.freePage obj o (tp i)) :=
  State.each_inv (P := Kept s) l (Kept.refl s) fun _ i _ hu => hu.trans (State.freePage_kept (hu.still h) o (tp i))

end Sys2Proof.Machine
end

section
/-! Object commands: creation, deletion, resizing and attributes (O21: R153 to R156, R166 to R169). -/

namespace Sys2Proof.Machine

/-! ### Journal changes -/

/-- A journal change of a ledger entry. -/
def JOp.onLedger : JOp → Bool
  | .obj _ _ => true
  | _ => false

/-- A journal change of a window. -/
def JOp.onWins : JOp → Bool
  | .win _ _ => true
  | _ => false

theorem JOp.apply_ledger {op : JOp} (h : op.onLedger = false) (m : MetaData) : (JOp.apply m op).ledger = m.ledger := by
  match op, h with
  | .map _ (some _), _ => rfl
  | .map _ none, _ => rfl
  | .win _ (some _), _ => rfl
  | .win _ none, _ => rfl
  | .idPtr _, _ => rfl
  | .ssnEnd _, _ => rfl
  | .roles _, _ => rfl
  | .tookOver _, _ => rfl
  | .extents _, _ => rfl

theorem JOp.apply_wins {op : JOp} (h : op.onWins = false) (m : MetaData) : (JOp.apply m op).wins = m.wins := by
  match op, h with
  | .obj _ (some _), _ => rfl
  | .obj _ none, _ => rfl
  | .map _ (some _), _ => rfl
  | .map _ none, _ => rfl
  | .idPtr _, _ => rfl
  | .ssnEnd _, _ => rfl
  | .roles _, _ => rfl
  | .tookOver _, _ => rfl
  | .extents _, _ => rfl

theorem foldl_ledger {l : List JOp} (h : ∀ op ∈ l, op.onLedger = false) (m : MetaData) : (l.foldl JOp.apply m).ledger = m.ledger := by
  induction l generalizing m with
  | nil => rfl
  | cons op r ih =>
    rw [List.foldl_cons, ih fun x hx => h x (List.mem_cons_of_mem _ hx)]
    exact JOp.apply_ledger (h op List.mem_cons_self) m

theorem foldl_wins {l : List JOp} (h : ∀ op ∈ l, op.onWins = false) (m : MetaData) : (l.foldl JOp.apply m).wins = m.wins := by
  induction l generalizing m with
  | nil => rfl
  | cons op r ih =>
    rw [List.foldl_cons, ih fun x hx => h x (List.mem_cons_of_mem _ hx)]
    exact JOp.apply_wins (h op List.mem_cons_self) m

/-- The changes before an object's own entry. -/
theorem foldl_obj {l : List JOp} (h : ∀ op ∈ l, op.onLedger = false) (m : MetaData) (id : Nat) (o : Obj) :
    ((l ++ [JOp.obj id (some o)]).foldl JOp.apply m).ledger = mput m.ledger (id, 0) o := by
  rw [List.foldl_append, ← foldl_ledger h m]
  rfl

/-- Windows removed one after another. -/
theorem foldl_dropWins (l : List (Key × Win)) (m : MetaData) :
    ((l.map fun e => JOp.win e.1 none).foldl JOp.apply m).wins = l.foldl (fun w e => mdel w e.1) m.wins := by
  induction l generalizing m with
  | nil => rfl
  | cons e r ih => exact ih _

/-- The homes of new pages are changes of the frame map alone (R200). -/
theorem homeOps_onMap (m : MetaData) (base first n : Nat) : ∀ op ∈ m.homeOps base first n, op.onLedger = false ∧ op.onWins = false := by
  refine List.foldlRecOn (motive := fun x : List Nat × List JOp => ∀ op ∈ x.2, op.onLedger = false ∧ op.onWins = false) _ _ (by simp) ?_
  intro x hx i _ op hop
  obtain hop | hop := List.mem_append.1 hop
  · exact hx op hop
  · rw [List.mem_singleton.1 hop]
    exact ⟨rfl, rfl⟩

/-! ### The entry of an object in the ledger -/

/-- The registers that count the ledger, and the twin's copy, leave the metadata but SSN_END and the engine (R41, R385). -/
structure SameMeta (s t : State) : Prop where
  core : t.core = s.core
  cmd : t.cmd = s.cmd

theorem SameMeta.trans {s t u : State} (h : SameMeta s t) (g : SameMeta t u) : SameMeta s u := ⟨g.core.trans h.core, g.cmd.trans h.cmd⟩

theorem State.ledgerRegs_same (s : State) : SameMeta s s.ledgerRegs := by
  have hin : In State.ledgerRegs_foot s s.ledgerRegs := State.ledgerRegs_in (In.refl _ s) (Foot.le_refl _)
  exact ⟨core_of_md (hin.parts .md (by decide)), hin.parts .cmd (by decide)⟩

theorem State.refsReg_same (s : State) (k : Nat) : SameMeta s (s.refsReg k) := ⟨rfl, rfl⟩

theorem State.tellTwin_same (s : State) (obj : Nat) (o : Obj) (d : Nat) : SameMeta s (s.tellTwin obj o d) :=
  ⟨s.tellTwin_core obj o d, (s.tellTwin_parts obj o d).1⟩

/-- The journal with what follows it. -/
theorem State.journal_then {s t : State} {ops : List JOp} (h : SameMeta (s.journal ops) t) :
    t.md.ledger = (ops.foldl JOp.apply s.md).ledger ∧ t.md.wins = (ops.foldl JOp.apply s.md).wins ∧
    t.md.fmap = (ops.foldl JOp.apply s.md).fmap ∧ t.cmd = s.cmd := by
  have hmd := State.journal_md s ops
  exact ⟨(core_ledger h.core).trans (by rw [hmd]), (core_wins h.core).trans (by rw [hmd]), (core_fmap h.core).trans (by rw [hmd]),
    h.cmd.trans (s.journal_parts ops).1⟩

/-! ### OBJ_CREATE -/

theorem State.checkCreate_run {s : State} {c : Cmd} (h : s.checkCreate c = none) : ∃ base, s.md.findRun (sizePages c.words) = some base := by
  cases hrun : s.md.findRun (sizePages c.words) with
  | some base => exact ⟨base, rfl⟩
  | none =>
    unfold State.checkCreate at h
    extract_lets a n id at h
    rw [hrun] at h
    simp only [Option.isNone_none, Bool.or_true, if_true] at h
    split at h
    · cases h
    · split at h
      · cases h
      · split at h
        · cases h
        · split at h <;> cases h

/-- The entry of a new object or of a grown one, with the homes it takes (R153, R169, R200). -/
def State.homed (s : State) (obj first : Nat) (ops : List JOp) : State := ((s.takeHomes obj first ops).journal ops).ledgerRegs

theorem State.homed_facts (s : State) (obj first : Nat) (ops : List JOp) {t : State} (h : SameMeta (s.homed obj first ops) t) :
    t.md.ledger = (ops.foldl JOp.apply s.md).ledger ∧ t.md.wins = (ops.foldl JOp.apply s.md).wins ∧
    t.md.fmap = (ops.foldl JOp.apply s.md).fmap ∧ t.cmd = s.cmd :=
  State.journal_then (s := s.takeHomes obj first ops) ((State.ledgerRegs_same _).trans h)

/-- The changes of OBJ_CREATE's entry (R153, R168). -/
def createOps (c : Cmd) (id : Nat) (o : Obj) (m : MetaData) : List JOp :=
  [.obj id (some o)] ++ (if bit (sqeAttr c.words) 0 then m.homeOps o.mapBase 0 (sizePages c.words) else [])
    ++ (if sqeObj c.words = 0 then [.idPtr ((id + 1) % 2 ^ 31)] else [])

theorem createOps_rest (c : Cmd) (id : Nat) (o : Obj) (m : MetaData) :
    ∃ rest, createOps c id o m = .obj id (some o) :: rest ∧ (∀ op ∈ rest, op.onLedger = false ∧ op.onWins = false) ∧
      (bit (sqeAttr c.words) 0 = false → ∀ x : MetaData, (rest.foldl JOp.apply x).fmap = x.fmap) := by
  refine ⟨(if bit (sqeAttr c.words) 0 then m.homeOps o.mapBase 0 (sizePages c.words) else [])
    ++ (if sqeObj c.words = 0 then [.idPtr ((id + 1) % 2 ^ 31)] else []), List.append_assoc _ _ _, ?_, fun hvol x => ?_⟩
  · intro op hop
    obtain hop | hop := List.mem_append.1 hop
    · split at hop
      · exact homeOps_onMap _ _ _ _ op hop
      · cases hop
    · split at hop
      · rw [List.mem_singleton.1 hop]
        exact ⟨rfl, rfl⟩
      · cases hop
  · rw [hvol, if_neg Bool.false_ne_true]
    split <;> rfl

/-- The object that OBJ_CREATE makes. -/
def createObj (c : Cmd) (id base : Nat) : Obj := ⟨createOwner c, 1, sqeAttr c.words, id, sizePages c.words * 65536, base, 0, 0⟩

def State.created (s : State) (c : Cmd) (id base : Nat) : State :=
  ((s.homed id 0 (createOps c id (createObj c id base) s.md)).refsReg (createObj c id base).slot).tellTwin id (createObj c id base) c.dom

theorem State.created_facts (s : State) (c : Cmd) (id base : Nat) :
    (s.created c id base).md.ledger = mput s.md.ledger (id, 0) (createObj c id base) ∧
    (bit (sqeAttr c.words) 0 = false → (s.created c id base).md.fmap = s.md.fmap) ∧
    (s.created c id base).md.wins = s.md.wins ∧ (s.created c id base).cmd = s.cmd := by
  obtain ⟨hledger, hwins, hfmap, hcmd⟩ := s.homed_facts id 0 (createOps c id (createObj c id base) s.md) (t := s.created c id base)
    ((State.refsReg_same _ _).trans (State.tellTwin_same _ _ _ _))
  obtain ⟨rest, hops, hrest, hvol⟩ := createOps_rest c id (createObj c id base) s.md
  rw [hops, List.foldl_cons] at hledger hwins hfmap
  refine ⟨hledger.trans ?_, fun hv => hfmap.trans (hvol hv _), hwins.trans ?_, hcmd⟩
  · exact (foldl_ledger (fun op hop => (hrest op hop).1) _).trans rfl
  · exact (foldl_wins (fun op hop => (hrest op hop).2) _).trans rfl

theorem exec_objCreate {s : State} {c : Cmd} (hrun : s.running? c.uid opCreate = some c) (hcheck : s.checkCreate c = none) :
    ∃ t id base, id = (if sqeObj c.words = 0 then s.pickId else sqeObj c.words) ∧
      s.md.findRun (sizePages c.words) = some base ∧
      exec (.objCreate c.uid) s = .next t ∧ t.ended c 0 id (sizePages c.words * 65536) ∧
      t.md.ledger = mput s.md.ledger (id, 0) (createObj c id base) ∧
      (bit (sqeAttr c.words) 0 = false → t.md.fmap = s.md.fmap) ∧ t.md.wins = s.md.wins := by
  obtain ⟨base, hbase⟩ := State.checkCreate_run hcheck
  have hcheck' : (s.metaStart c).checkCreate c = none := hcheck
  have hbase' : (s.metaStart c).md.findRun (sizePages c.words) = some base := hbase
  obtain ⟨hledger, hfmap, hwins, hcmd⟩ := (s.metaStart c).created_facts c (if sqeObj c.words = 0 then s.pickId else sqeObj c.words) base
  obtain ⟨t, ht, hend, hmd, -⟩ := State.metaRun_ok (out := execObjCreate c.uid s)
    (u := (s.metaStart c).created c (if sqeObj c.words = 0 then s.pickId else sqeObj c.words) base)
    (r0 := if sqeObj c.words = 0 then s.pickId else sqeObj c.words) (r1 := sizePages c.words * 65536) rfl hrun
    (by simp only [hcheck', hbase', Option.getD_some]; rfl) (by rw [hcmd]; exact State.metaStart_mem (State.running?_facts hrun).2.1)
  exact ⟨t, _, base, rfl, hbase, ht, hend, by rw [hmd, hledger]; rfl, fun hv => by rw [hmd, hfmap hv]; rfl, by rw [hmd, hwins]; rfl⟩

end Sys2Proof.Machine
end

section
/-! Deletion, resizing and attributes of an object (O21: R154 to R156, R169). -/

namespace Sys2Proof.Machine

/-! ### Schedule entries that lose their pages -/

theorem State.finishCmd_other {s : State} {x : Cmd} (h : x ∈ s.cmd.cmds) {uid : Nat} (hne : x.uid ≠ uid) (f : Cmd → Cmd) :
    x ∈ (s.finishCmd uid f).cmd.cmds := by
  unfold State.finishCmd
  split
  · exact List.mem_map.2 ⟨x, h, if_neg hne⟩
  · exact h

/-- A stream that ends finishes its own command only, and no metadata. -/
theorem State.streamEnd_facts (s : State) (t : Stream) :
    (s.streamEnd t).md = s.md ∧ ∀ x ∈ s.cmd.cmds, x.uid ≠ t.uid → x ∈ (s.streamEnd t).cmd.cmds := by
  refine ⟨(State.streamEnd_in (ft := State.streamEnd_foot) (In.refl _ s) (Foot.le_refl _)).parts .md (by decide), fun x hx hne => ?_⟩
  unfold State.streamEnd
  split
  · exact hx
  · extract_lets k s1
    exact State.finishCmd_other (s := s1.streamRegs t.dom) hx hne _

/-- The metadata is as it was and a command of no stream is still there. -/
theorem State.streamEnds_facts (s : State) {x : Cmd} (hx : x ∈ s.cmd.cmds) (hne : ∀ t ∈ s.tpe.streams, t.uid ≠ x.uid) :
    s.streamEnds.md = s.md ∧ x ∈ s.streamEnds.cmd.cmds :=
  State.each_inv (P := fun u => u.md = s.md ∧ x ∈ u.cmd.cmds) _ ⟨rfl, hx⟩ fun u t ht hu => by
    obtain ⟨hmd, hmem⟩ := u.streamEnd_facts t
    exact ⟨hmd.trans hu.1, hmem x hu.2 (hne t ht).symm⟩

theorem State.cutEntries_facts (s : State) (obj n : Nat) {x : Cmd} (hx : x ∈ s.cmd.cmds) (hne : ∀ t ∈ s.tpe.streams, t.uid ≠ x.uid) :
    (s.cutEntries obj n).md = s.md ∧ x ∈ (s.cutEntries obj n).cmd.cmds := by
  unfold State.cutEntries
  refine State.streamEnds_facts _ hx fun t ht => ?_
  obtain ⟨y, hy, rfl⟩ := List.mem_map.1 ht
  exact hne y hy

/-- Pages freed, then the schedules cut: what OBJ_DELETE and a shrink do before their journal entry. -/
def State.unpaged (s : State) (obj : Nat) (o : Obj) (first n : Nat) : State :=
  (s.each (List.range (n - first)) fun s i => s.freePage obj o (first + i)).cutEntries obj first

theorem State.unpaged_facts {s : State} {obj : Nat} (h : s.still obj) (o : Obj) (first n : Nat) {x : Cmd} (hx : x ∈ s.cmd.cmds)
    (hne : ∀ t ∈ s.tpe.streams, t.uid ≠ x.uid) :
    (s.unpaged obj o first n).md.ledger = s.md.ledger ∧ (s.unpaged obj o first n).md.wins = s.md.wins ∧ x ∈ (s.unpaged obj o first n).cmd.cmds := by
  have hkept := State.freePages_kept h o (fun i => first + i) (List.range (n - first))
  obtain ⟨hmd, hmem⟩ := State.cutEntries_facts _ obj first (hkept.cmd ▸ hx) (hkept.streams ▸ hne)
  exact ⟨(congrArg MetaData.ledger hmd).trans hkept.ledger, (congrArg MetaData.wins hmd).trans hkept.wins, hmem⟩

/-! ### OBJ_DELETE -/

/-- The changes of OBJ_DELETE's entry (R154). -/
def deleteOps (wins : List (Key × Win)) (obj : Nat) (o : Obj) : List JOp :=
  wins.map (fun e => JOp.win e.1 none) ++ (List.range o.pages).map (fun tp => JOp.map (o.mapBase + tp) none) ++ [.obj obj none]

theorem deleteOps_ledger (wins : List (Key × Win)) (obj : Nat) (o : Obj) (m : MetaData) :
    ((deleteOps wins obj o).foldl JOp.apply m).ledger = mdel m.ledger (obj, 0) := by
  have hrest : ∀ op ∈ wins.map (fun e => JOp.win e.1 none) ++ (List.range o.pages).map (fun tp => JOp.map (o.mapBase + tp) none),
      op.onLedger = false := by
    intro op hop
    obtain hop | hop := List.mem_append.1 hop <;> obtain ⟨_, _, rfl⟩ := List.mem_map.1 hop <;> rfl
  rw [deleteOps, List.foldl_append, ← foldl_ledger hrest m]
  rfl

theorem deleteOps_wins (wins : List (Key × Win)) (obj : Nat) (o : Obj) (m : MetaData) :
    ((deleteOps wins obj o).foldl JOp.apply m).wins = wins.foldl (fun w e => mdel w e.1) m.wins := by
  have hrest : ∀ op ∈ (List.range o.pages).map (fun tp => JOp.map (o.mapBase + tp) none) ++ [JOp.obj obj none], op.onWins = false := by
    intro op hop
    obtain hop | hop := List.mem_append.1 hop
    · obtain ⟨_, _, rfl⟩ := List.mem_map.1 hop
      rfl
    · rw [List.mem_singleton.1 hop]
      rfl
  rw [deleteOps, List.append_assoc, List.foldl_append, foldl_wins hrest, foldl_dropWins]

theorem exec_objDelete {s : State} {c : Cmd} {o : Obj} (hrun : s.running? c.uid opDelete = some c)
    (hown : s.own? (sqeObj c.words) = some o) (hclear : s.framesClear (s.rangeFrames o 0 o.pages) = true)
    (hstill : s.still (sqeObj c.words)) (hstreams : ∀ y ∈ s.tpe.streams, y.uid ≠ c.uid) :
    ∃ t, exec (.objDelete c.uid) s = .next t ∧ t.ended c 0 (sqeObj c.words) (s.usedPages o 0 o.pages) ∧
      t.md.ledger = mdel s.md.ledger (sqeObj c.words, 0) ∧
      t.md.wins = (s.winsOf (sqeObj c.words)).foldl (fun m e => mdel m e.1) s.md.wins := by
  have hclear' : (s.metaStart c).framesClear ((s.metaStart c).rangeFrames o 0 o.pages) = true := hclear
  obtain ⟨hl, hw, hmem⟩ := State.unpaged_facts (s := s.metaStart c) hstill o 0 o.pages (State.metaStart_mem (State.running?_facts hrun).2.1) hstreams
  have hun : ((s.metaStart c).each (List.range o.pages) fun s tp => s.freePage (sqeObj c.words) o tp).cutEntries (sqeObj c.words) 0 =
      (s.metaStart c).unpaged (sqeObj c.words) o 0 o.pages := by simp only [State.unpaged, Nat.sub_zero, Nat.zero_add]
  generalize hv : (s.metaStart c).unpaged (sqeObj c.words) o 0 o.pages = v at hl hw hmem hun
  have hwinsOf : v.winsOf (sqeObj c.words) = s.winsOf (sqeObj c.words) := by rw [State.winsOf, State.winsOf, hw]; rfl
  generalize hu : (((v.journal (deleteOps (v.winsOf (sqeObj c.words)) (sqeObj c.words) o)).ledgerRegs).refsReg o.slot).tellTwin (sqeObj c.words) o c.dom = u
  obtain ⟨hledger, hwins, -, hcmd⟩ := State.journal_then (s := v) (t := u)
    (hu ▸ ((State.ledgerRegs_same _).trans (State.refsReg_same _ _)).trans (State.tellTwin_same _ _ _ _))
  obtain ⟨t, ht, hend, hmd, -⟩ := State.metaObj_ok (out := execObjDelete c.uid s) (u := u) (r0 := sqeObj c.words) (r1 := s.usedPages o 0 o.pages)
    rfl hrun hown
    (by
      simp only [hclear', Bool.not_true, Bool.false_eq_true, if_false, hun]
      exact congrArg (fun x : State => x.cmdOk c (sqeObj c.words) (s.usedPages o 0 o.pages)) hu)
    (hcmd ▸ hmem)
  refine ⟨t, ht, hend, ?_, ?_⟩
  · rw [hmd, hledger, deleteOps_ledger, hl]
    rfl
  · rw [hmd, hwins, deleteOps_wins, hwinsOf, hw]
    rfl

/-! ### OBJ_RESIZE -/

/-- The object after a shrink to n pages (R155). -/
def shrunk (s : State) (obj n : Nat) (o : Obj) : Obj :=
  { o with size := n * 65536, winCnt := o.winCnt - ((s.winsOf obj).filter fun e => decide (n ≤ e.2.objPn)).length,
           mapBase := if n = 0 then 0 else o.mapBase }

/-- The changes of a shrink's entry (R155). -/
def shrinkOps (s : State) (obj n : Nat) (o : Obj) : List JOp :=
  s.winTrim obj n ++ (List.range (o.pages - n)).map (fun i => JOp.map (o.mapBase + n + i) none) ++ [.obj obj (some (shrunk s obj n o))]

theorem shrinkOps_ledger (s : State) (obj n : Nat) (o : Obj) (m : MetaData) :
    ((shrinkOps s obj n o).foldl JOp.apply m).ledger = mput m.ledger (obj, 0) (shrunk s obj n o) := by
  refine foldl_obj (fun op hop => ?_) m obj _
  obtain hop | hop := List.mem_append.1 hop
  · obtain ⟨e, -, he⟩ := List.mem_filterMap.1 hop
    split at he
    · cases he
      rfl
    · split at he
      · cases he
        rfl
      · cases he
  · obtain ⟨_, _, rfl⟩ := List.mem_map.1 hop
    rfl

theorem exec_objResize_shrink {s : State} {c : Cmd} {o : Obj} {n : Nat} (hrun : s.running? c.uid opResize = some c)
    (hown : s.own? (sqeObj c.words) = some o) (hn : n = sizePages c.words) (hle : n ≤ o.pages)
    (hclear : s.framesClear (s.rangeFrames o n (o.pages - n)) = true)
    (hstill : s.still (sqeObj c.words)) (hstreams : ∀ y ∈ s.tpe.streams, y.uid ≠ c.uid) :
    ∃ t o', exec (.objResize c.uid) s = .next t ∧ t.ended c 0 (n * 65536) (s.usedPages o n (o.pages - n)) ∧
      t.md.ledger = mput s.md.ledger (sqeObj c.words, 0) o' ∧ o'.size = n * 65536 ∧ o'.attr = o.attr ∧
      o'.owner = o.owner ∧ o'.holdMap = o.holdMap := by
  have hclear' : (s.metaStart c).framesClear ((s.metaStart c).rangeFrames o n (o.pages - n)) = true := hclear
  obtain ⟨hl, -, hmem⟩ := State.unpaged_facts (s := s.metaStart c) hstill o n o.pages (State.metaStart_mem (State.running?_facts hrun).2.1) hstreams
  have hun : ((s.metaStart c).each (List.range (o.pages - n)) fun s i => s.freePage (sqeObj c.words) o (n + i)).cutEntries (sqeObj c.words) n =
      (s.metaStart c).unpaged (sqeObj c.words) o n o.pages := rfl
  generalize hv : (s.metaStart c).unpaged (sqeObj c.words) o n o.pages = v at hl hmem hun
  generalize hu : ((v.journal (shrinkOps v (sqeObj c.words) n o)).ledgerRegs).tellTwin (sqeObj c.words) o c.dom = u
  obtain ⟨hledger, -, -, hcmd⟩ := State.journal_then (s := v) (t := u) (hu ▸ (State.ledgerRegs_same _).trans (State.tellTwin_same _ _ _ _))
  obtain ⟨t, ht, hend, hmd, -⟩ := State.metaObj_ok (out := execObjResize c.uid s) (u := u) (r0 := n * 65536) (r1 := s.usedPages o n (o.pages - n))
    rfl hrun hown
    (by
      simp only [← hn, hle, if_true, hclear', Bool.not_true, Bool.false_eq_true, if_false, hun]
      exact congrArg (fun x : State => x.cmdOk c (n * 65536) (s.usedPages o n (o.pages - n))) hu)
    (hcmd ▸ hmem)
  refine ⟨t, shrunk v (sqeObj c.words) n o, ht, hend, ?_, rfl, rfl, rfl, rfl⟩
  rw [hmd, hledger, shrinkOps_ledger, hl]
  rfl

/-- The first frame-map entry of an object that grows to n pages (R169). -/
def growBase (m : MetaData) (obj n : Nat) (o : Obj) : Nat :=
  if o.pages ≠ 0 && runFree { m with ledger := mdel m.ledger (obj, 0) }.runs o.mapBase n then o.mapBase
  else ({ m with ledger := mdel m.ledger (obj, 0) }.findRun n).getD 0

/-- The object after growth to n pages. -/
def grown (m : MetaData) (obj n : Nat) (o : Obj) : Obj := { o with size := n * 65536, mapBase := growBase m obj n o }

/-- The homes of the new pages (R200). -/
def growHomes (m : MetaData) (obj n : Nat) (o : Obj) : List JOp :=
  if o.persist then m.homeOps (growBase m obj n o) o.pages (n - o.pages) else []

/-- The entries of the pages that a run takes along when it moves (R169). -/
def growMoves (s : State) (obj n : Nat) (o : Obj) : List JOp :=
  if growBase s.md obj n o = o.mapBase then []
  else (List.range o.pages).map (fun tp => JOp.map (o.mapBase + tp) none)
    ++ ((List.range o.pages).map fun tp => (tp, s.mapE (o.mapBase + tp))).map fun e => JOp.map (growBase s.md obj n o + e.1) (some e.2)

theorem growOps_ledger (s : State) (obj n : Nat) (o : Obj) (m : MetaData) (x : Obj) :
    ((growMoves s obj n o ++ growHomes s.md obj n o ++ [JOp.obj obj (some x)]).foldl JOp.apply m).ledger = mput m.ledger (obj, 0) x := by
  refine foldl_obj (fun op hop => ?_) m obj _
  obtain hop | hop := List.mem_append.1 hop
  · unfold growMoves at hop
    split at hop
    · cases hop
    · obtain hop | hop := List.mem_append.1 hop <;> obtain ⟨_, _, rfl⟩ := List.mem_map.1 hop <;> rfl
  · unfold growHomes at hop
    split at hop
    · exact (homeOps_onMap _ _ _ _ op hop).1
    · cases hop

/-- What growth leaves before its answer. -/
def State.grownTo (s : State) (obj n : Nat) (o : Obj) (d : Nat) : State :=
  (((s.takeHomes obj o.pages (growHomes s.md obj n o)).journal
    (growMoves s obj n o ++ growHomes s.md obj n o ++ [.obj obj (some (grown s.md obj n o))])).ledgerRegs).tellTwin obj o d

theorem State.grownTo_facts (s : State) (obj n : Nat) (o : Obj) (d : Nat) :
    (s.grownTo obj n o d).md.ledger = mput s.md.ledger (obj, 0) (grown s.md obj n o) ∧ (s.grownTo obj n o d).cmd = s.cmd := by
  obtain ⟨hledger, -, -, hcmd⟩ := State.journal_then (s := s.takeHomes obj o.pages (growHomes s.md obj n o)) (t := s.grownTo obj n o d)
    ((State.ledgerRegs_same _).trans (State.tellTwin_same _ _ _ _))
  exact ⟨hledger.trans (growOps_ledger _ _ _ _ _ _), hcmd⟩

theorem exec_objResize_grow {s : State} {c : Cmd} {o : Obj} {n : Nat} (hrun : s.running? c.uid opResize = some c)
    (hown : s.own? (sqeObj c.words) = some o) (hn : n = sizePages c.words) (hgt : o.pages < n) (hcheck : s.checkResize c o = none) :
    ∃ t o', exec (.objResize c.uid) s = .next t ∧ t.ended c 0 (n * 65536) 0 ∧
      t.md.ledger = mput s.md.ledger (sqeObj c.words, 0) o' ∧ o'.size = n * 65536 ∧ o'.attr = o.attr ∧
      o'.owner = o.owner ∧ o'.holdMap = o.holdMap := by
  have hcheck' : (s.metaStart c).checkResize c o = none := hcheck
  obtain ⟨hledger, hcmd⟩ := (s.metaStart c).grownTo_facts (sqeObj c.words) n o c.dom
  obtain ⟨t, ht, hend, hmd, -⟩ := State.metaObj_ok (out := execObjResize c.uid s) (u := (s.metaStart c).grownTo (sqeObj c.words) n o c.dom)
    (r0 := n * 65536) (r1 := 0) rfl hrun hown
    (by
      simp only [← hn, Nat.not_le.2 hgt, if_false, hcheck']
      rfl)
    (by rw [hcmd]; exact State.metaStart_mem (State.running?_facts hrun).2.1)
  exact ⟨t, grown s.md (sqeObj c.words) n o, ht, hend, hmd ▸ hledger, rfl, rfl, rfl, rfl⟩

/-! ### OBJ_ATTR -/

theorem State.dropHome_kept (s : State) (ix : Nat) : Kept s (s.dropHome ix) := by
  unfold State.dropHome
  extract_lets e
  exact Kept.ite (fun _ => ⟨rfl, rfl, rfl, rfl, rfl, rfl⟩) fun _ => Kept.refl _

theorem State.refsReg_tpe (s : State) (k : Nat) : (s.refsReg k).tpe = s.tpe := rfl

/-- The journal entry of OBJ_ATTR, with the counts of the two slots (R156, R385). -/
def State.attrEntered (s : State) (obj : Nat) (o o' : Obj) : State :=
  (((s.journal [.obj obj (some o')]).ledgerRegs).refsReg o.slot).refsReg o'.slot

theorem State.attrEntered_facts (s : State) (obj : Nat) (o o' : Obj) :
    (s.attrEntered obj o o').md.ledger = mput s.md.ledger (obj, 0) o' ∧ (s.attrEntered obj o o').cmd = s.cmd ∧
    (s.attrEntered obj o o').tpe = s.tpe := by
  obtain ⟨hledger, -, -, hcmd⟩ := State.journal_then (s := s) (ops := [.obj obj (some o')]) (t := s.attrEntered obj o o')
    (((State.ledgerRegs_same _).trans (State.refsReg_same _ _)).trans (State.refsReg_same _ _))
  have htpe : (s.journal [.obj obj (some o')]).ledgerRegs.tpe = (s.journal [.obj obj (some o')]).tpe :=
    (State.ledgerRegs_in (ft := State.ledgerRegs_foot) (In.refl _ _) (Foot.le_refl _)).parts .tpe (by decide)
  exact ⟨hledger, hcmd, (State.refsReg_tpe _ _).trans ((State.refsReg_tpe _ _).trans (htpe.trans (State.journal_parts _ _).2))⟩

/-- The pages of an object made volatile lose their charges and their homes (Table 07.4). -/
def State.attrFreed (s : State) (o : Obj) (a : Nat) : State :=
  if o.persist && !bit a 0 then s.each (List.range o.pages) fun s tp => (s.releasePage (o.mapBase + tp)).dropHome (o.mapBase + tp) else s

theorem State.attrFreed_kept (s : State) (o : Obj) (a : Nat) : Kept s (s.attrFreed o a) :=
  Kept.ite (fun _ => Kept.each s _ fun u tp => (u.releasePage_kept (o.mapBase + tp)).trans (State.dropHome_kept _ _)) fun _ => Kept.refl s

/-- An object that must stay in T1 gets its pages promoted (R156). -/
def State.attrMoved (s : State) (obj : Nat) (o o' : Obj) (a d : Nat) : State :=
  if setsT1 o a then (s.promotePages obj o' (List.range o.pages) .attr d).1 else s

theorem State.attrMoved_facts {s : State} {obj : Nat} (hstill : s.still obj) (o o' : Obj) (a d : Nat) :
    (s.attrMoved obj o o' a d).md = s.md ∧ (s.attrMoved obj o o' a d).cmd = s.cmd := by
  unfold State.attrMoved
  split
  · rw [State.promotePages_eq]
    obtain ⟨hm, hc, -, -⟩ := promoteAt_foldl obj o' .attr d (s.nowUs + s.rd .PLACE_DL_US) List.nodup_range
      (tps := List.range o.pages) (s, ⟨0, 0, 0, 0⟩) fun m hm ho => absurd ho (hstill m hm)
    exact ⟨hm, hc⟩
  · exact ⟨rfl, rfl⟩

def State.attrDone (s : State) (obj : Nat) (o : Obj) (a d : Nat) : State :=
  ((((s.attrEntered obj o { o with attr := a }).attrFreed o a).attrMoved obj o { o with attr := a } a d)).tellTwin obj { o with attr := o.attr ||| a } d

theorem State.attrDone_facts {s : State} {obj : Nat} (hstill : s.still obj) (o : Obj) (a d : Nat) :
    (s.attrDone obj o a d).md.ledger = mput s.md.ledger (obj, 0) { o with attr := a } ∧ (s.attrDone obj o a d).cmd = s.cmd := by
  obtain ⟨hledger, hcmd, htpe⟩ := s.attrEntered_facts obj o { o with attr := a }
  have hkept := (s.attrEntered obj o { o with attr := a }).attrFreed_kept o a
  have hstill' : ((s.attrEntered obj o { o with attr := a }).attrFreed o a).still obj := fun m hm => hstill m (htpe ▸ hkept.moves ▸ hm)
  obtain ⟨hmd', hcmd'⟩ := State.attrMoved_facts hstill' o { o with attr := a } a d
  have htell := (((s.attrEntered obj o { o with attr := a }).attrFreed o a).attrMoved obj o { o with attr := a } a d).tellTwin_same obj
    { o with attr := o.attr ||| a } d
  refine ⟨(core_ledger htell.core).trans ?_, htell.cmd.trans (hcmd'.trans (hkept.cmd.trans hcmd))⟩
  rw [hmd', hkept.ledger, hledger]

theorem exec_objAttr {s : State} {c : Cmd} {o : Obj} {a : Nat} (hrun : s.running? c.uid opAttr = some c)
    (hown : s.own? (sqeObj c.words) = some o) (hcheck : s.checkAttr c o = none) (hstill : s.still (sqeObj c.words))
    (ha : a = newAttr o (sqeAttr c.words) (sqeMaskBits c.words)) :
    ∃ t, exec (.objAttr c.uid) s = .next t ∧ t.ended c 0 a 0 ∧ t.md.ledger = mput s.md.ledger (sqeObj c.words, 0) { o with attr := a } := by
  have hcheck' : (s.metaStart c).checkAttr c o = none := hcheck
  obtain ⟨hledger, hcmd⟩ := State.attrDone_facts (s := s.metaStart c) hstill o a c.dom
  obtain ⟨t, ht, hend, hmd, -⟩ := State.metaObj_ok (out := execObjAttr c.uid s) (u := (s.metaStart c).attrDone (sqeObj c.words) o a c.dom)
    (r0 := a) (r1 := 0) rfl hrun hown
    (by
      simp only [hcheck', ← ha]
      rfl)
    (by rw [hcmd]; exact State.metaStart_mem (State.running?_facts hrun).2.1)
  exact ⟨t, ht, hend, hmd ▸ hledger⟩

/-- Settles O21: each command journals its changes, of which one is the object's entry; pages freed and copies to the twin change no other
entry. -/
theorem objectCommands : Obligations.ObjectCommands := by
  unfold Obligations.ObjectCommands
  refine ⟨?create, ?delete, ?resize, ?attr⟩
  case create => exact fun s c hrun hcheck => exec_objCreate hrun hcheck
  case delete => exact fun s c o hrun hown hclear hstill hstreams => exec_objDelete hrun hown hclear hstill hstreams
  case resize =>
    rintro s c o n hrun hown hn (⟨hle, hclear, hstill, hstreams⟩ | ⟨hgt, hcheck⟩)
    · rw [if_pos hle]
      exact exec_objResize_shrink hrun hown hn hle hclear hstill hstreams
    · rw [if_neg (Nat.not_le.2 hgt)]
      exact exec_objResize_grow hrun hown hn hgt hcheck
  case attr => exact fun s c o a hrun hown hcheck hstill ha => exec_objAttr hrun hown hcheck hstill ha

end Sys2Proof.Machine
end

section
/-! Carriers: judgement, adoption, unbinding and slot power (O35: R272, R287 to R290). -/

namespace Sys2Proof.Machine

/-! ### A slot's registers -/

theorem State.fli_wri_ne (s : State) {f g : Fld} (h : f ≠ g) (i v j : Nat) : (s.wri f i v).fli g j = s.fli g j :=
  State.fli_eq (State.rdi_wri_ne _ (.inl h))

theorem State.slotRegs_facts {s : State} (hok : regsOk s.regs = true) (i : Nat) (c : Carrier) :
    (s.slotRegs i c).fli .PRESENT i = true ∧ ((s.slotRegs i c).rdi .ID_STATE i, (s.slotRegs i c).rdi .REFUSE_CAUSE i) = s.judgeCarrier i c := by
  have hj : (s.judgeCarrier i c).1 < 4 ∧ (s.judgeCarrier i c).2 < 8 := by
    unfold State.judgeCarrier
    repeat' split
    all_goals decide
  generalize hjc : s.judgeCarrier i c = j at hj
  generalize hu : ((s.setfi .PRESENT i true).wri .CARRIER_UID i (if c.readable then c.uid else 0)) = u
  have hu' : s.slotRegs i c = (u.wri .ID_STATE i j.1).wri .REFUSE_CAUSE i j.2 := by rw [State.slotRegs, hjc, ← hu]
  have hpresent : u.fli .PRESENT i = true := by
    rw [← hu, State.fli_wri_ne _ (by decide), State.fli_setfi hok rfl (by decide)]
  have huok : regsOk u.regs = true := hu ▸ regsOk_wri (regsOk_setfi hok _ _ _) _ _ _
  have hidok := regsOk_wri huok .ID_STATE i j.1
  have hid : (u.wri .ID_STATE i j.1).rdi .ID_STATE i = j.1 := State.rdi_wri_fit huok rfl hj.1 i
  have hcause : ((u.wri .ID_STATE i j.1).wri .REFUSE_CAUSE i j.2).rdi .REFUSE_CAUSE i = j.2 := State.rdi_wri_fit hidok rfl hj.2 i
  rw [hu']
  refine ⟨?_, Prod.ext ?_ hcause⟩
  · rw [State.fli_wri_ne _ (by decide), State.fli_wri_ne _ (by decide), hpresent]
  · exact (State.rdi_wri_ne _ (.inl (by decide))).trans hid

theorem State.slotRegs_parts (s : State) (i : Nat) (c : Carrier) : (s.slotRegs i c).nfc = s.nfc ∧ (s.slotRegs i c).out = s.out := ⟨rfl, rfl⟩

theorem exec_carrierPresent {s : State} {i : Nat} (c : Carrier) (hok : regsOk s.regs = true) (hi : i < 18) (hp : s.fli .PRESENT i = false) :
    ∃ t, exec (.carrierPresent i c) s = .next t ∧ t.fli .PRESENT i = true ∧
      (t.rdi .ID_STATE i, t.rdi .REFUSE_CAUSE i) = s.judgeCarrier i c := by
  let u : State := { s with nfc := { s.nfc with carriers := mput s.nfc.carriers (i, 0) c } }
  have hgo : execCarrierPresent i c s = .next ((u.slotRegs i c).record clsService 0 288 (item 7 i)) := by
    rw [execCarrierPresent, if_neg (by simp [hi, hp])]
  obtain ⟨hpres, hjudge⟩ := State.slotRegs_facts (s := u) hok i c
  refine ⟨_, hgo, ?_, ?_⟩
  · rw [State.fli_eq (State.record_rdi _ _ _ _ _ (by decide) _), hpres]
  · rw [State.record_rdi _ _ _ _ _ (by decide), State.record_rdi _ _ _ _ _ (by decide), hjudge]
    rfl

theorem exec_carrierRemoved {s : State} {i : Nat} {c : Carrier} (hok : regsOk s.regs = true) (hwf : mwf s.nfc.carriers = true) (hi : i < 18)
    (hc : mget s.nfc.carriers (i, 0) = some c) :
    ∃ t, exec (.carrierRemoved i) s = .next t ∧ t.fli .PRESENT i = false ∧ t.rdi .ID_STATE i = 0 ∧
      t.rdi .CARRIER_UID i = 0 ∧ mget t.nfc.carriers (i, 0) = none := by
  let u : State := { s with nfc := { s.nfc with carriers := mdel s.nfc.carriers (i, 0) } }
  have hgo : execCarrierRemoved i s = .next ((((u.setfi .PRESENT i false).wri .CARRIER_UID i 0).wri .ID_STATE i 0).wri .REFUSE_CAUSE i 0) := by
    rw [execCarrierRemoved, if_neg (by simp [hi, hc])]
  have h1 := regsOk_setfi (s := u) hok .PRESENT i false
  have h2 := regsOk_wri h1 .CARRIER_UID i 0
  refine ⟨_, hgo, ?_, ?_, ?_, mget_mdel _ hwf⟩
  · rw [State.fli_wri_ne _ (by decide), State.fli_wri_ne _ (by decide),
      State.fli_wri_ne _ (by decide), State.fli_setfi (s := u) hok rfl (by decide)]
  · rw [State.rdi_wri_ne _ (.inl (by decide)), State.rdi_wri_fit h2 (f := .ID_STATE) rfl (show 0 < 2 ^ 2 by decide)]
  · rw [State.rdi_wri_ne _ (.inl (by decide)), State.rdi_wri_ne _ (.inl (by decide)),
      State.rdi_wri_fit h1 (f := .CARRIER_UID) rfl (Nat.two_pow_pos _)]

/-! ### SLOT_PWR -/

theorem State.slotPwr_facts {s : State} (hok : regsOk s.regs = true) (i : Nat) (v : Bool) :
    (s.slotPwr i v).fli .SLOT_PWR i = v ∧ (s.slotPwr i v).fli .PWR_ON i = v ∧ regsOk (s.slotPwr i v).regs = true ∧
    (s.slotPwr i v).nfc = s.nfc ∧ (s.fli .SLOT_PWR i ≠ v → (s.slotPwr i v).out = s.out ++ [Msg.pin ("FC_PWR_EN_" ++ toString i) v]) ∧
    ∀ f j, f ≠ .SLOT_PWR → f ≠ .PWR_ON → (s.slotPwr i v).rdi f j = s.rdi f j := by
  generalize hu : (if s.fli .SLOT_PWR i == v then s else s.send (.pin ("FC_PWR_EN_" ++ toString i) v)) = u
  have hs : s.slotPwr i v = (u.setfi .SLOT_PWR i v).setfi .PWR_ON i v := by rw [State.slotPwr, ← hu]
  have hregs : u.regs = s.regs := by
    rw [← hu]
    split <;> rfl
  have hnfc : u.nfc = s.nfc := by
    rw [← hu]
    split <;> rfl
  have huok : regsOk u.regs = true := hregs ▸ hok
  have h1 := regsOk_setfi huok .SLOT_PWR i v
  rw [hs]
  refine ⟨?_, State.fli_setfi h1 rfl (by decide) i v, regsOk_setfi h1 _ _ _, hnfc, fun hne => ?_, fun f j hf hg => ?_⟩
  · rw [State.fli_eq (State.setfi_rdi_ne _ (by decide) _ _ _), State.fli_setfi huok rfl (by decide)]
  · have hout : u.out = s.out ++ [Msg.pin ("FC_PWR_EN_" ++ toString i) v] := by
      rw [← hu, if_neg (by simpa using hne)]
      rfl
    exact hout
  · rw [State.setfi_rdi_ne _ (Ne.symm hg), State.setfi_rdi_ne _ (Ne.symm hf), State.rdi_congr hregs]

theorem exec_slotPwrWrite {s : State} {i : Nat} (v : Bool) (hok : regsOk s.regs = true) (hrun : s.draining = false) (hi : i < 18) :
    ∃ t, exec (.slotPwrWrite i v) s = .next t ∧ t.fli .SLOT_PWR i = v ∧ t.fli .PWR_ON i = v ∧
      (s.fli .SLOT_PWR i ≠ v → t.out = s.out ++ [Msg.pin ("FC_PWR_EN_" ++ toString i) v]) := by
  obtain ⟨hslot, hpwr, -, -, hout, -⟩ := s.slotPwr_facts hok i v
  exact ⟨s.slotPwr i v, by rw [exec, execSlotPwrWrite, State.barWrite_of_running hrun, if_neg (Nat.not_le.2 hi)], hslot, hpwr, hout⟩

/-! ### ADOPT -/

/-- A channel of an adopted carrier begins its rebuild (R288, R290). -/
def State.chanAdopt (s : State) (x : Carrier) (y : Nat × Nat) : State :=
  let s := { s with nfc := { s.nfc with
    rebuilt := mfilter s.nfc.rebuilt fun k _ => k.1 != y.1
    dataBlk := mput s.nfc.dataBlk (y.1, 0) (s.dataBlocks x y.2) } }
  let s := (s.chanMedia y.1 x y.2).wri .FREE_BLK y.1 (s.dataBlocks x y.2)
  (s.setChan y.1 3).rebuildLeft y.1

theorem State.freshMeta_carriers (s : State) : s.freshMeta.nfc.carriers = s.nfc.carriers := by
  unfold State.freshMeta
  split <;> rfl

theorem State.mediaReady_carriers (s : State) : s.mediaReady.nfc.carriers = s.nfc.carriers := by
  unfold State.mediaReady
  split
  · exact State.freshMeta_carriers _
  · rfl

/-- The channel's own change of state. -/
theorem State.setChan_facts {s : State} (hok : regsOk s.regs = true) (c : Nat) {st : Nat} (hst : st < 4) :
    In State.setChan_foot s (s.setChan c st) ∧ (s.setChan c st).rdi .CH_STATE c = st ∧
    (∀ j, j ≠ c → (s.setChan c st).rdi .CH_STATE j = s.rdi .CH_STATE j) ∧ (s.setChan c st).nfc.carriers = s.nfc.carriers := by
  have hin : In State.setChan_foot s (s.setChan c st) := State.setChan_in (In.refl _ s) (Foot.le_refl _)
  have hstate : ∀ j, (s.chanState c st).rdi .CH_STATE j = (s.wri .CH_STATE c st).rdi .CH_STATE j := by
    intro j
    unfold State.chanState
    extract_lets s1 s2
    have h1 : s1.rdi .CH_STATE j = (s.wri .CH_STATE c st).rdi .CH_STATE j := State.setBitOf_rdi_ne _ (by decide) _ _ _ _
    have h2 : s2.rdi .CH_STATE j = s1.rdi .CH_STATE j := by
      refine State.setf_rdi_ne _ ?_ _ _
      split <;> decide
    have h3 : s2.vaultRegs.rdi .CH_STATE j = s2.rdi .CH_STATE j :=
      (State.vaultRegs_in (ft := State.vaultRegs_foot) (In.refl _ s2) (Foot.le_refl _)).regs .CH_STATE j (by decide)
    exact h3.trans (h2.trans h1)
  have hn : (s.chanState c st).nfc = s.nfc :=
    (State.chanState_in (ft := State.chanState_foot) (In.refl _ s) (Foot.le_refl _)).parts .nfc (by decide)
  generalize hx : s.chanState c st = x at hstate hn
  generalize hy : ({ x with nfc := { x.nfc with recState := mput x.nfc.recState (c, 0) st } } : State) = y
  have hs : s.setChan c st = y.mediaReady := by
    rw [State.setChan, hx, ← hy]
  have hregs : y.regs = x.regs := by rw [← hy]
  have hcar : y.nfc.carriers = x.nfc.carriers := by rw [← hy]
  have hread : ∀ j, (s.setChan c st).rdi .CH_STATE j = (s.wri .CH_STATE c st).rdi .CH_STATE j := fun j => by
    rw [hs, (State.mediaReady_in (ft := State.mediaReady_foot) (In.refl _ y) (Foot.le_refl _)).regs .CH_STATE j (by decide),
      State.rdi_congr hregs, hstate]
  refine ⟨hin, ?_, fun j hj => ?_, ?_⟩
  · rw [hread, State.rdi_wri_fit hok (f := .CH_STATE) rfl hst]
  · rw [hread, State.rdi_wri_ne _ (.inr (Ne.symm hj))]
  · rw [hs, State.mediaReady_carriers, hcar, hn]

/-- The fields a channel's adoption does not write, and the carriers. -/
theorem State.chanAdopt_facts {s : State} (hok : regsOk s.regs = true) (x : Carrier) (y : Nat × Nat) :
    regsOk (s.chanAdopt x y).regs = true ∧ (s.chanAdopt x y).rdi .CH_STATE y.1 = 3 ∧
    (∀ j, j ≠ y.1 → (s.chanAdopt x y).rdi .CH_STATE j = s.rdi .CH_STATE j) ∧
    (∀ i, (s.chanAdopt x y).rdi .ID_STATE i = s.rdi .ID_STATE i ∧ (s.chanAdopt x y).rdi .PWR_ON i = s.rdi .PWR_ON i) ∧
    (s.chanAdopt x y).nfc.carriers = s.nfc.carriers := by
  generalize hu : ({ s with nfc := { s.nfc with
    rebuilt := mfilter s.nfc.rebuilt fun k _ => k.1 != y.1
    dataBlk := mput s.nfc.dataBlk (y.1, 0) (s.dataBlocks x y.2) } } : State) = u
  have hregs : u.regs = s.regs := by rw [← hu]
  have hcars : u.nfc.carriers = s.nfc.carriers := by rw [← hu]
  have hmedia : In State.chanMedia_foot u (u.chanMedia y.1 x y.2) := State.chanMedia_in (In.refl _ u) (Foot.le_refl _)
  generalize hw : (u.chanMedia y.1 x y.2).wri .FREE_BLK y.1 (u.dataBlocks x y.2) = w
  have hwok : regsOk w.regs = true := hw ▸ regsOk_wri (hmedia.regsOk (hregs ▸ hok)) _ _ _
  have hwr : ∀ f j, f ≠ .FREE_BLK → f.foot.le State.chanMedia_foot = false → w.rdi f j = s.rdi f j := fun f j hf hft => by
    rw [← hw, State.rdi_wri_ne _ (.inl (Ne.symm hf)), hmedia.regs f j hft, State.rdi_congr hregs]
  have hwn : w.nfc.carriers = s.nfc.carriers := by
    have hm : (u.chanMedia y.1 x y.2).nfc = u.nfc := hmedia.parts .nfc (by decide)
    rw [← hw, State.wri_nfc, hm, hcars]
  obtain ⟨hin, hself, hother, hcar⟩ := State.setChan_facts hwok y.1 (st := 3) (by decide)
  have hs : s.chanAdopt x y = (w.setChan y.1 3).rebuildLeft y.1 := by simp only [State.chanAdopt, hu, hw]
  have hleft : ∀ f j, f ≠ .REBUILD_LEFT → ((w.setChan y.1 3).rebuildLeft y.1).rdi f j = (w.setChan y.1 3).rdi f j := fun f j hf =>
    State.rdi_wri_ne _ (.inl (Ne.symm hf))
  rw [hs]
  have hleftn : ((w.setChan y.1 3).rebuildLeft y.1).nfc = (w.setChan y.1 3).nfc := State.wri_nfc _ _ _ _
  refine ⟨regsOk_wri (hin.regsOk hwok) _ _ _, ?_, fun j hj => ?_, fun i => ⟨?_, ?_⟩, by rw [hleftn, hcar, hwn]⟩
  · rw [hleft _ _ (by decide), hself]
  · rw [hleft _ _ (by decide), hother j hj, hwr _ _ (by decide) (by decide)]
  · rw [hleft _ _ (by decide), hin.regs .ID_STATE i (by decide), hwr _ _ (by decide) (by decide)]
  · rw [hleft _ _ (by decide), hin.regs .PWR_ON i (by decide), hwr _ _ (by decide) (by decide)]

theorem State.adopt_ok {s : State} {i : Nat} {c : Carrier} (hok : regsOk s.regs = true)
    (hc : mget s.nfc.carriers (i, 0) = some c) (hid : s.rdi .ID_STATE i = 2) :
    (s.adopt i true true).rdi .ID_STATE i = 1 ∧ (s.adopt i true true).fli .PWR_ON i = true ∧
    (s.adopt i true true).rdi .CH_STATE i = 3 ∧ (s.adopt i true true).rdi .CH_STATE (18 + i) = 3 ∧
    mget (s.adopt i true true).nfc.carriers (i, 0) = some { c with array := s.rd .DEVICE_UID, slot := i } := by
  obtain ⟨-, hpwr, hpok, hnfc, -, hregs⟩ := s.slotPwr_facts hok i true
  generalize hp : s.slotPwr i true = p at hpwr hpok hnfc hregs
  have huid : p.rd .DEVICE_UID = s.rd .DEVICE_UID := hregs _ _ (by decide) (by decide)
  let x : Carrier := { c with array := s.rd .DEVICE_UID, slot := i }
  let u : State := State.wri { p with nfc := { p.nfc with carriers := mput p.nfc.carriers (i, 0) x } } .ID_STATE i 1
  have huok : regsOk u.regs = true := regsOk_wri hpok _ _ _
  have hu1 : u.rdi .ID_STATE i = 1 := State.rdi_wri_fit hpok rfl (show 1 < 2 ^ 2 by decide) i
  have hup : u.fli .PWR_ON i = true := (State.fli_wri_ne _ (by decide) _ _ _).trans hpwr
  have hgo : s.adopt i true true = ((u.chanAdopt x (i, 0)).chanAdopt x (18 + i, 1)).capTp := by
    rw [State.adopt, hc]
    simp only [hid, ne_eq, not_true_eq_false, if_false, hp, huid, Bool.not_true, Bool.false_eq_true]
    rfl
  obtain ⟨haok, ha3, -, hakeep, hacar⟩ := State.chanAdopt_facts huok x (i, 0)
  obtain ⟨hbok, hb3, hbother, hbkeep, hbcar⟩ := State.chanAdopt_facts haok x (18 + i, 1)
  generalize (u.chanAdopt x (i, 0)) = a at *
  generalize (a.chanAdopt x (18 + i, 1)) = b at *
  have hcap : In State.capTp_foot b b.capTp := State.capTp_in (In.refl _ b) (Foot.le_refl _)
  rw [hgo]
  refine ⟨?_, ?_, ?_, ?_, ?_⟩
  · rw [hcap.regs .ID_STATE i (by decide), (hbkeep i).1, (hakeep i).1, hu1]
  · rw [State.fli_eq (hcap.regs .PWR_ON i (by decide)), State.fli_eq (hbkeep i).2, State.fli_eq (hakeep i).2, hup]
  · rw [hcap.regs .CH_STATE i (by decide), hbother i (by simp), ha3]
  · rw [hcap.regs .CH_STATE (18 + i) (by decide), hb3]
  · have hn : b.capTp.nfc = b.nfc := hcap.parts .nfc (by decide)
    rw [hn, hbcar, hacar]
    exact mget_mput _ _ _

theorem State.adopt_refused {s : State} {i : Nat} {c : Carrier} (hok : regsOk s.regs = true)
    (hc : mget s.nfc.carriers (i, 0) = some c) (hid : s.rdi .ID_STATE i = 2) :
    (s.adopt i false true).rdi .ID_STATE i = 3 ∧ (s.adopt i false true).rdi .REFUSE_CAUSE i = 5 ∧
    (s.adopt i false true).rdi .CH_STATE i = s.rdi .CH_STATE i := by
  obtain ⟨-, -, hpok, -, -, hregs⟩ := s.slotPwr_facts hok i true
  have hgo : s.adopt i false true = (((s.slotPwr i true).wri .ID_STATE i 3).wri .REFUSE_CAUSE i 5) := by
    rw [State.adopt, hc]
    simp only [hid, ne_eq, not_true_eq_false, if_false, Bool.not_false, if_true]
  generalize s.slotPwr i true = p at *
  rw [hgo]
  refine ⟨?_, State.rdi_wri_fit (regsOk_wri hpok _ _ _) rfl (show 5 < 2 ^ 3 by decide) i, ?_⟩
  · rw [State.rdi_wri_ne _ (.inl (by decide)), State.rdi_wri_fit hpok (f := .ID_STATE) rfl (show 3 < 2 ^ 2 by decide)]
  · rw [State.rdi_wri_ne _ (.inl (by decide)), State.rdi_wri_ne _ (.inl (by decide)), hregs _ _ (by decide) (by decide)]

theorem exec_adopt {s : State} (hrun : s.draining = false) {i : Nat} (hi : i < 18) (icOk paramOk : Bool) :
    exec (.adopt i icOk paramOk) s = .next (s.adopt i icOk paramOk) := by
  rw [exec, execAdopt, State.barWrite_of_running hrun, if_neg (Nat.not_le.2 hi)]

/-! ### UNBIND_CARRIER -/

theorem exec_unbind_free {s : State} {i : Nat} {c : Carrier} (hok : regsOk s.regs = true) (hi : i < 18) (hc : mget s.nfc.carriers (i, 0) = some c)
    (hread : c.readable = true) (h0 : s.chanWorks i = false) (h1 : s.chanWorks (18 + i) = false) :
    ∃ t, exec (.unbindCarrier i) s = .next t ∧ mget t.nfc.carriers (i, 0) = some { c with array := 0, slot := 0 } ∧
      (c.mediaOk = true → t.rdi .ID_STATE i = 2) ∧ t.out = s.out ++ [Msg.fm 0xC002 stOk []] := by
  let x : Carrier := { c with array := 0, slot := 0 }
  let u : State := { s with nfc := { s.nfc with carriers := mput s.nfc.carriers (i, 0) x } }
  have hgo : execUnbindCarrier i s = .next ((u.slotRegs i x).send (.fm 0xC002 stOk [])) := by
    rw [execUnbindCarrier, hc]
    exact if_neg (by simp [hread, hi, h0, h1])
  obtain ⟨-, hjudge⟩ := State.slotRegs_facts (s := u) hok i x
  refine ⟨_, hgo, mget_mput _ _ _, fun hmedia => ?_, rfl⟩
  have hj : u.judgeCarrier i x = (2, 0) := by
    unfold State.judgeCarrier
    simp only [x, hread, hmedia, Bool.not_true, Bool.false_eq_true, if_false, if_true]
  exact congrArg Prod.fst (hjudge.trans hj)

theorem exec_unbind_used {s : State} {i : Nat} {c : Carrier} (hc : mget s.nfc.carriers (i, 0) = some c) (h0 : s.chanWorks i = true) :
    ∃ t, exec (.unbindCarrier i) s = .next t ∧ t.nfc = s.nfc ∧ t.out = s.out ++ [Msg.fm 0xC002 stInvalid []] := by
  have hgo : execUnbindCarrier i s = .next (s.send (.fm 0xC002 stInvalid [])) := by
    rw [execUnbindCarrier, hc]
    exact if_pos (by simp [h0])
  exact ⟨_, hgo, rfl, rfl⟩

/-- Settles O35: the slot's registers are the judgement of its carrier; an adoption makes both channels rebuild one after the other. -/
theorem carriersComeAndGo : Obligations.CarriersComeAndGo := by
  unfold Obligations.CarriersComeAndGo
  refine ⟨?present, ?removed, ?adopt, ?unbind, ?power⟩
  case present =>
    intro s i c hinv hi hp
    obtain ⟨t, ht, hpres, hjudge⟩ := exec_carrierPresent c hinv.1 hi hp
    refine ⟨t, ht, hpres, hjudge.trans ?_⟩
    unfold State.judgeCarrier
    simp only [Bool.not_eq_true']
  case removed => exact fun s i c hinv hwf hi hc => exec_carrierRemoved hinv.1 hwf hi hc
  case adopt =>
    intro s i c hinv _ hrun hi hc hid
    exact ⟨⟨_, exec_adopt hrun hi true true, State.adopt_ok hinv.1 hc hid⟩, _, exec_adopt hrun hi false true, State.adopt_refused hinv.1 hc hid⟩
  case unbind =>
    exact fun s i c hinv _ hi hc hread => ⟨fun h0 h1 => exec_unbind_free hinv.1 hi hc hread h0 h1, fun h0 => exec_unbind_used hc h0⟩
  case power => exact fun s i v hinv hrun hi => exec_slotPwrWrite v hinv.1 hrun hi

end Sys2Proof.Machine
end

section
/-! Widths, latches and drains of BAR0 accesses (O60: R95, R459 to R464, R469). -/

namespace Sys2Proof.Machine

/-! ### Accesses of wrong width -/

theorem State.accErr_facts {s : State} (hok : regsOk s.regs = true) (fn ofs : Nat) :
    (s.accErr fn ofs).rd .ACC_ERR_CNT = min (2 ^ 32 - 1) (s.rd .ACC_ERR_CNT + 1) ∧
    ∀ f j, f ∉ Fld.ACC_ERR_CNT :: .GLB_FLAGS_CNT_OVF :: dbkFlds → (s.accErr fn ofs).rdi f j = s.rdi f j := by
  have honce : ∀ (u : State) (f : Fld) (j : Nat), f ∉ dbkFlds → (u.recordOnce fn clsWarn 0 460 (item 6 ofs)).rdi f j = u.rdi f j :=
    fun u f j hf => (u.recordOnce_only fn clsWarn 0 460 (item 6 ofs)).regs f j (notMem_dbkRegs hf j)
  refine ⟨?_, fun f j hf => ?_⟩
  · exact (honce _ _ _ (by decide)).trans (State.count_rdi hok (f := .ACC_ERR_CNT) rfl (by decide) (by decide) 0 0 1)
  · simp only [List.mem_cons, not_or] at hf
    obtain ⟨hacc, hovf, hdbk⟩ := hf
    exact (honce _ _ _ hdbk).trans (State.count_rdi_of_ne _ _ _ _ _ _ hacc hovf hdbk j)

theorem State.regWrite_bad {s : State} {fn ofs size : Nat} (v x : Nat) (hreg : s.regFor fn ofs ≠ none) (hwin : inWindow ofs = false)
    (hbad : goodAccess ofs size = false) : s.regWrite fn ofs size v x = (s.unlatch fn).accErr fn ofs := by
  obtain ⟨r, hr⟩ := Option.ne_none_iff_exists'.1 hreg
  rw [State.regWrite]
  simp only [hwin, State.unlatch_regFor, hr, hbad, Bool.false_and, Bool.false_eq_true, if_false, Bool.not_false, if_true]

theorem State.regRead_bad {s : State} {fn ofs size : Nat} (hreg : s.regFor fn ofs ≠ none) (hwin : inWindow ofs = false)
    (hbad : goodAccess ofs size = false) : s.regRead fn ofs size = ((s.unlatch fn).accErr fn ofs, 0) := by
  obtain ⟨r, hr⟩ := Option.ne_none_iff_exists'.1 hreg
  rw [State.regRead]
  simp only [hwin, State.unlatch_regFor, hr, hbad, Bool.false_and, Bool.false_eq_true, if_false, Bool.not_false, if_true]

/-! ### Reads -/

theorem State.regRead_8 {s : State} {fn ofs i : Nat} {r : RegDef} (hwin : inWindow ofs = false) (hal : ofs % 8 = 0)
    (hreg : s.regFor fn ofs = some (r, i)) (hbase : r.base ≠ 0x800010) :
    s.regRead fn ofs 8 = (s.unlatch fn, s.regBits r i) := by
  have hgood : goodAccess ofs 8 = true := by simp [goodAccess, hal]
  rw [State.regRead]
  simp only [hwin, State.unlatch_regFor, hreg, hgood, Bool.false_and, Bool.false_eq_true, if_false, Bool.not_true, if_true,
    State.regValue, hbase]
  rfl

/-- A read of a register's low half latches its high half (R461). -/
def State.latched (s : State) (fn ofs hi : Nat) : State :=
  { s.unlatch fn with glb := { (s.unlatch fn).glb with latches := mput (s.unlatch fn).glb.latches (fn, 0) (ofs, hi) } }

theorem State.regRead_low {s : State} {fn ofs i : Nat} {r : RegDef} (hwin : inWindow ofs = false) (hal : ofs % 8 = 0)
    (hreg : s.regFor fn ofs = some (r, i)) (hbase : r.base ≠ 0x800010) :
    s.regRead fn ofs 4 = (s.latched fn ofs (bits (s.regBits r i) 32 32), bits (s.regBits r i) 0 32) := by
  have h4 : ofs % 4 = 0 := by omega
  have hgood : goodAccess ofs 4 = true := by simp [goodAccess, h4]
  rw [State.regRead]
  simp only [hwin, State.unlatch_regFor, hreg, hgood, Bool.false_and, Bool.false_eq_true, if_false, Bool.not_true, hal, if_true,
    State.regValue, hbase, Nat.reduceEqDiff]
  rfl

/-- The adjacent read of the high half answers what was latched. -/
theorem State.regRead_high {u : State} {fn ofs i hi : Nat} {r : RegDef} (hwin : inWindow ofs = false) (hal : ofs % 8 = 0)
    (hlatch : mget u.glb.latches (fn, 0) = some (ofs, hi)) (hreg : u.regFor fn (ofs + 4) = some (r, i)) :
    (u.regRead fn (ofs + 4) 4).1.out = u.out ∧ (u.regRead fn (ofs + 4) 4).2 = hi := by
  have h4 : (ofs + 4) % 4 = 0 := by omega
  have hgood : goodAccess (ofs + 4) 4 = true := by simp [goodAccess, h4]
  have hwin' : inWindow (ofs + 4) = false := by
    simp only [inWindow, Bool.and_eq_false_iff, decide_eq_false_iff_not] at hwin ⊢
    omega
  have hodd : ¬(ofs + 4) % 8 = 0 := by omega
  have hr : u.regRead fn (ofs + 4) 4 = (u.unlatch fn, hi) := by
    rw [State.regRead]
    simp only [hwin', State.unlatch_regFor, hreg, hgood, Bool.false_and, Bool.false_eq_true, if_false, Bool.not_true, hodd, hlatch, if_true,
      Nat.reduceEqDiff]
  rw [hr]
  exact ⟨rfl, rfl⟩

/-! ### The alert registers -/

def glbAlert : RegDef := ⟨"GLB_ALERT", 0x20, 1, 0x0, 1, 0x0, [⟨.ALERT_CAUSE, 0, .w1c⟩, ⟨.ALERT_FATAL, 17, .w1c⟩, ⟨.ALERT_OUT, 18, .ro⟩]⟩
def glbAlertMask : RegDef := ⟨"GLB_ALERT_MASK", 0x28, 1, 0x0, 1, 0x0, [⟨.ALERT_EN, 0, .rw⟩]⟩

theorem regAt_glbAlert : regAt 0x20 = some (glbAlert, 0) := rfl
theorem regAt_glbAlertMask : regAt 0x28 = some (glbAlertMask, 0) := rfl

theorem State.alertOut_rdi (s : State) {f : Fld} (h : Fld.ALERT_OUT ≠ f) (j : Nat) : s.alertOut.rdi f j = s.rdi f j :=
  State.setf_rdi_ne _ h _ _

theorem State.putReg_glbAlertMask (s : State) (v x : Nat) :
    s.putReg glbAlertMask 0 (covered glbAlertMask 0x28 8 v) x = (s.wr .ALERT_EN (bits v 0 18)).alertOut := by
  have hw : covered glbAlertMask 0x28 8 v = [(.ALERT_EN, bits v 0 18)] := rfl
  calc s.putReg glbAlertMask 0 (covered glbAlertMask 0x28 8 v) x
    _ = s.fldWrites glbAlertMask 0 [(.ALERT_EN, bits v 0 18)] x := by rw [hw]; rfl
    _ = s.rwAct .ALERT_EN 0 (bits v 0 18) := by
      simp [State.fldWrites, glbAlertMask, lateFlds, State.each, State.fldWrite]
    _ = (s.wr .ALERT_EN (bits v 0 18)).alertOut := rfl

theorem Fld.store_ALERT_EN (v : Nat) :
    Fld.store .ALERT_EN 0 (bits v 0 18) = if v % 2 ^ 18 < 2 ^ 17 then v % 2 ^ 18 + 2 ^ 17 else v % 2 ^ 18 := by
  have hx : min 262143 (max 0 (bits v 0 18 % 2 ^ 18)) = v % 2 ^ 18 := by
    rw [bits, Nat.shiftRight_zero, Nat.mod_mod]
    omega
  exact congrArg (fun y => if y < 2 ^ 17 then y + 2 ^ 17 else y) hx

theorem State.putReg_glbAlertMask_high (s : State) (v x : Nat) : s.putReg glbAlertMask 0 (covered glbAlertMask 0x2C 4 v) x = s := by
  have hw : covered glbAlertMask 0x2C 4 v = [] := rfl
  rw [hw]
  rfl

/-- A W1C write of one field (R7). -/
def State.clearBits (s : State) (f : Fld) (v : Nat) : State := s.wri f 0 (s.rdi f 0 &&& (2 ^ 64 - 1 - v))

theorem State.putReg_glbAlert (s : State) (v x : Nat) :
    s.putReg glbAlert 0 (covered glbAlert 0x20 8 v) x = ((s.clearBits .ALERT_CAUSE (bits v 0 17)).alertOut.clearBits .ALERT_FATAL (bits v 17 1)).alertOut := by
  have hw : covered glbAlert 0x20 8 v = [(.ALERT_CAUSE, bits v 0 17), (.ALERT_FATAL, bits v 17 1), (.ALERT_OUT, bits v 18 1)] := rfl
  calc s.putReg glbAlert 0 (covered glbAlert 0x20 8 v) x
    _ = s.fldWrites glbAlert 0 [(.ALERT_CAUSE, bits v 0 17), (.ALERT_FATAL, bits v 17 1), (.ALERT_OUT, bits v 18 1)] x := by rw [hw]; rfl
    _ = _ := by simp [State.fldWrites, glbAlert, lateFlds, State.each, State.fldWrite, State.clearBits]

/-- A written 1 clears its bit, a 0 leaves it. -/
theorem State.clearBits_bit {s : State} (hok : regsOk s.regs = true) (v : Nat) {b : Nat} (hb : b < 17) :
    bit ((s.clearBits .ALERT_CAUSE (bits v 0 17)).rd .ALERT_CAUSE) b = (bit (s.rd .ALERT_CAUSE) b && !bit v b) := by
  have hlow : s.rdi .ALERT_CAUSE 0 &&& (2 ^ 64 - 1 - bits v 0 17) < 2 ^ 17 :=
    lt_of_le_of_lt Nat.and_le_left (State.rdi_full_lt hok (f := .ALERT_CAUSE) rfl 0)
  have hrd : (s.clearBits .ALERT_CAUSE (bits v 0 17)).rd .ALERT_CAUSE = s.rdi .ALERT_CAUSE 0 &&& (2 ^ 64 - 1 - bits v 0 17) :=
    State.rdi_wri_fit hok (f := .ALERT_CAUSE) rfl hlow 0
  have hv : bits v 0 17 < 2 ^ 64 := lt_of_lt_of_le (Nat.mod_lt _ (by decide)) (by decide)
  have hmask : (2 ^ 64 - 1 - bits v 0 17).testBit b = !bit v b := by
    rw [show 2 ^ 64 - 1 - bits v 0 17 = 2 ^ 64 - (bits v 0 17 + 1) by omega, Nat.testBit_two_pow_sub_succ hv, decide_eq_true (by omega),
      Bool.true_and, bits, Nat.shiftRight_zero, Nat.testBit_mod_two_pow, decide_eq_true hb, Bool.true_and, bit]
  rw [hrd, bit, Nat.testBit_and, hmask]
  rfl

/-! ### PRT_LD_CFG -/

def prtLdCfg : RegDef :=
  ⟨"PRT_LD_CFG", 0x30100, 8, 0x1000, 16, 0x40, [⟨.LD_EN, 0, .rw⟩, ⟨.PRT_LD_CFG_DOMAIN, 1, .rw⟩, ⟨.LD_CAP_256M, 16, .rw⟩, ⟨.BENCH_QUOTA, 36, .rw⟩]⟩

theorem regAt_prtLdCfg : regAt 0x30100 = some (prtLdCfg, 0) := rfl

theorem covered_prtLdCfg (v : Nat) : covered prtLdCfg 0x30100 4 v = [(.LD_EN, bits v 0 1), (.PRT_LD_CFG_DOMAIN, bits v 1 8)] := rfl

/-- A property of both branches. -/
theorem State.ite_of {P : State → Prop} {b : Prop} [Decidable b] {s t : State} (h : P s) (g : P t) : P (if b then s else t) := by
  split
  · exact h
  · exact g

theorem State.ldCfgWrite_low {s : State} (hok : regsOk s.regs = true) (v : Nat) :
    (s.ldCfgWrite 0 [(.LD_EN, bits v 0 1), (.PRT_LD_CFG_DOMAIN, bits v 1 8)]).fli .LD_EN 0 = bit v 0 ∧
    ∀ i, (s.ldCfgWrite 0 [(.LD_EN, bits v 0 1), (.PRT_LD_CFG_DOMAIN, bits v 1 8)]).rdi .LD_CAP_256M i = s.rdi .LD_CAP_256M i ∧
      (s.ldCfgWrite 0 [(.LD_EN, bits v 0 1), (.PRT_LD_CFG_DOMAIN, bits v 1 8)]).rdi .BENCH_QUOTA i = s.rdi .BENCH_QUOTA i := by
  unfold State.ldCfgWrite
  extract_lets was dom s1 s2
  have hdom : dom = [(.PRT_LD_CFG_DOMAIN, bits v 1 8)] := rfl
  have h1 : regsOk s1.regs = true ∧ ∀ f i, Fld.PRT_LD_CFG_DOMAIN ≠ f → f ∉ dbkFlds → s1.rdi f i = s.rdi f i := by
    have hput : s.putVals dom 0 = s.wri .PRT_LD_CFG_DOMAIN 0 (bits v 1 8) := by rw [hdom]; rfl
    have hrec : ∀ cls d rule items, regsOk (s.record cls d rule items).regs = true ∧
        ∀ f i, Fld.PRT_LD_CFG_DOMAIN ≠ f → f ∉ dbkFlds → (s.record cls d rule items).rdi f i = s.rdi f i :=
      fun cls d rule items => ⟨regsOk_record hok _ _ _ _, fun f i _ hd => State.record_rdi _ _ _ _ _ hd i⟩
    have hw : regsOk (s.wri .PRT_LD_CFG_DOMAIN 0 (bits v 1 8)).regs = true ∧
        ∀ f i, Fld.PRT_LD_CFG_DOMAIN ≠ f → f ∉ dbkFlds → (s.wri .PRT_LD_CFG_DOMAIN 0 (bits v 1 8)).rdi f i = s.rdi f i :=
      ⟨regsOk_wri hok _ _ _, fun f i hf _ => State.rdi_wri_ne _ (.inl hf)⟩
    rw [← hput] at hw
    refine State.ite_of (P := fun u => regsOk u.regs = true ∧ ∀ f i, Fld.PRT_LD_CFG_DOMAIN ≠ f → f ∉ dbkFlds → u.rdi f i = s.rdi f i) hw ?_
    exact State.ite_of (P := fun u => regsOk u.regs = true ∧ ∀ f i, Fld.PRT_LD_CFG_DOMAIN ≠ f → f ∉ dbkFlds → u.rdi f i = s.rdi f i)
      (hrec _ _ _ _) ⟨hok, fun _ _ _ _ => rfl⟩
  obtain ⟨hok1, hkeep1⟩ := h1
  clear_value s1
  have hs2 : s2 = s1.wri .LD_EN 0 (bits v 0 1) := rfl
  clear_value s2
  have hbit : bits v 0 1 = b2n (bit v 0) := by
    rw [bits, bit, Nat.shiftRight_zero, Nat.testBit_zero, b2n]
    split <;> simp_all
  have hen : s2.fli .LD_EN 0 = bit v 0 := by
    rw [hs2, hbit]
    exact State.fli_setfi hok1 rfl (by decide) 0 (bit v 0)
  have hkeep2 : ∀ f i, Fld.LD_EN ≠ f → Fld.PRT_LD_CFG_DOMAIN ≠ f → f ∉ dbkFlds → s2.rdi f i = s.rdi f i := fun f i hf hg hd => by
    rw [hs2, State.rdi_wri_ne _ (.inl hf), hkeep1 f i hg hd]
  have hreset : ∀ l : List Nat, In State.qpReset_foot s2 (s2.each l State.qpReset) := fun l =>
    State.each_in (l := l) (In.refl _ s2) fun u q hu => State.qpReset_in hu (Foot.le_refl _)
  have hP : ∀ u : State, (∀ f i, f.foot.le State.qpReset_foot = false → u.rdi f i = s2.rdi f i) →
      u.fli .LD_EN 0 = bit v 0 ∧ ∀ i, u.rdi .LD_CAP_256M i = s.rdi .LD_CAP_256M i ∧ u.rdi .BENCH_QUOTA i = s.rdi .BENCH_QUOTA i := fun u hu =>
    ⟨(State.fli_eq (hu .LD_EN 0 (by decide))).trans hen, fun i =>
      ⟨(hu .LD_CAP_256M i (by decide)).trans (hkeep2 _ _ (by decide) (by decide) (by decide)),
        (hu .BENCH_QUOTA i (by decide)).trans (hkeep2 _ _ (by decide) (by decide) (by decide))⟩⟩
  refine hP _ fun f i hf => ?_
  split
  · rfl
  · split
    · exact (hreset _).regs f i hf
    · rfl

/-! ### The statement -/

theorem exec_badAccess {s : State} {link ld ofs size : Nat} (v x : Nat) (hok : regsOk s.regs = true) (hlink : link < 8) (hld : ld < 16)
    (hofs : ofs < 2 ^ 24) (hio : s.ioServes link = true) (hreg : s.regFor (ldIx link ld) ofs ≠ none) (hwin : inWindow ofs = false)
    (hbad : goodAccess ofs size = false) :
    (∃ t, exec (.registerWrite link ld ofs size v x) s = .next t ∧ t.rd .ACC_ERR_CNT = min (2 ^ 32 - 1) (s.rd .ACC_ERR_CNT + 1) ∧
      ∀ f j, f ∉ Fld.ACC_ERR_CNT :: .GLB_FLAGS_CNT_OVF :: dbkFlds → t.rdi f j = s.rdi f j) ∧
    ∃ t, exec (.registerRead link ld ofs size) s = .next t ∧ t.rd .ACC_ERR_CNT = min (2 ^ 32 - 1) (s.rd .ACC_ERR_CNT + 1) ∧
      t.out.getLast? = some (Msg.regRead (ldIx link ld) ofs 0) := by
  obtain ⟨hcnt, hkeep⟩ := State.accErr_facts (s := s.unlatch (ldIx link ld)) hok (ldIx link ld) ofs
  refine ⟨⟨_, ?_, hcnt, hkeep⟩, ((s.unlatch (ldIx link ld)).accErr (ldIx link ld) ofs).send (.regRead (ldIx link ld) ofs 0), ?_, hcnt,
    List.getLast?_concat⟩
  · rw [exec_registerWrite size v x hlink hld hofs, if_pos hio, State.regWrite_bad v x hreg hwin hbad]
  · rw [exec_registerRead size hlink hld hofs hio, State.regRead_bad hreg hwin hbad]

theorem exec_goodReads {s : State} {link ld ofs i : Nat} {r : RegDef} (hlink : link < 8) (hld : ld < 16) (hofs : ofs < 2 ^ 24)
    (hio : s.ioServes link = true) (hal : ofs % 8 = 0) (hreg : s.regFor (ldIx link ld) ofs = some (r, i)) (hbase : r.base ≠ 0x800010)
    (hwin : inWindow ofs = false) :
    (∃ t, exec (.registerRead link ld ofs 8) s = .next t ∧ t.out = s.out ++ [Msg.regRead (ldIx link ld) ofs (s.regBits r i)] ∧
      t.regs = s.regs) ∧
    ∃ t, exec (.registerRead link ld ofs 4) s = .next t ∧ t.out = s.out ++ [Msg.regRead (ldIx link ld) ofs (bits (s.regBits r i) 0 32)] ∧
      t.regs = s.regs ∧ ∀ u : State, u.glb.latches = t.glb.latches → u.ioServes link = true → u.regFor (ldIx link ld) (ofs + 4) = some (r, i) →
        ∃ w, exec (.registerRead link ld (ofs + 4) 4) u = .next w ∧
          w.out = u.out ++ [Msg.regRead (ldIx link ld) (ofs + 4) (bits (s.regBits r i) 32 32)] := by
  refine ⟨⟨(s.unlatch (ldIx link ld)).send _, ?_, rfl, rfl⟩,
    (s.latched (ldIx link ld) ofs (bits (s.regBits r i) 32 32)).send _, ?_, rfl, rfl, fun u hu huio hureg => ?_⟩
  · rw [exec_registerRead 8 hlink hld hofs hio, State.regRead_8 hwin hal hreg hbase]
  · rw [exec_registerRead 4 hlink hld hofs hio, State.regRead_low hwin hal hreg hbase]
  · have hlatch : mget u.glb.latches (ldIx link ld, 0) = some (ofs, bits (s.regBits r i) 32 32) := by
      rw [hu]
      exact mget_mput _ _ _
    obtain ⟨hout, hval⟩ := State.regRead_high hwin hal hlatch hureg
    refine ⟨_, exec_registerRead 4 hlink hld (by omega) huio, ?_⟩
    rw [hval]
    exact congrArg (· ++ [Msg.regRead (ldIx link ld) (ofs + 4) (bits (s.regBits r i) 32 32)]) hout

/-- What reaches a register of domain 0 reaches every one (Table 20.1). -/
theorem State.reaches_domZero {s : State} {fn ofs ofs' : Nat} (h : domZero ofs = true) (h' : domZero ofs' = true)
    (hreach : s.reaches fn ofs = true) : s.reaches fn ofs' = true := by
  simp only [State.reaches, h, h', if_true] at hreach ⊢
  exact hreach

section
variable {s : State} {link ld : Nat} (v x : Nat) (hok : regsOk s.regs = true) (hrun : s.draining = false) (hlink : link < 8) (hld : ld < 16)
  (hio : s.ioServes link = true) (hreach : s.reaches (ldIx link ld) 0x28 = true)
include hrun hlink hld hio hreach

include hok in
theorem exec_alertMaskWrite : ∃ t, exec (.registerWrite link ld 0x28 8 v x) s = .next t ∧
    t.rd .ALERT_EN = (if v % 2 ^ 18 < 2 ^ 17 then v % 2 ^ 18 + 2 ^ 17 else v % 2 ^ 18) := by
  have hok' : regsOk (s.unlatch (ldIx link ld)).regs = true := hok
  refine ⟨((s.unlatch (ldIx link ld)).wr .ALERT_EN (bits v 0 18)).alertOut, ?_, ?_⟩
  · rw [exec_registerWrite 8 v x hlink hld (by decide), if_pos hio,
      State.regWrite_of_regFor v x rfl rfl hrun (State.regFor_of_reaches hreach regAt_glbAlertMask (by decide)), State.putReg_glbAlertMask]
  · exact (State.alertOut_rdi _ (by decide) 0).trans ((State.rdi_wri _ _ _ (regsOk_mwf hok')).trans (Fld.store_ALERT_EN v))

include hok in
theorem exec_alertWrite : ∃ t, exec (.registerWrite link ld 0x20 8 v x) s = .next t ∧
    ∀ b, b < 17 → bit (t.rd .ALERT_CAUSE) b = (bit (s.rd .ALERT_CAUSE) b && !bit v b) := by
  have hok' : regsOk (s.unlatch (ldIx link ld)).regs = true := hok
  refine ⟨(((s.unlatch (ldIx link ld)).clearBits .ALERT_CAUSE (bits v 0 17)).alertOut.clearBits .ALERT_FATAL (bits v 17 1)).alertOut, ?_, fun b hb => ?_⟩
  · rw [exec_registerWrite 8 v x hlink hld (by decide), if_pos hio,
      State.regWrite_of_regFor v x rfl rfl hrun (State.regFor_of_reaches (State.reaches_domZero rfl rfl hreach) regAt_glbAlert (by decide)),
      State.putReg_glbAlert]
  · have hbit := State.clearBits_bit hok' v hb
    generalize (s.unlatch (ldIx link ld)).clearBits .ALERT_CAUSE (bits v 0 17) = u at hbit
    have hread : (u.alertOut.clearBits .ALERT_FATAL (bits v 17 1)).alertOut.rd .ALERT_CAUSE = u.rd .ALERT_CAUSE :=
      (State.alertOut_rdi _ (by decide) 0).trans ((State.rdi_wri_ne _ (.inl (by decide))).trans (State.alertOut_rdi _ (by decide) 0))
    rw [hread, hbit]
    rfl

theorem exec_alertMaskWrite_high : ∃ t, exec (.registerWrite link ld 0x2C 4 v x) s = .next t ∧ t.regs = s.regs := by
  refine ⟨s.unlatch (ldIx link ld), ?_, rfl⟩
  rw [exec_registerWrite 4 v x hlink hld (by decide), if_pos hio,
    State.regWrite_of_regFor v x rfl rfl hrun (State.regFor_of_reaches (State.reaches_domZero rfl rfl hreach) (r := glbAlertMask) (i := 0) rfl (by decide)),
    State.putReg_glbAlertMask_high]

include hok in
theorem exec_ldCfgWrite_low : ∃ t, exec (.registerWrite link ld 0x30100 4 v x) s = .next t ∧ t.fli .LD_EN 0 = bit v 0 ∧
    ∀ i, t.rdi .LD_CAP_256M i = s.rdi .LD_CAP_256M i ∧ t.rdi .BENCH_QUOTA i = s.rdi .BENCH_QUOTA i := by
  have hcfg : s.regFor (ldIx link ld) 0x30100 = some (prtLdCfg, 0) := by
    have hat : regAt (0x30100 / 8 * 8) = some (prtLdCfg, 0) := regAt_prtLdCfg
    rw [State.regFor, if_pos (State.reaches_domZero rfl rfl hreach), hat]
    rfl
  refine ⟨(s.unlatch (ldIx link ld)).ldCfgWrite 0 [(.LD_EN, bits v 0 1), (.PRT_LD_CFG_DOMAIN, bits v 1 8)], ?_,
    State.ldCfgWrite_low (s := s.unlatch (ldIx link ld)) hok v⟩
  rw [exec_registerWrite 4 v x hlink hld (by decide), if_pos hio, State.regWrite_of_regFor v x rfl rfl hrun hcfg, covered_prtLdCfg]
  rfl

end

theorem exec_drainWrite {s : State} {link ld ofs size : Nat} (v x : Nat) (hdrain : s.draining = true) (hlink : link < 8) (hld : ld < 16)
    (hofs : ofs < 2 ^ 24) (hio : s.ioServes link = true) (hreg : s.regFor (ldIx link ld) ofs ≠ none) (hwin : inWindow ofs = false)
    (hgood : goodAccess ofs size = true) :
    ∃ t, exec (.registerWrite link ld ofs size v x) s = .next t ∧ (∀ f j, f ∉ dbkFlds → t.rdi f j = s.rdi f j) ∧ (464, ldIx link ld) ∈ t.once := by
  obtain ⟨r, hr⟩ := Option.ne_none_iff_exists'.1 hreg
  have hdrain' : (s.unlatch (ldIx link ld)).draining = true := hdrain
  have hgo : s.regWrite (ldIx link ld) ofs size v x = (s.unlatch (ldIx link ld)).recordOnce (ldIx link ld) clsWarn 0 464 [] := by
    rw [State.regWrite]
    simp only [hwin, State.unlatch_regFor, hr, hgood, hdrain', Bool.false_and, Bool.false_eq_true, if_false, Bool.not_true, if_true]
  refine ⟨_, by rw [exec_registerWrite size v x hlink hld hofs, if_pos hio, hgo], fun f j hf => ?_, ?_⟩
  · exact (State.recordOnce_only _ _ _ _ _ _).regs f j (notMem_dbkRegs hf j)
  · unfold State.recordOnce
    split
    · exact List.contains_iff_mem.1 ‹_›
    · rw [(State.record_only _ _ _ _ _).once_eq (by simp)]
      exact List.mem_append_right _ (List.mem_singleton.2 rfl)

theorem exec_manageAccess {s : State} (ep v x : Nat) (hok : regsOk s.regs = true) (hrun : s.draining = false) :
    (∃ t, exec (.registerAccess ep 0x10 8 (some v) x) s = .next t ∧ t.rd .TICK_PERIOD = min 1560 (max 98 (v % 2 ^ 11)) ∧
      t.out.getLast? = some (Msg.fm 0xC003 stOk [])) ∧
    ∃ t, exec (.registerAccess ep 0x10 8 none x) s = .next t ∧ t.out.getLast? = some (Msg.fm 0xC003 stOk [s.rd .TICK_PERIOD]) ∧ t.regs = s.regs := by
  have hreach : s.reaches (128 + ep) 0x10 = true := if_pos (Nat.le_add_right _ _)
  have hreg := State.regFor_of_reaches hreach regAt_glbTick (by decide)
  have hbits : s.regBits glbTick 0 = s.rd .TICK_PERIOD := by
    have hle := State.rdi_plain_le hok (f := .TICK_PERIOD) rfl 0
    have hlt : s.rd .TICK_PERIOD < 2 ^ 11 := lt_of_le_of_lt hle (by decide)
    show 0 + s.rd .TICK_PERIOD % 2 ^ 11 * 2 ^ 0 = _
    rw [Nat.mod_eq_of_lt hlt]
    omega
  refine ⟨⟨((s.unlatch (128 + ep)).wr .TICK_PERIOD (bits v 0 11)).send (.fm 0xC003 stOk []), ?_, ?_, List.getLast?_concat⟩,
    (s.unlatch (128 + ep)).send (.fm 0xC003 stOk [s.rd .TICK_PERIOD]), ?_, List.getLast?_concat, rfl⟩
  · rw [exec, execRegisterAccess, State.regWrite_glbTick v x hrun hreach]
  · exact (State.rdi_wri _ _ _ (regsOk_mwf hok)).trans (Fld.store_TICK_PERIOD v)
  · rw [exec, execRegisterAccess, State.regRead_8 rfl rfl hreg (by decide), hbits]

/-- Settles O60: an access is its register's own read or write, reached alike by a function and by the management path. -/
theorem registerAccesses : Obligations.RegisterAccesses := by
  unfold Obligations.RegisterAccesses
  refine ⟨?insecure, ?bad, ?reads, ?writes, ?drain, ?manage⟩
  case insecure =>
    intro s link ld ofs size v x hio
    have hno : ¬(link < 8 ∧ ld < 16 ∧ ofs < 2 ^ 24 ∧ s.ioServes link = true) := by simp [hio]
    exact ⟨by rw [exec, execRegisterRead, if_neg hno], by rw [exec, execRegisterWrite, if_neg hno]⟩
  case bad => exact fun s link ld ofs size v x hinv hlink hld hofs hio hreg hwin hbad => exec_badAccess v x hinv.1 hlink hld hofs hio hreg hwin hbad
  case reads => exact fun s link ld ofs r i _ _ hlink hld hofs hio hal hreg hbase hwin => exec_goodReads hlink hld hofs hio hal hreg hbase hwin
  case writes => exact fun s link ld v x hinv hrun hlink hld hio hreach =>
      ⟨exec_alertMaskWrite v x hinv.1 hrun hlink hld hio hreach, exec_alertWrite v x hinv.1 hrun hlink hld hio hreach,
        exec_alertMaskWrite_high v x hrun hlink hld hio hreach, exec_ldCfgWrite_low v x hinv.1 hrun hlink hld hio hreach⟩
  case drain =>
    exact fun s link ld ofs size v x _ hdrain hlink hld hofs hio hreg hwin hgood => exec_drainWrite v x hdrain hlink hld hofs hio hreg hwin hgood
  case manage => exact fun s ep v x hinv hrun => exec_manageAccess ep v x hinv.1 hrun

end Sys2Proof.Machine
end

section
/-! Requests that go on leave the list of map blocks not loaded (R454): a layer for O54. -/

namespace Sys2Proof.Machine

/-- The map blocks not loaded are as they were. -/
def SameBlocks (s t : State) : Prop := t.tpe.unloaded = s.tpe.unloaded

theorem SameBlocks.refl (s : State) : SameBlocks s s := rfl

theorem SameBlocks.trans {s t u : State} (h : SameBlocks s t) (g : SameBlocks t u) : SameBlocks s u := Eq.trans g h

theorem Kept.blocks {s t : State} (h : Kept s t) : SameBlocks s t := h.unloaded

theorem SameBlocks.of_in {ft : Foot} {s t : State} (h : In ft s t) (hft : Part.tpe.foot.le ft = false) : SameBlocks s t := by
  have htpe : t.tpe = s.tpe := h.parts .tpe hft
  rw [SameBlocks, htpe]

theorem SameBlocks.ite {b : Prop} [Decidable b] {s t u : State} (h : b → SameBlocks s t) (g : ¬b → SameBlocks s u) :
    SameBlocks s (if b then t else u) := by
  split
  · exact h ‹_›
  · exact g ‹_›

theorem SameBlocks.each {α : Type} {f : State → α → State} (s : State) (l : List α) (h : ∀ u x, SameBlocks u (f u x)) : SameBlocks s (s.each l f) :=
  State.each_inv (P := SameBlocks s) l (SameBlocks.refl s) fun u x _ hu => hu.trans (h u x)

/-! ### Moves and streams -/

theorem State.updStream_blocks (s : State) (d sid : Nat) (f : Stream → Stream) : SameBlocks s (s.updStream d sid f) := rfl
theorem State.updMove_blocks (s : State) (id : Nat) (f : Move → Move) : SameBlocks s (s.updMove id f) := rfl
theorem State.queueMove_blocks (s : State) (m : Move) : SameBlocks s (s.queueMove m) := rfl
theorem State.setMap_blocks (s : State) (ix : Nat) (e : MapE) : SameBlocks s (s.setMap ix e) := rfl
theorem State.moveRegs_blocks (s : State) : SameBlocks s s.moveRegs :=
  SameBlocks.of_in (ft := State.moveRegs_foot) (State.moveRegs_in (In.refl _ s) (Foot.le_refl _)) (by decide)

theorem State.streamEnd_blocks (s : State) (t : Stream) : SameBlocks s (s.streamEnd t) := by
  unfold State.streamEnd
  refine SameBlocks.ite (fun _ => SameBlocks.refl s) fun _ => ?_
  extract_lets k s1
  have h1 : SameBlocks s s1 := rfl
  clear_value s1
  exact h1.trans (SameBlocks.of_in (s := s1.streamRegs t.dom) (State.finishCmd_in (ft := State.finishCmd_foot) (In.refl _ _) (Foot.le_refl _)) (by decide))

theorem State.streamEnds_blocks (s : State) : SameBlocks s s.streamEnds := SameBlocks.each s _ State.streamEnd_blocks

theorem State.dropMove_blocks (s : State) (id : Nat) : SameBlocks s (s.dropMove id) := by
  unfold State.dropMove
  generalize hu : ({ s with tpe := { s.tpe with moves := s.tpe.moves.filter fun m => m.id != id } } : State) = u
  have h1 : SameBlocks s u := by rw [← hu]; rfl
  exact (h1.trans u.moveRegs_blocks).trans (State.streamEnds_blocks _)

theorem State.cancelMove_blocks (s : State) (m : Move) : SameBlocks s (s.cancelMove m) := by
  have hcount : SameBlocks s (s.countStreams m false) := SameBlocks.each s _ fun u x => State.updStream_blocks _ _ _ _
  exact hcount.trans (State.dropMove_blocks _ _)

theorem State.abandonMove_blocks (s : State) (m : Move) : SameBlocks s (s.abandonMove m) := by
  unfold State.abandonMove
  exact SameBlocks.ite (fun _ => (s.cancelMove_blocks m).trans (State.queueMove_blocks _ _)) fun _ => s.cancelMove_blocks m

theorem State.dropDemotion_blocks (s : State) (obj tp : Nat) : SameBlocks s (s.dropDemotion obj tp) := by
  unfold State.dropDemotion
  split
  · exact s.cancelMove_blocks _
  · exact SameBlocks.refl s

theorem State.markLate_blocks (s : State) (m : Move) (d : Nat) : SameBlocks s (s.markLate m d) := by
  unfold State.markLate
  refine SameBlocks.ite (fun _ => SameBlocks.refl s) fun _ => ?_
  exact ((s.updMove_blocks _ _).trans (SameBlocks.each _ _ fun u x => State.updStream_blocks _ _ _ _)).trans (State.count_kept _ _ _ _ _ _).blocks

/-! ### Demand fetches -/

theorem State.takeFrame_blocks (s : State) (e : Frame) : SameBlocks s (s.takeFrame e) := by
  have hceil : ∀ (u : State) (d : Nat), SameBlocks u (u.ceilFlag d) := fun u d =>
    SameBlocks.of_in (ft := State.ceilFlag_foot) (State.ceilFlag_in (In.refl _ u) (Foot.le_refl _)) (by decide)
  unfold State.takeFrame
  exact (hceil ((s.wr .FREE_FRAMES (s.rd .FREE_FRAMES - 1)).wri .TALLY e.acct ((s.wr .FREE_FRAMES (s.rd .FREE_FRAMES - 1)).rdi .TALLY e.acct + 1)) e.acct).trans
    (State.setFrame_kept _ _ _).blocks

theorem State.beginLoad_blocks (s : State) (m : Move) (acct use : Nat) : SameBlocks s (s.beginLoad m acct use) := by
  unfold State.beginLoad
  exact (((s.takeFrame_blocks _).trans (State.setMap_blocks _ _ _)).trans (State.updMove_blocks _ _ _)).trans (State.moveRegs_blocks _)

theorem State.startDemand_blocks (s : State) (m : Move) (replica : Bool) : SameBlocks s (s.startDemand m replica) := by
  have h1 : SameBlocks s ((s.count .DF_CNT 0 .TPE_FLAGS_CNT_OVF 0 0).queueMove m) := (s.count_kept _ _ _ _ _).blocks.trans (State.queueMove_blocks _ _)
  unfold State.startDemand
  extract_lets id s1
  split
  · exact SameBlocks.ite (fun _ => h1.trans (State.beginLoad_blocks _ _ _ _)) fun _ => h1
  · exact h1

theorem State.needPage_blocks (s : State) (obj tp d : Nat) (replica : Bool) : SameBlocks s (s.needPage obj tp d replica) := by
  unfold State.needPage
  split
  · exact s.startDemand_blocks _ _
  · rename_i m _
    refine SameBlocks.ite (fun _ => SameBlocks.refl s) fun _ => SameBlocks.ite (fun _ => s.markLate_blocks m d) fun _ =>
      SameBlocks.ite (fun _ => SameBlocks.refl s) fun _ => ?_
    have h1 := s.markLate_blocks m d
    extract_lets s1
    split
    · extract_lets s2
      have h2 : SameBlocks s s2 := h1
      exact h2.trans (State.startDemand_blocks _ _ _)
    · exact h1

/-! ### Host requests -/

theorem State.hostWait_blocks (s : State) (r : HostReq) (why : Why) (obj tp : Nat) : SameBlocks s (s.hostWait r why obj tp) :=
  SameBlocks.of_in (ft := State.hostWait_foot) (State.hostWait_in (In.refl _ s) (Foot.le_refl _)) (by decide)

theorem State.snoops_blocks (s : State) (l : List Nat) (la : Nat) : SameBlocks s (s.each l fun s k => s.snoop k la) :=
  SameBlocks.each s l fun u k => SameBlocks.of_in (ft := State.snoop_foot) (State.snoop_in (In.refl _ u) (Foot.le_refl _)) (by decide)

theorem State.chargeCp_blocks (s : State) (ix k d : Nat) : SameBlocks s (s.chargeCp ix k d) := by
  have hkey : ∀ (u : State) (x : Key), SameBlocks u (u.chargeKey d x) := fun u x =>
    SameBlocks.of_in (ft := State.chargeKey_foot) (State.chargeKey_in (In.refl _ u) (Foot.le_refl _)) (by decide)
  have h1 : SameBlocks s ((s.setMap ix ((s.mapE ix).setCp k 1)).chargeKey d ((s.mapE ix).frame, k)) := (s.setMap_blocks _ _).trans (hkey _ _)
  unfold State.chargeCp
  extract_lets m s1
  split
  · exact h1.trans (State.setFrame_kept _ _ _).blocks
  · exact h1

theorem State.serveT1_blocks (s : State) (r : HostReq) (o : Obj) (obj tp ix la : Nat) : SameBlocks s (s.serveT1 r o obj tp ix la) := by
  unfold State.serveT1
  extract_lets s1 d e k needs q inval victim s4 s5
  have h0 : SameBlocks s s1 := s.dropDemotion_blocks obj tp
  clear_value s1
  have h5 : SameBlocks s s5 := by
    have h4 : SameBlocks s s4 := h0.trans (SameBlocks.ite (fun _ => s1.chargeCp_blocks _ _ _) fun _ => SameBlocks.refl _)
    exact h4.trans (SameBlocks.ite (fun _ => (s4.redirty_kept _ _).blocks) fun _ => SameBlocks.refl _)
  clear_value s5 inval victim
  refine SameBlocks.ite (fun _ => h0.trans (s1.hostWait_blocks _ _ _ _)) fun _ =>
    SameBlocks.ite (fun _ => h0.trans ((s1.snoops_blocks _ _).trans (State.hostWait_blocks _ _ _ _ _))) fun _ => ?_
  split
  · rename_i v _
    extract_lets s2
    have h2 : SameBlocks s1 s2 := SameBlocks.ite (fun _ => SameBlocks.refl _) fun _ => (s1.count_kept _ _ _ _ _).blocks
    exact h0.trans (h2.trans ((s2.snoops_blocks _ _).trans (State.hostWait_blocks _ _ _ _ _)))
  · exact SameBlocks.ite (fun _ => h0.trans (s1.hostWait_blocks _ _ _ _)) fun _ => h5.trans (State.lineAccess_kept _ _ _ _ _).blocks

/-- A write-back that takes a leaving page back abandons its move (R198). -/
theorem State.abandonOf_blocks (s : State) (obj tp : Nat) :
    SameBlocks s (match s.moveOf obj tp with
      | some m => s.abandonMove m
      | none => s) := by
  split
  · exact s.abandonMove_blocks _
  · exact SameBlocks.refl s

theorem State.leavingWb_blocks (s : State) (r : HostReq) (o : Obj) (obj tp ix la : Nat) : SameBlocks s (s.leavingWb r o obj tp ix la) := by
  have h0 := s.abandonOf_blocks obj tp
  unfold State.leavingWb
  extract_lets d e q s1
  have h1 : SameBlocks s s1 := h0.trans (State.setMap_blocks _ _ _)
  clear_value s1
  refine SameBlocks.ite (fun _ => (s.lineAccess_kept _ _ _ _).blocks) fun _ => SameBlocks.ite (fun _ => s.hostWait_blocks _ _ _ _) fun _ => ?_
  exact (h1.trans (State.chargeCp_blocks _ _ _ _)).trans (State.lineAccess_kept _ _ _ _ _).blocks

/-- A request for a page that is not there (R189): it queues the fetch, and waits in a miss register or in the list. -/
def State.missPage (s : State) (r : HostReq) (w : Win) (tp ix : Nat) : State :=
  let e := s.mapE ix
  let la := 1024 * e.frame + r.dpa / 64 % 1024
  let sl := s.sliceOf la
  if e.st = .fetching && !r.wr && (s.cline? la).isNone then
    let q : Req := ⟨.host r, false, 0, 0, false⟩
    match s.fch.mrs.find? (fun e => e.2.la == la), s.freeMr sl with
    | some _, _ => s.lineAccess la w.obj tp q
    | none, some n =>
      ({ s with fch := { s.fch with mrs := mput s.fch.mrs (sl, n) ⟨la, w.obj, tp, .waitPage, zeroLine, [q], sc1⟩ } }).mrPeak sl
    | none, none => s.hostWait r .page w.obj tp
  else s.hostWait r .page w.obj tp

theorem State.missPage_blocks (s : State) (r : HostReq) (w : Win) (tp ix : Nat) : SameBlocks s (s.missPage r w tp ix) := by
  have hpeak : ∀ (u : State) (sl : Nat), SameBlocks u (u.mrPeak sl) := fun u sl =>
    SameBlocks.of_in (ft := State.mrPeak_foot) (State.mrPeak_in (In.refl _ u) (Foot.le_refl _)) (by decide)
  unfold State.missPage
  extract_lets e la sl q
  refine SameBlocks.ite (fun _ => ?_) fun _ => s.hostWait_blocks _ _ _ _
  split
  · exact (s.lineAccess_kept _ _ _ _).blocks
  · exact SameBlocks.trans rfl (hpeak _ _)
  · exact s.hostWait_blocks _ _ _ _

/-- A request to a page of a window that nothing holds. -/
def State.servePage (s : State) (r : HostReq) (w : Win) (o : Obj) (tp ix : Nat) : State :=
  let e := s.mapE ix
  match (if r.wr && o.mirror then s.mirWait w.obj else none) with
  | some why => (s.when (why == .retx) (·.setf .RETX_FULL true)).hostWait r why w.obj tp
  | none =>
    if e.st = .t1 then s.serveT1 r o w.obj tp ix (1024 * e.frame + r.dpa / 64 % 1024)
    else if e.st = .zero && !r.wr then s.doneRead r 0 false
    else if e.st = .leaving && r.snoopWb then s.leavingWb r o w.obj tp ix (1024 * e.frame + r.dpa / 64 % 1024)
    else (s.needPage w.obj tp (s.ldDom r.link r.ld) false).missPage r w tp ix

theorem State.servePage_blocks (s : State) (r : HostReq) (w : Win) (o : Obj) (tp ix : Nat) : SameBlocks s (s.servePage r w o tp ix) := by
  unfold State.servePage
  extract_lets e
  split
  · have hfull : ∀ b : Bool, SameBlocks s (s.when b (·.setf .RETX_FULL true)) := fun b => by cases b <;> rfl
    exact (hfull _).trans (State.hostWait_blocks _ _ _ _ _)
  · exact SameBlocks.ite (fun _ => s.serveT1_blocks _ _ _ _ _ _) fun _ => SameBlocks.ite (fun _ => (s.doneRead_kept _ _ _).blocks) fun _ =>
      SameBlocks.ite (fun _ => s.leavingWb_blocks _ _ _ _ _ _) fun _ => (s.needPage_blocks _ _ _ _).trans (State.missPage_blocks _ _ _ _ _)

theorem State.unmapped_blocks (s : State) (r : HostReq) : SameBlocks s (s.unmapped r) :=
  SameBlocks.of_in (ft := State.unmapped_foot) (State.unmapped_in (In.refl _ s) (Foot.le_refl _)) (by decide)

theorem State.recordOnce_blocks (s : State) (key cls dom rule : Nat) (items : List (Nat × Nat)) : SameBlocks s (s.recordOnce key cls dom rule items) :=
  SameBlocks.of_in (ft := State.recordOnce_foot) (State.recordOnce_in (In.refl _ s) (Foot.le_refl _)) (by decide)

theorem State.serveHost_blocks (s : State) (r : HostReq) : SameBlocks s (s.serveHost r) := by
  have hread : ∀ b : Bool, ∀ la, SameBlocks s (s.when b (·.sfRead r la)) := fun b la => by
    cases b
    · rfl
    · exact (s.sfRead_kept r la).blocks
  unfold State.serveHost
  refine SameBlocks.ite (fun _ => ?_) fun _ => SameBlocks.ite (fun _ => SameBlocks.ite (fun _ => ?_) fun _ => ?_) fun _ => ?_
  · extract_lets s1
    have h1 : SameBlocks s s1 := SameBlocks.ite (fun _ => s.recordOnce_blocks _ _ _ _ _) fun _ => SameBlocks.refl s
    exact h1.trans (s1.unmapped_blocks r)
  · extract_lets i st
    exact SameBlocks.of_in (ft := State.acceptFence_foot) (State.acceptFence_in (In.refl _ s) (Foot.le_refl _)) (by decide)
  · extract_lets st w
    exact (hread _ _).trans (State.doneRead_kept _ _ _ _).blocks
  · cases hwin : s.window? r.link r.ld (r.dpa / 65536) with
    | none => exact s.unmapped_blocks r
    | some x =>
      obtain ⟨k, w⟩ := x
      refine SameBlocks.ite (fun _ => (s.recordOnce_blocks _ _ _ _ _).trans (State.doneWrite_kept _ _).blocks) fun _ => ?_
      extract_lets tp
      cases hown : s.own? w.obj with
      | none => exact s.unmapped_blocks r
      | some o =>
        refine SameBlocks.ite (b := o.pages ≤ tp) (fun _ => s.unmapped_blocks r) fun _ => ?_
        cases hheld : s.pageHeld w.obj tp (o.mapBase + tp) with
        | some why => exact s.hostWait_blocks _ _ _ _
        | none => exact SameBlocks.ite (fun _ => s.hostWait_blocks _ _ _ _) fun _ => s.servePage_blocks r w o tp (o.mapBase + tp)

/-! ### Requests served again -/

theorem State.creditBack_blocks (s : State) (k : Nat) : SameBlocks s (s.creditBack k) := by
  unfold State.creditBack
  refine SameBlocks.ite (fun _ => SameBlocks.refl s) fun _ => ?_
  extract_lets n mine go k s1
  exact SameBlocks.trans (t := s1) rfl (SameBlocks.each s1 go State.serveHost_blocks)

theorem State.credits_blocks (s : State) : SameBlocks s s.credits :=
  SameBlocks.each s _ fun u k =>
    (SameBlocks.of_in (ft := State.benchFill_foot) (State.benchFill_in (In.refl _ u) (Foot.le_refl _)) (by decide)).trans (State.creditBack_blocks _ k)

theorem State.reserve_blocks (s : State) (w : Wait) : SameBlocks s (s.reserve w) := by
  have hstall : ∀ (u : State) (d : Nat), SameBlocks u (u.stallEnd d) := fun u d =>
    SameBlocks.of_in (ft := State.stallEnd_foot) (State.stallEnd_in (In.refl _ u) (Foot.le_refl _)) (by decide)
  have hbench : ∀ link ld, SameBlocks s (s.benchRegs link ld) := fun link ld =>
    SameBlocks.of_in (ft := State.benchRegs_foot) (State.benchRegs_in (In.refl _ s) (Foot.le_refl _)) (by decide)
  unfold State.reserve
  split
  · split
    · rfl
    · extract_lets s1
      have h1 : SameBlocks s s1 := SameBlocks.ite (fun _ => hbench _ _) fun _ => SameBlocks.refl s
      exact (h1.trans (hstall _ _)).trans (State.serveHost_blocks _ _)
  · exact SameBlocks.refl s

theorem State.rerun_blocks (s : State) (p : Wait → Bool) : SameBlocks s (s.rerun p) := by
  unfold State.rerun
  extract_lets isHost sameLd first q go s1
  have h1 : SameBlocks s (s1.each go State.reserve) := SameBlocks.trans (t := s1) rfl (SameBlocks.each s1 go State.reserve_blocks)
  cases !go.isEmpty
  · exact h1
  · exact h1.trans (State.credits_blocks _)

end Sys2Proof.Machine
end

section
/-! The service firmware's start and the configuration copy (O54: Table 15.5 step 4, R431, R449 to R451). -/

namespace Sys2Proof.Machine

/-! ### What an entry of the copy may not write -/

/-- Fields of start-up that no entry of the copy writes: they are read only. -/
def startFlds : List Fld := [.DDR5_BAD, .NAND_BAD, .SEQ_STATE, .SAFE_START]

/-- Every part and every register field but those. -/
def offStart : Foot := anywhere ^^^ (Fld.DDR5_BAD.foot ||| Fld.NAND_BAD.foot ||| Fld.SEQ_STATE.foot ||| Fld.SAFE_START.foot)

theorem Fld.le_offStart {f : Fld} (h : f ∉ startFlds) : f.foot.le offStart = true := by
  cases f
  case DDR5_BAD | NAND_BAD | SEQ_STATE | SAFE_START => exact absurd h (by decide)
  all_goals rfl

/-- A field that software writes is none of them. -/
def RegDef.sparesStart (r : RegDef) : Bool := r.fields.all fun x => x.acc != .rw || !startFlds.contains x.fld

theorem regTable_sparesStart : regTable.all RegDef.sparesStart = true := by decide +kernel

theorem regAt_mem {ofs i : Nat} {r : RegDef} (h : regAt ofs = some (r, i)) : r ∈ regTable := by
  obtain ⟨r', hmem, hr⟩ := List.exists_of_findSome?_eq_some h
  obtain ⟨j, _, hj⟩ := Option.map_eq_some_iff.1 hr
  cases hj
  exact hmem

theorem RegDef.rw_notMem_startFlds {r : RegDef} (hr : r ∈ regTable) {x : RegFld} (hx : x ∈ r.fields) (hacc : x.acc = .rw) : x.fld ∉ startFlds := by
  have hspare := List.all_eq_true.1 (List.all_eq_true.1 regTable_sparesStart r hr) x hx
  rw [hacc] at hspare
  simpa using hspare

theorem State.applyEntry_start (s : State) (e : Nat × Nat × Nat) : In offStart s (s.applyEntry e) := by
  have hrec : In offStart s (s.record clsWarn 0 451 (item 6 (e.1 % 2 ^ 24))) := State.record_in (In.refl _ s) (by decide)
  unfold State.applyEntry
  split
  · exact hrec
  · split
    · exact In.refl _ s
    · rename_i r i hat
      extract_lets fs fs' s1
      have hrw : ∀ x ∈ fs', x.fld ∉ startFlds := by
        intro x hx
        have hmem : x ∈ fs := by
          obtain hx | hx := List.mem_append.1 hx
          · exact List.mem_of_mem_filter hx
          · exact List.mem_of_mem_filter hx
        obtain ⟨hin, hacc⟩ := List.mem_filter.1 hmem
        simp only [Bool.and_eq_true, beq_iff_eq] at hacc
        exact RegDef.rw_notMem_startFlds (regAt_mem hat) hin hacc.1
      have h1 : In offStart s s1 := State.each_inv (P := In offStart s) fs' (In.refl _ s) fun u x hx hu =>
        State.loadFld_in hu (Fld.le_offStart (hrw x hx)) (by decide)
      split
      · exact State.settleCheck_in h1 (by decide)
      · exact h1

/-- The entry of TICK_PERIOD with every bit of its mask. -/
theorem State.applyEntry_tick (s : State) (v : Nat) : s.applyEntry (0x10, 2 ^ 64 - 1, v) = s.wr .TICK_PERIOD (bits v 0 11) := by
  have hval : ∀ old : Nat, (old &&& (2 ^ 11 - 1 - bits (2 ^ 64 - 1) 0 11)) ||| (bits v 0 11 &&& bits (2 ^ 64 - 1) 0 11) = bits v 0 11 := by
    intro old
    have hm : bits (2 ^ 64 - 1) 0 11 = 2 ^ 11 - 1 := rfl
    rw [hm, Nat.sub_self, Nat.and_zero, Nat.zero_or, Nat.and_two_pow_sub_one_eq_mod]
    exact Nat.mod_mod _ _
  have hgo : s.applyEntry (0x10, 2 ^ 64 - 1, v) =
      s.wr .TICK_PERIOD ((s.entryOld .TICK_PERIOD 0 &&& (2 ^ 11 - 1 - bits (2 ^ 64 - 1) 0 11)) ||| (bits v 0 11 &&& bits (2 ^ 64 - 1) 0 11)) := rfl
  rw [hgo, hval]

/-! ### The tests' results -/

/-- The state in which the firmware chooses the copy. -/
def State.fwTested (s : State) (x : StartIn) : State :=
  let s := (s.wr .DDR5_BAD x.ddr).wr .NAND_BAD x.nand
  let s := s.each x.results fun s e => s.testFail e.1 e.2
  let s := s.each ((x.results.map fun e => (bits e.1 0 8, bits e.1 11 6)).eraseDups) fun s u => s.unitRecord u.1 u.2 0
  { s with boot := { s.boot with fwUp := true } }

theorem State.fwTested_facts {s : State} (hok : regsOk s.regs = true) (x : StartIn) :
    regsOk (s.fwTested x).regs = true ∧ (s.fwTested x).rd .DDR5_BAD = x.ddr % 2 ^ 12 ∧ (s.fwTested x).rd .NAND_BAD = x.nand % 2 ^ 36 ∧
    (s.fwTested x).rd .SEQ_STATE = s.rd .SEQ_STATE ∧ (s.fwTested x).fl .SAFE = s.fl .SAFE ∧ (s.fwTested x).rd .DEVICE_UID = s.rd .DEVICE_UID ∧
    (s.fwTested x).boot = { s.boot with fwUp := true } := by
  generalize hu : (s.wr .DDR5_BAD x.ddr).wr .NAND_BAD x.nand = u
  have hddr1 : (s.wr .DDR5_BAD x.ddr).rd .DDR5_BAD = x.ddr % 2 ^ 12 := by
    rw [State.rd, State.wr, State.rdi_wri _ _ _ (regsOk_mwf hok)]
    exact Fld.store_full rfl 0 _
  have hok1 := regsOk_wr hok .DDR5_BAD x.ddr
  have huok : regsOk u.regs = true := hu ▸ regsOk_wr hok1 _ _
  have hnand : u.rd .NAND_BAD = x.nand % 2 ^ 36 := by
    rw [← hu, State.rd, State.wr, State.rdi_wri _ _ _ (regsOk_mwf hok1)]
    exact Fld.store_full rfl 0 _
  have hddr : u.rd .DDR5_BAD = x.ddr % 2 ^ 12 := by rw [← hu, State.rd_wr_ne _ (by decide), hddr1]
  have hkeep : ∀ f, Fld.DDR5_BAD ≠ f → Fld.NAND_BAD ≠ f → u.rd f = s.rd f := fun f hd hn => by
    rw [← hu, State.rd_wr_ne _ hn, State.rd_wr_ne _ hd]
  have hboot : u.boot = s.boot := by rw [← hu]; rfl
  generalize hv : (u.each x.results fun s e => s.testFail e.1 e.2).each ((x.results.map fun e => (bits e.1 0 8, bits e.1 11 6)).eraseDups)
    (fun s u => s.unitRecord u.1 u.2 0) = v
  have hin : In (State.testFail_foot ||| State.unitRecord_foot) u v := by
    rw [← hv]
    refine State.each_in (State.each_in (In.refl _ u) fun w e hw => ?_) fun w e hw => ?_
    · exact State.testFail_in hw (by decide)
    · exact State.unitRecord_in hw (by decide)
  have hs : s.fwTested x = { v with boot := { v.boot with fwUp := true } } := by rw [State.fwTested, ← hv, ← hu]
  have hvboot : v.boot = s.boot := (hin.parts .boot (by decide)).trans hboot
  rw [hs]
  refine ⟨hin.regsOk huok, ?_, ?_, ?_, ?_, ?_, ?_⟩
  · exact (hin.regs .DDR5_BAD 0 (by decide)).trans hddr
  · exact (hin.regs .NAND_BAD 0 (by decide)).trans hnand
  · exact (hin.regs .SEQ_STATE 0 (by decide)).trans (hkeep _ (by decide) (by decide))
  · exact State.fl_eq ((hin.regs .SAFE 0 (by decide)).trans (hkeep _ (by decide) (by decide)))
  · exact (hin.regs .DEVICE_UID 0 (by decide)).trans (hkeep _ (by decide) (by decide))
  · rw [← hvboot]

/-! ### The copy chosen -/

theorem State.validCopy_congr {s t : State} (hboot : t.boot.floor = s.boot.floor) (huid : t.rd .DEVICE_UID = s.rd .DEVICE_UID) (c : Option Copy) :
    t.validCopy c = s.validCopy c := by
  have hvalid : t.copyValid = s.copyValid := funext fun x => by rw [State.copyValid, State.copyValid, hboot, huid]
  rw [State.validCopy, State.validCopy, hvalid]

theorem State.chooseCopy_none {s : State} (ha : s.validCopy s.boot.copyA = none) (hb : s.validCopy s.boot.copyB = none) : s.chooseCopy = none := by
  rw [State.chooseCopy, ha, hb]

theorem State.chooseCopy_some {s : State} {c : Copy}
    (h : (s.validCopy s.boot.copyA = some c ∧ ∀ b, s.validCopy s.boot.copyB = some b → b.seq ≤ c.seq) ∨
      (s.validCopy s.boot.copyB = some c ∧ ∀ a, s.validCopy s.boot.copyA = some a → a.seq < c.seq)) : s.chooseCopy = some c := by
  rw [State.chooseCopy]
  obtain ⟨ha, hb⟩ | ⟨hb, ha⟩ := h
  · rw [ha]
    cases hcb : s.validCopy s.boot.copyB with
    | none => rfl
    | some b => exact if_neg (Nat.not_lt.2 (hb b hcb))
  · rw [hb]
    cases hca : s.validCopy s.boot.copyA with
    | none => rfl
    | some a => exact if_pos (ha a hca)

/-- A safe start (R450). -/
theorem State.applyCopy_safe {u : State} (hok : regsOk u.regs = true) (h : (if u.fl .SAFE then none else u.chooseCopy) = none) (x : StartIn) :
    regsOk (u.applyCopy x).regs = true ∧ (u.applyCopy x).fl .SAFE_START = true ∧ bit ((u.applyCopy x).rd .ALERT_CAUSE) blkGLB = true ∧
    (u.applyCopy x).boot = u.boot ∧ ∀ f, f ∈ [Fld.DDR5_BAD, .NAND_BAD, .SEQ_STATE] → (u.applyCopy x).rd f = u.rd f := by
  have hcache : In State.cacheStart_foot u (u.cacheStart x.ways []) := State.cacheStart_in (In.refl _ u) (Foot.le_refl _)
  have hgo : u.applyCopy x = (((u.cacheStart x.ways []).setf .SAFE_START true).record clsBoot 0 450 []).alert blkGLB := by
    rw [State.applyCopy, h]
  generalize u.cacheStart x.ways [] = a at hcache hgo
  have haok := hcache.regsOk hok
  have hbok := regsOk_setf haok .SAFE_START true
  have hcok := regsOk_record hbok clsBoot 0 450 []
  have hrest : ∀ f, f ∈ [Fld.DDR5_BAD, .NAND_BAD, .SEQ_STATE] → (u.applyCopy x).rd f = u.rd f := by
    intro f hf
    have halert : (u.applyCopy x).rd f = a.rd f := by
      rw [hgo]
      simp only [List.mem_cons, List.not_mem_nil, or_false] at hf
      obtain rfl | rfl | rfl := hf
      all_goals
        rw [State.rd, State.alert_rdi _ _ (by decide), State.record_rdi _ _ _ _ _ (by decide)]
        exact State.setf_rdi_ne _ (by decide) _ _
    rw [halert]
    simp only [List.mem_cons, List.not_mem_nil, or_false] at hf
    obtain rfl | rfl | rfl := hf
    · exact hcache.regs .DDR5_BAD 0 (by decide)
    · exact hcache.regs .NAND_BAD 0 (by decide)
    · exact hcache.regs .SEQ_STATE 0 (by decide)
  rw [hgo] at hrest ⊢
  refine ⟨regsOk_alert hcok _, ?_, State.alert_sets hcok (by decide), ?_, hrest⟩
  · rw [State.fl_eq (State.alert_rdi _ _ (by decide) _), State.fl_eq (State.record_rdi _ _ _ _ _ (by decide) _), State.fl_setf haok rfl (by decide)]
  · have h1 : ((((a.setf .SAFE_START true).record clsBoot 0 450 []).alert blkGLB)).boot = ((a.setf .SAFE_START true).record clsBoot 0 450 []).boot :=
      (State.alert_in (ft := State.alert_foot) (In.refl _ _) (Foot.le_refl _)).parts .boot (by decide)
    have h2 : ((a.setf .SAFE_START true).record clsBoot 0 450 []).boot = (a.setf .SAFE_START true).boot := (State.record_only _ _ _ _ _).boot_eq (by simp)
    exact h1.trans (h2.trans (hcache.parts .boot (by decide)))

/-- The chosen copy applied (R449, R451). -/
theorem State.applyCopy_chosen {u : State} (hok : regsOk u.regs = true) {c : Copy} (h : (if u.fl .SAFE then none else u.chooseCopy) = some c)
    (x : StartIn) :
    regsOk (u.applyCopy x).regs = true ∧ (u.applyCopy x).fl .SAFE_START = false ∧ (u.applyCopy x).boot = { u.boot with chosen := some c.seq } ∧
    (∀ f, f ∈ [Fld.DDR5_BAD, .NAND_BAD, .SEQ_STATE] → (u.applyCopy x).rd f = u.rd f) ∧
    ∀ v : Nat, c.entries = [(0x10, 2 ^ 64 - 1, v)] → (u.applyCopy x).rd .TICK_PERIOD = min 1560 (max 98 (v % 2 ^ 11)) := by
  generalize hm : (u.measure 4 (Config.cipher 4 (copyWords c))).setf .SAFE_START false = m
  have hmregs : regsOk m.regs = true := hm ▸ regsOk_setf (s := u.measure 4 (Config.cipher 4 (copyWords c))) hok _ _
  have hmsafe : m.fl .SAFE_START = false := by
    rw [← hm]
    exact State.fl_setf (s := u.measure 4 (Config.cipher 4 (copyWords c))) hok rfl (by decide) false
  have hmrd : ∀ f, Fld.SAFE_START ≠ f → m.rd f = u.rd f := fun f hf => by
    rw [← hm]
    exact State.setf_rdi_ne _ hf _ _
  have hmboot : m.boot = u.boot := by rw [← hm]; rfl
  have hent : In offStart m (m.each c.entries State.applyEntry) :=
    State.each_inv (P := In offStart m) c.entries (In.refl _ m) fun w e _ hw => hw.trans (w.applyEntry_start e)
  have hbootE : (m.each c.entries State.applyEntry).boot = m.boot :=
    (State.each_in (k := State.applyEntry_foot) (In.refl _ m) fun w e hw => State.applyEntry_in hw (Foot.le_refl _)).parts .boot (by decide)
  have htick : ∀ v : Nat, c.entries = [(0x10, 2 ^ 64 - 1, v)] → (m.each c.entries State.applyEntry).rd .TICK_PERIOD = min 1560 (max 98 (v % 2 ^ 11)) := by
    intro v hv
    have hone : m.each c.entries State.applyEntry = m.wr .TICK_PERIOD (bits v 0 11) := by
      rw [hv]
      exact m.applyEntry_tick v
    rw [hone]
    exact (State.rdi_wri _ _ _ (regsOk_mwf hmregs)).trans (Fld.store_TICK_PERIOD v)
  generalize he : m.each c.entries State.applyEntry = e at hent hbootE htick
  have hcache : In State.cacheStart_foot e (e.cacheStart x.ways c.disable) := State.cacheStart_in (In.refl _ e) (Foot.le_refl _)
  have hgo : u.applyCopy x = { e.cacheStart x.ways c.disable with boot := { (e.cacheStart x.ways c.disable).boot with chosen := some c.seq } } := by
    rw [State.applyCopy, h]
    simp only [hm, he]
  generalize e.cacheStart x.ways c.disable = w at hcache hgo
  have hwboot : w.boot = u.boot := (hcache.parts .boot (by decide)).trans (hbootE.trans hmboot)
  rw [hgo]
  refine ⟨hcache.regsOk (hent.regsOk hmregs), ?_, by rw [← hwboot], fun f hf => ?_, fun v hv => ?_⟩
  · exact (State.fl_eq ((hcache.regs .SAFE_START 0 (by decide)).trans (hent.regs .SAFE_START 0 (by decide)))).trans hmsafe
  · simp only [List.mem_cons, List.not_mem_nil, or_false] at hf
    obtain rfl | rfl | rfl := hf
    · exact (hcache.regs .DDR5_BAD 0 (by decide)).trans ((hent.regs .DDR5_BAD 0 (by decide)).trans (hmrd _ (by decide)))
    · exact (hcache.regs .NAND_BAD 0 (by decide)).trans ((hent.regs .NAND_BAD 0 (by decide)).trans (hmrd _ (by decide)))
    · exact (hcache.regs .SEQ_STATE 0 (by decide)).trans ((hent.regs .SEQ_STATE 0 (by decide)).trans (hmrd _ (by decide)))
  · exact (hcache.regs .TICK_PERIOD 0 (by decide)).trans (htick v hv)

/-! ### The board phase follows -/

theorem State.boardNext_seq {s : State} (hok : regsOk s.regs = true) (h : s.rd .SEQ_STATE = seqBoard) : s.boardNext.rd .SEQ_STATE ∈ [seqBoard, seqOn] := by
  unfold State.boardNext
  extract_lets l next sync
  split
  · have h1 : ((s.setf .WHISTLE_OUT false).setPwr fun p => { p with syncing := true }).rd .SEQ_STATE = s.rd .SEQ_STATE :=
      (State.rd_congr rfl _).trans (State.setf_rdi_ne s (f := .WHISTLE_OUT) (g := .SEQ_STATE) (by decide) false 0)
    rw [h1, h]
    decide
  · cases next with
    | some n =>
      have h1 : (s.stepUp l n).rd .SEQ_STATE = s.rd .SEQ_STATE :=
        (State.stepUp_in (ft := State.stepUp_foot) (In.refl _ s) (Foot.le_refl _)).regs .SEQ_STATE 0 (by decide)
      rw [h1, h]
      decide
    | none =>
      rw [State.rd_wr hok rfl (show seqOn < 2 ^ 3 by decide)]
      decide

theorem State.boardPhase_seq {s : State} (hok : regsOk s.regs = true) : s.boardPhase.rd .SEQ_STATE ∈ [seqBoard, seqOn] := by
  have hok1 := regsOk_wr hok .SEQ_STATE seqBoard
  have h1 : (s.wr .SEQ_STATE seqBoard).rd .SEQ_STATE = seqBoard := State.rd_wr hok rfl (by decide)
  unfold State.boardPhase
  extract_lets t
  split
  · exact State.boardNext_seq hok1 h1
  · unfold State.boardCheck
    split
    · exact State.boardNext_seq hok1 h1
    · rw [h1]
      decide

/-- What follows the copy: the loaded fields' effects, and the board phase when the firmware was awaited. -/
def State.fwEnd (s : State) : State :=
  let s := { s.afterLoad with fgv := { s.afterLoad.fgv with first := true } }
  if s.rd .SEQ_STATE = seqAwait then s.boardPhase else s

theorem State.fwEnd_facts {s : State} (hok : regsOk s.regs = true) (h2 : 2 ≤ s.rd .SEQ_STATE) (h4 : s.rd .SEQ_STATE ≤ 4) :
    s.fwEnd.boot = s.boot ∧ s.fwEnd.rd .SEQ_STATE ∈ [seqBoard, seqOn] ∧
    ∀ f, f ∈ [Fld.DDR5_BAD, .NAND_BAD, .SAFE_START, .ALERT_CAUSE, .TICK_PERIOD] → s.fwEnd.rd f = s.rd f := by
  have hload : In State.afterLoad_foot s s.afterLoad := State.afterLoad_in (In.refl _ s) (Foot.le_refl _)
  generalize hv : ({ s.afterLoad with fgv := { s.afterLoad.fgv with first := true } } : State) = v
  have hvregs : v.regs = s.afterLoad.regs := by rw [← hv]
  have hvboot : v.boot = s.afterLoad.boot := by rw [← hv]
  have hs : s.fwEnd = if v.rd .SEQ_STATE = seqAwait then v.boardPhase else v := by rw [State.fwEnd, hv]
  have hseq : v.rd .SEQ_STATE = s.rd .SEQ_STATE := (State.rd_congr hvregs _).trans (hload.regs .SEQ_STATE 0 (by decide))
  have hphase : In State.boardPhase_foot v v.boardPhase := State.boardPhase_in (In.refl _ v) (Foot.le_refl _)
  have hlast : In State.boardPhase_foot v s.fwEnd := by
    rw [hs]
    split
    · exact hphase
    · exact In.refl _ v
  refine ⟨(hlast.parts .boot (by decide)).trans (hvboot.trans (hload.parts .boot (by decide))), ?_, fun f hf => ?_⟩
  · rw [hs]
    split
    · exact State.boardPhase_seq (hvregs ▸ hload.regsOk hok)
    · rename_i hne
      rw [hseq] at hne ⊢
      have h2' : s.rd .SEQ_STATE ≠ 2 := hne
      have : s.rd .SEQ_STATE = 3 ∨ s.rd .SEQ_STATE = 4 := by omega
      simpa [seqBoard, seqOn] using this
  · simp only [List.mem_cons, List.not_mem_nil, or_false] at hf
    obtain rfl | rfl | rfl | rfl | rfl := hf
    · exact (hlast.regs .DDR5_BAD 0 (by decide)).trans ((State.rd_congr hvregs _).trans (hload.regs .DDR5_BAD 0 (by decide)))
    · exact (hlast.regs .NAND_BAD 0 (by decide)).trans ((State.rd_congr hvregs _).trans (hload.regs .NAND_BAD 0 (by decide)))
    · exact (hlast.regs .SAFE_START 0 (by decide)).trans ((State.rd_congr hvregs _).trans (hload.regs .SAFE_START 0 (by decide)))
    · exact (hlast.regs .ALERT_CAUSE 0 (by decide)).trans ((State.rd_congr hvregs _).trans (hload.regs .ALERT_CAUSE 0 (by decide)))
    · exact (hlast.regs .TICK_PERIOD 0 (by decide)).trans ((State.rd_congr hvregs _).trans (hload.regs .TICK_PERIOD 0 (by decide)))

theorem exec_serviceFirmwareStart {s : State} (x : StartIn) (h2 : 2 ≤ s.rd .SEQ_STATE) (h4 : s.rd .SEQ_STATE ≤ 4) (hfw : s.boot.fwUp = false)
    (hrec : s.sec.recovery = false) (hmeas : s.sec.meas ≠ []) (hrun : s.draining = false) :
    exec (.serviceFirmwareStart x) s = .next ((s.fwTested x).applyCopy x).fwEnd := by
  have hup : s.fabricUp = true := by simp [State.fabricUp, h2, h4]
  have hmeas' : s.sec.meas.isEmpty = false := by simpa using hmeas
  rw [exec, execServiceFirmwareStart, if_neg (by simp [hup, hfw, hrec, hmeas', hrun])]
  rfl

end Sys2Proof.Machine
end

section
/-! Pn_RDY, its timeout and the map blocks (O54: R453, R454). -/

namespace Sys2Proof.Machine

/-! ### The conditions of R453 -/

theorem State.rdyUnmet_none {s : State} {p : Nat} (hcopy : s.boot.chosen ≠ none) (htrain : s.fl .TRAIN_DONE = true) (hmedia : s.fl .MEDIA_READY = true)
    (hpool : 262144 ≤ s.rd .POOL_FRAMES) (hkeys : s.boot.keysRead = true) (hkat : s.boot.kats = true) (hmeta : s.boot.metaDone = true)
    (hperst : bit s.prt.perst p = false) (hoff : s.fli .PORT_OFFLINE p = false) (hslices : 8 ≤ popCount (s.rd .SLICE_EN) 16)
    (hrec : s.sec.recovery = false) (hfatal : s.fl .FATAL = false) (hreh : s.rd .PATH ≠ 0 ∨ s.fgv.rehearsal = false ∨ s.fl .RATE_VALID = true) :
    s.rdyUnmet p = none := by
  have hcopy' : s.boot.chosen.isSome = true := Option.isSome_iff_ne_none.2 hcopy
  have hlast : (s.rd .PATH != 0 || !s.fgv.rehearsal || s.fl .RATE_VALID) = true := by
    simp only [Bool.or_eq_true, bne_iff_ne, ne_eq, Bool.not_eq_true']
    tauto
  unfold State.rdyUnmet
  simp only [hcopy', htrain, hmedia, hpool, hkeys, hkat, hmeta, hperst, hoff, hslices, hrec, hfatal, hlast, decide_true, Bool.true_or,
    Bool.not_false, Bool.and_self, List.find?_cons, Bool.not_true, List.find?_nil, Option.map_none]

theorem State.rdyUnmet_some {s : State} {p : Nat}
    (h : s.boot.chosen = none ∨ s.fl .TRAIN_DONE = false ∨ s.fl .MEDIA_READY = false ∨ s.rd .POOL_FRAMES < 262144 ∨
      s.boot.kats = false ∨ s.boot.metaDone = false ∨ s.fli .PORT_OFFLINE p = true ∨ popCount (s.rd .SLICE_EN) 16 < 8 ∨
      s.sec.recovery = true ∨ s.fl .FATAL = true) : ∃ n, s.rdyUnmet p = some n := by
  refine Option.isSome_iff_exists.1 ?_
  unfold State.rdyUnmet
  rw [Option.isSome_map, List.find?_isSome]
  obtain h | h | h | h | h | h | h | h | h | h := h
  · exact ⟨_, .head _, by simp [h]⟩
  · exact ⟨_, .tail _ (.head _), by simp [h]⟩
  · exact ⟨_, .tail _ (.tail _ (.head _)), by simp [h]⟩
  · exact ⟨_, .tail _ (.tail _ (.tail _ (.head _))), by simp [Nat.not_le.2 h]⟩
  · exact ⟨(s.boot.kats, 6), by simp, by simp [h]⟩
  · exact ⟨(s.boot.metaDone, 7), by simp, by simp [h]⟩
  · exact ⟨(!s.fli .PORT_OFFLINE p, 9), by simp, by simp [h]⟩
  · exact ⟨(decide (8 ≤ popCount (s.rd .SLICE_EN) 16), 11), by simp, by simp [Nat.not_le.2 h]⟩
  · exact ⟨(!s.sec.recovery && !s.fl .FATAL, 12), by simp, by simp [h]⟩
  · exact ⟨(!s.sec.recovery && !s.fl .FATAL, 12), by simp, by simp [h]⟩

/-! ### The rise -/

theorem State.setRdy_true {s : State} (hok : regsOk s.regs = true) (p : Nat) :
    (s.setRdy p true).prt = { s.prt with rdy := setBit s.prt.rdy p true } ∧ (s.setRdy p true).pwr = s.pwr ∧ (s.setRdy p true).boot = s.boot ∧
    (s.setRdy p true).fli .MEM_ACTIVE (2 * p) = true ∧ (s.setRdy p true).fli .MEM_ACTIVE (2 * p + 1) = true := by
  generalize hu : ({ s with prt := { s.prt with rdy := setBit s.prt.rdy p true } } : State).when (bit s.prt.rdy p != true)
    (·.send (.pin (rdyPin p) true)) = u
  have hs : s.setRdy p true = (u.setfi .MEM_ACTIVE (2 * p) true).setfi .MEM_ACTIVE (2 * p + 1) true := by rw [State.setRdy, hu]
  have hparts : u.prt = { s.prt with rdy := setBit s.prt.rdy p true } ∧ u.pwr = s.pwr ∧ u.boot = s.boot ∧ u.regs = s.regs := by
    rw [← hu]
    cases bit s.prt.rdy p != true <;> exact ⟨rfl, rfl, rfl, rfl⟩
  obtain ⟨hprt, hpwr, hboot, hregs⟩ := hparts
  have huok : regsOk u.regs = true := hregs ▸ hok
  have h1 := regsOk_setfi huok .MEM_ACTIVE (2 * p) true
  rw [hs]
  refine ⟨hprt, hpwr, hboot, ?_, State.fli_setfi h1 rfl (by decide) _ _⟩
  have hne : ((u.setfi .MEM_ACTIVE (2 * p) true).setfi .MEM_ACTIVE (2 * p + 1) true).rdi .MEM_ACTIVE (2 * p) =
      (u.setfi .MEM_ACTIVE (2 * p) true).rdi .MEM_ACTIVE (2 * p) := State.rdi_wri_ne _ (.inr (by omega))
  rw [State.fli_eq hne, State.fli_setfi huok rfl (by decide)]

theorem State.firstRdy_facts {s : State} (hok : regsOk s.regs = true) :
    regsOk s.firstRdy.regs = true ∧ s.firstRdy.prt = s.prt ∧ s.firstRdy.pwr.rdyUp = true ∧
    (s.pwr.rdyUp = false → s.firstRdy.boot.floor = s.boot.chosen.getD s.boot.floor ∧
      s.firstRdy.boot.consumed = if s.rd .PATH = 1 then s.sealSeq else s.boot.consumed) := by
  cases hup : s.pwr.rdyUp with
  | true =>
    rw [State.firstRdy, if_pos hup]
    exact ⟨hok, rfl, hup, fun h => Bool.noConfusion h⟩
  | false =>
    generalize hb : ({ s.boot with floor := s.boot.chosen.getD s.boot.floor, consumed := if s.rd .PATH = 1 then s.sealSeq else s.boot.consumed } : BootS) = b
    generalize hv : (State.refillRegs { s with boot := b, pwr := { s.pwr with rdyUp := true }, tpe := { s.tpe with refill := ckptOrder s.tpe.ckpt } }) = v
    have hin : In State.refillRegs_foot { s with boot := b, pwr := { s.pwr with rdyUp := true }, tpe := { s.tpe with refill := ckptOrder s.tpe.ckpt } } v :=
      hv ▸ State.refillRegs_in (In.refl _ _) (Foot.le_refl _)
    have hs : s.firstRdy = v.when v.tpe.unloaded.isEmpty (·.record clsBoot 0 454 []) := by
      rw [State.firstRdy, if_neg (by simp [hup]), ← hv, ← hb]
      rfl
    have hvok : regsOk v.regs = true := hin.regsOk hok
    have hlast : regsOk s.firstRdy.regs = true ∧ s.firstRdy.prt = v.prt ∧ s.firstRdy.pwr = v.pwr ∧ s.firstRdy.boot = v.boot := by
      rw [hs]
      cases v.tpe.unloaded.isEmpty
      · exact ⟨hvok, rfl, rfl, rfl⟩
      · have honly := v.record_only clsBoot 0 454 []
        exact ⟨regsOk_record hvok _ _ _ _, honly.prt_eq (by simp), honly.pwr_eq (by simp), honly.boot_eq (by simp)⟩
    obtain ⟨hok', hprt, hpwr, hboot⟩ := hlast
    have hvprt : v.prt = s.prt := hin.parts .prt (by decide)
    have hvpwr : v.pwr = { s.pwr with rdyUp := true } := hin.parts .pwr (by decide)
    have hvboot : v.boot = b := hin.parts .boot (by decide)
    refine ⟨hok', hprt.trans hvprt, by rw [hpwr, hvpwr], fun _ => ?_⟩
    rw [hboot, hvboot, ← hb]
    exact ⟨rfl, rfl⟩

theorem exec_pnRdyRise {s : State} {p : Nat} (hok : regsOk s.regs = true) (hp : p < 4) (hrun : s.draining = false) (hon : s.rd .SEQ_STATE = seqOn)
    (hlow : bit s.prt.rdy p = false) (hmet : s.rdyUnmet p = none) (hcopy : s.boot.chosen ≠ none) :
    ∃ t, exec (.pnRdyRise p) s = .next t ∧ bit t.prt.rdy p = true ∧ (∀ q, q ≠ p → bit t.prt.rdy q = bit s.prt.rdy q) ∧
      t.fli .MEM_ACTIVE (2 * p) = true ∧ t.fli .MEM_ACTIVE (2 * p + 1) = true ∧ t.pwr.rdyUp = true ∧
      (s.pwr.rdyUp = false → t.boot.floor = s.boot.chosen.getD 0 ∧
        t.boot.consumed = if s.rd .PATH = 1 then s.sealSeq else s.boot.consumed) := by
  obtain ⟨hok1, hprt1, hup1, hboot1⟩ := State.firstRdy_facts hok
  obtain ⟨hprt, hpwr, hboot, h0, h1⟩ := State.setRdy_true hok1 p
  have hgo : execPnRdyRise p s = .next (s.firstRdy.setRdy p true) := by
    rw [execPnRdyRise, if_neg (by simp [hp, hrun, hon, hlow, hmet])]
  obtain ⟨n, hn⟩ := Option.ne_none_iff_exists'.1 hcopy
  refine ⟨_, hgo, ?_, fun q hq => ?_, h0, h1, by rw [hpwr, hup1], fun hup => ?_⟩
  · rw [hprt, bit_setBit_eq, if_pos rfl]
  · rw [hprt, hprt1]
    exact bit_setBit_of_ne _ _ hq
  · obtain ⟨hfloor, hcons⟩ := hboot1 hup
    rw [hboot, hfloor, hcons, hn]
    exact ⟨rfl, rfl⟩

/-! ### The timeout -/

theorem exec_pnRdyTimeout {s : State} {p : Nat} (hp : p < 4) (hperst : bit s.prt.perst p = false) (hlow : bit s.prt.rdy p = false)
    (honce : bit s.prt.timedOut p = false) {n : Nat} (hn : s.rdyUnmet p = some n) :
    ∃ t, exec (.pnRdyTimeout p) s = .next t ∧ t.prt = { s.prt with timedOut := setBit s.prt.timedOut p true } ∧
      exec (.pnRdyTimeout p) t = .next t := by
  let u : State := { s with prt := { s.prt with timedOut := setBit s.prt.timedOut p true } }
  have hgo : execPnRdyTimeout p s = .next (u.record clsError 0 453 (item 3 (2 * p) ++ item 7 n)) := by
    rw [execPnRdyTimeout, if_neg (by simp [Nat.not_le.2 hp, hperst, hlow, honce]), hn]
  have hprt : (u.record clsError 0 453 (item 3 (2 * p) ++ item 7 n)).prt = u.prt := (u.record_only _ _ _ _).prt_eq (by simp)
  refine ⟨_, hgo, hprt, if_pos ?_⟩
  have hbit : bit (u.record clsError 0 453 (item 3 (2 * p) ++ item 7 n)).prt.timedOut p = true := by
    rw [hprt]
    exact (bit_setBit_eq _ _ _ _).trans (if_pos rfl)
  rw [hbit, Bool.or_true]

/-! ### Map blocks -/

theorem exec_mapBlockLoaded {s : State} {blk : Nat} (hup : s.pwr.rdyUp = true) (hrun : s.draining = false) (hin : blk ∈ s.tpe.unloaded) :
    ∃ t, exec (.mapBlockLoaded blk) s = .next t ∧ t.tpe.unloaded = s.tpe.unloaded.filter (· != blk) := by
  generalize hu : ({ s with tpe := { s.tpe with unloaded := without s.tpe.unloaded blk } } : State) = u
  have hublocks : u.tpe.unloaded = s.tpe.unloaded.filter (· != blk) := by rw [← hu]; rfl
  have hgo : execMapBlockLoaded blk s = .next ((u.when u.tpe.unloaded.isEmpty (·.record clsBoot 0 454 [])).rerun fun w => w.why == .mapBlk) := by
    rw [execMapBlockLoaded, if_neg (by simp [hup, hrun, hin]), ← hu]
  have hwhen : SameBlocks u (u.when u.tpe.unloaded.isEmpty (·.record clsBoot 0 454 [])) := by
    cases u.tpe.unloaded.isEmpty
    · rfl
    · exact congrArg (·.unloaded) ((u.record_only clsBoot 0 454 []).tpe_eq (by simp))
  exact ⟨_, hgo, Eq.trans (hwhen.trans (State.rerun_blocks _ _)) hublocks⟩

/-! ### The statement -/

theorem exec_serviceFirmwareStart_facts {s : State} (x : StartIn) (hok : regsOk s.regs = true) (h2 : 2 ≤ s.rd .SEQ_STATE) (h4 : s.rd .SEQ_STATE ≤ 4) :
    (((s.fwTested x).applyCopy x).fwEnd).boot.fwUp = true ∧ (((s.fwTested x).applyCopy x).fwEnd).rd .DDR5_BAD = x.ddr % 2 ^ 12 ∧
    (((s.fwTested x).applyCopy x).fwEnd).rd .NAND_BAD = x.nand % 2 ^ 36 ∧
    (((s.fwTested x).applyCopy x).fwEnd).rd .SEQ_STATE ∈ [seqBoard, seqOn] ∧
    (s.fl .SAFE = true ∨ (s.validCopy s.boot.copyA = none ∧ s.validCopy s.boot.copyB = none) →
      (((s.fwTested x).applyCopy x).fwEnd).fl .SAFE_START = true ∧ bit ((((s.fwTested x).applyCopy x).fwEnd).rd .ALERT_CAUSE) blkGLB = true ∧
      (((s.fwTested x).applyCopy x).fwEnd).boot.chosen = s.boot.chosen) ∧
    ∀ c : Copy, s.fl .SAFE = false →
      (s.validCopy s.boot.copyA = some c ∧ (∀ b, s.validCopy s.boot.copyB = some b → b.seq ≤ c.seq)) ∨
        (s.validCopy s.boot.copyB = some c ∧ (∀ a, s.validCopy s.boot.copyA = some a → a.seq < c.seq)) →
      (((s.fwTested x).applyCopy x).fwEnd).fl .SAFE_START = false ∧ (((s.fwTested x).applyCopy x).fwEnd).boot.chosen = some c.seq ∧
      ∀ v : Nat, c.entries = [(0x10, 2 ^ 64 - 1, v)] → (((s.fwTested x).applyCopy x).fwEnd).rd .TICK_PERIOD = min 1560 (max 98 (v % 2 ^ 11)) := by
  obtain ⟨huok, hddr, hnand, hseq, hsafe, huid, hboot⟩ := State.fwTested_facts hok x
  generalize s.fwTested x = u at *
  have hfloor : u.boot.floor = s.boot.floor := by rw [hboot]
  have hvalid := State.validCopy_congr hfloor huid
  have hA : u.validCopy u.boot.copyA = s.validCopy s.boot.copyA := by rw [hvalid, hboot]
  have hB : u.validCopy u.boot.copyB = s.validCopy s.boot.copyB := by rw [hvalid, hboot]
  have hcommon : regsOk (u.applyCopy x).regs = true → (u.applyCopy x).boot.fwUp = u.boot.fwUp →
      (∀ f, f ∈ [Fld.DDR5_BAD, .NAND_BAD, .SEQ_STATE] → (u.applyCopy x).rd f = u.rd f) →
      (u.applyCopy x).fwEnd.boot.fwUp = true ∧ (u.applyCopy x).fwEnd.rd .DDR5_BAD = x.ddr % 2 ^ 12 ∧
      (u.applyCopy x).fwEnd.rd .NAND_BAD = x.nand % 2 ^ 36 ∧ (u.applyCopy x).fwEnd.rd .SEQ_STATE ∈ [seqBoard, seqOn] ∧
      (u.applyCopy x).fwEnd.boot = (u.applyCopy x).boot ∧
      ∀ f, f ∈ [Fld.DDR5_BAD, .NAND_BAD, .SAFE_START, .ALERT_CAUSE, .TICK_PERIOD] → (u.applyCopy x).fwEnd.rd f = (u.applyCopy x).rd f := by
    intro haok hafw harest
    have haseq : (u.applyCopy x).rd .SEQ_STATE = s.rd .SEQ_STATE := (harest .SEQ_STATE (by decide)).trans hseq
    obtain ⟨heboot, heseq, herest⟩ := State.fwEnd_facts haok (haseq ▸ h2) (haseq ▸ h4)
    refine ⟨by rw [heboot, hafw, hboot], ?_, ?_, heseq, heboot, herest⟩
    · rw [herest _ (by decide), harest _ (by decide), hddr]
    · rw [herest _ (by decide), harest _ (by decide), hnand]
  cases hc : (if u.fl .SAFE then none else u.chooseCopy) with
  | none =>
    obtain ⟨haok, hasafe, haalert, haboot, harest⟩ := State.applyCopy_safe huok hc x
    obtain ⟨hfw, hd, hn, hs, hb, hr⟩ := hcommon haok (by rw [haboot]) harest
    refine ⟨hfw, hd, hn, hs, fun _ => ⟨?_, ?_, ?_⟩, fun c hns hch => ?_⟩
    · rw [State.fl_eq (hr _ (by decide)), hasafe]
    · rw [hr _ (by decide), haalert]
    · rw [hb, haboot, hboot]
    · rw [hsafe, hns, if_neg Bool.false_ne_true, State.chooseCopy_some (c := c) (by rw [hA, hB]; exact hch)] at hc
      cases hc
  | some c =>
    obtain ⟨haok, hasafe, haboot, harest, hatick⟩ := State.applyCopy_chosen huok hc x
    obtain ⟨hfw, hd, hn, hs, hb, hr⟩ := hcommon haok (by rw [haboot]) harest
    refine ⟨hfw, hd, hn, hs, fun hno => ?_, fun c' hns hch => ?_⟩
    · obtain hy | ⟨ha, hb'⟩ := hno
      · rw [hsafe, hy] at hc
        cases hc
      · rw [State.chooseCopy_none (hA.trans ha) (hB.trans hb'), ite_self] at hc
        cases hc
    · have hsame : c' = c := by
        rw [hsafe, hns, if_neg Bool.false_ne_true, State.chooseCopy_some (c := c') (by rw [hA, hB]; exact hch)] at hc
        exact Option.some.inj hc
      subst hsame
      refine ⟨?_, by rw [hb, haboot], fun v hv => ?_⟩
      · rw [State.fl_eq (hr _ (by decide)), hasafe]
      · rw [hr _ (by decide), hatick v hv]

/-- Settles O54: no entry of the copy writes a field of start-up; the rise needs every condition of R453, the timeout one that fails; requests
that go on change no map block's state. -/
theorem startUps : Obligations.StartUps := by
  unfold Obligations.StartUps
  refine ⟨?firmware, ?rise, ?timeout, ?block⟩
  case firmware =>
    exact fun s x hinv h2 h4 hfw hrec hmeas hrun =>
      ⟨_, exec_serviceFirmwareStart x h2 h4 hfw hrec hmeas hrun, exec_serviceFirmwareStart_facts x hinv.1 h2 h4⟩
  case rise =>
    exact fun s p hinv hp hrun hon hlow hcopy htrain hmedia hpool hkeys hkat hmeta hperst hoff hslices hrec hfatal hreh =>
      exec_pnRdyRise hinv.1 hp hrun hon hlow
        (State.rdyUnmet_none hcopy htrain hmedia hpool hkeys hkat hmeta hperst hoff hslices hrec hfatal hreh) hcopy
  case timeout =>
    intro s p _ hp hperst hlow honce hunmet
    obtain ⟨n, hn⟩ := State.rdyUnmet_some hunmet
    exact exec_pnRdyTimeout hp hperst hlow honce hn
  case block => exact fun s blk _ hup hrun hin => exec_mapBlockLoaded hup hrun hin

end Sys2Proof.Machine
end

section
/-! The recovery ladder's last rungs and its deadline (12_data_integrity.md R302 to R304): O36. -/

namespace Sys2Proof.Machine

/-! ### What a rung leaves -/

/-- From s to t line la takes the value d; no other line, no miss register and no ladder changes. -/
structure LineFixed (s t : State) (la : Nat) (d : DLine) : Prop where
  line : t.dline la = d
  others : ∀ x, x ≠ la → t.dline x = s.dline x
  mrs : t.fch.mrs = s.fch.mrs
  ladders : t.int.ladders = s.int.ladders
  mir : t.mir = s.mir

theorem State.askVerify_facts (s : State) (la : Nat) :
    (s.askVerify la).regs = s.regs ∧ (s.askVerify la).dram = s.dram ∧ (s.askVerify la).fch = s.fch ∧
      (s.askVerify la).int.ladders = s.int.ladders ∧ (s.askVerify la).mir = s.mir := by
  rw [State.askVerify]
  dsimp only
  split
  · exact ⟨rfl, rfl, rfl, rfl, rfl⟩
  · exact ⟨rfl, rfl, rfl, rfl, rfl⟩

/-- A line stored, whatever else of DRAM's requests and verify reads follows. -/
theorem LineFixed.of_stored {s u t : State} {la : Nat} {d : DLine} (hm : mwf s.dram = true) (hu : u.dram = s.dram)
    (hd : t.dram = (u.setDline la d).dram) (hf : t.fch.mrs = s.fch.mrs) (hl : t.int.ladders = s.int.ladders) (hmir : t.mir = s.mir) :
    LineFixed s t la d := by
  have hline (x : Nat) : t.dline x = (u.setDline la d).dline x := by rw [State.dline, hd, State.dline]
  refine ⟨(hline la).trans (State.dline_setDline la d (by rw [hu]; exact hm)), fun x hx => ?_, hf, hl, hmir⟩
  rw [hline, State.dline_setDline_ne u d hx.symm, State.dline, hu, State.dline]

/-- A rung that gave the line: it is counted and written back (R302). -/
theorem State.count_fixLine {s : State} (hm : mwf s.dram = true) (f : Fld) (c b la : Nat) (d : DLine) :
    LineFixed s ((s.count f c .INT_CH_FLAGS_CNT_OVF c b).fixLine la d) la d ∧
      ((s.count f c .INT_CH_FLAGS_CNT_OVF c b).fixLine la d).regs = (s.count f c .INT_CH_FLAGS_CNT_OVF c b).regs := by
  have hcount := s.count_only f c .INT_CH_FLAGS_CNT_OVF c b
  generalize s.count f c .INT_CH_FLAGS_CNT_OVF c b = u at hcount
  obtain ⟨hregs, hdram, hfch, hlad, hmir⟩ := (u.setDline la d).askVerify_facts la
  have hfch' : u.fch = s.fch := hcount.parts .fch (by decide)
  have hint' : u.int = s.int := hcount.parts .int (by decide)
  refine ⟨LineFixed.of_stored hm (hcount.parts .dram (by decide)) hdram ?_ ?_ (hmir.trans (hcount.parts .mir (by decide))), hregs⟩
  · rw [← hfch']
    exact congrArg FchS.mrs hfch
  · rw [← hint']
    exact hlad

theorem State.chOf_writeDram (s : State) (la : Nat) (d : DLine) (tag : DTag) (cls : Nat) : (s.writeDram la d tag cls).chOf la = s.chOf la :=
  congrArg Loc.ch (State.locate_congr (s := s) rfl rfl rfl la)

/-- A ladder without a further rung stores its line poisoned and counts it (R302, R304). -/
theorem State.ladderFail_facts {s : State} (hok : regsOk s.regs = true) (hm : mwf s.dram = true) (la rung dom : Nat) :
    LineFixed s (s.ladderFail la rung dom) la ⟨(s.dline la).data, .poison⟩ ∧
      (s.ladderFail la rung dom).rdi .POISON_CNT (s.chOf la) = min (2 ^ 32 - 1) (s.rdi .POISON_CNT (s.chOf la) + 1) ∧
      (s.ladderFail la rung dom).rdi .STRIPE_LOSS 0 = s.rdi .STRIPE_LOSS 0 := by
  obtain ⟨u, hu⟩ : ∃ u, u = s.writeDram la ⟨(s.dline la).data, .poison⟩ .fch sc3 := ⟨_, rfl⟩
  have hch : u.chOf la = s.chOf la := by rw [hu, State.chOf_writeDram]
  have huok : regsOk u.regs = true := by rw [hu]; exact hok
  have hcount := State.count_rdi huok (f := .POISON_CNT) (ovf := .INT_CH_FLAGS_CNT_OVF) rfl (by decide) (by decide) (s.chOf la) (s.chOf la) 5
  have honly := u.count_only .POISON_CNT (s.chOf la) .INT_CH_FLAGS_CNT_OVF (s.chOf la) 5
  obtain ⟨items, hfail⟩ : ∃ items, s.ladderFail la rung dom =
      (((u.count .POISON_CNT (s.chOf la) .INT_CH_FLAGS_CNT_OVF (s.chOf la) 5).record clsError dom 304 items).mediaEvent 0 la) := by
    rw [State.ladderFail, ← hu, ← hch]
    exact ⟨_, rfl⟩
  generalize u.count .POISON_CNT (s.chOf la) .INT_CH_FLAGS_CNT_OVF (s.chOf la) 5 = v at hcount honly hfail
  have hin : In (State.record_foot ||| State.mediaEvent_foot) v (s.ladderFail la rung dom) := by
    rw [hfail]
    exact State.mediaEvent_in (State.record_in (In.refl _ v) (by decide)) (by decide)
  have hfch : (s.ladderFail la rung dom).fch = u.fch := (hin.parts .fch (by decide)).trans (honly.parts .fch (by decide))
  have hint : (s.ladderFail la rung dom).int = u.int := (hin.parts .int (by decide)).trans (honly.parts .int (by decide))
  have hmir : (s.ladderFail la rung dom).mir = u.mir := (hin.parts .mir (by decide)).trans (honly.parts .mir (by decide))
  have hdram : (s.ladderFail la rung dom).dram = u.dram := (hin.parts .dram (by decide)).trans (honly.parts .dram (by decide))
  subst hu
  refine ⟨LineFixed.of_stored hm (u := s) rfl hdram (by rw [hfch]; rfl) (by rw [hint]; rfl) (by rw [hmir]; rfl), ?_, ?_⟩
  · exact (hin.regs .POISON_CNT _ (by decide)).trans hcount
  · exact (hin.regs .STRIPE_LOSS 0 (by decide)).trans (honly.regs .STRIPE_LOSS 0 (by simp [dbkRegs]))

/-- The one ladder ends while no miss register fills. -/
theorem State.ladderEnd_last {s : State} {la : Nat} {l : Ladder} (hmrs : s.fch.mrs = []) (hl : s.int.ladders = [l]) (hla : l.la = la) :
    s.ladderEnd la = { s with int := { s.int with ladders := [] } } := by
  simp [State.ladderEnd, State.fillMr, hmrs, hl, hla]

/-- A rung of the last ladder, then the ladder's end. -/
theorem LineFixed.ends {s t : State} {la : Nat} {d : DLine} {l : Ladder} (h : LineFixed s t la d) (hmrs : s.fch.mrs = [])
    (hl : s.int.ladders = [l]) (hla : l.la = la) :
    (t.ladderEnd la).dline la = d ∧ (t.ladderEnd la).int.ladders = [] ∧ (∀ x, x ≠ la → (t.ladderEnd la).dline x = s.dline x) ∧
      (t.ladderEnd la).regs = t.regs ∧ (t.ladderEnd la).mir = s.mir := by
  rw [State.ladderEnd_last (h.mrs.trans hmrs) (h.ladders.trans hl) hla]
  exact ⟨h.line, rfl, h.others, rfl, h.mir⟩

/-! ### The deadline's answer (R304) -/

theorem State.ladderOf_one {s : State} {la : Nat} {l : Ladder} (hl : s.int.ladders = [l]) (hla : l.la = la) :
    s.ladderOf la = some l := by
  simp [State.ladderOf, hl, hla]

/-- A load of a link that can be answered is answered with poison. -/
theorem State.doneRead_poison {s : State} {r : HostReq} (h : s.mute r.link = false) (data : Line) :
    (∃ v, (s.doneRead r data true).out = s.out ++ [Msg.cxlData r.link r.ld r.tag data true v]) ∧
      (∀ p, p ∉ [Part.out, .dbk] → p.same s (s.doneRead r data true)) := by
  obtain ⟨u, hu⟩ : ∃ u, u = (s.wri .DEVLOAD (ldIx r.link r.ld) (s.devLoad r.link r.ld)).count .POISON_RD_CNT (ldIx r.link r.ld)
      .PRT_LD_FLAGS_CNT_OVF (ldIx r.link r.ld) 0 := ⟨_, rfl⟩
  have honly : Only [.dbk] [(.DEVLOAD, ldIx r.link r.ld), (.POISON_RD_CNT, ldIx r.link r.ld), (.PRT_LD_FLAGS_CNT_OVF, ldIx r.link r.ld),
      (.HEAD_SEQ, 0), (.HEAD_OFS, 0), (.TAIL_SEQ, 0), (.TAIL_OFS, 0), (.LOST, 0), (.LOST_CNT, 0), (.DBK_FLAGS_CNT_OVF, 0), (.FLUSH_BUSY, 0)] s u := by
    rw [hu]
    exact ((Only.refl _ _ s).wri (by simp)).count (by simp) (by simp) (by simp) (by simp [dbkRegs])
  have hm : u.mute r.link = false := by
    refine Eq.trans (State.mute_congr ?_ (honly.regs .PORT_OFFLINE _ (by simp))) h
    rw [honly.parts .prt (by decide)]
  have heq : s.doneRead r data true = u.send (.cxlData r.link r.ld r.tag data true (s.devLoad r.link r.ld)) := by
    rw [State.doneRead, State.when, if_pos rfl, ← hu, if_pos (by rw [hm]; rfl)]
  have hout : u.out = s.out := honly.parts .out (by decide)
  rw [heq]
  refine ⟨⟨_, by rw [State.send_out, hout]⟩, fun p hp => ?_⟩
  exact ((honly.mono (qs := [.out, .dbk]) (by decide) (List.Subset.refl _)).send (by simp)).parts p hp

/-! ### The obligation -/

theorem exec_ladderHomeReadDone {s : State} {la : Nat} {l : Ladder} {c : LCtx} (hrun : s.draining = false) (hof : s.ladderOf la = some l)
    (htwin : l.twin = false) (hctx : s.lineCtx la = some c) (ok : Bool) :
    exec (.ladderHomeReadDone la ok []) s =
      .next (if ok then (s.homeFix c la).ladderEnd la else (s.setf .STRIPE_LOSS true).twinStep la c 3 l.late) := by
  have hnand : s.nandReads sc1 [] = s := rfl
  simp only [exec, execLadderHomeReadDone, hof, htwin, hrun, hctx, Bool.or_self, Bool.false_eq_true, if_false, hnand]
  cases ok <;> rfl

theorem State.twinStep_late (s : State) (la : Nat) (c : LCtx) (rung : Nat) :
    s.twinStep la c rung true = (s.ladderFail la rung 0).ladderEnd la := by
  rw [State.twinStep, if_pos (by simp)]

theorem exec_ladderDeadline_late {s : State} {la : Nat} {l : Ladder} (hrun : s.draining = false) (hof : s.ladderOf la = some l)
    (hlate : l.late = true) :
    exec (.ladderDeadline la) s = .next ((s.ladderFail la (if l.twin then 4 else 3) 0).ladderEnd la) := by
  simp only [exec, execLadderDeadline, hof, hrun, hlate, Bool.false_eq_true, if_false, if_true]

/-- The line as the home holds it. -/
theorem State.homeLine_of_home {s : State} {c : LCtx} {la : Nat} {d : DLine} (hcp : (s.mapE c.ix).cpSt c.k = 0)
    (hhome : mget s.nfc.homes ((s.mapE c.ix).home, c.k) = some [(la % 64, d)]) : s.homeLine c la = d := by
  simp [State.homeLine, State.coldCp, hcp, hhome]

/-- A twin's answer takes its fetch from the list. -/
def State.answered (s : State) (x : Nat × Key) : State := s.setMir fun m => { m with fetches := m.fetches.erase x }

theorem exec_fetchRsp {s : State} {tag : Nat} {l : Ladder} {x : Nat × Key} (hrun : s.draining = false) (hup : s.mirUp = true)
    (hf : s.mir.fetches = [x]) (hx : x.1 = tag) (hl : s.int.ladders = [l]) (htwin : l.twin = true) (htag : l.tag = tag)
    (hlate : l.late = false) (st : Nat) (data : Line) :
    exec (.fetchRsp tag st data) s = .next (if 2 ≤ st then ((s.answered x).ladderFail l.la 4 0).ladderEnd l.la
      else if st = 1 then ((s.answered x).twinFix l.la ⟨((s.answered x).dline l.la).data, .poison⟩).ladderEnd l.la
      else ((s.answered x).twinFix l.la ⟨data, .good⟩).ladderEnd l.la) := by
  have hfind : s.mir.fetches.find? (fun y => y.1 == tag) = some x := by simp [hf, hx]
  have hlad : (s.answered x).int.ladders.find? (fun l => l.twin && l.tag == tag) = some l := by
    rw [show (s.answered x).int.ladders = s.int.ladders from rfl, hl]
    simp [htwin, htag]
  simp only [exec, execFetchRsp, hup, hrun, hfind, Bool.not_true, Bool.or_self, Bool.false_eq_true, if_false]
  rw [← State.answered, hlad]
  simp only [hlate, Bool.false_or, decide_eq_true_eq, apply_ite Host.Outcome.next]

/-- Settles O36: a rung writes the line and is counted, and with no further rung it is stored poisoned; then the ladder ends. -/
theorem ladderRungsEnd : Obligations.LadderRungsEnd := by
  unfold Obligations.LadderRungsEnd
  refine ⟨?home, ?loss, ?deadline, ?late, ?twin⟩
  case home =>
    intro s la l c d hinv hrun hl hla htwin hctx hmrs hcp hhome
    obtain ⟨hfix, hregs⟩ := State.count_fixLine (dramOk_mwf hinv) .HOME_CNT (s.chOf la) 3 la d
    obtain ⟨hline, hlad, hothers, hregs', -⟩ := hfix.ends hmrs hl hla
    refine ⟨_, exec_ladderHomeReadDone hrun (State.ladderOf_one hl hla) htwin hctx true, ?_⟩
    rw [if_pos rfl, State.homeFix, State.homeLine_of_home hcp hhome]
    refine ⟨hline, hlad, ?_, hothers⟩
    rw [State.rdi_congr hregs', State.rdi_congr hregs]
    exact State.count_rdi hinv.1 (f := .HOME_CNT) rfl (by decide) (by decide) _ _ _
  case loss =>
    intro s la l c hinv hrun hl hla htwin hlate hctx hmrs
    have hok := regsOk_setf hinv.1 .STRIPE_LOSS true
    have hm : mwf (s.setf .STRIPE_LOSS true).dram = true := dramOk_mwf (s := s) hinv
    have hset := State.fl_setf hinv.1 (f := .STRIPE_LOSS) rfl (by decide) true
    have hch : (s.setf .STRIPE_LOSS true).chOf la = s.chOf la :=
      congrArg Loc.ch (State.locate_congr (s := s) (t := s.setf .STRIPE_LOSS true) rfl (State.setf_rdi_ne s (f := .STRIPE_LOSS) (g := .CH_ACTIVE) (by decide) true 0)
        (State.setf_rdi_ne s (f := .STRIPE_LOSS) (g := .RANKS) (by decide) true 0) la)
    have hcnt : (s.setf .STRIPE_LOSS true).rdi .POISON_CNT (s.chOf la) = s.rdi .POISON_CNT (s.chOf la) :=
      State.setf_rdi_ne _ (by decide) _ _
    obtain ⟨hfix, hpoison, hloss⟩ := State.ladderFail_facts (s := s.setf .STRIPE_LOSS true) hok hm la 3 0
    obtain ⟨hline, hlad, -, hregs, -⟩ := hfix.ends (l := l) hmrs hl hla
    refine ⟨_, exec_ladderHomeReadDone hrun (State.ladderOf_one hl hla) htwin hctx false, ?_⟩
    rw [if_neg (by decide), hlate, State.twinStep_late]
    refine ⟨hline, ?_, hlad, ?_⟩
    · rw [State.fl_congr hregs, State.fl_eq hloss, hset]
    · rw [State.rdi_congr hregs, ← hcnt, ← hch]
      exact hpoison
  case deadline =>
    intro s la l k m r q hrun hl hla hlate hmrs hm hst hreqs hq hwr hmute
    obtain ⟨u, hu⟩ : ∃ u : State, u = { s.setLadder { l with late := true } with fch := { s.fch with mrs := [(k, { m with reqs := [] })] } } :=
      ⟨_, rfl⟩
    have hul : u.int.ladders = [{ l with late := true }] := by
      simp [hu, State.setLadder, hl]
    obtain ⟨⟨v, hv⟩, hparts⟩ := State.doneRead_poison (s := u) (r := r) (by rw [hu]; exact hmute) u.poisonData
    have hexec : exec (.ladderDeadline la) s = .next ((u.doneRead r u.poisonData true).freeNext) := by
      have hfill : (s.setLadder { l with late := true }).fillMr la = some (k, m) := by
        rw [State.fillMr, show (s.setLadder { l with late := true }).fch = s.fch from rfl, hmrs]
        simp [hm, hst]
      have hput : mput (s.setLadder { l with late := true }).fch.mrs k { m with reqs := m.reqs.filter fun q => q.wr } =
          [(k, { m with reqs := [] })] := by
        rw [show (s.setLadder { l with late := true }).fch = s.fch from rfl, hmrs, hreqs, mput_single]
        simp [hwr]
      simp only [exec, execLadderDeadline, State.ladderOf_one hl hla, hrun, hlate, Bool.false_eq_true, if_false, hfill, hput]
      rw [hreqs, show [q].filter (fun q => !q.wr) = [q] by simp [hwr], show (s.setLadder { l with late := true }).fch = s.fch from rfl, ← hu]
      simp only [State.each, List.foldl_cons, List.foldl_nil, hq]
    have hint : (u.doneRead r u.poisonData true).int = u.int := hparts .int (by decide)
    have hfch : (u.doneRead r u.poisonData true).fch = u.fch := hparts .fch (by decide)
    have hdram : (u.doneRead r u.poisonData true).dram = u.dram := hparts .dram (by decide)
    refine ⟨_, u.poisonData, v, hexec, ?_, ?_, ?_, ?_⟩
    · exact hv.trans (by rw [hu]; rfl)
    · exact (congrArg IntS.ladders hint).trans hul
    · exact (congrArg FchS.mrs hfch).trans (by rw [hu])
    · exact hdram.trans (by rw [hu]; rfl)
  case late =>
    intro s la l hinv hrun hl hla hlate hmrs
    obtain ⟨hfix, -, -⟩ := State.ladderFail_facts hinv.1 (dramOk_mwf hinv) la (if l.twin then 4 else 3) 0
    obtain ⟨hline, hlad, -⟩ := hfix.ends hmrs hl hla
    exact ⟨_, exec_ladderDeadline_late hrun (State.ladderOf_one hl hla) hlate, hline, hlad⟩
  case twin =>
    intro s la tag st data l x hinv hrun hup hf hx hl hla htwin htag hlate hmrs
    subst hla
    have hgone : (s.answered x).mir.fetches = [] := by
      rw [show (s.answered x).mir.fetches = s.mir.fetches.erase x from rfl, hf]
      simp
    have hm : mwf (s.answered x).dram = true := dramOk_mwf hinv
    have hok : regsOk (s.answered x).regs = true := hinv.1
    have hcount (d : DLine) := State.count_fixLine hm .TWIN_CNT (s.chOf l.la) 4 l.la d
    have htw (d : DLine) : (((s.answered x).twinFix l.la d).ladderEnd l.la).mir.fetches = [] ∧
        (((s.answered x).twinFix l.la d).ladderEnd l.la).int.ladders = [] ∧
        (((s.answered x).twinFix l.la d).ladderEnd l.la).dline l.la = d ∧
        (((s.answered x).twinFix l.la d).ladderEnd l.la).rdi .TWIN_CNT (s.chOf l.la) =
          min (2 ^ 32 - 1) (s.rdi .TWIN_CNT (s.chOf l.la) + 1) := by
      obtain ⟨hfix, hregs⟩ := hcount d
      obtain ⟨hline, hlad, -, hregs', hmir⟩ := hfix.ends hmrs hl rfl
      rw [State.twinFix, show (s.answered x).chOf l.la = s.chOf l.la from rfl]
      refine ⟨(congrArg MirS.fetches hmir).trans hgone, hlad, hline, ?_⟩
      rw [State.rdi_congr hregs', State.rdi_congr hregs]
      exact State.count_rdi hok (f := .TWIN_CNT) rfl (by decide) (by decide) _ _ _
    refine ⟨_, exec_fetchRsp hrun hup hf hx hl htwin htag hlate st data, ?_⟩
    by_cases h2 : 2 ≤ st
    · rw [if_pos h2]
      obtain ⟨hfix, -, -⟩ := State.ladderFail_facts hok hm l.la 4 0
      obtain ⟨hline, hlad, -, -, hmir⟩ := hfix.ends hmrs hl rfl
      exact ⟨(congrArg MirS.fetches hmir).trans hgone, hlad, fun h => by omega, fun _ => hline, fun h => by omega⟩
    · rw [if_neg h2]
      by_cases h1 : st = 1
      · rw [if_pos h1]
        obtain ⟨hfetch, hlad, hline, hcnt⟩ := htw ⟨((s.answered x).dline l.la).data, .poison⟩
        exact ⟨hfetch, hlad, fun h => by omega, fun _ => hline, fun _ => hcnt⟩
      · rw [if_neg h1]
        obtain ⟨hfetch, hlad, hline, hcnt⟩ := htw ⟨data, .good⟩
        exact ⟨hfetch, hlad, fun _ => hline, fun h => by omega, fun _ => hcnt⟩

end Sys2Proof.Machine
end

section
/-! TAKEOVER over a ledger with a stray key (13_twin_mirror.md R340, 06_command_set.md): O40. -/

namespace Sys2Proof.Machine

/-- Solo after a DRAIN notice, with an own object of ID 5 and, under a ledger key that names no ID, a replica of another size. -/
def State.strayReplica : State :=
  let s := ((State.reset.wr .STATE mirSolo).wr .FLOAT_LIMIT 16).wri .SHARE 0 16
  { s with md := { s.md with ledger := [((5, 0), ⟨0, 1, 0, 0, 65536, 0, 0, 0⟩), ((5, 1), ⟨0, 2, 0, 0, 131072, 0, 0, 0⟩)] }
           mir := { s.mir with drainSeen := true } }

theorem State.strayReplica_inv : State.strayReplica.Inv := ⟨by decide, by decide, by decide⟩

/-- TAKEOVER enters the replica under the ID of the own object. -/
theorem State.strayReplica_takeover : State.strayReplica.takeover.obj? 5 = some ⟨0, 1, 0, 0, 131072, 0, 0, 0⟩ := by decide

theorem exec_takeover {s : State} (hrun : s.draining = false) : exec .takeover s = .next s.takeover := by
  rw [exec, execTakeover, State.barWrite_of_running hrun]

/-- Refutes O40: TAKEOVER journals each replica of the ledger under the first half of its key (R340). The statement bounds the ledger
by mwf alone, which lets a key's second half be other than 0; there a replica replaces the own object of the same ID. -/
theorem not_soloTakeoverAndResync : ¬ Obligations.SoloTakeoverAndResync := by
  unfold Obligations.SoloTakeoverAndResync
  rintro ⟨-, -, -, htake, -, -, -⟩
  have hrun : State.strayReplica.draining = false := by decide
  obtain ⟨t, hexec, -, hobj⟩ :=
    (htake State.strayReplica State.strayReplica_inv (by decide) hrun).1 (by decide) (.inl rfl) (by decide)
  obtain rfl : t = State.strayReplica.takeover := Host.Outcome.next.inj (hexec.symm.trans (exec_takeover hrun))
  have hown := hobj 5 ⟨0, 1, 0, 0, 65536, 0, 0, 0⟩ (by decide)
  rw [State.strayReplica_takeover] at hown
  exact absurd hown (by decide)

end Sys2Proof.Machine
end

section
/-! An eviction's write and a fill (09_front_cache.md R225 to R229, 12_data_integrity.md R302): O27. -/

namespace Sys2Proof.Machine

theorem mdel_single {β : Type} (k : Key) (v : β) : mdel [(k, v)] k = [] := if_pos rfl

/-! ### An eviction's write -/

/-- The one pending write-back enters the write queue and frees its register. -/
theorem State.flushEvict_one {s : State} {la : Nat} {k : Key} {m : MissReg} (hmrs : s.fch.mrs = [(k, m)]) (hla : m.la = la)
    (hst : m.st = .evict) (hreqs : m.reqs = []) :
    s.flushEvict la = { s.writeDram la m.out .fch m.cls with fch := { s.fch with mrs := [] } } := by
  have hfind : s.fch.mrs.find? (fun e => e.2.la == la && e.2.st == .evict) = some (k, m) := by simp [hmrs, hla, hst]
  have hdel : mdel (s.writeDram la m.out .fch m.cls).fch.mrs k = [] := by
    rw [show (s.writeDram la m.out .fch m.cls).fch = s.fch from rfl, hmrs, mdel_single]
  simp only [State.flushEvict, hfind, hreqs, if_true, hdel]
  rfl

theorem State.missQueue_empty {s : State} (h : s.fch.mq = []) (sl : Nat) : s.missQueue sl = s := by
  simp [State.missQueue, h]

theorem exec_missEvictQueued {s : State} {la : Nat} {k : Key} {m : MissReg} (hrun : s.draining = false) (hmrs : s.fch.mrs = [(k, m)])
    (hla : m.la = la) (hst : m.st = .evict) (hreqs : m.reqs = []) (hmq : s.fch.mq = []) :
    exec (.missEvictQueued la []) s = .next { s.writeDram la m.out .fch m.cls with fch := { s.fch with mrs := [] } } := by
  have hfind : s.fch.mrs.find? (fun e => e.2.la == la && e.2.st == .evict) = some (k, m) := by simp [hmrs, hla, hst]
  have hev : ∀ u : State, u.sramEvents la [] = u := fun _ => rfl
  simp only [exec, execMissEvictQueued, hfind, hrun, Bool.false_eq_true, if_false, State.flushEvict_one hmrs hla hst hreqs, hev]
  generalize hu : ({ s.writeDram la m.out .fch m.cls with fch := { s.fch with mrs := [] } } : State) = u
  have hq : u.fch.mq = [] := by rw [← hu]; exact hmq
  rw [State.missQueue_empty hq]
  split <;> rfl

/-! ### A fill that decodes GOOD -/

theorem State.firstRungs_good {s : State} {la : Nat} (hflip : s.fl .FLIP_ARM = false) (hgood : (s.dline la).st = .good) :
    s.firstRungs la [] [] = (s, some true, false) := by
  have hhere : s.flipHere la = false := by rw [State.flipHere, hflip, Bool.false_and]
  have hdec : s.decode la [] = (s, .good, []) := by
    simp [State.decode, hhere, hgood, State.when]
  simp only [State.firstRungs, hdec]

/-- An empty front cache takes the line in the first way that may hold it. -/
theorem State.install_empty {s : State} (c : CLine) (cls : Nat) (hlines : s.fch.lines = [])
    (hways : s.candidates (s.sliceOf c.la) c.obj c.tp ≠ []) :
    ∃ w, s.install c cls = s.putWay (4096 * s.sliceOf c.la + setOf c.la, w) c := by
  obtain ⟨w, ws, hws⟩ := List.exists_cons_of_ne_nil hways
  refine ⟨w, ?_⟩
  have hfree : (mget s.fch.lines (4096 * s.sliceOf c.la + setOf c.la, w)).isNone = true := by rw [hlines]; rfl
  simp only [State.install, hws, List.find?_cons, hfree]

theorem State.touch_parts (s : State) (f : Nat) :
    (s.touch f).fch = s.fch ∧ (s.touch f).out = s.out ∧ (s.touch f).regs = s.regs ∧ (s.touch f).prt = s.prt := by
  rw [State.touch]
  split
  · exact ⟨rfl, rfl, rfl, rfl⟩
  · exact ⟨rfl, rfl, rfl, rfl⟩

theorem FilterOnly.fch_lines {s t : State} (h : FilterOnly s t) :
    t.fch.lines = s.fch.lines ∧ t.fch.mrs = s.fch.mrs ∧ t.fch.mq = s.fch.mq ∧ t.fch.snoops = s.fch.snoops ∧ t.out = s.out ∧
      t.regs = s.regs ∧ t.prt = s.prt := by
  obtain ⟨sf, clk, rfl⟩ := h
  exact ⟨rfl, rfl, rfl, rfl, rfl, rfl, rfl⟩

/-- A load applied to the one cached line is answered with its data. -/
theorem State.applyLine_load {s : State} {key : Key} {c : CLine} {r : HostReq} (hlines : s.fch.lines = [(key, c)])
    (hclean : c.poison = false) (hmute : s.mute r.link = false) :
    ∃ v, (s.applyLine c.la c.obj c.tp ⟨.host r, false, 0, 0, false⟩).out = s.out ++ [Msg.cxlData r.link r.ld r.tag c.data false v] ∧
      (s.applyLine c.la c.obj c.tp ⟨.host r, false, 0, 0, false⟩).fch.lines = s.fch.lines ∧
      (s.applyLine c.la c.obj c.tp ⟨.host r, false, 0, 0, false⟩).fch.mrs = s.fch.mrs ∧
      (s.applyLine c.la c.obj c.tp ⟨.host r, false, 0, 0, false⟩).fch.mq = s.fch.mq ∧
      (s.applyLine c.la c.obj c.tp ⟨.host r, false, 0, 0, false⟩).fch.snoops = s.fch.snoops := by
  have hcl : s.cline? c.la = some (key, c) := by simp [State.cline?, hlines]
  have hget : mget s.fch.lines key = some c := by simp [hlines, mget]
  obtain ⟨hfch, hout, hregs, hprt⟩ := s.touch_parts (c.la / 1024)
  have heq : s.applyLine c.la c.obj c.tp ⟨.host r, false, 0, 0, false⟩ =
      ((s.touch (c.la / 1024)).sfRead r c.la).doneRead r c.data false := by
    simp only [State.applyLine, hcl, State.applyReq, hget, hclean]
  obtain ⟨hl, hm, hq, hsn, ho, hr, hp⟩ := ((s.touch (c.la / 1024)).sfRead_filter r c.la).fch_lines
  generalize (s.touch (c.la / 1024)).sfRead r c.la = u at heq hl hm hq hsn ho hr hp
  have hmu : u.mute r.link = false := by
    rw [State.mute_congr (s := s) (by rw [hp, hprt]) (State.rdi_congr (hr.trans hregs) _ _)]
    exact hmute
  obtain ⟨⟨v, hv⟩, honly⟩ := State.doneRead_facts hmu c.data
  have hfu : (u.doneRead r c.data false).fch = u.fch := honly.parts .fch (by decide)
  rw [heq, hfu]
  refine ⟨v, ?_, ?_, ?_, ?_, ?_⟩
  · rw [hv, ho, hout]
  · rw [hl, hfch]
  · rw [hm, hfch]
  · rw [hq, hfch]
  · rw [hsn, hfch]

/-- The one register's fill installs its line and answers the load that waited. -/
theorem State.mrFinish_load {s : State} {k : Key} {m : MissReg} {r : HostReq} (hmrs : s.fch.mrs = [(k, m)]) (hmq : s.fch.mq = [])
    (hlines : s.fch.lines = []) (hreqs : m.reqs = [⟨.host r, false, 0, 0, false⟩]) (hgood : (s.dline m.la).st = .good)
    (hways : s.candidates (s.sliceOf m.la) m.obj m.tp ≠ []) (hmute : s.mute r.link = false) :
    ∃ w v, (s.mrFinish k m).fch.lines = [((4096 * s.sliceOf m.la + setOf m.la, w), ⟨m.la, m.obj, m.tp, false, false, (s.dline m.la).data⟩)] ∧
      (s.mrFinish k m).fch.mrs = [] ∧ (s.mrFinish k m).fch.snoops = s.fch.snoops ∧
      (s.mrFinish k m).out = s.out ++ [Msg.cxlData r.link r.ld r.tag (s.dline m.la).data false v] := by
  obtain ⟨u, hu⟩ : ∃ u : State, u = { s with fch := { s.fch with mrs := [] } } := ⟨_, rfl⟩
  have humrs : u.fch.mrs = [] := by rw [hu]
  have hulines : u.fch.lines = [] := by rw [hu]; exact hlines
  have hdl : u.dline m.la = s.dline m.la := by rw [hu]; rfl
  have hslice : u.sliceOf m.la = s.sliceOf m.la := by rw [hu]; rfl
  have hcl : u.cline? m.la = none := by simp [State.cline?, hulines]
  have hflush : u.flushEvict m.la = u := by simp [State.flushEvict, humrs]
  obtain ⟨w, hinst⟩ := State.install_empty (s := u) ⟨m.la, m.obj, m.tp, false, false, (s.dline m.la).data⟩ m.fillCls hulines
    (by rw [hu]; exact hways)
  obtain ⟨t, ht⟩ : ∃ t : State, t = u.putWay (4096 * s.sliceOf m.la + setOf m.la, w) ⟨m.la, m.obj, m.tp, false, false, (s.dline m.la).data⟩ :=
    ⟨_, rfl⟩
  have htl : t.fch.lines = [((4096 * s.sliceOf m.la + setOf m.la, w), ⟨m.la, m.obj, m.tp, false, false, (s.dline m.la).data⟩)] := by
    rw [ht, State.putWay]
    simp only [hulines]
    rfl
  have hfin : s.mrFinish k m = (t.applyLine m.la m.obj m.tp ⟨.host r, false, 0, 0, false⟩).missQueue k.1 := by
    have hdel : ({ s with fch := { s.fch with mrs := mdel s.fch.mrs k } } : State) = u := by rw [hu, hmrs, mdel_single]
    rw [State.mrFinish]
    simp only [hdel, hcl, hflush, hdl, hgood, hreqs]
    rw [show (LSt.good != LSt.good) = false from rfl, hinst, hslice, ← ht]
    rfl
  obtain ⟨v, hout, hl, hm, hq, hsn⟩ := State.applyLine_load (s := t) (r := r) htl rfl (by rw [ht, hu]; exact hmute)
  refine ⟨w, v, ?_⟩
  rw [hfin, State.missQueue_empty (by rw [hq, ht, hu]; exact hmq)]
  refine ⟨hl.trans htl, hm.trans (by rw [ht]; exact humrs), hsn.trans (by rw [ht, hu]; rfl), hout.trans (by rw [ht, hu]; rfl)⟩

theorem State.snoopsAnswered_none {s : State} (h : ∀ y ∈ s.fch.snoops, y.ans = false) : s.snoopsAnswered = s := by
  have hnil : s.fch.snoops.filter (·.ans) = [] := List.filter_eq_nil_iff.2 fun y hy => by rw [h y hy]; decide
  rw [State.snoopsAnswered, hnil]
  rfl

theorem State.fillReturn_good {s : State} {la : Nat} {k : Key} {m : MissReg} (hrun : s.draining = false) (hpool : poolBase ≤ la / 1024)
    (hmrs : s.fch.mrs = [(k, m)]) (hla : m.la = la) (hst : m.st = .fill) (hlad : s.int.ladders = []) (hrow : s.rowFenced la = false)
    (hflip : s.fl .FLIP_ARM = false) (hgood : (s.dline la).st = .good) :
    s.fillReturn la [] [] [] true [] = { s with int := { s.int with ladders := [] } }.mrFinish k m := by
  have hfill : s.fillMr la = some (k, m) := by simp [State.fillMr, hmrs, hla, hst]
  have hev : s.sramEvents la [] = s := rfl
  have hend : s.ladderEnd la = { s with int := { s.int with ladders := [] } }.mrFinish k m := by
    have hf : State.fillMr { s with int := { s.int with ladders := [] } } la = some (k, m) := hfill
    simp only [State.ladderEnd, hlad, List.filter_nil, hf]
  have hany : s.int.ladders.any (fun l => l.la == la) = false := by rw [hlad]; rfl
  rw [State.fillReturn, if_neg (by omega), hfill]
  simp only [hrun, hrow, hany, hev, Bool.or_self, Bool.false_eq_true, if_false, State.firstRungs_good hflip hgood, hend]

/-- Settles O27: the one register's write-back enters DRAM; a GOOD line takes the first way that may hold it and its load is answered. -/
theorem cacheMisses : Obligations.CacheMisses := by
  unfold Obligations.CacheMisses
  refine ⟨?evict, ?fill⟩
  case evict =>
    intro s la k m hinv hrun hmrs hla hst hreqs hmq
    refine ⟨_, exec_missEvictQueued hrun hmrs hla hst hreqs hmq, State.dline_setDline la m.out (dramOk_mwf hinv), rfl, rfl, ?_,
      fun x hx => State.dline_setDline_ne s m.out hx.symm⟩
    have hcls : (if (s.setDline la m.out).draining then sc0 else m.cls) = m.cls := if_neg (by
      rw [show (s.setDline la m.out).draining = s.draining from rfl, hrun]; decide)
    change s.drc.fabric ++ [⟨la, 1, true, .fch, if (s.setDline la m.out).draining then sc0 else m.cls, 0, false⟩] = _
    rw [hcls]
  case fill =>
    intro s la k m r hrun hpool hmrs hla hst hreqs hmq hlines hways hlad hrow hans hflip hgood hmute
    subst hla
    obtain ⟨w, v, hl, hm, hsn, hout⟩ := State.mrFinish_load (s := { s with int := { s.int with ladders := [] } }) (r := r) hmrs hmq hlines
      hreqs hgood hways hmute
    have hexec : exec (.missFillReturn m.la [] [] [] true []) s = .next ({ s with int := { s.int with ladders := [] } }.mrFinish k m) := by
      rw [exec, execMissFillReturn, State.fillReturn_good hrun hpool hmrs rfl hst hlad hrow hflip hgood]
      exact congrArg _ (State.snoopsAnswered_none (by rw [hsn]; exact hans))
    exact ⟨_, w, v, hexec, hl, hm, hout⟩

end Sys2Proof.Machine
end

section
/-! Blocks, channels and rebuilds of the flash backing (11_flash_backing.md R279, R286 to R288): O34. -/

namespace Sys2Proof.Machine

/-! ### Garbage collection (R279, R286) -/

theorem State.openBlocks_in' (s : State) (ps : List NProg) : In State.openBlocks_foot s (s.openBlocks ps) :=
  State.openBlocks_in (In.refl _ s) (Foot.le_refl _)

/-- No settle program waits for free blocks, so none opens a block now. -/
theorem State.progsGo_regs {s : State} {ch : Nat} (h : ∀ j ∈ s.stl.jobs, ∀ p ∈ j.progs, p.held = false) : (s.progsGo ch).regs = s.regs := by
  have hnone : s.stl.jobs.flatMap (fun (j : Settle) => j.progs.filter fun p => p.ch == ch && p.held) = [] := by
    refine List.flatMap_eq_nil_iff.2 fun j hj => List.filter_eq_nil_iff.2 fun p hp => ?_
    simp [h j hj p hp]
  rw [State.progsGo]
  split
  · rfl
  · simp only [hnone]
    rfl

/-- With GC_LO_BLK free blocks no program of the channel waits. -/
theorem State.progsGo_held {s : State} {ch : Nat} (h : s.rd .GC_LO_BLK ≤ s.rdi .FREE_BLK ch) :
    ∀ j ∈ (s.progsGo ch).stl.jobs, ∀ p ∈ j.progs, p.ch = ch → p.held = false := by
  have hgo : (s.progsGo ch).stl.jobs = s.stl.jobs.map fun (j : Settle) =>
      { j with progs := j.progs.map fun (p : NProg) => if p.ch == ch && p.held then { p with held := false } else p } := by
    rw [State.progsGo, if_neg (by omega)]
    exact congrArg StlS.jobs ((State.openBlocks_in' _ _).parts .stl (by decide))
  intro j hj p hp hch
  rw [hgo] at hj
  obtain ⟨j0, -, rfl⟩ := List.mem_map.1 hj
  obtain ⟨p0, -, rfl⟩ := List.mem_map.1 hp
  by_cases hmine : (p0.ch == ch && p0.held) = true
  · rw [if_pos hmine]
  · rw [if_neg hmine] at hch ⊢
    simpa [hch] using hmine

/-- A collection before its wear is judged: the chunks moved are numbered, a block is free and the channel's figures are new. -/
def State.collected (s : State) (ch n avg top : Nat) : State :=
  (((((s.wr .SETTLE_SEQ (s.rd .SETTLE_SEQ + n)).wri .FREE_BLK ch ((s.wr .SETTLE_SEQ (s.rd .SETTLE_SEQ + n)).rdi .FREE_BLK ch + 1)).progsGo
    ch).wri .PE_AVG ch avg).wri .PE_MAX ch top)

/-- A channel's wear in thousandths (R286). -/
def State.wearNow (s : State) (ch : Nat) : Nat :=
  if s.rdi .PE_RATED ch = 0 then s.rdi .WEAR_PM ch else min 1023 (s.rdi .PE_AVG ch * 1000 / s.rdi .PE_RATED ch)

/-- The wear is stored; at 900 it is reported once (R286). -/
def State.wears (s : State) (ch : Nat) : State :=
  if s.rdi .WEAR_PM ch < 900 ∧ 900 ≤ s.wearNow ch then
    (((s.wri .WEAR_PM ch (s.wearNow ch)).setfi .WEAR_WARN ch true).record clsWarn 0 286 (item 4 ch)).alert blkNFC
  else s.wri .WEAR_PM ch (s.wearNow ch)

theorem exec_garbageCollection {s : State} {ch : Nat} (n avg top : Nat) (hch : ch < 36) (hworks : s.chanWorks ch = true)
    (hlow : s.rdi .FREE_BLK ch < s.rd .GC_HI_BLK) :
    exec (.garbageCollection ch n avg top) s = .next ((s.collected ch n avg top).wears ch) := by
  have hw : (s.rdi .CH_STATE ch == 1 || s.rdi .CH_STATE ch == 3) = true := hworks
  have hif : ¬(decide (36 ≤ ch) || !(s.rdi .CH_STATE ch == 1 || s.rdi .CH_STATE ch == 3) || decide (s.rd .GC_HI_BLK ≤ s.rdi .FREE_BLK ch)) = true := by
    simp only [hw, Bool.not_true, Bool.or_false, Bool.or_eq_true, decide_eq_true_eq]
    omega
  rw [exec, execGarbageCollection, if_neg hif]
  rfl

/-- What judging the wear touches. -/
theorem State.wears_in (s : State) (ch : Nat) :
    In (Fld.WEAR_PM.foot ||| Fld.WEAR_WARN.foot ||| State.record_foot ||| State.alert_foot) s (s.wears ch) :=
  in_ite (State.alert_in (State.record_in (State.setfi_in (State.wri_in (In.refl _ s) (by decide)) (by decide)) (by decide)) (by decide))
    (State.wri_in (In.refl _ s) (by decide))

theorem State.wears_warns {s : State} (hok : regsOk s.regs = true) {ch : Nat} (hwas : s.rdi .WEAR_PM ch < 900) (hnow : 900 ≤ s.wearNow ch) :
    (s.wears ch).fli .WEAR_WARN ch = true ∧ bit ((s.wears ch).rd .ALERT_CAUSE) blkNFC = true := by
  have hok1 := regsOk_wri hok .WEAR_PM ch (s.wearNow ch)
  have hok2 := regsOk_setfi hok1 .WEAR_WARN ch true
  have hset := State.fli_setfi hok1 (f := .WEAR_WARN) rfl (by decide) ch true
  rw [State.wears, if_pos ⟨hwas, hnow⟩]
  generalize (s.wri .WEAR_PM ch (s.wearNow ch)).setfi .WEAR_WARN ch true = u at hok2 hset
  refine ⟨?_, State.alert_sets (regsOk_record hok2 _ _ _ _) (by decide)⟩
  rw [← hset]
  exact State.fli_eq ((State.alert_in (State.record_in (In.refl (State.record_foot ||| State.alert_foot) u) (by decide)) (by decide)).regs
    .WEAR_WARN ch (by decide))

theorem State.collected_facts {s : State} (hok : regsOk s.regs = true) {ch n avg : Nat} (top : Nat)
    (hlow : s.rdi .FREE_BLK ch < s.rd .GC_HI_BLK) (hseq : s.rd .SETTLE_SEQ + n < 2 ^ 64) (havg : avg < 2 ^ 16) :
    regsOk (s.collected ch n avg top).regs = true ∧
      ((∀ j ∈ s.stl.jobs, ∀ p ∈ j.progs, p.held = false) → (s.collected ch n avg top).rdi .FREE_BLK ch = s.rdi .FREE_BLK ch + 1) ∧
      (s.rd .GC_LO_BLK ≤ s.rdi .FREE_BLK ch + 1 → ∀ j ∈ (s.collected ch n avg top).stl.jobs, ∀ p ∈ j.progs, p.ch = ch → p.held = false) ∧
      (s.collected ch n avg top).rd .SETTLE_SEQ = s.rd .SETTLE_SEQ + n ∧ (s.collected ch n avg top).rdi .PE_AVG ch = avg ∧
      (s.collected ch n avg top).rdi .WEAR_PM ch = s.rdi .WEAR_PM ch ∧ (s.collected ch n avg top).rdi .PE_RATED ch = s.rdi .PE_RATED ch := by
  have hhi : s.rd .GC_HI_BLK < 2 ^ 12 := State.rdi_full_lt hok (f := .GC_HI_BLK) rfl 0
  obtain ⟨a, ha⟩ : ∃ a, a = s.wr .SETTLE_SEQ (s.rd .SETTLE_SEQ + n) := ⟨_, rfl⟩
  have haok : regsOk a.regs = true := by rw [ha]; exact regsOk_wr hok _ _
  have haseq : a.rd .SETTLE_SEQ = s.rd .SETTLE_SEQ + n := by rw [ha]; exact State.rd_wr hok rfl hseq
  have hane {f : Fld} (hf : .SETTLE_SEQ ≠ f) (i : Nat) : a.rdi f i = s.rdi f i := by rw [ha]; exact State.rdi_wri_ne _ (.inl hf)
  have hastl : a.stl = s.stl := by rw [ha]; rfl
  obtain ⟨b, hb⟩ : ∃ b, b = a.wri .FREE_BLK ch (a.rdi .FREE_BLK ch + 1) := ⟨_, rfl⟩
  have hbok : regsOk b.regs = true := by rw [hb]; exact regsOk_wri haok _ _ _
  have hbfree : b.rdi .FREE_BLK ch = s.rdi .FREE_BLK ch + 1 := by
    rw [hb, State.rdi_wri_fit haok (f := .FREE_BLK) rfl (show _ < 2 ^ 18 by rw [hane (by decide)]; omega), hane (by decide)]
  have hbne {f : Fld} (hf : .FREE_BLK ≠ f) (i : Nat) : b.rdi f i = a.rdi f i := by rw [hb]; exact State.rdi_wri_ne _ (.inl hf)
  have hbstl : b.stl = s.stl := by rw [hb]; exact hastl
  have hgo : In State.progsGo_foot b (b.progsGo ch) := State.progsGo_in (In.refl _ b) (Foot.le_refl _)
  have heq : s.collected ch n avg top = ((b.progsGo ch).wri .PE_AVG ch avg).wri .PE_MAX ch top := by rw [hb, ha]; rfl
  have hgok := hgo.regsOk hbok
  have hread {f : Fld} (h1 : .PE_AVG ≠ f) (h2 : .PE_MAX ≠ f) (i : Nat) : (s.collected ch n avg top).rdi f i = (b.progsGo ch).rdi f i := by
    rw [heq, State.rdi_wri_ne _ (.inl h2), State.rdi_wri_ne _ (.inl h1)]
  refine ⟨?_, fun hheld => ?_, fun hlo => ?_, ?_, ?_, ?_, ?_⟩
  · rw [heq]
    exact regsOk_wri (regsOk_wri hgok _ _ _) _ _ _
  · rw [hread (by decide) (by decide), State.rdi_congr (State.progsGo_regs (by rw [hbstl]; exact hheld)), hbfree]
  · rw [heq]
    exact State.progsGo_held (s := b) (by
      rw [hbfree, State.rd, hbne (by decide), hane (by decide)]
      exact hlo)
  · rw [State.rd, hread (by decide) (by decide), hgo.regs .SETTLE_SEQ 0 (by decide), hbne (by decide), ← haseq]
    rfl
  · rw [heq, State.rdi_wri_ne _ (.inl (by decide)), State.rdi_wri_fit hgok (f := .PE_AVG) rfl havg]
  · rw [hread (by decide) (by decide), hgo.regs .WEAR_PM _ (by decide), hbne (by decide), hane (by decide)]
  · rw [hread (by decide) (by decide), hgo.regs .PE_RATED _ (by decide), hbne (by decide), hane (by decide)]

/-! ### Channels (R287, R288) -/

theorem State.mediaReady_recState (s : State) : s.mediaReady.nfc.recState = s.nfc.recState := by
  rw [State.mediaReady]
  split
  · rw [State.freshMeta]
    split <;> rfl
  · rfl

/-- A channel's new state is recorded and CH_ONLINE follows it. -/
theorem State.setChan_online {s : State} (hok : regsOk s.regs = true) {c st : Nat} (hc : c < 36) :
    bit ((s.setChan c st).rd .CH_ONLINE) c = (st == 1) ∧ mget (s.setChan c st).nfc.recState (c, 0) = some st := by
  have hok1 := regsOk_wri hok .CH_STATE c st
  have hbit := State.bit_setBitOf hok1 (f := .CH_ONLINE) rfl 0 (n := c) hc c (st == 1)
  obtain ⟨x, hx⟩ : ∃ x, x = s.chanState c st := ⟨_, rfl⟩
  have hxbit : bit (x.rd .CH_ONLINE) c = (st == 1) := by
    rw [hx, State.chanState]
    have hv (u : State) : u.vaultRegs.rd .CH_ONLINE = u.rd .CH_ONLINE :=
      (State.vaultRegs_in (ft := State.vaultRegs_foot) (In.refl _ u) (Foot.le_refl _)).regs .CH_ONLINE 0 (by decide)
    rw [hv, State.rd, State.setf_rdi_ne _ (by split <;> decide), hbit, if_pos rfl]
  obtain ⟨y, hy⟩ : ∃ y : State, y = { x with nfc := { x.nfc with recState := mput x.nfc.recState (c, 0) st } } := ⟨_, rfl⟩
  have hset : s.setChan c st = y.mediaReady := by rw [hy, hx]; rfl
  have hon : (s.setChan c st).rd .CH_ONLINE = x.rd .CH_ONLINE := by
    rw [hset, State.rd, (State.mediaReady_in (ft := State.mediaReady_foot) (In.refl _ y) (Foot.le_refl _)).regs .CH_ONLINE 0 (by decide), hy]
    rfl
  refine ⟨by rw [hon, hxbit], ?_⟩
  rw [hset, State.mediaReady_recState, hy]
  exact mget_mput _ _ _

/-- A retired channel is not online, its state is recorded and the alert is up (R287). -/
theorem State.retireChan_facts {s : State} (hok : regsOk s.regs = true) {c : Nat} (hc : c < 36) :
    (s.retireChan c).rdi .CH_STATE c = 2 ∧ bit ((s.retireChan c).rd .CH_ONLINE) c = false ∧
      mget (s.retireChan c).nfc.recState (c, 0) = some 2 ∧ bit ((s.retireChan c).rd .ALERT_CAUSE) blkNFC = true ∧
      (∀ j, j ≠ c → (s.retireChan c).rdi .CH_STATE j = s.rdi .CH_STATE j) ∧ regsOk (s.retireChan c).regs = true ∧
      (s.retireChan c).stl = s.stl := by
  obtain ⟨hin, hstate, hothers, -⟩ := State.setChan_facts hok c (st := 2) (by decide)
  obtain ⟨honline, hrec⟩ := State.setChan_online hok (st := 2) hc
  have hsok := hin.regsOk hok
  have hret : In State.retireChan_foot s (s.retireChan c) := State.retireChan_in (In.refl _ s) (Foot.le_refl _)
  have hstl : (s.retireChan c).stl = s.stl := hret.parts .stl (by decide)
  have hrok := hret.regsOk hok
  obtain ⟨u, hu⟩ : ∃ u, u = s.setChan c 2 := ⟨_, rfl⟩
  have heq : s.retireChan c = (u.record clsError 0 287 (item 4 c)).alert blkNFC := by rw [hu]; rfl
  rw [← hu] at hstate hothers honline hrec hsok
  have htail : In (State.record_foot ||| State.alert_foot) u (s.retireChan c) := by
    rw [heq]
    exact State.alert_in (State.record_in (In.refl _ u) (by decide)) (by decide)
  have hnfc : (s.retireChan c).nfc = u.nfc := htail.parts .nfc (by decide)
  refine ⟨?_, ?_, ?_, ?_, fun j hj => ?_, hrok, hstl⟩
  · rw [htail.regs .CH_STATE c (by decide), hstate]
  · rw [State.rd, htail.regs .CH_ONLINE 0 (by decide)]
    exact honline
  · rw [hnfc, hrec]
  · rw [heq]
    exact State.alert_sets (regsOk_record hsok _ _ _ _) (by decide)
  · rw [htail.regs .CH_STATE j (by decide), hothers j hj]

theorem State.each_pair {α : Type} (s : State) (a b : α) (f : State → α → State) : s.each [a, b] f = f (f s a) b := rfl

theorem exec_channelRetire {s : State} {ch : Nat} (hch : ch < 36) (hworks : s.chanWorks ch = true) :
    exec (.channelRetire ch) s = .next (s.retireChan ch) := by
  rw [exec, execChannelRetire, if_pos (by simp [hch, hworks])]

theorem exec_retire {s : State} {ch : Nat} (hrun : s.draining = false) (hch : ch < 36) (hworks : s.chanWorks ch = true) :
    exec (.retire ch) s = .next (if s.retireTooMany [ch] then s.setf .RETIRE_REFUSED true else s.retireChan ch) := by
  rw [exec, execRetire, State.barWrite_of_running hrun, if_neg (by omega), State.retireWrite, if_neg (by rw [hworks]; decide)]

theorem exec_retireSlot {s : State} {i : Nat} (hrun : s.draining = false) (hi : i < 18) (h0 : s.chanWorks i = true)
    (h1 : s.chanWorks (18 + i) = true) :
    exec (.retireSlot i) s = .next (if s.retireTooMany [i, 18 + i] then s.setf .RETIRE_REFUSED true else
      (s.each (s.stl.jobs.filter (·.programs [i, 18 + i])) State.abandonSettle).each [i, 18 + i] State.retireChan) := by
  have hcs : [i, 18 + i].filter s.chanWorks = [i, 18 + i] := by simp [h0, h1]
  rw [exec, execRetireSlot, State.barWrite_of_running hrun, if_neg (by omega), State.retireSlot]
  simp only [hcs, reduceCtorEq, if_false]

/-- Abandoning a settle takes it from the list, and leaves the channels' states. -/
theorem State.abandonSettle_facts (s : State) (j : Settle) :
    (s.abandonSettle j).stl.jobs = s.stl.jobs.erase j ∧ In State.abandonSettle_foot s (s.abandonSettle j) := by
  refine ⟨?_, State.abandonSettle_in (In.refl _ s) (Foot.le_refl _)⟩
  have hdrop : (s.dropJob j).stl.jobs = s.stl.jobs.erase j := rfl
  rw [State.abandonSettle]
  generalize s.dropJob j = u at hdrop
  dsimp only
  split
  · exact hdrop
  · next o ho =>
    rw [← hdrop]
    refine State.each_inv (P := fun v : State => v.stl.jobs = u.stl.jobs) _ rfl fun v k _ hv => ?_
    split
    · exact hv
    · exact hv

theorem erase_filter_not_mem {p : Settle → Bool} : ∀ (l : List Settle) (m : List Settle), (∀ j, p j = true → m.count j ≤ l.count j) →
    ∀ j ∈ l.foldl (fun a b => a.erase b) m, p j = false := by
  intro l
  induction l with
  | nil =>
    intro m h j hj
    by_contra hp
    have hc := h j (by simpa using hp)
    have hpos := List.count_pos_iff.2 hj
    rw [List.count_nil] at hc
    simp only [List.foldl_nil] at hpos
    omega
  | cons b l ih =>
    intro m h
    refine ih (m.erase b) fun j hj => ?_
    have hc := h j hj
    rw [List.count_erase]
    rw [List.count_cons] at hc
    by_cases hb : (b == j) = true
    · rw [if_pos hb] at hc ⊢
      omega
    · rw [if_neg hb] at hc ⊢
      omega

theorem State.abandonAll_jobs (s : State) (l : List Settle) :
    (s.each l State.abandonSettle).stl.jobs = l.foldl (fun a b => a.erase b) s.stl.jobs := by
  induction l generalizing s with
  | nil => rfl
  | cons j l ih =>
    rw [State.each, List.foldl_cons, ← State.each, ih, (s.abandonSettle_facts j).1]
    rfl

/-- Every settle that programs a channel of the slot is abandoned. -/
theorem State.abandonAll_clear (s : State) (cs : List Nat) :
    ∀ j ∈ (s.each (s.stl.jobs.filter (·.programs cs)) State.abandonSettle).stl.jobs, j.programs cs = false := by
  rw [State.abandonAll_jobs]
  refine erase_filter_not_mem (p := (·.programs cs)) _ _ fun j hj => ?_
  exact Nat.le_of_eq (List.count_filter (p := fun x : Settle => x.programs cs) hj).symm

theorem State.abandonAll_in (s : State) (l : List Settle) : In State.abandonSettle_foot s (s.each l State.abandonSettle) :=
  State.each_in (In.refl _ s) fun _ _ h => State.abandonSettle_in h (Foot.le_refl _)

/-! ### The obligation -/

theorem exec_nandEraseFail {s : State} {ch : Nat} (hch : ch < 36) :
    exec (.nandEraseFail ch) s = .next ((s.count .ERASE_FAIL_CNT ch .NFC_CH_FLAGS_CNT_OVF ch 3).badBlock ch) := by
  rw [exec, execNandEraseFail, if_neg (by omega)]

/-- A failed block is counted bad (R286). -/
theorem State.badBlock_facts {s : State} (hok : regsOk s.regs = true) {c : Nat} (hfit : s.rdi .BAD_BLK c + 1 < 2 ^ 18) :
    (s.badBlock c).rdi .BAD_BLK c = s.rdi .BAD_BLK c + 1 ∧ (∀ f j, .BAD_BLK ≠ f → (s.badBlock c).rdi f j = s.rdi f j) ∧
      (s.badBlock c).regs = (s.wri .BAD_BLK c (s.rdi .BAD_BLK c + 1)).regs := by
  have hregs : (s.badBlock c).regs = (s.wri .BAD_BLK c (s.rdi .BAD_BLK c + 1)).regs := by
    rw [State.badBlock]
    dsimp only
    split <;> rfl
  refine ⟨?_, fun f j hf => ?_, hregs⟩
  · rw [State.rdi_congr hregs, State.rdi_wri_fit hok (f := .BAD_BLK) rfl hfit]
  · rw [State.rdi_congr hregs, State.rdi_wri_ne _ (.inl hf)]

theorem exec_rebuildStripe {s : State} {ch home : Nat} (hch : ch < 36) (hst : s.rdi .CH_STATE ch = 3) (hrun : s.draining = false)
    (hhome : home ∈ s.homesOf (ch / 18)) (hdown : s.groupDown (ch / 18) ≤ 2) :
    exec (.rebuildStripe ch home) s = .next (s.rebuildMember ch home) := by
  rw [exec, execRebuildStripe, if_neg]
  simp only [hst, hrun, List.contains_iff_mem.2 hhome, Bool.or_eq_true, decide_eq_true_eq]
  simp
  omega

theorem State.rebuildMember_facts {s : State} {ch home : Nat} (hst : s.rdi .CH_STATE ch = 3) :
    (mget (s.rebuildMember ch home).nfc.rebuilt (ch, home)).isSome = true ∧
      ∀ c h, (c, h) ≠ (ch, home) → mget (s.rebuildMember ch home).nfc.rebuilt (c, h) = mget s.nfc.rebuilt (c, h) := by
  rw [State.rebuildMember]
  split
  · next h => exact ⟨by simpa [hst] using h, fun _ _ _ => rfl⟩
  · refine ⟨?_, fun c h hne => mget_mput_ne _ _ _ _ (Ne.symm hne)⟩
    rw [State.rebuildLeft, State.wri_nfc]
    dsimp only
    rw [mget_mput]
    rfl

theorem exec_rebuildDone {s : State} {ch : Nat} (hch : ch < 36) (hst : s.rdi .CH_STATE ch = 3) (hleft : s.rdi .REBUILD_LEFT ch = 0) :
    exec (.rebuildDone ch) s = .next ((s.setChan ch 1).record clsService 0 288 (item 4 ch)) := by
  rw [exec, execRebuildDone, if_neg]
  simp [hst, hleft]
  omega

/-- Settles O34: a collection's registers one after the other; a channel's state, its record and CH_ONLINE are written together; a slot's
settles are abandoned before its channels are retired. -/
theorem channelsRetireAndRebuild : Obligations.ChannelsRetireAndRebuild := by
  unfold Obligations.ChannelsRetireAndRebuild
  refine ⟨?gc, ?erase, ?retire, ?slot, ?stripe, ?done⟩
  case gc =>
    intro s ch n avg top hinv hch hworks hlow hseq havg htop
    obtain ⟨hok, hfree, hheld, hsq, hpe, hwear, hrated⟩ := State.collected_facts hinv.1 (n := n) (avg := avg) top hlow hseq havg
    have hin := (s.collected ch n avg top).wears_in ch
    have hstl : ((s.collected ch n avg top).wears ch).stl = (s.collected ch n avg top).stl := hin.parts .stl (by decide)
    refine ⟨_, exec_garbageCollection n avg top hch hworks hlow, fun h => ?_, fun h => ?_, ?_, ?_, fun hlt hpos hreach => ?_⟩
    · rw [hin.regs .FREE_BLK ch (by decide), hfree h]
    · rw [hstl]
      exact hheld h
    · rw [State.rd, hin.regs .SETTLE_SEQ 0 (by decide)]
      exact hsq
    · rw [hin.regs .PE_AVG ch (by decide), hpe]
    · refine State.wears_warns hok (by rw [hwear]; exact hlt) ?_
      rw [State.wearNow, hrated, hpe, if_neg (by omega)]
      omega
  case erase =>
    intro s ch hinv hch hfit
    obtain ⟨u, hu⟩ : ∃ u, u = s.count .ERASE_FAIL_CNT ch .NFC_CH_FLAGS_CNT_OVF ch 3 := ⟨_, rfl⟩
    have hbad : u.rdi .BAD_BLK ch = s.rdi .BAD_BLK ch := by
      rw [hu]
      exact State.count_rdi_of_ne _ _ _ _ _ _ (by decide) (by decide) (by decide) _
    obtain ⟨hnew, hothers, -⟩ := State.badBlock_facts (s := u) (c := ch) (by rw [hu]; exact regsOk_count hinv.1 _ _ _ _ _) (by rw [hbad]; exact hfit)
    refine ⟨_, exec_nandEraseFail hch, ?_, ?_⟩
    · rw [← hu, hnew, hbad]
    · rw [← hu, hothers _ _ (by decide), hu]
      exact State.count_rdi hinv.1 (f := .ERASE_FAIL_CNT) rfl (by decide) (by decide) _ _ _
  case retire =>
    intro s ch i hinv hwf hch hworks hi
    obtain ⟨hst, hon, hrec, halert, hothers, -, -⟩ := State.retireChan_facts hinv.1 hch
    refine ⟨s.retireChan ch, ?_, hst, hon, hrec, halert, fun c _ hc => hothers c hc⟩
    rcases hi with rfl | ⟨rfl, hrun, hfew⟩
    · exact exec_channelRetire hch hworks
    · rw [exec_retire hrun hch hworks, hfew, if_neg (by decide)]
  case slot =>
    intro s i hinv hrun hi h0 h1
    have hrefused := State.fl_setf hinv.1 (f := .RETIRE_REFUSED) rfl (by decide) true
    refine ⟨fun hmany => ?_, fun hmany => ?_, fun hfew => ?_⟩
    · refine ⟨_, exec_retire hrun (by omega) h0, ?_⟩
      rw [hmany, if_pos rfl]
      exact ⟨hrefused, State.setf_rdi_ne _ (by decide) _ _, rfl⟩
    · refine ⟨_, exec_retireSlot hrun hi h0 h1, ?_⟩
      rw [hmany, if_pos rfl]
      exact ⟨hrefused, State.setf_rdi_ne _ (by decide) _ _, State.setf_rdi_ne _ (by decide) _ _⟩
    · refine ⟨_, exec_retireSlot hrun hi h0 h1, ?_⟩
      rw [hfew, if_neg (by decide)]
      have hclear := s.abandonAll_clear [i, 18 + i]
      have hok := (s.abandonAll_in (s.stl.jobs.filter (·.programs [i, 18 + i]))).regsOk hinv.1
      generalize s.each (s.stl.jobs.filter (·.programs [i, 18 + i])) State.abandonSettle = u at hclear hok
      obtain ⟨hsti, -, -, -, -, hoki, hstli⟩ := State.retireChan_facts hok (c := i) (by omega)
      obtain ⟨hstj, -, -, -, hothers, -, hstlj⟩ := State.retireChan_facts hoki (c := 18 + i) (by omega)
      rw [State.each_pair]
      refine ⟨?_, hstj, ?_⟩
      · rw [hothers i (by omega), hsti]
      · rw [hstlj, hstli]
        exact hclear
  case stripe =>
    intro s ch home _ _ hch hst hrun hhome hdown
    exact ⟨_, exec_rebuildStripe hch hst hrun hhome hdown, State.rebuildMember_facts hst⟩
  case done =>
    intro s ch hinv hch hst hleft
    obtain ⟨hin, hstate, -, -⟩ := State.setChan_facts hinv.1 ch (st := 1) (by decide)
    obtain ⟨honline, -⟩ := State.setChan_online hinv.1 (st := 1) hch
    refine ⟨_, exec_rebuildDone hch hst hleft, ?_, ?_⟩
    · rw [State.record_rdi _ _ _ _ _ (by decide), hstate]
    · rw [State.rd, State.record_rdi _ _ _ _ _ (by decide)]
      exact honline

end Sys2Proof.Machine
end

section
/-! Stripe settles and re-homing (11_flash_backing.md R281 to R283, Table 11.2): O33. -/

namespace Sys2Proof.Machine

/-! ### Code-page states of a frame-map entry -/

theorem MapE.cpSt_setCp (e : MapE) (k v j : Nat) : (e.setCp k v).cpSt j = if j = k then v % 4 else e.cpSt j := by
  rw [MapE.cpSt, MapE.setCp]
  split
  · next h => rw [h]; exact bits_setBits _ _ _ _
  · exact bits_setBits_of_disjoint (by omega)

theorem State.mapE_setMap (s : State) (ix : Nat) (e : MapE) (jx : Nat) : (s.setMap ix e).mapE jx = if jx = ix then e else s.mapE jx := by
  rw [State.mapE, State.setMap]
  split
  · next h => rw [h, mget_mput]; rfl
  · next h => rw [mget_mput_ne _ _ _ _ (fun he => h (Prod.mk.inj he).1.symm), State.mapE]

/-- Code page k of the entry at ix takes state v. -/
def State.setCpAt (s : State) (ix v : Nat) (k : Nat) : State := s.setMap ix ((s.mapE ix).setCp k v)

theorem State.setCpAt_cpSt (s : State) (ix v k j : Nat) :
    ((s.setCpAt ix v k).mapE ix).cpSt j = if j = k then v % 4 else (s.mapE ix).cpSt j := by
  rw [State.setCpAt, State.mapE_setMap, if_pos rfl, MapE.cpSt_setCp]

/-- From s to t the frame map alone changed, and there the entry at ix in its code-page states at most. -/
def CpOnly (ix : Nat) (s t : State) : Prop :=
  ∃ m, t = { s with md := { s.md with fmap := m } } ∧ (t.mapE ix).frame = (s.mapE ix).frame ∧ (t.mapE ix).home = (s.mapE ix).home

theorem CpOnly.setCpAt (s : State) (ix v k : Nat) : CpOnly ix s (s.setCpAt ix v k) := by
  refine ⟨_, rfl, ?_, ?_⟩
  · rw [State.setCpAt, State.mapE_setMap, if_pos rfl]
    rfl
  · rw [State.setCpAt, State.mapE_setMap, if_pos rfl]
    rfl

theorem CpOnly.trans {ix : Nat} {s t u : State} (h : CpOnly ix s t) (h' : CpOnly ix t u) : CpOnly ix s u := by
  obtain ⟨m, rfl, hf, hh⟩ := h
  obtain ⟨m', rfl, hf', hh'⟩ := h'
  exact ⟨m', rfl, hf'.trans hf, hh'.trans hh⟩

theorem CpOnly.refl (ix : Nat) (s : State) : CpOnly ix s s := ⟨s.md.fmap, rfl, rfl, rfl⟩

theorem State.setCps_facts (ix v : Nat) (l : List Nat) (s : State) : CpOnly ix s (s.each l (State.setCpAt · ix v)) ∧
    ∀ j, ((s.each l (State.setCpAt · ix v)).mapE ix).cpSt j = if j ∈ l then v % 4 else (s.mapE ix).cpSt j := by
  induction l generalizing s with
  | nil => exact ⟨CpOnly.refl _ _, fun j => (if_neg (List.not_mem_nil)).symm⟩
  | cons k l ih =>
    obtain ⟨honly, hcp⟩ := ih (s.setCpAt ix v k)
    refine ⟨(CpOnly.setCpAt s ix v k).trans honly, fun j => ?_⟩
    refine (hcp j).trans ?_
    rw [State.setCpAt_cpSt]
    by_cases hk : j = k
    · simp [hk]
    · simp [hk]

/-! ### The start (Table 11.2 steps 1 to 3) -/

theorem State.settleSnoop_none {s : State} (hl : s.fch.lines = []) (hm : s.fch.mrs = []) (f k cls : Nat) : s.settleSnoop f k cls = s := by
  simp [State.settleSnoop, hl, hm, State.each]

/-- With an empty front cache a settle's code pages only turn SETTLING. -/
theorem State.settling_eq (f ix cls : Nat) : ∀ (l : List Nat) (s : State), s.fch.lines = [] → s.fch.mrs = [] →
    s.each l (fun s k => (s.settleSnoop f k cls).setMap ix ((s.mapE ix).setCp k 2)) = s.each l (State.setCpAt · ix 2) := by
  intro l
  induction l with
  | nil => exact fun _ _ _ => rfl
  | cons k l ih =>
    intro s hl hm
    have hstep : (s.settleSnoop f k cls).setMap ix ((s.mapE ix).setCp k 2) = s.setCpAt ix 2 k := by
      rw [State.settleSnoop_none hl hm]
      rfl
    rw [State.each, State.each, List.foldl_cons, List.foldl_cons, hstep]
    exact ih _ hl hm

theorem mem_of_mget {β : Type} {m : SMap β} {k : Key} {v : β} (h : mget m k = some v) : (k, v) ∈ m := by
  induction m with
  | nil => exact absurd h (by simp [mget])
  | cons a m ih =>
    rw [mget] at h
    split at h
    · next hk =>
      cases h
      rw [← hk]
      exact List.mem_cons_self
    · exact List.mem_cons_of_mem _ (ih h)

theorem State.dline_not_marked {s : State} (h : ∀ e ∈ s.dram, e.2.st ≠ .marked) (la : Nat) : (s.dline la).st ≠ .marked := by
  rw [State.dline]
  cases hg : mget s.dram (la / 1024, la % 1024) with
  | none => decide
  | some d => exact h _ (mem_of_mget hg)

/-- Lines that read without error pass no ladder. -/
theorem State.probeCp_none {s : State} (hflip : s.fl .FLIP_ARM = false) (hm : ∀ e ∈ s.dram, e.2.st ≠ .marked) (f k dom : Nat) :
    s.probeCp f k dom [] = s := by
  refine State.each_const _ fun j => ?_
  have hhere : s.flipHere (1024 * f + 64 * k + j) = false := by rw [State.flipHere, hflip, Bool.false_and]
  have hst := State.dline_not_marked hm (1024 * f + 64 * k + j)
  dsimp only
  rw [if_neg]
  simp [hhere, hst]

/-- The code pages that a settle of an entry covers. -/
def State.settleSet (s : State) (ix : Nat) : List Nat :=
  if (List.range 16).all fun k => (mget s.nfc.homes ((s.mapE ix).home, k)).isNone then List.range 16
  else (List.range 16).filter fun k => (s.mapE ix).cpSt k == 1 || (s.mapE ix).cpSt k == 3

/-- The settle that starts. -/
def State.newSettle (s : State) (f : Nat) (x : Frame) (ix : Nat) : Settle :=
  ⟨(f, 0), x.obj, x.tp, (s.mapE ix).home, s.settleSet ix, (List.range 16).filter fun k => (s.mapE ix).cpSt k == 1,
    (s.settleSet ix).map fun k => (k, sentinelLines (s.cpLines f k) []), 0, [], [], sc0⟩

/-- SETTLE_SEQ taken and the charged code pages SETTLING. -/
def State.settling (s : State) (ix : Nat) : State :=
  (s.wr .SETTLE_SEQ (s.rd .SETTLE_SEQ + 1)).each ((List.range 16).filter fun k => (s.mapE ix).cpSt k == 1) (State.setCpAt · ix 2)

theorem State.startSettle_eq {s : State} {f : Nat} {x : Frame} {o : Obj} (hl : s.fch.lines = []) (hm : s.fch.mrs = [])
    (hflip : s.fl .FLIP_ARM = false) (hmark : ∀ e ∈ s.dram, e.2.st ≠ .marked) :
    s.startSettle f x o false [] [] =
      ((s.settling (o.mapBase + x.tp)).dreq (1024 * f) 1024 false .stl sc0).addJob (s.newSettle f x (o.mapBase + x.tp)) := by
  have hset : (s.wr .SETTLE_SEQ (s.rd .SETTLE_SEQ + 1)).each ((List.range 16).filter fun k => (s.mapE (o.mapBase + x.tp)).cpSt k == 1)
      (fun u k => (u.settleSnoop f k sc0).setMap (o.mapBase + x.tp) ((u.mapE (o.mapBase + x.tp)).setCp k 2)) = s.settling (o.mapBase + x.tp) :=
    State.settling_eq f _ sc0 _ _ hl hm
  obtain ⟨m, hmd, -, -⟩ := (State.setCps_facts (o.mapBase + x.tp) 2 ((List.range 16).filter fun k => (s.mapE (o.mapBase + x.tp)).cpSt k == 1)
    (s.wr .SETTLE_SEQ (s.rd .SETTLE_SEQ + 1))).1
  have hsettling : s.settling (o.mapBase + x.tp) = { s.wr .SETTLE_SEQ (s.rd .SETTLE_SEQ + 1) with md := { s.md with fmap := m } } := hmd
  obtain ⟨u, hu⟩ : ∃ u, u = (s.settling (o.mapBase + x.tp)).dreq (1024 * f) 1024 false .stl sc0 := ⟨_, rfl⟩
  have hudram : u.dram = s.dram := by rw [hu, hsettling]; rfl
  have huflip : u.fl .FLIP_ARM = false := by
    rw [← hflip, hu, hsettling]
    exact State.fl_eq (State.rdi_wri_ne s (.inl (by decide)))
  have hprobe : u.each (List.range 16) (fun v k => v.probeCp f k 0 []) = u :=
    State.each_const _ fun k => State.probeCp_none huflip (by rw [hudram]; exact hmark) _ _ _
  have hcp : ∀ k, u.cpLines f k = s.cpLines f k := fun k => by rw [State.cpLines, State.cpLines, hudram]
  rw [State.startSettle]
  simp only [Bool.false_eq_true, if_false, hset, ← hu, hprobe, hcp]
  rfl

theorem State.settling_facts {s : State} (hok : regsOk s.regs = true) (hseq : s.rd .SETTLE_SEQ + 1 < 2 ^ 64) (ix : Nat) :
    (s.settling ix).rd .SETTLE_SEQ = s.rd .SETTLE_SEQ + 1 ∧ regsOk (s.settling ix).regs = true ∧ (s.settling ix).stl = s.stl ∧
      ∀ c, c < 16 → (s.mapE ix).cpSt c = 1 → ((s.settling ix).mapE ix).cpSt c = 2 := by
  obtain ⟨⟨m, hmd, -, -⟩, hcp⟩ := State.setCps_facts ix 2 ((List.range 16).filter fun k => (s.mapE ix).cpSt k == 1)
    (s.wr .SETTLE_SEQ (s.rd .SETTLE_SEQ + 1))
  have hregs : (s.settling ix).regs = (s.wr .SETTLE_SEQ (s.rd .SETTLE_SEQ + 1)).regs := by
    have h := congrArg State.regs hmd
    exact h
  have hstl : (s.settling ix).stl = s.stl := by
    have h := congrArg State.stl hmd
    exact h
  refine ⟨?_, ?_, hstl, fun c hc hst => ?_⟩
  · rw [State.rd_congr hregs, State.rd_wr hok rfl hseq]
  · rw [hregs]
    exact regsOk_wr hok _ _
  · refine (hcp c).trans (if_pos (List.mem_filter.2 ⟨List.mem_range.2 hc, ?_⟩))
    rw [hst]
    rfl

theorem exec_stripeSettleStart {s : State} {f k : Nat} {x : Frame} {o : Obj} (hrun : s.draining = false) (hreh : s.fgv.rehearsal = false)
    (hjobs : s.stl.jobs = []) (hmax : 0 < s.rd .SETTLE_MAX) (hrec : s.int.recode = []) (hnext : s.settleNext = some (f, k)) (hf : f < 2 ^ 30)
    (hx : s.frame? f = some x) (ho : s.obj? x.obj = some o) :
    exec (.stripeSettleStart [] []) s = .next (s.startSettle f x o false [] []) := by
  have hmeta : isMetaKey (f, k) = false := decide_eq_false (by omega)
  have hps : s.settleProgs [] = [] := rfl
  have hopen : s.openBlocks [] = s := rfl
  have hif : ¬(s.draining || s.fgv.rehearsal || decide (s.rd .SETTLE_MAX ≤ s.stl.jobs.length) || decide (65536 ≤ s.int.recode.length)) = true := by
    simp [hrun, hreh, hjobs, hrec]
    omega
  rw [exec, execStripeSettleStart, if_neg hif, hnext]
  simp only [hps, List.filter_nil, hopen, hmeta, Bool.false_eq_true, if_false, hx, ho]

/-! ### The end (Table 11.2 step 5) -/

theorem State.releaseKey_facts {s : State} (hok : regsOk s.regs = true) (d : Nat) (k : Key) :
    (s.releaseKey d k).rd .FLOAT_PAGES = s.rd .FLOAT_PAGES - 1 ∧
      Only [.stl] [(.FLOAT_PAGES, 0), (.CHARGE, d)] s (s.releaseKey d k) ∧ regsOk (s.releaseKey d k).regs = true ∧
      (s.releaseKey d k).stl.jobs = s.stl.jobs := by
  have hlt : s.rd .FLOAT_PAGES < 2 ^ 32 := State.rdi_full_lt hok (f := .FLOAT_PAGES) rfl 0
  refine ⟨?_, (((Only.refl _ _ s).wr (by simp)).wri (by simp)).mk_stl (by simp), regsOk_wri (regsOk_wr hok _ _) _ _ _, rfl⟩
  have hregs : (s.releaseKey d k).regs = ((s.wr .FLOAT_PAGES (s.rd .FLOAT_PAGES - 1)).wri .CHARGE d (s.rdi .CHARGE d - 1)).regs := rfl
  rw [State.rd_congr hregs, State.rd, State.rdi_wri_ne _ (.inl (by decide)), ← State.rd, State.rd_wr hok rfl (show s.rd .FLOAT_PAGES - 1 < 2 ^ 32 by omega)]

theorem State.rebuildMembers_facts (s : State) (l : List Nat) (home : Nat) :
    In (Fld.REBUILD_LEFT.foot ||| Part.nfc.foot) s (s.each l fun s m => s.rebuildMember (memberChan home m) home) ∧
      (s.each l fun s m => s.rebuildMember (memberChan home m) home).nfc.homes = s.nfc.homes ∧
      (s.each l fun s m => s.rebuildMember (memberChan home m) home).nfc.vault = s.nfc.vault := by
  refine ⟨State.each_in (In.refl _ s) fun _ _ h => State.rebuildMember_in h (by decide), ?_, ?_⟩
  · refine State.each_same (g := fun u => u.nfc.homes) l s fun u m => ?_
    rw [State.rebuildMember]
    split <;> rfl
  · refine State.each_same (g := fun u => u.nfc.vault) l s fun u m => ?_
    rw [State.rebuildMember]
    split <;> rfl

/-- One SETTLING code page of a settle that succeeded is settled. -/
def State.cpSettled (s : State) (obj tp ix k : Nat) : State :=
  let s := { s with nfc := { s.nfc with vault := mdel s.nfc.vault (obj, 16 * tp + k) } }
  let f := (s.mapE ix).frame
  let s := s.releaseCp ix k 0
  { s with int := { s.int with recode := s.int.recode ++ [(f, k)] } }

theorem State.cpSettled_facts {s : State} (hok : regsOk s.regs = true) (obj tp ix k : Nat) (hcp : (s.mapE ix).cpSt k = 2) :
    (s.cpSettled obj tp ix k).rd .FLOAT_PAGES = s.rd .FLOAT_PAGES - 1 ∧ regsOk (s.cpSettled obj tp ix k).regs = true ∧
      (∀ f i, .FLOAT_PAGES ≠ f → .CHARGE ≠ f → (s.cpSettled obj tp ix k).rdi f i = s.rdi f i) ∧
      (s.cpSettled obj tp ix k).stl.jobs = s.stl.jobs ∧ (s.cpSettled obj tp ix k).nfc.homes = s.nfc.homes ∧
      ∀ j, ((s.cpSettled obj tp ix k).mapE ix).cpSt j = if j = k then 0 else (s.mapE ix).cpSt j := by
  obtain ⟨u, hu⟩ : ∃ u : State, u = { s with nfc := { s.nfc with vault := mdel s.nfc.vault (obj, 16 * tp + k) } } := ⟨_, rfl⟩
  have humap : u.mapE ix = s.mapE ix := by rw [hu]; rfl
  have huregs : u.regs = s.regs := by rw [hu]
  have hustl : u.stl = s.stl := by rw [hu]
  have huh : u.nfc.homes = s.nfc.homes := by rw [hu]
  obtain ⟨d, hd⟩ : ∃ d, u.releaseCp ix k 0 = (u.setCpAt ix 0 k).releaseKey d ((u.mapE ix).frame, k) := by
    refine ⟨((u.frame? (u.mapE ix).frame).map fun e => e.chgDom k).getD 0, ?_⟩
    rw [State.releaseCp, if_pos (.inr (by rw [humap]; exact hcp))]
    rfl
  obtain ⟨v, hv⟩ : ∃ v, v = u.setCpAt ix 0 k := ⟨_, rfl⟩
  have hvregs : v.regs = s.regs := by rw [hv]; exact huregs
  have hvstl : v.stl = s.stl := by rw [hv]; exact hustl
  have hvh : v.nfc.homes = s.nfc.homes := by rw [hv]; exact huh
  have hvcp : ∀ j, (v.mapE ix).cpSt j = if j = k then 0 else (s.mapE ix).cpSt j := fun j => by
    rw [hv, State.setCpAt_cpSt, humap]
  obtain ⟨hfloat, hin, hwok, hjobs⟩ := State.releaseKey_facts (s := v) (by rw [hvregs]; exact hok) d ((u.mapE ix).frame, k)
  rw [← hv] at hd
  generalize v.releaseKey d ((u.mapE ix).frame, k) = w at hd hfloat hin hwok hjobs
  have hregs : (s.cpSettled obj tp ix k).regs = w.regs := by rw [← hd, hu]; rfl
  have hmd : (s.cpSettled obj tp ix k).md = w.md := by rw [← hd, hu]; rfl
  have hstl : (s.cpSettled obj tp ix k).stl = w.stl := by rw [← hd, hu]; rfl
  have hnfc : (s.cpSettled obj tp ix k).nfc = w.nfc := by rw [← hd, hu]; rfl
  have hwmd : w.md = v.md := hin.parts .md (by decide)
  have hwnfc : w.nfc = v.nfc := hin.parts .nfc (by decide)
  refine ⟨?_, ?_, fun f i h1 h2 => ?_, ?_, ?_, fun j => ?_⟩
  · rw [State.rd_congr hregs, hfloat, State.rd_congr hvregs]
  · rw [hregs]
    exact hwok
  · rw [State.rdi_congr hregs, hin.regs f i (by simp [h1.symm, h2.symm]), State.rdi_congr hvregs]
  · rw [hstl, hjobs, hvstl]
  · rw [hnfc, hwnfc, hvh]
  · rw [← hvcp, State.mapE, State.mapE, hmd, hwmd]

end Sys2Proof.Machine
end

section
/-! A settle's end, its failure and re-homing (11_flash_backing.md R281 to R283, R286): O33. -/

namespace Sys2Proof.Machine

/-! ### The end of a settle of one code page -/

theorem State.storePending_congr {s t : State} (hm : t.fch.mrs = s.fch.mrs) (hq : t.fch.mq = s.fch.mq) (f k : Nat) :
    t.storePending f k = s.storePending f k := by
  rw [State.storePending, State.storePending, hm, hq]

/-- The home holds the settled code page, and rebuilding members are programmed. -/
def State.programmed (s : State) (home k : Nat) (ls : List (Nat × DLine)) : State :=
  State.each { s with nfc := { s.nfc with homes := mput s.nfc.homes (home, k) ls } } [k, 16, 17] fun s m =>
    s.rebuildMember (memberChan home m) home

theorem State.programmed_facts (s : State) (home k : Nat) (ls : List (Nat × DLine)) :
    In (Fld.REBUILD_LEFT.foot ||| Part.nfc.foot) s (s.programmed home k ls) ∧
      mget (s.programmed home k ls).nfc.homes (home, k) = some ls := by
  obtain ⟨u, hu⟩ : ∃ u : State, u = { s with nfc := { s.nfc with homes := mput s.nfc.homes (home, k) ls } } := ⟨_, rfl⟩
  have hsu : In (Fld.REBUILD_LEFT.foot ||| Part.nfc.foot) s u := by
    rw [hu]
    exact InMk.upd (In.refl _ s) rfl rfl rfl fun p hp => by
      cases p
      case nfc => exact absurd hp (by decide)
      all_goals rfl
  obtain ⟨hin, hhomes, -⟩ := State.rebuildMembers_facts u [k, 16, 17] home
  have heq : s.programmed home k ls = u.each [k, 16, 17] fun s m => s.rebuildMember (memberChan home m) home := by rw [hu]; rfl
  rw [heq]
  refine ⟨hsu.trans hin, ?_⟩
  rw [hhomes, hu]
  exact mget_mput _ _ _

theorem State.pageSettled_one {s : State} {j : Settle} {o : Obj} {k : Nat} {ls : List (Nat × DLine)}
    (ho : s.obj? j.obj = some o) (htp : j.tp < o.pages) (hhome : (s.mapE (o.mapBase + j.tp)).home = j.home) (hpos : j.home ≠ 0)
    (hcps : j.cps = [k]) (himg : j.img = [(k, ls)]) (hst : (s.mapE (o.mapBase + j.tp)).cpSt k = 2)
    (hpend : s.storePending (s.mapE (o.mapBase + j.tp)).frame k = false) :
    ∃ u : State, s.pageSettled j = ((u.wr .RECODE_LEFT u.int.recode.length).rehomeCount).vaultRegs ∧
      u = ((s.dropJob j).programmed j.home k ls).cpSettled j.obj j.tp (o.mapBase + j.tp) k := by
  refine ⟨_, ?_, rfl⟩
  obtain ⟨a, ha⟩ : ∃ a, a = s.dropJob j := ⟨_, rfl⟩
  have hao : a.obj? j.obj = some o := by rw [ha]; exact ho
  have hamap : a.mapE (o.mapBase + j.tp) = s.mapE (o.mapBase + j.tp) := by rw [ha]; rfl
  have hafch : a.fch = s.fch := by rw [ha]; rfl
  obtain ⟨hin, -⟩ := a.programmed_facts j.home k ls
  obtain ⟨b, hb⟩ : ∃ b, b = a.programmed j.home k ls := ⟨_, rfl⟩
  rw [← hb] at hin
  have hbmd : b.md = a.md := hin.parts .md (by decide)
  have hbfch : b.fch = a.fch := hin.parts .fch (by decide)
  have hbmap : b.mapE (o.mapBase + j.tp) = s.mapE (o.mapBase + j.tp) := by rw [← hamap, State.mapE, State.mapE, hbmd]
  have hif : ¬((s.mapE (o.mapBase + j.tp)).home ≠ j.home ∨ (s.mapE (o.mapBase + j.tp)).home = 0 ∨ o.pages ≤ j.tp) := by
    rw [hhome]
    omega
  have hprog : State.each { a with nfc := { a.nfc with homes := mput a.nfc.homes (j.home, k) ls } } ([k] ++ [16, 17])
      (fun s m => s.rebuildMember (memberChan j.home m) j.home) = b := hb.symm
  have hnopend : State.storePending { b with nfc := { b.nfc with vault := mdel b.nfc.vault (j.obj, 16 * j.tp + k) } }
      (s.mapE (o.mapBase + j.tp)).frame k = false := by
    refine Eq.trans (State.storePending_congr (s := s) ?_ ?_ _ _) hpend
    · exact congrArg FchS.mrs (hbfch.trans hafch)
    · exact congrArg FchS.mq (hbfch.trans hafch)
  rw [State.pageSettled]
  simp only [← ha, hao, hamap, if_neg hif, himg, hcps, List.foldl_cons, List.foldl_nil, hprog]
  simp only [State.each, List.foldl_cons, List.foldl_nil, hbmap, hst, hnopend, decide_true, Bool.and_false, Bool.false_eq_true, if_false, if_true]
  have hfr : (State.mapE { b with nfc := { b.nfc with vault := mdel b.nfc.vault (j.obj, 16 * j.tp + k) } } (o.mapBase + j.tp)).frame =
      (s.mapE (o.mapBase + j.tp)).frame := congrArg MapE.frame hbmap
  rw [← hfr, ← hb]
  rfl

theorem exec_stripeSettleDone {s : State} {f : Nat} {j : Settle} (hrun : s.draining = false) (hjobs : s.stl.jobs = [j])
    (hkey : j.key = (f, 0)) (hf : f < 2 ^ 30) (hheld : ∀ p ∈ j.progs, p.held = false) :
    exec (.stripeSettleDone f 0) s = .next ((s.count .SETTLE_CNT 0 .STL_FLAGS_CNT_OVF 0 0).pageSettled j) := by
  have hfind : s.stl.jobs.find? (fun j => j.key == (f, 0)) = some j := by simp [hjobs, hkey]
  have hnone : j.progs.any (·.held) = false := List.any_eq_false.2 fun p hp => by rw [hheld p hp]; decide
  have hmeta : isMetaKey j.key = false := by
    rw [hkey]
    exact decide_eq_false (by omega)
  have hne : ¬j.key.1 = 2 ^ 30 := by
    rw [hkey]
    omega
  simp only [exec, execStripeSettleDone, hfind, hrun, hnone, Bool.or_self, Bool.false_eq_true, if_false, if_neg hne, hmeta]

theorem State.dropJob_facts {s : State} {j : Settle} (hok : regsOk s.regs = true) (hjobs : s.stl.jobs = [j]) :
    (s.dropJob j).stl.jobs = [] ∧ regsOk (s.dropJob j).regs = true ∧ (∀ f i, .SETTLES_ACTIVE ≠ f → (s.dropJob j).rdi f i = s.rdi f i) := by
  refine ⟨?_, regsOk_wr (s := { s with stl := { s.stl with jobs := s.stl.jobs.erase j } }) hok _ _, fun f i hf => ?_⟩
  · rw [State.dropJob, State.wr_stl, hjobs]
    exact List.erase_cons_head j []
  · exact State.rdi_wri_ne { s with stl := { s.stl with jobs := s.stl.jobs.erase j } } (.inl hf)

/-! ### A failed program (R282, R286) -/

theorem State.abandonSettle_one {s : State} {j : Settle} {o : Obj} {k : Nat} (hok : regsOk s.regs = true) (hjobs : s.stl.jobs = [j])
    (ho : s.obj? j.obj = some o) (hchg : j.chg = [k]) (hst : (s.mapE (o.mapBase + j.tp)).cpSt k = 2) :
    (s.abandonSettle j).stl.jobs = [] ∧ ((s.abandonSettle j).mapE (o.mapBase + j.tp)).cpSt k = 1 ∧
      ∀ f i, .SETTLES_ACTIVE ≠ f → (s.abandonSettle j).rdi f i = s.rdi f i := by
  obtain ⟨hnone, -, hregs⟩ := State.dropJob_facts hok hjobs
  obtain ⟨a, ha⟩ : ∃ a, a = s.dropJob j := ⟨_, rfl⟩
  have hao : a.obj? j.obj = some o := by rw [ha]; exact ho
  have hast : (a.mapE (o.mapBase + j.tp)).cpSt k = 2 := by rw [ha]; exact hst
  have heq : s.abandonSettle j = a.setCpAt (o.mapBase + j.tp) 1 k := by
    rw [State.abandonSettle]
    simp only [← ha, hao, hchg, State.each, List.foldl_cons, List.foldl_nil, hast, if_true]
    rfl
  rw [heq]
  rw [← ha] at hnone hregs
  refine ⟨hnone, ?_, hregs⟩
  rw [State.setCpAt_cpSt, if_pos rfl]

/-! ### Re-homing at once (R283) -/

/-- One vaulted code page goes home. -/
def State.rehomeCp (s : State) (obj tp home ix k : Nat) : State :=
  let ls := (mget s.nfc.vault (obj, 16 * tp + k)).getD []
  let s := { s with nfc := { s.nfc with homes := mput s.nfc.homes (home, k) ls
                                        vault := mdel s.nfc.vault (obj, 16 * tp + k) } }
  s.setMap ix ((s.mapE ix).setCp k 0)

theorem State.rehomeCp_facts {s : State} (obj tp home ix k : Nat) (hv : mwf s.nfc.vault = true) :
    mwf (s.rehomeCp obj tp home ix k).nfc.vault = true ∧
      mget (s.rehomeCp obj tp home ix k).nfc.homes (home, k) = some ((mget s.nfc.vault (obj, 16 * tp + k)).getD []) ∧
      mget (s.rehomeCp obj tp home ix k).nfc.vault (obj, 16 * tp + k) = none ∧
      (∀ c, c ≠ k → mget (s.rehomeCp obj tp home ix k).nfc.homes (home, c) = mget s.nfc.homes (home, c) ∧
        mget (s.rehomeCp obj tp home ix k).nfc.vault (obj, 16 * tp + c) = mget s.nfc.vault (obj, 16 * tp + c)) ∧
      ∀ c, ((s.rehomeCp obj tp home ix k).mapE ix).cpSt c = if c = k then 0 else (s.mapE ix).cpSt c := by
  refine ⟨mwf_mdel _ hv, mget_mput _ _ _, mget_mdel _ hv, fun c hc => ⟨?_, ?_⟩, fun c => ?_⟩
  · exact mget_mput_ne _ _ _ _ (fun h => hc (Prod.mk.inj h).2.symm)
  · exact mget_mdel_ne _ _ _ (fun h => hc (by have := (Prod.mk.inj h).2; omega))
  · rw [State.rehomeCp]
    dsimp only
    rw [State.mapE_setMap, if_pos rfl, MapE.cpSt_setCp]
    rfl

/-- What re-homing a list of code pages leaves. -/
theorem State.rehomeCps_facts (obj tp home ix : Nat) : ∀ (l : List Nat) (s : State), l.Nodup → mwf s.nfc.vault = true →
    (∀ c ∈ l, mget (s.each l (State.rehomeCp · obj tp home ix)).nfc.homes (home, c) = some ((mget s.nfc.vault (obj, 16 * tp + c)).getD []) ∧
      mget (s.each l (State.rehomeCp · obj tp home ix)).nfc.vault (obj, 16 * tp + c) = none ∧
      ((s.each l (State.rehomeCp · obj tp home ix)).mapE ix).cpSt c = 0) ∧
    ∀ c, c ∉ l → mget (s.each l (State.rehomeCp · obj tp home ix)).nfc.homes (home, c) = mget s.nfc.homes (home, c) ∧
      mget (s.each l (State.rehomeCp · obj tp home ix)).nfc.vault (obj, 16 * tp + c) = mget s.nfc.vault (obj, 16 * tp + c) ∧
      ((s.each l (State.rehomeCp · obj tp home ix)).mapE ix).cpSt c = (s.mapE ix).cpSt c := by
  intro l
  induction l with
  | nil => exact fun _ _ _ => ⟨fun c hc => absurd hc (by simp), fun _ _ => ⟨rfl, rfl, rfl⟩⟩
  | cons k l ih =>
    intro s hnd hv
    obtain ⟨hk, hnd⟩ := List.nodup_cons.1 hnd
    obtain ⟨hv', hhome, hvault, hother, hcp⟩ := s.rehomeCp_facts obj tp home ix k hv
    obtain ⟨hin, hout⟩ := ih (s.rehomeCp obj tp home ix k) hnd hv'
    have hstep : s.each (k :: l) (State.rehomeCp · obj tp home ix) =
        (s.rehomeCp obj tp home ix k).each l (State.rehomeCp · obj tp home ix) := rfl
    rw [hstep]
    refine ⟨fun c hc => ?_, fun c hc => ?_⟩
    · obtain rfl | hc := List.mem_cons.1 hc
      · obtain ⟨h1, h2, h3⟩ := hout c hk
        exact ⟨h1.trans hhome, h2.trans hvault, h3.trans ((hcp c).trans (if_pos rfl))⟩
      · obtain ⟨h1, h2, h3⟩ := hin c hc
        have hne : c ≠ k := fun h => hk (h ▸ hc)
        exact ⟨by rw [h1, (hother c hne).2], h2, h3⟩
    · have hne : c ≠ k := fun h => hc (h ▸ List.mem_cons_self)
      obtain ⟨h1, h2, h3⟩ := hout c fun h => hc (List.mem_cons_of_mem _ h)
      exact ⟨h1.trans (hother c hne).1, h2.trans (hother c hne).2, h3.trans ((hcp c).trans (if_neg hne))⟩

/-- The code pages of an entry that lie in the vault. -/
def MapE.vaulted (e : MapE) : List Nat := (List.range 16).filter fun k => e.cpSt k == 3

theorem exec_rehome {s : State} {obj tp : Nat} {o : Obj} (hrun : s.draining = false) (hreh : s.fgv.rehearsal = false)
    (hready : s.fl .MEDIA_READY = true) (ho : s.obj? obj = some o) (htp : tp < o.pages) (hst : (s.mapE (o.mapBase + tp)).st = .t2)
    (hmove : s.moveOf obj tp = none) (hvault : (s.mapE (o.mapBase + tp)).vaulted ≠ []) :
    exec (.rehome obj tp []) s = .next (((((s.wr .SETTLE_SEQ (s.rd .SETTLE_SEQ + 1)).each (s.mapE (o.mapBase + tp)).vaulted
      (State.rehomeCp · obj tp (s.mapE (o.mapBase + tp)).home (o.mapBase + tp))).each ((s.mapE (o.mapBase + tp)).vaulted ++ [16, 17])
        fun s' m => s'.rebuildMember (memberChan (s.mapE (o.mapBase + tp)).home m) (s.mapE (o.mapBase + tp)).home).rehomeCount).vaultRegs) := by
  have hmr : ¬s.rd .MEDIA_READY = 0 := by simpa [State.fl] using hready
  have hemp : ((s.mapE (o.mapBase + tp)).vaulted).isEmpty = false := by simpa using hvault
  have hall : (s.mapE (o.mapBase + tp)).vaulted.filter (fun k => !([] : List Nat).contains k) = (s.mapE (o.mapBase + tp)).vaulted :=
    List.filter_eq_self.2 fun _ _ => rfl
  have hif : ¬(s.draining || s.fgv.rehearsal || (s.mapE (o.mapBase + tp)).vaulted.isEmpty || decide (o.pages ≤ tp) ||
      decide (s.rd .MEDIA_READY = 0)) = true := by
    simp only [hrun, hreh, hemp, Bool.or_eq_true, decide_eq_true_eq]
    simp [hmr]
    omega
  have hgo : s.moveOf obj tp = none := hmove
  rw [exec, execRehome, ho]
  simp only [← MapE.vaulted.eq_1, if_neg hif, hst, hgo, Option.isNone_none, and_self, if_true, hall]
  rfl

/-- Settles O33: step by step through Table 11.2, each code page by its own two bits of the entry. -/
theorem settlesRunThrough : Obligations.SettlesRunThrough := by
  unfold Obligations.SettlesRunThrough
  refine ⟨?start, ?done, ?fail, ?rehome⟩
  case start =>
    intro s f k ix x o hinv _ hrun hreh hjobs hmax hrec hnext hf hx ho hix hl hm hflip hmark hseq
    subst hix
    obtain ⟨hsq, hok, hstl, hcp⟩ := State.settling_facts hinv.1 hseq (o.mapBase + x.tp)
    obtain ⟨u, hu⟩ : ∃ u, u = (s.settling (o.mapBase + x.tp)).dreq (1024 * f) 1024 false .stl sc0 := ⟨_, rfl⟩
    have hexec : exec (.stripeSettleStart [] []) s = .next (u.addJob (s.newSettle f x (o.mapBase + x.tp))) := by
      rw [exec_stripeSettleStart hrun hreh hjobs hmax hrec hnext hf hx ho, State.startSettle_eq hl hm hflip hmark, hu]
    have huregs : u.regs = (s.settling (o.mapBase + x.tp)).regs := by rw [hu]; rfl
    have humd : u.md = (s.settling (o.mapBase + x.tp)).md := by rw [hu]; rfl
    have hujobs : u.stl.jobs = [] := by
      rw [hu]
      exact (congrArg StlS.jobs hstl).trans hjobs
    have huok : regsOk u.regs = true := by rw [huregs]; exact hok
    generalize hj : s.newSettle f x (o.mapBase + x.tp) = j at hexec
    obtain ⟨v, hv⟩ : ∃ v : State, v = { u with stl := { u.stl with jobs := u.stl.jobs ++ [j] } } := ⟨_, rfl⟩
    have hadd : u.addJob j = v.wr .SETTLES_ACTIVE v.stl.jobs.length := by rw [hv]; rfl
    have hvjobs : v.stl.jobs = [j] := by rw [hv, hujobs]; rfl
    have hvregs : v.regs = u.regs := by rw [hv]
    have hvmd : v.md = u.md := by rw [hv]
    rw [hadd, hvjobs] at hexec
    refine ⟨_, j, hexec, hvjobs, by rw [← hj]; rfl, by rw [← hj]; rfl, by rw [← hj]; rfl, by rw [← hj]; rfl, ?_, ?_, fun c hc hst => ⟨?_, ?_, ?_⟩⟩
    · rw [State.rd_wr_ne _ (by decide), State.rd_congr (hvregs.trans huregs), hsq]
    · exact State.rd_wr (by rw [hvregs]; exact huok) rfl (show 1 < 2 ^ Fld.SETTLES_ACTIVE.spec.width by decide)
    · rw [← hcp c hc hst]
      exact congrArg (fun m : MetaData => ((mget m.fmap (o.mapBase + x.tp, 0)).getD zeroPage).cpSt c) (hvmd.trans humd)
    · rw [← hj]
      exact List.mem_filter.2 ⟨List.mem_range.2 hc, by rw [hst]; rfl⟩
    · rw [← hj]
      refine List.mem_map.2 ⟨c, ?_, rfl⟩
      rw [State.settleSet]
      split
      · exact List.mem_range.2 hc
      · exact List.mem_filter.2 ⟨List.mem_range.2 hc, by rw [hst]; rfl⟩
  case done =>
    intro s j o f k ix ls hinv _ _ hrun hjobs hkey hf ho htp hix hhome hpos hcps hk himg hst hheld hpend
    subst hix
    obtain ⟨a, ha⟩ : ∃ a, a = s.count .SETTLE_CNT 0 .STL_FLAGS_CNT_OVF 0 0 := ⟨_, rfl⟩
    have honly := s.count_only .SETTLE_CNT 0 .STL_FLAGS_CNT_OVF 0 0
    have hcnt := State.count_rdi hinv.1 (f := .SETTLE_CNT) (ovf := .STL_FLAGS_CNT_OVF) rfl (by decide) (by decide) 0 0 0
    have haok : regsOk a.regs = true := by rw [ha]; exact regsOk_count hinv.1 _ _ _ _ _
    have hamd : a.md = s.md := by rw [ha]; exact honly.parts .md (by decide)
    have hastl : a.stl = s.stl := by rw [ha]; exact honly.parts .stl (by decide)
    have hafch : a.fch = s.fch := by rw [ha]; exact honly.parts .fch (by decide)
    have hamap : a.mapE (o.mapBase + j.tp) = s.mapE (o.mapBase + j.tp) := by rw [State.mapE, State.mapE, hamd]
    have hafloat : a.rd .FLOAT_PAGES = s.rd .FLOAT_PAGES := by
      rw [ha]
      exact honly.regs .FLOAT_PAGES 0 (by decide)
    have hajobs : a.stl.jobs = [j] := by rw [hastl]; exact hjobs
    obtain ⟨u, heq, hu⟩ := State.pageSettled_one (s := a) (k := k) (ls := ls) (by rw [State.obj?, hamd]; exact ho) htp
      (by rw [hamap]; exact hhome) (by rw [← hhome] at hpos ⊢; exact hpos) hcps himg (by rw [hamap]; exact hst)
      (by rw [hamap, State.storePending_congr (congrArg FchS.mrs hafch) (congrArg FchS.mq hafch)]; exact hpend)
    obtain ⟨hnone, hdok, hdregs⟩ := State.dropJob_facts haok hajobs
    obtain ⟨hprog, hph⟩ := (a.dropJob j).programmed_facts j.home k ls
    have hpmd : ((a.dropJob j).programmed j.home k ls).md = s.md := (hprog.parts .md (by decide)).trans hamd
    have hpstl : ((a.dropJob j).programmed j.home k ls).stl = (a.dropJob j).stl := hprog.parts .stl (by decide)
    have hpmap : ((a.dropJob j).programmed j.home k ls).mapE (o.mapBase + j.tp) = s.mapE (o.mapBase + j.tp) := by
      rw [State.mapE, State.mapE, hpmd]
    obtain ⟨hfloat, -, hregs, hsj, hsh, hcp⟩ := State.cpSettled_facts (hprog.regsOk hdok) j.obj j.tp (o.mapBase + j.tp) k
      (by rw [hpmap]; exact hst)
    rw [← hu] at hfloat hregs hsj hsh hcp
    have htail : In (Fld.RECODE_LEFT.foot ||| State.rehomeCount_foot ||| State.vaultRegs_foot) u
        ((u.wr .RECODE_LEFT u.int.recode.length).rehomeCount).vaultRegs :=
      State.vaultRegs_in (State.rehomeCount_in (State.wr_in (In.refl _ u) (by decide)) (by decide)) (by decide)
    refine ⟨_, by rw [exec_stripeSettleDone hrun hjobs hkey hf hheld, ← ha, heq], ?_, ?_, ?_, ?_, ?_, fun c hc hne => ?_⟩
    · rw [htail.parts .stl (by decide), hsj, hpstl, hnone]
    · rw [State.mapE, htail.parts .md (by decide)]
      exact (hcp k).trans (if_pos rfl)
    · rw [htail.parts .nfc (by decide), hsh, hph]
    · rw [State.rd, htail.regs .FLOAT_PAGES 0 (by decide), ← State.rd, hfloat, State.rd, hprog.regs .FLOAT_PAGES 0 (by decide),
        hdregs _ _ (by decide), ← State.rd, hafloat]
    · rw [State.rd, htail.regs .SETTLE_CNT 0 (by decide), hregs _ _ (by decide) (by decide), hprog.regs .SETTLE_CNT 0 (by decide),
        hdregs _ _ (by decide), ha]
      exact hcnt
    · rw [State.mapE, htail.parts .md (by decide)]
      exact ((hcp c).trans (if_neg hne)).trans (by rw [hpmap])
  case fail =>
    intro s ch k ix j o hinv _ hch hjobs ho hix hchg hk hst hfit
    subst hix
    obtain ⟨a, ha⟩ : ∃ a, a = s.count .PROG_FAIL_CNT ch .NFC_CH_FLAGS_CNT_OVF ch 2 := ⟨_, rfl⟩
    have honly := s.count_only .PROG_FAIL_CNT ch .NFC_CH_FLAGS_CNT_OVF ch 2
    have haok : regsOk a.regs = true := by rw [ha]; exact regsOk_count hinv.1 _ _ _ _ _
    have habad : a.rdi .BAD_BLK ch = s.rdi .BAD_BLK ch := by
      rw [ha]
      exact State.count_rdi_of_ne _ _ _ _ _ _ (by decide) (by decide) (by decide) _
    have hacnt : a.rdi .PROG_FAIL_CNT ch = min (2 ^ 32 - 1) (s.rdi .PROG_FAIL_CNT ch + 1) := by
      rw [ha]
      exact State.count_rdi hinv.1 (f := .PROG_FAIL_CNT) rfl (by decide) (by decide) _ _ _
    obtain ⟨hbad, hothers, hregs⟩ := State.badBlock_facts (s := a) (c := ch) haok (by rw [habad]; exact hfit)
    have hbin : In State.badBlock_foot a (a.badBlock ch) := State.badBlock_in (In.refl _ a) (Foot.le_refl _)
    obtain ⟨b, hb⟩ : ∃ b, b = a.badBlock ch := ⟨_, rfl⟩
    rw [← hb] at hbad hothers hbin
    have hbok : regsOk b.regs = true := hbin.regsOk haok
    have hbmd : b.md = s.md := (hbin.parts .md (by decide)).trans (by rw [ha]; exact honly.parts .md (by decide))
    have hbstl : b.stl = s.stl := (hbin.parts .stl (by decide)).trans (by rw [ha]; exact honly.parts .stl (by decide))
    have hbjobs : b.stl.jobs = [j] := by rw [hbstl]; exact hjobs
    obtain ⟨hnone, hcp, hkept⟩ := State.abandonSettle_one hbok hbjobs (k := k) (by rw [State.obj?, hbmd]; exact ho) hchg
      (by rw [State.mapE, hbmd]; exact hst)
    have hfind : b.stl.jobs.find? (fun i => i.key == j.key) = some j := by simp [hbjobs]
    refine ⟨b.abandonSettle j, ?_, hnone, hcp, ?_, ?_⟩
    · rw [exec, execNandProgramFail, if_neg (by omega)]
      simp only [← ha, ← hb, Option.bind_some, hfind]
    · rw [hkept _ _ (by decide), hbad, habad]
    · rw [hkept _ _ (by decide), hothers _ _ (by decide), hacnt]
  case rehome =>
    intro s obj tp o e hinv _ _ hvwf hrun hreh hready ho htp he hst hmove hsome
    subst he
    obtain ⟨k0, hk0, hk3⟩ := hsome
    have hmem (k : Nat) (hk : k < 16) (h3 : (s.mapE (o.mapBase + tp)).cpSt k = 3) : k ∈ (s.mapE (o.mapBase + tp)).vaulted :=
      List.mem_filter.2 ⟨List.mem_range.2 hk, by rw [h3]; rfl⟩
    refine ⟨_, exec_rehome hrun hreh hready ho htp hst hmove (List.ne_nil_of_mem (hmem k0 hk0 hk3)), fun k ls hk h3 hls => ?_⟩
    obtain ⟨a, ha⟩ : ∃ a, a = (s.wr .SETTLE_SEQ (s.rd .SETTLE_SEQ + 1)).each (s.mapE (o.mapBase + tp)).vaulted
      (State.rehomeCp · obj tp (s.mapE (o.mapBase + tp)).home (o.mapBase + tp)) := ⟨_, rfl⟩
    obtain ⟨hgone, -⟩ := State.rehomeCps_facts obj tp (s.mapE (o.mapBase + tp)).home (o.mapBase + tp) (s.mapE (o.mapBase + tp)).vaulted
      (s.wr .SETTLE_SEQ (s.rd .SETTLE_SEQ + 1)) (List.nodup_range.filter _) hvwf
    obtain ⟨hhome, hvault, hcp⟩ := hgone k (hmem k hk h3)
    rw [← ha] at hhome hvault hcp ⊢
    obtain ⟨hin, hbh, hbv⟩ := State.rebuildMembers_facts a ((s.mapE (o.mapBase + tp)).vaulted ++ [16, 17]) (s.mapE (o.mapBase + tp)).home
    generalize a.each ((s.mapE (o.mapBase + tp)).vaulted ++ [16, 17])
      (fun s' m => s'.rebuildMember (memberChan (s.mapE (o.mapBase + tp)).home m) (s.mapE (o.mapBase + tp)).home) = b at hin hbh hbv
    have htail : In (State.rehomeCount_foot ||| State.vaultRegs_foot) b b.rehomeCount.vaultRegs :=
      State.vaultRegs_in (State.rehomeCount_in (In.refl _ b) (by decide)) (by decide)
    have hmd : b.rehomeCount.vaultRegs.md = a.md := (htail.parts .md (by decide)).trans (hin.parts .md (by decide))
    have hnfc : b.rehomeCount.vaultRegs.nfc = b.nfc := htail.parts .nfc (by decide)
    refine ⟨?_, ?_, ?_⟩
    · rw [← hcp, State.mapE, State.mapE, hmd]
    · rw [hnfc, hbh, hhome]
      exact congrArg (fun x : Option (List (Nat × DLine)) => some (x.getD [])) hls
    · rw [hnfc, hbv, hvault]

end Sys2Proof.Machine
end

section
/-! Which moves begin, and the reports of the frame pool (08_page_movement.md): O26. -/

namespace Sys2Proof.Machine

/-! ### A promotion begins (R197 LOAD) -/

/-- The state of a promotion that has begun on a page. -/
def Move.begun (m : Move) (src0 : PgSt) (f : Nat) : Move := { m with st := .load, src0 := src0, frame := f, aside := false }

theorem State.takeFrame_facts {s : State} (hok : regsOk s.regs = true) (e : Frame) :
    (s.takeFrame e).md = s.md ∧ (s.takeFrame e).tpe = { s.tpe with frames := mput s.tpe.frames (s.nextFrame, 0) e } ∧
      (s.takeFrame e).rd .FREE_FRAMES = s.rd .FREE_FRAMES - 1 := by
  have hlt : s.rd .FREE_FRAMES < 2 ^ 28 := State.rdi_full_lt hok (f := .FREE_FRAMES) rfl 0
  have hfit : s.rd .FREE_FRAMES - 1 < 2 ^ 28 := by omega
  obtain ⟨a, ha⟩ : ∃ a, a = s.wr .FREE_FRAMES (s.rd .FREE_FRAMES - 1) := ⟨_, rfl⟩
  obtain ⟨c, hc⟩ : ∃ c, c = (a.wri .TALLY e.acct (a.rdi .TALLY e.acct + 1)).ceilFlag e.acct := ⟨_, rfl⟩
  have hin : In (Fld.FREE_FRAMES.foot ||| Fld.TALLY.foot ||| State.ceilFlag_foot) s c := by
    rw [hc, ha]
    exact State.ceilFlag_in (State.wri_in (State.wr_in (In.refl _ s) (by decide)) (by decide)) (by decide)
  have heq : s.takeFrame e = c.setFrame s.nextFrame e := by
    rw [hc, ha]
    rfl
  have hctpe : c.tpe = s.tpe := hin.parts .tpe (by decide)
  have hcfree : c.rd .FREE_FRAMES = s.rd .FREE_FRAMES - 1 := by
    rw [State.rd, hc, State.ceilFlag, State.setfi_rdi_ne _ (by decide), State.rdi_wri_ne _ (.inl (by decide)), ha]
    exact State.rd_wr hok rfl hfit
  rw [heq]
  refine ⟨hin.parts .md (by decide), ?_, hcfree⟩
  rw [State.setFrame, hctpe]

theorem State.beginLoad_facts {s : State} {m : Move} (hok : regsOk s.regs = true) (hmoves : s.tpe.moves = [m]) (acct use : Nat) :
    (s.beginLoad m acct use).tpe.moves = [m.begun (s.mapE (s.moveIx m)).st s.nextFrame] ∧
      (s.beginLoad m acct use).mapE (s.moveIx m) = { s.mapE (s.moveIx m) with st := .fetching, frame := s.nextFrame } ∧
      (s.beginLoad m acct use).rd .FREE_FRAMES = s.rd .FREE_FRAMES - 1 ∧
      (s.beginLoad m acct use).frame? s.nextFrame = some ⟨m.obj, m.tp, 0, acct, use, false, 0⟩ := by
  obtain ⟨hmd, htpe, hfree⟩ := State.takeFrame_facts hok ⟨m.obj, m.tp, 0, acct, use, false, 0⟩
  obtain ⟨a, ha⟩ : ∃ a, a = s.takeFrame ⟨m.obj, m.tp, 0, acct, use, false, 0⟩ := ⟨_, rfl⟩
  rw [← ha] at hmd htpe hfree
  obtain ⟨b, hb⟩ : ∃ b, b = (a.setMap (s.moveIx m) { s.mapE (s.moveIx m) with st := .fetching, frame := s.nextFrame }).updMove m.id
    fun x => x.begun (s.mapE (s.moveIx m)).st s.nextFrame := ⟨_, rfl⟩
  have heq : s.beginLoad m acct use = b.moveRegs := by rw [hb, ha]; rfl
  have hbmoves : b.tpe.moves = a.tpe.moves.map fun x => if x.id = m.id then x.begun (s.mapE (s.moveIx m)).st s.nextFrame else x := by
    rw [hb]
    rfl
  have hbframes : b.tpe.frames = a.tpe.frames := by rw [hb]; rfl
  have hmvtpe : b.moveRegs.tpe = b.tpe := rfl
  have hbregs : b.regs = a.regs := by rw [hb]; rfl
  rw [heq]
  refine ⟨?_, ?_, ?_, ?_⟩
  · rw [hmvtpe, hbmoves, htpe]
    show s.tpe.moves.map _ = _
    rw [hmoves, List.map_singleton, if_pos rfl]
  · show b.mapE (s.moveIx m) = _
    rw [hb]
    exact (State.mapE_setMap a _ _ _).trans (if_pos rfl)
  · rw [State.moveRegs, State.rd_wr_ne _ (by decide), State.rd_wr_ne _ (by decide), State.rd_congr hbregs, hfree]
  · rw [State.frame?, hmvtpe, hbframes, htpe]
    exact mget_mput _ _ _

theorem State.beginOther_place {s : State} {m : Move} (hstreams : s.tpe.streams = []) (hmoves : s.tpe.moves = [m])
    (hst : m.st = .queued) (hsrc : m.src = .place) (hgo : s.judge m = .go) (words : List (List Nat)) :
    s.beginOther words = s.beginMove m := by
  have hsort : ∀ n, sortHeads n s = s := by
    intro n
    induction n with
    | zero => rfl
    | succ n ih => rw [sortHeads, hstreams]; exact ih
  have hreread : ∀ f : State → Stream → State, s.each s.tpe.streams f = s := fun f => by rw [hstreams]; rfl
  have hends : s.streamEnds = s := by rw [State.streamEnds, hstreams]; rfl
  have hplace : (m.st == MSt.queued && m.placement && s.judge m == Ready.go) = true := by
    rw [hst, hgo, Move.placement, hsrc]
    rfl
  have hended : (m.st == MSt.queued && m.placement && (s.judge m == Ready.doneNow || s.judge m == Ready.cancelled)) = false := by
    rw [hgo]
    exact Bool.and_false _
  have hone : ∀ b : Bool, earliest ([] ++ (if b then [m] else []) ++ [m]) = some m := by
    rintro (_ | _)
    · rfl
    · simp [earliest]
  rw [State.beginOther]
  dsimp only
  rw [hreread, hsort, hends]
  simp only [hstreams, hmoves, List.filterMap_nil, List.find?_cons, hplace, List.filter_cons, hended, List.filter_nil,
    Bool.false_eq_true, if_false, Option.toList_some]
  rw [show s.each [] _ = s from rfl]
  rw [hone]

theorem exec_moveBegin {s : State} {m : Move} (hrun : s.draining = false) (hmoves : s.tpe.moves = [m]) (hst : m.st = .queued)
    (hstreams : s.tpe.streams = []) (hretire : s.int.retire = []) (hres : s.rd .DF_RESERVE < 4096) (hfree : 0 < s.rd .FREE_FRAMES)
    (hsrc : m.src = .demand ∨ (m.src = .place ∧ s.judge m = .go ∧ s.rd .FREE_LOW ≤ s.rd .FREE_FRAMES)) (ws : List (List Nat)) :
    exec (.moveBegin ws) s = .next (s.beginMove m) := by
  have hused : s.trackerUsed = 0 := by simp [State.trackerUsed, hmoves, hst]
  have hcan : s.canDemand = true := by simp [State.canDemand, hused, hfree]
  rw [exec, execMoveBegin, hrun, if_neg Bool.false_ne_true, hcan]
  obtain hsrc | ⟨hsrc, hgo, hlow⟩ := hsrc
  · have hfirst : s.firstDemand = some m := by simp [State.firstDemand, hmoves, hst, hsrc]
    rw [hfirst]
  · have hfirst : s.firstDemand = none := by simp [State.firstDemand, hmoves, hsrc]
    have hother : s.otherEntry = true := by simp [State.otherEntry, hused, hmoves, hst, hres]
    have hevict : s.evictNow = none := by
      rw [State.evictNow, State.retireVictim, hretire, if_neg (by omega)]
      rfl
    rw [hfirst]
    simp only [hother, Bool.not_true, Bool.false_eq_true, if_false, hevict, State.beginOther_place hstreams hmoves hst hsrc hgo]

/-! ### A stream's next entry (R206) -/

theorem exec_streamEntryStart {s : State} {d sid : Nat} {x : Stream} {e : SEnt} {o : Obj} (hrun : s.draining = false)
    (hstreams : s.tpe.streams = [x]) (hd : x.dom = d) (hsid : x.sid = sid) (hents : x.ents = [e]) (hstart : e.started = false)
    (hup : e.demote = false) (hone : e.pages = 1) (ho : s.own? e.obj = some o) (htp : e.ofs / 65536 < o.pages)
    (hwant : s.wantT1 e.obj o (e.ofs / 65536) = .move) :
    exec (.streamEntryStart d sid) s = .next (({ s with tpe := { s.tpe with
      streams := [{ x with ents := [{ e with started := true }] }] } }).queuePromote e.obj o (e.ofs / 65536) (.stream d sid 0) d e.deadline) := by
  have hupd : s.updStream d sid (fun t => { t with ents := [{ e with started := true }] }) =
      { s with tpe := { s.tpe with streams := [{ x with ents := [{ e with started := true }] }] } } := by
    simp only [State.updStream, hstreams, List.map_cons, List.map_nil, hd, hsid, and_self, if_true]
  obtain ⟨u, hu⟩ : ∃ u : State, u = { s with tpe := { s.tpe with streams := [{ x with ents := [{ e with started := true }] }] } } := ⟨_, rfl⟩
  have huo : u.own? e.obj = some o := by rw [hu]; exact ho
  have huwant : u.wantT1 e.obj o (e.ofs / 65536) = .move := by rw [hu]; exact hwant
  have hpage : u.queueEntryPage x 0 e o (e.ofs / 65536) = u.queuePromote e.obj o (e.ofs / 65536) (.stream d sid 0) d e.deadline := by
    rw [State.queueEntryPage]
    simp only [hup, Bool.false_eq_true, if_false, huwant, hd, hsid]
  obtain ⟨v, hv⟩ : ∃ v, v = u.queuePromote e.obj o (e.ofs / 65536) (.stream d sid 0) d e.deadline := ⟨_, rfl⟩
  have hends : v.streamEnds = v := by
    have hvs : v.tpe.streams = [{ x with ents := [{ e with started := true }] }] := by rw [hv, hu]; rfl
    have hmine : v.tpe.moves.any (fun m => m.streams.contains (x.dom, x.sid)) = true := by
      refine List.any_eq_true.2 ⟨⟨u.tpe.moveId, e.obj, e.ofs / 65536, .stream d sid 0, [], .queued,
        (u.mapE (o.mapBase + e.ofs / 65536)).st, .t1, 0, d, e.deadline, false, false, false⟩, ?_, ?_⟩
      · rw [hv]
        exact List.mem_append_right _ List.mem_cons_self
      · simp [Move.streams, hd, hsid]
    rw [State.streamEnds, hvs]
    show v.streamEnd _ = v
    rw [State.streamEnd, if_pos (Bool.or_eq_true_iff.2 (.inr hmine))]
  have hfind : s.tpe.streams.find? (fun t => t.dom == d && t.sid == sid) = some x := by simp [hstreams, hd, hsid]
  have hnext : ((List.range x.ents.length).zip x.ents).find? (fun y => !y.2.started) = some (0, e) := by
    simp [hents, hstart, List.range_succ]
  have hes : ((List.range x.ents.length).zip x.ents).map (fun y => if y.1 = 0 then { y.2 with started := true } else y.2) =
      [{ e with started := true }] := by
    simp [hents, List.range_succ]
  rw [exec, execStreamEntryStart, if_neg (by simp [hrun]), hfind]
  dsimp only
  rw [hnext]
  dsimp only
  rw [hes, hupd, ← hu, huo]
  dsimp only
  rw [hone, List.range_one, State.each, List.foldl_cons, List.foldl_nil, Nat.add_zero, if_pos htp, hpage, ← hv, hends]

/-! ### Compaction (R169) -/

theorem State.compactNext_one {s : State} {id : Nat} {o : Obj} (hl : s.md.ledger = [((id, 0), o)]) (hpos : 0 < o.pages)
    (hfit : o.pages ≤ mapEntries) (hbase : 0 < o.mapBase) : s.compactNext = some (id, o, 0) := by
  have hrun : ({ s.md with ledger := [] } : MetaData).findRun o.pages = some 0 := by
    have hfree : runFree [] 0 o.pages = true := by simp [runFree, hfit]
    rw [MetaData.findRun, if_neg (by omega)]
    simp [MetaData.runs, hfree]
  rw [State.compactNext, hl, List.findSome?_cons]
  simp only [mdel_single, if_neg (show ¬o.pages = 0 by omega), hrun, if_pos hbase]

theorem foldl_map_none_ledger (l : List Nat) (base : Nat) (m : MetaData) :
    ((l.map fun tp => JOp.map (base + tp) none).foldl JOp.apply m).ledger = m.ledger :=
  foldl_ledger (fun op h => by
    obtain ⟨_, _, rfl⟩ := List.mem_map.1 h
    rfl) m

/-- Entries written at rising indices: each is read back. -/
theorem foldl_map_some_fmap (f : Nat → MapE) : ∀ (l : List Nat) (m : MetaData), l.Nodup → ∀ tp ∈ l,
    mget (((l.map fun x => JOp.map x (some (f x)))).foldl JOp.apply m).fmap (tp, 0) = some (f tp) := by
  intro l
  induction l using List.reverseRecOn with
  | nil => exact fun _ _ _ h => absurd h (by simp)
  | append_singleton l a ih =>
    intro m hnd tp htp
    rw [List.map_append, List.foldl_append]
    by_cases h : tp = a
    · subst h
      exact mget_mput _ _ _
    · have hl : tp ∈ l := (List.mem_append.1 htp).resolve_right fun h' => h (List.mem_singleton.1 h')
      exact (mget_mput_ne _ _ _ _ fun hk => h (Prod.mk.inj hk).1.symm).trans (ih m (List.nodup_append.1 hnd).1 tp hl)

/-- The journal entry of a run that has moved to the start of the map. -/
def State.compactOps (s : State) (id : Nat) (o : Obj) : List JOp :=
  (List.range o.pages).map (fun tp => JOp.map (o.mapBase + tp) none)
    ++ ((List.range o.pages).map fun tp => (tp, s.mapE (o.mapBase + tp))).map (fun e => JOp.map (0 + e.1) (some e.2))
    ++ [.obj id (some { o with mapBase := 0 })]

theorem State.compactOps_facts (s : State) (id : Nat) (o : Obj) (m : MetaData) :
    mget ((s.compactOps id o).foldl JOp.apply m).ledger (id, 0) = some { o with mapBase := 0 } ∧
      ∀ tp, tp < o.pages → mget ((s.compactOps id o).foldl JOp.apply m).fmap (tp, 0) = some (s.mapE (o.mapBase + tp)) := by
  have hold : ((List.range o.pages).map fun tp => (tp, s.mapE (o.mapBase + tp))).map (fun e => JOp.map (0 + e.1) (some e.2)) =
      (List.range o.pages).map fun tp => JOp.map tp (some (s.mapE (o.mapBase + tp))) := by
    rw [List.map_map]
    exact List.map_congr_left fun tp _ => by simp
  rw [State.compactOps, hold, List.foldl_append, List.foldl_append]
  refine ⟨mget_mput _ _ _, fun tp htp => ?_⟩
  exact foldl_map_some_fmap (fun tp => s.mapE (o.mapBase + tp)) _ _ List.nodup_range tp (List.mem_range.2 htp)

theorem exec_compact_last {s : State} {id : Nat} {o : Obj} (hrun : s.draining = false) (hcan : s.canJournal = true)
    (hnext : s.compactNext = some (id, o, 0)) (hsmall : o.pages ≤ 4096) :
    ∃ n, exec .runCompactionStep s = .next ((State.mapDreq { s with tpe := { s.tpe with compact := none } } (o.mapBase + n) (0 + n)
      (o.pages - n)).journal (s.compactOps id o)) := by
  have hlast (n : Nat) : ¬n + 4096 < o.pages := by omega
  rcases hc : s.tpe.compact with _ | ⟨i, t, n⟩
  · refine ⟨0, ?_⟩
    rw [exec, execRunCompactionStep, hnext]
    simp only [hc, hrun, Bool.false_eq_true, if_false, if_neg (hlast _), hcan, Bool.not_true]
    rfl
  · refine ⟨if i = id ∧ t = 0 then n else 0, ?_⟩
    rw [exec, execRunCompactionStep, hnext]
    simp only [hc, hrun, Bool.false_eq_true, if_false, if_neg (hlast _), hcan, Bool.not_true]
    rfl

/-- Settles O26, row by row; compaction by what its one journal entry does to the metadata. -/
theorem movesBegin : Obligations.MovesBegin := by
  unfold Obligations.MovesBegin
  refine ⟨?begin, ?entry, ?bound, ?dry, ?checkpoint, ?compact, ?clear⟩
  case begin =>
    intro s m ix ws hinv hrun hmoves hst hdest hstreams hretire hres hfree hsrc hix
    have hload : s.beginMove m = s.beginLoad m m.dom (if ((s.obj? m.obj).map fun o => o.kind == 2).getD false then 3 else 1) := by
      rw [State.beginMove, if_pos (by rw [hdest]; rfl)]
    obtain ⟨hmv, hmap, hff, hframe⟩ := State.beginLoad_facts (m := m) hinv.1 hmoves m.dom
      (if ((s.obj? m.obj).map fun o => o.kind == 2).getD false then 3 else 1)
    rw [← hload] at hmv hmap hff hframe
    have hix : ix = s.moveIx m := hix
    subst hix
    exact ⟨_, exec_moveBegin hrun hmoves hst hstreams hretire hres hfree hsrc ws, hmv, by rw [hmap], by rw [hmap], hff, by rw [hframe]; rfl⟩
  case entry =>
    intro s d sid x e o hrun hstreams hd hsid hents hstart hup hone ho htp hwant
    exact ⟨_, exec_streamEntryStart hrun hstreams hd hsid hents hstart hup hone ho htp hwant, rfl, rfl⟩
  case bound =>
    intro s obj tp m hinv hm hsrc
    refine ⟨(s.setf .OVER_BOUND true).record clsWarn m.dom 191 (item 1 obj ++ item 0xD tp), ?_, ?_, ?_⟩
    · simp [exec, execOverBound, hm, hsrc]
    · rw [State.fl, State.rd, State.record_rdi _ _ _ _ _ (by decide)]
      exact State.fl_setf hinv.1 rfl (by decide) true
    · exact (State.record_only _ _ _ _ _).parts .tpe (by decide)
  case dry =>
    intro s hinv hdry hfree hwait
    obtain ⟨a, ha⟩ : ∃ a, a = ((s.setf .POOL_DRY true).count .POOL_DRY_CNT 0 .TPE_FLAGS_CNT_OVF 0 2).record clsWarn 0 183 [] := ⟨_, rfl⟩
    have haok : regsOk a.regs = true := by
      rw [ha]
      exact regsOk_record (regsOk_count (regsOk_setf hinv.1 _ _) _ _ _ _ _) _ _ _ _
    refine ⟨a.alert blkTPE, ?_, ?_, State.alert_sets haok (by decide)⟩
    · rw [exec, execPoolDry, ha, if_neg]
      obtain h | h := hwait <;> simp [hdry, hfree, h]
    · rw [State.fl, State.rd, State.alert_rdi _ _ (by decide), ha, State.record_rdi _ _ _ _ _ (by decide),
        State.count_rdi_of_ne _ _ _ _ _ _ (by decide) (by decide) (by decide)]
      exact State.fl_setf hinv.1 rfl (by decide) true
  case checkpoint =>
    intro s hrun
    rw [exec, execResidencyCheckpoint, if_neg (by simp [hrun])]
  case compact =>
    intro s id o hrun hcan hl hpos hfit hbase
    have hnext := State.compactNext_one hl hpos hfit hbase
    refine ⟨fun hsmall => ?_, fun hlarge hnone => ?_⟩
    · obtain ⟨n, hexec⟩ := exec_compact_last hrun hcan hnext hsmall
      obtain ⟨a, ha⟩ : ∃ a, a = State.mapDreq { s with tpe := { s.tpe with compact := none } } (o.mapBase + n) (0 + n) (o.pages - n) := ⟨_, rfl⟩
      rw [← ha] at hexec
      obtain ⟨hobj, hmap⟩ := s.compactOps_facts id o a.md
      refine ⟨_, hexec, ?_, fun tp htp => ?_, ?_⟩
      · rw [State.obj?, State.journal_md, hobj]
      · rw [State.mapE, State.journal_md, hmap tp htp]
        rfl
      · rw [(a.journal_frame _).parts .dram (by decide), ha]
        rfl
    · refine ⟨State.mapDreq { s with tpe := { s.tpe with compact := some (id, 0, 0 + 4096) } } (o.mapBase + 0) (0 + 0) 4096, ?_, rfl, rfl, rfl⟩
      rw [exec, execRunCompactionStep, hnext]
      simp only [hnone, hrun, Bool.false_eq_true, if_false, if_pos (show 0 + 4096 < o.pages by omega)]
  case clear =>
    intro s hinv hrun
    refine ⟨s.wr .DF_MAX_US 0, ?_, State.rd_wr hinv.1 rfl (by decide)⟩
    rw [exec, execTpeCnt2Write, State.barWrite_of_running hrun]

end Sys2Proof.Machine
end

section
/-! The mirror while nothing waits: its state, a refused bring-up and the loss of its link (13_twin_mirror.md R322, R325, R338, R339). -/

namespace Sys2Proof.Machine

theorem State.resolveFences_none {s : State} (h : s.fences = []) (judge : Bool) : s.resolveFences judge = s := by
  rw [State.resolveFences, h]
  rfl

/-- The registers of MIR_STATUS that a change of the mirror's state writes. -/
def mirStateRegs : List (Fld × Nat) := (.STATE, 0) :: (.SOLO_CNT, 0) :: (.MIR_FLAGS_CNT_OVF, 0) :: dbkRegs

theorem State.mirEval_only {s : State} (hf : s.fences = []) : Only [.dbk] mirStateRegs s s.mirEval := by
  have hwr : Only [.dbk] mirStateRegs s (s.wr .STATE s.mirTable) := (Only.refl _ _ s).wr (by simp [mirStateRegs])
  rw [State.mirEval]
  dsimp only
  split
  · exact Only.refl _ _ s
  · split
    · have h := hwr.trans (((s.wr .STATE s.mirTable).count_only .SOLO_CNT 0 .MIR_FLAGS_CNT_OVF 0 5).mono (qs := [.dbk]) (gs := mirStateRegs)
        (fun _ hx => hx) (fun x hx => List.mem_cons_of_mem _ hx))
      rwa [State.resolveFences_none (h.fences_eq (by decide) |>.trans hf)]
    · rwa [State.resolveFences_none (hwr.fences_eq (by decide) |>.trans hf)]

/-- With no fence and nothing waiting a re-evaluation writes only MIR_STATUS and its count (R338). -/
theorem State.mirChange_only {s : State} (hw : s.waits = []) (hf : s.fences = []) : Only [.dbk] mirStateRegs s s.mirChange := by
  have h := State.mirEval_only hf
  have hnone : s.mirEval.rerun (fun w => w.why == .fence) = s.mirEval :=
    State.rerun_none fun w hm => absurd hm (by rw [h.waits_eq (by decide), hw]; exact List.not_mem_nil)
  rw [State.mirChange]
  split
  · exact h
  · rwa [hnone]

theorem State.mirChange_regsOk {s : State} (hok : regsOk s.regs = true) : regsOk s.mirChange.regs = true :=
  (State.mirChange_in (ft := State.mirChange_foot) (In.refl _ s) (Foot.le_refl _)).regsOk hok

/-- A refused bring-up names its cause, is down and raises the MIR alert (R322). -/
theorem State.refuse_facts {s : State} (hok : regsOk s.regs = true) {c : Nat} (hc : c < 8) :
    (s.refuse c).rd .ID_FAIL = c ∧ (s.refuse c).mir = { s.mir with bring := .down, refused := true, pend := none, peer := none } ∧
      (s.refuse c).waits = s.waits ∧ (s.refuse c).fences = s.fences ∧ bit ((s.refuse c).rd .ALERT_CAUSE) blkMIR = true := by
  obtain ⟨a, ha⟩ : ∃ a, a = ((s.wr .ID_FAIL c).setMir fun m => { m with bring := .down, refused := true, pend := none, peer := none }) := ⟨_, rfl⟩
  have haregs : a.regs = (s.wr .ID_FAIL c).regs := by rw [ha]; rfl
  have haok : regsOk a.regs = true := by
    rw [haregs]
    exact regsOk_wr hok _ _
  have heq : s.refuse c = (a.record clsError 0 322 (item 8 c)).alert blkMIR := by rw [State.refuse, ha]
  have hrec := a.record_only clsError 0 322 (item 8 c)
  obtain ⟨b, hb⟩ : ∃ b, b = a.record clsError 0 322 (item 8 c) := ⟨_, rfl⟩
  have hbok : regsOk b.regs = true := by
    rw [hb]
    exact regsOk_record haok _ _ _ _
  rw [← hb] at heq hrec
  have hal := b.alert_only blkMIR
  rw [heq]
  refine ⟨?_, ?_, ?_, ?_, State.alert_sets hbok (by decide)⟩
  · rw [hal.rd_eq (by decide), hrec.rd_eq (by decide), State.rd_congr haregs]
    exact State.rd_wr hok rfl hc
  · rw [hal.mir_eq (by decide), hrec.mir_eq (by decide), ha]
    rfl
  · rw [hal.waits_eq (by decide), hrec.waits_eq (by decide), ha]
    rfl
  · rw [hal.fences_eq (by decide), hrec.fences_eq (by decide), ha]
    rfl

theorem State.refuse_change {s : State} (hok : regsOk s.regs = true) {c : Nat} (hc : c < 8) (hw : s.waits = []) (hf : s.fences = []) :
    (s.refuse c).mirChange.rd .ID_FAIL = c ∧
      (s.refuse c).mirChange.mir = { s.mir with bring := .down, refused := true, pend := none, peer := none } ∧
      bit ((s.refuse c).mirChange.rd .ALERT_CAUSE) blkMIR = true := by
  obtain ⟨hid, hmir, hwaits, hfences, hal⟩ := State.refuse_facts hok hc
  have h := State.mirChange_only (hwaits.trans hw) (hfences.trans hf)
  exact ⟨by rw [h.rd_eq (by decide), hid], by rw [h.mir_eq (by decide), hmir], by rw [h.rd_eq (by decide), hal]⟩

/-! ### The loss of the link -/

/-- The mirror's part of an 8120 that declares its link lost, before the staged frames are released. -/
def MirS.unlinked (m : MirS) : MirS :=
  { m with
    retx := [], sendq := [], opn := [], held := [], rxGap := [], tagRun := [], applied := []
    bring := .down, peer := none, pend := none, refused := false, phy := 0, phyHold := true
    pass := 0, passIds := [], toSend := [], inflight := [], rxPass := [], rxPassDone := false, rxDue := []
    need := [], fetches := [], flow := [], retry := [] }

/-- The same where none was staged. -/
def MirS.lost (m : MirS) : MirS := { m.unlinked with staged := [] }

theorem State.dropStaged_none {s : State} (h : s.mir.staged = []) : s.dropStaged = s.setMir fun m => { m with staged := [] } := by
  rw [State.dropStaged, h]
  rfl

/-- The PHYs of the mirror ports are held down. -/
def State.physDown (s : State) : State := s.each ((linksOf (s.mir.phy &&& s.mir.ports)).filter (· < 2)) fun s p => s.setfi .PHY_UP (2 * p) false

theorem State.physDown_only (s : State) : Only [] [(.PHY_UP, 0), (.PHY_UP, 2)] s s.physDown := by
  refine State.each_inv (P := Only [] [(.PHY_UP, 0), (.PHY_UP, 2)] s) _ (Only.refl _ _ s) fun u p hp hu => hu.setfi ?_
  have hlt : p < 2 := by simpa using (List.mem_filter.1 hp).2
  interval_cases p <;> simp

theorem State.physDown_regsOk {s : State} (hok : regsOk s.regs = true) : regsOk s.physDown.regs = true :=
  State.each_inv (P := fun u => regsOk u.regs = true) _ hok fun _ _ _ hu => regsOk_setfi hu _ _ _

/-- The registers that a lost link clears. -/
def State.unlinkRegs (s : State) : State :=
  ((((s.wr .RETX_RECORDS 0).wr .RESYNC_LEFT 0).setf .MIR_STATUS_LINK_UP false).setf .RESYNC_BUSY false).setf .FULL_RESYNC false

/-- What a lost link leaves where nothing was staged and nothing waits (R325, R339). -/
theorem State.linkLost_facts {s u : State} (hu : u = s.closeAll.recsToSolo) (hok : regsOk u.regs = true) (hst : u.mir.staged = [])
    (hw : u.waits = []) (hf : u.fences = []) (hup : s.fl .MIR_STATUS_LINK_UP = true) :
    (s.linkLost true).fl .MIR_STATUS_LINK_UP = false ∧ (s.linkLost true).mir = u.mir.lost ∧
      (s.linkLost true).rd .LINK_LOSS_CNT = min (2 ^ 32 - 1) (u.rd .LINK_LOSS_CNT + 1) ∧
      ∀ p, u.mir.phy = 0 → (s.linkLost true).fli .PHY_UP p = u.fli .PHY_UP p := by
  obtain ⟨a, ha⟩ : ∃ a, a = u.physDown := ⟨_, rfl⟩
  have hdown := u.physDown_only
  have haok : regsOk a.regs = true := by rw [ha]; exact State.physDown_regsOk hok
  rw [← ha] at hdown
  obtain ⟨b, hb⟩ : ∃ b : State, b = { a with mir := u.mir.lost } := ⟨_, rfl⟩
  have hbregs : b.regs = a.regs := by rw [hb]
  have hbmir : b.mir = u.mir.lost := by rw [hb]
  obtain ⟨c, hc⟩ : ∃ c, c = b.unlinkRegs := ⟨_, rfl⟩
  have hconly : Only [] [(.RETX_RECORDS, 0), (.RESYNC_LEFT, 0), (.MIR_STATUS_LINK_UP, 0), (.RESYNC_BUSY, 0), (.FULL_RESYNC, 0)] b c := by
    rw [hc]
    exact (((((Only.refl _ _ b).wr (by simp)).wr (by simp)).setf (by simp)).setf (by simp)).setf (by simp)
  have hbok : regsOk b.regs = true := by rw [hbregs]; exact haok
  have hcok : regsOk c.regs = true := by
    rw [hc]
    exact regsOk_setf (regsOk_setf (regsOk_setf (regsOk_wr (regsOk_wr hbok _ _) _ _) _ _) _ _) _ _
  have hclink : c.fl .MIR_STATUS_LINK_UP = false := by
    rw [hc, State.unlinkRegs, State.fl_setf_ne _ (by decide), State.fl_setf_ne _ (by decide)]
    exact State.fl_setf (regsOk_wr (regsOk_wr hbok _ _) _ _) rfl (by decide) false
  obtain ⟨d, hd⟩ : ∃ d, d = c.count .LINK_LOSS_CNT 0 .MIR_FLAGS_CNT_OVF 0 3 := ⟨_, rfl⟩
  have hcount := c.count_only .LINK_LOSS_CNT 0 .MIR_FLAGS_CNT_OVF 0 3
  have hloss := State.count_rdi hcok (f := .LINK_LOSS_CNT) (ovf := .MIR_FLAGS_CNT_OVF) rfl (by decide) (by decide) 0 0 3
  rw [← hd] at hcount hloss
  have hbw : b.waits = [] := by
    rw [hb]
    exact (hdown.waits_eq (by decide)).trans hw
  have hbf : b.fences = [] := by
    rw [hb]
    exact (hdown.fences_eq (by decide)).trans hf
  have hdw : d.waits = [] := (hcount.waits_eq (by decide)).trans ((hconly.waits_eq (by decide)).trans hbw)
  have hdf : d.fences = [] := (hcount.fences_eq (by decide)).trans ((hconly.fences_eq (by decide)).trans hbf)
  have hch := State.mirChange_only hdw hdf
  obtain ⟨e, he⟩ : ∃ e, e = d.mirChange := ⟨_, rfl⟩
  rw [← he] at hch
  have hew : e.waits = [] := (hch.waits_eq (by decide)).trans hdw
  have hrerun : ∀ p, e.rerun p = e := fun p => State.rerun_none fun w hm => absurd hm (by rw [hew]; exact List.not_mem_nil)
  have heq : s.linkLost true = e := by
    obtain ⟨a', ha'⟩ : ∃ a', a' = a.setMir MirS.unlinked := ⟨_, rfl⟩
    have hamir : a.mir = u.mir := hdown.mir_eq (by decide)
    have hstaged : a'.dropStaged = b := by
      rw [State.dropStaged_none (by rw [ha']; exact (congrArg MirS.staged hamir).trans hst), ha', hb, ← hamir]
      rfl
    have hlost : s.linkLost true = (((if s.fl .MIR_STATUS_LINK_UP then a'.dropStaged.unlinkRegs.count .LINK_LOSS_CNT 0 .MIR_FLAGS_CNT_OVF 0 3
        else a'.dropStaged.unlinkRegs).mirChange).mirRoom).rerun fun w => w.why == Why.resync := by
      rw [State.linkLost, ← hu, ha', ha]
      rfl
    rw [hlost, if_pos hup, hstaged, ← hc, ← hd, ← he, State.mirRoom, hrerun, hrerun]
  rw [heq]
  refine ⟨?_, ?_, ?_, fun p hp => ?_⟩
  · rw [hch.fl_eq (by decide), hcount.fl_eq (by decide), hclink]
  · rw [hch.mir_eq (by decide), hcount.mir_eq (by decide), hconly.mir_eq (by decide), hbmir]
  · rw [hch.rd_eq (by decide)]
    refine hloss.trans ?_
    rw [← State.rd, hconly.rd_eq (by decide), State.rd_congr hbregs, hdown.rd_eq (by decide)]
    rfl
  · have hnone : a = u := by
      rw [ha, State.physDown, hp, Nat.zero_and]
      rfl
    rw [hch.fli_eq (by simp [mirStateRegs, dbkRegs]), hcount.fli_eq (by simp [dbkRegs]), hconly.fli_eq (by simp), State.fli, State.fli,
      State.rdi_congr hbregs, hnone]

end Sys2Proof.Machine
end

section
/-! Bring-up of the mirror link (13_twin_mirror.md R321 to R325, R341, R492): O38. -/

namespace Sys2Proof.Machine

/-! ### HELLO -/

/-- HELLO leaves on each port of a list, and nothing else changes. -/
theorem State.hellos_eq : ∀ (l : List Nat) (s : State), s.each l (fun s p => s.send (.mirHello (s.helloOf p))) =
    { s with out := s.out ++ l.map fun p => Msg.mirHello (s.helloOf p) } := by
  intro l
  induction l with
  | nil => exact fun s => by rw [List.map_nil, List.append_nil]; rfl
  | cons p l ih =>
    intro s
    have hstep : s.each (p :: l) (fun s p => s.send (.mirHello (s.helloOf p))) =
      (s.send (.mirHello (s.helloOf p))).each l fun s p => s.send (.mirHello (s.helloOf p)) := rfl
    rw [hstep, ih, List.map_cons, List.append_cons]
    rfl

theorem State.sayHello_eq (s : State) :
    s.sayHello = { s with out := s.out ++ ((linksOf s.mirrorUp).filter (· < 2)).map fun p => Msg.mirHello (s.helloOf p) } :=
  State.hellos_eq _ s

theorem mem_linksOf {m p : Nat} (hp : p < 2) (hb : bit m p = true) : p ∈ (linksOf m).filter (· < 2) :=
  List.mem_filter.2 ⟨List.mem_filter.2 ⟨List.mem_range.2 (by omega), hb⟩, by simpa using hp⟩

theorem bit_and {a b p : Nat} (ha : bit a p = true) (hb : bit b p = true) : bit (a &&& b) p = true := by
  rw [bit] at ha hb ⊢
  rw [Nat.testBit_and, ha, hb]
  rfl

theorem bit_setBit_self (v p : Nat) : bit (setBit v p true) p = true := by rw [bit_setBit_eq, if_pos rfl]

/-- The network ports follow MIR_PORTS (R318). -/
theorem State.mirrorRoles_facts (s : State) :
    s.mirrorRoles.mir = { s.mir with ports := s.rd .MIR_PORTS, half := s.fl .E1_HALF } ∧
      Only [.mir] [(.MIRROR, 0), (.MIRROR, 1), (.MIRROR, 2), (.MIRROR, 3)] s s.mirrorRoles := by
  refine ⟨rfl, ?_⟩
  rw [State.mirrorRoles]
  exact (((((Only.refl _ _ s).mk_mir (by simp)).setfi (by simp)).setfi (by simp)).setfi (by simp)).setfi (by simp)

/-- Bring-up begins on a port of the selection (R321). -/
theorem State.bringUp_facts {s : State} {port : Nat} (hport : bit (s.rd .MIR_PORTS) port = true)
    (hw : s.waits = []) (hf : s.fences = []) :
    ∃ u : State, s.bringUp port = u.sayHello ∧ u.mir = { s.mir with
      ports := s.rd .MIR_PORTS, half := s.fl .E1_HALF, refused := false, bring := .hello, peer := none, pend := none } ∧
      ∀ p, u.fli .PHY_UP p = s.fli .PHY_UP p := by
  obtain ⟨a, ha⟩ : ∃ a, a = s.mirrorRoles := ⟨_, rfl⟩
  obtain ⟨hamir, haonly⟩ := s.mirrorRoles_facts
  rw [← ha] at hamir haonly
  have hch := State.mirChange_only ((haonly.waits_eq (by decide)).trans hw) ((haonly.fences_eq (by decide)).trans hf)
  obtain ⟨b, hb⟩ : ∃ b, b = a.mirChange := ⟨_, rfl⟩
  rw [← hb] at hch
  have hbmir : b.mir = { s.mir with ports := s.rd .MIR_PORTS, half := s.fl .E1_HALF } := (hch.mir_eq (by decide)).trans hamir
  have hbport : bit b.mir.ports port = true := by rw [hbmir]; exact hport
  obtain ⟨u, hu⟩ : ∃ u, u = b.setMir fun m => { m with refused := false, bring := .hello, peer := none, pend := none } := ⟨_, rfl⟩
  have hif : (s.mir.bring == Bring.down || bit (s.rd .MIR_PORTS) port) = true := by rw [hport, Bool.or_true]
  refine ⟨u, ?_, ?_, fun p => ?_⟩
  · rw [State.bringUp, if_pos hif, ← ha, ← hb, hbport, hu]
    rfl
  · rw [hu]
    exact congrArg (fun m : MirS => { m with refused := false, bring := .hello, peer := none, pend := none }) hbmir
  · have huregs : u.regs = b.regs := by rw [hu]; rfl
    rw [State.fli, State.rdi_congr huregs, ← State.fli, hch.fli_eq (by simp [mirStateRegs, dbkRegs]), haonly.fli_eq (by simp)]

/-! ### Refusals and step 5 -/

theorem exec_mirrorSpdm_refused {s : State} {h : Hello} {c : Nat} {ok : Bool} (hrun : s.draining = false) (hspdm : s.mir.bring = .spdm)
    (hpeer : s.mir.peer = some h) (hrng : s.fl .TRNG_FAIL = false) (hc : s.idCheck h ok = c) (hne : c ≠ 0) (x : Option Exch) :
    exec (.mirrorSpdm ok x) s = .next (s.refuse c).mirChange := by
  simp only [exec, execMirrorSpdm, hrun, hspdm, hpeer, hrng, Bool.false_eq_true, if_false, hc, ne_eq, hne, not_false_eq_true, if_true]

/-- What R322 finds first. -/
theorem State.idCheck_cause {s : State} {h : Hello} {c : Nat} {ok : Bool}
    (hc : (c = 1 ∧ ok = false) ∨ (c = 2 ∧ ok = true ∧ (s.rd .PAIR_ID = 0 ∨ s.rd .PAIR_ID ≠ h.pair)) ∨
      (c = 3 ∧ ok = true ∧ s.rd .PAIR_ID ≠ 0 ∧ s.rd .PAIR_ID = h.pair ∧ h.side = s.rd .ID_SIDE) ∨
      (c = 4 ∧ ok = true ∧ s.rd .PAIR_ID ≠ 0 ∧ s.rd .PAIR_ID = h.pair ∧ h.side ≠ s.rd .ID_SIDE ∧
        (s.mir.crossed = true ∨ h.ports ≠ s.mir.ports ∨ h.half ≠ s.mir.half))) : s.idCheck h ok = c ∧ c ≠ 0 ∧ c < 8 := by
  obtain ⟨rfl, rfl⟩ | ⟨rfl, rfl, hp⟩ | ⟨rfl, rfl, h0, hp, hs⟩ | ⟨rfl, rfl, h0, hp, hs, hx⟩ := hc
  · exact ⟨rfl, by decide, by decide⟩
  · have hif : (decide (s.rd .PAIR_ID = 0) || h.pair == 0 || s.rd .PAIR_ID != h.pair) = true := by
      obtain hp | hp := hp <;> simp [hp]
    exact ⟨by rw [State.idCheck]; simp [hif], by decide, by decide⟩
  · have hif : ¬(decide (s.rd .PAIR_ID = 0) || h.pair == 0 || s.rd .PAIR_ID != h.pair) = true := by simp [← hp, h0]
    exact ⟨by rw [State.idCheck, if_neg (by simp), if_neg hif, if_pos hs], by decide, by decide⟩
  · have hif : ¬(decide (s.rd .PAIR_ID = 0) || h.pair == 0 || s.rd .PAIR_ID != h.pair) = true := by simp [← hp, h0]
    have hif4 : (s.mir.crossed || h.ports != s.mir.ports || h.half != s.mir.half) = true := by
      obtain hx | hx | hx := hx <;> simp [hx]
    exact ⟨by rw [State.idCheck, if_neg (by simp), if_neg hif, if_neg hs, if_pos hif4], by decide, by decide⟩

theorem State.idCheck_pass {s : State} {h : Hello} (h0 : s.rd .PAIR_ID ≠ 0) (hp : s.rd .PAIR_ID = h.pair) (hs : h.side ≠ s.rd .ID_SIDE)
    (hx : s.mir.crossed = false) (hports : h.ports = s.mir.ports) (hhalf : h.half = s.mir.half) (huid : h.uid = s.rd .PARTNER_UID) :
    s.idCheck h true = 0 := by
  have hif : ¬(decide (s.rd .PAIR_ID = 0) || h.pair == 0 || s.rd .PAIR_ID != h.pair) = true := by simp [← hp, h0]
  rw [State.idCheck, if_neg (by simp), if_neg hif, if_neg hs, if_neg (by simp [hx, hports, hhalf]), if_neg (by simp [huid])]

/-- SENIOR as step 5 sets it (R323). -/
def State.seniorAfter (s : State) (h : Hello) : Bool :=
  if decide (s.rd .STATE = mirSolo) != decide (h.state = mirSolo) then decide (s.rd .STATE = mirSolo) else s.rd .ID_SIDE == 0

/-- The registers of PARTNER_UID, TOOK_OVER and ID_FAIL as step 5 leaves them. -/
def State.partnered (s : State) (h : Hello) : State :=
  ((((s.journal [.roles (s.seniorAfter h), .tookOver false]).setf .SENIOR (s.seniorAfter h)).wr .PARTNER_UID h.uid).setf .TOOK_OVER false).wr .ID_FAIL 0

/-- The link comes up: TWIN_APPLIED, LINK_UP and the registers of resync. -/
def State.linked (s : State) (m : MirS) (ssn : Nat) (full : Bool) (left : Nat) : State :=
  ((((({ s with mir := m }).wr .TWIN_APPLIED ssn).setf .MIR_STATUS_LINK_UP true).setf .RESYNC_BUSY true).setf .FULL_RESYNC full).wr .RESYNC_LEFT left

theorem State.step5_eq {s : State} {x : Exch} {h : Hello} (hours : s.mir.takenOver = []) (htheirs : x.taken = []) :
    ∃ m b n, s.step5 x h = ((s.partnered h).linked m x.ssn b n).ssnReserve.mirChange ∧ m.bring = .up ∧ m.pass = 1 := by
  refine ⟨?m, ?b, ?n, ?eq, ?up, ?pass⟩
  case eq =>
    rw [State.step5]
    simp only [hours, htheirs, List.filter_nil]
    rw [show ∀ u : State, (if h.state = mirSolo then u.each [] State.renewTaken else u) = u from fun u => by split <;> rfl]
    rfl
  all_goals rfl

/-- Step 5 where no object is held and none was taken over. -/
theorem State.step5_facts {s : State} {x : Exch} {h : Hello} (hok : regsOk s.regs = true)
    (hw : s.waits = []) (hf : s.fences = []) (hours : s.mir.takenOver = []) (htheirs : x.taken = []) :
    (s.step5 x h).mir.bring = .up ∧ (s.step5 x h).mir.pass = 1 ∧ (s.step5 x h).fl .MIR_STATUS_LINK_UP = true ∧
      (s.step5 x h).fl .RESYNC_BUSY = true ∧ (s.step5 x h).rd .PARTNER_UID = h.uid % 2 ^ 64 ∧ (s.step5 x h).rd .ID_FAIL = 0 ∧
      (s.step5 x h).fl .SENIOR = s.seniorAfter h := by
  obtain ⟨m, b, n, heq, hup, hpass⟩ := State.step5_eq (s := s) (h := h) hours htheirs
  obtain ⟨a, ha⟩ : ∃ a, a = s.journal [.roles (s.seniorAfter h), .tookOver false] := ⟨_, rfl⟩
  have hain : In State.journal_foot s a := by rw [ha]; exact s.journal_frame _
  have haok : regsOk a.regs = true := hain.regsOk hok
  obtain ⟨p, hp⟩ : ∃ p, p = s.partnered h := ⟨_, rfl⟩
  have hpeq : p = (((a.setf .SENIOR (s.seniorAfter h)).wr .PARTNER_UID h.uid).setf .TOOK_OVER false).wr .ID_FAIL 0 := by rw [hp, ha]; rfl
  have hsenok := regsOk_setf haok .SENIOR (s.seniorAfter h)
  have hpok : regsOk p.regs = true := by
    rw [hpeq]
    exact regsOk_wr (regsOk_setf (regsOk_wr hsenok _ _) _ _) _ _
  have hsenior : p.fl .SENIOR = s.seniorAfter h := by
    rw [hpeq, State.fl, State.rd_wr_ne _ (by decide), ← State.fl, State.fl_setf_ne _ (by decide), State.fl, State.rd_wr_ne _ (by decide), ← State.fl]
    exact State.fl_setf haok rfl (by decide) _
  have huid : p.rd .PARTNER_UID = h.uid % 2 ^ 64 := by
    rw [hpeq, State.rd_wr_ne _ (by decide), State.rd, State.setf_rdi_ne _ (by decide), State.wr, State.rdi_wri _ _ _ (regsOk_mwf hsenok)]
    exact Fld.store_full (f := .PARTNER_UID) rfl 0 h.uid
  have hfail : p.rd .ID_FAIL = 0 := by
    rw [hpeq]
    exact State.rd_wr (regsOk_setf (regsOk_wr hsenok _ _) _ _) rfl (by decide)
  have hpw : p.waits = [] := by rw [hpeq]; exact (hain.parts .waits (by decide)).trans hw
  have hpf : p.fences = [] := by rw [hpeq]; exact (hain.parts .fences (by decide)).trans hf
  rw [← hp] at heq
  obtain ⟨l, hl⟩ : ∃ l, l = p.linked m x.ssn b n := ⟨_, rfl⟩
  have hlonly : Only [.mir] [(.TWIN_APPLIED, 0), (.MIR_STATUS_LINK_UP, 0), (.RESYNC_BUSY, 0), (.FULL_RESYNC, 0), (.RESYNC_LEFT, 0)] p l := by
    rw [hl]
    exact ((((((Only.refl _ _ p).mk_mir (by simp)).wr (by simp)).setf (by simp)).setf (by simp)).setf (by simp)).wr (by simp)
  have hlmir : l.mir = m := by rw [hl]; rfl
  have hmok : regsOk (({ p with mir := m } : State).wr .TWIN_APPLIED x.ssn).regs = true := regsOk_wr (s := { p with mir := m }) hpok _ _
  have hlup : l.fl .MIR_STATUS_LINK_UP = true := by
    rw [hl, State.linked, State.fl, State.rd_wr_ne _ (by decide), ← State.fl, State.fl_setf_ne _ (by decide), State.fl_setf_ne _ (by decide)]
    exact State.fl_setf hmok rfl (by decide) true
  have hlbusy : l.fl .RESYNC_BUSY = true := by
    rw [hl, State.linked, State.fl, State.rd_wr_ne _ (by decide), ← State.fl, State.fl_setf_ne _ (by decide)]
    exact State.fl_setf (regsOk_setf hmok _ _) rfl (by decide) true
  have hrin : In State.ssnReserve_foot l l.ssnReserve := State.ssnReserve_in (In.refl _ l) (Foot.le_refl _)
  have hch := State.mirChange_only ((hrin.parts .waits (by decide)).trans ((hlonly.waits_eq (by decide)).trans hpw))
    ((hrin.parts .fences (by decide)).trans ((hlonly.fences_eq (by decide)).trans hpf))
  rw [← hl] at heq
  rw [heq]
  refine ⟨?_, ?_, ?_, ?_, ?_, ?_, ?_⟩
  · rw [hch.mir_eq (by decide), hrin.parts .mir (by decide), hlmir, hup]
  · rw [hch.mir_eq (by decide), hrin.parts .mir (by decide), hlmir, hpass]
  · rw [hch.fl_eq (by decide), State.fl_eq (hrin.regs .MIR_STATUS_LINK_UP 0 (by decide)), hlup]
  · rw [hch.fl_eq (by decide), State.fl_eq (hrin.regs .RESYNC_BUSY 0 (by decide)), hlbusy]
  · rw [hch.rd_eq (by decide), State.rd, hrin.regs .PARTNER_UID 0 (by decide), ← State.rd, hlonly.rd_eq (by decide), huid]
  · rw [hch.rd_eq (by decide), State.rd, hrin.regs .ID_FAIL 0 (by decide), ← State.rd, hlonly.rd_eq (by decide), hfail]
  · rw [hch.fl_eq (by decide), State.fl_eq (hrin.regs .SENIOR 0 (by decide)), hlonly.fl_eq (by decide), hsenior]

theorem exec_mirrorSpdm_exchange {s : State} {h : Hello} {x : Exch} {ok : Bool} (hrun : s.draining = false) (hroles : s.mir.bring = .roles)
    (hpeer : s.mir.peer = some h) (hours : s.mir.takenOver = []) (htheirs : x.taken = []) (hcan : s.canJournal = true) :
    exec (.mirrorSpdm ok (some x)) s = .next ((s.setMir fun m => { m with pend := some x }).step5 x h) := by
  obtain ⟨u, hu⟩ : ∃ u, u = s.setMir fun m => { m with pend := some x } := ⟨_, rfl⟩
  have hstep : u.tryStep5 = u.step5 x h := by
    have h1 : u.mir.bring = .roles := by rw [hu]; exact hroles
    have h2 : u.mir.pend = some x := by rw [hu]; rfl
    have h3 : u.mir.peer = some h := by rw [hu]; exact hpeer
    have h4 : u.mir.takenOver = [] := by rw [hu]; exact hours
    have h5 : u.canJournalN 1 = true := by rw [hu]; exact hcan
    have hids : (if h.state = mirSolo then u.mir.takenOver else []) ++ (if u.rd .STATE = mirSolo then [] else x.taken.map (·.1)) = [] := by
      rw [h4, htheirs]
      split <;> split <;> rfl
    rw [State.tryStep5, h1, h2, h3]
    dsimp only
    rw [hids]
    exact (if_neg (by simp [State.framesClear, State.step5Frames])).trans (if_pos h5)
  simp only [exec, execMirrorSpdm, hrun, hroles, Bool.false_eq_true, if_false]
  rw [← hu, hstep]

/-- Settles O38, phase by phase of Table 13.3. -/
theorem mirrorBringUp : Obligations.MirrorBringUp := by
  unfold Obligations.MirrorBringUp
  refine ⟨?phy, ?hello, ?again, ?refused, ?pass, ?exchange, ?ended, ?lost⟩
  case phy =>
    intro s port hinv hport hrun hhold hdown hbit hw hf
    obtain ⟨a, ha⟩ : ∃ a, a = (s.setMir fun m => { m with phy := setBit m.phy port true }).setfi .PHY_UP (phyPort port) true := ⟨_, rfl⟩
    have hamir : a.mir = { s.mir with phy := setBit s.mir.phy port true } := by rw [ha]; rfl
    have hports : a.rd .MIR_PORTS = s.rd .MIR_PORTS := by
      rw [ha, State.rd, State.setfi_rdi_ne _ (by decide)]
      rfl
    have hhalf : a.fl .E1_HALF = s.fl .E1_HALF := by
      rw [State.fl, State.fl, ha, State.rd, State.setfi_rdi_ne _ (by decide)]
      rfl
    have haphy : a.fli .PHY_UP (phyPort port) = true := by
      rw [ha]
      exact State.fli_setfi (s := s.setMir fun m => { m with phy := setBit m.phy port true }) hinv.1 rfl (by decide) _ _
    obtain ⟨u, heq, humir, huphy⟩ := State.bringUp_facts (s := a) (port := port) (by rw [hports]; exact hbit)
      (by rw [ha]; exact hw) (by rw [ha]; exact hf)
    rw [hamir, hports, hhalf] at humir
    have hexec : exec (.mirrorPhyUp port) s = .next u.sayHello := by
      have hif : ¬(decide (2 ≤ port) || s.draining || s.mir.phyHold) = true := by simp [hrun, hhold, hport]
      have hnot : ¬(a.mir.bring == Bring.up) = true := by
        rw [hamir, hdown]
        decide
      rw [exec, execMirrorPhyUp, if_neg hif, ← heq]
      simp only [← ha, if_neg hnot]
    have hsaymir : u.sayHello.mir = u.mir := by rw [State.sayHello_eq]
    have hsayregs : u.sayHello.regs = u.regs := by rw [State.sayHello_eq]
    refine ⟨_, hexec, ?_, ?_, ?_, ?_, ?_, ?_⟩
    · rw [hsaymir, humir]
    · rw [State.fli, State.rdi_congr hsayregs, ← State.fli, huphy, haphy]
    · rw [hsaymir, humir]
      exact bit_setBit_self _ _
    · rw [hsaymir, humir]
    · rw [hsaymir, humir]
    · have hup : bit u.mirrorUp port = true := by
        rw [State.mirrorUp, humir]
        exact bit_and (bit_setBit_self _ _) hbit
      have hof : u.sayHello.helloOf port = u.helloOf port := by rw [State.sayHello_eq]; rfl
      rw [hof, State.sayHello_eq]
      exact List.mem_append_right _ (List.mem_map.2 ⟨port, mem_linksOf hport hup, rfl⟩)
  case hello =>
    intro s port h hst hup
    refine ⟨s.setMir fun m => { m with peer := some h, crossed := h.port != port, bring := .spdm }, ?_, rfl, rfl, rfl, rfl, rfl⟩
    rw [exec, execHello, if_neg (by simp [hst, hup])]
  case again =>
    intro s port hst hup hport
    have hone : (linksOf s.mirrorUp).filter (· < 2) = [port] := by
      rw [hup]
      interval_cases port <;> decide
    refine ⟨s.sayHello, by rw [exec, execHelloRepeat, if_pos (by rw [hst]; rfl)], ?_⟩
    rw [State.sayHello_eq, hone]
    rfl
  case refused =>
    intro s h c ok x hinv hrun hst hpeer hrng hw hf hc
    obtain ⟨hid, hne, hlt⟩ := State.idCheck_cause hc
    obtain ⟨hfail, hmir, halert⟩ := State.refuse_change hinv.1 hlt hw hf
    exact ⟨_, exec_mirrorSpdm_refused hrun hst hpeer hrng hid hne x, hfail, by rw [hmir], by rw [hmir], by rw [hmir], halert⟩
  case pass =>
    intro s h x hrun hst hpeer hrng h0 hp hs hx hports hhalf huid
    refine ⟨(s.setMir fun m => { m with bring := .roles }).send (.mirCtl kSpdm 0 0 []), ?_, rfl, rfl⟩
    simp only [exec, execMirrorSpdm, hrun, hst, hpeer, hrng, Bool.false_eq_true, if_false, State.idCheck_pass h0 hp hs hx hports hhalf huid,
      ne_eq, not_true_eq_false]
  case exchange =>
    intro s h x ok hinv hrun hst hpeer _ hw hf hcan hours htheirs
    obtain ⟨hup, hpass, hlink, hbusy, huid, hfail, hsenior⟩ := State.step5_facts (s := s.setMir fun m => { m with pend := some x })
      (h := h) hinv.1 hw hf hours htheirs
    have hsen : (s.setMir fun m => { m with pend := some x }).seniorAfter h = s.seniorAfter h := rfl
    rw [hsen] at hsenior
    refine ⟨_, exec_mirrorSpdm_exchange hrun hst hpeer hours htheirs hcan, hup, hlink, hbusy, huid, hfail, hpass,
      fun h1 h2 => ?_, fun h1 h2 => ?_, fun h1 => ?_⟩
    · rw [hsenior]
      simp [State.seniorAfter, h1, h2]
    · rw [hsenior]
      simp [State.seniorAfter, h1, h2]
    · rw [hsenior]
      simp only [State.seniorAfter, h1, bne_self_eq_false, Bool.false_eq_true, if_false]
      rfl
  case ended =>
    intro s hinv hst hpend hw hf
    obtain ⟨hfail, hmir, -⟩ := State.refuse_change hinv.1 (show 6 < 8 by decide) hw hf
    exact ⟨_, by rw [exec, execPartnerEndedBringUp, if_pos (by rw [hst, hpend]; rfl)], hfail, by rw [hmir], by rw [hmir]⟩
  case lost =>
    intro s port hinv hport hrun hphy hbit hst hlink hunacked hstaged hw hf
    obtain ⟨a, ha⟩ : ∃ a, a = (s.setMir fun m => { m with phy := setBit m.phy port false }).setfi .PHY_UP (phyPort port) false := ⟨_, rfl⟩
    have hphy0 : setBit s.mir.phy port false = 0 := by
      rw [hphy]
      interval_cases port <;> decide
    have hamir : a.mir = { s.mir with phy := 0 } := by rw [ha, ← hphy0]; rfl
    have haok : regsOk a.regs = true := by rw [ha]; exact regsOk_setfi (s := s.setMir fun m => { m with phy := setBit m.phy port false }) hinv.1 _ _ _
    have haphy : a.fli .PHY_UP (phyPort port) = false := by
      rw [ha]
      exact State.fli_setfi (s := s.setMir fun m => { m with phy := setBit m.phy port false }) hinv.1 rfl (by decide) _ _
    have halink : a.fl .MIR_STATUS_LINK_UP = true := by
      rw [← hlink, State.fl, State.fl, ha, State.rd, State.setfi_rdi_ne _ (by decide)]
      rfl
    have haloss : a.rd .LINK_LOSS_CNT = s.rd .LINK_LOSS_CNT := by
      rw [ha, State.rd, State.setfi_rdi_ne _ (by decide)]
      rfl
    obtain ⟨hopnq, hretx⟩ := List.append_eq_nil_iff.1 hunacked
    obtain ⟨hopn, hsendq⟩ := List.append_eq_nil_iff.1 hopnq
    have hsolo : a = a.closeAll.recsToSolo := by
      have haun : a.unacked = [] := by
        rw [State.unacked, hamir]
        exact hunacked
      rw [State.closeAll_none (by rw [hamir]; exact List.map_eq_nil_iff.1 hopn), State.recsToSolo, haun]
      rfl
    obtain ⟨hup, hmir, hloss, hports⟩ := State.linkLost_facts (s := a) (u := a) hsolo haok (by rw [hamir]; exact hstaged)
      (by rw [ha]; exact hw) (by rw [ha]; exact hf) halink
    refine ⟨a.linkLost true, ?_, hup, by rw [hmir]; rfl, by rw [hmir]; rfl, by rw [hmir]; rfl, ?_, by rw [hloss, haloss]⟩
    · have hif : ¬(decide (2 ≤ port) || !bit s.mir.phy port) = true := by
        have hb : bit s.mir.phy port = true := by
          rw [hphy]
          exact Nat.testBit_two_pow_self
        simp [hport, hb]
      have hif2 : ¬(a.draining || !bit a.mir.ports port) = true := by
        have hadr : a.draining = false := by
          rw [← hrun, State.draining, State.draining, ha]
          exact State.fl_eq (State.setfi_rdi_ne _ (by decide) _ _ _)
        rw [hadr, hamir]
        simp [hbit]
      have hzero : a.mirrorUp = 0 := by
        rw [State.mirrorUp, hamir]
        exact Nat.zero_and _
      have hbr : ¬(a.mir.bring == Bring.down) = true := by
        rw [hamir, hst]
        decide
      rw [exec, execMirrorPortPhyDown, if_neg hif]
      simp only [← ha, if_neg hif2, if_pos hzero, if_neg hbr, if_pos halink]
    · rw [hports _ (by rw [hamir]), haphy]

end Sys2Proof.Machine
end

section
/-! Records of the mirror, their answers and the loss of the link (13_twin_mirror.md R325, R330 to R332, R337): O39. -/

namespace Sys2Proof.Machine

/-! ### The next record of a lane -/

/-- The LSN of the next record: the difference to the one expected is 0. -/
theorem lsn_next (w l : Nat) (h : w = l % 2 ^ 32) : (l % 2 ^ 32 + 2 ^ 32 - w) % 2 ^ 32 = 0 := by omega

theorem lsn_ahead {w d l : Nat} (hw : w < 2 ^ 32) (hl : l = (w + d) % 2 ^ 32) (hd : d < 2 ^ 31) : (l % 2 ^ 32 + 2 ^ 32 - w) % 2 ^ 32 = d := by
  omega

theorem lsn_behind {w d l : Nat} (hw : w < 2 ^ 32) (hl : l = (w + 2 ^ 32 - d) % 2 ^ 32) (h0 : 0 < d) (hd : d < 2 ^ 31) :
    (l % 2 ^ 32 + 2 ^ 32 - w) % 2 ^ 32 = 2 ^ 32 - d := by
  omega

/-- The record's only line, at line 5, stored (R332 step 5). -/
theorem State.putLines_one {s : State} {r : MRec} {d : Line} (hdram : dramOk s.dram = true) (hl : s.fch.lines = []) (hr : r.lines = [(5, d)])
    (hp : r.poison = 0) (f k : Nat) :
    In State.putLines_foot s (s.putLines f k r) ∧ (s.putLines f k r).dline (1024 * f + 64 * k + 5) = ⟨d, .good⟩ := by
  refine ⟨State.putLines_in (In.refl _ s) (Foot.le_refl _), ?_⟩
  obtain ⟨u, hu⟩ : ∃ u, u = s.flushEvict (1024 * f + 64 * k + 5) := ⟨_, rfl⟩
  have huin : In State.flushEvict_foot s u := by rw [hu]; exact State.flushEvict_in (In.refl _ s) (Foot.le_refl _)
  have hulines : u.fch.lines = [] := by
    rw [hu, State.flushEvict]
    split
    · split <;> exact hl
    · exact hl
  have heq : s.putLines f k r = u.writeDram (1024 * f + 64 * k + 5) ⟨d, .good⟩ .mir sc0 := by
    have hnone : u.cline? (1024 * f + 64 * k + 5) = none := by rw [State.cline?, hulines]; rfl
    have hzip : (List.range r.lines.length).zip r.lines = [(0, (5, d))] := by rw [hr]; rfl
    have hgood : bit r.poison 0 = false := by rw [hp]; rfl
    rw [State.putLines, hzip, State.each, List.foldl_cons, List.foldl_nil]
    simp only [show (5 : Nat) % 64 = 5 from rfl, ← hu, hnone, hgood, Bool.false_eq_true, if_false]
  rw [heq]
  exact State.dline_writeDram (dramOk_iff.1 (huin.dramOk hdram)).1 _ _ _ _

/-- The SSN after the last one applied is applied (R331, R332). -/
theorem State.markApplied_facts {s : State} {r : MRec} (hok : regsOk s.regs = true) (happ : s.mir.applied = []) (hheld : s.mir.held = [r])
    (hssn : r.ssn = s.rd .TWIN_APPLIED + 1) (hlt : r.ssn < 2 ^ 64) :
    (s.markApplied r).rd .TWIN_APPLIED = r.ssn ∧ (s.markApplied r).mir.held = [] ∧ (s.markApplied r).dram = s.dram ∧
      (s.markApplied r).out = s.out ++ [Msg.mirCtl kAck r.lane r.ssn []] := by
  have hdone : withNat s.mir.applied r.ssn = [r.ssn] := by rw [happ]; rfl
  have hfold : (List.range ([r.ssn].length + 1)).foldl (fun t _ => if [r.ssn].contains (t + 1) then t + 1 else t) (s.rd .TWIN_APPLIED) = r.ssn := by
    have h1 : [r.ssn].contains (s.rd .TWIN_APPLIED + 1) = true := by rw [← hssn]; simp
    have h2 : [r.ssn].contains (s.rd .TWIN_APPLIED + 1 + 1) = false := by
      rw [← hssn]
      simp
    rw [List.length_singleton, show List.range (1 + 1) = [0, 1] from rfl, List.foldl_cons, if_pos h1, List.foldl_cons, List.foldl_nil,
      if_neg (by rw [h2]; decide), ← hssn]
  obtain ⟨m, hm⟩ : ∃ m : MirS, m = { s.mir with rxMark := mput s.mir.rxMark (r.lane, 0) r.ssn
                                                applied := [r.ssn].filter fun n => decide (r.ssn < n)
                                                held := s.mir.held.erase r } := ⟨_, rfl⟩
  have heq : s.markApplied r = ({ s with mir := m }.wr .TWIN_APPLIED r.ssn).sendAck r.lane := by
    rw [State.markApplied]
    simp only [hdone, hfold, hm]
    rfl
  have hmark : mget m.rxMark (r.lane, 0) = some r.ssn := by
    rw [hm]
    exact mget_mput _ _ _
  rw [heq]
  refine ⟨State.rd_wr (s := { s with mir := m }) hok rfl hlt, ?_, rfl, ?_⟩
  · show m.held = []
    rw [hm, hheld]
    exact List.erase_cons_head r []
  · show s.out ++ [Msg.mirCtl kAck r.lane ((mget m.rxMark (r.lane, 0)).getD 0) []] = _
    rw [hmark]
    rfl

/-- A data record for a charged, resident page of a replica is applied (R332). -/
theorem State.applyOne_data {s : State} {r : MRec} {o : Obj} (hheld : s.mir.held = [r]) (hty : r.ty = .data) (hres : r.resync = false)
    (ho : s.obj? r.obj = some o) (hkind : o.kind = 2) (hpage : r.cpage / 16 < o.pages) (hun : s.mir.rxUnmatched = [])
    (hst : (s.mapE (o.mapBase + r.cpage / 16)).st = .t1) (hcp : (s.mapE (o.mapBase + r.cpage / 16)).cpSt (r.cpage % 16) = 1) :
    s.applyOne r = (((s.putLines (s.mapE (o.mapBase + r.cpage / 16)).frame (r.cpage % 16) r).touch
      (s.mapE (o.mapBase + r.cpage / 16)).frame).markApplied r, .done) := by
  have hturn : (s.mir.held.all fun x => decide (r.ssn ≤ x.ssn) ||
      !(x.lane == r.lane || (x.obj == r.obj && (x.ty == RTy.md || x.ty == RTy.commit)))) = true := by simp [hheld]
  have hclean : s.redirty (o.mapBase + r.cpage / 16) (r.cpage % 16) = s := by rw [State.redirty, if_neg (by rw [hcp]; decide)]
  have hskip : ¬(s.mir.rxUnmatched.contains r.obj || (o.kind == 1 && !s.ownSide r.obj) || decide (o.pages ≤ r.cpage / 16)) = true := by
    simp [hun, hkind, hpage]
  have hmd : (RTy.data == RTy.md) = false := rfl
  have hcommit : (RTy.data == RTy.commit) = false := rfl
  have hatomic : (RTy.data == RTy.atomic) = false := rfl
  have h1 : (PgSt.t1 != PgSt.t1) = false := rfl
  have hneeds : ((1 : Nat) == 0 || (1 : Nat) == 3) = false := rfl
  rw [State.applyOne]
  simp only [hturn, hty, hmd, hcommit, hatomic, Bool.not_true, Bool.or_self, Bool.false_and, Bool.false_eq_true, if_false, ho, if_neg hskip, hst,
    h1, hcp, hneeds, hclean, hres]

theorem applyRounds_one {s t : State} {r : MRec} (hheld : s.mir.held = [r]) (hone : s.applyOne r = (t, .done)) (hnone : t.mir.held = []) (n : Nat) :
    applyRounds (n + 2) s = t := by
  have hlast : applyRounds (n + 1) t = t := by
    rw [applyRounds, hnone]
    rfl
  have hdone : (Applied.done == Applied.done) = true := rfl
  have hstop : (Applied.done == Applied.stop) = false := rfl
  rw [applyRounds, hheld]
  simp only [List.foldl_cons, List.foldl_nil, Bool.false_eq_true, if_false, hone, hdone, hstop, Bool.or_true, Bool.not_false, Bool.and_true, if_true,
    hlast]

theorem State.resyncCheck_idle {s : State} (h : s.fl .RESYNC_BUSY = false) : s.resyncCheck = s := by
  rw [State.resyncCheck, if_neg (by simp [h])]

/-! ### The loss of the link with one record outstanding -/

theorem State.soloCharge_facts (s : State) (p : Nat) :
    (s.soloCharge p).mir.solo = s.mir.solo ∧ (s.soloCharge p).mir.staged = s.mir.staged := by
  rw [State.soloCharge]
  split
  · exact ⟨rfl, rfl⟩
  · split
    · have h := (State.chargeKey_in (ft := State.chargeKey_foot) (In.refl _ s) (Foot.le_refl _) (d := 0) (k := soloKey p)).parts .mir (by decide)
      exact ⟨congrArg MirS.solo h, congrArg MirS.staged h⟩
    · exact ⟨rfl, rfl⟩

/-- The page of the one data record enters the solo map (R53, R339). -/
theorem State.recsToSolo_one {s : State} {r : MRec} (hun : s.unacked = [r]) (hty : r.ty = .data) :
    mget s.recsToSolo.mir.solo (r.obj, r.cpage / 16) = some false ∧ s.recsToSolo.mir.staged = s.mir.staged := by
  obtain ⟨a, ha⟩ : ∃ a : State, a = State.wr { s with mir := { s.mir with
      soloDoms := r.doms.foldl withNat s.mir.soloDoms, solo := mput s.mir.solo (r.obj, r.cpage / 16) false } } .SOLO_PAGES
        (mput s.mir.solo (r.obj, r.cpage / 16) false).length := ⟨_, rfl⟩
  obtain ⟨p, heq⟩ : ∃ p, s.recsToSolo = a.soloCharge p := by
    refine ⟨a.soloPage r.obj (r.cpage / 16), ?_⟩
    rw [State.recsToSolo, hun, State.each, List.foldl_cons, List.foldl_nil, ha]
    exact if_neg (by rw [hty]; decide)
  obtain ⟨hsolo, hstaged⟩ := a.soloCharge_facts p
  rw [heq, hsolo, hstaged, ha]
  exact ⟨mget_mput _ _ _, rfl⟩

/-! ### Acknowledgements and repetitions -/

/-- With nothing retried, in flight or passed and no resync, an acknowledgement leaves the retransmit store as it is. -/
theorem State.resyncAcks_idle {s : State} (hpass : s.mir.pass = 0) (hretry : s.mir.retry = []) (hinfl : s.mir.inflight = [])
    (hbusy : s.fl .RESYNC_BUSY = false) :
    ∃ m : MirS, m.retx = s.mir.retx ∧ s.resyncAcks = State.wr { s with mir := m } .RESYNC_LEFT m.toSend.length := by
  obtain ⟨m, hm⟩ : ∃ m : MirS, m = { s.mir with
    retry := [], flow := s.mir.flow, toSend := (s.mir.toSend ++ (s.mir.solo.map (·.1)).filter fun _ => false).eraseDups, inflight := [] } := ⟨_, rfl⟩
  have hidle : (State.wr { s with mir := m } .RESYNC_LEFT m.toSend.length).resyncCheck = State.wr { s with mir := m } .RESYNC_LEFT m.toSend.length :=
    State.resyncCheck_idle ((State.fl_eq (State.rdi_wri_ne { s with mir := m } (.inl (by decide)))).trans hbusy)
  refine ⟨m, by rw [hm], ?_⟩
  have hp2 : (s.mir.pass == 2) = false := by rw [hpass]; rfl
  rw [State.resyncAcks]
  simp only [hp2, Bool.false_and, Bool.false_eq_true, if_false, hretry, State.setMir, hinfl, List.filter_nil, List.foldl_nil, List.any_nil]
  rw [show ∀ (u : State) (f : State → Key × Nat → State), u.each [] f = u from fun _ _ => rfl]
  rw [← hidle, hm]
  simp only [List.filter_nil]

theorem State.resend_one {s : State} {r : MRec} {lane : Nat} (hretx : s.mir.retx = [r]) (hlane : r.lane = lane) :
    s.resend lane = (s.send (.mirRec r)).count .RETX_CNT 0 .MIR_FLAGS_CNT_OVF 0 0 := by
  have hrs : s.mir.retx.filter (fun r => r.lane == lane) = [r] := by simp [hretx, hlane]
  rw [State.resend]
  simp only [hrs]
  rfl

/-- Settles O39, frame by frame of Table 13.2. -/
theorem recordsAndTheirAnswers : Obligations.RecordsAndTheirAnswers := by
  unfold Obligations.RecordsAndTheirAnswers
  refine ⟨?next, ?ahead, ?behind, ?tag, ?ack, ?again, ?lost, ?hold, ?keep, ?fetch⟩
  case next =>
    intro s r o e d hinv _ _ hup hrun hheld happ hlsn hssn hlt hmark hty hres ho hkind hpage hun he hst hcp hl hr hp hbusy
    subst he
    obtain ⟨a, ha⟩ : ∃ a : State, a = { s with mir := { s.mir with
      tagRun := mdel s.mir.tagRun (r.lane, 0), rxGap := without s.mir.rxGap r.lane
      rxLsn := mput s.mir.rxLsn (r.lane, 0) (((mget s.mir.rxLsn (r.lane, 0)).getD 0 + 1) % 2 ^ 32), held := [r] } } := ⟨_, rfl⟩
    obtain ⟨f, hf⟩ : ∃ f, f = (s.mapE (o.mapBase + r.cpage / 16)).frame := ⟨_, rfl⟩
    have haheld : a.mir.held = [r] := by rw [ha]
    have hone : a.applyOne r = (((a.putLines f (r.cpage % 16) r).touch f).markApplied r, .done) := by
      rw [hf, ha]
      exact State.applyOne_data (s := { s with mir := _ }) rfl hty hres ho hkind hpage hun hst hcp
    obtain ⟨hin, hline⟩ := State.putLines_one (s := a) (r := r) (by rw [ha]; exact hinv.2.1) (by rw [ha]; exact hl) hr hp f (r.cpage % 16)
    obtain ⟨b, hb⟩ : ∃ b, b = (a.putLines f (r.cpage % 16) r).touch f := ⟨_, rfl⟩
    have hbin : In (State.putLines_foot ||| State.touch_foot) a b := by
      rw [hb]
      exact State.touch_in (State.putLines_in (In.refl _ a) (by decide)) (by decide)
    have hbmir : b.mir = a.mir := hbin.parts .mir (by decide)
    have hbreg : ∀ x, (x = .TWIN_APPLIED ∨ x = .RESYNC_BUSY) → b.rd x = s.rd x := by
      have hareg : ∀ x, a.rd x = s.rd x := fun x => by rw [ha]; rfl
      rintro x (rfl | rfl)
      · exact (hbin.regs .TWIN_APPLIED 0 (by decide)).trans (hareg _)
      · exact (hbin.regs .RESYNC_BUSY 0 (by decide)).trans (hareg _)
    have hbline : b.dline (1024 * f + 64 * (r.cpage % 16) + 5) = ⟨d, .good⟩ := by
      rw [← hline, hb]
      have hdram := (State.touch_in (ft := State.touch_foot) (In.refl _ (a.putLines f (r.cpage % 16) r)) (Foot.le_refl _) (f := f)).parts .dram (by decide)
      rw [State.dline, State.dline, hdram]
    obtain ⟨happlied, hnone, hdram, hout⟩ := State.markApplied_facts (s := b) (r := r) (hbin.regsOk (by rw [ha]; exact hinv.1))
      (by rw [hbmir, ha]; exact happ) (by rw [hbmir, haheld]) (by rw [hbreg _ (.inl rfl)]; exact hssn) hlt
    have hin' : In State.markApplied_foot b (b.markApplied r) := State.markApplied_in (In.refl _ b) (Foot.le_refl _)
    have hidle : (b.markApplied r).fl .RESYNC_BUSY = false := by
      rw [State.fl_eq (hin'.regs .RESYNC_BUSY 0 (by decide)), State.fl, hbreg _ (.inr rfl), ← State.fl, hbusy]
    have happly : a.applyHeld = b.markApplied r := by
      have harun : a.draining = false := by rw [ha]; exact hrun
      rw [State.applyHeld, if_neg (by simp [harun]), haheld, List.length_singleton,
        applyRounds_one haheld (by rw [hone, hb]) hnone 0, State.resyncCheck_idle hidle]
    refine ⟨b.markApplied r, ?_, ?_, happlied, hnone, ?_⟩
    · have hif : ¬(!s.fl .MIR_STATUS_LINK_UP || s.draining) = true := by simp [hup, hrun]
      have hd := lsn_next _ _ hlsn
      have hmark' : ¬r.ssn ≤ (mget s.mir.rxMark (r.lane, 0)).getD 0 := by omega
      rw [exec, execRecord, if_neg hif]
      simp only [hd, ne_eq, not_true_eq_false, if_false, Bool.not_true, Bool.false_eq_true]
      rw [if_neg (by simp [State.setMir, hheld, hmark']), ← happly, ha]
      simp only [State.setMir, hheld, List.nil_append]
    · rw [← hf, State.dline, hdram]
      exact hbline
    · rw [hout, hbin.parts .out (by decide), ha]
  case ahead =>
    intro s r tagOk w d hup hrun hw hlt hlsn h0 hd hgap
    have hif : ¬(!s.fl .MIR_STATUS_LINK_UP || s.draining) = true := by simp [hup, hrun]
    refine ⟨(s.setMir fun m => { m with rxGap := withNat m.rxGap r.lane }).send (.mirCtl kNak r.lane w []), ?_, rfl, rfl, rfl⟩
    rw [exec, execRecord, if_neg hif]
    simp only [← hw, lsn_ahead hlt hlsn hd, ne_eq, show ¬d = 0 by omega, not_false_eq_true, if_true, hd, hgap]
    rfl
  case behind =>
    intro s r tagOk w d hinv hup hrun hw hlt hlsn h0 hd
    have hif : ¬(!s.fl .MIR_STATUS_LINK_UP || s.draining) = true := by simp [hup, hrun]
    have honly := s.count_only .DUP_CNT 0 .MIR_FLAGS_CNT_OVF 0 2
    refine ⟨(s.count .DUP_CNT 0 .MIR_FLAGS_CNT_OVF 0 2).sendAck r.lane, ?_, ?_, ?_, ?_, ?_⟩
    · rw [exec, execRecord, if_neg hif]
      simp only [← hw, lsn_behind hlt hlsn h0 hd, ne_eq, show ¬2 ^ 32 - d = 0 by omega, not_false_eq_true, if_true,
        show ¬2 ^ 32 - d < 2 ^ 31 by omega, if_false]
    · exact congrArg MirS.held (honly.mir_eq (by decide))
    · exact honly.dram_eq (by decide)
    · exact State.count_rdi hinv.1 (f := .DUP_CNT) (ovf := .MIR_FLAGS_CNT_OVF) rfl (by decide) (by decide) 0 0 2
    · rw [State.sendAck, honly.mir_eq (by decide), State.send_out, honly.out_eq (by decide)]
  case tag =>
    intro s r w hinv hup hrun hw hlsn hlt hrunless
    have hif : ¬(!s.fl .MIR_STATUS_LINK_UP || s.draining) = true := by simp [hup, hrun]
    obtain ⟨a, ha⟩ : ∃ a, a = s.setMir fun m => { m with tagRun := mput m.tagRun (r.lane, 0) (0 + 1) } := ⟨_, rfl⟩
    have h1 := a.count_only .TAG_FAIL_CNT 0 .MIR_FLAGS_CNT_OVF 0 1
    have hcnt := State.count_rdi (s := a) (by rw [ha]; exact hinv.1) (f := .TAG_FAIL_CNT) (ovf := .MIR_FLAGS_CNT_OVF) rfl (by decide) (by decide) 0 0 1
    obtain ⟨b, hb⟩ : ∃ b, b = a.count .TAG_FAIL_CNT 0 .MIR_FLAGS_CNT_OVF 0 1 := ⟨_, rfl⟩
    rw [← hb] at h1 hcnt
    have h2 := b.count_only .GCM_FAIL_CNT 0 .CIP_FLAGS_CNT_OVF 0 0
    obtain ⟨c, hc⟩ : ∃ c, c = b.count .GCM_FAIL_CNT 0 .CIP_FLAGS_CNT_OVF 0 0 := ⟨_, rfl⟩
    rw [← hc] at h2
    refine ⟨c.send (.mirCtl kNak r.lane w []), ?_, ?_, ?_, ?_, ?_⟩
    · have hd := lsn_next w r.lsn (by omega)
      rw [exec, execRecord, if_neg hif]
      simp only [← hw, hd, ne_eq, not_true_eq_false, if_false, Bool.not_false, if_true, hrunless, Option.getD_none, ← ha, ← hb, ← hc]
      rfl
    · show c.mir.held = s.mir.held
      rw [h2.mir_eq (by decide), h1.mir_eq (by decide), ha]
      rfl
    · show c.dram = s.dram
      rw [h2.dram_eq (by decide), h1.dram_eq (by decide), ha]
      rfl
    · show c.rd .TAG_FAIL_CNT = _
      rw [h2.rd_eq (by decide)]
      refine hcnt.trans ?_
      rw [ha]
      rfl
    · show c.out ++ _ = _
      rw [h2.out_eq (by decide), h1.out_eq (by decide), ha]
      rfl
  case ack =>
    intro s lane mark hinv hup hrun hsendq hopn hpass hretry hinfl hbusy hw hf hlen
    obtain ⟨l, hl⟩ : ∃ l, l = s.mir.retx.filter (fun r => !(r.lane == lane && decide (r.ssn ≤ mark))) := ⟨_, rfl⟩
    have hlt : l.length < 2 ^ 12 := by
      rw [hl]
      exact lt_of_le_of_lt (List.length_filter_le _ _) hlen
    obtain ⟨a, ha⟩ : ∃ a : State, a = State.wr { s with mir := { s.mir with retx := l } } .RETX_RECORDS l.length := ⟨_, rfl⟩
    have haok : regsOk a.regs = true := by rw [ha]; exact regsOk_wr (s := { s with mir := { s.mir with retx := l } }) hinv.1 _ _
    have hamir : a.mir = { s.mir with retx := l } := by rw [ha]; rfl
    have harecs : a.rd .RETX_RECORDS = l.length := by
      rw [ha]
      exact State.rd_wr (s := { s with mir := { s.mir with retx := l } }) hinv.1 rfl hlt
    have hdrain : a.drainSendq = a := by
      rw [State.drainSendq, hamir]
      exact congrArg (fun q => a.each q _) hsendq
    have haun : a.unacked = l := by
      rw [State.unacked, hamir]
      simp [hopn, hsendq]
    obtain ⟨b, hb⟩ : ∃ b, b = a.ssnAcked := ⟨_, rfl⟩
    have hbmir : b.mir = a.mir := by rw [hb]; rfl
    have hbbusy : b.fl .RESYNC_BUSY = false := by
      rw [← hbusy, hb, State.fl, State.ssnAcked, State.rd_wr_ne _ (by decide), ha, State.rd_wr_ne _ (by decide)]
      rfl
    have hbrecs : b.rd .RETX_RECORDS = l.length := by rw [hb, State.ssnAcked, State.rd_wr_ne _ (by decide), harecs]
    obtain ⟨m, hm, heq⟩ := State.resyncAcks_idle (s := b) (by rw [hbmir, hamir]; exact hpass) (by rw [hbmir, hamir]; exact hretry)
      (by rw [hbmir, hamir]; exact hinfl) hbbusy
    obtain ⟨t, ht⟩ : ∃ t : State, t = State.wr { b with mir := m } .RESYNC_LEFT m.toSend.length := ⟨_, rfl⟩
    have htw : t.waits = [] := by
      rw [ht, hb, ha]
      exact hw
    have htf : t.fences = [] := by
      rw [ht, hb, ha]
      exact hf
    have htmir : t.mir.retx = l := by
      rw [ht]
      exact hm.trans (by rw [hbmir, hamir])
    have hreg : ∀ x, x ≠ .RESYNC_LEFT → t.rd x = b.rd x := fun x hx => by
      rw [ht, State.rd_wr_ne _ hx.symm]
      rfl
    refine ⟨t, ?_, by rw [htmir, hl], by rw [hreg _ (by decide), hbrecs, htmir], fun hnil => ?_⟩
    · have hif : ¬(!s.fl .MIR_STATUS_LINK_UP || s.draining) = true := by simp [hup, hrun]
      have hroom : t.mirRoom = t := State.rerun_none fun w hm => absurd hm (by rw [htw]; exact List.not_mem_nil)
      have hstart : State.wr (s.setMir fun m => { m with retx := m.retx.filter fun r => !(r.lane == lane && decide (r.ssn ≤ mark)) }) .RETX_RECORDS
          (s.setMir fun m => { m with retx := m.retx.filter fun r => !(r.lane == lane && decide (r.ssn ≤ mark)) }).mir.retx.length = a := by
        rw [ha, hl]
        rfl
      rw [exec, execAck, if_neg hif]
      simp only [hstart]
      rw [hdrain, ← hb, heq, ← ht, State.resolveFences_none htf, hroom]
    · have hl0 : l = [] := htmir.symm.trans hnil
      have hssn : a.rd .SSN_ISSUED = s.rd .SSN_ISSUED := by
        rw [ha, State.rd_wr_ne _ (by decide)]
        rfl
      have hissued : a.rd .SSN_ISSUED < 2 ^ 64 := State.rdi_full_lt haok (f := .SSN_ISSUED) rfl 0
      rw [hreg _ (by decide), hb, State.ssnAcked, haun, hl0, List.foldl_nil, State.rd_wr haok rfl hissued, hssn]
  case again =>
    intro s lane r i hinv hi hup hrun hretx hlane
    have hif : (s.fl .MIR_STATUS_LINK_UP && !s.draining) = true := by simp [hup, hrun]
    have hexec : exec i s = .next (s.resend lane) := by
      obtain rfl | rfl := hi
      · rw [exec, execNak, if_pos hif]
      · rw [exec, execRetxTimeout, if_pos hif]
    have honly := (s.send (.mirRec r)).count_only .RETX_CNT 0 .MIR_FLAGS_CNT_OVF 0 0
    rw [State.resend_one hretx hlane] at hexec
    refine ⟨_, hexec, ?_, ?_, ?_⟩
    · rw [honly.out_eq (by decide), State.send_out]
    · exact honly.mir_eq (by decide)
    · exact State.count_rdi (s := s.send (.mirRec r)) hinv.1 (f := .RETX_CNT) (ovf := .MIR_FLAGS_CNT_OVF) rfl (by decide) (by decide) 0 0 0
  case lost =>
    intro s r i hinv hi hup hrun _ hopn hsendq hretx hty hstaged hw hf
    have hexec : exec i s = .next (s.linkLost true) := by
      obtain rfl | rfl := hi
      · rw [exec, execMirrorLinkLost, if_pos (by simp [hup, hrun])]
      · rw [exec, execLinkRestart, State.barWrite_of_running hrun, State.linkRestart]
    have hun : s.unacked = [r] := by simp [State.unacked, hopn, hsendq, hretx]
    obtain ⟨hsolo, hstay⟩ := State.recsToSolo_one hun hty
    obtain ⟨u, hu⟩ : ∃ u, u = s.recsToSolo := ⟨_, rfl⟩
    have hin : In State.recsToSolo_foot s u := by rw [hu]; exact State.recsToSolo_in (In.refl _ s) (Foot.le_refl _)
    rw [← hu] at hsolo hstay
    obtain ⟨hlink, hmir, hloss, -⟩ := State.linkLost_facts (s := s) (u := u) (by rw [State.closeAll_none hopn, hu]) (hin.regsOk hinv.1)
      (hstay.trans hstaged) ((hin.parts .waits (by decide)).trans hw) ((hin.parts .fences (by decide)).trans hf) hup
    refine ⟨_, hexec, hlink, by rw [hmir]; rfl, by rw [hmir]; rfl, by rw [hmir]; rfl, by rw [hmir]; exact hsolo, ?_⟩
    rw [hloss, State.rd, hin.regs .LINK_LOSS_CNT 0 (by decide)]
    rfl
  case hold =>
    intro s
    exact ⟨_, rfl, rfl, rfl⟩
  case keep =>
    intro s port hup hrun href hbit
    refine ⟨(s.setMir fun m => { m with ctl := m.ctl + 1 }).send (.mirCtl kKeep 0 0 [port]), ?_, rfl, rfl⟩
    rw [exec, execKeepalive, if_pos (by simp [hup, hrun, href, hbit])]
  case fetch =>
    intro s tag obj ln o d hinv hup hrun ho hline
    have hif : ¬(!(s.fl .MIR_STATUS_LINK_UP || s.mir.drainSeen) || s.draining) = true := by simp [hup, hrun]
    have hin : In State.lineDreq_foot s (s.lineDreq o ln sc1) := State.lineDreq_in (In.refl _ s) (Foot.le_refl _)
    obtain ⟨a, ha⟩ : ∃ a, a = (s.lineDreq o ln sc1).send (.mirCtl kFetchRsp 0 tag [0, d.toNat]) := ⟨_, rfl⟩
    have haok : regsOk a.regs = true := by rw [ha]; exact hin.regsOk hinv.1
    have hcnt := State.count_rdi haok (f := .FETCH_CNT) (ovf := .MIR_FLAGS_CNT_OVF) rfl (by decide) (by decide) 0 0 4
    refine ⟨a.count .FETCH_CNT 0 .MIR_FLAGS_CNT_OVF 0 4, ?_, ?_, ?_⟩
    · have hgood : (LSt.good == LSt.poison) = false := rfl
      have hmark : (LSt.good == LSt.marked) = false := rfl
      rw [exec, execFetchReq, if_neg hif]
      simp only [ho, Option.bind_some, hline, hgood, hmark, Bool.or_self, Bool.false_eq_true, if_false, ← ha]
    · rw [(a.count_only _ _ _ _ _).out_eq (by decide), ha, State.send_out, hin.parts .out (by decide)]
    · refine hcnt.trans ?_
      rw [ha, State.rd, ← hin.regs .FETCH_CNT 0 (by decide)]
      rfl

end Sys2Proof.Machine
end

section
/-! The ends of moves (08_page_movement.md R194, R197, R199): a layer for O24 and O25. -/

namespace Sys2Proof.Machine

/-! ### The tracker -/

/-- The moves and the frame table are as they were. -/
structure SameMoves (s t : State) : Prop where
  moves : t.tpe.moves = s.tpe.moves
  frames : t.tpe.frames = s.tpe.frames

theorem SameMoves.refl (s : State) : SameMoves s s := ⟨rfl, rfl⟩

theorem SameMoves.trans {s t u : State} (h : SameMoves s t) (g : SameMoves t u) : SameMoves s u :=
  ⟨g.moves.trans h.moves, g.frames.trans h.frames⟩

theorem SameMoves.of_tpe {s t : State} (h : t.tpe = s.tpe) : SameMoves s t := ⟨by rw [h], by rw [h]⟩

theorem SameMoves.each {α : Type} {f : State → α → State} (s : State) (l : List α) (h : ∀ u x, SameMoves u (f u x)) : SameMoves s (s.each l f) :=
  State.each_inv (P := SameMoves s) l (SameMoves.refl s) fun u x _ hu => hu.trans (h u x)

theorem State.updStream_same (s : State) (d sid : Nat) (f : Stream → Stream) : SameMoves s (s.updStream d sid f) := ⟨rfl, rfl⟩

theorem State.countStreams_same (s : State) (m : Move) (done : Bool) : SameMoves s (s.countStreams m done) :=
  SameMoves.each s _ fun u _ => u.updStream_same _ _ _

theorem State.missDeadline_same (s : State) (m : Move) : SameMoves s (s.missDeadline m) := by
  refine SameMoves.each s _ fun u x => ?_
  split
  · split
    · split
      · split
        · exact SameMoves.refl u
        · exact (u.updStream_same _ _ _).trans (SameMoves.of_tpe ((State.count_only _ _ _ _ _ _).tpe_eq (by decide)))
      · exact SameMoves.refl u
    · exact SameMoves.refl u
  · exact SameMoves.refl u

theorem State.streamEnd_same (s : State) (t : Stream) : SameMoves s (s.streamEnd t) := by
  rw [State.streamEnd]
  split
  · exact SameMoves.refl s
  · have hfin : ∀ (u : State) (uid : Nat) (f : Cmd → Cmd), (u.finishCmd uid f).tpe = u.tpe := fun u uid f =>
      (State.finishCmd_in (ft := State.finishCmd_foot) (In.refl _ u) (Foot.le_refl _)).parts .tpe (by decide)
    refine SameMoves.trans ?_ (SameMoves.of_tpe (hfin _ _ _))
    exact ⟨rfl, rfl⟩

/-- A move leaves the tracker. -/
theorem State.dropMove_facts (s : State) (id : Nat) :
    (s.dropMove id).tpe.moves = s.tpe.moves.filter (fun m => m.id != id) ∧ (s.dropMove id).tpe.frames = s.tpe.frames := by
  have h := SameMoves.each (({ s with tpe := { s.tpe with moves := s.tpe.moves.filter fun m => m.id != id } }).moveRegs)
    (({ s with tpe := { s.tpe with moves := s.tpe.moves.filter fun m => m.id != id } }).moveRegs).tpe.streams State.streamEnd_same
  exact ⟨h.moves, h.frames⟩

/-- A move counted for its streams and dropped. -/
theorem State.countDrop_facts (s : State) (m : Move) (done : Bool) :
    (∀ x ∈ ((s.countStreams m done).dropMove m.id).tpe.moves, x.id ≠ m.id) ∧
      ((s.countStreams m done).dropMove m.id).tpe.frames = s.tpe.frames ∧
      In (State.countStreams_foot ||| State.dropMove_foot) s ((s.countStreams m done).dropMove m.id) := by
  obtain ⟨hmoves, hframes⟩ := (s.countStreams m done).dropMove_facts m.id
  refine ⟨fun x hx => ?_, hframes.trans (s.countStreams_same m done).frames,
    State.dropMove_in (State.countStreams_in (In.refl _ s) (by decide)) (by decide)⟩
  rw [hmoves] at hx
  simpa using (List.mem_filter.1 hx).2

/-! ### What a page that is ready lets go on -/

theorem State.applyHeld_idle {s : State} (hheld : s.mir.held = []) (hbusy : s.fl .RESYNC_BUSY = false) : s.applyHeld = s := by
  have hround : applyRounds (s.mir.held.length + 1) s = s := by
    rw [applyRounds, hheld]
    rfl
  rw [State.applyHeld, hround, State.resyncCheck_idle hbusy]
  split <;> rfl

/-- Where no request waits for a page, only fills that waited for it ask for their lines. -/
theorem State.pageReady_still {s : State} (hw : ∀ w ∈ s.waits, w.why ≠ .page) (obj tp : Nat) :
    In (Part.fch.foot ||| State.dreq_foot) s (s.pageReady obj tp) := by
  obtain ⟨a, ha⟩ : ∃ a : State, a = { s with fch := { s.fch with mrs := s.fch.mrs.map fun (e : Key × MissReg) =>
    if e.2.st = MrSt.waitPage ∧ e.2.obj = obj ∧ e.2.tp = tp then (e.1, { e.2 with st := .fill }) else e } } := ⟨_, rfl⟩
  have hain : In (Part.fch.foot ||| State.dreq_foot) s a := by
    rw [ha]
    exact InMk.upd (In.refl _ s) rfl rfl rfl fun p hp => by
      cases p
      case fch => exact absurd hp (by decide)
      all_goals rfl
  obtain ⟨b, hb⟩ : ∃ b, b = a.each (a.fch.mrs.filter fun e => e.2.st == .fill && e.2.obj == obj && e.2.tp == tp) fun s e =>
    s.dreq e.2.la 1 false .fch e.2.fillCls := ⟨_, rfl⟩
  have hbin : In (Part.fch.foot ||| State.dreq_foot) s b := by
    rw [hb]
    exact State.each_in hain fun _ _ h => State.dreq_in h (by decide)
  have heq : s.pageReady obj tp = b.rerun fun (w : Wait) => w.obj == obj && w.tp == tp && w.why == Why.page := by
    rw [State.pageReady, hb, ha]
  rw [heq, State.rerun_none]
  · exact hbin
  · intro w hm
    rw [hbin.parts .waits (by decide)] at hm
    simp [hw w hm]

theorem State.moveIx_congr {s t : State} (h : t.md.ledger = s.md.ledger) (m : Move) : t.moveIx m = s.moveIx m := by
  rw [State.moveIx, State.moveIx, State.obj?, State.obj?, h]

/-- What the end of a move touches where nothing waits for its page. -/
def moveEndFoot : Foot :=
  Part.md.foot ||| State.missDeadline_foot ||| State.countStreams_foot ||| State.dropMove_foot ||| Part.fch.foot ||| State.dreq_foot

/-- A promotion's end (R197 DONE). -/
theorem State.promoteDone_facts {s : State} {m : Move} (hown : m.orphan = false) (hw : ∀ w ∈ s.waits, w.why ≠ .page)
    (hheld : s.mir.held = []) (hbusy : s.fl .RESYNC_BUSY = false) :
    In moveEndFoot s (s.promoteDone m) ∧ ((s.promoteDone m).mapE (s.moveIx m)).st = .t1 ∧
      ((s.promoteDone m).mapE (s.moveIx m)).frame = (s.mapE (s.moveIx m)).frame ∧ ∀ x ∈ (s.promoteDone m).tpe.moves, x.id ≠ m.id := by
  obtain ⟨a, ha⟩ : ∃ a, a = s.setMap (s.moveIx m) { s.mapE (s.moveIx m) with st := .t1 } := ⟨_, rfl⟩
  have hain : In moveEndFoot s a := by rw [ha]; exact State.setMap_in (In.refl _ s) (by decide)
  have hamap : a.mapE (s.moveIx m) = { s.mapE (s.moveIx m) with st := .t1 } := by rw [ha, State.mapE_setMap, if_pos rfl]
  obtain ⟨b, hb⟩ : ∃ b, b = if (a.obj? m.obj).any fun o => o.kind == 1 && !o.persist then a.dropHome (s.moveIx m) else a := ⟨_, rfl⟩
  have hbfacts : In moveEndFoot s b ∧ (b.mapE (s.moveIx m)).st = .t1 ∧ (b.mapE (s.moveIx m)).frame = (s.mapE (s.moveIx m)).frame := by
    rw [hb]
    split
    · refine ⟨State.dropHome_in hain (by decide), ?_⟩
      rw [State.dropHome, if_pos (by rw [hamap]; exact .inl rfl), State.mapE_setMap, if_pos rfl]
      exact ⟨by rw [hamap], by rw [hamap]⟩
    · exact ⟨hain, by rw [hamap], by rw [hamap]⟩
  obtain ⟨hbin, hbst, hbframe⟩ := hbfacts
  obtain ⟨c, hc⟩ : ∃ c, c = match b.frame? m.frame with
    | some f => b.setFrame m.frame { f with age := 0, ref := true }
    | none => b := ⟨_, rfl⟩
  have hcin : In moveEndFoot s c ∧ c.md = b.md := by
    rw [hc]
    split
    · exact ⟨State.setFrame_in hbin (by decide), rfl⟩
    · exact ⟨hbin, rfl⟩
  obtain ⟨hcin, hcmd⟩ := hcin
  obtain ⟨d, hd⟩ : ∃ d, d = ((c.missDeadline m).countStreams m true).dropMove m.id := ⟨_, rfl⟩
  obtain ⟨hgone, -, -⟩ := (c.missDeadline m).countDrop_facts m true
  rw [← hd] at hgone
  have hdin : In (State.missDeadline_foot ||| State.countStreams_foot ||| State.dropMove_foot) c d := by
    rw [hd]
    exact State.dropMove_in (State.countStreams_in (State.missDeadline_in (In.refl _ c) (by decide)) (by decide)) (by decide)
  have hsd : In moveEndFoot s d := by
    rw [hd]
    exact State.dropMove_in (State.countStreams_in (State.missDeadline_in hcin (by decide)) (by decide)) (by decide)
  have hready := State.pageReady_still (s := d) (by rw [hsd.parts .waits (by decide)]; exact hw) m.obj m.tp
  obtain ⟨e, he⟩ : ∃ e, e = d.pageReady m.obj m.tp := ⟨_, rfl⟩
  rw [← he] at hready
  have hse : In moveEndFoot s e := hsd.trans (hready.mono (by decide))
  have hidle : e.applyHeld = e := State.applyHeld_idle (by rw [hse.parts .mir (by decide)]; exact hheld)
    (by rw [State.fl_eq (hse.regs .RESYNC_BUSY 0 (by decide)), hbusy])
  have heq : s.promoteDone m = e := by
    rw [State.promoteDone, if_neg (by simp [hown]), ← hidle, he, hd, hc, hb, ha] <;> rfl
  have hmd : e.mapE (s.moveIx m) = b.mapE (s.moveIx m) := by
    rw [State.mapE, State.mapE, hready.parts .md (by decide), hdin.parts .md (by decide), hcmd]
  rw [heq]
  refine ⟨hse, by rw [hmd, hbst], by rw [hmd, hbframe], ?_⟩
  have htpe : e.tpe = d.tpe := hready.parts .tpe (by decide)
  rw [htpe]
  exact hgone

/-- A demotion's end (R197): its frame is free and the page has its new tier. -/
theorem State.demoteDone_facts {s : State} {m : Move} (hown : m.orphan = false) (hw : ∀ w ∈ s.waits, w.why ≠ .page)
    (hheld : s.mir.held = []) (hbusy : s.fl .RESYNC_BUSY = false) :
    ∃ a, a = (s.setMap (s.moveIx m) { s.mapE (s.moveIx m) with st := m.dest, frame := 0 }).freeFrame m.frame ∧
      In (State.countStreams_foot ||| State.dropMove_foot) a (s.demoteDone m) ∧
      (s.demoteDone m).tpe.frames = a.tpe.frames ∧ ((s.demoteDone m).mapE (s.moveIx m)).st = m.dest ∧
      ((s.demoteDone m).mapE (s.moveIx m)).frame = 0 ∧ ∀ x ∈ (s.demoteDone m).tpe.moves, x.id ≠ m.id := by
  obtain ⟨p, hp⟩ : ∃ p, p = s.setMap (s.moveIx m) { s.mapE (s.moveIx m) with st := m.dest, frame := 0 } := ⟨_, rfl⟩
  have hpmap : p.mapE (s.moveIx m) = { s.mapE (s.moveIx m) with st := m.dest, frame := 0 } := by rw [hp, State.mapE_setMap, if_pos rfl]
  obtain ⟨a, ha⟩ : ∃ a, a = p.freeFrame m.frame := ⟨_, rfl⟩
  have hain : In (State.setMap_foot ||| State.freeFrame_foot) s a := by
    rw [ha, hp]
    exact State.freeFrame_in (State.setMap_in (In.refl _ s) (by decide)) (by decide)
  have hamd : a.md = p.md := by
    rw [ha]
    exact (State.freeFrame_in (ft := State.freeFrame_foot) (In.refl _ p) (Foot.le_refl _)).parts .md (by decide)
  obtain ⟨hgone, hframes, hin⟩ := a.countDrop_facts m true
  obtain ⟨d, hd⟩ : ∃ d, d = (a.countStreams m true).dropMove m.id := ⟨_, rfl⟩
  rw [← hd] at hgone hframes hin
  have hdw : ∀ w ∈ d.waits, (w.obj == m.obj && w.tp == m.tp && w.why == Why.page) = false := fun w hm => by
    rw [hin.parts .waits (by decide), hain.parts .waits (by decide)] at hm
    simp [hw w hm]
  have hidle : d.applyHeld = d := by
    refine State.applyHeld_idle ?_ ?_
    · rw [hin.parts .mir (by decide), hain.parts .mir (by decide)]
      exact hheld
    · rw [State.fl_eq (hin.regs .RESYNC_BUSY 0 (by decide)), State.fl_eq (hain.regs .RESYNC_BUSY 0 (by decide)), hbusy]
  have heq : s.demoteDone m = d := by
    rw [State.demoteDone, if_neg (by simp [hown])]
    dsimp only
    rw [← hp, ← ha, ← hd, State.rerun_none hdw, hidle]
  have hmap : d.mapE (s.moveIx m) = p.mapE (s.moveIx m) := by rw [State.mapE, State.mapE, hin.parts .md (by decide), hamd]
  rw [heq]
  exact ⟨a, by rw [ha, hp], hin, hframes, by rw [hmap, hpmap], by rw [hmap, hpmap], hgone⟩

/-- A demotion abandoned in UNLOAD (R194, R198). -/
theorem State.demoteFail_facts {s : State} {m : Move} (hown : m.orphan = false) (hw : ∀ w ∈ s.waits, w.why ≠ .page) :
    In moveEndFoot s (s.demoteFail m) ∧ ((s.demoteFail m).mapE (s.moveIx m)).st = .t1 ∧
      ((s.demoteFail m).mapE (s.moveIx m)).frame = (s.mapE (s.moveIx m)).frame ∧ ∀ x ∈ (s.demoteFail m).tpe.moves, x.id ≠ m.id := by
  obtain ⟨a, ha⟩ : ∃ a, a = s.setMap (s.moveIx m) { s.mapE (s.moveIx m) with st := .t1 } := ⟨_, rfl⟩
  have hamap : a.mapE (s.moveIx m) = { s.mapE (s.moveIx m) with st := .t1 } := by rw [ha, State.mapE_setMap, if_pos rfl]
  have hain : In moveEndFoot s a := by rw [ha]; exact State.setMap_in (In.refl _ s) (by decide)
  obtain ⟨hgone, -, hin⟩ := a.countDrop_facts m false
  obtain ⟨d, hd⟩ : ∃ d, d = (a.countStreams m false).dropMove m.id := ⟨_, rfl⟩
  rw [← hd] at hgone hin
  have hsd : In moveEndFoot s d := hain.trans (hin.mono (by decide))
  have hready := State.pageReady_still (s := d) (by rw [hsd.parts .waits (by decide)]; exact hw) m.obj m.tp
  have heq : s.demoteFail m = d.pageReady m.obj m.tp := by
    rw [State.demoteFail, if_neg (by simp [hown]), hd, ha]
    rfl
  rw [← heq] at hready
  have hmap : (s.demoteFail m).mapE (s.moveIx m) = a.mapE (s.moveIx m) := by
    rw [State.mapE, State.mapE, hready.parts .md (by decide), hin.parts .md (by decide)]
  have htpe : (s.demoteFail m).tpe = d.tpe := hready.parts .tpe (by decide)
  refine ⟨hsd.trans (hready.mono (by decide)), by rw [hmap, hamap], by rw [hmap, hamap], ?_⟩
  rw [htpe]
  exact hgone

/-- A frame in use that no retirement waits for is free again (R183). -/
theorem State.freeFrame_facts {s : State} {f : Nat} {e : Frame} (hok : regsOk s.regs = true) (he : s.frame? f = some e)
    (hret : s.int.retire = []) (hfit : s.rd .FREE_FRAMES + 1 < 2 ^ 28) :
    (s.freeFrame f).tpe.frames = mdel s.tpe.frames (f, 0) ∧ (s.freeFrame f).rd .FREE_FRAMES = s.rd .FREE_FRAMES + 1 ∧
      ∀ x ∈ (s.freeFrame f).dram, x.1.1 ≠ f := by
  obtain ⟨a, ha⟩ : ∃ a : State, a = { s.dropLines f with
      tpe := { s.tpe with frames := mdel s.tpe.frames (f, 0) }
      int := { s.int with recode := s.int.recode.filter (·.1 != f), pcLost := s.int.pcLost.filter (·.1 != f)
                          verify := s.int.verify.filter (· / 1024 != f), ladders := s.int.ladders.filter fun l => l.la / 1024 != f } } := ⟨_, rfl⟩
  have haregs : a.regs = s.regs := by rw [ha]; rfl
  have hatpe : a.tpe.frames = mdel s.tpe.frames (f, 0) := by rw [ha]
  have hadram : a.dram = mfilter s.dram fun k _ => k.1 != f := by rw [ha]; rfl
  have haret : a.int.retire = [] := by rw [ha]; exact hret
  obtain ⟨b, hb⟩ : ∃ b, b = ((a.wr .RECODE_LEFT a.int.recode.length).wri .TALLY e.acct
    ((a.wr .RECODE_LEFT a.int.recode.length).rdi .TALLY e.acct - 1)).ceilFlag e.acct := ⟨_, rfl⟩
  have hbin : Only [] [(.RECODE_LEFT, 0), (.TALLY, e.acct), (.OVER_CEIL, e.acct)] a b := by
    rw [hb]
    exact (((Only.refl _ _ a).wr (by simp)).wri (by simp)).setfi (by simp)
  have hbok : regsOk b.regs = true := by
    rw [hb]
    exact regsOk_setfi (regsOk_wri (regsOk_wr (by rw [haregs]; exact hok) _ _) _ _ _) _ _ _
  have hbret : b.int.retire.contains f = false := by
    rw [hbin.int_eq (by decide), haret]
    rfl
  have hbfree : b.rd .FREE_FRAMES = s.rd .FREE_FRAMES := by rw [hbin.rd_eq (by simp), State.rd_congr haregs]
  have heq : s.freeFrame f = (b.wr .FREE_FRAMES (b.rd .FREE_FRAMES + 1)).setf .POOL_DRY false := by
    have hneg : ¬b.int.retire.contains f = true := by rw [hbret]; decide
    rw [hb, ha] at hneg ⊢
    rw [State.freeFrame, he]
    exact if_neg hneg
  obtain ⟨c, hc⟩ : ∃ c, c = b.wr .FREE_FRAMES (b.rd .FREE_FRAMES + 1) := ⟨_, rfl⟩
  rw [← hc] at heq
  have hctpe : (c.setf .POOL_DRY false).tpe = b.tpe := by rw [hc]; rfl
  have hcdram : (c.setf .POOL_DRY false).dram = b.dram := by rw [hc]; rfl
  rw [heq, hctpe, hcdram, hbin.tpe_eq (by decide), hbin.dram_eq (by decide), hatpe, hadram]
  refine ⟨rfl, ?_, fun x hx => by simpa using (List.mem_filter.1 hx).2⟩
  rw [State.rd, State.setf_rdi_ne _ (by decide), ← State.rd, hc]
  exact (State.rd_wr hbok rfl (by rw [hbfree]; exact hfit)).trans (by rw [hbfree])

end Sys2Proof.Machine
end

section
/-! How promotions and demotions end (08_page_movement.md, 07_objects_and_tiers.md): O24, O25. -/

namespace Sys2Proof.Machine

/-! ### The data of a promotion from T2 -/

theorem State.putCp_in_dram (s : State) (f k : Nat) (ls : List (Nat × DLine)) : In Part.dram.foot s (s.putCp f k ls) :=
  State.putCp_in (In.refl _ s) (by decide)

/-- Code page k written from one listed line. -/
theorem State.putCp_single {s : State} (hd : dramOk s.dram = true) {f k j : Nat} (hj : j < 64) (d : DLine) :
    (s.putCp f k [(j, d)]).dline (1024 * f + 64 * k + j) = d := by
  have hmod : j % 64 = j := Nat.mod_eq_of_lt hj
  have hok : dramOk (s.dropCp f k).dram = true := dramOk_filter (fun e _ => !(e.1 == f && e.2 / 64 == k)) hd
  rw [State.putCp, State.each, List.foldl_cons, List.foldl_nil, hmod]
  exact State.dline_setDline _ d (dramOk_iff.1 hok).1

/-- Other code pages keep their lines. -/
theorem State.putCp_other (s : State) {f k c j : Nat} (hne : c ≠ k) (hj : j < 64) (ls : List (Nat × DLine)) :
    (s.putCp f c ls).dline (1024 * f + 64 * k + j) = s.dline (1024 * f + 64 * k + j) := by
  have hdrop : (s.dropCp f c).dline (1024 * f + 64 * k + j) = s.dline (1024 * f + 64 * k + j) := by
    rw [State.dline, State.dline, State.dropCp]
    refine congrArg (fun x : Option DLine => x.getD zeroLine) (mget_mfilter_key (p := fun e => !(e.1 == f && e.2 / 64 == c)) ?_)
    simp only [Bool.not_eq_true', Bool.and_eq_false_iff, beq_eq_false_iff_ne]
    omega
  rw [State.putCp]
  refine State.each_inv (P := fun u => u.dline (1024 * f + 64 * k + j) = s.dline (1024 * f + 64 * k + j)) ls hdrop fun u l _ hu => ?_
  rw [State.dline_setDline_ne _ _ (by omega), hu]

/-- Code page k of a page's home or vault enters its frame. -/
def State.loadCp (obj tp : Nat) (e : MapE) (f : Nat) (s : State) (k : Nat) : State := s.putCp f k (s.coldCp obj tp e k)

theorem State.loadCp_cold (s : State) (obj tp : Nat) (e e' : MapE) (f k c : Nat) : (s.loadCp obj tp e f k).coldCp obj tp e' c = s.coldCp obj tp e' c := by
  have h : (State.loadCp obj tp e f s k).nfc = s.nfc := (s.putCp_in_dram f k _).parts .nfc (by decide)
  rw [State.coldCp, State.coldCp, h]

theorem State.loadCps_facts (obj tp : Nat) (e : MapE) (f : Nat) {k j : Nat} {d : DLine} (hj : j < 64) :
    ∀ (l : List Nat) (s : State), dramOk s.dram = true →
      (k ∉ l → (s.each l (State.loadCp obj tp e f)).dline (1024 * f + 64 * k + j) = s.dline (1024 * f + 64 * k + j)) ∧
      (k ∈ l → l.Nodup → s.coldCp obj tp e k = [(j, d)] → (s.each l (State.loadCp obj tp e f)).dline (1024 * f + 64 * k + j) = d) := by
  intro l
  induction l with
  | nil => exact fun s _ => ⟨fun _ => rfl, fun h => absurd h (by simp)⟩
  | cons c l ih =>
    intro s hd
    obtain ⟨hout, hin⟩ := ih (s.loadCp obj tp e f c) ((s.putCp_in_dram f c _).dramOk hd)
    have hstep : s.each (c :: l) (State.loadCp obj tp e f) = (State.loadCp obj tp e f s c).each l (State.loadCp obj tp e f) := rfl
    rw [hstep]
    refine ⟨fun hnot => ?_, fun hmem hnd hcold => ?_⟩
    · obtain ⟨hne, hnot⟩ := not_or.1 (List.mem_cons.not.1 hnot)
      rw [hout hnot]
      exact s.putCp_other (Ne.symm hne) hj _
    · obtain ⟨hc, hnd⟩ := List.nodup_cons.1 hnd
      by_cases h : c = k
      · subst h
        rw [hout hc, State.loadCp, hcold]
        exact State.putCp_single hd hj d
      · exact hin ((List.mem_cons.1 hmem).resolve_left (Ne.symm h)) hnd ((s.loadCp_cold obj tp e e f c k).trans hcold)

/-- What a promotion of a T2 page loads (R197, R305). -/
theorem State.loadFrame_t2 {s : State} {m : Move} (hown : m.orphan = false) (hsrc : m.src0 = .t2) :
    In (State.dreq_foot ||| Part.dram.foot) s (s.loadFrame m [] [] []) ∧
      (dramOk s.dram = true → ∀ k j d, k < 16 → j < 64 → s.coldCp m.obj m.tp (s.mapE (s.moveIx m)) k = [(j, d)] →
        (s.loadFrame m [] [] []).dline (1024 * m.frame + 64 * k + j) = d) := by
  obtain ⟨a, ha⟩ : ∃ a, a = s.dreq (1024 * m.frame) 1024 true .tpe (s.moveCls m) := ⟨_, rfl⟩
  have heq : s.loadFrame m [] [] [] = a.each (List.range 16) (State.loadCp m.obj m.tp (s.mapE (s.moveIx m)) m.frame) := by
    rw [State.loadFrame]
    simp only [← ha, hown, Bool.false_and, Bool.false_eq_true, if_false, hsrc]
    rfl
  have hain : In (State.dreq_foot ||| Part.dram.foot) s a := by rw [ha]; exact State.dreq_in (In.refl _ s) (by decide)
  rw [heq]
  refine ⟨State.each_in hain fun u k hu => hu.trans ((u.putCp_in_dram _ _ _).mono (by decide)), fun hd k j d hk hj hcold => ?_⟩
  have hacold : a.coldCp m.obj m.tp (s.mapE (s.moveIx m)) k = [(j, d)] := by rw [← hcold, ha]; rfl
  exact (State.loadCps_facts m.obj m.tp _ m.frame hj (List.range 16) a (by rw [ha]; exact hd)).2
    (List.mem_range.2 hk) List.nodup_range hacold

theorem State.nandReads_none (s : State) (cls : Nat) : s.nandReads cls [] = s := by
  rw [State.nandReads]
  split <;> rfl

/-- The move found is one of the page named. -/
theorem State.moveIn_page {s : State} {obj tp : Nat} {st : MSt} {m : Move} (h : s.moveIn obj tp st = some m) : m.obj = obj ∧ m.tp = tp := by
  have := List.find?_some h
  simp only [Bool.and_eq_true, beq_iff_eq] at this
  exact this.1

/-! ### A fetch from T3 that fails (R194) -/

/-- The ledger and the moves are as they were, and every wait was one of a list's. -/
structure OnlyWaits (l : List Wait) (s t : State) : Prop where
  ledger : t.md.ledger = s.md.ledger
  moves : t.tpe.moves = s.tpe.moves
  waits : ∀ w ∈ t.waits, w ∈ l

theorem OnlyWaits.next {l : List Wait} {s t u : State} (h : OnlyWaits l s t) (hl : u.md.ledger = t.md.ledger) (hm : u.tpe.moves = t.tpe.moves)
    (hw : ∀ w ∈ u.waits, w ∈ t.waits) : OnlyWaits l s u :=
  ⟨hl.trans h.ledger, hm.trans h.moves, fun w hx => h.waits w (hw w hx)⟩

theorem OnlyWaits.of_in {l : List Wait} {s t u : State} {ft : Foot} (h : OnlyWaits l s t) (hin : In ft t u)
    (hft : (Part.md.foot.le ft || Part.tpe.foot.le ft || Part.waits.foot.le ft) = false) : OnlyWaits l s u := by
  simp only [Bool.or_eq_false_iff] at hft
  obtain ⟨⟨hmd, htpe⟩, hwaits⟩ := hft
  have h1 : u.md = t.md := hin.parts .md hmd
  have h2 : u.tpe = t.tpe := hin.parts .tpe htpe
  have h3 : u.waits = t.waits := hin.parts .waits hwaits
  exact h.next (by rw [h1]) (by rw [h2]) fun w hw => h3 ▸ hw

theorem State.cmdErr_waits (s : State) (c : Cmd) (status detail r0 n : Nat) : ∀ w ∈ (s.cmdErr c status detail r0 n).waits, w ∈ s.waits := by
  obtain ⟨a, ha⟩ : ∃ a : State, a = { s with waits := s.waits.filter fun w => w.ent != .cmd c.uid } := ⟨_, rfl⟩
  intro w hw
  have hstall : (a.stallEnd c.dom).waits = a.waits := (State.stallEnd_in (ft := State.stallEnd_foot) (In.refl _ a) (Foot.le_refl _)).parts .waits (by decide)
  obtain ⟨f, hf⟩ : ∃ f, s.cmdErr c status detail r0 n = ((a.stallEnd c.dom).finishCmd c.uid f).cmdRegs := ⟨_, by rw [State.cmdErr, State.entGo, ha]⟩
  have hin := (State.cmdRegs_in (ft := State.cmdRegs_foot ||| State.finishCmd_foot)
    (State.finishCmd_in (In.refl _ (a.stallEnd c.dom)) (by decide) (uid := c.uid) (f := f)) (by decide)).parts .waits (by decide)
  rw [hf, hin, hstall, ha] at hw
  exact (List.mem_filter.1 hw).1

theorem State.failWait_waits {l : List Wait} {s u : State} (h : OnlyWaits l s u) (tp : Nat) {w : Wait} (hr : ∀ c p, w.ent ≠ .rdma c p) :
    OnlyWaits l s (u.failWait tp w) := by
  have hin : In State.failWait_foot u (u.failWait tp w) := State.failWait_in (In.refl _ u) (Foot.le_refl _)
  refine h.next (congrArg MetaData.ledger (hin.parts .md (by decide))) (by rw [show (u.failWait tp w).tpe = u.tpe from hin.parts .tpe (by decide)]) ?_
  rw [State.failWait]
  split
  · rename_i r _
    have hhost := (State.failHost_in (ft := State.stallEnd_foot ||| State.failHost_foot) (State.stallEnd_in (In.refl _ u) (by decide) (d := w.dom))
      (by decide) (r := r)).parts .waits (by decide)
    rw [hhost]
    exact fun _ hx => hx
  · split
    · exact State.cmdErr_waits _ _ _ _ _ _
    · exact fun _ hx => hx
  · rename_i c p hent
    exact absurd hent (hr c p)

/-- The waits of other pages. -/
def State.waitsBut (s : State) (obj tp : Nat) : List Wait := s.waits.filter fun w => !(w.why == Why.page && w.obj == obj && w.tp == tp)

theorem State.failPage_waits {s : State} {m : Move} (hown : m.orphan = false) (hr : ∀ w ∈ s.waits, ∀ c p, w.ent ≠ .rdma c p) :
    OnlyWaits (s.waitsBut m.obj m.tp) s (s.failPage m) := by
  unfold State.failPage
  extract_lets mine hit mrs qd x s1 s2 s3 s4
  have hmine : ∀ w : Wait, mine w = (w.why == Why.page && w.obj == m.obj && w.tp == m.tp) := fun w => if_neg (by simp [hown])
  have h1 : OnlyWaits (s.waitsBut m.obj m.tp) s s1 := by
    refine ⟨rfl, rfl, fun w hw => ?_⟩
    obtain ⟨hw, hb⟩ := List.mem_filter.1 hw
    rw [hmine] at hb
    exact List.mem_filter.2 ⟨hw, hb⟩
  have h2 : OnlyWaits (s.waitsBut m.obj m.tp) s s2 :=
    State.each_inv (P := OnlyWaits (s.waitsBut m.obj m.tp) s) hit h1 fun u w hw hu => State.failWait_waits hu _ (hr w (List.mem_filter.1 hw).1)
  have hline : ∀ (u : State) (q : Req), OnlyWaits (s.waitsBut m.obj m.tp) s u → OnlyWaits (s.waitsBut m.obj m.tp) s (u.failLine q) := fun u q hu =>
    hu.of_in (State.failLine_in (ft := State.failLine_foot) (In.refl _ u) (Foot.le_refl _)) (by decide)
  have h3 : OnlyWaits (s.waitsBut m.obj m.tp) s s3 :=
    State.each_inv (P := OnlyWaits (s.waitsBut m.obj m.tp) s) mrs h2 fun u e _ hu =>
      State.each_inv (P := OnlyWaits (s.waitsBut m.obj m.tp) s) _ hu fun v q _ hv => hline v q hv
  have h4 : OnlyWaits (s.waitsBut m.obj m.tp) s s4 :=
    State.each_inv (P := OnlyWaits (s.waitsBut m.obj m.tp) s) qd h3 fun u e _ hu => hline u _ hu
  refine State.each_inv (P := OnlyWaits (s.waitsBut m.obj m.tp) s) _ h4 fun u sl _ hu => ?_
  have hk := u.missQueue_kept sl
  have hw : (u.missQueue sl).waits = u.waits := (State.missQueue_in (ft := State.missQueue_foot) (In.refl _ u) (Foot.le_refl _)).parts .waits (by decide)
  exact hu.next hk.ledger hk.moves fun w hx => hw ▸ hx

theorem State.fetchFail_facts {s : State} {m : Move} (hown : m.orphan = false) (hr : ∀ w ∈ s.waits, ∀ c p, w.ent ≠ .rdma c p) :
    ((s.fetchFail m).mapE (s.moveIx m)).st = .t3 ∧ ((s.fetchFail m).mapE (s.moveIx m)).frame = 0 ∧
      (∀ x ∈ (s.fetchFail m).tpe.moves, x.id ≠ m.id) ∧ ∀ w ∈ (s.fetchFail m).waits, ¬(w.obj = m.obj ∧ w.tp = m.tp ∧ w.why = .page) := by
  obtain ⟨a, ha⟩ : ∃ a, a = s.recordOnce (s.moveIx m) clsError m.dom 194 (item 1 m.obj ++ item 0xD m.tp) := ⟨_, rfl⟩
  have hain : In State.recordOnce_foot s a := by rw [ha]; exact State.recordOnce_in (In.refl _ s) (Foot.le_refl _)
  have haw : a.waits = s.waits := hain.parts .waits (by decide)
  have hb := State.failPage_waits (s := a) hown (by rw [haw]; exact hr)
  obtain ⟨b, hbdef⟩ : ∃ b, b = a.failPage m := ⟨_, rfl⟩
  rw [← hbdef] at hb
  have hix : b.moveIx m = s.moveIx m := State.moveIx_congr (hb.ledger.trans (congrArg MetaData.ledger (hain.parts .md (by decide)))) m
  obtain ⟨c, hc⟩ : ∃ c, c = b.setMap (s.moveIx m) { b.mapE (s.moveIx m) with st := .t3, frame := 0 } := ⟨_, rfl⟩
  obtain ⟨hgone, -, hin⟩ := (c.freeFrame m.frame).countDrop_facts m false
  have hfree : In State.freeFrame_foot c (c.freeFrame m.frame) := State.freeFrame_in (In.refl _ c) (Foot.le_refl _)
  have heq : s.fetchFail m = ((c.freeFrame m.frame).countStreams m false).dropMove m.id := by
    rw [State.fetchFail, if_neg (by simp [hown])]
    dsimp only
    rw [← ha, ← hbdef, hix, ← hc]
  rw [← heq] at hgone hin
  have hmap : (s.fetchFail m).mapE (s.moveIx m) = { b.mapE (s.moveIx m) with st := .t3, frame := 0 } := by
    rw [State.mapE, hin.parts .md (by decide), hfree.parts .md (by decide), ← State.mapE, hc, State.mapE_setMap, if_pos rfl]
  refine ⟨by rw [hmap], by rw [hmap], hgone, fun w hw hx => ?_⟩
  rw [hin.parts .waits (by decide), hfree.parts .waits (by decide), hc] at hw
  obtain ⟨-, hnot⟩ := List.mem_filter.1 (hb.waits w hw)
  obtain ⟨h1, h2, h3⟩ := hx
  simp [h1, h2, h3] at hnot

/-- Settles O24: each promotion ends as its source says, and what waited is answered only where its page failed. -/
theorem promotionsEnd : Obligations.PromotionsEnd := by
  unfold Obligations.PromotionsEnd
  refine ⟨?demand, ?filled, ?load, ?fails⟩
  case demand =>
    intro s m obj tp us ix hinv hrun hm hsrc hsrc0 hown hix hw hheld hbusy hus
    subst hix
    obtain ⟨rfl, rfl⟩ := State.moveIn_page hm
    obtain ⟨hin, hload⟩ := State.loadFrame_t2 (s := s) hown hsrc0
    obtain ⟨a, ha⟩ : ∃ a, a = s.loadFrame m [] [] [] := ⟨_, rfl⟩
    rw [← ha] at hin hload
    have hmax : a.rd .DF_MAX_US = s.rd .DF_MAX_US := hin.regs .DF_MAX_US 0 (by decide)
    obtain ⟨b, hb⟩ : ∃ b, b = a.wr .DF_MAX_US (max (a.rd .DF_MAX_US) us) := ⟨_, rfl⟩
    have hbin : In (State.dreq_foot ||| Part.dram.foot ||| Fld.DF_MAX_US.foot) s b := by
      rw [hb]
      exact State.wr_in (hin.mono (by decide)) (by decide)
    have hbmd : b.md = s.md := hbin.parts .md (by decide)
    have hbmap : ∀ x, b.mapE x = s.mapE x := fun x => by rw [State.mapE, State.mapE, hbmd]
    have hbix : b.moveIx m = s.moveIx m := State.moveIx_congr (by rw [hbmd]) m
    obtain ⟨hend, hst, hframe, hgone⟩ := State.promoteDone_facts (s := b) hown (by rw [hbin.parts .waits (by decide)]; exact hw)
      (by rw [hbin.parts .mir (by decide)]; exact hheld) (by rw [State.fl_eq (hbin.regs .RESYNC_BUSY 0 (by decide))]; exact hbusy)
    rw [hbix] at hst hframe
    refine ⟨b.promoteDone m, ?_, hst, hframe.trans (by rw [hbmap]), hgone, ?_, fun k j d hk hj hcold => ?_⟩
    · have hif : ¬(m.src != MSrc.demand || m.src0 == PgSt.zero || s.draining) = true := by simp [hsrc, hsrc0, hrun]
      have hdead : s.slotDead m = false := by simp [State.slotDead, hsrc0]
      rw [exec, execDemandFetchDone, hm]
      simp only [if_neg hif, hdead, Bool.false_eq_true, if_false, State.nandReads_none, ← ha, ← hb]
    · have hlt : s.rd .DF_MAX_US < 2 ^ 32 := State.rdi_full_lt hinv.1 (f := .DF_MAX_US) rfl 0
      rw [State.rd, hend.regs .DF_MAX_US 0 (by decide), ← State.rd, hb,
        State.rd_wr (hin.regsOk hinv.1) rfl (show max (a.rd .DF_MAX_US) us < 2 ^ 32 by rw [hmax]; omega), hmax]
    · rw [State.dline, hend.parts .dram (by decide), hb]
      exact hload hinv.2.1 k j d hk hj hcold
  case filled =>
    intro s m obj tp us ix i hrun hown hix hi hw hheld hbusy
    subst hix
    have hend : ∃ b, exec i s = .next (b.promoteDone m) ∧ In (State.dreq_foot ||| Fld.DF_MAX_US.foot) s b := by
      obtain ⟨htp, rfl, hm, hsrc0⟩ | ⟨rfl, hm⟩ := hi
      · obtain ⟨a, ha⟩ : ∃ a, a = s.when (m.src == MSrc.demand) (·.wr .DF_MAX_US (max (s.rd .DF_MAX_US) us)) := ⟨_, rfl⟩
        have hain : In (State.dreq_foot ||| Fld.DF_MAX_US.foot) s a := by
          rw [ha, State.when]
          split
          · exact State.wr_in (In.refl _ s) (by decide)
          · exact In.refl _ s
        refine ⟨a.dreq (1024 * m.frame) 1024 true .tpe (a.moveCls m), ?_, State.dreq_in hain (by decide)⟩
        have hdiv : (tp + 2 ^ 32 * us) / 2 ^ 32 = us := by omega
        have hmod : (tp + 2 ^ 32 * us) % 2 ^ 32 = tp := by omega
        have hif : ¬(m.src0 != PgSt.zero || s.draining) = true := by simp [hsrc0, hrun]
        have hload : a.loadFrame m [] [] [] = a.dreq (1024 * m.frame) 1024 true .tpe (a.moveCls m) := by
          rw [State.loadFrame]
          simp only [hown, Bool.false_and, Bool.false_eq_true, if_false, hsrc0]
        rw [exec, execZeroFillDone]
        simp only [hmod, hdiv, hm, if_neg hif, ← ha, hload]
      · refine ⟨s, ?_, In.refl _ s⟩
        rw [exec, execMoveInstallDone, hm]
        simp only [hrun, Bool.false_eq_true, if_false]
    obtain ⟨b, hexec, hbin⟩ := hend
    have hbmd : b.md = s.md := hbin.parts .md (by decide)
    have hbix : b.moveIx m = s.moveIx m := State.moveIx_congr (by rw [hbmd]) m
    obtain ⟨hend, hst, hframe, hgone⟩ := State.promoteDone_facts (s := b) hown (by rw [hbin.parts .waits (by decide)]; exact hw)
      (by rw [hbin.parts .mir (by decide)]; exact hheld) (by rw [State.fl_eq (hbin.regs .RESYNC_BUSY 0 (by decide))]; exact hbusy)
    rw [hbix] at hst hframe
    refine ⟨_, hexec, hst, hframe.trans (by rw [State.mapE, State.mapE, hbmd]), ?_, hgone⟩
    rw [hend.parts .dram (by decide), hbin.parts .dram (by decide)]
  case load =>
    intro s m obj tp ix hinv hrun hm hsrc hsrc0 hown hix
    subst hix
    obtain ⟨rfl, rfl⟩ := State.moveIn_page hm
    obtain ⟨hin, hload⟩ := State.loadFrame_t2 (s := s) hown hsrc0
    obtain ⟨a, ha⟩ : ∃ a, a = s.loadFrame m [] [] [] := ⟨_, rfl⟩
    rw [← ha] at hin hload
    refine ⟨a.updMove m.id fun m => { m with st := .install }, ?_, ?_, hin.parts .md (by decide), hload hinv.2.1⟩
    · have hif : ¬(m.src == MSrc.demand || s.draining) = true := by simp [hsrc, hrun]
      have hdead : s.slotDead m = false := by simp [State.slotDead, hsrc0]
      rw [exec, execMoveLoadDone, hm]
      simp only [if_neg hif, hdead, Bool.false_eq_true, if_false, State.nandReads_none, ← ha]
    · have htpe : a.tpe = s.tpe := hin.parts .tpe (by decide)
      rw [State.updMove, htpe]
  case fails =>
    intro s m obj tp ix hrun hm hsrc0 hown hix hr
    subst hix
    obtain ⟨rfl, rfl⟩ := State.moveIn_page hm
    obtain ⟨hst, hframe, hgone, hwaits⟩ := State.fetchFail_facts (s := s) hown hr
    refine ⟨s.fetchFail m, ?_, hst, hframe, hgone, hwaits⟩
    rw [exec, execT3FetchFail, hm]
    exact congrArg Host.Outcome.next (if_neg (by simp [hsrc0, hrun]))

/-! ### Demotions -/

theorem State.cleanFrame_empty {s : State} (hl : s.fch.lines = []) (hm : s.fch.mrs = []) (f cls : Nat) : s.cleanFrame f cls = s := by
  rw [State.cleanFrame, hl]
  show State.each s ((s.fch.mrs.filter _).map _) _ = s
  rw [hm]
  rfl

/-- Settles O25: a demotion's frame is free at once for T2, and after the slot's zero-length read for T3. -/
theorem demotionsEnd : Obligations.DemotionsEnd := by
  unfold Obligations.DemotionsEnd
  refine ⟨?home, ?send, ?unload⟩
  case home =>
    intro s m obj tp ix f hinv hrun hm hcopies hown hdest hix hfills hframe hret hfit hw hheld hbusy
    subst hix
    obtain ⟨a, ha⟩ : ∃ a, a = s.cleanFrame m.frame sc2 := ⟨_, rfl⟩
    have hain : In State.cleanFrame_foot s a := by rw [ha]; exact State.cleanFrame_in (In.refl _ s) (Foot.le_refl _)
    have hamd : a.md = s.md := hain.parts .md (by decide)
    have hatpe : a.tpe = s.tpe := hain.parts .tpe (by decide)
    have hafree : a.rd .FREE_FRAMES = s.rd .FREE_FRAMES := hain.regs .FREE_FRAMES 0 (by decide)
    have haix : a.moveIx m = s.moveIx m := State.moveIx_congr (by rw [hamd]) m
    obtain ⟨b, hb, hin, hframes, hst, hfr, hgone⟩ := State.demoteDone_facts (s := a) hown (by rw [hain.parts .waits (by decide)]; exact hw)
      (by rw [hain.parts .mir (by decide)]; exact hheld) (by rw [State.fl_eq (hain.regs .RESYNC_BUSY 0 (by decide))]; exact hbusy)
    obtain ⟨c, hc⟩ : ∃ c, c = a.setMap (a.moveIx m) { a.mapE (a.moveIx m) with st := m.dest, frame := 0 } := ⟨_, rfl⟩
    have hcregs : c.regs = a.regs := by rw [hc]; rfl
    have hctpe : c.tpe = s.tpe := by rw [hc]; exact hatpe
    have hcfree : c.rd .FREE_FRAMES = s.rd .FREE_FRAMES := by rw [State.rd_congr hcregs, hafree]
    obtain ⟨htable, hcount, hlines⟩ := State.freeFrame_facts (s := c) (f := m.frame) (e := f) (by rw [hcregs]; exact hain.regsOk hinv.1)
      (by rw [State.frame?, hctpe]; exact hframe) (by rw [hc]; exact (congrArg IntS.retire (hain.parts .int (by decide))).trans hret)
      (by rw [hcfree]; exact hfit)
    rw [← hc] at hb
    rw [← hb] at htable hcount hlines
    rw [haix] at hst hfr
    refine ⟨a.demoteDone m, ?_, hst.trans hdest, hfr, ?_, ?_, hgone, ?_⟩
    · have hif : ¬(s.draining || !s.noCopies m.frame || (!m.orphan && s.fillsOn m.frame)) = true := by simp [hrun, hcopies, hfills]
      rw [exec, execMoveCleanDone, hm]
      simp only [if_neg hif, ← ha]
      rw [if_pos (by simp [hdest])]
    · rw [hframes, htable, hctpe]
    · rw [State.rd, hin.regs .FREE_FRAMES 0 (by decide), ← State.rd, hcount, hcfree]
    · rw [hin.parts .dram (by decide)]
      exact hlines
  case send =>
    intro s m obj tp e hrun hm hcopies hown hdest he hlive hflip hl hmrs hmq hgood
    subst he
    have hfills : s.fillsOn m.frame = false := by simp [State.fillsOn, hmrs, hmq]
    have hif : ¬(s.draining || !s.noCopies m.frame || (!m.orphan && s.fillsOn m.frame)) = true := by simp [hrun, hcopies, hfills]
    have hprobe : s.each (List.range 16) (fun u k => u.probeCp m.frame k 0 []) = s :=
      State.each_const _ fun k => State.probeCp_none hflip (fun x hx => by rw [hgood x hx]; decide) _ _ _
    have hlines : (s.dram.filter fun x => x.1.1 == m.frame).map (fun x =>
        (x.1.2, if x.2.st == LSt.good then (s.cipherLine (1024 * m.frame + x.1.2)).toNat else sentinelLine)) =
        (s.dram.filter fun x => x.1.1 == m.frame).map fun x => (x.1.2, (s.cipherLine (1024 * m.frame + x.1.2)).toNat) :=
      List.map_congr_left fun x hx => congrArg (Prod.mk x.1.2) (if_pos (by rw [hgood x (List.mem_filter.1 hx).1]; rfl))
    obtain ⟨e, he⟩ : ∃ e, e = s.mapE (s.moveIx m) := ⟨_, rfl⟩
    obtain ⟨u, hu⟩ : ∃ u, u = (s.updMove m.id fun m => { m with st := .unload }).dreq (1024 * m.frame) 1024 false .tpe sc2 := ⟨_, rfl⟩
    have humd : u.md = s.md := by rw [hu]; rfl
    have hutpe : u.tpe.moves = s.tpe.moves.map (fun x => if x.id = m.id then { x with st := .unload } else x) := by rw [hu]; rfl
    have huout : u.out = s.out := by rw [hu]; rfl
    rw [← he]
    obtain ⟨ls, hls⟩ : ∃ ls, ls = (s.dram.filter fun x => x.1.1 == m.frame).map fun x => (x.1.2, (s.cipherLine (1024 * m.frame + x.1.2)).toNat) := ⟨_, rfl⟩
    rw [← hls] at hlines ⊢
    refine ⟨(u.send (.dmaPage e.t3Link e.t3Ld e.t3Addr ls)).send (.zeroRead e.t3Link e.t3Ld e.t3Addr), ?_, humd, hutpe, ?_⟩
    · rw [exec, execMoveCleanDone, hm]
      dsimp only
      rw [if_neg hif, State.cleanFrame_empty hl hmrs, if_neg (by simp [hown, hdest]), if_neg (by simp [hlive]), hprobe, hlines, ← hu, ← he]
    · rw [State.send_out, State.send_out, huout, List.append_assoc]
      rfl
  case unload =>
    intro s m obj tp ix hrun hm hown hdest hix hw hheld hbusy
    subst hix
    refine ⟨fun hlive => ?_, ?_⟩
    · obtain ⟨-, -, -, -, hst, hfr, hgone⟩ := State.demoteDone_facts (s := s) hown hw hheld hbusy
      refine ⟨s.demoteDone m, ?_, hst.trans hdest, hfr, hgone⟩
      rw [exec, execMoveUnloadDone, hm]
      simp only [hrun, Bool.false_eq_true, if_false, hown, hlive, Bool.and_self, Bool.or_true, if_true]
    · obtain ⟨hin, hst, hfr, hgone⟩ := State.demoteFail_facts (s := s) hown hw
      refine ⟨s.demoteFail m, ?_, hst, hfr, hin.parts .dram (by decide), hgone⟩
      rw [exec, execMoveUnloadDone, hm]
      simp only [hrun, Bool.false_eq_true, if_false, hown, Bool.false_and, Bool.or_self]

end Sys2Proof.Machine
end

section
/-! The remote access engine with one request under way: what is sent, the context's error state, and a request that
ends (14_remote_access.md R350, R356, R364 to R368). -/

namespace Sys2Proof.Machine

/-! ### Packet sequence numbers -/

theorem psnAfter_self (p : Nat) : psnAfter p p = 0 := by unfold psnAfter; omega

theorem psnAfter_next (p : Nat) : psnAfter p ((p + 1) % 2 ^ 24) = 1 := by unfold psnAfter; omega

theorem psnAfter_prev (p : Nat) : psnAfter p ((p + 2 ^ 24 - 1) % 2 ^ 24) = 2 ^ 24 - 1 := by unfold psnAfter; omega

/-! ### Lines and stores in a state that agrees on them -/

theorem OneLine.congr_tracker {s t : State} {obj ofs len : Nat} {o : Obj} {la : Nat} {k : Key} {cl : CLine} (h : OneLine s obj ofs len o la k cl)
    (hmd : t.md = s.md) (hmir : t.mir = s.mir) (hmoves : t.tpe.moves = s.tpe.moves) (hunloaded : t.tpe.unloaded = s.tpe.unloaded) (hfch : t.fch = s.fch) :
    OneLine t obj ofs len o la k cl where
  own := by rw [← h.own, State.own?, State.own?, State.obj?_congr (s := s) (by rw [hmd])]
  pos := h.pos
  fits := h.fits
  free := by rw [← h.free, State.pageHeld, State.pageHeld, hmir, hunloaded]
  here := by rw [← h.here, State.mapE, State.mapE, hmd]
  line := by rw [h.line, State.mapE, State.mapE, hmd]
  stays := by rw [hmoves]; exact h.stays
  cached := by
    rw [State.holds, State.cline?, hfch]
    exact h.cached
  clean := h.clean

theorem OneLine.congr {s t : State} {obj ofs len : Nat} {o : Obj} {la : Nat} {k : Key} {cl : CLine} (h : OneLine s obj ofs len o la k cl)
    (hmd : t.md = s.md) (hmir : t.mir = s.mir) (htpe : t.tpe = s.tpe) (hfch : t.fch = s.fch) : OneLine t obj ofs len o la k cl :=
  h.congr_tracker hmd hmir (by rw [htpe]) (by rw [htpe]) hfch

/-- The registers that decide whether a charge of domain d passes. -/
def chargeInputs (d : Nat) : List (Fld × Nat) := [(.DRAINING, 0), (.FLOAT_PAGES, 0), (.FLOAT_LIMIT, 0), (.CHARGE, d), (.SHARE, d)]

theorem State.canCharge_congr {s t : State} {d : Nat} (h : ∀ r ∈ chargeInputs d, t.rdi r.1 r.2 = s.rdi r.1 r.2) (n : Nat) :
    t.canCharge d n = s.canCharge d n := by
  have hdrain : t.draining = s.draining := State.fl_eq (h (.DRAINING, 0) (by simp [chargeInputs]))
  have hpages : t.rd .FLOAT_PAGES = s.rd .FLOAT_PAGES := h (.FLOAT_PAGES, 0) (by simp [chargeInputs])
  have hlimit : t.rd .FLOAT_LIMIT = s.rd .FLOAT_LIMIT := h (.FLOAT_LIMIT, 0) (by simp [chargeInputs])
  rw [State.canCharge, State.canCharge, hdrain, hpages, hlimit, h (.CHARGE, d) (by simp [chargeInputs]), h (.SHARE, d) (by simp [chargeInputs])]

theorem Storable.congr {s t : State} {d obj ofs la : Nat} {o : Obj} {cl : CLine} (h : Storable s d obj ofs la o cl) (hfch : t.fch = s.fch)
    (hregs : ∀ r ∈ chargeInputs d, t.rdi r.1 r.2 = s.rdi r.1 r.2) : Storable t d obj ofs la o cl where
  noCopy := by rw [State.others_congr hfch]; exact h.noCopy
  alone := h.alone
  same := h.same
  float hp := by rw [State.canCharge_congr hregs]; exact h.float hp

theorem State.atomicHolds_congr {s t : State} (h : t.cmd = s.cmd) (obj tp : Nat) : t.atomicHolds obj tp = s.atomicHolds obj tp := by
  unfold State.atomicHolds State.atomicOn State.granted
  rw [h]


/-! ### What is sent -/

section
variable {s : State} {x : Nat} {c : RCtx}

/-- A context that is not paused sends at once (R369). -/
theorem State.ctxSend_open (hrun : s.draining = false) (hpaused : s.rae.paused = []) (x op psn : Nat) (hdr bytes : List Nat) :
    s.ctxSend x op psn hdr bytes = s.send (.rdma x op (psn % 2 ^ 24) hdr bytes) := by
  unfold State.ctxSend
  simp [hrun, hpaused]

/-- A WRITE request of one packet is that packet, sent at once (R350). -/
theorem State.emit_one (hrun : s.draining = false) (hpaused : s.rae.paused = []) {r : TReq} (hn : r.n = 1) (hop : r.op = 1) (hpsn : r.psn < 2 ^ 24)
    (x : Nat) (c : RCtx) : ∃ op h b, s.emit x c r 0 = s.send (.rdma x op r.psn h b) := by
  unfold State.emit
  simp only [hop, hn, State.ctxSend_open hrun hpaused, Nat.add_zero, Nat.mod_eq_of_lt hpsn]
  exact ⟨_, _, _, rfl⟩

theorem State.emitFrom_one (hrun : s.draining = false) (hpaused : s.rae.paused = []) {r : TReq} (hn : r.n = 1) (hop : r.op = 1) (hpsn : r.psn < 2 ^ 24)
    (x : Nat) (c : RCtx) : ∃ op h b, s.emitFrom x c r 0 = s.send (.rdma x op r.psn h b) := by
  have hfrom : s.emitFrom x c r 0 = s.emit x c r 0 := by
    rw [State.emitFrom, if_neg (by rw [hop]; decide), hn]
    rfl
  rw [hfrom]
  exact State.emit_one hrun hpaused hn hop hpsn x c

/-- A resend from the number of the one request under way sends it (R364). -/
theorem State.raeResend_one (hrun : s.draining = false) (hpaused : s.rae.paused = []) (h : s.rae.ctxs = [((x, 0), c)]) (hready : c.err = false)
    {r : TReq} (hsq : c.sq = [r]) (hst : r.st = .sent) (hn : r.n = 1) (hop : r.op = 1) (hpsn : r.psn < 2 ^ 24) (hpart : r.part = 0) :
    ∃ op h b, s.raeResend x r.psn = s.send (.rdma x op r.psn h b) := by
  have hgot : r.got c = 0 := by rw [TReq.got, if_neg (by rw [hop]; decide), hpart]
  have hresend : s.raeResend x r.psn = s.emitFrom x c r 0 := by
    simp [State.raeResend, State.ctxReady_of_only h, hready, hsq, hst, State.each, psnAfter_self, hn, hgot]
  rw [hresend]
  exact State.emitFrom_one hrun hpaused hn hop hpsn x c

end

/-! ### The error state of a context -/

/-- The registers that a context's error writes. -/
def ctxErrRegs : List (Fld × Nat) :=
  [(.CTX_ONCHIP, 0), (.PARK_PKTS, 0), (.PARK_BYTES, 0), (.RAE_STATUS_PINNED, 0), (.CTX_ERR, 0)] ++ dbkRegs

theorem State.raeRegs_only (s : State) : Only [] ctxErrRegs s s.raeRegs :=
  ((((Only.refl _ _ s).wr (by simp [ctxErrRegs])).wr (by simp [ctxErrRegs])).wr (by simp [ctxErrRegs])).wr (by simp [ctxErrRegs])

/-- A context in error: its requests have ended, and nothing waits (R356). -/
def RCtx.failed (c : RCtx) : RCtx :=
  { c with err := true, blocked := none, parked := [], fins := [], reads := [], msgs := [], rnr := false, rnrAt := none, placed := [], gone := [],
           sq := c.sq.map fun (r : TReq) => r.finish 0x44 0 }

theorem State.ctxError_facts {s : State} {x : Nat} {c : RCtx} (hok : regsOk s.regs = true) (h : s.rae.ctxs = [((x, 0), c)]) (hready : c.err = false) :
    (s.ctxError x).rae = (s.onlyCtx x c.failed).rae ∧ Only [.rae, .waits, .dbk] ctxErrRegs s (s.ctxError x) ∧ (s.ctxError x).fl .CTX_ERR = true := by
  have hputs := State.putCtx_of_only h c.failed
  have hready' : s.ctxReady x = some c := by rw [State.ctxReady_of_only h, hready]; rfl
  obtain ⟨u, hu⟩ : ∃ u : State, u = { s.onlyCtx x c.failed with waits := s.waits.filter fun (w : Wait) => match w.ent with
      | .rdma y _ => y != x
      | _ => true } := ⟨_, rfl⟩
  have heq : s.ctxError x = ((u.record clsError c.dom 356 (item 0xE x)).setf .CTX_ERR true).raeRegs := by
    rw [hu, ← hputs, State.ctxError, hready']
    rfl
  have hu1 : Only [.rae, .waits] [] s u := by
    rw [hu]
    exact ((Only.refl _ _ s).mk_rae (by simp)).mk_waits (by simp)
  have hrec : Only [.dbk] dbkRegs u (u.record clsError c.dom 356 (item 0xE x)) := State.record_only _ _ _ _ _
  have hrae : (u.record clsError c.dom 356 (item 0xE x)).rae = (s.onlyCtx x c.failed).rae := by
    rw [hrec.rae_eq (by simp), hu]
  have hokr : regsOk (u.record clsError c.dom 356 (item 0xE x)).regs = true := regsOk_record (by rw [hu]; exact hok) _ _ _ _
  refine ⟨?rae, ?only, ?flag⟩
  case rae => rw [heq, State.raeRegs_rae]; exact hrae
  case only =>
    rw [heq]
    have hset : Only [.rae, .waits, .dbk] ctxErrRegs s ((u.record clsError c.dom 356 (item 0xE x)).setf .CTX_ERR true) :=
      Only.setf ((hu1.mono (by simp) (by simp)).step hrec (by simp) (List.subset_append_right _ _)) (by simp [ctxErrRegs])
    exact hset.step (State.raeRegs_only _) (by simp) (fun _ => id)
  case flag =>
    rw [heq, State.fl_eq (State.raeRegs_rdi _ (by decide) 0)]
    exact State.fl_setf hokr rfl (by decide) true

/-! ### A request that has ended -/

/-- The context after what its completed request sets off. -/
def RCtx.wake (c : RCtx) (opn count : Nat) (exam : Bool) : RCtx := { c with opn := opn, count := count, exam := exam }

theorem State.updCtx_onlyCtx (s : State) (x : Nat) (c : RCtx) (y : Nat) (f : RCtx → RCtx) :
    (s.onlyCtx x c).updCtx y f = s.onlyCtx x (if y = x then f c else c) := by
  by_cases hy : y = x
  · subst hy
    rw [if_pos rfl, State.updCtx_of_only (s := s.onlyCtx y c) rfl]
    rfl
  · have hnone : (s.onlyCtx x c).ctx? y = none := by
      simp [State.ctx?, State.onlyCtx, mget, Ne.symm hy]
    rw [if_neg hy, State.updCtx, hnone]

theorem State.reqEnd_only (s : State) (x : Nat) (c : RCtx) (r : TReq) :
    ∃ opn count exam, (s.onlyCtx x c).reqEnd r = s.onlyCtx x (c.wake opn count exam) := by
  unfold State.reqEnd
  extract_lets u
  have hu : ∃ opn exam, u = s.onlyCtx x (c.wake opn c.count exam) := by
    refine ⟨if r.owner = x then c.opn - 1 else c.opn, if r.owner = x then true else c.exam, ?_⟩
    rw [show u = _ from State.updCtx_onlyCtx _ _ _ _ _]
    split <;> rfl
  obtain ⟨opn, exam, hu⟩ := hu
  rw [hu]
  split
  · rw [State.updCtx_onlyCtx]
    split
    · exact ⟨_, _, _, rfl⟩
    · exact ⟨_, _, _, rfl⟩
  · exact ⟨_, _, _, rfl⟩

/-- A context whose only request has ended, and which otherwise does nothing of its own. -/
structure RCtx.Ended (c : RCtx) (q : TReq) : Prop where
  chip : c.chip = true
  reads : c.reads = []
  blocked : c.blocked = none
  parked : c.parked = []
  fins : c.fins = []
  quiet : c.exam = false
  noList : c.trigEn = false
  sq : c.sq = [q]
  ended : q.st = .done

section
variable {u t : State} {x : Nat} {c : RCtx} {q : TReq}

/-- A pass over such a context writes the request's slot and lets it go (R368). -/
theorem State.raeOnce_ended (h : u.rae.ctxs = [((x, 0), c)]) (hflush : u.rae.flush = []) (hc : c.Ended q) (hslot : u.slotWrite x q = (t, true))
    (hrae : t.rae = u.rae) : u.raeOnce = (t.onlyCtx x { c with sq := [] }).reqEnd q := by
  have hone : u.each (u.rae.ctxs.map (·.1.1)) State.raeCtx = u.raeCtx x := by rw [h]; rfl
  have hgo : u.rxGo x = u := by
    rw [State.rxGo, State.ctxReady_of_only h]
    cases c.err
    · simp [hc.blocked, hc.parked, hc.fins, State.rxNext]
    · rfl
  have hexam : State.examine 64 x u = u := by
    rw [State.examine_idle h (.inl hc.quiet), RCtx.rest_of_quiet hc.quiet, State.onlyCtx_self h]
  have hsend : State.sendNext c.sq.length x u = u := by
    rw [hc.sq]
    simp only [List.length_singleton, State.sendNext, State.ctxReady_of_only h]
    cases c.err
    · simp [hc.sq, hc.ended]
    · rfl
  have hdone : u.completeAll x = (t.onlyCtx x { c with sq := [] }).reqEnd q := by
    rw [State.completeAll, State.ctx?_of_only h]
    simp only [hc.sq, hc.ended, List.filter_cons, beq_self_eq_true, if_true, List.filter_nil, State.each, List.foldl_cons, List.foldl_nil, hslot]
    rw [State.updCtx_of_only (s := t) (by rw [hrae]; exact h)]
    simp [hc.sq]
  have hraeCtx : u.raeCtx x = (t.onlyCtx x { c with sq := [] }).reqEnd q := by
    have hread : c.sq.filter (fun r => r.st == .storing) = [] := by
      rw [hc.sq, List.filter_cons_of_neg (by rw [hc.ended]; decide)]; rfl
    rw [← hdone, State.raeCtx, State.ctx?_of_only h]
    simp only [hc.chip, Bool.not_true, Bool.false_eq_true, if_false, hgo, hc.reads, List.length_nil, State.readsRun, hexam,
      State.ctx?_of_only h, hsend, hread]
    rfl
  obtain ⟨opn, count, exam, hend⟩ := t.reqEnd_only x { c with sq := [] } q
  rw [State.raeOnce, hone, hraeCtx, hend, State.flushSlots, show (t.onlyCtx x _).rae.flush = [] from by rw [← hflush, ← hrae]; rfl]
  rfl

theorem State.raePass_step {s u : State} (hfirst : s.raeOnce = u) (hne : u ≠ s) (n : Nat) : State.raePass (n + 1) s = State.raePass n u := by
  rw [State.raePass]
  change (if s.raeOnce = s then s else State.raePass n s.raeOnce) = _
  rw [hfirst, if_neg hne]

/-- The engine over such a context ends the request. -/
theorem State.raeRun_ended (hrun : u.draining = false) (h : u.rae.ctxs = [((x, 0), c)]) (hflush : u.rae.flush = []) (hc : c.Ended q)
    (hslot : u.slotWrite x q = (t, true)) (hrae : t.rae = u.rae) :
    ∃ d, u.raeRun = (t.onlyCtx x d).raeRegs ∧ d.sq = [] ∧ d.err = c.err := by
  obtain ⟨opn, count, exam, hend⟩ := t.reqEnd_only x { c with sq := [] } q
  obtain ⟨d, hd⟩ : ∃ d : RCtx, d = { c with sq := [] }.wake opn count exam := ⟨_, rfl⟩
  have hfirst : u.raeOnce = t.onlyCtx x d := by rw [State.raeOnce_ended h hflush hc hslot hrae, hend, hd]
  have hidle : d.Idle := by
    rw [hd]
    exact ⟨hc.chip, hc.reads, hc.blocked, hc.parked, hc.fins, by simp [RCtx.wake]⟩
  have hlist : d.trigEn = false := by rw [hd]; exact hc.noList
  have hne : t.onlyCtx x d ≠ u := fun heq => by
    have hctx : some d = some c := by rw [← State.onlyCtx_ctx? t x d, heq, State.ctx?_of_only h]
    have hsq : d.sq = c.sq := by rw [Option.some.inj hctx]
    rw [hc.sq, hd] at hsq
    cases hsq
  have hflush' : (t.onlyCtx x d).rae.flush = [] := by rw [← hflush, ← hrae]; rfl
  have hsecond : (t.onlyCtx x d).raeOnce = t.onlyCtx x d.rest := State.raeOnce_idle rfl hflush' hidle (.inr hlist)
  have hthird : (t.onlyCtx x d.rest).raeOnce = t.onlyCtx x d.rest := by
    have hlist' : d.rest.trigEn = false := by
      rw [RCtx.rest]
      split
      · exact hlist
      · exact hlist
    rw [State.raeOnce_idle (s := t.onlyCtx x d.rest) (x := x) (c := d.rest) rfl hflush' hidle.resting (.inr hlist'), RCtx.rest_rest, State.onlyCtx_onlyCtx]
  refine ⟨d.rest, ?_, by rw [RCtx.rest_sq, hd]; rfl, by rw [RCtx.rest_err, hd]; rfl⟩
  rw [State.raeRun, if_neg (by simp [hrun, h]), State.raePass_step hfirst hne 7, State.raePass_stable hsecond hthird 5]

end

end Sys2Proof.Machine
end

section
/-! What ends, holds or sends again a remote request (14_remote_access.md R361, R363 to R365, R368): O42. -/

namespace Sys2Proof.Machine

/-! ### A context with one request -/

section
variable {c : RCtx} {r : TReq}

theorem RCtx.sentPsn_one (hsq : c.sq = [r]) (hst : r.st = .sent ∨ r.st = .settling) (psn : Nat) :
    c.sentPsn psn = (decide (psnAfter r.psn psn < 2 ^ 23) && decide (psnAfter psn c.spsn ≤ 2 ^ 23) && psn != c.spsn) := by
  have hfind : (c.sq.find? fun (r : TReq) => r.st == RqSt.sent || r.st == RqSt.settling) = some r := by
    rw [hsq]
    exact List.find?_cons_of_pos (by rcases hst with h | h <;> rw [h] <;> decide)
  rw [RCtx.sentPsn, hfind]

theorem RCtx.sentPsn_here (hsq : c.sq = [r]) (hst : r.st = .sent ∨ r.st = .settling) (hspsn : c.spsn = (r.psn + 1) % 2 ^ 24) :
    c.sentPsn r.psn = true := by
  have hne : r.psn ≠ (r.psn + 1) % 2 ^ 24 := by omega
  rw [RCtx.sentPsn_one hsq hst, hspsn, psnAfter_self, psnAfter_next]
  simpa using hne

theorem RCtx.sentPsn_prev (hsq : c.sq = [r]) (hst : r.st = .sent ∨ r.st = .settling) : c.sentPsn ((r.psn + 2 ^ 24 - 1) % 2 ^ 24) = false := by
  rw [RCtx.sentPsn_one hsq hst, psnAfter_prev]
  rfl

theorem TReq.finish_open (h : r.st ≠ .done) (status mark : Nat) : r.finish status mark = { r with st := .done, status := status, mark := mark } := by
  rw [TReq.finish, if_neg (by simpa using h)]

end

section
variable {s : State} {x : Nat} {c : RCtx} {r : TReq}

/-- An acknowledgement of what lies before the request changes nothing. -/
theorem SoleCtx.ackUpTo_prev (h : SoleCtx s x c) (hsq : c.sq = [r]) (hst : r.st = .sent ∨ r.st = .settling) :
    s.ackUpTo x ((r.psn + 2 ^ 24 - 1) % 2 ^ 24) = s := by
  simp only [State.ackUpTo, h.ctxReady, RCtx.sentPsn_prev hsq hst, Bool.not_false, if_true]

/-- The context after progress of its one request. -/
def RCtx.advance (c : RCtx) (q : TReq) : RCtx := { c with sq := [q], retries := 0, rnrs := 0 }

/-- An acknowledgement of the request's one packet: it is complete, or waits for SETTLE_ACK (R361, R364). -/
theorem SoleCtx.ackUpTo_here (h : SoleCtx s x c) (hsq : c.sq = [r]) (hst : r.st = .sent) (hn : r.n = 1) (hop : r.op ≠ 3)
    (hspsn : c.spsn = (r.psn + 1) % 2 ^ 24) :
    s.ackUpTo x r.psn = s.onlyCtx x (c.advance (if r.settle then { r with st := .settling } else r.finish 0 0)) := by
  obtain ⟨q, hq⟩ : ∃ q : TReq, q = if r.settle then { r with st := .settling } else r.finish 0 0 := ⟨_, rfl⟩
  have hreqs : ackReqs c r.psn c.sq = [q] := by
    rw [hsq, ackReqs, if_pos (by rw [hst]; rfl), if_neg hop, hq, hn, psnAfter_self]
    rfl
  have hne : [q] ≠ c.sq := by
    rw [hsq]
    intro heq
    have hqst : q.st = r.st := by rw [List.singleton_inj.1 heq]
    rw [hst, hq] at hqst
    split at hqst
    · cases hqst
    · rw [TReq.finish_open (by rw [hst]; decide)] at hqst
      cases hqst
  simp only [State.ackUpTo, h.ctxReady, RCtx.sentPsn_here hsq (.inl hst) hspsn, Bool.not_true, Bool.false_eq_true, if_false, hreqs, if_neg hne,
    State.putCtx_of_only h.only, State.progress, ← hq]
  exact State.updCtx_of_only (s := s.onlyCtx x { c with sq := [q] }) (c := { c with sq := [q] }) rfl _

end

/-- An engine whose only context does nothing and has no list to examine only posts its counters. -/
theorem State.raeRun_quiet {t : State} {x : Nat} {d : RCtx} (hrun : t.draining = false) (hctx : t.rae.ctxs = [((x, 0), d)]) (hflush : t.rae.flush = [])
    (hi : d.Idle) (hexam : d.exam = false) : t.raeRun = t.raeRegs := by
  rw [State.raeRun_idle hrun hctx hflush hi (.inl hexam), RCtx.rest_of_quiet hexam, State.onlyCtx_self hctx]

/-! ### The slot of a request that ended -/

theorem State.slotWrite_gone {s : State} {q : TReq} (h : s.own? q.obj = none) (x : Nat) : s.slotWrite x q = (s, true) := by
  rw [State.slotWrite, h]

/-- What the write of a slot may change. -/
def slotRegs (d : Nat) : List (Fld × Nat) := [(.FLOAT_PAGES, 0), (.CHARGE, d), (.STALLED, d)]

/-- A slot in a cached line that can be stored is written at once (R368). -/
theorem OneLine.slotWrite {s : State} {q : TReq} {o : Obj} {la : Nat} {k : Key} {cl : CLine} (h : OneLine s q.obj q.ofs 64 o la k cl)
    (hsize : q.ofs + 64 ≤ o.size) (hs : Storable s q.dom q.obj q.ofs la o cl) (hatomic : s.atomicHolds q.obj (q.ofs / 65536) = false) (x : Nat) :
    ∃ t, s.slotWrite x q = (t, true) ∧ t.fch.lines = mput s.fch.lines k (cl.store q.line fullMask false) ∧
      Only [.md, .stl, .tpe, .fch, .waits] (slotRegs q.dom) s t := by
  obtain ⟨t, hstore, hlines, honly⟩ := h.storeLine hs sc1 q.line fullMask
  have hpage : s.raePage q.dom q.obj (q.ofs / 65536) o false = (s, none) := by
    simp only [State.raePage, h.free, h.here, if_true, State.dropDemotion_still h.stays]
  have hgo : Only [.waits] [(.STALLED, q.dom)] t (t.entGo (.rdma x ownPsn) q.dom) := State.entGo_only _ _ _
  refine ⟨t.entGo (.rdma x ownPsn) q.dom, ?write, ?lines, ?only⟩
  case write =>
    simp only [State.slotWrite, h.own, if_neg (Nat.not_lt.2 hsize), hpage, hatomic, Bool.false_eq_true, if_false, hstore]
  case lines => rw [hgo.fch_eq (by simp), hlines]
  case only => exact (honly.mono (by simp) (by simp [slotRegs])).step hgo (by simp) (by simp [slotRegs])

/-- A request that ended is let go, with its slot written (R368). -/
theorem OneLine.slotEnd {s : State} {x : Nat} {d : RCtx} {q : TReq} {o : Obj} {la : Nat} {k : Key} {cl : CLine} (hrun : s.draining = false)
    (hctx : s.rae.ctxs = [((x, 0), d)]) (hflush : s.rae.flush = []) (hd : d.Ended q) (h : OneLine s q.obj q.ofs 64 o la k cl)
    (hsize : q.ofs + 64 ≤ o.size) (hs : Storable s q.dom q.obj q.ofs la o cl) (hatomic : s.atomicHolds q.obj (q.ofs / 65536) = false) :
    ∃ e, s.raeRun.ctx? x = some e ∧ e.sq = [] ∧ mget s.raeRun.fch.lines k = some (cl.store q.line fullMask false) ∧ e.err = d.err := by
  obtain ⟨t, hslot, hlines, honly⟩ := h.slotWrite hsize hs hatomic x
  obtain ⟨e, hend, hsq, herr⟩ := State.raeRun_ended hrun hctx hflush hd hslot (honly.rae_eq (by simp))
  refine ⟨e, ?_, hsq, ?_, herr⟩
  · rw [hend, State.raeRegs_ctx?, State.onlyCtx_ctx?]
  · rw [hend, (State.raeRegs_only _).fch_eq (by simp)]
    exact (congrArg (mget · k) hlines).trans (mget_mput _ _ _)

/-! ### The rows -/

theorem State.reqRow_of_running {s : State} (hrun : s.draining = false) (f : State → State) : s.reqRow f = (f s).raeRun := by
  rw [State.reqRow, if_neg (by rw [hrun]; decide)]

section
variable {s : State} {x : Nat} {c : RCtx} {r : TReq} (h : SoleCtx s x c) (hsq : c.sq = [r])
include h hsq

theorem SoleCtx.exec_acknowledge (hst : r.st = .sent) (hn : r.n = 1) (hop : r.op ≠ 3) (hspsn : c.spsn = (r.psn + 1) % 2 ^ 24) :
    exec (.acknowledge x r.psn) s =
      .next (s.onlyCtx x (c.advance (if r.settle then { r with st := .settling } else r.finish 0 0))).raeRun := by
  rw [← h.ackUpTo_here hsq hst hn hop hspsn, exec, execAcknowledge, State.reqRow_of_running h.running]

theorem SoleCtx.exec_settleAck (hst : r.st = .settling) (hn : r.n = 1) (hpsn : r.psn < 2 ^ 24) {b : Nat} (hb : b < 2) (mark : Nat) :
    exec (.settleAck x r.psn b mark) s = .next (s.onlyCtx x (c.advance (r.finish (2 * b) mark))).raeRun := by
  have hlast : (r.psn + r.n - 1) % 2 ^ 24 = r.psn := by rw [hn]; omega
  rw [exec, execSettleAck, State.reqRow_of_running h.running]
  simp only [h.ctxReady, hsq, List.any_cons, List.any_nil, hst, hlast, beq_self_eq_true, Bool.and_self, Bool.or_false, Option.map_some,
    Option.getD_some, Bool.not_true, Bool.false_eq_true, if_false, hb, if_true, State.updReq, State.updCtx_of_only h.only, List.map_cons,
    List.map_nil, State.progress, State.updCtx_onlyCtx]
  rfl

/-- A NAK of the request's number: what lies before it was acknowledged already, and the NAK decides (R364, R365). -/
theorem SoleCtx.exec_rdmaNak (hst : r.st = .sent) (hspsn : c.spsn = (r.psn + 1) % 2 ^ 24) (syn : Nat) :
    exec (.rdmaNak x r.psn syn) s = .next (State.raeRun (
      if syn / 32 = 1 then
        if c.rnrRetry != 7 && decide (c.rnrRetry ≤ c.rnrs) then s.retryExc x
        else s.onlyCtx x { c with rnrs := c.rnrs + 1, rnrAt := some r.psn }
      else if syn = synSeq then s.raeResend x r.psn
      else if syn = synAcc then (s.failReq x r.psn 0x41).ctxError x
      else if syn = synInv then (s.failReq x r.psn 0x42).ctxError x
      else if syn = synOp then (s.failReq x r.psn 0x43).ctxError x
      else s)) := by
  rw [exec, execRdmaNak, State.reqRow_of_running h.running]
  simp only [h.ctxReady, RCtx.sentPsn_here hsq (.inl hst) hspsn, Bool.not_true, Bool.false_eq_true, if_false, h.ackUpTo_prev hsq (.inl hst),
    State.ctx?_of_only h.only, Option.map_some, Option.getD_some, State.updCtx_of_only h.only]

/-- A failed request leaves its context with that status. -/
theorem SoleCtx.failReq_eq (hst : r.st = .sent) (hn : r.n = 1) (status : Nat) :
    s.failReq x r.psn status = s.onlyCtx x { c with sq := [r.finish status 0] } := by
  have hhit : (r.st == RqSt.sent && decide (psnAfter r.psn r.psn < r.n)) = true := by rw [hst, psnAfter_self, hn]; rfl
  rw [State.failReq, State.updReq, State.updCtx_of_only h.only, hsq, List.map_singleton, if_pos hhit]

end

/-! ### The obligation -/

/-- A request that is answered ends, with its slot written. -/
theorem SoleCtx.request_ends {s : State} {x : Nat} {c : RCtx} {r : TReq} {i : Instr} {st mark : Nat} {o : Obj} {la : Nat} {k : Key} {cl : CLine}
    (hinv : s.Inv) (h : SoleCtx s x c) (hsq : c.sq = [r]) (hlist : c.trigEn = false) (hn : r.n = 1) (hop : r.op ≠ 3) (hpsn : r.psn < 2 ^ 24)
    (hspsn : c.spsn = (r.psn + 1) % 2 ^ 24) (hl : OneLine s r.obj r.ofs 64 o la k cl) (hsize : r.ofs + 64 ≤ o.size)
    (hs : Storable s r.dom r.obj r.ofs la o cl) (hatomic : s.atomicHolds r.obj (r.ofs / 65536) = false)
    (hi : (i = .acknowledge x r.psn ∧ r.st = .sent ∧ r.settle = false ∧ st = 0 ∧ mark = 0) ∨
      (∃ b, i = .settleAck x r.psn b mark ∧ r.st = .settling ∧ b < 2 ∧ st = 2 * b) ∨
      (∃ syn, i = .rdmaNak x r.psn syn ∧ r.st = .sent ∧ (syn, st) ∈ [(0x62, 0x41), (0x61, 0x42), (0x63, 0x43)] ∧ mark = 0)) :
    ∃ t c', exec i s = .next t ∧ t.ctx? x = some c' ∧ c'.sq = [] ∧
      mget t.fch.lines k = some (cl.store (BitVec.ofNat 512 (setBits (setBits (setBit r.slot 8 false) 384 8 st) 448 64 mark)) fullMask false) ∧
      (r.st = .sent → c'.err = decide (st ≠ 0)) := by
  have hopen : r.st ≠ .done := by
    obtain ⟨-, hst, -⟩ | ⟨b, -, hst, -⟩ | ⟨syn, -, hst, -⟩ := hi <;> rw [hst] <;> decide
  obtain ⟨q, hq⟩ : ∃ q : TReq, q = { r with st := .done, status := st, mark := mark } := ⟨_, rfl⟩
  have hfin : r.finish st mark = q := by rw [TReq.finish_open hopen, hq]
  have hqst : q.st = .done := by rw [hq]
  have hadvance : (c.advance q).Ended q := ⟨h.chip, h.reads, h.blocked, h.parked, h.fins, h.quiet, hlist, rfl, hqst⟩
  -- the row leaves one context whose request has ended, and nothing else that the slot's write needs
  obtain ⟨u, d, hexec, hctx, hflush, hd, honly, herr⟩ : ∃ u d, exec i s = .next u.raeRun ∧ u.rae.ctxs = [((x, 0), d)] ∧ u.rae.flush = [] ∧
      d.Ended q ∧ Only [.rae, .waits, .dbk] ctxErrRegs s u ∧ (r.st = .sent → d.err = decide (st ≠ 0)) := by
    obtain ⟨rfl, hst, hsettle, rfl, rfl⟩ | ⟨b, rfl, hst, hb, rfl⟩ | ⟨syn, rfl, hst, hsyn, rfl⟩ := hi
    · have hexec := h.exec_acknowledge hsq hst hn hop hspsn
      rw [hsettle, if_neg (by decide), hfin] at hexec
      exact ⟨_, _, hexec, rfl, h.flush, hadvance, (Only.refl _ _ s).mk_rae (by simp), fun _ => h.ready⟩
    · have hexec := h.exec_settleAck hsq hst hn hpsn hb mark
      rw [hfin] at hexec
      refine ⟨_, _, hexec, rfl, h.flush, hadvance, (Only.refl _ _ s).mk_rae (by simp), fun hs => ?_⟩
      rw [hs] at hst
      cases hst
    · obtain ⟨d, hd⟩ : ∃ d : RCtx, d = { c with sq := [q] } := ⟨_, rfl⟩
      have hrow : exec (.rdmaNak x r.psn syn) s = .next ((s.onlyCtx x d).ctxError x).raeRun := by
        rw [h.exec_rdmaNak hsq hst hspsn, hd, ← hfin]
        simp only [List.mem_cons, Prod.mk.injEq, List.not_mem_nil, or_false] at hsyn
        obtain ⟨rfl, rfl⟩ | ⟨rfl, rfl⟩ | ⟨rfl, rfl⟩ := hsyn <;> rw [← h.failReq_eq hsq hst hn] <;> rfl
      have hst0 : st ≠ 0 := by
        rintro rfl
        simp at hsyn
      obtain ⟨hrae, honly, -⟩ := State.ctxError_facts (s := s.onlyCtx x d) (x := x) (c := d) hinv.1 rfl (by rw [hd]; exact h.ready)
      have hfailed : d.failed.Ended q := by
        refine ⟨by rw [hd]; exact h.chip, rfl, rfl, rfl, rfl, by rw [hd]; exact h.quiet, by rw [hd]; exact hlist, ?_, hqst⟩
        rw [RCtx.failed, hd]
        exact List.singleton_inj.2 (if_pos (by rw [hqst]; rfl))
      refine ⟨_, d.failed, hrow, by rw [hrae]; rfl, by rw [hrae]; exact h.flush, hfailed, ?_, fun _ => by simp [RCtx.failed, hst0]⟩
      exact ((Only.refl _ ctxErrRegs s).mk_rae (by simp)).step honly (by simp) (fun _ => id)
  have hobj : q.obj = r.obj ∧ q.ofs = r.ofs ∧ q.dom = r.dom := by rw [hq]; exact ⟨rfl, rfl, rfl⟩
  obtain ⟨hobj, hofs, hdom⟩ := hobj
  have hrun : u.draining = false := (honly.fl_eq (by decide)).trans h.running
  have hfch : u.fch = s.fch := honly.fch_eq (by simp)
  have hl' : OneLine u q.obj q.ofs 64 o la k cl := by
    rw [hobj, hofs]
    exact hl.congr (honly.md_eq (by simp)) (honly.mir_eq (by simp)) (honly.tpe_eq (by simp)) hfch
  have hs' : Storable u q.dom q.obj q.ofs la o cl := by
    rw [hobj, hofs, hdom]
    refine hs.congr hfch fun f hf => honly.regs _ _ fun hmem => ?_
    simp only [chargeInputs, List.mem_cons, List.not_mem_nil, or_false] at hf
    simp only [ctxErrRegs, dbkRegs, List.cons_append, List.nil_append, List.mem_cons, Prod.mk.injEq, List.not_mem_nil, or_false] at hmem
    obtain rfl | rfl | rfl | rfl | rfl := hf <;> simp at hmem
  have hatomic' : u.atomicHolds q.obj (q.ofs / 65536) = false := by
    rw [hobj, hofs, State.atomicHolds_congr (honly.cmd_eq (by simp))]
    exact hatomic
  obtain ⟨e, he, hesq, hline, heerr⟩ := OneLine.slotEnd hrun hctx hflush hd hl' (by rw [hofs]; exact hsize) hs' hatomic'
  refine ⟨_, e, hexec, he, hesq, ?_, fun hst => heerr.trans (herr hst)⟩
  rw [hline, hq]
  rfl

section
variable {s : State} {x : Nat} {c : RCtx} {r : TReq} (h : SoleCtx s x c)
include h

/-- The engine leaves a sole context that does nothing as it is. -/
theorem SoleCtx.raeRun_only {d : RCtx} (hi : d.Idle) (hexam : d.exam = false) : (s.onlyCtx x d).raeRun = (s.onlyCtx x d).raeRegs :=
  State.raeRun_quiet (t := s.onlyCtx x d) h.running rfl h.flush hi hexam

/-- A packet sent on a sole context whose requests stay under way. -/
theorem SoleCtx.raeRun_send {t : State} {d : RCtx} (hi : d.Idle) (hexam : d.exam = false) (hrae : t.rae = (s.onlyCtx x d).rae)
    (hrun : t.draining = false) (m : Msg) :
    (t.send m).raeRun.ctx? x = some d ∧ (t.send m).raeRun.out = t.out ++ [m] ∧ Only [.out] ctxErrRegs t (t.send m).raeRun := by
  have hctx : t.rae.ctxs = [((x, 0), d)] := by rw [hrae]; rfl
  have heq : (t.send m).raeRun = (t.send m).raeRegs :=
    State.raeRun_quiet (t := t.send m) hrun hctx (by rw [show (t.send m).rae = _ from hrae]; exact h.flush) hi hexam
  rw [heq]
  refine ⟨?_, ?_, ?_⟩
  · rw [State.raeRegs_ctx?]; exact State.ctx?_of_only hctx
  · rw [(State.raeRegs_only _).out_eq (by simp), State.send_out]
  · exact (Only.send (Only.refl _ _ t) (by simp)).step (State.raeRegs_only _) (by simp) (fun _ => id)

variable (hsq : c.sq = [r]) (hst : r.st = .sent)
include hsq hst

omit h in
theorem RCtx.allSent : ∀ q ∈ c.sq, q.st = .sent ∨ q.st = .settling := by
  rw [hsq]
  exact fun q hq => .inl (by rw [List.mem_singleton.1 hq, hst])

/-- With SETTLE, a request acknowledged waits for SETTLE_ACK (R363, R364). -/
theorem SoleCtx.request_settles (hn : r.n = 1) (hop : r.op ≠ 3) (hspsn : c.spsn = (r.psn + 1) % 2 ^ 24) (hsettle : r.settle = true) :
    ∃ t c', exec (.acknowledge x r.psn) s = .next t ∧ t.ctx? x = some c' ∧ c'.sq = [{ r with st := .settling }] := by
  have hexec := h.exec_acknowledge hsq hst hn hop hspsn
  rw [if_pos hsettle, h.raeRun_only (d := c.advance { r with st := .settling })
    ⟨h.chip, h.reads, h.blocked, h.parked, h.fins, fun q hq => .inr (by rw [List.mem_singleton.1 hq])⟩ h.quiet] at hexec
  exact ⟨_, _, hexec, by rw [State.raeRegs_ctx?, State.onlyCtx_ctx?], rfl⟩

/-- A sequence NAK of its number sends the request again (R364). -/
theorem SoleCtx.request_again (hn : r.n = 1) (hop : r.op = 1) (hpsn : r.psn < 2 ^ 24) (hspsn : c.spsn = (r.psn + 1) % 2 ^ 24) (hpart : r.part = 0) :
    ∃ t c' op h b, exec (.rdmaNak x r.psn 0x60) s = .next t ∧ t.ctx? x = some c' ∧ c'.sq = [r] ∧ t.out = s.out ++ [Msg.rdma x op r.psn h b] := by
  obtain ⟨op, hd, b, hsend⟩ := State.raeResend_one h.running h.paused h.only h.ready hsq hst hn hop hpsn hpart
  have hexec : exec (.rdmaNak x r.psn 0x60) s = .next (s.raeResend x r.psn).raeRun := h.exec_rdmaNak hsq hst hspsn 0x60
  obtain ⟨hctx, hout, -⟩ := h.raeRun_send (t := s) (h.idle (RCtx.allSent hsq hst)) h.quiet (by rw [State.onlyCtx_self h.only]) h.running (.rdma x op r.psn hd b)
  rw [hsend] at hexec
  exact ⟨_, c, op, hd, b, hexec, hctx, hsq, hout⟩

/-- An RNR NAK holds the request until its timer (R365). -/
theorem SoleCtx.request_held (hspsn : c.spsn = (r.psn + 1) % 2 ^ 24) (hretry : c.rnrRetry = 7) {n : Nat} (hlt : n < 32) :
    ∃ t c', exec (.rdmaNak x r.psn (32 + n)) s = .next t ∧ t.ctx? x = some c' ∧ c'.rnrAt = some r.psn ∧ c'.rnrs = c.rnrs + 1 ∧ t.out = s.out := by
  have hsyn : (32 + n) / 32 = 1 := by omega
  have hexec := h.exec_rdmaNak hsq hst hspsn (32 + n)
  rw [if_pos hsyn, hretry, if_neg (by simp),
    h.raeRun_only (d := { c with rnrs := c.rnrs + 1, rnrAt := some r.psn }) ⟨h.chip, h.reads, h.blocked, h.parked, h.fins, RCtx.allSent hsq hst⟩ h.quiet] at hexec
  exact ⟨_, _, hexec, by rw [State.raeRegs_ctx?, State.onlyCtx_ctx?], rfl, rfl, (State.raeRegs_only _).out_eq (by simp)⟩

omit h in
theorem RCtx.sqParts : (c.sq.filter fun (r : TReq) => r.st == RqSt.sent) = [r] ∧ (c.sq.filter fun (r : TReq) => r.st == RqSt.settling) = [] := by
  rw [hsq]
  simp [hst]

/-- A timeout counts a retry and sends the request again (R364). -/
theorem SoleCtx.request_retried (hinv : s.Inv) (hrnr : c.rnrAt = none) (hn : r.n = 1) (hop : r.op = 1) (hpsn : r.psn < 2 ^ 24) (hpart : r.part = 0)
    (hlt : c.retries < c.retryCnt) :
    ∃ t c' op h b, exec (.rdmaRetryTimeout x) s = .next t ∧ t.ctx? x = some c' ∧ c'.retries = c.retries + 1 ∧
      t.rd .RAE_RETX_CNT = min (2 ^ 32 - 1) (s.rd .RAE_RETX_CNT + 1) ∧ t.out = s.out ++ [Msg.rdma x op r.psn h b] := by
  obtain ⟨hsent, hwait⟩ := RCtx.sqParts hsq hst
  have hgot : r.got c = 0 := by rw [TReq.got, if_neg (by rw [hop]; decide), hpart]
  obtain ⟨d, hd⟩ : ∃ d : RCtx, d = { c with retries := c.retries + 1 } := ⟨_, rfl⟩
  obtain ⟨u, hu⟩ : ∃ u : State, u = (s.onlyCtx x d).count .RAE_RETX_CNT 0 .RAE_FLAGS_CNT_OVF 0 5 := ⟨_, rfl⟩
  have hcount : Only [.dbk] ((.RAE_RETX_CNT, 0) :: (.RAE_FLAGS_CNT_OVF, 0) :: dbkRegs) (s.onlyCtx x d) u := hu ▸ State.count_only _ _ _ _ _ _
  have hrun : u.draining = false := (hcount.fl_eq (by decide)).trans h.running
  have hrae : u.rae = (s.onlyCtx x d).rae := hcount.rae_eq (by simp)
  obtain ⟨op, hdr, b, hsend⟩ := State.emitFrom_one hrun (by rw [hrae]; exact h.paused) hn hop hpsn x c
  have hexec : exec (.rdmaRetryTimeout x) s = .next (u.emitFrom x c r 0).raeRun := by
    rw [exec, execRdmaRetryTimeout, State.reqRow_of_running h.running]
    simp only [h.ctxReady, hsent, hwait, hrnr, List.isEmpty_nil, List.isEmpty_cons, Bool.false_and, Option.isSome_none, Bool.or_self,
      Bool.false_eq_true, if_false, if_neg (Nat.not_le.2 hlt), State.updCtx_of_only h.only, State.each, List.foldl_nil, List.foldl_cons, hgot, hu, hd]
  have hi : d.Idle := by
    rw [hd]
    exact ⟨h.chip, h.reads, h.blocked, h.parked, h.fins, RCtx.allSent hsq hst⟩
  obtain ⟨hctx, hout, honly⟩ := h.raeRun_send hi (by rw [hd]; exact h.quiet) hrae hrun (.rdma x op r.psn hdr b)
  rw [hsend] at hexec
  refine ⟨_, d, op, hdr, b, hexec, hctx, by rw [hd], ?_, by rw [hout, hcount.out_eq (by simp)]; rfl⟩
  rw [honly.rd_eq (by decide), hu]
  exact State.count_rdi (s := s.onlyCtx x d) hinv.1 (f := .RAE_RETX_CNT) (ovf := .RAE_FLAGS_CNT_OVF) rfl (by decide) (by decide) 0 0 5

/-- With no retry left the context is in error (R365). -/
theorem SoleCtx.request_exhausted (hinv : s.Inv) (hlist : c.trigEn = false) (hrnr : c.rnrAt = none) (hgone : s.own? r.obj = none)
    (hle : c.retryCnt ≤ c.retries) :
    ∃ t c', exec (.rdmaRetryTimeout x) s = .next t ∧ t.ctx? x = some c' ∧ c'.err = true ∧
      t.rd .RETRY_EXC_CNT = min (2 ^ 32 - 1) (s.rd .RETRY_EXC_CNT + 1) := by
  obtain ⟨hsent, hwait⟩ := RCtx.sqParts hsq hst
  obtain ⟨q, hq⟩ : ∃ q : TReq, q = { r with st := .done, status := 0x40, mark := 0 } := ⟨_, rfl⟩
  have hfin : r.finish 0x40 0 = q := by rw [TReq.finish_open (by rw [hst]; decide), hq]
  obtain ⟨d, hd⟩ : ∃ d : RCtx, d = { c with sq := [q] } := ⟨_, rfl⟩
  obtain ⟨u, hu⟩ : ∃ u : State, u = s.count .RETRY_EXC_CNT 0 .RAE_FLAGS_CNT_OVF 0 8 := ⟨_, rfl⟩
  have hcount : Only [.dbk] ((.RETRY_EXC_CNT, 0) :: (.RAE_FLAGS_CNT_OVF, 0) :: dbkRegs) s u := hu ▸ State.count_only _ _ _ _ _ _
  have hctx : u.rae.ctxs = [((x, 0), c)] := by rw [hcount.rae_eq (by simp)]; exact h.only
  have hfind : (c.sq.find? fun (r : TReq) => r.st == RqSt.sent || r.st == RqSt.settling) = some r := by
    rw [hsq]; exact List.find?_cons_of_pos (by rw [hst]; rfl)
  have hexc : s.retryExc x = (u.onlyCtx x d).ctxError x := by
    simp only [State.retryExc, ← hu, State.ctx?_of_only hctx, Option.bind_some, hfind, State.updReq, State.updCtx_of_only hctx]
    simp only [hsq, List.map_cons, List.map_nil, if_true, hfin, hd]
  have hexec : exec (.rdmaRetryTimeout x) s = .next ((u.onlyCtx x d).ctxError x).raeRun := by
    rw [exec, execRdmaRetryTimeout, State.reqRow_of_running h.running, ← hexc]
    simp only [h.ctxReady, hsent, hwait, hrnr, List.isEmpty_nil, List.isEmpty_cons, Bool.false_and, Option.isSome_none, Bool.or_self,
      Bool.false_eq_true, if_false, if_pos hle]
  obtain ⟨hrae, honly, -⟩ := State.ctxError_facts (s := u.onlyCtx x d) (x := x) (c := d) (by rw [hu]; exact regsOk_count hinv.1 _ _ _ _ _) rfl
    (by rw [hd]; exact h.ready)
  have hqst : q.st = .done := by rw [hq]
  have hfailed : d.failed.Ended q := by
    refine ⟨by rw [hd]; exact h.chip, rfl, rfl, rfl, rfl, by rw [hd]; exact h.quiet, by rw [hd]; exact hlist, ?_, hqst⟩
    rw [RCtx.failed, hd]
    exact List.singleton_inj.2 (if_pos (by rw [hqst]; rfl))
  have hgone' : ((u.onlyCtx x d).ctxError x).own? q.obj = none := by
    have hmd : ((u.onlyCtx x d).ctxError x).md = s.md := (honly.md_eq (by simp)).trans (hcount.md_eq (by simp))
    rw [← hgone, State.own?, State.own?, State.obj?_congr (s := s) (by rw [hmd]), hq]
  have hrun : ((u.onlyCtx x d).ctxError x).draining = false :=
    (honly.fl_eq (by decide)).trans ((hcount.fl_eq (by decide)).trans h.running)
  obtain ⟨e, hend, -, herr⟩ := State.raeRun_ended hrun (by rw [hrae]; rfl)
    (by rw [hrae]; exact (congrArg RaeS.flush (hcount.rae_eq (by simp))).trans h.flush) hfailed (State.slotWrite_gone hgone' x) rfl
  refine ⟨_, e, hexec, by rw [hend, State.raeRegs_ctx?, State.onlyCtx_ctx?], by rw [herr]; rfl, ?_⟩
  rw [hend, (State.raeRegs_only _).rd_eq (by decide)]
  refine (honly.rd_eq (f := .RETRY_EXC_CNT) (by decide)).trans ?_
  rw [show (u.onlyCtx x d).rd .RETRY_EXC_CNT = u.rd .RETRY_EXC_CNT from rfl, hu]
  exact State.count_rdi hinv.1 (f := .RETRY_EXC_CNT) (ovf := .RAE_FLAGS_CNT_OVF) rfl (by decide) (by decide) 0 0 8

/-- At the end of its RNR timer the request is sent again (R365). -/
theorem SoleCtx.request_after_rnr (hrnr : c.rnrAt = some r.psn) (hn : r.n = 1) (hop : r.op = 1) (hpsn : r.psn < 2 ^ 24) (hpart : r.part = 0) :
    ∃ t c' op h b, exec (.rnrTimerExpiry x) s = .next t ∧ t.ctx? x = some c' ∧ c'.rnrAt = none ∧ t.out = s.out ++ [Msg.rdma x op r.psn h b] := by
  obtain ⟨d, hd⟩ : ∃ d : RCtx, d = { c with rnrAt := none } := ⟨_, rfl⟩
  obtain ⟨op, hdr, b, hsend⟩ := State.raeResend_one (s := s.onlyCtx x d) (x := x) (c := d) h.running h.paused rfl (by rw [hd]; exact h.ready)
    (by rw [hd]; exact hsq) hst hn hop hpsn hpart
  have hexec : exec (.rnrTimerExpiry x) s = .next ((s.onlyCtx x d).raeResend x r.psn).raeRun := by
    rw [exec, execRnrTimerExpiry, State.reqRow_of_running h.running]
    simp only [h.ctxReady, Option.bind_some, hrnr, State.updCtx_of_only h.only, hd]
  have hi : d.Idle := by
    rw [hd]
    exact ⟨h.chip, h.reads, h.blocked, h.parked, h.fins, RCtx.allSent hsq hst⟩
  obtain ⟨hctx, hout, -⟩ := h.raeRun_send (t := s.onlyCtx x d) hi (by rw [hd]; exact h.quiet) rfl h.running (.rdma x op r.psn hdr b)
  rw [hsend] at hexec
  exact ⟨_, d, op, hdr, b, hexec, hctx, by rw [hd], hout⟩

/-- The first response packet of a READ of two adds its bytes (R368). -/
theorem SoleCtx.read_goes_on {data : List Nat} (hop : r.op = 3) (hn : r.n = 2) (hpsn : r.psn < 2 ^ 24) (hempty : r.data = [])
    (hlen : c.mtu < r.len) (hmtu : data.length = c.mtu) (hbytes : ∀ b ∈ data, b < 256) :
    ∃ t c', exec (.rdmaReadResponse x r.psn data) s = .next t ∧ t.ctx? x = some c' ∧ c'.sq = [{ r with data := data }] ∧ c'.retries = 0 := by
  have hgot : r.got c = 0 := by rw [TReq.got, if_pos hop, hempty, List.length_nil, Nat.zero_div]
  have hmod : data.map (· % 256) = data := by
    conv_rhs => rw [← List.map_id data]
    exact List.map_congr_left fun b hb => Nat.mod_eq_of_lt (hbytes b hb)
  have hfind : (c.sq.find? fun (r : TReq) => r.st == RqSt.sent && r.op == 3) = some r := by
    rw [hsq]; exact List.find?_cons_of_pos (by rw [hst, hop]; rfl)
  have hfit : (r.psn != (r.psn + 0) % 2 ^ 24 || data.length != min c.mtu (r.len - 0 * c.mtu)) = false := by
    rw [Nat.add_zero, Nat.mod_eq_of_lt hpsn, Nat.zero_mul, Nat.sub_zero, Nat.min_eq_left hlen.le, hmtu]
    simp
  have hexec : exec (.rdmaReadResponse x r.psn data) s = .next (s.onlyCtx x (c.advance { r with data := data })).raeRun := by
    rw [exec, execRdmaReadResponse, State.reqRow_of_running h.running]
    simp only [h.ctxReady, hfind, hgot, hfit, Bool.false_eq_true, if_false, psnAfter_self, if_true, h.ackUpTo_prev hsq (.inl hst), hempty,
      List.nil_append, hmod, hn, State.updReq, State.updCtx_of_only h.only, State.progress, State.updCtx_onlyCtx]
    simp only [hsq, List.map_cons, List.map_nil, if_true]
    rw [if_neg (by decide), ← hst, ← hn]
    rfl
  rw [h.raeRun_only (d := c.advance { r with data := data })
    ⟨h.chip, h.reads, h.blocked, h.parked, h.fins, fun q hq => .inl (by rw [List.mem_singleton.1 hq]; exact hst)⟩ h.quiet] at hexec
  exact ⟨_, _, hexec, by rw [State.raeRegs_ctx?, State.onlyCtx_ctx?], rfl, rfl⟩

end

/-- Settles O42: every row changes the one request of a sole context; a pass of the engine then writes the slot of a request that ended, and does
nothing for one that stays under way. -/
theorem requestsEnd : Obligations.RequestsEnd := by
  unfold Obligations.RequestsEnd
  refine ⟨?ends, ?goesOn, ?rnr, ?read⟩
  case ends =>
    intro s x c r i st mark o la k cl hinv h hsq _ hlist _ hn hop _ hpsn hspsn hl hsize hs hatomic _ hi
    exact h.request_ends hinv hsq hlist hn hop hpsn hspsn hl hsize hs hatomic hi
  case goesOn =>
    intro s x c r hinv h hsq hlist hrnr hn hop hpsn hspsn hst hpart hgone
    exact ⟨h.request_settles hsq hst hn (by rw [hop]; decide) hspsn, h.request_again hsq hst hn hop hpsn hspsn hpart,
      fun hretry n hlt => h.request_held hsq hst hspsn hretry hlt, h.request_retried hsq hst hinv hrnr hn hop hpsn hpart,
      h.request_exhausted hsq hst hinv hlist hrnr hgone⟩
  case rnr =>
    intro s x c r _ h hsq _ hrnr hn hop hpsn hst hpart
    exact h.request_after_rnr hsq hst hrnr hn hop hpsn hpart
  case read =>
    intro s x c r data _ h hsq _ _ hop hn hst hpsn _ hempty hlen hmtu hbytes
    exact h.read_goes_on hsq hst hop hn hpsn hempty hlen hmtu hbytes

end Sys2Proof.Machine
end

section
/-! A packet that reaches the engine's sole context in order (14_remote_access.md R349 to R361): its arrival, its place
in the context, and its answer. -/

namespace Sys2Proof.Machine

/-! ### Arrival -/

/-- The context as used now. -/
def RCtx.usedAt (c : RCtx) (n : Nat) : RCtx := { c with used := n }

/-- The state with its sole context just used (R353). -/
def State.useOnly (s : State) (x : Nat) (c : RCtx) : State :=
  { s with rae := { s.rae with ctxs := [((x, 0), c.usedAt s.rae.clock)], clock := s.rae.clock + 1 } }

section
variable {s : State} {x : Nat} {c : RCtx} {p : Pkt} (h : SoleCtx s x c)
include h

theorem SoleCtx.used : SoleCtx (s.useOnly x c) x (c.usedAt s.rae.clock) :=
  ⟨h.running, rfl, h.flush, h.paused, h.ready, h.chip, h.here, h.reads, h.blocked, h.parked, h.fins, h.placed, h.msgs, h.quiet, h.noRnr, h.noGap,
    h.noGone, h.noWait⟩

/-- A packet without a mark of congestion for an idle context is processed at once (R354). -/
theorem SoleCtx.rx_process (haddr : s.addrOk p = true) (hx : x < 65536) (hqpn : p.qpn = 0x10000 + x) (hce : p.ce = false) :
    s.rx p = (s.useOnly x c).rxProcess x p := by
  have hreach : (s.addrOk p && decide (0x10000 ≤ p.qpn) && decide (p.qpn < 0x20000)) = true := by
    rw [haddr, hqpn]
    simp only [Bool.true_and, Bool.and_eq_true, decide_eq_true_eq]
    omega
  have hix : p.qpn - 0x10000 = x := by omega
  have hcnp : s.cnpFor x p = s := by
    simp only [State.cnpFor, State.ctx?_of_only h.only, hce, Bool.false_and, Bool.false_eq_true, if_false]
  have huse : s.ctxUse x = s.useOnly x c := by
    rw [State.ctxUse, State.ctx?_of_only h.only]
    dsimp only
    rw [if_pos h.chip, State.putCtx_of_only h.only]
    rfl
  have hchip : (c.usedAt s.rae.clock).chip = true := h.chip
  have hparked : (c.usedAt s.rae.clock).parked = [] := h.parked
  have hblocked : (c.usedAt s.rae.clock).blocked = none := h.blocked
  have hfins : (c.usedAt s.rae.clock).fins = [] := h.fins
  simp only [State.rx, hix, hreach, if_true, h.ctxReady, hcnp, huse, h.used.ctxReady, hchip, hparked, hblocked, hfins, List.isEmpty_nil, Bool.not_true,
    Option.isSome_none, Bool.or_self, Bool.false_eq_true, if_false, List.length_nil, State.rxNext]

theorem SoleCtx.rxProcess_expected (hpsn : p.psn = c.epsn) : s.rxProcess x p = s.rxExpected x c p := by
  simp only [State.rxProcess, h.ctxReady, hpsn, psnAfter_self, if_true]

/-- A row whose packet arrives in order. -/
theorem SoleCtx.rxRow_expected (ha : Arrives s x c p) : s.rxRow true p = ((s.useOnly x c).rxExpected x (c.usedAt s.rae.clock) p).raeRun := by
  rw [State.rxRow, if_neg (by simp [h.running]), h.rx_process ha.addr ha.index ha.qpn ha.notCe, h.used.rxProcess_expected ha.psn]

/-- No packet waits for a page of a deleted object. -/
theorem SoleCtx.not_goneWait (psn : Nat) : s.goneWait x psn = false := by
  refine List.any_eq_false.2 fun w hw hm => ?_
  have hnone := List.any_eq_false.1 h.noWait w hw
  simp only [Bool.and_eq_true, beq_iff_eq] at hm
  rw [hm.1] at hnone
  exact hnone rfl

theorem SoleCtx.goneOf_none (psn : Nat) : c.goneOf psn = none := by
  rw [RCtx.goneOf, h.noGone]; rfl

theorem SoleCtx.not_inMsg (p : Pkt) : c.inMsg p = false := by
  rw [RCtx.inMsg, h.msgs]; rfl

end

/-! ### The path MTU -/

theorem RCtx.mtu_ge (c : RCtx) : 128 ≤ c.mtu := Nat.le_mul_of_pos_right _ (Nat.two_pow_pos _)

theorem RCtx.packets_one {c : RCtx} {len : Nat} (hpos : 0 < len) (hlen : len ≤ 64) : c.packets len = 1 := by
  have := c.mtu_ge
  have hdiv : (len + c.mtu - 1) / c.mtu = 1 := Nat.div_eq_of_lt_le (by omega) (by omega)
  rw [RCtx.packets, cdiv, hdiv]
  rfl

theorem RCtx.part_one {c : RCtx} {len : Nat} (hlen : len ≤ 64) : c.part len 0 = (0, len) := by
  have := c.mtu_ge
  rw [RCtx.part, Nat.zero_mul, Nat.sub_zero, Nat.min_eq_right (by omega)]

/-! ### The context moves on -/

/-- The context past n expected packets. -/
def RCtx.past (c : RCtx) (n : Nat) : RCtx := { c with epsn := (c.epsn + n) % 2 ^ 24, gap := false, rnr := false, placed := [], fins := [], msgs := [] }

/-- The context past a processed WRITE or SEND packet (R361, R367). -/
def RCtx.passed (c : RCtx) (op : Nat) : RCtx := if opBumps op then { c.past 1 with count := c.count + 1, exam := true } else c.past 1

theorem RCtx.past_ackPsn {c : RCtx} (h : c.epsn < 2 ^ 24) : (c.past 1).ackPsn % 2 ^ 24 = c.epsn := by
  show (((c.epsn + 1) % 2 ^ 24 + 2 ^ 24 - 1) % 2 ^ 24) % 2 ^ 24 = c.epsn
  omega

section
variable {s : State} {x : Nat} {c : RCtx}

theorem State.rxAdvance_only (h : s.rae.ctxs = [((x, 0), c)]) (hready : c.err = false) (hplaced : c.placed = []) (hfins : c.fins = [])
    (hmsgs : c.msgs = []) (n : Nat) : s.rxAdvance x n = (s.onlyCtx x (c.past n), []) := by
  have hctx : s.ctxReady x = some c := by rw [State.ctxReady_of_only h, hready]; rfl
  simp only [State.rxAdvance, hctx, hplaced, hfins, hmsgs, List.length_nil, passPlaced, List.filter_nil, State.putCtx_of_only h]
  rfl

/-- A packet processed in order, with an acknowledgement asked for, is acknowledged by its number (R361). -/
theorem State.rxDone_only (h : s.rae.ctxs = [((x, 0), c)]) (hrun : s.draining = false) (hpaused : s.rae.paused = []) (hready : c.err = false)
    (hplaced : c.placed = []) (hfins : c.fins = []) (hmsgs : c.msgs = []) (hlow : c.epsn < 2 ^ 24) {p : Pkt}
    (hsettle : p.settle = false) (hack : p.ackReq = true) {u : State} (hu : u = s.entGo (.rdma x p.psn) c.dom) :
    s.rxDone x c p =
      (u.onlyCtx x (c.passed p.op)).send (.rdma x 0x11 c.epsn [0] []) := by
  have hgo : Only [.waits] [(.STALLED, c.dom)] s u := hu ▸ State.entGo_only _ _ _
  have hrae : u.rae = s.rae := hgo.rae_eq (by simp)
  have hctx : u.rae.ctxs = [((x, 0), c)] := by rw [hrae]; exact h
  have hrunu : u.draining = false := (hgo.fl_eq (by simp)).trans hrun
  have hset : Pkt_settle p = false := by rw [Pkt_settle, hsettle]; rfl
  obtain ⟨d, hd⟩ : ∃ d : RCtx, d = c.passed p.op := ⟨_, rfl⟩
  have hmove : (if opBumps p.op then (u.onlyCtx x (c.past 1)).updCtx x (fun c => { c with count := c.count + 1, exam := true })
      else u.onlyCtx x (c.past 1)) = u.onlyCtx x d := by
    rw [hd, RCtx.passed]
    split
    · rw [State.updCtx_onlyCtx, if_pos rfl]; rfl
    · rfl
  have hderr : d.err = false := by
    rw [hd, RCtx.passed]
    split <;> exact hready
  have hdack : d.ackPsn % 2 ^ 24 = c.epsn := by
    rw [← RCtx.past_ackPsn hlow, hd, RCtx.passed]
    split <;> rfl
  have hdready : (u.onlyCtx x d).ctxReady x = some d := by
    rw [State.ctxReady_of_only (s := u.onlyCtx x d) (c := d) rfl, hderr]; rfl
  have hcum : (u.onlyCtx x d).cumAck x = (u.onlyCtx x d).send (.rdma x 0x11 c.epsn [0] []) := by
    simp only [State.cumAck, hdready]
    rw [State.ctxSend_open (s := u.onlyCtx x d) hrunu (by show u.rae.paused = []; rw [hrae, hpaused]), hdack]
  rw [State.rxDone, ← hd]
  simp only [← hu, State.rxAdvance_only hctx hready hplaced hfins hmsgs, hmove, hack, Bool.true_or, if_true, hset, Bool.false_eq_true, if_false,
    List.append_nil, State.each, List.foldl_nil, hcum]

end

/-! ### The addressed range -/

/-- What a key gives is an own object that holds the range (R355, R356). -/
theorem State.keyAt_facts {s : State} {c : RCtx} {rkey right va len obj ofs : Nat} {o : Obj} (h : s.keyAt c rkey right va len = some (obj, o, ofs)) :
    s.own? obj = some o ∧ ofs + len ≤ o.size := by
  unfold State.keyAt at h
  split at h
  · cases h
  · rename_i ws _
    simp only [Option.ite_none_left_eq_some] at h
    obtain ⟨-, h⟩ := h
    split at h
    · cases h
    · rename_i o' ho
      split at h
      · cases h
      · rename_i hsize
        simp only [Option.some.injEq, Prod.mk.injEq] at h
        obtain ⟨rfl, rfl, rfl⟩ := h
        exact ⟨ho, by omega⟩

/-- One line has at most one code page to charge, and only of a persistent object. -/
theorem State.uncharged_one (s : State) (o : Obj) {ofs len : Nat} (hpos : 0 < len) (hfit : ofs % 64 + len ≤ 64) :
    ∃ b : Bool, (s.uncharged o ofs len).length = b2n b ∧ (b = true → o.persist = true) := by
  unfold State.uncharged
  split
  · exact ⟨false, rfl, fun h => by cases h⟩
  · rename_i hp
    have hone : (ofs + len - 1) / 4096 - ofs / 4096 + 1 = 1 := by omega
    have hpersist : o.persist = true := by
      simp only [Bool.or_eq_true, Bool.not_eq_true', decide_eq_true_eq, not_or, Bool.not_eq_false] at hp
      exact hp.1
    simp only [hone, List.range_one, List.map_cons, List.map_nil]
    rw [List.filter_cons, List.filter_nil]
    split
    · exact ⟨true, rfl, fun _ => hpersist⟩
    · exact ⟨false, rfl, fun h => by cases h⟩

section
variable {s : State} {obj ofs len : Nat} {o : Obj} {la : Nat} {k : Key} {cl : CLine} (h : OneLine s obj ofs len o la k cl)
include h

theorem OneLine.raePage (d : Nat) (rd : Bool) : s.raePage d obj (ofs / 65536) o rd = (s, none) := by
  simp only [State.raePage, h.free, h.here, if_true, State.dropDemotion_still h.stays]

theorem OneLine.raePages (d : Nat) (rd : Bool) : s.raePages d obj o ofs len rd = (s, none) := by
  rw [State.raePages, pagesOf_one h.pos h.fits, List.foldl_cons, List.foldl_nil]
  simp only [h.raePage]

/-- The line of the range. -/
theorem OneLine.lineAt : 1024 * (s.mapE (o.mapBase + ofs / 64 / 1024)).frame + ofs / 64 % 1024 = la := by
  rw [line_page, ← h.line]

variable {d : Nat} (hs : Storable s d obj ofs la o cl)
include hs

theorem OneLine.admits : s.canCharge2 d (s.uncharged o ofs len).length 0 = true := by
  obtain ⟨b, hb, hp⟩ := s.uncharged_one o h.pos h.fits
  rw [hb]
  exact State.canCharge2_one fun hn => hs.float (hp hn)

/-- The bytes of a packet that lie in one cached line are stored at once (R356, R359). -/
theorem OneLine.place {p : Pkt} (hlen : p.data.length = len) (hbad : p.bad = []) (hcmp : p.cmp = 0) (hatomic : s.atomicHolds obj (ofs / 65536) = false) :
    ∃ t, s.place d p obj o ofs = (t, .done false) ∧
      t.fch.lines = mput s.fch.lines k (cl.store (oneWLine ofs len fun x => p.data.getD (x - ofs) 0).data (partMask (linePart ofs len (ofs / 64))) false) ∧
      Only [.md, .stl, .tpe, .fch] [(.FLOAT_PAGES, 0), (.CHARGE, d)] s t := by
  obtain ⟨t, hstore, hlines, honly⟩ := h.storeLine hs sc1 (oneWLine ofs len fun x => p.data.getD (x - ofs) 0).data (partMask (linePart ofs len (ofs / 64)))
  have hne : len ≠ 0 := h.pos.ne'
  have hmir : s.mirNeedsAll o obj [ofs / 65536] = 0 := by rw [State.mirNeedsAll, hs.alone]; rfl
  have hlines1 : s.storeLines d sc1 obj o [oneWLine ofs len fun x => p.data.getD (x - ofs) 0] = (t, 1, none) := by
    rw [State.storeLines, List.foldl_cons, List.foldl_nil]
    have hr : s.storeLine d sc1 obj o (oneWLine ofs len fun x => p.data.getD (x - ofs) 0).ln (oneWLine ofs len fun x => p.data.getD (x - ofs) 0).data
        (oneWLine ofs len fun x => p.data.getD (x - ofs) 0).mask (oneWLine ofs len fun x => p.data.getD (x - ofs) 0).fail?.isSome = (t, none) := hstore
    simp only [hr]
  refine ⟨t, ?_, hlines, honly⟩
  unfold State.place
  simp only [if_neg hne, hlen, h.raePages, pagesOf_one h.pos h.fits, List.any_cons, List.any_nil, hatomic, Bool.or_self, Bool.false_eq_true, if_false,
    hs.alone, hmir, h.admits hs, Bool.not_true, linesOf_one h.pos h.fits, List.filter_cons, List.filter_nil, h.lineAt, hs.noCopy, ne_eq,
    not_true_eq_false, decide_false, h.probePart, hbad, h.writeList, hcmp, List.drop_zero, hlines1]
  rfl

end

end Sys2Proof.Machine
end

section
/-! Packets that the remote access engine takes as responder (14_remote_access.md R349, R356 to R361, R367): O41. -/

namespace Sys2Proof.Machine

/-! ### The engine after a packet -/

theorem RCtx.rest_epsn (c : RCtx) : c.rest.epsn = c.epsn := by
  rw [RCtx.rest]; split <;> rfl

theorem RCtx.rest_count (c : RCtx) : c.rest.count = c.count := by
  rw [RCtx.rest]; split <;> rfl

theorem RCtx.rest_reads (c : RCtx) : c.rest.reads = c.reads := by
  rw [RCtx.rest]; split <;> rfl

/-- A sole context that has nothing more to do comes to rest. -/
theorem State.raeRun_rests {t : State} {x : Nat} {d : RCtx} (hrun : t.draining = false) (hctx : t.rae.ctxs = [((x, 0), d)]) (hflush : t.rae.flush = [])
    (hi : d.Idle) (hx : d.exam = false ∨ d.trigEn = false) : t.raeRun.ctx? x = some d.rest ∧ Only [.rae] ctxErrRegs t t.raeRun := by
  rw [State.raeRun_idle hrun hctx hflush hi hx]
  refine ⟨by rw [State.raeRegs_ctx?, State.onlyCtx_ctx?], ?_⟩
  exact ((Only.refl _ ctxErrRegs t).mk_rae (by simp)).step (State.raeRegs_only _) (by simp) (fun _ => id)

/-- What lies between a state and the packet that answers in it: all but the engine's own registers and the answer. -/
theorem State.raeRun_answers {ps : List Part} {fs : List (Fld × Nat)} {s u : State} {x : Nat} {d : RCtx} (h : Only ps fs s u) (hout : Part.out ∉ ps) (hrae : u.rae = s.rae)
    (hrun : u.draining = false) (hflush : s.rae.flush = []) (hi : d.Idle) (hx : d.exam = false ∨ d.trigEn = false) (m : Msg) :
    ((u.onlyCtx x d).send m).raeRun.ctx? x = some d.rest ∧ ((u.onlyCtx x d).send m).raeRun.out = s.out ++ [m] ∧
      ((u.onlyCtx x d).send m).raeRun.fch = u.fch ∧ ((u.onlyCtx x d).send m).raeRun.stl = u.stl := by
  obtain ⟨hctx, honly⟩ := State.raeRun_rests (t := (u.onlyCtx x d).send m) (x := x) (d := d) hrun rfl
    (show u.rae.flush = [] by rw [hrae]; exact hflush) hi hx
  refine ⟨hctx, ?_, honly.fch_eq (by simp), honly.stl_eq (by simp)⟩
  rw [honly.out_eq (by simp), State.send_out]
  exact congrArg (· ++ [m]) (h.out_eq hout)

section
variable {s : State} {x : Nat} {c : RCtx} {p : Pkt} (h : SoleCtx s x c)
include h

theorem SoleCtx.idleAt {d : RCtx} (hsq : c.sq = []) (hd : d.sq = c.sq) (hchip : d.chip = c.chip) (hreads : d.reads = []) (hblocked : d.blocked = c.blocked)
    (hparked : d.parked = c.parked) (hfins : d.fins = []) : d.Idle :=
  ⟨hchip.trans h.chip, hreads, hblocked.trans h.blocked, hparked.trans h.parked, hfins, by rw [hd, hsq]; exact fun r hr => absurd hr List.not_mem_nil⟩

theorem SoleCtx.passed_idle (hsq : c.sq = []) (op : Nat) : (c.passed op).Idle := by
  rw [RCtx.passed]
  split <;> exact h.idleAt hsq rfl rfl h.reads rfl rfl rfl

/-! ### WRITE and SEND -/

/-- A WRITE Only of part of one cached line stores its bytes (R356, R361). -/
theorem SoleCtx.rxWrite_one {obj ofs : Nat} {o : Obj} {la : Nat} {k : Key} {cl : CLine} (ha : Arrives s x c p) (hcmp : p.cmp = 0) (hop : p.op = 0xA)
    (hack : p.ackReq = true) (hkey : s.keyAt c p.rkey 1 p.va p.len = some (obj, o, ofs)) (hlen : p.data.length = p.len)
    (hl : OneLine s obj ofs p.len o la k cl) (hs : Storable s c.dom obj ofs la o cl) (hatomic : s.atomicHolds obj (ofs / 65536) = false) :
    ∃ u, s.rxExpected x c p = (u.onlyCtx x (c.passed 0xA)).send (.rdma x 0x11 c.epsn [0] []) ∧
      u.fch.lines = mput s.fch.lines k (cl.store (oneWLine ofs p.len fun x => p.data.getD (x - ofs) 0).data (partMask (linePart ofs p.len (ofs / 64))) false) ∧
      Only [.md, .stl, .tpe, .fch, .waits] (slotRegs c.dom) s u := by
  obtain ⟨t, hplace, hlines, honly⟩ := hl.place hs hlen ha.noBad hcmp hatomic
  obtain ⟨hown, hsize⟩ := State.keyAt_facts hkey
  obtain ⟨u, hu⟩ : ∃ u : State, u = t.entGo (.rdma x p.psn) c.dom := ⟨_, rfl⟩
  have hgo : Only [.waits] [(.STALLED, c.dom)] t u := hu ▸ State.entGo_only _ _ _
  have hmtu := c.mtu_ge
  have hfits := hl.fits
  have hok : c.lenOk p ⟨p.psn, obj, ofs, p.len⟩ 0 = true := by
    have hle : p.len ≤ c.mtu := by omega
    simp only [RCtx.lenOk, hop, Nat.zero_mul, Nat.sub_zero, hlen, beq_self_eq_true, Bool.true_and, hle, decide_true]
    rfl
  have hfirst : (opIsFirst p.op && !opIsEnd p.op && !c.msgs.contains ⟨p.psn, obj, ofs, p.len⟩) = false := by rw [hop]; rfl
  have hmsg : s.msgOf c p = some (⟨p.psn, obj, ofs, p.len⟩, 0) := by
    rw [State.msgOf, if_pos (by rw [hop]; rfl), hkey]; rfl
  have hsize' : ¬ o.size < ofs + p.data.length := by rw [hlen]; omega
  have hwr : s.rxExpected x c p = t.rxDone x c p := by
    rw [State.rxExpected, if_pos (by rw [hop]; rfl), State.rxWrite]
    simp only [h.not_goneWait, Bool.false_eq_true, if_false, h.goneOf_none, Option.isSome_none, hmsg, h.not_inMsg, Bool.and_false, hok, Bool.not_true,
      Bool.or_self, hown, Nat.zero_mul, Nat.add_zero, if_neg hsize', hplace, hfirst]
    rfl
  have hctx : t.rae.ctxs = [((x, 0), c)] := by rw [honly.rae_eq (by simp)]; exact h.only
  have hrun : t.draining = false := (honly.fl_eq (by simp)).trans h.running
  refine ⟨u, ?_, by rw [hgo.fch_eq (by simp), hlines], (honly.mono (by simp) (by simp [slotRegs])).step hgo (by simp) (by simp [slotRegs])⟩
  rw [hwr, State.rxDone_only hctx hrun (by rw [honly.rae_eq (by simp)]; exact h.paused) h.ready h.placed h.fins h.msgs ha.low ha.noSettle hack hu, hop]

/-- A SEND Only without payload counts on its context (R367). -/
theorem SoleCtx.rxSend_one (ha : Arrives s x c p) (hop : p.op = 4) (hack : p.ackReq = true) (hdata : p.data = []) :
    ∃ u, s.rxExpected x c p = (u.onlyCtx x (c.passed 4)).send (.rdma x 0x11 c.epsn [0] []) ∧ Only [.waits] [(.STALLED, c.dom)] s u := by
  have hsend : s.rxExpected x c p = s.rxDone x c p := by
    rw [State.rxExpected, hop, if_neg (by decide), if_neg (by decide), if_neg (by decide), if_pos ⟨.inl rfl, hdata, by rw [h.not_inMsg]; rfl⟩]
  refine ⟨s.entGo (.rdma x p.psn) c.dom, ?_, State.entGo_only _ _ _⟩
  rw [hsend, State.rxDone_only h.only h.running h.paused h.ready h.placed h.fins h.msgs ha.low ha.noSettle hack rfl, hop]

end

/-! ### READ -/

/-- A READ of bytes of one cached line is answered by one packet with them (R356). -/
theorem OneLine.readOne {s : State} {x : Nat} {d : RCtx} {p : Pkt} {obj ofs : Nat} {o : Obj} {la : Nat} {k : Key} {cl : CLine} (hrun : s.draining = false)
    (hpaused : s.rae.paused = []) (hgone : s.goneWait x p.psn = false) (hgoneOf : d.goneOf p.psn = none)
    (hkey : s.keyAt d p.rkey 0 p.va p.len = some (obj, o, ofs)) (hl : OneLine s obj ofs p.len o la k cl) (hlow : p.psn < 2 ^ 24) :
    ∃ v, s.readOne x d p = (v, true) ∧
      v.out = s.out ++ [Msg.rdma x 0x10 p.psn [0] ((List.range p.len).map fun i => lineByte cl.data (ofs % 64 + i))] ∧
      Only [.waits, .out, .tpe] [(.STALLED, d.dom)] s v := by
  obtain ⟨u, hu⟩ : ∃ u : State, u = s.entGo (.rdma x p.psn) d.dom := ⟨_, rfl⟩
  have hgo : Only [.waits] [(.STALLED, d.dom)] s u := hu ▸ State.entGo_only _ _ _
  have hlu : OneLine u obj ofs p.len o la k cl := hl.congr (hgo.md_eq (by simp)) (hgo.mir_eq (by simp)) (hgo.tpe_eq (by simp)) (hgo.fch_eq (by simp))
  have hfits := hl.fits
  have hpart : d.part p.len 0 = (0, p.len) := RCtx.part_one (by omega)
  have hpackets : d.packets p.len = 1 := RCtx.packets_one hl.pos (by omega)
  have hlines : linesOf ofs p.len = [ofs / 64] := linesOf_one hl.pos hl.fits
  have hmin : min p.len (1 * d.mtu) = p.len := by
    have := d.mtu_ge
    omega
  have hgood : d.goodParts p.len (fun y => (linesOf (ofs + y.1) y.2).any fun ln => (u.objLine o ln []).2) = 1 := by
    rw [RCtx.goodParts, hpackets, List.range_one, List.takeWhile_cons_of_pos]
    · rfl
    · rw [hpart]
      simp only [Nat.add_zero, hlines, List.any_cons, List.any_nil, hlu.objLine, Bool.or_self, Bool.not_false]
  have hbytes : ((List.range p.len).map fun j => u.objByte o (ofs + (0 + j))) = (List.range p.len).map fun i => lineByte cl.data (ofs % 64 + i) := by
    refine List.map_congr_left fun i hi => ?_
    have hi' := List.mem_range.1 hi
    have hdiv : (ofs + (0 + i)) / 64 = ofs / 64 := by omega
    have hmod : (ofs + (0 + i)) % 64 = ofs % 64 + i := by omega
    rw [State.objByte, hdiv, hmod, hlu.objLine]
  have hsend : u.readSend x d p 1 (fun k => u.objByte o (ofs + k)) =
      u.send (.rdma x 0x10 p.psn [0] ((List.range p.len).map fun i => lineByte cl.data (ofs % 64 + i))) := by
    have hopen : u.draining = false := (hgo.fl_eq (by simp)).trans hrun
    simp only [State.readSend, List.range_one, State.each, List.foldl_cons, List.foldl_nil, hpackets, if_true, hpart,
      State.ctxSend_open hopen (by rw [hgo.rae_eq (by simp)]; exact hpaused), hbytes, Nat.add_zero, Nat.mod_eq_of_lt hlow]
  obtain ⟨w, hw⟩ : ∃ w : State, w = u.send (.rdma x 0x10 p.psn [0] ((List.range p.len).map fun i => lineByte cl.data (ofs % 64 + i))) := ⟨_, rfl⟩
  have hlw : OneLine w obj ofs p.len o la k cl := by
    rw [hw]
    exact hlu.congr rfl rfl rfl rfl
  have htouch : Only [.tpe] [] w (w.touch (w.mapE (o.mapBase + ofs / 65536)).frame) := State.touch_only _ _
  have hsent : Only [.waits, .out] [(.STALLED, d.dom)] s w := by
    rw [hw]
    exact (hgo.mono (by simp) (by simp)).send (by simp)
  refine ⟨w.touch (w.mapE (o.mapBase + ofs / 65536)).frame, ?read, ?out, (hsent.mono (by simp) (by simp)).step htouch (by simp) (by simp)⟩
  case read =>
    unfold State.readOne
    simp only [hgone, Bool.false_eq_true, if_false, hgoneOf, hkey, hl.raePages, hlines, hl.probeLines, ← hu, hgood, hsend, ← hw, hmin, State.each,
      List.foldl_cons, List.foldl_nil, hlw.readTouch, hpackets, if_true]
  case out =>
    rw [htouch.out_eq (by simp), hw, State.send_out, hgo.out_eq (by simp)]

/-- A READ of bytes of one cached line moves the context on and is answered at once (R356, R360). -/
theorem SoleCtx.rxRead_one {s : State} {x : Nat} {c : RCtx} {p : Pkt} {obj ofs : Nat} {o : Obj} {la : Nat} {k : Key} {cl : CLine} (h : SoleCtx s x c)
    (ha : Arrives s x c p) (hop : p.op = 0x0C) (hmax : 0 < c.maxRd) (hkey : s.keyAt c p.rkey 0 p.va p.len = some (obj, o, ofs))
    (hl : OneLine s obj ofs p.len o la k cl) :
    ∃ v : State, s.rxExpected x c p = v.onlyCtx x (c.past 1) ∧
      v.out = s.out ++ [Msg.rdma x 0x10 c.epsn [0] ((List.range p.len).map fun i => lineByte cl.data (ofs % 64 + i))] ∧ v.rae.flush = [] ∧
      v.draining = false := by
  have hfits := hl.fits
  obtain ⟨d, hd⟩ : ∃ d : RCtx, d = { c.past 1 with reads := c.reads ++ [p] } := ⟨_, rfl⟩
  have hread : s.rxExpected x c p = State.readsRun 1 x (s.onlyCtx x d) := by
    rw [State.rxExpected, hop, if_neg (by decide), if_pos rfl, State.rxRead, hkey, if_neg (by simp), h.not_inMsg, h.reads]
    simp only [List.length_nil, Nat.le_zero, hmax.ne', decide_false, Bool.or_self, Bool.false_eq_true, if_false, RCtx.packets_one hl.pos (len := p.len) (by omega),
      State.rxAdvance_only h.only h.ready h.placed h.fins h.msgs, State.updCtx_onlyCtx, if_true, hd]
    rw [show (c.past 1).reads = c.reads from rfl, h.reads]
  have hready : (s.onlyCtx x d).ctxReady x = some d := by
    rw [State.ctxReady_of_only (s := s.onlyCtx x d) (c := d) rfl, if_neg]
    rw [hd]
    show ¬ c.err = true
    rw [h.ready]
    decide
  have hreads : d.reads = [p] := by rw [hd, h.reads]; rfl
  have hgoneOf : d.goneOf p.psn = none := by
    rw [← h.goneOf_none p.psn, hd]; rfl
  have hkey' : (s.onlyCtx x d).keyAt d p.rkey 0 p.va p.len = some (obj, o, ofs) := by
    rw [← hkey, hd]; rfl
  obtain ⟨v, hone, hout, honly⟩ := OneLine.readOne (s := s.onlyCtx x d) (x := x) (d := d) h.running h.paused (h.not_goneWait p.psn) hgoneOf hkey'
    (hl.congr rfl rfl rfl rfl) (by rw [ha.psn]; exact ha.low)
  have hctx : v.rae.ctxs = [((x, 0), d)] := by rw [honly.rae_eq (by simp)]; rfl
  refine ⟨v, ?_, by rw [hout, ha.psn]; rfl, by rw [honly.rae_eq (by simp)]; exact h.flush, (honly.fl_eq (by simp)).trans h.running⟩
  rw [hread, State.readsRun, hready]
  simp only [hreads, hone, if_true, State.readsRun, State.updCtx_of_only hctx]
  rw [hd]
  refine congrArg (v.onlyCtx x) ?_
  rw [h.reads]
  show ({ c.past 1 with reads := [] } : RCtx) = c.past 1
  rw [← show (c.past 1).reads = [] from h.reads]

end Sys2Proof.Machine
end

section
/-! Atomics, duplicates, and packets that are refused (14_remote_access.md R349, R356, R358, R360): O41. -/

namespace Sys2Proof.Machine

/-! ### Atomics -/

/-- An atomic done: its old value is kept, the expected number moves on, and the old bytes are sent (R360). -/
def State.atomicEnd (s : State) (x : Nat) (c : RCtx) (p : Pkt) (old : Nat) : State :=
  let s := (s.entGo (.rdma x p.psn) c.dom).updCtx x fun c =>
    { c with atomics := (c.atomics ++ [(p.psn, old)]).drop (c.atomics.length + 1 - 16) }
  (s.rxAdvance x 1).1.ctxSend x 0x12 p.psn [0] (toBytes 8 old)

/-- The context that keeps an atomic's old value. -/
def RCtx.noted (c : RCtx) (psn old : Nat) : RCtx := { c with atomics := (c.atomics ++ [(psn, old)]).drop (c.atomics.length + 1 - 16) }

section
variable {s : State} {x : Nat} {c : RCtx} {p : Pkt} (h : SoleCtx s x c) (ha : Arrives s x c p)
include h ha

theorem SoleCtx.atomicEnd_only {ps : List Part} {fs : List (Fld × Nat)} {t u : State} (honly : Only ps fs s t) (hrae : Part.rae ∉ ps)
    (hdrain : (Fld.DRAINING, 0) ∉ fs) (old : Nat) (hu : u = t.entGo (.rdma x p.psn) c.dom) :
    t.atomicEnd x c p old = (u.onlyCtx x ((c.noted p.psn old).past 1)).send (.rdma x 0x12 c.epsn [0] (toBytes 8 old)) := by
  have hgo : Only [.waits] [(.STALLED, c.dom)] t u := hu ▸ State.entGo_only _ _ _
  have hraeu : u.rae = s.rae := (hgo.rae_eq (by simp)).trans (honly.rae_eq hrae)
  have hctx : u.rae.ctxs = [((x, 0), c)] := by rw [hraeu]; exact h.only
  have hrun : u.draining = false := (hgo.fl_eq (by simp)).trans ((honly.fl_eq hdrain).trans h.running)
  have hadv := State.rxAdvance_only (s := u.onlyCtx x (c.noted p.psn old)) (x := x) (c := c.noted p.psn old) rfl h.ready h.placed h.fins h.msgs 1
  have hend : t.atomicEnd x c p old = ((u.onlyCtx x (c.noted p.psn old)).rxAdvance x 1).1.ctxSend x 0x12 p.psn [0] (toBytes 8 old) := by
    rw [State.atomicEnd, ← hu, State.updCtx_of_only hctx]
    rfl
  rw [hend, hadv, State.onlyCtx_onlyCtx]
  rw [State.ctxSend_open (s := u.onlyCtx x _) hrun (by show u.rae.paused = []; rw [hraeu]; exact h.paused), ha.psn, Nat.mod_eq_of_lt ha.low]

variable {obj ofs : Nat} {o : Obj} {la : Nat} {k : Key} {cl : CLine} (hmax : 0 < c.maxRd) (hkey : s.keyAt c p.rkey 2 p.va 8 = some (obj, o, ofs))
  (hva : p.va % 8 = 0) (hofs : ofs % 8 = 0) (hl : OneLine s obj ofs 8 o la k cl) (hcopies : s.others la none = [])
  (hatomic : s.atomicHolds obj (ofs / 65536) = false)
include hmax hkey hva hofs hl hcopies hatomic

omit ha in
/-- A compare that does not match writes nothing (R360). -/
theorem SoleCtx.rxAtomic_mismatch (hop : p.op = 0x13) (hcmp : p.cmp ≠ bits cl.data.toNat (8 * (ofs % 64)) 64) :
    s.rxExpected x c p = (s.touch (s.mapE (o.mapBase + ofs / 65536)).frame).atomicEnd x c p (bits cl.data.toNat (8 * (ofs % 64)) 64) := by
  have hne : (bits cl.data.toNat (8 * (ofs % 64)) 64 == p.cmp) = false := beq_false_of_ne (Ne.symm hcmp)
  rw [State.rxExpected, hop, if_neg (by decide), if_neg (by decide), if_pos (.inl rfl), State.rxAtomic]
  simp only [h.not_goneWait, Bool.false_eq_true, if_false, h.goneOf_none, hkey, hva, hofs, bne_self_eq_false, h.not_inMsg, h.reads, List.length_nil,
    Nat.le_zero, hmax.ne', decide_false, Bool.or_self, List.isEmpty_nil, Bool.not_true, hl.raePage, hatomic, ← hl.line, hcopies, ne_eq,
    not_true_eq_false, hl.probeLines, hl.objLine, hop, hne, Bool.not_false, if_true, hl.readTouch]
  rfl

omit ha in
/-- An atomic that writes stores its eight bytes in the line (R360). -/
theorem SoleCtx.rxAtomic_store {old new : Nat} (hs : Storable s c.dom obj ofs la o cl) (hold : old = bits cl.data.toNat (8 * (ofs % 64)) 64)
    (hnew : (p.op = 0x13 ∧ p.cmp = old ∧ new = p.swap % 2 ^ 64) ∨ (p.op = 0x14 ∧ new = (old + p.swap) % 2 ^ 64)) :
    ∃ t, s.rxExpected x c p = t.atomicEnd x c p old ∧
      t.fch.lines = mput s.fch.lines k (cl.store (BitVec.ofNat 512 (new * 2 ^ (8 * (ofs % 64)))) (BitVec.ofNat 64 (255 * 2 ^ (ofs % 64))) false) ∧
      Only [.md, .stl, .tpe, .fch] [(.FLOAT_PAGES, 0), (.CHARGE, c.dom)] s t := by
  obtain ⟨t, hstore, hlines, honly⟩ := hl.storeLine hs sc1 (BitVec.ofNat 512 (new * 2 ^ (8 * (ofs % 64)))) (BitVec.ofNat 64 (255 * 2 ^ (ofs % 64)))
  refine ⟨t, ?_, hlines, honly⟩
  have hop : p.op = 0x13 ∨ p.op = 0x14 := by
    obtain ⟨hop, -⟩ | ⟨hop, -⟩ := hnew
    · exact .inl hop
    · exact .inr hop
  have hwrites : (p.op != 0x13 || old == p.cmp) = true := by
    obtain ⟨-, hcmp, -⟩ | ⟨hop, -⟩ := hnew
    · simp [hcmp]
    · rw [hop]; rfl
  have hvalue : (if p.op = 0x13 then (if old = p.cmp then p.swap else old) else (old + p.swap) % 2 ^ 64) % 2 ^ 64 = new := by
    obtain ⟨hop, hcmp, hn⟩ | ⟨hop, hn⟩ := hnew
    · rw [if_pos hop, if_pos hcmp.symm, hn]
    · rw [if_neg (by rw [hop]; decide), hn, Nat.mod_mod]
  have hrow : s.rxExpected x c p = s.rxAtomic x c p := by
    rw [State.rxExpected, if_neg (by rcases hop with h | h <;> rw [h] <;> decide), if_neg (by rcases hop with h | h <;> rw [h] <;> decide), if_pos hop]
  rw [hrow, State.rxAtomic]
  simp only [h.not_goneWait, Bool.false_eq_true, if_false, h.goneOf_none, hkey, hva, hofs, bne_self_eq_false, h.not_inMsg, h.reads, List.length_nil,
    Nat.le_zero, hmax.ne', decide_false, Bool.or_self, List.isEmpty_nil, Bool.not_true, hl.raePage, hatomic, ← hl.line, hcopies, ne_eq,
    not_true_eq_false, hl.probeLines, hl.objLine, ← hold, hwrites, hs.alone, State.mirNeeds_plain _ hs.alone, hl.admits hs, hvalue, hstore]
  rfl

end

/-! ### The rows -/

theorem State.exec_rdmaWrite (s : State) {p : Pkt} (hop : p.op = 0xA) : exec (.rdmaWrite p) s = .next (s.rxRow true { p with cmp := 0 }) := by
  have hwr : opIsWr p.op = true := by rw [hop]; rfl
  rw [exec, execRdmaWrite, hwr]

theorem SoleCtx.arrives_used {s : State} {x : Nat} {c : RCtx} {p : Pkt} (ha : Arrives s x c p) :
    Arrives (s.useOnly x c) x (c.usedAt s.rae.clock) p :=
  ⟨ha.addr, ha.index, ha.qpn, ha.psn, ha.low, ha.notCe, ha.noSettle, ha.noFin, ha.noBad⟩

/-- A line as the engine's use of the context leaves it. -/
theorem OneLine.used {s : State} {obj ofs len : Nat} {o : Obj} {la : Nat} {k : Key} {cl : CLine} (h : OneLine s obj ofs len o la k cl) (x : Nat) (c : RCtx) :
    OneLine (s.useOnly x c) obj ofs len o la k cl := h.congr rfl rfl rfl rfl

theorem Storable.used {s : State} {d obj ofs la : Nat} {o : Obj} {cl : CLine} (h : Storable s d obj ofs la o cl) (x : Nat) (c : RCtx) :
    Storable (s.useOnly x c) d obj ofs la o cl := h.congr rfl fun _ _ => rfl

section
variable {s : State} {x : Nat} {c : RCtx} {p : Pkt} (h : SoleCtx s x c) (hsq : c.sq = [])
include h hsq

theorem SoleCtx.write_row {obj ofs : Nat} {o : Obj} {la : Nat} {k : Key} {cl : CLine} (ha : Arrives s x c p) (hop : p.op = 0xA) (hack : p.ackReq = true)
    (hkey : s.keyAt c p.rkey 1 p.va p.len = some (obj, o, ofs)) (hlen : p.data.length = p.len) (hl : OneLine s obj ofs p.len o la k cl)
    (hs : Storable s c.dom obj ofs la o cl) (hatomic : s.atomicHolds obj (ofs / 65536) = false) :
    ∃ t c', exec (.rdmaWrite p) s = .next t ∧
      mget t.fch.lines k = some (cl.store (lineOfBytes fun b => p.data.getD (64 * (ofs / 64) + b - ofs) 0)
        (partMask (linePart ofs p.len (ofs / 64))) false) ∧
      t.ctx? x = some c' ∧ c'.epsn = (c.epsn + 1) % 2 ^ 24 ∧ t.out = s.out ++ [Msg.rdma x 0x11 c.epsn [0] []] := by
  obtain ⟨q, hq⟩ : ∃ q : Pkt, q = { p with cmp := 0 } := ⟨_, rfl⟩
  have haq : Arrives s x c q := by
    rw [hq]
    exact ⟨ha.addr, ha.index, ha.qpn, ha.psn, ha.low, ha.notCe, ha.noSettle, ha.noFin, ha.noBad⟩
  obtain ⟨hqop, hqack, hqkey, hqlen, hqdata, hqcmp⟩ : q.op = 0xA ∧ q.ackReq = true ∧ s.keyAt c q.rkey 1 q.va q.len = some (obj, o, ofs) ∧
      q.len = p.len ∧ q.data = p.data ∧ q.cmp = 0 := by
    rw [hq]
    exact ⟨hop, hack, hkey, rfl, rfl, rfl⟩
  obtain ⟨u, hrow, hlines, honly⟩ := h.used.rxWrite_one (SoleCtx.arrives_used haq) hqcmp hqop hqack hqkey (by rw [hqdata, hqlen]; exact hlen)
    (by rw [hqlen]; exact hl.used x c) (hs.used x c) hatomic
  have hexec : exec (.rdmaWrite p) s = .next (s.rxRow true q) := by
    rw [State.exec_rdmaWrite s hop, ← hq]
  rw [h.rxRow_expected haq, hrow] at hexec
  obtain ⟨hctx, hout, hfch, -⟩ := State.raeRun_answers honly (by simp) (honly.rae_eq (by simp)) ((honly.fl_eq (by simp [slotRegs])).trans h.running)
    h.flush (h.used.passed_idle hsq 0xA) (.inl h.quiet) (.rdma x 0x11 c.epsn [0] [])
  refine ⟨_, _, hexec, ?_, hctx, by rw [RCtx.rest_epsn]; rfl, hout⟩
  have hline := (congrArg (mget · k) ((congrArg FchS.lines hfch).trans hlines)).trans (mget_mput _ _ _)
  rw [hqdata, hqlen] at hline
  exact hline

theorem SoleCtx.send_row (ha : Arrives s x c p) (hop : p.op = 4) (hack : p.ackReq = true) (hdata : p.data = []) (hlist : c.trigEn = false) :
    ∃ t c', exec (.rdmaSend p) s = .next t ∧ t.ctx? x = some c' ∧ c'.epsn = (c.epsn + 1) % 2 ^ 24 ∧
      c'.count = c.count + 1 ∧ t.out = s.out ++ [Msg.rdma x 0x11 c.epsn [0] []] := by
  obtain ⟨u, hrow, honly⟩ := h.used.rxSend_one (SoleCtx.arrives_used ha) hop hack hdata
  have hexec : exec (.rdmaSend p) s = .next (s.rxRow true p) := by
    rw [exec, execRdmaSend, hop]
    rfl
  rw [h.rxRow_expected ha, hrow] at hexec
  obtain ⟨hctx, hout, -, -⟩ := State.raeRun_answers honly (by simp) (honly.rae_eq (by simp)) ((honly.fl_eq (by simp)).trans h.running)
    h.flush (h.used.passed_idle hsq 4) (.inr hlist) (.rdma x 0x11 c.epsn [0] [])
  exact ⟨_, _, hexec, hctx, by rw [RCtx.rest_epsn]; rfl, by rw [RCtx.rest_count]; rfl, hout⟩

theorem SoleCtx.read_row {obj ofs : Nat} {o : Obj} {la : Nat} {k : Key} {cl : CLine} (ha : Arrives s x c p) (hop : p.op = 0x0C) (hmax : 0 < c.maxRd)
    (hkey : s.keyAt c p.rkey 0 p.va p.len = some (obj, o, ofs)) (hl : OneLine s obj ofs p.len o la k cl) :
    ∃ t c', exec (.rdmaReadRequest p) s = .next t ∧ t.ctx? x = some c' ∧ c'.epsn = (c.epsn + 1) % 2 ^ 24 ∧ c'.reads = [] ∧
      t.out = s.out ++ [Msg.rdma x 0x10 c.epsn [0] ((List.range p.len).map fun i => lineByte cl.data (ofs % 64 + i))] := by
  obtain ⟨v, hrow, hout, hflush, hrun⟩ := h.used.rxRead_one (SoleCtx.arrives_used ha) hop hmax hkey (hl.used x c)
  have hexec : exec (.rdmaReadRequest p) s = .next (s.rxRow true p) := by
    rw [exec, execRdmaReadRequest, hop]
    rfl
  rw [h.rxRow_expected ha, hrow] at hexec
  have hi : ((c.usedAt s.rae.clock).past 1).Idle := h.idleAt hsq rfl rfl h.reads rfl rfl rfl
  obtain ⟨hctx, honly⟩ := State.raeRun_rests (t := v.onlyCtx x ((c.usedAt s.rae.clock).past 1)) (x := x) hrun rfl hflush hi (.inl h.quiet)
  exact ⟨_, _, hexec, hctx, by rw [RCtx.rest_epsn]; rfl, by rw [RCtx.rest_reads]; exact h.reads, by rw [honly.out_eq (by simp)]; exact hout⟩

/-- The engine after an atomic: the context past it, with the old bytes sent. -/
theorem SoleCtx.atomic_end {ps : List Part} {fs : List (Fld × Nat)} {t : State} (ha : Arrives s x c p)
    (honly : Only ps fs (s.useOnly x c) t) (hparts : Part.rae ∉ ps ∧ Part.out ∉ ps) (hdrain : (Fld.DRAINING, 0) ∉ fs) (old : Nat) :
    ∃ c', (t.atomicEnd x (c.usedAt s.rae.clock) p old).raeRun.ctx? x = some c' ∧ c'.epsn = (c.epsn + 1) % 2 ^ 24 ∧
      (t.atomicEnd x (c.usedAt s.rae.clock) p old).raeRun.out = s.out ++ [Msg.rdma x 0x12 c.epsn [0] (toBytes 8 old)] ∧
      (t.atomicEnd x (c.usedAt s.rae.clock) p old).raeRun.fch = t.fch ∧ (t.atomicEnd x (c.usedAt s.rae.clock) p old).raeRun.stl = t.stl := by
  obtain ⟨u, hu⟩ : ∃ u : State, u = t.entGo (.rdma x p.psn) (c.usedAt s.rae.clock).dom := ⟨_, rfl⟩
  have hgo : Only [.waits] [(.STALLED, (c.usedAt s.rae.clock).dom)] t u := hu ▸ State.entGo_only _ _ _
  have hout : u.out = s.out := (hgo.out_eq (by simp)).trans (honly.out_eq hparts.2)
  have hi : (((c.usedAt s.rae.clock).noted p.psn old).past 1).Idle := h.idleAt hsq rfl rfl h.reads rfl rfl rfl
  rw [h.used.atomicEnd_only (SoleCtx.arrives_used ha) honly hparts.1 hdrain old hu]
  obtain ⟨hctx, hsent, hfch, hstl⟩ := State.raeRun_answers (Only.refl [] [] u) (by simp) rfl
    ((hgo.fl_eq (by simp)).trans ((honly.fl_eq hdrain).trans h.running))
    (by rw [hgo.rae_eq (by simp), honly.rae_eq hparts.1]; exact h.flush) hi (.inl h.quiet) (.rdma x 0x12 c.epsn [0] (toBytes 8 old))
  refine ⟨_, hctx, by rw [RCtx.rest_epsn]; rfl, ?_, ?_, ?_⟩
  · rw [← hout]; exact hsent
  · rw [← hgo.fch_eq (by simp)]; exact hfch
  · rw [← hgo.stl_eq (by simp)]; exact hstl

theorem SoleCtx.atomic_row {obj ofs old new : Nat} {o : Obj} {la : Nat} {k : Key} {cl : CLine} {i : Instr} (ha : Arrives s x c p) (hmax : 0 < c.maxRd)
    (hkey : s.keyAt c p.rkey 2 p.va 8 = some (obj, o, ofs)) (hva : p.va % 8 = 0) (hofs : ofs % 8 = 0) (hl : OneLine s obj ofs 8 o la k cl)
    (hs : Storable s c.dom obj ofs la o cl) (hatomic : s.atomicHolds obj (ofs / 65536) = false) (hold : old = bits cl.data.toNat (8 * (ofs % 64)) 64)
    (hi : (i = .cmpswap p ∧ p.op = 0x13 ∧ p.cmp = old ∧ new = p.swap % 2 ^ 64) ∨
      (i = .fetchadd p ∧ p.op = 0x14 ∧ new = (old + p.swap) % 2 ^ 64)) :
    ∃ t c', exec i s = .next t ∧ t.ctx? x = some c' ∧ c'.epsn = (c.epsn + 1) % 2 ^ 24 ∧
      mget t.fch.lines k = some (cl.store (BitVec.ofNat 512 (new * 2 ^ (8 * (ofs % 64)))) (BitVec.ofNat 64 (255 * 2 ^ (ofs % 64))) false) ∧
      t.out = s.out ++ [Msg.rdma x 0x12 c.epsn [0] (toBytes 8 old)] := by
  have hexec : exec i s = .next (s.rxRow true p) := by
    obtain ⟨rfl, hop, -⟩ | ⟨rfl, hop, -⟩ := hi
    · rw [exec, execCmpswap, hop]; rfl
    · rw [exec, execFetchadd, hop]; rfl
  have hnew : (p.op = 0x13 ∧ p.cmp = old ∧ new = p.swap % 2 ^ 64) ∨ (p.op = 0x14 ∧ new = (old + p.swap) % 2 ^ 64) := by
    obtain ⟨-, hi⟩ | ⟨-, hi⟩ := hi
    · exact .inl hi
    · exact .inr hi
  obtain ⟨t, hrow, hlines, honly⟩ := h.used.rxAtomic_store hmax hkey hva hofs (hl.used x c) hs.noCopy hatomic (hs.used x c) hold hnew
  rw [h.rxRow_expected ha, hrow] at hexec
  obtain ⟨c', hctx, hepsn, hout, hfch, -⟩ := h.atomic_end hsq ha honly (by simp) (by simp) old
  refine ⟨_, c', hexec, hctx, hepsn, ?_, hout⟩
  rw [hfch, hlines]
  exact mget_mput _ _ _

theorem SoleCtx.mismatch_row {obj ofs : Nat} {o : Obj} {la : Nat} {k : Key} {cl : CLine} (ha : Arrives s x c p) (hmax : 0 < c.maxRd) (hop : p.op = 0x13)
    (hkey : s.keyAt c p.rkey 2 p.va 8 = some (obj, o, ofs)) (hva : p.va % 8 = 0) (hofs : ofs % 8 = 0) (hl : OneLine s obj ofs 8 o la k cl)
    (hcopies : s.others la none = []) (hatomic : s.atomicHolds obj (ofs / 65536) = false) (hcmp : p.cmp ≠ bits cl.data.toNat (8 * (ofs % 64)) 64) :
    ∃ t, exec (.cmpswap p) s = .next t ∧ mget t.fch.lines k = some cl ∧ t.stl = s.stl ∧
      t.out = s.out ++ [Msg.rdma x 0x12 c.epsn [0] (toBytes 8 (bits cl.data.toNat (8 * (ofs % 64)) 64))] := by
  have hexec : exec (.cmpswap p) s = .next (s.rxRow true p) := by
    rw [exec, execCmpswap, hop]
    rfl
  have hrow := h.used.rxAtomic_mismatch hmax hkey hva hofs (hl.used x c) hcopies hatomic hop hcmp
  rw [h.rxRow_expected ha, hrow] at hexec
  have htouch : Only [.tpe] [] (s.useOnly x c) ((s.useOnly x c).touch ((s.useOnly x c).mapE (o.mapBase + ofs / 65536)).frame) := State.touch_only _ _
  obtain ⟨-, -, -, hout, hfch, hstl⟩ := h.atomic_end hsq ha htouch (by simp) (by simp) (bits cl.data.toNat (8 * (ofs % 64)) 64)
  refine ⟨_, hexec, ?_, hstl.trans (htouch.stl_eq (by simp)), hout⟩
  rw [hfch.trans (htouch.fch_eq (by simp))]
  exact hl.cached.2

/-! ### Duplicates, drops and refusals -/

/-- A duplicate FETCHADD is answered from its kept result (R358). -/
theorem SoleCtx.duplicate_row {old : Nat} (hinv : s.Inv) (haddr : s.addrOk p = true) (hx : x < 65536) (hqpn : p.qpn = 0x10000 + x) (hce : p.ce = false)
    (hop : p.op = 0x14) (hbehind : 0 < psnAfter p.psn c.epsn) (hnear : psnAfter p.psn c.epsn ≤ 8192) (hlow : p.psn < 2 ^ 24)
    (hkept : c.atomics = [(p.psn, old)]) :
    ∃ t c', exec (.fetchadd p) s = .next t ∧ t.ctx? x = some c' ∧ c'.epsn = c.epsn ∧ t.fch = s.fch ∧
      t.rd .RAE_DUP_CNT = min (2 ^ 32 - 1) (s.rd .RAE_DUP_CNT + 1) ∧ t.out = s.out ++ [Msg.rdma x 0x12 p.psn [0] (toBytes 8 old)] := by
  obtain ⟨u, hu⟩ : ∃ u : State, u = (s.useOnly x c).count .RAE_DUP_CNT 0 .RAE_FLAGS_CNT_OVF 0 2 := ⟨_, rfl⟩
  have hcount : Only [.dbk] ((.RAE_DUP_CNT, 0) :: (.RAE_FLAGS_CNT_OVF, 0) :: dbkRegs) (s.useOnly x c) u := hu ▸ State.count_only _ _ _ _ _ _
  have hrun : u.draining = false := (hcount.fl_eq (by decide)).trans h.running
  have hrae : u.rae = (s.useOnly x c).rae := hcount.rae_eq (by simp)
  have hfind : ((c.usedAt s.rae.clock).atomics.find? fun a => a.1 == p.psn) = some (p.psn, old) := by
    rw [show (c.usedAt s.rae.clock).atomics = [(p.psn, old)] from hkept]
    exact List.find?_cons_of_pos (by simp)
  have hdup : (s.useOnly x c).rxProcess x p = u.send (.rdma x 0x12 p.psn [0] (toBytes 8 old)) := by
    rw [State.rxProcess, h.used.ctxReady]
    simp only [show (c.usedAt s.rae.clock).epsn = c.epsn from rfl, hbehind.ne', if_false, hnear, if_true, State.rxDup, ← hu, hop]
    rw [if_neg (by decide), if_pos (by decide), hfind]
    dsimp only
    rw [State.ctxSend_open hrun (by rw [hrae]; exact h.paused), Nat.mod_eq_of_lt hlow]
  have hexec : exec (.fetchadd p) s = .next (u.send (.rdma x 0x12 p.psn [0] (toBytes 8 old))).raeRun := by
    rw [← hdup, ← h.rx_process haddr hx hqpn hce, exec, execFetchadd, State.rxRow, if_neg (by simp [h.running, hop])]
  have hi : (c.usedAt s.rae.clock).Idle := h.idleAt hsq rfl rfl h.reads rfl rfl h.fins
  obtain ⟨hctx, honly⟩ := State.raeRun_rests (t := u.send (.rdma x 0x12 p.psn [0] (toBytes 8 old))) (x := x) (d := c.usedAt s.rae.clock) hrun
    (by rw [show (u.send _).rae = _ from hrae]; rfl) (by rw [show (u.send _).rae = _ from hrae]; exact h.flush) hi (.inl h.quiet)
  refine ⟨_, _, hexec, hctx, by rw [RCtx.rest_epsn]; rfl, ?_, ?_, ?_⟩
  · rw [honly.fch_eq (by simp)]; exact hcount.fch_eq (by simp)
  · rw [honly.rd_eq (by decide), show (u.send _).rd .RAE_DUP_CNT = u.rd .RAE_DUP_CNT from rfl, hu]
    exact State.count_rdi (s := s.useOnly x c) hinv.1 (f := .RAE_DUP_CNT) (ovf := .RAE_FLAGS_CNT_OVF) rfl (by decide) (by decide) 0 0 2
  · rw [honly.out_eq (by simp), State.send_out, hcount.out_eq (by simp)]; rfl

/-- A packet for no address of the engine is dropped (R349). -/
theorem SoleCtx.drop_row (hinv : s.Inv) (haddr : s.addrOk p = false) (hop : p.op = 0xA) :
    ∃ t, exec (.rdmaWrite p) s = .next t ∧ t.out = s.out ∧ t.fch = s.fch ∧ t.rd .RX_DROP_CNT = min (2 ^ 32 - 1) (s.rd .RX_DROP_CNT + 1) := by
  obtain ⟨u, hu⟩ : ∃ u : State, u = s.count .RX_DROP_CNT 0 .RAE_FLAGS_CNT_OVF 0 7 := ⟨_, rfl⟩
  have hcount : Only [.dbk] ((.RX_DROP_CNT, 0) :: (.RAE_FLAGS_CNT_OVF, 0) :: dbkRegs) s u := hu ▸ State.count_only _ _ _ _ _ _
  have hrae : u.rae = s.rae := hcount.rae_eq (by simp)
  have haddr' : s.addrOk { p with cmp := 0 } = false := haddr
  have hexec : exec (.rdmaWrite p) s = .next u.raeRun := by
    rw [State.exec_rdmaWrite s hop, State.rxRow, if_neg (by simp [h.running]), State.rx]
    simp only [haddr', Bool.false_and, Bool.false_eq_true, if_false, hu]
  have hi : c.Idle := h.idleAt hsq rfl rfl h.reads rfl rfl h.fins
  obtain ⟨-, honly⟩ := State.raeRun_rests (t := u) (x := x) (d := c) ((hcount.fl_eq (by decide)).trans h.running) (by rw [hrae]; exact h.only)
    (by rw [hrae]; exact h.flush) hi (.inl h.quiet)
  refine ⟨_, hexec, (honly.out_eq (by simp)).trans (hcount.out_eq (by simp)), (honly.fch_eq (by simp)).trans (hcount.fch_eq (by simp)), ?_⟩
  rw [honly.rd_eq (by decide), hu]
  exact State.count_rdi hinv.1 (f := .RX_DROP_CNT) (ovf := .RAE_FLAGS_CNT_OVF) rfl (by decide) (by decide) 0 0 7

/-- A WRITE whose key gives no right is refused, and its context is in error (R356). -/
theorem SoleCtx.refused_row (hinv : s.Inv) (ha : Arrives s x c p) (hop : p.op = 0xA) (hkey : s.keyAt c p.rkey 1 p.va p.len = none) :
    ∃ t c', exec (.rdmaWrite p) s = .next t ∧ t.ctx? x = some c' ∧ c'.err = true ∧ t.fl .CTX_ERR = true ∧ t.fch = s.fch ∧
      t.out = s.out ++ [Msg.rdma x 0x11 c.epsn [0x62] []] := by
  obtain ⟨q, hq⟩ : ∃ q : Pkt, q = { p with cmp := 0 } := ⟨_, rfl⟩
  have haq : Arrives s x c q := by
    rw [hq]
    exact ⟨ha.addr, ha.index, ha.qpn, ha.psn, ha.low, ha.notCe, ha.noSettle, ha.noFin, ha.noBad⟩
  have hqop : q.op = 0xA := by rw [hq]; exact hop
  obtain ⟨v, hv⟩ : ∃ v : State, v = (s.useOnly x c).send (.rdma x 0x11 c.epsn [0x62] []) := ⟨_, rfl⟩
  have hmsg : (s.useOnly x c).msgOf (c.usedAt s.rae.clock) q = none := by
    rw [State.msgOf, if_pos (by rw [hqop]; rfl), hq]
    exact Option.map_eq_none_iff.2 hkey
  have hnak : (s.useOnly x c).rxExpected x (c.usedAt s.rae.clock) q = v.ctxError x := by
    rw [State.rxExpected, if_pos (by rw [hqop]; rfl), State.rxWrite]
    simp only [h.used.not_goneWait, Bool.false_eq_true, if_false, h.used.goneOf_none, Option.isSome_none, hmsg]
    rw [if_pos (by rw [hqop]; rfl), State.ctxNak, if_neg (by decide),
      State.ctxSend_open (s := s.useOnly x c) h.running h.paused, haq.psn, Nat.mod_eq_of_lt ha.low, hv]
    rfl
  have hexec : exec (.rdmaWrite p) s = .next (v.ctxError x).raeRun := by
    rw [State.exec_rdmaWrite s hop, ← hq, h.rxRow_expected haq, hnak]
  obtain ⟨hrae, honly, hflag⟩ := State.ctxError_facts (s := v) (x := x) (c := c.usedAt s.rae.clock) (by rw [hv]; exact hinv.1) (by rw [hv]; rfl) h.ready
  obtain ⟨d, hd⟩ : ∃ d : RCtx, d = (c.usedAt s.rae.clock).failed := ⟨_, rfl⟩
  have hctx : (v.ctxError x).rae.ctxs = [((x, 0), d)] := by rw [hrae, hd]; rfl
  have herr : d.err = true := by rw [hd]; rfl
  have hi : d.Idle := by
    rw [hd]
    exact h.idleAt (d := (c.usedAt s.rae.clock).failed) hsq
      (by show (c.sq.map _) = c.sq; rw [hsq]; rfl) rfl rfl (by show none = c.blocked; rw [h.blocked]) (by show [] = c.parked; rw [h.parked]) rfl
  have hexam : d.exam = false := by rw [hd]; exact h.quiet
  have hquiet := State.raeRun_quiet ((honly.fl_eq (by decide)).trans (by rw [hv]; exact h.running)) hctx
    (by rw [hrae, hv]; exact h.flush) hi hexam
  rw [hquiet] at hexec
  refine ⟨_, d, hexec, ?_, herr, ?_, ?_, ?_⟩
  · rw [State.raeRegs_ctx?]; exact State.ctx?_of_only hctx
  · rw [State.fl_eq (State.raeRegs_rdi _ (by decide) 0)]; exact hflag
  · rw [(State.raeRegs_only _).fch_eq (by simp), honly.fch_eq (by simp), hv]; rfl
  · rw [(State.raeRegs_only _).out_eq (by simp), honly.out_eq (by simp), hv]; rfl

end

/-- Settles O41: a packet that arrives in order on the idle sole context is processed at once; its one line is cached and can be stored, and the
engine's pass that follows finds nothing to do. -/
theorem packetsReceived : Obligations.PacketsReceived := by
  unfold Obligations.PacketsReceived
  refine ⟨?write, ?sent, ?reads, ?atomic, ?mismatch, ?duplicate, ?drop, ?refused⟩
  case write =>
    intro s x c p obj ofs o la k cl _ h ha hsq hop hack hkey hlen hl hs hatomic
    exact h.write_row hsq ha hop hack hkey hlen hl hs hatomic
  case sent =>
    intro s x c p _ h ha hsq hop hack hdata hlist
    exact h.send_row hsq ha hop hack hdata hlist
  case reads =>
    intro s x c p obj ofs o la k cl _ h ha hsq hop hmax hkey hl
    exact h.read_row hsq ha hop hmax hkey hl
  case atomic =>
    intro s x c p i obj ofs old new o la k cl _ h ha hsq hmax hkey hva hofs hl hs hatomic hold hi
    exact h.atomic_row hsq ha hmax hkey hva hofs hl hs hatomic hold hi
  case mismatch =>
    intro s x c p obj ofs o la k cl _ h ha hsq hmax hop hkey hva hofs hl hcopies hatomic hcmp
    exact h.mismatch_row hsq ha hmax hop hkey hva hofs hl hcopies hatomic hcmp
  case duplicate =>
    intro s x c p old hinv h hsq haddr hx hqpn hce hop hbehind hnear hlow hkept
    exact h.duplicate_row hsq hinv haddr hx hqpn hce hop hbehind hnear hlow hkept
  case drop =>
    intro s x c p hinv h hsq haddr hop
    exact h.drop_row hsq hinv haddr hop
  case refused =>
    intro s x c p hinv h ha hsq hop hkey
    exact h.refused_row hsq hinv ha hop hkey

end Sys2Proof.Machine
end

section
/-! Streams posted and cancelled, and a SETTLE without a twin (06_command_set.md R152, R160, R203 to R206): O23. -/

namespace Sys2Proof.Machine

/-! ### STREAM_POST -/

theorem exec_streamPost {s : State} {c : Cmd} {list : List (List Nat)} {es : List SEnt} (hrun : s.running? c.uid opStream = some c)
    (haccepted : c.accepted = false) (hnone : s.stream? c.dom (sqeSid c.words) = none)
    (hes : es = (List.range (bits (sqeW c.words 1) 48 16)).map (fun i => schedEntry (list.getD i []) s.nowUs)) (hlist : s.checkList c.dom 0 es = none) :
    exec (.streamPost c.uid false list) s = .next (({ s.updCmd c.uid (fun c => { c with accepted := true }) with
      tpe := { s.tpe with streams := s.tpe.streams ++ [(⟨c.dom, sqeSid c.words, c.uid, es, [], 0, 0, 0, 0, none⟩ : Stream)] } }).streamRegs c.dom) := by
  rw [exec, execStreamPost, hrun]
  simp only [haccepted, Bool.false_eq_true, if_false, hnone, Option.isSome_none, ← hes, hlist]
  rfl

/-! ### STREAM_CANCEL -/

/-- A command that has ended stays as it ended while streams end: none of them is its own. -/
structure EndedApart (e : Cmd) (s : State) : Prop where
  entry : e ∈ s.cmd.cmds
  done : e.uid ∈ s.cmd.done
  apart : ∀ y ∈ s.tpe.streams, y.uid ≠ e.uid

section
variable {e : Cmd} {s : State}

theorem EndedApart.of_same {t : State} (h : EndedApart e s) (hcmd : t.cmd = s.cmd) (hstreams : t.tpe.streams = s.tpe.streams) : EndedApart e t :=
  ⟨by rw [hcmd]; exact h.entry, by rw [hcmd]; exact h.done, by rw [hstreams]; exact h.apart⟩

theorem EndedApart.finishCmd (h : EndedApart e s) {uid : Nat} (hne : uid ≠ e.uid) (f : Cmd → Cmd) : EndedApart e (s.finishCmd uid f) := by
  rw [State.finishCmd]
  split
  · exact ⟨List.mem_map.2 ⟨e, h.entry, if_neg (Ne.symm hne)⟩, List.mem_append_left _ h.done, h.apart⟩
  · exact h

theorem EndedApart.updStream (h : EndedApart e s) (d sid : Nat) {f : Stream → Stream} (hf : ∀ y, (f y).uid = y.uid) :
    EndedApart e (s.updStream d sid f) := by
  refine ⟨h.entry, h.done, fun y hy => ?_⟩
  obtain ⟨z, hz, rfl⟩ := List.mem_map.1 hy
  split
  · rw [hf]; exact h.apart z hz
  · exact h.apart z hz

theorem EndedApart.streamEnd (h : EndedApart e s) {t : Stream} (hne : t.uid ≠ e.uid) : EndedApart e (s.streamEnd t) := by
  rw [State.streamEnd]
  split
  · exact h
  · refine EndedApart.finishCmd ?_ hne _
    exact ⟨h.entry, h.done, fun y hy => h.apart y (List.mem_filter.1 hy).1⟩

theorem EndedApart.streamEnds (h : EndedApart e s) : EndedApart e s.streamEnds :=
  State.each_inv (P := EndedApart e) s.tpe.streams h fun _ t ht hu => hu.streamEnd (h.apart t ht)

theorem EndedApart.cancelMove (h : EndedApart e s) (m : Move) : EndedApart e (s.cancelMove m) := by
  have hcount : EndedApart e (s.countStreams m false) :=
    State.each_inv (P := EndedApart e) m.streams h fun _ _ _ hu => hu.updStream _ _ fun _ => rfl
  exact EndedApart.streamEnds (hcount.of_same rfl rfl)

theorem EndedApart.detachStream (h : EndedApart e s) (d sid : Nat) (m : Move) : EndedApart e (s.detachStream d sid m) := by
  unfold State.detachStream
  extract_lets
  split
  · exact h.cancelMove m
  · refine EndedApart.updStream (h.of_same (t := s.updMove m.id _) rfl rfl) _ _ ?_
    exact fun _ => rfl

end

/-- Every queued move that serves a stream is one of those listed. -/
def State.servedBy (s : State) (d sid : Nat) (ids : List Nat) : Prop :=
  ∀ m ∈ s.tpe.moves, m.st = .queued → (d, sid) ∈ m.streams → m.id ∈ ids

theorem State.servedBy_congr {s t : State} {d sid : Nat} {ids : List Nat} (h : s.servedBy d sid ids) (hm : t.tpe.moves = s.tpe.moves) :
    t.servedBy d sid ids := fun m hmem => h m (hm ▸ hmem)

/-- A move detached from a stream serves it no more. -/
theorem State.servedBy_detach {s : State} {d sid : Nat} {m : Move} {ids : List Nat} (h : s.servedBy d sid (m.id :: ids)) :
    (s.detachStream d sid m).servedBy d sid ids := by
  unfold State.detachStream
  extract_lets mine
  have hmine : ∀ src : MSrc, mine src = true ↔ ∃ n, src = .stream d sid n := by
    intro src
    cases src with
    | stream d' sid' n => simp [mine]
    | _ => simp [mine]
  split
  · intro y hy hq hs
    obtain ⟨hmoves, -⟩ := (s.countStreams m false).dropMove_facts m.id
    rw [State.cancelMove, hmoves, (s.countStreams_same m false).moves] at hy
    obtain ⟨hy, hid⟩ := List.mem_filter.1 hy
    exact (List.mem_cons.1 (h y hy hq hs)).resolve_left (by simpa using hid)
  · rename_i x r hrest
    intro y hy hq hs
    obtain ⟨z, hz, rfl⟩ := List.mem_map.1 hy
    by_cases hid : z.id = m.id
    · exfalso
      rw [if_pos hid] at hs
      obtain ⟨src, hsrc, hsome⟩ := List.mem_filterMap.1 hs
      have hnot : mine src = false := by
        have hmem : src ∈ (m.src :: m.also).filter fun x => !mine x := by rw [hrest]; exact hsrc
        simpa using (List.mem_filter.1 hmem).2
      have hyes : mine src = true := by
        cases src with
        | stream d' sid' n =>
          simp only [Option.some.injEq, Prod.mk.injEq] at hsome
          obtain ⟨rfl, rfl⟩ := hsome
          exact (hmine _).2 ⟨n, rfl⟩
        | _ => cases hsome
      rw [hnot] at hyes
      cases hyes
    · rw [if_neg hid] at hq hs ⊢
      exact (List.mem_cons.1 (h z hz hq hs)).resolve_left hid

theorem State.servedBy_detachAll {d sid : Nat} (l : List Move) : ∀ {s : State}, s.servedBy d sid (l.map (·.id)) →
    (s.each l fun s m => s.detachStream d sid m).servedBy d sid [] := by
  induction l with
  | nil => exact fun h => h
  | cons m r ih => exact fun h => ih (State.servedBy_detach h)

/-- A cancelled stream has no queued move, and commands that ended stay so. -/
theorem State.cancelStream_facts {s : State} {e : Cmd} (h : EndedApart e s) (d sid : Nat) :
    EndedApart e (s.cancelStream d sid) ∧ (s.cancelStream d sid).servedBy d sid [] := by
  obtain ⟨ms, hms⟩ : ∃ ms, ms = s.tpe.moves.filter fun m => m.st == .queued && m.streams.contains (d, sid) := ⟨_, rfl⟩
  have hserved : s.servedBy d sid (ms.map (·.id)) := fun m hm hq hs => by
    rw [hms]
    exact List.mem_map_of_mem (List.mem_filter.2 ⟨hm, by simp [hq, hs]⟩)
  obtain ⟨u, hu⟩ : ∃ u : State, u = s.each ms fun s m => s.detachStream d sid m := ⟨_, rfl⟩
  have hue : EndedApart e u := hu ▸ State.each_inv (P := EndedApart e) ms h fun _ m _ hu => hu.detachStream d sid m
  have hus : u.servedBy d sid [] := hu ▸ State.servedBy_detachAll ms hserved
  rw [State.cancelStream]
  simp only [← hms, ← hu]
  refine ⟨EndedApart.streamEnds (hue.updStream d sid fun _ => rfl), ?_⟩
  refine State.servedBy_congr (s := u) hus ((SameMoves.each _ _ State.streamEnd_same).moves.trans rfl)

theorem exec_streamCancel {s : State} {c : Cmd} {y : Stream} {n : Nat} (hrun : s.running? c.uid opCancel = some c)
    (hy : s.stream? c.dom (sqeSid c.words) = some y)
    (hn : n = (s.tpe.moves.filter fun m => m.st == .queued && m.streams.contains (c.dom, sqeSid c.words)).length +
      ((y.ents.filter fun e => !e.started).map (·.pages)).foldl (· + ·) 0) :
    exec (.streamCancel c.uid) s = .next ((s.cmdOk c n 0).cancelStream c.dom (sqeSid c.words)).cmdRegs := by
  rw [exec, execStreamCancel, hrun]
  simp only [hy, ← hn]

/-- A STREAM_CANCEL ends with the moves and pages that it cancelled (R160). -/
theorem streamCancel_ends {s : State} {c : Cmd} {y : Stream} {n : Nat} (hrun : s.running? c.uid opCancel = some c)
    (hy : s.stream? c.dom (sqeSid c.words) = some y) (happart : ∀ y ∈ s.tpe.streams, y.uid ≠ c.uid)
    (hn : n = (s.tpe.moves.filter fun m => m.st == .queued && m.streams.contains (c.dom, sqeSid c.words)).length +
      ((y.ents.filter fun e => !e.started).map (·.pages)).foldl (· + ·) 0) :
    ∃ t, exec (.streamCancel c.uid) s = .next t ∧ t.ended c 0 n 0 ∧
      (∀ m ∈ t.tpe.moves, m.st = .queued → (c.dom, sqeSid c.words) ∉ m.streams) := by
  obtain ⟨-, hc, -, hph, -⟩ := State.running?_facts hrun
  obtain ⟨hdone, e, he, huid, hwords, hfin, hstatus, hr0, hr1⟩ := State.cmdOk_ended hc hph (rfl : c.words = c.words) rfl n 0 (y := c) rfl
  have hstart : EndedApart e (s.cmdOk c n 0) := by
    refine ⟨he, huid ▸ hdone, fun y hy => ?_⟩
    rw [(State.cmdOk_only _ _ _ _).tpe_eq (by simp)] at hy
    rw [huid]
    exact happart y hy
  obtain ⟨hend, hserved⟩ := State.cancelStream_facts hstart c.dom (sqeSid c.words)
  have hregs : Only [] [(.EXEC_USED, 0), (.WAIT_USED, 0), (.LOCK_USED, 0), (.LOCK_PEAK, 0)] ((s.cmdOk c n 0).cancelStream c.dom (sqeSid c.words)) _ :=
    State.cmdRegs_only _
  refine ⟨_, exec_streamCancel hrun hy hn, ⟨?_, e, ?_, huid, hwords, hfin, hstatus, hr0, hr1⟩, ?_⟩
  · rw [hregs.cmd_eq (by simp), ← huid]; exact hend.done
  · rw [hregs.cmd_eq (by simp)]; exact hend.entry
  · intro m hm hq hs
    rw [hregs.tpe_eq (by simp)] at hm
    exact absurd (hserved m hm hq hs) List.not_mem_nil

/-! ### SETTLE without a twin -/

/-- A command's fence accepted where there is no twin is answered at once with OK_SOLO (R38, R152). -/
theorem State.acceptFence_cmd {s : State} (hopn : s.mir.opn = []) (hst : s.rd .STATE = mirNoTwin) (uid d : Nat) :
    s.acceptFence (.cmd uid) d 0 =
      (s.fenceGone (s.soloFence (.cmd uid) d 0)).finishCmd uid fun c => { c with status := 2, r0 := s.rd .SSN_ISSUED } := by
  have hzero : (s.rd .STATE != mirNoTwin && !s.ownsUnmatched d && !s.outstanding d) = false := by rw [hst]; rfl
  have hres := State.fenceResult_noTwin (s := s.addFence (s.soloFence (.cmd uid) d 0)) hst (s.soloFence (.cmd uid) d 0)
  unfold State.acceptFence
  rw [State.closeAll_none hopn]
  simp only [hzero, Bool.false_eq_true, if_false]
  show (match (s.addFence (s.soloFence (.cmd uid) d 0)).fenceResult (s.soloFence (.cmd uid) d 0) true with | some r => _ | none => _) = _
  rw [hres]
  rfl

/-- A SETTLE without AFTER_PRIOR ends with STATUS 2 where there is no twin (R38, R152). -/
theorem settle_ends {s : State} {c : Cmd} (hrun : s.running? c.uid opSettle = some c) (haccepted : c.accepted = false)
    (hafter : bit (sqeW c.words 1) 0 = false) (hst : s.rd .STATE = mirNoTwin) (hopn : s.mir.opn = []) :
    ∃ t, exec (.settle c.uid) s = .next t ∧ (∀ f ∈ t.fences, f ∈ s.fences) ∧
      ∃ x ∈ t.cmd.cmds, x.uid = c.uid ∧ x.ph = .finished ∧ x.status = 2 ∧ x.r0 = s.rd .SSN_ISSUED := by
  obtain ⟨-, hc, -, hph, hop⟩ := State.running?_facts hrun
  obtain ⟨u, hu⟩ : ∃ u : State, u = s.updCmd c.uid fun c => { c with accepted := true } := ⟨_, rfl⟩
  obtain ⟨v, hv⟩ : ∃ v : State, v = u.fenceGone (u.soloFence (.cmd c.uid) c.dom 0) := ⟨_, rfl⟩
  have hfree : (sqeOp c.words != opSettle || c.accepted || c.ph != .running || (bit (sqeW c.words 1) 0 && s.cmd.cmds.any fun x =>
      x.qp == c.qp && decide (x.uid < c.uid))) = false := by
    rw [hop, haccepted, hph, hafter]; rfl
  have hexec : exec (.settle c.uid) s = .next (v.finishCmd c.uid fun c => { c with status := 2, r0 := u.rd .SSN_ISSUED }).cmdRegs := by
    rw [exec, execSettle, hrun]
    simp only [State.settleAccept, hfree, Bool.false_eq_true, if_false]
    rw [← hu, State.acceptFence_cmd (by rw [hu]; exact hopn) (by rw [hu]; exact hst), hv]
  obtain ⟨hperm, honly⟩ := u.fenceGone_facts (u.soloFence (.cmd c.uid) c.dom 0)
  rw [← hv] at hperm honly
  have hmem : ({ c with accepted := true } : Cmd) ∈ v.cmd.cmds := by
    rw [honly.cmd_eq (by simp), hu]
    exact List.mem_map.2 ⟨c, hc, if_pos rfl⟩
  have hssn : u.rd .SSN_ISSUED = s.rd .SSN_ISSUED := by rw [hu]; rfl
  obtain ⟨-, hin⟩ := State.finishCmd_mem hmem (by rw [hph]; decide) fun c => { c with status := 2, r0 := u.rd .SSN_ISSUED }
  have hregs : Only [] [(.EXEC_USED, 0), (.WAIT_USED, 0), (.LOCK_USED, 0), (.LOCK_PEAK, 0)]
    (v.finishCmd c.uid fun c => { c with status := 2, r0 := u.rd .SSN_ISSUED }) _ := State.cmdRegs_only _
  refine ⟨_, hexec, fun f hf => ?_, { c with accepted := true, status := 2, r0 := u.rd .SSN_ISSUED, ph := .finished }, ?_, rfl, rfl, rfl, hssn⟩
  · rw [hregs.fences_eq (by simp), (State.finishCmd_only _ _ _).fences_eq (by simp)] at hf
    have hfu : f ∈ u.fences := hperm.mem_iff.1 hf
    rw [hu] at hfu
    exact hfu
  · rw [hregs.cmd_eq (by simp)]
    exact hin

end Sys2Proof.Machine
end

section
/-! WRITE_ATOMIC of one whole page (06_command_set.md R149 to R151): O23. -/

namespace Sys2Proof.Machine

/-! ### Lines that hold their values -/

/-- Each line listed holds its value, and the DRAM contents are in their one form. -/
structure HoldsLines (val : Nat → DLine) (las : List Nat) (s : State) : Prop where
  canonical : dramOk s.dram = true
  lines : ∀ la ∈ las, s.dline la = val la

section
variable {val : Nat → DLine} {las : List Nat} {s : State}

theorem State.dline_of_dram {s t : State} (h : t.dram = s.dram) (la : Nat) : t.dline la = s.dline la := by rw [State.dline, State.dline, h]

theorem HoldsLines.of_dram {t : State} (h : HoldsLines val las s) (hd : t.dram = s.dram) : HoldsLines val las t :=
  ⟨by rw [hd]; exact h.canonical, fun la hla => (State.dline_of_dram hd la).trans (h.lines la hla)⟩

/-- One more line written with its value. -/
theorem HoldsLines.write (h : HoldsLines val las s) (la : Nat) (tag : DTag) (cls : Nat) :
    HoldsLines val (las ++ [la]) (s.writeDram la (val la) tag cls) := by
  have hdram : (s.writeDram la (val la) tag cls).dram = (s.setDline la (val la)).dram :=
    (State.dreq_in (ft := State.dreq_foot) (In.refl _ (s.setDline la (val la))) (Foot.le_refl _)).parts .dram (by decide)
  have hok : dramOk (s.setDline la (val la)).dram = true :=
    (State.setDline_in (ft := State.setDline_foot) (In.refl _ s) (Foot.le_refl _)).dramOk h.canonical
  refine HoldsLines.of_dram (s := s.setDline la (val la)) ⟨hok, fun lb hlb => ?_⟩ hdram
  by_cases heq : la = lb
  · rw [← heq]
    exact State.dline_setDline la (val la) (dramOk_iff.1 h.canonical).1
  · rw [State.dline_setDline_ne s (val la) heq]
    refine h.lines lb ?_
    obtain hold | hnew := List.mem_append.1 hlb
    · exact hold
    · exact absurd (List.mem_singleton.1 hnew).symm heq

/-- Steps that each add the lines of their own. -/
theorem HoldsLines.each {α : Type} {f : State → α → State} {adds : α → List Nat} (l : List α) :
    ∀ {s : State} {las : List Nat}, HoldsLines val las s → (∀ s las x, x ∈ l → HoldsLines val las s → HoldsLines val (las ++ adds x) (f s x)) →
      HoldsLines val (las ++ l.flatMap adds) (s.each l f) := by
  induction l with
  | nil => exact fun h _ => by simpa [State.each] using h
  | cons a r ih =>
    intro s las h hstep
    have hrest := ih (hstep s las a List.mem_cons_self h) fun u vas y hy hu => hstep u vas y (List.mem_cons_of_mem _ hy) hu
    rw [List.flatMap_cons, ← List.append_assoc]
    exact hrest

end

/-! ### The switch of a page -/

/-- The new value of a line of the escrow frame f: the buffer's bytes. -/
def pageValue (data : List Nat) (f la : Nat) : DLine := ⟨lineOfBytes fun b => data.getD (64 * (la - 1024 * f) + b) 0, .good⟩

/-- One covered code page of a volatile object, written into the escrow frame. -/
theorem State.switchNew_holds {s : State} {o : Obj} (hvol : o.persist = false) {c : Cmd} {data : List Nat} {f : Nat} {las : List Nat}
    (h : HoldsLines (pageValue data f) las s) {tp : Nat} (ix : Nat) {k : Nat} :
    HoldsLines (pageValue data f) (las ++ (List.range 64).map fun j => 1024 * f + 64 * k + j)
      (s.switchNew c o ix tp f k fun x => data.getD (x - tp * 65536) 0) := by
  have hvalue : ∀ j, (⟨lineOfBytes fun b => data.getD (tp * 65536 + k * 4096 + 64 * j + b - tp * 65536) 0, .good⟩ : DLine) =
      pageValue data f (1024 * f + 64 * k + j) := by
    intro j
    refine congrArg (fun g : Nat → Nat => (⟨lineOfBytes g, .good⟩ : DLine)) (funext fun b => ?_)
    have hpos : tp * 65536 + k * 4096 + 64 * j + b - tp * 65536 = 64 * (1024 * f + 64 * k + j - 1024 * f) + b := by omega
    rw [hpos]
  have hwrites := HoldsLines.each (adds := fun j => [1024 * f + 64 * k + j]) (List.range 64) h
    (f := fun s j => s.writeDram (1024 * f + 64 * k + j) (pageValue data f (1024 * f + 64 * k + j)) .fch sc2) fun u vas j _ hu => hu.write _ _ _
  rw [← List.map_eq_flatMap] at hwrites
  unfold State.switchNew
  simp only [hvalue, hvol, Bool.not_false, if_true]
  exact hwrites.of_dram ((State.releaseCp_in (ft := State.releaseCp_foot) (In.refl _ _) (Foot.le_refl _)).parts .dram (by decide))

/-- What a frame's retirement touches. -/
def retireFoot : Foot := State.freeRemap_foot ||| Fld.RETIRE_PEND.foot ||| Fld.POOL_FRAMES.foot ||| State.floors_foot

theorem State.retire_dram (s : State) (f : Nat) :
    ((((s.freeRemap f).wr .RETIRE_PEND (s.freeRemap f).int.retire.length).wr .POOL_FRAMES ((s.freeRemap f).rd .POOL_FRAMES - 1)).floors).dram = s.dram := by
  have hin : In retireFoot s ((((s.freeRemap f).wr .RETIRE_PEND (s.freeRemap f).int.retire.length).wr .POOL_FRAMES
      ((s.freeRemap f).rd .POOL_FRAMES - 1)).floors) :=
    State.floors_in (State.wr_in (State.wr_in (State.freeRemap_in (In.refl _ s) (by decide)) (by decide)) (by decide)) (by decide)
  exact hin.parts .dram (by decide)

/-- Giving a frame back drops at most its own lines. -/
theorem State.freeFrame_dline (s : State) {f la : Nat} (h : la / 1024 ≠ f) : (s.freeFrame f).dline la = s.dline la := by
  have hdrop : (s.dropLines f).dline la = s.dline la := by
    rw [State.dline, State.dline]
    exact congrArg (·.getD zeroLine) (mget_mfilter_key (p := fun k => k.1 != f) (k := (la / 1024, la % 1024)) (by simpa using h))
  unfold State.freeFrame
  split
  · rfl
  · refine (State.dline_of_dram (s := s.dropLines f) ?_ la).trans hdrop
    extract_lets dropped tpe int cleared recoded tallied marked marks pended freed
    split
    · have hkept : pended.dram = (s.dropLines f).dram := rfl
      have hfreed : freed = pended.freeRemap f := rfl
      rw [hfreed, State.retire_dram, hkept]
    · rfl

/-! ### The page -/

/-- What the switch of a page touches. -/
def switchFoot : Foot := State.cleanFrame_foot ||| State.switchPage_foot

theorem coveredCps_page (tp : Nat) : coveredCps (tp * 65536) 65536 tp = List.range 16 := by
  refine List.filter_eq_self.2 fun k hk => ?_
  have := List.mem_range.1 hk
  simp only [Bool.and_eq_true, decide_eq_true_eq]
  omega

theorem pagesOf_page (tp : Nat) : pagesOf (tp * 65536) 65536 = [tp] := by
  have hone : (tp * 65536 + 65536 - 1) / 65536 - tp * 65536 / 65536 + 1 = 1 := by omega
  have hdiv : tp * 65536 / 65536 = tp := Nat.mul_div_cancel _ (by decide)
  rw [pagesOf, if_neg (by decide), hone, hdiv]
  rfl

/-- A whole page of a volatile object is switched to a new frame that holds the new data (R150). -/
theorem State.switchPage_facts {s : State} (hdram : dramOk s.dram = true) {c : Cmd} {o : Obj} (hvol : o.persist = false) {tp f : Nat}
    (hofs : c.tofs = tp * 65536) (hlen : sqeLen c.words = 65536) (hf : f = s.nextFrame) (hne : f ≠ (s.mapE (o.mapBase + tp)).frame) (data : List Nat)
    (bad : List Nat) :
    ((s.switchPage c o tp (fun x => data.getD (x - c.tofs) 0) bad).mapE (o.mapBase + tp)).st = .t1 ∧
      ((s.switchPage c o tp (fun x => data.getD (x - c.tofs) 0) bad).mapE (o.mapBase + tp)).frame = f ∧
      ∀ j, j < 1024 → (s.switchPage c o tp (fun x => data.getD (x - c.tofs) 0) bad).dline (1024 * f + j) =
        ⟨lineOfBytes fun b => data.getD (64 * j + b) 0, .good⟩ := by
  obtain ⟨a, ha⟩ : ∃ a, a = s.takeFrame ⟨c.tobj, tp, 0, c.dom, 1, true, ((s.frame? (s.mapE (o.mapBase + tp)).frame).map (·.chg)).getD 0⟩ := ⟨_, rfl⟩
  have hadram : a.dram = s.dram := by
    rw [ha]
    exact (State.takeFrame_in (ft := State.takeFrame_foot) (In.refl _ s) (Foot.le_refl _)).parts .dram (by decide)
  have hstart : HoldsLines (pageValue data f) [] a := ⟨by rw [hadram]; exact hdram, fun la hla => absurd hla List.not_mem_nil⟩
  obtain ⟨old, hold⟩ : ∃ old, old = (s.mapE (o.mapBase + tp)).frame := ⟨_, rfl⟩
  obtain ⟨b, hb⟩ : ∃ b, b = a.each (List.range 16) fun (s : State) (k : Nat) =>
      if (List.range 16).contains k then s.switchNew c o (o.mapBase + tp) tp f k (fun x => data.getD (x - tp * 65536) 0)
      else s.switchCopy (o.mapBase + tp) tp old f k bad := ⟨_, rfl⟩
  have hlines : HoldsLines (pageValue data f) ((List.range 16).flatMap fun k => (List.range 64).map fun j => 1024 * f + 64 * k + j) b := by
    rw [hb]
    show HoldsLines (pageValue data f) ([] ++ (List.range 16).flatMap fun k => (List.range 64).map fun j => 1024 * f + 64 * k + j) _
    refine HoldsLines.each (List.range 16) hstart fun u las k hk hu => ?_
    rw [if_pos (List.contains_iff_mem.2 hk)]
    exact State.switchNew_holds hvol hu (o.mapBase + tp)
  obtain ⟨d, hd⟩ : ∃ d, d = b.setMap (o.mapBase + tp) { b.mapE (o.mapBase + tp) with st := .t1, frame := f } := ⟨_, rfl⟩
  have hswitch : s.switchPage c o tp (fun x => data.getD (x - c.tofs) 0) bad = d.freeFrame old := by
    unfold State.switchPage
    simp only [hofs, hlen, coveredCps_page, ← hf, ← hold]
    rw [hd, hb, ha, ← hold]
  have hmap : (d.freeFrame old).mapE (o.mapBase + tp) = { b.mapE (o.mapBase + tp) with st := .t1, frame := f } := by
    have hmd : (d.freeFrame old).md = d.md :=
      (State.freeFrame_in (ft := State.freeFrame_foot) (In.refl _ d) (Foot.le_refl _)).parts .md (by decide)
    rw [State.mapE, hmd, ← State.mapE, hd, State.mapE_setMap, if_pos rfl]
  rw [hswitch, hmap]
  refine ⟨rfl, rfl, fun j hj => ?_⟩
  have hframe : (1024 * f + j) / 1024 ≠ old := by
    rw [Nat.mul_add_div (by decide), Nat.div_eq_of_lt hj, Nat.add_zero, hold]
    exact hne
  have hmem : 1024 * f + j ∈ (List.range 16).flatMap fun k => (List.range 64).map fun j => 1024 * f + 64 * k + j :=
    List.mem_flatMap.2 ⟨j / 64, List.mem_range.2 (by omega), List.mem_map.2 ⟨j % 64, List.mem_range.2 (by omega), by omega⟩⟩
  have hvalue : pageValue data f (1024 * f + j) = ⟨lineOfBytes fun b => data.getD (64 * j + b) 0, .good⟩ := by
    rw [pageValue, Nat.add_sub_cancel_left]
  rw [State.freeFrame_dline d hframe, State.dline_of_dram (s := b) (by rw [hd]; rfl), hlines.lines _ hmem, hvalue]

/-! ### The command -/

theorem State.canCharge2_journal {s : State} (h : s.canJournal = true) (d : Nat) : s.canCharge2 d 0 ((s.jNew 1).length + 0) = true := by
  have hc : s.canCharge 0 (s.jNew 1).length = true := h
  unfold State.canCharge2
  split
  · rw [Nat.zero_add]
    exact hc
  · rw [Nat.add_zero, Nat.zero_add, hc]
    simp only [State.canCharge, Bool.or_eq_true, Bool.and_eq_true, decide_eq_true_eq] at hc
    obtain h0 | ⟨⟨-, hlim⟩, -⟩ := hc
    · simp [State.canCharge, h0]
    · simp [State.canCharge, hlim]

/-- The state after the switch is journalled and noted at its command. -/
def State.switched (s : State) (c : Cmd) (o : Obj) (tp : Nat) (data : List Nat) : State :=
  let u := (s.cleanFrame (s.mapE (o.mapBase + tp)).frame sc2).switchPage c o tp (fun x => data.getD (x - c.tofs) 0) []
  (u.journal [.map (o.mapBase + tp) (some (u.mapE (o.mapBase + tp)))]).updCmd c.uid fun c => { c with switched := true }

section
variable {s : State} {c : Cmd} {o : Obj} {tp : Nat} {data : List Nat} (hrun : s.running? c.uid opAtomic = some c) (hown : s.own? c.tobj = some o)
  (hvol : o.persist = false) (hplain : o.mirror = false) (hofs : c.tofs = tp * 65536) (hlen : sqeLen c.words = 65536)
  (hst : (s.mapE (o.mapBase + tp)).st = .t1) (hfree : s.pageHeld c.tobj tp (o.mapBase + tp) = none) (hjournal : s.canJournal = true)
  (hpool : s.rd .FREE_FRAMES ≠ 0) (hclear : s.framesClear [(s.mapE (o.mapBase + tp)).frame] = true)
  (hfills : s.fillsOn (s.mapE (o.mapBase + tp)).frame = false)
include hrun hown hvol hplain hofs hlen hst hfree hjournal hpool hclear hfills

/-- A WRITE_ATOMIC of one whole page of an unmirrored volatile object switches it at once (R150). -/
theorem exec_writeAtomic (hw : ∀ w ∈ (s.switched c o tp data).waits, w.why ≠ .atomic) :
    exec (.writeAtomic c.uid data [] false) s = .next ((s.switched c o tp data).cmdOk c 16 1) := by
  have hpage : s.cmdPages c c.tobj o (tp * 65536 / 65536 * 65536) ([tp].length * 65536) false true = (s, true) := by
    have hdiv : tp * 65536 / 65536 * 65536 = tp * 65536 := by omega
    rw [hdiv, State.cmdPages, List.length_singleton, Nat.one_mul, pagesOf_page, List.foldl_cons, List.foldl_nil]
    simp only [State.cmdPage, hfree, hst, if_true]
    rfl
  have hneeds : s.mirNeedsAll o c.tobj [tp] = 0 := by rw [State.mirNeedsAll, hplain]; rfl
  have hwait : s.atomicWait c o [tp] [(s.mapE (o.mapBase + tp)).frame] = none := by
    have hroom : ¬ s.rd .FREE_FRAMES < 1 := by omega
    unfold State.atomicWait
    simp only [hplain, Bool.false_eq_true, if_false, hvol, hneeds, State.canCharge2_journal hjournal, Bool.not_true, List.length_singleton, hroom,
      hclear, List.any_cons, List.any_nil, hfills, Bool.or_self]
  have hkept : ([tp].flatMap fun tq => (List.range 1024).filterMap fun j =>
      if (coveredCps (tp * 65536) 65536 tq).contains (j / 64) then none else some (1024 * tq + j)) = [] := by
    rw [List.flatMap_cons, List.flatMap_nil, List.append_nil]
    refine List.filterMap_eq_nil_iff.2 fun j hj => ?_
    have hlt := List.mem_range.1 hj
    rw [coveredCps_page, if_pos (List.contains_iff_mem.2 (List.mem_range.2 (by omega)))]
  have hprobe : ∀ u : State, u.probeLines o c.dom [] [] = (u, []) := fun _ => rfl
  have hplainAtomic : ∀ (u : State) (tps old : List Nat), u.mirAtomic c o tps old = u := fun u tps old => by
    simp only [State.mirAtomic, hplain, Bool.false_and, State.when, Bool.false_eq_true, if_false, Bool.not_false, Bool.true_or, if_true]
  have hrerun : (s.switched c o tp data).rerun (fun w => w.why == .atomic && w.obj == c.tobj) = s.switched c o tp data :=
    State.rerun_none fun w hmem => by simp [hw w hmem]
  rw [exec, execWriteAtomic, hrun]
  simp only [hown, hofs, hlen, Bool.false_eq_true, if_false, pagesOf_page, hpage, Bool.not_true, List.map_cons, List.map_nil, hwait, hkept, hprobe, List.filter_nil, State.each, List.foldl_cons, List.foldl_nil, hplainAtomic]
  rw [State.switched, hofs] at hrerun
  rw [hrerun, State.switched, hofs]
  rfl

/-- The command ends with 16 code pages and 1 page, and its page lies in the new frame with the new data (R150, R151). -/
theorem writeAtomic_ends {f : Nat} (hinv : s.Inv) (hf : f = s.nextFrame) (hne : f ≠ (s.mapE (o.mapBase + tp)).frame) (hw : ∀ w ∈ s.waits, w.why ≠ .atomic) :
    ∃ t, exec (.writeAtomic c.uid data [] false) s = .next t ∧ t.ended c 0 16 1 ∧
      (t.mapE (o.mapBase + tp)).st = .t1 ∧ (t.mapE (o.mapBase + tp)).frame = f ∧
      ∀ j, j < 1024 → t.dline (1024 * f + j) = ⟨lineOfBytes fun b => data.getD (64 * j + b) 0, .good⟩ := by
  obtain ⟨-, hc, -, hph, -⟩ := State.running?_facts hrun
  obtain ⟨u, hu⟩ : ∃ u : State, u = s.cleanFrame (s.mapE (o.mapBase + tp)).frame sc2 := ⟨_, rfl⟩
  have hclean : In State.cleanFrame_foot s u := by
    rw [hu]
    exact State.cleanFrame_in (In.refl _ s) (Foot.le_refl _)
  have hmap : u.mapE (o.mapBase + tp) = s.mapE (o.mapBase + tp) := by rw [State.mapE, State.mapE, hclean.parts .md (by decide)]
  have hnext : u.nextFrame = s.nextFrame := by rw [State.nextFrame, State.nextFrame, hclean.parts .tpe (by decide)]
  obtain ⟨hst', hframe, hlines⟩ := State.switchPage_facts (s := u) (f := f) (hclean.dramOk hinv.2.1) hvol hofs hlen (by rw [hnext]; exact hf)
    (by rw [hmap]; exact hne) data []
  obtain ⟨v, hv⟩ : ∃ v : State, v = u.switchPage c o tp (fun x => data.getD (x - c.tofs) 0) [] := ⟨_, rfl⟩
  rw [← hv] at hst' hframe hlines
  have hswitch : In switchFoot s v := by
    rw [hv]
    exact State.switchPage_in (hclean.mono (by decide)) (by decide)
  obtain ⟨w, hwj⟩ : ∃ w : State, w = v.journal [.map (o.mapBase + tp) (some (v.mapE (o.mapBase + tp)))] := ⟨_, rfl⟩
  have hjin : In State.journal_foot v w := hwj ▸ v.journal_frame _
  have hwmap : w.mapE (o.mapBase + tp) = v.mapE (o.mapBase + tp) := by
    rw [State.mapE, hwj, State.journal_md]
    exact congrArg (·.getD zeroPage) (mget_mput _ _ _)
  have hwdram : w.dram = v.dram := hjin.parts .dram (by decide)
  have hwcmd : w.cmd = s.cmd := (hjin.parts .cmd (by decide)).trans (hswitch.parts .cmd (by decide))
  have hwwaits : w.waits = s.waits := (hjin.parts .waits (by decide)).trans (hswitch.parts .waits (by decide))
  have hswitched : s.switched c o tp data = w.updCmd c.uid fun c => { c with switched := true } := by
    rw [State.switched, hwj, hv, hu]
  have hwaits : ∀ x ∈ (s.switched c o tp data).waits, x.why ≠ .atomic := fun x hx => by
    rw [hswitched] at hx
    exact hw x (hwwaits ▸ hx)
  have hmem : ({ c with switched := true } : Cmd) ∈ (w.updCmd c.uid fun c => { c with switched := true }).cmd.cmds :=
    List.mem_map.2 ⟨c, hwcmd ▸ hc, if_pos rfl⟩
  have honly := State.cmdOk_only (w.updCmd c.uid fun c => { c with switched := true }) c 16 1
  have hexec := exec_writeAtomic hrun hown hvol hplain hofs hlen hst hfree hjournal hpool hclear hfills hwaits
  rw [hswitched] at hexec
  refine ⟨_, hexec, State.cmdOk_ended hmem hph rfl rfl 16 1 rfl, ?_, ?_, fun j hj => ?_⟩
  · rw [State.mapE, honly.md_eq (by simp)]
    exact (congrArg MapE.st hwmap).trans hst'
  · rw [State.mapE, honly.md_eq (by simp)]
    exact (congrArg MapE.frame hwmap).trans hframe
  · rw [State.dline_of_dram (honly.dram_eq (by simp))]
    exact (State.dline_of_dram (s := v) (t := w) hwdram _).trans (hlines j hj)

end

end Sys2Proof.Machine
end

section
/-! UNSEAL (06_command_set.md R162), and O23. -/

namespace Sys2Proof.Machine

/-! ### Bytes of a line -/

/-- The number that the first n bytes make. -/
def byteSum (b : Nat → Nat) (n : Nat) : Nat := (List.range n).foldl (fun v k => v + b k % 256 * 2 ^ (8 * k)) 0

theorem byteSum_succ (b : Nat → Nat) (n : Nat) : byteSum b (n + 1) = byteSum b n + b n % 256 * 2 ^ (8 * n) := by
  rw [byteSum, List.range_succ, List.foldl_append]
  rfl

theorem byteSum_lt (b : Nat → Nat) (n : Nat) : byteSum b n < 2 ^ (8 * n) := by
  induction n with
  | zero => exact Nat.one_pos
  | succ n ih =>
    have hb : b n % 256 < 256 := Nat.mod_lt _ (by decide)
    have hpow : 2 ^ (8 * (n + 1)) = 256 * 2 ^ (8 * n) := by rw [Nat.mul_succ, Nat.pow_add, Nat.mul_comm]
    have hmul : b n % 256 * 2 ^ (8 * n) ≤ 255 * 2 ^ (8 * n) := Nat.mul_le_mul_right _ (by omega)
    rw [byteSum_succ, hpow]
    omega

theorem byteSum_byte (b : Nat → Nat) {n k : Nat} (hk : k < n) : byteSum b n / 2 ^ (8 * k) % 256 = b k % 256 := by
  induction n with
  | zero => cases hk
  | succ n ih =>
    have hpos : 0 < 2 ^ (8 * k) := Nat.two_pow_pos _
    rw [byteSum_succ]
    obtain hlt | heq : k < n ∨ k = n := by omega
    · have hsplit : 2 ^ (8 * n) = 2 ^ (8 * (n - k - 1)) * 256 * 2 ^ (8 * k) := by
        rw [show (256 : Nat) = 2 ^ 8 from rfl, ← Nat.pow_add, ← Nat.pow_add]
        congr 1
        omega
      have hmul : b n % 256 * 2 ^ (8 * n) = (b n % 256 * 2 ^ (8 * (n - k - 1)) * 256) * 2 ^ (8 * k) := by
        rw [hsplit]; ring
      rw [hmul, Nat.add_mul_div_right _ _ hpos, Nat.add_mul_mod_self_right]
      exact ih hlt
    · rw [heq, Nat.add_mul_div_right _ _ (Nat.two_pow_pos _), Nat.div_eq_of_lt (byteSum_lt b n), Nat.zero_add, Nat.mod_mod]

theorem lineByte_lineOfBytes (b : Nat → Nat) {k : Nat} (hk : k < 64) : lineByte (lineOfBytes b) k = b k % 256 := by
  have hlt : byteSum b 64 < 2 ^ 512 := byteSum_lt b 64
  have hnat : (lineOfBytes b).toNat = byteSum b 64 := by
    rw [lineOfBytes, BitVec.toNat_ofNat]
    exact Nat.mod_eq_of_lt hlt
  rw [lineByte, bits, hnat, Nat.shiftRight_eq_div_pow]
  exact byteSum_byte b hk

/-- A byte of a line, in place. -/
theorem byteAt_congr {d1 d2 : Line} {k : Nat} (h : lineByte d1 k = lineByte d2 k) : d1 &&& ((255#512) <<< (8 * k)) = d2 &&& ((255#512) <<< (8 * k)) := by
  have hbit : ∀ (d : Line) (j : Nat), j < 8 → d.getLsbD (8 * k + j) = (lineByte d k).testBit j := fun d j hj => by
    rw [lineByte, bits, Nat.testBit_mod_two_pow, Nat.testBit_shiftRight]
    simp [hj, BitVec.getLsbD]
  have h255 : ∀ j, (255#512).getLsbD j = decide (j < 8) := fun j => by
    have : (255#512) = BitVec.ofNat 512 (2 ^ 8 - 1) := rfl
    rw [this, BitVec.getLsbD_ofNat, Nat.testBit_two_pow_sub_one]
    by_cases hj : j < 8
    · simp [hj]; omega
    · simp [hj]
  refine BitVec.eq_of_getLsbD_eq fun i hi => ?_
  rw [BitVec.getLsbD_and, BitVec.getLsbD_and, BitVec.getLsbD_shiftLeft, h255]
  by_cases hin : 8 * k ≤ i ∧ i < 8 * k + 8
  · obtain ⟨j, rfl⟩ : ∃ j, i = 8 * k + j := ⟨i - 8 * k, by omega⟩
    rw [hbit d1 j (by omega), hbit d2 j (by omega), h]
  · have hout : (decide (i < 512) && !decide (i < 8 * k) && decide (i - 8 * k < 8)) = false := by
      by_cases hlow : i < 8 * k
      · simp [hlow]
      · have : ¬ i - 8 * k < 8 := by omega
        simp [this]
    rw [hout, Bool.and_false, Bool.and_false]

/-- A merge sees the new line in the bytes of its mask alone. -/
theorem mergeLine_congr {old d1 d2 : Line} {m : Mask} (h : ∀ k, k < 64 → m.getLsbD k = true → lineByte d1 k = lineByte d2 k) :
    mergeLine old d1 m = mergeLine old d2 m := by
  unfold mergeLine
  refine List.foldl_ext _ _ _ fun l k hk => ?_
  split
  · rename_i hm
    rw [byteAt_congr (h k (List.mem_range.1 hk) hm)]
  · rfl

/-- Bits of a sum of rising powers of two. -/
theorem testBit_powSum {j : Nat} (l : List Nat) : ∀ acc : Nat, (∀ k ∈ l, acc < 2 ^ k) → l.Pairwise (· < ·) →
    (l.foldl (fun m k => m + 2 ^ k) acc).testBit j = true → acc.testBit j = true ∨ j ∈ l := by
  induction l with
  | nil => exact fun acc _ _ h => .inl h
  | cons k r ih =>
    intro acc hacc hsorted h
    obtain ⟨hk, hr⟩ := List.pairwise_cons.1 hsorted
    have hlow := hacc k List.mem_cons_self
    have hnext : acc + 2 ^ k < 2 ^ (k + 1) := by rw [Nat.pow_succ]; omega
    have hbelow : ∀ i ∈ r, acc + 2 ^ k < 2 ^ i := fun i hi => Nat.lt_of_lt_of_le hnext (Nat.pow_le_pow_right (by decide) (hk i hi))
    obtain hbit | hmem := ih (acc + 2 ^ k) hbelow hr h
    · rw [Nat.add_comm] at hbit hnext
      obtain hlt | heq | hgt := Nat.lt_trichotomy j k
      · rw [Nat.testBit_two_pow_add_gt hlt] at hbit
        exact .inl hbit
      · exact .inr (heq ▸ List.mem_cons_self)
      · have hfalse : (2 ^ k + acc).testBit j = false :=
          Nat.testBit_lt_two_pow (Nat.lt_of_lt_of_le hnext (Nat.pow_le_pow_right (by decide) hgt))
        rw [hfalse] at hbit
        cases hbit
    · exact .inr (List.mem_cons_of_mem _ hmem)

/-- The bytes that a part's mask enables are its own. -/
theorem partMask_mem {ofs len ln k : Nat} (h : (partMask (linePart ofs len ln)).getLsbD k = true) : k ∈ linePart ofs len ln := by
  rw [partMask, BitVec.getLsbD_ofNat, Bool.and_eq_true] at h
  have hsorted : (linePart ofs len ln).Pairwise (· < ·) := List.Pairwise.filter _ List.pairwise_lt_range
  obtain hzero | hmem := testBit_powSum (linePart ofs len ln) 0 (fun k _ => Nat.two_pow_pos k) hsorted h.2
  · rw [Nat.zero_testBit] at hzero
    cases hzero
  · exact hmem

/-! ### A command that ends with an error -/

theorem State.cmdErr_only (s : State) (c : Cmd) (status detail r0 n : Nat) : Only [.waits, .cmd] (cmdFlds c.dom) s (s.cmdErr c status detail r0 n) := by
  have hgo : Only [.waits, .cmd] (cmdFlds c.dom) s (s.entGo (.cmd c.uid) c.dom) := (s.entGo_only _ _).mono (by simp) (by simp [cmdFlds])
  exact (hgo.step (State.finishCmd_only _ _ _) (by simp) (by simp)).step (State.cmdRegs_only _) (by simp) (by simp [cmdFlds])

theorem State.cmdErr_ended {s : State} {c : Cmd} (h : c ∈ s.cmd.cmds) (hph : c.ph = .running) (status detail r0 : Nat) :
    (s.cmdErr c status detail r0 0).ended c status r0 detail := by
  have hmem : c ∈ (s.entGo (.cmd c.uid) c.dom).cmd.cmds := by rw [(s.entGo_only _ _).cmd_eq (by simp)]; exact h
  obtain ⟨hdone, hin⟩ := State.finishCmd_mem hmem (by rw [hph]; decide) fun c =>
    { c with status := status, detail := detail, r0 := r0, r1 := detail + 0 % 2 ^ 32 * 2 ^ 16 }
  have hcmd : (s.cmdErr c status detail r0 0).cmd = ((s.entGo (.cmd c.uid) c.dom).finishCmd c.uid fun c =>
    { c with status := status, detail := detail, r0 := r0, r1 := detail + 0 % 2 ^ 32 * 2 ^ 16 }).cmd := (State.cmdRegs_only _).cmd_eq (by simp)
  rw [State.ended, hcmd]
  exact ⟨hdone, _, hin, rfl, rfl, rfl, rfl, rfl, by rw [Nat.zero_mod, Nat.zero_mul, Nat.add_zero]⟩

/-- An UNSEAL whose tag does not match writes nothing (R162). -/
theorem unseal_refused {s : State} {c : Cmd} {o : Obj} {data : List Nat} (hrun : s.running? c.uid opUnseal = some c) (hown : s.own? c.tobj = some o)
    (hescrow : c.escrow = []) (hpool : (pagesOf c.tofs (sqeLen c.words)).length ≤ s.rd .FREE_FRAMES)
    (hopen : gcmOpen (toBytes 32 (c.key ^^^ c.mask)) (sqeIv c.words) (sqeAad c.words) (data.take (sqeLen c.words))
      ((data.drop (sqeLen c.words)).take 16) = none) :
    ∃ t, exec (.unseal c.uid data [] false) s = .next t ∧ t.ended c 0x31 0 0x38 ∧ t.dram = s.dram ∧ t.fch = s.fch := by
  obtain ⟨-, hc, -, hph, -⟩ := State.running?_facts hrun
  obtain ⟨u, hu⟩ : ∃ u : State, u = s.count .GCM_FAIL_CNT 0 .CIP_FLAGS_CNT_OVF 0 0 := ⟨_, rfl⟩
  have hcount : Only [.dbk] ((.GCM_FAIL_CNT, 0) :: (.CIP_FLAGS_CNT_OVF, 0) :: dbkRegs) s u := hu ▸ State.count_only _ _ _ _ _ _
  have hexec : exec (.unseal c.uid data [] false) s = .next (u.cmdErr c 0x31 0x38 0 0) := by
    rw [exec, execUnseal, hrun]
    simp only [hown, hescrow, List.isEmpty_nil, Bool.not_true, Bool.false_eq_true, if_false, if_neg (Nat.not_lt.2 hpool), hopen, hu]
  have honly := u.cmdErr_only c 0x31 0x38 0 0
  exact ⟨_, hexec, State.cmdErr_ended (by rw [hcount.cmd_eq (by simp)]; exact hc) hph 0x31 0x38 0,
    (honly.dram_eq (by simp)).trans (hcount.dram_eq (by simp)), (honly.fch_eq (by simp)).trans (hcount.fch_eq (by simp))⟩

/-! ### The escrow frame of an UNSEAL -/

/-- What the escrow of an UNSEAL touches. -/
def escrowFoot : Foot := State.takeFrame_foot ||| State.setDline_foot ||| State.updCmd_foot

/-- The opened text of one line, in the escrow frame. -/
def escrowLine (c : Cmd) (text : List Nat) : DLine :=
  ⟨lineOfBytes fun k => if c.tofs ≤ 64 * (c.tofs / 64) + k then text.getD (64 * (c.tofs / 64) + k - c.tofs) 0 else 0, .good⟩

/-- The escrow of bytes of one line. -/
theorem State.unsealEscrow_one {s : State} {c : Cmd} {len : Nat} (hpos : 0 < len) (hfit : c.tofs % 64 + len ≤ 64) (text : List Nat) :
    s.unsealEscrow c len text = ((s.takeFrame ⟨c.tobj, c.tofs / 65536, 0, c.dom, 2, false, 0⟩).setDline (1024 * s.nextFrame + c.tofs / 64 % 1024)
      (escrowLine c text)).updCmd c.uid fun x => { x with escrow := x.escrow ++ [(c.tofs / 65536, s.nextFrame)] } := by
  unfold State.unsealEscrow
  simp only [pagesOf_one hpos hfit, linesOf_one hpos hfit, State.each, List.foldl_cons, List.foldl_nil, List.filter_cons, List.filter_nil, line_page,
    beq_self_eq_true, if_true, escrowLine]

theorem State.running?_updCmd {s : State} {uid op : Nat} {c : Cmd} (h : s.running? uid op = some c) {f : Cmd → Cmd}
    (hf : ∀ x, (f x).uid = x.uid ∧ (f x).ph = x.ph ∧ (f x).words = x.words) : (s.updCmd uid f).running? uid op = some (f c) := by
  obtain ⟨hrun, -, huid, -, -⟩ := State.running?_facts h
  have hfind : (s.cmd.cmds.find? fun c => c.uid == uid && c.ph == .running && sqeOp c.words == op) = some c := by
    rw [← h, State.running?, if_neg (by rw [hrun]; decide)]
  have hrun' : (s.updCmd uid f).draining = false := hrun
  have hcomp : ((fun c : Cmd => c.uid == uid && c.ph == .running && sqeOp c.words == op) ∘ fun c => if c.uid = uid then f c else c) =
      fun c => c.uid == uid && c.ph == .running && sqeOp c.words == op := by
    funext x
    obtain ⟨hu, hp, hw⟩ := hf x
    simp only [Function.comp_apply]
    split
    · rw [hu, hp, hw]
    · rfl
  rw [State.running?, if_neg (by rw [hrun']; decide)]
  show (s.cmd.cmds.map _).find? _ = _
  rw [List.find?_map, hcomp, hfind, Option.map_some, if_pos huid]

theorem State.running?_congr {s t : State} (hcmd : t.cmd = s.cmd) (hdrain : t.draining = s.draining) (uid op : Nat) :
    t.running? uid op = s.running? uid op := by
  rw [State.running?, State.running?, hcmd, hdrain]

/-- The opened bytes, as the escrow frame holds them. -/
theorem State.escrowByte_one {s : State} {c : Cmd} {f : Nat} {text : List Nat} (hescrow : c.escrow = [(c.tofs / 65536, f)])
    (hline : s.dline (1024 * f + c.tofs / 64 % 1024) = escrowLine c text) {k : Nat} (hk : k < 64) (hfrom : c.tofs ≤ 64 * (c.tofs / 64) + k) :
    s.escrowByte c (64 * (c.tofs / 64) + k) = text.getD (64 * (c.tofs / 64) + k - c.tofs) 0 % 256 := by
  have hpage : (64 * (c.tofs / 64) + k) / 65536 = c.tofs / 65536 := by omega
  have hdiv : (64 * (c.tofs / 64) + k) / 64 = c.tofs / 64 := by omega
  have hmod : (64 * (c.tofs / 64) + k) % 64 = k := by omega
  have hfind : (c.escrow.find? fun e => e.1 == (64 * (c.tofs / 64) + k) / 65536) = some (c.tofs / 65536, f) := by
    rw [hescrow, hpage]
    exact List.find?_cons_of_pos (by simp)
  rw [State.escrowByte, hfind]
  dsimp only
  rw [hdiv, hmod, hline]
  exact (lineByte_lineOfBytes _ hk).trans (by rw [if_pos hfrom])

/-- A store of the escrow's bytes is one of the text. -/
theorem CLine.store_escrow {s : State} {c : Cmd} {f len : Nat} {text : List Nat} (hescrow : c.escrow = [(c.tofs / 65536, f)])
    (hline : s.dline (1024 * f + c.tofs / 64 % 1024) = escrowLine c text) (cl : CLine) :
    cl.store (oneWLine c.tofs len (s.escrowByte c)).data (oneWLine c.tofs len (s.escrowByte c)).mask false =
      cl.store (lineOfBytes fun b => text.getD (64 * (c.tofs / 64) + b - c.tofs) 0) (partMask (linePart c.tofs len (c.tofs / 64))) false := by
  have hmerge : mergeLine cl.data (oneWLine c.tofs len (s.escrowByte c)).data (partMask (linePart c.tofs len (c.tofs / 64))) =
      mergeLine cl.data (lineOfBytes fun b => text.getD (64 * (c.tofs / 64) + b - c.tofs) 0) (partMask (linePart c.tofs len (c.tofs / 64))) := by
    refine mergeLine_congr fun k hk hm => ?_
    have hpart := (List.mem_filter.1 (partMask_mem hm)).2
    simp only [Bool.and_eq_true, decide_eq_true_eq] at hpart
    refine (lineByte_lineOfBytes _ hk).trans (Eq.trans ?_ (lineByte_lineOfBytes _ hk).symm)
    rw [State.escrowByte_one hescrow hline hk hpart.1, Nat.mod_mod]
  exact congrArg (fun d => ({ cl with data := d, dirty := true, poison := false || (cl.poison && partMask (linePart c.tofs len (c.tofs / 64)) != fullMask) } : CLine))
    hmerge

/-! ### The escrow released -/

/-- The release of escrow frames leaves the front cache, and a command that ended. -/
theorem State.unsealEnd_facts {s : State} {c : Cmd} {status r0 r1 : Nat} (h : s.ended c status r0 r1) (uid : Nat) :
    (s.unsealEnd uid).ended c status r0 r1 ∧ (s.unsealEnd uid).fch = s.fch := by
  unfold State.unsealEnd
  split
  · rename_i d _ _
    refine ⟨?_, (State.dropEscrow_in (ft := State.dropEscrow_foot) (In.refl _ s) (Foot.le_refl _)).parts .fch (by decide)⟩
    unfold State.dropEscrow
    have hcmd : ∀ (l : List (Nat × Nat)), (s.each l fun s e =>
        (s.each (s.stl.chq.filter fun k => k.1 == e.2) fun s k => s.releaseKey (((s.frame? e.2).map fun f => f.chgDom k.2).getD d.dom) k).freeFrame e.2).cmd =
          s.cmd := fun l => State.each_same (g := State.cmd) l s fun u e => by
      have hfree := State.freeFrame_in (f := e.2) (State.each_in (k := State.releaseKey_foot ||| State.freeFrame_foot) (In.refl _ u)
        (l := u.stl.chq.filter fun k => k.1 == e.2) (f := fun s k => s.releaseKey (((s.frame? e.2).map fun f => f.chgDom k.2).getD d.dom) k)
        fun v k hv => State.releaseKey_in hv (by decide)) (by decide)
      exact hfree.parts .cmd (by decide)
    refine State.ended_updCmd ?_ _ fun x => ⟨rfl, rfl, rfl, rfl, rfl, rfl⟩
    rw [State.ended, hcmd]
    exact h
  · exact ⟨h, rfl⟩

/-! ### The obligation -/

/-- An UNSEAL whose tag matches stores the opened text and ends with its length (R162). -/
theorem unseal_ends {s : State} {c : Cmd} {o : Obj} {la : Nat} {k : Key} {cl : CLine} {data text : List Nat} (hrun : s.running? c.uid opUnseal = some c)
    (hfind : s.cmd.cmds.find? (fun x => x.uid == c.uid) = some c) (hpart : c.part = 0) (hfails : c.fails = 0) (hescrow : c.escrow = [])
    (hpool : s.rd .FREE_FRAMES ≠ 0) (h : OneLine s c.tobj c.tofs (sqeLen c.words) o la k cl) (hs : Storable s c.dom c.tobj c.tofs la o cl) (hinv : s.Inv)
    (hopen : gcmOpen (toBytes 32 (c.key ^^^ c.mask)) (sqeIv c.words) (sqeAad c.words) (data.take (sqeLen c.words))
      ((data.drop (sqeLen c.words)).take 16) = some text) :
    ∃ t, exec (.unseal c.uid data [] false) s = .next t ∧ t.ended c 0 (sqeLen c.words) 0 ∧
      mget t.fch.lines k = some (cl.store (lineOfBytes fun b => text.getD (64 * (c.tofs / 64) + b - c.tofs) 0)
        (partMask (linePart c.tofs (sqeLen c.words) (c.tofs / 64))) false) ∧
      (∀ j, j ≠ k → mget t.fch.lines j = mget s.fch.lines j) := by
  obtain ⟨-, -, -, hph, -⟩ := State.running?_facts hrun
  obtain ⟨a, ha⟩ : ∃ a : State, a = s.takeFrame ⟨c.tobj, c.tofs / 65536, 0, c.dom, 2, false, 0⟩ := ⟨_, rfl⟩
  have hain : In State.takeFrame_foot s a := by
    rw [ha]
    exact State.takeFrame_in (In.refl _ s) (Foot.le_refl _)
  obtain ⟨-, htpe, -⟩ := State.takeFrame_facts hinv.1 ⟨c.tobj, c.tofs / 65536, 0, c.dom, 2, false, 0⟩
  rw [← ha] at htpe
  obtain ⟨d, hd⟩ : ∃ d : Cmd, d = { c with escrow := [(c.tofs / 65536, s.nextFrame)] } := ⟨_, rfl⟩
  obtain ⟨b, hb⟩ : ∃ b : State, b = a.setDline (1024 * s.nextFrame + c.tofs / 64 % 1024) (escrowLine c text) := ⟨_, rfl⟩
  obtain ⟨e, he⟩ : ∃ e : State, e = b.updCmd c.uid fun x => { x with escrow := x.escrow ++ [(c.tofs / 65536, s.nextFrame)] } := ⟨_, rfl⟩
  have hset : In State.setDline_foot a b := by
    rw [hb]
    exact State.setDline_in (In.refl _ a) (Foot.le_refl _)
  have hbin : In (State.takeFrame_foot ||| State.setDline_foot) s b := (hain.mono (by decide)).trans (hset.mono (by decide))
  have hbtpe : b.tpe = { s.tpe with frames := mput s.tpe.frames (s.nextFrame, 0) ⟨c.tobj, c.tofs / 65536, 0, c.dom, 2, false, 0⟩ } :=
    (hset.parts .tpe (by decide)).trans htpe
  have hbcmd : b.cmd = s.cmd := hbin.parts .cmd (by decide)
  have hbdrain : b.draining = s.draining := State.fl_eq (hbin.regs .DRAINING 0 (by decide))
  have hesc : s.unsealEscrow c (sqeLen c.words) text = e := by rw [State.unsealEscrow_one h.pos h.fits, he, hb, ha]
  have hd' : ({ c with escrow := c.escrow ++ [(c.tofs / 65536, s.nextFrame)] } : Cmd) = d := by rw [hd, hescrow]; rfl
  have herun : e.running? c.uid opUnseal = some d := by
    rw [he, ← hd']
    exact State.running?_updCmd ((State.running?_congr hbcmd hbdrain _ _).trans hrun) fun x => ⟨rfl, rfl, rfl⟩
  have hefind : e.cmd.cmds.find? (fun x => x.uid == d.uid) = some d := by
    have huid : d.uid = c.uid := by rw [hd]
    rw [huid, he, ← hd']
    exact State.updCmd_find (by rw [hbcmd]; exact hfind) fun _ => rfl
  have hefch : e.fch = s.fch := by
    rw [he]
    exact hbin.parts .fch (by decide)
  have hline : e.dline (1024 * s.nextFrame + d.tofs / 64 % 1024) = escrowLine d text := by
    have hok : dramOk a.dram = true := hain.dramOk hinv.2.1
    have hedram : e.dram = b.dram := by rw [he]; rfl
    rw [State.dline_of_dram hedram, hb, hd]
    exact State.dline_setDline _ _ (dramOk_iff.1 hok).1
  have hle : OneLine e d.tobj d.tofs (sqeLen c.words) o la k cl := by
    rw [hd]
    have htracker : b.tpe.moves = s.tpe.moves ∧ b.tpe.unloaded = s.tpe.unloaded := by rw [hbtpe]; exact ⟨rfl, rfl⟩
    exact h.congr_tracker (by rw [he]; exact hbin.parts .md (by decide)) (by rw [he]; exact hbin.parts .mir (by decide))
      (by rw [he]; exact htracker.1) (by rw [he]; exact htracker.2) hefch
  have hse : Storable e d.dom d.tobj d.tofs la o cl := by
    rw [hd]
    have heregs : e.regs = b.regs := by rw [he]; rfl
    have hclear : ∀ f ∈ ([.DRAINING, .FLOAT_PAGES, .FLOAT_LIMIT, .CHARGE, .SHARE] : List Fld),
        f.foot.le (State.takeFrame_foot ||| State.setDline_foot) = false := by decide
    refine hs.congr hefch fun r hr => (State.rdi_congr heregs _ _).trans (hbin.regs _ _ (hclear _ ?_))
    exact List.mem_map_of_mem (f := Prod.fst) hr
  obtain ⟨t, hstore, hend, hmerged, hothers, -⟩ := hle.stored hse hefind (by rw [hd]; exact hph) (by rw [hd]; exact hfails) (e.escrowByte d)
  have hwrite := hle.cmdWrite (byte := e.escrowByte d) (by rw [hd]; exact hpart) hstore
  obtain ⟨v, hv⟩ : ∃ v : State, v = (t.updCmd d.uid fun c => { c with part := c.part + 1 }).cmdEnd d.uid none (sqeLen c.words) := ⟨_, rfl⟩
  rw [← hv] at hend hmerged hothers hwrite
  have hexec : exec (.unseal c.uid data [] false) s = .next (v.unsealEnd c.uid) := by
    have hroom : ¬ s.rd .FREE_FRAMES < [c.tofs / 65536].length := by
      rw [List.length_singleton]
      omega
    rw [exec, execUnseal, hrun]
    simp only [h.own, hescrow, List.isEmpty_nil, Bool.not_true, Bool.false_eq_true, if_false, pagesOf_one h.pos h.fits, if_neg hroom, hopen, hesc, herun,
      hwrite]
  obtain ⟨hended, hfch⟩ := State.unsealEnd_facts hend c.uid
  have hendc : (v.unsealEnd c.uid).ended c 0 (sqeLen c.words) 0 := by
    obtain ⟨hdone, x, hx, huid, hwords, hrest⟩ := hended
    rw [hd] at hdone huid hwords
    exact ⟨hdone, x, hx, huid, hwords, hrest⟩
  refine ⟨_, hexec, hendc, ?_, fun j hj => ?_⟩
  · rw [hfch, hmerged, CLine.store_escrow (f := s.nextFrame) (text := text) (by rw [hd]) hline cl, hd]
  · rw [hfch, hothers j hj, hefch]

/-- Settles O23: a stream is entered or taken from its queued moves one by one, a fence without a twin is answered at once, and the two commands that
write go through the switch of a page and the store of a line. -/
theorem streamAndSettleCommands : Obligations.StreamAndSettleCommands := by
  unfold Obligations.StreamAndSettleCommands
  refine ⟨?post, ?cancel, ?settle, ?atomic, ?refused, ?opened⟩
  case post =>
    intro s c list es hrun haccepted hnone hes hlist
    obtain ⟨-, hc, -, hph, -⟩ := State.running?_facts hrun
    refine ⟨_, exec_streamPost hrun haccepted hnone hes hlist, rfl, rfl, { c with accepted := true }, ?_, rfl, rfl, hph⟩
    exact List.mem_map.2 ⟨c, hc, if_pos rfl⟩
  case cancel =>
    intro s c x n hrun hx happart hn
    exact streamCancel_ends hrun hx happart hn
  case settle =>
    intro s c hrun haccepted hafter hst hopn
    exact settle_ends hrun haccepted hafter hst hopn
  case atomic =>
    intro s c o tp f data hrun hown hvol hplain hofs hlen hst hfree _ hjournal hpool hclear hfills hf hne hw hinv
    exact writeAtomic_ends hrun hown hvol hplain hofs hlen hst hfree hjournal hpool hclear hfills hinv hf hne hw
  case refused =>
    intro s c o data hrun hown hescrow hpool hopen
    exact unseal_refused hrun hown hescrow hpool hopen
  case opened =>
    intro s c o la k cl data text hrun hfind hpart hfails hescrow hpool h hs hinv hopen
    exact unseal_ends hrun hfind hpart hfails hescrow hpool h hs hinv hopen

end Sys2Proof.Machine
end

section
/-! The class budgets of the DRAM controller, which only the tick's start sets (R253): stores, fills and host requests. A
layer for O57. -/

namespace Sys2Proof.Machine

/-- The class budgets of the DRAM controller are as they were. -/
def SameBud (s t : State) : Prop := t.drc.bud = s.drc.bud

/-- Every field, and every part but the DRAM controller. -/
def offDrc : Foot := (2 ^ 28 - 1 ||| Foot.allFlds) ^^^ Part.drc.foot

theorem SameBud.refl (s : State) : SameBud s s := rfl

theorem SameBud.eq {s t : State} (h : SameBud s t) : t.drc.bud = s.drc.bud := h

theorem SameBud.trans {s t u : State} (h : SameBud s t) (g : SameBud t u) : SameBud s u := Eq.trans g h

theorem SameBud.off {s t u : State} (h : SameBud s t) (g : In offDrc t u) : SameBud s u := by
  have hdrc : u.drc = t.drc := g.parts .drc (by decide)
  rw [SameBud, hdrc]
  exact h

theorem SameBud.ite {b : Prop} [Decidable b] {s t u : State} (h : b → SameBud s t) (g : ¬b → SameBud s u) :
    SameBud s (if b then t else u) := by
  split
  · exact h ‹_›
  · exact g ‹_›

theorem SameBud.when {s t : State} {b : Bool} {f : State → State} (h : SameBud s t) (hf : SameBud s (f t)) : SameBud s (t.when b f) :=
  SameBud.ite (fun _ => hf) fun _ => h

theorem SameBud.each {α : Type} {s t : State} {f : State → α → State} (h : SameBud s t) (l : List α)
    (hf : ∀ u x, SameBud s u → SameBud s (f u x)) : SameBud s (t.each l f) :=
  State.each_inv (P := SameBud s) l h fun u x _ hu => hf u x hu

section
variable {s0 s : State}

/-! ### Lines that are stored -/

theorem SameBud.dreq (h : SameBud s0 s) (la n : Nat) (wr : Bool) (tag : DTag) (cls : Nat) : SameBud s0 (s.dreq la n wr tag cls) := h

theorem SameBud.journal (h : SameBud s0 s) (ops : List JOp) : SameBud s0 (s.journal ops) :=
  SameBud.dreq (h.off (State.chargeJPage_in (In.refl _ _) rfl)) _ _ _ _ _

theorem SameBud.writeDram (h : SameBud s0 s) (la : Nat) (d : DLine) (tag : DTag) (cls : Nat) : SameBud s0 (s.writeDram la d tag cls) :=
  SameBud.dreq (h.off (State.setDline_in (In.refl _ _) rfl)) _ _ _ _ _

theorem SameBud.writeBack (h : SameBud s0 s) (c : CLine) (cls : Nat) : SameBud s0 (s.writeBack c cls) :=
  SameBud.ite (fun _ => h.writeDram _ _ _ _) fun _ => h

theorem SameBud.evictTo (h : SameBud s0 s) (sl : Nat) (c : CLine) (cls : Nat) : SameBud s0 (s.evictTo sl c cls) := by
  refine SameBud.ite (fun _ => h) fun _ => ?_
  split
  · refine SameBud.off ?_ (State.mrPeak_in (In.refl _ _) rfl)
    exact h
  · exact h.writeBack c cls

theorem SameBud.putWay (h : SameBud s0 s) (k : Key) (c : CLine) : SameBud s0 (s.putWay k c) := h.off (State.putWay_in (In.refl _ _) rfl)

theorem SameBud.dropWay (h : SameBud s0 s) (k : Key) : SameBud s0 (s.dropWay k) := h.off (State.dropWay_in (In.refl _ _) rfl)

theorem SameBud.touch (h : SameBud s0 s) (f : Nat) : SameBud s0 (s.touch f) := h.off (State.touch_in (In.refl _ _) rfl)

theorem SameBud.install (h : SameBud s0 s) (c : CLine) (cls : Nat) : SameBud s0 (s.install c cls) := by
  unfold State.install
  extract_lets sl set ws w s1
  have h1 : SameBud s0 s1 := h.off (State.freeNext_in (In.refl _ _) rfl)
  split
  · exact h.putWay _ _
  · refine SameBud.ite (fun _ => h.writeBack c cls) fun _ => ?_
    split
    · exact ((h1.dropWay _).evictTo _ _ _).putWay _ _
    · exact h1.putWay _ _

theorem SameBud.flushEvict (h : SameBud s0 s) (la : Nat) : SameBud s0 (s.flushEvict la) := by
  unfold State.flushEvict
  split
  · rename_i m _
    exact SameBud.ite (fun _ => h.writeDram la m.out .fch m.cls) fun _ => h.writeDram la m.out .fch m.cls
  · exact h

theorem SameBud.fillNow (h : SameBud s0 s) (la obj tp cls : Nat) : SameBud s0 (s.fillNow la obj tp cls) := by
  unfold State.fillNow
  split
  · exact h
  · exact ((h.flushEvict la).dreq _ _ _ _ _).install _ _

theorem SameBud.cleanFrame (h : SameBud s0 s) (f cls : Nat) : SameBud s0 (s.cleanFrame f cls) :=
  SameBud.each (SameBud.each h _ fun _ _ hu => (hu.writeBack _ _).dropWay _) _ fun _ la hu => hu.flushEvict la

/-! ### Records of the mirror -/

theorem SameBud.ssnReserve (h : SameBud s0 s) : SameBud s0 s.ssnReserve := SameBud.ite (fun _ => h.journal _) fun _ => h

theorem SameBud.nextSsn (h : SameBud s0 s) : SameBud s0 s.nextSsn := (h.off (State.wr_in (In.refl _ _) rfl)).ssnReserve

theorem SameBud.soloMark (h : SameBud s0 s) (obj tp : Nat) : SameBud s0 (s.soloMark obj tp) := h.off (State.soloMark_in (In.refl _ _) rfl)

theorem SameBud.addLine (h : SameBud s0 s) (obj ofsLine : Nat) (data : Line) (poison : Bool) (dom : Nat) (resync : Bool) :
    SameBud s0 (s.addLine obj ofsLine data poison dom resync) := by
  unfold State.addLine
  extract_lets tp cpage j lane fits s1 r src s2
  have h1 : SameBud s0 s1 := SameBud.nextSsn (h.off (State.closeLane_in (In.refl _ _) rfl))
  have h2 : SameBud s0 s2 := SameBud.ite (fun _ => h) fun _ => h1
  split
  · exact h2
  · exact h2

theorem SameBud.addRec (h : SameBud s0 s) (lane : Nat) (ty : RTy) (obj cpage mask poison : Nat) (lines : List (Nat × Line)) (ops : List JOp)
    (dom : Nat) (resync : Bool) : SameBud s0 (s.addRec lane ty obj cpage mask poison lines ops dom resync) :=
  (SameBud.nextSsn (h.off (State.closeLane_in (In.refl _ _) rfl))).off (State.queueRec_in (In.refl _ _) rfl)

theorem SameBud.mirMeta (h : SameBud s0 s) (obj : Nat) (ops : List JOp) (dom : Nat) : SameBud s0 (s.mirMeta obj ops dom) :=
  SameBud.ite (fun _ => h.addRec _ _ _ _ _ _ _ _ _ _) fun _ => h

theorem SameBud.mirStore (h : SameBud s0 s) (obj ofsLine : Nat) (data : Line) (poison : Bool) (dom : Nat) :
    SameBud s0 (s.mirStore obj ofsLine data poison dom) := by
  unfold State.mirStore
  extract_lets tp s1 s2
  have h1 : SameBud s0 s1 := SameBud.ite (fun _ => h.soloMark obj tp) fun _ => h
  have h2 : SameBud s0 s2 := h1.soloMark obj tp
  exact SameBud.ite (fun _ => h1) fun _ => SameBud.ite (fun _ => h2) fun _ => SameBud.ite (fun _ => h1.addLine _ _ _ _ _ _) fun _ => h2

theorem SameBud.redirty (h : SameBud s0 s) (ix k : Nat) : SameBud s0 (s.redirty ix k) := h.off (State.redirty_in (In.refl _ _) rfl)

theorem SameBud.stored (h : SameBud s0 s) (obj tp la : Nat) (data : Line) (poison : Bool) (d : Nat) : SameBud s0 (s.stored obj tp la data poison d) :=
  SameBud.ite (fun _ => (h.redirty _ _).mirStore _ _ _ _ _) fun _ => h.redirty _ _

theorem SameBud.storeBare (h : SameBud s0 s) (la obj tp : Nat) (data : Line) (m : Mask) (poison : Bool) (d cls : Nat) :
    SameBud s0 (s.storeBare la obj tp data m poison d cls) := (h.writeDram _ _ _ _).stored _ _ _ _ _ _

/-! ### Requests at a line -/

theorem SameBud.hostRead (h : SameBud s0 s) (r : HostReq) (la : Nat) (data : Line) (poison : Bool) : SameBud s0 ((s.sfRead r la).doneRead r data poison) :=
  h.off (State.doneRead_in (State.sfRead_in (In.refl _ _) rfl) rfl)

theorem SameBud.hostWrite (h : SameBud s0 s) (r : HostReq) (la : Nat) : SameBud s0 ((s.sfWrite r la).doneWrite r) :=
  h.off (State.doneWrite_in (State.sfWrite_in (In.refl _ _) rfl) rfl)

theorem SameBud.applyReq (h : SameBud s0 s) (k : Key) (q : Req) : SameBud s0 (s.applyReq k q) := by
  unfold State.applyReq
  split
  · exact h
  · rename_i c _
    have ht := h.touch (c.la / 1024)
    extract_lets s1 c'
    have h1 : SameBud s0 s1 := ht
    split
    · exact h1.hostRead _ _ _ _
    · exact ((h1.putWay _ _).stored _ _ _ _ _ _).hostWrite _ _
    · exact (h1.putWay _ _).stored _ _ _ _ _ _
    · exact h1
    · exact h1

theorem SameBud.applyBare (h : SameBud s0 s) (la obj tp : Nat) (q : Req) : SameBud s0 (s.applyBare la obj tp q) := by
  unfold State.applyBare
  extract_lets s1 d put
  have h1 : SameBud s0 s1 := h.touch _
  split
  · exact (h1.storeBare _ _ _ _ _ _ _ _).hostWrite _ _
  · exact h1.hostRead _ _ _ _
  · exact h1.storeBare _ _ _ _ _ _ _ _
  · exact h1

theorem SameBud.applyLine (h : SameBud s0 s) (la obj tp : Nat) (q : Req) : SameBud s0 (s.applyLine la obj tp q) := by
  unfold State.applyLine
  split
  · exact h.applyReq _ _
  · exact h.applyBare _ _ _ _

theorem SameBud.lineAccess (h : SameBud s0 s) (la obj tp : Nat) (q : Req) : SameBud s0 (s.lineAccess la obj tp q) := by
  unfold State.lineAccess
  extract_lets sl
  split
  · exact h.applyReq _ _
  · split
    · exact SameBud.ite (fun _ => h) fun _ => h.off (State.missWait_in (In.refl _ _) rfl rfl)
    · refine SameBud.ite (fun _ => SameBud.ite (fun _ => h.applyBare _ _ _ _) fun _ => (h.install _ _).applyLine _ _ _ _) fun _ => ?_
      split
      · refine SameBud.off ?_ (State.mrPeak_in (In.refl _ _) rfl)
        exact h.touch _
      · exact h.off (State.missWait_in (In.refl _ _) rfl rfl)

theorem SameBud.missQueue (h : SameBud s0 s) (sl : Nat) : SameBud s0 (s.missQueue sl) := by
  unfold State.missQueue
  split
  · refine SameBud.lineAccess ?_ _ _ _ _
    exact h
  · exact h

/-! ### Host requests -/

theorem SameBud.hostWait (h : SameBud s0 s) (r : HostReq) (why : Why) (obj tp : Nat) : SameBud s0 (s.hostWait r why obj tp) :=
  h.off (State.hostWait_in (In.refl _ _) rfl)

theorem SameBud.snoops (h : SameBud s0 s) (l : List Nat) (la : Nat) : SameBud s0 (s.each l fun s k => s.snoop k la) :=
  SameBud.each h l fun _ _ hu => hu.off (State.snoop_in (In.refl _ _) rfl)

theorem SameBud.chargeCp (h : SameBud s0 s) (ix k d : Nat) : SameBud s0 (s.chargeCp ix k d) := h.off (State.chargeCp_in (In.refl _ _) rfl)

theorem SameBud.serveT1 (h : SameBud s0 s) (r : HostReq) (o : Obj) (obj tp ix la : Nat) : SameBud s0 (s.serveT1 r o obj tp ix la) := by
  unfold State.serveT1
  extract_lets s1 d e k needs q inval victim s4 s5
  have h1 : SameBud s0 s1 := h.off (State.dropDemotion_in (In.refl _ _) rfl)
  have h4 : SameBud s0 s4 := SameBud.ite (fun _ => h1.chargeCp _ _ _) fun _ => h1
  have h5 : SameBud s0 s5 := SameBud.ite (fun _ => h4.redirty _ _) fun _ => h4
  clear_value s5 inval victim
  refine SameBud.ite (fun _ => h1.hostWait _ _ _ _) fun _ => SameBud.ite (fun _ => (h1.snoops _ _).hostWait _ _ _ _) fun _ => ?_
  split
  · extract_lets s2
    have h2 : SameBud s0 s2 := SameBud.ite (fun _ => h1) fun _ => h1.off (State.count_in (In.refl _ _) rfl rfl rfl)
    exact (h2.snoops _ _).hostWait _ _ _ _
  · exact SameBud.ite (fun _ => h1.hostWait _ _ _ _) fun _ => h5.lineAccess _ _ _ _

theorem SameBud.leavingWb (h : SameBud s0 s) (r : HostReq) (o : Obj) (obj tp ix la : Nat) : SameBud s0 (s.leavingWb r o obj tp ix la) := by
  have h0 : SameBud s0 (match s.moveOf obj tp with
      | some m => s.abandonMove m
      | none => s) := by
    split
    · exact h.off (State.abandonMove_in (In.refl _ _) rfl)
    · exact h
  unfold State.leavingWb
  extract_lets d e q s1
  have h1 : SameBud s0 s1 := h0.off (State.setMap_in (In.refl _ _) rfl)
  exact SameBud.ite (fun _ => h.lineAccess _ _ _ _) fun _ => SameBud.ite (fun _ => h.hostWait _ _ _ _) fun _ =>
    (h1.chargeCp _ _ _).lineAccess _ _ _ _

theorem SameBud.missPage (h : SameBud s0 s) (r : HostReq) (w : Win) (tp ix : Nat) : SameBud s0 (s.missPage r w tp ix) := by
  unfold State.missPage
  extract_lets e la sl q
  refine SameBud.ite (fun _ => ?_) fun _ => h.hostWait _ _ _ _
  split
  · exact h.lineAccess _ _ _ _
  · refine SameBud.off ?_ (State.mrPeak_in (In.refl _ _) rfl)
    exact h
  · exact h.hostWait _ _ _ _

theorem SameBud.servePage (h : SameBud s0 s) (r : HostReq) (w : Win) (o : Obj) (tp ix : Nat) : SameBud s0 (s.servePage r w o tp ix) := by
  unfold State.servePage
  extract_lets e
  split
  · exact SameBud.hostWait (h.when (h.off (State.setf_in (In.refl _ _) rfl))) _ _ _ _
  · exact SameBud.ite (fun _ => h.serveT1 _ _ _ _ _ _) fun _ => SameBud.ite (fun _ => h.off (State.doneRead_in (In.refl _ _) rfl)) fun _ =>
      SameBud.ite (fun _ => h.leavingWb _ _ _ _ _ _) fun _ => SameBud.missPage (h.off (State.needPage_in (In.refl _ _) rfl)) _ _ _ _

theorem SameBud.unmapped (h : SameBud s0 s) (r : HostReq) : SameBud s0 (s.unmapped r) := h.off (State.unmapped_in (In.refl _ _) rfl)

theorem SameBud.serveHost (h : SameBud s0 s) (r : HostReq) : SameBud s0 (s.serveHost r) := by
  unfold State.serveHost
  refine SameBud.ite (fun _ => ?_) fun _ => SameBud.ite (fun _ => SameBud.ite (fun _ => ?_) fun _ => ?_) fun _ => ?_
  · exact SameBud.unmapped (SameBud.ite (fun _ => h.off (State.recordOnce_in (In.refl _ _) rfl)) fun _ => h) r
  · exact h.off (State.acceptFence_in (In.refl _ _) rfl)
  · exact SameBud.off (h.when (h.off (State.sfRead_in (In.refl _ _) rfl))) (State.doneRead_in (In.refl _ _) rfl)
  · cases hwin : s.window? r.link r.ld (r.dpa / 65536) with
    | none => exact h.unmapped r
    | some x =>
      obtain ⟨k, w⟩ := x
      refine SameBud.ite (fun _ => h.off (State.doneWrite_in (State.recordOnce_in (In.refl _ _) rfl) rfl)) fun _ => ?_
      extract_lets tp
      cases hown : s.own? w.obj with
      | none => exact h.unmapped r
      | some o =>
        refine SameBud.ite (b := o.pages ≤ tp) (fun _ => h.unmapped r) fun _ => ?_
        cases hheld : s.pageHeld w.obj tp (o.mapBase + tp) with
        | some why => exact h.hostWait _ _ _ _
        | none => exact SameBud.ite (fun _ => h.hostWait _ _ _ _) fun _ => h.servePage r w o tp (o.mapBase + tp)

theorem SameBud.reserve (h : SameBud s0 s) (w : Wait) : SameBud s0 (s.reserve w) := by
  unfold State.reserve
  split
  · rename_i r _
    refine SameBud.ite (fun _ => h) fun _ => SameBud.serveHost (SameBud.off ?_ (State.stallEnd_in (In.refl _ _) rfl)) r
    exact SameBud.ite (fun _ => h.off (State.benchRegs_in (In.refl _ _) rfl)) fun _ => h
  · exact h

theorem SameBud.creditBack (h : SameBud s0 s) (k : Nat) : SameBud s0 (s.creditBack k) := by
  refine SameBud.ite (fun _ => h) fun _ => ?_
  extract_lets n mine go src s1
  have h1 : SameBud s0 s1 := h
  exact h1.each go fun _ r hu => hu.serveHost r

theorem SameBud.credits (h : SameBud s0 s) : SameBud s0 s.credits :=
  SameBud.each h _ fun _ k hu => SameBud.creditBack (hu.off (State.benchFill_in (In.refl _ _) rfl)) k

theorem SameBud.rerun (h : SameBud s0 s) (p : Wait → Bool) : SameBud s0 (s.rerun p) := by
  unfold State.rerun
  extract_lets isHost sameLd first q go s1
  have h1 : SameBud s0 s1 := h
  have h2 : SameBud s0 (s1.each go State.reserve) := h1.each go fun _ w hu => hu.reserve w
  exact h2.when h2.credits

end

end Sys2Proof.Machine
end

section
/-! The class budgets of the DRAM controller (R253): what the mirror applies, snoops answered and what a tick tries again. A
layer for O57. -/

namespace Sys2Proof.Machine

section
variable {s0 s : State}

/-! ### Pages that leave -/

theorem SameBud.answerMrs (h : SameBud s0 s) (f : Nat) : SameBud s0 (s.answerMrs f) := by
  have hat : ∀ (u : State) (la : Nat) (q : Req), SameBud s0 u → SameBud s0 (u.answerAt la q) := fun _ _ _ hu =>
    hu.off (State.answerAt_in (In.refl _ _) rfl)
  unfold State.answerMrs
  extract_lets hit qd s1 s2 src s3
  have h1 : SameBud s0 s1 := SameBud.each h _ fun _ e hu => SameBud.each hu _ fun _ q hv => hat _ _ _ hv
  have h2 : SameBud s0 s2 := SameBud.each h1 _ fun _ e hu => hat _ _ _ hu
  have h3 : SameBud s0 s3 := h2
  exact h3.each _ fun _ sl hu => hu.missQueue sl

theorem SameBud.cancelMove (h : SameBud s0 s) (m : Move) : SameBud s0 (s.cancelMove m) := h.off (State.cancelMove_in (In.refl _ _) rfl)

theorem SameBud.freePage (h : SameBud s0 s) (obj : Nat) (o : Obj) (tp : Nat) : SameBud s0 (s.freePage obj o tp) := by
  unfold State.freePage
  extract_lets ix e ms s1
  have h1 : SameBud s0 s1 := h.each _ fun _ m hu => hu.cancelMove m
  clear_value s1
  split
  · extract_lets s2 s3
    have h2 : SameBud s0 s2 := SameBud.ite (fun _ => h1.off (State.loadCold_in (In.refl _ _) rfl)) fun _ => h1
    have h3 : SameBud s0 s3 := h2.off (State.updMove_in (In.refl _ _) rfl)
    exact h3
  · refine SameBud.ite (fun _ => ?_) fun _ => h1.off (State.answerCold_in (In.refl _ _) rfl)
    exact SameBud.off (SameBud.answerMrs (h1.off (State.releasePage_in (In.refl _ _) rfl)) _)
      (State.freeFrame_in (State.discardFrame_in (In.refl _ _) rfl) rfl)

theorem SameBud.refsReg (h : SameBud s0 s) (slot : Nat) : SameBud s0 (s.refsReg slot) := h.off (State.refsReg_in (In.refl _ _) rfl)

theorem SameBud.ledgerRegs (h : SameBud s0 s) : SameBud s0 s.ledgerRegs := h.off (State.ledgerRegs_in (In.refl _ _) rfl)

theorem SameBud.removeObj (h : SameBud s0 s) (obj : Nat) : SameBud s0 (s.removeObj obj) := by
  unfold State.removeObj
  split
  · exact h
  · exact ((SameBud.each h _ fun _ tp hu => hu.freePage _ _ tp).journal _).ledgerRegs.refsReg _

theorem SameBud.takeHomes (h : SameBud s0 s) (obj n : Nat) (ops : List JOp) : SameBud s0 (s.takeHomes obj n ops) :=
  h.off (State.takeHomes_in (In.refl _ _) rfl)

theorem SameBud.resizeTo (h : SameBud s0 s) (obj : Nat) (o o2 : Obj) : SameBud s0 (s.resizeTo obj o o2) :=
  SameBud.ite (fun _ => (SameBud.each h _ fun _ _ hu => hu.freePage _ _ _).journal _) fun _ => (h.takeHomes _ _ _).journal _

/-! ### Records applied -/

theorem SameBud.setMir (h : SameBud s0 s) (f : MirS → MirS) : SameBud s0 (s.setMir f) := h

theorem SameBud.noRoom (h : SameBud s0 s) (id : Nat) (items : List (Nat × Nat)) : SameBud s0 (s.noRoom id items) :=
  h.off (State.noRoom_in (In.refl _ _) rfl)

theorem SameBud.needPages (h : SameBud s0 s) (own : Bool) (id a b : Nat) : SameBud s0 (s.needPages own id a b) :=
  h.off (State.needPages_in (In.refl _ _) rfl)

theorem SameBud.applyMeta (h : SameBud s0 s) (op : JOp) : SameBud s0 (s.applyMeta op) := by
  unfold State.applyMeta
  split
  · split
    · exact SameBud.ite (fun _ => h.removeObj _) fun _ => h
    · exact h
  · extract_lets own s1
    have h1 : SameBud s0 s1 := h
    clear_value s1
    refine SameBud.ite (fun _ => ?_) fun _ => ?_
    · split
      · exact SameBud.ite (fun _ => h1.removeObj _) fun _ => h1
      · exact h1
    · split
      · exact SameBud.ite (fun _ => h1.noRoom _ _) fun _ => SameBud.ite (fun _ => h1.noRoom _ _) fun _ =>
          (((((h1.setMir _).takeHomes _ _ _).journal _).ledgerRegs).refsReg _).needPages _ _ _ _
      · exact SameBud.ite (fun _ => h1) fun _ => SameBud.ite (fun _ => h1.noRoom _ _) fun _ => SameBud.ite (fun _ => h1.noRoom _ _) fun _ =>
          ((((h1.setMir _).resizeTo _ _ _).ledgerRegs).refsReg _).needPages _ _ _ _
  · exact h

theorem foldl_sameBud {α β : Type} {f : State × β → α → State × β} (hf : ∀ x a, SameBud s0 x.1 → SameBud s0 (f x a).1) (l : List α)
    {x : State × β} (h : SameBud s0 x.1) : SameBud s0 (l.foldl f x).1 := by
  induction l generalizing x with
  | nil => exact h
  | cons a r ih => exact ih (hf x a h)

theorem SameBud.ite_fst {b : Prop} [Decidable b] {β : Type} {x y : State × β} (h : b → SameBud s0 x.1) (g : ¬b → SameBud s0 y.1) :
    SameBud s0 (if b then x else y).1 := by
  split
  · exact h ‹_›
  · exact g ‹_›

theorem SameBud.closePass (h : SameBud s0 s) : SameBud s0 s.closePass.1 := by
  unfold State.closePass
  extract_lets pa gone x all
  have hx : SameBud s0 x.1 := by
    refine foldl_sameBud (fun y e hy => ?_) gone h
    exact SameBud.ite_fst (fun _ => hy.removeObj e.1.1) fun _ => hy
  clear_value x
  exact SameBud.ite_fst (fun _ => hx) fun _ => hx

theorem SameBud.putLines (h : SameBud s0 s) (f k : Nat) (r : MRec) : SameBud s0 (s.putLines f k r) := by
  refine SameBud.each h _ fun u x hu => ?_
  extract_lets la s1 s2
  have h1 : SameBud s0 s1 := hu.flushEvict la
  have h2 : SameBud s0 s2 := by
    unfold s2
    split
    · exact h1.dropWay _
    · exact h1
  exact h2.writeDram _ _ _ _

theorem SameBud.stageFrame (h : SameBud s0 s) (obj tp old : Nat) : SameBud s0 (s.stageFrame obj tp old) := by
  unfold State.stageFrame
  split
  · exact h
  · extract_lets f s1 s2 s3
    have h1 : SameBud s0 s1 := h.off (State.takeFrame_in (In.refl _ _) rfl)
    have h2 : SameBud s0 s2 := ((h1.cleanFrame old sc0).dreq _ _ _ _ _).dreq _ _ _ _ _
    have h3 : SameBud s0 s3 := h2.each _ fun _ k hu => hu.off (State.putCp_in (In.refl _ _) rfl)
    exact h3.setMir _

theorem SameBud.markApplied (h : SameBud s0 s) (r : MRec) : SameBud s0 (s.markApplied r) := h.off (State.markApplied_in (In.refl _ _) rfl)

theorem SameBud.applyOne (h : SameBud s0 s) (r : MRec) : SameBud s0 (s.applyOne r).1 := by
  unfold State.applyOne
  refine SameBud.ite_fst (fun _ => h) fun _ => SameBud.ite_fst (fun _ => SameBud.ite_fst (fun _ => ?_) fun _ =>
    SameBud.ite_fst (fun _ => h) fun _ => (SameBud.each h _ fun _ op hu => hu.applyMeta op).markApplied r) fun _ => ?_
  · exact SameBud.ite_fst (fun _ => h.closePass.markApplied r) fun _ => h.closePass
  · split
    · exact h.markApplied r
    · rename_i o _
      refine SameBud.ite_fst (fun _ => h.markApplied r) fun _ => SameBud.ite_fst (fun _ => SameBud.ite_fst (fun _ => h) fun _ => ?_) fun _ =>
        SameBud.ite_fst (fun _ => SameBud.ite (fun _ => h) fun _ => h.off (State.needPage_in (In.refl _ _) rfl)) fun _ =>
        SameBud.ite_fst (fun _ => SameBud.ite_fst (fun _ => h) fun _ => ?_) fun _ => SameBud.ite_fst (fun _ => h) fun _ => ?_
      · exact ((SameBud.each h _ fun _ x hu => hu.off (State.commitPage_in (In.refl _ _) rfl)).journal _).markApplied r
      · have hst := h.stageFrame r.obj (r.cpage / 16) (s.mapE (o.mapBase + r.cpage / 16)).frame
        refine SameBud.ite_fst (fun _ => hst) fun _ => SameBud.markApplied (SameBud.putLines ?_ _ _ r) r
        exact SameBud.ite (fun _ => hst) fun _ => hst.off (State.chargeKey_in (In.refl _ _) rfl)
      · refine SameBud.markApplied (SameBud.ite (fun _ => SameBud.rerun (SameBud.setMir ?_ _) _) fun _ => ?_) r <;>
          exact SameBud.touch (SameBud.putLines (SameBud.ite (fun _ => h.chargeCp _ _ _) fun _ => h.redirty _ _) _ _ r) _

theorem applyRounds_sameBud (n : Nat) (h : SameBud s0 s) : SameBud s0 (applyRounds n s) := by
  induction n generalizing s with
  | zero => exact h
  | succ n ih =>
    have hr : SameBud s0 (s.mir.held.foldl (fun (x : State × Bool × Bool) (q : MRec) =>
        if x.2.2 then x
        else
          let a := x.1.applyOne q
          (a.1, x.2.1 || a.2 == Applied.done, a.2 == Applied.stop)) (s, false, false)).1 := by
      refine foldl_sameBud (fun x q hx => ?_) _ h
      exact SameBud.ite_fst (fun _ => hx) fun _ => hx.applyOne q
    exact SameBud.ite (fun _ => ih hr) fun _ => hr

theorem SameBud.mirChange (h : SameBud s0 s) : SameBud s0 s.mirChange := by
  have h1 : SameBud s0 s.mirEval := h.off (State.mirEval_in (In.refl _ _) rfl)
  exact SameBud.ite (fun _ => h1) fun _ => h1.rerun _

theorem SameBud.setf (h : SameBud s0 s) (f : Fld) (b : Bool) : SameBud s0 (s.setf f b) := h

theorem SameBud.resyncCheck (h : SameBud s0 s) : SameBud s0 s.resyncCheck := by
  refine SameBud.ite (fun _ => ?_) fun _ => h
  exact SameBud.mirChange (SameBud.rerun ((((h.setMir _).setf _ _).setf _ _).setf _ _) _)

theorem SameBud.applyHeld (h : SameBud s0 s) : SameBud s0 s.applyHeld :=
  SameBud.ite (fun _ => h) fun _ => (applyRounds_sameBud _ h).resyncCheck

/-! ### The exchange of the roles and a takeover -/

theorem SameBud.dropWins (h : SameBud s0 s) (id : Nat) : SameBud s0 (s.dropWins id) := SameBud.ite (fun _ => h) fun _ => h.journal _

theorem SameBud.soloMarks (h : SameBud s0 s) (l : List Key) : SameBud s0 (s.each l fun s k => s.soloMark k.1 k.2) :=
  h.each l fun _ k hu => hu.soloMark k.1 k.2

theorem SameBud.renewTaken (h : SameBud s0 s) (id : Nat) : SameBud s0 (s.renewTaken id) := by
  unfold State.renewTaken
  split
  · exact h
  · extract_lets new s1 o s2
    have h2 : SameBud s0 s2 := (h.dropWins id).journal _
    refine SameBud.off (SameBud.soloMarks ?_ _) (State.record_in (State.setf_in (State.soloForget_in (In.refl _ _) rfl) rfl) rfl)
    exact h2

theorem SameBud.becomeReplica (h : SameBud s0 s) (id : Nat) : SameBud s0 (s.becomeReplica id) := by
  unfold State.becomeReplica
  split
  · exact h
  · extract_lets s1 o
    have h1 : SameBud s0 s1 := h.dropWins id
    exact SameBud.off (h1.journal _) (State.soloForget_in (State.setUse_in (In.refl _ _) rfl) rfl)

theorem SameBud.step5 (h : SameBud s0 s) (x : Exch) (g : Hello) : SameBud s0 (s.step5 x g) := by
  unfold State.step5
  extract_lets solo peerSolo senior ours theirs s1 s2 s3 s4 newPartner s5 own mine union allOwn full toSend need ids s6 s7 s8
  have h2 : SameBud s0 s2 := SameBud.setf (h.journal _) _ _
  have h3 : SameBud s0 s3 := SameBud.ite (fun _ => h2.each _ fun _ id hu => hu.renewTaken id) fun _ => h2
  have h4 : SameBud s0 s4 := h3.each theirs fun u e hu =>
    SameBud.ite (fun _ => SameBud.off (hu.soloMarks _) (State.record_in (State.setf_in (In.refl _ _) rfl) rfl)) fun _ => hu.becomeReplica e.1
  have h8 : SameBud s0 s8 := h4
  exact h8.ssnReserve.mirChange

theorem SameBud.tryStep5 (h : SameBud s0 s) : SameBud s0 s.tryStep5 := by
  unfold State.tryStep5
  split
  · exact SameBud.ite (fun _ => h.off (State.invalFrames_in (In.refl _ _) rfl)) fun _ => SameBud.ite (fun _ => h.step5 _ _) fun _ => h
  · exact h

theorem SameBud.takeAll (h : SameBud s0 s) : SameBud s0 s.takeAll := by
  unfold State.takeAll
  extract_lets rs s1 s2 s3
  have h2 : SameBud s0 s2 := SameBud.each (h.journal _) rs fun _ e hu => hu.off (State.setUse_in (In.refl _ _) rfl)
  exact SameBud.off (h2.setMir _) (State.record_in (State.setf_in (In.refl _ _) rfl) rfl)

/-! ### Dynamic capacity and snoops answered -/

theorem SameBud.dcAdd (h : SameBud s0 s) (x : Extent) : SameBud s0 (s.dcAdd x) :=
  SameBud.off (h.journal _) (State.send_in (State.dcRegs_in (In.refl _ _) rfl) rfl)

theorem SameBud.dcRelease (h : SameBud s0 s) (x : Extent) : SameBud s0 (s.dcRelease x) := by
  unfold State.dcRelease
  extract_lets ks s1 s2 s3
  have h1 : SameBud s0 s1 := h.each _ fun _ f hu => hu.cleanFrame f sc2
  have h3 : SameBud s0 s3 := SameBud.each (h1.journal _) _ fun u id hu => by
    split
    · exact SameBud.ite (fun _ => hu.mirMeta _ _ _) fun _ => hu
    · exact hu
  exact h3.off (State.send_in (State.dcRegs_in (In.refl _ _) rfl) rfl)

theorem SameBud.dcRun (h : SameBud s0 s) : SameBud s0 s.dcRun := by
  refine SameBud.each h _ fun u x hu => SameBud.ite (fun _ => ?_) fun _ => hu
  extract_lets src u1
  have h1 : SameBud s0 u1 := hu
  exact SameBud.ite (fun _ => h1.dcAdd _) fun _ => h1.dcRelease _

theorem SameBud.snoopsAnswered (h : SameBud s0 s) : SameBud s0 s.snoopsAnswered := by
  have hover : ∀ (u : State) (x : Snoop), SameBud s0 u → SameBud s0 (u.snoopOver x) := fun u x hu =>
    SameBud.dcRun (SameBud.rerun (hu.off (State.snoopEnd_in (In.refl _ _) rfl)) _)
  exact SameBud.each h _ fun u x hu => SameBud.ite (fun _ => hu) fun _ => hover u x hu

theorem SameBud.journalWriters (h : SameBud s0 s) : SameBud s0 s.journalWriters := by
  have h1 : SameBud s0 s.soloRetry.applyHeld.tryStep5 := SameBud.tryStep5 (SameBud.applyHeld (h.off (State.soloRetry_in (In.refl _ _) rfl)))
  exact SameBud.dcRun (SameBud.ssnReserve (SameBud.ite (fun _ => h1.takeAll) fun _ => h1))

theorem SameBud.tickRetry (h : SameBud s0 s) : SameBud s0 s.tickRetry :=
  SameBud.ite (fun _ => h) fun _ => h.journalWriters.credits.snoopsAnswered

end

end Sys2Proof.Machine
end

section
/-! The class budgets of the DRAM controller (R253): a drain's start, the recovery ladder, the scrub, the tests and the retrain
slices. A layer for O57. -/

namespace Sys2Proof.Machine

section
variable {s0 s : State}

/-! ### A drain's start -/

theorem SameBud.drainReq (h : SameBud s0 s) (la obj tp : Nat) (q : Req) : SameBud s0 (s.drainReq la obj tp q) := by
  refine SameBud.ite (fun _ => h) fun _ => ?_
  extract_lets s1 d c s2
  have h1 : SameBud s0 s1 := h.fillNow la obj tp sc0
  have h2 : SameBud s0 s2 := by
    unfold s2
    split
    · exact h1.putWay _ _
    · exact h1.writeDram _ _ _ _
  split
  · exact SameBud.ite (fun _ => SameBud.off (h2.redirty _ _) (State.soloWrite_in (In.refl _ _) rfl)) fun _ => h2.redirty _ _
  · exact h2

theorem SameBud.drainMr (h : SameBud s0 s) (e : Key × MissReg) : SameBud s0 (s.drainMr e) := by
  unfold State.drainMr
  extract_lets m s1 src s2
  have h2 : SameBud s0 s2 := h.flushEvict m.la
  exact SameBud.ite (fun _ => h) fun _ => SameBud.ite (fun _ => h2) fun _ => h2.each _ fun _ q hu => hu.drainReq _ _ _ q

theorem SameBud.slicesStop (h : SameBud s0 s) : SameBud s0 s.slicesStop := by
  have h1 : SameBud s0 (s.each s.drc.slices fun s e => s.setfi .RETRAIN_BUSY (20 * e.1.1 + e.1.2) false) := h.each _ fun _ e hu => hu
  exact h1

theorem SameBud.drainStores (h : SameBud s0 s) : SameBud s0 s.drainStores := by
  unfold State.drainStores
  extract_lets keep stays src s1 s2 s3
  have h1 : SameBud s0 s1 := h
  have h3 : SameBud s0 s3 := SameBud.each (h1.each s1.fch.mrs fun _ e hu => hu.drainMr e) _ fun _ e hu => hu.drainReq _ _ _ _
  exact h3

theorem SameBud.drainBegin (h : SameBud s0 s) (t : Trig) (railsUp : Bool) : SameBud s0 (s.drainBegin t railsUp) := by
  unfold State.drainBegin
  extract_lets sticky s1 s2 s3 s4
  have h3 : SameBud s0 s3 := h.off (State.record_in (State.record_in (State.record_in (In.refl _ _) rfl) rfl) rfl)
  exact h3.setf .DRAINING true

theorem SameBud.drainQuiet (h : SameBud s0 s) : SameBud s0 s.drainQuiet := by
  have h1 : SameBud s0 (s.each (List.range 4) fun s p => s.setRdy p false) := h.each _ fun _ p hu => hu.off (State.setRdy_in (In.refl _ _) rfl)
  exact h1

theorem SameBud.drainHalt (h : SameBud s0 s) : SameBud s0 s.drainHalt := by
  unfold State.drainHalt
  extract_lets s1 s2
  have h1 : SameBud s0 s1 := h.each _ fun _ _ hu => hu.off (State.wri_in (In.refl _ _) rfl)
  have h2 : SameBud s0 s2 := h1.each _ fun _ _ hu => hu.off (State.wri_in (In.refl _ _) rfl)
  have hstop : SameBud s0 s2.stallEnds.slicesStop.bstStop := SameBud.off (SameBud.slicesStop (h2.off (State.stallEnds_in (In.refl _ _) rfl)))
    (State.bstStop_in (In.refl _ _) rfl)
  exact hstop.drainStores.off (State.drainMoves_in (In.refl _ _) rfl)

theorem SameBud.drainTell (h : SameBud s0 s) : SameBud s0 s.drainTell := by
  unfold State.drainTell
  extract_lets src1 src2 s1 src3 src4 s2 src5 src6 s3 s4
  have h1 : SameBud s0 s1 := h
  have hstop : SameBud s0 s1.ccalStop := h1.off (State.ccalStop_in (In.refl _ _) rfl)
  have h3 : SameBud s0 s3 := hstop
  exact SameBud.off (h3.each _ fun _ p hu => hu.off (State.send_in (In.refl _ _) rfl)) (State.recsToSolo_in (In.refl _ _) rfl)

theorem SameBud.startDrain (h : SameBud s0 s) (t : Trig) (railsUp : Bool) : SameBud s0 (s.startDrain t railsUp) := by
  rw [State.startDrain_eq]
  exact (h.drainBegin t railsUp).drainQuiet.drainHalt.drainTell

theorem SameBud.trigger (h : SameBud s0 s) (t : Trig) (railsUp : Bool) : SameBud s0 (s.trigger t railsUp) :=
  SameBud.ite (fun _ => SameBud.ite (fun _ => h) fun _ => h) fun _ => SameBud.ite (fun _ => h.startDrain t railsUp) fun _ => h

theorem SameBud.fatal (h : SameBud s0 s) (blk rule : Nat) (items : List (Nat × Nat)) : SameBud s0 (s.fatal blk rule items) := by
  have h1 : SameBud s0 (s.record clsFault 0 rule items) := h.off (State.record_in (In.refl _ _) rfl)
  refine SameBud.ite (fun _ => h1) fun _ => SameBud.trigger (SameBud.each ?_ _ fun _ p hu => hu.off (State.setRdy_in (In.refl _ _) rfl)) _ _
  exact h1.off (State.alertFatal_in (State.wr_in (State.setf_in (In.refl _ _) rfl) rfl) rfl)

/-! ### The recovery ladder -/

theorem SameBud.askVerify (h : SameBud s0 s) (la : Nat) : SameBud s0 (s.askVerify la) := SameBud.ite (fun _ => h) fun _ => h

theorem SameBud.fixCorrected (h : SameBud s0 s) (la dev : Nat) : SameBud s0 (s.fixCorrected la dev) := by
  have h1 : SameBud s0 (s.corrected la dev) := h.off (State.corrected_in (In.refl _ _) rfl)
  exact h1.when (h1.askVerify la)

theorem SameBud.fixLine (h : SameBud s0 s) (la : Nat) (d : DLine) : SameBud s0 (s.fixLine la d) :=
  SameBud.askVerify (h.off (State.setDline_in (In.refl _ _) rfl)) la

theorem SameBud.decode (h : SameBud s0 s) (la : Nat) (errs : List Nat) : SameBud s0 (s.decode la errs).1 := h.off (State.decode_in (In.refl _ _) rfl).1

theorem SameBud.firstRungs (h : SameBud s0 s) (la : Nat) (e1 e2 : List Nat) : SameBud s0 (s.firstRungs la e1 e2).1 := by
  have hr := h.decode la e1
  have ht := hr.decode la e2
  unfold State.firstRungs
  extract_lets up r t
  have hup : ∀ u : State, SameBud s0 u → SameBud s0 (up u) := fun u hu => hu.off (State.count_in (In.refl _ _) rfl rfl rfl)
  split
  · exact hr
  · exact hr.fixCorrected la _
  · exact hr
  · exact hup _ hr
  · split
    · exact ht.askVerify la
    · exact ht.fixCorrected la _
    · exact ht
    · exact hup _ ht
    · exact hup _ ht

theorem SameBud.pageRung (h : SameBud s0 s) (la : Nat) (c : LCtx) (others : List Nat) (pq : Bool) : SameBud s0 (s.pageRung la c others pq).1 := by
  unfold State.pageRung
  extract_lets f src base fails cnt s1
  have hcnt : ∀ (u : State) (x : Nat), SameBud s0 u → SameBud s0 (cnt u x) := fun u x hu => hu.off (State.count_in (In.refl _ _) rfl rfl rfl)
  have h1 : SameBud s0 s1 := h.each _ fun u j hu => by
    refine SameBud.askVerify (hcnt _ _ (SameBud.ite (fun _ => ?_) fun _ => hu)) _
    exact hu.off (State.freeNext_in (State.setDline_in (In.refl _ _) rfl) rfl)
  clear_value s1
  exact SameBud.ite_fst (fun _ => h) fun _ => SameBud.ite_fst (fun _ => h) fun _ => SameBud.ite_fst (fun _ => h) fun _ => (hcnt _ _ h1).askVerify la

theorem SameBud.homeFix (h : SameBud s0 s) (c : LCtx) (la : Nat) : SameBud s0 (s.homeFix c la) :=
  SameBud.fixLine (h.off (State.count_in (In.refl _ _) rfl rfl rfl)) _ _

theorem SameBud.twinFix (h : SameBud s0 s) (la : Nat) (d : DLine) : SameBud s0 (s.twinFix la d) :=
  SameBud.fixLine (h.off (State.count_in (In.refl _ _) rfl rfl rfl)) _ _

theorem SameBud.ladderFail (h : SameBud s0 s) (la rung dom : Nat) : SameBud s0 (s.ladderFail la rung dom) :=
  SameBud.off (h.writeDram _ _ _ _) (State.mediaEvent_in (State.record_in (State.count_in (In.refl _ _) rfl rfl rfl) rfl) rfl)

theorem SameBud.ladderRun (h : SameBud s0 s) (la dom : Nat) (e1 e2 : List Nat) (fail : Bool) : SameBud s0 (s.ladderRun la dom e1 e2 fail).1 := by
  have hr := h.firstRungs la e1 e2
  unfold State.ladderRun
  extract_lets r
  split
  · exact hr
  · split
    · exact hr.ladderFail _ _ _
    · rename_i c _
      extract_lets p s2
      have hp : SameBud s0 p.1 := SameBud.ite_fst (fun _ => hr) fun _ => hr.pageRung _ _ _ _
      clear_value p
      refine SameBud.ite_fst (fun _ => hp) fun _ => SameBud.ite_fst (fun _ => hp.homeFix _ _) fun _ => SameBud.ite_fst (fun _ => ?_) fun _ => hp.ladderFail _ _ _
      split
      · exact hp.twinFix _ _
      · exact hp.twinFix _ _

theorem SameBud.ladderNow (h : SameBud s0 s) (la dom : Nat) (fail : Bool) : SameBud s0 (s.ladderNow la dom fail).1 := h.ladderRun _ _ _ _ _

theorem SameBud.probeLines (h : SameBud s0 s) (o : Obj) (dom : Nat) (lns bad : List Nat) : SameBud s0 (s.probeLines o dom lns bad).1 := by
  refine foldl_sameBud (fun x ln hx => ?_) lns h
  exact SameBud.ite_fst (fun _ => hx) fun _ => SameBud.ite_fst (fun _ => hx) fun _ => SameBud.ite_fst (fun _ => hx) fun _ =>
    (hx.flushEvict _).ladderNow _ _ _

/-! ### The scrub -/

theorem SameBud.metaRead (h : SameBud s0 s) (la : Nat) (e1 e2 : List Nat) : SameBud s0 (s.metaRead la e1 e2) := by
  have hr := h.decode la e1
  have ht := hr.decode la e2
  unfold State.metaRead
  extract_lets r t s1 src1 src2 s2
  have h1 : SameBud s0 s1 := ht.off (State.count_in (In.refl _ _) rfl rfl rfl)
  have h2 : SameBud s0 s2 := h1
  split
  · exact hr.fixCorrected la _
  · split
    · exact h2.fatal _ _ _
    · exact ht.fixCorrected la _
    · exact ht
  · exact hr

theorem SameBud.scrubPc (h : SameBud s0 s) (la : Nat) (e1 e2 : List Nat) : SameBud s0 (s.scrubPc la e1 e2) := by
  have hr := (h.dreq la 1 false .int sc3).decode la e1
  have ht := hr.decode la e2
  unfold State.scrubPc
  extract_lets k r t s1 src
  have h1 : SameBud s0 s1 := SameBud.dreq (ht.off (State.count_in (In.refl _ _) rfl rfl rfl)) _ _ _ _ _
  refine SameBud.ite (fun _ => h) fun _ => ?_
  split
  · exact SameBud.dreq (hr.off (State.corrected_in (In.refl _ _) rfl)) _ _ _ _ _
  · split
    · exact SameBud.dreq (ht.off (State.corrected_in (In.refl _ _) rfl)) _ _ _ _ _
    · exact h1
    · exact ht
  · exact hr

theorem SameBud.scrubLine (h : SameBud s0 s) (errs : List (Nat × List Nat × List Nat)) (la : Nat) : SameBud s0 (s.scrubLine errs la) := by
  have h1 : SameBud s0 (s.dreq la 1 false .int sc3) := h
  unfold State.scrubLine
  refine SameBud.ite (fun _ => SameBud.ite (fun _ => h) fun _ => h1.metaRead _ _ _) fun _ => SameBud.ite (fun _ => h.scrubPc _ _ _) fun _ => ?_
  split
  · exact h
  · exact SameBud.ite (fun _ => h) fun _ => SameBud.ite (fun _ => h) fun _ => h1.ladderRun _ _ _ _ _

theorem SameBud.scrubTick (h : SameBud s0 s) (errs : List (Nat × List Nat × List Nat)) : SameBud s0 (s.scrubTick errs) := by
  unfold State.scrubTick
  extract_lets l n p s1 s2
  have h1 : SameBud s0 s1 := h.each _ fun _ i hu => hu.scrubLine errs _
  have h2 : SameBud s0 s2 := h1
  exact SameBud.ite (fun _ => h) fun _ => SameBud.ite (fun _ => h2.off (State.count_in (In.refl _ _) rfl rfl rfl)) fun _ => h2

/-! ### The tests' slices -/

theorem SameBud.writeOut (h : SameBud s0 s) (l : List (Key × CLine)) : SameBud s0 (s.each l fun s e => (s.writeBack e.2 sc3).dropWay e.1) :=
  h.each l fun _ _ hu => (hu.writeBack _ _).dropWay _

theorem SameBud.cleanWays (h : SameBud s0 s) (sl : Nat) (ways : Nat → Bool) (bad : Option (Nat × Nat)) : SameBud s0 (s.cleanWays sl ways bad) :=
  SameBud.each h _ fun _ _ hu => (hu.writeBack _ _).dropWay _

theorem SameBud.disableWay (h : SameBud s0 s) (sl w : Nat) (bad : Option (Nat × Nat)) : SameBud s0 (s.disableWay sl w bad) := by
  unfold State.disableWay
  extract_lets s1 s2 s3
  have h1 : SameBud s0 s1 := h.cleanWays sl (· == w) bad
  have h3 : SameBud s0 s3 := h1.off (State.alert_in (State.record_in (State.setBitOf_in (In.refl _ _) rfl) rfl) rfl)
  exact SameBud.ite (fun _ => h) fun _ => SameBud.ite (fun _ => h3) fun _ => SameBud.ite (fun _ => h3.fatal _ _ _) fun _ =>
    h3.off (State.setBitOf_in (In.refl _ _) rfl)

theorem SameBud.spend (h : SameBud s0 s) (c sub cls n : Nat) : SameBud s0 (s.spend c sub cls n) := h

theorem SameBud.sliceTime (h : SameBud s0 s) (c ns : Nat) : SameBud s0 (s.sliceTime c ns) := h

theorem SameBud.rowInval (h : SameBud s0 s) : SameBud s0 s.rowInval := h.writeOut _

theorem SameBud.feedRepair (h : SameBud s0 s) (all : List RowFail) (f : RowFail) : SameBud s0 (s.feedRepair all f) := by
  unfold State.feedRepair
  extract_lets l s1 la used errs
  have h1 : SameBud s0 s1 := h.off (State.addRepair_in (In.refl _ _) rfl)
  exact SameBud.ite (fun _ => h1) fun _ => SameBud.off (h1.ladderRun _ _ _ _ _) (State.hardFault_in (In.refl _ _) rfl)

theorem SameBud.unitEnd (h : SameBud s0 s) : SameBud s0 s.unitEnd := by
  unfold State.unitEnd
  extract_lets fs u s1 s2 s3 s4 s5 src s6
  have h1 : SameBud s0 s1 := h.each _ fun _ f hu => hu.off (State.testFail_in (In.refl _ _) rfl)
  have h2 : SameBud s0 s2 := h1.each _ fun _ f hu => hu.off (State.unitRecord_in (In.refl _ _) rfl)
  have h3 : SameBud s0 s3 := h2.each _ fun u f hu => SameBud.ite (fun _ => hu) fun _ => hu.feedRepair fs f
  have h4 : SameBud s0 s4 := h3.off (State.count_in (State.count_in (In.refl _ _) rfl rfl rfl) rfl rfl rfl)
  have h6 : SameBud s0 s6 := h4
  exact SameBud.ite (fun _ => h3) fun _ => SameBud.ite (fun _ => h6.off (State.bstStop_in (In.refl _ _) rfl)) fun _ => h6

theorem SameBud.rowSlice (h : SameBud s0 s) (x : TickIn) : SameBud s0 (s.rowSlice x) := by
  unfold State.rowSlice
  extract_lets n s1 s2 hit src s3
  have h1 : SameBud s0 s1 := SameBud.ite (fun _ => h.rowInval) fun _ => h
  have h3 : SameBud s0 s3 := h1
  exact SameBud.ite (fun _ => h) fun _ => SameBud.ite (fun _ => h3.unitEnd) fun _ => h3

theorem SameBud.marchSlice (h : SameBud s0 s) (x : TickIn) : SameBud s0 (s.marchSlice x) := by
  unfold State.marchSlice
  extract_lets sl g n src s1 bad s2 s3 s4 src2 s5
  have h1 : SameBud s0 s1 := h
  have h2 : SameBud s0 s2 := h1.each _ fun _ f hu => hu.off (State.testFail_in (In.refl _ _) rfl)
  have h3 : SameBud s0 s3 := h2.when (h2.off (State.unitRecord_in (In.refl _ _) rfl))
  have h5 : SameBud s0 s5 := h3.each _ fun _ w hu => hu.disableWay sl w none
  exact SameBud.ite (fun _ => h) fun _ => SameBud.ite (fun _ => h5) fun _ =>
    h5.off (State.bstStop_in (State.count_in (State.setBitOf_in (In.refl _ _) rfl) rfl rfl rfl) rfl)

theorem SameBud.testSlice (h : SameBud s0 s) (x : TickIn) : SameBud s0 (s.testSlice x) :=
  SameBud.ite (fun _ => h) fun _ => SameBud.ite (fun _ => h.rowSlice x) fun _ => SameBud.ite (fun _ => h.marchSlice x) fun _ =>
    SameBud.ite (fun _ => h.off (State.katSlice_in (In.refl _ _) rfl)) fun _ => h

theorem SameBud.retrainSlice (h : SameBud s0 s) (ch : Nat) (res : LaneRes) : SameBud s0 (s.retrainSlice ch res) := by
  unfold State.retrainSlice
  extract_lets due
  clear_value due
  cases due with
  | none => exact h
  | some e =>
    obtain ⟨⟨c, lane⟩, n⟩ := e
    exact SameBud.ite (fun _ => h) fun _ => SameBud.ite (fun _ => h) fun _ => SameBud.ite (fun _ => h) fun _ => h

end

end Sys2Proof.Machine
end

section
/-! The class budgets of the DRAM controller (R253): what the remote access engine runs. A layer for O57. -/

namespace Sys2Proof.Machine

section
variable {s0 s : State}

/-! ### Lines and slots that it stores -/

theorem SameBud.readTouch (h : SameBud s0 s) (obj : Nat) (o : Obj) (cls ln : Nat) : SameBud s0 (s.readTouch obj o cls ln) :=
  SameBud.ite (fun _ => (h.touch _).fillNow _ _ _ _) fun _ => h

theorem SameBud.storeLine (h : SameBud s0 s) (d cls obj : Nat) (o : Obj) (ln : Nat) (data : Line) (m : Mask) (poison : Bool) :
    SameBud s0 (s.storeLine d cls obj o ln data m poison).1 := by
  unfold State.storeLine
  extract_lets tp ix e la k inval needs s1 s2 s3
  have h1 : SameBud s0 s1 := SameBud.ite (fun _ => h.chargeCp _ _ _) fun _ => h
  have h2 : SameBud s0 s2 := h1.touch _
  have h3 : SameBud s0 s3 := SameBud.ite (fun _ => (h2.flushEvict la).install _ _) fun _ => h2.fillNow _ _ _ _
  clear_value s3 s2
  refine SameBud.ite_fst (fun _ => h.snoops _ _) fun _ => ?_
  split
  · exact h
  · refine SameBud.ite_fst (fun _ => h) fun _ => SameBud.ite_fst (fun _ => (h2.flushEvict la).storeBare _ _ _ _ _ _ _ _) fun _ => ?_
    split
    · exact h3
    · exact (h3.putWay _ _).stored _ _ _ _ _ _

theorem SameBud.storeLines (h : SameBud s0 s) (d cls obj : Nat) (o : Obj) (ws : List WLine) : SameBud s0 (s.storeLines d cls obj o ws).1 := by
  refine foldl_sameBud (fun x w hx => ?_) ws h
  split
  · exact hx
  · have hr := hx.storeLine d cls obj o w.ln w.data w.mask w.fail?.isSome
    extract_lets r
    split
    · exact hr
    · exact hr

theorem SameBud.raePage (h : SameBud s0 s) (d obj tp : Nat) (o : Obj) (zeroOk : Bool) : SameBud s0 (s.raePage d obj tp o zeroOk).1 :=
  h.off (State.raePage_in (In.refl _ _) rfl).1

theorem SameBud.raePages (h : SameBud s0 s) (d obj : Nat) (o : Obj) (ofs len : Nat) (zeroOk : Bool) : SameBud s0 (s.raePages d obj o ofs len zeroOk).1 :=
  h.off (State.raePages_in (In.refl _ _) rfl).1

theorem SameBud.entWait (h : SameBud s0 s) (e : Ent) (d : Nat) (why : Why) (obj tp : Nat) : SameBud s0 (s.entWait e d why obj tp) :=
  h.off (State.entWait_in (In.refl _ _) rfl)

theorem SameBud.entGo (h : SameBud s0 s) (e : Ent) (d : Nat) : SameBud s0 (s.entGo e d) := h.off (State.entGo_in (In.refl _ _) rfl)

theorem SameBud.updCtx (h : SameBud s0 s) (x : Nat) (f : RCtx → RCtx) : SameBud s0 (s.updCtx x f) := h.off (State.updCtx_in (In.refl _ _) rfl)

theorem SameBud.putCtx (h : SameBud s0 s) (x : Nat) (c : RCtx) : SameBud s0 (s.putCtx x c) := h.off (State.putCtx_in (In.refl _ _) rfl)

theorem SameBud.updReq (h : SameBud s0 s) (t : Nat) (f : TReq → TReq) : SameBud s0 (s.updReq t f) := h.off (State.updReq_in (In.refl _ _) rfl)

theorem SameBud.reqEnd (h : SameBud s0 s) (r : TReq) : SameBud s0 (s.reqEnd r) := h.off (State.reqEnd_in (In.refl _ _) rfl)

theorem SameBud.slotWrite (h : SameBud s0 s) (t : Nat) (r : TReq) : SameBud s0 (s.slotWrite t r).1 := by
  unfold State.slotWrite
  extract_lets w
  split
  · exact h
  · rename_i o _
    refine SameBud.ite_fst (fun _ => h) fun _ => ?_
    have hp := h.raePage r.dom r.obj (r.ofs / 65536) o false
    extract_lets p q
    have hq : SameBud s0 q.1 := hp.storeLine _ _ _ _ _ _ _ _
    clear_value q
    split
    · exact hp.entWait _ _ _ _ _
    · refine SameBud.ite_fst (fun _ => hp.entWait _ _ _ _ _) fun _ => ?_
      split
      · exact hq.entWait _ _ _ _ _
      · exact hq.entGo _ _

theorem SameBud.flushSlots (h : SameBud s0 s) : SameBud s0 s.flushSlots := by
  refine SameBud.each h _ fun u r hu => ?_
  have hw := hu.slotWrite 65536 r
  refine SameBud.ite (fun _ => SameBud.reqEnd ?_ r) fun _ => hw
  exact hw

theorem SameBud.completeAll (h : SameBud s0 s) (t : Nat) : SameBud s0 (s.completeAll t) := by
  unfold State.completeAll
  split
  · exact h
  · refine SameBud.each h _ fun u r hu => ?_
    have hw := hu.slotWrite t r
    exact SameBud.ite (fun _ => (hw.updCtx _ _).reqEnd r) fun _ => hw

/-! ### Requests of its own -/

theorem SameBud.reqReady (h : SameBud s0 s) (r : TReq) : SameBud s0 (s.reqReady r).1 := by
  unfold State.reqReady
  split
  · exact h
  · rename_i o _
    have hp := h.raePages r.dom r.lobj o r.lofs r.len (r.op != 3)
    have hr := hp.probeLines o r.dom (linesOf r.lofs r.len) []
    refine SameBud.ite_fst (fun _ => h) fun _ => SameBud.ite_fst (fun _ => h) fun _ => ?_
    extract_lets p ks pr s1 t
    split
    · exact hp
    · refine SameBud.ite_fst (fun _ => ?_) fun _ => ?_
      · exact SameBud.ite_fst (fun _ => hp) fun _ => hp.each _ fun _ k hu => hu.chargeCp _ _ _
      · exact SameBud.ite_fst (fun _ => hr) fun _ => hr.each _ fun _ ln hu => hu.readTouch _ _ _ _

theorem sendNext_sameBud (n t : Nat) (h : SameBud s0 s) : SameBud s0 (State.sendNext n t s) := by
  induction n generalizing s with
  | zero => exact h
  | succ n ih =>
    unfold State.sendNext
    split
    · exact h
    · rename_i c _
      refine SameBud.ite (fun _ => h) fun _ => ?_
      split
      · exact h
      · rename_i r _
        have ha := h.reqReady r
        extract_lets a put s1 k q s2
        have hput : ∀ (u : State) (y : TReq), SameBud s0 u → SameBud s0 (put u y) := fun u y hu => hu.updReq _ _
        split
        · exact ha.entWait _ _ _ _ _
        · have h1 : SameBud s0 s1 := ha.entGo _ _
          have h2 : SameBud s0 s2 := (hput _ _ h1).updCtx _ _
          exact SameBud.ite (fun _ => ih (hput _ _ h1)) fun _ => ih (h2.off (State.emitFrom_in (In.refl _ _) rfl))

theorem SameBud.storeRead (h : SameBud s0 s) (t : Nat) (r : TReq) : SameBud s0 (s.storeRead t r) := by
  unfold State.storeRead
  extract_lets put tp0 lns
  have hput : ∀ (u : State) (y : TReq), SameBud s0 u → SameBud s0 (put u y) := fun u y hu => hu.updReq _ _
  clear_value put
  split
  · exact hput _ _ h
  · rename_i o _
    refine SameBud.ite (fun _ => hput _ _ h) fun _ => ?_
    have hp := h.raePages r.dom r.lobj o r.lofs r.len false
    extract_lets p pr ws w s1
    have hw : SameBud s0 w.1 := SameBud.storeLines (hp.probeLines _ _ _ _) _ _ _ _ _
    clear_value w ws pr
    split
    · exact hp.entWait _ _ _ _ _
    · refine SameBud.ite (fun _ => hp.entWait _ _ _ _ _) fun _ => ?_
      split
      · exact (hput _ _ hw).entWait _ _ _ _ _
      · exact hput _ _ (hw.entGo _ _)

theorem examine_sameBud (n x : Nat) (h : SameBud s0 s) : SameBud s0 (State.examine n x s) := by
  induction n generalizing s with
  | zero => exact h
  | succ n ih =>
    unfold State.examine
    split
    · exact h
    · rename_i c _
      have hstop := h.updCtx x fun c => { c with exam := false }
      refine SameBud.ite (fun _ => hstop) fun _ => ?_
      split
      · exact hstop
      · rename_i o _
        refine SameBud.ite (fun _ => hstop) fun _ => ?_
        have hp := h.raePage c.dom c.trigObj (c.slotOfs / 65536) o true
        extract_lets p s1 v slot stop
        have h1 : SameBud s0 s1 := (hp.probeLines _ _ _ _).entGo _ _
        clear_value s1
        split
        · exact hp.entWait _ _ _ _ _
        · exact SameBud.ite (fun _ => h1.updCtx _ _) fun _ => SameBud.ite (fun _ => h1.updCtx _ _) fun _ =>
            ih (SameBud.off (h1.readTouch _ _ _ _) (State.release_in (In.refl _ _) rfl))

/-! ### Packets received -/

theorem SameBud.ctxNak (h : SameBud s0 s) (x psn syn : Nat) : SameBud s0 (s.ctxNak x psn syn) := h.off (State.ctxNak_in (In.refl _ _) rfl)

theorem SameBud.seqNak (h : SameBud s0 s) (x : Nat) (c : RCtx) : SameBud s0 (s.seqNak x c) := h.off (State.seqNak_in (In.refl _ _) rfl)

theorem SameBud.goneEnd (h : SameBud s0 s) (x psn : Nat) : SameBud s0 (s.goneEnd x psn) := h.off (State.goneEnd_in (In.refl _ _) rfl)

theorem SameBud.rxPlaced (h : SameBud s0 s) (x : Nat) (c : RCtx) (p : Pkt) (ahead : Bool) : SameBud s0 (s.rxPlaced x c p ahead) :=
  h.off (State.rxPlaced_in (In.refl _ _) rfl)

theorem SameBud.rxWait (h : SameBud s0 s) (x : Nat) (c : RCtx) (p : Pkt) (why : Why) (obj tp : Nat) : SameBud s0 (s.rxWait x c p why obj tp) :=
  h.off (State.rxWait_in (In.refl _ _) rfl)

theorem SameBud.rxRnr (h : SameBud s0 s) (x : Nat) (c : RCtx) (p : Pkt) (why : Why) (obj tp : Nat) : SameBud s0 (s.rxRnr x c p why obj tp) :=
  h.off (State.rxRnr_in (In.refl _ _) rfl)

theorem SameBud.ctxSend (h : SameBud s0 s) (x op psn : Nat) (l data : List Nat) : SameBud s0 (s.ctxSend x op psn l data) :=
  h.off (State.ctxSend_in (In.refl _ _) rfl)

theorem SameBud.rxAdvance (h : SameBud s0 s) (x n : Nat) : SameBud s0 (s.rxAdvance x n).1 := h.off (State.rxAdvance_in (In.refl _ _) rfl).1

theorem SameBud.place (h : SameBud s0 s) (d : Nat) (p : Pkt) (obj : Nat) (o : Obj) (ofs : Nat) : SameBud s0 (s.place d p obj o ofs).1 := by
  have hr := h.raePages d obj o ofs p.data.length false
  unfold State.place
  extract_lets len tp0 r s1 la inv pr ws w
  have hw : SameBud s0 w.1 := SameBud.storeLines (hr.probeLines _ _ _ _) _ _ _ _ _
  clear_value w ws pr inv
  refine SameBud.ite_fst (fun _ => h) fun _ => ?_
  split
  · exact hr
  · refine SameBud.ite_fst (fun _ => hr) fun _ => ?_
    split
    · exact hr
    · exact SameBud.when hr (SameBud.setf hr _ _)
    · refine SameBud.ite_fst (fun _ => hr) fun _ => SameBud.ite_fst (fun _ => hr.each _ fun _ ln hu => hu.snoops _ _) fun _ => ?_
      split
      · exact hw
      · exact hw

theorem SameBud.rxWrite (h : SameBud s0 s) (x : Nat) (c : RCtx) (p : Pkt) (ahead : Bool) : SameBud s0 (s.rxWrite x c p ahead) := by
  unfold State.rxWrite
  refine SameBud.ite (fun _ => h.updCtx _ _) fun _ => SameBud.ite (fun _ => (h.goneEnd _ _).rxPlaced _ _ _ _) fun _ => ?_
  split
  · exact SameBud.ite (fun _ => h.ctxNak _ _ _) fun _ => SameBud.ite (fun _ => SameBud.ite (fun _ => h) fun _ => (h.updCtx _ _).seqNak _ _) fun _ =>
      h.ctxNak _ _ _
  · rename_i m i _
    extract_lets ofs
    refine SameBud.ite (fun _ => h.ctxNak _ _ _) fun _ => ?_
    split
    · exact h.ctxNak _ _ _
    · rename_i o _
      refine SameBud.ite (fun _ => h.ctxNak _ _ _) fun _ => ?_
      have hr := h.place c.dom p m.obj o ofs
      extract_lets r s1
      have h1 : SameBud s0 s1 := SameBud.ite (fun _ => hr.updCtx _ _) fun _ => hr
      clear_value s1
      split
      · exact h1.rxWait _ _ _ _ _ _
      · exact h1.rxRnr _ _ _ _ _ _
      · exact (h1.entGo _ _).ctxNak _ _ _
      · exact h1.rxPlaced _ _ _ _

theorem SameBud.readOne (h : SameBud s0 s) (x : Nat) (c : RCtx) (p : Pkt) : SameBud s0 (s.readOne x c p).1 := by
  have hsend : ∀ (u : State) (n : Nat) (f : Nat → Nat), SameBud s0 u → SameBud s0 (u.readSend x c p n f) := fun u n f hu =>
    hu.off (State.readSend_in (In.refl _ _) rfl)
  unfold State.readOne
  refine SameBud.ite_fst (fun _ => h) fun _ => ?_
  split
  · extract_lets n s1
    have h1 : SameBud s0 s1 := hsend _ _ _ (h.goneEnd _ _)
    exact SameBud.ite (fun _ => h1) fun _ => h1.ctxNak _ _ _
  · split
    · exact h.ctxNak _ _ _
    · rename_i obj o ofs _
      have hr := h.raePages c.dom obj o ofs p.len true
      extract_lets r pr s1 fail n s2 s3 y bad s4
      have h1 : SameBud s0 s1 := (hr.probeLines _ _ _ _).entGo _ _
      have h3 : SameBud s0 s3 := SameBud.each (hsend _ _ _ h1) _ fun _ ln hu => hu.readTouch _ _ _ _
      have h4 : SameBud s0 s4 := h3.each _ fun _ ln hu => hu.off (State.mediaEvent_in (In.refl _ _) rfl)
      clear_value s4 s3
      split
      · exact hr.entWait _ _ _ _ _
      · exact SameBud.ite_fst (fun _ => h3) fun _ => h4.ctxNak _ _ _

theorem readsRun_sameBud (n x : Nat) (h : SameBud s0 s) : SameBud s0 (State.readsRun n x s) := by
  induction n generalizing s with
  | zero => exact h
  | succ n ih =>
    unfold State.readsRun
    split
    · exact h
    · rename_i c _
      split
      · exact h
      · rename_i p _ _
        have hr := h.readOne x c p
        exact SameBud.ite (fun _ => ih (hr.updCtx _ _)) fun _ => hr

theorem SameBud.rxRead (h : SameBud s0 s) (x : Nat) (c : RCtx) (p : Pkt) : SameBud s0 (s.rxRead x c p) :=
  SameBud.ite (fun _ => h.ctxNak _ _ _) fun _ => SameBud.ite (fun _ => h.ctxNak _ _ _) fun _ =>
    readsRun_sameBud _ _ ((h.rxAdvance _ _).updCtx _ _)

theorem SameBud.rxAtomic (h : SameBud s0 s) (x : Nat) (c : RCtx) (p : Pkt) : SameBud s0 (s.rxAtomic x c p) := by
  unfold State.rxAtomic
  extract_lets fin
  have hfin : ∀ (u : State) (old : Nat), SameBud s0 u → SameBud s0 (fin u old) := fun u old hu =>
    (((hu.entGo _ _).updCtx _ _).rxAdvance _ _).ctxSend _ _ _ _ _
  clear_value fin
  refine SameBud.ite (fun _ => h.updCtx _ _) fun _ => ?_
  split
  · exact SameBud.ite (fun _ => (h.goneEnd _ _).ctxNak _ _ _) fun _ => hfin _ _ (h.goneEnd _ _)
  · split
    · exact h.ctxNak _ _ _
    · rename_i obj o ofs _
      refine SameBud.ite (fun _ => h.ctxNak _ _ _) fun _ => ?_
      extract_lets tp ln r s1 la pr s2 v old new wr data m w
      have hr : SameBud s0 r.1 := h.raePage _ _ _ _ _
      have h2 : SameBud s0 s2 := SameBud.probeLines hr _ _ _ _
      have hw : SameBud s0 w.1 := h2.storeLine _ _ _ _ _ _ _ _
      clear_value w s2
      refine SameBud.ite (fun _ => h.rxWait _ _ _ _ _ _) fun _ => ?_
      split
      · exact hr.rxWait _ _ _ _ _ _
      · refine SameBud.ite (fun _ => hr.rxWait _ _ _ _ _ _) fun _ => SameBud.ite (fun _ => (hr.snoops _ _).rxWait _ _ _ _ _ _) fun _ =>
          SameBud.ite (fun _ => h2.ctxNak _ _ _) fun _ => SameBud.ite (fun _ => hfin _ _ (h2.readTouch _ _ _ _)) fun _ => ?_
        split
        · exact h2.rxRnr _ _ _ _ _ _
        · exact h2.rxWait _ _ _ _ _ _
        · refine SameBud.ite (fun _ => h2.rxRnr _ _ _ _ _ _) fun _ => ?_
          split
          · exact hw.rxWait _ _ _ _ _ _
          · exact hfin _ _ hw

theorem SameBud.rxExpected (h : SameBud s0 s) (x : Nat) (c : RCtx) (p : Pkt) : SameBud s0 (s.rxExpected x c p) :=
  SameBud.ite (fun _ => h.rxWrite x c p false) fun _ => SameBud.ite (fun _ => h.rxRead x c p) fun _ => SameBud.ite (fun _ => h.rxAtomic x c p) fun _ =>
    SameBud.ite (fun _ => h.off (State.rxDone_in (In.refl _ _) rfl)) fun _ => h.ctxNak _ _ _

theorem SameBud.rxDup (h : SameBud s0 s) (x : Nat) (c : RCtx) (p : Pkt) : SameBud s0 (s.rxDup x c p) := by
  have h1 : SameBud s0 (s.count .RAE_DUP_CNT 0 .RAE_FLAGS_CNT_OVF 0 2) := h.off (State.count_in (In.refl _ _) rfl rfl rfl)
  unfold State.rxDup
  refine SameBud.ite (fun _ => readsRun_sameBud _ _ (h1.updCtx _ _)) fun _ => SameBud.ite (fun _ => ?_) fun _ => ?_
  · split
    · exact h1.ctxSend _ _ _ _ _
    · exact h1.ctxNak _ _ _
  · extract_lets s2
    have h2 : SameBud s0 s2 := SameBud.ite (fun _ => h1.off (State.cumAck_in (In.refl _ _) rfl)) fun _ => h1
    split
    · exact h2.ctxSend _ _ _ _ _
    · exact h2

theorem SameBud.rxAhead (h : SameBud s0 s) (x : Nat) (c : RCtx) (p : Pkt) : SameBud s0 (s.rxAhead x c p) :=
  SameBud.ite (fun _ => h) fun _ => SameBud.ite (fun _ => h.rxDup x c p) fun _ =>
    SameBud.ite (fun _ => SameBud.ite (fun _ => h) fun _ => h.off (State.rxPark_in (In.refl _ _) rfl)) fun _ =>
    SameBud.ite (fun _ => h.rxWrite x c p true) fun _ => SameBud.ite (fun _ => h) fun _ => (h.updCtx _ _).seqNak x c

theorem SameBud.rxProcess (h : SameBud s0 s) (x : Nat) (p : Pkt) : SameBud s0 (s.rxProcess x p) := by
  unfold State.rxProcess
  split
  · exact h
  · exact SameBud.ite (fun _ => h.rxExpected x _ p) fun _ => SameBud.ite (fun _ => h.rxDup x _ p) fun _ =>
      SameBud.ite (fun _ => h.seqNak x _) fun _ => h.rxAhead x _ p

theorem rxNext_sameBud (n x : Nat) (h : SameBud s0 s) : SameBud s0 (State.rxNext n x s) := by
  induction n generalizing s with
  | zero => exact h
  | succ n ih =>
    unfold State.rxNext
    split
    · exact h
    · refine SameBud.ite (fun _ => h) fun _ => ?_
      split
      · exact ih ((h.putCtx _ _).rxProcess _ _)
      · split
        · exact h
        · exact ih ((h.putCtx _ _).rxProcess _ _)

theorem SameBud.rxGo (h : SameBud s0 s) (x : Nat) : SameBud s0 (s.rxGo x) := by
  unfold State.rxGo
  split
  · exact h
  · extract_lets n
    split
    · exact rxNext_sameBud _ _ ((h.putCtx _ _).rxProcess _ _)
    · exact rxNext_sameBud _ _ h

/-! ### A pass over the contexts -/

theorem SameBud.raeCtx (h : SameBud s0 s) (x : Nat) : SameBud s0 (s.raeCtx x) := by
  unfold State.raeCtx
  split
  · exact h
  · rename_i c _
    refine SameBud.ite (fun _ => SameBud.ite (fun _ => h.off (State.ctxUse_in (In.refl _ _) rfl)) fun _ => h) fun _ => ?_
    extract_lets s1 s2 s3
    have h2 : SameBud s0 s2 := examine_sameBud 64 x (readsRun_sameBud _ x (h.rxGo x))
    have h3 : SameBud s0 s3 := by
      unfold s3
      split
      · exact SameBud.each (sendNext_sameBud _ x h2) _ fun _ r hu => hu.storeRead x r
      · exact h2
    exact h3.completeAll x

theorem raePass_sameBud (n : Nat) (h : SameBud s0 s) : SameBud s0 (State.raePass n s) := by
  induction n generalizing s with
  | zero => exact h
  | succ n ih =>
    have ht : SameBud s0 (s.each (s.rae.ctxs.map (·.1.1)) State.raeCtx).flushSlots := SameBud.flushSlots (h.each _ fun _ x hu => hu.raeCtx x)
    exact SameBud.ite (fun _ => h) fun _ => ih ht

theorem SameBud.raeRun (h : SameBud s0 s) : SameBud s0 s.raeRun :=
  SameBud.ite (fun _ => h) fun _ => SameBud.off (raePass_sameBud 8 h) (State.raeRegs_in (In.refl _ _) rfl)

end

end Sys2Proof.Machine
end

section
/-! The tick boundary, warm resets and function-level resets (01_architecture.md R11 to R13, 03_float_governor.md R65,
10_dram_controller.md R253, 20_register_map.md R466, R467, R471): O57. -/

namespace Sys2Proof.Machine

/-! ### The budgets of the next tick -/

/-- What the engines behind the fabric do in a tick once its budgets are set. -/
def State.fabricRest (s : State) (x : TickIn) : State :=
  let s := s.makeUp.ageSweep
  let s := s.when (!s.draining) State.closeAll
  let s := s.testSlice x
  let s := s.scrubTick x.scrub
  let s := s.each x.repair fun s e => s.repairSlice e.1 e.2
  let s := s.each (List.range 12) fun s c => s.retrainSlice c (x.retrain.getD c (0, 0, 0, 0))
  { s with drc := { s.drc with nr := [] } }.tickRetry.reshareAll

theorem State.fabricTick_eq (s : State) (x : TickIn) : s.fabricTick x = (s.when (!s.draining) State.publishLimit).budgets.fabricRest x := rfl

section
variable {s0 s : State}

theorem SameBud.sweep (h : SameBud s0 s) : SameBud s0 s.makeUp.ageSweep := h.off (State.ageSweep_in (State.makeUp_in (In.refl _ _) rfl) rfl)

theorem SameBud.repairs (h : SameBud s0 s) (x : TickIn) : SameBud s0 (s.each x.repair fun s e => s.repairSlice e.1 e.2) :=
  h.each _ fun _ _ hu => hu.off (State.repairSlice_in (In.refl _ _) rfl)

theorem SameBud.retrains (h : SameBud s0 s) (x : TickIn) :
    SameBud s0 (s.each (List.range 12) fun s c => s.retrainSlice c (x.retrain.getD c (0, 0, 0, 0))) := h.each _ fun _ c hu => hu.retrainSlice c _

theorem SameBud.reshareAll (h : SameBud s0 s) : SameBud s0 s.reshareAll := h.off (State.reshareAll_in (In.refl _ _) rfl)

theorem SameBud.fabricRest (h : SameBud s0 s) (x : TickIn) : SameBud s0 (s.fabricRest x) := by
  unfold State.fabricRest
  extract_lets s1 s2 s3 s4 s5 s6 src
  have h1 : SameBud s0 s1 := h.sweep
  clear_value s1
  have h2 : SameBud s0 s2 := h1.when (h1.off (State.closeAll_in (In.refl _ _) rfl))
  clear_value s2
  have h6 : SameBud s0 s6 := (((h2.testSlice x).scrubTick x.scrub).repairs x).retrains x
  clear_value s6
  exact (SameBud.tickRetry (s := { s6 with drc := { s6.drc with nr := [] } }) h6).reshareAll

theorem SameBud.tickTime (h : SameBud s0 s) : SameBud s0 s.tickTime := h.off (State.wr_in (In.refl _ _) rfl)

theorem SameBud.tickPins (h : SameBud s0 s) (x : TickIn) : SameBud s0 (s.tickPins x) :=
  h.off (State.heldAlerts_in (State.senseTick_in (State.dieRead_in (State.wr_in (In.refl _ _) rfl) rfl) rfl) rfl)

theorem SameBud.tickTurn (h : SameBud s0 s) : SameBud s0 s.tickTurn := by
  have hnum : SameBud s0 (s.wr .TICK_NUMBER ((s.rd .TICK_NUMBER + 1) % 2 ^ 64)) := h.off (State.wr_in (In.refl _ _) rfl)
  exact hnum

theorem SameBud.limitCompute (h : SameBud s0 s) : SameBud s0 s.limitCompute := h.off (State.limitCompute_in (In.refl _ _) rfl)

end

/-- What follows the work of a tick leaves the budgets. -/
theorem State.tickRest_bud (s : State) (x : TickIn) : SameBud s (s.tickTime.tickPins x).tickTurn.limitCompute.raeRun :=
  ((SameBud.refl s).tickTime.tickPins x).tickTurn.limitCompute.raeRun

/-! ### What a tick reads and what it leaves -/

/-- Every part, and every field but the supervisor's state and rails, the divider and those of the budgets. -/
def offTickReads : Foot :=
  (2 ^ 28 - 1 ||| Foot.allFlds) ^^^ (Fld.SEQ_STATE.foot ||| Fld.RAIL_EN_OUT.foot ||| Fld.HOLDUP_INVERT.foot ||| Fld.HOLDUP_DIV.foot |||
    Fld.TICK_PERIOD.foot ||| Fld.DATA_MTS.foot ||| Fld.BUDGET_SC0.foot ||| Fld.BUDGET_SC1.foot ||| Fld.BUDGET_SC2.foot ||| Fld.BUDGET_SC3.foot)

/-- Every part, and every field but the supervisor's state and rails, the rail monitors and the store voltage. -/
def offTickPosts : Foot :=
  (2 ^ 28 - 1 ||| Foot.allFlds) ^^^ (Fld.SEQ_STATE.foot ||| Fld.RAIL_EN_OUT.foot ||| Fld.RAIL_PG_IN.foot ||| Fld.HOLDUP_MV.foot)

theorem State.tickReports_reads (s : State) : In offTickReads s s.tickReports := by
  have hlate : In offTickReads s s.lateRecords := State.lateRecords_in (In.refl _ _) rfl
  have hstart : In offTickReads s { s.lateRecords with once := [], glb := { s.lateRecords.glb with intSent := false } } :=
    hlate.upd [.glb, .once] rfl rfl rfl (fun p hp => by cases p <;> first | rfl | simp at hp) (by decide)
  exact in_ite (State.intSend_in hstart rfl) hstart

theorem State.tickWork_reads (s : State) (x : TickIn) : In offTickReads s (s.tickWork x) :=
  in_ite (State.fabricTick_in (State.dramTick_in s.tickReports_reads rfl) rfl) s.tickReports_reads

/-- The state whose registers set the budgets. -/
def State.tickLimits (s : State) (x : TickIn) : State :=
  (s.tickReports.dramTick x.slots).when (!(s.tickReports.dramTick x.slots).draining) State.publishLimit

theorem State.tickLimits_reads (s : State) (x : TickIn) : In offTickReads s (s.tickLimits x) :=
  State.when_in (State.dramTick_in s.tickReports_reads rfl) fun _ h => State.publishLimit_in h rfl

theorem State.tickWork_bud {s : State} (x : TickIn) (hup : s.fabricUp = true) : (s.tickWork x).drc.bud =
    [Fld.BUDGET_SC0, .BUDGET_SC1, .BUDGET_SC2, .BUDGET_SC3].map fun f => s.rd f * (s.rd .TICK_PERIOD * 40 * s.rd .DATA_MTS / 16000) / 256 := by
  have hseq : s.tickReports.rd .SEQ_STATE = s.rd .SEQ_STATE := s.tickReports_reads.regs _ 0 rfl
  have hup' : s.tickReports.fabricUp = true := by rw [State.fabricUp, hseq, ← State.fabricUp, hup]
  have hwork : s.tickWork x = (s.tickReports.dramTick x.slots).fabricTick x := if_pos hup'
  have hin := s.tickLimits_reads x
  have hper : (s.tickLimits x).rd .TICK_PERIOD = s.rd .TICK_PERIOD := hin.regs _ 0 rfl
  have hmts : (s.tickLimits x).rd .DATA_MTS = s.rd .DATA_MTS := hin.regs _ 0 rfl
  have h0 : (s.tickLimits x).rd .BUDGET_SC0 = s.rd .BUDGET_SC0 := hin.regs _ 0 rfl
  have h1 : (s.tickLimits x).rd .BUDGET_SC1 = s.rd .BUDGET_SC1 := hin.regs _ 0 rfl
  have h2 : (s.tickLimits x).rd .BUDGET_SC2 = s.rd .BUDGET_SC2 := hin.regs _ 0 rfl
  have h3 : (s.tickLimits x).rd .BUDGET_SC3 = s.rd .BUDGET_SC3 := hin.regs _ 0 rfl
  have hbud : (s.tickLimits x).budgets.drc.bud = [Fld.BUDGET_SC0, .BUDGET_SC1, .BUDGET_SC2, .BUDGET_SC3].map fun f =>
      (s.tickLimits x).rd f * ((s.tickLimits x).rd .TICK_PERIOD * 40 * (s.tickLimits x).rd .DATA_MTS / 16000) / 256 := rfl
  have hrest : SameBud (s.tickLimits x).budgets (s.tickWork x) := by
    rw [hwork, State.fabricTick_eq]
    exact SameBud.fabricRest (SameBud.refl _) x
  refine hrest.eq.trans (hbud.trans ?_)
  simp only [List.map_cons, List.map_nil, hper, hmts, h0, h1, h2, h3]

/-! ### The rail monitors and the store voltage -/

theorem Fld.store_RAIL_PG_IN (v : Nat) : Fld.store .RAIL_PG_IN 0 v = v % 2 ^ 24 := Fld.store_full rfl 0 v

/-- What sensing does after the filtered voltage is stored. -/
def State.senseRest (s : State) : State :=
  let s := s.senseCond s.fgv.mismatch (s.fl .SNS_OPEN)
  let s := if s.fl .SNS_NEG && !s.fl .HOLDUP_INVERT then s.senseFault .HOLDUP_REVERSED 2 else s
  s.senseClear.firstReading

theorem State.senseTick_eq (s : State) (mv : Int) : s.senseTick mv = (s.wr .HOLDUP_MV (s.storeMv mv)).senseRest := rfl

theorem State.senseRest_posts (s : State) : In offTickPosts s s.senseRest := by
  unfold State.senseRest
  extract_lets s1 s2
  have h1 : In offTickPosts s s1 := State.senseCond_in (In.refl _ _) rfl
  have h2 : In offTickPosts s s2 := in_ite (State.senseFault_in h1 rfl rfl) h1
  exact State.firstReading_in (State.senseClear_in h2 rfl) rfl

theorem State.tickTurn_posts (s : State) : In offTickPosts s s.tickTurn := by
  have hnum : In offTickPosts s (s.wr .TICK_NUMBER ((s.rd .TICK_NUMBER + 1) % 2 ^ 64)) := State.wr_in (In.refl _ _) rfl
  exact hnum.upd [.glb] rfl rfl rfl (fun p hp => by cases p <;> first | rfl | simp at hp) (by decide)

/-- What a tick posts: the rail monitors, and the store voltage as the divider and the inversion scale it. -/
theorem State.tickRest_posts {s : State} (hok : regsOk s.regs = true) (x : TickIn) (t : State)
    (ht : t = (s.tickTime.tickPins x).tickTurn.limitCompute.raeRun) : t.rd .RAIL_PG_IN = x.pg % 2 ^ 24 ∧
      t.rd .HOLDUP_MV = min 65535 ((if s.fl .HOLDUP_INVERT then -x.mv else x.mv) * (s.rd .HOLDUP_DIV : Int) / 100).toNat ∧
      t.rd .SEQ_STATE = s.rd .SEQ_STATE ∧ t.rd .RAIL_EN_OUT = s.rd .RAIL_EN_OUT := by
  obtain ⟨u, hu⟩ : ∃ u : State, u = (s.tickTime.wr .RAIL_PG_IN x.pg).dieRead x.die := ⟨_, rfl⟩
  have htime : In offTickReads s s.tickTime := State.wr_in (In.refl _ _) rfl
  have hread : In offTickReads s u := by
    rw [hu]
    exact State.dieRead_in (State.wr_in htime rfl) rfl
  have hdie : In offTickPosts (s.tickTime.wr .RAIL_PG_IN x.pg) u := by
    rw [hu]
    exact State.dieRead_in (In.refl _ _) rfl
  have hpg : u.rd .RAIL_PG_IN = x.pg % 2 ^ 24 := by
    have hset : (s.tickTime.wr .RAIL_PG_IN x.pg).rd .RAIL_PG_IN = Fld.store .RAIL_PG_IN 0 x.pg := State.rdi_wri _ _ _ (regsOk_mwf (htime.regsOk hok))
    exact (hdie.regs .RAIL_PG_IN 0 rfl).trans (hset.trans (Fld.store_RAIL_PG_IN _))
  obtain ⟨v, hv⟩ : ∃ v : State, v = u.wr .HOLDUP_MV (u.storeMv x.mv) := ⟨_, rfl⟩
  have hpins : s.tickTime.tickPins x = v.senseRest.heldAlerts := by
    rw [hv, hu, ← State.senseTick_eq] <;> rfl
  have hend : In offTickPosts v t := by
    rw [ht, hpins]
    exact State.raeRun_in (State.limitCompute_in ((State.heldAlerts_in v.senseRest_posts rfl).trans (State.tickTurn_posts _)) rfl) rfl
  have hother : ∀ f, .HOLDUP_MV ≠ f → v.rd f = u.rd f := fun f hf => by rw [hv, State.rd_wr_ne _ hf]
  have hmv : v.rd .HOLDUP_MV = u.storeMv x.mv := by
    rw [hv]
    exact State.rd_wr (hread.regsOk hok) rfl (Nat.lt_of_le_of_lt (Nat.min_le_left _ _) (by decide))
  have hdiv : u.rd .HOLDUP_DIV = s.rd .HOLDUP_DIV := hread.regs _ 0 rfl
  have hinv : u.fl .HOLDUP_INVERT = s.fl .HOLDUP_INVERT := State.fl_eq (hread.regs _ 0 rfl)
  refine ⟨?_, ?_, ?_, ?_⟩
  · exact (hend.regs _ 0 rfl).trans ((hother _ (by decide)).trans hpg)
  · refine (hend.regs _ 0 rfl).trans (hmv.trans ?_)
    rw [State.storeMv, hdiv, hinv]
  · exact (hend.regs _ 0 rfl).trans ((hother _ (by decide)).trans (hread.regs _ 0 rfl))
  · exact (hend.regs _ 0 rfl).trans ((hother _ (by decide)).trans (hread.regs _ 0 rfl))

/-! ### Warm resets -/

theorem State.warmReset_regs {s : State} (hrun : s.draining = false) (cause : Nat) :
    (s.warmReset cause).regs = ((s.count .WARM_CNT 0 .GLB_FLAGS_CNT_OVF 0 0).wr .WARM_CAUSE cause).regs := by
  unfold State.warmReset
  extract_lets s1
  rw [hrun, if_neg (by decide)]
  split
  · rfl
  · exact State.each_same (g := fun u : State => u.regs) _ _ fun _ _ => rfl

/-- A warm reset outside a drain counts, takes its cause and leaves every other register but the Daybook's. -/
theorem State.warmReset_facts {s : State} (hok : regsOk s.regs = true) (hrun : s.draining = false) {cause : Nat} (hc : cause = 1 ∨ cause = 2) :
    (s.warmReset cause).rd .WARM_CNT = min (2 ^ 32 - 1) (s.rd .WARM_CNT + 1) ∧ (s.warmReset cause).rd .WARM_CAUSE = cause ∧
      ∀ f j, f ∉ Fld.WARM_CNT :: .WARM_CAUSE :: .GLB_FLAGS_CNT_OVF :: dbkFlds → (s.warmReset cause).rdi f j = s.rdi f j := by
  have hregs := State.warmReset_regs hrun cause
  have hcount := State.count_rdi hok (f := .WARM_CNT) (ovf := .GLB_FLAGS_CNT_OVF) rfl (by decide) (by decide) 0 0 0
  refine ⟨?_, ?_, fun f j hf => ?_⟩
  · rw [State.rd_congr hregs, State.rd_wr_ne _ (by decide)]
    exact hcount
  · rw [State.rd_congr hregs]
    exact State.rd_wr (regsOk_count hok _ _ _ _ _) rfl (by obtain rfl | rfl := hc <;> decide)
  · simp only [List.mem_cons, not_or] at hf
    obtain ⟨hcnt, hcause, hovf, hdbk⟩ := hf
    rw [State.rdi_congr hregs, State.wr, State.rdi_wri_ne _ (.inl (Ne.symm hcause)), State.count_rdi_of_ne s _ _ _ _ _ hcnt hovf hdbk]

/-! ### Function-level resets -/

theorem State.qpQuiet_qpEn {s : State} (hok : regsOk s.regs = true) (p q : Nat) :
    (s.qpQuiet p).fli .QP_EN q = (s.fli .QP_EN q && !(q == p)) := by
  obtain ⟨u, hquiet, hregs⟩ : ∃ u : State, s.qpQuiet p = (u.inflightReg p).cmdRegs ∧
      u.regs = ((s.setfi .QP_EN p false).setfi .RESET_BUSY p false).regs := ⟨_, rfl, rfl⟩
  have hrest : In (State.inflightReg_foot ||| State.cmdRegs_foot) u (s.qpQuiet p) := by
    rw [hquiet]
    exact State.cmdRegs_in (State.inflightReg_in (In.refl _ _) (by decide)) (by decide)
  have hread : (s.qpQuiet p).rdi .QP_EN q = (s.setfi .QP_EN p false).rdi .QP_EN q := by
    rw [hrest.regs _ _ (by decide), State.rdi_congr hregs, State.setfi_rdi_ne _ (by decide)]
  have hen : (s.qpQuiet p).fli .QP_EN q = (s.setfi .QP_EN p false).fli .QP_EN q := by rw [State.fli, hread, ← State.fli]
  rw [hen]
  rcases eq_or_ne q p with rfl | hne
  · rw [State.fli_setfi hok rfl (by decide)]
    simp
  · have hsame : (s.setfi .QP_EN p false).rdi .QP_EN q = s.rdi .QP_EN q := State.rdi_wri_ne _ (.inr (Ne.symm hne))
    rw [State.fli, hsame, ← State.fli]
    simp [hne]

theorem State.qpSilence_qpEn {s : State} (hok : regsOk s.regs = true) (p q : Nat) :
    (s.qpSilence p).fli .QP_EN q = (s.fli .QP_EN q && !(q == p)) := by
  rw [State.qpSilence_eq]
  split
  case isTrue hoff =>
    rcases eq_or_ne q p with rfl | hne
    · simpa using hoff
    · simp [hne]
  case isFalse =>
    obtain ⟨u, hu⟩ : ∃ u : State, u = s.dropCmds fun c => c.qp == p && c.ph == .waiting := ⟨_, rfl⟩
    have hdrop : In State.dropCmds_foot s u := by
      rw [hu]
      exact State.dropCmds_in (In.refl _ _) (Foot.le_refl _)
    have hen : u.fli .QP_EN q = s.fli .QP_EN q := by rw [State.fli, hdrop.regs _ _ (by decide), ← State.fli]
    rw [← hu, State.qpQuiet_qpEn (hdrop.regsOk hok), hen]

theorem State.qpsSilence_qpEn {s : State} (hok : regsOk s.regs = true) (l : List Nat) (q : Nat) :
    (s.each l State.qpSilence).fli .QP_EN q = (s.fli .QP_EN q && !l.contains q) := by
  induction l generalizing s with
  | nil => simp [State.each]
  | cons p l ih =>
    have hok' : regsOk (s.qpSilence p).regs = true := (State.qpSilence_in (ft := State.qpSilence_foot) (In.refl _ s) (Foot.le_refl _)).regsOk hok
    refine (ih hok').trans ?_
    rw [State.qpSilence_qpEn hok, List.contains_cons, Bool.not_or, Bool.and_assoc]

theorem State.qpsOn_contains (s : State) {link ld q : Nat} (hq : q < 1024) : (s.qpsOn fun k j => k == link && j == ld).contains q =
    (s.fli .CMD_QP_ASSIGN_ASSIGNED q && s.rdi .CMD_QP_ASSIGN_LINK q == link && s.rdi .CMD_QP_ASSIGN_LD q == ld) := by
  rw [Bool.eq_iff_iff, State.qpsOn, List.contains_iff_mem, List.mem_filter, List.mem_range]
  simp [hq, and_assoc]

/-! ### The four rows -/

theorem exec_tickBoundary_posts {s : State} (x : TickIn) (hinv : s.Inv) : ∃ t, exec (.tickBoundary x) s = .next t ∧ t.rd .RAIL_PG_IN = x.pg % 2 ^ 24 ∧
    t.rd .HOLDUP_MV = min 65535 ((if s.fl .HOLDUP_INVERT then -x.mv else x.mv) * (s.rd .HOLDUP_DIV : Int) / 100).toNat ∧
    t.rd .SEQ_STATE = s.rd .SEQ_STATE ∧ t.rd .RAIL_EN_OUT = s.rd .RAIL_EN_OUT ∧
    (s.fabricUp = true → t.drc.bud = [Fld.BUDGET_SC0, .BUDGET_SC1, .BUDGET_SC2, .BUDGET_SC3].map fun f =>
      s.rd f * (s.rd .TICK_PERIOD * 40 * s.rd .DATA_MTS / 16000) / 256) := by
  have hin := s.tickWork_reads x
  have hseq : (s.tickWork x).rd .SEQ_STATE = s.rd .SEQ_STATE := hin.regs _ 0 rfl
  have hrail : (s.tickWork x).rd .RAIL_EN_OUT = s.rd .RAIL_EN_OUT := hin.regs _ 0 rfl
  have hdiv : (s.tickWork x).rd .HOLDUP_DIV = s.rd .HOLDUP_DIV := hin.regs _ 0 rfl
  have hneg : (s.tickWork x).fl .HOLDUP_INVERT = s.fl .HOLDUP_INVERT := State.fl_eq (hin.regs _ 0 rfl)
  have hbud := (s.tickWork x).tickRest_bud x
  obtain ⟨t, ht⟩ : ∃ t, t = ((s.tickWork x).tickTime.tickPins x).tickTurn.limitCompute.raeRun := ⟨_, rfl⟩
  obtain ⟨hpg, hmv, hstate, hen⟩ := State.tickRest_posts (hin.regsOk hinv.1) x t ht
  rw [← ht] at hbud
  refine ⟨t, (exec_tickBoundary x s).trans (by rw [ht]), hpg, ?_, hstate.trans hseq, hen.trans hrail, fun hup => hbud.eq.trans (State.tickWork_bud x hup)⟩
  rw [hmv, hdiv, hneg]

theorem exec_warmRst {s : State} (hrun : s.draining = false) : exec .warmRst s = .next (s.warmReset 1) :=
  congrArg Host.Outcome.next (State.barWrite_of_running hrun _)

theorem exec_watchdogExpiry (s : State) : exec .watchdogExpiry s = .next (if s.rd .WDOG_MS = 0 then s else s.warmReset 2) := rfl

theorem exec_wdogKick {s : State} (hrun : s.draining = false) : exec .wdogKick s = .next s :=
  congrArg Host.Outcome.next (State.barWrite_of_running hrun _)

theorem exec_watchdogExpiry_idle {s : State} (h : s.rd .WDOG_MS = 0 ∨ s.draining = true) : exec .watchdogExpiry s = .next s := by
  rw [exec_watchdogExpiry]
  by_cases hms : s.rd .WDOG_MS = 0
  · rw [if_pos hms]
  · rw [if_neg hms, State.warmReset, if_pos (h.resolve_left hms)]

theorem State.unlatch_latch {s : State} (h : mwf s.glb.latches = true) (fn : Nat) : mget (s.unlatch fn).glb.latches (fn, 0) = none := mget_mdel _ h

theorem exec_functionLevelReset {s : State} {link ld : Nat} (hld : s.ldExists link ld = true) : exec (.functionLevelReset link ld) s =
    .next ((s.each (s.qpsOn fun k j => k == link && j == ld) State.qpSilence).unlatch (ldIx link ld)) :=
  congrArg Host.Outcome.next (if_neg (by rw [hld]; decide))

/-- Settles O57: the budgets stand through everything that follows them in a tick, and what follows the pins leaves what they post. -/
theorem ticksAndResets : Obligations.TicksAndResets := by
  unfold Obligations.TicksAndResets
  refine ⟨fun s x hinv => exec_tickBoundary_posts x hinv, ?warm, fun s => ⟨exec_watchdogExpiry_idle, exec_wdogKick⟩, ?flr⟩
  case warm =>
    intro s i cause hinv hrun hrow
    obtain ⟨rfl, rfl⟩ | ⟨rfl, rfl, hms⟩ := hrow
    · exact ⟨s.warmReset 1, exec_warmRst hrun, State.warmReset_facts hinv.1 hrun (.inl rfl)⟩
    · exact ⟨s.warmReset 2, (exec_watchdogExpiry s).trans (by rw [if_neg hms]), State.warmReset_facts hinv.1 hrun (.inr rfl)⟩
  case flr =>
    intro s link ld hinv hlatch hld
    have hin := (s.qpsSilence_facts (s.qpsOn fun k j => k == link && j == ld)).2.1
    refine ⟨_, exec_functionLevelReset hld, State.unlatch_latch ?_ _, fun q hq => ?_⟩
    · rw [hin.parts .glb (by decide)]
      exact hlatch
    · have hen : ∀ u : State, (u.unlatch (ldIx link ld)).fli .QP_EN q = u.fli .QP_EN q := fun _ => rfl
      rw [hen, State.qpsSilence_qpEn hinv.1, State.qpsOn_contains s hq]

end Sys2Proof.Machine
end
